-- ==== Sys2Proof/Word.lean ====
section
/-! DEFINITION. Bytes, words and the two containers of the model: sparse tables and byte memories. -/

namespace Sys2Proof

/-- One byte; bit 0 is its least significant bit (R8). -/
abbrev Byte := BitVec 8

/-- A 32-bit register or field. -/
abbrev Word := BitVec 32

/-- A table of entries by number, in canonical form with respect to a default: keys strictly rising and no entry
equal to the default. -/
abbrev Sparse (α : Type) := List (Nat × α)

/-- The word of a cell instruction below its 6-bit opcode (R147). -/
abbrev CellWord := BitVec 26

/-- Number of bits set. -/
def popcount {w : Nat} (v : BitVec w) : Nat := ((List.range w).filter (fun i => v.getLsbD i)).length

/-- Add one without passing the largest value: a saturating counter. -/
def satInc {w : Nat} (v : BitVec w) : BitVec w := if v.toNat + 1 < 2 ^ w then v + 1 else v

/-- Add `n` without passing the largest value. -/
def satAdd {w : Nat} (v : BitVec w) (n : Nat) : BitVec w :=
  if v.toNat + n < 2 ^ w then v + BitVec.ofNat w n else BitVec.ofNat w (2 ^ w - 1)

end Sys2Proof
end

