-- ==== Sys2Proof/Syntax.lean ====
section
/-! DEFINITION. The commands and events the part takes, with their operands. -/

namespace Sys2Proof

/-- Where a command entry came from: a submission ring (R363) or one of the three mailboxes (R370, R450). -/
inductive Src where
  | ring (c : Nat)
  | mailbox
  | smbus
  | uart
deriving DecidableEq, Repr

/-- What every command entry carries besides its parameters (R373): its source, its TAG, and the bytes that must be 0
(the OR of them, for the BAD_FIELD check of R376). -/
structure CmdHdr where
  src : Src
  tag : BitVec 32
  reserved : BitVec 32
deriving DecidableEq, Repr

/-- What a read of a host buffer gave the part (R327). -/
inductive HostRead where
  | data (bytes : List Byte)
  | busError
deriving DecidableEq, Repr

/-- What the host read of a submission entry gave (R368). -/
inductive FetchResult where
  | data (bytes : List Byte)
  | unsupported
  | aborted
  | poisoned
  | timeout
deriving DecidableEq, Repr

/-- A cell: die, physical clause 0-65, cell 0-15. -/
structure CellId where
  die : Nat
  clause : Nat
  cell : Nat
deriving DecidableEq, Repr

/-- The parameters of JOB_OPEN as R390 lays them out. -/
structure JobParams where
  jobId : BitVec 32
  npages : BitVec 8
  start : BitVec 8
  gutter : BitVec 16
  rounds : BitVec 32
  noOverlay : BitVec 8
  pages : List (BitVec 32)
deriving DecidableEq, Repr

/-- An event log entry before the package manager gives it its SEQ (R445): CODE, die, severity, layout, TIME and the 16
bytes of DATA. -/
structure LogEntry where
  code : BitVec 16
  die : Nat
  severity : Nat
  layout : Nat
  time : BitVec 64
  data : List Byte
deriving DecidableEq, Repr

/-- The on-chip arrays that the row-and-column code covers (R284). -/
inductive ArrKind where
  | bank
  | tcm
  | cellInstr
  | cellData
  | bandRing
  | outRing
deriving DecidableEq, Repr

/-- One aligned 8-byte block of an array: the array's owner (die for banks and TCM; clause or cell number for the others)
and the block's number in it. -/
structure ArrBlock where
  kind : ArrKind
  owner : Nat
  blk : Nat
deriving DecidableEq, Repr

/-- The queues of R297 and R300. -/
inductive QRef where
  | command (src : Src)
  | event (die : Nat)
  | telemetry (die : Nat)
  | trace (die : Nat)
  | cellIn (ci : CellId)
  | cellOut (ci : CellId)
  | cellPort (ci : CellId) (right : Bool)
  | halo (die k : Nat) (right : Bool)
  | ingress (die port : Nat)
deriving DecidableEq, Repr

/-- An item pushed into a queue. -/
inductive QItem where
  | bytes (b : List Byte)
  | entry (e : LogEntry)
  | word (w : BitVec 64)
  | vec (v : BitVec 128)
deriving DecidableEq, Repr

/-- Who asks the DRAM controller (R309, R310). -/
inductive DReader where
  | band (clause : Nat)
  | cache
  | dma (ch : Nat)
  | manager
  | scrubber
  | bar2
deriving DecidableEq, Repr

/-- A DRAM request: 1-512 bytes of one unit at a die address (R310). -/
structure DReq where
  id : Nat
  reader : DReader
  addr : Nat
  len : Nat
  write : Bool
  data : List Byte
deriving DecidableEq, Repr

/-- Bits of a block of a DRAM channel and of its check record that flip, by the block's channel offset (R307; assumption 39). -/
structure DramUpset where
  off : Nat
  data : BitVec 512
  record : BitVec 64
deriving DecidableEq, Repr

/-- Bits of a training row that a helper wrote or read wrong: the 32 DQ bits of one beat (R317; assumption 40). -/
structure TrnErr where
  row : Nat
  beat : Nat
  dq : BitVec 32
deriving DecidableEq, Repr

/-- The fields of a shadow register set as the die manager loads them (R328). -/
structure DmaSet where
  src : BitVec 64
  dst : BitVec 64
  count : BitVec 24
  evt : Bool
  evtLine : BitVec 8
  wait : Bool
deriving DecidableEq, Repr

/-- How an access of a DMA channel ended (R327, R340). -/
inductive DmaErr where
  | ok
  | srcBus
  | dstBus
  | poison
deriving DecidableEq, Repr

/-- A packet of the package fabric by class (R360). -/
inductive FabPkt where
  | time (e t : Nat) (count : BitVec 32)
  | halo (die k : Nat) (right : Bool) (v : BitVec 128)
  | heartbeat (die : Nat)
  | event (e : LogEntry)
  | access
  | block (addr : BitVec 64) (data : List Byte)
deriving DecidableEq, Repr

/-- A frame received from a head board (R231-R233): its SOF block, data bytes and EOF block, and the control blocks that failed their check
or have an unknown TBT among its positions (R220). -/
structure UpFrame where
  sof : List Byte
  data : List Byte
  eof : List Byte
  bad : List (List Byte) := []
deriving DecidableEq, Repr

/-- What a lane's receiver has made of the training words so far (R224, R225): RX_READY, its tap requests in bits [23:19], and its
linear-equaliser and first feedback-tap settings. -/
structure LaneRx where
  ready : Bool
  request : BitVec 32
  ctle : BitVec 4
  dfe1 : BitVec 8
deriving DecidableEq, Repr

/-- What a lane's receiver sees (R226): the ticks of invalid sync headers, in order, and whether block lock was lost. -/
structure LaneSigns where
  lane : Nat
  invalid : List Nat := []
  unlocked : Bool := false
deriving DecidableEq, Repr

/-- The debounced inputs of an axis (R412). -/
inductive Switch where
  | home
  | limP
  | limN
deriving DecidableEq, Repr

/-- Bits of a code word that are stuck (R293): those of `mask` read as in `val` whatever is written. `spare` names the word of that place
in a spare row of the block's array, by the spare row's number. -/
structure StuckBits where
  blk : ArrBlock
  spare : Option Nat
  mask : BitVec 80
  val : BitVec 80
deriving DecidableEq, Repr

/-- An access through port 1 of the die banks (R279, R281-R283): by the management core (66), the DMA channels or the host (67) or the
memory engine (68); a read of some bytes, a write, or one of the core's two atomics on a halfword. -/
inductive SysAccess where
  | read (master addr n : Nat)
  | write (master addr : Nat) (bytes : List Byte)
  | atomic (addr : Nat) (replace : Bool) (v : BitVec 16)
deriving DecidableEq, Repr

/-- A request to the endpoint's own space: a configuration read or write of a dword (R348), a write of Enable and Function Mask in the MSI-X
capability's Message Control, whose place the manual does not give, or an access to a dword of BAR4, the MSI-X table and PBA (R352, R354). -/
inductive CfgReq where
  | read (reg : Nat)
  | write (reg : Nat) (v : BitVec 32) (be : BitVec 4)
  | msixControl (enable mask : Bool)
  | tableRead (off : Nat)
  | tableWrite (off : Nat) (v : BitVec 32)
deriving DecidableEq, Repr

/-- What a start-up stage found: the dies that failed it with the cause of PWR_START (R473, R480); in stage 2 the defects that its march
meets (R292-R294); the levels of DIALECT[1:0] and SMBADDR[1:0] at the stage's start, which a warm start-up latches in stage 1 (R471, R499); in
stage 5 the DRAM
channels, by die and channel, whose reused settings fail their verify (R318). -/
structure StageResult where
  failed : List (Nat × BitVec 8)
  defects : List StuckBits
  dialectPins : BitVec 2 := 0
  smbPins : BitVec 2 := 0
  verifyBad : List (Nat × Nat) := []
deriving DecidableEq, Repr

/-- The commands and events of the part: one constructor per row of opcode_table.json (R377: each row is one step). -/
inductive Instr where
  /-- NOP (R383): Command that does nothing and posts an empty result. -/
  | nop (h : CmdHdr)
  /-- IDENTIFY (R383): Command that returns die count, stepping, ROM release, grade, patch level, Dialect state and serial number. -/
  | identify (h : CmdHdr)
  /-- POWER (R383): Command that sets the resting power state, entering Dormant only at rest. -/
  | power (h : CmdHdr) (st : BitVec 8)
  /-- RESET (R384): Command that starts a warm reset, refused while a job is open unless FORCE is set. -/
  | reset (h : CmdHdr) (scope : BitVec 8) (force : BitVec 8)
  /-- DIALECT_SELECT (R385): Command that starts the two-pass load of a named Dialect slot under the switch rules. -/
  | dialectSelect (h : CmdHdr) (slot : BitVec 8)
  /-- DIALECT_INFO (R385): Command that reads and CRC-checks the Dialect and Grammar headers of a slot. -/
  | dialectInfo (h : CmdHdr) (slot : BitVec 8)
  /-- KEY_PROGRAM (R386): KEY_OP operation that programs an Ed25519 public key into an empty key slot after checking the authorisation record. -/
  | keyProgram (h : CmdHdr) (addr : BitVec 64) (rd : HostRead)
  /-- KEY_REVOKE (R386): KEY_OP operation that revokes a programmed key slot, keeping at least one usable slot. -/
  | keyRevoke (h : CmdHdr) (addr : BitVec 64) (rd : HostRead)
  /-- KEY_ROLLBACK (R386): KEY_OP operation that raises the fused rollback counter. -/
  | keyRollback (h : CmdHdr) (addr : BitVec 64) (rd : HostRead)
  /-- PAGE_DEFINE (R387): Command that defines a page's ID, band count and rows. -/
  | pageDefine (h : CmdHdr) (id : BitVec 32) (bands : BitVec 16) (rows : BitVec 64)
  /-- PAGE_DELETE (R387): Command that deletes a page and frees all its blocks. -/
  | pageDelete (h : CmdHdr) (id : BitVec 32)
  /-- PAGE_INFO (R387): Command that reports a page's completeness and block counts. -/
  | pageInfo (h : CmdHdr) (id : BitVec 32)
  /-- LOAD_BLOCKS (R388): Long command that places the blocks of a host stream in order, stopping at the first refused block. -/
  | loadBlocks (h : CmdHdr) (addr : BitVec 64) (len : BitVec 32) (flags : BitVec 16) (rd : HostRead)
  /-- OVERLAY_CLOSE (R387): Command that closes the overlay sets of a range of copies of a page. -/
  | overlayClose (h : CmdHdr) (id : BitVec 32) (first : BitVec 32) (count : BitVec 16)
  /-- JOB_OPEN (R391): Command that checks and opens a job ARMED, brings its links out of idle and stops moving service axes of covered groups. -/
  | jobOpen (h : CmdHdr) (p : JobParams)
  /-- JOB_STOP_AT_COPY (R394): JOB_STOP mode that chooses a copy boundary after the lead row's last committed line. -/
  | jobStopAtCopy (h : CmdHdr)
  /-- JOB_STOP_NOW (R394): JOB_STOP mode that makes every row hold all-zero codes from the next gather. -/
  | jobStopNow (h : CmdHdr)
  /-- REPORT (R397): Long command that completes with the next undelivered copy or JOB_END report. -/
  | report (h : CmdHdr)
  /-- JOB_STATUS (R398): Command that returns the job state, end reasons, boundary and lead-row line. -/
  | jobStatus (h : CmdHdr)
  /-- PARAM_WRITE (R400): Long command that checks and applies a buffer of parameter records all or none. -/
  | paramWrite (h : CmdHdr) (addr : BitVec 64) (len : BitVec 32) (rd : HostRead)
  /-- PARAM_READ (R399): Long command that writes the held or default record of a TYPE and TARGET to the host. -/
  | paramRead (h : CmdHdr) (addr : BitVec 64) (typ : BitVec 16) (target : BitVec 32) (max : BitVec 32)
  /-- NOZZLE_DISABLE (R401): Command that sets or clears the DISABLED flags of a range of nozzles in the master copies. -/
  | nozzleDisable (h : CmdHdr) (first : BitVec 32) (count : BitVec 32) (value : BitVec 8)
  /-- NOZZLE_READ (R399): Long command that writes one status byte per nozzle to the host. -/
  | nozzleRead (h : CmdHdr) (addr : BitVec 64) (first : BitVec 32) (count : BitVec 32)
  /-- DDR_TUNE (R399): Command that sets DDR_SCHED, DDR_REF or DDR_SCR of a die's channels. -/
  | ddrTune (h : CmdHdr) (die : BitVec 8) (channel : BitVec 8) (reg : BitVec 8) (value : BitVec 32)
  /-- CAL_RUN (R402): Long command that requests a calibration item, completing when it has run in gaps. -/
  | calRun (h : CmdHdr) (item : BitVec 8)
  /-- CAL_READ (R402): Command that returns CAL_COUNT, CAL_LAST and UNCALIBRATED. -/
  | calRead (h : CmdHdr)
  /-- SENSORS (R402): Command that returns a die's temperatures and rail and warning bits. -/
  | sensors (h : CmdHdr) (die : BitVec 8)
  /-- EVENTS_READ (R449): Long command that copies event log entries from a sequence number onward from the RAM or flash ring. -/
  | eventsRead (h : CmdHdr) (addr : BitVec 64) (ring : BitVec 8) (fromSeq : BitVec 32) (max : BitVec 32)
  /-- FENCE_READ (R402): Long command that writes the fence records of one or all dies to the host. -/
  | fenceRead (h : CmdHdr) (addr : BitVec 64) (die : BitVec 8)
  /-- FENCE (R403): Command that treats a unit as permanently faulted with reason HOST. -/
  | fence (h : CmdHdr) (kind : BitVec 8) (die : BitVec 8) (index : BitVec 16)
  /-- UNFENCE (R403): Long command that returns a fenced unit to service through its test or procedure. -/
  | unfence (h : CmdHdr) (kind : BitVec 8) (die : BitVec 8) (index : BitVec 16)
  /-- FLASH_WRITE (R405): Long command that erases and writes whole sectors of a Dialect slot or patch region and reads them back. -/
  | flashWrite (h : CmdHdr) (addr : BitVec 64) (region : BitVec 8) (offset : BitVec 32) (len : BitVec 32) (rd : HostRead)
  /-- FLASH_READ (R404): Long command that reads a flash region to the host with its CRC. -/
  | flashRead (h : CmdHdr) (addr : BitVec 64) (region : BitVec 8) (offset : BitVec 32) (len : BitVec 32)
  /-- IMAGE_ACTIVATE (R407): Long command that checks a patch image and selects it in the boot configuration for the next reset. -/
  | imageActivate (h : CmdHdr) (region : BitVec 8)
  /-- MARCH (R404): Long command that runs a destructive or preserving march test on a die bank, clause or die. -/
  | march (h : CmdHdr) (kind : BitVec 8) (die : BitVec 8) (index : BitVec 8) (mode : BitVec 8)
  /-- DDR_RETRAIN (R404): Long command that runs a fast retrain of a DRAM channel. -/
  | ddrRetrain (h : CmdHdr) (die : BitVec 8) (channel : BitVec 8)
  /-- CAP (R429): SERVICE that lifts the heads, closes the cap and lowers the heads onto it. -/
  | cap (h : CmdHdr) (group : BitVec 16) (arg : BitVec 32)
  /-- UNCAP (R429): SERVICE that lifts the heads, parks the cap and lowers the heads to print. -/
  | uncap (h : CmdHdr) (group : BitVec 16) (arg : BitVec 32)
  /-- WIPE (R429): SERVICE that runs wiper passes and optionally spits. -/
  | wipe (h : CmdHdr) (group : BitVec 16) (arg : BitVec 32)
  /-- SPIT (R430): SERVICE that fires spit lines on the group's head channels. -/
  | spit (h : CmdHdr) (group : BitVec 16) (arg : BitVec 32)
  /-- PURGE (R429): SERVICE that drives the pump axis and dwells. -/
  | purge (h : CmdHdr) (group : BitVec 16) (arg : BitVec 32)
  /-- HEAD_LIFT (R429): SERVICE that moves the heads down to print or up to service. -/
  | headLift (h : CmdHdr) (group : BitVec 16) (arg : BitVec 32)
  /-- AXIS_HOME (R421): Long command that references an axis by switch or hard stop. -/
  | axisHome (h : CmdHdr) (axis : BitVec 8)
  /-- AXIS_MOVE (R416): Long command that moves or retargets an axis with a profile. -/
  | axisMove (h : CmdHdr) (axis : BitVec 8) (profile : BitVec 8) (target : BitVec 32)
  /-- AXIS_STOP_DECELERATE (R418): AXIS_STOP mode 0 that retargets axes to their stopping point and keeps the reference. -/
  | axisStopDecelerate (h : CmdHdr) (axis : BitVec 8)
  /-- AXIS_STOP_HOLD (R418): AXIS_STOP mode 1 that freezes the commanded position at once and loses the reference. -/
  | axisStopHold (h : CmdHdr) (axis : BitVec 8)
  /-- PATCH_COMMAND (R408): A command with an opcode in 0x0F00-0x0FFF defined by the installed patch. -/
  | patchCommand (h : CmdHdr) (opcode : BitVec 16)
  /-- DAMAGED (R375): A popped command entry holding an uncorrectable queue word is discarded and completed DAMAGED. -/
  | damaged (src : Src) (slot : BitVec 16)
  /-- SQ_TAIL_DOORBELL (R365): Host write of CMD_SQ_TAIL announcing new submission entries. -/
  | sqTailDoorbell (c : Nat) (v : BitVec 32)
  /-- CQ_HEAD_DOORBELL (R367): Host write of CMD_CQ_HEAD releasing completion slots and possibly resending the vector. -/
  | cqHeadDoorbell (c : Nat) (v : BitVec 32)
  /-- SQ_ENABLE (R364): Setting ENABLE of a submission ring clears its head and tail. -/
  | sqEnable (c : Nat)
  /-- SQ_DISABLE (R379): Clearing ENABLE of a submission ring stops fetching and cancels its parked REPORTs. -/
  | sqDisable (c : Nat)
  /-- CQ_ENABLE (R364): Setting ENABLE of a completion ring clears head and tail and sets phase 1. -/
  | cqEnable (c : Nat)
  /-- CQ_DISABLE (R364): Clearing ENABLE of a completion ring holds further results until re-enabled. -/
  | cqDisable (c : Nat)
  /-- SQ_FETCH (R365): The part fetches a submission entry once its class has queue room and a completion slot is reserved. -/
  | sqFetch (c : Nat)
  /-- CQ_COALESCE_TIMER (R369): Expiry of COAL_TIME after the first unsignalled posting sends the completion vector. -/
  | cqCoalesceTimer (c : Nat)
  /-- MB_GO (R370): Host write of CMD_MB_CTRL.GO runs the mailbox entry in class 0. -/
  | mbGo
  /-- MB_ACK (R370): Host write of CMD_MB_CTRL.ACK releases a DONE mailbox result. -/
  | mbAck
  /-- SMB_SUBMIT (R450): SMBus code 0x10 block write of a mailbox entry followed by GO. -/
  | smbSubmit (entry : List Byte) (pec : Option Byte)
  /-- SMB_ACK (R450): SMBus code 0x12 send byte that releases the SMBus mailbox result. -/
  | smbAck (pec : Option Byte)
  /-- SMB_IDENTIFY_READ (R450): SMBus code 0x01 block read of IDENTIFY data. -/
  | smbIdentifyRead
  /-- SMB_TEMP_READ (R450): SMBus code 0x02 block read of per-die temperature and status. -/
  | smbTempRead
  /-- SMB_RESULT_READ (R450): SMBus code 0x11 block read of the mailbox state and completion entry. -/
  | smbResultRead
  /-- SMB_ALERT_RESPONSE (R450): The part answers a read of the SMBus Alert Response Address. -/
  | smbAlertResponse
  /-- UART_SUBMIT (R450): UART SUBMIT frame writes the UART mailbox entry and GO, or is answered NAK on a bad frame. -/
  | uartSubmit (frame : List Byte)
  /-- UART_ACK (R450): UART ACK frame releases the UART mailbox result. -/
  | uartAck (frame : List Byte)
  /-- UART_EVENT_DISCARD (R450): An event entry not sent on the UART within 10 ms is discarded. -/
  | uartEventDiscard
  /-- CONFIG_REQUEST (R350): A PCIe configuration request, answered with Retry Status until the power-up load ends. -/
  | configRequest (req : CfgReq)
  /-- PERST_ASSERT (R475): Assertion of PERST# after its first deassertion causes a warm reset. -/
  | perstAssert
  /-- PERST_DEASSERT (R472): Deassertion of PERST# releases the PCIe endpoint from reset. -/
  | perstDeassert
  /-- FLR (R351): Function Level Reset causes a warm reset, disabling rings and resetting the mailbox. -/
  | flr
  /-- D3HOT_ENTRY (R351): The function enters D3hot; the part prints on but stops fetching, completing and signalling. -/
  | d3hotEntry
  /-- D0_RETURN (R351): The function returns to D0 keeping every ring and register. -/
  | d0Return
  /-- BAR2_ACCESS (R353): Host access through a BAR2 page-store window. -/
  | bar2Access (off : Nat) (len : Nat) (wr : Option (List Byte))
  /-- BAR0_REMOTE_ACCESS (R357): Host access to another die's BAR0 window carried on the MGT class of its BLOCK route. -/
  | bar0RemoteAccess (die : Nat) (off : Nat) (wr : Option (BitVec 32))
  /-- DIE_BANK_APERTURE_ACCESS (R356): Host access of 1-8 bytes through the die-bank aperture. -/
  | dieBankApertureAccess (die : Nat) (off : Nat) (len : Nat) (wr : Option (List Byte))
  /-- PCIE_LINK_DOWN (R463): PCIe link-down, including that caused by PLL 4 losing lock. -/
  | pcieLinkDown
  /-- REGISTER_WRITE (R9): A host write to a register field with no row of its own, acting per its access type. -/
  | registerWrite (die : Nat) (off : Nat) (v : BitVec 32) (be : BitVec 4)
  /-- TB_COUNT_LO_READ (R212): A read of TB_COUNT_LO latches the upper timebase bits into TB_COUNT_HI. -/
  | tbCountLoRead (die : Nat)
  /-- CLS_CDC_CTRL_CLR (R125): Write of CLR clears the decompressor error, last-error and stall registers. -/
  | clsCdcCtrlClr (die : Nat) (k : Nat)
  /-- CEL_CTRL_CLR (R161): Write of CLR clears a cell's trap, trapped-line, count and segment-maximum registers. -/
  | celCtrlClr (ci : CellId)
  /-- CLS_INT_CTRL_CLR (R278): Write of CLR clears a clause's integrity counts and REWIND count. -/
  | clsIntCtrlClr (die : Nat) (k : Nat)
  /-- LGN_ROW_CTRL_CLR (R213): Write of CLR clears a row's total dropped-line count. -/
  | lgnRowCtrlClr (row : Nat)
  /-- BNK_CTRL_CLR (R302): Write of CLR clears every bank conflict counter. -/
  | bnkCtrlClr (die : Nat)
  /-- EVT_Q_CTRL_CLR (R302): Write of CLR clears a queue's HIGH and LOST values. -/
  | evtQCtrlClr (die : Nat) (q : Nat)
  /-- MGT_MT_CTRL_START (R302): Write of START begins a march test when no Dialect is active and the engine is not busy. -/
  | mgtMtCtrlStart (die : Nat)
  /-- DDR_CH_CTRL_CLR (R323): Write of CLR clears a channel's ECC counts and address. -/
  | ddrChCtrlClr (die : Nat) (ch : Nat)
  /-- DDR_TRN_START (R323): Write of DDR_TRN_CTRL.START begins a training-helper run on an inactive channel. -/
  | ddrTrnStart (die : Nat) (ch : Nat)
  /-- MOT_AX_CTRL_CLR (R432): Write of CLR clears an axis's stall, limit and homing counts. -/
  | motAxCtrlClr (axis : Nat)
  /-- MGT_THERM_CLR (R460): Write of CLR clears the die's TMAX. -/
  | mgtThermClr (die : Nat)
  /-- TYN_LNK_CTRL_CLR (R249): Write of CLR clears a link's counters. -/
  | tynLnkCtrlClr (die : Nat) (link : Nat)
  /-- TYN_LNK_CTRL_RETRAIN (R249): Write of RETRAIN takes a link to TRAIN unless an open job covers it. -/
  | tynLnkCtrlRetrain (die : Nat) (link : Nat)
  /-- TYN_LNK_CTRL_EXIT (R230): Write of EXIT requests exit of a link from electrical idle. -/
  | tynLnkCtrlExit (die : Nat) (link : Nat)
  /-- TYN_EYE_START (R248): Write of TYN_EYE_CTRL.START begins an eye-scan point unless one is busy. -/
  | tynEyeStart (die : Nat)
  /-- EYE_POINT_DONE (R248): An eye-scan point ends after its dwell, or is aborted by a retrain. -/
  | eyePointDone (die : Nat) (count : BitVec 32) (aborted : Bool)
  /-- CMP_START (R123): Write of MGT_CMP_CTRL.START starts a compress job, or sets START_IGN if one runs. -/
  | cmpStart (die : Nat)
  /-- CMP_ABORT (R123): Write of MGT_CMP_CTRL.ABORT ends a running compress job with ABORTED. -/
  | cmpAbort (die : Nat)
  /-- CMP_JOB_END (R121): A compress job ends after its plane time with OK, FAIL_SPACE or FAIL_SOURCE. -/
  | cmpJobEnd (die : Nat) (poisoned : Bool)
  /-- CACHE_COMPRESS_START (R98): The die starts compressing a raw block held in its page cache through its CACHE channel. -/
  | cacheCompressStart (die : Nat)
  /-- LOAD_RESUME (R99): A load command waiting on a full page cache resumes when room appears. -/
  | loadResume
  /-- BLOCK_MOVE (R96): The part moves a placed block within a die to join free space. -/
  | blockMove (die : Nat) (src : Nat) (dst : Nat)
  /-- OVERLAY_FETCH_RESUME (R95): A band fetch waiting for an overlay block resumes when the block arrives or the set closes. -/
  | overlayFetchResume (die : Nat) (k : Nat)
  /-- BAND_FETCH (R258): A clause's band fetch writes block input into its band ring, waiting at the rewind mark. -/
  | bandFetch (die : Nat) (k : Nat)
  /-- REWIND_GUARD_REACHED (R258): A waiting band fetch comes within REWIND_GUARD lines of a deadline, overwrites and forfeits the mark. -/
  | rewindGuardReached (die : Nat) (k : Nat)
  /-- DECOMP_BLOCK_START (R107): A decompressor begins a block once its first input bytes are in the band ring. -/
  | decompBlockStart (die : Nat) (k : Nat) (dec : Nat)
  /-- DECOMP_TOKEN (R109): A decompressor starts decoding a token of a pixel segment. -/
  | decompToken (die : Nat) (k : Nat) (dec : Nat)
  /-- DECOMP_RESUME (R114): A stalled decompressor resumes the token where it stopped when queue room appears. -/
  | decompResume (die : Nat) (k : Nat) (dec : Nat) (stalled : Nat)
  /-- DECOMP_SEGMENT_END (R116): A decompressor completes a plane and compares its CRC with RAW_CRC. -/
  | decompSegmentEnd (die : Nat) (k : Nat) (dec : Nat)
  /-- FOLLOWER_DONE (R112): The follower finishes a line and the next line becomes the replay line. -/
  | followerDone (die : Nat) (k : Nat) (dec : Nat)
  /-- CLAUSE_LINE_ADMIT (R26): A clause admits its next line for expansion when the slot, order and lead conditions hold. -/
  | clauseLineAdmit (die : Nat) (k : Nat)
  /-- LINE_DISPATCH (R131): A cell waiting in LINE is dispatched to a new line or re-run and its registers written. -/
  | lineDispatch (ci : CellId)
  /-- WINDOW_WRITE (R139): The part writes changed nozzle parameters into the unused parameter window once no line in flight uses it. -/
  | windowWrite (die : Nat) (k : Nat)
  /-- ILL (R150): Cell instruction 0x00 that traps ILLEGAL. -/
  | ill (ci : CellId) (w : CellWord)
  /-- CELL_NOP (R150): Cell instruction NOP that does nothing. -/
  | cellNop (ci : CellId) (w : CellWord)
  /-- BR (R149): Cell conditional branch. -/
  | br (ci : CellId) (w : CellWord)
  /-- LOOPI (R151): Cell instruction that opens a hardware loop with an immediate count. -/
  | loopi (ci : CellId) (w : CellWord)
  /-- LOOPR (R151): Cell instruction that opens a hardware loop with a register count. -/
  | loopr (ci : CellId) (w : CellWord)
  /-- CALL (R150): Cell call that saves the return address in s15. -/
  | call (ci : CellId) (w : CellWord)
  /-- JR (R150): Cell jump to a register address. -/
  | jr (ci : CellId) (w : CellWord)
  /-- LINE (R130): Cell instruction that ends the segment and waits for dispatch. -/
  | line (ci : CellId) (w : CellWord)
  /-- FRAME (R132): Cell instruction that declares the frame layout. -/
  | frame (ci : CellId) (w : CellWord)
  /-- SEG (R141): Cell instruction that sets the die-bank segment. -/
  | seg (ci : CellId) (w : CellWord)
  /-- GETC (R150): Cell instruction that reads a context item. -/
  | getc (ci : CellId) (w : CellWord)
  /-- BWAIT (R143): Cell instruction that waits until few enough bank requests are outstanding. -/
  | bwait (ci : CellId) (w : CellWord)
  /-- TRAP (R154): Cell instruction that traps SOFT with a code. -/
  | trap (ci : CellId) (w : CellWord)
  /-- ADD (R150): Cell scalar add. -/
  | add (ci : CellId) (w : CellWord)
  /-- SUB (R150): Cell scalar subtract. -/
  | sub (ci : CellId) (w : CellWord)
  /-- LOG (R150): Cell scalar logic operation. -/
  | log (ci : CellId) (w : CellWord)
  /-- SHF (R150): Cell scalar shift. -/
  | shf (ci : CellId) (w : CellWord)
  /-- MUL (R150): Cell scalar multiply. -/
  | mul (ci : CellId) (w : CellWord)
  /-- MNX (R150): Cell scalar min or max. -/
  | mnx (ci : CellId) (w : CellWord)
  /-- ADDI (R150): Cell add immediate. -/
  | addi (ci : CellId) (w : CellWord)
  /-- ANDI (R150): Cell AND immediate. -/
  | andi (ci : CellId) (w : CellWord)
  /-- ORI (R150): Cell OR immediate. -/
  | ori (ci : CellId) (w : CellWord)
  /-- LD (R129): Cell halfword load from data SRAM. -/
  | ld (ci : CellId) (w : CellWord)
  /-- ST (R129): Cell halfword store to data SRAM. -/
  | st (ci : CellId) (w : CellWord)
  /-- PLOG (R150): Cell predicate logic. -/
  | plog (ci : CellId) (w : CellWord)
  /-- PMOV (R150): Cell move between predicate and scalar. -/
  | pmov (ci : CellId) (w : CellWord)
  /-- VADD (R150): Cell vector add. -/
  | vadd (ci : CellId) (w : CellWord)
  /-- VSUB (R150): Cell vector subtract. -/
  | vsub (ci : CellId) (w : CellWord)
  /-- VMUL (R150): Cell vector multiply. -/
  | vmul (ci : CellId) (w : CellWord)
  /-- VLOG (R150): Cell vector logic. -/
  | vlog (ci : CellId) (w : CellWord)
  /-- VSHF (R150): Cell vector shift. -/
  | vshf (ci : CellId) (w : CellWord)
  /-- VMNX (R150): Cell vector min or max. -/
  | vmnx (ci : CellId) (w : CellWord)
  /-- VCMP (R150): Cell vector compare into a predicate. -/
  | vcmp (ci : CellId) (w : CellWord)
  /-- VSEL (R150): Cell vector select by predicate. -/
  | vsel (ci : CellId) (w : CellWord)
  /-- VBC (R150): Cell scalar broadcast to a vector. -/
  | vbc (ci : CellId) (w : CellWord)
  /-- VEXT (R150): Cell vector lane extract. -/
  | vext (ci : CellId) (w : CellWord)
  /-- VINS (R150): Cell vector lane insert. -/
  | vins (ci : CellId) (w : CellWord)
  /-- VSLD (R150): Cell vector slide across two vectors. -/
  | vsld (ci : CellId) (w : CellWord)
  /-- VLD (R150): Cell 16-byte vector load. -/
  | vld (ci : CellId) (w : CellWord)
  /-- VST (R150): Cell 16-byte vector store. -/
  | vst (ci : CellId) (w : CellWord)
  /-- VLDB (R150): Cell byte vector load. -/
  | vldb (ci : CellId) (w : CellWord)
  /-- VSTB (R150): Cell byte vector store. -/
  | vstb (ci : CellId) (w : CellWord)
  /-- LUTV (R150): Cell per-lane table lookup. -/
  | lutv (ci : CellId) (w : CellWord)
  /-- UNPK (R150): Cell unpack of eight nibbles. -/
  | unpk (ci : CellId) (w : CellWord)
  /-- QTH (R152): Cell threshold quantise. -/
  | qth (ci : CellId) (w : CellWord)
  /-- DQ (R152): Cell serial diffusion quantise. -/
  | dq (ci : CellId) (w : CellWord)
  /-- HIST (R150): Cell history shift. -/
  | hist (ci : CellId) (w : CellWord)
  /-- SPRD (R152): Cell missing-nozzle spread. -/
  | sprd (ci : CellId) (w : CellWord)
  /-- PACKO (R140): Cell instruction that packs codes and pushes output words to the ring slot. -/
  | packo (ci : CellId) (w : CellWord)
  /-- SEND (R145): Cell instruction that sends a vector to a neighbour port or halo. -/
  | send (ci : CellId) (w : CellWord)
  /-- RECV (R146): Cell instruction that receives a vector from a port, logging or replaying it. -/
  | recv (ci : CellId) (w : CellWord)
  /-- BGET (R141): Cell bank request copying bank words into data SRAM. -/
  | bget (ci : CellId) (w : CellWord)
  /-- BGV (R141): Cell bank request gathering eight halfwords. -/
  | bgv (ci : CellId) (w : CellWord)
  /-- BATM (R281): Cell bank atomic add or replace on a halfword. -/
  | batm (ci : CellId) (w : CellWord)
  /-- CELL_STALL_RELEASE (R150): A cell instruction stalled on a queue, port, bank request or record proceeds. -/
  | cellStallRelease (ci : CellId) (cycles : Nat)
  /-- BANK_REQUEST_COMPLETE (R142): A cell's bank request completes in issue order within its bound. -/
  | bankRequestComplete (ci : CellId) (more : List CellId) (sys : List SysAccess)
  /-- CELL_RESTART (R155): A trapped cell restarts from ENTRY after its bank requests finish and any reload ends. -/
  | cellRestart (ci : CellId)
  /-- CELL_RELOAD_DONE (R157): The die manager finishes reloading a cell's instruction SRAM or initial data. -/
  | cellReloadDone (ci : CellId)
  /-- WATCHDOG (R160): A segment reaching four times 128·P counted cycles traps WATCHDOG. `stalled`: the cycles of the stall it stands in. -/
  | watchdog (ci : CellId) (stalled : Nat)
  /-- CELL_OVERRUN (R159): A segment passing 128·P cycles is counted and logged. -/
  | cellOverrun (ci : CellId)
  /-- SIG_CHECK_DONE (R254): The signature unit finishes checking a line, which becomes Ready, is re-run or is withheld. -/
  | sigCheckDone (die : Nat) (k : Nat)
  /-- SPARE_READY (R266): A prepared spare clause is ready to take over, or is fenced PREPARE. -/
  | spareReady (die : Nat) (k : Nat) (ok : Bool)
  /-- TAKEOVER (R268): At admission of band B's first line the slot's halos, carries and dispatch move to the spare. -/
  | takeover (die : Nat) (k : Nat)
  /-- UNFENCE_TEST_DONE (R270): A clause's unfence test ends and it becomes SPARE or returns to FENCED. -/
  | unfenceTestDone (die : Nat) (k : Nat) (pass : Bool)
  /-- ENCODER_COUNT (R190): An accepted quadrature change on a substrate encoder updates the count, run and READY. -/
  | encoderCount (e : Nat) (t : Nat) (a : Bool) (b : Bool) (samples : Nat)
  /-- ENCODER_INDEX (R191): A rising Z edge latches the count and checks for slip. -/
  | encoderIndex (e : Nat) (t : Nat) (samples : Nat)
  /-- TIME_COUNT_ACT (R361): Each die's line-generator copy acts on a count 48 ticks after its timestamp and predicts the next line. -/
  | timeCountAct (e : Nat)
  /-- LINE_COMMIT (R194): At the tick at or after T−256 a row line is committed, dropped or not, and actions are decided. -/
  | lineCommit (row : Nat) (t : Nat)
  /-- ROW_TICK (R195): A row's line tick arrives, starting the next head line's gather and marking line deadlines. -/
  | rowTick (row : Nat)
  /-- GATHER_BLOCK (R343): The gather mover produces a Tynel data block of final codes for the lowest pending channel of a link. -/
  | gatherBlock (h : Nat) (upset : Bool)
  /-- GATHER_END (R345): A head line's gather ends and ring slots it last used are freed. -/
  | gatherEnd (h : Nat)
  /-- FIRE_INSTANT (R238): A head line's fire instant frees its place in the Tynel pool. -/
  | fireInstant (h : Nat) (line : Nat)
  /-- SYNC_FRAME_SEND (R188): A master drives a sync frame on SYNCOUT at each epoch boundary. -/
  | syncFrameSend
  /-- SYNC_FRAME_RECEIVE (R189): A slave receives a sync frame and aligns, locks or faults. -/
  | syncFrameReceive (edge : Nat) (cells : BitVec 56)
  /-- SYNC_LOST (R189): Three epochs without a valid frame clear LOCK and set LOST. -/
  | syncLost
  /-- RECEIVER_DETECT (R223): Every 12 ms in DETECT the part probes for far termination. -/
  | receiverDetect (die : Nat) (link : Nat) (found : BitVec 8)
  /-- TRAINING_WORD (R224): A training word is received and its tap requests applied. -/
  | trainingWord (die : Nat) (lane : Nat) (word : BitVec 1056) (rx : LaneRx)
  /-- BITLOCK_DONE (R223): Phase-tracking loops settle and the link enters BLOCKLOCK. -/
  | bitlockDone (die : Nat) (link : Nat)
  /-- BLOCKLOCK_DONE (R223): All lanes are block-locked and deskewed and the link enters CAPS. -/
  | blocklockDone (die : Nat) (link : Nat) (valid : List Nat)
  /-- LINK_STATE_TIMEOUT (R223): A link state exceeds its limit, sending the lane back or retiring it. -/
  | linkStateTimeout (die : Nat) (link : Nat) (lanes : BitVec 8)
  /-- RENEG_ACK_RECEIVE (R227): The board's RENEG_ACK arrives and the link re-enters BLOCKLOCK. -/
  | renegAckReceive (die : Nat) (link : Nat) (frame : UpFrame)
  /-- CAPS_RECEIVE (R244): A CAPS frame is checked, sending CONFIG or entering CAPS_FAIL. -/
  | capsReceive (die : Nat) (link : Nat) (frame : UpFrame)
  /-- CONFIG_RETRY (R244): CONFIG is resent 1 ms after an unanswered CONFIG. -/
  | configRetry (die : Nat) (link : Nat)
  /-- CONFIG_ACK_RECEIVE (R244): CONFIG_ACK arrives, the polynomial switches and the link becomes ACTIVE. -/
  | configAckReceive (die : Nat) (link : Nat) (frame : UpFrame)
  /-- LINE_BASE_ACK_RECEIVE (R241): LINE_BASE_ACK arrives and line frames to the channel may flow. -/
  | lineBaseAckReceive (die : Nat) (link : Nat) (frame : UpFrame)
  /-- LINE_BASE_TIMEOUT (R241): No LINE_BASE_ACK within 100 µs resends it or leaves the channel lacking. -/
  | lineBaseTimeout (h : Nat)
  /-- LOCK_LOSS (R226): A receiver loses lock and the link enters RETRAIN. -/
  | lockLoss (die : Nat) (link : Nat) (signs : List LaneSigns) (eidle : Bool)
  /-- FAST_EXIT_DONE (R230): A fast exit or fast retrain regains block lock and the link is ACTIVE. -/
  | fastExitDone (die : Nat) (link : Nat) (valid : List Nat)
  /-- FAST_EXIT_TIMEOUT (R230): A fast exit without block lock by tick 48 counts as a failed attempt. -/
  | fastExitTimeout (die : Nat) (link : Nat)
  /-- ALIGN_RECEIVE (R221): ALIGN blocks arrive and the receiver deskews the lanes. -/
  | alignReceive (die : Nat) (lane : Nat) (blk : List Byte) (skew : BitVec 6)
  /-- ACK_RECEIVE (R239): An ACK completes and delivers a line segment. -/
  | ackReceive (die : Nat) (link : Nat) (blk : List Byte)
  /-- NAK_RECEIVE (R239): A NAK queues a replay of the segment. -/
  | nakReceive (die : Nat) (link : Nat) (blk : List Byte)
  /-- REPLAY_TIMEOUT (R239): No answer within 2·LAT+96 ticks queues a replay. -/
  | replayTimeout (h : Nat) (line : Nat) (seg : Nat)
  /-- TELEMETRY_RECEIVE (R246): A telemetry frame updates head state and flags missed or late lines. -/
  | telemetryReceive (die : Nat) (link : Nat) (frame : UpFrame)
  /-- TELEMETRY_SILENCE (R246): No good telemetry for 4×TEL_PERIOD stops the channel. -/
  | telemetrySilence (h : Nat)
  /-- NOTICE_RECEIVE (R244): A board NOTICE frame is logged. -/
  | noticeReceive (die : Nat) (link : Nat) (frame : UpFrame)
  /-- ECHO_REPLY_RECEIVE (R247): An ECHO_REPLY gives the round trip and LAT. -/
  | echoReplyReceive (die : Nat) (link : Nat) (blk : List Byte) (round : Nat)
  /-- ECHO_TIMEOUT (R247): An ECHO_REPLY not received within 256 ticks is discarded. -/
  | echoTimeout (h : Nat)
  /-- DMA_ARM (R328): Write of ARM arms the shadow set, as it stands or as the die manager loads it, for copy into the active set. -/
  | dmaArm (die : Nat) (ch : Nat) (load : Option DmaSet)
  /-- DMA_DOORBELL (R332): Doorbell makes the channel fetch its tail descriptor again. -/
  | dmaDoorbell (die : Nat) (ch : Nat)
  /-- DMA_DESC_WRITE (R331): Write of DMA_CH_DESC sets the chain's first descriptor and clears the tail. -/
  | dmaDescWrite (die : Nat) (ch : Nat) (v : BitVec 64)
  /-- DMA_ABORT (R341): Write of ABORT ends any transfer, clears shadow and tail and idles the channel. -/
  | dmaAbort (die : Nat) (ch : Nat)
  /-- DMA_CNT_CLR (R346): Write of DMA_CH_CTRL.CLR clears the channel counters. -/
  | dmaCntClr (die : Nat) (ch : Nat)
  /-- DMA_IRQ_STAT_WRITE (R339): Host W1C write of DMA_IRQ_STAT, resending the message if unmasked bits remain. -/
  | dmaIrqStatWrite (die : Nat) (v : BitVec 32)
  /-- DMA_DESC_FETCH_COMPLETE (R331): A descriptor fetch returns and its fields are checked. -/
  | dmaDescFetchComplete (die : Nat) (ch : Nat) (err : DmaErr)
  /-- DMA_BURST_START (R334): A mover's arbitration starts a burst for a ready channel. -/
  | dmaBurstStart (die : Nat) (requests : BitVec 32)
  /-- DMA_BURST_COMPLETE (R333): A burst completes, or ends BAD or halts on error. -/
  | dmaBurstComplete (die : Nat) (ch : Nat) (err : DmaErr) (data : List Byte)
  /-- DMA_READBACK_RETURN (R336): The completion read-back returns, CRC and STATUS are written and the event pulse sent. -/
  | dmaReadbackReturn (die : Nat) (ch : Nat) (err : DmaErr)
  /-- INGRESS_BURST (R335): A block burst arriving from the fabric is written by the FORWARD channel. -/
  | ingressBurst (die : Nat) (port : Nat) (poisoned : Bool)
  /-- SCRUB_READ (R289): Every PERIOD cycles the scrubber reads one block and writes back or poisons it. -/
  | scrubRead (die : Nat) (upsets : List (ArrBlock × BitVec 80)) (rewritten : Bool)
  /-- ROW_REPAIR_DONE (R291): A stuck bit's row copy to a spare row completes and the address switches. -/
  | rowRepairDone (die : Nat) (blk : ArrBlock) (stalled : List Nat)
  /-- MASTER_REWRITE (R290): The die manager rewrites a poisoned block from its master copy. -/
  | masterRewrite (die : Nat) (blk : ArrBlock)
  /-- MARCH_DONE (R293): A march test of an array finishes with its result. -/
  | marchDone (die : Nat) (defects : List StuckBits)
  /-- MARCH_ROW_RETRY (R296): After its 1,024-cycle holdoff the engine retests a yielded row. -/
  | marchRowRetry (die : Nat) (row : ArrBlock) (master : Nat)
  /-- QUEUE_PUSH (R297): An item is pushed into a queue, or discarded on a full non-back-pressuring queue. -/
  | queuePush (q : QRef) (item : QItem)
  /-- QUEUE_POP (R298): An item is popped from a queue, correcting or discarding a bad word. -/
  | queuePop (q : QRef) (push : Option QItem) (flips : List (BitVec 72))
  /-- DRAM_REQUEST (R310): The requests that reach a die's channels in one cycle enter the queues for their classes. -/
  | dramRequest (die : Nat) (rs : List DReq)
  /-- DRAM_BURST_ISSUE (R312): The controller issues a burst chosen by class, urgency and age. -/
  | dramBurstIssue (die : Nat) (ch : Nat) (ready : List Nat)
  /-- DRAM_READ_COMPLETE (R307): A DRAM read returns and is classed, corrected or poisoned. -/
  | dramReadComplete (die : Nat) (ch : Nat) (flip : BitVec 512) (flipRec : BitVec 64)
  /-- REFRESH (R314): A per-bank refresh interval expires and refresh issues. -/
  | refresh (die : Nat) (ch : Nat) (bank : Nat) (expired : Bool) (issued : Bool)
  /-- MR4_POLL (R314): Every 4 ms the controller reads MR4 and sets the refresh multiplier. -/
  | mr4Poll (die : Nat) (ch : Nat) (dev0 : BitVec 4) (dev1 : BitVec 4) (hot : Bool)
  /-- DRIFT_CHECK (R316): Every 16 ms the controller reads the WCK oscillators and adjusts delays, pinning at DRIFT_MAX. -/
  | driftCheck (die : Nat) (ch : Nat) (want : Int)
  /-- FAST_RETRAIN_DONE (R319): A DRAM fast retrain ends, passing or falling back to full training. -/
  | fastRetrainDone (die : Nat) (ch : Nat) (ok : Bool)
  /-- FULL_TRAINING_DONE (R317): A DRAM full training ends with settings or without a working setting. -/
  | fullTrainingDone (die : Nat) (ch : Nat) (ok : Bool) (settings : List Byte)
  /-- DDR_SCRUB_READ (R320): Every PERIOD DDR cycles the DRAM scrubber reads a unit. -/
  | ddrScrubRead (die : Nat) (ch : Nat) (upsets : List DramUpset) (rewritten : List Nat)
  /-- TRAIN_HELPER_DONE (R317): A training-helper pattern or compare run ends. -/
  | trainHelperDone (die : Nat) (ch : Nat) (wrote misread : List TrnErr)
  /-- FABRIC_PACKET_RECEIVE (R359): A fabric packet arrives; a bad CRC asks for a replay. -/
  | fabricPacketReceive (die : Nat) (port : Nat) (groups : List (List Byte × BitVec 16)) (pkt : FabPkt)
  /-- PORT_RETRAIN_DONE (R359): A die-to-die port retrain ends, resuming or taking the port DOWN. -/
  | portRetrainDone (die : Nat) (port : Nat) (ok : Bool)
  /-- HEARTBEAT_SEND (R435): Every 1 ms a die manager sends a heartbeat. -/
  | heartbeatSend (die : Nat) (reads : List Nat)
  /-- HEARTBEAT_TIMEOUT (R435): A heartbeat absent for 10 ms is a die fault. -/
  | heartbeatTimeout (die : Nat)
  /-- MGT_WATCHDOG_EXPIRY (R435): A management core's 10 ms watchdog expires and the core stops. -/
  | mgtWatchdogExpiry (die : Nat)
  /-- SENSOR_UPDATE (R442): A sensor takes a new reading. -/
  | sensorUpdate (die : Nat) (sn : Nat) (v : BitVec 16)
  /-- THERMAL_WARN_CLEAR (R443): Every sensor below TWARN−5 °C for 1 s clears WARN. -/
  | thermalWarnClear (die : Nat)
  /-- SAFETY_TRIP (R444): A temperature at 120 °C for 1 ms or a rail outside its hard window for 10 µs trips the die. -/
  | safetyTrip (die : Nat) (rail : Bool) (sensor : Nat) (reading : BitVec 16)
  /-- EVENT_LOG (R447): The package manager gives an entry its SEQ and writes it to the RAM ring or Sleep buffer. -/
  | eventLog (die : Nat)
  /-- FLASH_SECTOR_TIMER (R448): One second after its first entry the sector buffer is written. -/
  | flashSectorTimer
  /-- NOTIFY_INTERVAL (R449): At the end of a 100 µs interval with qualifying entries, vector 4 is sent. -/
  | notifyInterval
  /-- TIME_MARK (R446): Hourly TIME_MARK entry logged from the AON seconds. -/
  | timeMark
  /-- CAL_SLICE (R453): A calibration slice starts in a gap predicted long enough. -/
  | calSlice
  /-- CAL_SLICE_DONE (R454): A slice completes and its result applies, pins or is discarded. -/
  | calSliceDone (value : Int) (payload : List Byte)
  /-- CAL_STORE_WRITE (R457): The calibration store is written to the other copy with SEQUENCE+1. -/
  | calStoreWrite
  /-- PROFILE_TICK (R415): Every 20.48 µs each axis's profile generator advances and its PWM is set. -/
  | profileTick (axis : Nat)
  /-- AXIS_ENCODER_COUNT (R411): An accepted count on an axis encoder updates the encoder position. -/
  | axisEncoderCount (axis : Nat) (la : Bool) (lb : Bool) (samples : Nat)
  /-- SWITCH_INPUT (R412): A debounced HOME or limit level takes effect. -/
  | switchInput (axis : Nat) (sw : Switch) (level : Bool) (stable : Nat)
  /-- STALL (R419): Deviation above STALL_WIN for STALL_TIME ticks is a stall; the axis holds and counts a fault. -/
  | stall (axis : Nat)
  /-- STALL_REPEAT (R419): 50 ms after a stall the interrupted move is repeated once. -/
  | stallRepeat (axis : Nat)
  /-- HOLD_DELAY_EXPIRY (R410): HOLD_DELAY after stopping, the axis drops to IHOLD. -/
  | holdDelayExpiry (axis : Nat)
  /-- PURGE_DWELL_EXPIRY (R429): The purge dwell ends and the service completes. -/
  | purgeDwellExpiry (group : Nat)
  /-- SPIT_TICK (R430): A spit tick fires the next spit line on the group's channels. -/
  | spitTick (group : Nat)
  /-- REST_DESCENT (R465): REST_DELAY at rest starts a descent toward the resting state. -/
  | restDescent
  /-- POWER_TRANSITION_DONE (R466): A power-state transition step ends. -/
  | powerTransitionDone
  /-- WAKE (R467): A stable low WAKE# in Dormant drives PWREN high to start start-up. -/
  | wake
  /-- PWREN_HOLD_EXPIRY (R467): The 20 ms PWREN-low hold ends and any latched WAKE# is acted on. -/
  | pwrenHoldExpiry
  /-- COLD_POR (R475): VAON entering its window causes cold power-on reset. -/
  | coldPor
  /-- MAIN_POR_RELEASE (R470): Main power-on reset is released once rails are in window for 2 ms and REFCLK runs. -/
  | mainPorRelease (dialectPins : BitVec 2) (smbPins : BitVec 2)
  /-- RAIL_UNDERVOLTAGE (R490): A main rail below window for 2 µs asserts main power-on reset. -/
  | railUndervoltage
  /-- STARTUP_STAGE_DONE (R472): A start-up stage ends and the next begins, or start-up fails. -/
  | startupStageDone (r : StageResult)
  /-- REF_LOSS (R463): REF without an edge for 1 µs is a die fault. -/
  | refLoss (die : Nat)
  /-- PLL_LOCK_LOSS (R463): A PLL loses lock, causing a die fault, link retrain or PCIe link-down. -/
  | pllLockLoss (die : Nat) (pll : Nat)
  /-- TRST (R475): TRST# low resets the TAP controllers only. -/
  | trst
  /-- DIALECT_FIRST_PASS_DONE (R61): The first pass over a Dialect ends, failing or reaching the commit point. -/
  | dialectFirstPassDone (flashErr : Bool)
  /-- DIALECT_LOAD_DONE (R68): The second pass ends and the Dialect becomes ACTIVE, or the part is left FAILED. -/
  | dialectLoadDone (flashErr : Bool)
  /-- ENCODER_LONG_GAP (R192): More than 2^20 ticks without a count on a substrate encoder ends its run and clears READY. -/
  | encoderLongGap (e : Nat) (t : Nat)
  /-- POWER_UP_LOAD_LIMIT (R350): A power-up load still running 900 ms after PERST# deassertion fails with FLASH, and Retry Status ends. -/
  | powerUpLoadLimit
  /-- FLASH_ERASE_PROGRAM_DONE (R438): A flash sector erase or program, possibly suspended and resumed, completes or fails with FLASH. -/
  | flashEraseProgramDone (ok : Bool)
  /-- FUSE_PROGRAM_DONE (R386): Fuse programming for a KEY_OP ends within 50 ms and PKG_KEYSTAT shows the result. -/
  | fuseProgramDone
  /-- SQ_FETCH_COMPLETE (R368): The host read of a submission entry returns, or ends in UR, CA, poison or a completion timeout that stops the ring with ERR FETCH. -/
  | sqFetchComplete (c : Nat) (r : FetchResult)
  /-- VAON_UNDERVOLTAGE (R490): VAON falling below its window asserts cold power-on reset. -/
  | vaonUndervoltage
  /-- SAMPLED_TRANSITION (R412): A sampled transition of HOME, LIMP or LIMN is counted, and more than 8 within DEBOUNCE µs is chatter that stops and fences the axis. -/
  | sampledTransition (axis : Nat) (sw : Switch)
  /-- TCK_EDGE (R450): A TCK edge advances each TAP controller and runs its boundary-scan instruction. -/
  | tckEdge (rising : Bool) (tms : Bool) (tdi : Bool) (balls : List Bool)
  /-- UART_FRAME_SENT (R450): The UART finishes sending a frame and becomes idle, so a waiting EVENT frame may be sent. -/
  | uartFrameSent
deriving DecidableEq, Repr

end Sys2Proof
end

