-- ==== Sys2Proof/Decode.lean ====
section
/-! DEFINITION. Reading a command from a word by the opcode table's bits. The table gives no row any bits: commands arrive as values, not as
encoded words, so no word spells one. -/

namespace Sys2Proof

/-- The command that `nbits` bits `w` spell by the table's encodings. -/
def decodeTableWord (nbits w : Nat) : Option Instr :=
  match nbits, w with
  | _, _ => none

end Sys2Proof
end

