-- ==== Sys2Proof/Config.lean ====
section
/-! DEFINITION. What the manual fixes outside itself or leaves open: constants without a body. No proof sees a value of
them, so what is proved holds whatever they are. -/

namespace Sys2Proof.Config

/-- A fresh value for each draw: what the manual leaves undefined after a step that runs on (assumption 4). -/
opaque freeWord : Nat → BitVec 64

/-- Nymhorn's factory key, in key-ring slot 0 of every part (R55). -/
opaque factoryKey : List Byte

/-- Whether the installed patch (its image) defines a host opcode of 0x0F00-0x0FFF (R407, R408). -/
opaque patchDefines : List Byte → BitVec 16 → Bool

/-- The vendor identifier of the configuration header (R348). -/
opaque vendorId : BitVec 16

/-- Nymhorn's fused JEDEC manufacturer code (R450). -/
opaque jedecCode : BitVec 11

/-- The multiplier code, 0 0.25x to 4 4x, that a device's MR4 refresh-rate field requests (R314): the devices' own coding. -/
opaque mr4Rate : BitVec 4 → BitVec 3

/-- The 32 DQ bits of a beat of a training pattern whose sequence the manual does not give: PRBS7, PRBS15 and the reserved patterns, by
pattern, seed and beat (R317; assumption 40). -/
opaque trnBeat : BitVec 3 → BitVec 16 → Nat → BitVec 32

/-- A beat of a training row whose content the manual does not give, by a fresh number, row and beat (R317; assumption 40). -/
opaque trnBlank : Nat → Nat → Nat → BitVec 32

/-- Soft post-package repairs that a DRAM bank has room for (R320). -/
opaque pprPerBank : Nat

/-- MR5-MR8 of the two devices of a DRAM channel, 8 bytes, as the part reads them at start-up (R318). -/
opaque deviceRegs : Nat → List Byte

/-- The 8-bit instruction codes of IDCODE (0), SAMPLE/PRELOAD (1), EXTEST (2), CLAMP (3) and HIGHZ (4), which the BSDL file gives (R450). -/
opaque jtagCode : Nat → BitVec 8

/-- Bits 7-2 of what the instruction register captures, which the BSDL file gives (R450). -/
opaque jtagCapture : BitVec 6

/-- Cells of a die's boundary register, which the BSDL file gives (R450). -/
opaque boundaryCells : Nat → Nat

/-- The last 24 bytes of the header of a flash-ring sector, by its first SEQ and its entries' bytes: the count and the CRC, whose places and
widths the manual does not give (R448). -/
opaque ringHeader : Nat → List (BitVec 8) → Nat → BitVec 8

/-- The block of die banks 28-30, counted from the first of bank 28, that holds entry `i` of head channel `h`'s nozzle table: the layout is not
specified (R178, R344). -/
opaque nozzleBlock : (h i : Nat) → Nat

/-- The like for the 8 bytes `n` of a row's inflection table, the cool one or the normal one (R178, R207). -/
opaque inflBlock : (row : Nat) → (cool : Bool) → (n : Nat) → Nat

/-- CLASS, SYNDROME and address that a HIST_POISON entry names for the 16 nozzles `n` of a channel: the manual gives the gather's history store no
class and no addresses (R302, R344, R445). -/
opaque histPlace : (h n : Nat) → BitVec 88

/-- REF cycles that a die counts over 2^15 AON cycles, by die and count: the AON oscillator's own rate (R481). -/
opaque refCycles : Nat → Nat → BitVec 32

end Sys2Proof.Config
end

