-- ==== Sys2Proof/Machine/Flags.lean ====
section
/-! DEFINITION. The check codes of the part: CRC-32C (R37), CRC-16 and CRC-8 of the links, the row-and-column code of the
arrays (R284-R287) and the extended Hamming code of the queues (R300). -/

namespace Sys2Proof.Machine

/-! ### Bytes -/

/-- A little-endian byte string as a number (R8). -/
def leNat : List Byte → Nat
  | [] => 0
  | b :: bs => b.toNat + 256 * leNat bs

/-- `n` bytes of a number, least significant first (R8). -/
def natLE : Nat → Nat → List Byte
  | 0, _ => []
  | n + 1, v => BitVec.ofNat 8 v :: natLE n (v / 256)

/-- Bytes `a` to `a + n - 1` of a string; shorter where the string ends. -/
def slice (bs : List Byte) (a n : Nat) : List Byte := (bs.drop a).take n

/-- The little-endian number at `a`, `n` bytes wide; bytes beyond the string count as 0. -/
def leAt (bs : List Byte) (a n : Nat) : Nat := leNat (slice bs a n)

/-- The byte at `a`, 0 beyond the string. -/
def byteAt (bs : List Byte) (a : Nat) : Byte := bs.getD a 0

/-- Whether every byte of a range is 0: the check of a reserved range. -/
def zeroAt (bs : List Byte) (a n : Nat) : Bool := (slice bs a n).all (fun b => b == 0)

/-- A number read as signed in `w` bits. -/
def signedNat (w v : Nat) : Int := (BitVec.ofNat w v).toInt

/-- An integer in `n` bytes, two's complement, least significant first. -/
def intLE (n : Nat) (v : Int) : List Byte := natLE n (BitVec.ofInt (8 * n) v).toNat

/-! ### CRC-32C (R37) -/

/-- One bit of a reflected CRC-32 with the Castagnoli polynomial. -/
def crc32cBit (c : BitVec 32) : BitVec 32 :=
  if c.getLsbD 0 then (c >>> 1) ^^^ 0x82F63B78#32 else c >>> 1

/-- One byte into the register. -/
def crc32cByte (c : BitVec 32) (b : Byte) : BitVec 32 :=
  let x := c ^^^ b.zeroExtend 32
  crc32cBit (crc32cBit (crc32cBit (crc32cBit (crc32cBit (crc32cBit (crc32cBit (crc32cBit x)))))))

/-- A string of bytes into the register, without initial value or final XOR. -/
def crc32cReg (c : BitVec 32) (bs : List Byte) : BitVec 32 := bs.foldl crc32cByte c

/-- CRC-32C: initial value and final XOR all ones (R37). -/
def crc32c (bs : List Byte) : BitVec 32 := crc32cReg 0xFFFFFFFF#32 bs ^^^ 0xFFFFFFFF#32

/-! ### The row-and-column code (R284, R285) -/

/-- Byte `i` of an 8-byte block. -/
def blkByte (data : BitVec 64) (i : Nat) : Byte := data.extractLsb' (8 * i) 8

/-- R: bit `i` is the XOR of the 8 bits of byte `i` (R284). -/
def rowParity (data : BitVec 64) : Byte :=
  (List.range 8).foldl (fun r i => if popcount (blkByte data i) % 2 = 1 then r ||| (1#8 <<< i) else r) 0

/-- C: the XOR of the bytes (R284). -/
def colParity (data : BitVec 64) : Byte := (List.range 8).foldl (fun c i => c ^^^ blkByte data i) 0

/-- The 80-bit code word of 8 bytes: data, then R, then C (R284). -/
def rcEncode (data : BitVec 64) : BitVec 80 := colParity data ++ (rowParity data ++ data)

/-- The poison mark: the complement of the check bits of the data as read (R287). -/
def rcPoison (data : BitVec 64) : BitVec 80 := (~~~ colParity data) ++ ((~~~ rowParity data) ++ data)

/-- Classes of a block as read (R285). -/
inductive RcClass where
  | clean
  | corrected
  | checkBit
  | poisoned
  | uncorrectable
deriving DecidableEq, Repr

/-- The number of the one bit set in a byte. -/
def oneBit (b : Byte) : Option Nat := (List.range 8).find? (fun i => b == 1#8 <<< i)

/-- SR of a code word as read: R xor R' (R284). -/
def rcSR (w : BitVec 80) : Byte := w.extractLsb' 64 8 ^^^ rowParity (w.extractLsb' 0 64)

/-- SC of a code word as read: C xor C' (R284). -/
def rcSC (w : BitVec 80) : Byte := w.extractLsb' 72 8 ^^^ colParity (w.extractLsb' 0 64)

/-- The class of a code word and the data delivered (R285). -/
def rcRead (w : BitVec 80) : RcClass × BitVec 64 :=
  let data := w.extractLsb' 0 64
  let sr := rcSR w
  let sc := rcSC w
  if sr = 0 ∧ sc = 0 then (.clean, data)
  else if sr = 0xFF ∧ sc = 0xFF then (.poisoned, data)
  else match oneBit sr, oneBit sc with
    | some i, some j => (.corrected, data ^^^ (1#64 <<< (8 * i + j)))
    | some _, none => if sc = 0 then (.checkBit, data) else (.uncorrectable, data)
    | none, some _ => if sr = 0 then (.checkBit, data) else (.uncorrectable, data)
    | none, none => (.uncorrectable, data)

/-! ### Queue words (R300): 64 data bits with an 8-bit extended Hamming code -/

/-- Outcome of reading a 72-bit queue word. -/
inductive QClass where
  | clean
  | corrected
  | uncorrectable
deriving DecidableEq, Repr

/-- The class that a pattern of flipped bits gives a queue word: the code corrects one bit in error and detects two
(R300); three or more the manual does not promise to detect, and the model reads them as detected (assumption 5). -/
def qClassOf (flip : BitVec 72) : QClass :=
  match popcount flip with
  | 0 => .clean
  | 1 => .corrected
  | _ => .uncorrectable

end Sys2Proof.Machine
end

