-- ==== Sys2Proof/Machine/State.lean ====
section
/-! DEFINITION. The state of the part as plain data, everything the manual gives it, and the state after reset.
Tables are `Sparse`: an unlisted number holds the structure's default, which is its reset value. Numbers of units are
flat: clause 66*die + k, cell 16*clause + c, lane or link 8*die + l, DMA channel 32*die + c, DRAM channel 2*die + ch,
port 4*die + p. -/

namespace Sys2Proof.Machine

/-- A byte memory: (address, byte) pairs, addresses strictly rising, no entry equal to what an unlisted address reads as. -/
abbrev Mem := List Host.Cell

/-! ## Outputs -/

/-- A block of a link (R220): control or data by its sync header, and its payload, byte 0 in bits 7-0. -/
structure Blk where
  ctl : Bool
  payload : BitVec 64
deriving DecidableEq, Repr

/-- What the part drives at its boundary, in the order it does so. -/
inductive Out where
  /-- An MSI-X vector (R354). -/
  | msix (v : Nat)
  /-- The first posted write of a completion entry to slot `slot` of completion ring `c`: bytes 0-30 (R366). -/
  | completion (c slot : Nat) (bytes : List Byte)
  /-- The second: byte 31, the phase in bit 7 (R366). -/
  | completionPhase (c slot : Nat) (b : Byte)
  /-- A write to host memory (14, ADDR parameters). -/
  | hostWrite (addr : Nat) (bytes : List Byte)
  /-- A read of the entry at index `ix` of submission ring `c` (R365). -/
  | fetch (c ix : Nat)
  /-- Data returned to a host read; `ur`: Unsupported Request, `ep`: poisoned completion (R353, R356, R357). -/
  | readData (bytes : List Byte) (ur ep : Bool)
  /-- A configuration request: a read answered with its value, or, `none`, any answered with Configuration Request Retry Status (R350). -/
  | config (reg : Nat) (value : Option Word)
  /-- A block read returned on SMBus (R450). -/
  | smbData (bytes : List Byte)
  /-- A frame sent on the UART (R450). -/
  | uart (bytes : List Byte)
  /-- A sync frame on SYNCOUT: the 56 cells (R188). -/
  | syncFrame (cells : BitVec 56)
  /-- A 66-bit block sent on a lane (R220): the block, and its 64 payload bits as scrambled. -/
  | block (die lane : Nat) (b : Blk) (wire : BitVec 64)
  /-- So many IDLE blocks in succession on a lane (R220). -/
  | idleBlocks (die lane count : Nat)
  /-- A link stops driving its lanes (R229). -/
  | eidle (die link : Nat)
  /-- A training word sent on a lane, UI 0 in bit 0 (R224). -/
  | training (die lane : Nat) (word : BitVec 1056)
  /-- TDO of the chain after a falling TCK edge (R450). -/
  | tdo (b : Bool)
  /-- A fabric packet sent, or a replay asked for (R359). -/
  | fabricReplay (die port : Nat)
  | heartbeat (die : Nat)
  /-- Bytes that a read burst of a die's DRAM delivers to request `id` (R307). -/
  | dramData (die id : Nat) (bytes : List Byte) (poisoned : Bool)
  /-- A write of a die's DRAM has reached every channel it goes to (R310). -/
  | dramDone (die id : Nat)
  /-- The halfword that an atomic of a die's management core returns (R281). -/
  | coreAtomic (die : Nat) (old : BitVec 16)
deriving DecidableEq, Repr

/-! ## Package: identity, fuses, Dialect (00, 02) -/

/-- What an ordering code fixes (R1, R6), the fused identity (R348, R450), and the density in Gb of each DRAM channel's devices as fitted,
32 where not listed (R303, assumption 6). -/
structure Part where
  dies : Nat := 8
  stepping : BitVec 8 := 0
  romRelease : BitVec 8 := 1
  grade : BitVec 8 := 0x53
  serial : BitVec 64 := 0
  density : Sparse Nat := []
deriving DecidableEq, Repr

/-- Key ring and rollback counter in fuses (R55, R56, R70). -/
structure Fuses where
  rollback : BitVec 6 := 0
  revoked : BitVec 4 := 0
  programmed : BitVec 4 := 1
  keys : Sparse (List Byte) := []
deriving DecidableEq, Repr

/-- STATE of PKG_GSTAT (R70). -/
inductive GState where
  | none
  | loading
  | active
  | failed
  | switching
deriving DecidableEq, Repr

/-- PKG_DIALECT, PKG_GSTAT, PKG_GID, PKG_GREV and PKG_GCRC (R70). -/
structure DialectRegs where
  loads : BitVec 16 := 0
  pinSlot : BitVec 2 := 0
  valid : Bool := false
  active : BitVec 2 := 0
  gstate : GState := .none
  failSlot : BitVec 2 := 0
  failCode : BitVec 8 := 0
  failSection : BitVec 16 := 0xFFFF
  gid : Word := 0
  grev : Word := 0
  gcrc : Word := 0
deriving DecidableEq, Repr

/-- A ROWS entry (R42). -/
structure RowCfg where
  row : Nat := 0
  mode : Nat := 0
  strips : Nat := 0
  lead : Nat := 4
  p : Nat := 1
  integrity : Nat := 0
  overlay : Bool := false
  minFire : Nat := 4000
deriving DecidableEq, Repr

/-- A used slot (R43): die, slot, row and strip position. -/
structure SlotCfg where
  die : Nat
  slot : Nat
  row : Nat
  pos : Nat
deriving DecidableEq, Repr

/-- A ROUTES entry (R45): CLASS 0 HALO, 1 BLOCK. -/
structure Route where
  id : Nat
  cls : Nat
  dies : List Nat
deriving DecidableEq, Repr

/-- A HALO entry (R46). -/
structure HaloCfg where
  row : Nat
  route : Nat
  pos : Nat
deriving DecidableEq, Repr

/-- A QUEUES entry (R47); DIE 0xFF is every die. -/
structure QueueCfg where
  cls : Nat
  die : Nat
  depth : Nat
deriving DecidableEq, Repr

/-- A DMA entry (R48). -/
structure DmaCfg where
  die : Nat
  ch : Nat
  use : Nat
  prio : Nat
  pz4 : Bool
  arg : Nat
deriving DecidableEq, Repr

/-- An IMAGE (R49), its words and initial data. -/
structure Image where
  id : Nat
  dataAddr : Nat
  rowMask : BitVec 64
  cellMask : BitVec 16
  entry : Nat
  words : List Word
  data : List Byte
deriving DecidableEq, Repr

/-- The Grammar's sections as applied (R37-R52). -/
structure Grammar where
  clocks : List (BitVec 16) := []
  rows : List RowCfg := []
  slots : List SlotCfg := []
  routes : List Route := []
  halos : List HaloCfg := []
  queues : List QueueCfg := []
  dma : List DmaCfg := []
  images : List Image := []
deriving DecidableEq, Repr

/-- A parameter record held (R58): its payload without padding. -/
structure ParamRec where
  typ : BitVec 16
  target : Word
  payload : List Byte
deriving DecidableEq, Repr

/-- A Dialect load in progress (R61): who waits for it, the slot, whether it has passed the commit point, and the CRCs
the first pass computed (R63), and the used slots of the Dialect it takes down (R69). -/
structure LoadJob where
  slot : Nat
  cmd : Option CmdHdr
  second : Bool := false
  crcs : List Word := []
  oldSlots : List SlotCfg := []
deriving DecidableEq, Repr

/-! ## Page store (03) -/

/-- A defined page (R75). -/
structure Page where
  id : Word
  bands : Nat
  rows : BitVec 64
deriving DecidableEq, Repr

/-- The identity of a block (R77). -/
structure BlockId where
  page : Word
  copy : Word
  row : Nat
  strip : Nat
  band : Nat
deriving DecidableEq, Repr

/-- A block of the page store of one die (R81, R82, R96): identity, kind, flags, lengths and CRCs of its header, where it
stands in the die's DRAM (bytes), and whether it is BAD (R100). A block in the page cache has `cached` set (R98); a
superseded block still being read has `old` set (R93). -/
structure Block where
  die : Nat
  id : BlockId
  kind : Nat
  raw : Bool
  sig : Bool
  payloadLen : Nat
  rawCrc : Word
  storedCrc : Word
  maskCrc : Word
  blockLen : Nat
  addr : Nat
  bad : Bool := false
  cached : Bool := false
  old : Bool := false
deriving DecidableEq, Repr

/-- A block of a load in a page cache: its index and offset in the stream, its die and its address there (R98, R99). -/
structure CacheRef where
  index : Nat
  offset : Nat
  die : Nat
  addr : Nat
deriving DecidableEq, Repr

/-- How a load that goes no further will end, once its earlier blocks have left their caches: the status, and the index, offset, reason
and die of its result (R92, R387). -/
structure LoadStop where
  status : Nat
  index : Nat
  offset : Nat
  reason : Nat
  die : Nat
deriving DecidableEq, Repr

/-- A LOAD_BLOCKS at work (R99, R377, R378, R388): the index and offset of the next block of its stream, the bytes left of it,
whether the host read failed, its blocks still in a page cache, how it ends once it has stopped, and the last block placed. -/
structure LoadWait where
  hdr : CmdHdr
  len : Nat
  offset : Nat := 0
  index : Nat := 0
  flags : BitVec 16
  rest : List Byte
  busError : Bool := false
  cached : List CacheRef := []
  stop : Option LoadStop := none
  last : Option BlockId := none
deriving DecidableEq, Repr

/-- The page compressor of a die (R118-R126): its registers; the kind, destination and output space of the job, as they stood at its
START; the address of the block of its page cache it works on; and the bytes fed to it by DMA. -/
structure Compressor where
  kind : Bool := false
  dst : BitVec 34 := 0
  limit : BitVec 17 := 0
  jobKind : Bool := false
  jobDst : BitVec 34 := 0
  jobLimit : BitVec 17 := 0
  state : BitVec 2 := 0
  result : BitVec 8 := 0
  startIgn : Bool := false
  olen : BitVec 17 := 0
  icrc : Word := 0
  ocrc : Word := 0
  space : BitVec 16 := 0
  ok : BitVec 16 := 0
  block : Option Nat := none
  inp : List Byte := []
deriving DecidableEq, Repr

/-! ## Clauses, decompressors and lines (01, 04, 09) -/

/-- States of a clause line (R24, R254). A Free slot is a line no longer listed. -/
inductive LineState where
  | filling
  | checking
  | ready
  | withheld
deriving DecidableEq, Repr

/-- Where a clause line with page data lies in the job (R392): the job copy, its page and copy number, and the page line. -/
structure PLine where
  jobCopy : Nat
  page : Word
  copy : Word
  band : Nat
  bandLine : Nat
deriving DecidableEq, Repr

/-- A clause line in flight: its row line, its place in the job (none: no page data), its sequence number among the lines
dispatched (R133), its state and, when withheld, the cause (R273); the cells whose segment has landed, has begun, and still
owes its re-run (R138); the state of the re-run and of the fault that waits on it (R254); its ring slot (R24), its
parameter window (R139), FIRST (R134), and the codes that have landed, 16 columns to a word, with the words that are
poisoned (R288). -/
structure CLine where
  line : Nat
  at_ : Option PLine
  q : Nat
  st : LineState := .filling
  cause : Nat := 0
  segs : BitVec 16 := 0
  begun : BitVec 16 := 0
  rerunDue : BitVec 16 := 0
  rerun : Bool := false
  rerunWait : Bool := false
  fault : Bool := false
  sig1 : Option Word := none
  trap1 : Option (Nat × Nat × Nat) := none
  slot : Option Nat := none
  win : Bool := false
  first : Bool := false
  codes : Sparse (BitVec 64) := []
  poison : List Nat := []
  flips : Sparse (BitVec 80) := []
deriving DecidableEq, Repr

/-- A block being read into the band ring (R95, R258): its header as read, the payload and mask bytes fetched so far with
the poisoned ones, whether the band has lost its rewind mark (R258), and whether it has failed its check (R34, R117). -/
structure BandIn where
  block : Block
  absBand : Nat
  overlay : Bool
  hdr : List Byte := []
  bytes : List Byte := []
  mask : List Byte := []
  poison : List Nat := []
  maskPoison : List Nat := []
  flips : Sparse (BitVec 80) := []
  maskFlips : Sparse (BitVec 80) := []
  lost : Bool := false
  failed : Bool := false
deriving DecidableEq, Repr

/-- A token being emitted (R109, R114): literal bytes left in the stream, a value, or a copy at an offset. -/
inductive TokSrc where
  | literal
  | value (v : Byte)
  | copy (d : Nat)
deriving DecidableEq, Repr

/-- A line checkpoint (R111); `zero`: the line lies wholly in the zero fill after a format error (R117). -/
structure Ckpt where
  absBand : Nat
  line : Nat
  inPos : Nat
  outPos : Nat
  crc : Word
  zero : Bool := false
deriving DecidableEq, Repr

/-- State of a decompressor (CLS_CDC_STAT, R125). -/
inductive DecState where
  | idle
  | run
  | stall
  | wait
deriving DecidableEq, Repr

/-- A band decompressor and its follower (R106-R117): state, the block being decoded (by absolute band) and the positions
in it, the token held across a stall, the zero fill after a format error, the bytes not yet a whole word, the live and
replay windows (oldest byte first), the checkpoints, the line the follower decodes, and the line whose re-expansion waits
for the follower. -/
structure Decomp where
  st : DecState := .idle
  absBand : Nat := 0
  busy : Bool := false
  started : Bool := false
  inPos : Nat := 0
  outPos : Nat := 0
  crc : Word := 0xFFFFFFFF
  tok : Option (TokSrc × Nat) := none
  zeroFill : Bool := false
  acc : List Byte := []
  live : List Byte := []
  replay : List Byte := []
  ckpts : List Ckpt := []
  following : Option Ckpt := none
  reexpand : Option Nat := none
  line : BitVec 6 := 0
deriving DecidableEq, Repr

/-- States of a physical clause (R265). -/
inductive ClauseState where
  | off
  | spare
  | serving
  | fencing
  | fenced
  | testing
deriving DecidableEq, Repr

/-- A physical clause: its state and slot (R265, R278), its fault counts and windows (R260, R261), its lines in flight,
its next row line and sequence number, its windows (R139), its decompressor registers (R125), its band ring and
decompressors, its part in a migration (R266-R269): for a clause taken over, the halo records still due to it on each side, and whether it returns to
SPARE (R261); the band from which a lost halo route withholds its lines (R362), its halo queues and delay stage (R174), and the command
that tests it (R270). -/
structure Clause where
  st : ClauseState := .off
  slot : Nat := 0
  powered : Bool := false
  suspectOff : Bool := false
  transient : BitVec 16 := 0
  withheldCnt : BitVec 16 := 0
  suspects : List Nat := []
  suspectOf : Option (Nat × Nat) := none
  rewind : BitVec 16 := 0
  lastFault : Option Nat := none
  lastLine : Word := 0
  lines : List CLine := []
  nextLine : Nat := 0
  nextQ : Nat := 0
  fresh : Bool := true
  win : Bool := false
  winWritten : Bool := false
  winDirty : Bool := false
  fmtCnt : BitVec 16 := 0
  crcCnt : BitVec 16 := 0
  lastCause : BitVec 2 := 0
  lastDec : Bool := false
  lastFcode : BitVec 3 := 0
  lastCdcLine : BitVec 6 := 0
  lastBand : BitVec 16 := 0
  stallCycles : Word := 0
  dec0 : Decomp := {}
  dec1 : Decomp := {}
  input : List BandIn := []
  nextBand : Nat := 0
  ovlWait : Bool := false
  rewindWait : Bool := false
  spareFor : Option Nat := none
  preparing : Option Nat := none
  prepared : Bool := false
  endLine : Option Nat := none
  haloLost : Option Nat := none
  needL : Nat := 0
  needR : Nat := 0
  returns : Bool := false
  haloL : List (BitVec 128) := []
  haloR : List (BitVec 128) := []
  testCmd : Option CmdHdr := none
deriving DecidableEq, Repr

/-! ## Cells (05) -/

/-- CEL_STAT.STATE (R161). -/
inductive CellState where
  | off
  | run
  | wait
  | restart
deriving DecidableEq, Repr

/-- One open hardware loop level (R151). -/
structure LoopLevel where
  count : Nat
  start : Nat
  stop : Nat
deriving DecidableEq, Repr

/-- The frame declaration (R132). -/
structure FrameDecl where
  fbase : Nat
  k : Nat
  cw : Nat
  logw : Nat
deriving DecidableEq, Repr

/-- A cell's present segment (R130): the clause line, its sequence number, whether it is a re-run, and the counts the
rules keep over it (R140, R138, R158). -/
structure Segment where
  line : Nat
  q : Nat
  rerun : Bool
  win : Bool
  band : BitVec 16
  bandLine : BitVec 6
  pushed : Nat := 0
  recvs : Nat := 0
  cycles : Nat := 0
deriving DecidableEq, Repr

/-- What a cell's issue waits for (R138, R140, R142, R143, R145, R146): room in the output stream; room in a port; a vector
in a port; at most `n` bank requests; bytes of data SRAM that a bank request or a replayed record still owes; a register a
BATM still owes. -/
inductive Stall where
  | output
  | send (right : Bool)
  | recv (right : Bool)
  | banks (n : Nat)
  | bytes (ranges : List (Nat × Nat))
  | reg (r : Nat)
deriving DecidableEq, Repr

/-- An outstanding bank request (R141, R142): a BGET copies `n` words from a bank byte address into data SRAM; a BGV gathers
eight halfwords; a BATM acts on one halfword and returns it to a register, its instruction's PC kept for a trap. -/
inductive BankReq where
  | get (src n dst : Nat)
  | gather (addrs : List Nat) (dst : Nat)
  | atomic (addr : Nat) (replace : Bool) (v : BitVec 16) (rd : Nat) (pc : BitVec 10)
deriving DecidableEq, Repr

/-- A word of a line record on its way to the cell's frame (R133). -/
structure InWord where
  q : Nat
  ix : Nat
  w : BitVec 64
  poisoned : Bool := false
deriving DecidableEq, Repr

/-- A cell (R127): its registers, its place in the line protocol (R130-R138), the words of records that have landed in its
frames (by sequence number), the vectors logged in each, and its registers of R161. Its SRAMs are flat memories of
State. -/
structure Cell where
  st : CellState := .off
  pc : BitVec 10 := 0
  s : Sparse (BitVec 16) := []
  v : Sparse (BitVec 128) := []
  p : Sparse (BitVec 8) := []
  loops : List LoopLevel := []
  outWord : BitVec 64 := 0
  seg : BitVec 4 := 0
  frame : Option FrameDecl := none
  entry : BitVec 10 := 0
  dataLo : Nat := 0
  dataLen : Nat := 0
  cur : Option Segment := none
  nextQ : Nat := 0
  stall : Option Stall := none
  banks : List BankReq := []
  inq : List InWord := []
  outq : List (Nat × Nat × BitVec 64) := []
  portL : List (BitVec 128) := []
  portR : List (BitVec 128) := []
  recWords : Sparse (BitVec 64) := []
  logs : Sparse Nat := []
  cause : BitVec 4 := 0
  code : BitVec 8 := 0
  trapPc : BitVec 10 := 0
  trapBand : BitVec 16 := 0
  noLine : Bool := false
  trapRerun : Bool := false
  trapLine : BitVec 6 := 0
  overruns : BitVec 16 := 0
  traps : BitVec 16 := 0
  segMax : BitVec 16 := 0
  overLen : List Nat := []
  reload : Option Bool := none
deriving DecidableEq, Repr

/-! ## Memory engine and queues (10) -/

/-- The scrubber and repairer of a die's arrays (R289-R292, R302): the tracker (block, scrub write-backs), oldest first; stuck blocks
whose rows wait for their clause and blocks whose rows are being repaired; the rows repaired, each by its first block, with the spare
row that stands for it; spare rows (array, number) found defective; and the next block of the scan, none at its start. -/
structure Scrub where
  period : BitVec 16 := 256
  enable : Bool := true
  passes : BitVec 16 := 0
  stuck : BitVec 8 := 0
  writebacks : BitVec 8 := 0
  full : BitVec 8 := 0
  repaired : BitVec 8 := 0
  tracker : List (ArrBlock × Nat) := []
  deferred : List ArrBlock := []
  repairing : List ArrBlock := []
  rows : List (ArrBlock × Nat) := []
  badSpares : List (ArrBlock × Nat) := []
  next : Option ArrBlock := none
deriving DecidableEq, Repr

/-- The march-test engine of a die (R293-R296, R302): its registers, the test under way, the row last yielded with its yields so far, the rows skipped, the
clause it powered for the test alone (R20), and the MARCH command it works for. -/
structure March where
  mode : Bool := false
  kind : BitVec 8 := 0
  index : BitVec 7 := 0
  runMode : Bool := false
  runKind : BitVec 8 := 0
  runIndex : BitVec 7 := 0
  busy : Bool := false
  result : BitVec 3 := 0
  failed : BitVec 8 := 0
  untested : BitVec 8 := 0
  yields : BitVec 12 := 0
  row : Option ArrBlock := none
  rowYields : Nat := 0
  skipped : List ArrBlock := []
  powered : Option Nat := none
  cmd : Option CmdHdr := none
deriving DecidableEq, Repr

/-- An event, telemetry or trace queue of a die (R297, R301, R302). -/
structure EvQueue where
  items : List QItem := []
  ovf : Bool := false
  high : BitVec 10 := 0
  lost : Word := 0
  lostNew : Nat := 0
deriving DecidableEq, Repr

/-- MGT_MEM_CORR of one class (R302). -/
structure MemCorr where
  corr : BitVec 16 := 0
  uncorr : BitVec 16 := 0
deriving DecidableEq, Repr

/-! ## DRAM (11) -/

/-- DDR_CH_STAT.STATE (R323). -/
inductive DdrState where
  | off
  | train
  | active
  | retrain
  | retired
deriving DecidableEq, Repr

/-- A request in a channel's queue: what is left of it, its slack in lines (R311) and the tick it entered. -/
structure DWait where
  req : DReq
  slack : Nat
  since : Nat
deriving DecidableEq, Repr

/-- PATTERN, OP, ROW and SEED of DDR_TRN_CTRL (R323). -/
structure TrnCtl where
  pattern : BitVec 3 := 0
  op : BitVec 2 := 0
  row : BitVec 4 := 0
  seed : BitVec 16 := 0
deriving DecidableEq, Repr

/-- What stands in a training row (R317): a pattern with the bits of its beats that were written wrong, or, `blank`, bits that the manual
does not give. -/
structure TrnRow where
  blank : Option Nat := some 0
  pattern : BitVec 3 := 0
  seed : BitVec 16 := 0
  errs : List (Nat × BitVec 32) := []
deriving DecidableEq, Repr

/-- A DRAM channel (R303-R323). `asks`: the refresh rate last requested in MR4, coded as MIN_RATE; `queue`: requests not yet issued whole,
in the order they entered; `issued`: read bursts on their way; `run`: deadline slots in a row; `batch`: writes left of a batch; `openRow`
(row + 1), `bankHits`, and `debts` (refreshes behind, negative ahead) by bank; `chk`: check bursts cached, last read first, by unit, with
the bits of their records that stand flipped (R308); `scrNext`: the unit scrubbed next; `tracker`: blocks with their scrub write-backs;
`repairs`: rows to repair at the next fast retrain, `repaired` rows done; `trnRows`: the training rows, `trnRun` the settings of a helper
run under way; `mustTrain`: stored settings are not to be reused (R318); `faultAt`: the instant of a fault whose class is not yet known
(R321). -/
structure DdrCh where
  st : DdrState := .off
  pinned : Bool := false
  hot : Bool := false
  asks : BitVec 3 := 0
  mr4 : BitVec 4 := 0
  drift : Int := 0
  age : BitVec 8 := 128
  dlRun : BitVec 4 := 7
  sc2 : BitVec 8 := 64
  sc1 : BitVec 6 := 16
  sc0 : BitVec 4 := 4
  driftMax : BitVec 8 := 24
  minRate : BitVec 3 := 2
  misdir : BitVec 8 := 0
  uncorr : BitVec 8 := 0
  corr : BitVec 16 := 0
  eccClass : BitVec 2 := 0
  eccBlock : BitVec 28 := 0
  scrPeriod : BitVec 16 := 1024
  stuck : BitVec 8 := 0
  scrEnable : Bool := true
  trn : TrnCtl := {}
  trnRun : Option TrnCtl := none
  trnRows : Sparse TrnRow := []
  trnMask : Word := 0
  trnBits : BitVec 31 := 0
  queue : List DWait := []
  issued : List DReq := []
  run : Nat := 0
  batch : Nat := 0
  mgtTurn : Bool := true
  openRow : Sparse Nat := []
  bankHits : Sparse Nat := []
  debts : Sparse Int := []
  chk : List (Nat × Sparse (BitVec 64)) := []
  scrNext : Nat := 0
  tracker : List (Nat × Nat) := []
  repairs : List Nat := []
  repaired : List Nat := []
  trainTries : Nat := 0
  mustTrain : Bool := false
  settings : List Byte := []
  wantRetrain : Bool := false
  faultAt : Option Nat := none
deriving DecidableEq, Repr

/-! ## DMA (12) -/

/-- DMA_CH_STAT.STATE (R346). -/
inductive DmaState where
  | idle
  | run
  | wait
  | readback
  | halted
  | fenced
deriving DecidableEq, Repr

/-- A DMA channel (R328-R346); `haltAt`: the instant of a halt whose class is not yet known (R263, R341). -/
structure DmaCh where
  trig : BitVec 8 := 0
  use : BitVec 4 := 0
  req : BitVec 4 := 0
  pz4 : Bool := false
  prio : BitVec 2 := 0
  st : DmaState := .idle
  armed : Bool := false
  cause : BitVec 4 := 0
  remain : BitVec 24 := 0
  ign : Bool := false
  src : BitVec 64 := 0
  dst : BitVec 64 := 0
  evt : Bool := false
  evtLine : BitVec 8 := 0
  count : BitVec 24 := 0
  moved : Nat := 0
  shSrc : BitVec 64 := 0
  shDst : BitVec 64 := 0
  shCount : BitVec 24 := 0
  shWait : Bool := false
  shEvt : Bool := false
  shEvtLine : BitVec 8 := 0
  desc : BitVec 64 := 0
  err : BitVec 64 := 0
  crc : Word := 0
  running : Word := 0xFFFFFFFF
  tail : Word := 0
  okCnt : BitVec 16 := 0
  badCnt : BitVec 8 := 0
  halts : BitVec 8 := 0
  chain : Bool := false
  curDesc : Word := 0
  curEnd : Bool := false
  curNext : Word := 0
  fetching : Bool := false
  refetch : Bool := false
  doorbell : Bool := false
  inflight : List Nat := []
  haltAt : Option Nat := none
  arg : Nat := 0
deriving DecidableEq, Repr

/-- The per-die DMA state: PZ4 interrupt registers (R347) and, for each priority level, the channel at which each mover's next round begins
(R334). -/
structure DmaDie where
  irq : Word := 0
  mask : Word := 0xFFFFFFFF
  lastSys : Sparse Nat := []
  lastGath : Sparse Nat := []
deriving DecidableEq, Repr

/-! ## Timing and fire placement (07) -/

/-- The sync function of die 0 (R187-R189, R212); `agreed` counts the latest frames in a row that agreed, `lastFrame` is the tick from
which epochs without a valid frame are counted; `phase`: 1/64 ticks by which the counter's ticks have been shifted. -/
structure Sync where
  repeat_ : Bool := false
  mode : BitVec 2 := 0
  dlyTicks : BitVec 16 := 0
  dlyFrac : BitVec 6 := 0
  lock : Bool := false
  fault : Bool := false
  lost : Bool := false
  bad : BitVec 8 := 0
  frames : BitVec 16 := 0
  agreed : Nat := 0
  lastFrame : Nat := 0
  phase : BitVec 6 := 0
deriving DecidableEq, Repr

/-- What a line generator knows of a count: its tick, the counts made since reset, whether the encoder was READY, and Tp in 1/64 ticks (R192, R194). -/
structure CountRec where
  t : Nat
  c : Int
  ready : Bool
  tp : Nat
deriving DecidableEq, Repr

/-- A substrate encoder (R190-R192, R213). `stamps` are the last 17 timestamps of the run,
newest first; `candA`, `candB`: the first samples of new levels of A and B that the filter has not accepted yet; `total`: the counts made
since reset, which do not wrap; `acts` are counts sent to the line generators and not yet acted on (R361), oldest first; `last` is the latest acted on. -/
structure Encoder where
  count : Word := 0
  idx : Word := 0
  idxSeen : Bool := false
  cpr : BitVec 16 := 0
  invert : Bool := false
  filt : BitVec 2 := 0
  qerr : BitVec 16 := 0
  slip : BitVec 8 := 0
  a : Bool := false
  b : Bool := false
  candA : Option Nat := none
  candB : Option Nat := none
  total : Int := 0
  fwd : Bool := true
  stamps : List Nat := []
  acts : List CountRec := []
  last : Option CountRec := none
deriving DecidableEq, Repr

/-- LGN_ROW_STAT.STATE (R213). -/
inductive RowState where
  | idle
  | armed
  | run
  | stopping
deriving DecidableEq, Repr

/-- A row's line generator and counters (R193-R197, R213, R262). Instants are in 1/64 ticks. -/
structure Row where
  st : RowState := .idle
  line : Nat := 0
  pred : Option Nat := none
  committed : Option Nat := none
  tl : Nat := 0
  tickDue : List (Nat × Nat) := []
  lastFire : Option Nat := none
  lastDropped : Bool := false
  period : Word := 0
  ovsCopy : BitVec 16 := 0
  ovsTotal : BitVec 16 := 0
  lineCount : Nat := 0
  gathered : Option Nat := none
  lastReg : Word := 0
  nowLine : Option Nat := none
deriving DecidableEq, Repr

/-- A head line of a channel in the Tynel output ring (R25, R237-R239): the codes gathered, whether it takes the cool table, the
cause for which the channel was stopped when its gather began or was cut since (R210, R246; 0 none), its segments sent,
acknowledged and replayed, and, once committed, whether it fires and when (1/64 ticks). -/
structure HeadLine where
  line : Nat
  codes : List (BitVec 4) := []
  total : Nat := 0
  done : Bool := false
  cool : Bool := false
  stop : Nat := 0
  sent : List Nat := []
  acked : List Nat := []
  replays : Sparse Nat := []
  committed : Option Bool := none
  fireAt : Nat := 0
  spit : Bool := false
deriving DecidableEq, Repr

/-- A head channel (R196-R210, R239-R247). -/
structure HeadCh where
  temp : BitVec 2 := 0
  late : BitVec 16 := 0
  silent : Bool := false
  tempC : BitVec 16 := 0
  lines : List HeadLine := []
  nextGather : Nat := 0
  hist : Sparse (BitVec 4) := []
  histBad : List Nat := []
  baseNext : Nat := 0
  baseOwed : Bool := false
  baseTries : Nat := 0
  baseFailed : Bool := false
  lat : Nat := 2560
  latCaps : Nat := 2560
  turn : Nat := 0
  fireLat : Nat := 0
  boardId : Word := 0
  eseq : BitVec 16 := 0
  echoing : Bool := false
  round : Option Nat := none
  missedCnt : BitVec 16 := 0
  lateCnt : BitVec 16 := 0
  copiesSince : List Nat := []
  fault : Option Nat := none
deriving DecidableEq, Repr

/-- An agreement group's registers (R213). -/
structure GroupStat where
  withheld : BitVec 16 := 0
  lastH : BitVec 8 := 0
deriving DecidableEq, Repr

/-! ## Tynel links (08) -/

/-- Link states (R223). -/
inductive LinkState where
  | down
  | detect
  | train
  | bitlock
  | blocklock
  | caps
  | active
  | idle
  | retrain
  | capsFail
  | retired
deriving DecidableEq, Repr

/-- Kinds of frame that wait to be sent (R231, R239). -/
inductive FrameKind where
  | replay
  | control
  | line
deriving DecidableEq, Repr

/-- A frame that waits or is under way on a link, with the blocks of it still to send (R231). A line or replay frame names its channel,
line and segment; a control frame has its opcode in `h`. `closed`: its EOF is among the blocks. -/
structure TxFrame where
  kind : FrameKind
  h : Nat := 0
  line : Nat := 0
  seg : Nat := 0
  blks : List Blk := []
  started : Bool := false
  closed : Bool := false
deriving DecidableEq, Repr

/-- A Tynel link (R223-R249). Its block stream: the instant of slot 0 in 1/64 ticks, the next slot, the frames that wait or are under
way, and the blocks that wait for the first position of a slot (R221, R222, R231); `round`: the last round trip of a CAPS exchange whose
TURN is not yet known (R247). -/
structure Link where
  st : LinkState := .down
  cause : BitVec 4 := 0
  lanes : BitVec 8 := 0
  poly : BitVec 2 := 0
  tx : Word := 0
  replays : BitVec 16 := 0
  naks : BitVec 16 := 0
  timeouts : BitVec 16 := 0
  badUp : BitVec 8 := 0
  missed : BitVec 8 := 0
  lat : BitVec 14 := 0
  fastTries : Nat := 0
  capsTries : Nat := 0
  configTries : Nat := 0
  idleSince : Nat := 0
  storedTemp : Int := 0
  reneg : Bool := false
  caps : List Byte := []
  configSent : Bool := false
  stored : Bool := false
  cseq : BitVec 16 := 0
  round : Option Nat := none
  origin : Nat := 0
  slot : Nat := 0
  frames : List TxFrame := []
  singles : List Blk := []
deriving DecidableEq, Repr

/-- A Tynel lane (R224, R225, R249). `lossAt`: the instant of a loss of lock whose class is not yet known (R226, R263); `retry`: it exceeded
the TRAIN limit once (R223); `aligned`: an ALIGN block came since block lock was sought (R223); `hdrAt`: the instants of the latest invalid
headers (R226); `scr` and `prbs`: the registers of its scrambler and of its PRBS11 generator (R220, R224; assumption 41). -/
structure Lane where
  retired : Bool := false
  blockLock : Bool := false
  bitLock : Bool := false
  detected : Bool := false
  lockLoss : BitVec 8 := 0
  hdrErr : BitVec 16 := 0
  txPre : BitVec 4 := 0
  txPost : BitVec 5 := 0
  ctle : BitVec 4 := 0
  dfe1 : BitVec 8 := 0
  skew : BitVec 6 := 0
  rxReady : Bool := false
  farReady : Bool := false
  farFinal : Nat := 0
  farPre : BitVec 4 := 0
  farPost : BitVec 5 := 0
  limitHit : Bool := false
  lossAt : Option Nat := none
  retry : Bool := false
  aligned : Bool := false
  hdrAt : List Nat := []
  scr : BitVec 58 := 0
  prbs : BitVec 11 := 0x7FF
deriving DecidableEq, Repr

/-- The eye-scan engine of a die (R248, R249). -/
structure Eye where
  lane : BitVec 3 := 0
  voff : BitVec 6 := 0
  poff : BitVec 6 := 0
  dwell : BitVec 4 := 0
  busy : Bool := false
  abort : Bool := false
  err : Word := 0
deriving DecidableEq, Repr

/-! ## Integrity: fences and defects (09) -/

/-- STATE of a fence record (R272). -/
inductive FenceState where
  | never
  | fenced
  | testing
  | unfenced
deriving DecidableEq, Repr

/-- A fence record and the fault window of its unit (R260, R272). The key is 143*die + the unit's place in FENCE_READ's
order; head channels are keyed by 256*die + h in a table of their own. -/
structure Fence where
  st : FenceState := .never
  reason : BitVec 8 := 0
  faults : BitVec 16 := 0
  time : BitVec 64 := 0
  last : Option Nat := none
  safety : Bool := false
deriving DecidableEq, Repr

/-- A defect entry of a copy (R274). -/
structure Defect where
  flag : Bool := false
  causes : BitVec 16 := 0
  lost : Nat := 0
deriving DecidableEq, Repr

/-- A run of withheld lines or skipped fires not yet logged (R274). -/
structure Run where
  jobCopy : Nat
  page : Word
  copy : Word
  row : Nat
  strip : Nat
  cause : Nat
  first : Nat
  last : Nat
  count : Nat
  time : BitVec 64
  die : Nat
deriving DecidableEq, Repr

/-! ## Jobs (14) -/

/-- STATE of JOB_STATUS while a job is open (R398). -/
inductive JobState where
  | armed
  | running
  | closed
deriving DecidableEq, Repr

/-- The job (R390-R398), kept until its JOB_END report is collected: `boundary` is the BOUNDARY that JOB_STOP returned, `cut` the
boundary beyond which lines hold zeros, `stoppedFrom` the first copy that a NOW stop cut short; `begun`, `ready` and `reported`
count copies whose printing the lead row began, whose report is ready, and whose report was delivered. -/
structure Job where
  id : Word
  pages : List Word
  bands : List Nat
  startEnc : Nat
  startIndex : Bool
  gutter : Nat
  rounds : Nat
  noOverlay : BitVec 8
  rows : List Nat
  encs : List Nat
  st : JobState := .armed
  c0 : Sparse Int := []
  boundary : Option Nat := none
  cut : Option Nat := none
  now_ : Bool := false
  reasons : BitVec 16 := 0
  begun : Nat := 0
  ready : Nat := 0
  reported : Nat := 0
  defects : Sparse Defect := []
  allLost : Nat := 0
  defective : Nat := 0
  stoppedFrom : Option Nat := none
  runs : List Run := []
deriving DecidableEq, Repr

/-! ## Rings and mailboxes (13) -/

/-- A submission ring (R363-R371). `stopped`: a failed fetch stops the ring until it is enabled anew (R368); `outstanding`: entries
whose fetch has begun and whose result is not yet given. -/
structure Sq where
  base : BitVec 60 := 0
  enable : Bool := false
  stopped : Bool := false
  err : BitVec 4 := 0
  log2 : BitVec 5 := 4
  tail : BitVec 16 := 0
  head : BitVec 16 := 0
  fetching : Bool := false
  outstanding : Nat := 0
deriving DecidableEq, Repr

/-- A completion ring (R363-R371). `owed`: slots reserved for results not yet posted; `stopped`: a failed write stops the ring (R368). -/
structure Cq where
  base : BitVec 60 := 0
  enable : Bool := false
  stopped : Bool := false
  err : BitVec 4 := 0
  coalCnt : BitVec 8 := 1
  coalTime : BitVec 8 := 0
  log2 : BitVec 5 := 4
  head : BitVec 16 := 0
  tail : BitVec 16 := 0
  phase : Bool := true
  owed : Nat := 0
  unsignalled : Nat := 0
  held : List (List Byte) := []
deriving DecidableEq, Repr

/-- A mailbox (R370, R450). STATE: 0 IDLE, 1 BUSY, 2 DONE. -/
structure Mailbox where
  entry : List Byte := []
  state : BitVec 2 := 0
  ign : Bool := false
  status : BitVec 16 := 0
  data : List Byte := []
deriving DecidableEq, Repr

/-- An entry of the command queue (R299). -/
structure CmdEntry where
  src : Src
  bytes : List Byte
deriving DecidableEq, Repr

/-- A parked Long command that waits for an event (R377): its opcode, its header and what its end needs. -/
inductive Parked where
  | report (h : CmdHdr)
  | load (w : LoadWait)
  | keyOp (h : CmdHdr) (op slot value : Nat) (key : List Byte)
  | calRun (h : CmdHdr) (item : Nat) (left : List (Nat × Nat))
  | unfence (h : CmdHdr) (kind die index : Nat)
  | flashWrite (h : CmdHdr) (region addr : Nat) (bytes first : List Byte)
  | imageActivate (h : CmdHdr) (region level : Nat)
  | march (h : CmdHdr) (die : Nat) (kind index : Nat) (mode : Bool)
  | retrain (h : CmdHdr) (die ch : Nat)
  | service (h : CmdHdr) (group : Nat)
  | axis (h : CmdHdr) (axis op : Nat)
  | select (h : CmdHdr) (slot : Nat)
deriving DecidableEq, Repr

/-- Package control of the host port: BAR2 windows and their counts (R353, R371). -/
structure Aperture where
  valid : Bool := false
  die : BitVec 3 := 0
  base : BitVec 6 := 0
deriving DecidableEq, Repr

/-- An entry of the MSI-X table (R354): the message's address and data, and its mask bit. -/
structure MsixVec where
  addr : BitVec 64 := 0
  data : BitVec 32 := 0
  masked : Bool := true
deriving DecidableEq, Repr

/-- The PCIe endpoint as its rules need it (R350, R351, R463, R475). -/
structure Pcie where
  perst : Bool := true
  deasserted : Bool := false
  linkUp : Bool := false
  d3hot : Bool := false
  retry : Bool := true
  limitPassed : Bool := false
  held : List Nat := []
  command : BitVec 16 := 0
  cacheLine : BitVec 8 := 0
  intLine : BitVec 8 := 0
  bar0 : BitVec 64 := 0
  bar2 : BitVec 64 := 0
  bar4 : BitVec 64 := 0
  msixOn : Bool := false
  msixMask : Bool := false
  vecs : Sparse MsixVec := []
  pba : List Nat := []
  ur : BitVec 16 := 0
  dropped : BitVec 16 := 0
deriving DecidableEq, Repr

/-- State of a die-to-die port (R358, R359, R372). -/
inductive PortState where
  | unconnected
  | train
  | up
  | down
deriving DecidableEq, Repr

/-- A block burst on its way to a die: the HOST_IN channel of die 0 that sent it, 32 for another sender, the die and the die address it carries
(R335, R341). -/
structure BlockBurst where
  sender : Nat
  die : Nat
  addr : BitVec 64
  data : List Byte
deriving DecidableEq, Repr

/-- What a packet on the fabric carries: a halo record for a clause and its side, a heartbeat of a die, or a block burst (R360). -/
inductive Cargo where
  | halo (k : Nat) (right : Bool) (v : BitVec 128)
  | beat (die : Nat)
  | block (b : BlockBurst)
deriving DecidableEq, Repr

/-- A packet on the fabric: the die that holds it, the port it came in by (none at the die that sends it), the dies still ahead of it, and
what it carries (R359, R360). -/
structure Flight where
  place : Nat
  via : Option Nat
  path : List Nat
  cargo : Cargo
deriving DecidableEq, Repr

/-- A die-to-die port; `groupReplays`: receipts of the group under way that failed; `ingress`: block bursts that wait for the die's FORWARD channel. -/
structure Port where
  st : PortState := .unconnected
  retrains : BitVec 8 := 0
  replays : BitVec 16 := 0
  groupReplays : Nat := 0
  fails : Nat := 0
  sent : Word := 0
  ingress : List BlockBurst := []
deriving DecidableEq, Repr

/-! ## Motion (15) -/

/-- MOT_AX_STAT.STATE (R432). -/
inductive AxisState where
  | off
  | hold
  | move
  | homing
  | stopping
  | stalled
  | fenced
deriving DecidableEq, Repr

/-- What an axis does when its present motion ends. -/
inductive AxisGoal where
  | none
  | target
  | stop
  | reverse (target : Int)
  | home (phase : Nat)
  | seek
  | backoff
deriving DecidableEq, Repr

/-- A stepper axis (R409-R425). Positions are in 1/2^64 of 1/256 full step, velocities in
the same per profile tick. `encBase` is the position given to the encoder count 0; `trans` holds recent sampled transitions of
the inputs with their times; `restTick` is when the last motion ended, `en` the bridge enable, `encA` and `encB` the accepted levels of
the encoder. -/
structure Axis where
  st : AxisState := .off
  referenced : Bool := false
  stallFlag : Bool := false
  limP : Bool := false
  limN : Bool := false
  home : Bool := false
  res : BitVec 3 := 0
  pos : Int := 0
  vel : Int := 0
  acc : Int := 0
  target : Int := 0
  prof : Nat := 0
  goal : AxisGoal := .none
  holdLow : Bool := false
  cnt : Int := 0
  encBase : Int := 0
  dirA : Bool := false
  dirB : Bool := false
  dutyA : BitVec 10 := 0
  dutyB : BitVec 10 := 0
  stalls : BitVec 16 := 0
  limits : BitVec 8 := 0
  homes : BitVec 8 := 0
  overTicks : Nat := 0
  repeat_ : Option (Int × Nat) := none
  repeating : Bool := false
  homeSeen : Bool := false
  clearFrom : Option Int := none
  trans : List (Nat × Nat) := []
  group : Option Nat := none
  restTick : Nat := 0
  en : Bool := false
  encA : Bool := false
  encB : Bool := false
deriving DecidableEq, Repr

/-- States of a service group (R428). -/
inductive GrpState where
  | unknown
  | print
  | service
  | capped
  | running
  | failed
deriving DecidableEq, Repr

/-- One step of a service (R429). -/
inductive SvcStep where
  | homeAxis (a : Nat)
  | moveTo (a : Nat) (target : Int) (prof : Nat)
  | zeroPump (a : Nat)
  | dwell
  | spit (lines : Nat)
deriving DecidableEq, Repr

/-- A service group (R426-R433); `spitAt` is the timebase tick of the next spit tick. -/
structure Group where
  st : GrpState := .unknown
  service : BitVec 4 := 0
  done : BitVec 16 := 0
  steps : List SvcStep := []
  endState : GrpState := .unknown
  spitLine : Nat := 0
  spitAt : Nat := 0
deriving DecidableEq, Repr

/-! ## Management (16) -/

/-- A sensor reading (MGT_SENSE, R442, R460). -/
structure Sense where
  valid : Bool := false
  out : Bool := false
  value : BitVec 16 := 0
deriving DecidableEq, Repr

/-- A die's management state (R434, R435, R443, R444, R460, R481). -/
structure Mgt where
  warn : Bool := false
  trip : Bool := false
  tmax : BitVec 8 := 0x80
  twarn : BitVec 7 := 105
  coreStopped : Bool := false
  lastBeat : Nat := 0
  pllLock : BitVec 5 := 0
  refloss : BitVec 8 := 0
  lol : BitVec 8 := 0
  trimMax : BitVec 10 := 1023
  trimMin : BitVec 10 := 0
  trim : BitVec 10 := 512
  stage : BitVec 4 := 1
  result : BitVec 2 := 0
  startCause : BitVec 8 := 0
  startTime : BitVec 16 := 0
  bankHalf : Bool := false
  tbHi : Word := 0
  powered : Bool := true
deriving DecidableEq, Repr

/-- An event log entry with its SEQ (R445). -/
structure SeqEntry where
  seq : Word
  e : LogEntry
deriving DecidableEq, Repr

/-- The event log (R447-R449). The RAM ring and the Sleep buffer are oldest first; the flash ring's sectors likewise, `ringFirst` numbering
the place of the oldest in the ring; `uartFrames` are
frames handed to the UART and not yet sent (R450). -/
structure EventLog where
  seq : Word := 0
  ram : List SeqEntry := []
  sleep : List SeqEntry := []
  sleepLost : Nat := 0
  sector : List SeqEntry := []
  sectors : List (List SeqEntry) := []
  ringFirst : Nat := 0
  flashLevel : BitVec 2 := 1
  notify : BitVec 2 := 2
  uartLevel : BitVec 2 := 3
  qualified : Bool := false
  intervalOpen : Bool := false
  uartWait : List SeqEntry := []
  uartFrames : Nat := 0
deriving DecidableEq, Repr

/-- Calibration (R451-R461): the slice in progress, the store's header as last written or read, the bounds, the items due by (ITEM,
resource), the resources of an ITEM run since its last CAL_DONE, when each last ran (by 4,096*ITEM + resource; 0 never), the results by
65,536*TYPE + INDEX, whether a stored result has changed, whether it is to be written at once, and when the store was last written. A resource
is a die, 8*die + link, or a head channel. -/
structure Cal where
  uncal : Bool := true
  busy : Bool := false
  item : BitVec 3 := 0
  res : Nat := 0
  pinned : BitVec 3 := 0
  count : Word := 0
  lastAon : Word := 0
  lastTb : BitVec 64 := 0
  latWin : BitVec 8 := 2
  ofsMax : BitVec 8 := 32
  period : BitVec 16 := 60
  due : List (Nat × Nat) := []
  ran : Sparse Nat := []
  lastRun : Sparse Nat := []
  changed : Bool := false
  atOnce : Bool := false
  lastWrite : Option Nat := none
  results : Sparse (List Byte) := []
  seq : Word := 0
  copy : Nat := 0
deriving DecidableEq, Repr

/-- The boot configuration in use and the patch that runs: its region (0 none), LEVEL and image (R407, R440). -/
structure Boot where
  patch : BitVec 8 := 0
  level : BitVec 16 := 0
  ddrRate : BitVec 16 := 8533
  image : List Byte := []
deriving DecidableEq, Repr

/-! ## Power (17) -/

/-- Power states: PWR_STATE.STATE (R480), and Dormant (R464). -/
inductive PwrState where
  | starting
  | sleep
  | idle
  | ready
  | printing
  | dormant
deriving DecidableEq, Repr

/-- Power, start-up and resets of the package (R464-R480). -/
structure Power where
  st : PwrState := .starting
  target : PwrState := .starting
  moving : Bool := false
  rest : BitVec 2 := 0
  restDelay : BitVec 16 := 100
  lastReset : BitVec 3 := 1
  warm : BitVec 16 := 0
  warmRun : Bool := false
  wakeLatch : Bool := false
  woken : Bool := false
  pwren : Bool := true
  hold : Bool := false
  porAsserted : Bool := false
  aonSec : Word := 0
  smbAddr : BitVec 2 := 0
  goDormant : Bool := false
  startAt : Nat := 0
deriving DecidableEq, Repr

/-- TAP controller states of IEEE 1149.1 (R450). -/
inductive Tap where
  | reset
  | idle
  | selDr
  | capDr
  | shDr
  | ex1Dr
  | pauDr
  | ex2Dr
  | updDr
  | selIr
  | capIr
  | shIr
  | ex1Ir
  | pauIr
  | ex2Ir
  | updIr
deriving DecidableEq, Repr

/-- Instructions of a TAP (R450); every other code acts as BYPASS. -/
inductive TapIr where
  | bypass
  | idcode
  | samplePreload
  | extest
  | clamp
  | highz
deriving DecidableEq, Repr

/-- A die's TAP (R450): its controller state, the instruction in force, the shift stage (the bit next to TDO first), and the boundary
register's update latches. -/
structure TapCtl where
  st : Tap := .reset
  ir : TapIr := .idcode
  shift : List Bool := []
  drive : List Bool := []
deriving DecidableEq, Repr

/-! ## The state -/

/-- Why a step of the model stops. -/
inductive Fault where
  /-- Raised by no command: the part itself never stops (R264 and the like are state changes). Safe. -/
  | none_
deriving DecidableEq, Repr

/-- Why a command has no meaning in the model. -/
inductive Refusal where
  /-- A row without a meaning: raised by Dispatch's refused arms only. Safe. -/
  | notModelled (mnemonic : String)
  /-- Raised by PATCH_COMMAND when the installed patch defines the opcode: the patch's code is opaque (R407, R408). Safe. -/
  | patchBody
deriving DecidableEq, Repr

/-- The whole part. -/
structure State where
  /-- Commands and events waiting, first in first out. -/
  pending : List Instr := []
  /-- What the part has driven at its boundary, newest first. -/
  out : List Out := []
  /-- The model's own counter of free values drawn. -/
  free : Nat := 0
  part : Part := {}
  fuses : Fuses := {}
  dia : DialectRegs := {}
  load : Option LoadJob := none
  gram : Grammar := {}
  params : List ParamRec := []
  pages : List Page := []
  blocks : List Block := []
  closed : List (Word × Word) := []
  comps : Sparse Compressor := []
  clauses : Sparse Clause := []
  cells : Sparse Cell := []
  /-- Which physical clause serves a slot: key 64*die + slot (R17, R44). -/
  slotMap : Sparse (Option Nat) := []
  /-- Cell instruction SRAM: key 1,024*cell + index. -/
  imem : Sparse Word := []
  /-- Cell data SRAM: address 16,384*cell + byte. -/
  dmem : Mem := []
  /-- Die banks: address 2^23*die + byte (R279). -/
  banks : Mem := []
  /-- Management TCM: address 2^17*die + byte. -/
  tcm : Mem := []
  /-- DRAM data: address 2^33*(2*die + channel) + channel offset (R304, R305). -/
  dram : Mem := []
  /-- Flash: byte address; an unlisted byte reads 0xFF. -/
  flash : Mem := []
  /-- Poisoned blocks of the arrays (R287), in the order they were marked. -/
  poison : List ArrBlock := []
  /-- Flipped bits of code words of the banks, TCMs and cell SRAMs, which no write has cleared (R285, assumption 39). -/
  flips : List (ArrBlock × BitVec 80) := []
  /-- Poisoned 64-byte blocks of DRAM: 2^27*(2*die + channel) + block (R307). -/
  dramPoison : List Nat := []
  dramFlips : List (Nat × BitVec 512 × BitVec 64) := []
  dramHeld : List (Nat × DReq) := []
  /-- Nozzle master copies (R178): DISABLED, curve and gain, by package nozzle. -/
  disabled : Sparse Bool := []
  curves : Sparse (BitVec 8) := []
  gains : Sparse (BitVec 8) := []
  scrubs : Sparse Scrub := []
  marches : Sparse March := []
  /-- Queue q of a die: key 3*die + q (R302). -/
  evqs : Sparse EvQueue := []
  /-- BNK_CONF: key 69*die + master (R283). -/
  conflicts : Sparse Word := []
  /-- MGT_MEM_CORR: key 7*die + class. -/
  memCorr : Sparse MemCorr := []
  ddr : Sparse DdrCh := []
  dma : Sparse DmaCh := []
  dmaDie : Sparse DmaDie := []
  /-- The timebase, in ticks (R186). -/
  tb : Nat := 0
  sync : Sync := {}
  encs : Sparse Encoder := []
  rows : Sparse Row := []
  heads : Sparse HeadCh := []
  groups : Sparse GroupStat := []
  links : Sparse Link := []
  lanes : Sparse Lane := []
  eyes : Sparse Eye := []
  fences : Sparse Fence := []
  hcFences : Sparse Fence := []
  job : Option Job := none
  sqs : Sparse Sq := []
  cqs : Sparse Cq := []
  cmdq : List CmdEntry := []
  popped : List CmdEntry := []
  parked : List Parked := []
  mbox : Mailbox := {}
  smb : Mailbox := {}
  uartMb : Mailbox := {}
  apers : Sparse Aperture := []
  pcie : Pcie := {}
  ports : Sparse Port := []
  lostRoutes : List Nat := []
  /-- Packets on the fabric, oldest first (R359, R360). -/
  fabric : List Flight := []
  axes : Sparse Axis := []
  svc : Sparse Group := []
  mgt : Sparse Mgt := []
  /-- MGT_SENSE: key 16*die + i. -/
  sense : Sparse Sense := []
  log : EventLog := {}
  cal : Cal := {}
  boot : Boot := {}
  die0Fault : Bool := false
  startFailed : Bool := false
  power : Power := {}
  taps : Sparse TapCtl := []
deriving DecidableEq, Repr

/-- The state at t0, when main power-on reset is released (R470, R479): every mechanism as at first use, start-up in
stage 1, no Dialect, nothing listed in any memory. The member, the fuses' contents and the memories' contents, which the
manual does not fix, are as assumptions 1 to 3 say. -/
def State.reset : State := {}

end Sys2Proof.Machine
end

