-- ==== Sys2Proof/Machine/Ops.lean ====
section
/-! DEFINITION. The named operations over tables, memories, queues, the event log, interrupts and completions that every
command goes through. -/

namespace Sys2Proof.Machine

/-! ### Sparse tables -/

/-- The entry of number `i`; the default where none is listed. -/
def sget {α : Type} (dflt : α) : Sparse α → Nat → α
  | [], _ => dflt
  | (k, v) :: m, i => if k = i then v else sget dflt m i

/-- Place an entry at its number, keeping the numbers rising. -/
def sins {α : Type} : Sparse α → Nat → α → Sparse α
  | [], i, v => [(i, v)]
  | (k, x) :: m, i, v =>
    if i < k then (i, v) :: (k, x) :: m
    else if k = i then (i, v) :: m
    else (k, x) :: sins m i v

/-- Write an entry; writing the default removes it, so that equal tables are equal lists. -/
def sput {α : Type} [DecidableEq α] (dflt : α) (m : Sparse α) (i : Nat) (v : α) : Sparse α :=
  if v = dflt then m.filter (fun p => p.1 ≠ i) else sins m i v

/-- Change an entry by a function. -/
def smod {α : Type} [DecidableEq α] (dflt : α) (m : Sparse α) (i : Nat) (f : α → α) : Sparse α :=
  sput dflt m i (f (sget dflt m i))

/-- The canonical form: numbers strictly rising, no entry equal to the default. -/
def swf {α : Type} [DecidableEq α] (dflt : α) : Sparse α → Bool
  | [] => true
  | [(_, v)] => v ≠ dflt
  | (k, v) :: (k', v') :: m => v ≠ dflt && k < k' && swf dflt ((k', v') :: m)

/-! ### Byte memories -/

/-- One byte of a memory whose unlisted bytes read 0. -/
def rd (m : Mem) (a : Nat) : Byte := sget 0 m a

/-- Write one byte. -/
def wr (m : Mem) (a : Nat) (b : Byte) : Mem := sput 0 m a b

/-- `n` bytes from `a` upward. -/
def rdN (m : Mem) (a : Nat) : Nat → List Byte
  | 0 => []
  | n + 1 => rd m a :: rdN m (a + 1) n

/-- Bytes written from `a` upward. -/
def wrN (m : Mem) (a : Nat) : List Byte → Mem
  | [] => m
  | b :: bs => wrN (wr m a b) (a + 1) bs

/-- The canonical form of a memory. -/
def Mem.wf (m : Mem) : Bool := swf (0 : Byte) m

/-- One byte of flash: an erased byte reads 0xFF. -/
def rdFlash (m : Mem) (a : Nat) : Byte := sget 0xFF m a

/-- `n` bytes of flash. -/
def rdFlashN (m : Mem) (a : Nat) : Nat → List Byte
  | 0 => []
  | n + 1 => rdFlash m a :: rdFlashN m (a + 1) n

/-- Bytes of flash written. -/
def wrFlashN (m : Mem) (a : Nat) : List Byte → Mem
  | [] => m
  | b :: bs => wrFlashN (sput 0xFF m a b) (a + 1) bs

/-! ### Time -/

/-- Ticks in a microsecond, a millisecond and a second (R186: one tick is 4 ns). -/
def usTicks : Nat := 250
/-- Ticks in a millisecond. -/
def msTicks : Nat := 250000
/-- Ticks in a second. -/
def secTicks : Nat := 250000000

/-- The timebase as a register reads it: 64 bits, wrapping. -/
def tb64 (s : State) : BitVec 64 := BitVec.ofNat 64 s.tb

/-- The AON domain's seconds (R457), counted as exact seconds of the timebase since it was last cleared (assumption 23). -/
def aonNow (s : State) : Word := s.power.aonSec + BitVec.ofNat 32 (s.tb / secTicks)

/-- Take the timebase forward to an instant; it never runs backward. -/
def advanceTo (s : State) (t : Nat) : State := { s with tb := max s.tb t }

/-! ### Free values -/

/-- Draw a free value: a word nothing constrains (assumption 4). -/
def drawFree (s : State) : BitVec 64 × State := (Config.freeWord s.free, { s with free := s.free + 1 })

/-- Draw `n` free bytes, one draw for each (assumption 4). -/
def drawBytes (s : State) (n : Nat) : List Byte × State :=
  ((List.range n).map (fun j => (Config.freeWord (s.free + j)).extractLsb' 0 8), { s with free := s.free + n })

/-! ### Die banks (R178, R279) -/

/-- Whether a die-bank address lies in the part's own tables, banks 28-30, whose layout is not specified (R178). -/
def ownTable (a : Nat) : Bool := decide (0x700000 ≤ a ∧ a < 0x7C0000)

/-- Bytes of a die's banks as a master reads them; what the part's own tables read as is not specified and is free (R178,
assumption 16). -/
def rdBanks (s : State) (d a n : Nat) : List Byte × State :=
  let own := (List.range n).any (fun j => ownTable (a + j))
  let free := (drawBytes s n).1
  ((List.range n).map (fun j => if ownTable (a + j) then free.getD j 0 else rd s.banks (2 ^ 23 * d + a + j)),
   if own then { s with free := s.free + n } else s)

/-! ### Numbers of units -/

/-- Physical clause `k` of die `d` as a table number. -/
def clauseIx (d k : Nat) : Nat := 66 * d + k

/-- A cell's table number. -/
def cellIx (ci : CellId) : Nat := 16 * clauseIx ci.die ci.clause + ci.cell

/-- Cell `c` of a clause given by its table number. -/
def cellOfIx (x c : Nat) : Nat := 16 * x + c

/-- Whether an index lies within the member (R1, R3). -/
def dieOk (s : State) (d : Nat) : Bool := d < s.part.dies

/-- Axes 2*d and 2*d + 1 belong to die `d`. -/
def axisOk (s : State) (a : Nat) : Bool := a < 2 * s.part.dies

/-- Head channels of the member: 32 for each die (R1). -/
def headOk (s : State) (h : Nat) : Bool := h < 32 * s.part.dies

/-- Package nozzles of the member: 131,072 for each die (R1). -/
def nozzleOk (s : State) (n : Nat) : Bool := n < 131072 * s.part.dies

/-! ### Records of State by number -/

def clauseAt (s : State) (x : Nat) : Clause := sget {} s.clauses x
def setClause (s : State) (x : Nat) (c : Clause) : State := { s with clauses := sput {} s.clauses x c }
def modClause (s : State) (x : Nat) (f : Clause → Clause) : State := setClause s x (f (clauseAt s x))

def cellAt (s : State) (i : Nat) : Cell := sget {} s.cells i
def setCell (s : State) (i : Nat) (c : Cell) : State := { s with cells := sput {} s.cells i c }
def modCell (s : State) (i : Nat) (f : Cell → Cell) : State := setCell s i (f (cellAt s i))

def rowAt (s : State) (r : Nat) : Row := sget {} s.rows r
def setRow (s : State) (r : Nat) (x : Row) : State := { s with rows := sput {} s.rows r x }
def modRow (s : State) (r : Nat) (f : Row → Row) : State := setRow s r (f (rowAt s r))

def headAt (s : State) (h : Nat) : HeadCh := sget {} s.heads h
def setHead (s : State) (h : Nat) (x : HeadCh) : State := { s with heads := sput {} s.heads h x }
def modHead (s : State) (h : Nat) (f : HeadCh → HeadCh) : State := setHead s h (f (headAt s h))

def encAt (s : State) (e : Nat) : Encoder := sget {} s.encs e
def setEnc (s : State) (e : Nat) (x : Encoder) : State := { s with encs := sput {} s.encs e x }
def modEnc (s : State) (e : Nat) (f : Encoder → Encoder) : State := setEnc s e (f (encAt s e))

def linkIx (d l : Nat) : Nat := 8 * d + l
def linkAt (s : State) (i : Nat) : Link := sget {} s.links i
def setLink (s : State) (i : Nat) (x : Link) : State := { s with links := sput {} s.links i x }
def modLink (s : State) (i : Nat) (f : Link → Link) : State := setLink s i (f (linkAt s i))

def laneAt (s : State) (i : Nat) : Lane := sget {} s.lanes i
def setLane (s : State) (i : Nat) (x : Lane) : State := { s with lanes := sput {} s.lanes i x }
def modLane (s : State) (i : Nat) (f : Lane → Lane) : State := setLane s i (f (laneAt s i))

def eyeAt (s : State) (d : Nat) : Eye := sget {} s.eyes d
def setEye (s : State) (d : Nat) (x : Eye) : State := { s with eyes := sput {} s.eyes d x }

def ddrAt (s : State) (i : Nat) : DdrCh := sget {} s.ddr i
def setDdr (s : State) (i : Nat) (x : DdrCh) : State := { s with ddr := sput {} s.ddr i x }
def modDdr (s : State) (i : Nat) (f : DdrCh → DdrCh) : State := setDdr s i (f (ddrAt s i))

def dmaIx (d c : Nat) : Nat := 32 * d + c
def dmaAt (s : State) (i : Nat) : DmaCh := sget {} s.dma i
def setDma (s : State) (i : Nat) (x : DmaCh) : State := { s with dma := sput {} s.dma i x }
def modDma (s : State) (i : Nat) (f : DmaCh → DmaCh) : State := setDma s i (f (dmaAt s i))

def dmaDieAt (s : State) (d : Nat) : DmaDie := sget {} s.dmaDie d
def setDmaDie (s : State) (d : Nat) (x : DmaDie) : State := { s with dmaDie := sput {} s.dmaDie d x }

def scrubAt (s : State) (d : Nat) : Scrub := sget {} s.scrubs d
def setScrub (s : State) (d : Nat) (x : Scrub) : State := { s with scrubs := sput {} s.scrubs d x }
def modScrub (s : State) (d : Nat) (f : Scrub → Scrub) : State := setScrub s d (f (scrubAt s d))

def marchAt (s : State) (d : Nat) : March := sget {} s.marches d
def setMarch (s : State) (d : Nat) (x : March) : State := { s with marches := sput {} s.marches d x }
def modMarch (s : State) (d : Nat) (f : March → March) : State := setMarch s d (f (marchAt s d))

def evqAt (s : State) (i : Nat) : EvQueue := sget {} s.evqs i
def setEvq (s : State) (i : Nat) (x : EvQueue) : State := { s with evqs := sput {} s.evqs i x }

def compAt (s : State) (d : Nat) : Compressor := sget {} s.comps d
def setComp (s : State) (d : Nat) (x : Compressor) : State := { s with comps := sput {} s.comps d x }
def modComp (s : State) (d : Nat) (f : Compressor → Compressor) : State := setComp s d (f (compAt s d))

def portAt (s : State) (i : Nat) : Port := sget {} s.ports i
def setPort (s : State) (i : Nat) (x : Port) : State := { s with ports := sput {} s.ports i x }
def modPort (s : State) (i : Nat) (f : Port → Port) : State := setPort s i (f (portAt s i))

def axisAt (s : State) (a : Nat) : Axis := sget {} s.axes a
def setAxis (s : State) (a : Nat) (x : Axis) : State := { s with axes := sput {} s.axes a x }
def modAxis (s : State) (a : Nat) (f : Axis → Axis) : State := setAxis s a (f (axisAt s a))

def svcAt (s : State) (g : Nat) : Group := sget {} s.svc g
def setSvc (s : State) (g : Nat) (x : Group) : State := { s with svc := sput {} s.svc g x }
def modSvc (s : State) (g : Nat) (f : Group → Group) : State := setSvc s g (f (svcAt s g))

def mgtAt (s : State) (d : Nat) : Mgt := sget {} s.mgt d
def setMgt (s : State) (d : Nat) (x : Mgt) : State := { s with mgt := sput {} s.mgt d x }
def modMgt (s : State) (d : Nat) (f : Mgt → Mgt) : State := setMgt s d (f (mgtAt s d))

def sqAt (s : State) (c : Nat) : Sq := sget {} s.sqs c
def setSq (s : State) (c : Nat) (x : Sq) : State := { s with sqs := sput {} s.sqs c x }
def modSq (s : State) (c : Nat) (f : Sq → Sq) : State := setSq s c (f (sqAt s c))

def cqAt (s : State) (c : Nat) : Cq := sget {} s.cqs c
def setCq (s : State) (c : Nat) (x : Cq) : State := { s with cqs := sput {} s.cqs c x }
def modCq (s : State) (c : Nat) (f : Cq → Cq) : State := setCq s c (f (cqAt s c))

def memCorrAt (s : State) (i : Nat) : MemCorr := sget {} s.memCorr i
def setMemCorr (s : State) (i : Nat) (x : MemCorr) : State := { s with memCorr := sput {} s.memCorr i x }

def tapAt (s : State) (d : Nat) : TapCtl := sget {} s.taps d
def setTap (s : State) (d : Nat) (x : TapCtl) : State := { s with taps := sput {} s.taps d x }

/-! ### Outputs and interrupts -/

/-- Drive something at the boundary. -/
def emit (s : State) (o : Out) : State := { s with out := o :: s.out }

/-- Whether a vector may be sent: MSI-X is enabled, and neither the function nor the vector is masked (R354, assumption 34). -/
def vecOpen (s : State) (v : Nat) : Bool := s.pcie.msixOn && !s.pcie.msixMask && !(sget {} s.pcie.vecs v).masked

/-- Send an assigned MSI-X vector (R354); in D3hot it waits for D0 (R351), a masked one sets its pending bit, and with the link down, or MSI-X
disabled, nothing carries it. -/
def msix (s : State) (v : Nat) : State :=
  if s.pcie.d3hot then { s with pcie := { s.pcie with held := s.pcie.held ++ [v] } }
  else if vecOpen s v then (if s.pcie.linkUp then emit s (.msix v) else s)
  else if s.pcie.msixOn && !s.pcie.pba.contains v then { s with pcie := { s.pcie with pba := v :: s.pcie.pba } }
  else s

/-! ### The event log's input (R445, R446, R301) -/

/-- Severity of an event code: 0 INFO, 1 NOTICE, 2 WARNING, 3 FAULT (R446). -/
def evSeverity (code : Nat) : Nat :=
  if code = 0x0001 then 0 else if code = 0x0002 then 1 else if code = 0x0003 then 2 else if code = 0x0004 then 2
  else if code = 0x0005 then 0 else if code = 0x0010 then 3 else if code = 0x0011 then 2
  else if 0x0012 ≤ code ∧ code ≤ 0x0016 then 2 else if code = 0x0017 then 1 else if code = 0x0018 then 1
  else if code = 0x0019 then 2 else if 0x0020 ≤ code ∧ code ≤ 0x0023 then 2 else if code = 0x0024 then 2
  else if code = 0x0025 then 3 else if code = 0x0026 then 1 else if code = 0x0030 then 2
  else if code = 0x0031 then 2 else if code = 0x0032 then 2 else if code = 0x0033 then 3 else if code = 0x0034 then 3
  else if code = 0x0035 then 1 else if code = 0x0036 then 1 else if code = 0x0040 then 2 else if code = 0x0041 then 0
  else if code = 0x0042 then 3 else if code = 0x0050 then 1 else if code = 0x0051 then 1 else if code = 0x0060 then 2
  else if code = 0x0061 then 3 else 0

/-- LAYOUT of an event code: 0 VALUE, 1 LINE, 2 UNIT, 3 MEM, 4 RAW (R446). -/
def evLayout (code : Nat) : Nat :=
  if code = 0x0005 ∨ code = 0x0011 ∨ (0x0012 ≤ code ∧ code ≤ 0x0016) ∨ code = 0x0030 then 1
  else if code = 0x0010 ∨ code = 0x0017 ∨ code = 0x0018 ∨ code = 0x0024 ∨ code = 0x0025 ∨ code = 0x0031 ∨
    code = 0x0032 ∨ code = 0x0040 ∨ code = 0x0042 ∨ code = 0x0050 then 2
  else if 0x0020 ≤ code ∧ code ≤ 0x0023 then 3
  else if code = 0x0041 then 4
  else 0

/-- DATA of layout VALUE (R445). -/
def valueData (v0 v1 v2 v3 : Nat) : List Byte := natLE 4 v0 ++ natLE 4 v1 ++ natLE 4 v2 ++ natLE 4 v3

/-- DATA of layout LINE (R445, R508). -/
def lineData (page copy : Word) (row cause strip line count : Nat) : List Byte :=
  natLE 4 page.toNat ++ natLE 4 copy.toNat ++ natLE 1 row ++ natLE 1 cause ++ natLE 2 strip ++ natLE 3 line ++ natLE 1 count

/-- DATA of layout UNIT (R445, R509); `cell` is the reserved byte that names a cell. -/
def unitData (kind reason index state cell : Nat) (v : List Byte) : List Byte :=
  natLE 1 kind ++ natLE 1 reason ++ natLE 2 index ++ natLE 1 state ++ natLE 1 cell ++ [0, 0] ++ (v ++ List.replicate 8 0).take 8

/-- DATA of layout MEM (R445). -/
def memData (cls unit syndrome addr : Nat) : List Byte :=
  natLE 1 cls ++ natLE 1 unit ++ natLE 2 syndrome ++ [0, 0, 0, 0] ++ natLE 8 addr

/-- Depth of a die's event, telemetry or trace queue (R297). -/
def evqDepth (q : Nat) : Nat := if q = 0 then 512 else if q = 1 then 64 else 256

/-- A push into an event, telemetry or trace queue: kept while there is room, otherwise discarded and counted (R301). -/
def EvQueue.push (x : EvQueue) (depth : Nat) (it : QItem) : EvQueue :=
  if x.items.length < depth then
    let items := x.items ++ [it]
    { x with items := items, high := if x.high.toNat < items.length then BitVec.ofNat 10 items.length else x.high }
  else { x with ovf := true, lost := satInc x.lost, lostNew := x.lostNew + 1 }

/-- Push into queue `q` of die `d`. -/
def evqPush (s : State) (d q : Nat) (it : QItem) : State :=
  setEvq s (3 * d + q) ((evqAt s (3 * d + q)).push (evqDepth q) it)

/-- A die logs an event: the entry goes into its event queue (R301, R446, R447). -/
def logEv (s : State) (d code : Nat) (data : List Byte) : State :=
  evqPush s d 0 (.entry ⟨BitVec.ofNat 16 code, d, evSeverity code, evLayout code, tb64 s, data⟩)

/-- Once a queue of the die has room again, one EVENTS_LOST entry carries the count of entries lost (R301); the event queue must have room
for it. -/
def logLost (s : State) (d q : Nat) : State :=
  let x := evqAt s (3 * d + q)
  if x.lostNew = 0 ∨ evqDepth 0 ≤ (evqAt s (3 * d)).items.length then s
  else logEv (setEvq s (3 * d + q) { x with lostNew := 0 }) d 0x0004 (valueData q x.lostNew 0 0)

/-! ### The Grammar as applied -/

def rowCfg? (s : State) (r : Nat) : Option RowCfg := s.gram.rows.find? (fun x => x.row == r)

/-- The row's entry; unused rows read as the default. -/
def rowCfg (s : State) (r : Nat) : RowCfg := (rowCfg? s r).getD {}

/-- The used slot of a die (R43). -/
def slotCfg? (s : State) (d slot : Nat) : Option SlotCfg := s.gram.slots.find? (fun x => x.die == d && x.slot == slot)

/-- The slot that carries strip position `p` of row `r` (R18). -/
def stripCfg? (s : State) (r p : Nat) : Option SlotCfg := s.gram.slots.find? (fun x => x.row == r && x.pos == p)

/-- Depth of a queue class on a die: the QUEUES value, or the class's default (R47). Where two entries name the class for a die, which R47
leaves open, the first holds (assumption 20). -/
def queueDepth (s : State) (cls d : Nat) : Nat :=
  match s.gram.queues.find? (fun q => q.cls == cls && (q.die == d || q.die == 0xFF)) with
  | some q => q.depth
  | none => if cls = 0x01 ∨ cls = 0x02 ∨ cls = 0x04 then 8 else if cls = 0x03 then 4 else if cls = 0x05 then 32 else 64

/-- The die that carries a head channel's link: the die of its GATHER channel (R21, R48). -/
def headDie? (s : State) (h : Nat) : Option Nat :=
  (s.gram.dma.find? (fun e => e.use == 1 && e.arg == h)).map (fun e => e.die)

/-- As `headDie?`, die 0 for a channel no entry names. -/
def headDie (s : State) (h : Nat) : Nat := (headDie? s h).getD 0

/-- The physical clause that serves a slot (R17). -/
def servedBy? (s : State) (d slot : Nat) : Option Nat := sget none s.slotMap (64 * d + slot)

/-- A held parameter record by type and target (R58). -/
def param? (s : State) (typ target : Nat) : Option ParamRec :=
  s.params.find? (fun r => r.typ.toNat == typ && r.target.toNat == target)

/-! ### Fence records (R272) -/

/-- A fenceable unit (R263, R272). -/
inductive FUnit where
  | clause (d k : Nat)
  | lane (d l : Nat)
  | head (h : Nat)
  | dram (d ch : Nat)
  | dma (d c : Nat)
  | axis (a : Nat)
  | die (d : Nat)
deriving DecidableEq, Repr

/-- KIND of R272. -/
def FUnit.kind : FUnit → Nat
  | .clause _ _ => 1 | .lane _ _ => 2 | .head _ => 3 | .dram _ _ => 4 | .dma _ _ => 5 | .axis _ => 6 | .die _ => 7

/-- INDEX of R272. -/
def FUnit.index : FUnit → Nat
  | .clause _ k => k | .lane _ l => l | .head h => h | .dram _ ch => ch | .dma _ c => c | .axis a => a | .die _ => 0

/-- The die whose record it is. -/
def FUnit.die' (s : State) : FUnit → Nat
  | .clause d _ => d | .lane d _ => d | .head h => headDie s h | .dram d _ => d | .dma d _ => d | .axis a => a / 2
  | .die d => d

/-- Place of a unit's record among the 143 of its die, in KIND and INDEX order (R272, R402). -/
def FUnit.place : FUnit → Nat
  | .clause _ k => k | .lane _ l => 66 + l | .head h => 74 + h % 32 | .dram _ ch => 106 + ch | .dma _ c => 108 + c
  | .axis a => 140 + a % 2 | .die _ => 142

/-- The record of a unit. Head channels keep theirs by the die that carries their link and their number. -/
def fenceOf (s : State) (u : FUnit) : Fence :=
  match u with
  | .head h => sget {} s.hcFences (256 * headDie s h + h)
  | _ => sget {} s.fences (143 * u.die' s + u.place)

/-- Write a unit's record. -/
def putFence (s : State) (u : FUnit) (f : Fence) : State :=
  match u with
  | .head h => { s with hcFences := sput {} s.hcFences (256 * headDie s h + h) f }
  | _ => { s with fences := sput {} s.fences (143 * u.die' s + u.place) f }

/-- STATE code of a fence record (R272). -/
def FenceState.code : FenceState → Nat
  | .never => 0 | .fenced => 1 | .testing => 2 | .unfenced => 3

/-- Whether a unit's record reads FENCED. -/
def isFenced (s : State) (u : FUnit) : Bool := (fenceOf s u).st == .fenced

/-- A change of a unit's fence record: STATE, REASON, TIME, and the FENCE event every change logs (R272, R446, R509). -/
def changeFence (s : State) (u : FUnit) (st : FenceState) (reason : Nat) : State :=
  let f := fenceOf s u
  let s := putFence s u { f with st := st, reason := BitVec.ofNat 8 reason, time := tb64 s }
  logEv s (u.die' s) 0x0010 (unitData u.kind reason u.index st.code 0 (natLE 2 f.faults.toNat))

/-- Add a transient fault to a unit's FAULTS count (R272). -/
def countFault (s : State) (u : FUnit) : State :=
  let f := fenceOf s u
  putFence s u { f with faults := satInc f.faults }

/-- Whether a fault of a unit comes within its window of the unit's previous transient fault (R260). `now` and `win` are in the
unit's own measure: row lines or ticks. -/
def faultRepeats (s : State) (u : FUnit) (now win : Nat) : Bool :=
  match (fenceOf s u).last with
  | some t => decide (now - t ≤ win)
  | none => false

/-- A transient fault of a unit: counted, and the start of its window (R260, R272). -/
def noteTransient (s : State) (u : FUnit) (now : Nat) : State :=
  let s := countFault s u
  putFence s u { fenceOf s u with last := some now }

/-- Whether a die is in service: present and not fenced. -/
def dieLive (s : State) (d : Nat) : Bool := dieOk s d && !isFenced s (.die d)

/-! ### Completions and the command checks -/

/-- Status codes (R375). -/
def stOk : Nat := 0x0000
def stDamaged : Nat := 0x0001
def stBadOpcode : Nat := 0x0002
def stClass : Nat := 0x0003
def stBadField : Nat := 0x0004
def stBadIndex : Nat := 0x0005
def stNoDialect : Nat := 0x0006
def stSwitching : Nat := 0x0007
def stJobActive : Nat := 0x0008
def stNoJob : Nat := 0x0009
def stBusy : Nat := 0x000A
def stUnusedSlot : Nat := 0x000B
def stNotLocked : Nat := 0x000C
def stNoTiming : Nat := 0x000D
def stPage : Nat := 0x000E
def stTooMany : Nat := 0x000F
def stRefused : Nat := 0x0010
def stDialectFail : Nat := 0x0011
def stParamCheck : Nat := 0x0012
def stAuth : Nat := 0x0013
def stState : Nat := 0x0014
def stHostBus : Nat := 0x0015
def stNoChannel : Nat := 0x0016
def stTestFail : Nat := 0x0017
def stCancelled : Nat := 0x0018
def stFlash : Nat := 0x0019
def stDieFault : Nat := 0x001A

/-- Entries of a ring: LOG2SIZE is 4-16, other values read as 4 (R363, R371). -/
def ringSize (log2 : BitVec 5) : Nat := if 4 ≤ log2.toNat ∧ log2.toNat ≤ 16 then 2 ^ log2.toNat else 16

/-- Bytes 0-27 of a completion entry (R374). -/
def entryBytes (opcode status tag : Nat) (result : List Byte) : List Byte :=
  natLE 2 opcode ++ natLE 2 status ++ natLE 4 tag ++ (result ++ List.replicate 20 0).take 20

/-- Send vector `c` for its postings and start counting afresh (R369). -/
def signalCq (s : State) (c : Nat) : State := msix (modCq s c (fun q => { q with unsignalled := 0 })) c

/-- Write one result into the next slot of completion ring `c`, in two posted writes (R366, R369). -/
def postCq (s : State) (c : Nat) (entry : List Byte) : State :=
  let q := cqAt s c
  let p : Byte := if q.phase then 0x80 else 0
  let s := emit s (.completion c q.tail.toNat (entry ++ natLE 2 (sqAt s c).head.toNat ++ [0]))
  let s := emit s (.completionPhase c q.tail.toNat p)
  let wrap := q.tail.toNat + 1 ≥ ringSize q.log2
  let q := { q with tail := if wrap then 0 else q.tail + 1, phase := if wrap then !q.phase else q.phase,
                    owed := q.owed - 1, unsignalled := q.unsignalled + 1 }
  let s := setCq s c q
  if q.coalTime = 0 ∨ q.unsignalled ≥ max 1 q.coalCnt.toNat then signalCq s c else s

/-- Whether completion ring `c` takes a result now: enabled, not stopped by a WRITE error, and not in D3hot (R351, R364, R368). -/
def cqOpen (s : State) (c : Nat) : Bool :=
  let q := cqAt s c
  q.enable && !q.stopped && !s.pcie.d3hot

/-- A result that waits on ring `c` (R351, R364). -/
def holdCq (s : State) (c : Nat) (entry : List Byte) : State := modCq s c (fun q => { q with held := q.held ++ [entry] })

/-- Write a result to an open ring; a write that fails, the link being down, stops the ring with ERR WRITE, its result waiting (R368). -/
def putCq (s : State) (c : Nat) (entry : List Byte) : State :=
  if s.pcie.linkUp then postCq s c entry
  else modCq (holdCq s c entry) c (fun q => { q with stopped := true, err := q.err ||| 4 })

/-- Post what waits for ring `c`, oldest first, once it is open (R364). -/
def flushCq (s : State) (c : Nat) : State :=
  if cqOpen s c && s.pcie.linkUp then
    (cqAt s c).held.foldl (fun s e => postCq s c e) (modCq s c (fun q => { q with held := [] }))
  else s

/-- A mailbox takes its result: DONE, with the 32-byte completion entry, P set (R370). -/
def Mailbox.finish (m : Mailbox) (status : Nat) (entry : List Byte) : Mailbox :=
  { m with state := 2, status := BitVec.ofNat 16 status, data := entry ++ [0, 0, 0, 0x80] }

/-- CRC-16 with polynomial x^16 + x^12 + x^5 + 1, initial value all ones (R236, POLY 2), one byte, most significant bit
first. -/
def crc16Byte (c : BitVec 16) (b : Byte) : BitVec 16 :=
  (List.range 8).foldl (fun c i =>
    let top := c.getLsbD 15 != b.getLsbD (7 - i)
    if top then (c <<< 1) ^^^ 0x1021#16 else c <<< 1) c

/-- CRC-16 of a byte string. -/
def crc16 (bs : List Byte) : BitVec 16 := bs.foldl crc16Byte 0xFFFF#16

/-- The frame of a UART payload: 0xA5, TYPE, LEN, payload, CRC-16 over TYPE to the end of the payload (R450). -/
def uartFrame (typ : Byte) (payload : List Byte) : List Byte :=
  let body := typ :: natLE 2 payload.length ++ payload
  (0xA5 : Byte) :: body ++ natLE 2 (crc16 body).toNat

/-- Post one result: on the completion ring of the source's ring, or in its mailbox (R363, R370, R374, R450). -/
def complete (s : State) (h : CmdHdr) (opcode status : Nat) (result : List Byte) : State :=
  let e := entryBytes opcode status h.tag.toNat result
  match h.src with
  | .ring c =>
    let s := modSq s c (fun q => { q with outstanding := q.outstanding - 1 })
    if cqOpen s c then putCq s c e else holdCq s c e
  | .mailbox => msix { s with mbox := s.mbox.finish status e } 5
  | .smbus => { s with smb := s.smb.finish status e }
  | .uart =>
    let m := s.uartMb.finish status e
    emit { s with uartMb := m, log := { s.log with uartFrames := s.log.uartFrames + 1 } }
      (.uart (uartFrame 0x81 ([2] ++ natLE 2 status ++ m.data)))

/-- How a command stands to an open job (R381). -/
inductive JobRule where
  | any
  | no
  | required
deriving DecidableEq, Repr

/-- A row of the command matrix (R381). -/
structure CmdSpec where
  opcode : Nat
  ring0 : Bool := true
  long : Bool := false
  noDialect : Bool := false
  switch : Bool := false
  job : JobRule := .any
deriving DecidableEq, Repr

/-- Whether a job is open: RUNNING or ARMED or stopping, not yet closed (R390, R398). -/
def jobOpen (s : State) : Bool :=
  match s.job with
  | some j => j.st != .closed
  | none => false

/-- The checks common to every command, in the order of R376; the first that fails gives the status. -/
def cmdGate (s : State) (h : CmdHdr) (c : CmdSpec) (fieldOk indexOk : Bool) : Option Nat :=
  let classOk := match h.src with
    | .ring r => r ≠ 0 || c.ring0
    | _ => c.opcode ≠ 0x0208
  if !classOk then some stClass
  else if h.reserved ≠ 0 || !fieldOk then some stBadField
  else if !indexOk then some stBadIndex
  else if (s.die0Fault || s.startFailed) && (c.opcode == 0x0101 || !c.noDialect) then some stDieFault
  else if !c.noDialect && !s.dia.valid && s.load.isNone then some stNoDialect
  else if !c.switch && s.load.isSome then some stSwitching
  else match c.job with
    | .any => none
    | .no => if jobOpen s then some stJobActive else none
    | .required => if jobOpen s then none else some stNoJob

/-- Whether the package manager's firmware runs commands: not Dormant, its core running, start-up past the stage that
starts it (R383, R472, R474). -/
def fwRuns (s : State) : Bool :=
  s.power.st != .dormant && !s.power.goDormant && !s.power.porAsserted && !(mgtAt s 0).coreStopped &&
    (s.startFailed || 3 ≤ (mgtAt s 0).stage.toNat)

/-- The entry a command came from leaves the entries popped and not yet run. -/
def takePopped (s : State) (h : CmdHdr) : State :=
  { s with popped := s.popped.eraseP (fun e => e.src == h.src && leAt e.bytes 4 4 == h.tag.toNat) }

/-- Run a command: the common checks, then the room for a Long command (R377), then its own work. -/
def command (s : State) (h : CmdHdr) (c : CmdSpec) (fieldOk indexOk : Bool) (body : State → State) : State :=
  if !fwRuns s then s
  else
    let s := takePopped s h
    match cmdGate s h c fieldOk indexOk with
    | some st => complete s h c.opcode st []
    | none => if c.long && 64 ≤ s.parked.length then complete s h c.opcode stBusy [] else body s

/-- A command ends OK. -/
def finish (s : State) (h : CmdHdr) (opcode : Nat) (result : List Byte) : State := complete s h opcode stOk result

/-- A Long command waits (R377). -/
def park (s : State) (p : Parked) : State := { s with parked := s.parked ++ [p] }

/-! ### The fabric's ports, packets and credits (R276, R358-R360) -/

/-- The die reached through a port of a die, by member (R358). -/
def portPeer? (dies d p : Nat) : Option Nat :=
  if dies = 2 then (if d < 2 ∧ p < 2 then some (1 - d) else none)
  else if dies = 4 then (if d < 4 ∧ p < 3 then some (d ^^^ (p + 1)) else none)
  else
    let t : List (List Nat) :=
      [[8, 1, 4, 3], [0, 2, 5, 8], [1, 3, 6, 8], [2, 8, 7, 0], [8, 5, 0, 7], [4, 6, 1, 8], [5, 7, 2, 8], [6, 8, 3, 4]]
    match (t.getD d []).getD p 8 with
    | 8 => none
    | e => some e

/-- The port of the peer that a port is joined to: the port of the same rank among those that join the two dies. -/
def peerPort? (dies d p : Nat) : Option (Nat × Nat) :=
  match portPeer? dies d p with
  | none => none
  | some e =>
    let rank := ((List.range p).filter (fun q => portPeer? dies d q == some e)).length
    (((List.range 4).filter (fun q => portPeer? dies e q == some d))[rank]?).map (fun q => (e, q))

/-- The class of a packet's cargo in priority order (R360). -/
def Cargo.cls : Cargo → Nat
  | .halo _ _ _ => 1
  | .beat _ => 2
  | .block _ => 3

/-- The die a packet goes to. -/
def Flight.dest (f : Flight) : Nat := f.path.getLast?.getD f.place

/-- The BLOCK route of a die, from die 0 (R45). -/
def blockRoute? (s : State) (d : Nat) : Option Route := s.gram.routes.find? (fun r => r.cls == 1 && r.dies.getLast? == some d)

/-- The dies a block burst passes on its way from die 0 to a die (R360). -/
def blockPath (s : State) (d : Nat) : List Nat := match blockRoute? s d with | some r => r.dies.drop 1 | none => [d]

/-- The dies a packet passes on its way from a die to die 0: the reverse of its BLOCK route (R45); with no Dialect active, a shortest way, the
column's hop last (assumption 26). -/
def homePath (s : State) (d : Nat) : List Nat :=
  match blockRoute? s d with
  | some r => r.dies.reverse.drop 1
  | none =>
    if s.part.dies = 8 then (if d = 2 ∨ d = 5 then [1, 0] else if d = 6 then [2, 1, 0] else if d = 7 then [3, 0] else [0]) else [0]

/-- The dies a halo record passes from position `p` of a row to its neighbour on a side: the link's HALO route or its reverse (R46). -/
def haloPath (s : State) (row p : Nat) (right : Bool) (e : Nat) : List Nat :=
  match s.gram.halos.find? (fun h => h.row == row && h.pos == (if right then p else p - 1)) with
  | none => [e]
  | some h => match s.gram.routes.find? (fun r => r.id == h.route) with
    | none => [e]
    | some r => (if right then r.dies else r.dies.reverse).drop 1

/-- A block burst's flight. -/
def isBlock (f : Flight) : Bool := f.cargo.cls == 3

/-- Block bursts that hold a credit at the receiving end of a port: those that wait for the die's FORWARD channel and those that wait for
their next hop (R335, R360). -/
def portHeld (s : State) (d p : Nat) : Nat :=
  (portAt s (4 * d + p)).ingress.length + (s.fabric.filter (fun f => isBlock f && f.place == d && f.via == some p)).length

/-- Block bursts that die 0 has sent and that hold a credit of their first hop, to die `e`. -/
def originHeld (s : State) (e : Nat) : Nat := (s.fabric.filter (fun f => isBlock f && f.via.isNone && f.path.head? == some e)).length

/-- The ports of die `e` that face die `a`. -/
def facing (s : State) (a e : Nat) : List Nat := (List.range 4).filter (fun p => portPeer? s.part.dies e p == some a)

/-- Whether a packet finds a credit of its class at port `p` of die `d`: halo credits are reserved, one for each place of the queue; MGT has 8;
BLOCK has the depth that QUEUES class 0x05 sets (R47, R276, R360). -/
def hopCredit (s : State) (f : Flight) (d p : Nat) : Bool :=
  match f.cargo with
  | .halo _ _ _ => true
  | .beat _ => decide ((s.fabric.filter (fun g => g.cargo.cls == 2 && g.place == d && g.via == some p)).length < 8)
  | .block _ => decide (portHeld s d p < queueDepth s 0x05 d)

/-- Halo records on their way to a clause's side. -/
def haloComing (s : State) (d k : Nat) (right : Bool) : Nat :=
  (s.fabric.filter (fun f => match f.cargo with | .halo k' right' _ => f.dest == d && k' == k && right' == right | _ => false)).length

/-- A die sends a packet along a path; one for the die itself has no hop to make. -/
def sendFlight (s : State) (a : Nat) (path : List Nat) (c : Cargo) : State :=
  { s with fabric := s.fabric ++ [⟨a, none, path, c⟩] }

/-- Whether a block burst of a HOST_IN channel of die 0 is on the fabric. -/
def Flight.sentBy (f : Flight) (c : Nat) : Bool := match f.cargo with | .block b => b.sender == c | _ => false

end Sys2Proof.Machine
end

