-- ==== Sys2Proof/Machine/Operands.lean ====
section
/-! DEFINITION. The operand forms: the fields of a cell instruction's word (R147), of the parameter records (R58, R179,
R193, R198, R204, R207, R262), of command entries (R373) and of die addresses. -/

namespace Sys2Proof.Machine

/-! ### Cell instruction words (R147) -/

/-- D, bits [25:21]. -/
def fD (w : CellWord) : Nat := (w.extractLsb' 21 5).toNat
/-- A, bits [20:16]. -/
def fA (w : CellWord) : Nat := (w.extractLsb' 16 5).toNat
/-- B, bits [15:11]. -/
def fB (w : CellWord) : Nat := (w.extractLsb' 11 5).toNat
/-- G, bits [10:8]. -/
def fG (w : CellWord) : Nat := (w.extractLsb' 8 3).toNat
/-- X, bits [7:0]. -/
def fX (w : CellWord) : Nat := (w.extractLsb' 0 8).toNat
/-- IMM16, bits [15:0]. -/
def fImm (w : CellWord) : BitVec 16 := w.extractLsb' 0 16
/-- COND, bits [25:23]. -/
def fCond (w : CellWord) : Nat := (w.extractLsb' 23 3).toNat
/-- Bits [22:21] of the B format, 0. -/
def fB2221 (w : CellWord) : Nat := (w.extractLsb' 21 2).toNat
/-- Bit 10 of the B format, 0. -/
def fB10 (w : CellWord) : Nat := (w.extractLsb' 10 1).toNat
/-- TARGET or END, bits [9:0]. -/
def fTarget (w : CellWord) : Nat := (w.extractLsb' 0 10).toNat
/-- COUNT, bits [25:16]. -/
def fCount (w : CellWord) : Nat := (w.extractLsb' 16 10).toNat
/-- Bits [15:10] of the L format, 0. -/
def fL1510 (w : CellWord) : Nat := (w.extractLsb' 10 6).toNat

/-- X as a signed byte. -/
def sextX (w : CellWord) : Int := (w.extractLsb' 0 8).toInt

/-- Lane `i` of a vector (R127). -/
def lane (v : BitVec 128) (i : Nat) : BitVec 16 := v.extractLsb' (16 * i) 16

/-- A vector from its eight lanes, lane 0 lowest. -/
def ofLanes (f : Nat → BitVec 16) : BitVec 128 :=
  f 7 ++ (f 6 ++ (f 5 ++ (f 4 ++ (f 3 ++ (f 2 ++ (f 1 ++ f 0))))))

/-- A vector with one lane replaced. -/
def setLaneV (v : BitVec 128) (i : Nat) (x : BitVec 16) : BitVec 128 := ofLanes (fun j => if j = i then x else lane v j)

/-! ### Row timing (R193) -/

/-- A row-timing record's payload. -/
structure RowTiming where
  ratio : Nat := 0
  ow : Nat := 0
  oF : Nat := 0
  encoder : Nat := 0
  withhold : Bool := false
  ovsLimit : Nat := 0xFFFF
deriving DecidableEq, Repr

/-- Its fields, read from 24 bytes. -/
def rowTimingOf (b : List Byte) : RowTiming :=
  { ratio := leAt b 0 8, ow := leAt b 8 4, oF := leAt b 0x0C 1, encoder := leAt b 0x0D 1, withhold := leAt b 0x0E 1 = 1,
    ovsLimit := leAt b 0x10 2 }

/-- The timing of a row: its record, or the ROM default (R193). -/
def rowTiming (s : State) (r : Nat) : RowTiming :=
  match param? s 0x0203 r with
  | some p => rowTimingOf p.payload
  | none => {}

/-! ### Nozzle tables (R198) -/

/-- An entry of a nozzle table. -/
structure NozEntry where
  unused : Bool
  disabled : Bool
  stagger : Nat
  nozzle : Nat
deriving DecidableEq, Repr

/-- Its fields. -/
def nozEntryOf (v : Nat) : NozEntry :=
  { unused := v.testBit 25, disabled := v.testBit 24, stagger := v / 2 ^ 20 % 16, nozzle := v % 2 ^ 20 }

/-- ROW of a nozzle-table payload. -/
def nozRow (p : ParamRec) : Nat := leAt p.payload 0 1
/-- NOZZLES of a nozzle-table payload. -/
def nozCount (p : ParamRec) : Nat := leAt p.payload 2 2
/-- Entry `i` of a nozzle-table payload. -/
def nozEntry (p : ParamRec) (i : Nat) : NozEntry := nozEntryOf (leAt p.payload (8 + 4 * i) 4)
/-- Every entry of a nozzle-table payload. -/
def nozEntries (p : ParamRec) : List NozEntry := (List.range (nozCount p)).map (nozEntry p)
/-- FD of the table, in 1/64 ticks (R196). -/
def nozFd (p : ParamRec) : Nat := 64 * leAt p.payload 4 2 + leAt p.payload 6 1

/-- The nozzle table of a head channel. -/
def nozTable? (s : State) (h : Nat) : Option ParamRec := param? s 0x0201 h

/-- Head channels that fire row `r`. -/
def rowHeads (s : State) (r : Nat) : List Nat :=
  (s.params.filter (fun p => p.typ == 0x0201 && nozRow p == r)).map (fun p => p.target.toNat)

/-- The row a head channel fires. -/
def headRow (s : State) (h : Nat) : Nat := ((nozTable? s h).map nozRow).getD 0

/-- Staggers that head channels gather from a strip (R24). -/
def stripStaggers (s : State) (d slot : Nat) : List Nat :=
  (s.params.filter (fun p => p.typ == 0x0201)).flatMap (fun p =>
    ((nozEntries p).filter (fun e => !e.unused && e.nozzle / 2048 == 64 * d + slot)).map (fun e => e.stagger))

/-- The least stagger of a strip (R24). -/
def sminOf (s : State) (d slot : Nat) : Nat :=
  match stripStaggers s d slot with
  | [] => 0
  | x :: xs => xs.foldl min x

/-- The greatest stagger of a strip. -/
def smaxOf (s : State) (d slot : Nat) : Nat := (stripStaggers s d slot).foldl max 0

/-- Staggers gathered on a row. -/
def rowStaggers (s : State) (r : Nat) : List Nat :=
  ((s.params.filter (fun p => p.typ == 0x0201 && nozRow p == r)).flatMap (fun p =>
    ((nozEntries p).filter (fun e => !e.unused)).map (fun e => e.stagger))).eraseDups

/-! ### Agreement groups (R204), inflection (R206, R207), integrity (R262) -/

/-- The groups a head channel belongs to: at most one, with its MODE and members. -/
def groupOf? (s : State) (h : Nat) : Option (Nat × Bool × List Nat) :=
  let members (p : ParamRec) : List Nat := (List.range (leAt p.payload 2 2)).map (fun i => leAt p.payload (4 + 2 * i) 2)
  (s.params.find? (fun p => p.typ == 0x0204 && (members p).contains h)).map
    (fun p => (p.target.toNat, leAt p.payload 0 1 = 0, members p))

/-- Entry E[j] of an inflection table: bits [3:0] of byte j/2 when j is even, [7:4] when odd (R206). -/
def inflNib (tbl : List Byte) (j : Nat) : BitVec 4 :=
  let b := byteAt tbl (j / 2)
  if j % 2 = 0 then b.extractLsb' 0 4 else b.extractLsb' 4 4

/-- The final code of a nozzle with code `q` and history `hist` on a row, from the cool table in DERATE (R206, R207). -/
def inflect (s : State) (row : Nat) (cool : Bool) (q hist : BitVec 4) : BitVec 4 :=
  let normal := param? s 0x0202 row
  let tbl := if cool then (match param? s 0x0202 (row + 256) with | some p => some p | none => normal) else normal
  match tbl with
  | some p => inflNib p.payload (16 * q.toNat + hist.toNat)
  | none => q

/-- The integrity record's fields (R262). -/
structure Integ where
  clauseWin : Nat := 1000000
  hcWin : Nat := 1000000
  laneWin : Nat := 10
  memWin : Nat := 10
  axisWin : Nat := 60
  suspectLimit : Nat := 64
  rewindGuard : Nat := 2
deriving DecidableEq, Repr

/-- The fields of a payload. -/
def integOf (b : List Byte) : Integ :=
  { clauseWin := leAt b 0 4, hcWin := leAt b 4 4, laneWin := leAt b 8 2, memWin := leAt b 0x0A 2, axisWin := leAt b 0x0C 2,
    suspectLimit := leAt b 0x0E 2, rewindGuard := leAt b 0x10 1 }

/-- The integrity settings in force. -/
def integ (s : State) : Integ :=
  match param? s 0x0501 0 with
  | some p => integOf p.payload
  | none => {}

/-! ### Rows, records and kinds -/

/-- Whether a row's pages hold drop codes (MODE PRESCREENED, R42, R79). -/
def rowCodes (c : RowCfg) : Bool := c.mode == 0

/-- Whether a row is a DIFFUSION row. -/
def rowDiffusion (c : RowCfg) : Bool := c.mode == 2

/-- Λ, the line length of a kind's raw plane (R101). -/
def lineLen (codes : Bool) : Nat := if codes then 1024 else 2048

/-- Bytes of a raw plane (R79). -/
def planeLen (codes : Bool) : Nat := 64 * lineLen codes

/-- B, the plane words of a record (R133). -/
def planeWords (codes : Bool) : Nat := if codes then 8 else 16

/-- RLEN, words of a line record (R133). -/
def rlen (c : RowCfg) : Nat :=
  let b := planeWords (rowCodes c)
  if c.overlay then 1 + 2 * b + 2 else 1 + b

/-- The rows that a job covers: the rows of its pages (R391). -/
def pageRows (p : Page) : List Nat := (List.range 64).filter (fun r => p.rows.getLsbD r)

end Sys2Proof.Machine
end

