-- ==== Sys2Proof/Machine/Blocks.lean ====
section
/-! DEFINITION. The 8-byte blocks of the arrays that the row-and-column code covers (R284-R288): where each stands, its poison mark, the
bits of its code word that stand flipped, and what a read, a whole write and a merge do to them. -/

namespace Sys2Proof.Machine

/-! ### Which blocks there are -/

/-- CLASS of an array (R302). -/
def arrCls : ArrKind → Nat
  | .bank => 0 | .tcm => 1 | .cellInstr => 2 | .cellData => 3 | .bandRing => 4 | .outRing => 5

/-- Physical clause (table number) that holds an array, for the arrays of clauses. -/
def arrClause? (b : ArrBlock) : Option Nat :=
  match b.kind with
  | .bank => none | .tcm => none
  | .cellInstr => some (b.owner / 16) | .cellData => some (b.owner / 16)
  | .bandRing => some b.owner | .outRing => some b.owner

/-- Blocks of an array of a kind; a die's 32 banks are numbered through. -/
def arrBlocks : ArrKind → Nat
  | .bank => 1048576 | .tcm => 16384 | .cellInstr => 512 | .cellData => 2048 | .bandRing => 8192 | .outRing => 2048

/-- The die that holds a block. -/
def arrDie (b : ArrBlock) : Nat := match arrClause? b with | some x => x / 66 | none => b.owner

/-- Whether the part has a block. -/
def blockExists (s : State) (b : ArrBlock) : Bool := decide (b.blk < arrBlocks b.kind) && dieOk s (arrDie b)

/-- Whether a block exists on a die, in an array that is powered (R289). -/
def blockOn (s : State) (d : Nat) (b : ArrBlock) : Bool :=
  decide (b.blk < arrBlocks b.kind) && (match arrClause? b with
    | some x => x / 66 == d && (clauseAt s x).powered
    | none => b.owner == d)

/-! ### The data of a block -/

/-- The instruction word at an index of a cell. -/
def imemWord (s : State) (i pc : Nat) : Word := sget 0 s.imem (1024 * i + pc)

/-- Bytes of a cell's data SRAM. -/
def dmRead (s : State) (i a n : Nat) : List Byte := rdN s.dmem (16384 * i + a) n

/-- Change the clause line `L`. -/
def Clause.modLine (c : Clause) (L : Nat) (f : CLine → CLine) : Clause :=
  { c with lines := c.lines.map (fun l => if l.line = L then f l else l) }

/-- Change a clause line of State. -/
def modCLine (s : State) (x L : Nat) (f : CLine → CLine) : State := modClause s x (fun c => c.modLine L f)

/-- Where block `n` of a clause's band ring lies: which of the inputs being read, whether in its mask, and which block of it. Blocks are
numbered through the inputs in the order of their fetch (assumption 8). -/
def bandBlk? : List BandIn → Nat → Nat → Option (Nat × Bool × Nat)
  | [], _, _ => none
  | i :: is, k, n =>
    let a := (i.bytes.length + 7) / 8
    let m := (i.mask.length + 7) / 8
    if n < a then some (k, false, n) else if n < a + m then some (k, true, n - a) else bandBlk? is (k + 1) (n - a - m)

/-- The input of a band ring that holds a block, whether its mask does, and which block of it. -/
def bandPlace? (s : State) (x blk : Nat) : Option (BandIn × Bool × Nat) :=
  match bandBlk? (clauseAt s x).input 0 blk with
  | some (k, m, j) => ((clauseAt s x).input[k]?).map (fun i => (i, m, j))
  | none => none

/-- Change the input of a band ring that holds a block. -/
def modBand (s : State) (x blk : Nat) (f : BandIn → Bool → Nat → BandIn) : State :=
  modClause s x (fun c => match bandBlk? c.input 0 blk with
    | some (k, m, j) => { c with input := c.input.mapIdx (fun n i => if n = k then f i m j else i) }
    | none => c)

/-- The line whose codes stand in a slot of a clause's output ring. -/
def slotLineOf? (s : State) (x slot : Nat) : Option CLine := (clauseAt s x).lines.find? (fun l => l.slot == some slot)

/-- Change the line of an output ring's slot. -/
def modSlotLine (s : State) (x slot : Nat) (f : CLine → CLine) : State :=
  match slotLineOf? s x slot with
  | some l => modCLine s x l.line f
  | none => s

/-- Eight bytes as one number. -/
def blkOfBytes (bs : List Byte) : BitVec 64 := BitVec.ofNat 64 (leNat bs)

/-- The 8 bytes of a block. -/
def blockData (s : State) (b : ArrBlock) : BitVec 64 :=
  match b.kind with
  | .bank => blkOfBytes (rdN s.banks (2 ^ 23 * b.owner + 8 * b.blk) 8)
  | .tcm => blkOfBytes (rdN s.tcm (2 ^ 17 * b.owner + 8 * b.blk) 8)
  | .cellInstr => imemWord s b.owner (2 * b.blk + 1) ++ imemWord s b.owner (2 * b.blk)
  | .cellData => blkOfBytes (dmRead s b.owner (8 * b.blk) 8)
  | .bandRing => match bandPlace? s b.owner b.blk with
    | some (i, m, j) => blkOfBytes (slice (if m then i.mask else i.bytes) (8 * j) 8)
    | none => 0
  | .outRing => match slotLineOf? s b.owner (b.blk / 128) with
    | some l => sget 0 l.codes (b.blk % 128)
    | none => 0

/-- Bytes of a string replaced from `a` on, its length kept. -/
def patchBytes (bs : List Byte) (a : Nat) (new : List Byte) : List Byte :=
  bs.mapIdx (fun n x => if a ≤ n ∧ n < a + new.length then byteAt new (n - a) else x)

/-- Store a block's 8 bytes, its marks as they are. -/
def putData (s : State) (b : ArrBlock) (v : BitVec 64) : State :=
  let bs := natLE 8 v.toNat
  match b.kind with
  | .bank => { s with banks := wrN s.banks (2 ^ 23 * b.owner + 8 * b.blk) bs }
  | .tcm => { s with tcm := wrN s.tcm (2 ^ 17 * b.owner + 8 * b.blk) bs }
  | .cellInstr =>
    let k := 1024 * b.owner + 2 * b.blk
    { s with imem := sput 0 (sput 0 s.imem k (v.extractLsb' 0 32)) (k + 1) (v.extractLsb' 32 32) }
  | .cellData => { s with dmem := wrN s.dmem (16384 * b.owner + 8 * b.blk) bs }
  | .bandRing => modBand s b.owner b.blk (fun i m j =>
      if m then { i with mask := patchBytes i.mask (8 * j) bs } else { i with bytes := patchBytes i.bytes (8 * j) bs })
  | .outRing => modSlotLine s b.owner (b.blk / 128) (fun l => { l with codes := sput 0 l.codes (b.blk % 128) v })

/-! ### Poison (R287) -/

/-- Whether an 8-byte block of an array is poisoned (R287). -/
def poisoned (s : State) (k : ArrKind) (owner blk : Nat) : Bool := s.poison.contains ⟨k, owner, blk⟩

/-- Mark a block poisoned. -/
def markPoison (s : State) (b : ArrBlock) : State := if s.poison.contains b then s else { s with poison := s.poison ++ [b] }

/-- Clear a block's poison. -/
def clearPoison (s : State) (b : ArrBlock) : State := { s with poison := s.poison.filter (fun p => p ≠ b) }

/-- Whether a block of any array is poisoned. -/
def blockBad (s : State) (b : ArrBlock) : Bool :=
  match b.kind with
  | .bandRing => match bandPlace? s b.owner b.blk with
    | some (i, m, j) => (if m then i.maskPoison else i.poison).contains j
    | none => false
  | .outRing => match slotLineOf? s b.owner (b.blk / 128) with
    | some l => l.poison.contains (b.blk % 128)
    | none => false
  | _ => s.poison.contains b

/-- A list of poisoned blocks with block `j` in it, or out of it. -/
def markIn (ps : List Nat) (j : Nat) (bad : Bool) : List Nat :=
  if bad then (if ps.contains j then ps else ps ++ [j]) else ps.filter (fun k => k != j)

/-- Set or clear the poison mark of a block of any array. -/
def setPoison (s : State) (b : ArrBlock) (bad : Bool) : State :=
  match b.kind with
  | .bandRing => modBand s b.owner b.blk (fun i m j =>
      if m then { i with maskPoison := markIn i.maskPoison j bad } else { i with poison := markIn i.poison j bad })
  | .outRing => modSlotLine s b.owner (b.blk / 128) (fun l => { l with poison := markIn l.poison (b.blk % 128) bad })
  | _ => if bad then markPoison s b else clearPoison s b

/-! ### Flipped bits (R284, R285) -/

/-- The bits of a block's code word that differ from what was last stored there. -/
def flipOf (s : State) (b : ArrBlock) : BitVec 80 :=
  match b.kind with
  | .bandRing => match bandPlace? s b.owner b.blk with
    | some (i, m, j) => sget 0 (if m then i.maskFlips else i.flips) j
    | none => 0
  | .outRing => match slotLineOf? s b.owner (b.blk / 128) with
    | some l => sget 0 l.flips (b.blk % 128)
    | none => 0
  | _ => ((s.flips.find? (fun p => p.1 == b)).map (fun p => p.2)).getD 0

/-- Set them. -/
def setFlip (s : State) (b : ArrBlock) (f : BitVec 80) : State :=
  match b.kind with
  | .bandRing => modBand s b.owner b.blk (fun i m j =>
      if m then { i with maskFlips := sput 0 i.maskFlips j f } else { i with flips := sput 0 i.flips j f })
  | .outRing => modSlotLine s b.owner (b.blk / 128) (fun l => { l with flips := sput 0 l.flips (b.blk % 128) f })
  | _ =>
    let others := s.flips.filter (fun p => p.1 != b)
    { s with flips := if f = 0 then others else others ++ [(b, f)] }

/-- An upset of the environment flips bits of a code word (assumption 39). -/
def upset (s : State) (p : ArrBlock × BitVec 80) : State :=
  if blockOn s (arrDie p.1) p.1 && blockExists s p.1 then setFlip s p.1 (flipOf s p.1 ^^^ p.2) else s

/-- The code word that stands in a block (R284, R287). -/
def storedWord (s : State) (b : ArrBlock) : BitVec 80 :=
  (if blockBad s b then rcPoison (blockData s b) else rcEncode (blockData s b)) ^^^ flipOf s b

/-- A block stored anew: data, poison mark and flipped bits. -/
def putBlock (s : State) (b : ArrBlock) (v : BitVec 64) (bad : Bool) (f : BitVec 80) : State :=
  setFlip (setPoison (putData s b v) b bad) b f

/-- Write a whole block: fresh check bits, no poison (R286). -/
def storeBlock (s : State) (b : ArrBlock) (v : BitVec 64) : State := putBlock s b v false 0

/-- MGT_MEM_CORR of a class counts one corrected, or one uncorrectable, block or word (R300, R302). -/
def countMem (s : State) (d cls : Nat) (unc : Bool) : State :=
  let m := memCorrAt s (7 * d + cls)
  setMemCorr s (7 * d + cls) (if unc then { m with uncorr := satInc m.uncorr } else { m with corr := satInc m.corr })

/-- BNK_CONF of a master counts one request (R283). -/
def conflict (s : State) (d master : Nat) : State :=
  if master < 69 then { s with conflicts := smod 0 s.conflicts (69 * d + master) satInc } else s

/-- A read of a block (R285-R287): its class is counted, and its data and poison mark stand from then on as the read delivers them. A
correctable block keeps its flipped bit, for a read writes nothing back; an uncorrectable one takes the poison mark over its data as
read. -/
def settle (s : State) (b : ArrBlock) : State :=
  if flipOf s b = 0 then s
  else
    let w := storedWord s b
    let r := rcRead w
    let n (s : State) (unc : Bool) : State := countMem s (arrDie b) (arrCls b.kind) unc
    match r.1 with
    | .clean => putBlock s b r.2 false 0
    | .corrected => n (putBlock s b r.2 false (w ^^^ rcEncode r.2)) false
    | .checkBit => n (putBlock s b r.2 false (w ^^^ rcEncode r.2)) false
    | .poisoned => putBlock s b r.2 true 0
    | .uncorrectable => n (putBlock s b r.2 true 0) true

/-- Whether bytes `a` to `a + n - 1` touch block `blk`. -/
def touchesBlk (a n blk : Nat) : Bool := decide (8 * blk < a + n ∧ a < 8 * blk + 8)

/-- A read of bytes `a` to `a + n - 1` of a bank, TCM or cell SRAM. -/
def settleRange (s : State) (k : ArrKind) (owner a n : Nat) : State :=
  (s.flips.filter (fun p => p.1.kind == k && p.1.owner == owner && touchesBlk a n p.1.blk)).foldl (fun s p => settle s p.1) s

/-- Whether a read of bytes meets poison. -/
def poisonedIn (s : State) (k : ArrKind) (owner a n : Nat) : Bool :=
  s.poison.any (fun b => b.kind == k && b.owner == owner && touchesBlk a n b.blk)

/-- A read of blocks of an input of a band ring, or of its mask: block numbers `first` to `first + n - 1`. -/
def settleBand (s : State) (x : Nat) (i : BandIn) (m : Bool) (first n : Nat) : State :=
  if (if m then i.maskFlips else i.flips) = [] then s
  else
    let c := clauseAt s x
    let k := c.input.findIdx (fun q => q.absBand == i.absBand && q.overlay == i.overlay)
    let size (q : BandIn) : Nat := (q.bytes.length + 7) / 8 + (q.mask.length + 7) / 8
    let at_ := ((c.input.take k).map size).sum + (if m then (i.bytes.length + 7) / 8 else 0)
    (List.range n).foldl (fun s j => settle s ⟨.bandRing, x, at_ + first + j⟩) s

/-- A read of the whole line in a slot of an output ring. -/
def readSlotLine (s : State) (x : Nat) (l : CLine) : State :=
  match l.slot with
  | some n => l.flips.foldl (fun s p => settle s ⟨.outRing, x, 128 * n + p.1⟩) s
  | none => s

/-! ### Writes (R286) -/

/-- Whether bytes `a` upward, some of them not written (none), cover block `blk` whole. -/
def coversBlock (a : Nat) (bs : List (Option Byte)) (blk : Nat) : Bool :=
  (List.range 8).all (fun j => let p := 8 * blk + j; a ≤ p && (match bs[p - a]? with | some (some _) => true | _ => false))

/-- Whether they write some byte of it. -/
def writesBlock (a : Nat) (bs : List (Option Byte)) (blk : Nat) : Bool :=
  (List.range 8).any (fun j => let p := 8 * blk + j; a ≤ p && (match bs[p - a]? with | some (some _) => true | _ => false))

/-- A write into a bank, TCM or cell SRAM: a block written whole loses its poison; one written in part is read, corrected and merged, and
stays poisoned if it was, or is found uncorrectable (R286). -/
def mergeInto (s : State) (k : ArrKind) (owner a : Nat) (bs : List (Option Byte)) (put : State → State) : State :=
  let mine (b : ArrBlock) : Bool := b.kind == k && b.owner == owner
  let s := (s.flips.filter (fun p => mine p.1 && writesBlock a bs p.1.blk && !coversBlock a bs p.1.blk)).foldl (fun s p => settle s p.1) s
  let s := put s
  { s with poison := s.poison.filter (fun b => !(mine b && coversBlock a bs b.blk)),
           flips := s.flips.filter (fun p => !(mine p.1 && writesBlock a bs p.1.blk)) }

/-- Write bytes of a cell's data SRAM; a byte given as none keeps its value. -/
def dmWrite (s : State) (i a : Nat) (bs : List (Option Byte)) : State :=
  mergeInto s .cellData i a bs (fun s =>
    { s with dmem := (List.range bs.length).foldl (fun m j => match bs[j]? with
        | some (some b) => wr m (16384 * i + a + j) b
        | _ => m) s.dmem })

/-- Write bytes that are all given. -/
def dmWriteAll (s : State) (i a : Nat) (bs : List Byte) : State := dmWrite s i a (bs.map some)

/-- Write bytes of a die's banks (R279). -/
def bankWr (s : State) (d a : Nat) (bs : List Byte) : State :=
  mergeInto s .bank d a (bs.map some) (fun s => { s with banks := wrN s.banks (2 ^ 23 * d + a) bs })

/-- Write bytes of a die's TCM. -/
def tcmWr (s : State) (d a : Nat) (bs : List Byte) : State :=
  mergeInto s .tcm d a (bs.map some) (fun s => { s with tcm := wrN s.tcm (2 ^ 17 * d + a) bs })

/-- Write the 8 bytes of a whole block. -/
def writeBlock (s : State) (b : ArrBlock) (bs : List Byte) : State := storeBlock s b (blkOfBytes bs)

end Sys2Proof.Machine
end

