-- ==== Sys2Proof/Machine/CellLoad.lean ====
section
/-! DEFINITION. A clause's slot and row, the image copies in die bank 31, and loading a cell: image, windows and registers (R49-R52, R128,
R139). -/

namespace Sys2Proof.Machine

/-- The slot a physical clause works for. -/
def clauseSlot? (s : State) (x : Nat) : Option SlotCfg := slotCfg? s (x / 66) (clauseAt s x).slot

/-- The row entry of a physical clause's slot. -/
def clauseRow (s : State) (x : Nat) : RowCfg := ((clauseSlot? s x).map (fun c => rowCfg s c.row)).getD {}

/-! ### Parameter windows -/

/-- The 1,024 bytes of a cell's window from the master copies: CURVE, GAIN and FLAGS of its 128 columns (R139, R178). -/
def windowBytes (s : State) (d slot n : Nat) : List Byte :=
  let noz (j : Nat) : Nat := 131072 * d + 2048 * slot + 128 * n + j
  (List.range 128).map (fun j => sget 0 s.curves (noz j)) ++ ((List.range 128).map (fun j => sget 128 s.gains (noz j)) ++
    ((List.range 128).map (fun j => if sget false s.disabled (noz j) then 1 else 0) ++ List.replicate 640 0))

/-- Write one window of a clause's sixteen cells. -/
def writeWindow (s : State) (x : Nat) (w : Bool) : State :=
  let c := clauseAt s x
  (List.range 16).foldl (fun s n =>
    dmWriteAll s (cellOfIx x n) (if w then 0x3C00 else 0x3800) (windowBytes s (x / 66) c.slot n)) s

/-- The registers of a cell at load and restart: everything 0, PC at ENTRY (R128). -/
def Cell.restarted (c : Cell) : Cell :=
  { c with s := [], v := [], p := [], loops := [], seg := 0, outWord := 0, pc := c.entry, st := .run, stall := none, cur := none }

/-! ### Images and their copies in die bank 31 (R49, R50, R52) -/

/-- An IMAGE payload (R49). -/
def imageOf (b : List Byte) : Image :=
  let n := leAt b 2 2
  { id := leAt b 0 2, dataAddr := leAt b 6 2, rowMask := BitVec.ofNat 64 (leAt b 8 8), cellMask := BitVec.ofNat 16 (leAt b 0x10 2),
    entry := leAt b 0x12 2, words := (List.range n).map (fun i => BitVec.ofNat 32 (leAt b (24 + 4 * i) 4)),
    data := slice b (24 + 4 * n) (leAt b 4 2) }

/-- The bytes of an IMAGE payload (R49). -/
def imagePayload (m : Image) : List Byte :=
  natLE 2 m.id ++ (natLE 2 m.words.length ++ (natLE 2 m.data.length ++ (natLE 2 m.dataAddr ++ (natLE 8 m.rowMask.toNat ++
    (natLE 2 m.cellMask.toNat ++ (natLE 2 m.entry ++ ([0, 0, 0, 0] ++ (m.words.flatMap (fun w => natLE 4 w.toNat) ++ m.data))))))))

/-- Length of an IMAGE payload (R49). -/
def Image.size (m : Image) : Nat := 24 + 4 * m.words.length + m.data.length

/-- Images that target a row with slots on a die (R52). -/
def imagesOn (g : Grammar) (d : Nat) : List Image :=
  g.images.filter (fun m => g.slots.any (fun c => c.die == d && m.rowMask.getLsbD c.row))

/-- A die's copies, one after another from the start of bank 31 (their order there is the model's, assumption 16). -/
def bank31 (g : Grammar) (d : Nat) : List Byte := (imagesOn g d).flatMap imagePayload

/-- First byte of bank 31. -/
def bank31Base : Nat := 0x7C0000

/-- Where a die's copy of an image begins in its banks, and its length. -/
def copyPlace (g : Grammar) (d id : Nat) : Nat × Nat :=
  let before := (imagesOn g d).takeWhile (fun m => m.id != id)
  (bank31Base + (before.map Image.size).sum, (((imagesOn g d).find? (fun m => m.id == id)).map Image.size).getD 0)

/-- The image of the Grammar that targets a cell (R50). -/
def imageFor? (s : State) (x n : Nat) : Option Image :=
  match clauseSlot? s x with
  | none => none
  | some g => s.gram.images.find? (fun m => m.rowMask.getLsbD g.row && m.cellMask.getLsbD n)

/-- The copy of a cell's image: its place in the die's banks and what it reads as (R52). -/
def imageCopy? (s : State) (x n : Nat) : Option (Nat × Image) :=
  (imageFor? s x n).map (fun m =>
    let p := copyPlace s.gram (x / 66) m.id
    (p.1, imageOf (rdN s.banks (2 ^ 23 * (x / 66) + p.1) p.2)))

/-- The die manager reads a cell's copy. -/
def readCopy (s : State) (x n : Nat) : State :=
  match imageFor? s x n with
  | some m => let p := copyPlace s.gram (x / 66) m.id; settleRange s .bank (x / 66) p.1 p.2
  | none => s

/-- Poison the blocks of a cell SRAM from byte `dst` on whose source, `n` bytes of a die's banks from `src` on, is poisoned (R287,
assumption 39). -/
def copyPoison (s : State) (d src n : Nat) (k : ArrKind) (i dst : Nat) : State :=
  (List.range ((n + 7) / 8)).foldl (fun s j =>
    if poisonedIn s .bank d (src + 8 * j) (min 8 (n - 8 * j)) then markPoison s ⟨k, i, dst / 8 + j⟩ else s) s

/-- Write a cell's instruction SRAM from an image; words beyond INSTR are 0 (R51). -/
def putInstr (s : State) (i : Nat) (m : Image) : State :=
  { s with imem := (List.range 1024).foldl (fun t k => sput 0 t (1024 * i + k) (m.words.getD k 0)) s.imem,
           poison := s.poison.filter (fun b => !(b.kind == .cellInstr && b.owner == i)),
           flips := s.flips.filter (fun p => !(p.1.kind == .cellInstr && p.1.owner == i)) }

/-- Write a cell's instruction SRAM from its copy (R51, R52, R157). -/
def loadInstr (s : State) (x n : Nat) : State :=
  match imageCopy? s x n with
  | some (a, m) => copyPoison (putInstr s (cellOfIx x n) m) (x / 66) (a + 24) (4 * m.words.length) .cellInstr (cellOfIx x n) 0
  | none => s

/-- Write a cell's initial data range from its copy; nothing lies beyond the data SRAM (R49, R157). -/
def loadData (s : State) (x n : Nat) : State :=
  match imageCopy? s x n with
  | some (a, m) =>
    let bs := m.data.take (16384 - m.dataAddr)
    copyPoison (dmWriteAll s (cellOfIx x n) m.dataAddr bs) (x / 66) (a + 24 + 4 * m.words.length) bs.length .cellData (cellOfIx x n) m.dataAddr
  | none => s

/-- Load a cell of a slot as at Dialect load (R51, R128): its image from the die's copy (R52), the data SRAM 0 outside the initial data,
registers 0 and PC at ENTRY; nothing of any line, port or request stays. -/
def loadCell (s : State) (x n : Nat) : State :=
  let i := cellOfIx x n
  let s := readCopy s x n
  match imageCopy? s x n with
  | none => s
  | some (_, m) =>
    let s := loadData (dmWriteAll (loadInstr s x n) i 0 (List.replicate 16384 0)) x n
    modCell s i (fun c =>
      { ({ c with entry := BitVec.ofNat 10 m.entry, dataLo := m.dataAddr, dataLen := m.data.length, frame := none, nextQ := 0,
                  banks := [], inq := [], outq := [], portL := [], portR := [], recWords := [], logs := [], overLen := [],
                  reload := none } : Cell).restarted with st := .run })

/-- Load every cell of a clause and both its parameter windows; the delay stage of a DIFFUSION row's left halo holds 16 zero
records (R51, R139, R174). -/
def loadClause (s : State) (x : Nat) : State :=
  let s := (List.range 16).foldl (fun s n => loadCell s x n) s
  let s := writeWindow (writeWindow s x false) x true
  modClause s x (fun c => { c with win := false, winWritten := false, winDirty := false, fresh := true, nextQ := 0, lines := [],
                                   endLine := none, needL := 0, needR := 0, returns := false,
                                   dec0 := {}, dec1 := {}, input := [], haloR := [], ovlWait := false, rewindWait := false,
                                   haloL := if rowDiffusion (clauseRow s x) then List.replicate 16 0 else [] })

end Sys2Proof.Machine
end

