-- ==== Sys2Proof/Machine/Lines.lean ====
section
/-! DEFINITION. The life of a clause line (R24-R34, R254-R261), shared by cells, decompressors, signature unit, row ticks and
gather: where a line lies in the job, Ready and withheld, re-runs, faults of a clause, and the start of a migration. -/

namespace Sys2Proof.Machine

/-! ### Copies and lines of a job (R392) -/

/-- Pages in rotation. -/
def Job.np (j : Job) : Nat := j.pages.length

/-- Lines of one printing of page `i` of the rotation, its gutter included. -/
def Job.pitch (j : Job) (i : Nat) : Nat := 64 * j.bands.getD i 0 + j.gutter

/-- Lines of the first `n` pages of the rotation. -/
def Job.prefixLines (j : Job) (n : Nat) : Nat := ((List.range n).map j.pitch).sum

/-- Lines of one whole rotation. -/
def Job.round (j : Job) : Nat := j.prefixLines j.np

/-- N, the copies of the job. -/
def Job.copies (j : Job) : Nat := j.np * j.rounds

/-- S_i, the job line at which job copy `i` begins. -/
def Job.start (j : Job) (i : Nat) : Nat := if j.np = 0 then 0 else (i / j.np) * j.round + j.prefixLines (i % j.np)

/-- The job copy whose pitch holds a job line; none at or beyond S_N. -/
def Job.copyAt (j : Job) (line : Nat) : Option Nat :=
  if j.round = 0 then none
  else
    let o := line % j.round
    match (List.range j.np).find? (fun i => o < j.prefixLines (i + 1)) with
    | none => none
    | some i => let c := (line / j.round) * j.np + i; if c < j.copies then some c else none

/-- The page a job copy prints. -/
def Job.pageOf (j : Job) (i : Nat) : Word := if j.np = 0 then 0 else j.pages.getD (i % j.np) 0

/-- The copy number of a job copy among the printings of its page (R78, R392). -/
def Job.copyNo (j : Job) (i : Nat) : Nat :=
  if j.np = 0 then 0
  else
    let p := j.pageOf i
    (i / j.np) * (j.pages.filter (fun q => q == p)).length + ((j.pages.take (i % j.np + 1)).filter (fun q => q == p)).length

/-- The first copy that is not printed: the boundary of a stop at a copy, else N (R394, R396). -/
def Job.bound (j : Job) : Nat := j.cut.getD j.copies

/-- Where a job line lies: in a copy's page lines, or in no copy (a gutter, or beyond the job or its boundary). -/
def Job.place (j : Job) (line : Nat) : Option PLine :=
  match j.copyAt line with
  | none => none
  | some i =>
    if j.bound ≤ i then none
    else
      let off := line - j.start i
      if off < 64 * j.bands.getD (i % j.np) 0 then
        some { jobCopy := i, page := j.pageOf i, copy := BitVec.ofNat 32 (j.copyNo i), band := off / 64, bandLine := off % 64 }
      else none

/-- Page line of a place: 64*BAND + band line. -/
def PLine.pageLine (p : PLine) : Nat := 64 * p.band + p.bandLine

/-- Bands numbered across the job's copies, rising in the order a row prints them. -/
def PLine.absBand (p : PLine) : Nat := 8192 * p.jobCopy + p.band

/-- The place of row line `L` on row `r` in the open job: job line L - OW (R195). -/
def placeRowLine (s : State) (r L : Nat) : Option PLine :=
  match s.job with
  | none => none
  | some j =>
    let ow := (rowTiming s r).ow
    if j.st = .closed ∨ L < ow ∨ !(j.rows.contains r) then none else j.place (L - ow)

/-! ### Clauses, slots and lines -/

/-- The clause line `L`. -/
def Clause.lineOf? (c : Clause) (L : Nat) : Option CLine := c.lines.find? (fun l => l.line == L)

/-- The clause line with page data whose sequence number is `q`. -/
def Clause.lineQ? (c : Clause) (q : Nat) : Option CLine := c.lines.find? (fun l => l.at_.isSome && l.q == q)

/-- Ready or withheld. -/
def CLine.settled (l : CLine) : Bool := l.st == .ready || l.st == .withheld

/-- A free slot of the output ring's 16 (R15, R24). -/
def Clause.freeSlot? (c : Clause) : Option Nat :=
  (List.range 16).find? (fun n => !c.lines.any (fun l => l.slot == some n))

/-- Whether the band has lost its rewind mark (R258). -/
def Clause.bandLost (c : Clause) (b : Nat) : Bool := c.input.any (fun i => i.absBand == b && i.lost)

/-- Whether a strip-band of the copy has an overlay block in the ring (R89, R133). -/
def Clause.hasOvl (c : Clause) (b : Nat) : Bool := c.input.any (fun i => i.absBand == b && i.overlay)

/-- The clauses of a die that hold lines of a slot: the one that serves it, and one fencing or fenced whose ring still
has lines to gather (R268). -/
def slotClauses (s : State) (d slot : Nat) : List Nat :=
  ((List.range 66).map (clauseIx d)).filter (fun x =>
    let c := clauseAt s x
    c.slot == slot && (c.st == .serving || c.st == .fencing))

/-- The clause line `L` of a slot, with the clause whose ring holds it (R268, R344). -/
def slotLine? (s : State) (d slot L : Nat) : Option (Nat × CLine) :=
  (slotClauses s d slot).findSome? (fun x => ((clauseAt s x).lineOf? L).map (fun l => (x, l)))

/-! ### Defective copies (R273, R274) -/

/-- Flag a job copy with a cause and count lines lost, until its report is delivered. -/
def flagCopy (s : State) (i cause lost : Nat) : State :=
  match s.job with
  | none => s
  | some j => if i < j.reported then s else
    let f (d : Defect) : Defect :=
      { flag := true, causes := d.causes ||| (1#16 <<< cause), lost := d.lost + lost }
    { s with job := some { j with defects := smod {} j.defects i f, allLost := j.allLost + lost } }

/-- Log a run that has ended: LINES_WITHHELD with its first line and count, at the time its first line was withheld
(R274, R508). -/
def logRun (s : State) (r : Run) : State :=
  evqPush s r.die 0 (.entry ⟨0x0011, r.die, evSeverity 0x0011, evLayout 0x0011, r.time,
    lineData r.page r.copy r.row r.cause r.strip r.first r.count⟩)

/-- End every run a predicate picks. -/
def endRuns (s : State) (p : Run → Bool) : State :=
  match s.job with
  | none => s
  | some j =>
    let s := { s with job := some { j with runs := j.runs.filter (fun r => !p r) } }
    (j.runs.filter p).foldl logRun s

/-- A line withheld, or a fire skipped, joins the run of its copy, strip and cause, or opens one; the 255th line ends it
(R274). -/
def addRun (s : State) (i : Nat) (page copy : Word) (row strip cause line die : Nat) : State :=
  let same (r : Run) : Bool := r.jobCopy == i && r.row == row && r.strip == strip && r.cause == cause
  let s := endRuns s (fun r => r.jobCopy == i && r.row == row && r.strip == strip && r.cause != cause)
  match s.job with
  | none => s
  | some j =>
    match j.runs.find? same with
    | none =>
      let r : Run := ⟨i, page, copy, row, strip, cause, line, line, 1, tb64 s, die⟩
      { s with job := some { j with runs := j.runs ++ [r] } }
    | some r =>
      let r' := { r with last := line, count := r.count + 1 }
      if r'.count ≥ 255 then
        logRun { s with job := some { j with runs := j.runs.filter (fun q => !same q) } } r'
      else { s with job := some { j with runs := j.runs.map (fun q => if same q then r' else q) } }

/-! ### Decompressors and their replay lines (R110-R113) -/

/-- A decompressor of a clause. -/
def Clause.dec (c : Clause) (n : Nat) : Decomp := if n = 0 then c.dec0 else c.dec1

/-- Replace a decompressor. -/
def Clause.setDec (c : Clause) (n : Nat) (d : Decomp) : Clause := if n = 0 then { c with dec0 := d } else { c with dec1 := d }

/-- The block input that decompressor `n` decodes for a band: on overlay rows 0 the base and 1 the overlay; elsewhere the
base, by the band's parity (R106). -/
def Clause.inputFor? (c : Clause) (b : Nat) (overlay : Bool) : Option BandIn :=
  c.input.find? (fun i => i.absBand == b && i.overlay == overlay)

/-- Which decompressor decodes a band's base block (R106). -/
def baseDec (row : RowCfg) (band : Nat) : Nat := if row.overlay then 0 else band % 2

/-- Whether the block that a decompressor works on is stored raw. -/
def Clause.rawFor (c : Clause) (row : RowCfg) (n b : Nat) : Bool :=
  match c.inputFor? b (row.overlay && n == 1) with
  | some i => i.block.raw
  | none => true

/-- Let the follower take up what it may: while the oldest checkpoint belongs to a line that is Ready or withheld, a raw
block's or a block's last line just passes, emptying the replay window at a block's end; otherwise the follower starts to
decode that line again (R112). `fuel` bounds the lines passed. -/
def followFrom (c : Clause) (row : RowCfg) (n : Nat) : Nat → Decomp → Decomp
  | 0, d => d
  | fuel + 1, d =>
    match d.following, d.ckpts with
    | none, k :: ks =>
      let unsettled := c.lines.any (fun l => match l.at_ with
        | some p => p.absBand == k.absBand && p.bandLine == k.line && !l.settled
        | none => false)
      if unsettled then d
      else if k.line = 63 then followFrom c row n fuel { d with ckpts := ks, replay := [] }
      else if c.bandLost k.absBand then followFrom c row n fuel { d with ckpts := ks, replay := [] }
      else if c.rawFor row n k.absBand then followFrom c row n fuel { d with ckpts := ks }
      else { d with following := some k }
    | _, _ => d

/-- Return a decompressor to a line's checkpoint (R113): later checkpoints and all output beyond it are dropped; copies read
the replay window, which becomes the live one; a line in the zero fill is zeros again (R117). While its follower still decodes the line
before, or that line is not yet Ready or withheld, it waits as it stands. -/
def Decomp.rewind (d : Decomp) (absBand line : Nat) : Decomp :=
  match d.ckpts.find? (fun k => k.absBand == absBand && k.line == line) with
  | none => d
  | some k =>
    if d.following.isSome ∨ d.ckpts.head? ≠ some k then { d with reexpand := some (64 * absBand + line), st := .wait }
    else
      { d with reexpand := none, st := .run, absBand := k.absBand, busy := true, started := true, inPos := k.inPos, outPos := k.outPos,
               crc := k.crc, tok := none, zeroFill := k.zero, acc := [], live := d.replay, line := BitVec.ofNat 6 line,
               ckpts := d.ckpts.filter (fun q => 64 * q.absBand + q.line < 64 * absBand + line) }

/-- The decompressor that produced a word of a record (R106, R133). -/
def wordDec (row : RowCfg) (c : Clause) (w : InWord) : Nat :=
  if row.overlay then (if w.ix ≤ planeWords (rowCodes row) then 0 else 1)
  else match c.lineQ? w.q with
    | some l => match l.at_ with
      | some p => p.band % 2
      | none => 0
    | none => 0

/-- The record words that decompressor `n` brings, as a mask (R133). -/
def decWords (row : RowCfg) (n : Nat) : BitVec 64 :=
  let b := planeWords (rowCodes row)
  let first := if row.overlay && n == 1 then b + 1 else 1
  (List.range b).foldl (fun (m : BitVec 64) j => m ||| (1#64 <<< (first + j))) 0

/-- What a decompressor that has returned to a line's checkpoint produces again: its words of that line in every frame, and its words of
that line and later ones not yet in a frame (R113, R138). -/
def dropReplayed (s : State) (x n q : Nat) : State :=
  let c := clauseAt s x
  let row := clauseRow s x
  let stale (w : InWord) : Bool := q ≤ w.q && wordDec row c w == n
  (List.range 16).foldl (fun s k => modCell s (cellOfIx x k) (fun e =>
    { e with recWords := sput 0 e.recWords q (sget 0 e.recWords q &&& ~~~ decWords row n),
             inq := e.inq.filter (fun w => !stale w) })) s

/-- Return decompressor `n` to a line's checkpoint, or have it wait for its follower (R113); one that has not decoded the line goes on. -/
def rewindDec (s : State) (x n absBand line : Nat) : State :=
  let c := clauseAt s x
  if !(c.dec n).ckpts.any (fun k => k.absBand == absBand && k.line == line) then s
  else
    let d := (c.dec n).rewind absBand line
    let s := setClause s x (c.setDec n d)
    match d.reexpand, c.lines.find? (fun l => match l.at_ with
        | some p => p.absBand == absBand && p.bandLine == line
        | none => false) with
    | none, some l => dropReplayed s x n l.q
    | _, _ => s

/-- A re-expansion that waited for the follower begins once its line is the replay line (R113). -/
def wakeDec (s : State) (x n : Nat) : State :=
  match ((clauseAt s x).dec n).reexpand with
  | some v => rewindDec s x n (v / 64) (v % 64)
  | none => s

/-- Both followers take up what they may, and waiting re-expansions begin. -/
def kickFollowers (s : State) (x : Nat) : State :=
  let row := clauseRow s x
  let s := modClause s x (fun c =>
    let c := c.setDec 0 (followFrom c row 0 (c.dec0.ckpts.length + 1) c.dec0)
    c.setDec 1 (followFrom c row 1 (c.dec1.ckpts.length + 1) c.dec1))
  wakeDec (wakeDec s x 0) x 1

/-- A re-expansion that still waits for the follower is abandoned with its line: the decompressor goes on where it stood (R27). -/
def Decomp.abandon (d : Decomp) (p : PLine) : Decomp :=
  if d.reexpand = some (64 * p.absBand + p.bandLine) then { d with reexpand := none, st := if d.tok.isSome then .stall else .run } else d

/-! ### Re-runs (R31, R138, R255) -/

/-- Whether a re-run of the clause is in progress. -/
def Clause.rerunning (c : Clause) : Bool := c.lines.any (fun l => l.rerun && !l.settled)

/-- Begin the re-run of line `L`: every cell that had begun it owes a re-run, and the decompressors that have decoded it return to its
checkpoints, to replay its record (R113, R138). -/
def startRerun (s : State) (x L : Nat) : State :=
  let c := clauseAt s x
  match c.lineOf? L with
  | none => s
  | some l =>
    match l.at_ with
    | none => s
    | some p =>
      let s := modCLine s x L (fun l =>
        { l with st := .filling, rerun := true, rerunWait := false, rerunDue := l.begun, segs := l.segs &&& ~~~ l.begun })
      rewindDec (rewindDec s x 0 p.absBand p.bandLine) x 1 p.absBand p.bandLine

/-- Ask for the re-run of a line: at once, or after the re-run of an earlier line of the clause (R255). -/
def askRerun (s : State) (x L : Nat) : State :=
  if (clauseAt s x).rerunning then modCLine s x L (fun l => { l with rerunWait := true, st := .filling })
  else startRerun s x L

/-- The next failed line that waits begins its re-run (R255). -/
def nextRerun (s : State) (x : Nat) : State :=
  let c := clauseAt s x
  if c.rerunning then s
  else match c.lines.find? (fun l => l.rerunWait && !l.settled) with
    | some l => startRerun s x l.line
    | none => s

/-- What follows once a line is Ready or withheld: followers advance and a waiting re-run begins (R112, R255). -/
def settleLine (s : State) (x : Nat) : State := nextRerun (kickFollowers s x) x

/-- Whether a line's copy is still to be printed: no NOW stop, and short of the boundary of a stop at a copy. Lines beyond hold
zeros, so nothing is lost in them (R394). -/
def stillPrinted (s : State) (p : PLine) : Bool :=
  match s.job with
  | some j => !j.now_ && p.jobCopy < j.bound
  | none => false

/-- A clause line becomes Ready: runs of its copy and strip end (R274). -/
def lineReady (s : State) (x L : Nat) : State :=
  let c := clauseAt s x
  match c.lineOf? L with
  | none => s
  | some l =>
    let s := modCLine s x L (fun l => { l with st := .ready, rerun := false, rerunDue := 0, fault := false })
    let s := match l.at_, clauseSlot? s x with
      | some p, some g => endRuns s (fun r => r.jobCopy == p.jobCopy && r.row == g.row && r.strip == g.pos)
      | _, _ => s
    settleLine s x

/-- A clause line is withheld with a cause: counted, its copy flagged, its run kept (R28, R273, R274, R278). A withheld line
stays as it is; a Ready line does too (R29), unless `ready` is set (R34, assumption 12). -/
def withholdLine (s : State) (x L cause : Nat) (ready : Bool) : State :=
  let c := clauseAt s x
  match c.lineOf? L with
  | none => s
  | some l =>
    if l.st = .withheld ∨ (l.st = .ready ∧ !ready) then s
    else
      let drop (l : CLine) : CLine :=
        { l with st := .withheld, cause := cause, rerun := false, rerunWait := false, rerunDue := 0, fault := false }
      let s := modClause s x (fun c => { c.modLine L drop with withheldCnt := satInc c.withheldCnt })
      let s := match l.at_ with
        | some p => modClause s x (fun c => (c.setDec 0 (c.dec0.abandon p)).setDec 1 (c.dec1.abandon p))
        | none => s
      let s := match l.at_, clauseSlot? s x with
        | some p, some g => if !stillPrinted s p then s else addRun (flagCopy s p.jobCopy cause 1) p.jobCopy p.page p.copy g.row g.pos cause p.pageLine g.die
        | _, _ => s
      settleLine s x

/-- Withhold a line that is not yet Ready. -/
def withhold (s : State) (x L cause : Nat) : State := withholdLine s x L cause false

/-! ### Faults of a clause (R260, R261, R263, R266) -/

/-- Withhold every line of a clause that a predicate picks. -/
def withholdAll (s : State) (x cause : Nat) (p : CLine → Bool) : State :=
  (((clauseAt s x).lines.filter p).map (fun l => l.line)).foldl (fun s L => withhold s x L cause) s

/-- Power a physical clause off. -/
def powerOffClause (s : State) (x : Nat) : State :=
  let s := modClause s x (fun c => { c with powered := false })
  (List.range 16).foldl (fun s n => modCell s (cellOfIx x n) (fun e => { e with st := .off, cur := none, stall := none })) s

/-- The spares of a die, in ascending order. -/
def spares (s : State) (d : Nat) : List Nat := ((List.range 66).map (clauseIx d)).filter (fun x => (clauseAt s x).st == .spare)

/-- The working clauses of a die that serve no slot and are not spares: off and not fenced (R44). -/
def idleWorking (s : State) (d : Nat) : List Nat :=
  ((List.range 66).map (clauseIx d)).filter (fun x => (clauseAt s x).st == .off && !isFenced s (.clause d (x % 66)))

/-- A die short of spares powers its highest-numbered working clause that serves no slot and makes it SPARE; with none, it
logs SPARES_LOW (R44, R446). -/
def topUpSpares (s : State) (d : Nat) : State :=
  if !s.dia.valid ∨ 2 ≤ (spares s d).length then s
  else match (idleWorking s d).getLast? with
    | some x => modClause s x (fun c => { c with st := .spare, powered := true, spareFor := none, prepared := false })
    | none => logEv s d 0x0019 (valueData d (spares s d).length (idleWorking s d).length 0)

/-- The lowest-numbered SPARE clause that prepares for no slot yet. -/
def freeSpare? (s : State) (d : Nat) : Option Nat := (spares s d).find? (fun x => (clauseAt s x).spareFor.isNone)

/-- Choose and begin to prepare a spare for the slot of a FENCING clause: its image and windows are written and its cells
released to run to their first LINE (R266). -/
def prepareSpare (s : State) (x : Nat) : State :=
  let c := clauseAt s x
  match freeSpare? s (x / 66) with
  | none => modClause s x (fun c => { c with preparing := none })
  | some y =>
    let s := modClause s y (fun p => { p with spareFor := some c.slot, slot := c.slot, prepared := false })
    modClause (modClause (loadClause s y) y (fun p => { p with haloL := [] })) x (fun c => { c with preparing := some y })

/-- A permanent fault of a clause: a SERVING clause moves to FENCING, its record is written and a spare is chosen; a SPARE
clause is FENCED (R266, R269, R403). Lines that wait for a re-run are withheld CHECK, and on a row in mode CRC its lines not yet Ready
are withheld FENCED (R267). -/
def permanentClause (s : State) (x reason : Nat) : State :=
  let c := clauseAt s x
  let d := x / 66
  match c.st with
  | .serving =>
    let s := changeFence s (.clause d (x % 66)) .fenced reason
    let s := modClause s x (fun c => { c with st := .fencing })
    let s := prepareSpare s x
    let s := withholdAll s x 2 (fun l => l.rerunWait && !l.settled)
    let s := if (clauseRow s x).integrity = 1 then s else withholdAll s x 7 (fun l => !l.settled)
    topUpSpares s d
  | .spare =>
    let s := changeFence s (.clause d (x % 66)) .fenced reason
    let s := powerOffClause (modClause s x (fun c => { c with st := .fenced })) x
    topUpSpares s d
  | _ => s

/-- The row line count of a clause's row (R262). -/
def clauseRowCount (s : State) (x : Nat) : Nat := (rowAt s ((clauseSlot? s x).map (fun g => g.row) |>.getD 0)).lineCount

/-- A clause fault whose line's outcome makes it transient: counted, or permanent when it comes within the clause's window of
the transient fault before it (R260). Faults of a FENCING clause are not counted (R267). -/
def transientClause (s : State) (x : Nat) : State :=
  let c := clauseAt s x
  if c.st ≠ .serving then s
  else
    let now := clauseRowCount s x
    let repeated : Bool := match c.lastFault with
      | some t => now - t ≤ (integ s).clauseWin
      | none => false
    if repeated then permanentClause s x 1
    else
      let s := countFault s (.clause (x / 66) (x % 66))
      modClause s x (fun c => { c with transient := satInc c.transient, lastFault := some now, lastLine := BitVec.ofNat 32 now })

/-- A clause's pending fault that is permanent at once (R254). -/
def permanentIfServing (s : State) (x reason : Nat) : State :=
  if (clauseAt s x).st = .serving then permanentClause s x reason else s

/-- The suspect count: the INPUT failures of a clause within the last CLAUSE_WIN row lines (R261, R278). -/
def suspectCount (s : State) (x : Nat) : Nat :=
  ((clauseAt s x).suspects.filter (fun t => clauseRowCount s x - t < (integ s).clauseWin)).length

/-- A clause fenced as a suspect returns to SPARE (R261). -/
def returnSpare (s : State) (y : Nat) : State :=
  changeFence (modClause s y (fun q => { q with st := .spare, powered := true, spareFor := none, prepared := false, suspects := [], returns := false }))
    (.clause (y / 66) (y % 66)) .unfenced 5

/-- The input is at fault: the clause fenced as a suspect returns to SPARE, at once or when its ring has drained (R261, R268). -/
def clearSuspect (s : State) (y : Nat) : State :=
  match (clauseAt s y).st with
  | .fenced => returnSpare s y
  | .fencing => modClause s y (fun q => { q with returns := true })
  | _ => s

/-- An INPUT failure: evidence against the input. The suspect count holds the failures within the last CLAUSE_WIN row lines;
at the limit the clause is fenced, or, when it had itself replaced a suspect within the window, the input is at fault
(R261). Faults of a FENCING clause are not counted (R267). -/
def inputFailure (s : State) (x : Nat) (p : PLine) : State :=
  let c := clauseAt s x
  if c.suspectOff ∨ c.st = .fencing then s
  else
    let now := clauseRowCount s x
    let win := (integ s).clauseWin
    let sus := c.suspects.filter (fun t => now - t < win) ++ [now]
    let s := modClause s x (fun c => { c with suspects := sus })
    if sus.length < (integ s).suspectLimit then s
    else match c.suspectOf with
      | some (y, at_) =>
        if now - at_ ≤ win then
          let s := modClause s x (fun c => { c with suspectOff := true, suspects := [] })
          let s := clearSuspect s y
          match clauseSlot? s x with
          | some g => logEv s g.die 0x0013 (lineData p.page p.copy g.row 3 g.pos p.pageLine 1)
          | none => s
        else permanentIfServing s x 5
      | none => permanentIfServing s x 5

/-! ### Outcomes of a line (R254) -/

/-- A first check that fails, or a first-pass trap: withheld at once on a FENCING clause (R267) or where the band has lost its
replay (R259), otherwise a pending fault and a re-run. -/
def firstFailure (s : State) (x L : Nat) (sig : Option Word) (trap : Option (Nat × Nat × Nat)) : State :=
  let c := clauseAt s x
  match c.lineOf? L with
  | none => s
  | some l =>
    match l.at_ with
    | none => s
    | some p =>
      if c.st = .fencing then withhold s x L 2
      else if c.bandLost p.absBand then transientClause (withhold s x L 4) x
      else askRerun (modCLine s x L (fun l => { l with fault := true, sig1 := sig, trap1 := trap })) x L

/-- A pending fault becomes transient, or permanent within the window, once its line's outcome is known. -/
def settleFault (s : State) (x : Nat) (pending : Bool) : State := if pending then transientClause s x else s

/-- The last segment of a line has landed: it takes a ring slot where it holds none yet (R26), and goes to Checking in mode
SIG, to Ready in mode CRC (R34, R254). -/
def lineComplete (s : State) (x L : Nat) : State :=
  let c := clauseAt s x
  match c.lineOf? L with
  | none => s
  | some l =>
    if l.st ≠ .filling ∨ l.segs ≠ 0xFFFF ∨ l.rerunDue ≠ 0 ∨ l.rerunWait then s
    else match (match l.slot with | some n => some n | none => c.freeSlot?) with
      | none => s
      | some n =>
        let s := modCLine s x L (fun l => { l with slot := some n })
        if (clauseRow s x).integrity = 1 ∧ l.at_.isSome then modCLine s x L (fun l => { l with st := .checking })
        else settleFault (lineReady s x L) x l.fault

/-- Cell `n` has landed its eighth word of line `L`. -/
def landSegment (s : State) (x L n : Nat) : State :=
  lineComplete (modCLine s x L (fun l => { l with segs := l.segs ||| (1#16 <<< n) })) x L

/-- A cell's trap in a segment of line `L`, on a first pass or a re-run (R156, R254). On a line whose outcome is known it is counted
against the clause at once; on a FENCING clause it withholds the line CHECK (R267). A first pass that traps once the line is being re-run
is part of the line's first failure: that cell owes the re-run. -/
def lineTrapped (s : State) (x L n cause pc : Nat) (rerun : Bool) : State :=
  let c := clauseAt s x
  match c.lineOf? L with
  | none => transientClause s x
  | some l =>
    if l.settled then transientClause s x
    else if c.st = .fencing then withhold s x L 2
    else if l.rerunWait then s
    else if !l.rerun then firstFailure s x L none (some (n, cause, pc))
    else if !rerun then
      modCLine s x L (fun l => { l with rerunDue := l.rerunDue ||| (1#16 <<< n), begun := l.begun ||| (1#16 <<< n) })
    else if l.trap1 = some (n, cause, pc) then
      let s := withhold s x L 3
      match l.at_ with
      | some p => inputFailure s x p
      | none => s
    else permanentIfServing (withhold s x L 2) x 2

/-- A line's deadline: whatever is not Ready is withheld LATE, and a pending fault becomes transient (R27, R254). -/
def lineDeadline (s : State) (x L : Nat) : State :=
  match (clauseAt s x).lineOf? L with
  | none => s
  | some l => if l.settled then s else settleFault (withhold s x L 1) x l.fault

/-- Lines of a band. -/
def CLine.ofBand (l : CLine) (absBand : Nat) : Bool := match l.at_ with | some p => p.absBand == absBand | none => false

/-- The newest head line of a clause's row whose gather has begun (R26). -/
def clauseGathered (s : State) (x : Nat) : Option Nat :=
  match clauseSlot? s x with
  | some g => (rowAt s g.row).gathered
  | none => none

/-- Whether the first gather that reads clause line `L` of this clause has begun (R27). -/
def gatherBegun (s : State) (x L : Nat) : Bool :=
  match clauseGathered s x with
  | some f => L + sminOf s (x / 66) (clauseAt s x).slot ≤ f
  | none => false

/-- A line whose deadline would be the start of the gather of head line 0 has none (R27). -/
def hasDeadline (s : State) (x L : Nat) : Bool := L + sminOf s (x / 66) (clauseAt s x).slot != 0

/-- The lines of a BAD block's band are withheld: those not yet Ready (R100, R254). -/
def withholdBad (s : State) (x absBand : Nat) : State := withholdAll s x 6 (fun l => !l.settled && l.ofBand absBand)

/-- The block of a band fails its check on a row in mode CRC: every line of it that has not begun its gather is withheld,
pending faults are cancelled and a re-run in progress is abandoned (R34, R117, R254; assumption 12). The gather of head line 0 takes a
line only once it is Ready (R25), so a line not yet Ready has not begun its gather. -/
def withholdFailed (s : State) (x absBand : Nat) : State :=
  (((clauseAt s x).lines.filter (fun l => l.ofBand absBand && (!gatherBegun s x l.line || !l.settled))).map (fun l => l.line)).foldl
    (fun s L => withholdLine s x L 5 true) s

end Sys2Proof.Machine
end

