-- ==== Sys2Proof/Machine/CellOps.lean ====
section
/-! DEFINITION. What every cell instruction shares (R127-R160): registers, the data SRAM with its regions, poison and stalls,
traps, hardware loops, bank requests, ports and halos, and the one frame in which an instruction executes. -/

namespace Sys2Proof.Machine

/-! ### Registers (R127) -/

/-- A scalar register; s0 is never written and reads 0. -/
def Cell.rs (c : Cell) (n : Nat) : BitVec 16 := sget 0 c.s n

/-- Write a scalar register; a write to s0 is discarded. -/
def Cell.ws (c : Cell) (n : Nat) (v : BitVec 16) : Cell := if n = 0 then c else { c with s := sput 0 c.s n v }

/-- A vector register. -/
def Cell.rv (c : Cell) (n : Nat) : BitVec 128 := sget 0 c.v n

/-- Write a vector register. -/
def Cell.wv (c : Cell) (n : Nat) (v : BitVec 128) : Cell := { c with v := sput 0 c.v n v }

/-- A predicate; p0 reads 0xFF. -/
def Cell.rp (c : Cell) (n : Nat) : BitVec 8 := if n = 0 then 0xFF else sget 0 c.p n

/-- Write a predicate; a write to p0 is discarded. -/
def Cell.wp (c : Cell) (n : Nat) (v : BitVec 8) : Cell := if n = 0 then c else { c with p := sput 0 c.p n v }

/-- Write the lanes of a vector register that the guard names; the others keep their value (R148). -/
def Cell.wvG (c : Cell) (n : Nat) (guard : BitVec 8) (f : Nat → BitVec 16) : Cell :=
  let old := c.rv n
  c.wv n (ofLanes (fun i => if guard.getLsbD i then f i else lane old i))

/-! ### Frames and regions (R129, R132) -/

/-- FSIZE in bytes (R132). -/
def FrameDecl.fsize (f : FrameDecl) (rl : Nat) : Nat := 8 * (rl + f.cw + f.logw)

/-- Byte address of the frame of sequence number `q` (R133). -/
def FrameDecl.base (f : FrameDecl) (rl q : Nat) : Nat := f.fbase + (q % f.k) * f.fsize rl

/-- The frame of the line before `q` (R136). -/
def FrameDecl.prevBase (f : FrameDecl) (rl q : Nat) : Nat := f.fbase + ((q + f.k - 1) % f.k) * f.fsize rl

/-- Whether a byte lies in the frames. -/
def Cell.inFrames (c : Cell) (rl a : Nat) : Bool :=
  match c.frame with
  | some f => f.fbase ≤ a && a < f.fbase + f.k * f.fsize rl
  | none => false

/-- Whether a byte lies in the image's initial data. -/
def Cell.inInit (c : Cell) (a : Nat) : Bool := c.dataLo ≤ a && a < c.dataLo + c.dataLen

/-- What R129 answers to a program load of one byte: none when allowed, else the trap cause. -/
def Cell.loadByte (c : Cell) (rl a : Nat) : Option Nat :=
  if 16384 ≤ a then some 4
  else if 0x3800 ≤ a then
    match c.cur with
    | some g => if g.win == decide (0x3C00 ≤ a) then none else some 4
    | none => some 4
  else if c.inInit a then none
  else if c.inFrames rl a then
    match c.frame, c.cur with
    | some f, some g =>
      let here (b : Nat) : Bool := b ≤ a && a < b + f.fsize rl
      if here (f.base rl g.q) || here (f.prevBase rl g.q) then none else some 4
    | _, _ => some 4
  else none

/-- Whether a byte lies in the carry area of the current frame (R129, R132). -/
def Cell.inCarry (c : Cell) (rl a : Nat) : Bool :=
  match c.frame, c.cur with
  | some f, some g => let b := f.base rl g.q; b + 8 * rl ≤ a && a < b + 8 * (rl + f.cw)
  | _, _ => false

/-- What R129 answers to a program store of one byte. -/
def Cell.storeByte (c : Cell) (rl a : Nat) : Option Nat :=
  if 16384 ≤ a then some 4
  else if 0x3800 ≤ a then some 5
  else if c.inInit a then some 5
  else if c.inFrames rl a then (if c.inCarry rl a then none else some 5)
  else none

/-- The lowest of several trap causes (R154). -/
def lowest (xs : List (Option Nat)) : Option Nat :=
  xs.foldl (fun m x => match m, x with
    | none, y => y
    | some a, some b => some (min a b)
    | some a, none => some a) none

/-- Whether two byte ranges meet. -/
def rangesMeet (a n b m : Nat) : Bool := a < b + m && b < a + n

/-- Whether an outstanding BGET or BGV still owes some of the bytes (R143). -/
def Cell.owesBytes (c : Cell) (a n : Nat) : Bool :=
  c.banks.any (fun r => match r with
    | .get _ m dst => rangesMeet a n dst (8 * m)
    | .gather _ dst => rangesMeet a n dst 16
    | .atomic .. => false)

/-- Whether the record word that holds some of the bytes has not yet been rewritten in the current frame (R138). -/
def Cell.owesRecord (c : Cell) (rl a n : Nat) : Bool :=
  match c.frame, c.cur with
  | some f, some g =>
    let b := f.base rl g.q
    let got := sget 0 c.recWords g.q
    (List.range rl).any (fun w => rangesMeet a n (b + 8 * w) 8 && !got.getLsbD w)
  | _, _ => false

/-- Outcome of reaching data SRAM. -/
inductive MemRes where
  | ok (bs : List Byte)
  | trap (cause : Nat) (at_ : Option Nat)
  | wait (st : Stall)
deriving DecidableEq, Repr

/-- An effective address, modulo 65,536 (R151). -/
def effAddr (base : BitVec 16) (off : Int) : Nat := (base + BitVec.ofInt 16 off).toNat

/-- A program load of `n` bytes aligned to `al` (R129, R143, R151, R288). -/
def loadMem (s : State) (i : Nat) (c : Cell) (rl a n al : Nat) : MemRes :=
  if a % al ≠ 0 then .trap 4 none
  else match lowest ((List.range n).map (fun j => c.loadByte rl (a + j))) with
    | some e => .trap e none
    | none =>
      if c.owesBytes a n ∨ c.owesRecord rl a n then .wait (.bytes [(a, n)])
      else match (List.range n).find? (fun j => poisoned s .cellData i ((a + j) / 8)) with
        | some j => .trap 6 (some (a + j))
        | none => .ok (dmRead s i a n)

/-- Whether a program may store the `n` bytes at `a`, aligned to `al`. -/
def storeCheck (c : Cell) (rl a n al : Nat) : MemRes :=
  if a % al ≠ 0 then .trap 4 none
  else match lowest ((List.range n).map (fun j => c.storeByte rl (a + j))) with
    | some e => .trap e none
    | none => if c.owesBytes a n then .wait (.bytes [(a, n)]) else .ok []

/-! ### Traps (R154-R157) -/

/-- STATE code of a clause (R265). -/
def ClauseState.code : ClauseState → Nat
  | .off => 0 | .spare => 1 | .serving => 2 | .fencing => 3 | .fenced => 4 | .testing => 5

/-- CEL_TRAP as read (R161). -/
def Cell.trapReg (c : Cell) : Nat := c.cause.toNat * 2 ^ 24 + c.code.toNat * 2 ^ 16 + c.trapPc.toNat

/-- CEL_TLINE as read (R161). -/
def Cell.tlineReg (c : Cell) : Nat :=
  c.trapBand.toNat * 2 ^ 16 + (if c.noLine then 128 else 0) + (if c.trapRerun then 64 else 0) + c.trapLine.toNat

/-- A spare that fails while it prepares is fenced PREPARE, and the next spare is prepared (R269). -/
def spareFailed (s : State) (y : Nat) : State :=
  let d := y / 66
  let s := permanentClause s y 6
  let waiting := ((List.range 66).map (clauseIx d)).filter (fun x => (clauseAt s x).preparing == some y)
  waiting.foldl prepareSpare s

/-- A cell traps (R155, R156): it stops, discards its segment's words, records cause, PC and line, logs CELL_TRAP, and asks
for the reload its cause calls for (R157); its line fails. A segment already longer than 128*P owes its CELL_OVERRUN (R159). A trap
outside any segment fails no line and is counted against the clause, or fails a spare that prepares (R156, R269). -/
def cellTrap (s : State) (ci : CellId) (pc : BitVec 10) (cause code : Nat) (poisonAt : Option Nat) : State :=
  let i := cellIx ci
  let x := clauseIx ci.die ci.clause
  let c := cellAt s i
  let band := (c.cur.map (fun g => g.band)).getD 0
  let bl := (c.cur.map (fun g => g.bandLine)).getD 0
  let reload : Option Bool :=
    if cause = 1 then some false
    else match poisonAt with
      | some a => if cause = 6 ∧ c.inInit a then some true else none
      | none => none
  let drop (q : List (Nat × Nat × BitVec 64)) := match c.cur with
    | some g => q.filter (fun w => w.1 ≠ g.q)
    | none => q
  let c' : Cell :=
    { c with st := .restart, cause := BitVec.ofNat 4 cause, code := BitVec.ofNat 8 code, trapPc := pc, trapBand := band,
             noLine := c.cur.isNone, trapRerun := (c.cur.map (fun g => g.rerun)).getD false, trapLine := bl,
             traps := satInc c.traps, cur := none, stall := none, outq := drop c.outq, reload := reload,
             overLen := c.overLen ++ (match c.cur with
               | some g => if 128 * (clauseRow s x).p < g.cycles then [g.cycles] else []
               | none => []),
             nextQ := match c.cur with | some g => max c.nextQ (g.q + 1) | none => c.nextQ }
  let s := setCell s i c'
  let cl := clauseAt s x
  let s := logEv s ci.die 0x0018 (unitData 1 0 ci.clause cl.st.code ci.cell (natLE 4 c'.trapReg ++ natLE 4 c'.tlineReg))
  match c.cur with
  | some g =>
    let s := modCLine s x g.line (fun l => { l with segs := l.segs &&& ~~~ (1#16 <<< ci.cell) })
    lineTrapped s x g.line ci.cell cause pc.toNat g.rerun
  | none => if cl.st = .spare ∧ cl.spareFor.isSome then spareFailed s x else transientClause s x

/-! ### The frame of an instruction -/

/-- How an instruction ends: its effect with the PC advanced; its effect with the PC set by a jump, and its cycles; its effect
with the PC set and the open loop levels as they are; a trap; or a stall before any effect. -/
inductive CellRes where
  | ok (s : State)
  | goto (s : State) (pc : Nat) (cycles : Nat)
  | skip (s : State) (pc : Nat)
  | trap (cause code : Nat) (poisonAt : Option Nat)
  | wait (st : Stall)

/-- Hardware loops at the end of the instruction at `pc` (R151): the innermost level that ends there counts down and returns
to its body, or ends, and then the next level that ends there; levels that end elsewhere stay open. -/
def loopBack (pc : Nat) : List LoopLevel → List LoopLevel × Option Nat
  | [] => ([], none)
  | l :: ls =>
    if l.stop = pc then
      if 1 < l.count then ({ l with count := l.count - 1 } :: ls, some l.start) else loopBack pc ls
    else
      let r := loopBack pc ls
      (l :: r.1, r.2)

/-- Count cycles in the segment (R158). -/
def Cell.spend (c : Cell) (n : Nat) : Cell := { c with cur := c.cur.map (fun g => { g with cycles := g.cycles + n }) }

/-- An instruction retires in order: the PC moves on, through the loops that end here. The PC has 10 bits and wraps to 0 beyond
instruction 1,023 (assumption 36). -/
def Cell.retire (c : Cell) (cycles : Nat) : Cell :=
  let pc := c.pc.toNat
  let r := loopBack pc c.loops
  { c.spend cycles with loops := r.1, pc := BitVec.ofNat 10 (r.2.getD (pc + 1)) }

/-- A taken BR, CALL or JR: levels whose body does not hold the target end (R151). -/
def Cell.jump (c : Cell) (pc cycles : Nat) : Cell :=
  { c.spend cycles with loops := c.loops.filter (fun l => l.start ≤ pc && pc ≤ l.stop), pc := BitVec.ofNat 10 pc }

/-- The register, among those an instruction reads, that an outstanding BATM still owes (R143). -/
def Cell.owesReg? (c : Cell) (regs : List Nat) : Option Nat :=
  regs.find? (fun r => r ≠ 0 && c.banks.any (fun b => match b with | .atomic _ _ _ rd _ => rd == r | _ => false))

/-- Execute one instruction of a cell (R150): the cell must be running at a word that is this instruction. A poisoned word
traps FETCH; a reserved field or X, ILLEGAL; a register out of range, REGISTER (R148, R154); then the instruction's own
work. -/
def cellInstr (s : State) (ci : CellId) (op : Nat) (w : CellWord) (illegal badReg : Bool) (regs : List Nat) (cycles : Nat)
    (body : Cell → CellRes) : State :=
  let i := cellIx ci
  let c := cellAt s i
  if c.st ≠ .run ∨ c.stall.isSome then s
  else if poisoned s .cellInstr i (c.pc.toNat / 2) then cellTrap s ci c.pc 1 0 none
  else if imemWord s i c.pc.toNat ≠ (BitVec.ofNat 6 op ++ w) then s
  else if illegal then cellTrap s ci c.pc 2 0 none
  else if badReg then cellTrap s ci c.pc 3 0 none
  else match c.owesReg? regs with
    | some r => setCell s i { c with stall := some (.reg r) }
    | none => match body c with
      | .ok t => modCell t i (fun c => c.retire cycles)
      | .goto t pc n => modCell t i (fun c => c.jump pc n)
      | .skip t pc => modCell t i (fun c => { c.spend cycles with pc := BitVec.ofNat 10 pc })
      | .trap cause code a => cellTrap s ci c.pc cause code a
      | .wait st => setCell s i { c with stall := some st }

/-- The fetch of a cell's next instruction reads its block of the instruction SRAM (R285-R288). -/
def fetched (s : State) (ci : CellId) : State :=
  let c := cellAt s (cellIx ci)
  if c.st = .run ∧ c.stall = none then settle s ⟨.cellInstr, cellIx ci, c.pc.toNat / 2⟩ else s

/-- The loads of an instruction, of `n` bytes each, read their blocks of the data SRAM, where nothing stops the cell before (R285-R288). -/
def loading (s : State) (ci : CellId) (addrs : Cell → List Nat) (n al : Nat) : State :=
  let i := cellIx ci
  let c := cellAt s i
  let rl := rlen (clauseRow s (clauseIx ci.die ci.clause))
  let free (a : Nat) : Bool := match loadMem s i c rl a n al with | .ok _ => true | _ => false
  if c.st = .run ∧ c.stall = none ∧ !poisoned s .cellInstr i (c.pc.toNat / 2) ∧ (addrs c).all free then
    (addrs c).foldl (fun s a => settleRange s .cellData i a n) s
  else s

/-- A body that only writes registers. -/
def regBody (s : State) (ci : CellId) (f : Cell → Cell) : Cell → CellRes :=
  fun c => .ok (setCell s (cellIx ci) (f c))

/-! ### Arithmetic shared by scalar and vector forms (R150) -/

/-- LOG: X 0 AND, 1 OR, 2 XOR, 3 ANDN. -/
def logOp (x : Nat) (a b : BitVec 16) : BitVec 16 :=
  match x with
  | 0 => a &&& b
  | 1 => a ||| b
  | 2 => a ^^^ b
  | _ => a &&& ~~~ b

/-- Shifts: 0 SHL, 1 SHR (logical), 2 SRA. -/
def shiftOp (kind : Nat) (a : BitVec 16) (n : Nat) : BitVec 16 :=
  match kind with
  | 0 => a <<< n
  | 1 => a >>> n
  | _ => a.sshiftRight n

/-- MUL: 0 low half; 1 high half, unsigned; 2 high half, signed. -/
def mulOp (x : Nat) (a b : BitVec 16) : BitVec 16 :=
  match x with
  | 0 => a * b
  | 1 => BitVec.ofNat 16 (a.toNat * b.toNat / 65536)
  | _ => BitVec.ofInt 16 ((a.toInt * b.toInt) / 65536)

/-- MNX: 0 signed min, 1 signed max, 2 unsigned min, 3 unsigned max. -/
def mnxOp (x : Nat) (a b : BitVec 16) : BitVec 16 :=
  match x with
  | 0 => if a.toInt ≤ b.toInt then a else b
  | 1 => if a.toInt ≤ b.toInt then b else a
  | 2 => if a.toNat ≤ b.toNat then a else b
  | _ => if a.toNat ≤ b.toNat then b else a

/-- Clamp to the signed 16-bit range. -/
def sat16 (v : Int) : Int := max (-32768) (min 32767 v)

/-- Clamp to the unsigned 16-bit range. -/
def satU16 (v : Int) : Int := max 0 (min 65535 v)

/-- VADD and VSUB: X 0 wrap, 1 saturate unsigned, 2 saturate signed. -/
def addSubOp (sub : Bool) (x : Nat) (a b : BitVec 16) : BitVec 16 :=
  match x with
  | 0 => if sub then a - b else a + b
  | 1 => BitVec.ofInt 16 (satU16 (if sub then (a.toNat : Int) - b.toNat else (a.toNat : Int) + b.toNat))
  | _ => BitVec.ofInt 16 (sat16 (if sub then a.toInt - b.toInt else a.toInt + b.toInt))

/-- Comparisons: 0 EQ, 1 NE, 2 LT, 3 GE (signed), 4 LTU, 5 GEU (R149, R150). -/
def cmpOp (x : Nat) (a b : BitVec 16) : Bool :=
  match x with
  | 0 => a == b
  | 1 => a != b
  | 2 => a.toInt < b.toInt
  | 3 => b.toInt ≤ a.toInt
  | 4 => a.toNat < b.toNat
  | _ => b.toNat ≤ a.toNat

/-! ### Bank requests (R141, R142) -/

/-- First die-bank byte a cell may not reach: bank 31 (R141, R52). -/
def bankLimit : Nat := 0x7C0000

/-- Issue a bank request: a ninth waits (R142). -/
def issueBank (s : State) (ci : CellId) (c : Cell) (r : BankReq) : CellRes :=
  if 8 ≤ c.banks.length then .wait (.banks 7) else .ok (setCell s (cellIx ci) { c with banks := c.banks ++ [r] })

/-- What R154 answers to the destination bytes of a BGET or BGV: ADDRESS outside the SRAM, WPROT outside scratch and the
current frame's carry. -/
def Cell.destCheck (c : Cell) (rl a n al : Nat) : Option Nat :=
  if a % al ≠ 0 ∨ 16384 < a + n then some 4
  else lowest ((List.range n).map (fun j => c.storeByte rl (a + j)))

/-! ### Ports and halos (R145, R146, R174) -/

/-- The slot at the next strip position on a side of a clause's slot; none at the row's edges. -/
def haloPeer? (s : State) (x : Nat) (right : Bool) : Option SlotCfg :=
  match clauseSlot? s x with
  | none => none
  | some g => if right then stripCfg? s g.row (g.pos + 1) else if g.pos = 0 then none else stripCfg? s g.row (g.pos - 1)

/-- The halo records still due to a clause on a side once its slot has been taken over. -/
def Clause.need (c : Clause) (right : Bool) : Nat := if right then c.needR else c.needL

/-- The clause of a slot that takes the next halo record on a side: a clause that has been taken over while records of its remaining
lines are due to it, else the one that serves the slot (R176, R268). -/
def haloClause? (s : State) (d slot : Nat) (right : Bool) : Option Nat :=
  match (slotClauses s d slot).find? (fun x => 0 < (clauseAt s x).need right) with
  | some x => some x
  | none => (servedBy? s d slot).map (clauseIx d)

/-- A halo record goes to a clause: one due to a clause that has been taken over is owed no longer (R268). -/
def haloSent (s : State) (y : Nat) (right : Bool) : State :=
  modClause s y (fun c => if right then { c with needR := c.needR - 1 } else { c with needL := c.needL - 1 })

/-- Records a halo queue holds or is still to receive, and its capacity: the depth of the receiving die, and 16 more on the
left halo of a DIFFUSION row (R47, R174, R276). -/
def haloLoad (s : State) (y : Nat) (right : Bool) : Nat :=
  let c := clauseAt s y
  (if right then c.haloR.length else c.haloL.length) +
    haloComing s (y / 66) (y % 66) right

/-- Capacity of a halo queue. -/
def haloRoom (s : State) (y : Nat) (right : Bool) : Nat :=
  queueDepth s 0x04 (y / 66) + (if rowDiffusion (clauseRow s y) ∧ !right then 16 else 0)

/-- A vector enters a clause's halo queue. -/
def haloPush (s : State) (y : Nat) (right : Bool) (v : BitVec 128) : State :=
  modClause s y (fun c => if right then { c with haloR := c.haloR ++ [v] } else { c with haloL := c.haloL ++ [v] })

/-- Whether a port's queue of vectors (two words each) takes one more (R145). -/
def portTakes (s : State) (d : Nat) (q : List (BitVec 128)) : Bool := q.isEmpty || 2 * q.length + 2 ≤ queueDepth s 0x03 d

/-- Whether a SEND of this cell on a side can complete now, and the state in which its vector has entered the queue (R145,
R146); none while it must wait. -/
def sendTo? (s : State) (ci : CellId) (right : Bool) (v : BitVec 128) : Option State :=
  let x := clauseIx ci.die ci.clause
  let i := cellIx ci
  if right ∧ ci.cell < 15 then
    if portTakes s ci.die (cellAt s (i + 1)).portL then some (modCell s (i + 1) (fun e => { e with portL := e.portL ++ [v] }))
    else none
  else if !right ∧ 0 < ci.cell then
    if portTakes s ci.die (cellAt s (i - 1)).portR then some (modCell s (i - 1) (fun e => { e with portR := e.portR ++ [v] }))
    else none
  else match haloPeer? s x right with
    | none => some s
    | some g => match haloClause? s g.die g.slot (!right) with
      | none => some s
      | some y =>
        let t := haloSent s y (!right)
        if haloRoom s y (!right) ≤ haloLoad s y (!right) then none
        else if g.die = ci.die then some (haloPush t y (!right) v)
        else
          let from_ := match clauseSlot? s x with | some own => own.pos | none => 0
          some (sendFlight t ci.die (haloPath s g.row from_ right g.die) (.halo (y % 66) (!right) v))

/-- The vector at a port of this cell, and the state without it; none while the port is empty. At the row's edges a zero
vector without waiting (R146). -/
def recvFrom? (s : State) (ci : CellId) (right : Bool) : Option (BitVec 128 × State) :=
  let x := clauseIx ci.die ci.clause
  let i := cellIx ci
  let c := cellAt s i
  if right ∧ ci.cell < 15 then
    match c.portR with
    | v :: vs => some (v, setCell s i { c with portR := vs })
    | [] => none
  else if !right ∧ 0 < ci.cell then
    match c.portL with
    | v :: vs => some (v, setCell s i { c with portL := vs })
    | [] => none
  else match haloPeer? s x right with
    | none => some (0, s)
    | some _ =>
      let k := clauseAt s x
      if right then
        match k.haloR with
        | v :: vs => some (v, setClause s x { k with haloR := vs })
        | [] => none
      else
        match k.haloL with
        | v :: vs => some (v, setClause s x { k with haloL := vs })
        | [] => none

/-! ### Words into frames and ring slots (R133, R140) -/

/-- Whether the frame of sequence number `q` may be written: the lines Q - K and Q - K + 1 are both Ready or withheld
(R135). A line no longer in flight is settled. -/
def frameFree (cl : Clause) (k q : Nat) : Bool :=
  let settled (p : Nat) : Bool := match cl.lineQ? p with | some l => l.settled | none => true
  (q < k || settled (q - k)) && (q + 1 < k || settled (q + 1 - k))

/-- Move words of the input stream into the cell's frames while the frames may be written; a word of a record already there
is a discarded replay (R133, R135, R138). A poisoned word lands poisoned. `fuel` bounds the words moved. -/
def drainIn (s : State) (i : Nat) : Nat → State
  | 0 => s
  | fuel + 1 =>
    let c := cellAt s i
    let x := i / 16
    match c.inq, c.frame with
    | w :: ws, some f =>
      let got := sget 0 c.recWords w.q
      if got.getLsbD w.ix then drainIn (setCell s i { c with inq := ws }) i fuel
      else if frameFree (clauseAt s x) f.k w.q then
        let a := f.base (rlen (clauseRow s x)) w.q + 8 * w.ix
        let s := setCell s i { c with inq := ws, recWords := sput 0 c.recWords w.q (got ||| (1#64 <<< w.ix)) }
        let s := dmWriteAll s i a (natLE 8 w.w.toNat)
        drainIn (if w.poisoned then markPoison s ⟨.cellData, i, a / 8⟩ else s) i fuel
      else s
    | _, _ => s

/-- The output word of a cell lands in the ring slot of its line: word `ix` of cell `n`, 16 columns (R130, R140). The eighth
completes the cell's segment. -/
def landWord (s : State) (x n : Nat) (q ix : Nat) (w : BitVec 64) (bad : Bool) : State :=
  match (clauseAt s x).lineQ? q with
  | none => s
  | some l =>
    if l.st ≠ .filling then s
    else
      let key := 8 * n + ix
      let s := modCLine s x l.line (fun l => { l with codes := sput 0 l.codes key w, poison := markIn l.poison key bad,
                                                      flips := sput 0 l.flips key 0 })
      if ix = 7 then landSegment s x l.line n else s

/-- Land every word waiting in a cell's output stream. -/
def drainOut (s : State) (i : Nat) : State :=
  let c := cellAt s i
  c.outq.foldl (fun s w => landWord s (i / 16) (i % 16) w.1 w.2.1 w.2.2 false) (setCell s i { c with outq := [] })

end Sys2Proof.Machine
end

