-- ==== Sys2Proof/Machine/DramOps.lean ====
section
/-! DEFINITION. A die's DRAM as its masters see it (R303-R309, R322): the address map, the check records and classes of its blocks, bytes
read and written, and the check-burst cache. -/

namespace Sys2Proof.Machine

/-! ### Configurations and places (R303-R305) -/

def ddrIx (d ch : Nat) : Nat := 2 * d + ch

/-- The density of a channel's devices in Gb as fitted (R303, assumption 6). -/
def density (s : State) (d ch : Nat) : Nat := sget 32 s.part.density (ddrIx d ch)

/-- Whether a die's channels are fitted with a supported density, alike (R303). -/
def densityOk (s : State) (d : Nat) : Bool := [8, 16, 32].contains (density s d 0) && density s d 0 == density s d 1

/-- m, the rows of a die's channels (R303). -/
def ddrRows (s : State) (d : Nat) : Nat := 65536 * density s d 0

/-- D, the bytes of data a channel offers: its training rows are left out (R304). -/
def ddrData (s : State) (d : Nat) : Nat := (ddrRows s d - 16) * 3584

/-- Row of a channel that holds a channel offset (R304). -/
def ddrRow (off : Nat) : Nat := off / 512 / 7

/-- Unit within the row. -/
def ddrUnit (off : Nat) : Nat := off / 512 % 7

/-- Block within the row, 0-55. -/
def ddrBlk (off : Nat) : Nat := 8 * ddrUnit off + off / 64 % 8

/-- Byte within the row. -/
def ddrCol (off : Nat) : Nat := 64 * ddrBlk off + off % 64

/-- Bank of a channel offset. -/
def ddrBank (off : Nat) : Nat := ddrRow off % 16

/-- Row within the bank. -/
def ddrBrow (off : Nat) : Nat := ddrRow off / 16

/-- Byte of the row where the block's check record stands. -/
def ddrChk (off : Nat) : Nat := 3584 + 64 * ddrUnit off + 8 * (off / 64 % 8)

/-- A, the channel block number (R306). -/
def ddrA (off : Nat) : Nat := 56 * ddrRow off + ddrBlk off

/-- The management region's size (R96, R305). -/
def mgtRegion : Nat := 64 * 1048576

/-- First byte of the page store (R305). -/
def storeBase : Nat := 128 * 1048576

/-- Whether a channel is retired. -/
def ddrRetired (s : State) (d ch : Nat) : Bool := (ddrAt s (ddrIx d ch)).st == .retired

/-- End of the die's address space: 2D - 64 MiB with both channels, D with one (R305, R322). -/
def dramEnd (s : State) (d : Nat) : Nat :=
  if ddrRetired s d 0 || ddrRetired s d 1 then ddrData s d else 2 * ddrData s d - mgtRegion

/-- The channel and channel offset of a die address (R305, R322); the management region's first copy. -/
def dramMap (s : State) (d a : Nat) : Nat × Nat :=
  if ddrRetired s d 0 then (1, a)
  else if ddrRetired s d 1 then (0, a)
  else if a < mgtRegion then (0, a)
  else
    let b := a - mgtRegion
    (b / 512 % 2, mgtRegion + 512 * (b / 512 / 2) + b % 512)

/-- Where a channel's byte is kept in State. -/
def dramKey (d ch off : Nat) : Nat := 2 ^ 33 * ddrIx d ch + off

/-- The number of a channel's block in State's lists of poisoned and flipped blocks. -/
def dramBlkKey (d ch off : Nat) : Nat := 2 ^ 27 * ddrIx d ch + off / 64

/-- One byte at a die address. -/
def dramByte (s : State) (d a : Nat) : Byte := let m := dramMap s d a; rd s.dram (dramKey d m.1 m.2)

/-- `n` bytes from a die address. -/
def dramRd (s : State) (d a n : Nat) : List Byte := (List.range n).map (fun j => dramByte s d (a + j))

/-- The places a die address is stored at: both copies of the management region while both channels work (R305). -/
def dramPlaces (s : State) (d a : Nat) : List (Nat × Nat) :=
  if a < mgtRegion ∧ !ddrRetired s d 0 ∧ !ddrRetired s d 1 then [(0, a), (1, a)] else [dramMap s d a]

/-- The die address of a channel offset: the inverse of `dramMap` while it stands (R305). -/
def dramAddrOf (s : State) (d ch off : Nat) : Nat :=
  if ddrRetired s d 0 ∨ ddrRetired s d 1 ∨ off < mgtRegion then off
  else
    let v := (off - mgtRegion) / 512
    mgtRegion + 512 * (2 * v + ch) + off % 512

/-- The blocks that bytes `a` to `a + n - 1` of a die touch, by the address of each. -/
def blksOf (a n : Nat) : List Nat := if n = 0 then [] else (List.range ((a + n - 1) / 64 + 1 - a / 64)).map (fun j => a / 64 * 64 + 64 * j)

/-- Whether a master's access to bytes of a die must wait: a channel that holds some of them trains or retrains (R319). -/
def dramWaits (s : State) (d a n : Nat) : Bool :=
  (blksOf a n).any (fun p =>
    (dramPlaces s d p).any (fun m => let st := (ddrAt s (ddrIx d m.1)).st; st == .train || st == .retrain))

/-! ### Refresh rate (R314, R323) -/

/-- MIN_RATE as it acts: values above 4 read as 4 (R323). -/
def minRate (c : DdrCh) : BitVec 3 := if 4 < c.minRate.toNat then 4 else c.minRate

/-- M, the larger of MIN_RATE and the rate the devices ask for (R314). -/
def DdrCh.mult (c : DdrCh) : BitVec 3 := if c.asks.toNat < (minRate c).toNat then minRate c else c.asks

/-! ### Check records (R306) -/

/-- ROWP: bit `i` is the parity of halfword `i`. -/
def rowP (v : BitVec 512) : BitVec 32 :=
  (List.range 32).foldl (fun r i => if popcount (v.extractLsb' (16 * i) 16) % 2 = 1 then r ||| (1#32 <<< i) else r) 0

/-- COLP: the XOR of the halfwords. -/
def colP (v : BitVec 512) : BitVec 16 := (List.range 32).foldl (fun c i => c ^^^ v.extractLsb' (16 * i) 16) 0

/-- TAG of the block at a channel offset. -/
def tagOf (off : Nat) : BitVec 16 := crc16 (natLE 4 (ddrA off))

/-- The check record of a block's data at its place; that of a poisoned one holds the complements of ROWP and COLP (R306, R309). -/
def recordOf (bad : Bool) (v : BitVec 512) (off : Nat) : BitVec 64 :=
  let m : BitVec 48 := if bad then BitVec.allOnes 48 else 0
  tagOf off ++ ((colP v ++ rowP v) ^^^ m)

/-! ### Classes (R307) -/

/-- Classes of a block as read. -/
inductive BlkClass where
  | misdirected
  | poisoned
  | clean
  | corrected
  | checkBit
  | uncorrectable
deriving DecidableEq, Repr

/-- The number of the one bit set in `n` bits. -/
def bitOf? (n v : Nat) : Option Nat := (List.range n).find? (fun i => v == 2 ^ i)

/-- The class of a block and record as read at a channel offset, and the data delivered. -/
def blkClass (v : BitVec 512) (rec_ : BitVec 64) (off : Nat) : BlkClass × BitVec 512 :=
  let sr := rowP v ^^^ rec_.extractLsb' 0 32
  let sc := colP v ^^^ rec_.extractLsb' 32 16
  let st := tagOf off ^^^ rec_.extractLsb' 48 16
  if 2 ≤ popcount st then (.misdirected, v)
  else if sr = 0xFFFFFFFF ∧ sc = 0xFFFF ∧ st = 0 then (.poisoned, v)
  else if sr = 0 ∧ sc = 0 ∧ st = 0 then (.clean, v)
  else match bitOf? 32 sr.toNat, bitOf? 16 sc.toNat with
    | some i, some j => if st = 0 then (.corrected, v ^^^ (1#512 <<< (16 * i + j))) else (.uncorrectable, v)
    | _, _ => if popcount sr + popcount sc + popcount st = 1 then (.checkBit, v) else (.uncorrectable, v)

/-! ### What stands in a block -/

/-- The 64 bytes that were last stored in a block. -/
def blkStored (s : State) (d ch off : Nat) : BitVec 512 := BitVec.ofNat 512 (leNat (rdN s.dram (dramKey d ch (off / 64 * 64)) 64))

/-- The bits of a block's data and of its record that stand flipped (assumption 39). -/
def blkFlips (s : State) (d ch off : Nat) : BitVec 512 × BitVec 64 :=
  ((s.dramFlips.find? (fun p => p.1 == dramBlkKey d ch off)).map (fun p => p.2)).getD (0, 0)

/-- Set them. -/
def setBlkFlips (s : State) (d ch off : Nat) (f : BitVec 512 × BitVec 64) : State :=
  let k := dramBlkKey d ch off
  let others := s.dramFlips.filter (fun p => p.1 != k)
  { s with dramFlips := if f = (0, 0) then others else others ++ [(k, f)] }

/-- Whether a channel's block is poisoned. -/
def blkBad (s : State) (d ch off : Nat) : Bool := s.dramPoison.contains (dramBlkKey d ch off)

/-- Whether the 64-byte block that holds a die address is poisoned. -/
def dramBad (s : State) (d a : Nat) : Bool := let m := dramMap s d a; blkBad s d m.1 m.2

/-- Mark a channel's block poisoned (R309). -/
def dramMark (s : State) (d ch off : Nat) : State :=
  let k := dramBlkKey d ch off
  if s.dramPoison.contains k then s else { s with dramPoison := s.dramPoison ++ [k] }

/-- Clear a channel's block poison. -/
def dramClear (s : State) (d ch off : Nat) : State :=
  let k := dramBlkKey d ch off
  { s with dramPoison := s.dramPoison.filter (fun q => q ≠ k) }

/-- A block stored as data, poison and flipped bits. -/
def putBlk (s : State) (d ch off : Nat) (v : BitVec 512) (bad : Bool) (f : BitVec 512 × BitVec 64) : State :=
  let base := off / 64 * 64
  let s := { s with dram := wrN s.dram (dramKey d ch base) (natLE 64 v.toNat) }
  setBlkFlips (if bad then dramMark s d ch base else dramClear s d ch base) d ch base f

/-! ### The check-burst cache (R308) -/

/-- The flipped bits that a cached check burst holds of a unit's records; none where the unit is not cached. -/
def chkCached? (s : State) (d ch off : Nat) : Option (Sparse (BitVec 64)) :=
  ((ddrAt s (ddrIx d ch)).chk.find? (fun p => p.1 == off / 512)).map (fun p => p.2)

/-- The flipped bits of the records that stand in a unit's check burst. -/
def unitRecs (s : State) (d ch off : Nat) : Sparse (BitVec 64) :=
  if s.dramFlips = [] then []
  else (List.range 8).foldl (fun m j => sput 0 m j (blkFlips s d ch (off / 512 * 512 + 64 * j)).2) []

/-- A read of a unit's records: the burst enters the cache, which keeps the 32 read last, unless it is there. -/
def chkRead (s : State) (d ch off : Nat) : State :=
  match chkCached? s d ch off with
  | some _ => s
  | none => modDdr s (ddrIx d ch) (fun c => { c with chk := ((off / 512, unitRecs s d ch off) :: c.chk).take 32 })

/-- A write to a unit invalidates its cached burst. -/
def chkDrop (s : State) (d ch off : Nat) : State :=
  if (chkCached? s d ch off).isSome then
    modDdr s (ddrIx d ch) (fun c => { c with chk := c.chk.filter (fun p => p.1 != off / 512) })
  else s

/-! ### Reads (R307, R309) -/

/-- Count a read's class on a channel: 1 corrected or check bit, 2 uncorrectable, 3 misdirected, with its die address
(R309, R323). -/
def countEcc (s : State) (d ch cls addr : Nat) : State :=
  modDdr s (ddrIx d ch) (fun c =>
    { c with corr := if cls = 1 then satInc c.corr else c.corr, uncorr := if cls = 2 then satInc c.uncorr else c.uncorr,
             misdir := if cls = 3 then satInc c.misdir else c.misdir, eccClass := BitVec.ofNat 2 cls,
             eccBlock := BitVec.ofNat 28 (addr / 64) })

/-- The record flips that a read of a block sees: those of the cached burst, or of the burst itself. -/
def recFlips (s : State) (d ch off : Nat) : BitVec 64 :=
  match chkCached? s d ch off with
  | some m => sget 0 m (off / 64 % 8)
  | none => (blkFlips s d ch off).2

/-- What a read of a block finds, `xf` and `xr` more bits of data and record being read flipped: class and data delivered. -/
def blkLook (s : State) (d ch off : Nat) (xf : BitVec 512) (xr : BitVec 64) : BlkClass × BitVec 512 :=
  let v := blkStored s d ch off
  let bad := blkBad s d ch off
  let f := (blkFlips s d ch off).1 ^^^ xf
  let r := recFlips s d ch off ^^^ xr
  if f = 0 ∧ r = 0 then (if bad then .poisoned else .clean, v)
  else blkClass (v ^^^ f) (recordOf bad v (off / 64 * 64) ^^^ r) (off / 64 * 64)

/-- A block held anew, its stored bits as they are: data `v` and poison `bad`, and what of the bits differs from that as flips. -/
def blkHold (s : State) (d ch off : Nat) (v : BitVec 512) (bad : Bool) : State :=
  let base := off / 64 * 64
  let o := blkStored s d ch off
  let f := blkFlips s d ch off
  let same := recordOf (blkBad s d ch off) o base ^^^ recordOf bad v base
  let s := putBlk s d ch off v bad (o ^^^ f.1 ^^^ v, same ^^^ f.2)
  modDdr s (ddrIx d ch) (fun c =>
    { c with chk := c.chk.map (fun p => if p.1 = off / 512 then (p.1, smod 0 p.2 (off / 64 % 8) (fun r => same ^^^ r)) else p) })

/-- A channel fault starts a fast retrain at once; faults met while one is pending are one with it, and its class is settled when a retrain
passes (R321). -/
def channelFault (s : State) (d ch : Nat) : State :=
  let c := ddrAt s (ddrIx d ch)
  if c.faultAt.isSome ∨ c.st = .retired then s
  else setDdr s (ddrIx d ch) { c with faultAt := some s.tb, st := if c.st = .active then .retrain else c.st }

/-- The other channel's copy of a management-region block as it reads, when it is good (R309). -/
def goodCopy? (s : State) (d ch off : Nat) : Option (BitVec 512) :=
  if off < mgtRegion ∧ !ddrRetired s d 0 ∧ !ddrRetired s d 1 then
    let r := blkLook s d (1 - ch) off 0 0
    if r.1 = .clean ∨ r.1 = .corrected ∨ r.1 = .checkBit then some r.2 else none
  else none

/-- A block read Uncorrectable or Misdirected as `v`: its poison mark is written, or, in the management region, the other copy when that is
good; it is counted and raises a channel fault (R309). -/
def badRead (s : State) (d ch off : Nat) (misdirected : Bool) (v : BitVec 512) : State :=
  let base := off / 64 * 64
  let s := countEcc s d ch (if misdirected then 3 else 2) (dramAddrOf s d ch base)
  let o := blkStored s d ch off ^^^ (blkFlips s d ch off).1
  let s := match goodCopy? s d ch base with
    | some g => putBlk s d ch base g false (0, 0)
    | none => putBlk s d ch base v true (o ^^^ v, 0)
  channelFault (chkDrop s d ch base) d ch

/-- A controller's read of one block: its record through the cache, its class counted, and its data and poison standing from then on as the
read delivers them. Reads write nothing back but the poison mark (R307-R309). -/
def blkRead (s : State) (d ch off : Nat) (xf : BitVec 512) (xr : BitVec 64) : State :=
  let r := blkLook s d ch off xf xr
  let plain : Bool := (blkFlips s d ch off).1 ^^^ xf == 0 && recFlips s d ch off ^^^ xr == 0
  let s := chkRead s d ch off
  let hold (s : State) (v : BitVec 512) (bad : Bool) : State := if xf = 0 ∧ xr = 0 then blkHold s d ch off v bad else s
  if plain then s
  else match r.1 with
    | .clean => hold s r.2 false
    | .corrected => hold (countEcc s d ch 1 (dramAddrOf s d ch (off / 64 * 64))) r.2 false
    | .checkBit => hold (countEcc s d ch 1 (dramAddrOf s d ch (off / 64 * 64))) r.2 false
    | .poisoned => hold s r.2 true
    | .uncorrectable => badRead s d ch off false r.2
    | .misdirected => badRead s d ch off true r.2

/-- A master reads bytes of a die's DRAM: the controller reads their blocks. -/
def dramTouch (s : State) (d a n : Nat) : State :=
  (blksOf a n).foldl (fun s p => let m := dramMap s d p; blkRead s d m.1 m.2 0 0) s

/-! ### Writes (R308) -/

/-- Write one byte at a die address. -/
def dramPut (s : State) (d a : Nat) (b : Byte) : State :=
  (dramPlaces s d a).foldl (fun s p => { s with dram := wr s.dram (dramKey d p.1 p.2) b }) s

/-- A block written in part is read and corrected first where its stored bits call for that; one written whole is not. Its cached burst goes. -/
def blkOpen (s : State) (d ch off : Nat) (whole : Bool) : State :=
  let s := if whole ∨ blkFlips s d ch off = (0, 0) then s else blkRead s d ch off 0 0
  chkDrop s d ch off

/-- After the bytes are in: a fresh record; a block written whole loses its poison (R308). -/
def blkClose (s : State) (d ch off : Nat) (whole : Bool) : State :=
  let s := if blkFlips s d ch off = (0, 0) then s else setBlkFlips s d ch off (0, 0)
  if whole then dramClear s d ch off else s

/-- Whether bytes `a` to `a + n - 1` cover the block at `p` whole. -/
def coversBlk (a n p : Nat) : Bool := decide (a ≤ p ∧ p + 64 ≤ a + n)

/-- Write bytes from a die address. -/
def dramWr (s : State) (d a : Nat) (bs : List Byte) : State :=
  let ps := blksOf a bs.length
  let each (f : State → Nat → Nat → Nat → Bool → State) (s : State) : State :=
    ps.foldl (fun s p => (dramPlaces s d p).foldl (fun s m => f s d m.1 m.2 (coversBlk a bs.length p)) s) s
  let s := each blkOpen s
  let s := (List.range bs.length).foldl (fun s j => dramPut s d (a + j) (byteAt bs j)) s
  each blkClose s

end Sys2Proof.Machine
end

