-- ==== Sys2Proof/Machine/PageOps.lean ====
section
/-! DEFINITION. The page store (R75-R100, R387-R389): block headers, the checks of a load, space, placement, replacement and
freeing. -/

namespace Sys2Proof.Machine

/-- Round up to a multiple of 64. -/
def pad64 (n : Nat) : Nat := (n + 63) / 64 * 64

/-- Raw plane bytes of a block kind (R79). -/
def kindPlane (k : Nat) : Nat := if k % 2 = 1 then 65536 else 131072

/-- Mask plane bytes of a block kind (R79, R81). -/
def kindMask (k : Nat) : Nat := if 2 ≤ k then 16384 else 0

/-- Whether a kind holds drop codes. -/
def kindCodes (k : Nat) : Bool := k % 2 == 1

/-- A block as its header describes it (R82); the place is filled in when it is placed. -/
def blockOf (b : List Byte) : Block :=
  { die := 0, kind := leAt b 5 1, raw := leAt b 6 2 % 2 = 1, sig := leAt b 6 2 / 2 % 2 = 1,
    id := { page := BitVec.ofNat 32 (leAt b 8 4), copy := BitVec.ofNat 32 (leAt b 0x0C 4), row := leAt b 0x10 1,
            strip := leAt b 0x12 2, band := leAt b 0x14 2 },
    payloadLen := leAt b 0x18 4, rawCrc := BitVec.ofNat 32 (leAt b 0x1C 4), storedCrc := BitVec.ofNat 32 (leAt b 0x20 4),
    maskCrc := BitVec.ofNat 32 (leAt b 0x24 4), blockLen := leAt b 0x28 4, addr := 0 }

/-- The 64 header bytes of a block (R82). -/
def Block.header (b : Block) : List Byte :=
  let h := [0x42, 0x4C, 0x4B, 0x53, 0x01] ++ (natLE 1 b.kind ++ (natLE 2 ((if b.raw then 1 else 0) + (if b.sig then 2 else 0)) ++
    (natLE 4 b.id.page.toNat ++ (natLE 4 b.id.copy.toNat ++ (natLE 2 b.id.row ++ (natLE 2 b.id.strip ++ (natLE 2 b.id.band ++
    ([0, 0] ++ (natLE 4 b.payloadLen ++ (natLE 4 b.rawCrc.toNat ++ (natLE 4 b.storedCrc.toNat ++ (natLE 4 b.maskCrc.toNat ++
    (natLE 4 b.blockLen ++ List.replicate 16 0)))))))))))))
  h ++ natLE 4 (crc32c h).toNat

/-- BLOCK_LEN as R81 makes it. -/
def Block.lenRule (b : Block) : Nat := 64 + pad64 b.payloadLen + kindMask b.kind + (if b.sig then 256 else 0)

/-- Block offset of the mask plane. -/
def Block.maskAt (b : Block) : Nat := 64 + pad64 b.payloadLen

/-- Block offset of the trailer (R81, R88). -/
def Block.trailerAt (b : Block) : Nat := 64 + pad64 b.payloadLen + kindMask b.kind

/-- A defined page. -/
def page? (s : State) (id : Word) : Option Page := s.pages.find? (fun p => p.id == id)

/-- The placed block of an identity (R77, R99). -/
def heldBlock? (s : State) (id : BlockId) : Option Block := s.blocks.find? (fun b => b.id == id && !b.cached && !b.old)

/-- Whether the open job prints a page. -/
def jobPrints (s : State) (id : Word) : Bool :=
  jobOpen s && (match s.job with | some j => j.pages.contains id | none => false)

/-- Whether every row has finished printing a copy of a page in the open job (R92, R397). -/
def copyPast (s : State) (id copy : Word) : Bool :=
  jobOpen s && (match s.job with
    | some j => (List.range j.ready).any (fun i => j.pageOf i == id && j.copyNo i == copy.toNat)
    | none => false)

/-- Bases that a page requires: every band of every strip of every row (R80). -/
def basesRequired (s : State) (p : Page) : Nat := ((pageRows p).map (fun r => (rowCfg s r).strips * p.bands)).sum

/-- Base blocks of a page that are placed, BAD or not. -/
def basesHeld (s : State) (p : Page) : List Block :=
  s.blocks.filter (fun b => b.id.page == p.id && b.id.copy == 0 && !b.cached && !b.old && p.rows.getLsbD b.id.row &&
    b.id.strip < (rowCfg s b.id.row).strips && b.id.band < p.bands)

/-- Whether a page is complete (R80). -/
def pageComplete (s : State) (p : Page) : Bool := (basesHeld s p).length == basesRequired s p

/-! ### Space (R96, R98) -/

/-- The runs of bytes taken in a region of a die; a compress job of the page cache holds its destination, as long as its raw block. -/
def takenRuns (s : State) (d : Nat) (cache : Bool) : List (Nat × Nat) :=
  let c := compAt s d
  let job : List (Nat × Nat) := match c.block with
    | some a => if !cache ∧ c.state = 1 then
        (s.blocks.filter (fun b => b.die == d && b.cached && b.addr == a)).map (fun b => (c.jobDst.toNat - 64, pad64 b.blockLen))
      else []
    | none => []
  job ++ (s.blocks.filter (fun b => b.die == d && b.cached == cache && b.addr != 0)).map (fun b => (b.addr, pad64 b.blockLen))

/-- The lowest place for `len` bytes in `[lo, hi)` clear of the runs taken (R96: one contiguous run of granules; the choice of
place is the model's, assumption 7). -/
def findSpace (taken : List (Nat × Nat)) (lo hi len : Nat) : Option Nat :=
  let fits (a : Nat) : Bool := a + len ≤ hi && taken.all (fun r => a + len ≤ r.1 || r.1 + r.2 ≤ a)
  ((lo :: taken.map (fun r => r.1 + r.2)).filter (fun a => lo ≤ a && fits a)).foldl
    (fun m a => match m with | none => some a | some b => some (min a b)) none

/-- A place in the page store of a die; none also when its directory is full (R96). -/
def storeSpace (s : State) (d len : Nat) : Option Nat :=
  if 1048576 ≤ (s.blocks.filter (fun b => b.die == d)).length then none
  else findSpace (takenRuns s d false) storeBase (dramEnd s d) len

/-- A place in the page cache of a die. -/
def cacheSpace (s : State) (d len : Nat) : Option Nat := findSpace (takenRuns s d true) mgtRegion storeBase len

/-! ### Checks of a load (R92) -/

/-- Whether a die can be reached by blocks: in service, and its BLOCK route not lost (R91, R362). -/
def reachable (s : State) (d : Nat) : Bool :=
  !isFenced s (.die d) && !s.gram.routes.any (fun r => r.cls == 1 && r.dies.getLast? == some d && s.lostRoutes.contains r.id)

/-- The die that owns a block's strip (R91). -/
def ownerDie? (s : State) (id : BlockId) : Option Nat := (stripCfg? s id.row id.strip).map (fun g => g.die)

/-- The refusal of a block before its placement, codes 0x01 to 0x0D of R92 but NO_SPACE, in checking order: of the bytes `h` of the stream
from the block's header on, with `left` bytes up to the stream's end (R388). The segment's padding must be zeros (R81). -/
def refuseHeader (s : State) (h : List Byte) (left : Nat) : Option Nat :=
  let b := blockOf h
  let row := rowCfg s b.id.row
  let ovl := 2 ≤ b.kind
  let flags := leAt h 6 2
  if slice h 0 4 ≠ [0x42, 0x4C, 0x4B, 0x53] ∨ leAt h 4 1 ≠ 1 ∨ 3 < b.kind ∨ 4 ≤ flags ∨ !zeroAt h 0x11 1 ∨ !zeroAt h 0x16 2 ∨
      !zeroAt h 0x2C 16 ∨ (!ovl ∧ b.maskCrc ≠ 0) then some 0x01
  else if (crc32c (slice h 0 0x3C)).toNat ≠ leAt h 0x3C 4 then some 0x02
  else match page? s b.id.page with
    | none => some 0x03
    | some p =>
      if 64 ≤ b.id.row ∨ !p.rows.getLsbD b.id.row ∨ row.strips ≤ b.id.strip ∨ p.bands ≤ b.id.band then some 0x04
      else if kindCodes b.kind ≠ rowCodes row ∨ (ovl ∧ !row.overlay) ∨ (!ovl ∧ b.id.copy ≠ 0) ∨
          (ovl ∧ (b.id.copy = 0 ∨ b.id.copy = 0xFFFFFFFF)) then some 0x05
      else if (b.raw ∧ b.payloadLen ≠ kindPlane b.kind) ∨ (!b.raw ∧ (b.payloadLen = 0 ∨ kindPlane b.kind ≤ b.payloadLen)) ∨
          b.blockLen ≠ b.lenRule ∨ left < b.blockLen ∨
          (slice h (64 + b.payloadLen) (pad64 b.payloadLen - b.payloadLen)).any (fun v => v != 0) then some 0x06
      else if row.integrity = 1 ∧ !b.sig then some 0x07
      else if !ovl ∧ jobPrints s p.id ∧ ((heldBlock? s b.id).any (fun o => !o.bad)) then some 0x08
      else if ovl ∧ s.closed.contains (b.id.page, b.id.copy) then some 0x09
      else if ovl ∧ copyPast s b.id.page b.id.copy then some 0x0A
      else match ownerDie? s b.id with
        | some d => if reachable s d then none else some 0x0D
        | none => some 0x04

/-- CHECK of R92, over the whole block. -/
def checkBody (bs : List Byte) : Bool :=
  let b := blockOf bs
  crc32c (slice bs 64 b.payloadLen) == b.storedCrc &&
    (kindMask b.kind == 0 || crc32c (slice bs b.maskAt (kindMask b.kind)) == b.maskCrc) && (!b.raw || b.rawCrc == b.storedCrc)

/-! ### Placement, replacement, freeing (R93, R97) -/

/-- Whether a band fetch still reads a block. -/
def blockInUse (s : State) (b : Block) : Bool :=
  s.clauses.any (fun c => c.2.input.any (fun i => i.block.die == b.die && i.block.addr == b.addr))

/-- Free superseded blocks that no fetch reads any more (R93). -/
def freeOld (s : State) : State := { s with blocks := s.blocks.filter (fun b => !b.old || blockInUse s b) }

/-- Free every block a predicate picks; one that a fetch still reads stays until the fetch ends. -/
def freeBlocks (s : State) (p : Block → Bool) : State :=
  freeOld { s with blocks := s.blocks.map (fun b => if p b then { b with old := true } else b) }

/-- A whole block is placed in the page store of a die at an address; it supersedes the held block of its identity (R93). -/
def placeAt (s : State) (d a : Nat) (b : Block) (bytes : List Byte) : State :=
  let s := dramWr s d a bytes
  let s := { s with blocks := s.blocks.map (fun (o : Block) => if o.id = b.id ∧ !o.cached then { o with old := true } else o) }
  freeOld { s with blocks := s.blocks ++ [{ b with die := d, addr := a, cached := false, old := false, bad := false }] }

/-- A block is marked BAD and logged (R100, R508). -/
def markBad (s : State) (b : Block) : State :=
  if b.bad then s
  else
    let f (o : Block) : Block := if o.die = b.die ∧ o.addr = b.addr ∧ o.id = b.id then { o with bad := true } else o
    let s := { s with blocks := s.blocks.map f,
                      clauses := s.clauses.map (fun c => (c.1, { c.2 with input := c.2.input.map (fun i => { i with block := f i.block }) })) }
    let s := logEv s b.die 0x0016 (lineData b.id.page b.id.copy b.id.row 0 b.id.strip (64 * b.id.band) 64)
    (List.range s.part.dies).foldl (fun s d =>
      ((List.range 66).map (clauseIx d)).foldl (fun s x =>
        ((clauseAt s x).input.filter (fun i => i.block.die == b.die && i.block.addr == b.addr)).foldl
          (fun s i => withholdBad s x i.absBand) s) s) s

/-- The placed block that holds a die address, if any. -/
def blockAt? (s : State) (d a : Nat) : Option Block :=
  s.blocks.find? (fun b => b.die == d && !b.cached && b.addr != 0 && b.addr ≤ a && a < b.addr + pad64 b.blockLen)

/-- The placed block that holds a die address is marked BAD. -/
def markAt (s : State) (d a : Nat) : State :=
  match blockAt? s d a with
  | some b => markBad s b
  | none => s

/-! ### LOAD_BLOCKS (R388) -/

/-- Result of LOAD_BLOCKS (R387). -/
def loadResult (placed offset reason die : Nat) : List Byte := natLE 4 placed ++ (natLE 4 offset ++ [BitVec.ofNat 8 reason, BitVec.ofNat 8 die])

/-- Close the overlay set of a page and copy (R94). -/
def closeSet (s : State) (page copy : Word) : State :=
  if s.closed.contains (page, copy) then s else { s with closed := s.closed ++ [(page, copy)] }

/-- A load ends with a status and the result of R387. -/
def loadEnd (s : State) (w : LoadWait) (e : LoadStop) : State :=
  complete s w.hdr 0x0204 e.status (loadResult e.index e.offset e.reason e.die)

/-- Whether a die has a CACHE channel; without one COMPRESS stores blocks raw (R98, R342). -/
def hasCacheCh (s : State) (d : Nat) : Bool :=
  (List.range 32).any (fun c => let q := dmaAt s (dmaIx d c); q.use == 4 && q.st != .fenced)

/-- Whether a die has lost its last FORWARD channel: blocks for it find no space (R342). -/
def forwardLost (s : State) (d : Nat) : Bool :=
  d != 0 && !(List.range 32).any (fun c => let q := dmaAt s (dmaIx d c); q.use == 3 && q.st != .fenced)

/-- How far a load came: done with a state, or waiting. -/
inductive LoadStep where
  | done (s : State)
  | wait (s : State) (w : LoadWait)

/-- A load that goes no further, stopped or at its stream's end: it waits for its blocks still in a cache, which stand before the one it
stopped at (R92), then ends; OK closes the last block's set with CLOSE (R94, R388). -/
def loadTail (s : State) (w : LoadWait) : LoadStep :=
  if w.cached ≠ [] then .wait s w
  else match w.stop with
    | some e => .done (loadEnd s w e)
    | none =>
      let s := match w.last with
        | some id => if w.flags.getLsbD 1 ∧ id.copy ≠ 0 then closeSet s id.page id.copy else s
        | none => s
      .done (loadEnd s w ⟨stOk, w.index, w.len, 0, 0xFF⟩)

/-- A load stops at its next block with a status, reason and die. -/
def loadStops (s : State) (w : LoadWait) (status reason die : Nat) : LoadStep :=
  loadTail s { w with stop := some ⟨status, w.index, w.offset, reason, die⟩ }

/-- Place the blocks of a stream in order, each checked when the load reaches it; stop at the first refused, wait where a page
cache is full (R91, R92, R98, R99, R388). A block that needs no compressor is placed when the load reaches it, before blocks of the load
that still stand in a page cache (R98; assumption 37). `fuel` bounds the blocks. -/
def loadRun (s : State) (w : LoadWait) : Nat → LoadStep
  | 0 => loadTail s w
  | fuel + 1 =>
    if w.stop.isSome then loadTail s w
    else if w.rest.length < 64 then (if w.busError then loadStops s w stHostBus 0 0xFF else loadTail s w)
    else
      let b := blockOf w.rest
      let refuse (code die : Nat) : LoadStep := loadStops s w stRefused code die
      let own := (ownerDie? s b.id).getD 0xFF
      match refuseHeader s (w.rest.take 147776) (w.len - w.offset) with
      | some code => refuse code (if code = 1 ∨ code = 2 ∨ code = 3 ∨ code = 4 then 0xFF else own)
      | none =>
        if w.rest.length < b.blockLen then loadStops s w stHostBus 0 0xFF
        else
          let bytes := w.rest.take b.blockLen
          let next (w : LoadWait) : LoadWait :=
            { w with rest := w.rest.drop b.blockLen, index := w.index + 1, offset := w.offset + b.blockLen, last := some b.id }
          match (if forwardLost s own then none else storeSpace s own b.blockLen) with
          | none => refuse 0x0B own
          | some a =>
            if !checkBody bytes then refuse 0x0C own
            else if w.flags.getLsbD 0 ∧ b.raw ∧ hasCacheCh s own then
              match cacheSpace s own b.blockLen with
              | none => .wait s w
              | some ca =>
                let s := dramWr s own ca bytes
                let s := { s with blocks := s.blocks ++ [{ b with die := own, addr := ca, cached := true }] }
                loadRun s (next { w with cached := w.cached ++ [⟨w.index, w.offset, own, ca⟩] }) fuel
            else loadRun (placeAt s own a b bytes) (next w) fuel

/-- Whether a parked command is a LOAD_BLOCKS. -/
def Parked.isLoad : Parked → Bool
  | .load _ => true
  | _ => false

/-- Run the oldest parked load as far as it goes, then the next ones in turn (R378). `fuel` bounds the loads. -/
def runLoads (s : State) : Nat → State
  | 0 => s
  | fuel + 1 =>
    match s.parked.find? Parked.isLoad with
    | some (.load w) =>
      let others := s.parked.eraseP Parked.isLoad
      match loadRun { s with parked := others } w (w.rest.length / 64 + 1) with
      | .done s => runLoads s fuel
      | .wait s w => { s with parked := .load w :: s.parked }
    | _ => s

/-! ### The compressor's ends and the page cache (R98, R121-R123, R126) -/

/-- A compress job ends with a result: 0 OK, 1 FAIL_SPACE, 2 FAIL_SOURCE, 3 ABORTED (R121-R123, R126). The counts saturate, as the
decompressor's do (R125; assumption 38). -/
def cmpEnd (s : State) (d res : Nat) (stream : List Byte) (icrc : Word) : State :=
  modComp s d (fun c =>
    { c with state := 2, result := BitVec.ofNat 8 res, olen := BitVec.ofNat 17 stream.length, icrc := icrc,
             ocrc := if res = 0 then crc32c stream else 0, space := if res = 1 then satInc c.space else c.space,
             ok := if res = 0 then satInc c.ok else c.ok, block := none, inp := [] })

/-- The output space of a job that does not end OK holds free values (R121, assumption 4). -/
def cmpSpoils (s : State) (d : Nat) : State :=
  let c := compAt s d
  let r := drawBytes s c.jobLimit.toNat
  dramWr r.2 d c.jobDst.toNat r.1

/-- A job stops before it has taken its whole plane: FAIL_SOURCE or ABORTED. Neither its output space nor its ICRC is given, and both are free
(R122, R123, R126; assumption 4). -/
def cmpStops (s : State) (d res : Nat) : State :=
  let r := drawFree (cmpSpoils s d)
  cmpEnd r.2 d res [] (r.1.extractLsb' 0 32)

/-- Free a block's place in the page cache; a job at work on it is aborted. -/
def dropCached (s : State) (d a : Nat) : State :=
  let c := compAt s d
  let s := if c.state = 1 ∧ c.block = some a then cmpStops s d 3 else s
  { s with blocks := s.blocks.filter (fun b => !(b.die == d && b.cached && b.addr == a)) }

/-- Whether a load has a block at a place of a page cache. -/
def LoadWait.holds (w : LoadWait) (d a : Nat) : Bool := w.cached.any (fun c => c.die == d && c.addr == a)

/-- A load whose cached block has been refused stops at it: its later blocks leave their caches unplaced, its earlier ones go on
(R92, R122). -/
def loadRefused (s : State) (w : LoadWait) (c : CacheRef) (reason : Nat) : State × LoadWait :=
  let s := (w.cached.filter (fun o => c.index < o.index)).foldl (fun s o => dropCached s o.die o.addr) s
  (s, { w with cached := w.cached.filter (fun o => o.index < c.index),
               stop := some ⟨stRefused, c.index, c.offset, reason, c.die⟩ })

/-- A cached block has left its page cache: placed or deleted, or refused with a reason (R99, R122). The load that brought it goes on, or
ends once none of its blocks is left in a cache. -/
def cacheLeft (s : State) (d a : Nat) (refused : Option Nat) : State :=
  match s.parked.find? Parked.isLoad with
  | some (.load w) =>
    match w.cached.find? (fun c => c.die == d && c.addr == a) with
    | none => s
    | some c =>
      let others := s.parked.eraseP Parked.isLoad
      let r := match refused with
        | some reason => loadRefused s w c reason
        | none => (s, { w with cached := w.cached.filter (fun o => !(o.die == d && o.addr == a)) })
      if r.2.stop.isSome ∨ r.2.rest = [] then
        match loadTail { r.1 with parked := others } r.2 with
        | .done s => s
        | .wait s w => { s with parked := .load w :: s.parked }
      else { r.1 with parked := .load r.2 :: others }
  | _ => s

/-- Every block of a die's page cache is refused with a reason. -/
def refuseCached (s : State) (d reason : Nat) : State :=
  (s.blocks.filter (fun b => b.die == d && b.cached)).foldl (fun s b => cacheLeft (dropCached s d b.addr) d b.addr (some reason)) s

/-- A parked load that the loss of every HOST_IN channel stops ends once its blocks have left their caches (R342, R388). -/
def loadLost (s : State) (w : LoadWait) : State :=
  match loadTail s { w with stop := some (w.stop.getD ⟨stNoChannel, w.index, w.offset, 0, 0xFF⟩) } with
  | .done s => s
  | .wait s w => park s (.load w)

/-- Free every block a predicate picks, in the page store and in the page cache (R97). -/
def deleteBlocks (s : State) (p : Block → Bool) : State :=
  let cached := s.blocks.filter (fun b => b.cached && p b)
  let s := cached.foldl (fun s b => cacheLeft (dropCached s b.die b.addr) b.die b.addr none) s
  freeBlocks s (fun b => !b.cached && p b)

end Sys2Proof.Machine
end

