-- ==== Sys2Proof/Machine/Stream.lean ====
section
/-! DEFINITION. The block stream of a Tynel link (R220-R222, R230-R233, R236): check values, 66-bit blocks and their scrambler, slots, and the
frames and single blocks that wait for their positions. -/

namespace Sys2Proof.Machine

/-! ### Check values (R220, R233, R236) -/

/-- One bit of a reflected CRC-32 with a given polynomial. -/
def crcRefBit (poly c : BitVec 32) : BitVec 32 := if c.getLsbD 0 then (c >>> 1) ^^^ poly else c >>> 1

/-- One byte into a reflected CRC-32. -/
def crcRefByte (poly c : BitVec 32) (b : Byte) : BitVec 32 :=
  (List.range 8).foldl (fun c _ => crcRefBit poly c) (c ^^^ b.zeroExtend 32)

/-- The check value of a byte string under POLY: 0 CRC-32C, 1 CRC-32, 2 CRC-16 in bytes 0 and 1 (R236). -/
def frameCheck (poly : BitVec 2) (bs : List Byte) : BitVec 32 :=
  if poly = 2 then (crc16 bs).zeroExtend 32
  else if poly = 1 then bs.foldl (crcRefByte 0xEDB88320#32) 0xFFFFFFFF#32 ^^^ 0xFFFFFFFF#32
  else crc32c bs

/-- CRC-8 of the link blocks and sync frames: polynomial 0x07, initial value 0, most significant bit first (R188, R220). -/
def crc8Byte (c : Byte) (b : Byte) : Byte :=
  (List.range 8).foldl (fun (c : Byte) _ => if c.getLsbD 7 then (c <<< 1) ^^^ 0x07#8 else c <<< 1) (c ^^^ b)

/-- CRC-8 of a byte string. -/
def crc8 (bs : List Byte) : Byte := bs.foldl crc8Byte 0

/-- Bytes padded with zeros to whole 8-byte data blocks (R232). -/
def padBlocks (bs : List Byte) : List Byte := bs ++ List.replicate ((8 - bs.length % 8) % 8) 0

/-- What a frame's check covers: the prefix of its identity, SOF bytes 1-7, the data bytes and EOF bytes 1-3 (R233). -/
def checked (id : List Byte) (sof : List Byte) (data : List Byte) : List Byte :=
  id ++ (sof ++ (data ++ (natLE 2 (data.length / 8) ++ [0])))

/-- SOF bytes 1-7 of a LINE frame (R232). -/
def lineSof (h seg line : Nat) : List Byte := [0x01] ++ (natLE 1 h ++ (natLE 1 seg ++ natLE 4 line))

/-- The check of a LINE frame (R232, R233). -/
def lineCheck (poly : BitVec 2) (h seg line : Nat) (data : List Byte) : BitVec 32 :=
  frameCheck poly (checked (natLE 2 h ++ natLE 4 line) (lineSof h seg line) data)

/-- SOF bytes 1-7 of a CONTROL frame (R232). -/
def ctlSof (op : Byte) (cseq : BitVec 16) (len : Nat) : List Byte := [0x03, op, 0] ++ (natLE 2 cseq.toNat ++ natLE 2 len)

/-- The check of a CONTROL frame (R232, R233). -/
def ctlCheck (poly : BitVec 2) (op : Byte) (cseq : BitVec 16) (body : List Byte) : BitVec 32 :=
  frameCheck poly (checked ([0xFF, 0xFF] ++ natLE 4 cseq.toNat) (ctlSof op cseq body.length) (padBlocks body))

/-! ### Blocks (R220, R232) -/

/-- The sync header of a block: 0b01 data, 0b10 control. -/
def Blk.sync (b : Blk) : BitVec 2 := if b.ctl then 0b10 else 0b01

/-- A control block from its TBT and bytes 1-7. -/
def ctlBlk (tbt : Byte) (bs : List Byte) : Blk := ⟨true, BitVec.ofNat 64 (leNat (tbt :: bs))⟩

/-- A single-block frame: its CRC-8 covers bytes 0-6. -/
def crcBlk (tbt : Byte) (bs : List Byte) : Blk := ctlBlk tbt (bs ++ [crc8 (tbt :: bs)])

/-- IDLE, TS_FAST and EIDLE. -/
def idleBlk : Blk := ctlBlk 0x1E []
/-- TS_FAST. -/
def tsFastBlk : Blk := ctlBlk 0x33 []
/-- EIDLE. -/
def eidleBlk : Blk := ctlBlk 0x78 []

/-- An ALIGN block: lane index, lane count, ALIGN_SEQ (R220, R221). -/
def alignBlk (i n seq : Nat) : Blk := crcBlk 0x55 (natLE 1 i ++ (natLE 1 n ++ natLE 4 seq))

/-- A fire token (R220, R242). -/
def tokenBlk (h : Nat) (line : BitVec 16) (fire : Bool) (delay : BitVec 23) : Blk :=
  crcBlk 0xD2 (natLE 1 h ++ (natLE 2 line.toNat ++ natLE 3 (delay.toNat + if fire then 2 ^ 23 else 0)))

/-- An ECHO block (R220, R247). -/
def echoBlk (h : Nat) (eseq : BitVec 16) : Blk := crcBlk 0x2D (natLE 1 h ++ (natLE 2 eseq.toNat ++ [0, 0, 0]))

/-- An SOF block. -/
def sofBlk (bs : List Byte) : Blk := ctlBlk 0x4B bs

/-- An EOF block over so many data blocks (R220). -/
def eofBlk (dblk : Nat) (check : BitVec 32) : Blk := ctlBlk 0x87 (natLE 2 dblk ++ ([0] ++ natLE 4 check.toNat))

/-- Data blocks of whole 8-byte groups. -/
def dataBlks (data : List Byte) : List Blk :=
  (List.range (data.length / 8)).map (fun i => ⟨false, BitVec.ofNat 64 (leAt data (8 * i) 8)⟩)

/-- The blocks of a CONTROL frame (R231-R233). -/
def ctlBlks (poly : BitVec 2) (op : Byte) (cseq : BitVec 16) (body : List Byte) : List Blk :=
  let data := padBlocks body
  [sofBlk (ctlSof op cseq body.length)] ++ (dataBlks data ++ [eofBlk (data.length / 8) (ctlCheck poly op cseq body)])

/-- The blocks of a LINE frame (R231-R233, R237). -/
def lineBlks (poly : BitVec 2) (h seg line : Nat) (data : List Byte) : List Blk :=
  [sofBlk (lineSof h seg line)] ++ (dataBlks data ++ [eofBlk (data.length / 8) (lineCheck poly h seg line data)])

/-! ### The scrambler (R220) -/

/-- One bit through the scrambler 1 + x^39 + x^58: the bit sent is the new bit 0 of the register. -/
def scrBit (r : BitVec 58) (b : Bool) : BitVec 58 :=
  (r <<< 1) ||| (if (b != r.getLsbD 38) != r.getLsbD 57 then 1 else 0)

/-- A payload through the scrambler, bit 0 first: the register after it, and the 64 bits sent. -/
def scrWord (r : BitVec 58) (w : BitVec 64) : BitVec 58 × BitVec 64 :=
  (List.range 64).foldl (fun p i =>
    let r := scrBit p.1 (w.getLsbD i)
    (r, if r.getLsbD 0 then p.2 ||| (1#64 <<< i) else p.2)) (r, 0)

/-- The registers of two scramblers differ after one IDLE block as this linear map carries their difference: its value on each bit, and the
register that IDLE leaves from 0. -/
def idleMap : List (BitVec 58) × BitVec 58 :=
  let c := (scrWord 0 idleBlk.payload).1
  ((List.range 58).map (fun i => (scrWord (1#58 <<< i) idleBlk.payload).1 ^^^ c), c)

/-- An affine map of the register, given so, at a value. -/
def affAt (m : List (BitVec 58) × BitVec 58) (r : BitVec 58) : BitVec 58 :=
  (List.range 58).foldl (fun a i => if r.getLsbD i then a ^^^ m.1.getD i 0 else a) m.2

/-- An affine map twice over. -/
def affTwice (m : List (BitVec 58) × BitVec 58) : List (BitVec 58) × BitVec 58 := (m.1.map (fun v => affAt m v ^^^ m.2), affAt m m.2)

/-- `n` times an affine map, by the binary digits of `n`, `fuel` of them at most. -/
def affTimes (m : List (BitVec 58) × BitVec 58) (n : Nat) (r : BitVec 58) : Nat → BitVec 58
  | 0 => r
  | fuel + 1 => if n = 0 then r else affTimes (affTwice m) (n / 2) (if n % 2 = 1 then affAt m r else r) fuel

/-- The scrambler's register after `n` IDLE blocks. -/
def scrIdle (n : Nat) (r : BitVec 58) : BitVec 58 := affTimes idleMap n r n.log2.succ

/-! ### Lanes -/

/-- Lanes of a mask, ascending. -/
def laneList (m : Nat) : List Nat := (List.range 8).filter (fun n => m.testBit n)

/-- The mask of a list of lanes. -/
def laneMask (ls : List Nat) : Nat := (ls.map (fun n => 2 ^ n)).sum

/-- Lanes in use. -/
def useLanes (s : State) (d l : Nat) : List Nat := laneList (linkAt s (linkIx d l)).lanes.toNat

/-- One block on a lane, scrambled. -/
def sendBlock (s : State) (d n : Nat) (b : Blk) : State :=
  let r := scrWord (laneAt s (8 * d + n)).scr b.payload
  emit (modLane s (8 * d + n) (fun a => { a with scr := r.1 })) (.block d n b r.2)

/-- The same block so many times on every lane in use: EIDLE and TS_FAST (R226, R229, R230). -/
def sendBurst (s : State) (d l count : Nat) (b : Blk) : State :=
  (useLanes s d l).foldl (fun s n => (List.range count).foldl (fun s _ => sendBlock s d n b) s) s

/-! ### Slots and positions (R221, R222) -/

/-- Every 16,384th slot carries ALIGN on every lane. -/
def alignSlot (k : Nat) : Bool := k % 16384 == 0

/-- Whether a link sends blocks in slots. -/
def LinkState.streams : LinkState → Bool
  | .bitlock | .blocklock | .caps | .active | .retrain | .capsFail => true
  | _ => false

/-- Whether frames and single blocks go out: from the first ALIGN on, and not to a link in CAPS_FAIL. -/
def LinkState.carries : LinkState → Bool
  | .blocklock | .caps | .active | .retrain => true
  | _ => false

/-- The next block of the frames that wait, which come one after the other (R231): none where the frame under way waits for the gather. -/
def takeBlk : List TxFrame → Option Blk × List TxFrame
  | [] => (none, [])
  | f :: fs => match f.blks with
    | [] => (none, f :: fs)
    | b :: bs => (some b, if bs = [] ∧ f.closed then fs else { f with blks := bs, started := true } :: fs)

/-- The blocks of `n` positions of a slot that no single block takes: blocks of frames, then IDLE. -/
def takeBlks : Nat → List TxFrame → List Blk × List TxFrame
  | 0, fs => ([], fs)
  | n + 1, fs =>
    let p := takeBlk fs
    let q := takeBlks n p.2
    (p.1.getD idleBlk :: q.1, q.2)

/-- The frames of a list that have not begun, of the kinds that `p` names. -/
def freshFrames (p : FrameKind → Bool) (fs : List TxFrame) : Nat := (fs.filter (fun f => p f.kind && !f.started)).length

/-- One slot of a link: ALIGN on every lane, or a single block in the first position and blocks of frames in the others (R221, R222). A
line frame or replay that begins counts in FRAMES, a replay in REPLAYS (R249). -/
def sendSlot (s : State) (d l : Nat) : State :=
  let k := linkAt s (linkIx d l)
  let use := useLanes s d l
  let n := use.length
  let on := k.st.carries
  let align := alignSlot k.slot && k.st != .bitlock
  let one : List Blk := if align || !on then [] else k.singles.take 1
  let q := if align || !on then ([], k.frames) else takeBlks (n - one.length) k.frames
  let blks : List Blk := if align then (List.range n).map (fun i => alignBlk i n (k.slot / 16384)) else one ++ q.1
  let s := (List.range n).foldl (fun s i => sendBlock s d (use.getD i 0) (blks.getD i idleBlk)) s
  modLink s (linkIx d l) (fun k =>
    { k with slot := k.slot + 1, frames := q.2, singles := k.singles.drop one.length,
             tx := k.tx + BitVec.ofNat 32 (freshFrames (· != .control) k.frames - freshFrames (· != .control) q.2),
             replays := satAdd k.replays (freshFrames (· == .replay) k.frames - freshFrames (· == .replay) q.2) })

/-- Whether nothing waits for the next slot but IDLE. -/
def slotIdle (k : Link) : Bool :=
  !(alignSlot k.slot && k.st != .bitlock) && (!k.st.carries || (k.singles == [] && (takeBlk k.frames).1.isNone))

/-- So many idle slots. -/
def sendIdle (s : State) (d l count : Nat) : State :=
  let s := (useLanes s d l).foldl (fun s n =>
    emit (modLane s (8 * d + n) (fun a => { a with scr := scrIdle count a.scr })) (.idleBlocks d n count)) s
  modLink s (linkIx d l) (fun k => { k with slot := k.slot + count })

/-- The next `count` slots of a link; `fuel` bounds the rounds. -/
def sendSlots (s : State) (d l count : Nat) : Nat → State
  | 0 => s
  | fuel + 1 =>
    if count = 0 then s
    else
      let k := linkAt s (linkIx d l)
      if slotIdle k then
        let m := min count (16384 - k.slot % 16384)
        sendSlots (sendIdle s d l m) d l (count - m) fuel
      else sendSlots (sendSlot s d l) d l (count - 1) fuel

/-- The slots of a link whose instants lie before the present one; slot k begins 66k/64 ticks after slot 0. -/
def dueSlots (s : State) (k : Link) : Nat := (64 * s.tb + 65 - k.origin) / 66 - k.slot

/-- The slots whose instants have passed go out with what waits for them. -/
def pump (s : State) (d l : Nat) : State :=
  let k := linkAt s (linkIx d l)
  if k.st.streams then sendSlots s d l (dueSlots s k) (dueSlots s k) else s

/-- A link's slots begin anew where its last one ended, now sought with ALIGN: BLOCKLOCK (R223). -/
def toBlocklock (s : State) (d l : Nat) : State :=
  let s := modLink (pump s d l) (linkIx d l) (fun k => { k with st := .blocklock, origin := k.origin + 66 * k.slot, slot := 0 })
  (useLanes s d l).foldl (fun s n => modLane s (8 * d + n) (fun a => { a with aligned := false })) s

/-- A stream begins at an instant in 1/64 ticks, with ALIGN in its slot 0. -/
def startStream (s : State) (d l origin : Nat) : State := modLink s (linkIx d l) (fun k => { k with origin := origin, slot := 0 })

/-- What waits on a link is dropped, a frame under way aborted: a RENEG not yet begun stays. -/
def cutStream (s : State) (d l : Nat) : State :=
  modLink (pump s d l) (linkIx d l) (fun k =>
    { k with frames := k.frames.filter (fun f => f.kind = .control ∧ f.h = 4 ∧ !f.started), singles := [] })

/-- The frame under way, if it is all there, is sent to its end (R229). -/
def endFrame (s : State) (d l : Nat) : State :=
  let s := pump s d l
  let k := linkAt s (linkIx d l)
  match k.frames with
  | f :: _ => if f.started ∧ f.closed then
      sendSlots (modLink s (linkIx d l) (fun k => { k with frames := [f], singles := [] })) d l
        ((f.blks.length + (useLanes s d l).length - 1) / max 1 (useLanes s d l).length + 1) (f.blks.length + 2) else s
  | [] => s

/-! ### Frames and single blocks that wait (R222, R231, R239) -/

/-- Replays go ahead of every frame not yet started; control frames ahead of line frames (assumption 41). -/
def FrameKind.rank : FrameKind → Nat
  | .replay => 0
  | .control => 1
  | .line => 2

/-- A frame takes its place among those that wait. -/
def placeFrame (f : TxFrame) : List TxFrame → List TxFrame
  | [] => [f]
  | g :: gs => if g.started ∨ g.kind.rank ≤ f.kind.rank then g :: placeFrame f gs else f :: g :: gs

/-- A frame waits for the link. -/
def pushFrame (s : State) (d l : Nat) (f : TxFrame) : State :=
  modLink (pump s d l) (linkIx d l) (fun k => { k with frames := placeFrame f k.frames })

/-- A block waits for the first position of a slot. -/
def pushSingle (s : State) (d l : Nat) (b : Blk) : State :=
  modLink (pump s d l) (linkIx d l) (fun k => { k with singles := k.singles ++ [b] })

/-- The slot that the block after `n` waiting ones gets, from slot `k` on: ALIGN slots are passed over. -/
def slotAfter (k : Nat) : Nat → Nat
  | 0 => if alignSlot k then k + 1 else k
  | n + 1 => slotAfter ((if alignSlot k then k + 1 else k) + 1) n

/-- The reference instant, in 1/64 ticks, of a single block that begins to wait now (R222). -/
def singleAt (s : State) (d l : Nat) : Nat :=
  let k := linkAt (pump s d l) (linkIx d l)
  k.origin + 66 * slotAfter k.slot k.singles.length

/-- The frames that `p` names are dropped; one under way is aborted. -/
def dropFrames (s : State) (d l : Nat) (p : TxFrame → Bool) : State :=
  modLink (pump s d l) (linkIx d l) (fun k => { k with frames := k.frames.filter (fun f => !p f) })

/-- A link as it stands now, the slots that are past sent. -/
def linkNow (s : State) (d l : Nat) : Link := linkAt (pump s d l) (linkIx d l)

/-! ### Training words (R224) -/

/-- The 32-bit control field as sent: bit 0 first, each bit as two UI, 0b10 for 1 and 0b01 for 0, the left one first. -/
def codeField (ctl : Word) : BitVec 64 :=
  (List.range 32).foldl (fun a i => a ||| ((if ctl.getLsbD i then 1#64 else 2#64) <<< (2 * i))) 0

/-- The field that 64 UI stand for, if every pair is one of the two. -/
def readField? (c : BitVec 64) : Option Word :=
  if (List.range 32).all (fun i => c.getLsbD (2 * i) != c.getLsbD (2 * i + 1)) then
    some ((List.range 32).foldl (fun a i => if c.getLsbD (2 * i) then a ||| (1#32 <<< i) else a) 0)
  else none

/-- The body: 960 bits of PRBS11, x^11 + x^9 + 1, going on from the register (assumption 41). -/
def prbsBody (r : BitVec 11) : BitVec 11 × BitVec 960 :=
  (List.range 960).foldl (fun p i =>
    let b := p.1.getLsbD 10 != p.1.getLsbD 8
    ((p.1 <<< 1) ||| (if b then 1 else 0), if b then p.2 ||| (1#960 <<< i) else p.2)) (r, 0)

/-- A training word: the marker, 16 ones and 16 zeros, the control field and the body, UI 0 in bit 0. -/
def trainWord (ctl : Word) (body : BitVec 960) : BitVec 1056 := body ++ (codeField ctl ++ 0x0000FFFF#32)

/-- The control field of a word received; none where the marker or the coding is wrong. -/
def trainField? (w : BitVec 1056) : Option Word :=
  if w.extractLsb' 0 32 = 0x0000FFFF#32 then readField? (w.extractLsb' 32 64) else none

/-- A training word leaves a lane. -/
def sendTraining (s : State) (d n : Nat) (ctl : Word) : State :=
  let p := prbsBody (laneAt s (8 * d + n)).prbs
  emit (modLane s (8 * d + n) (fun a => { a with prbs := p.1 })) (.training d n (trainWord ctl p.2))

end Sys2Proof.Machine
end

