-- ==== Sys2Proof/Machine/TynelOps.lean ====
section
/-! DEFINITION. What commands and events share about the Tynel links (R216-R247): link records, lanes, control frames, LINE_BASE,
line frames with their checks, replays, and the head lines of a channel. -/

namespace Sys2Proof.Machine

/-! ### Blocks and frames received (R220, R231-R233) -/

/-- Whether a single-block frame's CRC-8 over its bytes 0-6 is right (R220). -/
def blockGood (blk : List Byte) : Bool := blk.length == 8 && crc8 (blk.take 7) == byteAt blk 7

/-- Whether a control block is discarded and counted (R220): its TBT unknown, or that of a single-block frame whose CRC-8 is wrong. -/
def ctlBad (blk : List Byte) : Bool :=
  let tbt := byteAt blk 0
  if [0x2D, 0x55, 0xB4, 0xD2, 0xE1].contains tbt then !blockGood blk else !([0x1E, 0x33, 0x4B, 0x78, 0x87].contains tbt) || blk.length != 8

/-- FTYPE of a frame. -/
def upType (f : UpFrame) : Nat := leAt f.sof 1 1
/-- OPCODE of a control frame, h of a telemetry frame. -/
def upOp (f : UpFrame) : Nat := leAt f.sof 2 1
/-- CSEQ or TSEQ. -/
def upSeq (f : UpFrame) : Nat := leAt f.sof 4 2
/-- LEN. -/
def upLen (f : UpFrame) : Nat := leAt f.sof 6 2
/-- The body of a frame. -/
def upBody (f : UpFrame) : List Byte := f.data.take (upLen f)

/-- The identity that seeds a frame's check (R233). -/
def upIdent (f : UpFrame) : List Byte := if upType f = 2 then natLE 2 (upOp f) ++ natLE 4 (upSeq f) else [0xFF, 0xFF] ++ natLE 4 (upSeq f)

/-- Whether a frame passes its check: of a kind the board sends, not aborted by a bad block, its DBLK that of its data and its LEN, and its CHECK right, with bytes 6
and 7 of the EOF block 0 under CRC-16 (R220, R232, R233). -/
def frameGood (poly : BitVec 2) (f : UpFrame) : Bool :=
  (upType f == 3 || (upType f == 2 && upLen f == 16)) && f.bad == [] && f.sof.length == 8 && f.eof.length == 8 && byteAt f.sof 0 == 0x4B && byteAt f.eof 0 == 0x87 &&
    f.data.length == 8 * leAt f.eof 1 2 && leAt f.eof 1 2 == (upLen f + 7) / 8 &&
    leAt f.eof 4 4 == (frameCheck poly (upIdent f ++ (f.sof.drop 1 ++ (f.data ++ slice f.eof 1 3)))).toNat

/-! ### Link records (R217) -/

/-- The record of a link. -/
def linkRec? (s : State) (d l : Nat) : Option ParamRec := param? s 0x0301 (256 * d + l)

/-- Links that a Dialect defines: die and link number. -/
def allLinks (s : State) : List (Nat × Nat) :=
  (s.params.filter (fun p => p.typ == 0x0301)).map (fun p => (p.target.toNat / 256, p.target.toNat % 256))

/-- LANE_MASK. -/
def recLanes (p : ParamRec) : Nat := leAt p.payload 0 1
/-- POLY. -/
def recPoly (p : ParamRec) : BitVec 2 := BitVec.ofNat 2 (leAt p.payload 1 1)
/-- CHANNELS. -/
def recCount (p : ParamRec) : Nat := leAt p.payload 2 1
/-- TEL_PERIOD, µs. -/
def recTel (p : ParamRec) : Nat := leAt p.payload 4 2
/-- Its head channels with their BOARD_CH. -/
def recHeads (p : ParamRec) : List (Nat × Nat) :=
  (List.range (recCount p)).map (fun i => (leAt p.payload (8 + 4 * i) 1, leAt p.payload (9 + 4 * i) 1))

/-- The link that carries a head channel. -/
def headLink? (s : State) (h : Nat) : Option (Nat × Nat) :=
  (s.params.find? (fun p => p.typ == 0x0301 && (recHeads p).any (fun e => e.1 == h))).map
    (fun p => (p.target.toNat / 256, p.target.toNat % 256))

/-- The link that owns a lane. -/
def laneLink? (s : State) (d n : Nat) : Option Nat :=
  (s.params.find? (fun p => p.typ == 0x0301 && p.target.toNat / 256 == d && (recLanes p).testBit n)).map
    (fun p => p.target.toNat % 256)

/-- Head channels of a link, ascending. -/
def linkHeads (s : State) (d l : Nat) : List Nat :=
  match linkRec? s d l with
  | some p => ((recHeads p).map (fun e => e.1)).mergeSort (fun a b => decide (a ≤ b))
  | none => []

/-- Whether a head channel is defined: it appears in a link record (R217). -/
def headDefined (s : State) (h : Nat) : Bool := (headLink? s h).isSome

/-- Head channels of a link in service. -/
def liveHeads (s : State) (d l : Nat) : List Nat := (linkHeads s d l).filter (fun h => !isFenced s (.head h))

/-- Whether a channel's link is ACTIVE. -/
def headActive (s : State) (h : Nat) : Bool :=
  match headLink? s h with
  | some (d, l) => (linkAt s (linkIx d l)).st == .active
  | none => false

/-- S_h, the segments of a channel's head line (R219). -/
def headSegs (n : Nat) : Nat := (n + 4095) / 4096

/-- NOZZLES of a head channel. -/
def headNozzles (s : State) (h : Nat) : Nat := ((nozTable? s h).map nozCount).getD 0

/-- Blocks a line of some channels takes (R219). -/
def lineBlocks (s : State) (hs : List Nat) : Nat :=
  (hs.map (fun h => (headNozzles s h + 15) / 16 + 2 * headSegs (headNozzles s h) + 1)).sum

/-- Whether channels fit on `n` lanes within their rows' shortest minimum fire period less 384 ticks, in 1/64 ticks (R219). -/
def fits (s : State) (n : Nat) (hs : List Nat) : Bool :=
  match hs.map (fun h => (rowCfg s (headRow s h)).minFire) with
  | [] => true
  | m :: ms => n != 0 && decide ((lineBlocks s hs + n - 1) / n * 66 + 64 * 384 ≤ 25 * ms.foldl min m)

/-- Whether an open job covers a head channel. -/
def jobCovers (s : State) (h : Nat) : Bool :=
  jobOpen s && headDefined s h && (match s.job with
    | some j => j.rows.contains (headRow s h)
    | none => false)

/-- Whether an open job covers any channel of a link. -/
def jobCoversLink (s : State) (d l : Nat) : Bool := (linkHeads s d l).any (jobCovers s)

/-! ### Control frames and LINE_BASE (R241, R244) -/

/-- Send a control frame, with the check of the polynomial in use (R233, R235); CSEQ counts the frames of the link. -/
def sendControl (s : State) (d l : Nat) (op : Byte) (body : List Byte) : State :=
  let k := linkAt s (linkIx d l)
  modLink (pushFrame s d l { kind := .control, h := op.toNat, blks := ctlBlks k.poly op k.cseq body, closed := true }) (linkIx d l)
    (fun k => { k with cseq := k.cseq + 1 })

/-- The next head line the part will send on a channel: head line 0 while the job waits ARMED or no job covers the channel, else
the next one to be gathered (R241). -/
def nextSent (s : State) (h : Nat) : Nat :=
  match s.job with
  | some j => if j.st = .running ∧ jobCovers s h then (headAt s h).nextGather else 0
  | none => 0

/-- The body of LINE_BASE (R244). -/
def lineBaseBody (h next : Nat) : List Byte := natLE 1 h ++ ([0, 0, 0] ++ natLE 4 next)

/-- Send LINE_BASE for a channel whose link is ACTIVE; until its acknowledgement no line frame goes to the channel (R241). -/
def sendLineBase (s : State) (h next : Nat) : State :=
  match headLink? s h with
  | none => s
  | some (d, l) =>
    let s := modHead s h (fun c => { c with baseNext := next, baseOwed := true, baseFailed := false })
    if (linkAt s (linkIx d l)).st = .active then
      sendControl (modHead s h (fun c => { c with baseTries := c.baseTries + 1 })) d l 0x07
        (lineBaseBody h next)
    else s

/-- Line frames and replays of a channel, those that `p` names, are dropped. -/
def dropLines (s : State) (h : Nat) (p : TxFrame → Bool) : State :=
  match headLink? s h with
  | some (d, l) => dropFrames s d l (fun f => f.kind != .control && f.h == h && p f)
  | none => s

/-- A new LINE_BASE for a channel, its tries counted from 0; no line frame goes to the channel until it is acknowledged (R241). -/
def newLineBase (s : State) (h next : Nat) : State :=
  sendLineBase (dropLines (modHead s h (fun c => { c with baseTries := 0 })) h (fun f => !f.started || !f.closed)) h next

/-- Centre temperature of a die, 1/16 °C (R442). -/
def dieTemp (s : State) (d : Nat) : Int := (sget {} s.sense (16 * d)).value.toInt

/-- A retrain of a lane under eye scan ends the point with ABORT set (R248). -/
def abortEye (s : State) (d l : Nat) : State :=
  let e := eyeAt s d
  if e.busy && (linkAt s (linkIx d l)).lanes.getLsbD e.lane.toNat then setEye s d { e with busy := false, abort := true } else s

/-- A link in use enters TRAIN: what it was sending ends, lock is gone, each lane trains anew, and until the next CONFIG_ACK frames use
CRC-32C (R223, R235). -/
def enterTrain (s : State) (d l : Nat) : State :=
  let s := cutStream (abortEye s d l) d l
  let s := modLink s (linkIx d l) (fun k => { k with st := .train, fastTries := 0, poly := 0 })
  (useLanes s d l).foldl (fun s n => modLane s (8 * d + n) (fun a =>
    { a with blockLock := false, bitLock := false, rxReady := false, farReady := false, farFinal := 0, aligned := false, hdrAt := [] })) s

/-! ### Stored lane settings (R225, R456) -/

/-- The key of a calibration result: its TYPE and INDEX. -/
def calKey (typ ix : Nat) : Nat := 65536 * typ + ix

/-- The result of a type and index, empty when there is none. -/
def calResult (s : State) (typ ix : Nat) : List Byte := sget [] s.cal.results (calKey typ ix)

/-- A result enters what the store is to hold. -/
def putResult (s : State) (typ ix : Nat) (payload : List Byte) : State :=
  { s with cal := { s.cal with results := sput [] s.cal.results (calKey typ ix) payload, changed := true } }

/-- A lane's settings as the store keeps them: its own taps, its receiver equaliser, the board's taps as last reported, its deskew, and 25
bytes of the receiver's further taps (R225; assumption 41). -/
def laneRecord (a : Lane) (rest : List Byte) : List Byte :=
  [BitVec.ofNat 8 a.txPre.toNat, BitVec.ofNat 8 a.txPost.toNat, BitVec.ofNat 8 a.ctle.toNat, a.dfe1, BitVec.ofNat 8 a.farPre.toNat,
    BitVec.ofNat 8 a.farPost.toNat, BitVec.ofNat 8 a.skew.toNat] ++ (rest ++ List.replicate 25 0).take 25

/-- The stored settings take effect on a lane. -/
def loadLane (s : State) (i : Nat) : State :=
  let b := calResult s 4 i
  if b = [] then s
  else modLane s i (fun a =>
    { a with txPre := BitVec.ofNat 4 (leAt b 0 1), txPost := BitVec.ofNat 5 (leAt b 1 1), ctle := BitVec.ofNat 4 (leAt b 2 1), dfe1 := byteAt b 3,
             skew := BitVec.ofNat 6 (leAt b 6 1) })

/-- A fast exit or fast retrain begins from the stored settings: 32 TS_FAST blocks on every lane from tick 3, ALIGN at tick 36, which begins
the stream anew (R226, R230). -/
def enterFast (s : State) (d l : Nat) : State :=
  let s := cutStream (abortEye s d l) d l
  let s := (useLanes s d l).foldl (fun s n => modLane (loadLane s (8 * d + n)) (8 * d + n) (fun a =>
    { a with blockLock := false, aligned := false, hdrAt := [] })) s
  let s := sendBurst s d l 32 tsFastBlk
  startStream (modLink s (linkIx d l) (fun k => { k with st := .retrain, fastTries := k.fastTries + 1 })) d l (64 * (s.tb + 36))

/-- One tick of the timebase in which no command comes: the slots of it carry what waits on the links. -/
def tick (s : State) : State :=
  let s := advanceTo s (s.tb + 1)
  (allLinks s).foldl (fun s p =>
    let k := linkAt s (linkIx p.1 p.2)
    if k.frames = [] ∧ k.singles = [] then s else pump s p.1 p.2) s

/-- Exit from electrical idle: fast within 1 s of idle and 10 °C of the stored settings, else through TRAIN (R230). -/
def exitIdle (s : State) (d l : Nat) : State :=
  let k := linkAt s (linkIx d l)
  if k.st ≠ .idle then s
  else if s.tb - k.idleSince ≤ secTicks ∧ (dieTemp s d - k.storedTemp).natAbs < 160 ∧ k.stored then
    enterFast (modLink s (linkIx d l) (fun k => { k with fastTries := 0 })) d l
  else enterTrain s d l

/-- The links of some head channels leave electrical idle. -/
def exitIdleFor (s : State) (hs : List Nat) : State :=
  hs.foldl (fun s h => match headLink? s h with
    | some (d, l) => exitIdle s d l
    | none => s) s

/-- Calibration resources fall due, by (ITEM, resource) (R455). -/
def addDue (s : State) (xs : List (Nat × Nat)) : State :=
  { s with cal := { s.cal with due := s.cal.due ++ xs.filter (fun x => !s.cal.due.contains x) } }

/-- A link becomes ACTIVE: each channel in service is sent its LINE_BASE (R241). -/
def activateLink (s : State) (d l : Nat) : State :=
  let s := modLink s (linkIx d l) (fun k => { k with st := .active, fastTries := 0 })
  let s := addDue s ((3, linkIx d l) :: (liveHeads s d l).map (fun h => (4, h)))
  (liveHeads s d l).foldl (fun s h => newLineBase s h (nextSent s h)) s

/-! ### Line frames (R237-R239) -/

/-- Head nozzles of a segment. -/
def segNozzles (total seg : Nat) : Nat := min 4096 (total - 4096 * seg)

/-- Data bytes of a segment: two codes to a byte, the lower-numbered nozzle in bits [3:0], padded to whole blocks (R237). -/
def segData (hl : HeadLine) (seg : Nat) : List Byte :=
  let n := segNozzles hl.total seg
  let code (i : Nat) : Nat := if i < n then (hl.codes.getD (4096 * seg + i) 0).toNat else 0
  (List.range ((n + 15) / 16 * 8)).map (fun b => BitVec.ofNat 8 (code (2 * b) + 16 * code (2 * b + 1)))

/-- Whether a segment's codes are all gathered. -/
def segReady (hl : HeadLine) (seg : Nat) : Bool := decide (min hl.total (4096 * (seg + 1)) ≤ hl.codes.length)

/-- Whether line frames may go to a channel: its link ACTIVE, its LINE_BASE acknowledged, itself in service (R228, R241). -/
def mayTransmit (s : State) (h : Nat) : Bool :=
  let c := headAt s h
  headActive s h && !c.baseOwed && !c.baseFailed && !isFenced s (.head h)

/-- Change a head line. -/
def modHeadLine (s : State) (h line : Nat) (f : HeadLine → HeadLine) : State :=
  modHead s h (fun c => { c with lines := c.lines.map (fun l => if l.line = line then f l else l) })

/-- A whole segment waits as a frame: a line frame, or a replay of it (R237, R239). -/
def sendSeg (s : State) (d l h : Nat) (hl : HeadLine) (seg : Nat) (kind : FrameKind) : State :=
  let blks := lineBlks (linkAt s (linkIx d l)).poly h seg hl.line (segData hl seg)
  pushFrame s d l { kind := kind, h := h, line := hl.line, seg := seg, blks := blks, closed := true }

/-- A change of the frame that a channel's segment is sent in as it is gathered. -/
def modFeed (s : State) (d l h line seg : Nat) (f : TxFrame → TxFrame) : State :=
  modLink (pump s d l) (linkIx d l) (fun k => { k with frames := k.frames.map (fun q =>
    if q.kind = .line ∧ q.h = h ∧ q.line = line ∧ q.seg = seg ∧ !q.closed then f q else q) })

/-- Whether such a frame is there: not aborted. -/
def feeding (s : State) (d l h line seg : Nat) : Bool :=
  (linkAt s (linkIx d l)).frames.any (fun q => q.kind = .line ∧ q.h = h ∧ q.line = line ∧ q.seg = seg ∧ !q.closed)

/-- The part sends a line frame as the gather produces it: SOF with the first block of a segment, each block of codes, and EOF after the
last (R231, R237). `from_`: codes that were gathered before this block. -/
def feedBlock (s : State) (h line from_ : Nat) : State :=
  match headLink? s h, (headAt s h).lines.find? (fun q => q.line == line && !q.spit) with
  | some (d, l), some hl =>
    if !mayTransmit s h ∨ line < (headAt s h).baseNext then s
    else
      let seg := from_ / 4096
      let at_ := from_ % 4096 / 2
      let s := if from_ % 4096 = 0 then
        pushFrame s d l { kind := .line, h := h, line := line, seg := seg, blks := [sofBlk (lineSof h seg line)] } else s
      if !feeding s d l h line seg then s
      else
        let data := segData hl seg
        let s := modFeed s d l h line seg (fun q => { q with blks := q.blks ++ dataBlks (slice data at_ 8) })
        if segReady hl seg then
          let eof := eofBlk (data.length / 8) (lineCheck (linkAt s (linkIx d l)).poly h seg line data)
          modHeadLine (modFeed s d l h line seg (fun q => { q with blks := q.blks ++ [eof], closed := true })) h line
            (fun q => { q with sent := q.sent ++ [seg] })
        else s
  | _, _ => s

/-- Send whole segments that a channel has and has not sent, in order (R430, R241). -/
def sendReady (s : State) (h : Nat) : State :=
  match headLink? s h with
  | none => s
  | some (d, l) =>
    if !mayTransmit s h then s
    else
      (headAt s h).lines.foldl (fun s hl =>
        if hl.line < (headAt s h).baseNext then s
        else
          let segs := (List.range (headSegs hl.total)).filter (fun g => segReady hl g && !hl.sent.contains g && !feeding s d l h hl.line g)
          let s := segs.foldl (fun s g => sendSeg s d l h hl g .line) s
          modHeadLine s h hl.line (fun q => { q with sent := q.sent ++ segs })) s

/-- Whether a head line is delivered: every segment acknowledged (R239). -/
def HeadLine.delivered (hl : HeadLine) : Bool :=
  hl.done && (List.range (headSegs hl.total)).all (fun g => hl.acked.contains g)

/-! ### Over-temperature and silence (R210, R246) -/

/-- Whether LIMIT withholds on a row (OVT_POLICY 1). -/
def ovtWithhold (s : State) (h : Nat) : Bool := (rowTiming s (headRow s h)).withhold

/-- LGN_HC_STAT.COOL: lines take the cool table (R210). -/
def headCool (s : State) (h : Nat) : Bool := (headAt s h).temp == 1 && !ovtWithhold s h

/-- LGN_HC_STAT.STOPPED: stopped by over-temperature (R210). -/
def headStopped (s : State) (h : Nat) : Bool := (headAt s h).temp == 2 || ((headAt s h).temp == 1 && ovtWithhold s h)

/-- The cause for which a line whose gather begins now is stopped: 10 OVERTEMP, 13 TELEMETRY, 0 none. -/
def stopCause (s : State) (h : Nat) : Nat := if headStopped s h then 10 else if (headAt s h).silent then 13 else 0

/-- The gather of head line `F` of a channel begins (R25, R343): it takes its place in the output ring, with the tables and the
stop in force now (R206, R210). -/
def startGather (s : State) (h F : Nat) : State :=
  if isFenced s (.head h) then s
  else
    let hl : HeadLine := { line := F, total := headNozzles s h, cool := headCool s h, stop := stopCause s h }
    modHead s h (fun c => { c with lines := c.lines ++ [hl], nextGather := F + 1 })

end Sys2Proof.Machine
end

