-- ==== Sys2Proof/Machine/JobOps.lean ====
section
/-! DEFINITION. The course of a job shared by ticks, gathers, fires and commands (R25, R97, R268, R394-R397): what each row has
gathered and fired, ring slots freed, copy reports, stops and the close. -/

namespace Sys2Proof.Machine

/-! ### What a row has gathered and fired -/

/-- Head channels of a row in service. -/
def rowLive (s : State) (r : Nat) : List Nat := (rowHeads s r).filter (fun h => !isFenced s (.head h))

/-- The least of some numbers, `d` where there are none. -/
def leastOf (d : Nat) (ns : List Nat) : Nat := ns.foldl min d

/-- How many head lines of a channel's job have ended their gather: those before the oldest still gathered. -/
def headEnded (s : State) (h : Nat) : Nat :=
  let c := headAt s h
  leastOf c.nextGather ((c.lines.filter (fun l => !l.done && !l.spit)).map (fun l => l.line))

/-- How many head lines the row's channels have all finished gathering; a row without a channel in service counts the gathers
begun before the newest. -/
def rowEnded (s : State) (r : Nat) (hs : List Nat) : Nat :=
  match hs.map (headEnded s) with
  | [] => (rowAt s r).gathered.getD 0
  | n :: ns => leastOf n ns

/-- How many row lines the row has fired: committed lines whose tick has come and that no channel in service still holds
(R238, R396). -/
def rowFired (s : State) (r : Nat) : Nat :=
  let w := rowAt s r
  let held := (rowLive s r).flatMap (fun h => ((headAt s h).lines.filter (fun l => !l.spit)).map (fun l => l.line))
  leastOf (match w.committed with | some l => l + 1 | none => 0) (w.tickDue.map (fun p => p.1) ++ held)

/-- Greatest stagger gathered on a row. -/
def rowSmax (s : State) (r : Nat) : Nat := (rowStaggers s r).foldl max 0

/-- Row lines a row must have fired for the job lines before `e` to be fired at every stagger (R396, R397). -/
def firedFor (s : State) (r e : Nat) : Nat := (rowTiming s r).ow + e + rowSmax s r

/-- End of the page lines of a job copy. -/
def Job.copyEnd (j : Job) (i : Nat) : Nat := j.start i + 64 * j.bands.getD (i % j.np) 0

/-- The lead row: the job's row with the smallest OW, the lowest-numbered of several (R394). -/
def leadRow (s : State) (j : Job) : Nat :=
  match j.rows with
  | [] => 0
  | r :: rs => rs.foldl (fun m q =>
      if (rowTiming s q).ow < (rowTiming s m).ow ∨ ((rowTiming s q).ow = (rowTiming s m).ow ∧ q < m) then q else m) r

/-- The lead row's last committed job line. -/
def leadLine? (s : State) (j : Job) : Option Nat :=
  let r := leadRow s j
  match (rowAt s r).committed with
  | some l => if (rowTiming s r).ow ≤ l then some (l - (rowTiming s r).ow) else none
  | none => none

/-! ### Ring slots (R24, R97, R268) -/

/-- Head channels in service that gather from a strip. -/
def stripHeads (s : State) (d slot r : Nat) : List Nat :=
  (rowLive s r).filter (fun h => match nozTable? s h with
    | some p => (nozEntries p).any (fun e => !e.unused && e.nozzle / 2048 == 64 * d + slot)
    | none => false)

/-- Whether every cell of a clause is past a line. -/
def cellsPast (s : State) (x : Nat) (l : CLine) : Bool :=
  l.at_.isNone || (List.range 16).all (fun n =>
    let e := cellAt s (cellOfIx x n)
    l.q < e.nextQ && !(match e.cur with | some g => g.q == l.q | none => false))

/-- Free the slots of a clause's lines whose last gather has ended; lines every cell has passed leave the list. -/
def freeSlots (s : State) (x ended smax : Nat) : State :=
  let past (l : CLine) : Bool := l.line + smax < ended
  modClause s x (fun c =>
    { c with lines := (c.lines.filter (fun l => !(past l && l.settled && cellsPast s x l))).map (fun l =>
        if past l && l.settled then { l with slot := none } else l) })

/-- Lines of a DIFFUSION row that waited for a slot take one (R26). -/
def takeSlots (s : State) (x : Nat) : State :=
  if !rowDiffusion (clauseRow s x) then s
  else ((clauseAt s x).lines.map (fun l => l.line)).foldl (fun s L => lineComplete s x L) s

/-- A clause's march and ROM test line begin (R270): TESTING, powered for the test alone. -/
def startTest (s : State) (x : Nat) : State :=
  let s := modClause s x (fun c => { c with st := .testing, powered := true })
  changeFence s (.clause (x / 66) (x % 66)) .testing (fenceOf s (.clause (x / 66) (x % 66))).reason.toNat

/-- Whether a parked command is an UNFENCE of a unit. -/
def Parked.isUnfence (kind die index : Nat) : Parked → Bool
  | .unfence _ k d i => k == kind && d == die && i == index
  | _ => false

/-- Whether a FENCING clause's slot has been taken over: another clause serves it (R268). One without a spare keeps its slot (R269). -/
def takenOver (s : State) (x : Nat) : Bool :=
  let c := clauseAt s x
  c.st == .fencing && servedBy? s (x / 66) c.slot != some (x % 66)

/-- A FENCING clause that has been taken over and whose ring's last gather has ended is FENCED and powered off, or returns to SPARE; an
UNFENCE that waited for it begins its test (R261, R268, R403). -/
def fencedIfDrained (s : State) (x : Nat) : State :=
  let c := clauseAt s x
  if takenOver s x ∧ !c.lines.any (fun l => l.slot.isSome || !l.settled) then
    let s := powerOffClause (setClause s x { c with st := .fenced, lines := [], input := [], preparing := none }) x
    if c.returns then returnSpare s x
    else if s.parked.any (Parked.isUnfence 1 (x / 66) (x % 66)) then startTest s x else s
  else s

/-- Free what the gathers of a row have finished with. -/
def freeRow (s : State) (r : Nat) : State :=
  (s.gram.slots.filter (fun g => g.row == r)).foldl (fun s g =>
    let ended := rowEnded s r (stripHeads s g.die g.slot r)
    (slotClauses s g.die g.slot).foldl (fun s x =>
      fencedIfDrained (takeSlots (freeSlots s x ended (smaxOf s g.die g.slot)) x) x) s) s

/-- Overlay blocks of copies whose last line every row has gathered are freed (R97). -/
def freeOverlays (s : State) : State :=
  match s.job with
  | none => s
  | some j =>
    let past (i : Nat) : Bool := j.rows.all (fun r => decide (firedFor s r (j.copyEnd i) ≤ rowEnded s r (rowLive s r)))
    ((List.range (j.begun + 1)).filter (fun i => j.ready ≤ i && i < j.begun && past i)).foldl (fun s i =>
      let pg := j.pageOf i
      let cp : Word := BitVec.ofNat 32 (j.copyNo i)
      if s.blocks.any (fun b => b.id.page == pg && b.id.copy == cp && !b.old) then
        deleteBlocks s (fun b => b.id.page == pg && b.id.copy == cp && b.id.copy != 0)
      else s) s

/-! ### Reports (R397) -/

/-- The report of a copy: result bytes. -/
def copyReport (j : Job) (i : Nat) : List Byte :=
  let d := sget {} j.defects i
  let stopped : Nat := match j.stoppedFrom with | some n => if n ≤ i then 2 else 0 | none => 0
  natLE 1 1 ++ (natLE 1 ((if d.flag then 1 else 0) + stopped) ++ (natLE 2 d.causes.toNat ++ (natLE 4 j.id.toNat ++
    (natLE 4 (j.pageOf i).toNat ++ (natLE 4 (j.copyNo i) ++ natLE 4 d.lost)))))

/-- Copies printed in full. -/
def Job.completed (j : Job) : Nat := match j.stoppedFrom with | some n => min n j.ready | none => j.ready

/-- The JOB_END report. -/
def endReport (j : Job) : List Byte :=
  natLE 1 2 ++ (natLE 1 0 ++ (natLE 2 j.reasons.toNat ++ (natLE 4 j.id.toNat ++ (natLE 4 j.completed ++
    (natLE 4 j.defective ++ natLE 4 j.allLost)))))

/-- The next undelivered report and what its delivery leaves (R397, R398). -/
def nextReport? (s : State) : Option (List Byte × State) :=
  match s.job with
  | none => none
  | some j =>
    if j.reported < j.ready then
      let flag := (sget {} j.defects j.reported).flag
      some (copyReport j j.reported,
        { s with job := some { j with reported := j.reported + 1, defects := sput {} j.defects j.reported {},
                                      defective := if flag then j.defective + 1 else j.defective } })
    else if j.st = .closed then some (endReport j, { s with job := none })
    else none

/-- Whether a parked command is a REPORT. -/
def Parked.isReport : Parked → Bool
  | .report _ => true
  | _ => false

/-- Reports go to the parked REPORT commands, in the order they were fetched (R378, R397). `fuel` bounds them. -/
def serveReports (s : State) : Nat → State
  | 0 => s
  | fuel + 1 =>
    match s.parked.find? Parked.isReport, nextReport? s with
    | some (.report h), some (res, s') =>
      serveReports (finish { s' with parked := s'.parked.eraseP Parked.isReport } h 0x0208 res) fuel
    | _, _ => s

/-- Serve every parked REPORT that can be. -/
def serveAll (s : State) : State := serveReports s (s.parked.length + 1)

/-! ### Stops and the close (R394-R396) -/

/-- A stop at a copy chooses its boundary, unless one is in force already (R394, R395). `bit` is the end reason. -/
def stopAt (s : State) (boundary bit : Nat) : State :=
  match s.job with
  | none => s
  | some j =>
    if j.boundary.isSome then s
    else
      let rows := j.rows
      let s := { s with job := some { j with boundary := some boundary, cut := some boundary, reasons := j.reasons ||| (1#16 <<< bit) } }
      rows.foldl (fun s r => modRow s r (fun w => { w with st := if w.st = .run then .stopping else w.st })) s

/-- The boundary that AT_COPY chooses now: the smallest copy that begins beyond the lead row's last committed job line. -/
def atCopyBoundary (s : State) (j : Job) : Nat :=
  match leadLine? s j with
  | none => 0
  | some l =>
    match j.copyAt l with
    | none => j.copies
    | some i => i + 1

/-- The work of a clause for a job is over: its lines, input and decoding are dropped; its cells take the next line number. -/
def clauseIdle (s : State) (x : Nat) : State :=
  let q := (clauseAt s x).nextQ
  let s := modClause s x (fun c => { c with lines := [], input := [], dec0 := {}, dec1 := {}, nextLine := 0, nextBand := 0,
                                            ovlWait := false, rewindWait := false, suspectOff := false,
                                            haloLost := c.haloLost.map (fun _ => 0) })
  (List.range 16).foldl (fun s n => modCell s (cellOfIx x n) (fun e => { e with nextQ := q, inq := [], recWords := [], logs := [] })) s

/-- Physical clauses that work for the slots of a row. -/
def rowClauses (s : State) (r : Nat) : List Nat :=
  (s.gram.slots.filter (fun g => g.row == r)).flatMap (fun g => slotClauses s g.die g.slot)

/-- The clauses of a job's rows have nothing left to expand; one that was FENCING after its takeover is FENCED. -/
def clausesIdle (s : State) (rows : List Nat) : State :=
  rows.foldl (fun s r => (rowClauses s r).foldl (fun s x => fencedIfDrained (clauseIdle s x) x) s) s

/-- The job closes: runs end, reports of copies cut short become ready, overlay blocks of its pages are freed and their sets
reopened, rows are IDLE (R274, R396, R397). -/
def closeJob (s : State) (bits : BitVec 16) : State :=
  match s.job with
  | none => s
  | some j =>
    if j.st = .closed then s
    else
      let s := endRuns s (fun _ => true)
      let s := freeBlocks s (fun b => b.id.copy != 0 && !b.cached && j.pages.contains b.id.page)
      let s := { s with closed := s.closed.filter (fun c => !j.pages.contains c.1) }
      let s := clausesIdle s j.rows
      let s := j.rows.foldl (fun s r => modRow s r (fun w => { w with st := .idle, pred := none, tickDue := [], gathered := none })) s
      let s := freeOld { s with job := s.job.map (fun j =>
        { j with st := .closed, reasons := j.reasons ||| bits, ready := max j.ready j.begun,
                 stoppedFrom := if j.ready < j.begun then some j.ready else none }) }
      let s := if s.power.st = .printing then { s with power := { s.power with st := .ready, target := .ready, moving := false } } else s
      serveAll s

/-- Job lines that every row must have fired before the job closes: those before the boundary (R396). -/
def Job.endLine (j : Job) : Nat := j.start j.bound

/-- Whether a row has fired its last line of the job (R396). -/
def rowFinished (s : State) (j : Job) (r : Nat) : Bool :=
  if j.now_ then match (rowAt s r).nowLine with
    | some l => decide (l < rowFired s r)
    | none => true
  else decide (firedFor s r j.endLine ≤ rowFired s r)

/-- Copies whose last line every row has fired become ready to report, their runs ended (R274, R397); after a NOW stop only those
before its boundary are printed in full. `fuel` bounds them. -/
def readyCopies (s : State) : Nat → State
  | 0 => s
  | fuel + 1 =>
    match s.job with
    | none => s
    | some j =>
      let full : Bool := !j.now_ || decide (j.ready < j.boundary.getD 0)
      if j.st = .running ∧ full ∧ j.ready < j.begun ∧ j.rows.all (fun r => decide (firedFor s r (j.copyEnd j.ready) ≤ rowFired s r)) then
        let i := j.ready
        let s := endRuns s (fun r => r.jobCopy == i)
        readyCopies { s with job := s.job.map (fun j => { j with ready := i + 1 }) } fuel
      else s

/-- After a fire, a tick or a fence: reports that become ready, rows that have finished, and the close of the job. -/
def jobAdvance (s : State) : State :=
  match s.job with
  | none => s
  | some j =>
    if j.st ≠ .running then s
    else
      let s := readyCopies s (j.begun + 1 - j.ready)
      let s := j.rows.foldl (fun s r => if rowFinished s j r then modRow s r (fun w => { w with st := .idle }) else s) s
      let s := if j.rows.all (rowFinished s j) then closeJob s 0 else s
      serveAll s

/-! ### A head channel leaves the job -/

/-- The copies that the lines of a channel touch: those holding job lines L - OW - s, for the staggers it gathers (R197, R203). -/
def copiesOfLine (s : State) (r L : Nat) (staggers : List Nat) : List (Nat × PLine) :=
  match s.job with
  | none => []
  | some j =>
    let ow := (rowTiming s r).ow
    let ps := (staggers.eraseDups.filter (fun g => ow + g ≤ L)).filterMap (fun g => j.place (L - ow - g))
    ps.foldl (fun acc p => if acc.any (fun q => q.1 == p.jobCopy) then
        acc.map (fun q => if q.1 = p.jobCopy ∧ p.pageLine < q.2.pageLine then (q.1, p) else q) else acc ++ [(p.jobCopy, p)]) []

/-- Staggers of a channel's entries. -/
def headStaggers (s : State) (h : Nat) : List Nat :=
  match nozTable? s h with
  | some p => ((nozEntries p).filter (fun e => !e.unused)).map (fun e => e.stagger)
  | none => []

/-- A skipped fire joins the run of its copy, row and cause, or opens one; the 255th line ends it (R274, R508). Fires that channels of
one row skip on one row line are one line of the run. -/
def addSkip (s : State) (i : Nat) (p : PLine) (row cause L die : Nat) : State :=
  let same (r : Run) : Bool := r.jobCopy == i && r.row == row && r.strip == 0xFFFF && r.cause == cause
  match s.job with
  | none => s
  | some j =>
    match j.runs.find? same with
    | none =>
      let r : Run := ⟨i, p.page, p.copy, row, 0xFFFF, cause, p.pageLine, L, 1, tb64 s, die⟩
      { s with job := some { j with runs := j.runs ++ [r] } }
    | some r =>
      if r.last = L then s
      else if 255 ≤ r.count + 1 then
        logRun { s with job := some { j with runs := j.runs.filter (fun q => !same q) } } { r with last := L, count := r.count + 1 }
      else { s with job := some { j with runs := j.runs.map (fun q => if same q then { r with last := L, count := r.count + 1 } else q) } }

/-- Flag the copies a skipped line touches, each losing a line, and keep their runs of skipped fires (R273, R274, R508); lines
gathered after a NOW stop hold zeros. -/
def skipCopies (s : State) (r h L cause : Nat) : State :=
  let zero : Bool := match s.job with
    | some j => j.now_ && (match (rowAt s r).nowLine with | some n => decide (n < L) | none => true)
    | none => true
  if zero then s
  else (copiesOfLine s r L (headStaggers s h)).foldl (fun s c =>
    addSkip (flagCopy s c.1 cause 1) c.1 c.2 r cause L (headDie s h)) s

end Sys2Proof.Machine
end

