-- ==== Sys2Proof/Machine/PowerOps.lean ====
section
/-! DEFINITION. What power states do to the rest of the part (R447, R464-R469): the rise to Ready, and the event log's rings. -/

namespace Sys2Proof.Machine

/-- Entries of the RAM ring (R447). -/
def ramRingSize : Nat := 2048

/-- Entries go into the RAM ring, the oldest overwritten (R447). -/
def pushRam (s : State) (es : List SeqEntry) : State :=
  let ram := s.log.ram ++ es
  { s with log := { s.log with ram := ram.drop (ram.length - ramRingSize) } }

/-- On leaving Sleep the buffer moves to the RAM ring, and entries that did not fit it are counted in one EVENTS_LOST (R447). -/
def leaveSleepLog (s : State) : State :=
  let lost := s.log.sleepLost
  let s := pushRam s s.log.sleep
  let s := { s with log := { s.log with sleep := [], sleepLost := 0 } }
  if lost = 0 then s else logEv s 0 0x0004 (valueData 0 lost 0 0)

/-- Every clause number of the member. -/
def allClauses (s : State) : List Nat := List.range (66 * s.part.dies)

/-- Clauses powered again on leaving Sleep: those that serve or drain a slot are brought into the state a Dialect load gives
them; spares are powered (R468, R469). -/
def restoreClauses (s : State) : State :=
  (allClauses s).foldl (fun s x =>
    let c := clauseAt s x
    if c.st = .serving ∨ c.st = .fencing then loadClause (modClause s x (fun c => { c with powered := true })) x
    else if c.st = .spare then
      let s := modClause s x (fun c => { c with powered := true })
      if c.spareFor.isSome then loadClause s x else s
    else s) s

/-- DRAM channels leave self-refresh through a fast retrain (R466). -/
def fastRetrains (s : State) : State :=
  (List.range (2 * s.part.dies)).foldl (fun s i => modDdr s i (fun c => if c.st = .active then { c with st := .retrain } else c)) s

/-- The part rises to Ready from Idle or Sleep (R382, R465, R466); a descent under way turns into the rise. -/
def riseReady (s : State) : State :=
  let up (s : State) : State := { s with power := { s.power with st := .ready, target := .ready, moving := false } }
  match s.power.st with
  | .idle => up s
  | .sleep => fastRetrains (restoreClauses (leaveSleepLog (up s)))
  | .ready => up s
  | _ => s

/-- Entering Sleep: clauses of used slots and spares go off and lose their contents (R464, R466). -/
def clausesOff (s : State) : State :=
  (allClauses s).foldl (fun s x => if (clauseAt s x).powered then powerOffClause s x else s) s

end Sys2Proof.Machine
end

