-- ==== Sys2Proof/Machine/MotionOps.lean ====
section
/-! DEFINITION. Axes and service groups (R409-R433): records, the profile generator, phase currents, stops, homing, faults, and the
steps of a service. -/

namespace Sys2Proof.Machine

/-! ### Records (R413, R426) -/

/-- The fields of an axes record. -/
structure AxisRec where
  stopRef : Bool
  invert : Bool
  homeLow : Bool
  limLow : Bool
  homePos : Bool
  encInvert : Bool
  irun : Nat
  ihold : Nat
  holdDelay : Nat
  debounce : Nat
  ratio : Nat
  stallWin : Nat
  stallTime : Nat
  softMin : Int
  softMax : Int
  thr : List Nat
  vfast : Nat
  vslow : Nat
  backoff : Nat
  backoffMax : Nat
  refPos : Int
  iref : Nat
  nprof : Nat
  stopProf : Nat
  profs : List (Nat × Nat × Nat)
deriving DecidableEq, Repr

/-- The fields of a payload (R413). -/
def axisRecOf (b : List Byte) : AxisRec :=
  let f := leAt b 1 1
  { stopRef := leAt b 0 1 = 1, invert := f.testBit 0, homeLow := f.testBit 1, limLow := f.testBit 2, homePos := f.testBit 3,
    encInvert := f.testBit 4, irun := leAt b 2 1, ihold := leAt b 3 1, holdDelay := leAt b 4 2, debounce := leAt b 6 2,
    ratio := leAt b 8 4, stallWin := leAt b 0x0C 2, stallTime := leAt b 0x0E 2, softMin := signedNat 32 (leAt b 0x10 4),
    softMax := signedNat 32 (leAt b 0x14 4), thr := [leAt b 0x18 2, leAt b 0x1A 2, leAt b 0x1C 2, leAt b 0x1E 2],
    vfast := leAt b 0x20 2, vslow := leAt b 0x22 2, backoff := leAt b 0x24 4, backoffMax := leAt b 0x28 4,
    refPos := signedNat 32 (leAt b 0x2C 4), iref := leAt b 0x30 1, nprof := leAt b 0x31 1, stopProf := leAt b 0x32 1,
    profs := (List.range (leAt b 0x31 1)).map (fun p => (leAt b (0x34 + 12 * p) 4, leAt b (0x38 + 12 * p) 4, leAt b (0x3C + 12 * p) 4)) }

/-- The record of an axis; none: unconfigured (R414). -/
def axisRec? (s : State) (a : Nat) : Option AxisRec := (param? s 0x0401 a).map (fun p => axisRecOf p.payload)

/-- The fields of a services record. -/
structure SvcRec where
  lift : Nat
  cap : Nat
  wiper : Nat
  pump : Nat
  spitAfter : Bool
  spitCode : Nat
  stride : Nat
  liftPrint : Int
  liftService : Int
  liftWipe : Int
  liftCap : Int
  capPark : Int
  capOn : Int
  wipePark : Int
  wipeEnd : Int
  liftProf : Nat
  capProf : Nat
  wipeProf : Nat
  wipeRet : Nat
  pumpProf : Nat
  spitLines : Nat
  period : Nat
  purgeSteps : Nat
  purgeDwell : Nat
  heads : List Nat
deriving DecidableEq, Repr

/-- The fields of a payload (R426). -/
def svcRecOf (b : List Byte) : SvcRec :=
  let i (o : Nat) : Int := signedNat 32 (leAt b o 4)
  { lift := leAt b 0 1, cap := leAt b 1 1, wiper := leAt b 2 1, pump := leAt b 3 1, spitAfter := (leAt b 5 1).testBit 0,
    spitCode := leAt b 6 1, stride := leAt b 7 1, liftPrint := i 8, liftService := i 0x0C, liftWipe := i 0x10, liftCap := i 0x14,
    capPark := i 0x18, capOn := i 0x1C, wipePark := i 0x20, wipeEnd := i 0x24, liftProf := leAt b 0x28 1, capProf := leAt b 0x29 1,
    wipeProf := leAt b 0x2A 1, wipeRet := leAt b 0x2B 1, pumpProf := leAt b 0x2C 1, spitLines := leAt b 0x30 2,
    period := leAt b 0x32 2, purgeSteps := leAt b 0x34 4, purgeDwell := leAt b 0x38 2,
    heads := (List.range (leAt b 4 1)).map (fun n => leAt b (0x3C + 2 * n) 2) }

/-- The record of a service group. -/
def svcRec? (s : State) (g : Nat) : Option SvcRec := (param? s 0x0402 g).map (fun p => svcRecOf p.payload)

/-- The axes that hold a role. -/
def SvcRec.axes (r : SvcRec) : List Nat := [r.lift, r.cap, r.wiper, r.pump].filter (fun a => a != 0xFF)

/-- The group an axis holds a role in. -/
def axisGroup? (s : State) (a : Nat) : Option Nat :=
  (List.range 16).find? (fun g => match svcRec? s g with | some r => r.axes.contains a | none => false)

/-- Whether an axis holds the PUMP role (R427). -/
def isPump (s : State) (a : Nat) : Bool :=
  (List.range 16).any (fun g => match svcRec? s g with | some r => r.pump == a && a != 0xFF | none => false)

/-- Whether an open job covers a head channel of a group. -/
def groupCovered (s : State) (g : Nat) : Bool :=
  match svcRec? s g with | some r => r.heads.any (jobCovers s) | none => false

/-! ### Fixed point -/

/-- A position in the generator's units, from 1/256 full steps. -/
def posU (x : Int) : Int := x * 2 ^ 64

/-- A position register value: 1/256 full steps. -/
def Axis.posReg (x : Axis) : Int := x.pos / 2 ^ 64

/-- A speed in units per tick, from full steps per second: a tick is 1,024 cycles of 50 MHz (R410). -/
def velU (v : Nat) : Int := (v * 2 ^ 72 * 1024 / 50000000 : Nat)

/-- An acceleration in units per tick squared. -/
def accU (a : Nat) : Int := (a * 2 ^ 72 * 1024 ^ 2 / 50000000 ^ 2 : Nat)

/-- A jerk in units per tick cubed, at least 1. -/
def jerkU (j : Nat) : Int := (max 1 (j * 2 ^ 72 * 1024 ^ 3 / 50000000 ^ 3) : Nat)

/-- Integer square root from a power of two down. -/
def isqrtFrom (n : Nat) : Nat → Nat → Nat
  | 0, r => r
  | b + 1, r => isqrtFrom n b (if (r + 2 ^ b) * (r + 2 ^ b) ≤ n then r + 2 ^ b else r)

/-- Integer square root of numbers below 2^240. -/
def isqrt (n : Nat) : Nat := isqrtFrom n 120 0

/-- Stopping distance from speed `v` (not negative) with no acceleration (R416). -/
def restDist (v aMax j : Int) : Int :=
  if aMax * aMax ≤ v * j then v * v / (2 * aMax) + v * aMax / (2 * j) else v * (isqrt (v * j).toNat : Nat) / j

/-- Stopping distance from speed `v` (not negative) and acceleration `a`: the acceleration is first taken to 0, or is already
part of the deceleration; a deceleration too strong for the speed carries the axis back. -/
def stopFwd (v a aMax j : Int) : Int :=
  if 0 ≤ a then v * a / j + a * a * a / (3 * j * j) + restDist (v + a * a / (2 * j)) aMax j
  else
    let b := -a
    if b * b ≤ 2 * j * v then
      let v0 := v + b * b / (2 * j)
      restDist v0 aMax j - (v0 * b / j - b * b * b / (6 * j * j))
    else v * b / j - b * b * b / (3 * j * j) - restDist (b * b / (2 * j) - v) aMax j

/-- Distance from here to rest if the axis decelerates at once within the limits (R416). -/
def stopDist (v a aMax j : Int) : Int := if 0 ≤ v then stopFwd v a aMax j else - stopFwd (-v) (-a) aMax j

/-- The first acceleration, from the strongest allowed toward the target down in eighths of the jerk, that keeps the speed limit and
does not carry the stopping point past the target, `r` ahead; the strongest deceleration when none does. All in the frame in
which the target lies ahead. -/
def pickAcc (r v a vMax aMax j : Int) : Nat → Int
  | 0 => max (-aMax) (a - j)
  | n + 1 =>
    let a1 := max (-aMax) (min aMax (a + j * ((n : Int) - 8) / 8))
    let v1 := v + a1
    if v1 + (if 0 < a1 then a1 * a1 / (2 * j) else 0) ≤ vMax ∧ stopDist v1 a1 aMax j + v1 ≤ r then a1
    else pickAcc r v a vMax aMax j n

/-- One tick of the profile generator toward a target: position, velocity, acceleration (R415; the order in which it tries
accelerations is the model's, assumption 9). Within a tick's travel of the target, at rest but for the last steps of jerk, it is
there. -/
def profStep (p v a t vMax aMax j : Int) : Int × Int × Int :=
  let r := t - p
  if v.natAbs ≤ (8 * j).natAbs ∧ r.natAbs ≤ (8 * j).natAbs + v.natAbs then (t, 0, 0)
  else
    let sgn : Int := if 0 < r ∨ (r = 0 ∧ v < 0) then 1 else -1
    let a1 := pickAcc (sgn * r) (sgn * v) (sgn * a) vMax aMax j 17
    (p + v + sgn * a1, v + sgn * a1, sgn * a1)

/-! ### Phase currents (R410, R417) -/

/-- Part 0 of the quarter wave. -/
def cosPart0 : List Nat :=
  [1023, 1023, 1023, 1023, 1023, 1023, 1022, 1022, 1022, 1021, 1021, 1021, 1020, 1020, 1019, 1019, 1018, 1017, 1017,
   1016, 1015, 1015, 1014, 1013, 1012, 1011, 1010, 1009, 1008, 1007, 1006, 1005, 1003, 1002, 1001, 999, 998, 997, 995,
   994, 992, 991, 989, 988, 986, 984, 983, 981, 979, 977, 975, 973, 971, 969, 967, 965, 963, 961, 959, 957, 954, 952,
   950, 948]

/-- Part 1 of the quarter wave. -/
def cosPart1 : List Nat :=
  [945, 943, 940, 938, 935, 933, 930, 927, 925, 922, 919, 917, 914, 911, 908, 905, 902, 899, 896, 893, 890, 887, 884,
   881, 877, 874, 871, 868, 864, 861, 858, 854, 851, 847, 844, 840, 836, 833, 829, 825, 822, 818, 814, 810, 806, 803,
   799, 795, 791, 787, 783, 779, 775, 771, 766, 762, 758, 754, 750, 745, 741, 737, 732, 728]

/-- Part 2 of the quarter wave. -/
def cosPart2 : List Nat :=
  [723, 719, 714, 710, 705, 701, 696, 692, 687, 682, 678, 673, 668, 663, 659, 654, 649, 644, 639, 634, 629, 624, 619,
   614, 609, 604, 599, 594, 589, 584, 579, 574, 568, 563, 558, 553, 547, 542, 537, 531, 526, 521, 515, 510, 504, 499,
   493, 488, 482, 477, 471, 466, 460, 454, 449, 443, 437, 432, 426, 420, 415, 409, 403, 397]

/-- Part 3 of the quarter wave. -/
def cosPart3 : List Nat :=
  [391, 386, 380, 374, 368, 362, 356, 351, 345, 339, 333, 327, 321, 315, 309, 303, 297, 291, 285, 279, 273, 267, 261,
   255, 249, 242, 236, 230, 224, 218, 212, 206, 200, 193, 187, 181, 175, 169, 163, 156, 150, 144, 138, 131, 125, 119,
   113, 107, 100, 94, 88, 82, 75, 69, 63, 56, 50, 44, 38, 31, 25, 19, 13, 6]

/-- Part 4 of the quarter wave. -/
def cosPart4 : List Nat :=
  [0]

/-- round(1,023 cos(2 pi e / 1,024)) for e from 0 to 256 (R410). -/
def cosTab : List Nat := cosPart0 ++ (cosPart1 ++ (cosPart2 ++ (cosPart3 ++ cosPart4)))

/-- round(1,023 cos(2 pi e / 1,024)). -/
def cosE (e : Nat) : Int :=
  let e := e % 1024
  if e ≤ 256 then (cosTab.getD e 0 : Nat)
  else if e ≤ 512 then - (cosTab.getD (512 - e) 0 : Nat)
  else if e ≤ 768 then - (cosTab.getD (e - 512) 0 : Nat)
  else (cosTab.getD (1024 - e) 0 : Nat)

/-- Speed in full steps per second, 16.16 (R432). -/
def Axis.velReg (x : Axis) : Int := x.vel * 50000000 / 2 ^ 66

/-- Whether the speed is at least `n`/8 of `v` full steps per second. -/
def Axis.fasterThan (x : Axis) (v n : Nat) : Bool := decide (n * v * 2 ^ 82 ≤ 8 * x.vel.natAbs * 50000000)

/-- The resolution for the next tick: at most one grade per full-step boundary (R417). -/
def nextRes (r : AxisRec) (x : Axis) (old : Int) : BitVec 3 :=
  if old / 2 ^ 72 = x.pos / 2 ^ 72 then x.res
  else
    let n := x.res.toNat
    if n < 4 && x.fasterThan (r.thr.getD n 0) 8 then x.res + 1
    else if 0 < n && !x.fasterThan (r.thr.getD (n - 1) 0) 7 then x.res - 1
    else x.res

/-- The current of the phases: IREF while a hard stop is referenced, IRUN in motion and for HOLD_DELAY after, else IHOLD (R410,
R422, R424). -/
def axisCurrent (r : AxisRec) (x : Axis) : Nat :=
  if x.st = .fenced ∨ x.st = .stalled then r.ihold
  else if x.goal = .seek then r.iref
  else if x.vel ≠ 0 ∨ !x.holdLow then r.irun else r.ihold

/-- The duties and signs of both phases at the quantised position (R410). -/
def setPwm (r : AxisRec) (x : Axis) : Axis :=
  let q := (x.posReg / (4 ^ x.res.toNat : Nat)) * (4 ^ x.res.toNat : Nat)
  let e := (q % 1024).toNat
  let i := axisCurrent r x
  let a := cosE e
  let b := cosE (e + 768)
  { x with dutyA := BitVec.ofNat 10 ((a.natAbs * i + 127) / 255), dutyB := BitVec.ofNat 10 ((b.natAbs * i + 127) / 255),
           dirA := decide (0 ≤ a) != r.invert, dirB := decide (0 ≤ b) != r.invert }

/-- The encoder position in 1/256 full steps (R411), counted from the position given at the last energising or reference. -/
def Axis.encPos (x : Axis) (r : AxisRec) : Int :=
  if r.ratio = 0 then 0 else x.encBase + (Int.tdiv (x.cnt * 2 ^ 24) r.ratio) * (if r.encInvert then -1 else 1)

/-! ### Starting and ending motion -/

/-- Whether an axis moves. -/
def Axis.moving (x : Axis) : Bool := x.st == .move || x.st == .homing || x.st == .stopping

/-- An axis is energised when a motion first needs it (DEDUCED, assumption 10): encoder count from here. -/
def energise (x : Axis) : Axis :=
  if x.st = .off then { x with st := .hold, cnt := 0, encBase := x.posReg, holdLow := false } else x

/-- Whether a parked command moves this axis. -/
def Parked.isAxis (a : Nat) : Parked → Bool
  | .axis _ b _ => a == b
  | _ => false

/-- Whether a parked command is the service of a group. -/
def Parked.isService (g : Nat) : Parked → Bool
  | .service _ k => g == k
  | _ => false

/-- The parked command of an axis completes. -/
def endAxisCmd (s : State) (a status : Nat) : State :=
  match s.parked.find? (Parked.isAxis a) with
  | some (.axis h _ op) => complete { s with parked := s.parked.eraseP (Parked.isAxis a) } h op status []
  | _ => s

/-- A service ends without success: STATE or CANCELLED, and the group takes a state (R428-R430). -/
def endService (s : State) (g status : Nat) (st : GrpState) : State :=
  let s := { s with axes := s.axes.map (fun p => (p.1, if p.2.group = some g then { p.2 with group := none } else p.2)) }
  let s := modSvc s g (fun q => { q with st := st, steps := [] })
  match s.parked.find? (Parked.isService g) with
  | some (.service h _) => complete { s with parked := s.parked.eraseP (Parked.isService g) } h 0x0801 status []
  | _ => s

/-- What an axis worked for ends without success. -/
def axisFailed (s : State) (a status : Nat) : State :=
  let s := endAxisCmd s a status
  match (axisAt s a).group with
  | some g => endService s g status .failed
  | none => s

/-- Stop with deceleration: the target becomes the stopping point at STOP_PROF (R418). -/
def stopDecel (s : State) (a : Nat) (goal : AxisGoal) : State :=
  match axisRec? s a with
  | none => s
  | some r =>
    let x := axisAt s a
    if !x.moving then s
    else
      let p := r.profs.getD r.stopProf (1, 1, 1)
      setAxis s a { x with st := if goal = .stop then .stopping else x.st, goal := goal, prof := r.stopProf,
                           target := x.pos + stopDist x.vel x.acc (accU p.2.1) (jerkU p.2.2) }

/-- Freeze the commanded position (R418 MODE 1): the reference is lost. -/
def freezeAxis (s : State) (a : Nat) : State :=
  modAxis s a (fun x => if x.st = .off ∨ x.st = .fenced then { x with referenced := false } else
    { x with st := .hold, goal := .none, vel := 0, acc := 0, target := x.pos, referenced := false, repeat_ := none, repeating := false,
             restTick := s.tb })

/-- An axis is fenced (R424): it holds at IHOLD, loses its reference, and what it worked for ends with STATE. Its group becomes
FAILED. -/
def fenceAxis (s : State) (a reason : Nat) : State :=
  if isFenced s (.axis a) then s
  else
    let s := modAxis s a (fun x => { x with st := .fenced, goal := .none, vel := 0, acc := 0, target := x.pos, referenced := false,
                                            holdLow := true, repeat_ := none, repeating := false })
    let s := changeFence s (.axis a) .fenced reason
    let s := axisFailed s a stState
    match axisGroup? s a with
    | some g => modSvc s g (fun q => { q with st := .failed, steps := [] })
    | none => s

/-- A fault of an axis: transient, or permanent within AXIS_WIN seconds of the one before (R260, R263, R419). -/
def axisFault (s : State) (a : Nat) : State :=
  if faultRepeats s (.axis a) s.tb ((integ s).axisWin * secTicks) then fenceAxis s a 1 else noteTransient s (.axis a) s.tb

/-- Give an axis a target with a profile; while it moves, this retargets it: on toward a target at or beyond the stopping point,
else to rest there and back (R416). -/
def aimAxis (r : AxisRec) (x : Axis) (target : Int) (prof : Nat) : Axis :=
  let x := energise x
  let p := r.profs.getD prof (1, 1, 1)
  let x := { x with prof := prof, holdLow := false, repeat_ := none, repeating := false }
  if x.st = .move ∨ x.st = .stopping then
    let stop := x.pos + stopDist x.vel x.acc (accU p.2.1) (jerkU p.2.2)
    let beyond := if 0 ≤ x.vel then stop ≤ posU target else posU target ≤ stop
    if beyond then { x with st := .move, goal := .target, target := posU target }
    else { x with st := .move, goal := .reverse (posU target), target := stop }
  else { x with st := .move, goal := .target, target := posU target }

/-- Direction H: 1 positive, -1 negative. -/
def AxisRec.dirH (r : AxisRec) : Int := if r.homePos then 1 else -1

/-- Begin a homing phase: 1 fast approach, 2 back-off, 3 slow approach (R421). -/
def homePhase (r : AxisRec) (x : Axis) (n : Nat) : Axis :=
  let dir := if n = 2 then - r.dirH else r.dirH
  { x with st := .homing, goal := .home n, prof := r.stopProf, target := x.pos + posU (dir * r.backoffMax),
           clearFrom := if n = 2 ∧ x.homeSeen ∧ !x.home then some x.pos else none, holdLow := false }

/-- Begin AXIS_HOME: by switch, or by hard stop (R421, R422). A phase whose end already holds ends at its first tick. An axis that held its
reference keeps it until one of the cases of R423. -/
def beginHome (r : AxisRec) (x : Axis) : Axis :=
  let x := { energise x with homeSeen := false, clearFrom := none, overTicks := 0, repeat_ := none,
                             repeating := false }
  if r.stopRef then
    { x with st := .homing, goal := .seek, prof := r.stopProf, target := x.pos + posU (r.dirH * r.backoffMax),
             holdLow := false }
  else homePhase r x 1

/-- The speed and limits in force for an axis, in units. -/
def axisLimits (r : AxisRec) (x : Axis) : Int × Int × Int :=
  let p := r.profs.getD x.prof (1, 1, 1)
  let v := match x.goal with
    | .home 1 => velU r.vfast
    | .home 2 => velU r.vslow
    | .home 3 => velU r.vslow
    | .seek => velU r.vslow
    | .backoff => velU r.vslow
    | _ => velU p.1
  (max 1 v, max 1 (accU p.2.1), jerkU p.2.2)

/-! ### Services (R428-R430) -/

/-- Final codes of spit line `k` of a channel (R430). -/
def spitCodes (s : State) (r : SvcRec) (h k : Nat) : List (BitVec 4) :=
  match nozTable? s h with
  | none => []
  | some p => (List.range (nozCount p)).map (fun i =>
      if !(nozEntry p i).unused ∧ (i + k) % r.stride = 0 then BitVec.ofNat 4 r.spitCode else 0)

/-- Produce spit line `k` on the group's channels in service and send what may be sent. -/
def spitLine (s : State) (r : SvcRec) (k : Nat) : State :=
  (r.heads.filter (fun h => !isFenced s (.head h))).foldl (fun s h =>
    let hl : HeadLine := { line := k, codes := spitCodes s r h k, total := headNozzles s h, done := true, spit := true }
    sendReady (modHead s h (fun c => { c with lines := c.lines ++ [hl] })) h) s

/-- The spit begins: links leave idle, each channel is sent the LINE_BASE naming line 0, and line 0 is made ready; the first spit tick comes
1 ms later (R430). -/
def beginSpit (s : State) (g : Nat) (r : SvcRec) : State :=
  let hs := r.heads.filter (fun h => !isFenced s (.head h))
  let s := exitIdleFor s hs
  let s := hs.foldl (fun s h => newLineBase (modHead s h (fun c => { c with lines := c.lines.filter (fun l => !l.spit) })) h 0) s
  spitLine (modSvc s g (fun q => { q with spitLine := 0, spitAt := s.tb + msTicks })) r 0

/-- Whether a limit is active in the direction of a target (R420). -/
def limitBlocks (x : Axis) (target : Int) : Bool :=
  (x.limP && decide (x.pos < posU target)) || (x.limN && decide (posU target < x.pos))

/-- Run a service from its next step until it waits for something; a service without steps left completes OK; a move
toward an active limit ends it with STATE (R420, R429). `fuel` bounds the steps taken at once. -/
def runService (s : State) (g : Nat) : Nat → State
  | 0 => s
  | fuel + 1 =>
    let q := svcAt s g
    match svcRec? s g with
    | none => s
    | some r =>
      match q.steps with
      | [] =>
        let s := modSvc s g (fun q => { q with done := q.done + 1 })
        endService s g stOk q.endState
      | st :: rest =>
        let pop (s : State) : State := modSvc s g (fun q => { q with steps := rest })
        match st with
        | .homeAxis a =>
          if (axisAt s a).referenced then runService (pop s) g fuel
          else match axisRec? s a with
            | some ar => modAxis s a (fun x => { beginHome ar x with group := some g })
            | none => endService s g stState .failed
        | .moveTo a t p =>
          let x := axisAt s a
          if x.pos = posU t ∧ !x.moving then runService (pop s) g fuel
          else if limitBlocks x t then endService s g stState .failed
          else match axisRec? s a with
            | some ar => modAxis s a (fun x => { aimAxis ar x t p with group := some g })
            | none => endService s g stState .failed
        | .zeroPump a => runService (pop (modAxis s a (fun x => { x with pos := 0, target := 0, cnt := 0, encBase := 0 }))) g fuel
        | .dwell => s
        | .spit _ => beginSpit s g r

/-- A step of a service is done: the next one begins. -/
def stepDone (s : State) (g : Nat) : State :=
  let n := (svcAt s g).steps.length
  runService (modSvc s g (fun q => { q with steps := q.steps.drop 1 })) g (n + 1)

/-- What an axis worked for has reached its end. -/
def axisDone (s : State) (a : Nat) : State :=
  let s := endAxisCmd s a stOk
  match (axisAt s a).group with
  | some g => stepDone s g
  | none => s

/-- An axis comes to rest at its target: what follows depends on what it was doing (R415, R416, R421, R422). -/
def axisArrived (s : State) (a : Nat) (r : AxisRec) : State :=
  let x := axisAt s a
  let hold (x : Axis) : Axis := { x with st := .hold, goal := .none, restTick := s.tb, holdLow := false, repeat_ := none, repeating := false }
  match x.goal with
  | .none => s
  | .target => axisDone (setAxis s a (hold x)) a
  | .stop => setAxis s a (hold x)
  | .reverse t => setAxis s a { x with st := .move, goal := .target, target := t }
  | .home 11 => setAxis s a (homePhase r x 2)
  | .home 12 => setAxis s a (homePhase r x 3)
  | .home 13 => axisDone (setAxis s a { hold x with referenced := true, homes := satInc x.homes }) a
  | .home _ => axisFailed (setAxis s a (hold x)) a stState
  | .seek => axisFailed (setAxis s a (hold x)) a stState
  | .backoff => axisDone (setAxis s a { hold x with referenced := true, homes := satInc x.homes }) a

/-! ### Jobs and groups (R431) -/

/-- JOB_OPEN stops the moving axes of the groups whose channels the job covers: their commands complete CANCELLED and the groups
become FAILED. -/
def stopCovered (s : State) : State :=
  ((List.range 16).filter (groupCovered s)).foldl (fun s g =>
    match svcRec? s g with
    | none => s
    | some r =>
      let moving := r.axes.filter (fun a => (axisAt s a).moving)
      if moving = [] then s
      else
        let s := moving.foldl (fun s a => axisFailed (stopDecel s a .stop) a stCancelled) s
        modSvc s g (fun q => { q with st := .failed, steps := [] })) s

/-- GRP_STAT.STATE (R433). -/
def GrpState.code : GrpState → Nat
  | .unknown => 0 | .print => 1 | .service => 2 | .capped => 3 | .running => 4 | .failed => 5

/-- At a job's start event each covered group not in PRINT is logged (R431). -/
def logGroups (s : State) : State :=
  ((List.range 16).filter (fun g => groupCovered s g && (svcAt s g).st != .print)).foldl (fun s g =>
    logEv s 0 0x0051 (valueData g (svcAt s g).st.code 0 0)) s

end Sys2Proof.Machine
end

