-- ==== Sys2Proof/Machine/FaultOps.lean ====
section
/-! DEFINITION. Fences of units other than clauses (R227, R263, R264, R322, R342): head channels, lanes, DMA channels, DRAM channels and
dies. -/

namespace Sys2Proof.Machine

/-! ### DMA channels (R342) -/

/-- A DMA channel is fenced: it moves nothing more. -/
def fenceDma (s : State) (d c reason : Nat) : State :=
  if isFenced s (.dma d c) then s
  else changeFence (modDma s (dmaIx d c) (fun q =>
    { q with st := .fenced, armed := false, fetching := false, refetch := false, doorbell := false, inflight := [], haltAt := none }))
    (.dma d c) .fenced reason

/-- The lowest-numbered channel of a die that is neither allotted nor fenced. -/
def freeDma? (s : State) (d : Nat) : Option Nat :=
  (List.range 32).find? (fun c => (dmaAt s (dmaIx d c)).use == 0 && !isFenced s (.dma d c))

/-- Whether a channel has a transfer that a fence interrupts. -/
def DmaCh.busy (q : DmaCh) : Bool := q.st == .run || q.st == .wait || q.st == .readback || q.st == .halted

/-- With no HOST_IN channel left, every parked load stops with NO_CHANNEL (R342, R388). -/
def lostHostIn (s : State) : State :=
  if (List.range 32).any (fun c => let q := dmaAt s (dmaIx 0 c); q.use == 2 && q.st != .fenced) then s
  else
    let ws := s.parked.filter Parked.isLoad
    ws.foldl (fun s p => match p with
      | .load w => loadLost s w
      | _ => s) { s with parked := s.parked.filter (fun p => !Parked.isLoad p) }

/-- A permanently faulted channel is fenced and its use passes to a free channel with its priority, PZ4 flag and chain, which
restarts the interrupted transfer, or the descriptor fetch that halted it (R342). -/
def passDma (s : State) (d c reason : Nat) : State :=
  if isFenced s (.dma d c) then s
  else
    let q := dmaAt s (dmaIx d c)
    let s := fenceDma s d c reason
    if q.use = 0 then s
    else match freeDma? s d with
      | none => if q.use = 2 then lostHostIn s else s
      | some n =>
        let q' : DmaCh := if q.st = .halted ∧ q.cause = 5 then
          { q with st := if q.refetch then .idle else .run, fetching := true, inflight := [], haltAt := none }
        else
          { q with st := if q.st = .wait then .wait else if q.busy then .run else .idle, remain := if q.busy then q.count else 0, moved := 0, inflight := [],
                   running := 0xFFFFFFFF, haltAt := none }
        modDma s (dmaIx d n) (fun e => { q' with ign := e.ign, err := e.err, crc := e.crc, okCnt := e.okCnt, badCnt := e.badCnt,
                                                 halts := e.halts, cause := e.cause })

/-- The GATHER channel of a head channel (R48). -/
def gatherCh? (s : State) (h : Nat) : Option (Nat × Nat) :=
  (headDie? s h).bind (fun d => ((List.range 32).find? (fun c =>
    let q := dmaAt s (dmaIx d c); q.use == 1 && q.arg == h && q.st != .fenced)).map (fun c => (d, c)))

/-! ### Head channels -/

/-- A head channel is fenced: it lacks every line, holds none in its output ring, and its GATHER channel is fenced with it
(R203, R263, R342). -/
def fenceHead (s : State) (h reason : Nat) : State :=
  if isFenced s (.head h) then s
  else
    let s := modHead (dropLines s h (fun _ => true)) h (fun c => { c with lines := [], fault := none })
    let s := changeFence s (.head h) .fenced reason
    match gatherCh? s h with
    | some (d, c) => fenceDma s d c reason
    | none => s

/-- A fault of a head channel over a line is pending until the commit of the channel's next line, whose number is kept (R263). -/
def headFault (s : State) (h line : Nat) : State :=
  if isFenced s (.head h) then s
  else modHead s h (fun c => { c with fault := match c.fault with | some l => some l | none => some (line + 1) })

/-- Fence the channels of a list, then let the job go on without them. -/
def fenceHeads (s : State) (hs : List Nat) (reason : Nat) : State :=
  jobAdvance (hs.foldl (fun s h => fenceHead s h reason) s)

/-! ### Lanes and links (R227) -/

/-- Lanes of a link's record that are not retired. -/
def workingLanes (s : State) (d l : Nat) : List Nat :=
  match linkRec? s d l with
  | some p => (laneList (recLanes p)).filter (fun n => !(laneAt s (8 * d + n)).retired)
  | none => []

/-- The largest count among 4, 2 and 1 that some lanes supply (R227). -/
def laneCount (n : Nat) : Nat := if 4 ≤ n then 4 else if 2 ≤ n then 2 else n

/-- The lanes that a link takes of those that work: all 8 of an 8-lane link, else as many as it may renegotiate (R216, R227). -/
def takenLanes (ws : List Nat) : List Nat := if ws.length = 8 then ws else ws.take (laneCount ws.length)

/-- Fence channels, highest first, until the rest fit on `n` lanes (R219, R227). `fuel` bounds them. -/
def fitHeads (s : State) (d l n : Nat) : Nat → State
  | 0 => s
  | fuel + 1 =>
    let hs := liveHeads s d l
    if fits s n hs then s
    else match hs.getLast? with
      | some h => fitHeads (fenceHead s h 7) d l n fuel
      | none => s

/-- After a lane is retired: the link takes the lowest lanes of the largest count its working lanes supply and sends RENEG; its
channels are fenced until they fit; a link without a lane is RETIRED (R227). -/
def renegotiate (s : State) (d l : Nat) : State :=
  match linkRec? s d l with
  | none => s
  | some p =>
    let ws := workingLanes s d l
    let n := laneCount ws.length
    if n = 0 then
      let s := cutStream s d l
      fenceHeads (modLink s (linkIx d l) (fun k => { k with st := .retired, lanes := 0, reneg := false, frames := [] })) (liveHeads s d l) 7
    else
      let use := ws.take n
      let all := laneList (recLanes p)
      let mask := ((List.range all.length).filter (fun i => use.contains (all.getD i 8))).map (fun i => 2 ^ i)
      let s := modLink s (linkIx d l) (fun k => { k with lanes := BitVec.ofNat 8 (laneMask use), reneg := true })
      let s := sendControl s d l 0x04 (natLE 1 n ++ (natLE 1 mask.sum ++ List.replicate 6 0))
      jobAdvance (fitHeads s d l n ((liveHeads s d l).length + 1))

/-- A lane is retired (R227, R263). -/
def retireLane (s : State) (d n reason : Nat) : State :=
  if (laneAt s (8 * d + n)).retired then s
  else changeFence (modLane s (8 * d + n) (fun a => { a with retired := true, blockLock := false, bitLock := false, rxReady := false,
                                                             lossAt := none })) (.lane d n) .fenced reason

/-- Lanes of a link are retired for a permanent fault and the link renegotiates. -/
def retireLanes (s : State) (d l : Nat) (ns : List Nat) (reason : Nat) : State :=
  if ns = [] then s else renegotiate (ns.foldl (fun s n => retireLane s d n reason) s) d l

/-- Losses of lock that a retrain has made good become transient (R263). -/
def settleLosses (s : State) (d : Nat) (ns : List Nat) : State :=
  ns.foldl (fun s n => match (laneAt s (8 * d + n)).lossAt with
    | some t => modLane (noteTransient s (.lane d n) t) (8 * d + n) (fun a => { a with lossAt := none })
    | none => s) s

/-! ### Dies (R263, R264) -/

/-- A die fault on die 0: logged, tokens stop, the job closes with end reason DIE, and every parked command completes DIE_FAULT
(R264, R396). -/
def die0Stop (s : State) (reason : Nat) : State :=
  if s.die0Fault then s
  else
    let s := logEv { s with die0Fault := true } 0 0x0010 (unitData 7 reason 0 0 0 [])
    let s := closeJob s (1 <<< 4)
    let ps := s.parked
    ps.foldl (fun s p => match p with
      | .report h => complete s h 0x0208 stDieFault []
      | .load w =>
        let first := w.cached.foldl (fun (m : Nat × Nat) c => if c.index < m.1 then (c.index, c.offset) else m) (w.index, w.offset)
        loadEnd s w ⟨stDieFault, first.1, first.2, 0, 0xFF⟩
      | .keyOp h _ _ _ _ => complete s h 0x0103 stDieFault []
      | .calRun h _ _ => complete s h 0x0401 stDieFault []
      | .unfence h _ _ _ => complete s h 0x0505 stDieFault []
      | .flashWrite h _ _ _ _ => complete s h 0x0601 stDieFault []
      | .imageActivate h _ _ => complete s h 0x0603 stDieFault []
      | .march h _ _ _ _ => complete s h 0x0701 stDieFault []
      | .retrain h _ _ => complete s h 0x0702 stDieFault []
      | .service h _ => complete s h 0x0801 stDieFault []
      | .axis h _ op => complete s h op stDieFault []
      | .select h _ => complete s h 0x0101 stDieFault []) { s with parked := [] }

/-- Every clause of a die in use is fenced with reason DIE: no line of it is expanded any more. -/
def fenceDieClauses (s : State) (d : Nat) : State :=
  ((List.range 66).filter (fun k => (clauseAt s (clauseIx d k)).st != .off)).foldl (fun s k =>
    let x := clauseIx d k
    let u := FUnit.clause d k
    let testing : Bool := (clauseAt s x).st == .testing
    let s := clauseIdle s x
    let s := powerOffClause (modClause s x (fun c => { c with st := .fenced, spareFor := none, preparing := none, endLine := none })) x
    let s := if isFenced s u then s else changeFence s u .fenced 8
    if testing then endUnfenceOf s d k else s) s
where
  /-- The unfence test of a clause that its die's fence ends fails. -/
  endUnfenceOf (s : State) (d k : Nat) : State :=
    let mine : Parked → Bool := fun p => match p with
      | .unfence _ n e i => n == 1 && e == d && i == k
      | _ => false
    let hs := s.parked.filter mine
    hs.foldl (fun s p => match p with
      | .unfence h _ _ _ => complete s h 0x0505 stTestFail (natLE 1 1)
      | _ => s) { s with parked := s.parked.filter (fun p => !mine p) }

/-- A fault of a die: on die 0 the heads stop; any other die and all its slots, links, head channels, DMA channels and axes are fenced
with reason DIE (R263, R264). -/
def dieFault (s : State) (d reason : Nat) : State :=
  if !dieOk s d then s
  else if d = 0 then die0Stop s reason
  else if isFenced s (.die d) then s
  else
    let s := changeFence s (.die d) .fenced reason
    let s := fenceDieClauses s d
    let ls := (allLinks s).filter (fun p => p.1 == d)
    let hs := ls.flatMap (fun p => linkHeads s p.1 p.2)
    let s := hs.foldl (fun s h => fenceHead s h 8) s
    let s := (List.range 8).foldl (fun s n => retireLane s d n 8) s
    let s := ls.foldl (fun s p => modLink s (linkIx p.1 p.2) (fun k => { k with st := .down, reneg := false, frames := [], singles := [] })) s
    let s := (List.range 32).foldl (fun s c => fenceDma s d c 8) s
    let s := fenceAxis (fenceAxis s (2 * d) 8) (2 * d + 1) 8
    jobAdvance (refuseCached s d 0x0D)

/-! ### DRAM channels (R321, R322) -/

/-- Whether a parked command is a DDR_RETRAIN of a channel. -/
def Parked.isRetrain (d ch : Nat) : Parked → Bool
  | .retrain _ e c => d == e && ch == c
  | _ => false

/-- DDR_CH_STAT as read (R323). -/
def DdrCh.stat (c : DdrCh) : Nat :=
  let st := match c.st with | .off => 0 | .train => 1 | .active => 2 | .retrain => 3 | .retired => 4
  2 ^ 28 * st + (if c.pinned then 2 ^ 27 else 0) + (if c.hot then 2 ^ 26 else 0) + 2 ^ 20 * c.mult.toNat + 2 ^ 16 * c.mr4.toNat +
    (BitVec.ofInt 8 c.drift).toNat

/-- The DDR_RETRAIN of a channel that waits longest completes (R404). -/
def endRetrain (s : State) (d ch status : Nat) : State :=
  match s.parked.find? (Parked.isRetrain d ch) with
  | some (.retrain h _ _) =>
    complete { s with parked := s.parked.eraseP (Parked.isRetrain d ch) } h 0x0702 status (natLE 4 (ddrAt s (ddrIx d ch)).stat)
  | _ => s

/-- Every DDR_RETRAIN of a channel completes. `fuel` bounds them. -/
def endRetrains (s : State) (d ch status : Nat) : Nat → State
  | 0 => s
  | fuel + 1 => if s.parked.any (Parked.isRetrain d ch) then endRetrains (endRetrain s d ch status) d ch status fuel else s

/-- A DRAM channel is retired: the die's address space becomes single-channel, its placed blocks are BAD with their storage freed, its
cached blocks are refused, and the loss is logged; with both channels retired the die is at fault (R263, R322). -/
def retireDram (s : State) (d ch reason : Nat) : State :=
  let i := ddrIx d ch
  if (ddrAt s i).st = .retired then s
  else
    let s := modDdr s i (fun c => { c with st := .retired, queue := [], issued := [], wantRetrain := false, trnRun := none, chk := [],
                                            faultAt := none })
    let s := endRetrains s d ch stTestFail s.parked.length
    let s := changeFence s (.dram d ch) .fenced reason
    let s := (s.blocks.filter (fun b => b.die == d && !b.cached)).foldl markBad s
    let s := { s with blocks := s.blocks.map (fun b => if b.die == d && !b.cached then { b with addr := 0 } else b),
                      dramPoison := s.dramPoison.filter (fun k => k / 2 ^ 27 != i),
                      dramFlips := s.dramFlips.filter (fun p => p.1 / 2 ^ 27 != i) }
    let s := refuseCached s d 0x0C
    let s := logEv s d 0x0025 (unitData 4 reason ch 1 0 [])
    if ddrRetired s d 0 && ddrRetired s d 1 then dieFault s d 8 else s

end Sys2Proof.Machine
end

