-- ==== Sys2Proof/Machine/HostOps.lean ====
section
/-! DEFINITION. How the host reaches the part (R350, R351, R356, R357), and the classes of the command queue (R299, R365). -/

namespace Sys2Proof.Machine

/-- Whether host memory requests reach the part: powered, out of PERST#, its BARs assigned, in D0 (R350, R351). -/
def hostUp (s : State) : Bool :=
  !s.pcie.perst && s.pcie.linkUp && !s.pcie.retry && !s.pcie.d3hot && s.power.st != .dormant && !s.power.porAsserted

/-- Whether a die's registers can be reached: present, not fenced, its BLOCK route standing (R11, R357). -/
def dieReach (s : State) (d : Nat) : Bool := dieOk s d && (d == 0 || reachable s d)

/-- The effect of a host register access to a die: none where it does not arrive (R350, R351, R357). -/
def hostReg (s : State) (d : Nat) (f : State → State) : State := if hostUp s && dieReach s d then f s else s

/-- A command writes its data to a host buffer and ends OK; while the part may not write host memory, it ends HOST_BUS (R327, R351, R375,
assumption 26). -/
def hostSend (s : State) (h : CmdHdr) (opcode addr : Nat) (bytes result : List Byte) : State :=
  if bytes = [] then finish s h opcode result
  else if s.pcie.linkUp && !s.pcie.d3hot then finish (emit s (.hostWrite addr bytes)) h opcode result
  else complete s h opcode stHostBus []

/-! ### The command queue's classes (R299) -/

/-- The priority class of a source: its ring's number; 0 for mailboxes (R363, R370). -/
def Src.cls : Src → Nat
  | .ring c => c
  | _ => 0

/-- The entries of class `c` that own or share room, the one being fetched among them; mailbox entries take none (R370). -/
def classHeld (s : State) (c : Nat) : Nat :=
  (s.cmdq.filter (fun e => e.src == .ring c)).length + (if (sqAt s c).fetching then 1 else 0)

/-- RES of a class (R47, R299). -/
def classRes (s : State) (c : Nat) : Nat := queueDepth s (0x10 + c) 0

/-- Shared entries of the command queue that are taken. -/
def sharedHeld (s : State) : Nat := ((List.range 4).map (fun c => classHeld s c - classRes s c)).sum

/-- Whether class `c` has room: an entry of its own, or a shared one (R299). -/
def classRoom (s : State) (c : Nat) : Bool :=
  decide (classHeld s c < classRes s c ∨ sharedHeld s + ((List.range 4).map (classRes s)).sum < 1024)

/-- The oldest entry of the highest class present (R299). -/
def topEntry? (q : List CmdEntry) : Option CmdEntry :=
  (List.range 4).findSome? (fun c => q.find? (fun e => Src.cls e.src == c))

/-! ### Rings -/

/-- Entries from `a` up to `b` around a ring of `n`. -/
def ringDist (n a b : Nat) : Nat := if a ≤ b then b - a else n + b - a

/-- Whether completion ring `c` has a slot to reserve: owed and unreleased results stay below 2^LOG2SIZE - 1 (R365). A ring whose
ENABLE is 0 has no slot (assumption 15). -/
def cqRoom (s : State) (c : Nat) : Bool :=
  let q := cqAt s c
  q.enable && decide (q.owed + ringDist (ringSize q.log2) q.head.toNat q.tail.toNat + 1 < ringSize q.log2)

/-- Submission ring `c` gives up an entry fetch under way and its reserved slot. -/
def dropFetch (s : State) (c : Nat) : State :=
  if (sqAt s c).fetching then
    modCq (modSq s c (fun q => { q with fetching := false, outstanding := q.outstanding - 1 })) c (fun q => { q with owed := q.owed - 1 })
  else s

end Sys2Proof.Machine
end

