-- ==== Sys2Proof/Machine/TableOps.lean ====
section
/-! DEFINITION. The tables of the die banks (R52, R178-R183) and the master copies from which poisoned blocks are rewritten (R290). -/

namespace Sys2Proof.Machine

/-! ### Tables placed from parameter records (R179, R180) -/

/-- Whether a record is a die-bank table. -/
def isTable (p : ParamRec) : Bool := p.typ == 0x0101 || p.typ == 0x0103 || p.typ == 0x0104

/-- Whether a table record names a die. -/
def tableOn (p : ParamRec) (d : Nat) : Bool := let t := p.target.toNat / 2 ^ 24; t == d || t == 0xFF

/-- Its die-bank address. -/
def tableAddr (p : ParamRec) : Nat := p.target.toNat % 2 ^ 23

/-- Copy a table's payload to the dies it names (R179, R183). -/
def placeTable (s : State) (p : ParamRec) : State :=
  (List.range s.part.dies).foldl (fun s d => if tableOn p d then bankWr s d (tableAddr p) p.payload else s) s

/-- Nozzles of a gain-trim record. -/
def gainCount (p : ParamRec) : Nat := p.payload.length / 2

/-- A gain-trim record's entries enter the nozzle master copies (R180). -/
def applyGains (s : State) (p : ParamRec) : State :=
  (List.range (gainCount p)).foldl (fun s j =>
    { s with curves := sput 0 s.curves (p.target.toNat + j) (byteAt p.payload (2 * j)),
             gains := sput 128 s.gains (p.target.toNat + j) (byteAt p.payload (2 * j + 1)) }) s

/-- Write a die's image copies. -/
def placeImages (s : State) (d : Nat) : State := bankWr s d bank31Base (bank31 s.gram d)

/-! ### Master copies (R290) -/

/-- IMAGE sections of a Grammar in flash, `left` sections from `at_` on: the payload of each, none where its CRC does not hold. -/
def flashImages (fl : Mem) : Nat → Nat → List (Option (List Byte))
  | 0, _ => []
  | left + 1, at_ =>
    let h := rdFlashN fl at_ 16
    let n := leAt h 4 4
    let rest := flashImages fl left (at_ + 16 + n)
    if leAt h 0 2 = 8 then
      let p := rdFlashN fl (at_ + 16) n
      (if (crc32c p).toNat = leAt h 12 4 then some p else none) :: rest
    else rest

/-- Flash address of a Dialect slot (R57). -/
def slotBase (n : Nat) : Nat := 0x01000000 + n * 0x00800000

/-- The byte that the IMAGE sections in flash put at a byte of a die's bank 31, their CRC verified (R290). -/
def imageMaster? (s : State) (d a : Nat) : Option Byte :=
  let at_ := slotBase s.dia.active.toNat + 0x1000
  let ps := (flashImages s.flash (leAt (rdFlashN s.flash at_ 16) 0x0C 2) (at_ + 64)).zip s.gram.images
  let mine := ps.filter (fun p => (imagesOn s.gram d).any (fun m => m.id == p.2.id))
  mine.findSome? (fun p =>
    let c := copyPlace s.gram d p.2.id
    match p.1 with
    | some b => if c.1 ≤ a ∧ a < c.1 + c.2 ∧ b.length = c.2 then some (byteAt b (a - c.1)) else none
    | none => none)

/-- The byte that the tables and image copies put at a die-bank address; none where no master copy covers it. The part's own tables
have one, of no specified layout: what the bank holds stands for it. -/
def bankMaster? (s : State) (d a : Nat) : Option Byte :=
  if ownTable a then some (rd s.banks (2 ^ 23 * d + a))
  else if bank31Base ≤ a then imageMaster? s d a
  else (s.params.find? (fun p => isTable p && tableOn p d && decide (tableAddr p ≤ a ∧ a < tableAddr p + p.payload.length))).map
    (fun p => byteAt p.payload (a - tableAddr p))

/-- Whether a physical clause holds a slot's image. -/
def clauseLoaded (c : Clause) : Bool := c.powered && (c.st == .serving || c.st == .fencing || c.spareFor.isSome)

/-- Eight bytes of an image copy from byte `k` of it on; none while the copy itself is poisoned there. -/
def copyBlock? (s : State) (d at_ k : Nat) : Option (List Byte) :=
  if poisonedIn s .bank d (at_ + k) 8 then none else some (rdN s.banks (2 ^ 23 * d + at_ + k) 8)

/-- The 8 bytes that a block's master copy gives; none where the region has no master copy (R290). -/
def masterBlock? (s : State) (b : ArrBlock) : Option (List Byte) :=
  let x := b.owner / 16
  match b.kind with
  | .bank =>
    let bs := (List.range 8).map (fun j => bankMaster? s b.owner (8 * b.blk + j))
    if bs.all Option.isSome then some (bs.map (fun o => o.getD 0)) else none
  | .cellInstr =>
    if !clauseLoaded (clauseAt s x) then none
    else match imageCopy? s x (b.owner % 16) with
      | some (a, m) =>
        let left := m.words.length - 2 * b.blk
        if left = 0 then some (List.replicate 8 0)
        else (copyBlock? s (x / 66) a (24 + 8 * b.blk)).map (fun bs => if left = 1 then bs.take 4 ++ List.replicate 4 0 else bs)
      | none => none
  | .cellData =>
    let a := 8 * b.blk
    if !clauseLoaded (clauseAt s x) then none
    else if 0x3800 ≤ a ∧ a < 0x4000 then
      some (slice (windowBytes s (x / 66) (clauseAt s x).slot (b.owner % 16)) ((a - 0x3800) % 1024) 8)
    else match imageCopy? s x (b.owner % 16) with
      | some (p, m) =>
        if m.dataAddr ≤ a ∧ a < m.dataAddr + m.data.length then copyBlock? s (x / 66) p (24 + 4 * m.words.length + (a - m.dataAddr)) else none
      | none => none
  | _ => none

end Sys2Proof.Machine
end

