-- ==== Sys2Proof/Machine/LogOps.lean ====
section
/-! DEFINITION. The package manager's event log (R445-R450): SEQ, the rings, vector 4 and the UART's EVENT frames. -/

namespace Sys2Proof.Machine

/-- The 32 bytes of an entry (R445). -/
def SeqEntry.bytes (x : SeqEntry) : List Byte :=
  natLE 4 x.seq.toNat ++ (natLE 2 x.e.code.toNat ++ (natLE 1 (32 * x.e.die + 8 * x.e.severity + x.e.layout) ++ ([0] ++
    (natLE 8 x.e.time.toNat ++ (x.e.data ++ List.replicate 16 0).take 16))))

/-- Sectors of the flash ring (R437, R448). -/
def flashSectors : Nat := 2048

/-- A byte of a sector of the flash ring: MAGIC, the SEQ of the first entry and the rest of the header, then the entries; beyond them erased
(R448). -/
def ringSectorByte (es : List SeqEntry) (i : Nat) : Byte :=
  let seq := (es.head?.map (fun e => e.seq.toNat)).getD 0
  let body := es.flatMap SeqEntry.bytes
  if i < 8 then ([0x45, 0x4C, 0x4F, 0x47] ++ natLE 4 seq).getD i 0
  else if i < 32 then Config.ringHeader seq body (i - 8)
  else body.getD (i - 32) 0xFF

/-- A byte of flash as it reads: of the event log ring where it lies there, else of the rest (R437, R448). -/
def flashByte (s : State) (a : Nat) : Byte :=
  if 0x800000 ≤ a ∧ a < 0x1000000 then
    let n := (a - 0x800000) / 4096
    match s.log.sectors[(n + flashSectors - s.log.ringFirst) % flashSectors]? with
    | some es => ringSectorByte es (a % 4096)
    | none => 0xFF
  else rdFlash s.flash a

/-- The sector buffer is written to the flash ring, the oldest sector erased ahead of it (R448). -/
def flushSector (s : State) : State :=
  if s.log.sector = [] then s
  else
    let ss := s.log.sectors ++ [s.log.sector]
    { s with log := { s.log with sector := [], sectors := ss.drop (ss.length - flashSectors),
                                 ringFirst := (s.log.ringFirst + (ss.length - flashSectors)) % flashSectors } }

/-- An entry at or above FLASH_LEVEL joins the sector buffer, written when it holds 127 (R448). -/
def flashEntry (s : State) (x : SeqEntry) : State :=
  if x.e.severity < s.log.flashLevel.toNat then s
  else
    let s := { s with log := { s.log with sector := s.log.sector ++ [x] } }
    if 127 ≤ s.log.sector.length then flushSector s else s

/-- An entry at or above NOTIFY sends vector 4, at most once per 100 µs (R449). -/
def notifyEntry (s : State) (x : SeqEntry) : State :=
  if x.e.severity < s.log.notify.toNat then s
  else if s.log.intervalOpen then { s with log := { s.log with qualified := true } }
  else msix { s with log := { s.log with intervalOpen := true } } 4

/-- Send an EVENT frame. -/
def sendEvent (s : State) (x : SeqEntry) : State :=
  emit { s with log := { s.log with uartFrames := s.log.uartFrames + 1 } } (.uart (uartFrame 0x82 x.bytes))

/-- An entry at or above UART_LEVEL is sent while the UART is idle, else it waits (R450). -/
def uartEntry (s : State) (x : SeqEntry) : State :=
  if x.e.severity < s.log.uartLevel.toNat then s
  else if s.log.uartFrames = 0 ∧ s.log.uartWait = [] then sendEvent s x
  else { s with log := { s.log with uartWait := s.log.uartWait ++ [x] } }

/-- An entry goes to the RAM ring, or in Sleep to the 256-entry buffer (R447). -/
def ramEntry (s : State) (x : SeqEntry) : State :=
  if s.power.st ≠ .sleep then pushRam s [x]
  else if s.log.sleep.length < 256 then { s with log := { s.log with sleep := s.log.sleep ++ [x] } }
  else { s with log := { s.log with sleepLost := s.log.sleepLost + 1 } }

/-- The package manager gives an entry the next SEQ and logs it (R447-R450). -/
def logEntry (s : State) (e : LogEntry) : State :=
  let x : SeqEntry := ⟨s.log.seq, e⟩
  let s := { s with log := { s.log with seq := s.log.seq + 1 } }
  uartEntry (notifyEntry (flashEntry (ramEntry s x) x) x) x

/-- Take the oldest entry of a die's event queue and log it; entries lost since are then reported (R301, R447). -/
def takeEvent (s : State) (d : Nat) : State :=
  let q := evqAt s (3 * d)
  match q.items with
  | [] => s
  | it :: rest =>
    let s := logLost (setEvq s (3 * d) { q with items := rest }) d 0
    match it with
    | .entry e => logEntry s e
    | _ => s

end Sys2Proof.Machine
end

