-- ==== Sys2Proof/Machine/DmaOps.lean ====
section
/-! DEFINITION. What the DMA engine's commands share (12): address spaces, transfers, descriptors, completion, halts. -/

namespace Sys2Proof.Machine

/-! ### Addresses (R326, R327) -/

/-- SPACE of a DMA address. -/
def dmaSpace (a : BitVec 64) : Nat := (a.extractLsb' 60 4).toNat

/-- Address bits below the space. -/
def dmaLow (a : BitVec 64) : Nat := (a.extractLsb' 0 60).toNat

/-- Whether a space may be a source (FORWARD's ingress apart), a destination. -/
def srcSpace (n : Nat) : Bool := n == 0 || n == 1 || n == 2 || n == 4 || n == 5
def dstSpace (n : Nat) : Bool := n == 0 || n == 1 || n == 2 || n == 3 || n == 4 || n == 6

/-- Whether an access of `n` bytes at an address is a bus error that the part itself finds: not allowed on its die, an unused bit set,
beyond the end of the space, or a die that cannot be reached (R327). -/
def dmaBusError (s : State) (d : Nat) (a : BitVec 64) (n : Nat) : Bool :=
  let low := dmaLow a
  match dmaSpace a with
  | 0 => decide (dramEnd s d < low + n)
  | 1 => decide (2 ^ 23 < low + n)
  | 2 => decide (2 ^ 17 < low + n)
  | 3 =>
    let t := low / 2 ^ 56 % 8
    d != 0 || t == 0 || low / 2 ^ 59 != 0 || low / 2 ^ 34 % 2 ^ 22 != 0 || !dieReach s t || decide (dramEnd s t < low % 2 ^ 34 + n)
  | 4 => d != 0 || decide (2 ^ 60 < low + n)
  | 5 => decide (2 ^ 32 < low + n)
  | _ => false

/-- The address `moved` bytes into a transfer; the compressor's input and the fabric's ingress have none (R326). -/
def dmaAddr (a : BitVec 64) (moved : Nat) : BitVec 64 := if dmaSpace a = 6 ∨ dmaSpace a = 7 then a else a + BitVec.ofNat 64 moved

/-- Whether an access of `n` bytes, `moved` bytes into a transfer, is a bus error; a transfer never runs on into the next space (R327). -/
def dmaErrorAt (s : State) (d : Nat) (a : BitVec 64) (moved n : Nat) : Bool :=
  dmaBusError s d (dmaAddr a moved) n || (dmaSpace a != 6 && decide (2 ^ 60 < dmaLow a + moved + n))

/-- Whether an access to this die's DRAM waits for a channel that trains or retrains (R319). -/
def dmaHeld (s : State) (d : Nat) (a : BitVec 64) (n : Nat) : Bool := dmaSpace a == 0 && dramWaits s d (dmaLow a) n

/-- A DMA access reads blocks of DRAM, the banks or the TCM (R285-R287, R309). -/
def dmaTouch (s : State) (d : Nat) (a : BitVec 64) (n : Nat) : State :=
  match dmaSpace a with
  | 0 => dramTouch s d (dmaLow a) n
  | 1 => settleRange s .bank d (dmaLow a) n
  | 2 => settleRange s .tcm d (dmaLow a) n
  | _ => s

/-- Whether a read meets poison (R288, R340). -/
def dmaPoison (s : State) (d : Nat) (a : BitVec 64) (n : Nat) : Bool :=
  let low := dmaLow a
  match dmaSpace a with
  | 0 => (List.range (n / 64 + 2)).any (fun j => decide (low / 64 * 64 + 64 * j < low + n) && dramBad s d (low / 64 * 64 + 64 * j))
  | 1 => poisonedIn s .bank d low n
  | 2 => poisonedIn s .tcm d low n
  | _ => false

/-- The bytes an access reads; those of host memory are given. -/
def dmaRead (s : State) (d : Nat) (a : BitVec 64) (n : Nat) (given : List Byte) : List Byte × State :=
  let low := dmaLow a
  match dmaSpace a with
  | 0 => (dramRd s d low n, s)
  | 1 => rdBanks s d low n
  | 2 => (rdN s.tcm (2 ^ 17 * d + low) n, s)
  | 5 => ((List.range n).map (fun i => flashByte s (low + i)), s)
  | _ => ((given ++ List.replicate n 0).take n, s)

/-- The bytes a burst of channel `c` writes reach their space, or, for another die's DRAM, the fabric, on which that die's FORWARD channel
takes them (R326, R335). -/
def dmaWrite (s : State) (d c : Nat) (a : BitVec 64) (bs : List Byte) : State :=
  let low := dmaLow a
  match dmaSpace a with
  | 0 => dramWr s d low bs
  | 1 => bankWr s d low bs
  | 2 => tcmWr s d low bs
  | 3 => sendFlight s d (blockPath s (low / 2 ^ 56 % 8)) (.block ⟨c, low / 2 ^ 56 % 8, BitVec.ofNat 64 (low % 2 ^ 34), bs⟩)
  | 4 => emit s (.hostWrite low bs)
  | 6 => modComp s d (fun c => { c with inp := c.inp ++ bs })
  | _ => s

/-- An arriving block burst reaches a die's DRAM; a damaged one poisons the blocks it touches (R300, R335). -/
def landIngress (s : State) (d a : Nat) (bs : List Byte) (bad : Bool) : State :=
  let s := dramWr s d a bs
  if !bad then s
  else (List.range (bs.length / 64 + 2)).foldl (fun s j =>
    let p := a / 64 * 64 + 64 * j
    if p < a + bs.length then (dramPlaces s d p).foldl (fun s m => dramMark s d m.1 m.2) s else s) s

/-! ### Completion (R337-R340) -/

/-- A channel's bit in DMA_IRQ_STAT is set at each completion in PZ4 mode; the message goes when the bit rises unmasked (R339). -/
def dmaIrq (s : State) (d c : Nat) : State :=
  let q := dmaAt s (dmaIx d c)
  let e := dmaDieAt s d
  if !q.pz4 ∨ q.use = 1 ∨ e.irq.getLsbD c then s
  else
    let s := setDmaDie s d { e with irq := e.irq ||| (1#32 <<< c) }
    if e.mask.getLsbD c then s else msix s (8 + d)

/-- A pulse on an event line starts the die's channels that wait on it (R338). -/
def pulseLine (s : State) (d : Nat) (line : BitVec 8) : State :=
  (List.range 32).foldl (fun s c => modDma s (dmaIx d c) (fun q => if q.st = .wait ∧ q.trig = line then { q with st := .run } else q)) s

/-- Address of a descriptor: its [36:5] in the space of DMA_CH_DESC (R330). -/
def descAddr (q : DmaCh) (w : Word) : BitVec 64 := (q.desc.extractLsb' 60 4).zeroExtend 64 <<< 60 ||| w.zeroExtend 64 <<< 5

/-- Whether a descriptor may not lie where DMA_CH_DESC and its address say: an unused bit is set, or the space is not 0, 1 or 2 (R326, R330). -/
def descBad (s : State) (d : Nat) (q : DmaCh) (w : Word) : Bool :=
  let a := descAddr q w
  q.desc.extractLsb' 37 23 != 0 || q.desc.extractLsb' 0 5 != 0 || decide (2 < dmaSpace a) || dmaBusError s d a 32

/-- STATUS of the descriptor being run, and its CRC when given (R330, R337). -/
def writeStatus (s : State) (d : Nat) (q : DmaCh) (status : Nat) (crc : Option Word) : State :=
  if !q.chain then s
  else
    let a := descAddr q q.curDesc
    let s := match crc with
      | some v => dmaWrite s d 0 (a + 0x14) (natLE 4 v.toNat)
      | none => s
    dmaWrite s d 0 (a + 0x1B) (natLE 1 status)

/-- A transfer ends BAD with a cause and the failing address (R340). -/
def recordBad (s : State) (d c cause : Nat) (addr : BitVec 64) : State :=
  let q := dmaAt s (dmaIx d c)
  let s := writeStatus s d q (2 + 16 * cause) none
  let s := modDma s (dmaIx d c) (fun q =>
    { q with st := .idle, cause := BitVec.ofNat 4 cause, err := addr, badCnt := satInc q.badCnt, inflight := [], remain := 0 })
  dmaIrq s d c

/-- The failing address of a transfer whose fields are not allowed: its source when COUNT or the source fails, else its destination. -/
def fieldAddr (q : DmaCh) : BitVec 64 := if q.count = 0 ∨ !srcSpace (dmaSpace q.src) then q.src else q.dst

/-- Whether the active set's fields are allowed (R340 FIELD). -/
def fieldsOk (q : DmaCh) : Bool := q.count != 0 && srcSpace (dmaSpace q.src) && dstSpace (dmaSpace q.dst)

/-- The active set's transfer starts, or waits for its trigger. -/
def DmaCh.begin (q : DmaCh) (wait : Bool) : DmaCh :=
  { q with st := if wait then .wait else .run, remain := q.count, moved := 0, running := 0xFFFFFFFF, inflight := [] }

/-- The armed shadow is copied into the active set and its transfer starts (R328); with fields not allowed it ends BAD at once. -/
def startShadow (s : State) (d c : Nat) : State :=
  let q := dmaAt s (dmaIx d c)
  let q := { q with armed := false, chain := false, src := q.shSrc, dst := q.shDst, count := q.shCount, evt := q.shEvt, evtLine := q.shEvtLine }
  if fieldsOk q then setDma s (dmaIx d c) (q.begin q.shWait) else recordBad (setDma s (dmaIx d c) q) d c 3 (fieldAddr q)

/-- After a transfer, OK or BAD: the shadow is copied, or NEXT is fetched; a descriptor whose END was set is the tail, fetched again if
a doorbell rang meanwhile; otherwise the channel is idle (R328, R331, R332, R338). -/
def afterTransfer (s : State) (d c : Nat) : State :=
  let q := dmaAt s (dmaIx d c)
  if q.chain then
    if !q.curEnd then setDma s (dmaIx d c) { q with st := .run, fetching := true, refetch := false, curDesc := q.curNext }
    else setDma s (dmaIx d c) { q with st := .idle, tail := q.curDesc, chain := false, fetching := q.doorbell, refetch := q.doorbell,
                                       doorbell := false }
  else if q.armed then startShadow s d c
  else setDma s (dmaIx d c) { q with st := .idle }

/-- A transfer completes OK (R337, R338). A fault of the channel whose transfer has been restarted is thereby transient (R341). -/
def completeOk (s : State) (d c : Nat) : State :=
  let q := dmaAt s (dmaIx d c)
  let v := q.running ^^^ 0xFFFFFFFF#32
  let s := writeStatus s d q 1 (some v)
  let s := modDma s (dmaIx d c) (fun q => { q with crc := v, okCnt := q.okCnt + 1, haltAt := none })
  let s := match q.haltAt with
    | some t => noteTransient s (.dma d c) t
    | none => s
  let s := if q.evt then pulseLine s d q.evtLine else s
  afterTransfer (dmaIrq s d c) d c

/-- A transfer ends BAD and the channel goes on. -/
def endBad (s : State) (d c cause : Nat) (addr : BitVec 64) : State := afterTransfer (recordBad s d c cause addr) d c

/-- After a bus error the destination beyond the bytes written is undefined (R340): each of its bytes that exists in the part takes a free
value (assumption 4); of another die's DRAM too, the transfer's bursts on their way there being dropped. -/
def freeDest (s : State) (d c : Nat) : State :=
  let q := dmaAt s (dmaIx d c)
  let mine (f : Flight) : Bool := d == 0 && f.sentBy c
  let size (f : Flight) : Nat := match f.cargo with | .block b => b.data.length | _ => 0
  let back := if dmaSpace q.dst = 3 then ((s.fabric.filter mine).map size).sum else 0
  let s := { s with fabric := s.fabric.filter (fun f => !mine f) }
  if 3 < dmaSpace q.dst then s
  else (List.range (back + q.remain.toNat)).foldl (fun s j =>
    let a := dmaAddr q.dst (q.moved - back + j)
    if dmaErrorAt s d q.dst (q.moved - back + j) 1 then s
    else
      let r := drawBytes s 1
      if dmaSpace a = 3 then dramWr r.2 (dmaLow a / 2 ^ 56 % 8) (dmaLow a % 2 ^ 34) r.1 else dmaWrite r.2 d c a r.1) s

/-! ### FORWARD channels (R300, R335, R341) -/

/-- The first die on the way from die 0 to a channel's destination. -/
def firstHop (s : State) (q : DmaCh) : Nat := (blockPath s (dmaLow q.dst / 2 ^ 56 % 8)).headD 0

/-- Block bursts that hold a credit of the first hop to die `e` (R335, R360). -/
def blockCredit (s : State) (e : Nat) : Nat := originHeld s e + ((facing s 0 e).map (portHeld s e)).sum

/-- Whether a channel's write to another die finds a block credit of the first hop free: its own bursts in flight count too. Other channels need none. -/
def creditFree (s : State) (q : DmaCh) : Bool :=
  if dmaSpace q.dst ≠ 3 then true
  else
    let e := firstHop s q
    let going := ((List.range 32).map (fun c =>
      let r := dmaAt s (dmaIx 0 c)
      if dmaSpace r.dst = 3 ∧ firstHop s r = e then r.inflight.length else 0)).sum
    decide (blockCredit s e + going < (facing s 0 e).length * queueDepth s 0x05 e)

/-- Whether a FORWARD channel serves a die. -/
def hasForward (s : State) (d : Nat) : Bool :=
  d != 0 && dieOk s d && s.dia.valid && (List.range 32).any (fun c => let q := dmaAt s (dmaIx d c); q.use == 3 && q.st != .fenced)

/-- A burst whose address fails R327 is discarded, and its failure returns to the channel that sent it as DST. -/
def returnDst (s : State) (b : BlockBurst) : State :=
  let q := dmaAt s (dmaIx 0 b.sender)
  if 32 ≤ b.sender ∨ !(q.st == .run || q.st == .readback) then s
  else endBad (freeDest s 0 b.sender) 0 b.sender 2 (3#64 <<< 60 ||| BitVec.ofNat 64 (b.die % 8) <<< 56 ||| b.addr)

/-- The FORWARD channel of a die writes the oldest burst that waits at a port to the die address it carries; a damaged one poisons the blocks
it touches. -/
def forwardBurst (s : State) (d p : Nat) (bad : Bool) : State :=
  match (portAt s (4 * d + p)).ingress with
  | [] => s
  | b :: rest =>
    if !hasForward s d ∨ dramWaits s d b.addr.toNat b.data.length then s
    else
      let s := modPort s (4 * d + p) (fun n => { n with ingress := rest })
      if dramEnd s d < b.addr.toNat + b.data.length then returnDst s b else landIngress s d b.addr.toNat b.data bad

/-- A halt (R341): nothing more is written, cause and address are recorded, and one fault of the channel is counted. Its class is known when the restarted
transfer completes; a fault within the window of the one before is permanent (R260, R342). -/
def haltDma (s : State) (d c cause : Nat) (addr : BitVec 64) : State :=
  let q := dmaAt s (dmaIx d c)
  let win := (integ s).memWin * secTicks
  let again : Bool := match q.haltAt with | some t => decide (s.tb - t ≤ win) | none => false
  let s := setDma s (dmaIx d c) { q with st := .halted, cause := BitVec.ofNat 4 cause, err := addr, halts := satInc q.halts, inflight := [],
                                         fetching := false, doorbell := false }
  if again || faultRepeats s (.dma d c) s.tb win then passDma s d c 1
  else
    let s := match q.haltAt with
      | some t => noteTransient s (.dma d c) t
      | none => s
    modDma s (dmaIx d c) (fun q => { q with haltAt := some s.tb })

/-! ### Bursts (R333-R335) -/

/-- BURST of a channel: its peripheral's unit, or 512 (R335). -/
def burstUnit (q : DmaCh) : Nat := if q.req = 1 ∨ q.req = 2 ∨ q.req = 3 then 64 else 512

/-- Bytes of a transfer not yet in a burst. -/
def DmaCh.unsent (q : DmaCh) : Nat := q.remain.toNat - q.inflight.sum

/-- Length of a channel's next burst (R333). -/
def burstLen (q : DmaCh) : Nat :=
  let at_ := q.moved + q.inflight.sum
  let edge (a : BitVec 64) : Nat := if dmaSpace a = 6 then 512 else 512 - (dmaLow a + at_) % 512
  min (min (burstUnit q) q.unsent) (min (edge q.src) (edge q.dst))

/-- Whether a channel does work: while a Dialect is active an unallotted one stays idle (R325). -/
def dmaServes (s : State) (q : DmaCh) : Bool := !s.dia.valid || q.use != 0

/-- Whether a channel is ready for a burst on the system mover; `req` says whether its request is asserted (R334, R335). FORWARD
channels are served as their bursts arrive. -/
def dmaReady (s : State) (q : DmaCh) (req : Bool) : Bool :=
  dmaServes s q && creditFree s q && q.use != 1 && q.use != 3 && q.st == .run && !q.fetching && decide (0 < q.unsent) && (q.req == 0 || (decide (q.req.toNat < 6) && req)) &&
    decide (q.inflight.length < 8)

end Sys2Proof.Machine
end

