-- ==== Sys2Proof/Machine/MemOps.lean ====
section
/-! DEFINITION. Blocks of the protected arrays (R284-R292), march tests (R293-R296) and conflict counters (R283). -/

namespace Sys2Proof.Machine

/-! ### Events -/

/-- A memory event naming an array and an address in it (R445): the byte address within the array, cell SRAMs one after another; the
syndrome holds SR in its low byte and SC in its high byte (assumption 17). -/
def memEvent (s : State) (d code : Nat) (b : ArrBlock) (syndrome : Nat) : State :=
  let unit := match arrClause? b with | some x => x % 66 | none => 0xFF
  let cell := match b.kind with
    | .cellInstr => 8 * arrBlocks b.kind * (b.owner % 16)
    | .cellData => 8 * arrBlocks b.kind * (b.owner % 16)
    | _ => 0
  logEv s d code (memData (arrCls b.kind) unit syndrome (cell + 8 * b.blk))

/-! ### Row repair (R291, R292) -/

/-- Spare rows of an array. -/
def arrSpares : ArrKind → Nat
  | .bank => 4 | .tcm => 4 | .bandRing => 2 | _ => 1

/-- Whether two blocks lie in one array; each die bank is one (R279, R291). -/
def sameArray (a b : ArrBlock) : Bool :=
  a.kind == b.kind && a.owner == b.owner && (a.kind != .bank || a.blk / 32768 == b.blk / 32768)

/-- Whether two blocks lie in one row of 64 blocks. -/
def sameRow (a b : ArrBlock) : Bool := sameArray a b && a.blk / 64 == b.blk / 64

/-- The first block of a block's row. -/
def rowOfBlk (b : ArrBlock) : ArrBlock := { b with blk := b.blk / 64 * 64 }

/-- Whether a spare row of an array is in use, or was found defective. -/
def spareTaken (g : Scrub) (b : ArrBlock) (n : Nat) : Bool := (g.rows ++ g.badSpares).any (fun p => sameArray b p.1 && p.2 == n)

/-- The spare rows of a block's array that are free, beyond those that repairs waiting or under way will take. -/
def freeSpares (g : Scrub) (b : ArrBlock) : List Nat :=
  ((List.range (arrSpares b.kind)).filter (fun n => !spareTaken g b n)).drop ((g.deferred ++ g.repairing).filter (sameArray b)).length

/-- Whether repairs of an array's rows wait: its clause is SERVING or FENCING (R292). -/
def repairWaits (s : State) (b : ArrBlock) : Bool :=
  match arrClause? b with
  | some x => (clauseAt s x).st == .serving || (clauseAt s x).st == .fencing
  | none => false

/-- A stuck bit is declared: its row is repaired, now or once its clause allows, while the array has a spare row left; else REPAIR_FULL
(R291, R292). -/
def declareStuck (s : State) (d : Nat) (b : ArrBlock) (syndrome : Nat) : State :=
  let g := scrubAt s d
  let g := { g with stuck := satInc g.stuck }
  if (g.deferred ++ g.repairing).any (sameRow b) then setScrub s d g
  else if freeSpares g b = [] then memEvent (setScrub s d { g with full := satInc g.full }) d 0x0021 b syndrome
  else if repairWaits s b then setScrub s d { g with deferred := g.deferred ++ [b] }
  else setScrub s d { g with repairing := g.repairing ++ [b] }

/-- A row's 64 blocks are read, corrected and stored again, in the row or in the spare row that takes its place: no flipped bit stays, and
a block that is uncorrectable keeps its poison (R291, R295). -/
def copyRow (s : State) (b : ArrBlock) : State :=
  (List.range 64).foldl (fun s j =>
    let q := { rowOfBlk b with blk := (rowOfBlk b).blk + j }
    if flipOf s q = 0 then s else setFlip (settle s q) q 0) s

/-- The entry of the tracker to replace when it is full: the lowest count, the oldest of equals (R291). -/
def trackVictim : List (ArrBlock × Nat) → Option ArrBlock
  | [] => none
  | p :: ps => some (ps.foldl (fun m q => if q.2 < m.2 then q else m) p).1

/-- The tracker after a scrub write-back of a block. -/
def trackBack (t : List (ArrBlock × Nat)) (b : ArrBlock) : List (ArrBlock × Nat) :=
  if t.any (fun p => p.1 == b) then t.map (fun p => if p.1 = b then (b, p.2 + 1) else p)
  else if t.length < 16 then t ++ [(b, 1)]
  else match trackVictim t with
    | some v => t.filter (fun p => p.1 != v) ++ [(b, 1)]
    | none => [(b, 1)]

/-- Scrub write-backs of a tracked block. -/
def tracked (t : List (ArrBlock × Nat)) (b : ArrBlock) : Nat := ((t.find? (fun p => p.1 == b)).map (fun p => p.2)).getD 0

/-! ### The scrubber's walk (R289) -/

/-- The first block of the first powered clause of a die from physical clause `k` on; none beyond the last. -/
def scanClause? (s : State) (d k : Nat) : Option ArrBlock :=
  ((List.range 66).find? (fun q => decide (k ≤ q) && (clauseAt s (clauseIx d q)).powered)).map
    (fun q => ⟨.cellInstr, 16 * clauseIx d q, 0⟩)

/-- The block after `b` in the fixed order of a die's arrays: banks, TCM, then each powered clause with its cells' instruction SRAMs, their
data SRAMs, its band ring and its output ring; none at the end of the pass. -/
def scanNext? (s : State) (d : Nat) (b : ArrBlock) : Option ArrBlock :=
  if b.blk + 1 < arrBlocks b.kind then some { b with blk := b.blk + 1 }
  else match b.kind with
    | .bank => some ⟨.tcm, d, 0⟩
    | .tcm => scanClause? s d 0
    | .cellInstr => if b.owner % 16 < 15 then some ⟨.cellInstr, b.owner + 1, 0⟩ else some ⟨.cellData, b.owner / 16 * 16, 0⟩
    | .cellData => if b.owner % 16 < 15 then some ⟨.cellData, b.owner + 1, 0⟩ else some ⟨.bandRing, b.owner / 16, 0⟩
    | .bandRing => some ⟨.outRing, b.owner, 0⟩
    | .outRing => scanClause? s d (b.owner % 66 + 1)

/-- The block that a die's scrubber reads now: the next of its scan, past the arrays of a clause that has been powered off since. -/
def scanNow (s : State) (d : Nat) : ArrBlock :=
  match (scrubAt s d).next with
  | some b => if blockOn s d b then b else (scanClause? s d ((arrClause? b).getD 0 % 66 + 1)).getD ⟨.bank, d, 0⟩
  | none => ⟨.bank, d, 0⟩

/-- Whether a die's memory engine runs: the die lives and is neither in Sleep nor Dormant (R464). -/
def engineRuns (s : State) (d : Nat) : Bool := dieLive s d && s.power.st != .sleep && s.power.st != .dormant

/-! ### March tests (R293-R296) -/

/-- One operation of a march element on a code word: `w` as the cells hold it; a write of a value, of which stuck bits keep theirs, or a
read, whose value is compared with the one expected. -/
def marchOp (f : StuckBits) (p : BitVec 80 × Bool) (op : Bool × BitVec 80) : BitVec 80 × Bool :=
  if op.1 then (((op.2 &&& ~~~f.mask) ||| (f.val &&& f.mask)), p.2) else (p.1, p.2 && p.1 == op.2)

/-- The operations of March C- on one code word whose background is `z`: (w0); (r0, w1); (r1, w0); (r0, w1); (r1, w0); (r0). True: a
write. -/
def marchOps (z : BitVec 80) : List (Bool × BitVec 80) :=
  [(true, z), (false, z), (true, ~~~z), (false, ~~~z), (true, z), (false, z), (true, ~~~z), (false, ~~~z), (true, z), (false, z)]

/-- The checkerboard of a row: it alternates by bit and by row. -/
def checker (row : Nat) : BitVec 80 := if row % 2 = 0 then 0x55555555555555555555 else 0xAAAAAAAAAAAAAAAAAAAA

/-- Whether a code word passes both runs of March C-: solid and checkerboard (R293). -/
def marchPasses (f : StuckBits) : Bool :=
  [0, checker (f.blk.blk / 64)].all (fun z => ((marchOps z).foldl (marchOp f) (f.val, true)).2)

/-- Whether a row fails its test: the row of the array itself, or of the spare row that stands for it. -/
def rowFails (g : Scrub) (fs : List StuckBits) (r : ArrBlock) : Bool :=
  let here := (g.rows.find? (fun p => p.1 == r)).map (fun p => p.2)
  fs.any (fun f => !marchPasses f && f.spare == here && (match here with | none => sameRow f.blk r | some _ => sameArray f.blk r))

/-- Whether a spare row of an array fails its test. -/
def spareFails (fs : List StuckBits) (r : ArrBlock) (n : Nat) : Bool :=
  fs.any (fun f => !marchPasses f && f.spare == some n && sameArray f.blk r)

/-- A failing row is repaired onto the first free spare row that passes its own test; those that fail stay out of use. False: none is
left (R293). -/
def repairArrRow (g : Scrub) (fs : List StuckBits) (r : ArrBlock) : Scrub × Bool :=
  let old := (g.rows.filter (fun p => p.1 == r))
  let g := { g with rows := g.rows.filter (fun p => p.1 != r), badSpares := g.badSpares ++ old }
  let ns := freeSpares g r
  let bad := ns.takeWhile (spareFails fs r)
  let g := { g with badSpares := g.badSpares ++ bad.map (fun n => (r, n)) }
  match (ns.drop bad.length).head? with
  | some n => ({ g with rows := g.rows ++ [(r, n)], repaired := satInc g.repaired }, true)
  | none => (g, false)

/-- The rows, by first block, that a test finds failing: those with a defective word among the arrays tested, or whose spare row has
one. -/
def failingRows (g : Scrub) (fs : List StuckBits) (tests : ArrBlock → Bool) : List ArrBlock :=
  let rows := (fs.filterMap (fun f => if f.spare.isNone then some (rowOfBlk f.blk) else none)) ++ g.rows.map (fun p => p.1)
  rows.eraseDups.filter (fun r => tests r && rowFails g fs r)

/-- A march test of a die's arrays: the rows that fail, and those of them that no spare row takes. -/
def marchRun (s : State) (d : Nat) (fs : List StuckBits) (tests : ArrBlock → Bool) : State × List ArrBlock × List ArrBlock :=
  let rs := failingRows (scrubAt s d) fs tests
  let r := rs.foldl (fun (p : Scrub × List ArrBlock) r =>
    let q := repairArrRow p.1 fs r
    (q.1, if q.2 then p.2 else p.2 ++ [r])) (scrubAt s d, [])
  (setScrub s d r.1, rs, r.2)

/-- Whether a test is allowed (R295): destructively a clause that is SPARE, FENCED or TESTING, or off, and any array of the die while no
Dialect is active; preserving the die banks, and clauses that are neither SERVING nor FENCING (assumption 17). -/
def marchAllowed (s : State) (d kind index : Nat) (preserving : Bool) : Bool :=
  let c := clauseAt s (clauseIx d index)
  if kind = 0 then decide (index < 32) && (preserving || !s.dia.valid)
  else if kind = 1 then decide (index < 66) && c.st != .serving && c.st != .fencing
  else decide (kind = 2 ∧ index = 0) && (preserving || !s.dia.valid)

/-- Whether a test reaches an array: the arrays named; a preserving test never the TCM nor a SERVING or FENCING clause. -/
def marchTests (s : State) (d kind index : Nat) (preserving : Bool) (b : ArrBlock) : Bool :=
  match arrClause? b with
  | some x => x / 66 == d && (kind == 2 || (kind == 1 && x % 66 == index)) && !(preserving && repairWaits s b)
  | none => b.owner == d && (if b.kind == .bank then kind == 2 || (kind == 0 && b.blk / 32768 == index) else kind == 2 && !preserving)

/-- What a destructive test leaves: the arrays tested hold nothing written, as at power-on (assumption 17), and no poison. -/
def wipeArrays (s : State) (d kind index : Nat) : State :=
  let inBank (a : Nat) : Bool := a / 2 ^ 23 == d && (kind == 2 || (kind == 0 && a % 2 ^ 23 / 2 ^ 18 == index))
  let inClause (x : Nat) : Bool := x / 66 == d && (kind == 2 || (kind == 1 && x % 66 == index))
  { s with banks := s.banks.filter (fun p => !inBank p.1), imem := s.imem.filter (fun p => !inClause (p.1 / 16384)),
           dmem := s.dmem.filter (fun p => !inClause (p.1 / 262144)),
           tcm := if kind = 2 then s.tcm.filter (fun p => p.1 / 2 ^ 17 != d) else s.tcm,
           poison := s.poison.filter (fun b => !marchTests s d kind index false b),
           flips := s.flips.filter (fun p => !marchTests s d kind index false p.1) }

/-- MGT_MT_STAT as read (R302). -/
def March.stat (m : March) : Nat :=
  (if m.busy then 2 ^ 31 else 0) + 2 ^ 28 * m.result.toNat + 2 ^ 20 * m.failed.toNat + 2 ^ 12 * m.untested.toNat + m.yields.toNat

/-- Whether a parked command is a MARCH of a die. -/
def Parked.isMarch (d : Nat) : Parked → Bool
  | .march _ e _ _ _ => d == e
  | _ => false

/-- A test begins, or is refused; an off clause is powered for it (R20, R295, R302). -/
def beginMarch (s : State) (d kind index : Nat) (mode : Bool) (cmd : Option CmdHdr) : State :=
  let m : March := { marchAt s d with runMode := mode, runKind := BitVec.ofNat 8 kind, runIndex := BitVec.ofNat 7 index, failed := 0, untested := 0,
                                      yields := 0, row := none, rowYields := 0, skipped := [], powered := none, cmd := cmd }
  if marchAllowed s d kind index mode then
    let x := clauseIx d index
    if kind = 1 ∧ (clauseAt s x).powered = false then
      setMarch (modClause s x (fun c => { c with powered := true })) d { m with busy := true, result := 0, powered := some x }
    else setMarch s d { m with busy := true, result := 0 }
  else setMarch s d { m with busy := false, result := 4, cmd := none }

/-- The engine of a die, when free, takes the MARCH that waits longest; one refused completes STATE (R378, R404). `fuel` bounds the
refusals. -/
def nextMarch (s : State) (d : Nat) : Nat → State
  | 0 => s
  | fuel + 1 =>
    if (marchAt s d).busy then s
    else match s.parked.find? (Parked.isMarch d) with
      | some (.march h _ kind index mode) =>
        let s := beginMarch s d kind index mode (some h)
        if (marchAt s d).busy then s
        else nextMarch (complete { s with parked := s.parked.eraseP (Parked.isMarch d) } h 0x0701 stState []) d fuel
      | _ => s

/-- A test ends: a clause powered for it is off again, its command completes, TEST_FAIL when RESULT reads FAIL, and the next begins (R404). -/
def endMarch (s : State) (d : Nat) (m : March) : State :=
  let s := match m.powered with
    | some x => if (clauseAt s x).st = .off ∨ (clauseAt s x).st = .fenced then modClause s x (fun c => { c with powered := false }) else s
    | none => s
  let s := setMarch s d { m with busy := false, powered := none, cmd := none }
  let s := match m.cmd, s.parked.find? (Parked.isMarch d) with
    | some h, some _ =>
      complete { s with parked := s.parked.eraseP (Parked.isMarch d) } h 0x0701 (if m.result = 3 then stTestFail else stOk)
        (natLE 4 (marchAt s d).stat)
    | _, _ => s
  nextMarch s d (s.parked.length + 1)

end Sys2Proof.Machine
end

