-- ==== Sys2Proof/Machine/Arrays.lean ====
section
/-! DEFINITION. On-chip memory and queues (10): the scrubber and repairer, the march-test engine, conflict counters, and pushes and pops
of every queue. -/

namespace Sys2Proof.Machine

/-! ### Register writes (R302) -/

/-- BNK_CTRL_CLR: every conflict counter of the die is cleared. -/
def doBnkCtrlClr (s : State) (d : Nat) : State := { s with conflicts := s.conflicts.filter (fun p => p.1 / 69 != d) }

def execBnkCtrlClr (die : Nat) (s : State) : Host.Outcome State Fault Refusal := .next (hostReg s die (fun s => doBnkCtrlClr s die))

/-- EVT_Q_CTRL_CLR: HIGH and LOST of a queue are cleared. -/
def doEvtQCtrlClr (s : State) (d q : Nat) : State :=
  if 3 ≤ q then s else setEvq s (3 * d + q) { evqAt s (3 * d + q) with high := 0, lost := 0 }

def execEvtQCtrlClr (die q : Nat) (s : State) : Host.Outcome State Fault Refusal := .next (hostReg s die (fun s => doEvtQCtrlClr s die q))

/-- MGT_MT_CTRL_START: a test begins with the MODE, KIND and INDEX written; ignored while BUSY, and while a Dialect is active. -/
def doMgtMtCtrlStart (s : State) (d : Nat) : State :=
  let m := marchAt s d
  if s.dia.valid ∨ m.busy then s else beginMarch s d m.kind.toNat m.index.toNat m.mode none

def execMgtMtCtrlStart (die : Nat) (s : State) : Host.Outcome State Fault Refusal := .next (hostReg s die (fun s => doMgtMtCtrlStart s die))

/-! ### Scrubbing and repair (R287, R289-R292) -/

/-- A block found correctable: counted, written back with fresh check bits unless another master has written it since, and stuck when
three write-backs came before. -/
def scrubCorrect (s : State) (d : Nat) (b : ArrBlock) (syndrome : Nat) (rewritten : Bool) : State :=
  let s := setFlip (settle s b) b 0
  let n := tracked (scrubAt s d).tracker b
  let s := if rewritten then s
    else modScrub s d (fun g => { g with writebacks := g.writebacks + 1, tracker := trackBack g.tracker b })
  if n = 3 then declareStuck s d b syndrome else s

/-- What the scrubber does with one block (R285, R289, R290): a clean block leaves the tracker; an uncorrectable one is marked poisoned
and logged. -/
def scrubBlock (s : State) (d : Nat) (b : ArrBlock) (rewritten : Bool) : State :=
  let w := storedWord s b
  let syn := (rcSR w).toNat + 256 * (rcSC w).toNat
  match (rcRead w).1 with
  | .clean => modScrub (settle s b) d (fun g => { g with tracker := g.tracker.filter (fun p => p.1 != b) })
  | .corrected => scrubCorrect s d b syn rewritten
  | .checkBit => scrubCorrect s d b syn rewritten
  | .poisoned => settle s b
  | .uncorrectable => memEvent (settle s b) d 0x0020 b syn

/-- SCRUB_READ: bits of the arrays flip, and the scrubber reads the next block of its walk; PASSES counts at the walk's end (R289,
assumption 39). -/
def doScrubRead (s : State) (d : Nat) (upsets : List (ArrBlock × BitVec 80)) (rewritten : Bool) : State :=
  let s := upsets.foldl upset s
  if !(scrubAt s d).enable ∨ !engineRuns s d then s
  else
    let b := scanNow s d
    let s := scrubBlock s d b rewritten
    match scanNext? s d b with
    | some n => modScrub s d (fun g => { g with next := some n })
    | none => modScrub s d (fun g => { g with next := none, passes := g.passes + 1 })

def execScrubRead (die : Nat) (upsets : List (ArrBlock × BitVec 80)) (rewritten : Bool) (s : State) : Host.Outcome State Fault Refusal :=
  .next (doScrubRead s die upsets rewritten)

/-- ROW_REPAIR_DONE: the row of a stuck block has been copied to a spare row and the address switches; a deferred one only once its clause
is neither SERVING nor FENCING (R291, R292). `stalled`: the bank masters of the requests that waited for the row (R283). -/
def doRowRepairDone (s : State) (d : Nat) (b : ArrBlock) (stalled : List Nat) : State :=
  let g := scrubAt s d
  if !engineRuns s d ∨ !((g.repairing ++ g.deferred).any (sameRow b)) ∨ repairWaits s b then s
  else
    let g := { g with repairing := g.repairing.filter (fun q => !sameRow b q), deferred := g.deferred.filter (fun q => !sameRow b q) }
    let s := if b.kind = .bank then stalled.foldl (fun s m => conflict s d m) s else s
    let s := copyRow (setScrub s d (repairArrRow g [] (rowOfBlk b)).1) b
    modScrub s d (fun g => { g with tracker := g.tracker.filter (fun p => !sameRow b p.1) })

def execRowRepairDone (die : Nat) (blk : ArrBlock) (stalled : List Nat) (s : State) : Host.Outcome State Fault Refusal :=
  .next (doRowRepairDone s die blk stalled)

/-- MASTER_REWRITE: the die manager writes a poisoned block again from its master copy; a region without one keeps its poison (R290). -/
def doMasterRewrite (s : State) (d : Nat) (b : ArrBlock) : State :=
  if !dieLive s d ∨ !blockOn s d b ∨ !blockBad s b then s
  else match masterBlock? s b with
    | some bs => writeBlock s b bs
    | none => s

def execMasterRewrite (die : Nat) (blk : ArrBlock) (s : State) : Host.Outcome State Fault Refusal := .next (doMasterRewrite s die blk)

/-! ### March tests (R293-R296) -/

/-- The flipped bits of the arrays a preserving test borrowed are gone: each row was read, corrected and restored (R295). -/
def restoreRows (s : State) (tests : ArrBlock → Bool) : State :=
  let s := (s.flips.filter (fun p => tests p.1)).foldl (fun s p => settle s p.1) s
  { s with flips := s.flips.filter (fun p => !tests p.1) }

/-- MARCH_DONE: a test ends; March C- has met `defects`, and each failing row is repaired onto a spare row. A preserving test restores the
rows and logs MARCH_FAIL for each that no spare row takes; a destructive one leaves the arrays it tested without their contents. -/
def doMarchDone (s : State) (d : Nat) (defects : List StuckBits) : State :=
  let m := marchAt s d
  if !m.busy then s
  else
    let k := m.runKind.toNat
    let i := m.runIndex.toNat
    let tests (b : ArrBlock) : Bool := marchTests s d k i m.runMode b && !m.skipped.contains (rowOfBlk b)
    let r := marchRun s d defects tests
    let m := { m with failed := BitVec.ofNat 8 (min 255 r.2.1.length),
                      result := if r.2.2 ≠ [] then 3 else if r.2.1 ≠ [] then 2 else 1 }
    let s := if m.runMode then r.2.2.foldl (fun s b => memEvent s d 0x0022 b 0) (restoreRows r.1 tests) else wipeArrays r.1 d k i
    endMarch s d m

def execMarchDone (die : Nat) (defects : List StuckBits) (s : State) : Host.Outcome State Fault Refusal := .next (doMarchDone s die defects)

/-- MARCH_ROW_RETRY: a borrowed row that an access of a master made the engine yield is tested again after the holdoff; after 16 yields
it is skipped and counted UNTESTED. The stalled access counts as a conflict of its master (R283, R296). -/
def doMarchRowRetry (s : State) (d : Nat) (row : ArrBlock) (master : Nat) : State :=
  let m := marchAt s d
  if !m.busy ∨ !m.runMode ∨ !marchTests s d m.runKind.toNat m.runIndex.toNat true row then s
  else
    let n := (if m.row = some (rowOfBlk row) then m.rowYields else 0) + 1
    let s := if row.kind = .bank then conflict s d master else s
    setMarch s d (if 16 ≤ n then { m with yields := satInc m.yields, untested := satInc m.untested, row := none, rowYields := 0,
                                          skipped := m.skipped ++ [rowOfBlk row] }
      else { m with yields := satInc m.yields, row := some (rowOfBlk row), rowYields := n })

def execMarchRowRetry (die : Nat) (row : ArrBlock) (master : Nat) (s : State) : Host.Outcome State Fault Refusal :=
  .next (doMarchRowRetry s die row master)

/-! ### Pushes (R297-R299, R301) -/

/-- The place of the next word of a cell's input stream: after the newest waiting, else the first word its newest frame lacks (R133). -/
def nextInWord (s : State) (ci : CellId) : Nat × Nat :=
  let c := cellAt s (cellIx ci)
  let n := rlen (clauseRow s (clauseIx ci.die ci.clause))
  match c.inq.getLast? with
  | some w => if w.ix + 1 < n then (w.q, w.ix + 1) else (w.q + 1, 0)
  | none =>
    let got := sget 0 c.recWords c.nextQ
    match (List.range n).find? (fun i => !got.getLsbD i) with
    | some i => (c.nextQ, i)
    | none => (c.nextQ + 1, 0)

/-- QUEUE_PUSH: an item enters a queue. A full queue that back-pressures holds its producer, so nothing changes; a full event, telemetry
or trace queue discards the item and counts it. -/
def doQueuePush (s : State) (q : QRef) (it : QItem) : State :=
  match q, it with
  | .command (.ring c), .bytes b =>
    if 4 ≤ c ∨ !classRoom s c then s else { s with cmdq := s.cmdq ++ [⟨.ring c, (b ++ List.replicate 64 0).take 64⟩] }
  | .command src, .bytes b =>
    { s with cmdq := s.cmdq ++ [⟨src, (b ++ List.replicate 64 0).take 64⟩] }
  | .event d, .entry e => evqPush s d 0 (.entry e)
  | .telemetry d, .bytes b => evqPush s d 1 (.bytes b)
  | .trace d, .bytes b => evqPush s d 2 (.bytes b)
  | .cellIn ci, .word w =>
    let c := cellAt s (cellIx ci)
    let p := nextInWord s ci
    if c.inq.length < queueDepth s 0x01 ci.die then setCell s (cellIx ci) { c with inq := c.inq ++ [{ q := p.1, ix := p.2, w := w }] } else s
  | .cellOut ci, .word w =>
    let c := cellAt s (cellIx ci)
    match c.cur with
    | some g =>
      if c.outq.length < queueDepth s 0x02 ci.die then
        setCell s (cellIx ci) { c with outq := c.outq ++ [(g.q, g.pushed, w)], cur := some { g with pushed := g.pushed + 1 } }
      else s
    | none => s
  | .cellPort ci right, .vec v =>
    let c := cellAt s (cellIx ci)
    if portTakes s ci.die (if right then c.portR else c.portL) then
      setCell s (cellIx ci) (if right then { c with portR := c.portR ++ [v] } else { c with portL := c.portL ++ [v] })
    else s
  | .halo d k right, .vec v =>
    let x := clauseIx d k
    if haloLoad s x right < haloRoom s x right then haloPush s x right v else s
  | .ingress d p, .bytes b =>
    let n := portAt s (4 * d + p)
    if n.ingress.length < queueDepth s 0x05 d then
      setPort s (4 * d + p) { n with ingress := n.ingress ++ [⟨32, d, BitVec.ofNat 64 (leAt b 0 8), b.drop 8⟩] }
    else s
  | _, _ => s

def execQueuePush (q : QRef) (item : QItem) (s : State) : Host.Outcome State Fault Refusal := .next (doQueuePush s q item)

/-! ### Pops (R298-R301) -/

/-- Count what the flips found in an item's words, and say whether a word is uncorrectable (R300). -/
def checkWords (s : State) (d : Nat) (flips : List (BitVec 72)) : Bool × State :=
  flips.foldl (fun (p : Bool × State) f => match qClassOf f with
    | .clean => p
    | .corrected => (p.1, countMem p.2 d 6 false)
    | .uncorrectable => (true, countMem p.2 d 6 true)) (false, s)

/-- A damaged vector reaches a clause: the receiving line is withheld CHECK without a re-run, one fault of the clause (R300). -/
def damagedVector (s : State) (x n : Nat) : State :=
  let e := cellAt s (cellOfIx x n)
  let q := match e.cur with | some g => g.q | none => e.nextQ
  match (clauseAt s x).lineQ? q with
  | some l => transientClause (if l.settled then s else withhold s x l.line 2) x
  | none => transientClause s x

/-- A list with its first element replaced. -/
def setFirst {α : Type} (v : α) : List α → List α
  | [] => []
  | _ :: xs => v :: xs

/-- The oldest item of a queue is popped; words that are found uncorrectable are handled as R300 gives. Events go to the log, port and halo
vectors to the RECV that waits for them, ingress blocks to DRAM. -/
def popItem (s : State) (q : QRef) (flips : List (BitVec 72)) : State :=
  match q with
  | .command _ =>
    if !fwRuns s then s
    else match topEntry? s.cmdq with
      | none => s
      | some e =>
        let r := checkWords s 0 flips
        let e' : CmdEntry := if r.1 then { e with bytes := [] } else e
        { r.2 with cmdq := r.2.cmdq.eraseP (fun x => x == e), popped := r.2.popped ++ [e'] }
  | .event d =>
    if !fwRuns s then s
    else
      let r := checkWords s d flips
      if r.1 then
        let x := evqAt r.2 (3 * d)
        match x.items with
        | [] => r.2
        | _ :: rest => logLost (setEvq r.2 (3 * d) { x with items := rest, lost := satInc x.lost, lostNew := x.lostNew + 1 }) d 0
      else takeEvent r.2 d
  | .telemetry d => popQueue s d 1
  | .trace d => popQueue s d 2
  | .cellIn ci =>
    let i := cellIx ci
    match (cellAt s i).inq with
    | [] => s
    | w :: _ =>
      let r := checkWords s ci.die flips
      let s := if r.1 then modCell r.2 i (fun c => { c with inq := setFirst { w with poisoned := true } c.inq }) else r.2
      drainIn s i 1
  | .cellOut ci =>
    let i := cellIx ci
    match (cellAt s i).outq with
    | [] => s
    | w :: _ =>
      let r := checkWords s ci.die flips
      landWord (modCell r.2 i (fun c => { c with outq := c.outq.drop 1 })) (i / 16) (i % 16) w.1 w.2.1 w.2.2 r.1
  | .cellPort ci right =>
    let i := cellIx ci
    let c := cellAt s i
    if (if right then c.portR else c.portL) = [] then s
    else
      let r := checkWords s ci.die flips
      if !r.1 then r.2
      else
        let v := freeVec r.2
        damagedVector (modCell v.2 i (fun c =>
          if right then { c with portR := setFirst v.1 c.portR } else { c with portL := setFirst v.1 c.portL })) (i / 16) ci.cell
  | .halo d k right =>
    let x := clauseIx d k
    let c := clauseAt s x
    if (if right then c.haloR else c.haloL) = [] then s
    else
      let r := checkWords s d flips
      if !r.1 then r.2
      else
        let v := freeVec r.2
        damagedVector (modClause v.2 x (fun c =>
          if right then { c with haloR := setFirst v.1 c.haloR } else { c with haloL := setFirst v.1 c.haloL })) x (if right then 15 else 0)
  | .ingress d p =>
    if (portAt s (4 * d + p)).ingress = [] ∨ !hasForward s d then s
    else
      let r := checkWords s d flips
      forwardBurst r.2 d p r.1
where
  /-- A telemetry or trace queue gives up its oldest entry; a bad one counts as lost. -/
  popQueue (s : State) (d n : Nat) : State :=
    let r := checkWords s d flips
    let x := evqAt r.2 (3 * d + n)
    match x.items with
    | [] => s
    | _ :: rest =>
      let y := { x with items := rest }
      logLost (setEvq r.2 (3 * d + n) (if r.1 then { y with lost := satInc y.lost, lostNew := y.lostNew + 1 } else y)) d n
  /-- Two free words: what a damaged vector holds (assumption 4). -/
  freeVec (s : State) : BitVec 128 × State :=
    let a := drawFree s
    let b := drawFree a.2
    (a.1 ++ b.1, b.2)

/-- A pop and a push of one queue in the same cycle (R298): the pop takes the oldest item held at the start of the cycle, and the push
completes, at full in the freed slot; the losses of an event, telemetry or trace queue are reported after both. -/
def popPush (s : State) (q : QRef) (it : QItem) (flips : List (BitVec 72)) : State :=
  match q, it with
  | .event d, .entry e => evSame s d 0 (.entry e)
  | .telemetry d, .bytes b => evSame s d 1 (.bytes b)
  | .trace d, .bytes b => evSame s d 2 (.bytes b)
  | _, _ => doQueuePush (popItem s q flips) q it
where
  /-- The pushed item takes its place behind those held, then the oldest leaves. -/
  evSame (s : State) (d n : Nat) (it : QItem) : State :=
    let x := evqAt s (3 * d + n)
    if x.items = [] ∨ (n = 0 ∧ !fwRuns s) then doQueuePush (popItem s q flips) q it
    else popItem (setEvq s (3 * d + n) { x with items := x.items ++ [it], high := if x.high.toNat < x.items.length then BitVec.ofNat 10 x.items.length else x.high }) q flips

/-- QUEUE_POP: an item is popped, `push` reaching the queue in the same cycle. -/
def doQueuePop (s : State) (q : QRef) (push : Option QItem) (flips : List (BitVec 72)) : State :=
  match push with
  | some it => popPush s q it flips
  | none => popItem s q flips

def execQueuePop (q : QRef) (push : Option QItem) (flips : List (BitVec 72)) (s : State) : Host.Outcome State Fault Refusal :=
  .next (doQueuePop s q push flips)

end Sys2Proof.Machine
end

