-- ==== Sys2Proof/Machine/CellCtl.lean ====
section
/-! DEFINITION. Control instructions of the cells (R130-R132, R141, R143, R149-R151, R154). -/

namespace Sys2Proof.Machine

/-- Whether a V-format word leaves the fields it does not use 0 and has a defined X (R148). -/
def illegalV (w : CellWord) (d a b g : Bool) (xOk : Bool) : Bool :=
  (!d && fD w != 0) || (!a && fA w != 0) || (!b && fB w != 0) || (!g && fG w != 0) || !xOk

/-- Whether a scalar field is out of range (R148). -/
def badS (n : Nat) : Bool := 16 ≤ n

/-- Whether a predicate field is out of range (R148). -/
def badP (n : Nat) : Bool := 8 ≤ n

/-- The opcode of a cell instruction word. -/
def opOf (w : Word) : Nat := (w.extractLsb' 26 6).toNat

/-- Opcode 0x00 and the reserved opcodes (R150). -/
def reservedOp (op : Nat) : Bool :=
  op == 0 || (0x0D ≤ op && op ≤ 0x0F) || (0x1D ≤ op && op ≤ 0x1F) || 0x3C ≤ op

/-- RLEN of the row a cell works for. -/
def cellRlen (s : State) (ci : CellId) : Nat := rlen (clauseRow s (clauseIx ci.die ci.clause))

/-- ILL: traps ILLEGAL (R150). -/
def doIll (s : State) (ci : CellId) (w : CellWord) : State :=
  let op := opOf (imemWord s (cellIx ci) (cellAt s (cellIx ci)).pc.toNat)
  cellInstr s ci (if reservedOp op then op else 0) w true false [] 1 (fun _ => .trap 2 0 none)

def execIll (ci : CellId) (w : CellWord) (s : State) : Host.Outcome State Fault Refusal := .next (doIll (fetched s ci) ci w)

/-- NOP: nothing (R150). -/
def doCellNop (s : State) (ci : CellId) (w : CellWord) : State :=
  cellInstr s ci 0x01 w (illegalV w false false false false (fX w == 0)) false [] 1 (regBody s ci id)

def execCellNop (ci : CellId) (w : CellWord) (s : State) : Host.Outcome State Fault Refusal := .next (doCellNop (fetched s ci) ci w)

/-- COND of a BR: 0 ALWAYS, 1 EQ, 2 NE, 3 LT, 4 GE, 5 LTU, 6 GEU (R149). -/
def condHolds (cond : Nat) (a b : BitVec 16) : Bool := cond == 0 || cmpOp (cond - 1) a b

/-- BR: PC to TARGET when COND holds (R149, R150). A and B name registers in every COND; with ALWAYS they are read by no comparison and
may hold any register (assumption 36). -/
def doBr (s : State) (ci : CellId) (w : CellWord) : State :=
  cellInstr s ci 0x02 w (fB2221 w != 0 || fB10 w != 0 || fCond w == 7) (badS (fA w) || badS (fB w))
    (if fCond w = 0 then [] else [fA w, fB w]) 1
    (fun c => if condHolds (fCond w) (c.rs (fA w)) (c.rs (fB w)) then .goto s (fTarget w) 2 else .ok s)

def execBr (ci : CellId) (w : CellWord) (s : State) : Host.Outcome State Fault Refusal := .next (doBr (fetched s ci) ci w)

/-- Whether an instruction may not stand at a loop's END (R151): BR, CALL, JR, LINE, LOOPI, LOOPR. -/
def noLoopEnd (op : Nat) : Bool := op == 0x02 || op == 0x05 || op == 0x06 || op == 0x07 || op == 0x03 || op == 0x04

/-- Open a loop level of `count` over the body from PC + 1 to END, or go past END for a count of 0 (R151). -/
def loopOpen (s : State) (ci : CellId) (c : Cell) (count stop : Nat) : CellRes :=
  let i := cellIx ci
  let pc := c.pc.toNat
  if stop ≤ pc ∨ noLoopEnd (opOf (imemWord s i stop)) then .trap 11 0 none
  else if count = 0 then .skip s (stop + 1)
  else if 2 ≤ c.loops.length then .trap 11 0 none
  else .ok (setCell s i { c with loops := ⟨count, pc + 1, stop⟩ :: c.loops })

/-- LOOPI (R150, R151). -/
def doLoopi (s : State) (ci : CellId) (w : CellWord) : State :=
  cellInstr s ci 0x03 w (fL1510 w != 0) false [] 1 (fun c => loopOpen s ci c (fCount w) (fTarget w))

def execLoopi (ci : CellId) (w : CellWord) (s : State) : Host.Outcome State Fault Refusal := .next (doLoopi (fetched s ci) ci w)

/-- LOOPR: as LOOPI with count sA (R150, R151). -/
def doLoopr (s : State) (ci : CellId) (w : CellWord) : State :=
  cellInstr s ci 0x04 w (fCond w != 0 || fB2221 w != 0 || fB10 w != 0 || fB w != 0) (badS (fA w)) [fA w] 1
    (fun c => loopOpen s ci c (c.rs (fA w)).toNat (fTarget w))

def execLoopr (ci : CellId) (w : CellWord) (s : State) : Host.Outcome State Fault Refusal := .next (doLoopr (fetched s ci) ci w)

/-- CALL: s15 holds PC + 1, PC goes to TARGET (R150). -/
def doCall (s : State) (ci : CellId) (w : CellWord) : State :=
  cellInstr s ci 0x05 w (fCond w != 0 || fB2221 w != 0 || fB10 w != 0 || fA w != 0 || fB w != 0) false [] 2
    (fun c => .goto (setCell s (cellIx ci) (c.ws 15 (BitVec.ofNat 16 (c.pc.toNat + 1)))) (fTarget w) 2)

def execCall (ci : CellId) (w : CellWord) (s : State) : Host.Outcome State Fault Refusal := .next (doCall (fetched s ci) ci w)

/-- JR: PC goes to sA[9:0] (R150). -/
def doJr (s : State) (ci : CellId) (w : CellWord) : State :=
  cellInstr s ci 0x06 w (illegalV w false true false false (fX w == 0)) (badS (fA w)) [fA w] 2
    (fun c => .goto s ((c.rs (fA w)).toNat % 1024) 2)

def execJr (ci : CellId) (w : CellWord) (s : State) : Host.Outcome State Fault Refusal := .next (doJr (fetched s ci) ci w)

/-- A segment ends (R130, R158, R159): its length, the LINE's own cycle included, goes into CEL_SEGMAX, and a length beyond
128*P waits for its CELL_OVERRUN. -/
def endSegment (c : Cell) (p : Nat) : Cell :=
  match c.cur with
  | none => { c with loops := [], st := .wait }
  | some g =>
    let n := g.cycles + 1
    { c with loops := [], st := .wait, cur := none, nextQ := max c.nextQ (g.q + 1),
             segMax := if c.segMax.toNat < n then BitVec.ofNat 16 (min n 65535) else c.segMax,
             overLen := if 128 * p < n then c.overLen ++ [n] else c.overLen }

/-- LINE: the segment ends and the cell waits for its dispatch; every loop level ends (R130, R132, R140, R151, R158). -/
def doLine (s : State) (ci : CellId) (w : CellWord) : State :=
  let p := (clauseRow s (clauseIx ci.die ci.clause)).p
  cellInstr s ci 0x07 w (illegalV w false false false false (fX w == 0)) false [] 1
    (fun c =>
      if c.frame.isNone then .trap 8 0 none
      else match c.cur with
        | some g =>
          if g.pushed < 8 then .trap 9 0 none
          else .goto (setCell s (cellIx ci) (endSegment c p)) (c.pc.toNat + 1) 0
        | none => .goto (setCell s (cellIx ci) (endSegment c p)) (c.pc.toNat + 1) 0)

def execLine (ci : CellId) (w : CellWord) (s : State) : Host.Outcome State Fault Refusal := .next (doLine (fetched s ci) ci w)

/-- Whether a declaration meets every constraint of R132. -/
def frameOk (c : Cell) (rl : Nat) (f : FrameDecl) : Bool :=
  let stop := f.fbase + f.k * f.fsize rl
  f.fbase % 8 == 0 && 3 ≤ f.k && f.k ≤ 31 && f.cw ≤ 63 && f.logw % 2 == 0 && f.logw ≤ 14 && stop ≤ 0x3800 &&
    (c.dataLen == 0 || !rangesMeet f.fbase (f.k * f.fsize rl) c.dataLo c.dataLen)

/-- FRAME: declares the frames (R132, R150). -/
def doFrame (s : State) (ci : CellId) (w : CellWord) : State :=
  cellInstr s ci 0x08 w (illegalV w false true true false (fX w == 0)) (badS (fA w) || badS (fB w)) [fA w, fB w] 1
    (fun c =>
      let b := c.rs (fB w)
      let f : FrameDecl := { fbase := (c.rs (fA w)).toNat, k := (b.extractLsb' 0 5).toNat, cw := (b.extractLsb' 5 6).toNat,
                             logw := (b.extractLsb' 11 4).toNat }
      if b.getLsbD 15 ∨ !frameOk c (cellRlen s ci) f then .trap 8 0 none
      else match c.frame with
        | none => .ok (setCell s (cellIx ci) { c with frame := some f })
        | some g => if g = f then .ok s else .trap 8 0 none)

def execFrame (ci : CellId) (w : CellWord) (s : State) : Host.Outcome State Fault Refusal := .next (doFrame (fetched s ci) ci w)

/-- SEG: SEG takes sA[3:0] (R150). -/
def doSeg (s : State) (ci : CellId) (w : CellWord) : State :=
  cellInstr s ci 0x09 w (illegalV w false true false false (fX w == 0)) (badS (fA w)) [fA w] 1
    (regBody s ci (fun c => { c with seg := (c.rs (fA w)).extractLsb' 0 4 }))

def execSeg (ci : CellId) (w : CellWord) (s : State) : Host.Outcome State Fault Refusal := .next (doSeg (fetched s ci) ci w)

/-- A context item of GETC (R150). -/
def context (s : State) (ci : CellId) (x : Nat) : Nat :=
  let k := clauseIx ci.die ci.clause
  let g := (clauseSlot? s k).getD ⟨ci.die, 0, 0, 0⟩
  let r := clauseRow s k
  match x with
  | 0 => g.slot | 1 => g.pos | 2 => ci.cell | 3 => g.row | 4 => ci.die | 5 => r.p | 6 => r.strips | 7 => r.mode | _ => rlen r

/-- GETC: sD takes context item X (R150). -/
def doGetc (s : State) (ci : CellId) (w : CellWord) : State :=
  cellInstr s ci 0x0A w (illegalV w true false false false (fX w ≤ 8)) (badS (fD w)) [] 1
    (regBody s ci (fun c => c.ws (fD w) (BitVec.ofNat 16 (context s ci (fX w)))))

def execGetc (ci : CellId) (w : CellWord) (s : State) : Host.Outcome State Fault Refusal := .next (doGetc (fetched s ci) ci w)

/-- BWAIT: waits until at most sA bank requests are outstanding (R143, R150). -/
def doBwait (s : State) (ci : CellId) (w : CellWord) : State :=
  cellInstr s ci 0x0B w (illegalV w false true false false (fX w == 0)) (badS (fA w)) [fA w] 1
    (fun c => if (c.rs (fA w)).toNat < c.banks.length then .wait (.banks (c.rs (fA w)).toNat) else .ok s)

def execBwait (ci : CellId) (w : CellWord) (s : State) : Host.Outcome State Fault Refusal := .next (doBwait (fetched s ci) ci w)

/-- TRAP: traps SOFT with code X (R150, R154). -/
def doTrap (s : State) (ci : CellId) (w : CellWord) : State :=
  cellInstr s ci 0x0C w (illegalV w false false false false true) false [] 1 (fun _ => .trap 13 (fX w) none)

def execTrap (ci : CellId) (w : CellWord) (s : State) : Host.Outcome State Fault Refusal := .next (doTrap (fetched s ci) ci w)

end Sys2Proof.Machine
end

