-- ==== Sys2Proof/Machine/CellScalar.lean ====
section
/-! DEFINITION. Scalar and predicate instructions of the cells (R127, R129, R150). -/

namespace Sys2Proof.Machine

/-- A three-register scalar instruction: sD takes f sA sB. -/
def scalar3 (s : State) (ci : CellId) (op : Nat) (w : CellWord) (xOk : Bool) (f : BitVec 16 → BitVec 16 → BitVec 16) : State :=
  cellInstr s ci op w (illegalV w true true true false xOk) (badS (fD w) || badS (fA w) || badS (fB w)) [fA w, fB w] 1
    (regBody s ci (fun c => c.ws (fD w) (f (c.rs (fA w)) (c.rs (fB w)))))

/-- An immediate scalar instruction: sD takes f sA IMM16. -/
def scalarI (s : State) (ci : CellId) (op : Nat) (w : CellWord) (f : BitVec 16 → BitVec 16 → BitVec 16) : State :=
  cellInstr s ci op w false (badS (fD w) || badS (fA w)) [fA w] 1
    (regBody s ci (fun c => c.ws (fD w) (f (c.rs (fA w)) (fImm w))))

/-- ADD: sD takes sA + sB (R150). -/
def doAdd (s : State) (ci : CellId) (w : CellWord) : State := scalar3 s ci 0x10 w (fX w == 0) (fun a b => a + b)

def execAdd (ci : CellId) (w : CellWord) (s : State) : Host.Outcome State Fault Refusal := .next (doAdd (fetched s ci) ci w)

/-- SUB: sD takes sA - sB (R150). -/
def doSub (s : State) (ci : CellId) (w : CellWord) : State := scalar3 s ci 0x11 w (fX w == 0) (fun a b => a - b)

def execSub (ci : CellId) (w : CellWord) (s : State) : Host.Outcome State Fault Refusal := .next (doSub (fetched s ci) ci w)

/-- LOG (R150). -/
def doLog (s : State) (ci : CellId) (w : CellWord) : State := scalar3 s ci 0x12 w (fX w ≤ 3) (logOp (fX w))

def execLog (ci : CellId) (w : CellWord) (s : State) : Host.Outcome State Fault Refusal := .next (doLog (fetched s ci) ci w)

/-- Whether an X of SHF is defined: [5:4] names a shift, [7] is 0, and [3:0] is 0 when the amount comes from sB (R150). -/
def shfX (x : Nat) : Bool := x / 128 == 0 && x / 16 % 4 ≤ 2 && (x / 64 % 2 == 1 || x % 16 == 0)

/-- SHF: the amount is X[3:0] when X[6] is 1, else sB[3:0]; B is then a field the instruction does not use, and must be 0 (R148, R150;
assumption 36). -/
def doShf (s : State) (ci : CellId) (w : CellWord) : State :=
  let x := fX w
  let imm := x / 64 % 2 == 1
  cellInstr s ci 0x13 w (illegalV w true true (!imm) false (shfX x)) (badS (fD w) || badS (fA w) || (!imm && badS (fB w)))
    (if imm then [fA w] else [fA w, fB w]) 1
    (regBody s ci (fun c =>
      c.ws (fD w) (shiftOp (x / 16 % 4) (c.rs (fA w)) (if imm then x % 16 else (c.rs (fB w)).toNat % 16))))

def execShf (ci : CellId) (w : CellWord) (s : State) : Host.Outcome State Fault Refusal := .next (doShf (fetched s ci) ci w)

/-- MUL (R150). -/
def doMul (s : State) (ci : CellId) (w : CellWord) : State := scalar3 s ci 0x14 w (fX w ≤ 2) (mulOp (fX w))

def execMul (ci : CellId) (w : CellWord) (s : State) : Host.Outcome State Fault Refusal := .next (doMul (fetched s ci) ci w)

/-- MNX (R150). -/
def doMnx (s : State) (ci : CellId) (w : CellWord) : State := scalar3 s ci 0x15 w (fX w ≤ 3) (mnxOp (fX w))

def execMnx (ci : CellId) (w : CellWord) (s : State) : Host.Outcome State Fault Refusal := .next (doMnx (fetched s ci) ci w)

/-- ADDI (R150). -/
def doAddi (s : State) (ci : CellId) (w : CellWord) : State := scalarI s ci 0x16 w (fun a i => a + i)

def execAddi (ci : CellId) (w : CellWord) (s : State) : Host.Outcome State Fault Refusal := .next (doAddi (fetched s ci) ci w)

/-- ANDI (R150). -/
def doAndi (s : State) (ci : CellId) (w : CellWord) : State := scalarI s ci 0x17 w (fun a i => a &&& i)

def execAndi (ci : CellId) (w : CellWord) (s : State) : Host.Outcome State Fault Refusal := .next (doAndi (fetched s ci) ci w)

/-- ORI (R150). -/
def doOri (s : State) (ci : CellId) (w : CellWord) : State := scalarI s ci 0x18 w (fun a i => a ||| i)

def execOri (ci : CellId) (w : CellWord) (s : State) : Host.Outcome State Fault Refusal := .next (doOri (fetched s ci) ci w)

/-- The address of LD and ST: sA + IMM16 modulo 65,536 (R150, R151). -/
def ldstAddr (c : Cell) (w : CellWord) : Nat := (c.rs (fA w) + fImm w).toNat

/-- LD: sD takes the halfword (R129, R150). -/
def doLd (s : State) (ci : CellId) (w : CellWord) : State :=
  cellInstr s ci 0x19 w false (badS (fD w) || badS (fA w)) [fA w] 1
    (fun c => match loadMem s (cellIx ci) c (cellRlen s ci) (ldstAddr c w) 2 2 with
      | .ok bs => .ok (setCell s (cellIx ci) (c.ws (fD w) (BitVec.ofNat 16 (leNat bs))))
      | .trap e a => .trap e 0 a
      | .wait st => .wait st)

def execLd (ci : CellId) (w : CellWord) (s : State) : Host.Outcome State Fault Refusal := .next (doLd (loading (fetched s ci) ci (fun c => [ldstAddr c w]) 2 2) ci w)

/-- ST: the halfword takes sD (R129, R150). -/
def doSt (s : State) (ci : CellId) (w : CellWord) : State :=
  cellInstr s ci 0x1A w false (badS (fD w) || badS (fA w)) [fD w, fA w] 1
    (fun c => match storeCheck c (cellRlen s ci) (ldstAddr c w) 2 2 with
      | .ok _ => .ok (dmWriteAll s (cellIx ci) (ldstAddr c w) (natLE 2 (c.rs (fD w)).toNat))
      | .trap e a => .trap e 0 a
      | .wait st => .wait st)

def execSt (ci : CellId) (w : CellWord) (s : State) : Host.Outcome State Fault Refusal := .next (doSt (fetched s ci) ci w)

/-- PLOG's operation: X 0 AND, 1 OR, 2 XOR, 3 ANDN, 4 NOT pA (R150). -/
def plogOp (x : Nat) (a b : BitVec 8) : BitVec 8 :=
  match x with
  | 0 => a &&& b
  | 1 => a ||| b
  | 2 => a ^^^ b
  | 3 => a &&& ~~~ b
  | _ => ~~~ a

/-- PLOG (R150). -/
def doPlog (s : State) (ci : CellId) (w : CellWord) : State :=
  let x := fX w
  cellInstr s ci 0x1B w (illegalV w true true (x != 4) false (x ≤ 4)) (badP (fD w) || badP (fA w) || (x != 4 && badP (fB w)))
    [] 1 (regBody s ci (fun c => c.wp (fD w) (plogOp x (c.rp (fA w)) (c.rp (fB w)))))

def execPlog (ci : CellId) (w : CellWord) (s : State) : Host.Outcome State Fault Refusal := .next (doPlog (fetched s ci) ci w)

/-- PMOV: X 0 sD takes pA, zero-extended; X 1 pD takes sA[7:0] (R150). -/
def doPmov (s : State) (ci : CellId) (w : CellWord) : State :=
  let x := fX w
  cellInstr s ci 0x1C w (illegalV w true true false false (x ≤ 1))
    (if x == 1 then badP (fD w) || badS (fA w) else badS (fD w) || badP (fA w)) (if x == 1 then [fA w] else []) 1
    (regBody s ci (fun c =>
      if x = 1 then c.wp (fD w) ((c.rs (fA w)).extractLsb' 0 8) else c.ws (fD w) ((c.rp (fA w)).zeroExtend 16)))

def execPmov (ci : CellId) (w : CellWord) (s : State) : Host.Outcome State Fault Refusal := .next (doPmov (fetched s ci) ci w)

end Sys2Proof.Machine
end

