-- ==== Sys2Proof/Machine/CellVector.lean ====
section
/-! DEFINITION. Vector instructions of the cells (R148, R150-R152). -/

namespace Sys2Proof.Machine

/-- The guard of a guarded instruction (R148). -/
def guardOf (c : Cell) (w : CellWord) : BitVec 8 := c.rp (fG w)

/-- A guarded lane-wise instruction of two vectors: lane i of vD takes f of lanes i. -/
def vector3 (s : State) (ci : CellId) (op cycles : Nat) (w : CellWord) (useB xOk : Bool)
    (f : BitVec 16 → BitVec 16 → BitVec 16) : State :=
  cellInstr s ci op w (illegalV w true true useB true xOk) false [] cycles
    (regBody s ci (fun c => c.wvG (fD w) (guardOf c w) (fun i => f (lane (c.rv (fA w)) i) (lane (c.rv (fB w)) i))))

/-- VADD (R150). -/
def doVadd (s : State) (ci : CellId) (w : CellWord) : State := vector3 s ci 0x20 1 w true (fX w ≤ 2) (addSubOp false (fX w))

def execVadd (ci : CellId) (w : CellWord) (s : State) : Host.Outcome State Fault Refusal := .next (doVadd (fetched s ci) ci w)

/-- VSUB (R150). -/
def doVsub (s : State) (ci : CellId) (w : CellWord) : State := vector3 s ci 0x21 1 w true (fX w ≤ 2) (addSubOp true (fX w))

def execVsub (ci : CellId) (w : CellWord) (s : State) : Host.Outcome State Fault Refusal := .next (doVsub (fetched s ci) ci w)

/-- Whether an X of VMUL is defined: [5:4] 0; in mode 3 a shift of 1-15, else [3:0] 0 (R150). -/
def vmulX (x : Nat) : Bool := x / 16 % 4 == 0 && (if x / 64 == 3 then x % 16 != 0 else x % 16 == 0)

/-- VMUL on one lane (R150). -/
def vmulOp (x : Nat) (a b : BitVec 16) : BitVec 16 :=
  if x / 64 = 3 then
    let sh := x % 16
    BitVec.ofNat 16 (min 0xFFFF ((a.toNat * b.toNat + 2 ^ (sh - 1)) / 2 ^ sh))
  else mulOp (x / 64) a b

/-- VMUL (R150). -/
def doVmul (s : State) (ci : CellId) (w : CellWord) : State := vector3 s ci 0x22 2 w true (vmulX (fX w)) (vmulOp (fX w))

def execVmul (ci : CellId) (w : CellWord) (s : State) : Host.Outcome State Fault Refusal := .next (doVmul (fetched s ci) ci w)

/-- VLOG (R150). -/
def doVlog (s : State) (ci : CellId) (w : CellWord) : State := vector3 s ci 0x23 1 w true (fX w ≤ 3) (logOp (fX w))

def execVlog (ci : CellId) (w : CellWord) (s : State) : Host.Outcome State Fault Refusal := .next (doVlog (fetched s ci) ci w)

/-- VSHF: shift each lane by X[3:0]; X[5:4] as SHF; X[7:6] 0 (R150). -/
def doVshf (s : State) (ci : CellId) (w : CellWord) : State :=
  let x := fX w
  vector3 s ci 0x24 1 w false (x / 64 == 0 && x / 16 ≤ 2) (fun a _ => shiftOp (x / 16) a (x % 16))

def execVshf (ci : CellId) (w : CellWord) (s : State) : Host.Outcome State Fault Refusal := .next (doVshf (fetched s ci) ci w)

/-- VMNX (R150). -/
def doVmnx (s : State) (ci : CellId) (w : CellWord) : State := vector3 s ci 0x25 1 w true (fX w ≤ 3) (mnxOp (fX w))

def execVmnx (ci : CellId) (w : CellWord) (s : State) : Host.Outcome State Fault Refusal := .next (doVmnx (fetched s ci) ci w)

/-- Eight bits from a test of each lane. -/
def ofBits (f : Nat → Bool) : BitVec 8 := (List.range 8).foldl (fun p i => if f i then p ||| (1#8 <<< i) else p) 0

/-- VCMP: an unguarded lane writes 0 (R148, R150). -/
def doVcmp (s : State) (ci : CellId) (w : CellWord) : State :=
  cellInstr s ci 0x26 w (illegalV w true true true true (fX w ≤ 5)) (badP (fD w)) [] 1
    (regBody s ci (fun c => c.wp (fD w) (ofBits (fun i =>
      (guardOf c w).getLsbD i && cmpOp (fX w) (lane (c.rv (fA w)) i) (lane (c.rv (fB w)) i)))))

def execVcmp (ci : CellId) (w : CellWord) (s : State) : Host.Outcome State Fault Refusal := .next (doVcmp (fetched s ci) ci w)

/-- VSEL: pG selects vA or vB; no guard applies (R148, R150). -/
def doVsel (s : State) (ci : CellId) (w : CellWord) : State :=
  cellInstr s ci 0x27 w (illegalV w true true true true (fX w == 0)) false [] 1
    (regBody s ci (fun c => c.wv (fD w) (ofLanes (fun i =>
      if (c.rp (fG w)).getLsbD i then lane (c.rv (fA w)) i else lane (c.rv (fB w)) i))))

def execVsel (ci : CellId) (w : CellWord) (s : State) : Host.Outcome State Fault Refusal := .next (doVsel (fetched s ci) ci w)

/-- VBC: every guarded lane takes sA (R150). -/
def doVbc (s : State) (ci : CellId) (w : CellWord) : State :=
  cellInstr s ci 0x28 w (illegalV w true true false true (fX w == 0)) (badS (fA w)) [fA w] 1
    (regBody s ci (fun c => c.wvG (fD w) (guardOf c w) (fun _ => c.rs (fA w))))

def execVbc (ci : CellId) (w : CellWord) (s : State) : Host.Outcome State Fault Refusal := .next (doVbc (fetched s ci) ci w)

/-- VEXT: sD takes lane X[2:0] of vA (R150). -/
def doVext (s : State) (ci : CellId) (w : CellWord) : State :=
  cellInstr s ci 0x29 w (illegalV w true true false false (fX w ≤ 7)) (badS (fD w)) [] 1
    (regBody s ci (fun c => c.ws (fD w) (lane (c.rv (fA w)) (fX w))))

def execVext (ci : CellId) (w : CellWord) (s : State) : Host.Outcome State Fault Refusal := .next (doVext (fetched s ci) ci w)

/-- VINS: lane X[2:0] of vD takes sA, when that lane's guard is 1 (R148, R150). -/
def doVins (s : State) (ci : CellId) (w : CellWord) : State :=
  cellInstr s ci 0x2A w (illegalV w true true false true (fX w ≤ 7)) (badS (fA w)) [fA w] 1
    (regBody s ci (fun c =>
      if (guardOf c w).getLsbD (fX w) then c.wv (fD w) (setLaneV (c.rv (fD w)) (fX w) (c.rs (fA w))) else c))

def execVins (ci : CellId) (w : CellWord) (s : State) : Host.Outcome State Fault Refusal := .next (doVins (fetched s ci) ci w)

/-- VSLD: the eight lanes that begin at lane k of vA followed by vB, k = X[2:0] (R150). -/
def doVsld (s : State) (ci : CellId) (w : CellWord) : State :=
  cellInstr s ci 0x2B w (illegalV w true true true true (fX w ≤ 7)) false [] 1
    (regBody s ci (fun c => c.wvG (fD w) (guardOf c w) (fun i =>
      if i + fX w < 8 then lane (c.rv (fA w)) (i + fX w) else lane (c.rv (fB w)) (i + fX w - 8))))

def execVsld (ci : CellId) (w : CellWord) (s : State) : Host.Outcome State Fault Refusal := .next (doVsld (fetched s ci) ci w)

/-- The address of a vector access: sA + unit * sext(X), modulo 65,536 (R150, R151). -/
def vecAddr (c : Cell) (w : CellWord) (unit : Nat) : Nat := effAddr (c.rs (fA w)) (unit * sextX w)

/-- A guarded load: `n` bytes aligned to `al` at a multiple of `unit`, lane i taking f of the bytes. -/
def vecLoad (s : State) (ci : CellId) (op : Nat) (w : CellWord) (unit : Nat) (f : List Byte → Nat → BitVec 16) : State :=
  cellInstr s ci op w (illegalV w true true false true true) (badS (fA w)) [fA w] 1
    (fun c => match loadMem s (cellIx ci) c (cellRlen s ci) (vecAddr c w unit) unit unit with
      | .ok bs => .ok (setCell s (cellIx ci) (c.wvG (fD w) (guardOf c w) (f bs)))
      | .trap e a => .trap e 0 a
      | .wait st => .wait st)

/-- VLD: vD takes 16 bytes (R150). -/
def doVld (s : State) (ci : CellId) (w : CellWord) : State :=
  vecLoad s ci 0x2C w 16 (fun bs i => BitVec.ofNat 16 (leAt bs (2 * i) 2))

def execVld (ci : CellId) (w : CellWord) (s : State) : Host.Outcome State Fault Refusal := .next (doVld (loading (fetched s ci) ci (fun c => [vecAddr c w 16]) 16 16) ci w)

/-- A guarded store: `unit` bytes, lane i giving `unit / 8` of them; unguarded lanes are not stored (R148). -/
def vecStore (s : State) (ci : CellId) (op : Nat) (w : CellWord) (unit : Nat) : State :=
  cellInstr s ci op w (illegalV w true true false true true) (badS (fA w)) [fA w] 1
    (fun c => match storeCheck c (cellRlen s ci) (vecAddr c w unit) unit unit with
      | .ok _ => .ok (dmWrite s (cellIx ci) (vecAddr c w unit) ((List.range 8).flatMap (fun i =>
          (natLE (unit / 8) (lane (c.rv (fD w)) i).toNat).map
            (fun b => if (guardOf c w).getLsbD i then some b else none))))
      | .trap e a => .trap e 0 a
      | .wait st => .wait st)

/-- VST: 16 bytes take vD (R150). -/
def doVst (s : State) (ci : CellId) (w : CellWord) : State := vecStore s ci 0x2D w 16

def execVst (ci : CellId) (w : CellWord) (s : State) : Host.Outcome State Fault Refusal := .next (doVst (fetched s ci) ci w)

/-- VLDB: lane i takes byte i, zero-extended (R150). -/
def doVldb (s : State) (ci : CellId) (w : CellWord) : State :=
  vecLoad s ci 0x2E w 8 (fun bs i => (byteAt bs i).zeroExtend 16)

def execVldb (ci : CellId) (w : CellWord) (s : State) : Host.Outcome State Fault Refusal := .next (doVldb (loading (fetched s ci) ci (fun c => [vecAddr c w 8]) 8 8) ci w)

/-- VSTB: byte i takes lane i's low byte (R150). -/
def doVstb (s : State) (ci : CellId) (w : CellWord) : State := vecStore s ci 0x2F w 8

def execVstb (ci : CellId) (w : CellWord) (s : State) : Host.Outcome State Fault Refusal := .next (doVstb (fetched s ci) ci w)

/-- UNPK: lane i takes bits [4i+3:4i] of the 32 bits at sA + 4*sext(X) (R150). -/
def doUnpk (s : State) (ci : CellId) (w : CellWord) : State :=
  vecLoad s ci 0x31 w 4 (fun bs i => BitVec.ofNat 16 (leNat bs / 16 ^ i % 16))

def execUnpk (ci : CellId) (w : CellWord) (s : State) : Host.Outcome State Fault Refusal := .next (doUnpk (fetched s ci) ci w)

/-- The outcome of several loads: the lowest trap that is no POISON first, then a stall, then a poisoned byte (R143, R154). -/
def joinLoads (rs : List MemRes) : Option MemRes :=
  let hard := lowest (rs.map (fun r => match r with | .trap e none => some e | _ => none))
  match hard with
  | some e => some (.trap e none)
  | none => match rs.find? (fun r => match r with | .wait _ => true | _ => false) with
    | some r => some r
    | none => rs.find? (fun r => match r with | .trap .. => true | _ => false)

/-- LUTV: each guarded lane takes the halfword at sB + 2*vA[i]; an unguarded lane reads no entry (R148, R150, R151). -/
def doLutv (s : State) (ci : CellId) (w : CellWord) : State :=
  cellInstr s ci 0x30 w (illegalV w true true true true (fX w == 0)) (badS (fB w)) [fB w] 4
    (fun c =>
      let base := c.rs (fB w)
      let get (i : Nat) : MemRes :=
        loadMem s (cellIx ci) c (cellRlen s ci) (effAddr base (2 * (lane (c.rv (fA w)) i).toNat)) 2 1
      let rs := ((List.range 8).filter (fun i => (guardOf c w).getLsbD i)).map get
      if base.getLsbD 0 then .trap 4 0 none
      else match joinLoads rs with
        | some (.trap e a) => .trap e 0 a
        | some (.wait st) => .wait st
        | _ => .ok (setCell s (cellIx ci) (c.wvG (fD w) (guardOf c w) (fun i =>
            match get i with | .ok bs => BitVec.ofNat 16 (leNat bs) | _ => 0))))

/-- The entries that LUTV's guarded lanes read. -/
def lutvAddrs (w : CellWord) (c : Cell) : List Nat :=
  ((List.range 8).filter (fun i => (guardOf c w).getLsbD i)).map (fun i => effAddr (c.rs (fB w)) (2 * (lane (c.rv (fA w)) i).toNat))

def execLutv (ci : CellId) (w : CellWord) (s : State) : Host.Outcome State Fault Refusal := .next (doLutv (loading (fetched s ci) ci (lutvAddrs w) 2 1) ci w)

/-- QTH: the level of each lane against three threshold vectors, unsigned (R152). -/
def qthLane (v t1 t2 t3 : BitVec 16) : BitVec 16 :=
  (if t1.toNat < v.toNat then 1 else 0) + (if t2.toNat < v.toNat then 1 else 0) + (if t3.toNat < v.toNat then 1 else 0)

/-- QTH (R152). -/
def doQth (s : State) (ci : CellId) (w : CellWord) : State :=
  cellInstr s ci 0x32 w (illegalV w true true true true (fX w == 0)) (30 ≤ fB w) [] 1
    (regBody s ci (fun c => c.wvG (fD w) (guardOf c w) (fun i =>
      qthLane (lane (c.rv (fA w)) i) (lane (c.rv (fB w)) i) (lane (c.rv (fB w + 1)) i) (lane (c.rv (fB w + 2)) i))))

def execQth (ci : CellId) (w : CellWord) (s : State) : Host.Outcome State Fault Refusal := .next (doQth (fetched s ci) ci w)

/-- One lane of DQ: from the error carried in, the level and the error carried out (R152). -/
def dqLane (vb : BitVec 128) (a : BitVec 16) (e : Int) : Nat × Int :=
  let w : Int := min (lane vb 7).toInt 16
  let x := sat16 (a.toInt + (w * e + 8) / 16)
  let q := (if (lane vb 0).toInt < x then 1 else 0) + (if (lane vb 1).toInt < x then 1 else 0) +
    (if (lane vb 2).toInt < x then 1 else 0)
  (q, sat16 (x - (lane vb (3 + q)).toInt))

/-- DQ over lanes `i` to 7: the levels and errors of the lanes so far, and the error carried (R152). -/
def dqFrom (va vb : BitVec 128) : Nat → Int → List Nat → List Int → List Nat × List Int × Int
  | 0, e, qs, es => (qs, es, e)
  | n + 1, e, qs, es =>
    let r := dqLane vb (lane va (7 - n)) e
    dqFrom va vb n r.2 (qs ++ [r.1]) (es ++ [r.2])

/-- DQ: vD takes the levels, vD + 1 the errors, and the carry register the last error (R152). -/
def doDq (s : State) (ci : CellId) (w : CellWord) : State :=
  cellInstr s ci 0x33 w (illegalV w true true true false (fX w ≤ 15)) (31 ≤ fD w) [fX w] 8
    (regBody s ci (fun c =>
      let r := dqFrom (c.rv (fA w)) (c.rv (fB w)) 8 (c.rs (fX w)).toInt [] []
      let c := c.wv (fD w) (ofLanes (fun i => BitVec.ofNat 16 (r.1.getD i 0)))
      let c := c.wv (fD w + 1) (ofLanes (fun i => BitVec.ofInt 16 (r.2.1.getD i 0)))
      c.ws (fX w) (BitVec.ofInt 16 r.2.2)))

def execDq (ci : CellId) (w : CellWord) (s : State) : Host.Outcome State Fault Refusal := .next (doDq (fetched s ci) ci w)

/-- HIST: the history shifted, with the present lane's fire (R150). -/
def doHist (s : State) (ci : CellId) (w : CellWord) : State :=
  vector3 s ci 0x34 1 w true (fX w == 0) (fun a b => ((a <<< 1) ||| (if b = 0 then 0 else 1)) &&& 0xF)

def execHist (ci : CellId) (w : CellWord) (s : State) : Host.Outcome State Fault Refusal := .next (doHist (fetched s ci) ci w)

/-- One lane of SPRD: the window of 12 columns, its mask, and the weights of offsets -2, -1, +1 and +2 (R152). Its sum never wraps
(assumption 36). -/
def sprdLane (win wt : Nat → Nat) (m : BitVec 16) (i : Nat) : BitVec 16 :=
  let j := i + 2
  if m.getLsbD j then 0
  else
    let add (pos w : Nat) : Nat := if m.getLsbD pos then win pos * wt w else 0
    let acc := 256 * win j + 128 + add (j - 2) 3 + add (j - 1) 2 + add (j + 1) 1 + add (j + 2) 0
    BitVec.ofNat 16 (min (acc / 256) 0xFFFF)

/-- SPRD (R152). -/
def doSprd (s : State) (ci : CellId) (w : CellWord) : State :=
  cellInstr s ci 0x35 w (illegalV w true true true true (fX w ≤ 15)) (fA w == 0 || 31 ≤ fA w) [fX w] 2
    (regBody s ci (fun c =>
      let a := fA w
      let win (p : Nat) : Nat :=
        if p < 2 then (lane (c.rv (a - 1)) (6 + p)).toNat
        else if p < 10 then (lane (c.rv a) (p - 2)).toNat
        else (lane (c.rv (a + 1)) (p - 10)).toNat
      let wt (n : Nat) : Nat := (lane (c.rv (fB w)) n).toNat
      c.wvG (fD w) (guardOf c w) (sprdLane win wt (c.rs (fX w)))))

def execSprd (ci : CellId) (w : CellWord) (s : State) : Host.Outcome State Fault Refusal := .next (doSprd (fetched s ci) ci w)

end Sys2Proof.Machine
end

