-- ==== Sys2Proof/Machine/CellPort.lean ====
section
/-! DEFINITION. Output, port and bank instructions of the cells (R138, R140-R146, R281). -/

namespace Sys2Proof.Machine

/-- Eight nibbles from the lanes of a vector (R140). -/
def packNibbles (v : BitVec 128) : BitVec 32 :=
  (List.range 8).foldl (fun acc i => acc ||| (((lane v i).zeroExtend 32 &&& 0xF) <<< (4 * i))) 0

/-- The pending word with one half replaced (R140). -/
def placeHalf (p : BitVec 64) (half : Bool) (n : BitVec 32) : BitVec 64 :=
  if half then n ++ p.extractLsb' 0 32 else p.extractLsb' 32 32 ++ n

/-- PACKO: places a half of the pending word; half 1 pushes the word into the output stream, whose queue may be full. A push
outside a segment belongs to no line and is dropped (R140). -/
def doPacko (s : State) (ci : CellId) (w : CellWord) : State :=
  cellInstr s ci 0x36 w (illegalV w false true true false (fX w == 0)) (badS (fB w)) [fB w] 1
    (fun c =>
      let i := cellIx ci
      let half := (c.rs (fB w)).getLsbD 0
      let c' := { c with outWord := placeHalf c.outWord half (packNibbles (c.rv (fA w))) }
      if !half then .ok (setCell s i c')
      else match c.cur with
        | none => .ok (setCell s i c')
        | some g =>
          if 8 ≤ g.pushed then .trap 9 0 none
          else if c.outq ≠ [] ∧ queueDepth s 0x02 ci.die ≤ c.outq.length then .wait .output
          else
            let c'' := { c' with cur := some { g with pushed := g.pushed + 1 } }
            if c.outq = [] then
              .ok (landWord (setCell s i c'') (clauseIx ci.die ci.clause) ci.cell g.q g.pushed c'.outWord false)
            else .ok (setCell s i { c'' with outq := c.outq ++ [(g.q, g.pushed, c'.outWord)] }))

def execPacko (ci : CellId) (w : CellWord) (s : State) : Host.Outcome State Fault Refusal := .next (doPacko (fetched s ci) ci w)

/-- SEND: vA into the port's queue, stalling while it is full; discarded on a re-run and at the row's edge (R138, R145,
R146). -/
def doSend (s : State) (ci : CellId) (w : CellWord) : State :=
  cellInstr s ci 0x37 w (illegalV w false true false false (fX w ≤ 1)) false [] 1
    (fun c =>
      if (c.cur.map (fun g => g.rerun)).getD false then .ok s
      else match sendTo? s ci (fX w == 1) (c.rv (fA w)) with
        | some t => .ok t
        | none => .wait (.send (fX w == 1)))

def execSend (ci : CellId) (w : CellWord) (s : State) : Host.Outcome State Fault Refusal := .next (doSend (fetched s ci) ci w)

/-- The 16 bytes of a vector, lanes 0-3 first (R138). -/
def vecBytes (v : BitVec 128) : List Byte := natLE 16 v.toNat

/-- RECV: vD takes the vector at the port, stalling while there is none, and logs it in the frame; on a re-run it takes the
logged vectors in order. A RECV past the log traps PORTLOG (R138, R146). -/
def doRecv (s : State) (ci : CellId) (w : CellWord) : State :=
  cellInstr s ci 0x38 w (illegalV w true false false false (fX w ≤ 1)) false [] 1
    (fun c =>
      let i := cellIx ci
      let rl := cellRlen s ci
      match c.cur, c.frame with
      | some g, some f =>
        let logAt := f.base rl g.q + 8 * (rl + f.cw) + 16 * g.recvs
        if g.rerun then
          if sget 0 c.logs g.q ≤ g.recvs then .trap 10 0 none
          else .ok (setCell s i { c.wv (fD w) (BitVec.ofNat 128 (leNat (dmRead s i logAt 16))) with
                                  cur := some { g with recvs := g.recvs + 1 } })
        else if f.logw / 2 ≤ g.recvs then .trap 10 0 none
        else match recvFrom? s ci (fX w == 1) with
          | none => .wait (.recv (fX w == 1))
          | some (v, t) =>
            let t := modCell t i (fun c =>
              { c.wv (fD w) v with cur := some { g with recvs := g.recvs + 1 }, logs := sput 0 c.logs g.q (g.recvs + 1) })
            .ok (dmWriteAll t i logAt (vecBytes v))
      | _, _ => match recvFrom? s ci (fX w == 1) with
        | none => .wait (.recv (fX w == 1))
        | some (v, t) => .ok (modCell t i (fun c => c.wv (fD w) v)))

/-- On a re-run a RECV that issues reads its vector from the frame's log. -/
def readLog (s : State) (ci : CellId) : State :=
  let c := cellAt s (cellIx ci)
  let rl := cellRlen s ci
  match c.cur, c.frame with
  | some g, some f => if g.rerun ∧ c.st = .run ∧ c.stall = none then settleRange s .cellData (cellIx ci) (f.base rl g.q + 8 * (rl + f.cw) + 16 * g.recvs) 16 else s
  | _, _ => s

def execRecv (ci : CellId) (w : CellWord) (s : State) : Host.Outcome State Fault Refusal := .next (doRecv (readLog (fetched s ci) ci) ci w)

/-- A die-bank byte address: SEG * 0x8_0000 + `off` (R141). -/
def bankAddr (c : Cell) (off : Nat) : Nat := c.seg.toNat * 0x80000 + off

/-- A bank request is checked and issued: its destination and its addresses (R141, R154). -/
def bankReq (s : State) (ci : CellId) (c : Cell) (r : BankReq) (dest : Option Nat) (addrs : List Nat) : CellRes :=
  match lowest [dest, if addrs.any (fun a => bankLimit ≤ a) then some 7 else none] with
  | some e => .trap e 0 none
  | none => issueBank s ci c r

/-- BGET: asks for X[6:0] + 1 bank words from word sA into data SRAM at sB (R141, R150). -/
def doBget (s : State) (ci : CellId) (w : CellWord) : State :=
  cellInstr s ci 0x39 w (illegalV w false true true false (fX w ≤ 127)) (badS (fA w) || badS (fB w)) [fA w, fB w] 1
    (fun c =>
      let n := fX w + 1
      let src := bankAddr c (8 * (c.rs (fA w)).toNat)
      let dst := (c.rs (fB w)).toNat
      bankReq s ci c (.get src n dst) (c.destCheck (cellRlen s ci) dst (8 * n) 8) ((List.range n).map (fun j => src + 8 * j)))

def execBget (ci : CellId) (w : CellWord) (s : State) : Host.Outcome State Fault Refusal := .next (doBget (fetched s ci) ci w)

/-- BGV: asks for eight bank halfwords into the 16 bytes at sD (R141, R150). -/
def doBgv (s : State) (ci : CellId) (w : CellWord) : State :=
  cellInstr s ci 0x3A w (illegalV w true true true false (fX w == 0)) (badS (fD w) || badS (fB w)) [fD w, fB w] 1
    (fun c =>
      let addrs := (List.range 8).map (fun i =>
        bankAddr c (8 * (c.rs (fB w)).toNat + 2 * (lane (c.rv (fA w)) i).toNat))
      let dst := (c.rs (fD w)).toNat
      bankReq s ci c (.gather addrs dst) (c.destCheck (cellRlen s ci) dst 16 16) addrs)

def execBgv (ci : CellId) (w : CellWord) (s : State) : Host.Outcome State Fault Refusal := .next (doBgv (fetched s ci) ci w)

/-- BATM: asks for an atomic add or replace of halfword X[1:0] of bank word sA; sD takes the old halfword (R141, R150,
R281). -/
def doBatm (s : State) (ci : CellId) (w : CellWord) : State :=
  cellInstr s ci 0x3B w (illegalV w true true true false (fX w ≤ 7)) (badS (fD w) || badS (fA w) || badS (fB w))
    [fA w, fB w] 1
    (fun c =>
      let addr := bankAddr c (8 * (c.rs (fA w)).toNat + 2 * (fX w % 4))
      bankReq s ci c (.atomic addr (4 ≤ fX w) (c.rs (fB w)) (fD w) c.pc) none [addr])

def execBatm (ci : CellId) (w : CellWord) (s : State) : Host.Outcome State Fault Refusal := .next (doBatm (fetched s ci) ci w)

end Sys2Proof.Machine
end

