-- ==== Sys2Proof/Machine/CellLine.lean ====
section
/-! DEFINITION. The line protocol between a clause and its cells (R26, R130-R139, R142, R155-R161, R183): admission,
dispatch, parameter windows, stalls released, bank requests completed, restarts and reloads. -/

namespace Sys2Proof.Machine

/-! ### Registers -/

/-- CLR of CEL_CTRL: clears CEL_TRAP, CEL_TLINE, CEL_CNT and CEL_SEGMAX (R161). -/
def doCelCtrlClr (s : State) (ci : CellId) : State :=
  modCell s (cellIx ci) (fun c =>
    { c with cause := 0, code := 0, trapPc := 0, trapBand := 0, noLine := false, trapRerun := false, trapLine := 0,
             overruns := 0, traps := 0, segMax := 0 })

def execCelCtrlClr (ci : CellId) (s : State) : Host.Outcome State Fault Refusal := 
  .next (hostReg s ci.die (fun s => if ci.clause < 66 ∧ ci.cell < 16 then doCelCtrlClr s ci else s))

/-! ### Admission (R26) -/

/-- Whether every cell of a clause has finished its first pass of sequence number `q`. -/
def allPast (s : State) (x q : Nat) : Bool := (List.range 16).all (fun n => q < (cellAt s (cellOfIx x n)).nextQ)

/-- Whether line `L - 1` lets line `L` begin: it has left Filling; on a DIFFUSION row cell 0 has finished its own segment of
it (R26). -/
def prevDone (s : State) (x L : Nat) : Bool :=
  match (clauseAt s x).lines.find? (fun l => l.line + 1 == L) with
  | none => true
  | some l =>
    if rowDiffusion (clauseRow s x) then l.at_.isNone || l.q < (cellAt s (cellOfIx x 0)).nextQ || l.settled && l.begun == 0
    else l.st != .filling

/-- Whether a FENCING clause's slot has no spare to wait for (R269). -/
def noSpare (s : State) (x : Nat) : Bool :=
  let c := clauseAt s x
  c.st == .fencing && c.preparing.isNone && (freeSpare? s (x / 66)).isNone

/-- Whether a prepared spare waits to take over from a FENCING clause. -/
def takeoverDue (s : State) (x : Nat) : Bool :=
  let c := clauseAt s x
  c.st == .fencing && (match c.preparing with | some y => (clauseAt s y).prepared | none => false)

/-- The conditions of R26 on the clause's next line, apart from who admits it. -/
def mayAdmit (s : State) (x : Nat) : Bool :=
  let c := clauseAt s x
  let L := c.nextLine
  match clauseSlot? s x with
  | none => false
  | some g =>
    let row := rowCfg s g.row
    c.powered && jobOpen s && (match s.job with | some j => j.rows.contains g.row | none => false) && prevDone s x L &&
      (rowDiffusion row || c.freeSlot?.isSome) &&
      L ≤ ((rowAt s g.row).gathered).getD 0 + sminOf s g.die g.slot + row.lead + 1

/-- Why a line is withheld the moment it is admitted: its deadline past (R27), its slot without a spare, its halo route lost, or its
clause FENCING in mode CRC (R267, R269, R362), its block BAD (R100) or failed (R34); 0 none. -/
def admitCause (s : State) (x L : Nat) (p : PLine) (dead : Bool) : Nat :=
  let c := clauseAt s x
  let b := p.absBand
  if dead ∨ c.haloLost.any (fun t => t ≤ b) then 7
  else if gatherBegun s x L ∧ hasDeadline s x L then 1
  else if c.st = .fencing ∧ (clauseRow s x).integrity ≠ 1 then 7
  else if c.input.any (fun i => i.absBand == b && i.block.bad) then 6
  else if c.input.any (fun i => i.absBand == b && i.failed) then 5
  else 0

/-- A clause admits its next line (R26): a line without page data is Ready with zero codes, taking its slot; a line with page
data is numbered and Filling (R24, R133, R253). -/
def admitLine (s : State) (x : Nat) (dead : Bool) : State :=
  let c := clauseAt s x
  let L := c.nextLine
  let diff := rowDiffusion (clauseRow s x)
  let slot := if diff then none else c.freeSlot?
  match clauseSlot? s x with
  | none => s
  | some g =>
    match placeRowLine s g.row L with
    | none =>
      let l : CLine := { line := L, at_ := none, q := 0, slot := slot, segs := 0xFFFF }
      lineComplete (setClause s x { c with lines := c.lines ++ [l], nextLine := L + 1 }) x L
    | some p =>
      let first := c.fresh || (p.band == 0 && p.bandLine == 0)
      let l : CLine := { line := L, at_ := some p, q := c.nextQ, slot := slot, first := first }
      let s := setClause s x { c with lines := c.lines ++ [l], nextLine := L + 1, nextQ := c.nextQ + 1, fresh := false }
      let cause := admitCause s x L p dead
      if cause = 0 then s else withhold s x L cause

/-- CLAUSE_LINE_ADMIT: the clause that expands its slot's lines admits the next one when R26 lets it. A spare that is ready takes
over at a band's line 0 instead (R266, R268); with no spare left, lines from the next band on are withheld FENCED (R269). -/
def doClauseLineAdmit (s : State) (d k : Nat) : State :=
  let x := clauseIx d k
  let c := clauseAt s x
  if !(c.st = .serving ∨ c.st = .fencing) ∨ !mayAdmit s x then s
  else
    let bandStart : Bool := match clauseSlot? s x with
      | some g => (match placeRowLine s g.row c.nextLine with | some p => p.bandLine == 0 | none => false)
      | none => false
    if c.st = .fencing ∧ bandStart ∧ takeoverDue s x then s
    else if c.st = .fencing ∧ c.endLine.isNone ∧ bandStart ∧ noSpare s x then
      admitLine (modClause s x (fun c => { c with endLine := some c.nextLine })) x true
    else match c.endLine with
      | some e => if c.preparing.isSome then s else admitLine s x (e ≤ c.nextLine)
      | none => admitLine s x false

def execClauseLineAdmit (d k : Nat) (s : State) : Host.Outcome State Fault Refusal := .next (doClauseLineAdmit s d k)

/-! ### Dispatch (R131, R133-R138) -/

/-- The header word of a record (R134). -/
def headerWord (l : CLine) (p : PLine) (ovl retry : Bool) : BitVec 64 :=
  let b (c : Bool) (n : Nat) : Nat := if c then 2 ^ n else 0
  p.copy ++ (BitVec.ofNat 16 p.band ++ BitVec.ofNat 16 (b l.win 9 + b ovl 8 + b l.first 7 + b retry 6 + p.bandLine))

/-- Whether the words `lo` to `hi` of a record have landed. -/
def landed (got : BitVec 64) (lo hi : Nat) : Bool := (List.range (hi + 1 - lo)).all (fun j => got.getLsbD (lo + j))

/-- The mask bytes of a band line for one cell, and whether they are in the band ring (R86, R133). -/
def maskFor (c : Clause) (p : PLine) (n : Nat) : Option (List Byte × Bool) :=
  match c.inputFor? p.absBand true with
  | none => none
  | some i =>
    let a := 256 * p.bandLine + 16 * n
    if a + 16 ≤ i.mask.length then
      some (slice i.mask a 16, i.maskPoison.any (fun b => rangesMeet (8 * b) 8 a 16))
    else none

/-- Those bytes are read from the band ring. -/
def readMask (s : State) (x : Nat) (p : PLine) (n : Nat) : State :=
  match (clauseAt s x).inputFor? p.absBand true with
  | some i => if 256 * p.bandLine + 16 * n + 16 ≤ i.mask.length then settleBand s x i true (32 * p.bandLine + 2 * n) 2 else s
  | none => s

/-- Write words of a record into the frame, marking them landed. -/
def putRecord (s : State) (i rl : Nat) (f : FrameDecl) (q ix : Nat) (ws : List (BitVec 64)) : State :=
  let s := dmWriteAll s i (f.base rl q + 8 * ix) (ws.flatMap (fun w => natLE 8 w.toNat))
  let bits := (List.range ws.length).foldl (fun (b : BitVec 64) j => b ||| (1#64 <<< (ix + j))) 0
  modCell s i (fun c => { c with recWords := sput 0 c.recWords q (sget 0 c.recWords q ||| bits) })

/-- Complete the record of a line with the words that do not come from a decompressor: the overlay words of a copy without an
overlay block, 0; the mask words (R133, R108). None while the mask is not in the band ring. -/
def finishRecord (s : State) (x n : Nat) (f : FrameDecl) (l : CLine) (p : PLine) : Option State :=
  let row := clauseRow s x
  let i := cellOfIx x n
  let b := planeWords (rowCodes row)
  if !row.overlay then some s
  else if !(clauseAt s x).hasOvl p.absBand then
    some (putRecord s i (rlen row) f l.q (b + 1) (List.replicate (b + 2) 0))
  else
    let s := readMask s x p n
    match maskFor (clauseAt s x) p n with
    | none => none
    | some (m, bad) =>
      let s := putRecord s i (rlen row) f l.q (2 * b + 1)
        [BitVec.ofNat 64 (leNat (m.take 8)), BitVec.ofNat 64 (leNat (m.drop 8))]
      let a := f.base (rlen row) l.q + 8 * (2 * b + 1)
      some (if bad then markPoison (markPoison s ⟨.cellData, i, a / 8⟩) ⟨.cellData, i, a / 8 + 1⟩ else s)

/-- Whether the words a decompressor brings have all landed for line `l` in cell `n`. -/
def recordReady (s : State) (x n : Nat) (l : CLine) (p : PLine) : Bool :=
  let row := clauseRow s x
  let b := planeWords (rowCodes row)
  let got := sget 0 (cellAt s (cellOfIx x n)).recWords l.q
  landed got 1 b && (!row.overlay || !(clauseAt s x).hasOvl p.absBand || landed got (b + 1) (2 * b))

/-- LINE returns (R130, R136): the header word stands in the frame, s11 to s13 are written, the pending word is cleared and the
cell runs. -/
def startSegment (s : State) (ci : CellId) (f : FrameDecl) (l : CLine) (p : PLine) (retry : Bool) : State :=
  let x := clauseIx ci.die ci.clause
  let i := cellIx ci
  let rl := rlen (clauseRow s x)
  let h := headerWord l p ((clauseAt s x).hasOvl p.absBand) retry
  let s := putRecord s i rl f l.q 0 [h]
  modCell s i (fun c =>
    let c := ((c.ws 11 (h.extractLsb' 0 16)).ws 12 (BitVec.ofNat 16 (f.base rl l.q))).ws 13 (BitVec.ofNat 16 (f.prevBase rl l.q))
    { c with outWord := 0, st := .run,
             cur := some { line := l.line, q := l.q, rerun := retry, win := l.win, band := BitVec.ofNat 16 p.band,
                           bandLine := BitVec.ofNat 6 p.bandLine } })

/-- The parameter window of a line is fixed when its first cell takes it: the clause switches windows at a band's first line
once the other window has been written, and logs the switch (R139, R183). -/
def fixWindow (s : State) (x : Nat) (l : CLine) (p : PLine) : State :=
  let c := clauseAt s x
  if l.begun ≠ 0 then s
  else if p.bandLine = 0 ∧ c.winWritten then
    let s := setClause s x { c with win := !c.win, winWritten := false }
    let s := modCLine s x l.line (fun l => { l with win := !c.win })
    match clauseSlot? s x with
    | some g => logEv s g.die 0x0005 (lineData p.page p.copy g.row 0 g.pos p.pageLine 0)
    | none => s
  else modCLine s x l.line (fun l => { l with win := c.win })

/-- The clause that expanded the lines of this clause's slot before its takeover line, FENCING or drained since (R268). -/
def fencingPeer? (s : State) (x L : Nat) : Option Nat :=
  ((List.range 66).map (clauseIx (x / 66))).find? (fun y =>
    let c := clauseAt s y
    y != x && c.slot == (clauseAt s x).slot && (c.st == .fencing || c.st == .fenced) && c.endLine == some L)

/-- On a DIFFUSION row the first line after a takeover takes the carry of the FENCING clause's last line, cell by cell, once
that cell has finished it (R176, R268), poisoned blocks poisoned; none while it must wait. -/
def takeCarry (s : State) (x n : Nat) (f : FrameDecl) (L : Nat) : Option State :=
  if !rowDiffusion (clauseRow s x) then some s
  else match fencingPeer? s x L with
    | none => some s
    | some y =>
      let e := cellAt s (cellOfIx y n)
      let qe := (clauseAt s y).nextQ
      if e.nextQ < qe then none
      else match e.frame with
        | none => some s
        | some fe =>
          let rl := rlen (clauseRow s x)
          let src := fe.base rl (qe - 1) + 8 * rl
          let dst := f.fbase + (f.k - 1) * f.fsize rl + 8 * rl
          let len := 8 * min fe.cw f.cw
          let s := settleRange s .cellData (cellOfIx y n) src len
          let bad := (List.range (len / 8)).filter (fun j => poisonedIn s .cellData (cellOfIx y n) (src + 8 * j) 8)
          let s := dmWriteAll s (cellOfIx x n) dst (dmRead s (cellOfIx y n) src len)
          some (bad.foldl (fun s j => markPoison s ⟨.cellData, cellOfIx x n, dst / 8 + j⟩) s)

/-- LINE_DISPATCH: a cell waiting in LINE takes a pending re-run first, else its next line once the record is whole and, on a
DIFFUSION row, its left neighbour has finished that line (R26, R131, R138). -/
def doLineDispatch (s : State) (ci : CellId) : State :=
  let x := clauseIx ci.die ci.clause
  let i := cellIx ci
  let c := cellAt s i
  let cl := clauseAt s x
  if c.st ≠ .wait then s
  else match c.frame with
    | none => s
    | some f =>
      match cl.lines.find? (fun l => l.rerun && l.rerunDue.getLsbD ci.cell) with
      | some l =>
        match l.at_ with
        | none => s
        | some p =>
          let waiting (d : Decomp) : Bool := d.reexpand == some (64 * p.absBand + p.bandLine)
          if waiting cl.dec0 ∨ waiting cl.dec1 then s
          else match finishRecord s x ci.cell f l p with
            | none => s
            | some s =>
              let bit : BitVec 16 := 1#16 <<< ci.cell
              let s := modCLine s x l.line (fun l => { l with rerunDue := l.rerunDue &&& ~~~ bit, segs := l.segs &&& ~~~ bit })
              startSegment s ci f l p true
      | none =>
        match cl.lineQ? c.nextQ with
        | none => s
        | some l =>
          match l.at_ with
          | none => s
          | some p =>
            let leftDone : Bool := !rowDiffusion (clauseRow s x) || ci.cell == 0 || l.q < (cellAt s (i - 1)).nextQ
            if l.begun.getLsbD ci.cell ∨ !leftDone ∨ !recordReady s x ci.cell l p then s
            else match takeCarry s x ci.cell f l.line with
              | none => s
              | some s =>
                match finishRecord s x ci.cell f l p with
                | none => s
                | some s =>
                  let s := fixWindow s x l p
                  let l := ((clauseAt s x).lineOf? l.line).getD l
                  let s := modCLine s x l.line (fun l => { l with begun := l.begun ||| (1#16 <<< ci.cell) })
                  startSegment s ci f l p false

def execLineDispatch (ci : CellId) (s : State) : Host.Outcome State Fault Refusal := .next (doLineDispatch s ci)

/-! ### Parameter windows (R139) -/

/-- Whether a line in flight in any cell of the clause uses a window. -/
def windowUsed (s : State) (x : Nat) (w : Bool) : Bool :=
  (List.range 16).any (fun n => match (cellAt s (cellOfIx x n)).cur with | some g => g.win == w | none => false) ||
    (clauseAt s x).lines.any (fun l => l.at_.isSome && l.begun != 0 && l.win == w && !(l.settled && allPast s x l.q))

/-- WINDOW_WRITE: a changed parameter set goes into the window not in use, once no line in flight uses that window (R139). -/
def doWindowWrite (s : State) (d k : Nat) : State :=
  let x := clauseIx d k
  let c := clauseAt s x
  if !c.winDirty ∨ !c.powered ∨ windowUsed s x (!c.win) then s
  else writeWindow (setClause s x { c with winDirty := false, winWritten := true }) x (!c.win)

def execWindowWrite (d k : Nat) (s : State) : Host.Outcome State Fault Refusal := .next (doWindowWrite s d k)

/-! ### Stalls and bank requests -/

/-- Whether what a cell waits for has come (R138, R140, R142, R143, R145, R146). -/
def stallOver (s : State) (ci : CellId) (c : Cell) (st : Stall) : Bool :=
  let rl := cellRlen s ci
  match st with
  | .output => c.outq.isEmpty || c.outq.length < queueDepth s 0x02 ci.die
  | .send r => (sendTo? s ci r 0).isSome
  | .recv r => (recvFrom? s ci r).isSome
  | .banks n => c.banks.length ≤ n
  | .bytes rs => rs.all (fun r => !c.owesBytes r.1 r.2 && !c.owesRecord rl r.1 r.2)
  | .reg r => (c.owesReg? [r]).isNone

/-- CELL_STALL_RELEASE: a stalled instruction may issue; the cycles it waited count in the segment, except in RECV (R150,
R158). -/
def doCellStallRelease (s : State) (ci : CellId) (cycles : Nat) : State :=
  let i := cellIx ci
  let c := cellAt s i
  match c.stall with
  | none => s
  | some st =>
    if !stallOver s ci c st then s
    else
      let n := match st with | .recv _ => 0 | _ => cycles
      setCell s i { c.spend n with stall := none }

def execCellStallRelease (ci : CellId) (cycles : Nat) (s : State) : Host.Outcome State Fault Refusal :=
  .next (doCellStallRelease s ci cycles)

/-- Halfwords of a die's banks at some addresses, one after another. -/
def rdHalves (s : State) (d : Nat) (addrs : List Nat) : List Byte × State :=
  addrs.foldl (fun p a => let r := rdBanks p.2 d a 2; (p.1 ++ r.1, r.2)) ([], s)

/-- Bytes land in a cell's data SRAM from the die banks; a block fed by a poisoned bank block lands poisoned (R143). -/
def landBank (s : State) (i dst : Nat) (bytes : List Byte) (bad : Nat → Bool) : State :=
  let s := dmWriteAll s i dst bytes
  (List.range (bytes.length / 8)).foldl (fun s j => if bad j then markPoison s ⟨.cellData, i, dst / 8 + j⟩ else s) s

/-- An atomic acts (R281): one indivisible read and write of its halfword; the halfword as it was before. It is a merge (R286). -/
def atomicBank (s : State) (d addr : Nat) (replace : Bool) (v : BitVec 16) : BitVec 16 × State :=
  let r := rdBanks s d addr 2
  let old := BitVec.ofNat 16 (leNat r.1)
  let new := if replace then v else old + v
  (old, bankWr r.2 d addr (natLE 2 new.toNat))

/-- The oldest request of a cell is served (R142, R143, R154, R286, R288). -/
def serveCell (s : State) (ci : CellId) : State :=
  let i := cellIx ci
  let d := ci.die
  let c := cellAt s i
  match c.banks with
  | [] => s
  | r :: rs =>
    let s := setCell s i { c with banks := rs }
    match r with
    | .get src n dst =>
      let s := settleRange s .bank d src (8 * n)
      let r := rdBanks s d src (8 * n)
      landBank r.2 i dst r.1 (fun j => poisoned s .bank d (src / 8 + j))
    | .gather addrs dst =>
      let s := addrs.foldl (fun s a => settleRange s .bank d a 2) s
      let r := rdHalves s d addrs
      landBank r.2 i dst r.1 (fun j => ((addrs.drop (4 * j)).take 4).any (fun a => poisoned s .bank d (a / 8)))
    | .atomic addr replace v rd pc =>
      let s := settleRange s .bank d addr 2
      let r := atomicBank s d addr replace v
      if poisoned s .bank d (addr / 8) then
        if c.st = .run ∨ c.st = .wait then cellTrap r.2 ci pc 7 0 none else r.2  -- the line of the segment then running: assumption 36
      else if c.st = .restart then r.2
      else modCell r.2 i (fun c => c.ws rd r.1)

/-- An access through port 1 (R279, R281). What the DMA channels and the host read goes to them by their own commands. -/
def serveSys (s : State) (d : Nat) (a : SysAccess) : State :=
  match a with
  | .read _ addr n => settleRange s .bank d addr n
  | .write _ addr bs => bankWr s d addr bs
  | .atomic addr replace v =>
    let r := atomicBank s d addr replace v
    emit r.2 (.coreAtomic d r.1)

/-- The bank words an access reaches, and whether it writes (R281-R283): its master's number first. -/
def sysWords (a : SysAccess) : Nat × List Nat × Bool :=
  let words (addr n : Nat) : List Nat := (List.range ((addr + n + 7) / 8 - addr / 8)).map (fun j => addr / 8 + j)
  match a with
  | .read m addr n => (m, words addr n, false)
  | .write m addr bs => (m, words addr bs.length, true)
  | .atomic addr _ _ => (66, [addr / 8], true)

/-- The same of a cell's request. -/
def cellWords (ci : CellId) (r : BankReq) : Nat × List Nat × Bool :=
  match r with
  | .get src n _ => (ci.clause, (List.range n).map (fun j => src / 8 + j), false)
  | .gather addrs _ => (ci.clause, addrs.map (fun a => a / 8), false)
  | .atomic addr _ _ _ _ => (ci.clause, [addr / 8], true)

/-- Each request that meets another master's write or atomic to the same word in the same cycle counts as a conflict of its master
(R282, R283). -/
def countMeetings (s : State) (d : Nat) (as : List (Nat × List Nat × Bool)) : State :=
  as.foldl (fun s a =>
    if as.any (fun b => b.1 != a.1 && b.2.2 && a.2.1.any (fun w => b.2.1.contains w)) then conflict s d a.1 else s) s

/-- The bank requests of one cycle: port 0 in ascending cell number, then port 1 (R281, R282). -/
def serveCycle (s : State) (d : Nat) (cis : List CellId) (sys : List SysAccess) : State :=
  let cis := (cis.filter (fun c => c.die == d)).mergeSort (fun a b => decide (cellIx a ≤ cellIx b))
  let as := cis.filterMap (fun c => (cellAt s (cellIx c)).banks.head?.map (cellWords c))
  let s := countMeetings s d (as ++ sys.map sysWords)
  sys.foldl (fun s a => serveSys s d a) (cis.foldl serveCell s)

/-- BANK_REQUEST_COMPLETE: the oldest request of a cell is served; `more` and `sys` are the other cells' requests and the accesses of port 1
in the same cycle. -/
def doBankRequestComplete (s : State) (ci : CellId) (more : List CellId) (sys : List SysAccess) : State :=
  serveCycle s ci.die (ci :: more.filter (fun c => c != ci)).eraseDups sys

def execBankRequestComplete (ci : CellId) (more : List CellId) (sys : List SysAccess) (s : State) : Host.Outcome State Fault Refusal :=
  .next (doBankRequestComplete s ci more sys)

/-! ### Restart, reload, watchdog, overrun -/

/-- CELL_RESTART: a trapped cell runs again from ENTRY once its bank requests are done and any reload has ended (R155). -/
def doCellRestart (s : State) (ci : CellId) : State :=
  let i := cellIx ci
  let c := cellAt s i
  if c.st ≠ .restart ∨ c.banks ≠ [] ∨ c.reload.isSome then s else setCell s i c.restarted

def execCellRestart (ci : CellId) (s : State) : Host.Outcome State Fault Refusal := .next (doCellRestart s ci)

/-- CELL_RELOAD_DONE: the die manager has written the instruction SRAM, or the initial data, again from the copy in die bank 31
(R157). -/
def doCellReloadDone (s : State) (ci : CellId) : State :=
  let i := cellIx ci
  let c := cellAt s i
  let x := clauseIx ci.die ci.clause
  match c.reload with
  | some dataPart =>
    let s := readCopy (setCell s i { c with reload := none }) x ci.cell
    if dataPart then loadData s x ci.cell else loadInstr s x ci.cell
  | none => s

def execCellReloadDone (ci : CellId) (s : State) : Host.Outcome State Fault Refusal := .next (doCellReloadDone s ci)

/-- Cycles of a stall that count in the segment: all but those stalled in RECV (R158). -/
def Cell.stallCounts (c : Cell) : Bool :=
  match c.stall with
  | some (.recv _) => false
  | some _ => true
  | none => false

/-- WATCHDOG: a segment that has reached 4 * 128 * P counted cycles traps, also while an instruction stalls, `stalled` cycles so far
(R158, R160). -/
def doWatchdog (s : State) (ci : CellId) (stalled : Nat) : State :=
  let i := cellIx ci
  let c := cellAt s i
  let n := if c.stallCounts then stalled else 0
  match c.cur with
  | some g =>
    if c.st = .run ∧ 512 * (clauseRow s (clauseIx ci.die ci.clause)).p ≤ g.cycles + n then
      cellTrap (setCell s i (c.spend n)) ci c.pc 12 0 none
    else s
  | none => s

def execWatchdog (ci : CellId) (stalled : Nat) (s : State) : Host.Outcome State Fault Refusal := .next (doWatchdog s ci stalled)

/-- CELL_OVERRUN: a segment longer than 128*P is counted and logged with its length (R159, R509). -/
def doCellOverrun (s : State) (ci : CellId) : State :=
  let i := cellIx ci
  let c := cellAt s i
  match c.overLen with
  | [] => s
  | n :: ns =>
    let s := setCell s i { c with overLen := ns, overruns := satInc c.overruns }
    logEv s ci.die 0x0017
      (unitData 1 0 ci.clause (clauseAt s (clauseIx ci.die ci.clause)).st.code ci.cell (natLE 4 n))

def execCellOverrun (ci : CellId) (s : State) : Host.Outcome State Fault Refusal := .next (doCellOverrun s ci)

end Sys2Proof.Machine
end

