-- ==== Sys2Proof/Machine/Crypto.lean ====
section
/-! DEFINITION. The part's cryptography (R54, R386): SHA-512 and Ed25519 verification under RFC 8032, from
their published definitions (assumption 19). -/

namespace Sys2Proof.Machine

/-! ### SHA-512 -/

/-- Round constants 0-15: fractions of the cube roots of the first 80 primes. -/
def shaK0 : List (BitVec 64) :=
  [0x428A2F98D728AE22, 0x7137449123EF65CD, 0xB5C0FBCFEC4D3B2F, 0xE9B5DBA58189DBBC,
   0x3956C25BF348B538, 0x59F111F1B605D019, 0x923F82A4AF194F9B, 0xAB1C5ED5DA6D8118,
   0xD807AA98A3030242, 0x12835B0145706FBE, 0x243185BE4EE4B28C, 0x550C7DC3D5FFB4E2,
   0x72BE5D74F27B896F, 0x80DEB1FE3B1696B1, 0x9BDC06A725C71235, 0xC19BF174CF692694]

/-- Round constants 16-31: fractions of the cube roots of the first 80 primes. -/
def shaK1 : List (BitVec 64) :=
  [0xE49B69C19EF14AD2, 0xEFBE4786384F25E3, 0x0FC19DC68B8CD5B5, 0x240CA1CC77AC9C65,
   0x2DE92C6F592B0275, 0x4A7484AA6EA6E483, 0x5CB0A9DCBD41FBD4, 0x76F988DA831153B5,
   0x983E5152EE66DFAB, 0xA831C66D2DB43210, 0xB00327C898FB213F, 0xBF597FC7BEEF0EE4,
   0xC6E00BF33DA88FC2, 0xD5A79147930AA725, 0x06CA6351E003826F, 0x142929670A0E6E70]

/-- Round constants 32-47: fractions of the cube roots of the first 80 primes. -/
def shaK2 : List (BitVec 64) :=
  [0x27B70A8546D22FFC, 0x2E1B21385C26C926, 0x4D2C6DFC5AC42AED, 0x53380D139D95B3DF,
   0x650A73548BAF63DE, 0x766A0ABB3C77B2A8, 0x81C2C92E47EDAEE6, 0x92722C851482353B,
   0xA2BFE8A14CF10364, 0xA81A664BBC423001, 0xC24B8B70D0F89791, 0xC76C51A30654BE30,
   0xD192E819D6EF5218, 0xD69906245565A910, 0xF40E35855771202A, 0x106AA07032BBD1B8]

/-- Round constants 48-63: fractions of the cube roots of the first 80 primes. -/
def shaK3 : List (BitVec 64) :=
  [0x19A4C116B8D2D0C8, 0x1E376C085141AB53, 0x2748774CDF8EEB99, 0x34B0BCB5E19B48A8,
   0x391C0CB3C5C95A63, 0x4ED8AA4AE3418ACB, 0x5B9CCA4F7763E373, 0x682E6FF3D6B2B8A3,
   0x748F82EE5DEFB2FC, 0x78A5636F43172F60, 0x84C87814A1F0AB72, 0x8CC702081A6439EC,
   0x90BEFFFA23631E28, 0xA4506CEBDE82BDE9, 0xBEF9A3F7B2C67915, 0xC67178F2E372532B]

/-- Round constants 64-79: fractions of the cube roots of the first 80 primes. -/
def shaK4 : List (BitVec 64) :=
  [0xCA273ECEEA26619C, 0xD186B8C721C0C207, 0xEADA7DD6CDE0EB1E, 0xF57D4F7FEE6ED178,
   0x06F067AA72176FBA, 0x0A637DC5A2C898A6, 0x113F9804BEF90DAE, 0x1B710B35131C471B,
   0x28DB77F523047D84, 0x32CAAB7B40C72493, 0x3C9EBE0A15C9BEBC, 0x431D67C49C100D4C,
   0x4CC5D4BECB3E42B6, 0x597F299CFC657E2A, 0x5FCB6FAB3AD6FAEC, 0x6C44198C4A475817]

/-- The 80 round constants. -/
def shaK : List (BitVec 64) := shaK0 ++ (shaK1 ++ (shaK2 ++ (shaK3 ++ shaK4)))

/-- The initial hash value: fractions of the square roots of the first 8 primes. -/
def shaH0 : List (BitVec 64) :=
  [0x6A09E667F3BCC908, 0xBB67AE8584CAA73B, 0x3C6EF372FE94F82B, 0xA54FF53A5F1D36F1,
   0x510E527FADE682D1, 0x9B05688C2B3E6C1F, 0x1F83D9ABFB41BD6B, 0x5BE0CD19137E2179]

/-- A word rotated right. -/
def rotr (x : BitVec 64) (n : Nat) : BitVec 64 := (x >>> n) ||| (x <<< (64 - n))

/-- A big-endian number. -/
def beNat (bs : List Byte) : Nat := bs.foldl (fun a b => 256 * a + b.toNat) 0

/-- `n` big-endian bytes of a number. -/
def natBE (n v : Nat) : List Byte := (natLE n v).reverse

/-- The message padded to whole 128-byte blocks. -/
def shaPad (m : List Byte) : List Byte :=
  m ++ ((0x80 : Byte) :: (List.replicate ((239 - m.length % 128) % 128) 0 ++ natBE 16 (8 * m.length)))

/-- The message schedule, newest word first, after `n` more words. -/
def shaSched (w : List (BitVec 64)) : Nat → List (BitVec 64)
  | 0 => w
  | n + 1 =>
    let a := w.getD 1 0
    let b := w.getD 14 0
    let s1 := rotr a 19 ^^^ (rotr a 61 ^^^ (a >>> 6))
    let s0 := rotr b 1 ^^^ (rotr b 8 ^^^ (b >>> 7))
    shaSched ((s1 + w.getD 6 0 + s0 + w.getD 15 0) :: w) n

/-- One round on the working variables a-h. -/
def shaRound (v : List (BitVec 64)) (kw : BitVec 64) : List (BitVec 64) :=
  let a := v.getD 0 0
  let b := v.getD 1 0
  let c := v.getD 2 0
  let e := v.getD 4 0
  let f := v.getD 5 0
  let g := v.getD 6 0
  let t1 := v.getD 7 0 + (rotr e 14 ^^^ (rotr e 18 ^^^ rotr e 41)) + ((e &&& f) ^^^ (~~~e &&& g)) + kw
  let t2 := (rotr a 28 ^^^ (rotr a 34 ^^^ rotr a 39)) + ((a &&& b) ^^^ ((a &&& c) ^^^ (b &&& c)))
  [t1 + t2, a, b, c, v.getD 3 0 + t1, e, f, g]

/-- One block into the hash value. -/
def shaBlock (h : List (BitVec 64)) (blk : List Byte) : List (BitVec 64) :=
  let w0 := ((List.range 16).map (fun i => BitVec.ofNat 64 (beNat (slice blk (8 * i) 8)))).reverse
  let w := (shaSched w0 64).reverse
  let v := (List.zipWith (fun k x => k + x) shaK w).foldl shaRound h
  List.zipWith (fun x y => x + y) h v

/-- SHA-512 of a byte string: 64 bytes. -/
def sha512 (m : List Byte) : List Byte :=
  let p := shaPad m
  let h := (List.range (p.length / 128)).foldl (fun h i => shaBlock h (slice p (128 * i) 128)) shaH0
  h.flatMap (fun x => natBE 8 x.toNat)

/-! ### Ed25519 -/

/-- The field prime 2^255 - 19. -/
def edP : Nat := 2 ^ 255 - 19

/-- The order of the base point. -/
def edL : Nat := 2 ^ 252 + 27742317777372353535851937790883648493

/-- The curve constant -121665/121666. -/
def edD : Nat :=
  37095705934669439343138083508754565189542113879843219016388785533085940283555

/-- A square root of -1. -/
def edI : Nat :=
  19681161376707505956807079304988542015446066515923890162744021073123829784752

/-- Coordinates of the base point. -/
def edBx : Nat :=
  15112221349535400772501151409588531511454012693041857206046113283949847762202

/-- Its second coordinate, 4/5. -/
def edBy : Nat :=
  46316835694926478169428394003475163141307993866256225615783033603165251855960

/-- A power modulo the prime, by the exponent's lowest `n` bits. -/
def edPow (b e : Nat) : Nat → Nat
  | 0 => 1
  | n + 1 =>
    let r := edPow (b * b % edP) (e / 2) n
    if e % 2 = 1 then b * r % edP else r

/-- A point in extended coordinates X, Y, Z, T. -/
structure EdPoint where
  x : Nat
  y : Nat
  z : Nat
  t : Nat
deriving DecidableEq, Repr

/-- A difference modulo the prime. -/
def edSub (a b : Nat) : Nat := (a + (edP - b % edP)) % edP

/-- The sum of two points. -/
def edAdd (p q : EdPoint) : EdPoint :=
  let a := edSub p.y p.x * edSub q.y q.x % edP
  let b := (p.y + p.x) * (q.y + q.x) % edP
  let c := 2 * p.t * edD % edP * q.t % edP
  let d := 2 * p.z * q.z % edP
  let e := edSub b a
  let f := edSub d c
  let g := (d + c) % edP
  let h := (b + a) % edP
  ⟨e * f % edP, g * h % edP, f * g % edP, e * h % edP⟩

/-- A multiple of a point, by the lowest `n` bits of the factor. -/
def edMul (k : Nat) (p : EdPoint) : Nat → EdPoint
  | 0 => ⟨0, 1, 1, 0⟩
  | n + 1 =>
    let r := edMul (k / 2) (edAdd p p) n
    if k % 2 = 1 then edAdd p r else r

/-- Whether two points are equal. -/
def edEq (p q : EdPoint) : Bool := p.x * q.z % edP == q.x * p.z % edP && p.y * q.z % edP == q.y * p.z % edP

/-- A point from its 32 bytes; none where they name no point. -/
def edPoint? (bs : List Byte) : Option EdPoint :=
  let n := leNat bs
  let y := n % 2 ^ 255
  let sign := n / 2 ^ 255 % 2
  if edP ≤ y then none
  else
    let u := edSub (y * y) 1
    let v := (edD * (y * y % edP) + 1) % edP
    let v3 := v * v % edP * v % edP
    let x := u * v3 % edP * edPow (u * v3 % edP * (v3 * v % edP) % edP) ((edP - 5) / 8) 255 % edP
    let w := v * (x * x % edP) % edP
    let root : Option Nat := if w = u then some x else if w = edSub 0 u then some (x * edI % edP) else none
    match root with
    | none => none
    | some x =>
      if x = 0 ∧ sign = 1 then none
      else
        let x := if x % 2 = sign then x else edP - x
        some ⟨x, y, 1, x * y % edP⟩

/-- Ed25519 verification of a message under a public key. -/
def edVerify (key msg sig : List Byte) : Bool :=
  let r := slice sig 0 32
  let sc := leNat (slice sig 32 32)
  match edPoint? key, edPoint? r with
  | some a, some rp =>
    let k := leNat (sha512 (r ++ (key ++ msg))) % edL
    let lhs := edMul (8 * sc) ⟨edBx, edBy, 1, edBx * edBy % edP⟩ 256
    let rhs := edAdd (edMul 8 rp 4) (edMul (8 * k) a 256)
    decide (sc < edL) && edEq lhs rhs
  | _, _ => false

/-- SIG as R54 has it: over the SHA-512 digest of the bytes signed. -/
def sigOk (key signed sig : List Byte) : Bool := edVerify key (sha512 signed) sig

/-! ### The key ring (R55, R56) -/

/-- Whether a key slot can verify: programmed and not revoked. -/
def keyUsable (s : State) (slot : Nat) : Bool := decide (slot < 4) && (s.fuses.programmed.getLsbD slot || slot == 0) && !s.fuses.revoked.getLsbD slot

/-- The key of a slot. Slot 0 holds the factory key, which is Config's where the fuses of the state list none (assumption 1). -/
def keyOf (s : State) (slot : Nat) : List Byte :=
  let k := sget [] s.fuses.keys slot
  if slot = 0 ∧ k = [] then Config.factoryKey else k

end Sys2Proof.Machine
end

