-- ==== Sys2Proof/Machine/Fabric.lean ====
section
/-! DEFINITION. The package fabric (R358-R362): ports, packets, retrains and lost routes. -/

namespace Sys2Proof.Machine

/-- Whether a route uses the hop between two dies, either way (R45). -/
def usesHop (r : Route) (a b : Nat) : Bool :=
  (r.dies.zip (r.dies.drop 1)).any (fun h => (h.1 == a && h.2 == b) || (h.1 == b && h.2 == a))

/-- The first band that a clause has not yet begun, counted across the job. -/
def bandAhead (s : State) (x : Nat) : Nat :=
  match s.job, clauseSlot? s x with
  | some j, some g =>
    let L := (clauseAt s x).nextLine
    let ow := (rowTiming s g.row).ow
    if j.st = .closed ∨ L ≤ ow then 0
    else match j.place (L - ow) with
      | some p => if p.bandLine = 0 then p.absBand else p.absBand + 1
      | none => match j.copyAt (L - ow) with
        | some i => 8192 * (i + 1)
        | none => 0
  | _, _ => 0

/-- A halo link whose route is lost: both its slots withhold every line FENCED from the first band that either has not yet begun
(R362). -/
def loseHalo (s : State) (h : HaloCfg) (first : Nat) : State :=
  let gs := [stripCfg? s h.row h.pos, stripCfg? s h.row (h.pos + 1)].filterMap id
  let xs := gs.flatMap (fun g => slotClauses s g.die g.slot)
  let from_ := leastOf ((xs.map (bandAhead s)).foldl max 0) (xs.map (bandAhead s))
  let s := xs.foldl (fun s x => modClause s x (fun c => { c with haloLost := some (match c.haloLost with | some b => min b from_ | none => from_) })) s
  logEv s first 0x0042 (unitData 0 0 h.route 0 0 (natLE 2 h.row ++ natLE 2 h.pos))

/-- A route is lost (R362). -/
def loseRoute (s : State) (r : Route) : State :=
  if s.lostRoutes.contains r.id then s
  else
    let s := { s with lostRoutes := s.lostRoutes ++ [r.id] }
    if r.cls = 1 then dieFault s (r.dies.getLast?.getD 0) 8
    else (s.gram.halos.filter (fun h => h.route == r.id)).foldl (fun s h => loseHalo s h (r.dies.headD 0)) s

/-- Whether the way still ahead of a packet uses the hop between two dies. -/
def Flight.crosses (f : Flight) (a b : Nat) : Bool := usesHop ⟨0, 0, f.place :: f.path⟩ a b

/-- A port goes DOWN with its peer: every route over it is lost, and so is every packet that has the hop ahead of it (R362). -/
def portDown (s : State) (d p : Nat) : State :=
  match peerPort? s.part.dies d p with
  | none => s
  | some (e, q) =>
    let s := modPort (modPort s (4 * d + p) (fun n => { n with st := .down })) (4 * e + q) (fun n => { n with st := .down })
    (s.gram.routes.filter (fun r => usesHop r d e)).foldl loseRoute { s with fabric := s.fabric.filter (fun f => !f.crosses d e) }

/-- Whether a packet is the one a command names (R359). -/
def Flight.is (f : Flight) (d : Nat) (pkt : FabPkt) : Bool :=
  match pkt, f.cargo with
  | .halo e k right v, .halo k' right' v' => f.dest == e && k == k' && right == right' && v == v'
  | .heartbeat e, .beat e' => e == e'
  | .block addr data, .block b => f.path.head? == some d && b.addr == addr && b.data == data
  | _, _ => false

/-- A packet reaches the last die of its path: a halo record enters its clause's queue, a heartbeat is noted, and a block burst waits for
the die's FORWARD channel. -/
def deliver (s : State) (d p : Nat) (c : Cargo) : State :=
  match c with
  | .halo k right v => haloPush s (clauseIx d k) right v
  | .beat e => setMgt s e { mgtAt s e with lastBeat := s.tb }
  | .block b => modPort s (4 * d + p) (fun n => { n with ingress := n.ingress ++ [b] })

/-- A packet of State's fabric passes a port: it ends at this die, or waits here for its next hop. -/
def passFlight (s : State) (d p : Nat) (f : Flight) : State :=
  let s := { s with fabric := s.fabric.erase f }
  if f.path.length ≤ 1 then deliver s d p f.cargo
  else { s with fabric := s.fabric ++ [{ f with place := d, via := some p, path := f.path.drop 1 }] }

/-- The class of a packet in priority order: TIME, HALO, MGT, BLOCK (R360). -/
def FabPkt.cls : FabPkt → Nat
  | .time _ _ _ => 0
  | .halo _ _ _ _ => 1
  | .heartbeat _ => 2
  | .event _ => 2
  | .access => 2
  | .block _ _ => 3

/-- The packet of a class that a port receives next: the oldest that waits for the hop, with a credit, while no packet of a higher class with
a credit waits there (R360). -/
def nextFlight? (s : State) (a d p cls : Nat) : Option Flight :=
  let ready (c : Nat) : Option Flight := s.fabric.find? (fun f => f.place == a && f.path.head? == some d && f.cargo.cls == c && hopCredit s f d p)
  if (List.range cls).any (fun c => (ready c).isSome) then none else ready cls

/-- What a good packet does at the die it reaches. Counts act 48 ticks after their timestamp, entries wait for the package manager, and accesses have rows of their
own (R356, R360, R361): their packets are not held in State. -/
def packetEffect (s : State) (a d p : Nat) (pkt : FabPkt) : State :=
  match nextFlight? s a d p (FabPkt.cls pkt) with
  | some f => if f.is d pkt then passFlight s d p f else s
  | none => s

/-- A port receives a group that fails its CRC: it asks for a replay from the last good group, and after 8 failed replays of one group it
retrains and resumes from there. `same`: the group is the one that failed at the receipt before (R359). -/
def badGroup (s : State) (d p : Nat) (same : Bool) : State :=
  let n := portAt s (4 * d + p)
  let tries := if same then n.groupReplays + 1 else 1
  if 9 ≤ tries then setPort s (4 * d + p) { n with st := .train, retrains := satInc n.retrains, groupReplays := 0 }
  else emit (setPort s (4 * d + p) { n with replays := satInc n.replays, groupReplays := tries }) (.fabricReplay d p)

/-- FABRIC_PACKET_RECEIVE: the groups of a packet from the last good one on, each with its CRC-16, and the packet that they spell, as its header's
layout is not given (R236, R359, assumption 26). -/
def doFabricPacketReceive (s : State) (d p : Nat) (groups : List (List Byte × BitVec 16)) (pkt : FabPkt) : State :=
  let n := portAt s (4 * d + p)
  if !dieOk s d ∨ 4 ≤ p ∨ n.st ≠ .up then s
  else match groups.findIdx? (fun g => crc16 g.1 != g.2) with
    | some i => badGroup s d p (i == 0)
    | none =>
      let s := setPort s (4 * d + p) { n with groupReplays := 0 }
      match peerPort? s.part.dies d p with
      | some (e, q) => packetEffect (modPort s (4 * e + q) (fun m => { m with sent := m.sent + 1 })) e d p pkt
      | none => s

def execFabricPacketReceive (die port : Nat) (groups : List (List Byte × BitVec 16)) (pkt : FabPkt) (s : State) : Host.Outcome State Fault Refusal :=
  .next (doFabricPacketReceive s die port groups pkt)

/-- PORT_RETRAIN_DONE: a port resumes, or retrains once more; two failures in a row take it DOWN (R359, R362). -/
def doPortRetrainDone (s : State) (d p : Nat) (ok : Bool) : State :=
  let n := portAt s (4 * d + p)
  if !dieOk s d ∨ 4 ≤ p ∨ n.st ≠ .train then s
  else if ok then setPort s (4 * d + p) { n with st := .up, fails := 0 }
  else if n.fails = 0 then setPort s (4 * d + p) { n with fails := 1, retrains := satInc n.retrains }
  else portDown s d p

def execPortRetrainDone (die port : Nat) (ok : Bool) (s : State) : Host.Outcome State Fault Refusal := .next (doPortRetrainDone s die port ok)

end Sys2Proof.Machine
end

