-- ==== Sys2Proof/Machine/ParamOps.lean ====
section
/-! DEFINITION. The parameter set: framing of its records (R58), the checks of each type by its owning chapter and the checks that span
records (R59, R60). Checks read a trial state that holds the Grammar and the set under check; assumption 20 names the readings taken. -/

namespace Sys2Proof.Machine

/-! ### Framing (R58) -/

/-- Length with padding to a multiple of 4. -/
def pad4 (n : Nat) : Nat := (n + 3) / 4 * 4

/-- Records read from a byte string until its end or the first failure: framing 0x19, then the record's CRC 0x18, with its index. -/
def readRecs (bs : List Byte) : Nat → Nat → List ParamRec → List ParamRec × Option (Nat × Nat)
  | 0, _, acc => (acc, none)
  | fuel + 1, at_, acc =>
    if bs.length ≤ at_ then (acc, none)
    else
      let len := leAt bs (at_ + 4) 4
      let typ : BitVec 16 := BitVec.ofNat 16 (leAt bs at_ 2)
      let target : Word := BitVec.ofNat 32 (leAt bs (at_ + 8) 4)
      let payload := slice bs (at_ + 16) len
      if bs.length < at_ + 16 ∨ bs.length < at_ + 16 + pad4 len ∨ leAt bs (at_ + 2) 2 ≠ 0 ∨
          acc.any (fun r => r.typ == typ && r.target == target) then (acc, some (0x19, acc.length))
      else if (crc32c payload).toNat ≠ leAt bs (at_ + 12) 4 then (acc, some (0x18, acc.length))
      else readRecs bs fuel (at_ + 16 + pad4 len) (acc ++ [⟨typ, target, payload⟩])

/-- The records of a parameter set, or the first failure of framing or CRC. -/
def frameRecs (bs : List Byte) : List ParamRec × Option (Nat × Nat) := readRecs bs (bs.length / 16 + 1) 0 []

/-- A record's bytes: header, payload, padding (R58). -/
def ParamRec.bytes (p : ParamRec) : List Byte :=
  natLE 2 p.typ.toNat ++ ([0, 0] ++ (natLE 4 p.payload.length ++ (natLE 4 p.target.toNat ++ (natLE 4 (crc32c p.payload).toNat ++
    (p.payload ++ List.replicate (pad4 p.payload.length - p.payload.length) 0)))))

/-! ### Checks of one record -/

/-- A value in a range. -/
def between (lo hi v : Nat) : Bool := decide (lo ≤ v ∧ v ≤ hi)

/-- Whether the Grammar under check enables a clock domain on a die (R41). -/
def clockOn (s : State) (d bit : Nat) : Bool := (s.gram.clocks.getD d 0).getLsbD bit

/-- LENGTH of a die-bank table (R180). -/
def tableLen (p : ParamRec) : Nat := if p.typ = 0x0101 then 32768 else if p.typ = 0x0103 then 393216 else 512

/-- A die-bank table's size, target and place (R179, R181). -/
def tablePlaceOk (s : State) (p : ParamRec) : Bool :=
  let d := p.target.toNat / 2 ^ 24
  let a := tableAddr p
  let e := a + tableLen p
  p.payload.length == tableLen p && !p.target.getLsbD 23 && (dieOk s d || d == 0xFF) && a % 512 == 0 && decide (e ≤ 0x700000) &&
    (p.typ == 0x0103 || a / 0x80000 == (e - 1) / 0x80000)

/-- Every threshold cell has t1 ≤ t2 ≤ t3 (R181). -/
def thresholdsOk (b : List Byte) : Bool :=
  (List.range 256).all (fun r => (List.range 256).all (fun c =>
    let o := 1536 * r + 2 * c
    decide (leAt b o 2 ≤ leAt b (o + 512) 2 ∧ leAt b (o + 512) 2 ≤ leAt b (o + 1024) 2)))

/-- Spread weights at most 512, and none upstream on a DIFFUSION row (R181). -/
def spreadOk (s : State) (b : List Byte) : Bool :=
  (List.range 256).all (fun i => decide (leAt b (2 * i) 2 ≤ 512)) &&
    s.gram.rows.all (fun r => !rowDiffusion r || (leAt b (8 * r.row) 2 == 0 && leAt b (8 * r.row + 2) 2 == 0))

/-- A gain-trim record (R180, R181). -/
def gainOk (s : State) (p : ParamRec) : Bool :=
  p.payload.length % 2 == 0 && decide (1 ≤ gainCount p ∧ p.target.toNat + gainCount p ≤ 131072 * s.part.dies) &&
    (List.range (gainCount p)).all (fun i => decide ((byteAt p.payload (2 * i)).toNat < 64))

/-- One entry of a nozzle table (R198, R200). -/
def nozEntryOk (s : State) (row v : Nat) : Bool :=
  let e := nozEntryOf v
  decide (v < 2 ^ 26) && (if e.unused then v == 2 ^ 25
    else match slotCfg? s (e.nozzle / 131072) (e.nozzle / 2048 % 64) with
      | some g => g.row == row
      | none => false)

/-- A nozzle table's own checks (R196, R198, R200). -/
def nozOk (s : State) (p : ParamRec) : Bool :=
  let b := p.payload
  let n := nozCount p
  let used := (nozEntries p).filterMap (fun e => if e.unused then none else some e.nozzle)
  headOk s p.target.toNat && decide (8 ≤ b.length) && between 1 16384 n && b.length == 8 + 4 * n && byteAt b 1 == 0 && byteAt b 7 == 0 &&
    decide (leAt b 6 1 ≤ 63) && (rowCfg? s (nozRow p)).isSome &&
    decide (nozFd p + 64 * 250 < 25 * (rowCfg s (nozRow p)).minFire) &&
    (List.range n).all (fun i => nozEntryOk s (nozRow p) (leAt b (8 + 4 * i) 4)) && used.eraseDups.length == used.length

/-- An inflection table (R207). -/
def inflOk (s : State) (p : ParamRec) : Bool :=
  let t := p.target.toNat
  t / 2 ^ 9 == 0 && t / 64 % 4 == 0 && (rowCfg? s (t % 64)).isSome && p.payload.length == 128 && zeroAt p.payload 0 8

/-- A row-timing record (R193). -/
def timingOk (s : State) (p : ParamRec) : Bool :=
  let b := p.payload
  (rowCfg? s p.target.toNat).isSome && b.length == 24 && between 1 (2 ^ 36) (leAt b 0 8) && decide (leAt b 8 4 ≤ 262143) &&
    decide (leAt b 0x0D 1 ≤ 3) && decide (leAt b 0x0E 1 ≤ 1) && byteAt b 0x0F == 0 && zeroAt b 0x12 6

/-- Members of an agreement-group record. -/
def groupMembers (p : ParamRec) : List Nat := (List.range (leAt p.payload 2 2)).map (fun i => leAt p.payload (4 + 2 * i) 2)

/-- An agreement-group record's own checks (R204). -/
def groupOk (p : ParamRec) : Bool :=
  let b := p.payload
  let m := groupMembers p
  decide (p.target.toNat < 16) && decide (leAt b 0 1 ≤ 1) && byteAt b 1 == 0 && decide (1 ≤ m.length) && b.length == 4 + 2 * m.length &&
    m.eraseDups.length == m.length

/-- GATHER channels of a head channel, by die (R48). -/
def gatherDies (s : State) (h : Nat) : List Nat := (s.gram.dma.filter (fun e => e.use == 1 && e.arg == h)).map (fun e => e.die)

/-- A link record's own checks, and the head-channel rule of R48 (R216-R218). -/
def linkOk (s : State) (p : ParamRec) : Bool :=
  let b := p.payload
  let t := p.target.toNat
  let d := t / 256
  let ls := laneList (recLanes p)
  let hs := (recHeads p).map (fun e => e.1)
  let bs := (recHeads p).map (fun e => e.2)
  t / 2 ^ 16 == 0 && t / 8 % 32 == 0 && dieOk s d && decide (8 ≤ b.length) && between 1 32 (recCount p) &&
    b.length == 8 + 4 * recCount p && [1, 2, 4, 8].contains ls.length && decide (leAt b 1 1 ≤ 2) && byteAt b 3 == 0 && zeroAt b 6 2 &&
    between 50 10000 (recTel p) && ls.all (fun n => clockOn s d (if n < 4 then 6 else 7)) &&
    (List.range (recCount p)).all (fun i => zeroAt b (0x0A + 4 * i) 2) && hs.all (headOk s) && bs.all (fun n => decide (n ≤ 31)) &&
    hs.eraseDups.length == hs.length && bs.eraseDups.length == bs.length && hs.all (fun h => gatherDies s h == [d])

/-- An axes record (R41, R413, R414). -/
def axisOk' (s : State) (p : ParamRec) : Bool :=
  let b := p.payload
  let r := axisRecOf b
  axisOk s p.target.toNat && clockOn s (p.target.toNat / 2) 11 && between 1 8 r.nprof && b.length == 52 + 12 * r.nprof &&
    decide (leAt b 0 1 ≤ 1) && decide (leAt b 1 1 < 32) && decide (r.ihold ≤ r.irun) && decide (r.holdDelay ≤ 10000) &&
    between 10 10000 r.debounce && decide (16 ≤ r.stallWin) && between 1 4096 r.stallTime && decide (r.softMin < r.softMax) &&
    (r.thr.zip (r.thr.drop 1)).all (fun q => decide (q.1 ≤ q.2)) && decide (r.vslow ≤ r.vfast) && between 1 (2 ^ 31 - 1) r.backoff &&
    between 1 (2 ^ 31 - 1) r.backoffMax && between 1 r.irun r.iref && byteAt b 0x33 == 0 && (!r.stopRef || r.ratio != 0) &&
    decide (r.stopProf < r.nprof) &&
    r.profs.all (fun q => between 1 65535 q.1 && between 1 (2 ^ 24) q.2.1 && between 1 (2 ^ 30) q.2.2)

/-- A services record's own checks (R426, R427). -/
def svcOk (s : State) (p : ParamRec) : Bool :=
  let b := p.payload
  let r := svcRecOf b
  decide (p.target.toNat < 16) && between 1 64 r.heads.length && b.length == 60 + 2 * r.heads.length && decide (leAt b 5 1 < 2) &&
    between 1 15 r.spitCode && between 1 64 r.stride && zeroAt b 0x2D 3 && decide (1 ≤ r.spitLines) &&
    between 1 (2 ^ 31 - 1) r.purgeSteps && decide (r.purgeDwell ≤ 60000) && zeroAt b 0x3A 2 && r.axes.all (axisOk s) &&
    r.axes.eraseDups.length == r.axes.length && r.heads.all (headOk s) && r.heads.eraseDups.length == r.heads.length

/-- An integrity record (R262). -/
def integOk (p : ParamRec) : Bool :=
  let b := p.payload
  let g := integOf b
  p.target == 0 && b.length == 32 && decide (1000 ≤ g.clauseWin) && decide (1000 ≤ g.hcWin) && between 1 3600 g.laneWin &&
    between 1 3600 g.memWin && between 1 3600 g.axisWin && decide (1 ≤ g.suspectLimit) && between 1 4 g.rewindGuard && zeroAt b 0x11 15

/-- A record's own checks, an unknown type failing them (R59, R61 phase 5). -/
def recOk (s : State) (p : ParamRec) : Bool :=
  match p.typ.toNat with
  | 0x0101 => tablePlaceOk s p
  | 0x0102 => gainOk s p
  | 0x0103 => tablePlaceOk s p && thresholdsOk p.payload
  | 0x0104 => tablePlaceOk s p && spreadOk s p.payload
  | 0x0201 => nozOk s p
  | 0x0202 => inflOk s p
  | 0x0203 => timingOk s p
  | 0x0204 => groupOk p
  | 0x0301 => linkOk s p
  | 0x0401 => axisOk' s p
  | 0x0402 => svcOk s p
  | 0x0501 => integOk p
  | _ => false

/-! ### Checks that span records -/

/-- Records of a type in the set under check. -/
def recsOf (s : State) (typ : Nat) : List ParamRec := s.params.filter (fun p => p.typ.toNat == typ)

/-- Whether some two elements of a list, in either order, stand in a relation. -/
def anyPair {α : Type} (f : α → α → Bool) : List α → Bool
  | [] => false
  | x :: xs => xs.any (f x) || anyPair f xs

/-- Whether every element occurs once. -/
def distinct (xs : List Nat) : Bool := xs.eraseDups.length == xs.length

/-- Whether two table records name a die in common. -/
def shareDie (s : State) (p q : ParamRec) : Bool := (List.range s.part.dies).any (fun d => tableOn p d && tableOn q d)

/-- Tables: none overlaps another on a die; one tone-curve and one spread record and 16 threshold arrays to a die (R181). -/
def tablesBad (s : State) : Bool :=
  let ts := s.params.filter isTable
  anyPair (fun p q => shareDie s p q && decide (tableAddr p < tableAddr q + tableLen q ∧ tableAddr q < tableAddr p + tableLen p)) ts ||
    (List.range s.part.dies).any (fun d =>
      let n (typ : Nat) : Nat := ((recsOf s typ).filter (fun p => tableOn p d)).length
      decide (1 < n 0x0101 ∨ 1 < n 0x0104 ∨ 16 < n 0x0103))

/-- Gain trims: no nozzle is covered twice (R181). -/
def gainsBad (s : State) : Bool :=
  anyPair (fun p q => decide (p.target.toNat < q.target.toNat + gainCount q ∧ q.target.toNat < p.target.toNat + gainCount p))
    (recsOf s 0x0102)

/-- The head channels that have both a link and a nozzle table. -/
def tabledHeads (s : State) : List Nat := ((recsOf s 0x0201).map (fun p => p.target.toNat)).filter (headDefined s)

/-- Package nozzles that a head channel's table names. -/
def namedNozzles (p : ParamRec) : List Nat := (nozEntries p).filterMap (fun e => if e.unused then none else some e.nozzle)

/-- Nozzle tables: no nozzle named twice, the stagger span of every strip within R24, nozzles on the die of the channel's link, and each
die's pool large enough (R24, R200, R238). -/
def nozzlesBad (s : State) : Bool :=
  let ts := recsOf s 0x0201
  let names := ts.flatMap namedNozzles
  !distinct names ||
    s.gram.slots.any (fun g => decide (14 < smaxOf s g.die g.slot - sminOf s g.die g.slot + (rowCfg s g.row).lead)) ||
    ts.any (fun p => match headLink? s p.target.toNat with
      | some (d, _) => (namedNozzles p).any (fun n => n / 131072 != d)
      | none => false) ||
    (List.range s.part.dies).any (fun d =>
      let hs := (tabledHeads s).filter (fun h => (headLink? s h).map (fun l => l.1) == some d)
      decide (131072 < (hs.map (headNozzles s)).sum))

/-- Links: no lane or head channel in two, at most 32 channels on a die, and each fits at its full lane count once its channels' tables
are known (R216, R218, R219). -/
def linksBad (s : State) : Bool :=
  let ls := recsOf s 0x0301
  let die (p : ParamRec) : Nat := p.target.toNat / 256
  let hs := ls.flatMap (fun p => (recHeads p).map (fun e => e.1))
  anyPair (fun p q => die p == die q && (laneList (recLanes p)).any (fun n => (recLanes q).testBit n)) ls || !distinct hs ||
    (List.range s.part.dies).any (fun d => decide (32 < ((ls.filter (fun p => die p == d)).map recCount).sum)) ||
    ls.any (fun p =>
      let hs := (recHeads p).map (fun e => e.1)
      hs.all (fun h => (nozTable? s h).isSome) && !fits s (laneList (recLanes p)).length hs)

/-- Agreement groups: members fire one row, and no channel is in two groups (R204). -/
def groupsBad (s : State) : Bool :=
  let gs := recsOf s 0x0204
  !distinct (gs.flatMap groupMembers) ||
    gs.any (fun p =>
      let rows := ((groupMembers p).filter (fun h => (nozTable? s h).isSome)).map (headRow s)
      decide (1 < rows.eraseDups.length))

/-- Whether a role's profile and positions suit its axis, once the axis has a record (R427). The pump has no positions. -/
def roleBad (s : State) (a : Nat) (profs : List Nat) (posns : List Int) : Bool :=
  match axisRec? s a with
  | none => false
  | some r => a != 0xFF && (profs.any (fun p => decide (r.nprof ≤ p)) || posns.any (fun x => decide (x < r.softMin ∨ r.softMax < x)))

/-- Services: axes and channels in one group each, profiles and positions that suit the axes, and a spit period no shorter than the
longest minimum fire period (R426, R427). -/
def servicesBad (s : State) : Bool :=
  let rs := (recsOf s 0x0402).map (fun p => svcRecOf p.payload)
  !distinct (rs.flatMap SvcRec.axes) || !distinct (rs.flatMap (fun r => r.heads)) ||
    rs.any (fun r =>
      roleBad s r.lift [r.liftProf] [r.liftPrint, r.liftService, r.liftWipe, r.liftCap] || roleBad s r.cap [r.capProf] [r.capPark, r.capOn] ||
      roleBad s r.wiper [r.wipeProf, r.wipeRet] [r.wipePark, r.wipeEnd] || roleBad s r.pump [r.pumpProf] [] ||
      (r.heads.filter (fun h => (nozTable? s h).isSome)).any (fun h => decide (640 * r.period < (rowCfg s (headRow s h)).minFire)))

/-- Whether records of the set conflict among themselves. -/
def setBad (s : State) : Bool :=
  tablesBad s || gainsBad s || nozzlesBad s || linksBad s || groupsBad s || servicesBad s

/-- Whether a record names something that no record of the set defines (R200, R204, R427). -/
def lacksBad (s : State) (p : ParamRec) : Bool :=
  match p.typ.toNat with
  | 0x0201 => !headDefined s p.target.toNat
  | 0x0301 => ((recHeads p).map (fun e => e.1)).any (fun h => !(nozTable? s h).isSome)
  | 0x0204 => (groupMembers p).any (fun h => !headDefined s h)
  | 0x0402 =>
    let r := svcRecOf p.payload
    r.axes.any (fun a => !(axisRec? s a).isSome) || r.heads.any (fun h => !headDefined s h)
  | _ => false

/-- The record at which the first conflict is found when the records are taken in order (R60). -/
def firstConflict? (s : State) (ps : List ParamRec) : Option Nat :=
  let whole := { s with params := ps }
  (List.range ps.length).find? (fun i =>
    setBad { s with params := ps.take (i + 1) } || (match ps[i]? with | some p => lacksBad whole p | none => false))

/-- The first record whose own checks fail. -/
def firstBad? (s : State) (ps : List ParamRec) : Option Nat :=
  let t := { s with params := ps }
  (List.range ps.length).find? (fun i => match ps[i]? with | some p => !recOk t p | none => false)

end Sys2Proof.Machine
end

