-- ==== Sys2Proof/Machine/GrammarOps.lean ====
section
/-! DEFINITION. The Grammar image and the Dialect slot: layout (R37-R58) and the checks of R60 in their order, each with its FAIL_CODE
and FAIL_SECTION; assumption 20 names the readings taken. -/

namespace Sys2Proof.Machine

/-- A failure: FAIL_CODE and FAIL_SECTION (R60). -/
abbrev Fail := Nat × Nat

/-- FAIL_SECTION where a fault lies in no one section. -/
def noSect : Nat := 0xFFFF

/-- A check that must hold. -/
def need (ok : Bool) (code sect : Nat) : Option Fail := if ok then none else some (code, sect)

/-- The first failure of some checks in order. -/
def firstFail (cs : List (Option Fail)) : Option Fail := cs.findSome? id

/-! ### Sections (R39) -/

/-- A section as it stands in an image: its index, header fields with LENGTH, and payload, cut short where it runs past the trailer. -/
structure Sect where
  ix : Nat
  typ : Nat
  flags : Nat
  len : Nat
  rsvd : Nat
  crc : Nat
  payload : List Byte
deriving DecidableEq, Repr

/-- Whether its payload lies before the trailer. -/
def Sect.whole (x : Sect) : Bool := x.payload.length == x.len

/-- The sections of an image whose trailer begins at `tl`, from number `ix` at `at_` on, at most `left`; and where they do not end at the
trailer, or a LENGTH is no multiple of 4, the FAIL_SECTION of the first such fault (R39, R60). -/
def readSects (img : List Byte) (tl : Nat) : Nat → Nat → Nat → List Sect × Option Nat
  | 0, _, _ => ([], none)
  | left + 1, ix, at_ =>
    if at_ = tl then ([], none)
    else if tl < at_ + 16 then ([], some noSect)
    else
      let len := leAt img (at_ + 4) 4
      let x : Sect := ⟨ix, leAt img at_ 2, leAt img (at_ + 2) 2, len, leAt img (at_ + 8) 4, leAt img (at_ + 12) 4,
        slice img (at_ + 16) (min len (tl - at_ - 16))⟩
      let r := if tl < at_ + 16 + len then ([], some noSect) else readSects img tl left (ix + 1) (at_ + 16 + len)
      (x :: r.1, if len % 4 ≠ 0 then some ix else r.2)

/-- Known section types (R40). -/
def knownSect (t : Nat) : Bool := decide (1 ≤ t ∧ t ≤ 8) || t == 0x8001

/-- The pieces of `n` bytes of a payload. -/
def pieces (n : Nat) (bs : List Byte) : List (List Byte) := (List.range (bs.length / n)).map (fun i => slice bs (n * i) n)

/-- The section of a type, the first. -/
def sectOf? (ss : List Sect) (t : Nat) : Option Sect := ss.find? (fun x => x.typ == t)

/-- Its payload; empty where the image has none. -/
def payloadOf (ss : List Sect) (t : Nat) : List Byte := ((sectOf? ss t).map (fun x => x.payload)).getD []

/-- Its index. -/
def ixOf (ss : List Sect) (t : Nat) : Nat := ((sectOf? ss t).map (fun x => x.ix)).getD noSect

/-! ### The Grammar that an image spells -/

/-- A ROWS entry (R42). -/
def rowOf (b : List Byte) : RowCfg :=
  { row := leAt b 0 1, mode := leAt b 1 1, strips := leAt b 2 2, lead := leAt b 4 1, p := leAt b 5 1, integrity := leAt b 6 1,
    overlay := (byteAt b 7).getLsbD 0, minFire := leAt b 8 4 }

/-- The used slots of a SLOTS payload (R43). -/
def slotsOf (b : List Byte) : List SlotCfg :=
  (List.range (b.length / 4)).filterMap (fun i =>
    if leAt b (4 * i) 1 = 0xFF then none else some ⟨i / 64, i % 64, leAt b (4 * i) 1, leAt b (4 * i + 2) 2⟩)

/-- A ROUTES entry (R45). -/
def routeOf (b : List Byte) : Route :=
  { id := leAt b 0 1, cls := leAt b 1 1, dies := (List.range (min 8 (leAt b 2 1))).map (fun i => leAt b (4 + i) 1) }

/-- A HALO entry (R46). -/
def haloOf (b : List Byte) : HaloCfg := ⟨leAt b 0 1, leAt b 1 1, leAt b 2 2⟩

/-- A QUEUES entry (R47). -/
def queueOf (b : List Byte) : QueueCfg := ⟨leAt b 0 1, leAt b 1 1, leAt b 2 2⟩

/-- A DMA entry (R48). -/
def dmaOf (b : List Byte) : DmaCfg :=
  { die := leAt b 0 1, ch := leAt b 1 1, use := leAt b 2 1, prio := leAt b 3 1 % 4, pz4 := (byteAt b 3).getLsbD 7, arg := leAt b 4 2 }

/-- Sections of IMAGE type. -/
def imageSects (ss : List Sect) : List Sect := ss.filter (fun x => x.typ == 8)

/-- The Grammar of an image's sections. -/
def grammarOf (ss : List Sect) : Grammar :=
  { clocks := (pieces 4 (payloadOf ss 1)).map (fun b => BitVec.ofNat 16 (leAt b 0 2)), rows := (pieces 16 (payloadOf ss 2)).map rowOf,
    slots := slotsOf (payloadOf ss 3), halos := (pieces 4 (payloadOf ss 4)).map haloOf, routes := (pieces 12 (payloadOf ss 5)).map routeOf,
    queues := (pieces 4 (payloadOf ss 6)).map queueOf, dma := (pieces 8 (payloadOf ss 7)).map dmaOf,
    images := (imageSects ss).map (fun x => imageOf x.payload) }

/-! ### The checks of sections among themselves (R60: 0x0D-0x0F) -/

/-- Whether a section stands where its type may, after types `prev` (R40). -/
def orderOk (prev : List Nat) (t : Nat) : Bool :=
  (match prev.getLast? with | some p => decide (p < t) || (t == 8 && p == 8) | none => true) && (knownSect t || decide (0x8000 ≤ t))

/-- The first section out of order, unknown or repeated, or at which the payloads other than IMAGE pass 32 KiB (R40). -/
def orderBad? (ss : List Sect) : Option Nat :=
  (List.range ss.length).find? (fun i =>
    let before := ss.take i
    let held : List Nat := ((ss.take (i + 1)).filter (fun x => x.typ != 8)).map (fun x => x.len)
    !orderOk (before.map (fun x => x.typ)) ((ss[i]?.map (fun x => x.typ)).getD 0) || decide (32768 < held.sum))

/-- Whether LENGTH suits the type (R39, R41-R49). -/
def lengthOk (dies : Nat) (x : Sect) : Bool :=
  let n := x.len
  match x.typ with
  | 1 => n == 4 * dies
  | 2 => n % 16 == 0
  | 3 => n == 256 * dies
  | 4 => n % 4 == 0
  | 5 => n % 12 == 0
  | 6 => n % 4 == 0
  | 7 => n % 8 == 0
  | 8 => decide (24 ≤ n) && n == 24 + 4 * leAt x.payload 2 2 + leAt x.payload 4 2
  | _ => true

/-! ### The checks of what sections say (R60: 0x10-0x17) -/

/-- Depth range of a queue class (R47). -/
def depthOk (cls depth : Nat) : Bool :=
  if cls = 1 ∨ cls = 2 ∨ cls = 4 then between 2 16 depth
  else if cls = 3 then between 1 8 depth
  else if cls = 5 then between 8 64 depth
  else decide (0x10 ≤ cls ∧ cls ≤ 0x13) && decide (depth ≤ 1024)

/-- A QUEUES entry by R47. -/
def queueOk (dies : Nat) (q : QueueCfg) : Bool :=
  depthOk q.cls q.depth && (decide (q.die < dies) || q.die == 0xFF) && (decide (q.cls < 0x10) || q.die == 0)

/-- Reservations of the command classes (R47). -/
def reserved (g : Grammar) : Nat :=
  ((List.range 4).map (fun c => ((g.queues.find? (fun q => q.cls == 0x10 + c)).map (fun q => q.depth)).getD 64)).sum

/-- Indices within the member and reserved fields 0: of the Dialect header and the Grammar header, then section by section (R3, R11, R57,
R60 INDEX). -/
def indexBad? (dies : Nat) (dhdr hdr : List Byte) (ss : List Sect) (g : Grammar) : Option Fail :=
  let sect (x : Sect) : Bool :=
    let p := x.payload
    x.flags == 0 && x.rsvd == 0 && (match x.typ with
      | 1 => (pieces 4 p).all (fun b => decide (leAt b 0 4 < 4096))
      | 2 => (pieces 16 p).all (fun b => decide (leAt b 7 1 < 2) && zeroAt b 0x0C 4)
      | 3 => (pieces 4 p).all (fun b => byteAt b 1 == 0)
      | 5 => (pieces 12 p).all (fun b => byteAt b 3 == 0 && (routeOf b).dies.all (fun d => decide (d < dies)))
      | 6 => g.queues.all (queueOk dies) && decide (reserved g ≤ 1024)
      | 7 => (pieces 8 p).all (fun b =>
          let e := dmaOf b
          decide (e.die < dies) && decide (e.ch < 32) && leAt b 3 1 / 4 % 32 == 0 && zeroAt b 6 2 &&
            (e.use != 1 || decide (e.arg < 32 * dies)))
      | 8 => zeroAt p 0x14 4
      | _ => true)
  firstFail (need (zeroAt dhdr 6 2 && zeroAt dhdr 0x40 188 && zeroAt hdr 0x1A 6 && zeroAt hdr 0x28 20) 0x10 noSect :: ss.map (fun x => need (sect x) 0x10 x.ix))

/-- SLOTS: unused entries whole, rows defined, and each row's positions 0 to STRIPS - 1 exactly once (R18, R43). -/
def stripOk (payload : List Byte) (g : Grammar) : Bool :=
  (pieces 4 payload).all (fun b => leAt b 0 1 != 0xFF || leAt b 2 2 == 0xFFFF) &&
    g.slots.all (fun c => g.rows.any (fun r => r.row == c.row)) &&
    g.rows.all (fun r => ((g.slots.filter (fun c => c.row == r.row)).map (fun c => c.pos)).mergeSort (fun a b => decide (a ≤ b))
      == List.range r.strips)

/-- A ROWS entry's ranges (R24, R30, R42). -/
def rowOk (dies : Nat) (r : RowCfg) : Bool :=
  decide (r.row < 64) && decide (r.mode ≤ 2) && between 1 (64 * dies) r.strips && between 2 14 r.lead && between 1 31 r.p &&
    decide (r.integrity ≤ 1) && decide (4000 ≤ r.minFire ∧ 128 * r.p ≤ r.minFire)

/-- ROWS: ranges, and rows ascending without repeats (R42). -/
def rowsOk (dies : Nat) (g : Grammar) : Bool :=
  g.rows.all (rowOk dies) && (g.rows.zip (g.rows.drop 1)).all (fun q => decide (q.1.row < q.2.row))

/-- CLOCKS: AON, REF, TB, FAB, NOC, DDR, D2D and MGT on every die, PCI on die 0 alone, and MOT where the Dialect configures an axis (R41).
A link's domain is a check of its record (R218). -/
def clocksOk (g : Grammar) (ps : List ParamRec) : Bool :=
  ps.all (fun p => p.typ != 0x0401 || decide (2 * g.clocks.length ≤ p.target.toNat) || (g.clocks.getD (p.target.toNat / 2) 0).getLsbD 11) &&
  (List.range g.clocks.length).all (fun d =>
    let c := g.clocks.getD d 0
    [0, 1, 2, 3, 4, 5, 8, 10].all (fun b => c.getLsbD b) && c.getLsbD 9 == (d == 0))

/-- Whether two dies are neighbours (R358). -/
def joined (dies a b : Nat) : Bool := (List.range 4).any (fun p => portPeer? dies a p == some b)

/-- A ROUTES entry (R45). -/
def routeOk (dies : Nat) (b : List Byte) : Bool :=
  let r := routeOf b
  let n := leAt b 2 1
  decide (r.id < 64) && decide (r.cls ≤ 1) && between 2 8 n && (slice b (4 + n) (8 - n)).all (fun d => d == 0xFF) &&
    r.dies.all (fun d => decide (d < dies)) && distinct r.dies && (r.dies.zip (r.dies.drop 1)).all (fun q => joined dies q.1 q.2)

/-- ROUTES: each entry, IDs unique, and exactly one BLOCK route from die 0 to each other die (R45). A BLOCK route that starts elsewhere
fails too, which R45 leaves open (assumption 20). -/
def routesOk (dies : Nat) (payload : List Byte) (g : Grammar) : Bool :=
  let block := g.routes.filter (fun r => r.cls == 1)
  (pieces 12 payload).all (routeOk dies) && distinct (g.routes.map (fun r => r.id)) && block.all (fun r => r.dies.head? == some 0) &&
    (block.map (fun r => r.dies.getLast?.getD 0)).mergeSort (fun a b => decide (a ≤ b)) == (List.range dies).drop 1

/-- The die that carries a strip position. -/
def stripDie? (g : Grammar) (r p : Nat) : Option Nat := (g.slots.find? (fun c => c.row == r && c.pos == p)).map (fun c => c.die)

/-- The adjacent positions that lie on different dies. -/
def crossPairs (g : Grammar) : List (Nat × Nat) :=
  (g.slots.filter (fun c => match stripDie? g c.row (c.pos + 1) with | some d => d != c.die | none => false)).map (fun c => (c.row, c.pos))

/-- A HALO entry: its route, HALO class, leads from the die of p to that of p + 1, which differ (R46). -/
def haloOk (g : Grammar) (h : HaloCfg) : Bool :=
  match g.routes.find? (fun r => r.id == h.route), stripDie? g h.row h.pos, stripDie? g h.row (h.pos + 1) with
  | some r, some a, some b => r.cls == 0 && a != b && r.dies.head? == some a && r.dies.getLast? == some b
  | _, _, _ => false

/-- HALO: each entry, no pair twice. -/
def halosOk (g : Grammar) : Bool :=
  let ps := g.halos.map (fun h => (h.row, h.pos))
  g.halos.all (haloOk g) && ps.eraseDups.length == ps.length

/-- HALO: every pair that crosses dies has its entry. -/
def halosWhole (g : Grammar) : Bool := (crossPairs g).all (fun q => g.halos.any (fun h => h.row == q.1 && h.pos == q.2))

/-- DMA (R48), apart from the head-channel rule. -/
def dmaAllotOk (g : Grammar) : Bool :=
  distinct (g.dma.map (fun e => 32 * e.die + e.ch)) &&
    g.dma.all (fun e => between 1 5 e.use && (e.use == 1 || e.arg == 0) && (e.use != 2 || e.die == 0) && (e.use != 3 || e.die != 0)) &&
    [4, 5].all (fun u => distinct ((g.dma.filter (fun e => e.use == u)).map (fun e => e.die)))

/-- An IMAGE's field ranges and rows (R49, R50). -/
def imageOk (g : Grammar) (payload : List Byte) : Bool :=
  let m := imageOf payload
  let n := leAt payload 2 2
  let dl := leAt payload 4 2
  decide (m.id ≤ 31) && between 1 1024 n && dl % 8 == 0 && m.dataAddr % 8 == 0 && decide (m.dataAddr + dl ≤ 16384) && decide (m.entry < n) &&
    (List.range 64).all (fun r => !m.rowMask.getLsbD r || g.rows.any (fun c => c.row == r))

/-- Whether two images share a cell of a row. -/
def imagesMeet (a b : Image) : Bool := (a.rowMask &&& b.rowMask) != 0 && (a.cellMask &&& b.cellMask) != 0

/-- Bytes of image copies that a die keeps (R52). -/
def imageBytes (g : Grammar) (ms : List Image) (d : Nat) : Nat :=
  ((ms.filter (fun m => g.slots.any (fun c => c.die == d && m.rowMask.getLsbD c.row))).map (fun m => (imagePayload m).length)).sum

/-- The first IMAGE section that breaks R49, R50 or the limit of R52. -/
def imageBad? (dies : Nat) (g : Grammar) (xs : List Sect) : Option Nat :=
  ((List.range xs.length).find? (fun i =>
    match xs[i]?, g.images[i]? with
    | some x, some m =>
      let before := g.images.take i
      !imageOk g x.payload || before.any (fun q => q.id == m.id || imagesMeet q m) ||
        (List.range dies).any (fun d => decide (262144 < imageBytes g (before ++ [m]) d))
    | _, _ => false)).map (fun i => (xs[i]?.map (fun x => x.ix)).getD noSect)

/-- Every cell of every row has an image (R50). -/
def covered (g : Grammar) : Bool :=
  g.rows.all (fun r => (List.range 16).all (fun c => g.images.any (fun m => m.rowMask.getLsbD r.row && m.cellMask.getLsbD c)))

/-- The working clauses of a die at a load: not fenced, not under test (R44, R270). -/
def working (s : State) (d : Nat) : List Nat :=
  (List.range 66).filter (fun k =>
    let f := (fenceOf s (.clause d k)).st
    f != .fenced && f != .testing)

/-- Used slots of a die, in slot order. -/
def usedSlots (g : Grammar) (d : Nat) : List SlotCfg := g.slots.filter (fun c => c.die == d)

/-- R44: enough working clauses on every die, and no used slot on a fenced die. -/
def clausesOk (s : State) (g : Grammar) : Bool :=
  (List.range s.part.dies).all (fun d =>
    let n := (usedSlots g d).length
    n == 0 || (decide (n ≤ (working s d).length) && !isFenced s (.die d)))

/-! ### The whole of a slot -/

/-- A Dialect read from its slot: header, Grammar image, parameter set. -/
structure Dialect where
  hdr : List Byte
  img : List Byte
  pars : List Byte
deriving DecidableEq, Repr

/-- Read a slot. -/
def readSlot (s : State) (n : Nat) : Dialect :=
  let b := slotBase n
  let h := rdFlashN s.flash b 256
  let gl := leAt h 0x0C 4
  let ml := leAt h 0x14 4
  { hdr := h, img := rdFlashN s.flash (b + 0x1000) (if gl ≤ 0x200000 then max gl 64 else 64),
    pars := rdFlashN s.flash (b + leAt h 0x10 4) (if leAt h 0x10 4 + ml ≤ 0x800000 then ml else 0) }

/-- Whether the Dialect header is right (R57). -/
def dialectHdrOk (h : List Byte) : Bool :=
  let gl := leAt h 0x0C 4
  let po := leAt h 0x10 4
  slice h 0 4 == [0x44, 0x4C, 0x43, 0x54] && leAt h 4 2 == 1 && (crc32c (slice h 0 0xFC)).toNat == leAt h 0xFC 4 && leAt h 8 4 == 0x1000 &&
    po % 4096 == 0 && decide (0x1000 + gl ≤ po) && decide (po + leAt h 0x14 4 ≤ 0x800000)

/-- The sections of an image. -/
def sectsOf (img : List Byte) : List Sect × Option Nat := readSects img (leAt img 8 4 - 72) (img.length / 16 + 1) 0 64

/-- The checks of R60 on the Grammar image, up to the signature and rollback (0x03-0x0C). -/
def imageFail (s : State) (hdr img : List Byte) : Option Fail :=
  let il := leAt img 8 4
  let key := leAt img 0x0F 1
  let c (ok : Bool) (code : Nat) : Option Fail := need ok code noSect
  firstFail [c (slice img 0 4 == [0x47, 0x52, 0x4D, 0x52]) 0x03,
    c (leAt img 4 2 == 1 && leAt img 6 2 == 64 && between 1 4096 (leAt img 0x0C 2) && decide (leAt img 0x18 1 ≤ 63)) 0x04,
    c ((crc32c (slice img 0 0x3C)).toNat == leAt img 0x3C 4) 0x05,
    c (decide (il ≤ 0x200000) && il % 4 == 0 && il == leAt hdr 0x0C 4 && decide (152 ≤ il)) 0x06,
    c (leAt img 0x0E 1 == s.part.dies) 0x07,
    c (decide (leAt img 0x19 1 ≤ s.part.romRelease.toNat)) 0x08,
    c ((crc32c (slice img 0 (il - 72))).toNat == leAt img (il - 72) 4) 0x09,
    c (keyUsable s key) 0x0A,
    c (sigOk (keyOf s key) (slice img 0 (il - 64)) (slice img (il - 64) 64)) 0x0B,
    c (decide (s.fuses.rollback.toNat ≤ leAt img 0x18 1)) 0x0C]

/-- The checks of R60 on the sections (0x0D-0x17); `ps`: the records of the parameter set, among which an axis needs its clock. -/
def sectsFail (s : State) (hdr img : List Byte) (ps : List ParamRec) : Option Fail :=
  let w := sectsOf img
  let ss := w.1
  let g := grammarOf ss
  let dies := s.part.dies
  firstFail (ss.map (fun x => need (!x.whole || (crc32c x.payload).toNat == x.crc) 0x0D x.ix) ++
    [(orderBad? ss).map (fun i => (0x0E, (ss[i]?.map (fun x => x.ix)).getD noSect)),
     need ([1, 2, 3, 5, 7, 8].all (fun t => (sectOf? ss t).isSome)) 0x0E noSect,
     w.2.map (fun i => (0x0F, i)), need (ss.length == leAt img 0x0C 2) 0x0F noSect] ++
    (ss.map (fun x => need (lengthOk dies x) 0x0F x.ix) ++
    [need (zeroAt img (img.length - 68) 4) 0x10 noSect, indexBad? dies hdr img ss g,
     need (stripOk (payloadOf ss 3) g) 0x11 (ixOf ss 3),
     need (rowsOk dies g) 0x12 (ixOf ss 2),
     need (clocksOk g ps) 0x13 (ixOf ss 1),
     need (routesOk dies (payloadOf ss 5) g) 0x14 (ixOf ss 5),
     need (halosOk g && halosWhole g) 0x14 (ixOf ss 4),
     need (dmaAllotOk g) 0x15 (ixOf ss 7),
     (imageBad? dies g (imageSects ss)).map (fun i => (0x16, i)),
     need (covered g) 0x16 noSect,
     need (clausesOk s g) 0x17 noSect]))

/-- The checks of the parameter set in the order of phase 5 (R61). -/
def paramsFail (s : State) (g : Grammar) (crc : Nat) (pars : List Byte) : Option Fail :=
  let r := frameRecs pars
  let t := { s with gram := g }
  firstFail [r.2, need ((crc32c pars).toNat == crc) 0x18 noSect, (firstBad? t r.1).map (fun i => (0x19, i)),
    (firstConflict? t r.1).map (fun i => (0x19, i))]

/-- The first pass over a slot: the first check of R60 that fails. -/
def dialectFail (s : State) (d : Dialect) : Option Fail :=
  firstFail [need (slice d.hdr 0 4 != [0xFF, 0xFF, 0xFF, 0xFF]) 0x01 noSect, need (dialectHdrOk d.hdr) 0x02 noSect,
    imageFail s d.hdr d.img, sectsFail s d.hdr d.img (frameRecs d.pars).1, paramsFail s (grammarOf (sectsOf d.img).1) (leAt d.hdr 0x18 4) d.pars]

/-- The CRCs that the second pass compares with the first: IMAGE_CRC, the sections', PARAM_CRC and the records' (R63). -/
def passCrcs (d : Dialect) : List Word :=
  let il := leAt d.img 8 4
  crc32c (slice d.img 0 (il - 72)) :: ((sectsOf d.img).1.map (fun x => crc32c x.payload) ++
    (crc32c d.pars :: (frameRecs d.pars).1.map (fun p => crc32c p.payload)))

end Sys2Proof.Machine
end

