-- ==== Sys2Proof/Machine/LoadOps.lean ====
section
/-! DEFINITION. Loading a Dialect (R61-R69): the take-down of the old configuration at the commit point, the configuration that the
second pass applies, and how a load ends. -/

namespace Sys2Proof.Machine

/-! ### The end of start-up and of DIALECT_SELECT -/

/-- Whether a parked command is a DIALECT_SELECT. -/
def Parked.isSelect : Parked → Bool
  | .select _ _ => true
  | _ => false

/-- The DIALECT_SELECT that started a load completes (R385). -/
def endSelect (s : State) (status : Nat) (result : List Byte) : State :=
  match s.parked.find? Parked.isSelect with
  | some (.select h _) => complete { s with parked := s.parked.eraseP Parked.isSelect } h 0x0101 status result
  | _ => s

/-- Milliseconds since start-up began, saturating (PWR_START.TIME). -/
def startMs (s : State) : BitVec 16 := BitVec.ofNat 16 (min 65535 ((s.tb - s.power.startAt) / msTicks))

/-- Stage 7: READY, Configuration Request Retry Status ends, TIME_MARK (R472). A die that failed start-up keeps its RESULT. -/
def endStartup (s : State) : State :=
  let s := (List.range s.part.dies).foldl (fun s d =>
    if (mgtAt s d).result = 2 then s
    else modMgt s d (fun m => { m with stage := 7, result := 1, startTime := startMs s })) s
  let s := { s with power := { s.power with st := .ready, target := .ready, moving := false }, pcie := { s.pcie with retry := false } }
  logEv s 0 0x0001 (valueData (aonNow s).toNat (if s.power.woken then 1 else 0) 0 0)

/-- A load ends: its DIALECT_LOAD event, then start-up or the command that waited for it (R61, R66, R385, R446). -/
def endLoad (s : State) (slot : Nat) (f : Fail) (gid : Nat) : State :=
  let s := logEv { s with load := none } 0 0x0002 (valueData slot f.1 f.2 gid)
  if s.parked.any Parked.isSelect then
    (if f.1 = 0 then endSelect s stOk [] else endSelect s stDialectFail (natLE 2 f.1 ++ natLE 2 f.2))
  else if s.power.st = .starting then endStartup s else s

/-- The failure fields of PKG_GSTAT (R70). -/
def failRegs (s : State) (slot : Nat) (f : Fail) : State :=
  { s with dia := { s.dia with failSlot := BitVec.ofNat 2 slot, failCode := BitVec.ofNat 8 f.1, failSection := BitVec.ofNat 16 f.2 } }

/-- A load begins (R61, R68): phase 1. -/
def beginLoad (s : State) (slot : Nat) (cmd : Option CmdHdr) : State :=
  { s with load := some { slot := slot, cmd := cmd },
           dia := { s.dia with gstate := if s.dia.valid then .switching else .loading } }

/-! ### Take-down (R61 phase 6, R68, R69) -/

/-- What a clause keeps from one Dialect to the next: its counters, its windows and its suspect count (R260-R262, R125). -/
def Clause.counters (c : Clause) : Clause :=
  { st := c.st, slot := c.slot, transient := c.transient, withheldCnt := c.withheldCnt, rewind := c.rewind, lastFault := c.lastFault,
    suspects := c.suspects, suspectOf := c.suspectOf, lastLine := c.lastLine, fmtCnt := c.fmtCnt, crcCnt := c.crcCnt, lastCause := c.lastCause, lastDec := c.lastDec,
    lastFcode := c.lastFcode, lastCdcLine := c.lastCdcLine, lastBand := c.lastBand, stallCycles := c.stallCycles }

/-- A clause with no Dialect: off, or out of service; a clause under the unfence test goes on. -/
def clauseDown (s : State) (x : Nat) : State :=
  let c := clauseAt s x
  if c.st = .testing then s
  else powerOffClause (setClause s x { c.counters with
    st := if isFenced s (.clause (x / 66) (x % 66)) then .fenced else .off, slot := 0 }) x

/-- A link stops driving its lanes: the frame in progress ends, 8 EIDLE blocks go out on every lane, and the link is in electrical idle
(R229). -/
def stopDriving (s : State) (d l : Nat) : State :=
  let s := abortEye s d l
  let s := if (linkAt s (linkIx d l)).st.streams then sendBurst (cutStream (endFrame s d l) d l) d l 8 eidleBlk else s
  emit (modLink s (linkIx d l) (fun k =>
    { k with st := .idle, idleSince := s.tb, reneg := false, configSent := false, frames := [] })) (.eidle d l)

/-- An ACTIVE link goes to electrical idle (R69, R223, R229). -/
def linkToIdle (s : State) (d l : Nat) : State := if (linkAt s (linkIx d l)).st = .active then stopDriving s d l else s

/-- An axis at the commit point: kept with its reference when both Dialects give it the same record, kept without when they differ, and
de-energised when the new Dialect does not configure it (R69). -/
def axisSwitch (s : State) (new : List ParamRec) (a : Nat) : State :=
  let old := param? s 0x0401 a
  match new.find? (fun r => r.typ.toNat == 0x0401 && r.target.toNat == a) with
  | none => axisOff s a
  | some r =>
    if (match old with | some o => o.payload == r.payload | none => false) then s
    else modAxis s a (fun x => { x with referenced := false })
where
  /-- De-energise: bridge off, reference lost; a fenced axis stays fenced. -/
  axisOff (s : State) (a : Nat) : State :=
    modAxis s a (fun x =>
      { x with st := if x.st = .fenced then .fenced else .off, referenced := false, goal := .none, vel := 0, acc := 0, target := x.pos,
               repeat_ := none, repeating := false, group := none, dutyA := 0, dutyB := 0, en := false })

/-- A DMA channel with no use: idle, no tail, shadow not armed (R48, R479). Its counters and TRIG stay; a fenced one stays fenced. -/
def DmaCh.bare (q : DmaCh) : DmaCh :=
  { trig := q.trig, ign := q.ign, err := q.err, crc := q.crc, okCnt := q.okCnt, badCnt := q.badCnt, halts := q.halts, cause := q.cause,
    st := if q.st = .fenced then .fenced else .idle }

/-- Every DMA channel without a use. -/
def dmaDown (s : State) : State :=
  (List.range (32 * s.part.dies)).foldl (fun s i => modDma s i DmaCh.bare) s

/-- Service groups are UNKNOWN (R428). -/
def groupsUnknown (s : State) : State := (List.range 16).foldl (fun s g => modSvc s g (fun q => { q with st := .unknown, steps := [] })) s

/-- No Dialect is in force: nothing of the Grammar or the parameter set stays. -/
def noDialect (s : State) : State :=
  let s := (allClauses s).foldl clauseDown s
  let s := dmaDown s
  { s with gram := {}, params := [], slotMap := [], lostRoutes := [], fabric := s.fabric.filter (fun f => f.cargo.cls == 2),
           dia := { s.dia with valid := false, gid := 0, grev := 0, gcrc := 0 } }

/-- The take-down at the commit point (R61 phase 6, R68, R69). -/
def takeDown (s : State) (new : List ParamRec) : State :=
  let s := (allLinks s).foldl (fun s p => linkToIdle s p.1 p.2) s
  let s := (List.range (2 * s.part.dies)).foldl (fun s a => axisSwitch s new a) s
  let s := noDialect s
  { s with dia := { s.dia with gstate := .loading } }

/-! ### The second pass (R44, R50-R52, R61 phases 7-10) -/

/-- The clauses of a die: working clauses take the used slots in slot order, the two highest left over are spares (R44). -/
def mapDie (s : State) (d : Nat) : State :=
  if isFenced s (.die d) then s
  else
    let used := usedSlots s.gram d
    let w := working s d
    let rest := w.drop used.length
    let sp := rest.drop (rest.length - 2)
    let s := (used.zip w).foldl (fun s q =>
      let x := clauseIx d q.2
      let s := { s with slotMap := sput none s.slotMap (64 * d + q.1.slot) (some q.2) }
      loadClause (modClause s x (fun c => { c with st := .serving, slot := q.1.slot, powered := true })) x) s
    let s := sp.foldl (fun s k => modClause s (clauseIx d k) (fun c => { c with st := .spare, powered := true })) s
    if sp.length < 2 then logEv s d 0x0019 (valueData d sp.length (rest.length - sp.length) 0) else s

/-- Banks 0-27 of every die are 0 (R178). -/
def clearTables (s : State) : State :=
  { s with banks := s.banks.filter (fun p => decide (0x700000 ≤ p.1 % 2 ^ 23)),
           poison := s.poison.filter (fun b => !(b.kind == .bank && decide (8 * b.blk < 0x700000))),
           flips := s.flips.filter (fun p => !(p.1.kind == .bank && decide (8 * p.1.blk < 0x700000))) }

/-- The nozzle master copies (R178, R180, R201): the nozzle tables' DISABLED flags and the gain trims, else the ROM defaults. -/
def placeNozzles (s : State) : State :=
  let s := { s with disabled := [], curves := [], gains := [] }
  let s := (recsOf s 0x0102).foldl applyGains s
  ((recsOf s 0x0201).flatMap nozEntries).foldl (fun s e =>
    if e.disabled && !e.unused then { s with disabled := sput false s.disabled e.nozzle true } else s) s

/-- A channel takes a use; FORWARD runs for as long as the Dialect is active (R48, R335). -/
def giveUse (q : DmaCh) (e : DmaCfg) : DmaCh :=
  { q.bare with use := BitVec.ofNat 4 e.use, req := if e.use = 1 then 4 else if e.use = 3 then 5 else 0, pz4 := e.pz4,
                prio := BitVec.ofNat 2 e.prio, arg := e.arg, st := if e.use = 3 then .run else .idle }

/-- The DMA allotment (R48); a use allotted to a fenced channel passes to the lowest free one (R342). -/
def allotDma (s : State) : State :=
  let es := s.gram.dma
  let bad (e : DmaCfg) : Bool := isFenced s (.dma e.die e.ch)
  let s := (es.filter (fun e => !bad e)).foldl (fun s e => modDma s (dmaIx e.die e.ch) (fun q => giveUse q e)) s
  (es.filter bad).foldl (fun s e => match freeDma? s e.die with
    | some c => modDma s (dmaIx e.die c) (fun q => giveUse q e)
    | none => s) s

/-- Head channels at first use, with their temperature states and LATE counts (R69, R208, R210, R239). -/
def freshHeads (s : State) : State :=
  { s with heads := s.heads.foldl (fun m p => sput {} m p.1 { temp := p.2.temp, late := p.2.late, eseq := p.2.eseq }) [] }

/-- The fence records of head channels go on for those whose number and die are unchanged (R272). -/
def headFences (s : State) : State :=
  { s with hcFences := s.hcFences.filter (fun p => headDie? s (p.1 % 256) == some (p.1 / 256)) }

/-- A link enters DETECT on the lanes that work, its channels fenced until they fit; one without a lane is RETIRED (R69, R223, R227). -/
def linkDetect (s : State) (d l : Nat) : State :=
  let k := linkAt s (linkIx d l)
  let ws := workingLanes s d l
  let use := takenLanes ws
  let n := use.length
  let k' : Link :=
    { tx := k.tx, replays := k.replays, naks := k.naks, timeouts := k.timeouts, badUp := k.badUp, missed := k.missed, cseq := k.cseq,
      st := if n = 0 then .retired else .detect, lanes := BitVec.ofNat 8 (laneMask use) }
  let s := setLink s (linkIx d l) k'
  let s := ws.foldl (fun s m => modLane s (8 * d + m) (fun a =>
    { a with blockLock := false, bitLock := false, detected := false, rxReady := false, farReady := false, farFinal := 0, lossAt := none,
             retry := false, aligned := false, hdrAt := [] })) s
  if ws.length = (laneList (((linkRec? s d l).map recLanes).getD 0)).length then s
  else fitHeads s d l n ((liveHeads s d l).length + 1)

/-- Links of the Dialect enter DETECT; those it does not define are down. -/
def placeLinks (s : State) : State :=
  let ls := allLinks s
  let s := (List.range (8 * s.part.dies)).foldl (fun s i =>
    if ls.contains (i / 8, i % 8) then s else modLink s i (fun k => { k with st := .down, lanes := 0 })) s
  (ls.filter (fun p => !isFenced s (.die p.1))).foldl (fun s p => linkDetect s p.1 p.2) s

/-- Pages stay when the slots are as they were; otherwise every page is discarded (R69). -/
def keepPages (s : State) (old : List SlotCfg) : State :=
  if old = s.gram.slots then s else { s with pages := [], blocks := [], closed := [], comps := s.comps.map (fun p => (p.1, { p.2 with block := none })) }

/-- Routes that need a port that is DOWN are lost to the new Dialect too (R362). -/
def relose (s : State) : State :=
  (List.range (4 * s.part.dies)).foldl (fun s i =>
    if (portAt s i).st = .down then match portPeer? s.part.dies (i / 4) (i % 4) with
      | some e => (s.gram.routes.filter (fun r => usesHop r (i / 4) e)).foldl loseRoute s
      | none => s
    else s) s

/-- The calibration resources of an item (R451): dies in service, links of the Dialect, head channels in service. -/
def calResources (s : State) (item : Nat) : List Nat :=
  if item = 1 ∨ item = 2 then (List.range s.part.dies).filter (dieLive s)
  else
    let ls := (allLinks s).filter (fun p => dieLive s p.1 && (linkAt s (linkIx p.1 p.2)).st != .retired)
    if item = 3 then ls.map (fun p => linkIx p.1 p.2) else ls.flatMap (fun p => liveHeads s p.1 p.2)

/-- Every resource of some items falls due (R455). -/
def calAll (s : State) (items : List Nat) : State := addDue s (items.flatMap (fun i => (calResources s i).map (fun r => (i, r))))

/-- The configuration of a Dialect is applied (R61 phases 7-10). -/
def applyDialect (s : State) (j : LoadJob) (d : Dialect) : State :=
  let ss := (sectsOf d.img).1
  let s := { s with gram := grammarOf ss, params := (frameRecs d.pars).1 }
  let s := headFences (freshHeads s)
  let s := (s.params.filter isTable).foldl placeTable (placeNozzles (clearTables s))
  let s := { s with dia := { s.dia with
    valid := true, active := BitVec.ofNat 2 j.slot, gstate := .active, loads := satInc s.dia.loads,
    gid := BitVec.ofNat 32 (leAt d.img 0x10 4), grev := BitVec.ofNat 32 (leAt d.img 0x14 4),
    gcrc := BitVec.ofNat 32 (leAt d.img (leAt d.img 8 4 - 72) 4) } }
  let s := (List.range s.part.dies).foldl (fun s n => placeImages s n) s
  let s := (List.range s.part.dies).foldl mapDie s
  let s := groupsUnknown (placeLinks (allotDma s))
  calAll (relose (keepPages s j.oldSlots)) [1, 2, 3, 4]

/-- A load fails: before the commit point the old Dialect, if any, stays; after it the part has none, its clauses and axes off
(R63, R66, R68). -/
def loadFailed (s : State) (j : LoadJob) (f : Fail) (gid : Nat) : State :=
  let s := failRegs s j.slot f
  let s :=
    if j.second then
      let s := (List.range (2 * s.part.dies)).foldl axisSwitch.axisOff (groupsUnknown (noDialect s))
      let s := { s with links := s.links.map (fun (p : Nat × Link) => (p.1, { p.2 with st := LinkState.down, lanes := 0 })) }
      { s with dia := { s.dia with gstate := .failed } }
    else { s with dia := { s.dia with gstate := if s.dia.valid then .active else .failed } }
  endLoad s j.slot f gid

end Sys2Proof.Machine
end

