-- ==== Sys2Proof/Machine/StoreOps.lean ====
section
/-! DEFINITION. What the part keeps in the management regions of flash (R437-R440): the boot configuration, the patch regions (R407) and
the calibration store (R456, R457) with its DRAM training records (R318). -/

namespace Sys2Proof.Machine

/-- Flash is written; erased bytes are 0xFF and are not listed. -/
def flashWr (s : State) (a : Nat) (bs : List Byte) : State := { s with flash := wrFlashN s.flash a bs }

/-- Sectors from `a` for `n` bytes are erased. -/
def flashErase (s : State) (a n : Nat) : State := { s with flash := s.flash.filter (fun p => !decide (a ≤ p.1 ∧ p.1 < a + n)) }

/-- Whether one 32-bit sequence number is later than another by serial arithmetic (R440). -/
def laterSeq (a b : Nat) : Bool := decide (0 < (BitVec.ofInt 32 ((a : Int) - (b : Int))).toInt)

/-! ### Boot configuration (R440) -/

/-- The two copies. -/
def bootAddr (copy : Nat) : Nat := 0x1000 * copy

/-- A copy's 32 bytes, when its MAGIC and CHECK are right and its rate is one of the three. -/
def bootCopy? (s : State) (copy : Nat) : Option (List Byte) :=
  let b := rdFlashN s.flash (bootAddr copy) 32
  if slice b 0 4 == [0x42, 0x43, 0x46, 0x47] && (crc32c (slice b 0 0x1C)).toNat == leAt b 0x1C 4 && [6400, 7500, 8533].contains (leAt b 6 2)
  then some b else none

/-- The valid copy with the later SEQUENCE. -/
def bootUsed? (s : State) : Option (Nat × List Byte) :=
  match bootCopy? s 0, bootCopy? s 1 with
  | some a, some b => if laterSeq (leAt b 8 4) (leAt a 8 4) then some (1, b) else some (0, a)
  | some a, none => some (0, a)
  | none, some b => some (1, b)
  | none, none => none

/-- A copy with another PATCH and SEQUENCE + 1, every other field unchanged; with no valid copy, from the defaults (R440). -/
def bootNext (b : List Byte) (patch : Nat) : List Byte :=
  let h := slice b 0 5 ++ (natLE 1 patch ++ (slice b 6 2 ++ (natLE 4 (leAt b 8 4 + 1) ++ slice b 0x0C 16)))
  h ++ natLE 4 (crc32c h).toNat

/-- The defaults: DDR_RATE 8533 and no patch. -/
def bootDefault : List Byte := [0x42, 0x43, 0x46, 0x47, 1, 0] ++ (natLE 2 8533 ++ (natLE 4 0 ++ List.replicate 20 0))

/-- The copy that a write goes to: the one not in use. -/
def bootOther (s : State) : Nat := match bootUsed? s with
  | some (c, _) => 1 - c
  | none => 0

/-- The write of a copy begins with its erasure (R439). -/
def eraseBoot (s : State) : State := flashErase s (bootAddr (bootOther s)) 4096

/-- Write the other copy, the patch of a region selected (R407, R440). -/
def writeBoot (s : State) (patch : Nat) : State :=
  flashWr (eraseBoot s) (bootAddr (bootOther s)) (bootNext (((bootUsed? s).map (fun p => p.2)).getD bootDefault) patch)

/-! ### Regions of FLASH_WRITE and FLASH_READ (R57, R404, R437) -/

/-- First byte of a region. -/
def regionBase (r : Nat) : Nat := if r < 4 then 0x01000000 + r * 0x00800000 else if r = 4 then 0x40000 else 0x48000
/-- Bytes of a region. -/
def regionLen (r : Nat) : Nat := if r < 4 then 0x00800000 else 0x8000

/-! ### Patches (R407) -/

/-- A patch region's image, when it passes the checks of R407: MAGIC, lengths, RELEASE, SEC_VERSION, and the signature under key slot 0. -/
def patchOk? (s : State) (region : Nat) : Option (List Byte) :=
  let h := rdFlashN s.flash (regionBase region) 32
  let n := leAt h 0x0C 4
  let b := rdFlashN s.flash (regionBase region) (if n ≤ 32768 then n else 0)
  let ok := slice h 0 4 == [0x50, 0x41, 0x54, 0x43] && leAt h 4 1 == 1 && leAt h 5 1 == s.part.romRelease.toNat &&
    decide (leAt h 6 1 < 64 ∧ s.fuses.rollback.toNat ≤ leAt h 6 1) && decide (1 ≤ leAt h 7 1 ∧ leAt h 7 1 ≤ 64) &&
    decide (1 ≤ leAt h 8 2) && zeroAt h 0x0A 2 && zeroAt h 0x10 12 && (crc32c (slice h 0 0x1C)).toNat == leAt h 0x1C 4 &&
    decide (n ≤ 32768 ∧ 32 + 16 * leAt h 7 1 + 72 ≤ n) && n % 4 == 0 && (crc32c (slice b 0 (n - 72))).toNat == leAt b (n - 72) 4 &&
    zeroAt b (n - 68) 4 && keyUsable s 0 && sigOk (keyOf s 0) (slice b 0 (n - 64)) (slice b (n - 64) 64)
  if ok then some b else none

/-- Stage 3: the boot configuration is read, the selected patch checked and run, or PATCH_FAIL logged (R407, R472). -/
def bootUp (s : State) : State :=
  let b := ((bootUsed? s).map (fun p => p.2)).getD bootDefault
  let region := leAt b 5 1
  let s := { s with boot := { ddrRate := BitVec.ofNat 16 (leAt b 6 2) } }
  if region = 4 ∨ region = 5 then
    match patchOk? s region with
    | some img => { s with boot := { s.boot with patch := BitVec.ofNat 8 region, level := BitVec.ofNat 16 (leAt img 8 2), image := img } }
    | none => logEv s 0 0x0003 (valueData 0 0 0 0)
  else s

/-! ### Calibration store (R456, R457) -/

/-- A channel's training record (R318). -/
def trainRecord (s : State) (d ch : Nat) (settings : List Byte) : List Byte :=
  let body := [0x44, 0x54, 0x52, 0x4E, 1] ++ (natLE 1 (2 * d + ch) ++ (natLE 2 s.boot.ddrRate.toNat ++ (intLE 2 (dieTemp s d) ++
    (List.replicate 6 0 ++ (settings ++ List.replicate 492 0).take 492))))
  body ++ natLE 4 (crc32c (Config.deviceRegs (2 * d + ch) ++ body)).toNat

/-- Whether a stored training record may be reused: its CHECK valid and its RATE the configured one (R318). -/
def trainReusable (s : State) (d ch : Nat) : Bool :=
  let b := calResult s 3 (2 * d + ch)
  b.length == 512 && (crc32c (Config.deviceRegs (2 * d + ch) ++ slice b 0 0x1FC)).toNat == leAt b 0x1FC 4 && leAt b 6 2 == s.boot.ddrRate.toNat

/-- First byte of a store copy. -/
def storeAddr (copy : Nat) : Nat := 0x10000 * (copy + 1)

/-- The bytes of a store copy without its CHECK. -/
def storeBody (c : Cal) (seq count : Word) (aon : Word) (tb : BitVec 64) : List Byte :=
  let recs := c.results.flatMap (fun p => natLE 2 (p.1 / 65536) ++ (natLE 2 (p.1 % 65536) ++ (natLE 4 p.2.length ++ p.2)))
  [0x43, 0x41, 0x4C, 0x53, 1, 0, 0, 0] ++ (natLE 4 seq.toNat ++ (natLE 4 count.toNat ++ (natLE 4 aon.toNat ++ (natLE 8 tb.toNat ++
    (natLE 4 (36 + recs.length) ++ recs)))))

/-- A copy's bytes when it is valid. -/
def storeCopy? (s : State) (copy : Nat) : Option (List Byte) :=
  let h := rdFlashN s.flash (storeAddr copy) 32
  let n := leAt h 0x1C 4
  let b := rdFlashN s.flash (storeAddr copy) (if n ≤ 65536 then n else 0)
  if slice h 0 5 == [0x43, 0x41, 0x4C, 0x53, 1] && decide (36 ≤ n ∧ n ≤ 65536) && (crc32c (slice b 0 (n - 4))).toNat == leAt b (n - 4) 4
  then some b else none

/-- The valid copy with the later SEQUENCE. -/
def storeUsed? (s : State) : Option (Nat × List Byte) :=
  match storeCopy? s 0, storeCopy? s 1 with
  | some a, some b => if laterSeq (leAt b 8 4) (leAt a 8 4) then some (1, b) else some (0, a)
  | some a, none => some (0, a)
  | none, some b => some (1, b)
  | none, none => none

/-- The records of a copy, from `at_` to its CHECK. -/
def storeRecs (b : List Byte) : Nat → Nat → Sparse (List Byte) → Sparse (List Byte)
  | 0, _, acc => acc
  | fuel + 1, at_, acc =>
    if b.length < at_ + 12 then acc
    else
      let n := leAt b (at_ + 4) 4
      storeRecs b fuel (at_ + 8 + n) (sput [] acc (calKey (leAt b at_ 2) (leAt b (at_ + 2) 2)) (slice b (at_ + 8) n))

/-- Whether the results hold records of types 1 and 2 for every die, of type 3 for every channel, of type 4 for every lane of a link and
of type 5 for every head channel defined; retired and fenced units apart (R457, assumption 22). -/
def calWhole (s : State) : Bool :=
  let has (t i : Nat) : Bool := calResult s t i != []
  ((List.range s.part.dies).filter (dieLive s)).all (fun d => has 1 d && has 2 d &&
    (List.range 2).all (fun ch => ddrRetired s d ch || has 3 (2 * d + ch))) &&
    (allLinks s).all (fun p => !dieLive s p.1 ||
      ((match linkRec? s p.1 p.2 with | some r => laneList (recLanes r) | none => []).all (fun n =>
        (laneAt s (8 * p.1 + n)).retired || has 4 (8 * p.1 + n)) && (liveHeads s p.1 p.2).all (fun h => has 5 h)))
where
  /-- Whether a DRAM channel is retired. -/
  ddrRetired (s : State) (d ch : Nat) : Bool := (ddrAt s (2 * d + ch)).st == .retired

/-- The trim code a die uses: the stored one, else 512, within its bounds (R479). -/
def storedTrim (s : State) (d : Nat) : BitVec 10 :=
  let m := mgtAt s d
  let b := calResult s 1 d
  BitVec.ofNat 10 (max m.trimMin.toNat (min m.trimMax.toNat (if b = [] then 512 else leAt b 0 4)))

/-- Stage 4: the store is read; with no valid copy the ROM defaults stand, UNCALIBRATED set and CAL_COUNT 0 (R457). -/
def readStore (s : State) : State :=
  let s := match storeUsed? s with
    | some (c, b) =>
      let s := { s with cal := { s.cal with
        results := storeRecs (b.take (b.length - 4)) b.length 32 [], seq := BitVec.ofNat 32 (leAt b 8 4),
        count := BitVec.ofNat 32 (leAt b 0x0C 4), lastAon := BitVec.ofNat 32 (leAt b 0x10 4), lastTb := BitVec.ofNat 64 (leAt b 0x14 8),
        copy := c, changed := false } }
      { s with cal := { s.cal with uncal := !calWhole s } }
    | none => { s with cal := { s.cal with results := [], seq := 0, count := 0, lastAon := 0, lastTb := 0, copy := 1, changed := false, uncal := true } }
  (List.range s.part.dies).foldl (fun s d => modMgt s d (fun m => { m with trim := storedTrim s d })) s

/-- A store write ends: the other copy, SEQUENCE + 1, CAL_COUNT + 1 (R457). -/
def writeStore (s : State) : State :=
  let c := s.cal
  let body := storeBody c (c.seq + 1) (c.count + 1) (aonNow s) (tb64 s)
  let s := flashWr (flashErase s (storeAddr (1 - c.copy)) 0x10000) (storeAddr (1 - c.copy)) (body ++ natLE 4 (crc32c body).toNat)
  { s with cal := { c with seq := c.seq + 1, count := c.count + 1, lastAon := aonNow s, lastTb := tb64 s, copy := 1 - c.copy,
                           changed := false, atOnce := false, lastWrite := some s.tb, uncal := c.uncal && !calWhole s } }

end Sys2Proof.Machine
end

