-- ==== Sys2Proof/Machine/ResetOps.lean ====
section
/-! DEFINITION. What resets clear and keep (R475-R479), and the stages of start-up (R470-R474). -/

namespace Sys2Proof.Machine

/-! ### Power-on resets -/

/-- The state that a power-on reset leaves: what the manual keeps outside the rails, everything else at first use (R477, R479). A cold one
clears the AON domain too. -/
def porState (s : State) (cold : Bool) : State :=
  { pending := s.pending, out := s.out, free := s.free, part := s.part, fuses := s.fuses, flash := s.flash,
    log := { sectors := s.log.sectors, ringFirst := s.log.ringFirst },
    mgt := if cold then [] else s.mgt.foldl (fun m (p : Nat × Mgt) => sput {} m p.1 { trim := p.2.trim }) [],
    pcie := { perst := s.pcie.perst, deasserted := !s.pcie.perst, linkUp := !s.pcie.perst },
    power := { lastReset := if cold then 1 else 2, aonSec := if cold then 0 else aonNow s } }

/-- Power-on reset asserted: nothing runs until it is released (R470). -/
def assertPor (s : State) (cold woken : Bool) : State :=
  let s := porState s cold
  { s with power := { s.power with porAsserted := true, woken := woken } }

/-- Entry to Dormant ends: the log buffer is written, the axes are de-energised, the rails go, PWREN is held low (R466, R467). -/
def enterDormant (s : State) : State :=
  let latch := s.power.wakeLatch
  let s := porState (flushSector s) false
  { s with power := { s.power with st := .dormant, target := .dormant, pwren := false, hold := true, wakeLatch := latch } }

/-- PWREN goes high; start-up follows from the release of main power-on reset (R467). -/
def wakeUp (s : State) : State :=
  let s := assertPor s false true
  { s with power := { s.power with pwren := true } }

/-! ### Warm reset (R476, R477) -/

/-- What a DRAM channel keeps: its contents, training, soft repairs with their count, and the settings of DDR_TUNE; it leaves self-refresh
by a fast retrain (R476, R477). -/
def DdrCh.warm (c : DdrCh) : DdrCh :=
  { st := if c.st = .retired then .retired else .retrain, age := c.age, dlRun := c.dlRun, sc2 := c.sc2, sc1 := c.sc1, sc0 := c.sc0,
    driftMax := c.driftMax, minRate := c.minRate, scrPeriod := c.scrPeriod, scrEnable := c.scrEnable, stuck := c.stuck,
    repairs := c.repairs, repaired := c.repaired, trnRows := c.trnRows, settings := c.settings }

/-- The fence of a clause under the unfence test survives a warm reset, which ends the test: it is FENCED again (R270). -/
def testsEnd (s : State) : State :=
  (allClauses s).foldl (fun s x =>
    let u := FUnit.clause (x / 66) (x % 66)
    if (fenceOf s u).st = .testing then changeFence s u .fenced (fenceOf s u).reason.toNat else s) s

/-- A warm reset (R475-R477, R479; the RESET command, cause 5, keeps the configuration space and the MSI-X table): links go DOWN and axes are de-energised, the log buffer is written, and start-up begins again. -/
def warmReset (s : State) (cause : Nat) : State :=
  let s := if s.power.st = .sleep then leaveSleepLog { s with power := { s.power with st := .ready } } else s
  let s := testsEnd (flushSector s)
  { pending := s.pending, out := s.out, free := s.free, part := s.part, fuses := s.fuses, flash := s.flash, tb := s.tb, sync := s.sync,
    fences := s.fences, hcFences := s.hcFences, dram := s.dram, dramPoison := s.dramPoison, dramFlips := s.dramFlips, taps := s.taps,
    dia := { loads := s.dia.loads, pinSlot := s.dia.pinSlot, failSlot := s.dia.failSlot, failCode := s.dia.failCode,
             failSection := s.dia.failSection },
    clauses := s.clauses.foldl (fun m (p : Nat × Clause) => sput {} m p.1
      { st := if isFenced s (.clause (p.1 / 66) (p.1 % 66)) then .fenced else .off, lastFault := p.2.lastFault }) [],
    rows := s.rows.foldl (fun m (p : Nat × Row) => sput {} m p.1 { lineCount := p.2.lineCount }) [],
    scrubs := s.scrubs.foldl (fun m (p : Nat × Scrub) => sput {} m p.1 { rows := p.2.rows, badSpares := p.2.badSpares, repaired := p.2.repaired }) [],
    ddr := (List.range (2 * s.part.dies)).foldl (fun m i => sput {} m i (ddrAt s i).warm) [],
    dma := s.dma.foldl (fun m (p : Nat × DmaCh) => sput {} m p.1 { st := if p.2.st = .fenced then .fenced else .idle }) [],
    axes := s.axes.foldl (fun m (p : Nat × Axis) => sput {} m p.1 { st := if p.2.st = .fenced then .fenced else .off }) [],
    lanes := s.lanes.foldl (fun m (p : Nat × Lane) => sput {} m p.1 { retired := p.2.retired }) [],
    mgt := s.mgt.foldl (fun m (p : Nat × Mgt) => sput {} m p.1
      { trim := p.2.trim, tbHi := p.2.tbHi, lastBeat := s.tb, trip := p.2.trip && isFenced s (.die p.1) }) [],
    log := { seq := s.log.seq, ram := s.log.ram, sectors := s.log.sectors, ringFirst := s.log.ringFirst },
    pcie := { (if cause = 5 then { s.pcie with retry := true, limitPassed := false, ur := 0, dropped := 0 } else {}) with
              perst := cause == 3, deasserted := s.pcie.deasserted, linkUp := s.pcie.linkUp && cause != 3 },
    power := { lastReset := BitVec.ofNat 3 cause, warm := satInc s.power.warm, warmRun := true, startAt := s.tb,
               aonSec := s.power.aonSec, smbAddr := s.power.smbAddr } }

/-! ### Start-up (R472-R474) -/

/-- Whether a die takes part in start-up: a die fenced by a safety trip, or with both DRAM channels retired, does not (R271). -/
def dieStarts (s : State) (d : Nat) : Bool :=
  !(isFenced s (.die d) && ((fenceOf s (.die d)).safety || ((ddrAt s (2 * d)).st == .retired && (ddrAt s (2 * d + 1)).st == .retired)))

/-- The dies that have not failed this start-up. -/
def startingDies (s : State) : List Nat :=
  (List.range s.part.dies).filter (fun d => dieStarts s d && (mgtAt s d).result != 2)

/-- PWR_START of a die that fails: RESULT FAILED, its CAUSE, and the time. -/
def recordFailed (s : State) (d : Nat) (cause : BitVec 8) : State :=
  modMgt s d (fun m => { m with result := 2, startCause := cause, startTime := startMs s })

/-- SEQ continues from one beyond the highest in a valid flash sector, or from 0 (R448); a warm reset keeps it (R477). -/
def scanSeq (s : State) : State :=
  if s.power.warmRun then s
  else { s with log := { s.log with seq := match s.log.sectors.getLast? with
    | some es => (match es.getLast? with | some e => e.seq + 1 | none => 0)
    | none => 0 } }

/-- Die 0 fails start-up, which ends as after a failed load; without its TCM the core stays stopped and Retry Status stands until the
900 ms limit (R474). -/
def die0Fails (s : State) (cause : BitVec 8) : State :=
  let s := recordFailed { s with startFailed := true } 0 cause
  if cause = 3 then modMgt s 0 (fun m => { m with coreStopped := true })
  else
    let s := if (mgtAt s 0).stage.toNat < 5 then scanSeq s else s
    { s with power := { s.power with st := .ready, target := .ready }, pcie := { s.pcie with retry := false } }

/-- A die that fails start-up with a fence reason, or for die 0 the end of start-up (R474). -/
def dieFailsFor (s : State) (reason : Nat) (p : Nat × BitVec 8) : State :=
  if p.1 = 0 then die0Fails s p.2
  else
    let s := recordFailed s p.1 p.2
    if isFenced s (.die p.1) then changeFence s (.die p.1) .fenced reason else dieFault s p.1 reason

/-- A die that fails a stage: fenced with reason DIE; one whose DRAM configuration is refused, with reason NO_SETTING (R303, R473). -/
def dieFails (s : State) (p : Nat × BitVec 8) : State := dieFailsFor s (if p.2 = 5 then 3 else 8) p

/-- A clause that fails its march is fenced with reason NO_SETTING (R294, R473). -/
def marchFailed (s : State) (d k : Nat) : State :=
  if !dieOk s d ∨ 66 ≤ k ∨ isFenced s (.clause d k) then s
  else changeFence (modClause s (clauseIx d k) (fun c => { c with st := .fenced })) (.clause d k) .fenced 3

/-- The start-up march of a die: rows that fail go onto spare rows, the TCM first; a clause with a row that no spare takes is fenced, and a
TCM or bank with one fails the die, cause TCM or BANK (R292-R294, R473). -/
def startMarch (s : State) (d : Nat) (fs : List StuckBits) : State :=
  let r := marchRun s d fs (fun b => arrDie b == d && blockExists s b)
  let s := ((r.2.2.filterMap arrClause?).eraseDups).foldl (fun s x => marchFailed s d (x % 66)) r.1
  if r.2.2.any (fun b => b.kind == .tcm) then dieFails s (d, 3)
  else if r.2.2.any (fun b => b.kind == .bank) then dieFails s (d, 4)
  else s

/-- PLLs lock: 0-3 on every die, 4 on die 0 (R462, R472). -/
def lockPlls (s : State) : State :=
  (startingDies s).foldl (fun s d => modMgt s d (fun m => { m with pllLock := if d = 0 then 0x1F else 0x0F })) s

/-- The connected ports between dies that start come up (R358, R472). -/
def portsUp (s : State) : State :=
  let ds := startingDies s
  ds.foldl (fun s d => (List.range 4).foldl (fun s p => match portPeer? s.part.dies d p with
    | some e => if ds.contains e then modPort s (4 * d + p) (fun x => { x with st := .up }) else s
    | none => s) s) s

/-- DRAM channels begin to train, a die whose densities the ROM refuses having failed; a warm reset has them in their fast retrain (R303,
R472, R476). -/
def beginTraining (s : State) : State :=
  let s := ((startingDies s).filter (fun d => !densityOk s d)).foldl (fun s d => dieFails s (d, 5)) s
  if s.power.warmRun ∨ s.startFailed then s
  else (startingDies s).foldl (fun s d => [0, 1].foldl (fun s ch =>
    modDdr s (ddrIx d ch) (fun c => if c.st = .off then { c with st := .train } else c)) s) s

/-- A channel whose training or retrain has ended runs; settings that the store gave and that verify are reused (R318, R319). -/
def endTraining (s : State) (d ch : Nat) : State :=
  let c := ddrAt s (ddrIx d ch)
  if c.st = .train ∨ c.st = .retrain then
    setDdr s (ddrIx d ch) { c with st := .active, settings :=
      if c.st = .train && trainReusable s d ch then slice (calResult s 3 (2 * d + ch)) 0x10 492 else c.settings }
  else s

/-- Whether a channel still has to train fully before stage 5 can end: it trains, and has no record to reuse or may not reuse it (R317,
R318). -/
def trainsFully (s : State) (d ch : Nat) : Bool :=
  let c := ddrAt s (ddrIx d ch)
  c.st == .train && (c.mustTrain || !trainReusable s d ch)

/-- Channels whose reused settings fail their verify start full training (R318). -/
def verifyFails (s : State) (r : StageResult) : State :=
  (r.verifyBad.filter (fun p => (startingDies s).contains p.1 && decide (p.2 < 2))).foldl (fun s p =>
    modDdr s (ddrIx p.1 p.2) (fun c => if c.st = .train then { c with mustTrain := true } else c)) s

/-- A fenced die that passed stages 1-5 of a warm start-up returns to service: its record, and those of its units that its fence took with
it, read UNFENCED (R271). -/
def unfenceDie (s : State) (d : Nat) : State :=
  if !isFenced s (.die d) then s
  else
    let mine (u : FUnit) : Bool := let f := fenceOf s u; f.st == .fenced && f.reason == 8
    let s := changeFence s (.die d) .unfenced 8
    let s := ((List.range 66).filter (fun k => mine (.clause d k))).foldl (fun s k =>
      changeFence (modClause s (clauseIx d k) (fun c => { c with st := .off })) (.clause d k) .unfenced 8) s
    let s := ((List.range 8).filter (fun n => mine (.lane d n))).foldl (fun s n =>
      changeFence (modLane s (8 * d + n) (fun a => { a with retired := false })) (.lane d n) .unfenced 8) s
    let s := ((List.range 32).filter (fun c => mine (.dma d c))).foldl (fun s c =>
      changeFence (modDma s (dmaIx d c) (fun q => { q with st := .idle })) (.dma d c) .unfenced 8) s
    let s := ([2 * d, 2 * d + 1].filter (fun a => mine (.axis a))).foldl (fun s a =>
      changeFence (modAxis s a (fun x => { x with st := .off })) (.axis a) .unfenced 8) s
    let hs := (s.hcFences.filter (fun (p : Nat × Fence) => p.1 / 256 == d && p.2.st == .fenced && p.2.reason == 8)).map (fun p => p.1 % 256)
    hs.foldl (fun s h =>
      { s with hcFences := smod {} s.hcFences (256 * d + h) (fun f => { f with st := .unfenced, time := tb64 s }) }) s

/-- The stage that follows: its number in PWR_START of every die that starts. -/
def setStage (s : State) (n : Nat) : State :=
  (startingDies s).foldl (fun s d => modMgt s d (fun m => { m with stage := BitVec.ofNat 4 n })) s

/-- The work a stage leaves done, when die 0 has not failed it. -/
def stageWork (s : State) (stage : Nat) (r : StageResult) : State :=
  match stage with
  | 1 =>
    let s := if s.power.warmRun then
      { s with dia := { s.dia with pinSlot := r.dialectPins }, power := { s.power with smbAddr := r.smbPins } } else s
    setStage (lockPlls s) 2
  | 2 =>
    let s := (startingDies s).foldl (fun s d => startMarch s d r.defects) s
    if s.startFailed then s else setStage s 3
  | 3 => setStage (bootUp s) 4
  | 4 => beginTraining (setStage (scanSeq (readStore (portsUp s))) 5)
  | 5 =>
    let s := verifyFails s r
    let ds := startingDies s
    if ds.any (fun d => trainsFully s d 0 || trainsFully s d 1) then s
    else
    let s := ds.foldl (fun s d => unfenceDie (endTraining (endTraining s d 0) d 1) d) s
    beginLoad (setStage s 6) s.dia.pinSlot.toNat none
  | _ => s

end Sys2Proof.Machine
end

