-- ==== Sys2Proof/Machine/Cmd.lean ====
section
/-! DEFINITION. System, Dialect and key commands (R383-R386, R408), and damaged entries (R375). -/

namespace Sys2Proof.Machine

/-- NOP. -/
def doNop (s : State) (h : CmdHdr) : State :=
  command s h { opcode := 0x0001, noDialect := true, switch := true } true true (fun s => finish s h 0x0001 [])

def execNop (h : CmdHdr) (s : State) : Host.Outcome State Fault Refusal := .next (doNop s h)

/-- PKG_DIALECT as read (R70). -/
def dialectReg (s : State) : Nat :=
  65536 * s.dia.loads.toNat + 256 * s.dia.pinSlot.toNat + (if s.dia.valid then 16 else 0) + s.dia.active.toNat

/-- The IDENTIFY data: result bytes 0x08-0x18 (R383). PKG_DIALECT's 16 bits take bytes 0x0E and 0x0F (assumption 23). -/
def identity (s : State) : List Byte :=
  natLE 1 s.part.dies ++ ([s.part.stepping, s.part.romRelease, s.part.grade] ++ (natLE 2 s.boot.level.toNat ++
    (natLE 2 (dialectReg s) ++ (natLE 8 s.part.serial.toNat ++ [if s.cal.uncal then 1 else 0]))))

/-- IDENTIFY. -/
def doIdentify (s : State) (h : CmdHdr) : State :=
  command s h { opcode := 0x0002, noDialect := true, switch := true } true true (fun s => finish s h 0x0002 (identity s))

def execIdentify (h : CmdHdr) (s : State) : Host.Outcome State Fault Refusal := .next (doIdentify s h)

/-- POWER records the resting state; DORMANT is accepted at rest only and entered once its result is posted (R383). -/
def doPower (s : State) (h : CmdHdr) (st : BitVec 8) : State :=
  command s h { opcode := 0x0003, noDialect := true } (st.toNat ≤ 3) true (fun s =>
    let rest : Bool := !jobOpen s && s.parked.isEmpty
    if st = 3 then
      if rest then
        let s := finish s h 0x0003 []
        { s with power := { s.power with goDormant := true, moving := false } }
      else complete s h 0x0003 stBusy []
    else
      let s := { s with power := { s.power with rest := st.extractLsb' 0 2 } }
      finish (if rest && st == 0 then riseReady s else s) h 0x0003 [])

def execPower (h : CmdHdr) (st : BitVec 8) (s : State) : Host.Outcome State Fault Refusal := .next (doPower s h st)

/-- RESET is taken on ring 0 and the mailboxes; its result is posted before the warm reset (R381, R384). -/
def doReset (s : State) (h : CmdHdr) (scope force : BitVec 8) : State :=
  let other : Bool := match h.src with
    | .ring c => c != 0
    | _ => false
  if other && fwRuns s then complete (takePopped s h) h 0x0004 stClass []
  else
    command s h { opcode := 0x0004, noDialect := true, switch := true } (scope == 0 && decide (force.toNat ≤ 1)) true (fun s =>
      if jobOpen s ∧ force = 0 then complete s h 0x0004 stJobActive []
      else warmReset (finish s h 0x0004 []) 5)

def execReset (h : CmdHdr) (scope force : BitVec 8) (s : State) : Host.Outcome State Fault Refusal := .next (doReset s h scope force)

/-! ### Dialects (R67, R385) -/

/-- Whether a parked command keeps a switch from beginning. -/
def Parked.holdsSwitch : Parked → Bool
  | .load _ => true
  | .flashWrite _ _ _ _ _ => true
  | _ => false

/-- DIALECT_SELECT begins the load of a slot. -/
def doDialectSelect (s : State) (h : CmdHdr) (slot : BitVec 8) : State :=
  command s h { opcode := 0x0101, ring0 := false, long := true, noDialect := true, job := .no } (slot.toNat < 4) true (fun s =>
    if s.svc.any (fun (p : Nat × Group) => p.2.st == .running) || s.axes.any (fun (p : Nat × Axis) => p.2.moving) ||
      s.parked.any Parked.holdsSwitch then complete s h 0x0101 stBusy []
    else beginLoad (park (riseReady s) (.select h slot.toNat)) slot.toNat (some h))

def execDialectSelect (h : CmdHdr) (slot : BitVec 8) (s : State) : Host.Outcome State Fault Refusal := .next (doDialectSelect s h slot)

/-- The result of DIALECT_INFO: the headers whose MAGIC and HDR_CRC are right give their fields. -/
def dialectInfo (s : State) (slot : Nat) : List Byte :=
  let hd := rdFlashN s.flash (slotBase slot) 256
  let g := rdFlashN s.flash (slotBase slot + 0x1000) 64
  let hOk := slice hd 0 4 == [0x44, 0x4C, 0x43, 0x54] && (crc32c (slice hd 0 0xFC)).toNat == leAt hd 0xFC 4
  let gOk := slice g 0 4 == [0x47, 0x52, 0x4D, 0x52] && (crc32c (slice g 0 0x3C)).toNat == leAt g 0x3C 4
  let lens := natLE 4 (leAt hd 0x0C 4) ++ natLE 4 (leAt hd 0x14 4)
  if slice hd 0 4 == [0xFF, 0xFF, 0xFF, 0xFF] then []
  else if !hOk then [2]
  else if !gOk then 2 :: (List.replicate 11 0 ++ lens)
  else 1 :: ([byteAt g 0x0F, byteAt g 0x18, byteAt g 0x19] ++ (slice g 0x10 8 ++ lens))

/-- DIALECT_INFO. -/
def doDialectInfo (s : State) (h : CmdHdr) (slot : BitVec 8) : State :=
  command s h { opcode := 0x0102, noDialect := true, switch := true } (slot.toNat < 4) true (fun s =>
    finish s h 0x0102 (dialectInfo s slot.toNat))

def execDialectInfo (h : CmdHdr) (slot : BitVec 8) (s : State) : Host.Outcome State Fault Refusal := .next (doDialectInfo s h slot)

/-! ### Keys (R386) -/

/-- MAGIC and the reserved fields of an authorisation record: fields that its OP does not use are 0. -/
def authFormOk (r : List Byte) : Bool :=
  let op := leAt r 4 1
  slice r 0 4 == [0x4B, 0x4F, 0x50, 0x52] && decide (1 ≤ op ∧ op ≤ 3) && zeroAt r 0x30 16 && (op == 1 || zeroAt r 0x10 32) &&
    (if op = 3 then leAt r 5 1 == 0 && decide (1 ≤ leAt r 7 1 ∧ leAt r 7 1 ≤ 63) else leAt r 7 1 == 0)

/-- The OP's own conditions. -/
def keyOpOk (s : State) (op slot value : Nat) : Bool :=
  if op = 1 then decide (1 ≤ slot ∧ slot ≤ 3) && !s.fuses.programmed.getLsbD slot && !s.fuses.revoked.getLsbD slot
  else if op = 2 then keyUsable s slot && (List.range 4).any (fun n => n != slot && keyUsable s n)
  else decide (s.fuses.rollback.toNat < value)

/-- The checks of an authorisation record, in order: the status of the first that fails. -/
def authFail? (s : State) (r : List Byte) : Option Nat :=
  let signer := leAt r 6 1
  if !authFormOk r then some stBadField
  else if leAt r 8 8 ≠ s.part.serial.toNat then some stAuth
  else if !keyUsable s signer then some stAuth
  else if !sigOk (keyOf s signer) (slice r 0 64) (slice r 64 64) then some stAuth
  else if !keyOpOk s (leAt r 4 1) (leAt r 5 1) (leAt r 7 1) then some stState
  else none

/-- KEY_OP: a record that passes starts the fuses; the command waits for them. -/
def keyOp (s : State) (h : CmdHdr) (addr : BitVec 64) (rd : HostRead) : State :=
  command s h { opcode := 0x0103, ring0 := false, long := true, noDialect := true, job := .no } (addr.toNat % 64 == 0) true (fun s =>
    match rd with
    | .busError => complete s h 0x0103 stHostBus []
    | .data r => match authFail? s r with
      | some st => complete s h 0x0103 st []
      | none => park s (.keyOp h (leAt r 4 1) (leAt r 5 1) (leAt r 7 1) (slice r 0x10 32)))

/-- KEY_PROGRAM: KEY_OP whose record has OP 1. -/
def execKeyProgram (h : CmdHdr) (addr : BitVec 64) (rd : HostRead) (s : State) : Host.Outcome State Fault Refusal :=
  .next (keyOp s h addr rd)

/-- KEY_REVOKE: KEY_OP whose record has OP 2. -/
def execKeyRevoke (h : CmdHdr) (addr : BitVec 64) (rd : HostRead) (s : State) : Host.Outcome State Fault Refusal :=
  .next (keyOp s h addr rd)

/-- KEY_ROLLBACK: KEY_OP whose record has OP 3. -/
def execKeyRollback (h : CmdHdr) (addr : BitVec 64) (rd : HostRead) (s : State) : Host.Outcome State Fault Refusal :=
  .next (keyOp s h addr rd)

/-- What the fuses hold after an OP. -/
def Fuses.apply (f : Fuses) (op slot value : Nat) (key : List Byte) : Fuses :=
  if op = 1 then { f with programmed := f.programmed ||| (1#4 <<< slot), keys := sput [] f.keys slot key }
  else if op = 2 then { f with revoked := f.revoked ||| (1#4 <<< slot) }
  else { f with rollback := BitVec.ofNat 6 value }

/-- Whether a parked command waits for the fuses. -/
def Parked.isKeyOp : Parked → Bool
  | .keyOp _ _ _ _ _ => true
  | _ => false

/-- FUSE_PROGRAM_DONE: the oldest KEY_OP at the fuses ends; one whose conditions an earlier one has since taken away completes STATE. -/
def doFuseProgramDone (s : State) : State :=
  match s.parked.find? Parked.isKeyOp with
  | some (.keyOp h op slot value key) =>
    let s := { s with parked := s.parked.eraseP Parked.isKeyOp }
    if keyOpOk s op slot value then finish { s with fuses := s.fuses.apply op slot value key } h 0x0103 []
    else complete s h 0x0103 stState []
  | _ => s

def execFuseProgramDone (s : State) : Host.Outcome State Fault Refusal := .next (doFuseProgramDone s)

/-! ### Patch opcodes and damaged entries -/

/-- PATCH_COMMAND: an opcode that the running patch defines is the patch's own; any other completes BAD_OPCODE (R381, R408). -/
def execPatchCommand (h : CmdHdr) (opcode : BitVec 16) (s : State) : Host.Outcome State Fault Refusal :=
  if !fwRuns s then .next s
  else if s.boot.patch ≠ 0 ∧ 0x0F00 ≤ opcode.toNat ∧ opcode.toNat ≤ 0x0FFF ∧ Config.patchDefines s.boot.image opcode then .refused .patchBody
  else .next (complete (takePopped s h) h opcode.toNat stBadOpcode [])

/-- DAMAGED: a popped entry with an uncorrectable word is discarded and completed; its slot is 0xFFFF for a mailbox (R300, R375). -/
def doDamaged (s : State) (src : Src) (slot : BitVec 16) : State :=
  if !fwRuns s then s
  else
    let s := { s with popped := s.popped.eraseP (fun e => e.src == src && e.bytes == []) }
    let n := match src with
      | .ring _ => slot.toNat
      | _ => 0xFFFF
    complete s ⟨src, 0xFFFFFFFF, 0⟩ 0xFFFF stDamaged (natLE 2 n)

def execDamaged (src : Src) (slot : BitVec 16) (s : State) : Host.Outcome State Fault Refusal := .next (doDamaged s src slot)

end Sys2Proof.Machine
end

