-- ==== Sys2Proof/Machine/Codec.lean ====
section
/-! DEFINITION. The band codec (R101-R126): tokens, decompressors with their checkpoints and followers, the end-of-block check,
and the page compressor. -/

namespace Sys2Proof.Machine

/-! ### Tokens (R102-R105) -/

/-- What reading a token gives: the token with its output length and the stored bytes it takes ahead of any literals; the need
for bytes not yet fetched; or a format error. -/
inductive TokRead where
  | tok (src : TokSrc) (n used : Nat)
  | more
  | bad (fcode : Nat)
deriving DecidableEq, Repr

/-- Operand bytes of a token byte: none where it is reserved (R102). -/
def tokOps (t : Nat) : Option Nat :=
  if t < 0x40 then some 0 else if t < 0x60 then some 1 else if t < 0x80 then some 0 else if t < 0xC0 then some 2
  else if t < 0xC8 then some 1 else if t < 0xD0 then some 2 else if t < 0xD8 then some 1 else none

/-- The token of a token byte with its operands (R102). -/
def tokOf (t : Nat) (ops : List Byte) (lam : Nat) : TokSrc × Nat :=
  let e := leAt ops 0 1
  let long := t % 8 * 256 + e + 1
  if t < 0x40 then (.literal, t + 1)
  else if t < 0x60 then (.value (byteAt ops 0), t - 0x40 + 3)
  else if t < 0x80 then (.copy lam, t - 0x60 + 1)
  else if t < 0xC0 then
    let w := leAt ops 0 2
    (.copy (w % 8192 + 1), w / 8192 * 64 + t % 64 + 3)
  else if t < 0xC8 then (.literal, long)
  else if t < 0xD0 then (.value (byteAt ops 1), long)
  else (.copy lam, long)

/-- Read a token at stored position `pos` of a segment of `len` bytes, of which `have_` are in the band ring, for output position
`o` (R103-R105); `bad` says which stored bytes are poisoned. Operands that reach past the segment's end are SHORT before a poisoned one is
MEMORY (assumption 36). -/
def tokRead (have_ : List Byte) (bad : Nat → Bool) (len lam pos o : Nat) : TokRead :=
  if len ≤ pos then .bad 4
  else if have_.length ≤ pos then .more
  else if bad pos then .bad 7
  else
    let t := (byteAt have_ pos).toNat
    match tokOps t with
    | none => .bad 1
    | some k =>
      if len < pos + 1 + k then .bad 4
      else if have_.length < pos + 1 + k then .more
      else if (List.range k).any (fun j => bad (pos + 1 + j)) then .bad 7
      else
        let r := tokOf t (slice have_ (pos + 1) k) lam
        if o / lam ≠ (o + r.2 - 1) / lam then .bad 2
        else match r.1 with
          | .copy d => if o < d then .bad 3 else .tok r.1 r.2 (1 + k)
          | _ => .tok r.1 r.2 (1 + k)

/-- Keep the last 8,192 bytes of a history (R110). -/
def window (h : List Byte) : List Byte := h.drop (h.length - 8192)

/-! ### What a decompressor works on -/

/-- The input of decompressor `n`: on overlay rows 1 takes the overlay block (R106). -/
def decInput? (c : Clause) (row : RowCfg) (n : Nat) (d : Decomp) : Option BandIn := c.inputFor? d.absBand (row.overlay && n == 1)

/-- Whether a stored byte of an input is poisoned (R288). -/
def BandIn.badByte (i : BandIn) (p : Nat) : Bool := i.poison.contains (p / 8)

/-- The copy a band's block is being printed for: page and copy number (R392, R508). -/
def bandCopy (s : State) (absBand : Nat) : Word × Word :=
  match s.job with
  | some j => (j.pageOf (absBand / 8192), BitVec.ofNat 32 (j.copyNo (absBand / 8192)))
  | none => (0, 0)

/-- A decompressor error is recorded and logged (R116, R117, R125, R508): cause 1 CRC, 2 FORMAT. -/
def codecError (s : State) (x n cause fcode line absBand : Nat) : State :=
  let s := modClause s x (fun c =>
    { c with fmtCnt := if cause = 2 then satInc c.fmtCnt else c.fmtCnt, crcCnt := if cause = 1 then satInc c.crcCnt else c.crcCnt,
             lastCause := BitVec.ofNat 2 cause, lastDec := n == 1, lastFcode := BitVec.ofNat 3 fcode,
             lastCdcLine := BitVec.ofNat 6 line, lastBand := BitVec.ofNat 16 (absBand % 8192) })
  match clauseSlot? s x with
  | some g =>
    let pc := bandCopy s absBand
    logEv s g.die (if cause = 1 then 0x0014 else 0x0015) (lineData pc.1 pc.2 g.row 0 g.pos (64 * (absBand % 8192) + line) 1)
  | none => s

/-- A block fails its check: on a row in mode CRC its lines are withheld from that moment (R34, R117). -/
def blockFailed (s : State) (x absBand : Nat) : State :=
  if (clauseRow s x).integrity = 1 then s
  else
    let s := modClause s x (fun c =>
      { c with input := c.input.map (fun i => if i.absBand = absBand then { i with failed := true } else i) })
    withholdFailed s x absBand

/-- A format error (R117): counted, recorded and logged; decoding stops and the rest of the plane is 0. An uncorrectable
band-ring byte is a fault of the clause (R263), counted here on a row in mode CRC, where no check of the line will count it. -/
def formatError (s : State) (x n fcode line absBand : Nat) : State :=
  let s := codecError s x n 2 fcode line absBand
  let s := modClause s x (fun c => c.setDec n { c.dec n with zeroFill := true, tok := none })
  let s := blockFailed s x absBand
  if fcode = 7 ∧ (clauseRow s x).integrity ≠ 1 then transientClause s x else s

/-! ### Words into the cells (R113, R114, R133) -/

/-- Whether the input stream of a cell takes word `ix` of the record of `q` now: it goes into the frame at once, is a replayed
word to be discarded, or finds room in the queue. -/
def wordRoom (s : State) (x n q ix : Nat) : Bool :=
  let c := cellAt s (cellOfIx x n)
  (sget 0 c.recWords q).getLsbD ix || c.inq.length < queueDepth s 0x01 (x / 66) ||
    (match c.frame with
      | some f => !c.inq.any (fun w => w.q == q) && frameFree (clauseAt s x) f.k q
      | none => false)

/-- A word enters the input stream of a cell. -/
def pushWord (s : State) (x n q ix : Nat) (w : BitVec 64) : State :=
  let i := cellOfIx x n
  let c := cellAt s i
  if (sget 0 c.recWords q).getLsbD ix then s
  else
    let direct : Bool := match c.frame with
      | some f => !c.inq.any (fun w => w.q == q) && frameFree (clauseAt s x) f.k q
      | none => false
    if direct then
      match c.frame with
      | some f => putRecord s i (rlen (clauseRow s x)) f q ix [w]
      | none => s
    else setCell s i { c with inq := c.inq ++ [{ q := q, ix := ix, w := w }] }

/-- The clause line a band line is expanded as. -/
def lineFor? (c : Clause) (absBand line : Nat) : Option CLine :=
  c.lines.find? (fun l => match l.at_ with | some p => p.absBand == absBand && p.bandLine == line | none => false)

/-- Where the word that ends at byte `pos` of a line goes: cell and record word (R85, R133). -/
def wordDest (codes second : Bool) (pos : Nat) : Nat × Nat :=
  let b := planeWords codes
  let k := pos / 8
  (k / b, 1 + k % b + (if second then b else 0))

/-- The byte a token gives next; none while its stored byte is not in the ring, an error past the segment's end or on a poisoned
byte. -/
def tokByte (i : BandIn) (d : Decomp) (src : TokSrc) : Option (Except Nat Byte) :=
  match src with
  | .value v => some (.ok v)
  | .copy k => some (.ok (d.live.getD (d.live.length - k) 0))
  | .literal =>
    if i.block.payloadLen ≤ d.inPos then some (.error 4)
    else if i.bytes.length ≤ d.inPos then none
    else if i.badByte d.inPos then some (.error 7)
    else some (.ok (byteAt i.bytes d.inPos))

/-- A decompressor reads stored bytes of its input, `k` from `pos` on (R285-R288). -/
def readStored (s : State) (x n pos k : Nat) : State :=
  match decInput? (clauseAt s x) (clauseRow s x) n ((clauseAt s x).dec n) with
  | some i => if k = 0 then s else settleBand s x i false (pos / 8) ((pos + k - 1) / 8 + 1 - pos / 8)
  | none => s

/-- The next byte of a literal is read. -/
def readLiteral (s : State) (x n : Nat) : State :=
  let d := (clauseAt s x).dec n
  match d.tok with
  | some (.literal, _) => readStored s x n d.inPos 1
  | _ => s

/-- The bytes of the next token are read. -/
def readToken (s : State) (x n : Nat) : State :=
  let d := (clauseAt s x).dec n
  let s := readStored s x n d.inPos 1
  match decInput? (clauseAt s x) (clauseRow s x) n d with
  | some i => readStored s x n (d.inPos + 1) ((tokOps (byteAt i.bytes d.inPos).toNat).getD 0)
  | none => s

/-- Emit up to `fuel` bytes of the token held (R104, R111, R114): each byte enters history and CRC, every eighth makes a word.
The decompressor stalls before a byte whose word finds no room, and waits for stored bytes not yet fetched. -/
def emitBytes (x n : Nat) : Nat → State → State
  | 0, s => s
  | fuel + 1, s =>
    let s := readLiteral s x n
    let c := clauseAt s x
    let row := clauseRow s x
    let d := c.dec n
    match d.tok, decInput? c row n d with
    | some (src, left), some i =>
      let lam := lineLen (kindCodes i.block.kind)
      if left = 0 then modClause s x (fun c => c.setDec n { d with tok := none })
      else match tokByte i d src with
        | none => modClause s x (fun c => c.setDec n { d with st := .wait })
        | some (.error f) => formatError s x n f (d.outPos / lam) d.absBand
        | some (.ok b) =>
          match lineFor? c d.absBand (d.outPos / lam) with
          | none => s
          | some l =>
            let dest := wordDest (kindCodes i.block.kind) (row.overlay && n == 1) (d.outPos % lam)
            if d.acc.length = 7 ∧ !wordRoom s x dest.1 l.q dest.2 then
              modClause s x (fun c => c.setDec n { d with st := .stall })
            else
              let full := d.acc.length == 7
              let s := if full then pushWord s x dest.1 l.q dest.2 (BitVec.ofNat 64 (leNat (d.acc ++ [b]))) else s
              let lit : Bool := match src with | .literal => true | _ => false
              let d' : Decomp :=
                { d with acc := if full then [] else d.acc ++ [b], crc := crc32cByte d.crc b, outPos := d.outPos + 1,
                         inPos := if lit then d.inPos + 1 else d.inPos,
                         live := if i.block.raw then [] else window (d.live ++ [b]),
                         tok := if left = 1 then none else some (src, left - 1), st := .run }
              emitBytes x n fuel (modClause s x (fun c => c.setDec n d'))
    | _, _ => s

/-! ### Decompressor events -/

/-- The next block a decompressor takes: the first input of its kind beyond its last block (R106, R107). -/
def nextInput? (c : Clause) (row : RowCfg) (n : Nat) (d : Decomp) : Option BandIn :=
  c.input.find? (fun i => i.overlay == (row.overlay && n == 1) && (row.overlay || i.absBand % 8192 % 2 == n) &&
    (!d.started || d.absBand < i.absBand))

/-- Whether a fetched header names the block that was asked for (FCODE IDENTITY, R105). -/
def identityOk (i : BandIn) : Bool :=
  let b := blockOf i.hdr
  slice i.hdr 0 4 == [0x42, 0x4C, 0x4B, 0x53] && (crc32c (slice i.hdr 0 0x3C)).toNat == leAt i.hdr 0x3C 4 && b.id == i.block.id

/-- DECOMP_BLOCK_START: a decompressor begins its next block once its first input bytes are in the band ring, with empty history
(R84, R107, R110). -/
def doDecompBlockStart (s : State) (die k n : Nat) : State :=
  let x := clauseIx die k
  let c := clauseAt s x
  let row := clauseRow s x
  let d := c.dec n
  if d.busy ∨ d.reexpand.isSome ∨ 2 ≤ n then s
  else match nextInput? c row n d with
    | none => s
    | some i =>
      if i.bytes.length = 0 then s
      else
        let d' : Decomp := { d with st := .run, absBand := i.absBand, busy := true, started := true, inPos := 0, outPos := 0,
                                    crc := 0xFFFFFFFF, tok := none, zeroFill := false, acc := [], live := [], line := 0 }
        let s := modClause s x (fun c => c.setDec n d')
        if identityOk i then s else formatError s x n 6 0 i.absBand

def execDecompBlockStart (die k n : Nat) (s : State) : Host.Outcome State Fault Refusal := .next (doDecompBlockStart s die k n)

/-- Record the checkpoint of a line at its first byte (R111). -/
def Decomp.checkpoint (d : Decomp) (line : Nat) : Decomp :=
  let k : Ckpt := ⟨d.absBand, line, d.inPos, d.outPos, d.crc, d.zeroFill⟩
  { d with line := BitVec.ofNat 6 line,
           ckpts := if d.ckpts.any (fun q => q.absBand == k.absBand && q.line == line) then d.ckpts else d.ckpts ++ [k] }

/-- DECOMP_TOKEN: a running decompressor reads its next token and emits it as far as queues and input let it; a raw segment, and
the zeros after a format error, pass a line at a time. It decodes no line the clause has not admitted (R26, R109, R112). -/
def doDecompToken (s : State) (die k n : Nat) : State :=
  let x := clauseIx die k
  let c := clauseAt s x
  let row := clauseRow s x
  let d := c.dec n
  if !d.busy ∨ d.st ≠ .run ∨ d.tok.isSome ∨ d.reexpand.isSome ∨ 2 ≤ n then s
  else match decInput? c row n d with
    | none => s
    | some i =>
      let lam := lineLen (kindCodes i.block.kind)
      let line := d.outPos / lam
      if 64 * lam ≤ d.outPos ∨ (lineFor? c d.absBand line).isNone then s
      else
        let d := if d.outPos % lam = 0 then d.checkpoint line else d
        let s := modClause s x (fun c => c.setDec n d)
        let rest := lam - d.outPos % lam
        if d.zeroFill then
          emitBytes x n (rest + 1) (modClause s x (fun c => c.setDec n { d with tok := some (.value 0, rest) }))
        else if i.block.raw then
          emitBytes x n (rest + 1) (modClause s x (fun c => c.setDec n { d with tok := some (.literal, rest) }))
        else match tokRead i.bytes i.badByte i.block.payloadLen lam d.inPos d.outPos with
          | .more => modClause s x (fun c => c.setDec n { d with st := .wait })
          | .bad f => formatError s x n f line d.absBand
          | .tok src m used =>
            emitBytes x n (m + 1)
              (modClause s x (fun c => c.setDec n { d with tok := some (src, m), inPos := d.inPos + used }))

/-- Whether a decompressor is about to read a token of a compressed segment. -/
def readsToken (s : State) (x n : Nat) : Bool :=
  let c := clauseAt s x
  let d := c.dec n
  d.busy && d.st == .run && d.tok.isNone && d.reexpand.isNone && !d.zeroFill &&
    (match decInput? c (clauseRow s x) n d with
      | some i => !i.block.raw && (lineFor? c d.absBand (d.outPos / lineLen (kindCodes i.block.kind))).isSome
      | none => false)

def execDecompToken (die k n : Nat) (s : State) : Host.Outcome State Fault Refusal :=
  .next (doDecompToken (if readsToken s (clauseIx die k) n then readToken s (clauseIx die k) n else s) die k n)

/-- DECOMP_RESUME: a stalled or waiting decompressor goes on with the next byte of its token, exactly where it stopped; the
cycles it stalled are counted (R114, R125). -/
def doDecompResume (s : State) (die k n stalled : Nat) : State :=
  let x := clauseIx die k
  let d := (clauseAt s x).dec n
  if !(d.st = .stall ∨ d.st = .wait) ∨ !d.busy ∨ d.reexpand.isSome ∨ 2 ≤ n then s
  else
    let s := (List.range 16).foldl (fun s c => drainIn s (cellOfIx x c) ((cellAt s (cellOfIx x c)).inq.length + 1)) s
    let s := modClause s x (fun c =>
      { c.setDec n { d with st := .run } with stallCycles := if d.st = .stall then satAdd c.stallCycles stalled else c.stallCycles })
    match d.tok with
    | some t => emitBytes x n (t.2 + 1) s
    | none => s

def execDecompResume (die k n stalled : Nat) (s : State) : Host.Outcome State Fault Refusal :=
  .next (doDecompResume s die k n stalled)

/-- DECOMP_SEGMENT_END: a completed plane is compared with RAW_CRC; stored bytes left unread are a LONG error (R105, R116,
R117). -/
def doDecompSegmentEnd (s : State) (die k n : Nat) : State :=
  let x := clauseIx die k
  let c := clauseAt s x
  let row := clauseRow s x
  let d := c.dec n
  if !d.busy ∨ d.tok.isSome ∨ d.reexpand.isSome ∨ 2 ≤ n then s
  else match decInput? c row n d with
    | none => s
    | some i =>
      if d.outPos < 64 * lineLen (kindCodes i.block.kind) then s
      else
        let s := modClause s x (fun c => c.setDec n { d with busy := false, st := .idle })
        if d.zeroFill then s
        else if !i.block.raw ∧ d.inPos < i.block.payloadLen then
          blockFailed (codecError s x n 2 5 63 d.absBand) x d.absBand
        else if d.crc ^^^ 0xFFFFFFFF#32 ≠ i.block.rawCrc then
          blockFailed (codecError s x n 1 0 63 d.absBand) x d.absBand
        else s

def execDecompSegmentEnd (die k n : Nat) (s : State) : Host.Outcome State Fault Refusal :=
  .next (doDecompSegmentEnd s die k n)

/-- One token's output appended to what a line's decoding has given, from a history (R104). -/
def expandTok (src : TokSrc) (lits : List Byte) : Nat → List Byte → List Byte
  | 0, out => out
  | n + 1, out =>
    let b := match src with
      | .value v => v
      | .copy d => out.getD (out.length - d) 0
      | .literal => lits.headD 0
    expandTok src (lits.drop 1) n (out ++ [b])

/-- The bytes of a line decoded again by a follower, after a history; a line that meets a format error, a poisoned literal among them, ends
in zeros, as the first pass gave it (R112, R117). `fuel` bounds the tokens. -/
def decodeLine (i : BandIn) (lam : Nat) : Nat → Nat → Nat → Nat → List Byte → List Byte
  | 0, _, _, left, out => out ++ List.replicate left 0
  | fuel + 1, pos, o, left, out =>
    if left = 0 then out
    else match tokRead i.bytes i.badByte i.block.payloadLen lam pos o with
      | .tok src n used =>
        let lit : Bool := match src with | .literal => true | _ => false
        let whole := min n (i.block.payloadLen - (pos + used))
        let have_ := if lit then ((List.range whole).find? (fun j => i.badByte (pos + used + j))).getD whole else n
        let out' := expandTok src (i.bytes.drop (pos + used)) have_ out
        if have_ < n then out' ++ List.replicate (left - have_) 0
        else decodeLine i lam fuel (pos + used + (if lit then n else 0)) (o + n) (left - n) out'
      | _ => out ++ List.replicate left 0

/-- FOLLOWER_DONE: the follower has written a line into the replay window, the next line becomes the replay line, and a
re-expansion that waited for it begins (R112, R113). -/
def doFollowerDone (s : State) (die k n : Nat) : State :=
  let x := clauseIx die k
  let c := clauseAt s x
  let row := clauseRow s x
  let d := c.dec n
  match d.following with
  | none => s
  | some q =>
    let replay := match c.inputFor? q.absBand (row.overlay && n == 1) with
      | some i =>
        let lam := lineLen (kindCodes i.block.kind)
        window (if q.zero then d.replay ++ List.replicate lam 0 else decodeLine i lam lam q.inPos q.outPos lam d.replay)
      | none => d.replay
    let d := { d with following := none, replay := replay, ckpts := d.ckpts.drop 1 }
    kickFollowers (setClause s x (c.setDec n d)) x

/-- The follower has read the stored bytes of its line, up to the next line's. -/
def readLine (s : State) (x n : Nat) : State :=
  let c := clauseAt s x
  let d := c.dec n
  match d.following with
  | some q => match c.inputFor? q.absBand ((clauseRow s x).overlay && n == 1) with
    | some i =>
      let end_ := match d.ckpts[1]? with
        | some k => if k.absBand = q.absBand then k.inPos else i.bytes.length
        | none => if d.absBand = q.absBand then d.inPos else i.bytes.length
      if q.zero ∨ end_ ≤ q.inPos then s else settleBand s x i false (q.inPos / 8) ((end_ - 1) / 8 + 1 - q.inPos / 8)
    | none => s
  | none => s

def execFollowerDone (die k n : Nat) (s : State) : Host.Outcome State Fault Refusal :=
  .next (doFollowerDone (readLine s (clauseIx die k) n) die k n)

/-- CLR of CLS_CDC_CTRL: clears CLS_CDC_ERRCNT, CLS_CDC_LAST and CLS_CDC_STALL (R125). -/
def doClsCdcCtrlClr (s : State) (die k : Nat) : State :=
  modClause s (clauseIx die k) (fun c =>
    { c with fmtCnt := 0, crcCnt := 0, lastCause := 0, lastDec := false, lastFcode := 0, lastCdcLine := 0, lastBand := 0,
             stallCycles := 0 })

def execClsCdcCtrlClr (die k : Nat) (s : State) : Host.Outcome State Fault Refusal := 
  .next (hostReg s die (fun s => if k < 66 then doClsCdcCtrlClr s die k else s))

/-! ### The compressor (R118-R123, R126) -/

/-- How far two positions of a plane agree, before `stop` (R120). `fuel` bounds the run. -/
def runEqual (p : Nat → Byte) (i j stop : Nat) : Nat → Nat
  | 0 => 0
  | fuel + 1 => if i < stop ∧ p i = p j then 1 + runEqual p (i + 1) (j + 1) stop fuel else 0

/-- How many bytes from `i` on, before `stop`, equal byte `i`. -/
def runSame (p : Nat → Byte) (i stop : Nat) (v : Byte) : Nat → Nat
  | 0 => 0
  | fuel + 1 => if i < stop ∧ p i = v then 1 + runSame p (i + 1) stop v fuel else 0

/-- Hash of four bytes: 12 bits (R120). -/
def hash4 (p : Nat → Byte) (i : Nat) : Nat :=
  let v := leNat [p i, p (i + 1), p (i + 2), p (i + 3)]
  v * 0x9E3779B1 % 2 ^ 32 / 2 ^ 20

/-- A long form: the token byte's base with E. -/
def longTok (base n : Nat) : List Byte := [BitVec.ofNat 8 (base + (n - 1) / 256), BitVec.ofNat 8 ((n - 1) % 256)]

/-- The pending literals as one token, the short form when it fits (R120). -/
def flushLits (lits : List Byte) : List Byte :=
  if lits = [] then []
  else if lits.length ≤ 64 then BitVec.ofNat 8 (lits.length - 1) :: lits
  else longTok 0xC0 lits.length ++ lits

/-- An ABOVE token. -/
def aboveTok (n : Nat) : List Byte := if n ≤ 32 then [BitVec.ofNat 8 (0x60 + n - 1)] else longTok 0xD0 n

/-- A FILL token. -/
def fillTok (n : Nat) (v : Byte) : List Byte := if n ≤ 34 then [BitVec.ofNat 8 (0x40 + n - 3), v] else longTok 0xC8 n ++ [v]

/-- A MATCH token. -/
def matchTok (n d : Nat) : List Byte :=
  BitVec.ofNat 8 (0x80 + (n - 3) % 64) :: natLE 2 ((n - 3) / 64 * 8192 + (d - 1))

/-- The encoding procedure of R120 over a plane of `len` bytes, in order; each step's output is one or more whole tokens. The
hash table holds position + 1, 0 for EMPTY. `fuel` bounds the steps. -/
def encodeFrom (p : Nat → Byte) (lam len : Nat) : Nat → Nat → Sparse Nat → List Byte → List (List Byte) → List (List Byte)
  | 0, _, _, _, out => out
  | fuel + 1, i, ht, pend, out =>
    if len ≤ i then out
    else
      let e := (i / lam + 1) * lam
      let a := if lam ≤ i then runEqual p i (i - lam) e (e - i) else 0
      let r := runSame p i e (p i) (e - i)
      let h := hash4 p i
      let tests : Bool := 4 ≤ e - i
      let c := if tests then sget 0 ht h else 0
      let ht := if tests then sput 0 ht h (i + 1) else ht
      let m := if c ≠ 0 ∧ i - (c - 1) ≤ 8192 then min (runEqual p i (c - 1) e (e - i)) 514 else 0
      let a := if 2 ≤ a then a else 0
      let r := if 3 ≤ r then r else 0
      let m := if 4 ≤ m then m else 0
      let best := max a (max r m)
      let flush (l : List Byte) : List (List Byte) := if l = [] then [] else [flushLits l]
      if best = 0 then
        let pend := pend ++ [p i]
        if i + 1 = e then encodeFrom p lam len fuel (i + 1) ht [] (out ++ flush pend)
        else encodeFrom p lam len fuel (i + 1) ht pend out
      else
        let t := if a = best then aboveTok best else if r = best then fillTok best (p i) else matchTok best (i - (c - 1))
        encodeFrom p lam len fuel (i + best) ht [] (out ++ flush pend ++ [t])

/-- The compressor's stream of a plane (R120). -/
def encodePlane (plane : List Byte) (lam : Nat) : List Byte :=
  (encodeFrom (fun i => byteAt plane i) lam plane.length (plane.length + 1) 0 [] [] []).flatten

/-- Raw plane bytes of the kind of the compressor's job (R118, R126). -/
def Compressor.plane (c : Compressor) : Nat := if c.jobKind then 65536 else 131072

/-- START of MGT_CMP_CTRL: starts a job with the present settings, which it keeps to its end, or sets START_IGN while one runs; ignored
while a Dialect is active (R118, R123, R126). -/
def doCmpStart (s : State) (d : Nat) : State :=
  if !dieOk s d ∨ s.dia.valid then s
  else modComp s d (fun c =>
    if c.state = 1 then { c with startIgn := true }
    else { c with state := 1, jobKind := c.kind, jobDst := c.dst, jobLimit := c.limit, block := none, inp := [] })

def execCmpStart (d : Nat) (s : State) : Host.Outcome State Fault Refusal := .next (hostReg s d (fun s => doCmpStart s d))

/-- ABORT of MGT_CMP_CTRL: a running job ends ABORTED; what it has written of its output space is open (R123, R126,
assumption 4). -/
def doCmpAbort (s : State) (d : Nat) : State :=
  let c := compAt s d
  if !dieOk s d ∨ s.dia.valid ∨ c.state ≠ 1 then s else cmpStops s d 3

def execCmpAbort (d : Nat) (s : State) : Host.Outcome State Fault Refusal := .next (hostReg s d (fun s => doCmpAbort s d))

/-- The oldest block in a die's page cache. -/
def cachedBlock? (s : State) (d : Nat) : Option Block := s.blocks.find? (fun b => b.die == d && b.cached)

/-- CACHE_COMPRESS_START: the die manager starts a job on the oldest raw block in the page cache, its output space the raw plane
less 64 bytes (R98). A block for which the page store has no room left is refused NO_SPACE. -/
def doCacheCompressStart (s : State) (d : Nat) : State :=
  let c := compAt s d
  if c.state = 1 then s
  else match cachedBlock? s d with
    | none => s
    | some b =>
      match storeSpace s d b.blockLen with
      | none => cacheLeft (dropCached s d b.addr) d b.addr (some 0x0B)
      | some a =>
        let dst := BitVec.ofNat 34 (a + 64)
        let limit := BitVec.ofNat 17 (kindPlane b.kind - 64)
        setComp s d { c with kind := kindCodes b.kind, dst := dst, limit := limit, state := 1, jobKind := kindCodes b.kind, jobDst := dst,
                             jobLimit := limit, block := some b.addr, inp := [] }

def execCacheCompressStart (d : Nat) (s : State) : Host.Outcome State Fault Refusal := .next (doCacheCompressStart s d)

/-- A block compressed: its header with RAW clear and the lengths and STORED_CRC made anew, the stream padded, then the mask
plane and trailer as they were (R98). -/
def recompressed (b : Block) (bytes stream : List Byte) : Block × List Byte :=
  let nb : Block := { b with raw := false, payloadLen := stream.length, storedCrc := crc32c stream }
  let nb := { nb with blockLen := nb.lenRule }
  (nb, nb.header ++ (stream ++ (List.replicate (pad64 stream.length - stream.length) 0 ++
    slice bytes b.maskAt (kindMask b.kind + (if b.sig then 256 else 0)))))

/-- The end of a job on a block of the page cache (R98, R121, R122). -/
def cacheJobEnd (s : State) (d : Nat) (b : Block) (bad : Bool) : State :=
  let c := compAt s d
  let n := kindPlane b.kind
  let s := dramTouch s d b.addr b.blockLen
  let bytes := dramRd s d b.addr b.blockLen
  let plane := slice bytes 64 n
  let icrc := crc32c plane
  let at_ := c.jobDst.toNat - 64
  let left (s : State) (refused : Option Nat) : State := cacheLeft (dropCached s d b.addr) d b.addr refused
  if bad ∨ (List.range (n / 64)).any (fun j => dramBad s d (b.addr + 64 + 64 * j)) then left (cmpStops s d 2) (some 0x0C)
  else
    let stream := encodePlane plane (lineLen (kindCodes b.kind))
    if c.jobLimit.toNat < stream.length then
      left (placeAt (dropCached (cmpEnd s d 1 [] icrc) d b.addr) d at_ b bytes) none
    else
      let s := cmpEnd (dramWr s d c.jobDst.toNat stream) d 0 stream icrc
      if icrc ≠ b.rawCrc then left s (some 0x0C)
      else
        let r := recompressed b bytes stream
        left (placeAt (dropCached s d b.addr) d at_ r.1 r.2) none

/-- CMP_JOB_END: a job has spent its plane time and ends with one result (R119, R121-R123). A job that the host started ends once
its whole plane has been fed; after FAIL_SPACE its output space is undefined (R121, assumption 4). -/
def doCmpJobEnd (s : State) (d : Nat) (poisoned : Bool) : State :=
  let c := compAt s d
  if c.state ≠ 1 then s
  else match c.block with
    | some a => match s.blocks.find? (fun b => b.die == d && b.cached && b.addr == a) with
      | some b => if dramWaits s d b.addr b.blockLen then s else cacheJobEnd s d b poisoned
      | none => cmpStops s d 2
    | none =>
      if poisoned then cmpStops s d 2
      else if c.inp.length < c.plane then s
      else
        let plane := c.inp.take c.plane
        let stream := encodePlane plane (lineLen c.jobKind)
        if c.jobLimit.toNat < stream.length then cmpEnd (cmpSpoils s d) d 1 [] (crc32c plane)
        else cmpEnd (dramWr s d c.jobDst.toNat stream) d 0 stream (crc32c plane)

def execCmpJobEnd (d : Nat) (poisoned : Bool) (s : State) : Host.Outcome State Fault Refusal := .next (doCmpJobEnd s d poisoned)

end Sys2Proof.Machine
end

