-- ==== Sys2Proof/Machine/Timing.lean ====
section
/-! DEFINITION. The timebase, the sync function, the substrate encoders and the predictions of the line generators (R186-R195, R212,
R361, R393). -/

namespace Sys2Proof.Machine

/-! ### Registers -/

/-- TB_COUNT_LO_READ: a read of TB_COUNT_LO returns timebase bits [31:0] and latches bits [63:32] into TB_COUNT_HI (R212). A die
that cannot be reached reads all ones (R357), and so does a die under reset (R476). -/
def doTbCountLoRead (s : State) (die : Nat) : State :=
  if s.pcie.perst ∨ !s.pcie.linkUp ∨ s.pcie.d3hot then s
  else if !(hostUp s && dieReach s die) then emit s (.readData [0xFF, 0xFF, 0xFF, 0xFF] false false)
  else emit (modMgt s die (fun m => { m with tbHi := (tb64 s).extractLsb' 32 32 }))
    (.readData (natLE 4 ((tb64 s).extractLsb' 0 32).toNat) false false)

def execTbCountLoRead (die : Nat) (s : State) : Host.Outcome State Fault Refusal := .next (doTbCountLoRead s die)

/-- LGN_ROW_CTRL_CLR: CLR clears LGN_ROW_OVS.TOTAL (R213). -/
def doLgnRowCtrlClr (s : State) (row : Nat) : State := modRow s row (fun w => { w with ovsTotal := 0 })

def execLgnRowCtrlClr (row : Nat) (s : State) : Host.Outcome State Fault Refusal := 
  .next (hostReg s 0 (fun s => if row < 64 then doLgnRowCtrlClr s row else s))

/-! ### The sync function (R187-R189) -/

/-- Ticks in an epoch. -/
def epochTicks : Nat := 1048576

/-- One cell into the CRC-8 of a sync frame. -/
def crc8Bit (c : Byte) (b : Bool) : Byte := if c.getLsbD 7 != b then (c <<< 1) ^^^ 0x07#8 else c <<< 1

/-- CRC-8 over cells 0-47, in cell order (R188). -/
def syncCrc (cells : BitVec 56) : Byte := (List.range 48).foldl (fun c i => crc8Bit c (cells.getLsbD i)) 0

/-- The CRC that a frame carries in cells 48-55, most significant bit first (DEDUCED, assumption 11). -/
def syncCarried (cells : BitVec 56) : Byte :=
  (List.range 8).foldl (fun (c : Byte) i => (c <<< 1) ||| (if cells.getLsbD (48 + i) then 1 else 0)) 0

/-- The cells of a frame for epoch E (R188). -/
def syncCells (e : BitVec 44) : BitVec 56 :=
  let body : BitVec 56 := e.zeroExtend 56
  let crc := syncCrc body
  (List.range 8).foldl (fun (c : BitVec 56) i => if crc.getLsbD (7 - i) then c ||| (1#56 <<< (48 + i)) else c) body

/-- SYNC_FRAME_SEND: at the next epoch boundary a master drives the frame that carries TB[63:20] (R188). -/
def doSyncFrameSend (s : State) : State :=
  if s.sync.mode ≠ 1 then s
  else
    let s := advanceTo s ((s.tb / epochTicks + 1) * epochTicks)
    emit s (.syncFrame (syncCells ((tb64 s).extractLsb' 20 44)))

def execSyncFrameSend (s : State) : Host.Outcome State Fault Refusal := .next (doSyncFrameSend s)

/-- How far the slave's counter is from E x 2^20 at the boundary instant, 1/64 ticks. -/
def syncError (s : State) (edge : Nat) (cells : BitVec 56) : Int :=
  (edge : Int) - (64 * s.sync.dlyTicks.toNat + s.sync.dlyFrac.toNat) - ((cells.extractLsb' 0 44).toNat * 64 * epochTicks : Nat)

/-- SYNC_FRAME_RECEIVE: a slave samples a frame whose marker edge comes at `edge`, in 1/64 ticks of its counter. A bad CRC is counted;
with no job open a valid frame sets the counter's count and phase, and two in a row that agree set LOCK; with a job open one that disagrees sets FAULT
(R189). A repeating slave reproduces the waveform (R187). -/
def doSyncFrameReceive (s : State) (edge : Nat) (cells : BitVec 56) : State :=
  if s.sync.mode ≠ 2 then s
  else
    let s := advanceTo s (edge / 64)
    let s := if s.sync.repeat_ then emit s (.syncFrame cells) else s
    if syncCrc cells ≠ syncCarried cells then { s with sync := { s.sync with bad := satInc s.sync.bad } }
    else
      let err := syncError s edge cells
      let agree : Bool := err.natAbs ≤ 2
      let s := { s with sync := { s.sync with frames := s.sync.frames + 1, agreed := if agree then s.sync.agreed + 1 else 0,
                                              lastFrame := s.tb } }
      if jobOpen s then
        if agree then s else logEv { s with sync := { s.sync with fault := true } } 0 0x0033 (valueData 0 0 0 0)
      else
        let t := (((max (64 * s.tb) edge : Nat) - err : Int) / 64).toNat
        { s with tb := t, sync := { s.sync with lock := s.sync.lock || decide (2 ≤ s.sync.agreed), lastFrame := t,
                                                phase := s.sync.phase + BitVec.ofInt 6 err } }

def execSyncFrameReceive (edge : Nat) (cells : BitVec 56) (s : State) : Host.Outcome State Fault Refusal :=
  .next (doSyncFrameReceive s edge cells)

/-- SYNC_LOST: three epochs without a valid frame clear LOCK, set LOST and are logged (R189). -/
def doSyncLost (s : State) : State :=
  if s.sync.mode ≠ 2 then s
  else
    let s := advanceTo s (s.sync.lastFrame + 3 * epochTicks)
    logEv { s with sync := { s.sync with lock := false, lost := true, agreed := 0, lastFrame := s.tb } } 0 0x0034 (valueData 0 0 0 0)

def execSyncLost (s : State) : Host.Outcome State Fault Refusal := .next (doSyncLost s)

/-! ### Encoders (R190-R192) -/

/-- The longest gap within a run, in ticks (R192). -/
def gapTicks : Nat := 1048576

/-- READY: count 16 of the run has come (R192). -/
def Encoder.ready (x : Encoder) : Bool := 17 ≤ x.stamps.length

/-- Tp in 1/64 ticks; 0 while not READY (R192, R213). -/
def Encoder.tp (x : Encoder) : Nat :=
  match x.stamps.head?, x.stamps[16]? with
  | some t, some t16 => (t - t16) * 4
  | _, _ => 0

/-- Whether an accepted change of A or B moves forward: it leaves A leading B, the two directions swapped by INVERT (R190). -/
def Encoder.forward (x : Encoder) (a b : Bool) : Bool := (if x.a != a then a != b else a == b) != x.invert

/-- The first sample of an input's level that the filter has not accepted, once that level has been seen from tick `t` on (R190). -/
def candidate (accepted level : Bool) (cand : Option Nat) (t : Nat) : Option Nat := if level = accepted then none else some (cand.getD t)

/-- The candidate, when it has been stable for FILT + 1 samples by the sample before `stop` (R190). -/
def Encoder.passes (x : Encoder) (cand : Option Nat) (stop : Nat) : Option Nat := cand.filter (fun u => decide (u + x.filt.toNat + 1 ≤ stop))

/-- An accepted count at tick `t` (R190, R192). -/
def Encoder.step (x : Encoder) (t : Nat) (a b : Bool) : Encoder :=
  let f := x.forward a b
  let fresh := x.fwd != f || (match x.stamps.head? with | some p => decide (gapTicks < t - p) | none => true)
  let x := { x with a := a, b := b, fwd := f, count := if f then x.count + 1 else x.count - 1,
                    total := if f then x.total + 1 else x.total - 1, stamps := if fresh then [t] else (t :: x.stamps).take 17 }
  { x with acts := x.acts ++ [⟨t, x.total, x.ready, x.tp⟩] }

/-! ### The start event (R393) -/

/-- Whether a job's head channel has its head line 0 delivered, or is not waited for. -/
def headStartOk (s : State) (h : Nat) : Bool :=
  isFenced s (.head h) ||
  (match headLink? s h with
    | some (d, l) => let k := linkAt s (linkIx d l); k.st == .capsFail || k.st == .retired
    | none => false) ||
  (headAt s h).lines.any (fun l => l.line == 0 && !l.spit && l.delivered)

/-- The conditions of R393 on the job. -/
def mayStart (s : State) (j : Job) : Bool :=
  j.st == .armed && j.encs.all (fun e => (encAt s e).ready) && j.rows.all (fun r => (rowHeads s r).all (headStartOk s))

/-- Predict the uncommitted line of a row from the latest count its encoder's copies have acted on (R194). Where the rule makes no
prediction the one before it stands. -/
def predict (s : State) (r : Nat) : State :=
  match s.job with
  | none => s
  | some j =>
    let tm := rowTiming s r
    let w := rowAt s r
    match (encAt s tm.encoder).last with
    | none => s
    | some k =>
      let x : Int := (k.c - sget 0 j.c0 tm.encoder) * tm.ratio
      let b : Int := (w.line * 2 ^ 32 + tm.oF * 2 ^ 24 : Nat)
      if b ≤ x then setRow s r { w with pred := some (64 * k.t) }
      else if k.ready then setRow s r { w with pred := some (64 * k.t + ((b - x) * k.tp / tm.ratio).toNat) }
      else s

/-- The start event: c0 is latched, every history is rested, faults still pending wait for line 0, the rows run from line 0, and covered groups not in PRINT are logged
(R194, R208, R393, R431). -/
def startJob (s : State) (j : Job) : State :=
  let c0 := j.encs.foldl (fun m e => sput 0 m e (encAt s e).total) []
  let s := { s with job := some { j with st := .running, c0 := c0 }, heads := s.heads.map (fun p => (p.1, { p.2 with hist := [], fault := p.2.fault.map (fun _ => 0) })) }
  let s := j.rows.foldl (fun s r => modRow s r (fun w =>
    { w with st := .run, line := 0, pred := none, committed := none, lastFire := none, lastDropped := false, ovsCopy := 0 })) s
  logGroups s

/-- A sample in which both levels change: an error (R190). -/
def encError (s : State) (e t : Nat) (a b : Bool) : State :=
  let x := encAt s e
  logEv (setEnc (advanceTo s t) e { x with a := a, b := b, qerr := satInc x.qerr }) 0 0x0035 (valueData e x.count.toNat 0 0)

/-- An accepted change of one level, with timestamp `t`: a count, sent to every die, and perhaps a job's start event, row lines 0 then
predicted from the latest counts (R190, R192, R194, R361, R393). -/
def encCount (s : State) (e t : Nat) (a b : Bool) : State :=
  let s := setEnc (advanceTo s t) e ((encAt s e).step t a b)
  match s.job with
  | some j => if j.startEnc = e ∧ !j.startIndex ∧ mayStart s j then j.rows.foldl predict (startJob s j) else s
  | none => s

/-- ENCODER_COUNT: A and B are sampled at levels `a` and `b` from tick `t` for `samples` ticks. A level is accepted once it has been stable for
FILT + 1 samples, with the tick of its first; levels that change in one sample are an error (R190). -/
def doEncoderCount (s : State) (e t : Nat) (a b : Bool) (samples : Nat) : State :=
  let x := encAt s e
  let candA := candidate x.a a x.candA t
  let candB := candidate x.b b x.candB t
  let stop := t + samples
  let put (s : State) (ca cb : Option Nat) : State := if x.candA = ca ∧ x.candB = cb then s else setEnc s e { x with candA := ca, candB := cb }
  if 4 ≤ e then s
  else match x.passes candA stop, x.passes candB stop with
    | none, none => put s candA candB
    | some u, none => encCount (put s none candB) e u a x.b
    | none, some v => encCount (put s candA none) e v x.a b
    | some u, some v =>
      let s := put s none none
      if u = v then encError s e u a b
      else if u < v then encCount (encCount s e u a x.b) e v a b
      else encCount (encCount s e v x.a b) e u a b

def execEncoderCount (e t : Nat) (a b : Bool) (samples : Nat) (s : State) : Host.Outcome State Fault Refusal :=
  .next (doEncoderCount s e t a b samples)

/-- ENCODER_INDEX: Z rises at the sample of tick `t` and stays high for `samples` ticks: accepted once stable for FILT + 1 samples (R190), it latches the count; a difference other than CPR either way is a slip; it may be a job's start event,
row line 0 then predicted from the latest count (R191, R194, R393). -/
def doEncoderIndex (s : State) (e t samples : Nat) : State :=
  if 4 ≤ e ∨ samples ≤ (encAt s e).filt.toNat then s
  else
    let s := advanceTo s t
    let x := encAt s e
    let cpr : Word := x.cpr.zeroExtend 32
    let slipped : Bool := cpr != 0 && x.idxSeen && x.count - x.idx != cpr && x.idx - x.count != cpr
    let s := setEnc s e { x with idx := x.count, idxSeen := true, slip := if slipped then satInc x.slip else x.slip }
    let s := if slipped then logEv s 0 0x0036 (valueData e x.count.toNat 0 0) else s
    match s.job with
    | some j => if j.startEnc = e ∧ j.startIndex ∧ mayStart s j then j.rows.foldl predict (startJob s j) else s
    | none => s

def execEncoderIndex (e t samples : Nat) (s : State) : Host.Outcome State Fault Refusal := .next (doEncoderIndex s e t samples)

/-- ENCODER_LONG_GAP: more than 2^20 ticks without a count end the run and clear READY (R192). -/
def doEncoderLongGap (s : State) (e t : Nat) : State :=
  let x := encAt s e
  match x.stamps.head? with
  | none => s
  | some p =>
    if t - p ≤ gapTicks then s
    else setEnc (advanceTo s t) e { x with stamps := [], last := x.last.map (fun k => { k with ready := false, tp := 0 }) }

def execEncoderLongGap (e t : Nat) (s : State) : Host.Outcome State Fault Refusal := .next (doEncoderLongGap s e t)

/-- Rows of the running job that use an encoder. -/
def encRows (s : State) (e : Nat) : List Nat :=
  match s.job with
  | some j => if j.st = .running then j.rows.filter (fun r => (rowTiming s r).encoder == e) else []
  | none => []

/-- TIME_COUNT_ACT: the line generators act on an encoder's oldest waiting count, 48 ticks after its timestamp, and predict anew
(R194, R361). -/
def doTimeCountAct (s : State) (e : Nat) : State :=
  let x := encAt s e
  match x.acts with
  | [] => s
  | k :: ks =>
    let s := setEnc (advanceTo s (k.t + 48)) e { x with acts := ks, last := some k }
    (encRows s e).foldl predict s

def execTimeCountAct (e : Nat) (s : State) : Host.Outcome State Fault Refusal := .next (doTimeCountAct s e)

end Sys2Proof.Machine
end

