-- ==== Sys2Proof/Machine/Commit.lean ====
section
/-! DEFINITION. Commits and row ticks (R194-R210, R242, R263, R394, R395): drops, actions, tokens, histories, deadlines. -/

namespace Sys2Proof.Machine

/-! ### Overspeed (R197) -/

/-- The minimum fire period of a row, 1/64 ticks. -/
def minPeriod (s : State) (r : Nat) : Nat := 25 * (rowCfg s r).minFire

/-- Whether a tick at `tl` comes too soon after the row's last fire. -/
def tooSoon (s : State) (r tl : Nat) : Bool :=
  match (rowAt s r).lastFire with
  | some tf => decide ((tl : Int) - tf < minPeriod s r)
  | none => false

/-- The place of job line L - OW. -/
def jobPlace? (s : State) (j : Job) (r L : Nat) : Option PLine :=
  let ow := (rowTiming s r).ow
  if L < ow then none else j.place (L - ow)

/-- A drop: counted, logged, every copy its staggers touch flagged, and past OVS_LIMIT in one copy the job stops at the next copy
boundary (R197, R395, R508). -/
def dropLine (s : State) (j : Job) (r L : Nat) : State :=
  let s := modRow s r (fun w => { w with ovsTotal := satInc w.ovsTotal })
  let s := (copiesOfLine s r L (rowStaggers s r)).foldl (fun s c => flagCopy s c.1 8 1) s
  match jobPlace? s j r L with
  | none => logEv s 0 0x0030 (lineData 0 0 r 8 0xFFFF 0xFFFFFF 1)
  | some p =>
    let s := logEv s 0 0x0030 (lineData p.page p.copy r 8 0xFFFF p.pageLine 1)
    let s := modRow s r (fun w => { w with ovsCopy := satInc w.ovsCopy })
    let limit := (rowTiming s r).ovsLimit
    if limit ≠ 0xFFFF ∧ limit < (rowAt s r).ovsCopy.toNat then stopAt s (atCopyBoundary s j) 2 else s

/-! ### Actions (R202-R204) -/

/-- The head line of a channel. -/
def headLine? (s : State) (h L : Nat) : Option HeadLine := (headAt s h).lines.find? (fun l => l.line == L && !l.spit)

/-- The cause for which a channel lacks a row line at its commit: OVERTEMP, TELEMETRY or HEAD_LATE; none when it is present
(R203, R246). -/
def lackCause? (s : State) (h L : Nat) : Option Nat :=
  match headLine? s h L with
  | none => some 9
  | some l =>
    if l.stop ≠ 0 then some l.stop
    else if isFenced s (.head h) || !headActive s h || !l.delivered then some 9 else none

/-- What a channel does with a row line: fires, lacks it, or is withheld by its strict group for the sake of a lacking member. -/
inductive Act where
  | fire
  | lack (cause : Nat)
  | group (g : Nat)
deriving DecidableEq, Repr

/-- The action of a channel for a row line (R202-R204). -/
def actOf (s : State) (h L : Nat) : Act :=
  match lackCause? s h L with
  | some c => .lack c
  | none => match groupOf? s h with
    | some (g, true, ms) => if ms.any (fun m => (lackCause? s m L).isSome) then .group g else .fire
    | _ => .fire

/-- Count a SKIP: LATE of the channel that lacks the line, which an INDEPENDENT group gathers too; WITHHELD of the group whose rule
withholds it (R202, R204, R213). -/
def countSkip (s : State) (h : Nat) (a : Act) : State :=
  let grp (s : State) (g : Nat) (last : Option Nat) : State :=
    { s with groups := smod {} s.groups g (fun q =>
        { withheld := satInc q.withheld, lastH := match last with | some m => BitVec.ofNat 8 m | none => q.lastH }) }
  match a with
  | .fire => s
  | .group g => grp s g none
  | .lack _ =>
    let s := modHead s h (fun c => { c with late := satInc c.late })
    match groupOf? s h with
    | some (g, false, _) => grp s g (some h)
    | _ => s

/-- Send a token on an ACTIVE link, in the first slot from now on whose first position no other block has: its reference instant t_tx is
that slot's (R222, R242). An instant out of range is sent as SKIP with DELAY 0. Answers whether the channel fires. -/
def sendToken (s : State) (h L tl : Nat) (fire : Bool) : Bool × State :=
  match headLink? s h with
  | none => (false, s)
  | some (d, l) =>
    if (linkAt s (linkIx d l)).st ≠ .active ∨ s.die0Fault then (false, s)
    else
      let fd := ((nozTable? s h).map nozFd).getD 0
      let delay : Int := (tl : Int) + fd - singleAt s d l - (headAt s h).lat
      if 0 ≤ delay ∧ delay < 2 ^ 23 then (fire, pushSingle s d l (tokenBlk h (BitVec.ofNat 16 L) fire (BitVec.ofInt 23 delay)))
      else (false, pushSingle s d l (tokenBlk h (BitVec.ofNat 16 L) false 0))

/-- The history of a channel's nozzles after a fire instant (R205). -/
def histAfter (n : Nat) (hist : Sparse (BitVec 4)) (codes : List (BitVec 4)) (fire : Bool) : Sparse (BitVec 4) :=
  (List.range n).filterMap (fun i =>
    let f : BitVec 4 := if fire && codes.getD i 0 != 0 then 1 else 0
    let v := (sget 0 hist i <<< 1) ||| f
    if v = 0 then none else some (i, v))

/-- Replays of a committed line that have not begun, and a frame of it whose gather is abandoned, are dropped (R239, R345). -/
def dropCommitted (s : State) (h L : Nat) : State :=
  dropLines s h (fun f => f.line == L && ((f.kind == .replay && !f.started) || !f.closed))

/-- A channel's part in a commit: its action, its token, its history, whose blocks are written whole (R344), and its head line, whose gather ends here at the latest
(R202-R205, R242, R345). -/
def commitHead (s : State) (r h L tl : Nat) (a : Act) : State :=
  let want := a = .fire
  let late := want && headActive s h && !s.die0Fault
  let (fire, s) := sendToken s h L tl want
  let a' : Act := if late && !fire then .lack 12 else a
  let s := countSkip s h a'
  let s := match a' with
    | .fire => s
    | .lack c => skipCopies s r h L c
    | .group _ => skipCopies s r h L 11
  let codes := match headLine? s h L with | some l => l.codes | none => []
  let fd := ((nozTable? s h).map nozFd).getD 0
  let touched := (copiesOfLine s r L (headStaggers s h)).map (fun c => c.1)
  let s := modHead s h (fun c =>
    { c with hist := histAfter (headNozzles s h) c.hist codes fire, histBad := [],
             copiesSince := if fire then (c.copiesSince ++ touched).eraseDups else c.copiesSince })
  modHeadLine (dropCommitted s h L) h L (fun l => if l.spit then l else { l with done := true, committed := some fire, fireAt := tl + fd })

/-- A strict group whose rule withholds a line logs the lacking member, the lowest of several (R204, R509). -/
def logStrict (s : State) (hs : List Nat) (L : Nat) : State :=
  let gs := (hs.filterMap (fun h => match groupOf? s h with
    | some (g, true, ms) => (ms.mergeSort (fun a b => decide (a ≤ b))).find? (fun m => (lackCause? s m L).isSome) |>.map (fun m => (g, m))
    | _ => none)).eraseDups
  gs.foldl (fun s p =>
    let s := { s with groups := smod {} s.groups p.1 (fun q => { q with lastH := BitVec.ofNat 8 p.2 }) }
    logEv s (headDie s p.2) 0x0032 (unitData 3 0 p.2 0 0 (natLE 1 p.1 ++ ([0, 0, 0] ++ natLE 4 L)))) s

/-! ### Faults of head channels at a commit (R263) -/

/-- Whether a segment of an undelivered line stays unacknowledged after its last replay. -/
def HeadLine.unanswered (l : HeadLine) : Bool := l.sent.any (fun g => !l.acked.contains g && sget 0 l.replays g != 0)

/-- A pending fault of a channel is classed by whether the line now committed is delivered: permanent when not, or when it repeats
within HC_WIN; else transient. A line left unanswered is a new fault (R239, R260, R263). -/
def headOutcome (s : State) (r h L : Nat) : State :=
  let c := headAt s h
  match headLine? s h L with
  | none => s
  | some l =>
    let now := (rowAt s r).lineCount
    let s := match c.fault with
      | none => s
      | some f =>
        if L < f then s
        else
          let s := modHead s h (fun c => { c with fault := none })
          if !l.delivered then fenceHead s h 2
          else if faultRepeats s (.head h) now (integ s).hcWin then fenceHead s h 1
          else noteTransient s (.head h) now
    if !l.delivered && l.unanswered then headFault s h L else s

/-! ### The commit (R194) -/

/-- Runs of skipped fires on a row that this line does not carry on have ended (R274). -/
def endSkipRuns (s : State) (r L : Nat) : State := endRuns s (fun q => q.row == r && q.strip == 0xFFFF && q.last != L)

/-- The lead row takes report entries for the copies it begins; about to begin one for which none is free, the job stops there
(R395). -/
def leadBegins (s : State) (j : Job) (r L : Nat) : State :=
  let ow := (rowTiming s r).ow
  if r ≠ leadRow s j ∨ L < ow then s
  else
    let n := L - ow
    match s.job with
    | none => s
    | some j =>
      let j := if j.begun < j.bound ∧ j.start j.begun ≤ n then { j with begun := j.begun + 1 } else j
      let s := { s with job := some j }
      if j.begun < j.bound ∧ j.start j.begun = n + 1 ∧ 4096 ≤ j.begun - j.reported then stopAt s j.begun 3 else s

/-- Head channels of a row, ascending. -/
def rowHeadsAsc (s : State) (r : Nat) : List Nat := (rowHeads s r).mergeSort (fun a b => decide (a ≤ b))

/-- Actions of a row's channels for a line that is not dropped. -/
def fireLine (s : State) (r L tl : Nat) : State :=
  let hs := rowHeadsAsc s r
  let acts := hs.map (fun h => (h, actOf s h L))
  let s := logStrict s hs L
  let s := acts.foldl (fun s p => commitHead s r p.1 L tl p.2) s
  hs.foldl (fun s h => headOutcome s r h L) s

/-- A dropped line: no channel fires it and no history changes; its places in the output rings go at the fire instants (R197, R238). -/
def holdLine (s : State) (r L tl : Nat) : State :=
  (rowHeadsAsc s r).foldl (fun s h =>
    let fd := ((nozTable? s h).map nozFd).getD 0
    modHeadLine (dropCommitted s h L) h L (fun l => if l.spit then l else { l with done := true, committed := some false, fireAt := tl + fd })) s

/-- Whether a commit at tick `tk` is due: at or after T - 256. -/
def commitDue (w : Row) (tk : Nat) : Bool :=
  match w.pred with
  | some p => decide (p ≤ 64 * tk + 64 * 256)
  | none => false

/-- LINE_COMMIT: the row's uncommitted line is committed at tick `t`; its tick is T_L = max(T, t + 128) (R194). -/
def doLineCommit (s : State) (row t : Nat) : State :=
  let tk := max t s.tb
  match s.job with
  | none => s
  | some j =>
    let w := rowAt s row
    if j.st ≠ .running ∨ !j.rows.contains row ∨ !commitDue w tk then s
    else
      let s := advanceTo s tk
      let L := w.line
      let tl := max (w.pred.getD 0) (64 * (tk + 128))
      let drop := tooSoon s row tl
      let begins : Bool := match jobPlace? s j row L with | some p => p.pageLine == 0 | none => false
      let s := setRow s row { w with
        line := L + 1, pred := none, committed := some L, lastReg := BitVec.ofNat 32 L, tl := tl, tickDue := w.tickDue ++ [(L, tl)],
        period := match w.lastFire with | some tf => BitVec.ofNat 32 (tl - tf) | none => 0,
        lastFire := if drop then w.lastFire else some tl, lastDropped := drop, ovsCopy := if begins then 0 else w.ovsCopy,
        lineCount := w.lineCount + 1 }
      let s := leadBegins s j row L
      let s := if drop then holdLine (dropLine s j row L) row L tl else fireLine s row L tl
      let s := endSkipRuns s row L
      let s := freeOverlays (freeRow s row)
      jobAdvance (predict s row)

def execLineCommit (row t : Nat) (s : State) : Host.Outcome State Fault Refusal := .next (doLineCommit s row t)

/-! ### The row tick (R25, R27, R195) -/

/-- A clause line at its deadline: a line beyond the boundary of a stop holds zeros and is passed; any other not yet Ready is withheld
LATE (R27, R394). -/
def deadlineLine (s : State) (x row L : Nat) : State :=
  match (clauseAt s x).lineOf? L with
  | none => s
  | some l =>
    if l.settled then s
    else if l.at_.isSome ∧ (placeRowLine s row L).isNone then lineReady s x L
    else lineDeadline s x L

/-- Deadlines at the start of the gather of head line `F`; a line due at the gather of head line 0 has none (R27). -/
def deadlines (s : State) (row F : Nat) : State :=
  (s.gram.slots.filter (fun g => g.row == row)).foldl (fun s g =>
    let smin := sminOf s g.die g.slot
    (slotClauses s g.die g.slot).foldl (fun s x =>
      ((clauseAt s x).lines.map (fun l => l.line)).foldl (fun s L => if 1 ≤ L + smin ∧ L + smin ≤ F then deadlineLine s x row L else s) s) s) s

/-- ROW_TICK: the row's oldest tick to come arrives; the gather of the next head line begins, unless that line is committed already, which
abandons its gather (R345), and clause lines it reads that are not Ready are withheld (R25, R27, R195). -/
def doRowTick (s : State) (row : Nat) : State :=
  let w := rowAt s row
  match w.tickDue with
  | [] => s
  | (L, tl) :: rest =>
    let s := advanceTo (setRow s row { w with tickDue := rest, gathered := some (L + 1) }) (tl / 64)
    let s := deadlines s row (L + 1)
    let s := if w.committed.any (fun c => decide (L + 1 ≤ c)) then s else (rowLive s row).foldl (fun s h => startGather s h (L + 1)) s
    jobAdvance (freeOverlays (freeRow s row))

def execRowTick (row : Nat) (s : State) : Host.Outcome State Fault Refusal := .next (doRowTick s row)

end Sys2Proof.Machine
end

