-- ==== Sys2Proof/Machine/Dma.lean ====
section
/-! DEFINITION. The DMA engine's commands and events (R328-R342). -/

namespace Sys2Proof.Machine

/-! ### Register writes (R328, R329, R331, R332, R341, R346) -/

/-- Whether a channel exists. -/
def dmaOk (s : State) (d c : Nat) : Bool := dieOk s d && decide (c < 32)

/-- Whether a chain runs on a channel or a fetch is under way. -/
def DmaCh.chained (q : DmaCh) : Bool := q.fetching || (q.chain && q.busy)

/-- The die manager's writes of the shadow fields; ignored with IGN while ARMED (R328). -/
def loadShadow (q : DmaCh) (f : DmaSet) : DmaCh :=
  if q.armed then { q with ign := true }
  else { q with shSrc := f.src, shDst := f.dst, shCount := f.count, shWait := f.wait, shEvt := f.evt, shEvtLine := f.evtLine }

/-- DMA_ARM: the shadow, loaded first where the die manager gives its fields, is armed; an idle channel starts it at once. While a chain runs
ARM is ignored and sets IGN (R328, R329). -/
def doDmaArm (s : State) (d c : Nat) (load : Option DmaSet) : State :=
  let q := dmaAt s (dmaIx d c)
  let q := match load with | some f => loadShadow q f | none => q
  if !dmaOk s d c ∨ q.st = .fenced ∨ !dmaServes s q then s
  else if q.chained then setDma s (dmaIx d c) { q with ign := true }
  else
    let s := setDma s (dmaIx d c) { q with armed := true }
    if q.st = .idle then startShadow s d c else s

def execDmaArm (die ch : Nat) (load : Option DmaSet) (s : State) : Host.Outcome State Fault Refusal := .next (doDmaArm s die ch load)

/-- DMA_DOORBELL: the tail is fetched again, at once on an idle channel, else when the tail completes; without a tail the first
descriptor is fetched. Ignored with IGN while a register-set transfer runs or the shadow is armed (R329); a halted channel fetches nothing
(R341). -/
def doDmaDoorbell (s : State) (d c : Nat) : State :=
  let q := dmaAt s (dmaIx d c)
  if !dmaOk s d c ∨ q.st = .fenced ∨ !dmaServes s q then s
  else if q.armed ∨ (q.busy ∧ q.st ≠ .halted ∧ !q.chained) then setDma s (dmaIx d c) { q with ign := true }
  else if q.st = .halted then s
  else if q.chained then setDma s (dmaIx d c) { q with doorbell := true }
  else if q.tail ≠ 0 then setDma s (dmaIx d c) { q with fetching := true, refetch := true, curDesc := q.tail }
  else setDma s (dmaIx d c) { q with fetching := true, refetch := false, chain := true, st := .run, curDesc := q.desc.extractLsb' 5 32 }

def execDmaDoorbell (die ch : Nat) (s : State) : Host.Outcome State Fault Refusal := .next (doDmaDoorbell s die ch)

/-- DMA_DESC_WRITE: the chain's first descriptor, and no tail; ignored with IGN unless the channel is idle. -/
def doDmaDescWrite (s : State) (d c : Nat) (v : BitVec 64) : State :=
  let q := dmaAt s (dmaIx d c)
  if !dmaOk s d c ∨ !dmaServes s q then s
  else if q.st ≠ .idle ∨ q.fetching then setDma s (dmaIx d c) { q with ign := true }
  else setDma s (dmaIx d c) { q with desc := v, tail := 0 }

def execDmaDescWrite (die ch : Nat) (v : BitVec 64) (s : State) : Host.Outcome State Fault Refusal := .next (doDmaDescWrite s die ch v)

/-- DMA_ABORT: any transfer ends, shadow and tail are cleared and the channel is idle. -/
def doDmaAbort (s : State) (d c : Nat) : State :=
  let q := dmaAt s (dmaIx d c)
  if !dmaOk s d c ∨ q.st = .fenced then s
  else setDma s (dmaIx d c)
    { q with st := .idle, armed := false, shSrc := 0, shDst := 0, shCount := 0, shWait := false, shEvt := false, shEvtLine := 0, tail := 0,
             chain := false, fetching := false, refetch := false, doorbell := false, inflight := [], remain := 0 }

def execDmaAbort (die ch : Nat) (s : State) : Host.Outcome State Fault Refusal := .next (doDmaAbort s die ch)

/-- DMA_CNT_CLR: DMA_CH_CNT is cleared. -/
def doDmaCntClr (s : State) (d c : Nat) : State :=
  if dmaOk s d c then modDma s (dmaIx d c) (fun q => { q with okCnt := 0, badCnt := 0, halts := 0 }) else s

def execDmaCntClr (die ch : Nat) (s : State) : Host.Outcome State Fault Refusal := .next (doDmaCntClr s die ch)

/-- DMA_IRQ_STAT_WRITE: bits written 1 are cleared; the message goes again while an unmasked bit remains set (R339). -/
def doDmaIrqStatWrite (s : State) (d : Nat) (v : BitVec 32) : State :=
  let e := dmaDieAt s d
  let left := e.irq &&& ~~~ v
  let s := setDmaDie s d { e with irq := left }
  if left &&& ~~~ e.mask = 0 then s else msix s (8 + d)

def execDmaIrqStatWrite (die : Nat) (v : BitVec 32) (s : State) : Host.Outcome State Fault Refusal :=
  .next (hostReg s die (fun s => doDmaIrqStatWrite s die v))

/-! ### Descriptors (R330-R332, R340) -/

/-- A descriptor's fields enter the active set and its transfer starts; reserved bits or fields not allowed end it BAD (R340). -/
def startDesc (s : State) (d c : Nat) (b : List Byte) : State :=
  let q := dmaAt s (dmaIx d c)
  let ctl := leAt b 0x18 2
  let q := { q with fetching := false, src := BitVec.ofNat 64 (leAt b 0 8), dst := BitVec.ofNat 64 (leAt b 8 8),
                    count := BitVec.ofNat 24 (leAt b 0x10 3), evt := ctl.testBit 1, evtLine := byteAt b 0x1A, curEnd := ctl.testBit 0,
                    curNext := BitVec.ofNat 32 (leAt b 0x1C 4) }
  if leAt b 0x13 1 = 0 ∧ ctl / 8 = 0 ∧ fieldsOk q then setDma s (dmaIx d c) (q.begin (ctl.testBit 2))
  else endBad (setDma s (dmaIx d c) q) d c 3 (if leAt b 0x13 1 = 0 ∧ ctl / 8 = 0 then fieldAddr q else descAddr q q.curDesc)

/-- DMA_DESC_FETCH_COMPLETE: a descriptor fetch returns. A bus error or uncorrectable data halts the channel; a fetch made again reads
only END and NEXT. -/
def doDmaDescFetchComplete (s : State) (d c : Nat) (err : DmaErr) : State :=
  let q := dmaAt s (dmaIx d c)
  if !dmaOk s d c ∨ !q.fetching then s
  else
    let a := descAddr q q.curDesc
    if dmaHeld s d a 32 then s
    else if err ≠ .ok ∨ descBad s d q q.curDesc then haltDma s d c 5 a
    else
    let s := dmaTouch s d a 32
    if dmaPoison s d a 32 then haltDma s d c 5 a
    else
      let r := dmaRead s d a 32 []
      let s := r.2
      if !q.refetch then startDesc s d c r.1
      else if (leAt r.1 0x18 1).testBit 0 then setDma s (dmaIx d c) { q with fetching := q.doorbell, refetch := q.doorbell, doorbell := false }
      else setDma s (dmaIx d c) { q with refetch := false, chain := true, st := .run, doorbell := false,
                                         curDesc := BitVec.ofNat 32 (leAt r.1 0x1C 4) }

def execDmaDescFetchComplete (die ch : Nat) (err : DmaErr) (s : State) : Host.Outcome State Fault Refusal :=
  .next (doDmaDescFetchComplete s die ch err)

/-! ### Bursts (R333-R335, R340, R341) -/

/-- The channel the system mover serves: the first ready one of the highest level, from where the level's round stands (R334). -/
def pickDma? (s : State) (d : Nat) (requests : BitVec 32) : Option Nat :=
  (List.range 4).findSome? (fun lvl =>
    let from_ := sget 0 (dmaDieAt s d).lastSys lvl
    ((List.range 32).map (fun j => (from_ + j) % 32)).find? (fun c =>
      let q := dmaAt s (dmaIx d c)
      q.prio.toNat == lvl && dmaReady s q (requests.getLsbD c)))

/-- DMA_BURST_START: the system mover starts a burst for a ready channel; at most 32 bursts are in flight (R324, R334). -/
def doDmaBurstStart (s : State) (d : Nat) (requests : BitVec 32) : State :=
  let flying := ((List.range 32).map (fun c => (dmaAt s (dmaIx d c)).inflight.length)).sum
  if !dieOk s d ∨ 32 ≤ flying then s
  else match pickDma? s d requests with
    | none => s
    | some c =>
      let q := dmaAt s (dmaIx d c)
      let e := dmaDieAt s d
      setDmaDie (setDma s (dmaIx d c) { q with inflight := q.inflight ++ [burstLen q] }) d
        { e with lastSys := sput 0 e.lastSys q.prio.toNat ((c + 1) % 32) }

def execDmaBurstStart (die : Nat) (requests : BitVec 32) (s : State) : Host.Outcome State Fault Refusal :=
  .next (doDmaBurstStart s die requests)

/-- Whether a completed transfer is read back: it wrote to space 0 to 4 (R336). -/
def readsBack (q : DmaCh) : Bool := decide (dmaSpace q.dst ≤ 4)

/-- A burst of `n` bytes moves: source read, destination written, CRC and counts advanced; after the last comes the read-back. -/
def moveBurst (s : State) (d c n : Nat) (data : List Byte) : State :=
  let q := dmaAt s (dmaIx d c)
  let r := dmaRead s d (dmaAddr q.src q.moved) n data
  let s := dmaWrite r.2 d c (dmaAddr q.dst q.moved) r.1
  let left := q.remain.toNat - n
  let q := { q with inflight := q.inflight.drop 1, moved := q.moved + n, remain := BitVec.ofNat 24 left, running := crc32cReg q.running r.1 }
  if 0 < left then setDma s (dmaIx d c) q
  else if readsBack q then setDma s (dmaIx d c) { q with st := .readback }
  else completeOk (setDma s (dmaIx d c) q) d c

/-- DMA_BURST_COMPLETE: the oldest burst in flight completes; a bus error ends the transfer BAD at it, poison halts the channel before
anything of it is written. It waits while a DRAM channel that it reaches trains or retrains (R319). `err` tells of the host and the fabric, and
of poison that the part's own arrays do not hold. -/
def doDmaBurstComplete (s : State) (d c : Nat) (err : DmaErr) (data : List Byte) : State :=
  let q := dmaAt s (dmaIx d c)
  match q.inflight with
  | [] => s
  | n :: _ =>
    let src := dmaAddr q.src q.moved
    let dst := dmaAddr q.dst q.moved
    if !dmaOk s d c ∨ dmaHeld s d src n ∨ dmaHeld s d dst n then s
    else if err = .srcBus ∨ dmaErrorAt s d q.src q.moved n then endBad (freeDest s d c) d c 1 src
    else
      let s := dmaTouch s d src n
      if (err = .poison ∧ 3 ≤ dmaSpace src) ∨ dmaPoison s d src n then
        haltDma (if dmaSpace src = 0 then markSrc s d (dmaLow src) n else s) d c 4 src
      else if err = .dstBus ∨ dmaErrorAt s d q.dst q.moved n then endBad (freeDest s d c) d c 2 dst
      else moveBurst s d c n data
where
  /-- Poison met in a placed block of DRAM marks the block BAD (R309, R341). -/
  markSrc (s : State) (d a n : Nat) : State :=
    (s.blocks.filter (fun b => b.die == d && !b.cached && b.addr != 0 && decide (b.addr < a + n ∧ a < b.addr + pad64 b.blockLen))).foldl markBad s

def execDmaBurstComplete (die ch : Nat) (err : DmaErr) (data : List Byte) (s : State) : Host.Outcome State Fault Refusal :=
  .next (doDmaBurstComplete s die ch err data)

/-- DMA_READBACK_RETURN: the read-back of the aligned 8 bytes that hold the last byte written returns, behind the transfer's writes, and the
transfer completes; its data, poisoned or not, is discarded, and a bus error ends the transfer BAD (R336). -/
def doDmaReadbackReturn (s : State) (d c : Nat) (err : DmaErr) : State :=
  let q := dmaAt s (dmaIx d c)
  let a := dmaAddr q.dst (q.moved - 1)
  let out : Bool := dmaSpace q.dst == 3 && (s.fabric.any (fun f => f.sentBy c) || ((List.range 4).flatMap (fun p =>
    (portAt s (4 * (dmaLow q.dst / 2 ^ 56 % 8) + p)).ingress)).any (fun b => b.sender == c))
  if !dmaOk s d c ∨ q.st ≠ .readback then s
  else if err = .srcBus ∨ err = .dstBus ∨ dmaBusError s d (a &&& ~~~7#64) 8 then endBad (freeDest s d c) d c 2 a
  else if out ∨ dmaHeld s d a 1 then s
  else completeOk s d c

def execDmaReadbackReturn (die ch : Nat) (err : DmaErr) (s : State) : Host.Outcome State Fault Refusal :=
  .next (doDmaReadbackReturn s die ch err)

/-- INGRESS_BURST: the FORWARD channel writes the burst that waits longest at a port; damaged by an uncorrectable word where `poisoned` (R300,
R335, R341). -/
def doIngressBurst (s : State) (d p : Nat) (bad : Bool) : State := if dieOk s d ∧ p < 4 then forwardBurst s d p bad else s

def execIngressBurst (die port : Nat) (poisoned : Bool) (s : State) : Host.Outcome State Fault Refusal :=
  .next (doIngressBurst s die port poisoned)

end Sys2Proof.Machine
end

