-- ==== Sys2Proof/Machine/Page.lean ====
section
/-! DEFINITION. Pages, loads, overlay sets and the band fetch (R75-R100, R257-R259, R387-R389). -/

namespace Sys2Proof.Machine

/-! ### Page commands (R387) -/

/-- PAGE_DEFINE (R75, R76, R387). -/
def doPageDefine (s : State) (h : CmdHdr) (id : BitVec 32) (bands : BitVec 16) (rows : BitVec 64) : State :=
  command s h { opcode := 0x0201 } (1 ≤ bands.toNat && bands.toNat ≤ 8192 && rows != 0) true (fun s =>
    let known (r : Nat) : Bool := !rows.getLsbD r || (rowCfg? s r).isSome
    if id = 0 ∨ id = 0xFFFFFFFF ∨ (page? s id).isSome ∨ !(List.range 64).all known then complete s h 0x0201 stPage []
    else if 4096 ≤ s.pages.length then complete s h 0x0201 stTooMany []
    else finish { s with pages := s.pages ++ [⟨id, bands.toNat, rows⟩] } h 0x0201 [])

def execPageDefine (h : CmdHdr) (id : BitVec 32) (bands : BitVec 16) (rows : BitVec 64) (s : State) :
    Host.Outcome State Fault Refusal := .next (doPageDefine s h id bands rows)

/-- PAGE_DELETE frees every block of the page, those in a page cache too (R97, R387). -/
def doPageDelete (s : State) (h : CmdHdr) (id : BitVec 32) : State :=
  command s h { opcode := 0x0202 } true true (fun s =>
    if (page? s id).isNone ∨ jobPrints s id then complete s h 0x0202 stPage []
    else
      let s := deleteBlocks { s with pages := s.pages.filter (fun p => p.id != id) } (fun b => b.id.page == id)
      finish { s with closed := s.closed.filter (fun c => c.1 != id) } h 0x0202 [])

def execPageDelete (h : CmdHdr) (id : BitVec 32) (s : State) : Host.Outcome State Fault Refusal := .next (doPageDelete s h id)

/-- PAGE_INFO (R80, R387). -/
def doPageInfo (s : State) (h : CmdHdr) (id : BitVec 32) : State :=
  command s h { opcode := 0x0203 } true true (fun s =>
    match page? s id with
    | none => complete s h 0x0203 stPage []
    | some p =>
      let mine := s.blocks.filter (fun b => b.id.page == id && !b.cached && !b.old)
      let base := basesHeld s p
      finish s h 0x0203 (natLE 2 p.bands ++ (natLE 1 (pageRows p).length ++ (natLE 1 (if pageComplete s p then 1 else 0) ++
        (natLE 4 (basesRequired s p) ++ (natLE 4 (base.filter (fun b => !b.bad)).length ++
        (natLE 4 (mine.filter (fun b => b.bad)).length ++ natLE 4 (mine.filter (fun b => b.id.copy != 0)).length)))))))

def execPageInfo (h : CmdHdr) (id : BitVec 32) (s : State) : Host.Outcome State Fault Refusal := .next (doPageInfo s h id)

/-- OVERLAY_CLOSE closes the sets of a range of copies; sets already closed and copies already printed stay as they are
(R94, R387). -/
def doOverlayClose (s : State) (h : CmdHdr) (id first : BitVec 32) (count : BitVec 16) : State :=
  command s h { opcode := 0x0205 }
    (first != 0 && count != 0 && first.toNat + count.toNat ≤ 0xFFFFFFFF) true (fun s =>
    if (page? s id).isNone then complete s h 0x0205 stPage []
    else
      let s := (List.range count.toNat).foldl (fun s i =>
        let c := first + BitVec.ofNat 32 i
        if copyPast s id c then s else closeSet s id c) s
      finish s h 0x0205 [])

def execOverlayClose (h : CmdHdr) (id first : BitVec 32) (count : BitVec 16) (s : State) :
    Host.Outcome State Fault Refusal := .next (doOverlayClose s h id first count)

/-! ### Loading (R91, R92, R99, R388) -/

/-- Whether a HOST_IN channel of die 0 remains (R342). -/
def hasHostIn (s : State) : Bool := (List.range 32).any (fun c => let q := dmaAt s c; q.use == 2 && q.st != .fenced)

/-- Loads waiting, and blocks they may place: what `runLoads` may at most go through. -/
def loadFuel (s : State) : Nat := s.parked.length + 1

/-- LOAD_BLOCKS: parked, and run as far as it goes, after the loads before it (R378, R388). -/
def doLoadBlocks (s : State) (h : CmdHdr) (addr : BitVec 64) (len : BitVec 32) (flags : BitVec 16) (rd : HostRead) : State :=
  command s h { opcode := 0x0204, ring0 := false, long := true }
    (addr.toNat % 64 == 0 && len.toNat % 64 == 0 && flags.toNat < 4) true (fun s =>
    let s := riseReady s
    if !hasHostIn s then complete s h 0x0204 stNoChannel (loadResult 0 0 0 0xFF)
    else
      let w : LoadWait := match rd with
        | .data bs => { hdr := h, len := len.toNat, flags := flags, rest := bs.take len.toNat,
                        busError := decide (bs.length < len.toNat) }
        | .busError => { hdr := h, len := len.toNat, flags := flags, rest := [], busError := true }
      let s := park s (.load w)
      runLoads s (loadFuel s))

def execLoadBlocks (h : CmdHdr) (addr : BitVec 64) (len : BitVec 32) (flags : BitVec 16) (rd : HostRead) (s : State) :
    Host.Outcome State Fault Refusal := .next (doLoadBlocks s h addr len flags rd)

/-- LOAD_RESUME: loads that waited on a full page cache go on (R99). -/
def doLoadResume (s : State) : State := runLoads s (loadFuel s)

def execLoadResume (s : State) : Host.Outcome State Fault Refusal := .next (doLoadResume s)

/-- BLOCK_MOVE: a placed block moves to free space of its die; it is read from its old place until the move is complete, poison
goes with its bytes (R96, R308). -/
def doBlockMove (s : State) (d src dst : Nat) : State :=
  match s.blocks.find? (fun b => b.die == d && !b.cached && !b.old && b.addr == src && b.addr != 0) with
  | none => s
  | some b =>
    let len := pad64 b.blockLen
    let taken := (takenRuns s d false).filter (fun r => r.1 ≠ src)
    let free := dst % 64 = 0 ∧ storeBase ≤ dst ∧ dst + len ≤ dramEnd s d ∧
      taken.all (fun r => dst + len ≤ r.1 || r.1 + r.2 ≤ dst) ∧ (dst + len ≤ src ∨ src + len ≤ dst)
    if free then
      let s := dramTouch s d src len
      let bad := (List.range (len / 64)).filter (fun g => dramBad s d (src + 64 * g))
      let s := dramWr s d dst (dramRd s d src len)
      let s := bad.foldl (fun s g => let m := dramMap s d (dst + 64 * g); dramMark s d m.1 m.2) s
      let mv (o : Block) : Block := if o.die = d ∧ o.addr = src ∧ o.id = b.id then { o with addr := dst } else o
      { s with blocks := s.blocks.map mv,
               clauses := s.clauses.map (fun c => (c.1, { c.2 with input := c.2.input.map (fun i => { i with block := mv i.block }) })) }
    else s

def execBlockMove (die src dst : Nat) (s : State) : Host.Outcome State Fault Refusal := .next (doBlockMove s die src dst)

/-! ### The band fetch (R95, R108, R257, R258) -/

/-- Bytes of an input's mask plane. -/
def BandIn.maskLen (i : BandIn) : Nat := kindMask i.block.kind

/-- Whether an input is wholly fetched. -/
def BandIn.whole (i : BandIn) : Bool := i.block.payloadLen ≤ i.bytes.length && i.maskLen ≤ i.mask.length

/-- The decompressor that decodes an input (R106). -/
def inputDec (row : RowCfg) (i : BandIn) : Nat := if row.overlay then (if i.overlay then 1 else 0) else i.absBand % 8192 % 2

/-- The oldest checkpoint a re-run of a band might return to: the follower's line, else the replay line (R257). -/
def Decomp.oldest? (d : Decomp) (absBand : Nat) : Option Ckpt :=
  match d.following with
  | some k => if k.absBand = absBand then some k else d.ckpts.find? (fun q => q.absBand == absBand)
  | none => d.ckpts.find? (fun q => q.absBand == absBand)

/-- First stored byte of an input that may still be read: the rewind mark, or, in a band that has lost it, what the decompressor
has not read (R257, R258). -/
def inputMark (c : Clause) (row : RowCfg) (i : BandIn) : Nat :=
  let d := c.dec (inputDec row i)
  let live := if d.absBand = i.absBand ∧ d.busy then d.inPos
    else if d.started ∧ i.absBand ≤ d.absBand then i.block.payloadLen else 0
  if i.lost then live else match d.oldest? i.absBand with
    | some k => min k.inPos live
    | none => live

/-- The row line that prints line `n` of a band (R195, R392). -/
def bandRowLine (s : State) (r absBand n : Nat) : Nat :=
  match s.job with
  | some j => (rowTiming s r).ow + j.start (absBand / 8192) + 64 * (absBand % 8192) + n
  | none => 0

/-- Lines of a band that the clause has admitted. -/
def bandAdmitted (s : State) (x absBand : Nat) : Nat :=
  match clauseSlot? s x with
  | some g => min 64 ((clauseAt s x).nextLine - bandRowLine s g.row absBand 0)
  | none => 0

/-- First mask byte of an input that a line may still read: of the oldest line of the band that is neither Ready nor withheld, admitted or
not (R257). -/
def maskMark (s : State) (x : Nat) (i : BandIn) : Nat :=
  match (clauseAt s x).lines.find? (fun l => l.ofBand i.absBand && !l.settled) with
  | some l => match l.at_ with
    | some p => 256 * p.bandLine
    | none => 0
  | none => 256 * bandAdmitted s x i.absBand

/-- Bytes of the band ring that the clause's inputs hold. -/
def ringUsed (s : State) (x : Nat) : Nat :=
  let c := clauseAt s x
  (c.input.map (fun i => (i.bytes.length - inputMark c (clauseRow s x) i) + (i.mask.length - maskMark s x i))).sum

/-- Bytes of the band ring for input: the histories of compressed segments take 32 KiB of the 64 (R110; that they are set aside
whenever an input is compressed is the model's choice, assumption 8). -/
def ringRoom (c : Clause) : Nat := if c.input.all (fun i => i.block.raw) then 65536 else 32768

/-- Whether an input is done with: all its lines admitted and settled, past every cell, and out of the decompressor and its
follower. -/
def inputDone (s : State) (x : Nat) (i : BandIn) : Bool :=
  let c := clauseAt s x
  let row := clauseRow s x
  let d := c.dec (inputDec row i)
  let beyond : Bool := match (clauseSlot? s x).bind (fun g => placeRowLine s g.row c.nextLine) with
    | some p => decide (i.absBand < p.absBand)
    | none => true
  let ls := c.lines.filter (fun l => l.ofBand i.absBand)
  beyond && ls.all (fun l => l.settled && (List.range 16).all (fun n => l.q < (cellAt s (cellOfIx x n)).nextQ)) &&
    !(d.busy && d.absBand == i.absBand) && (d.oldest? i.absBand).isNone && (d.started && i.absBand ≤ d.absBand)

/-- Inputs that are done with leave the ring; superseded blocks no fetch reads are freed (R93). -/
def pruneInputs (s : State) (x : Nat) : State :=
  let done := (clauseAt s x).input.filter (inputDone s x)
  if done = [] then s
  else freeOld (modClause s x (fun c => { c with input := c.input.filter (fun i => !done.contains i) }))

/-- The next band to fetch for a clause: beyond the bands of a copy comes the next copy; none beyond the job, its boundary, or the
takeover line of a FENCING clause (R95, R266). -/
def fetchBand? (s : State) (x : Nat) : Option Nat :=
  let c := clauseAt s x
  match s.job, clauseSlot? s x with
  | some j, some g =>
    let i := c.nextBand / 8192
    let b := if j.bands.getD (i % j.np) 0 ≤ c.nextBand % 8192 then 8192 * (i + 1) else c.nextBand
    let cut : Bool := match c.endLine with
      | some e => (match placeRowLine s g.row e with | some p => decide (p.absBand ≤ b) | none => true)
      | none => false
    if j.st = .closed ∨ j.bound ≤ b / 8192 ∨ !j.rows.contains g.row ∨ cut then none else some b
  | _, _ => none

/-- Whether the overlay set of a job copy is still open: not closed and its page not declared without overlays (R94, R95). -/
def setOpen (s : State) (j : Job) (i : Nat) : Bool :=
  !s.closed.contains (j.pageOf i, BitVec.ofNat 32 (j.copyNo i)) && !j.noOverlay.getLsbD (i % j.np)

/-- A block becomes an input: its header is read (R82). A poisoned header poisons the segment's first bytes. -/
def openInput (s : State) (b : Block) (absBand : Nat) (ovl : Bool) : BandIn :=
  { block := b, absBand := absBand, overlay := ovl, hdr := dramRd s b.die b.addr 64,
    poison := if dramBad s b.die b.addr then [0] else [] }

/-- Open the next band: the base block and, on an overlay row, the copy's overlay block; wait while that is absent and the set is
open (R95). A header granule that is uncorrectable or stands poisoned makes its block BAD, and a BAD block's lines are withheld (R100). The
fetch waits while the channel retrains (R319). -/
def openBand (s : State) (x : Nat) : State :=
  match s.job, clauseSlot? s x, fetchBand? s x with
  | some j, some g, some b =>
    let i := b / 8192
    let id (copy : Word) : BlockId := ⟨j.pageOf i, copy, g.row, g.pos, b % 8192⟩
    match heldBlock? s (id 0) with
    | none => s
    | some base =>
      let ovl := if (rowCfg s g.row).overlay then heldBlock? s (id (BitVec.ofNat 32 (j.copyNo i))) else none
      if (rowCfg s g.row).overlay ∧ ovl.isNone ∧ setOpen s j i then modClause s x (fun c => { c with ovlWait := true })
      else
        let bs := base :: ovl.toList
        if bs.any (fun o => dramWaits s o.die o.addr 64) then s
        else
          let s := bs.foldl (fun s o => dramTouch s o.die o.addr 64) s
          let ins := openInput s base b false :: (match ovl with | some o => [openInput s o b true] | none => [])
          let s := modClause s x (fun c => { c with input := c.input ++ ins, nextBand := b + 1, ovlWait := false })
          let s := bs.foldl (fun s o => if dramBad s o.die o.addr then markBad s o else s) s
          if bs.any (fun o => o.bad) then withholdBad s x b else s
  | _, _, _ => s

/-- The next granule of an incomplete input: whether of its mask, and from where. Of a band's segments and mask, the one fetched
to the smaller part goes on (assumption 8). -/
def nextPiece? (c : Clause) : Option (BandIn × Bool) :=
  match c.input.find? (fun i => !i.whole) with
  | none => none
  | some i0 =>
    let ps : List (BandIn × Bool) := (c.input.filter (fun i => i.absBand == i0.absBand)).flatMap (fun i =>
      (if i.bytes.length < i.block.payloadLen then [(i, false)] else []) ++ (if i.mask.length < i.maskLen then [(i, true)] else []))
    let got (p : BandIn × Bool) : Nat := if p.2 then p.1.mask.length else p.1.bytes.length
    let all (p : BandIn × Bool) : Nat := if p.2 then p.1.maskLen else p.1.block.payloadLen
    ps.foldl (fun m p => match m with
      | none => some p
      | some q => if got p * all q < got q * all p then some p else some q) none

/-- Block offset of an input's next granule. -/
def pieceAt (i : BandIn) (isMask : Bool) : Nat := if isMask then i.block.maskAt + i.mask.length else 64 + i.bytes.length

/-- The part of a granule at block offset `at_` that belongs to a piece ends with the piece. -/
def pieceBytes (s : State) (i : BandIn) (isMask : Bool) : List Byte :=
  let at_ := pieceAt i isMask
  let n := if isMask then 64 else min 64 (i.block.payloadLen - i.bytes.length)
  dramRd s i.block.die (i.block.addr + at_) n

/-- A granule is written into the band ring (R86, R108, R258). One that is uncorrectable, or that stands poisoned, lands poisoned
and its block is marked BAD (R100, R309). With the last mask byte MASK_CRC is checked again (R87). -/
def fetchPiece (s : State) (x : Nat) (i : BandIn) (isMask : Bool) : State :=
  let at_ := pieceAt i isMask
  let s := dramTouch s i.block.die (i.block.addr + at_) 64
  let bad := dramBad s i.block.die (i.block.addr + at_)
  let bs := pieceBytes s i isMask
  let first := if isMask then i.mask.length / 8 else i.bytes.length / 8
  let marks := if bad then (List.range 8).map (fun n => first + n) else []
  let i' := if isMask then { i with mask := i.mask ++ bs, maskPoison := i.maskPoison ++ marks }
    else { i with bytes := i.bytes ++ bs, poison := i.poison ++ marks }
  let s := modClause s x (fun c => { c with input := c.input.map (fun j => if j = i then i' else j), rewindWait := false })
  let s := if bad then markBad s i.block else s
  if isMask ∧ i'.mask.length = i'.maskLen ∧ crc32c i'.mask ≠ i.block.maskCrc then
    blockFailed (codecError s x 1 1 0 63 i.absBand) x i.absBand
  else s

/-- Whether a clause fetches: it serves a slot, or is FENCING and expands on (R265-R267). -/
def fetches (s : State) (x : Nat) : Bool :=
  let c := clauseAt s x
  c.powered && (c.st == .serving || c.st == .fencing) && jobOpen s

/-- BAND_FETCH: the fetch writes its next granule of input, or opens the next band; it waits at the rewind mark, for an overlay
block, and while the granule's channel trains or retrains (R319). -/
def doBandFetch (s : State) (d k : Nat) : State :=
  let x := clauseIx d k
  if !fetches s x then s
  else
    let s := pruneInputs s x
    let c := clauseAt s x
    match nextPiece? c with
    | some (i, m) =>
      if ringRoom c < ringUsed s x + 64 then modClause s x (fun c => { c with rewindWait := true })
      else if dramWaits s i.block.die (i.block.addr + pieceAt i m) 64 then s
      else fetchPiece s x i m
    | none => openBand s x

def execBandFetch (die k : Nat) (s : State) : Host.Outcome State Fault Refusal := .next (doBandFetch s die k)

/-- OVERLAY_FETCH_RESUME: a fetch that waits for an overlay block goes on once the block is placed or the set is closed (R95). -/
def doOverlayFetchResume (s : State) (d k : Nat) : State :=
  let x := clauseIx d k
  if (clauseAt s x).ovlWait ∧ fetches s x then openBand s x else s

def execOverlayFetchResume (die k : Nat) (s : State) : Host.Outcome State Fault Refusal := .next (doOverlayFetchResume s die k)

/-- The oldest line of a clause that is neither Ready nor withheld. -/
def oldestUnready? (c : Clause) : Option (CLine × PLine) :=
  c.lines.findSome? (fun l => if l.settled then none else l.at_.map (fun p => (l, p)))

/-- The earliest band line whose input the next piece of an input brings: of a raw segment or a mask the line its next byte lies in; of a
compressed one the line its decompressor stands in (R258; assumption 8). -/
def pieceLine (c : Clause) (row : RowCfg) (p : BandIn × Bool) : Nat :=
  let i := p.1
  let lam := lineLen (kindCodes i.block.kind)
  let d := c.dec (inputDec row i)
  if p.2 then i.mask.length / 256
  else if i.block.raw then i.bytes.length / lam
  else if d.busy ∧ d.absBand = i.absBand then d.outPos / lam
  else 0

/-- Whether the earliest line whose input a waiting fetch is to write is within REWIND_GUARD lines of its deadline, the gather of head line
L + smin (R27, R258). -/
def guardReached (s : State) (x : Nat) : Bool :=
  let c := clauseAt s x
  match nextPiece? c, clauseSlot? s x with
  | some p, some g =>
    let L := bandRowLine s g.row p.1.absBand (pieceLine c (clauseRow s x) p)
    L + sminOf s g.die g.slot ≤ ((rowAt s g.row).gathered).getD 0 + (integ s).rewindGuard
  | _, _ => false

/-- What the loss of a band's mark leaves of a decompressor's replay: its follower stops, and the replay window is empty (R112). -/
def Decomp.markLost (d : Decomp) (absBand : Nat) : Decomp :=
  match d.following, d.ckpts with
  | some k, _ => if k.absBand = absBand then { d with following := none, replay := [], ckpts := d.ckpts.drop 1 } else d
  | none, k :: _ => if k.absBand = absBand then { d with replay := [] } else d
  | none, [] => if d.absBand = absBand then { d with replay := [] } else d

/-- REWIND_GUARD_REACHED: once the guard is reached the mark is forfeited for the band of the oldest unready line, counted and logged; the
followers stop in that band, and a re-run of it in progress is abandoned; the fetch overwrites and goes on (R112, R258, R259). -/
def doRewindGuardReached (s : State) (d k : Nat) : State :=
  let x := clauseIx d k
  let c := clauseAt s x
  if !c.rewindWait ∨ !guardReached s x then s
  else match oldestUnready? c with
    | none => setClause s x { c with rewindWait := false }
    | some (_, p) =>
      let b := p.absBand
      let s := setClause s x { c with rewindWait := false, rewind := satInc c.rewind, dec0 := c.dec0.markLost b,
                                      dec1 := c.dec1.markLost b,
                                      input := c.input.map (fun i => if i.absBand = b then { i with lost := true } else i) }
      let s := match clauseSlot? s x with
        | some g => logEv s g.die 0x0012 (lineData p.page p.copy g.row 0 g.pos (64 * p.band) 64)
        | none => s
      let run := ((clauseAt s x).lines.filter (fun l => l.ofBand b && (l.rerun || l.rerunWait) && !l.settled)).map (fun l => l.line)
      let s := run.foldl (fun s L => transientClause (withhold s x L 4) x) s
      match nextPiece? (clauseAt s x) with
      | some (i, m) => if dramWaits s i.block.die (i.block.addr + pieceAt i m) 64 then s else fetchPiece s x i m
      | none => s

def execRewindGuardReached (die k : Nat) (s : State) : Host.Outcome State Fault Refusal := .next (doRewindGuardReached s die k)

end Sys2Proof.Machine
end

