-- ==== Sys2Proof/Machine/Dram.lean ====
section
/-! DEFINITION. The DRAM controller's commands and events (R306-R323): register writes, requests and their schedule, reads and their
classes, refresh, drift, training, scrubbing and faults. -/

namespace Sys2Proof.Machine

/-- Whether a channel exists. -/
def ddrOk (s : State) (d ch : Nat) : Bool := dieOk s d && decide (ch < 2)

/-! ### Register writes (R323) -/

/-- DDR_CH_CTRL_CLR: DDR_ECC_CNT and DDR_ECC_ADDR are cleared. -/
def doDdrChCtrlClr (s : State) (d ch : Nat) : State :=
  if ddrOk s d ch then modDdr s (ddrIx d ch) (fun c => { c with corr := 0, uncorr := 0, misdir := 0, eccClass := 0, eccBlock := 0 }) else s

def execDdrChCtrlClr (die ch : Nat) (s : State) : Host.Outcome State Fault Refusal := .next (hostReg s die (fun s => doDdrChCtrlClr s die ch))

/-! ### Training helpers (R317) -/

/-- DDR_TRN_START: a training-helper run begins with the settings of DDR_TRN_CTRL; ignored while BUSY, while STATE is ACTIVE, and while a
Dialect is active (R323). -/
def doDdrTrnStart (s : State) (d ch : Nat) : State :=
  let c := ddrAt s (ddrIx d ch)
  if !ddrOk s d ch ∨ s.dia.valid ∨ c.trnRun.isSome ∨ c.st = .active ∨ c.st = .retired then s
  else setDdr s (ddrIx d ch) { c with trnRun := some c.trn }

def execDdrTrnStart (die ch : Nat) (s : State) : Host.Outcome State Fault Refusal := .next (hostReg s die (fun s => doDdrTrnStart s die ch))

/-- Beats of a 4 KiB row on 32 DQ bits. -/
def trnBeats : Nat := 1024

/-- The DQ bits of a beat of a pattern: SEED repeated, walking one, or one of those whose sequence the manual does not give (assumption 40). -/
def trnWord (pattern : BitVec 3) (seed : BitVec 16) (beat : Nat) : Word :=
  if pattern = 3 then seed ++ seed
  else if pattern = 2 then 1#32 <<< (beat % 32)
  else Config.trnBeat pattern seed beat

/-- The errors of a list at a beat. -/
def errAt (es : List (Nat × Word)) (beat : Nat) : Word := ((es.filter (fun e => e.1 == beat)).map (fun e => e.2)).foldl (fun a b => a ^^^ b) 0

/-- What a training row of channel `i` holds at a beat. -/
def rowBeat (i row : Nat) (r : TrnRow) (beat : Nat) : Word :=
  match r.blank with
  | some n => Config.trnBlank (16 * n + i) row beat
  | none => trnWord r.pattern r.seed beat ^^^ errAt r.errs beat

/-- A helper's errors in one row. -/
def errsOf (es : List TrnErr) (row : Nat) : List (Nat × Word) := (es.filter (fun e => e.row == row)).map (fun e => (e.beat, e.dq))

/-- The mismatches of a row against a pattern, beat by beat, `misread` being bits read wrong. -/
def rowDiffs (i row : Nat) (r : TrnRow) (t : TrnCtl) (misread : List (Nat × Word)) : List Word :=
  if r.blank = none ∧ r.pattern = t.pattern ∧ r.seed = t.seed then
    let es := r.errs ++ misread
    ((es.map (fun e => e.1)).eraseDups).map (errAt es)
  else (List.range trnBeats).map (fun b => rowBeat i row r b ^^^ trnWord t.pattern t.seed b ^^^ errAt misread b)

/-- Rows of a helper run: the one named, or with PRBS15 all 16 (R323). -/
def trnRowsOf (t : TrnCtl) : List Nat := if t.pattern = 1 then List.range 16 else [t.row.toNat]

/-- TRAIN_HELPER_DONE: a run ends: its rows written by the pattern generator, read back by the compare engine, or both, with the bits that
the channel wrote or read wrong; MASK and BITS take what the compare saw (R317, R323). -/
def doTrainHelperDone (s : State) (d ch : Nat) (wrote misread : List TrnErr) : State :=
  let i := ddrIx d ch
  let c := ddrAt s i
  match c.trnRun with
  | none => s
  | some t =>
    let rs := trnRowsOf t
    let rows := if t.op = 0 ∨ t.op = 2 then rs.foldl (fun m n => sput {} m n ⟨none, t.pattern, t.seed, errsOf wrote n⟩) c.trnRows else c.trnRows
    let diffs := if t.op = 0 ∨ t.op = 1 then rs.flatMap (fun n => rowDiffs i n (sget {} rows n) t (errsOf misread n)) else []
    setDdr s i { c with trnRun := none, trnRows := rows, trnMask := diffs.foldl (fun a b => a ||| b) 0,
                        trnBits := BitVec.ofNat 31 ((diffs.map popcount).sum) }

def execTrainHelperDone (die ch : Nat) (wrote misread : List TrnErr) (s : State) : Host.Outcome State Fault Refusal :=
  .next (doTrainHelperDone s die ch wrote misread)

/-- The die manager's training and row repairs leave bits in the training rows that the manual does not give (R317, R320; assumption 40). -/
def spoilRows (s : State) (d ch : Nat) : State :=
  let n := s.free
  modDdr { s with free := n + 1 } (ddrIx d ch) (fun c =>
    { c with trnRows := (List.range 16).foldl (fun m r => sput {} m r { blank := some (n + 1) }) [] })

/-! ### Places -/

/-- Channel offset of a die address on a channel (R305). -/
def chOff (s : State) (d a : Nat) : Nat := (dramMap s d a).2

/-- Write bytes of one block at a channel offset (R308). -/
def chanWr (s : State) (d ch off : Nat) (bs : List Byte) : State :=
  let whole := decide (off % 64 = 0 ∧ 64 ≤ bs.length)
  let s := blkOpen s d ch off whole
  blkClose { s with dram := wrN s.dram (dramKey d ch off) bs } d ch off whole

/-! ### Requests (R310, R311) -/

/-- Request classes (R310). -/
inductive DClass where
  | deadline
  | bulk
  | management
deriving DecidableEq, Repr

/-- The class of a request, by who asks. -/
def reqClass (r : DReq) : DClass :=
  match r.reader with
  | .band _ => .deadline
  | .cache => .bulk
  | .dma _ => .bulk
  | .bar2 => .bulk
  | .manager => .management
  | .scrubber => .management

/-- Depth of a class's queue in a channel. -/
def DClass.depth : DClass → Nat
  | .deadline => 64 | .bulk => 32 | .management => 16

/-- The order in which requests of one cycle enter: management, bulk, deadline. -/
def sameCycle (rs : List DReq) : List DReq :=
  [.management, .bulk, .deadline].flatMap (fun (k : DClass) => rs.filter (fun r => reqClass r == k))

/-- The earliest band line that bytes of an input from a block offset on feed: a header's the first; of a mask or raw segment the line they
lie in; of a compressed segment the line its decompressor stands in (R311; assumption 8). -/
def feedsLine (c : Clause) (row : RowCfg) (i : BandIn) (at_ : Nat) : Nat :=
  if at_ < 64 then 0
  else if kindMask i.block.kind ≠ 0 ∧ i.block.maskAt ≤ at_ then (at_ - i.block.maskAt) / 256
  else if i.block.raw then (at_ - 64) / lineLen (kindCodes i.block.kind)
  else pieceLine c row (i, false)

/-- Slack of a band fetch: row lines from the row's last committed line to the deadline of the earliest line that the bytes feed, the gather
of head line L + smin; a block that is not open yet is the next band's (R27, R311). -/
def slackOf (s : State) (d : Nat) (r : DReq) : Nat :=
  match r.reader with
  | .band k =>
    let x := clauseIx d k
    let c := clauseAt s x
    match clauseSlot? s x with
    | none => 0
    | some g =>
      let line := match c.input.find? (fun i => i.block.die == d && decide (i.block.addr ≤ r.addr ∧ r.addr < i.block.addr + i.block.blockLen)) with
        | some i => bandRowLine s g.row i.absBand (feedsLine c (clauseRow s x) i (r.addr - i.block.addr))
        | none => bandRowLine s g.row c.nextBand 0
      line + sminOf s g.die g.slot - ((rowAt s g.row).committed).getD 0
  | _ => 0

/-- Whether a channel's queue for a request's class has room; a retired channel takes none. -/
def queueRoom (c : DdrCh) (k : DClass) : Bool := decide ((c.queue.filter (fun q => reqClass q.req == k)).length < DClass.depth k)

/-- The channels a request goes to: a write to the management region both, any other access one (R310). -/
def reqPlaces (s : State) (d : Nat) (r : DReq) : List Nat :=
  ((if r.write then dramPlaces s d r.addr else [dramMap s d r.addr]).map (fun p => p.1)).filter (fun ch => !ddrRetired s d ch)

/-- A request enters its channels together, with its slack and the time. -/
def enterReq (s : State) (d : Nat) (r : DReq) : State :=
  (reqPlaces s d r).foldl (fun s ch => modDdr s (ddrIx d ch) (fun c => { c with queue := c.queue ++ [⟨r, slackOf s d r, s.tb⟩] })) s

/-- Requests of a die that wait for room enter as it comes, those of a class in turn (R310). -/
def enterHeld (s : State) (d : Nat) : State :=
  (s.dramHeld.filter (fun p => p.1 == d)).foldl (fun s p =>
    let r := p.2
    let first := (s.dramHeld.find? (fun q => q.1 == d && reqClass q.2 == reqClass r)).map (fun q => q.2)
    if first = some r ∧ (reqPlaces s d r).all (fun ch => queueRoom (ddrAt s (ddrIx d ch)) (reqClass r)) then
      enterReq { s with dramHeld := s.dramHeld.erase p } d r
    else s) s

/-- Whether a request is one that R310 describes, under a number that no other request of its die bears. -/
def reqStands (s : State) (d : Nat) (r : DReq) : Bool :=
  r.len != 0 && r.addr / 512 == (r.addr + r.len - 1) / 512 && decide (r.addr + r.len ≤ dramEnd s d) &&
    !(s.dramHeld.any (fun p => p.1 == d && p.2.id == r.id)) &&
    [0, 1].all (fun ch => let c := ddrAt s (ddrIx d ch); !(c.queue.any (fun q => q.req.id == r.id)) && !(c.issued.any (fun q => q.id == r.id)))

/-- DRAM_REQUEST: the requests of one cycle enter; one whose queue is full waits for room (R310). -/
def doDramRequest (s : State) (d : Nat) (rs : List DReq) : State :=
  if !dieOk s d then s
  else enterHeld ((sameCycle rs).foldl (fun s r => if reqStands s d r then { s with dramHeld := s.dramHeld ++ [(d, r)] } else s) s) d

def execDramRequest (die : Nat) (rs : List DReq) (s : State) : Host.Outcome State Fault Refusal := .next (doDramRequest s die rs)

/-! ### Bursts (R311-R313) -/

/-- Urgency level of a slack (R311). -/
def urgency (c : DdrCh) (slack : Nat) : Nat :=
  if slack ≤ c.sc0.toNat then 0 else if slack ≤ c.sc1.toNat then 1 else if slack ≤ c.sc2.toNat then 2 else 3

/-- Whether a deadline request has waited longer than AGE x 16 DDR cycles: a tick holds rate/2,000 of them (R303, R311). -/
def promoted (s : State) (c : DdrCh) (w : DWait) : Bool :=
  reqClass w.req == .deadline && decide (16 * c.age.toNat * 2000 < (s.tb - w.since) * s.boot.ddrRate.toNat)

/-- Whether a request reaches a block. -/
def reqCovers (r : DReq) (blk : Nat) : Bool := decide (r.addr / 64 ≤ blk ∧ blk ≤ (r.addr + r.len - 1) / 64)

/-- The requests that entered before one. -/
def olderThan (q : List DWait) (w : DWait) : List DWait := q.takeWhile (fun o => o.req.id != w.req.id)

/-- Whether an older request of the channel still has to reach the block of a request's next burst (R313). -/
def heldBack (q : List DWait) (w : DWait) : Bool := (olderThan q w).any (fun o => reqCovers o.req (w.req.addr / 64))

/-- The pending writes that a held read waits on: those that entered up to and with the last one to the block of its next burst (R313). -/
def awaited (q : List DWait) (w : DWait) : List DWait :=
  if w.req.write then []
  else (((olderThan q w).reverse.dropWhile (fun o => !(o.req.write && reqCovers o.req (w.req.addr / 64)))).filter (fun o => o.req.write)).reverse

/-- Whether a burst to a row would be the 17th hit in a row while an older request to another row of its bank waits (R312). -/
def hitLimit (s : State) (d : Nat) (c : DdrCh) (w : DWait) : Bool :=
  let off := chOff s d w.req.addr
  let b := ddrBank off
  sget 0 c.openRow b == ddrRow off + 1 && decide (16 ≤ sget 0 c.bankHits b) &&
    (olderThan c.queue w).any (fun o => let p := chOff s d o.req.addr; ddrBank p == b && ddrRow p != ddrRow off)

/-- Whether a request's next burst hits its bank's open row. -/
def rowHit (s : State) (d : Nat) (c : DdrCh) (w : DWait) : Bool :=
  let off := chOff s d w.req.addr
  sget 0 c.openRow (ddrBank off) == ddrRow off + 1

/-- Row hits first, then the oldest. -/
def hitsFirst (s : State) (d : Nat) (c : DdrCh) (ws : List DWait) : Option DWait :=
  match ws.find? (rowHit s d c) with
  | some w => some w
  | none => ws.head?

/-- The deadline request served: the oldest promoted one, else the lowest level, row hits first, then the oldest (R311). -/
def pickDeadline (s : State) (d : Nat) (c : DdrCh) (ws : List DWait) : Option DWait :=
  match ws.find? (promoted s c) with
  | some w => some w
  | none => (List.range 4).findSome? (fun u => hitsFirst s d c (ws.filter (fun w => urgency c w.slack == u)))

/-- A burst slot: the class it goes to, the request whose burst takes it, and the writes left of a batch. -/
structure Slot where
  cls : DClass
  wait : DWait
  batch : Nat

/-- The burst that a read takes: its own, or, while pending writes hold it, the oldest of those that can issue (R313). -/
def standsFor (can : List DWait) (q : List DWait) (w : DWait) : Option DWait :=
  if can.contains w then some w else (awaited q w).find? (fun o => can.contains o)

/-- The request whose burst takes the next slot. The deadline class has it whenever it can issue, save after DL_RUN of its slots in a row
while another waits; then management and bulk, alternately when both wait (R312). In their slots writes issue in batches of up to 16, once 16
are pending or no read of theirs can issue (R313; assumption 40). `ready` are requests that the devices' timing allows. -/
def pickSlot (s : State) (d : Nat) (c : DdrCh) (ready : List Nat) : Option Slot :=
  let can := c.queue.filter (fun w => ready.contains w.req.id && !heldBack c.queue w && !hitLimit s d c w)
  let reads (k : DClass) : List DWait := c.queue.filter (fun w => reqClass w.req == k && !w.req.write && (standsFor can c.queue w).isSome)
  let writes (k : DClass) : List DWait := can.filter (fun w => reqClass w.req == k && w.req.write)
  let pending := (c.queue.filter (fun w => w.req.write)).length
  let both (f : DClass → List DWait) : List DWait := f .management ++ f .bulk
  let drain : Bool := decide (0 < c.batch) || decide (16 ≤ pending) || (both reads).isEmpty
  let left : Nat := if 0 < c.batch then c.batch - 1 else min 16 pending - 1
  let of_ (k : DClass) : Option Slot :=
    if drain && !(both writes).isEmpty then (hitsFirst s d c (writes k)).map (fun w => ⟨k, w, left⟩)
    else (hitsFirst s d c (reads k)).bind (fun w => (standsFor can c.queue w).map (fun o => ⟨k, o, 0⟩))
  let dl := (pickDeadline s d c (reads .deadline)).bind (fun w => (standsFor can c.queue w).map (fun o => (⟨.deadline, o, c.batch⟩ : Slot)))
  let other := match of_ .management, of_ .bulk with
    | some m, some b => some (if c.mgtTurn then m else b)
    | some m, none => some m
    | none, b => b
  match dl, other with
  | some x, some y => if c.run < c.dlRun.toNat then some x else some y
  | some x, none => some x
  | none, y => y

/-- A request after its next burst, or none left of it. -/
def restOf (r : DReq) : Option DReq :=
  let n := 64 - r.addr % 64
  if r.len ≤ n then none else some { r with addr := r.addr + n, len := r.len - n, data := r.data.drop n }

/-- Whether a write has reached every channel it goes to. -/
def writeDone (s : State) (d id : Nat) : Bool :=
  [0, 1].all (fun ch => !((ddrAt s (ddrIx d ch)).queue.any (fun w => w.req.id == id)))

/-- DRAM_BURST_ISSUE: the controller issues one burst of the request it chooses, and requests that wait for room enter. A write reaches the
device, and completes once every channel has it; a read is on its way. While the channel trains or retrains its requests wait (R310-R313,
R319). -/
def doDramBurstIssue (s : State) (d ch : Nat) (ready : List Nat) : State :=
  let c := ddrAt s (ddrIx d ch)
  if c.st ≠ .active then s
  else match pickSlot s d c ready with
    | none => s
    | some t =>
      let r := t.wait.req
      let off := chOff s d r.addr
      let b := ddrBank off
      let n := min r.len (64 - r.addr % 64)
      let hit := rowHit s d c t.wait
      let q := match restOf r with
        | some x => c.queue.map (fun o => if o.req.id = r.id then { o with req := x } else o)
        | none => c.queue.filter (fun o => o.req.id != r.id)
      let c := { c with queue := q, batch := t.batch, run := if t.cls = .deadline then c.run + 1 else 0,
                        mgtTurn := if t.cls = .management then false else if t.cls = .bulk then true else c.mgtTurn,
                        openRow := sput 0 c.openRow b (ddrRow off + 1), bankHits := sput 0 c.bankHits b (if hit then sget 0 c.bankHits b + 1 else 0),
                        issued := if r.write then c.issued else c.issued ++ [{ r with len := n, data := [] }] }
      let s := setDdr s (ddrIx d ch) c
      let s := if r.write then chanWr s d ch off ((r.data ++ List.replicate n 0).take n) else s
      let s := if r.write ∧ writeDone s d r.id then emit s (.dramDone d r.id) else s
      enterHeld s d

def execDramBurstIssue (die ch : Nat) (ready : List Nat) (s : State) : Host.Outcome State Fault Refusal :=
  .next (doDramBurstIssue s die ch ready)

/-! ### Channel faults (R321) -/

/-- A retrain that passes settles the pending fault: transient, or, within MEM_WIN of the transient fault before it, permanent, which retires
the channel (R260, R321). -/
def settleDram (s : State) (d ch : Nat) : State :=
  match (ddrAt s (ddrIx d ch)).faultAt with
  | none => s
  | some t =>
    if faultRepeats s (.dram d ch) t ((integ s).memWin * secTicks) then retireDram s d ch 1
    else modDdr (noteTransient s (.dram d ch) t) (ddrIx d ch) (fun c => { c with faultAt := none })

/-! ### Reads (R307, R309) -/

/-- The placed block that a band fetch or a DMA channel was reading is marked BAD (R100, R309). -/
def readerHit (s : State) (d : Nat) (r : DReq) : State :=
  match r.reader with
  | .band _ => markAt s d r.addr
  | .dma _ => markAt s d r.addr
  | _ => s

/-- DRAM_READ_COMPLETE: the oldest read burst of a channel returns, more bits of its block and record being read flipped; it delivers the
bytes as its class says. An uncorrectable block of the management region is delivered from the other copy when that is good. -/
def doDramReadComplete (s : State) (d ch : Nat) (flip : BitVec 512) (rec_ : BitVec 64) : State :=
  let c := ddrAt s (ddrIx d ch)
  match c.issued with
  | [] => s
  | r :: rest =>
    let s := setDdr s (ddrIx d ch) { c with issued := rest }
    let off := chOff s d r.addr
    let l := blkLook s d ch off flip rec_
    let poor := l.1 = .uncorrectable ∨ l.1 = .misdirected
    let good := if poor then goodCopy? s d ch off else none
    let bad : Bool := l.1 == .poisoned || (decide poor && good.isNone)
    let bytes := slice (natLE 64 (good.getD l.2).toNat) (off % 64) r.len
    let s := emit (blkRead s d ch off flip rec_) (.dramData d r.id bytes bad)
    if bad then readerHit s d r else s

def execDramReadComplete (die ch : Nat) (flip : BitVec 512) (flipRec : BitVec 64) (s : State) : Host.Outcome State Fault Refusal :=
  .next (doDramReadComplete s die ch flip flipRec)

/-! ### Refresh and drift (R314-R316) -/

/-- Whether a U0 or promoted request waits for a bank (R315). -/
def urgentFor (s : State) (d : Nat) (c : DdrCh) (bank : Nat) : Bool :=
  c.queue.any (fun w => ddrBank (chOff s d w.req.addr) == bank && reqClass w.req == .deadline && (urgency c w.slack == 0 || promoted s c w))

/-- Whether the controller of a channel works its devices: trained, and not in Sleep's self-refresh (R464). -/
def ddrRuns (s : State) (c : DdrCh) : Bool := (c.st == .active || c.st == .retrain) && s.power.st != .sleep && s.power.st != .dormant

/-- REFRESH: a bank's refresh interval expires, or a refresh issues, or both. A refresh is postponed only while an urgent request waits
for the bank and fewer than 8 intervals are owed; it is pulled in only while the bank is idle, at most 8 ahead (R315). -/
def doRefresh (s : State) (d ch bank : Nat) (expired issued : Bool) : State :=
  let c := ddrAt s (ddrIx d ch)
  if !ddrRuns s c ∨ 16 ≤ bank then s
  else
    let debt := sget 0 c.debts bank
    let due : Int := if expired then debt + 1 else debt
    let idle := !c.queue.any (fun w => ddrBank (chOff s d w.req.addr) == bank)
    let must : Bool := decide (0 < due) && expired && (!urgentFor s d c bank || decide (8 ≤ due))
    let may : Bool := issued && (decide (0 < due) || (idle && decide (-8 < due)))
    if must || may then setDdr s (ddrIx d ch) { c with debts := sput 0 c.debts bank (due - 1), openRow := sput 0 c.openRow bank 0 }
    else setDdr s (ddrIx d ch) { c with debts := sput 0 c.debts bank due }

def execRefresh (die ch bank : Nat) (expired issued : Bool) (s : State) : Host.Outcome State Fault Refusal :=
  .next (doRefresh s die ch bank expired issued)

/-- The rate a device's MR4 field requests, in the codes of MIN_RATE. -/
def mr4Code (v : BitVec 4) : BitVec 3 := let r := Config.mr4Rate v; if 4 < r.toNat then 4 else r

/-- MR4_POLL: the higher request of the two devices stands; above the devices' range it is 4x (R314). -/
def doMr4Poll (s : State) (d ch : Nat) (dev0 dev1 : BitVec 4) (hot : Bool) : State :=
  let c := ddrAt s (ddrIx d ch)
  if !ddrRuns s c then s
  else
    let v := if (mr4Code dev1).toNat ≤ (mr4Code dev0).toNat then dev0 else dev1
    let s := setDdr s (ddrIx d ch) { c with mr4 := v, asks := if hot then 4 else mr4Code v, hot := c.hot || hot }
    if hot then logEv s d 0x0024 (unitData 4 0 ch 0 0 (natLE 1 v.toNat)) else s

def execMr4Poll (die ch : Nat) (dev0 dev1 : BitVec 4) (hot : Bool) (s : State) : Host.Outcome State Fault Refusal :=
  .next (doMr4Poll s die ch dev0 dev1 hot)

/-- DRIFT_CHECK: the delays follow the drift as far as DRIFT_MAX; a correction that would pass it stops at it, is logged PINNED, and a
fast retrain is asked for (R316, R459). -/
def doDriftCheck (s : State) (d ch : Nat) (want : Int) : State :=
  let c := ddrAt s (ddrIx d ch)
  if !ddrRuns s c then s
  else
    let lim : Int := c.driftMax.toNat
    let got := max (-lim) (min lim want)
    if got = want then setDdr s (ddrIx d ch) { c with drift := got }
    else
      logEv (setDdr s (ddrIx d ch) { c with drift := got, pinned := true, wantRetrain := true }) d 0x0026
        (valueData 4 (2 * d + ch) (BitVec.ofInt 32 want).toNat (BitVec.ofInt 32 got).toNat)

def execDriftCheck (die ch : Nat) (want : Int) (s : State) : Host.Outcome State Fault Refusal := .next (doDriftCheck s die ch want)

/-! ### Retrains and training (R317-R319, R321) -/

/-- A row's soft post-package repair at a fast retrain: saved in the training area and restored with correction; a bank whose resource is
spent logs REPAIR_FULL (R320). -/
def repairRow (s : State) (d ch row : Nat) : State :=
  let c := ddrAt s (ddrIx d ch)
  if c.repaired.contains row then s
  else if Config.pprPerBank ≤ (c.repaired.filter (fun r => r % 16 == row % 16)).length then
    logEv s d 0x0021 (memData 7 ch 0 (dramAddrOf s d ch (3584 * row)))
  else
    let s := setDdr s (ddrIx d ch) { c with repaired := c.repaired ++ [row], stuck := satInc c.stuck }
    let s := if s.dramFlips = [] then s else (List.range 56).foldl (fun s b =>
      let off := 3584 * row + 64 * b
      let r := blkLook s d ch off 0 0
      putBlk (chkDrop s d ch off) d ch off r.2 (r.1 == .poisoned || r.1 == .uncorrectable || r.1 == .misdirected) (0, 0)) s
    spoilRows s d ch

/-- Once a retrain has passed and the channel is not retired for it: the command that asked for it completes, and another that waits starts
the next. -/
def retrainPassed (s : State) (d ch : Nat) : State :=
  let s := settleDram s d ch
  if ddrRetired s d ch then s
  else
    let s := modDdr s (ddrIx d ch) (fun c => { c with st := .active, wantRetrain := false, trainTries := 0, mustTrain := false })
    let s := endRetrain s d ch stOk
    if s.parked.any (Parked.isRetrain d ch) then modDdr s (ddrIx d ch) (fun c => { c with st := .retrain }) else s

/-- FAST_RETRAIN_DONE: a fast retrain under way passes, with the rows repaired that waited for it; one that fails is a channel fault and the
channel trains fully at once (R319, R321). -/
def doFastRetrainDone (s : State) (d ch : Nat) (ok : Bool) : State :=
  let c := ddrAt s (ddrIx d ch)
  if c.st ≠ .retrain then s
  else if ok then
    let s := setDdr s (ddrIx d ch) { c with repairs := [] }
    retrainPassed (c.repairs.foldl (fun s r => repairRow s d ch r) s) d ch
  else modDdr (channelFault s d ch) (ddrIx d ch) (fun c => { c with st := .train, trainTries := 0, mustTrain := true })

def execFastRetrainDone (die ch : Nat) (ok : Bool) (s : State) : Host.Outcome State Fault Refusal := .next (doFastRetrainDone s die ch ok)

/-- FULL_TRAINING_DONE: settings that pass are kept and stored at once (R318, R457); a failure is repeated once, and a second retires the
channel for want of a setting, which in start-up fails a die whose other channel is retired too (R317, R321, R473). The data stays in
place. -/
def doFullTrainingDone (s : State) (d ch : Nat) (ok : Bool) (settings : List Byte) : State :=
  let c := ddrAt s (ddrIx d ch)
  if c.st ≠ .train then s
  else if ok then
    let s := setDdr { s with cal := { s.cal with atOnce := true } } (ddrIx d ch) { c with settings := settings, drift := 0 }
    retrainPassed (spoilRows (putResult s 3 (2 * d + ch) (trainRecord s d ch settings)) d ch) d ch
  else if c.trainTries = 0 then setDdr s (ddrIx d ch) { c with trainTries := 1 }
  else
    let s := retireDram s d ch 3
    if s.power.st = .starting ∧ ddrRetired s d (1 - ch) then dieFails s (d, 6) else s

def execFullTrainingDone (die ch : Nat) (ok : Bool) (settings : List Byte) (s : State) : Host.Outcome State Fault Refusal :=
  .next (doFullTrainingDone s die ch ok settings)

/-! ### Scrubbing (R320) -/

/-- The tracked block of the lowest count, the oldest of equals (R291). -/
def dramVictim : List (Nat × Nat) → Option Nat
  | [] => none
  | p :: ps => some (ps.foldl (fun m q => if q.2 < m.2 then q else m) p).1

/-- The tracker after a scrub write-back of a block. -/
def dramTrack (t : List (Nat × Nat)) (blk : Nat) : List (Nat × Nat) :=
  if t.any (fun p => p.1 == blk) then t.map (fun p => if p.1 = blk then (blk, p.2 + 1) else p)
  else
    let old := if t.length < 16 then t else match dramVictim t with
      | some v => t.filter (fun p => p.1 != v)
      | none => t
    old ++ [(blk, 1)]

/-- A block the scrubber corrects: written back whole unless another master has written it since the read; one that needs correction again
after three write-backs has its row repaired at the next fast retrain. -/
def scrubDram (s : State) (d ch off : Nat) (rewritten : Bool) : State :=
  let blk := off / 64
  let row := ddrRow off
  let s := if rewritten then s else putBlk (chkDrop s d ch off) d ch off (blkLook s d ch off 0 0).2 false (0, 0)
  modDdr s (ddrIx d ch) (fun c =>
    let n := ((c.tracker.find? (fun p => p.1 == blk)).map (fun p => p.2)).getD 0
    { c with tracker := if rewritten then c.tracker else dramTrack c.tracker blk,
             repairs := if n = 3 ∧ !c.repairs.contains row ∧ !c.repaired.contains row then c.repairs ++ [row] else c.repairs })

/-- One block of the unit read: corrected and written back; uncorrectable: poisoned, logged, and a placed block marked BAD; a clean block's
tracker entry is freed (R100, R290, R291, R320). -/
def scrubBlk (s : State) (d ch off : Nat) (rewritten : Bool) : State :=
  let cls := (blkLook s d ch off 0 0).1
  let r := blkRead s d ch off 0 0
  match cls with
  | .clean => modDdr r (ddrIx d ch) (fun c => { c with tracker := c.tracker.filter (fun p => p.1 != off / 64) })
  | .corrected => scrubDram r d ch off rewritten
  | .checkBit => scrubDram r d ch off rewritten
  | .poisoned => r
  | _ =>
    let a := dramAddrOf s d ch off
    let r := logEv r d 0x0020 (memData 7 ch 0 a)
    if blkBad r d ch off then markAt r d a else r

/-- Bits of a channel flip. -/
def dramUpset (s : State) (d ch : Nat) (u : DramUpset) : State :=
  let f := blkFlips s d ch u.off
  setBlkFlips s d ch u.off (f.1 ^^^ u.data, f.2 ^^^ u.record)

/-- DDR_SCRUB_READ: bits of a channel have flipped, and its scrubber reads its next unit, all 8 blocks; `rewritten` are those that another
master writes between the read and the write-back. The walk covers the channel's data space (R320). -/
def doDdrScrubRead (s : State) (d ch : Nat) (upsets : List DramUpset) (rewritten : List Nat) : State :=
  if !ddrOk s d ch then s
  else
    let s := (upsets.filter (fun u => decide (u.off < ddrData s d))).foldl (fun s u => dramUpset s d ch u) s
    let c := ddrAt s (ddrIx d ch)
    if !ddrRuns s c ∨ c.st ≠ .active ∨ !c.scrEnable then s
    else
      let unit := c.scrNext
      let s := setDdr s (ddrIx d ch) { c with scrNext := if 512 * (unit + 1) < ddrData s d then unit + 1 else 0 }
      (List.range 8).foldl (fun s b => scrubBlk s d ch (512 * unit + 64 * b) (rewritten.contains b)) s

def execDdrScrubRead (die ch : Nat) (upsets : List DramUpset) (rewritten : List Nat) (s : State) : Host.Outcome State Fault Refusal :=
  .next (doDdrScrubRead s die ch upsets rewritten)

end Sys2Proof.Machine
end

