-- ==== Sys2Proof/Machine/Gather.lean ====
section
/-! DEFINITION. The output gather (R199, R206, R237, R238, R343-R345): head lines from the clauses' output rings, and their places freed at
the fire instants. -/

namespace Sys2Proof.Machine

/-! ### Codes (R199, R288, R394) -/

/-- What the gather finds for a nozzle: a code, a poisoned block of a copy, or a line that is neither Ready nor withheld yet. -/
inductive CodeRead where
  | code (c : BitVec 4)
  | poison (copy : Option Nat)
  | wait
deriving DecidableEq, Repr

/-- The code of column `col` of a clause line (R85, R251). -/
def CLine.codeAt (l : CLine) (col : Nat) : BitVec 4 := (sget 0 l.codes (col / 16)).extractLsb' (4 * (col % 16)) 4

/-- Whether a clause line's codes are read as zeros: withheld, or beyond the boundary of a stop (R28, R394). -/
def zeroLine (s : State) (l : CLine) : Bool :=
  l.st == .withheld || (match s.job, l.at_ with
    | some j, some p => decide (j.bound ≤ p.jobCopy)
    | _, _ => false)

/-- The code of R199 for package nozzle `n` in clause line `Lc`. A line that no ring holds reads as zeros, but head line 0 waits for the
lines it reads (R25, R27). -/
def readCode (s : State) (row n Lc : Nat) (first : Bool) : CodeRead :=
  match slotLine? s (n / 131072) (n / 2048 % 64) Lc with
  | none => if first && (placeRowLine s row Lc).isSome then .wait else .code 0
  | some (_, l) =>
    if !l.settled then .wait
    else if zeroLine s l then .code 0
    else if l.poison.contains (n % 2048 / 16) then .poison (l.at_.map (fun p => p.jobCopy))
    else .code (l.codeAt (n % 2048))

/-- What head nozzle `i` of a channel reads in head line `F`. -/
def nozRead (s : State) (p : ParamRec) (row F i : Nat) : CodeRead :=
  let e := nozEntry p i
  if e.unused || F < e.stagger then .code 0 else readCode s row e.nozzle (F - e.stagger) (F == 0)

/-- Whether head lines of a row from `F` on hold zeros after a NOW stop (R394). -/
def stoppedNow (s : State) (row F : Nat) : Bool :=
  match s.job with
  | some j => j.now_ && (match (rowAt s row).nowLine with | some n => decide (n < F) | none => true)
  | none => true

/-- The head line that a channel gathers: its oldest not yet done. -/
def gathering? (s : State) (h : Nat) : Option HeadLine := (headAt s h).lines.find? (fun l => !l.done && !l.spit)

/-- Whether the link lets a channel gather: its transmit path takes blocks, and no lower channel of the link still has some to gather
(R343). -/
def linkAsserts (s : State) (h : Nat) : Bool :=
  let more (q : Nat) : Bool := mayTransmit s q && (match gathering? s q with | some l => decide (l.codes.length < l.total) | none => false)
  match headLink? s h with
  | some (d, l) => more h && (linkHeads s d l).all (fun q => h ≤ q || !more q)
  | none => false

/-- The block of a die's banks that holds a nozzle's entry (R344). -/
def nozBlk (h i : Nat) : Nat := 0xE0000 + Config.nozzleBlock h i % 0x18000

/-- The block of a die's banks that holds the inflection entry for a code and a history (R206, R344). -/
def inflBlk (row : Nat) (cool : Bool) (q hist : BitVec 4) : Nat := 0xE0000 + Config.inflBlock row cool (q.toNat * 2 + hist.toNat / 8) % 0x18000

/-- What the next block of a channel's head line finds for its head nozzles. -/
def blockReads (s : State) (p : ParamRec) (hl : HeadLine) : List (Nat × CodeRead) :=
  let row := nozRow p
  let zero := stoppedNow s row hl.line
  (List.range (min 16 (hl.total - hl.codes.length))).map (fun k =>
    let i := hl.codes.length + k
    (i, if zero then CodeRead.code 0 else nozRead s p row hl.line i))

/-- Whether a head channel's GATHER channel is ready: its link asserts LINK, and no line it reads is still awaited (R25, R334, R343). -/
def gatherReady (s : State) (h : Nat) : Bool :=
  match gathering? s h, nozTable? s h with
  | some hl, some p => linkAsserts s h && !(blockReads s p hl).any (fun r => r.2 == .wait)
  | _, _ => false

/-- The GATHER channel that a die's gather mover serves: the first ready one of the highest level, from where the level's round stands; a
link offers one channel at a time, so that the round goes over links (R334, R343). -/
def pickGather? (s : State) (d : Nat) : Option Nat :=
  (List.range 4).findSome? (fun lvl =>
    let from_ := sget 0 (dmaDieAt s d).lastGath lvl
    ((List.range 32).map (fun j => (from_ + j) % 32)).find? (fun c =>
      let q := dmaAt s (dmaIx d c)
      q.use == 1 && q.st != .fenced && q.prio.toNat == lvl && gatherReady s q.arg))

/-- The head channel is the one that its die's gather mover serves now. -/
def gatherServed (s : State) (h : Nat) : Bool :=
  match gatherCh? s h with
  | some (d, c) => pickGather? s d == some c
  | none => false

/-- The mover's round goes on after the channel served. -/
def gatherTurn (s : State) (h : Nat) : State :=
  match gatherCh? s h with
  | some (d, c) =>
    let e := dmaDieAt s d
    setDmaDie s d { e with lastGath := sput 0 e.lastGath (dmaAt s (dmaIx d c)).prio.toNat ((c + 1) % 32) }
  | none => s

/-- The gather reads the history of 16 head nozzles: a poisoned block reads as H = 0 and is logged HIST_POISON; it stays poisoned until the next
commit writes it. `upset`: its 8 bytes are found uncorrectable now (R344). -/
def histRead (s : State) (h n : Nat) (upset : Bool) : State :=
  let c := headAt s h
  if !upset && !c.histBad.contains n then s
  else
    let s := setHead s h { c with hist := c.hist.filter (fun p => p.1 / 16 != n), histBad := if c.histBad.contains n then c.histBad else n :: c.histBad }
    let w := Config.histPlace h n
    logEv s (((headLink? s h).map (fun p => p.1)).getD 0) 0x0023
      (memData (w.extractLsb' 0 8).toNat 0xFF (w.extractLsb' 8 16).toNat (w.extractLsb' 24 64).toNat)

/-- Where a nozzle's entry, or the inflection entry its code takes, is poisoned in the part's own tables: the copy that its line prints, if any,
is flagged, and its code is 0 (R344). -/
def tablePoison? (s : State) (p : ParamRec) (h : Nat) (hl : HeadLine) (i : Nat) (q hist : BitVec 4) : Option (Option Nat) :=
  match headLink? s h with
  | none => none
  | some (d, _) =>
    let row := nozRow p
    if poisoned s .bank d (nozBlk h i) || poisoned s .bank d (inflBlk row hl.cool q hist) then
      some ((placeRowLine s row (hl.line - (nozEntry p i).stagger)).map (fun x => x.jobCopy))
    else none

/-- GATHER_BLOCK: the gather mover, serving a channel, produces the next 16 final codes of its head line into the Tynel pool, and its
link sends them (R199, R206, R237, R334, R343, R344). A poisoned block of a ring, of the nozzle entries or of the inflection table gives code 0
and flags its copy CHECK (R288, R344). -/
def doGatherBlock (s : State) (h : Nat) (upset : Bool) : State :=
  match gathering? s h, nozTable? s h with
  | some hl, some p =>
    if !gatherServed s h then s
    else
      let s := gatherTurn s h
      let row := nozRow p
      let rs := blockReads s p hl
      if rs.any (fun r => r.2 == .wait) then s
      else
        let s := histRead s h (hl.codes.length / 16) upset
        let hist := (headAt s h).hist
        let read (r : Nat × CodeRead) : BitVec 4 := match r.2 with | .code c => c | _ => 0
        let table (r : Nat × CodeRead) : Option (Option Nat) := tablePoison? s p h hl r.1 (read r) (sget 0 hist r.1)
        let code (r : Nat × CodeRead) : BitVec 4 := if (table r).isSome then 0 else inflect s row hl.cool (read r) (sget 0 hist r.1)
        let bad := (rs.filterMap (fun r => match r.2 with | .poison (some i) => some i | _ => (table r).join)).eraseDups
        let s := bad.foldl (fun s i => flagCopy s i 2 0) s
        feedBlock (modHeadLine s h hl.line (fun l => if l.spit then l else { l with codes := l.codes ++ rs.map code })) h hl.line
          hl.codes.length
  | _, _ => s

/-- The gather reads its nozzles' entries, and its row's inflection table, in the die banks (R285, R344). -/
def readTables (s : State) (h : Nat) (p : ParamRec) (hl : HeadLine) : State :=
  match headLink? s h with
  | none => s
  | some (d, _) =>
    if s.flips.isEmpty then s
    else
      let ns := (List.range (min 16 (hl.total - hl.codes.length))).map (fun k => nozBlk h (hl.codes.length + k))
      let is := (List.range 256).map (fun n => inflBlk (nozRow p) hl.cool (BitVec.ofNat 4 (n / 16)) (BitVec.ofNat 4 n))
      (ns ++ is).eraseDups.foldl (fun s n => settle s ⟨.bank, d, n⟩) s

/-- The gather reads its nozzles' blocks of the output rings (R285-R288). -/
def readCodes (s : State) (h : Nat) : State :=
  match gathering? s h, nozTable? s h with
  | some hl, some p =>
    if !gatherServed s h then s
    else
      (List.range (min 16 (hl.total - hl.codes.length))).foldl (fun s k =>
        let e := nozEntry p (hl.codes.length + k)
        if e.unused || hl.line < e.stagger then s
        else match slotLine? s (e.nozzle / 131072) (e.nozzle / 2048 % 64) (hl.line - e.stagger) with
          | some (x, l) => match l.slot with
            | some n => if l.flips = [] then s else settle s ⟨.outRing, x, 128 * n + e.nozzle % 2048 / 16⟩
            | none => s
          | none => s) (readTables s h p hl)
  | _, _ => s

def execGatherBlock (h : Nat) (upset : Bool) (s : State) : Host.Outcome State Fault Refusal := .next (doGatherBlock (readCodes s h) h upset)

/-- GATHER_END: the last block of a head line has entered the pool; slots and overlay blocks it was the last to use are freed
(R97, R268, R345). -/
def doGatherEnd (s : State) (h : Nat) : State :=
  match gathering? s h with
  | none => s
  | some hl =>
    if hl.codes.length < hl.total then s
    else
      let s := modHeadLine s h hl.line (fun l => if l.spit then l else { l with done := true })
      freeOverlays (freeRow s (headRow s h))

def execGatherEnd (h : Nat) (s : State) : Host.Outcome State Fault Refusal := .next (doGatherEnd s h)

/-- FIRE_INSTANT: the fire instant of a committed head line frees its place in the Tynel pool, delivered or not; copies and the job
may end with it (R196, R238, R396, R397). -/
def doFireInstant (s : State) (h line : Nat) : State :=
  match (headAt s h).lines.find? (fun l => l.line == line && l.committed.isSome) with
  | none => s
  | some hl =>
    let s := advanceTo s (hl.fireAt / 64)
    jobAdvance (modHead s h (fun c => { c with lines := c.lines.filter (fun l => !(l.line == line && l.committed.isSome)) }))

def execFireInstant (h line : Nat) (s : State) : Host.Outcome State Fault Refusal := .next (doFireInstant s h line)

end Sys2Proof.Machine
end

