-- ==== Sys2Proof/Machine/Integrity.lean ====
section
/-! DEFINITION. Line signatures, migration and unfence tests of clauses (R251-R271, R278). -/

namespace Sys2Proof.Machine

/-! ### Signatures (R251, R252) -/

/-- The prefix of a line's signature (R251). -/
def sigPrefix (page copy : Word) (row strip line : Nat) : List Byte :=
  natLE 4 page.toNat ++ (natLE 4 copy.toNat ++ (natLE 1 row ++ ([0] ++ (natLE 2 strip ++ natLE 4 line))))

/-- The 1,024 code bytes of a line, in clause column order (R85, R251). -/
def CLine.codeBytes (l : CLine) : List Byte := (List.range 128).flatMap (fun k => natLE 8 (sget 0 l.codes k).toNat)

/-- The signature of a line (R251). -/
def lineSig (page copy : Word) (row strip line : Nat) (codes : List Byte) : Word :=
  crc32c (sigPrefix page copy row strip line ++ codes)

/-- The input whose trailer applies to a band: the overlay's where there is one (R89). -/
def trailerInput? (c : Clause) (absBand : Nat) : Option BandIn :=
  match c.inputFor? absBand true with
  | some i => some i
  | none => c.inputFor? absBand false

/-- Die address of the signature that the trailer holds for a band line (R88). -/
def sigAddr (i : BandIn) (line : Nat) : Nat := i.block.addr + i.block.trailerAt + 4 * line

/-- The signature the trailer expects of a band line (R88). -/
def expectedSig (s : State) (i : BandIn) (line : Nat) : Word := BitVec.ofNat 32 (leNat (dramRd s i.block.die (sigAddr i line) 4))

/-- The result of a check of a re-run (R254): a match makes the line Ready and a pending fault transient; the first pass's own
signature again is the input's fault; anything else is permanent. Faults of a FENCING clause are not counted (R267). -/
def rerunChecked (s : State) (x : Nat) (l : CLine) (p : PLine) (sig : Word) (ok : Bool) : State :=
  if ok then settleFault (lineReady s x l.line) x l.fault
  else if (clauseAt s x).st = .fencing then withhold s x l.line 2
  else if l.sig1 = some sig then inputFailure (withhold s x l.line 3) x p
  else permanentIfServing (withhold s x l.line 2) x 2

/-- SIG_CHECK_DONE: the signature unit finishes the clause's oldest line in Checking (R253, R254). A poisoned output-ring block
fails the check (R288), and so does a signature that is uncorrectable or stands poisoned in DRAM, which makes its block BAD (R100). While the channel that holds the trailer trains or retrains, its read waits (R319). -/
def doSigCheckDone (s : State) (d k : Nat) : State :=
  let x := clauseIx d k
  let c := clauseAt s x
  match c.lines.find? (fun l => l.st == .checking), clauseSlot? s x with
  | some l, some g =>
    match l.at_ with
    | none => s
    | some p =>
      match trailerInput? c p.absBand with
      | none => s
      | some i =>
        let copy := if i.overlay then p.copy else 0
        let sig := lineSig p.page copy g.row g.pos p.pageLine l.codeBytes
        let a := sigAddr i p.bandLine
        if dramWaits s i.block.die a 4 then s else
        let s := dramTouch s i.block.die a 4
        let bad := dramBad s i.block.die a
        let ok := l.poison = [] ∧ !bad ∧ sig = expectedSig s i p.bandLine
        let s := if bad then markBad s i.block else s
        if ((clauseAt s x).lineOf? l.line).all (fun q => q.settled) then s
        else if l.rerun then rerunChecked s x l p sig ok
        else if ok then lineReady s x l.line
        else firstFailure s x l.line (some sig) none
  | _, _ => s

/-- The signature unit reads the line's codes from the output ring (R285-R288). -/
def readSigLine (s : State) (x : Nat) : State :=
  match (clauseAt s x).lines.find? (fun l => l.st == .checking) with
  | some l => readSlotLine s x l
  | none => s

def execSigCheckDone (d k : Nat) (s : State) : Host.Outcome State Fault Refusal :=
  .next (doSigCheckDone (readSigLine s (clauseIx d k)) d k)

/-- CLR of CLS_INT_CTRL: clears CLS_INT_CNT and CLS_INT_SUS.REWIND (R278). -/
def doClsIntCtrlClr (s : State) (d k : Nat) : State :=
  modClause s (clauseIx d k) (fun c => { c with transient := 0, withheldCnt := 0, rewind := 0 })

def execClsIntCtrlClr (d k : Nat) (s : State) : Host.Outcome State Fault Refusal := 
  .next (hostReg s d (fun s => if k < 66 then doClsIntCtrlClr s d k else s))

/-! ### Migration (R266-R269) -/

/-- SPARE_READY: a spare that prepares for a slot is ready, or has met an error and is fenced PREPARE (R266, R269). -/
def doSpareReady (s : State) (d k : Nat) (ok : Bool) : State :=
  let x := clauseIx d k
  let c := clauseAt s x
  if c.st ≠ .spare ∨ c.spareFor.isNone ∨ c.prepared then s
  else if ok then setClause s x { c with prepared := true }
  else spareFailed s x

def execSpareReady (d k : Nat) (ok : Bool) (s : State) : Host.Outcome State Fault Refusal := .next (doSpareReady s d k ok)

/-- Halo records that a FENCING clause still needs on a side: one a line (R169, R173), for each admitted line that its edge cell has not
begun, or has begun and not yet received for; cell 15 receives from its left port first (R169, R268). -/
def haloOwed (s : State) (x : Nat) (right : Bool) : Nat :=
  let n := if right then 15 else 0
  let e := cellAt s (cellOfIx x n)
  ((clauseAt s x).lines.filter (fun l => l.at_.isSome && !l.begun.getLsbD n)).length +
    (match e.cur with | some g => if !g.rerun && g.recvs ≤ (if right then 1 else 0) then 1 else 0 | none => 0)

/-- Records of a halo on their way to a clause are readdressed beyond the first `n` (R268). -/
def readdress (f : List Flight) (d k j : Nat) (right : Bool) : Nat → List Flight :=
  match f with
  | [] => fun _ => []
  | r :: rs => fun n =>
    match r.cargo with
    | .halo k' right' v =>
      if r.dest = d ∧ k' = k ∧ right' = right then
        match n with
        | 0 => { r with cargo := .halo j right v } :: readdress rs d k j right 0
        | m + 1 => r :: readdress rs d k j right m
      else r :: readdress rs d k j right n
    | _ => r :: readdress rs d k j right n

/-- The FENCING clause for which a TAKEOVER event stands: itself, or the one a spare has prepared for. -/
def takeoverFrom? (s : State) (x : Nat) : Option Nat :=
  if (clauseAt s x).st = .fencing then some x
  else ((List.range 66).map (clauseIx (x / 66))).find? (fun y => (clauseAt s y).st == .fencing && (clauseAt s y).preparing == some x)

/-- A slot moves from a FENCING clause to its spare at line `L` (R176, R268): the halo records of lines from L on, queued or on their way,
the fetches of that band, and dispatch; records still to be sent that earlier lines need stay due to the FENCING clause. Suspect counting that has stopped on the slot stays stopped; a clause that replaces a suspect knows it (R261). -/
def moveSlot (s : State) (x y L : Nat) : State :=
  let c := clauseAt s x
  let e := clauseAt s y
  let d := x / 66
  let keepL := haloOwed s x false
  let keepR := haloOwed s x true
  let coming (right : Bool) : Nat := haloComing s d (x % 66) right
  let b := match (clauseSlot? s x).bind (fun g => placeRowLine s g.row L) with | some p => p.absBand | none => 0
  let suspect : Option (Nat × Nat) :=
    if (fenceOf s (.clause d (x % 66))).reason = 5 then some (x, clauseRowCount s x) else none
  let e : Clause := { e with st := .serving, slot := c.slot, spareFor := none, nextLine := L, nextQ := 0, fresh := false, endLine := none,
                             haloL := c.haloL.drop keepL, haloR := c.haloR.drop keepR, nextBand := b,
                             suspectOff := c.suspectOff, suspectOf := suspect, haloLost := c.haloLost }
  let flight := readdress (readdress s.fabric d (x % 66) (y % 66) false (keepL - c.haloL.length)) d (x % 66) (y % 66) true
    (keepR - c.haloR.length)
  let c : Clause := { c with endLine := some L, haloL := c.haloL.take keepL, haloR := c.haloR.take keepR,
                             needL := keepL - c.haloL.length - coming false, needR := keepR - c.haloR.length - coming true,
                             input := c.input.filter (fun i => i.absBand < b) }
  let s := setClause (setClause s x c) y e
  { s with fabric := flight, slotMap := sput none s.slotMap (64 * d + c.slot) (some (y % 66)) }

/-- TAKEOVER: at the admission of a band's line 0, once the spare is ready, the slot moves to it and the line is admitted there
as sequence number 0; the die's spares are made up (R44, R266, R268). A FENCING clause left without lines in its ring has no
gather to wait for. -/
def doTakeover (s : State) (d k : Nat) : State :=
  match takeoverFrom? s (clauseIx d k) with
  | none => s
  | some x =>
    let c := clauseAt s x
    match c.preparing, (clauseSlot? s x).bind (fun g => placeRowLine s g.row c.nextLine) with
    | some y, some p =>
      if c.endLine.isSome ∨ p.bandLine ≠ 0 ∨ !takeoverDue s x ∨ !mayAdmit s x then s
      else topUpSpares (admitLine (moveSlot s x y c.nextLine) y false) d
    | _, _ => s

def execTakeover (d k : Nat) (s : State) : Host.Outcome State Fault Refusal := .next (doTakeover s d k)

/-! ### Unfence tests (R270) -/

/-- FENCING clauses of a die that wait for a spare take one that has come free. -/
def serveWaiting (s : State) (d : Nat) : State :=
  (((List.range 66).map (clauseIx d)).filter (fun x =>
    let c := clauseAt s x
    c.st == .fencing && c.preparing.isNone && c.endLine.isNone)).foldl prepareSpare s

/-- An UNFENCE that waits for a unit ends (R403): its parked command leaves and completes with a status and the record's STATE. -/
def endUnfence (s : State) (kind die index status : Nat) (st : FenceState) : State :=
  let mine : Parked → Bool := fun p => match p with
    | .unfence _ k d i => k == kind && d == die && i == index
    | _ => false
  let hs := s.parked.filter mine
  let s := { s with parked := s.parked.filter (fun p => !mine p) }
  hs.foldl (fun s p => match p with
    | .unfence h _ _ _ => complete s h 0x0505 status (natLE 1 st.code)
    | _ => s) s

/-- UNFENCE_TEST_DONE: a clause that passes becomes SPARE, one that fails returns to FENCED (R270, R403). -/
def doUnfenceTestDone (s : State) (d k : Nat) (pass : Bool) : State :=
  let x := clauseIx d k
  let u := FUnit.clause d k
  if (clauseAt s x).st ≠ .testing then s
  else
    let reason := (fenceOf s u).reason.toNat
    if pass then
      let s := if s.dia.valid then modClause s x (fun c => { c with st := .spare, powered := true, spareFor := none, prepared := false })
        else powerOffClause (modClause s x (fun c => { c with st := .off })) x
      let s := changeFence s u .unfenced reason
      serveWaiting (endUnfence s 1 d k stOk .unfenced) d
    else
      let s := powerOffClause (modClause s x (fun c => { c with st := .fenced })) x
      let s := changeFence s u .fenced reason
      endUnfence s 1 d k stTestFail .fenced

def execUnfenceTestDone (d k : Nat) (pass : Bool) (s : State) : Host.Outcome State Fault Refusal :=
  .next (doUnfenceTestDone s d k pass)

end Sys2Proof.Machine
end

