-- ==== Sys2Proof/Machine/Tynel.lean ====
section
/-! DEFINITION. The Tynel links: bring-up, training, capability exchange, acknowledgements and replays, telemetry, echoes and the eye scan
(R215-R249). -/

namespace Sys2Proof.Machine

/-! ### Host writes (R249) -/

/-- TYN_LNK_CTRL.CLR: clears the link's counters. -/
def doTynLnkCtrlClr (s : State) (d l : Nat) : State :=
  modLink s (linkIx d l) (fun k => { k with tx := 0, replays := 0, naks := 0, timeouts := 0, badUp := 0, missed := 0 })

def execTynLnkCtrlClr (die link : Nat) (s : State) : Host.Outcome State Fault Refusal := 
  .next (hostReg s die (fun s => if link < 8 then doTynLnkCtrlClr s die link else s))

/-- TYN_LNK_CTRL.RETRAIN: a link in use, or in CAPS_FAIL, goes to TRAIN; ignored while an open job covers its channels (R223). -/
def doTynLnkCtrlRetrain (s : State) (d l : Nat) : State :=
  let k := linkAt s (linkIx d l)
  if jobCoversLink s d l ∨ k.st = .down ∨ k.st = .detect ∨ k.st = .retired then s else enterTrain s d l

def execTynLnkCtrlRetrain (die link : Nat) (s : State) : Host.Outcome State Fault Refusal := 
  .next (hostReg s die (fun s => if link < 8 then doTynLnkCtrlRetrain s die link else s))

/-- TYN_LNK_CTRL.EXIT: an exit from electrical idle (R230). -/
def doTynLnkCtrlExit (s : State) (d l : Nat) : State := exitIdle s d l

def execTynLnkCtrlExit (die link : Nat) (s : State) : Host.Outcome State Fault Refusal := 
  .next (hostReg s die (fun s => if link < 8 then doTynLnkCtrlExit s die link else s))

/-- TYN_EYE_CTRL.START: a point begins unless one is in progress (R248). -/
def doTynEyeStart (s : State) (d : Nat) : State :=
  let e := eyeAt s d
  if e.busy then s else setEye s d { e with busy := true }

def execTynEyeStart (die : Nat) (s : State) : Host.Outcome State Fault Refusal := .next (hostReg s die (fun s => doTynEyeStart s die))

/-- EYE_POINT_DONE: the point ends after its dwell with its count of disagreements, or is aborted (R248). -/
def doEyePointDone (s : State) (d : Nat) (count : Word) (aborted : Bool) : State :=
  let e := eyeAt s d
  if !e.busy then s
  else if aborted then setEye s d { e with busy := false, abort := true }
  else setEye s d { e with busy := false, err := count }

def execEyePointDone (die : Nat) (count : BitVec 32) (aborted : Bool) (s : State) : Host.Outcome State Fault Refusal :=
  .next (doEyePointDone s die count aborted)

/-! ### Bring-up (R223-R227) -/

/-- RECEIVER_DETECT: terminations found by number of lane; with every lane not retired found, the link takes its lanes and enters TRAIN
(R223, R227). -/
def doReceiverDetect (s : State) (d l : Nat) (found : BitVec 8) : State :=
  let k := linkAt s (linkIx d l)
  if k.st ≠ .detect then s
  else
    let ws := workingLanes s d l
    let s := ws.foldl (fun s n => modLane s (8 * d + n) (fun a => { a with detected := found.getLsbD n })) s
    if ws = [] ∨ !ws.all (fun n => found.getLsbD n) then s
    else
      enterTrain (modLink s (linkIx d l) (fun k => { k with lanes := BitVec.ofNat 8 (laneMask (takenLanes ws)) })) d l

def execReceiverDetect (die link : Nat) (found : BitVec 8) (s : State) : Host.Outcome State Fault Refusal :=
  .next (doReceiverDetect s die link found)

/-- A transmitter tap after a request: 1 up, 2 down, within its range; whether a limit was met (R224). -/
def tapReq (v req top : Nat) : Nat × Bool :=
  if req = 1 then (if v < top then (v + 1, false) else (v, true))
  else if req = 2 then (if 0 < v then (v - 1, false) else (v, true))
  else (v, false)

/-- What a lane does with the control field of a training word received: applies the tap requests, notes the far end's taps, readiness and
FINAL words, and has the receiver settings it has adapted to (R224, R225). -/
def Lane.train (a : Lane) (ctl : Word) (rx : LaneRx) : Lane :=
  let pre := tapReq a.txPre.toNat (ctl.extractLsb' 22 2).toNat 15
  let post := tapReq a.txPost.toNat (ctl.extractLsb' 20 2).toNat 24
  let preset := ctl.getLsbD 19
  let asked : Bool := (ctl.extractLsb' 20 4) != 0
  let far := ctl.getLsbD 0
  { a with
    txPre := if preset then 2 else BitVec.ofNat 4 pre.1, txPost := if preset then 6 else BitVec.ofNat 5 post.1,
    limitHit := if preset then false else if asked then pre.2 || post.2 else a.limitHit, rxReady := rx.ready, farReady := far,
    farPre := ctl.extractLsb' 12 4, farPost := ctl.extractLsb' 7 5, ctle := rx.ctle, dfe1 := rx.dfe1,
    farFinal := if rx.ready && far && ctl.getLsbD 1 then a.farFinal + 1 else 0 }

/-- The control field a lane answers with; `request` gives its own requests in bits [23:19] (R224). -/
def Lane.word (a : Lane) (ix : Nat) (request : Word) : Word :=
  let b (c : Bool) (n : Nat) : Nat := if c then 2 ^ n else 0
  BitVec.ofNat 32 (ix % 8 * 2 ^ 29 + (request.extractLsb' 19 5).toNat * 2 ^ 19 + a.txPre.toNat * 2 ^ 12 + a.txPost.toNat * 2 ^ 7 +
    b a.limitHit 2 + b (a.rxReady && a.farReady) 1 + b a.rxReady 0)

/-- Whether both ends of every lane in use are ready and 16 words with FINAL have come on each (R223). -/
def trainDone (s : State) (d l : Nat) : Bool :=
  (useLanes s d l).all (fun m => let q := laneAt s (8 * d + m); q.rxReady && q.farReady && decide (16 ≤ q.farFinal))

/-- A trained link enters BITLOCK: its lanes have a working setting, and IDLE blocks begin at an instant whose phase to the ticks is free
(R223; assumption 41). -/
def enterBitlock (s : State) (d l : Nat) : State :=
  let s := (useLanes s d l).foldl (fun s m => modLane s (8 * d + m) (fun a => { a with retry := false })) s
  let (v, s) := drawFree s
  startStream (modLink s (linkIx d l) (fun k => { k with st := .bitlock })) d l (64 * s.tb + v.toNat % 66)

/-- TRAINING_WORD: a lane in TRAIN takes a training word and answers; once training is done the link enters BITLOCK (R223, R224). A word
whose marker or coding is wrong is not taken. -/
def doTrainingWord (s : State) (d n : Nat) (word : BitVec 1056) (rx : LaneRx) : State :=
  match laneLink? s d n, trainField? word with
  | some l, some ctl =>
    let use := useLanes s d l
    if (linkAt s (linkIx d l)).st ≠ .train ∨ !use.contains n then s
    else
      let a := (laneAt s (8 * d + n)).train ctl rx
      let s := sendTraining (setLane s (8 * d + n) a) d n (a.word (use.idxOf n) rx.request)
      if trainDone s d l then enterBitlock s d l else s
  | _, _ => s

def execTrainingWord (die lane : Nat) (word : BitVec 1056) (rx : LaneRx) (s : State) : Host.Outcome State Fault Refusal :=
  .next (doTrainingWord s die lane word rx)

/-- BITLOCK_DONE: the phase-tracking loops have settled (R223). -/
def doBitlockDone (s : State) (d l : Nat) : State :=
  if (linkAt s (linkIx d l)).st ≠ .bitlock then s
  else toBlocklock ((useLanes s d l).foldl (fun s n => modLane s (8 * d + n) (fun a => { a with bitLock := true })) s) d l

def execBitlockDone (die link : Nat) (s : State) : Host.Outcome State Fault Refusal := .next (doBitlockDone s die link)

/-- An ECHO goes to a channel (R247). -/
def sendEcho (s : State) (h : Nat) : State :=
  let e := (headAt s h).eseq + 1
  let s := modHead s h (fun c => { c with eseq := e, echoing := true, round := none })
  match headLink? s h with
  | some (d, l) => pushSingle s d l (echoBlk h e)
  | none => s

/-- The lanes in use whose run of valid sync headers, given in their order, has reached `count` have block lock (R220). -/
def lockLanes (s : State) (d l count : Nat) (valid : List Nat) : State :=
  let use := useLanes s d l
  (List.range use.length).foldl (fun s i =>
    if count ≤ valid.getD i 0 then modLane s (8 * d + use.getD i 0) (fun a => { a with bitLock := true, blockLock := true }) else s) s

/-- Whether every lane in use has seen `count` valid headers in succession and is deskewed. -/
def lanesLocked (s : State) (d l count : Nat) (valid : List Nat) : Bool :=
  let use := useLanes s d l
  (List.range use.length).all (fun i => decide (count ≤ valid.getD i 0) && (laneAt s (8 * d + use.getD i 0)).aligned)

/-- BLOCKLOCK_DONE: `valid` gives the length of each lane's run of valid sync headers; 64 are block lock. With 1,024 more on every lane, all
deskewed by ALIGN, the link enters CAPS, with CRC-32C, and one echo runs for each channel (R220, R223, R235, R247). -/
def doBlocklockDone (s : State) (d l : Nat) (valid : List Nat) : State :=
  if (linkAt s (linkIx d l)).st ≠ .blocklock then s
  else
    let s := lockLanes s d l 64 valid
    if !lanesLocked s d l (64 + 1024) valid then s
    else
      let s := modLink s (linkIx d l) (fun k =>
        { k with st := .caps, poly := 0, capsTries := 0, configTries := 0, configSent := false, caps := [], round := none })
      (liveHeads s d l).foldl (fun s h => sendEcho (modHead s h (fun c => { c with round := none })) h) s

def execBlocklockDone (die link : Nat) (valid : List Nat) (s : State) : Host.Outcome State Fault Refusal :=
  .next (doBlocklockDone s die link valid)

/-- CAPS_FAIL with its cause, logged with BOARD_ID when a CAPS frame came (R244, R509). -/
def capsFail (s : State) (d l cause : Nat) (caps : List Byte) : State :=
  let s := modLink s (linkIx d l) (fun k => { k with st := .capsFail, cause := BitVec.ofNat 4 cause, configSent := false })
  logEv s d 0x0040 (unitData 0 0 l cause 0 (slice caps 4 4))

/-- LINK_STATE_TIMEOUT: in TRAIN, lanes over the limit go back to DETECT once and are then without a working setting; BITLOCK and
BLOCKLOCK go back to TRAIN (DEDUCED, assumption 13); CAPS is tried three times (R223, R227, R244). -/
def doLinkStateTimeout (s : State) (d l : Nat) (lanes : BitVec 8) : State :=
  let k := linkAt s (linkIx d l)
  match k.st with
  | .train =>
    let bad := (useLanes s d l).filter (fun n => lanes.getLsbD n)
    let first := bad.filter (fun n => !(laneAt s (8 * d + n)).retry)
    let s' := first.foldl (fun s n => modLane s (8 * d + n) (fun a => { a with retry := true })) s
    let s' := if first = [] then s' else modLink s' (linkIx d l) (fun k => { k with st := .detect })
    retireLanes s' d l (bad.filter (fun n => (laneAt s (8 * d + n)).retry)) 3
  | .bitlock => enterTrain s d l
  | .blocklock => enterTrain s d l
  | .caps =>
    if 3 ≤ k.capsTries + 1 then capsFail s d l 9 k.caps
    else modLink s (linkIx d l) (fun k => { k with capsTries := k.capsTries + 1, configTries := 0, configSent := false })
  | _ => s

def execLinkStateTimeout (die link : Nat) (lanes : BitVec 8) (s : State) : Host.Outcome State Fault Refusal :=
  .next (doLinkStateTimeout s die link lanes)

/-- Whether a link carries blocks upstream. -/
def linkUp (s : State) (d l : Nat) : Bool :=
  let st := (linkAt s (linkIx d l)).st
  st == .blocklock || st == .caps || st == .active

/-- Count an upstream frame or block that failed its check. -/
def countBadUp (s : State) (d l : Nat) : State := modLink s (linkIx d l) (fun k => { k with badUp := satInc k.badUp })

/-- Count what came with an upstream frame and failed its check: the bad blocks among its positions, and the frame (R220, R249). -/
def countFrame (s : State) (d l : Nat) (f : UpFrame) : State :=
  let s := f.bad.foldl (fun s _ => countBadUp s d l) s
  if frameGood (linkAt s (linkIx d l)).poly f then s else countBadUp s d l

/-- Whether a frame passes its check and is a CONTROL frame of an opcode (R232). -/
def isControl (s : State) (d l op : Nat) (f : UpFrame) : Bool :=
  frameGood (linkAt s (linkIx d l)).poly f && upType f == 3 && upOp f == op

/-- RENEG_ACK_RECEIVE: the board takes the new lane set, and the link passes through BLOCKLOCK again (R227, R244). -/
def doRenegAckReceive (s : State) (d l : Nat) (f : UpFrame) : State :=
  let k := linkAt s (linkIx d l)
  if !linkUp s d l then s
  else if isControl s d l 5 f ∧ k.reneg ∧ byteAt (upBody f) 0 = 0 then
    toBlocklock (modLink (countFrame s d l f) (linkIx d l) (fun k => { k with reneg := false })) d l
  else countFrame s d l f

def execRenegAckReceive (die link : Nat) (frame : UpFrame) (s : State) : Host.Outcome State Fault Refusal :=
  .next (doRenegAckReceive s die link frame)

/-! ### Capability exchange (R244) -/

/-- The entry of a BOARD_CH in a CAPS body: NOZZLES and MIN_PERIOD. -/
def capsEntry? (caps : List Byte) (bc : Nat) : Option (Nat × Nat) :=
  ((List.range (leAt caps 1 1)).find? (fun j => leAt caps (0x10 + 8 * j) 1 == bc)).map
    (fun j => (leAt caps (0x12 + 8 * j) 2, leAt caps (0x14 + 8 * j) 4))

/-- Whether a CAPS body has the right form: FORMAT, length, reserved fields, bit 0 of POLYS. -/
def capsForm (caps : List Byte) : Bool :=
  let n := leAt caps 1 1
  leAt caps 0 1 == 1 && caps.length == 16 + 8 * n && zeroAt caps 0x0D 3 && (List.range n).all (fun j => zeroAt caps (0x11 + 8 * j) 1) &&
    (byteAt caps 3).getLsbD 0

/-- The lowest failing check of a CAPS body, causes 1 to 7. -/
def capsCause? (s : State) (d l : Nat) (caps : List Byte) : Option Nat :=
  match linkRec? s d l with
  | none => some 1
  | some p =>
    let chs := recHeads p
    if !capsForm caps then some 1
    else if leAt caps 2 1 < popcount (linkAt s (linkIx d l)).lanes then some 2
    else if !(byteAt caps 3).getLsbD (recPoly p).toNat then some 3
    else if chs.any (fun e => (capsEntry? caps e.2).isNone) then some 4
    else if chs.any (fun e => match capsEntry? caps e.2 with | some c => c.1 != headNozzles s e.1 | none => true) then some 5
    else if chs.any (fun e => match capsEntry? caps e.2 with
      | some c => decide (minPeriod s (headRow s e.1) < c.2)
      | none => true) then some 6
    else if leAt caps 0x0C 1 < 2 ∨ 4096 < leAt caps 8 2 then some 7
    else none

/-- The body of CONFIG (R244). -/
def configBody (s : State) (d l : Nat) (p : ParamRec) : List Byte :=
  natLE 1 (recPoly p).toNat ++ (natLE 1 (popcount (linkAt s (linkIx d l)).lanes) ++ (natLE 1 (recCount p) ++ ([0] ++
    (natLE 2 (recTel p) ++ (recHeads p).flatMap (fun e => natLE 1 e.1 ++ natLE 1 e.2)))))

/-- LAT of a channel from a round trip and the board's TURN, 1/64 ticks (R247). -/
def latOf (round turn : Nat) : Nat := (round - turn) / 2

/-- Once CAPS has passed its checks and no echo of the link is still out: LAT is recorded for every channel measured; above 40 ticks the
link fails LATENCY, else CONFIG is sent (R244, R247). -/
def tryConfig (s : State) (d l : Nat) : State :=
  let k := linkAt s (linkIx d l)
  let hs := liveHeads s d l
  if k.st ≠ .caps ∨ k.caps = [] ∨ k.configSent ∨ hs.any (fun h => (headAt s h).echoing) then s
  else
    let turn := leAt k.caps 0x0A 2
    let s := modLink s (linkIx d l) (fun k => match k.round with
      | some r => { k with lat := BitVec.ofNat 14 (latOf r turn), round := none }
      | none => k)
    let s := hs.foldl (fun s h => modHead s h (fun c => match c.round with
      | some r => { c with lat := latOf r turn, latCaps := latOf r turn }
      | none => c)) s
    if hs.any (fun h => decide (2560 < (headAt s h).lat)) then capsFail s d l 8 k.caps
    else match linkRec? s d l with
      | none => s
      | some p => modLink (sendControl s d l 0x02 (configBody s d l p)) (linkIx d l) (fun k => { k with configSent := true })

/-- CAPS_RECEIVE: the board's capabilities are checked; a failed check, the frame check among them, takes the link to CAPS_FAIL with the
lowest cause; else CONFIG follows (R244). -/
def doCapsReceive (s : State) (d l : Nat) (f : UpFrame) : State :=
  let body := upBody f
  if !linkUp s d l then s
  else if (linkAt s (linkIx d l)).st ≠ .caps then countFrame s d l f
  else if !frameGood (linkAt s (linkIx d l)).poly f then capsFail (countFrame s d l f) d l 1 body
  else if !isControl s d l 1 f then s
  else match capsCause? s d l body with
    | some c => capsFail s d l c body
    | none =>
      let s := modLink s (linkIx d l) (fun k => { k with caps := body })
      let s := (linkHeads s d l).foldl (fun s h => modHead s h (fun c =>
        { c with turn := leAt body 0x0A 2, fireLat := leAt body 8 2, boardId := BitVec.ofNat 32 (leAt body 4 4) })) s
      tryConfig s d l

def execCapsReceive (die link : Nat) (frame : UpFrame) (s : State) : Host.Outcome State Fault Refusal :=
  .next (doCapsReceive s die link frame)

/-- CONFIG_RETRY: CONFIG unanswered for 1 ms is sent again, at most twice (R244). -/
def doConfigRetry (s : State) (d l : Nat) : State :=
  let k := linkAt s (linkIx d l)
  match linkRec? s d l with
  | none => s
  | some p =>
    if k.st ≠ .caps ∨ !k.configSent ∨ 2 ≤ k.configTries then s
    else modLink (sendControl s d l 0x02 (configBody s d l p)) (linkIx d l) (fun k => { k with configTries := k.configTries + 1 })

def execConfigRetry (die link : Nat) (s : State) : Host.Outcome State Fault Refusal := .next (doConfigRetry s die link)

/-- The settings of the lanes in use are stored (R225). -/
def storeLanes (s : State) (d l : Nat) : State :=
  (useLanes s d l).foldl (fun s n => putResult s 4 (8 * d + n) (laneRecord (laneAt s (8 * d + n)) ((calResult s 4 (8 * d + n)).drop 7))) s

/-- CONFIG_ACK_RECEIVE: the polynomial of POLY takes effect, the trained settings are stored, and the link is ACTIVE; a refusal is a
failed exchange (R225, R235, R244, R245; assumption 13). -/
def doConfigAckReceive (s : State) (d l : Nat) (f : UpFrame) : State :=
  let k := linkAt s (linkIx d l)
  match linkRec? s d l with
  | none => s
  | some p =>
    if !linkUp s d l then s
    else if k.st ≠ .caps ∨ !isControl s d l 3 f ∨ !k.configSent then countFrame s d l f
    else if byteAt (upBody f) 0 ≠ 0 then capsFail s d l 9 k.caps
    else
      let s := modLink (storeLanes s d l) (linkIx d l) (fun k =>
        { k with poly := recPoly p, cause := 0, stored := true, storedTemp := dieTemp s d, configSent := false })
      let s := (linkHeads s d l).foldl (fun s h => modHead s h (fun c => { c with missedCnt := 0, lateCnt := 0, copiesSince := [] })) s
      activateLink (settleLosses s d (useLanes s d l)) d l

def execConfigAckReceive (die link : Nat) (frame : UpFrame) (s : State) : Host.Outcome State Fault Refusal :=
  .next (doConfigAckReceive s die link frame)

/-! ### LINE_BASE (R241) -/

/-- LINE_BASE_ACK_RECEIVE: the body repeats that of the LINE_BASE, and line frames to the channel may flow. -/
def doLineBaseAckReceive (s : State) (d l : Nat) (f : UpFrame) : State :=
  let h := leAt (upBody f) 0 1
  let c := headAt s h
  if !linkUp s d l then s
  else if isControl s d l 8 f ∧ (linkHeads s d l).contains h ∧ c.baseOwed ∧ upBody f = lineBaseBody h c.baseNext then
    sendReady (modHead s h (fun c => { c with baseOwed := false, baseTries := 0 })) h
  else countFrame s d l f

def execLineBaseAckReceive (die link : Nat) (frame : UpFrame) (s : State) : Host.Outcome State Fault Refusal :=
  .next (doLineBaseAckReceive s die link frame)

/-- LINE_BASE_TIMEOUT: no acknowledgement within 100 µs; the frame is sent again, up to 3 times, and then the channel lacks its lines
until its link next becomes ACTIVE. -/
def doLineBaseTimeout (s : State) (h : Nat) : State :=
  let c := headAt s h
  if !c.baseOwed ∨ !headActive s h then s
  else if c.baseTries < 4 then sendLineBase s h c.baseNext
  else modHead s h (fun c => { c with baseOwed := false, baseFailed := true })

def execLineBaseTimeout (h : Nat) (s : State) : Host.Outcome State Fault Refusal := .next (doLineBaseTimeout s h)

/-! ### Loss of lock and fast exits (R226, R230) -/

/-- A loss of lock on a lane: counted, and a fault whose class is known once lock is regained, or permanent at once within LANE_WIN
(R226, R260, R263). Answers whether it is permanent. -/
def laneLost (s : State) (d n : Nat) : Bool × State :=
  let s := modLane s (8 * d + n) (fun a => { a with lockLoss := satInc a.lockLoss, blockLock := false })
  if faultRepeats s (.lane d n) s.tb ((integ s).laneWin * secTicks) then (true, s)
  else (false, modLane s (8 * d + n) (fun a => { a with lossAt := match a.lossAt with | some t => some t | none => some s.tb }))

/-- The Clause 49 rule for a high error rate: 16 invalid headers within 125 µs (R226). -/
def hiError (ts : List Nat) : Bool :=
  (List.range ts.length).any (fun i => match ts[i + 15]? with
    | some t => decide (t - ts.getD i 0 ≤ 125 * usTicks)
    | none => false)

/-- A lane counts its invalid headers and keeps the instants of the last 15. -/
def Lane.countInvalid (a : Lane) (ts : List Nat) : Lane :=
  let all := a.hdrAt ++ ts
  { a with hdrErr := satAdd a.hdrErr ts.length, hdrAt := all.drop (all.length - 15) }

/-- The signs of the lanes in use. -/
def useSigns (s : State) (d l : Nat) (signs : List LaneSigns) : List LaneSigns :=
  signs.filter (fun g => (useLanes s d l).contains g.lane)

/-- Lanes whose receiver loses lock by its signs (R226). -/
def lostLanes (s : State) (d l : Nat) (signs : List LaneSigns) : List Nat :=
  (useLanes s d l).filter (fun n => (useSigns s d l signs).any (fun g =>
    g.lane == n && (g.unlocked || hiError ((laneAt s (8 * d + n)).hdrAt ++ g.invalid))))

/-- LOCK_LOSS: the receivers of a link see invalid headers or lose block lock, or the board sends EIDLE. Invalid headers count; when an
ACTIVE link loses lock at either end it sends 8 EIDLE blocks on every lane and enters RETRAIN, and each loss here is a fault of its lane
(R226). -/
def doLockLoss (s : State) (d l : Nat) (signs : List LaneSigns) (eidle : Bool) : State :=
  let st := (linkAt s (linkIx d l)).st
  if !linkUp s d l ∧ st ≠ .retrain then s
  else
    let lost := lostLanes s d l signs
    let s := (useSigns s d l signs).foldl (fun s g => modLane s (8 * d + g.lane) (fun a => a.countInvalid g.invalid)) s
    if st ≠ .active ∨ (lost = [] ∧ !eidle) then s
    else
      let r := lost.foldl (fun (r : List Nat × State) n =>
        let q := laneLost r.2 d n
        (if q.1 then r.1 ++ [n] else r.1, q.2)) ([], s)
      let s := sendBurst (cutStream r.2 d l) d l 8 eidleBlk
      let s := retireLanes (modLink s (linkIx d l) (fun k => { k with fastTries := 0 })) d l r.1 1
      if (linkAt s (linkIx d l)).st = .retired then s else enterFast s d l

def execLockLoss (die link : Nat) (signs : List LaneSigns) (eidle : Bool) (s : State) : Host.Outcome State Fault Refusal :=
  .next (doLockLoss s die link signs eidle)

/-- FAST_EXIT_DONE: a fast exit or fast retrain has block lock by 16 consecutive valid headers on every lane, deskewed by ALIGN; the link is
ACTIVE (R226, R230). -/
def doFastExitDone (s : State) (d l : Nat) (valid : List Nat) : State :=
  if (linkAt s (linkIx d l)).st ≠ .retrain then s
  else
    let s := lockLanes s d l 16 valid
    if !lanesLocked s d l 16 valid then s else activateLink (settleLosses s d (useLanes s d l)) d l

def execFastExitDone (die link : Nat) (valid : List Nat) (s : State) : Host.Outcome State Fault Refusal :=
  .next (doFastExitDone s die link valid)

/-- FAST_EXIT_TIMEOUT: no block lock by tick 48: a failed attempt; the third in a row leads to TRAIN (R226, R230). -/
def doFastExitTimeout (s : State) (d l : Nat) : State :=
  let k := linkAt s (linkIx d l)
  if k.st ≠ .retrain then s else if k.fastTries < 3 then enterFast s d l else enterTrain s d l

def execFastExitTimeout (die link : Nat) (s : State) : Host.Outcome State Fault Refusal := .next (doFastExitTimeout s die link)

/-- ALIGN_RECEIVE: a lane's ALIGN block deskews it by so many blocks; one that fails its check is counted (R220, R221). -/
def doAlignReceive (s : State) (d n : Nat) (blk : List Byte) (skew : BitVec 6) : State :=
  match laneLink? s d n with
  | none => s
  | some l =>
    if (!linkUp s d l ∧ (linkAt s (linkIx d l)).st ≠ .retrain) ∨ !(useLanes s d l).contains n then s
    else if ctlBad blk then countBadUp s d l
    else if byteAt blk 0 ≠ 0x55 then s
    else modLane s (8 * d + n) (fun a => { a with skew := skew, aligned := true })

def execAlignReceive (die lane : Nat) (blk : List Byte) (skew : BitVec 6) (s : State) : Host.Outcome State Fault Refusal :=
  .next (doAlignReceive s die lane blk skew)

/-! ### Acknowledgements and replays (R239) -/

/-- A segment that waits for an answer: sent, not acknowledged, its line not committed. -/
def HeadLine.open_ (hl : HeadLine) (seg : Nat) : Bool := hl.sent.contains seg && !hl.acked.contains seg && hl.committed.isNone

/-- A replay of a segment that has not begun. -/
def replayOf (h line seg : Nat) (f : TxFrame) : Bool :=
  f.kind == .replay && f.h == h && f.line == line && f.seg == seg && !f.started

/-- Whether a replay of a segment waits. -/
def replayWaits (s : State) (d l h line seg : Nat) : Bool := (linkNow s d l).frames.any (replayOf h line seg)

/-- ACK_RECEIVE: the first ACK of a segment delivers it (R220, R239). -/
def doAckReceive (s : State) (d l : Nat) (blk : List Byte) : State :=
  if (linkAt s (linkIx d l)).st ≠ .active then s
  else if ctlBad blk then countBadUp s d l
  else if byteAt blk 0 ≠ 0xE1 then s
  else
    let h := leAt blk 1 1
    let seg := leAt blk 2 1
    let line := leAt blk 3 4
    if !(linkHeads s d l).contains h ∨ !(headAt s h).lines.any (fun q => q.line == line && q.open_ seg) then s
    else modHeadLine (dropFrames s d l (replayOf h line seg)) h line (fun q => if q.open_ seg then { q with acked := q.acked ++ [seg] } else q)

def execAckReceive (die link : Nat) (blk : List Byte) (s : State) : Host.Outcome State Fault Refusal := .next (doAckReceive s die link blk)

/-- A replay of a segment waits for the next frame boundary, ahead of every frame not yet started, at most 4 times; a segment unacknowledged after its last replay is a fault of the channel
(R239, R263). -/
def queueReplay (s : State) (d l h line seg : Nat) : State :=
  match (headAt s h).lines.find? (fun q => q.line == line) with
  | none => s
  | some q =>
    if !q.open_ seg ∨ replayWaits s d l h line seg then s
    else if 4 ≤ sget 0 q.replays seg then headFault s h line
    else sendSeg (modHeadLine s h line (fun q => { q with replays := sput 0 q.replays seg (sget 0 q.replays seg + 1) })) d l h q seg .replay

/-- NAK_RECEIVE: a replay is queued (R220, R239). -/
def doNakReceive (s : State) (d l : Nat) (blk : List Byte) : State :=
  if (linkAt s (linkIx d l)).st ≠ .active then s
  else if ctlBad blk then countBadUp s d l
  else if byteAt blk 0 ≠ 0xB4 then s
  else
    let s := modLink s (linkIx d l) (fun k => { k with naks := satInc k.naks })
    let h := leAt blk 1 1
    if !(linkHeads s d l).contains h then s else queueReplay s d l h (leAt blk 3 4) (leAt blk 2 1)

def execNakReceive (die link : Nat) (blk : List Byte) (s : State) : Host.Outcome State Fault Refusal := .next (doNakReceive s die link blk)

/-- REPLAY_TIMEOUT: no answer within 2 LAT + 96 ticks (R239). -/
def doReplayTimeout (s : State) (h line seg : Nat) : State :=
  match headLink? s h, (headAt s h).lines.find? (fun q => q.line == line) with
  | some (d, l), some q =>
    if !q.open_ seg ∨ replayWaits s d l h line seg then s
    else queueReplay (modLink s (linkIx d l) (fun k => { k with timeouts := satInc k.timeouts })) d l h line seg
  | _, _ => s

def execReplayTimeout (h line seg : Nat) (s : State) : Host.Outcome State Fault Refusal := .next (doReplayTimeout s h line seg)

/-! ### Telemetry (R210, R245, R246) -/

/-- A telemetry frame as the telemetry queue keeps it: *h*, then the 16 bytes of R245. -/
def telBytes (f : UpFrame) : List Byte := natLE 2 (upOp f) ++ upBody f

/-- The state a frame reports takes effect: COOL and STOPPED from the next gather on; CUT stops lines already gathered and not yet
fired; every change of the reported state is logged, so that the log gives where DERATE begins and ends (R209, R210; assumption 41). -/
def headState (s : State) (h : Nat) (body : List Byte) : State :=
  let old := (headAt s h).temp
  let st := leAt body 0 1
  let s := if 2 < st then s else modHead s h (fun c => { c with temp := BitVec.ofNat 2 st })
  let s := if st = 2 then modHead s h (fun c => { c with lines := c.lines.map (fun l =>
    if l.committed.isNone ∧ !l.spit then { l with stop := 10 } else l) }) else s
  if st ≤ 2 ∧ old.toNat ≠ st then logEv s (headDie s h) 0x0031 (unitData 3 0 h st 0 (slice body 2 2)) else s

/-- A MISSED or LATE_TOKEN event: counted, the copies of its line flagged TOKEN, and a fault of the channel, pending until the commit of
its next line (R246, R263). -/
def missedLine (s : State) (d l h : Nat) (line : Nat) : State :=
  let s := modLink s (linkIx d l) (fun k => { k with missed := satInc k.missed })
  let s := (copiesOfLine s (headRow s h) line (headStaggers s h)).foldl (fun s c => flagCopy s c.1 12 0) s
  headFault s h (max line ((rowAt s (headRow s h)).committed.getD 0))

/-- TELEMETRY_RECEIVE: a good frame updates the channel's state, ends its silence, is queued, and gives its events; counts that advanced
by more than the events received flag every copy fired since the previous good frame (R246). -/
def doTelemetryReceive (s : State) (d l : Nat) (f : UpFrame) : State :=
  let h := upOp f
  let body := upBody f
  if (linkAt s (linkIx d l)).st ≠ .active then s
  else if !frameGood (linkAt s (linkIx d l)).poly f then countFrame s d l f
  else if upType f ≠ 2 ∨ !(linkHeads s d l).contains h then s
  else
    let s := headState s h body
    let s := evqPush s d 1 (.bytes (telBytes f))
    let ev := leAt body 1 1
    let s := if ev = 1 ∨ ev = 2 then missedLine s d l h (leAt body 8 4) else s
    let c := headAt s h
    let missed := BitVec.ofNat 16 (leAt body 6 2)
    let late := BitVec.ofNat 16 (leAt body 0xC 2)
    let lost : Bool := decide ((if ev = 1 then 1 else 0) < (missed - c.missedCnt).toNat) ||
      decide ((if ev = 2 then 1 else 0) < (late - c.lateCnt).toNat)
    let s := if lost then c.copiesSince.foldl (fun s i => flagCopy s i 12 0) s else s
    modHead s h (fun c => { c with silent := false, tempC := BitVec.ofNat 16 (leAt body 2 2), missedCnt := missed, lateCnt := late,
                                   copiesSince := [] })

def execTelemetryReceive (die link : Nat) (frame : UpFrame) (s : State) : Host.Outcome State Fault Refusal :=
  .next (doTelemetryReceive s die link frame)

/-- TELEMETRY_SILENCE: no good frame for 4 TEL_PERIOD on an ACTIVE link stops the channel until one comes (R246). -/
def doTelemetrySilence (s : State) (h : Nat) : State := if headActive s h then modHead s h (fun c => { c with silent := true }) else s

def execTelemetrySilence (h : Nat) (s : State) : Host.Outcome State Fault Refusal := .next (doTelemetrySilence s h)

/-- NOTICE_RECEIVE: a board's NOTICE is logged as received (R244, R446). -/
def doNoticeReceive (s : State) (d l : Nat) (f : UpFrame) : State :=
  if !linkUp s d l then s
  else if isControl s d l 6 f then logEv s d 0x0041 ((upBody f ++ List.replicate 16 0).take 16)
  else countFrame s d l f

def execNoticeReceive (die link : Nat) (frame : UpFrame) (s : State) : Host.Outcome State Fault Refusal :=
  .next (doNoticeReceive s die link frame)

/-! ### Echoes (R247) -/

/-- ECHO_REPLY_RECEIVE: the round trip, in 1/64 ticks, gives the link's latest LAT, in CAPS once TURN is known; there it is the channel's LAT once TURN is known.
A reply later than 256 ticks, or to no echo, is discarded. -/
def doEchoReplyReceive (s : State) (d l : Nat) (blk : List Byte) (round : Nat) : State :=
  if !linkUp s d l then s
  else if ctlBad blk then countBadUp s d l
  else if byteAt blk 0 ≠ 0x2D then s
  else
    let h := leAt blk 1 1
    let c := headAt s h
    if !(linkHeads s d l).contains h ∨ !c.echoing ∨ leAt blk 2 2 ≠ c.eseq.toNat ∨ 64 * 256 < round then s
    else
      let s := modHead s h (fun c => { c with echoing := false, round := some round })
      let s := modLink s (linkIx d l) (fun k =>
        if k.st = .caps ∧ k.caps = [] then { k with round := some round } else { k with lat := BitVec.ofNat 14 (latOf round c.turn) })
      tryConfig s d l

def execEchoReplyReceive (die link : Nat) (blk : List Byte) (round : Nat) (s : State) : Host.Outcome State Fault Refusal :=
  .next (doEchoReplyReceive s die link blk round)

/-- ECHO_TIMEOUT: no reply within 256 ticks; the channel goes on with the LAT it has (R239, R247). -/
def doEchoTimeout (s : State) (h : Nat) : State :=
  if !(headAt s h).echoing then s
  else
    let s := modHead s h (fun c => { c with echoing := false })
    match headLink? s h with
    | some (d, l) => tryConfig s d l
    | none => s

def execEchoTimeout (h : Nat) (s : State) : Host.Outcome State Fault Refusal := .next (doEchoTimeout s h)

end Sys2Proof.Machine
end

