-- ==== Sys2Proof/Machine/Health.lean ====
section
/-! DEFINITION. The calibration, health, fencing, update and test commands (R402-R405, R407). -/

namespace Sys2Proof.Machine

/-! ### Calibration and sensors (R402) -/

/-- CAL_RUN: the item's resources fall due; the command ends when each has run (R402, R455). -/
def doCalRun (s : State) (h : CmdHdr) (item : BitVec 8) : State :=
  command s h { opcode := 0x0401, ring0 := false, long := true } (item.toNat ≤ 4) true (fun s =>
    let s := riseReady s
    let items := if item = 0 then [1, 2, 3, 4] else [item.toNat]
    let left := items.flatMap (fun i => (calResources s i).map (fun r => (i, r)))
    if left = [] then finish s h 0x0401 [] else park (addDue s left) (.calRun h item.toNat left))

def execCalRun (h : CmdHdr) (item : BitVec 8) (s : State) : Host.Outcome State Fault Refusal := .next (doCalRun s h item)

/-- CAL_READ. -/
def doCalRead (s : State) (h : CmdHdr) : State :=
  command s h { opcode := 0x0402, noDialect := true, switch := true } true true (fun s =>
    let c := s.cal
    finish s h 0x0402 (natLE 4 c.count.toNat ++ (natLE 4 c.lastAon.toNat ++ (natLE 8 c.lastTb.toNat ++ [if c.uncal then 1 else 0]))))

def execCalRead (h : CmdHdr) (s : State) : Host.Outcome State Fault Refusal := .next (doCalRead s h)

/-- The reading of sensor `i` of a die. -/
def senseAt (s : State) (d i : Nat) : Sense := sget {} s.sense (16 * d + i)

/-- Bytes 0x08-0x1A of SENSORS: nine temperatures, then the rail and warning bits. -/
def sensorBytes (s : State) (d : Nat) : List Byte :=
  let rail := (List.range 6).any (fun i => (senseAt s d (9 + i)).out)
  (List.range 9).flatMap (fun i => natLE 2 (senseAt s d i).value.toNat) ++
    natLE 1 ((if rail then 1 else 0) + (if (mgtAt s d).warn then 2 else 0))

/-- SENSORS. -/
def doSensors (s : State) (h : CmdHdr) (die : BitVec 8) : State :=
  command s h { opcode := 0x0501, noDialect := true, switch := true } true (dieOk s die.toNat) (fun s =>
    finish s h 0x0501 (sensorBytes s die.toNat))

def execSensors (h : CmdHdr) (die : BitVec 8) (s : State) : Host.Outcome State Fault Refusal := .next (doSensors s h die)

/-! ### Events (R402, R449) -/

/-- Whether sequence number `a` is not later than `b`. -/
def seqLe (a b : Word) : Bool := decide (0 ≤ (b - a).toInt)

/-- Entries of a ring from FROM onward; `none` when FROM has been overwritten: in the RAM ring, when it is no longer held; in the flash
ring, when it lies before the oldest sector of a full ring (assumption 24). -/
def eventsFrom? (s : State) (flash : Bool) (from_ : Word) : Option (List SeqEntry) :=
  let es := if flash then s.log.sectors.flatten else s.log.ram
  let gone : Bool := match es.head? with
    | some e => (!flash || flashSectors ≤ s.log.sectors.length) && !seqLe e.seq from_
    | none => !flash
  if seqLe s.log.seq from_ then some [] else if gone then none else some (es.filter (fun e => seqLe from_ e.seq))

/-- EVENTS_READ. -/
def doEventsRead (s : State) (h : CmdHdr) (addr : BitVec 64) (ring : BitVec 8) (fromSeq max : BitVec 32) : State :=
  command s h { opcode := 0x0502, ring0 := false, long := true, noDialect := true, switch := true }
    (addr.toNat % 64 == 0 && decide (ring.toNat ≤ 1)) true (fun s =>
    let s := riseReady s
    match eventsFrom? s (ring == 1) fromSeq with
    | none => complete s h 0x0502 stTooMany []
    | some es =>
      let out := es.take max.toNat
      let next : Word := if out.length = es.length then s.log.seq else match out.getLast? with
        | some e => e.seq + 1
        | none => fromSeq
      hostSend s h 0x0502 addr.toNat (out.flatMap SeqEntry.bytes) (natLE 4 out.length ++ natLE 4 next.toNat))

def execEventsRead (h : CmdHdr) (addr : BitVec 64) (ring : BitVec 8) (fromSeq max : BitVec 32) (s : State) :
    Host.Outcome State Fault Refusal := .next (doEventsRead s h addr ring fromSeq max)

/-! ### Fences (R272, R402, R403) -/

/-- A 16-byte fence record. -/
def fenceBytes (kind die index : Nat) (f : Fence) : List Byte :=
  [BitVec.ofNat 8 kind, BitVec.ofNat 8 die] ++ (natLE 2 index ++ ([BitVec.ofNat 8 f.st.code, f.reason] ++
    (natLE 2 f.faults.toNat ++ natLE 8 f.time.toNat)))

/-- A unit's record as FENCE_READ writes it. -/
def unitRecord (s : State) (d : Nat) (u : FUnit) : List Byte := fenceBytes u.kind d u.index (fenceOf s u)

/-- Head channels whose links lie on a die, in ascending order (R272). -/
def dieHeads (s : State) (d : Nat) : List Nat := (List.range (32 * s.part.dies)).filter (fun h => headDie? s h == some d)

/-- The 143 records of a die, in KIND and INDEX order; head-channel records left over hold INDEX 0xFFFF (R272). -/
def dieRecords (s : State) (d : Nat) : List Byte :=
  let hs := (dieHeads s d).take 32
  (List.range 66).flatMap (fun k => unitRecord s d (.clause d k)) ++ ((List.range 8).flatMap (fun l => unitRecord s d (.lane d l)) ++
    (hs.flatMap (fun h => unitRecord s d (.head h)) ++ ((List.range (32 - hs.length)).flatMap (fun _ => fenceBytes 3 d 0xFFFF {}) ++
    ((List.range 2).flatMap (fun ch => unitRecord s d (.dram d ch)) ++ ((List.range 32).flatMap (fun c => unitRecord s d (.dma d c)) ++
    ((List.range 2).flatMap (fun a => unitRecord s d (.axis (2 * d + a))) ++ unitRecord s d (.die d)))))))

/-- FENCE_READ. -/
def doFenceRead (s : State) (h : CmdHdr) (addr : BitVec 64) (die : BitVec 8) : State :=
  command s h { opcode := 0x0503, ring0 := false, long := true, noDialect := true, switch := true } (addr.toNat % 64 == 0)
    (die == 0xFF || dieOk s die.toNat) (fun s =>
    let ds := if die = 0xFF then List.range s.part.dies else [die.toNat]
    hostSend s h 0x0503 addr.toNat (ds.flatMap (dieRecords s)) (natLE 4 (143 * ds.length)))

def execFenceRead (h : CmdHdr) (addr : BitVec 64) (die : BitVec 8) (s : State) : Host.Outcome State Fault Refusal :=
  .next (doFenceRead s h addr die)

/-- The unit that KIND, DIE and INDEX name; none where the unit does not lie on that die (assumption 24). -/
def unitOf? (s : State) (kind die index : Nat) : Option FUnit :=
  match kind with
  | 1 => some (.clause die index)
  | 2 => some (.lane die index)
  | 3 => if headDie? s index = some die then some (.head index) else none
  | 4 => some (.dram die index)
  | 5 => some (.dma die index)
  | 6 => if index / 2 = die then some (.axis index) else none
  | _ => some (.die die)

/-- KIND and the physical numbers in range (R376). -/
def unitFieldOk (kind index : Nat) : Bool :=
  match kind with
  | 1 => decide (index < 66)
  | 2 => decide (index < 8)
  | 3 => true
  | 4 => decide (index < 2)
  | 5 => true
  | 6 => true
  | 7 => index == 0
  | _ => false

/-- The indices of R3 in range (R376). -/
def unitIndexOk (s : State) (kind die index : Nat) : Bool :=
  dieOk s die && (kind != 3 || headOk s index) && (kind != 5 || decide (index < 32)) && (kind != 6 || axisOk s index)

/-- Fence a clause as for a permanent fault: one that serves migrates, a spare or an unused one becomes FENCED, any other is left (R403). -/
def fenceClause (s : State) (d k : Nat) : State :=
  let x := clauseIx d k
  match (clauseAt s x).st with
  | .off =>
    if isFenced s (.clause d k) then s
    else changeFence (modClause s x (fun c => { c with st := .fenced })) (.clause d k) .fenced 9
  | .serving => permanentClause s x 9
  | .spare => permanentClause s x 9
  | _ => s

/-- Fence a DMA channel; a GATHER use that finds no free channel takes its head channel with it (R342). -/
def fenceDmaHost (s : State) (d c : Nat) : State :=
  let q := dmaAt s (dmaIx d c)
  let s := passDma s d c 9
  if q.use = 1 ∧ q.st ≠ .fenced ∧ (gatherCh? s q.arg).isNone then fenceHeads s [q.arg] 9 else s

/-- A unit takes a permanent fault with reason HOST (R403). -/
def fenceUnit (s : State) (u : FUnit) : State :=
  match u with
  | .clause d k => fenceClause s d k
  | .lane d n => match laneLink? s d n with
    | some l => if (laneAt s (8 * d + n)).retired then s else retireLanes s d l [n] 9
    | none => retireLane s d n 9
  | .head h => if isFenced s (.head h) then s else fenceHeads s [h] 9
  | .dram d ch => retireDram s d ch 9
  | .dma d c => fenceDmaHost s d c
  | .axis a => fenceAxis s a 9
  | .die d => dieFault s d 9

/-- FENCE; die 0 itself is never fenced (R264). -/
def doFence (s : State) (h : CmdHdr) (kind die : BitVec 8) (index : BitVec 16) : State :=
  command s h { opcode := 0x0504 } (unitFieldOk kind.toNat index.toNat) (unitIndexOk s kind.toNat die.toNat index.toNat) (fun s =>
    match unitOf? s kind.toNat die.toNat index.toNat with
    | none => complete s h 0x0504 stState []
    | some u => if u = .die 0 then complete s h 0x0504 stState [] else finish (fenceUnit s u) h 0x0504 [])

def execFence (h : CmdHdr) (kind die : BitVec 8) (index : BitVec 16) (s : State) : Host.Outcome State Fault Refusal :=
  .next (doFence s h kind die index)

/-- A head channel may return (R510): its link not RETIRED and wide enough with it added back. -/
def headReturns (s : State) (h : Nat) : Bool :=
  match headLink? s h with
  | some (d, l) =>
    let k := linkAt s (linkIx d l)
    k.st != .retired && fits s (popcount k.lanes) (h :: liveHeads s d l)
  | none => false

/-- The GATHER channel that was fenced with its head channel returns with it. -/
def freeGather (s : State) (h : Nat) : State :=
  match s.gram.dma.find? (fun e => e.use == 1 && e.arg == h) with
  | some e =>
    if isFenced s (.dma e.die e.ch) then
      changeFence (modDma s (dmaIx e.die e.ch) (fun q => { q with st := .idle })) (.dma e.die e.ch) .unfenced (fenceOf s (.dma e.die e.ch)).reason.toNat
    else s
  | none => s

/-- A head channel returns to service, with a LINE_BASE on an ACTIVE link naming the next head line (R510). -/
def unfenceHead (s : State) (h : Nat) : State :=
  let s := freeGather (changeFence s (.head h) .unfenced (fenceOf s (.head h)).reason.toNat) h
  let next := match (rowAt s (headRow s h)).gathered with
    | some g => g + 1
    | none => 0
  let s := modHead s h (fun c => { c with lines := [], nextGather := next, fault := none })
  newLineBase s h (nextSent s h)

/-- A unit other than a clause or a die returns; `none` where it may not (R424, R510; lanes, DMA and DRAM channels: assumption 24). -/
def unfenceUnit? (s : State) (u : FUnit) : Option State :=
  let reason := (fenceOf s u).reason.toNat
  if isFenced s (.die (u.die' s)) then none
  else match u with
  | .lane d n => some (changeFence (modLane s (8 * d + n) (fun a => { a with retired := false })) u .unfenced reason)
  | .head h => if headReturns s h then some (unfenceHead s h) else none
  | .dma d c => some (changeFence (modDma s (dmaIx d c) (fun q => { q.bare with st := .idle })) u .unfenced reason)
  | .axis a =>
    some (changeFence (modAxis s a (fun x => { x with st := if (axisRec? s a).isSome then .hold else .off, referenced := false,
                                                       trans := [], target := x.pos, goal := .none })) u .unfenced reason)
  | _ => none

/-- UNFENCE: a clause goes through its test, once it is FENCED; a die and any unit that may not return complete STATE (R403). -/
def doUnfence (s : State) (h : CmdHdr) (kind die : BitVec 8) (index : BitVec 16) : State :=
  command s h { opcode := 0x0505, ring0 := false, long := true, noDialect := true } (unitFieldOk kind.toNat index.toNat)
    (unitIndexOk s kind.toNat die.toNat index.toNat) (fun s =>
    let s := riseReady s
    let no := complete s h 0x0505 stState []
    match unitOf? s kind.toNat die.toNat index.toNat with
    | none => no
    | some u =>
      if !isFenced s u then no
      else match u with
      | .clause d k =>
        if isFenced s (.die d) then no
        else
          let s := park s (.unfence h 1 d k)
          if (clauseAt s (clauseIx d k)).st = .fencing then s else startTest s (clauseIx d k)
      | u => match unfenceUnit? s u with
        | some s => finish s h 0x0505 (natLE 1 (fenceOf s u).st.code)
        | none => no)

def execUnfence (h : CmdHdr) (kind die : BitVec 8) (index : BitVec 16) (s : State) : Host.Outcome State Fault Refusal :=
  .next (doUnfence s h kind die index)

/-! ### Flash (R404, R405, R437-R439) -/

/-- The fields of FLASH_WRITE and FLASH_READ in range. -/
def flashFieldOk (region : BitVec 8) (offset len : BitVec 32) : Bool :=
  decide (region.toNat ≤ 5) && offset.toNat % 4096 == 0 && decide (1 ≤ len.toNat ∧ len.toNat ≤ 8388608) &&
    decide (offset.toNat + len.toNat ≤ regionLen region.toNat)

/-- Regions that may not be written: the active Dialect's slot, one being loaded, and the patch region in use (R64, R405). -/
def regionHeld (s : State) (r : Nat) : Bool :=
  (s.dia.valid && s.dia.active.toNat == r) || (match s.load with | some j => j.slot == r | none => false) ||
    (decide (4 ≤ r) && s.boot.patch.toNat == r)

/-- Bytes padded with 0xFF to whole sectors. -/
def padSector (bs : List Byte) : List Byte := bs ++ List.replicate ((4096 - bs.length % 4096) % 4096) 0xFF

/-- FLASH_WRITE: the region's first sector is erased at once and kept aside; the rest follows when the flash is done, the first sector last, so
that a write cut short leaves it erased (R439). -/
def doFlashWrite (s : State) (h : CmdHdr) (_addr : BitVec 64) (region : BitVec 8) (offset len : BitVec 32) (rd : HostRead) : State :=
  command s h { opcode := 0x0601, ring0 := false, long := true, noDialect := true } (flashFieldOk region offset len) true (fun s =>
    if regionHeld s region.toNat then complete s h 0x0601 stState []
    else match rd with
      | .busError => complete s h 0x0601 stHostBus []
      | .data bs =>
        if bs.length < len.toNat then complete s h 0x0601 stHostBus []
        else
          let base := regionBase region.toNat
          park (flashErase s base 4096)
            (.flashWrite h region.toNat (base + offset.toNat) (bs.take len.toNat) (rdFlashN s.flash base 4096)))

def execFlashWrite (h : CmdHdr) (addr : BitVec 64) (region : BitVec 8) (offset len : BitVec 32) (rd : HostRead) (s : State) :
    Host.Outcome State Fault Refusal := .next (doFlashWrite s h addr region offset len rd)

/-- FLASH_READ. -/
def doFlashRead (s : State) (h : CmdHdr) (addr : BitVec 64) (region : BitVec 8) (offset len : BitVec 32) : State :=
  command s h { opcode := 0x0602, ring0 := false, long := true, noDialect := true, switch := true } (flashFieldOk region offset len) true
    (fun s =>
    let bs := rdFlashN s.flash (regionBase region.toNat + offset.toNat) len.toNat
    hostSend s h 0x0602 addr.toNat bs (natLE 4 (crc32c bs).toNat))

def execFlashRead (h : CmdHdr) (addr : BitVec 64) (region : BitVec 8) (offset len : BitVec 32) (s : State) :
    Host.Outcome State Fault Refusal := .next (doFlashRead s h addr region offset len)

/-- IMAGE_ACTIVATE: a patch that passes is selected once the boot configuration is written (R407, R440). -/
def doImageActivate (s : State) (h : CmdHdr) (region : BitVec 8) : State :=
  command s h { opcode := 0x0603, ring0 := false, long := true, noDialect := true, job := .no } (region == 4 || region == 5) true (fun s =>
    match patchOk? s region.toNat with
    | none => complete s h 0x0603 stAuth []
    | some img => park (eraseBoot s) (.imageActivate h region.toNat (leAt img 8 2)))

def execImageActivate (h : CmdHdr) (region : BitVec 8) (s : State) : Host.Outcome State Fault Refusal := .next (doImageActivate s h region)

/-- Whether a parked command waits for the flash, boot configuration writes first (R438). -/
def Parked.isActivate : Parked → Bool
  | .imageActivate _ _ _ => true
  | _ => false

/-- Whether a parked command is a FLASH_WRITE. -/
def Parked.isFlashWrite : Parked → Bool
  | .flashWrite _ _ _ _ _ => true
  | _ => false

/-- FLASH_ERASE_PROGRAM_DONE: the flash has done, or failed, the write at its head: the boot configuration, else the oldest FLASH_WRITE. -/
def doFlashEraseProgramDone (s : State) (ok : Bool) : State :=
  match s.parked.find? Parked.isActivate with
  | some (.imageActivate h region level) =>
    let s := { s with parked := s.parked.eraseP Parked.isActivate }
    if ok then finish (writeBoot s region) h 0x0603 (natLE 2 level) else complete s h 0x0603 stFlash []
  | _ => match s.parked.find? Parked.isFlashWrite with
    | some (.flashWrite h region a bs first) =>
      let s := { s with parked := s.parked.eraseP Parked.isFlashWrite }
      if ok then
        let all := padSector bs
        let base := regionBase region
        let s := flashWr (flashErase (flashWr s base first) a all.length) a all
        finish s h 0x0601 (natLE 4 (crc32c (rdFlashN s.flash a bs.length)).toNat)
      else complete s h 0x0601 stFlash []
    | _ => s

def execFlashEraseProgramDone (ok : Bool) (s : State) : Host.Outcome State Fault Refusal := .next (doFlashEraseProgramDone s ok)

/-! ### Tests (R404) -/

/-- MARCH: it waits for the die's engine; while a job is open only a preserving test of a die bank is accepted. -/
def doMarch (s : State) (h : CmdHdr) (kind die index mode : BitVec 8) : State :=
  let n := index.toNat
  command s h { opcode := 0x0701, ring0 := false, long := true, noDialect := true }
    (decide (mode.toNat ≤ 1) && (match kind.toNat with | 0 => decide (n < 32) | 1 => decide (n < 66) | 2 => n == 0 | _ => false))
    (dieOk s die.toNat) (fun s =>
    if jobOpen s && !(mode == 1 && kind == 0) then complete s h 0x0701 stJobActive []
    else
      let s := riseReady s
      if !dieLive s die.toNat then complete s h 0x0701 stState []
      else
        let s := park s (.march h die.toNat kind.toNat n (mode == 1))
        nextMarch s die.toNat (s.parked.length + 1))

def execMarch (h : CmdHdr) (kind die index mode : BitVec 8) (s : State) : Host.Outcome State Fault Refusal :=
  .next (doMarch s h kind die index mode)

/-- DDR_RETRAIN: the channel leaves its queue waiting while it retrains (R319). -/
def doDdrRetrain (s : State) (h : CmdHdr) (die channel : BitVec 8) : State :=
  let i := ddrIx die.toNat channel.toNat
  command s h { opcode := 0x0702, ring0 := false, long := true } (channel.toNat ≤ 1) (dieOk s die.toNat) (fun s =>
    let s := riseReady s
    let c := ddrAt s i
    if c.st = .retired ∨ c.st = .off then complete s h 0x0702 stState []
    else
      let s := park s (.retrain h die.toNat channel.toNat)
      if c.st = .active then setDdr s i { c with st := .retrain } else s)

def execDdrRetrain (h : CmdHdr) (die channel : BitVec 8) (s : State) : Host.Outcome State Fault Refusal :=
  .next (doDdrRetrain s h die channel)

end Sys2Proof.Machine
end

