-- ==== Sys2Proof/Machine/Job.lean ====
section
/-! DEFINITION. The job commands (R390-R398, R431). -/

namespace Sys2Proof.Machine

/-! ### JOB_OPEN (R390, R391) -/

/-- The field checks of R390. -/
def jobFieldsOk (p : JobParams) : Bool :=
  1 ≤ p.npages.toNat && p.npages.toNat ≤ 8 && p.start.extractLsb' 2 5 == 0 && p.rounds != 0 && p.rounds != 0xFFFFFFFF &&
    (List.range 8).all (fun i => i < p.npages.toNat || (!p.noOverlay.getLsbD i && p.pages.getD i 0 == 0))

/-- The pages listed. -/
def jobPages (p : JobParams) : List Word := (List.range p.npages.toNat).map (fun i => p.pages.getD i 0)

/-- PAGE: every listed page is defined, complete, and covers the rows of page 0. -/
def jobPagesOk (s : State) (ids : List Word) : Bool :=
  match ids.head?.bind (page? s) with
  | none => false
  | some p0 => ids.all (fun i => match page? s i with | some p => pageComplete s p && p.rows == p0.rows | none => false)

/-- Rows of a list of pages: those of its first. -/
def jobRows (s : State) (ids : List Word) : List Nat :=
  match ids.head?.bind (page? s) with
  | some p => pageRows p
  | none => []

/-- The greatest of some numbers. -/
def mostOf (ns : List Nat) : Nat := ns.foldl max 0

/-- W: max OW - min OW + 31 over some rows (R391). -/
def offsetSpan (s : State) (rows : List Nat) : Nat :=
  let ows := rows.map (fun r => (rowTiming s r).ow)
  mostOf ows - leastOf (mostOf ows) ows + 31

/-- TOO_MANY: more copies in flight than the report store holds. -/
def tooManyCopies (s : State) (rows : List Nat) (pitches : List Nat) : Bool :=
  let pmin := leastOf (mostOf pitches) pitches
  pmin == 0 || decide (4096 < (offsetSpan s rows + pmin - 1) / pmin + 1)

/-- The job that a JOB_OPEN makes. -/
def newJob (s : State) (p : JobParams) : Job :=
  let ids := jobPages p
  let rows := jobRows s ids
  { id := p.jobId, pages := ids, bands := ids.map (fun i => ((page? s i).map (fun q => q.bands)).getD 0),
    startEnc := (p.start.extractLsb' 0 2).toNat, startIndex := p.start.getLsbD 7, gutter := p.gutter.toNat, rounds := p.rounds.toNat,
    noOverlay := p.noOverlay, rows := rows, encs := (rows.map (fun r => (rowTiming s r).encoder)).eraseDups }

/-- Head line 0 of a channel: gathered from now on, after the LINE_BASE that names it (R25, R241). -/
def armHead (s : State) (h : Nat) : State :=
  newLineBase (startGather (modHead s h (fun c => { c with lines := [], nextGather := 0 })) h 0) h 0

/-- A job opens, ARMED: the part is Printing, clauses begin at line 0, rows wait, links leave electrical idle, every channel in service
gathers head line 0, and moving axes of covered groups stop (R25, R26, R230, R382, R391, R431). -/
def openJob (s : State) (j : Job) : State :=
  let s := clausesIdle (riseReady s) j.rows
  let s := { s with job := some j, power := { s.power with st := .printing } }
  let s := j.rows.foldl (fun s r => modRow s r (fun w =>
    { w with st := .armed, line := 0, pred := none, committed := none, tickDue := [], gathered := some 0, nowLine := none, ovsCopy := 0,
             lastFire := none, lastDropped := false })) s
  let hs := (j.rows.flatMap (rowLive s)).mergeSort (fun a b => decide (a ≤ b))
  stopCovered (hs.foldl armHead (exitIdleFor s hs))

/-- JOB_OPEN (R391). -/
def doJobOpen (s : State) (h : CmdHdr) (p : JobParams) : State :=
  command s h { opcode := 0x0206, ring0 := false, job := .no } (jobFieldsOk p) true (fun s =>
    let j := newJob s p
    if s.job.isSome then complete s h 0x0206 stBusy []
    else if !jobPagesOk s j.pages then complete s h 0x0206 stPage []
    else if j.rows.any (fun r => (rowTiming s r).ratio == 0) then complete s h 0x0206 stNoTiming []
    else if s.sync.mode = 2 ∧ !s.sync.lock then complete s h 0x0206 stNotLocked []
    else if tooManyCopies s j.rows (j.bands.map (fun b => 64 * b + j.gutter)) then complete s h 0x0206 stTooMany []
    else finish (openJob s j) h 0x0206 [])

def execJobOpen (h : CmdHdr) (p : JobParams) (s : State) : Host.Outcome State Fault Refusal := .next (doJobOpen s h p)

/-! ### JOB_STOP (R394) -/

/-- The result of JOB_STOP: the boundary in force. -/
def boundaryResult (s : State) : List Byte := natLE 4 ((s.job.bind (fun j => j.boundary)).getD 0xFFFFFFFF)

/-- JOB_STOP AT_COPY: a job still ARMED closes at once with boundary 0 (R394). -/
def doJobStopAtCopy (s : State) (h : CmdHdr) : State :=
  command s h { opcode := 0x0207, job := .required } true true (fun s =>
    match s.job with
    | none => s
    | some j =>
      let at_ := if j.st = .armed then { s with job := some { j with boundary := some 0, cut := some 0 } } else stopAt s (atCopyBoundary s j) 0
      finish (if j.st = .armed then closeJob at_ 1 else jobAdvance at_) h 0x0207 (boundaryResult at_))

def execJobStopAtCopy (h : CmdHdr) (s : State) : Host.Outcome State Fault Refusal := .next (doJobStopAtCopy s h)

/-- Whether every row has gathered all of a copy, so that a NOW stop leaves it whole. -/
def copyWhole (s : State) (j : Job) (i : Nat) : Bool :=
  j.rows.all (fun r => decide (firedFor s r (j.copyEnd i) ≤ (rowAt s r).gathered.getD 0 + 1))

/-- The first copy that a NOW stop cuts short. -/
def nowBoundary (s : State) (j : Job) : Nat :=
  let b := ((List.range (j.begun + 1 - j.ready)).map (fun n => j.ready + n)).find? (fun i => !copyWhole s j i)
  let b := b.getD (j.begun + 1)
  match j.boundary with
  | some c => min b c
  | none => min b j.copies

/-- JOB_STOP NOW: every row holds zeros from the next gather on; it overrides AT_COPY. A job still ARMED closes at once with boundary 0
(R394). -/
def doJobStopNow (s : State) (h : CmdHdr) : State :=
  command s h { opcode := 0x0207, job := .required } true true (fun s =>
    match s.job with
    | none => s
    | some j =>
      let at_ :=
        if j.st = .armed then { s with job := some { j with boundary := some 0, cut := some 0 } }
        else if j.now_ then s
        else
          let s := { s with job := some { j with now_ := true, boundary := some (nowBoundary s j), reasons := j.reasons ||| 2 } }
          j.rows.foldl (fun s r => modRow s r (fun w => { w with nowLine := w.gathered, st := if w.st = .run then .stopping else w.st })) s
      let end_ := if j.st = .armed then closeJob at_ 2 else if j.now_ then s else jobAdvance at_
      finish end_ h 0x0207 (boundaryResult at_))

def execJobStopNow (h : CmdHdr) (s : State) : Host.Outcome State Fault Refusal := .next (doJobStopNow s h)

/-! ### REPORT and JOB_STATUS (R397, R398) -/

/-- REPORT waits for the next undelivered report (R378, R397). -/
def doReport (s : State) (h : CmdHdr) : State :=
  command s h { opcode := 0x0208, ring0 := false, long := true } true true (fun s => serveAll (park s (.report h)))

def execReport (h : CmdHdr) (s : State) : Host.Outcome State Fault Refusal := .next (doReport s h)

/-- STATE of JOB_STATUS. -/
def jobCode (s : State) : Nat :=
  match s.job with
  | none => 0
  | some j => match j.st with
    | .armed => 1
    | .running => if j.boundary.isSome then 3 else 2
    | .closed => 4

/-- The result of JOB_STATUS (R398). -/
def statusResult (s : State) : List Byte :=
  match s.job with
  | none => List.replicate 12 0 ++ List.replicate 8 0xFF
  | some j =>
    natLE 1 (jobCode s) ++ (natLE 1 j.reasons.toNat ++ ([0, 0] ++ (natLE 4 j.id.toNat ++ (natLE 4 j.reported ++
      (natLE 4 (j.boundary.getD 0xFFFFFFFF) ++ natLE 4 ((leadLine? s j).getD 0xFFFFFFFF))))))

/-- JOB_STATUS (R398). -/
def doJobStatus (s : State) (h : CmdHdr) : State :=
  command s h { opcode := 0x0209 } true true (fun s => finish s h 0x0209 (statusResult s))

def execJobStatus (h : CmdHdr) (s : State) : Host.Outcome State Fault Refusal := .next (doJobStatus s h)

end Sys2Proof.Machine
end

