-- ==== Sys2Proof/Machine/Load.lean ====
section
/-! DEFINITION. The two passes of a Dialect load end (R61-R68). -/

namespace Sys2Proof.Machine

/-- GRAMMAR_ID of a slot as far as it was read. -/
def slotGid (d : Dialect) (f : Fail) : Nat := if f.1 = 1 ∨ f.1 = 2 ∨ f.1 = 0x1B then 0 else leAt d.img 0x10 4

/-- DIALECT_FIRST_PASS_DONE: the first check that fails ends the load; otherwise the commit point takes the old configuration down
(R60, R61 phases 1-6, R68). `flashErr`: the flash did not answer or reported an error. -/
def doDialectFirstPassDone (s : State) (flashErr : Bool) : State :=
  match s.load with
  | none => s
  | some j =>
    if j.second then s
    else
      let d := readSlot s j.slot
      match if flashErr then some (0x1B, noSect) else dialectFail s d with
      | some f => loadFailed s j f (slotGid d f)
      | none =>
        let j' := { j with second := true, crcs := passCrcs d, oldSlots := if s.dia.valid then s.gram.slots else [] }
        takeDown { s with load := some j' } (frameRecs d.pars).1

def execDialectFirstPassDone (flashErr : Bool) (s : State) : Host.Outcome State Fault Refusal := .next (doDialectFirstPassDone s flashErr)

/-- DIALECT_LOAD_DONE: the second pass ends; a CRC that differs from the first pass fails the load, otherwise the Dialect is ACTIVE
(R61 phases 7-10, R63). -/
def doDialectLoadDone (s : State) (flashErr : Bool) : State :=
  match s.load with
  | none => s
  | some j =>
    if !j.second then s
    else
      let d := readSlot s j.slot
      if flashErr then loadFailed s j (0x1B, noSect) 0
      else if passCrcs d ≠ j.crcs then loadFailed s j (0x1A, noSect) (leAt d.img 0x10 4)
      else endLoad (applyDialect s j d) j.slot (0, noSect) (leAt d.img 0x10 4)

def execDialectLoadDone (flashErr : Bool) (s : State) : Host.Outcome State Fault Refusal := .next (doDialectLoadDone s flashErr)

end Sys2Proof.Machine
end

