-- ==== Sys2Proof/Machine/Manage.lean ====
section
/-! DEFINITION. The managers' own work: heartbeats, watchdogs, sensors and safety limits (R434, R435, R442-R444), the event log (R445-R449) and
calibration (R451-R457). -/

namespace Sys2Proof.Machine

/-! ### Heartbeats and watchdogs (R435) -/

/-- Whether a die's management core runs: powered, not fenced, past stage 2, not stopped. -/
def coreRuns (s : State) (d : Nat) : Bool :=
  dieLive s d && s.power.st != .dormant && !s.power.porAsserted && !(mgtAt s d).coreStopped && decide (3 ≤ (mgtAt s d).stage.toNat)

/-- The blocks of TCM that the management core has read; at a poisoned one it stops (R288). -/
def coreReads (s : State) (d : Nat) (reads : List Nat) : State :=
  if !coreRuns s d then s
  else
    let s := reads.foldl (fun s n => settle s ⟨.tcm, d, n⟩) s
    if reads.any (poisoned s .tcm d) then modMgt s d (fun m => { m with coreStopped := true }) else s

/-- HEARTBEAT_SEND: a die manager of another die sends its heartbeat, a message of the MGT class (R360). `reads`: the blocks of TCM its core has read since the last one. -/
def doHeartbeatSend (s : State) (d : Nat) (reads : List Nat) : State :=
  let s := coreReads s d reads
  if d ≠ 0 ∧ coreRuns s d then emit (sendFlight s d (homePath s d) (.beat d)) (.heartbeat d) else s

def execHeartbeatSend (die : Nat) (reads : List Nat) (s : State) : Host.Outcome State Fault Refusal := .next (doHeartbeatSend s die reads)

/-- HEARTBEAT_TIMEOUT: 10 ms after the last heartbeat, a die fault with reason HEARTBEAT (R263). -/
def doHeartbeatTimeout (s : State) (d : Nat) : State :=
  if d = 0 ∨ !dieLive s d ∨ s.power.st = .dormant ∨ s.power.porAsserted then s
  else dieFault (advanceTo s ((mgtAt s d).lastBeat + 10 * msTicks)) d 10

def execHeartbeatTimeout (die : Nat) (s : State) : Host.Outcome State Fault Refusal := .next (doHeartbeatTimeout s die)

/-- MGT_WATCHDOG_EXPIRY: the core stops; on die 0 that is a die fault (R264). -/
def doMgtWatchdogExpiry (s : State) (d : Nat) : State :=
  if !coreRuns s d then s
  else
    let s := modMgt s d (fun m => { m with coreStopped := true })
    if d = 0 then dieFault s 0 8 else s

def execMgtWatchdogExpiry (die : Nat) (s : State) : Host.Outcome State Fault Refusal := .next (doMgtWatchdogExpiry s die)

/-! ### Sensors and safety limits (R442-R444, R489, R490) -/

/-- Operating windows of the rails, sensors 9-14, in mV: low, high, and the hard window's high side. -/
def railWindow (i : Nat) : Nat × Nat × Nat :=
  match i with
  | 9 => (720, 790, 850)
  | 10 => (770, 840, 900)
  | 11 => (475, 570, 620)
  | 12 => (820, 890, 950)
  | 13 => (1710, 1890, 1980)
  | _ => (1620, 1980, 2050)

/-- MGT_THERM_CLR: TMAX begins again (R460). -/
def doMgtThermClr (s : State) (d : Nat) : State := modMgt s d (fun m => { m with tmax := 0x80 })

def execMgtThermClr (die : Nat) (s : State) : Host.Outcome State Fault Refusal := .next (hostReg s die (fun s => doMgtThermClr s die))

/-- A temperature reading: TMAX follows it, and at or above TWARN it sets WARN and is logged (R443). -/
def tempReading (s : State) (d i : Nat) (v : BitVec 16) : State :=
  let m := mgtAt s d
  let deg := v.toInt / 16
  let hot := decide (16 * (m.twarn.toNat : Int) ≤ v.toInt)
  let m' := { m with tmax := if m.tmax.toInt < deg then BitVec.ofInt 8 deg else m.tmax, warn := m.warn || hot }
  let s := setMgt { s with sense := sput {} s.sense (16 * d + i) ⟨true, hot, v⟩ } d m'
  if hot && !m.warn then logEv s d 0x0060 (valueData i v.toNat 0 0) else s

/-- SENSOR_UPDATE: a new reading; none is taken while the die's converter is being calibrated (R442, R451). -/
def doSensorUpdate (s : State) (d i : Nat) (v : BitVec 16) : State :=
  if !dieOk s d ∨ 16 ≤ i ∨ (i = 15 ∧ d ≠ 0) ∨ s.power.st = .dormant ∨ s.power.porAsserted ∨ (s.cal.busy ∧ s.cal.item = 2 ∧ s.cal.res = d) then s
  else if i ≤ 8 then tempReading s d i v
  else
    let w := railWindow i
    let out := i != 15 && !decide (w.1 ≤ v.toNat ∧ v.toNat ≤ w.2.1)
    { s with sense := sput {} s.sense (16 * d + i) ⟨true, out, v⟩ }

def execSensorUpdate (die i : Nat) (v : BitVec 16) (s : State) : Host.Outcome State Fault Refusal := .next (doSensorUpdate s die i v)

/-- THERMAL_WARN_CLEAR: every sensor has read below TWARN - 5 °C for 1 s. -/
def doThermalWarnClear (s : State) (d : Nat) : State :=
  let m := mgtAt s d
  if m.warn && (List.range 9).all (fun i => decide ((senseAt s d i).value.toInt < 16 * ((m.twarn.toNat : Int) - 5))) then
    setMgt s d { m with warn := false }
  else s

def execThermalWarnClear (die : Nat) (s : State) : Host.Outcome State Fault Refusal := .next (doThermalWarnClear s die)

/-- Whether a reading lies beyond a safety limit: 120 °C, or above a rail's hard window (R444, R490). -/
def tripReading (rail : Bool) (i : Nat) (v : BitVec 16) : Bool :=
  if rail then decide (9 ≤ i ∧ i ≤ 14) && decide ((railWindow i).2.2 < v.toNat) else decide (i ≤ 8) && decide (1920 ≤ v.toInt)

/-- The die's links go to electrical idle, its clauses off and its axes hold at IHOLD (R424, R444). -/
def tripDown (s : State) (d : Nat) : State :=
  let ls := (allLinks s).filter (fun p => p.1 == d)
  let s := (ls.filter (fun p => let st := (linkAt s (linkIx p.1 p.2)).st; st != .down && st != .retired)).foldl (fun s p =>
    stopDriving s p.1 p.2) s
  let s := (List.range 66).foldl (fun s k => if (clauseAt s (clauseIx d k)).powered then powerOffClause s (clauseIx d k) else s) s
  [2 * d, 2 * d + 1].foldl (fun s a => modAxis (freezeAxis s a) a (fun x => { x with holdLow := true })) s

/-- SAFETY_TRIP: a die fault of the die, permanent at once; a die other than 0 is fenced until power-on reset (R444). -/
def doSafetyTrip (s : State) (d : Nat) (rail : Bool) (i : Nat) (v : BitVec 16) : State :=
  if !dieOk s d ∨ s.power.st = .dormant ∨ s.power.porAsserted ∨ (mgtAt s d).trip ∨ !tripReading rail i v then s
  else
    let s := modMgt s d (fun m => { m with trip := true })
    let s := tripDown (logEv s d 0x0061 (valueData (if rail then 1 else 0) i v.toNat 0)) d
    let s := dieFault s d 8
    if d = 0 then s
    else
      let s := putFence s (.die d) { fenceOf s (.die d) with safety := true }
      ((allLinks s).filter (fun p => p.1 == d && (linkAt s (linkIx p.1 p.2)).st == .down)).foldl (fun s p =>
        modLink s (linkIx p.1 p.2) (fun k => { k with st := .idle, idleSince := s.tb })) s

def execSafetyTrip (die : Nat) (rail : Bool) (sensor : Nat) (reading : BitVec 16) (s : State) : Host.Outcome State Fault Refusal :=
  .next (doSafetyTrip s die rail sensor reading)

/-! ### The event log (R446-R449) -/

/-- EVENT_LOG: the package manager takes the oldest entry of a die's event queue, once SEQ is known (R447, R448). -/
def doEventLog (s : State) (d : Nat) : State :=
  if fwRuns s && (s.startFailed || decide (5 ≤ (mgtAt s 0).stage.toNat)) && dieOk s d then takeEvent s d else s

def execEventLog (die : Nat) (s : State) : Host.Outcome State Fault Refusal := .next (doEventLog s die)

/-- FLASH_SECTOR_TIMER: the sector buffer is written 1 s after its first entry. -/
def execFlashSectorTimer (s : State) : Host.Outcome State Fault Refusal := .next (flushSector s)

/-- NOTIFY_INTERVAL: vector 4 at the end of an interval in which entries qualified. -/
def doNotifyInterval (s : State) : State :=
  if !s.log.intervalOpen then s
  else if s.log.qualified then msix { s with log := { s.log with qualified := false } } 4
  else { s with log := { s.log with intervalOpen := false } }

def execNotifyInterval (s : State) : Host.Outcome State Fault Refusal := .next (doNotifyInterval s)

/-- TIME_MARK: the hourly mark. -/
def doTimeMark (s : State) : State :=
  if fwRuns s && s.power.st != .starting then logEv s 0 0x0001 (valueData (aonNow s).toNat 2 0 0) else s

def execTimeMark (s : State) : Host.Outcome State Fault Refusal := .next (doTimeMark s)

/-! ### Calibration (R451-R457) -/

/-- The number of an item's resource in the table of last runs. -/
def calRes (item res : Nat) : Nat := 4096 * item + res

/-- Whether an item is to run on a resource: it fell due, or PERIOD seconds have passed since it last ran there (R455). -/
def calDue (s : State) (item res : Nat) : Bool :=
  s.cal.due.contains (item, res) || decide (sget 0 s.cal.lastRun (calRes item res) + s.cal.period.toNat * secTicks ≤ s.tb)

/-- The link that an item of 3 or 4 needs ACTIVE (R464). -/
def calLink? (s : State) (item res : Nat) : Option (Nat × Nat) := if item = 3 then some (res / 8, res % 8) else headLink? s res

/-- The first row line from `n` on that holds page data at stagger `g` (R392, R452). -/
def pageLineFrom? (s : State) (j : Job) (r n g : Nat) : Option Nat :=
  let o := (rowTiming s r).ow + g
  match j.copyAt (n - o) with
  | none => none
  | some i =>
    if (j.place (n - o)).isSome then some (n - o + o)
    else if i + 1 < j.bound then some (j.start (i + 1) + o) else none

/-- The first row line from the row's uncommitted one on that holds page data at one of some staggers. -/
def nextPageLine? (s : State) (j : Job) (r : Nat) (gs : List Nat) : Option Nat :=
  gs.foldl (fun m g => match m, pageLineFrom? s j r (rowAt s r).line g with
    | some a, some b => some (min a b)
    | none, b => b
    | a, none => a) none

/-- The predicted commit of a row line, in 1/64 ticks, from the row's last committed lines; none before there are any (R194, R453). -/
def commitAt? (s : State) (r L : Nat) : Option Nat :=
  let w := rowAt s r
  w.committed.map (fun l => w.tl + (L - l) * w.period.toNat - 64 * 256)

/-- Whether a row's next line with page data commits no sooner than 20 µs and a line period from now, or no such line comes. -/
def closesLate (s : State) (j : Job) (r : Nat) (gs : List Nat) : Bool :=
  match nextPageLine? s j r gs with
  | none => true
  | some L => match commitAt? s r L with
    | some t => decide (64 * (s.tb + 20 * usTicks) + (rowAt s r).period.toNat ≤ t)
    | none => false

/-- Whether a die gap is open: no job is open, or its lead row is committing gutter or post-job lines; and, with `long`, whether it is
predicted to stay open long enough for a slice (R452, R453). -/
def dieGap (s : State) (long : Bool) : Bool :=
  match s.job with
  | none => true
  | some j =>
    if !jobOpen s then true
    else
      let r := leadRow s j
      (leadLine? s j).isSome && nextPageLine? s j r [0] != some (rowAt s r).line && (!long || closesLate s j r [0])

/-- Whether a channel gap is open: the token of the last head line of a copy has been sent, and the next line that holds page data at any
stagger is not committed yet (R452, R453). -/
def channelGap (s : State) (long : Bool) (h : Nat) : Bool :=
  match s.job with
  | none => true
  | some j =>
    let r := headRow s h
    let gs := headStaggers s h
    if !jobOpen s || !j.rows.contains r then true
    else if j.st != .running then !long
    else nextPageLine? s j r gs != some (rowAt s r).line && (!long || closesLate s j r gs)

/-- Whether the gap that an item needs on a resource is open: a die's, a link's, which is one of all its channels, or a channel's (R451, R452). -/
def gapOpen (s : State) (long : Bool) (item res : Nat) : Bool :=
  if item = 4 then channelGap s long res
  else if item = 3 then (liveHeads s (res / 8) (res % 8)).all (channelGap s long)
  else dieGap s long

/-- The fast retrain that PINNED calls for runs in the first gap of its die: `i` is the channel, 2 x die + channel (R319, R455). -/
def gapRetrain (s : State) (i : Nat) : State :=
  let c := ddrAt s i
  if c.wantRetrain && c.st == .active && dieGap s true then setDdr s i { c with st := .retrain } else s

/-- Whether a slice of an item may start on a resource: it is due, its gap is predicted long enough, its link, if it needs one, is ACTIVE, and
the last slice there is 100 µs ago (R453, R455, R464). -/
def sliceReady (s : State) (item res : Nat) : Bool :=
  let last := sget 0 s.cal.lastRun (calRes item res)
  let up : Bool := item ≤ 2 || (match calLink? s item res with
    | some p => (linkAt s (linkIx p.1 p.2)).st == .active
    | none => false)
  calDue s item res && up && gapOpen s true item res && (last == 0 || decide (last + 100 * usTicks ≤ s.tb))

/-- The slice that starts next: items in ascending order, and resources in ascending order within an item (R455). -/
def nextSlice? (s : State) : Option (Nat × Nat) :=
  [1, 2, 3, 4].findSome? (fun item => ((calResources s item).find? (sliceReady s item)).map (fun res => (item, res)))

/-- CAL_SLICE: DRAM channels pinned by their drift begin the retrain they wait for, and the next slice starts where none is in progress
(R453, R455). -/
def doCalSlice (s : State) : State :=
  if !fwRuns s || s.power.st == .starting then s
  else
    let s := (List.range (2 * s.part.dies)).foldl gapRetrain s
    if s.cal.busy then s
    else match nextSlice? s with
      | none => s
      | some (item, res) =>
        let s := { s with cal := { s.cal with busy := true, item := BitVec.ofNat 3 item, res := res } }
        if item = 4 then sendEcho s res else s

def execCalSlice (s : State) : Host.Outcome State Fault Refusal := .next (doCalSlice s)

/-- A loop applies a value within its bounds; one that wanted to pass them pins, sets its bit and is logged (R458, R459). -/
def pinLoop (s : State) (loop res : Nat) (wanted applied : Int) : State :=
  if wanted = applied then s
  else
    let s := { s with cal := { s.cal with pinned := s.cal.pinned ||| (1#3 <<< (loop - 1)) } }
    logEv s 0 0x0026 (valueData loop res (BitVec.ofInt 32 wanted).toNat (BitVec.ofInt 32 applied).toNat)

/-- Item 1: the trim code within TRIM_MIN and TRIM_MAX. -/
def calTrim (s : State) (d : Nat) (want : Int) : State :=
  let m := mgtAt s d
  let got := max (m.trimMin.toNat : Int) (min (m.trimMax.toNat : Int) want)
  let s := setMgt s d { m with trim := BitVec.ofInt 10 got }
  pinLoop (putResult s 1 d (natLE 4 got.toNat)) 1 d want got

/-- Item 2: the offset of each of the 16 sensors, 4 bytes each, within OFS_MAX (R459; the layout: assumption 22). -/
def calOffsets (s : State) (d : Nat) (payload : List Byte) : State :=
  let lim : Int := s.cal.ofsMax.toNat
  let want (i : Nat) : Int := signedNat 32 (leAt payload (4 * i) 4)
  let got (i : Nat) : Int := max (-lim) (min lim (want i))
  (List.range 16).foldl (fun s i => pinLoop s 2 d (want i) (got i)) (putResult s 2 d ((List.range 16).flatMap (fun i => intLE 4 (got i))))

/-- Item 3: deskew and settings of each lane of a link, for the next fast exit or retrain (R454): the slice gives the receiver's equaliser and
deskew, in the form of the store; the taps are the lane's own and the board's as last reported (R225). -/
def calLanes (s : State) (i : Nat) (payload : List Byte) : State :=
  let ls := match linkRec? s (i / 8) (i % 8) with
    | some p => laneList (recLanes p)
    | none => []
  let s := (List.range ls.length).foldl (fun s n =>
    let m := 8 * (i / 8) + ls.getD n 0
    let b := slice payload (32 * n) 32
    putResult s 4 m (laneRecord { laneAt s m with
      ctle := BitVec.ofNat 4 (leAt b 2 1), dfe1 := byteAt b 3, skew := BitVec.ofNat 6 (leAt b 6 1) } (b.drop 7))) s
  modLink s i (fun k => { k with stored := true, storedTemp := dieTemp s (i / 8) })

/-- Item 4: LAT from the round trip, within LAT_WIN ticks of the value that CAPS measured (R247, R459). -/
def calLatency (s : State) (h round : Nat) : State :=
  let c := headAt s h
  let want : Int := latOf round c.turn
  let win : Int := 64 * s.cal.latWin.toNat
  let got := max ((c.latCaps : Int) - win) (min ((c.latCaps : Int) + win) want)
  let s := setHead s h { c with lat := got.toNat }
  pinLoop (putResult s 5 h (natLE 2 got.toNat ++ (natLE 2 c.turn ++ natLE 4 c.boardId.toNat))) 3 h want got

/-- Once no resource of an item is left to run, CAL_DONE is logged (R446). -/
def calDone (s : State) (item : Nat) : State :=
  if s.cal.due.any (fun x => x.1 == item && (calResources s item).contains x.2) then s
  else
    let n := sget 0 s.cal.ran item
    logEv { s with cal := { s.cal with ran := sput 0 s.cal.ran item 0 } } 0 0x0070 (valueData item n s.cal.count.toNat 0)

/-- CAL_RUN commands whose resources have all run, or are no longer there, complete (R402). -/
def endCalRuns (s : State) : State :=
  let ends (p : Parked) : Bool := match p with
    | .calRun _ _ left => left.all (fun x => !s.cal.due.contains x || !(calResources s x.1).contains x.2)
    | _ => false
  let ps := s.parked.filter ends
  ps.foldl (fun s p => match p with
    | .calRun h _ _ => finish s h 0x0401 []
    | _ => s) { s with parked := s.parked.filter (fun p => !ends p) }

/-- A slice's result applies (R454): a trim code, sensor offsets, a link's lane settings, or the round trip that the channel's echo gave. -/
def calApply (s : State) (item res : Nat) (value : Int) (payload : List Byte) : State :=
  match item with
  | 1 => calTrim s res value
  | 2 => calOffsets s res payload
  | 3 => calLanes s res payload
  | _ => calLatency s res ((headAt s res).round.getD 0)

/-- CAL_SLICE_DONE: the result applies, or, its gap having closed early, is discarded and the item stays due, as it does where the echo brought
no reply (R247, R453, R454). -/
def doCalSliceDone (s : State) (value : Int) (payload : List Byte) : State :=
  if !s.cal.busy then s
  else
    let item := s.cal.item.toNat
    let res := s.cal.res
    let c := s.cal
    let s := { s with cal := { c with busy := false, item := 0, lastRun := sput 0 c.lastRun (calRes item res) s.tb } }
    if !gapOpen s false item res || (item == 4 && (headAt s res).round.isNone) then addDue s [(item, res)]
    else
      let s := { s with cal := { s.cal with due := s.cal.due.erase (item, res), ran := smod 0 s.cal.ran item (fun n => n + 1) } }
      endCalRuns (calDone (calApply s item res value payload) item)

def execCalSliceDone (value : Int) (payload : List Byte) (s : State) : Host.Outcome State Fault Refusal :=
  .next (doCalSliceDone s value payload)

/-- CAL_STORE_WRITE: a changed result is stored, no sooner than 60 s after the last write except at once after a full DRAM training (R457). -/
def doCalStoreWrite (s : State) : State :=
  let may := s.cal.atOnce || (match s.cal.lastWrite with
    | some t => decide (t + 60 * secTicks ≤ s.tb)
    | none => true)
  if s.cal.changed && may then writeStore s else s

def execCalStoreWrite (s : State) : Host.Outcome State Fault Refusal := .next (doCalStoreWrite s)

end Sys2Proof.Machine
end

