-- ==== Sys2Proof/Machine/Motion.lean ====
section
/-! DEFINITION. Motion commands and events: axes, stops, limits, stalls, homing, services, purges and spits (R406, R409-R433). -/

namespace Sys2Proof.Machine

/-! ### Registers -/

/-- MOT_AX_CTRL.CLR clears MOT_AX_CNT (R432). -/
def doMotAxCtrlClr (s : State) (axis : Nat) : State := modAxis s axis (fun x => { x with stalls := 0, limits := 0, homes := 0 })

def execMotAxCtrlClr (axis : Nat) (s : State) : Host.Outcome State Fault Refusal := 
  .next (hostReg s (axis / 2) (fun s => doMotAxCtrlClr s axis))

/-! ### Checks of the motion commands (R425) -/

/-- Whether an axis belongs to a group whose head channels an open job covers. -/
def axisCovered (s : State) (a : Nat) : Bool :=
  match axisGroup? s a with
  | some g => groupCovered s g
  | none => false

/-- Whether an axis is homing or a service uses it. -/
def axisBusy (s : State) (a : Nat) : Bool := (axisAt s a).st == .homing || (axisAt s a).group.isSome

/-- Whether a retarget's stopping point lies outside the soft limits (R416). -/
def retargetOut (r : AxisRec) (x : Axis) (prof : Nat) : Bool :=
  if x.st = .move ∨ x.st = .stopping then
    let p := r.profs.getD prof (1, 1, 1)
    let stop := x.pos + stopDist x.vel x.acc (accU p.2.1) (jerkU p.2.2)
    decide (stop < posU r.softMin) || decide (posU r.softMax < stop)
  else false

/-! ### AXIS_HOME, AXIS_MOVE, AXIS_STOP (R406, R416-R422) -/

/-- AXIS_HOME references an axis by switch or hard stop. -/
def doAxisHome (s : State) (h : CmdHdr) (axis : BitVec 8) : State :=
  let a := axis.toNat
  command s h { opcode := 0x0802, ring0 := false, long := true } true (axisOk s a) (fun s =>
    let s := riseReady s
    if axisCovered s a then complete s h 0x0802 stJobActive []
    else if axisBusy s a then complete s h 0x0802 stBusy []
    else match axisRec? s a with
      | none => complete s h 0x0802 stState []
      | some r =>
        if (axisAt s a).st = .fenced then complete s h 0x0802 stState []
        else
          let s := endAxisCmd s a stCancelled
          park (modAxis s a (beginHome r)) (.axis h a 0x0802))

def execAxisHome (h : CmdHdr) (axis : BitVec 8) (s : State) : Host.Outcome State Fault Refusal := .next (doAxisHome s h axis)

/-- AXIS_MOVE moves an axis, or retargets its move, the earlier command completing CANCELLED (R406, R416, R420, R425). -/
def doAxisMove (s : State) (h : CmdHdr) (axis profile : BitVec 8) (target : BitVec 32) : State :=
  let a := axis.toNat
  let t := target.toInt
  let p := profile.toNat
  command s h { opcode := 0x0803, ring0 := false, long := true } true (axisOk s a) (fun s =>
    let s := riseReady s
    match axisRec? s a with
    | none => complete s h 0x0803 stState []
    | some r =>
      let x := axisAt s a
      let pump := isPump s a
      if r.nprof ≤ p ∨ (!pump ∧ (t < r.softMin ∨ r.softMax < t)) then complete s h 0x0803 stBadField []
      else if axisCovered s a then complete s h 0x0803 stJobActive []
      else if axisBusy s a then complete s h 0x0803 stBusy []
      else if x.st = .fenced ∨ (!x.referenced ∧ !pump) ∨ limitBlocks x t ∨ (!pump ∧ retargetOut r x p) then complete s h 0x0803 stState []
      else
        let s := endAxisCmd s a stCancelled
        park (modAxis s a (fun x => aimAxis r x t p)) (.axis h a 0x0803))

def execAxisMove (h : CmdHdr) (axis profile : BitVec 8) (target : BitVec 32) (s : State) : Host.Outcome State Fault Refusal :=
  .next (doAxisMove s h axis profile target)

/-- The axes an AXIS_STOP names: one, or every configured one for 0xFF. -/
def stopAxes (s : State) (axis : BitVec 8) : List Nat :=
  if axis = 0xFF then (List.range (2 * s.part.dies)).filter (fun a => (axisRec? s a).isSome) else [axis.toNat]

/-- Stop one axis with deceleration: what it worked for is CANCELLED (R406, R418, R425). -/
def stopOne (s : State) (a : Nat) : State :=
  let s := stopDecel s a .stop
  let s := modAxis s a (fun x => if x.st = .stalled then { x with st := .hold, goal := .none, repeat_ := none, repeating := false } else x)
  axisFailed s a stCancelled

/-- AXIS_STOP MODE 0. -/
def doAxisStopDecelerate (s : State) (h : CmdHdr) (axis : BitVec 8) : State :=
  command s h { opcode := 0x0804 } true (axis == 0xFF || axisOk s axis.toNat) (fun s =>
    if axis ≠ 0xFF ∧ (axisRec? s axis.toNat).isNone then complete s h 0x0804 stState []
    else finish ((stopAxes s axis).foldl stopOne s) h 0x0804 [])

def execAxisStopDecelerate (h : CmdHdr) (axis : BitVec 8) (s : State) : Host.Outcome State Fault Refusal :=
  .next (doAxisStopDecelerate s h axis)

/-- AXIS_STOP MODE 1: the commanded position freezes and the reference is lost (R418, R423). -/
def doAxisStopHold (s : State) (h : CmdHdr) (axis : BitVec 8) : State :=
  command s h { opcode := 0x0804 } true (axis == 0xFF || axisOk s axis.toNat) (fun s =>
    if axis ≠ 0xFF ∧ (axisRec? s axis.toNat).isNone then complete s h 0x0804 stState []
    else finish ((stopAxes s axis).foldl (fun s a => axisFailed (freezeAxis s a) a stCancelled) s) h 0x0804 [])

def execAxisStopHold (h : CmdHdr) (axis : BitVec 8) (s : State) : Host.Outcome State Fault Refusal := .next (doAxisStopHold s h axis)

/-! ### Services (R428, R429) -/

/-- Role axes that some steps move. -/
def movedAxes (steps : List SvcStep) : List Nat :=
  steps.filterMap (fun st => match st with | .moveTo a _ _ => some a | _ => none)

/-- The homing steps ahead of a service's own: LIFT, CAP, WIPER, those it moves (R428). -/
def homeSteps (r : SvcRec) (steps : List SvcStep) : List SvcStep :=
  ([r.lift, r.cap, r.wiper].filter (fun a => (movedAxes steps).contains a)).map .homeAxis

/-- The steps that bring the heads up and park the cap. -/
def safeSteps (r : SvcRec) : List SvcStep := [.moveTo r.lift r.liftService r.liftProf, .moveTo r.cap r.capPark r.capProf]

/-- Whether a group's state calls for those steps first. -/
def needsSafe (st : GrpState) : Bool := st == .unknown || st == .failed

/-- A SERVICE: the checks of R425 in order, then its steps. `roles` are the axes it needs, `okFrom` its starting states. -/
def service (s : State) (h : CmdHdr) (code : Nat) (group : BitVec 16) (argOk : Bool) (whileJob : Bool) (okFrom : GrpState → Bool)
    (roles : SvcRec → GrpState → List Nat) (steps : SvcRec → GrpState → List SvcStep) (endState : GrpState → GrpState) : State :=
  let g := group.toNat
  command s h { opcode := 0x0801, ring0 := false, long := true } (decide (g < 16) && argOk) true (fun s =>
    let s := riseReady s
    if groupCovered s g ∨ (!whileJob ∧ jobOpen s) then complete s h 0x0801 stJobActive []
    else match svcRec? s g with
      | none => complete s h 0x0801 stState []
      | some r =>
        let q := svcAt s g
        if q.st = .running ∨ r.axes.any (fun a => (axisAt s a).st == .homing) then complete s h 0x0801 stBusy []
        else
          let need := roles r q.st
          let bad : Bool := need.any (fun a => a == 0xFF || (axisRec? s a).isNone || (axisAt s a).st == .fenced)
          if bad || !okFrom q.st then complete s h 0x0801 stState []
          else
            let own := steps r q.st
            let all := homeSteps r own ++ own
            let s := (movedAxes own).foldl (fun s a => endAxisCmd s a stCancelled) s
            let s := modSvc s g (fun q => { q with st := .running, service := BitVec.ofNat 4 code, steps := all, endState := endState q.st })
            runService (park s (.service h g)) g (all.length + 1))

/-- Any starting state but RUNNING. -/
def anyButRunning (st : GrpState) : Bool := st != .running

/-- CAP: heads up, cap on, heads down onto it (R429). -/
def doCap (s : State) (h : CmdHdr) (group : BitVec 16) (_arg : BitVec 32) : State :=
  service s h 1 group true true anyButRunning (fun r _ => [r.lift, r.cap])
    (fun r st => (if needsSafe st then safeSteps r else []) ++
      [.moveTo r.lift r.liftService r.liftProf, .moveTo r.cap r.capOn r.capProf, .moveTo r.lift r.liftCap r.liftProf])
    (fun _ => .capped)

def execCap (h : CmdHdr) (group : BitVec 16) (arg : BitVec 32) (s : State) : Host.Outcome State Fault Refusal := .next (doCap s h group arg)

/-- UNCAP: heads up, cap parked, heads down to print (R429). -/
def doUncap (s : State) (h : CmdHdr) (group : BitVec 16) (_arg : BitVec 32) : State :=
  service s h 2 group true true anyButRunning (fun r _ => [r.lift, r.cap])
    (fun r _ => safeSteps r ++ [.moveTo r.lift r.liftPrint r.liftProf]) (fun _ => .print)

def execUncap (h : CmdHdr) (group : BitVec 16) (arg : BitVec 32) (s : State) : Host.Outcome State Fault Refusal :=
  .next (doUncap s h group arg)

/-- ARG with 0 read as 1 (R429). -/
def argOr1 (arg : BitVec 32) : Nat := if arg = 0 then 1 else arg.toNat

/-- One wiper pass. -/
def wipePass (r : SvcRec) : List SvcStep :=
  [.moveTo r.lift r.liftWipe r.liftProf, .moveTo r.wiper r.wipeEnd r.wipeProf, .moveTo r.lift r.liftService r.liftProf,
   .moveTo r.wiper r.wipePark r.wipeRet]

/-- WIPE: passes of the wiper, then a spit with SPIT_AFTER_WIPE (R429). -/
def doWipe (s : State) (h : CmdHdr) (group : BitVec 16) (arg : BitVec 32) : State :=
  let fromCap (st : GrpState) : Bool := needsSafe st || st == .capped
  service s h 3 group (decide (argOr1 arg ≤ 16)) true anyButRunning
    (fun r st => [r.lift, r.wiper] ++ (if fromCap st then [r.cap] else []))
    (fun r st => (if fromCap st then safeSteps r else []) ++ (List.replicate (argOr1 arg) (wipePass r)).flatten ++
      (if r.spitAfter then [.spit r.spitLines] else []))
    (fun _ => .service)

def execWipe (h : CmdHdr) (group : BitVec 16) (arg : BitVec 32) (s : State) : Host.Outcome State Fault Refusal := .next (doWipe s h group arg)

/-- SPIT: spit lines on the group's channels (R429, R430). -/
def doSpit (s : State) (h : CmdHdr) (group : BitVec 16) (arg : BitVec 32) : State :=
  service s h 4 group (decide (argOr1 arg ≤ 65535)) false (fun st => st == .capped || st == .service) (fun _ _ => [])
    (fun _ _ => [.spit (argOr1 arg)]) (fun st => st)

def execSpit (h : CmdHdr) (group : BitVec 16) (arg : BitVec 32) (s : State) : Host.Outcome State Fault Refusal := .next (doSpit s h group arg)

/-- PURGE: the pump from 0, then the dwell (R427, R429). -/
def doPurge (s : State) (h : CmdHdr) (group : BitVec 16) (arg : BitVec 32) : State :=
  service s h 5 group (decide (argOr1 arg ≤ 16)) true (fun st => st == .capped) (fun r _ => [r.pump])
    (fun r _ => [.zeroPump r.pump, .moveTo r.pump (argOr1 arg * r.purgeSteps : Nat) r.pumpProf, .dwell]) (fun _ => .capped)

def execPurge (h : CmdHdr) (group : BitVec 16) (arg : BitVec 32) (s : State) : Host.Outcome State Fault Refusal :=
  .next (doPurge s h group arg)

/-- HEAD_LIFT: heads down to print or up to service (R429). -/
def doHeadLift (s : State) (h : CmdHdr) (group : BitVec 16) (arg : BitVec 32) : State :=
  service s h 6 group (decide (arg.toNat ≤ 1)) true (fun st => st == .print || st == .service || st == .unknown)
    (fun r st => [r.lift] ++ (if st == .unknown then [r.cap] else []))
    (fun r st => (if st == .unknown then safeSteps r else []) ++
      [.moveTo r.lift (if arg = 0 then r.liftPrint else r.liftService) r.liftProf])
    (fun _ => if arg = 0 then .print else .service)

def execHeadLift (h : CmdHdr) (group : BitVec 16) (arg : BitVec 32) (s : State) : Host.Outcome State Fault Refusal :=
  .next (doHeadLift s h group arg)

/-- PURGE_DWELL_EXPIRY: the dwell of a purge ends, and with it the service. -/
def doPurgeDwellExpiry (s : State) (g : Nat) : State :=
  match (svcAt s g).steps with
  | .dwell :: _ => stepDone s g
  | _ => s

def execPurgeDwellExpiry (group : Nat) (s : State) : Host.Outcome State Fault Refusal := .next (doPurgeDwellExpiry s group)

/-! ### Spits (R430) -/

/-- Whether a channel lacks a spit line (R203). -/
def spitLacks (s : State) (h k : Nat) : Bool :=
  stopCause s h != 0 || !headActive s h ||
    !(headAt s h).lines.any (fun l => l.spit && l.line == k && l.committed.isNone && l.delivered)

/-- SPIT_TICK: the next spit line of a group is committed 256 ticks ahead of its spit tick; every channel in service fires it, or the service
ends with STATE when one lacks it; the spit tick after it is SPIT_PERIOD later (R430). -/
def doSpitTick (s : State) (g : Nat) : State :=
  let q := svcAt s g
  match q.steps, svcRec? s g with
  | .spit n :: _, some r =>
    let s := advanceTo s (q.spitAt - 256)
    let k := q.spitLine
    let hs := (r.heads.filter (fun h => !isFenced s (.head h))).mergeSort (fun a b => decide (a ≤ b))
    if hs.any (fun h => spitLacks s h k) then
      let s := hs.foldl (fun s h => modHead s h (fun c => { c with lines := c.lines.filter (fun l => !l.spit) })) s
      endService s g stState q.endState
    else
      let tl := 64 * q.spitAt
      let s := hs.foldl (fun s h =>
        let fd := ((nozTable? s h).map nozFd).getD 0
        let (fire, s) := sendToken s h k tl true
        modHead (dropCommitted s h k) h (fun c => { c with lines := c.lines.map (fun l =>
          if l.spit ∧ l.line = k then { l with committed := some fire, fireAt := tl + fd } else l) })) s
      let s := modSvc s g (fun q => { q with spitLine := k + 1, spitAt := q.spitAt + r.period * usTicks })
      if n ≤ k + 1 then stepDone s g else spitLine s r (k + 1)
  | _, _ => s

def execSpitTick (group : Nat) (s : State) : Host.Outcome State Fault Refusal := .next (doSpitTick s group)

/-! ### The profile tick (R410, R411, R415-R422) -/

/-- HOME becomes active in phase 3: the position of that tick becomes HOME_POS, and the axis stops (R421). -/
def homeFound (s : State) (a : Nat) (r : AxisRec) : State :=
  stopDecel (modAxis s a (fun x => { x with pos := posU r.refPos, cnt := 0, encBase := r.refPos })) a (.home 13)

/-- What homing does at a tick besides moving: a phase whose end holds stops (R421). -/
def homeTick (s : State) (a : Nat) (r : AxisRec) : State :=
  let x := axisAt s a
  match x.goal with
  | .home 1 =>
    if x.home then stopDecel (modAxis s a (fun x => { x with homeSeen := true })) a (.home 11)
    else if (if r.homePos then x.limP else x.limN) then stopDecel s a (.home 11)
    else s
  | .home 2 =>
    match x.clearFrom with
    | some p => if posU r.backoff ≤ (x.pos - p).natAbs then stopDecel s a (.home 12) else s
    | none => s
  | .home 3 => if x.home then homeFound s a r else s
  | _ => s

/-- PROFILE_TICK: the axis moves one tick along its profile; resolution, duties and the stall comparison follow, and a motion that comes to
rest at its end is dealt with (R410, R415, R417, R419). In the first tick of an energised axis EN rises and both duties are still 0 (R504). -/
def doProfileTick (s : State) (a : Nat) : State :=
  match axisRec? s a with
  | none => s
  | some r =>
    let s := homeTick s a r
    let x := axisAt s a
    if x.st = .off ∨ (x.st = .fenced ∧ !x.en) then s
    else
      let lim := axisLimits r x
      let n := if x.moving then profStep x.pos x.vel x.acc x.target lim.1 lim.2.1 lim.2.2 else (x.pos, x.vel, x.acc)
      let y := { x with pos := n.1, vel := n.2.1, acc := n.2.2 }
      let y := { y with res := nextRes r y x.pos }
      let lag : Bool := r.ratio != 0 && decide (r.stallWin < (y.encPos r - y.posReg).natAbs)
      let y := { y with overTicks := if lag then y.overTicks + 1 else 0 }
      let y := if x.en then setPwm r y else { y with en := true }
      let s := setAxis s a y
      if y.moving ∧ y.pos = y.target ∧ y.vel = 0 then axisArrived s a r else s

def execProfileTick (axis : Nat) (s : State) : Host.Outcome State Fault Refusal := .next (doProfileTick s axis)

/-- AXIS_ENCODER_COUNT: A and B have stood at the levels `la` and `lb` for `samples` MOT cycles. From 2 samples on they are accepted: one level
that changed is a count, forward when it leaves A leading B; two that changed at once are none (R190, R411). -/
def doAxisEncoderCount (s : State) (a : Nat) (la lb : Bool) (samples : Nat) : State :=
  let x := axisAt s a
  if samples < 2 ∨ (la = x.encA ∧ lb = x.encB) then s
  else
    let step : Int := if la ≠ x.encA ∧ lb ≠ x.encB then 0 else if (if la ≠ x.encA then la ≠ lb else la = lb) then 1 else -1
    setAxis s a { x with encA := la, encB := lb, cnt := x.cnt + step }

def execAxisEncoderCount (axis : Nat) (la lb : Bool) (samples : Nat) (s : State) : Host.Outcome State Fault Refusal :=
  .next (doAxisEncoderCount s axis la lb samples)

/-- HOLD_DELAY_EXPIRY: HOLD_DELAY ms after the velocity became 0 the axis drops to IHOLD (R410). -/
def doHoldDelayExpiry (s : State) (a : Nat) : State :=
  let x := axisAt s a
  match axisRec? s a with
  | none => s
  | some r =>
    if x.st = .hold ∧ x.vel = 0 ∧ !x.holdLow then setAxis (advanceTo s (x.restTick + r.holdDelay * msTicks)) a { x with holdLow := true } else s

def execHoldDelayExpiry (axis : Nat) (s : State) : Host.Outcome State Fault Refusal := .next (doHoldDelayExpiry s axis)

/-! ### Inputs (R412, R420, R421) -/

/-- Direction of travel: of the velocity, or at its start toward the target. -/
def Axis.dir (x : Axis) : Int := if 0 < x.vel then 1 else if x.vel < 0 then -1 else if x.pos < x.target then 1 else if x.target < x.pos then -1 else 0

/-- A limit trips in the direction of travel: the axis stops, its command ends with STATE, and the stop is counted and logged (R420). -/
def limitStop (s : State) (a : Nat) (plus : Bool) : State :=
  let pos := (axisAt s a).posReg
  let s := modAxis (stopDecel s a .stop) a (fun x => { x with limits := satInc x.limits })
  let s := logEv s (a / 2) 0x0050 (unitData 6 0 a 0 0 (intLE 4 pos ++ [if plus then 1 else 0]))
  axisFailed s a stState

/-- A limit becomes active (R420-R422). -/
def limitActive (s : State) (a : Nat) (plus : Bool) : State :=
  match axisRec? s a with
  | none => s
  | some r =>
    let x := axisAt s a
    let side : Int := if plus then 1 else -1
    if !x.moving ∨ x.goal = .stop then s
    else match x.goal with
      | .home 1 => if side = r.dirH then stopDecel s a (.home 11) else if x.dir = side then limitStop s a plus else s
      | .home 2 => axisFailed (stopDecel s a .stop) a stState
      | .home 3 => axisFailed (stopDecel s a .stop) a stState
      | _ => if x.dir = side then limitStop s a plus else s

/-- HOME changes during homing: phase 1 ends when it becomes active; in phase 2 its clear travel begins when it becomes inactive after
having been active; phase 3 ends at its edge (R421). -/
def homeLevel (s : State) (a : Nat) (active : Bool) : State :=
  match axisRec? s a with
  | none => s
  | some r =>
    match (axisAt s a).goal with
    | .home 1 => if active then stopDecel (modAxis s a (fun x => { x with homeSeen := true })) a (.home 11) else s
    | .home 2 => modAxis s a (fun x => if active then { x with homeSeen := true, clearFrom := none }
        else { x with clearFrom := if x.homeSeen then some x.pos else none })
    | .home 3 => if active then homeFound s a r else s
    | .home 11 => if active then modAxis s a (fun x => { x with homeSeen := true }) else s
    | _ => s

/-- SWITCH_INPUT: a sampled level of an input, stable for `stable` µs, takes effect once that is DEBOUNCE, with the record's polarity (R412). -/
def doSwitchInput (s : State) (a : Nat) (sw : Switch) (level : Bool) (stable : Nat) : State :=
  if stable < (match axisRec? s a with | some r => r.debounce | none => 0) then s else
  let x := axisAt s a
  let low : Bool := match axisRec? s a, sw with
    | some r, .home => r.homeLow
    | some r, _ => r.limLow
    | none, _ => false
  let active := level != low
  match sw with
  | .home => if x.home = active then s else homeLevel (setAxis s a { x with home := active }) a active
  | .limP =>
    let s := setAxis s a { x with limP := active }
    if active && !x.limP then limitActive s a true else s
  | .limN =>
    let s := setAxis s a { x with limN := active }
    if active && !x.limN then limitActive s a false else s

def execSwitchInput (axis : Nat) (sw : Switch) (level : Bool) (stable : Nat) (s : State) : Host.Outcome State Fault Refusal :=
  .next (doSwitchInput s axis sw level stable)

/-- The number of an input in an axis's list of transitions. -/
def switchCode : Switch → Nat
  | .home => 0 | .limP => 1 | .limN => 2

/-- SAMPLED_TRANSITION: more than 8 of one input within DEBOUNCE µs are chatter: the axis stops at once and is fenced (R412, R418). -/
def doSampledTransition (s : State) (a : Nat) (sw : Switch) : State :=
  match axisRec? s a with
  | none => s
  | some r =>
    let x := axisAt s a
    let ts := x.trans.filter (fun p => decide (s.tb - p.2 ≤ r.debounce * usTicks)) ++ [(switchCode sw, s.tb)]
    let s := setAxis s a { x with trans := ts }
    if 8 < (ts.filter (fun p => p.1 == switchCode sw)).length ∧ !isFenced s (.axis a) then fenceAxis (freezeAxis s a) a 4 else s

def execSampledTransition (axis : Nat) (sw : Switch) (s : State) : Host.Outcome State Fault Refusal :=
  .next (doSampledTransition s axis sw)

/-! ### Stalls (R419, R422) -/

/-- The hard stop is found: the encoder position becomes HOME_POS, and the axis backs off (R422). -/
def hardStop (r : AxisRec) (x : Axis) : Axis :=
  { x with pos := posU r.refPos, vel := 0, acc := 0, cnt := 0, encBase := r.refPos, goal := .backoff, overTicks := 0, holdLow := false,
           target := posU (r.refPos - r.dirH * r.backoff) }

/-- STALL: the deviation has stood above STALL_WIN for STALL_TIME ticks. The axis holds at its encoder position; the fault is counted, and
permanent during the repeat or within AXIS_WIN; homing fails (R419, R421). -/
def doStall (s : State) (a : Nat) : State :=
  match axisRec? s a with
  | none => s
  | some r =>
    let x := axisAt s a
    if x.st = .off ∨ x.st = .fenced ∨ r.ratio = 0 ∨ x.overTicks < r.stallTime then s
    else if x.goal = .seek then setAxis s a (hardStop r x)
    else
      let homing : Bool := x.st == .homing
      let again : Option (Int × Nat) := match x.goal with
        | .target => some (x.target, x.prof)
        | .reverse t => some (t, x.prof)
        | _ => none
      let y := { x with pos := posU (x.encPos r), vel := 0, acc := 0, target := posU (x.encPos r), st := .stalled, stallFlag := true,
                        stalls := satInc x.stalls, overTicks := 0, goal := .none, repeat_ := again }
      let s := setAxis s a y
      if x.repeating then fenceAxis s a 1
      else
        let s := axisFault s a
        if homing then axisFailed s a stState else s

def execStall (axis : Nat) (s : State) : Host.Outcome State Fault Refusal := .next (doStall s axis)

/-- STALL_REPEAT: 50 ms after a stall the interrupted move is repeated once, toward the same target at the same profile (R419). -/
def doStallRepeat (s : State) (a : Nat) : State :=
  let x := axisAt s a
  if x.st ≠ .stalled then s
  else match x.repeat_ with
    | some (t, p) =>
      setAxis s a { x with st := .move, goal := .target, target := t, prof := p, repeat_ := none, repeating := true, holdLow := false }
    | none => setAxis s a { x with st := .hold }

def execStallRepeat (axis : Nat) (s : State) : Host.Outcome State Fault Refusal := .next (doStallRepeat s axis)

end Sys2Proof.Machine
end

