-- ==== Sys2Proof/Machine/Param.lean ====
section
/-! DEFINITION. The configuration commands (R399-R401): PARAM_WRITE, PARAM_READ, NOZZLE_DISABLE, NOZZLE_READ and DDR_TUNE. -/

namespace Sys2Proof.Machine

/-! ### Nozzles and windows (R183, R201) -/

/-- Whether a clause holds a slot of a list of (die, slot): it serves or drains it, or prepares for it. -/
def holdsSlot (slots : List (Nat × Nat)) (x : Nat) (c : Clause) : Bool := clauseLoaded c && slots.contains (x / 66, c.slot)

/-- A change of nozzle parameters reaches every clause of the slots through its window not in use (R139, R183). -/
def markWindows (s : State) (slots : List (Nat × Nat)) : State :=
  { s with clauses := s.clauses.map (fun (p : Nat × Clause) => if holdsSlot slots p.1 p.2 then (p.1, { p.2 with winDirty := true }) else p) }

/-- Die and slot of a package nozzle. -/
def nozzleSlot (n : Nat) : Nat × Nat := (n / 131072, n / 2048 % 64)

/-- Slots that a run of nozzles touches. -/
def runSlots (first count : Nat) : List (Nat × Nat) :=
  (List.range ((first + count + 2047) / 2048 - first / 2048)).map (fun i => nozzleSlot (2048 * (first / 2048 + i)))

/-- Set the DISABLED flag of nozzles in the master copies. -/
def setDisabled (s : State) (ns : List Nat) (v : Bool) : State :=
  { s with disabled := ns.foldl (fun m n => sput false m n v) s.disabled }

/-! ### PARAM_WRITE (R400) -/

/-- Whether an open job covers a row. -/
def rowCovered (s : State) (r : Nat) : Bool := jobOpen s && (match s.job with | some j => j.rows.contains r | none => false)

/-- The record as held, if any. -/
def heldRec? (s : State) (p : ParamRec) : Option ParamRec := param? s p.typ.toNat p.target.toNat

/-- Rows that a record of types 0x0201-0x0204 changes, the record it replaces included. -/
def recRows (s : State) (p : ParamRec) : List Nat :=
  let of (q : ParamRec) : List Nat := match q.typ.toNat with
    | 0x0201 => [nozRow q]
    | 0x0202 => [q.target.toNat % 64]
    | 0x0203 => [q.target.toNat]
    | _ => (groupMembers q).map (headRow s)
  of p ++ (match heldRec? s p with | some q => of q | none => [])

/-- Head channels of a link record and of the one it replaces. -/
def recChannels (s : State) (p : ParamRec) : List Nat :=
  ((p :: (match heldRec? s p with | some q => [q] | none => [])).flatMap recHeads).map (fun e => e.1)

/-- The status that refuses a record's type at present (R400). -/
def typeRefused? (s : State) (p : ParamRec) : Option Nat :=
  let no (b : Bool) (st : Nat) : Option Nat := if b then some st else none
  match p.typ.toNat with
  | 0x0101 => no (jobOpen s) stJobActive
  | 0x0103 => no (jobOpen s) stJobActive
  | 0x0104 => no (jobOpen s) stJobActive
  | 0x0201 => no ((recRows s p).any (rowCovered s)) stJobActive
  | 0x0202 => no ((recRows s p).any (rowCovered s)) stJobActive
  | 0x0203 => no ((recRows s p).any (rowCovered s)) stJobActive
  | 0x0204 => no ((recRows s p).any (rowCovered s)) stJobActive
  | 0x0301 => no ((recChannels s p).any (jobCovers s)) stJobActive
  | 0x0401 => no ((axisAt s p.target.toNat).moving || s.parked.any (Parked.isAxis p.target.toNat)) stBusy
  | 0x0402 => no ((svcAt s p.target.toNat).st == .running) stBusy
  | 0x0501 => no (jobOpen s) stJobActive
  | _ => none

/-- The set that would result, for its checks: the buffer's records first, then the held ones they do not replace. A gain-trim record replaces
the entries it covers, so a held one conflicts with no record, of the buffer or held. -/
def resulting (s : State) (buf : List ParamRec) : List ParamRec :=
  buf ++ s.params.filter (fun p => p.typ != 0x0102 && !buf.any (fun q => q.typ == p.typ && q.target == p.target))

/-- The record of the buffer to which a conflict is laid: the one it is found at; for one found at a held record, the lowest without
which the set would pass, or the lowest that conflicts alone (assumption 20). -/
def conflictIndex? (s : State) (buf : List ParamRec) : Option Nat :=
  match firstConflict? s (resulting s buf) with
  | none => none
  | some i =>
    if i < buf.length then some i
    else
      let ix := List.range buf.length
      match ix.find? (fun j => (firstConflict? s (resulting s (buf.eraseIdx j))).isNone) with
      | some j => some j
      | none => some ((ix.find? (fun j => (firstConflict? s (resulting s ((buf.drop j).take 1))).isSome)).getD 0)

/-- The record replaces the held one of its type and target, or joins the set. -/
def holdRec (s : State) (p : ParamRec) : State :=
  if (heldRec? s p).isSome then
    { s with params := s.params.map (fun q => if q.typ == p.typ && q.target == p.target then p else q) }
  else { s with params := s.params ++ [p] }

/-- A gain-trim record replaces the entries it covers, and enters the master copies (R183, R400). -/
def applyGainRec (s : State) (p : ParamRec) : State :=
  let p' := match heldRec? s p with
    | some q => { p with payload := p.payload ++ q.payload.drop p.payload.length }
    | none => p
  markWindows (applyGains (holdRec s p') p) (runSlots p.target.toNat (gainCount p))

/-- A nozzle table replaces the channel's: the flags of the nozzles it named clear, those it names are set (R201). -/
def applyNozzles (s : State) (p : ParamRec) : State :=
  let named (q : ParamRec) : List NozEntry := (nozEntries q).filter (fun e => !e.unused)
  let old := ((heldRec? s p).map named).getD []
  let s := setDisabled (holdRec s p) (old.map (fun e => e.nozzle)) false
  let s := setDisabled s (((named p).filter (fun e => e.disabled)).map (fun e => e.nozzle)) true
  markWindows s ((old ++ named p).map (fun e => nozzleSlot e.nozzle)).eraseDups

/-- An accepted record takes effect (R183, R400, R414). -/
def applyRec (s : State) (p : ParamRec) : State :=
  match p.typ.toNat with
  | 0x0101 => placeTable (holdRec s p) p
  | 0x0103 => placeTable (holdRec s p) p
  | 0x0104 => placeTable (holdRec s p) p
  | 0x0102 => applyGainRec s p
  | 0x0201 => applyNozzles s p
  | 0x0301 => linkDetect (holdRec s p) (p.target.toNat / 256) (p.target.toNat % 8)
  | 0x0401 =>
    if (heldRec? s p).map (fun q => q.payload) = some p.payload then s
    else modAxis (holdRec s p) p.target.toNat (fun a => { a with referenced := false })
  | _ => holdRec s p

/-- PARAM_WRITE: every record is checked, then all or none are applied. -/
def doParamWrite (s : State) (h : CmdHdr) (addr : BitVec 64) (len : BitVec 32) (rd : HostRead) : State :=
  command s h { opcode := 0x0301, ring0 := false, long := true }
    (addr.toNat % 4 == 0 && decide (16 ≤ len.toNat ∧ len.toNat ≤ 6287360)) true (fun s =>
    let bad (s : State) (i code : Nat) : State := complete s h 0x0301 stParamCheck (natLE 4 i ++ [BitVec.ofNat 8 code])
    match rd with
    | .busError => complete s h 0x0301 stHostBus []
    | .data bs =>
      if bs.length < len.toNat then complete s h 0x0301 stHostBus []
      else
        let r := frameRecs (bs.take len.toNat)
        match r.2 with
        | some (code, i) => bad s i code
        | none => match r.1.findSome? (typeRefused? s) with
          | some st => complete s h 0x0301 st []
          | none => match firstBad? s r.1 with
            | some i => bad s i 0x19
            | none => match conflictIndex? s r.1 with
              | some i => bad s i 0x19
              | none => finish (r.1.foldl applyRec s) h 0x0301 [])

def execParamWrite (h : CmdHdr) (addr : BitVec 64) (len : BitVec 32) (rd : HostRead) (s : State) : Host.Outcome State Fault Refusal :=
  .next (doParamWrite s h addr len rd)

/-! ### PARAM_READ (R399) -/

/-- Entries of a gain-trim record as the part holds them now. -/
def gainsNow (s : State) (first n : Nat) : List Byte :=
  (List.range n).flatMap (fun j => [sget 0 s.curves (first + j), sget 128 s.gains (first + j)])

/-- A held record as the part now holds it: gains and DISABLED flags from the master copies. -/
def recNow (s : State) (p : ParamRec) : ParamRec :=
  match p.typ.toNat with
  | 0x0102 => { p with payload := gainsNow s p.target.toNat (gainCount p) }
  | 0x0201 => { p with payload := p.payload.take 8 ++ (List.range (nozCount p)).flatMap (fun i =>
      let v := leAt p.payload (8 + 4 * i) 4
      let e := nozEntryOf v
      let v' := if e.unused then v else v - (if e.disabled then 2 ^ 24 else 0) + (if sget false s.disabled e.nozzle then 2 ^ 24 else 0)
      natLE 4 v') }
  | _ => p

/-- The identity inflection table (R207). -/
def identityTable : List Byte := (List.range 16).flatMap (fun q => List.replicate 8 (BitVec.ofNat 8 (17 * q)))

/-- The record built from the ROM defaults where none is held: gain trims, inflection tables, row timing, integrity (R182, R193, R207,
R262, R399). -/
def defaultRec? (s : State) (typ target : Nat) : Option ParamRec :=
  let mk (b : List Byte) : Option ParamRec := some ⟨BitVec.ofNat 16 typ, BitVec.ofNat 32 target, b⟩
  match typ with
  | 0x0102 =>
    let last := (target / 2048 + 1) * 2048
    let stop := (((recsOf s 0x0102).map (fun p => p.target.toNat)).filter (fun t => decide (target < t))).foldl min last
    mk (gainsNow s target (stop - target))
  | 0x0202 =>
    if target / 2 ^ 9 = 0 ∧ target / 64 % 4 = 0 ∧ (rowCfg? s (target % 64)).isSome then
      mk (if target / 256 = 1 then ((param? s 0x0202 (target % 64)).map (fun p => p.payload)).getD identityTable else identityTable)
    else none
  | 0x0203 => if (rowCfg? s target).isSome then mk (List.replicate 16 0 ++ ([0xFF, 0xFF] ++ List.replicate 6 0)) else none
  | 0x0501 =>
    if target = 0 then
      mk (natLE 4 1000000 ++ (natLE 4 1000000 ++ (natLE 2 10 ++ (natLE 2 10 ++ (natLE 2 60 ++ (natLE 2 64 ++ (2 :: List.replicate 15 0)))))))
    else none
  | _ => none

/-- Whether the index that a TARGET holds lies within the member (R3, R376). -/
def targetOk (s : State) (typ target : Nat) : Bool :=
  match typ with
  | 0x0102 => nozzleOk s target
  | 0x0201 => headOk s target
  | 0x0301 => dieOk s (target / 256)
  | 0x0401 => axisOk s target
  | 0x0101 => dieOk s (target / 2 ^ 24) || target / 2 ^ 24 == 0xFF
  | 0x0103 => dieOk s (target / 2 ^ 24) || target / 2 ^ 24 == 0xFF
  | 0x0104 => dieOk s (target / 2 ^ 24) || target / 2 ^ 24 == 0xFF
  | _ => true

/-- PARAM_READ: the record held, or the default; with neither, STATE (assumption 20). -/
def doParamRead (s : State) (h : CmdHdr) (addr : BitVec 64) (typ : BitVec 16) (target max : BitVec 32) : State :=
  command s h { opcode := 0x0302, ring0 := false, long := true } true (targetOk s typ.toNat target.toNat) (fun s =>
    let r := match param? s typ.toNat target.toNat with
      | some p => some (recNow s p)
      | none => defaultRec? s typ.toNat target.toNat
    match r with
    | none => complete s h 0x0302 stState []
    | some p =>
      if max.toNat < p.bytes.length then complete s h 0x0302 stTooMany []
      else hostSend s h 0x0302 addr.toNat p.bytes (natLE 4 p.bytes.length))

def execParamRead (h : CmdHdr) (addr : BitVec 64) (typ : BitVec 16) (target max : BitVec 32) (s : State) :
    Host.Outcome State Fault Refusal := .next (doParamRead s h addr typ target max)

/-! ### Nozzles (R399, R401) -/

/-- NOZZLE_DISABLE. -/
def doNozzleDisable (s : State) (h : CmdHdr) (first count : BitVec 32) (value : BitVec 8) : State :=
  let a := first.toNat
  let n := count.toNat
  command s h { opcode := 0x0303 } (decide (1 ≤ n ∧ n ≤ 65536) && decide (value.toNat ≤ 1)) (nozzleOk s a && nozzleOk s (a + n - 1)) (fun s =>
    let slots := runSlots a n
    if slots.any (fun q => (slotCfg? s q.1 q.2).isNone) then complete s h 0x0303 stUnusedSlot []
    else finish (markWindows (setDisabled s ((List.range n).map (fun j => a + j)) (value == 1)) slots) h 0x0303 [])

def execNozzleDisable (h : CmdHdr) (first count : BitVec 32) (value : BitVec 8) (s : State) : Host.Outcome State Fault Refusal :=
  .next (doNozzleDisable s h first count value)

/-- The byte of NOZZLE_READ for a nozzle. -/
def nozzleByte (s : State) (named : List Nat) (n : Nat) : Byte :=
  let q := nozzleSlot n
  BitVec.ofNat 8 ((if sget false s.disabled n then 1 else 0) + (if named.contains n then 2 else 0) +
    (if (slotCfg? s q.1 q.2).isSome then 4 else 0))

/-- NOZZLE_READ. -/
def doNozzleRead (s : State) (h : CmdHdr) (addr : BitVec 64) (first count : BitVec 32) : State :=
  let a := first.toNat
  let n := count.toNat
  command s h { opcode := 0x0304, ring0 := false, long := true } (n % 8 == 0 && decide (n ≤ 1048576))
    (nozzleOk s a && (n == 0 || nozzleOk s (a + n - 1))) (fun s =>
    let named := (recsOf s 0x0201).flatMap namedNozzles
    let bs := (List.range n).map (fun j => nozzleByte s named (a + j))
    hostSend s h 0x0304 addr.toNat bs (natLE 4 n))

def execNozzleRead (h : CmdHdr) (addr : BitVec 64) (first count : BitVec 32) (s : State) : Host.Outcome State Fault Refusal :=
  .next (doNozzleRead s h addr first count)

/-! ### DDR_TUNE (R323, R399) -/

/-- A write of DDR_SCHED, DDR_REF or DDR_SCR (0, 1, 2), when it is not ignored (R323; DRIFT_MAX outside 1-63 as well, assumption 18). -/
def ddrSet? (reg : Nat) (v : BitVec 32) : Option (DdrCh → DdrCh) :=
  let f (lo n : Nat) : Nat := (v.extractLsb' lo n).toNat
  if reg = 0 then
    if f 0 4 < f 4 6 ∧ f 4 6 < f 12 8 ∧ f 20 4 ≠ 0 ∧ f 24 8 ≠ 0 then
      some (fun c => { c with age := v.extractLsb' 24 8, dlRun := v.extractLsb' 20 4, sc2 := v.extractLsb' 12 8, sc1 := v.extractLsb' 4 6,
                              sc0 := v.extractLsb' 0 4 })
    else none
  else if reg = 1 then
    if 1 ≤ f 8 8 ∧ f 8 8 ≤ 63 then
      some (fun c => { c with driftMax := v.extractLsb' 8 8, minRate := BitVec.ofNat 3 (min 4 (f 0 3)) })
    else none
  else some (fun c => { c with scrPeriod := BitVec.ofNat 16 (max 64 (f 16 16)), scrEnable := v.getLsbD 0 })

/-- DDR_TUNE. -/
def doDdrTune (s : State) (h : CmdHdr) (die channel reg : BitVec 8) (value : BitVec 32) : State :=
  let set := ddrSet? reg.toNat value
  command s h { opcode := 0x0305, ring0 := false } ((decide (channel.toNat ≤ 1) || channel == 0xFF) && decide (reg.toNat ≤ 2) && set.isSome)
    (dieOk s die.toNat) (fun s =>
    let chs := if channel = 0xFF then [0, 1] else [channel.toNat]
    finish (chs.foldl (fun s ch => modDdr s (ddrIx die.toNat ch) (set.getD id)) s) h 0x0305 [])

def execDdrTune (h : CmdHdr) (die channel reg : BitVec 8) (value : BitVec 32) (s : State) : Host.Outcome State Fault Refusal :=
  .next (doDdrTune s h die channel reg value)

end Sys2Proof.Machine
end

