-- ==== Sys2Proof/Machine/Rings.lean ====
section
/-! DEFINITION. The command rings and the early-boot mailbox (R363-R371, R379). -/

namespace Sys2Proof.Machine

/-! ### Doorbells (R364, R365, R367-R369) -/

/-- SQ_TAIL_DOORBELL: a new tail, ignored while ENABLE is 0; one not below the ring's size, or one that would pass the head and so make the ring hold more
than its entries, sets ERR DOORBELL (R364, R365, R368, assumption 15). -/
def doSqTail (s : State) (c : Nat) (v : BitVec 32) : State :=
  let q := sqAt s c
  let t := v.extractLsb' 0 16
  let n := ringSize q.log2
  if 4 ≤ c ∨ !q.enable then s
  else if n ≤ t.toNat ∨ n ≤ ringDist n q.head.toNat q.tail.toNat + ringDist n q.tail.toNat t.toNat then setSq s c { q with err := q.err ||| 1 }
  else setSq s c { q with tail := t }

def execSqTailDoorbell (c : Nat) (v : BitVec 32) (s : State) : Host.Outcome State Fault Refusal :=
  .next (hostReg s 0 (fun s => doSqTail s c v))

/-- CQ_HEAD_DOORBELL: slots before the new head are released; one not below the size, or past the tail, sets ERR DOORBELL; the
vector is sent again while posted entries remain beyond the head. -/
def doCqHead (s : State) (c : Nat) (v : BitVec 32) : State :=
  let q := cqAt s c
  let h := v.extractLsb' 0 16
  let n := ringSize q.log2
  if 4 ≤ c ∨ !q.enable then s
  else if n ≤ h.toNat ∨ ringDist n q.head.toNat q.tail.toNat < ringDist n q.head.toNat h.toNat then
    setCq s c { q with err := q.err ||| 1 }
  else
    let s := setCq s c { q with head := h }
    if h = q.tail then s else signalCq s c

def execCqHeadDoorbell (c : Nat) (v : BitVec 32) (s : State) : Host.Outcome State Fault Refusal :=
  .next (hostReg s 0 (fun s => doCqHead s c v))

/-! ### Enabling and disabling (R364, R368, R379) -/

/-- SQ_ENABLE: head and tail become 0 and the ring runs. -/
def doSqEnable (s : State) (c : Nat) : State :=
  if 4 ≤ c ∨ (sqAt s c).enable then s
  else modSq s c (fun q => { q with enable := true, stopped := false, head := 0, tail := 0 })

def execSqEnable (c : Nat) (s : State) : Host.Outcome State Fault Refusal := .next (hostReg s 0 (fun s => doSqEnable s c))

/-- Whether a parked command is a REPORT of ring `c`. -/
def Parked.isReportOf (c : Nat) : Parked → Bool
  | .report h => h.src == .ring c
  | _ => false

/-- SQ_DISABLE: fetching stops, and every parked REPORT fetched from the ring completes CANCELLED (R379). -/
def doSqDisable (s : State) (c : Nat) : State :=
  if 4 ≤ c ∨ !(sqAt s c).enable then s
  else
    let s := modSq (dropFetch s c) c (fun q => { q with enable := false })
    let gone := s.parked.filter (Parked.isReportOf c)
    gone.foldl (fun s p => match p with
      | .report h => complete s h 0x0208 stCancelled []
      | _ => s) { s with parked := s.parked.filter (fun p => !Parked.isReportOf c p) }

def execSqDisable (c : Nat) (s : State) : Host.Outcome State Fault Refusal := .next (hostReg s 0 (fun s => doSqDisable s c))

/-- CQ_ENABLE: head and tail become 0, the phase 1, and results that waited are posted. -/
def doCqEnable (s : State) (c : Nat) : State :=
  if 4 ≤ c ∨ (cqAt s c).enable then s
  else flushCq (modCq s c (fun q => { q with enable := true, stopped := false, head := 0, tail := 0, phase := true })) c

def execCqEnable (c : Nat) (s : State) : Host.Outcome State Fault Refusal := .next (hostReg s 0 (fun s => doCqEnable s c))

/-- CQ_DISABLE: results that become due from now on wait. -/
def doCqDisable (s : State) (c : Nat) : State := if 4 ≤ c then s else modCq s c (fun q => { q with enable := false })

def execCqDisable (c : Nat) (s : State) : Host.Outcome State Fault Refusal := .next (hostReg s 0 (fun s => doCqDisable s c))

/-! ### Fetching (R351, R365, R368) -/

/-- SQ_FETCH: the next entry's read is sent, with a slot of completion ring `c` reserved for its result. A ring has one read under way
at a time (assumption 15). -/
def doSqFetch (s : State) (c : Nat) : State :=
  let q := sqAt s c
  if 4 ≤ c ∨ !hostUp s ∨ !q.enable ∨ q.stopped ∨ q.fetching ∨ q.head = q.tail ∨ !classRoom s c ∨ !cqRoom s c then s
  else
    let s := setSq s c { q with fetching := true, outstanding := q.outstanding + 1 }
    emit (modCq s c (fun q => { q with owed := q.owed + 1 })) (.fetch c q.head.toNat)

def execSqFetch (c : Nat) (s : State) : Host.Outcome State Fault Refusal := .next (doSqFetch s c)

/-- SQ_FETCH_COMPLETE: the entry joins the command queue in class `c` and HEAD advances; a read that fails stops the ring with ERR
FETCH, its entry left in host memory. -/
def doSqFetchComplete (s : State) (c : Nat) (r : FetchResult) : State :=
  let q := sqAt s c
  if !q.fetching then s
  else match r with
    | .data bytes =>
      let n := ringSize q.log2
      let s := setSq s c { q with fetching := false, head := BitVec.ofNat 16 ((q.head.toNat + 1) % n) }
      { s with cmdq := s.cmdq ++ [⟨.ring c, (bytes ++ List.replicate 64 0).take 64⟩] }
    | _ => modSq (dropFetch s c) c (fun q => { q with stopped := true, err := q.err ||| 2 })

def execSqFetchComplete (c : Nat) (r : FetchResult) (s : State) : Host.Outcome State Fault Refusal := .next (doSqFetchComplete s c r)

/-! ### Coalescing (R369) -/

/-- CQ_COALESCE_TIMER: COAL_TIME after the first posting since the last message, the vector is sent. -/
def doCqCoalesceTimer (s : State) (c : Nat) : State :=
  let q := cqAt s c
  if 4 ≤ c ∨ q.unsignalled = 0 ∨ q.coalTime = 0 then s else signalCq s c

def execCqCoalesceTimer (c : Nat) (s : State) : Host.Outcome State Fault Refusal := .next (doCqCoalesceTimer s c)

/-! ### The mailbox (R370) -/

/-- GO: the entry runs in class 0; ignored with IGN unless IDLE. -/
def Mailbox.go (m : Mailbox) : Mailbox := if m.state = 0 then { m with state := 1 } else { m with ign := true }

/-- ACK: DONE returns to IDLE; ignored with IGN unless DONE. -/
def Mailbox.ack (m : Mailbox) : Mailbox :=
  if m.state = 2 then { m with state := 0, status := 0, data := [] } else { m with ign := true }

/-- The 64 bytes of a mailbox entry. -/
def Mailbox.bytes (m : Mailbox) : List Byte := (m.entry ++ List.replicate 64 0).take 64

/-- MB_GO. -/
def doMbGo (s : State) : State :=
  let m := s.mbox
  let s := { s with mbox := m.go }
  if m.state = 0 then { s with cmdq := s.cmdq ++ [⟨.mailbox, m.bytes⟩] } else s

def execMbGo (s : State) : Host.Outcome State Fault Refusal := .next (hostReg s 0 doMbGo)

/-- MB_ACK. -/
def doMbAck (s : State) : State := { s with mbox := s.mbox.ack }

def execMbAck (s : State) : Host.Outcome State Fault Refusal := .next (hostReg s 0 doMbAck)

end Sys2Proof.Machine
end

