-- ==== Sys2Proof/Machine/Regs.lean ====
section
/-! DEFINITION. The registers as the host reads them (R9, R11, R355): one function for each block of a die's window. Reserved fields and
addresses read 0. -/

namespace Sys2Proof.Machine

/-- A register from its fields, each with the number of its lowest bit. -/
def pack (fs : List (Nat × Nat)) : Word := BitVec.ofNat 32 ((fs.map (fun f => f.1 * 2 ^ f.2)).sum)

/-- A flag as a bit. -/
def bit1 (b : Bool) : Nat := if b then 1 else 0

/-! ### Codes of states -/

/-- PKG_GSTAT.STATE. -/
def GState.code : GState → Nat
  | .none => 0 | .loading => 1 | .active => 2 | .failed => 3 | .switching => 4

/-- PWR_STATE.STATE. A Dormant part answers no read. -/
def PwrState.code : PwrState → Nat
  | .starting => 0 | .sleep => 1 | .idle => 2 | .ready => 3 | .printing => 4 | .dormant => 0

/-- CLS_CDC_STAT.STATE0 and STATE1. -/
def DecState.code : DecState → Nat
  | .idle => 0 | .run => 1 | .stall => 2 | .wait => 3

/-- CEL_STAT.STATE. -/
def CellState.code : CellState → Nat
  | .off => 0 | .run => 1 | .wait => 2 | .restart => 3

/-- DDR_CH_STAT.STATE. -/
def DdrState.code : DdrState → Nat
  | .off => 0 | .train => 1 | .active => 2 | .retrain => 3 | .retired => 4

/-- DMA_CH_STAT.STATE. -/
def DmaState.code : DmaState → Nat
  | .idle => 0 | .run => 1 | .wait => 2 | .readback => 3 | .halted => 4 | .fenced => 5

/-- LGN_ROW_STAT.STATE. -/
def RowState.code : RowState → Nat
  | .idle => 0 | .armed => 1 | .run => 2 | .stopping => 3

/-- TYN_LNK_STAT.STATE (R223). -/
def LinkState.code : LinkState → Nat
  | .down => 0 | .detect => 1 | .train => 2 | .bitlock => 3 | .blocklock => 4 | .caps => 5 | .active => 6 | .idle => 7 | .retrain => 8
  | .capsFail => 9 | .retired => 10

/-- MOT_AX_STAT.STATE. -/
def AxisState.code : AxisState → Nat
  | .off => 0 | .hold => 1 | .move => 2 | .homing => 3 | .stopping => 4 | .stalled => 5 | .fenced => 6

/-- MGT_FAB_STAT.STATE. -/
def PortState.code : PortState → Nat
  | .unconnected => 0 | .train => 1 | .up => 2 | .down => 3

/-! ### Package control, rings and mailbox (R70, R371) -/

/-- A ring's LOG2SIZE as read: 4-16, other values 4. -/
def log2Read (v : BitVec 5) : Nat := if 4 ≤ v.toNat ∧ v.toNat ≤ 16 then v.toNat else 4

/-- Submission ring `c`, at an offset within it. -/
def readSq (s : State) (c off : Nat) : Word :=
  let q := sqAt s c
  match off with
  | 0x00 => (q.base.extractLsb' 0 32)
  | 0x04 => BitVec.ofNat 32 (q.base.toNat / 2 ^ 32)
  | 0x08 => pack [(bit1 q.enable, 31), (bit1 (q.outstanding == 0), 30), (q.err.toNat, 24), (log2Read q.log2, 0)]
  | 0x0C => pack [(q.tail.toNat, 0)]
  | 0x10 => pack [(q.head.toNat, 0)]
  | _ => 0

/-- Completion ring `c`, at an offset within it. -/
def readCq (s : State) (c off : Nat) : Word :=
  let q := cqAt s c
  match off with
  | 0x00 => (q.base.extractLsb' 0 32)
  | 0x04 => BitVec.ofNat 32 (q.base.toNat / 2 ^ 32)
  | 0x08 => pack [(bit1 q.enable, 31), (bit1 (q.owed == 0), 30), (q.err.toNat, 24), (max 1 q.coalCnt.toNat, 16), (q.coalTime.toNat, 8),
                  (log2Read q.log2, 0)]
  | 0x0C => pack [(q.head.toNat, 0)]
  | 0x10 => pack [(bit1 q.phase, 16), (q.tail.toNat, 0)]
  | _ => 0

/-- Word `i` of a byte list. -/
def wordOf (bs : List Byte) (i : Nat) : Word := BitVec.ofNat 32 (leAt bs (4 * i) 4)

/-- The package control block of die 0. -/
def readPkg (s : State) (off : Nat) : Word :=
  let known : Bool := s.dia.gstate == .active || s.dia.gstate == .switching
  if off = 0x200 then BitVec.ofNat 32 (dialectReg s)
  else if off = 0x204 then
    pack [(s.dia.gstate.code, 28), (s.dia.failSlot.toNat, 24), (s.dia.failCode.toNat, 16), (s.dia.failSection.toNat, 0)]
  else if off = 0x208 then (if known then s.dia.gid else 0)
  else if off = 0x20C then (if known then s.dia.grev else 0)
  else if off = 0x210 then (if known then s.dia.gcrc else 0)
  else if off = 0x214 then pack [(s.fuses.rollback.toNat, 16), (s.fuses.revoked.toNat, 8), (s.fuses.programmed.toNat, 0)]
  else if 0x300 ≤ off ∧ off < 0x340 then
    let a := sget {} s.apers ((off - 0x300) / 4)
    pack [(bit1 a.valid, 31), (a.die.toNat, 24), (a.base.toNat, 0)]
  else if off = 0x340 then pack [(s.pcie.ur.toNat, 16), (s.pcie.dropped.toNat, 0)]
  else if 0x8000 ≤ off ∧ off < 0x8100 then
    let c := (off - 0x8000) / 0x40
    let o := (off - 0x8000) % 0x40
    if o < 0x20 then readSq s c o else readCq s c (o - 0x20)
  else if 0x8400 ≤ off ∧ off < 0x8440 then wordOf s.mbox.bytes ((off - 0x8400) / 4)
  else if off = 0x8444 then pack [(s.mbox.state.toNat, 30), (bit1 s.mbox.ign, 29), (s.mbox.status.toNat, 0)]
  else if 0x8460 ≤ off ∧ off < 0x8480 then wordOf s.mbox.data ((off - 0x8460) / 4)
  else 0

/-! ### Clocks and power (R464, R480, R481) -/

/-- CLK_STAT.RUN: the domains whose source runs, which the Dialect enables and the power state allows; with no Dialect, all but TXA, TXB and
MOT (R462, R464). Before the PLLs lock only AON and REF run. -/
def clockRun (s : State) (d : Nat) : BitVec 12 :=
  if (mgtAt s d).stage.toNat ≤ 1 then 0x003
  else
    let all : BitVec 12 := if d = 0 then 0xFFF else 0xDFF
    let enabled : BitVec 12 := if s.dia.valid then (s.gram.clocks.getD d 0).extractLsb' 0 12 else 0x73F
    let state : BitVec 12 := if s.power.st = .sleep then 0xF07 else 0xFFF
    all &&& enabled &&& state

/-- CLK_STAT.LOCK: PLLs 1-3 do not run in Sleep (R466). -/
def pllRead (s : State) (d : Nat) : Nat := ((mgtAt s d).pllLock &&& (if s.power.st = .sleep then 0x11 else 0x1F)).toNat

/-- The clock block. CLK_REFMON reads 0 until 2^15 AON cycles have passed. -/
def readClk (s : State) (d off : Nat) : Word :=
  let m := mgtAt s d
  match off with
  | 0x000 => pack [(pllRead s d, 16), ((clockRun s d).toNat, 0)]
  | 0x004 => pack [(m.refloss.toNat, 24), (m.lol.toNat, 16)]
  | 0x008 => if s.tb < secTicks then 0 else Config.refCycles d (s.tb / secTicks)
  | _ => 0

/-- The power block. -/
def readPwr (s : State) (d off : Nat) : Word :=
  let p := s.power
  let m := mgtAt s d
  if off = 0x008 then pack [(m.stage.toNat, 28), (m.result.toNat, 26), (m.startCause.toNat, 16), (m.startTime.toNat, 0)]
  else if d ≠ 0 then 0
  else match off with
    | 0x000 => pack [(p.st.code, 29), (p.target.code, 24), (bit1 p.moving, 23), (p.rest.toNat, 19)]
    | 0x004 => pack [(min 60000 p.restDelay.toNat, 0)]
    | 0x00C => pack [(p.lastReset.toNat, 29), (p.warm.toNat, 0)]
    | _ => 0

/-! ### Timebase and line generators (R212, R213) -/

/-- The timebase block. -/
def readTb (s : State) (d off : Nat) : Word :=
  let y := s.sync
  if off = 0x000 then (tb64 s).extractLsb' 0 32
  else if off = 0x004 then (mgtAt s d).tbHi
  else if d ≠ 0 then 0
  else match off with
    | 0x008 => pack [(bit1 y.repeat_, 2), (y.mode.toNat, 0)]
    | 0x00C => pack [(y.dlyTicks.toNat, 6), (y.dlyFrac.toNat, 0)]
    | 0x010 => pack [(bit1 y.lock, 31), (bit1 y.fault, 30), (bit1 y.lost, 29), (y.bad.toNat, 16), (y.frames.toNat, 0)]
    | _ => 0

/-- Encoder `e`. -/
def readEnc (s : State) (e off : Nat) : Word :=
  let x := encAt s e
  match off with
  | 0x00 => x.count
  | 0x04 => x.idx
  | 0x08 => pack [(x.cpr.toNat, 16), (bit1 x.invert, 3), (x.filt.toNat, 0)]
  | 0x0C => pack [(x.qerr.toNat, 16), (x.slip.toNat, 8), (bit1 x.ready, 0)]
  | 0x10 => BitVec.ofNat 32 (if x.ready then x.tp else 0)
  | _ => 0

/-- Row `r`. -/
def readRow (s : State) (r off : Nat) : Word :=
  let x := rowAt s r
  match off with
  | 0x00 => pack [(x.st.code, 30), ((rowTiming s r).encoder, 24)]
  | 0x04 => x.lastReg
  | 0x08 => x.period
  | 0x0C => pack [(x.ovsCopy.toNat, 16), (x.ovsTotal.toNat, 0)]
  | _ => 0

/-- LGN_GRP_STAT. -/
def readGroup (s : State) (g : Nat) : Word :=
  let x := sget {} s.groups g
  let rec? := param? s 0x0204 g
  pack [(x.withheld.toNat, 16), (x.lastH.toNat, 8), (bit1 (s.dia.valid && rec?.isSome), 1),
        (bit1 (s.dia.valid && (match rec? with | some p => leAt p.payload 0 1 == 1 | none => false)), 0)]

/-- LGN_HC_STAT. -/
def readHead (s : State) (h : Nat) : Word :=
  let x := headAt s h
  pack [(x.temp.toNat, 30), (bit1 (headCool s h), 29), (bit1 (headStopped s h), 28), (x.late.toNat, 0)]

/-- The line generator block of die 0. -/
def readLgn (s : State) (off : Nat) : Word :=
  if off < 0x080 then readEnc s (off / 0x20) (off % 0x20)
  else if 0x400 ≤ off ∧ off < 0xC00 then readRow s ((off - 0x400) / 0x20) ((off - 0x400) % 0x20)
  else if 0xC00 ≤ off ∧ off < 0xD00 then (if off % 0x10 = 0 then readGroup s ((off - 0xC00) / 0x10) else 0)
  else if 0x1000 ≤ off ∧ off < 0x2000 then
    (if off % 0x10 = 0 ∧ headOk s ((off - 0x1000) / 0x10) then readHead s ((off - 0x1000) / 0x10) else 0)
  else 0

/-! ### Tynel (R249) -/

/-- Link `l`. -/
def readLink (s : State) (d l off : Nat) : Word :=
  let k := linkNow s d l
  match off with
  | 0x04 => pack [(k.st.code, 28), (k.cause.toNat, 24), (k.lanes.toNat, 16), ((linkRec? s d l).elim 0 recLanes, 8), (k.poly.toNat, 6),
                  ((liveHeads s d l).length % 64, 0)]
  | 0x08 => k.tx
  | 0x0C => pack [(k.replays.toNat, 16), (k.naks.toNat, 0)]
  | 0x10 => pack [(k.timeouts.toNat, 16), (k.badUp.toNat, 8), (k.missed.toNat, 0)]
  | 0x14 => pack [(k.lat.toNat, 0)]
  | _ => 0

/-- Lane `n`. -/
def readLane (s : State) (d n off : Nat) : Word :=
  let a := laneAt s (8 * d + n)
  match off with
  | 0x00 => pack [(bit1 a.retired, 31), (bit1 a.blockLock, 30), (bit1 a.bitLock, 29), (bit1 a.detected, 28), (a.lockLoss.toNat, 16),
                  (a.hdrErr.toNat, 0)]
  | 0x04 => pack [(a.txPre.toNat, 28), (a.txPost.toNat, 23), (a.ctle.toNat, 16), (a.dfe1.toNat, 8), (a.skew.toNat, 0)]
  | _ => 0

/-- The Tynel block. -/
def readTyn (s : State) (d off : Nat) : Word :=
  let e := eyeAt s d
  if off < 0x200 then readLink s d (off / 0x40) (off % 0x40)
  else if 0x400 ≤ off ∧ off < 0x500 then readLane s d ((off - 0x400) / 0x20) ((off - 0x400) % 0x20)
  else if off = 0x800 then pack [(e.lane.toNat, 24), (e.voff.toNat, 18), (e.poff.toNat, 12), (e.dwell.toNat, 8)]
  else if off = 0x804 then pack [(bit1 e.busy, 31), (bit1 e.abort, 30)]
  else if off = 0x808 then e.err
  else 0

/-! ### DMA (R346, R347) -/

/-- The low or high word of an address register. -/
def half (v : BitVec 64) (hi : Bool) : Word := if hi then v.extractLsb' 32 32 else v.extractLsb' 0 32

/-- Channel `c`. -/
def readDmaCh (s : State) (d c off : Nat) : Word :=
  let q := dmaAt s (dmaIx d c)
  match off with
  | 0x00 => pack [(q.trig.toNat, 24), (q.use.toNat, 16), (q.req.toNat, 8), (bit1 q.pz4, 7), (q.prio.toNat, 0)]
  | 0x04 => pack [(q.st.code, 29), (bit1 q.armed, 28), (q.cause.toNat, 24), (q.remain.toNat, 0)]
  | 0x08 => pack [(bit1 q.ign, 0)]
  | 0x10 => half q.src false
  | 0x14 => half q.src true
  | 0x18 => half q.dst false
  | 0x1C => half q.dst true
  | 0x20 => half q.shSrc false
  | 0x24 => half q.shSrc true
  | 0x28 => half q.shDst false
  | 0x2C => half q.shDst true
  | 0x30 => half q.desc false
  | 0x34 => half q.desc true
  | 0x38 => half q.err false
  | 0x3C => half q.err true
  | 0x40 => pack [(q.shCount.toNat, 0)]
  | 0x44 => pack [(bit1 q.armed, 31), (bit1 q.shWait, 9), (bit1 q.shEvt, 8), (q.shEvtLine.toNat, 0)]
  | 0x4C => q.crc
  | 0x50 => q.tail
  | 0x54 => pack [(q.okCnt.toNat, 16), (q.badCnt.toNat, 8), (q.halts.toNat, 0)]
  | _ => 0

/-- The DMA block. -/
def readDma (s : State) (d off : Nat) : Word :=
  if off < 0x1000 then readDmaCh s d (off / 0x80) (off % 0x80)
  else if off = 0x1000 then (dmaDieAt s d).irq
  else if off = 0x1004 then (dmaDieAt s d).mask
  else 0

/-! ### DRAM, die banks and events (R302, R323, R372) -/

/-- The DRAM block. -/
def readDdr (s : State) (d off : Nat) : Word :=
  if 0x200 ≤ off then 0
  else
    let c := ddrAt s (ddrIx d (off / 0x100))
    match off % 0x100 with
    | 0x00 => pack [(c.st.code, 28), (bit1 c.pinned, 27), (bit1 c.hot, 26), (c.mult.toNat, 20), (c.mr4.toNat, 16),
                    ((BitVec.ofInt 8 c.drift).toNat, 0)]
    | 0x08 => pack [(c.age.toNat, 24), (c.dlRun.toNat, 20), (c.sc2.toNat, 12), (c.sc1.toNat, 4), (c.sc0.toNat, 0)]
    | 0x0C => pack [(c.driftMax.toNat, 8), (c.minRate.toNat, 0)]
    | 0x10 => pack [(c.misdir.toNat, 24), (c.uncorr.toNat, 16), (c.corr.toNat, 0)]
    | 0x14 => pack [(c.eccClass.toNat, 30), (c.eccBlock.toNat, 0)]
    | 0x18 => pack [(c.scrPeriod.toNat, 16), (c.stuck.toNat, 8), (bit1 c.scrEnable, 0)]
    | 0x1C => pack [(c.trn.pattern.toNat, 28), (c.trn.op.toNat, 26), (c.trn.row.toNat, 16), (c.trn.seed.toNat, 0)]
    | 0x20 => c.trnMask
    | 0x24 => pack [(bit1 c.trnRun.isSome, 31), (c.trnBits.toNat, 0)]
    | _ => 0

/-- The die-bank block. -/
def readBnk (s : State) (d off : Nat) : Word :=
  if off < 4 * 69 then sget 0 s.conflicts (69 * d + off / 4)
  else if off = 0x204 then pack [(bit1 (mgtAt s d).bankHalf, 0)]
  else 0

/-- The event block. -/
def readEvt (s : State) (d off : Nat) : Word :=
  if 0x30 ≤ off then 0
  else
    let x := evqAt s (3 * d + off / 0x10)
    match off % 0x10 with
    | 0x0 => pack [(bit1 x.ovf, 31), (x.high.toNat, 16), (x.items.length, 0)]
    | 0x4 => x.lost
    | _ => 0

/-! ### Motion (R432, R433) -/

/-- Local axis `x` of a die. -/
def readAxis (s : State) (a off : Nat) : Word :=
  let x := axisAt s a
  match off with
  | 0x00 => pack [(x.st.code, 28), (bit1 x.referenced, 27), (bit1 x.stallFlag, 26), (bit1 x.limP, 25), (bit1 x.limN, 24), (bit1 x.home, 23),
                  (x.res.toNat, 20)]
  | 0x04 => BitVec.ofInt 32 x.posReg
  | 0x08 => match axisRec? s a with
    | some r => BitVec.ofInt 32 (x.encPos r)
    | none => 0
  | 0x0C => BitVec.ofInt 32 x.velReg
  | 0x10 => pack [(bit1 x.dirB, 31), (x.dutyB.toNat, 16), (bit1 x.dirA, 15), (x.dutyA.toNat, 0)]
  | 0x14 => pack [(x.stalls.toNat, 16), (x.limits.toNat, 8), (x.homes.toNat, 0)]
  | _ => 0

/-- MOT_GRP_STAT. -/
def readSvc (s : State) (g : Nat) : Word :=
  let x := svcAt s g
  pack [(x.st.code, 28), (x.service.toNat, 24), (bit1 (s.dia.valid && (svcRec? s g).isSome), 23), (x.done.toNat, 0)]

/-- The motion block. -/
def readMot (s : State) (d off : Nat) : Word :=
  if off < 0x80 then readAxis s (2 * d + off / 0x40) (off % 0x40)
  else if d = 0 ∧ 0x800 ≤ off ∧ off < 0x840 then readSvc s ((off - 0x800) / 4)
  else 0

/-! ### Management and calibration (R126, R302, R372, R460, R461) -/

/-- The compressor's registers. -/
def readCmp (s : State) (d off : Nat) : Word :=
  let c := compAt s d
  match off with
  | 0x400 => pack [(bit1 c.kind, 2)]
  | 0x404 => (c.dst.extractLsb' 0 32 &&& 0xFFFFFFC0)
  | 0x408 => pack [(c.dst.toNat / 2 ^ 32, 0)]
  | 0x40C => pack [(c.limit.toNat, 0)]
  | 0x410 => pack [(c.state.toNat, 30), (c.result.toNat, 16), (bit1 c.startIgn, 0)]
  | 0x414 => pack [(c.olen.toNat, 0)]
  | 0x418 => c.icrc
  | 0x41C => c.ocrc
  | 0x420 => pack [(c.space.toNat, 16), (c.ok.toNat, 0)]
  | _ => 0

/-- The scrubber's and the march engine's registers. -/
def readArr (s : State) (d off : Nat) : Word :=
  let x := scrubAt s d
  let m := marchAt s d
  if 0x500 ≤ off ∧ off < 0x51C then
    let c := memCorrAt s (7 * d + (off - 0x500) / 4)
    pack [(c.uncorr.toNat, 16), (c.corr.toNat, 0)]
  else match off with
    | 0x520 => pack [(max 16 x.period.toNat, 16), (bit1 x.enable, 0)]
    | 0x524 => pack [(x.passes.toNat, 16), (x.stuck.toNat, 8), (x.writebacks.toNat, 0)]
    | 0x528 => pack [(x.full.toNat, 16), (min 255 x.deferred.length, 8), (x.repaired.toNat, 0)]
    | 0x530 => pack [(bit1 m.mode, 30), (m.kind.toNat, 16), (m.index.toNat, 0)]
    | 0x534 => BitVec.ofNat 32 m.stat
    | _ => 0

/-- The die reached through a port. -/
def portFar (s : State) (d p : Nat) : Option Nat := portPeer? s.part.dies d p

/-- Halo credits reserved on a port: for each halo link whose route uses it, the depths of its two directions (R276, assumption 26). -/
def haloCredits (s : State) (d p : Nat) : Nat :=
  match portFar s d p with
  | none => 0
  | some e =>
    (s.gram.halos.map (fun h => match s.gram.routes.find? (fun r => r.id == h.route) with
      | some r => if usesHop r d e then queueDepth s 0x04 (r.dies.headD 0) + queueDepth s 0x04 (r.dies.getLast?.getD 0) else 0
      | none => 0)).sum

/-- Block credits configured on a port: the depth for the die it reaches (R47, R360); none with no Dialect. -/
def blockCredits (s : State) (d p : Nat) : Nat :=
  match portFar s d p with
  | some e => if s.dia.valid then queueDepth s 0x05 e else 0
  | none => 0

/-- Block bursts that hold a credit of a port: those that wait at the far port, and those that die 0 has sent to that die, which take the credits of the lower port of
a bonded hop first. -/
def blockHeld (s : State) (d p : Nat) : Nat :=
  match peerPort? s.part.dies d p with
  | some (e, q) =>
    let sent := if d = 0 then originHeld s e else 0
    let lower := ((facing s d e).filter (fun r => r < q)).map (fun r => queueDepth s 0x05 e - portHeld s e r)
    portHeld s e q + min (queueDepth s 0x05 e - portHeld s e q) (sent - lower.sum)
  | none => 0

/-- A fabric port's registers. -/
def readPort (s : State) (d p off : Nat) : Word :=
  let n := portAt s (4 * d + p)
  match off with
  | 0x0 => pack [(n.st.code, 30), (n.retrains.toNat, 16), (n.replays.toNat, 0)]
  | 0x4 => pack [(min 255 (haloCredits s d p), 16), (blockCredits s d p - blockHeld s d p, 8), (blockCredits s d p, 0)]
  | 0x8 => n.sent
  | _ => 0

/-- Sensors, thermal registers and the event log's controls. -/
def readMgtHigh (s : State) (d off : Nat) : Word :=
  let m := mgtAt s d
  if 0x700 ≤ off ∧ off < 0x740 then
    let x := senseAt s d ((off - 0x700) / 4)
    pack [(bit1 x.valid, 31), (bit1 x.out, 30), (x.value.toNat, 0)]
  else if off = 0x740 then pack [(bit1 m.warn, 31), (bit1 m.trip, 30), (m.tmax.toNat, 16), (m.twarn.toNat, 0)]
  else if d ≠ 0 then 0
  else match off with
    | 0x744 => pack [(s.log.uartLevel.toNat, 4), (s.log.notify.toNat, 2), (s.log.flashLevel.toNat, 0)]
    | 0x748 => s.log.seq
    | _ => 0

/-- The management block. -/
def readMgt (s : State) (d off : Nat) : Word :=
  if 0x400 ≤ off ∧ off < 0x500 then readCmp s d off
  else if 0x500 ≤ off ∧ off < 0x600 then readArr s d off
  else if 0x600 ≤ off ∧ off < 0x640 then readPort s d ((off - 0x600) / 0x10) (off % 0x10)
  else if 0x700 ≤ off then readMgtHigh s d off
  else 0

/-- The calibration block. -/
def readCal (s : State) (d off : Nat) : Word :=
  let c := s.cal
  let m := mgtAt s d
  if off = 0x100 then pack [(m.trimMax.toNat, 20), (m.trimMin.toNat, 10), (m.trim.toNat, 0)]
  else if d ≠ 0 then 0
  else match off with
    | 0x000 => pack [(bit1 c.uncal, 31), (bit1 c.busy, 30), (c.item.toNat, 27), (c.pinned.toNat, 0)]
    | 0x004 => c.count
    | 0x008 => c.lastAon
    | 0x00C => c.lastTb.extractLsb' 0 32
    | 0x010 => c.lastTb.extractLsb' 32 32
    | 0x014 => pack [(c.latWin.toNat, 24), (c.ofsMax.toNat, 16), (c.period.toNat, 0)]
    | _ => 0

/-! ### Clauses and cells (R125, R161, R278) -/

/-- A cell's registers. -/
def readCell (s : State) (i off : Nat) : Word :=
  let c := cellAt s i
  match off with
  | 0x00 => pack [(c.st.code, 30), (c.pc.toNat, 16), (c.banks.length, 8), ((c.cur.elim 0 (fun g => g.pushed)), 0)]
  | 0x04 => BitVec.ofNat 32 c.trapReg
  | 0x08 => BitVec.ofNat 32 c.tlineReg
  | 0x0C => pack [(c.overruns.toNat, 16), (c.traps.toNat, 0)]
  | 0x10 => pack [(c.segMax.toNat, 0)]
  | _ => 0

/-- Whether a decompressor's follower decodes a line. -/
def Decomp.follows (x : Decomp) : Bool := x.following.isSome

/-- A clause's registers. -/
def readCls (s : State) (d k off : Nat) : Word :=
  let c := clauseAt s (clauseIx d k)
  if 0x800 ≤ off ∧ off < 0xC00 then readCell s (cellOfIx (clauseIx d k) ((off - 0x800) / 0x40)) (off % 0x40)
  else match off with
    | 0x300 => pack [(bit1 c.dec1.follows, 27), (c.dec1.st.code, 24), (c.dec1.line.toNat, 16), (bit1 c.dec0.follows, 11),
                     (c.dec0.st.code, 8), (c.dec0.line.toNat, 0)]
    | 0x304 => pack [(c.fmtCnt.toNat, 16), (c.crcCnt.toNat, 0)]
    | 0x308 => pack [(c.lastCause.toNat, 30), (bit1 c.lastDec, 29), (c.lastFcode.toNat, 24), (c.lastCdcLine.toNat, 16),
                     (c.lastBand.toNat, 0)]
    | 0x30C => c.stallCycles
    | 0x400 => pack [(c.st.code, 29), (bit1 c.suspectOff, 28), (c.slot % 64, 16)]
    | 0x404 => pack [(c.transient.toNat, 16), (c.withheldCnt.toNat, 0)]
    | 0x408 => pack [(min 65535 (suspectCount s (clauseIx d k)), 16), (c.rewind.toNat, 0)]
    | 0x40C => c.lastLine
    | _ => 0

/-! ### A die's window (R355) -/

/-- The block base and the offset within it, by offset in the window: register blocks of 4 KiB, 8 KiB, 64 KiB and 264 KiB. -/
def readReg (s : State) (d off : Nat) : Word :=
  if off % 4 ≠ 0 then 0
  else if off < 0x10000 then (if d = 0 then readPkg s off else 0)
  else if off < 0x11000 then readClk s d (off - 0x10000)
  else if off < 0x12000 then readPwr s d (off - 0x11000)
  else if off < 0x13000 then readTb s d (off - 0x12000)
  else if off < 0x14000 then 0
  else if off < 0x16000 then (if d = 0 then readLgn s (off - 0x14000) else 0)
  else if off < 0x18000 then 0
  else if off < 0x19000 then readTyn s d (off - 0x18000)
  else if off < 0x1A000 then 0
  else if off < 0x1C000 then readDma s d (off - 0x1A000)
  else if off < 0x1D000 then readDdr s d (off - 0x1C000)
  else if off < 0x1E000 then readBnk s d (off - 0x1D000)
  else if off < 0x1F000 then readEvt s d (off - 0x1E000)
  else if off < 0x20000 then readMot s d (off - 0x1F000)
  else if off < 0x30000 then readMgt s d (off - 0x20000)
  else if off < 0x40000 then readCal s d (off - 0x30000)
  else if 0x100000 ≤ off ∧ off < 0x142000 then readCls s d ((off - 0x100000) / 0x1000) (off % 0x1000)
  else 0

end Sys2Proof.Machine
end

