-- ==== Sys2Proof/Machine/RegWrite.lean ====
section
/-! DEFINITION. Host writes to the registers (R9, R355): one function for each block of a die's window. Writes to reserved addresses and to
read-only fields do nothing. -/

namespace Sys2Proof.Machine

/-- A field of a word written: `n` bits from `lo`. -/
def wf (v : Word) (lo n : Nat) : BitVec n := v.extractLsb' lo n

/-- Do a write's action when its bit is 1. -/
def ifBit (v : Word) (i : Nat) (f : State → State) (s : State) : State := if v.getLsbD i then f s else s

/-! ### Package control, rings and mailbox (R364, R370, R371) -/

/-- The low or high word of a ring's base. -/
def baseWrite (base : BitVec 60) (hi : Bool) (v : Word) : BitVec 60 :=
  if hi then v.extractLsb' 0 28 ++ base.extractLsb' 0 32 else base.extractLsb' 32 28 ++ (v.extractLsb' 12 20 ++ 0#12)

/-- Submission ring `c`: BASE and LOG2SIZE are written only while ENABLE is 0 (R364, assumption 14). -/
def writeSq (s : State) (c off : Nat) (v : Word) : State :=
  let q := sqAt s c
  match off with
  | 0x00 => if q.enable then s else setSq s c { q with base := baseWrite q.base false v }
  | 0x04 => if q.enable then s else setSq s c { q with base := baseWrite q.base true v }
  | 0x08 =>
    let s := setSq s c { q with err := q.err &&& ~~~ wf v 24 4, log2 := if q.enable then q.log2 else wf v 0 5 }
    if v.getLsbD 31 then doSqEnable s c else doSqDisable s c
  | 0x0C => doSqTail s c v
  | _ => s

/-- Completion ring `c`: BASE, LOG2SIZE and the coalescing fields are written only while ENABLE is 0 (R364, assumption 14). -/
def writeCq (s : State) (c off : Nat) (v : Word) : State :=
  let q := cqAt s c
  match off with
  | 0x00 => if q.enable then s else setCq s c { q with base := baseWrite q.base false v }
  | 0x04 => if q.enable then s else setCq s c { q with base := baseWrite q.base true v }
  | 0x08 =>
    let e := { q with err := q.err &&& ~~~ wf v 24 4 }
    let s := setCq s c (if q.enable then e else { e with log2 := wf v 0 5, coalCnt := wf v 16 8, coalTime := wf v 8 8 })
    if v.getLsbD 31 then doCqEnable s c else doCqDisable s c
  | 0x0C => doCqHead s c v
  | _ => s

/-- Word `i` of the mailbox entry; while BUSY the write is ignored with IGN (R370). -/
def writeMbEntry (s : State) (i : Nat) (v : Word) : State :=
  let m := s.mbox
  if m.state = 1 then { s with mbox := { m with ign := true } }
  else { s with mbox := { m with entry := m.bytes.take (4 * i) ++ (natLE 4 v.toNat ++ m.bytes.drop (4 * i + 4)) } }

/-- The package control block of die 0. GO acts before ACK. -/
def writePkg (s : State) (off : Nat) (v : Word) : State :=
  if 0x300 ≤ off ∧ off < 0x340 then
    if dieOk s (wf v 24 3).toNat then
      { s with apers := sput {} s.apers ((off - 0x300) / 4) { valid := v.getLsbD 31, die := wf v 24 3, base := wf v 0 6 } }
    else s
  else if 0x8000 ≤ off ∧ off < 0x8100 then
    let c := (off - 0x8000) / 0x40
    let o := (off - 0x8000) % 0x40
    if o < 0x20 then writeSq s c o v else writeCq s c (o - 0x20) v
  else if 0x8400 ≤ off ∧ off < 0x8440 then writeMbEntry s ((off - 0x8400) / 4) v
  else if off = 0x8440 then ifBit v 1 doMbAck (ifBit v 0 doMbGo s)
  else if off = 0x8444 then ifBit v 29 (fun s => { s with mbox := { s.mbox with ign := false } }) s
  else s

/-! ### Power, timebase and line generators (R187, R211-R213, R480) -/

/-- The power block. -/
def writePwr (s : State) (d off : Nat) (v : Word) : State :=
  if d = 0 ∧ off = 0x004 then { s with power := { s.power with restDelay := wf v 0 16 } } else s

/-- The timebase block: MODE and REPEAT are ignored while a job is open (R211); a slave's epochs count from the write. -/
def writeTb (s : State) (d off : Nat) (v : Word) : State :=
  let y := s.sync
  if d ≠ 0 then s
  else match off with
    | 0x008 => if jobOpen s then s else { s with sync := { y with repeat_ := v.getLsbD 2, mode := wf v 0 2, lastFrame := s.tb } }
    | 0x00C => { s with sync := { y with dlyTicks := wf v 6 16, dlyFrac := wf v 0 6 } }
    | 0x010 => { s with sync := { y with fault := y.fault && !v.getLsbD 30, lost := y.lost && !v.getLsbD 29 } }
    | _ => s

/-- Whether an open job uses an encoder. -/
def encInUse (s : State) (e : Nat) : Bool :=
  jobOpen s && (match s.job with
    | some j => j.encs.contains e
    | none => false)

/-- The line generator block: LGN_ENC_CFG of an encoder in use is not written (R211). -/
def writeLgn (s : State) (off : Nat) (v : Word) : State :=
  if off < 0x080 then
    let e := off / 0x20
    if off % 0x20 = 0x08 ∧ !encInUse s e then
      modEnc s e (fun x => { x with cpr := wf v 16 16, invert := v.getLsbD 3, filt := wf v 0 2 })
    else s
  else if 0x400 ≤ off ∧ off < 0xC00 ∧ (off - 0x400) % 0x20 = 0x10 then
    ifBit v 0 (fun s => doLgnRowCtrlClr s ((off - 0x400) / 0x20)) s
  else s

/-! ### Tynel (R249) -/

/-- The Tynel block: a write of TYN_EYE_CTRL sets its fields, then START acts. -/
def writeTyn (s : State) (d off : Nat) (v : Word) : State :=
  let e := eyeAt s d
  if off < 0x200 then
    let l := off / 0x40
    if off % 0x40 = 0x00 then
      ifBit v 0 (fun s => doTynLnkCtrlExit s d l) (ifBit v 1 (fun s => doTynLnkCtrlRetrain s d l) (ifBit v 2 (fun s => doTynLnkCtrlClr s d l) s))
    else s
  else if off = 0x800 then
    ifBit v 31 (fun s => doTynEyeStart s d)
      (setEye s d { e with lane := wf v 24 3, voff := wf v 18 6, poff := wf v 12 6, dwell := wf v 8 4 })
  else if off = 0x804 then ifBit v 30 (fun s => setEye s d { e with abort := false }) s
  else s

/-! ### DMA (R325, R328, R331, R346, R347) -/

/-- A 64-bit register with one of its words written. -/
def halfWrite (old : BitVec 64) (hi : Bool) (v : Word) : BitVec 64 :=
  if hi then v ++ old.extractLsb' 0 32 else old.extractLsb' 32 32 ++ v

/-- A shadow field: ignored with IGN while ARMED (R328). -/
def writeShadow (s : State) (d c : Nat) (f : DmaCh → DmaCh) : State :=
  modDma s (dmaIx d c) (fun q => if q.armed then { q with ign := true } else f q)

/-- Channel `c`; its registers take no host write while a Dialect is active (R325). -/
def writeDmaCh (s : State) (d c off : Nat) (v : Word) : State :=
  let q := dmaAt s (dmaIx d c)
  if s.dia.valid then s
  else match off with
    | 0x00 => setDma s (dmaIx d c) { q with trig := wf v 24 8, req := wf v 8 4, pz4 := v.getLsbD 7, prio := wf v 0 2 }
    | 0x08 => ifBit v 0 (fun s => setDma s (dmaIx d c) { q with ign := false }) s
    | 0x20 => writeShadow s d c (fun q => { q with shSrc := halfWrite q.shSrc false v })
    | 0x24 => writeShadow s d c (fun q => { q with shSrc := halfWrite q.shSrc true v })
    | 0x28 => writeShadow s d c (fun q => { q with shDst := halfWrite q.shDst false v })
    | 0x2C => writeShadow s d c (fun q => { q with shDst := halfWrite q.shDst true v })
    | 0x30 => doDmaDescWrite s d c (halfWrite q.desc false v)
    | 0x34 => doDmaDescWrite s d c (halfWrite q.desc true v)
    | 0x40 => writeShadow s d c (fun q => { q with shCount := wf v 0 24 })
    | 0x44 =>
      ifBit v 31 (fun s => doDmaArm s d c none)
        (writeShadow s d c (fun q => { q with shWait := v.getLsbD 9, shEvt := v.getLsbD 8, shEvtLine := wf v 0 8 }))
    | 0x48 => ifBit v 0 (fun s => doDmaDoorbell s d c) s
    | 0x58 => ifBit v 1 (fun s => doDmaAbort s d c) (ifBit v 0 (fun s => doDmaCntClr s d c) s)
    | _ => s

/-- The DMA block. -/
def writeDma (s : State) (d off : Nat) (v : Word) : State :=
  if off < 0x1000 then writeDmaCh s d (off / 0x80) (off % 0x80) v
  else if off = 0x1000 then doDmaIrqStatWrite s d v
  else if off = 0x1004 then setDmaDie s d { dmaDieAt s d with mask := v }
  else s

/-! ### DRAM, die banks and events (R302, R323, R372) -/

/-- The DRAM block: DDR_SCHED, DDR_REF, DDR_SCR and DDR_TRN_CTRL take no host write while a Dialect is active. -/
def writeDdr (s : State) (d off : Nat) (v : Word) : State :=
  let ch := off / 0x100
  let i := ddrIx d ch
  let tune (reg : Nat) : State := if s.dia.valid then s else match ddrSet? reg v with
    | some f => modDdr s i f
    | none => s
  if 2 ≤ ch then s
  else match off % 0x100 with
    | 0x00 => modDdr s i (fun c => { c with pinned := c.pinned && !v.getLsbD 27, hot := c.hot && !v.getLsbD 26 })
    | 0x04 => ifBit v 0 (fun s => doDdrChCtrlClr s d ch) s
    | 0x08 => tune 0
    | 0x0C => tune 1
    | 0x18 => tune 2
    | 0x1C =>
      if s.dia.valid then s
      else ifBit v 31 (fun s => doDdrTrnStart s d ch)
        (modDdr s i (fun c => { c with trn := ⟨wf v 28 3, wf v 26 2, wf v 16 4, wf v 0 16⟩ }))
    | _ => s

/-- The die-bank block. -/
def writeBnk (s : State) (d off : Nat) (v : Word) : State :=
  if off = 0x200 then ifBit v 0 (fun s => doBnkCtrlClr s d) s
  else if off = 0x204 then modMgt s d (fun m => { m with bankHalf := v.getLsbD 0 })
  else s

/-- The event block. -/
def writeEvt (s : State) (d off : Nat) (v : Word) : State :=
  let q := off / 0x10
  if 3 ≤ q then s
  else match off % 0x10 with
    | 0x0 => ifBit v 31 (fun s => setEvq s (3 * d + q) { evqAt s (3 * d + q) with ovf := false }) s
    | 0x8 => ifBit v 0 (fun s => doEvtQCtrlClr s d q) s
    | _ => s

/-! ### Motion (R432) -/

/-- The motion block: STALL is cleared by a 1, CLR acts, and nothing else takes a write (assumption 26). -/
def writeMot (s : State) (d off : Nat) (v : Word) : State :=
  let a := 2 * d + off / 0x40
  if 0x80 ≤ off then s
  else match off % 0x40 with
    | 0x00 => ifBit v 26 (fun s => modAxis s a (fun x => { x with stallFlag := false })) s
    | 0x18 => ifBit v 0 (fun s => doMotAxCtrlClr s a) s
    | _ => s

/-! ### Management and calibration (R126, R302, R460, R461) -/

/-- The compressor: CTRL, DST and LIMIT take no host write while a Dialect is active. START and ABORT act on the job as it stood. -/
def writeCmp (s : State) (d off : Nat) (v : Word) : State :=
  let c := compAt s d
  let set (f : Compressor → Compressor) : State := if s.dia.valid then s else modComp s d f
  match off with
  | 0x400 =>
    let s := set (fun c => { c with kind := v.getLsbD 2 })
    let s := ifBit v 0 (fun s => doCmpStart s d) s
    if v.getLsbD 1 && c.state == 1 then doCmpAbort s d else s
  | 0x404 => set (fun c => { c with dst := c.dst.extractLsb' 32 2 ++ (wf v 6 26 ++ 0#6) })
  | 0x408 => set (fun c => { c with dst := wf v 0 2 ++ c.dst.extractLsb' 0 32 })
  | 0x40C => set (fun c => { c with limit := wf v 0 17 })
  | 0x410 => ifBit v 0 (fun s => modComp s d (fun c => { c with startIgn := false })) s
  | _ => s

/-- The scrubber and the march engine, whose control takes no host write while a Dialect is active. -/
def writeArr (s : State) (d off : Nat) (v : Word) : State :=
  match off with
  | 0x520 => modScrub s d (fun x => { x with period := wf v 16 16, enable := v.getLsbD 0 })
  | 0x530 =>
    if s.dia.valid then s
    else
      let s := modMarch s d (fun m => { m with mode := v.getLsbD 30, kind := wf v 16 8, index := wf v 0 7 })
      ifBit v 31 (fun s => doMgtMtCtrlStart s d) s
  | _ => s

/-- MGT_THERM: TWARN outside 60-110 is ignored. -/
def writeTherm (s : State) (d : Nat) (v : Word) : State :=
  let t := wf v 0 7
  let s := if 60 ≤ t.toNat ∧ t.toNat ≤ 110 then modMgt s d (fun m => { m with twarn := t }) else s
  ifBit v 29 (fun s => doMgtThermClr s d) s

/-- The management block. -/
def writeMgt (s : State) (d off : Nat) (v : Word) : State :=
  if 0x400 ≤ off ∧ off < 0x500 then writeCmp s d off v
  else if 0x500 ≤ off ∧ off < 0x600 then writeArr s d off v
  else if off = 0x740 then writeTherm s d v
  else if off = 0x744 ∧ d = 0 then
    { s with log := { s.log with uartLevel := wf v 4 2, notify := wf v 2 2, flashLevel := wf v 0 2 } }
  else s

/-- CAL_BOUND: ignored whole with a field out of range. -/
def writeBound (s : State) (v : Word) : State :=
  let l := (wf v 24 8).toNat
  let o := (wf v 16 8).toNat
  if 1 ≤ l ∧ l ≤ 40 ∧ 1 ≤ o ∧ 10 ≤ (wf v 0 16).toNat then
    { s with cal := { s.cal with latWin := wf v 24 8, ofsMax := wf v 16 8, period := wf v 0 16 } }
  else s

/-- The calibration block: CAL_OSC is ignored with TRIM_MIN above TRIM_MAX (assumption 26). -/
def writeCal (s : State) (d off : Nat) (v : Word) : State :=
  if off = 0x100 then
    if (wf v 10 10).toNat ≤ (wf v 20 10).toNat then modMgt s d (fun m => { m with trimMax := wf v 20 10, trimMin := wf v 10 10 }) else s
  else if d ≠ 0 then s
  else match off with
    | 0x000 => { s with cal := { s.cal with pinned := s.cal.pinned &&& ~~~ wf v 0 3 } }
    | 0x014 => writeBound s v
    | _ => s

/-! ### Clauses and cells (R125, R161, R278) -/

/-- A clause's registers: only the CLR bits act. -/
def writeCls (s : State) (d k off : Nat) (v : Word) : State :=
  if 0x800 ≤ off ∧ off < 0xC00 ∧ off % 0x40 = 0x14 then
    ifBit v 0 (fun s => doCelCtrlClr s ⟨d, k, (off - 0x800) / 0x40⟩) s
  else match off with
    | 0x310 => ifBit v 0 (fun s => doClsCdcCtrlClr s d k) s
    | 0x410 => ifBit v 0 (fun s => doClsIntCtrlClr s d k) s
    | _ => s

/-! ### A die's window (R355) -/

/-- A write of a whole aligned word to a die's window. -/
def writeReg (s : State) (d off : Nat) (v : Word) : State :=
  if off % 4 ≠ 0 then s
  else if off < 0x10000 then (if d = 0 then writePkg s off v else s)
  else if off < 0x11000 then s
  else if off < 0x12000 then writePwr s d (off - 0x11000) v
  else if off < 0x13000 then writeTb s d (off - 0x12000) v
  else if off < 0x14000 then s
  else if off < 0x16000 then (if d = 0 then writeLgn s (off - 0x14000) v else s)
  else if off < 0x18000 then s
  else if off < 0x19000 then writeTyn s d (off - 0x18000) v
  else if off < 0x1A000 then s
  else if off < 0x1C000 then writeDma s d (off - 0x1A000) v
  else if off < 0x1D000 then writeDdr s d (off - 0x1C000) v
  else if off < 0x1E000 then writeBnk s d (off - 0x1D000) v
  else if off < 0x1F000 then writeEvt s d (off - 0x1E000) v
  else if off < 0x20000 then writeMot s d (off - 0x1F000) v
  else if off < 0x30000 then writeMgt s d (off - 0x20000) v
  else if off < 0x40000 then writeCal s d (off - 0x30000) v
  else if 0x100000 ≤ off ∧ off < 0x142000 then writeCls s d ((off - 0x100000) / 0x1000) (off % 0x1000) v
  else s

end Sys2Proof.Machine
end

