-- ==== Sys2Proof/Machine/Pcie.lean ====
section
/-! DEFINITION. The PCIe endpoint and the host's accesses (R348-R357, R463). -/

namespace Sys2Proof.Machine

/-! ### Requests that reach the endpoint -/

/-- Whether a request reaches the endpoint: powered, out of PERST#, its link up. -/
def linkReach (s : State) : Bool :=
  !s.pcie.perst && s.pcie.linkUp && s.power.st != .dormant && !s.power.porAsserted

/-- Data returned to a host read. -/
def answer (s : State) (bytes : List Byte) (ep : Bool) : State := emit s (.readData bytes false ep)

/-- All bits set: what a read returns that does not reach its target (R357, R476). -/
def ones (n : Nat) : List Byte := List.replicate n 0xFF

/-- A memory request: in D3hot it is unsupported, and from a reset until the load ends reads return all bits set; writes are then discarded
(R351, R476). `n` is the length of a read. -/
def hostAccess (s : State) (read : Bool) (n : Nat) (body : State → State) : State :=
  if !linkReach s then s
  else if s.pcie.d3hot then (if read then emit s (.readData [] true false) else s)
  else if s.pcie.retry then (if read then answer s (ones n) false else s)
  else body s

/-! ### Configuration and link (R348, R350, R351, R463) -/

/-- The half of a 64-bit BAR that a dword holds: below its size the address bits are 0, and bits 3-0 give its type (R352). -/
def barWord (bar : BitVec 64) (typ : Word) (upper : Bool) : Word := if upper then bar.extractLsb' 32 32 else bar.extractLsb' 0 32 ||| typ

/-- A dword of the configuration header (R348, R352). What the manual leaves to the PCIe specification's capabilities is free (assumption 26). -/
def configWord (s : State) (reg : Nat) : Word × State :=
  let p := s.pcie
  match reg with
  | 0x00 => (BitVec.ofNat 16 (0x8800 + s.part.dies) ++ Config.vendorId, s)
  | 0x04 => (0x0010#16 ++ p.command, s)
  | 0x08 => (0x0B4000#24 ++ s.part.stepping, s)
  | 0x0C => (0x000000#24 ++ p.cacheLine, s)
  | 0x10 => (barWord p.bar0 0x4 false, s)
  | 0x14 => (barWord p.bar0 0x4 true, s)
  | 0x18 => (barWord p.bar2 0xC false, s)
  | 0x1C => (barWord p.bar2 0xC true, s)
  | 0x20 => (barWord p.bar4 0x4 false, s)
  | 0x24 => (barWord p.bar4 0x4 true, s)
  | 0x28 => (0, s)
  | 0x30 => (0, s)
  | 0x38 => (0, s)
  | 0x3C => (0x000000#24 ++ p.intLine, s)
  | _ => let f := drawFree s; (f.1.extractLsb' 0 32, f.2)

/-- The bytes of a dword that a write's byte enables name. -/
def mergeBytes (old v : Word) (be : BitVec 4) : Word :=
  let m : Word := (List.range 4).foldl (fun m i => if be.getLsbD i then m ||| (0xFF#32 <<< (8 * i)) else m) 0
  (old &&& ~~~m) ||| (v &&& m)

/-- A half of a BAR is written: only the address bits at and above its size, a power of two, hold (R352). -/
def putBar (bar : BitVec 64) (size : Nat) (upper : Bool) (v : Word) (be : BitVec 4) : BitVec 64 :=
  let lo : Word := bar.extractLsb' 0 32
  let hi : Word := bar.extractLsb' 32 32
  (if upper then mergeBytes hi v be ++ lo else hi ++ mergeBytes lo v be) &&& ~~~(BitVec.ofNat 64 (size - 1))

/-- A configuration write: the command register, the BARs and the two scratch fields of a type 0 header; writes elsewhere change nothing here
(assumption 34). -/
def writeConfig (s : State) (reg : Nat) (v : Word) (be : BitVec 4) : State :=
  let p := s.pcie
  let put (p : Pcie) : State := { s with pcie := p }
  match reg with
  | 0x04 => put { p with command := (mergeBytes (0#16 ++ p.command) v be).extractLsb' 0 16 &&& 0x0546#16 }
  | 0x0C => put { p with cacheLine := (mergeBytes (0#24 ++ p.cacheLine) v be).extractLsb' 0 8 }
  | 0x10 => put { p with bar0 := putBar p.bar0 0x4000000 false v be }
  | 0x14 => put { p with bar0 := putBar p.bar0 0x4000000 true v be }
  | 0x18 => put { p with bar2 := putBar p.bar2 0x100000000 false v be }
  | 0x1C => put { p with bar2 := putBar p.bar2 0x100000000 true v be }
  | 0x20 => put { p with bar4 := putBar p.bar4 0x10000 false v be }
  | 0x24 => put { p with bar4 := putBar p.bar4 0x10000 true v be }
  | 0x3C => put { p with intLine := (mergeBytes (0#24 ++ p.intLine) v be).extractLsb' 0 8 }
  | _ => s

/-- Vectors pending that may now be sent are sent, and their pending bits clear (R354). -/
def sendPending (s : State) : State :=
  let go := s.pcie.pba.filter (vecOpen s)
  (go.reverse).foldl msix { s with pcie := { s.pcie with pba := s.pcie.pba.filter (fun v => !go.contains v) } }

/-- A dword of BAR4: entries of 16 bytes from 0, the pending bits from 0x8000, 0 elsewhere (R352, R354). -/
def tableWord (s : State) (off : Nat) : Word :=
  let e := sget {} s.pcie.vecs (off / 16)
  if off < 0x1000 then
    match off % 16 / 4 with
    | 0 => e.addr.extractLsb' 0 32
    | 1 => e.addr.extractLsb' 32 32
    | 2 => e.data
    | _ => if e.masked then 1 else 0
  else if 0x8000 ≤ off ∧ off < 0x8020 then
    (List.range 32).foldl (fun w i => if s.pcie.pba.contains (8 * (off / 4 * 4 - 0x8000) + i) then w ||| (1#32 <<< i) else w) 0
  else 0

/-- A dword of the MSI-X table is written; an unmasked vector that pends is sent (R354). -/
def writeTable (s : State) (off : Nat) (v : Word) : State :=
  if 0x1000 ≤ off then s
  else
    let n := off / 16
    let e := sget {} s.pcie.vecs n
    let e' : MsixVec := match off % 16 / 4 with
      | 0 => { e with addr := (e.addr.extractLsb' 32 32 ++ v) &&& ~~~3#64 }
      | 1 => { e with addr := v ++ e.addr.extractLsb' 0 32 }
      | 2 => { e with data := v }
      | _ => { e with masked := v.getLsbD 0 }
    sendPending { s with pcie := { s.pcie with vecs := sput {} s.pcie.vecs n e' } }

/-- The register that a configuration request names. -/
def cfgReg : CfgReq → Nat
  | .read reg => reg
  | .write reg _ _ => reg
  | _ => 0

/-- A configuration request; it arrives over a trained link (R348, R350). -/
def configAccess (s : State) (r : CfgReq) (body : State → State) : State :=
  if s.pcie.perst ∨ s.power.st = .dormant ∨ s.power.porAsserted then s
  else
    let s := { s with pcie := { s.pcie with linkUp := true } }
    if s.pcie.retry then emit s (.config (cfgReg r) none) else body s

/-- CONFIG_REQUEST: a request to the endpoint's own space. -/
def doConfigRequest (s : State) (r : CfgReq) : State :=
  match r with
  | .read reg => configAccess s r (fun s => let w := configWord s reg; emit w.2 (.config reg (some w.1)))
  | .write reg v be => configAccess s r (fun s => writeConfig s reg v be)
  | .msixControl on mask => configAccess s r (fun s => sendPending { s with pcie := { s.pcie with msixOn := on, msixMask := mask } })
  | .tableRead off => hostAccess s true 4 (fun s => answer s (natLE 4 (tableWord s off).toNat) false)
  | .tableWrite off v => hostAccess s false 4 (fun s => writeTable s off v)

def execConfigRequest (req : CfgReq) (s : State) : Host.Outcome State Fault Refusal := .next (doConfigRequest s req)

/-- D3HOT_ENTRY. -/
def doD3hotEntry (s : State) : State :=
  if linkReach s && !s.pcie.retry then { s with pcie := { s.pcie with d3hot := true } } else s

def execD3hotEntry (s : State) : Host.Outcome State Fault Refusal := .next (doD3hotEntry s)

/-- D0_RETURN: every ring and register is as it was; the results and messages that waited go out, oldest first. -/
def doD0Return (s : State) : State :=
  if !(linkReach s && s.pcie.d3hot) then s
  else
    let vs := s.pcie.held
    let s := { s with pcie := { s.pcie with d3hot := false, held := [] } }
    (List.range 4).foldl flushCq (vs.foldl msix s)

def execD0Return (s : State) : Host.Outcome State Fault Refusal := .next (doD0Return s)

/-- PCIE_LINK_DOWN. -/
def doPcieLinkDown (s : State) : State := { s with pcie := { s.pcie with linkUp := false } }

def execPcieLinkDown (s : State) : Host.Outcome State Fault Refusal := .next (doPcieLinkDown s)

/-! ### BAR2 (R353) -/

/-- Whether bytes of a die's DRAM meet a poisoned block. -/
def dramPoisoned (s : State) (d a n : Nat) : Bool := (List.range (n / 64 + 2)).any (fun j => a / 64 * 64 + 64 * j < a + n && dramBad s d (a / 64 * 64 + 64 * j))

/-- An access through a window that is VALID. -/
def windowAccess (s : State) (d a n : Nat) (wr : Option (List Byte)) : State :=
  let beyond : Bool := !dieReach s d || decide (dramEnd s d < a + n)
  match wr with
  | none =>
    if beyond then emit { s with pcie := { s.pcie with ur := satInc s.pcie.ur } } (.readData [] true false)
    else
      let s := dramTouch s d a n
      answer s (dramRd s d a n) (dramPoisoned s d a n)
  | some bs =>
    if beyond ∨ s.dia.valid then { s with pcie := { s.pcie with dropped := satInc s.pcie.dropped } } else dramWr s d a bs

/-- BAR2_ACCESS: `wr` is the data of a write; a read is of `len` bytes. -/
def doBar2Access (s : State) (off len : Nat) (wr : Option (List Byte)) : State :=
  let n := match wr with
    | some bs => bs.length
    | none => len
  if 2 ^ 32 < off + n ∨ off / 2 ^ 28 ≠ (off + n - 1) / 2 ^ 28 ∨ n = 0 then s
  else hostAccess s wr.isNone n (fun s =>
    let w := sget {} s.apers (off / 2 ^ 28)
    if !w.valid then
      (if wr.isNone then answer s (List.replicate n 0) false else { s with pcie := { s.pcie with dropped := satInc s.pcie.dropped } })
    else windowAccess s w.die.toNat (2 ^ 28 * w.base.toNat + off % 2 ^ 28) n wr)

def execBar2Access (off len : Nat) (wr : Option (List Byte)) (s : State) : Host.Outcome State Fault Refusal := .next (doBar2Access s off len wr)

/-! ### The die-bank aperture (R356) -/

/-- Whether bytes of a die's banks meet a poisoned block. -/
def bankPoisoned (s : State) (d a n : Nat) : Bool := poisoned s .bank d (a / 8) || poisoned s .bank d ((a + n - 1) / 8)

/-- An access at an offset of the aperture: 1, 2, 4 or 8 bytes, aligned. Writes are discarded while a Dialect is active. What a read of
another shape returns the manual does not say: it is free (assumption 26). -/
def bankAccess (s : State) (d off n : Nat) (wr : Option (List Byte)) : State :=
  let a := (if (mgtAt s d).bankHalf then 2 ^ 22 else 0) + off
  let shape : Bool := (n == 1 || n == 2 || n == 4 || n == 8) && off % n == 0
  match wr with
  | none =>
    if !shape then let f := drawBytes s n; answer f.2 f.1 false
    else
      let s := settleRange s .bank d a n
      let r := rdBanks s d a n; answer r.2 r.1 (bankPoisoned s d a n)
  | some bs => if !shape ∨ s.dia.valid then s else bankWr s d a bs

/-- DIE_BANK_APERTURE_ACCESS: `off` counts from the aperture's first byte. The window of a die that the member lacks reads 0 (R11, R355). -/
def doDieBankApertureAccess (s : State) (d off len : Nat) (wr : Option (List Byte)) : State :=
  let n := match wr with
    | some bs => bs.length
    | none => len
  if 2 ^ 22 < off + n ∨ n = 0 then s
  else hostAccess s wr.isNone n (fun s =>
    if !dieOk s d then (if wr.isNone then answer s (List.replicate n 0) false else s)
    else if !dieReach s d then (if wr.isNone then answer s (ones n) false else s) else bankAccess s d off n wr)

def execDieBankApertureAccess (die off len : Nat) (wr : Option (List Byte)) (s : State) : Host.Outcome State Fault Refusal :=
  .next (doDieBankApertureAccess s die off len wr)

/-! ### Registers (R9, R356, R357) -/

/-- A read of one register word; TB_COUNT_LO latches its upper half (R212). -/
def regRead (s : State) (d off : Nat) : State :=
  if off / 4 = 0x12000 / 4 then
    answer (modMgt s d (fun m => { m with tbHi := (tb64 s).extractLsb' 32 32 })) (natLE 4 (readReg s d (off / 4 * 4)).toNat) false
  else answer s (natLE 4 (readReg s d (off / 4 * 4)).toNat) false

/-- BAR0_REMOTE_ACCESS: a word read or written in a die's window, which the access reaches over its BLOCK route; the window of a die that
the member lacks reads 0 (R11, R355). -/
def doBar0RemoteAccess (s : State) (d off : Nat) (wr : Option (BitVec 32)) : State :=
  if 0x800000 ≤ off then s
  else hostAccess s wr.isNone 4 (fun s =>
    if !dieOk s d then (if wr.isNone then answer s (List.replicate 4 0) false else s)
    else if !dieReach s d then (if wr.isNone then answer s (ones 4) false else s)
    else if 0x400000 ≤ off then bankAccess s d (off - 0x400000) 4 (wr.map (fun v => natLE 4 v.toNat))
    else match wr with
      | none => regRead s d off
      | some v => writeReg s d off v)

def execBar0RemoteAccess (die off : Nat) (wr : Option (BitVec 32)) (s : State) : Host.Outcome State Fault Refusal :=
  .next (doBar0RemoteAccess s die off wr)

/-- REGISTER_WRITE: a write whose byte enables are not all set is discarded (R356). -/
def doRegisterWrite (s : State) (d off : Nat) (v : BitVec 32) (be : BitVec 4) : State :=
  if be ≠ 0xF then s else hostReg s d (fun s => writeReg s d off v)

def execRegisterWrite (die off : Nat) (v : BitVec 32) (be : BitVec 4) (s : State) : Host.Outcome State Fault Refusal :=
  .next (doRegisterWrite s die off v be)

end Sys2Proof.Machine
end

