-- ==== Sys2Proof/Machine/Power.lean ====
section
/-! DEFINITION. Resets, power states, start-up and clocks (R462-R480). -/

namespace Sys2Proof.Machine

/-! ### Resets (R351, R475) -/

/-- PERST_ASSERT: the endpoint is held in reset; after the first deassertion it is a warm reset too. -/
def doPerstAssert (s : State) : State :=
  if s.pcie.perst then s
  else if s.power.st = .dormant ∨ s.power.porAsserted then { s with pcie := { s.pcie with perst := true, linkUp := false } }
  else if s.pcie.deasserted then warmReset s 3
  else { s with pcie := { s.pcie with perst := true, linkUp := false } }

def execPerstAssert (s : State) : Host.Outcome State Fault Refusal := .next (doPerstAssert s)

/-- PERST_DEASSERT: the endpoint leaves reset (R472, R475). -/
def doPerstDeassert (s : State) : State :=
  { s with pcie := { s.pcie with perst := false, deasserted := true, linkUp := true } }

def execPerstDeassert (s : State) : Host.Outcome State Fault Refusal := .next (doPerstDeassert s)

/-- FLR: a warm reset that keeps the link; CMD_ registers, PKG_APER, PKG_APER_STAT, DMA_IRQ_STAT and DMA_IRQ_MASK are reset with the rest
(R351, R475, R478). -/
def doFlr (s : State) : State :=
  if s.pcie.perst ∨ s.power.st = .dormant ∨ s.power.porAsserted then s else warmReset s 4

def execFlr (s : State) : Host.Outcome State Fault Refusal := .next (doFlr s)

/-- COLD_POR: VAON enters its window (R475). -/
def doColdPor (s : State) : State := assertPor s true false

def execColdPor (s : State) : Host.Outcome State Fault Refusal := .next (doColdPor s)

/-- VAON_UNDERVOLTAGE: cold power-on reset is asserted; PWREN is not driven high (R490). -/
def doVaonUndervoltage (s : State) : State :=
  let s := assertPor s true false
  { s with power := { s.power with pwren := false } }

def execVaonUndervoltage (s : State) : Host.Outcome State Fault Refusal := .next (doVaonUndervoltage s)

/-- RAIL_UNDERVOLTAGE: a main rail below its window asserts main power-on reset (R470, R490); in Dormant the rails are off. -/
def doRailUndervoltage (s : State) : State :=
  if s.power.st = .dormant ∨ s.power.porAsserted then s else assertPor s false s.power.woken

def execRailUndervoltage (s : State) : Host.Outcome State Fault Refusal := .next (doRailUndervoltage s)

/-- MAIN_POR_RELEASE: instant t0: the timebase is 0, stage 1 begins, and the pins are latched (R450, R470, R471, R479). -/
def doMainPorRelease (s : State) (dialectPins smbPins : BitVec 2) : State :=
  if !s.power.porAsserted then s
  else
    let p := s.power
    let s := porState s false
    { s with dia := { s.dia with pinSlot := dialectPins },
             power := { s.power with lastReset := p.lastReset, woken := p.woken, aonSec := p.aonSec, smbAddr := smbPins } }

def execMainPorRelease (dialectPins smbPins : BitVec 2) (s : State) : Host.Outcome State Fault Refusal :=
  .next (doMainPorRelease s dialectPins smbPins)

/-! ### Dormant (R467) -/

/-- WAKE: a stable low level of WAKE# wakes the part; one that arrives during entry or the hold is kept. -/
def doWake (s : State) : State :=
  if s.power.goDormant ∨ (s.power.st = .dormant ∧ s.power.hold) then { s with power := { s.power with wakeLatch := true } }
  else if s.power.st = .dormant then wakeUp s
  else s

def execWake (s : State) : Host.Outcome State Fault Refusal := .next (doWake s)

/-- PWREN_HOLD_EXPIRY: the hold ends and a WAKE# kept through it is acted on. -/
def doPwrenHoldExpiry (s : State) : State :=
  if s.power.st ≠ .dormant then s
  else
    let s' := { s with power := { s.power with hold := false } }
    if s.power.wakeLatch then wakeUp s' else s'

def execPwrenHoldExpiry (s : State) : Host.Outcome State Fault Refusal := .next (doPwrenHoldExpiry s)

/-! ### Descents (R465, R466) -/

/-- The resting state that POWER set. -/
def restState (s : State) : PwrState := match s.power.rest.toNat with | 0 => .ready | 1 => .idle | _ => .sleep

/-- The next state down on the way to the resting state; `none` where the part is at or below it. -/
def descent? (s : State) : Option PwrState :=
  match s.power.st, restState s with
  | .ready, .idle => some .idle
  | .ready, .sleep => some .idle
  | .idle, .sleep => some .sleep
  | _, _ => none

/-- At rest: no job open and no Long command parked (R382, R465). -/
def atRest (s : State) : Bool := !jobOpen s && s.parked.isEmpty

/-- REST_DESCENT: after REST_DELAY at rest, a step of the descent begins. With no Dialect the part reads READY and stays there (R464). -/
def doRestDescent (s : State) : State :=
  if !atRest s ∨ !s.dia.valid ∨ s.load.isSome ∨ s.power.moving ∨ s.power.goDormant then s
  else match descent? s with
    | some t => { s with power := { s.power with target := t, moving := true } }
    | none => s

def execRestDescent (s : State) : Host.Outcome State Fault Refusal := .next (doRestDescent s)

/-- POWER_TRANSITION_DONE: the step under way ends: entry to Dormant, or a descent to Idle (links to electrical idle) or to Sleep (clauses
off). -/
def doPowerTransitionDone (s : State) : State :=
  if s.power.goDormant then enterDormant s
  else if !s.power.moving then s
  else
    let t := s.power.target
    let s := { s with power := { s.power with st := t, moving := false } }
    match t with
    | .idle => (allLinks s).foldl (fun s p => linkToIdle s p.1 p.2) s
    | .sleep => clausesOff s
    | _ => s

def execPowerTransitionDone (s : State) : Host.Outcome State Fault Refusal := .next (doPowerTransitionDone s)

/-! ### Start-up (R470-R474) -/

/-- STARTUP_STAGE_DONE: the stage in progress ends; stage 6 ends with its Dialect load. -/
def doStartupStageDone (s : State) (r : StageResult) : State :=
  let stage := (mgtAt s 0).stage.toNat
  if s.power.st ≠ .starting ∨ s.power.porAsserted ∨ s.startFailed ∨ 6 ≤ stage then s
  else
    let fs := r.failed.filter (fun p => dieOk s p.1 && dieStarts s p.1 && (mgtAt s p.1).result != 2)
    let s := fs.foldl dieFails s
    if s.startFailed then s else stageWork s stage r

def execStartupStageDone (r : StageResult) (s : State) : Host.Outcome State Fault Refusal := .next (doStartupStageDone s r)

/-- POWER_UP_LOAD_LIMIT: 900 ms after PERST# deassertion, a power-up load still running fails with FLASH, and Retry Status ends, also where
die 0's core is stopped (R350, R474). -/
def doPowerUpLoadLimit (s : State) : State :=
  if s.pcie.perst ∨ !s.pcie.retry then s
  else match s.load with
    | some j => loadFailed { s with pcie := { s.pcie with limitPassed := true } } j (0x1B, noSect) 0
    | none => if s.startFailed then { s with pcie := { s.pcie with limitPassed := true, retry := false } }
      else { s with pcie := { s.pcie with limitPassed := true } }

def execPowerUpLoadLimit (s : State) : Host.Outcome State Fault Refusal := .next (doPowerUpLoadLimit s)

/-! ### Clocks (R463) -/

/-- Whether a die's clocks run: powered, past stage 1, not fenced. -/
def clocksRun (s : State) (d : Nat) : Bool :=
  dieLive s d && s.power.st != .dormant && !s.power.porAsserted && decide (2 ≤ (mgtAt s d).stage.toNat)

/-- REF_LOSS: a die fault, permanent at once. -/
def doRefLoss (s : State) (d : Nat) : State :=
  if !clocksRun s d then s
  else dieFault (modMgt s d (fun m => { m with refloss := satInc m.refloss })) d 8

def execRefLoss (die : Nat) (s : State) : Host.Outcome State Fault Refusal := .next (doRefLoss s die)

/-- PLL_LOCK_LOSS: of PLL 0, 1 or 2 a die fault; of PLL 3 every link of the die goes to RETRAIN; of PLL 4 a PCIe link-down. PLLs 1-3 are
off in Sleep (R464, R466). -/
def doPllLockLoss (s : State) (d pll : Nat) : State :=
  let m := mgtAt s d
  if !clocksRun s d ∨ !m.pllLock.getLsbD pll ∨ (s.power.st = .sleep ∧ 1 ≤ pll ∧ pll ≤ 3) then s
  else
    let s := setMgt s d { m with lol := satInc m.lol, pllLock := if pll = 3 then m.pllLock else m.pllLock &&& ~~~(1#5 <<< pll) }
    if pll ≤ 2 then dieFault s d 8
    else if pll = 3 then
      ((allLinks s).filter (fun p => p.1 == d && (linkAt s (linkIx d p.2)).st == .active)).foldl (fun s p =>
        enterFast (modLink s (linkIx d p.2) (fun k => { k with fastTries := 0 })) d p.2) s
    else { s with pcie := { s.pcie with linkUp := false } }

def execPllLockLoss (die pll : Nat) (s : State) : Host.Outcome State Fault Refusal := .next (doPllLockLoss s die pll)

end Sys2Proof.Machine
end

