-- ==== Sys2Proof/Machine/Sideband.lean ====
section
/-! DEFINITION. The side-band interfaces: SMBus, UART and JTAG (R450). -/

namespace Sys2Proof.Machine

/-- Whether the side-band interfaces answer: main power is on and power-on reset released. -/
def sideUp (s : State) : Bool := s.power.st != .dormant && !s.power.porAsserted

/-! ### Mailboxes -/

/-- A submission reaching a mailbox that is not IDLE is ignored with IGN, its entry not written (R370, R450). -/
def Mailbox.submit (m : Mailbox) (entry : List Byte) : Mailbox :=
  if m.state = 0 then { m with entry := (entry ++ List.replicate 64 0).take 64, state := 1 } else { m with ign := true }

/-- STATE, STATUS and the completion entry, 0 unless DONE: 35 bytes (R450). -/
def Mailbox.report (m : Mailbox) : List Byte :=
  natLE 1 m.state.toNat ++ (natLE 2 m.status.toNat ++ (m.data ++ List.replicate 32 0).take 32)

/-! ### SMBus -/

/-- The part's SMBus address: 0x58 + SMBADDR. -/
def smbAddress (s : State) : Nat := 0x58 + s.power.smbAddr.toNat

/-- The packet error code of SMBus 3.1: CRC-8, x^8 + x^2 + x + 1 (assumption 25). -/
def pec (bs : List Byte) : Byte :=
  bs.foldl (fun c b => (List.range 8).foldl (fun (c : Byte) _ => if c.getLsbD 7 then (c <<< 1) ^^^ 0x07#8 else c <<< 1) (c ^^^ b)) 0

/-- A block read answered: the byte count, the bytes and the PEC of the whole transaction. -/
def smbBlock (s : State) (code : Nat) (bs : List Byte) : State :=
  let data := natLE 1 bs.length ++ bs
  let a := smbAddress s
  emit s (.smbData (data ++ [pec (natLE 1 (2 * a) ++ (natLE 1 code ++ (natLE 1 (2 * a + 1) ++ data)))]))

/-- Whether the PEC of a write that carries one is that of its bytes: the address, the code and the data; a write that fails it has no effect
(R450; assumption 25). -/
def pecOk (s : State) (data : List Byte) (p : Option Byte) : Bool :=
  match p with
  | none => true
  | some c => c == pec (natLE 1 (2 * smbAddress s) ++ data)

/-- SMB_SUBMIT, code 0x10: the entry, then GO. -/
def doSmbSubmit (s : State) (entry : List Byte) (p : Option Byte) : State :=
  if !sideUp s || !pecOk s (0x10 :: natLE 1 entry.length ++ entry) p then s
  else
    let m := s.smb.submit entry
    if s.smb.state = 0 then { s with smb := m, cmdq := s.cmdq ++ [⟨.smbus, m.bytes⟩] } else { s with smb := m }

def execSmbSubmit (entry : List Byte) (p : Option Byte) (s : State) : Host.Outcome State Fault Refusal := .next (doSmbSubmit s entry p)

/-- SMB_ACK, code 0x12. -/
def doSmbAck (s : State) (p : Option Byte) : State := if sideUp s && pecOk s [0x12] p then { s with smb := s.smb.ack } else s

def execSmbAck (p : Option Byte) (s : State) : Host.Outcome State Fault Refusal := .next (doSmbAck s p)

/-- SMB_IDENTIFY_READ, code 0x01: IDENTIFY result bytes 0x08-0x1B. -/
def doSmbIdentifyRead (s : State) : State :=
  if sideUp s then smbBlock s 0x01 ((identity s ++ List.replicate 20 0).take 20) else s

def execSmbIdentifyRead (s : State) : Host.Outcome State Fault Refusal := .next (doSmbIdentifyRead s)

/-- A die's highest temperature over its sensors that have a reading; 0 where none has. -/
def topTemp (s : State) (d : Nat) : Int :=
  let ts := ((List.range 9).map (fun i => sget {} s.sense (16 * d + i))).filter (fun x => x.valid)
  match ts with
  | [] => 0
  | x :: xs => xs.foldl (fun m (y : Sense) => max m y.value.toInt) x.value.toInt

/-- A die's 3 bytes of code 0x02: its highest temperature, then WARN and fenced. -/
def smbTempBytes (s : State) (d : Nat) : List Byte :=
  natLE 2 (BitVec.ofInt 16 (topTemp s d)).toNat ++
    natLE 1 ((if (mgtAt s d).warn then 1 else 0) + (if isFenced s (.die d) then 2 else 0))

/-- SMB_TEMP_READ, code 0x02. -/
def doSmbTempRead (s : State) : State :=
  if sideUp s then smbBlock s 0x02 ((List.range s.part.dies).flatMap (smbTempBytes s)) else s

def execSmbTempRead (s : State) : Host.Outcome State Fault Refusal := .next (doSmbTempRead s)

/-- SMB_RESULT_READ, code 0x11. -/
def doSmbResultRead (s : State) : State := if sideUp s then smbBlock s 0x11 s.smb.report else s

def execSmbResultRead (s : State) : Host.Outcome State Fault Refusal := .next (doSmbResultRead s)

/-- Whether SMBALERT# is asserted: WARN on any die, or a safety trip latched. -/
def smbAlert (s : State) : Bool := (List.range s.part.dies).any (fun d => (mgtAt s d).warn || (mgtAt s d).trip)

/-- SMB_ALERT_RESPONSE: while SMBALERT# is asserted, a read of the Alert Response Address 0x0C answers the part's address (assumption 25). -/
def doSmbAlertResponse (s : State) : State :=
  let b := natLE 1 (2 * smbAddress s)
  if sideUp s && smbAlert s then emit s (.smbData (b ++ [pec ((0x19 : Byte) :: b)])) else s

def execSmbAlertResponse (s : State) : Host.Outcome State Fault Refusal := .next (doSmbAlertResponse s)

/-! ### UART -/

/-- Whether a frame to the part passes: its mark, the LEN of its type, as many bytes, and its CRC. -/
def uartGood (frame : List Byte) (typ len : Nat) : Bool :=
  let body := slice frame 1 (3 + len)
  frame.length == 6 + len && leAt frame 0 1 == 0xA5 && leAt frame 1 1 == typ && leAt frame 2 2 == len &&
    leAt frame (4 + len) 2 == (crc16 body).toNat

/-- Send a frame: the UART is busy until it is sent. -/
def sendFrame (s : State) (f : List Byte) : State :=
  emit { s with log := { s.log with uartFrames := s.log.uartFrames + 1 } } (.uart f)

/-- NAK: the last frame failed its CRC or LEN. -/
def sendNak (s : State) : State := sendFrame s (uartFrame 0x83 [])

/-- UART_SUBMIT: the entry, then GO; a bad frame is answered NAK. -/
def doUartSubmit (s : State) (frame : List Byte) : State :=
  if !sideUp s then s
  else if !uartGood frame 0x01 64 then sendNak s
  else
    let m := s.uartMb.submit (slice frame 4 64)
    if s.uartMb.state = 0 then { s with uartMb := m, cmdq := s.cmdq ++ [⟨.uart, m.bytes⟩] } else { s with uartMb := m }

def execUartSubmit (frame : List Byte) (s : State) : Host.Outcome State Fault Refusal := .next (doUartSubmit s frame)

/-- UART_ACK; a bad frame is answered NAK. -/
def doUartAck (s : State) (frame : List Byte) : State :=
  if !sideUp s then s else if !uartGood frame 0x02 0 then sendNak s else { s with uartMb := s.uartMb.ack }

def execUartAck (frame : List Byte) (s : State) : Host.Outcome State Fault Refusal := .next (doUartAck s frame)

/-- UART_EVENT_DISCARD: the oldest entry that waits, 10 ms after it was logged, is discarded. -/
def doUartEventDiscard (s : State) : State :=
  match s.log.uartWait with
  | [] => s
  | x :: xs => advanceTo { s with log := { s.log with uartWait := xs } } (x.e.time.toNat + 10 * msTicks)

def execUartEventDiscard (s : State) : Host.Outcome State Fault Refusal := .next (doUartEventDiscard s)

/-- UART_FRAME_SENT: once no frame is left to send, the oldest entry that waits is sent. -/
def doUartFrameSent (s : State) : State :=
  let s := { s with log := { s.log with uartFrames := s.log.uartFrames - 1 } }
  if s.log.uartFrames ≠ 0 then s
  else match s.log.uartWait with
    | [] => s
    | x :: xs => sendEvent { s with log := { s.log with uartWait := xs } } x

def execUartFrameSent (s : State) : Host.Outcome State Fault Refusal := .next (doUartFrameSent s)

/-! ### JTAG -/

/-- The next state of a TAP controller at a rising TCK edge (IEEE 1149.1). -/
def Tap.next (st : Tap) (tms : Bool) : Tap :=
  match st with
  | .reset => if tms then .reset else .idle
  | .idle => if tms then .selDr else .idle
  | .selDr => if tms then .selIr else .capDr
  | .capDr => if tms then .ex1Dr else .shDr
  | .shDr => if tms then .ex1Dr else .shDr
  | .ex1Dr => if tms then .updDr else .pauDr
  | .pauDr => if tms then .ex2Dr else .pauDr
  | .ex2Dr => if tms then .updDr else .shDr
  | .updDr => if tms then .selDr else .idle
  | .selIr => if tms then .reset else .capIr
  | .capIr => if tms then .ex1Ir else .shIr
  | .shIr => if tms then .ex1Ir else .shIr
  | .ex1Ir => if tms then .updIr else .pauIr
  | .pauIr => if tms then .ex2Ir else .pauIr
  | .ex2Ir => if tms then .updIr else .shIr
  | .updIr => if tms then .selDr else .idle

/-- The instruction of a code; all ones and every code not listed are BYPASS. -/
def tapDecode (c : BitVec 8) : TapIr :=
  if c = 0xFF then .bypass
  else if c = Config.jtagCode 0 then .idcode
  else if c = Config.jtagCode 1 then .samplePreload
  else if c = Config.jtagCode 2 then .extest
  else if c = Config.jtagCode 3 then .clamp
  else if c = Config.jtagCode 4 then .highz
  else .bypass

/-- IDCODE of die `d`. -/
def idcode (s : State) (d : Nat) : BitVec 32 :=
  s.part.stepping.extractLsb' 0 4 ++ (BitVec.ofNat 16 (0x8800 + d) ++ (Config.jedecCode ++ 1#1))

/-- The bits of a word, least significant first. -/
def bitList {w : Nat} (v : BitVec w) : List Bool := (List.range w).map (fun i => v.getLsbD i)

/-- What a TAP's shift stage captures: the register that the instruction selects. `balls` are the levels at the die's boundary cells. -/
def tapCapture (s : State) (d : Nat) (t : TapCtl) (balls : List Bool) : List Bool :=
  match t.ir with
  | .idcode => bitList (idcode s d)
  | .samplePreload => balls
  | .extest => balls
  | _ => [false]

/-- The levels at the boundary cells of die `d` among those of the package, die 0 first. -/
def dieBalls (balls : List Bool) (d : Nat) : List Bool :=
  let n := Config.boundaryCells d
  ((balls.drop ((List.range d).map Config.boundaryCells).sum ++ List.replicate n false)).take n

/-- A rising TCK edge at one TAP: the work of the state it is in, then the next state. `inp` is the level at its TDI. -/
def tapRise (s : State) (d : Nat) (t : TapCtl) (tms inp : Bool) (balls : List Bool) : TapCtl :=
  let t := match t.st with
    | .capDr => { t with shift := tapCapture s d t (dieBalls balls d) }
    | .capIr => { t with shift := bitList (Config.jtagCapture ++ 1#2) }
    | .shDr => { t with shift := t.shift.drop 1 ++ [inp] }
    | .shIr => { t with shift := t.shift.drop 1 ++ [inp] }
    | _ => t
  { t with st := t.st.next tms }

/-- The word whose bits a list holds, least significant first. -/
def bitsNat (bs : List Bool) : Nat := bs.foldr (fun b n => 2 * n + (if b then 1 else 0)) 0

/-- A falling TCK edge at one TAP: updates, and IDCODE in force in Test-Logic-Reset. -/
def tapFall (t : TapCtl) : TapCtl :=
  match t.st with
  | .reset => { t with ir := .idcode }
  | .updIr => { t with ir := tapDecode (BitVec.ofNat 8 (bitsNat t.shift)) }
  | .updDr => if t.ir = .samplePreload ∨ t.ir = .extest then { t with drive := t.shift } else t
  | _ => t

/-- What stands next to TDO in a TAP's shift stage. -/
def tapOut (t : TapCtl) : Bool := t.shift.headD false

/-- TCK_EDGE: every TAP of the chain TDI, die 0, die 1, ..., TDO takes the edge; TDO changes on a falling edge while shifting. -/
def doTckEdge (s : State) (rising tms tdi : Bool) (balls : List Bool) : State :=
  if !sideUp s then s
  else
    let ds := List.range s.part.dies
    if rising then
      ds.foldl (fun t d => setTap t d (tapRise s d (tapAt s d) tms (if d = 0 then tdi else tapOut (tapAt s (d - 1))) balls)) s
    else
      let s := ds.foldl (fun t d => setTap t d (tapFall (tapAt s d))) s
      let last := tapAt s (s.part.dies - 1)
      if last.st = .shDr ∨ last.st = .shIr then emit s (.tdo (tapOut last)) else s

def execTckEdge (rising tms tdi : Bool) (balls : List Bool) (s : State) : Host.Outcome State Fault Refusal :=
  .next (doTckEdge s rising tms tdi balls)

/-- TRST: every TAP goes to Test-Logic-Reset (R475). -/
def doTrst (s : State) : State :=
  (List.range s.part.dies).foldl (fun s d => setTap s d { tapAt s d with st := .reset, ir := .idcode }) s

def execTrst (s : State) : Host.Outcome State Fault Refusal := .next (doTrst s)

end Sys2Proof.Machine
end

