-- ==== Sys2Proof/Machine/Dispatch.lean ====
section
/-! DEFINITION. What each command or event does: one arm per row of the table, each a direct call of its meaning. -/

namespace Sys2Proof.Machine

/-- The effect of one command on everything but the queue. -/
def exec (i : Instr) (s : State) : Host.Outcome State Fault Refusal :=
  match i with
  | .nop h => Sys2Proof.Machine.execNop h s
  | .identify h => Sys2Proof.Machine.execIdentify h s
  | .power h st => Sys2Proof.Machine.execPower h st s
  | .reset h scope force => Sys2Proof.Machine.execReset h scope force s
  | .dialectSelect h slot => Sys2Proof.Machine.execDialectSelect h slot s
  | .dialectInfo h slot => Sys2Proof.Machine.execDialectInfo h slot s
  | .keyProgram h addr rd => Sys2Proof.Machine.execKeyProgram h addr rd s
  | .keyRevoke h addr rd => Sys2Proof.Machine.execKeyRevoke h addr rd s
  | .keyRollback h addr rd => Sys2Proof.Machine.execKeyRollback h addr rd s
  | .pageDefine h id bands rows => Sys2Proof.Machine.execPageDefine h id bands rows s
  | .pageDelete h id => Sys2Proof.Machine.execPageDelete h id s
  | .pageInfo h id => Sys2Proof.Machine.execPageInfo h id s
  | .loadBlocks h addr len flags rd => Sys2Proof.Machine.execLoadBlocks h addr len flags rd s
  | .overlayClose h id first count => Sys2Proof.Machine.execOverlayClose h id first count s
  | .jobOpen h p => Sys2Proof.Machine.execJobOpen h p s
  | .jobStopAtCopy h => Sys2Proof.Machine.execJobStopAtCopy h s
  | .jobStopNow h => Sys2Proof.Machine.execJobStopNow h s
  | .report h => Sys2Proof.Machine.execReport h s
  | .jobStatus h => Sys2Proof.Machine.execJobStatus h s
  | .paramWrite h addr len rd => Sys2Proof.Machine.execParamWrite h addr len rd s
  | .paramRead h addr typ target max => Sys2Proof.Machine.execParamRead h addr typ target max s
  | .nozzleDisable h first count value => Sys2Proof.Machine.execNozzleDisable h first count value s
  | .nozzleRead h addr first count => Sys2Proof.Machine.execNozzleRead h addr first count s
  | .ddrTune h die channel reg value => Sys2Proof.Machine.execDdrTune h die channel reg value s
  | .calRun h item => Sys2Proof.Machine.execCalRun h item s
  | .calRead h => Sys2Proof.Machine.execCalRead h s
  | .sensors h die => Sys2Proof.Machine.execSensors h die s
  | .eventsRead h addr ring fromSeq max => Sys2Proof.Machine.execEventsRead h addr ring fromSeq max s
  | .fenceRead h addr die => Sys2Proof.Machine.execFenceRead h addr die s
  | .fence h kind die index => Sys2Proof.Machine.execFence h kind die index s
  | .unfence h kind die index => Sys2Proof.Machine.execUnfence h kind die index s
  | .flashWrite h addr region offset len rd => Sys2Proof.Machine.execFlashWrite h addr region offset len rd s
  | .flashRead h addr region offset len => Sys2Proof.Machine.execFlashRead h addr region offset len s
  | .imageActivate h region => Sys2Proof.Machine.execImageActivate h region s
  | .march h kind die index mode => Sys2Proof.Machine.execMarch h kind die index mode s
  | .ddrRetrain h die channel => Sys2Proof.Machine.execDdrRetrain h die channel s
  | .cap h group arg => Sys2Proof.Machine.execCap h group arg s
  | .uncap h group arg => Sys2Proof.Machine.execUncap h group arg s
  | .wipe h group arg => Sys2Proof.Machine.execWipe h group arg s
  | .spit h group arg => Sys2Proof.Machine.execSpit h group arg s
  | .purge h group arg => Sys2Proof.Machine.execPurge h group arg s
  | .headLift h group arg => Sys2Proof.Machine.execHeadLift h group arg s
  | .axisHome h axis => Sys2Proof.Machine.execAxisHome h axis s
  | .axisMove h axis profile target => Sys2Proof.Machine.execAxisMove h axis profile target s
  | .axisStopDecelerate h axis => Sys2Proof.Machine.execAxisStopDecelerate h axis s
  | .axisStopHold h axis => Sys2Proof.Machine.execAxisStopHold h axis s
  | .patchCommand h opcode => Sys2Proof.Machine.execPatchCommand h opcode s
  | .damaged src slot => Sys2Proof.Machine.execDamaged src slot s
  | .sqTailDoorbell c v => Sys2Proof.Machine.execSqTailDoorbell c v s
  | .cqHeadDoorbell c v => Sys2Proof.Machine.execCqHeadDoorbell c v s
  | .sqEnable c => Sys2Proof.Machine.execSqEnable c s
  | .sqDisable c => Sys2Proof.Machine.execSqDisable c s
  | .cqEnable c => Sys2Proof.Machine.execCqEnable c s
  | .cqDisable c => Sys2Proof.Machine.execCqDisable c s
  | .sqFetch c => Sys2Proof.Machine.execSqFetch c s
  | .cqCoalesceTimer c => Sys2Proof.Machine.execCqCoalesceTimer c s
  | .mbGo => Sys2Proof.Machine.execMbGo s
  | .mbAck => Sys2Proof.Machine.execMbAck s
  | .smbSubmit entry pec => Sys2Proof.Machine.execSmbSubmit entry pec s
  | .smbAck pec => Sys2Proof.Machine.execSmbAck pec s
  | .smbIdentifyRead => Sys2Proof.Machine.execSmbIdentifyRead s
  | .smbTempRead => Sys2Proof.Machine.execSmbTempRead s
  | .smbResultRead => Sys2Proof.Machine.execSmbResultRead s
  | .smbAlertResponse => Sys2Proof.Machine.execSmbAlertResponse s
  | .uartSubmit frame => Sys2Proof.Machine.execUartSubmit frame s
  | .uartAck frame => Sys2Proof.Machine.execUartAck frame s
  | .uartEventDiscard => Sys2Proof.Machine.execUartEventDiscard s
  | .configRequest req => Sys2Proof.Machine.execConfigRequest req s
  | .perstAssert => Sys2Proof.Machine.execPerstAssert s
  | .perstDeassert => Sys2Proof.Machine.execPerstDeassert s
  | .flr => Sys2Proof.Machine.execFlr s
  | .d3hotEntry => Sys2Proof.Machine.execD3hotEntry s
  | .d0Return => Sys2Proof.Machine.execD0Return s
  | .bar2Access off len wr => Sys2Proof.Machine.execBar2Access off len wr s
  | .bar0RemoteAccess die off wr => Sys2Proof.Machine.execBar0RemoteAccess die off wr s
  | .dieBankApertureAccess die off len wr => Sys2Proof.Machine.execDieBankApertureAccess die off len wr s
  | .pcieLinkDown => Sys2Proof.Machine.execPcieLinkDown s
  | .registerWrite die off v be => Sys2Proof.Machine.execRegisterWrite die off v be s
  | .tbCountLoRead die => Sys2Proof.Machine.execTbCountLoRead die s
  | .clsCdcCtrlClr die k => Sys2Proof.Machine.execClsCdcCtrlClr die k s
  | .celCtrlClr ci => Sys2Proof.Machine.execCelCtrlClr ci s
  | .clsIntCtrlClr die k => Sys2Proof.Machine.execClsIntCtrlClr die k s
  | .lgnRowCtrlClr row => Sys2Proof.Machine.execLgnRowCtrlClr row s
  | .bnkCtrlClr die => Sys2Proof.Machine.execBnkCtrlClr die s
  | .evtQCtrlClr die q => Sys2Proof.Machine.execEvtQCtrlClr die q s
  | .mgtMtCtrlStart die => Sys2Proof.Machine.execMgtMtCtrlStart die s
  | .ddrChCtrlClr die ch => Sys2Proof.Machine.execDdrChCtrlClr die ch s
  | .ddrTrnStart die ch => Sys2Proof.Machine.execDdrTrnStart die ch s
  | .motAxCtrlClr axis => Sys2Proof.Machine.execMotAxCtrlClr axis s
  | .mgtThermClr die => Sys2Proof.Machine.execMgtThermClr die s
  | .tynLnkCtrlClr die link => Sys2Proof.Machine.execTynLnkCtrlClr die link s
  | .tynLnkCtrlRetrain die link => Sys2Proof.Machine.execTynLnkCtrlRetrain die link s
  | .tynLnkCtrlExit die link => Sys2Proof.Machine.execTynLnkCtrlExit die link s
  | .tynEyeStart die => Sys2Proof.Machine.execTynEyeStart die s
  | .eyePointDone die count aborted => Sys2Proof.Machine.execEyePointDone die count aborted s
  | .cmpStart die => Sys2Proof.Machine.execCmpStart die s
  | .cmpAbort die => Sys2Proof.Machine.execCmpAbort die s
  | .cmpJobEnd die poisoned => Sys2Proof.Machine.execCmpJobEnd die poisoned s
  | .cacheCompressStart die => Sys2Proof.Machine.execCacheCompressStart die s
  | .loadResume => Sys2Proof.Machine.execLoadResume s
  | .blockMove die src dst => Sys2Proof.Machine.execBlockMove die src dst s
  | .overlayFetchResume die k => Sys2Proof.Machine.execOverlayFetchResume die k s
  | .bandFetch die k => Sys2Proof.Machine.execBandFetch die k s
  | .rewindGuardReached die k => Sys2Proof.Machine.execRewindGuardReached die k s
  | .decompBlockStart die k dec => Sys2Proof.Machine.execDecompBlockStart die k dec s
  | .decompToken die k dec => Sys2Proof.Machine.execDecompToken die k dec s
  | .decompResume die k dec stalled => Sys2Proof.Machine.execDecompResume die k dec stalled s
  | .decompSegmentEnd die k dec => Sys2Proof.Machine.execDecompSegmentEnd die k dec s
  | .followerDone die k dec => Sys2Proof.Machine.execFollowerDone die k dec s
  | .clauseLineAdmit die k => Sys2Proof.Machine.execClauseLineAdmit die k s
  | .lineDispatch ci => Sys2Proof.Machine.execLineDispatch ci s
  | .windowWrite die k => Sys2Proof.Machine.execWindowWrite die k s
  | .ill ci w => Sys2Proof.Machine.execIll ci w s
  | .cellNop ci w => Sys2Proof.Machine.execCellNop ci w s
  | .br ci w => Sys2Proof.Machine.execBr ci w s
  | .loopi ci w => Sys2Proof.Machine.execLoopi ci w s
  | .loopr ci w => Sys2Proof.Machine.execLoopr ci w s
  | .call ci w => Sys2Proof.Machine.execCall ci w s
  | .jr ci w => Sys2Proof.Machine.execJr ci w s
  | .line ci w => Sys2Proof.Machine.execLine ci w s
  | .frame ci w => Sys2Proof.Machine.execFrame ci w s
  | .seg ci w => Sys2Proof.Machine.execSeg ci w s
  | .getc ci w => Sys2Proof.Machine.execGetc ci w s
  | .bwait ci w => Sys2Proof.Machine.execBwait ci w s
  | .trap ci w => Sys2Proof.Machine.execTrap ci w s
  | .add ci w => Sys2Proof.Machine.execAdd ci w s
  | .sub ci w => Sys2Proof.Machine.execSub ci w s
  | .log ci w => Sys2Proof.Machine.execLog ci w s
  | .shf ci w => Sys2Proof.Machine.execShf ci w s
  | .mul ci w => Sys2Proof.Machine.execMul ci w s
  | .mnx ci w => Sys2Proof.Machine.execMnx ci w s
  | .addi ci w => Sys2Proof.Machine.execAddi ci w s
  | .andi ci w => Sys2Proof.Machine.execAndi ci w s
  | .ori ci w => Sys2Proof.Machine.execOri ci w s
  | .ld ci w => Sys2Proof.Machine.execLd ci w s
  | .st ci w => Sys2Proof.Machine.execSt ci w s
  | .plog ci w => Sys2Proof.Machine.execPlog ci w s
  | .pmov ci w => Sys2Proof.Machine.execPmov ci w s
  | .vadd ci w => Sys2Proof.Machine.execVadd ci w s
  | .vsub ci w => Sys2Proof.Machine.execVsub ci w s
  | .vmul ci w => Sys2Proof.Machine.execVmul ci w s
  | .vlog ci w => Sys2Proof.Machine.execVlog ci w s
  | .vshf ci w => Sys2Proof.Machine.execVshf ci w s
  | .vmnx ci w => Sys2Proof.Machine.execVmnx ci w s
  | .vcmp ci w => Sys2Proof.Machine.execVcmp ci w s
  | .vsel ci w => Sys2Proof.Machine.execVsel ci w s
  | .vbc ci w => Sys2Proof.Machine.execVbc ci w s
  | .vext ci w => Sys2Proof.Machine.execVext ci w s
  | .vins ci w => Sys2Proof.Machine.execVins ci w s
  | .vsld ci w => Sys2Proof.Machine.execVsld ci w s
  | .vld ci w => Sys2Proof.Machine.execVld ci w s
  | .vst ci w => Sys2Proof.Machine.execVst ci w s
  | .vldb ci w => Sys2Proof.Machine.execVldb ci w s
  | .vstb ci w => Sys2Proof.Machine.execVstb ci w s
  | .lutv ci w => Sys2Proof.Machine.execLutv ci w s
  | .unpk ci w => Sys2Proof.Machine.execUnpk ci w s
  | .qth ci w => Sys2Proof.Machine.execQth ci w s
  | .dq ci w => Sys2Proof.Machine.execDq ci w s
  | .hist ci w => Sys2Proof.Machine.execHist ci w s
  | .sprd ci w => Sys2Proof.Machine.execSprd ci w s
  | .packo ci w => Sys2Proof.Machine.execPacko ci w s
  | .send ci w => Sys2Proof.Machine.execSend ci w s
  | .recv ci w => Sys2Proof.Machine.execRecv ci w s
  | .bget ci w => Sys2Proof.Machine.execBget ci w s
  | .bgv ci w => Sys2Proof.Machine.execBgv ci w s
  | .batm ci w => Sys2Proof.Machine.execBatm ci w s
  | .cellStallRelease ci cycles => Sys2Proof.Machine.execCellStallRelease ci cycles s
  | .bankRequestComplete ci more sys => Sys2Proof.Machine.execBankRequestComplete ci more sys s
  | .cellRestart ci => Sys2Proof.Machine.execCellRestart ci s
  | .cellReloadDone ci => Sys2Proof.Machine.execCellReloadDone ci s
  | .watchdog ci stalled => Sys2Proof.Machine.execWatchdog ci stalled s
  | .cellOverrun ci => Sys2Proof.Machine.execCellOverrun ci s
  | .sigCheckDone die k => Sys2Proof.Machine.execSigCheckDone die k s
  | .spareReady die k ok => Sys2Proof.Machine.execSpareReady die k ok s
  | .takeover die k => Sys2Proof.Machine.execTakeover die k s
  | .unfenceTestDone die k pass => Sys2Proof.Machine.execUnfenceTestDone die k pass s
  | .encoderCount e t a b samples => Sys2Proof.Machine.execEncoderCount e t a b samples s
  | .encoderIndex e t samples => Sys2Proof.Machine.execEncoderIndex e t samples s
  | .timeCountAct e => Sys2Proof.Machine.execTimeCountAct e s
  | .lineCommit row t => Sys2Proof.Machine.execLineCommit row t s
  | .rowTick row => Sys2Proof.Machine.execRowTick row s
  | .gatherBlock h upset => Sys2Proof.Machine.execGatherBlock h upset s
  | .gatherEnd h => Sys2Proof.Machine.execGatherEnd h s
  | .fireInstant h line => Sys2Proof.Machine.execFireInstant h line s
  | .syncFrameSend => Sys2Proof.Machine.execSyncFrameSend s
  | .syncFrameReceive edge cells => Sys2Proof.Machine.execSyncFrameReceive edge cells s
  | .syncLost => Sys2Proof.Machine.execSyncLost s
  | .receiverDetect die link found => Sys2Proof.Machine.execReceiverDetect die link found s
  | .trainingWord die lane word rx => Sys2Proof.Machine.execTrainingWord die lane word rx s
  | .bitlockDone die link => Sys2Proof.Machine.execBitlockDone die link s
  | .blocklockDone die link valid => Sys2Proof.Machine.execBlocklockDone die link valid s
  | .linkStateTimeout die link lanes => Sys2Proof.Machine.execLinkStateTimeout die link lanes s
  | .renegAckReceive die link frame => Sys2Proof.Machine.execRenegAckReceive die link frame s
  | .capsReceive die link frame => Sys2Proof.Machine.execCapsReceive die link frame s
  | .configRetry die link => Sys2Proof.Machine.execConfigRetry die link s
  | .configAckReceive die link frame => Sys2Proof.Machine.execConfigAckReceive die link frame s
  | .lineBaseAckReceive die link frame => Sys2Proof.Machine.execLineBaseAckReceive die link frame s
  | .lineBaseTimeout h => Sys2Proof.Machine.execLineBaseTimeout h s
  | .lockLoss die link signs eidle => Sys2Proof.Machine.execLockLoss die link signs eidle s
  | .fastExitDone die link valid => Sys2Proof.Machine.execFastExitDone die link valid s
  | .fastExitTimeout die link => Sys2Proof.Machine.execFastExitTimeout die link s
  | .alignReceive die lane blk skew => Sys2Proof.Machine.execAlignReceive die lane blk skew s
  | .ackReceive die link blk => Sys2Proof.Machine.execAckReceive die link blk s
  | .nakReceive die link blk => Sys2Proof.Machine.execNakReceive die link blk s
  | .replayTimeout h line seg => Sys2Proof.Machine.execReplayTimeout h line seg s
  | .telemetryReceive die link frame => Sys2Proof.Machine.execTelemetryReceive die link frame s
  | .telemetrySilence h => Sys2Proof.Machine.execTelemetrySilence h s
  | .noticeReceive die link frame => Sys2Proof.Machine.execNoticeReceive die link frame s
  | .echoReplyReceive die link blk round => Sys2Proof.Machine.execEchoReplyReceive die link blk round s
  | .echoTimeout h => Sys2Proof.Machine.execEchoTimeout h s
  | .dmaArm die ch load => Sys2Proof.Machine.execDmaArm die ch load s
  | .dmaDoorbell die ch => Sys2Proof.Machine.execDmaDoorbell die ch s
  | .dmaDescWrite die ch v => Sys2Proof.Machine.execDmaDescWrite die ch v s
  | .dmaAbort die ch => Sys2Proof.Machine.execDmaAbort die ch s
  | .dmaCntClr die ch => Sys2Proof.Machine.execDmaCntClr die ch s
  | .dmaIrqStatWrite die v => Sys2Proof.Machine.execDmaIrqStatWrite die v s
  | .dmaDescFetchComplete die ch err => Sys2Proof.Machine.execDmaDescFetchComplete die ch err s
  | .dmaBurstStart die requests => Sys2Proof.Machine.execDmaBurstStart die requests s
  | .dmaBurstComplete die ch err data => Sys2Proof.Machine.execDmaBurstComplete die ch err data s
  | .dmaReadbackReturn die ch err => Sys2Proof.Machine.execDmaReadbackReturn die ch err s
  | .ingressBurst die port poisoned => Sys2Proof.Machine.execIngressBurst die port poisoned s
  | .scrubRead die upsets rewritten => Sys2Proof.Machine.execScrubRead die upsets rewritten s
  | .rowRepairDone die blk stalled => Sys2Proof.Machine.execRowRepairDone die blk stalled s
  | .masterRewrite die blk => Sys2Proof.Machine.execMasterRewrite die blk s
  | .marchDone die defects => Sys2Proof.Machine.execMarchDone die defects s
  | .marchRowRetry die row master => Sys2Proof.Machine.execMarchRowRetry die row master s
  | .queuePush q item => Sys2Proof.Machine.execQueuePush q item s
  | .queuePop q push flips => Sys2Proof.Machine.execQueuePop q push flips s
  | .dramRequest die rs => Sys2Proof.Machine.execDramRequest die rs s
  | .dramBurstIssue die ch ready => Sys2Proof.Machine.execDramBurstIssue die ch ready s
  | .dramReadComplete die ch flip flipRec => Sys2Proof.Machine.execDramReadComplete die ch flip flipRec s
  | .refresh die ch bank expired issued => Sys2Proof.Machine.execRefresh die ch bank expired issued s
  | .mr4Poll die ch dev0 dev1 hot => Sys2Proof.Machine.execMr4Poll die ch dev0 dev1 hot s
  | .driftCheck die ch want => Sys2Proof.Machine.execDriftCheck die ch want s
  | .fastRetrainDone die ch ok => Sys2Proof.Machine.execFastRetrainDone die ch ok s
  | .fullTrainingDone die ch ok settings => Sys2Proof.Machine.execFullTrainingDone die ch ok settings s
  | .ddrScrubRead die ch upsets rewritten => Sys2Proof.Machine.execDdrScrubRead die ch upsets rewritten s
  | .trainHelperDone die ch wrote misread => Sys2Proof.Machine.execTrainHelperDone die ch wrote misread s
  | .fabricPacketReceive die port groups pkt => Sys2Proof.Machine.execFabricPacketReceive die port groups pkt s
  | .portRetrainDone die port ok => Sys2Proof.Machine.execPortRetrainDone die port ok s
  | .heartbeatSend die reads => Sys2Proof.Machine.execHeartbeatSend die reads s
  | .heartbeatTimeout die => Sys2Proof.Machine.execHeartbeatTimeout die s
  | .mgtWatchdogExpiry die => Sys2Proof.Machine.execMgtWatchdogExpiry die s
  | .sensorUpdate die sn v => Sys2Proof.Machine.execSensorUpdate die sn v s
  | .thermalWarnClear die => Sys2Proof.Machine.execThermalWarnClear die s
  | .safetyTrip die rail sensor reading => Sys2Proof.Machine.execSafetyTrip die rail sensor reading s
  | .eventLog die => Sys2Proof.Machine.execEventLog die s
  | .flashSectorTimer => Sys2Proof.Machine.execFlashSectorTimer s
  | .notifyInterval => Sys2Proof.Machine.execNotifyInterval s
  | .timeMark => Sys2Proof.Machine.execTimeMark s
  | .calSlice => Sys2Proof.Machine.execCalSlice s
  | .calSliceDone value payload => Sys2Proof.Machine.execCalSliceDone value payload s
  | .calStoreWrite => Sys2Proof.Machine.execCalStoreWrite s
  | .profileTick axis => Sys2Proof.Machine.execProfileTick axis s
  | .axisEncoderCount axis la lb samples => Sys2Proof.Machine.execAxisEncoderCount axis la lb samples s
  | .switchInput axis sw level stable => Sys2Proof.Machine.execSwitchInput axis sw level stable s
  | .stall axis => Sys2Proof.Machine.execStall axis s
  | .stallRepeat axis => Sys2Proof.Machine.execStallRepeat axis s
  | .holdDelayExpiry axis => Sys2Proof.Machine.execHoldDelayExpiry axis s
  | .purgeDwellExpiry group => Sys2Proof.Machine.execPurgeDwellExpiry group s
  | .spitTick group => Sys2Proof.Machine.execSpitTick group s
  | .restDescent => Sys2Proof.Machine.execRestDescent s
  | .powerTransitionDone => Sys2Proof.Machine.execPowerTransitionDone s
  | .wake => Sys2Proof.Machine.execWake s
  | .pwrenHoldExpiry => Sys2Proof.Machine.execPwrenHoldExpiry s
  | .coldPor => Sys2Proof.Machine.execColdPor s
  | .mainPorRelease dialectPins smbPins => Sys2Proof.Machine.execMainPorRelease dialectPins smbPins s
  | .railUndervoltage => Sys2Proof.Machine.execRailUndervoltage s
  | .startupStageDone r => Sys2Proof.Machine.execStartupStageDone r s
  | .refLoss die => Sys2Proof.Machine.execRefLoss die s
  | .pllLockLoss die pll => Sys2Proof.Machine.execPllLockLoss die pll s
  | .trst => Sys2Proof.Machine.execTrst s
  | .dialectFirstPassDone flashErr => Sys2Proof.Machine.execDialectFirstPassDone flashErr s
  | .dialectLoadDone flashErr => Sys2Proof.Machine.execDialectLoadDone flashErr s
  | .encoderLongGap e t => Sys2Proof.Machine.execEncoderLongGap e t s
  | .powerUpLoadLimit => Sys2Proof.Machine.execPowerUpLoadLimit s
  | .flashEraseProgramDone ok => Sys2Proof.Machine.execFlashEraseProgramDone ok s
  | .fuseProgramDone => Sys2Proof.Machine.execFuseProgramDone s
  | .sqFetchComplete c r => Sys2Proof.Machine.execSqFetchComplete c r s
  | .vaonUndervoltage => Sys2Proof.Machine.execVaonUndervoltage s
  | .sampledTransition axis sw => Sys2Proof.Machine.execSampledTransition axis sw s
  | .tckEdge rising tms tdi balls => Sys2Proof.Machine.execTckEdge rising tms tdi balls s
  | .uartFrameSent => Sys2Proof.Machine.execUartFrameSent s

end Sys2Proof.Machine
end

