-- ==== Sys2Proof/Safety.lean ====
section
/-! DEFINITION. What claims call safe: the form of the byte memories that every step keeps. -/

namespace Sys2Proof.Machine

/-- Every byte memory is in canonical form. -/
def State.memOk (s : State) : Bool := s.banks.wf && s.tcm.wf && s.dram.wf && s.dmem.wf && swf (0xFF : Byte) s.flash

end Sys2Proof.Machine
end

