-- ==== Sys2Proof/WellFormed.lean ====
section
/-! DEFINITION. Which commands and events are well formed: their indices lie within the ranges of R1 and R8's index table for the largest
member, and their blocks have their lengths. -/

namespace Sys2Proof

/-- An index below its bound. -/
def ixOk (n bound : Nat) : Bool := decide (n < bound)

/-- A byte block of its length. -/
def lenOk (bs : List Byte) (n : Nat) : Bool := bs.length == n

/-- A cell: die 0-7, clause 0-65, cell 0-15. -/
def cellOk (ci : CellId) : Bool := ixOk ci.die 8 && ixOk ci.clause 66 && ixOk ci.cell 16

/-- A source: a ring 0-3 or a mailbox. -/
def srcOk : Src → Bool
  | .ring c => ixOk c 4
  | .mailbox => true
  | .smbus => true
  | .uart => true

/-- The owner of an array block: a die, a clause or a cell by number, and a block within the array. -/
def blockOk (b : ArrBlock) : Bool :=
  match b.kind with
  | .bank => ixOk b.owner 8 && ixOk b.blk 1048576
  | .tcm => ixOk b.owner 8 && ixOk b.blk 16384
  | .cellInstr => ixOk b.owner 8448 && ixOk b.blk 512
  | .cellData => ixOk b.owner 8448 && ixOk b.blk 2048
  | .bandRing => ixOk b.owner 528 && ixOk b.blk 8192
  | .outRing => ixOk b.owner 528 && ixOk b.blk 2048

/-- A queue of an existing die, clause, cell or port. -/
def queueOk : QRef → Bool
  | .command src => srcOk src
  | .event die => ixOk die 8
  | .telemetry die => ixOk die 8
  | .trace die => ixOk die 8
  | .cellIn ci => cellOk ci
  | .cellOut ci => cellOk ci
  | .cellPort ci _ => cellOk ci
  | .halo die k _ => ixOk die 8 && ixOk k 66
  | .ingress die port => ixOk die 8 && ixOk port 4

/-- A DRAM request: 1-512 bytes within one 512-byte unit, a write with its bytes (R310). -/
def reqOk (r : DReq) : Bool := decide (1 ≤ r.len ∧ r.addr / 512 = (r.addr + r.len - 1) / 512) && (!r.write || lenOk r.data r.len)

/-- A frame from a head board: SOF and EOF are 8 bytes and its data whole blocks of 8 (R231). -/
def frameOk (f : UpFrame) : Bool := lenOk f.sof 8 && lenOk f.eof 8 && decide (f.data.length % 8 = 0) && f.bad.all (fun b => lenOk b 8)

/-- A packet's groups of up to 4 flits: 1-33 flits in all when none has failed before (R359). -/
def groupsOk (gs : List (List Byte × BitVec 16)) : Bool :=
  gs.all (fun g => decide (16 ≤ g.1.length ∧ g.1.length ≤ 64 ∧ g.1.length % 16 = 0)) && decide (1 ≤ gs.length ∧ gs.length ≤ 9)

/-- An item of a queue: a record's word, a vector, a log entry or a burst of up to 512 bytes behind its address (R145, R300, R335). -/
def itemFits (q : QRef) (item : QItem) : Bool :=
  match q, item with
  | .command _, .bytes b => lenOk b 64
  | .event _, .entry _ => true
  | .telemetry _, .bytes _ => true
  | .trace _, .bytes _ => true
  | .cellIn _, .word _ => true
  | .cellOut _, .word _ => true
  | .cellPort _ _, .vec _ => true
  | .halo _ _ _, .vec _ => true
  | .ingress _ _, .bytes b => decide (8 < b.length ∧ b.length ≤ 520)
  | _, _ => false

/-- A port-1 access of 1-16 bytes, or a halfword (R279, R281). -/
def sysOk : SysAccess → Bool
  | .read m _ n => decide (66 ≤ m ∧ m < 69 ∧ 1 ≤ n ∧ n ≤ 16)
  | .write m _ bs => decide (66 ≤ m ∧ m < 69 ∧ 1 ≤ bs.length ∧ bs.length ≤ 16)
  | .atomic a _ _ => decide (a % 2 = 0)

/-- A request to the endpoint's own space: dwords of the configuration space and of BAR4's 64 KiB (R348, R352, R354). -/
def cfgReqOk : CfgReq → Bool
  | .read reg => ixOk reg 1024
  | .write reg _ _ => ixOk reg 1024
  | .msixControl _ _ => true
  | .tableRead off => ixOk off 65536 && decide (off % 4 = 0)
  | .tableWrite off _ => ixOk off 65536 && decide (off % 4 = 0)

/-- What a start-up stage found names existing dies, clauses and blocks. -/
def stageOk (r : StageResult) : Bool :=
  r.failed.all (fun p => ixOk p.1 8) && r.defects.all (fun b => blockOk b.blk) && r.verifyBad.all (fun p => ixOk p.1 8 && ixOk p.2 2)

/-- JOB_OPEN's page list has 8 entries (R390). -/
def jobParamsOk (p : JobParams) : Bool := p.pages.length == 8

/-- A well-formed command or event. -/
def Instr.wf (i : Instr) : Bool :=
  match i with
  | .nop h => srcOk h.src
  | .identify h => srcOk h.src
  | .power h _ => srcOk h.src
  | .reset h _ _ => srcOk h.src
  | .dialectSelect h _ => srcOk h.src
  | .dialectInfo h _ => srcOk h.src
  | .keyProgram h _ _ => srcOk h.src
  | .keyRevoke h _ _ => srcOk h.src
  | .keyRollback h _ _ => srcOk h.src
  | .pageDefine h _ _ _ => srcOk h.src
  | .pageDelete h _ => srcOk h.src
  | .pageInfo h _ => srcOk h.src
  | .loadBlocks h _ _ _ _ => srcOk h.src
  | .overlayClose h _ _ _ => srcOk h.src
  | .jobOpen h p => srcOk h.src && jobParamsOk p
  | .jobStopAtCopy h => srcOk h.src
  | .jobStopNow h => srcOk h.src
  | .report h => srcOk h.src
  | .jobStatus h => srcOk h.src
  | .paramWrite h _ _ _ => srcOk h.src
  | .paramRead h _ _ _ _ => srcOk h.src
  | .nozzleDisable h _ _ _ => srcOk h.src
  | .nozzleRead h _ _ _ => srcOk h.src
  | .ddrTune h _ _ _ _ => srcOk h.src
  | .calRun h _ => srcOk h.src
  | .calRead h => srcOk h.src
  | .sensors h _ => srcOk h.src
  | .eventsRead h _ _ _ _ => srcOk h.src
  | .fenceRead h _ _ => srcOk h.src
  | .fence h _ _ _ => srcOk h.src
  | .unfence h _ _ _ => srcOk h.src
  | .flashWrite h _ _ _ _ _ => srcOk h.src
  | .flashRead h _ _ _ _ => srcOk h.src
  | .imageActivate h _ => srcOk h.src
  | .march h _ _ _ _ => srcOk h.src
  | .ddrRetrain h _ _ => srcOk h.src
  | .cap h _ _ => srcOk h.src
  | .uncap h _ _ => srcOk h.src
  | .wipe h _ _ => srcOk h.src
  | .spit h _ _ => srcOk h.src
  | .purge h _ _ => srcOk h.src
  | .headLift h _ _ => srcOk h.src
  | .axisHome h _ => srcOk h.src
  | .axisMove h _ _ _ => srcOk h.src
  | .axisStopDecelerate h _ => srcOk h.src
  | .axisStopHold h _ => srcOk h.src
  | .patchCommand h _ => srcOk h.src
  | .damaged src _ => srcOk src
  | .sqTailDoorbell c _ => ixOk c 4
  | .cqHeadDoorbell c _ => ixOk c 4
  | .sqEnable c => ixOk c 4
  | .sqDisable c => ixOk c 4
  | .cqEnable c => ixOk c 4
  | .cqDisable c => ixOk c 4
  | .sqFetch c => ixOk c 4
  | .cqCoalesceTimer c => ixOk c 4
  | .mbGo => true
  | .mbAck => true
  | .smbSubmit entry _ => lenOk entry 64
  | .smbAck _ => true
  | .smbIdentifyRead => true
  | .smbTempRead => true
  | .smbResultRead => true
  | .smbAlertResponse => true
  | .uartSubmit _ => true
  | .uartAck _ => true
  | .uartEventDiscard => true
  | .configRequest req => cfgReqOk req
  | .perstAssert => true
  | .perstDeassert => true
  | .flr => true
  | .d3hotEntry => true
  | .d0Return => true
  | .bar2Access off _ _ => ixOk off (2 ^ 32)
  | .bar0RemoteAccess die off _ => ixOk die 8 && ixOk off (2 ^ 23)
  | .dieBankApertureAccess die off _ _ => ixOk die 8 && ixOk off (2 ^ 22)
  | .pcieLinkDown => true
  | .registerWrite die off _ _ => ixOk die 8 && ixOk off (2 ^ 23)
  | .tbCountLoRead die => ixOk die 8
  | .clsCdcCtrlClr die k => ixOk die 8 && ixOk k 66
  | .celCtrlClr ci => cellOk ci
  | .clsIntCtrlClr die k => ixOk die 8 && ixOk k 66
  | .lgnRowCtrlClr row => ixOk row 64
  | .bnkCtrlClr die => ixOk die 8
  | .evtQCtrlClr die q => ixOk die 8 && ixOk q 3
  | .mgtMtCtrlStart die => ixOk die 8
  | .ddrChCtrlClr die ch => ixOk die 8 && ixOk ch 2
  | .ddrTrnStart die ch => ixOk die 8 && ixOk ch 2
  | .motAxCtrlClr axis => ixOk axis 16
  | .mgtThermClr die => ixOk die 8
  | .tynLnkCtrlClr die link => ixOk die 8 && ixOk link 8
  | .tynLnkCtrlRetrain die link => ixOk die 8 && ixOk link 8
  | .tynLnkCtrlExit die link => ixOk die 8 && ixOk link 8
  | .tynEyeStart die => ixOk die 8
  | .eyePointDone die _ _ => ixOk die 8
  | .cmpStart die => ixOk die 8
  | .cmpAbort die => ixOk die 8
  | .cmpJobEnd die _ => ixOk die 8
  | .cacheCompressStart die => ixOk die 8
  | .loadResume => true
  | .blockMove die _ _ => ixOk die 8
  | .overlayFetchResume die k => ixOk die 8 && ixOk k 66
  | .bandFetch die k => ixOk die 8 && ixOk k 66
  | .rewindGuardReached die k => ixOk die 8 && ixOk k 66
  | .decompBlockStart die k dec => ixOk die 8 && ixOk k 66 && ixOk dec 2
  | .decompToken die k dec => ixOk die 8 && ixOk k 66 && ixOk dec 2
  | .decompResume die k dec _ => ixOk die 8 && ixOk k 66 && ixOk dec 2
  | .decompSegmentEnd die k dec => ixOk die 8 && ixOk k 66 && ixOk dec 2
  | .followerDone die k dec => ixOk die 8 && ixOk k 66 && ixOk dec 2
  | .clauseLineAdmit die k => ixOk die 8 && ixOk k 66
  | .lineDispatch ci => cellOk ci
  | .windowWrite die k => ixOk die 8 && ixOk k 66
  | .ill ci _ => cellOk ci
  | .cellNop ci _ => cellOk ci
  | .br ci _ => cellOk ci
  | .loopi ci _ => cellOk ci
  | .loopr ci _ => cellOk ci
  | .call ci _ => cellOk ci
  | .jr ci _ => cellOk ci
  | .line ci _ => cellOk ci
  | .frame ci _ => cellOk ci
  | .seg ci _ => cellOk ci
  | .getc ci _ => cellOk ci
  | .bwait ci _ => cellOk ci
  | .trap ci _ => cellOk ci
  | .add ci _ => cellOk ci
  | .sub ci _ => cellOk ci
  | .log ci _ => cellOk ci
  | .shf ci _ => cellOk ci
  | .mul ci _ => cellOk ci
  | .mnx ci _ => cellOk ci
  | .addi ci _ => cellOk ci
  | .andi ci _ => cellOk ci
  | .ori ci _ => cellOk ci
  | .ld ci _ => cellOk ci
  | .st ci _ => cellOk ci
  | .plog ci _ => cellOk ci
  | .pmov ci _ => cellOk ci
  | .vadd ci _ => cellOk ci
  | .vsub ci _ => cellOk ci
  | .vmul ci _ => cellOk ci
  | .vlog ci _ => cellOk ci
  | .vshf ci _ => cellOk ci
  | .vmnx ci _ => cellOk ci
  | .vcmp ci _ => cellOk ci
  | .vsel ci _ => cellOk ci
  | .vbc ci _ => cellOk ci
  | .vext ci _ => cellOk ci
  | .vins ci _ => cellOk ci
  | .vsld ci _ => cellOk ci
  | .vld ci _ => cellOk ci
  | .vst ci _ => cellOk ci
  | .vldb ci _ => cellOk ci
  | .vstb ci _ => cellOk ci
  | .lutv ci _ => cellOk ci
  | .unpk ci _ => cellOk ci
  | .qth ci _ => cellOk ci
  | .dq ci _ => cellOk ci
  | .hist ci _ => cellOk ci
  | .sprd ci _ => cellOk ci
  | .packo ci _ => cellOk ci
  | .send ci _ => cellOk ci
  | .recv ci _ => cellOk ci
  | .bget ci _ => cellOk ci
  | .bgv ci _ => cellOk ci
  | .batm ci _ => cellOk ci
  | .cellStallRelease ci _ => cellOk ci
  | .bankRequestComplete ci more sys => cellOk ci && more.all cellOk && sys.all sysOk
  | .cellRestart ci => cellOk ci
  | .cellReloadDone ci => cellOk ci
  | .watchdog ci _ => cellOk ci
  | .cellOverrun ci => cellOk ci
  | .sigCheckDone die k => ixOk die 8 && ixOk k 66
  | .spareReady die k _ => ixOk die 8 && ixOk k 66
  | .takeover die k => ixOk die 8 && ixOk k 66
  | .unfenceTestDone die k _ => ixOk die 8 && ixOk k 66
  | .encoderCount e _ _ _ _ => ixOk e 4
  | .encoderIndex e _ _ => ixOk e 4
  | .timeCountAct e => ixOk e 4
  | .lineCommit row _ => ixOk row 64
  | .rowTick row => ixOk row 64
  | .gatherBlock h _ => ixOk h 256
  | .gatherEnd h => ixOk h 256
  | .fireInstant h _ => ixOk h 256
  | .syncFrameSend => true
  | .syncFrameReceive _ _ => true
  | .syncLost => true
  | .receiverDetect die link _ => ixOk die 8 && ixOk link 8
  | .trainingWord die lane _ _ => ixOk die 8 && ixOk lane 8
  | .bitlockDone die link => ixOk die 8 && ixOk link 8
  | .blocklockDone die link _ => ixOk die 8 && ixOk link 8
  | .linkStateTimeout die link _ => ixOk die 8 && ixOk link 8
  | .renegAckReceive die link f => ixOk die 8 && ixOk link 8 && frameOk f
  | .capsReceive die link f => ixOk die 8 && ixOk link 8 && frameOk f
  | .configRetry die link => ixOk die 8 && ixOk link 8
  | .configAckReceive die link f => ixOk die 8 && ixOk link 8 && frameOk f
  | .lineBaseAckReceive die link f => ixOk die 8 && ixOk link 8 && frameOk f
  | .lineBaseTimeout h => ixOk h 256
  | .lockLoss die link signs _ => ixOk die 8 && ixOk link 8 && signs.all (fun x => ixOk x.lane 8)
  | .fastExitDone die link _ => ixOk die 8 && ixOk link 8
  | .fastExitTimeout die link => ixOk die 8 && ixOk link 8
  | .alignReceive die lane blk _ => ixOk die 8 && ixOk lane 8 && lenOk blk 8
  | .ackReceive die link blk => ixOk die 8 && ixOk link 8 && lenOk blk 8
  | .nakReceive die link blk => ixOk die 8 && ixOk link 8 && lenOk blk 8
  | .replayTimeout h _ _ => ixOk h 256
  | .telemetryReceive die link f => ixOk die 8 && ixOk link 8 && frameOk f
  | .telemetrySilence h => ixOk h 256
  | .noticeReceive die link f => ixOk die 8 && ixOk link 8 && frameOk f
  | .echoReplyReceive die link blk _ => ixOk die 8 && ixOk link 8 && lenOk blk 8
  | .echoTimeout h => ixOk h 256
  | .dmaArm die ch _ => ixOk die 8 && ixOk ch 32
  | .dmaDoorbell die ch => ixOk die 8 && ixOk ch 32
  | .dmaDescWrite die ch _ => ixOk die 8 && ixOk ch 32
  | .dmaAbort die ch => ixOk die 8 && ixOk ch 32
  | .dmaCntClr die ch => ixOk die 8 && ixOk ch 32
  | .dmaIrqStatWrite die _ => ixOk die 8
  | .dmaDescFetchComplete die ch _ => ixOk die 8 && ixOk ch 32
  | .dmaBurstStart die _ => ixOk die 8
  | .dmaBurstComplete die ch _ _ => ixOk die 8 && ixOk ch 32
  | .dmaReadbackReturn die ch _ => ixOk die 8 && ixOk ch 32
  | .ingressBurst die port _ => ixOk die 8 && ixOk port 4
  | .scrubRead die ups _ => ixOk die 8 && ups.all (fun u => blockOk u.1)
  | .rowRepairDone die blk stalled => ixOk die 8 && blockOk blk && stalled.all (fun m => ixOk m 69)
  | .masterRewrite die blk => ixOk die 8 && blockOk blk
  | .marchDone die defects => ixOk die 8 && defects.all (fun b => blockOk b.blk)
  | .marchRowRetry die row master => ixOk die 8 && blockOk row && ixOk master 69
  | .queuePush q item => queueOk q && itemFits q item
  | .queuePop q push _ => queueOk q && push.all (itemFits q)
  | .dramRequest die rs => ixOk die 8 && rs.all reqOk
  | .dramBurstIssue die ch _ => ixOk die 8 && ixOk ch 2
  | .dramReadComplete die ch _ _ => ixOk die 8 && ixOk ch 2
  | .refresh die ch bank _ _ => ixOk die 8 && ixOk ch 2 && ixOk bank 16
  | .mr4Poll die ch _ _ _ => ixOk die 8 && ixOk ch 2
  | .driftCheck die ch _ => ixOk die 8 && ixOk ch 2
  | .fastRetrainDone die ch _ => ixOk die 8 && ixOk ch 2
  | .fullTrainingDone die ch _ _ => ixOk die 8 && ixOk ch 2
  | .ddrScrubRead die ch ups _ => ixOk die 8 && ixOk ch 2 && ups.all (fun u => decide (u.off % 64 = 0))
  | .trainHelperDone die ch wrote misread =>
    ixOk die 8 && ixOk ch 2 && wrote.all (fun e => ixOk e.row 16 && ixOk e.beat 1024) && misread.all (fun e => ixOk e.row 16 && ixOk e.beat 1024)
  | .fabricPacketReceive die port groups _ => ixOk die 8 && ixOk port 4 && groupsOk groups
  | .portRetrainDone die port _ => ixOk die 8 && ixOk port 4
  | .heartbeatSend die reads => ixOk die 8 && reads.all (fun n => ixOk n 16384)
  | .heartbeatTimeout die => ixOk die 8
  | .mgtWatchdogExpiry die => ixOk die 8
  | .sensorUpdate die sn _ => ixOk die 8 && ixOk sn 16
  | .thermalWarnClear die => ixOk die 8
  | .safetyTrip die _ sensor _ => ixOk die 8 && ixOk sensor 16
  | .eventLog die => ixOk die 8
  | .flashSectorTimer => true
  | .notifyInterval => true
  | .timeMark => true
  | .calSlice => true
  | .calSliceDone _ payload => decide (payload.length ≤ 256)
  | .calStoreWrite => true
  | .profileTick axis => ixOk axis 16
  | .axisEncoderCount axis _ _ _ => ixOk axis 16
  | .switchInput axis _ _ _ => ixOk axis 16
  | .stall axis => ixOk axis 16
  | .stallRepeat axis => ixOk axis 16
  | .holdDelayExpiry axis => ixOk axis 16
  | .purgeDwellExpiry group => ixOk group 16
  | .spitTick group => ixOk group 16
  | .restDescent => true
  | .powerTransitionDone => true
  | .wake => true
  | .pwrenHoldExpiry => true
  | .coldPor => true
  | .mainPorRelease _ _ => true
  | .railUndervoltage => true
  | .startupStageDone r => stageOk r
  | .refLoss die => ixOk die 8
  | .pllLockLoss die pll => ixOk die 8 && ixOk pll 5
  | .trst => true
  | .dialectFirstPassDone _ => true
  | .dialectLoadDone _ => true
  | .encoderLongGap e _ => ixOk e 4
  | .powerUpLoadLimit => true
  | .flashEraseProgramDone _ => true
  | .fuseProgramDone => true
  | .sqFetchComplete c _ => ixOk c 4
  | .vaonUndervoltage => true
  | .sampledTransition axis _ => ixOk axis 16
  | .tckEdge _ _ _ _ => true
  | .uartFrameSent => true

end Sys2Proof
end

