-- ==== Sys2Proof/Certificates/Slice0/Obligations.lean ====
section
/-! DEFINITION. The statements for the provers, and the words they are written in. -/

open Sys2Proof Sys2Proof.Machine

namespace Sys2Proof.Claims

/-- What a command does is a next state `t` with `P t`: it completes, neither faulting nor refused. -/
abbrev Runs (c : Instr) (s : State) (P : State → Prop) : Prop := ∃ t, exec c s = .next t ∧ P t

/-! ### The command matrix (R381) and the checks of R376 -/

/-- A command entry as the checks see it: its header, its row of the command matrix, and whether its fields and the indices R3 names are
in range. -/
structure CmdRow where
  h : CmdHdr
  m : CmdSpec
  fieldOk : Bool := true
  indexOk : Bool := true
deriving DecidableEq, Repr

/-- The six services share one row; `argOk` is the range of ARG. -/
def serviceRow (h : CmdHdr) (group : BitVec 16) (argOk : Bool) : CmdRow :=
  ⟨h, { opcode := 0x0801, ring0 := false, long := true }, decide (group.toNat < 16) && argOk, true⟩

/-- KEY_OP's row. -/
def keyRow (h : CmdHdr) (addr : BitVec 64) : CmdRow :=
  ⟨h, { opcode := 0x0103, ring0 := false, long := true, noDialect := true, job := .no }, addr.toNat % 64 == 0, true⟩

/-- FLASH_WRITE's and FLASH_READ's fields: REGION 0-5, OFFSET a multiple of 4,096, LENGTH 1 to 8,388,608, inside the region. -/
def flashFields (region : BitVec 8) (offset len : BitVec 32) : Bool :=
  decide (region.toNat ≤ 5) && offset.toNat % 4096 == 0 && decide (1 ≤ len.toNat ∧ len.toNat ≤ 8388608) &&
    decide (offset.toNat + len.toNat ≤ regionLen region.toNat)

/-- The row of the command matrix for each command, with the checks of its parameters; RESET's rings are checked by R381 with those of
the table, its class check is in `checks`. -/
def matrixRow (s : State) : Instr → Option CmdRow
  | .nop h => some ⟨h, { opcode := 0x0001, noDialect := true, switch := true }, true, true⟩
  | .identify h => some ⟨h, { opcode := 0x0002, noDialect := true, switch := true }, true, true⟩
  | .power h st => some ⟨h, { opcode := 0x0003, noDialect := true }, decide (st.toNat ≤ 3), true⟩
  | .reset h scope force =>
    some ⟨h, { opcode := 0x0004, noDialect := true, switch := true }, scope == 0 && decide (force.toNat ≤ 1), true⟩
  | .dialectSelect h slot =>
    some ⟨h, { opcode := 0x0101, ring0 := false, long := true, noDialect := true, job := .no }, decide (slot.toNat < 4), true⟩
  | .dialectInfo h slot => some ⟨h, { opcode := 0x0102, noDialect := true, switch := true }, decide (slot.toNat < 4), true⟩
  | .keyProgram h addr _ => some (keyRow h addr)
  | .keyRevoke h addr _ => some (keyRow h addr)
  | .keyRollback h addr _ => some (keyRow h addr)
  | .pageDefine h _ bands rows =>
    some ⟨h, { opcode := 0x0201 }, decide (1 ≤ bands.toNat) && decide (bands.toNat ≤ 8192) && rows != 0, true⟩
  | .pageDelete h _ => some ⟨h, { opcode := 0x0202 }, true, true⟩
  | .pageInfo h _ => some ⟨h, { opcode := 0x0203 }, true, true⟩
  | .loadBlocks h addr len flags _ => some ⟨h, { opcode := 0x0204, ring0 := false, long := true },
      addr.toNat % 64 == 0 && len.toNat % 64 == 0 && decide (flags.toNat < 4), true⟩
  | .overlayClose h _ first count => some ⟨h, { opcode := 0x0205 },
      first != 0 && count != 0 && decide (first.toNat + count.toNat ≤ 0xFFFFFFFF), true⟩
  | .jobOpen h p => some ⟨h, { opcode := 0x0206, ring0 := false, job := .no }, jobFieldsOk p, true⟩
  | .jobStopAtCopy h => some ⟨h, { opcode := 0x0207, job := .required }, true, true⟩
  | .jobStopNow h => some ⟨h, { opcode := 0x0207, job := .required }, true, true⟩
  | .report h => some ⟨h, { opcode := 0x0208, ring0 := false, long := true }, true, true⟩
  | .jobStatus h => some ⟨h, { opcode := 0x0209 }, true, true⟩
  | .paramWrite h addr len _ => some ⟨h, { opcode := 0x0301, ring0 := false, long := true },
      addr.toNat % 4 == 0 && decide (16 ≤ len.toNat ∧ len.toNat ≤ 6287360), true⟩
  | .paramRead h _ typ target _ =>
    some ⟨h, { opcode := 0x0302, ring0 := false, long := true }, true, targetOk s typ.toNat target.toNat⟩
  | .nozzleDisable h first count value => some ⟨h, { opcode := 0x0303 },
      decide (1 ≤ count.toNat ∧ count.toNat ≤ 65536) && decide (value.toNat ≤ 1),
      nozzleOk s first.toNat && nozzleOk s (first.toNat + count.toNat - 1)⟩
  | .nozzleRead h _ first count => some ⟨h, { opcode := 0x0304, ring0 := false, long := true },
      count.toNat % 8 == 0 && decide (count.toNat ≤ 1048576),
      nozzleOk s first.toNat && (count.toNat == 0 || nozzleOk s (first.toNat + count.toNat - 1))⟩
  | .ddrTune h die channel reg value => some ⟨h, { opcode := 0x0305, ring0 := false },
      (decide (channel.toNat ≤ 1) || channel == 0xFF) && decide (reg.toNat ≤ 2) && (ddrSet? reg.toNat value).isSome, dieOk s die.toNat⟩
  | .calRun h item => some ⟨h, { opcode := 0x0401, ring0 := false, long := true }, decide (item.toNat ≤ 4), true⟩
  | .calRead h => some ⟨h, { opcode := 0x0402, noDialect := true, switch := true }, true, true⟩
  | .sensors h die => some ⟨h, { opcode := 0x0501, noDialect := true, switch := true }, true, dieOk s die.toNat⟩
  | .eventsRead h addr ring _ _ => some ⟨h, { opcode := 0x0502, ring0 := false, long := true, noDialect := true, switch := true },
      addr.toNat % 64 == 0 && decide (ring.toNat ≤ 1), true⟩
  | .fenceRead h addr die => some ⟨h, { opcode := 0x0503, ring0 := false, long := true, noDialect := true, switch := true },
      addr.toNat % 64 == 0, die == 0xFF || dieOk s die.toNat⟩
  | .fence h kind die index => some ⟨h, { opcode := 0x0504 }, unitFieldOk kind.toNat index.toNat,
      unitIndexOk s kind.toNat die.toNat index.toNat⟩
  | .unfence h kind die index => some ⟨h, { opcode := 0x0505, ring0 := false, long := true, noDialect := true },
      unitFieldOk kind.toNat index.toNat, unitIndexOk s kind.toNat die.toNat index.toNat⟩
  | .flashWrite h _ region offset len _ =>
    some ⟨h, { opcode := 0x0601, ring0 := false, long := true, noDialect := true }, flashFields region offset len, true⟩
  | .flashRead h _ region offset len =>
    some ⟨h, { opcode := 0x0602, ring0 := false, long := true, noDialect := true, switch := true }, flashFields region offset len, true⟩
  | .imageActivate h region =>
    some ⟨h, { opcode := 0x0603, ring0 := false, long := true, noDialect := true, job := .no }, region == 4 || region == 5, true⟩
  | .march h kind die index mode => some ⟨h, { opcode := 0x0701, ring0 := false, long := true, noDialect := true },
      decide (mode.toNat ≤ 1) && (match kind.toNat with
        | 0 => decide (index.toNat < 32) | 1 => decide (index.toNat < 66) | 2 => index.toNat == 0 | _ => false), dieOk s die.toNat⟩
  | .ddrRetrain h die channel => some ⟨h, { opcode := 0x0702, ring0 := false, long := true }, decide (channel.toNat ≤ 1), dieOk s die.toNat⟩
  | .cap h group _ => some (serviceRow h group true)
  | .uncap h group _ => some (serviceRow h group true)
  | .wipe h group arg => some (serviceRow h group (decide (argOr1 arg ≤ 16)))
  | .spit h group arg => some (serviceRow h group (decide (argOr1 arg ≤ 65535)))
  | .purge h group arg => some (serviceRow h group (decide (argOr1 arg ≤ 16)))
  | .headLift h group arg => some (serviceRow h group (decide (arg.toNat ≤ 1)))
  | .axisHome h axis => some ⟨h, { opcode := 0x0802, ring0 := false, long := true }, true, axisOk s axis.toNat⟩
  | .axisMove h axis _ _ => some ⟨h, { opcode := 0x0803, ring0 := false, long := true }, true, axisOk s axis.toNat⟩
  | .axisStopDecelerate h axis => some ⟨h, { opcode := 0x0804 }, true, axis == 0xFF || axisOk s axis.toNat⟩
  | .axisStopHold h axis => some ⟨h, { opcode := 0x0804 }, true, axis == 0xFF || axisOk s axis.toNat⟩
  | _ => none

/-- The rings of R381: RESET on ring 0 only, REPORT in no mailbox (R380), and ring 0 where the table gives 0-3. -/
def classOk (r : CmdRow) : Bool :=
  match r.h.src with
  | .ring c => if r.m.opcode = 0x0004 then c == 0 else c != 0 || r.m.ring0
  | _ => r.m.opcode != 0x0208

/-- The checks of R376 that every command shares, after DAMAGED and BAD_OPCODE, each with the status it completes when it fails: CLASS,
BAD_FIELD, BAD_INDEX, DIE_FAULT, NO_DIALECT, SWITCHING, JOB_ACTIVE or NO_JOB. -/
def checks (s : State) (r : CmdRow) : List (Bool × Nat) :=
  [(!classOk r, 0x0003), (r.h.reserved != 0 || !r.fieldOk, 0x0004), (!r.indexOk, 0x0005),
   ((s.die0Fault || s.startFailed) && (r.m.opcode == 0x0101 || !r.m.noDialect), 0x001A),
   (!r.m.noDialect && !s.dia.valid && s.load.isNone, 0x0006), (!r.m.switch && s.load.isSome, 0x0007),
   (r.m.job == .no && jobOpen s, 0x0008), (r.m.job == .required && !jobOpen s, 0x0009)]

/-- The status of the first check that fails. -/
def firstFailing (s : State) (r : CmdRow) : Option Nat := ((checks s r).find? (fun c => c.1)).map (fun c => c.2)

/-- The command passes: the firmware runs it, no shared check fails, and a Long command finds fewer than 64 parked (R377). -/
def Accepted (s : State) (c : Instr) : Bool :=
  match matrixRow s c with
  | some r => fwRuns s && (firstFailing s r).isNone && (!r.m.long || decide (s.parked.length < 64))
  | none => false

/-- The result OK of a command with opcode `op`: its entry leaves those popped and its completion is posted with STATUS 0 (R374, R375). -/
def done (s : State) (h : CmdHdr) (op : Nat) (result : List Byte) : State := complete s h op 0 result

end Sys2Proof.Claims

open Sys2Proof.Claims

/-! ### The block and its queue -/

/-- Every step takes the command at the front of the queue and is that command's effect, with the rest of the queue waiting. -/
def Obligations.StepRunsFrontCommand : Prop :=
  ∀ (c : Instr) (q : List Instr) (s : State), s.pending = c :: q → step s = exec c { s with pending := q }

/-- On an empty queue one tick of the timebase passes, the model's choice (assumption 27): where nothing waits on a link, nothing else changes; what
waits on the links goes out in the slots that have passed, and only the links, their lanes and what the part drives change. -/
def Obligations.EmptyQueueIdlesOneTick : Prop :=
  (∀ s : State, s.pending = [] →
    (∀ p, p ∈ allLinks s → (linkAt s (linkIx p.1 p.2)).frames = [] ∧ (linkAt s (linkIx p.1 p.2)).singles = []) →
    step s = .next { s with tb := s.tb + 1 }) ∧
  (∀ s : State, s.pending = [] → ∃ t, step s = .next t ∧ t = { s with tb := s.tb + 1, links := t.links, lanes := t.lanes, out := t.out }) ∧
  (∀ (s : State) d l, s.pending = [] → allLinks s = [(d, l)] → (linkAt s (linkIx d l)).singles ≠ [] →
    step s = .next (pump { s with tb := s.tb + 1 } d l))

/-! ### The shared checks of commands -/

/-- R376: every command row completes with the status of the first of the shared checks that fails, in that rule's order, and with no
effect beyond its completion. -/
def Sys2Proof.Claims.CommandChecksInOrder : Prop :=
  ∀ (c : Instr) (s : State) (r : CmdRow) (st : Nat), matrixRow s c = some r → fwRuns s = true → firstFailing s r = some st →
    exec c s = .next (complete (takePopped s r.h) r.h r.m.opcode st [])

/-- R377: a Long command popped while 64 are parked completes BUSY. -/
def Sys2Proof.Claims.LongCommandBusyAt64Parked : Prop :=
  ∀ (c : Instr) (s : State) (r : CmdRow), matrixRow s c = some r → fwRuns s = true → firstFailing s r = none → r.m.long = true →
    64 ≤ s.parked.length → exec c s = .next (complete (takePopped s r.h) r.h r.m.opcode 0x000A [])

/-- R366, R374: a result for an open, linked completion ring becomes its next entry: OPCODE, STATUS, TAG, RESULT padded with zeros, the
submission head, and the phase, in two posted writes, byte 31 second; the tail moves on and the phase turns at the ring's end. Nothing else of the
ring changes but its counts, and no state but the outputs, the rings and the pending bits of masked vectors. -/
def Sys2Proof.Claims.CompletionEntryPosted : Prop :=
  ∀ (s : State) (c tag : Nat) (op st : Nat) (tagW res0 : BitVec 32) (result : List Byte),
    (cqAt s c).enable = true → (cqAt s c).stopped = false → s.pcie.d3hot = false → s.pcie.linkUp = true → tag = tagW.toNat →
    result.length ≤ 20 →
    let q := cqAt s c
    let t := complete s ⟨.ring c, tagW, res0⟩ op st result
    let last := decide (ringSize q.log2 ≤ q.tail.toNat + 1)
    (∃ sent : List Out, (∀ o, o ∈ sent → o = .msix c) ∧ t.out = sent ++ [.completionPhase c q.tail.toNat (if q.phase then 0x80 else 0),
      .completion c q.tail.toNat (natLE 2 op ++ natLE 2 st ++ natLE 4 tag ++ (result ++ List.replicate (20 - result.length) 0) ++
        natLE 2 (sqAt s c).head.toNat ++ [0])] ++ s.out) ∧
      (cqAt t c).tail = (if last then 0 else q.tail + 1) ∧ (cqAt t c).phase = (q.phase != last) ∧
      (sqAt t c).outstanding = (sqAt s c).outstanding - 1 ∧ (sqAt t c).head = (sqAt s c).head ∧
      t = { s with out := t.out, sqs := t.sqs, cqs := t.cqs, pcie := { s.pcie with pba := t.pcie.pba } }

/-- R370, R354: a mailbox command's result makes the mailbox DONE with the STATUS and the 32-byte entry with P set, and sends vector 5, or, where that is
masked, sets its pending bit. -/
def Sys2Proof.Claims.MailboxResultDone : Prop :=
  ∀ (s : State) (op st : Nat) (tag res0 : BitVec 32) (result : List Byte), s.pcie.d3hot = false → s.pcie.linkUp = true → s.pcie.msixOn = true →
    let t := complete s ⟨.mailbox, tag, res0⟩ op st result
    let entry := natLE 2 op ++ natLE 2 st ++ natLE 4 tag.toNat ++ (result ++ List.replicate 20 0).take 20 ++ [0, 0, 0, 0x80]
    t = { s with out := if vecOpen s 5 then .msix 5 :: s.out else s.out,
                 pcie := if vecOpen s 5 ∨ s.pcie.pba.contains 5 = true then s.pcie else { s.pcie with pba := 5 :: s.pcie.pba }, mbox := { s.mbox with state := 2, status := BitVec.ofNat 16 st, data := entry } }

/-! ### System, Dialect and key commands (R383-R386) -/

/-- R383, R384: NOP, IDENTIFY, POWER and RESET. POWER records READY, IDLE or SLEEP as the resting state; DORMANT is taken at rest only,
BUSY otherwise. RESET's result is posted before the warm reset, and while a job is open RESET without FORCE completes JOB_ACTIVE. -/
def Sys2Proof.Claims.SystemCommandsComplete : Prop :=
  (∀ s h, Accepted s (.nop h) → exec (.nop h) s = .next (done (takePopped s h) h 0x0001 [])) ∧
  (∀ s h, Accepted s (.identify h) → exec (.identify h) s = .next (done (takePopped s h) h 0x0002
    (natLE 1 s.part.dies ++ [s.part.stepping, s.part.romRelease, s.part.grade] ++ natLE 2 s.boot.level.toNat ++
      natLE 2 (256 * s.dia.pinSlot.toNat + (if s.dia.valid then 16 else 0) + s.dia.active.toNat) ++ natLE 8 s.part.serial.toNat ++
      [if s.cal.uncal then 1 else 0]))) ∧
  (∀ s h (st : BitVec 8), Accepted s (.power h st) → 1 ≤ st.toNat → st.toNat ≤ 2 → exec (.power h st) s =
    .next (done { takePopped s h with power := { s.power with rest := BitVec.ofNat 2 st.toNat } } h 0x0003 [])) ∧
  (∀ s h, Accepted s (.power h 0) → (jobOpen s = true ∨ s.parked ≠ []) → exec (.power h 0) s =
    .next (done { takePopped s h with power := { s.power with rest := 0 } } h 0x0003 [])) ∧
  (∀ s h, Accepted s (.power h 0) → jobOpen s = false → s.parked = [] → exec (.power h 0) s =
    .next (done (riseReady { takePopped s h with power := { s.power with rest := 0 } }) h 0x0003 [])) ∧
  (∀ s h, Accepted s (.power h 3) → jobOpen s = false → s.parked = [] →
    Runs (.power h 3) s (fun t => t = { done (takePopped s h) h 0x0003 [] with power := t.power } ∧ t.power.goDormant = true)) ∧
  (∀ s h, Accepted s (.power h 3) → (jobOpen s = true ∨ s.parked ≠ []) →
    exec (.power h 3) s = .next (complete (takePopped s h) h 0x0003 0x000A [])) ∧
  (∀ s h force, Accepted s (.reset h 0 force) → (jobOpen s = false ∨ force = 1) →
    exec (.reset h 0 force) s = .next (warmReset (done (takePopped s h) h 0x0004 []) 5)) ∧
  (∀ s h, Accepted s (.reset h 0 0) → jobOpen s = true →
    exec (.reset h 0 0) s = .next (complete (takePopped s h) h 0x0004 0x0008 []))

/-- R385, R61: DIALECT_SELECT is BUSY while a service runs, an axis moves or a LOAD_BLOCKS or FLASH_WRITE is parked; otherwise the load of the
slot begins and the command waits for its end. DIALECT_INFO gives, when both headers are right, their fields; when the slot is erased, zeros. -/
def Sys2Proof.Claims.DialectCommandsComplete : Prop :=
  (∀ s h (slot : BitVec 8), Accepted s (.dialectSelect h slot) →
    (s.svc.any (fun p => p.2.st == .running) || s.axes.any (fun p => p.2.moving) || s.parked.any Parked.holdsSwitch) = true →
    exec (.dialectSelect h slot) s = .next (complete (takePopped s h) h 0x0101 0x000A [])) ∧
  (∀ s h (slot : BitVec 8), Accepted s (.dialectSelect h slot) →
    (s.svc.any (fun p => p.2.st == .running) || s.axes.any (fun p => p.2.moving) || s.parked.any Parked.holdsSwitch) = false →
    Runs (.dialectSelect h slot) s (fun t =>
      let u := riseReady (takePopped s h)
      t = { u with load := some { slot := slot.toNat, cmd := some h }, parked := u.parked ++ [.select h slot.toNat],
                   dia := { u.dia with gstate := if u.dia.valid then .switching else .loading } })) ∧
  (∀ s h (slot : BitVec 8), Accepted s (.dialectInfo h slot) →
    let hd := rdFlashN s.flash (slotBase slot.toNat) 256
    let g := rdFlashN s.flash (slotBase slot.toNat + 0x1000) 64
    slice hd 0 4 = [0x44, 0x4C, 0x43, 0x54] → (crc32c (slice hd 0 0xFC)).toNat = leAt hd 0xFC 4 →
    slice g 0 4 = [0x47, 0x52, 0x4D, 0x52] → (crc32c (slice g 0 0x3C)).toNat = leAt g 0x3C 4 →
    exec (.dialectInfo h slot) s = .next (done (takePopped s h) h 0x0102
      ([1, byteAt g 0x0F, byteAt g 0x18, byteAt g 0x19] ++ slice g 0x10 8 ++ natLE 4 (leAt hd 0x0C 4) ++ natLE 4 (leAt hd 0x14 4)))) ∧
  (∀ s h (slot : BitVec 8), Accepted s (.dialectInfo h slot) → rdFlashN s.flash (slotBase slot.toNat) 4 = [0xFF, 0xFF, 0xFF, 0xFF] →
    exec (.dialectInfo h slot) s = .next (done (takePopped s h) h 0x0102 [0]))

/-- R386: a KEY_OP whose record passes every check waits for the fuses, changing nothing else; the end of fuse programming then gives PROGRAM
its key and bit, REVOKE its bit, ROLLBACK its counter, and completes the command OK. -/
def Sys2Proof.Claims.KeyOpsProgramFuses : Prop :=
  (∀ s h (addr : BitVec 64) (r : List Byte), Accepted s (.keyProgram h addr (.data r)) → leAt r 4 1 = 1 → authFail? s r = none →
    exec (.keyProgram h addr (.data r)) s =
      .next { takePopped s h with parked := s.parked ++ [.keyOp h 1 (leAt r 5 1) (leAt r 7 1) (slice r 0x10 32)] }) ∧
  (∀ s h (addr : BitVec 64) (r : List Byte), Accepted s (.keyRevoke h addr (.data r)) → leAt r 4 1 = 2 → authFail? s r = none →
    exec (.keyRevoke h addr (.data r)) s =
      .next { takePopped s h with parked := s.parked ++ [.keyOp h 2 (leAt r 5 1) (leAt r 7 1) (slice r 0x10 32)] }) ∧
  (∀ s h (addr : BitVec 64) (r : List Byte), Accepted s (.keyRollback h addr (.data r)) → leAt r 4 1 = 3 → authFail? s r = none →
    exec (.keyRollback h addr (.data r)) s =
      .next { takePopped s h with parked := s.parked ++ [.keyOp h 3 (leAt r 5 1) (leAt r 7 1) (slice r 0x10 32)] }) ∧
  (∀ s h op slot value key rest, s.parked = .keyOp h op slot value key :: rest → keyOpOk s op slot value = true →
    Runs .fuseProgramDone s (fun t =>
      (op = 1 → t.fuses.programmed = s.fuses.programmed ||| (1#4 <<< slot) ∧ t.fuses.revoked = s.fuses.revoked ∧
        t.fuses.rollback = s.fuses.rollback ∧ sget [] t.fuses.keys slot = key) ∧
      (op = 2 → t.fuses = { s.fuses with revoked := s.fuses.revoked ||| (1#4 <<< slot) }) ∧
      (op = 3 → t.fuses = { s.fuses with rollback := BitVec.ofNat 6 value }) ∧
      t = done { s with parked := rest, fuses := t.fuses } h 0x0103 []))

/-- R375, R381, R408: an opcode that no patch defines completes BAD_OPCODE; a popped entry with an uncorrectable word is discarded and
completes DAMAGED, with TAG 0xFFFFFFFF, OPCODE 0xFFFF and its slot, 0xFFFF from a mailbox. -/
def Sys2Proof.Claims.BadOpcodeAndDamaged : Prop :=
  (∀ s h (op : BitVec 16), fwRuns s = true → s.boot.patch = 0 →
    exec (.patchCommand h op) s = .next (complete (takePopped s h) h op.toNat 0x0002 [])) ∧
  (∀ s c (slot : BitVec 16), fwRuns s = true → exec (.damaged (.ring c) slot) s =
    .next (complete { s with popped := s.popped.eraseP (fun e => e.src == .ring c && e.bytes == []) } ⟨.ring c, 0xFFFFFFFF, 0⟩ 0xFFFF 0x0001
      (natLE 2 slot.toNat))) ∧
  (∀ s (slot : BitVec 16), fwRuns s = true → exec (.damaged .mailbox slot) s =
    .next (complete { s with popped := s.popped.eraseP (fun e => e.src == .mailbox && e.bytes == []) } ⟨.mailbox, 0xFFFFFFFF, 0⟩ 0xFFFF 0x0001
      (natLE 2 0xFFFF)))

/-! ### Pages and loading (R387-R389, R91-R100) -/

/-- R387, R75, R97: PAGE_DEFINE adds the page, or completes PAGE or TOO_MANY and adds nothing; PAGE_DELETE frees every block of the page, placed or in a
page cache, but for those a fetch still reads, with the page and its closed sets, or completes PAGE; PAGE_INFO counts, or completes PAGE; OVERLAY_CLOSE
closes the sets of its range of copies, one printed already or closed already staying as it is, or completes PAGE. -/
def Obligations.PageCommandsComplete : Prop :=
  (∀ s h id (bands : BitVec 16) (rows : BitVec 64), Accepted s (.pageDefine h id bands rows) →
    id ≠ 0 → id ≠ 0xFFFFFFFF → page? s id = none → (∀ r, r < 64 → rows.getLsbD r = true → (rowCfg? s r).isSome = true) →
    s.pages.length < 4096 →
    exec (.pageDefine h id bands rows) s =
      .next (done { takePopped s h with pages := s.pages ++ [⟨id, bands.toNat, rows⟩] } h 0x0201 [])) ∧
  (∀ s h id (bands : BitVec 16) (rows : BitVec 64), Accepted s (.pageDefine h id bands rows) →
    (id = 0 ∨ id = 0xFFFFFFFF ∨ (page? s id).isSome = true ∨ ∃ r, r < 64 ∧ rows.getLsbD r = true ∧ rowCfg? s r = none) →
    exec (.pageDefine h id bands rows) s = .next (complete (takePopped s h) h 0x0201 0x000E [])) ∧
  (∀ s h id (bands : BitVec 16) (rows : BitVec 64), Accepted s (.pageDefine h id bands rows) →
    id ≠ 0 → id ≠ 0xFFFFFFFF → page? s id = none → (∀ r, r < 64 → rows.getLsbD r = true → (rowCfg? s r).isSome = true) →
    4096 ≤ s.pages.length → exec (.pageDefine h id bands rows) s = .next (complete (takePopped s h) h 0x0201 0x000F [])) ∧
  (∀ s h id, Accepted s (.pageDelete h id) → (page? s id).isSome = true → jobPrints s id = false →
    Runs (.pageDelete h id) s (fun t => ∃ u, t = done u h 0x0202 [] ∧
      u.pages = s.pages.filter (fun p => p.id != id) ∧ page? u id = none ∧ (∀ c, c ∈ u.closed → c.1 ≠ id) ∧
      (∀ b, b ∈ u.blocks → b.id.page = id → b.old = true) ∧
      (∀ b, b ∈ s.blocks → b.id.page ≠ id → b.old = false → b.cached = false → b ∈ u.blocks) ∧
      ((∀ b, b ∈ s.blocks → b.id.page = id → b.cached = false) →
        u = { takePopped s h with pages := u.pages, blocks := u.blocks, closed := s.closed.filter (fun c => c.1 != id) }))) ∧
  (∀ s h id, Accepted s (.pageDelete h id) → (page? s id = none ∨ jobPrints s id = true) →
    exec (.pageDelete h id) s = .next (complete (takePopped s h) h 0x0202 0x000E [])) ∧
  (∀ s h id p, Accepted s (.pageInfo h id) → page? s id = some p →
    let mine := s.blocks.filter (fun b => b.id.page == id && !b.cached && !b.old)
    exec (.pageInfo h id) s = .next (done (takePopped s h) h 0x0203
      (natLE 2 p.bands ++ natLE 1 (pageRows p).length ++ [if (basesHeld s p).length = basesRequired s p then 1 else 0] ++
        natLE 4 (basesRequired s p) ++ natLE 4 ((basesHeld s p).filter (fun b => !b.bad)).length ++
        natLE 4 (mine.filter (fun b => b.bad)).length ++ natLE 4 (mine.filter (fun b => b.id.copy != 0)).length))) ∧
  (∀ s h id, Accepted s (.pageInfo h id) → page? s id = none →
    exec (.pageInfo h id) s = .next (complete (takePopped s h) h 0x0203 0x000E [])) ∧
  (∀ s h id (first : BitVec 32) (count : BitVec 16), Accepted s (.overlayClose h id first count) → (page? s id).isSome = true →
    Runs (.overlayClose h id first count) s (fun t => ∃ u, t = done u h 0x0205 [] ∧ u = { takePopped s h with closed := u.closed } ∧
      ∀ p (c : BitVec 32), (p, c) ∈ u.closed ↔ (p, c) ∈ s.closed ∨
        (p = id ∧ first.toNat ≤ c.toNat ∧ c.toNat < first.toNat + count.toNat ∧ copyPast s id c = false))) ∧
  (∀ s h id (first : BitVec 32) (count : BitVec 16), Accepted s (.overlayClose h id first count) → page? s id = none →
    exec (.overlayClose h id first count) s = .next (complete (takePopped s h) h 0x0205 0x000E []))

/-- The blocks at the front of a stream placed, `n` of them, each having passed every check of R92 when the load reached it: the state after, the bytes
left, and the identity of the last. -/
def Sys2Proof.Claims.placeStream (s : State) (bs : List Byte) (last : Option BlockId) : Nat → Option (State × List Byte × Option BlockId)
  | 0 => some (s, bs, last)
  | n + 1 =>
    let b := blockOf bs
    match ownerDie? s b.id with
    | none => none
    | some own => match storeSpace s own b.blockLen with
      | none => none
      | some a =>
        if bs.length < 64 ∨ refuseHeader s (bs.take 147776) bs.length ≠ none ∨ forwardLost s own = true ∨ checkBody (bs.take b.blockLen) = false then none
        else placeStream (placeAt s own a b (bs.take b.blockLen)) (bs.drop b.blockLen) (some b.id) n

/-- R388, R92, R94, R98: with no load before it, LOAD_BLOCKS of a stream whose blocks all pass places them in order and completes OK, closing the last
one's overlay set with CLOSE; at the first whose header is refused it completes REFUSED with the blocks placed, its offset, the REASON and its die; a read
that ends short of the stream completes HOST_BUS there; with no HOST_IN channel it completes NO_CHANNEL. With COMPRESS a raw block enters the page cache,
and the load waits for it. -/
def Sys2Proof.Claims.LoadBlocksCompletes : Prop :=
  (∀ s h addr (len : BitVec 32) (flags : BitVec 16) bs n v last, Accepted s (.loadBlocks h addr len flags (.data bs)) → bs.length = len.toNat →
    let u := riseReady (takePopped s h)
    hasHostIn u = true → u.parked.all (fun p => !p.isLoad) = true → flags.getLsbD 0 = false → placeStream u bs none n = some (v, [], last) →
    let v' := match last with
      | some id => if flags.getLsbD 1 = true ∧ id.copy ≠ 0 then closeSet v id.page id.copy else v
      | none => v
    exec (.loadBlocks h addr len flags (.data bs)) s =
      .next (done v' h 0x0204 (natLE 4 n ++ natLE 4 len.toNat ++ [0, 0xFF]))) ∧
  (∀ s h addr (len : BitVec 32) (flags : BitVec 16) bs n v rest last code, Accepted s (.loadBlocks h addr len flags (.data bs)) → bs.length = len.toNat →
    let u := riseReady (takePopped s h)
    hasHostIn u = true → u.parked.all (fun p => !p.isLoad) = true → flags.getLsbD 0 = false → placeStream u bs none n = some (v, rest, last) →
    64 ≤ rest.length → refuseHeader v (rest.take 147776) rest.length = some code →
    let die := if code = 1 ∨ code = 2 ∨ code = 3 ∨ code = 4 then 0xFF else (ownerDie? v (blockOf rest).id).getD 0xFF
    exec (.loadBlocks h addr len flags (.data bs)) s =
      .next (complete v h 0x0204 0x0010 (natLE 4 n ++ natLE 4 (len.toNat - rest.length) ++ [BitVec.ofNat 8 code, BitVec.ofNat 8 die]))) ∧
  (∀ s h addr (len : BitVec 32) (flags : BitVec 16), Accepted s (.loadBlocks h addr len flags .busError) →
    let u := riseReady (takePopped s h)
    hasHostIn u = true → u.parked.all (fun p => !p.isLoad) = true →
    exec (.loadBlocks h addr len flags .busError) s = .next (complete u h 0x0204 0x0015 [0, 0, 0, 0, 0, 0, 0, 0, 0, 0xFF])) ∧
  (∀ s h addr (len : BitVec 32) (flags : BitVec 16) rd, Accepted s (.loadBlocks h addr len flags rd) →
    let u := riseReady (takePopped s h)
    hasHostIn u = false → exec (.loadBlocks h addr len flags rd) s = .next (complete u h 0x0204 0x0016 [0, 0, 0, 0, 0, 0, 0, 0, 0, 0xFF])) ∧
  (∀ s h addr (len : BitVec 32) (flags : BitVec 16) bs own a ca, Accepted s (.loadBlocks h addr len flags (.data bs)) → bs.length = len.toNat →
    let u := riseReady (takePopped s h)
    let b := blockOf bs
    hasHostIn u = true → u.parked.all (fun p => !p.isLoad) = true → flags.getLsbD 0 = true → b.raw = true → b.blockLen = bs.length → 64 ≤ bs.length →
    refuseHeader u (bs.take 147776) bs.length = none → ownerDie? u b.id = some own → forwardLost u own = false → storeSpace u own b.blockLen = some a →
    checkBody bs = true → hasCacheCh u own = true → cacheSpace u own b.blockLen = some ca →
    exec (.loadBlocks h addr len flags (.data bs)) s =
      .next { dramWr u own ca bs with
        blocks := (dramWr u own ca bs).blocks ++ [{ b with die := own, addr := ca, cached := true }],
        parked := .load { hdr := h, len := len.toNat, flags := flags, rest := [], index := 1, offset := b.blockLen, last := some b.id,
                          cached := [⟨0, 0, own, ca⟩] } :: u.parked })

/-- R93, R96: a placed block is held under its identity on its die, with its bytes in the die's DRAM; the block it supersedes goes, unless a
fetch still reads it; no other block goes. -/
def Sys2Proof.Claims.PlacedBlockSupersedes : Prop :=
  ∀ (s : State) (d a : Nat) (b : Block) (bs : List Byte), s.blocks.all (fun o => !o.old) = true →
    let t := placeAt s d a b bs
    ({ b with die := d, addr := a, cached := false, old := false, bad := false } : Block) ∈ t.blocks ∧
      (∀ o, o ∈ t.blocks → o.id = b.id → o.cached = false → o.old = false →
        o = { b with die := d, addr := a, cached := false, old := false, bad := false }) ∧
      (∀ o, o ∈ s.blocks → o.id ≠ b.id → o ∈ t.blocks) ∧ t.dram = (dramWr s d a bs).dram

/-- R99, R378: the oldest load that waits goes on once there is room: its block enters the page cache, and the load waits for it; while there is none it
waits on; with no load waiting nothing changes. -/
def Sys2Proof.Claims.LoadResumeFillsCache : Prop :=
  (∀ s w own ca a, s.parked.find? Parked.isLoad = some (.load w) → w.stop = none → w.offset + w.rest.length = w.len →
    let b := blockOf w.rest
    64 ≤ w.rest.length → refuseHeader s (w.rest.take 147776) w.rest.length = none → b.blockLen = w.rest.length → ownerDie? s b.id = some own →
    forwardLost s own = false → storeSpace s own b.blockLen = some a → checkBody w.rest = true → w.flags.getLsbD 0 = true →
    b.raw = true → hasCacheCh s own = true → cacheSpace s own b.blockLen = some ca →
    Runs .loadResume s (fun t =>
      t = { dramWr s own ca w.rest with
            blocks := (dramWr s own ca w.rest).blocks ++ [{ b with die := own, addr := ca, cached := true }],
            parked := .load { w with rest := [], index := w.index + 1, offset := w.offset + b.blockLen, last := some b.id,
                                     cached := w.cached ++ [⟨w.index, w.offset, own, ca⟩] } :: s.parked.eraseP Parked.isLoad })) ∧
  (∀ s w own a, s.parked.find? Parked.isLoad = some (.load w) → w.stop = none → w.offset + w.rest.length = w.len →
    let b := blockOf w.rest
    64 ≤ w.rest.length → refuseHeader s (w.rest.take 147776) w.rest.length = none → b.blockLen ≤ w.rest.length → ownerDie? s b.id = some own →
    forwardLost s own = false → storeSpace s own b.blockLen = some a → checkBody (w.rest.take b.blockLen) = true → w.flags.getLsbD 0 = true →
    b.raw = true → hasCacheCh s own = true → cacheSpace s own b.blockLen = none →
    exec .loadResume s = .next { s with parked := .load w :: s.parked.eraseP Parked.isLoad }) ∧
  (∀ s, s.parked.all (fun p => !p.isLoad) = true → exec .loadResume s = .next s)

/-- No bit of the DRAM or of a cached check burst stands flipped. -/
def Sys2Proof.Claims.quietDram (s : State) : Bool := s.dramFlips == [] && s.ddr.all (fun p => p.2.chk.all (fun q => q.2 == []))

/-- R96: BLOCK_MOVE to free space copies the block's bytes there and its entry names the new place; every other entry stands. To a place that is not free, or
of a block that is not there, nothing moves. -/
def Sys2Proof.Claims.BlockMoveCopies : Prop :=
  (∀ (s : State) (d src dst : Nat) (b : Block), quietDram s = true →
    s.blocks.find? (fun o => o.die == d && !o.cached && !o.old && o.addr == src && o.addr != 0) = some b →
    dst % 64 = 0 → storeBase ≤ dst → dst + pad64 b.blockLen ≤ dramEnd s d →
    ((takenRuns s d false).filter (fun r => r.1 ≠ src)).all (fun r => dst + pad64 b.blockLen ≤ r.1 || r.1 + r.2 ≤ dst) = true →
    (dst + pad64 b.blockLen ≤ src ∨ src + pad64 b.blockLen ≤ dst) →
    (∀ g, g < pad64 b.blockLen / 64 → dramBad s d (src + 64 * g) = false) →
    Runs (.blockMove d src dst) s (fun t =>
      t = { s with dram := t.dram, dramPoison := t.dramPoison, ddr := t.ddr, blocks := t.blocks, clauses := t.clauses } ∧
      t.dram = (dramWr s d dst (dramRd s d src (pad64 b.blockLen))).dram ∧
      t.blocks = s.blocks.map (fun o => if o.die = d ∧ o.addr = src ∧ o.id = b.id then { o with addr := dst } else o))) ∧
  (∀ (s : State) (d src dst : Nat),
    (∀ b, s.blocks.find? (fun o => o.die == d && !o.cached && !o.old && o.addr == src && o.addr != 0) = some b →
      dst % 64 ≠ 0 ∨ dst < storeBase ∨ dramEnd s d < dst + pad64 b.blockLen) →
    exec (.blockMove d src dst) s = .next s)

/-- What an event of clause `x` does that opens the next band: the base block, and on an overlay row the copy's overlay block or, its set being closed, none,
become inputs, their headers read; nothing else changes but the check bursts that the reads cache. -/
def Sys2Proof.Claims.OpensBand (ev : Instr) (s : State) (x : Nat) : Prop :=
  ∀ j g b base, s.job = some j → clauseSlot? s x = some g → fetchBand? s x = some b →
    heldBlock? s ⟨j.pageOf (b / 8192), 0, g.row, g.pos, b % 8192⟩ = some base →
    let o := if (rowCfg s g.row).overlay = true then
      heldBlock? s ⟨j.pageOf (b / 8192), BitVec.ofNat 32 (j.copyNo (b / 8192)), g.row, g.pos, b % 8192⟩ else none
    ((rowCfg s g.row).overlay = false ∨ o.isSome = true ∨ setOpen s j (b / 8192) = false) → quietDram s = true →
    (∀ k, k ∈ base :: o.toList → k.bad = false ∧ dramBad s k.die k.addr = false ∧ dramWaits s k.die k.addr 64 = false) →
    Runs ev s (fun t => t = { s with clauses := t.clauses, ddr := t.ddr } ∧ (∀ y, y ≠ x → clauseAt t y = clauseAt s y) ∧
      clauseAt t x = { clauseAt s x with
        input := (clauseAt s x).input ++ [{ block := base, absBand := b, overlay := false, hdr := dramRd s base.die base.addr 64 }] ++
          o.toList.map (fun v => { block := v, absBand := b, overlay := true, hdr := dramRd s v.die v.addr 64 }),
        nextBand := b + 1, ovlWait := false })

/-- R86, R87, R95, R100, R257, R319: BAND_FETCH of a clean granule appends its bytes to the payload or mask it belongs to, and changes no other clause; of a
poisoned one appends them poisoned and marks the block BAD; with nothing left of the bands opened it opens the next one, or waits for an overlay block
whose set is open; it waits at the rewind mark, and while the granule's channel trains or retrains. -/
def Sys2Proof.Claims.BandFetchCompletes : Prop :=
  (∀ s d k i m,
    let x := clauseIx d k
    let c := clauseAt s x
    let a := i.block.addr + pieceAt i m
    fetches s x = true → c.input.filter (inputDone s x) = [] → nextPiece? c = some (i, m) →
    ringUsed s x + 64 ≤ ringRoom c → dramWaits s i.block.die a 64 = false → quietDram s = true → dramBad s i.block.die a = false →
    let i' := if m = true then { i with mask := i.mask ++ dramRd s i.block.die a 64 }
      else { i with bytes := i.bytes ++ dramRd s i.block.die a (min 64 (i.block.payloadLen - i.bytes.length)) }
    (m = true → i'.mask.length = i'.maskLen → crc32c i'.mask = i.block.maskCrc) →
    Runs (.bandFetch d k) s (fun t => t = { s with clauses := t.clauses, ddr := t.ddr } ∧
      clauseAt t x = { c with input := c.input.map (fun j => if j = i then i' else j), rewindWait := false } ∧
      ∀ y, y ≠ x → clauseAt t y = clauseAt s y)) ∧
  (∀ s d k i,
    let x := clauseIx d k
    let c := clauseAt s x
    let a := i.block.addr + pieceAt i false
    fetches s x = true → c.input.filter (inputDone s x) = [] → nextPiece? c = some (i, false) →
    ringUsed s x + 64 ≤ ringRoom c → dramWaits s i.block.die a 64 = false → quietDram s = true → dramBad s i.block.die a = true → i.block.bad = false →
    Runs (.bandFetch d k) s (fun t =>
      (∀ o, o ∈ t.blocks → o.die = i.block.die → o.addr = i.block.addr → o.id = i.block.id → o.bad = true) ∧
      t.blocks.length = s.blocks.length ∧ t.dram = s.dram)) ∧
  (∀ s d k,
    let x := clauseIx d k
    fetches s x = true → (clauseAt s x).input.filter (inputDone s x) = [] → nextPiece? (clauseAt s x) = none → OpensBand (.bandFetch d k) s x) ∧
  (∀ s d k j g b base,
    let x := clauseIx d k
    let c := clauseAt s x
    fetches s x = true → c.input.filter (inputDone s x) = [] → nextPiece? c = none → s.job = some j → clauseSlot? s x = some g →
    fetchBand? s x = some b → heldBlock? s ⟨j.pageOf (b / 8192), 0, g.row, g.pos, b % 8192⟩ = some base →
    (rowCfg s g.row).overlay = true →
    heldBlock? s ⟨j.pageOf (b / 8192), BitVec.ofNat 32 (j.copyNo (b / 8192)), g.row, g.pos, b % 8192⟩ = none → setOpen s j (b / 8192) = true →
    exec (.bandFetch d k) s = .next (setClause s x { c with ovlWait := true })) ∧
  (∀ s d k i m,
    let x := clauseIx d k
    let c := clauseAt s x
    fetches s x = true → c.input.filter (inputDone s x) = [] → nextPiece? c = some (i, m) →
    ringRoom c < ringUsed s x + 64 →
    exec (.bandFetch d k) s = .next (setClause s x { c with rewindWait := true })) ∧
  (∀ s d k i m,
    let x := clauseIx d k
    let c := clauseAt s x
    fetches s x = true → c.input.filter (inputDone s x) = [] → nextPiece? c = some (i, m) → ringUsed s x + 64 ≤ ringRoom c →
    dramWaits s i.block.die (i.block.addr + pieceAt i m) 64 = true → exec (.bandFetch d k) s = .next s)

/-- R95: a fetch that waited for an overlay block opens the band once the block is held or the set is closed: the base first, then the overlay. One that
does not wait for it is left alone. -/
def Sys2Proof.Claims.OverlayFetchResumes : Prop :=
  (∀ s d k, fetches s (clauseIx d k) = true → (clauseAt s (clauseIx d k)).ovlWait = true → OpensBand (.overlayFetchResume d k) s (clauseIx d k)) ∧
  (∀ s d k, (clauseAt s (clauseIx d k)).ovlWait = false → exec (.overlayFetchResume d k) s = .next s)

/-- R112, R258: a fetch that waits for the mark, once the line it is to write for is within REWIND_GUARD lines of its deadline: the band of the oldest unready
line loses its mark, which is counted and logged on the clause's die, the followers stop in it, and the fetch goes on with the granule it waited for.
Before the guard it waits on. -/
def Sys2Proof.Claims.RewindGuardForfeitsMark : Prop :=
  (∀ s d k l p g,
    let x := clauseIx d k
    let c := clauseAt s x
    let c' := { c with rewindWait := false, rewind := satInc c.rewind, dec0 := c.dec0.markLost p.absBand, dec1 := c.dec1.markLost p.absBand,
                       input := c.input.map (fun i => if i.absBand = p.absBand then { i with lost := true } else i) }
    c.rewindWait = true → guardReached s x = true → oldestUnready? c = some (l, p) → clauseSlot? s x = some g → quietDram s = true →
    c.lines.all (fun n => !(n.ofBand p.absBand && (n.rerun || n.rerunWait) && !n.settled)) = true →
    ∀ i, nextPiece? c' = some (i, false) →
    let a := i.block.addr + pieceAt i false
    dramWaits s i.block.die a 64 = false → dramBad s i.block.die a = false →
    let bs := dramRd s i.block.die a (min 64 (i.block.payloadLen - i.bytes.length))
    Runs (.rewindGuardReached d k) s (fun t =>
      t = { s with clauses := t.clauses, evqs := t.evqs, ddr := t.ddr } ∧
      clauseAt t x = { c' with input := c'.input.map (fun j => if j = i then { i with bytes := i.bytes ++ bs } else j) } ∧
      (∀ y, y ≠ x → clauseAt t y = clauseAt s y) ∧
      t.evqs = (logEv s g.die 0x0012 (lineData p.page p.copy g.row 0 g.pos (64 * p.band) 64)).evqs)) ∧
  (∀ s d k, ((clauseAt s (clauseIx d k)).rewindWait = false ∨ guardReached s (clauseIx d k) = false) →
    exec (.rewindGuardReached d k) s = .next s)

/-! ### Jobs (R390-R398) -/

/-- R391, R230: JOB_OPEN's checks in order, BUSY, PAGE, NO_TIMING, NOT_LOCKED and TOO_MANY, and the job it opens when all pass: ARMED, Printing, every row
of its pages ARMED at line 0 with head line 0 gathered, and no link of theirs left in electrical idle. -/
def Obligations.JobOpenCompletes : Prop :=
  (∀ s h (p : JobParams), Accepted s (.jobOpen h p) →
    let j := newJob s p
    s.job = none → jobPagesOk s j.pages = true → (∀ r, r ∈ j.rows → (rowTiming s r).ratio ≠ 0) → (s.sync.mode ≠ 2 ∨ s.sync.lock = true) →
    tooManyCopies s j.rows (j.bands.map (fun b => 64 * b + j.gutter)) = false →
    Runs (.jobOpen h p) s (fun t => ∃ u, t = done u h 0x0206 [] ∧ u.job = some j ∧ j.st = .armed ∧ j.id = p.jobId ∧ j.pages = jobPages p ∧
      j.rounds = p.rounds.toNat ∧ u.power.st = .printing ∧
      (∀ r, r ∈ j.rows → (rowAt u r).st = .armed ∧ (rowAt u r).line = 0 ∧ (rowAt u r).gathered = some 0) ∧
      ∀ r, r ∈ j.rows → ∀ hd, hd ∈ rowLive s r → ∀ l, headLink? s hd = some l → (linkAt u (linkIx l.1 l.2)).st ≠ .idle)) ∧
  (∀ s h (p : JobParams), Accepted s (.jobOpen h p) → s.job ≠ none →
    exec (.jobOpen h p) s = .next (complete (takePopped s h) h 0x0206 0x000A [])) ∧
  (∀ s h (p : JobParams), Accepted s (.jobOpen h p) → s.job = none → jobPagesOk s (jobPages p) = false →
    exec (.jobOpen h p) s = .next (complete (takePopped s h) h 0x0206 0x000E [])) ∧
  (∀ s h (p : JobParams), Accepted s (.jobOpen h p) →
    let j := newJob s p
    s.job = none → jobPagesOk s j.pages = true → (∃ r, r ∈ j.rows ∧ (rowTiming s r).ratio = 0) →
    exec (.jobOpen h p) s = .next (complete (takePopped s h) h 0x0206 0x000D [])) ∧
  (∀ s h (p : JobParams), Accepted s (.jobOpen h p) →
    let j := newJob s p
    s.job = none → jobPagesOk s j.pages = true → (∀ r, r ∈ j.rows → (rowTiming s r).ratio ≠ 0) → s.sync.mode = 2 → s.sync.lock = false →
    exec (.jobOpen h p) s = .next (complete (takePopped s h) h 0x0206 0x000C [])) ∧
  (∀ s h (p : JobParams), Accepted s (.jobOpen h p) →
    let j := newJob s p
    s.job = none → jobPagesOk s j.pages = true → (∀ r, r ∈ j.rows → (rowTiming s r).ratio ≠ 0) → (s.sync.mode ≠ 2 ∨ s.sync.lock = true) →
    tooManyCopies s j.rows (j.bands.map (fun b => 64 * b + j.gutter)) = true →
    exec (.jobOpen h p) s = .next (complete (takePopped s h) h 0x0206 0x000F []))

/-- R392: in a job whose pages all have a band, job line `l` lies in the pitch of copy `i` exactly when S_i ≤ l < S_(i+1) and `i` is one of the
N copies; it is then page line l - S_i of that copy unless it lies in the gutter or the copy is cut off by a stop. -/
def Obligations.JobLinesLieInCopies : Prop :=
  ∀ (j : Job) (l i : Nat), 0 < j.pages.length → j.bands.length = j.pages.length → (∀ b, b ∈ j.bands → 0 < b) →
    (j.copyAt l = some i ↔ i < j.pages.length * j.rounds ∧ j.start i ≤ l ∧ l < j.start (i + 1)) ∧
    j.start (i + 1) = j.start i + 64 * j.bands.getD (i % j.pages.length) 0 + j.gutter ∧
    (i < j.bound → i < j.pages.length * j.rounds → ∀ o, o < 64 * j.bands.getD (i % j.pages.length) 0 →
      j.place (j.start i + o) = some ⟨i, j.pages.getD (i % j.pages.length) 0, BitVec.ofNat 32 (j.copyNo i), o / 64, o % 64⟩)

/-- R394: JOB_STOP returns the boundary in force. An ARMED job closes at once with boundary 0; AT_COPY on a running job without a boundary chooses
the one after the copy of the lead row's last committed line; one already chosen stands, and a NOW stop already given stands. -/
def Sys2Proof.Claims.JobStopCompletes : Prop :=
  (∀ s h j, Accepted s (.jobStopAtCopy h) → s.job = some j → j.st = .armed →
    exec (.jobStopAtCopy h) s =
      .next (done (closeJob { takePopped s h with job := some { j with boundary := some 0, cut := some 0 } } 1) h 0x0207 (natLE 4 0))) ∧
  (∀ s h j, Accepted s (.jobStopAtCopy h) → s.job = some j → j.st = .running → j.boundary = none →
    let b := match leadLine? s j with
      | some l => (match j.copyAt l with | some i => i + 1 | none => j.copies)
      | none => 0
    Runs (.jobStopAtCopy h) s (fun t => ∃ u, u.job = some { j with boundary := some b, cut := some b, reasons := j.reasons ||| 1 } ∧
      (∀ r, r ∈ j.rows → (rowAt s r).st = .run → (rowAt u r).st = .stopping) ∧ u = { takePopped s h with job := u.job, rows := u.rows } ∧
      t = done (jobAdvance u) h 0x0207 (natLE 4 b))) ∧
  (∀ s h j b, Accepted s (.jobStopAtCopy h) → s.job = some j → j.st = .running → j.boundary = some b →
    exec (.jobStopAtCopy h) s = .next (done (jobAdvance (takePopped s h)) h 0x0207 (natLE 4 b))) ∧
  (∀ s h j, Accepted s (.jobStopNow h) → s.job = some j → j.st = .armed →
    exec (.jobStopNow h) s =
      .next (done (closeJob { takePopped s h with job := some { j with boundary := some 0, cut := some 0 } } 2) h 0x0207 (natLE 4 0))) ∧
  (∀ s h j b, Accepted s (.jobStopNow h) → s.job = some j → j.st = .running → j.now_ = true → j.boundary = some b →
    exec (.jobStopNow h) s = .next (done (takePopped s h) h 0x0207 (natLE 4 b))) ∧
  (∀ s h j, Accepted s (.jobStopNow h) → s.job = some j → j.st = .running → j.now_ = false →
    Runs (.jobStopNow h) s (fun t => ∃ u b, u.job = some { j with now_ := true, boundary := some b, reasons := j.reasons ||| 2 } ∧
      (∀ r, r ∈ j.rows → (rowAt u r).nowLine = (rowAt s r).gathered) ∧
      (∀ i, j.ready ≤ i → i < b → i ≤ j.begun → copyWhole s j i = true) ∧ (∀ c, j.boundary = some c → b ≤ c) ∧ (j.boundary = none → b ≤ j.copies) ∧ u = { takePopped s h with job := u.job, rows := u.rows } ∧
      t = done (jobAdvance u) h 0x0207 (natLE 4 b)))

/-- R396, R274: the close of a job makes it CLOSED with its end reasons, its copies begun all ready, reopens its pages' overlay sets, and leaves every
row of it IDLE. -/
def Sys2Proof.Claims.JobCloseLeaves : Prop :=
  ∀ (s : State) (j : Job) (bits : BitVec 16), s.job = some j → j.st ≠ .closed → s.parked.all (fun p => !p.isReport) = true →
    let t := closeJob s bits
    (∃ j', t.job = some j' ∧ j'.st = .closed ∧ j'.reasons = j.reasons ||| bits ∧ j'.ready = max j.ready j.begun ∧ j'.id = j.id) ∧
      t.closed = s.closed.filter (fun c => !j.pages.contains c.1) ∧ (∀ r, r ∈ j.rows → (rowAt t r).st = .idle)

/-- R397, R398: REPORT waits while no report is ready; with none parked before it, it otherwise completes with the next copy report, or, all
copies reported and the job closed, with the JOB_END report, which ends the job. JOB_STATUS returns its fields. -/
def Sys2Proof.Claims.ReportAndStatusComplete : Prop :=
  (∀ s h, Accepted s (.report h) → (s.job = none ∨ ∃ j, s.job = some j ∧ j.ready ≤ j.reported ∧ j.st ≠ .closed) →
    exec (.report h) s = .next { takePopped s h with parked := s.parked ++ [.report h] }) ∧
  (∀ s h j, Accepted s (.report h) → s.parked.all (fun p => !p.isReport) = true → s.job = some j → j.reported < j.ready →
    let d := sget {} j.defects j.reported
    Runs (.report h) s (fun t => t = done { takePopped s h with job := t.job } h 0x0208
        (([1, (if d.flag then 1 else 0) + (match j.stoppedFrom with | some n => if n ≤ j.reported then 2 else 0 | none => 0)] : List Byte) ++
          natLE 2 d.causes.toNat ++ natLE 4 j.id.toNat ++ natLE 4 (j.pageOf j.reported).toNat ++ natLE 4 (j.copyNo j.reported) ++
          natLE 4 d.lost) ∧
      ∃ j', t.job = some j' ∧ j'.reported = j.reported + 1 ∧ j'.st = j.st ∧ j'.ready = j.ready)) ∧
  (∀ s h j, Accepted s (.report h) → s.parked.all (fun p => !p.isReport) = true → s.job = some j → j.ready ≤ j.reported → j.st = .closed →
    exec (.report h) s = .next (done { takePopped s h with job := none } h 0x0208
      ([2, 0] ++ natLE 2 j.reasons.toNat ++ natLE 4 j.id.toNat ++ natLE 4 j.completed ++ natLE 4 j.defective ++ natLE 4 j.allLost))) ∧
  (∀ s h, Accepted s (.jobStatus h) → s.job = none →
    exec (.jobStatus h) s = .next (done (takePopped s h) h 0x0209 (List.replicate 12 0 ++ List.replicate 8 0xFF))) ∧
  (∀ s h j, Accepted s (.jobStatus h) → s.job = some j →
    exec (.jobStatus h) s = .next (done (takePopped s h) h 0x0209
      (([match j.st with | .armed => 1 | .running => if j.boundary.isSome then 3 else 2 | .closed => 4] : List Byte) ++ natLE 1 j.reasons.toNat ++ [0, 0] ++
        natLE 4 j.id.toNat ++ natLE 4 j.reported ++ natLE 4 (j.boundary.getD 0xFFFFFFFF) ++ natLE 4 ((leadLine? s j).getD 0xFFFFFFFF))))

/-! ### Parameters (R58, R183, R399-R401) -/

/-- R400: PARAM_WRITE whose records all pass applies each in the buffer's order; one whose framing fails, whose types the job refuses, or one
record of which fails, completes with that status and applies none. -/
def Sys2Proof.Claims.ParamWriteAllOrNone : Prop :=
  (∀ s h addr (len : BitVec 32) bs, Accepted s (.paramWrite h addr len (.data bs)) → len.toNat ≤ bs.length →
    let u := takePopped s h
    let r := frameRecs (bs.take len.toNat)
    r.2 = none → r.1.findSome? (typeRefused? u) = none → firstBad? u r.1 = none → conflictIndex? u r.1 = none →
    exec (.paramWrite h addr len (.data bs)) s = .next (done (r.1.foldl applyRec u) h 0x0301 [])) ∧
  (∀ s h addr (len : BitVec 32) bs code i, Accepted s (.paramWrite h addr len (.data bs)) → len.toNat ≤ bs.length →
    (frameRecs (bs.take len.toNat)).2 = some (code, i) →
    exec (.paramWrite h addr len (.data bs)) s =
      .next (complete (takePopped s h) h 0x0301 0x0012 (natLE 4 i ++ [BitVec.ofNat 8 code]))) ∧
  (∀ s h addr (len : BitVec 32) bs st, Accepted s (.paramWrite h addr len (.data bs)) → len.toNat ≤ bs.length →
    let r := frameRecs (bs.take len.toNat)
    r.2 = none → r.1.findSome? (typeRefused? (takePopped s h)) = some st →
    exec (.paramWrite h addr len (.data bs)) s = .next (complete (takePopped s h) h 0x0301 st [])) ∧
  (∀ s h addr (len : BitVec 32) bs i, Accepted s (.paramWrite h addr len (.data bs)) → len.toNat ≤ bs.length →
    let u := takePopped s h
    let r := frameRecs (bs.take len.toNat)
    r.2 = none → r.1.findSome? (typeRefused? u) = none →
    (firstBad? u r.1 = some i ∨ (firstBad? u r.1 = none ∧ conflictIndex? u r.1 = some i)) →
    exec (.paramWrite h addr len (.data bs)) s = .next (complete u h 0x0301 0x0012 (natLE 4 i ++ [0x19]))) ∧
  (∀ s h addr (len : BitVec 32), Accepted s (.paramWrite h addr len .busError) →
    exec (.paramWrite h addr len .busError) s = .next (complete (takePopped s h) h 0x0301 0x0015 []))

/-- R400, R58, R180: an applied record is the one held for its type and target, and the records held for other types and targets stand; a gain-trim record sets
the curve and gain of exactly the nozzles it covers. -/
def Sys2Proof.Claims.AppliedRecordIsHeld : Prop :=
  (∀ (s : State) (p : ParamRec), p.typ ≠ 0x0102 →
    param? (applyRec s p) p.typ.toNat p.target.toNat = some p ∧
    ∀ typ target, (typ ≠ p.typ.toNat ∨ target ≠ p.target.toNat) → param? (applyRec s p) typ target = param? s typ target) ∧
  (∀ (s : State) (p : ParamRec) j, p.typ = 0x0102 → j < p.payload.length / 2 →
    sget 0 (applyRec s p).curves (p.target.toNat + j) = byteAt p.payload (2 * j) ∧
    sget 128 (applyRec s p).gains (p.target.toNat + j) = byteAt p.payload (2 * j + 1)) ∧
  (∀ (s : State) (p : ParamRec) n, p.typ = 0x0102 → (n < p.target.toNat ∨ p.target.toNat + p.payload.length / 2 ≤ n) →
    sget 0 (applyRec s p).curves n = sget 0 s.curves n ∧ sget 128 (applyRec s p).gains n = sget 128 s.gains n)

/-- R399, R401: PARAM_READ writes the record held, with gains and DISABLED flags as they now stand, or the record of the ROM defaults; it completes TOO_MANY
when MAX is too small and, with neither, STATE (the model's choice, assumption 20); NOZZLE_DISABLE sets the flag of exactly the nozzles
of its range; NOZZLE_READ writes a status byte for each nozzle of its range; DDR_TUNE changes the named register of the channels named. -/
def Sys2Proof.Claims.ConfigurationCommandsComplete : Prop :=
  (∀ s h addr (typ : BitVec 16) (target max : BitVec 32) p, Accepted s (.paramRead h addr typ target max) →
    param? s typ.toNat target.toNat = some p → p.typ ≠ 0x0102 → p.typ ≠ 0x0201 → p.bytes ≠ [] → p.bytes.length ≤ max.toNat →
    s.pcie.linkUp = true → s.pcie.d3hot = false →
    exec (.paramRead h addr typ target max) s =
      .next (done (emit (takePopped s h) (.hostWrite addr.toNat p.bytes)) h 0x0302 (natLE 4 p.bytes.length))) ∧
  (∀ s h addr (typ : BitVec 16) (target max : BitVec 32) p, Accepted s (.paramRead h addr typ target max) →
    param? s typ.toNat target.toNat = some p → p.typ ≠ 0x0102 → p.typ ≠ 0x0201 → max.toNat < p.bytes.length →
    exec (.paramRead h addr typ target max) s = .next (complete (takePopped s h) h 0x0302 0x000F [])) ∧
  (∀ s h addr (target max : BitVec 32) p, Accepted s (.paramRead h addr 0x0102 target max) → param? s 0x0102 target.toNat = some p →
    let bs := ({ p with payload := (List.range (gainCount p)).flatMap (fun j =>
      [sget 0 s.curves (p.target.toNat + j), sget 128 s.gains (p.target.toNat + j)]) } : ParamRec).bytes
    bs ≠ [] → bs.length ≤ max.toNat → s.pcie.linkUp = true → s.pcie.d3hot = false →
    exec (.paramRead h addr 0x0102 target max) s =
      .next (done (emit (takePopped s h) (.hostWrite addr.toNat bs)) h 0x0302 (natLE 4 bs.length))) ∧
  (∀ s h addr (target max : BitVec 32) p, Accepted s (.paramRead h addr 0x0201 target max) → param? s 0x0201 target.toNat = some p →
    ∃ q : ParamRec, q.typ = p.typ ∧ q.target = p.target ∧ q.payload.take 8 = p.payload.take 8 ∧
      (∀ i, i < nozCount p → 12 + 4 * i ≤ p.payload.length →
        let e := nozEntryOf (leAt q.payload (8 + 4 * i) 4)
        let o := nozEntryOf (leAt p.payload (8 + 4 * i) 4)
        o.unused = false → e.nozzle = o.nozzle ∧ e.stagger = o.stagger ∧ e.disabled = sget false s.disabled o.nozzle) ∧
      (q.bytes ≠ [] → q.bytes.length ≤ max.toNat → s.pcie.linkUp = true → s.pcie.d3hot = false →
        exec (.paramRead h addr 0x0201 target max) s =
          .next (done (emit (takePopped s h) (.hostWrite addr.toNat q.bytes)) h 0x0302 (natLE 4 q.bytes.length)))) ∧
  (∀ s h addr (typ : BitVec 16) (target max : BitVec 32) p, Accepted s (.paramRead h addr typ target max) →
    param? s typ.toNat target.toNat = none → defaultRec? s typ.toNat target.toNat = some p → p.bytes ≠ [] → p.bytes.length ≤ max.toNat →
    s.pcie.linkUp = true → s.pcie.d3hot = false →
    exec (.paramRead h addr typ target max) s =
      .next (done (emit (takePopped s h) (.hostWrite addr.toNat p.bytes)) h 0x0302 (natLE 4 p.bytes.length))) ∧
  (∀ s h addr (typ : BitVec 16) (target max : BitVec 32), Accepted s (.paramRead h addr typ target max) →
    param? s typ.toNat target.toNat = none → defaultRec? s typ.toNat target.toNat = none →
    exec (.paramRead h addr typ target max) s = .next (complete (takePopped s h) h 0x0302 0x0014 [])) ∧
  (∀ s h (first count : BitVec 32) (value : BitVec 8), Accepted s (.nozzleDisable h first count value) →
    ((runSlots first.toNat count.toNat).all (fun q => (slotCfg? s q.1 q.2).isSome)) = true →
    Runs (.nozzleDisable h first count value) s (fun t =>
      t = done { takePopped s h with disabled := t.disabled, clauses := t.clauses } h 0x0303 [] ∧
      (∀ n, first.toNat ≤ n → n < first.toNat + count.toNat → sget false t.disabled n = (value == 1)) ∧
      (∀ n, (n < first.toNat ∨ first.toNat + count.toNat ≤ n) → sget false t.disabled n = sget false s.disabled n) ∧
      t.clauses = s.clauses.map (fun p =>
        if clauseLoaded p.2 && (runSlots first.toNat count.toNat).contains (p.1 / 66, p.2.slot) then (p.1, { p.2 with winDirty := true })
        else p))) ∧
  (∀ s h (first count : BitVec 32) (value : BitVec 8), Accepted s (.nozzleDisable h first count value) →
    ((runSlots first.toNat count.toNat).all (fun q => (slotCfg? s q.1 q.2).isSome)) = false →
    exec (.nozzleDisable h first count value) s = .next (complete (takePopped s h) h 0x0303 0x000B [])) ∧
  (∀ s h addr (first count : BitVec 32), Accepted s (.nozzleRead h addr first count) → 0 < count.toNat → s.pcie.linkUp = true →
    s.pcie.d3hot = false →
    let named := (recsOf s 0x0201).flatMap namedNozzles
    let b (n : Nat) : Byte := BitVec.ofNat 8 ((if sget false s.disabled n then 1 else 0) + (if named.contains n then 2 else 0) +
      (if (slotCfg? s (n / 131072) (n / 2048 % 64)).isSome then 4 else 0))
    exec (.nozzleRead h addr first count) s =
      .next (done (emit (takePopped s h) (.hostWrite addr.toNat ((List.range count.toNat).map (fun j => b (first.toNat + j))))) h 0x0304
        (natLE 4 count.toNat))) ∧
  (∀ s h (die channel reg : BitVec 8) (value : BitVec 32) f, Accepted s (.ddrTune h die channel reg value) →
    ddrSet? reg.toNat value = some f →
    Runs (.ddrTune h die channel reg value) s (fun t =>
      t = done { takePopped s h with ddr := t.ddr } h 0x0305 [] ∧
      ∀ d ch, d < 8 → ch < 2 → ddrAt t (2 * d + ch) =
        if d = die.toNat ∧ (channel = 0xFF ∨ ch = channel.toNat) then f (ddrAt s (2 * d + ch)) else ddrAt s (2 * d + ch)))

/-- R323: the fields DDR_TUNE may write. DDR_SCHED is ignored unless its three slacks rise strictly and AGE and DL_RUN are not 0; DDR_REF takes
DRIFT_MAX and MIN_RATE, at most 4; DDR_SCR takes PERIOD, at least 64, and ENABLE. -/
def Sys2Proof.Claims.DdrTuneFields : Prop :=
  (∀ v : BitVec 32, ((v.extractLsb' 0 4).toNat < (v.extractLsb' 4 6).toNat ∧ (v.extractLsb' 4 6).toNat < (v.extractLsb' 12 8).toNat ∧
      v.extractLsb' 20 4 ≠ 0 ∧ v.extractLsb' 24 8 ≠ 0) →
    ∃ f, ddrSet? 0 v = some f ∧ ∀ c, f c =
      { c with age := v.extractLsb' 24 8, dlRun := v.extractLsb' 20 4, sc2 := v.extractLsb' 12 8, sc1 := v.extractLsb' 4 6,
               sc0 := v.extractLsb' 0 4 }) ∧
  (∀ v : BitVec 32, ¬((v.extractLsb' 0 4).toNat < (v.extractLsb' 4 6).toNat ∧ (v.extractLsb' 4 6).toNat < (v.extractLsb' 12 8).toNat ∧
      v.extractLsb' 20 4 ≠ 0 ∧ v.extractLsb' 24 8 ≠ 0) → ddrSet? 0 v = none) ∧
  (∀ (v : BitVec 32) f c, ddrSet? 1 v = some f → (f c).driftMax = v.extractLsb' 8 8 ∧ (f c).minRate.toNat = min 4 (v.extractLsb' 0 3).toNat) ∧
  (∀ (v : BitVec 32), ∃ f, ddrSet? 2 v = some f ∧ ∀ c, (f c).scrEnable = v.getLsbD 0 ∧
    (f c).scrPeriod.toNat = max 64 (v.extractLsb' 16 16).toNat)

/-! ### Calibration, health, fencing, flash and test commands (R402-R405, R407) -/

/-- The part after a Long command has brought it to Ready. -/
def Sys2Proof.Claims.risen (s : State) (h : CmdHdr) : State := riseReady (takePopped s h)

/-- R402, R449: CAL_RUN makes the resources of its item, or of all four, due and waits for them, or completes at once when there are none; CAL_READ and
SENSORS return what they name. EVENTS_READ writes the entries from FROM on, MAX at most, and returns their number and the sequence number after them;
with none to write it completes OK at once; it completes TOO_MANY when FROM has been overwritten. -/
def Obligations.CalibrationAndSensorCommands : Prop :=
  (∀ s h (item : BitVec 8), Accepted s (.calRun h item) →
    let items := if item = 0 then [1, 2, 3, 4] else [item.toNat]
    let rs := items.flatMap (fun i => (calResources (risen s h) i).map (fun r => (i, r)))
    rs ≠ [] →
    Runs (.calRun h item) s (fun t =>
      t = { risen s h with cal := { (risen s h).cal with due := t.cal.due }, parked := (risen s h).parked ++ [.calRun h item.toNat rs] } ∧
      ∀ x, x ∈ t.cal.due ↔ x ∈ (risen s h).cal.due ∨ x ∈ rs)) ∧
  (∀ s h (item : BitVec 8), Accepted s (.calRun h item) →
    (if item = 0 then [1, 2, 3, 4] else [item.toNat]).all (fun i => (calResources (risen s h) i).isEmpty) = true →
    exec (.calRun h item) s = .next (done (risen s h) h 0x0401 [])) ∧
  (∀ s h, Accepted s (.calRead h) → exec (.calRead h) s = .next (done (takePopped s h) h 0x0402
    (natLE 4 s.cal.count.toNat ++ natLE 4 s.cal.lastAon.toNat ++ natLE 8 s.cal.lastTb.toNat ++ [if s.cal.uncal then 1 else 0]))) ∧
  (∀ s h (die : BitVec 8), Accepted s (.sensors h die) →
    let v (i : Nat) : List Byte := natLE 2 (sget {} s.sense (16 * die.toNat + i)).value.toNat
    let rail := (List.range 6).any (fun i => (sget {} s.sense (16 * die.toNat + 9 + i)).out)
    exec (.sensors h die) s = .next (done (takePopped s h) h 0x0501
      (v 0 ++ v 1 ++ v 2 ++ v 3 ++ v 4 ++ v 5 ++ v 6 ++ v 7 ++ v 8 ++ [(if rail then 1 else 0) + (if (mgtAt s die.toNat).warn then 2 else 0)]))) ∧
  (∀ s h addr (ring : BitVec 8) (fromSeq max : BitVec 32) es, Accepted s (.eventsRead h addr ring fromSeq max) →
    eventsFrom? (risen s h) (ring == 1) fromSeq = some es → es ≠ [] → max ≠ 0 → (risen s h).pcie.linkUp = true → (risen s h).pcie.d3hot = false →
    let out := es.take max.toNat
    Runs (.eventsRead h addr ring fromSeq max) s (fun t => ∃ next : BitVec 32,
      t = done (emit (risen s h) (.hostWrite addr.toNat (out.flatMap SeqEntry.bytes))) h 0x0502 (natLE 4 out.length ++ natLE 4 next.toNat) ∧
      (es.length ≤ max.toNat → next = (risen s h).log.seq) ∧
      (max.toNat < es.length → ∀ e, es[max.toNat - 1]? = some e → next = e.seq + 1))) ∧
  (∀ s h addr (ring : BitVec 8) (fromSeq max : BitVec 32), Accepted s (.eventsRead h addr ring fromSeq max) →
    eventsFrom? (risen s h) (ring == 1) fromSeq = some [] →
    exec (.eventsRead h addr ring fromSeq max) s = .next (done (risen s h) h 0x0502 (natLE 4 0 ++ natLE 4 (risen s h).log.seq.toNat))) ∧
  (∀ s h addr (ring : BitVec 8) (fromSeq max : BitVec 32), Accepted s (.eventsRead h addr ring fromSeq max) →
    eventsFrom? (risen s h) (ring == 1) fromSeq = none →
    exec (.eventsRead h addr ring fromSeq max) s = .next (complete (risen s h) h 0x0502 0x000F []))

/-- R402, R403, R264, R510, R424: FENCE_READ writes the records of the die, or of all dies in order. FENCE gives the unit a permanent fault with reason
HOST: a SERVING clause is FENCING, a SPARE one FENCED; a head channel, an axis and a die other than die 0 are FENCED; a clause that is FENCED, FENCING
or TESTING is left as it is; die 0, and a unit that is not on that die, complete STATE. UNFENCE parks a fenced clause for its test, or for its end of
FENCING; a lane, DMA channel or axis that is fenced returns; a DRAM channel, a die, and a unit that is not fenced complete STATE. -/
def Obligations.FenceCommandsComplete : Prop :=
  (∀ s h addr (die : BitVec 8), Accepted s (.fenceRead h addr die) → s.pcie.linkUp = true → s.pcie.d3hot = false → 0 < s.part.dies →
    let ds := if die = 0xFF then List.range s.part.dies else [die.toNat]
    exec (.fenceRead h addr die) s =
      .next (done (emit (takePopped s h) (.hostWrite addr.toNat (ds.flatMap (dieRecords s)))) h 0x0503 (natLE 4 (143 * ds.length)))) ∧
  (∀ s h (kind die : BitVec 8) (index : BitVec 16) u, Accepted s (.fence h kind die index) →
    unitOf? s kind.toNat die.toNat index.toNat = some u → u ≠ .die 0 →
    exec (.fence h kind die index) s = .next (done (fenceUnit (takePopped s h) u) h 0x0504 [])) ∧
  (∀ (s : State) d k, k < 66 → (clauseAt s (clauseIx d k)).st = .serving →
    let t := fenceUnit s (.clause d k)
    (clauseAt t (clauseIx d k)).st = .fencing ∧ (fenceOf t (.clause d k)).st = .fenced ∧ (fenceOf t (.clause d k)).reason = 9) ∧
  (∀ (s : State) d k, k < 66 → (clauseAt s (clauseIx d k)).st = .spare →
    let t := fenceUnit s (.clause d k)
    (clauseAt t (clauseIx d k)).st = .fenced ∧ (clauseAt t (clauseIx d k)).powered = false ∧ (fenceOf t (.clause d k)).st = .fenced ∧
      (fenceOf t (.clause d k)).reason = 9) ∧
  (∀ (s : State) d k, ((clauseAt s (clauseIx d k)).st = .fenced ∨ (clauseAt s (clauseIx d k)).st = .fencing ∨
    (clauseAt s (clauseIx d k)).st = .testing) → fenceUnit s (.clause d k) = s) ∧
  (∀ (s : State) a, isFenced s (.axis a) = false → (axisAt s a).st ≠ .fenced → dieLive s (a / 2) = true →
    (fenceOf (fenceUnit s (.axis a)) (.axis a)).st = .fenced ∧ (fenceOf (fenceUnit s (.axis a)) (.axis a)).reason = 9 ∧
      (axisAt (fenceUnit s (.axis a)) a).st = .fenced) ∧
  (∀ (s : State) d, 0 < d → dieLive s d = true → isFenced (fenceUnit s (.die d)) (.die d) = true ∧ (fenceOf (fenceUnit s (.die d)) (.die d)).reason = 9) ∧
  (∀ s h, Accepted s (.fence h 7 0 0) → exec (.fence h 7 0 0) s = .next (complete (takePopped s h) h 0x0504 0x0014 [])) ∧
  (∀ s h (kind die : BitVec 8) (index : BitVec 16), Accepted s (.fence h kind die index) →
    unitOf? s kind.toNat die.toNat index.toNat = none →
    exec (.fence h kind die index) s = .next (complete (takePopped s h) h 0x0504 0x0014 [])) ∧
  (∀ s h (die : BitVec 8) (index : BitVec 16), Accepted s (.unfence h 1 die index) →
    isFenced (risen s h) (.clause die.toNat index.toNat) = true → isFenced (risen s h) (.die die.toNat) = false →
    (clauseAt (risen s h) (clauseIx die.toNat index.toNat)).st ≠ .fencing →
    Runs (.unfence h 1 die index) s (fun t => .unfence h 1 die.toNat index.toNat ∈ t.parked ∧
      (clauseAt t (clauseIx die.toNat index.toNat)).st = .testing ∧ (clauseAt t (clauseIx die.toNat index.toNat)).powered = true ∧
      (fenceOf t (.clause die.toNat index.toNat)).st = .testing ∧
      t = { risen s h with clauses := t.clauses, fences := t.fences, evqs := t.evqs, parked := t.parked })) ∧
  (∀ s h (die : BitVec 8) (index : BitVec 16), Accepted s (.unfence h 1 die index) →
    isFenced (risen s h) (.clause die.toNat index.toNat) = true → isFenced (risen s h) (.die die.toNat) = false →
    (clauseAt (risen s h) (clauseIx die.toNat index.toNat)).st = .fencing →
    exec (.unfence h 1 die index) s =
      .next { risen s h with parked := (risen s h).parked ++ [.unfence h 1 die.toNat index.toNat] }) ∧
  (∀ s h (kind die : BitVec 8) (index : BitVec 16) u, Accepted s (.unfence h kind die index) →
    unitOf? (risen s h) kind.toNat die.toNat index.toNat = some u → isFenced (risen s h) u = false →
    exec (.unfence h kind die index) s = .next (complete (risen s h) h 0x0505 0x0014 [])) ∧
  (∀ s h (kind die : BitVec 8) (index : BitVec 16), Accepted s (.unfence h kind die index) → (kind = 4 ∨ kind = 7) →
    exec (.unfence h kind die index) s = .next (complete (risen s h) h 0x0505 0x0014 [])) ∧
  (∀ s h (die : BitVec 8) (index : BitVec 16), Accepted s (.unfence h 2 die index) →
    isFenced (risen s h) (.lane die.toNat index.toNat) = true → isFenced (risen s h) (.die die.toNat) = false →
    Runs (.unfence h 2 die index) s (fun t => ∃ u, (fenceOf u (.lane die.toNat index.toNat)).st = .unfenced ∧
      (laneAt u (8 * die.toNat + index.toNat)).retired = false ∧ u = { risen s h with lanes := u.lanes, fences := u.fences, evqs := u.evqs } ∧
      t = done u h 0x0505 [3])) ∧
  (∀ s h (die : BitVec 8) (index : BitVec 16), Accepted s (.unfence h 5 die index) →
    isFenced (risen s h) (.dma die.toNat index.toNat) = true → isFenced (risen s h) (.die die.toNat) = false →
    Runs (.unfence h 5 die index) s (fun t => ∃ u, (fenceOf u (.dma die.toNat index.toNat)).st = .unfenced ∧
      (dmaAt u (32 * die.toNat + index.toNat)).st = .idle ∧ u = { risen s h with dma := u.dma, fences := u.fences, evqs := u.evqs } ∧
      t = done u h 0x0505 [3])) ∧
  (∀ s h (die : BitVec 8) (index : BitVec 16), Accepted s (.unfence h 6 die index) → index.toNat / 2 = die.toNat →
    isFenced (risen s h) (.axis index.toNat) = true → isFenced (risen s h) (.die die.toNat) = false →
    Runs (.unfence h 6 die index) s (fun t => ∃ u, (fenceOf u (.axis index.toNat)).st = .unfenced ∧
      (axisAt u index.toNat).referenced = false ∧ u = { risen s h with axes := u.axes, fences := u.fences, evqs := u.evqs } ∧
      t = done u h 0x0505 [3])) ∧
  (∀ s h (die : BitVec 8) (index : BitVec 16), Accepted s (.unfence h 3 die index) → headDie? (risen s h) index.toNat = some die.toNat →
    isFenced (risen s h) (.head index.toNat) = true → isFenced (risen s h) (.die die.toNat) = false →
    (headReturns (risen s h) index.toNat = true →
      Runs (.unfence h 3 die index) s (fun t => ∃ u, (fenceOf u (.head index.toNat)).st = .unfenced ∧ t = done u h 0x0505 [3])) ∧
    (headReturns (risen s h) index.toNat = false →
      exec (.unfence h 3 die index) s = .next (complete (risen s h) h 0x0505 0x0014 [])))

/-- R405, R407, R404, R439: a FLASH_WRITE outside the regions in use erases the region's first sector and waits for the flash; when the flash has done, the
region holds the bytes, padded with 0xFF to whole sectors, and its first sector elsewhere what it held, no other byte changes, and the command ends with
their CRC-32C. A failed flash ends it FLASH.
IMAGE_ACTIVATE of a good image erases the copy of the boot configuration not in use and waits likewise, and then the boot configuration names its region. FLASH_READ writes the bytes to the host. -/
def Sys2Proof.Claims.FlashCommandsComplete : Prop :=
  (∀ s h addr (region : BitVec 8) (offset len : BitVec 32) bs, Accepted s (.flashWrite h addr region offset len (.data bs)) →
    regionHeld s region.toNat = false → len.toNat ≤ bs.length →
    let base := regionBase region.toNat
    Runs (.flashWrite h addr region offset len (.data bs)) s (fun t =>
      t = { takePopped s h with flash := t.flash, parked := s.parked ++
        [.flashWrite h region.toNat (base + offset.toNat) (bs.take len.toNat) (rdFlashN s.flash base 4096)] } ∧
      (∀ b, rdFlash t.flash b = if base ≤ b ∧ b < base + 4096 then 0xFF else rdFlash s.flash b))) ∧
  (∀ s h addr (region : BitVec 8) (offset len : BitVec 32) rd, Accepted s (.flashWrite h addr region offset len rd) →
    regionHeld s region.toNat = false → (rd = .busError ∨ ∃ bs, rd = .data bs ∧ bs.length < len.toNat) →
    exec (.flashWrite h addr region offset len rd) s = .next (complete (takePopped s h) h 0x0601 0x0015 [])) ∧
  (∀ s h addr (region : BitVec 8) (offset len : BitVec 32) rd, Accepted s (.flashWrite h addr region offset len rd) →
    regionHeld s region.toNat = true →
    exec (.flashWrite h addr region offset len rd) s = .next (complete (takePopped s h) h 0x0601 0x0014 [])) ∧
  (∀ s h addr (region : BitVec 8) (offset len : BitVec 32), Accepted s (.flashRead h addr region offset len) → s.pcie.linkUp = true →
    s.pcie.d3hot = false →
    let bs := rdFlashN s.flash (regionBase region.toNat + offset.toNat) len.toNat
    exec (.flashRead h addr region offset len) s =
      .next (done (emit (takePopped s h) (.hostWrite addr.toNat bs)) h 0x0602 (natLE 4 (crc32c bs).toNat))) ∧
  (∀ s h (region : BitVec 8) img, Accepted s (.imageActivate h region) → patchOk? s region.toNat = some img →
    exec (.imageActivate h region) s =
      .next { eraseBoot (takePopped s h) with parked := s.parked ++ [.imageActivate h region.toNat (leAt img 8 2)] }) ∧
  (∀ s h (region : BitVec 8), Accepted s (.imageActivate h region) → patchOk? s region.toNat = none →
    exec (.imageActivate h region) s = .next (complete (takePopped s h) h 0x0603 0x0013 [])) ∧
  (∀ s h region a bs first rest, s.parked = .flashWrite h region a bs first :: rest → rest.all (fun p => !p.isActivate) = true → bs ≠ [] →
    Runs (.flashEraseProgramDone true) s (fun t =>
      t = done { s with flash := t.flash, parked := rest } h 0x0601 (natLE 4 (crc32c bs).toNat) ∧
      (∀ b, rdFlash t.flash b =
        if a ≤ b ∧ b < a + (bs.length + 4095) / 4096 * 4096 then bs.getD (b - a) 0xFF
        else if regionBase region ≤ b ∧ b < regionBase region + first.length then first.getD (b - regionBase region) 0xFF
        else rdFlash s.flash b))) ∧
  (∀ s h region a bs first rest, s.parked = .flashWrite h region a bs first :: rest → rest.all (fun p => !p.isActivate) = true →
    exec (.flashEraseProgramDone false) s = .next (complete { s with parked := rest } h 0x0601 0x0019 [])) ∧
  (∀ s h region level rest, s.parked = .imageActivate h region level :: rest →
    exec (.flashEraseProgramDone true) s = .next (done (writeBoot { s with parked := rest } region) h 0x0603 (natLE 2 level))) ∧
  (∀ s h region level rest, s.parked = .imageActivate h region level :: rest →
    exec (.flashEraseProgramDone false) s = .next (complete { s with parked := rest } h 0x0603 0x0019 []))

/-- R404, R295, R319: MARCH waits for the die's engine, which, when free, starts a test that is allowed, powering an off clause for it, and refuses another;
while a job is open only a preserving test of a die bank is accepted. DDR_RETRAIN takes an ACTIVE channel to RETRAIN and waits; a channel that trains
already is waited for, and a RETIRED one completes STATE. -/
def Sys2Proof.Claims.TestCommandsComplete : Prop :=
  (∀ s h (kind die index mode : BitVec 8), Accepted s (.march h kind die index mode) → (jobOpen s = false ∨ (kind = 0 ∧ mode = 1)) →
    let u := risen s h
    let x := clauseIx die.toNat index.toNat
    dieLive u die.toNat = true → (marchAt u die.toNat).busy = false → u.parked.all (fun p => !p.isMarch die.toNat) = true →
    (if kind = 1 then (clauseAt u x).st ≠ .serving ∧ (clauseAt u x).st ≠ .fencing else mode = 1 ∨ u.dia.valid = false) →
    Runs (.march h kind die index mode) s (fun t =>
      t = { u with marches := t.marches, clauses := t.clauses, parked := u.parked ++ [.march h die.toNat kind.toNat index.toNat (mode == 1)] } ∧
      (marchAt t die.toNat).busy = true ∧ (marchAt t die.toNat).runIndex = BitVec.ofNat 7 index.toNat ∧
      (marchAt t die.toNat).runMode = (mode == 1) ∧ (marchAt t die.toNat).runKind = kind ∧ (marchAt t die.toNat).cmd = some h ∧
      (∀ y, clauseAt t y = if kind = 1 ∧ y = x then { clauseAt u y with powered := true } else clauseAt u y))) ∧
  (∀ s h (kind die index mode : BitVec 8), Accepted s (.march h kind die index mode) → (jobOpen s = false ∨ (kind = 0 ∧ mode = 1)) →
    let u := risen s h
    let x := clauseIx die.toNat index.toNat
    dieLive u die.toNat = true → (marchAt u die.toNat).busy = false → u.parked.all (fun p => !p.isMarch die.toNat) = true →
    (if kind = 1 then (clauseAt u x).st = .serving ∨ (clauseAt u x).st = .fencing else mode = 0 ∧ u.dia.valid = true) →
    Runs (.march h kind die index mode) s (fun t => ∃ v, v = { u with marches := v.marches } ∧ (marchAt v die.toNat).busy = false ∧
      (marchAt v die.toNat).result = 4 ∧ t = complete v h 0x0701 0x0014 [])) ∧
  (∀ s h (kind die index mode : BitVec 8), Accepted s (.march h kind die index mode) → (jobOpen s = false ∨ (kind = 0 ∧ mode = 1)) →
    let u := risen s h
    dieLive u die.toNat = true → (marchAt u die.toNat).busy = true →
    exec (.march h kind die index mode) s =
      .next { u with parked := u.parked ++ [.march h die.toNat kind.toNat index.toNat (mode == 1)] }) ∧
  (∀ s h (kind die index mode : BitVec 8), Accepted s (.march h kind die index mode) → jobOpen s = true → (kind ≠ 0 ∨ mode ≠ 1) →
    exec (.march h kind die index mode) s = .next (complete (takePopped s h) h 0x0701 0x0008 [])) ∧
  (∀ s h (die channel : BitVec 8), Accepted s (.ddrRetrain h die channel) →
    (ddrAt (risen s h) (2 * die.toNat + channel.toNat)).st = .active →
    exec (.ddrRetrain h die channel) s = .next (setDdr { risen s h with parked := (risen s h).parked ++ [.retrain h die.toNat channel.toNat] }
      (2 * die.toNat + channel.toNat) { ddrAt (risen s h) (2 * die.toNat + channel.toNat) with st := .retrain })) ∧
  (∀ s h (die channel : BitVec 8), Accepted s (.ddrRetrain h die channel) →
    ((ddrAt (risen s h) (2 * die.toNat + channel.toNat)).st = .retrain ∨ (ddrAt (risen s h) (2 * die.toNat + channel.toNat)).st = .train) →
    exec (.ddrRetrain h die channel) s = .next { risen s h with parked := (risen s h).parked ++ [.retrain h die.toNat channel.toNat] }) ∧
  (∀ s h (die channel : BitVec 8), Accepted s (.ddrRetrain h die channel) →
    (ddrAt (risen s h) (2 * die.toNat + channel.toNat)).st = .retired →
    exec (.ddrRetrain h die channel) s = .next (complete (risen s h) h 0x0702 0x0014 []))

/-! ### Motion (R406, R409-R433) -/

/-- A move or home of axis `a` that waits is CANCELLED by another command of the axis. -/
abbrev Sys2Proof.Claims.cancelled (s : State) (a : Nat) : State := endAxisCmd s a 0x0018

/-- Where a moving axis comes to rest if it brakes at once with profile `p` (R416). -/
def Sys2Proof.Claims.brakeAt (r : AxisRec) (x : Axis) (p : Nat) : Int :=
  x.pos + stopDist x.vel x.acc (accU (r.profs.getD p (1, 1, 1)).2.1) (jerkU (r.profs.getD p (1, 1, 1)).2.2)

/-- R406, R416, R418, R420-R423, R425: AXIS_HOME begins the approach by switch or hard stop, the reference kept as it was until a case of R423.
AXIS_MOVE aims an axis at rest at its target with its profile, and retargets one that moves: on toward a target at or beyond its stopping point,
else to rest there and back. Both wait, an earlier command of the axis that waits completing CANCELLED; the refusals come in R425's order.
AXIS_STOP mode 0 sends a moving axis to its stopping point at STOP_PROF and keeps the reference; mode 1 freezes the position and loses the
reference; what the axis worked for is CANCELLED, a service's group then FAILED; axis 0xFF stops every configured axis. -/
def Obligations.AxisCommandsComplete : Prop :=
  (∀ s h (axis : BitVec 8) r, Accepted s (.axisHome h axis) →
    let u := risen s h
    let a := axis.toNat
    axisCovered u a = false → axisBusy u a = false → axisRec? u a = some r → (axisAt u a).st ≠ .fenced →
    Runs (.axisHome h axis) s (fun t => t = { cancelled u a with axes := t.axes, parked := (cancelled u a).parked ++ [.axis h a 0x0802] } ∧
      (axisAt t a).st = .homing ∧ (axisAt t a).referenced = (axisAt u a).referenced ∧ (axisAt t a).pos = (axisAt u a).pos ∧
      (axisAt t a).goal = (if r.stopRef then .seek else .home 1) ∧
      (axisAt t a).target = (axisAt u a).pos + posU ((if r.homePos then 1 else -1) * r.backoffMax) ∧
      ∀ b, b ≠ a → axisAt t b = axisAt u b)) ∧
  (∀ s h (axis profile : BitVec 8) (target : BitVec 32) r, Accepted s (.axisMove h axis profile target) →
    let u := risen s h
    let a := axis.toNat
    let x := axisAt u a
    axisRec? u a = some r → profile.toNat < r.nprof → (isPump u a = true ∨ (r.softMin ≤ target.toInt ∧ target.toInt ≤ r.softMax)) →
    axisCovered u a = false → axisBusy u a = false → (x.st = .hold ∨ x.st = .off ∨ x.st = .stalled) →
    (isPump u a = true ∨ x.referenced = true) → limitBlocks x target.toInt = false →
    Runs (.axisMove h axis profile target) s (fun t =>
      t = { cancelled u a with axes := t.axes, parked := (cancelled u a).parked ++ [.axis h a 0x0803] } ∧
      (axisAt t a).st = .move ∧ (axisAt t a).goal = .target ∧ (axisAt t a).target = target.toInt * 2 ^ 64 ∧
      (axisAt t a).prof = profile.toNat ∧ (axisAt t a).referenced = x.referenced ∧ (axisAt t a).pos = x.pos ∧
      ∀ b, b ≠ a → axisAt t b = axisAt u b)) ∧
  (∀ s h (axis profile : BitVec 8) (target : BitVec 32) r, Accepted s (.axisMove h axis profile target) →
    let u := risen s h
    let a := axis.toNat
    let x := axisAt u a
    let stop := brakeAt r x profile.toNat
    axisRec? u a = some r → profile.toNat < r.nprof → (isPump u a = true ∨ (r.softMin ≤ target.toInt ∧ target.toInt ≤ r.softMax)) →
    axisCovered u a = false → axisBusy u a = false → (x.st = .move ∨ x.st = .stopping) →
    (isPump u a = true ∨ (x.referenced = true ∧ posU r.softMin ≤ stop ∧ stop ≤ posU r.softMax)) → limitBlocks x target.toInt = false →
    Runs (.axisMove h axis profile target) s (fun t =>
      t = { cancelled u a with axes := t.axes, parked := (cancelled u a).parked ++ [.axis h a 0x0803] } ∧
      axisAt t a = { x with st := .move, prof := profile.toNat, holdLow := false, repeat_ := none, repeating := false,
                            goal := if (if 0 ≤ x.vel then stop ≤ posU target.toInt else posU target.toInt ≤ stop) then .target else .reverse (posU target.toInt),
                            target := if (if 0 ≤ x.vel then stop ≤ posU target.toInt else posU target.toInt ≤ stop) then posU target.toInt else stop } ∧
      ∀ b, b ≠ a → axisAt t b = axisAt u b)) ∧
  (∀ s h (axis profile : BitVec 8) (target : BitVec 32) r, Accepted s (.axisMove h axis profile target) →
    let u := risen s h
    axisRec? u axis.toNat = some r →
    (r.nprof ≤ profile.toNat ∨ (isPump u axis.toNat = false ∧ (target.toInt < r.softMin ∨ r.softMax < target.toInt))) →
    exec (.axisMove h axis profile target) s = .next (complete u h 0x0803 0x0004 [])) ∧
  (∀ s h (axis profile : BitVec 8) (target : BitVec 32) r, Accepted s (.axisMove h axis profile target) →
    let u := risen s h
    let a := axis.toNat
    axisRec? u a = some r → profile.toNat < r.nprof → (isPump u a = true ∨ (r.softMin ≤ target.toInt ∧ target.toInt ≤ r.softMax)) →
    (axisCovered u a = true → exec (.axisMove h axis profile target) s = .next (complete u h 0x0803 0x0008 [])) ∧
    (axisCovered u a = false → axisBusy u a = true → exec (.axisMove h axis profile target) s = .next (complete u h 0x0803 0x000A [])) ∧
    (axisCovered u a = false → axisBusy u a = false →
      ((axisAt u a).st = .fenced ∨ (isPump u a = false ∧ (axisAt u a).referenced = false) ∨ limitBlocks (axisAt u a) target.toInt = true) →
      exec (.axisMove h axis profile target) s = .next (complete u h 0x0803 0x0014 []))) ∧
  (∀ s h (axis : BitVec 8), Accepted s (.axisHome h axis) →
    let u := risen s h
    let a := axis.toNat
    (axisCovered u a = true → exec (.axisHome h axis) s = .next (complete u h 0x0802 0x0008 [])) ∧
    (axisCovered u a = false → axisBusy u a = true → exec (.axisHome h axis) s = .next (complete u h 0x0802 0x000A [])) ∧
    (axisCovered u a = false → axisBusy u a = false → (axisRec? u a = none ∨ (axisAt u a).st = .fenced) →
      exec (.axisHome h axis) s = .next (complete u h 0x0802 0x0014 []))) ∧
  (∀ s h (axis profile : BitVec 8) (target : BitVec 32), Accepted s (.axisMove h axis profile target) →
    axisRec? (risen s h) axis.toNat = none →
    exec (.axisMove h axis profile target) s = .next (complete (risen s h) h 0x0803 0x0014 [])) ∧
  (∀ s h (axis : BitVec 8), Accepted s (.axisStopDecelerate h axis) → axis ≠ 0xFF → (axisRec? s axis.toNat).isSome = true →
    exec (.axisStopDecelerate h axis) s = .next (done (stopOne (takePopped s h) axis.toNat) h 0x0804 [])) ∧
  (∀ s h (axis : BitVec 8), Accepted s (.axisStopHold h axis) → axis ≠ 0xFF → (axisRec? s axis.toNat).isSome = true →
    exec (.axisStopHold h axis) s =
      .next (done (axisFailed (freezeAxis (takePopped s h) axis.toNat) axis.toNat 0x0018) h 0x0804 [])) ∧
  (∀ s h, Accepted s (.axisStopDecelerate h 0xFF) → exec (.axisStopDecelerate h 0xFF) s = .next (done
    (((List.range (2 * s.part.dies)).filter (fun a => (axisRec? s a).isSome)).foldl stopOne (takePopped s h)) h 0x0804 [])) ∧
  (∀ s h, Accepted s (.axisStopHold h 0xFF) → exec (.axisStopHold h 0xFF) s = .next (done
    (((List.range (2 * s.part.dies)).filter (fun a => (axisRec? s a).isSome)).foldl (fun s a => axisFailed (freezeAxis s a) a 0x0018)
      (takePopped s h)) h 0x0804 [])) ∧
  (∀ s h (axis : BitVec 8), axis ≠ 0xFF → axisRec? s axis.toNat = none →
    (Accepted s (.axisStopDecelerate h axis) → exec (.axisStopDecelerate h axis) s = .next (complete (takePopped s h) h 0x0804 0x0014 [])) ∧
    (Accepted s (.axisStopHold h axis) → exec (.axisStopHold h axis) s = .next (complete (takePopped s h) h 0x0804 0x0014 []))) ∧
  (∀ (s : State) a r, axisRec? s a = some r → (axisAt s a).moving = true →
    axisAt (stopOne s a) a = { axisAt s a with st := .stopping, goal := .stop, prof := r.stopProf, target := brakeAt r (axisAt s a) r.stopProf,
                                               group := none }) ∧
  (∀ (s : State) a, (axisAt s a).moving = false → (axisAt s a).st ≠ .stalled → axisAt (stopOne s a) a = { axisAt s a with group := none }) ∧
  (∀ (s : State) a, (axisAt s a).st ≠ .off → (axisAt s a).st ≠ .fenced →
    axisAt (freezeAxis s a) a = { axisAt s a with st := .hold, goal := .none, vel := 0, acc := 0, target := (axisAt s a).pos, referenced := false,
                                                  repeat_ := none, repeating := false, restTick := s.tb }) ∧
  (∀ (s : State) a, ((axisAt s a).st = .off ∨ (axisAt s a).st = .fenced) →
    axisAt (freezeAxis s a) a = { axisAt s a with referenced := false }) ∧
  (∀ (s : State) a h op, s.parked.find? (Parked.isAxis a) = some (.axis h a op) →
    cancelled s a = complete { s with parked := s.parked.eraseP (Parked.isAxis a) } h op 0x0018 []) ∧
  (∀ (s : State) a, s.parked.find? (Parked.isAxis a) = none → cancelled s a = s) ∧
  (∀ (s : State) a g, (axisAt s a).group = some g → (svcAt (axisFailed s a 0x0018) g).st = .failed ∧ (svcAt (axisFailed s a 0x0018) g).steps = [] ∧
    ∀ b, (axisAt (axisFailed s a 0x0018) b).group ≠ some g) ∧
  (∀ (s : State) a, (axisAt s a).group = none → axisFailed s a 0x0018 = cancelled s a)

/-- A service's group may start: no job covers it, it does not run, no axis of it homes, and the axes it needs are configured and not fenced. -/
def Sys2Proof.Claims.svcReady (u : State) (g : Nat) (r : SvcRec) (need : List Nat) : Bool :=
  !groupCovered u g && (svcAt u g).st != .running && !r.axes.any (fun a => (axisAt u a).st == .homing) &&
    need.all (fun a => a != 0xFF && (axisRec? u a).isSome && (axisAt u a).st != .fenced)

/-- A service with its own steps `own` started: the commands of the axes it moves CANCELLED, its group RUNNING with its SERVICE code and its steps,
those of LIFT, CAP and WIPER that it moves homed first, its command parked, and the first steps run. -/
def Sys2Proof.Claims.started (u : State) (h : CmdHdr) (g code : Nat) (r : SvcRec) (own : List SvcStep) (e : GrpState) : State :=
  let moved := own.filterMap (fun st => match st with | .moveTo a _ _ => some a | _ => none)
  let steps := (([r.lift, r.cap, r.wiper].filter (fun a => moved.contains a)).map .homeAxis) ++ own
  runService (park (modSvc (moved.foldl (fun s a => cancelled s a) u) g
    (fun q => { q with st := .running, service := BitVec.ofNat 4 code, steps := steps, endState := e })) (.service h g)) g (steps.length + 1)

/-- A service command of group `group`, the lift services with any ARG. -/
def Sys2Proof.Claims.isSvcCmd (c : Instr) (h : CmdHdr) (group : BitVec 16) : Prop :=
  ∃ arg, c = .cap h group arg ∨ c = .uncap h group arg ∨ c = .wipe h group arg ∨ c = .spit h group arg ∨ c = .purge h group arg ∨
    c = .headLift h group arg

/-- R428, R429: the steps of each service from each state that it starts from: where the group is UNKNOWN or FAILED, for WIPE also CAPPED, the heads go up
and the cap is parked first; roles that move are homed if they lack their reference; then the service's own movements; and the state it ends in.
R425: a group covered by the open job completes JOB_ACTIVE, SPIT while any is open; one that runs or homes BUSY; one without a record, with a role
absent, unconfigured or fenced, or from another state STATE. -/
def Sys2Proof.Claims.ServicesStartTheirSteps : Prop :=
  (∀ s h (group : BitVec 16) arg r, Accepted s (.cap h group arg) →
    let u := risen s h
    let g := group.toNat
    svcRec? u g = some r → svcReady u g r [r.lift, r.cap] = true →
    exec (.cap h group arg) s = .next (started u h g 1 r ((if (svcAt u g).st = .unknown ∨ (svcAt u g).st = .failed then
        [.moveTo r.lift r.liftService r.liftProf, .moveTo r.cap r.capPark r.capProf] else []) ++
      [.moveTo r.lift r.liftService r.liftProf, .moveTo r.cap r.capOn r.capProf, .moveTo r.lift r.liftCap r.liftProf]) .capped)) ∧
  (∀ s h (group : BitVec 16) arg r, Accepted s (.uncap h group arg) →
    let u := risen s h
    let g := group.toNat
    svcRec? u g = some r → svcReady u g r [r.lift, r.cap] = true →
    exec (.uncap h group arg) s = .next (started u h g 2 r [.moveTo r.lift r.liftService r.liftProf,
      .moveTo r.cap r.capPark r.capProf, .moveTo r.lift r.liftPrint r.liftProf] .print)) ∧
  (∀ s h (group : BitVec 16) (arg : BitVec 32) r, Accepted s (.wipe h group arg) →
    let u := risen s h
    let g := group.toNat
    let fromCap : Bool := (svcAt u g).st == .unknown || (svcAt u g).st == .failed || (svcAt u g).st == .capped
    svcRec? u g = some r → svcReady u g r ([r.lift, r.wiper] ++ (if fromCap then [r.cap] else [])) = true →
    exec (.wipe h group arg) s = .next (started u h g 3 r ((if fromCap then
        [.moveTo r.lift r.liftService r.liftProf, .moveTo r.cap r.capPark r.capProf] else []) ++
      (List.replicate (if arg = 0 then 1 else arg.toNat) [.moveTo r.lift r.liftWipe r.liftProf, .moveTo r.wiper r.wipeEnd r.wipeProf,
        .moveTo r.lift r.liftService r.liftProf, .moveTo r.wiper r.wipePark r.wipeRet]).flatten ++
      (if r.spitAfter then [.spit r.spitLines] else [])) .service)) ∧
  (∀ s h (group : BitVec 16) (arg : BitVec 32) r, Accepted s (.spit h group arg) →
    let u := risen s h
    let g := group.toNat
    svcRec? u g = some r → svcReady u g r [] = true → jobOpen u = false → ((svcAt u g).st = .capped ∨ (svcAt u g).st = .service) →
    exec (.spit h group arg) s = .next (started u h g 4 r [.spit (if arg = 0 then 1 else arg.toNat)] (svcAt u g).st)) ∧
  (∀ s h (group : BitVec 16) (arg : BitVec 32) r, Accepted s (.purge h group arg) →
    let u := risen s h
    let g := group.toNat
    svcRec? u g = some r → svcReady u g r [r.pump] = true → (svcAt u g).st = .capped →
    exec (.purge h group arg) s = .next (started u h g 5 r [.zeroPump r.pump,
      .moveTo r.pump (((if arg = 0 then 1 else arg.toNat) * r.purgeSteps : Nat) : Int) r.pumpProf, .dwell] .capped)) ∧
  (∀ s h (group : BitVec 16) (arg : BitVec 32) r, Accepted s (.headLift h group arg) →
    let u := risen s h
    let g := group.toNat
    let unknown : Bool := (svcAt u g).st == .unknown
    svcRec? u g = some r → svcReady u g r ([r.lift] ++ (if unknown then [r.cap] else [])) = true →
    ((svcAt u g).st = .print ∨ (svcAt u g).st = .service ∨ unknown = true) →
    exec (.headLift h group arg) s = .next (started u h g 6 r ((if unknown then
        [.moveTo r.lift r.liftService r.liftProf, .moveTo r.cap r.capPark r.capProf] else []) ++
      [.moveTo r.lift (if arg = 0 then r.liftPrint else r.liftService) r.liftProf]) (if arg = 0 then .print else .service))) ∧
  (∀ s c h (group : BitVec 16), isSvcCmd c h group → Accepted s c → groupCovered (risen s h) group.toNat = true →
    exec c s = .next (complete (risen s h) h 0x0801 0x0008 [])) ∧
  (∀ s h (group : BitVec 16) arg, Accepted s (.spit h group arg) → jobOpen (risen s h) = true →
    exec (.spit h group arg) s = .next (complete (risen s h) h 0x0801 0x0008 [])) ∧
  (∀ s c h (group : BitVec 16) r, isSvcCmd c h group → Accepted s c → jobOpen s = false → svcRec? (risen s h) group.toNat = some r →
    ((svcAt (risen s h) group.toNat).st = .running ∨ r.axes.any (fun a => (axisAt (risen s h) a).st == .homing) = true) →
    exec c s = .next (complete (risen s h) h 0x0801 0x000A [])) ∧
  (∀ s c h (group : BitVec 16), isSvcCmd c h group → Accepted s c → jobOpen s = false → svcRec? (risen s h) group.toNat = none →
    exec c s = .next (complete (risen s h) h 0x0801 0x0014 [])) ∧
  (∀ s h (group : BitVec 16) arg r, Accepted s (.purge h group arg) → svcRec? (risen s h) group.toNat = some r →
    svcReady (risen s h) group.toNat r [] = true → ((svcAt (risen s h) group.toNat).st ≠ .capped ∨ r.pump = 0xFF) →
    exec (.purge h group arg) s = .next (complete (risen s h) h 0x0801 0x0014 []))

/-- R420, R428-R430: a service waits while the axis of its step homes or moves, passes over a step already done, and, all steps done, ends: its group takes
its end state, its DONE count rises and its command completes OK. A move toward an active limit ends it with STATE. The pump's step counts from 0; a
spit takes the links of its channels out of idle, gives each channel the LINE_BASE of line 0 and makes line 0 ready. The dwell of a purge ends
with its timer. -/
def Sys2Proof.Claims.ServiceStepsRun : Prop :=
  (∀ s g r n a tg p rest ar, svcRec? s g = some r → (svcAt s g).steps = .moveTo a tg p :: rest → axisRec? s a = some ar →
    (axisAt s a).moving = false → (axisAt s a).pos ≠ tg * 2 ^ 64 → limitBlocks (axisAt s a) tg = false →
    let t := runService s g (n + 1)
    t = { s with axes := t.axes } ∧ (axisAt t a).st = .move ∧ (axisAt t a).target = tg * 2 ^ 64 ∧ (axisAt t a).prof = p ∧
      (axisAt t a).group = some g) ∧
  (∀ s g r n a tg p rest, svcRec? s g = some r → (svcAt s g).steps = .moveTo a tg p :: rest → (axisAt s a).moving = false →
    (axisAt s a).pos = tg * 2 ^ 64 → runService s g (n + 1) = runService (modSvc s g (fun q => { q with steps := rest })) g n) ∧
  (∀ s g r n a tg p rest, svcRec? s g = some r → (svcAt s g).steps = .moveTo a tg p :: rest → (axisAt s a).pos ≠ tg * 2 ^ 64 →
    limitBlocks (axisAt s a) tg = true → runService s g (n + 1) = endService s g 0x0014 .failed) ∧
  (∀ s g r n a rest ar, svcRec? s g = some r → (svcAt s g).steps = .homeAxis a :: rest → axisRec? s a = some ar →
    ((axisAt s a).referenced = true → runService s g (n + 1) = runService (modSvc s g (fun q => { q with steps := rest })) g n) ∧
    ((axisAt s a).referenced = false →
      let t := runService s g (n + 1)
      t = { s with axes := t.axes } ∧ (axisAt t a).st = .homing ∧ (axisAt t a).goal = (if ar.stopRef then .seek else .home 1) ∧
        (axisAt t a).group = some g)) ∧
  (∀ s g r n a rest, svcRec? s g = some r → (svcAt s g).steps = .zeroPump a :: rest →
    runService s g (n + 1) = runService (modSvc (modAxis s a (fun x => { x with pos := 0, target := 0, cnt := 0, encBase := 0 })) g
      (fun q => { q with steps := rest })) g n) ∧
  (∀ s g r n k rest, svcRec? s g = some r → (svcAt s g).steps = .spit k :: rest → runService s g (n + 1) = beginSpit s g r) ∧
  (∀ s g r n, svcRec? s g = some r → (svcAt s g).steps = [] →
    runService s g (n + 1) = endService (modSvc s g (fun q => { q with done := q.done + 1 })) g 0 (svcAt s g).endState) ∧
  (∀ s g h st e, s.parked.find? (Parked.isService g) = some (.service h g) →
    let t := endService s g st e
    t = complete { s with parked := s.parked.eraseP (Parked.isService g), svc := t.svc, axes := t.axes } h 0x0801 st [] ∧
      (svcAt t g).st = e ∧ (svcAt t g).steps = [] ∧ (svcAt t g).done = (svcAt s g).done ∧ ∀ b, (axisAt t b).group ≠ some g) ∧
  (∀ s g r h, svcRec? s g = some r → (svcAt s g).steps = [.dwell] → s.parked.find? (Parked.isService g) = some (.service h g) →
    Runs (.purgeDwellExpiry g) s (fun t =>
      t = done { s with parked := s.parked.eraseP (Parked.isService g), svc := t.svc, axes := t.axes } h 0x0801 [] ∧
      (svcAt t g).st = (svcAt s g).endState ∧ (svcAt t g).done = (svcAt s g).done + 1 ∧ (svcAt t g).steps = []))

/-- The channels of a group that are in service, in order. -/
def Sys2Proof.Claims.spitHeads (s : State) (r : SvcRec) : List Nat :=
  (r.heads.filter (fun h => !isFenced s (.head h))).mergeSort (fun a b => decide (a ≤ b))

/-- R430, R203: a spit tick, committed 256 ticks ahead, fires line k on the group's channels, the tick after it SPIT_PERIOD later, and moves on to
line k + 1, or, after the last, to the next step; a channel that lacks its line ends the service with STATE. -/
def Sys2Proof.Claims.SpitTicksRun : Prop :=
  (∀ s g n rest r, (svcAt s g).steps = .spit n :: rest → svcRec? s g = some r → (svcAt s g).spitLine + 1 < n →
    (spitHeads s r).all (fun h => !spitLacks s h (svcAt s g).spitLine) = true →
    Runs (.spitTick g) s (fun t => t.tb = max s.tb ((svcAt s g).spitAt - 256) ∧ (svcAt t g).spitLine = (svcAt s g).spitLine + 1 ∧
      (svcAt t g).spitAt = (svcAt s g).spitAt + r.period * 250 ∧ (svcAt t g).steps = .spit n :: rest ∧
      ∀ h, h ∈ spitHeads s r → ∀ l, l ∈ (headAt t h).lines → l.spit = true → l.line = (svcAt s g).spitLine → l.committed.isSome = true)) ∧
  (∀ s g n r h, (svcAt s g).steps = [.spit n] → svcRec? s g = some r → n ≤ (svcAt s g).spitLine + 1 →
    s.parked.find? (Parked.isService g) = some (.service h g) →
    (spitHeads s r).all (fun h => !spitLacks s h (svcAt s g).spitLine) = true →
    Runs (.spitTick g) s (fun t => (svcAt t g).st = (svcAt s g).endState ∧ (svcAt t g).done = (svcAt s g).done + 1 ∧ (svcAt t g).steps = [] ∧
      ∀ h, h ∈ spitHeads s r → ∀ l, l ∈ (headAt t h).lines → l.spit = true → l.line = (svcAt s g).spitLine → l.committed.isSome = true)) ∧
  (∀ s g n rest r, (svcAt s g).steps = .spit n :: rest → svcRec? s g = some r →
    (spitHeads s r).any (fun h => spitLacks s h (svcAt s g).spitLine) = true →
    Runs (.spitTick g) s (fun t => (svcAt t g).st = (svcAt s g).endState ∧ (svcAt t g).steps = [] ∧ (svcAt t g).done = (svcAt s g).done))

/-- R410, R411, R415, R190: levels of A and B that have stood for 2 samples are taken, and one that changed moves the count by one, forward when A then
leads; a level held for less is none. HOLD_DELAY after rest the axis drops to IHOLD. A profile tick moves position, speed and acceleration by the profile
generator, the axis coming to rest at its target ending its command OK; it leaves every other axis and everything else as it was. -/
def Sys2Proof.Claims.AxisTicksAndCounts : Prop :=
  (∀ s a la lb n, Runs (.axisEncoderCount a la lb n) s (fun t => t = { s with axes := t.axes } ∧
    axisAt t a = (let x := axisAt s a
      if n < 2 ∨ (la = x.encA ∧ lb = x.encB) then x
      else { x with encA := la, encB := lb, cnt := x.cnt + (if la ≠ x.encA ∧ lb ≠ x.encB then 0
        else if la ≠ x.encA then (if la ≠ lb then 1 else -1) else (if la = lb then 1 else -1)) }) ∧
    ∀ b, b ≠ a → axisAt t b = axisAt s b)) ∧
  (∀ s a r, axisRec? s a = some r → (axisAt s a).st = .hold → (axisAt s a).vel = 0 → (axisAt s a).holdLow = false →
    Runs (.holdDelayExpiry a) s (fun t =>
      t = { s with axes := t.axes, tb := max s.tb ((axisAt s a).restTick + r.holdDelay * 250000) } ∧
      axisAt t a = { axisAt s a with holdLow := true } ∧ ∀ b, b ≠ a → axisAt t b = axisAt s b)) ∧
  (∀ s a r, axisRec? s a = some r → (axisAt s a).st = .move → (axisAt s a).goal = .target →
    let x := axisAt s a
    let p := r.profs.getD x.prof (1, 1, 1)
    let n := profStep x.pos x.vel x.acc x.target (max 1 (velU p.1)) (max 1 (accU p.2.1)) (jerkU p.2.2)
    ¬(n.1 = x.target ∧ n.2.1 = 0) →
    Runs (.profileTick a) s (fun t => t = { s with axes := t.axes } ∧ (axisAt t a).pos = n.1 ∧ (axisAt t a).vel = n.2.1 ∧
      (axisAt t a).acc = n.2.2 ∧ (axisAt t a).st = .move ∧ (axisAt t a).target = x.target ∧ (axisAt t a).en = true ∧
      (x.en = false → (axisAt t a).dutyA = x.dutyA ∧ (axisAt t a).dutyB = x.dutyB) ∧ ∀ b, b ≠ a → axisAt t b = axisAt s b)) ∧
  (∀ s a r h op, axisRec? s a = some r → (axisAt s a).st = .move → (axisAt s a).goal = .target → (axisAt s a).group = none →
    s.parked.find? (Parked.isAxis a) = some (.axis h a op) →
    let x := axisAt s a
    let p := r.profs.getD x.prof (1, 1, 1)
    let n := profStep x.pos x.vel x.acc x.target (max 1 (velU p.1)) (max 1 (accU p.2.1)) (jerkU p.2.2)
    (n.1 = x.target ∧ n.2.1 = 0) →
    Runs (.profileTick a) s (fun t => t = done { s with axes := t.axes, parked := s.parked.eraseP (Parked.isAxis a) } h op [] ∧
      (axisAt t a).pos = x.target ∧ (axisAt t a).vel = 0 ∧ (axisAt t a).st = .hold ∧ (axisAt t a).restTick = s.tb ∧
      ∀ b, b ≠ a → axisAt t b = axisAt s b))

/-- A limit stop's log entry: LIMIT of the axis with its position and the side. -/
def Sys2Proof.Claims.limitLogged (s : State) (a : Nat) (plus : Bool) : State :=
  logEv s (a / 2) 0x0050 (unitData 6 0 a 0 0 (intLE 4 (axisAt s a).posReg ++ [if plus then 1 else 0]))

/-- R412, R420, R421: a level of HOME or a limit stable for DEBOUNCE is taken with the record's polarity, an earlier one is not; HOME ends phase 1 of a
homing. A limit that becomes active in the direction of travel stops the axis, counts and logs the stop, and ends what it worked for with STATE. More than
8 sampled transitions within DEBOUNCE are chatter, and the axis is frozen and fenced. -/
def Sys2Proof.Claims.AxisInputsTakeEffect : Prop :=
  (∀ s a sw level n r, axisRec? s a = some r → n < r.debounce → exec (.switchInput a sw level n) s = .next s) ∧
  (∀ s a level n r, axisRec? s a = some r → r.debounce ≤ n → (∀ k, (axisAt s a).goal ≠ .home k) →
    Runs (.switchInput a .home level n) s (fun t => t = { s with axes := t.axes } ∧
      axisAt t a = { axisAt s a with home := (level != r.homeLow) } ∧ ∀ b, b ≠ a → axisAt t b = axisAt s b)) ∧
  (∀ s a level n r, axisRec? s a = some r → r.debounce ≤ n → (axisAt s a).st = .homing → (axisAt s a).goal = .home 1 → (axisAt s a).home = false →
    (level != r.homeLow) = true →
    Runs (.switchInput a .home level n) s (fun t => t = { s with axes := t.axes } ∧
      axisAt t a = { axisAt s a with home := true, homeSeen := true, goal := .home 11, prof := r.stopProf,
                                     target := brakeAt r (axisAt s a) r.stopProf } ∧ ∀ b, b ≠ a → axisAt t b = axisAt s b)) ∧
  (∀ s a level n r, axisRec? s a = some r → r.debounce ≤ n → (axisAt s a).moving = false →
    Runs (.switchInput a .limP level n) s (fun t => t = { s with axes := t.axes } ∧
      axisAt t a = { axisAt s a with limP := (level != r.limLow) } ∧ ∀ b, b ≠ a → axisAt t b = axisAt s b) ∧
    Runs (.switchInput a .limN level n) s (fun t => t = { s with axes := t.axes } ∧
      axisAt t a = { axisAt s a with limN := (level != r.limLow) } ∧ ∀ b, b ≠ a → axisAt t b = axisAt s b)) ∧
  (∀ s a level n r, axisRec? s a = some r → r.debounce ≤ n → (axisAt s a).st = .move → (axisAt s a).goal = .target →
    (level != r.limLow) = true →
    let x := axisAt s a
    let y := { x with st := AxisState.stopping, goal := AxisGoal.stop, prof := r.stopProf, limits := satInc x.limits, target := brakeAt r x r.stopProf }
    (0 < x.vel → x.limP = false → Runs (.switchInput a .limP level n) s (fun t =>
      ∃ u, u = { limitLogged s a true with axes := u.axes } ∧ axisAt u a = { y with limP := true } ∧ (∀ b, b ≠ a → axisAt u b = axisAt s b) ∧
        t = axisFailed u a 0x0014)) ∧
    (x.vel < 0 → x.limN = false → Runs (.switchInput a .limN level n) s (fun t =>
      ∃ u, u = { limitLogged s a false with axes := u.axes } ∧ axisAt u a = { y with limN := true } ∧ (∀ b, b ≠ a → axisAt u b = axisAt s b) ∧
        t = axisFailed u a 0x0014))) ∧
  (∀ s a sw r, axisRec? s a = some r → isFenced s (.axis a) = false →
    let ts := (axisAt s a).trans.filter (fun p => decide (s.tb - p.2 ≤ r.debounce * 250)) ++ [(switchCode sw, s.tb)]
    (ts.filter (fun p => p.1 == switchCode sw)).length ≤ 8 →
    Runs (.sampledTransition a sw) s (fun t => t = { s with axes := t.axes } ∧ axisAt t a = { axisAt s a with trans := ts } ∧
      ∀ b, b ≠ a → axisAt t b = axisAt s b)) ∧
  (∀ s a sw r, axisRec? s a = some r → isFenced s (.axis a) = false →
    let ts := (axisAt s a).trans.filter (fun p => decide (s.tb - p.2 ≤ r.debounce * 250)) ++ [(switchCode sw, s.tb)]
    8 < (ts.filter (fun p => p.1 == switchCode sw)).length →
    Runs (.sampledTransition a sw) s (fun t => (axisAt t a).st = .fenced ∧ (axisAt t a).referenced = false ∧ (axisAt t a).vel = 0 ∧
      (fenceOf t (.axis a)).st = .fenced ∧ (fenceOf t (.axis a)).reason = 4 ∧ (∀ g, axisGroup? s a = some g → (svcAt t g).st = .failed) ∧
      ((axisAt s a).group = none → axisGroup? s a = none → s.parked.find? (Parked.isAxis a) = none →
        t = { s with axes := t.axes, fences := t.fences, evqs := t.evqs })))

/-- R419, R422: a stall leaves the axis STALLED at its encoder position, counted, with the interrupted move to repeat once; 50 ms later that move
begins again. A second stall, in the repeat or within AXIS_WIN, is permanent: the axis is fenced with reason REPEATED. On a hard-stop reference the stall is
the reference: the axis backs off from HOME_POS. -/
def Obligations.StallsAndRepeats : Prop :=
  (∀ s a r, axisRec? s a = some r → (axisAt s a).st = .move → (axisAt s a).goal = .target → r.ratio ≠ 0 → r.stallTime ≤ (axisAt s a).overTicks →
    (axisAt s a).repeating = false → faultRepeats s (.axis a) s.tb ((integ s).axisWin * secTicks) = false →
    let x := axisAt s a
    Runs (.stall a) s (fun t => t = { s with axes := t.axes, fences := t.fences } ∧
      axisAt t a = { x with pos := x.encPos r * 2 ^ 64, vel := 0, acc := 0, target := x.encPos r * 2 ^ 64, st := .stalled, stallFlag := true,
                            stalls := satInc x.stalls, overTicks := 0, goal := .none, repeat_ := some (x.target, x.prof) } ∧
      (fenceOf t (.axis a)).faults = satInc (fenceOf s (.axis a)).faults ∧ (fenceOf t (.axis a)).last = some s.tb)) ∧
  (∀ s a r, axisRec? s a = some r → (axisAt s a).moving = true → (axisAt s a).goal ≠ .seek → r.ratio ≠ 0 → r.stallTime ≤ (axisAt s a).overTicks →
    isFenced s (.axis a) = false →
    ((axisAt s a).repeating = true ∨ faultRepeats s (.axis a) s.tb ((integ s).axisWin * secTicks) = true) →
    Runs (.stall a) s (fun t => (axisAt t a).st = .fenced ∧ (axisAt t a).referenced = false ∧ (axisAt t a).vel = 0 ∧
      (axisAt t a).stalls = satInc (axisAt s a).stalls ∧ (fenceOf t (.axis a)).st = .fenced ∧ (fenceOf t (.axis a)).reason = 1)) ∧
  (∀ s a r, axisRec? s a = some r → (axisAt s a).st = .homing → (axisAt s a).goal = .seek → r.ratio ≠ 0 →
    r.stallTime ≤ (axisAt s a).overTicks →
    Runs (.stall a) s (fun t => t = { s with axes := t.axes } ∧ (axisAt t a).pos = r.refPos * 2 ^ 64 ∧ (axisAt t a).goal = .backoff ∧
      (axisAt t a).target = (r.refPos - (if r.homePos then 1 else -1) * r.backoff) * 2 ^ 64)) ∧
  (∀ s a tg p, (axisAt s a).st = .stalled → (axisAt s a).repeat_ = some (tg, p) →
    Runs (.stallRepeat a) s (fun t => t = { s with axes := t.axes } ∧
      axisAt t a = { axisAt s a with st := .move, goal := .target, target := tg, prof := p, repeat_ := none, repeating := true,
                                     holdLow := false } ∧ ∀ b, b ≠ a → axisAt t b = axisAt s b))

/-! ### Command rings and mailboxes (R363-R371, R379) -/

/-- A host register access to a die arrives (R350, R351, R357). -/
def Sys2Proof.Claims.arrives (s : State) (d : Nat) : Bool := hostUp s && dieReach s d

/-- R365, R367-R369: a tail below the ring's size that stays behind the head is taken; one beyond the size, or that would pass the head (the model's reading,
assumption 15), sets ERR DOORBELL; a head within what was posted releases its slots, and sends the vector again while posted entries remain; one beyond
sets ERR DOORBELL; neither does anything while ENABLE is 0. -/
def Sys2Proof.Claims.DoorbellsMovePointers : Prop :=
  (∀ s c (v : BitVec 32), arrives s 0 = true → c < 4 → (sqAt s c).enable = true →
    let n := ringSize (sqAt s c).log2
    let tl := (v.extractLsb' 0 16).toNat
    tl < n → ringDist n (sqAt s c).head.toNat (sqAt s c).tail.toNat + ringDist n (sqAt s c).tail.toNat tl < n →
    Runs (.sqTailDoorbell c v) s (fun t => t = { s with sqs := t.sqs } ∧ sqAt t c = { sqAt s c with tail := v.extractLsb' 0 16 } ∧
      ∀ k, k ≠ c → sqAt t k = sqAt s k)) ∧
  (∀ s c (v : BitVec 32), arrives s 0 = true → c < 4 → (sqAt s c).enable = true →
    let n := ringSize (sqAt s c).log2
    let tl := (v.extractLsb' 0 16).toNat
    (n ≤ tl ∨ n ≤ ringDist n (sqAt s c).head.toNat (sqAt s c).tail.toNat + ringDist n (sqAt s c).tail.toNat tl) →
    Runs (.sqTailDoorbell c v) s (fun t => t = { s with sqs := t.sqs } ∧ sqAt t c = { sqAt s c with err := (sqAt s c).err ||| 1 } ∧
      ∀ k, k ≠ c → sqAt t k = sqAt s k)) ∧
  (∀ s c (v : BitVec 32), c < 4 → (sqAt s c).enable = false → exec (.sqTailDoorbell c v) s = .next s) ∧
  (∀ s c (v : BitVec 32), arrives s 0 = true → c < 4 → (cqAt s c).enable = true → v.extractLsb' 0 16 = (cqAt s c).tail →
    (cqAt s c).tail.toNat < ringSize (cqAt s c).log2 →
    Runs (.cqHeadDoorbell c v) s (fun t => t = { s with cqs := t.cqs } ∧ cqAt t c = { cqAt s c with head := (cqAt s c).tail } ∧
      ∀ k, k ≠ c → cqAt t k = cqAt s k)) ∧
  (∀ s c (v : BitVec 32), arrives s 0 = true → c < 4 → (cqAt s c).enable = true → v.extractLsb' 0 16 ≠ (cqAt s c).tail →
    let n := ringSize (cqAt s c).log2
    let hd := (v.extractLsb' 0 16).toNat
    hd < n → ringDist n (cqAt s c).head.toNat hd ≤ ringDist n (cqAt s c).head.toNat (cqAt s c).tail.toNat →
    Runs (.cqHeadDoorbell c v) s (fun t => t = msix { s with cqs := t.cqs } c ∧
      cqAt t c = { cqAt s c with head := v.extractLsb' 0 16, unsignalled := 0 } ∧ ∀ k, k ≠ c → cqAt t k = cqAt s k)) ∧
  (∀ s c (v : BitVec 32), arrives s 0 = true → c < 4 → (cqAt s c).enable = true →
    let n := ringSize (cqAt s c).log2
    let hd := (v.extractLsb' 0 16).toNat
    (n ≤ hd ∨ ringDist n (cqAt s c).head.toNat (cqAt s c).tail.toNat < ringDist n (cqAt s c).head.toNat hd) →
    Runs (.cqHeadDoorbell c v) s (fun t => t = { s with cqs := t.cqs } ∧ cqAt t c = { cqAt s c with err := (cqAt s c).err ||| 1 } ∧
      ∀ k, k ≠ c → cqAt t k = cqAt s k)) ∧
  (∀ s c (v : BitVec 32), c < 4 → (cqAt s c).enable = false → exec (.cqHeadDoorbell c v) s = .next s)

/-- R364, R368, R379: setting ENABLE clears head and tail (and sets the phase of a completion ring to 1) and starts a stopped ring; clearing it stops
fetching, a fetch under way giving up its reserved slot, or lets results wait; the REPORTs fetched from a disabled submission ring complete CANCELLED, and
results that waited for a completion ring are posted, oldest first, when it is enabled. Setting what is set changes nothing. -/
def Sys2Proof.Claims.RingsEnableAndDisable : Prop :=
  (∀ s c, arrives s 0 = true → c < 4 → (sqAt s c).enable = false →
    Runs (.sqEnable c) s (fun t => t = { s with sqs := t.sqs } ∧
      sqAt t c = { sqAt s c with enable := true, stopped := false, head := 0, tail := 0 } ∧ ∀ k, k ≠ c → sqAt t k = sqAt s k)) ∧
  (∀ s c, arrives s 0 = true → c < 4 → (sqAt s c).enable = true →
    Runs (.sqDisable c) s (fun t => ∃ u : State, u = { s with sqs := u.sqs, cqs := u.cqs, parked := s.parked.filter (fun p => !p.isReportOf c) } ∧
      sqAt u c = { sqAt s c with enable := false, fetching := false,
                                 outstanding := if (sqAt s c).fetching then (sqAt s c).outstanding - 1 else (sqAt s c).outstanding } ∧
      cqAt u c = { cqAt s c with owed := if (sqAt s c).fetching then (cqAt s c).owed - 1 else (cqAt s c).owed } ∧
      (∀ k, k ≠ c → sqAt u k = sqAt s k ∧ cqAt u k = cqAt s k) ∧
      t = (s.parked.filter (Parked.isReportOf c)).foldl (fun v p => match p with
        | .report h => complete v h 0x0208 0x0018 []
        | _ => v) u)) ∧
  (∀ s c, arrives s 0 = true → c < 4 → (sqAt s c).enable = true → exec (.sqEnable c) s = .next s) ∧
  (∀ s c, arrives s 0 = true → c < 4 → (sqAt s c).enable = false → exec (.sqDisable c) s = .next s) ∧
  (∀ s c, arrives s 0 = true → c < 4 → (cqAt s c).enable = true → exec (.cqEnable c) s = .next s) ∧
  (∀ s c, arrives s 0 = true → c < 4 → (cqAt s c).enable = false →
    Runs (.cqEnable c) s (fun t => ∃ u : State, u = { s with cqs := u.cqs } ∧
      cqAt u c = { cqAt s c with enable := true, stopped := false, head := 0, tail := 0, phase := true, held := [] } ∧
      (∀ k, k ≠ c → cqAt u k = cqAt s k) ∧ t = (cqAt s c).held.foldl (fun v e => postCq v c e) u)) ∧
  (∀ s c, arrives s 0 = true → c < 4 → (cqAt s c).enable = false → (cqAt s c).held = [] →
    Runs (.cqEnable c) s (fun t => t = { s with cqs := t.cqs } ∧
      cqAt t c = { cqAt s c with enable := true, stopped := false, head := 0, tail := 0, phase := true } ∧
      ∀ k, k ≠ c → cqAt t k = cqAt s k)) ∧
  (∀ s c, arrives s 0 = true → c < 4 →
    Runs (.cqDisable c) s (fun t => t = { s with cqs := t.cqs } ∧ cqAt t c = { cqAt s c with enable := false } ∧
      ∀ k, k ≠ c → cqAt t k = cqAt s k))

/-- R365, R366, R368, R299: an entry is fetched only from an enabled, running ring with a new entry, room in its class and a completion slot, which
is then owed; a good read queues the entry and moves HEAD on around the ring; a failed read stops the ring with ERR FETCH. R369: COAL_TIME after a posting not
yet signalled, its vector is sent. -/
def Obligations.EntriesAreFetched : Prop :=
  (∀ s c, c < 4 → hostUp s = true → (sqAt s c).enable = true → (sqAt s c).stopped = false → (sqAt s c).fetching = false →
    (sqAt s c).head ≠ (sqAt s c).tail → classRoom s c = true → cqRoom s c = true →
    Runs (.sqFetch c) s (fun t => t = { s with sqs := t.sqs, cqs := t.cqs, out := .fetch c (sqAt s c).head.toNat :: s.out } ∧
      sqAt t c = { sqAt s c with fetching := true, outstanding := (sqAt s c).outstanding + 1 } ∧
      cqAt t c = { cqAt s c with owed := (cqAt s c).owed + 1 })) ∧
  (∀ s c, (classRoom s c = false ∨ cqRoom s c = false ∨ (sqAt s c).stopped = true) → exec (.sqFetch c) s = .next s) ∧
  (∀ s c, ((sqAt s c).head = (sqAt s c).tail ∨ (sqAt s c).enable = false ∨ (sqAt s c).fetching = true) → exec (.sqFetch c) s = .next s) ∧
  (∀ s c r, (sqAt s c).fetching = false → exec (.sqFetchComplete c r) s = .next s) ∧
  (∀ s c bytes, (sqAt s c).fetching = true → bytes.length = 64 →
    Runs (.sqFetchComplete c (.data bytes)) s (fun t => t = { s with sqs := t.sqs, cmdq := s.cmdq ++ [⟨.ring c, bytes⟩] } ∧
      (sqAt t c).fetching = false ∧ (sqAt t c).head.toNat = ((sqAt s c).head.toNat + 1) % ringSize (sqAt s c).log2)) ∧
  (∀ s c r, (sqAt s c).fetching = true → (match r with | .data _ => false | _ => true) = true →
    Runs (.sqFetchComplete c r) s (fun t => t = { s with sqs := t.sqs, cqs := t.cqs } ∧ (sqAt t c).stopped = true ∧
      (sqAt t c).fetching = false ∧ (sqAt t c).err = (sqAt s c).err ||| 2 ∧ (sqAt t c).head = (sqAt s c).head ∧
      (cqAt t c).owed = (cqAt s c).owed - 1)) ∧
  (∀ s c, c < 4 → (cqAt s c).unsignalled ≠ 0 → (cqAt s c).coalTime ≠ 0 →
    Runs (.cqCoalesceTimer c) s (fun t => t = msix { s with cqs := t.cqs } c ∧ cqAt t c = { cqAt s c with unsignalled := 0 } ∧
      ∀ k, k ≠ c → cqAt t k = cqAt s k)) ∧
  (∀ s c, ((cqAt s c).unsignalled = 0 ∨ (cqAt s c).coalTime = 0) → exec (.cqCoalesceTimer c) s = .next s) ∧
  (∀ s v, s.pcie.d3hot = false → s.pcie.linkUp = true → vecOpen s v = true → msix s v = { s with out := .msix v :: s.out })

/-- R370: GO of an IDLE mailbox queues its entry and makes it BUSY, ACK of a DONE one makes it IDLE; either out of turn only sets IGN. -/
def Obligations.MailboxGoAndAck : Prop :=
  (∀ s, arrives s 0 = true → s.mbox.state = 0 →
    exec .mbGo s = .next { s with mbox := { s.mbox with state := 1 },
                                  cmdq := s.cmdq ++ [⟨.mailbox, (s.mbox.entry ++ List.replicate 64 0).take 64⟩] }) ∧
  (∀ s, arrives s 0 = true → s.mbox.state ≠ 0 → exec .mbGo s = .next { s with mbox := { s.mbox with ign := true } }) ∧
  (∀ s, arrives s 0 = true → s.mbox.state = 2 →
    exec .mbAck s = .next { s with mbox := { s.mbox with state := 0, status := 0, data := [] } }) ∧
  (∀ s, arrives s 0 = true → s.mbox.state ≠ 2 → exec .mbAck s = .next { s with mbox := { s.mbox with ign := true } })

/-! ### Side-band interfaces (R450) -/

/-- What a 20-byte IDENTIFY result holds. -/
def Sys2Proof.Claims.identifyBytes (s : State) : List Byte :=
  natLE 1 s.part.dies ++ [s.part.stepping, s.part.romRelease, s.part.grade] ++ natLE 2 s.boot.level.toNat ++
    natLE 2 (256 * s.dia.pinSlot.toNat + (if s.dia.valid then 16 else 0) + s.dia.active.toNat) ++ natLE 8 s.part.serial.toNat ++
    [if s.cal.uncal then 1 else 0] ++ [0, 0, 0]

/-- R450: the SMBus codes 0x10, 0x12, 0x01, 0x02 and 0x11 and the Alert Response, each answered with its byte count and a PEC; a write whose PEC is wrong
has no effect (the model's choice, assumption 25). -/
def Sys2Proof.Claims.SmbusCodes : Prop :=
  (∀ s entry p, sideUp s = true → s.smb.state = 0 → entry.length = 64 → pecOk s (0x10 :: natLE 1 entry.length ++ entry) p = true →
    exec (.smbSubmit entry p) s = .next { s with smb := { s.smb with entry := entry, state := 1 }, cmdq := s.cmdq ++ [⟨.smbus, entry⟩] }) ∧
  (∀ s entry p, sideUp s = true → s.smb.state ≠ 0 → pecOk s (0x10 :: natLE 1 entry.length ++ entry) p = true →
    exec (.smbSubmit entry p) s = .next { s with smb := { s.smb with ign := true } }) ∧
  (∀ s p, sideUp s = true → s.smb.state = 2 → pecOk s [0x12] p = true →
    exec (.smbAck p) s = .next { s with smb := { s.smb with state := 0, status := 0, data := [] } }) ∧
  (∀ s p, sideUp s = true → s.smb.state ≠ 2 → pecOk s [0x12] p = true →
    exec (.smbAck p) s = .next { s with smb := { s.smb with ign := true } }) ∧
  (∀ s entry p, (pecOk s (0x10 :: natLE 1 entry.length ++ entry) p = false → exec (.smbSubmit entry p) s = .next s) ∧
    (pecOk s [0x12] p = false → exec (.smbAck p) s = .next s)) ∧
  (∀ s data, pecOk s data none = true) ∧
  (∀ s, sideUp s = true → ∃ p, exec .smbIdentifyRead s = .next { s with out := .smbData (20 :: identifyBytes s ++ [p]) :: s.out }) ∧
  (∀ s, sideUp s = true → s.part.dies ≤ 8 →
    let bs := (List.range s.part.dies).flatMap (fun d => natLE 2 (BitVec.ofInt 16 (topTemp s d)).toNat ++
      [(if (mgtAt s d).warn then 1 else 0) + (if isFenced s (.die d) then 2 else 0)])
    ∃ p, exec .smbTempRead s = .next { s with out := .smbData (natLE 1 (3 * s.part.dies) ++ bs ++ [p]) :: s.out }) ∧
  (∀ s, sideUp s = true → ∃ p, exec .smbResultRead s =
    .next { s with out := .smbData (35 :: natLE 1 s.smb.state.toNat ++ natLE 2 s.smb.status.toNat ++ (s.smb.data ++ List.replicate 32 0).take 32 ++ [p]) :: s.out }) ∧
  (∀ s, sideUp s = true → smbAlert s = true → ∃ p, exec .smbAlertResponse s =
    .next { s with out := .smbData [BitVec.ofNat 8 (2 * (0x58 + s.power.smbAddr.toNat)), p] :: s.out }) ∧
  (∀ s, smbAlert s = false → exec .smbAlertResponse s = .next s) ∧
  (∀ s, smbAlert s = true ↔ ∃ d, d < s.part.dies ∧ ((mgtAt s d).warn = true ∨ (mgtAt s d).trip = true))

/-- R450: a good UART SUBMIT frame queues its entry and a good ACK releases the result, out of turn setting IGN; a frame that fails its check is answered NAK. An EVENT entry
that waited 10 ms is discarded, and one waits only while another frame is being sent. -/
def Sys2Proof.Claims.UartFrames : Prop :=
  (∀ s frame, sideUp s = true → uartGood frame 0x01 64 = true → s.uartMb.state = 0 → exec (.uartSubmit frame) s =
    .next { s with uartMb := { s.uartMb with entry := slice frame 4 64, state := 1 }, cmdq := s.cmdq ++ [⟨.uart, slice frame 4 64⟩] }) ∧
  (∀ s frame, sideUp s = true → uartGood frame 0x01 64 = false → Runs (.uartSubmit frame) s (fun t =>
    t = { s with out := .uart (uartFrame 0x83 []) :: s.out, log := { s.log with uartFrames := s.log.uartFrames + 1 } })) ∧
  (∀ s frame, sideUp s = true → uartGood frame 0x02 0 = false → Runs (.uartAck frame) s (fun t =>
    t = { s with out := .uart (uartFrame 0x83 []) :: s.out, log := { s.log with uartFrames := s.log.uartFrames + 1 } })) ∧
  (∀ s frame, sideUp s = true → uartGood frame 0x01 64 = true → s.uartMb.state ≠ 0 →
    exec (.uartSubmit frame) s = .next { s with uartMb := { s.uartMb with ign := true } }) ∧
  (∀ s frame, sideUp s = true → uartGood frame 0x02 0 = true → s.uartMb.state ≠ 2 →
    exec (.uartAck frame) s = .next { s with uartMb := { s.uartMb with ign := true } }) ∧
  (∀ s frame, sideUp s = true → uartGood frame 0x02 0 = true → s.uartMb.state = 2 → exec (.uartAck frame) s =
    .next { s with uartMb := { s.uartMb with state := 0, status := 0, data := [] } }) ∧
  (∀ s x xs, s.log.uartWait = x :: xs → exec .uartEventDiscard s =
    .next { s with log := { s.log with uartWait := xs }, tb := max s.tb (x.e.time.toNat + 2500000) }) ∧
  (∀ s, s.log.uartWait = [] → exec .uartEventDiscard s = .next s) ∧
  (∀ s x xs, s.log.uartWait = x :: xs → s.log.uartFrames ≤ 1 → exec .uartFrameSent s =
    .next { s with out := .uart (uartFrame 0x82 x.bytes) :: s.out, log := { s.log with uartWait := xs, uartFrames := 1 } }) ∧
  (∀ s, s.log.uartWait = [] → exec .uartFrameSent s = .next { s with log := { s.log with uartFrames := s.log.uartFrames - 1 } }) ∧
  (∀ s, 1 < s.log.uartFrames → exec .uartFrameSent s = .next { s with log := { s.log with uartFrames := s.log.uartFrames - 1 } })

/-- R450, R475: the TAPs of all dies step together at a rising edge. With TMS high five of them from any state reach Test-Logic-Reset, where a falling edge
puts IDCODE in force; a data register captures what the instruction selects, IDCODE its 32 bits; shifting moves the chain on by one bit from TDI toward
TDO, which changes on a falling edge; TRST# resets every TAP and nothing else. -/
def Sys2Proof.Claims.JtagChain : Prop :=
  (∀ s tdi balls, sideUp s = true → ∀ tms, Runs (.tckEdge true tms tdi balls) s (fun t => t = { s with taps := t.taps } ∧
    ∀ d, d < s.part.dies → (tapAt t d).st = (tapAt s d).st.next tms ∧ (tapAt t d).ir = (tapAt s d).ir ∧ (tapAt t d).drive = (tapAt s d).drive)) ∧
  (∀ st : Tap, ((((st.next true).next true).next true).next true).next true = .reset) ∧
  (∀ s tms tdi balls d, sideUp s = true → d < s.part.dies → ((tapAt s d).st = .shDr ∨ (tapAt s d).st = .shIr) →
    Runs (.tckEdge true tms tdi balls) s (fun t => (tapAt t d).shift = (tapAt s d).shift.drop 1 ++
      [if d = 0 then tdi else (tapAt s (d - 1)).shift.headD false])) ∧
  (∀ s tms tdi balls d, sideUp s = true → d < s.part.dies → (tapAt s d).st = .capDr → Runs (.tckEdge true tms tdi balls) s (fun t =>
    ((tapAt s d).ir = .idcode → (tapAt t d).shift = (List.range 32).map (idcode s d).getLsbD) ∧
    ((tapAt s d).ir = .bypass → (tapAt t d).shift = [false]))) ∧
  (∀ s tms tdi balls, sideUp s = true → Runs (.tckEdge false tms tdi balls) s (fun t =>
    t = { s with taps := t.taps, out := t.out } ∧
    t.out = (if (tapAt s (s.part.dies - 1)).st = .shDr ∨ (tapAt s (s.part.dies - 1)).st = .shIr then
      .tdo ((tapAt t (s.part.dies - 1)).shift.headD false) :: s.out else s.out) ∧
    ∀ d, d < s.part.dies → (tapAt t d).st = (tapAt s d).st ∧ (tapAt t d).shift = (tapAt s d).shift ∧
      ((tapAt s d).st = .reset → (tapAt t d).ir = .idcode) ∧
      ((tapAt s d).st = .updDr → ((tapAt s d).ir = .samplePreload ∨ (tapAt s d).ir = .extest) → (tapAt t d).drive = (tapAt s d).shift))) ∧
  (∀ s, Runs .trst s (fun t => t = { s with taps := t.taps } ∧
    ∀ d, d < s.part.dies → (tapAt t d).st = .reset ∧ (tapAt t d).ir = .idcode))

/-! ### The host port and registers (R9, R348-R357) -/

/-- A request of configuration space. -/
def Sys2Proof.Claims.isConfigSpace : CfgReq → Bool
  | .read _ => true
  | .write _ _ _ => true
  | .msixControl _ _ => true
  | _ => false

/-- The endpoint answers configuration requests: it is powered and out of PERST#. -/
def Sys2Proof.Claims.configurable (s : State) : Prop := s.pcie.perst = false ∧ s.power.st ≠ .dormant ∧ s.power.porAsserted = false

/-- The part once its link has trained. -/
def Sys2Proof.Claims.linked (s : State) : State := { s with pcie := { s.pcie with linkUp := true } }

/-- R348, R350-R352, R354, R463: configuration requests are answered Retry until the power-up load ends and then with the header of a type 0 function: the
identification words, the class 0x0B4000 and the BARs of their sizes and types, which writes set above their sizes. MSI-X is enabled and masked as a whole,
and by its table; what pends and may be sent then is sent. D3hot holds results and messages, which go out on the return to D0, oldest first; a link-down only
takes the link. -/
def Obligations.PcieConfigurationAndPower : Prop :=
  (∀ s r, configurable s → s.pcie.retry = true → isConfigSpace r = true →
    ∃ reg, exec (.configRequest r) s = .next { linked s with out := .config reg none :: s.out } ∧ ∀ n, r = .read n → reg = n) ∧
  (∀ s, configurable s → s.pcie.retry = false →
    let rd (reg : Nat) (v : BitVec 32) : Prop := exec (.configRequest (.read reg)) s = .next { linked s with out := .config reg (some v) :: s.out }
    rd 0x00 (BitVec.ofNat 16 (0x8800 + s.part.dies) ++ Config.vendorId) ∧ rd 0x08 (0x0B4000#24 ++ s.part.stepping) ∧
    rd 0x10 (s.pcie.bar0.extractLsb' 0 32 ||| 4) ∧ rd 0x14 (s.pcie.bar0.extractLsb' 32 32) ∧ rd 0x18 (s.pcie.bar2.extractLsb' 0 32 ||| 0xC) ∧
    rd 0x1C (s.pcie.bar2.extractLsb' 32 32) ∧ rd 0x20 (s.pcie.bar4.extractLsb' 0 32 ||| 4) ∧ rd 0x24 (s.pcie.bar4.extractLsb' 32 32) ∧ rd 0x30 0) ∧
  (∀ s v, configurable s → s.pcie.retry = false →
    let lo (b : BitVec 64) : BitVec 64 := b.extractLsb' 32 32 ++ v
    let hi (b : BitVec 64) : BitVec 64 := v ++ b.extractLsb' 0 32
    let wr (reg : Nat) (p : Pcie) : Prop := exec (.configRequest (.write reg v 0xF)) s = .next { s with pcie := { p with linkUp := true } }
    wr 0x10 { s.pcie with bar0 := lo s.pcie.bar0 &&& 0xFFFFFFFFFC000000 } ∧ wr 0x14 { s.pcie with bar0 := hi s.pcie.bar0 &&& 0xFFFFFFFFFC000000 } ∧
    wr 0x18 { s.pcie with bar2 := lo s.pcie.bar2 &&& 0xFFFFFFFF00000000 } ∧ wr 0x1C { s.pcie with bar2 := hi s.pcie.bar2 &&& 0xFFFFFFFF00000000 } ∧
    wr 0x20 { s.pcie with bar4 := lo s.pcie.bar4 &&& 0xFFFFFFFFFFFF0000 } ∧ wr 0x24 { s.pcie with bar4 := hi s.pcie.bar4 &&& 0xFFFFFFFFFFFF0000 }) ∧
  (∀ s on mask, configurable s → s.pcie.retry = false → exec (.configRequest (.msixControl on mask)) s =
    .next (sendPending { s with pcie := { s.pcie with linkUp := true, msixOn := on, msixMask := mask } })) ∧
  (∀ s off (v : BitVec 32), hostUp s = true → off < 0x1000 → off % 16 = 12 → exec (.configRequest (.tableWrite off v)) s =
    .next (sendPending { s with pcie := { s.pcie with vecs := sput {} s.pcie.vecs (off / 16) { sget {} s.pcie.vecs (off / 16) with masked := v.getLsbD 0 } } })) ∧
  (∀ s off, hostUp s = true → off < 0x1000 → off % 16 = 12 → exec (.configRequest (.tableRead off)) s =
    .next { s with out := .readData (natLE 4 (if (sget {} s.pcie.vecs (off / 16)).masked then 1 else 0)) false false :: s.out }) ∧
  (∀ s, (∀ v, v ∈ s.pcie.pba → vecOpen s v = false) → sendPending s = s) ∧
  (∀ s v, s.pcie.d3hot = false → s.pcie.linkUp = true → s.pcie.pba = [v] → vecOpen s v = true →
    sendPending s = { s with pcie := { s.pcie with pba := [] }, out := .msix v :: s.out }) ∧
  (∀ s, linkReach s = true → s.pcie.retry = false → exec .d3hotEntry s = .next { s with pcie := { s.pcie with d3hot := true } }) ∧
  (∀ s, linkReach s = true → s.pcie.d3hot = true → exec .d0Return s =
    .next ((List.range 4).foldl flushCq (s.pcie.held.foldl msix { s with pcie := { s.pcie with d3hot := false, held := [] } }))) ∧
  (∀ s c, (cqAt s c).enable = true → (cqAt s c).stopped = false → s.pcie.d3hot = false → s.pcie.linkUp = true →
    ∃ u : State, u = { s with cqs := u.cqs } ∧ cqAt u c = { cqAt s c with held := [] } ∧ (∀ k, k ≠ c → cqAt u k = cqAt s k) ∧
      flushCq s c = (cqAt s c).held.foldl (fun v e => postCq v c e) u) ∧
  (∀ s, (linkReach s = false ∨ s.pcie.d3hot = false) → exec .d0Return s = .next s) ∧
  (∀ s, exec .pcieLinkDown s = .next { s with pcie := { s.pcie with linkUp := false } })

/-- A memory request of the host is served: it reaches the endpoint, in D0, after the power-up load. -/
def Sys2Proof.Claims.served (s : State) : Bool := linkReach s && !s.pcie.d3hot && !s.pcie.retry

/-- R353, R351, R476: a BAR2 read through a valid window returns the die's DRAM bytes, poisoned if a block it meets is, each block of it read as any reader reads it
(R307); beyond the die's DRAM it is an
Unsupported Request and counted; through a window that is not valid it reads zeros. A write is made while no Dialect is active, and otherwise, or through a window that is not valid or beyond the
die's DRAM, dropped and counted. In D3hot a read is an Unsupported Request; until the load ends it returns all bits set; a write then has no effect. -/
def Obligations.Bar2AccessesDram : Prop :=
  (∀ s off n, served s = true → 0 < n → off + n ≤ 2 ^ 32 → off / 2 ^ 28 = (off + n - 1) / 2 ^ 28 →
    let w := sget {} s.apers (off / 2 ^ 28)
    let d := w.die.toNat
    let a := 2 ^ 28 * w.base.toNat + off % 2 ^ 28
    w.valid = true → dieReach s d = true → a + n ≤ dramEnd s d →
    exec (.bar2Access off n none) s = .next { dramTouch s d a n with
      out := .readData (dramRd (dramTouch s d a n) d a n) false (dramPoisoned (dramTouch s d a n) d a n) :: (dramTouch s d a n).out } ∧
    (quietDram s = true → dramTouch s d a n = { s with ddr := (dramTouch s d a n).ddr })) ∧
  (∀ s off n, served s = true → 0 < n → off + n ≤ 2 ^ 32 → off / 2 ^ 28 = (off + n - 1) / 2 ^ 28 →
    let w := sget {} s.apers (off / 2 ^ 28)
    w.valid = true → (dieReach s w.die.toNat = false ∨ dramEnd s w.die.toNat < 2 ^ 28 * w.base.toNat + off % 2 ^ 28 + n) →
    exec (.bar2Access off n none) s =
      .next { s with pcie := { s.pcie with ur := satInc s.pcie.ur }, out := .readData [] true false :: s.out }) ∧
  (∀ s off n, served s = true → 0 < n → off + n ≤ 2 ^ 32 → off / 2 ^ 28 = (off + n - 1) / 2 ^ 28 →
    (sget {} s.apers (off / 2 ^ 28)).valid = false →
    exec (.bar2Access off n none) s = .next { s with out := .readData (List.replicate n 0) false false :: s.out }) ∧
  (∀ s off len bs, served s = true → bs ≠ [] → off + bs.length ≤ 2 ^ 32 → off / 2 ^ 28 = (off + bs.length - 1) / 2 ^ 28 →
    let w := sget {} s.apers (off / 2 ^ 28)
    let d := w.die.toNat
    let a := 2 ^ 28 * w.base.toNat + off % 2 ^ 28
    w.valid = true → dieReach s d = true → a + bs.length ≤ dramEnd s d → s.dia.valid = false →
    Runs (.bar2Access off len (some bs)) s (fun t => t = dramWr s d a bs ∧ (quietDram s = true →
      t = { s with dram := t.dram, dramPoison := t.dramPoison, ddr := t.ddr }) ∧
      (∀ j, j < bs.length → dramByte t d (a + j) = bs.getD j 0) ∧
      ∀ e b, (e ≠ d ∨ b < a ∨ a + bs.length ≤ b) → e < 8 → b < dramEnd s e → dramByte t e b = dramByte s e b)) ∧
  (∀ s off n, linkReach s = true → 0 < n → off + n ≤ 2 ^ 32 → off / 2 ^ 28 = (off + n - 1) / 2 ^ 28 →
    (s.pcie.d3hot = true → exec (.bar2Access off n none) s = .next { s with out := .readData [] true false :: s.out }) ∧
    (s.pcie.d3hot = false → s.pcie.retry = true →
      exec (.bar2Access off n none) s = .next { s with out := .readData (List.replicate n 0xFF) false false :: s.out })) ∧
  (∀ s off len bs, (s.pcie.d3hot = true ∨ s.pcie.retry = true) → exec (.bar2Access off len (some bs)) s = .next s) ∧
  (∀ s off len bs, served s = true → bs ≠ [] → off + bs.length ≤ 2 ^ 32 → off / 2 ^ 28 = (off + bs.length - 1) / 2 ^ 28 →
    let w := sget {} s.apers (off / 2 ^ 28)
    (w.valid = false ∨ dieReach s w.die.toNat = false ∨ dramEnd s w.die.toNat < 2 ^ 28 * w.base.toNat + off % 2 ^ 28 + bs.length ∨ s.dia.valid = true) →
    exec (.bar2Access off len (some bs)) s = .next { s with pcie := { s.pcie with dropped := satInc s.pcie.dropped } })

/-- R355-R357, R11: the die-bank aperture reads the half of the banks selected, a flipped block as it stands once settled, and writes it while no Dialect is
active; a die that cannot be reached reads all ones, one that the member lacks 0; a word of a die's window is read and written through the same registers as
REGISTER_WRITE, which needs every byte enable, and its upper half is the bank aperture. -/
def Obligations.WindowsReachDies : Prop :=
  (∀ s d off n, served s = true → dieReach s d = true → (n = 1 ∨ n = 2 ∨ n = 4 ∨ n = 8) → off % n = 0 → off + n ≤ 2 ^ 22 →
    let a := (if (mgtAt s d).bankHalf then 2 ^ 22 else 0) + off
    let u := settleRange s .bank d a n
    (∀ j, j < n → ownTable (a + j) = false) →
    Runs (.dieBankApertureAccess d off n none) s (fun t => ∃ ep, t =
      { u with out := .readData ((List.range n).map (fun j => rd u.banks (2 ^ 23 * d + a + j))) false ep :: u.out }) ∧ (s.flips = [] → u = s)) ∧
  (∀ s d off len bs, served s = true → dieReach s d = true → (bs.length = 1 ∨ bs.length = 2 ∨ bs.length = 4 ∨ bs.length = 8) →
    off % bs.length = 0 → off + bs.length ≤ 2 ^ 22 → s.dia.valid = false →
    let a := (if (mgtAt s d).bankHalf then 2 ^ 22 else 0) + off
    Runs (.dieBankApertureAccess d off len (some bs)) s (fun t => t = bankWr s d a bs ∧
      (∀ j, j < bs.length → rd t.banks (2 ^ 23 * d + a + j) = bs.getD j 0) ∧
      ∀ b, (b < 2 ^ 23 * d + a ∨ 2 ^ 23 * d + a + bs.length ≤ b) → s.flips = [] → rd t.banks b = rd s.banks b)) ∧
  (∀ s d off len bs, served s = true → dieReach s d = true → (bs.length = 1 ∨ bs.length = 2 ∨ bs.length = 4 ∨ bs.length = 8) →
    off % bs.length = 0 → off + bs.length ≤ 2 ^ 22 → s.dia.valid = true →
    exec (.dieBankApertureAccess d off len (some bs)) s = .next s) ∧
  (∀ s d off n, served s = true → dieOk s d = false → 0 < n → off + n ≤ 2 ^ 22 →
    exec (.dieBankApertureAccess d off n none) s = .next { s with out := .readData (List.replicate n 0) false false :: s.out }) ∧
  (∀ s d off n, served s = true → dieOk s d = true → dieReach s d = false → 0 < n → off + n ≤ 2 ^ 22 →
    exec (.dieBankApertureAccess d off n none) s = .next { s with out := .readData (List.replicate n 0xFF) false false :: s.out }) ∧
  (∀ s d off, served s = true → dieReach s d = true → off < 0x400000 → off / 4 ≠ 0x12000 / 4 →
    exec (.bar0RemoteAccess d off none) s =
      .next { s with out := .readData (natLE 4 (readReg s d (off / 4 * 4)).toNat) false false :: s.out }) ∧
  (∀ s d off v, served s = true → dieReach s d = true → off < 0x400000 →
    exec (.bar0RemoteAccess d off (some v)) s = .next (writeReg s d off v)) ∧
  (∀ s d off wr, served s = true → dieReach s d = true → 0x400000 ≤ off → off < 0x800000 →
    exec (.bar0RemoteAccess d off wr) s = .next (bankAccess s d (off - 0x400000) 4 (wr.map (fun v => natLE 4 v.toNat)))) ∧
  (∀ s d off, served s = true → dieReach s d = true → off / 4 = 0x12000 / 4 → Runs (.bar0RemoteAccess d off none) s (fun t =>
    t = { s with mgt := t.mgt, out := .readData (natLE 4 (s.tb % 2 ^ 32)) false false :: s.out } ∧
    (mgtAt t d).tbHi = BitVec.ofNat 32 (s.tb / 2 ^ 32))) ∧
  (∀ s d off, served s = true → dieOk s d = false → off < 0x800000 →
    exec (.bar0RemoteAccess d off none) s = .next { s with out := .readData [0, 0, 0, 0] false false :: s.out }) ∧
  (∀ s d off, served s = true → dieOk s d = true → dieReach s d = false → off < 0x800000 →
    exec (.bar0RemoteAccess d off none) s = .next { s with out := .readData [0xFF, 0xFF, 0xFF, 0xFF] false false :: s.out }) ∧
  (∀ s d off v, arrives s d = true → exec (.registerWrite d off v 0xF) s = .next (writeReg s d off v)) ∧
  (∀ s d off v be, be ≠ 0xF → exec (.registerWrite d off v be) s = .next s)

/-- R9, R211, R249, R302, R323, R371, R460: registers written read back what their fields hold; reserved addresses and read-only registers take no write. -/
def Sys2Proof.Claims.RegistersReadBack : Prop :=
  (∀ s v, readReg (writeReg s 0 0x1200C v) 0 0x1200C = v &&& 0x003FFFFF) ∧
  (∀ s v, jobOpen s = false → readReg (writeReg s 0 0x12008 v) 0 0x12008 = v &&& 0x00000007) ∧
  (∀ s v, jobOpen s = true → writeReg s 0 0x12008 v = s) ∧
  (∀ s d v, readReg (writeReg s d 0x1B004 v) d 0x1B004 = v) ∧
  (∀ s d v, readReg (writeReg s d 0x1D204 v) d 0x1D204 = v &&& 1) ∧
  (∀ s d v, s.dia.valid = false → readReg (writeReg s d 0x2040C v) d 0x2040C = v &&& 0x0001FFFF) ∧
  (∀ s d v, s.dia.valid = true → writeReg s d 0x2040C v = s) ∧
  (∀ s v, readReg (writeReg s 0 0x20744 v) 0 0x20744 = v &&& 0x0000003F) ∧
  (∀ s e v, e < 4 → jobOpen s = false → readReg (writeReg s 0 (0x14008 + 0x20 * e) v) 0 (0x14008 + 0x20 * e) = v &&& 0xFFFF000B) ∧
  (∀ s w v, w < 16 → (v.extractLsb' 24 3).toNat < s.part.dies →
    readReg (writeReg s 0 (0x300 + 4 * w) v) 0 (0x300 + 4 * w) = v &&& 0x8700003F) ∧
  (∀ s c v, c < 4 → (sqAt s c).enable = false →
    readReg (writeReg s 0 (0x8000 + 0x40 * c) v) 0 (0x8000 + 0x40 * c) = v &&& 0xFFFFF000) ∧
  (∀ s c v, c < 4 → (sqAt s c).enable = true → writeReg s 0 (0x8000 + 0x40 * c) v = s) ∧
  (∀ s d off v, (0x200 ≤ off ∧ off ≤ 0x214) ∨ (0x10000 ≤ off ∧ off < 0x11000) ∨ off = 0x12000 ∨ off = 0x12004 →
    writeReg s d off v = s)

/-- Nothing but the table entry of one unit changed. -/
abbrev Sys2Proof.Claims.only {α : Type} (i : Nat) (at_ : State → Nat → α) (s t : State) : Prop := ∀ j, j ≠ i → at_ t j = at_ s j

/-- R125, R161, R213, R249, R278, R302, R323, R432, R460: writing the clear bit of a unit's counters makes them read 0, and changes no other unit and no
other part of the state. -/
def Sys2Proof.Claims.ClearBitsClearCounters : Prop :=
  (∀ s d k, arrives s d = true → k < 66 → Runs (.clsCdcCtrlClr d k) s (fun t => t = { s with clauses := t.clauses } ∧
    only (clauseIx d k) clauseAt s t ∧ readCls t d k 0x304 = 0 ∧ readCls t d k 0x308 = 0 ∧ readCls t d k 0x30C = 0 ∧
    readCls t d k 0x404 = readCls s d k 0x404)) ∧
  (∀ s ci, arrives s ci.die = true → ci.clause < 66 → ci.cell < 16 → Runs (.celCtrlClr ci) s (fun t => t = { s with cells := t.cells } ∧
    only (cellIx ci) cellAt s t ∧ readCell t (cellIx ci) 0x0C = 0 ∧ readCell t (cellIx ci) 0x10 = 0 ∧
    (cellAt t (cellIx ci)).cause = 0 ∧ (cellAt t (cellIx ci)).st = (cellAt s (cellIx ci)).st)) ∧
  (∀ s d k, arrives s d = true → k < 66 → Runs (.clsIntCtrlClr d k) s (fun t => t = { s with clauses := t.clauses } ∧
    only (clauseIx d k) clauseAt s t ∧ readCls t d k 0x404 = 0 ∧ (clauseAt t (clauseIx d k)).rewind = 0 ∧
    (clauseAt t (clauseIx d k)).suspects = (clauseAt s (clauseIx d k)).suspects)) ∧
  (∀ s r, arrives s 0 = true → r < 64 → Runs (.lgnRowCtrlClr r) s (fun t => t = { s with rows := t.rows } ∧ only r rowAt s t ∧
    (rowAt t r).ovsTotal = 0 ∧ (rowAt t r).ovsCopy = (rowAt s r).ovsCopy)) ∧
  (∀ s d, arrives s d = true → Runs (.bnkCtrlClr d) s (fun t => t = { s with conflicts := t.conflicts } ∧
    (∀ m, m < 69 → sget 0 t.conflicts (69 * d + m) = 0) ∧
    ∀ e m, m < 69 → e ≠ d → sget 0 t.conflicts (69 * e + m) = sget 0 s.conflicts (69 * e + m))) ∧
  (∀ s d q, arrives s d = true → q < 3 → Runs (.evtQCtrlClr d q) s (fun t => t = { s with evqs := t.evqs } ∧ only (3 * d + q) evqAt s t ∧
    evqAt t (3 * d + q) = { evqAt s (3 * d + q) with high := 0, lost := 0 })) ∧
  (∀ s d ch, arrives s d = true → ddrOk s d ch = true → Runs (.ddrChCtrlClr d ch) s (fun t => t = { s with ddr := t.ddr } ∧
    only (ddrIx d ch) ddrAt s t ∧
    ddrAt t (ddrIx d ch) = { ddrAt s (ddrIx d ch) with corr := 0, uncorr := 0, misdir := 0, eccClass := 0, eccBlock := 0 })) ∧
  (∀ s a, arrives s (a / 2) = true → Runs (.motAxCtrlClr a) s (fun t => t = { s with axes := t.axes } ∧ only a axisAt s t ∧
    axisAt t a = { axisAt s a with stalls := 0, limits := 0, homes := 0 })) ∧
  (∀ s d, arrives s d = true → Runs (.mgtThermClr d) s (fun t => t = { s with mgt := t.mgt } ∧ only d mgtAt s t ∧
    mgtAt t d = { mgtAt s d with tmax := 0x80 })) ∧
  (∀ s d l, arrives s d = true → l < 8 → Runs (.tynLnkCtrlClr d l) s (fun t => t = { s with links := t.links } ∧
    only (linkIx d l) linkAt s t ∧ readLink t d l 0x08 = 0 ∧ readLink t d l 0x0C = 0 ∧ readLink t d l 0x10 = 0 ∧
    (linkAt t (linkIx d l)).st = (linkAt s (linkIx d l)).st))

/-- R212, R248, R302, R323: a read of TB_COUNT_LO returns the low word of the timebase and latches the high one; START bits start the eye scan, the march
engine and the training helper, each ignored while it is busy, a march of an off clause powering it, and one that is not allowed REFUSED; an eye point ends with its count, or aborted. A helper
run ends with the training rows written, and MASK and BITS what the compare saw. -/
def Obligations.StartBitsAndLatches : Prop :=
  (∀ s d, arrives s d = true → s.pcie.d3hot = false → Runs (.tbCountLoRead d) s (fun t =>
    t = { s with mgt := t.mgt, out := .readData (natLE 4 (s.tb % 2 ^ 32)) false false :: s.out } ∧
    (mgtAt t d).tbHi = BitVec.ofNat 32 (s.tb / 2 ^ 32) ∧ only d mgtAt s t)) ∧
  (∀ s d, arrives s d = true → (eyeAt s d).busy = false → Runs (.tynEyeStart d) s (fun t => t = { s with eyes := t.eyes } ∧
    eyeAt t d = { eyeAt s d with busy := true })) ∧
  (∀ s d, arrives s d = true → (eyeAt s d).busy = true → exec (.tynEyeStart d) s = .next s) ∧
  (∀ s d count, (eyeAt s d).busy = true → Runs (.eyePointDone d count false) s (fun t => t = { s with eyes := t.eyes } ∧
    eyeAt t d = { eyeAt s d with busy := false, err := count })) ∧
  (∀ s d count, (eyeAt s d).busy = true → Runs (.eyePointDone d count true) s (fun t => t = { s with eyes := t.eyes } ∧
    eyeAt t d = { eyeAt s d with busy := false, abort := true })) ∧
  (∀ s d count ab, (eyeAt s d).busy = false → exec (.eyePointDone d count ab) s = .next s) ∧
  (∀ s d, arrives s d = true → s.dia.valid = false → (marchAt s d).busy = false →
    marchAllowed s d (marchAt s d).kind.toNat (marchAt s d).index.toNat (marchAt s d).mode = true →
    let x := clauseIx d (marchAt s d).index.toNat
    Runs (.mgtMtCtrlStart d) s (fun t => t = { s with marches := t.marches, clauses := t.clauses } ∧ (marchAt t d).busy = true ∧ (marchAt t d).result = 0 ∧
      (∀ y, clauseAt t y = if (marchAt s d).kind = 1 ∧ y = x then { clauseAt s y with powered := true } else clauseAt s y) ∧
      (marchAt t d).failed = 0 ∧ (marchAt t d).kind = (marchAt s d).kind ∧ (marchAt t d).index = (marchAt s d).index)) ∧
  (∀ s d, arrives s d = true → s.dia.valid = false → (marchAt s d).busy = false →
    marchAllowed s d (marchAt s d).kind.toNat (marchAt s d).index.toNat (marchAt s d).mode = false →
    Runs (.mgtMtCtrlStart d) s (fun t => t = { s with marches := t.marches } ∧ (marchAt t d).busy = false ∧ (marchAt t d).result = 4)) ∧
  (∀ s d, arrives s d = true → (marchAt s d).busy = true → exec (.mgtMtCtrlStart d) s = .next s) ∧
  (∀ s d ch, arrives s d = true → ddrOk s d ch = true → s.dia.valid = false → (ddrAt s (ddrIx d ch)).trnRun = none →
    (ddrAt s (ddrIx d ch)).st ≠ .active → (ddrAt s (ddrIx d ch)).st ≠ .retired → Runs (.ddrTrnStart d ch) s (fun t => t = { s with ddr := t.ddr } ∧
      ddrAt t (ddrIx d ch) = { ddrAt s (ddrIx d ch) with trnRun := some (ddrAt s (ddrIx d ch)).trn })) ∧
  (∀ s d ch, arrives s d = true → (ddrAt s (ddrIx d ch)).st = .active → exec (.ddrTrnStart d ch) s = .next s) ∧
  (∀ s d ch, arrives s d = true → (ddrAt s (ddrIx d ch)).trnRun.isSome = true → exec (.ddrTrnStart d ch) s = .next s) ∧
  (∀ s d ch wrote misread, (ddrAt s (ddrIx d ch)).trnRun = none → exec (.trainHelperDone d ch wrote misread) s = .next s) ∧
  (∀ s d ch wrote misread (c : TrnCtl), (ddrAt s (ddrIx d ch)).trnRun = some c →
    let rows := if c.pattern = 1 then List.range 16 else [c.row.toNat]
    let wrong (es : List TrnErr) (n : Nat) : List (Nat × BitVec 32) := (es.filter (fun e => e.row == n)).map (fun e => (e.beat, e.dq))
    Runs (.trainHelperDone d ch wrote misread) s (fun t => t = { s with ddr := t.ddr } ∧ only (ddrIx d ch) ddrAt s t ∧
      ddrAt t (ddrIx d ch) = { ddrAt s (ddrIx d ch) with
        trnRun := none, trnRows := (ddrAt t (ddrIx d ch)).trnRows, trnMask := (ddrAt t (ddrIx d ch)).trnMask,
        trnBits := (ddrAt t (ddrIx d ch)).trnBits } ∧
      (∀ n, sget {} (ddrAt t (ddrIx d ch)).trnRows n = if (c.op = 0 ∨ c.op = 2) ∧ n ∈ rows then
        { blank := none, pattern := c.pattern, seed := c.seed, errs := wrong wrote n } else sget {} (ddrAt s (ddrIx d ch)).trnRows n) ∧
      (c.op ≠ 0 → c.op ≠ 1 → (ddrAt t (ddrIx d ch)).trnMask = 0 ∧ (ddrAt t (ddrIx d ch)).trnBits = 0) ∧
      (c.op = 0 → wrote = [] → misread = [] → (ddrAt t (ddrIx d ch)).trnMask = 0 ∧ (ddrAt t (ddrIx d ch)).trnBits = 0) ∧
      (∀ e, c.op = 0 → wrote = [] → misread = [e] → e.row ∈ rows →
        (ddrAt t (ddrIx d ch)).trnMask = e.dq ∧ (ddrAt t (ddrIx d ch)).trnBits.toNat = popcount e.dq)))

/-! ### Power, resets, start-up and the Dialect load (R60-R70, R462-R479) -/

/-- The main supply is up and main power-on reset is released. -/
abbrev Sys2Proof.Claims.powered (s : State) : Prop := s.power.st ≠ .dormant ∧ s.power.porAsserted = false

/-- What a warm reset clears and keeps (R476, R477). -/
abbrev Sys2Proof.Claims.warmed (s t : State) (cause : Nat) : Prop :=
  t.power.lastReset = BitVec.ofNat 3 cause ∧ t.power.warm = satInc s.power.warm ∧ t.power.startAt = s.tb ∧ t.power.st = .starting ∧
  t.tb = s.tb ∧ t.sync = s.sync ∧ t.fuses = s.fuses ∧ t.flash = s.flash ∧ t.dram = s.dram ∧ t.dramPoison = s.dramPoison ∧
  t.dramFlips = s.dramFlips ∧ (∀ d k, d < s.part.dies → k < 66 → (fenceOf s (.clause d k)).st = .testing → (fenceOf t (.clause d k)).st = .fenced) ∧
  (s.fences.all (fun p => p.2.st != .testing) = true → t.fences = s.fences) ∧ t.hcFences = s.hcFences ∧
  t.power.smbAddr = s.power.smbAddr ∧ (∀ i, i < 2 * s.part.dies → ddrAt t i = (ddrAt s i).warm) ∧ t.taps = s.taps ∧ t.dia.loads = s.dia.loads ∧ t.dia.pinSlot = s.dia.pinSlot ∧
  t.job = none ∧ t.parked = [] ∧ t.cmdq = [] ∧ t.popped = [] ∧ t.dia.valid = false ∧ t.dia.gstate = .none ∧ t.load = none ∧
  t.banks = [] ∧ t.tcm = [] ∧ t.imem = [] ∧ t.dmem = [] ∧ t.pages = [] ∧ t.blocks = [] ∧ t.links = [] ∧ t.sqs = [] ∧ t.cqs = [] ∧
  t.part = s.part

/-- What power-on reset leaves: the fuses, the flash and, unless it is a cold one, the AON domain's seconds; nothing else. -/
abbrev Sys2Proof.Claims.poweredOn (s t : State) (cold : Bool) : Prop :=
  t.power.lastReset = (if cold then 1 else 2) ∧ t.power.aonSec = (if cold then 0 else aonNow s) ∧ t.tb = 0 ∧
  t.fuses = s.fuses ∧ t.flash = s.flash ∧ t.part = s.part ∧ t.dram = [] ∧ t.banks = [] ∧ t.tcm = [] ∧ t.imem = [] ∧ t.dmem = [] ∧
  t.fences = [] ∧ t.hcFences = [] ∧ t.job = none ∧ t.parked = [] ∧ t.cmdq = [] ∧ t.dia = {} ∧ t.log.ram = [] ∧ t.power.warm = 0

/-- R351, R475-R477, R490: PERST# after its first deassertion and FLR are warm resets with LAST_RESET 3 and 4, the fence of a clause under test kept; PERST# before
it, or while the part has no power, only holds the endpoint in reset; VAON and the rails assert power-on reset, cold (1) or main (2). What finds its state
already so changes nothing. -/
def Obligations.ResetsClearAndKeep : Prop :=
  (∀ s, powered s → s.pcie.perst = false → s.pcie.deasserted = true →
    Runs .perstAssert s (fun t => warmed s t 3 ∧ t.pcie.perst = true ∧ t.pcie.linkUp = false)) ∧
  (∀ s, s.pcie.perst = true → exec .perstAssert s = .next s) ∧
  (∀ s, s.pcie.perst = false → (s.power.st = .dormant ∨ s.power.porAsserted = true ∨ s.pcie.deasserted = false) →
    exec .perstAssert s = .next { s with pcie := { s.pcie with perst := true, linkUp := false } }) ∧
  (∀ s, (s.pcie.perst = true ∨ s.power.st = .dormant ∨ s.power.porAsserted = true) → exec .flr s = .next s) ∧
  (∀ s, s.power.porAsserted = true → exec .railUndervoltage s = .next s) ∧
  (∀ s, powered s → s.pcie.perst = false → Runs .flr s (fun t => warmed s t 4 ∧ t.pcie.perst = false ∧ t.pcie.linkUp = s.pcie.linkUp)) ∧
  (∀ s, exec .perstDeassert s = .next { s with pcie := { s.pcie with perst := false, deasserted := true, linkUp := true } }) ∧
  (∀ s, Runs .coldPor s (fun t => poweredOn s t true ∧ t.power.porAsserted = true)) ∧
  (∀ s, Runs .vaonUndervoltage s (fun t => poweredOn s t true ∧ t.power.porAsserted = true ∧ t.power.pwren = false)) ∧
  (∀ s, powered s → Runs .railUndervoltage s (fun t => poweredOn s t false ∧ t.power.porAsserted = true)) ∧
  (∀ s, s.power.st = .dormant → exec .railUndervoltage s = .next s)

/-- R450, R464-R471: the release of main power-on reset is t0 of start-up and latches the pins; WAKE# raises PWREN, a pulse during the hold being kept;
the part descends toward its resting state after REST_DELAY at rest, its active links to electrical idle in Idle and its clauses off in Sleep, and enters
Dormant with PWREN low. -/
def Obligations.PowerStatesMove : Prop :=
  (∀ s d m, s.power.porAsserted = true → Runs (.mainPorRelease d m) s (fun t => t.tb = 0 ∧ t.power.porAsserted = false ∧
    t.power.st = .starting ∧ (mgtAt t 0).stage = 1 ∧ t.dia.pinSlot = d ∧ t.power.smbAddr = m ∧
    t.power.lastReset = s.power.lastReset ∧ t.power.aonSec = s.power.aonSec)) ∧
  (∀ s d m, s.power.porAsserted = false → exec (.mainPorRelease d m) s = .next s) ∧
  (∀ s, s.power.goDormant = true → exec .wake s = .next { s with power := { s.power with wakeLatch := true } }) ∧
  (∀ s, s.power.st ≠ .dormant → s.power.goDormant = false → exec .wake s = .next s) ∧
  (∀ s, s.power.st ≠ .dormant → exec .pwrenHoldExpiry s = .next s) ∧
  (∀ s, s.power.st = .dormant → s.power.goDormant = false → s.power.hold = false →
    Runs .wake s (fun t => t.power.pwren = true ∧ t.power.porAsserted = true ∧ t.power.woken = true ∧ t.fuses = s.fuses)) ∧
  (∀ s, s.power.st = .dormant → s.power.hold = true → exec .wake s = .next { s with power := { s.power with wakeLatch := true } }) ∧
  (∀ s, s.power.st = .dormant → s.power.wakeLatch = false →
    exec .pwrenHoldExpiry s = .next { s with power := { s.power with hold := false } }) ∧
  (∀ s, s.power.st = .dormant → s.power.wakeLatch = true →
    Runs .pwrenHoldExpiry s (fun t => t.power.pwren = true ∧ t.power.porAsserted = true ∧ t.power.woken = true)) ∧
  (∀ s, jobOpen s = false → s.parked = [] → s.dia.valid = true → s.load = none → s.power.moving = false → s.power.goDormant = false →
    s.power.st = .ready → s.power.rest ≠ 0 →
    exec .restDescent s = .next { s with power := { s.power with target := .idle, moving := true } }) ∧
  (∀ s, jobOpen s = false → s.parked = [] → s.dia.valid = true → s.load = none → s.power.moving = false → s.power.goDormant = false →
    s.power.st = .idle → 2 ≤ s.power.rest.toNat →
    exec .restDescent s = .next { s with power := { s.power with target := .sleep, moving := true } }) ∧
  (∀ s, (jobOpen s = true ∨ s.parked ≠ [] ∨ s.dia.valid = false ∨ s.power.rest = 0 ∨ s.power.moving = true) → exec .restDescent s = .next s) ∧
  (∀ s, s.power.goDormant = false → s.power.moving = false → exec .powerTransitionDone s = .next s) ∧
  (∀ s, s.power.goDormant = false → s.power.moving = true → s.power.target = .idle →
    Runs .powerTransitionDone s (fun t => t.power = { s.power with st := .idle, moving := false } ∧
      ∀ p, p ∈ allLinks s → (linkAt t (linkIx p.1 p.2)).st =
        if (linkAt s (linkIx p.1 p.2)).st = .active then .idle else (linkAt s (linkIx p.1 p.2)).st)) ∧
  (∀ s, s.power.goDormant = false → s.power.moving = true → s.power.target = .sleep →
    Runs .powerTransitionDone s (fun t => t.power = { s.power with st := .sleep, moving := false } ∧
      ∀ x, x < 66 * s.part.dies → (clauseAt t x).powered = false)) ∧
  (∀ s, s.power.goDormant = true → Runs .powerTransitionDone s (fun t => t.power.st = .dormant ∧ t.power.pwren = false ∧
    t.power.hold = true ∧ t.power.wakeLatch = s.power.wakeLatch ∧ t.dram = [] ∧ t.fuses = s.fuses))

/-- R318, R462, R463, R471-R474: the stages of start-up and the clocks: stage 1 ends with the PLLs locked, and in a warm start-up the pins latched; stage 2 with
the march of clean arrays; stage 3 with the boot configuration and the patch; stage 4 with the calibration store read, the ports up and the channels in training;
stage 5, once no channel has still to train in full, with the channels ACTIVE and the load of the pins' slot begun; a die that fails a stage is fenced and its
PWR_START reads FAILED with its cause, and die 0 fails start-up. The power-up load limit ends Retry Status of a part whose start-up failed and fails a load
under way; the loss of the reference, or of PLL 0-2, stops die 0's heads or fences the die; PLL 3 takes the die's links to RETRAIN, and PLL 4 the PCIe link. -/
def Obligations.StartupAndClocks : Prop :=
  (∀ s, s.power.st = .starting → s.power.porAsserted = false → s.startFailed = false → (mgtAt s 0).stage = 1 → 0 ∈ startingDies s →
    ∀ r : StageResult, r.failed = [] →
    Runs (.startupStageDone r) s (fun t =>
      t = { s with mgt := t.mgt, dia := { s.dia with pinSlot := if s.power.warmRun then r.dialectPins else s.dia.pinSlot },
                   power := { s.power with smbAddr := if s.power.warmRun then r.smbPins else s.power.smbAddr } } ∧
      (mgtAt t 0).stage = 2 ∧ (mgtAt t 0).pllLock = 0x1F ∧
      ∀ d, d ≠ 0 → d ∈ startingDies s → (mgtAt t d).stage = 2 ∧ (mgtAt t d).pllLock = 0x0F)) ∧
  (∀ s (r : StageResult), s.power.st = .starting → s.power.porAsserted = false → s.startFailed = false → r.failed = [] → r.defects = [] →
    (mgtAt s 0).stage = 2 → s.scrubs = [] →
    Runs (.startupStageDone r) s (fun t => t = { s with mgt := t.mgt } ∧ ∀ d, d ∈ startingDies s → (mgtAt t d).stage = 3)) ∧
  (∀ s (r : StageResult), s.power.st = .starting → s.power.porAsserted = false → s.startFailed = false → r.failed = [] → (mgtAt s 0).stage = 3 →
    Runs (.startupStageDone r) s (fun t => t = { bootUp s with mgt := t.mgt } ∧ ∀ d, d ∈ startingDies s → (mgtAt t d).stage = 4)) ∧
  (∀ s (r : StageResult), s.power.st = .starting → s.power.porAsserted = false → s.startFailed = false → r.failed = [] → (mgtAt s 0).stage = 4 →
    s.power.warmRun = false → (startingDies s).all (densityOk s) = true →
    Runs (.startupStageDone r) s (fun t => (∀ d, d ∈ startingDies s → (mgtAt t d).stage = 5) ∧ t.cal.results = (readStore s).cal.results ∧
      (∀ d ch, d ∈ startingDies s → ch < 2 → (ddrAt s (ddrIx d ch)).st = .off → (ddrAt t (ddrIx d ch)).st = .train) ∧
      (∀ d p e, d ∈ startingDies s → p < 4 → portPeer? s.part.dies d p = some e → e ∈ startingDies s → (portAt t (4 * d + p)).st = .up))) ∧
  (∀ s (r : StageResult), s.power.st = .starting → s.power.porAsserted = false → s.startFailed = false → r.failed = [] → r.verifyBad = [] →
    (mgtAt s 0).stage = 5 → (startingDies s).all (fun d => !trainsFully s d 0 && !trainsFully s d 1) = true →
    Runs (.startupStageDone r) s (fun t => (∀ d, d ∈ startingDies s → (mgtAt t d).stage = 6) ∧
      t.load = some { slot := s.dia.pinSlot.toNat, cmd := none } ∧ t.dia.gstate = (if s.dia.valid then .switching else .loading) ∧
      ∀ d ch, d ∈ startingDies s → ch < 2 → ((ddrAt s (ddrIx d ch)).st = .train ∨ (ddrAt s (ddrIx d ch)).st = .retrain) →
        (ddrAt t (ddrIx d ch)).st = .active)) ∧
  (∀ s (r : StageResult), s.power.st = .starting → s.power.porAsserted = false → s.startFailed = false → r.failed = [] → r.verifyBad = [] →
    (mgtAt s 0).stage = 5 → (startingDies s).any (fun d => trainsFully s d 0 || trainsFully s d 1) = true →
    exec (.startupStageDone r) s = .next s) ∧
  (∀ s (r : StageResult) c, s.power.st = .starting → s.power.porAsserted = false → s.startFailed = false → (mgtAt s 0).stage.toNat < 6 →
    r.failed = [(0, c)] → c ≠ 3 → 0 ∈ startingDies s → 0 < s.part.dies →
    Runs (.startupStageDone r) s (fun t => t.startFailed = true ∧ t.power.st = .ready ∧ t.pcie.retry = false ∧ (mgtAt t 0).result = 2 ∧
      (mgtAt t 0).startCause = c)) ∧
  (∀ (s : State) d c, 0 < d → d < s.part.dies → Sys2Proof.Machine.isFenced s (.die d) = false →
    (fenceOf (dieFails s (d, c)) (.die d)).st = .fenced ∧ (fenceOf (dieFails s (d, c)) (.die d)).reason = (if c = 5 then 3 else 8) ∧
    (mgtAt (dieFails s (d, c)) d).result = 2 ∧ (mgtAt (dieFails s (d, c)) d).startCause = c) ∧
  (∀ s r, s.power.st ≠ .starting → exec (.startupStageDone r) s = .next s) ∧
  (∀ s, s.pcie.perst = false → s.pcie.retry = true → s.load = none → s.startFailed = true →
    exec .powerUpLoadLimit s = .next { s with pcie := { s.pcie with limitPassed := true, retry := false } }) ∧
  (∀ s j, s.pcie.perst = false → s.pcie.retry = true → s.load = some j → s.power.st = .starting →
    Runs .powerUpLoadLimit s (fun t => t.load = none ∧ t.pcie.limitPassed = true ∧ t.dia.failCode = 0x1B)) ∧
  (∀ s, s.pcie.perst = false → s.pcie.retry = true → s.load = none → s.startFailed = false →
    exec .powerUpLoadLimit s = .next { s with pcie := { s.pcie with limitPassed := true } }) ∧
  (∀ s, (s.pcie.perst = true ∨ s.pcie.retry = false) → exec .powerUpLoadLimit s = .next s) ∧
  (∀ s d, 0 < d → clocksRun s d = true → Runs (.refLoss d) s (fun t => (fenceOf t (.die d)).st = .fenced ∧ (fenceOf t (.die d)).reason = 8 ∧
    (mgtAt t d).refloss = satInc (mgtAt s d).refloss)) ∧
  (∀ s d pll, 0 < d → clocksRun s d = true → s.power.st ≠ .sleep → pll ≤ 2 → (mgtAt s d).pllLock.getLsbD pll = true →
    Runs (.pllLockLoss d pll) s (fun t => (fenceOf t (.die d)).st = .fenced ∧ (fenceOf t (.die d)).reason = 8 ∧
      (mgtAt t d).lol = satInc (mgtAt s d).lol)) ∧
  (∀ s d, clocksRun s d = true → s.power.st ≠ .sleep → (mgtAt s d).pllLock.getLsbD 3 = true →
    Runs (.pllLockLoss d 3) s (fun t => (mgtAt t d).lol = satInc (mgtAt s d).lol ∧
      ∀ l, (d, l) ∈ allLinks s → (linkAt t (linkIx d l)).st =
        if (linkAt s (linkIx d l)).st = .active then .retrain else (linkAt s (linkIx d l)).st)) ∧
  (∀ s d pll, (clocksRun s d = false ∨ (mgtAt s d).pllLock.getLsbD pll = false ∨ (s.power.st = .sleep ∧ 1 ≤ pll ∧ pll ≤ 3)) →
    exec (.pllLockLoss d pll) s = .next s) ∧
  (∀ s, clocksRun s 0 = true → Runs (.refLoss 0) s (fun t => t.die0Fault = true)) ∧
  (∀ s d, clocksRun s d = false → exec (.refLoss d) s = .next s) ∧
  (∀ s pll, clocksRun s 0 = true → s.power.st ≠ .sleep → pll ≤ 2 → (mgtAt s 0).pllLock.getLsbD pll = true →
    Runs (.pllLockLoss 0 pll) s (fun t => t.die0Fault = true)) ∧
  (∀ s, clocksRun s 0 = true → (mgtAt s 0).pllLock.getLsbD 4 = true → Runs (.pllLockLoss 0 4) s (fun t =>
    t = { s with mgt := t.mgt, pcie := { s.pcie with linkUp := false } } ∧ (mgtAt t 0).lol = satInc (mgtAt s 0).lol ∧ only 0 mgtAt s t))

/-- R60, R61, R63, R66, R68: a first pass that meets a flash error or a failed check ends the load with the old Dialect still active; one that passes is
the commit point, where no Dialect is in force. A second pass whose CRCs agree makes the Dialect ACTIVE, with its Grammar's slots and parameters; one that
does not leaves the part without one, FAILED. -/
def Obligations.DialectLoadPasses : Prop :=
  (∀ s j, s.load = some j → j.second = false → Runs (.dialectFirstPassDone true) s (fun t => t.load = none ∧
    t.dia = { s.dia with failSlot := BitVec.ofNat 2 j.slot, failCode := 0x1B, failSection := 0xFFFF,
                         gstate := if s.dia.valid then .active else .failed } ∧ t.gram = s.gram ∧ t.params = s.params)) ∧
  (∀ s j f, s.load = some j → j.second = false → dialectFail s (readSlot s j.slot) = some f →
    Runs (.dialectFirstPassDone false) s (fun t => t.load = none ∧ t.dia.valid = s.dia.valid ∧ t.dia.failCode = BitVec.ofNat 8 f.1 ∧
      t.dia.failSection = BitVec.ofNat 16 f.2 ∧ t.gram = s.gram ∧ t.params = s.params)) ∧
  (∀ s j, s.load = some j → j.second = false → dialectFail s (readSlot s j.slot) = none →
    Runs (.dialectFirstPassDone false) s (fun t => t.dia.valid = false ∧ t.dia.gstate = .loading ∧ t.gram = {} ∧ t.params = [] ∧
      ∃ j', t.load = some j' ∧ j'.second = true ∧ j'.slot = j.slot ∧ j'.crcs = passCrcs (readSlot s j.slot))) ∧
  (∀ s j, s.load = some j → j.second = true → passCrcs (readSlot s j.slot) = j.crcs →
    Runs (.dialectLoadDone false) s (fun t => t.load = none ∧ t.dia.valid = true ∧ t.dia.gstate = .active ∧
      t.dia.active = BitVec.ofNat 2 j.slot ∧ t.dia.loads = satInc s.dia.loads ∧
      t.gram = grammarOf (sectsOf (readSlot s j.slot).img).1 ∧ t.params = (frameRecs (readSlot s j.slot).pars).1)) ∧
  (∀ s j e, s.load = some j → j.second = true → (e = true ∨ passCrcs (readSlot s j.slot) ≠ j.crcs) →
    Runs (.dialectLoadDone e) s (fun t => t.load = none ∧ t.dia.valid = false ∧ t.dia.gstate = .failed ∧
      t.dia.failCode = (if e then 0x1B else 0x1A) ∧ t.gram = {} ∧ t.params = [])) ∧
  (∀ s e, (∀ j, s.load = some j → j.second = true) → exec (.dialectFirstPassDone e) s = .next s) ∧
  (∀ s e, (∀ j, s.load = some j → j.second = false) → exec (.dialectLoadDone e) s = .next s)

/-! ### The band codec and the compressor (R98, R101-R126) -/

/-- The plane of the job that a compressor runs, in bytes. -/
abbrev Sys2Proof.Claims.jobPlane (c : Compressor) : Nat := if c.jobKind then 65536 else 131072

/-- R98, R118-R123, R126: the compressor is started and aborted by its register, ignores both while a Dialect is active, keeps the settings it started with, and
ends a job with one result: OK with the stream written at DST, FAIL_SPACE, FAIL_SOURCE or ABORTED; the output space of a job that does not end OK, and the ICRC
of one that stops early, are free (the model's choice, assumption 4). The die manager starts a job on the oldest block of the page cache and places the block
compressed, or raw where that does not fit; a block whose plane fails its RAW_CRC, or whose source failed, is refused CHECK, and one without room NO_SPACE. -/
def Obligations.CompressorJobs : Prop :=
  (∀ s d, arrives s d = true → s.dia.valid = false → (compAt s d).state ≠ 1 → Runs (.cmpStart d) s (fun t => t = { s with comps := t.comps } ∧
    only d compAt s t ∧ compAt t d = { compAt s d with state := 1, jobKind := (compAt s d).kind, jobDst := (compAt s d).dst,
                                                       jobLimit := (compAt s d).limit, block := none, inp := [] })) ∧
  (∀ s d, arrives s d = true → s.dia.valid = false → (compAt s d).state = 1 → Runs (.cmpStart d) s (fun t => t = { s with comps := t.comps } ∧
    only d compAt s t ∧ compAt t d = { compAt s d with startIgn := true })) ∧
  (∀ s d, s.dia.valid = true → exec (.cmpStart d) s = .next s ∧ exec (.cmpAbort d) s = .next s) ∧
  (∀ s d, arrives s d = true → s.dia.valid = false → (compAt s d).state = 1 → Runs (.cmpAbort d) s (fun t =>
    t = { cmpSpoils s d with comps := t.comps, free := t.free } ∧ only d compAt s t ∧
    compAt t d = { compAt s d with state := 2, result := 3, olen := 0, icrc := (compAt t d).icrc, ocrc := 0, block := none, inp := [] })) ∧
  (∀ s d, let c := compAt s d
    let plane := c.inp.take (jobPlane c)
    let stream := encodePlane plane (if c.jobKind then 1024 else 2048)
    c.state = 1 → c.block = none → jobPlane c ≤ c.inp.length →
    Runs (.cmpJobEnd d false) s (fun t => only d compAt s t ∧
      if stream.length ≤ c.jobLimit.toNat then
        t = { dramWr s d c.jobDst.toNat stream with comps := t.comps } ∧
        (c.jobDst.toNat + stream.length ≤ dramEnd s d → dramRd t d c.jobDst.toNat stream.length = stream) ∧
        compAt t d = { c with state := 2, result := 0, olen := BitVec.ofNat 17 stream.length, icrc := crc32c plane, ocrc := crc32c stream,
                              ok := satInc c.ok, inp := [] }
      else t = { cmpSpoils s d with comps := t.comps } ∧
        compAt t d = { c with state := 2, result := 1, olen := 0, icrc := crc32c plane, ocrc := 0, space := satInc c.space, inp := [] })) ∧
  (∀ s d, (compAt s d).state = 1 → (compAt s d).block = none → (compAt s d).inp.length < jobPlane (compAt s d) →
    exec (.cmpJobEnd d false) s = .next s) ∧
  (∀ s d, let c := compAt s d
    c.state = 1 → c.block = none → Runs (.cmpJobEnd d true) s (fun t => t = { cmpSpoils s d with comps := t.comps, free := t.free } ∧ only d compAt s t ∧
      compAt t d = { c with state := 2, result := 2, olen := 0, icrc := (compAt t d).icrc, ocrc := 0, inp := [] })) ∧
  (∀ s d b a, (compAt s d).state ≠ 1 → cachedBlock? s d = some b → storeSpace s d b.blockLen = some a →
    Runs (.cacheCompressStart d) s (fun t => t = { s with comps := t.comps } ∧ only d compAt s t ∧
      let dst := BitVec.ofNat 34 (a + 64)
      let limit := BitVec.ofNat 17 (kindPlane b.kind - 64)
      compAt t d = { compAt s d with kind := kindCodes b.kind, dst := dst, limit := limit, state := 1, jobKind := kindCodes b.kind, jobDst := dst,
                                     jobLimit := limit, block := some b.addr, inp := [] })) ∧
  (∀ s d b, (compAt s d).state ≠ 1 → cachedBlock? s d = some b → storeSpace s d b.blockLen = none →
    exec (.cacheCompressStart d) s = .next (cacheLeft (dropCached s d b.addr) d b.addr (some 0x0B))) ∧
  (∀ s d, (compAt s d).state = 1 → exec (.cacheCompressStart d) s = .next s) ∧
  (∀ s d, (∀ b ∈ s.blocks, b.die = d → b.cached = false) → exec (.cacheCompressStart d) s = .next s) ∧
  (∀ s d b, let c := compAt s d
    let u := dramTouch s d b.addr b.blockLen
    let bytes := dramRd u d b.addr b.blockLen
    let plane := slice bytes 64 (kindPlane b.kind)
    let stream := encodePlane plane (if kindCodes b.kind then 1024 else 2048)
    c.state = 1 → c.block = some b.addr → s.blocks.find? (fun o => o.die == d && o.cached && o.addr == b.addr) = some b →
    dramWaits s d b.addr b.blockLen = false →
    (exec (.cmpJobEnd d true) s = .next (cacheLeft (dropCached (cmpStops u d 2) d b.addr) d b.addr (some 0x0C))) ∧
    ((∀ j, j < kindPlane b.kind / 64 → dramBad u d (b.addr + 64 + 64 * j) = false) →
      (c.jobLimit.toNat < stream.length → exec (.cmpJobEnd d false) s = .next (cacheLeft
        (placeAt (dropCached (cmpEnd u d 1 [] (crc32c plane)) d b.addr) d (c.jobDst.toNat - 64) b bytes) d b.addr none)) ∧
      (stream.length ≤ c.jobLimit.toNat → crc32c plane = b.rawCrc → exec (.cmpJobEnd d false) s = .next (cacheLeft
        (placeAt (dropCached (cmpEnd (dramWr u d c.jobDst.toNat stream) d 0 stream (crc32c plane)) d b.addr) d (c.jobDst.toNat - 64)
          (recompressed b bytes stream).1 (recompressed b bytes stream).2) d b.addr none)) ∧
      (stream.length ≤ c.jobLimit.toNat → crc32c plane ≠ b.rawCrc → exec (.cmpJobEnd d false) s = .next (cacheLeft
        (dropCached (cmpEnd (dramWr u d c.jobDst.toNat stream) d 0 stream (crc32c plane)) d b.addr) d b.addr (some 0x0C))))) ∧
  (∀ b bytes stream, let r := recompressed b bytes stream
    r.1.raw = false ∧ r.1.payloadLen = stream.length ∧ r.1.storedCrc = crc32c stream ∧ r.1.rawCrc = b.rawCrc ∧ r.1.id = b.id ∧ r.1.kind = b.kind ∧
      slice r.2 64 stream.length = stream) ∧
  (∀ s d a b bytes, let t := placeAt s d a b bytes
    { b with die := d, addr := a, cached := false, old := false, bad := false } ∈ t.blocks ∧
      ∀ o, o ∈ t.blocks → o.id = b.id → o.cached = false → o.old = false → o.die = d ∧ o.addr = a)

/-- R123: a job ends with exactly one result. The end of a running job and an ABORT of it each take the compressor from RUN to DONE with one result, 0 to 3;
once it is not running, neither changes anything, so that the end that comes first stands. START while a job runs only sets START_IGN. -/
def Obligations.CompressJobEndsOnce : Prop :=
  (∀ s t d p, exec (.cmpJobEnd d p) s = .next t → compAt t d = compAt s d ∨
    ((compAt s d).state = 1 ∧ (compAt t d).state = 2 ∧ (compAt t d).result.toNat ≤ 2)) ∧
  (∀ s t d, exec (.cmpAbort d) s = .next t → compAt t d = compAt s d ∨
    ((compAt s d).state = 1 ∧ (compAt t d).state = 2 ∧ (compAt t d).result = 3)) ∧
  (∀ s d p, (compAt s d).state ≠ 1 → exec (.cmpJobEnd d p) s = .next s ∧ exec (.cmpAbort d) s = .next s) ∧
  (∀ s d p, let c := compAt s d
    c.state = 1 → c.block = none → jobPlane c ≤ c.inp.length →
    ∃ t, exec (.cmpJobEnd d p) s = .next t ∧ (compAt t d).state = 2) ∧
  (∀ s d, arrives s d = true → s.dia.valid = false → (compAt s d).state = 1 →
    ∃ t, exec (.cmpStart d) s = .next t ∧ t = { s with comps := t.comps } ∧ only d compAt s t ∧
      compAt t d = { compAt s d with startIgn := true })

/-- R103-R117, R125: a decompressor begins its next block with empty history, a header that names another block being an error; takes a token and emits its bytes
one by one into history and CRC, every eighth making a word of a cell's record, for which it stalls while there is no room, and waits for stored bytes not
yet there; a raw segment, and the zeros after an error, pass a line at a time; it records a format error and fills with zeros, goes on from a wait, and compares
a completed plane with RAW_CRC, stored bytes left over being LONG; on a row in mode CRC a block that fails has its lines withheld. Its follower's line becomes
the replay line. Stored bytes are read as any reader of the band ring reads them (R285-R288). -/
def Obligations.DecompressorsExpandBands : Prop :=
  (∀ s d k n i, let x := clauseIx d k
    let c := clauseAt s x
    n < 2 → (c.dec n).busy = false → (c.dec n).reexpand = none → nextInput? c (clauseRow s x) n (c.dec n) = some i → i.bytes ≠ [] →
    identityOk i = true → Runs (.decompBlockStart d k n) s (fun t => t = { s with clauses := t.clauses } ∧ only x clauseAt s t ∧
      let e := (clauseAt t x).dec n
      e.st = .run ∧ e.busy = true ∧ e.absBand = i.absBand ∧ e.inPos = 0 ∧ e.outPos = 0 ∧ e.crc = 0xFFFFFFFF ∧ e.live = [] ∧ e.tok = none ∧
        e.zeroFill = false ∧ (clauseAt t x).dec (1 - n) = c.dec (1 - n))) ∧
  (∀ s d k n i, let x := clauseIx d k
    let c := clauseAt s x
    n < 2 → (c.dec n).busy = false → (c.dec n).reexpand = none → nextInput? c (clauseRow s x) n (c.dec n) = some i → i.bytes ≠ [] →
    identityOk i = false → (clauseRow s x).integrity = 1 → Runs (.decompBlockStart d k n) s (fun t =>
      t = { s with clauses := t.clauses, evqs := t.evqs } ∧ only x clauseAt s t ∧ (clauseAt t x).lastFcode = 6 ∧ (clauseAt t x).lastCause = 2 ∧
      (clauseAt t x).fmtCnt = satInc c.fmtCnt ∧ ((clauseAt t x).dec n).zeroFill = true ∧ ((clauseAt t x).dec n).busy = true ∧
      ((clauseAt t x).dec n).absBand = i.absBand)) ∧
  (∀ s d k n, ((clauseAt s (clauseIx d k)).dec n).busy = true → exec (.decompBlockStart d k n) s = .next s) ∧
  (∀ s d k n i src m used, let x := clauseIx d k
    let u := readToken s x n
    let e := (clauseAt u x).dec n
    let lam := lineLen (kindCodes i.block.kind)
    n < 2 → e.busy = true → e.st = .run → e.tok = none → e.reexpand = none → e.zeroFill = false → i.block.raw = false →
    ((clauseAt s x).dec n) = e → decInput? (clauseAt s x) (clauseRow s x) n e = some i → i.flips = [] →
    e.outPos < 64 * lam → lineFor? (clauseAt s x) e.absBand (e.outPos / lam) ≠ none →
    tokRead i.bytes i.badByte i.block.payloadLen lam e.inPos e.outPos = .tok src m used →
    u = s ∧ exec (.decompToken d k n) s = .next (emitBytes x n (m + 1) (modClause s x (fun c => c.setDec n
      { (if e.outPos % lam = 0 then e.checkpoint (e.outPos / lam) else e) with tok := some (src, m), inPos := e.inPos + used })))) ∧
  (∀ s d k n i, let x := clauseIx d k
    let e := (clauseAt s x).dec n
    let lam := lineLen (kindCodes i.block.kind)
    let rest := lam - e.outPos % lam
    n < 2 → e.busy = true → e.st = .run → e.tok = none → e.reexpand = none → (e.zeroFill = true ∨ i.block.raw = true) →
    decInput? (clauseAt s x) (clauseRow s x) n e = some i → e.outPos < 64 * lam → lineFor? (clauseAt s x) e.absBand (e.outPos / lam) ≠ none →
    exec (.decompToken d k n) s = .next (emitBytes x n (rest + 1) (modClause s x (fun c => c.setDec n
      { (if e.outPos % lam = 0 then e.checkpoint (e.outPos / lam) else e) with
        tok := some (if e.zeroFill then .value 0 else .literal, rest) })))) ∧
  (∀ s x n fuel i src left b l, let c := clauseAt s x
    let e := c.dec n
    let lam := lineLen (kindCodes i.block.kind)
    let dest := wordDest (kindCodes i.block.kind) ((clauseRow s x).overlay && n == 1) (e.outPos % lam)
    let e' : Decomp := { e with acc := e.acc ++ [b], crc := crc32cByte e.crc b, outPos := e.outPos + 1,
                                inPos := if src = .literal then e.inPos + 1 else e.inPos, live := if i.block.raw then [] else window (e.live ++ [b]),
                                tok := if left = 1 then none else some (src, left - 1), st := .run }
    n < 2 → decInput? c (clauseRow s x) n e = some i → i.flips = [] → e.tok = some (src, left) → left ≠ 0 → tokByte i e src = some (.ok b) →
    lineFor? c e.absBand (e.outPos / lam) = some l →
    (e.acc.length ≠ 7 → emitBytes x n (fuel + 1) s = emitBytes x n fuel (modClause s x (fun c => c.setDec n e'))) ∧
    (e.acc.length = 7 → wordRoom s x dest.1 l.q dest.2 = false → emitBytes x n (fuel + 1) s = modClause s x (fun c => c.setDec n { e with st := .stall })) ∧
    (e.acc.length = 7 → wordRoom s x dest.1 l.q dest.2 = true → emitBytes x n (fuel + 1) s = emitBytes x n fuel
      (modClause (pushWord s x dest.1 l.q dest.2 (BitVec.ofNat 64 (leNat (e.acc ++ [b])))) x (fun c => c.setDec n { e' with acc := [] })))) ∧
  (∀ s x n fuel i left, let e := (clauseAt s x).dec n
    n < 2 → decInput? (clauseAt s x) (clauseRow s x) n e = some i → i.flips = [] → e.tok = some (.literal, left) → left ≠ 0 →
    (tokByte i e .literal = none → emitBytes x n (fuel + 1) s = modClause s x (fun c => c.setDec n { e with st := .wait })) ∧
    (∀ f, tokByte i e .literal = some (.error f) →
      emitBytes x n (fuel + 1) s = formatError s x n f (e.outPos / lineLen (kindCodes i.block.kind)) e.absBand)) ∧
  (∀ s x n fuel, ((clauseAt s x).dec n).tok = none → emitBytes x n fuel s = s) ∧
  (∀ s d k n i v m used, let x := clauseIx d k
    let c := clauseAt s x
    let e := c.dec n
    let lam := lineLen (kindCodes i.block.kind)
    n < 2 → e.busy = true → e.st = .run → e.tok = none → e.reexpand = none → e.zeroFill = false → i.block.raw = false →
    decInput? c (clauseRow s x) n e = some i → i.flips = [] → e.outPos < 64 * lam → lineFor? c e.absBand (e.outPos / lam) ≠ none →
    tokRead i.bytes i.badByte i.block.payloadLen lam e.inPos e.outPos = .tok (.value v) m used → 0 < m → e.acc.length + m < 8 →
    Runs (.decompToken d k n) s (fun t => t = { s with clauses := t.clauses } ∧ only x clauseAt s t ∧
      let e' := (clauseAt t x).dec n
      e'.st = .run ∧ e'.tok = none ∧ e'.outPos = e.outPos + m ∧ e'.inPos = e.inPos + used ∧ e'.acc = e.acc ++ List.replicate m v ∧
        e'.crc = (List.replicate m v).foldl crc32cByte e.crc ∧ e'.absBand = e.absBand)) ∧
  (∀ s d k n i, let x := clauseIx d k
    let c := clauseAt s x
    let e := c.dec n
    let lam := lineLen (kindCodes i.block.kind)
    n < 2 → e.busy = true → e.st = .run → e.tok = none → e.reexpand = none → e.zeroFill = false → i.block.raw = false →
    decInput? c (clauseRow s x) n e = some i → i.flips = [] → e.outPos < 64 * lam → lineFor? c e.absBand (e.outPos / lam) ≠ none →
    (tokRead i.bytes i.badByte i.block.payloadLen lam e.inPos e.outPos = .more →
      Runs (.decompToken d k n) s (fun t => t = { s with clauses := t.clauses } ∧ only x clauseAt s t ∧ ((clauseAt t x).dec n).st = .wait ∧
        ((clauseAt t x).dec n).inPos = e.inPos ∧ ((clauseAt t x).dec n).outPos = e.outPos)) ∧
    (∀ f, tokRead i.bytes i.badByte i.block.payloadLen lam e.inPos e.outPos = .bad f → (clauseRow s x).integrity = 1 →
      Runs (.decompToken d k n) s (fun t => t = { s with clauses := t.clauses, evqs := t.evqs } ∧ only x clauseAt s t ∧
        (clauseAt t x).fmtCnt = satInc c.fmtCnt ∧ (clauseAt t x).crcCnt = c.crcCnt ∧ (clauseAt t x).lastCause = 2 ∧
        (clauseAt t x).lastFcode = BitVec.ofNat 3 f ∧ ((clauseAt t x).dec n).zeroFill = true))) ∧
  (∀ s d k n, let e := (clauseAt s (clauseIx d k)).dec n
    (e.busy = false ∨ e.st ≠ .run ∨ e.tok.isSome = true ∨ e.reexpand.isSome = true) → exec (.decompToken d k n) s = .next s) ∧
  (∀ s d k n m, let x := clauseIx d k
    let c := clauseAt s x
    n < 2 → (c.dec n).busy = true → (c.dec n).reexpand = none → ((c.dec n).st = .wait ∨ (c.dec n).st = .stall) →
    Runs (.decompResume d k n m) s (fun t => ∃ u : State, u = { s with clauses := u.clauses, cells := u.cells, dmem := u.dmem, poison := u.poison, flips := u.flips } ∧
      only x clauseAt s u ∧ (clauseAt u x).dec n = { c.dec n with st := .run } ∧
      (clauseAt u x).stallCycles = (if (c.dec n).st = .stall then satAdd c.stallCycles m else c.stallCycles) ∧
      t = match (c.dec n).tok with
        | some q => emitBytes x n (q.2 + 1) u
        | none => u)) ∧
  (∀ s d k n m, let e := (clauseAt s (clauseIx d k)).dec n
    (e.busy = false ∨ (e.st ≠ .wait ∧ e.st ≠ .stall) ∨ e.reexpand.isSome = true) → exec (.decompResume d k n m) s = .next s) ∧
  (∀ s d k n i, let x := clauseIx d k
    let c := clauseAt s x
    let e := c.dec n
    n < 2 → e.busy = true → e.tok = none → e.reexpand = none → decInput? c (clauseRow s x) n e = some i →
    64 * lineLen (kindCodes i.block.kind) ≤ e.outPos →
    let long : Bool := e.zeroFill == false && i.block.raw == false && decide (e.inPos < i.block.payloadLen)
    let wrong : Bool := e.zeroFill == false && long == false && e.crc ^^^ 0xFFFFFFFF != i.block.rawCrc
    (long = false → wrong = false → Runs (.decompSegmentEnd d k n) s (fun t => t = { s with clauses := t.clauses } ∧
      only x clauseAt s t ∧ (clauseAt t x).dec n = { e with busy := false, st := .idle } ∧ (clauseAt t x).crcCnt = c.crcCnt)) ∧
    (wrong = true → (clauseRow s x).integrity = 1 → Runs (.decompSegmentEnd d k n) s (fun t =>
      t = { s with clauses := t.clauses, evqs := t.evqs } ∧ only x clauseAt s t ∧ (clauseAt t x).dec n = { e with busy := false, st := .idle } ∧
      (clauseAt t x).crcCnt = satInc c.crcCnt ∧ (clauseAt t x).fmtCnt = c.fmtCnt ∧ (clauseAt t x).lastCause = 1 ∧
      (clauseAt t x).lastBand = BitVec.ofNat 16 (e.absBand % 8192))) ∧
    (long = true → (clauseRow s x).integrity = 1 → Runs (.decompSegmentEnd d k n) s (fun t =>
      t = { s with clauses := t.clauses, evqs := t.evqs } ∧ only x clauseAt s t ∧ (clauseAt t x).dec n = { e with busy := false, st := .idle } ∧
      (clauseAt t x).fmtCnt = satInc c.fmtCnt ∧ (clauseAt t x).crcCnt = c.crcCnt ∧ (clauseAt t x).lastCause = 2 ∧ (clauseAt t x).lastFcode = 5)) ∧
    ((long = true ∨ wrong = true) → (clauseRow s x).integrity ≠ 1 → Runs (.decompSegmentEnd d k n) s (fun t => ∃ u : State,
      u = { s with clauses := u.clauses, evqs := u.evqs } ∧ ((clauseAt u x).dec n).busy = false ∧
      (clauseAt u x).input = c.input.map (fun j => if j.absBand = e.absBand then { j with failed := true } else j) ∧
      t = withholdFailed u x e.absBand))) ∧
  (∀ s d k n, let e := (clauseAt s (clauseIx d k)).dec n
    (e.busy = false ∨ e.tok.isSome = true ∨ e.reexpand.isSome = true) → exec (.decompSegmentEnd d k n) s = .next s) ∧
  (∀ s d k n q i, let x := clauseIx d k
    let c := clauseAt s x
    let e := c.dec n
    let lam := lineLen (kindCodes i.block.kind)
    n < 2 → e.following = some q → c.inputFor? q.absBand ((clauseRow s x).overlay && n == 1) = some i → i.flips = [] →
    exec (.followerDone d k n) s = .next (kickFollowers (setClause s x (c.setDec n { e with
      following := none, ckpts := e.ckpts.drop 1,
      replay := window (if q.zero then e.replay ++ List.replicate lam 0 else decodeLine i lam lam q.inPos q.outPos lam e.replay) })) x)) ∧
  (∀ s d k n, ((clauseAt s (clauseIx d k)).dec n).following = none → exec (.followerDone d k n) s = .next s) ∧
  (∀ s d k n q i, let x := clauseIx d k
    let c := clauseAt s x
    let e := c.dec n
    let lam := lineLen (kindCodes i.block.kind)
    n < 2 → e.following = some q → e.reexpand = none → e.ckpts = [q] → c.inputFor? q.absBand ((clauseRow s x).overlay && n == 1) = some i →
    i.flips = [] → q.zero = false →
    Runs (.followerDone d k n) s (fun t => t = { s with clauses := t.clauses } ∧ only x clauseAt s t ∧ (clauseAt t x).dec n =
      { e with following := none, ckpts := [], replay := window (decodeLine i lam lam q.inPos q.outPos lam e.replay) }))

/-! ### Integrity, managers, the event log and calibration (R251-R271, R434-R459) -/

/-- R251-R255, R261, R266-R270: a line in Checking whose signature agrees is Ready, and a pending fault then transient; one whose first check fails is run again;
a re-run that fails alike withholds the line INPUT, one that fails otherwise CHECK, a permanent fault of a serving clause; on a FENCING clause a failure withholds
the line CHECK. A spare becomes ready, or fails and is fenced PREPARE, and takes its slot over at a band's line 0; an unfence test ends in SPARE and UNFENCED, or
in FENCED. -/
def Obligations.ChecksAndTakeovers : Prop :=
  (∀ s d k l g p i, let x := clauseIx d k
    let c := clauseAt s x
    c.lines.find? (fun l => l.st == .checking) = some l → clauseSlot? s x = some g → l.at_ = some p → trailerInput? c p.absBand = some i →
    l.rerun = false → c.lineOf? l.line = some l → (∀ m ∈ c.lines, m.rerunWait = false) → l.flips = [] → quietDram s = true →
    dramWaits s i.block.die (sigAddr i p.bandLine) 4 = false → dramBad s i.block.die (sigAddr i p.bandLine) = false →
    let sig := crc32c (natLE 4 p.page.toNat ++ natLE 4 (if i.overlay then p.copy else 0).toNat ++ [BitVec.ofNat 8 g.row, 0] ++
      natLE 2 g.pos ++ natLE 4 (64 * p.band + p.bandLine) ++ l.codeBytes)
    let want : Word := BitVec.ofNat 32 (leNat (dramRd s i.block.die (i.block.addr + i.block.trailerAt + 4 * p.bandLine) 4))
    (l.poison = [] → sig = want → Runs (.sigCheckDone d k) s (fun t =>
      only x clauseAt s t ∧ ∃ m, (clauseAt t x).lineOf? l.line = some m ∧ m.st = .ready ∧ m.codes = l.codes)) ∧
    ((l.poison ≠ [] ∨ sig ≠ want) → c.st = .serving → c.bandLost p.absBand = false → c.rerunning = false →
      Runs (.sigCheckDone d k) s (fun t => only x clauseAt s t ∧
        ∃ m, (clauseAt t x).lineOf? l.line = some m ∧ m.st = .filling ∧ m.rerun = true ∧ m.rerunDue = l.begun ∧ m.fault = true ∧
          m.sig1 = some sig))) ∧
  (∀ s d k l g p i, let x := clauseIx d k
    let c := clauseAt s x
    let a := sigAddr i p.bandLine
    let u := dramTouch s i.block.die a 4
    c.lines.find? (fun l => l.st == .checking) = some l → clauseSlot? s x = some g → l.at_ = some p → trailerInput? c p.absBand = some i →
    l.rerun = true → c.lineOf? l.line = some l → l.flips = [] → quietDram s = true → dramWaits s i.block.die a 4 = false →
    dramBad s i.block.die a = false →
    let sig := crc32c (natLE 4 p.page.toNat ++ natLE 4 (if i.overlay then p.copy else 0).toNat ++ [BitVec.ofNat 8 g.row, 0] ++
      natLE 2 g.pos ++ natLE 4 (64 * p.band + p.bandLine) ++ l.codeBytes)
    let ok : Bool := l.poison == [] && sig == BitVec.ofNat 32 (leNat (dramRd s i.block.die a 4))
    (ok = true → exec (.sigCheckDone d k) s =
      .next (if l.fault then transientClause (lineReady u x l.line) x else lineReady u x l.line)) ∧
    (ok = false → c.st = .fencing → exec (.sigCheckDone d k) s = .next (withhold u x l.line 2)) ∧
    (ok = false → c.st ≠ .fencing → l.sig1 = some sig → exec (.sigCheckDone d k) s = .next (inputFailure (withhold u x l.line 3) x p)) ∧
    (ok = false → c.st ≠ .fencing → l.sig1 ≠ some sig → exec (.sigCheckDone d k) s = .next (permanentIfServing (withhold u x l.line 2) x 2))) ∧
  (∀ s d k l g p i, let x := clauseIx d k
    let c := clauseAt s x
    let a := sigAddr i p.bandLine
    c.lines.find? (fun l => l.st == .checking) = some l → clauseSlot? s x = some g → l.at_ = some p → trailerInput? c p.absBand = some i →
    l.flips = [] → dramWaits s i.block.die a 4 = true → exec (.sigCheckDone d k) s = .next s) ∧
  (∀ s x L l cause, (clauseAt s x).lineOf? L = some l → l.settled = false →
    ∃ m, (clauseAt (withhold s x L cause) x).lineOf? L = some m ∧ m.st = .withheld ∧ m.cause = cause) ∧
  (∀ s x L l, (clauseAt s x).lineOf? L = some l → l.settled = false →
    ∃ m, (clauseAt (lineReady s x L) x).lineOf? L = some m ∧ m.st = .ready ∧ m.codes = l.codes) ∧
  (∀ s d k, (∀ l ∈ (clauseAt s (clauseIx d k)).lines, l.st ≠ .checking) → exec (.sigCheckDone d k) s = .next s) ∧
  (∀ s d k, d < 8 → k < 66 → let x := clauseIx d k
    (clauseAt s x).st = .spare → (clauseAt s x).spareFor ≠ none → (clauseAt s x).prepared = false → dieLive s d = true →
    Runs (.spareReady d k false) s (fun t => (clauseAt t x).st = .fenced ∧ (fenceOf t (.clause d k)).st = .fenced ∧
      (fenceOf t (.clause d k)).reason = 6)) ∧
  (∀ s d k ok, let c := clauseAt s (clauseIx d k)
    (c.st ≠ .spare ∨ c.spareFor = none ∨ c.prepared = true) → exec (.spareReady d k ok) s = .next s) ∧
  (∀ s d k x, takeoverFrom? s (clauseIx d k) = some x → (takeoverDue s x = false ∨ mayAdmit s x = false ∨ (clauseAt s x).preparing = none) →
    exec (.takeover d k) s = .next s) ∧
  (∀ s d k p, (clauseAt s (clauseIx d k)).st ≠ .testing → exec (.unfenceTestDone d k p) s = .next s) ∧
  (∀ s d k, let x := clauseIx d k
    (clauseAt s x).st = .spare → (clauseAt s x).spareFor ≠ none → (clauseAt s x).prepared = false → Runs (.spareReady d k true) s (fun t =>
      t = { s with clauses := t.clauses } ∧ only x clauseAt s t ∧ clauseAt t x = { clauseAt s x with prepared := true })) ∧
  (∀ s d k x y p, takeoverFrom? s (clauseIx d k) = some x → (clauseAt s x).preparing = some y → x ≠ y →
    (clauseSlot? s x).bind (fun g => placeRowLine s g.row (clauseAt s x).nextLine) = some p → p.bandLine = 0 →
    (clauseAt s x).endLine = none → takeoverDue s x = true → mayAdmit s x = true →
    Runs (.takeover d k) s (fun t => (clauseAt t y).st = .serving ∧ (clauseAt t y).slot = (clauseAt s x).slot ∧
      (clauseAt t x).endLine = some (clauseAt s x).nextLine ∧
      sget none t.slotMap (64 * (x / 66) + (clauseAt s x).slot) = some (y % 66))) ∧
  (∀ s d k, k < 66 → (clauseAt s (clauseIx d k)).st = .testing → s.dia.valid = true → Runs (.unfenceTestDone d k true) s (fun t =>
    (clauseAt t (clauseIx d k)).st = .spare ∧ (fenceOf t (.clause d k)).st = .unfenced ∧
      (fenceOf t (.clause d k)).reason = (fenceOf s (.clause d k)).reason)) ∧
  (∀ s d k, k < 66 → (clauseAt s (clauseIx d k)).st = .testing → Runs (.unfenceTestDone d k false) s (fun t =>
    (clauseAt t (clauseIx d k)).st = .fenced ∧ (clauseAt t (clauseIx d k)).powered = false ∧
      (fenceOf t (.clause d k)).st = .fenced ∧ (fenceOf t (.clause d k)).reason = (fenceOf s (.clause d k)).reason))

/-- R263, R264, R288, R360, R424, R434, R435, R442-R444, R490: a die's heartbeat sets out for die 0 and is lost with a core that reads poison in its TCM; watchdogs,
sensor readings with their windows, and safety trips, which fence a die other than 0 until power-on reset and take its links, clauses and axes down. Nothing is
taken of a die whose core does not run, or of a sensor whose converter is being calibrated. -/
def Obligations.ManagersWatchTheDies : Prop :=
  (∀ s d rs, d ≠ 0 → coreRuns s d = true → s.flips = [] → (∀ n, n ∈ rs → poisoned s .tcm d n = false) → exec (.heartbeatSend d rs) s =
    .next { s with fabric := s.fabric ++ [⟨d, none, homePath s d, .beat d⟩], out := .heartbeat d :: s.out }) ∧
  (∀ s d rs n, coreRuns s d = true → s.flips = [] → n ∈ rs → poisoned s .tcm d n = true → Runs (.heartbeatSend d rs) s (fun t =>
    t = { s with mgt := t.mgt } ∧ only d mgtAt s t ∧ mgtAt t d = { mgtAt s d with coreStopped := true })) ∧
  (∀ s d rs, coreRuns s d = false → exec (.heartbeatSend d rs) s = .next s) ∧
  (∀ s rs, s.flips = [] → (∀ n, n ∈ rs → poisoned s .tcm 0 n = false) → exec (.heartbeatSend 0 rs) s = .next s) ∧
  (∀ s d, (d = 0 ∨ dieLive s d = false) → exec (.heartbeatTimeout d) s = .next s) ∧
  (∀ s d, coreRuns s d = false → exec (.mgtWatchdogExpiry d) s = .next s) ∧
  (∀ s d i v, s.cal.busy = true → s.cal.item = 2 → s.cal.res = d → exec (.sensorUpdate d i v) s = .next s) ∧
  (∀ s v, dieOk s 0 = true → powered s → (s.cal.busy = false ∨ s.cal.item ≠ 2 ∨ s.cal.res ≠ 0) → Runs (.sensorUpdate 0 15 v) s (fun t =>
    t = { s with sense := t.sense } ∧ sget {} t.sense 15 = ⟨true, false, v⟩)) ∧
  (∀ s d, ((mgtAt s d).warn = false ∨ ∃ i, i < 9 ∧ 16 * ((mgtAt s d).twarn.toNat - 5 : Int) ≤ (senseAt s d i).value.toInt) →
    exec (.thermalWarnClear d) s = .next s) ∧
  (∀ s d rail i v, 0 < d → dieOk s d = true → powered s → (mgtAt s d).trip = false → tripReading rail i v = true → isFenced s (.die d) = false →
    Runs (.safetyTrip d rail i v) s (fun t => (mgtAt t d).trip = true ∧ isFenced t (.die d) = true ∧ (fenceOf t (.die d)).reason = 8 ∧
      (fenceOf t (.die d)).safety = true ∧ (∀ k, k < 66 → (clauseAt t (clauseIx d k)).powered = false) ∧
      ∀ a, (a = 2 * d ∨ a = 2 * d + 1) → (axisAt t a).holdLow = true ∧ (axisAt t a).vel = 0 ∨ (axisAt s a).st = .off)) ∧
  (∀ s d, d ≠ 0 → powered s → dieLive s d = true → Runs (.heartbeatTimeout d) s (fun t =>
    isFenced t (.die d) = true ∧ (fenceOf t (.die d)).reason = 10 ∧ t.tb = max s.tb ((mgtAt s d).lastBeat + 2500000))) ∧
  (∀ s d, d ≠ 0 → coreRuns s d = true → Runs (.mgtWatchdogExpiry d) s (fun t => t = { s with mgt := t.mgt } ∧ only d mgtAt s t ∧
    mgtAt t d = { mgtAt s d with coreStopped := true })) ∧
  (∀ s, coreRuns s 0 = true → Runs (.mgtWatchdogExpiry 0) s (fun t => (mgtAt t 0).coreStopped = true ∧ t.die0Fault = true)) ∧
  (∀ s d i v, dieOk s d = true → powered s → i ≤ 8 → (s.cal.busy = false ∨ s.cal.item ≠ 2 ∨ s.cal.res ≠ d) →
    v.toInt < 16 * ((mgtAt s d).twarn.toNat : Int) → Runs (.sensorUpdate d i v) s (fun t => t = { s with sense := t.sense, mgt := t.mgt } ∧
      only (16 * d + i) (fun u n => sget {} u.sense n) s t ∧ sget {} t.sense (16 * d + i) = ⟨true, false, v⟩ ∧ only d mgtAt s t ∧
      mgtAt t d = { mgtAt s d with tmax := BitVec.ofInt 8 (max (mgtAt s d).tmax.toInt (v.toInt / 16)) })) ∧
  (∀ s d i v, dieOk s d = true → powered s → i ≤ 8 → (s.cal.busy = false ∨ s.cal.item ≠ 2 ∨ s.cal.res ≠ d) →
    16 * ((mgtAt s d).twarn.toNat : Int) ≤ v.toInt → Runs (.sensorUpdate d i v) s (fun t => (mgtAt t d).warn = true ∧
      sget {} t.sense (16 * d + i) = ⟨true, true, v⟩ ∧ t = { s with sense := t.sense, mgt := t.mgt, evqs := t.evqs })) ∧
  (∀ s d i lo hi v, dieOk s d = true → powered s → (s.cal.busy = false ∨ s.cal.item ≠ 2 ∨ s.cal.res ≠ d) →
    (i, lo, hi) ∈ [(9, 720, 790), (10, 770, 840), (11, 475, 570), (12, 820, 890), (13, 1710, 1890), (14, 1620, 1980)] →
    Runs (.sensorUpdate d i v) s (fun t => t = { s with sense := t.sense } ∧ only (16 * d + i) (fun u n => sget {} u.sense n) s t ∧
      sget {} t.sense (16 * d + i) = ⟨true, decide (v.toNat < lo ∨ hi < v.toNat), v⟩)) ∧
  (∀ s d, (mgtAt s d).warn = true → (∀ i, i < 9 → (senseAt s d i).value.toInt < 16 * ((mgtAt s d).twarn.toNat - 5 : Int)) →
    Runs (.thermalWarnClear d) s (fun t => t = { s with mgt := t.mgt } ∧ only d mgtAt s t ∧ mgtAt t d = { mgtAt s d with warn := false })) ∧
  (∀ s rail i v, dieOk s 0 = true → powered s → (mgtAt s 0).trip = false →
    (if rail then (i, v.toNat) ∈ [(9, max 851 v.toNat), (10, max 901 v.toNat), (11, max 621 v.toNat), (12, max 951 v.toNat), (13, max 1981 v.toNat),
      (14, max 2051 v.toNat)] else i ≤ 8 ∧ 1920 ≤ v.toInt) → Runs (.safetyTrip 0 rail i v) s (fun t =>
    t.die0Fault = true ∧ (mgtAt t 0).trip = true)) ∧
  (∀ s d rail i v, tripReading rail i v = false → exec (.safetyTrip d rail i v) s = .next s)

/-- R445-R449, R451-R459, R319: the oldest entry of a die's event queue gets the next SEQ and goes to the rings, the losses since reported; the sector buffer is
written, the interval's vector is sent, the hourly mark is logged; the channels that their drift pinned are retrained, and a calibration slice starts, the first by
item and resource that is due, whose gap is predicted long enough, whose link is ACTIVE and whose last slice was 100 µs ago; it applies its result within its
bounds, or, its gap closed or its echo unanswered, is discarded and stays due; and changed results are stored. -/
def Obligations.EventLogAndCalibration : Prop :=
  (∀ s d e rest, fwRuns s = true → (s.startFailed = true ∨ 5 ≤ (mgtAt s 0).stage.toNat) → dieOk s d = true → (evqAt s (3 * d)).lostNew = 0 →
    (evqAt s (3 * d)).items = .entry e :: rest → s.power.st ≠ .sleep → Runs (.eventLog d) s (fun t => only (3 * d) evqAt s t ∧
      evqAt t (3 * d) = { evqAt s (3 * d) with items := rest } ∧ t.log.seq = s.log.seq + 1 ∧
      t.log.ram.getLast? = some ⟨s.log.seq, e⟩)) ∧
  (∀ s d, (evqAt s (3 * d)).items = [] → exec (.eventLog d) s = .next s) ∧
  (∀ s d e rest n, fwRuns s = true → (s.startFailed = true ∨ 5 ≤ (mgtAt s 0).stage.toNat) → dieOk s d = true → (evqAt s (3 * d)).lostNew = n →
    n ≠ 0 → (evqAt s (3 * d)).items = .entry e :: rest → rest.length < 512 → s.power.st ≠ .sleep → Runs (.eventLog d) s (fun t => only (3 * d) evqAt s t ∧
      (evqAt t (3 * d)).lostNew = 0 ∧ t.log.seq = s.log.seq + 1 ∧ t.log.ram.getLast? = some ⟨s.log.seq, e⟩ ∧
      ∃ l, (evqAt t (3 * d)).items = rest ++ [.entry l] ∧ l.code = 0x0004)) ∧
  (∀ s, s.log.sector = [] → exec .flashSectorTimer s = .next s) ∧
  (∀ s, s.log.sector ≠ [] → s.log.sectors.length = 2048 → Runs .flashSectorTimer s (fun t => t = { s with log := t.log } ∧
    t.log.sectors = s.log.sectors.drop 1 ++ [s.log.sector] ∧ t.log.sector = [] ∧ t.log.ringFirst = (s.log.ringFirst + 1) % 2048)) ∧
  (∀ s, s.log.sector ≠ [] → s.log.sectors.length < 2048 → s.log.ringFirst < 2048 → exec .flashSectorTimer s =
    .next { s with log := { s.log with sector := [], sectors := s.log.sectors ++ [s.log.sector] } }) ∧
  (∀ s, s.log.intervalOpen = true → s.log.qualified = true →
    exec .notifyInterval s = .next (msix { s with log := { s.log with qualified := false } } 4)) ∧
  (∀ s, s.log.intervalOpen = false → exec .notifyInterval s = .next s) ∧
  (∀ s, (fwRuns s = false ∨ s.power.st = .starting) → exec .timeMark s = .next s) ∧
  (∀ s, s.log.intervalOpen = true → s.log.qualified = false →
    exec .notifyInterval s = .next { s with log := { s.log with intervalOpen := false } }) ∧
  (∀ s, fwRuns s = true → s.power.st ≠ .starting → (evqAt s 0).items.length < 512 → Runs .timeMark s (fun t => t = { s with evqs := t.evqs } ∧
    only 0 evqAt s t ∧ (evqAt t 0).items = (evqAt s 0).items ++ [.entry ⟨1, 0, 0, 0, BitVec.ofNat 64 s.tb,
      natLE 4 (aonNow s).toNat ++ natLE 4 2 ++ natLE 4 0 ++ natLE 4 0⟩])) ∧
  (∀ s item res, fwRuns s = true → s.power.st ≠ .starting → s.cal.busy = false → (∀ i, (ddrAt s i).wantRetrain = false) →
    nextSlice? s = some (item, res) → let u := { s with cal := { s.cal with busy := true, item := BitVec.ofNat 3 item, res := res } }
    exec .calSlice s = .next (if item = 4 then sendEcho u res else u)) ∧
  (∀ s, (∀ i, (ddrAt s i).wantRetrain = false) → (s.cal.busy = true ∨ nextSlice? s = none) → exec .calSlice s = .next s) ∧
  (∀ s item res, nextSlice? s = some (item, res) → 1 ≤ item ∧ item ≤ 4 ∧ res ∈ calResources s item ∧ calDue s item res = true ∧
    gapOpen s true item res = true ∧
    (sget 0 s.cal.lastRun (calRes item res) = 0 ∨ sget 0 s.cal.lastRun (calRes item res) + 25000 ≤ s.tb) ∧
    (3 ≤ item → ∃ p, calLink? s item res = some p ∧ (linkAt s (linkIx p.1 p.2)).st = .active) ∧
    ∀ i, 1 ≤ i → i < item → ∀ r, r ∈ calResources s i → sliceReady s i r = false) ∧
  (∀ s item res, res ∈ calResources s item → 1 ≤ item → item ≤ 4 → sliceReady s item res = true → nextSlice? s ≠ none) ∧
  (∀ s i, fwRuns s = true → s.power.st ≠ .starting → s.cal.busy = true → jobOpen s = false → i < 2 * s.part.dies → (ddrAt s i).wantRetrain = true →
    (ddrAt s i).st = .active → Runs .calSlice s (fun t => t = { s with ddr := t.ddr } ∧ (ddrAt t i).st = .retrain)) ∧
  (∀ s v bs, s.cal.busy = true → s.cal.item = 1 → gapOpen s false 1 s.cal.res = true →
    (mgtAt s s.cal.res).trimMin.toNat ≤ (mgtAt s s.cal.res).trimMax.toNat →
    Runs (.calSliceDone v bs) s (fun t => t.cal.busy = false ∧ t.cal.item = 0 ∧ t.cal.changed = true ∧
      ((mgtAt t s.cal.res).trim.toNat : Int) = max ((mgtAt s s.cal.res).trimMin.toNat : Int) (min ((mgtAt s s.cal.res).trimMax.toNat : Int) v) ∧
      only s.cal.res mgtAt s t)) ∧
  (∀ s v bs, s.cal.busy = true → s.cal.item = 2 → gapOpen s false 2 s.cal.res = true →
    Runs (.calSliceDone v bs) s (fun t => t.cal.busy = false ∧ t.cal.item = 0 ∧ t.cal.changed = true ∧
      calResult t 2 s.cal.res = (List.range 16).flatMap (fun i =>
        intLE 4 (max (-(s.cal.ofsMax.toNat : Int)) (min (s.cal.ofsMax.toNat : Int) (signedNat 32 (leAt bs (4 * i) 4))))))) ∧
  (∀ s v bs, s.cal.busy = true → s.cal.item = 3 → gapOpen s false 3 s.cal.res = true →
    Runs (.calSliceDone v bs) s (fun t => t.cal.busy = false ∧ t.cal.item = 0 ∧ (linkAt t s.cal.res).stored = true ∧
      (linkAt t s.cal.res).storedTemp = dieTemp s (s.cal.res / 8))) ∧
  (∀ s v bs round, s.cal.busy = true → s.cal.item = 4 → gapOpen s false 4 s.cal.res = true → (headAt s s.cal.res).round = some round →
    let c := headAt s s.cal.res
    let win : Int := 64 * s.cal.latWin.toNat
    Runs (.calSliceDone v bs) s (fun t => t.cal.busy = false ∧ t.cal.item = 0 ∧ headAt t s.cal.res = { c with
      lat := (max ((c.latCaps : Int) - win) (min ((c.latCaps : Int) + win) (latOf round c.turn : Int))).toNat })) ∧
  (∀ s v bs, s.cal.busy = true →
    (gapOpen s false s.cal.item.toNat s.cal.res = false ∨ (s.cal.item = 4 ∧ (headAt s s.cal.res).round = none)) →
    Runs (.calSliceDone v bs) s (fun t => t = { s with cal := t.cal } ∧
      t.cal.busy = false ∧ t.cal.item = 0 ∧ t.cal.changed = s.cal.changed ∧ (s.cal.item.toNat, s.cal.res) ∈ t.cal.due)) ∧
  (∀ s v bs, s.cal.busy = false → exec (.calSliceDone v bs) s = .next s) ∧
  (∀ s item res, jobOpen s = false → (item = 1 ∨ item = 2) → gapOpen s false item res = true) ∧
  (∀ s r L w, (rowAt s r).committed = some w → commitAt? s r L = some ((rowAt s r).tl + (L - w) * (rowAt s r).period.toNat - 16384)) ∧
  (∀ s, s.cal.changed = true → (s.cal.atOnce = true ∨ s.cal.lastWrite = none ∨ ∃ w, s.cal.lastWrite = some w ∧ w + 15000000000 ≤ s.tb) →
    Runs .calStoreWrite s (fun t => t = { s with cal := t.cal, flash := t.flash } ∧ t.cal.changed = false ∧ t.cal.count = s.cal.count + 1 ∧
      t.cal.seq = s.cal.seq + 1 ∧ t.cal.lastWrite = some s.tb ∧ t.cal.results = s.cal.results)) ∧
  (∀ s, s.cal.changed = false → exec .calStoreWrite s = .next s)

/-! ### Cells (R127-R161) -/

/-- No flipped bit stands in an array of a kind that belongs to `i`: its reads deliver what was last stored there (R285). -/
abbrev Sys2Proof.Claims.noFlips (s : State) (k : ArrKind) (i : Nat) : Prop := ∀ p ∈ s.flips, p.1.kind = k → p.1.owner ≠ i

/-- A cell stands running and not stalled at a word of opcode `op` with fields `w`, which it fetches without a flipped bit. -/
abbrev Sys2Proof.Claims.atWord (s : State) (ci : CellId) (op : Nat) (w : CellWord) : Prop :=
  let c := cellAt s (cellIx ci)
  c.st = .run ∧ c.stall = none ∧ noFlips s .cellInstr (cellIx ci) ∧ imemWord s (cellIx ci) c.pc.toNat = BitVec.ofNat 6 op ++ w

/-- Whether the block that holds the instruction at a cell's PC is poisoned. -/
abbrev Sys2Proof.Claims.fetchBad (s : State) (ci : CellId) : Bool :=
  poisoned s .cellInstr (cellIx ci) ((cellAt s (cellIx ci)).pc.toNat / 2)

/-- A cell is about to issue instruction `op` with fields `w`: the word is not poisoned, and no BATM still owes a register the
instruction reads (R143, R150). -/
abbrev Sys2Proof.Claims.issues (s : State) (ci : CellId) (op : Nat) (w : CellWord) (regs : List Nat) : Prop :=
  atWord s ci op w ∧ fetchBad s ci = false ∧ (cellAt s (cellIx ci)).owesReg? regs = none

/-- The instruction retires after `n` cycles, having changed its own cell by `f` and nothing else. -/
abbrev Sys2Proof.Claims.retires (s : State) (ci : CellId) (n : Nat) (f : Cell → Cell) (t : State) : Prop :=
  t = { s with cells := t.cells } ∧ only (cellIx ci) cellAt s t ∧
    cellAt t (cellIx ci) = (f (cellAt s (cellIx ci))).retire n

/-- The instruction retires after `n` cycles, having written the guarded lanes of vector register `d` with `f`; the other lanes and
registers keep their values (R148). -/
abbrev Sys2Proof.Claims.writesLanes (s : State) (ci : CellId) (n d : Nat) (guard : BitVec 8) (f : Nat → BitVec 16) (t : State) : Prop :=
  let c := cellAt s (cellIx ci)
  let e := cellAt t (cellIx ci)
  t = { s with cells := t.cells } ∧ only (cellIx ci) cellAt s t ∧ e = ({ c with v := e.v } : Cell).retire n ∧
    (∀ r, r ≠ d → e.rv r = c.rv r) ∧
    ∀ l, l < 8 → lane (e.rv d) l = if guard.getLsbD l then f l else lane (c.rv d) l

/-- The cell stands at a new PC with its open loops, after `n` cycles; nothing else changed but what `f` did to it. -/
abbrev Sys2Proof.Claims.goes (s : State) (ci : CellId) (n pc : Nat) (f : Cell → Cell) (t : State) : Prop :=
  let c := f (cellAt s (cellIx ci))
  t = { s with cells := t.cells } ∧ only (cellIx ci) cellAt s t ∧
    cellAt t (cellIx ci) = { c with
      cur := c.cur.map (fun g => { g with cycles := g.cycles + n })
      loops := c.loops.filter (fun l => decide (l.start ≤ pc) && decide (pc ≤ l.stop))
      pc := BitVec.ofNat 10 pc }

/-- The instruction stalls before any effect, for `st`. -/
abbrev Sys2Proof.Claims.stalls (s : State) (ci : CellId) (st : Stall) (t : State) : Prop :=
  t = { s with cells := t.cells } ∧ only (cellIx ci) cellAt s t ∧
    cellAt t (cellIx ci) = { cellAt s (cellIx ci) with stall := some st }

/-- What a trap records in its own cell, which then waits for its restart: the cause, code and PC, the line of the segment or NOLINE, the
segment ended and its words discarded, its overrun owed, the reload its cause asks for, and its registers as they are. Outside a segment
nothing but the cell and the fault record of its clause is touched, and a serving clause without a transient fault in its window counts one
(R155-R157, R159, R161, R260). A clause that prepares as a spare is fenced instead: that is a statement of its own. -/
abbrev Sys2Proof.Claims.trapped (s : State) (ci : CellId) (cause code : Nat) (at_ : Option Nat) (t : State) : Prop :=
  let x := clauseIx ci.die ci.clause
  let c := cellAt s (cellIx ci)
  let e := cellAt t (cellIx ci)
  (clauseAt s x).st ≠ .spare →
    e.st = .restart ∧ e.cause = BitVec.ofNat 4 cause ∧ e.code = BitVec.ofNat 8 code ∧ e.trapPc = c.pc ∧ e.traps = satInc c.traps ∧
    e.cur = none ∧ e.stall = none ∧ e.s = c.s ∧ e.v = c.v ∧ e.p = c.p ∧ e.banks = c.banks ∧ e.segMax = c.segMax ∧
    e.reload = (if cause = 1 then some false
      else if cause == 6 && at_.any (fun a => c.inInit a) then some true else none) ∧
    (match c.cur with
     | some g => e.noLine = false ∧ e.trapBand = g.band ∧ e.trapLine = g.bandLine ∧ e.trapRerun = g.rerun ∧ e.nextQ = max c.nextQ (g.q + 1) ∧
        (∀ w ∈ e.outq, w.1 ≠ g.q) ∧ e.overLen = c.overLen ++ (if 128 * (clauseRow s x).p < g.cycles then [g.cycles] else [])
     | none => e.noLine = true ∧ e.trapRerun = false ∧ e.nextQ = c.nextQ ∧ e.outq = c.outq ∧ e.overLen = c.overLen ∧
        ((clauseAt s x).st ≠ .serving → t = { s with cells := t.cells, evqs := t.evqs } ∧ only (cellIx ci) cellAt s t) ∧
        ((clauseAt s x).st = .serving → (clauseAt s x).lastFault = none → only (cellIx ci) cellAt s t ∧ only x clauseAt s t ∧
          clauseAt t x = { clauseAt s x with transient := satInc (clauseAt s x).transient, lastFault := some (clauseRowCount s x),
                                             lastLine := BitVec.ofNat 32 (clauseRowCount s x) }))

/-- The test of BR (R149). -/
def Sys2Proof.Claims.taken (cond : Nat) (a b : BitVec 16) : Bool :=
  match cond with
  | 0 => true
  | 1 => a == b
  | 2 => a != b
  | 3 => decide (a.toInt < b.toInt)
  | 4 => decide (b.toInt ≤ a.toInt)
  | 5 => decide (a.toNat < b.toNat)
  | _ => decide (b.toNat ≤ a.toNat)

/-- A cell instruction as R148 and R150 check it before its own work: its word, whether its reserved and unused fields are 0 and its X is defined,
whether its register fields are in range, and the scalar registers it reads. -/
structure Sys2Proof.Claims.CellForm where
  ci : CellId
  op : Nat
  w : CellWord
  legal : Bool := true
  regsOk : Bool := true
  reads : List Nat := []
deriving DecidableEq, Repr

namespace Sys2Proof.Claims

/-- A three-register scalar form. -/
def form3 (ci : CellId) (op : Nat) (w : CellWord) (xOk : Bool) : CellForm :=
  { ci, op, w, legal := fG w == 0 && xOk, regsOk := decide (fD w < 16 ∧ fA w < 16 ∧ fB w < 16), reads := [fA w, fB w] }

/-- A form with an immediate. -/
def formI (ci : CellId) (op : Nat) (w : CellWord) (reads : List Nat) : CellForm :=
  { ci, op, w, regsOk := decide (fD w < 16 ∧ fA w < 16), reads }

/-- A form that reads sA alone and uses no other field. -/
def formA (ci : CellId) (op : Nat) (w : CellWord) : CellForm :=
  { ci, op, w, legal := fD w == 0 && fB w == 0 && fG w == 0 && fX w == 0, regsOk := decide (fA w < 16), reads := [fA w] }

/-- A form on vectors, guarded. -/
def formV (ci : CellId) (op : Nat) (w : CellWord) (xOk : Bool) : CellForm := { ci, op, w, legal := xOk }

/-- A guarded form that reads sA beside its vector. -/
def formVA (ci : CellId) (op : Nat) (w : CellWord) (xOk : Bool) : CellForm :=
  { ci, op, w, legal := fB w == 0 && xOk, regsOk := decide (fA w < 16), reads := [fA w] }

/-- The fields and X of every cell instruction but the reserved opcodes (R148-R150). -/
def cellForm : Instr → Option CellForm
  | .cellNop ci w => some { ci, op := 0x01, w, legal := w == 0 }
  | .br ci w => some { ci, op := 0x02, w, legal := fB2221 w == 0 && fB10 w == 0 && decide (fCond w < 7),
                       regsOk := decide (fA w < 16 ∧ fB w < 16), reads := if fCond w = 0 then [] else [fA w, fB w] }
  | .loopi ci w => some { ci, op := 0x03, w, legal := fL1510 w == 0 }
  | .loopr ci w => some { ci, op := 0x04, w, legal := fCond w == 0 && fB2221 w == 0 && fB10 w == 0 && fB w == 0,
                          regsOk := decide (fA w < 16), reads := [fA w] }
  | .call ci w => some { ci, op := 0x05, w, legal := fCond w == 0 && fB2221 w == 0 && fB10 w == 0 && fA w == 0 && fB w == 0 }
  | .jr ci w => some (formA ci 0x06 w)
  | .line ci w => some { ci, op := 0x07, w, legal := w == 0 }
  | .frame ci w => some { ci, op := 0x08, w, legal := fD w == 0 && fG w == 0 && fX w == 0, regsOk := decide (fA w < 16 ∧ fB w < 16),
                          reads := [fA w, fB w] }
  | .seg ci w => some (formA ci 0x09 w)
  | .getc ci w => some { ci, op := 0x0A, w, legal := fA w == 0 && fB w == 0 && fG w == 0 && decide (fX w ≤ 8), regsOk := decide (fD w < 16) }
  | .bwait ci w => some (formA ci 0x0B w)
  | .trap ci w => some { ci, op := 0x0C, w, legal := fD w == 0 && fA w == 0 && fB w == 0 && fG w == 0 }
  | .add ci w => some (form3 ci 0x10 w (fX w == 0))
  | .sub ci w => some (form3 ci 0x11 w (fX w == 0))
  | .log ci w => some (form3 ci 0x12 w (decide (fX w ≤ 3)))
  | .shf ci w =>
    if 0x40 ≤ fX w then some { ci, op := 0x13, w, legal := fB w == 0 && fG w == 0 && decide (fX w < 0x70),
                               regsOk := decide (fD w < 16 ∧ fA w < 16), reads := [fA w] }
    else some (form3 ci 0x13 w (fX w == 0x00 || fX w == 0x10 || fX w == 0x20))
  | .mul ci w => some (form3 ci 0x14 w (decide (fX w ≤ 2)))
  | .mnx ci w => some (form3 ci 0x15 w (decide (fX w ≤ 3)))
  | .addi ci w => some (formI ci 0x16 w [fA w])
  | .andi ci w => some (formI ci 0x17 w [fA w])
  | .ori ci w => some (formI ci 0x18 w [fA w])
  | .ld ci w => some (formI ci 0x19 w [fA w])
  | .st ci w => some (formI ci 0x1A w [fD w, fA w])
  | .plog ci w => some { ci, op := 0x1B, w, legal := fG w == 0 && decide (fX w ≤ 4) && (fX w != 4 || fB w == 0),
                         regsOk := decide (fD w < 8 ∧ fA w < 8 ∧ fB w < 8) }
  | .pmov ci w =>
    if fX w = 1 then some { ci, op := 0x1C, w, legal := fB w == 0 && fG w == 0, regsOk := decide (fD w < 8 ∧ fA w < 16), reads := [fA w] }
    else some { ci, op := 0x1C, w, legal := fB w == 0 && fG w == 0 && fX w == 0, regsOk := decide (fD w < 16 ∧ fA w < 8) }
  | .vadd ci w => some (formV ci 0x20 w (decide (fX w ≤ 2)))
  | .vsub ci w => some (formV ci 0x21 w (decide (fX w ≤ 2)))
  | .vmul ci w => some (formV ci 0x22 w (fX w == 0 || fX w == 0x40 || fX w == 0x80 || decide (0xC1 ≤ fX w ∧ fX w ≤ 0xCF)))
  | .vlog ci w => some (formV ci 0x23 w (decide (fX w ≤ 3)))
  | .vshf ci w => some (formV ci 0x24 w (fB w == 0 && decide (fX w < 0x30)))
  | .vmnx ci w => some (formV ci 0x25 w (decide (fX w ≤ 3)))
  | .vcmp ci w => some { formV ci 0x26 w (decide (fX w ≤ 5)) with regsOk := decide (fD w < 8) }
  | .vsel ci w => some (formV ci 0x27 w (fX w == 0))
  | .vbc ci w => some (formVA ci 0x28 w (fX w == 0))
  | .vext ci w => some { ci, op := 0x29, w, legal := fB w == 0 && fG w == 0 && decide (fX w ≤ 7), regsOk := decide (fD w < 16) }
  | .vins ci w => some (formVA ci 0x2A w (decide (fX w ≤ 7)))
  | .vsld ci w => some (formV ci 0x2B w (decide (fX w ≤ 7)))
  | .vld ci w => some (formVA ci 0x2C w true)
  | .vst ci w => some (formVA ci 0x2D w true)
  | .vldb ci w => some (formVA ci 0x2E w true)
  | .vstb ci w => some (formVA ci 0x2F w true)
  | .lutv ci w => some { ci, op := 0x30, w, legal := fX w == 0, regsOk := decide (fB w < 16), reads := [fB w] }
  | .unpk ci w => some (formVA ci 0x31 w true)
  | .qth ci w => some { ci, op := 0x32, w, legal := fX w == 0, regsOk := decide (fB w < 30) }
  | .dq ci w => some { ci, op := 0x33, w, legal := fG w == 0 && decide (fX w < 16), regsOk := decide (fD w < 31), reads := [fX w] }
  | .hist ci w => some (formV ci 0x34 w (fX w == 0))
  | .sprd ci w => some { ci, op := 0x35, w, legal := decide (fX w < 16), regsOk := decide (0 < fA w ∧ fA w < 31), reads := [fX w] }
  | .packo ci w => some { ci, op := 0x36, w, legal := fD w == 0 && fG w == 0 && fX w == 0, regsOk := decide (fB w < 16), reads := [fB w] }
  | .send ci w => some { ci, op := 0x37, w, legal := fD w == 0 && fB w == 0 && fG w == 0 && decide (fX w ≤ 1) }
  | .recv ci w => some { ci, op := 0x38, w, legal := fA w == 0 && fB w == 0 && fG w == 0 && decide (fX w ≤ 1) }
  | .bget ci w => some { ci, op := 0x39, w, legal := fD w == 0 && fG w == 0 && decide (fX w < 128), regsOk := decide (fA w < 16 ∧ fB w < 16),
                         reads := [fA w, fB w] }
  | .bgv ci w => some { ci, op := 0x3A, w, legal := fG w == 0 && fX w == 0, regsOk := decide (fD w < 16 ∧ fB w < 16), reads := [fD w, fB w] }
  | .batm ci w => some { ci, op := 0x3B, w, legal := fG w == 0 && decide (fX w ≤ 7), regsOk := decide (fD w < 16 ∧ fA w < 16 ∧ fB w < 16),
                         reads := [fA w, fB w] }
  | _ => none

end Sys2Proof.Claims

/-- R130, R132, R143, R148-R151, R154-R157: what every cell instruction meets before its own work, by its fields, and the control instructions. A
poisoned word traps FETCH, a reserved or unused field that is not 0 or an undefined X ILLEGAL, a register out of range REGISTER; a register that a BATM still
owes stalls. A retiring instruction goes to PC + 1, or back to the body of the innermost loop level that ends at it and still counts; levels used up there end. -/
def Obligations.CellControlInstructions : Prop :=
  (∀ i f s, cellForm i = some f →
    let c := cellAt s (cellIx f.ci)
    (c.st ≠ .run ∨ c.stall ≠ none → exec i s = .next s) ∧
    (atWord s f.ci f.op f.w → fetchBad s f.ci = true → Runs i s (trapped s f.ci 1 0 none)) ∧
    (atWord s f.ci f.op f.w → fetchBad s f.ci = false → f.legal = false → Runs i s (trapped s f.ci 2 0 none)) ∧
    (atWord s f.ci f.op f.w → fetchBad s f.ci = false → f.legal = true → f.regsOk = false → Runs i s (trapped s f.ci 3 0 none)) ∧
    (∀ r, atWord s f.ci f.op f.w → fetchBad s f.ci = false → f.legal = true → f.regsOk = true → c.owesReg? f.reads = some r →
      Runs i s (stalls s f.ci (.reg r)))) ∧
  (∀ s ci b, let c := cellAt s (cellIx ci)
    b = (⟨.cellInstr, cellIx ci, c.pc.toNat / 2⟩ : ArrBlock) → c.st = .run → c.stall = none → flipOf s b ≠ 0 →
    (rcRead (storedWord s b)).1 = .uncorrectable →
    Runs (.cellNop ci 0) s (fun t => (cellAt t (cellIx ci)).cause = 1 ∨ (clauseAt s (clauseIx ci.die ci.clause)).st = .spare)) ∧
  (∀ s ci b, let c := cellAt s (cellIx ci)
    b = (⟨.cellInstr, cellIx ci, c.pc.toNat / 2⟩ : ArrBlock) → c.st = .run → c.stall = none → flipOf s b ≠ 0 → c.pc.getLsbD 0 = false →
    (rcRead (storedWord s b)).1 = .corrected → (rcRead (storedWord s b)).2.extractLsb' 0 32 = (0x04000000 : BitVec 32) →
    Runs (.cellNop ci 0) s (fun t => only (cellIx ci) cellAt s t ∧ cellAt t (cellIx ci) = c.retire 1 ∧
      memCorrAt t (7 * (arrDie b) + 2) = { memCorrAt s (7 * (arrDie b) + 2) with corr := satInc (memCorrAt s (7 * (arrDie b) + 2)).corr })) ∧
  (∀ s ci, issues s ci 0x01 0 [] → Runs (.cellNop ci 0) s (retires s ci 1 id)) ∧
  (∀ (c : Cell) n, c.loops = [] → (c.retire n).pc = BitVec.ofNat 10 (c.pc.toNat + 1)) ∧
  (∀ (c : Cell) n l ls, c.loops = l :: ls → l.stop = c.pc.toNat → 1 < l.count →
    (c.retire n).pc = BitVec.ofNat 10 l.start ∧ (c.retire n).loops = { l with count := l.count - 1 } :: ls) ∧
  (∀ (c : Cell) n l, c.loops = [l] → l.stop = c.pc.toNat → l.count ≤ 1 →
    (c.retire n).pc = BitVec.ofNat 10 (c.pc.toNat + 1) ∧ (c.retire n).loops = []) ∧
  (∀ (c : Cell) n l m, c.loops = [l, m] → (l.stop ≠ c.pc.toNat ∨ l.count ≤ 1) → m.stop = c.pc.toNat → 1 < m.count →
    (c.retire n).pc = BitVec.ofNat 10 m.start ∧
      (c.retire n).loops = (if l.stop = c.pc.toNat then [] else [l]) ++ [{ m with count := m.count - 1 }]) ∧
  (∀ s ci w, fB2221 w = 0 → fB10 w = 0 → fCond w < 7 → fA w < 16 → fB w < 16 →
    issues s ci 0x02 w (if fCond w = 0 then [] else [fA w, fB w]) →
    let c := cellAt s (cellIx ci)
    (taken (fCond w) (c.rs (fA w)) (c.rs (fB w)) = true → Runs (.br ci w) s (goes s ci 2 (fTarget w) id)) ∧
    (taken (fCond w) (c.rs (fA w)) (c.rs (fB w)) = false → Runs (.br ci w) s (retires s ci 1 id))) ∧
  (∀ i s ci w n, (i = .loopi ci w ∧ fL1510 w = 0 ∧ issues s ci 0x03 w [] ∧ n = fCount w) ∨
      (i = .loopr ci w ∧ fCond w = 0 ∧ fB2221 w = 0 ∧ fB10 w = 0 ∧ fB w = 0 ∧ fA w < 16 ∧ issues s ci 0x04 w [fA w] ∧
        n = ((cellAt s (cellIx ci)).rs (fA w)).toNat) →
    let c := cellAt s (cellIx ci)
    let ok : Prop := c.pc.toNat < fTarget w ∧ noLoopEnd (opOf (imemWord s (cellIx ci) (fTarget w))) = false
    (ok → n ≠ 0 → c.loops.length < 2 → Runs i s (retires s ci 1 (fun c => { c with loops := ⟨n, c.pc.toNat + 1, fTarget w⟩ :: c.loops }))) ∧
    (ok → n = 0 → Runs i s (fun t => t = { s with cells := t.cells } ∧ only (cellIx ci) cellAt s t ∧ cellAt t (cellIx ci) =
      { c with pc := BitVec.ofNat 10 (fTarget w + 1), cur := c.cur.map (fun g => { g with cycles := g.cycles + 1 }) })) ∧
    (¬ok ∨ n ≠ 0 ∧ 2 ≤ c.loops.length → Runs i s (trapped s ci 11 0 none))) ∧
  (∀ s ci w, fCond w = 0 → fB2221 w = 0 → fB10 w = 0 → fA w = 0 → fB w = 0 → issues s ci 0x05 w [] →
    Runs (.call ci w) s (goes s ci 2 (fTarget w) (fun c => c.ws 15 (BitVec.ofNat 16 (c.pc.toNat + 1))))) ∧
  (∀ s ci w, fD w = 0 → fB w = 0 → fG w = 0 → fX w = 0 → fA w < 16 → issues s ci 0x06 w [fA w] →
    Runs (.jr ci w) s (goes s ci 2 (((cellAt s (cellIx ci)).rs (fA w)).toNat % 1024) id)) ∧
  (∀ s ci, issues s ci 0x07 0 [] → (cellAt s (cellIx ci)).frame ≠ none → (cellAt s (cellIx ci)).cur = none →
    Runs (.line ci 0) s (goes s ci 0 ((cellAt s (cellIx ci)).pc.toNat + 1) (fun c => { c with loops := [], st := .wait }))) ∧
  (∀ s ci g, issues s ci 0x07 0 [] → (cellAt s (cellIx ci)).frame ≠ none → (cellAt s (cellIx ci)).cur = some g → 8 ≤ g.pushed →
    let p := (clauseRow s (clauseIx ci.die ci.clause)).p
    Runs (.line ci 0) s (goes s ci 0 ((cellAt s (cellIx ci)).pc.toNat + 1) (fun c =>
      { c with loops := [], st := .wait, cur := none, nextQ := max c.nextQ (g.q + 1),
               segMax := if c.segMax.toNat < g.cycles + 1 then BitVec.ofNat 16 (min (g.cycles + 1) 65535) else c.segMax,
               overLen := c.overLen ++ (if 128 * p < g.cycles + 1 then [g.cycles + 1] else []) }))) ∧
  (∀ s ci, issues s ci 0x07 0 [] → (cellAt s (cellIx ci)).frame = none → Runs (.line ci 0) s (trapped s ci 8 0 none)) ∧
  (∀ s ci g, issues s ci 0x07 0 [] → (cellAt s (cellIx ci)).frame ≠ none → (cellAt s (cellIx ci)).cur = some g → g.pushed < 8 →
    Runs (.line ci 0) s (trapped s ci 9 0 none)) ∧
  (∀ s ci w, fD w = 0 → fG w = 0 → fX w = 0 → fA w < 16 → fB w < 16 → issues s ci 0x08 w [fA w, fB w] →
    let c := cellAt s (cellIx ci)
    let b := c.rs (fB w)
    let f : FrameDecl := ⟨(c.rs (fA w)).toNat, b.toNat % 32, b.toNat / 32 % 64, b.toNat / 2048 % 16⟩
    let good : Prop := b.toNat < 0x8000 ∧ frameOk c (cellRlen s ci) f = true
    (good → c.frame = none → Runs (.frame ci w) s (retires s ci 1 (fun c => { c with frame := some f }))) ∧
    (good → c.frame = some f → Runs (.frame ci w) s (retires s ci 1 id)) ∧
    (¬good ∨ (∃ g, c.frame = some g ∧ g ≠ f) → Runs (.frame ci w) s (trapped s ci 8 0 none))) ∧
  (∀ s ci w, fD w = 0 → fB w = 0 → fG w = 0 → fX w = 0 → fA w < 16 → issues s ci 0x09 w [fA w] →
    Runs (.seg ci w) s (retires s ci 1 (fun c => { c with seg := BitVec.ofNat 4 (c.rs (fA w)).toNat }))) ∧
  (∀ s ci w g, fA w = 0 → fB w = 0 → fG w = 0 → fX w ≤ 8 → fD w < 16 → issues s ci 0x0A w [] →
    clauseSlot? s (clauseIx ci.die ci.clause) = some g →
    let r := rowCfg s g.row
    Runs (.getc ci w) s (retires s ci 1 (fun c => c.ws (fD w) (BitVec.ofNat 16
      ([g.slot, g.pos, ci.cell, g.row, ci.die, r.p, r.strips, r.mode, rlen r].getD (fX w) 0))))) ∧
  (∀ s ci w, fD w = 0 → fB w = 0 → fG w = 0 → fX w = 0 → fA w < 16 → issues s ci 0x0B w [fA w] →
    let c := cellAt s (cellIx ci)
    (c.banks.length ≤ (c.rs (fA w)).toNat → Runs (.bwait ci w) s (retires s ci 1 id)) ∧
    ((c.rs (fA w)).toNat < c.banks.length → Runs (.bwait ci w) s (stalls s ci (.banks (c.rs (fA w)).toNat)))) ∧
  (∀ s ci w, fD w = 0 → fA w = 0 → fB w = 0 → fG w = 0 → issues s ci 0x0C w [] → Runs (.trap ci w) s (trapped s ci 13 (fX w) none)) ∧
  (∀ s ci w op, op = 0 ∨ (0x0D ≤ op ∧ op ≤ 0x0F) ∨ (0x1D ≤ op ∧ op ≤ 0x1F) ∨ (0x3C ≤ op ∧ op ≤ 0x3F) → atWord s ci op w →
    Runs (.ill ci w) s (trapped s ci (if fetchBad s ci then 1 else 2) 0 none))

/-- A load or store whose bytes the cell may not reach traps, and one whose bytes are still owed stalls (R129, R143, R154). -/
abbrev Sys2Proof.Claims.stopsOn (r : MemRes) (s : State) (ci : CellId) (i : Instr) : Prop :=
  match r with
  | .ok _ => True
  | .trap e a => Runs i s (trapped s ci e 0 a)
  | .wait st => Runs i s (stalls s ci st)

/-- R129, R143, R151, R154: what a load or a store of `n` bytes aligned to `al` finds in the data SRAM: a misaligned address and one outside
the SRAM trap ADDRESS, a store into the windows or initial data WPROT; otherwise scratch is free, and bytes still owed wait. -/
def Sys2Proof.Claims.CellMemoryRegions : Prop :=
  (∀ s i c rl a n al, 0 < n → (a % al ≠ 0 ∨ 16384 < a + n) → loadMem s i c rl a n al = .trap 4 none) ∧
  (∀ c rl a n al, 0 < n → a % al ≠ 0 → storeCheck c rl a n al = .trap 4 none) ∧
  (∀ c rl a n al, 0 < n → a % al = 0 → 0x3800 ≤ a → a + n ≤ 16384 → storeCheck c rl a n al = .trap 5 none) ∧
  (∀ c rl a n al, 0 < n → a % al = 0 → c.dataLo ≤ a → a + n ≤ c.dataLo + c.dataLen → a + n ≤ 0x3800 → storeCheck c rl a n al = .trap 5 none) ∧
  (∀ s i c rl a n al, a % al = 0 → c.frame = none → c.banks = [] → a + n ≤ 0x3800 →
    (∀ j, j < n → poisoned s .cellData i ((a + j) / 8) = false) → loadMem s i c rl a n al = .ok (dmRead s i a n)) ∧
  (∀ c rl a n al, a % al = 0 → c.frame = none → c.banks = [] → a + n ≤ 0x3800 → (c.dataLen = 0 ∨ a + n ≤ c.dataLo ∨ c.dataLo + c.dataLen ≤ a) →
    storeCheck c rl a n al = .ok []) ∧
  (∀ s i (c : Cell) rl a n al g, 0 < n → a % al = 0 → c.cur = some g → 0x3800 ≤ a → a + n ≤ 16384 → (a + n ≤ 0x3C00 ∨ 0x3C00 ≤ a) →
    g.win ≠ decide (0x3C00 ≤ a) → loadMem s i c rl a n al = .trap 4 none) ∧
  (∀ c rl a n al f g j, a % al = 0 → c.dataLen = 0 → c.banks = [] → c.frame = some f → c.cur = some g → j < 8 * f.cw → 0 < f.k →
    f.fbase + f.k * f.fsize rl ≤ 0x3800 → a = f.base rl g.q + 8 * rl + j → j + n ≤ 8 * f.cw → storeCheck c rl a n al = .ok []) ∧
  (∀ c rl a n al f g j, 0 < n → a % al = 0 → c.dataLen = 0 → c.frame = some f → c.cur = some g → 0 < f.k → f.fbase + f.k * f.fsize rl ≤ 0x3800 →
    a = f.base rl g.q + j → j + n ≤ 8 * rl → storeCheck c rl a n al = .trap 5 none)

/-- R127, R129, R150: the scalar and predicate instructions: each writes its destination with the result of the table, s0 and p0 discarding the write
and reading 0 and 0xFF; ST writes two bytes of the cell's data SRAM and no other. -/
def Obligations.CellScalarInstructions : Prop :=
  CellMemoryRegions ∧
  (∀ (c : Cell) v n, c.ws 0 v = c ∧ c.wp 0 (v.extractLsb' 0 8) = c ∧ c.rp 0 = 0xFF ∧ (n ≠ 0 → (c.ws n v).rs n = v)) ∧
  (∀ s ci w op, fD w < 16 → fA w < 16 → fB w < 16 → fG w = 0 → issues s ci op w [fA w, fB w] →
    let c := cellAt s (cellIx ci)
    let a := c.rs (fA w)
    let b := c.rs (fB w)
    (op = 0x10 → fX w = 0 → Runs (.add ci w) s (retires s ci 1 (fun c => c.ws (fD w) (a + b)))) ∧
    (op = 0x11 → fX w = 0 → Runs (.sub ci w) s (retires s ci 1 (fun c => c.ws (fD w) (a - b)))) ∧
    (op = 0x12 → fX w ≤ 3 → Runs (.log ci w) s (retires s ci 1 (fun c => c.ws (fD w)
      ([a &&& b, a ||| b, a ^^^ b, a &&& ~~~ b].getD (fX w) 0)))) ∧
    (op = 0x13 → fX w = 0x00 → Runs (.shf ci w) s (retires s ci 1 (fun c => c.ws (fD w) (a <<< (b.toNat % 16))))) ∧
    (op = 0x13 → fX w = 0x10 → Runs (.shf ci w) s (retires s ci 1 (fun c => c.ws (fD w) (a >>> (b.toNat % 16))))) ∧
    (op = 0x13 → fX w = 0x20 → Runs (.shf ci w) s (retires s ci 1 (fun c => c.ws (fD w) (a.sshiftRight (b.toNat % 16))))) ∧
    (op = 0x14 → fX w ≤ 2 → Runs (.mul ci w) s (retires s ci 1 (fun c => c.ws (fD w)
      ([a * b, BitVec.ofNat 16 (a.toNat * b.toNat / 65536), BitVec.ofInt 16 (a.toInt * b.toInt / 65536)].getD (fX w) 0)))) ∧
    (op = 0x15 → fX w ≤ 3 → Runs (.mnx ci w) s (retires s ci 1 (fun c => c.ws (fD w)
      ([BitVec.ofInt 16 (min a.toInt b.toInt), BitVec.ofInt 16 (max a.toInt b.toInt), BitVec.ofNat 16 (min a.toNat b.toNat),
        BitVec.ofNat 16 (max a.toNat b.toNat)].getD (fX w) 0))))) ∧
  (∀ s ci w n, fD w < 16 → fA w < 16 → fB w = 0 → fG w = 0 → n < 16 → issues s ci 0x13 w [fA w] →
    let a := (cellAt s (cellIx ci)).rs (fA w)
    (fX w = 0x40 + n → Runs (.shf ci w) s (retires s ci 1 (fun c => c.ws (fD w) (a <<< n)))) ∧
    (fX w = 0x50 + n → Runs (.shf ci w) s (retires s ci 1 (fun c => c.ws (fD w) (a >>> n)))) ∧
    (fX w = 0x60 + n → Runs (.shf ci w) s (retires s ci 1 (fun c => c.ws (fD w) (a.sshiftRight n))))) ∧
  (∀ s ci w op, fD w < 16 → fA w < 16 → issues s ci op w [fA w] →
    let a := (cellAt s (cellIx ci)).rs (fA w)
    (op = 0x16 → Runs (.addi ci w) s (retires s ci 1 (fun c => c.ws (fD w) (a + fImm w)))) ∧
    (op = 0x17 → Runs (.andi ci w) s (retires s ci 1 (fun c => c.ws (fD w) (a &&& fImm w)))) ∧
    (op = 0x18 → Runs (.ori ci w) s (retires s ci 1 (fun c => c.ws (fD w) (a ||| fImm w))))) ∧
  (∀ s ci w lo hi, fD w < 16 → fA w < 16 → issues s ci 0x19 w [fA w] →
    let c := cellAt s (cellIx ci)
    noFlips s .cellData (cellIx ci) → loadMem s (cellIx ci) c (cellRlen s ci) (c.rs (fA w) + fImm w).toNat 2 2 = .ok [lo, hi] →
    Runs (.ld ci w) s (retires s ci 1 (fun c => c.ws (fD w) (hi ++ lo)))) ∧
  (∀ s ci w r, fD w < 16 → fA w < 16 → issues s ci 0x19 w [fA w] →
    let c := cellAt s (cellIx ci)
    loadMem s (cellIx ci) c (cellRlen s ci) (c.rs (fA w) + fImm w).toNat 2 2 = r → stopsOn r s ci (.ld ci w)) ∧
  (∀ s ci w, fD w < 16 → fA w < 16 → issues s ci 0x1A w [fD w, fA w] →
    let c := cellAt s (cellIx ci)
    let at_ := 16384 * cellIx ci + (c.rs (fA w) + fImm w).toNat
    noFlips s .cellData (cellIx ci) → storeCheck c (cellRlen s ci) (c.rs (fA w) + fImm w).toNat 2 2 = .ok [] →
    Runs (.st ci w) s (fun t => t = { s with cells := t.cells, dmem := t.dmem, poison := t.poison } ∧ only (cellIx ci) cellAt s t ∧
      cellAt t (cellIx ci) = c.retire 1 ∧ rd t.dmem at_ = (c.rs (fD w)).extractLsb' 0 8 ∧
      rd t.dmem (at_ + 1) = (c.rs (fD w)).extractLsb' 8 8 ∧
      ∀ m, m ≠ at_ → m ≠ at_ + 1 → rd t.dmem m = rd s.dmem m)) ∧
  (∀ s ci w r, fD w < 16 → fA w < 16 → issues s ci 0x1A w [fD w, fA w] →
    storeCheck (cellAt s (cellIx ci)) (cellRlen s ci) ((cellAt s (cellIx ci)).rs (fA w) + fImm w).toNat 2 2 = r → stopsOn r s ci (.st ci w)) ∧
  (∀ s ci w, fD w < 8 → fA w < 8 → fB w < 8 → fG w = 0 → fX w ≤ 3 → issues s ci 0x1B w [] →
    let a := (cellAt s (cellIx ci)).rp (fA w)
    let b := (cellAt s (cellIx ci)).rp (fB w)
    Runs (.plog ci w) s (retires s ci 1 (fun c => c.wp (fD w) ([a &&& b, a ||| b, a ^^^ b, a &&& ~~~ b].getD (fX w) 0)))) ∧
  (∀ s ci w, fD w < 8 → fA w < 8 → fB w = 0 → fG w = 0 → fX w = 4 → issues s ci 0x1B w [] →
    Runs (.plog ci w) s (retires s ci 1 (fun c => c.wp (fD w) (~~~ (c.rp (fA w)))))) ∧
  (∀ s ci w, fD w < 16 → fA w < 8 → fB w = 0 → fG w = 0 → fX w = 0 → issues s ci 0x1C w [] →
    Runs (.pmov ci w) s (retires s ci 1 (fun c => c.ws (fD w) ((c.rp (fA w)).zeroExtend 16)))) ∧
  (∀ s ci w, fD w < 8 → fA w < 16 → fB w = 0 → fG w = 0 → fX w = 1 → issues s ci 0x1C w [fA w] →
    Runs (.pmov ci w) s (retires s ci 1 (fun c => c.wp (fD w) ((c.rs (fA w)).extractLsb' 0 8))))

/-- R148, R150-R152: the vector instructions, lane by lane under the guard. -/
def Obligations.CellVectorLanes : Prop :=
  (∀ s ci w op, issues s ci op w [] →
    let c := cellAt s (cellIx ci)
    let a (l : Nat) : BitVec 16 := lane (c.rv (fA w)) l
    let b (l : Nat) : BitVec 16 := lane (c.rv (fB w)) l
    let g := c.rp (fG w)
    let x := fX w
    (op = 0x20 → x ≤ 2 → Runs (.vadd ci w) s (writesLanes s ci 1 (fD w) g (fun l =>
      [a l + b l, BitVec.ofNat 16 (min 65535 ((a l).toNat + (b l).toNat)),
        BitVec.ofInt 16 (max (-32768) (min 32767 ((a l).toInt + (b l).toInt)))].getD x 0))) ∧
    (op = 0x21 → x ≤ 2 → Runs (.vsub ci w) s (writesLanes s ci 1 (fD w) g (fun l =>
      [a l - b l, BitVec.ofNat 16 ((a l).toNat - (b l).toNat),
        BitVec.ofInt 16 (max (-32768) (min 32767 ((a l).toInt - (b l).toInt)))].getD x 0))) ∧
    (op = 0x22 → x = 0x00 → Runs (.vmul ci w) s (writesLanes s ci 2 (fD w) g (fun l => a l * b l))) ∧
    (op = 0x22 → x = 0x40 → Runs (.vmul ci w) s (writesLanes s ci 2 (fD w) g (fun l =>
      BitVec.ofNat 16 ((a l).toNat * (b l).toNat / 65536)))) ∧
    (op = 0x22 → x = 0x80 → Runs (.vmul ci w) s (writesLanes s ci 2 (fD w) g (fun l =>
      BitVec.ofInt 16 ((a l).toInt * (b l).toInt / 65536)))) ∧
    (∀ n, op = 0x22 → x = 0xC0 + n → 1 ≤ n → n ≤ 15 → Runs (.vmul ci w) s (writesLanes s ci 2 (fD w) g (fun l =>
      BitVec.ofNat 16 (min 0xFFFF (((a l).toNat * (b l).toNat + 2 ^ (n - 1)) / 2 ^ n))))) ∧
    (op = 0x23 → x ≤ 3 → Runs (.vlog ci w) s (writesLanes s ci 1 (fD w) g (fun l =>
      [a l &&& b l, a l ||| b l, a l ^^^ b l, a l &&& ~~~ (b l)].getD x 0))) ∧
    (∀ n, op = 0x24 → fB w = 0 → n < 16 → x = n → Runs (.vshf ci w) s (writesLanes s ci 1 (fD w) g (fun l => a l <<< n))) ∧
    (∀ n, op = 0x24 → fB w = 0 → n < 16 → x = 0x10 + n → Runs (.vshf ci w) s (writesLanes s ci 1 (fD w) g (fun l => a l >>> n))) ∧
    (∀ n, op = 0x24 → fB w = 0 → n < 16 → x = 0x20 + n →
      Runs (.vshf ci w) s (writesLanes s ci 1 (fD w) g (fun l => (a l).sshiftRight n))) ∧
    (op = 0x25 → x ≤ 3 → Runs (.vmnx ci w) s (writesLanes s ci 1 (fD w) g (fun l =>
      [BitVec.ofInt 16 (min (a l).toInt (b l).toInt), BitVec.ofInt 16 (max (a l).toInt (b l).toInt),
        BitVec.ofNat 16 (min (a l).toNat (b l).toNat), BitVec.ofNat 16 (max (a l).toNat (b l).toNat)].getD x 0))) ∧
    (op = 0x26 → x ≤ 5 → fD w < 8 → fD w ≠ 0 → Runs (.vcmp ci w) s (fun t => t = { s with cells := t.cells } ∧
      only (cellIx ci) cellAt s t ∧ cellAt t (cellIx ci) = ({ c with p := (cellAt t (cellIx ci)).p } : Cell).retire 1 ∧
      (∀ r, r ≠ fD w → (cellAt t (cellIx ci)).rp r = c.rp r) ∧
      ∀ l, l < 8 → ((cellAt t (cellIx ci)).rp (fD w)).getLsbD l = (g.getLsbD l &&
        [decide (a l = b l), decide (a l ≠ b l), decide ((a l).toInt < (b l).toInt), decide ((b l).toInt ≤ (a l).toInt),
          decide ((a l).toNat < (b l).toNat), decide ((b l).toNat ≤ (a l).toNat)].getD x false))) ∧
    (op = 0x26 → x ≤ 5 → fD w = 0 → Runs (.vcmp ci w) s (retires s ci 1 id)) ∧
    (op = 0x27 → x = 0 → Runs (.vsel ci w) s (writesLanes s ci 1 (fD w) 0xFF (fun l => if g.getLsbD l then a l else b l))) ∧
    (op = 0x29 → x ≤ 7 → fB w = 0 → fG w = 0 → fD w < 16 → Runs (.vext ci w) s (retires s ci 1 (fun c => c.ws (fD w) (a x)))) ∧
    (op = 0x2B → x ≤ 7 → Runs (.vsld ci w) s (writesLanes s ci 1 (fD w) g (fun l => if l + x < 8 then a (l + x) else b (l + x - 8)))) ∧
    (op = 0x32 → x = 0 → fB w < 30 → Runs (.qth ci w) s (writesLanes s ci 1 (fD w) g (fun l => BitVec.ofNat 16
      ([0, 1, 2].countP (fun j => decide ((lane (c.rv (fB w + j)) l).toNat < (a l).toNat)))))) ∧
    (op = 0x34 → x = 0 → Runs (.hist ci w) s (writesLanes s ci 1 (fD w) g (fun l =>
      ((a l <<< 1) ||| (if b l = 0 then 0 else 1)) &&& 0xF)))) ∧
  (∀ s ci w, fB w = 0 → fX w = 0 → fA w < 16 → issues s ci 0x28 w [fA w] →
    let c := cellAt s (cellIx ci)
    Runs (.vbc ci w) s (writesLanes s ci 1 (fD w) (c.rp (fG w)) (fun _ => c.rs (fA w)))) ∧
  (∀ s ci w, fB w = 0 → fX w ≤ 7 → fA w < 16 → issues s ci 0x2A w [fA w] →
    let c := cellAt s (cellIx ci)
    Runs (.vins ci w) s (writesLanes s ci 1 (fD w) (c.rp (fG w) &&& (1 <<< fX w)) (fun _ => c.rs (fA w)))) ∧
  (∀ s ci w bs, fB w = 0 → fA w < 16 →
    let c := cellAt s (cellIx ci)
    let at_ (unit : Int) : Nat := (c.rs (fA w) + BitVec.ofInt 16 (unit * sextX w)).toNat
    let load (unit : Nat) : Prop := noFlips s .cellData (cellIx ci) ∧ loadMem s (cellIx ci) c (cellRlen s ci) (at_ unit) unit unit = .ok bs
    (issues s ci 0x2C w [fA w] → load 16 → Runs (.vld ci w) s (writesLanes s ci 1 (fD w) (c.rp (fG w)) (fun l =>
      bs.getD (2 * l + 1) 0 ++ bs.getD (2 * l) 0))) ∧
    (issues s ci 0x2E w [fA w] → load 8 → Runs (.vldb ci w) s (writesLanes s ci 1 (fD w) (c.rp (fG w)) (fun l => (bs.getD l 0).zeroExtend 16))) ∧
    (issues s ci 0x31 w [fA w] → load 4 → Runs (.unpk ci w) s (writesLanes s ci 1 (fD w) (c.rp (fG w)) (fun l =>
      ((bs.getD (l / 2) 0 >>> (4 * (l % 2))) &&& 0xF).zeroExtend 16)))) ∧
  (∀ s ci w, fB w = 0 → fA w < 16 →
    let c := cellAt s (cellIx ci)
    let at_ (unit : Int) : Nat := (c.rs (fA w) + BitVec.ofInt 16 (unit * sextX w)).toNat
    let load (unit : Nat) : MemRes := loadMem s (cellIx ci) c (cellRlen s ci) (at_ unit) unit unit
    let store (unit : Nat) : MemRes := storeCheck c (cellRlen s ci) (at_ unit) unit unit
    (issues s ci 0x2C w [fA w] → stopsOn (load 16) s ci (.vld ci w)) ∧ (issues s ci 0x2E w [fA w] → stopsOn (load 8) s ci (.vldb ci w)) ∧
    (issues s ci 0x31 w [fA w] → stopsOn (load 4) s ci (.unpk ci w)) ∧ (issues s ci 0x2D w [fA w] → stopsOn (store 16) s ci (.vst ci w)) ∧
    (issues s ci 0x2F w [fA w] → stopsOn (store 8) s ci (.vstb ci w))) ∧
  (∀ s ci w, fB w = 0 → fA w < 16 →
    let c := cellAt s (cellIx ci)
    let at_ (unit : Int) : Nat := (c.rs (fA w) + BitVec.ofInt 16 (unit * sextX w)).toNat
    let mem (unit : Nat) (l : Nat) : Nat := 16384 * cellIx ci + at_ unit + l
    let can (unit : Nat) : Prop := noFlips s .cellData (cellIx ci) ∧ storeCheck c (cellRlen s ci) (at_ unit) unit unit = .ok []
    let kept (unit : Nat) (t : State) : Prop := t = { s with cells := t.cells, dmem := t.dmem, poison := t.poison } ∧
      only (cellIx ci) cellAt s t ∧ cellAt t (cellIx ci) = c.retire 1 ∧
      ∀ m, m < mem unit 0 ∨ mem unit unit ≤ m → rd t.dmem m = rd s.dmem m
    (issues s ci 0x2D w [fA w] → can 16 → Runs (.vst ci w) s (fun t => kept 16 t ∧ ∀ l, l < 16 → rd t.dmem (mem 16 l) =
      if (c.rp (fG w)).getLsbD (l / 2) then (lane (c.rv (fD w)) (l / 2)).extractLsb' (8 * (l % 2)) 8 else rd s.dmem (mem 16 l))) ∧
    (issues s ci 0x2F w [fA w] → can 8 → Runs (.vstb ci w) s (fun t => kept 8 t ∧ ∀ l, l < 8 → rd t.dmem (mem 8 l) =
      if (c.rp (fG w)).getLsbD l then (lane (c.rv (fD w)) l).extractLsb' 0 8 else rd s.dmem (mem 8 l)))) ∧
  (∀ s ci w (e : Nat → BitVec 16), fX w = 0 → fB w < 16 → issues s ci 0x30 w [fB w] →
    let c := cellAt s (cellIx ci)
    (c.rs (fB w)).getLsbD 0 = false → noFlips s .cellData (cellIx ci) →
    (∀ l, l < 8 → (c.rp (fG w)).getLsbD l = true → loadMem s (cellIx ci) c (cellRlen s ci)
      (c.rs (fB w) + BitVec.ofNat 16 (2 * (lane (c.rv (fA w)) l).toNat)).toNat 2 1 = .ok [(e l).extractLsb' 0 8, (e l).extractLsb' 8 8]) →
    Runs (.lutv ci w) s (writesLanes s ci 4 (fD w) (c.rp (fG w)) e)) ∧
  (∀ s ci w, fX w = 0 → fB w < 16 → issues s ci 0x30 w [fB w] →
    let c := cellAt s (cellIx ci)
    let get (l : Nat) : MemRes := loadMem s (cellIx ci) c (cellRlen s ci) (c.rs (fB w) + BitVec.ofNat 16 (2 * (lane (c.rv (fA w)) l).toNat)).toNat 2 1
    ((c.rs (fB w)).getLsbD 0 = true → Runs (.lutv ci w) s (trapped s ci 4 0 none)) ∧
    (∀ l, l < 8 → (c.rs (fB w)).getLsbD 0 = false → (c.rp (fG w)).getLsbD l = true → (∀ k, k < 8 → k ≠ l → (c.rp (fG w)).getLsbD k = false) →
      stopsOn (get l) s ci (.lutv ci w)) ∧
    (∀ l, l < 8 → (c.rs (fB w)).getLsbD 0 = false → (c.rp (fG w)).getLsbD l = true → get l = .trap 4 none →
      Runs (.lutv ci w) s (trapped s ci 4 0 none))) ∧
  (∀ s ci w, fG w = 0 → fX w < 16 → fD w < 31 → issues s ci 0x33 w [fX w] →
    let c := cellAt s (cellIx ci)
    let r := dqFrom (c.rv (fA w)) (c.rv (fB w)) 8 (c.rs (fX w)).toInt [] []
    Runs (.dq ci w) s (fun t => t = { s with cells := t.cells } ∧ only (cellIx ci) cellAt s t ∧
      (∀ l, l < 8 → lane ((cellAt t (cellIx ci)).rv (fD w)) l = BitVec.ofNat 16 (r.1.getD l 0) ∧
        lane ((cellAt t (cellIx ci)).rv (fD w + 1)) l = BitVec.ofInt 16 (r.2.1.getD l 0)) ∧
      (∀ n, n ≠ fD w → n ≠ fD w + 1 → (cellAt t (cellIx ci)).rv n = c.rv n) ∧
      cellAt t (cellIx ci) = (({ c with v := (cellAt t (cellIx ci)).v } : Cell).ws (fX w) (BitVec.ofInt 16 r.2.2)).retire 8)) ∧
  (∀ s ci w, fX w < 16 → 0 < fA w → fA w < 31 → issues s ci 0x35 w [fX w] →
    let c := cellAt s (cellIx ci)
    let win (p : Nat) : Nat := ([6, 7].map (fun l => (lane (c.rv (fA w - 1)) l).toNat) ++
      (List.range 8).map (fun l => (lane (c.rv (fA w)) l).toNat) ++ [0, 1].map (fun l => (lane (c.rv (fA w + 1)) l).toNat)).getD p 0
    let m := c.rs (fX w)
    let part (p k : Nat) : Nat := if m.getLsbD p then win p * (lane (c.rv (fB w)) k).toNat else 0
    Runs (.sprd ci w) s (writesLanes s ci 2 (fD w) (c.rp (fG w)) (fun l =>
      if m.getLsbD (l + 2) then 0 else BitVec.ofNat 16
        (min ((256 * win (l + 2) + 128 + part l 3 + part (l + 1) 2 + part (l + 3) 1 + part (l + 4) 0) / 256) 0xFFFF))))

/-- R138-R146, R281: PACKO places a half of the pending word, whose second half goes into its line's ring slot; SEND and RECV move vectors
between neighbouring cells and through halo queues; BGET, BGV and BATM ask for what the die banks hold. -/
def Obligations.CellPortsAndBankRequests : Prop :=
  (∀ s ci w, fD w = 0 → fG w = 0 → fX w = 0 → fB w < 16 → issues s ci 0x36 w [fB w] →
    let c := cellAt s (cellIx ci)
    let half (b : Nat) (t : State) : Prop :=
      (∀ l, l < 8 → (cellAt t (cellIx ci)).outWord.extractLsb' (32 * b + 4 * l) 4 = (lane (c.rv (fA w)) l).extractLsb' 0 4) ∧
      (cellAt t (cellIx ci)).outWord.extractLsb' (32 * (1 - b)) 32 = c.outWord.extractLsb' (32 * (1 - b)) 32
    ((c.rs (fB w)).getLsbD 0 = false → Runs (.packo ci w) s (fun t => half 0 t ∧
      retires s ci 1 (fun c => { c with outWord := (cellAt t (cellIx ci)).outWord }) t)) ∧
    ((c.rs (fB w)).getLsbD 0 = true → c.cur = none → Runs (.packo ci w) s (fun t => half 1 t ∧
      retires s ci 1 (fun c => { c with outWord := (cellAt t (cellIx ci)).outWord }) t)) ∧
    (∀ g l, (c.rs (fB w)).getLsbD 0 = true → c.cur = some g → g.pushed < 7 → c.outq = [] →
      (clauseAt s (clauseIx ci.die ci.clause)).lineQ? g.q = some l → l.st = .filling →
      Runs (.packo ci w) s (fun t => half 1 t ∧ t = { s with cells := t.cells, clauses := t.clauses } ∧
        only (cellIx ci) cellAt s t ∧ only (clauseIx ci.die ci.clause) clauseAt s t ∧
        (∃ l', (clauseAt t (clauseIx ci.die ci.clause)).lineQ? g.q = some l' ∧
          sget 0 l'.codes (8 * ci.cell + g.pushed) = (cellAt t (cellIx ci)).outWord) ∧
        (cellAt t (cellIx ci)).cur = some { g with pushed := g.pushed + 1, cycles := g.cycles + 1 })) ∧
    (∀ g l, (c.rs (fB w)).getLsbD 0 = true → c.cur = some g → g.pushed = 7 → c.outq = [] →
      (clauseAt s (clauseIx ci.die ci.clause)).lineQ? g.q = some l → l.st = .filling → l.segs &&& ~~~ (1#16 <<< ci.cell) ≠ 0xFFFF &&& ~~~ (1#16 <<< ci.cell) →
      Runs (.packo ci w) s (fun t => half 1 t ∧ only (clauseIx ci.die ci.clause) clauseAt s t ∧
        (∃ l', (clauseAt t (clauseIx ci.die ci.clause)).lineQ? g.q = some l' ∧
          sget 0 l'.codes (8 * ci.cell + 7) = (cellAt t (cellIx ci)).outWord ∧ l'.segs = l.segs ||| (1#16 <<< ci.cell)) ∧
        (cellAt t (cellIx ci)).cur = some { g with pushed := 8, cycles := g.cycles + 1 })) ∧
    (∀ g, (c.rs (fB w)).getLsbD 0 = true → c.cur = some g → g.pushed < 8 → c.outq ≠ [] → c.outq.length < queueDepth s 0x02 ci.die →
      Runs (.packo ci w) s (fun t => half 1 t ∧ retires s ci 1 (fun c =>
        { c with outWord := (cellAt t (cellIx ci)).outWord, cur := some { g with pushed := g.pushed + 1 },
                 outq := c.outq ++ [(g.q, g.pushed, (cellAt t (cellIx ci)).outWord)] }) t)) ∧
    (∀ g, (c.rs (fB w)).getLsbD 0 = true → c.cur = some g → g.pushed < 8 → c.outq ≠ [] → queueDepth s 0x02 ci.die ≤ c.outq.length →
      Runs (.packo ci w) s (stalls s ci .output)) ∧
    (∀ g, (c.rs (fB w)).getLsbD 0 = true → c.cur = some g → 8 ≤ g.pushed → Runs (.packo ci w) s (trapped s ci 9 0 none))) ∧
  (∀ s ci w, fD w = 0 → fB w = 0 → fG w = 0 → issues s ci 0x37 w [] →
    let c := cellAt s (cellIx ci)
    let v := c.rv (fA w)
    let first : Prop := c.cur.any (fun g => g.rerun) = false
    let others (j : Nat) (t : State) : Prop := t = { s with cells := t.cells } ∧ cellAt t (cellIx ci) = c.retire 1 ∧
      ∀ n, n ≠ cellIx ci → n ≠ j → cellAt t n = cellAt s n
    (fX w = 1 → ci.cell < 15 → first → portTakes s ci.die (cellAt s (cellIx ci + 1)).portL = true →
      Runs (.send ci w) s (fun t => others (cellIx ci + 1) t ∧
        cellAt t (cellIx ci + 1) = { cellAt s (cellIx ci + 1) with portL := (cellAt s (cellIx ci + 1)).portL ++ [v] })) ∧
    (fX w = 0 → 0 < ci.cell → first → portTakes s ci.die (cellAt s (cellIx ci - 1)).portR = true →
      Runs (.send ci w) s (fun t => others (cellIx ci - 1) t ∧
        cellAt t (cellIx ci - 1) = { cellAt s (cellIx ci - 1) with portR := (cellAt s (cellIx ci - 1)).portR ++ [v] })) ∧
    (fX w = 1 → ci.cell < 15 → first → portTakes s ci.die (cellAt s (cellIx ci + 1)).portL = false →
      Runs (.send ci w) s (stalls s ci (.send true))) ∧
    (fX w = 0 → 0 < ci.cell → first → portTakes s ci.die (cellAt s (cellIx ci - 1)).portR = false →
      Runs (.send ci w) s (stalls s ci (.send false))) ∧
    (∀ g y r, (r = true ∧ fX w = 1 ∧ ci.cell = 15 ∨ r = false ∧ fX w = 0 ∧ ci.cell = 0) → first →
      haloPeer? s (clauseIx ci.die ci.clause) r = some g → haloClause? s g.die g.slot (!r) = some y →
      (haloLoad s y (!r) < haloRoom s y (!r) → g.die = ci.die → Runs (.send ci w) s (fun t =>
        t = { s with cells := t.cells, clauses := t.clauses } ∧ only (cellIx ci) cellAt s t ∧ cellAt t (cellIx ci) = c.retire 1 ∧
        only y clauseAt s t ∧ (r = false → (clauseAt t y).haloR = (clauseAt s y).haloR ++ [v] ∧ (clauseAt t y).haloL = (clauseAt s y).haloL) ∧
        (r = true → (clauseAt t y).haloL = (clauseAt s y).haloL ++ [v] ∧ (clauseAt t y).haloR = (clauseAt s y).haloR))) ∧
      (haloLoad s y (!r) < haloRoom s y (!r) → g.die ≠ ci.die → Runs (.send ci w) s (fun t =>
        only (cellIx ci) cellAt s t ∧ cellAt t (cellIx ci) = c.retire 1 ∧ (clauseAt t y).haloR = (clauseAt s y).haloR ∧
        (clauseAt t y).haloL = (clauseAt s y).haloL ∧ ∃ f, t.fabric = s.fabric ++ [f] ∧ f.cargo = .halo (y % 66) (!r) v)) ∧
      (haloRoom s y (!r) ≤ haloLoad s y (!r) → Runs (.send ci w) s (stalls s ci (.send r)))) ∧
    ((fX w = 0 ∧ ci.cell = 0 ∨ fX w = 1 ∧ ci.cell = 15) → haloPeer? s (clauseIx ci.die ci.clause) (fX w == 1) = none →
      Runs (.send ci w) s (retires s ci 1 id)) ∧
    (fX w ≤ 1 → c.cur.any (fun g => g.rerun) = true → Runs (.send ci w) s (retires s ci 1 id))) ∧
  (∀ s ci w, fA w = 0 → fB w = 0 → fG w = 0 → fX w ≤ 1 → issues s ci 0x38 w [] →
    let c := cellAt s (cellIx ci)
    let r := fX w == 1
    let first : Prop := c.cur.any (fun g => g.rerun) = false
    (first → (∀ g f, c.cur = some g → c.frame = some f → g.recvs < f.logw / 2) → recvFrom? s ci r = none →
      Runs (.recv ci w) s (stalls s ci (.recv r))) ∧
    (∀ g f, c.cur = some g → c.frame = some f → g.rerun = false → f.logw / 2 ≤ g.recvs → Runs (.recv ci w) s (trapped s ci 10 0 none)) ∧
    (∀ g f, noFlips s .cellData (cellIx ci) → c.cur = some g → c.frame = some f → g.rerun = true → sget 0 c.logs g.q ≤ g.recvs →
      Runs (.recv ci w) s (trapped s ci 10 0 none)) ∧
    (c.cur = none → (r = true ∧ ci.cell = 15 ∨ r = false ∧ ci.cell = 0) → haloPeer? s (clauseIx ci.die ci.clause) r = none →
      Runs (.recv ci w) s (retires s ci 1 (fun c => c.wv (fD w) 0))) ∧
    (∀ g v vs, let x := clauseIx ci.die ci.clause
      c.cur = none → ci.cell = 15 → r = true → haloPeer? s x true = some g → (clauseAt s x).haloR = v :: vs →
      Runs (.recv ci w) s (fun t => t = { s with cells := t.cells, clauses := t.clauses } ∧ only (cellIx ci) cellAt s t ∧ only x clauseAt s t ∧
        cellAt t (cellIx ci) = (c.wv (fD w) v).retire 1 ∧ clauseAt t x = { clauseAt s x with haloR := vs })) ∧
    (∀ g v vs, let x := clauseIx ci.die ci.clause
      c.cur = none → ci.cell = 0 → r = false → haloPeer? s x false = some g → (clauseAt s x).haloL = v :: vs →
      Runs (.recv ci w) s (fun t => t = { s with cells := t.cells, clauses := t.clauses } ∧ only (cellIx ci) cellAt s t ∧ only x clauseAt s t ∧
        cellAt t (cellIx ci) = (c.wv (fD w) v).retire 1 ∧ clauseAt t x = { clauseAt s x with haloL := vs })) ∧
    (recvFrom? s ci r = none ↔ (r = true ∧ ci.cell < 15 ∧ c.portR = [] ∨ r = false ∧ 0 < ci.cell ∧ c.portL = [] ∨
      ¬(r = true ∧ ci.cell < 15) ∧ ¬(r = false ∧ 0 < ci.cell) ∧ haloPeer? s (clauseIx ci.die ci.clause) r ≠ none ∧
        (if r then (clauseAt s (clauseIx ci.die ci.clause)).haloR else (clauseAt s (clauseIx ci.die ci.clause)).haloL) = []))) ∧
  (∀ s ci w v u g f, fA w = 0 → fB w = 0 → fG w = 0 → fX w ≤ 1 → issues s ci 0x38 w [] → noFlips s .cellData (cellIx ci) →
    let c := cellAt s (cellIx ci)
    let logAt := f.base (cellRlen s ci) g.q + 8 * (cellRlen s ci + f.cw) + 16 * g.recvs
    recvFrom? s ci (fX w == 1) = some (v, u) → c.cur = some g → c.frame = some f → g.rerun = false → g.recvs < f.logw / 2 →
    Runs (.recv ci w) s (fun t => t = { u with cells := t.cells, dmem := t.dmem, poison := t.poison, flips := t.flips } ∧
      only (cellIx ci) cellAt u t ∧ (cellAt t (cellIx ci)).rv (fD w) = v ∧ dmRead t (cellIx ci) logAt 16 = natLE 16 v.toNat ∧
      sget 0 (cellAt t (cellIx ci)).logs g.q = g.recvs + 1 ∧
      (cellAt t (cellIx ci)).cur = some { g with recvs := g.recvs + 1, cycles := g.cycles + 1 })) ∧
  (∀ s ci w v vs, fA w = 0 → fB w = 0 → fG w = 0 → issues s ci 0x38 w [] → noFlips s .cellData (cellIx ci) →
    let c := cellAt s (cellIx ci)
    let logAt (g : Segment) (f : FrameDecl) : Nat := f.base (cellRlen s ci) g.q + 8 * (cellRlen s ci + f.cw) + 16 * g.recvs
    (fX w = 1 → ci.cell < 15 → c.portR = v :: vs → c.cur = none →
      Runs (.recv ci w) s (retires s ci 1 (fun c => { c.wv (fD w) v with portR := vs }))) ∧
    (fX w = 0 → 0 < ci.cell → c.portL = v :: vs → c.cur = none →
      Runs (.recv ci w) s (retires s ci 1 (fun c => { c.wv (fD w) v with portL := vs }))) ∧
    (∀ g f, fX w = 1 → ci.cell < 15 → c.portR = v :: vs → c.cur = some g → c.frame = some f → g.rerun = false →
      g.recvs < f.logw / 2 → Runs (.recv ci w) s (fun t => t = { s with cells := t.cells, dmem := t.dmem, poison := t.poison } ∧
        only (cellIx ci) cellAt s t ∧ (cellAt t (cellIx ci)).rv (fD w) = v ∧ (cellAt t (cellIx ci)).portR = vs ∧
        dmRead t (cellIx ci) (logAt g f) 16 = natLE 16 v.toNat ∧ sget 0 (cellAt t (cellIx ci)).logs g.q = g.recvs + 1)) ∧
    (∀ g f, fX w ≤ 1 → c.cur = some g → c.frame = some f → g.rerun = true → g.recvs < sget 0 c.logs g.q →
      Runs (.recv ci w) s (retires s ci 1 (fun c =>
        { c.wv (fD w) (BitVec.ofNat 128 (leNat (dmRead s (cellIx ci) (logAt g f) 16))) with
          cur := some { g with recvs := g.recvs + 1 } })))) ∧
  (∀ s ci w, fD w = 0 → fG w = 0 → fX w < 128 → fA w < 16 → fB w < 16 → issues s ci 0x39 w [fA w, fB w] →
    let c := cellAt s (cellIx ci)
    let src := c.seg.toNat * 0x80000 + 8 * (c.rs (fA w)).toNat
    let dst := (c.rs (fB w)).toNat
    let dest := c.destCheck (cellRlen s ci) dst (8 * (fX w + 1)) 8
    let inBanks : Prop := src + 8 * fX w < 0x7C0000
    (dest = none → inBanks → c.banks.length < 8 →
      Runs (.bget ci w) s (retires s ci 1 (fun c => { c with banks := c.banks ++ [.get src (fX w + 1) dst] }))) ∧
    (dest = none → inBanks → 8 ≤ c.banks.length → Runs (.bget ci w) s (stalls s ci (.banks 7))) ∧
    (∀ e, dest = some e → e ≤ 7 → Runs (.bget ci w) s (trapped s ci e 0 none)) ∧
    (dest = none → ¬inBanks → Runs (.bget ci w) s (trapped s ci 7 0 none))) ∧
  (∀ s ci w, fG w = 0 → fX w = 0 → fD w < 16 → fB w < 16 → issues s ci 0x3A w [fD w, fB w] →
    let c := cellAt s (cellIx ci)
    let addr (l : Nat) : Nat := c.seg.toNat * 0x80000 + (8 * (c.rs (fB w)).toNat + 2 * (lane (c.rv (fA w)) l).toNat)
    let dest := c.destCheck (cellRlen s ci) (c.rs (fD w)).toNat 16 16
    let inBanks : Prop := ∀ l, l < 8 → addr l < 0x7C0000
    (dest = none → inBanks → c.banks.length < 8 → Runs (.bgv ci w) s (retires s ci 1 (fun c =>
      { c with banks := c.banks ++ [.gather ((List.range 8).map addr) (c.rs (fD w)).toNat] }))) ∧
    (dest = none → inBanks → 8 ≤ c.banks.length → Runs (.bgv ci w) s (stalls s ci (.banks 7))) ∧
    (∀ e, dest = some e → e ≤ 7 → Runs (.bgv ci w) s (trapped s ci e 0 none)) ∧
    (∀ l, l < 8 → dest = none → 0x7C0000 ≤ addr l → Runs (.bgv ci w) s (trapped s ci 7 0 none))) ∧
  (∀ s ci w, fG w = 0 → fX w ≤ 7 → fD w < 16 → fA w < 16 → fB w < 16 → issues s ci 0x3B w [fA w, fB w] →
    let c := cellAt s (cellIx ci)
    let addr := c.seg.toNat * 0x80000 + (8 * (c.rs (fA w)).toNat + 2 * (fX w % 4))
    (addr < 0x7C0000 → c.banks.length < 8 → Runs (.batm ci w) s (retires s ci 1 (fun c =>
      { c with banks := c.banks ++ [.atomic addr (decide (4 ≤ fX w)) (c.rs (fB w)) (fD w) c.pc] }))) ∧
    (addr < 0x7C0000 → 8 ≤ c.banks.length → Runs (.batm ci w) s (stalls s ci (.banks 7))) ∧
    (0x7C0000 ≤ addr → Runs (.batm ci w) s (trapped s ci 7 0 none)))

/-- R26, R128, R130-R143, R155-R160, R183: a clause admits its next line; a waiting cell is dispatched its line with s11-s13 written; a changed
parameter set goes into the window not in use; the oldest bank request of a cell is served; a trapped cell is reloaded and runs again from ENTRY; the watchdog
traps and an overrun is counted. -/
def Obligations.LinesReachTheCells : Prop :=
  (∀ s d k p, let x := clauseIx d k
    let c := clauseAt s x
    c.st = .serving → c.endLine = none → mayAdmit s x = true →
    (clauseSlot? s x).bind (fun g => placeRowLine s g.row c.nextLine) = some p → admitCause s x c.nextLine p false = 0 →
    Runs (.clauseLineAdmit d k) s (fun t => t = { s with clauses := t.clauses } ∧ only x clauseAt s t ∧
      (clauseAt t x).nextLine = c.nextLine + 1 ∧ (clauseAt t x).nextQ = c.nextQ + 1 ∧
      ∃ l, (clauseAt t x).lines = c.lines ++ [l] ∧ l.line = c.nextLine ∧ l.at_ = some p ∧ l.q = c.nextQ ∧ l.st = .filling ∧
        l.first = (c.fresh || (p.band == 0 && p.bandLine == 0)))) ∧
  (∀ s d k, let x := clauseIx d k
    let c := clauseAt s x
    c.st = .serving → c.endLine = none → mayAdmit s x = true → rowDiffusion (clauseRow s x) = false →
    (∀ n, c.lineOf? n ≠ none → n < c.nextLine) → (∃ g, clauseSlot? s x = some g ∧ placeRowLine s g.row c.nextLine = none) →
    Runs (.clauseLineAdmit d k) s (fun t => (clauseAt t x).nextLine = c.nextLine + 1 ∧ (clauseAt t x).nextQ = c.nextQ ∧
      ∃ l, (clauseAt t x).lineOf? c.nextLine = some l ∧ l.at_ = none ∧ l.st = .ready ∧ l.codes = [] ∧ l.slot = c.freeSlot?)) ∧
  (∀ s d k p, let x := clauseIx d k
    let c := clauseAt s x
    c.st = .serving → c.endLine = none → mayAdmit s x = true → (∀ n, c.lineOf? n ≠ none → n < c.nextLine) →
    (clauseSlot? s x).bind (fun g => placeRowLine s g.row c.nextLine) = some p → admitCause s x c.nextLine p false ≠ 0 →
    Runs (.clauseLineAdmit d k) s (fun t => (clauseAt t x).nextLine = c.nextLine + 1 ∧ (clauseAt t x).withheldCnt = satInc c.withheldCnt ∧
      ∃ l, (clauseAt t x).lineOf? c.nextLine = some l ∧ l.st = .withheld ∧ l.cause = admitCause s x c.nextLine p false)) ∧
  (∀ s d k, let x := clauseIx d k
    let c := clauseAt s x
    (c.st ≠ .serving ∧ c.st ≠ .fencing) ∨ mayAdmit s x = false → exec (.clauseLineAdmit d k) s = .next s) ∧
  (∀ s ci f l p, let x := clauseIx ci.die ci.clause
    let c := cellAt s (cellIx ci)
    c.st = .wait → c.frame = some f → (clauseAt s x).lines.find? (fun l => l.rerun && l.rerunDue.getLsbD ci.cell) = none →
    (clauseAt s x).lineQ? c.nextQ = some l → (clauseAt s x).lineOf? l.line = some l → l.at_ = some p →
    l.begun.getLsbD ci.cell = false → rowDiffusion (clauseRow s x) = false → (clauseRow s x).overlay = false →
    recordReady s x ci.cell l p = true →
    Runs (.lineDispatch ci) s (fun t => let e := cellAt t (cellIx ci)
      only (cellIx ci) cellAt s t ∧ only x clauseAt s t ∧ e.st = .run ∧ e.outWord = 0 ∧
      e.rs 11 = BitVec.ofNat 16 ((if e.cur.any (fun g => g.win) then 2 ^ 9 else 0) + (if (clauseAt s x).hasOvl p.absBand then 2 ^ 8 else 0) +
        (if l.first then 2 ^ 7 else 0) + p.bandLine) ∧
      e.rs 12 = BitVec.ofNat 16 (f.base (cellRlen s ci) l.q) ∧ e.rs 13 = BitVec.ofNat 16 (f.prevBase (cellRlen s ci) l.q) ∧
      (∃ g, e.cur = some g ∧ g.line = l.line ∧ g.q = l.q ∧ g.rerun = false ∧ g.pushed = 0 ∧ g.recvs = 0 ∧ g.cycles = 0) ∧
      ∃ l', (clauseAt t x).lineOf? l.line = some l' ∧ l'.begun = l.begun ||| (1 <<< ci.cell))) ∧
  (∀ s ci f l p, let x := clauseIx ci.die ci.clause
    let c := cellAt s (cellIx ci)
    c.st = .wait → c.frame = some f → (clauseAt s x).lines.find? (fun l => l.rerun && l.rerunDue.getLsbD ci.cell) = some l →
    (clauseAt s x).lineOf? l.line = some l → l.at_ = some p → (clauseAt s x).dec0.reexpand = none → (clauseAt s x).dec1.reexpand = none →
    (clauseRow s x).overlay = false →
    Runs (.lineDispatch ci) s (fun t => let e := cellAt t (cellIx ci)
      only (cellIx ci) cellAt s t ∧ only x clauseAt s t ∧ e.st = .run ∧ e.outWord = 0 ∧
      e.rs 11 = BitVec.ofNat 16 ((if l.win then 2 ^ 9 else 0) + (if (clauseAt s x).hasOvl p.absBand then 2 ^ 8 else 0) +
        (if l.first then 2 ^ 7 else 0) + 2 ^ 6 + p.bandLine) ∧
      e.rs 12 = BitVec.ofNat 16 (f.base (cellRlen s ci) l.q) ∧ e.rs 13 = BitVec.ofNat 16 (f.prevBase (cellRlen s ci) l.q) ∧
      (∃ g, e.cur = some g ∧ g.line = l.line ∧ g.q = l.q ∧ g.rerun = true ∧ g.pushed = 0 ∧ g.recvs = 0 ∧ g.cycles = 0) ∧
      ∃ l', (clauseAt t x).lineOf? l.line = some l' ∧ l'.rerunDue = l.rerunDue &&& ~~~ (1#16 <<< ci.cell) ∧
        l'.segs = l.segs &&& ~~~ (1#16 <<< ci.cell))) ∧
  (∀ s ci f l p, let x := clauseIx ci.die ci.clause
    let c := cellAt s (cellIx ci)
    let row := clauseRow s x
    let b := planeWords (rowCodes row)
    c.st = .wait → c.frame = some f → (clauseAt s x).lines.find? (fun l => l.rerun && l.rerunDue.getLsbD ci.cell) = none →
    (clauseAt s x).lineQ? c.nextQ = some l → l.at_ = some p → l.begun.getLsbD ci.cell = false → rowDiffusion row = false → row.overlay = true →
    (clauseAt s x).hasOvl p.absBand = false → recordReady s x ci.cell l p = true →
    Runs (.lineDispatch ci) s (fun t => (cellAt t (cellIx ci)).st = .run ∧
      ∀ j, j < b + 2 → landed (sget 0 (cellAt t (cellIx ci)).recWords l.q) (b + 1 + j) (b + 1 + j) = true)) ∧
  (∀ s ci, let x := clauseIx ci.die ci.clause
    let c := cellAt s (cellIx ci)
    (c.st ≠ .wait ∨ c.frame = none ∨
      (clauseAt s x).lines.find? (fun l => l.rerun && l.rerunDue.getLsbD ci.cell) = none ∧ (clauseAt s x).lineQ? c.nextQ = none ∨
      ∃ l p, (clauseAt s x).lines.find? (fun l => l.rerun && l.rerunDue.getLsbD ci.cell) = none ∧ (clauseAt s x).lineQ? c.nextQ = some l ∧
        l.at_ = some p ∧ (recordReady s x ci.cell l p = false ∨
          rowDiffusion (clauseRow s x) = true ∧ 0 < ci.cell ∧ (cellAt s (cellIx ci - 1)).nextQ ≤ l.q)) →
    exec (.lineDispatch ci) s = .next s) ∧
  (∀ s d k, let x := clauseIx d k
    let c := clauseAt s x
    c.winDirty = true → c.powered = true → windowUsed s x (!c.win) = false →
    Runs (.windowWrite d k) s (fun t => t = { s with clauses := t.clauses, dmem := t.dmem, poison := t.poison, flips := t.flips } ∧ only x clauseAt s t ∧
      clauseAt t x = { c with winDirty := false, winWritten := true } ∧
      ∀ n, n < 16 → dmRead t (cellOfIx x n) (if c.win then 0x3800 else 0x3C00) 1024 = windowBytes s (x / 66) c.slot n)) ∧
  (∀ s d k, (clauseAt s (clauseIx d k)).winDirty = false ∨ (clauseAt s (clauseIx d k)).powered = false ∨
      windowUsed s (clauseIx d k) (!(clauseAt s (clauseIx d k)).win) = true → exec (.windowWrite d k) s = .next s) ∧
  (∀ s ci n st, let c := cellAt s (cellIx ci)
    c.stall = some st → stallOver s ci c st = true →
    Runs (.cellStallRelease ci n) s (fun t => t = { s with cells := t.cells } ∧ only (cellIx ci) cellAt s t ∧
      cellAt t (cellIx ci) = { c with stall := none, cur := c.cur.map (fun g =>
        { g with cycles := g.cycles + match st with | .recv _ => 0 | _ => n }) })) ∧
  (∀ s ci n, (cellAt s (cellIx ci)).stall = none ∨ (∃ st, (cellAt s (cellIx ci)).stall = some st ∧ stallOver s ci (cellAt s (cellIx ci)) st = false) →
    exec (.cellStallRelease ci n) s = .next s) ∧
  (∀ s ci src n dst rs, let c := cellAt s (cellIx ci)
    c.banks = .get src n dst :: rs → src + 8 * n ≤ 0x700000 → noFlips s .bank ci.die →
    Runs (.bankRequestComplete ci [] []) s (fun t => t = { s with cells := t.cells, dmem := t.dmem, poison := t.poison, flips := t.flips } ∧
      only (cellIx ci) cellAt s t ∧ cellAt t (cellIx ci) = { c with banks := rs } ∧
      (∀ j, j < 8 * n → rd t.dmem (16384 * cellIx ci + dst + j) = rd s.banks (2 ^ 23 * ci.die + src + j)) ∧
      (src % 8 = 0 → dst % 8 = 0 → ∀ j, j < n → poisoned t .cellData (cellIx ci) (dst / 8 + j) = poisoned s .bank ci.die (src / 8 + j)) ∧
      ∀ m, (m < 16384 * cellIx ci + dst ∨ 16384 * cellIx ci + dst + 8 * n ≤ m) → rd t.dmem m = rd s.dmem m)) ∧
  (∀ s ci addrs dst rs, let c := cellAt s (cellIx ci)
    c.banks = .gather addrs dst :: rs → addrs.length = 8 → (∀ a ∈ addrs, a + 2 ≤ 0x700000) → noFlips s .bank ci.die →
    Runs (.bankRequestComplete ci [] []) s (fun t => t = { s with cells := t.cells, dmem := t.dmem, poison := t.poison, flips := t.flips } ∧
      only (cellIx ci) cellAt s t ∧ cellAt t (cellIx ci) = { c with banks := rs } ∧
      (∀ j, j < 8 → rd t.dmem (16384 * cellIx ci + dst + 2 * j) = rd s.banks (2 ^ 23 * ci.die + addrs.getD j 0) ∧
        rd t.dmem (16384 * cellIx ci + dst + 2 * j + 1) = rd s.banks (2 ^ 23 * ci.die + addrs.getD j 0 + 1)) ∧
      (dst % 16 = 0 → ∀ b, b < 2 → (poisoned t .cellData (cellIx ci) (dst / 8 + b) = true ↔
        ∃ j, j < 4 ∧ poisoned s .bank ci.die (addrs.getD (4 * b + j) 0 / 8) = true)) ∧
      ∀ m, (m < 16384 * cellIx ci + dst ∨ 16384 * cellIx ci + dst + 16 ≤ m) → rd t.dmem m = rd s.dmem m)) ∧
  (∀ s ci addr rep v r pc rs, let c := cellAt s (cellIx ci)
    let a := 2 ^ 23 * ci.die + addr
    let old : BitVec 16 := rd s.banks (a + 1) ++ rd s.banks a
    c.banks = .atomic addr rep v r pc :: rs → addr + 2 ≤ 0x700000 → addr % 2 = 0 → poisoned s .bank ci.die (addr / 8) = false → c.st ≠ .restart →
    noFlips s .bank ci.die → Runs (.bankRequestComplete ci [] []) s (fun t => t = { s with cells := t.cells, banks := t.banks } ∧ only (cellIx ci) cellAt s t ∧
      cellAt t (cellIx ci) = ({ c with banks := rs } : Cell).ws r old ∧
      rd t.banks (a + 1) ++ rd t.banks a = (if rep then v else old + v) ∧
      ∀ m, m ≠ a → m ≠ a + 1 → rd t.banks m = rd s.banks m)) ∧
  (∀ s ci addr rep v r pc rs, let c := cellAt s (cellIx ci)
    let a := 2 ^ 23 * ci.die + addr
    let old : BitVec 16 := rd s.banks (a + 1) ++ rd s.banks a
    c.banks = .atomic addr rep v r pc :: rs → addr + 2 ≤ 0x700000 → addr % 2 = 0 → noFlips s .bank ci.die →
    (c.st = .restart ∨ poisoned s .bank ci.die (addr / 8) = true) →
    (clauseAt s (clauseIx ci.die ci.clause)).st ≠ .spare →
    Runs (.bankRequestComplete ci [] []) s (fun t => rd t.banks (a + 1) ++ rd t.banks a = (if rep then v else old + v) ∧
      let e := cellAt t (cellIx ci)
      e.banks = rs ∧ e.s = c.s ∧ (poisoned s .bank ci.die (addr / 8) = true → poisoned t .bank ci.die (addr / 8) = true) ∧
      ((c.st = .run ∨ c.st = .wait) → e.st = .restart ∧ e.cause = 7 ∧ e.trapPc = pc ∧ e.traps = satInc c.traps) ∧
      (c.st = .restart → e = { c with banks := rs }))) ∧
  (∀ s ci more sys, (cellAt s (cellIx ci)).banks = [] → (∀ e ∈ more, (cellAt s (cellIx e)).banks = []) → sys = [] →
    exec (.bankRequestComplete ci more sys) s = .next s) ∧
  (∀ s ci cj addr v w r q pc pd rs ss, let c := cellAt s (cellIx ci)
    let e := cellAt s (cellIx cj)
    let a := 2 ^ 23 * ci.die + addr
    let old : BitVec 16 := rd s.banks (a + 1) ++ rd s.banks a
    cj.die = ci.die → cellIx ci < cellIx cj → c.banks = .atomic addr false v r pc :: rs → e.banks = .atomic addr true w q pd :: ss →
    addr + 2 ≤ 0x700000 → addr % 2 = 0 → poisoned s .bank ci.die (addr / 8) = false → c.st = .run → e.st = .run → noFlips s .bank ci.die →
    ∀ i, i = Instr.bankRequestComplete ci [cj] [.atomic addr false 1] ∨ i = .bankRequestComplete cj [ci] [.atomic addr false 1] →
    Runs i s (fun t => cellAt t (cellIx ci) = ({ c with banks := rs } : Cell).ws r old ∧
      cellAt t (cellIx cj) = ({ e with banks := ss } : Cell).ws q (old + v) ∧
      rd t.banks (a + 1) ++ rd t.banks a = w + 1 ∧ t.out = .coreAtomic ci.die w :: s.out ∧
      (∀ m, m < 69 → sget 0 t.conflicts (69 * ci.die + m) =
        if m = ci.clause ∧ ci.clause < 66 ∨ m = cj.clause ∧ cj.clause < 66 ∨ m = 66 then
          (if m = ci.clause ∧ m = cj.clause then satInc (satInc (sget 0 s.conflicts (69 * ci.die + m))) else satInc (sget 0 s.conflicts (69 * ci.die + m)))
        else sget 0 s.conflicts (69 * ci.die + m)))) ∧
  (∀ s ci m addr b, (cellAt s (cellIx ci)).banks = [] → addr < 0x700000 → noFlips s .bank ci.die →
    Runs (.bankRequestComplete ci [] [.write m addr [b]]) s (fun t => t = { s with banks := t.banks } ∧ rd t.banks (2 ^ 23 * ci.die + addr) = b ∧
      ∀ n, n ≠ 2 ^ 23 * ci.die + addr → rd t.banks n = rd s.banks n)) ∧
  (∀ s ci, let c := cellAt s (cellIx ci)
    c.st = .restart → c.banks = [] → c.reload = none →
    Runs (.cellRestart ci) s (fun t => t = { s with cells := t.cells } ∧ only (cellIx ci) cellAt s t ∧
      let e := cellAt t (cellIx ci)
      e.st = .run ∧ e.pc = c.entry ∧ (∀ r, e.rs r = 0 ∧ e.rv r = 0 ∧ (r ≠ 0 → e.rp r = 0)) ∧ e.loops = [] ∧ e.frame = c.frame ∧
        e.cause = c.cause ∧ e.traps = c.traps)) ∧
  (∀ s ci, (cellAt s (cellIx ci)).st ≠ .restart ∨ (cellAt s (cellIx ci)).banks ≠ [] ∨ (cellAt s (cellIx ci)).reload ≠ none →
    exec (.cellRestart ci) s = .next s) ∧
  (∀ s ci a m, let c := cellAt s (cellIx ci)
    c.reload = some false → noFlips s .bank ci.die → ci.clause < 66 → ci.cell < 16 → imageCopy? s (clauseIx ci.die ci.clause) ci.cell = some (a, m) →
    Runs (.cellReloadDone ci) s (fun t => t = { s with cells := t.cells, imem := t.imem, poison := t.poison, flips := t.flips } ∧
      cellAt t (cellIx ci) = { c with reload := none } ∧ (∀ n, n < 1024 → imemWord t (cellIx ci) n = m.words.getD n 0) ∧
      (∀ b, poisoned t .cellInstr (cellIx ci) b = true ↔ 8 * b < 4 * m.words.length ∧
        poisonedIn s .bank ci.die (a + 24 + 8 * b) (min 8 (4 * m.words.length - 8 * b)) = true))) ∧
  (∀ s ci a m, let c := cellAt s (cellIx ci)
    c.reload = some true → noFlips s .bank ci.die → ci.clause < 66 → ci.cell < 16 → imageCopy? s (clauseIx ci.die ci.clause) ci.cell = some (a, m) →
    m.dataAddr + m.data.length ≤ 16384 →
    Runs (.cellReloadDone ci) s (fun t => t = { s with cells := t.cells, dmem := t.dmem, poison := t.poison, flips := t.flips } ∧
      cellAt t (cellIx ci) = { c with reload := none } ∧ dmRead t (cellIx ci) m.dataAddr m.data.length = m.data)) ∧
  (∀ s ci, (cellAt s (cellIx ci)).reload = none → exec (.cellReloadDone ci) s = .next s) ∧
  (∀ s ci g n, let c := cellAt s (cellIx ci)
    let x := clauseIx ci.die ci.clause
    let m := g.cycles + (match c.stall with | none => 0 | some (.recv _) => 0 | some _ => n)
    c.cur = some g → c.st = .run →
    (512 * (clauseRow s x).p ≤ m → (clauseAt s x).st ≠ .spare → Runs (.watchdog ci n) s (fun t =>
      let e := cellAt t (cellIx ci)
      e.st = .restart ∧ e.cause = 12 ∧ e.trapPc = c.pc ∧ e.trapBand = g.band ∧ e.trapLine = g.bandLine ∧ e.trapRerun = g.rerun ∧ e.noLine = false ∧
        e.traps = satInc c.traps ∧ e.cur = none ∧ e.stall = none ∧ e.nextQ = max c.nextQ (g.q + 1) ∧
        e.overLen = c.overLen ++ (if 128 * (clauseRow s x).p < m then [m] else []) ∧
        ((∀ l ∈ (clauseAt s x).lines, l.line = g.line → l.settled = true) → only (cellIx ci) cellAt s t ∨ (clauseAt s x).st = .serving))) ∧
    (m < 512 * (clauseRow s x).p → exec (.watchdog ci n) s = .next s)) ∧
  (∀ s ci n, (cellAt s (cellIx ci)).cur = none ∨ (cellAt s (cellIx ci)).st ≠ .run → exec (.watchdog ci n) s = .next s) ∧
  (∀ s ci g n l p, let c := cellAt s (cellIx ci)
    let x := clauseIx ci.die ci.clause
    c.cur = some g → c.st = .run → g.rerun = false → c.stall = none → 512 * (clauseRow s x).p ≤ g.cycles → (clauseAt s x).st = .serving →
    (clauseAt s x).lineOf? g.line = some l → (clauseAt s x).lines.all (fun q => q.line != g.line || q == l) = true → l.at_ = some p →
    l.settled = false → l.rerun = false → l.rerunWait = false → (clauseAt s x).rerunning = false → (clauseAt s x).bandLost p.absBand = false →
    Runs (.watchdog ci n) s (fun t => ∃ l', (clauseAt t x).lineOf? g.line = some l' ∧ l'.st = .filling ∧ l'.rerun = true ∧ l'.fault = true ∧
      l'.rerunDue = l.begun ∧ l'.trap1 = some (ci.cell, 12, c.pc.toNat))) ∧
  (∀ s ci g n l p, let c := cellAt s (cellIx ci)
    let x := clauseIx ci.die ci.clause
    c.cur = some g → c.st = .run → g.rerun = true → c.stall = none → 512 * (clauseRow s x).p ≤ g.cycles → (clauseAt s x).st = .serving →
    (clauseAt s x).lineOf? g.line = some l → l.at_ = some p → l.settled = false → l.rerun = true → l.rerunWait = false →
    l.trap1 = some (ci.cell, 12, c.pc.toNat) →
    Runs (.watchdog ci n) s (fun t => ∃ l', (clauseAt t x).lineOf? g.line = some l' ∧ l'.st = .withheld ∧ l'.cause = 3)) ∧
  (∀ s ci g n y, let c := cellAt s (cellIx ci)
    let x := clauseIx ci.die ci.clause
    c.cur = some g → c.st = .run → c.stall = none → 512 * (clauseRow s x).p ≤ g.cycles → (clauseAt s x).st = .fencing →
    (clauseAt s x).lineOf? g.line = some y → y.settled = false →
    Runs (.watchdog ci n) s (fun t => ∃ l', (clauseAt t x).lineOf? g.line = some l' ∧ l'.st = .withheld ∧ l'.cause = 2)) ∧
  (∀ s ci w, let c := cellAt s (cellIx ci)
    let x := clauseIx ci.die ci.clause
    c.cur = none → ci.cell < 16 → ci.clause < 66 → (clauseAt s x).st = .spare → (clauseAt s x).spareFor ≠ none → fD w = 0 → fA w = 0 → fB w = 0 → fG w = 0 →
    issues s ci 0x0C w [] → Runs (.trap ci w) s (fun t => (cellAt t (cellIx ci)).st = .off ∧ (cellAt t (cellIx ci)).cause = 13 ∧
      ((clauseAt t x).st = .fenced) ∧ (clauseAt t x).powered = false)) ∧
  (∀ s ci n ns, let c := cellAt s (cellIx ci)
    c.overLen = n :: ns → Runs (.cellOverrun ci) s (fun t => t = { s with cells := t.cells, evqs := t.evqs } ∧ only (cellIx ci) cellAt s t ∧
      cellAt t (cellIx ci) = { c with overLen := ns, overruns := satInc c.overruns })) ∧
  (∀ s ci, (cellAt s (cellIx ci)).overLen = [] → exec (.cellOverrun ci) s = .next s)

/-! ### Time, encoders, commits and gathers (R186-R213, R237-R239, R361, R393, R394) -/

/-- R188-R194, R361, R393: a master's frame carries TB[63:20] at the epoch boundary; a slave counts a bad CRC, sets its counter with no job open and FAULT with
one open, and loses LOCK after three epochs; a level is accepted once stable for FILT + 1 samples; an encoder counts edges with their timestamps, counts an error when both
inputs change in one sample, ends a run after 2^20 ticks, and a count or its index may start a job; the line generators act on a count 48 ticks after it and predict
the rows' next ticks. -/
def Obligations.TimebaseAndEncoders : Prop :=
  (∀ s, s.sync.mode = 1 → Runs .syncFrameSend s (fun t => t = { s with tb := t.tb, out := t.out } ∧ t.tb = (s.tb / 2 ^ 20 + 1) * 2 ^ 20 ∧
    ∃ c : BitVec 56, t.out = .syncFrame c :: s.out ∧ c.toNat % 2 ^ 44 = (s.tb / 2 ^ 20 + 1) % 2 ^ 44 ∧ c.toNat / 2 ^ 44 % 16 = 0 ∧
      syncCarried c = syncCrc c)) ∧
  (∀ s edge c, s.sync.mode = 2 → s.sync.repeat_ = false → syncCrc c ≠ syncCarried c → exec (.syncFrameReceive edge c) s =
    .next { s with tb := max s.tb (edge / 64), sync := { s.sync with bad := satInc s.sync.bad } }) ∧
  (∀ s edge c, s.sync.mode = 2 → s.sync.repeat_ = false → syncCrc c = syncCarried c → jobOpen s = true → 2 < (syncError s edge c).natAbs →
    Runs (.syncFrameReceive edge c) s (fun t => t.sync.fault = true ∧ t.sync.frames = s.sync.frames + 1 ∧ t.sync.lock = s.sync.lock ∧
      t.tb = max s.tb (edge / 64))) ∧
  (∀ s edge c, s.sync.mode = 2 → s.sync.repeat_ = false → syncCrc c = syncCarried c → jobOpen s = true → (syncError s edge c).natAbs ≤ 2 →
    Runs (.syncFrameReceive edge c) s (fun t => t = { s with tb := max s.tb (edge / 64), sync := { s.sync with
      frames := s.sync.frames + 1, agreed := s.sync.agreed + 1, lastFrame := max s.tb (edge / 64) } })) ∧
  (∀ s edge c, s.sync.mode = 2 → s.sync.repeat_ = false → syncCrc c = syncCarried c → jobOpen s = false →
    let now : Int := max (64 * max s.tb (edge / 64)) edge
    let set : Int := now - syncError s edge c
    Runs (.syncFrameReceive edge c) s (fun t => t = { s with tb := t.tb, sync := t.sync } ∧ t.sync.frames = s.sync.frames + 1 ∧
      t.tb = (set / 64).toNat ∧ t.sync.phase = s.sync.phase + BitVec.ofInt 6 (syncError s edge c) ∧ t.sync.lastFrame = t.tb ∧
      (t.sync.lock = true ↔ s.sync.lock = true ∨ ((syncError s edge c).natAbs ≤ 2 ∧ 1 ≤ s.sync.agreed)))) ∧
  (∀ s edge c, s.sync.mode = 2 → s.sync.repeat_ = true → Runs (.syncFrameReceive edge c) s (fun t => ∃ u,
    exec (.syncFrameReceive edge c) { s with sync := { s.sync with repeat_ := false } } = .next u ∧ t.tb = u.tb ∧
    t.sync = { u.sync with repeat_ := true } ∧ .syncFrame c ∈ t.out)) ∧
  (∀ s, s.sync.mode = 2 → Runs .syncLost s (fun t => t = { s with tb := t.tb, sync := t.sync, evqs := t.evqs } ∧
    t.tb = max s.tb (s.sync.lastFrame + 3 * 2 ^ 20) ∧ t.sync = { s.sync with lock := false, lost := true, agreed := 0, lastFrame := t.tb })) ∧
  (∀ s edge c, (s.sync.mode ≠ 1 → exec .syncFrameSend s = .next s) ∧
    (s.sync.mode ≠ 2 → exec (.syncFrameReceive edge c) s = .next s ∧ exec .syncLost s = .next s)) ∧
  (∀ s e t a b n u, let x := encAt s e
    let forward : Bool := (if x.a ≠ a then decide (a ≠ b) else decide (a = b)) != x.invert
    e < 4 → (a ≠ x.a ∧ b = x.b ∧ u = x.candA.getD t ∨ a = x.a ∧ b ≠ x.b ∧ u = x.candB.getD t) → u + x.filt.toNat + 1 ≤ t + n →
    Runs (.encoderCount e t a b n) s (fun v => let y := encAt v e
      v.tb = max s.tb u ∧ only e encAt s v ∧ y.a = a ∧ y.b = b ∧ y.candA = none ∧ y.candB = none ∧ y.fwd = forward ∧
      y.count = (if forward then x.count + 1 else x.count - 1) ∧ y.total = (if forward then x.total + 1 else x.total - 1) ∧
      y.qerr = x.qerr ∧ y.stamps.head? = some u ∧ (x.fwd ≠ forward → y.stamps = [u]) ∧
      (∀ q, x.stamps.head? = some q → x.fwd = forward → (y.stamps = [u] ↔ 2 ^ 20 < u - q ∨ (u :: x.stamps).take 17 = [u])) ∧
      ∃ k, y.acts = x.acts ++ [k] ∧ k.t = u ∧ k.c = y.total ∧ (k.ready = true ↔ 17 ≤ y.stamps.length))) ∧
  (∀ s e t a b n j u, let x := encAt s e
    let s' := setEnc (advanceTo s u) e (x.step u a b)
    e < 4 → x.candA = none → x.candB = none → (a ≠ x.a ∧ b = x.b ∨ a = x.a ∧ b ≠ x.b) → u = t → x.filt.toNat + 1 ≤ n →
    s.job = some j → j.startEnc = e → j.startIndex = false → mayStart s' j = true →
    Runs (.encoderCount e t a b n) s (fun v => (∃ k, v.job = some k ∧ k.st = .running ∧ k.pages = j.pages ∧ ∀ f ∈ j.encs, sget 0 k.c0 f = (encAt s' f).total) ∧
      ∀ r ∈ j.rows, (rowAt v r).st = .run ∧ (rowAt v r).line = 0 ∧ (rowAt v r).committed = none)) ∧
  (∀ s e t a b n, let x := encAt s e
    let ca := if a = x.a then none else some (x.candA.getD t)
    let cb := if b = x.b then none else some (x.candB.getD t)
    e < 4 → (∀ u, ca = some u ∨ cb = some u → t + n < u + x.filt.toNat + 1) →
    Runs (.encoderCount e t a b n) s (fun v => v = { s with encs := v.encs } ∧ only e encAt s v ∧
      encAt v e = { x with candA := ca, candB := cb })) ∧
  (∀ s e t a b n u, let x := encAt s e
    e < 4 → a ≠ x.a → b ≠ x.b → u = x.candA.getD t → u = x.candB.getD t → u + x.filt.toNat + 1 ≤ t + n → Runs (.encoderCount e t a b n) s (fun v =>
    v = { s with tb := max s.tb u, encs := v.encs, evqs := v.evqs } ∧ only e encAt s v ∧
    encAt v e = { x with a := a, b := b, candA := none, candB := none, qerr := satInc x.qerr })) ∧
  (∀ s e t a b n u v, let x := encAt s e
    e < 4 → a ≠ x.a → b ≠ x.b → u = x.candA.getD t → v = x.candB.getD t → u ≠ v → max u v + x.filt.toNat + 1 ≤ t + n →
    Runs (.encoderCount e t a b n) s (fun w => w.tb = max s.tb (max u v) ∧ (encAt w e).qerr = x.qerr ∧ (encAt w e).a = a ∧ (encAt w e).b = b ∧
      (encAt w e).acts.length = x.acts.length + 2 ∧
      (encAt w e).total = ((if u < v then (x.step u a x.b).step v a b else (x.step v x.a b).step u a b)).total)) ∧
  (∀ s e t a b n, 4 ≤ e → exec (.encoderCount e t a b n) s = .next s ∧ exec (.encoderIndex e t n) s = .next s) ∧
  (∀ s e t n, e < 4 → (encAt s e).filt.toNat < n → Runs (.encoderIndex e t n) s (fun u => let x := encAt s e
    let y := encAt u e
    u.tb = max s.tb t ∧ only e encAt s u ∧ y.idx = x.count ∧ y.idxSeen = true ∧ y.count = x.count ∧
    y.slip = (if x.cpr ≠ 0 ∧ x.idxSeen = true ∧ x.count - x.idx ≠ x.cpr.zeroExtend 32 ∧ x.idx - x.count ≠ x.cpr.zeroExtend 32
      then satInc x.slip else x.slip))) ∧
  (∀ s e t n, n ≤ (encAt s e).filt.toNat → exec (.encoderIndex e t n) s = .next s) ∧
  (∀ s e t n j, e < 4 → (encAt s e).filt.toNat < n → s.job = some j → j.startEnc = e → j.startIndex = true → mayStart s j = true →
    Runs (.encoderIndex e t n) s (fun u =>
    (∃ k, u.job = some k ∧ k.st = .running ∧ k.pages = j.pages ∧ ∀ f ∈ j.encs, sget 0 k.c0 f = (encAt s f).total) ∧
      ∀ r ∈ j.rows, (rowAt u r).st = .run ∧ (rowAt u r).line = 0 ∧ (rowAt u r).committed = none)) ∧
  (∀ s e t p, (encAt s e).stamps.head? = some p → p + 2 ^ 20 < t → Runs (.encoderLongGap e t) s (fun u =>
    u = { s with tb := max s.tb t, encs := u.encs } ∧ only e encAt s u ∧
    encAt u e = { encAt s e with stamps := [], last := (encAt s e).last.map (fun k => { k with ready := false, tp := 0 }) } ∧
    (encAt u e).ready = false)) ∧
  (∀ s e t, (∀ p, (encAt s e).stamps.head? = some p → t ≤ p + 2 ^ 20) → exec (.encoderLongGap e t) s = .next s) ∧
  (∀ s e k ks, (encAt s e).acts = k :: ks → Runs (.timeCountAct e) s (fun u => u = { s with tb := max s.tb (k.t + 48), encs := u.encs, rows := u.rows } ∧
    only e encAt s u ∧ encAt u e = { encAt s e with acts := ks, last := some k } ∧
    ∀ j r, s.job = some j → j.st = .running → r ∈ j.rows → j.rows.Nodup → (rowTiming s r).encoder = e →
      let tm := rowTiming s r
      let x : Int := (k.c - sget 0 j.c0 e) * tm.ratio
      let b : Int := ((rowAt s r).line * 2 ^ 32 + tm.oF * 2 ^ 24 : Nat)
      let at_ : Option Nat := if b ≤ x then some (64 * k.t)
        else if k.ready = true then some (64 * k.t + ((b - x) * k.tp / tm.ratio).toNat) else (rowAt s r).pred
      rowAt u r = { rowAt s r with pred := at_ })) ∧
  (∀ s e, (encAt s e).acts = [] → exec (.timeCountAct e) s = .next s)

/-- R25, R194-R199, R206, R237, R238, R345: a line is committed at max(T, t + 128) with its drop rule, its tick begins the next gather, the mover takes the
next 16 codes through the inflection table, a gather ends, and a fire instant frees the head line. -/
def Obligations.LinesCommitGatherAndFire : Prop :=
  (∀ s r t j p, s.job = some j → j.st = .running → r ∈ j.rows → (rowAt s r).pred = some p → p ≤ 64 * (max t s.tb + 256) →
    let w := rowAt s r
    let tl := max p (64 * (max t s.tb + 128))
    let drop : Prop := ∃ tf, w.lastFire = some tf ∧ (tl : Int) - tf < 25 * (rowCfg s r).minFire
    Runs (.lineCommit r t) s (fun u => let v := rowAt u r
      u.tb = max t s.tb ∧ v.line = w.line + 1 ∧ v.committed = some w.line ∧ v.tl = tl ∧ v.lineCount = w.lineCount + 1 ∧
      v.lastReg = BitVec.ofNat 32 w.line ∧ (drop → v.lastFire = w.lastFire ∧ v.ovsTotal = satInc w.ovsTotal ∧ v.lastDropped = true ∧
        ∀ h, (headAt u h).hist = (headAt s h).hist) ∧
      (¬ drop → v.lastFire = some tl ∧ v.ovsTotal = w.ovsTotal ∧ v.lastDropped = false))) ∧
  (∀ s r t, (rowAt s r).pred = none ∨ (∃ p, (rowAt s r).pred = some p ∧ 64 * (max t s.tb + 256) < p) ∨ s.job = none ∨
      (∃ j, s.job = some j ∧ (j.st ≠ .running ∨ r ∉ j.rows)) → exec (.lineCommit r t) s = .next s) ∧
  (∀ s r t j p h d l hl, let w := rowAt s r
    let tl := max p (64 * (max t s.tb + 128))
    let now := advanceTo s (max t s.tb)
    s.job = some j → j.st = .running → r ∈ j.rows → w.pred = some p → p ≤ 64 * (max t s.tb + 256) → tooSoon s r tl = false →
    rowHeads s r = [h] → headLink? s h = some (d, l) → (linkAt s (linkIx d l)).st = .active → s.die0Fault = false → isFenced s (.head h) = false →
    headLine? s h w.line = some hl → hl.stop = 0 → hl.delivered = true → groupOf? s h = none →
    let fd := ((nozTable? s h).map nozFd).getD 0
    let delay : Int := (tl : Int) + fd - singleAt now d l - (headAt s h).lat
    0 ≤ delay → delay < 2 ^ 23 → Runs (.lineCommit r t) s (fun u =>
      tokenBlk h (BitVec.ofNat 16 w.line) true (BitVec.ofInt 23 delay) ∈ (linkAt u (linkIx d l)).singles ∧
      (headAt u h).late = (headAt s h).late ∧
      ∀ i, i < headNozzles s h → sget 0 (headAt u h).hist i = (sget 0 (headAt s h).hist i <<< 1) ||| (if hl.codes.getD i 0 = 0 then 0 else 1))) ∧
  (∀ s r t j p h d l, let w := rowAt s r
    let tl := max p (64 * (max t s.tb + 128))
    s.job = some j → j.st = .running → r ∈ j.rows → w.pred = some p → p ≤ 64 * (max t s.tb + 256) → tooSoon s r tl = false →
    rowHeads s r = [h] → headLink? s h = some (d, l) → (linkAt s (linkIx d l)).st = .active → s.die0Fault = false → isFenced s (.head h) = false →
    headLine? s h w.line = none → groupOf? s h = none →
    let fd := ((nozTable? s h).map nozFd).getD 0
    let delay : Int := (tl : Int) + fd - singleAt (advanceTo s (max t s.tb)) d l - (headAt s h).lat
    0 ≤ delay → delay < 2 ^ 23 → Runs (.lineCommit r t) s (fun u =>
      tokenBlk h (BitVec.ofNat 16 w.line) false (BitVec.ofInt 23 delay) ∈ (linkAt u (linkIx d l)).singles ∧
      (headAt u h).late = satInc (headAt s h).late ∧
      ∀ i, i < headNozzles s h → sget 0 (headAt u h).hist i = sget 0 (headAt s h).hist i <<< 1)) ∧
  (∀ s r l tl rest, (rowAt s r).tickDue = (l, tl) :: rest → Runs (.rowTick r) s (fun u => u.tb = max s.tb (tl / 64) ∧
    (∀ h ∈ rowLive s r, (∀ c, (rowAt s r).committed = some c → c < l + 1) → (headAt u h).nextGather = l + 2) ∧
    ((∃ c, (rowAt s r).committed = some c ∧ l + 1 ≤ c) → ∀ h, (headAt u h).nextGather = (headAt s h).nextGather))) ∧
  (∀ s r, (rowAt s r).tickDue = [] → exec (.rowTick r) s = .next s) ∧
  (∀ s h hl p (c : Nat → BitVec 4), gathering? s h = some hl → nozTable? s h = some p → gatherServed s h = true →
    stoppedNow s (nozRow p) hl.line = false → s.flips = [] → (∀ k ∈ s.clauses, ∀ l ∈ k.2.lines, l.flips = []) → (∀ b ∈ s.poison, b.kind ≠ .bank) →
    (headAt s h).histBad = [] →
    let n := hl.codes.length
    let m := min 16 (hl.total - n)
    (∀ i, i < m → nozRead s p (nozRow p) hl.line (n + i) = .code (c i)) →
    Runs (.gatherBlock h false) s (fun u => ∃ hl', gathering? u h = some hl' ∧ hl'.line = hl.line ∧ hl'.codes.length = n + m ∧
      hl'.codes.take n = hl.codes ∧
      ∀ i, i < m → hl'.codes.getD (n + i) 0 = inflect s (nozRow p) hl.cool (c i) (sget 0 (headAt s h).hist (n + i)))) ∧
  (∀ s h hl p d l i c, gathering? s h = some hl → nozTable? s h = some p → gatherServed s h = true → headLink? s h = some (d, l) →
    stoppedNow s (nozRow p) hl.line = false → s.flips = [] → (∀ k ∈ s.clauses, ∀ l ∈ k.2.lines, l.flips = []) →
    i < min 16 (hl.total - hl.codes.length) → nozRead s p (nozRow p) hl.line (hl.codes.length + i) = c →
    ((∃ k, c = .poison k) ∨ poisoned s .bank d (nozBlk h (hl.codes.length + i)) = true) →
    Runs (.gatherBlock h false) s (fun u => ∃ hl', gathering? u h = some hl' ∧ hl'.codes.getD (hl.codes.length + i) 0 = 0 ∧
      ∀ k j, c = .poison (some k) → s.job = some j → j.reported ≤ k → ∃ j', u.job = some j' ∧ (sget {} j'.defects k).flag = true ∧
        (sget {} j'.defects k).causes.getLsbD 2 = true)) ∧
  (∀ s h hl p (c : Nat → BitVec 4), gathering? s h = some hl → nozTable? s h = some p → gatherServed s h = true →
    stoppedNow s (nozRow p) hl.line = false → s.flips = [] → (∀ k ∈ s.clauses, ∀ l ∈ k.2.lines, l.flips = []) → (∀ b ∈ s.poison, b.kind ≠ .bank) →
    let n := hl.codes.length
    let m := min 16 (hl.total - n)
    (∀ i, i < m → nozRead s p (nozRow p) hl.line (n + i) = .code (c i)) → n % 16 = 0 →
    Runs (.gatherBlock h true) s (fun u => n / 16 ∈ (headAt u h).histBad ∧ ∃ hl', gathering? u h = some hl' ∧
      ∀ i, i < m → hl'.codes.getD (n + i) 0 = inflect s (nozRow p) hl.cool (c i) 0)) ∧
  (∀ s h b, gathering? s h = none → exec (.gatherBlock h b) s = .next s ∧ exec (.gatherEnd h) s = .next s) ∧
  (∀ s h b, gatherServed s h = false → exec (.gatherBlock h b) s = .next s) ∧
  (∀ s h, gatherReady s h = false → gatherServed s h = false ∨ ∃ d c, gatherCh? s h = some (d, c) ∧ (dmaAt s (dmaIx d c)).arg ≠ h) ∧
  (∀ s h hl, gathering? s h = some hl → hl.codes.length < hl.total → exec (.gatherEnd h) s = .next s) ∧
  (∀ s h hl, gathering? s h = some hl → hl.total ≤ hl.codes.length → Runs (.gatherEnd h) s (fun u =>
    (∀ l ∈ (headAt u h).lines, l.line = hl.line → l.spit = false → l.done = true) ∧ only h headAt s u ∧ u.tb = s.tb ∧ u.rows = s.rows)) ∧
  (∀ s h l hl, (headAt s h).lines.find? (fun q => q.line == l && q.committed.isSome) = some hl → Runs (.fireInstant h l) s (fun u =>
    u.tb = max s.tb (hl.fireAt / 64) ∧
    (headAt u h).lines = (headAt s h).lines.filter (fun q => !(q.line == l && q.committed.isSome)))) ∧
  (∀ s h l, (headAt s h).lines.find? (fun q => q.line == l && q.committed.isSome) = none → exec (.fireInstant h l) s = .next s)

/-! ### Tynel links (R215-R249) -/

/-- A block went out on a lane of a link: the block, and its payload through the lane's scrambler (R220). -/
abbrev Sys2Proof.Claims.sentOn (d n : Nat) (b : Blk) : Out → Prop
  | .block e m c w => e = d ∧ m = n ∧ c = b ∧ ∃ r, w = (scrWord r b.payload).2
  | _ => False

/-- R220-R222, R231-R233: every bit a lane sends is the payload bit with the bits sent 39 and 58 earlier; at every 16,384th slot each lane carries ALIGN with
the count of these slots; a TOKEN or ECHO takes a slot's first position and moves the blocks of frames on; a frame is SOF, data blocks and EOF with DBLK and the
check, and what waits for slots whose instants have passed has gone out. -/
def Sys2Proof.Claims.SlotsCarryBlocks : Prop :=
  (∀ r w i, i < 64 → let sent (k : Nat) : Bool := if k ≤ i then (scrWord r w).2.getLsbD (i - k) else r.getLsbD (k - 1 - i)
    (scrWord r w).2.getLsbD i = ((w.getLsbD i != sent 39) != sent 58)) ∧
  (∀ s d l, let k := linkAt s (linkIx d l)
    k.slot % 16384 = 0 → k.st ≠ .bitlock → ∀ i, i < (useLanes s d l).length →
    (sendSlot s d l).out.reverse.getD (s.out.length + i) (.msix 0) = .block d ((useLanes s d l).getD i 0)
      (alignBlk i (useLanes s d l).length (k.slot / 16384))
      (scrWord (laneAt s (8 * d + (useLanes s d l).getD i 0)).scr (alignBlk i (useLanes s d l).length (k.slot / 16384)).payload).2) ∧
  (∀ s d l b bs, let k := linkAt s (linkIx d l)
    k.slot % 16384 ≠ 0 → k.st.carries = true → k.singles = b :: bs → useLanes s d l ≠ [] →
    sentOn d ((useLanes s d l).getD 0 0) b ((sendSlot s d l).out.reverse.getD s.out.length (.msix 0)) ∧
    (linkAt (sendSlot s d l) (linkIx d l)).singles = bs ∧ (linkAt (sendSlot s d l) (linkIx d l)).slot = k.slot + 1 ∧
    ∀ i, 0 < i → i < (useLanes s d l).length → sentOn d ((useLanes s d l).getD i 0)
      ((takeBlks ((useLanes s d l).length - 1) k.frames).1.getD (i - 1) idleBlk) ((sendSlot s d l).out.reverse.getD (s.out.length + i) (.msix 0))) ∧
  (∀ s d l, let k := linkAt s (linkIx d l)
    k.slot % 16384 ≠ 0 → k.st.carries = true → k.singles = [] → ∀ i, i < (useLanes s d l).length → sentOn d ((useLanes s d l).getD i 0)
      ((takeBlks (useLanes s d l).length k.frames).1.getD i idleBlk) ((sendSlot s d l).out.reverse.getD (s.out.length + i) (.msix 0))) ∧
  (∀ f fs b bs, f.blks = b :: bs → takeBlks 1 (f :: fs) = ([b], if bs = [] ∧ f.closed = true then fs else { f with blks := bs, started := true } :: fs)) ∧
  takeBlks 1 [] = ([idleBlk], []) ∧
  (∀ s d l, (linkAt s (linkIx d l)).st.streams = true → 64 * s.tb + 65 < (linkAt s (linkIx d l)).origin + 66 * ((linkAt s (linkIx d l)).slot + 1) →
    pump s d l = s) ∧
  (∀ s d l, (linkAt s (linkIx d l)).st.streams = true → (linkAt s (linkIx d l)).origin ≤ 64 * s.tb →
    64 * (pump s d l).tb ≤ (linkAt (pump s d l) (linkIx d l)).origin + 66 * (linkAt (pump s d l) (linkIx d l)).slot ∧ (pump s d l).tb = s.tb) ∧
  (∀ poly op seq body, body.length < 2 ^ 16 → let bs := ctlBlks poly op seq body
    bs.length = 2 + (body.length + 7) / 8 ∧ frameGood poly
      { sof := natLE 8 (bs.getD 0 idleBlk).payload.toNat, eof := natLE 8 (bs.getD (bs.length - 1) idleBlk).payload.toNat,
        data := ((bs.drop 1).take (bs.length - 2)).flatMap (fun b => natLE 8 b.payload.toNat) } = true)

/-- The slots that are past have gone out on a link. -/
abbrev Sys2Proof.Claims.past (s : State) (d l : Nat) : State := pump s d l

/-- What waited on a link and stays when its stream is cut: a RENEG not yet begun. -/
abbrev Sys2Proof.Claims.renegs (k : Link) : List TxFrame := k.frames.filter (fun f => f.kind = .control ∧ f.h = 4 ∧ !f.started)

/-- A link in TRAIN: its stream cut, its fast tries over, CRC-32C until the next CONFIG_ACK, and each lane to be trained anew (R223, R235). -/
abbrev Sys2Proof.Claims.trains (s : State) (d l : Nat) (t : State) : Prop :=
  let u := past s d l
  t = { u with links := t.links, lanes := t.lanes, eyes := t.eyes } ∧ only (linkIx d l) linkAt u t ∧
  linkAt t (linkIx d l) = { linkAt u (linkIx d l) with st := .train, fastTries := 0, poly := 0, frames := renegs (linkAt u (linkIx d l)), singles := [] } ∧
  (∀ n ∈ useLanes s d l, let e := laneAt t (8 * d + n)
    e.blockLock = false ∧ e.bitLock = false ∧ e.rxReady = false ∧ e.farReady = false ∧ e.farFinal = 0 ∧ e.aligned = false) ∧
  eyeAt t d = if (eyeAt s d).busy ∧ (linkAt s (linkIx d l)).lanes.getLsbD (eyeAt s d).lane.toNat = true
    then { eyeAt s d with busy := false, abort := true } else eyeAt s d

/-- A fast exit or fast retrain of a link: RETRAIN, 32 TS_FAST blocks on each lane, and the stream anew from tick 36 (R226, R230). -/
abbrev Sys2Proof.Claims.goesFast (s : State) (d l tries : Nat) (t : State) : Prop :=
  let k := linkAt t (linkIx d l)
  t.tb = s.tb ∧ only (linkIx d l) linkAt s t ∧ k.st = .retrain ∧ k.fastTries = tries ∧ k.slot = 0 ∧ k.origin = 64 * (s.tb + 36) ∧ k.singles = [] ∧
  (∀ n ∈ useLanes s d l, (laneAt t (8 * d + n)).blockLock = false ∧ (laneAt t (8 * d + n)).aligned = false ∧
    ((t.out.filter (fun o => match o with | .block e m b _ => e = d ∧ m = n ∧ b = tsFastBlk | _ => false)).length =
      (s.out.filter (fun o => match o with | .block e m b _ => e = d ∧ m = n ∧ b = tsFastBlk | _ => false)).length + 32))

/-- A frame that fails its check, and each bad block inside it, counts in BAD_UP, and nothing else happens (R220, R249). -/
abbrev Sys2Proof.Claims.badFrame (s : State) (d l : Nat) (f : UpFrame) (t : State) : Prop :=
  t = { s with links := t.links } ∧ only (linkIx d l) linkAt s t ∧
  linkAt t (linkIx d l) = { linkAt s (linkIx d l) with badUp := (List.replicate (f.bad.length + 1) ()).foldl (fun n _ => satInc n) (linkAt s (linkIx d l)).badUp }

/-- The lanes of a link all stand aligned with so many valid headers in succession. -/
abbrev Sys2Proof.Claims.locked (s : State) (d l n : Nat) (valid : List Nat) : Prop :=
  ∀ i, i < (useLanes s d l).length → n ≤ valid.getD i 0 ∧ (laneAt s (8 * d + (useLanes s d l).getD i 0)).aligned = true

/-- A link that becomes ACTIVE sends each of its channels in service LINE_BASE (R241). -/
abbrev Sys2Proof.Claims.activates (s : State) (d l : Nat) (t : State) : Prop :=
  (linkAt t (linkIx d l)).st = .active ∧ (linkAt t (linkIx d l)).fastTries = 0 ∧ t.tb = s.tb ∧
  (∀ n ∈ useLanes s d l, (laneAt t (8 * d + n)).lossAt = none) ∧
  ∀ h ∈ liveHeads s d l, headLink? s h = some (d, l) → (headAt t h).baseOwed = true ∧ (headAt t h).baseFailed = false ∧ (headAt t h).baseTries = 1 ∧
    (headAt t h).baseNext = nextSent s h ∧ ∃ f ∈ (linkAt t (linkIx d l)).frames, f.kind = .control ∧ f.h = 7 ∧ f.closed = true ∧ ∃ seq,
      f.blks = ctlBlks (linkAt t (linkIx d l)).poly 0x07 seq (lineBaseBody h (nextSent s h))

/-- R223-R230, R235, R244, R247, R249: a link trains lane by lane, locks, exchanges capabilities, and becomes ACTIVE; each state's timeout, a loss of lock,
a retrain and an exit from idle lead where R223 says. -/
def Obligations.LinksComeUp : Prop :=
  (∀ s d l, let k := linkAt s (linkIx d l)
    arrives s d = true → l < 8 → jobCoversLink s d l = false → k.st ≠ .down → k.st ≠ .detect → k.st ≠ .retired →
    Runs (.tynLnkCtrlRetrain d l) s (trains s d l)) ∧
  (∀ s d l, jobCoversLink s d l = true ∨ (linkAt s (linkIx d l)).st = .down ∨ (linkAt s (linkIx d l)).st = .detect ∨
    (linkAt s (linkIx d l)).st = .retired → exec (.tynLnkCtrlRetrain d l) s = .next s) ∧
  (∀ s d l, let k := linkAt s (linkIx d l)
    let fast : Prop := s.tb ≤ k.idleSince + 250000000 ∧ (dieTemp s d - k.storedTemp).natAbs < 160 ∧ k.stored = true
    arrives s d = true → l < 8 → k.st = .idle →
    (fast → Runs (.tynLnkCtrlExit d l) s (goesFast s d l 1)) ∧ (¬fast → Runs (.tynLnkCtrlExit d l) s (trains s d l))) ∧
  (∀ s d l, (linkAt s (linkIx d l)).st ≠ .idle → exec (.tynLnkCtrlExit d l) s = .next s) ∧
  (∀ s d l f, let ws := workingLanes s d l
    (linkAt s (linkIx d l)).st = .detect →
    ((∀ n ∈ ws, f.getLsbD n = true) → ws ≠ [] → Runs (.receiverDetect d l f) s (fun t =>
      t = { s with links := t.links, lanes := t.lanes, eyes := t.eyes } ∧ only (linkIx d l) linkAt s t ∧ (linkAt t (linkIx d l)).st = .train ∧
      (linkAt t (linkIx d l)).lanes = BitVec.ofNat 8 (laneMask (if ws.length = 8 then ws else ws.take (laneCount ws.length))) ∧
      ∀ n ∈ ws, (laneAt t (8 * d + n)).detected = true)) ∧
    (ws = [] ∨ (∃ n ∈ ws, f.getLsbD n = false) → Runs (.receiverDetect d l f) s (fun t => t = { s with lanes := t.lanes } ∧
      ∀ n ∈ ws, laneAt t (8 * d + n) = { laneAt s (8 * d + n) with detected := f.getLsbD n }))) ∧
  (∀ s d l f, (linkAt s (linkIx d l)).st ≠ .detect → exec (.receiverDetect d l f) s = .next s) ∧
  (∀ s d n l ctl rx word, let a := laneAt s (8 * d + n)
    let u := setLane s (8 * d + n) (a.train ctl rx)
    laneLink? s d n = some l → (linkAt s (linkIx d l)).st = .train → n ∈ useLanes s d l → trainField? word = some ctl →
    Runs (.trainingWord d n word rx) s (fun t => t = { s with links := t.links, lanes := t.lanes, out := t.out, free := t.free } ∧
      only (linkIx d l) linkAt s t ∧ (∀ m, m ∉ useLanes s d l → laneAt t (8 * d + m) = laneAt s (8 * d + m)) ∧
      (trainDone u d l = false → (linkAt t (linkIx d l)).st = .train ∧ t.free = s.free ∧ only (8 * d + n) laneAt s t) ∧
      (trainDone u d l = true → (linkAt t (linkIx d l)).st = .bitlock ∧ (linkAt t (linkIx d l)).slot = 0 ∧
        (∃ v, v < 66 ∧ (linkAt t (linkIx d l)).origin = 64 * s.tb + v) ∧ ∀ m ∈ useLanes s d l, (laneAt t (8 * d + m)).retry = false) ∧
      let e := laneAt t (8 * d + n)
      (∃ w, t.out = .training d n w :: s.out ∧ w.extractLsb' 0 32 = 0x0000FFFF#32 ∧ ∃ c, trainField? w = some c ∧
        c.getLsbD 0 = rx.ready ∧ c.getLsbD 1 = (rx.ready && ctl.getLsbD 0) ∧ c.getLsbD 2 = e.limitHit ∧ c.extractLsb' 7 5 = e.txPost ∧
        c.extractLsb' 12 4 = e.txPre ∧ c.extractLsb' 19 5 = rx.request.extractLsb' 19 5 ∧ c.extractLsb' 29 3 = BitVec.ofNat 3 ((useLanes s d l).idxOf n)) ∧
      e.rxReady = rx.ready ∧ e.farReady = ctl.getLsbD 0 ∧ e.farPre = ctl.extractLsb' 12 4 ∧ e.farPost = ctl.extractLsb' 7 5 ∧
        e.ctle = rx.ctle ∧ e.dfe1 = rx.dfe1 ∧
        e.farFinal = (if rx.ready = true ∧ ctl.getLsbD 0 = true ∧ ctl.getLsbD 1 = true then a.farFinal + 1 else 0) ∧
        (ctl.getLsbD 19 = true → e.txPre = 2 ∧ e.txPost = 6) ∧
        (ctl.getLsbD 19 = false → ctl.extractLsb' 22 2 = 1 → e.txPre.toNat = min 15 (a.txPre.toNat + 1)) ∧
        (ctl.getLsbD 19 = false → ctl.extractLsb' 22 2 = 2 → e.txPre.toNat = a.txPre.toNat - 1) ∧
        (ctl.getLsbD 19 = false → ctl.extractLsb' 20 2 = 1 → a.txPost.toNat ≤ 24 → e.txPost.toNat = min 24 (a.txPost.toNat + 1)) ∧
        (ctl.getLsbD 19 = false → ctl.extractLsb' 20 2 = 2 → e.txPost.toNat = a.txPost.toNat - 1))) ∧
  (∀ s d n word rx, trainField? word = none ∨ laneLink? s d n = none ∨
      (∃ l, laneLink? s d n = some l ∧ ((linkAt s (linkIx d l)).st ≠ .train ∨ n ∉ useLanes s d l)) → exec (.trainingWord d n word rx) s = .next s) ∧
  (∀ ctl body, trainField? (trainWord ctl body) = some ctl) ∧
  (∀ s d l, (linkAt s (linkIx d l)).st = .bitlock → Runs (.bitlockDone d l) s (fun t => only (linkIx d l) linkAt s t ∧ t.tb = s.tb ∧
    (linkAt t (linkIx d l)).st = .blocklock ∧ (linkAt t (linkIx d l)).slot = 0 ∧
    (linkAt t (linkIx d l)).origin = (linkAt (past s d l) (linkIx d l)).origin + 66 * (linkAt (past s d l) (linkIx d l)).slot ∧
    ∀ n ∈ useLanes s d l, (laneAt t (8 * d + n)).bitLock = true ∧ (laneAt t (8 * d + n)).aligned = false)) ∧
  (∀ s d l v, let st := (linkAt s (linkIx d l)).st
    (st ≠ .bitlock → exec (.bitlockDone d l) s = .next s) ∧ (st ≠ .blocklock → exec (.blocklockDone d l v) s = .next s) ∧
    (st ≠ .retrain → exec (.fastExitDone d l v) s = .next s ∧ exec (.fastExitTimeout d l) s = .next s)) ∧
  (∀ s d l v, let k := linkAt s (linkIx d l)
    k.st = .blocklock →
    (locked s d l 1088 v → Runs (.blocklockDone d l v) s (fun t => only (linkIx d l) linkAt s t ∧ (linkAt t (linkIx d l)).st = .caps ∧
      (linkAt t (linkIx d l)).poly = 0 ∧ (linkAt t (linkIx d l)).capsTries = 0 ∧ (linkAt t (linkIx d l)).configSent = false ∧
      (∀ n ∈ useLanes s d l, (laneAt t (8 * d + n)).blockLock = true) ∧
      ∀ h ∈ liveHeads s d l, (headAt t h).echoing = true ∧ (headAt t h).eseq = (headAt s h).eseq + 1 ∧ (headAt t h).round = none ∧
        (headLink? s h = some (d, l) → echoBlk h ((headAt s h).eseq + 1) ∈ (linkAt t (linkIx d l)).singles))) ∧
    (¬locked s d l 1088 v → Runs (.blocklockDone d l v) s (fun t => t = { s with lanes := t.lanes } ∧
      ∀ i, i < (useLanes s d l).length → let n := 8 * d + (useLanes s d l).getD i 0
        laneAt t n = if 64 ≤ v.getD i 0 then { laneAt s n with bitLock := true, blockLock := true } else laneAt s n))) ∧
  (∀ s d l ns, let k := linkAt s (linkIx d l)
    let late : List Nat := (useLanes s d l).filter (fun n => ns.getLsbD n)
    (k.st = .train → late ≠ [] → (∀ n ∈ late, (laneAt s (8 * d + n)).retry = false) → Runs (.linkStateTimeout d l ns) s (fun t =>
      t = { s with links := t.links, lanes := t.lanes } ∧ only (linkIx d l) linkAt s t ∧ linkAt t (linkIx d l) = { k with st := .detect } ∧
      ∀ n ∈ late, laneAt t (8 * d + n) = { laneAt s (8 * d + n) with retry := true })) ∧
    (∀ n, k.st = .train → late = [n] → (laneAt s (8 * d + n)).retry = true → Runs (.linkStateTimeout d l ns) s (fun t =>
      (laneAt t (8 * d + n)).retired = true)) ∧
    (k.st = .train → late = [] → exec (.linkStateTimeout d l ns) s = .next s) ∧
    ((k.st = .bitlock ∨ k.st = .blocklock) → Runs (.linkStateTimeout d l ns) s (trains s d l)) ∧
    (k.st = .caps → k.capsTries < 2 → Runs (.linkStateTimeout d l ns) s (fun t => t = { s with links := t.links } ∧
      only (linkIx d l) linkAt s t ∧
      linkAt t (linkIx d l) = { k with capsTries := k.capsTries + 1, configTries := 0, configSent := false })) ∧
    (k.st = .caps → 2 ≤ k.capsTries → Runs (.linkStateTimeout d l ns) s (fun t => t = { s with links := t.links, evqs := t.evqs } ∧
      (linkAt t (linkIx d l)).st = .capsFail ∧ (linkAt t (linkIx d l)).cause = 9)) ∧
    (k.st ≠ .train → k.st ≠ .bitlock → k.st ≠ .blocklock → k.st ≠ .caps → exec (.linkStateTimeout d l ns) s = .next s)) ∧
  (∀ s d l f, let k := linkAt s (linkIx d l)
    linkUp s d l = true →
    (isControl s d l 5 f = true → k.reneg = true → byteAt (upBody f) 0 = 0 → Runs (.renegAckReceive d l f) s (fun t =>
      only (linkIx d l) linkAt s t ∧ (linkAt t (linkIx d l)).st = .blocklock ∧ (linkAt t (linkIx d l)).reneg = false ∧ (linkAt t (linkIx d l)).slot = 0)) ∧
    (frameGood k.poly f = true → ¬(upType f = 3 ∧ upOp f = 5 ∧ k.reneg = true ∧ byteAt (upBody f) 0 = 0) →
      exec (.renegAckReceive d l f) s = .next s) ∧
    (frameGood k.poly f = false → Runs (.renegAckReceive d l f) s (badFrame s d l f))) ∧
  (∀ s d l f, linkUp s d l = false → exec (.renegAckReceive d l f) s = .next s ∧ exec (.capsReceive d l f) s = .next s ∧
    exec (.noticeReceive d l f) s = .next s ∧ exec (.lineBaseAckReceive d l f) s = .next s ∧ exec (.configAckReceive d l f) s = .next s) ∧
  (∀ s d l f, let k := linkAt s (linkIx d l)
    k.st = .caps →
    (frameGood k.poly f = false → Runs (.capsReceive d l f) s (fun t => t = { s with links := t.links, evqs := t.evqs } ∧ only (linkIx d l) linkAt s t ∧
      (linkAt t (linkIx d l)).st = .capsFail ∧ (linkAt t (linkIx d l)).cause = 1 ∧
      (f.bad = [] → (linkAt t (linkIx d l)).badUp = satInc k.badUp))) ∧
    (∀ c, isControl s d l 1 f = true → capsCause? s d l (upBody f) = some c → Runs (.capsReceive d l f) s (fun t =>
      t = { s with links := t.links, evqs := t.evqs } ∧ only (linkIx d l) linkAt s t ∧ (linkAt t (linkIx d l)).st = .capsFail ∧
      (linkAt t (linkIx d l)).cause = BitVec.ofNat 4 c)) ∧
    (isControl s d l 1 f = true → capsCause? s d l (upBody f) = none → (∃ h ∈ liveHeads s d l, (headAt s h).echoing = true) →
      Runs (.capsReceive d l f) s (fun t => t = { s with links := t.links, heads := t.heads } ∧
      linkAt t (linkIx d l) = { k with caps := upBody f } ∧
      ∀ h ∈ linkHeads s d l, (headAt t h).turn = leAt (upBody f) 0x0A 2 ∧ (headAt t h).fireLat = leAt (upBody f) 8 2 ∧
        (headAt t h).boardId = BitVec.ofNat 32 (leAt (upBody f) 4 4))) ∧
    (∀ p, isControl s d l 1 f = true → capsCause? s d l (upBody f) = none → upBody f ≠ [] → k.configSent = false → linkRec? s d l = some p →
      (∀ h ∈ liveHeads s d l, (headAt s h).echoing = false) →
      (∀ h ∈ liveHeads s d l, ∀ r, (headAt s h).round = some r → (r - leAt (upBody f) 0x0A 2) / 2 ≤ 2560) →
      (∀ h ∈ liveHeads s d l, (headAt s h).round = none → (headAt s h).lat ≤ 2560) →
      Runs (.capsReceive d l f) s (fun t => (linkAt t (linkIx d l)).st = .caps ∧ (linkAt t (linkIx d l)).configSent = true ∧
        (∀ r, k.round = some r → (linkAt t (linkIx d l)).lat = BitVec.ofNat 14 ((r - leAt (upBody f) 0x0A 2) / 2)) ∧
        (∀ h ∈ liveHeads s d l, ∀ r, (headAt s h).round = some r → (headAt t h).lat = (r - leAt (upBody f) 0x0A 2) / 2) ∧
        ∃ q ∈ (linkAt t (linkIx d l)).frames, q.kind = .control ∧ q.h = 2 ∧
          q.blks = ctlBlks k.poly 2 (linkAt (past s d l) (linkIx d l)).cseq (configBody s d l p))) ∧
    (∀ h r, isControl s d l 1 f = true → capsCause? s d l (upBody f) = none → upBody f ≠ [] → k.configSent = false →
      (∀ h ∈ liveHeads s d l, (headAt s h).echoing = false) → h ∈ liveHeads s d l → (headAt s h).round = some r → 2560 < (r - leAt (upBody f) 0x0A 2) / 2 →
      Runs (.capsReceive d l f) s (fun t => (linkAt t (linkIx d l)).st = .capsFail ∧ (linkAt t (linkIx d l)).cause = 8)) ∧
    (frameGood k.poly f = true → (upType f ≠ 3 ∨ upOp f ≠ 1) → exec (.capsReceive d l f) s = .next s)) ∧
  (∀ s d l f, let k := linkAt s (linkIx d l)
    linkUp s d l = true → k.st ≠ .caps → (frameGood k.poly f = true → exec (.capsReceive d l f) s = .next s) ∧
      (frameGood k.poly f = false → Runs (.capsReceive d l f) s (badFrame s d l f))) ∧
  (∀ s d l p, let k := linkAt s (linkIx d l)
    linkRec? s d l = some p → k.st = .caps → k.configSent = true → k.configTries < 2 → Runs (.configRetry d l) s (fun t =>
      let u := past s d l
      let f : TxFrame := { kind := .control, h := 2, blks := ctlBlks k.poly 2 k.cseq (configBody s d l p), closed := true }
      t = { u with links := t.links } ∧ only (linkIx d l) linkAt u t ∧
      linkAt t (linkIx d l) = { linkAt u (linkIx d l) with configTries := k.configTries + 1, cseq := k.cseq + 1, frames := placeFrame f (linkAt u (linkIx d l)).frames })) ∧
  (∀ s d l, let k := linkAt s (linkIx d l)
    linkRec? s d l = none ∨ k.st ≠ .caps ∨ k.configSent = false ∨ 2 ≤ k.configTries → exec (.configRetry d l) s = .next s) ∧
  (∀ s d l p f, let k := linkAt s (linkIx d l)
    linkRec? s d l = some p → linkUp s d l = true →
    (k.st = .caps → k.configSent = true → isControl s d l 3 f = true → byteAt (upBody f) 0 = 0 → (useLanes s d l).Nodup →
      Runs (.configAckReceive d l f) s (fun t => activates s d l t ∧
        (linkAt t (linkIx d l)).poly = recPoly p ∧ (linkAt t (linkIx d l)).stored = true ∧ (linkAt t (linkIx d l)).storedTemp = dieTemp s d ∧
        (linkAt t (linkIx d l)).cause = 0 ∧ ∀ n ∈ useLanes s d l, let a := laneAt s (8 * d + n)
          (calResult t 4 (8 * d + n)).take 7 = [BitVec.ofNat 8 a.txPre.toNat, BitVec.ofNat 8 a.txPost.toNat, BitVec.ofNat 8 a.ctle.toNat, a.dfe1,
            BitVec.ofNat 8 a.farPre.toNat, BitVec.ofNat 8 a.farPost.toNat, BitVec.ofNat 8 a.skew.toNat])) ∧
    (k.st = .caps → k.configSent = true → isControl s d l 3 f = true → byteAt (upBody f) 0 ≠ 0 → Runs (.configAckReceive d l f) s (fun t =>
      t = { s with links := t.links, evqs := t.evqs } ∧ (linkAt t (linkIx d l)).st = .capsFail ∧ (linkAt t (linkIx d l)).cause = 9)) ∧
    (frameGood k.poly f = true → (k.st ≠ .caps ∨ k.configSent = false ∨ upType f ≠ 3 ∨ upOp f ≠ 3) → exec (.configAckReceive d l f) s = .next s) ∧
    (frameGood k.poly f = false → Runs (.configAckReceive d l f) s (badFrame s d l f))) ∧
  (∀ s d l f, linkRec? s d l = none → exec (.configAckReceive d l f) s = .next s) ∧
  (∀ s d l gs e, let k := linkAt s (linkIx d l)
    let lost : List Nat := lostLanes s d l gs
    k.st = .active → (lost ≠ [] ∨ e = true) → (∀ n ∈ lost, faultRepeats s (.lane d n) s.tb ((integ s).laneWin * 250000000) = false) →
    Runs (.lockLoss d l gs e) s (fun t => goesFast s d l 1 t ∧
      (∀ n ∈ useLanes s d l, (t.out.filter (fun o => match o with | .block f m b _ => f = d ∧ m = n ∧ b = eidleBlk | _ => false)).length =
        (s.out.filter (fun o => match o with | .block f m b _ => f = d ∧ m = n ∧ b = eidleBlk | _ => false)).length + 8) ∧
      (∀ n ∈ lost, (laneAt t (8 * d + n)).lockLoss = satInc (laneAt s (8 * d + n)).lockLoss ∧ (laneAt t (8 * d + n)).lossAt ≠ none) ∧
      ∀ n ∈ useLanes s d l, n ∉ lost → (laneAt t (8 * d + n)).lockLoss = (laneAt s (8 * d + n)).lockLoss ∧
        (laneAt t (8 * d + n)).lossAt = (laneAt s (8 * d + n)).lossAt)) ∧
  (∀ s d l n g, (linkAt s (linkIx d l)).st = .active → n ∈ useLanes s d l → g.lane = n → g.unlocked = true →
    faultRepeats s (.lane d n) s.tb ((integ s).laneWin * 250000000) = true → Runs (.lockLoss d l [g] false) s (fun t =>
      (laneAt t (8 * d + n)).retired = true)) ∧
  (∀ s d l gs g ts, gs = [g] → g.invalid = ts → g.unlocked = false → g.lane ∈ useLanes s d l → (laneAt s (8 * d + g.lane)).hdrAt = [] →
    (g.lane ∈ lostLanes s d l gs ↔ ∃ i, i + 15 < ts.length ∧ ts.getD (i + 15) 0 - ts.getD i 0 ≤ 31250)) ∧
  (∀ s d l gs, let k := linkAt s (linkIx d l)
    linkUp s d l = true ∨ k.st = .retrain → k.st ≠ .active ∨ lostLanes s d l gs = [] → Runs (.lockLoss d l gs false) s (fun t =>
      t = { s with lanes := t.lanes } ∧ ∀ g, gs = [g] → g.lane ∈ useLanes s d l →
        (laneAt t (8 * d + g.lane)).hdrErr = satAdd (laneAt s (8 * d + g.lane)).hdrErr g.invalid.length)) ∧
  (∀ s d l gs e, linkUp s d l = false → (linkAt s (linkIx d l)).st ≠ .retrain → exec (.lockLoss d l gs e) s = .next s) ∧
  (∀ s d l v, (linkAt s (linkIx d l)).st = .retrain →
    (locked s d l 16 v → Runs (.fastExitDone d l v) s (fun t => activates s d l t ∧ ∀ n ∈ useLanes s d l, (laneAt t (8 * d + n)).blockLock = true)) ∧
    (¬locked s d l 16 v → Runs (.fastExitDone d l v) s (fun t => t = { s with lanes := t.lanes } ∧
      ∀ i, i < (useLanes s d l).length → let n := 8 * d + (useLanes s d l).getD i 0
        laneAt t n = if 16 ≤ v.getD i 0 then { laneAt s n with bitLock := true, blockLock := true } else laneAt s n))) ∧
  (∀ s d l, let k := linkAt s (linkIx d l)
    k.st = .retrain → (k.fastTries < 3 → Runs (.fastExitTimeout d l) s (goesFast s d l (k.fastTries + 1))) ∧
      (3 ≤ k.fastTries → Runs (.fastExitTimeout d l) s (trains s d l)))

/-- A block that fails its check counts in BAD_UP, and nothing else happens (R220). -/
abbrev Sys2Proof.Claims.badBlock (s : State) (d l : Nat) (t : State) : Prop :=
  t = { s with links := t.links } ∧ only (linkIx d l) linkAt s t ∧
  linkAt t (linkIx d l) = { linkAt s (linkIx d l) with badUp := satInc (linkAt s (linkIx d l)).badUp }

/-- R220-R222, R231-R233, R239, R241, R244-R247: blocks and frames on the links: what the slots carry; ALIGN deskews a lane, an ACK delivers a segment, a NAK or
a timeout queues at most four replays, LINE_BASE is acknowledged or tried again, telemetry sets its channel's state, a NOTICE is logged, an echo gives LAT; what
fails its check is counted as BAD_UP. -/
def Obligations.BoardsAnswer : Prop :=
  SlotsCarryBlocks ∧
  (∀ s d n l blk k, laneLink? s d n = some l → n ∈ useLanes s d l → (linkUp s d l = true ∨ (linkAt s (linkIx d l)).st = .retrain) →
    (ctlBad blk = false → byteAt blk 0 = 0x55 → Runs (.alignReceive d n blk k) s (fun t => t = { s with lanes := t.lanes } ∧ only (8 * d + n) laneAt s t ∧
      laneAt t (8 * d + n) = { laneAt s (8 * d + n) with skew := k, aligned := true })) ∧
    (ctlBad blk = true → Runs (.alignReceive d n blk k) s (badBlock s d l)) ∧
    (ctlBad blk = false → byteAt blk 0 ≠ 0x55 → exec (.alignReceive d n blk k) s = .next s)) ∧
  (∀ s d n blk k, laneLink? s d n = none ∨ (∃ l, laneLink? s d n = some l ∧ (n ∉ useLanes s d l ∨
      (linkUp s d l = false ∧ (linkAt s (linkIx d l)).st ≠ .retrain))) → exec (.alignReceive d n blk k) s = .next s) ∧
  (∀ blk, ctlBad blk = true ↔ byteAt blk 0 ∉ [0x1E, 0x2D, 0x33, 0x4B, 0x55, 0x78, 0x87, 0xB4, 0xD2, 0xE1] ∨ blk.length ≠ 8 ∨
    (byteAt blk 0 ∈ [0x2D, 0x55, 0xB4, 0xD2, 0xE1] ∧ crc8 (blk.take 7) ≠ byteAt blk 7)) ∧
  (∀ s d l blk hl, let h := leAt blk 1 1
    let seg := leAt blk 2 1
    (linkAt s (linkIx d l)).st = .active → ctlBad blk = false → byteAt blk 0 = 0xE1 → h ∈ linkHeads s d l →
    (headAt s h).lines.find? (fun q => q.line == leAt blk 3 4) = some hl → seg ∈ hl.sent → seg ∉ hl.acked → hl.committed = none →
    Runs (.ackReceive d l blk) s (fun t => t = { s with heads := t.heads, links := t.links } ∧ only h headAt s t ∧ only (linkIx d l) linkAt s t ∧
      linkAt t (linkIx d l) = { linkAt s (linkIx d l) with frames := (linkAt s (linkIx d l)).frames.filter (fun f => !replayOf h (leAt blk 3 4) seg f) } ∧
      (headAt t h).lines.find? (fun q => q.line == leAt blk 3 4) = some { hl with acked := hl.acked ++ [seg] })) ∧
  (∀ s d l blk, let k := linkAt s (linkIx d l)
    let h := leAt blk 1 1
    (k.st = .active → ctlBad blk = true → Runs (.ackReceive d l blk) s (badBlock s d l) ∧ Runs (.nakReceive d l blk) s (badBlock s d l)) ∧
    (∀ r, linkUp s d l = true → ctlBad blk = true → Runs (.echoReplyReceive d l blk r) s (badBlock s d l)) ∧
    (k.st ≠ .active → exec (.ackReceive d l blk) s = .next s ∧ exec (.nakReceive d l blk) s = .next s) ∧
    (∀ r, linkUp s d l = false → exec (.echoReplyReceive d l blk r) s = .next s) ∧
    (ctlBad blk = false → byteAt blk 0 ≠ 0xE1 ∨ h ∉ linkHeads s d l ∨
      (∀ q ∈ (headAt s h).lines, q.line = leAt blk 3 4 → leAt blk 2 1 ∉ q.sent ∨ leAt blk 2 1 ∈ q.acked ∨ q.committed ≠ none) →
      exec (.ackReceive d l blk) s = .next s) ∧
    (ctlBad blk = false → byteAt blk 0 ≠ 0xB4 → exec (.nakReceive d l blk) s = .next s) ∧
    (k.st = .active → ctlBad blk = false → byteAt blk 0 = 0xB4 → h ∉ linkHeads s d l ∨ (headAt s h).lines.find? (fun q => q.line == leAt blk 3 4) = none →
      Runs (.nakReceive d l blk) s (fun t => t = { s with links := t.links } ∧ only (linkIx d l) linkAt s t ∧
        linkAt t (linkIx d l) = { k with naks := satInc k.naks }))) ∧
  (∀ s d l blk hl, let h := leAt blk 1 1
    let seg := leAt blk 2 1
    (linkAt s (linkIx d l)).st = .active → ctlBad blk = false → byteAt blk 0 = 0xB4 → h ∈ linkHeads s d l →
    (headAt s h).lines.find? (fun q => q.line == leAt blk 3 4) = some hl → seg ∈ hl.sent → seg ∉ hl.acked → hl.committed = none →
    replayWaits s d l h (leAt blk 3 4) seg = false →
    (sget 0 hl.replays seg < 4 → Runs (.nakReceive d l blk) s (fun t =>
      (linkAt t (linkIx d l)).naks = satInc (linkAt s (linkIx d l)).naks ∧ only h headAt s t ∧
      (∃ q, (headAt t h).lines.find? (fun q => q.line == leAt blk 3 4) = some q ∧ sget 0 q.replays seg = sget 0 hl.replays seg + 1) ∧
      ∃ f ∈ (linkAt t (linkIx d l)).frames, replayOf h (leAt blk 3 4) seg f = true ∧
        f.blks = lineBlks (linkAt s (linkIx d l)).poly h seg (leAt blk 3 4) (segData hl seg))) ∧
    (4 ≤ sget 0 hl.replays seg → isFenced s (.head h) = false → (headAt s h).fault = none → Runs (.nakReceive d l blk) s (fun t =>
      t = { s with heads := t.heads, links := t.links } ∧ (headAt t h).fault = some (leAt blk 3 4 + 1)))) ∧
  (∀ s h line seg d l hl, headLink? s h = some (d, l) → (headAt s h).lines.find? (fun q => q.line == line) = some hl → seg ∈ hl.sent →
    seg ∉ hl.acked → hl.committed = none → replayWaits s d l h line seg = false →
    (sget 0 hl.replays seg < 4 → Runs (.replayTimeout h line seg) s (fun t => only h headAt s t ∧
      (linkAt t (linkIx d l)).timeouts = satInc (linkAt s (linkIx d l)).timeouts ∧
      (∃ q, (headAt t h).lines.find? (fun q => q.line == line) = some q ∧ sget 0 q.replays seg = sget 0 hl.replays seg + 1) ∧
      ∃ f ∈ (linkAt t (linkIx d l)).frames, replayOf h line seg f = true ∧
        f.blks = lineBlks (linkAt s (linkIx d l)).poly h seg line (segData hl seg))) ∧
    (4 ≤ sget 0 hl.replays seg → isFenced s (.head h) = false → (headAt s h).fault = none → Runs (.replayTimeout h line seg) s (fun t =>
      t = { s with heads := t.heads, links := t.links } ∧ only h headAt s t ∧ (headAt t h).fault = some (line + 1)))) ∧
  (∀ s h line seg, headLink? s h = none ∨ (headAt s h).lines.find? (fun q => q.line == line) = none ∨
      (∃ hl, (headAt s h).lines.find? (fun q => q.line == line) = some hl ∧ (seg ∉ hl.sent ∨ seg ∈ hl.acked ∨ hl.committed ≠ none)) →
    exec (.replayTimeout h line seg) s = .next s) ∧
  (∀ s d l f, let k := linkAt s (linkIx d l)
    let h := leAt (upBody f) 0 1
    let answers : Prop := h ∈ linkHeads s d l ∧ (headAt s h).baseOwed = true ∧ upBody f = lineBaseBody h (headAt s h).baseNext
    linkUp s d l = true →
    (isControl s d l 8 f = true → answers → Runs (.lineBaseAckReceive d l f) s (fun t => (headAt t h).baseOwed = false ∧ (headAt t h).baseTries = 0 ∧
      ∀ e m hl, headLink? s h = some (e, m) → (linkAt s (linkIx e m)).st = .active → isFenced s (.head h) = false → (headAt s h).baseFailed = false →
        (headAt s h).lines = [hl] → (headAt s h).baseNext ≤ hl.line → segReady hl 0 = true → 0 < hl.total → hl.sent = [] →
        (∀ q ∈ (linkAt s (linkIx e m)).frames, q.kind = .control) →
        ∃ q ∈ (linkAt t (linkIx e m)).frames, q.kind = .line ∧ q.h = h ∧ q.line = hl.line ∧ q.seg = 0 ∧
          q.blks = lineBlks (linkAt s (linkIx e m)).poly h 0 hl.line (segData hl 0))) ∧
    (frameGood k.poly f = true → ¬(upType f = 3 ∧ upOp f = 8 ∧ answers) → exec (.lineBaseAckReceive d l f) s = .next s) ∧
    (frameGood k.poly f = false → Runs (.lineBaseAckReceive d l f) s (badFrame s d l f))) ∧
  (∀ s h d l, headLink? s h = some (d, l) → (headAt s h).baseOwed = true → (linkAt s (linkIx d l)).st = .active →
    ((headAt s h).baseTries < 4 → Runs (.lineBaseTimeout h) s (fun t => only h headAt s t ∧ only (linkIx d l) linkAt s t ∧
      headAt t h = { headAt s h with baseTries := (headAt s h).baseTries + 1, baseFailed := false } ∧
      ∃ f ∈ (linkAt t (linkIx d l)).frames, f.kind = .control ∧ f.h = 7 ∧
        f.blks = ctlBlks (linkAt s (linkIx d l)).poly 7 (linkAt s (linkIx d l)).cseq (lineBaseBody h (headAt s h).baseNext))) ∧
    (4 ≤ (headAt s h).baseTries → Runs (.lineBaseTimeout h) s (fun t => t = { s with heads := t.heads } ∧ only h headAt s t ∧
      headAt t h = { headAt s h with baseOwed := false, baseFailed := true }))) ∧
  (∀ s h, (headAt s h).baseOwed = false ∨ headActive s h = false → exec (.lineBaseTimeout h) s = .next s) ∧
  (∀ s d l f, let h := upOp f
    let b := upBody f
    (linkAt s (linkIx d l)).st = .active → frameGood (linkAt s (linkIx d l)).poly f = true → upType f = 2 → h ∈ linkHeads s d l →
    let ev := leAt b 1 1
    let missed := BitVec.ofNat 16 (leAt b 6 2)
    let late := BitVec.ofNat 16 (leAt b 0xC 2)
    Runs (.telemetryReceive d l f) s (fun t => (headAt t h).silent = false ∧ (headAt t h).tempC = BitVec.ofNat 16 (leAt b 2 2) ∧
      (headAt t h).copiesSince = [] ∧ (headAt t h).missedCnt = missed ∧ (headAt t h).lateCnt = late ∧
      (leAt b 0 1 ≤ 2 → (headAt t h).temp = BitVec.ofNat 2 (leAt b 0 1)) ∧ (2 < leAt b 0 1 → (headAt t h).temp = (headAt s h).temp) ∧
      (leAt b 0 1 = 2 → ∀ q ∈ (headAt t h).lines, q.committed = none → q.spit = false → q.stop = 10) ∧
      ((ev = 1 ∨ ev = 2) → (linkAt t (linkIx d l)).missed = satInc (linkAt s (linkIx d l)).missed ∧
        (isFenced s (.head h) = false → (headAt t h).fault ≠ none)) ∧
      (ev ≠ 1 → ev ≠ 2 → linkAt t (linkIx d l) = linkAt s (linkIx d l) ∧ (headAt t h).fault = (headAt s h).fault) ∧
      (∀ j i, s.job = some j → i ∈ (headAt s h).copiesSince → j.reported ≤ i →
        ((if ev = 1 then 1 else 0) < (missed - (headAt s h).missedCnt).toNat ∨ (if ev = 2 then 1 else 0) < (late - (headAt s h).lateCnt).toNat) →
        ∃ j', t.job = some j' ∧ (sget {} j'.defects i).flag = true ∧ (sget {} j'.defects i).causes.getLsbD 12 = true) ∧
      ((evqAt s (3 * d + 1)).items.length < 512 → (evqAt t (3 * d + 1)).items = (evqAt s (3 * d + 1)).items ++ [.bytes (natLE 2 h ++ b)]))) ∧
  (∀ s d l f, let k := linkAt s (linkIx d l)
    (k.st = .active → frameGood k.poly f = false → Runs (.telemetryReceive d l f) s (badFrame s d l f)) ∧
    (k.st ≠ .active ∨ (frameGood k.poly f = true ∧ (upType f ≠ 2 ∨ upOp f ∉ linkHeads s d l)) → exec (.telemetryReceive d l f) s = .next s)) ∧
  (∀ s h, (headActive s h = true → Runs (.telemetrySilence h) s (fun t => t = { s with heads := t.heads } ∧ only h headAt s t ∧
      headAt t h = { headAt s h with silent := true })) ∧
    (headActive s h = false → exec (.telemetrySilence h) s = .next s)) ∧
  (∀ s d l f, let k := linkAt s (linkIx d l)
    linkUp s d l = true →
    (isControl s d l 6 f = true → (evqAt s (3 * d)).items.length < 512 → (upBody f).length = 16 → Runs (.noticeReceive d l f) s (fun t =>
      t = { s with evqs := t.evqs } ∧ only (3 * d) evqAt s t ∧
      (evqAt t (3 * d)).items = (evqAt s (3 * d)).items ++ [.entry ⟨0x41, d, 0, 4, BitVec.ofNat 64 s.tb, upBody f⟩])) ∧
    (frameGood k.poly f = true → (upType f ≠ 3 ∨ upOp f ≠ 6) → exec (.noticeReceive d l f) s = .next s) ∧
    (frameGood k.poly f = false → Runs (.noticeReceive d l f) s (badFrame s d l f))) ∧
  (∀ s d l blk r, let h := leAt blk 1 1
    let mine : Prop := h ∈ linkHeads s d l ∧ (headAt s h).echoing = true ∧ leAt blk 2 2 = (headAt s h).eseq.toNat ∧ r ≤ 16384
    linkUp s d l = true → ctlBad blk = false →
    (byteAt blk 0 = 0x2D → mine → (linkAt s (linkIx d l)).st ≠ .caps → Runs (.echoReplyReceive d l blk r) s (fun t =>
      t = { s with heads := t.heads, links := t.links } ∧ only h headAt s t ∧ only (linkIx d l) linkAt s t ∧
      headAt t h = { headAt s h with echoing := false, round := some r } ∧
      linkAt t (linkIx d l) = { linkAt s (linkIx d l) with lat := BitVec.ofNat 14 ((r - (headAt s h).turn) / 2) })) ∧
    (byteAt blk 0 = 0x2D → mine → (linkAt s (linkIx d l)).st = .caps → (linkAt s (linkIx d l)).caps = [] → Runs (.echoReplyReceive d l blk r) s (fun t =>
      t = { s with heads := t.heads, links := t.links } ∧ only h headAt s t ∧ headAt t h = { headAt s h with echoing := false, round := some r } ∧
      linkAt t (linkIx d l) = { linkAt s (linkIx d l) with round := some r })) ∧
    (byteAt blk 0 ≠ 0x2D ∨ ¬mine → exec (.echoReplyReceive d l blk r) s = .next s)) ∧
  (∀ s h, ((headAt s h).echoing = true → (∀ d l, headLink? s h = some (d, l) → (linkAt s (linkIx d l)).st ≠ .caps) →
      Runs (.echoTimeout h) s (fun t => t = { s with heads := t.heads } ∧ only h headAt s t ∧ headAt t h = { headAt s h with echoing := false })) ∧
    ((headAt s h).echoing = false → exec (.echoTimeout h) s = .next s)) ∧
  (∀ s h d l p, (headAt s h).echoing = true → headLink? s h = some (d, l) → (linkAt s (linkIx d l)).st = .caps → linkRec? s d l = some p →
    (linkAt s (linkIx d l)).caps ≠ [] → (linkAt s (linkIx d l)).configSent = false → (∀ q ∈ liveHeads s d l, q = h) → (headAt s h).round = none →
    (headAt s h).lat ≤ 2560 → Runs (.echoTimeout h) s (fun t => (headAt t h).echoing = false ∧ (linkAt t (linkIx d l)).configSent = true ∧
      (headAt t h).lat = (headAt s h).lat))

/-! ### DMA (R325-R347) -/

/-- A channel with the shadow fields that the die manager writes: ignored with IGN while ARMED (R328). -/
abbrev Sys2Proof.Claims.loaded (q : DmaCh) : Option DmaSet → DmaCh
  | none => q
  | some f =>
    if q.armed then { q with ign := true }
    else { q with shSrc := f.src, shDst := f.dst, shCount := f.count, shWait := f.wait, shEvt := f.evt, shEvtLine := f.evtLine }

/-- What of a DMA channel stands for the transfer of its shadow registers. -/
abbrev Sys2Proof.Claims.shadowed (q : DmaCh) : DmaCh :=
  { q with armed := false, chain := false, src := q.shSrc, dst := q.shDst, count := q.shCount, evt := q.shEvt, evtLine := q.shEvtLine }

/-- The active set's transfer at its start. -/
abbrev Sys2Proof.Claims.armedRun (q : DmaCh) (wait : Bool) : DmaCh :=
  { q with st := if wait then .wait else .run, remain := q.count, moved := 0, running := 0xFFFFFFFF, inflight := [] }

/-- A transfer ended BAD with its cause and failing address. -/
abbrev Sys2Proof.Claims.endedBad (q : DmaCh) (cause : BitVec 4) (addr : BitVec 64) : DmaCh :=
  { q with st := .idle, cause := cause, err := addr, badCnt := satInc q.badCnt, inflight := [], remain := 0 }

/-- Whether a command of a DMA channel has no channel to act on. -/
abbrev Sys2Proof.Claims.dmaCommands (d c : Nat) (f : Option DmaSet) (v : BitVec 64) (e : DmaErr) (data : List Byte) : List Instr :=
  [.dmaArm d c f, .dmaDoorbell d c, .dmaDescWrite d c v, .dmaAbort d c, .dmaCntClr d c, .dmaDescFetchComplete d c e, .dmaBurstComplete d c e data,
   .dmaReadbackReturn d c e]

/-- R325, R328, R329, R331, R332, R339-R341, R346, R347: arming an idle channel with allowed fields starts the shadow's transfer, waiting for its line when
WAIT is set; fields not allowed end it BAD at once; a busy channel keeps the shadow armed, and one that runs a chain ignores ARM and sets IGN. A
doorbell fetches the first descriptor, or the tail again; during a chain it is kept, and while the shadow is armed or a register-set transfer runs it
is ignored with IGN. A first descriptor is held with no tail, on an idle channel only; an abort leaves the channel idle; counts and interrupt
bits clear as written, and the message goes again while one is left. A fenced channel, one that a Dialect does not allot and one that does not exist stay as they are. -/
def Obligations.DmaRegistersAct : Prop :=
  (∀ s d c load, dmaOk s d c = true → let i := dmaIx d c; let q := loaded (dmaAt s i) load
    q.st = .idle → q.fetching = false → dmaServes s q = true → fieldsOk (shadowed q) = true →
    Runs (.dmaArm d c load) s (fun t => t = { s with dma := t.dma } ∧ only i dmaAt s t ∧ dmaAt t i = armedRun (shadowed q) q.shWait)) ∧
  (∀ s d c load, dmaOk s d c = true → let i := dmaIx d c; let q := loaded (dmaAt s i) load
    q.st = .idle → q.fetching = false → dmaServes s q = true → fieldsOk (shadowed q) = false → q.pz4 = false →
    Runs (.dmaArm d c load) s (fun t => t = { s with dma := t.dma } ∧ only i dmaAt s t ∧
      dmaAt t i = endedBad (shadowed q) 3 (if q.shCount = 0 ∨ dmaSpace q.shSrc ∉ [0, 1, 2, 4, 5] then q.shSrc else q.shDst))) ∧
  (∀ s d c load, dmaOk s d c = true → let i := dmaIx d c; let q := loaded (dmaAt s i) load
    q.st ≠ .idle → q.st ≠ .fenced → q.fetching = false → q.chain = false → dmaServes s q = true →
    exec (.dmaArm d c load) s = .next (setDma s i { q with armed := true })) ∧
  (∀ s d c load, dmaOk s d c = true → let i := dmaIx d c; let q := loaded (dmaAt s i) load
    q.st ≠ .fenced → q.chained = true → dmaServes s q = true → exec (.dmaArm d c load) s = .next (setDma s i { q with ign := true })) ∧
  (∀ s d c load, let q := dmaAt s (dmaIx d c)
    q.st = .fenced ∨ dmaServes s q = false → exec (.dmaArm d c load) s = .next s ∧ exec (.dmaDoorbell d c) s = .next s) ∧
  (∀ s d c f v e data a, dmaOk s d c = false → a ∈ dmaCommands d c f v e data → exec a s = .next s) ∧
  (∀ s d c, dmaOk s d c = true → let i := dmaIx d c; let q := dmaAt s i
    q.st = .idle → q.armed = false → q.fetching = false → q.tail = 0 → dmaServes s q = true → Runs (.dmaDoorbell d c) s (fun t =>
      t = { s with dma := t.dma } ∧ only i dmaAt s t ∧
      dmaAt t i = { q with fetching := true, refetch := false, chain := true, st := .run, curDesc := q.desc.extractLsb' 5 32 })) ∧
  (∀ s d c, dmaOk s d c = true → let i := dmaIx d c; let q := dmaAt s i
    q.st = .idle → q.armed = false → q.fetching = false → q.tail ≠ 0 → dmaServes s q = true → Runs (.dmaDoorbell d c) s (fun t =>
      t = { s with dma := t.dma } ∧ only i dmaAt s t ∧ dmaAt t i = { q with fetching := true, refetch := true, curDesc := q.tail })) ∧
  (∀ s d c, dmaOk s d c = true → let i := dmaIx d c; let q := dmaAt s i
    q.st ≠ .fenced → q.st ≠ .halted → q.armed = false → q.chained = true → dmaServes s q = true →
    exec (.dmaDoorbell d c) s = .next (setDma s i { q with doorbell := true })) ∧
  (∀ s d c, dmaOk s d c = true → let i := dmaIx d c; let q := dmaAt s i
    q.st ≠ .fenced → dmaServes s q = true → q.armed = true ∨ (q.st ∈ [.run, .wait, .readback] ∧ q.chained = false) →
    exec (.dmaDoorbell d c) s = .next (setDma s i { q with ign := true })) ∧
  (∀ s d c, let q := dmaAt s (dmaIx d c)
    q.st = .halted → q.armed = false → exec (.dmaDoorbell d c) s = .next s) ∧
  (∀ s d c v, dmaOk s d c = true → let i := dmaIx d c; let q := dmaAt s i
    q.st = .idle → q.fetching = false → dmaServes s q = true → Runs (.dmaDescWrite d c v) s (fun t =>
      t = { s with dma := t.dma } ∧ only i dmaAt s t ∧ dmaAt t i = { q with desc := v, tail := 0 })) ∧
  (∀ s d c v, dmaOk s d c = true → let i := dmaIx d c; let q := dmaAt s i
    q.st ≠ .idle ∨ q.fetching = true → dmaServes s q = true → exec (.dmaDescWrite d c v) s = .next (setDma s i { q with ign := true })) ∧
  (∀ s d c v, dmaServes s (dmaAt s (dmaIx d c)) = false → exec (.dmaDescWrite d c v) s = .next s) ∧
  (∀ s d c, dmaOk s d c = true → let i := dmaIx d c; let q := dmaAt s i
    q.st ≠ .fenced → Runs (.dmaAbort d c) s (fun t => t = { s with dma := t.dma } ∧ only i dmaAt s t ∧
      (dmaAt t i).st = .idle ∧ (dmaAt t i).armed = false ∧ (dmaAt t i).tail = 0 ∧ (dmaAt t i).inflight = [] ∧ (dmaAt t i).remain = 0 ∧
      (dmaAt t i).shSrc = 0 ∧ (dmaAt t i).shDst = 0 ∧ (dmaAt t i).shCount = 0 ∧ (dmaAt t i).fetching = false ∧ (dmaAt t i).desc = q.desc ∧
      (dmaAt t i).okCnt = q.okCnt ∧ (dmaAt t i).badCnt = q.badCnt ∧ (dmaAt t i).prio = q.prio ∧ (dmaAt t i).use = q.use)) ∧
  (∀ s d c, (dmaAt s (dmaIx d c)).st = .fenced → exec (.dmaAbort d c) s = .next s) ∧
  (∀ s d c, dmaOk s d c = true → Runs (.dmaCntClr d c) s (fun t => t = { s with dma := t.dma } ∧ only (dmaIx d c) dmaAt s t ∧
    dmaAt t (dmaIx d c) = { dmaAt s (dmaIx d c) with okCnt := 0, badCnt := 0, halts := 0 })) ∧
  (∀ s d v, arrives s d = true → let e := dmaDieAt s d
    e.irq &&& ~~~ v &&& ~~~ e.mask = 0 → Runs (.dmaIrqStatWrite d v) s (fun t =>
      t = { s with dmaDie := t.dmaDie } ∧ only d dmaDieAt s t ∧ dmaDieAt t d = { e with irq := e.irq &&& ~~~ v })) ∧
  (∀ s d v, arrives s d = true → let e := dmaDieAt s d
    e.irq &&& ~~~ v &&& ~~~ e.mask ≠ 0 → s.pcie.d3hot = false → vecOpen s (8 + d) = true → s.pcie.linkUp = true →
    Runs (.dmaIrqStatWrite d v) s (fun t => t = { s with dmaDie := t.dmaDie, out := .msix (8 + d) :: s.out } ∧ only d dmaDieAt s t ∧
      dmaDieAt t d = { e with irq := e.irq &&& ~~~ v })) ∧
  (∀ s d v, arrives s d = false → exec (.dmaIrqStatWrite d v) s = .next s)

/-- Die `d` has no DRAM block with a flipped bit, and no check burst cached with one. -/
abbrev Sys2Proof.Claims.dramSound (s : State) : Bool := s.dramFlips.isEmpty && s.ddr.all (fun p => p.2.chk.all (fun b => b.2.isEmpty))

/-- A DMA access does not wait for a channel that trains, its source holds no poison and neither side is a bus error (R319, R327, R288). -/
abbrev Sys2Proof.Claims.burstMoves (s : State) (d : Nat) (q : DmaCh) (n : Nat) : Prop :=
  let src := dmaAddr q.src q.moved
  let dst := dmaAddr q.dst q.moved
  dmaHeld s d src n = false ∧ dmaHeld s d dst n = false ∧ dmaErrorAt s d q.src q.moved n = false ∧ dmaErrorAt s d q.dst q.moved n = false ∧
    dmaPoison (dmaTouch s d src n) d src n = false

/-- A channel after a burst of `n` bytes `bs`: the oldest in flight is done, count and CRC advance. -/
abbrev Sys2Proof.Claims.burstDone (q : DmaCh) (n : Nat) (bs : List Byte) : DmaCh :=
  { q with inflight := q.inflight.drop 1, moved := q.moved + n, remain := BitVec.ofNat 24 (q.remain.toNat - n), running := crc32cReg q.running bs }

/-- R330-R332, R340, R341: a descriptor as fetched becomes the active set and its transfer starts; one whose reserved bits or fields are not allowed ends
BAD with cause FIELD, STATUS written, and the chain goes on. A tail read again whose END stands ends the fetch, unless a doorbell rang meanwhile; one
without END goes on with NEXT. A bus error or poison at the fetch halts the channel, as does an address where no descriptor may lie; a channel with a
second fault in the window is fenced. A fetch waits for a DRAM channel that trains. -/
def Sys2Proof.Claims.DmaDescriptors : Prop :=
  (∀ s d c, dmaOk s d c = true → let i := dmaIx d c; let q := dmaAt s i; let a := descAddr q q.curDesc
    let m := dmaTouch s d a 32
    let r := dmaRead m d a 32 []
    let b := r.1
    let ctl := leAt b 0x18 2
    let p : DmaCh := { q with
      fetching := false, src := BitVec.ofNat 64 (leAt b 0 8), dst := BitVec.ofNat 64 (leAt b 8 8),
      count := BitVec.ofNat 24 (leAt b 0x10 3), evt := ctl.testBit 1, evtLine := byteAt b 0x1A, curEnd := ctl.testBit 0,
      curNext := BitVec.ofNat 32 (leAt b 0x1C 4) }
    q.fetching = true → q.refetch = false → dmaHeld s d a 32 = false → descBad s d q q.curDesc = false → dmaPoison m d a 32 = false →
    (leAt b 0x13 1 = 0 → ctl / 8 = 0 → fieldsOk p = true →
      exec (.dmaDescFetchComplete d c .ok) s = .next (setDma r.2 i (armedRun p (ctl.testBit 2)))) ∧
    (leAt b 0x13 1 ≠ 0 ∨ ctl / 8 ≠ 0 ∨ fieldsOk p = false → q.chain = true → dmaSpace a = 0 → q.pz4 = false →
      Runs (.dmaDescFetchComplete d c .ok) s (fun t => only i dmaAt r.2 t ∧ t.dram = (dramWr r.2 d (dmaLow (a + 0x1B)) [0x32]).dram ∧
        (dmaAt t i).cause = 3 ∧ (dmaAt t i).badCnt = satInc q.badCnt ∧ (dmaAt t i).remain = 0 ∧
        (ctl.testBit 0 = false → (dmaAt t i).fetching = true ∧ (dmaAt t i).refetch = false ∧ (dmaAt t i).curDesc = p.curNext) ∧
        (ctl.testBit 0 = true → (dmaAt t i).st = .idle ∧ (dmaAt t i).tail = q.curDesc ∧ (dmaAt t i).chain = false ∧ (dmaAt t i).fetching = q.doorbell)))) ∧
  (∀ s d c, dmaOk s d c = true → let i := dmaIx d c; let q := dmaAt s i; let a := descAddr q q.curDesc
    let m := dmaTouch s d a 32
    let r := dmaRead m d a 32 []
    q.fetching = true → q.refetch = true → dmaHeld s d a 32 = false → descBad s d q q.curDesc = false → dmaPoison m d a 32 = false →
    ((leAt r.1 0x18 1).testBit 0 = true → exec (.dmaDescFetchComplete d c .ok) s =
      .next (setDma r.2 i { q with fetching := q.doorbell, refetch := q.doorbell, doorbell := false })) ∧
    ((leAt r.1 0x18 1).testBit 0 = false → exec (.dmaDescFetchComplete d c .ok) s =
      .next (setDma r.2 i { q with refetch := false, chain := true, st := .run, doorbell := false,
                                   curDesc := BitVec.ofNat 32 (leAt r.1 0x1C 4) }))) ∧
  (∀ s d c e, dmaOk s d c = true → let i := dmaIx d c; let q := dmaAt s i; let a := descAddr q q.curDesc
    let m := if e ≠ .ok ∨ descBad s d q q.curDesc then s else dmaTouch s d a 32
    q.fetching = true → dmaHeld s d a 32 = false → e ≠ .ok ∨ descBad s d q q.curDesc = true ∨ dmaPoison m d a 32 = true →
    (q.haltAt = none → faultRepeats m (.dma d c) s.tb ((integ s).memWin * secTicks) = false → exec (.dmaDescFetchComplete d c e) s =
      .next (setDma m i { q with st := .halted, cause := 5, err := a, halts := satInc q.halts, inflight := [], fetching := false, doorbell := false,
                                 haltAt := some s.tb })) ∧
    (q.haltAt = some s.tb → isFenced s (.dma d c) = false → Runs (.dmaDescFetchComplete d c e) s (fun t => (dmaAt t i).st = .fenced))) ∧
  (∀ s d c e, let q := dmaAt s (dmaIx d c)
    q.fetching = false ∨ dmaHeld s d (descAddr q q.curDesc) 32 = true → exec (.dmaDescFetchComplete d c e) s = .next s)

/-- R326, R333-R336, R338, R340, R341: the system mover serves a ready channel of the highest level present. A burst writes the bytes it read where its
destination's space says, and the last of a transfer goes on to the read-back, or, from no space that is read back, completes; a bus error ends the transfer
BAD with its cause, and only what was still to be written of its destination changes; poison halts the channel with nothing of the burst written. A transfer
read back completes with its CRC, its event line pulsed, and its chain or armed shadow goes on. -/
def Sys2Proof.Claims.DmaBursts : Prop :=
  (∀ s d req c, pickDma? s d req = some c → c < 32 ∧ dmaReady s (dmaAt s (dmaIx d c)) (req.getLsbD c) = true ∧
    ∀ k, k < 32 → dmaReady s (dmaAt s (dmaIx d k)) (req.getLsbD k) = true → (dmaAt s (dmaIx d c)).prio.toNat ≤ (dmaAt s (dmaIx d k)).prio.toNat) ∧
  (∀ s d req c, dieOk s d = true → pickDma? s d req = some c → let q := dmaAt s (dmaIx d c)
    ((List.range 32).map (fun k => (dmaAt s (dmaIx d k)).inflight.length)).sum < 32 → Runs (.dmaBurstStart d req) s (fun t =>
      t = { s with dma := t.dma, dmaDie := t.dmaDie } ∧ only (dmaIx d c) dmaAt s t ∧ only d dmaDieAt s t ∧
      dmaAt t (dmaIx d c) = { q with inflight := q.inflight ++ [burstLen q] } ∧
      dmaDieAt t d = { dmaDieAt s d with lastSys := (dmaDieAt t d).lastSys } ∧
      sget 0 (dmaDieAt t d).lastSys q.prio.toNat = (c + 1) % 32)) ∧
  (∀ s d req, dieOk s d = false ∨ pickDma? s d req = none ∨ 32 ≤ ((List.range 32).map (fun k => (dmaAt s (dmaIx d k)).inflight.length)).sum →
    exec (.dmaBurstStart d req) s = .next s) ∧
  (∀ s d c n ns e data, dmaOk s d c = true → let i := dmaIx d c; let q := dmaAt s i
    let src := dmaAddr q.src q.moved
    let r := dmaRead (dmaTouch s d src n) d src n data
    q.inflight = n :: ns → burstMoves s d q n → e = .ok ∨ (e = .poison ∧ dmaSpace src < 3) →
    (n < q.remain.toNat → exec (.dmaBurstComplete d c e data) s =
      .next (setDma (dmaWrite r.2 d c (dmaAddr q.dst q.moved) r.1) i (burstDone q n r.1))) ∧
    (q.remain.toNat ≤ n → dmaSpace q.dst ≤ 4 → exec (.dmaBurstComplete d c e data) s =
      .next (setDma (dmaWrite r.2 d c (dmaAddr q.dst q.moved) r.1) i { burstDone q n r.1 with st := .readback })) ∧
    (q.remain.toNat ≤ n → dmaSpace q.dst = 6 → q.chain = false → q.armed = false → q.evt = false → q.pz4 = false → q.haltAt = none →
      exec (.dmaBurstComplete d c e data) s = .next (setDma (dmaWrite r.2 d c q.dst r.1) i
        { burstDone q n r.1 with st := .idle, crc := (burstDone q n r.1).running ^^^ 0xFFFFFFFF, okCnt := q.okCnt + 1 }))) ∧
  (∀ s d c a bs, let t := dmaWrite s d c a bs
    let low := dmaLow a
    (dmaSpace a = 0 → t = dramWr s d low bs) ∧
    (dmaSpace a = 1 → (∀ x, x < 2 ^ 23 * d + low ∨ 2 ^ 23 * d + low + bs.length ≤ x → rd t.banks x = rd s.banks x) ∧
      ∀ j, j < bs.length → rd t.banks (2 ^ 23 * d + low + j) = byteAt bs j) ∧
    (dmaSpace a = 2 → (∀ x, x < 2 ^ 17 * d + low ∨ 2 ^ 17 * d + low + bs.length ≤ x → rd t.tcm x = rd s.tcm x) ∧
      ∀ j, j < bs.length → rd t.tcm (2 ^ 17 * d + low + j) = byteAt bs j) ∧
    (dmaSpace a = 3 → t = { s with fabric := s.fabric ++
      [⟨d, none, blockPath s (low / 2 ^ 56 % 8), .block ⟨c, low / 2 ^ 56 % 8, BitVec.ofNat 64 (low % 2 ^ 34), bs⟩⟩] }) ∧
    (dmaSpace a = 4 → t = { s with out := .hostWrite low bs :: s.out }) ∧
    (dmaSpace a = 6 → t = { s with comps := t.comps } ∧ (compAt t d).inp = (compAt s d).inp ++ bs)) ∧
  (∀ s d c n ns e data, dmaOk s d c = true → let i := dmaIx d c; let q := dmaAt s i; let a := dmaAddr q.src q.moved
    q.inflight = n :: ns → q.chain = false → q.armed = false → q.pz4 = false → dmaSpace q.dst = 4 → dmaHeld s d a n = false →
    e = .srcBus ∨ dmaErrorAt s d q.src q.moved n = true → Runs (.dmaBurstComplete d c e data) s (fun t =>
      t = { s with dma := t.dma } ∧ only i dmaAt s t ∧ dmaAt t i = endedBad q 1 a)) ∧
  (∀ s d c n ns data, dmaOk s d c = true → let i := dmaIx d c; let q := dmaAt s i
    let lo := 2 ^ 23 * d + dmaLow q.dst + q.moved
    q.inflight = n :: ns → q.chain = false → q.armed = false → q.pz4 = false → dmaSpace q.dst = 1 →
    dmaHeld s d (dmaAddr q.src q.moved) n = false → dmaLow q.dst + q.moved + q.remain.toNat ≤ 2 ^ 23 → noFlips s .bank d →
    Runs (.dmaBurstComplete d c .srcBus data) s (fun t =>
      t = { s with dma := t.dma, banks := t.banks, free := t.free, poison := t.poison } ∧ only i dmaAt s t ∧
      (∀ a, a < lo ∨ lo + q.remain.toNat ≤ a → rd t.banks a = rd s.banks a) ∧ dmaAt t i = endedBad q 1 (dmaAddr q.src q.moved))) ∧
  (∀ s d c n ns e data, dmaOk s d c = true → let i := dmaIx d c; let q := dmaAt s i; let src := dmaAddr q.src q.moved
    let m := dmaTouch s d src n
    q.inflight = n :: ns → q.chain = false → q.armed = false → q.pz4 = false → dmaSpace q.dst = 4 → dmaHeld s d src n = false →
    e = .ok ∨ e = .dstBus → dmaErrorAt s d q.src q.moved n = false → dmaPoison m d src n = false →
    e = .dstBus ∨ dmaErrorAt m d q.dst q.moved n = true → Runs (.dmaBurstComplete d c e data) s (fun t =>
      t = { m with dma := t.dma } ∧ only i dmaAt m t ∧ dmaAt t i = endedBad q 2 (dmaAddr q.dst q.moved))) ∧
  (∀ s d c n ns e data, dmaOk s d c = true → let i := dmaIx d c; let q := dmaAt s i; let src := dmaAddr q.src q.moved
    let m := dmaTouch s d src n
    q.inflight = n :: ns → dmaHeld s d src n = false → dmaHeld s d (dmaAddr q.dst q.moved) n = false → e ≠ .srcBus →
    dmaErrorAt s d q.src q.moved n = false → (e = .poison ∧ 3 ≤ dmaSpace src) ∨ dmaPoison m d src n = true → q.haltAt = none →
    faultRepeats m (.dma d c) s.tb ((integ s).memWin * secTicks) = false → Runs (.dmaBurstComplete d c e data) s (fun t =>
      (s.blocks = [] ∨ dmaSpace src ≠ 0 → t = { m with dma := t.dma }) ∧ t.dram = m.dram ∧ t.banks = m.banks ∧ t.tcm = m.tcm ∧
      (dmaSpace src = 0 → (t.blocks.all (fun b => b.bad || !(b.die == d && !b.cached && b.addr != 0 &&
        decide (b.addr < dmaLow src + n ∧ dmaLow src < b.addr + pad64 b.blockLen)))) = true) ∧ only i dmaAt m t ∧
      dmaAt t i = { q with st := .halted, cause := 4, err := src, halts := satInc q.halts, inflight := [], fetching := false, doorbell := false,
                           haltAt := some s.tb })) ∧
  (∀ s d c e data, let q := dmaAt s (dmaIx d c)
    q.inflight = [] ∨ (dmaHeld s d (dmaAddr q.src q.moved) (q.inflight.headD 0) || dmaHeld s d (dmaAddr q.dst q.moved) (q.inflight.headD 0)) = true →
    exec (.dmaBurstComplete d c e data) s = .next s) ∧
  (∀ s d c e, dmaOk s d c = true → let i := dmaIx d c; let q := dmaAt s i
    let a := dmaAddr q.dst (q.moved - 1)
    q.st = .readback → e = .ok ∨ e = .poison → dmaBusError s d (a &&& ~~~7#64) 8 = false → dmaHeld s d a 1 = false → dmaSpace q.dst ≠ 3 →
    q.pz4 = false → q.haltAt = none →
    (q.chain = false → q.armed = false → q.evt = false → Runs (.dmaReadbackReturn d c e) s (fun t =>
      t = { s with dma := t.dma } ∧ only i dmaAt s t ∧ dmaAt t i = { q with st := .idle, crc := q.running ^^^ 0xFFFFFFFF, okCnt := q.okCnt + 1 })) ∧
    (q.chain = false → q.armed = true → q.evt = false → fieldsOk (shadowed q) = true → Runs (.dmaReadbackReturn d c e) s (fun t =>
      t = { s with dma := t.dma } ∧ only i dmaAt s t ∧
      dmaAt t i = { armedRun (shadowed q) q.shWait with crc := q.running ^^^ 0xFFFFFFFF, okCnt := q.okCnt + 1 })) ∧
    (q.chain = true → q.evt = false → q.curEnd = false → dmaSpace (descAddr q q.curDesc) = 0 → Runs (.dmaReadbackReturn d c e) s (fun t =>
      let w := descAddr q q.curDesc
      t.dram = (dramWr (dramWr s d (dmaLow (w + 0x14)) (natLE 4 (q.running ^^^ 0xFFFFFFFF).toNat)) d (dmaLow (w + 0x1B)) [1]).dram ∧
      only i dmaAt s t ∧
      dmaAt t i = { q with st := .run, crc := q.running ^^^ 0xFFFFFFFF, okCnt := q.okCnt + 1, fetching := true, refetch := false, curDesc := q.curNext })) ∧
    (q.chain = false → q.armed = false → q.evt = true → Runs (.dmaReadbackReturn d c e) s (fun t => t = { s with dma := t.dma } ∧
      (dmaAt t i).okCnt = q.okCnt + 1 ∧ ∀ k, k < 32 → k ≠ c → dmaAt t (dmaIx d k) =
        let w := dmaAt s (dmaIx d k)
        if w.st = .wait ∧ w.trig = q.evtLine then { w with st := .run } else w))) ∧
  (∀ s c, dmaOk s 0 c = true → let i := dmaIx 0 c; let q := dmaAt s i; let e := dmaDieAt s 0
    let a := dmaAddr q.dst (q.moved - 1)
    q.st = .readback → dmaBusError s 0 (a &&& ~~~7#64) 8 = false → dmaSpace q.dst = 4 → q.pz4 = true → q.use ≠ 1 → q.chain = false → q.armed = false →
    q.evt = false → q.haltAt = none → e.irq.getLsbD c = false → Runs (.dmaReadbackReturn 0 c .ok) s (fun t =>
      dmaDieAt t 0 = { e with irq := e.irq ||| (1#32 <<< c) } ∧ only 0 dmaDieAt s t ∧
      (e.mask.getLsbD c = false → s.pcie.d3hot = false → vecOpen s 8 = true → s.pcie.linkUp = true → t.out = .msix 8 :: s.out) ∧
      (e.mask.getLsbD c = true → t = { s with dma := t.dma, dmaDie := t.dmaDie }))) ∧
  (∀ s d c e, dmaOk s d c = true → let i := dmaIx d c; let q := dmaAt s i
    let a := dmaAddr q.dst (q.moved - 1)
    q.st = .readback → e = .srcBus ∨ e = .dstBus ∨ dmaBusError s d (a &&& ~~~7#64) 8 = true → q.chain = false → q.armed = false → q.pz4 = false →
    q.remain = 0 → dmaSpace q.dst = 4 → Runs (.dmaReadbackReturn d c e) s (fun t =>
      t = { s with dma := t.dma } ∧ only i dmaAt s t ∧ dmaAt t i = endedBad q 2 a)) ∧
  (∀ s d c e, (dmaAt s (dmaIx d c)).st ≠ .readback → exec (.dmaReadbackReturn d c e) s = .next s) ∧
  (∀ s c, dmaOk s 0 c = true → let q := dmaAt s (dmaIx 0 c)
    let a := dmaAddr q.dst (q.moved - 1)
    q.st = .readback → dmaSpace q.dst = 3 → dmaBusError s 0 (a &&& ~~~7#64) 8 = false → s.fabric.any (fun f => f.sentBy c) = true →
    exec (.dmaReadbackReturn 0 c .ok) s = .next s)

/-- R300, R335, R341: the FORWARD channel of a die writes the burst that waits longest at a port to the die address it carries, and poisons the blocks it
touches when it is damaged; one whose address fails is discarded, and its sender's transfer ends BAD with DST. Without a FORWARD channel, and while the
DRAM channel trains, the burst waits. -/
def Sys2Proof.Claims.ForwardWrites : Prop :=
  (∀ s d p b rest bad, dieOk s d = true → p < 4 → let n := portAt s (4 * d + p)
    n.ingress = b :: rest → hasForward s d = true → dramWaits s d b.addr.toNat b.data.length = false →
    b.addr.toNat + b.data.length ≤ dramEnd s d → Runs (.ingressBurst d p bad) s (fun t =>
      t = { s with ports := t.ports, dram := t.dram, dramPoison := t.dramPoison, dramFlips := t.dramFlips, ddr := t.ddr } ∧
      only (4 * d + p) portAt s t ∧ portAt t (4 * d + p) = { n with ingress := rest } ∧
      t.dram = (dramWr s d b.addr.toNat b.data).dram ∧
      (bad = true → ∀ j, j < b.data.length → dramBad t d (b.addr.toNat + j) = true))) ∧
  (∀ s d p b rest bad, dieOk s d = true → p < 4 → let n := portAt s (4 * d + p); let q := dmaAt s (dmaIx 0 b.sender)
    n.ingress = b :: rest → hasForward s d = true → dramWaits s d b.addr.toNat b.data.length = false →
    dramEnd s d < b.addr.toNat + b.data.length → b.sender < 32 → q.st = .run ∨ q.st = .readback → q.chain = false → q.armed = false → q.pz4 = false →
    q.remain = 0 → s.fabric = [] → Runs (.ingressBurst d p bad) s (fun t =>
      t = { s with ports := t.ports, dma := t.dma } ∧ only (4 * d + p) portAt s t ∧ portAt t (4 * d + p) = { n with ingress := rest } ∧
      only (dmaIx 0 b.sender) dmaAt s t ∧
      dmaAt t (dmaIx 0 b.sender) = endedBad q 2 (3#64 <<< 60 ||| BitVec.ofNat 64 (b.die % 8) <<< 56 ||| b.addr))) ∧
  (∀ s d p bad, (portAt s (4 * d + p)).ingress = [] ∨ hasForward s d = false ∨ 4 ≤ p ∨
    (portAt s (4 * d + p)).ingress.any (fun b => dramWaits s d b.addr.toNat b.data.length) = true ∧ (portAt s (4 * d + p)).ingress.length = 1 →
    exec (.ingressBurst d p bad) s = .next s)

/-- R300, R326, R330-R338, R340, R341: descriptors, bursts and the bursts that other dies take, as the three statements they are made of say. -/
def Obligations.DmaTransfersMove : Prop := DmaDescriptors ∧ DmaBursts ∧ ForwardWrites

/-! ### DRAM (R304-R323) -/

/-- R310-R313: the requests of one cycle enter in the order of their classes, those of writes to the management region both channels, when their queues have
room; one whose queue is full waits; one that R310 does not describe is dropped. The burst issued is one the devices' timing allows, of a request in the
queue that no older one to its block must precede, and a deadline read comes first short of DL_RUN. A lone write reaches the device, with the poison of a
block it covers whole cleared, and a lone read is on its way. A channel that trains, and one with nothing that can issue, issues nothing. -/
def Obligations.DramRequestsAndBursts : Prop :=
  (∀ s d rs, dieOk s d = true → s.dramHeld = [] → rs.all (reqStands s d) = true → (rs.map (fun r => r.id)).Nodup →
    ((List.range 2).all (fun ch => [DClass.deadline, .bulk, .management].all (fun k =>
      decide (((ddrAt s (ddrIx d ch)).queue.filter (fun w => reqClass w.req == k)).length + rs.length ≤ k.depth)))) = true →
    Runs (.dramRequest d rs) s (fun t => t = { s with ddr := t.ddr } ∧
      (∀ ch, ch < 2 → ddrAt t (ddrIx d ch) = { ddrAt s (ddrIx d ch) with queue := (ddrAt s (ddrIx d ch)).queue ++
        ((sameCycle rs).filter (fun r => (reqPlaces s d r).contains ch)).map (fun r => ⟨r, slackOf s d r, s.tb⟩) }) ∧
      ∀ j, j ≠ ddrIx d 0 → j ≠ ddrIx d 1 → ddrAt t j = ddrAt s j)) ∧
  (∀ s d r ch, dieOk s d = true → s.dramHeld = [] → reqStands s d r = true → ch ∈ reqPlaces s d r →
    queueRoom (ddrAt s (ddrIx d ch)) (reqClass r) = false → exec (.dramRequest d [r]) s = .next { s with dramHeld := [(d, r)] }) ∧
  (∀ s d r, s.dramHeld = [] → dieOk s d = false ∨ reqStands s d r = false → exec (.dramRequest d [r]) s = .next s) ∧
  (∀ s d (c : DdrCh) ready t, pickSlot s d c ready = some t →
    t.wait ∈ c.queue ∧ t.wait.req.id ∈ ready ∧ heldBack c.queue t.wait = false ∧ hitLimit s d c t.wait = false) ∧
  (∀ s d (c : DdrCh) ready t w, pickSlot s d c ready = some t → w ∈ c.queue → reqClass w.req = .deadline → w.req.write = false →
    w.req.id ∈ ready → heldBack c.queue w = false → hitLimit s d c w = false → c.run < c.dlRun.toNat → t.cls = .deadline) ∧
  (∀ s d ch (w : DWait) ready, let i := ddrIx d ch; let c := ddrAt s i; let r := w.req; let b := ddrBank (chOff s d r.addr)
    c.st = .active → c.queue = [w] → s.dramHeld = [] → r.write = false → r.id ∈ ready → r.len ≤ 64 - r.addr % 64 →
    Runs (.dramBurstIssue d ch ready) s (fun t => t = { s with ddr := t.ddr } ∧ only i ddrAt s t ∧ (ddrAt t i).queue = [] ∧
      (ddrAt t i).issued = c.issued ++ [{ r with data := [] }] ∧ (ddrAt t i).st = .active ∧
      sget 0 (ddrAt t i).openRow b = ddrRow (chOff s d r.addr) + 1 ∧ ∀ k, k ≠ b → sget 0 (ddrAt t i).openRow k = sget 0 c.openRow k)) ∧
  (∀ s d ch (w : DWait) ready, let i := ddrIx d ch; let c := ddrAt s i; let r := w.req
    c.st = .active → c.queue = [w] → s.dramHeld = [] → r.write = false → r.id ∈ ready → 64 - r.addr % 64 < r.len →
    Runs (.dramBurstIssue d ch ready) s (fun t => t = { s with ddr := t.ddr } ∧ only i ddrAt s t ∧
      let n := 64 - r.addr % 64
      (ddrAt t i).queue = [{ w with req := { r with addr := r.addr + n, len := r.len - n, data := r.data.drop n } }] ∧
      (ddrAt t i).issued = c.issued ++ [{ r with len := n, data := [] }])) ∧
  (∀ s d ch (w : DWait) ready, let i := ddrIx d ch; let c := ddrAt s i; let r := w.req
    c.st = .active → c.queue = [w] → s.dramHeld = [] → s.dramFlips = [] → r.write = true → r.id ∈ ready → r.len ≤ 64 - r.addr % 64 →
    r.data.length = r.len → ch < 2 → (ddrAt s (ddrIx d (1 - ch))).queue = [] → Runs (.dramBurstIssue d ch ready) s (fun t =>
      let off := chOff s d r.addr
      let k := dramKey d ch off
      t = { s with ddr := t.ddr, dram := t.dram, dramPoison := t.dramPoison, out := .dramDone d r.id :: s.out } ∧ only i ddrAt s t ∧
      (ddrAt t i).queue = [] ∧ (ddrAt t i).issued = c.issued ∧ (∀ j, j < r.len → rd t.dram (k + j) = byteAt r.data j) ∧
      (∀ a, a < k ∨ k + r.len ≤ a → rd t.dram a = rd s.dram a) ∧
      t.dramPoison = if off % 64 = 0 ∧ 64 ≤ r.len then s.dramPoison.filter (fun q => q ≠ dramBlkKey d ch off) else s.dramPoison)) ∧
  (∀ s d ch ready, (ddrAt s (ddrIx d ch)).st ≠ .active ∨ pickSlot s d (ddrAt s (ddrIx d ch)) ready = none →
    exec (.dramBurstIssue d ch ready) s = .next s)

/-- R306, R307: one data bit read wrong is corrected, two are uncorrectable, one bit of a record is a check-bit error, two of its tag are a misdirected block, the
poison mark reads poisoned, and a block with its own record reads clean. -/
def Sys2Proof.Claims.DramClasses : Prop :=
  (∀ v off, blkClass v (recordOf false v off) off = (.clean, v)) ∧
  (∀ v off, (blkClass v (recordOf true v off) off).1 = .poisoned) ∧
  (∀ v off k, k < 512 → blkClass (v ^^^ (1#512 <<< k)) (recordOf false v off) off = (.corrected, v)) ∧
  (∀ v off j k, j < k → k < 512 → (blkClass (v ^^^ (1#512 <<< j) ^^^ (1#512 <<< k)) (recordOf false v off) off).1 = .uncorrectable) ∧
  (∀ v off k, k < 64 → blkClass v (recordOf false v off ^^^ (1#64 <<< k)) off = (.checkBit, v)) ∧
  (∀ v off j k, j < k → k < 16 →
    (blkClass v (recordOf false v off ^^^ (1#64 <<< (48 + j)) ^^^ (1#64 <<< (48 + k))) off).1 = .misdirected)

/-- R307-R309: a clean burst leaves the channel and its bytes are delivered; a corrected one is counted, with its die address; an uncorrectable one outside
the mirrored region poisons its block, is counted and starts a retrain; a poisoned one is delivered as poison. -/
def Sys2Proof.Claims.DramReads : Prop :=
  (∀ s d ch r rest flip rec_, let i := ddrIx d ch; let c := ddrAt s i; let off := chOff s d r.addr
    let bytes := slice (natLE 64 (blkStored s d ch off).toNat) (off % 64) r.len
    c.issued = r :: rest → dramSound s = true → blkBad s d ch off = false →
    (flip = 0 → rec_ = 0 → Runs (.dramReadComplete d ch flip rec_) s (fun t =>
      t = { s with ddr := t.ddr, out := .dramData d r.id bytes false :: s.out } ∧ only i ddrAt s t ∧
      ddrAt t i = { c with issued := rest, chk := (ddrAt t i).chk })) ∧
    (∀ k, flip = 1#512 <<< k ∧ rec_ = 0 ∧ k < 512 ∨ flip = 0 ∧ rec_ = 1#64 <<< k ∧ k < 64 → Runs (.dramReadComplete d ch flip rec_) s (fun t =>
      t = { s with ddr := t.ddr, out := .dramData d r.id bytes false :: s.out } ∧ only i ddrAt s t ∧
      ddrAt t i = { c with issued := rest, chk := (ddrAt t i).chk, corr := satInc c.corr, eccClass := 1,
                           eccBlock := BitVec.ofNat 28 (dramAddrOf s d ch (off / 64 * 64) / 64) })) ∧
    (∀ j k, flip = 1#512 <<< j ^^^ (1#512 <<< k) → rec_ = 0 → j < k → k < 512 → mgtRegion ≤ off → c.faultAt = none → c.st = .active →
      r.reader ∈ [.cache, .bar2, .manager, .scrubber] → Runs (.dramReadComplete d ch flip rec_) s (fun t =>
        t.dramPoison = s.dramPoison ++ [dramBlkKey d ch off] ∧ only i ddrAt s t ∧ (ddrAt t i).uncorr = satInc c.uncorr ∧ (ddrAt t i).eccClass = 2 ∧
        (ddrAt t i).st = .retrain ∧ (ddrAt t i).faultAt = some s.tb ∧ (ddrAt t i).issued = rest ∧
        t.out.head?.any (fun o => match o with | .dramData _ id _ bad => id == r.id && bad | _ => false) = true))) ∧
  (∀ s d ch r rest, let i := ddrIx d ch; let c := ddrAt s i; let off := chOff s d r.addr
    c.issued = r :: rest → dramSound s = true → blkBad s d ch off = true → r.reader ∈ [.cache, .bar2, .manager, .scrubber] →
    Runs (.dramReadComplete d ch 0 0) s (fun t =>
      t = { s with ddr := t.ddr, out := .dramData d r.id (slice (natLE 64 (blkStored s d ch off).toNat) (off % 64) r.len) true :: s.out } ∧
      only i ddrAt s t ∧ ddrAt t i = { c with issued := rest, chk := (ddrAt t i).chk })) ∧
  (∀ s d ch r rest k, let i := ddrIx d ch; let off := chOff s d r.addr
    (ddrAt s i).issued = r :: rest → dramSound s = true → blkBad s d ch off = true → r.reader = .band k ∨ r.reader = .dma k →
    Runs (.dramReadComplete d ch 0 0) s (fun t => (ddrAt t i).issued = rest ∧ ∀ b, blockAt? s d r.addr = some b →
      (t.blocks.filter (fun o => o.die == d && o.addr == b.addr && o.id == b.id)).all (fun o => o.bad) = true)) ∧
  (∀ s d ch f r, (ddrAt s (ddrIx d ch)).issued = [] → exec (.dramReadComplete d ch f r) s = .next s)

/-- R314-R316, R319, R321: a refresh pays the interval and closes its bank; an urgent request postpones it while fewer than 8 are owed; one pulled in
puts its bank ahead. MR4 sets what the devices ask for, 4x and an event above their range; drift is followed as far as DRIFT_MAX. A retrain or a training
that passes leaves the channel active; a failed retrain is a channel fault and trains fully; a failed training is repeated once and then retires the channel. -/
def Sys2Proof.Claims.DramUpkeep : Prop :=
  (∀ s d ch bank e, let i := ddrIx d ch; let c := ddrAt s i; let debt := sget 0 c.debts bank
    ddrRuns s c = true → bank < 16 → (urgentFor s d c bank = false ∧ 0 ≤ debt) ∨ debt = 7 →
    Runs (.refresh d ch bank true e) s (fun t => t = { s with ddr := t.ddr } ∧ only i ddrAt s t ∧
      sget 0 (ddrAt t i).debts bank = debt ∧ sget 0 (ddrAt t i).openRow bank = 0 ∧
      ddrAt t i = { c with debts := (ddrAt t i).debts, openRow := (ddrAt t i).openRow } ∧
      ∀ b, b ≠ bank → sget 0 (ddrAt t i).debts b = sget 0 c.debts b ∧ sget 0 (ddrAt t i).openRow b = sget 0 c.openRow b)) ∧
  (∀ s d ch bank, let i := ddrIx d ch; let c := ddrAt s i
    ddrRuns s c = true → bank < 16 → urgentFor s d c bank = true ∨ sget 0 c.debts bank < 0 → sget 0 c.debts bank < 7 →
    Runs (.refresh d ch bank true false) s (fun t => t = { s with ddr := t.ddr } ∧ only i ddrAt s t ∧
      sget 0 (ddrAt t i).debts bank = sget 0 c.debts bank + 1 ∧ ddrAt t i = { c with debts := (ddrAt t i).debts } ∧
      ∀ b, b ≠ bank → sget 0 (ddrAt t i).debts b = sget 0 c.debts b)) ∧
  (∀ s d ch bank, let i := ddrIx d ch; let c := ddrAt s i; let debt := sget 0 c.debts bank
    let idle := c.queue.all (fun w => ddrBank (chOff s d w.req.addr) != bank)
    ddrRuns s c = true → bank < 16 → Runs (.refresh d ch bank false true) s (fun t => t = { s with ddr := t.ddr } ∧ only i ddrAt s t ∧
      sget 0 (ddrAt t i).debts bank = (if 0 < debt ∨ (idle = true ∧ -8 < debt) then debt - 1 else debt) ∧
      sget 0 (ddrAt t i).openRow bank = (if 0 < debt ∨ (idle = true ∧ -8 < debt) then 0 else sget 0 c.openRow bank))) ∧
  (∀ s d ch bank e j, let c := ddrAt s (ddrIx d ch)
    ddrRuns s c = false ∨ 16 ≤ bank → exec (.refresh d ch bank e j) s = .next s) ∧
  (∀ s d ch v w, let i := ddrIx d ch; let c := ddrAt s i
    ddrRuns s c = true → let top := if (mr4Code w).toNat ≤ (mr4Code v).toNat then v else w
    Runs (.mr4Poll d ch v w false) s (fun t => t = { s with ddr := t.ddr } ∧ only i ddrAt s t ∧
      ddrAt t i = { c with mr4 := top, asks := mr4Code top } ∧
      (ddrAt t i).mult.toNat = max (minRate c).toNat (mr4Code top).toNat)) ∧
  (∀ s d ch v w, let i := ddrIx d ch; let c := ddrAt s i
    ddrRuns s c = true → Runs (.mr4Poll d ch v w true) s (fun t => t = { s with ddr := t.ddr, evqs := t.evqs } ∧ only i ddrAt s t ∧
      (ddrAt t i).asks = 4 ∧ (ddrAt t i).hot = true ∧ (ddrAt t i).mult = 4)) ∧
  (∀ s d ch (want : Int), let i := ddrIx d ch; let c := ddrAt s i
    ddrRuns s c = true → -(c.driftMax.toNat : Int) ≤ want → want ≤ (c.driftMax.toNat : Int) → Runs (.driftCheck d ch want) s (fun t =>
      t = { s with ddr := t.ddr } ∧ only i ddrAt s t ∧ ddrAt t i = { c with drift := want })) ∧
  (∀ s d ch (want : Int), let i := ddrIx d ch; let c := ddrAt s i; let lim := (c.driftMax.toNat : Int)
    ddrRuns s c = true → want < -lim ∨ lim < want → Runs (.driftCheck d ch want) s (fun t =>
      t = { s with ddr := t.ddr, evqs := t.evqs } ∧ only i ddrAt s t ∧
      ddrAt t i = { c with drift := if lim < want then lim else -lim, pinned := true, wantRetrain := true })) ∧
  (∀ s d ch v w h (want : Int), ddrRuns s (ddrAt s (ddrIx d ch)) = false →
    exec (.mr4Poll d ch v w h) s = .next s ∧ exec (.driftCheck d ch want) s = .next s) ∧
  (∀ s d ch, let i := ddrIx d ch; let c := ddrAt s i
    c.st = .retrain → c.repairs = [] → c.faultAt = none → s.parked = [] → Runs (.fastRetrainDone d ch true) s (fun t =>
      t = { s with ddr := t.ddr } ∧ only i ddrAt s t ∧
      ddrAt t i = { c with st := .active, wantRetrain := false, trainTries := 0, mustTrain := false })) ∧
  (∀ s d ch row, let i := ddrIx d ch; let c := ddrAt s i
    c.st = .retrain → c.repairs = [row] → c.repaired = [] → s.dramFlips = [] → c.faultAt = none → s.parked = [] → Runs (.fastRetrainDone d ch true) s (fun t =>
      t.dram = s.dram ∧ only i ddrAt s t ∧ (ddrAt t i).st = .active ∧ (ddrAt t i).repairs = [] ∧
      (0 < Config.pprPerBank → (ddrAt t i).repaired = [row] ∧ (ddrAt t i).stuck = satInc c.stuck))) ∧
  (∀ s d ch, let i := ddrIx d ch; let c := ddrAt s i
    c.st = .retrain → Runs (.fastRetrainDone d ch false) s (fun t => t = { s with ddr := t.ddr } ∧ only i ddrAt s t ∧
      ddrAt t i = { c with st := .train, trainTries := 0, mustTrain := true, faultAt := (if c.faultAt = none then some s.tb else c.faultAt) })) ∧
  (∀ s d ch ok, (ddrAt s (ddrIx d ch)).st ≠ .retrain → exec (.fastRetrainDone d ch ok) s = .next s) ∧
  (∀ s d ch settings, let i := ddrIx d ch; let c := ddrAt s i
    c.st = .train → c.faultAt = none → s.parked = [] → Runs (.fullTrainingDone d ch true settings) s (fun t =>
      t = { s with ddr := t.ddr, cal := t.cal, free := s.free + 1 } ∧ only i ddrAt s t ∧ t.cal.atOnce = true ∧
      sget [] t.cal.results (calKey 3 (2 * d + ch)) = trainRecord s d ch settings ∧
      ddrAt t i = { c with st := .active, settings := settings, drift := 0, wantRetrain := false, trainTries := 0, mustTrain := false,
                           trnRows := (ddrAt t i).trnRows })) ∧
  (∀ s d ch settings, let i := ddrIx d ch; let c := ddrAt s i
    c.st = .train → c.trainTries = 0 → exec (.fullTrainingDone d ch false settings) s = .next (setDdr s i { c with trainTries := 1 })) ∧
  (∀ s d ch settings, let i := ddrIx d ch; let c := ddrAt s i
    c.st = .train → c.trainTries ≠ 0 → ddrRetired s d (1 - ch) = false → s.power.st ≠ .starting → ch < 2 →
    Runs (.fullTrainingDone d ch false settings) s (fun t => (ddrAt t i).st = .retired ∧ (ddrAt t i).queue = [] ∧
      t.dram = s.dram ∧ isFenced t (.dram d ch) = true)) ∧
  (∀ s d ch ok settings, (ddrAt s (ddrIx d ch)).st ≠ .train → exec (.fullTrainingDone d ch ok settings) s = .next s)

/-- R317, R320, R323: a training-helper run writes its rows with the pattern, and its compare gives the bits read wrong. The scrubber reads its next unit whole:
it forgets clean blocks; a corrected block is counted, written back and tracked; an uncorrectable one is poisoned. START, and the register write that clears the counts,
act from the host. -/
def Sys2Proof.Claims.DramHelpersAndScrub : Prop :=
  (∀ s d ch, arrives s d = true → ch < 2 → let i := ddrIx d ch; let c := ddrAt s i
    s.dia.valid = false → c.trnRun = none → c.st ≠ .active → c.st ≠ .retired → dieOk s d = true →
    exec (.ddrTrnStart d ch) s = .next (setDdr s i { c with trnRun := some c.trn })) ∧
  (∀ s d ch, let c := ddrAt s (ddrIx d ch)
    arrives s d = false ∨ s.dia.valid = true ∨ c.trnRun.isSome = true ∨ c.st = .active ∨ c.st = .retired → exec (.ddrTrnStart d ch) s = .next s) ∧
  (∀ s d ch, arrives s d = true → dieOk s d = true → ch < 2 → let i := ddrIx d ch; exec (.ddrChCtrlClr d ch) s =
    .next (setDdr s i { ddrAt s i with corr := 0, uncorr := 0, misdir := 0, eccClass := 0, eccBlock := 0 })) ∧
  (∀ s d ch, arrives s d = false → exec (.ddrChCtrlClr d ch) s = .next s) ∧
  (∀ s d ch (q : TrnCtl) misread, let i := ddrIx d ch; let c := ddrAt s i
    c.trnRun = some q → q.pattern ≠ 1 → q.op = 0 → misread.all (fun (e : TrnErr) => e.row == q.row.toNat) = true →
    (misread.map (fun (e : TrnErr) => e.beat)).Nodup → Runs (.trainHelperDone d ch [] misread) s (fun t =>
      t = { s with ddr := t.ddr } ∧ only i ddrAt s t ∧ sget {} (ddrAt t i).trnRows q.row.toNat = ⟨none, q.pattern, q.seed, []⟩ ∧
      (∀ n, n ≠ q.row.toNat → sget {} (ddrAt t i).trnRows n = sget {} c.trnRows n) ∧
      ddrAt t i = { c with
        trnRun := none, trnRows := (ddrAt t i).trnRows,
        trnMask := (misread.map (fun (e : TrnErr) => e.dq)).foldl (fun a b => a ||| b) 0,
        trnBits := BitVec.ofNat 31 ((misread.map (fun (e : TrnErr) => popcount e.dq)).sum) })) ∧
  (∀ s d ch (q : TrnCtl) wrote misread, let i := ddrIx d ch; let c := ddrAt s i
    c.trnRun = some q → q.op = 1 ∨ 2 ≤ q.op.toNat → Runs (.trainHelperDone d ch wrote misread) s (fun t => t = { s with ddr := t.ddr } ∧ only i ddrAt s t ∧
      (ddrAt t i).trnRun = none ∧ (q.op = 1 → (ddrAt t i).trnRows = c.trnRows) ∧ (2 ≤ q.op.toNat → (ddrAt t i).trnMask = 0 ∧ (ddrAt t i).trnBits = 0))) ∧
  (∀ s d ch wrote misread, (ddrAt s (ddrIx d ch)).trnRun = none → exec (.trainHelperDone d ch wrote misread) s = .next s) ∧
  (∀ s d ch rw, let i := ddrIx d ch; let c := ddrAt s i; let unit := c.scrNext
    ddrOk s d ch = true → ddrRuns s c = true → c.st = .active → c.scrEnable = true → dramSound s = true →
    ((List.range 8).all (fun b => !blkBad s d ch (512 * unit + 64 * b))) = true →
    Runs (.ddrScrubRead d ch [] rw) s (fun t => t = { s with ddr := t.ddr } ∧ only i ddrAt s t ∧
      ddrAt t i = { c with scrNext := (if 512 * (unit + 1) < ddrData s d then unit + 1 else 0),
                           tracker := c.tracker.filter (fun p => p.1 / 8 != unit), chk := (ddrAt t i).chk })) ∧
  (∀ s d ch b k rw, let i := ddrIx d ch; let c := ddrAt s i; let off := 512 * c.scrNext + 64 * b
    ddrOk s d ch = true → ddrRuns s c = true → c.st = .active → c.scrEnable = true → dramSound s = true → b < 8 → k < 512 → off < ddrData s d →
    c.tracker = [] → ((List.range 8).all (fun j => !blkBad s d ch (512 * c.scrNext + 64 * j))) = true →
    Runs (.ddrScrubRead d ch [⟨off, 1#512 <<< k, 0⟩] rw) s (fun t =>
      t = { s with ddr := t.ddr, dram := t.dram, dramFlips := t.dramFlips } ∧ only i ddrAt s t ∧ (∀ a, rd t.dram a = rd s.dram a) ∧
      (ddrAt t i).corr = satInc c.corr ∧ (ddrAt t i).eccClass = 1 ∧
      (rw.contains b = false → t.dramFlips = [] ∧ (ddrAt t i).tracker = [(off / 64, 1)]))) ∧
  (∀ s d ch b j k, let i := ddrIx d ch; let c := ddrAt s i; let off := 512 * c.scrNext + 64 * b
    ddrOk s d ch = true → ddrRuns s c = true → c.st = .active → c.scrEnable = true → dramSound s = true → b < 8 → j < k → k < 512 →
    off < ddrData s d → mgtRegion ≤ off → blkBad s d ch off = false → c.faultAt = none →
    ((List.range 8).all (fun j => !blkBad s d ch (512 * c.scrNext + 64 * j))) = true →
    Runs (.ddrScrubRead d ch [⟨off, 1#512 <<< j ^^^ (1#512 <<< k), 0⟩] []) s (fun t => blkBad t d ch off = true ∧
      (ddrAt t i).uncorr = satInc c.uncorr ∧ (ddrAt t i).st = .retrain)) ∧
  (∀ s d ch rw, let c := ddrAt s (ddrIx d ch)
    ddrOk s d ch = false ∨ ddrRuns s c = false ∨ c.st ≠ .active ∨ c.scrEnable = false → exec (.ddrScrubRead d ch [] rw) s = .next s)

/-- R306-R309, R314-R321, R323: classes, reads, upkeep, helpers and scrubbing, as the four statements they are made of say. -/
def Obligations.DramReadsAndUpkeep : Prop := DramClasses ∧ DramReads ∧ DramUpkeep ∧ DramHelpersAndScrub

/-! ### On-chip memory, queues and the fabric (R279-R302, R358-R362) -/

/-- R285: how a read classes an 80-bit code word by its syndromes SR and SC, and the data it delivers; a word of class Poisoned or Uncorrectable is one its
reader marks poisoned. Every error of one bit, in data or check bits, is corrected; none of two data bits is taken for a correctable one. Two errors
of which one lies in a check bit can be taken for a check bit error, or be miscorrected, and three errors may go unseen. -/
def Obligations.ArrayCodeClassesSyndromes : Prop :=
  (∀ w, rcSR w = 0 → rcSC w = 0 → rcRead w = (.clean, w.extractLsb' 0 64)) ∧
  (∀ w i j, i < 8 → j < 8 → rcSR w = 1#8 <<< i → rcSC w = 1#8 <<< j →
    rcRead w = (.corrected, w.extractLsb' 0 64 ^^^ (1#64 <<< (8 * i + j)))) ∧
  (∀ w i, i < 8 → (rcSR w = 1#8 <<< i ∧ rcSC w = 0 ∨ rcSR w = 0 ∧ rcSC w = 1#8 <<< i) → rcRead w = (.checkBit, w.extractLsb' 0 64)) ∧
  (∀ w, rcSR w = 0xFF → rcSC w = 0xFF → (rcRead w).1 = .poisoned) ∧
  (∀ w, ¬ (rcSR w = 0xFF ∧ rcSC w = 0xFF) → (∀ i, i < 8 → rcSR w ≠ 1#8 <<< i) → rcSR w ≠ 0 → (rcRead w).1 = .uncorrectable) ∧
  (∀ w, ¬ (rcSR w = 0xFF ∧ rcSC w = 0xFF) → (∀ i, i < 8 → rcSC w ≠ 1#8 <<< i) → rcSC w ≠ 0 → (rcRead w).1 = .uncorrectable) ∧
  (∀ v k, k < 80 → rcRead (rcEncode v ^^^ (1#80 <<< k)) = (if k < 64 then .corrected else .checkBit, v)) ∧
  (∀ v k l, k < l → l < 64 → (rcRead (rcEncode v ^^^ (1#80 <<< k) ^^^ (1#80 <<< l))).1 = .uncorrectable) ∧
  (∃ v k l, k < 64 ∧ 64 ≤ l ∧ l < 80 ∧ (rcRead (rcEncode v ^^^ (1#80 <<< k) ^^^ (1#80 <<< l))).1 = .checkBit ∧
    (rcRead (rcEncode v ^^^ (1#80 <<< k) ^^^ (1#80 <<< l))).2 ≠ v) ∧
  (∃ v k l, k < l ∧ 64 ≤ l ∧ l < 80 ∧ (rcRead (rcEncode v ^^^ (1#80 <<< k) ^^^ (1#80 <<< l))).1 = .corrected ∧
    (rcRead (rcEncode v ^^^ (1#80 <<< k) ^^^ (1#80 <<< l))).2 ≠ v) ∧
  (∃ v k l m, k < l ∧ l < m ∧ m < 80 ∧ (rcRead (rcEncode v ^^^ (1#80 <<< k) ^^^ (1#80 <<< l) ^^^ (1#80 <<< m))).1 = .clean ∧
    (rcRead (rcEncode v ^^^ (1#80 <<< k) ^^^ (1#80 <<< l) ^^^ (1#80 <<< m))).2 ≠ v)

/-- No block of a die's arrays has a flipped bit. -/
abbrev Sys2Proof.Claims.allSteady (s : State) : Bool := s.flips.isEmpty && s.clauses.all (fun c =>
  c.2.input.all (fun i => i.flips.isEmpty && i.maskFlips.isEmpty) && c.2.lines.all (fun l => l.flips.isEmpty))

/-- R284-R292: a code word reads clean and the poison mark poisoned. The scrubber reads the next block of its walk: it forgets a clean one, counts and writes
back a corrected one, and poisons an uncorrectable one; a block that needs it again after three write-backs has its row repaired. Any reader of a
flipped block counts and corrects it alike. A repaired row leaves the repairs and stands in a spare row; requests that stalled behind it are counted. A
poisoned block with a master copy is written from it, and one without keeps its poison. -/
def Sys2Proof.Claims.ArrayScrubbing : Prop :=
  (∀ v, (rcRead (rcEncode v)).1 = .clean ∧ (rcRead (rcPoison v)).1 = .poisoned) ∧
  (∀ s d rw, let g := scrubAt s d; let b := scanNow s d
    g.enable = true → engineRuns s d = true → allSteady s = true → blockBad s b = false → Runs (.scrubRead d [] rw) s (fun t =>
      t = { s with scrubs := t.scrubs } ∧ only d scrubAt s t ∧
      scrubAt t d = { g with tracker := g.tracker.filter (fun p => p.1 != b), next := scanNext? s d b,
                             passes := if scanNext? s d b = none then g.passes + 1 else g.passes })) ∧
  (∀ s d k rw, let g := scrubAt s d; let b := scanNow s d
    g.enable = true → engineRuns s d = true → dieOk s d = true → allSteady s = true → blockBad s b = false → k < 64 → b.kind = .bank →
    tracked g.tracker b < 3 → Runs (.scrubRead d [(b, 1#80 <<< k)] rw) s (fun t =>
      t = { s with scrubs := t.scrubs, banks := t.banks, memCorr := t.memCorr } ∧ only d scrubAt s t ∧
      (∀ a, rd t.banks a = rd s.banks a) ∧ only (7 * d) memCorrAt s t ∧
      memCorrAt t (7 * d) = { memCorrAt s (7 * d) with corr := satInc (memCorrAt s (7 * d)).corr } ∧
      scrubAt t d = { g with
        writebacks := (if rw then g.writebacks else g.writebacks + 1), tracker := (if rw then g.tracker else trackBack g.tracker b),
        next := scanNext? s d b, passes := (if scanNext? s d b = none then g.passes + 1 else g.passes) })) ∧
  (∀ s d k rw, let g := scrubAt s d; let b := scanNow s d
    g.enable = true → engineRuns s d = true → dieOk s d = true → allSteady s = true → blockBad s b = false → k < 80 → b.kind = .bank →
    tracked g.tracker b = 3 → g.deferred = [] → g.repairing = [] → freeSpares g b ≠ [] → Runs (.scrubRead d [(b, 1#80 <<< k)] rw) s (fun t =>
      (scrubAt t d).repairing = [b] ∧ (scrubAt t d).stuck = satInc g.stuck ∧ (scrubAt t d).full = g.full)) ∧
  (∀ s d j k, let g := scrubAt s d; let b := scanNow s d
    g.enable = true → engineRuns s d = true → dieOk s d = true → allSteady s = true → blockBad s b = false → j < k → k < 64 → b.kind = .bank →
    Runs (.scrubRead d [(b, 1#80 <<< j ^^^ (1#80 <<< k))] false) s (fun t => blockBad t b = true ∧ t.flips = [] ∧
      memCorrAt t (7 * d) = { memCorrAt s (7 * d) with uncorr := satInc (memCorrAt s (7 * d)).uncorr } ∧ (scrubAt t d).tracker = g.tracker)) ∧
  (∀ s d rw, (scrubAt s d).enable = false ∨ engineRuns s d = false → exec (.scrubRead d [] rw) s = .next s) ∧
  (∀ s d a n k b, b.kind = .bank → b.owner = d → s.flips = [(b, 1#80 <<< k)] → k < 64 → s.poison.contains b = false → touchesBlk a n b.blk = true →
    let t := settleRange s .bank d a n
    t = { s with banks := t.banks, flips := t.flips, memCorr := t.memCorr } ∧ (∀ x, rd t.banks x = rd s.banks x) ∧ flipOf t b = 1#80 <<< k ∧
    memCorrAt t (7 * d) = { memCorrAt s (7 * d) with corr := satInc (memCorrAt s (7 * d)).corr }) ∧
  (∀ s d b m, let g := scrubAt s d
    engineRuns s d = true → g.repairing = [b] → g.deferred = [] → repairWaits s b = false → allSteady s = true → b.kind = .bank → m < 69 →
    freeSpares { g with repairing := [] } (rowOfBlk b) ≠ [] → Runs (.rowRepairDone d b [m]) s (fun t =>
      t = { s with scrubs := t.scrubs, conflicts := t.conflicts } ∧ only d scrubAt s t ∧ (scrubAt t d).repaired = satInc g.repaired ∧
      (scrubAt t d).repairing = [] ∧ (scrubAt t d).rows.any (fun p => p.1 == rowOfBlk b) = true ∧
      sget 0 t.conflicts (69 * d + m) = satInc (sget 0 s.conflicts (69 * d + m)) ∧
      ∀ j, j ≠ 69 * d + m → sget 0 t.conflicts j = sget 0 s.conflicts j)) ∧
  (∀ s d b ms, engineRuns s d = false ∨ repairWaits s b = true ∨ ((scrubAt s d).repairing ++ (scrubAt s d).deferred).any (sameRow b) = false →
    exec (.rowRepairDone d b ms) s = .next s) ∧
  (∀ s d b bs, dieLive s d = true → blockOn s d b = true → blockBad s b = true → b.kind = .bank → masterBlock? s b = some bs → bs.length = 8 →
    Runs (.masterRewrite d b) s (fun t => t = { s with banks := t.banks, poison := t.poison, flips := t.flips } ∧ blockBad t b = false ∧
      (∀ j, j < 8 → rd t.banks (2 ^ 23 * d + 8 * b.blk + j) = byteAt bs j) ∧
      ∀ a, a < 2 ^ 23 * d + 8 * b.blk ∨ 2 ^ 23 * d + 8 * b.blk + 8 ≤ a → rd t.banks a = rd s.banks a)) ∧
  (∀ s d b bs, dieLive s d = true → blockOn s d b = true → blockBad s b = true → b.kind ≠ .bank → masterBlock? s b = some bs → bs.length = 8 →
    Runs (.masterRewrite d b) s (fun t => blockBad t b = false ∧ blockData t b = BitVec.ofNat 64 (leNat bs) ∧ t.banks = s.banks ∧ t.tcm = s.tcm)) ∧
  (∀ s d b, dieLive s d = false ∨ blockOn s d b = false ∨ blockBad s b = false ∨ masterBlock? s b = none →
    exec (.masterRewrite d b) s = .next s)

/-- R283, R293-R296, R302: a march test from the host begins with the settings written, or reads STATE where it is not allowed; one in which no row fails ends PASS; a
row with a stuck bit is repaired onto a spare, and, with none left, is reported; a destructive test leaves its bank without contents. A row that yields is counted, with a
conflict of the master it yielded to, and skipped at the sixteenth time. Counters clear as written. -/
def Sys2Proof.Claims.MarchTests : Prop :=
  (∀ s d, arrives s d = true → s.dia.valid = false → let m := marchAt s d
    m.busy = false → m.kind.toNat ≠ 1 ∨ (clauseAt s (clauseIx d m.index.toNat)).powered = true → Runs (.mgtMtCtrlStart d) s (fun t =>
      t = { s with marches := t.marches } ∧ only d marchAt s t ∧ (marchAt t d).failed = 0 ∧ (marchAt t d).untested = 0 ∧ (marchAt t d).yields = 0 ∧
      (marchAt t d).mode = m.mode ∧ (marchAt t d).kind = m.kind ∧ (marchAt t d).index = m.index ∧
      (marchAllowed s d m.kind.toNat m.index.toNat m.mode = true → (marchAt t d).busy = true ∧ (marchAt t d).result = 0 ∧
        (marchAt t d).runMode = m.mode ∧ (marchAt t d).runKind = m.kind ∧ (marchAt t d).runIndex = m.index) ∧
      (marchAllowed s d m.kind.toNat m.index.toNat m.mode = false → (marchAt t d).busy = false ∧ (marchAt t d).result = 4))) ∧
  (∀ s d, arrives s d = true → s.dia.valid = false → let m := marchAt s d; let x := clauseIx d m.index.toNat
    m.busy = false → m.kind = 1 → (clauseAt s x).powered = false → marchAllowed s d 1 m.index.toNat m.mode = true → Runs (.mgtMtCtrlStart d) s (fun t =>
      t = { s with marches := t.marches, clauses := t.clauses } ∧ only x clauseAt s t ∧ clauseAt t x = { clauseAt s x with powered := true } ∧
      (marchAt t d).busy = true ∧ (marchAt t d).powered = some x)) ∧
  (∀ s d, arrives s d = false ∨ s.dia.valid = true ∨ (marchAt s d).busy = true → exec (.mgtMtCtrlStart d) s = .next s) ∧
  (∀ s d, let m := marchAt s d
    m.busy = true → m.runMode = true → m.cmd = none → m.powered = none → s.parked = [] → allSteady s = true → (scrubAt s d).rows = [] →
    Runs (.marchDone d []) s (fun t => t = { s with marches := t.marches, scrubs := t.scrubs } ∧ scrubAt t d = scrubAt s d ∧
      marchAt t d = { m with failed := 0, result := 1, busy := false })) ∧
  (∀ s d (f : StuckBits), let m := marchAt s d; let g := scrubAt s d; let row := rowOfBlk f.blk
    m.busy = true → m.runMode = true → m.cmd = none → m.powered = none → m.skipped = [] → s.parked = [] → allSteady s = true → g.rows = [] →
    f.mask ≠ 0 → f.spare = none → marchTests s d m.runKind.toNat m.runIndex.toNat true row = true →
    (freeSpares g row ≠ [] → Runs (.marchDone d [f]) s (fun t => t = { s with marches := t.marches, scrubs := t.scrubs } ∧
      (scrubAt t d).rows = [(row, (freeSpares g row).headD 0)] ∧ (scrubAt t d).repaired = satInc g.repaired ∧
      marchAt t d = { m with failed := 1, result := 2, busy := false })) ∧
    (freeSpares g row = [] → Runs (.marchDone d [f]) s (fun t => t = { s with marches := t.marches, scrubs := t.scrubs, evqs := t.evqs } ∧
      (scrubAt t d).rows = [] ∧ marchAt t d = { m with failed := 1, result := 3, busy := false }))) ∧
  (∀ s d, let m := marchAt s d
    m.busy = true → m.runMode = false → m.runKind = 0 → m.cmd = none → m.powered = none → s.parked = [] → Runs (.marchDone d []) s (fun t =>
      let inBank (a : Nat) : Bool := a / 2 ^ 23 == d && a % 2 ^ 23 / 2 ^ 18 == m.runIndex.toNat
      t.banks = s.banks.filter (fun p => !inBank p.1) ∧ t.tcm = s.tcm ∧ t.imem = s.imem ∧ (marchAt t d).busy = false ∧
      ∀ b, b.kind = .bank → b.owner = d → b.blk / 32768 = m.runIndex.toNat → blockBad t b = false ∧ flipOf t b = 0)) ∧
  (∀ s d defects, (marchAt s d).busy = false → exec (.marchDone d defects) s = .next s) ∧
  (∀ s d row master, let m := marchAt s d
    m.busy = true → m.runMode = true → marchTests s d m.runKind.toNat m.runIndex.toNat true row = true → row.kind = .bank → master < 69 →
    (m.row ≠ some (rowOfBlk row) ∨ m.rowYields < 15 → Runs (.marchRowRetry d row master) s (fun t =>
      t = { s with marches := t.marches, conflicts := t.conflicts } ∧ only d marchAt s t ∧
      marchAt t d = { m with yields := satInc m.yields, row := some (rowOfBlk row),
                             rowYields := (if m.row = some (rowOfBlk row) then m.rowYields else 0) + 1 } ∧
      sget 0 t.conflicts (69 * d + master) = satInc (sget 0 s.conflicts (69 * d + master)) ∧
      ∀ j, j ≠ 69 * d + master → sget 0 t.conflicts j = sget 0 s.conflicts j)) ∧
    (m.row = some (rowOfBlk row) → 15 ≤ m.rowYields → Runs (.marchRowRetry d row master) s (fun t =>
      t = { s with marches := t.marches, conflicts := t.conflicts } ∧ only d marchAt s t ∧
      marchAt t d = { m with yields := satInc m.yields, untested := satInc m.untested, row := none, rowYields := 0,
                             skipped := m.skipped ++ [rowOfBlk row] }))) ∧
  (∀ s d row master, let m := marchAt s d
    m.busy = true → m.runMode = true → marchTests s d m.runKind.toNat m.runIndex.toNat true row = true → row.kind ≠ .bank →
    Runs (.marchRowRetry d row master) s (fun t => t = { s with marches := t.marches } ∧ only d marchAt s t ∧ (marchAt t d).yields = satInc m.yields)) ∧
  (∀ s d row master, let m := marchAt s d
    m.busy = false ∨ m.runMode = false ∨ marchTests s d m.runKind.toNat m.runIndex.toNat true row = false →
    exec (.marchRowRetry d row master) s = .next s) ∧
  (∀ s d, arrives s d = true → Runs (.bnkCtrlClr d) s (fun t => t = { s with conflicts := t.conflicts } ∧
    ∀ j, sget 0 t.conflicts j = if j / 69 = d then 0 else sget 0 s.conflicts j)) ∧
  (∀ s d q, arrives s d = true → q < 3 → Runs (.evtQCtrlClr d q) s (fun t => t = { s with evqs := t.evqs } ∧ only (3 * d + q) evqAt s t ∧
    evqAt t (3 * d + q) = { evqAt s (3 * d + q) with high := 0, lost := 0 })) ∧
  (∀ s d q, arrives s d = false → exec (.bnkCtrlClr d) s = .next s ∧ exec (.evtQCtrlClr d q) s = .next s)

/-- R283-R296, R302: scrubbing, repair and march tests, as the two statements they are made of say. -/
def Obligations.ArraysScrubAndMarch : Prop := ArrayScrubbing ∧ MarchTests

/-- R297-R301: a queue with room takes an item; a full event, telemetry or trace queue counts the loss, and a full queue of the others holds its producer. A pop
takes the oldest: a command reaches the firmware, a trace entry leaves, an input word lands in its record frame, an output word in its ring slot. A push in the
cycle of a pop takes the freed slot. A damaged word is handled as its queue's row of R300 gives. -/
def Sys2Proof.Claims.QueueItems : Prop :=
  (∀ s c b, c < 4 → classRoom s c = true → b.length = 64 → exec (.queuePush (.command (.ring c)) (.bytes b)) s =
    .next { s with cmdq := s.cmdq ++ [⟨.ring c, b⟩] }) ∧
  (∀ s c b, c < 4 → classRoom s c = false → exec (.queuePush (.command (.ring c)) (.bytes b)) s = .next s) ∧
  (∀ s d n b, (n = 1 ∨ n = 2) → let x := evqAt s (3 * d + n)
    let q : QRef := if n = 1 then .telemetry d else .trace d
    x.items.length < evqDepth n → Runs (.queuePush q (.bytes b)) s (fun t => t = { s with evqs := t.evqs } ∧ only (3 * d + n) evqAt s t ∧
      (evqAt t (3 * d + n)).items = x.items ++ [.bytes b] ∧ (evqAt t (3 * d + n)).lost = x.lost ∧
      (x.items.length < 512 → (evqAt t (3 * d + n)).high.toNat = max x.high.toNat (x.items.length + 1)))) ∧
  (∀ s d e, let x := evqAt s (3 * d)
    x.items.length < 512 → Runs (.queuePush (.event d) (.entry e)) s (fun t => t = { s with evqs := t.evqs } ∧ only (3 * d) evqAt s t ∧
      (evqAt t (3 * d)).items = x.items ++ [.entry e] ∧ (evqAt t (3 * d)).lost = x.lost)) ∧
  (∀ s d n it, n < 3 → let x := evqAt s (3 * d + n)
    let q : QRef := if n = 0 then .event d else if n = 1 then .telemetry d else .trace d
    evqDepth n ≤ x.items.length → (n = 0 ∧ ∃ e, it = .entry e) ∨ (n ≠ 0 ∧ ∃ b, it = .bytes b) → Runs (.queuePush q it) s (fun t =>
      t = { s with evqs := t.evqs } ∧ only (3 * d + n) evqAt s t ∧
      evqAt t (3 * d + n) = { x with ovf := true, lost := satInc x.lost, lostNew := x.lostNew + 1 })) ∧
  (∀ s ci w, let i := cellIx ci; let c := cellAt s i
    exec (.queuePush (.cellIn ci) (.word w)) s = .next (if c.inq.length < queueDepth s 0x01 ci.die then
      setCell s i { c with inq := c.inq ++ [{ q := (nextInWord s ci).1, ix := (nextInWord s ci).2, w := w }] } else s)) ∧
  (∀ s ci w, let i := cellIx ci; let c := cellAt s i
    (∀ g, c.cur = some g → exec (.queuePush (.cellOut ci) (.word w)) s = .next (if c.outq.length < queueDepth s 0x02 ci.die then
      setCell s i { c with outq := c.outq ++ [(g.q, g.pushed, w)], cur := some { g with pushed := g.pushed + 1 } } else s)) ∧
    (c.cur = none → exec (.queuePush (.cellOut ci) (.word w)) s = .next s)) ∧
  (∀ s ci v, let i := cellIx ci; let c := cellAt s i
    (portTakes s ci.die c.portR = true → exec (.queuePush (.cellPort ci true) (.vec v)) s = .next (setCell s i { c with portR := c.portR ++ [v] })) ∧
    (portTakes s ci.die c.portL = true → exec (.queuePush (.cellPort ci false) (.vec v)) s = .next (setCell s i { c with portL := c.portL ++ [v] }))) ∧
  (∀ s ci right v, portTakes s ci.die (if right then (cellAt s (cellIx ci)).portR else (cellAt s (cellIx ci)).portL) = false →
    exec (.queuePush (.cellPort ci right) (.vec v)) s = .next s) ∧
  (∀ s d k right v, let x := clauseIx d k
    exec (.queuePush (.halo d k right) (.vec v)) s = .next (if haloLoad s x right < haloRoom s x right then haloPush s x right v else s)) ∧
  (∀ s d p b, let n := portAt s (4 * d + p)
    exec (.queuePush (.ingress d p) (.bytes b)) s = .next (if n.ingress.length < queueDepth s 0x05 d then
      setPort s (4 * d + p) { n with ingress := n.ingress ++ [⟨32, d, BitVec.ofNat 64 (leAt b 0 8), b.drop 8⟩] } else s)) ∧
  (∀ s src e, fwRuns s = true → topEntry? s.cmdq = some e → Runs (.queuePop (.command src) none []) s (fun t =>
    t = { s with cmdq := s.cmdq.eraseP (fun x => x == e), popped := s.popped ++ [e] })) ∧
  (∀ s src e, fwRuns s = true → topEntry? s.cmdq = some e → Runs (.queuePop (.command src) none [3]) s (fun t =>
    t = { s with cmdq := s.cmdq.eraseP (fun x => x == e), popped := s.popped ++ [{ e with bytes := [] }], memCorr := t.memCorr } ∧
    memCorrAt t 6 = { memCorrAt s 6 with uncorr := satInc (memCorrAt s 6).uncorr })) ∧
  (∀ q e, topEntry? q = some e → e ∈ q ∧ ∀ f, f ∈ q → Src.cls f.src < 4 → Src.cls e.src ≤ Src.cls f.src) ∧
  (∀ s src flips, fwRuns s = false ∨ topEntry? s.cmdq = none → exec (.queuePop (.command src) none flips) s = .next s) ∧
  (∀ s d it rest, let x := evqAt s (3 * d + 2)
    x.items = it :: rest → x.lostNew = 0 → Runs (.queuePop (.trace d) none []) s (fun t => t = { s with evqs := t.evqs } ∧
      only (3 * d + 2) evqAt s t ∧ evqAt t (3 * d + 2) = { x with items := rest })) ∧
  (∀ s d it rest b, let x := evqAt s (3 * d + 2)
    x.items = it :: rest → x.lostNew = 0 → x.items.length = 256 → Runs (.queuePop (.trace d) (some (.bytes b)) []) s (fun t =>
      t = { s with evqs := t.evqs } ∧ only (3 * d + 2) evqAt s t ∧ (evqAt t (3 * d + 2)).items = rest ++ [.bytes b] ∧
      (evqAt t (3 * d + 2)).lost = x.lost ∧ (evqAt t (3 * d + 2)).ovf = x.ovf)) ∧
  (∀ s d it rest, let x := evqAt s (3 * d + 2)
    x.items = it :: rest → 512 ≤ (evqAt s (3 * d)).items.length → Runs (.queuePop (.trace d) none [3]) s (fun t =>
      (evqAt t (3 * d + 2)).items = rest ∧ (evqAt t (3 * d + 2)).lost = satInc x.lost ∧
      memCorrAt t (7 * d + 6) = { memCorrAt s (7 * d + 6) with uncorr := satInc (memCorrAt s (7 * d + 6)).uncorr })) ∧
  (∀ s ci w ws f, let i := cellIx ci; let c := cellAt s i; let n := rlen (clauseRow s (i / 16))
    c.inq = w :: ws → c.frame = some f → (sget 0 c.recWords w.q).getLsbD w.ix = false → frameFree (clauseAt s (i / 16)) f.k w.q = true →
    (f.base n w.q + 8 * w.ix) % 8 = 0 → w.poisoned = false → s.flips = [] →
    Runs (.queuePop (.cellIn ci) none []) s (fun t => (cellAt t i).inq = ws ∧
      (∀ j, j < 8 → rd t.dmem (16384 * i + f.base n w.q + 8 * w.ix + j) = byteAt (natLE 8 w.w.toNat) j) ∧
      (∀ a, a < 16384 * i + f.base n w.q + 8 * w.ix ∨ 16384 * i + f.base n w.q + 8 * w.ix + 8 ≤ a → rd t.dmem a = rd s.dmem a) ∧
      poisoned t .cellData i ((f.base n w.q + 8 * w.ix) / 8) = false)) ∧
  (∀ s ci w ws l flips, let i := cellIx ci; let c := cellAt s i
    c.outq = w :: ws → (clauseAt s (i / 16)).lineQ? w.1 = some l → l.st = .filling → w.2.1 < 7 → flips = [] ∨ flips = [3#72] →
    Runs (.queuePop (.cellOut ci) none flips) s (fun t => (cellAt t i).outq = ws ∧
      (clauseAt t (i / 16)).lines.any (fun m => m.line == l.line && sget 0 m.codes (8 * (i % 16) + w.2.1) == w.2.2 &&
        m.poison.contains (8 * (i % 16) + w.2.1) == !flips.isEmpty) = true)) ∧
  (∀ s ci right, exec (.queuePop (.cellPort ci right) none []) s = .next s) ∧
  (∀ s d k right, exec (.queuePop (.halo d k right) none []) s = .next s) ∧
  (∀ s ci right flips, (if right then (cellAt s (cellIx ci)).portR else (cellAt s (cellIx ci)).portL) = [] →
    exec (.queuePop (.cellPort ci right) none flips) s = .next s) ∧
  (∀ s d p flips, (portAt s (4 * d + p)).ingress = [] ∨ hasForward s d = false → exec (.queuePop (.ingress d p) none flips) s = .next s) ∧
  (∀ s d p b rest, let n := portAt s (4 * d + p)
    n.ingress = b :: rest → hasForward s d = true → dramWaits s d b.addr.toNat b.data.length = false → b.addr.toNat + b.data.length ≤ dramEnd s d →
    Runs (.queuePop (.ingress d p) none []) s (fun t =>
      t = { s with ports := t.ports, dram := t.dram, dramPoison := t.dramPoison, dramFlips := t.dramFlips, ddr := t.ddr } ∧
      only (4 * d + p) portAt s t ∧ portAt t (4 * d + p) = { n with ingress := rest } ∧ t.dram = (dramWr s d b.addr.toNat b.data).dram))

/-- A group of a packet is the bytes that its CRC-16 covers. -/
abbrev Sys2Proof.Claims.groupsGood (gs : List (List Byte × BitVec 16)) : Bool := gs.all (fun g => crc16 g.1 == g.2)

/-- The groups begin with one that fails its CRC. -/
abbrev Sys2Proof.Claims.firstBad (gs : List (List Byte × BitVec 16)) : Bool := gs.head?.any (fun g => crc16 g.1 != g.2)

/-- R358-R362: a packet with a bad group is asked for again, and after eight failed replays of one group the port retrains. A good packet is the next of its class that
waits at the peer; at the last die of its way a halo vector enters its queue, a heartbeat is noted and a block burst waits for the FORWARD channel, and
elsewhere it waits for its next hop. A retrained port is up again; a second failure in a row takes it down with its peer, and what has that hop ahead is
lost. -/
def Sys2Proof.Claims.FabricPackets : Prop :=
  (∀ s d p gs pkt, dieOk s d = true → p < 4 → let n := portAt s (4 * d + p)
    n.st = .up → firstBad gs = true → n.groupReplays < 8 → Runs (.fabricPacketReceive d p gs pkt) s (fun t =>
      t = { s with ports := t.ports, out := .fabricReplay d p :: s.out } ∧ only (4 * d + p) portAt s t ∧
      portAt t (4 * d + p) = { n with replays := satInc n.replays, groupReplays := n.groupReplays + 1 })) ∧
  (∀ s d p gs pkt, dieOk s d = true → p < 4 → let n := portAt s (4 * d + p)
    n.st = .up → groupsGood gs = false → firstBad gs = false → Runs (.fabricPacketReceive d p gs pkt) s (fun t =>
      t = { s with ports := t.ports, out := .fabricReplay d p :: s.out } ∧ only (4 * d + p) portAt s t ∧
      portAt t (4 * d + p) = { n with replays := satInc n.replays, groupReplays := 1 })) ∧
  (∀ s d p gs pkt, dieOk s d = true → p < 4 → let n := portAt s (4 * d + p)
    n.st = .up → firstBad gs = true → n.groupReplays = 8 → Runs (.fabricPacketReceive d p gs pkt) s (fun t =>
      t = { s with ports := t.ports } ∧ only (4 * d + p) portAt s t ∧
      portAt t (4 * d + p) = { n with st := .train, retrains := satInc n.retrains, groupReplays := 0 })) ∧
  (∀ s d p gs pkt e r, dieOk s d = true → p < 4 → let n := portAt s (4 * d + p)
    n.st = .up → groupsGood gs = true → peerPort? s.part.dies d p = some (e, r) → s.fabric = [] → Runs (.fabricPacketReceive d p gs pkt) s (fun t =>
      t = { s with ports := t.ports } ∧ (4 * e + r ≠ 4 * d + p → portAt t (4 * d + p) = { n with groupReplays := 0 } ∧
        portAt t (4 * e + r) = { portAt s (4 * e + r) with sent := (portAt s (4 * e + r)).sent + 1 }))) ∧
  (∀ s p gs e a r, dieOk s 0 = true → p < 4 → (portAt s p).st = .up → groupsGood gs = true → peerPort? s.part.dies 0 p = some (a, r) →
    s.fabric = [⟨a, none, [0], .beat e⟩] → Runs (.fabricPacketReceive 0 p gs (.heartbeat e)) s (fun t =>
      t = { s with ports := t.ports, mgt := t.mgt, fabric := [] } ∧ mgtAt t e = { mgtAt s e with lastBeat := s.tb } ∧ only e mgtAt s t)) ∧
  (∀ s d p gs k v a r right via, dieOk s d = true → p < 4 → (portAt s (4 * d + p)).st = .up → groupsGood gs = true →
    peerPort? s.part.dies d p = some (a, r) → s.fabric = [⟨a, via, [d], .halo k right v⟩] →
    Runs (.fabricPacketReceive d p gs (.halo d k right v)) s (fun t =>
      let c := clauseAt s (clauseIx d k)
      t = { s with ports := t.ports, clauses := t.clauses, fabric := [] } ∧ only (clauseIx d k) clauseAt s t ∧
      clauseAt t (clauseIx d k) = if right then { c with haloR := c.haloR ++ [v] } else { c with haloL := c.haloL ++ [v] })) ∧
  (∀ s d p gs b a r, dieOk s d = true → p < 4 → (portAt s (4 * d + p)).st = .up → groupsGood gs = true → peerPort? s.part.dies d p = some (a, r) →
    s.fabric = [⟨a, none, [d], .block b⟩] → (portAt s (4 * d + p)).ingress.length < queueDepth s 0x05 d →
    4 * a + r ≠ 4 * d + p → Runs (.fabricPacketReceive d p gs (.block b.addr b.data)) s (fun t =>
      t = { s with ports := t.ports, fabric := [] } ∧
      portAt t (4 * d + p) = { portAt s (4 * d + p) with groupReplays := 0, ingress := (portAt s (4 * d + p)).ingress ++ [b] })) ∧
  (∀ s d p gs b a r nxt more, dieOk s d = true → p < 4 → (portAt s (4 * d + p)).st = .up → groupsGood gs = true →
    peerPort? s.part.dies d p = some (a, r) → s.fabric = [⟨a, none, d :: nxt :: more, .block b⟩] →
    (portAt s (4 * d + p)).ingress.length < queueDepth s 0x05 d →
    Runs (.fabricPacketReceive d p gs (.block b.addr b.data)) s (fun t =>
      t = { s with ports := t.ports, fabric := [⟨d, some p, nxt :: more, .block b⟩] })) ∧
  (∀ s d p gs pkt, dieOk s d = false ∨ 4 ≤ p ∨ (portAt s (4 * d + p)).st ≠ .up → exec (.fabricPacketReceive d p gs pkt) s = .next s) ∧
  (∀ s d p, dieOk s d = true → p < 4 → let n := portAt s (4 * d + p)
    n.st = .train → Runs (.portRetrainDone d p true) s (fun t => t = { s with ports := t.ports } ∧ only (4 * d + p) portAt s t ∧
      portAt t (4 * d + p) = { n with st := .up, fails := 0 })) ∧
  (∀ s d p, dieOk s d = true → p < 4 → let n := portAt s (4 * d + p)
    n.st = .train → n.fails = 0 → Runs (.portRetrainDone d p false) s (fun t => t = { s with ports := t.ports } ∧ only (4 * d + p) portAt s t ∧
      portAt t (4 * d + p) = { n with fails := 1, retrains := satInc n.retrains })) ∧
  (∀ s d p e r, dieOk s d = true → p < 4 → let n := portAt s (4 * d + p)
    n.st = .train → n.fails ≠ 0 → peerPort? s.part.dies d p = some (e, r) → s.gram.routes = [] → Runs (.portRetrainDone d p false) s (fun t =>
      t = { s with ports := t.ports, fabric := s.fabric.filter (fun f => !f.crosses d e) } ∧
      (portAt t (4 * d + p)).st = .down ∧ (portAt t (4 * e + r)).st = .down ∧
      ∀ j, j ≠ 4 * d + p → j ≠ 4 * e + r → portAt t j = portAt s j)) ∧
  (∀ s d p e r (w : Route), dieOk s d = true → p < 4 → let n := portAt s (4 * d + p)
    n.st = .train → n.fails ≠ 0 → peerPort? s.part.dies d p = some (e, r) → s.gram.routes = [w] → usesHop w d e = true →
    Runs (.portRetrainDone d p false) s (fun t => (portAt t (4 * d + p)).st = .down ∧ w.id ∈ t.lostRoutes)) ∧
  (∀ s d p ok, dieOk s d = false ∨ 4 ≤ p ∨ (portAt s (4 * d + p)).st ≠ .train → exec (.portRetrainDone d p ok) s = .next s)

/-- R297-R301, R335, R358-R362: queues and the fabric, as the two statements they are made of say. -/
def Obligations.QueuesAndFabricDeliver : Prop := QueueItems ∧ FabricPackets

/-! ### What every command keeps -/

/-- Fuses are only ever set (R53, R56): a slot's programmed and revoked bits and the rollback counter never go back, and the key of a programmed slot
never changes. -/
def Sys2Proof.Claims.fusesGrow (s t : State) : Prop :=
  (∀ k, s.fuses.programmed.getLsbD k = true → t.fuses.programmed.getLsbD k = true ∧ sget [] t.fuses.keys k = sget [] s.fuses.keys k) ∧
  (∀ k, s.fuses.revoked.getLsbD k = true → t.fuses.revoked.getLsbD k = true) ∧ s.fuses.rollback.toNat ≤ t.fuses.rollback.toNat

/-- Every step keeps the canonical form of the byte memories: die banks, TCM, DRAM, cell data SRAM and flash. -/
def Obligations.StepKeepsMemoryForm : Prop := ∀ s t, s.memOk = true → step s = .next t → t.memOk = true

/-- Every key operation at the fuses carries a VALUE that the rollback counter can hold. -/
def Sys2Proof.Claims.keyValuesFit (s : State) : Bool :=
  s.parked.all (fun p => match p with | .keyOp _ _ _ value _ => decide (value ≤ 63) | _ => true)

/-- No step, whatever the command, clears a fuse or changes a programmed key, while the key operations at the fuses carry values the counter
can hold; and every step keeps them so. -/
def Obligations.StepNeverClearsFuses : Prop := ∀ s t, keyValuesFit s = true → step s = .next t → fusesGrow s t ∧ keyValuesFit t = true

/-- The one command whose effect the spec leaves to a patch: an opcode of the patch range that the patch running defines (R381, R408). -/
abbrev Sys2Proof.Claims.leftToPatch (s : State) : Instr → Bool
  | .patchCommand _ op => s.boot.patch != 0 && decide (0x0F00 ≤ op.toNat ∧ op.toNat ≤ 0x0FFF) && Config.patchDefines s.boot.image op
  | _ => false

/-- No command changes the queue of the commands that wait: a step takes the front one and leaves the rest. Every command completes in every
state, whatever its operands, save one whose opcode the patch running defines: what such a command does is the patch's. -/
def Obligations.StepTakesOnlyTheFront : Prop :=
  (∀ s t, step s = .next t → t.pending = s.pending.tail) ∧
  (∀ c s, leftToPatch s c = false → Runs c s (fun t => t.pending = s.pending))

/-- R70, R302, R323, R346, R347, R371, R460, R461, R480: right after power-on reset the registers whose reset value is not 0 read as their tables give it, in every die's
window or in die 0's; the timebase stands at 0 and no command waits. The memories are in canonical form. -/
def Obligations.ResetLeavesTheGivenValues : Prop :=
  State.reset.memOk = true ∧ keyValuesFit State.reset = true ∧ State.reset.tb = 0 ∧ State.reset.pending = [] ∧
  (∀ c, c < 4 → readReg State.reset 0 (0x8008 + 0x40 * c) = 0x40000004 ∧ readReg State.reset 0 (0x8028 + 0x40 * c) = 0x40010004 ∧
    readReg State.reset 0 (0x8030 + 0x40 * c) = 0x10000) ∧
  readReg State.reset 0 0x204 = 0xFFFF ∧ readReg State.reset 0 0x20744 = 0x39 ∧ readReg State.reset 0 0x30014 = 0x0220003C ∧
  (∀ d, readReg State.reset d 0x1B004 = 0xFFFFFFFF ∧ readReg State.reset d 0x20520 = 0x01000001 ∧ readReg State.reset d 0x20740 = 0x00800069) ∧
  (∀ d ch, ch < 2 → readReg State.reset d (0x1C000 + 0x100 * ch) = 0x00200000 ∧ readReg State.reset d (0x1C008 + 0x100 * ch) = 0x80740104 ∧
    readReg State.reset d (0x1C00C + 0x100 * ch) = 0x1802 ∧ readReg State.reset d (0x1C018 + 0x100 * ch) = 0x04000001)

/-! ### Statements that gather several of the above -/

/-- The firmware's shared checks run in order, and a Long command finds BUSY while 64 are parked. -/
def Obligations.CommandsAreChecked : Prop := CommandChecksInOrder ∧ LongCommandBusyAt64Parked

/-- A result becomes the next entry of its completion ring, or the mailbox's result. -/
def Obligations.ResultsArePosted : Prop := CompletionEntryPosted ∧ MailboxResultDone

/-- NOP, IDENTIFY, POWER and RESET have their effects; an undefined opcode and a damaged entry complete as such. -/
def Obligations.SystemCommandsRun : Prop := SystemCommandsComplete ∧ BadOpcodeAndDamaged

/-- DIALECT_SELECT and DIALECT_INFO have their effects; a key operation that passes its checks sets the fuses. -/
def Obligations.DialectAndKeyCommandsRun : Prop := DialectCommandsComplete ∧ KeyOpsProgramFuses

/-- A load places its blocks, supersedes those of the same identity, and goes on once the page cache has room. -/
def Obligations.LoadsPlaceBlocks : Prop := LoadBlocksCompletes ∧ PlacedBlockSupersedes ∧ LoadResumeFillsCache

/-- Blocks move whole; bands are fetched granule by granule, with their overlays, and forfeit the mark at the rewind guard. -/
def Obligations.BlocksMoveAndBandsAreFetched : Prop := BlockMoveCopies ∧ BandFetchCompletes ∧ OverlayFetchResumes ∧ RewindGuardForfeitsMark

/-- A job stops, closes and is reported. -/
def Obligations.JobsStopCloseAndReport : Prop := JobStopCompletes ∧ JobCloseLeaves ∧ ReportAndStatusComplete

/-- A parameter package is applied whole or not at all, and an applied record is held. -/
def Obligations.ParameterRecordsAreApplied : Prop := ParamWriteAllOrNone ∧ AppliedRecordIsHeld

/-- PARAM_READ, the nozzle commands and DDR_TUNE have their effects. -/
def Obligations.ConfigurationIsTuned : Prop := ConfigurationCommandsComplete ∧ DdrTuneFields

/-- The flash and test commands have their effects. -/
def Obligations.FlashAndTestCommandsRun : Prop := FlashCommandsComplete ∧ TestCommandsComplete

/-- A service starts its sequence, its steps run, and a spit ends. -/
def Obligations.ServicesRunTheirSteps : Prop := ServicesStartTheirSteps ∧ ServiceStepsRun ∧ SpitTicksRun

/-- Axes move by ticks and counts, and answer their inputs. -/
def Obligations.AxesMoveAndAnswer : Prop := AxisTicksAndCounts ∧ AxisInputsTakeEffect

/-- Rings are enabled and disabled, and doorbells move their pointers. -/
def Obligations.RingsOpenAndRing : Prop := DoorbellsMovePointers ∧ RingsEnableAndDisable

/-- SMBus, the service UART and the JTAG chain answer. -/
def Obligations.SidebandAnswers : Prop := SmbusCodes ∧ UartFrames ∧ JtagChain

/-- Registers read back what their fields hold, and clear bits clear their counters. -/
def Obligations.RegistersReadBackAndClear : Prop := RegistersReadBack ∧ ClearBitsClearCounters
end

