-- ==== Sys2Proof/Laws/Crypto.lean ====
section
/-! SUPPORT. Ed25519 under a key of order one: the identity point, which every factor leaves in place (R54, R386). -/

namespace Sys2Proof.Machine

/-- The identity point, at any scale. -/
def edZero (z : Nat) : EdPoint := ⟨0, z, z, 0⟩

/-- The sum of two identity points is one. -/
theorem edAdd_zero (z w : Nat) : ∃ v, edAdd (edZero z) (edZero w) = edZero v := by
  have hb : edSub z 0 * edSub w 0 % edP = z * w % edP := by simp [edSub, edP, Nat.mul_mod]
  have he : edSub (z * w % edP) (z * w % edP) = 0 := by
    have hlt : z * w % edP < edP := Nat.mod_lt _ (by decide)
    unfold edSub
    rw [Nat.mod_eq_of_lt hlt, Nat.add_sub_cancel' (Nat.le_of_lt hlt), Nat.mod_self]
  refine ⟨2 * z * w % edP * (2 * z * w % edP) % edP, ?_⟩
  have hg : (z * w % edP + z * w % edP) % edP = 2 * z * w % edP := by
    rw [← Nat.add_mod, Nat.mul_assoc, Nat.two_mul]
  have hf : edSub (2 * z * w % edP) 0 = 2 * z * w % edP := by simp [edSub, edP]
  simp [edAdd, edZero, hb, he, hg, hf]

/-- A multiple of the identity point is one. -/
theorem edMul_zero (n : Nat) : ∀ k z, ∃ v, edMul k (edZero z) n = edZero v := by
  induction n with
  | zero => exact fun _ _ => ⟨1, rfl⟩
  | succ n ih =>
    intro k z
    obtain ⟨v, hv⟩ := edAdd_zero z z
    obtain ⟨w, hw⟩ := ih (k / 2) v
    obtain ⟨u, hu⟩ := edAdd_zero z w
    simp only [edMul, hv, hw]
    split
    · exact ⟨u, hu⟩
    · exact ⟨w, rfl⟩

/-- No multiple of a point is the identity. -/
theorem edMul_none (n : Nat) : ∀ p, edMul 0 p n = edZero 1 := by
  induction n with
  | zero => exact fun _ => rfl
  | succ n ih => intro p; simp [edMul, ih]

/-- The identity point's 32 bytes. -/
def edZeroBytes : List Byte := 1 :: List.replicate 31 0

theorem edPoint_zero : edPoint? edZeroBytes = some (edZero 1) := by decide +kernel

/-- Under the key of order one, the signature of the identity point and 0 verifies for every message. -/
theorem edVerify_zero (msg : List Byte) : edVerify edZeroBytes msg (edZeroBytes ++ List.replicate 32 0) = true := by
  have hr : slice (edZeroBytes ++ List.replicate 32 0) 0 32 = edZeroBytes := by decide
  have hs : leNat (slice (edZeroBytes ++ List.replicate 32 0) 32 32) = 0 := by decide
  obtain ⟨v, hv⟩ := edMul_zero 4 8 1
  obtain ⟨w, hw⟩ := edMul_zero 256 (8 * (leNat (sha512 (edZeroBytes ++ (edZeroBytes ++ msg))) % edL)) 1
  obtain ⟨u, hu⟩ := edAdd_zero v w
  unfold edVerify
  simp only [hr, hs, edPoint_zero, Nat.mul_zero, edMul_none, hv, hw, hu]
  simp [edEq, edZero, edL]

theorem sigOk_zero (msg : List Byte) : sigOk edZeroBytes msg (edZeroBytes ++ List.replicate 32 0) = true := edVerify_zero _

end Sys2Proof.Machine
end

