-- ==== Sys2Proof/Laws/State.lean ====
section
/-! SUPPORT. What each update of State leaves alone: one lemma per field and update. -/

namespace Sys2Proof.Machine

/-! ### setClause -/

@[simp] theorem setClause_pending (s : State) (x : Nat) (c : Clause) : (setClause s x c).pending = s.pending := rfl
@[simp] theorem setClause_out (s : State) (x : Nat) (c : Clause) : (setClause s x c).out = s.out := rfl
@[simp] theorem setClause_free (s : State) (x : Nat) (c : Clause) : (setClause s x c).free = s.free := rfl
@[simp] theorem setClause_part (s : State) (x : Nat) (c : Clause) : (setClause s x c).part = s.part := rfl
@[simp] theorem setClause_fuses (s : State) (x : Nat) (c : Clause) : (setClause s x c).fuses = s.fuses := rfl
@[simp] theorem setClause_dia (s : State) (x : Nat) (c : Clause) : (setClause s x c).dia = s.dia := rfl
@[simp] theorem setClause_load (s : State) (x : Nat) (c : Clause) : (setClause s x c).load = s.load := rfl
@[simp] theorem setClause_gram (s : State) (x : Nat) (c : Clause) : (setClause s x c).gram = s.gram := rfl
@[simp] theorem setClause_params (s : State) (x : Nat) (c : Clause) : (setClause s x c).params = s.params := rfl
@[simp] theorem setClause_pages (s : State) (x : Nat) (c : Clause) : (setClause s x c).pages = s.pages := rfl
@[simp] theorem setClause_blocks (s : State) (x : Nat) (c : Clause) : (setClause s x c).blocks = s.blocks := rfl
@[simp] theorem setClause_closed (s : State) (x : Nat) (c : Clause) : (setClause s x c).closed = s.closed := rfl
@[simp] theorem setClause_comps (s : State) (x : Nat) (c : Clause) : (setClause s x c).comps = s.comps := rfl
@[simp] theorem setClause_cells (s : State) (x : Nat) (c : Clause) : (setClause s x c).cells = s.cells := rfl
@[simp] theorem setClause_slotMap (s : State) (x : Nat) (c : Clause) : (setClause s x c).slotMap = s.slotMap := rfl
@[simp] theorem setClause_imem (s : State) (x : Nat) (c : Clause) : (setClause s x c).imem = s.imem := rfl
@[simp] theorem setClause_dmem (s : State) (x : Nat) (c : Clause) : (setClause s x c).dmem = s.dmem := rfl
@[simp] theorem setClause_banks (s : State) (x : Nat) (c : Clause) : (setClause s x c).banks = s.banks := rfl
@[simp] theorem setClause_tcm (s : State) (x : Nat) (c : Clause) : (setClause s x c).tcm = s.tcm := rfl
@[simp] theorem setClause_dram (s : State) (x : Nat) (c : Clause) : (setClause s x c).dram = s.dram := rfl
@[simp] theorem setClause_flash (s : State) (x : Nat) (c : Clause) : (setClause s x c).flash = s.flash := rfl
@[simp] theorem setClause_poison (s : State) (x : Nat) (c : Clause) : (setClause s x c).poison = s.poison := rfl
@[simp] theorem setClause_flips (s : State) (x : Nat) (c : Clause) : (setClause s x c).flips = s.flips := rfl
@[simp] theorem setClause_dramPoison (s : State) (x : Nat) (c : Clause) : (setClause s x c).dramPoison = s.dramPoison := rfl
@[simp] theorem setClause_dramFlips (s : State) (x : Nat) (c : Clause) : (setClause s x c).dramFlips = s.dramFlips := rfl
@[simp] theorem setClause_dramHeld (s : State) (x : Nat) (c : Clause) : (setClause s x c).dramHeld = s.dramHeld := rfl
@[simp] theorem setClause_disabled (s : State) (x : Nat) (c : Clause) : (setClause s x c).disabled = s.disabled := rfl
@[simp] theorem setClause_curves (s : State) (x : Nat) (c : Clause) : (setClause s x c).curves = s.curves := rfl
@[simp] theorem setClause_gains (s : State) (x : Nat) (c : Clause) : (setClause s x c).gains = s.gains := rfl
@[simp] theorem setClause_scrubs (s : State) (x : Nat) (c : Clause) : (setClause s x c).scrubs = s.scrubs := rfl
@[simp] theorem setClause_marches (s : State) (x : Nat) (c : Clause) : (setClause s x c).marches = s.marches := rfl
@[simp] theorem setClause_evqs (s : State) (x : Nat) (c : Clause) : (setClause s x c).evqs = s.evqs := rfl
@[simp] theorem setClause_conflicts (s : State) (x : Nat) (c : Clause) : (setClause s x c).conflicts = s.conflicts := rfl
@[simp] theorem setClause_memCorr (s : State) (x : Nat) (c : Clause) : (setClause s x c).memCorr = s.memCorr := rfl
@[simp] theorem setClause_ddr (s : State) (x : Nat) (c : Clause) : (setClause s x c).ddr = s.ddr := rfl
@[simp] theorem setClause_dma (s : State) (x : Nat) (c : Clause) : (setClause s x c).dma = s.dma := rfl
@[simp] theorem setClause_dmaDie (s : State) (x : Nat) (c : Clause) : (setClause s x c).dmaDie = s.dmaDie := rfl
@[simp] theorem setClause_tb (s : State) (x : Nat) (c : Clause) : (setClause s x c).tb = s.tb := rfl
@[simp] theorem setClause_sync (s : State) (x : Nat) (c : Clause) : (setClause s x c).sync = s.sync := rfl
@[simp] theorem setClause_encs (s : State) (x : Nat) (c : Clause) : (setClause s x c).encs = s.encs := rfl
@[simp] theorem setClause_rows (s : State) (x : Nat) (c : Clause) : (setClause s x c).rows = s.rows := rfl
@[simp] theorem setClause_heads (s : State) (x : Nat) (c : Clause) : (setClause s x c).heads = s.heads := rfl
@[simp] theorem setClause_groups (s : State) (x : Nat) (c : Clause) : (setClause s x c).groups = s.groups := rfl
@[simp] theorem setClause_links (s : State) (x : Nat) (c : Clause) : (setClause s x c).links = s.links := rfl
@[simp] theorem setClause_lanes (s : State) (x : Nat) (c : Clause) : (setClause s x c).lanes = s.lanes := rfl
@[simp] theorem setClause_eyes (s : State) (x : Nat) (c : Clause) : (setClause s x c).eyes = s.eyes := rfl
@[simp] theorem setClause_fences (s : State) (x : Nat) (c : Clause) : (setClause s x c).fences = s.fences := rfl
@[simp] theorem setClause_hcFences (s : State) (x : Nat) (c : Clause) : (setClause s x c).hcFences = s.hcFences := rfl
@[simp] theorem setClause_job (s : State) (x : Nat) (c : Clause) : (setClause s x c).job = s.job := rfl
@[simp] theorem setClause_sqs (s : State) (x : Nat) (c : Clause) : (setClause s x c).sqs = s.sqs := rfl
@[simp] theorem setClause_cqs (s : State) (x : Nat) (c : Clause) : (setClause s x c).cqs = s.cqs := rfl
@[simp] theorem setClause_cmdq (s : State) (x : Nat) (c : Clause) : (setClause s x c).cmdq = s.cmdq := rfl
@[simp] theorem setClause_popped (s : State) (x : Nat) (c : Clause) : (setClause s x c).popped = s.popped := rfl
@[simp] theorem setClause_parked (s : State) (x : Nat) (c : Clause) : (setClause s x c).parked = s.parked := rfl
@[simp] theorem setClause_mbox (s : State) (x : Nat) (c : Clause) : (setClause s x c).mbox = s.mbox := rfl
@[simp] theorem setClause_smb (s : State) (x : Nat) (c : Clause) : (setClause s x c).smb = s.smb := rfl
@[simp] theorem setClause_uartMb (s : State) (x : Nat) (c : Clause) : (setClause s x c).uartMb = s.uartMb := rfl
@[simp] theorem setClause_apers (s : State) (x : Nat) (c : Clause) : (setClause s x c).apers = s.apers := rfl
@[simp] theorem setClause_pcie (s : State) (x : Nat) (c : Clause) : (setClause s x c).pcie = s.pcie := rfl
@[simp] theorem setClause_ports (s : State) (x : Nat) (c : Clause) : (setClause s x c).ports = s.ports := rfl
@[simp] theorem setClause_lostRoutes (s : State) (x : Nat) (c : Clause) : (setClause s x c).lostRoutes = s.lostRoutes := rfl
@[simp] theorem setClause_fabric (s : State) (x : Nat) (c : Clause) : (setClause s x c).fabric = s.fabric := rfl
@[simp] theorem setClause_axes (s : State) (x : Nat) (c : Clause) : (setClause s x c).axes = s.axes := rfl
@[simp] theorem setClause_svc (s : State) (x : Nat) (c : Clause) : (setClause s x c).svc = s.svc := rfl
@[simp] theorem setClause_mgt (s : State) (x : Nat) (c : Clause) : (setClause s x c).mgt = s.mgt := rfl
@[simp] theorem setClause_sense (s : State) (x : Nat) (c : Clause) : (setClause s x c).sense = s.sense := rfl
@[simp] theorem setClause_log (s : State) (x : Nat) (c : Clause) : (setClause s x c).log = s.log := rfl
@[simp] theorem setClause_cal (s : State) (x : Nat) (c : Clause) : (setClause s x c).cal = s.cal := rfl
@[simp] theorem setClause_boot (s : State) (x : Nat) (c : Clause) : (setClause s x c).boot = s.boot := rfl
@[simp] theorem setClause_die0Fault (s : State) (x : Nat) (c : Clause) : (setClause s x c).die0Fault = s.die0Fault := rfl
@[simp] theorem setClause_startFailed (s : State) (x : Nat) (c : Clause) : (setClause s x c).startFailed = s.startFailed := rfl
@[simp] theorem setClause_power (s : State) (x : Nat) (c : Clause) : (setClause s x c).power = s.power := rfl
@[simp] theorem setClause_taps (s : State) (x : Nat) (c : Clause) : (setClause s x c).taps = s.taps := rfl

/-! ### setCell -/

@[simp] theorem setCell_pending (s : State) (i : Nat) (c : Cell) : (setCell s i c).pending = s.pending := rfl
@[simp] theorem setCell_out (s : State) (i : Nat) (c : Cell) : (setCell s i c).out = s.out := rfl
@[simp] theorem setCell_free (s : State) (i : Nat) (c : Cell) : (setCell s i c).free = s.free := rfl
@[simp] theorem setCell_part (s : State) (i : Nat) (c : Cell) : (setCell s i c).part = s.part := rfl
@[simp] theorem setCell_fuses (s : State) (i : Nat) (c : Cell) : (setCell s i c).fuses = s.fuses := rfl
@[simp] theorem setCell_dia (s : State) (i : Nat) (c : Cell) : (setCell s i c).dia = s.dia := rfl
@[simp] theorem setCell_load (s : State) (i : Nat) (c : Cell) : (setCell s i c).load = s.load := rfl
@[simp] theorem setCell_gram (s : State) (i : Nat) (c : Cell) : (setCell s i c).gram = s.gram := rfl
@[simp] theorem setCell_params (s : State) (i : Nat) (c : Cell) : (setCell s i c).params = s.params := rfl
@[simp] theorem setCell_pages (s : State) (i : Nat) (c : Cell) : (setCell s i c).pages = s.pages := rfl
@[simp] theorem setCell_blocks (s : State) (i : Nat) (c : Cell) : (setCell s i c).blocks = s.blocks := rfl
@[simp] theorem setCell_closed (s : State) (i : Nat) (c : Cell) : (setCell s i c).closed = s.closed := rfl
@[simp] theorem setCell_comps (s : State) (i : Nat) (c : Cell) : (setCell s i c).comps = s.comps := rfl
@[simp] theorem setCell_clauses (s : State) (i : Nat) (c : Cell) : (setCell s i c).clauses = s.clauses := rfl
@[simp] theorem setCell_slotMap (s : State) (i : Nat) (c : Cell) : (setCell s i c).slotMap = s.slotMap := rfl
@[simp] theorem setCell_imem (s : State) (i : Nat) (c : Cell) : (setCell s i c).imem = s.imem := rfl
@[simp] theorem setCell_dmem (s : State) (i : Nat) (c : Cell) : (setCell s i c).dmem = s.dmem := rfl
@[simp] theorem setCell_banks (s : State) (i : Nat) (c : Cell) : (setCell s i c).banks = s.banks := rfl
@[simp] theorem setCell_tcm (s : State) (i : Nat) (c : Cell) : (setCell s i c).tcm = s.tcm := rfl
@[simp] theorem setCell_dram (s : State) (i : Nat) (c : Cell) : (setCell s i c).dram = s.dram := rfl
@[simp] theorem setCell_flash (s : State) (i : Nat) (c : Cell) : (setCell s i c).flash = s.flash := rfl
@[simp] theorem setCell_poison (s : State) (i : Nat) (c : Cell) : (setCell s i c).poison = s.poison := rfl
@[simp] theorem setCell_flips (s : State) (i : Nat) (c : Cell) : (setCell s i c).flips = s.flips := rfl
@[simp] theorem setCell_dramPoison (s : State) (i : Nat) (c : Cell) : (setCell s i c).dramPoison = s.dramPoison := rfl
@[simp] theorem setCell_dramFlips (s : State) (i : Nat) (c : Cell) : (setCell s i c).dramFlips = s.dramFlips := rfl
@[simp] theorem setCell_dramHeld (s : State) (i : Nat) (c : Cell) : (setCell s i c).dramHeld = s.dramHeld := rfl
@[simp] theorem setCell_disabled (s : State) (i : Nat) (c : Cell) : (setCell s i c).disabled = s.disabled := rfl
@[simp] theorem setCell_curves (s : State) (i : Nat) (c : Cell) : (setCell s i c).curves = s.curves := rfl
@[simp] theorem setCell_gains (s : State) (i : Nat) (c : Cell) : (setCell s i c).gains = s.gains := rfl
@[simp] theorem setCell_scrubs (s : State) (i : Nat) (c : Cell) : (setCell s i c).scrubs = s.scrubs := rfl
@[simp] theorem setCell_marches (s : State) (i : Nat) (c : Cell) : (setCell s i c).marches = s.marches := rfl
@[simp] theorem setCell_evqs (s : State) (i : Nat) (c : Cell) : (setCell s i c).evqs = s.evqs := rfl
@[simp] theorem setCell_conflicts (s : State) (i : Nat) (c : Cell) : (setCell s i c).conflicts = s.conflicts := rfl
@[simp] theorem setCell_memCorr (s : State) (i : Nat) (c : Cell) : (setCell s i c).memCorr = s.memCorr := rfl
@[simp] theorem setCell_ddr (s : State) (i : Nat) (c : Cell) : (setCell s i c).ddr = s.ddr := rfl
@[simp] theorem setCell_dma (s : State) (i : Nat) (c : Cell) : (setCell s i c).dma = s.dma := rfl
@[simp] theorem setCell_dmaDie (s : State) (i : Nat) (c : Cell) : (setCell s i c).dmaDie = s.dmaDie := rfl
@[simp] theorem setCell_tb (s : State) (i : Nat) (c : Cell) : (setCell s i c).tb = s.tb := rfl
@[simp] theorem setCell_sync (s : State) (i : Nat) (c : Cell) : (setCell s i c).sync = s.sync := rfl
@[simp] theorem setCell_encs (s : State) (i : Nat) (c : Cell) : (setCell s i c).encs = s.encs := rfl
@[simp] theorem setCell_rows (s : State) (i : Nat) (c : Cell) : (setCell s i c).rows = s.rows := rfl
@[simp] theorem setCell_heads (s : State) (i : Nat) (c : Cell) : (setCell s i c).heads = s.heads := rfl
@[simp] theorem setCell_groups (s : State) (i : Nat) (c : Cell) : (setCell s i c).groups = s.groups := rfl
@[simp] theorem setCell_links (s : State) (i : Nat) (c : Cell) : (setCell s i c).links = s.links := rfl
@[simp] theorem setCell_lanes (s : State) (i : Nat) (c : Cell) : (setCell s i c).lanes = s.lanes := rfl
@[simp] theorem setCell_eyes (s : State) (i : Nat) (c : Cell) : (setCell s i c).eyes = s.eyes := rfl
@[simp] theorem setCell_fences (s : State) (i : Nat) (c : Cell) : (setCell s i c).fences = s.fences := rfl
@[simp] theorem setCell_hcFences (s : State) (i : Nat) (c : Cell) : (setCell s i c).hcFences = s.hcFences := rfl
@[simp] theorem setCell_job (s : State) (i : Nat) (c : Cell) : (setCell s i c).job = s.job := rfl
@[simp] theorem setCell_sqs (s : State) (i : Nat) (c : Cell) : (setCell s i c).sqs = s.sqs := rfl
@[simp] theorem setCell_cqs (s : State) (i : Nat) (c : Cell) : (setCell s i c).cqs = s.cqs := rfl
@[simp] theorem setCell_cmdq (s : State) (i : Nat) (c : Cell) : (setCell s i c).cmdq = s.cmdq := rfl
@[simp] theorem setCell_popped (s : State) (i : Nat) (c : Cell) : (setCell s i c).popped = s.popped := rfl
@[simp] theorem setCell_parked (s : State) (i : Nat) (c : Cell) : (setCell s i c).parked = s.parked := rfl
@[simp] theorem setCell_mbox (s : State) (i : Nat) (c : Cell) : (setCell s i c).mbox = s.mbox := rfl
@[simp] theorem setCell_smb (s : State) (i : Nat) (c : Cell) : (setCell s i c).smb = s.smb := rfl
@[simp] theorem setCell_uartMb (s : State) (i : Nat) (c : Cell) : (setCell s i c).uartMb = s.uartMb := rfl
@[simp] theorem setCell_apers (s : State) (i : Nat) (c : Cell) : (setCell s i c).apers = s.apers := rfl
@[simp] theorem setCell_pcie (s : State) (i : Nat) (c : Cell) : (setCell s i c).pcie = s.pcie := rfl
@[simp] theorem setCell_ports (s : State) (i : Nat) (c : Cell) : (setCell s i c).ports = s.ports := rfl
@[simp] theorem setCell_lostRoutes (s : State) (i : Nat) (c : Cell) : (setCell s i c).lostRoutes = s.lostRoutes := rfl
@[simp] theorem setCell_fabric (s : State) (i : Nat) (c : Cell) : (setCell s i c).fabric = s.fabric := rfl
@[simp] theorem setCell_axes (s : State) (i : Nat) (c : Cell) : (setCell s i c).axes = s.axes := rfl
@[simp] theorem setCell_svc (s : State) (i : Nat) (c : Cell) : (setCell s i c).svc = s.svc := rfl
@[simp] theorem setCell_mgt (s : State) (i : Nat) (c : Cell) : (setCell s i c).mgt = s.mgt := rfl
@[simp] theorem setCell_sense (s : State) (i : Nat) (c : Cell) : (setCell s i c).sense = s.sense := rfl
@[simp] theorem setCell_log (s : State) (i : Nat) (c : Cell) : (setCell s i c).log = s.log := rfl
@[simp] theorem setCell_cal (s : State) (i : Nat) (c : Cell) : (setCell s i c).cal = s.cal := rfl
@[simp] theorem setCell_boot (s : State) (i : Nat) (c : Cell) : (setCell s i c).boot = s.boot := rfl
@[simp] theorem setCell_die0Fault (s : State) (i : Nat) (c : Cell) : (setCell s i c).die0Fault = s.die0Fault := rfl
@[simp] theorem setCell_startFailed (s : State) (i : Nat) (c : Cell) : (setCell s i c).startFailed = s.startFailed := rfl
@[simp] theorem setCell_power (s : State) (i : Nat) (c : Cell) : (setCell s i c).power = s.power := rfl
@[simp] theorem setCell_taps (s : State) (i : Nat) (c : Cell) : (setCell s i c).taps = s.taps := rfl

/-! ### setRow -/

@[simp] theorem setRow_pending (s : State) (r : Nat) (x : Row) : (setRow s r x).pending = s.pending := rfl
@[simp] theorem setRow_out (s : State) (r : Nat) (x : Row) : (setRow s r x).out = s.out := rfl
@[simp] theorem setRow_free (s : State) (r : Nat) (x : Row) : (setRow s r x).free = s.free := rfl
@[simp] theorem setRow_part (s : State) (r : Nat) (x : Row) : (setRow s r x).part = s.part := rfl
@[simp] theorem setRow_fuses (s : State) (r : Nat) (x : Row) : (setRow s r x).fuses = s.fuses := rfl
@[simp] theorem setRow_dia (s : State) (r : Nat) (x : Row) : (setRow s r x).dia = s.dia := rfl
@[simp] theorem setRow_load (s : State) (r : Nat) (x : Row) : (setRow s r x).load = s.load := rfl
@[simp] theorem setRow_gram (s : State) (r : Nat) (x : Row) : (setRow s r x).gram = s.gram := rfl
@[simp] theorem setRow_params (s : State) (r : Nat) (x : Row) : (setRow s r x).params = s.params := rfl
@[simp] theorem setRow_pages (s : State) (r : Nat) (x : Row) : (setRow s r x).pages = s.pages := rfl
@[simp] theorem setRow_blocks (s : State) (r : Nat) (x : Row) : (setRow s r x).blocks = s.blocks := rfl
@[simp] theorem setRow_closed (s : State) (r : Nat) (x : Row) : (setRow s r x).closed = s.closed := rfl
@[simp] theorem setRow_comps (s : State) (r : Nat) (x : Row) : (setRow s r x).comps = s.comps := rfl
@[simp] theorem setRow_clauses (s : State) (r : Nat) (x : Row) : (setRow s r x).clauses = s.clauses := rfl
@[simp] theorem setRow_cells (s : State) (r : Nat) (x : Row) : (setRow s r x).cells = s.cells := rfl
@[simp] theorem setRow_slotMap (s : State) (r : Nat) (x : Row) : (setRow s r x).slotMap = s.slotMap := rfl
@[simp] theorem setRow_imem (s : State) (r : Nat) (x : Row) : (setRow s r x).imem = s.imem := rfl
@[simp] theorem setRow_dmem (s : State) (r : Nat) (x : Row) : (setRow s r x).dmem = s.dmem := rfl
@[simp] theorem setRow_banks (s : State) (r : Nat) (x : Row) : (setRow s r x).banks = s.banks := rfl
@[simp] theorem setRow_tcm (s : State) (r : Nat) (x : Row) : (setRow s r x).tcm = s.tcm := rfl
@[simp] theorem setRow_dram (s : State) (r : Nat) (x : Row) : (setRow s r x).dram = s.dram := rfl
@[simp] theorem setRow_flash (s : State) (r : Nat) (x : Row) : (setRow s r x).flash = s.flash := rfl
@[simp] theorem setRow_poison (s : State) (r : Nat) (x : Row) : (setRow s r x).poison = s.poison := rfl
@[simp] theorem setRow_flips (s : State) (r : Nat) (x : Row) : (setRow s r x).flips = s.flips := rfl
@[simp] theorem setRow_dramPoison (s : State) (r : Nat) (x : Row) : (setRow s r x).dramPoison = s.dramPoison := rfl
@[simp] theorem setRow_dramFlips (s : State) (r : Nat) (x : Row) : (setRow s r x).dramFlips = s.dramFlips := rfl
@[simp] theorem setRow_dramHeld (s : State) (r : Nat) (x : Row) : (setRow s r x).dramHeld = s.dramHeld := rfl
@[simp] theorem setRow_disabled (s : State) (r : Nat) (x : Row) : (setRow s r x).disabled = s.disabled := rfl
@[simp] theorem setRow_curves (s : State) (r : Nat) (x : Row) : (setRow s r x).curves = s.curves := rfl
@[simp] theorem setRow_gains (s : State) (r : Nat) (x : Row) : (setRow s r x).gains = s.gains := rfl
@[simp] theorem setRow_scrubs (s : State) (r : Nat) (x : Row) : (setRow s r x).scrubs = s.scrubs := rfl
@[simp] theorem setRow_marches (s : State) (r : Nat) (x : Row) : (setRow s r x).marches = s.marches := rfl
@[simp] theorem setRow_evqs (s : State) (r : Nat) (x : Row) : (setRow s r x).evqs = s.evqs := rfl
@[simp] theorem setRow_conflicts (s : State) (r : Nat) (x : Row) : (setRow s r x).conflicts = s.conflicts := rfl
@[simp] theorem setRow_memCorr (s : State) (r : Nat) (x : Row) : (setRow s r x).memCorr = s.memCorr := rfl
@[simp] theorem setRow_ddr (s : State) (r : Nat) (x : Row) : (setRow s r x).ddr = s.ddr := rfl
@[simp] theorem setRow_dma (s : State) (r : Nat) (x : Row) : (setRow s r x).dma = s.dma := rfl
@[simp] theorem setRow_dmaDie (s : State) (r : Nat) (x : Row) : (setRow s r x).dmaDie = s.dmaDie := rfl
@[simp] theorem setRow_tb (s : State) (r : Nat) (x : Row) : (setRow s r x).tb = s.tb := rfl
@[simp] theorem setRow_sync (s : State) (r : Nat) (x : Row) : (setRow s r x).sync = s.sync := rfl
@[simp] theorem setRow_encs (s : State) (r : Nat) (x : Row) : (setRow s r x).encs = s.encs := rfl
@[simp] theorem setRow_heads (s : State) (r : Nat) (x : Row) : (setRow s r x).heads = s.heads := rfl
@[simp] theorem setRow_groups (s : State) (r : Nat) (x : Row) : (setRow s r x).groups = s.groups := rfl
@[simp] theorem setRow_links (s : State) (r : Nat) (x : Row) : (setRow s r x).links = s.links := rfl
@[simp] theorem setRow_lanes (s : State) (r : Nat) (x : Row) : (setRow s r x).lanes = s.lanes := rfl
@[simp] theorem setRow_eyes (s : State) (r : Nat) (x : Row) : (setRow s r x).eyes = s.eyes := rfl
@[simp] theorem setRow_fences (s : State) (r : Nat) (x : Row) : (setRow s r x).fences = s.fences := rfl
@[simp] theorem setRow_hcFences (s : State) (r : Nat) (x : Row) : (setRow s r x).hcFences = s.hcFences := rfl
@[simp] theorem setRow_job (s : State) (r : Nat) (x : Row) : (setRow s r x).job = s.job := rfl
@[simp] theorem setRow_sqs (s : State) (r : Nat) (x : Row) : (setRow s r x).sqs = s.sqs := rfl
@[simp] theorem setRow_cqs (s : State) (r : Nat) (x : Row) : (setRow s r x).cqs = s.cqs := rfl
@[simp] theorem setRow_cmdq (s : State) (r : Nat) (x : Row) : (setRow s r x).cmdq = s.cmdq := rfl
@[simp] theorem setRow_popped (s : State) (r : Nat) (x : Row) : (setRow s r x).popped = s.popped := rfl
@[simp] theorem setRow_parked (s : State) (r : Nat) (x : Row) : (setRow s r x).parked = s.parked := rfl
@[simp] theorem setRow_mbox (s : State) (r : Nat) (x : Row) : (setRow s r x).mbox = s.mbox := rfl
@[simp] theorem setRow_smb (s : State) (r : Nat) (x : Row) : (setRow s r x).smb = s.smb := rfl
@[simp] theorem setRow_uartMb (s : State) (r : Nat) (x : Row) : (setRow s r x).uartMb = s.uartMb := rfl
@[simp] theorem setRow_apers (s : State) (r : Nat) (x : Row) : (setRow s r x).apers = s.apers := rfl
@[simp] theorem setRow_pcie (s : State) (r : Nat) (x : Row) : (setRow s r x).pcie = s.pcie := rfl
@[simp] theorem setRow_ports (s : State) (r : Nat) (x : Row) : (setRow s r x).ports = s.ports := rfl
@[simp] theorem setRow_lostRoutes (s : State) (r : Nat) (x : Row) : (setRow s r x).lostRoutes = s.lostRoutes := rfl
@[simp] theorem setRow_fabric (s : State) (r : Nat) (x : Row) : (setRow s r x).fabric = s.fabric := rfl
@[simp] theorem setRow_axes (s : State) (r : Nat) (x : Row) : (setRow s r x).axes = s.axes := rfl
@[simp] theorem setRow_svc (s : State) (r : Nat) (x : Row) : (setRow s r x).svc = s.svc := rfl
@[simp] theorem setRow_mgt (s : State) (r : Nat) (x : Row) : (setRow s r x).mgt = s.mgt := rfl
@[simp] theorem setRow_sense (s : State) (r : Nat) (x : Row) : (setRow s r x).sense = s.sense := rfl
@[simp] theorem setRow_log (s : State) (r : Nat) (x : Row) : (setRow s r x).log = s.log := rfl
@[simp] theorem setRow_cal (s : State) (r : Nat) (x : Row) : (setRow s r x).cal = s.cal := rfl
@[simp] theorem setRow_boot (s : State) (r : Nat) (x : Row) : (setRow s r x).boot = s.boot := rfl
@[simp] theorem setRow_die0Fault (s : State) (r : Nat) (x : Row) : (setRow s r x).die0Fault = s.die0Fault := rfl
@[simp] theorem setRow_startFailed (s : State) (r : Nat) (x : Row) : (setRow s r x).startFailed = s.startFailed := rfl
@[simp] theorem setRow_power (s : State) (r : Nat) (x : Row) : (setRow s r x).power = s.power := rfl
@[simp] theorem setRow_taps (s : State) (r : Nat) (x : Row) : (setRow s r x).taps = s.taps := rfl

/-! ### setHead -/

@[simp] theorem setHead_pending (s : State) (h : Nat) (x : HeadCh) : (setHead s h x).pending = s.pending := rfl
@[simp] theorem setHead_out (s : State) (h : Nat) (x : HeadCh) : (setHead s h x).out = s.out := rfl
@[simp] theorem setHead_free (s : State) (h : Nat) (x : HeadCh) : (setHead s h x).free = s.free := rfl
@[simp] theorem setHead_part (s : State) (h : Nat) (x : HeadCh) : (setHead s h x).part = s.part := rfl
@[simp] theorem setHead_fuses (s : State) (h : Nat) (x : HeadCh) : (setHead s h x).fuses = s.fuses := rfl
@[simp] theorem setHead_dia (s : State) (h : Nat) (x : HeadCh) : (setHead s h x).dia = s.dia := rfl
@[simp] theorem setHead_load (s : State) (h : Nat) (x : HeadCh) : (setHead s h x).load = s.load := rfl
@[simp] theorem setHead_gram (s : State) (h : Nat) (x : HeadCh) : (setHead s h x).gram = s.gram := rfl
@[simp] theorem setHead_params (s : State) (h : Nat) (x : HeadCh) : (setHead s h x).params = s.params := rfl
@[simp] theorem setHead_pages (s : State) (h : Nat) (x : HeadCh) : (setHead s h x).pages = s.pages := rfl
@[simp] theorem setHead_blocks (s : State) (h : Nat) (x : HeadCh) : (setHead s h x).blocks = s.blocks := rfl
@[simp] theorem setHead_closed (s : State) (h : Nat) (x : HeadCh) : (setHead s h x).closed = s.closed := rfl
@[simp] theorem setHead_comps (s : State) (h : Nat) (x : HeadCh) : (setHead s h x).comps = s.comps := rfl
@[simp] theorem setHead_clauses (s : State) (h : Nat) (x : HeadCh) : (setHead s h x).clauses = s.clauses := rfl
@[simp] theorem setHead_cells (s : State) (h : Nat) (x : HeadCh) : (setHead s h x).cells = s.cells := rfl
@[simp] theorem setHead_slotMap (s : State) (h : Nat) (x : HeadCh) : (setHead s h x).slotMap = s.slotMap := rfl
@[simp] theorem setHead_imem (s : State) (h : Nat) (x : HeadCh) : (setHead s h x).imem = s.imem := rfl
@[simp] theorem setHead_dmem (s : State) (h : Nat) (x : HeadCh) : (setHead s h x).dmem = s.dmem := rfl
@[simp] theorem setHead_banks (s : State) (h : Nat) (x : HeadCh) : (setHead s h x).banks = s.banks := rfl
@[simp] theorem setHead_tcm (s : State) (h : Nat) (x : HeadCh) : (setHead s h x).tcm = s.tcm := rfl
@[simp] theorem setHead_dram (s : State) (h : Nat) (x : HeadCh) : (setHead s h x).dram = s.dram := rfl
@[simp] theorem setHead_flash (s : State) (h : Nat) (x : HeadCh) : (setHead s h x).flash = s.flash := rfl
@[simp] theorem setHead_poison (s : State) (h : Nat) (x : HeadCh) : (setHead s h x).poison = s.poison := rfl
@[simp] theorem setHead_flips (s : State) (h : Nat) (x : HeadCh) : (setHead s h x).flips = s.flips := rfl
@[simp] theorem setHead_dramPoison (s : State) (h : Nat) (x : HeadCh) : (setHead s h x).dramPoison = s.dramPoison := rfl
@[simp] theorem setHead_dramFlips (s : State) (h : Nat) (x : HeadCh) : (setHead s h x).dramFlips = s.dramFlips := rfl
@[simp] theorem setHead_dramHeld (s : State) (h : Nat) (x : HeadCh) : (setHead s h x).dramHeld = s.dramHeld := rfl
@[simp] theorem setHead_disabled (s : State) (h : Nat) (x : HeadCh) : (setHead s h x).disabled = s.disabled := rfl
@[simp] theorem setHead_curves (s : State) (h : Nat) (x : HeadCh) : (setHead s h x).curves = s.curves := rfl
@[simp] theorem setHead_gains (s : State) (h : Nat) (x : HeadCh) : (setHead s h x).gains = s.gains := rfl
@[simp] theorem setHead_scrubs (s : State) (h : Nat) (x : HeadCh) : (setHead s h x).scrubs = s.scrubs := rfl
@[simp] theorem setHead_marches (s : State) (h : Nat) (x : HeadCh) : (setHead s h x).marches = s.marches := rfl
@[simp] theorem setHead_evqs (s : State) (h : Nat) (x : HeadCh) : (setHead s h x).evqs = s.evqs := rfl
@[simp] theorem setHead_conflicts (s : State) (h : Nat) (x : HeadCh) : (setHead s h x).conflicts = s.conflicts := rfl
@[simp] theorem setHead_memCorr (s : State) (h : Nat) (x : HeadCh) : (setHead s h x).memCorr = s.memCorr := rfl
@[simp] theorem setHead_ddr (s : State) (h : Nat) (x : HeadCh) : (setHead s h x).ddr = s.ddr := rfl
@[simp] theorem setHead_dma (s : State) (h : Nat) (x : HeadCh) : (setHead s h x).dma = s.dma := rfl
@[simp] theorem setHead_dmaDie (s : State) (h : Nat) (x : HeadCh) : (setHead s h x).dmaDie = s.dmaDie := rfl
@[simp] theorem setHead_tb (s : State) (h : Nat) (x : HeadCh) : (setHead s h x).tb = s.tb := rfl
@[simp] theorem setHead_sync (s : State) (h : Nat) (x : HeadCh) : (setHead s h x).sync = s.sync := rfl
@[simp] theorem setHead_encs (s : State) (h : Nat) (x : HeadCh) : (setHead s h x).encs = s.encs := rfl
@[simp] theorem setHead_rows (s : State) (h : Nat) (x : HeadCh) : (setHead s h x).rows = s.rows := rfl
@[simp] theorem setHead_groups (s : State) (h : Nat) (x : HeadCh) : (setHead s h x).groups = s.groups := rfl
@[simp] theorem setHead_links (s : State) (h : Nat) (x : HeadCh) : (setHead s h x).links = s.links := rfl
@[simp] theorem setHead_lanes (s : State) (h : Nat) (x : HeadCh) : (setHead s h x).lanes = s.lanes := rfl
@[simp] theorem setHead_eyes (s : State) (h : Nat) (x : HeadCh) : (setHead s h x).eyes = s.eyes := rfl
@[simp] theorem setHead_fences (s : State) (h : Nat) (x : HeadCh) : (setHead s h x).fences = s.fences := rfl
@[simp] theorem setHead_hcFences (s : State) (h : Nat) (x : HeadCh) : (setHead s h x).hcFences = s.hcFences := rfl
@[simp] theorem setHead_job (s : State) (h : Nat) (x : HeadCh) : (setHead s h x).job = s.job := rfl
@[simp] theorem setHead_sqs (s : State) (h : Nat) (x : HeadCh) : (setHead s h x).sqs = s.sqs := rfl
@[simp] theorem setHead_cqs (s : State) (h : Nat) (x : HeadCh) : (setHead s h x).cqs = s.cqs := rfl
@[simp] theorem setHead_cmdq (s : State) (h : Nat) (x : HeadCh) : (setHead s h x).cmdq = s.cmdq := rfl
@[simp] theorem setHead_popped (s : State) (h : Nat) (x : HeadCh) : (setHead s h x).popped = s.popped := rfl
@[simp] theorem setHead_parked (s : State) (h : Nat) (x : HeadCh) : (setHead s h x).parked = s.parked := rfl
@[simp] theorem setHead_mbox (s : State) (h : Nat) (x : HeadCh) : (setHead s h x).mbox = s.mbox := rfl
@[simp] theorem setHead_smb (s : State) (h : Nat) (x : HeadCh) : (setHead s h x).smb = s.smb := rfl
@[simp] theorem setHead_uartMb (s : State) (h : Nat) (x : HeadCh) : (setHead s h x).uartMb = s.uartMb := rfl
@[simp] theorem setHead_apers (s : State) (h : Nat) (x : HeadCh) : (setHead s h x).apers = s.apers := rfl
@[simp] theorem setHead_pcie (s : State) (h : Nat) (x : HeadCh) : (setHead s h x).pcie = s.pcie := rfl
@[simp] theorem setHead_ports (s : State) (h : Nat) (x : HeadCh) : (setHead s h x).ports = s.ports := rfl
@[simp] theorem setHead_lostRoutes (s : State) (h : Nat) (x : HeadCh) : (setHead s h x).lostRoutes = s.lostRoutes := rfl
@[simp] theorem setHead_fabric (s : State) (h : Nat) (x : HeadCh) : (setHead s h x).fabric = s.fabric := rfl
@[simp] theorem setHead_axes (s : State) (h : Nat) (x : HeadCh) : (setHead s h x).axes = s.axes := rfl
@[simp] theorem setHead_svc (s : State) (h : Nat) (x : HeadCh) : (setHead s h x).svc = s.svc := rfl
@[simp] theorem setHead_mgt (s : State) (h : Nat) (x : HeadCh) : (setHead s h x).mgt = s.mgt := rfl
@[simp] theorem setHead_sense (s : State) (h : Nat) (x : HeadCh) : (setHead s h x).sense = s.sense := rfl
@[simp] theorem setHead_log (s : State) (h : Nat) (x : HeadCh) : (setHead s h x).log = s.log := rfl
@[simp] theorem setHead_cal (s : State) (h : Nat) (x : HeadCh) : (setHead s h x).cal = s.cal := rfl
@[simp] theorem setHead_boot (s : State) (h : Nat) (x : HeadCh) : (setHead s h x).boot = s.boot := rfl
@[simp] theorem setHead_die0Fault (s : State) (h : Nat) (x : HeadCh) : (setHead s h x).die0Fault = s.die0Fault := rfl
@[simp] theorem setHead_startFailed (s : State) (h : Nat) (x : HeadCh) : (setHead s h x).startFailed = s.startFailed := rfl
@[simp] theorem setHead_power (s : State) (h : Nat) (x : HeadCh) : (setHead s h x).power = s.power := rfl
@[simp] theorem setHead_taps (s : State) (h : Nat) (x : HeadCh) : (setHead s h x).taps = s.taps := rfl

/-! ### setEnc -/

@[simp] theorem setEnc_pending (s : State) (e : Nat) (x : Encoder) : (setEnc s e x).pending = s.pending := rfl
@[simp] theorem setEnc_out (s : State) (e : Nat) (x : Encoder) : (setEnc s e x).out = s.out := rfl
@[simp] theorem setEnc_free (s : State) (e : Nat) (x : Encoder) : (setEnc s e x).free = s.free := rfl
@[simp] theorem setEnc_part (s : State) (e : Nat) (x : Encoder) : (setEnc s e x).part = s.part := rfl
@[simp] theorem setEnc_fuses (s : State) (e : Nat) (x : Encoder) : (setEnc s e x).fuses = s.fuses := rfl
@[simp] theorem setEnc_dia (s : State) (e : Nat) (x : Encoder) : (setEnc s e x).dia = s.dia := rfl
@[simp] theorem setEnc_load (s : State) (e : Nat) (x : Encoder) : (setEnc s e x).load = s.load := rfl
@[simp] theorem setEnc_gram (s : State) (e : Nat) (x : Encoder) : (setEnc s e x).gram = s.gram := rfl
@[simp] theorem setEnc_params (s : State) (e : Nat) (x : Encoder) : (setEnc s e x).params = s.params := rfl
@[simp] theorem setEnc_pages (s : State) (e : Nat) (x : Encoder) : (setEnc s e x).pages = s.pages := rfl
@[simp] theorem setEnc_blocks (s : State) (e : Nat) (x : Encoder) : (setEnc s e x).blocks = s.blocks := rfl
@[simp] theorem setEnc_closed (s : State) (e : Nat) (x : Encoder) : (setEnc s e x).closed = s.closed := rfl
@[simp] theorem setEnc_comps (s : State) (e : Nat) (x : Encoder) : (setEnc s e x).comps = s.comps := rfl
@[simp] theorem setEnc_clauses (s : State) (e : Nat) (x : Encoder) : (setEnc s e x).clauses = s.clauses := rfl
@[simp] theorem setEnc_cells (s : State) (e : Nat) (x : Encoder) : (setEnc s e x).cells = s.cells := rfl
@[simp] theorem setEnc_slotMap (s : State) (e : Nat) (x : Encoder) : (setEnc s e x).slotMap = s.slotMap := rfl
@[simp] theorem setEnc_imem (s : State) (e : Nat) (x : Encoder) : (setEnc s e x).imem = s.imem := rfl
@[simp] theorem setEnc_dmem (s : State) (e : Nat) (x : Encoder) : (setEnc s e x).dmem = s.dmem := rfl
@[simp] theorem setEnc_banks (s : State) (e : Nat) (x : Encoder) : (setEnc s e x).banks = s.banks := rfl
@[simp] theorem setEnc_tcm (s : State) (e : Nat) (x : Encoder) : (setEnc s e x).tcm = s.tcm := rfl
@[simp] theorem setEnc_dram (s : State) (e : Nat) (x : Encoder) : (setEnc s e x).dram = s.dram := rfl
@[simp] theorem setEnc_flash (s : State) (e : Nat) (x : Encoder) : (setEnc s e x).flash = s.flash := rfl
@[simp] theorem setEnc_poison (s : State) (e : Nat) (x : Encoder) : (setEnc s e x).poison = s.poison := rfl
@[simp] theorem setEnc_flips (s : State) (e : Nat) (x : Encoder) : (setEnc s e x).flips = s.flips := rfl
@[simp] theorem setEnc_dramPoison (s : State) (e : Nat) (x : Encoder) : (setEnc s e x).dramPoison = s.dramPoison := rfl
@[simp] theorem setEnc_dramFlips (s : State) (e : Nat) (x : Encoder) : (setEnc s e x).dramFlips = s.dramFlips := rfl
@[simp] theorem setEnc_dramHeld (s : State) (e : Nat) (x : Encoder) : (setEnc s e x).dramHeld = s.dramHeld := rfl
@[simp] theorem setEnc_disabled (s : State) (e : Nat) (x : Encoder) : (setEnc s e x).disabled = s.disabled := rfl
@[simp] theorem setEnc_curves (s : State) (e : Nat) (x : Encoder) : (setEnc s e x).curves = s.curves := rfl
@[simp] theorem setEnc_gains (s : State) (e : Nat) (x : Encoder) : (setEnc s e x).gains = s.gains := rfl
@[simp] theorem setEnc_scrubs (s : State) (e : Nat) (x : Encoder) : (setEnc s e x).scrubs = s.scrubs := rfl
@[simp] theorem setEnc_marches (s : State) (e : Nat) (x : Encoder) : (setEnc s e x).marches = s.marches := rfl
@[simp] theorem setEnc_evqs (s : State) (e : Nat) (x : Encoder) : (setEnc s e x).evqs = s.evqs := rfl
@[simp] theorem setEnc_conflicts (s : State) (e : Nat) (x : Encoder) : (setEnc s e x).conflicts = s.conflicts := rfl
@[simp] theorem setEnc_memCorr (s : State) (e : Nat) (x : Encoder) : (setEnc s e x).memCorr = s.memCorr := rfl
@[simp] theorem setEnc_ddr (s : State) (e : Nat) (x : Encoder) : (setEnc s e x).ddr = s.ddr := rfl
@[simp] theorem setEnc_dma (s : State) (e : Nat) (x : Encoder) : (setEnc s e x).dma = s.dma := rfl
@[simp] theorem setEnc_dmaDie (s : State) (e : Nat) (x : Encoder) : (setEnc s e x).dmaDie = s.dmaDie := rfl
@[simp] theorem setEnc_tb (s : State) (e : Nat) (x : Encoder) : (setEnc s e x).tb = s.tb := rfl
@[simp] theorem setEnc_sync (s : State) (e : Nat) (x : Encoder) : (setEnc s e x).sync = s.sync := rfl
@[simp] theorem setEnc_rows (s : State) (e : Nat) (x : Encoder) : (setEnc s e x).rows = s.rows := rfl
@[simp] theorem setEnc_heads (s : State) (e : Nat) (x : Encoder) : (setEnc s e x).heads = s.heads := rfl
@[simp] theorem setEnc_groups (s : State) (e : Nat) (x : Encoder) : (setEnc s e x).groups = s.groups := rfl
@[simp] theorem setEnc_links (s : State) (e : Nat) (x : Encoder) : (setEnc s e x).links = s.links := rfl
@[simp] theorem setEnc_lanes (s : State) (e : Nat) (x : Encoder) : (setEnc s e x).lanes = s.lanes := rfl
@[simp] theorem setEnc_eyes (s : State) (e : Nat) (x : Encoder) : (setEnc s e x).eyes = s.eyes := rfl
@[simp] theorem setEnc_fences (s : State) (e : Nat) (x : Encoder) : (setEnc s e x).fences = s.fences := rfl
@[simp] theorem setEnc_hcFences (s : State) (e : Nat) (x : Encoder) : (setEnc s e x).hcFences = s.hcFences := rfl
@[simp] theorem setEnc_job (s : State) (e : Nat) (x : Encoder) : (setEnc s e x).job = s.job := rfl
@[simp] theorem setEnc_sqs (s : State) (e : Nat) (x : Encoder) : (setEnc s e x).sqs = s.sqs := rfl
@[simp] theorem setEnc_cqs (s : State) (e : Nat) (x : Encoder) : (setEnc s e x).cqs = s.cqs := rfl
@[simp] theorem setEnc_cmdq (s : State) (e : Nat) (x : Encoder) : (setEnc s e x).cmdq = s.cmdq := rfl
@[simp] theorem setEnc_popped (s : State) (e : Nat) (x : Encoder) : (setEnc s e x).popped = s.popped := rfl
@[simp] theorem setEnc_parked (s : State) (e : Nat) (x : Encoder) : (setEnc s e x).parked = s.parked := rfl
@[simp] theorem setEnc_mbox (s : State) (e : Nat) (x : Encoder) : (setEnc s e x).mbox = s.mbox := rfl
@[simp] theorem setEnc_smb (s : State) (e : Nat) (x : Encoder) : (setEnc s e x).smb = s.smb := rfl
@[simp] theorem setEnc_uartMb (s : State) (e : Nat) (x : Encoder) : (setEnc s e x).uartMb = s.uartMb := rfl
@[simp] theorem setEnc_apers (s : State) (e : Nat) (x : Encoder) : (setEnc s e x).apers = s.apers := rfl
@[simp] theorem setEnc_pcie (s : State) (e : Nat) (x : Encoder) : (setEnc s e x).pcie = s.pcie := rfl
@[simp] theorem setEnc_ports (s : State) (e : Nat) (x : Encoder) : (setEnc s e x).ports = s.ports := rfl
@[simp] theorem setEnc_lostRoutes (s : State) (e : Nat) (x : Encoder) : (setEnc s e x).lostRoutes = s.lostRoutes := rfl
@[simp] theorem setEnc_fabric (s : State) (e : Nat) (x : Encoder) : (setEnc s e x).fabric = s.fabric := rfl
@[simp] theorem setEnc_axes (s : State) (e : Nat) (x : Encoder) : (setEnc s e x).axes = s.axes := rfl
@[simp] theorem setEnc_svc (s : State) (e : Nat) (x : Encoder) : (setEnc s e x).svc = s.svc := rfl
@[simp] theorem setEnc_mgt (s : State) (e : Nat) (x : Encoder) : (setEnc s e x).mgt = s.mgt := rfl
@[simp] theorem setEnc_sense (s : State) (e : Nat) (x : Encoder) : (setEnc s e x).sense = s.sense := rfl
@[simp] theorem setEnc_log (s : State) (e : Nat) (x : Encoder) : (setEnc s e x).log = s.log := rfl
@[simp] theorem setEnc_cal (s : State) (e : Nat) (x : Encoder) : (setEnc s e x).cal = s.cal := rfl
@[simp] theorem setEnc_boot (s : State) (e : Nat) (x : Encoder) : (setEnc s e x).boot = s.boot := rfl
@[simp] theorem setEnc_die0Fault (s : State) (e : Nat) (x : Encoder) : (setEnc s e x).die0Fault = s.die0Fault := rfl
@[simp] theorem setEnc_startFailed (s : State) (e : Nat) (x : Encoder) : (setEnc s e x).startFailed = s.startFailed := rfl
@[simp] theorem setEnc_power (s : State) (e : Nat) (x : Encoder) : (setEnc s e x).power = s.power := rfl
@[simp] theorem setEnc_taps (s : State) (e : Nat) (x : Encoder) : (setEnc s e x).taps = s.taps := rfl

/-! ### setLink -/

@[simp] theorem setLink_pending (s : State) (i : Nat) (x : Link) : (setLink s i x).pending = s.pending := rfl
@[simp] theorem setLink_out (s : State) (i : Nat) (x : Link) : (setLink s i x).out = s.out := rfl
@[simp] theorem setLink_free (s : State) (i : Nat) (x : Link) : (setLink s i x).free = s.free := rfl
@[simp] theorem setLink_part (s : State) (i : Nat) (x : Link) : (setLink s i x).part = s.part := rfl
@[simp] theorem setLink_fuses (s : State) (i : Nat) (x : Link) : (setLink s i x).fuses = s.fuses := rfl
@[simp] theorem setLink_dia (s : State) (i : Nat) (x : Link) : (setLink s i x).dia = s.dia := rfl
@[simp] theorem setLink_load (s : State) (i : Nat) (x : Link) : (setLink s i x).load = s.load := rfl
@[simp] theorem setLink_gram (s : State) (i : Nat) (x : Link) : (setLink s i x).gram = s.gram := rfl
@[simp] theorem setLink_params (s : State) (i : Nat) (x : Link) : (setLink s i x).params = s.params := rfl
@[simp] theorem setLink_pages (s : State) (i : Nat) (x : Link) : (setLink s i x).pages = s.pages := rfl
@[simp] theorem setLink_blocks (s : State) (i : Nat) (x : Link) : (setLink s i x).blocks = s.blocks := rfl
@[simp] theorem setLink_closed (s : State) (i : Nat) (x : Link) : (setLink s i x).closed = s.closed := rfl
@[simp] theorem setLink_comps (s : State) (i : Nat) (x : Link) : (setLink s i x).comps = s.comps := rfl
@[simp] theorem setLink_clauses (s : State) (i : Nat) (x : Link) : (setLink s i x).clauses = s.clauses := rfl
@[simp] theorem setLink_cells (s : State) (i : Nat) (x : Link) : (setLink s i x).cells = s.cells := rfl
@[simp] theorem setLink_slotMap (s : State) (i : Nat) (x : Link) : (setLink s i x).slotMap = s.slotMap := rfl
@[simp] theorem setLink_imem (s : State) (i : Nat) (x : Link) : (setLink s i x).imem = s.imem := rfl
@[simp] theorem setLink_dmem (s : State) (i : Nat) (x : Link) : (setLink s i x).dmem = s.dmem := rfl
@[simp] theorem setLink_banks (s : State) (i : Nat) (x : Link) : (setLink s i x).banks = s.banks := rfl
@[simp] theorem setLink_tcm (s : State) (i : Nat) (x : Link) : (setLink s i x).tcm = s.tcm := rfl
@[simp] theorem setLink_dram (s : State) (i : Nat) (x : Link) : (setLink s i x).dram = s.dram := rfl
@[simp] theorem setLink_flash (s : State) (i : Nat) (x : Link) : (setLink s i x).flash = s.flash := rfl
@[simp] theorem setLink_poison (s : State) (i : Nat) (x : Link) : (setLink s i x).poison = s.poison := rfl
@[simp] theorem setLink_flips (s : State) (i : Nat) (x : Link) : (setLink s i x).flips = s.flips := rfl
@[simp] theorem setLink_dramPoison (s : State) (i : Nat) (x : Link) : (setLink s i x).dramPoison = s.dramPoison := rfl
@[simp] theorem setLink_dramFlips (s : State) (i : Nat) (x : Link) : (setLink s i x).dramFlips = s.dramFlips := rfl
@[simp] theorem setLink_dramHeld (s : State) (i : Nat) (x : Link) : (setLink s i x).dramHeld = s.dramHeld := rfl
@[simp] theorem setLink_disabled (s : State) (i : Nat) (x : Link) : (setLink s i x).disabled = s.disabled := rfl
@[simp] theorem setLink_curves (s : State) (i : Nat) (x : Link) : (setLink s i x).curves = s.curves := rfl
@[simp] theorem setLink_gains (s : State) (i : Nat) (x : Link) : (setLink s i x).gains = s.gains := rfl
@[simp] theorem setLink_scrubs (s : State) (i : Nat) (x : Link) : (setLink s i x).scrubs = s.scrubs := rfl
@[simp] theorem setLink_marches (s : State) (i : Nat) (x : Link) : (setLink s i x).marches = s.marches := rfl
@[simp] theorem setLink_evqs (s : State) (i : Nat) (x : Link) : (setLink s i x).evqs = s.evqs := rfl
@[simp] theorem setLink_conflicts (s : State) (i : Nat) (x : Link) : (setLink s i x).conflicts = s.conflicts := rfl
@[simp] theorem setLink_memCorr (s : State) (i : Nat) (x : Link) : (setLink s i x).memCorr = s.memCorr := rfl
@[simp] theorem setLink_ddr (s : State) (i : Nat) (x : Link) : (setLink s i x).ddr = s.ddr := rfl
@[simp] theorem setLink_dma (s : State) (i : Nat) (x : Link) : (setLink s i x).dma = s.dma := rfl
@[simp] theorem setLink_dmaDie (s : State) (i : Nat) (x : Link) : (setLink s i x).dmaDie = s.dmaDie := rfl
@[simp] theorem setLink_tb (s : State) (i : Nat) (x : Link) : (setLink s i x).tb = s.tb := rfl
@[simp] theorem setLink_sync (s : State) (i : Nat) (x : Link) : (setLink s i x).sync = s.sync := rfl
@[simp] theorem setLink_encs (s : State) (i : Nat) (x : Link) : (setLink s i x).encs = s.encs := rfl
@[simp] theorem setLink_rows (s : State) (i : Nat) (x : Link) : (setLink s i x).rows = s.rows := rfl
@[simp] theorem setLink_heads (s : State) (i : Nat) (x : Link) : (setLink s i x).heads = s.heads := rfl
@[simp] theorem setLink_groups (s : State) (i : Nat) (x : Link) : (setLink s i x).groups = s.groups := rfl
@[simp] theorem setLink_lanes (s : State) (i : Nat) (x : Link) : (setLink s i x).lanes = s.lanes := rfl
@[simp] theorem setLink_eyes (s : State) (i : Nat) (x : Link) : (setLink s i x).eyes = s.eyes := rfl
@[simp] theorem setLink_fences (s : State) (i : Nat) (x : Link) : (setLink s i x).fences = s.fences := rfl
@[simp] theorem setLink_hcFences (s : State) (i : Nat) (x : Link) : (setLink s i x).hcFences = s.hcFences := rfl
@[simp] theorem setLink_job (s : State) (i : Nat) (x : Link) : (setLink s i x).job = s.job := rfl
@[simp] theorem setLink_sqs (s : State) (i : Nat) (x : Link) : (setLink s i x).sqs = s.sqs := rfl
@[simp] theorem setLink_cqs (s : State) (i : Nat) (x : Link) : (setLink s i x).cqs = s.cqs := rfl
@[simp] theorem setLink_cmdq (s : State) (i : Nat) (x : Link) : (setLink s i x).cmdq = s.cmdq := rfl
@[simp] theorem setLink_popped (s : State) (i : Nat) (x : Link) : (setLink s i x).popped = s.popped := rfl
@[simp] theorem setLink_parked (s : State) (i : Nat) (x : Link) : (setLink s i x).parked = s.parked := rfl
@[simp] theorem setLink_mbox (s : State) (i : Nat) (x : Link) : (setLink s i x).mbox = s.mbox := rfl
@[simp] theorem setLink_smb (s : State) (i : Nat) (x : Link) : (setLink s i x).smb = s.smb := rfl
@[simp] theorem setLink_uartMb (s : State) (i : Nat) (x : Link) : (setLink s i x).uartMb = s.uartMb := rfl
@[simp] theorem setLink_apers (s : State) (i : Nat) (x : Link) : (setLink s i x).apers = s.apers := rfl
@[simp] theorem setLink_pcie (s : State) (i : Nat) (x : Link) : (setLink s i x).pcie = s.pcie := rfl
@[simp] theorem setLink_ports (s : State) (i : Nat) (x : Link) : (setLink s i x).ports = s.ports := rfl
@[simp] theorem setLink_lostRoutes (s : State) (i : Nat) (x : Link) : (setLink s i x).lostRoutes = s.lostRoutes := rfl
@[simp] theorem setLink_fabric (s : State) (i : Nat) (x : Link) : (setLink s i x).fabric = s.fabric := rfl
@[simp] theorem setLink_axes (s : State) (i : Nat) (x : Link) : (setLink s i x).axes = s.axes := rfl
@[simp] theorem setLink_svc (s : State) (i : Nat) (x : Link) : (setLink s i x).svc = s.svc := rfl
@[simp] theorem setLink_mgt (s : State) (i : Nat) (x : Link) : (setLink s i x).mgt = s.mgt := rfl
@[simp] theorem setLink_sense (s : State) (i : Nat) (x : Link) : (setLink s i x).sense = s.sense := rfl
@[simp] theorem setLink_log (s : State) (i : Nat) (x : Link) : (setLink s i x).log = s.log := rfl
@[simp] theorem setLink_cal (s : State) (i : Nat) (x : Link) : (setLink s i x).cal = s.cal := rfl
@[simp] theorem setLink_boot (s : State) (i : Nat) (x : Link) : (setLink s i x).boot = s.boot := rfl
@[simp] theorem setLink_die0Fault (s : State) (i : Nat) (x : Link) : (setLink s i x).die0Fault = s.die0Fault := rfl
@[simp] theorem setLink_startFailed (s : State) (i : Nat) (x : Link) : (setLink s i x).startFailed = s.startFailed := rfl
@[simp] theorem setLink_power (s : State) (i : Nat) (x : Link) : (setLink s i x).power = s.power := rfl
@[simp] theorem setLink_taps (s : State) (i : Nat) (x : Link) : (setLink s i x).taps = s.taps := rfl

/-! ### setLane -/

@[simp] theorem setLane_pending (s : State) (i : Nat) (x : Lane) : (setLane s i x).pending = s.pending := rfl
@[simp] theorem setLane_out (s : State) (i : Nat) (x : Lane) : (setLane s i x).out = s.out := rfl
@[simp] theorem setLane_free (s : State) (i : Nat) (x : Lane) : (setLane s i x).free = s.free := rfl
@[simp] theorem setLane_part (s : State) (i : Nat) (x : Lane) : (setLane s i x).part = s.part := rfl
@[simp] theorem setLane_fuses (s : State) (i : Nat) (x : Lane) : (setLane s i x).fuses = s.fuses := rfl
@[simp] theorem setLane_dia (s : State) (i : Nat) (x : Lane) : (setLane s i x).dia = s.dia := rfl
@[simp] theorem setLane_load (s : State) (i : Nat) (x : Lane) : (setLane s i x).load = s.load := rfl
@[simp] theorem setLane_gram (s : State) (i : Nat) (x : Lane) : (setLane s i x).gram = s.gram := rfl
@[simp] theorem setLane_params (s : State) (i : Nat) (x : Lane) : (setLane s i x).params = s.params := rfl
@[simp] theorem setLane_pages (s : State) (i : Nat) (x : Lane) : (setLane s i x).pages = s.pages := rfl
@[simp] theorem setLane_blocks (s : State) (i : Nat) (x : Lane) : (setLane s i x).blocks = s.blocks := rfl
@[simp] theorem setLane_closed (s : State) (i : Nat) (x : Lane) : (setLane s i x).closed = s.closed := rfl
@[simp] theorem setLane_comps (s : State) (i : Nat) (x : Lane) : (setLane s i x).comps = s.comps := rfl
@[simp] theorem setLane_clauses (s : State) (i : Nat) (x : Lane) : (setLane s i x).clauses = s.clauses := rfl
@[simp] theorem setLane_cells (s : State) (i : Nat) (x : Lane) : (setLane s i x).cells = s.cells := rfl
@[simp] theorem setLane_slotMap (s : State) (i : Nat) (x : Lane) : (setLane s i x).slotMap = s.slotMap := rfl
@[simp] theorem setLane_imem (s : State) (i : Nat) (x : Lane) : (setLane s i x).imem = s.imem := rfl
@[simp] theorem setLane_dmem (s : State) (i : Nat) (x : Lane) : (setLane s i x).dmem = s.dmem := rfl
@[simp] theorem setLane_banks (s : State) (i : Nat) (x : Lane) : (setLane s i x).banks = s.banks := rfl
@[simp] theorem setLane_tcm (s : State) (i : Nat) (x : Lane) : (setLane s i x).tcm = s.tcm := rfl
@[simp] theorem setLane_dram (s : State) (i : Nat) (x : Lane) : (setLane s i x).dram = s.dram := rfl
@[simp] theorem setLane_flash (s : State) (i : Nat) (x : Lane) : (setLane s i x).flash = s.flash := rfl
@[simp] theorem setLane_poison (s : State) (i : Nat) (x : Lane) : (setLane s i x).poison = s.poison := rfl
@[simp] theorem setLane_flips (s : State) (i : Nat) (x : Lane) : (setLane s i x).flips = s.flips := rfl
@[simp] theorem setLane_dramPoison (s : State) (i : Nat) (x : Lane) : (setLane s i x).dramPoison = s.dramPoison := rfl
@[simp] theorem setLane_dramFlips (s : State) (i : Nat) (x : Lane) : (setLane s i x).dramFlips = s.dramFlips := rfl
@[simp] theorem setLane_dramHeld (s : State) (i : Nat) (x : Lane) : (setLane s i x).dramHeld = s.dramHeld := rfl
@[simp] theorem setLane_disabled (s : State) (i : Nat) (x : Lane) : (setLane s i x).disabled = s.disabled := rfl
@[simp] theorem setLane_curves (s : State) (i : Nat) (x : Lane) : (setLane s i x).curves = s.curves := rfl
@[simp] theorem setLane_gains (s : State) (i : Nat) (x : Lane) : (setLane s i x).gains = s.gains := rfl
@[simp] theorem setLane_scrubs (s : State) (i : Nat) (x : Lane) : (setLane s i x).scrubs = s.scrubs := rfl
@[simp] theorem setLane_marches (s : State) (i : Nat) (x : Lane) : (setLane s i x).marches = s.marches := rfl
@[simp] theorem setLane_evqs (s : State) (i : Nat) (x : Lane) : (setLane s i x).evqs = s.evqs := rfl
@[simp] theorem setLane_conflicts (s : State) (i : Nat) (x : Lane) : (setLane s i x).conflicts = s.conflicts := rfl
@[simp] theorem setLane_memCorr (s : State) (i : Nat) (x : Lane) : (setLane s i x).memCorr = s.memCorr := rfl
@[simp] theorem setLane_ddr (s : State) (i : Nat) (x : Lane) : (setLane s i x).ddr = s.ddr := rfl
@[simp] theorem setLane_dma (s : State) (i : Nat) (x : Lane) : (setLane s i x).dma = s.dma := rfl
@[simp] theorem setLane_dmaDie (s : State) (i : Nat) (x : Lane) : (setLane s i x).dmaDie = s.dmaDie := rfl
@[simp] theorem setLane_tb (s : State) (i : Nat) (x : Lane) : (setLane s i x).tb = s.tb := rfl
@[simp] theorem setLane_sync (s : State) (i : Nat) (x : Lane) : (setLane s i x).sync = s.sync := rfl
@[simp] theorem setLane_encs (s : State) (i : Nat) (x : Lane) : (setLane s i x).encs = s.encs := rfl
@[simp] theorem setLane_rows (s : State) (i : Nat) (x : Lane) : (setLane s i x).rows = s.rows := rfl
@[simp] theorem setLane_heads (s : State) (i : Nat) (x : Lane) : (setLane s i x).heads = s.heads := rfl
@[simp] theorem setLane_groups (s : State) (i : Nat) (x : Lane) : (setLane s i x).groups = s.groups := rfl
@[simp] theorem setLane_links (s : State) (i : Nat) (x : Lane) : (setLane s i x).links = s.links := rfl
@[simp] theorem setLane_eyes (s : State) (i : Nat) (x : Lane) : (setLane s i x).eyes = s.eyes := rfl
@[simp] theorem setLane_fences (s : State) (i : Nat) (x : Lane) : (setLane s i x).fences = s.fences := rfl
@[simp] theorem setLane_hcFences (s : State) (i : Nat) (x : Lane) : (setLane s i x).hcFences = s.hcFences := rfl
@[simp] theorem setLane_job (s : State) (i : Nat) (x : Lane) : (setLane s i x).job = s.job := rfl
@[simp] theorem setLane_sqs (s : State) (i : Nat) (x : Lane) : (setLane s i x).sqs = s.sqs := rfl
@[simp] theorem setLane_cqs (s : State) (i : Nat) (x : Lane) : (setLane s i x).cqs = s.cqs := rfl
@[simp] theorem setLane_cmdq (s : State) (i : Nat) (x : Lane) : (setLane s i x).cmdq = s.cmdq := rfl
@[simp] theorem setLane_popped (s : State) (i : Nat) (x : Lane) : (setLane s i x).popped = s.popped := rfl
@[simp] theorem setLane_parked (s : State) (i : Nat) (x : Lane) : (setLane s i x).parked = s.parked := rfl
@[simp] theorem setLane_mbox (s : State) (i : Nat) (x : Lane) : (setLane s i x).mbox = s.mbox := rfl
@[simp] theorem setLane_smb (s : State) (i : Nat) (x : Lane) : (setLane s i x).smb = s.smb := rfl
@[simp] theorem setLane_uartMb (s : State) (i : Nat) (x : Lane) : (setLane s i x).uartMb = s.uartMb := rfl
@[simp] theorem setLane_apers (s : State) (i : Nat) (x : Lane) : (setLane s i x).apers = s.apers := rfl
@[simp] theorem setLane_pcie (s : State) (i : Nat) (x : Lane) : (setLane s i x).pcie = s.pcie := rfl
@[simp] theorem setLane_ports (s : State) (i : Nat) (x : Lane) : (setLane s i x).ports = s.ports := rfl
@[simp] theorem setLane_lostRoutes (s : State) (i : Nat) (x : Lane) : (setLane s i x).lostRoutes = s.lostRoutes := rfl
@[simp] theorem setLane_fabric (s : State) (i : Nat) (x : Lane) : (setLane s i x).fabric = s.fabric := rfl
@[simp] theorem setLane_axes (s : State) (i : Nat) (x : Lane) : (setLane s i x).axes = s.axes := rfl
@[simp] theorem setLane_svc (s : State) (i : Nat) (x : Lane) : (setLane s i x).svc = s.svc := rfl
@[simp] theorem setLane_mgt (s : State) (i : Nat) (x : Lane) : (setLane s i x).mgt = s.mgt := rfl
@[simp] theorem setLane_sense (s : State) (i : Nat) (x : Lane) : (setLane s i x).sense = s.sense := rfl
@[simp] theorem setLane_log (s : State) (i : Nat) (x : Lane) : (setLane s i x).log = s.log := rfl
@[simp] theorem setLane_cal (s : State) (i : Nat) (x : Lane) : (setLane s i x).cal = s.cal := rfl
@[simp] theorem setLane_boot (s : State) (i : Nat) (x : Lane) : (setLane s i x).boot = s.boot := rfl
@[simp] theorem setLane_die0Fault (s : State) (i : Nat) (x : Lane) : (setLane s i x).die0Fault = s.die0Fault := rfl
@[simp] theorem setLane_startFailed (s : State) (i : Nat) (x : Lane) : (setLane s i x).startFailed = s.startFailed := rfl
@[simp] theorem setLane_power (s : State) (i : Nat) (x : Lane) : (setLane s i x).power = s.power := rfl
@[simp] theorem setLane_taps (s : State) (i : Nat) (x : Lane) : (setLane s i x).taps = s.taps := rfl

/-! ### setEye -/

@[simp] theorem setEye_pending (s : State) (d : Nat) (x : Eye) : (setEye s d x).pending = s.pending := rfl
@[simp] theorem setEye_out (s : State) (d : Nat) (x : Eye) : (setEye s d x).out = s.out := rfl
@[simp] theorem setEye_free (s : State) (d : Nat) (x : Eye) : (setEye s d x).free = s.free := rfl
@[simp] theorem setEye_part (s : State) (d : Nat) (x : Eye) : (setEye s d x).part = s.part := rfl
@[simp] theorem setEye_fuses (s : State) (d : Nat) (x : Eye) : (setEye s d x).fuses = s.fuses := rfl
@[simp] theorem setEye_dia (s : State) (d : Nat) (x : Eye) : (setEye s d x).dia = s.dia := rfl
@[simp] theorem setEye_load (s : State) (d : Nat) (x : Eye) : (setEye s d x).load = s.load := rfl
@[simp] theorem setEye_gram (s : State) (d : Nat) (x : Eye) : (setEye s d x).gram = s.gram := rfl
@[simp] theorem setEye_params (s : State) (d : Nat) (x : Eye) : (setEye s d x).params = s.params := rfl
@[simp] theorem setEye_pages (s : State) (d : Nat) (x : Eye) : (setEye s d x).pages = s.pages := rfl
@[simp] theorem setEye_blocks (s : State) (d : Nat) (x : Eye) : (setEye s d x).blocks = s.blocks := rfl
@[simp] theorem setEye_closed (s : State) (d : Nat) (x : Eye) : (setEye s d x).closed = s.closed := rfl
@[simp] theorem setEye_comps (s : State) (d : Nat) (x : Eye) : (setEye s d x).comps = s.comps := rfl
@[simp] theorem setEye_clauses (s : State) (d : Nat) (x : Eye) : (setEye s d x).clauses = s.clauses := rfl
@[simp] theorem setEye_cells (s : State) (d : Nat) (x : Eye) : (setEye s d x).cells = s.cells := rfl
@[simp] theorem setEye_slotMap (s : State) (d : Nat) (x : Eye) : (setEye s d x).slotMap = s.slotMap := rfl
@[simp] theorem setEye_imem (s : State) (d : Nat) (x : Eye) : (setEye s d x).imem = s.imem := rfl
@[simp] theorem setEye_dmem (s : State) (d : Nat) (x : Eye) : (setEye s d x).dmem = s.dmem := rfl
@[simp] theorem setEye_banks (s : State) (d : Nat) (x : Eye) : (setEye s d x).banks = s.banks := rfl
@[simp] theorem setEye_tcm (s : State) (d : Nat) (x : Eye) : (setEye s d x).tcm = s.tcm := rfl
@[simp] theorem setEye_dram (s : State) (d : Nat) (x : Eye) : (setEye s d x).dram = s.dram := rfl
@[simp] theorem setEye_flash (s : State) (d : Nat) (x : Eye) : (setEye s d x).flash = s.flash := rfl
@[simp] theorem setEye_poison (s : State) (d : Nat) (x : Eye) : (setEye s d x).poison = s.poison := rfl
@[simp] theorem setEye_flips (s : State) (d : Nat) (x : Eye) : (setEye s d x).flips = s.flips := rfl
@[simp] theorem setEye_dramPoison (s : State) (d : Nat) (x : Eye) : (setEye s d x).dramPoison = s.dramPoison := rfl
@[simp] theorem setEye_dramFlips (s : State) (d : Nat) (x : Eye) : (setEye s d x).dramFlips = s.dramFlips := rfl
@[simp] theorem setEye_dramHeld (s : State) (d : Nat) (x : Eye) : (setEye s d x).dramHeld = s.dramHeld := rfl
@[simp] theorem setEye_disabled (s : State) (d : Nat) (x : Eye) : (setEye s d x).disabled = s.disabled := rfl
@[simp] theorem setEye_curves (s : State) (d : Nat) (x : Eye) : (setEye s d x).curves = s.curves := rfl
@[simp] theorem setEye_gains (s : State) (d : Nat) (x : Eye) : (setEye s d x).gains = s.gains := rfl
@[simp] theorem setEye_scrubs (s : State) (d : Nat) (x : Eye) : (setEye s d x).scrubs = s.scrubs := rfl
@[simp] theorem setEye_marches (s : State) (d : Nat) (x : Eye) : (setEye s d x).marches = s.marches := rfl
@[simp] theorem setEye_evqs (s : State) (d : Nat) (x : Eye) : (setEye s d x).evqs = s.evqs := rfl
@[simp] theorem setEye_conflicts (s : State) (d : Nat) (x : Eye) : (setEye s d x).conflicts = s.conflicts := rfl
@[simp] theorem setEye_memCorr (s : State) (d : Nat) (x : Eye) : (setEye s d x).memCorr = s.memCorr := rfl
@[simp] theorem setEye_ddr (s : State) (d : Nat) (x : Eye) : (setEye s d x).ddr = s.ddr := rfl
@[simp] theorem setEye_dma (s : State) (d : Nat) (x : Eye) : (setEye s d x).dma = s.dma := rfl
@[simp] theorem setEye_dmaDie (s : State) (d : Nat) (x : Eye) : (setEye s d x).dmaDie = s.dmaDie := rfl
@[simp] theorem setEye_tb (s : State) (d : Nat) (x : Eye) : (setEye s d x).tb = s.tb := rfl
@[simp] theorem setEye_sync (s : State) (d : Nat) (x : Eye) : (setEye s d x).sync = s.sync := rfl
@[simp] theorem setEye_encs (s : State) (d : Nat) (x : Eye) : (setEye s d x).encs = s.encs := rfl
@[simp] theorem setEye_rows (s : State) (d : Nat) (x : Eye) : (setEye s d x).rows = s.rows := rfl
@[simp] theorem setEye_heads (s : State) (d : Nat) (x : Eye) : (setEye s d x).heads = s.heads := rfl
@[simp] theorem setEye_groups (s : State) (d : Nat) (x : Eye) : (setEye s d x).groups = s.groups := rfl
@[simp] theorem setEye_links (s : State) (d : Nat) (x : Eye) : (setEye s d x).links = s.links := rfl
@[simp] theorem setEye_lanes (s : State) (d : Nat) (x : Eye) : (setEye s d x).lanes = s.lanes := rfl
@[simp] theorem setEye_fences (s : State) (d : Nat) (x : Eye) : (setEye s d x).fences = s.fences := rfl
@[simp] theorem setEye_hcFences (s : State) (d : Nat) (x : Eye) : (setEye s d x).hcFences = s.hcFences := rfl
@[simp] theorem setEye_job (s : State) (d : Nat) (x : Eye) : (setEye s d x).job = s.job := rfl
@[simp] theorem setEye_sqs (s : State) (d : Nat) (x : Eye) : (setEye s d x).sqs = s.sqs := rfl
@[simp] theorem setEye_cqs (s : State) (d : Nat) (x : Eye) : (setEye s d x).cqs = s.cqs := rfl
@[simp] theorem setEye_cmdq (s : State) (d : Nat) (x : Eye) : (setEye s d x).cmdq = s.cmdq := rfl
@[simp] theorem setEye_popped (s : State) (d : Nat) (x : Eye) : (setEye s d x).popped = s.popped := rfl
@[simp] theorem setEye_parked (s : State) (d : Nat) (x : Eye) : (setEye s d x).parked = s.parked := rfl
@[simp] theorem setEye_mbox (s : State) (d : Nat) (x : Eye) : (setEye s d x).mbox = s.mbox := rfl
@[simp] theorem setEye_smb (s : State) (d : Nat) (x : Eye) : (setEye s d x).smb = s.smb := rfl
@[simp] theorem setEye_uartMb (s : State) (d : Nat) (x : Eye) : (setEye s d x).uartMb = s.uartMb := rfl
@[simp] theorem setEye_apers (s : State) (d : Nat) (x : Eye) : (setEye s d x).apers = s.apers := rfl
@[simp] theorem setEye_pcie (s : State) (d : Nat) (x : Eye) : (setEye s d x).pcie = s.pcie := rfl
@[simp] theorem setEye_ports (s : State) (d : Nat) (x : Eye) : (setEye s d x).ports = s.ports := rfl
@[simp] theorem setEye_lostRoutes (s : State) (d : Nat) (x : Eye) : (setEye s d x).lostRoutes = s.lostRoutes := rfl
@[simp] theorem setEye_fabric (s : State) (d : Nat) (x : Eye) : (setEye s d x).fabric = s.fabric := rfl
@[simp] theorem setEye_axes (s : State) (d : Nat) (x : Eye) : (setEye s d x).axes = s.axes := rfl
@[simp] theorem setEye_svc (s : State) (d : Nat) (x : Eye) : (setEye s d x).svc = s.svc := rfl
@[simp] theorem setEye_mgt (s : State) (d : Nat) (x : Eye) : (setEye s d x).mgt = s.mgt := rfl
@[simp] theorem setEye_sense (s : State) (d : Nat) (x : Eye) : (setEye s d x).sense = s.sense := rfl
@[simp] theorem setEye_log (s : State) (d : Nat) (x : Eye) : (setEye s d x).log = s.log := rfl
@[simp] theorem setEye_cal (s : State) (d : Nat) (x : Eye) : (setEye s d x).cal = s.cal := rfl
@[simp] theorem setEye_boot (s : State) (d : Nat) (x : Eye) : (setEye s d x).boot = s.boot := rfl
@[simp] theorem setEye_die0Fault (s : State) (d : Nat) (x : Eye) : (setEye s d x).die0Fault = s.die0Fault := rfl
@[simp] theorem setEye_startFailed (s : State) (d : Nat) (x : Eye) : (setEye s d x).startFailed = s.startFailed := rfl
@[simp] theorem setEye_power (s : State) (d : Nat) (x : Eye) : (setEye s d x).power = s.power := rfl
@[simp] theorem setEye_taps (s : State) (d : Nat) (x : Eye) : (setEye s d x).taps = s.taps := rfl

/-! ### setDdr -/

@[simp] theorem setDdr_pending (s : State) (i : Nat) (x : DdrCh) : (setDdr s i x).pending = s.pending := rfl
@[simp] theorem setDdr_out (s : State) (i : Nat) (x : DdrCh) : (setDdr s i x).out = s.out := rfl
@[simp] theorem setDdr_free (s : State) (i : Nat) (x : DdrCh) : (setDdr s i x).free = s.free := rfl
@[simp] theorem setDdr_part (s : State) (i : Nat) (x : DdrCh) : (setDdr s i x).part = s.part := rfl
@[simp] theorem setDdr_fuses (s : State) (i : Nat) (x : DdrCh) : (setDdr s i x).fuses = s.fuses := rfl
@[simp] theorem setDdr_dia (s : State) (i : Nat) (x : DdrCh) : (setDdr s i x).dia = s.dia := rfl
@[simp] theorem setDdr_load (s : State) (i : Nat) (x : DdrCh) : (setDdr s i x).load = s.load := rfl
@[simp] theorem setDdr_gram (s : State) (i : Nat) (x : DdrCh) : (setDdr s i x).gram = s.gram := rfl
@[simp] theorem setDdr_params (s : State) (i : Nat) (x : DdrCh) : (setDdr s i x).params = s.params := rfl
@[simp] theorem setDdr_pages (s : State) (i : Nat) (x : DdrCh) : (setDdr s i x).pages = s.pages := rfl
@[simp] theorem setDdr_blocks (s : State) (i : Nat) (x : DdrCh) : (setDdr s i x).blocks = s.blocks := rfl
@[simp] theorem setDdr_closed (s : State) (i : Nat) (x : DdrCh) : (setDdr s i x).closed = s.closed := rfl
@[simp] theorem setDdr_comps (s : State) (i : Nat) (x : DdrCh) : (setDdr s i x).comps = s.comps := rfl
@[simp] theorem setDdr_clauses (s : State) (i : Nat) (x : DdrCh) : (setDdr s i x).clauses = s.clauses := rfl
@[simp] theorem setDdr_cells (s : State) (i : Nat) (x : DdrCh) : (setDdr s i x).cells = s.cells := rfl
@[simp] theorem setDdr_slotMap (s : State) (i : Nat) (x : DdrCh) : (setDdr s i x).slotMap = s.slotMap := rfl
@[simp] theorem setDdr_imem (s : State) (i : Nat) (x : DdrCh) : (setDdr s i x).imem = s.imem := rfl
@[simp] theorem setDdr_dmem (s : State) (i : Nat) (x : DdrCh) : (setDdr s i x).dmem = s.dmem := rfl
@[simp] theorem setDdr_banks (s : State) (i : Nat) (x : DdrCh) : (setDdr s i x).banks = s.banks := rfl
@[simp] theorem setDdr_tcm (s : State) (i : Nat) (x : DdrCh) : (setDdr s i x).tcm = s.tcm := rfl
@[simp] theorem setDdr_dram (s : State) (i : Nat) (x : DdrCh) : (setDdr s i x).dram = s.dram := rfl
@[simp] theorem setDdr_flash (s : State) (i : Nat) (x : DdrCh) : (setDdr s i x).flash = s.flash := rfl
@[simp] theorem setDdr_poison (s : State) (i : Nat) (x : DdrCh) : (setDdr s i x).poison = s.poison := rfl
@[simp] theorem setDdr_flips (s : State) (i : Nat) (x : DdrCh) : (setDdr s i x).flips = s.flips := rfl
@[simp] theorem setDdr_dramPoison (s : State) (i : Nat) (x : DdrCh) : (setDdr s i x).dramPoison = s.dramPoison := rfl
@[simp] theorem setDdr_dramFlips (s : State) (i : Nat) (x : DdrCh) : (setDdr s i x).dramFlips = s.dramFlips := rfl
@[simp] theorem setDdr_dramHeld (s : State) (i : Nat) (x : DdrCh) : (setDdr s i x).dramHeld = s.dramHeld := rfl
@[simp] theorem setDdr_disabled (s : State) (i : Nat) (x : DdrCh) : (setDdr s i x).disabled = s.disabled := rfl
@[simp] theorem setDdr_curves (s : State) (i : Nat) (x : DdrCh) : (setDdr s i x).curves = s.curves := rfl
@[simp] theorem setDdr_gains (s : State) (i : Nat) (x : DdrCh) : (setDdr s i x).gains = s.gains := rfl
@[simp] theorem setDdr_scrubs (s : State) (i : Nat) (x : DdrCh) : (setDdr s i x).scrubs = s.scrubs := rfl
@[simp] theorem setDdr_marches (s : State) (i : Nat) (x : DdrCh) : (setDdr s i x).marches = s.marches := rfl
@[simp] theorem setDdr_evqs (s : State) (i : Nat) (x : DdrCh) : (setDdr s i x).evqs = s.evqs := rfl
@[simp] theorem setDdr_conflicts (s : State) (i : Nat) (x : DdrCh) : (setDdr s i x).conflicts = s.conflicts := rfl
@[simp] theorem setDdr_memCorr (s : State) (i : Nat) (x : DdrCh) : (setDdr s i x).memCorr = s.memCorr := rfl
@[simp] theorem setDdr_dma (s : State) (i : Nat) (x : DdrCh) : (setDdr s i x).dma = s.dma := rfl
@[simp] theorem setDdr_dmaDie (s : State) (i : Nat) (x : DdrCh) : (setDdr s i x).dmaDie = s.dmaDie := rfl
@[simp] theorem setDdr_tb (s : State) (i : Nat) (x : DdrCh) : (setDdr s i x).tb = s.tb := rfl
@[simp] theorem setDdr_sync (s : State) (i : Nat) (x : DdrCh) : (setDdr s i x).sync = s.sync := rfl
@[simp] theorem setDdr_encs (s : State) (i : Nat) (x : DdrCh) : (setDdr s i x).encs = s.encs := rfl
@[simp] theorem setDdr_rows (s : State) (i : Nat) (x : DdrCh) : (setDdr s i x).rows = s.rows := rfl
@[simp] theorem setDdr_heads (s : State) (i : Nat) (x : DdrCh) : (setDdr s i x).heads = s.heads := rfl
@[simp] theorem setDdr_groups (s : State) (i : Nat) (x : DdrCh) : (setDdr s i x).groups = s.groups := rfl
@[simp] theorem setDdr_links (s : State) (i : Nat) (x : DdrCh) : (setDdr s i x).links = s.links := rfl
@[simp] theorem setDdr_lanes (s : State) (i : Nat) (x : DdrCh) : (setDdr s i x).lanes = s.lanes := rfl
@[simp] theorem setDdr_eyes (s : State) (i : Nat) (x : DdrCh) : (setDdr s i x).eyes = s.eyes := rfl
@[simp] theorem setDdr_fences (s : State) (i : Nat) (x : DdrCh) : (setDdr s i x).fences = s.fences := rfl
@[simp] theorem setDdr_hcFences (s : State) (i : Nat) (x : DdrCh) : (setDdr s i x).hcFences = s.hcFences := rfl
@[simp] theorem setDdr_job (s : State) (i : Nat) (x : DdrCh) : (setDdr s i x).job = s.job := rfl
@[simp] theorem setDdr_sqs (s : State) (i : Nat) (x : DdrCh) : (setDdr s i x).sqs = s.sqs := rfl
@[simp] theorem setDdr_cqs (s : State) (i : Nat) (x : DdrCh) : (setDdr s i x).cqs = s.cqs := rfl
@[simp] theorem setDdr_cmdq (s : State) (i : Nat) (x : DdrCh) : (setDdr s i x).cmdq = s.cmdq := rfl
@[simp] theorem setDdr_popped (s : State) (i : Nat) (x : DdrCh) : (setDdr s i x).popped = s.popped := rfl
@[simp] theorem setDdr_parked (s : State) (i : Nat) (x : DdrCh) : (setDdr s i x).parked = s.parked := rfl
@[simp] theorem setDdr_mbox (s : State) (i : Nat) (x : DdrCh) : (setDdr s i x).mbox = s.mbox := rfl
@[simp] theorem setDdr_smb (s : State) (i : Nat) (x : DdrCh) : (setDdr s i x).smb = s.smb := rfl
@[simp] theorem setDdr_uartMb (s : State) (i : Nat) (x : DdrCh) : (setDdr s i x).uartMb = s.uartMb := rfl
@[simp] theorem setDdr_apers (s : State) (i : Nat) (x : DdrCh) : (setDdr s i x).apers = s.apers := rfl
@[simp] theorem setDdr_pcie (s : State) (i : Nat) (x : DdrCh) : (setDdr s i x).pcie = s.pcie := rfl
@[simp] theorem setDdr_ports (s : State) (i : Nat) (x : DdrCh) : (setDdr s i x).ports = s.ports := rfl
@[simp] theorem setDdr_lostRoutes (s : State) (i : Nat) (x : DdrCh) : (setDdr s i x).lostRoutes = s.lostRoutes := rfl
@[simp] theorem setDdr_fabric (s : State) (i : Nat) (x : DdrCh) : (setDdr s i x).fabric = s.fabric := rfl
@[simp] theorem setDdr_axes (s : State) (i : Nat) (x : DdrCh) : (setDdr s i x).axes = s.axes := rfl
@[simp] theorem setDdr_svc (s : State) (i : Nat) (x : DdrCh) : (setDdr s i x).svc = s.svc := rfl
@[simp] theorem setDdr_mgt (s : State) (i : Nat) (x : DdrCh) : (setDdr s i x).mgt = s.mgt := rfl
@[simp] theorem setDdr_sense (s : State) (i : Nat) (x : DdrCh) : (setDdr s i x).sense = s.sense := rfl
@[simp] theorem setDdr_log (s : State) (i : Nat) (x : DdrCh) : (setDdr s i x).log = s.log := rfl
@[simp] theorem setDdr_cal (s : State) (i : Nat) (x : DdrCh) : (setDdr s i x).cal = s.cal := rfl
@[simp] theorem setDdr_boot (s : State) (i : Nat) (x : DdrCh) : (setDdr s i x).boot = s.boot := rfl
@[simp] theorem setDdr_die0Fault (s : State) (i : Nat) (x : DdrCh) : (setDdr s i x).die0Fault = s.die0Fault := rfl
@[simp] theorem setDdr_startFailed (s : State) (i : Nat) (x : DdrCh) : (setDdr s i x).startFailed = s.startFailed := rfl
@[simp] theorem setDdr_power (s : State) (i : Nat) (x : DdrCh) : (setDdr s i x).power = s.power := rfl
@[simp] theorem setDdr_taps (s : State) (i : Nat) (x : DdrCh) : (setDdr s i x).taps = s.taps := rfl

/-! ### setDma -/

@[simp] theorem setDma_pending (s : State) (i : Nat) (x : DmaCh) : (setDma s i x).pending = s.pending := rfl
@[simp] theorem setDma_out (s : State) (i : Nat) (x : DmaCh) : (setDma s i x).out = s.out := rfl
@[simp] theorem setDma_free (s : State) (i : Nat) (x : DmaCh) : (setDma s i x).free = s.free := rfl
@[simp] theorem setDma_part (s : State) (i : Nat) (x : DmaCh) : (setDma s i x).part = s.part := rfl
@[simp] theorem setDma_fuses (s : State) (i : Nat) (x : DmaCh) : (setDma s i x).fuses = s.fuses := rfl
@[simp] theorem setDma_dia (s : State) (i : Nat) (x : DmaCh) : (setDma s i x).dia = s.dia := rfl
@[simp] theorem setDma_load (s : State) (i : Nat) (x : DmaCh) : (setDma s i x).load = s.load := rfl
@[simp] theorem setDma_gram (s : State) (i : Nat) (x : DmaCh) : (setDma s i x).gram = s.gram := rfl
@[simp] theorem setDma_params (s : State) (i : Nat) (x : DmaCh) : (setDma s i x).params = s.params := rfl
@[simp] theorem setDma_pages (s : State) (i : Nat) (x : DmaCh) : (setDma s i x).pages = s.pages := rfl
@[simp] theorem setDma_blocks (s : State) (i : Nat) (x : DmaCh) : (setDma s i x).blocks = s.blocks := rfl
@[simp] theorem setDma_closed (s : State) (i : Nat) (x : DmaCh) : (setDma s i x).closed = s.closed := rfl
@[simp] theorem setDma_comps (s : State) (i : Nat) (x : DmaCh) : (setDma s i x).comps = s.comps := rfl
@[simp] theorem setDma_clauses (s : State) (i : Nat) (x : DmaCh) : (setDma s i x).clauses = s.clauses := rfl
@[simp] theorem setDma_cells (s : State) (i : Nat) (x : DmaCh) : (setDma s i x).cells = s.cells := rfl
@[simp] theorem setDma_slotMap (s : State) (i : Nat) (x : DmaCh) : (setDma s i x).slotMap = s.slotMap := rfl
@[simp] theorem setDma_imem (s : State) (i : Nat) (x : DmaCh) : (setDma s i x).imem = s.imem := rfl
@[simp] theorem setDma_dmem (s : State) (i : Nat) (x : DmaCh) : (setDma s i x).dmem = s.dmem := rfl
@[simp] theorem setDma_banks (s : State) (i : Nat) (x : DmaCh) : (setDma s i x).banks = s.banks := rfl
@[simp] theorem setDma_tcm (s : State) (i : Nat) (x : DmaCh) : (setDma s i x).tcm = s.tcm := rfl
@[simp] theorem setDma_dram (s : State) (i : Nat) (x : DmaCh) : (setDma s i x).dram = s.dram := rfl
@[simp] theorem setDma_flash (s : State) (i : Nat) (x : DmaCh) : (setDma s i x).flash = s.flash := rfl
@[simp] theorem setDma_poison (s : State) (i : Nat) (x : DmaCh) : (setDma s i x).poison = s.poison := rfl
@[simp] theorem setDma_flips (s : State) (i : Nat) (x : DmaCh) : (setDma s i x).flips = s.flips := rfl
@[simp] theorem setDma_dramPoison (s : State) (i : Nat) (x : DmaCh) : (setDma s i x).dramPoison = s.dramPoison := rfl
@[simp] theorem setDma_dramFlips (s : State) (i : Nat) (x : DmaCh) : (setDma s i x).dramFlips = s.dramFlips := rfl
@[simp] theorem setDma_dramHeld (s : State) (i : Nat) (x : DmaCh) : (setDma s i x).dramHeld = s.dramHeld := rfl
@[simp] theorem setDma_disabled (s : State) (i : Nat) (x : DmaCh) : (setDma s i x).disabled = s.disabled := rfl
@[simp] theorem setDma_curves (s : State) (i : Nat) (x : DmaCh) : (setDma s i x).curves = s.curves := rfl
@[simp] theorem setDma_gains (s : State) (i : Nat) (x : DmaCh) : (setDma s i x).gains = s.gains := rfl
@[simp] theorem setDma_scrubs (s : State) (i : Nat) (x : DmaCh) : (setDma s i x).scrubs = s.scrubs := rfl
@[simp] theorem setDma_marches (s : State) (i : Nat) (x : DmaCh) : (setDma s i x).marches = s.marches := rfl
@[simp] theorem setDma_evqs (s : State) (i : Nat) (x : DmaCh) : (setDma s i x).evqs = s.evqs := rfl
@[simp] theorem setDma_conflicts (s : State) (i : Nat) (x : DmaCh) : (setDma s i x).conflicts = s.conflicts := rfl
@[simp] theorem setDma_memCorr (s : State) (i : Nat) (x : DmaCh) : (setDma s i x).memCorr = s.memCorr := rfl
@[simp] theorem setDma_ddr (s : State) (i : Nat) (x : DmaCh) : (setDma s i x).ddr = s.ddr := rfl
@[simp] theorem setDma_dmaDie (s : State) (i : Nat) (x : DmaCh) : (setDma s i x).dmaDie = s.dmaDie := rfl
@[simp] theorem setDma_tb (s : State) (i : Nat) (x : DmaCh) : (setDma s i x).tb = s.tb := rfl
@[simp] theorem setDma_sync (s : State) (i : Nat) (x : DmaCh) : (setDma s i x).sync = s.sync := rfl
@[simp] theorem setDma_encs (s : State) (i : Nat) (x : DmaCh) : (setDma s i x).encs = s.encs := rfl
@[simp] theorem setDma_rows (s : State) (i : Nat) (x : DmaCh) : (setDma s i x).rows = s.rows := rfl
@[simp] theorem setDma_heads (s : State) (i : Nat) (x : DmaCh) : (setDma s i x).heads = s.heads := rfl
@[simp] theorem setDma_groups (s : State) (i : Nat) (x : DmaCh) : (setDma s i x).groups = s.groups := rfl
@[simp] theorem setDma_links (s : State) (i : Nat) (x : DmaCh) : (setDma s i x).links = s.links := rfl
@[simp] theorem setDma_lanes (s : State) (i : Nat) (x : DmaCh) : (setDma s i x).lanes = s.lanes := rfl
@[simp] theorem setDma_eyes (s : State) (i : Nat) (x : DmaCh) : (setDma s i x).eyes = s.eyes := rfl
@[simp] theorem setDma_fences (s : State) (i : Nat) (x : DmaCh) : (setDma s i x).fences = s.fences := rfl
@[simp] theorem setDma_hcFences (s : State) (i : Nat) (x : DmaCh) : (setDma s i x).hcFences = s.hcFences := rfl
@[simp] theorem setDma_job (s : State) (i : Nat) (x : DmaCh) : (setDma s i x).job = s.job := rfl
@[simp] theorem setDma_sqs (s : State) (i : Nat) (x : DmaCh) : (setDma s i x).sqs = s.sqs := rfl
@[simp] theorem setDma_cqs (s : State) (i : Nat) (x : DmaCh) : (setDma s i x).cqs = s.cqs := rfl
@[simp] theorem setDma_cmdq (s : State) (i : Nat) (x : DmaCh) : (setDma s i x).cmdq = s.cmdq := rfl
@[simp] theorem setDma_popped (s : State) (i : Nat) (x : DmaCh) : (setDma s i x).popped = s.popped := rfl
@[simp] theorem setDma_parked (s : State) (i : Nat) (x : DmaCh) : (setDma s i x).parked = s.parked := rfl
@[simp] theorem setDma_mbox (s : State) (i : Nat) (x : DmaCh) : (setDma s i x).mbox = s.mbox := rfl
@[simp] theorem setDma_smb (s : State) (i : Nat) (x : DmaCh) : (setDma s i x).smb = s.smb := rfl
@[simp] theorem setDma_uartMb (s : State) (i : Nat) (x : DmaCh) : (setDma s i x).uartMb = s.uartMb := rfl
@[simp] theorem setDma_apers (s : State) (i : Nat) (x : DmaCh) : (setDma s i x).apers = s.apers := rfl
@[simp] theorem setDma_pcie (s : State) (i : Nat) (x : DmaCh) : (setDma s i x).pcie = s.pcie := rfl
@[simp] theorem setDma_ports (s : State) (i : Nat) (x : DmaCh) : (setDma s i x).ports = s.ports := rfl
@[simp] theorem setDma_lostRoutes (s : State) (i : Nat) (x : DmaCh) : (setDma s i x).lostRoutes = s.lostRoutes := rfl
@[simp] theorem setDma_fabric (s : State) (i : Nat) (x : DmaCh) : (setDma s i x).fabric = s.fabric := rfl
@[simp] theorem setDma_axes (s : State) (i : Nat) (x : DmaCh) : (setDma s i x).axes = s.axes := rfl
@[simp] theorem setDma_svc (s : State) (i : Nat) (x : DmaCh) : (setDma s i x).svc = s.svc := rfl
@[simp] theorem setDma_mgt (s : State) (i : Nat) (x : DmaCh) : (setDma s i x).mgt = s.mgt := rfl
@[simp] theorem setDma_sense (s : State) (i : Nat) (x : DmaCh) : (setDma s i x).sense = s.sense := rfl
@[simp] theorem setDma_log (s : State) (i : Nat) (x : DmaCh) : (setDma s i x).log = s.log := rfl
@[simp] theorem setDma_cal (s : State) (i : Nat) (x : DmaCh) : (setDma s i x).cal = s.cal := rfl
@[simp] theorem setDma_boot (s : State) (i : Nat) (x : DmaCh) : (setDma s i x).boot = s.boot := rfl
@[simp] theorem setDma_die0Fault (s : State) (i : Nat) (x : DmaCh) : (setDma s i x).die0Fault = s.die0Fault := rfl
@[simp] theorem setDma_startFailed (s : State) (i : Nat) (x : DmaCh) : (setDma s i x).startFailed = s.startFailed := rfl
@[simp] theorem setDma_power (s : State) (i : Nat) (x : DmaCh) : (setDma s i x).power = s.power := rfl
@[simp] theorem setDma_taps (s : State) (i : Nat) (x : DmaCh) : (setDma s i x).taps = s.taps := rfl

/-! ### setDmaDie -/

@[simp] theorem setDmaDie_pending (s : State) (d : Nat) (x : DmaDie) : (setDmaDie s d x).pending = s.pending := rfl
@[simp] theorem setDmaDie_out (s : State) (d : Nat) (x : DmaDie) : (setDmaDie s d x).out = s.out := rfl
@[simp] theorem setDmaDie_free (s : State) (d : Nat) (x : DmaDie) : (setDmaDie s d x).free = s.free := rfl
@[simp] theorem setDmaDie_part (s : State) (d : Nat) (x : DmaDie) : (setDmaDie s d x).part = s.part := rfl
@[simp] theorem setDmaDie_fuses (s : State) (d : Nat) (x : DmaDie) : (setDmaDie s d x).fuses = s.fuses := rfl
@[simp] theorem setDmaDie_dia (s : State) (d : Nat) (x : DmaDie) : (setDmaDie s d x).dia = s.dia := rfl
@[simp] theorem setDmaDie_load (s : State) (d : Nat) (x : DmaDie) : (setDmaDie s d x).load = s.load := rfl
@[simp] theorem setDmaDie_gram (s : State) (d : Nat) (x : DmaDie) : (setDmaDie s d x).gram = s.gram := rfl
@[simp] theorem setDmaDie_params (s : State) (d : Nat) (x : DmaDie) : (setDmaDie s d x).params = s.params := rfl
@[simp] theorem setDmaDie_pages (s : State) (d : Nat) (x : DmaDie) : (setDmaDie s d x).pages = s.pages := rfl
@[simp] theorem setDmaDie_blocks (s : State) (d : Nat) (x : DmaDie) : (setDmaDie s d x).blocks = s.blocks := rfl
@[simp] theorem setDmaDie_closed (s : State) (d : Nat) (x : DmaDie) : (setDmaDie s d x).closed = s.closed := rfl
@[simp] theorem setDmaDie_comps (s : State) (d : Nat) (x : DmaDie) : (setDmaDie s d x).comps = s.comps := rfl
@[simp] theorem setDmaDie_clauses (s : State) (d : Nat) (x : DmaDie) : (setDmaDie s d x).clauses = s.clauses := rfl
@[simp] theorem setDmaDie_cells (s : State) (d : Nat) (x : DmaDie) : (setDmaDie s d x).cells = s.cells := rfl
@[simp] theorem setDmaDie_slotMap (s : State) (d : Nat) (x : DmaDie) : (setDmaDie s d x).slotMap = s.slotMap := rfl
@[simp] theorem setDmaDie_imem (s : State) (d : Nat) (x : DmaDie) : (setDmaDie s d x).imem = s.imem := rfl
@[simp] theorem setDmaDie_dmem (s : State) (d : Nat) (x : DmaDie) : (setDmaDie s d x).dmem = s.dmem := rfl
@[simp] theorem setDmaDie_banks (s : State) (d : Nat) (x : DmaDie) : (setDmaDie s d x).banks = s.banks := rfl
@[simp] theorem setDmaDie_tcm (s : State) (d : Nat) (x : DmaDie) : (setDmaDie s d x).tcm = s.tcm := rfl
@[simp] theorem setDmaDie_dram (s : State) (d : Nat) (x : DmaDie) : (setDmaDie s d x).dram = s.dram := rfl
@[simp] theorem setDmaDie_flash (s : State) (d : Nat) (x : DmaDie) : (setDmaDie s d x).flash = s.flash := rfl
@[simp] theorem setDmaDie_poison (s : State) (d : Nat) (x : DmaDie) : (setDmaDie s d x).poison = s.poison := rfl
@[simp] theorem setDmaDie_flips (s : State) (d : Nat) (x : DmaDie) : (setDmaDie s d x).flips = s.flips := rfl
@[simp] theorem setDmaDie_dramPoison (s : State) (d : Nat) (x : DmaDie) : (setDmaDie s d x).dramPoison = s.dramPoison := rfl
@[simp] theorem setDmaDie_dramFlips (s : State) (d : Nat) (x : DmaDie) : (setDmaDie s d x).dramFlips = s.dramFlips := rfl
@[simp] theorem setDmaDie_dramHeld (s : State) (d : Nat) (x : DmaDie) : (setDmaDie s d x).dramHeld = s.dramHeld := rfl
@[simp] theorem setDmaDie_disabled (s : State) (d : Nat) (x : DmaDie) : (setDmaDie s d x).disabled = s.disabled := rfl
@[simp] theorem setDmaDie_curves (s : State) (d : Nat) (x : DmaDie) : (setDmaDie s d x).curves = s.curves := rfl
@[simp] theorem setDmaDie_gains (s : State) (d : Nat) (x : DmaDie) : (setDmaDie s d x).gains = s.gains := rfl
@[simp] theorem setDmaDie_scrubs (s : State) (d : Nat) (x : DmaDie) : (setDmaDie s d x).scrubs = s.scrubs := rfl
@[simp] theorem setDmaDie_marches (s : State) (d : Nat) (x : DmaDie) : (setDmaDie s d x).marches = s.marches := rfl
@[simp] theorem setDmaDie_evqs (s : State) (d : Nat) (x : DmaDie) : (setDmaDie s d x).evqs = s.evqs := rfl
@[simp] theorem setDmaDie_conflicts (s : State) (d : Nat) (x : DmaDie) : (setDmaDie s d x).conflicts = s.conflicts := rfl
@[simp] theorem setDmaDie_memCorr (s : State) (d : Nat) (x : DmaDie) : (setDmaDie s d x).memCorr = s.memCorr := rfl
@[simp] theorem setDmaDie_ddr (s : State) (d : Nat) (x : DmaDie) : (setDmaDie s d x).ddr = s.ddr := rfl
@[simp] theorem setDmaDie_dma (s : State) (d : Nat) (x : DmaDie) : (setDmaDie s d x).dma = s.dma := rfl
@[simp] theorem setDmaDie_tb (s : State) (d : Nat) (x : DmaDie) : (setDmaDie s d x).tb = s.tb := rfl
@[simp] theorem setDmaDie_sync (s : State) (d : Nat) (x : DmaDie) : (setDmaDie s d x).sync = s.sync := rfl
@[simp] theorem setDmaDie_encs (s : State) (d : Nat) (x : DmaDie) : (setDmaDie s d x).encs = s.encs := rfl
@[simp] theorem setDmaDie_rows (s : State) (d : Nat) (x : DmaDie) : (setDmaDie s d x).rows = s.rows := rfl
@[simp] theorem setDmaDie_heads (s : State) (d : Nat) (x : DmaDie) : (setDmaDie s d x).heads = s.heads := rfl
@[simp] theorem setDmaDie_groups (s : State) (d : Nat) (x : DmaDie) : (setDmaDie s d x).groups = s.groups := rfl
@[simp] theorem setDmaDie_links (s : State) (d : Nat) (x : DmaDie) : (setDmaDie s d x).links = s.links := rfl
@[simp] theorem setDmaDie_lanes (s : State) (d : Nat) (x : DmaDie) : (setDmaDie s d x).lanes = s.lanes := rfl
@[simp] theorem setDmaDie_eyes (s : State) (d : Nat) (x : DmaDie) : (setDmaDie s d x).eyes = s.eyes := rfl
@[simp] theorem setDmaDie_fences (s : State) (d : Nat) (x : DmaDie) : (setDmaDie s d x).fences = s.fences := rfl
@[simp] theorem setDmaDie_hcFences (s : State) (d : Nat) (x : DmaDie) : (setDmaDie s d x).hcFences = s.hcFences := rfl
@[simp] theorem setDmaDie_job (s : State) (d : Nat) (x : DmaDie) : (setDmaDie s d x).job = s.job := rfl
@[simp] theorem setDmaDie_sqs (s : State) (d : Nat) (x : DmaDie) : (setDmaDie s d x).sqs = s.sqs := rfl
@[simp] theorem setDmaDie_cqs (s : State) (d : Nat) (x : DmaDie) : (setDmaDie s d x).cqs = s.cqs := rfl
@[simp] theorem setDmaDie_cmdq (s : State) (d : Nat) (x : DmaDie) : (setDmaDie s d x).cmdq = s.cmdq := rfl
@[simp] theorem setDmaDie_popped (s : State) (d : Nat) (x : DmaDie) : (setDmaDie s d x).popped = s.popped := rfl
@[simp] theorem setDmaDie_parked (s : State) (d : Nat) (x : DmaDie) : (setDmaDie s d x).parked = s.parked := rfl
@[simp] theorem setDmaDie_mbox (s : State) (d : Nat) (x : DmaDie) : (setDmaDie s d x).mbox = s.mbox := rfl
@[simp] theorem setDmaDie_smb (s : State) (d : Nat) (x : DmaDie) : (setDmaDie s d x).smb = s.smb := rfl
@[simp] theorem setDmaDie_uartMb (s : State) (d : Nat) (x : DmaDie) : (setDmaDie s d x).uartMb = s.uartMb := rfl
@[simp] theorem setDmaDie_apers (s : State) (d : Nat) (x : DmaDie) : (setDmaDie s d x).apers = s.apers := rfl
@[simp] theorem setDmaDie_pcie (s : State) (d : Nat) (x : DmaDie) : (setDmaDie s d x).pcie = s.pcie := rfl
@[simp] theorem setDmaDie_ports (s : State) (d : Nat) (x : DmaDie) : (setDmaDie s d x).ports = s.ports := rfl
@[simp] theorem setDmaDie_lostRoutes (s : State) (d : Nat) (x : DmaDie) : (setDmaDie s d x).lostRoutes = s.lostRoutes := rfl
@[simp] theorem setDmaDie_fabric (s : State) (d : Nat) (x : DmaDie) : (setDmaDie s d x).fabric = s.fabric := rfl
@[simp] theorem setDmaDie_axes (s : State) (d : Nat) (x : DmaDie) : (setDmaDie s d x).axes = s.axes := rfl
@[simp] theorem setDmaDie_svc (s : State) (d : Nat) (x : DmaDie) : (setDmaDie s d x).svc = s.svc := rfl
@[simp] theorem setDmaDie_mgt (s : State) (d : Nat) (x : DmaDie) : (setDmaDie s d x).mgt = s.mgt := rfl
@[simp] theorem setDmaDie_sense (s : State) (d : Nat) (x : DmaDie) : (setDmaDie s d x).sense = s.sense := rfl
@[simp] theorem setDmaDie_log (s : State) (d : Nat) (x : DmaDie) : (setDmaDie s d x).log = s.log := rfl
@[simp] theorem setDmaDie_cal (s : State) (d : Nat) (x : DmaDie) : (setDmaDie s d x).cal = s.cal := rfl
@[simp] theorem setDmaDie_boot (s : State) (d : Nat) (x : DmaDie) : (setDmaDie s d x).boot = s.boot := rfl
@[simp] theorem setDmaDie_die0Fault (s : State) (d : Nat) (x : DmaDie) : (setDmaDie s d x).die0Fault = s.die0Fault := rfl
@[simp] theorem setDmaDie_startFailed (s : State) (d : Nat) (x : DmaDie) : (setDmaDie s d x).startFailed = s.startFailed := rfl
@[simp] theorem setDmaDie_power (s : State) (d : Nat) (x : DmaDie) : (setDmaDie s d x).power = s.power := rfl
@[simp] theorem setDmaDie_taps (s : State) (d : Nat) (x : DmaDie) : (setDmaDie s d x).taps = s.taps := rfl

/-! ### setScrub -/

@[simp] theorem setScrub_pending (s : State) (d : Nat) (x : Scrub) : (setScrub s d x).pending = s.pending := rfl
@[simp] theorem setScrub_out (s : State) (d : Nat) (x : Scrub) : (setScrub s d x).out = s.out := rfl
@[simp] theorem setScrub_free (s : State) (d : Nat) (x : Scrub) : (setScrub s d x).free = s.free := rfl
@[simp] theorem setScrub_part (s : State) (d : Nat) (x : Scrub) : (setScrub s d x).part = s.part := rfl
@[simp] theorem setScrub_fuses (s : State) (d : Nat) (x : Scrub) : (setScrub s d x).fuses = s.fuses := rfl
@[simp] theorem setScrub_dia (s : State) (d : Nat) (x : Scrub) : (setScrub s d x).dia = s.dia := rfl
@[simp] theorem setScrub_load (s : State) (d : Nat) (x : Scrub) : (setScrub s d x).load = s.load := rfl
@[simp] theorem setScrub_gram (s : State) (d : Nat) (x : Scrub) : (setScrub s d x).gram = s.gram := rfl
@[simp] theorem setScrub_params (s : State) (d : Nat) (x : Scrub) : (setScrub s d x).params = s.params := rfl
@[simp] theorem setScrub_pages (s : State) (d : Nat) (x : Scrub) : (setScrub s d x).pages = s.pages := rfl
@[simp] theorem setScrub_blocks (s : State) (d : Nat) (x : Scrub) : (setScrub s d x).blocks = s.blocks := rfl
@[simp] theorem setScrub_closed (s : State) (d : Nat) (x : Scrub) : (setScrub s d x).closed = s.closed := rfl
@[simp] theorem setScrub_comps (s : State) (d : Nat) (x : Scrub) : (setScrub s d x).comps = s.comps := rfl
@[simp] theorem setScrub_clauses (s : State) (d : Nat) (x : Scrub) : (setScrub s d x).clauses = s.clauses := rfl
@[simp] theorem setScrub_cells (s : State) (d : Nat) (x : Scrub) : (setScrub s d x).cells = s.cells := rfl
@[simp] theorem setScrub_slotMap (s : State) (d : Nat) (x : Scrub) : (setScrub s d x).slotMap = s.slotMap := rfl
@[simp] theorem setScrub_imem (s : State) (d : Nat) (x : Scrub) : (setScrub s d x).imem = s.imem := rfl
@[simp] theorem setScrub_dmem (s : State) (d : Nat) (x : Scrub) : (setScrub s d x).dmem = s.dmem := rfl
@[simp] theorem setScrub_banks (s : State) (d : Nat) (x : Scrub) : (setScrub s d x).banks = s.banks := rfl
@[simp] theorem setScrub_tcm (s : State) (d : Nat) (x : Scrub) : (setScrub s d x).tcm = s.tcm := rfl
@[simp] theorem setScrub_dram (s : State) (d : Nat) (x : Scrub) : (setScrub s d x).dram = s.dram := rfl
@[simp] theorem setScrub_flash (s : State) (d : Nat) (x : Scrub) : (setScrub s d x).flash = s.flash := rfl
@[simp] theorem setScrub_poison (s : State) (d : Nat) (x : Scrub) : (setScrub s d x).poison = s.poison := rfl
@[simp] theorem setScrub_flips (s : State) (d : Nat) (x : Scrub) : (setScrub s d x).flips = s.flips := rfl
@[simp] theorem setScrub_dramPoison (s : State) (d : Nat) (x : Scrub) : (setScrub s d x).dramPoison = s.dramPoison := rfl
@[simp] theorem setScrub_dramFlips (s : State) (d : Nat) (x : Scrub) : (setScrub s d x).dramFlips = s.dramFlips := rfl
@[simp] theorem setScrub_dramHeld (s : State) (d : Nat) (x : Scrub) : (setScrub s d x).dramHeld = s.dramHeld := rfl
@[simp] theorem setScrub_disabled (s : State) (d : Nat) (x : Scrub) : (setScrub s d x).disabled = s.disabled := rfl
@[simp] theorem setScrub_curves (s : State) (d : Nat) (x : Scrub) : (setScrub s d x).curves = s.curves := rfl
@[simp] theorem setScrub_gains (s : State) (d : Nat) (x : Scrub) : (setScrub s d x).gains = s.gains := rfl
@[simp] theorem setScrub_marches (s : State) (d : Nat) (x : Scrub) : (setScrub s d x).marches = s.marches := rfl
@[simp] theorem setScrub_evqs (s : State) (d : Nat) (x : Scrub) : (setScrub s d x).evqs = s.evqs := rfl
@[simp] theorem setScrub_conflicts (s : State) (d : Nat) (x : Scrub) : (setScrub s d x).conflicts = s.conflicts := rfl
@[simp] theorem setScrub_memCorr (s : State) (d : Nat) (x : Scrub) : (setScrub s d x).memCorr = s.memCorr := rfl
@[simp] theorem setScrub_ddr (s : State) (d : Nat) (x : Scrub) : (setScrub s d x).ddr = s.ddr := rfl
@[simp] theorem setScrub_dma (s : State) (d : Nat) (x : Scrub) : (setScrub s d x).dma = s.dma := rfl
@[simp] theorem setScrub_dmaDie (s : State) (d : Nat) (x : Scrub) : (setScrub s d x).dmaDie = s.dmaDie := rfl
@[simp] theorem setScrub_tb (s : State) (d : Nat) (x : Scrub) : (setScrub s d x).tb = s.tb := rfl
@[simp] theorem setScrub_sync (s : State) (d : Nat) (x : Scrub) : (setScrub s d x).sync = s.sync := rfl
@[simp] theorem setScrub_encs (s : State) (d : Nat) (x : Scrub) : (setScrub s d x).encs = s.encs := rfl
@[simp] theorem setScrub_rows (s : State) (d : Nat) (x : Scrub) : (setScrub s d x).rows = s.rows := rfl
@[simp] theorem setScrub_heads (s : State) (d : Nat) (x : Scrub) : (setScrub s d x).heads = s.heads := rfl
@[simp] theorem setScrub_groups (s : State) (d : Nat) (x : Scrub) : (setScrub s d x).groups = s.groups := rfl
@[simp] theorem setScrub_links (s : State) (d : Nat) (x : Scrub) : (setScrub s d x).links = s.links := rfl
@[simp] theorem setScrub_lanes (s : State) (d : Nat) (x : Scrub) : (setScrub s d x).lanes = s.lanes := rfl
@[simp] theorem setScrub_eyes (s : State) (d : Nat) (x : Scrub) : (setScrub s d x).eyes = s.eyes := rfl
@[simp] theorem setScrub_fences (s : State) (d : Nat) (x : Scrub) : (setScrub s d x).fences = s.fences := rfl
@[simp] theorem setScrub_hcFences (s : State) (d : Nat) (x : Scrub) : (setScrub s d x).hcFences = s.hcFences := rfl
@[simp] theorem setScrub_job (s : State) (d : Nat) (x : Scrub) : (setScrub s d x).job = s.job := rfl
@[simp] theorem setScrub_sqs (s : State) (d : Nat) (x : Scrub) : (setScrub s d x).sqs = s.sqs := rfl
@[simp] theorem setScrub_cqs (s : State) (d : Nat) (x : Scrub) : (setScrub s d x).cqs = s.cqs := rfl
@[simp] theorem setScrub_cmdq (s : State) (d : Nat) (x : Scrub) : (setScrub s d x).cmdq = s.cmdq := rfl
@[simp] theorem setScrub_popped (s : State) (d : Nat) (x : Scrub) : (setScrub s d x).popped = s.popped := rfl
@[simp] theorem setScrub_parked (s : State) (d : Nat) (x : Scrub) : (setScrub s d x).parked = s.parked := rfl
@[simp] theorem setScrub_mbox (s : State) (d : Nat) (x : Scrub) : (setScrub s d x).mbox = s.mbox := rfl
@[simp] theorem setScrub_smb (s : State) (d : Nat) (x : Scrub) : (setScrub s d x).smb = s.smb := rfl
@[simp] theorem setScrub_uartMb (s : State) (d : Nat) (x : Scrub) : (setScrub s d x).uartMb = s.uartMb := rfl
@[simp] theorem setScrub_apers (s : State) (d : Nat) (x : Scrub) : (setScrub s d x).apers = s.apers := rfl
@[simp] theorem setScrub_pcie (s : State) (d : Nat) (x : Scrub) : (setScrub s d x).pcie = s.pcie := rfl
@[simp] theorem setScrub_ports (s : State) (d : Nat) (x : Scrub) : (setScrub s d x).ports = s.ports := rfl
@[simp] theorem setScrub_lostRoutes (s : State) (d : Nat) (x : Scrub) : (setScrub s d x).lostRoutes = s.lostRoutes := rfl
@[simp] theorem setScrub_fabric (s : State) (d : Nat) (x : Scrub) : (setScrub s d x).fabric = s.fabric := rfl
@[simp] theorem setScrub_axes (s : State) (d : Nat) (x : Scrub) : (setScrub s d x).axes = s.axes := rfl
@[simp] theorem setScrub_svc (s : State) (d : Nat) (x : Scrub) : (setScrub s d x).svc = s.svc := rfl
@[simp] theorem setScrub_mgt (s : State) (d : Nat) (x : Scrub) : (setScrub s d x).mgt = s.mgt := rfl
@[simp] theorem setScrub_sense (s : State) (d : Nat) (x : Scrub) : (setScrub s d x).sense = s.sense := rfl
@[simp] theorem setScrub_log (s : State) (d : Nat) (x : Scrub) : (setScrub s d x).log = s.log := rfl
@[simp] theorem setScrub_cal (s : State) (d : Nat) (x : Scrub) : (setScrub s d x).cal = s.cal := rfl
@[simp] theorem setScrub_boot (s : State) (d : Nat) (x : Scrub) : (setScrub s d x).boot = s.boot := rfl
@[simp] theorem setScrub_die0Fault (s : State) (d : Nat) (x : Scrub) : (setScrub s d x).die0Fault = s.die0Fault := rfl
@[simp] theorem setScrub_startFailed (s : State) (d : Nat) (x : Scrub) : (setScrub s d x).startFailed = s.startFailed := rfl
@[simp] theorem setScrub_power (s : State) (d : Nat) (x : Scrub) : (setScrub s d x).power = s.power := rfl
@[simp] theorem setScrub_taps (s : State) (d : Nat) (x : Scrub) : (setScrub s d x).taps = s.taps := rfl

/-! ### setMarch -/

@[simp] theorem setMarch_pending (s : State) (d : Nat) (x : March) : (setMarch s d x).pending = s.pending := rfl
@[simp] theorem setMarch_out (s : State) (d : Nat) (x : March) : (setMarch s d x).out = s.out := rfl
@[simp] theorem setMarch_free (s : State) (d : Nat) (x : March) : (setMarch s d x).free = s.free := rfl
@[simp] theorem setMarch_part (s : State) (d : Nat) (x : March) : (setMarch s d x).part = s.part := rfl
@[simp] theorem setMarch_fuses (s : State) (d : Nat) (x : March) : (setMarch s d x).fuses = s.fuses := rfl
@[simp] theorem setMarch_dia (s : State) (d : Nat) (x : March) : (setMarch s d x).dia = s.dia := rfl
@[simp] theorem setMarch_load (s : State) (d : Nat) (x : March) : (setMarch s d x).load = s.load := rfl
@[simp] theorem setMarch_gram (s : State) (d : Nat) (x : March) : (setMarch s d x).gram = s.gram := rfl
@[simp] theorem setMarch_params (s : State) (d : Nat) (x : March) : (setMarch s d x).params = s.params := rfl
@[simp] theorem setMarch_pages (s : State) (d : Nat) (x : March) : (setMarch s d x).pages = s.pages := rfl
@[simp] theorem setMarch_blocks (s : State) (d : Nat) (x : March) : (setMarch s d x).blocks = s.blocks := rfl
@[simp] theorem setMarch_closed (s : State) (d : Nat) (x : March) : (setMarch s d x).closed = s.closed := rfl
@[simp] theorem setMarch_comps (s : State) (d : Nat) (x : March) : (setMarch s d x).comps = s.comps := rfl
@[simp] theorem setMarch_clauses (s : State) (d : Nat) (x : March) : (setMarch s d x).clauses = s.clauses := rfl
@[simp] theorem setMarch_cells (s : State) (d : Nat) (x : March) : (setMarch s d x).cells = s.cells := rfl
@[simp] theorem setMarch_slotMap (s : State) (d : Nat) (x : March) : (setMarch s d x).slotMap = s.slotMap := rfl
@[simp] theorem setMarch_imem (s : State) (d : Nat) (x : March) : (setMarch s d x).imem = s.imem := rfl
@[simp] theorem setMarch_dmem (s : State) (d : Nat) (x : March) : (setMarch s d x).dmem = s.dmem := rfl
@[simp] theorem setMarch_banks (s : State) (d : Nat) (x : March) : (setMarch s d x).banks = s.banks := rfl
@[simp] theorem setMarch_tcm (s : State) (d : Nat) (x : March) : (setMarch s d x).tcm = s.tcm := rfl
@[simp] theorem setMarch_dram (s : State) (d : Nat) (x : March) : (setMarch s d x).dram = s.dram := rfl
@[simp] theorem setMarch_flash (s : State) (d : Nat) (x : March) : (setMarch s d x).flash = s.flash := rfl
@[simp] theorem setMarch_poison (s : State) (d : Nat) (x : March) : (setMarch s d x).poison = s.poison := rfl
@[simp] theorem setMarch_flips (s : State) (d : Nat) (x : March) : (setMarch s d x).flips = s.flips := rfl
@[simp] theorem setMarch_dramPoison (s : State) (d : Nat) (x : March) : (setMarch s d x).dramPoison = s.dramPoison := rfl
@[simp] theorem setMarch_dramFlips (s : State) (d : Nat) (x : March) : (setMarch s d x).dramFlips = s.dramFlips := rfl
@[simp] theorem setMarch_dramHeld (s : State) (d : Nat) (x : March) : (setMarch s d x).dramHeld = s.dramHeld := rfl
@[simp] theorem setMarch_disabled (s : State) (d : Nat) (x : March) : (setMarch s d x).disabled = s.disabled := rfl
@[simp] theorem setMarch_curves (s : State) (d : Nat) (x : March) : (setMarch s d x).curves = s.curves := rfl
@[simp] theorem setMarch_gains (s : State) (d : Nat) (x : March) : (setMarch s d x).gains = s.gains := rfl
@[simp] theorem setMarch_scrubs (s : State) (d : Nat) (x : March) : (setMarch s d x).scrubs = s.scrubs := rfl
@[simp] theorem setMarch_evqs (s : State) (d : Nat) (x : March) : (setMarch s d x).evqs = s.evqs := rfl
@[simp] theorem setMarch_conflicts (s : State) (d : Nat) (x : March) : (setMarch s d x).conflicts = s.conflicts := rfl
@[simp] theorem setMarch_memCorr (s : State) (d : Nat) (x : March) : (setMarch s d x).memCorr = s.memCorr := rfl
@[simp] theorem setMarch_ddr (s : State) (d : Nat) (x : March) : (setMarch s d x).ddr = s.ddr := rfl
@[simp] theorem setMarch_dma (s : State) (d : Nat) (x : March) : (setMarch s d x).dma = s.dma := rfl
@[simp] theorem setMarch_dmaDie (s : State) (d : Nat) (x : March) : (setMarch s d x).dmaDie = s.dmaDie := rfl
@[simp] theorem setMarch_tb (s : State) (d : Nat) (x : March) : (setMarch s d x).tb = s.tb := rfl
@[simp] theorem setMarch_sync (s : State) (d : Nat) (x : March) : (setMarch s d x).sync = s.sync := rfl
@[simp] theorem setMarch_encs (s : State) (d : Nat) (x : March) : (setMarch s d x).encs = s.encs := rfl
@[simp] theorem setMarch_rows (s : State) (d : Nat) (x : March) : (setMarch s d x).rows = s.rows := rfl
@[simp] theorem setMarch_heads (s : State) (d : Nat) (x : March) : (setMarch s d x).heads = s.heads := rfl
@[simp] theorem setMarch_groups (s : State) (d : Nat) (x : March) : (setMarch s d x).groups = s.groups := rfl
@[simp] theorem setMarch_links (s : State) (d : Nat) (x : March) : (setMarch s d x).links = s.links := rfl
@[simp] theorem setMarch_lanes (s : State) (d : Nat) (x : March) : (setMarch s d x).lanes = s.lanes := rfl
@[simp] theorem setMarch_eyes (s : State) (d : Nat) (x : March) : (setMarch s d x).eyes = s.eyes := rfl
@[simp] theorem setMarch_fences (s : State) (d : Nat) (x : March) : (setMarch s d x).fences = s.fences := rfl
@[simp] theorem setMarch_hcFences (s : State) (d : Nat) (x : March) : (setMarch s d x).hcFences = s.hcFences := rfl
@[simp] theorem setMarch_job (s : State) (d : Nat) (x : March) : (setMarch s d x).job = s.job := rfl
@[simp] theorem setMarch_sqs (s : State) (d : Nat) (x : March) : (setMarch s d x).sqs = s.sqs := rfl
@[simp] theorem setMarch_cqs (s : State) (d : Nat) (x : March) : (setMarch s d x).cqs = s.cqs := rfl
@[simp] theorem setMarch_cmdq (s : State) (d : Nat) (x : March) : (setMarch s d x).cmdq = s.cmdq := rfl
@[simp] theorem setMarch_popped (s : State) (d : Nat) (x : March) : (setMarch s d x).popped = s.popped := rfl
@[simp] theorem setMarch_parked (s : State) (d : Nat) (x : March) : (setMarch s d x).parked = s.parked := rfl
@[simp] theorem setMarch_mbox (s : State) (d : Nat) (x : March) : (setMarch s d x).mbox = s.mbox := rfl
@[simp] theorem setMarch_smb (s : State) (d : Nat) (x : March) : (setMarch s d x).smb = s.smb := rfl
@[simp] theorem setMarch_uartMb (s : State) (d : Nat) (x : March) : (setMarch s d x).uartMb = s.uartMb := rfl
@[simp] theorem setMarch_apers (s : State) (d : Nat) (x : March) : (setMarch s d x).apers = s.apers := rfl
@[simp] theorem setMarch_pcie (s : State) (d : Nat) (x : March) : (setMarch s d x).pcie = s.pcie := rfl
@[simp] theorem setMarch_ports (s : State) (d : Nat) (x : March) : (setMarch s d x).ports = s.ports := rfl
@[simp] theorem setMarch_lostRoutes (s : State) (d : Nat) (x : March) : (setMarch s d x).lostRoutes = s.lostRoutes := rfl
@[simp] theorem setMarch_fabric (s : State) (d : Nat) (x : March) : (setMarch s d x).fabric = s.fabric := rfl
@[simp] theorem setMarch_axes (s : State) (d : Nat) (x : March) : (setMarch s d x).axes = s.axes := rfl
@[simp] theorem setMarch_svc (s : State) (d : Nat) (x : March) : (setMarch s d x).svc = s.svc := rfl
@[simp] theorem setMarch_mgt (s : State) (d : Nat) (x : March) : (setMarch s d x).mgt = s.mgt := rfl
@[simp] theorem setMarch_sense (s : State) (d : Nat) (x : March) : (setMarch s d x).sense = s.sense := rfl
@[simp] theorem setMarch_log (s : State) (d : Nat) (x : March) : (setMarch s d x).log = s.log := rfl
@[simp] theorem setMarch_cal (s : State) (d : Nat) (x : March) : (setMarch s d x).cal = s.cal := rfl
@[simp] theorem setMarch_boot (s : State) (d : Nat) (x : March) : (setMarch s d x).boot = s.boot := rfl
@[simp] theorem setMarch_die0Fault (s : State) (d : Nat) (x : March) : (setMarch s d x).die0Fault = s.die0Fault := rfl
@[simp] theorem setMarch_startFailed (s : State) (d : Nat) (x : March) : (setMarch s d x).startFailed = s.startFailed := rfl
@[simp] theorem setMarch_power (s : State) (d : Nat) (x : March) : (setMarch s d x).power = s.power := rfl
@[simp] theorem setMarch_taps (s : State) (d : Nat) (x : March) : (setMarch s d x).taps = s.taps := rfl

/-! ### setEvq -/

@[simp] theorem setEvq_pending (s : State) (i : Nat) (x : EvQueue) : (setEvq s i x).pending = s.pending := rfl
@[simp] theorem setEvq_out (s : State) (i : Nat) (x : EvQueue) : (setEvq s i x).out = s.out := rfl
@[simp] theorem setEvq_free (s : State) (i : Nat) (x : EvQueue) : (setEvq s i x).free = s.free := rfl
@[simp] theorem setEvq_part (s : State) (i : Nat) (x : EvQueue) : (setEvq s i x).part = s.part := rfl
@[simp] theorem setEvq_fuses (s : State) (i : Nat) (x : EvQueue) : (setEvq s i x).fuses = s.fuses := rfl
@[simp] theorem setEvq_dia (s : State) (i : Nat) (x : EvQueue) : (setEvq s i x).dia = s.dia := rfl
@[simp] theorem setEvq_load (s : State) (i : Nat) (x : EvQueue) : (setEvq s i x).load = s.load := rfl
@[simp] theorem setEvq_gram (s : State) (i : Nat) (x : EvQueue) : (setEvq s i x).gram = s.gram := rfl
@[simp] theorem setEvq_params (s : State) (i : Nat) (x : EvQueue) : (setEvq s i x).params = s.params := rfl
@[simp] theorem setEvq_pages (s : State) (i : Nat) (x : EvQueue) : (setEvq s i x).pages = s.pages := rfl
@[simp] theorem setEvq_blocks (s : State) (i : Nat) (x : EvQueue) : (setEvq s i x).blocks = s.blocks := rfl
@[simp] theorem setEvq_closed (s : State) (i : Nat) (x : EvQueue) : (setEvq s i x).closed = s.closed := rfl
@[simp] theorem setEvq_comps (s : State) (i : Nat) (x : EvQueue) : (setEvq s i x).comps = s.comps := rfl
@[simp] theorem setEvq_clauses (s : State) (i : Nat) (x : EvQueue) : (setEvq s i x).clauses = s.clauses := rfl
@[simp] theorem setEvq_cells (s : State) (i : Nat) (x : EvQueue) : (setEvq s i x).cells = s.cells := rfl
@[simp] theorem setEvq_slotMap (s : State) (i : Nat) (x : EvQueue) : (setEvq s i x).slotMap = s.slotMap := rfl
@[simp] theorem setEvq_imem (s : State) (i : Nat) (x : EvQueue) : (setEvq s i x).imem = s.imem := rfl
@[simp] theorem setEvq_dmem (s : State) (i : Nat) (x : EvQueue) : (setEvq s i x).dmem = s.dmem := rfl
@[simp] theorem setEvq_banks (s : State) (i : Nat) (x : EvQueue) : (setEvq s i x).banks = s.banks := rfl
@[simp] theorem setEvq_tcm (s : State) (i : Nat) (x : EvQueue) : (setEvq s i x).tcm = s.tcm := rfl
@[simp] theorem setEvq_dram (s : State) (i : Nat) (x : EvQueue) : (setEvq s i x).dram = s.dram := rfl
@[simp] theorem setEvq_flash (s : State) (i : Nat) (x : EvQueue) : (setEvq s i x).flash = s.flash := rfl
@[simp] theorem setEvq_poison (s : State) (i : Nat) (x : EvQueue) : (setEvq s i x).poison = s.poison := rfl
@[simp] theorem setEvq_flips (s : State) (i : Nat) (x : EvQueue) : (setEvq s i x).flips = s.flips := rfl
@[simp] theorem setEvq_dramPoison (s : State) (i : Nat) (x : EvQueue) : (setEvq s i x).dramPoison = s.dramPoison := rfl
@[simp] theorem setEvq_dramFlips (s : State) (i : Nat) (x : EvQueue) : (setEvq s i x).dramFlips = s.dramFlips := rfl
@[simp] theorem setEvq_dramHeld (s : State) (i : Nat) (x : EvQueue) : (setEvq s i x).dramHeld = s.dramHeld := rfl
@[simp] theorem setEvq_disabled (s : State) (i : Nat) (x : EvQueue) : (setEvq s i x).disabled = s.disabled := rfl
@[simp] theorem setEvq_curves (s : State) (i : Nat) (x : EvQueue) : (setEvq s i x).curves = s.curves := rfl
@[simp] theorem setEvq_gains (s : State) (i : Nat) (x : EvQueue) : (setEvq s i x).gains = s.gains := rfl
@[simp] theorem setEvq_scrubs (s : State) (i : Nat) (x : EvQueue) : (setEvq s i x).scrubs = s.scrubs := rfl
@[simp] theorem setEvq_marches (s : State) (i : Nat) (x : EvQueue) : (setEvq s i x).marches = s.marches := rfl
@[simp] theorem setEvq_conflicts (s : State) (i : Nat) (x : EvQueue) : (setEvq s i x).conflicts = s.conflicts := rfl
@[simp] theorem setEvq_memCorr (s : State) (i : Nat) (x : EvQueue) : (setEvq s i x).memCorr = s.memCorr := rfl
@[simp] theorem setEvq_ddr (s : State) (i : Nat) (x : EvQueue) : (setEvq s i x).ddr = s.ddr := rfl
@[simp] theorem setEvq_dma (s : State) (i : Nat) (x : EvQueue) : (setEvq s i x).dma = s.dma := rfl
@[simp] theorem setEvq_dmaDie (s : State) (i : Nat) (x : EvQueue) : (setEvq s i x).dmaDie = s.dmaDie := rfl
@[simp] theorem setEvq_tb (s : State) (i : Nat) (x : EvQueue) : (setEvq s i x).tb = s.tb := rfl
@[simp] theorem setEvq_sync (s : State) (i : Nat) (x : EvQueue) : (setEvq s i x).sync = s.sync := rfl
@[simp] theorem setEvq_encs (s : State) (i : Nat) (x : EvQueue) : (setEvq s i x).encs = s.encs := rfl
@[simp] theorem setEvq_rows (s : State) (i : Nat) (x : EvQueue) : (setEvq s i x).rows = s.rows := rfl
@[simp] theorem setEvq_heads (s : State) (i : Nat) (x : EvQueue) : (setEvq s i x).heads = s.heads := rfl
@[simp] theorem setEvq_groups (s : State) (i : Nat) (x : EvQueue) : (setEvq s i x).groups = s.groups := rfl
@[simp] theorem setEvq_links (s : State) (i : Nat) (x : EvQueue) : (setEvq s i x).links = s.links := rfl
@[simp] theorem setEvq_lanes (s : State) (i : Nat) (x : EvQueue) : (setEvq s i x).lanes = s.lanes := rfl
@[simp] theorem setEvq_eyes (s : State) (i : Nat) (x : EvQueue) : (setEvq s i x).eyes = s.eyes := rfl
@[simp] theorem setEvq_fences (s : State) (i : Nat) (x : EvQueue) : (setEvq s i x).fences = s.fences := rfl
@[simp] theorem setEvq_hcFences (s : State) (i : Nat) (x : EvQueue) : (setEvq s i x).hcFences = s.hcFences := rfl
@[simp] theorem setEvq_job (s : State) (i : Nat) (x : EvQueue) : (setEvq s i x).job = s.job := rfl
@[simp] theorem setEvq_sqs (s : State) (i : Nat) (x : EvQueue) : (setEvq s i x).sqs = s.sqs := rfl
@[simp] theorem setEvq_cqs (s : State) (i : Nat) (x : EvQueue) : (setEvq s i x).cqs = s.cqs := rfl
@[simp] theorem setEvq_cmdq (s : State) (i : Nat) (x : EvQueue) : (setEvq s i x).cmdq = s.cmdq := rfl
@[simp] theorem setEvq_popped (s : State) (i : Nat) (x : EvQueue) : (setEvq s i x).popped = s.popped := rfl
@[simp] theorem setEvq_parked (s : State) (i : Nat) (x : EvQueue) : (setEvq s i x).parked = s.parked := rfl
@[simp] theorem setEvq_mbox (s : State) (i : Nat) (x : EvQueue) : (setEvq s i x).mbox = s.mbox := rfl
@[simp] theorem setEvq_smb (s : State) (i : Nat) (x : EvQueue) : (setEvq s i x).smb = s.smb := rfl
@[simp] theorem setEvq_uartMb (s : State) (i : Nat) (x : EvQueue) : (setEvq s i x).uartMb = s.uartMb := rfl
@[simp] theorem setEvq_apers (s : State) (i : Nat) (x : EvQueue) : (setEvq s i x).apers = s.apers := rfl
@[simp] theorem setEvq_pcie (s : State) (i : Nat) (x : EvQueue) : (setEvq s i x).pcie = s.pcie := rfl
@[simp] theorem setEvq_ports (s : State) (i : Nat) (x : EvQueue) : (setEvq s i x).ports = s.ports := rfl
@[simp] theorem setEvq_lostRoutes (s : State) (i : Nat) (x : EvQueue) : (setEvq s i x).lostRoutes = s.lostRoutes := rfl
@[simp] theorem setEvq_fabric (s : State) (i : Nat) (x : EvQueue) : (setEvq s i x).fabric = s.fabric := rfl
@[simp] theorem setEvq_axes (s : State) (i : Nat) (x : EvQueue) : (setEvq s i x).axes = s.axes := rfl
@[simp] theorem setEvq_svc (s : State) (i : Nat) (x : EvQueue) : (setEvq s i x).svc = s.svc := rfl
@[simp] theorem setEvq_mgt (s : State) (i : Nat) (x : EvQueue) : (setEvq s i x).mgt = s.mgt := rfl
@[simp] theorem setEvq_sense (s : State) (i : Nat) (x : EvQueue) : (setEvq s i x).sense = s.sense := rfl
@[simp] theorem setEvq_log (s : State) (i : Nat) (x : EvQueue) : (setEvq s i x).log = s.log := rfl
@[simp] theorem setEvq_cal (s : State) (i : Nat) (x : EvQueue) : (setEvq s i x).cal = s.cal := rfl
@[simp] theorem setEvq_boot (s : State) (i : Nat) (x : EvQueue) : (setEvq s i x).boot = s.boot := rfl
@[simp] theorem setEvq_die0Fault (s : State) (i : Nat) (x : EvQueue) : (setEvq s i x).die0Fault = s.die0Fault := rfl
@[simp] theorem setEvq_startFailed (s : State) (i : Nat) (x : EvQueue) : (setEvq s i x).startFailed = s.startFailed := rfl
@[simp] theorem setEvq_power (s : State) (i : Nat) (x : EvQueue) : (setEvq s i x).power = s.power := rfl
@[simp] theorem setEvq_taps (s : State) (i : Nat) (x : EvQueue) : (setEvq s i x).taps = s.taps := rfl

/-! ### setComp -/

@[simp] theorem setComp_pending (s : State) (d : Nat) (x : Compressor) : (setComp s d x).pending = s.pending := rfl
@[simp] theorem setComp_out (s : State) (d : Nat) (x : Compressor) : (setComp s d x).out = s.out := rfl
@[simp] theorem setComp_free (s : State) (d : Nat) (x : Compressor) : (setComp s d x).free = s.free := rfl
@[simp] theorem setComp_part (s : State) (d : Nat) (x : Compressor) : (setComp s d x).part = s.part := rfl
@[simp] theorem setComp_fuses (s : State) (d : Nat) (x : Compressor) : (setComp s d x).fuses = s.fuses := rfl
@[simp] theorem setComp_dia (s : State) (d : Nat) (x : Compressor) : (setComp s d x).dia = s.dia := rfl
@[simp] theorem setComp_load (s : State) (d : Nat) (x : Compressor) : (setComp s d x).load = s.load := rfl
@[simp] theorem setComp_gram (s : State) (d : Nat) (x : Compressor) : (setComp s d x).gram = s.gram := rfl
@[simp] theorem setComp_params (s : State) (d : Nat) (x : Compressor) : (setComp s d x).params = s.params := rfl
@[simp] theorem setComp_pages (s : State) (d : Nat) (x : Compressor) : (setComp s d x).pages = s.pages := rfl
@[simp] theorem setComp_blocks (s : State) (d : Nat) (x : Compressor) : (setComp s d x).blocks = s.blocks := rfl
@[simp] theorem setComp_closed (s : State) (d : Nat) (x : Compressor) : (setComp s d x).closed = s.closed := rfl
@[simp] theorem setComp_clauses (s : State) (d : Nat) (x : Compressor) : (setComp s d x).clauses = s.clauses := rfl
@[simp] theorem setComp_cells (s : State) (d : Nat) (x : Compressor) : (setComp s d x).cells = s.cells := rfl
@[simp] theorem setComp_slotMap (s : State) (d : Nat) (x : Compressor) : (setComp s d x).slotMap = s.slotMap := rfl
@[simp] theorem setComp_imem (s : State) (d : Nat) (x : Compressor) : (setComp s d x).imem = s.imem := rfl
@[simp] theorem setComp_dmem (s : State) (d : Nat) (x : Compressor) : (setComp s d x).dmem = s.dmem := rfl
@[simp] theorem setComp_banks (s : State) (d : Nat) (x : Compressor) : (setComp s d x).banks = s.banks := rfl
@[simp] theorem setComp_tcm (s : State) (d : Nat) (x : Compressor) : (setComp s d x).tcm = s.tcm := rfl
@[simp] theorem setComp_dram (s : State) (d : Nat) (x : Compressor) : (setComp s d x).dram = s.dram := rfl
@[simp] theorem setComp_flash (s : State) (d : Nat) (x : Compressor) : (setComp s d x).flash = s.flash := rfl
@[simp] theorem setComp_poison (s : State) (d : Nat) (x : Compressor) : (setComp s d x).poison = s.poison := rfl
@[simp] theorem setComp_flips (s : State) (d : Nat) (x : Compressor) : (setComp s d x).flips = s.flips := rfl
@[simp] theorem setComp_dramPoison (s : State) (d : Nat) (x : Compressor) : (setComp s d x).dramPoison = s.dramPoison := rfl
@[simp] theorem setComp_dramFlips (s : State) (d : Nat) (x : Compressor) : (setComp s d x).dramFlips = s.dramFlips := rfl
@[simp] theorem setComp_dramHeld (s : State) (d : Nat) (x : Compressor) : (setComp s d x).dramHeld = s.dramHeld := rfl
@[simp] theorem setComp_disabled (s : State) (d : Nat) (x : Compressor) : (setComp s d x).disabled = s.disabled := rfl
@[simp] theorem setComp_curves (s : State) (d : Nat) (x : Compressor) : (setComp s d x).curves = s.curves := rfl
@[simp] theorem setComp_gains (s : State) (d : Nat) (x : Compressor) : (setComp s d x).gains = s.gains := rfl
@[simp] theorem setComp_scrubs (s : State) (d : Nat) (x : Compressor) : (setComp s d x).scrubs = s.scrubs := rfl
@[simp] theorem setComp_marches (s : State) (d : Nat) (x : Compressor) : (setComp s d x).marches = s.marches := rfl
@[simp] theorem setComp_evqs (s : State) (d : Nat) (x : Compressor) : (setComp s d x).evqs = s.evqs := rfl
@[simp] theorem setComp_conflicts (s : State) (d : Nat) (x : Compressor) : (setComp s d x).conflicts = s.conflicts := rfl
@[simp] theorem setComp_memCorr (s : State) (d : Nat) (x : Compressor) : (setComp s d x).memCorr = s.memCorr := rfl
@[simp] theorem setComp_ddr (s : State) (d : Nat) (x : Compressor) : (setComp s d x).ddr = s.ddr := rfl
@[simp] theorem setComp_dma (s : State) (d : Nat) (x : Compressor) : (setComp s d x).dma = s.dma := rfl
@[simp] theorem setComp_dmaDie (s : State) (d : Nat) (x : Compressor) : (setComp s d x).dmaDie = s.dmaDie := rfl
@[simp] theorem setComp_tb (s : State) (d : Nat) (x : Compressor) : (setComp s d x).tb = s.tb := rfl
@[simp] theorem setComp_sync (s : State) (d : Nat) (x : Compressor) : (setComp s d x).sync = s.sync := rfl
@[simp] theorem setComp_encs (s : State) (d : Nat) (x : Compressor) : (setComp s d x).encs = s.encs := rfl
@[simp] theorem setComp_rows (s : State) (d : Nat) (x : Compressor) : (setComp s d x).rows = s.rows := rfl
@[simp] theorem setComp_heads (s : State) (d : Nat) (x : Compressor) : (setComp s d x).heads = s.heads := rfl
@[simp] theorem setComp_groups (s : State) (d : Nat) (x : Compressor) : (setComp s d x).groups = s.groups := rfl
@[simp] theorem setComp_links (s : State) (d : Nat) (x : Compressor) : (setComp s d x).links = s.links := rfl
@[simp] theorem setComp_lanes (s : State) (d : Nat) (x : Compressor) : (setComp s d x).lanes = s.lanes := rfl
@[simp] theorem setComp_eyes (s : State) (d : Nat) (x : Compressor) : (setComp s d x).eyes = s.eyes := rfl
@[simp] theorem setComp_fences (s : State) (d : Nat) (x : Compressor) : (setComp s d x).fences = s.fences := rfl
@[simp] theorem setComp_hcFences (s : State) (d : Nat) (x : Compressor) : (setComp s d x).hcFences = s.hcFences := rfl
@[simp] theorem setComp_job (s : State) (d : Nat) (x : Compressor) : (setComp s d x).job = s.job := rfl
@[simp] theorem setComp_sqs (s : State) (d : Nat) (x : Compressor) : (setComp s d x).sqs = s.sqs := rfl
@[simp] theorem setComp_cqs (s : State) (d : Nat) (x : Compressor) : (setComp s d x).cqs = s.cqs := rfl
@[simp] theorem setComp_cmdq (s : State) (d : Nat) (x : Compressor) : (setComp s d x).cmdq = s.cmdq := rfl
@[simp] theorem setComp_popped (s : State) (d : Nat) (x : Compressor) : (setComp s d x).popped = s.popped := rfl
@[simp] theorem setComp_parked (s : State) (d : Nat) (x : Compressor) : (setComp s d x).parked = s.parked := rfl
@[simp] theorem setComp_mbox (s : State) (d : Nat) (x : Compressor) : (setComp s d x).mbox = s.mbox := rfl
@[simp] theorem setComp_smb (s : State) (d : Nat) (x : Compressor) : (setComp s d x).smb = s.smb := rfl
@[simp] theorem setComp_uartMb (s : State) (d : Nat) (x : Compressor) : (setComp s d x).uartMb = s.uartMb := rfl
@[simp] theorem setComp_apers (s : State) (d : Nat) (x : Compressor) : (setComp s d x).apers = s.apers := rfl
@[simp] theorem setComp_pcie (s : State) (d : Nat) (x : Compressor) : (setComp s d x).pcie = s.pcie := rfl
@[simp] theorem setComp_ports (s : State) (d : Nat) (x : Compressor) : (setComp s d x).ports = s.ports := rfl
@[simp] theorem setComp_lostRoutes (s : State) (d : Nat) (x : Compressor) : (setComp s d x).lostRoutes = s.lostRoutes := rfl
@[simp] theorem setComp_fabric (s : State) (d : Nat) (x : Compressor) : (setComp s d x).fabric = s.fabric := rfl
@[simp] theorem setComp_axes (s : State) (d : Nat) (x : Compressor) : (setComp s d x).axes = s.axes := rfl
@[simp] theorem setComp_svc (s : State) (d : Nat) (x : Compressor) : (setComp s d x).svc = s.svc := rfl
@[simp] theorem setComp_mgt (s : State) (d : Nat) (x : Compressor) : (setComp s d x).mgt = s.mgt := rfl
@[simp] theorem setComp_sense (s : State) (d : Nat) (x : Compressor) : (setComp s d x).sense = s.sense := rfl
@[simp] theorem setComp_log (s : State) (d : Nat) (x : Compressor) : (setComp s d x).log = s.log := rfl
@[simp] theorem setComp_cal (s : State) (d : Nat) (x : Compressor) : (setComp s d x).cal = s.cal := rfl
@[simp] theorem setComp_boot (s : State) (d : Nat) (x : Compressor) : (setComp s d x).boot = s.boot := rfl
@[simp] theorem setComp_die0Fault (s : State) (d : Nat) (x : Compressor) : (setComp s d x).die0Fault = s.die0Fault := rfl
@[simp] theorem setComp_startFailed (s : State) (d : Nat) (x : Compressor) : (setComp s d x).startFailed = s.startFailed := rfl
@[simp] theorem setComp_power (s : State) (d : Nat) (x : Compressor) : (setComp s d x).power = s.power := rfl
@[simp] theorem setComp_taps (s : State) (d : Nat) (x : Compressor) : (setComp s d x).taps = s.taps := rfl

/-! ### setPort -/

@[simp] theorem setPort_pending (s : State) (i : Nat) (x : Port) : (setPort s i x).pending = s.pending := rfl
@[simp] theorem setPort_out (s : State) (i : Nat) (x : Port) : (setPort s i x).out = s.out := rfl
@[simp] theorem setPort_free (s : State) (i : Nat) (x : Port) : (setPort s i x).free = s.free := rfl
@[simp] theorem setPort_part (s : State) (i : Nat) (x : Port) : (setPort s i x).part = s.part := rfl
@[simp] theorem setPort_fuses (s : State) (i : Nat) (x : Port) : (setPort s i x).fuses = s.fuses := rfl
@[simp] theorem setPort_dia (s : State) (i : Nat) (x : Port) : (setPort s i x).dia = s.dia := rfl
@[simp] theorem setPort_load (s : State) (i : Nat) (x : Port) : (setPort s i x).load = s.load := rfl
@[simp] theorem setPort_gram (s : State) (i : Nat) (x : Port) : (setPort s i x).gram = s.gram := rfl
@[simp] theorem setPort_params (s : State) (i : Nat) (x : Port) : (setPort s i x).params = s.params := rfl
@[simp] theorem setPort_pages (s : State) (i : Nat) (x : Port) : (setPort s i x).pages = s.pages := rfl
@[simp] theorem setPort_blocks (s : State) (i : Nat) (x : Port) : (setPort s i x).blocks = s.blocks := rfl
@[simp] theorem setPort_closed (s : State) (i : Nat) (x : Port) : (setPort s i x).closed = s.closed := rfl
@[simp] theorem setPort_comps (s : State) (i : Nat) (x : Port) : (setPort s i x).comps = s.comps := rfl
@[simp] theorem setPort_clauses (s : State) (i : Nat) (x : Port) : (setPort s i x).clauses = s.clauses := rfl
@[simp] theorem setPort_cells (s : State) (i : Nat) (x : Port) : (setPort s i x).cells = s.cells := rfl
@[simp] theorem setPort_slotMap (s : State) (i : Nat) (x : Port) : (setPort s i x).slotMap = s.slotMap := rfl
@[simp] theorem setPort_imem (s : State) (i : Nat) (x : Port) : (setPort s i x).imem = s.imem := rfl
@[simp] theorem setPort_dmem (s : State) (i : Nat) (x : Port) : (setPort s i x).dmem = s.dmem := rfl
@[simp] theorem setPort_banks (s : State) (i : Nat) (x : Port) : (setPort s i x).banks = s.banks := rfl
@[simp] theorem setPort_tcm (s : State) (i : Nat) (x : Port) : (setPort s i x).tcm = s.tcm := rfl
@[simp] theorem setPort_dram (s : State) (i : Nat) (x : Port) : (setPort s i x).dram = s.dram := rfl
@[simp] theorem setPort_flash (s : State) (i : Nat) (x : Port) : (setPort s i x).flash = s.flash := rfl
@[simp] theorem setPort_poison (s : State) (i : Nat) (x : Port) : (setPort s i x).poison = s.poison := rfl
@[simp] theorem setPort_flips (s : State) (i : Nat) (x : Port) : (setPort s i x).flips = s.flips := rfl
@[simp] theorem setPort_dramPoison (s : State) (i : Nat) (x : Port) : (setPort s i x).dramPoison = s.dramPoison := rfl
@[simp] theorem setPort_dramFlips (s : State) (i : Nat) (x : Port) : (setPort s i x).dramFlips = s.dramFlips := rfl
@[simp] theorem setPort_dramHeld (s : State) (i : Nat) (x : Port) : (setPort s i x).dramHeld = s.dramHeld := rfl
@[simp] theorem setPort_disabled (s : State) (i : Nat) (x : Port) : (setPort s i x).disabled = s.disabled := rfl
@[simp] theorem setPort_curves (s : State) (i : Nat) (x : Port) : (setPort s i x).curves = s.curves := rfl
@[simp] theorem setPort_gains (s : State) (i : Nat) (x : Port) : (setPort s i x).gains = s.gains := rfl
@[simp] theorem setPort_scrubs (s : State) (i : Nat) (x : Port) : (setPort s i x).scrubs = s.scrubs := rfl
@[simp] theorem setPort_marches (s : State) (i : Nat) (x : Port) : (setPort s i x).marches = s.marches := rfl
@[simp] theorem setPort_evqs (s : State) (i : Nat) (x : Port) : (setPort s i x).evqs = s.evqs := rfl
@[simp] theorem setPort_conflicts (s : State) (i : Nat) (x : Port) : (setPort s i x).conflicts = s.conflicts := rfl
@[simp] theorem setPort_memCorr (s : State) (i : Nat) (x : Port) : (setPort s i x).memCorr = s.memCorr := rfl
@[simp] theorem setPort_ddr (s : State) (i : Nat) (x : Port) : (setPort s i x).ddr = s.ddr := rfl
@[simp] theorem setPort_dma (s : State) (i : Nat) (x : Port) : (setPort s i x).dma = s.dma := rfl
@[simp] theorem setPort_dmaDie (s : State) (i : Nat) (x : Port) : (setPort s i x).dmaDie = s.dmaDie := rfl
@[simp] theorem setPort_tb (s : State) (i : Nat) (x : Port) : (setPort s i x).tb = s.tb := rfl
@[simp] theorem setPort_sync (s : State) (i : Nat) (x : Port) : (setPort s i x).sync = s.sync := rfl
@[simp] theorem setPort_encs (s : State) (i : Nat) (x : Port) : (setPort s i x).encs = s.encs := rfl
@[simp] theorem setPort_rows (s : State) (i : Nat) (x : Port) : (setPort s i x).rows = s.rows := rfl
@[simp] theorem setPort_heads (s : State) (i : Nat) (x : Port) : (setPort s i x).heads = s.heads := rfl
@[simp] theorem setPort_groups (s : State) (i : Nat) (x : Port) : (setPort s i x).groups = s.groups := rfl
@[simp] theorem setPort_links (s : State) (i : Nat) (x : Port) : (setPort s i x).links = s.links := rfl
@[simp] theorem setPort_lanes (s : State) (i : Nat) (x : Port) : (setPort s i x).lanes = s.lanes := rfl
@[simp] theorem setPort_eyes (s : State) (i : Nat) (x : Port) : (setPort s i x).eyes = s.eyes := rfl
@[simp] theorem setPort_fences (s : State) (i : Nat) (x : Port) : (setPort s i x).fences = s.fences := rfl
@[simp] theorem setPort_hcFences (s : State) (i : Nat) (x : Port) : (setPort s i x).hcFences = s.hcFences := rfl
@[simp] theorem setPort_job (s : State) (i : Nat) (x : Port) : (setPort s i x).job = s.job := rfl
@[simp] theorem setPort_sqs (s : State) (i : Nat) (x : Port) : (setPort s i x).sqs = s.sqs := rfl
@[simp] theorem setPort_cqs (s : State) (i : Nat) (x : Port) : (setPort s i x).cqs = s.cqs := rfl
@[simp] theorem setPort_cmdq (s : State) (i : Nat) (x : Port) : (setPort s i x).cmdq = s.cmdq := rfl
@[simp] theorem setPort_popped (s : State) (i : Nat) (x : Port) : (setPort s i x).popped = s.popped := rfl
@[simp] theorem setPort_parked (s : State) (i : Nat) (x : Port) : (setPort s i x).parked = s.parked := rfl
@[simp] theorem setPort_mbox (s : State) (i : Nat) (x : Port) : (setPort s i x).mbox = s.mbox := rfl
@[simp] theorem setPort_smb (s : State) (i : Nat) (x : Port) : (setPort s i x).smb = s.smb := rfl
@[simp] theorem setPort_uartMb (s : State) (i : Nat) (x : Port) : (setPort s i x).uartMb = s.uartMb := rfl
@[simp] theorem setPort_apers (s : State) (i : Nat) (x : Port) : (setPort s i x).apers = s.apers := rfl
@[simp] theorem setPort_pcie (s : State) (i : Nat) (x : Port) : (setPort s i x).pcie = s.pcie := rfl
@[simp] theorem setPort_lostRoutes (s : State) (i : Nat) (x : Port) : (setPort s i x).lostRoutes = s.lostRoutes := rfl
@[simp] theorem setPort_fabric (s : State) (i : Nat) (x : Port) : (setPort s i x).fabric = s.fabric := rfl
@[simp] theorem setPort_axes (s : State) (i : Nat) (x : Port) : (setPort s i x).axes = s.axes := rfl
@[simp] theorem setPort_svc (s : State) (i : Nat) (x : Port) : (setPort s i x).svc = s.svc := rfl
@[simp] theorem setPort_mgt (s : State) (i : Nat) (x : Port) : (setPort s i x).mgt = s.mgt := rfl
@[simp] theorem setPort_sense (s : State) (i : Nat) (x : Port) : (setPort s i x).sense = s.sense := rfl
@[simp] theorem setPort_log (s : State) (i : Nat) (x : Port) : (setPort s i x).log = s.log := rfl
@[simp] theorem setPort_cal (s : State) (i : Nat) (x : Port) : (setPort s i x).cal = s.cal := rfl
@[simp] theorem setPort_boot (s : State) (i : Nat) (x : Port) : (setPort s i x).boot = s.boot := rfl
@[simp] theorem setPort_die0Fault (s : State) (i : Nat) (x : Port) : (setPort s i x).die0Fault = s.die0Fault := rfl
@[simp] theorem setPort_startFailed (s : State) (i : Nat) (x : Port) : (setPort s i x).startFailed = s.startFailed := rfl
@[simp] theorem setPort_power (s : State) (i : Nat) (x : Port) : (setPort s i x).power = s.power := rfl
@[simp] theorem setPort_taps (s : State) (i : Nat) (x : Port) : (setPort s i x).taps = s.taps := rfl

/-! ### setAxis -/

@[simp] theorem setAxis_pending (s : State) (a : Nat) (x : Axis) : (setAxis s a x).pending = s.pending := rfl
@[simp] theorem setAxis_out (s : State) (a : Nat) (x : Axis) : (setAxis s a x).out = s.out := rfl
@[simp] theorem setAxis_free (s : State) (a : Nat) (x : Axis) : (setAxis s a x).free = s.free := rfl
@[simp] theorem setAxis_part (s : State) (a : Nat) (x : Axis) : (setAxis s a x).part = s.part := rfl
@[simp] theorem setAxis_fuses (s : State) (a : Nat) (x : Axis) : (setAxis s a x).fuses = s.fuses := rfl
@[simp] theorem setAxis_dia (s : State) (a : Nat) (x : Axis) : (setAxis s a x).dia = s.dia := rfl
@[simp] theorem setAxis_load (s : State) (a : Nat) (x : Axis) : (setAxis s a x).load = s.load := rfl
@[simp] theorem setAxis_gram (s : State) (a : Nat) (x : Axis) : (setAxis s a x).gram = s.gram := rfl
@[simp] theorem setAxis_params (s : State) (a : Nat) (x : Axis) : (setAxis s a x).params = s.params := rfl
@[simp] theorem setAxis_pages (s : State) (a : Nat) (x : Axis) : (setAxis s a x).pages = s.pages := rfl
@[simp] theorem setAxis_blocks (s : State) (a : Nat) (x : Axis) : (setAxis s a x).blocks = s.blocks := rfl
@[simp] theorem setAxis_closed (s : State) (a : Nat) (x : Axis) : (setAxis s a x).closed = s.closed := rfl
@[simp] theorem setAxis_comps (s : State) (a : Nat) (x : Axis) : (setAxis s a x).comps = s.comps := rfl
@[simp] theorem setAxis_clauses (s : State) (a : Nat) (x : Axis) : (setAxis s a x).clauses = s.clauses := rfl
@[simp] theorem setAxis_cells (s : State) (a : Nat) (x : Axis) : (setAxis s a x).cells = s.cells := rfl
@[simp] theorem setAxis_slotMap (s : State) (a : Nat) (x : Axis) : (setAxis s a x).slotMap = s.slotMap := rfl
@[simp] theorem setAxis_imem (s : State) (a : Nat) (x : Axis) : (setAxis s a x).imem = s.imem := rfl
@[simp] theorem setAxis_dmem (s : State) (a : Nat) (x : Axis) : (setAxis s a x).dmem = s.dmem := rfl
@[simp] theorem setAxis_banks (s : State) (a : Nat) (x : Axis) : (setAxis s a x).banks = s.banks := rfl
@[simp] theorem setAxis_tcm (s : State) (a : Nat) (x : Axis) : (setAxis s a x).tcm = s.tcm := rfl
@[simp] theorem setAxis_dram (s : State) (a : Nat) (x : Axis) : (setAxis s a x).dram = s.dram := rfl
@[simp] theorem setAxis_flash (s : State) (a : Nat) (x : Axis) : (setAxis s a x).flash = s.flash := rfl
@[simp] theorem setAxis_poison (s : State) (a : Nat) (x : Axis) : (setAxis s a x).poison = s.poison := rfl
@[simp] theorem setAxis_flips (s : State) (a : Nat) (x : Axis) : (setAxis s a x).flips = s.flips := rfl
@[simp] theorem setAxis_dramPoison (s : State) (a : Nat) (x : Axis) : (setAxis s a x).dramPoison = s.dramPoison := rfl
@[simp] theorem setAxis_dramFlips (s : State) (a : Nat) (x : Axis) : (setAxis s a x).dramFlips = s.dramFlips := rfl
@[simp] theorem setAxis_dramHeld (s : State) (a : Nat) (x : Axis) : (setAxis s a x).dramHeld = s.dramHeld := rfl
@[simp] theorem setAxis_disabled (s : State) (a : Nat) (x : Axis) : (setAxis s a x).disabled = s.disabled := rfl
@[simp] theorem setAxis_curves (s : State) (a : Nat) (x : Axis) : (setAxis s a x).curves = s.curves := rfl
@[simp] theorem setAxis_gains (s : State) (a : Nat) (x : Axis) : (setAxis s a x).gains = s.gains := rfl
@[simp] theorem setAxis_scrubs (s : State) (a : Nat) (x : Axis) : (setAxis s a x).scrubs = s.scrubs := rfl
@[simp] theorem setAxis_marches (s : State) (a : Nat) (x : Axis) : (setAxis s a x).marches = s.marches := rfl
@[simp] theorem setAxis_evqs (s : State) (a : Nat) (x : Axis) : (setAxis s a x).evqs = s.evqs := rfl
@[simp] theorem setAxis_conflicts (s : State) (a : Nat) (x : Axis) : (setAxis s a x).conflicts = s.conflicts := rfl
@[simp] theorem setAxis_memCorr (s : State) (a : Nat) (x : Axis) : (setAxis s a x).memCorr = s.memCorr := rfl
@[simp] theorem setAxis_ddr (s : State) (a : Nat) (x : Axis) : (setAxis s a x).ddr = s.ddr := rfl
@[simp] theorem setAxis_dma (s : State) (a : Nat) (x : Axis) : (setAxis s a x).dma = s.dma := rfl
@[simp] theorem setAxis_dmaDie (s : State) (a : Nat) (x : Axis) : (setAxis s a x).dmaDie = s.dmaDie := rfl
@[simp] theorem setAxis_tb (s : State) (a : Nat) (x : Axis) : (setAxis s a x).tb = s.tb := rfl
@[simp] theorem setAxis_sync (s : State) (a : Nat) (x : Axis) : (setAxis s a x).sync = s.sync := rfl
@[simp] theorem setAxis_encs (s : State) (a : Nat) (x : Axis) : (setAxis s a x).encs = s.encs := rfl
@[simp] theorem setAxis_rows (s : State) (a : Nat) (x : Axis) : (setAxis s a x).rows = s.rows := rfl
@[simp] theorem setAxis_heads (s : State) (a : Nat) (x : Axis) : (setAxis s a x).heads = s.heads := rfl
@[simp] theorem setAxis_groups (s : State) (a : Nat) (x : Axis) : (setAxis s a x).groups = s.groups := rfl
@[simp] theorem setAxis_links (s : State) (a : Nat) (x : Axis) : (setAxis s a x).links = s.links := rfl
@[simp] theorem setAxis_lanes (s : State) (a : Nat) (x : Axis) : (setAxis s a x).lanes = s.lanes := rfl
@[simp] theorem setAxis_eyes (s : State) (a : Nat) (x : Axis) : (setAxis s a x).eyes = s.eyes := rfl
@[simp] theorem setAxis_fences (s : State) (a : Nat) (x : Axis) : (setAxis s a x).fences = s.fences := rfl
@[simp] theorem setAxis_hcFences (s : State) (a : Nat) (x : Axis) : (setAxis s a x).hcFences = s.hcFences := rfl
@[simp] theorem setAxis_job (s : State) (a : Nat) (x : Axis) : (setAxis s a x).job = s.job := rfl
@[simp] theorem setAxis_sqs (s : State) (a : Nat) (x : Axis) : (setAxis s a x).sqs = s.sqs := rfl
@[simp] theorem setAxis_cqs (s : State) (a : Nat) (x : Axis) : (setAxis s a x).cqs = s.cqs := rfl
@[simp] theorem setAxis_cmdq (s : State) (a : Nat) (x : Axis) : (setAxis s a x).cmdq = s.cmdq := rfl
@[simp] theorem setAxis_popped (s : State) (a : Nat) (x : Axis) : (setAxis s a x).popped = s.popped := rfl
@[simp] theorem setAxis_parked (s : State) (a : Nat) (x : Axis) : (setAxis s a x).parked = s.parked := rfl
@[simp] theorem setAxis_mbox (s : State) (a : Nat) (x : Axis) : (setAxis s a x).mbox = s.mbox := rfl
@[simp] theorem setAxis_smb (s : State) (a : Nat) (x : Axis) : (setAxis s a x).smb = s.smb := rfl
@[simp] theorem setAxis_uartMb (s : State) (a : Nat) (x : Axis) : (setAxis s a x).uartMb = s.uartMb := rfl
@[simp] theorem setAxis_apers (s : State) (a : Nat) (x : Axis) : (setAxis s a x).apers = s.apers := rfl
@[simp] theorem setAxis_pcie (s : State) (a : Nat) (x : Axis) : (setAxis s a x).pcie = s.pcie := rfl
@[simp] theorem setAxis_ports (s : State) (a : Nat) (x : Axis) : (setAxis s a x).ports = s.ports := rfl
@[simp] theorem setAxis_lostRoutes (s : State) (a : Nat) (x : Axis) : (setAxis s a x).lostRoutes = s.lostRoutes := rfl
@[simp] theorem setAxis_fabric (s : State) (a : Nat) (x : Axis) : (setAxis s a x).fabric = s.fabric := rfl
@[simp] theorem setAxis_svc (s : State) (a : Nat) (x : Axis) : (setAxis s a x).svc = s.svc := rfl
@[simp] theorem setAxis_mgt (s : State) (a : Nat) (x : Axis) : (setAxis s a x).mgt = s.mgt := rfl
@[simp] theorem setAxis_sense (s : State) (a : Nat) (x : Axis) : (setAxis s a x).sense = s.sense := rfl
@[simp] theorem setAxis_log (s : State) (a : Nat) (x : Axis) : (setAxis s a x).log = s.log := rfl
@[simp] theorem setAxis_cal (s : State) (a : Nat) (x : Axis) : (setAxis s a x).cal = s.cal := rfl
@[simp] theorem setAxis_boot (s : State) (a : Nat) (x : Axis) : (setAxis s a x).boot = s.boot := rfl
@[simp] theorem setAxis_die0Fault (s : State) (a : Nat) (x : Axis) : (setAxis s a x).die0Fault = s.die0Fault := rfl
@[simp] theorem setAxis_startFailed (s : State) (a : Nat) (x : Axis) : (setAxis s a x).startFailed = s.startFailed := rfl
@[simp] theorem setAxis_power (s : State) (a : Nat) (x : Axis) : (setAxis s a x).power = s.power := rfl
@[simp] theorem setAxis_taps (s : State) (a : Nat) (x : Axis) : (setAxis s a x).taps = s.taps := rfl

/-! ### setSvc -/

@[simp] theorem setSvc_pending (s : State) (g : Nat) (x : Group) : (setSvc s g x).pending = s.pending := rfl
@[simp] theorem setSvc_out (s : State) (g : Nat) (x : Group) : (setSvc s g x).out = s.out := rfl
@[simp] theorem setSvc_free (s : State) (g : Nat) (x : Group) : (setSvc s g x).free = s.free := rfl
@[simp] theorem setSvc_part (s : State) (g : Nat) (x : Group) : (setSvc s g x).part = s.part := rfl
@[simp] theorem setSvc_fuses (s : State) (g : Nat) (x : Group) : (setSvc s g x).fuses = s.fuses := rfl
@[simp] theorem setSvc_dia (s : State) (g : Nat) (x : Group) : (setSvc s g x).dia = s.dia := rfl
@[simp] theorem setSvc_load (s : State) (g : Nat) (x : Group) : (setSvc s g x).load = s.load := rfl
@[simp] theorem setSvc_gram (s : State) (g : Nat) (x : Group) : (setSvc s g x).gram = s.gram := rfl
@[simp] theorem setSvc_params (s : State) (g : Nat) (x : Group) : (setSvc s g x).params = s.params := rfl
@[simp] theorem setSvc_pages (s : State) (g : Nat) (x : Group) : (setSvc s g x).pages = s.pages := rfl
@[simp] theorem setSvc_blocks (s : State) (g : Nat) (x : Group) : (setSvc s g x).blocks = s.blocks := rfl
@[simp] theorem setSvc_closed (s : State) (g : Nat) (x : Group) : (setSvc s g x).closed = s.closed := rfl
@[simp] theorem setSvc_comps (s : State) (g : Nat) (x : Group) : (setSvc s g x).comps = s.comps := rfl
@[simp] theorem setSvc_clauses (s : State) (g : Nat) (x : Group) : (setSvc s g x).clauses = s.clauses := rfl
@[simp] theorem setSvc_cells (s : State) (g : Nat) (x : Group) : (setSvc s g x).cells = s.cells := rfl
@[simp] theorem setSvc_slotMap (s : State) (g : Nat) (x : Group) : (setSvc s g x).slotMap = s.slotMap := rfl
@[simp] theorem setSvc_imem (s : State) (g : Nat) (x : Group) : (setSvc s g x).imem = s.imem := rfl
@[simp] theorem setSvc_dmem (s : State) (g : Nat) (x : Group) : (setSvc s g x).dmem = s.dmem := rfl
@[simp] theorem setSvc_banks (s : State) (g : Nat) (x : Group) : (setSvc s g x).banks = s.banks := rfl
@[simp] theorem setSvc_tcm (s : State) (g : Nat) (x : Group) : (setSvc s g x).tcm = s.tcm := rfl
@[simp] theorem setSvc_dram (s : State) (g : Nat) (x : Group) : (setSvc s g x).dram = s.dram := rfl
@[simp] theorem setSvc_flash (s : State) (g : Nat) (x : Group) : (setSvc s g x).flash = s.flash := rfl
@[simp] theorem setSvc_poison (s : State) (g : Nat) (x : Group) : (setSvc s g x).poison = s.poison := rfl
@[simp] theorem setSvc_flips (s : State) (g : Nat) (x : Group) : (setSvc s g x).flips = s.flips := rfl
@[simp] theorem setSvc_dramPoison (s : State) (g : Nat) (x : Group) : (setSvc s g x).dramPoison = s.dramPoison := rfl
@[simp] theorem setSvc_dramFlips (s : State) (g : Nat) (x : Group) : (setSvc s g x).dramFlips = s.dramFlips := rfl
@[simp] theorem setSvc_dramHeld (s : State) (g : Nat) (x : Group) : (setSvc s g x).dramHeld = s.dramHeld := rfl
@[simp] theorem setSvc_disabled (s : State) (g : Nat) (x : Group) : (setSvc s g x).disabled = s.disabled := rfl
@[simp] theorem setSvc_curves (s : State) (g : Nat) (x : Group) : (setSvc s g x).curves = s.curves := rfl
@[simp] theorem setSvc_gains (s : State) (g : Nat) (x : Group) : (setSvc s g x).gains = s.gains := rfl
@[simp] theorem setSvc_scrubs (s : State) (g : Nat) (x : Group) : (setSvc s g x).scrubs = s.scrubs := rfl
@[simp] theorem setSvc_marches (s : State) (g : Nat) (x : Group) : (setSvc s g x).marches = s.marches := rfl
@[simp] theorem setSvc_evqs (s : State) (g : Nat) (x : Group) : (setSvc s g x).evqs = s.evqs := rfl
@[simp] theorem setSvc_conflicts (s : State) (g : Nat) (x : Group) : (setSvc s g x).conflicts = s.conflicts := rfl
@[simp] theorem setSvc_memCorr (s : State) (g : Nat) (x : Group) : (setSvc s g x).memCorr = s.memCorr := rfl
@[simp] theorem setSvc_ddr (s : State) (g : Nat) (x : Group) : (setSvc s g x).ddr = s.ddr := rfl
@[simp] theorem setSvc_dma (s : State) (g : Nat) (x : Group) : (setSvc s g x).dma = s.dma := rfl
@[simp] theorem setSvc_dmaDie (s : State) (g : Nat) (x : Group) : (setSvc s g x).dmaDie = s.dmaDie := rfl
@[simp] theorem setSvc_tb (s : State) (g : Nat) (x : Group) : (setSvc s g x).tb = s.tb := rfl
@[simp] theorem setSvc_sync (s : State) (g : Nat) (x : Group) : (setSvc s g x).sync = s.sync := rfl
@[simp] theorem setSvc_encs (s : State) (g : Nat) (x : Group) : (setSvc s g x).encs = s.encs := rfl
@[simp] theorem setSvc_rows (s : State) (g : Nat) (x : Group) : (setSvc s g x).rows = s.rows := rfl
@[simp] theorem setSvc_heads (s : State) (g : Nat) (x : Group) : (setSvc s g x).heads = s.heads := rfl
@[simp] theorem setSvc_groups (s : State) (g : Nat) (x : Group) : (setSvc s g x).groups = s.groups := rfl
@[simp] theorem setSvc_links (s : State) (g : Nat) (x : Group) : (setSvc s g x).links = s.links := rfl
@[simp] theorem setSvc_lanes (s : State) (g : Nat) (x : Group) : (setSvc s g x).lanes = s.lanes := rfl
@[simp] theorem setSvc_eyes (s : State) (g : Nat) (x : Group) : (setSvc s g x).eyes = s.eyes := rfl
@[simp] theorem setSvc_fences (s : State) (g : Nat) (x : Group) : (setSvc s g x).fences = s.fences := rfl
@[simp] theorem setSvc_hcFences (s : State) (g : Nat) (x : Group) : (setSvc s g x).hcFences = s.hcFences := rfl
@[simp] theorem setSvc_job (s : State) (g : Nat) (x : Group) : (setSvc s g x).job = s.job := rfl
@[simp] theorem setSvc_sqs (s : State) (g : Nat) (x : Group) : (setSvc s g x).sqs = s.sqs := rfl
@[simp] theorem setSvc_cqs (s : State) (g : Nat) (x : Group) : (setSvc s g x).cqs = s.cqs := rfl
@[simp] theorem setSvc_cmdq (s : State) (g : Nat) (x : Group) : (setSvc s g x).cmdq = s.cmdq := rfl
@[simp] theorem setSvc_popped (s : State) (g : Nat) (x : Group) : (setSvc s g x).popped = s.popped := rfl
@[simp] theorem setSvc_parked (s : State) (g : Nat) (x : Group) : (setSvc s g x).parked = s.parked := rfl
@[simp] theorem setSvc_mbox (s : State) (g : Nat) (x : Group) : (setSvc s g x).mbox = s.mbox := rfl
@[simp] theorem setSvc_smb (s : State) (g : Nat) (x : Group) : (setSvc s g x).smb = s.smb := rfl
@[simp] theorem setSvc_uartMb (s : State) (g : Nat) (x : Group) : (setSvc s g x).uartMb = s.uartMb := rfl
@[simp] theorem setSvc_apers (s : State) (g : Nat) (x : Group) : (setSvc s g x).apers = s.apers := rfl
@[simp] theorem setSvc_pcie (s : State) (g : Nat) (x : Group) : (setSvc s g x).pcie = s.pcie := rfl
@[simp] theorem setSvc_ports (s : State) (g : Nat) (x : Group) : (setSvc s g x).ports = s.ports := rfl
@[simp] theorem setSvc_lostRoutes (s : State) (g : Nat) (x : Group) : (setSvc s g x).lostRoutes = s.lostRoutes := rfl
@[simp] theorem setSvc_fabric (s : State) (g : Nat) (x : Group) : (setSvc s g x).fabric = s.fabric := rfl
@[simp] theorem setSvc_axes (s : State) (g : Nat) (x : Group) : (setSvc s g x).axes = s.axes := rfl
@[simp] theorem setSvc_mgt (s : State) (g : Nat) (x : Group) : (setSvc s g x).mgt = s.mgt := rfl
@[simp] theorem setSvc_sense (s : State) (g : Nat) (x : Group) : (setSvc s g x).sense = s.sense := rfl
@[simp] theorem setSvc_log (s : State) (g : Nat) (x : Group) : (setSvc s g x).log = s.log := rfl
@[simp] theorem setSvc_cal (s : State) (g : Nat) (x : Group) : (setSvc s g x).cal = s.cal := rfl
@[simp] theorem setSvc_boot (s : State) (g : Nat) (x : Group) : (setSvc s g x).boot = s.boot := rfl
@[simp] theorem setSvc_die0Fault (s : State) (g : Nat) (x : Group) : (setSvc s g x).die0Fault = s.die0Fault := rfl
@[simp] theorem setSvc_startFailed (s : State) (g : Nat) (x : Group) : (setSvc s g x).startFailed = s.startFailed := rfl
@[simp] theorem setSvc_power (s : State) (g : Nat) (x : Group) : (setSvc s g x).power = s.power := rfl
@[simp] theorem setSvc_taps (s : State) (g : Nat) (x : Group) : (setSvc s g x).taps = s.taps := rfl

/-! ### setMgt -/

@[simp] theorem setMgt_pending (s : State) (d : Nat) (x : Mgt) : (setMgt s d x).pending = s.pending := rfl
@[simp] theorem setMgt_out (s : State) (d : Nat) (x : Mgt) : (setMgt s d x).out = s.out := rfl
@[simp] theorem setMgt_free (s : State) (d : Nat) (x : Mgt) : (setMgt s d x).free = s.free := rfl
@[simp] theorem setMgt_part (s : State) (d : Nat) (x : Mgt) : (setMgt s d x).part = s.part := rfl
@[simp] theorem setMgt_fuses (s : State) (d : Nat) (x : Mgt) : (setMgt s d x).fuses = s.fuses := rfl
@[simp] theorem setMgt_dia (s : State) (d : Nat) (x : Mgt) : (setMgt s d x).dia = s.dia := rfl
@[simp] theorem setMgt_load (s : State) (d : Nat) (x : Mgt) : (setMgt s d x).load = s.load := rfl
@[simp] theorem setMgt_gram (s : State) (d : Nat) (x : Mgt) : (setMgt s d x).gram = s.gram := rfl
@[simp] theorem setMgt_params (s : State) (d : Nat) (x : Mgt) : (setMgt s d x).params = s.params := rfl
@[simp] theorem setMgt_pages (s : State) (d : Nat) (x : Mgt) : (setMgt s d x).pages = s.pages := rfl
@[simp] theorem setMgt_blocks (s : State) (d : Nat) (x : Mgt) : (setMgt s d x).blocks = s.blocks := rfl
@[simp] theorem setMgt_closed (s : State) (d : Nat) (x : Mgt) : (setMgt s d x).closed = s.closed := rfl
@[simp] theorem setMgt_comps (s : State) (d : Nat) (x : Mgt) : (setMgt s d x).comps = s.comps := rfl
@[simp] theorem setMgt_clauses (s : State) (d : Nat) (x : Mgt) : (setMgt s d x).clauses = s.clauses := rfl
@[simp] theorem setMgt_cells (s : State) (d : Nat) (x : Mgt) : (setMgt s d x).cells = s.cells := rfl
@[simp] theorem setMgt_slotMap (s : State) (d : Nat) (x : Mgt) : (setMgt s d x).slotMap = s.slotMap := rfl
@[simp] theorem setMgt_imem (s : State) (d : Nat) (x : Mgt) : (setMgt s d x).imem = s.imem := rfl
@[simp] theorem setMgt_dmem (s : State) (d : Nat) (x : Mgt) : (setMgt s d x).dmem = s.dmem := rfl
@[simp] theorem setMgt_banks (s : State) (d : Nat) (x : Mgt) : (setMgt s d x).banks = s.banks := rfl
@[simp] theorem setMgt_tcm (s : State) (d : Nat) (x : Mgt) : (setMgt s d x).tcm = s.tcm := rfl
@[simp] theorem setMgt_dram (s : State) (d : Nat) (x : Mgt) : (setMgt s d x).dram = s.dram := rfl
@[simp] theorem setMgt_flash (s : State) (d : Nat) (x : Mgt) : (setMgt s d x).flash = s.flash := rfl
@[simp] theorem setMgt_poison (s : State) (d : Nat) (x : Mgt) : (setMgt s d x).poison = s.poison := rfl
@[simp] theorem setMgt_flips (s : State) (d : Nat) (x : Mgt) : (setMgt s d x).flips = s.flips := rfl
@[simp] theorem setMgt_dramPoison (s : State) (d : Nat) (x : Mgt) : (setMgt s d x).dramPoison = s.dramPoison := rfl
@[simp] theorem setMgt_dramFlips (s : State) (d : Nat) (x : Mgt) : (setMgt s d x).dramFlips = s.dramFlips := rfl
@[simp] theorem setMgt_dramHeld (s : State) (d : Nat) (x : Mgt) : (setMgt s d x).dramHeld = s.dramHeld := rfl
@[simp] theorem setMgt_disabled (s : State) (d : Nat) (x : Mgt) : (setMgt s d x).disabled = s.disabled := rfl
@[simp] theorem setMgt_curves (s : State) (d : Nat) (x : Mgt) : (setMgt s d x).curves = s.curves := rfl
@[simp] theorem setMgt_gains (s : State) (d : Nat) (x : Mgt) : (setMgt s d x).gains = s.gains := rfl
@[simp] theorem setMgt_scrubs (s : State) (d : Nat) (x : Mgt) : (setMgt s d x).scrubs = s.scrubs := rfl
@[simp] theorem setMgt_marches (s : State) (d : Nat) (x : Mgt) : (setMgt s d x).marches = s.marches := rfl
@[simp] theorem setMgt_evqs (s : State) (d : Nat) (x : Mgt) : (setMgt s d x).evqs = s.evqs := rfl
@[simp] theorem setMgt_conflicts (s : State) (d : Nat) (x : Mgt) : (setMgt s d x).conflicts = s.conflicts := rfl
@[simp] theorem setMgt_memCorr (s : State) (d : Nat) (x : Mgt) : (setMgt s d x).memCorr = s.memCorr := rfl
@[simp] theorem setMgt_ddr (s : State) (d : Nat) (x : Mgt) : (setMgt s d x).ddr = s.ddr := rfl
@[simp] theorem setMgt_dma (s : State) (d : Nat) (x : Mgt) : (setMgt s d x).dma = s.dma := rfl
@[simp] theorem setMgt_dmaDie (s : State) (d : Nat) (x : Mgt) : (setMgt s d x).dmaDie = s.dmaDie := rfl
@[simp] theorem setMgt_tb (s : State) (d : Nat) (x : Mgt) : (setMgt s d x).tb = s.tb := rfl
@[simp] theorem setMgt_sync (s : State) (d : Nat) (x : Mgt) : (setMgt s d x).sync = s.sync := rfl
@[simp] theorem setMgt_encs (s : State) (d : Nat) (x : Mgt) : (setMgt s d x).encs = s.encs := rfl
@[simp] theorem setMgt_rows (s : State) (d : Nat) (x : Mgt) : (setMgt s d x).rows = s.rows := rfl
@[simp] theorem setMgt_heads (s : State) (d : Nat) (x : Mgt) : (setMgt s d x).heads = s.heads := rfl
@[simp] theorem setMgt_groups (s : State) (d : Nat) (x : Mgt) : (setMgt s d x).groups = s.groups := rfl
@[simp] theorem setMgt_links (s : State) (d : Nat) (x : Mgt) : (setMgt s d x).links = s.links := rfl
@[simp] theorem setMgt_lanes (s : State) (d : Nat) (x : Mgt) : (setMgt s d x).lanes = s.lanes := rfl
@[simp] theorem setMgt_eyes (s : State) (d : Nat) (x : Mgt) : (setMgt s d x).eyes = s.eyes := rfl
@[simp] theorem setMgt_fences (s : State) (d : Nat) (x : Mgt) : (setMgt s d x).fences = s.fences := rfl
@[simp] theorem setMgt_hcFences (s : State) (d : Nat) (x : Mgt) : (setMgt s d x).hcFences = s.hcFences := rfl
@[simp] theorem setMgt_job (s : State) (d : Nat) (x : Mgt) : (setMgt s d x).job = s.job := rfl
@[simp] theorem setMgt_sqs (s : State) (d : Nat) (x : Mgt) : (setMgt s d x).sqs = s.sqs := rfl
@[simp] theorem setMgt_cqs (s : State) (d : Nat) (x : Mgt) : (setMgt s d x).cqs = s.cqs := rfl
@[simp] theorem setMgt_cmdq (s : State) (d : Nat) (x : Mgt) : (setMgt s d x).cmdq = s.cmdq := rfl
@[simp] theorem setMgt_popped (s : State) (d : Nat) (x : Mgt) : (setMgt s d x).popped = s.popped := rfl
@[simp] theorem setMgt_parked (s : State) (d : Nat) (x : Mgt) : (setMgt s d x).parked = s.parked := rfl
@[simp] theorem setMgt_mbox (s : State) (d : Nat) (x : Mgt) : (setMgt s d x).mbox = s.mbox := rfl
@[simp] theorem setMgt_smb (s : State) (d : Nat) (x : Mgt) : (setMgt s d x).smb = s.smb := rfl
@[simp] theorem setMgt_uartMb (s : State) (d : Nat) (x : Mgt) : (setMgt s d x).uartMb = s.uartMb := rfl
@[simp] theorem setMgt_apers (s : State) (d : Nat) (x : Mgt) : (setMgt s d x).apers = s.apers := rfl
@[simp] theorem setMgt_pcie (s : State) (d : Nat) (x : Mgt) : (setMgt s d x).pcie = s.pcie := rfl
@[simp] theorem setMgt_ports (s : State) (d : Nat) (x : Mgt) : (setMgt s d x).ports = s.ports := rfl
@[simp] theorem setMgt_lostRoutes (s : State) (d : Nat) (x : Mgt) : (setMgt s d x).lostRoutes = s.lostRoutes := rfl
@[simp] theorem setMgt_fabric (s : State) (d : Nat) (x : Mgt) : (setMgt s d x).fabric = s.fabric := rfl
@[simp] theorem setMgt_axes (s : State) (d : Nat) (x : Mgt) : (setMgt s d x).axes = s.axes := rfl
@[simp] theorem setMgt_svc (s : State) (d : Nat) (x : Mgt) : (setMgt s d x).svc = s.svc := rfl
@[simp] theorem setMgt_sense (s : State) (d : Nat) (x : Mgt) : (setMgt s d x).sense = s.sense := rfl
@[simp] theorem setMgt_log (s : State) (d : Nat) (x : Mgt) : (setMgt s d x).log = s.log := rfl
@[simp] theorem setMgt_cal (s : State) (d : Nat) (x : Mgt) : (setMgt s d x).cal = s.cal := rfl
@[simp] theorem setMgt_boot (s : State) (d : Nat) (x : Mgt) : (setMgt s d x).boot = s.boot := rfl
@[simp] theorem setMgt_die0Fault (s : State) (d : Nat) (x : Mgt) : (setMgt s d x).die0Fault = s.die0Fault := rfl
@[simp] theorem setMgt_startFailed (s : State) (d : Nat) (x : Mgt) : (setMgt s d x).startFailed = s.startFailed := rfl
@[simp] theorem setMgt_power (s : State) (d : Nat) (x : Mgt) : (setMgt s d x).power = s.power := rfl
@[simp] theorem setMgt_taps (s : State) (d : Nat) (x : Mgt) : (setMgt s d x).taps = s.taps := rfl

/-! ### setSq -/

@[simp] theorem setSq_pending (s : State) (c : Nat) (x : Sq) : (setSq s c x).pending = s.pending := rfl
@[simp] theorem setSq_out (s : State) (c : Nat) (x : Sq) : (setSq s c x).out = s.out := rfl
@[simp] theorem setSq_free (s : State) (c : Nat) (x : Sq) : (setSq s c x).free = s.free := rfl
@[simp] theorem setSq_part (s : State) (c : Nat) (x : Sq) : (setSq s c x).part = s.part := rfl
@[simp] theorem setSq_fuses (s : State) (c : Nat) (x : Sq) : (setSq s c x).fuses = s.fuses := rfl
@[simp] theorem setSq_dia (s : State) (c : Nat) (x : Sq) : (setSq s c x).dia = s.dia := rfl
@[simp] theorem setSq_load (s : State) (c : Nat) (x : Sq) : (setSq s c x).load = s.load := rfl
@[simp] theorem setSq_gram (s : State) (c : Nat) (x : Sq) : (setSq s c x).gram = s.gram := rfl
@[simp] theorem setSq_params (s : State) (c : Nat) (x : Sq) : (setSq s c x).params = s.params := rfl
@[simp] theorem setSq_pages (s : State) (c : Nat) (x : Sq) : (setSq s c x).pages = s.pages := rfl
@[simp] theorem setSq_blocks (s : State) (c : Nat) (x : Sq) : (setSq s c x).blocks = s.blocks := rfl
@[simp] theorem setSq_closed (s : State) (c : Nat) (x : Sq) : (setSq s c x).closed = s.closed := rfl
@[simp] theorem setSq_comps (s : State) (c : Nat) (x : Sq) : (setSq s c x).comps = s.comps := rfl
@[simp] theorem setSq_clauses (s : State) (c : Nat) (x : Sq) : (setSq s c x).clauses = s.clauses := rfl
@[simp] theorem setSq_cells (s : State) (c : Nat) (x : Sq) : (setSq s c x).cells = s.cells := rfl
@[simp] theorem setSq_slotMap (s : State) (c : Nat) (x : Sq) : (setSq s c x).slotMap = s.slotMap := rfl
@[simp] theorem setSq_imem (s : State) (c : Nat) (x : Sq) : (setSq s c x).imem = s.imem := rfl
@[simp] theorem setSq_dmem (s : State) (c : Nat) (x : Sq) : (setSq s c x).dmem = s.dmem := rfl
@[simp] theorem setSq_banks (s : State) (c : Nat) (x : Sq) : (setSq s c x).banks = s.banks := rfl
@[simp] theorem setSq_tcm (s : State) (c : Nat) (x : Sq) : (setSq s c x).tcm = s.tcm := rfl
@[simp] theorem setSq_dram (s : State) (c : Nat) (x : Sq) : (setSq s c x).dram = s.dram := rfl
@[simp] theorem setSq_flash (s : State) (c : Nat) (x : Sq) : (setSq s c x).flash = s.flash := rfl
@[simp] theorem setSq_poison (s : State) (c : Nat) (x : Sq) : (setSq s c x).poison = s.poison := rfl
@[simp] theorem setSq_flips (s : State) (c : Nat) (x : Sq) : (setSq s c x).flips = s.flips := rfl
@[simp] theorem setSq_dramPoison (s : State) (c : Nat) (x : Sq) : (setSq s c x).dramPoison = s.dramPoison := rfl
@[simp] theorem setSq_dramFlips (s : State) (c : Nat) (x : Sq) : (setSq s c x).dramFlips = s.dramFlips := rfl
@[simp] theorem setSq_dramHeld (s : State) (c : Nat) (x : Sq) : (setSq s c x).dramHeld = s.dramHeld := rfl
@[simp] theorem setSq_disabled (s : State) (c : Nat) (x : Sq) : (setSq s c x).disabled = s.disabled := rfl
@[simp] theorem setSq_curves (s : State) (c : Nat) (x : Sq) : (setSq s c x).curves = s.curves := rfl
@[simp] theorem setSq_gains (s : State) (c : Nat) (x : Sq) : (setSq s c x).gains = s.gains := rfl
@[simp] theorem setSq_scrubs (s : State) (c : Nat) (x : Sq) : (setSq s c x).scrubs = s.scrubs := rfl
@[simp] theorem setSq_marches (s : State) (c : Nat) (x : Sq) : (setSq s c x).marches = s.marches := rfl
@[simp] theorem setSq_evqs (s : State) (c : Nat) (x : Sq) : (setSq s c x).evqs = s.evqs := rfl
@[simp] theorem setSq_conflicts (s : State) (c : Nat) (x : Sq) : (setSq s c x).conflicts = s.conflicts := rfl
@[simp] theorem setSq_memCorr (s : State) (c : Nat) (x : Sq) : (setSq s c x).memCorr = s.memCorr := rfl
@[simp] theorem setSq_ddr (s : State) (c : Nat) (x : Sq) : (setSq s c x).ddr = s.ddr := rfl
@[simp] theorem setSq_dma (s : State) (c : Nat) (x : Sq) : (setSq s c x).dma = s.dma := rfl
@[simp] theorem setSq_dmaDie (s : State) (c : Nat) (x : Sq) : (setSq s c x).dmaDie = s.dmaDie := rfl
@[simp] theorem setSq_tb (s : State) (c : Nat) (x : Sq) : (setSq s c x).tb = s.tb := rfl
@[simp] theorem setSq_sync (s : State) (c : Nat) (x : Sq) : (setSq s c x).sync = s.sync := rfl
@[simp] theorem setSq_encs (s : State) (c : Nat) (x : Sq) : (setSq s c x).encs = s.encs := rfl
@[simp] theorem setSq_rows (s : State) (c : Nat) (x : Sq) : (setSq s c x).rows = s.rows := rfl
@[simp] theorem setSq_heads (s : State) (c : Nat) (x : Sq) : (setSq s c x).heads = s.heads := rfl
@[simp] theorem setSq_groups (s : State) (c : Nat) (x : Sq) : (setSq s c x).groups = s.groups := rfl
@[simp] theorem setSq_links (s : State) (c : Nat) (x : Sq) : (setSq s c x).links = s.links := rfl
@[simp] theorem setSq_lanes (s : State) (c : Nat) (x : Sq) : (setSq s c x).lanes = s.lanes := rfl
@[simp] theorem setSq_eyes (s : State) (c : Nat) (x : Sq) : (setSq s c x).eyes = s.eyes := rfl
@[simp] theorem setSq_fences (s : State) (c : Nat) (x : Sq) : (setSq s c x).fences = s.fences := rfl
@[simp] theorem setSq_hcFences (s : State) (c : Nat) (x : Sq) : (setSq s c x).hcFences = s.hcFences := rfl
@[simp] theorem setSq_job (s : State) (c : Nat) (x : Sq) : (setSq s c x).job = s.job := rfl
@[simp] theorem setSq_cqs (s : State) (c : Nat) (x : Sq) : (setSq s c x).cqs = s.cqs := rfl
@[simp] theorem setSq_cmdq (s : State) (c : Nat) (x : Sq) : (setSq s c x).cmdq = s.cmdq := rfl
@[simp] theorem setSq_popped (s : State) (c : Nat) (x : Sq) : (setSq s c x).popped = s.popped := rfl
@[simp] theorem setSq_parked (s : State) (c : Nat) (x : Sq) : (setSq s c x).parked = s.parked := rfl
@[simp] theorem setSq_mbox (s : State) (c : Nat) (x : Sq) : (setSq s c x).mbox = s.mbox := rfl
@[simp] theorem setSq_smb (s : State) (c : Nat) (x : Sq) : (setSq s c x).smb = s.smb := rfl
@[simp] theorem setSq_uartMb (s : State) (c : Nat) (x : Sq) : (setSq s c x).uartMb = s.uartMb := rfl
@[simp] theorem setSq_apers (s : State) (c : Nat) (x : Sq) : (setSq s c x).apers = s.apers := rfl
@[simp] theorem setSq_pcie (s : State) (c : Nat) (x : Sq) : (setSq s c x).pcie = s.pcie := rfl
@[simp] theorem setSq_ports (s : State) (c : Nat) (x : Sq) : (setSq s c x).ports = s.ports := rfl
@[simp] theorem setSq_lostRoutes (s : State) (c : Nat) (x : Sq) : (setSq s c x).lostRoutes = s.lostRoutes := rfl
@[simp] theorem setSq_fabric (s : State) (c : Nat) (x : Sq) : (setSq s c x).fabric = s.fabric := rfl
@[simp] theorem setSq_axes (s : State) (c : Nat) (x : Sq) : (setSq s c x).axes = s.axes := rfl
@[simp] theorem setSq_svc (s : State) (c : Nat) (x : Sq) : (setSq s c x).svc = s.svc := rfl
@[simp] theorem setSq_mgt (s : State) (c : Nat) (x : Sq) : (setSq s c x).mgt = s.mgt := rfl
@[simp] theorem setSq_sense (s : State) (c : Nat) (x : Sq) : (setSq s c x).sense = s.sense := rfl
@[simp] theorem setSq_log (s : State) (c : Nat) (x : Sq) : (setSq s c x).log = s.log := rfl
@[simp] theorem setSq_cal (s : State) (c : Nat) (x : Sq) : (setSq s c x).cal = s.cal := rfl
@[simp] theorem setSq_boot (s : State) (c : Nat) (x : Sq) : (setSq s c x).boot = s.boot := rfl
@[simp] theorem setSq_die0Fault (s : State) (c : Nat) (x : Sq) : (setSq s c x).die0Fault = s.die0Fault := rfl
@[simp] theorem setSq_startFailed (s : State) (c : Nat) (x : Sq) : (setSq s c x).startFailed = s.startFailed := rfl
@[simp] theorem setSq_power (s : State) (c : Nat) (x : Sq) : (setSq s c x).power = s.power := rfl
@[simp] theorem setSq_taps (s : State) (c : Nat) (x : Sq) : (setSq s c x).taps = s.taps := rfl

/-! ### setCq -/

@[simp] theorem setCq_pending (s : State) (c : Nat) (x : Cq) : (setCq s c x).pending = s.pending := rfl
@[simp] theorem setCq_out (s : State) (c : Nat) (x : Cq) : (setCq s c x).out = s.out := rfl
@[simp] theorem setCq_free (s : State) (c : Nat) (x : Cq) : (setCq s c x).free = s.free := rfl
@[simp] theorem setCq_part (s : State) (c : Nat) (x : Cq) : (setCq s c x).part = s.part := rfl
@[simp] theorem setCq_fuses (s : State) (c : Nat) (x : Cq) : (setCq s c x).fuses = s.fuses := rfl
@[simp] theorem setCq_dia (s : State) (c : Nat) (x : Cq) : (setCq s c x).dia = s.dia := rfl
@[simp] theorem setCq_load (s : State) (c : Nat) (x : Cq) : (setCq s c x).load = s.load := rfl
@[simp] theorem setCq_gram (s : State) (c : Nat) (x : Cq) : (setCq s c x).gram = s.gram := rfl
@[simp] theorem setCq_params (s : State) (c : Nat) (x : Cq) : (setCq s c x).params = s.params := rfl
@[simp] theorem setCq_pages (s : State) (c : Nat) (x : Cq) : (setCq s c x).pages = s.pages := rfl
@[simp] theorem setCq_blocks (s : State) (c : Nat) (x : Cq) : (setCq s c x).blocks = s.blocks := rfl
@[simp] theorem setCq_closed (s : State) (c : Nat) (x : Cq) : (setCq s c x).closed = s.closed := rfl
@[simp] theorem setCq_comps (s : State) (c : Nat) (x : Cq) : (setCq s c x).comps = s.comps := rfl
@[simp] theorem setCq_clauses (s : State) (c : Nat) (x : Cq) : (setCq s c x).clauses = s.clauses := rfl
@[simp] theorem setCq_cells (s : State) (c : Nat) (x : Cq) : (setCq s c x).cells = s.cells := rfl
@[simp] theorem setCq_slotMap (s : State) (c : Nat) (x : Cq) : (setCq s c x).slotMap = s.slotMap := rfl
@[simp] theorem setCq_imem (s : State) (c : Nat) (x : Cq) : (setCq s c x).imem = s.imem := rfl
@[simp] theorem setCq_dmem (s : State) (c : Nat) (x : Cq) : (setCq s c x).dmem = s.dmem := rfl
@[simp] theorem setCq_banks (s : State) (c : Nat) (x : Cq) : (setCq s c x).banks = s.banks := rfl
@[simp] theorem setCq_tcm (s : State) (c : Nat) (x : Cq) : (setCq s c x).tcm = s.tcm := rfl
@[simp] theorem setCq_dram (s : State) (c : Nat) (x : Cq) : (setCq s c x).dram = s.dram := rfl
@[simp] theorem setCq_flash (s : State) (c : Nat) (x : Cq) : (setCq s c x).flash = s.flash := rfl
@[simp] theorem setCq_poison (s : State) (c : Nat) (x : Cq) : (setCq s c x).poison = s.poison := rfl
@[simp] theorem setCq_flips (s : State) (c : Nat) (x : Cq) : (setCq s c x).flips = s.flips := rfl
@[simp] theorem setCq_dramPoison (s : State) (c : Nat) (x : Cq) : (setCq s c x).dramPoison = s.dramPoison := rfl
@[simp] theorem setCq_dramFlips (s : State) (c : Nat) (x : Cq) : (setCq s c x).dramFlips = s.dramFlips := rfl
@[simp] theorem setCq_dramHeld (s : State) (c : Nat) (x : Cq) : (setCq s c x).dramHeld = s.dramHeld := rfl
@[simp] theorem setCq_disabled (s : State) (c : Nat) (x : Cq) : (setCq s c x).disabled = s.disabled := rfl
@[simp] theorem setCq_curves (s : State) (c : Nat) (x : Cq) : (setCq s c x).curves = s.curves := rfl
@[simp] theorem setCq_gains (s : State) (c : Nat) (x : Cq) : (setCq s c x).gains = s.gains := rfl
@[simp] theorem setCq_scrubs (s : State) (c : Nat) (x : Cq) : (setCq s c x).scrubs = s.scrubs := rfl
@[simp] theorem setCq_marches (s : State) (c : Nat) (x : Cq) : (setCq s c x).marches = s.marches := rfl
@[simp] theorem setCq_evqs (s : State) (c : Nat) (x : Cq) : (setCq s c x).evqs = s.evqs := rfl
@[simp] theorem setCq_conflicts (s : State) (c : Nat) (x : Cq) : (setCq s c x).conflicts = s.conflicts := rfl
@[simp] theorem setCq_memCorr (s : State) (c : Nat) (x : Cq) : (setCq s c x).memCorr = s.memCorr := rfl
@[simp] theorem setCq_ddr (s : State) (c : Nat) (x : Cq) : (setCq s c x).ddr = s.ddr := rfl
@[simp] theorem setCq_dma (s : State) (c : Nat) (x : Cq) : (setCq s c x).dma = s.dma := rfl
@[simp] theorem setCq_dmaDie (s : State) (c : Nat) (x : Cq) : (setCq s c x).dmaDie = s.dmaDie := rfl
@[simp] theorem setCq_tb (s : State) (c : Nat) (x : Cq) : (setCq s c x).tb = s.tb := rfl
@[simp] theorem setCq_sync (s : State) (c : Nat) (x : Cq) : (setCq s c x).sync = s.sync := rfl
@[simp] theorem setCq_encs (s : State) (c : Nat) (x : Cq) : (setCq s c x).encs = s.encs := rfl
@[simp] theorem setCq_rows (s : State) (c : Nat) (x : Cq) : (setCq s c x).rows = s.rows := rfl
@[simp] theorem setCq_heads (s : State) (c : Nat) (x : Cq) : (setCq s c x).heads = s.heads := rfl
@[simp] theorem setCq_groups (s : State) (c : Nat) (x : Cq) : (setCq s c x).groups = s.groups := rfl
@[simp] theorem setCq_links (s : State) (c : Nat) (x : Cq) : (setCq s c x).links = s.links := rfl
@[simp] theorem setCq_lanes (s : State) (c : Nat) (x : Cq) : (setCq s c x).lanes = s.lanes := rfl
@[simp] theorem setCq_eyes (s : State) (c : Nat) (x : Cq) : (setCq s c x).eyes = s.eyes := rfl
@[simp] theorem setCq_fences (s : State) (c : Nat) (x : Cq) : (setCq s c x).fences = s.fences := rfl
@[simp] theorem setCq_hcFences (s : State) (c : Nat) (x : Cq) : (setCq s c x).hcFences = s.hcFences := rfl
@[simp] theorem setCq_job (s : State) (c : Nat) (x : Cq) : (setCq s c x).job = s.job := rfl
@[simp] theorem setCq_sqs (s : State) (c : Nat) (x : Cq) : (setCq s c x).sqs = s.sqs := rfl
@[simp] theorem setCq_cmdq (s : State) (c : Nat) (x : Cq) : (setCq s c x).cmdq = s.cmdq := rfl
@[simp] theorem setCq_popped (s : State) (c : Nat) (x : Cq) : (setCq s c x).popped = s.popped := rfl
@[simp] theorem setCq_parked (s : State) (c : Nat) (x : Cq) : (setCq s c x).parked = s.parked := rfl
@[simp] theorem setCq_mbox (s : State) (c : Nat) (x : Cq) : (setCq s c x).mbox = s.mbox := rfl
@[simp] theorem setCq_smb (s : State) (c : Nat) (x : Cq) : (setCq s c x).smb = s.smb := rfl
@[simp] theorem setCq_uartMb (s : State) (c : Nat) (x : Cq) : (setCq s c x).uartMb = s.uartMb := rfl
@[simp] theorem setCq_apers (s : State) (c : Nat) (x : Cq) : (setCq s c x).apers = s.apers := rfl
@[simp] theorem setCq_pcie (s : State) (c : Nat) (x : Cq) : (setCq s c x).pcie = s.pcie := rfl
@[simp] theorem setCq_ports (s : State) (c : Nat) (x : Cq) : (setCq s c x).ports = s.ports := rfl
@[simp] theorem setCq_lostRoutes (s : State) (c : Nat) (x : Cq) : (setCq s c x).lostRoutes = s.lostRoutes := rfl
@[simp] theorem setCq_fabric (s : State) (c : Nat) (x : Cq) : (setCq s c x).fabric = s.fabric := rfl
@[simp] theorem setCq_axes (s : State) (c : Nat) (x : Cq) : (setCq s c x).axes = s.axes := rfl
@[simp] theorem setCq_svc (s : State) (c : Nat) (x : Cq) : (setCq s c x).svc = s.svc := rfl
@[simp] theorem setCq_mgt (s : State) (c : Nat) (x : Cq) : (setCq s c x).mgt = s.mgt := rfl
@[simp] theorem setCq_sense (s : State) (c : Nat) (x : Cq) : (setCq s c x).sense = s.sense := rfl
@[simp] theorem setCq_log (s : State) (c : Nat) (x : Cq) : (setCq s c x).log = s.log := rfl
@[simp] theorem setCq_cal (s : State) (c : Nat) (x : Cq) : (setCq s c x).cal = s.cal := rfl
@[simp] theorem setCq_boot (s : State) (c : Nat) (x : Cq) : (setCq s c x).boot = s.boot := rfl
@[simp] theorem setCq_die0Fault (s : State) (c : Nat) (x : Cq) : (setCq s c x).die0Fault = s.die0Fault := rfl
@[simp] theorem setCq_startFailed (s : State) (c : Nat) (x : Cq) : (setCq s c x).startFailed = s.startFailed := rfl
@[simp] theorem setCq_power (s : State) (c : Nat) (x : Cq) : (setCq s c x).power = s.power := rfl
@[simp] theorem setCq_taps (s : State) (c : Nat) (x : Cq) : (setCq s c x).taps = s.taps := rfl

/-! ### setMemCorr -/

@[simp] theorem setMemCorr_pending (s : State) (i : Nat) (x : MemCorr) : (setMemCorr s i x).pending = s.pending := rfl
@[simp] theorem setMemCorr_out (s : State) (i : Nat) (x : MemCorr) : (setMemCorr s i x).out = s.out := rfl
@[simp] theorem setMemCorr_free (s : State) (i : Nat) (x : MemCorr) : (setMemCorr s i x).free = s.free := rfl
@[simp] theorem setMemCorr_part (s : State) (i : Nat) (x : MemCorr) : (setMemCorr s i x).part = s.part := rfl
@[simp] theorem setMemCorr_fuses (s : State) (i : Nat) (x : MemCorr) : (setMemCorr s i x).fuses = s.fuses := rfl
@[simp] theorem setMemCorr_dia (s : State) (i : Nat) (x : MemCorr) : (setMemCorr s i x).dia = s.dia := rfl
@[simp] theorem setMemCorr_load (s : State) (i : Nat) (x : MemCorr) : (setMemCorr s i x).load = s.load := rfl
@[simp] theorem setMemCorr_gram (s : State) (i : Nat) (x : MemCorr) : (setMemCorr s i x).gram = s.gram := rfl
@[simp] theorem setMemCorr_params (s : State) (i : Nat) (x : MemCorr) : (setMemCorr s i x).params = s.params := rfl
@[simp] theorem setMemCorr_pages (s : State) (i : Nat) (x : MemCorr) : (setMemCorr s i x).pages = s.pages := rfl
@[simp] theorem setMemCorr_blocks (s : State) (i : Nat) (x : MemCorr) : (setMemCorr s i x).blocks = s.blocks := rfl
@[simp] theorem setMemCorr_closed (s : State) (i : Nat) (x : MemCorr) : (setMemCorr s i x).closed = s.closed := rfl
@[simp] theorem setMemCorr_comps (s : State) (i : Nat) (x : MemCorr) : (setMemCorr s i x).comps = s.comps := rfl
@[simp] theorem setMemCorr_clauses (s : State) (i : Nat) (x : MemCorr) : (setMemCorr s i x).clauses = s.clauses := rfl
@[simp] theorem setMemCorr_cells (s : State) (i : Nat) (x : MemCorr) : (setMemCorr s i x).cells = s.cells := rfl
@[simp] theorem setMemCorr_slotMap (s : State) (i : Nat) (x : MemCorr) : (setMemCorr s i x).slotMap = s.slotMap := rfl
@[simp] theorem setMemCorr_imem (s : State) (i : Nat) (x : MemCorr) : (setMemCorr s i x).imem = s.imem := rfl
@[simp] theorem setMemCorr_dmem (s : State) (i : Nat) (x : MemCorr) : (setMemCorr s i x).dmem = s.dmem := rfl
@[simp] theorem setMemCorr_banks (s : State) (i : Nat) (x : MemCorr) : (setMemCorr s i x).banks = s.banks := rfl
@[simp] theorem setMemCorr_tcm (s : State) (i : Nat) (x : MemCorr) : (setMemCorr s i x).tcm = s.tcm := rfl
@[simp] theorem setMemCorr_dram (s : State) (i : Nat) (x : MemCorr) : (setMemCorr s i x).dram = s.dram := rfl
@[simp] theorem setMemCorr_flash (s : State) (i : Nat) (x : MemCorr) : (setMemCorr s i x).flash = s.flash := rfl
@[simp] theorem setMemCorr_poison (s : State) (i : Nat) (x : MemCorr) : (setMemCorr s i x).poison = s.poison := rfl
@[simp] theorem setMemCorr_flips (s : State) (i : Nat) (x : MemCorr) : (setMemCorr s i x).flips = s.flips := rfl
@[simp] theorem setMemCorr_dramPoison (s : State) (i : Nat) (x : MemCorr) : (setMemCorr s i x).dramPoison = s.dramPoison := rfl
@[simp] theorem setMemCorr_dramFlips (s : State) (i : Nat) (x : MemCorr) : (setMemCorr s i x).dramFlips = s.dramFlips := rfl
@[simp] theorem setMemCorr_dramHeld (s : State) (i : Nat) (x : MemCorr) : (setMemCorr s i x).dramHeld = s.dramHeld := rfl
@[simp] theorem setMemCorr_disabled (s : State) (i : Nat) (x : MemCorr) : (setMemCorr s i x).disabled = s.disabled := rfl
@[simp] theorem setMemCorr_curves (s : State) (i : Nat) (x : MemCorr) : (setMemCorr s i x).curves = s.curves := rfl
@[simp] theorem setMemCorr_gains (s : State) (i : Nat) (x : MemCorr) : (setMemCorr s i x).gains = s.gains := rfl
@[simp] theorem setMemCorr_scrubs (s : State) (i : Nat) (x : MemCorr) : (setMemCorr s i x).scrubs = s.scrubs := rfl
@[simp] theorem setMemCorr_marches (s : State) (i : Nat) (x : MemCorr) : (setMemCorr s i x).marches = s.marches := rfl
@[simp] theorem setMemCorr_evqs (s : State) (i : Nat) (x : MemCorr) : (setMemCorr s i x).evqs = s.evqs := rfl
@[simp] theorem setMemCorr_conflicts (s : State) (i : Nat) (x : MemCorr) : (setMemCorr s i x).conflicts = s.conflicts := rfl
@[simp] theorem setMemCorr_ddr (s : State) (i : Nat) (x : MemCorr) : (setMemCorr s i x).ddr = s.ddr := rfl
@[simp] theorem setMemCorr_dma (s : State) (i : Nat) (x : MemCorr) : (setMemCorr s i x).dma = s.dma := rfl
@[simp] theorem setMemCorr_dmaDie (s : State) (i : Nat) (x : MemCorr) : (setMemCorr s i x).dmaDie = s.dmaDie := rfl
@[simp] theorem setMemCorr_tb (s : State) (i : Nat) (x : MemCorr) : (setMemCorr s i x).tb = s.tb := rfl
@[simp] theorem setMemCorr_sync (s : State) (i : Nat) (x : MemCorr) : (setMemCorr s i x).sync = s.sync := rfl
@[simp] theorem setMemCorr_encs (s : State) (i : Nat) (x : MemCorr) : (setMemCorr s i x).encs = s.encs := rfl
@[simp] theorem setMemCorr_rows (s : State) (i : Nat) (x : MemCorr) : (setMemCorr s i x).rows = s.rows := rfl
@[simp] theorem setMemCorr_heads (s : State) (i : Nat) (x : MemCorr) : (setMemCorr s i x).heads = s.heads := rfl
@[simp] theorem setMemCorr_groups (s : State) (i : Nat) (x : MemCorr) : (setMemCorr s i x).groups = s.groups := rfl
@[simp] theorem setMemCorr_links (s : State) (i : Nat) (x : MemCorr) : (setMemCorr s i x).links = s.links := rfl
@[simp] theorem setMemCorr_lanes (s : State) (i : Nat) (x : MemCorr) : (setMemCorr s i x).lanes = s.lanes := rfl
@[simp] theorem setMemCorr_eyes (s : State) (i : Nat) (x : MemCorr) : (setMemCorr s i x).eyes = s.eyes := rfl
@[simp] theorem setMemCorr_fences (s : State) (i : Nat) (x : MemCorr) : (setMemCorr s i x).fences = s.fences := rfl
@[simp] theorem setMemCorr_hcFences (s : State) (i : Nat) (x : MemCorr) : (setMemCorr s i x).hcFences = s.hcFences := rfl
@[simp] theorem setMemCorr_job (s : State) (i : Nat) (x : MemCorr) : (setMemCorr s i x).job = s.job := rfl
@[simp] theorem setMemCorr_sqs (s : State) (i : Nat) (x : MemCorr) : (setMemCorr s i x).sqs = s.sqs := rfl
@[simp] theorem setMemCorr_cqs (s : State) (i : Nat) (x : MemCorr) : (setMemCorr s i x).cqs = s.cqs := rfl
@[simp] theorem setMemCorr_cmdq (s : State) (i : Nat) (x : MemCorr) : (setMemCorr s i x).cmdq = s.cmdq := rfl
@[simp] theorem setMemCorr_popped (s : State) (i : Nat) (x : MemCorr) : (setMemCorr s i x).popped = s.popped := rfl
@[simp] theorem setMemCorr_parked (s : State) (i : Nat) (x : MemCorr) : (setMemCorr s i x).parked = s.parked := rfl
@[simp] theorem setMemCorr_mbox (s : State) (i : Nat) (x : MemCorr) : (setMemCorr s i x).mbox = s.mbox := rfl
@[simp] theorem setMemCorr_smb (s : State) (i : Nat) (x : MemCorr) : (setMemCorr s i x).smb = s.smb := rfl
@[simp] theorem setMemCorr_uartMb (s : State) (i : Nat) (x : MemCorr) : (setMemCorr s i x).uartMb = s.uartMb := rfl
@[simp] theorem setMemCorr_apers (s : State) (i : Nat) (x : MemCorr) : (setMemCorr s i x).apers = s.apers := rfl
@[simp] theorem setMemCorr_pcie (s : State) (i : Nat) (x : MemCorr) : (setMemCorr s i x).pcie = s.pcie := rfl
@[simp] theorem setMemCorr_ports (s : State) (i : Nat) (x : MemCorr) : (setMemCorr s i x).ports = s.ports := rfl
@[simp] theorem setMemCorr_lostRoutes (s : State) (i : Nat) (x : MemCorr) : (setMemCorr s i x).lostRoutes = s.lostRoutes := rfl
@[simp] theorem setMemCorr_fabric (s : State) (i : Nat) (x : MemCorr) : (setMemCorr s i x).fabric = s.fabric := rfl
@[simp] theorem setMemCorr_axes (s : State) (i : Nat) (x : MemCorr) : (setMemCorr s i x).axes = s.axes := rfl
@[simp] theorem setMemCorr_svc (s : State) (i : Nat) (x : MemCorr) : (setMemCorr s i x).svc = s.svc := rfl
@[simp] theorem setMemCorr_mgt (s : State) (i : Nat) (x : MemCorr) : (setMemCorr s i x).mgt = s.mgt := rfl
@[simp] theorem setMemCorr_sense (s : State) (i : Nat) (x : MemCorr) : (setMemCorr s i x).sense = s.sense := rfl
@[simp] theorem setMemCorr_log (s : State) (i : Nat) (x : MemCorr) : (setMemCorr s i x).log = s.log := rfl
@[simp] theorem setMemCorr_cal (s : State) (i : Nat) (x : MemCorr) : (setMemCorr s i x).cal = s.cal := rfl
@[simp] theorem setMemCorr_boot (s : State) (i : Nat) (x : MemCorr) : (setMemCorr s i x).boot = s.boot := rfl
@[simp] theorem setMemCorr_die0Fault (s : State) (i : Nat) (x : MemCorr) : (setMemCorr s i x).die0Fault = s.die0Fault := rfl
@[simp] theorem setMemCorr_startFailed (s : State) (i : Nat) (x : MemCorr) : (setMemCorr s i x).startFailed = s.startFailed := rfl
@[simp] theorem setMemCorr_power (s : State) (i : Nat) (x : MemCorr) : (setMemCorr s i x).power = s.power := rfl
@[simp] theorem setMemCorr_taps (s : State) (i : Nat) (x : MemCorr) : (setMemCorr s i x).taps = s.taps := rfl

/-! ### setTap -/

@[simp] theorem setTap_pending (s : State) (d : Nat) (x : TapCtl) : (setTap s d x).pending = s.pending := rfl
@[simp] theorem setTap_out (s : State) (d : Nat) (x : TapCtl) : (setTap s d x).out = s.out := rfl
@[simp] theorem setTap_free (s : State) (d : Nat) (x : TapCtl) : (setTap s d x).free = s.free := rfl
@[simp] theorem setTap_part (s : State) (d : Nat) (x : TapCtl) : (setTap s d x).part = s.part := rfl
@[simp] theorem setTap_fuses (s : State) (d : Nat) (x : TapCtl) : (setTap s d x).fuses = s.fuses := rfl
@[simp] theorem setTap_dia (s : State) (d : Nat) (x : TapCtl) : (setTap s d x).dia = s.dia := rfl
@[simp] theorem setTap_load (s : State) (d : Nat) (x : TapCtl) : (setTap s d x).load = s.load := rfl
@[simp] theorem setTap_gram (s : State) (d : Nat) (x : TapCtl) : (setTap s d x).gram = s.gram := rfl
@[simp] theorem setTap_params (s : State) (d : Nat) (x : TapCtl) : (setTap s d x).params = s.params := rfl
@[simp] theorem setTap_pages (s : State) (d : Nat) (x : TapCtl) : (setTap s d x).pages = s.pages := rfl
@[simp] theorem setTap_blocks (s : State) (d : Nat) (x : TapCtl) : (setTap s d x).blocks = s.blocks := rfl
@[simp] theorem setTap_closed (s : State) (d : Nat) (x : TapCtl) : (setTap s d x).closed = s.closed := rfl
@[simp] theorem setTap_comps (s : State) (d : Nat) (x : TapCtl) : (setTap s d x).comps = s.comps := rfl
@[simp] theorem setTap_clauses (s : State) (d : Nat) (x : TapCtl) : (setTap s d x).clauses = s.clauses := rfl
@[simp] theorem setTap_cells (s : State) (d : Nat) (x : TapCtl) : (setTap s d x).cells = s.cells := rfl
@[simp] theorem setTap_slotMap (s : State) (d : Nat) (x : TapCtl) : (setTap s d x).slotMap = s.slotMap := rfl
@[simp] theorem setTap_imem (s : State) (d : Nat) (x : TapCtl) : (setTap s d x).imem = s.imem := rfl
@[simp] theorem setTap_dmem (s : State) (d : Nat) (x : TapCtl) : (setTap s d x).dmem = s.dmem := rfl
@[simp] theorem setTap_banks (s : State) (d : Nat) (x : TapCtl) : (setTap s d x).banks = s.banks := rfl
@[simp] theorem setTap_tcm (s : State) (d : Nat) (x : TapCtl) : (setTap s d x).tcm = s.tcm := rfl
@[simp] theorem setTap_dram (s : State) (d : Nat) (x : TapCtl) : (setTap s d x).dram = s.dram := rfl
@[simp] theorem setTap_flash (s : State) (d : Nat) (x : TapCtl) : (setTap s d x).flash = s.flash := rfl
@[simp] theorem setTap_poison (s : State) (d : Nat) (x : TapCtl) : (setTap s d x).poison = s.poison := rfl
@[simp] theorem setTap_flips (s : State) (d : Nat) (x : TapCtl) : (setTap s d x).flips = s.flips := rfl
@[simp] theorem setTap_dramPoison (s : State) (d : Nat) (x : TapCtl) : (setTap s d x).dramPoison = s.dramPoison := rfl
@[simp] theorem setTap_dramFlips (s : State) (d : Nat) (x : TapCtl) : (setTap s d x).dramFlips = s.dramFlips := rfl
@[simp] theorem setTap_dramHeld (s : State) (d : Nat) (x : TapCtl) : (setTap s d x).dramHeld = s.dramHeld := rfl
@[simp] theorem setTap_disabled (s : State) (d : Nat) (x : TapCtl) : (setTap s d x).disabled = s.disabled := rfl
@[simp] theorem setTap_curves (s : State) (d : Nat) (x : TapCtl) : (setTap s d x).curves = s.curves := rfl
@[simp] theorem setTap_gains (s : State) (d : Nat) (x : TapCtl) : (setTap s d x).gains = s.gains := rfl
@[simp] theorem setTap_scrubs (s : State) (d : Nat) (x : TapCtl) : (setTap s d x).scrubs = s.scrubs := rfl
@[simp] theorem setTap_marches (s : State) (d : Nat) (x : TapCtl) : (setTap s d x).marches = s.marches := rfl
@[simp] theorem setTap_evqs (s : State) (d : Nat) (x : TapCtl) : (setTap s d x).evqs = s.evqs := rfl
@[simp] theorem setTap_conflicts (s : State) (d : Nat) (x : TapCtl) : (setTap s d x).conflicts = s.conflicts := rfl
@[simp] theorem setTap_memCorr (s : State) (d : Nat) (x : TapCtl) : (setTap s d x).memCorr = s.memCorr := rfl
@[simp] theorem setTap_ddr (s : State) (d : Nat) (x : TapCtl) : (setTap s d x).ddr = s.ddr := rfl
@[simp] theorem setTap_dma (s : State) (d : Nat) (x : TapCtl) : (setTap s d x).dma = s.dma := rfl
@[simp] theorem setTap_dmaDie (s : State) (d : Nat) (x : TapCtl) : (setTap s d x).dmaDie = s.dmaDie := rfl
@[simp] theorem setTap_tb (s : State) (d : Nat) (x : TapCtl) : (setTap s d x).tb = s.tb := rfl
@[simp] theorem setTap_sync (s : State) (d : Nat) (x : TapCtl) : (setTap s d x).sync = s.sync := rfl
@[simp] theorem setTap_encs (s : State) (d : Nat) (x : TapCtl) : (setTap s d x).encs = s.encs := rfl
@[simp] theorem setTap_rows (s : State) (d : Nat) (x : TapCtl) : (setTap s d x).rows = s.rows := rfl
@[simp] theorem setTap_heads (s : State) (d : Nat) (x : TapCtl) : (setTap s d x).heads = s.heads := rfl
@[simp] theorem setTap_groups (s : State) (d : Nat) (x : TapCtl) : (setTap s d x).groups = s.groups := rfl
@[simp] theorem setTap_links (s : State) (d : Nat) (x : TapCtl) : (setTap s d x).links = s.links := rfl
@[simp] theorem setTap_lanes (s : State) (d : Nat) (x : TapCtl) : (setTap s d x).lanes = s.lanes := rfl
@[simp] theorem setTap_eyes (s : State) (d : Nat) (x : TapCtl) : (setTap s d x).eyes = s.eyes := rfl
@[simp] theorem setTap_fences (s : State) (d : Nat) (x : TapCtl) : (setTap s d x).fences = s.fences := rfl
@[simp] theorem setTap_hcFences (s : State) (d : Nat) (x : TapCtl) : (setTap s d x).hcFences = s.hcFences := rfl
@[simp] theorem setTap_job (s : State) (d : Nat) (x : TapCtl) : (setTap s d x).job = s.job := rfl
@[simp] theorem setTap_sqs (s : State) (d : Nat) (x : TapCtl) : (setTap s d x).sqs = s.sqs := rfl
@[simp] theorem setTap_cqs (s : State) (d : Nat) (x : TapCtl) : (setTap s d x).cqs = s.cqs := rfl
@[simp] theorem setTap_cmdq (s : State) (d : Nat) (x : TapCtl) : (setTap s d x).cmdq = s.cmdq := rfl
@[simp] theorem setTap_popped (s : State) (d : Nat) (x : TapCtl) : (setTap s d x).popped = s.popped := rfl
@[simp] theorem setTap_parked (s : State) (d : Nat) (x : TapCtl) : (setTap s d x).parked = s.parked := rfl
@[simp] theorem setTap_mbox (s : State) (d : Nat) (x : TapCtl) : (setTap s d x).mbox = s.mbox := rfl
@[simp] theorem setTap_smb (s : State) (d : Nat) (x : TapCtl) : (setTap s d x).smb = s.smb := rfl
@[simp] theorem setTap_uartMb (s : State) (d : Nat) (x : TapCtl) : (setTap s d x).uartMb = s.uartMb := rfl
@[simp] theorem setTap_apers (s : State) (d : Nat) (x : TapCtl) : (setTap s d x).apers = s.apers := rfl
@[simp] theorem setTap_pcie (s : State) (d : Nat) (x : TapCtl) : (setTap s d x).pcie = s.pcie := rfl
@[simp] theorem setTap_ports (s : State) (d : Nat) (x : TapCtl) : (setTap s d x).ports = s.ports := rfl
@[simp] theorem setTap_lostRoutes (s : State) (d : Nat) (x : TapCtl) : (setTap s d x).lostRoutes = s.lostRoutes := rfl
@[simp] theorem setTap_fabric (s : State) (d : Nat) (x : TapCtl) : (setTap s d x).fabric = s.fabric := rfl
@[simp] theorem setTap_axes (s : State) (d : Nat) (x : TapCtl) : (setTap s d x).axes = s.axes := rfl
@[simp] theorem setTap_svc (s : State) (d : Nat) (x : TapCtl) : (setTap s d x).svc = s.svc := rfl
@[simp] theorem setTap_mgt (s : State) (d : Nat) (x : TapCtl) : (setTap s d x).mgt = s.mgt := rfl
@[simp] theorem setTap_sense (s : State) (d : Nat) (x : TapCtl) : (setTap s d x).sense = s.sense := rfl
@[simp] theorem setTap_log (s : State) (d : Nat) (x : TapCtl) : (setTap s d x).log = s.log := rfl
@[simp] theorem setTap_cal (s : State) (d : Nat) (x : TapCtl) : (setTap s d x).cal = s.cal := rfl
@[simp] theorem setTap_boot (s : State) (d : Nat) (x : TapCtl) : (setTap s d x).boot = s.boot := rfl
@[simp] theorem setTap_die0Fault (s : State) (d : Nat) (x : TapCtl) : (setTap s d x).die0Fault = s.die0Fault := rfl
@[simp] theorem setTap_startFailed (s : State) (d : Nat) (x : TapCtl) : (setTap s d x).startFailed = s.startFailed := rfl
@[simp] theorem setTap_power (s : State) (d : Nat) (x : TapCtl) : (setTap s d x).power = s.power := rfl

/-! ### emit -/

@[simp] theorem emit_pending (s : State) (o : Out) : (emit s o).pending = s.pending := rfl
@[simp] theorem emit_free (s : State) (o : Out) : (emit s o).free = s.free := rfl
@[simp] theorem emit_part (s : State) (o : Out) : (emit s o).part = s.part := rfl
@[simp] theorem emit_fuses (s : State) (o : Out) : (emit s o).fuses = s.fuses := rfl
@[simp] theorem emit_dia (s : State) (o : Out) : (emit s o).dia = s.dia := rfl
@[simp] theorem emit_load (s : State) (o : Out) : (emit s o).load = s.load := rfl
@[simp] theorem emit_gram (s : State) (o : Out) : (emit s o).gram = s.gram := rfl
@[simp] theorem emit_params (s : State) (o : Out) : (emit s o).params = s.params := rfl
@[simp] theorem emit_pages (s : State) (o : Out) : (emit s o).pages = s.pages := rfl
@[simp] theorem emit_blocks (s : State) (o : Out) : (emit s o).blocks = s.blocks := rfl
@[simp] theorem emit_closed (s : State) (o : Out) : (emit s o).closed = s.closed := rfl
@[simp] theorem emit_comps (s : State) (o : Out) : (emit s o).comps = s.comps := rfl
@[simp] theorem emit_clauses (s : State) (o : Out) : (emit s o).clauses = s.clauses := rfl
@[simp] theorem emit_cells (s : State) (o : Out) : (emit s o).cells = s.cells := rfl
@[simp] theorem emit_slotMap (s : State) (o : Out) : (emit s o).slotMap = s.slotMap := rfl
@[simp] theorem emit_imem (s : State) (o : Out) : (emit s o).imem = s.imem := rfl
@[simp] theorem emit_dmem (s : State) (o : Out) : (emit s o).dmem = s.dmem := rfl
@[simp] theorem emit_banks (s : State) (o : Out) : (emit s o).banks = s.banks := rfl
@[simp] theorem emit_tcm (s : State) (o : Out) : (emit s o).tcm = s.tcm := rfl
@[simp] theorem emit_dram (s : State) (o : Out) : (emit s o).dram = s.dram := rfl
@[simp] theorem emit_flash (s : State) (o : Out) : (emit s o).flash = s.flash := rfl
@[simp] theorem emit_poison (s : State) (o : Out) : (emit s o).poison = s.poison := rfl
@[simp] theorem emit_flips (s : State) (o : Out) : (emit s o).flips = s.flips := rfl
@[simp] theorem emit_dramPoison (s : State) (o : Out) : (emit s o).dramPoison = s.dramPoison := rfl
@[simp] theorem emit_dramFlips (s : State) (o : Out) : (emit s o).dramFlips = s.dramFlips := rfl
@[simp] theorem emit_dramHeld (s : State) (o : Out) : (emit s o).dramHeld = s.dramHeld := rfl
@[simp] theorem emit_disabled (s : State) (o : Out) : (emit s o).disabled = s.disabled := rfl
@[simp] theorem emit_curves (s : State) (o : Out) : (emit s o).curves = s.curves := rfl
@[simp] theorem emit_gains (s : State) (o : Out) : (emit s o).gains = s.gains := rfl
@[simp] theorem emit_scrubs (s : State) (o : Out) : (emit s o).scrubs = s.scrubs := rfl
@[simp] theorem emit_marches (s : State) (o : Out) : (emit s o).marches = s.marches := rfl
@[simp] theorem emit_evqs (s : State) (o : Out) : (emit s o).evqs = s.evqs := rfl
@[simp] theorem emit_conflicts (s : State) (o : Out) : (emit s o).conflicts = s.conflicts := rfl
@[simp] theorem emit_memCorr (s : State) (o : Out) : (emit s o).memCorr = s.memCorr := rfl
@[simp] theorem emit_ddr (s : State) (o : Out) : (emit s o).ddr = s.ddr := rfl
@[simp] theorem emit_dma (s : State) (o : Out) : (emit s o).dma = s.dma := rfl
@[simp] theorem emit_dmaDie (s : State) (o : Out) : (emit s o).dmaDie = s.dmaDie := rfl
@[simp] theorem emit_tb (s : State) (o : Out) : (emit s o).tb = s.tb := rfl
@[simp] theorem emit_sync (s : State) (o : Out) : (emit s o).sync = s.sync := rfl
@[simp] theorem emit_encs (s : State) (o : Out) : (emit s o).encs = s.encs := rfl
@[simp] theorem emit_rows (s : State) (o : Out) : (emit s o).rows = s.rows := rfl
@[simp] theorem emit_heads (s : State) (o : Out) : (emit s o).heads = s.heads := rfl
@[simp] theorem emit_groups (s : State) (o : Out) : (emit s o).groups = s.groups := rfl
@[simp] theorem emit_links (s : State) (o : Out) : (emit s o).links = s.links := rfl
@[simp] theorem emit_lanes (s : State) (o : Out) : (emit s o).lanes = s.lanes := rfl
@[simp] theorem emit_eyes (s : State) (o : Out) : (emit s o).eyes = s.eyes := rfl
@[simp] theorem emit_fences (s : State) (o : Out) : (emit s o).fences = s.fences := rfl
@[simp] theorem emit_hcFences (s : State) (o : Out) : (emit s o).hcFences = s.hcFences := rfl
@[simp] theorem emit_job (s : State) (o : Out) : (emit s o).job = s.job := rfl
@[simp] theorem emit_sqs (s : State) (o : Out) : (emit s o).sqs = s.sqs := rfl
@[simp] theorem emit_cqs (s : State) (o : Out) : (emit s o).cqs = s.cqs := rfl
@[simp] theorem emit_cmdq (s : State) (o : Out) : (emit s o).cmdq = s.cmdq := rfl
@[simp] theorem emit_popped (s : State) (o : Out) : (emit s o).popped = s.popped := rfl
@[simp] theorem emit_parked (s : State) (o : Out) : (emit s o).parked = s.parked := rfl
@[simp] theorem emit_mbox (s : State) (o : Out) : (emit s o).mbox = s.mbox := rfl
@[simp] theorem emit_smb (s : State) (o : Out) : (emit s o).smb = s.smb := rfl
@[simp] theorem emit_uartMb (s : State) (o : Out) : (emit s o).uartMb = s.uartMb := rfl
@[simp] theorem emit_apers (s : State) (o : Out) : (emit s o).apers = s.apers := rfl
@[simp] theorem emit_pcie (s : State) (o : Out) : (emit s o).pcie = s.pcie := rfl
@[simp] theorem emit_ports (s : State) (o : Out) : (emit s o).ports = s.ports := rfl
@[simp] theorem emit_lostRoutes (s : State) (o : Out) : (emit s o).lostRoutes = s.lostRoutes := rfl
@[simp] theorem emit_fabric (s : State) (o : Out) : (emit s o).fabric = s.fabric := rfl
@[simp] theorem emit_axes (s : State) (o : Out) : (emit s o).axes = s.axes := rfl
@[simp] theorem emit_svc (s : State) (o : Out) : (emit s o).svc = s.svc := rfl
@[simp] theorem emit_mgt (s : State) (o : Out) : (emit s o).mgt = s.mgt := rfl
@[simp] theorem emit_sense (s : State) (o : Out) : (emit s o).sense = s.sense := rfl
@[simp] theorem emit_log (s : State) (o : Out) : (emit s o).log = s.log := rfl
@[simp] theorem emit_cal (s : State) (o : Out) : (emit s o).cal = s.cal := rfl
@[simp] theorem emit_boot (s : State) (o : Out) : (emit s o).boot = s.boot := rfl
@[simp] theorem emit_die0Fault (s : State) (o : Out) : (emit s o).die0Fault = s.die0Fault := rfl
@[simp] theorem emit_startFailed (s : State) (o : Out) : (emit s o).startFailed = s.startFailed := rfl
@[simp] theorem emit_power (s : State) (o : Out) : (emit s o).power = s.power := rfl
@[simp] theorem emit_taps (s : State) (o : Out) : (emit s o).taps = s.taps := rfl

/-! ### advanceTo -/

@[simp] theorem advanceTo_pending (s : State) (t : Nat) : (advanceTo s t).pending = s.pending := rfl
@[simp] theorem advanceTo_out (s : State) (t : Nat) : (advanceTo s t).out = s.out := rfl
@[simp] theorem advanceTo_free (s : State) (t : Nat) : (advanceTo s t).free = s.free := rfl
@[simp] theorem advanceTo_part (s : State) (t : Nat) : (advanceTo s t).part = s.part := rfl
@[simp] theorem advanceTo_fuses (s : State) (t : Nat) : (advanceTo s t).fuses = s.fuses := rfl
@[simp] theorem advanceTo_dia (s : State) (t : Nat) : (advanceTo s t).dia = s.dia := rfl
@[simp] theorem advanceTo_load (s : State) (t : Nat) : (advanceTo s t).load = s.load := rfl
@[simp] theorem advanceTo_gram (s : State) (t : Nat) : (advanceTo s t).gram = s.gram := rfl
@[simp] theorem advanceTo_params (s : State) (t : Nat) : (advanceTo s t).params = s.params := rfl
@[simp] theorem advanceTo_pages (s : State) (t : Nat) : (advanceTo s t).pages = s.pages := rfl
@[simp] theorem advanceTo_blocks (s : State) (t : Nat) : (advanceTo s t).blocks = s.blocks := rfl
@[simp] theorem advanceTo_closed (s : State) (t : Nat) : (advanceTo s t).closed = s.closed := rfl
@[simp] theorem advanceTo_comps (s : State) (t : Nat) : (advanceTo s t).comps = s.comps := rfl
@[simp] theorem advanceTo_clauses (s : State) (t : Nat) : (advanceTo s t).clauses = s.clauses := rfl
@[simp] theorem advanceTo_cells (s : State) (t : Nat) : (advanceTo s t).cells = s.cells := rfl
@[simp] theorem advanceTo_slotMap (s : State) (t : Nat) : (advanceTo s t).slotMap = s.slotMap := rfl
@[simp] theorem advanceTo_imem (s : State) (t : Nat) : (advanceTo s t).imem = s.imem := rfl
@[simp] theorem advanceTo_dmem (s : State) (t : Nat) : (advanceTo s t).dmem = s.dmem := rfl
@[simp] theorem advanceTo_banks (s : State) (t : Nat) : (advanceTo s t).banks = s.banks := rfl
@[simp] theorem advanceTo_tcm (s : State) (t : Nat) : (advanceTo s t).tcm = s.tcm := rfl
@[simp] theorem advanceTo_dram (s : State) (t : Nat) : (advanceTo s t).dram = s.dram := rfl
@[simp] theorem advanceTo_flash (s : State) (t : Nat) : (advanceTo s t).flash = s.flash := rfl
@[simp] theorem advanceTo_poison (s : State) (t : Nat) : (advanceTo s t).poison = s.poison := rfl
@[simp] theorem advanceTo_flips (s : State) (t : Nat) : (advanceTo s t).flips = s.flips := rfl
@[simp] theorem advanceTo_dramPoison (s : State) (t : Nat) : (advanceTo s t).dramPoison = s.dramPoison := rfl
@[simp] theorem advanceTo_dramFlips (s : State) (t : Nat) : (advanceTo s t).dramFlips = s.dramFlips := rfl
@[simp] theorem advanceTo_dramHeld (s : State) (t : Nat) : (advanceTo s t).dramHeld = s.dramHeld := rfl
@[simp] theorem advanceTo_disabled (s : State) (t : Nat) : (advanceTo s t).disabled = s.disabled := rfl
@[simp] theorem advanceTo_curves (s : State) (t : Nat) : (advanceTo s t).curves = s.curves := rfl
@[simp] theorem advanceTo_gains (s : State) (t : Nat) : (advanceTo s t).gains = s.gains := rfl
@[simp] theorem advanceTo_scrubs (s : State) (t : Nat) : (advanceTo s t).scrubs = s.scrubs := rfl
@[simp] theorem advanceTo_marches (s : State) (t : Nat) : (advanceTo s t).marches = s.marches := rfl
@[simp] theorem advanceTo_evqs (s : State) (t : Nat) : (advanceTo s t).evqs = s.evqs := rfl
@[simp] theorem advanceTo_conflicts (s : State) (t : Nat) : (advanceTo s t).conflicts = s.conflicts := rfl
@[simp] theorem advanceTo_memCorr (s : State) (t : Nat) : (advanceTo s t).memCorr = s.memCorr := rfl
@[simp] theorem advanceTo_ddr (s : State) (t : Nat) : (advanceTo s t).ddr = s.ddr := rfl
@[simp] theorem advanceTo_dma (s : State) (t : Nat) : (advanceTo s t).dma = s.dma := rfl
@[simp] theorem advanceTo_dmaDie (s : State) (t : Nat) : (advanceTo s t).dmaDie = s.dmaDie := rfl
@[simp] theorem advanceTo_sync (s : State) (t : Nat) : (advanceTo s t).sync = s.sync := rfl
@[simp] theorem advanceTo_encs (s : State) (t : Nat) : (advanceTo s t).encs = s.encs := rfl
@[simp] theorem advanceTo_rows (s : State) (t : Nat) : (advanceTo s t).rows = s.rows := rfl
@[simp] theorem advanceTo_heads (s : State) (t : Nat) : (advanceTo s t).heads = s.heads := rfl
@[simp] theorem advanceTo_groups (s : State) (t : Nat) : (advanceTo s t).groups = s.groups := rfl
@[simp] theorem advanceTo_links (s : State) (t : Nat) : (advanceTo s t).links = s.links := rfl
@[simp] theorem advanceTo_lanes (s : State) (t : Nat) : (advanceTo s t).lanes = s.lanes := rfl
@[simp] theorem advanceTo_eyes (s : State) (t : Nat) : (advanceTo s t).eyes = s.eyes := rfl
@[simp] theorem advanceTo_fences (s : State) (t : Nat) : (advanceTo s t).fences = s.fences := rfl
@[simp] theorem advanceTo_hcFences (s : State) (t : Nat) : (advanceTo s t).hcFences = s.hcFences := rfl
@[simp] theorem advanceTo_job (s : State) (t : Nat) : (advanceTo s t).job = s.job := rfl
@[simp] theorem advanceTo_sqs (s : State) (t : Nat) : (advanceTo s t).sqs = s.sqs := rfl
@[simp] theorem advanceTo_cqs (s : State) (t : Nat) : (advanceTo s t).cqs = s.cqs := rfl
@[simp] theorem advanceTo_cmdq (s : State) (t : Nat) : (advanceTo s t).cmdq = s.cmdq := rfl
@[simp] theorem advanceTo_popped (s : State) (t : Nat) : (advanceTo s t).popped = s.popped := rfl
@[simp] theorem advanceTo_parked (s : State) (t : Nat) : (advanceTo s t).parked = s.parked := rfl
@[simp] theorem advanceTo_mbox (s : State) (t : Nat) : (advanceTo s t).mbox = s.mbox := rfl
@[simp] theorem advanceTo_smb (s : State) (t : Nat) : (advanceTo s t).smb = s.smb := rfl
@[simp] theorem advanceTo_uartMb (s : State) (t : Nat) : (advanceTo s t).uartMb = s.uartMb := rfl
@[simp] theorem advanceTo_apers (s : State) (t : Nat) : (advanceTo s t).apers = s.apers := rfl
@[simp] theorem advanceTo_pcie (s : State) (t : Nat) : (advanceTo s t).pcie = s.pcie := rfl
@[simp] theorem advanceTo_ports (s : State) (t : Nat) : (advanceTo s t).ports = s.ports := rfl
@[simp] theorem advanceTo_lostRoutes (s : State) (t : Nat) : (advanceTo s t).lostRoutes = s.lostRoutes := rfl
@[simp] theorem advanceTo_fabric (s : State) (t : Nat) : (advanceTo s t).fabric = s.fabric := rfl
@[simp] theorem advanceTo_axes (s : State) (t : Nat) : (advanceTo s t).axes = s.axes := rfl
@[simp] theorem advanceTo_svc (s : State) (t : Nat) : (advanceTo s t).svc = s.svc := rfl
@[simp] theorem advanceTo_mgt (s : State) (t : Nat) : (advanceTo s t).mgt = s.mgt := rfl
@[simp] theorem advanceTo_sense (s : State) (t : Nat) : (advanceTo s t).sense = s.sense := rfl
@[simp] theorem advanceTo_log (s : State) (t : Nat) : (advanceTo s t).log = s.log := rfl
@[simp] theorem advanceTo_cal (s : State) (t : Nat) : (advanceTo s t).cal = s.cal := rfl
@[simp] theorem advanceTo_boot (s : State) (t : Nat) : (advanceTo s t).boot = s.boot := rfl
@[simp] theorem advanceTo_die0Fault (s : State) (t : Nat) : (advanceTo s t).die0Fault = s.die0Fault := rfl
@[simp] theorem advanceTo_startFailed (s : State) (t : Nat) : (advanceTo s t).startFailed = s.startFailed := rfl
@[simp] theorem advanceTo_power (s : State) (t : Nat) : (advanceTo s t).power = s.power := rfl
@[simp] theorem advanceTo_taps (s : State) (t : Nat) : (advanceTo s t).taps = s.taps := rfl

/-! ### park -/

@[simp] theorem park_pending (s : State) (p : Parked) : (park s p).pending = s.pending := rfl
@[simp] theorem park_out (s : State) (p : Parked) : (park s p).out = s.out := rfl
@[simp] theorem park_free (s : State) (p : Parked) : (park s p).free = s.free := rfl
@[simp] theorem park_part (s : State) (p : Parked) : (park s p).part = s.part := rfl
@[simp] theorem park_fuses (s : State) (p : Parked) : (park s p).fuses = s.fuses := rfl
@[simp] theorem park_dia (s : State) (p : Parked) : (park s p).dia = s.dia := rfl
@[simp] theorem park_load (s : State) (p : Parked) : (park s p).load = s.load := rfl
@[simp] theorem park_gram (s : State) (p : Parked) : (park s p).gram = s.gram := rfl
@[simp] theorem park_params (s : State) (p : Parked) : (park s p).params = s.params := rfl
@[simp] theorem park_pages (s : State) (p : Parked) : (park s p).pages = s.pages := rfl
@[simp] theorem park_blocks (s : State) (p : Parked) : (park s p).blocks = s.blocks := rfl
@[simp] theorem park_closed (s : State) (p : Parked) : (park s p).closed = s.closed := rfl
@[simp] theorem park_comps (s : State) (p : Parked) : (park s p).comps = s.comps := rfl
@[simp] theorem park_clauses (s : State) (p : Parked) : (park s p).clauses = s.clauses := rfl
@[simp] theorem park_cells (s : State) (p : Parked) : (park s p).cells = s.cells := rfl
@[simp] theorem park_slotMap (s : State) (p : Parked) : (park s p).slotMap = s.slotMap := rfl
@[simp] theorem park_imem (s : State) (p : Parked) : (park s p).imem = s.imem := rfl
@[simp] theorem park_dmem (s : State) (p : Parked) : (park s p).dmem = s.dmem := rfl
@[simp] theorem park_banks (s : State) (p : Parked) : (park s p).banks = s.banks := rfl
@[simp] theorem park_tcm (s : State) (p : Parked) : (park s p).tcm = s.tcm := rfl
@[simp] theorem park_dram (s : State) (p : Parked) : (park s p).dram = s.dram := rfl
@[simp] theorem park_flash (s : State) (p : Parked) : (park s p).flash = s.flash := rfl
@[simp] theorem park_poison (s : State) (p : Parked) : (park s p).poison = s.poison := rfl
@[simp] theorem park_flips (s : State) (p : Parked) : (park s p).flips = s.flips := rfl
@[simp] theorem park_dramPoison (s : State) (p : Parked) : (park s p).dramPoison = s.dramPoison := rfl
@[simp] theorem park_dramFlips (s : State) (p : Parked) : (park s p).dramFlips = s.dramFlips := rfl
@[simp] theorem park_dramHeld (s : State) (p : Parked) : (park s p).dramHeld = s.dramHeld := rfl
@[simp] theorem park_disabled (s : State) (p : Parked) : (park s p).disabled = s.disabled := rfl
@[simp] theorem park_curves (s : State) (p : Parked) : (park s p).curves = s.curves := rfl
@[simp] theorem park_gains (s : State) (p : Parked) : (park s p).gains = s.gains := rfl
@[simp] theorem park_scrubs (s : State) (p : Parked) : (park s p).scrubs = s.scrubs := rfl
@[simp] theorem park_marches (s : State) (p : Parked) : (park s p).marches = s.marches := rfl
@[simp] theorem park_evqs (s : State) (p : Parked) : (park s p).evqs = s.evqs := rfl
@[simp] theorem park_conflicts (s : State) (p : Parked) : (park s p).conflicts = s.conflicts := rfl
@[simp] theorem park_memCorr (s : State) (p : Parked) : (park s p).memCorr = s.memCorr := rfl
@[simp] theorem park_ddr (s : State) (p : Parked) : (park s p).ddr = s.ddr := rfl
@[simp] theorem park_dma (s : State) (p : Parked) : (park s p).dma = s.dma := rfl
@[simp] theorem park_dmaDie (s : State) (p : Parked) : (park s p).dmaDie = s.dmaDie := rfl
@[simp] theorem park_tb (s : State) (p : Parked) : (park s p).tb = s.tb := rfl
@[simp] theorem park_sync (s : State) (p : Parked) : (park s p).sync = s.sync := rfl
@[simp] theorem park_encs (s : State) (p : Parked) : (park s p).encs = s.encs := rfl
@[simp] theorem park_rows (s : State) (p : Parked) : (park s p).rows = s.rows := rfl
@[simp] theorem park_heads (s : State) (p : Parked) : (park s p).heads = s.heads := rfl
@[simp] theorem park_groups (s : State) (p : Parked) : (park s p).groups = s.groups := rfl
@[simp] theorem park_links (s : State) (p : Parked) : (park s p).links = s.links := rfl
@[simp] theorem park_lanes (s : State) (p : Parked) : (park s p).lanes = s.lanes := rfl
@[simp] theorem park_eyes (s : State) (p : Parked) : (park s p).eyes = s.eyes := rfl
@[simp] theorem park_fences (s : State) (p : Parked) : (park s p).fences = s.fences := rfl
@[simp] theorem park_hcFences (s : State) (p : Parked) : (park s p).hcFences = s.hcFences := rfl
@[simp] theorem park_job (s : State) (p : Parked) : (park s p).job = s.job := rfl
@[simp] theorem park_sqs (s : State) (p : Parked) : (park s p).sqs = s.sqs := rfl
@[simp] theorem park_cqs (s : State) (p : Parked) : (park s p).cqs = s.cqs := rfl
@[simp] theorem park_cmdq (s : State) (p : Parked) : (park s p).cmdq = s.cmdq := rfl
@[simp] theorem park_popped (s : State) (p : Parked) : (park s p).popped = s.popped := rfl
@[simp] theorem park_mbox (s : State) (p : Parked) : (park s p).mbox = s.mbox := rfl
@[simp] theorem park_smb (s : State) (p : Parked) : (park s p).smb = s.smb := rfl
@[simp] theorem park_uartMb (s : State) (p : Parked) : (park s p).uartMb = s.uartMb := rfl
@[simp] theorem park_apers (s : State) (p : Parked) : (park s p).apers = s.apers := rfl
@[simp] theorem park_pcie (s : State) (p : Parked) : (park s p).pcie = s.pcie := rfl
@[simp] theorem park_ports (s : State) (p : Parked) : (park s p).ports = s.ports := rfl
@[simp] theorem park_lostRoutes (s : State) (p : Parked) : (park s p).lostRoutes = s.lostRoutes := rfl
@[simp] theorem park_fabric (s : State) (p : Parked) : (park s p).fabric = s.fabric := rfl
@[simp] theorem park_axes (s : State) (p : Parked) : (park s p).axes = s.axes := rfl
@[simp] theorem park_svc (s : State) (p : Parked) : (park s p).svc = s.svc := rfl
@[simp] theorem park_mgt (s : State) (p : Parked) : (park s p).mgt = s.mgt := rfl
@[simp] theorem park_sense (s : State) (p : Parked) : (park s p).sense = s.sense := rfl
@[simp] theorem park_log (s : State) (p : Parked) : (park s p).log = s.log := rfl
@[simp] theorem park_cal (s : State) (p : Parked) : (park s p).cal = s.cal := rfl
@[simp] theorem park_boot (s : State) (p : Parked) : (park s p).boot = s.boot := rfl
@[simp] theorem park_die0Fault (s : State) (p : Parked) : (park s p).die0Fault = s.die0Fault := rfl
@[simp] theorem park_startFailed (s : State) (p : Parked) : (park s p).startFailed = s.startFailed := rfl
@[simp] theorem park_power (s : State) (p : Parked) : (park s p).power = s.power := rfl
@[simp] theorem park_taps (s : State) (p : Parked) : (park s p).taps = s.taps := rfl

/-! ### takePopped -/

@[simp] theorem takePopped_pending (s : State) (h : CmdHdr) : (takePopped s h).pending = s.pending := rfl
@[simp] theorem takePopped_out (s : State) (h : CmdHdr) : (takePopped s h).out = s.out := rfl
@[simp] theorem takePopped_free (s : State) (h : CmdHdr) : (takePopped s h).free = s.free := rfl
@[simp] theorem takePopped_part (s : State) (h : CmdHdr) : (takePopped s h).part = s.part := rfl
@[simp] theorem takePopped_fuses (s : State) (h : CmdHdr) : (takePopped s h).fuses = s.fuses := rfl
@[simp] theorem takePopped_dia (s : State) (h : CmdHdr) : (takePopped s h).dia = s.dia := rfl
@[simp] theorem takePopped_load (s : State) (h : CmdHdr) : (takePopped s h).load = s.load := rfl
@[simp] theorem takePopped_gram (s : State) (h : CmdHdr) : (takePopped s h).gram = s.gram := rfl
@[simp] theorem takePopped_params (s : State) (h : CmdHdr) : (takePopped s h).params = s.params := rfl
@[simp] theorem takePopped_pages (s : State) (h : CmdHdr) : (takePopped s h).pages = s.pages := rfl
@[simp] theorem takePopped_blocks (s : State) (h : CmdHdr) : (takePopped s h).blocks = s.blocks := rfl
@[simp] theorem takePopped_closed (s : State) (h : CmdHdr) : (takePopped s h).closed = s.closed := rfl
@[simp] theorem takePopped_comps (s : State) (h : CmdHdr) : (takePopped s h).comps = s.comps := rfl
@[simp] theorem takePopped_clauses (s : State) (h : CmdHdr) : (takePopped s h).clauses = s.clauses := rfl
@[simp] theorem takePopped_cells (s : State) (h : CmdHdr) : (takePopped s h).cells = s.cells := rfl
@[simp] theorem takePopped_slotMap (s : State) (h : CmdHdr) : (takePopped s h).slotMap = s.slotMap := rfl
@[simp] theorem takePopped_imem (s : State) (h : CmdHdr) : (takePopped s h).imem = s.imem := rfl
@[simp] theorem takePopped_dmem (s : State) (h : CmdHdr) : (takePopped s h).dmem = s.dmem := rfl
@[simp] theorem takePopped_banks (s : State) (h : CmdHdr) : (takePopped s h).banks = s.banks := rfl
@[simp] theorem takePopped_tcm (s : State) (h : CmdHdr) : (takePopped s h).tcm = s.tcm := rfl
@[simp] theorem takePopped_dram (s : State) (h : CmdHdr) : (takePopped s h).dram = s.dram := rfl
@[simp] theorem takePopped_flash (s : State) (h : CmdHdr) : (takePopped s h).flash = s.flash := rfl
@[simp] theorem takePopped_poison (s : State) (h : CmdHdr) : (takePopped s h).poison = s.poison := rfl
@[simp] theorem takePopped_flips (s : State) (h : CmdHdr) : (takePopped s h).flips = s.flips := rfl
@[simp] theorem takePopped_dramPoison (s : State) (h : CmdHdr) : (takePopped s h).dramPoison = s.dramPoison := rfl
@[simp] theorem takePopped_dramFlips (s : State) (h : CmdHdr) : (takePopped s h).dramFlips = s.dramFlips := rfl
@[simp] theorem takePopped_dramHeld (s : State) (h : CmdHdr) : (takePopped s h).dramHeld = s.dramHeld := rfl
@[simp] theorem takePopped_disabled (s : State) (h : CmdHdr) : (takePopped s h).disabled = s.disabled := rfl
@[simp] theorem takePopped_curves (s : State) (h : CmdHdr) : (takePopped s h).curves = s.curves := rfl
@[simp] theorem takePopped_gains (s : State) (h : CmdHdr) : (takePopped s h).gains = s.gains := rfl
@[simp] theorem takePopped_scrubs (s : State) (h : CmdHdr) : (takePopped s h).scrubs = s.scrubs := rfl
@[simp] theorem takePopped_marches (s : State) (h : CmdHdr) : (takePopped s h).marches = s.marches := rfl
@[simp] theorem takePopped_evqs (s : State) (h : CmdHdr) : (takePopped s h).evqs = s.evqs := rfl
@[simp] theorem takePopped_conflicts (s : State) (h : CmdHdr) : (takePopped s h).conflicts = s.conflicts := rfl
@[simp] theorem takePopped_memCorr (s : State) (h : CmdHdr) : (takePopped s h).memCorr = s.memCorr := rfl
@[simp] theorem takePopped_ddr (s : State) (h : CmdHdr) : (takePopped s h).ddr = s.ddr := rfl
@[simp] theorem takePopped_dma (s : State) (h : CmdHdr) : (takePopped s h).dma = s.dma := rfl
@[simp] theorem takePopped_dmaDie (s : State) (h : CmdHdr) : (takePopped s h).dmaDie = s.dmaDie := rfl
@[simp] theorem takePopped_tb (s : State) (h : CmdHdr) : (takePopped s h).tb = s.tb := rfl
@[simp] theorem takePopped_sync (s : State) (h : CmdHdr) : (takePopped s h).sync = s.sync := rfl
@[simp] theorem takePopped_encs (s : State) (h : CmdHdr) : (takePopped s h).encs = s.encs := rfl
@[simp] theorem takePopped_rows (s : State) (h : CmdHdr) : (takePopped s h).rows = s.rows := rfl
@[simp] theorem takePopped_heads (s : State) (h : CmdHdr) : (takePopped s h).heads = s.heads := rfl
@[simp] theorem takePopped_groups (s : State) (h : CmdHdr) : (takePopped s h).groups = s.groups := rfl
@[simp] theorem takePopped_links (s : State) (h : CmdHdr) : (takePopped s h).links = s.links := rfl
@[simp] theorem takePopped_lanes (s : State) (h : CmdHdr) : (takePopped s h).lanes = s.lanes := rfl
@[simp] theorem takePopped_eyes (s : State) (h : CmdHdr) : (takePopped s h).eyes = s.eyes := rfl
@[simp] theorem takePopped_fences (s : State) (h : CmdHdr) : (takePopped s h).fences = s.fences := rfl
@[simp] theorem takePopped_hcFences (s : State) (h : CmdHdr) : (takePopped s h).hcFences = s.hcFences := rfl
@[simp] theorem takePopped_job (s : State) (h : CmdHdr) : (takePopped s h).job = s.job := rfl
@[simp] theorem takePopped_sqs (s : State) (h : CmdHdr) : (takePopped s h).sqs = s.sqs := rfl
@[simp] theorem takePopped_cqs (s : State) (h : CmdHdr) : (takePopped s h).cqs = s.cqs := rfl
@[simp] theorem takePopped_cmdq (s : State) (h : CmdHdr) : (takePopped s h).cmdq = s.cmdq := rfl
@[simp] theorem takePopped_parked (s : State) (h : CmdHdr) : (takePopped s h).parked = s.parked := rfl
@[simp] theorem takePopped_mbox (s : State) (h : CmdHdr) : (takePopped s h).mbox = s.mbox := rfl
@[simp] theorem takePopped_smb (s : State) (h : CmdHdr) : (takePopped s h).smb = s.smb := rfl
@[simp] theorem takePopped_uartMb (s : State) (h : CmdHdr) : (takePopped s h).uartMb = s.uartMb := rfl
@[simp] theorem takePopped_apers (s : State) (h : CmdHdr) : (takePopped s h).apers = s.apers := rfl
@[simp] theorem takePopped_pcie (s : State) (h : CmdHdr) : (takePopped s h).pcie = s.pcie := rfl
@[simp] theorem takePopped_ports (s : State) (h : CmdHdr) : (takePopped s h).ports = s.ports := rfl
@[simp] theorem takePopped_lostRoutes (s : State) (h : CmdHdr) : (takePopped s h).lostRoutes = s.lostRoutes := rfl
@[simp] theorem takePopped_fabric (s : State) (h : CmdHdr) : (takePopped s h).fabric = s.fabric := rfl
@[simp] theorem takePopped_axes (s : State) (h : CmdHdr) : (takePopped s h).axes = s.axes := rfl
@[simp] theorem takePopped_svc (s : State) (h : CmdHdr) : (takePopped s h).svc = s.svc := rfl
@[simp] theorem takePopped_mgt (s : State) (h : CmdHdr) : (takePopped s h).mgt = s.mgt := rfl
@[simp] theorem takePopped_sense (s : State) (h : CmdHdr) : (takePopped s h).sense = s.sense := rfl
@[simp] theorem takePopped_log (s : State) (h : CmdHdr) : (takePopped s h).log = s.log := rfl
@[simp] theorem takePopped_cal (s : State) (h : CmdHdr) : (takePopped s h).cal = s.cal := rfl
@[simp] theorem takePopped_boot (s : State) (h : CmdHdr) : (takePopped s h).boot = s.boot := rfl
@[simp] theorem takePopped_die0Fault (s : State) (h : CmdHdr) : (takePopped s h).die0Fault = s.die0Fault := rfl
@[simp] theorem takePopped_startFailed (s : State) (h : CmdHdr) : (takePopped s h).startFailed = s.startFailed := rfl
@[simp] theorem takePopped_power (s : State) (h : CmdHdr) : (takePopped s h).power = s.power := rfl
@[simp] theorem takePopped_taps (s : State) (h : CmdHdr) : (takePopped s h).taps = s.taps := rfl

/-! ### Updates by a function -/

@[simp] theorem modClause_eq (s : State) (i : Nat) (f : Clause → Clause) : modClause s i f = setClause s i (f (clauseAt s i)) := rfl
@[simp] theorem modCell_eq (s : State) (i : Nat) (f : Cell → Cell) : modCell s i f = setCell s i (f (cellAt s i)) := rfl
@[simp] theorem modRow_eq (s : State) (i : Nat) (f : Row → Row) : modRow s i f = setRow s i (f (rowAt s i)) := rfl
@[simp] theorem modHead_eq (s : State) (i : Nat) (f : HeadCh → HeadCh) : modHead s i f = setHead s i (f (headAt s i)) := rfl
@[simp] theorem modEnc_eq (s : State) (i : Nat) (f : Encoder → Encoder) : modEnc s i f = setEnc s i (f (encAt s i)) := rfl
@[simp] theorem modLink_eq (s : State) (i : Nat) (f : Link → Link) : modLink s i f = setLink s i (f (linkAt s i)) := rfl
@[simp] theorem modLane_eq (s : State) (i : Nat) (f : Lane → Lane) : modLane s i f = setLane s i (f (laneAt s i)) := rfl
@[simp] theorem modDdr_eq (s : State) (i : Nat) (f : DdrCh → DdrCh) : modDdr s i f = setDdr s i (f (ddrAt s i)) := rfl
@[simp] theorem modDma_eq (s : State) (i : Nat) (f : DmaCh → DmaCh) : modDma s i f = setDma s i (f (dmaAt s i)) := rfl
@[simp] theorem modScrub_eq (s : State) (i : Nat) (f : Scrub → Scrub) : modScrub s i f = setScrub s i (f (scrubAt s i)) := rfl
@[simp] theorem modMarch_eq (s : State) (i : Nat) (f : March → March) : modMarch s i f = setMarch s i (f (marchAt s i)) := rfl
@[simp] theorem modComp_eq (s : State) (i : Nat) (f : Compressor → Compressor) : modComp s i f = setComp s i (f (compAt s i)) := rfl
@[simp] theorem modPort_eq (s : State) (i : Nat) (f : Port → Port) : modPort s i f = setPort s i (f (portAt s i)) := rfl
@[simp] theorem modAxis_eq (s : State) (i : Nat) (f : Axis → Axis) : modAxis s i f = setAxis s i (f (axisAt s i)) := rfl
@[simp] theorem modSvc_eq (s : State) (i : Nat) (f : Group → Group) : modSvc s i f = setSvc s i (f (svcAt s i)) := rfl
@[simp] theorem modMgt_eq (s : State) (i : Nat) (f : Mgt → Mgt) : modMgt s i f = setMgt s i (f (mgtAt s i)) := rfl
@[simp] theorem modSq_eq (s : State) (i : Nat) (f : Sq → Sq) : modSq s i f = setSq s i (f (sqAt s i)) := rfl
@[simp] theorem modCq_eq (s : State) (i : Nat) (f : Cq → Cq) : modCq s i f = setCq s i (f (cqAt s i)) := rfl

end Sys2Proof.Machine
end

