-- ==== Sys2Proof/Laws/Ops.lean ====
section
/-! SUPPORT. What the shared operations do: tables, byte memories, the common command checks, completions and host accesses. -/

namespace Sys2Proof.Machine

/-! ### Sparse tables -/

theorem sget_sins_same {α : Type} (d : α) (m : Sparse α) (i : Nat) (v : α) : sget d (sins m i v) i = v := by
  induction m with
  | nil => simp [sins, sget]
  | cons p m ih =>
    obtain ⟨k, x⟩ := p
    simp only [sins]
    split
    · simp [sget]
    · split
      · simp [sget]
      · rename_i h
        simp [sget, h, ih]

theorem sget_sins_other {α : Type} (d : α) (m : Sparse α) (i j : Nat) (v : α) (h : j ≠ i) :
    sget d (sins m i v) j = sget d m j := by
  induction m with
  | nil => simp [sins, sget, h.symm]
  | cons p m ih =>
    obtain ⟨k, x⟩ := p
    simp only [sins]
    split
    · simp [sget, h.symm]
    · split
      · rename_i hk
        subst hk
        simp [sget, h.symm]
      · simp only [sget, ih]

theorem sget_filter_same {α : Type} (d : α) (m : Sparse α) (i : Nat) : sget d (m.filter (fun p => p.1 ≠ i)) i = d := by
  induction m with
  | nil => rfl
  | cons p m ih =>
    obtain ⟨k, x⟩ := p
    by_cases h : k = i
    · simpa [h] using ih
    · simpa [h, sget] using ih

theorem sget_filter_other {α : Type} (d : α) (m : Sparse α) (i j : Nat) (h : j ≠ i) :
    sget d (m.filter (fun p => p.1 ≠ i)) j = sget d m j := by
  induction m with
  | nil => rfl
  | cons p m ih =>
    obtain ⟨k, x⟩ := p
    by_cases hk : k = i
    · have : k ≠ j := fun e => h (by omega)
      simpa [hk, sget, this, h.symm] using ih
    · by_cases hj : k = j
      · simp [hj, sget, h]
      · simpa [hk, sget, hj] using ih

/-- Reading the number just written gives what was written. -/
@[simp] theorem sget_sput_same {α : Type} [DecidableEq α] (d : α) (m : Sparse α) (i : Nat) (v : α) : sget d (sput d m i v) i = v := by
  unfold sput
  split
  · rename_i h
    rw [sget_filter_same, h]
  · exact sget_sins_same d m i v

/-- Reading another number gives what it held. -/
theorem sget_sput_other {α : Type} [DecidableEq α] (d : α) (m : Sparse α) (i j : Nat) (v : α) (h : j ≠ i) :
    sget d (sput d m i v) j = sget d m j := by
  unfold sput
  split
  · exact sget_filter_other d m i j h
  · exact sget_sins_other d m i j v h

/-- Both at once. -/
theorem sget_sput {α : Type} [DecidableEq α] (d : α) (m : Sparse α) (i j : Nat) (v : α) :
    sget d (sput d m i v) j = if j = i then v else sget d m j := by
  split
  · rename_i h
    rw [h, sget_sput_same]
  · rename_i h
    exact sget_sput_other d m i j v h

/-- Every number of a canonical table lies above its first. -/
theorem swf_above {α : Type} [DecidableEq α] (d : α) (k : Nat) (v : α) (m : Sparse α) (h : swf d ((k, v) :: m) = true) :
    ∀ p ∈ m, k < p.1 := by
  induction m generalizing k v with
  | nil => simp
  | cons q m ih =>
    obtain ⟨k', v'⟩ := q
    simp only [swf, Bool.and_eq_true, decide_eq_true_eq] at h
    intro p hp
    rcases List.mem_cons.mp hp with rfl | hp
    · exact h.1.2
    · exact lt_trans h.1.2 (ih k' v' h.2 p hp)

theorem swf_tail {α : Type} [DecidableEq α] (d : α) (p : Nat × α) (m : Sparse α) (h : swf d (p :: m) = true) : swf d m = true := by
  cases m with
  | nil => rfl
  | cons q m =>
    obtain ⟨k, v⟩ := p
    obtain ⟨k', v'⟩ := q
    simp only [swf, Bool.and_eq_true] at h
    exact h.2

theorem swf_head {α : Type} [DecidableEq α] (d : α) (k : Nat) (v : α) (m : Sparse α) (h : swf d ((k, v) :: m) = true) : v ≠ d := by
  cases m with
  | nil => simpa [swf] using h
  | cons q m =>
    obtain ⟨k', v'⟩ := q
    simp only [swf, Bool.and_eq_true, decide_eq_true_eq, ne_eq] at h
    exact h.1.1

/-- A canonical table from a head and a canonical rest. -/
theorem swf_cons {α : Type} [DecidableEq α] (d : α) (k : Nat) (v : α) (m : Sparse α) (hv : v ≠ d) (ha : ∀ p ∈ m, k < p.1)
    (hm : swf d m = true) : swf d ((k, v) :: m) = true := by
  cases m with
  | nil => simp [swf, hv]
  | cons q m =>
    obtain ⟨k', v'⟩ := q
    simp only [swf, Bool.and_eq_true, decide_eq_true_eq, ne_eq]
    exact ⟨⟨hv, ha (k', v') (by simp)⟩, hm⟩

theorem mem_sins {α : Type} (m : Sparse α) (i : Nat) (v : α) (p : Nat × α) (h : p ∈ sins m i v) : p = (i, v) ∨ p ∈ m := by
  induction m with
  | nil => simpa [sins] using h
  | cons q m ih =>
    obtain ⟨k, x⟩ := q
    simp only [sins] at h
    split at h
    · simpa using h
    · split at h
      · rcases List.mem_cons.mp h with h | h
        · exact .inl h
        · exact .inr (by simp [h])
      · rcases List.mem_cons.mp h with h | h
        · exact .inr (by simp [h])
        · rcases ih h with h | h
          · exact .inl h
          · exact .inr (by simp [h])

theorem swf_sins {α : Type} [DecidableEq α] (d : α) (m : Sparse α) (i : Nat) (v : α) (hv : v ≠ d) (hm : swf d m = true) :
    swf d (sins m i v) = true := by
  induction m with
  | nil => simp [sins, swf, hv]
  | cons q m ih =>
    obtain ⟨k, x⟩ := q
    have ha := swf_above d k x m hm
    have hx := swf_head d k x m hm
    have ht := swf_tail d _ m hm
    simp only [sins]
    split
    · rename_i h
      refine swf_cons d i v _ hv ?_ hm
      intro p hp
      rcases List.mem_cons.mp hp with rfl | hp
      · exact h
      · exact lt_trans h (ha p hp)
    · split
      · rename_i h
        subst h
        exact swf_cons d k v m hv ha ht
      · rename_i h1 h2
        refine swf_cons d k x _ hx ?_ (ih ht)
        intro p hp
        rcases mem_sins m i v p hp with rfl | hp
        · simp only
          omega
        · exact ha p hp

/-- Dropping entries keeps a table canonical. -/
theorem swf_filter {α : Type} [DecidableEq α] (d : α) (f : Nat × α → Bool) (m : Sparse α) (hm : swf d m = true) :
    swf d (m.filter f) = true := by
  induction m with
  | nil => rfl
  | cons q m ih =>
    obtain ⟨k, x⟩ := q
    have ht := swf_tail d _ m hm
    by_cases h : f (k, x) = true
    · simp only [List.filter_cons, h, if_true]
      exact swf_cons d k x _ (swf_head d k x m hm) (fun p hp => swf_above d k x m hm p (List.mem_filter.mp hp).1) (ih ht)
    · simp only [List.filter_cons, h]
      exact ih ht

/-- A write keeps a table canonical. -/
theorem swf_sput {α : Type} [DecidableEq α] (d : α) (m : Sparse α) (i : Nat) (v : α) (hm : swf d m = true) :
    swf d (sput d m i v) = true := by
  unfold sput
  split
  · exact swf_filter d _ m hm
  · rename_i h
    exact swf_sins d m i v h hm

/-! ### Byte memories -/

/-- The byte just written reads back; every other byte reads as before. -/
theorem rd_wr (m : Mem) (a x : Nat) (b : Byte) : rd (wr m a b) x = if x = a then b else rd m x := sget_sput 0 m a x b

/-- Bytes written read back; every other byte reads as before. -/
theorem rd_wrN (m : Mem) (a x : Nat) (bs : List Byte) :
    rd (wrN m a bs) x = if a ≤ x ∧ x < a + bs.length then bs.getD (x - a) 0 else rd m x := by
  induction bs generalizing m a with
  | nil =>
    have : ¬(a ≤ x ∧ x < a + ([] : List Byte).length) := by simp
    simp only [wrN, this, if_false]
  | cons b bs ih =>
    simp only [wrN, ih, rd_wr, List.length_cons]
    by_cases h : x = a
    · subst h
      simp
    · by_cases h3 : a ≤ x ∧ x < a + (bs.length + 1)
      · have h1 : a + 1 ≤ x ∧ x < a + 1 + bs.length := by omega
        have h2 : x - a = (x - (a + 1)) + 1 := by omega
        simp only [h1, h3, and_self, if_true, h2, List.getD_cons_succ]
      · have h1 : ¬(a + 1 ≤ x ∧ x < a + 1 + bs.length) := by omega
        simp only [h1, h3, if_false, h]

theorem rdFlash_sput (m : Mem) (a x : Nat) (b : Byte) : rdFlash (sput 0xFF m a b) x = if x = a then b else rdFlash m x :=
  sget_sput 0xFF m a x b

/-- Bytes written to flash read back; every other byte reads as before. -/
theorem rdFlash_wrFlashN (m : Mem) (a x : Nat) (bs : List Byte) :
    rdFlash (wrFlashN m a bs) x = if a ≤ x ∧ x < a + bs.length then bs.getD (x - a) 0 else rdFlash m x := by
  induction bs generalizing m a with
  | nil =>
    have : ¬(a ≤ x ∧ x < a + ([] : List Byte).length) := by simp
    simp only [wrFlashN, this, if_false]
  | cons b bs ih =>
    simp only [wrFlashN, ih, rdFlash_sput, List.length_cons]
    by_cases h : x = a
    · subst h
      simp
    · by_cases h3 : a ≤ x ∧ x < a + (bs.length + 1)
      · have h1 : a + 1 ≤ x ∧ x < a + 1 + bs.length := by omega
        have h2 : x - a = (x - (a + 1)) + 1 := by omega
        simp only [h1, h3, and_self, if_true, h2, List.getD_cons_succ]
      · have h1 : ¬(a + 1 ≤ x ∧ x < a + 1 + bs.length) := by omega
        simp only [h1, h3, if_false, h]

/-- A string written to flash reads back whole. -/
theorem rdFlashN_wrFlashN (m : Mem) (a : Nat) (bs : List Byte) : rdFlashN (wrFlashN m a bs) a bs.length = bs := by
  induction bs generalizing m a with
  | nil => rfl
  | cons b bs ih =>
    have h := rdFlash_wrFlashN m a a (b :: bs)
    simp only [wrFlashN, List.length_cons, rdFlashN] at h ⊢
    rw [h, ih]
    simp

/-- A string written elsewhere leaves what stands below it. -/
theorem rdFlashN_below (m : Mem) (a b n : Nat) (bs : List Byte) (h : b + n ≤ a) : rdFlashN (wrFlashN m a bs) b n = rdFlashN m b n := by
  induction n generalizing b with
  | zero => rfl
  | succ n ih =>
    have hn : ¬(a ≤ b ∧ b < a + bs.length) := by omega
    simp only [rdFlashN, rdFlash_wrFlashN, hn, if_false]
    rw [ih (b + 1) (by omega)]

theorem wr_wf (m : Mem) (a : Nat) (b : Byte) (h : m.wf = true) : (wr m a b).wf = true := swf_sput 0 m a b h

theorem wrN_wf (m : Mem) (a : Nat) (bs : List Byte) (h : m.wf = true) : (wrN m a bs).wf = true := by
  induction bs generalizing m a with
  | nil => exact h
  | cons b bs ih => exact ih (wr m a b) (a + 1) (wr_wf m a b h)

theorem filter_wf (f : Nat × Byte → Bool) (m : Mem) (h : m.wf = true) : Mem.wf (m.filter f) = true := swf_filter 0 f m h

theorem wrFlashN_wf (m : Mem) (a : Nat) (bs : List Byte) (h : swf (0xFF : Byte) m = true) : swf (0xFF : Byte) (wrFlashN m a bs) = true := by
  induction bs generalizing m a with
  | nil => exact h
  | cons b bs ih => exact ih _ (a + 1) (swf_sput 0xFF m a b h)

/-! ### Records of State -/

@[simp] theorem clauseAt_setClause (s : State) (x : Nat) (c : Clause) : clauseAt (setClause s x c) x = c := by simp [clauseAt, setClause]
@[simp] theorem cellAt_setCell (s : State) (x : Nat) (c : Cell) : cellAt (setCell s x c) x = c := by simp [cellAt, setCell]
@[simp] theorem rowAt_setRow (s : State) (x : Nat) (c : Row) : rowAt (setRow s x c) x = c := by simp [rowAt, setRow]
@[simp] theorem headAt_setHead (s : State) (x : Nat) (c : HeadCh) : headAt (setHead s x c) x = c := by simp [headAt, setHead]
@[simp] theorem encAt_setEnc (s : State) (x : Nat) (c : Encoder) : encAt (setEnc s x c) x = c := by simp [encAt, setEnc]
@[simp] theorem linkAt_setLink (s : State) (x : Nat) (c : Link) : linkAt (setLink s x c) x = c := by simp [linkAt, setLink]
@[simp] theorem laneAt_setLane (s : State) (x : Nat) (c : Lane) : laneAt (setLane s x c) x = c := by simp [laneAt, setLane]
@[simp] theorem eyeAt_setEye (s : State) (x : Nat) (c : Eye) : eyeAt (setEye s x c) x = c := by simp [eyeAt, setEye]
@[simp] theorem ddrAt_setDdr (s : State) (x : Nat) (c : DdrCh) : ddrAt (setDdr s x c) x = c := by simp [ddrAt, setDdr]
@[simp] theorem dmaAt_setDma (s : State) (x : Nat) (c : DmaCh) : dmaAt (setDma s x c) x = c := by simp [dmaAt, setDma]
@[simp] theorem dmaDieAt_setDmaDie (s : State) (x : Nat) (c : DmaDie) : dmaDieAt (setDmaDie s x c) x = c := by simp [dmaDieAt, setDmaDie]
@[simp] theorem scrubAt_setScrub (s : State) (x : Nat) (c : Scrub) : scrubAt (setScrub s x c) x = c := by simp [scrubAt, setScrub]
@[simp] theorem marchAt_setMarch (s : State) (x : Nat) (c : March) : marchAt (setMarch s x c) x = c := by simp [marchAt, setMarch]
@[simp] theorem evqAt_setEvq (s : State) (x : Nat) (c : EvQueue) : evqAt (setEvq s x c) x = c := by simp [evqAt, setEvq]
@[simp] theorem compAt_setComp (s : State) (x : Nat) (c : Compressor) : compAt (setComp s x c) x = c := by simp [compAt, setComp]
@[simp] theorem portAt_setPort (s : State) (x : Nat) (c : Port) : portAt (setPort s x c) x = c := by simp [portAt, setPort]
@[simp] theorem axisAt_setAxis (s : State) (x : Nat) (c : Axis) : axisAt (setAxis s x c) x = c := by simp [axisAt, setAxis]
@[simp] theorem svcAt_setSvc (s : State) (x : Nat) (c : Group) : svcAt (setSvc s x c) x = c := by simp [svcAt, setSvc]
@[simp] theorem mgtAt_setMgt (s : State) (x : Nat) (c : Mgt) : mgtAt (setMgt s x c) x = c := by simp [mgtAt, setMgt]
@[simp] theorem sqAt_setSq (s : State) (x : Nat) (c : Sq) : sqAt (setSq s x c) x = c := by simp [sqAt, setSq]
@[simp] theorem cqAt_setCq (s : State) (x : Nat) (c : Cq) : cqAt (setCq s x c) x = c := by simp [cqAt, setCq]
@[simp] theorem tapAt_setTap (s : State) (x : Nat) (c : TapCtl) : tapAt (setTap s x c) x = c := by simp [tapAt, setTap]

/-! ### Commands -/

/-- What a command can do: nothing while the firmware does not run; end with the first check that fails; or its own work. -/
theorem command_cases (s : State) (h : CmdHdr) (c : CmdSpec) (f i : Bool) (body : State → State) :
    (fwRuns s = false ∧ command s h c f i body = s) ∨
    (∃ st, fwRuns s = true ∧ command s h c f i body = complete (takePopped s h) h c.opcode st []) ∨
    (fwRuns s = true ∧ cmdGate (takePopped s h) h c f i = none ∧ command s h c f i body = body (takePopped s h)) := by
  unfold command
  by_cases hf : fwRuns s = true
  · simp only [hf, Bool.not_true]
    cases hg : cmdGate (takePopped s h) h c f i with
    | some st => exact .inr (.inl ⟨st, by simp⟩)
    | none =>
      by_cases hp : (c.long && decide (64 ≤ (takePopped s h).parked.length)) = true
      · exact .inr (.inl ⟨stBusy, by simp_all⟩)
      · exact .inr (.inr (by simp_all))
  · exact .inl (by simp_all)

/-- A command that passes every check does its own work. -/
theorem command_runs (s : State) (h : CmdHdr) (c : CmdSpec) (f i : Bool) (body : State → State) (hf : fwRuns s = true)
    (hg : cmdGate (takePopped s h) h c f i = none) (hp : c.long = true → s.parked.length < 64) :
    command s h c f i body = body (takePopped s h) := by
  unfold command
  cases hl : c.long
  · simp [hf, hg]
  · have := hp hl
    have h64 : ¬ 64 ≤ s.parked.length := by omega
    simp [hf, hg, h64]

/-! ### Host accesses -/

/-- A register access that reaches its die has its effect. -/
theorem hostReg_reached (s : State) (d : Nat) (f : State → State) (hu : hostUp s = true) (hd : dieReach s d = true) : hostReg s d f = f s := by
  simp [hostReg, hu, hd]

/-- One that does not reach it has none. -/
theorem hostReg_lost (s : State) (d : Nat) (f : State → State) (h : ¬(hostUp s = true ∧ dieReach s d = true)) : hostReg s d f = s := by
  unfold hostReg
  split
  · rename_i h'
    exact absurd (by simpa using h') h
  · rfl

end Sys2Proof.Machine
end

