-- ==== Sys2Proof/Tests/Slice0.lean ====
section
/-! SUPPORT. Tests: an ill-formed command for each well-formedness check, the specification's worked examples, and, for every obligation with
hypotheses, witnesses: concrete states and operands that meet the hypotheses of each of its clauses together. -/

set_option Elab.async false
set_option maxRecDepth 100000

open Sys2Proof Sys2Proof.Machine Sys2Proof.Claims

namespace Sys2Proof.Tests

/-- Witness states: the part up, in Ready, with the link up, a Dialect in force and rings 0 and 1 open. -/
def wUp : State := { State.reset with
  mgt := [(0, { stage := 8 })], tb := 1000, dia := { valid := true, gstate := .active }, power := { st := .ready, target := .ready },
  pcie := { perst := false, linkUp := true, retry := false }, sqs := [(0, { enable := true }), (1, { enable := true, outstanding := 1 })],
  cqs := [(0, { enable := true }), (1, { enable := true, owed := 1 })] }

/-- A job that prints. -/
def wJob : Job :=
  { id := 7, pages := [5], bands := [2], startEnc := 0, startIndex := false, gutter := 64, rounds := 1, noOverlay := 0, rows := [0], encs := [0],
    st := .running }

/-- A command of ring 1, of a mailbox. -/
def h1 : CmdHdr := ⟨.ring 1, 9, 0⟩
def hm : CmdHdr := ⟨.mailbox, 9, 0⟩

/-- A Grammar with one row of drop codes, overlaid or not, one strip on die 0. -/
def wGram (overlay : Bool) : Grammar :=
  { rows := [{ row := 0, mode := 0, strips := 1, overlay := overlay }], slots := [⟨0, 0, 0, 0⟩] }

/-- Page 5 of two bands in row 0. -/
def wPage : State := { wUp with gram := wGram false, pages := [⟨5, 2, 1⟩], dma := [(0, { use := 2 }), (1, { use := 4 })] }

/-- A small compressed block of page 5, band `band`, of kind 1 with payload `p`. -/
def wBlk (band : Nat) (p : List Byte) : Block :=
  { die := 0, id := ⟨5, 0, 0, 0, band⟩, kind := 1, raw := false, sig := false, payloadLen := p.length, rawCrc := 0, storedCrc := crc32c p,
    maskCrc := 0, blockLen := 64 + pad64 p.length, addr := 0 }

/-- Its bytes. -/
def wBytes (band : Nat) (p : List Byte) : List Byte := (wBlk band p).header ++ (p ++ List.replicate (pad64 p.length - p.length) 0)

/-- A row-timing record of row 0: one line a count. -/
def wTiming : ParamRec := { typ := 0x0203, target := 0, payload := natLE 8 (2 ^ 32) ++ List.replicate 16 0 }

/-- An axes record: two speed profiles, homing by switch; and one whose reference is a hard stop. -/
def wAxisPay (stop : Byte) : List Byte :=
  [stop, 0, 10, 5] ++ natLE 2 100 ++ natLE 2 10 ++ natLE 4 65536 ++ natLE 2 256 ++ natLE 2 10 ++ intLE 4 (-100000) ++ natLE 4 100000 ++
  (natLE 2 100 ++ natLE 2 100 ++ natLE 2 100 ++ natLE 2 100) ++ natLE 2 1000 ++ natLE 2 200 ++ natLE 4 512 ++ natLE 4 4096 ++ natLE 4 256 ++
  [10, 2, 1, 0] ++ (natLE 4 1000 ++ natLE 4 10000 ++ natLE 4 100000) ++ (natLE 4 2000 ++ natLE 4 20000 ++ natLE 4 200000)
def wAxisRec (a : Nat) (stop : Byte) : ParamRec := { typ := 0x0401, target := BitVec.ofNat 32 a, payload := wAxisPay stop }

/-- A services record of group 0: lift 0, cap 1, wiper 2, pump 3, head channel 0. -/
def wSvcRec : ParamRec :=
  { typ := 0x0402, target := 0, payload :=
      [0, 1, 2, 3, 1, 0, 5, 1] ++ natLE 4 0 ++ natLE 4 1000 ++ natLE 4 1100 ++ natLE 4 1200 ++ natLE 4 0 ++ natLE 4 500 ++ natLE 4 0 ++ natLE 4 900 ++
      [0, 0, 0, 1, 0, 0, 0, 0] ++ natLE 2 4 ++ natLE 2 1000 ++ natLE 4 512 ++ natLE 2 10 ++ [0, 0] ++ natLE 2 0 }

/-- Four configured axes, all referenced and at hold, with the service group. -/
def wAxes : State :=
  let x : Axis := { st := .hold, referenced := true, group := none }
  { wUp with params := [wAxisRec 0 0, wAxisRec 1 0, wAxisRec 2 0, wAxisRec 3 0, wSvcRec], axes := [(0, x), (1, x), (2, x), (3, x)] }

/-- A link record: link 0 of die 0 with lane 0 and head channel 0. -/
def wLinkRec : ParamRec := { typ := 0x0301, target := 0, payload := [1, 0, 1, 0] ++ natLE 2 1000 ++ [0, 0] ++ [0, 0, 0, 0] }

/-- The part while that job is open. -/
def wJobS : State := { wUp with job := some wJob, power := { wUp.power with st := .printing } }

/-- A nozzle table of head channel 0: row 0, five nozzles of die 0, slot 0. -/
def wNoz : ParamRec :=
  { typ := 0x0201, target := 0, payload := [0, 0, 5, 0, 10, 0, 0, 0] ++ (List.range 5).flatMap (fun i => natLE 4 i) }

/-- Head channel 0 with one head line to gather. -/
def hc0 : HeadCh := { lines := [{ line := 3, total := 5 }] }

/-- A part of two dies whose key slot 0 holds the key of order one. -/
def wTwo : State := { wUp with part := { dies := 2 }, fuses := { keys := [(0, edZeroBytes)] } }

/-- A section of a Grammar image: its type, its payload and the CRC of that. -/
def wSect (t : Nat) (crc p : List Byte) : List Byte := natLE 2 t ++ ([0, 0] ++ (natLE 4 p.length ++ ([0, 0, 0, 0] ++ (crc ++ p))))

/-- A Grammar image of two dies with no row: six sections, and the signature of order one. -/
def wImg : List Byte :=
  [71, 82, 77, 82, 1, 0, 64, 0, 24, 3, 0, 0, 6, 0, 2, 0] ++ (List.replicate 44 0 ++ ([200, 177, 148, 186] ++
  (wSect 1 [14, 39, 67, 74] [63, 7, 0, 0, 63, 5, 0, 0] ++ (wSect 2 [0, 0, 0, 0] [] ++
  (wSect 3 [139, 159, 200, 52] (List.replicate 128 ([0xFF, 0, 0xFF, 0xFF] : List Byte)).flatten ++
  (wSect 5 [72, 27, 25, 225] [0, 1, 2, 0, 0, 1, 0xFF, 0xFF, 0xFF, 0xFF, 0xFF, 0xFF] ++ (wSect 7 [0, 0, 0, 0] [] ++
  (wSect 8 [102, 67, 103, 218] ([0, 0, 1, 0] ++ List.replicate 24 0) ++
  ([207, 197, 184, 208, 0, 0, 0, 0] ++ (edZeroBytes ++ List.replicate 32 0))))))))))

/-- The header of a Dialect with that image and no parameter record. -/
def wHdr : List Byte :=
  [68, 76, 67, 84, 1, 0, 0, 0, 0, 16, 0, 0, 24, 3, 0, 0, 0, 32, 0, 0] ++ (List.replicate 232 0 ++ [182, 97, 246, 135])

/-- The part with that Dialect in slot 0, while it is loaded. -/
def wSlot : State := { wTwo with flash := wrFlashN (wrFlashN [] 0x1000000 wHdr) 0x1001000 wImg, load := some { slot := 0, cmd := none } }
/-! ### Ill-formed commands, one for each check -/

theorem test_wf_die : (Instr.cmpStart 8).wf = false := by decide
theorem test_wf_clause : (Instr.windowWrite 0 66).wf = false := by decide
theorem test_wf_cell : (Instr.lineDispatch ⟨0, 0, 16⟩).wf = false := by decide
theorem test_wf_source : (Instr.nop ⟨.ring 4, 0, 0⟩).wf = false := by decide
theorem test_wf_length : (Instr.smbSubmit [] none).wf = false := by decide
theorem test_wf_pages : (Instr.jobOpen h1 ⟨1, 1, 0, 0, 1, 0, []⟩).wf = false := by decide
theorem test_wf_block : (Instr.scrubRead 0 [(⟨.tcm, 0, 16384⟩, 1)] false).wf = false := by decide
theorem test_wf_defect : (Instr.marchDone 0 [⟨⟨.bank, 8, 0⟩, none, 1, 1⟩]).wf = false := by decide
theorem test_wf_master : (Instr.rowRepairDone 0 ⟨.bank, 0, 0⟩ [69]).wf = false := by decide
theorem test_wf_queue : (Instr.queuePop (.halo 0 66 true) none []).wf = false := by decide
theorem test_wf_queue_item : (Instr.queuePush (.event 0) (.bytes [1])).wf = false ∧ (Instr.queuePop (.trace 0) (some (.word 0)) []).wf = false := by decide
theorem test_wf_request : (Instr.dramRequest 0 [⟨0, .cache, 511, 2, false, []⟩]).wf = false := by decide
theorem test_wf_upset : (Instr.ddrScrubRead 0 0 [⟨65, 1, 0⟩] []).wf = false := by decide
theorem test_wf_helper : (Instr.trainHelperDone 0 0 [⟨16, 0, 0⟩] []).wf = false ∧ (Instr.trainHelperDone 0 0 [] [⟨0, 1024, 0⟩]).wf = false := by decide
theorem test_wf_access : (Instr.bankRequestComplete ⟨0, 0, 0⟩ [] [.read 65 0 8]).wf = false ∧ (Instr.bankRequestComplete ⟨0, 0, 0⟩ [] [.atomic 1 false 0]).wf = false := by decide
theorem test_wf_frame : (Instr.telemetryReceive 0 0 ⟨List.replicate 8 0, [1], List.replicate 8 0, []⟩).wf = false := by decide
theorem test_wf_groups : (Instr.fabricPacketReceive 0 0 [([1], 0)] .access).wf = false := by decide
theorem test_wf_config : (Instr.configRequest (.read 1024)).wf = false ∧ (Instr.configRequest (.tableRead 2)).wf = false := by decide
theorem test_wf_lanes : (Instr.lockLoss 0 0 [{ lane := 8 }] false).wf = false := by decide
theorem test_wf_payload : (Instr.calSliceDone 0 (List.replicate 257 0)).wf = false := by decide +kernel
theorem test_wf_beat : (Instr.heartbeatSend 0 [16384]).wf = false := by decide
theorem test_wf_stage : (Instr.startupStageDone { failed := [(8, 0)], defects := [] }).wf = false := by decide
theorem test_wf_good : (Instr.nop h1).wf = true ∧ (Instr.dramRequest 0 [⟨0, .cache, 510, 2, false, []⟩]).wf = true := by decide

/-! ### The worked examples of the band codec: Job 4471's overlay, Λ 2,048 (R102) -/

theorem test_token_fill_long : tokRead [0xCF, 0xFF, 0] (fun _ => false) 3 2048 0 0 = .tok (.value 0) 2048 3 := by decide
theorem test_token_above_long : tokRead [0xD7, 0xFF] (fun _ => false) 2 2048 0 2048 = .tok (.copy 2048) 2048 2 := by decide
theorem test_token_above_400 : tokRead [0xD1, 0x8F] (fun _ => false) 2 2048 0 65536 = .tok (.copy 2048) 400 2 := by decide
theorem test_token_literal : tokRead [0x0F] (fun _ => false) 17 2048 0 65936 = .tok .literal 16 1 := by decide
theorem test_token_match : tokRead [0xBF, 0x0F, 0xE0] (fun _ => false) 3 2048 0 65952 = .tok (.copy 16) 514 3 := by decide
theorem test_token_short_match : tokRead [0x99, 0x0F, 0x60] (fun _ => false) 3 2048 0 66980 = .tok (.copy 16) 220 3 := by decide
theorem test_token_above_384 : tokRead [0xD1, 0x7F] (fun _ => false) 2 2048 0 67200 = .tok (.copy 2048) 384 2 := by decide
theorem test_token_crosses_line : tokRead [0xD1, 0x80] (fun _ => false) 2 2048 0 67200 = .bad 2 := by decide

/-- The row-timing record of the worked example (07, row 4 of E1). -/
theorem test_row_timing :
    (rowTimingOf [0xE4, 0xF1, 0x78, 0x3C, 0, 0, 0, 0, 0x10, 0x3B, 0, 0, 0, 0, 0, 0, 0x10, 0, 0, 0, 0, 0, 0, 0]).ratio = 0x3C78F1E4 ∧
    (rowTimingOf [0xE4, 0xF1, 0x78, 0x3C, 0, 0, 0, 0, 0x10, 0x3B, 0, 0, 0, 0, 0, 0, 0x10, 0, 0, 0, 0, 0, 0, 0]).ow = 15120 ∧
    (rowTimingOf [0xE4, 0xF1, 0x78, 0x3C, 0, 0, 0, 0, 0x10, 0x3B, 0, 0, 0, 0, 0, 0, 0x10, 0, 0, 0, 0, 0, 0, 0]).ovsLimit = 16 := by decide

/-- No word spells a command: the table gives no row bits. -/
theorem test_no_word (n w : Nat) : decodeTableWord n w = none := rfl

/-- A string read from flash is the start of a longer one read from there. -/
theorem rdFlashN_take (m : Mem) (n : Nat) : ∀ a k, n ≤ k → rdFlashN m a n = (rdFlashN m a k).take n := by
  induction n with
  | zero => intro a k _; rw [List.take_zero]; rfl
  | succ n ih =>
    intro a k h
    cases k with
    | zero => omega
    | succ k => simp only [rdFlashN, List.take_succ_cons]; rw [ih (a + 1) k (by omega)]

theorem wSlot_flash : wSlot.flash = wrFlashN (wrFlashN [] 0x1000000 wHdr) 0x1001000 wImg := rfl

theorem wHdr_length : wHdr.length = 256 := by decide +kernel

theorem wImg_length : wImg.length = 792 := by decide +kernel

theorem wSlot_hdr : rdFlashN wSlot.flash 0x1000000 256 = wHdr := by
  have h := rdFlashN_wrFlashN [] 0x1000000 wHdr
  rw [wHdr_length] at h
  rw [wSlot_flash, rdFlashN_below _ _ _ _ _ (by decide), h]

theorem wSlot_img : rdFlashN wSlot.flash 0x1001000 792 = wImg := by
  have h := rdFlashN_wrFlashN (wrFlashN [] 0x1000000 wHdr) 0x1001000 wImg
  rw [wImg_length] at h
  rw [wSlot_flash, h]

theorem wSlot_head : rdFlashN wSlot.flash 0x1001000 64 = wImg.take 64 := by rw [rdFlashN_take _ 64 _ 792 (by decide), wSlot_img]

theorem wSlot_read : readSlot wSlot 0 = ⟨wHdr, wImg, []⟩ := by
  have hb : slotBase 0 = 0x1000000 := by decide
  have ha : (0x1000000 : Nat) + 0x1000 = 0x1001000 := by decide
  have h1 : leAt wHdr 0x0C 4 = 792 := by decide +kernel
  have h2 : leAt wHdr 0x14 4 = 0 := by decide +kernel
  have hm : (if 792 ≤ 2097152 then max 792 64 else 64) = 792 := by decide
  have hz : ∀ a, rdFlashN wSlot.flash a 0 = [] := fun _ => rfl
  have ht : (if leAt wHdr 16 4 ≤ 8388608 then 0 else 0) = 0 := by split <;> rfl
  simp only [readSlot, hb, ha, wSlot_hdr, h1, h2, hm, wSlot_img, Nat.add_zero, ht, hz]

theorem wSlot_signed : sigOk (keyOf wSlot (leAt wImg 0x0F 1)) (slice wImg 0 (leAt wImg 8 4 - 64)) (slice wImg (leAt wImg 8 4 - 64) 64) = true := by
  have hk : keyOf wSlot (leAt wImg 0x0F 1) = edZeroBytes := by decide +kernel
  have hs : slice wImg (leAt wImg 8 4 - 64) 64 = edZeroBytes ++ List.replicate 32 0 := by decide +kernel
  rw [hk, hs]
  exact sigOk_zero _

/-- The Dialect passes every check of R60. -/
theorem wSlot_passes : dialectFail wSlot (readSlot wSlot 0) = none := by
  rw [wSlot_read]
  simp only [dialectFail, imageFail, wSlot_signed]
  decide +kernel

namespace W01

def wKey : State := { wUp with fuses := { programmed := 3, keys := [(1, 1 :: List.replicate 31 0)] } }
/-- An authorisation record signed by slot 1, whose key is the group's identity: R the identity, S zero. -/
def authRec (op slot value : Byte) (key : List Byte) : List Byte :=
  [0x4B, 0x4F, 0x50, 0x52, op, slot, 1, value] ++ List.replicate 8 0 ++ key ++ List.replicate 16 0 ++ (1 :: List.replicate 31 0) ++ List.replicate 32 0
def r1 := authRec 1 2 0 (List.replicate 32 7)
def r2 := authRec 2 1 0 (List.replicate 32 0)
def r3 := authRec 3 0 5 (List.replicate 32 0)
def row0 : CmdRow := ⟨h1, { opcode := 0 }, false, false⟩

def wSingle : State := { wUp with params := [wLinkRec], links := [(0, { singles := [⟨true, 0⟩] })] }
def wStepRunsFrontCommand_0 : List Instr := [.mbAck]
def wStepRunsFrontCommand_1 : State := { wUp with pending := [.nop h1, .mbAck] }
def wCommandChecksInOrder_2 : Instr := .nop { h1 with reserved := 1 }
def wCommandChecksInOrder_3 : CmdRow := (matrixRow wUp (.nop { h1 with reserved := 1 })).getD row0
def wLongCommandBusyAt64Parked_4 : State := { wUp with parked := List.replicate 64 (.report h1) }
def wCompletionEntryPosted_5 : List Byte := [1, 2]
def wCompletionEntryPosted_6 : State := { wUp with cqs := [(1, { enable := true, tail := 15 })] }
def wCompletionEntryPosted_7 : List Byte := [1, 2]
def wMailboxResultDone_8 : State := { wUp with pcie := { wUp.pcie with msixOn := true, msixMask := true } }
def wSystemCommandsComplete_10 : State := { wUp with job := some wJob }
def wSystemCommandsComplete_11 : State := { wUp with power := { wUp.power with st := .idle } }
def wSystemCommandsComplete_12 : State := { wUp with job := some wJob }
def wSystemCommandsComplete_13 : CmdHdr := { h1 with src := .ring 0 }
def wSystemCommandsComplete_14 : State := { wUp with job := some wJob }
def wSystemCommandsComplete_15 : CmdHdr := { h1 with src := .ring 0 }
def wDialectCommandsComplete_16 : State := { wUp with svc := [(0, { st := .running })] }
def wKeyOpsProgramFuses_17 : State := { wKey with fuses := { wKey.fuses with programmed := 7 } }
def wKeyOpsProgramFuses_18 : State := { wUp with parked := [.keyOp h1 1 2 0 [7]] }
def wKeyOpsProgramFuses_19 : List Byte := [7]
def wKeyOpsProgramFuses_20 : State := { wUp with fuses := { programmed := 3 }, parked := [.keyOp h1 2 1 0 [7]] }
def wKeyOpsProgramFuses_21 : List Byte := [7]
def wKeyOpsProgramFuses_22 : State := { wUp with parked := [.keyOp h1 3 0 63 []] }

/-- The checks of an authorisation record pass where the signature is that of the key of order one. -/
theorem authPasses (s : State) (r : List Byte) (hf : authFormOk r = true) (hp : leAt r 8 8 = s.part.serial.toNat)
    (hk : keyUsable s (leAt r 6 1) = true) (hz : keyOf s (leAt r 6 1) = edZeroBytes) (hs : slice r 64 64 = edZeroBytes ++ List.replicate 32 0)
    (ho : keyOpOk s (leAt r 4 1) (leAt r 5 1) (leAt r 7 1) = true) : authFail? s r = none := by
  have h : sigOk edZeroBytes (slice r 0 64) (slice r 64 64) = true := hs ▸ sigOk_zero _
  simp [authFail?, hf, hp, hk, hz, h, ho]

theorem witness_StepRunsFrontCommand :
    (wStepRunsFrontCommand_1.pending = Instr.nop h1 :: wStepRunsFrontCommand_0) := by decide +kernel

theorem witness_EmptyQueueIdlesOneTick :
    ((wUp.pending = []) ∧ (∀ (p : Nat × Nat), p ∈ allLinks wUp → (linkAt wUp (linkIx p.fst p.snd)).frames = [] ∧ (linkAt wUp (linkIx p.fst p.snd)).singles = [])) ∧
    ((wSingle.pending = [])) ∧
    ((wSingle.pending = []) ∧ (allLinks wSingle = [(0, 0)]) ∧ ((linkAt wSingle (linkIx 0 0)).singles ≠ [])) := by decide +kernel

theorem witness_CommandChecksInOrder :
    (matrixRow wUp wCommandChecksInOrder_2 = some wCommandChecksInOrder_3) ∧ (fwRuns wUp = true) ∧ (firstFailing wUp wCommandChecksInOrder_3 = some 4) := by decide +kernel

theorem witness_LongCommandBusyAt64Parked :
    (matrixRow wLongCommandBusyAt64Parked_4 (Instr.calRun h1 0#8) = some ((matrixRow wUp (Instr.calRun h1 0#8)).getD row0)) ∧ (fwRuns wLongCommandBusyAt64Parked_4 = true) ∧ (firstFailing wLongCommandBusyAt64Parked_4 ((matrixRow wUp (Instr.calRun h1 0#8)).getD row0) = none) ∧ (((matrixRow wUp (Instr.calRun h1 0#8)).getD row0).m.long = true) ∧ (64 ≤ wLongCommandBusyAt64Parked_4.parked.length) := by decide +kernel

theorem witness_CompletionEntryPosted :
    (((cqAt wUp 1).enable = true) ∧ ((cqAt wUp 1).stopped = false) ∧ (wUp.pcie.d3hot = false) ∧ (wUp.pcie.linkUp = true) ∧ (9 = (9#32).toNat) ∧ (wCompletionEntryPosted_5.length ≤ 20)) ∧
    (((cqAt wCompletionEntryPosted_6 1).enable = true) ∧ ((cqAt wCompletionEntryPosted_6 1).stopped = false) ∧ (wCompletionEntryPosted_6.pcie.d3hot = false) ∧ (wCompletionEntryPosted_6.pcie.linkUp = true) ∧ (9 = (9#32).toNat) ∧ (wCompletionEntryPosted_7.length ≤ 20)) := by decide +kernel

theorem witness_MailboxResultDone :
    (wMailboxResultDone_8.pcie.d3hot = false) ∧ (wMailboxResultDone_8.pcie.linkUp = true) ∧ (wMailboxResultDone_8.pcie.msixOn = true) := by decide +kernel

theorem witness_SystemCommandsComplete :
    ((Accepted wUp (Instr.nop h1) = true)) ∧
    ((Accepted wUp (Instr.identify h1) = true)) ∧
    ((Accepted wUp (Instr.power h1 2#8) = true) ∧ (1 ≤ (2#8).toNat) ∧ ((2#8).toNat ≤ 2)) ∧
    ((Accepted wSystemCommandsComplete_10 (Instr.power h1 0#8) = true) ∧ (jobOpen wSystemCommandsComplete_10 = true ∨ wSystemCommandsComplete_10.parked ≠ [])) ∧
    ((Accepted wSystemCommandsComplete_11 (Instr.power h1 0#8) = true) ∧ (jobOpen wSystemCommandsComplete_11 = false) ∧ (wSystemCommandsComplete_11.parked = [])) ∧
    ((Accepted wUp (Instr.power h1 3#8) = true) ∧ (jobOpen wUp = false) ∧ (wUp.parked = [])) ∧
    ((Accepted wSystemCommandsComplete_12 (Instr.power h1 3#8) = true) ∧ (jobOpen wSystemCommandsComplete_12 = true ∨ wSystemCommandsComplete_12.parked ≠ [])) ∧
    ((Accepted wUp (Instr.reset wSystemCommandsComplete_13 0#8 0#8) = true) ∧ (jobOpen wUp = false ∨ 0#8 = 1#8)) ∧
    ((Accepted wSystemCommandsComplete_14 (Instr.reset wSystemCommandsComplete_15 0#8 0#8) = true) ∧ (jobOpen wSystemCommandsComplete_14 = true)) := by
  refine ⟨?_, ?_, ?_, ?_, ?_, ?_, ?_, ?_, ?_⟩
  all_goals decide +kernel

theorem witness_DialectCommandsComplete :
    ((Accepted wDialectCommandsComplete_16 (Instr.dialectSelect h1 2#8) = true) ∧ ((((List.any wDialectCommandsComplete_16.svc fun (p : Nat × Group) => p.snd.st == GrpState.running) || List.any wDialectCommandsComplete_16.axes fun (p : Nat × Axis) => p.snd.moving) || wDialectCommandsComplete_16.parked.any Parked.holdsSwitch) = true)) ∧
    ((Accepted wUp (Instr.dialectSelect h1 2#8) = true) ∧ ((((List.any wUp.svc fun (p : Nat × Group) => p.snd.st == GrpState.running) || List.any wUp.axes fun (p : Nat × Axis) => p.snd.moving) || wUp.parked.any Parked.holdsSwitch) = false)) ∧
    ((Accepted wSlot (Instr.dialectInfo h1 0#8) = true) ∧ (slice (rdFlashN wSlot.flash (slotBase (0#8).toNat) 256) 0 4 = [68#8, 76#8, 67#8, 84#8]) ∧ ((crc32c (slice (rdFlashN wSlot.flash (slotBase (0#8).toNat) 256) 0 252)).toNat = leAt (rdFlashN wSlot.flash (slotBase (0#8).toNat) 256) 252 4) ∧ (slice (rdFlashN wSlot.flash (slotBase (0#8).toNat + 4096) 64) 0 4 = [71#8, 82#8, 77#8, 82#8]) ∧ ((crc32c (slice (rdFlashN wSlot.flash (slotBase (0#8).toNat + 4096) 64) 0 60)).toNat = leAt (rdFlashN wSlot.flash (slotBase (0#8).toNat + 4096) 64) 60 4)) ∧
    ((Accepted wUp (Instr.dialectInfo h1 0#8) = true) ∧ (rdFlashN wUp.flash (slotBase (0#8).toNat) 4 = [255#8, 255#8, 255#8, 255#8])) := by
  refine ⟨?_, ?_, ?_, ?_⟩
  · decide +kernel
  · decide +kernel
  · have h1 : rdFlashN wSlot.flash (slotBase (0#8).toNat) 256 = wHdr := wSlot_hdr
    have h2 : rdFlashN wSlot.flash (slotBase (0#8).toNat + 4096) 64 = wImg.take 64 := wSlot_head
    rw [h1, h2]
    decide +kernel
  · decide +kernel

theorem witness_KeyOpsProgramFuses :
    ((Accepted wKey (Instr.keyProgram h1 (0#64) (HostRead.data r1)) = true) ∧ (leAt r1 4 1 = 1) ∧ (authFail? wKey r1 = none)) ∧
    ((Accepted wKeyOpsProgramFuses_17 (Instr.keyRevoke h1 (0#64) (HostRead.data r2)) = true) ∧ (leAt r2 4 1 = 2) ∧ (authFail? wKeyOpsProgramFuses_17 r2 = none)) ∧
    ((Accepted wKey (Instr.keyRollback h1 (0#64) (HostRead.data r3)) = true) ∧ (leAt r3 4 1 = 3) ∧ (authFail? wKey r3 = none)) ∧
    ((wKeyOpsProgramFuses_18.parked = [Parked.keyOp h1 1 2 0 wKeyOpsProgramFuses_19]) ∧ (keyOpOk wKeyOpsProgramFuses_18 1 2 0 = true)) ∧
    ((wKeyOpsProgramFuses_20.parked = [Parked.keyOp h1 2 1 0 wKeyOpsProgramFuses_21]) ∧ (keyOpOk wKeyOpsProgramFuses_20 2 1 0 = true)) ∧
    ((wKeyOpsProgramFuses_22.parked = [Parked.keyOp h1 3 0 63 []]) ∧ (keyOpOk wKeyOpsProgramFuses_22 3 0 63 = true)) := by
  refine ⟨?_, ?_, ?_, ?_, ?_, ?_⟩
  · exact ⟨by decide +kernel, by decide +kernel, authPasses _ _ (by decide +kernel) (by decide +kernel) (by decide +kernel) (by decide +kernel) (by decide +kernel) (by decide +kernel)⟩
  · exact ⟨by decide +kernel, by decide +kernel, authPasses _ _ (by decide +kernel) (by decide +kernel) (by decide +kernel) (by decide +kernel) (by decide +kernel) (by decide +kernel)⟩
  · exact ⟨by decide +kernel, by decide +kernel, authPasses _ _ (by decide +kernel) (by decide +kernel) (by decide +kernel) (by decide +kernel) (by decide +kernel) (by decide +kernel)⟩
  · decide +kernel
  · decide +kernel
  · decide +kernel

theorem witness_BadOpcodeAndDamaged :
    ((fwRuns wUp = true) ∧ (wUp.boot.patch = 0#8)) ∧
    ((fwRuns wUp = true)) := by decide +kernel

end W01

namespace W02

def wDefined : State := { wUp with gram := wGram false }
def bs2 : List Byte := wBytes 1 [1, 2, 3]
def b2 : Block := { wBlk 1 [1, 2, 3] with addr := storeBase }
def wHeld : State := { wPage with blocks := [b2, { b2 with id := ⟨6, 0, 0, 0, 0⟩, addr := storeBase + 4096 }], closed := [(5, 1), (6, 1)] }
def wRawHdr : List Byte :=
  ({ wBlk 0 [] with raw := true, payloadLen := 65536, rawCrc := 0xFFFFFFFF, storedCrc := 0xFFFFFFFF, blockLen := 65600 } : Block).header
def wRaw : List Byte := wRawHdr ++ ([0xFF, 0xFF, 0xFF, 0xFF] ++ List.replicate 65532 0)
def wLoadWait : LoadWait := { hdr := h1, len := 65600, flags := 1, rest := wRaw }
def wServe (overlay : Bool) : State :=
  let c : Clause := { st := .serving, powered := true }
  { wPage with gram := wGram overlay, job := some wJob, blocks := [{ b2 with id := ⟨5, 0, 0, 0, 0⟩ }], clauses := [(0, c)] }
def i2 : BandIn := { block := { b2 with id := ⟨5, 0, 0, 0, 0⟩ }, absBand := 0, overlay := false }
def ovl2 : Block := { b2 with id := ⟨5, 1, 0, 0, 0⟩, kind := 3, addr := storeBase + 4096 }
def wGuard : State :=
  let c : Clause := { st := .serving, powered := true, rewindWait := true, input := [i2], lines := [{ line := 0, at_ := some ⟨0, 5, 1, 0, 0⟩, q := 0 }] }
  { wServe false with clauses := [(0, c)] }

def placed0 : State := match placeStream (riseReady (takePopped wPage h1)) bs2 none 1 with | some (v, _, _) => v | none => wPage
def lastId : Option BlockId := match placeStream (riseReady (takePopped wPage h1)) bs2 none 1 with | some (_, _, l) => l | none => none
def cached4 : List Block := (List.range 1000).map (fun i => { wBlk 0 [] with blockLen := 131072, addr := mgtRegion + 131072 * i, cached := true })
def wIn (i : List BandIn) : State := { wServe false with clauses := [(0, { st := .serving, powered := true, input := i })] }
def i3 : BandIn := { i2 with absBand := 1, block := { i2.block with payloadLen := 40000 }, bytes := List.replicate 32705 0 }
def wPageCommandsComplete_0 : State := { wDefined with pages := List.replicate 4096 ⟨9, 1, 1⟩ }
def wPageCommandsComplete_1 : State := { wHeld with job := some wJob }
def wPageCommandsComplete_2 : Page := ⟨5, 2, 1⟩
def wLoadBlocksCompletes_3 : List Byte := bs2 ++ List.replicate 64 0
def wPlacedBlockSupersedes_4 : State := { wPage with blocks := [b2] }
def wLoadResumeFillsCache_5 : State := { wPage with parked := [.load wLoadWait] }
def wLoadResumeFillsCache_6 : State := { wPage with parked := [.load wLoadWait], blocks := cached4 }
def wBandFetchCompletes_7 : State := wIn [i2]
def wBandFetchCompletes_8 : State := { wIn [i2] with dramPoison := [dramBlkKey 0 (dramMap wUp 0 (i2.block.addr + pieceAt i2 false)).1 (dramMap wUp 0 (i2.block.addr + pieceAt i2 false)).2] }
def wBandFetchCompletes_9 : Block := { b2 with id := ⟨5, 0, 0, 0, 0⟩ }
def wBandFetchCompletes_10 : State := { wServe true with blocks := [{ b2 with id := ⟨5, 0, 0, 0, 0⟩ }] }
def wBandFetchCompletes_11 : Block := { b2 with id := ⟨5, 0, 0, 0, 0⟩ }
def wBandFetchCompletes_12 : State := wIn [i2, i3]
def wBandFetchCompletes_13 : State := { wIn [i2] with ddr := [(0, { st := .train }), (1, { st := .train })] }
def wOverlayFetchResumes_14 : State := { wServe true with blocks := [{ b2 with id := ⟨5, 0, 0, 0, 0⟩ }, ovl2], clauses := [(0, { st := .serving, powered := true, ovlWait := true })] }
def wOverlayFetchResumes_15 : Block := { b2 with id := ⟨5, 0, 0, 0, 0⟩ }
def wRewindGuardForfeitsMark_16 : CLine := { line := 0, at_ := some ⟨0, 5, 1, 0, 0⟩, q := 0 }
def wRewindGuardForfeitsMark_17 : PLine := ⟨0, 5, 1, 0, 0⟩
def wRewindGuardForfeitsMark_18 : BandIn := { i2 with lost := true }

theorem crc_zeros (n : Nat) : (List.replicate n (0 : Byte)).foldl crc32cByte 0#32 = 0#32 := by
  induction n with
  | zero => rfl
  | succ n ih =>
    have h : crc32cByte 0#32 0 = 0#32 := by decide
    rw [List.replicate_succ, List.foldl_cons, h, ih]

/-- The plane whose CRC-32C is all ones: four bytes of ones, then zeros. -/
def wPlane (n : Nat) : List Byte := [0xFF, 0xFF, 0xFF, 0xFF] ++ List.replicate n 0

theorem wPlane_crc (n : Nat) : crc32c (wPlane n) = 0xFFFFFFFF#32 := by
  have h : ([0xFF, 0xFF, 0xFF, 0xFF] : List Byte).foldl crc32cByte 0xFFFFFFFF#32 = 0#32 := by decide
  rw [crc32c, crc32cReg, wPlane, List.foldl_append, h, crc_zeros]
  decide

theorem wPlane_length (n : Nat) : (wPlane n).length = n + 4 := by simp [wPlane]

theorem after (h p : List Byte) (n : Nat) (hl : h.length = 64) (pl : p.length = n) : slice (h ++ p) 64 n = p := by
  rw [slice, List.drop_left' hl, ← pl, List.take_length]

theorem wRawHdr_length : wRawHdr.length = 64 := by decide +kernel

theorem wRaw_length : wRaw.length = 65600 := by
  rw [show wRaw = wRawHdr ++ wPlane 65532 from rfl, List.length_append, wRawHdr_length, wPlane_length]

theorem wRaw_checked : checkBody wRaw = true := by
  have hp : (blockOf wRaw).payloadLen = 65536 := by decide +kernel
  have hs : (blockOf wRaw).storedCrc = 0xFFFFFFFF#32 := by decide +kernel
  have hk : (kindMask (blockOf wRaw).kind == 0) = true := by decide +kernel
  have hr : (blockOf wRaw).rawCrc = 0xFFFFFFFF#32 := by decide +kernel
  have hb : slice wRaw 64 65536 = wPlane 65532 := after wRawHdr (wPlane 65532) 65536 wRawHdr_length (wPlane_length 65532)
  simp only [checkBody, hp, hs, hk, hr, hb, wPlane_crc]
  decide

theorem wLoadWait_length : wLoadWait.rest.length = 65600 := wRaw_length

theorem wLoadWait_checked : checkBody wLoadWait.rest = true := wRaw_checked

theorem wLoadWait_whole : List.take (blockOf wLoadWait.rest).blockLen wLoadWait.rest = wLoadWait.rest :=
  List.take_of_length_le (by rw [wLoadWait_length]; decide +kernel)

theorem witness_PageCommandsComplete :
    ((Accepted wDefined (Instr.pageDefine h1 5#32 2#16 1#64) = true) ∧ (5#32 ≠ 0#32) ∧ (5#32 ≠ 4294967295#32) ∧ (page? wDefined 5#32 = none) ∧ (∀ (r : Nat), r < 64 → (1#64).getLsbD r = true → (rowCfg? wDefined r).isSome = true) ∧ (wDefined.pages.length < 4096)) ∧
    ((Accepted wDefined (Instr.pageDefine h1 0#32 2#16 1#64) = true) ∧ (0#32 = 0#32 ∨ 0#32 = 4294967295#32 ∨ (page? wDefined 0#32).isSome = true ∨ ∃ (r : Nat), r < 64 ∧ (1#64).getLsbD r = true ∧ rowCfg? wDefined r = none)) ∧
    ((Accepted wDefined (Instr.pageDefine h1 7#32 2#16 2#64) = true) ∧ (7#32 = 0#32 ∨ 7#32 = 4294967295#32 ∨ (page? wDefined 7#32).isSome = true ∨ ∃ (r : Nat), r < 64 ∧ (2#64).getLsbD r = true ∧ rowCfg? wDefined r = none)) ∧
    ((Accepted wPageCommandsComplete_0 (Instr.pageDefine h1 5#32 2#16 1#64) = true) ∧ (5#32 ≠ 0#32) ∧ (5#32 ≠ 4294967295#32) ∧ (page? wPageCommandsComplete_0 5#32 = none) ∧ (∀ (r : Nat), r < 64 → (1#64).getLsbD r = true → (rowCfg? wPageCommandsComplete_0 r).isSome = true) ∧ (4096 ≤ wPageCommandsComplete_0.pages.length)) ∧
    ((Accepted wHeld (Instr.pageDelete h1 5#32) = true) ∧ ((page? wHeld 5#32).isSome = true) ∧ (jobPrints wHeld 5#32 = false)) ∧
    ((Accepted wPageCommandsComplete_1 (Instr.pageDelete h1 5#32) = true) ∧ (page? wPageCommandsComplete_1 5#32 = none ∨ jobPrints wPageCommandsComplete_1 5#32 = true)) ∧
    ((Accepted wHeld (Instr.pageInfo h1 5#32) = true) ∧ (page? wHeld 5#32 = some wPageCommandsComplete_2)) ∧
    ((Accepted wHeld (Instr.pageInfo h1 6#32) = true) ∧ (page? wHeld 6#32 = none)) ∧
    ((Accepted wHeld (Instr.overlayClose h1 5#32 2#32 3#16) = true) ∧ ((page? wHeld 5#32).isSome = true)) ∧
    ((Accepted wHeld (Instr.overlayClose h1 6#32 2#32 3#16) = true) ∧ (page? wHeld 6#32 = none)) := by
  refine ⟨?_, ?_, ?_, ?_, ?_, ?_, ?_, ?_, ?_, ?_⟩
  all_goals decide +kernel

theorem witness_LoadBlocksCompletes :
    ((Accepted wPage (Instr.loadBlocks h1 (0#64) (128#32) (0#16) (HostRead.data bs2)) = true) ∧ (bs2.length = (128#32).toNat) ∧ (hasHostIn (riseReady (takePopped wPage h1)) = true) ∧ (((riseReady (takePopped wPage h1)).parked.all fun (p : Parked) => !p.isLoad) = true) ∧ ((0#16).getLsbD 0 = false) ∧ (placeStream (riseReady (takePopped wPage h1)) bs2 none 1 = some (placed0, [], lastId))) ∧
    ((Accepted wPage (Instr.loadBlocks h1 (0#64) (0#32) (0#16) (HostRead.data [])) = true) ∧ (([] : List Byte).length = (0#32).toNat) ∧ (hasHostIn (riseReady (takePopped wPage h1)) = true) ∧ (((riseReady (takePopped wPage h1)).parked.all fun (p : Parked) => !p.isLoad) = true) ∧ ((0#16).getLsbD 0 = false) ∧ (placeStream (riseReady (takePopped wPage h1)) [] none 0 = some (riseReady (takePopped wPage h1), [], none))) ∧
    ((Accepted wPage (Instr.loadBlocks h1 (0#64) (192#32) (0#16) (HostRead.data wLoadBlocksCompletes_3)) = true) ∧ (wLoadBlocksCompletes_3.length = (192#32).toNat) ∧ (hasHostIn (riseReady (takePopped wPage h1)) = true) ∧ (((riseReady (takePopped wPage h1)).parked.all fun (p : Parked) => !p.isLoad) = true) ∧ ((0#16).getLsbD 0 = false) ∧ (placeStream (riseReady (takePopped wPage h1)) wLoadBlocksCompletes_3 none 1 = some (placed0, List.replicate 64 0#8, lastId)) ∧ (64 ≤ (List.replicate 64 0#8).length) ∧ (refuseHeader placed0 (List.take 147776 (List.replicate 64 0#8)) (List.replicate 64 0#8).length = some 1)) ∧
    ((Accepted wPage (Instr.loadBlocks h1 (0#64) (128#32) (0#16) HostRead.busError) = true) ∧ (hasHostIn (riseReady (takePopped wPage h1)) = true) ∧ (((riseReady (takePopped wPage h1)).parked.all fun (p : Parked) => !p.isLoad) = true)) ∧
    ((Accepted wUp (Instr.loadBlocks h1 (0#64) (128#32) (0#16) (HostRead.data bs2)) = true) ∧ (hasHostIn (riseReady (takePopped wUp h1)) = false)) ∧
    ((Accepted wPage (Instr.loadBlocks h1 (0#64) (65600#32) (1#16) (HostRead.data wRaw)) = true) ∧ (wRaw.length = (65600#32).toNat) ∧ (hasHostIn (riseReady (takePopped wPage h1)) = true) ∧ (((riseReady (takePopped wPage h1)).parked.all fun (p : Parked) => !p.isLoad) = true) ∧ ((1#16).getLsbD 0 = true) ∧ ((blockOf wRaw).raw = true) ∧ ((blockOf wRaw).blockLen = wRaw.length) ∧ (64 ≤ wRaw.length) ∧ (refuseHeader (riseReady (takePopped wPage h1)) (List.take 147776 wRaw) wRaw.length = none) ∧ (ownerDie? (riseReady (takePopped wPage h1)) (blockOf wRaw).id = some 0) ∧ (forwardLost (riseReady (takePopped wPage h1)) 0 = false) ∧ (storeSpace (riseReady (takePopped wPage h1)) 0 (blockOf wRaw).blockLen = some storeBase) ∧ (checkBody wRaw = true) ∧ (hasCacheCh (riseReady (takePopped wPage h1)) 0 = true) ∧ (cacheSpace (riseReady (takePopped wPage h1)) 0 (blockOf wRaw).blockLen = some mgtRegion)) := by
  refine ⟨?_, ?_, ?_, ?_, ?_, ?_⟩
  · exact ⟨by decide +kernel, by decide +kernel, by decide +kernel, by decide +kernel, by decide +kernel, rfl⟩
  · exact ⟨by decide +kernel, by decide +kernel, by decide +kernel, by decide +kernel, by decide +kernel, rfl⟩
  · decide +kernel
  · decide +kernel
  · decide +kernel
  · rw [wRaw_length, wRaw_checked]
    decide +kernel

theorem witness_PlacedBlockSupersedes :
    ((wPlacedBlockSupersedes_4.blocks.all fun (o : Block) => !o.old) = true) := by decide +kernel

theorem witness_LoadResumeFillsCache :
    ((List.find? Parked.isLoad wLoadResumeFillsCache_5.parked = some (Parked.load wLoadWait)) ∧ (wLoadWait.stop = none) ∧ (wLoadWait.offset + wLoadWait.rest.length = wLoadWait.len) ∧ (64 ≤ wLoadWait.rest.length) ∧ (refuseHeader wLoadResumeFillsCache_5 (List.take 147776 wLoadWait.rest) wLoadWait.rest.length = none) ∧ ((blockOf wLoadWait.rest).blockLen = wLoadWait.rest.length) ∧ (ownerDie? wLoadResumeFillsCache_5 (blockOf wLoadWait.rest).id = some 0) ∧ (forwardLost wLoadResumeFillsCache_5 0 = false) ∧ (storeSpace wLoadResumeFillsCache_5 0 (blockOf wLoadWait.rest).blockLen = some storeBase) ∧ (checkBody wLoadWait.rest = true) ∧ (wLoadWait.flags.getLsbD 0 = true) ∧ ((blockOf wLoadWait.rest).raw = true) ∧ (hasCacheCh wLoadResumeFillsCache_5 0 = true) ∧ (cacheSpace wLoadResumeFillsCache_5 0 (blockOf wLoadWait.rest).blockLen = some mgtRegion)) ∧
    ((List.find? Parked.isLoad wLoadResumeFillsCache_6.parked = some (Parked.load wLoadWait)) ∧ (wLoadWait.stop = none) ∧ (wLoadWait.offset + wLoadWait.rest.length = wLoadWait.len) ∧ (64 ≤ wLoadWait.rest.length) ∧ (refuseHeader wLoadResumeFillsCache_6 (List.take 147776 wLoadWait.rest) wLoadWait.rest.length = none) ∧ ((blockOf wLoadWait.rest).blockLen ≤ wLoadWait.rest.length) ∧ (ownerDie? wLoadResumeFillsCache_6 (blockOf wLoadWait.rest).id = some 0) ∧ (forwardLost wLoadResumeFillsCache_6 0 = false) ∧ (storeSpace wLoadResumeFillsCache_6 0 (blockOf wLoadWait.rest).blockLen = some storeBase) ∧ (checkBody (List.take (blockOf wLoadWait.rest).blockLen wLoadWait.rest) = true) ∧ (wLoadWait.flags.getLsbD 0 = true) ∧ ((blockOf wLoadWait.rest).raw = true) ∧ (hasCacheCh wLoadResumeFillsCache_6 0 = true) ∧ (cacheSpace wLoadResumeFillsCache_6 0 (blockOf wLoadWait.rest).blockLen = none)) ∧
    (((wPage.parked.all fun (p : Parked) => !p.isLoad) = true)) := by
  refine ⟨?_, ?_, ?_⟩
  · rw [wLoadWait_length, wLoadWait_checked]
    exact ⟨rfl, by decide +kernel⟩
  · rw [wLoadWait_whole, wLoadWait_length, wLoadWait_checked]
    exact ⟨rfl, by decide +kernel⟩
  · decide +kernel

theorem witness_BlockMoveCopies :
    ((quietDram wHeld = true) ∧ (List.find? (fun (o : Block) => o.die == 0 && !o.cached && !o.old && o.addr == storeBase && o.addr != 0) wHeld.blocks = some b2) ∧ ((storeBase + 128) % 64 = 0) ∧ (storeBase ≤ storeBase + 128) ∧ (storeBase + 128 + pad64 b2.blockLen ≤ dramEnd wHeld 0) ∧ (((List.filter (fun (r : Nat × Nat) => decide (r.fst ≠ storeBase)) (takenRuns wHeld 0 false)).all fun (r : Nat × Nat) => decide (storeBase + 128 + pad64 b2.blockLen ≤ r.fst) || decide (r.fst + r.snd ≤ storeBase + 128)) = true) ∧ (storeBase + 128 + pad64 b2.blockLen ≤ storeBase ∨ storeBase + pad64 b2.blockLen ≤ storeBase + 128) ∧ (∀ (g : Nat), g < pad64 b2.blockLen / 64 → dramBad wHeld 0 (storeBase + 64 * g) = false)) ∧
    ((∀ (b : Block), List.find? (fun (o : Block) => o.die == 0 && !o.cached && !o.old && o.addr == storeBase && o.addr != 0) wHeld.blocks = some b → 64 % 64 ≠ 0 ∨ 64 < storeBase ∨ dramEnd wHeld 0 < 64 + pad64 b.blockLen)) := by decide +kernel

theorem witness_BandFetchCompletes :
    ((fetches wBandFetchCompletes_7 (clauseIx 0 0) = true) ∧ (List.filter (inputDone wBandFetchCompletes_7 (clauseIx 0 0)) (clauseAt wBandFetchCompletes_7 (clauseIx 0 0)).input = []) ∧ (nextPiece? (clauseAt wBandFetchCompletes_7 (clauseIx 0 0)) = some (i2, false)) ∧ (ringUsed wBandFetchCompletes_7 (clauseIx 0 0) + 64 ≤ ringRoom (clauseAt wBandFetchCompletes_7 (clauseIx 0 0))) ∧ (dramWaits wBandFetchCompletes_7 i2.block.die (i2.block.addr + pieceAt i2 false) 64 = false) ∧ (quietDram wBandFetchCompletes_7 = true) ∧ (dramBad wBandFetchCompletes_7 i2.block.die (i2.block.addr + pieceAt i2 false) = false) ∧ (false = true → (if false = true then { block := i2.block, absBand := i2.absBand, overlay := i2.overlay, hdr := i2.hdr, bytes := i2.bytes, mask := i2.mask ++ dramRd wBandFetchCompletes_7 i2.block.die (i2.block.addr + pieceAt i2 false) 64, poison := i2.poison, maskPoison := i2.maskPoison, flips := i2.flips, maskFlips := i2.maskFlips, lost := i2.lost, failed := i2.failed : BandIn } else { block := i2.block, absBand := i2.absBand, overlay := i2.overlay, hdr := i2.hdr, bytes := i2.bytes ++ dramRd wBandFetchCompletes_7 i2.block.die (i2.block.addr + pieceAt i2 false) (min 64 (i2.block.payloadLen - i2.bytes.length)), mask := i2.mask, poison := i2.poison, maskPoison := i2.maskPoison, flips := i2.flips, maskFlips := i2.maskFlips, lost := i2.lost, failed := i2.failed : BandIn }).mask.length = (if false = true then { block := i2.block, absBand := i2.absBand, overlay := i2.overlay, hdr := i2.hdr, bytes := i2.bytes, mask := i2.mask ++ dramRd wBandFetchCompletes_7 i2.block.die (i2.block.addr + pieceAt i2 false) 64, poison := i2.poison, maskPoison := i2.maskPoison, flips := i2.flips, maskFlips := i2.maskFlips, lost := i2.lost, failed := i2.failed : BandIn } else { block := i2.block, absBand := i2.absBand, overlay := i2.overlay, hdr := i2.hdr, bytes := i2.bytes ++ dramRd wBandFetchCompletes_7 i2.block.die (i2.block.addr + pieceAt i2 false) (min 64 (i2.block.payloadLen - i2.bytes.length)), mask := i2.mask, poison := i2.poison, maskPoison := i2.maskPoison, flips := i2.flips, maskFlips := i2.maskFlips, lost := i2.lost, failed := i2.failed : BandIn }).maskLen → crc32c (if false = true then { block := i2.block, absBand := i2.absBand, overlay := i2.overlay, hdr := i2.hdr, bytes := i2.bytes, mask := i2.mask ++ dramRd wBandFetchCompletes_7 i2.block.die (i2.block.addr + pieceAt i2 false) 64, poison := i2.poison, maskPoison := i2.maskPoison, flips := i2.flips, maskFlips := i2.maskFlips, lost := i2.lost, failed := i2.failed : BandIn } else { block := i2.block, absBand := i2.absBand, overlay := i2.overlay, hdr := i2.hdr, bytes := i2.bytes ++ dramRd wBandFetchCompletes_7 i2.block.die (i2.block.addr + pieceAt i2 false) (min 64 (i2.block.payloadLen - i2.bytes.length)), mask := i2.mask, poison := i2.poison, maskPoison := i2.maskPoison, flips := i2.flips, maskFlips := i2.maskFlips, lost := i2.lost, failed := i2.failed : BandIn }).mask = i2.block.maskCrc)) ∧
    ((fetches wBandFetchCompletes_8 (clauseIx 0 0) = true) ∧ (List.filter (inputDone wBandFetchCompletes_8 (clauseIx 0 0)) (clauseAt wBandFetchCompletes_8 (clauseIx 0 0)).input = []) ∧ (nextPiece? (clauseAt wBandFetchCompletes_8 (clauseIx 0 0)) = some (i2, false)) ∧ (ringUsed wBandFetchCompletes_8 (clauseIx 0 0) + 64 ≤ ringRoom (clauseAt wBandFetchCompletes_8 (clauseIx 0 0))) ∧ (dramWaits wBandFetchCompletes_8 i2.block.die (i2.block.addr + pieceAt i2 false) 64 = false) ∧ (quietDram wBandFetchCompletes_8 = true) ∧ (dramBad wBandFetchCompletes_8 i2.block.die (i2.block.addr + pieceAt i2 false) = true) ∧ (i2.block.bad = false)) ∧
    ((fetches (wServe false) (clauseIx 0 0) = true) ∧ (List.filter (inputDone (wServe false) (clauseIx 0 0)) (clauseAt (wServe false) (clauseIx 0 0)).input = []) ∧ (nextPiece? (clauseAt (wServe false) (clauseIx 0 0)) = none) ∧ ((wServe false).job = some wJob) ∧ (clauseSlot? (wServe false) (clauseIx 0 0) = some { die := 0, slot := 0, row := 0, pos := 0 : SlotCfg }) ∧ (fetchBand? (wServe false) (clauseIx 0 0) = some 0) ∧ (heldBlock? (wServe false) { page := wJob.pageOf (0 / 8192), copy := 0#32, row := { die := 0, slot := 0, row := 0, pos := 0 : SlotCfg }.row, strip := { die := 0, slot := 0, row := 0, pos := 0 : SlotCfg }.pos, band := 0 % 8192 : BlockId } = some wBandFetchCompletes_9) ∧ ((rowCfg (wServe false) { die := 0, slot := 0, row := 0, pos := 0 : SlotCfg }.row).overlay = false ∨ (if (rowCfg (wServe false) { die := 0, slot := 0, row := 0, pos := 0 : SlotCfg }.row).overlay = true then heldBlock? (wServe false) { page := wJob.pageOf (0 / 8192), copy := BitVec.ofNat 32 (wJob.copyNo (0 / 8192)), row := { die := 0, slot := 0, row := 0, pos := 0 : SlotCfg }.row, strip := { die := 0, slot := 0, row := 0, pos := 0 : SlotCfg }.pos, band := 0 % 8192 : BlockId } else none).isSome = true ∨ setOpen (wServe false) wJob (0 / 8192) = false) ∧ (quietDram (wServe false) = true) ∧ (∀ (k : Block), k ∈ wBandFetchCompletes_9 :: (if (rowCfg (wServe false) { die := 0, slot := 0, row := 0, pos := 0 : SlotCfg }.row).overlay = true then heldBlock? (wServe false) { page := wJob.pageOf (0 / 8192), copy := BitVec.ofNat 32 (wJob.copyNo (0 / 8192)), row := { die := 0, slot := 0, row := 0, pos := 0 : SlotCfg }.row, strip := { die := 0, slot := 0, row := 0, pos := 0 : SlotCfg }.pos, band := 0 % 8192 : BlockId } else none).toList → k.bad = false ∧ dramBad (wServe false) k.die k.addr = false ∧ dramWaits (wServe false) k.die k.addr 64 = false)) ∧
    ((fetches wBandFetchCompletes_10 (clauseIx 0 0) = true) ∧ (List.filter (inputDone wBandFetchCompletes_10 (clauseIx 0 0)) (clauseAt wBandFetchCompletes_10 (clauseIx 0 0)).input = []) ∧ (nextPiece? (clauseAt wBandFetchCompletes_10 (clauseIx 0 0)) = none) ∧ (wBandFetchCompletes_10.job = some wJob) ∧ (clauseSlot? wBandFetchCompletes_10 (clauseIx 0 0) = some { die := 0, slot := 0, row := 0, pos := 0 : SlotCfg }) ∧ (fetchBand? wBandFetchCompletes_10 (clauseIx 0 0) = some 0) ∧ (heldBlock? wBandFetchCompletes_10 { page := wJob.pageOf (0 / 8192), copy := 0#32, row := { die := 0, slot := 0, row := 0, pos := 0 : SlotCfg }.row, strip := { die := 0, slot := 0, row := 0, pos := 0 : SlotCfg }.pos, band := 0 % 8192 : BlockId } = some wBandFetchCompletes_11) ∧ ((rowCfg wBandFetchCompletes_10 { die := 0, slot := 0, row := 0, pos := 0 : SlotCfg }.row).overlay = true) ∧ (heldBlock? wBandFetchCompletes_10 { page := wJob.pageOf (0 / 8192), copy := BitVec.ofNat 32 (wJob.copyNo (0 / 8192)), row := { die := 0, slot := 0, row := 0, pos := 0 : SlotCfg }.row, strip := { die := 0, slot := 0, row := 0, pos := 0 : SlotCfg }.pos, band := 0 % 8192 : BlockId } = none) ∧ (setOpen wBandFetchCompletes_10 wJob (0 / 8192) = true)) ∧
    ((fetches wBandFetchCompletes_12 (clauseIx 0 0) = true) ∧ (List.filter (inputDone wBandFetchCompletes_12 (clauseIx 0 0)) (clauseAt wBandFetchCompletes_12 (clauseIx 0 0)).input = []) ∧ (nextPiece? (clauseAt wBandFetchCompletes_12 (clauseIx 0 0)) = some (i2, false)) ∧ (ringRoom (clauseAt wBandFetchCompletes_12 (clauseIx 0 0)) < ringUsed wBandFetchCompletes_12 (clauseIx 0 0) + 64)) ∧
    ((fetches wBandFetchCompletes_13 (clauseIx 0 0) = true) ∧ (List.filter (inputDone wBandFetchCompletes_13 (clauseIx 0 0)) (clauseAt wBandFetchCompletes_13 (clauseIx 0 0)).input = []) ∧ (nextPiece? (clauseAt wBandFetchCompletes_13 (clauseIx 0 0)) = some (i2, false)) ∧ (ringUsed wBandFetchCompletes_13 (clauseIx 0 0) + 64 ≤ ringRoom (clauseAt wBandFetchCompletes_13 (clauseIx 0 0))) ∧ (dramWaits wBandFetchCompletes_13 i2.block.die (i2.block.addr + pieceAt i2 false) 64 = true)) := by
  refine ⟨?_, ?_, ?_, ?_, ?_, ?_⟩
  all_goals decide +kernel

theorem witness_OverlayFetchResumes :
    ((fetches wOverlayFetchResumes_14 (clauseIx 0 0) = true) ∧ ((clauseAt wOverlayFetchResumes_14 (clauseIx 0 0)).ovlWait = true) ∧ (wOverlayFetchResumes_14.job = some wJob) ∧ (clauseSlot? wOverlayFetchResumes_14 (clauseIx 0 0) = some { die := 0, slot := 0, row := 0, pos := 0 : SlotCfg }) ∧ (fetchBand? wOverlayFetchResumes_14 (clauseIx 0 0) = some 0) ∧ (heldBlock? wOverlayFetchResumes_14 { page := wJob.pageOf (0 / 8192), copy := 0#32, row := { die := 0, slot := 0, row := 0, pos := 0 : SlotCfg }.row, strip := { die := 0, slot := 0, row := 0, pos := 0 : SlotCfg }.pos, band := 0 % 8192 : BlockId } = some wOverlayFetchResumes_15) ∧ ((rowCfg wOverlayFetchResumes_14 { die := 0, slot := 0, row := 0, pos := 0 : SlotCfg }.row).overlay = false ∨ (if (rowCfg wOverlayFetchResumes_14 { die := 0, slot := 0, row := 0, pos := 0 : SlotCfg }.row).overlay = true then heldBlock? wOverlayFetchResumes_14 { page := wJob.pageOf (0 / 8192), copy := BitVec.ofNat 32 (wJob.copyNo (0 / 8192)), row := { die := 0, slot := 0, row := 0, pos := 0 : SlotCfg }.row, strip := { die := 0, slot := 0, row := 0, pos := 0 : SlotCfg }.pos, band := 0 % 8192 : BlockId } else none).isSome = true ∨ setOpen wOverlayFetchResumes_14 wJob (0 / 8192) = false) ∧ (quietDram wOverlayFetchResumes_14 = true) ∧ (∀ (k : Block), k ∈ wOverlayFetchResumes_15 :: (if (rowCfg wOverlayFetchResumes_14 { die := 0, slot := 0, row := 0, pos := 0 : SlotCfg }.row).overlay = true then heldBlock? wOverlayFetchResumes_14 { page := wJob.pageOf (0 / 8192), copy := BitVec.ofNat 32 (wJob.copyNo (0 / 8192)), row := { die := 0, slot := 0, row := 0, pos := 0 : SlotCfg }.row, strip := { die := 0, slot := 0, row := 0, pos := 0 : SlotCfg }.pos, band := 0 % 8192 : BlockId } else none).toList → k.bad = false ∧ dramBad wOverlayFetchResumes_14 k.die k.addr = false ∧ dramWaits wOverlayFetchResumes_14 k.die k.addr 64 = false)) ∧
    (((clauseAt wUp (clauseIx 0 0)).ovlWait = false)) := by decide +kernel

theorem witness_RewindGuardForfeitsMark :
    (((clauseAt wGuard (clauseIx 0 0)).rewindWait = true) ∧ (guardReached wGuard (clauseIx 0 0) = true) ∧ (oldestUnready? (clauseAt wGuard (clauseIx 0 0)) = some (wRewindGuardForfeitsMark_16, wRewindGuardForfeitsMark_17)) ∧ (clauseSlot? wGuard (clauseIx 0 0) = some { die := 0, slot := 0, row := 0, pos := 0 : SlotCfg }) ∧ (quietDram wGuard = true) ∧ (((clauseAt wGuard (clauseIx 0 0)).lines.all fun (n : CLine) => !(n.ofBand wRewindGuardForfeitsMark_17.absBand && (n.rerun || n.rerunWait) && !n.settled)) = true) ∧ (nextPiece? { st := (clauseAt wGuard (clauseIx 0 0)).st, slot := (clauseAt wGuard (clauseIx 0 0)).slot, powered := (clauseAt wGuard (clauseIx 0 0)).powered, suspectOff := (clauseAt wGuard (clauseIx 0 0)).suspectOff, transient := (clauseAt wGuard (clauseIx 0 0)).transient, withheldCnt := (clauseAt wGuard (clauseIx 0 0)).withheldCnt, suspects := (clauseAt wGuard (clauseIx 0 0)).suspects, suspectOf := (clauseAt wGuard (clauseIx 0 0)).suspectOf, rewind := satInc (clauseAt wGuard (clauseIx 0 0)).rewind, lastFault := (clauseAt wGuard (clauseIx 0 0)).lastFault, lastLine := (clauseAt wGuard (clauseIx 0 0)).lastLine, lines := (clauseAt wGuard (clauseIx 0 0)).lines, nextLine := (clauseAt wGuard (clauseIx 0 0)).nextLine, nextQ := (clauseAt wGuard (clauseIx 0 0)).nextQ, fresh := (clauseAt wGuard (clauseIx 0 0)).fresh, win := (clauseAt wGuard (clauseIx 0 0)).win, winWritten := (clauseAt wGuard (clauseIx 0 0)).winWritten, winDirty := (clauseAt wGuard (clauseIx 0 0)).winDirty, fmtCnt := (clauseAt wGuard (clauseIx 0 0)).fmtCnt, crcCnt := (clauseAt wGuard (clauseIx 0 0)).crcCnt, lastCause := (clauseAt wGuard (clauseIx 0 0)).lastCause, lastDec := (clauseAt wGuard (clauseIx 0 0)).lastDec, lastFcode := (clauseAt wGuard (clauseIx 0 0)).lastFcode, lastCdcLine := (clauseAt wGuard (clauseIx 0 0)).lastCdcLine, lastBand := (clauseAt wGuard (clauseIx 0 0)).lastBand, stallCycles := (clauseAt wGuard (clauseIx 0 0)).stallCycles, dec0 := (clauseAt wGuard (clauseIx 0 0)).dec0.markLost wRewindGuardForfeitsMark_17.absBand, dec1 := (clauseAt wGuard (clauseIx 0 0)).dec1.markLost wRewindGuardForfeitsMark_17.absBand, input := List.map (fun (i : BandIn) => if i.absBand = wRewindGuardForfeitsMark_17.absBand then { block := i.block, absBand := i.absBand, overlay := i.overlay, hdr := i.hdr, bytes := i.bytes, mask := i.mask, poison := i.poison, maskPoison := i.maskPoison, flips := i.flips, maskFlips := i.maskFlips, lost := true, failed := i.failed : BandIn } else i) (clauseAt wGuard (clauseIx 0 0)).input, nextBand := (clauseAt wGuard (clauseIx 0 0)).nextBand, ovlWait := (clauseAt wGuard (clauseIx 0 0)).ovlWait, spareFor := (clauseAt wGuard (clauseIx 0 0)).spareFor, preparing := (clauseAt wGuard (clauseIx 0 0)).preparing, prepared := (clauseAt wGuard (clauseIx 0 0)).prepared, endLine := (clauseAt wGuard (clauseIx 0 0)).endLine, haloLost := (clauseAt wGuard (clauseIx 0 0)).haloLost, needL := (clauseAt wGuard (clauseIx 0 0)).needL, needR := (clauseAt wGuard (clauseIx 0 0)).needR, returns := (clauseAt wGuard (clauseIx 0 0)).returns, haloL := (clauseAt wGuard (clauseIx 0 0)).haloL, haloR := (clauseAt wGuard (clauseIx 0 0)).haloR, testCmd := (clauseAt wGuard (clauseIx 0 0)).testCmd : Clause } = some (wRewindGuardForfeitsMark_18, false)) ∧ (dramWaits wGuard wRewindGuardForfeitsMark_18.block.die (wRewindGuardForfeitsMark_18.block.addr + pieceAt wRewindGuardForfeitsMark_18 false) 64 = false) ∧ (dramBad wGuard wRewindGuardForfeitsMark_18.block.die (wRewindGuardForfeitsMark_18.block.addr + pieceAt wRewindGuardForfeitsMark_18 false) = false)) ∧
    (((clauseAt wUp (clauseIx 0 0)).rewindWait = false ∨ guardReached wUp (clauseIx 0 0) = false)) := by decide +kernel

end W02

namespace W03

def jp : JobParams := { jobId := 7, npages := 1, start := 0, gutter := 64, rounds := 1, noOverlay := 0, pages := [5] }
def wOpen : State := { wPage with params := [wTiming], blocks := [wBlk 0 [1], wBlk 1 [1]] }
def wRun : State := { wOpen with job := some wJob, rows := [(0, { st := .run, committed := some 3, gathered := some 2 })] }
def wRep : State := { wOpen with job := some { wJob with ready := 1, begun := 1 } }
def far : ParamRec := { wTiming with target := 1, payload := natLE 8 (2 ^ 32) ++ natLE 4 1000000 ++ List.replicate 12 0 }
def wFar : State :=
  { wOpen with
    gram := { rows := [{ row := 0, mode := 0, strips := 1 }, { row := 1, mode := 0, strips := 1 }], slots := [⟨0, 0, 0, 0⟩, ⟨0, 1, 1, 0⟩] },
    pages := [⟨5, 1, 3⟩], params := [wTiming, far], blocks := [wBlk 0 [1], { wBlk 0 [1] with id := ⟨5, 0, 1, 0, 0⟩ }] }
def wJobOpenCompletes_0 : State := { wOpen with job := some { wJob with st := .closed } }
def wJobOpenCompletes_1 : State := { wOpen with blocks := [] }
def wJobOpenCompletes_2 : State := { wOpen with params := [] }
def wJobOpenCompletes_3 : State := { wOpen with sync := { mode := 2 } }
def wJobLinesLieInCopies_4 : Job := { wJob with pages := [5, 6], bands := [2, 1], rounds := 2 }
def wJobLinesLieInCopies_5 : Job := { wJob with pages := [5, 6], bands := [2, 1], rounds := 2 }
def wJobLinesLieInCopies_6 : Job := { wJob with pages := [5, 6], bands := [2, 1], rounds := 2 }
def wJobLinesLieInCopies_7 : Job := { wJob with pages := [5, 6], bands := [2, 1], rounds := 2 }
def wJobLinesLieInCopies_8 : Job := { wJob with pages := [5, 6], bands := [2, 1], rounds := 2 }
def wJobStopCompletes_9 : State := { wOpen with job := some { wJob with st := .armed } }
def wJobStopCompletes_10 : Job := { wJob with st := .armed }
def wJobStopCompletes_11 : State := { wRun with job := some { wJob with boundary := some 1 } }
def wJobStopCompletes_12 : Job := { wJob with boundary := some 1 }
def wJobStopCompletes_13 : State := { wOpen with job := some { wJob with st := .armed } }
def wJobStopCompletes_14 : Job := { wJob with st := .armed }
def wJobStopCompletes_15 : State := { wRun with job := some { wJob with boundary := some 1, now_ := true } }
def wJobStopCompletes_16 : Job := { wJob with boundary := some 1, now_ := true }
def wJobCloseLeaves_17 : State := { wRun with closed := [(5, 1), (6, 1)] }
def wReportAndStatusComplete_18 : Job := { wJob with ready := 1, begun := 1 }
def wReportAndStatusComplete_19 : State := { wRep with job := some { wJob with st := .closed } }
def wReportAndStatusComplete_20 : Job := { wJob with st := .closed }
def wReportAndStatusComplete_21 : Job := { wJob with ready := 1, begun := 1 }

theorem witness_JobOpenCompletes :
    ((Accepted wFar (Instr.jobOpen h1 jp) = true) ∧ (wFar.job = none) ∧ (jobPagesOk wFar (newJob wFar jp).pages = true) ∧ (∀ (r : Nat), r ∈ (newJob wFar jp).rows → (rowTiming wFar r).ratio ≠ 0) ∧ (wFar.sync.mode ≠ 2#2 ∨ wFar.sync.lock = true) ∧ (tooManyCopies wFar (newJob wFar jp).rows (List.map (fun (b : Nat) => 64 * b + (newJob wFar jp).gutter) (newJob wFar jp).bands) = true)) ∧
    ((Accepted wOpen (Instr.jobOpen h1 jp) = true) ∧ (wOpen.job = none) ∧ (jobPagesOk wOpen (newJob wOpen jp).pages = true) ∧ (∀ (r : Nat), r ∈ (newJob wOpen jp).rows → (rowTiming wOpen r).ratio ≠ 0) ∧ (wOpen.sync.mode ≠ 2#2 ∨ wOpen.sync.lock = true) ∧ (tooManyCopies wOpen (newJob wOpen jp).rows (List.map (fun (b : Nat) => 64 * b + (newJob wOpen jp).gutter) (newJob wOpen jp).bands) = false)) ∧
    ((Accepted wJobOpenCompletes_0 (Instr.jobOpen h1 jp) = true) ∧ (wJobOpenCompletes_0.job ≠ none)) ∧
    ((Accepted wJobOpenCompletes_1 (Instr.jobOpen h1 jp) = true) ∧ (wJobOpenCompletes_1.job = none) ∧ (jobPagesOk wJobOpenCompletes_1 (jobPages jp) = false)) ∧
    ((Accepted wJobOpenCompletes_2 (Instr.jobOpen h1 jp) = true) ∧ (wJobOpenCompletes_2.job = none) ∧ (jobPagesOk wJobOpenCompletes_2 (newJob wJobOpenCompletes_2 jp).pages = true) ∧ (∃ (r : Nat), r ∈ (newJob wJobOpenCompletes_2 jp).rows ∧ (rowTiming wJobOpenCompletes_2 r).ratio = 0)) ∧
    ((Accepted wJobOpenCompletes_3 (Instr.jobOpen h1 jp) = true) ∧ (wJobOpenCompletes_3.job = none) ∧ (jobPagesOk wJobOpenCompletes_3 (newJob wJobOpenCompletes_3 jp).pages = true) ∧ (∀ (r : Nat), r ∈ (newJob wJobOpenCompletes_3 jp).rows → (rowTiming wJobOpenCompletes_3 r).ratio ≠ 0) ∧ (wJobOpenCompletes_3.sync.mode = 2#2) ∧ (wJobOpenCompletes_3.sync.lock = false)) := by
  refine ⟨?_, ?_, ?_, ?_, ?_, ?_⟩
  all_goals decide +kernel

theorem witness_JobLinesLieInCopies :
    ((0 < wJobLinesLieInCopies_4.pages.length) ∧ (wJobLinesLieInCopies_4.bands.length = wJobLinesLieInCopies_4.pages.length) ∧ (∀ (b : Nat), b ∈ wJobLinesLieInCopies_4.bands → 0 < b)) ∧
    ((0 < wJobLinesLieInCopies_5.pages.length) ∧ (wJobLinesLieInCopies_5.bands.length = wJobLinesLieInCopies_5.pages.length) ∧ (∀ (b : Nat), b ∈ wJobLinesLieInCopies_5.bands → 0 < b)) ∧
    ((0 < wJobLinesLieInCopies_6.pages.length) ∧ (wJobLinesLieInCopies_6.bands.length = wJobLinesLieInCopies_6.pages.length) ∧ (∀ (b : Nat), b ∈ wJobLinesLieInCopies_6.bands → 0 < b)) ∧
    ((0 < wJobLinesLieInCopies_7.pages.length) ∧ (wJobLinesLieInCopies_7.bands.length = wJobLinesLieInCopies_7.pages.length) ∧ (∀ (b : Nat), b ∈ wJobLinesLieInCopies_7.bands → 0 < b)) ∧
    ((0 < wJobLinesLieInCopies_8.pages.length) ∧ (wJobLinesLieInCopies_8.bands.length = wJobLinesLieInCopies_8.pages.length) ∧ (∀ (b : Nat), b ∈ wJobLinesLieInCopies_8.bands → 0 < b)) := by
  refine ⟨?_, ?_, ?_, ?_, ?_⟩
  all_goals decide +kernel

theorem witness_JobStopCompletes :
    ((Accepted wJobStopCompletes_9 (Instr.jobStopAtCopy h1) = true) ∧ (wJobStopCompletes_9.job = some wJobStopCompletes_10) ∧ (wJobStopCompletes_10.st = JobState.armed)) ∧
    ((Accepted wJobStopCompletes_11 (Instr.jobStopAtCopy h1) = true) ∧ (wJobStopCompletes_11.job = some wJobStopCompletes_12) ∧ (wJobStopCompletes_12.st = JobState.running) ∧ (wJobStopCompletes_12.boundary = some 1)) ∧
    ((Accepted wJobStopCompletes_13 (Instr.jobStopNow h1) = true) ∧ (wJobStopCompletes_13.job = some wJobStopCompletes_14) ∧ (wJobStopCompletes_14.st = JobState.armed)) ∧
    ((Accepted wJobStopCompletes_15 (Instr.jobStopNow h1) = true) ∧ (wJobStopCompletes_15.job = some wJobStopCompletes_16) ∧ (wJobStopCompletes_16.st = JobState.running) ∧ (wJobStopCompletes_16.now_ = true) ∧ (wJobStopCompletes_16.boundary = some 1)) ∧
    ((Accepted wRun (Instr.jobStopAtCopy h1) = true) ∧ (wRun.job = some wJob) ∧ (wJob.st = JobState.running) ∧ (wJob.boundary = none)) ∧
    ((Accepted wRun (Instr.jobStopNow h1) = true) ∧ (wRun.job = some wJob) ∧ (wJob.st = JobState.running) ∧ (wJob.now_ = false)) := by
  refine ⟨?_, ?_, ?_, ?_, ?_, ?_⟩
  all_goals decide +kernel

theorem witness_JobCloseLeaves :
    (wJobCloseLeaves_17.job = some wJob) ∧ (wJob.st ≠ JobState.closed) ∧ ((wJobCloseLeaves_17.parked.all fun (p : Parked) => !p.isReport) = true) := by decide +kernel

theorem witness_ReportAndStatusComplete :
    ((Accepted wUp (Instr.report h1) = true) ∧ (wUp.job = none ∨ ∃ (j : Job), wUp.job = some j ∧ j.ready ≤ j.reported ∧ j.st ≠ JobState.closed)) ∧
    ((Accepted wRep (Instr.report h1) = true) ∧ ((wRep.parked.all fun (p : Parked) => !p.isReport) = true) ∧ (wRep.job = some wReportAndStatusComplete_18) ∧ (wReportAndStatusComplete_18.reported < wReportAndStatusComplete_18.ready)) ∧
    ((Accepted wReportAndStatusComplete_19 (Instr.report h1) = true) ∧ ((wReportAndStatusComplete_19.parked.all fun (p : Parked) => !p.isReport) = true) ∧ (wReportAndStatusComplete_19.job = some wReportAndStatusComplete_20) ∧ (wReportAndStatusComplete_20.ready ≤ wReportAndStatusComplete_20.reported) ∧ (wReportAndStatusComplete_20.st = JobState.closed)) ∧
    ((Accepted wUp (Instr.jobStatus h1) = true) ∧ (wUp.job = none)) ∧
    ((Accepted wRep (Instr.jobStatus h1) = true) ∧ (wRep.job = some wReportAndStatusComplete_21)) := by
  refine ⟨?_, ?_, ?_, ?_, ?_⟩
  all_goals decide +kernel

end W03

namespace W04

def pb : List Byte := wTiming.bytes
def badRec : ParamRec := { typ := 0x0203, target := 64, payload := natLE 8 (2 ^ 32) ++ List.replicate 16 0 }
def wNozS : State := { wPage with clauses := [(0, { st := .serving, powered := true })] }
def gainRec : ParamRec := { typ := 0x0102, target := 64, payload := [1, 140, 2, 120] }
def wParamWriteAllOrNone_0 : Nat := ((frameRecs (pb.take 39)).2.getD (0, 0)).1
def wParamWriteAllOrNone_1 : Nat := ((frameRecs (pb.take 39)).2.getD (0, 0)).2
def wParamWriteAllOrNone_2 : State := { wPage with job := some wJob }
def wAppliedRecordIsHeld_7 : ParamRec := { wTiming with payload := List.replicate 24 0 }
def wConfigurationCommandsComplete_8 : State := { wPage with params := [wTiming] }
def wConfigurationCommandsComplete_9 : State := { wPage with params := [wTiming] }
def wConfigurationCommandsComplete_10 : State := { wPage with params := [gainRec], gains := [(64, 150)], curves := [(65, 9)] }
def wConfigurationCommandsComplete_11 : State := { wPage with params := [wNoz] }
def wConfigurationCommandsComplete_12 : State := { wNozS with disabled := [(3, true)] }

theorem witness_ParamWriteAllOrNone :
    ((Accepted wPage (Instr.paramWrite h1 (0#64) (40#32) (HostRead.data pb)) = true) ∧ ((40#32).toNat ≤ pb.length) ∧ ((frameRecs (List.take (40#32).toNat pb)).snd = none) ∧ (List.findSome? (typeRefused? (takePopped wPage h1)) (frameRecs (List.take (40#32).toNat pb)).fst = none) ∧ (firstBad? (takePopped wPage h1) (frameRecs (List.take (40#32).toNat pb)).fst = none) ∧ (conflictIndex? (takePopped wPage h1) (frameRecs (List.take (40#32).toNat pb)).fst = none)) ∧
    ((Accepted wPage (Instr.paramWrite h1 (0#64) (39#32) (HostRead.data pb)) = true) ∧ ((39#32).toNat ≤ pb.length) ∧ ((frameRecs (List.take (39#32).toNat pb)).snd = some (wParamWriteAllOrNone_0, wParamWriteAllOrNone_1))) ∧
    ((Accepted wParamWriteAllOrNone_2 (Instr.paramWrite h1 (0#64) (40#32) (HostRead.data pb)) = true) ∧ ((40#32).toNat ≤ pb.length) ∧ ((frameRecs (List.take (40#32).toNat pb)).snd = none) ∧ (List.findSome? (typeRefused? (takePopped wParamWriteAllOrNone_2 h1)) (frameRecs (List.take (40#32).toNat pb)).fst = some 8)) ∧
    ((Accepted wPage (Instr.paramWrite h1 (0#64) (40#32) (HostRead.data badRec.bytes)) = true) ∧ ((40#32).toNat ≤ badRec.bytes.length) ∧ ((frameRecs (List.take (40#32).toNat badRec.bytes)).snd = none) ∧ (List.findSome? (typeRefused? (takePopped wPage h1)) (frameRecs (List.take (40#32).toNat badRec.bytes)).fst = none) ∧ (firstBad? (takePopped wPage h1) (frameRecs (List.take (40#32).toNat badRec.bytes)).fst = some 0 ∨ firstBad? (takePopped wPage h1) (frameRecs (List.take (40#32).toNat badRec.bytes)).fst = none ∧ conflictIndex? (takePopped wPage h1) (frameRecs (List.take (40#32).toNat badRec.bytes)).fst = some 0)) ∧
    ((Accepted wPage (Instr.paramWrite h1 (0#64) (40#32) HostRead.busError) = true)) := by
  refine ⟨?_, ?_, ?_, ?_, ?_⟩
  all_goals decide +kernel

theorem witness_AppliedRecordIsHeld :
    ((gainRec.typ = 258#16) ∧ (1 < gainRec.payload.length / 2)) ∧
    ((gainRec.typ = 258#16) ∧ (63 < BitVec.toNat gainRec.target ∨ BitVec.toNat gainRec.target + gainRec.payload.length / 2 ≤ 63)) ∧
    ((gainRec.typ = 258#16) ∧ (66 < BitVec.toNat gainRec.target ∨ BitVec.toNat gainRec.target + gainRec.payload.length / 2 ≤ 66)) ∧
    ((wAppliedRecordIsHeld_7.typ ≠ 258#16)) := by
  refine ⟨?_, ?_, ?_, ?_⟩
  all_goals decide +kernel

theorem witness_ConfigurationCommandsComplete :
    ((Accepted wConfigurationCommandsComplete_8 (Instr.paramRead h1 64#64 515#16 0#32 40#32) = true) ∧ (param? wConfigurationCommandsComplete_8 (515#16).toNat (0#32).toNat = some wTiming) ∧ (wTiming.typ ≠ 258#16) ∧ (wTiming.typ ≠ 513#16) ∧ (wTiming.bytes ≠ []) ∧ (wTiming.bytes.length ≤ (40#32).toNat) ∧ (wConfigurationCommandsComplete_8.pcie.linkUp = true) ∧ (wConfigurationCommandsComplete_8.pcie.d3hot = false)) ∧
    ((Accepted wConfigurationCommandsComplete_9 (Instr.paramRead h1 64#64 515#16 0#32 39#32) = true) ∧ (param? wConfigurationCommandsComplete_9 (515#16).toNat (0#32).toNat = some wTiming) ∧ (wTiming.typ ≠ 258#16) ∧ (wTiming.typ ≠ 513#16) ∧ ((39#32).toNat < wTiming.bytes.length)) ∧
    ((Accepted wConfigurationCommandsComplete_10 (Instr.paramRead h1 64#64 258#16 64#32 4096#32) = true) ∧ (param? wConfigurationCommandsComplete_10 258 (64#32).toNat = some gainRec) ∧ ({ typ := gainRec.typ, target := gainRec.target, payload := List.flatMap (fun (j : Nat) => [sget (0#8) wConfigurationCommandsComplete_10.curves (BitVec.toNat gainRec.target + j), sget (128#8) wConfigurationCommandsComplete_10.gains (BitVec.toNat gainRec.target + j)]) (List.range (gainCount gainRec)) : ParamRec }.bytes ≠ []) ∧ ({ typ := gainRec.typ, target := gainRec.target, payload := List.flatMap (fun (j : Nat) => [sget (0#8) wConfigurationCommandsComplete_10.curves (BitVec.toNat gainRec.target + j), sget (128#8) wConfigurationCommandsComplete_10.gains (BitVec.toNat gainRec.target + j)]) (List.range (gainCount gainRec)) : ParamRec }.bytes.length ≤ (4096#32).toNat) ∧ (wConfigurationCommandsComplete_10.pcie.linkUp = true) ∧ (wConfigurationCommandsComplete_10.pcie.d3hot = false)) ∧
    ((Accepted wConfigurationCommandsComplete_11 (Instr.paramRead h1 64#64 513#16 0#32 4096#32) = true) ∧ (param? wConfigurationCommandsComplete_11 513 (0#32).toNat = some wNoz)) ∧
    ((Accepted wPage (Instr.paramRead h1 64#64 515#16 0#32 40#32) = true) ∧ (param? wPage (515#16).toNat (0#32).toNat = none) ∧ (defaultRec? wPage (515#16).toNat (0#32).toNat = some ((defaultRec? wPage 515 0).getD wTiming)) ∧ (((defaultRec? wPage 515 0).getD wTiming).bytes ≠ []) ∧ (((defaultRec? wPage 515 0).getD wTiming).bytes.length ≤ (40#32).toNat) ∧ (wPage.pcie.linkUp = true) ∧ (wPage.pcie.d3hot = false)) ∧
    ((Accepted wPage (Instr.paramRead h1 64#64 2457#16 0#32 40#32) = true) ∧ (param? wPage (2457#16).toNat (0#32).toNat = none) ∧ (defaultRec? wPage (2457#16).toNat (0#32).toNat = none)) ∧
    ((Accepted wNozS (Instr.nozzleDisable h1 0#32 8#32 1#8) = true) ∧ (((runSlots (0#32).toNat (8#32).toNat).all fun (q : Nat × Nat) => (slotCfg? wNozS q.fst q.snd).isSome) = true)) ∧
    ((Accepted wNozS (Instr.nozzleDisable h1 1000#32 8#32 0#8) = true) ∧ (((runSlots (1000#32).toNat (8#32).toNat).all fun (q : Nat × Nat) => (slotCfg? wNozS q.fst q.snd).isSome) = true)) ∧
    ((Accepted wNozS (Instr.nozzleDisable h1 2040#32 9#32 1#8) = true) ∧ (((runSlots (2040#32).toNat (9#32).toNat).all fun (q : Nat × Nat) => (slotCfg? wNozS q.fst q.snd).isSome) = false)) ∧
    ((Accepted wConfigurationCommandsComplete_12 (Instr.nozzleRead h1 0#64 0#32 8#32) = true) ∧ (0 < (8#32).toNat) ∧ (wConfigurationCommandsComplete_12.pcie.linkUp = true) ∧ (wConfigurationCommandsComplete_12.pcie.d3hot = false)) ∧
    ((Accepted wPage (Instr.ddrTune h1 1#8 1#8 2#8 2097153#32) = true) ∧ (ddrSet? (2#8).toNat 2097153#32 = some ((ddrSet? 2 2097153#32).getD id))) := by
  refine ⟨?_, ?_, ?_, ?_, ?_, ?_, ?_, ?_, ?_, ?_, ?_⟩
  · decide +kernel
  · decide +kernel
  · decide +kernel
  · decide +kernel
  · decide +kernel
  · decide +kernel
  · decide +kernel
  · decide +kernel
  · decide +kernel
  · decide +kernel
  · exact ⟨by decide +kernel, rfl⟩

theorem witness_DdrTuneFields :
    (((BitVec.extractLsb' 0 4 2155086084#32).toNat < (BitVec.extractLsb' 4 6 2155086084#32).toNat ∧ (BitVec.extractLsb' 4 6 2155086084#32).toNat < (BitVec.extractLsb' 12 8 2155086084#32).toNat ∧ BitVec.extractLsb' 20 4 2155086084#32 ≠ 0#4 ∧ BitVec.extractLsb' 24 8 2155086084#32 ≠ 0#8)) ∧
    ((¬((BitVec.extractLsb' 0 4 0#32).toNat < (BitVec.extractLsb' 4 6 0#32).toNat ∧ (BitVec.extractLsb' 4 6 0#32).toNat < (BitVec.extractLsb' 12 8 0#32).toNat ∧ BitVec.extractLsb' 20 4 0#32 ≠ 0#4 ∧ BitVec.extractLsb' 24 8 0#32 ≠ 0#8))) ∧
    ((ddrSet? 1 6146#32 = some ((ddrSet? 1 6146#32).getD id))) := by
  refine ⟨?_, ?_, ?_⟩
  · decide +kernel
  · decide +kernel
  · exact rfl

end W04

namespace W05

def wLog : State := { wUp with log := { seq := 3, ram := [⟨2, ⟨0x10, 0, 3, 2, 0, List.replicate 16 0⟩⟩] } }
def wFen : State := { wUp with fences := [(5, { st := .fenced }), (140, { st := .fenced })], clauses := [(5, { st := .fenced })] }
def pImg : List Byte :=
  let h : List Byte := [0x50, 0x41, 0x54, 0x43, 1, 1, 0, 1, 7, 0, 0, 0] ++ natLE 4 120 ++ List.replicate 12 0
  let b := h ++ natLE 4 (crc32c h).toNat ++ List.replicate 16 0
  b ++ natLE 4 (crc32c b).toNat ++ [0, 0, 0, 0] ++ (1 :: List.replicate 31 0) ++ List.replicate 32 0
def wPatch : State := { wUp with fuses := { keys := [(0, 1 :: List.replicate 31 0)] }, flash := wrFlashN [] 0x40000 pImg }
/-- The part with a unit fenced. -/
def fen (s : State) (u : FUnit) : State := changeFence s u .fenced 9
def hdS (n : Nat) : State :=
  { wUp with params := [wLinkRec], links := [(0, { st := .active, lanes := BitVec.ofNat 8 n })],
             gram := { wGram false with dma := [{ die := 0, ch := 2, use := 1, prio := 0, pz4 := false, arg := 0 }] } }
def wNoDia : State := { wUp with dia := {} }
def wCalibrationAndSensorCommands_0 : State := { wUp with part := { dies := 0 } }
def wFenceCommandsComplete_1 : State := { wUp with clauses := [(clauseIx 7 65, { st := .serving, powered := true })] }
def wFenceCommandsComplete_2 : State := { wUp with clauses := [(clauseIx 7 65, { st := .spare, powered := true })] }
def wFenceCommandsComplete_3 : State := { fen wUp (.clause 0 5) with clauses := [(5, { st := .fenced })] }
def wFenceCommandsComplete_4 : State := { fen wUp (.clause 0 5) with clauses := [(5, { st := .fencing })] }
def wFenceCommandsComplete_5 : State := { fen wUp (.lane 7 7) with lanes := [(63, { retired := true })] }
def wFenceCommandsComplete_6 : State := { fen wUp (.dma 7 31) with dma := [(255, { st := .fenced })] }
def wFenceCommandsComplete_7 : State := { fen wAxes (.axis 3) with axes := [(3, { st := .fenced, referenced := true })] }
def wFenceCommandsComplete_8 : State := { fen (hdS 1) (.head 0) with links := [(0, { st := .retired })] }
def wFlashCommandsComplete_9 : List Byte := [1, 2, 3]
def wFlashCommandsComplete_10 : HostRead := .data [1]
def wFlashCommandsComplete_11 : State := { wUp with parked := [.flashWrite h1 5 0x48000 [1, 2, 3] (List.replicate 4096 7)] }
def wFlashCommandsComplete_12 : List Byte := [1, 2, 3]
def wFlashCommandsComplete_13 : State := { wUp with parked := [.flashWrite h1 5 0x48000 [1, 2, 3] []] }
def wFlashCommandsComplete_14 : List Byte := [1, 2, 3]
def wFlashCommandsComplete_15 : State := { wUp with parked := [.imageActivate h1 5 9] }
def wFlashCommandsComplete_16 : State := { wUp with parked := [.imageActivate h1 5 9] }
def wTestCommandsComplete_17 : State := { wUp with job := some wJob }
def wTestCommandsComplete_18 : State := { wUp with clauses := [(5, { st := .serving })] }
def wTestCommandsComplete_19 : State := { wUp with marches := [(7, { busy := true })] }
def wTestCommandsComplete_20 : State := { wUp with job := some wJob }
def wTestCommandsComplete_21 : State := { wUp with ddr := [(3, { st := .active })] }
def wTestCommandsComplete_22 : State := { wUp with ddr := [(3, { st := .train })] }
def wTestCommandsComplete_23 : State := { wUp with ddr := [(3, { st := .retired })] }

theorem witness_CalibrationAndSensorCommands :
    ((Accepted wUp (Instr.calRun h1 1#8) = true) ∧ (List.flatMap (fun (i : Nat) => List.map (fun (r : Nat) => (i, r)) (calResources (risen wUp h1) i)) (if 1#8 = 0#8 then [1, 2, 3, 4] else [(1#8).toNat]) ≠ [])) ∧
    ((Accepted wCalibrationAndSensorCommands_0 (Instr.calRun h1 1#8) = true) ∧ (((if 1#8 = 0#8 then [1, 2, 3, 4] else [(1#8).toNat]).all fun (i : Nat) => (calResources (risen wCalibrationAndSensorCommands_0 h1) i).isEmpty) = true)) ∧
    ((Accepted wUp (Instr.calRead h1) = true)) ∧
    ((Accepted wUp (Instr.sensors h1 7#8) = true)) ∧
    ((Accepted wLog (Instr.eventsRead h1 64#64 0#8 2#32 1#32) = true) ∧ (eventsFrom? (risen wLog h1) (0#8 == 1#8) 2#32 = some wLog.log.ram) ∧ (wLog.log.ram ≠ []) ∧ (1#32 ≠ 0#32) ∧ ((risen wLog h1).pcie.linkUp = true) ∧ ((risen wLog h1).pcie.d3hot = false)) ∧
    ((Accepted wLog (Instr.eventsRead h1 64#64 0#8 3#32 1#32) = true) ∧ (eventsFrom? (risen wLog h1) (0#8 == 1#8) 3#32 = some [])) ∧
    ((Accepted wLog (Instr.eventsRead h1 64#64 0#8 1#32 1#32) = true) ∧ (eventsFrom? (risen wLog h1) (0#8 == 1#8) 1#32 = none)) := by
  refine ⟨?_, ?_, ?_, ?_, ?_, ?_, ?_⟩
  all_goals decide +kernel

theorem witness_FenceCommandsComplete :
    ((Accepted wUp (Instr.fenceRead h1 64#64 7#8) = true) ∧ (wUp.pcie.linkUp = true) ∧ (wUp.pcie.d3hot = false) ∧ (0 < wUp.part.dies)) ∧
    ((Accepted wUp (Instr.fenceRead h1 64#64 255#8) = true) ∧ (wUp.pcie.linkUp = true) ∧ (wUp.pcie.d3hot = false) ∧ (0 < wUp.part.dies)) ∧
    ((Accepted wUp (Instr.fence h1 1#8 7#8 65#16) = true) ∧ (unitOf? wUp (1#8).toNat (7#8).toNat (65#16).toNat = some (FUnit.clause 7 65)) ∧ (FUnit.clause 7 65 ≠ FUnit.die 0)) ∧
    ((Accepted wUp (Instr.fence h1 6#8 7#8 15#16) = true) ∧ (unitOf? wUp (6#8).toNat (7#8).toNat (15#16).toNat = some (FUnit.axis 15)) ∧ (FUnit.axis 15 ≠ FUnit.die 0)) ∧
    ((Accepted wUp (Instr.fence h1 7#8 7#8 0#16) = true) ∧ (unitOf? wUp (7#8).toNat (7#8).toNat (0#16).toNat = some (FUnit.die 7)) ∧ (FUnit.die 7 ≠ FUnit.die 0)) ∧
    ((65 < 66) ∧ ((clauseAt wFenceCommandsComplete_1 (clauseIx 7 65)).st = ClauseState.serving)) ∧
    ((65 < 66) ∧ ((clauseAt wFenceCommandsComplete_2 (clauseIx 7 65)).st = ClauseState.spare)) ∧
    (((clauseAt wFen (clauseIx 0 5)).st = ClauseState.fenced ∨ (clauseAt wFen (clauseIx 0 5)).st = ClauseState.fencing ∨ (clauseAt wFen (clauseIx 0 5)).st = ClauseState.testing)) ∧
    ((isFenced wAxes (FUnit.axis 1) = false) ∧ ((axisAt wAxes 1).st ≠ AxisState.fenced) ∧ (dieLive wAxes (1 / 2) = true)) ∧
    ((0 < 7) ∧ (dieLive wUp 7 = true)) ∧
    ((Accepted wUp (Instr.fence h1 7#8 0#8 0#16) = true)) ∧
    ((Accepted wUp (Instr.fence h1 6#8 1#8 0#16) = true) ∧ (unitOf? wUp (6#8).toNat (1#8).toNat (0#16).toNat = none)) ∧
    ((Accepted wFenceCommandsComplete_3 (Instr.unfence h1 1#8 0#8 5#16) = true) ∧ (isFenced (risen wFenceCommandsComplete_3 h1) (FUnit.clause (0#8).toNat (5#16).toNat) = true) ∧ (isFenced (risen wFenceCommandsComplete_3 h1) (FUnit.die (0#8).toNat) = false) ∧ ((clauseAt (risen wFenceCommandsComplete_3 h1) (clauseIx (0#8).toNat (5#16).toNat)).st ≠ ClauseState.fencing)) ∧
    ((Accepted wFenceCommandsComplete_4 (Instr.unfence h1 1#8 0#8 5#16) = true) ∧ (isFenced (risen wFenceCommandsComplete_4 h1) (FUnit.clause (0#8).toNat (5#16).toNat) = true) ∧ (isFenced (risen wFenceCommandsComplete_4 h1) (FUnit.die (0#8).toNat) = false) ∧ ((clauseAt (risen wFenceCommandsComplete_4 h1) (clauseIx (0#8).toNat (5#16).toNat)).st = ClauseState.fencing)) ∧
    ((Accepted wUp (Instr.unfence h1 5#8 0#8 3#16) = true) ∧ (unitOf? (risen wUp h1) (5#8).toNat (0#8).toNat (3#16).toNat = some (FUnit.dma 0 3)) ∧ (isFenced (risen wUp h1) (FUnit.dma 0 3) = false)) ∧
    ((Accepted wUp (Instr.unfence h1 4#8 0#8 1#16) = true) ∧ (4#8 = 4#8 ∨ 4#8 = 7#8)) ∧
    ((Accepted wUp (Instr.unfence h1 7#8 3#8 0#16) = true) ∧ (7#8 = 4#8 ∨ 7#8 = 7#8)) ∧
    ((Accepted wFenceCommandsComplete_5 (Instr.unfence h1 2#8 7#8 7#16) = true) ∧ (isFenced (risen wFenceCommandsComplete_5 h1) (FUnit.lane (7#8).toNat (7#16).toNat) = true) ∧ (isFenced (risen wFenceCommandsComplete_5 h1) (FUnit.die (7#8).toNat) = false)) ∧
    ((Accepted wFenceCommandsComplete_6 (Instr.unfence h1 5#8 7#8 31#16) = true) ∧ (isFenced (risen wFenceCommandsComplete_6 h1) (FUnit.dma (7#8).toNat (31#16).toNat) = true) ∧ (isFenced (risen wFenceCommandsComplete_6 h1) (FUnit.die (7#8).toNat) = false)) ∧
    ((Accepted wFenceCommandsComplete_7 (Instr.unfence h1 6#8 1#8 3#16) = true) ∧ ((3#16).toNat / 2 = (1#8).toNat) ∧ (isFenced (risen wFenceCommandsComplete_7 h1) (FUnit.axis (3#16).toNat) = true) ∧ (isFenced (risen wFenceCommandsComplete_7 h1) (FUnit.die (1#8).toNat) = false)) ∧
    ((Accepted (fen (hdS 1) (FUnit.head 0)) (Instr.unfence h1 3#8 0#8 0#16) = true) ∧ (headDie? (risen (fen (hdS 1) (FUnit.head 0)) h1) (0#16).toNat = some (0#8).toNat) ∧ (isFenced (risen (fen (hdS 1) (FUnit.head 0)) h1) (FUnit.head (0#16).toNat) = true) ∧ (isFenced (risen (fen (hdS 1) (FUnit.head 0)) h1) (FUnit.die (0#8).toNat) = false) ∧ (headReturns (risen (fen (hdS 1) (FUnit.head 0)) h1) (0#16).toNat = true)) ∧
    ((Accepted wFenceCommandsComplete_8 (Instr.unfence h1 3#8 0#8 0#16) = true) ∧ (headDie? (risen wFenceCommandsComplete_8 h1) (0#16).toNat = some (0#8).toNat) ∧ (isFenced (risen wFenceCommandsComplete_8 h1) (FUnit.head (0#16).toNat) = true) ∧ (isFenced (risen wFenceCommandsComplete_8 h1) (FUnit.die (0#8).toNat) = false) ∧ (headReturns (risen wFenceCommandsComplete_8 h1) (0#16).toNat = false)) := by
  refine ⟨?_, ?_, ?_, ?_, ?_, ?_, ?_, ?_, ?_, ?_, ?_, ?_, ?_, ?_, ?_, ?_, ?_, ?_, ?_, ?_, ?_, ?_⟩
  all_goals decide +kernel

theorem witness_FlashCommandsComplete :
    ((Accepted wUp (Instr.flashWrite h1 (0#64) (5#8) (0#32) (3#32) (HostRead.data wFlashCommandsComplete_9)) = true) ∧ (regionHeld wUp (5#8).toNat = false) ∧ ((3#32).toNat ≤ wFlashCommandsComplete_9.length)) ∧
    ((Accepted wUp (Instr.flashWrite h1 (0#64) (5#8) (0#32) (3#32) HostRead.busError) = true) ∧ (regionHeld wUp (5#8).toNat = false) ∧ (HostRead.busError = HostRead.busError ∨ ∃ (bs : List Byte), HostRead.busError = HostRead.data bs ∧ bs.length < (3#32).toNat)) ∧
    ((Accepted wUp (Instr.flashWrite h1 (0#64) (5#8) (0#32) (3#32) wFlashCommandsComplete_10) = true) ∧ (regionHeld wUp (5#8).toNat = false) ∧ (wFlashCommandsComplete_10 = HostRead.busError ∨ ∃ (bs : List Byte), wFlashCommandsComplete_10 = HostRead.data bs ∧ bs.length < (3#32).toNat)) ∧
    ((Accepted wUp (Instr.flashWrite h1 (0#64) (0#8) (0#32) (3#32) HostRead.busError) = true) ∧ (regionHeld wUp (0#8).toNat = true)) ∧
    ((Accepted wPatch (Instr.flashRead h1 64#64 4#8 0#32 8#32) = true) ∧ (wPatch.pcie.linkUp = true) ∧ (wPatch.pcie.d3hot = false)) ∧
    ((Accepted wPatch (Instr.imageActivate h1 4#8) = true) ∧ (patchOk? wPatch (4#8).toNat = some pImg)) ∧
    ((Accepted wUp (Instr.imageActivate h1 4#8) = true) ∧ (patchOk? wUp (4#8).toNat = none)) ∧
    ((wFlashCommandsComplete_11.parked = [Parked.flashWrite h1 5 294912 wFlashCommandsComplete_12 (List.replicate 4096 7#8)]) ∧ (([].all fun (p : Parked) => !p.isActivate) = true) ∧ (wFlashCommandsComplete_12 ≠ [])) ∧
    ((wFlashCommandsComplete_13.parked = [Parked.flashWrite h1 5 294912 wFlashCommandsComplete_14 []]) ∧ (([].all fun (p : Parked) => !p.isActivate) = true)) ∧
    ((wFlashCommandsComplete_15.parked = [Parked.imageActivate h1 5 9])) ∧
    ((wFlashCommandsComplete_16.parked = [Parked.imageActivate h1 5 9])) := by
  refine ⟨?_, ?_, ?_, ?_, ?_, ?_, ?_, ?_, ?_, ?_, ?_⟩
  · decide +kernel
  · exact ⟨by decide +kernel, by decide +kernel, Or.inl rfl⟩
  · exact ⟨by decide +kernel, by decide +kernel, Or.inr ⟨_, rfl, by decide +kernel⟩⟩
  · decide +kernel
  · decide +kernel
  · decide +kernel
  · decide +kernel
  · decide +kernel
  · decide +kernel
  · decide +kernel
  · decide +kernel

theorem witness_TestCommandsComplete :
    ((Accepted wUp (Instr.march h1 0#8 7#8 31#8 1#8) = true) ∧ (jobOpen wUp = false ∨ 0#8 = 0#8 ∧ 1#8 = 1#8) ∧ (dieLive (risen wUp h1) (7#8).toNat = true) ∧ ((marchAt (risen wUp h1) (7#8).toNat).busy = false) ∧ (((risen wUp h1).parked.all fun (p : Parked) => !Parked.isMarch (7#8).toNat p) = true) ∧ (if 0#8 = 1#8 then (clauseAt (risen wUp h1) (clauseIx (7#8).toNat (31#8).toNat)).st ≠ ClauseState.serving ∧ (clauseAt (risen wUp h1) (clauseIx (7#8).toNat (31#8).toNat)).st ≠ ClauseState.fencing else 1#8 = 1#8 ∨ (risen wUp h1).dia.valid = false)) ∧
    ((Accepted wUp (Instr.march h1 1#8 7#8 65#8 0#8) = true) ∧ (jobOpen wUp = false ∨ 1#8 = 0#8 ∧ 0#8 = 1#8) ∧ (dieLive (risen wUp h1) (7#8).toNat = true) ∧ ((marchAt (risen wUp h1) (7#8).toNat).busy = false) ∧ (((risen wUp h1).parked.all fun (p : Parked) => !Parked.isMarch (7#8).toNat p) = true) ∧ (if 1#8 = 1#8 then (clauseAt (risen wUp h1) (clauseIx (7#8).toNat (65#8).toNat)).st ≠ ClauseState.serving ∧ (clauseAt (risen wUp h1) (clauseIx (7#8).toNat (65#8).toNat)).st ≠ ClauseState.fencing else 0#8 = 1#8 ∨ (risen wUp h1).dia.valid = false)) ∧
    ((Accepted wTestCommandsComplete_17 (Instr.march h1 0#8 7#8 31#8 1#8) = true) ∧ (jobOpen wTestCommandsComplete_17 = false ∨ 0#8 = 0#8 ∧ 1#8 = 1#8) ∧ (dieLive (risen wTestCommandsComplete_17 h1) (7#8).toNat = true) ∧ ((marchAt (risen wTestCommandsComplete_17 h1) (7#8).toNat).busy = false) ∧ (((risen wTestCommandsComplete_17 h1).parked.all fun (p : Parked) => !Parked.isMarch (7#8).toNat p) = true) ∧ (if 0#8 = 1#8 then (clauseAt (risen wTestCommandsComplete_17 h1) (clauseIx (7#8).toNat (31#8).toNat)).st ≠ ClauseState.serving ∧ (clauseAt (risen wTestCommandsComplete_17 h1) (clauseIx (7#8).toNat (31#8).toNat)).st ≠ ClauseState.fencing else 1#8 = 1#8 ∨ (risen wTestCommandsComplete_17 h1).dia.valid = false)) ∧
    ((Accepted wNoDia (Instr.march h1 2#8 7#8 0#8 0#8) = true) ∧ (jobOpen wNoDia = false ∨ 2#8 = 0#8 ∧ 0#8 = 1#8) ∧ (dieLive (risen wNoDia h1) (7#8).toNat = true) ∧ ((marchAt (risen wNoDia h1) (7#8).toNat).busy = false) ∧ (((risen wNoDia h1).parked.all fun (p : Parked) => !Parked.isMarch (7#8).toNat p) = true) ∧ (if 2#8 = 1#8 then (clauseAt (risen wNoDia h1) (clauseIx (7#8).toNat (0#8).toNat)).st ≠ ClauseState.serving ∧ (clauseAt (risen wNoDia h1) (clauseIx (7#8).toNat (0#8).toNat)).st ≠ ClauseState.fencing else 0#8 = 1#8 ∨ (risen wNoDia h1).dia.valid = false)) ∧
    ((Accepted wUp (Instr.march h1 2#8 7#8 0#8 0#8) = true) ∧ (jobOpen wUp = false ∨ 2#8 = 0#8 ∧ 0#8 = 1#8) ∧ (dieLive (risen wUp h1) (7#8).toNat = true) ∧ ((marchAt (risen wUp h1) (7#8).toNat).busy = false) ∧ (((risen wUp h1).parked.all fun (p : Parked) => !Parked.isMarch (7#8).toNat p) = true) ∧ (if 2#8 = 1#8 then (clauseAt (risen wUp h1) (clauseIx (7#8).toNat (0#8).toNat)).st = ClauseState.serving ∨ (clauseAt (risen wUp h1) (clauseIx (7#8).toNat (0#8).toNat)).st = ClauseState.fencing else 0#8 = 0#8 ∧ (risen wUp h1).dia.valid = true)) ∧
    ((Accepted wTestCommandsComplete_18 (Instr.march h1 1#8 0#8 5#8 1#8) = true) ∧ (jobOpen wTestCommandsComplete_18 = false ∨ 1#8 = 0#8 ∧ 1#8 = 1#8) ∧ (dieLive (risen wTestCommandsComplete_18 h1) (0#8).toNat = true) ∧ ((marchAt (risen wTestCommandsComplete_18 h1) (0#8).toNat).busy = false) ∧ (((risen wTestCommandsComplete_18 h1).parked.all fun (p : Parked) => !Parked.isMarch (0#8).toNat p) = true) ∧ (if 1#8 = 1#8 then (clauseAt (risen wTestCommandsComplete_18 h1) (clauseIx (0#8).toNat (5#8).toNat)).st = ClauseState.serving ∨ (clauseAt (risen wTestCommandsComplete_18 h1) (clauseIx (0#8).toNat (5#8).toNat)).st = ClauseState.fencing else 1#8 = 0#8 ∧ (risen wTestCommandsComplete_18 h1).dia.valid = true)) ∧
    ((Accepted wTestCommandsComplete_19 (Instr.march h1 1#8 7#8 65#8 0#8) = true) ∧ (jobOpen wTestCommandsComplete_19 = false ∨ 1#8 = 0#8 ∧ 0#8 = 1#8) ∧ (dieLive (risen wTestCommandsComplete_19 h1) (7#8).toNat = true) ∧ ((marchAt (risen wTestCommandsComplete_19 h1) (7#8).toNat).busy = true)) ∧
    ((Accepted wTestCommandsComplete_20 (Instr.march h1 1#8 3#8 65#8 1#8) = true) ∧ (jobOpen wTestCommandsComplete_20 = true) ∧ (1#8 ≠ 0#8 ∨ 1#8 ≠ 1#8)) ∧
    ((Accepted wTestCommandsComplete_21 (Instr.ddrRetrain h1 1#8 1#8) = true) ∧ ((ddrAt (risen wTestCommandsComplete_21 h1) (2 * (1#8).toNat + (1#8).toNat)).st = DdrState.active)) ∧
    ((Accepted wTestCommandsComplete_22 (Instr.ddrRetrain h1 1#8 1#8) = true) ∧ ((ddrAt (risen wTestCommandsComplete_22 h1) (2 * (1#8).toNat + (1#8).toNat)).st = DdrState.retrain ∨ (ddrAt (risen wTestCommandsComplete_22 h1) (2 * (1#8).toNat + (1#8).toNat)).st = DdrState.train)) ∧
    ((Accepted wTestCommandsComplete_23 (Instr.ddrRetrain h1 1#8 1#8) = true) ∧ ((ddrAt (risen wTestCommandsComplete_23 h1) (2 * (1#8).toNat + (1#8).toNat)).st = DdrState.retired)) := by
  refine ⟨?_, ?_, ?_, ?_, ?_, ?_, ?_, ?_, ?_, ?_, ?_⟩
  all_goals decide +kernel

end W05

namespace W06

def ar0 : AxisRec := axisRecOf (wAxisPay 0)
def ar1 : AxisRec := axisRecOf (wAxisPay 1)
def sr0 : SvcRec := svcRecOf wSvcRec.payload
def mv : Axis := { st := .move, referenced := true, goal := .target, target := 1000 * 2 ^ 64, vel := 2 ^ 64 }
def wMove : State := { wAxes with params := [wAxisRec 5 0, wAxisRec 6 1], axes := [(5, mv)] }
def wGrp (g : GrpState) : State := { wAxes with svc := [(0, { st := g })] }
/-- The group's head channel prints in the open job. -/
def wCov : State := { wAxes with params := wNoz :: wLinkRec :: wAxes.params, gram := wGram false, job := some wJob }
def wBusyAx : State := { wAxes with axes := [(0, { st := .hold, referenced := true, group := some 0 })] }
def wLim : State := { wAxes with axes := [(0, { st := .hold, referenced := true, limP := true })] }
def stp (s : List SvcStep) : State := { wAxes with svc := [(0, { st := .running, steps := s })] }
def spitS (n k : Nat) (ok : Bool) : State :=
  let l : HeadLine := { line := k, spit := true, done := ok }
  { wAxes with params := [wSvcRec, wLinkRec], links := [(0, { st := .active })], heads := [(0, { lines := [l] })], parked := [.service h1 0],
               svc := [(0, { st := .running, steps := [.spit n], endState := .service, spitLine := k })] }
def wAxisCommandsComplete_0 : State := { wUp with params := [wAxisRec 15 1] }
def wAxisCommandsComplete_1 : State := { wUp with params := [wAxisRec 3 0, wSvcRec], axes := [(3, { st := .off })] }
def wAxisCommandsComplete_2 : State := { wMove with parked := [.axis h1 5 0x0803] }
def wServiceStepsRun_3 : State := stp [.moveTo 1 500 1]
def wServiceStepsRun_4 : State := stp [.moveTo 1 0 1, .dwell]
def wServiceStepsRun_5 : List SvcStep := [.dwell]
def wServiceStepsRun_6 : State := { stp [.moveTo 0 500 1] with axes := wLim.axes }
def wServiceStepsRun_7 : State := stp [.homeAxis 0]
def wServiceStepsRun_8 : State := { stp [.homeAxis 0] with axes := [] }
def wServiceStepsRun_9 : State := stp [.zeroPump 3, .dwell]
def wServiceStepsRun_10 : List SvcStep := [.dwell]
def wServiceStepsRun_11 : State := stp [.spit 4]
def wServiceStepsRun_12 : State := { stp [] with parked := [.service h1 0] }
def wServiceStepsRun_13 : State := { stp [.dwell] with parked := [.service h1 0] }
def wAxisTicksAndCounts_15 : State := { wMove with axes := [(5, { mv with target := 2 ^ 56, pos := 2 ^ 56, vel := 0 })], parked := [.axis h1 5 0x0803] }
def wAxisInputsTakeEffect_16 : State := { wMove with axes := [(5, { mv with st := .homing, goal := .home 1 })] }
def wAxisInputsTakeEffect_17 : State := { wMove with axes := [(5, { mv with vel := -5 })] }
def wAxisInputsTakeEffect_18 : State := { wMove with axes := [(5, { mv with trans := List.replicate 8 (1, 900) })] }
def wStallsAndRepeats_19 : State := { wMove with axes := [(5, { mv with overTicks := 200, cnt := 77 })] }
def wStallsAndRepeats_20 : State := { wMove with axes := [(5, { mv with overTicks := 200, repeating := true })] }
def wStallsAndRepeats_21 : State := { wMove with axes := [(6, { mv with st := .homing, goal := .seek, overTicks := 200 })] }
def wStallsAndRepeats_22 : State := { wMove with axes := [(5, { mv with st := .stalled, repeat_ := some (5, 1) })] }

theorem witness_AxisCommandsComplete :
    ((Accepted wAxes (Instr.axisHome h1 2#8) = true) ∧ (axisCovered (risen wAxes h1) (2#8).toNat = false) ∧ (axisBusy (risen wAxes h1) (2#8).toNat = false) ∧ (axisRec? (risen wAxes h1) (2#8).toNat = some ar0) ∧ ((axisAt (risen wAxes h1) (2#8).toNat).st ≠ AxisState.fenced)) ∧
    ((Accepted wAxisCommandsComplete_0 (Instr.axisHome h1 15#8) = true) ∧ (axisCovered (risen wAxisCommandsComplete_0 h1) (15#8).toNat = false) ∧ (axisBusy (risen wAxisCommandsComplete_0 h1) (15#8).toNat = false) ∧ (axisRec? (risen wAxisCommandsComplete_0 h1) (15#8).toNat = some ar1) ∧ ((axisAt (risen wAxisCommandsComplete_0 h1) (15#8).toNat).st ≠ AxisState.fenced)) ∧
    ((Accepted wAxes (Instr.axisMove h1 0#8 1#8 100000#32) = true) ∧ (axisRec? (risen wAxes h1) (0#8).toNat = some ar0) ∧ ((1#8).toNat < ar0.nprof) ∧ (isPump (risen wAxes h1) (0#8).toNat = true ∨ ar0.softMin ≤ (100000#32).toInt ∧ (100000#32).toInt ≤ ar0.softMax) ∧ (axisCovered (risen wAxes h1) (0#8).toNat = false) ∧ (axisBusy (risen wAxes h1) (0#8).toNat = false) ∧ ((axisAt (risen wAxes h1) (0#8).toNat).st = AxisState.hold ∨ (axisAt (risen wAxes h1) (0#8).toNat).st = AxisState.off ∨ (axisAt (risen wAxes h1) (0#8).toNat).st = AxisState.stalled) ∧ (isPump (risen wAxes h1) (0#8).toNat = true ∨ (axisAt (risen wAxes h1) (0#8).toNat).referenced = true) ∧ (limitBlocks (axisAt (risen wAxes h1) (0#8).toNat) (100000#32).toInt = false)) ∧
    ((Accepted wAxisCommandsComplete_1 (Instr.axisMove h1 3#8 0#8 2147483647#32) = true) ∧ (axisRec? (risen wAxisCommandsComplete_1 h1) (3#8).toNat = some ar0) ∧ ((0#8).toNat < ar0.nprof) ∧ (isPump (risen wAxisCommandsComplete_1 h1) (3#8).toNat = true ∨ ar0.softMin ≤ (2147483647#32).toInt ∧ (2147483647#32).toInt ≤ ar0.softMax) ∧ (axisCovered (risen wAxisCommandsComplete_1 h1) (3#8).toNat = false) ∧ (axisBusy (risen wAxisCommandsComplete_1 h1) (3#8).toNat = false) ∧ ((axisAt (risen wAxisCommandsComplete_1 h1) (3#8).toNat).st = AxisState.hold ∨ (axisAt (risen wAxisCommandsComplete_1 h1) (3#8).toNat).st = AxisState.off ∨ (axisAt (risen wAxisCommandsComplete_1 h1) (3#8).toNat).st = AxisState.stalled) ∧ (isPump (risen wAxisCommandsComplete_1 h1) (3#8).toNat = true ∨ (axisAt (risen wAxisCommandsComplete_1 h1) (3#8).toNat).referenced = true) ∧ (limitBlocks (axisAt (risen wAxisCommandsComplete_1 h1) (3#8).toNat) (2147483647#32).toInt = false)) ∧
    ((Accepted wMove (Instr.axisMove h1 5#8 0#8 5#32) = true) ∧ (axisRec? (risen wMove h1) (5#8).toNat = some ar0) ∧ ((0#8).toNat < ar0.nprof) ∧ (isPump (risen wMove h1) (5#8).toNat = true ∨ ar0.softMin ≤ (5#32).toInt ∧ (5#32).toInt ≤ ar0.softMax) ∧ (axisCovered (risen wMove h1) (5#8).toNat = false) ∧ (axisBusy (risen wMove h1) (5#8).toNat = false) ∧ ((axisAt (risen wMove h1) (5#8).toNat).st = AxisState.move ∨ (axisAt (risen wMove h1) (5#8).toNat).st = AxisState.stopping) ∧ (isPump (risen wMove h1) (5#8).toNat = true ∨ (axisAt (risen wMove h1) (5#8).toNat).referenced = true ∧ posU ar0.softMin ≤ brakeAt ar0 (axisAt (risen wMove h1) (5#8).toNat) (0#8).toNat ∧ brakeAt ar0 (axisAt (risen wMove h1) (5#8).toNat) (0#8).toNat ≤ posU ar0.softMax) ∧ (limitBlocks (axisAt (risen wMove h1) (5#8).toNat) (5#32).toInt = false)) ∧
    ((Accepted wMove (Instr.axisMove h1 5#8 0#8 99999#32) = true) ∧ (axisRec? (risen wMove h1) (5#8).toNat = some ar0) ∧ ((0#8).toNat < ar0.nprof) ∧ (isPump (risen wMove h1) (5#8).toNat = true ∨ ar0.softMin ≤ (99999#32).toInt ∧ (99999#32).toInt ≤ ar0.softMax) ∧ (axisCovered (risen wMove h1) (5#8).toNat = false) ∧ (axisBusy (risen wMove h1) (5#8).toNat = false) ∧ ((axisAt (risen wMove h1) (5#8).toNat).st = AxisState.move ∨ (axisAt (risen wMove h1) (5#8).toNat).st = AxisState.stopping) ∧ (isPump (risen wMove h1) (5#8).toNat = true ∨ (axisAt (risen wMove h1) (5#8).toNat).referenced = true ∧ posU ar0.softMin ≤ brakeAt ar0 (axisAt (risen wMove h1) (5#8).toNat) (0#8).toNat ∧ brakeAt ar0 (axisAt (risen wMove h1) (5#8).toNat) (0#8).toNat ≤ posU ar0.softMax) ∧ (limitBlocks (axisAt (risen wMove h1) (5#8).toNat) (99999#32).toInt = false)) ∧
    ((Accepted wAxes (Instr.axisMove h1 0#8 1#8 100001#32) = true) ∧ (axisRec? (risen wAxes h1) (0#8).toNat = some ar0) ∧ (ar0.nprof ≤ (1#8).toNat ∨ isPump (risen wAxes h1) (0#8).toNat = false ∧ ((100001#32).toInt < ar0.softMin ∨ ar0.softMax < (100001#32).toInt))) ∧
    ((Accepted wAxes (Instr.axisMove h1 3#8 2#8 0#32) = true) ∧ (axisRec? (risen wAxes h1) (3#8).toNat = some ar0) ∧ (ar0.nprof ≤ (2#8).toNat ∨ isPump (risen wAxes h1) (3#8).toNat = false ∧ ((0#32).toInt < ar0.softMin ∨ ar0.softMax < (0#32).toInt))) ∧
    ((Accepted wCov (Instr.axisMove h1 0#8 1#8 100#32) = true) ∧ (axisRec? (risen wCov h1) (0#8).toNat = some ar0) ∧ ((1#8).toNat < ar0.nprof) ∧ (isPump (risen wCov h1) (0#8).toNat = true ∨ ar0.softMin ≤ (100#32).toInt ∧ (100#32).toInt ≤ ar0.softMax) ∧ (axisCovered (risen wCov h1) (0#8).toNat = true)) ∧
    ((Accepted wBusyAx (Instr.axisMove h1 0#8 1#8 100#32) = true) ∧ (axisRec? (risen wBusyAx h1) (0#8).toNat = some ar0) ∧ ((1#8).toNat < ar0.nprof) ∧ (isPump (risen wBusyAx h1) (0#8).toNat = true ∨ ar0.softMin ≤ (100#32).toInt ∧ (100#32).toInt ≤ ar0.softMax) ∧ (axisCovered (risen wBusyAx h1) (0#8).toNat = false) ∧ (axisBusy (risen wBusyAx h1) (0#8).toNat = true)) ∧
    ((Accepted wLim (Instr.axisMove h1 0#8 1#8 100#32) = true) ∧ (axisRec? (risen wLim h1) (0#8).toNat = some ar0) ∧ ((1#8).toNat < ar0.nprof) ∧ (isPump (risen wLim h1) (0#8).toNat = true ∨ ar0.softMin ≤ (100#32).toInt ∧ (100#32).toInt ≤ ar0.softMax) ∧ (axisCovered (risen wLim h1) (0#8).toNat = false) ∧ (axisBusy (risen wLim h1) (0#8).toNat = false) ∧ ((axisAt (risen wLim h1) (0#8).toNat).st = AxisState.fenced ∨ isPump (risen wLim h1) (0#8).toNat = false ∧ (axisAt (risen wLim h1) (0#8).toNat).referenced = false ∨ limitBlocks (axisAt (risen wLim h1) (0#8).toNat) (100#32).toInt = true)) ∧
    ((Accepted wCov (Instr.axisHome h1 0#8) = true) ∧ (axisCovered (risen wCov h1) (0#8).toNat = true)) ∧
    ((Accepted wBusyAx (Instr.axisHome h1 0#8) = true) ∧ (axisCovered (risen wBusyAx h1) (0#8).toNat = false) ∧ (axisBusy (risen wBusyAx h1) (0#8).toNat = true)) ∧
    ((Accepted wAxes (Instr.axisHome h1 7#8) = true) ∧ (axisCovered (risen wAxes h1) (7#8).toNat = false) ∧ (axisBusy (risen wAxes h1) (7#8).toNat = false) ∧ (axisRec? (risen wAxes h1) (7#8).toNat = none ∨ (axisAt (risen wAxes h1) (7#8).toNat).st = AxisState.fenced)) ∧
    ((Accepted wAxes (Instr.axisMove h1 7#8 0#8 0#32) = true) ∧ (axisRec? (risen wAxes h1) (7#8).toNat = none)) ∧
    ((Accepted wMove (Instr.axisStopDecelerate h1 5#8) = true) ∧ (5#8 ≠ 255#8) ∧ ((axisRec? wMove (5#8).toNat).isSome = true)) ∧
    ((Accepted wMove (Instr.axisStopHold h1 5#8) = true) ∧ (5#8 ≠ 255#8) ∧ ((axisRec? wMove (5#8).toNat).isSome = true)) ∧
    ((Accepted wMove (Instr.axisStopDecelerate h1 255#8) = true)) ∧
    ((Accepted wMove (Instr.axisStopHold h1 255#8) = true)) ∧
    ((7#8 ≠ 255#8) ∧ (axisRec? wAxes (7#8).toNat = none) ∧ (Accepted wAxes (Instr.axisStopDecelerate h1 7#8) = true)) ∧
    ((7#8 ≠ 255#8) ∧ (axisRec? wAxes (7#8).toNat = none) ∧ (Accepted wAxes (Instr.axisStopHold h1 7#8) = true)) ∧
    ((axisRec? wMove 5 = some ar0) ∧ ((axisAt wMove 5).moving = true)) ∧
    (((axisAt wAxes 1).moving = false) ∧ ((axisAt wAxes 1).st ≠ AxisState.stalled)) ∧
    (((axisAt wMove 5).st ≠ AxisState.off) ∧ ((axisAt wMove 5).st ≠ AxisState.fenced)) ∧
    (((axisAt wUp 5).st = AxisState.off ∨ (axisAt wUp 5).st = AxisState.fenced)) ∧
    ((List.find? (Parked.isAxis 5) wAxisCommandsComplete_2.parked = some (Parked.axis h1 5 2051))) ∧
    ((List.find? (Parked.isAxis 5) wMove.parked = none)) ∧
    (((axisAt wBusyAx 0).group = some 0)) ∧
    (((axisAt wMove 5).group = none)) := by
  refine ⟨?_, ?_, ?_, ?_, ?_, ?_, ?_, ?_, ?_, ?_, ?_, ?_, ?_, ?_, ?_, ?_, ?_, ?_, ?_, ?_, ?_, ?_, ?_, ?_, ?_, ?_, ?_, ?_, ?_⟩
  all_goals decide +kernel

theorem witness_ServicesStartTheirSteps :
    ((Accepted (wGrp GrpState.print) (Instr.cap h1 0#16 0#32) = true) ∧ (svcRec? (risen (wGrp GrpState.print) h1) (0#16).toNat = some sr0) ∧ (svcReady (risen (wGrp GrpState.print) h1) (0#16).toNat sr0 [sr0.lift, sr0.cap] = true)) ∧
    ((Accepted (wGrp GrpState.unknown) (Instr.cap h1 0#16 0#32) = true) ∧ (svcRec? (risen (wGrp GrpState.unknown) h1) (0#16).toNat = some sr0) ∧ (svcReady (risen (wGrp GrpState.unknown) h1) (0#16).toNat sr0 [sr0.lift, sr0.cap] = true)) ∧
    ((Accepted (wGrp GrpState.capped) (Instr.uncap h1 0#16 0#32) = true) ∧ (svcRec? (risen (wGrp GrpState.capped) h1) (0#16).toNat = some sr0) ∧ (svcReady (risen (wGrp GrpState.capped) h1) (0#16).toNat sr0 [sr0.lift, sr0.cap] = true)) ∧
    ((Accepted (wGrp GrpState.capped) (Instr.wipe h1 0#16 16#32) = true) ∧ (svcRec? (risen (wGrp GrpState.capped) h1) (0#16).toNat = some sr0) ∧ (svcReady (risen (wGrp GrpState.capped) h1) (0#16).toNat sr0 ([sr0.lift, sr0.wiper] ++ if ((svcAt (risen (wGrp GrpState.capped) h1) (0#16).toNat).st == GrpState.unknown || (svcAt (risen (wGrp GrpState.capped) h1) (0#16).toNat).st == GrpState.failed || (svcAt (risen (wGrp GrpState.capped) h1) (0#16).toNat).st == GrpState.capped) = true then [sr0.cap] else []) = true)) ∧
    ((Accepted (wGrp GrpState.service) (Instr.wipe h1 0#16 0#32) = true) ∧ (svcRec? (risen (wGrp GrpState.service) h1) (0#16).toNat = some sr0) ∧ (svcReady (risen (wGrp GrpState.service) h1) (0#16).toNat sr0 ([sr0.lift, sr0.wiper] ++ if ((svcAt (risen (wGrp GrpState.service) h1) (0#16).toNat).st == GrpState.unknown || (svcAt (risen (wGrp GrpState.service) h1) (0#16).toNat).st == GrpState.failed || (svcAt (risen (wGrp GrpState.service) h1) (0#16).toNat).st == GrpState.capped) = true then [sr0.cap] else []) = true)) ∧
    ((Accepted (wGrp GrpState.service) (Instr.spit h1 0#16 0#32) = true) ∧ (svcRec? (risen (wGrp GrpState.service) h1) (0#16).toNat = some sr0) ∧ (svcReady (risen (wGrp GrpState.service) h1) (0#16).toNat sr0 [] = true) ∧ (jobOpen (risen (wGrp GrpState.service) h1) = false) ∧ ((svcAt (risen (wGrp GrpState.service) h1) (0#16).toNat).st = GrpState.capped ∨ (svcAt (risen (wGrp GrpState.service) h1) (0#16).toNat).st = GrpState.service)) ∧
    ((Accepted (wGrp GrpState.capped) (Instr.spit h1 0#16 65535#32) = true) ∧ (svcRec? (risen (wGrp GrpState.capped) h1) (0#16).toNat = some sr0) ∧ (svcReady (risen (wGrp GrpState.capped) h1) (0#16).toNat sr0 [] = true) ∧ (jobOpen (risen (wGrp GrpState.capped) h1) = false) ∧ ((svcAt (risen (wGrp GrpState.capped) h1) (0#16).toNat).st = GrpState.capped ∨ (svcAt (risen (wGrp GrpState.capped) h1) (0#16).toNat).st = GrpState.service)) ∧
    ((Accepted (wGrp GrpState.capped) (Instr.purge h1 0#16 16#32) = true) ∧ (svcRec? (risen (wGrp GrpState.capped) h1) (0#16).toNat = some sr0) ∧ (svcReady (risen (wGrp GrpState.capped) h1) (0#16).toNat sr0 [sr0.pump] = true) ∧ ((svcAt (risen (wGrp GrpState.capped) h1) (0#16).toNat).st = GrpState.capped)) ∧
    ((Accepted (wGrp GrpState.print) (Instr.headLift h1 0#16 1#32) = true) ∧ (svcRec? (risen (wGrp GrpState.print) h1) (0#16).toNat = some sr0) ∧ (svcReady (risen (wGrp GrpState.print) h1) (0#16).toNat sr0 ([sr0.lift] ++ if ((svcAt (risen (wGrp GrpState.print) h1) (0#16).toNat).st == GrpState.unknown) = true then [sr0.cap] else []) = true) ∧ ((svcAt (risen (wGrp GrpState.print) h1) (0#16).toNat).st = GrpState.print ∨ (svcAt (risen (wGrp GrpState.print) h1) (0#16).toNat).st = GrpState.service ∨ ((svcAt (risen (wGrp GrpState.print) h1) (0#16).toNat).st == GrpState.unknown) = true)) ∧
    ((Accepted (wGrp GrpState.unknown) (Instr.headLift h1 0#16 0#32) = true) ∧ (svcRec? (risen (wGrp GrpState.unknown) h1) (0#16).toNat = some sr0) ∧ (svcReady (risen (wGrp GrpState.unknown) h1) (0#16).toNat sr0 ([sr0.lift] ++ if ((svcAt (risen (wGrp GrpState.unknown) h1) (0#16).toNat).st == GrpState.unknown) = true then [sr0.cap] else []) = true) ∧ ((svcAt (risen (wGrp GrpState.unknown) h1) (0#16).toNat).st = GrpState.print ∨ (svcAt (risen (wGrp GrpState.unknown) h1) (0#16).toNat).st = GrpState.service ∨ ((svcAt (risen (wGrp GrpState.unknown) h1) (0#16).toNat).st == GrpState.unknown) = true)) ∧
    ((isSvcCmd (Instr.wipe h1 0#16 1#32) h1 0#16) ∧ (Accepted wCov (Instr.wipe h1 0#16 1#32) = true) ∧ (groupCovered (risen wCov h1) (0#16).toNat = true)) ∧
    ((Accepted wCov (Instr.spit h1 0#16 1#32) = true) ∧ (jobOpen (risen wCov h1) = true)) ∧
    ((isSvcCmd (Instr.cap h1 0#16 0#32) h1 0#16) ∧ (Accepted (wGrp GrpState.running) (Instr.cap h1 0#16 0#32) = true) ∧ (jobOpen (wGrp GrpState.running) = false) ∧ (svcRec? (risen (wGrp GrpState.running) h1) (0#16).toNat = some sr0) ∧ ((svcAt (risen (wGrp GrpState.running) h1) (0#16).toNat).st = GrpState.running ∨ (sr0.axes.any fun (a : Nat) => (axisAt (risen (wGrp GrpState.running) h1) a).st == AxisState.homing) = true)) ∧
    ((isSvcCmd (Instr.uncap h1 3#16 0#32) h1 3#16) ∧ (Accepted wAxes (Instr.uncap h1 3#16 0#32) = true) ∧ (jobOpen wAxes = false) ∧ (svcRec? (risen wAxes h1) (3#16).toNat = none)) ∧
    ((Accepted (wGrp GrpState.service) (Instr.purge h1 0#16 1#32) = true) ∧ (svcRec? (risen (wGrp GrpState.service) h1) (0#16).toNat = some sr0) ∧ (svcReady (risen (wGrp GrpState.service) h1) (0#16).toNat sr0 [] = true) ∧ ((svcAt (risen (wGrp GrpState.service) h1) (0#16).toNat).st ≠ GrpState.capped ∨ sr0.pump = 255)) := by
  refine ⟨?_, ?_, ?_, ?_, ?_, ?_, ?_, ?_, ?_, ?_, ?_, ?_, ?_, ?_, ?_⟩
  · decide +kernel
  · decide +kernel
  · decide +kernel
  · decide +kernel
  · decide +kernel
  · decide +kernel
  · decide +kernel
  · decide +kernel
  · decide +kernel
  · decide +kernel
  · exact ⟨⟨_, Or.inr (Or.inr (Or.inl rfl))⟩, by decide +kernel, by decide +kernel⟩
  · decide +kernel
  · exact ⟨⟨_, Or.inl rfl⟩, by decide +kernel, by decide +kernel, by decide +kernel, by decide +kernel⟩
  · exact ⟨⟨_, Or.inr (Or.inl rfl)⟩, by decide +kernel, by decide +kernel, by decide +kernel⟩
  · decide +kernel

theorem witness_ServiceStepsRun :
    ((svcRec? wServiceStepsRun_3 0 = some sr0) ∧ ((svcAt wServiceStepsRun_3 0).steps = [SvcStep.moveTo 1 500 1]) ∧ (axisRec? wServiceStepsRun_3 1 = some ar0) ∧ ((axisAt wServiceStepsRun_3 1).moving = false) ∧ ((axisAt wServiceStepsRun_3 1).pos ≠ 500 * 2 ^ 64) ∧ (limitBlocks (axisAt wServiceStepsRun_3 1) 500 = false)) ∧
    ((svcRec? wServiceStepsRun_4 0 = some sr0) ∧ ((svcAt wServiceStepsRun_4 0).steps = SvcStep.moveTo 1 0 1 :: wServiceStepsRun_5) ∧ ((axisAt wServiceStepsRun_4 1).moving = false) ∧ ((axisAt wServiceStepsRun_4 1).pos = 0 * 2 ^ 64)) ∧
    ((svcRec? wServiceStepsRun_6 0 = some sr0) ∧ ((svcAt wServiceStepsRun_6 0).steps = [SvcStep.moveTo 0 500 1]) ∧ ((axisAt wServiceStepsRun_6 0).pos ≠ 500 * 2 ^ 64) ∧ (limitBlocks (axisAt wServiceStepsRun_6 0) 500 = true)) ∧
    ((svcRec? wServiceStepsRun_7 0 = some sr0) ∧ ((svcAt wServiceStepsRun_7 0).steps = [SvcStep.homeAxis 0]) ∧ (axisRec? wServiceStepsRun_7 0 = some ar0) ∧ ((axisAt wServiceStepsRun_7 0).referenced = true)) ∧
    ((svcRec? wServiceStepsRun_8 0 = some sr0) ∧ ((svcAt wServiceStepsRun_8 0).steps = [SvcStep.homeAxis 0]) ∧ (axisRec? wServiceStepsRun_8 0 = some ar0) ∧ ((axisAt wServiceStepsRun_8 0).referenced = false)) ∧
    ((svcRec? wServiceStepsRun_9 0 = some sr0) ∧ ((svcAt wServiceStepsRun_9 0).steps = SvcStep.zeroPump 3 :: wServiceStepsRun_10)) ∧
    ((svcRec? wServiceStepsRun_11 0 = some sr0) ∧ ((svcAt wServiceStepsRun_11 0).steps = [SvcStep.spit 4])) ∧
    ((svcRec? (stp []) 0 = some sr0) ∧ ((svcAt (stp []) 0).steps = [])) ∧
    ((List.find? (Parked.isService 0) wServiceStepsRun_12.parked = some (Parked.service h1 0))) ∧
    ((svcRec? wServiceStepsRun_13 0 = some sr0) ∧ ((svcAt wServiceStepsRun_13 0).steps = [SvcStep.dwell]) ∧ (List.find? (Parked.isService 0) wServiceStepsRun_13.parked = some (Parked.service h1 0))) := by
  refine ⟨?_, ?_, ?_, ?_, ?_, ?_, ?_, ?_, ?_, ?_⟩
  all_goals decide +kernel

theorem witness_SpitTicksRun :
    (((svcAt (spitS 3 1 true) 0).steps = [SvcStep.spit 3]) ∧ (svcRec? (spitS 3 1 true) 0 = some sr0) ∧ ((svcAt (spitS 3 1 true) 0).spitLine + 1 < 3) ∧ (((spitHeads (spitS 3 1 true) sr0).all fun (h : Nat) => !spitLacks (spitS 3 1 true) h (svcAt (spitS 3 1 true) 0).spitLine) = true)) ∧
    (((svcAt (spitS 3 2 true) 0).steps = [SvcStep.spit 3]) ∧ (svcRec? (spitS 3 2 true) 0 = some sr0) ∧ (3 ≤ (svcAt (spitS 3 2 true) 0).spitLine + 1) ∧ (List.find? (Parked.isService 0) (spitS 3 2 true).parked = some (Parked.service h1 0)) ∧ (((spitHeads (spitS 3 2 true) sr0).all fun (h : Nat) => !spitLacks (spitS 3 2 true) h (svcAt (spitS 3 2 true) 0).spitLine) = true)) ∧
    (((svcAt (spitS 3 1 false) 0).steps = [SvcStep.spit 3]) ∧ (svcRec? (spitS 3 1 false) 0 = some sr0) ∧ (((spitHeads (spitS 3 1 false) sr0).any fun (h : Nat) => spitLacks (spitS 3 1 false) h (svcAt (spitS 3 1 false) 0).spitLine) = true)) := by decide +kernel

theorem witness_AxisTicksAndCounts :
    ((axisRec? wAxes 0 = some ar0) ∧ ((axisAt wAxes 0).st = AxisState.hold) ∧ ((axisAt wAxes 0).vel = 0) ∧ ((axisAt wAxes 0).holdLow = false)) ∧
    ((axisRec? wMove 5 = some ar0) ∧ ((axisAt wMove 5).st = AxisState.move) ∧ ((axisAt wMove 5).goal = AxisGoal.target) ∧ (¬((profStep (axisAt wMove 5).pos (axisAt wMove 5).vel (axisAt wMove 5).acc (axisAt wMove 5).target (max 1 (velU (ar0.profs.getD (axisAt wMove 5).prof (1, 1, 1)).fst)) (max 1 (accU (ar0.profs.getD (axisAt wMove 5).prof (1, 1, 1)).snd.fst)) (jerkU (ar0.profs.getD (axisAt wMove 5).prof (1, 1, 1)).snd.snd)).fst = (axisAt wMove 5).target ∧ (profStep (axisAt wMove 5).pos (axisAt wMove 5).vel (axisAt wMove 5).acc (axisAt wMove 5).target (max 1 (velU (ar0.profs.getD (axisAt wMove 5).prof (1, 1, 1)).fst)) (max 1 (accU (ar0.profs.getD (axisAt wMove 5).prof (1, 1, 1)).snd.fst)) (jerkU (ar0.profs.getD (axisAt wMove 5).prof (1, 1, 1)).snd.snd)).snd.fst = 0))) ∧
    ((axisRec? wAxisTicksAndCounts_15 5 = some ar0) ∧ ((axisAt wAxisTicksAndCounts_15 5).st = AxisState.move) ∧ ((axisAt wAxisTicksAndCounts_15 5).goal = AxisGoal.target) ∧ ((axisAt wAxisTicksAndCounts_15 5).group = none) ∧ (List.find? (Parked.isAxis 5) wAxisTicksAndCounts_15.parked = some (Parked.axis h1 5 2051)) ∧ ((profStep (axisAt wAxisTicksAndCounts_15 5).pos (axisAt wAxisTicksAndCounts_15 5).vel (axisAt wAxisTicksAndCounts_15 5).acc (axisAt wAxisTicksAndCounts_15 5).target (max 1 (velU (ar0.profs.getD (axisAt wAxisTicksAndCounts_15 5).prof (1, 1, 1)).fst)) (max 1 (accU (ar0.profs.getD (axisAt wAxisTicksAndCounts_15 5).prof (1, 1, 1)).snd.fst)) (jerkU (ar0.profs.getD (axisAt wAxisTicksAndCounts_15 5).prof (1, 1, 1)).snd.snd)).fst = (axisAt wAxisTicksAndCounts_15 5).target ∧ (profStep (axisAt wAxisTicksAndCounts_15 5).pos (axisAt wAxisTicksAndCounts_15 5).vel (axisAt wAxisTicksAndCounts_15 5).acc (axisAt wAxisTicksAndCounts_15 5).target (max 1 (velU (ar0.profs.getD (axisAt wAxisTicksAndCounts_15 5).prof (1, 1, 1)).fst)) (max 1 (accU (ar0.profs.getD (axisAt wAxisTicksAndCounts_15 5).prof (1, 1, 1)).snd.fst)) (jerkU (ar0.profs.getD (axisAt wAxisTicksAndCounts_15 5).prof (1, 1, 1)).snd.snd)).snd.fst = 0)) := by decide +kernel

theorem witness_AxisInputsTakeEffect :
    ((axisRec? wMove 5 = some ar0) ∧ (9 < ar0.debounce)) ∧
    ((axisRec? wMove 5 = some ar0) ∧ (ar0.debounce ≤ 10) ∧ (∀ (k : Nat), (axisAt wMove 5).goal ≠ AxisGoal.home k)) ∧
    ((axisRec? wAxisInputsTakeEffect_16 5 = some ar0) ∧ (ar0.debounce ≤ 10) ∧ ((axisAt wAxisInputsTakeEffect_16 5).st = AxisState.homing) ∧ ((axisAt wAxisInputsTakeEffect_16 5).goal = AxisGoal.home 1) ∧ ((axisAt wAxisInputsTakeEffect_16 5).home = false) ∧ ((true != ar0.homeLow) = true)) ∧
    ((axisRec? wAxes 0 = some ar0) ∧ (ar0.debounce ≤ 10) ∧ ((axisAt wAxes 0).moving = false)) ∧
    ((axisRec? wMove 5 = some ar0) ∧ (ar0.debounce ≤ 10) ∧ ((axisAt wMove 5).st = AxisState.move) ∧ ((axisAt wMove 5).goal = AxisGoal.target) ∧ ((true != ar0.limLow) = true) ∧ (0 < (axisAt wMove 5).vel) ∧ ((axisAt wMove 5).limP = false)) ∧
    ((axisRec? wAxisInputsTakeEffect_17 5 = some ar0) ∧ (ar0.debounce ≤ 10) ∧ ((axisAt wAxisInputsTakeEffect_17 5).st = AxisState.move) ∧ ((axisAt wAxisInputsTakeEffect_17 5).goal = AxisGoal.target) ∧ ((true != ar0.limLow) = true) ∧ ((axisAt wAxisInputsTakeEffect_17 5).vel < 0) ∧ ((axisAt wAxisInputsTakeEffect_17 5).limN = false)) ∧
    ((axisRec? wMove 5 = some ar0) ∧ (isFenced wMove (FUnit.axis 5) = false) ∧ ((List.filter (fun (p : Nat × Nat) => p.fst == switchCode Switch.limN) (List.filter (fun (p : Nat × Nat) => decide (wMove.tb - p.snd ≤ ar0.debounce * 250)) (axisAt wMove 5).trans ++ [(switchCode Switch.limN, wMove.tb)])).length ≤ 8)) ∧
    ((axisRec? wAxisInputsTakeEffect_18 5 = some ar0) ∧ (isFenced wAxisInputsTakeEffect_18 (FUnit.axis 5) = false) ∧ (8 < (List.filter (fun (p : Nat × Nat) => p.fst == switchCode Switch.limP) (List.filter (fun (p : Nat × Nat) => decide (wAxisInputsTakeEffect_18.tb - p.snd ≤ ar0.debounce * 250)) (axisAt wAxisInputsTakeEffect_18 5).trans ++ [(switchCode Switch.limP, wAxisInputsTakeEffect_18.tb)])).length)) := by
  refine ⟨?_, ?_, ?_, ?_, ?_, ?_, ?_, ?_⟩
  · decide +kernel
  · exact ⟨by decide +kernel, by decide +kernel, fun k h => by cases h⟩
  · decide +kernel
  · decide +kernel
  · decide +kernel
  · decide +kernel
  · decide +kernel
  · decide +kernel

theorem witness_StallsAndRepeats :
    ((axisRec? wStallsAndRepeats_19 5 = some ar0) ∧ ((axisAt wStallsAndRepeats_19 5).st = AxisState.move) ∧ ((axisAt wStallsAndRepeats_19 5).goal = AxisGoal.target) ∧ (ar0.ratio ≠ 0) ∧ (ar0.stallTime ≤ (axisAt wStallsAndRepeats_19 5).overTicks) ∧ ((axisAt wStallsAndRepeats_19 5).repeating = false) ∧ (faultRepeats wStallsAndRepeats_19 (FUnit.axis 5) wStallsAndRepeats_19.tb ((integ wStallsAndRepeats_19).axisWin * secTicks) = false)) ∧
    ((axisRec? wStallsAndRepeats_20 5 = some ar0) ∧ ((axisAt wStallsAndRepeats_20 5).moving = true) ∧ ((axisAt wStallsAndRepeats_20 5).goal ≠ AxisGoal.seek) ∧ (ar0.ratio ≠ 0) ∧ (ar0.stallTime ≤ (axisAt wStallsAndRepeats_20 5).overTicks) ∧ (isFenced wStallsAndRepeats_20 (FUnit.axis 5) = false) ∧ ((axisAt wStallsAndRepeats_20 5).repeating = true ∨ faultRepeats wStallsAndRepeats_20 (FUnit.axis 5) wStallsAndRepeats_20.tb ((integ wStallsAndRepeats_20).axisWin * secTicks) = true)) ∧
    ((axisRec? wStallsAndRepeats_21 6 = some ar1) ∧ ((axisAt wStallsAndRepeats_21 6).st = AxisState.homing) ∧ ((axisAt wStallsAndRepeats_21 6).goal = AxisGoal.seek) ∧ (ar1.ratio ≠ 0) ∧ (ar1.stallTime ≤ (axisAt wStallsAndRepeats_21 6).overTicks)) ∧
    (((axisAt wStallsAndRepeats_22 5).st = AxisState.stalled) ∧ ((axisAt wStallsAndRepeats_22 5).repeat_ = some (5, 1))) := by
  refine ⟨?_, ?_, ?_, ?_⟩
  all_goals decide +kernel

end W06

namespace W07

def rs : State := { wUp with sqs := [(1, { enable := true, tail := 3, head := 15 })], cqs := [(1, { enable := true, tail := 3 })] }
def sh : State := { wUp with taps := [(0, { st := .shDr, shift := [true, false] }), (3, { st := .shDr, shift := [true, false] })] }
def e64 : List Byte := List.replicate 64 3
def ufr (op : Byte) (n : Nat) : List Byte := uartFrame op (List.replicate n 3)
def x1 : SeqEntry := ⟨1, ⟨0x10, 0, 3, 2, 0, List.replicate 16 0⟩⟩
def wRingsEnableAndDisable_0 : State := { rs with parked := [.report h1] }
def wRingsEnableAndDisable_1 : State := { rs with cqs := [(3, { held := [[1, 2]] })] }
def wEntriesAreFetched_2 : State := { rs with sqs := [(1, { enable := true, stopped := true, tail := 3 })] }
def wEntriesAreFetched_3 : State := { rs with sqs := [(1, { enable := true, fetching := true, head := 15, tail := 3 })] }
def wEntriesAreFetched_4 : State := { rs with sqs := [(1, { enable := true, fetching := true, head := 15, tail := 3 })] }
def wEntriesAreFetched_5 : State := { rs with cqs := [(1, { enable := true, tail := 3, unsignalled := 2, coalTime := 4 })] }
def wEntriesAreFetched_6 : State := { wUp with pcie := { wUp.pcie with msixOn := true, vecs := [(8, { masked := false })] } }
def wMailboxGoAndAck_7 : State := { wUp with mbox := { entry := e64 } }
def wMailboxGoAndAck_8 : State := { wUp with mbox := { entry := e64, state := 2 } }
def wMailboxGoAndAck_9 : State := { wUp with mbox := { entry := e64, state := 2 } }
def wMailboxGoAndAck_10 : State := { wUp with mbox := { entry := e64, state := 1 } }
def wSmbusCodes_11 : State := { wUp with smb := { state := 1 } }
def wSmbusCodes_12 : State := { wUp with smb := { state := 2 } }
def wSmbusCodes_13 : State := { wUp with smb := { state := 2, data := List.replicate 32 3 } }
def wSmbusCodes_14 : State := { wUp with mgt := [(0, { stage := 8, warn := true })] }
def wUartFrames_15 : List Byte := [0, 1]
def wUartFrames_16 : List Byte := [0, 1]
def wUartFrames_17 : State := { wUp with uartMb := { state := 1 } }
def wUartFrames_18 : State := { wUp with uartMb := { state := 2, data := List.replicate 32 3 } }
def wUartFrames_19 : State := { wUp with log := { uartWait := [x1] } }
def wUartFrames_20 : State := { wUp with log := { uartFrames := 1, uartWait := [x1] } }
def wUartFrames_21 : State := { wUp with log := { uartFrames := 1 } }
def wUartFrames_22 : State := { wUp with log := { uartFrames := 2 } }
def wJtagChain_23 : State := { wUp with taps := [(3, { st := .capDr, ir := .bypass }), (0, { st := .capDr, ir := .idcode })] }
def wJtagChain_24 : State := { wUp with taps := [(3, { st := .capDr, ir := .bypass }), (0, { st := .capDr, ir := .idcode })] }
def wJtagChain_25 : State := { sh with taps := (7, { st := .shDr, shift := [true] }) :: sh.taps }

theorem witness_DoorbellsMovePointers :
    ((arrives rs 0 = true) ∧ (1 < 4) ∧ ((sqAt rs 1).enable = true) ∧ ((BitVec.extractLsb' 0 16 14#32).toNat < ringSize (sqAt rs 1).log2) ∧ (ringDist (ringSize (sqAt rs 1).log2) (sqAt rs 1).head.toNat (sqAt rs 1).tail.toNat + ringDist (ringSize (sqAt rs 1).log2) (sqAt rs 1).tail.toNat (BitVec.extractLsb' 0 16 14#32).toNat < ringSize (sqAt rs 1).log2)) ∧
    ((arrives rs 0 = true) ∧ (1 < 4) ∧ ((sqAt rs 1).enable = true) ∧ (ringSize (sqAt rs 1).log2 ≤ (BitVec.extractLsb' 0 16 16#32).toNat ∨ ringSize (sqAt rs 1).log2 ≤ ringDist (ringSize (sqAt rs 1).log2) (sqAt rs 1).head.toNat (sqAt rs 1).tail.toNat + ringDist (ringSize (sqAt rs 1).log2) (sqAt rs 1).tail.toNat (BitVec.extractLsb' 0 16 16#32).toNat)) ∧
    ((2 < 4) ∧ ((sqAt rs 2).enable = false)) ∧
    ((arrives rs 0 = true) ∧ (1 < 4) ∧ ((cqAt rs 1).enable = true) ∧ (BitVec.extractLsb' 0 16 3#32 = (cqAt rs 1).tail) ∧ ((cqAt rs 1).tail.toNat < ringSize (cqAt rs 1).log2)) ∧
    ((arrives rs 0 = true) ∧ (1 < 4) ∧ ((cqAt rs 1).enable = true) ∧ (BitVec.extractLsb' 0 16 2#32 ≠ (cqAt rs 1).tail) ∧ ((BitVec.extractLsb' 0 16 2#32).toNat < ringSize (cqAt rs 1).log2) ∧ (ringDist (ringSize (cqAt rs 1).log2) (cqAt rs 1).head.toNat (BitVec.extractLsb' 0 16 2#32).toNat ≤ ringDist (ringSize (cqAt rs 1).log2) (cqAt rs 1).head.toNat (cqAt rs 1).tail.toNat)) ∧
    ((arrives rs 0 = true) ∧ (1 < 4) ∧ ((cqAt rs 1).enable = true) ∧ (ringSize (cqAt rs 1).log2 ≤ (BitVec.extractLsb' 0 16 16#32).toNat ∨ ringDist (ringSize (cqAt rs 1).log2) (cqAt rs 1).head.toNat (cqAt rs 1).tail.toNat < ringDist (ringSize (cqAt rs 1).log2) (cqAt rs 1).head.toNat (BitVec.extractLsb' 0 16 16#32).toNat)) ∧
    ((2 < 4) ∧ ((cqAt rs 2).enable = false)) := by
  refine ⟨?_, ?_, ?_, ?_, ?_, ?_, ?_⟩
  all_goals decide +kernel

theorem witness_RingsEnableAndDisable :
    ((arrives rs 0 = true) ∧ (2 < 4) ∧ ((sqAt rs 2).enable = false)) ∧
    ((arrives rs 0 = true) ∧ (1 < 4) ∧ ((sqAt rs 1).enable = true)) ∧
    ((arrives wRingsEnableAndDisable_0 0 = true) ∧ (1 < 4) ∧ ((sqAt wRingsEnableAndDisable_0 1).enable = true)) ∧
    ((arrives rs 0 = true) ∧ (3 < 4) ∧ ((sqAt rs 3).enable = false)) ∧
    ((arrives rs 0 = true) ∧ (1 < 4) ∧ ((cqAt rs 1).enable = true)) ∧
    ((arrives wRingsEnableAndDisable_1 0 = true) ∧ (3 < 4) ∧ ((cqAt wRingsEnableAndDisable_1 3).enable = false)) ∧
    ((arrives rs 0 = true) ∧ (3 < 4) ∧ ((cqAt rs 3).enable = false) ∧ ((cqAt rs 3).held = [])) ∧
    ((arrives rs 0 = true) ∧ (1 < 4)) := by
  refine ⟨?_, ?_, ?_, ?_, ?_, ?_, ?_, ?_⟩
  all_goals decide +kernel

theorem witness_EntriesAreFetched :
    ((1 < 4) ∧ (hostUp rs = true) ∧ ((sqAt rs 1).enable = true) ∧ ((sqAt rs 1).stopped = false) ∧ ((sqAt rs 1).fetching = false) ∧ ((sqAt rs 1).head ≠ (sqAt rs 1).tail) ∧ (classRoom rs 1 = true) ∧ (cqRoom rs 1 = true)) ∧
    ((classRoom wEntriesAreFetched_2 1 = false ∨ cqRoom wEntriesAreFetched_2 1 = false ∨ (sqAt wEntriesAreFetched_2 1).stopped = true)) ∧
    (((sqAt wUp 1).head = (sqAt wUp 1).tail ∨ (sqAt wUp 1).enable = false ∨ (sqAt wUp 1).fetching = true)) ∧
    (((sqAt rs 1).fetching = false)) ∧
    (((sqAt wEntriesAreFetched_3 1).fetching = true) ∧ (e64.length = 64)) ∧
    (((sqAt wEntriesAreFetched_4 1).fetching = true) ∧ ((match FetchResult.timeout with   | FetchResult.data bytes => false   | x => true) =   true)) ∧
    ((1 < 4) ∧ ((cqAt wEntriesAreFetched_5 1).unsignalled ≠ 0) ∧ ((cqAt wEntriesAreFetched_5 1).coalTime ≠ 0#8)) ∧
    (((cqAt rs 1).unsignalled = 0 ∨ (cqAt rs 1).coalTime = 0#8)) ∧
    ((wEntriesAreFetched_6.pcie.d3hot = false) ∧ (wEntriesAreFetched_6.pcie.linkUp = true) ∧ (vecOpen wEntriesAreFetched_6 8 = true)) := by
  refine ⟨?_, ?_, ?_, ?_, ?_, ?_, ?_, ?_, ?_⟩
  all_goals decide +kernel

theorem witness_MailboxGoAndAck :
    ((arrives wMailboxGoAndAck_7 0 = true) ∧ (wMailboxGoAndAck_7.mbox.state = 0#2)) ∧
    ((arrives wMailboxGoAndAck_8 0 = true) ∧ (wMailboxGoAndAck_8.mbox.state ≠ 0#2)) ∧
    ((arrives wMailboxGoAndAck_9 0 = true) ∧ (wMailboxGoAndAck_9.mbox.state = 2#2)) ∧
    ((arrives wMailboxGoAndAck_10 0 = true) ∧ (wMailboxGoAndAck_10.mbox.state ≠ 2#2)) := by
  refine ⟨?_, ?_, ?_, ?_⟩
  all_goals decide +kernel

theorem witness_SmbusCodes :
    ((sideUp wUp = true) ∧ (wUp.smb.state = 0#2) ∧ (e64.length = 64) ∧ (pecOk wUp (16#8 :: natLE 1 e64.length ++ e64) none = true)) ∧
    ((sideUp wSmbusCodes_11 = true) ∧ (wSmbusCodes_11.smb.state ≠ 0#2) ∧ (pecOk wSmbusCodes_11 (16#8 :: natLE 1 e64.length ++ e64) none = true)) ∧
    ((sideUp wSmbusCodes_12 = true) ∧ (wSmbusCodes_12.smb.state = 2#2) ∧ (pecOk wSmbusCodes_12 [18#8] none = true)) ∧
    ((sideUp wUp = true) ∧ (wUp.smb.state ≠ 2#2) ∧ (pecOk wUp [18#8] none = true)) ∧
    ((pecOk wUp (16#8 :: natLE 1 e64.length ++ e64) (some 0#8) = false)) ∧
    ((pecOk wUp [18#8] (some 0#8) = false)) ∧
    ((sideUp wUp = true)) ∧
    ((sideUp wUp = true) ∧ (wUp.part.dies ≤ 8)) ∧
    ((sideUp wSmbusCodes_13 = true)) ∧
    ((sideUp wSmbusCodes_14 = true) ∧ (smbAlert wSmbusCodes_14 = true)) ∧
    ((smbAlert wUp = false)) := by
  refine ⟨?_, ?_, ?_, ?_, ?_, ?_, ?_, ?_, ?_, ?_, ?_⟩
  all_goals decide +kernel

theorem witness_UartFrames :
    ((sideUp wUp = true) ∧ (uartGood (ufr (1#8) 64) 1 64 = true) ∧ (wUp.uartMb.state = 0#2)) ∧
    ((sideUp wUp = true) ∧ (uartGood wUartFrames_15 1 64 = false)) ∧
    ((sideUp wUp = true) ∧ (uartGood wUartFrames_16 2 0 = false)) ∧
    ((sideUp wUartFrames_17 = true) ∧ (uartGood (ufr (1#8) 64) 1 64 = true) ∧ (wUartFrames_17.uartMb.state ≠ 0#2)) ∧
    ((sideUp wUp = true) ∧ (uartGood (ufr (2#8) 0) 2 0 = true) ∧ (wUp.uartMb.state ≠ 2#2)) ∧
    ((sideUp wUartFrames_18 = true) ∧ (uartGood (ufr (2#8) 0) 2 0 = true) ∧ (wUartFrames_18.uartMb.state = 2#2)) ∧
    ((wUartFrames_19.log.uartWait = [x1])) ∧
    ((wUp.log.uartWait = [])) ∧
    ((wUartFrames_20.log.uartWait = [x1]) ∧ (wUartFrames_20.log.uartFrames ≤ 1)) ∧
    ((wUartFrames_21.log.uartWait = [])) ∧
    ((1 < wUartFrames_22.log.uartFrames)) := by
  refine ⟨?_, ?_, ?_, ?_, ?_, ?_, ?_, ?_, ?_, ?_, ?_⟩
  all_goals decide +kernel

theorem witness_JtagChain :
    ((sideUp sh = true)) ∧
    ((sideUp sh = true) ∧ (0 < sh.part.dies) ∧ ((tapAt sh 0).st = Tap.shDr ∨ (tapAt sh 0).st = Tap.shIr)) ∧
    ((sideUp sh = true) ∧ (3 < sh.part.dies) ∧ ((tapAt sh 3).st = Tap.shDr ∨ (tapAt sh 3).st = Tap.shIr)) ∧
    ((sideUp wJtagChain_23 = true) ∧ (3 < wJtagChain_23.part.dies) ∧ ((tapAt wJtagChain_23 3).st = Tap.capDr)) ∧
    ((sideUp wJtagChain_24 = true) ∧ (0 < wJtagChain_24.part.dies) ∧ ((tapAt wJtagChain_24 0).st = Tap.capDr)) ∧
    ((sideUp wJtagChain_25 = true)) := by
  refine ⟨?_, ?_, ?_, ?_, ?_, ?_⟩
  all_goals decide +kernel

end W07

namespace W08

def pc0 : State := { wUp with pcie := { perst := false, linkUp := false, retry := true } }
def pc1 : State := { wUp with pcie := { perst := false, linkUp := false, retry := false } }
def d3 : State := { wUp with pcie := { perst := false, linkUp := true, retry := false, d3hot := true, held := [2, 5] } }
def ap : State := { wUp with dia := {}, apers := [(0, { valid := true, die := 0, base := 0 }), (1, { valid := true, die := 7, base := 0 }), (3, { valid := true, die := 0, base := 63 })] }
def apV : State := { ap with dia := { valid := true } }
def cutOffA : State := { apV with gram := { routes := [{ id := 3, cls := 1, dies := [0, 7] }] }, lostRoutes := [3] }
def cutOff : State := { wUp with gram := { routes := [{ id := 3, cls := 1, dies := [0, 7] }] }, lostRoutes := [3] }
def x3 : State := { wUp with pcie := { wUp.pcie with msixOn := true, pba := [3], vecs := [(3, { masked := true })] } }
def cc : State := { wUp with clauses := [(65, { stallCycles := 5 })], cells := [(1055, { traps := 3, overruns := 2 })], rows := [(63, { ovsTotal := 6 })], conflicts := [(68, 5)], evqs := [(2, { high := 3, lost := 5 })], ddr := [(1, { corr := 5 })], axes := [(1, { stalls := 4 })], links := [(7, { replays := 3, naks := 3, timeouts := 3 })] }
def st : State := { wUp with dia := {}, tb := 5000000000, marches := [(0, { kind := 0, index := 0, mode := true })] }
def tr (c : TrnCtl) : State := { st with ddr := [(0, { trnRun := some c })] }
def wPcieConfigurationAndPower_0 : State := { wUp with pcie := { wUp.pcie with msixOn := true, pba := [3], vecs := [(3, { masked := false })] } }
def wPcieConfigurationAndPower_1 : State := { wUp with cqs := [(0, { enable := true }), (1, { enable := true, held := [[1, 2]] })] }
def wBar2AccessesDram_2 : List Byte := [1, 2, 3]
def wBar2AccessesDram_4 : State := { apV with pcie := d3.pcie }
def wBar2AccessesDram_5 : State := { apV with pcie := { apV.pcie with retry := true } }
def wBar2AccessesDram_7 : List Byte := [1, 2, 3]
def wWindowsReachDies_8 : State := { wUp with dia := {} }
def wWindowsReachDies_9 : List Byte := [1, 2, 3, 4, 5, 6, 7, 8]
def wWindowsReachDies_10 : List Byte := [1, 2, 3, 4, 5, 6, 7, 8]
def wRegistersReadBack_11 : State := { wUp with job := some wJob }
def wRegistersReadBack_12 : State := { wUp with sqs := [] }
def wStartBitsAndLatches_13 : State := { st with eyes := [(0, { busy := true })] }
def wStartBitsAndLatches_14 : State := { st with eyes := [(0, { busy := true })] }
def wStartBitsAndLatches_15 : State := { st with eyes := [(0, { busy := true })] }
def wStartBitsAndLatches_16 : State := { st with marches := [(0, { kind := 1, index := 65, mode := true })], clauses := [(65, { st := .off })] }
def wStartBitsAndLatches_17 : State := { st with marches := [(0, { kind := 3, index := 0, mode := true })] }
def wStartBitsAndLatches_18 : State := { st with marches := [(0, { busy := true })] }
def wStartBitsAndLatches_19 : State := { st with ddr := [(0, { st := .active })] }
def wStartBitsAndLatches_20 : State := tr {}
def wStartBitsAndLatches_21 : State := tr { pattern := 1, op := 2, row := 15, seed := 7 }
def wStartBitsAndLatches_24 : TrnCtl := { pattern := 1, op := 2, row := 15, seed := 7 }
def wStartBitsAndLatches_25 : State := tr { pattern := 1, op := 2, row := 15, seed := 7 }
def wStartBitsAndLatches_28 : TrnCtl := { pattern := 1, op := 2, row := 15, seed := 7 }
def wStartBitsAndLatches_29 : State := tr { op := 0, row := 15, seed := 7 }
def wStartBitsAndLatches_30 : TrnCtl := { op := 0, row := 15, seed := 7 }
def wStartBitsAndLatches_31 : State := tr { op := 0, row := 15, seed := 7 }
def wStartBitsAndLatches_33 : TrnCtl := { op := 0, row := 15, seed := 7 }

theorem witness_PcieConfigurationAndPower :
    ((configurable pc0) ∧ (pc0.pcie.retry = true) ∧ (isConfigSpace (CfgReq.read 60) = true)) ∧
    ((configurable pc1) ∧ (pc1.pcie.retry = false)) ∧
    ((configurable x3) ∧ (x3.pcie.retry = false)) ∧
    ((hostUp x3 = true) ∧ (60 < 4096) ∧ (60 % 16 = 12)) ∧
    ((hostUp x3 = true) ∧ (4092 < 4096) ∧ (4092 % 16 = 12)) ∧
    ((∀ (v : Nat), v ∈ x3.pcie.pba → vecOpen x3 v = false)) ∧
    ((wPcieConfigurationAndPower_0.pcie.d3hot = false) ∧ (wPcieConfigurationAndPower_0.pcie.linkUp = true) ∧ (wPcieConfigurationAndPower_0.pcie.pba = [3]) ∧ (vecOpen wPcieConfigurationAndPower_0 3 = true)) ∧
    ((linkReach wUp = true) ∧ (wUp.pcie.retry = false)) ∧
    ((linkReach d3 = true) ∧ (d3.pcie.d3hot = true)) ∧
    (((cqAt wPcieConfigurationAndPower_1 1).enable = true) ∧ ((cqAt wPcieConfigurationAndPower_1 1).stopped = false) ∧ (wPcieConfigurationAndPower_1.pcie.d3hot = false) ∧ (wPcieConfigurationAndPower_1.pcie.linkUp = true)) ∧
    ((linkReach wUp = false ∨ wUp.pcie.d3hot = false)) := by
  refine ⟨?_, ?_, ?_, ?_, ?_, ?_, ?_, ?_, ?_, ?_, ?_⟩
  · exact ⟨⟨rfl, by decide +kernel, rfl⟩, by decide +kernel, by decide +kernel⟩
  · exact ⟨⟨rfl, by decide +kernel, rfl⟩, by decide +kernel⟩
  · exact ⟨⟨rfl, by decide +kernel, rfl⟩, by decide +kernel⟩
  · decide +kernel
  · decide +kernel
  · decide +kernel
  · decide +kernel
  · decide +kernel
  · decide +kernel
  · decide +kernel
  · decide +kernel

theorem witness_Bar2AccessesDram :
    ((served apV = true) ∧ (0 < 8) ∧ (268435448 + 8 ≤ 2 ^ 32) ∧ (268435448 / 2 ^ 28 = (268435448 + 8 - 1) / 2 ^ 28) ∧ ((sget { die := 0#3, base := 0#6 : Aperture } apV.apers (268435448 / 2 ^ 28)).valid = true) ∧ (dieReach apV (sget { die := 0#3, base := 0#6 : Aperture } apV.apers (268435448 / 2 ^ 28)).die.toNat = true) ∧ (2 ^ 28 * (sget { die := 0#3, base := 0#6 : Aperture } apV.apers (268435448 / 2 ^ 28)).base.toNat + 268435448 % 2 ^ 28 + 8 ≤ dramEnd apV (sget { die := 0#3, base := 0#6 : Aperture } apV.apers (268435448 / 2 ^ 28)).die.toNat) ∧ (quietDram apV = true)) ∧
    ((served cutOffA = true) ∧ (0 < 8) ∧ (268435456 + 8 ≤ 2 ^ 32) ∧ (268435456 / 2 ^ 28 = (268435456 + 8 - 1) / 2 ^ 28) ∧ ((sget { die := 0#3, base := 0#6 : Aperture } cutOffA.apers (268435456 / 2 ^ 28)).valid = true) ∧ (dieReach cutOffA (sget { die := 0#3, base := 0#6 : Aperture } cutOffA.apers (268435456 / 2 ^ 28)).die.toNat = false ∨ dramEnd cutOffA (sget { die := 0#3, base := 0#6 : Aperture } cutOffA.apers (268435456 / 2 ^ 28)).die.toNat < 2 ^ 28 * (sget { die := 0#3, base := 0#6 : Aperture } cutOffA.apers (268435456 / 2 ^ 28)).base.toNat + 268435456 % 2 ^ 28 + 8)) ∧
    ((served apV = true) ∧ (0 < 8) ∧ (536870912 + 8 ≤ 2 ^ 32) ∧ (536870912 / 2 ^ 28 = (536870912 + 8 - 1) / 2 ^ 28) ∧ ((sget { die := 0#3, base := 0#6 : Aperture } apV.apers (536870912 / 2 ^ 28)).valid = false)) ∧
    ((served ap = true) ∧ (wBar2AccessesDram_2 ≠ []) ∧ (100 + wBar2AccessesDram_2.length ≤ 2 ^ 32) ∧ (100 / 2 ^ 28 = (100 + wBar2AccessesDram_2.length - 1) / 2 ^ 28) ∧ ((sget { die := 0#3, base := 0#6 : Aperture } ap.apers (100 / 2 ^ 28)).valid = true) ∧ (dieReach ap (sget { die := 0#3, base := 0#6 : Aperture } ap.apers (100 / 2 ^ 28)).die.toNat = true) ∧ (2 ^ 28 * (sget { die := 0#3, base := 0#6 : Aperture } ap.apers (100 / 2 ^ 28)).base.toNat + 100 % 2 ^ 28 + wBar2AccessesDram_2.length ≤ dramEnd ap (sget { die := 0#3, base := 0#6 : Aperture } ap.apers (100 / 2 ^ 28)).die.toNat) ∧ (ap.dia.valid = false)) ∧
    ((linkReach wBar2AccessesDram_4 = true) ∧ (0 < 8) ∧ (100 + 8 ≤ 2 ^ 32) ∧ (100 / 2 ^ 28 = (100 + 8 - 1) / 2 ^ 28) ∧ (wBar2AccessesDram_4.pcie.d3hot = true)) ∧
    ((linkReach wBar2AccessesDram_5 = true) ∧ (0 < 8) ∧ (100 + 8 ≤ 2 ^ 32) ∧ (100 / 2 ^ 28 = (100 + 8 - 1) / 2 ^ 28) ∧ (wBar2AccessesDram_5.pcie.d3hot = false) ∧ (wBar2AccessesDram_5.pcie.retry = true)) ∧
    ((d3.pcie.d3hot = true ∨ d3.pcie.retry = true)) ∧
    ((served apV = true) ∧ (wBar2AccessesDram_7 ≠ []) ∧ (100 + wBar2AccessesDram_7.length ≤ 2 ^ 32) ∧ (100 / 2 ^ 28 = (100 + wBar2AccessesDram_7.length - 1) / 2 ^ 28) ∧ ((sget { die := 0#3, base := 0#6 : Aperture } apV.apers (100 / 2 ^ 28)).valid = false ∨ dieReach apV (sget { die := 0#3, base := 0#6 : Aperture } apV.apers (100 / 2 ^ 28)).die.toNat = false ∨ dramEnd apV (sget { die := 0#3, base := 0#6 : Aperture } apV.apers (100 / 2 ^ 28)).die.toNat < 2 ^ 28 * (sget { die := 0#3, base := 0#6 : Aperture } apV.apers (100 / 2 ^ 28)).base.toNat + 100 % 2 ^ 28 + wBar2AccessesDram_7.length ∨ apV.dia.valid = true)) := by
  refine ⟨?_, ?_, ?_, ?_, ?_, ?_, ?_, ?_⟩
  all_goals decide +kernel

theorem witness_WindowsReachDies :
    ((served wUp = true) ∧ (dieReach wUp 0 = true) ∧ (8 = 1 ∨ 8 = 2 ∨ 8 = 4 ∨ 8 = 8) ∧ (4194296 % 8 = 0) ∧ (4194296 + 8 ≤ 2 ^ 22) ∧ (∀ (j : Nat), j < 8 → ownTable ((if (mgtAt wUp 0).bankHalf = true then 2 ^ 22 else 0) + 4194296 + j) = false) ∧ (wUp.flips = [])) ∧
    ((served wWindowsReachDies_8 = true) ∧ (dieReach wWindowsReachDies_8 0 = true) ∧ (wWindowsReachDies_9.length = 1 ∨ wWindowsReachDies_9.length = 2 ∨ wWindowsReachDies_9.length = 4 ∨ wWindowsReachDies_9.length = 8) ∧ (4194296 % wWindowsReachDies_9.length = 0) ∧ (4194296 + wWindowsReachDies_9.length ≤ 2 ^ 22) ∧ (wWindowsReachDies_8.dia.valid = false)) ∧
    ((served wUp = true) ∧ (dieReach wUp 0 = true) ∧ (wWindowsReachDies_10.length = 1 ∨ wWindowsReachDies_10.length = 2 ∨ wWindowsReachDies_10.length = 4 ∨ wWindowsReachDies_10.length = 8) ∧ (4194296 % wWindowsReachDies_10.length = 0) ∧ (4194296 + wWindowsReachDies_10.length ≤ 2 ^ 22) ∧ (wUp.dia.valid = true)) ∧
    ((served wUp = true) ∧ (dieOk wUp 8 = false) ∧ (0 < 1) ∧ (4194303 + 1 ≤ 2 ^ 22)) ∧
    ((served cutOff = true) ∧ (dieOk cutOff 7 = true) ∧ (dieReach cutOff 7 = false) ∧ (0 < 1) ∧ (4194303 + 1 ≤ 2 ^ 22)) ∧
    ((served wUp = true) ∧ (dieReach wUp 0 = true) ∧ (4194303 < 4194304) ∧ (4194303 / 4 ≠ 73728 / 4)) ∧
    ((served wUp = true) ∧ (dieReach wUp 0 = true) ∧ (73736 < 4194304) ∧ (73736 / 4 ≠ 73728 / 4)) ∧
    ((served wUp = true) ∧ (dieReach wUp 0 = true) ∧ (73740 < 4194304)) ∧
    ((served wUp = true) ∧ (dieReach wUp 0 = true) ∧ (4194304 ≤ 8388604) ∧ (8388604 < 8388608)) ∧
    ((served wUp = true) ∧ (dieReach wUp 0 = true) ∧ (73728 / 4 = 73728 / 4)) ∧
    ((served wUp = true) ∧ (dieOk wUp 8 = false) ∧ (8388607 < 8388608)) ∧
    ((served cutOff = true) ∧ (dieOk cutOff 7 = true) ∧ (dieReach cutOff 7 = false) ∧ (8388607 < 8388608)) ∧
    ((arrives wUp 0 = true)) ∧
    ((7#4 ≠ 15#4)) := by
  refine ⟨?_, ?_, ?_, ?_, ?_, ?_, ?_, ?_, ?_, ?_, ?_, ?_, ?_, ?_⟩
  all_goals decide +kernel

theorem witness_RegistersReadBack :
    ((jobOpen wUp = false)) ∧
    ((jobOpen wRegistersReadBack_11 = true)) ∧
    ((ap.dia.valid = false)) ∧
    ((wUp.dia.valid = true)) ∧
    ((3 < 4) ∧ (jobOpen wUp = false)) ∧
    ((15 < 16) ∧ ((BitVec.extractLsb' 24 3 4177526783#32).toNat < wUp.part.dies)) ∧
    ((3 < 4) ∧ ((sqAt wRegistersReadBack_12 3).enable = false)) ∧
    ((1 < 4) ∧ ((sqAt wUp 1).enable = true)) ∧
    ((512 ≤ 532 ∧ 532 ≤ 532 ∨ 65536 ≤ 532 ∧ 532 < 69632 ∨ 532 = 73728 ∨ 532 = 73732)) ∧
    ((512 ≤ 69631 ∧ 69631 ≤ 532 ∨ 65536 ≤ 69631 ∧ 69631 < 69632 ∨ 69631 = 73728 ∨ 69631 = 73732)) ∧
    ((512 ≤ 73732 ∧ 73732 ≤ 532 ∨ 65536 ≤ 73732 ∧ 73732 < 69632 ∨ 73732 = 73728 ∨ 73732 = 73732)) := by
  refine ⟨?_, ?_, ?_, ?_, ?_, ?_, ?_, ?_, ?_, ?_, ?_⟩
  all_goals decide +kernel

theorem witness_ClearBitsClearCounters :
    ((arrives cc 0 = true) ∧ (65 < 66)) ∧
    ((arrives cc { die := 0, clause := 65, cell := 15 : CellId }.die = true) ∧ ({ die := 0, clause := 65, cell := 15 : CellId }.clause < 66) ∧ ({ die := 0, clause := 65, cell := 15 : CellId }.cell < 16)) ∧
    ((arrives cc 0 = true) ∧ (63 < 64)) ∧
    ((arrives cc 0 = true)) ∧
    ((arrives cc 0 = true) ∧ (2 < 3)) ∧
    ((arrives cc 0 = true) ∧ (ddrOk cc 0 1 = true)) ∧
    ((arrives cc (1 / 2) = true)) ∧
    ((arrives cc 0 = true) ∧ (7 < 8)) := by
  refine ⟨?_, ?_, ?_, ?_, ?_, ?_, ?_, ?_⟩
  all_goals decide +kernel

theorem witness_StartBitsAndLatches :
    ((arrives st 0 = true) ∧ (st.pcie.d3hot = false)) ∧
    ((arrives st 0 = true) ∧ ((eyeAt st 0).busy = false)) ∧
    ((arrives wStartBitsAndLatches_13 0 = true) ∧ ((eyeAt wStartBitsAndLatches_13 0).busy = true)) ∧
    (((eyeAt wStartBitsAndLatches_14 0).busy = true)) ∧
    (((eyeAt wStartBitsAndLatches_15 0).busy = true)) ∧
    (((eyeAt st 0).busy = false)) ∧
    ((arrives wStartBitsAndLatches_16 0 = true) ∧ (wStartBitsAndLatches_16.dia.valid = false) ∧ ((marchAt wStartBitsAndLatches_16 0).busy = false) ∧ (marchAllowed wStartBitsAndLatches_16 0 (marchAt wStartBitsAndLatches_16 0).kind.toNat (marchAt wStartBitsAndLatches_16 0).index.toNat (marchAt wStartBitsAndLatches_16 0).mode = true)) ∧
    ((arrives wStartBitsAndLatches_17 0 = true) ∧ (wStartBitsAndLatches_17.dia.valid = false) ∧ ((marchAt wStartBitsAndLatches_17 0).busy = false) ∧ (marchAllowed wStartBitsAndLatches_17 0 (marchAt wStartBitsAndLatches_17 0).kind.toNat (marchAt wStartBitsAndLatches_17 0).index.toNat (marchAt wStartBitsAndLatches_17 0).mode = false)) ∧
    ((arrives wStartBitsAndLatches_18 0 = true) ∧ ((marchAt wStartBitsAndLatches_18 0).busy = true)) ∧
    ((arrives st 0 = true) ∧ (ddrOk st 0 0 = true) ∧ (st.dia.valid = false) ∧ ((ddrAt st (ddrIx 0 0)).trnRun = none) ∧ ((ddrAt st (ddrIx 0 0)).st ≠ DdrState.active) ∧ ((ddrAt st (ddrIx 0 0)).st ≠ DdrState.retired)) ∧
    ((arrives wStartBitsAndLatches_19 0 = true) ∧ ((ddrAt wStartBitsAndLatches_19 (ddrIx 0 0)).st = DdrState.active)) ∧
    ((arrives wStartBitsAndLatches_20 0 = true) ∧ ((ddrAt wStartBitsAndLatches_20 (ddrIx 0 0)).trnRun.isSome = true)) ∧
    (((ddrAt st (ddrIx 0 0)).trnRun = none)) ∧
    (((ddrAt wStartBitsAndLatches_21 (ddrIx 0 0)).trnRun = some wStartBitsAndLatches_24)) ∧
    (((ddrAt wStartBitsAndLatches_25 (ddrIx 0 0)).trnRun = some wStartBitsAndLatches_28)) ∧
    (((ddrAt wStartBitsAndLatches_29 (ddrIx 0 0)).trnRun = some wStartBitsAndLatches_30)) ∧
    (((ddrAt wStartBitsAndLatches_31 (ddrIx 0 0)).trnRun = some wStartBitsAndLatches_33)) := by
  refine ⟨?_, ?_, ?_, ?_, ?_, ?_, ?_, ?_, ?_, ?_, ?_, ?_, ?_, ?_, ?_, ?_, ?_⟩
  all_goals decide +kernel

end W08

namespace W09

def sg (n : Nat) : State := { wUp with power := { st := .starting }, mgt := [(0, { stage := BitVec.ofNat 4 n })], ddr := [(0, { st := .off }), (1, { st := .off })] }
def sgR : State := { sg 5 with ddr := [(0, { st := .retrain }), (1, { st := .retrain })] }
def run0 : State := { wUp with mgt := [(0, { stage := 8, pllLock := 31 })] }
def run2 : State := { wUp with part := { wUp.part with dies := 3 }, mgt := [(0, { stage := 8, pllLock := 31 }), (2, { stage := 8, pllLock := 15 })] }
def l0 : LoadJob := { slot := 0, cmd := none }
def l1 : LoadJob := { slot := 0, cmd := none, second := true, crcs := passCrcs (readSlot wSlot 0) }
def wResetsClearAndKeep_0 : State := { wUp with pcie := { perst := false, deasserted := true } }
def wResetsClearAndKeep_1 : State := { wUp with pcie := { perst := true } }
def wResetsClearAndKeep_2 : State := { wUp with pcie := { perst := false, deasserted := false } }
def wResetsClearAndKeep_3 : State := { wUp with pcie := { perst := true } }
def wResetsClearAndKeep_4 : State := { wUp with power := { porAsserted := true } }
def wResetsClearAndKeep_6 : State := { wUp with power := { st := .dormant } }
def wPowerStatesMove_7 : State := { wUp with power := { porAsserted := true } }
def wPowerStatesMove_8 : State := { wUp with power := { st := .sleep, goDormant := true } }
def wPowerStatesMove_9 : State := { wUp with power := { st := .dormant } }
def wPowerStatesMove_10 : State := { wUp with power := { st := .dormant, hold := true } }
def wPowerStatesMove_11 : State := { wUp with power := { st := .dormant, hold := true } }
def wPowerStatesMove_12 : State := { wUp with power := { st := .dormant, hold := true, wakeLatch := true } }
def wPowerStatesMove_13 : State := { wUp with power := { st := .ready, rest := 1 } }
def wPowerStatesMove_14 : State := { wUp with power := { st := .idle, rest := 2 } }
def wPowerStatesMove_15 : State := { wUp with power := { st := .ready, moving := true, target := .idle } }
def wPowerStatesMove_16 : State := { wUp with power := { st := .idle, moving := true, target := .sleep } }
def wPowerStatesMove_17 : State := { wUp with power := { st := .sleep, goDormant := true } }
def wStartupAndClocks_18 : StageResult := ⟨[], [], 0, 0, []⟩
def wStartupAndClocks_19 : StageResult := ⟨[], [], 0, 0, []⟩
def wStartupAndClocks_20 : StageResult := ⟨[], [], 0, 0, []⟩
def wStartupAndClocks_21 : StageResult := ⟨[], [], 0, 0, []⟩
def wStartupAndClocks_22 : StageResult := ⟨[], [], 0, 0, []⟩
def wStartupAndClocks_23 : State := { sg 5 with ddr := [(0, { st := .train, mustTrain := true }), (1, { st := .train })] }
def wStartupAndClocks_24 : StageResult := ⟨[], [], 0, 0, []⟩
def wStartupAndClocks_25 : StageResult := { failed := [(0, 7)], defects := [] }
def wStartupAndClocks_27 : State := { wUp with pcie := { perst := false, retry := true }, startFailed := true }
def wStartupAndClocks_28 : State := { wUp with pcie := { perst := false, retry := true }, power := {}, load := some { slot := 0, cmd := none } }
def wStartupAndClocks_29 : LoadJob := { slot := 0, cmd := none }
def wStartupAndClocks_30 : State := { wUp with pcie := { perst := false, retry := true } }
def wStartupAndClocks_31 : State := { wUp with power := { st := .dormant } }
def wStartupAndClocks_32 : State := { wUp with power := { st := .dormant } }
def wDialectLoadPasses_33 : State := { wUp with load := some l0 }
def wDialectLoadPasses_34 : Fail := (1, 0xFFFF)
def wDialectLoadPasses_35 : State := { wSlot with load := some l1 }
def wDialectLoadPasses_36 : State := { wSlot with load := some { l1 with crcs := [] } }
def wDialectLoadPasses_37 : LoadJob := { l1 with crcs := [] }
def wDialectLoadPasses_38 : State := { wSlot with load := some l1 }
theorem readSlot_same (s t : State) (n : Nat) (h : s.flash = t.flash) : readSlot s n = readSlot t n := by
  unfold readSlot
  rw [h]

theorem witness_ResetsClearAndKeep :
    ((powered wResetsClearAndKeep_0) ∧ (wResetsClearAndKeep_0.pcie.perst = false) ∧ (wResetsClearAndKeep_0.pcie.deasserted = true)) ∧
    ((wResetsClearAndKeep_1.pcie.perst = true)) ∧
    ((wResetsClearAndKeep_2.pcie.perst = false) ∧ (wResetsClearAndKeep_2.power.st = PwrState.dormant ∨ wResetsClearAndKeep_2.power.porAsserted = true ∨ wResetsClearAndKeep_2.pcie.deasserted = false)) ∧
    ((wResetsClearAndKeep_3.pcie.perst = true ∨ wResetsClearAndKeep_3.power.st = PwrState.dormant ∨ wResetsClearAndKeep_3.power.porAsserted = true)) ∧
    ((wResetsClearAndKeep_4.power.porAsserted = true)) ∧
    ((powered wJobS) ∧ (wJobS.pcie.perst = false)) ∧
    ((powered wJobS)) ∧
    ((wResetsClearAndKeep_6.power.st = PwrState.dormant)) := by
  refine ⟨?_, ?_, ?_, ?_, ?_, ?_, ?_, ?_⟩
  all_goals decide +kernel

theorem witness_PowerStatesMove :
    ((wPowerStatesMove_7.power.porAsserted = true)) ∧
    ((wUp.power.porAsserted = false)) ∧
    ((wPowerStatesMove_8.power.goDormant = true)) ∧
    ((wUp.power.st ≠ PwrState.dormant) ∧ (wUp.power.goDormant = false)) ∧
    ((wUp.power.st ≠ PwrState.dormant)) ∧
    ((wPowerStatesMove_9.power.st = PwrState.dormant) ∧ (wPowerStatesMove_9.power.goDormant = false) ∧ (wPowerStatesMove_9.power.hold = false)) ∧
    ((wPowerStatesMove_10.power.st = PwrState.dormant) ∧ (wPowerStatesMove_10.power.hold = true)) ∧
    ((wPowerStatesMove_11.power.st = PwrState.dormant) ∧ (wPowerStatesMove_11.power.wakeLatch = false)) ∧
    ((wPowerStatesMove_12.power.st = PwrState.dormant) ∧ (wPowerStatesMove_12.power.wakeLatch = true)) ∧
    ((jobOpen wPowerStatesMove_13 = false) ∧ (wPowerStatesMove_13.parked = []) ∧ (wPowerStatesMove_13.dia.valid = true) ∧ (wPowerStatesMove_13.load = none) ∧ (wPowerStatesMove_13.power.moving = false) ∧ (wPowerStatesMove_13.power.goDormant = false) ∧ (wPowerStatesMove_13.power.st = PwrState.ready) ∧ (wPowerStatesMove_13.power.rest ≠ 0#2)) ∧
    ((jobOpen wPowerStatesMove_14 = false) ∧ (wPowerStatesMove_14.parked = []) ∧ (wPowerStatesMove_14.dia.valid = true) ∧ (wPowerStatesMove_14.load = none) ∧ (wPowerStatesMove_14.power.moving = false) ∧ (wPowerStatesMove_14.power.goDormant = false) ∧ (wPowerStatesMove_14.power.st = PwrState.idle) ∧ (2 ≤ wPowerStatesMove_14.power.rest.toNat)) ∧
    ((jobOpen wJobS = true ∨ wJobS.parked ≠ [] ∨ wJobS.dia.valid = false ∨ wJobS.power.rest = 0#2 ∨ wJobS.power.moving = true)) ∧
    ((wUp.power.goDormant = false) ∧ (wUp.power.moving = false)) ∧
    ((wPowerStatesMove_15.power.goDormant = false) ∧ (wPowerStatesMove_15.power.moving = true) ∧ (wPowerStatesMove_15.power.target = PwrState.idle)) ∧
    ((wPowerStatesMove_16.power.goDormant = false) ∧ (wPowerStatesMove_16.power.moving = true) ∧ (wPowerStatesMove_16.power.target = PwrState.sleep)) ∧
    ((wPowerStatesMove_17.power.goDormant = true)) := by
  refine ⟨?_, ?_, ?_, ?_, ?_, ?_, ?_, ?_, ?_, ?_, ?_, ?_, ?_, ?_, ?_, ?_⟩
  all_goals decide +kernel

theorem witness_StartupAndClocks :
    (((sg 1).power.st = PwrState.starting) ∧ ((sg 1).power.porAsserted = false) ∧ ((sg 1).startFailed = false) ∧ ((mgtAt (sg 1) 0).stage = 1#4) ∧ (0 ∈ startingDies (sg 1)) ∧ (wStartupAndClocks_18.failed = [])) ∧
    (((sg 2).power.st = PwrState.starting) ∧ ((sg 2).power.porAsserted = false) ∧ ((sg 2).startFailed = false) ∧ (wStartupAndClocks_19.failed = []) ∧ (wStartupAndClocks_19.defects = []) ∧ ((mgtAt (sg 2) 0).stage = 2#4) ∧ ((sg 2).scrubs = [])) ∧
    (((sg 3).power.st = PwrState.starting) ∧ ((sg 3).power.porAsserted = false) ∧ ((sg 3).startFailed = false) ∧ (wStartupAndClocks_20.failed = []) ∧ ((mgtAt (sg 3) 0).stage = 3#4)) ∧
    (((sg 4).power.st = PwrState.starting) ∧ ((sg 4).power.porAsserted = false) ∧ ((sg 4).startFailed = false) ∧ (wStartupAndClocks_21.failed = []) ∧ ((mgtAt (sg 4) 0).stage = 4#4) ∧ ((sg 4).power.warmRun = false) ∧ ((startingDies (sg 4)).all (densityOk (sg 4)) = true)) ∧
    ((sgR.power.st = PwrState.starting) ∧ (sgR.power.porAsserted = false) ∧ (sgR.startFailed = false) ∧ (wStartupAndClocks_22.failed = []) ∧ (wStartupAndClocks_22.verifyBad = []) ∧ ((mgtAt sgR 0).stage = 5#4) ∧ (((startingDies sgR).all fun (d : Nat) => !trainsFully sgR d 0 && !trainsFully sgR d 1) = true)) ∧
    ((wStartupAndClocks_23.power.st = PwrState.starting) ∧ (wStartupAndClocks_23.power.porAsserted = false) ∧ (wStartupAndClocks_23.startFailed = false) ∧ (wStartupAndClocks_24.failed = []) ∧ (wStartupAndClocks_24.verifyBad = []) ∧ ((mgtAt wStartupAndClocks_23 0).stage = 5#4) ∧ (((startingDies wStartupAndClocks_23).any fun (d : Nat) => trainsFully wStartupAndClocks_23 d 0 || trainsFully wStartupAndClocks_23 d 1) = true)) ∧
    (((sg 4).power.st = PwrState.starting) ∧ ((sg 4).power.porAsserted = false) ∧ ((sg 4).startFailed = false) ∧ ((mgtAt (sg 4) 0).stage.toNat < 6) ∧ (wStartupAndClocks_25.failed = [(0, 7#8)]) ∧ (7#8 ≠ 3#8) ∧ (0 ∈ startingDies (sg 4)) ∧ (0 < (sg 4).part.dies)) ∧
    ((0 < 7) ∧ (7 < wUp.part.dies) ∧ (isFenced wUp (FUnit.die 7) = false)) ∧
    ((wUp.power.st ≠ PwrState.starting)) ∧
    ((wStartupAndClocks_27.pcie.perst = false) ∧ (wStartupAndClocks_27.pcie.retry = true) ∧ (wStartupAndClocks_27.load = none) ∧ (wStartupAndClocks_27.startFailed = true)) ∧
    ((wStartupAndClocks_28.pcie.perst = false) ∧ (wStartupAndClocks_28.pcie.retry = true) ∧ (wStartupAndClocks_28.load = some wStartupAndClocks_29) ∧ (wStartupAndClocks_28.power.st = PwrState.starting)) ∧
    ((wStartupAndClocks_30.pcie.perst = false) ∧ (wStartupAndClocks_30.pcie.retry = true) ∧ (wStartupAndClocks_30.load = none) ∧ (wStartupAndClocks_30.startFailed = false)) ∧
    ((wUp.pcie.perst = true ∨ wUp.pcie.retry = false)) ∧
    ((0 < 2) ∧ (clocksRun run2 2 = true)) ∧
    ((0 < 2) ∧ (clocksRun run2 2 = true) ∧ (run2.power.st ≠ PwrState.sleep) ∧ (2 ≤ 2) ∧ ((mgtAt run2 2).pllLock.getLsbD 2 = true)) ∧
    ((clocksRun run2 2 = true) ∧ (run2.power.st ≠ PwrState.sleep) ∧ ((mgtAt run2 2).pllLock.getLsbD 3 = true)) ∧
    ((clocksRun wStartupAndClocks_31 0 = false ∨ (mgtAt wStartupAndClocks_31 0).pllLock.getLsbD 3 = false ∨ wStartupAndClocks_31.power.st = PwrState.sleep ∧ 1 ≤ 3 ∧ 3 ≤ 3)) ∧
    ((clocksRun run0 0 = true)) ∧
    ((clocksRun wStartupAndClocks_32 0 = false)) ∧
    ((clocksRun run0 0 = true) ∧ (run0.power.st ≠ PwrState.sleep) ∧ (2 ≤ 2) ∧ ((mgtAt run0 0).pllLock.getLsbD 2 = true)) ∧
    ((clocksRun run0 0 = true) ∧ ((mgtAt run0 0).pllLock.getLsbD 4 = true)) := by
  refine ⟨?_, ?_, ?_, ?_, ?_, ?_, ?_, ?_, ?_, ?_, ?_, ?_, ?_, ?_, ?_, ?_, ?_, ?_, ?_, ?_, ?_⟩
  all_goals decide +kernel

theorem witness_DialectLoadPasses :
    ((wSlot.load = some l0) ∧ (l0.second = false)) ∧
    ((wDialectLoadPasses_33.load = some l0) ∧ (l0.second = false) ∧ (dialectFail wDialectLoadPasses_33 (readSlot wDialectLoadPasses_33 l0.slot) = some wDialectLoadPasses_34)) ∧
    ((wSlot.load = some l0) ∧ (l0.second = false) ∧ (dialectFail wSlot (readSlot wSlot l0.slot) = none)) ∧
    ((wDialectLoadPasses_35.load = some l1) ∧ (l1.second = true) ∧ (passCrcs (readSlot wDialectLoadPasses_35 l1.slot) = l1.crcs)) ∧
    ((wDialectLoadPasses_36.load = some wDialectLoadPasses_37) ∧ (wDialectLoadPasses_37.second = true) ∧ (true = true ∨ passCrcs (readSlot wDialectLoadPasses_36 wDialectLoadPasses_37.slot) ≠ wDialectLoadPasses_37.crcs)) ∧
    ((∀ (j : LoadJob), wDialectLoadPasses_38.load = some j → j.second = true)) ∧
    ((∀ (j : LoadJob), wSlot.load = some j → j.second = false)) := by
  refine ⟨?_, ?_, ?_, ?_, ?_, ?_, ?_⟩
  · decide +kernel
  · decide +kernel
  · exact ⟨rfl, rfl, wSlot_passes⟩
  · exact ⟨rfl, rfl, congrArg passCrcs (readSlot_same wDialectLoadPasses_35 wSlot 0 rfl)⟩
  · exact ⟨rfl, rfl, Or.inl rfl⟩
  · decide +kernel
  · decide +kernel

end W09

namespace W10

def cm0 : State := { wUp with dia := {} }
def cmR : State := { cm0 with comps := [(0, { state := 1 })] }
def inp0 : List Byte := List.replicate 65536 0
def cmE : State := { wUp with comps := [(0, { state := 1, jobKind := true, jobLimit := 100, jobDst := 4096, inp := inp0 })] }
def b5 : Block := { wBlk 0 [] with raw := true, payloadLen := 65536, blockLen := 65600, addr := mgtRegion, cached := true }
def bS (n : Nat) : Block := { b5 with blockLen := 64 + n }
def cmC (n : Nat) (lim : Nat) (c : BitVec 32) : State := { wPage with blocks := [{ bS n with rawCrc := c }], comps := [(0, { state := 1, jobKind := true, jobLimit := BitVec.ofNat 17 lim, jobDst := 4096, block := some mgtRegion })] }
def pay : List Byte := [0x42, 7, 0x41, 9, 0xFF]
def bl : Block := wBlk 0 pay
def inn (bs : List Byte) : BandIn := { block := bl, absBand := 0, overlay := false, hdr := bl.header, bytes := bs }
def ln0 : CLine := { line := 0, at_ := some ⟨0, 5, 1, 0, 0⟩, q := 0 }
def ln63 : CLine := { line := 63, at_ := some ⟨0, 5, 1, 0, 63⟩, q := 63 }
def dcl (i : BandIn) (d : Decomp) (integ : Nat) : State :=
  let g : Grammar := { rows := [{ row := 0, mode := 0, strips := 1, overlay := false, integrity := integ }], slots := [⟨0, 0, 0, 0⟩] }
  { wPage with gram := g, job := some wJob, clauses := [(0, { st := .serving, powered := true, input := [i], lines := [ln0, ln63], dec0 := d })] }
def i0 : BandIn := inn pay
def i1 : BandIn := inn [0x42]
def iBad : BandIn := inn [0xFF]
def dr : Decomp := { busy := true, st := .run, started := true }
def dW : Decomp := { dr with tok := some (.value 7, 3), inPos := 2, outPos := 7, acc := [1, 2, 3, 4, 5, 6, 7] }
def full : State := { dcl i0 dW 0 with cells := [(0, { inq := List.replicate 8 { q := 5, ix := 1, w := 0 } })] }
def iS : BandIn := { inn [0x00] with block := wBlk 0 [0] }
def dE : Decomp := { dr with outPos := 65536, inPos := 5, crc := 0xFFFFFFFF }
def q0 : Ckpt := { absBand := 0, line := 0, inPos := 0, outPos := 0, crc := 0 }
def wCompressorJobs_0 : State := { cmE with comps := [(0, { state := 1, jobKind := true, jobLimit := 3, jobDst := 4096, inp := inp0 })] }
def wCompressorJobs_1 : State := { wUp with comps := [(0, { state := 1, inp := [1, 2] })] }
def wCompressorJobs_2 : State := { wPage with blocks := [b5] }
def wCompressorJobs_3 : State := { wPage with blocks := [{ b5 with blockLen := 2 ^ 40 }] }
def wCompressorJobs_4 : Block := { b5 with blockLen := 2 ^ 40 }
def wCompressorJobs_6 : Block := { bS 0 with rawCrc := 7 }
def wDecompressorsExpandBands_10 : State := dcl i0 {} 0
def wDecompressorsExpandBands_11 : State := dcl { i0 with hdr := (wBlk 1 pay).header } {} 1
def wDecompressorsExpandBands_12 : BandIn := { i0 with hdr := (wBlk 1 pay).header }
def wDecompressorsExpandBands_13 : State := dcl i0 { dr with zeroFill := true, outPos := 1023 } 0
def wDecompressorsExpandBands_15 : State := dcl i0 { dr with tok := some (.value 7, 3), inPos := 2 } 0
def wDecompressorsExpandBands_17 : State := dcl i1 { dr with tok := some (.literal, 2), inPos := 1 } 0
def wDecompressorsExpandBands_18 : State := dcl iS { dr with tok := some (.literal, 2), inPos := 1 } 0
def wDecompressorsExpandBands_19 : State := dcl i0 { dr with st := .stall } 1
def wDecompressorsExpandBands_20 : State := dcl i0 { dE with crc := 0 } 1
def wDecompressorsExpandBands_21 : State := dcl i0 { dE with inPos := 4 } 1
def wDecompressorsExpandBands_22 : State := dcl i0 { dE with inPos := 4 } 0
def wDecompressorsExpandBands_23 : State := dcl i0 { following := some q0, ckpts := [q0] } 1
def wDecompressorsExpandBands_24 : State := dcl i0 { following := some q0, ckpts := [q0] } 1

theorem witness_CompressorJobs :
    ((arrives cm0 0 = true) ∧ (cm0.dia.valid = false) ∧ ((compAt cm0 0).state ≠ 1#2)) ∧
    ((arrives cmR 0 = true) ∧ (cmR.dia.valid = false) ∧ ((compAt cmR 0).state = 1#2)) ∧
    ((wUp.dia.valid = true)) ∧
    (((compAt cmE 0).state = 1#2) ∧ ((compAt cmE 0).block = none) ∧ (jobPlane (compAt cmE 0) ≤ (compAt cmE 0).inp.length)) ∧
    (((compAt wCompressorJobs_0 0).state = 1#2) ∧ ((compAt wCompressorJobs_0 0).block = none) ∧ (jobPlane (compAt wCompressorJobs_0 0) ≤ (compAt wCompressorJobs_0 0).inp.length)) ∧
    (((compAt wCompressorJobs_1 0).state = 1#2) ∧ ((compAt wCompressorJobs_1 0).block = none) ∧ ((compAt wCompressorJobs_1 0).inp.length < jobPlane (compAt wCompressorJobs_1 0))) ∧
    (((compAt cmR 0).state = 1#2) ∧ ((compAt cmR 0).block = none)) ∧
    (((compAt wCompressorJobs_2 0).state ≠ 1#2) ∧ (cachedBlock? wCompressorJobs_2 0 = some b5) ∧ (storeSpace wCompressorJobs_2 0 b5.blockLen = some storeBase)) ∧
    (((compAt wCompressorJobs_3 0).state ≠ 1#2) ∧ (cachedBlock? wCompressorJobs_3 0 = some wCompressorJobs_4) ∧ (storeSpace wCompressorJobs_3 0 wCompressorJobs_4.blockLen = none)) ∧
    (((compAt cmR 0).state = 1#2)) ∧
    ((∀ (b : Block), b ∈ wPage.blocks → b.die = 0 → b.cached = false)) ∧
    (((compAt (cmC 0 0 0#32) 0).state = 1#2) ∧ ((compAt (cmC 0 0 0#32) 0).block = some (bS 0).addr) ∧ (List.find? (fun (o : Block) => o.die == 0 && o.cached && o.addr == (bS 0).addr) (cmC 0 0 0#32).blocks = some (bS 0)) ∧ (dramWaits (cmC 0 0 0#32) 0 (bS 0).addr (bS 0).blockLen = false) ∧ (∀ (j : Nat), j < kindPlane (bS 0).kind / 64 → dramBad (dramTouch (cmC 0 0 0#32) 0 (bS 0).addr (bS 0).blockLen) 0 ((bS 0).addr + 64 + 64 * j) = false)) ∧
    (((compAt (cmC 64 0 0#32) 0).state = 1#2) ∧ ((compAt (cmC 64 0 0#32) 0).block = some (bS 64).addr) ∧ (List.find? (fun (o : Block) => o.die == 0 && o.cached && o.addr == (bS 64).addr) (cmC 64 0 0#32).blocks = some (bS 64)) ∧ (dramWaits (cmC 64 0 0#32) 0 (bS 64).addr (bS 64).blockLen = false) ∧ (∀ (j : Nat), j < kindPlane (bS 64).kind / 64 → dramBad (dramTouch (cmC 64 0 0#32) 0 (bS 64).addr (bS 64).blockLen) 0 ((bS 64).addr + 64 + 64 * j) = false)) ∧
    (((compAt (cmC 0 0 7#32) 0).state = 1#2) ∧ ((compAt (cmC 0 0 7#32) 0).block = some wCompressorJobs_6.addr) ∧ (List.find? (fun (o : Block) => o.die == 0 && o.cached && o.addr == wCompressorJobs_6.addr) (cmC 0 0 7#32).blocks = some wCompressorJobs_6) ∧ (dramWaits (cmC 0 0 7#32) 0 wCompressorJobs_6.addr wCompressorJobs_6.blockLen = false) ∧ (∀ (j : Nat), j < kindPlane wCompressorJobs_6.kind / 64 → dramBad (dramTouch (cmC 0 0 7#32) 0 wCompressorJobs_6.addr wCompressorJobs_6.blockLen) 0 (wCompressorJobs_6.addr + 64 + 64 * j) = false)) := by
  refine ⟨?_, ?_, ?_, ?_, ?_, ?_, ?_, ?_, ?_, ?_, ?_, ?_, ?_, ?_⟩
  all_goals decide +kernel

theorem witness_CompressJobEndsOnce :
    ((exec (Instr.cmpJobEnd 0 true) cm0 = Host.Outcome.next cm0)) ∧
    ((exec (Instr.cmpAbort 0) cm0 = Host.Outcome.next cm0)) ∧
    (((compAt cm0 0).state ≠ 1#2)) ∧
    (((compAt cmE 0).state = 1#2) ∧ ((compAt cmE 0).block = none) ∧ (jobPlane (compAt cmE 0) ≤ (compAt cmE 0).inp.length)) ∧
    ((arrives cmR 0 = true) ∧ (cmR.dia.valid = false) ∧ ((compAt cmR 0).state = 1#2)) := by
  refine ⟨?_, ?_, ?_, ?_, ?_⟩
  · exact rfl
  · exact rfl
  · decide +kernel
  · decide +kernel
  · decide +kernel

theorem witness_DecompressorsExpandBands :
    ((0 < 2) ∧ (((clauseAt wDecompressorsExpandBands_10 (clauseIx 0 0)).dec 0).busy = false) ∧ (((clauseAt wDecompressorsExpandBands_10 (clauseIx 0 0)).dec 0).reexpand = none) ∧ (nextInput? (clauseAt wDecompressorsExpandBands_10 (clauseIx 0 0)) (clauseRow wDecompressorsExpandBands_10 (clauseIx 0 0)) 0 ((clauseAt wDecompressorsExpandBands_10 (clauseIx 0 0)).dec 0) = some i0) ∧ (i0.bytes ≠ []) ∧ (identityOk i0 = true)) ∧
    ((0 < 2) ∧ (((clauseAt wDecompressorsExpandBands_11 (clauseIx 0 0)).dec 0).busy = false) ∧ (((clauseAt wDecompressorsExpandBands_11 (clauseIx 0 0)).dec 0).reexpand = none) ∧ (nextInput? (clauseAt wDecompressorsExpandBands_11 (clauseIx 0 0)) (clauseRow wDecompressorsExpandBands_11 (clauseIx 0 0)) 0 ((clauseAt wDecompressorsExpandBands_11 (clauseIx 0 0)).dec 0) = some wDecompressorsExpandBands_12) ∧ (wDecompressorsExpandBands_12.bytes ≠ []) ∧ (identityOk wDecompressorsExpandBands_12 = false) ∧ ((clauseRow wDecompressorsExpandBands_11 (clauseIx 0 0)).integrity = 1)) ∧
    ((((clauseAt (dcl i0 dr 0) (clauseIx 0 0)).dec 0).busy = true)) ∧
    ((0 < 2) ∧ (((clauseAt (readToken (dcl i0 dr 0) (clauseIx 0 0) 0) (clauseIx 0 0)).dec 0).busy = true) ∧ (((clauseAt (readToken (dcl i0 dr 0) (clauseIx 0 0) 0) (clauseIx 0 0)).dec 0).st = DecState.run) ∧ (((clauseAt (readToken (dcl i0 dr 0) (clauseIx 0 0) 0) (clauseIx 0 0)).dec 0).tok = none) ∧ (((clauseAt (readToken (dcl i0 dr 0) (clauseIx 0 0) 0) (clauseIx 0 0)).dec 0).reexpand = none) ∧ (((clauseAt (readToken (dcl i0 dr 0) (clauseIx 0 0) 0) (clauseIx 0 0)).dec 0).zeroFill = false) ∧ (i0.block.raw = false) ∧ ((clauseAt (dcl i0 dr 0) (clauseIx 0 0)).dec 0 = (clauseAt (readToken (dcl i0 dr 0) (clauseIx 0 0) 0) (clauseIx 0 0)).dec 0) ∧ (decInput? (clauseAt (dcl i0 dr 0) (clauseIx 0 0)) (clauseRow (dcl i0 dr 0) (clauseIx 0 0)) 0 ((clauseAt (readToken (dcl i0 dr 0) (clauseIx 0 0) 0) (clauseIx 0 0)).dec 0) = some i0) ∧ (i0.flips = []) ∧ (((clauseAt (readToken (dcl i0 dr 0) (clauseIx 0 0) 0) (clauseIx 0 0)).dec 0).outPos < 64 * lineLen (kindCodes i0.block.kind)) ∧ (lineFor? (clauseAt (dcl i0 dr 0) (clauseIx 0 0)) ((clauseAt (readToken (dcl i0 dr 0) (clauseIx 0 0) 0) (clauseIx 0 0)).dec 0).absBand (((clauseAt (readToken (dcl i0 dr 0) (clauseIx 0 0) 0) (clauseIx 0 0)).dec 0).outPos / lineLen (kindCodes i0.block.kind)) ≠ none) ∧ (tokRead i0.bytes i0.badByte i0.block.payloadLen (lineLen (kindCodes i0.block.kind)) ((clauseAt (readToken (dcl i0 dr 0) (clauseIx 0 0) 0) (clauseIx 0 0)).dec 0).inPos ((clauseAt (readToken (dcl i0 dr 0) (clauseIx 0 0) 0) (clauseIx 0 0)).dec 0).outPos = TokRead.tok (TokSrc.value 7#8) 5 2)) ∧
    ((0 < 2) ∧ (((clauseAt wDecompressorsExpandBands_13 (clauseIx 0 0)).dec 0).busy = true) ∧ (((clauseAt wDecompressorsExpandBands_13 (clauseIx 0 0)).dec 0).st = DecState.run) ∧ (((clauseAt wDecompressorsExpandBands_13 (clauseIx 0 0)).dec 0).tok = none) ∧ (((clauseAt wDecompressorsExpandBands_13 (clauseIx 0 0)).dec 0).reexpand = none) ∧ (((clauseAt wDecompressorsExpandBands_13 (clauseIx 0 0)).dec 0).zeroFill = true ∨ i0.block.raw = true) ∧ (decInput? (clauseAt wDecompressorsExpandBands_13 (clauseIx 0 0)) (clauseRow wDecompressorsExpandBands_13 (clauseIx 0 0)) 0 ((clauseAt wDecompressorsExpandBands_13 (clauseIx 0 0)).dec 0) = some i0) ∧ (((clauseAt wDecompressorsExpandBands_13 (clauseIx 0 0)).dec 0).outPos < 64 * lineLen (kindCodes i0.block.kind)) ∧ (lineFor? (clauseAt wDecompressorsExpandBands_13 (clauseIx 0 0)) ((clauseAt wDecompressorsExpandBands_13 (clauseIx 0 0)).dec 0).absBand (((clauseAt wDecompressorsExpandBands_13 (clauseIx 0 0)).dec 0).outPos / lineLen (kindCodes i0.block.kind)) ≠ none)) ∧
    ((0 < 2) ∧ (decInput? (clauseAt wDecompressorsExpandBands_15 0) (clauseRow wDecompressorsExpandBands_15 0) 0 ((clauseAt wDecompressorsExpandBands_15 0).dec 0) = some i0) ∧ (i0.flips = []) ∧ (((clauseAt wDecompressorsExpandBands_15 0).dec 0).tok = some (TokSrc.value 7#8, 3)) ∧ (3 ≠ 0) ∧ (tokByte i0 ((clauseAt wDecompressorsExpandBands_15 0).dec 0) (TokSrc.value 7#8) = some (Except.ok 7#8)) ∧ (lineFor? (clauseAt wDecompressorsExpandBands_15 0) ((clauseAt wDecompressorsExpandBands_15 0).dec 0).absBand (((clauseAt wDecompressorsExpandBands_15 0).dec 0).outPos / lineLen (kindCodes i0.block.kind)) = some ln0) ∧ (((clauseAt wDecompressorsExpandBands_15 0).dec 0).acc.length ≠ 7)) ∧
    ((0 < 2) ∧ (decInput? (clauseAt full 0) (clauseRow full 0) 0 ((clauseAt full 0).dec 0) = some i0) ∧ (i0.flips = []) ∧ (((clauseAt full 0).dec 0).tok = some (TokSrc.value 7#8, 3)) ∧ (3 ≠ 0) ∧ (tokByte i0 ((clauseAt full 0).dec 0) (TokSrc.value 7#8) = some (Except.ok 7#8)) ∧ (lineFor? (clauseAt full 0) ((clauseAt full 0).dec 0).absBand (((clauseAt full 0).dec 0).outPos / lineLen (kindCodes i0.block.kind)) = some ln0) ∧ (((clauseAt full 0).dec 0).acc.length = 7) ∧ (wordRoom full 0 (wordDest (kindCodes i0.block.kind) ((clauseRow full 0).overlay && 0 == 1) (((clauseAt full 0).dec 0).outPos % lineLen (kindCodes i0.block.kind))).fst ln0.q (wordDest (kindCodes i0.block.kind) ((clauseRow full 0).overlay && 0 == 1) (((clauseAt full 0).dec 0).outPos % lineLen (kindCodes i0.block.kind))).snd = false)) ∧
    ((0 < 2) ∧ (decInput? (clauseAt (dcl i0 dW 0) 0) (clauseRow (dcl i0 dW 0) 0) 0 ((clauseAt (dcl i0 dW 0) 0).dec 0) = some i0) ∧ (i0.flips = []) ∧ (((clauseAt (dcl i0 dW 0) 0).dec 0).tok = some (TokSrc.value 7#8, 3)) ∧ (3 ≠ 0) ∧ (tokByte i0 ((clauseAt (dcl i0 dW 0) 0).dec 0) (TokSrc.value 7#8) = some (Except.ok 7#8)) ∧ (lineFor? (clauseAt (dcl i0 dW 0) 0) ((clauseAt (dcl i0 dW 0) 0).dec 0).absBand (((clauseAt (dcl i0 dW 0) 0).dec 0).outPos / lineLen (kindCodes i0.block.kind)) = some ln0) ∧ (((clauseAt (dcl i0 dW 0) 0).dec 0).acc.length = 7) ∧ (wordRoom (dcl i0 dW 0) 0 (wordDest (kindCodes i0.block.kind) ((clauseRow (dcl i0 dW 0) 0).overlay && 0 == 1) (((clauseAt (dcl i0 dW 0) 0).dec 0).outPos % lineLen (kindCodes i0.block.kind))).fst ln0.q (wordDest (kindCodes i0.block.kind) ((clauseRow (dcl i0 dW 0) 0).overlay && 0 == 1) (((clauseAt (dcl i0 dW 0) 0).dec 0).outPos % lineLen (kindCodes i0.block.kind))).snd = true)) ∧
    ((0 < 2) ∧ (decInput? (clauseAt wDecompressorsExpandBands_17 0) (clauseRow wDecompressorsExpandBands_17 0) 0 ((clauseAt wDecompressorsExpandBands_17 0).dec 0) = some i1) ∧ (i1.flips = []) ∧ (((clauseAt wDecompressorsExpandBands_17 0).dec 0).tok = some (TokSrc.literal, 2)) ∧ (2 ≠ 0) ∧ (tokByte i1 ((clauseAt wDecompressorsExpandBands_17 0).dec 0) TokSrc.literal = none)) ∧
    ((0 < 2) ∧ (decInput? (clauseAt wDecompressorsExpandBands_18 0) (clauseRow wDecompressorsExpandBands_18 0) 0 ((clauseAt wDecompressorsExpandBands_18 0).dec 0) = some iS) ∧ (iS.flips = []) ∧ (((clauseAt wDecompressorsExpandBands_18 0).dec 0).tok = some (TokSrc.literal, 2)) ∧ (2 ≠ 0) ∧ (tokByte iS ((clauseAt wDecompressorsExpandBands_18 0).dec 0) TokSrc.literal = some (Except.error 4))) ∧
    ((((clauseAt wPage 0).dec 0).tok = none)) ∧
    ((0 < 2) ∧ (((clauseAt (dcl i0 dr 0) (clauseIx 0 0)).dec 0).busy = true) ∧ (((clauseAt (dcl i0 dr 0) (clauseIx 0 0)).dec 0).st = DecState.run) ∧ (((clauseAt (dcl i0 dr 0) (clauseIx 0 0)).dec 0).tok = none) ∧ (((clauseAt (dcl i0 dr 0) (clauseIx 0 0)).dec 0).reexpand = none) ∧ (((clauseAt (dcl i0 dr 0) (clauseIx 0 0)).dec 0).zeroFill = false) ∧ (i0.block.raw = false) ∧ (decInput? (clauseAt (dcl i0 dr 0) (clauseIx 0 0)) (clauseRow (dcl i0 dr 0) (clauseIx 0 0)) 0 ((clauseAt (dcl i0 dr 0) (clauseIx 0 0)).dec 0) = some i0) ∧ (i0.flips = []) ∧ (((clauseAt (dcl i0 dr 0) (clauseIx 0 0)).dec 0).outPos < 64 * lineLen (kindCodes i0.block.kind)) ∧ (lineFor? (clauseAt (dcl i0 dr 0) (clauseIx 0 0)) ((clauseAt (dcl i0 dr 0) (clauseIx 0 0)).dec 0).absBand (((clauseAt (dcl i0 dr 0) (clauseIx 0 0)).dec 0).outPos / lineLen (kindCodes i0.block.kind)) ≠ none) ∧ (tokRead i0.bytes i0.badByte i0.block.payloadLen (lineLen (kindCodes i0.block.kind)) ((clauseAt (dcl i0 dr 0) (clauseIx 0 0)).dec 0).inPos ((clauseAt (dcl i0 dr 0) (clauseIx 0 0)).dec 0).outPos = TokRead.tok (TokSrc.value 7#8) 5 2) ∧ (0 < 5) ∧ (((clauseAt (dcl i0 dr 0) (clauseIx 0 0)).dec 0).acc.length + 5 < 8)) ∧
    ((0 < 2) ∧ (((clauseAt (dcl i1 dr 1) (clauseIx 0 0)).dec 0).busy = true) ∧ (((clauseAt (dcl i1 dr 1) (clauseIx 0 0)).dec 0).st = DecState.run) ∧ (((clauseAt (dcl i1 dr 1) (clauseIx 0 0)).dec 0).tok = none) ∧ (((clauseAt (dcl i1 dr 1) (clauseIx 0 0)).dec 0).reexpand = none) ∧ (((clauseAt (dcl i1 dr 1) (clauseIx 0 0)).dec 0).zeroFill = false) ∧ (i1.block.raw = false) ∧ (decInput? (clauseAt (dcl i1 dr 1) (clauseIx 0 0)) (clauseRow (dcl i1 dr 1) (clauseIx 0 0)) 0 ((clauseAt (dcl i1 dr 1) (clauseIx 0 0)).dec 0) = some i1) ∧ (i1.flips = []) ∧ (((clauseAt (dcl i1 dr 1) (clauseIx 0 0)).dec 0).outPos < 64 * lineLen (kindCodes i1.block.kind)) ∧ (lineFor? (clauseAt (dcl i1 dr 1) (clauseIx 0 0)) ((clauseAt (dcl i1 dr 1) (clauseIx 0 0)).dec 0).absBand (((clauseAt (dcl i1 dr 1) (clauseIx 0 0)).dec 0).outPos / lineLen (kindCodes i1.block.kind)) ≠ none) ∧ (tokRead i1.bytes i1.badByte i1.block.payloadLen (lineLen (kindCodes i1.block.kind)) ((clauseAt (dcl i1 dr 1) (clauseIx 0 0)).dec 0).inPos ((clauseAt (dcl i1 dr 1) (clauseIx 0 0)).dec 0).outPos = TokRead.more)) ∧
    ((0 < 2) ∧ (((clauseAt (dcl iBad dr 1) (clauseIx 0 0)).dec 0).busy = true) ∧ (((clauseAt (dcl iBad dr 1) (clauseIx 0 0)).dec 0).st = DecState.run) ∧ (((clauseAt (dcl iBad dr 1) (clauseIx 0 0)).dec 0).tok = none) ∧ (((clauseAt (dcl iBad dr 1) (clauseIx 0 0)).dec 0).reexpand = none) ∧ (((clauseAt (dcl iBad dr 1) (clauseIx 0 0)).dec 0).zeroFill = false) ∧ (iBad.block.raw = false) ∧ (decInput? (clauseAt (dcl iBad dr 1) (clauseIx 0 0)) (clauseRow (dcl iBad dr 1) (clauseIx 0 0)) 0 ((clauseAt (dcl iBad dr 1) (clauseIx 0 0)).dec 0) = some iBad) ∧ (iBad.flips = []) ∧ (((clauseAt (dcl iBad dr 1) (clauseIx 0 0)).dec 0).outPos < 64 * lineLen (kindCodes iBad.block.kind)) ∧ (lineFor? (clauseAt (dcl iBad dr 1) (clauseIx 0 0)) ((clauseAt (dcl iBad dr 1) (clauseIx 0 0)).dec 0).absBand (((clauseAt (dcl iBad dr 1) (clauseIx 0 0)).dec 0).outPos / lineLen (kindCodes iBad.block.kind)) ≠ none) ∧ (tokRead iBad.bytes iBad.badByte iBad.block.payloadLen (lineLen (kindCodes iBad.block.kind)) ((clauseAt (dcl iBad dr 1) (clauseIx 0 0)).dec 0).inPos ((clauseAt (dcl iBad dr 1) (clauseIx 0 0)).dec 0).outPos = TokRead.bad 1) ∧ ((clauseRow (dcl iBad dr 1) (clauseIx 0 0)).integrity = 1)) ∧
    ((((clauseAt wPage (clauseIx 0 65)).dec 1).busy = false ∨ ((clauseAt wPage (clauseIx 0 65)).dec 1).st ≠ DecState.run ∨ ((clauseAt wPage (clauseIx 0 65)).dec 1).tok.isSome = true ∨ ((clauseAt wPage (clauseIx 0 65)).dec 1).reexpand.isSome = true)) ∧
    ((0 < 2) ∧ (((clauseAt wDecompressorsExpandBands_19 (clauseIx 0 0)).dec 0).busy = true) ∧ (((clauseAt wDecompressorsExpandBands_19 (clauseIx 0 0)).dec 0).reexpand = none) ∧ (((clauseAt wDecompressorsExpandBands_19 (clauseIx 0 0)).dec 0).st = DecState.wait ∨ ((clauseAt wDecompressorsExpandBands_19 (clauseIx 0 0)).dec 0).st = DecState.stall)) ∧
    ((((clauseAt (dcl i0 dr 1) (clauseIx 0 0)).dec 0).busy = false ∨ ((clauseAt (dcl i0 dr 1) (clauseIx 0 0)).dec 0).st ≠ DecState.wait ∧ ((clauseAt (dcl i0 dr 1) (clauseIx 0 0)).dec 0).st ≠ DecState.stall ∨ ((clauseAt (dcl i0 dr 1) (clauseIx 0 0)).dec 0).reexpand.isSome = true)) ∧
    ((0 < 2) ∧ (((clauseAt (dcl i0 dE 1) (clauseIx 0 0)).dec 0).busy = true) ∧ (((clauseAt (dcl i0 dE 1) (clauseIx 0 0)).dec 0).tok = none) ∧ (((clauseAt (dcl i0 dE 1) (clauseIx 0 0)).dec 0).reexpand = none) ∧ (decInput? (clauseAt (dcl i0 dE 1) (clauseIx 0 0)) (clauseRow (dcl i0 dE 1) (clauseIx 0 0)) 0 ((clauseAt (dcl i0 dE 1) (clauseIx 0 0)).dec 0) = some i0) ∧ (64 * lineLen (kindCodes i0.block.kind) ≤ ((clauseAt (dcl i0 dE 1) (clauseIx 0 0)).dec 0).outPos) ∧ ((((clauseAt (dcl i0 dE 1) (clauseIx 0 0)).dec 0).zeroFill == false && i0.block.raw == false && decide (((clauseAt (dcl i0 dE 1) (clauseIx 0 0)).dec 0).inPos < i0.block.payloadLen)) = false) ∧ ((((clauseAt (dcl i0 dE 1) (clauseIx 0 0)).dec 0).zeroFill == false && (((clauseAt (dcl i0 dE 1) (clauseIx 0 0)).dec 0).zeroFill == false && i0.block.raw == false && decide (((clauseAt (dcl i0 dE 1) (clauseIx 0 0)).dec 0).inPos < i0.block.payloadLen)) == false && ((clauseAt (dcl i0 dE 1) (clauseIx 0 0)).dec 0).crc ^^^ 4294967295#32 != i0.block.rawCrc) = false)) ∧
    ((0 < 2) ∧ (((clauseAt wDecompressorsExpandBands_20 (clauseIx 0 0)).dec 0).busy = true) ∧ (((clauseAt wDecompressorsExpandBands_20 (clauseIx 0 0)).dec 0).tok = none) ∧ (((clauseAt wDecompressorsExpandBands_20 (clauseIx 0 0)).dec 0).reexpand = none) ∧ (decInput? (clauseAt wDecompressorsExpandBands_20 (clauseIx 0 0)) (clauseRow wDecompressorsExpandBands_20 (clauseIx 0 0)) 0 ((clauseAt wDecompressorsExpandBands_20 (clauseIx 0 0)).dec 0) = some i0) ∧ (64 * lineLen (kindCodes i0.block.kind) ≤ ((clauseAt wDecompressorsExpandBands_20 (clauseIx 0 0)).dec 0).outPos) ∧ ((((clauseAt wDecompressorsExpandBands_20 (clauseIx 0 0)).dec 0).zeroFill == false && (((clauseAt wDecompressorsExpandBands_20 (clauseIx 0 0)).dec 0).zeroFill == false && i0.block.raw == false && decide (((clauseAt wDecompressorsExpandBands_20 (clauseIx 0 0)).dec 0).inPos < i0.block.payloadLen)) == false && ((clauseAt wDecompressorsExpandBands_20 (clauseIx 0 0)).dec 0).crc ^^^ 4294967295#32 != i0.block.rawCrc) = true) ∧ ((clauseRow wDecompressorsExpandBands_20 (clauseIx 0 0)).integrity = 1)) ∧
    ((0 < 2) ∧ (((clauseAt wDecompressorsExpandBands_21 (clauseIx 0 0)).dec 0).busy = true) ∧ (((clauseAt wDecompressorsExpandBands_21 (clauseIx 0 0)).dec 0).tok = none) ∧ (((clauseAt wDecompressorsExpandBands_21 (clauseIx 0 0)).dec 0).reexpand = none) ∧ (decInput? (clauseAt wDecompressorsExpandBands_21 (clauseIx 0 0)) (clauseRow wDecompressorsExpandBands_21 (clauseIx 0 0)) 0 ((clauseAt wDecompressorsExpandBands_21 (clauseIx 0 0)).dec 0) = some i0) ∧ (64 * lineLen (kindCodes i0.block.kind) ≤ ((clauseAt wDecompressorsExpandBands_21 (clauseIx 0 0)).dec 0).outPos) ∧ ((((clauseAt wDecompressorsExpandBands_21 (clauseIx 0 0)).dec 0).zeroFill == false && i0.block.raw == false && decide (((clauseAt wDecompressorsExpandBands_21 (clauseIx 0 0)).dec 0).inPos < i0.block.payloadLen)) = true) ∧ ((clauseRow wDecompressorsExpandBands_21 (clauseIx 0 0)).integrity = 1)) ∧
    ((0 < 2) ∧ (((clauseAt wDecompressorsExpandBands_22 (clauseIx 0 0)).dec 0).busy = true) ∧ (((clauseAt wDecompressorsExpandBands_22 (clauseIx 0 0)).dec 0).tok = none) ∧ (((clauseAt wDecompressorsExpandBands_22 (clauseIx 0 0)).dec 0).reexpand = none) ∧ (decInput? (clauseAt wDecompressorsExpandBands_22 (clauseIx 0 0)) (clauseRow wDecompressorsExpandBands_22 (clauseIx 0 0)) 0 ((clauseAt wDecompressorsExpandBands_22 (clauseIx 0 0)).dec 0) = some i0) ∧ (64 * lineLen (kindCodes i0.block.kind) ≤ ((clauseAt wDecompressorsExpandBands_22 (clauseIx 0 0)).dec 0).outPos) ∧ ((((clauseAt wDecompressorsExpandBands_22 (clauseIx 0 0)).dec 0).zeroFill == false && i0.block.raw == false && decide (((clauseAt wDecompressorsExpandBands_22 (clauseIx 0 0)).dec 0).inPos < i0.block.payloadLen)) = true ∨ (((clauseAt wDecompressorsExpandBands_22 (clauseIx 0 0)).dec 0).zeroFill == false && (((clauseAt wDecompressorsExpandBands_22 (clauseIx 0 0)).dec 0).zeroFill == false && i0.block.raw == false && decide (((clauseAt wDecompressorsExpandBands_22 (clauseIx 0 0)).dec 0).inPos < i0.block.payloadLen)) == false && ((clauseAt wDecompressorsExpandBands_22 (clauseIx 0 0)).dec 0).crc ^^^ 4294967295#32 != i0.block.rawCrc) = true) ∧ ((clauseRow wDecompressorsExpandBands_22 (clauseIx 0 0)).integrity ≠ 1)) ∧
    ((((clauseAt wPage (clauseIx 0 65)).dec 1).busy = false ∨ ((clauseAt wPage (clauseIx 0 65)).dec 1).tok.isSome = true ∨ ((clauseAt wPage (clauseIx 0 65)).dec 1).reexpand.isSome = true)) ∧
    ((0 < 2) ∧ (((clauseAt wDecompressorsExpandBands_23 (clauseIx 0 0)).dec 0).following = some q0) ∧ ((clauseAt wDecompressorsExpandBands_23 (clauseIx 0 0)).inputFor? q0.absBand ((clauseRow wDecompressorsExpandBands_23 (clauseIx 0 0)).overlay && 0 == 1) = some i0) ∧ (i0.flips = [])) ∧
    ((((clauseAt (dcl i0 dr 1) (clauseIx 0 0)).dec 0).following = none)) ∧
    ((0 < 2) ∧ (((clauseAt wDecompressorsExpandBands_24 (clauseIx 0 0)).dec 0).following = some q0) ∧ (((clauseAt wDecompressorsExpandBands_24 (clauseIx 0 0)).dec 0).reexpand = none) ∧ (((clauseAt wDecompressorsExpandBands_24 (clauseIx 0 0)).dec 0).ckpts = [q0]) ∧ ((clauseAt wDecompressorsExpandBands_24 (clauseIx 0 0)).inputFor? q0.absBand ((clauseRow wDecompressorsExpandBands_24 (clauseIx 0 0)).overlay && 0 == 1) = some i0) ∧ (i0.flips = []) ∧ (q0.zero = false)) := by
  refine ⟨?_, ?_, ?_, ?_, ?_, ?_, ?_, ?_, ?_, ?_, ?_, ?_, ?_, ?_, ?_, ?_, ?_, ?_, ?_, ?_, ?_, ?_, ?_, ?_, ?_⟩
  all_goals decide +kernel

end W10

namespace W11

def ckb : Block := { wBlk 0 [1, 2, 3] with sig := true, addr := storeBase }
def cki : BandIn := { block := ckb, absBand := 0, overlay := false, hdr := ckb.header }
def ckl : CLine := { line := 0, at_ := some ⟨0, 5, 1, 0, 0⟩, q := 0, st := .checking, begun := 3 }
def ck0 : State := { wPage with job := some wJob, clauses := [(0, { st := .serving, powered := true, input := [cki], lines := [ckl] })] }
def ckSig : Word := crc32c (natLE 4 5 ++ natLE 4 0 ++ [0, 0] ++ natLE 2 0 ++ natLE 4 0 ++ ckl.codeBytes)
def ck1 : State := dramWr ck0 0 (storeBase + ckb.trailerAt) (natLE 4 ckSig.toNat)
def a1 : PLine := ⟨0, 5, 1, 0, 0⟩
def g1 : SlotCfg := ⟨0, 0, 0, 0⟩
def ckRe (st : ClauseState) (s1 : Option Word) : State := { wPage with job := some wJob, clauses := [(0, { st := st, powered := true, input := [cki], lines := [{ ckl with rerun := true, sig1 := s1, fault := true }] })] }
def rl (s1 : Option Word) : CLine := { ckl with rerun := true, sig1 := s1, fault := true }
def ckW : State := { ck0 with ddr := [(0, { st := .retrain })] }
def tk : State := { wPage with job := some wJob, clauses := [(0, { st := .fencing, powered := true, preparing := some 65 }), (65, { st := .spare, powered := true, spareFor := some 0, prepared := true })] }
def tst : State := { wUp with clauses := [(65, { st := .testing, powered := true })], fences := [(65, { st := .testing, reason := 3 })] }
def mg : State := { wUp with mgt := [(0, { stage := 8 }), (7, { stage := 8, lastBeat := 900 })] }
def mgP : State := { mg with poison := [⟨.tcm, 7, 5⟩] }
def e1 : LogEntry := ⟨0x10, 0, 3, 2, 0, List.replicate 16 0⟩
def secF : State := { wUp with log := { sector := [⟨1, e1⟩], sectors := List.replicate 2048 [], ringFirst := 2047 } }
def clS : State := { wUp with tb := 30000, cal := { due := [(1, 7)], lastRun := [(4103, 5000)] } }
def wChecksAndTakeovers_0 : State := { wUp with clauses := [(527, { st := .spare, spareFor := some 462 })] }
def wChecksAndTakeovers_1 : State := { tk with clauses := [(0, { st := .fencing, powered := true, preparing := some 65 }), (65, { st := .spare, powered := true, spareFor := some 0 })] }
def wChecksAndTakeovers_2 : State := { wUp with clauses := [(65, { st := .spare, spareFor := some 0 })] }
def wManagersWatchTheDies_3 : List Nat := [0, 5]
def wManagersWatchTheDies_4 : List Nat := [0, 5]
def wManagersWatchTheDies_5 : State := { mg with mgt := [(7, { stage := 8, coreStopped := true })] }
def wManagersWatchTheDies_7 : List Nat := [0, 5]
def wManagersWatchTheDies_8 : State := { mg with cal := { busy := true, item := 2, res := 7 } }
def wManagersWatchTheDies_9 : State := { wUp with mgt := [(7, { warn := true })], sense := [(120, ⟨true, true, 1600⟩)] }
def wManagersWatchTheDies_10 : State := { wUp with mgt := [(7, { warn := true })], sense := [(112, ⟨true, false, 1599⟩)] }
def wEventLogAndCalibration_11 : State := { mg with evqs := [(21, { items := [.entry e1] })] }
def wEventLogAndCalibration_12 : State := { mg with evqs := [(21, { items := [.entry e1], lostNew := 3, lost := 3 })] }
def wEventLogAndCalibration_13 : State := { wUp with log := { sector := [⟨1, e1⟩] } }
def wEventLogAndCalibration_14 : State := { wUp with log := { intervalOpen := true, qualified := true } }
def wEventLogAndCalibration_15 : State := { wUp with power := {} }
def wEventLogAndCalibration_16 : State := { wUp with log := { intervalOpen := true } }
def wEventLogAndCalibration_17 : State := { clS with cal := { busy := true } }
def wEventLogAndCalibration_18 : State := { wUp with cal := { busy := true, item := 1 }, ddr := [(15, { st := .active, wantRetrain := true })] }
def wEventLogAndCalibration_19 : State := { wUp with cal := { busy := true, item := 1, res := 7 } }
def wEventLogAndCalibration_20 : State := { wUp with cal := { busy := true, item := 1, res := 7 } }
def wEventLogAndCalibration_21 : State := { wUp with cal := { busy := true, item := 2, res := 7, ofsMax := 100 } }
def wEventLogAndCalibration_23 : State := { wUp with cal := { busy := true, item := 3, res := 63 } }
def wEventLogAndCalibration_24 : State := { wUp with cal := { busy := true, item := 4, res := 31, latWin := 3 }, heads := [(31, { round := some 5000, latCaps := 100 })] }
def wEventLogAndCalibration_25 : State := { wUp with job := some wJob, cal := { busy := true, item := 1, res := 7 } }
def wEventLogAndCalibration_26 : State := { wUp with cal := { busy := true, item := 4, res := 7 } }
def wEventLogAndCalibration_27 : State := { wUp with rows := [(63, { committed := some 7, tl := 2000, period := 300 })] }
def wEventLogAndCalibration_28 : State := { wUp with tb := 15000000005, cal := { changed := true, lastWrite := some 5 } }
def wEventLogAndCalibration_29 : State := { wUp with cal := { changed := true, atOnce := true, lastWrite := some 5 } }

theorem witness_ChecksAndTakeovers :
    ((List.find? (fun (l : CLine) => l.st == LineState.checking) (clauseAt ck1 (clauseIx 0 0)).lines = some ckl) ∧ (clauseSlot? ck1 (clauseIx 0 0) = some g1) ∧ (ckl.at_ = some a1) ∧ (trailerInput? (clauseAt ck1 (clauseIx 0 0)) a1.absBand = some cki) ∧ (ckl.rerun = false) ∧ ((clauseAt ck1 (clauseIx 0 0)).lineOf? ckl.line = some ckl) ∧ (∀ (m : CLine), m ∈ (clauseAt ck1 (clauseIx 0 0)).lines → m.rerunWait = false) ∧ (ckl.flips = []) ∧ (quietDram ck1 = true) ∧ (dramWaits ck1 cki.block.die (sigAddr cki a1.bandLine) 4 = false) ∧ (dramBad ck1 cki.block.die (sigAddr cki a1.bandLine) = false) ∧ (ckl.poison = []) ∧ (crc32c (natLE 4 (BitVec.toNat a1.page) ++ natLE 4 (BitVec.toNat (if cki.overlay = true then a1.copy else 0#32)) ++ [BitVec.ofNat 8 g1.row, 0#8] ++ natLE 2 g1.pos ++ natLE 4 (64 * a1.band + a1.bandLine) ++ ckl.codeBytes) = BitVec.ofNat 32 (leNat (dramRd ck1 cki.block.die (cki.block.addr + cki.block.trailerAt + 4 * a1.bandLine) 4)))) ∧
    ((List.find? (fun (l : CLine) => l.st == LineState.checking) (clauseAt ck0 (clauseIx 0 0)).lines = some ckl) ∧ (clauseSlot? ck0 (clauseIx 0 0) = some g1) ∧ (ckl.at_ = some a1) ∧ (trailerInput? (clauseAt ck0 (clauseIx 0 0)) a1.absBand = some cki) ∧ (ckl.rerun = false) ∧ ((clauseAt ck0 (clauseIx 0 0)).lineOf? ckl.line = some ckl) ∧ (∀ (m : CLine), m ∈ (clauseAt ck0 (clauseIx 0 0)).lines → m.rerunWait = false) ∧ (ckl.flips = []) ∧ (quietDram ck0 = true) ∧ (dramWaits ck0 cki.block.die (sigAddr cki a1.bandLine) 4 = false) ∧ (dramBad ck0 cki.block.die (sigAddr cki a1.bandLine) = false) ∧ (ckl.poison ≠ [] ∨ crc32c (natLE 4 (BitVec.toNat a1.page) ++ natLE 4 (BitVec.toNat (if cki.overlay = true then a1.copy else 0#32)) ++ [BitVec.ofNat 8 g1.row, 0#8] ++ natLE 2 g1.pos ++ natLE 4 (64 * a1.band + a1.bandLine) ++ ckl.codeBytes) ≠ BitVec.ofNat 32 (leNat (dramRd ck0 cki.block.die (cki.block.addr + cki.block.trailerAt + 4 * a1.bandLine) 4))) ∧ ((clauseAt ck0 (clauseIx 0 0)).st = ClauseState.serving) ∧ ((clauseAt ck0 (clauseIx 0 0)).bandLost a1.absBand = false) ∧ ((clauseAt ck0 (clauseIx 0 0)).rerunning = false)) ∧
    ((List.find? (fun (l : CLine) => l.st == LineState.checking) (clauseAt (dramWr (ckRe ClauseState.serving none) 0 (storeBase + ckb.trailerAt) (natLE 4 (BitVec.toNat ckSig))) (clauseIx 0 0)).lines = some (rl none)) ∧ (clauseSlot? (dramWr (ckRe ClauseState.serving none) 0 (storeBase + ckb.trailerAt) (natLE 4 (BitVec.toNat ckSig))) (clauseIx 0 0) = some g1) ∧ ((rl none).at_ = some a1) ∧ (trailerInput? (clauseAt (dramWr (ckRe ClauseState.serving none) 0 (storeBase + ckb.trailerAt) (natLE 4 (BitVec.toNat ckSig))) (clauseIx 0 0)) a1.absBand = some cki) ∧ ((rl none).rerun = true) ∧ ((clauseAt (dramWr (ckRe ClauseState.serving none) 0 (storeBase + ckb.trailerAt) (natLE 4 (BitVec.toNat ckSig))) (clauseIx 0 0)).lineOf? (rl none).line = some (rl none)) ∧ ((rl none).flips = []) ∧ (quietDram (dramWr (ckRe ClauseState.serving none) 0 (storeBase + ckb.trailerAt) (natLE 4 (BitVec.toNat ckSig))) = true) ∧ (dramWaits (dramWr (ckRe ClauseState.serving none) 0 (storeBase + ckb.trailerAt) (natLE 4 (BitVec.toNat ckSig))) cki.block.die (sigAddr cki a1.bandLine) 4 = false) ∧ (dramBad (dramWr (ckRe ClauseState.serving none) 0 (storeBase + ckb.trailerAt) (natLE 4 (BitVec.toNat ckSig))) cki.block.die (sigAddr cki a1.bandLine) = false) ∧ (((rl none).poison == [] && crc32c (natLE 4 (BitVec.toNat a1.page) ++ natLE 4 (BitVec.toNat (if cki.overlay = true then a1.copy else 0#32)) ++ [BitVec.ofNat 8 g1.row, 0#8] ++ natLE 2 g1.pos ++ natLE 4 (64 * a1.band + a1.bandLine) ++ (rl none).codeBytes) == BitVec.ofNat 32 (leNat (dramRd (dramWr (ckRe ClauseState.serving none) 0 (storeBase + ckb.trailerAt) (natLE 4 (BitVec.toNat ckSig))) cki.block.die (sigAddr cki a1.bandLine) 4))) = true)) ∧
    ((List.find? (fun (l : CLine) => l.st == LineState.checking) (clauseAt (ckRe ClauseState.fencing none) (clauseIx 0 0)).lines = some (rl none)) ∧ (clauseSlot? (ckRe ClauseState.fencing none) (clauseIx 0 0) = some g1) ∧ ((rl none).at_ = some a1) ∧ (trailerInput? (clauseAt (ckRe ClauseState.fencing none) (clauseIx 0 0)) a1.absBand = some cki) ∧ ((rl none).rerun = true) ∧ ((clauseAt (ckRe ClauseState.fencing none) (clauseIx 0 0)).lineOf? (rl none).line = some (rl none)) ∧ ((rl none).flips = []) ∧ (quietDram (ckRe ClauseState.fencing none) = true) ∧ (dramWaits (ckRe ClauseState.fencing none) cki.block.die (sigAddr cki a1.bandLine) 4 = false) ∧ (dramBad (ckRe ClauseState.fencing none) cki.block.die (sigAddr cki a1.bandLine) = false) ∧ (((rl none).poison == [] && crc32c (natLE 4 (BitVec.toNat a1.page) ++ natLE 4 (BitVec.toNat (if cki.overlay = true then a1.copy else 0#32)) ++ [BitVec.ofNat 8 g1.row, 0#8] ++ natLE 2 g1.pos ++ natLE 4 (64 * a1.band + a1.bandLine) ++ (rl none).codeBytes) == BitVec.ofNat 32 (leNat (dramRd (ckRe ClauseState.fencing none) cki.block.die (sigAddr cki a1.bandLine) 4))) = false) ∧ ((clauseAt (ckRe ClauseState.fencing none) (clauseIx 0 0)).st = ClauseState.fencing)) ∧
    ((List.find? (fun (l : CLine) => l.st == LineState.checking) (clauseAt (ckRe ClauseState.serving (some ckSig)) (clauseIx 0 0)).lines = some (rl (some ckSig))) ∧ (clauseSlot? (ckRe ClauseState.serving (some ckSig)) (clauseIx 0 0) = some g1) ∧ ((rl (some ckSig)).at_ = some a1) ∧ (trailerInput? (clauseAt (ckRe ClauseState.serving (some ckSig)) (clauseIx 0 0)) a1.absBand = some cki) ∧ ((rl (some ckSig)).rerun = true) ∧ ((clauseAt (ckRe ClauseState.serving (some ckSig)) (clauseIx 0 0)).lineOf? (rl (some ckSig)).line = some (rl (some ckSig))) ∧ ((rl (some ckSig)).flips = []) ∧ (quietDram (ckRe ClauseState.serving (some ckSig)) = true) ∧ (dramWaits (ckRe ClauseState.serving (some ckSig)) cki.block.die (sigAddr cki a1.bandLine) 4 = false) ∧ (dramBad (ckRe ClauseState.serving (some ckSig)) cki.block.die (sigAddr cki a1.bandLine) = false) ∧ (((rl (some ckSig)).poison == [] && crc32c (natLE 4 (BitVec.toNat a1.page) ++ natLE 4 (BitVec.toNat (if cki.overlay = true then a1.copy else 0#32)) ++ [BitVec.ofNat 8 g1.row, 0#8] ++ natLE 2 g1.pos ++ natLE 4 (64 * a1.band + a1.bandLine) ++ (rl (some ckSig)).codeBytes) == BitVec.ofNat 32 (leNat (dramRd (ckRe ClauseState.serving (some ckSig)) cki.block.die (sigAddr cki a1.bandLine) 4))) = false) ∧ ((clauseAt (ckRe ClauseState.serving (some ckSig)) (clauseIx 0 0)).st ≠ ClauseState.fencing) ∧ ((rl (some ckSig)).sig1 = some (crc32c (natLE 4 (BitVec.toNat a1.page) ++ natLE 4 (BitVec.toNat (if cki.overlay = true then a1.copy else 0#32)) ++ [BitVec.ofNat 8 g1.row, 0#8] ++ natLE 2 g1.pos ++ natLE 4 (64 * a1.band + a1.bandLine) ++ (rl (some ckSig)).codeBytes)))) ∧
    ((List.find? (fun (l : CLine) => l.st == LineState.checking) (clauseAt (ckRe ClauseState.serving (some 7#32)) (clauseIx 0 0)).lines = some (rl (some 7#32))) ∧ (clauseSlot? (ckRe ClauseState.serving (some 7#32)) (clauseIx 0 0) = some g1) ∧ ((rl (some 7#32)).at_ = some a1) ∧ (trailerInput? (clauseAt (ckRe ClauseState.serving (some 7#32)) (clauseIx 0 0)) a1.absBand = some cki) ∧ ((rl (some 7#32)).rerun = true) ∧ ((clauseAt (ckRe ClauseState.serving (some 7#32)) (clauseIx 0 0)).lineOf? (rl (some 7#32)).line = some (rl (some 7#32))) ∧ ((rl (some 7#32)).flips = []) ∧ (quietDram (ckRe ClauseState.serving (some 7#32)) = true) ∧ (dramWaits (ckRe ClauseState.serving (some 7#32)) cki.block.die (sigAddr cki a1.bandLine) 4 = false) ∧ (dramBad (ckRe ClauseState.serving (some 7#32)) cki.block.die (sigAddr cki a1.bandLine) = false) ∧ (((rl (some 7#32)).poison == [] && crc32c (natLE 4 (BitVec.toNat a1.page) ++ natLE 4 (BitVec.toNat (if cki.overlay = true then a1.copy else 0#32)) ++ [BitVec.ofNat 8 g1.row, 0#8] ++ natLE 2 g1.pos ++ natLE 4 (64 * a1.band + a1.bandLine) ++ (rl (some 7#32)).codeBytes) == BitVec.ofNat 32 (leNat (dramRd (ckRe ClauseState.serving (some 7#32)) cki.block.die (sigAddr cki a1.bandLine) 4))) = false) ∧ ((clauseAt (ckRe ClauseState.serving (some 7#32)) (clauseIx 0 0)).st ≠ ClauseState.fencing) ∧ ((rl (some 7#32)).sig1 ≠ some (crc32c (natLE 4 (BitVec.toNat a1.page) ++ natLE 4 (BitVec.toNat (if cki.overlay = true then a1.copy else 0#32)) ++ [BitVec.ofNat 8 g1.row, 0#8] ++ natLE 2 g1.pos ++ natLE 4 (64 * a1.band + a1.bandLine) ++ (rl (some 7#32)).codeBytes)))) ∧
    ((List.find? (fun (l : CLine) => l.st == LineState.checking) (clauseAt ckW (clauseIx 0 0)).lines = some ckl) ∧ (clauseSlot? ckW (clauseIx 0 0) = some g1) ∧ (ckl.at_ = some a1) ∧ (trailerInput? (clauseAt ckW (clauseIx 0 0)) a1.absBand = some cki) ∧ (ckl.flips = []) ∧ (dramWaits ckW cki.block.die (sigAddr cki a1.bandLine) 4 = true)) ∧
    (((clauseAt ck0 0).lineOf? 0 = some ckl) ∧ (ckl.settled = false)) ∧
    ((∀ (l : CLine), l ∈ (clauseAt wUp (clauseIx 0 65)).lines → l.st ≠ LineState.checking)) ∧
    ((7 < 8) ∧ (65 < 66) ∧ ((clauseAt wChecksAndTakeovers_0 (clauseIx 7 65)).st = ClauseState.spare) ∧ ((clauseAt wChecksAndTakeovers_0 (clauseIx 7 65)).spareFor ≠ none) ∧ ((clauseAt wChecksAndTakeovers_0 (clauseIx 7 65)).prepared = false) ∧ (dieLive wChecksAndTakeovers_0 7 = true)) ∧
    (((clauseAt wUp (clauseIx 0 65)).st ≠ ClauseState.spare ∨ (clauseAt wUp (clauseIx 0 65)).spareFor = none ∨ (clauseAt wUp (clauseIx 0 65)).prepared = true)) ∧
    ((takeoverFrom? wChecksAndTakeovers_1 (clauseIx 0 65) = some 0) ∧ (takeoverDue wChecksAndTakeovers_1 0 = false ∨ mayAdmit wChecksAndTakeovers_1 0 = false ∨ (clauseAt wChecksAndTakeovers_1 0).preparing = none)) ∧
    (((clauseAt wUp (clauseIx 0 65)).st ≠ ClauseState.testing)) ∧
    (((clauseAt wChecksAndTakeovers_2 (clauseIx 0 65)).st = ClauseState.spare) ∧ ((clauseAt wChecksAndTakeovers_2 (clauseIx 0 65)).spareFor ≠ none) ∧ ((clauseAt wChecksAndTakeovers_2 (clauseIx 0 65)).prepared = false)) ∧
    ((takeoverFrom? tk (clauseIx 0 65) = some 0) ∧ ((clauseAt tk 0).preparing = some 65) ∧ (0 ≠ 65) ∧ (((clauseSlot? tk 0).bind fun (g : SlotCfg) => placeRowLine tk g.row (clauseAt tk 0).nextLine) = some a1) ∧ (a1.bandLine = 0) ∧ ((clauseAt tk 0).endLine = none) ∧ (takeoverDue tk 0 = true) ∧ (mayAdmit tk 0 = true)) ∧
    ((takeoverFrom? tk (clauseIx 0 0) = some 0) ∧ ((clauseAt tk 0).preparing = some 65) ∧ (0 ≠ 65) ∧ (((clauseSlot? tk 0).bind fun (g : SlotCfg) => placeRowLine tk g.row (clauseAt tk 0).nextLine) = some a1) ∧ (a1.bandLine = 0) ∧ ((clauseAt tk 0).endLine = none) ∧ (takeoverDue tk 0 = true) ∧ (mayAdmit tk 0 = true)) ∧
    ((65 < 66) ∧ ((clauseAt tst (clauseIx 0 65)).st = ClauseState.testing) ∧ (tst.dia.valid = true)) ∧
    ((65 < 66) ∧ ((clauseAt tst (clauseIx 0 65)).st = ClauseState.testing)) := by
  refine ⟨?_, ?_, ?_, ?_, ?_, ?_, ?_, ?_, ?_, ?_, ?_, ?_, ?_, ?_, ?_, ?_, ?_, ?_⟩
  all_goals decide +kernel

theorem witness_ManagersWatchTheDies :
    ((7 ≠ 0) ∧ (coreRuns mg 7 = true) ∧ (mg.flips = []) ∧ (∀ (n : Nat), n ∈ wManagersWatchTheDies_3 → poisoned mg ArrKind.tcm 7 n = false)) ∧
    ((coreRuns mgP 7 = true) ∧ (mgP.flips = []) ∧ (5 ∈ wManagersWatchTheDies_4) ∧ (poisoned mgP ArrKind.tcm 7 5 = true)) ∧
    ((coreRuns wManagersWatchTheDies_5 7 = false)) ∧
    ((mg.flips = []) ∧ (∀ (n : Nat), n ∈ wManagersWatchTheDies_7 → poisoned mg ArrKind.tcm 0 n = false)) ∧
    ((0 = 0 ∨ dieLive mg 0 = false)) ∧
    ((coreRuns wUp 7 = false)) ∧
    ((wManagersWatchTheDies_8.cal.busy = true) ∧ (wManagersWatchTheDies_8.cal.item = 2#3) ∧ (wManagersWatchTheDies_8.cal.res = 7)) ∧
    ((dieOk mg 0 = true) ∧ (powered mg) ∧ (mg.cal.busy = false ∨ mg.cal.item ≠ 2#3 ∨ mg.cal.res ≠ 0)) ∧
    (((mgtAt mg 7).warn = false ∨ ∃ (i : Nat), i < 9 ∧ 16 * (↑(mgtAt mg 7).twarn.toNat - 5) ≤ (senseAt mg 7 i).value.toInt)) ∧
    (((mgtAt wManagersWatchTheDies_9 7).warn = false ∨ ∃ (i : Nat), i < 9 ∧ 16 * (↑(mgtAt wManagersWatchTheDies_9 7).twarn.toNat - 5) ≤ (senseAt wManagersWatchTheDies_9 7 i).value.toInt)) ∧
    ((0 < 7) ∧ (dieOk mg 7 = true) ∧ (powered mg) ∧ ((mgtAt mg 7).trip = false) ∧ (tripReading false 8 1920#16 = true) ∧ (isFenced mg (FUnit.die 7) = false)) ∧
    ((0 < 7) ∧ (dieOk mg 7 = true) ∧ (powered mg) ∧ ((mgtAt mg 7).trip = false) ∧ (tripReading true 14 2051#16 = true) ∧ (isFenced mg (FUnit.die 7) = false)) ∧
    ((7 ≠ 0) ∧ (powered mg) ∧ (dieLive mg 7 = true)) ∧
    ((7 ≠ 0) ∧ (coreRuns mg 7 = true)) ∧
    ((coreRuns mg 0 = true)) ∧
    ((dieOk mg 7 = true) ∧ (powered mg) ∧ (8 ≤ 8) ∧ (mg.cal.busy = false ∨ mg.cal.item ≠ 2#3 ∨ mg.cal.res ≠ 7) ∧ ((65408#16).toInt < 16 * ↑(mgtAt mg 7).twarn.toNat)) ∧
    ((dieOk mg 7 = true) ∧ (powered mg) ∧ (8 ≤ 8) ∧ (mg.cal.busy = false ∨ mg.cal.item ≠ 2#3 ∨ mg.cal.res ≠ 7) ∧ ((1679#16).toInt < 16 * ↑(mgtAt mg 7).twarn.toNat)) ∧
    ((dieOk mg 7 = true) ∧ (powered mg) ∧ (8 ≤ 8) ∧ (mg.cal.busy = false ∨ mg.cal.item ≠ 2#3 ∨ mg.cal.res ≠ 7) ∧ (16 * ↑(mgtAt mg 7).twarn.toNat ≤ (1680#16).toInt)) ∧
    ((dieOk mg 7 = true) ∧ (powered mg) ∧ (mg.cal.busy = false ∨ mg.cal.item ≠ 2#3 ∨ mg.cal.res ≠ 7) ∧ ((14, 1620, 1980) ∈ [(9, 720, 790), (10, 770, 840), (11, 475, 570), (12, 820, 890), (13, 1710, 1890), (14, 1620, 1980)])) ∧
    ((dieOk mg 7 = true) ∧ (powered mg) ∧ (mg.cal.busy = false ∨ mg.cal.item ≠ 2#3 ∨ mg.cal.res ≠ 7) ∧ ((9, 720, 790) ∈ [(9, 720, 790), (10, 770, 840), (11, 475, 570), (12, 820, 890), (13, 1710, 1890), (14, 1620, 1980)])) ∧
    (((mgtAt wManagersWatchTheDies_10 7).warn = true) ∧ (∀ (i : Nat), i < 9 → (senseAt wManagersWatchTheDies_10 7 i).value.toInt < 16 * (↑(mgtAt wManagersWatchTheDies_10 7).twarn.toNat - 5))) ∧
    ((dieOk mg 0 = true) ∧ (powered mg) ∧ ((mgtAt mg 0).trip = false) ∧ (if false = true then (8, (1920#16).toNat) ∈ [(9, max 851 (1920#16).toNat), (10, max 901 (1920#16).toNat), (11, max 621 (1920#16).toNat), (12, max 951 (1920#16).toNat), (13, max 1981 (1920#16).toNat), (14, max 2051 (1920#16).toNat)] else 8 ≤ 8 ∧ 1920 ≤ (1920#16).toInt)) ∧
    ((dieOk mg 0 = true) ∧ (powered mg) ∧ ((mgtAt mg 0).trip = false) ∧ (if true = true then (9, (851#16).toNat) ∈ [(9, max 851 (851#16).toNat), (10, max 901 (851#16).toNat), (11, max 621 (851#16).toNat), (12, max 951 (851#16).toNat), (13, max 1981 (851#16).toNat), (14, max 2051 (851#16).toNat)] else 9 ≤ 8 ∧ 1920 ≤ (851#16).toInt)) ∧
    ((tripReading false 8 1919#16 = false)) := by
  refine ⟨?_, ?_, ?_, ?_, ?_, ?_, ?_, ?_, ?_, ?_, ?_, ?_, ?_, ?_, ?_, ?_, ?_, ?_, ?_, ?_, ?_, ?_, ?_, ?_⟩
  all_goals decide +kernel

theorem witness_EventLogAndCalibration :
    ((fwRuns wEventLogAndCalibration_11 = true) ∧ (wEventLogAndCalibration_11.startFailed = true ∨ 5 ≤ (mgtAt wEventLogAndCalibration_11 0).stage.toNat) ∧ (dieOk wEventLogAndCalibration_11 7 = true) ∧ ((evqAt wEventLogAndCalibration_11 (3 * 7)).lostNew = 0) ∧ ((evqAt wEventLogAndCalibration_11 (3 * 7)).items = [QItem.entry e1]) ∧ (wEventLogAndCalibration_11.power.st ≠ PwrState.sleep)) ∧
    (((evqAt wUp (3 * 7)).items = [])) ∧
    ((fwRuns wEventLogAndCalibration_12 = true) ∧ (wEventLogAndCalibration_12.startFailed = true ∨ 5 ≤ (mgtAt wEventLogAndCalibration_12 0).stage.toNat) ∧ (dieOk wEventLogAndCalibration_12 7 = true) ∧ ((evqAt wEventLogAndCalibration_12 (3 * 7)).lostNew = 3) ∧ (3 ≠ 0) ∧ ((evqAt wEventLogAndCalibration_12 (3 * 7)).items = [QItem.entry e1]) ∧ (([] : List Byte).length < 512) ∧ (wEventLogAndCalibration_12.power.st ≠ PwrState.sleep)) ∧
    ((wUp.log.sector = [])) ∧
    ((secF.log.sector ≠ []) ∧ (secF.log.sectors.length = 2048)) ∧
    ((wEventLogAndCalibration_13.log.sector ≠ []) ∧ (wEventLogAndCalibration_13.log.sectors.length < 2048) ∧ (wEventLogAndCalibration_13.log.ringFirst < 2048)) ∧
    ((wEventLogAndCalibration_14.log.intervalOpen = true) ∧ (wEventLogAndCalibration_14.log.qualified = true)) ∧
    ((wUp.log.intervalOpen = false)) ∧
    ((fwRuns wEventLogAndCalibration_15 = false ∨ wEventLogAndCalibration_15.power.st = PwrState.starting)) ∧
    ((wEventLogAndCalibration_16.log.intervalOpen = true) ∧ (wEventLogAndCalibration_16.log.qualified = false)) ∧
    ((fwRuns wUp = true) ∧ (wUp.power.st ≠ PwrState.starting) ∧ ((evqAt wUp 0).items.length < 512)) ∧
    ((fwRuns clS = true) ∧ (clS.power.st ≠ PwrState.starting) ∧ (clS.cal.busy = false) ∧ (∀ (i : Nat), (ddrAt clS i).wantRetrain = false) ∧ (nextSlice? clS = some (1, 7))) ∧
    ((∀ (i : Nat), (ddrAt wEventLogAndCalibration_17 i).wantRetrain = false) ∧ (wEventLogAndCalibration_17.cal.busy = true ∨ nextSlice? wEventLogAndCalibration_17 = none)) ∧
    ((nextSlice? clS = some (1, 7))) ∧
    ((7 ∈ calResources clS 1) ∧ (1 ≤ 1) ∧ (1 ≤ 4) ∧ (sliceReady clS 1 7 = true)) ∧
    ((fwRuns wEventLogAndCalibration_18 = true) ∧ (wEventLogAndCalibration_18.power.st ≠ PwrState.starting) ∧ (wEventLogAndCalibration_18.cal.busy = true) ∧ (jobOpen wEventLogAndCalibration_18 = false) ∧ (15 < 2 * wEventLogAndCalibration_18.part.dies) ∧ ((ddrAt wEventLogAndCalibration_18 15).wantRetrain = true) ∧ ((ddrAt wEventLogAndCalibration_18 15).st = DdrState.active)) ∧
    ((wEventLogAndCalibration_19.cal.busy = true) ∧ (wEventLogAndCalibration_19.cal.item = 1#3) ∧ (gapOpen wEventLogAndCalibration_19 false 1 wEventLogAndCalibration_19.cal.res = true) ∧ ((mgtAt wEventLogAndCalibration_19 wEventLogAndCalibration_19.cal.res).trimMin.toNat ≤ (mgtAt wEventLogAndCalibration_19 wEventLogAndCalibration_19.cal.res).trimMax.toNat)) ∧
    ((wEventLogAndCalibration_20.cal.busy = true) ∧ (wEventLogAndCalibration_20.cal.item = 1#3) ∧ (gapOpen wEventLogAndCalibration_20 false 1 wEventLogAndCalibration_20.cal.res = true) ∧ ((mgtAt wEventLogAndCalibration_20 wEventLogAndCalibration_20.cal.res).trimMin.toNat ≤ (mgtAt wEventLogAndCalibration_20 wEventLogAndCalibration_20.cal.res).trimMax.toNat)) ∧
    ((wEventLogAndCalibration_21.cal.busy = true) ∧ (wEventLogAndCalibration_21.cal.item = 2#3) ∧ (gapOpen wEventLogAndCalibration_21 false 2 wEventLogAndCalibration_21.cal.res = true)) ∧
    ((wEventLogAndCalibration_23.cal.busy = true) ∧ (wEventLogAndCalibration_23.cal.item = 3#3) ∧ (gapOpen wEventLogAndCalibration_23 false 3 wEventLogAndCalibration_23.cal.res = true)) ∧
    ((wEventLogAndCalibration_24.cal.busy = true) ∧ (wEventLogAndCalibration_24.cal.item = 4#3) ∧ (gapOpen wEventLogAndCalibration_24 false 4 wEventLogAndCalibration_24.cal.res = true) ∧ ((headAt wEventLogAndCalibration_24 wEventLogAndCalibration_24.cal.res).round = some 5000)) ∧
    ((wEventLogAndCalibration_25.cal.busy = true) ∧ (gapOpen wEventLogAndCalibration_25 false wEventLogAndCalibration_25.cal.item.toNat wEventLogAndCalibration_25.cal.res = false ∨ wEventLogAndCalibration_25.cal.item = 4#3 ∧ (headAt wEventLogAndCalibration_25 wEventLogAndCalibration_25.cal.res).round = none)) ∧
    ((wEventLogAndCalibration_26.cal.busy = true) ∧ (gapOpen wEventLogAndCalibration_26 false wEventLogAndCalibration_26.cal.item.toNat wEventLogAndCalibration_26.cal.res = false ∨ wEventLogAndCalibration_26.cal.item = 4#3 ∧ (headAt wEventLogAndCalibration_26 wEventLogAndCalibration_26.cal.res).round = none)) ∧
    ((wUp.cal.busy = false)) ∧
    ((jobOpen wUp = false) ∧ (2 = 1 ∨ 2 = 2)) ∧
    (((rowAt wEventLogAndCalibration_27 63).committed = some 7)) ∧
    ((wEventLogAndCalibration_28.cal.changed = true) ∧ (wEventLogAndCalibration_28.cal.atOnce = true ∨ wEventLogAndCalibration_28.cal.lastWrite = none ∨ ∃ (w : Nat), wEventLogAndCalibration_28.cal.lastWrite = some w ∧ w + 15000000000 ≤ wEventLogAndCalibration_28.tb)) ∧
    ((wEventLogAndCalibration_29.cal.changed = true) ∧ (wEventLogAndCalibration_29.cal.atOnce = true ∨ wEventLogAndCalibration_29.cal.lastWrite = none ∨ ∃ (w : Nat), wEventLogAndCalibration_29.cal.lastWrite = some w ∧ w + 15000000000 ≤ wEventLogAndCalibration_29.tb)) ∧
    ((wUp.cal.changed = false)) := by
  refine ⟨?_, ?_, ?_, ?_, ?_, ?_, ?_, ?_, ?_, ?_, ?_, ?_, ?_, ?_, ?_, ?_, ?_, ?_, ?_, ?_, ?_, ?_, ?_, ?_, ?_, ?_, ?_, ?_, ?_⟩
  · decide +kernel
  · decide +kernel
  · decide +kernel
  · decide +kernel
  · decide +kernel
  · decide +kernel
  · decide +kernel
  · decide +kernel
  · decide +kernel
  · decide +kernel
  · decide +kernel
  · exact ⟨by decide +kernel, by decide +kernel, by decide +kernel, fun _ => rfl, by decide +kernel⟩
  · exact ⟨fun _ => rfl, by decide +kernel⟩
  · decide +kernel
  · decide +kernel
  · decide +kernel
  · decide +kernel
  · decide +kernel
  · decide +kernel
  · decide +kernel
  · decide +kernel
  · decide +kernel
  · decide +kernel
  · decide +kernel
  · decide +kernel
  · decide +kernel
  · decide +kernel
  · decide +kernel
  · decide +kernel

end W11

namespace W12

/-- A running cell with scalar, vector and predicate registers, and the part with it and an instruction word at index 0. -/
def wCell : Cell :=
  { st := .run, s := [(1, 5), (2, 9), (3, 0x8001), (4, 0x100), (5, 0x2000)], p := [(1, 0xA5), (2, 0x0F)],
    v := [(1, 0x8001_7FFF_FFFF_0001_0000_0005_0004_0003), (2, 0x0001_0001_FFFF_0002_8000_0005_0009_0003), (3, 7)] }
def wCellS (wd : Word) (c : Cell) : State :=
  { wPage with job := some wJob, imem := [(0, wd)], cells := [(0, c)], clauses := [(0, { st := .serving, powered := true, slot := 0 })], dmem := [(0x100, 7), (0x101, 9), (0x2000, 5)] }
abbrev c0 : CellId := ⟨0, 0, 0⟩

def dF : CellForm := { ci := c0, op := 0, w := 0 }
def fl (n : BitVec 80) : State := { wCellS 0x04000000 wCell with flips := [(⟨.cellInstr, 0, 0⟩, n)] }
def wCellControlInstructions_0 : State := wCellS 0x04000000 { wCell with st := .wait }
def wCellControlInstructions_1 : State := { wCellS 0x04000000 wCell with poison := [⟨.cellInstr, 0, 0⟩] }
def wCellControlInstructions_2 : State := wCellS 0x41E31000 { wCell with banks := [.atomic 0 false 0 2 0] }
def wCellControlInstructions_3 : ArrBlock := ⟨.cellInstr, 0, 0⟩
def wCellControlInstructions_4 : ArrBlock := ⟨.cellInstr, 0, 0⟩
def wCellControlInstructions_5 : Cell := { wCell with pc := 1023 }
def wCellControlInstructions_6 : Cell := { wCell with pc := 3, loops := [⟨2, 1, 3⟩, ⟨9, 0, 9⟩] }
def wCellControlInstructions_7 : LoopLevel := ⟨2, 1, 3⟩
def wCellControlInstructions_8 : List LoopLevel := [⟨9, 0, 9⟩]
def wCellControlInstructions_9 : Cell := { wCell with pc := 3, loops := [⟨1, 1, 3⟩] }
def wCellControlInstructions_10 : LoopLevel := ⟨1, 1, 3⟩
def wCellControlInstructions_11 : Cell := { wCell with pc := 3, loops := [⟨1, 1, 3⟩, ⟨2, 0, 3⟩] }
def wCellControlInstructions_12 : LoopLevel := ⟨1, 1, 3⟩
def wCellControlInstructions_13 : LoopLevel := ⟨2, 0, 3⟩
def wCellControlInstructions_14 : State := wCellS 0x1C000000 ({ wCell with frame := some ⟨0, 3, 0, 0⟩ })
def wCellControlInstructions_15 : State := wCellS 0x1C000000 ({ wCell with frame := some ⟨0, 3, 0, 0⟩, cur := some { q := 0, line := 0, rerun := false, win := false, band := 0, bandLine := 0, pushed := 8 } })
def wCellControlInstructions_16 : Segment := { q := 0, line := 0, rerun := false, win := false, band := 0, bandLine := 0, pushed := 8 }
def wCellControlInstructions_17 : State := wCellS 0x1C000000 ({ wCell with frame := some ⟨0, 3, 0, 0⟩, cur := some { q := 0, line := 0, rerun := false, win := false, band := 0, bandLine := 0, pushed := 7 } })
def wCellControlInstructions_18 : Segment := { q := 0, line := 0, rerun := false, win := false, band := 0, bandLine := 0, pushed := 7 }
def wCellControlInstructions_20 : State := wCellS 0x20043000 ({ wCell with s := [(4, 0x100), (6, 3)] })
def wCellControlInstructions_21 : State := wCellS 0x20043000 ({ wCell with s := [(4, 0x100), (6, 3)], frame := some ⟨256, 3, 0, 0⟩ })
def wCellControlInstructions_22 : State := wCellS 0x20043000 ({ wCell with s := [(4, 0x100), (6, 0x8003)] })
def wCellControlInstructions_23 : State := wCellS 0x2C010000 ({ wCell with banks := List.replicate 6 (.gather [0] 0) })
def wCellScalarInstructions_24 : Cell := { wCell with dataLo := 0x100, dataLen := 8 }
def wCellScalarInstructions_25 : Cell := { wCell with cur := some { q := 0, line := 0, rerun := false, win := false, band := 0, bandLine := 0, pushed := 8 } }
def wCellScalarInstructions_26 : Segment := { q := 0, line := 0, rerun := false, win := false, band := 0, bandLine := 0, pushed := 8 }
def wCellScalarInstructions_27 : Cell := { wCell with frame := some ⟨0x100, 3, 2, 0⟩, cur := some { q := 0, line := 0, rerun := false, win := false, band := 0, bandLine := 0, pushed := 8 } }
def wCellScalarInstructions_28 : FrameDecl := ⟨0x100, 3, 2, 0⟩
def wCellScalarInstructions_29 : Segment := { q := 0, line := 0, rerun := false, win := false, band := 0, bandLine := 0, pushed := 8 }
def wCellScalarInstructions_30 : Cell := { wCell with frame := some ⟨0x100, 3, 2, 0⟩, cur := some { q := 0, line := 0, rerun := false, win := false, band := 0, bandLine := 0, pushed := 8 } }
def wCellScalarInstructions_31 : FrameDecl := ⟨0x100, 3, 2, 0⟩
def wCellScalarInstructions_32 : Segment := { q := 0, line := 0, rerun := false, win := false, band := 0, bandLine := 0, pushed := 8 }
def wCellVectorLanes_33 : List Byte := [7, 9, 0, 0, 0, 0, 0, 0, 0, 0, 0, 0, 0, 0, 0, 0]
def wCellVectorLanes_34 : List Byte := [7, 9, 0, 0, 0, 0, 0, 0]
def wCellVectorLanes_35 : List Byte := [7, 9, 0, 0]
def wCellVectorLanes_36 : State := wCellS 0xC0812100 ({ wCell with v := [(1, 0)], p := [(1, 0xA5)], s := [(4, 0x100)] })
def wCellVectorLanes_37 : Nat → BitVec 16 := fun _ => 0x0907
def wCellVectorLanes_39 : State := wCellS 0xC0812100 ({ wCell with v := [(1, 0)], p := [(1, 0xA5)], s := [(4, 0x101)] })
def wCellVectorLanes_40 : State := wCellS 0xC0812100 ({ wCell with v := [(1, 0x70000000000000000000000000000000)], p := [(1, 0x80)], s := [(4, 0x100)] })
def wCellVectorLanes_41 : State := wCellS 0xC0812100 ({ wCell with v := [(1, 0x70000000000000000000000000000000)], p := [(1, 0xA5)], s := [(4, 0x100)] })

theorem witness_CellControlInstructions :
    ((cellForm (Instr.cellNop c0 0#26) = some ((cellForm (Instr.cellNop c0 0#26)).getD dF)) ∧ ((cellAt wCellControlInstructions_0 (cellIx ((cellForm (Instr.cellNop c0 0#26)).getD dF).ci)).st ≠ CellState.run ∨ (cellAt wCellControlInstructions_0 (cellIx ((cellForm (Instr.cellNop c0 0#26)).getD dF).ci)).stall ≠ none)) ∧
    ((cellForm (Instr.cellNop c0 0#26) = some ((cellForm (Instr.cellNop c0 0#26)).getD dF)) ∧ (atWord wCellControlInstructions_1 ((cellForm (Instr.cellNop c0 0#26)).getD dF).ci ((cellForm (Instr.cellNop c0 0#26)).getD dF).op ((cellForm (Instr.cellNop c0 0#26)).getD dF).w) ∧ (fetchBad wCellControlInstructions_1 ((cellForm (Instr.cellNop c0 0#26)).getD dF).ci = true)) ∧
    ((cellForm (Instr.cellNop c0 5#26) = some ((cellForm (Instr.cellNop c0 5#26)).getD dF)) ∧ (atWord (wCellS (67108869#32) wCell) ((cellForm (Instr.cellNop c0 5#26)).getD dF).ci ((cellForm (Instr.cellNop c0 5#26)).getD dF).op ((cellForm (Instr.cellNop c0 5#26)).getD dF).w) ∧ (fetchBad (wCellS (67108869#32) wCell) ((cellForm (Instr.cellNop c0 5#26)).getD dF).ci = false) ∧ (((cellForm (Instr.cellNop c0 5#26)).getD dF).legal = false)) ∧
    ((cellForm (Instr.add c0 65212416#26) = some ((cellForm (Instr.add c0 65212416#26)).getD dF)) ∧ (atWord (wCellS (1138954240#32) wCell) ((cellForm (Instr.add c0 65212416#26)).getD dF).ci ((cellForm (Instr.add c0 65212416#26)).getD dF).op ((cellForm (Instr.add c0 65212416#26)).getD dF).w) ∧ (fetchBad (wCellS (1138954240#32) wCell) ((cellForm (Instr.add c0 65212416#26)).getD dF).ci = false) ∧ (((cellForm (Instr.add c0 65212416#26)).getD dF).legal = true) ∧ (((cellForm (Instr.add c0 65212416#26)).getD dF).regsOk = false)) ∧
    ((cellForm (Instr.add c0 31657984#26) = some ((cellForm (Instr.add c0 31657984#26)).getD dF)) ∧ (atWord wCellControlInstructions_2 ((cellForm (Instr.add c0 31657984#26)).getD dF).ci ((cellForm (Instr.add c0 31657984#26)).getD dF).op ((cellForm (Instr.add c0 31657984#26)).getD dF).w) ∧ (fetchBad wCellControlInstructions_2 ((cellForm (Instr.add c0 31657984#26)).getD dF).ci = false) ∧ (((cellForm (Instr.add c0 31657984#26)).getD dF).legal = true) ∧ (((cellForm (Instr.add c0 31657984#26)).getD dF).regsOk = true) ∧ ((cellAt wCellControlInstructions_2 (cellIx ((cellForm (Instr.add c0 31657984#26)).getD dF).ci)).owesReg? ((cellForm (Instr.add c0 31657984#26)).getD dF).reads = some 2)) ∧
    ((wCellControlInstructions_3 = { kind := ArrKind.cellInstr, owner := cellIx c0, blk := (cellAt (fl 3#80) (cellIx c0)).pc.toNat / 2 : ArrBlock }) ∧ ((cellAt (fl 3#80) (cellIx c0)).st = CellState.run) ∧ ((cellAt (fl 3#80) (cellIx c0)).stall = none) ∧ (flipOf (fl 3#80) wCellControlInstructions_3 ≠ 0#80) ∧ ((rcRead (storedWord (fl 3#80) wCellControlInstructions_3)).fst = RcClass.uncorrectable)) ∧
    ((wCellControlInstructions_4 = { kind := ArrKind.cellInstr, owner := cellIx c0, blk := (cellAt (fl 1#80) (cellIx c0)).pc.toNat / 2 : ArrBlock }) ∧ ((cellAt (fl 1#80) (cellIx c0)).st = CellState.run) ∧ ((cellAt (fl 1#80) (cellIx c0)).stall = none) ∧ (flipOf (fl 1#80) wCellControlInstructions_4 ≠ 0#80) ∧ ((cellAt (fl 1#80) (cellIx c0)).pc.getLsbD 0 = false) ∧ ((rcRead (storedWord (fl 1#80) wCellControlInstructions_4)).fst = RcClass.corrected) ∧ (BitVec.extractLsb' 0 32 (rcRead (storedWord (fl 1#80) wCellControlInstructions_4)).snd = 67108864#32)) ∧
    ((issues (wCellS (67108864#32) wCell) c0 1 0#26 [])) ∧
    ((wCellControlInstructions_5.loops = [])) ∧
    ((wCellControlInstructions_6.loops = wCellControlInstructions_7 :: wCellControlInstructions_8) ∧ (wCellControlInstructions_7.stop = wCellControlInstructions_6.pc.toNat) ∧ (1 < wCellControlInstructions_7.count)) ∧
    ((wCellControlInstructions_9.loops = [wCellControlInstructions_10]) ∧ (wCellControlInstructions_10.stop = wCellControlInstructions_9.pc.toNat) ∧ (wCellControlInstructions_10.count ≤ 1)) ∧
    ((wCellControlInstructions_11.loops = [wCellControlInstructions_12, wCellControlInstructions_13]) ∧ (wCellControlInstructions_12.stop ≠ wCellControlInstructions_11.pc.toNat ∨ wCellControlInstructions_12.count ≤ 1) ∧ (wCellControlInstructions_13.stop = wCellControlInstructions_11.pc.toNat) ∧ (1 < wCellControlInstructions_13.count)) ∧
    ((fB2221 69709#26 = 0) ∧ (fB10 69709#26 = 0) ∧ (fCond 69709#26 < 7) ∧ (fA 69709#26 < 16) ∧ (fB 69709#26 < 16) ∧ (issues (wCellS (134287437#32) wCell) c0 2 (69709#26) (if fCond 69709#26 = 0 then [] else [fA 69709#26, fB 69709#26])) ∧ (taken (fCond 69709#26) ((cellAt (wCellS (134287437#32) wCell) (cellIx c0)).rs (fA 69709#26)) ((cellAt (wCellS (134287437#32) wCell) (cellIx c0)).rs (fB 69709#26)) = true)) ∧
    ((fB2221 8458317#26 = 0) ∧ (fB10 8458317#26 = 0) ∧ (fCond 8458317#26 < 7) ∧ (fA 8458317#26 < 16) ∧ (fB 8458317#26 < 16) ∧ (issues (wCellS (142676045#32) wCell) c0 2 (8458317#26) (if fCond 8458317#26 = 0 then [] else [fA 8458317#26, fB 8458317#26])) ∧ (taken (fCond 8458317#26) ((cellAt (wCellS (142676045#32) wCell) (cellIx c0)).rs (fA 8458317#26)) ((cellAt (wCellS (142676045#32) wCell) (cellIx c0)).rs (fB 8458317#26)) = false)) ∧
    ((fB2221 50401357#26 = 0) ∧ (fB10 50401357#26 = 0) ∧ (fCond 50401357#26 < 7) ∧ (fA 50401357#26 < 16) ∧ (fB 50401357#26 < 16) ∧ (issues (wCellS (184619085#32) wCell) c0 2 (50401357#26) (if fCond 50401357#26 = 0 then [] else [fA 50401357#26, fB 50401357#26])) ∧ (taken (fCond 50401357#26) ((cellAt (wCellS (184619085#32) wCell) (cellIx c0)).rs (fA 50401357#26)) ((cellAt (wCellS (184619085#32) wCell) (cellIx c0)).rs (fB 50401357#26)) = false)) ∧
    ((Instr.loopi c0 196617#26 = Instr.loopi c0 196617#26 ∧ fL1510 196617#26 = 0 ∧ issues (wCellS (201523209#32) wCell) c0 3 196617#26 [] ∧ 3 = fCount 196617#26 ∨ Instr.loopi c0 196617#26 = Instr.loopr c0 196617#26 ∧ fCond 196617#26 = 0 ∧ fB2221 196617#26 = 0 ∧ fB10 196617#26 = 0 ∧ fB 196617#26 = 0 ∧ fA 196617#26 < 16 ∧ issues (wCellS (201523209#32) wCell) c0 4 196617#26 [fA 196617#26] ∧ 3 = ((cellAt (wCellS (201523209#32) wCell) (cellIx c0)).rs (fA 196617#26)).toNat) ∧ ((cellAt (wCellS (201523209#32) wCell) (cellIx c0)).pc.toNat < fTarget 196617#26 ∧ noLoopEnd (opOf (imemWord (wCellS (201523209#32) wCell) (cellIx c0) (fTarget 196617#26))) = false) ∧ (3 ≠ 0) ∧ ((cellAt (wCellS (201523209#32) wCell) (cellIx c0)).loops.length < 2)) ∧
    ((Instr.loopi c0 9#26 = Instr.loopi c0 9#26 ∧ fL1510 9#26 = 0 ∧ issues (wCellS (201326601#32) wCell) c0 3 9#26 [] ∧ 0 = fCount 9#26 ∨ Instr.loopi c0 9#26 = Instr.loopr c0 9#26 ∧ fCond 9#26 = 0 ∧ fB2221 9#26 = 0 ∧ fB10 9#26 = 0 ∧ fB 9#26 = 0 ∧ fA 9#26 < 16 ∧ issues (wCellS (201326601#32) wCell) c0 4 9#26 [fA 9#26] ∧ 0 = ((cellAt (wCellS (201326601#32) wCell) (cellIx c0)).rs (fA 9#26)).toNat) ∧ ((cellAt (wCellS (201326601#32) wCell) (cellIx c0)).pc.toNat < fTarget 9#26 ∧ noLoopEnd (opOf (imemWord (wCellS (201326601#32) wCell) (cellIx c0) (fTarget 9#26))) = false) ∧ (0 = 0)) ∧
    ((Instr.loopi c0 196608#26 = Instr.loopi c0 196608#26 ∧ fL1510 196608#26 = 0 ∧ issues (wCellS (201523200#32) wCell) c0 3 196608#26 [] ∧ 3 = fCount 196608#26 ∨ Instr.loopi c0 196608#26 = Instr.loopr c0 196608#26 ∧ fCond 196608#26 = 0 ∧ fB2221 196608#26 = 0 ∧ fB10 196608#26 = 0 ∧ fB 196608#26 = 0 ∧ fA 196608#26 < 16 ∧ issues (wCellS (201523200#32) wCell) c0 4 196608#26 [fA 196608#26] ∧ 3 = ((cellAt (wCellS (201523200#32) wCell) (cellIx c0)).rs (fA 196608#26)).toNat) ∧ (¬((cellAt (wCellS (201523200#32) wCell) (cellIx c0)).pc.toNat < fTarget 196608#26 ∧ noLoopEnd (opOf (imemWord (wCellS (201523200#32) wCell) (cellIx c0) (fTarget 196608#26))) = false) ∨ 3 ≠ 0 ∧ 2 ≤ (cellAt (wCellS (201523200#32) wCell) (cellIx c0)).loops.length)) ∧
    ((fCond 200#26 = 0) ∧ (fB2221 200#26 = 0) ∧ (fB10 200#26 = 0) ∧ (fA 200#26 = 0) ∧ (fB 200#26 = 0) ∧ (issues (wCellS (335544520#32) wCell) c0 5 200#26 [])) ∧
    ((fD 327680#26 = 0) ∧ (fB 327680#26 = 0) ∧ (fG 327680#26 = 0) ∧ (fX 327680#26 = 0) ∧ (fA 327680#26 < 16) ∧ (issues (wCellS (402980864#32) wCell) c0 6 327680#26 [fA 327680#26])) ∧
    ((issues wCellControlInstructions_14 c0 7 0#26 []) ∧ ((cellAt wCellControlInstructions_14 (cellIx c0)).frame ≠ none) ∧ ((cellAt wCellControlInstructions_14 (cellIx c0)).cur = none)) ∧
    ((issues wCellControlInstructions_15 c0 7 0#26 []) ∧ ((cellAt wCellControlInstructions_15 (cellIx c0)).frame ≠ none) ∧ ((cellAt wCellControlInstructions_15 (cellIx c0)).cur = some wCellControlInstructions_16) ∧ (8 ≤ wCellControlInstructions_16.pushed)) ∧
    ((issues (wCellS (469762048#32) wCell) c0 7 0#26 []) ∧ ((cellAt (wCellS (469762048#32) wCell) (cellIx c0)).frame = none)) ∧
    ((issues wCellControlInstructions_17 c0 7 0#26 []) ∧ ((cellAt wCellControlInstructions_17 (cellIx c0)).frame ≠ none) ∧ ((cellAt wCellControlInstructions_17 (cellIx c0)).cur = some wCellControlInstructions_18) ∧ (wCellControlInstructions_18.pushed < 8)) ∧
    ((fD 274432#26 = 0) ∧ (fG 274432#26 = 0) ∧ (fX 274432#26 = 0) ∧ (fA 274432#26 < 16) ∧ (fB 274432#26 < 16) ∧ (issues wCellControlInstructions_20 c0 8 274432#26 [fA 274432#26, fB 274432#26]) ∧ (((cellAt wCellControlInstructions_20 (cellIx c0)).rs (fB 274432#26)).toNat < 32768 ∧ Machine.frameOk (cellAt wCellControlInstructions_20 (cellIx c0)) (cellRlen wCellControlInstructions_20 c0) { fbase := ((cellAt wCellControlInstructions_20 (cellIx c0)).rs (fA 274432#26)).toNat, k := ((cellAt wCellControlInstructions_20 (cellIx c0)).rs (fB 274432#26)).toNat % 32, cw := ((cellAt wCellControlInstructions_20 (cellIx c0)).rs (fB 274432#26)).toNat / 32 % 64, logw := ((cellAt wCellControlInstructions_20 (cellIx c0)).rs (fB 274432#26)).toNat / 2048 % 16 : FrameDecl } = true) ∧ ((cellAt wCellControlInstructions_20 (cellIx c0)).frame = none)) ∧
    ((fD 274432#26 = 0) ∧ (fG 274432#26 = 0) ∧ (fX 274432#26 = 0) ∧ (fA 274432#26 < 16) ∧ (fB 274432#26 < 16) ∧ (issues wCellControlInstructions_21 c0 8 274432#26 [fA 274432#26, fB 274432#26]) ∧ (((cellAt wCellControlInstructions_21 (cellIx c0)).rs (fB 274432#26)).toNat < 32768 ∧ Machine.frameOk (cellAt wCellControlInstructions_21 (cellIx c0)) (cellRlen wCellControlInstructions_21 c0) { fbase := ((cellAt wCellControlInstructions_21 (cellIx c0)).rs (fA 274432#26)).toNat, k := ((cellAt wCellControlInstructions_21 (cellIx c0)).rs (fB 274432#26)).toNat % 32, cw := ((cellAt wCellControlInstructions_21 (cellIx c0)).rs (fB 274432#26)).toNat / 32 % 64, logw := ((cellAt wCellControlInstructions_21 (cellIx c0)).rs (fB 274432#26)).toNat / 2048 % 16 : FrameDecl } = true) ∧ ((cellAt wCellControlInstructions_21 (cellIx c0)).frame = some { fbase := ((cellAt wCellControlInstructions_21 (cellIx c0)).rs (fA 274432#26)).toNat, k := ((cellAt wCellControlInstructions_21 (cellIx c0)).rs (fB 274432#26)).toNat % 32, cw := ((cellAt wCellControlInstructions_21 (cellIx c0)).rs (fB 274432#26)).toNat / 32 % 64, logw := ((cellAt wCellControlInstructions_21 (cellIx c0)).rs (fB 274432#26)).toNat / 2048 % 16 : FrameDecl })) ∧
    ((fD 274432#26 = 0) ∧ (fG 274432#26 = 0) ∧ (fX 274432#26 = 0) ∧ (fA 274432#26 < 16) ∧ (fB 274432#26 < 16) ∧ (issues wCellControlInstructions_22 c0 8 274432#26 [fA 274432#26, fB 274432#26]) ∧ (¬(((cellAt wCellControlInstructions_22 (cellIx c0)).rs (fB 274432#26)).toNat < 32768 ∧ Machine.frameOk (cellAt wCellControlInstructions_22 (cellIx c0)) (cellRlen wCellControlInstructions_22 c0) { fbase := ((cellAt wCellControlInstructions_22 (cellIx c0)).rs (fA 274432#26)).toNat, k := ((cellAt wCellControlInstructions_22 (cellIx c0)).rs (fB 274432#26)).toNat % 32, cw := ((cellAt wCellControlInstructions_22 (cellIx c0)).rs (fB 274432#26)).toNat / 32 % 64, logw := ((cellAt wCellControlInstructions_22 (cellIx c0)).rs (fB 274432#26)).toNat / 2048 % 16 : FrameDecl } = true) ∨ ∃ (g : FrameDecl), (cellAt wCellControlInstructions_22 (cellIx c0)).frame = some g ∧ g ≠ { fbase := ((cellAt wCellControlInstructions_22 (cellIx c0)).rs (fA 274432#26)).toNat, k := ((cellAt wCellControlInstructions_22 (cellIx c0)).rs (fB 274432#26)).toNat % 32, cw := ((cellAt wCellControlInstructions_22 (cellIx c0)).rs (fB 274432#26)).toNat / 32 % 64, logw := ((cellAt wCellControlInstructions_22 (cellIx c0)).rs (fB 274432#26)).toNat / 2048 % 16 : FrameDecl })) ∧
    ((fD 65536#26 = 0) ∧ (fB 65536#26 = 0) ∧ (fG 65536#26 = 0) ∧ (fX 65536#26 = 0) ∧ (fA 65536#26 < 16) ∧ (issues (wCellS (604045312#32) wCell) c0 9 65536#26 [fA 65536#26])) ∧
    ((fA 31457280#26 = 0) ∧ (fB 31457280#26 = 0) ∧ (fG 31457280#26 = 0) ∧ (fX 31457280#26 ≤ 8) ∧ (fD 31457280#26 < 16) ∧ (issues (wCellS (702545920#32) wCell) c0 10 31457280#26 []) ∧ (clauseSlot? (wCellS (702545920#32) wCell) (clauseIx c0.die c0.clause) = some { die := 0, slot := 0, row := 0, pos := 0 : SlotCfg })) ∧
    ((fA 31457288#26 = 0) ∧ (fB 31457288#26 = 0) ∧ (fG 31457288#26 = 0) ∧ (fX 31457288#26 ≤ 8) ∧ (fD 31457288#26 < 16) ∧ (issues (wCellS (702545928#32) wCell) c0 10 31457288#26 []) ∧ (clauseSlot? (wCellS (702545928#32) wCell) (clauseIx c0.die c0.clause) = some { die := 0, slot := 0, row := 0, pos := 0 : SlotCfg })) ∧
    ((fD 65536#26 = 0) ∧ (fB 65536#26 = 0) ∧ (fG 65536#26 = 0) ∧ (fX 65536#26 = 0) ∧ (fA 65536#26 < 16) ∧ (issues (wCellS (738263040#32) wCell) c0 11 65536#26 [fA 65536#26]) ∧ ((cellAt (wCellS (738263040#32) wCell) (cellIx c0)).banks.length ≤ ((cellAt (wCellS (738263040#32) wCell) (cellIx c0)).rs (fA 65536#26)).toNat)) ∧
    ((fD 65536#26 = 0) ∧ (fB 65536#26 = 0) ∧ (fG 65536#26 = 0) ∧ (fX 65536#26 = 0) ∧ (fA 65536#26 < 16) ∧ (issues wCellControlInstructions_23 c0 11 65536#26 [fA 65536#26]) ∧ (((cellAt wCellControlInstructions_23 (cellIx c0)).rs (fA 65536#26)).toNat < (cellAt wCellControlInstructions_23 (cellIx c0)).banks.length)) ∧
    ((fD 255#26 = 0) ∧ (fA 255#26 = 0) ∧ (fB 255#26 = 0) ∧ (fG 255#26 = 0) ∧ (issues (wCellS (805306623#32) wCell) c0 12 255#26 [])) ∧
    ((0 = 0 ∨ 13 ≤ 0 ∧ 0 ≤ 15 ∨ 29 ≤ 0 ∧ 0 ≤ 31 ∨ 60 ≤ 0 ∧ 0 ≤ 63) ∧ (atWord (wCellS (5#32) wCell) c0 0 5#26)) ∧
    ((15 = 0 ∨ 13 ≤ 15 ∧ 15 ≤ 15 ∨ 29 ≤ 15 ∧ 15 ≤ 31 ∨ 60 ≤ 15 ∧ 15 ≤ 63) ∧ (atWord (wCellS (1006632965#32) wCell) c0 15 5#26)) ∧
    ((29 = 0 ∨ 13 ≤ 29 ∧ 29 ≤ 15 ∨ 29 ≤ 29 ∧ 29 ≤ 31 ∨ 60 ≤ 29 ∧ 29 ≤ 63) ∧ (atWord (wCellS (1946157061#32) wCell) c0 29 5#26)) ∧
    ((63 = 0 ∨ 13 ≤ 63 ∧ 63 ≤ 15 ∨ 29 ≤ 63 ∧ 63 ≤ 31 ∨ 60 ≤ 63 ∧ 63 ≤ 63) ∧ (atWord (wCellS (4227858437#32) wCell) c0 63 5#26)) := by
  refine ⟨?_, ?_, ?_, ?_, ?_, ?_, ?_, ?_, ?_, ?_, ?_, ?_, ?_, ?_, ?_, ?_, ?_, ?_, ?_, ?_, ?_, ?_, ?_, ?_, ?_, ?_, ?_, ?_, ?_, ?_, ?_, ?_, ?_, ?_, ?_, ?_, ?_⟩
  all_goals decide +kernel

theorem witness_CellScalarInstructions :
    ((0 < 2) ∧ (16383 % 1 ≠ 0 ∨ 16384 < 16383 + 2)) ∧
    ((0 < 2) ∧ (257 % 2 ≠ 0)) ∧
    ((0 < 2) ∧ (14336 % 2 = 0) ∧ (14336 ≤ 14336) ∧ (14336 + 2 ≤ 16384)) ∧
    ((0 < 2) ∧ (262 % 2 = 0) ∧ (wCellScalarInstructions_24.dataLo ≤ 262) ∧ (262 + 2 ≤ wCellScalarInstructions_24.dataLo + wCellScalarInstructions_24.dataLen) ∧ (262 + 2 ≤ 14336)) ∧
    ((14334 % 2 = 0) ∧ (wCell.frame = none) ∧ (wCell.banks = []) ∧ (14334 + 2 ≤ 14336) ∧ (∀ (j : Nat), j < 2 → poisoned wPage ArrKind.cellData 0 ((14334 + j) / 8) = false)) ∧
    ((14334 % 2 = 0) ∧ (wCell.frame = none) ∧ (wCell.banks = []) ∧ (14334 + 2 ≤ 14336) ∧ (wCell.dataLen = 0 ∨ 14334 + 2 ≤ wCell.dataLo ∨ wCell.dataLo + wCell.dataLen ≤ 14334)) ∧
    ((0 < 2) ∧ (16382 % 2 = 0) ∧ (wCellScalarInstructions_25.cur = some wCellScalarInstructions_26) ∧ (14336 ≤ 16382) ∧ (16382 + 2 ≤ 16384) ∧ (16382 + 2 ≤ 15360 ∨ 15360 ≤ 16382) ∧ (wCellScalarInstructions_26.win ≠ decide (15360 ≤ 16382))) ∧
    (((256 + 8 * 38) % 2 = 0) ∧ (wCellScalarInstructions_27.dataLen = 0) ∧ (wCellScalarInstructions_27.banks = []) ∧ (wCellScalarInstructions_27.frame = some wCellScalarInstructions_28) ∧ (wCellScalarInstructions_27.cur = some wCellScalarInstructions_29) ∧ (0 < 8 * wCellScalarInstructions_28.cw) ∧ (0 < wCellScalarInstructions_28.k) ∧ (wCellScalarInstructions_28.fbase + wCellScalarInstructions_28.k * wCellScalarInstructions_28.fsize 38 ≤ 14336) ∧ (256 + 8 * 38 = wCellScalarInstructions_28.base 38 wCellScalarInstructions_29.q + 8 * 38 + 0) ∧ (0 + 2 ≤ 8 * wCellScalarInstructions_28.cw)) ∧
    ((0 < 2) ∧ (256 % 2 = 0) ∧ (wCellScalarInstructions_30.dataLen = 0) ∧ (wCellScalarInstructions_30.frame = some wCellScalarInstructions_31) ∧ (wCellScalarInstructions_30.cur = some wCellScalarInstructions_32) ∧ (0 < wCellScalarInstructions_31.k) ∧ (wCellScalarInstructions_31.fbase + wCellScalarInstructions_31.k * wCellScalarInstructions_31.fsize 38 ≤ 14336) ∧ (256 = wCellScalarInstructions_31.base 38 wCellScalarInstructions_32.q + 0) ∧ (0 + 2 ≤ 8 * 38)) ∧
    ((fD 31657984#26 < 16) ∧ (fA 31657984#26 < 16) ∧ (fB 31657984#26 < 16) ∧ (fG 31657984#26 = 0) ∧ (issues (wCellS (1105399808#32) wCell) c0 16 31657984#26 [fA 31657984#26, fB 31657984#26]) ∧ (16 = 16) ∧ (fX 31657984#26 = 0)) ∧
    ((fD 31657984#26 < 16) ∧ (fA 31657984#26 < 16) ∧ (fB 31657984#26 < 16) ∧ (fG 31657984#26 = 0) ∧ (issues (wCellS (1172508672#32) wCell) c0 17 31657984#26 [fA 31657984#26, fB 31657984#26]) ∧ (17 = 17) ∧ (fX 31657984#26 = 0)) ∧
    ((fD 31657987#26 < 16) ∧ (fA 31657987#26 < 16) ∧ (fB 31657987#26 < 16) ∧ (fG 31657987#26 = 0) ∧ (issues (wCellS (1239617539#32) wCell) c0 18 31657987#26 [fA 31657987#26, fB 31657987#26]) ∧ (18 = 18) ∧ (fX 31657987#26 ≤ 3)) ∧
    ((fD 31657984#26 < 16) ∧ (fA 31657984#26 < 16) ∧ (fB 31657984#26 < 16) ∧ (fG 31657984#26 = 0) ∧ (issues (wCellS (1306726400#32) wCell) c0 19 31657984#26 [fA 31657984#26, fB 31657984#26]) ∧ (19 = 19) ∧ (fX 31657984#26 = 0)) ∧
    ((fD 31658000#26 < 16) ∧ (fA 31658000#26 < 16) ∧ (fB 31658000#26 < 16) ∧ (fG 31658000#26 = 0) ∧ (issues (wCellS (1306726416#32) wCell) c0 19 31658000#26 [fA 31658000#26, fB 31658000#26]) ∧ (19 = 19) ∧ (fX 31658000#26 = 16)) ∧
    ((fD 31658016#26 < 16) ∧ (fA 31658016#26 < 16) ∧ (fB 31658016#26 < 16) ∧ (fG 31658016#26 = 0) ∧ (issues (wCellS (1306726432#32) wCell) c0 19 31658016#26 [fA 31658016#26, fB 31658016#26]) ∧ (19 = 19) ∧ (fX 31658016#26 = 32)) ∧
    ((fD 31657986#26 < 16) ∧ (fA 31657986#26 < 16) ∧ (fB 31657986#26 < 16) ∧ (fG 31657986#26 = 0) ∧ (issues (wCellS (1373835266#32) wCell) c0 20 31657986#26 [fA 31657986#26, fB 31657986#26]) ∧ (20 = 20) ∧ (fX 31657986#26 ≤ 2)) ∧
    ((fD 31657987#26 < 16) ∧ (fA 31657987#26 < 16) ∧ (fB 31657987#26 < 16) ∧ (fG 31657987#26 = 0) ∧ (issues (wCellS (1440944131#32) wCell) c0 21 31657987#26 [fA 31657987#26, fB 31657987#26]) ∧ (21 = 21) ∧ (fX 31657987#26 ≤ 3)) ∧
    ((fD 31653967#26 < 16) ∧ (fA 31653967#26 < 16) ∧ (fB 31653967#26 = 0) ∧ (fG 31653967#26 = 0) ∧ (15 < 16) ∧ (issues (wCellS (1306722383#32) wCell) c0 19 31653967#26 [fA 31653967#26]) ∧ (fX 31653967#26 = 64 + 15)) ∧
    ((fD 31653968#26 < 16) ∧ (fA 31653968#26 < 16) ∧ (fB 31653968#26 = 0) ∧ (fG 31653968#26 = 0) ∧ (0 < 16) ∧ (issues (wCellS (1306722384#32) wCell) c0 19 31653968#26 [fA 31653968#26]) ∧ (fX 31653968#26 = 80 + 0)) ∧
    ((fD 31653999#26 < 16) ∧ (fA 31653999#26 < 16) ∧ (fB 31653999#26 = 0) ∧ (fG 31653999#26 = 0) ∧ (15 < 16) ∧ (issues (wCellS (1306722415#32) wCell) c0 19 31653999#26 [fA 31653999#26]) ∧ (fX 31653999#26 = 96 + 15)) ∧
    ((fD 31719408#26 < 16) ∧ (fA 31719408#26 < 16) ∧ (issues (wCellS (1508114416#32) wCell) c0 22 31719408#26 [fA 31719408#26]) ∧ (22 = 22)) ∧
    ((fD 31719408#26 < 16) ∧ (fA 31719408#26 < 16) ∧ (issues (wCellS (1575223280#32) wCell) c0 23 31719408#26 [fA 31719408#26]) ∧ (23 = 23)) ∧
    ((fD 31719408#26 < 16) ∧ (fA 31719408#26 < 16) ∧ (issues (wCellS (1642332144#32) wCell) c0 24 31719408#26 [fA 31719408#26]) ∧ (24 = 24)) ∧
    ((fD 31719424#26 < 16) ∧ (fA 31719424#26 < 16) ∧ (issues (wCellS (1709441024#32) wCell) c0 25 31719424#26 [fA 31719424#26]) ∧ (noFlips (wCellS (1709441024#32) wCell) ArrKind.cellData (cellIx c0)) ∧ (loadMem (wCellS (1709441024#32) wCell) (cellIx c0) (cellAt (wCellS (1709441024#32) wCell) (cellIx c0)) (cellRlen (wCellS (1709441024#32) wCell) c0) ((cellAt (wCellS (1709441024#32) wCell) (cellIx c0)).rs (fA 31719424#26) + fImm 31719424#26).toNat 2 2 = MemRes.ok [7#8, 9#8])) ∧
    ((fD 31719425#26 < 16) ∧ (fA 31719425#26 < 16) ∧ (issues (wCellS (1709441025#32) wCell) c0 25 31719425#26 [fA 31719425#26]) ∧ (loadMem (wCellS (1709441025#32) wCell) (cellIx c0) (cellAt (wCellS (1709441025#32) wCell) (cellIx c0)) (cellRlen (wCellS (1709441025#32) wCell) c0) ((cellAt (wCellS (1709441025#32) wCell) (cellIx c0)).rs (fA 31719425#26) + fImm 31719425#26).toNat 2 2 = MemRes.trap 4 none)) ∧
    ((fD 2424830#26 < 16) ∧ (fA 2424830#26 < 16) ∧ (issues (wCellS (1747255294#32) wCell) c0 26 2424830#26 [fD 2424830#26, fA 2424830#26]) ∧ (noFlips (wCellS (1747255294#32) wCell) ArrKind.cellData (cellIx c0)) ∧ (storeCheck (cellAt (wCellS (1747255294#32) wCell) (cellIx c0)) (cellRlen (wCellS (1747255294#32) wCell) c0) ((cellAt (wCellS (1747255294#32) wCell) (cellIx c0)).rs (fA 2424830#26) + fImm 2424830#26).toNat 2 2 = MemRes.ok [])) ∧
    ((fD 2424831#26 < 16) ∧ (fA 2424831#26 < 16) ∧ (issues (wCellS (1747255295#32) wCell) c0 26 2424831#26 [fD 2424831#26, fA 2424831#26]) ∧ (storeCheck (cellAt (wCellS (1747255295#32) wCell) (cellIx c0)) (cellRlen (wCellS (1747255295#32) wCell) c0) ((cellAt (wCellS (1747255295#32) wCell) (cellIx c0)).rs (fA 2424831#26) + fImm 2424831#26).toNat 2 2 = MemRes.trap 4 none)) ∧
    ((fD 14749699#26 < 8) ∧ (fA 14749699#26 < 8) ∧ (fB 14749699#26 < 8) ∧ (fG 14749699#26 = 0) ∧ (fX 14749699#26 ≤ 3) ∧ (issues (wCellS (1826689027#32) wCell) c0 27 14749699#26 [])) ∧
    ((fD 14745604#26 < 8) ∧ (fA 14745604#26 < 8) ∧ (fB 14745604#26 = 0) ∧ (fG 14745604#26 = 0) ∧ (fX 14745604#26 = 4) ∧ (issues (wCellS (1826684932#32) wCell) c0 27 14745604#26 [])) ∧
    ((fD 31522816#26 < 16) ∧ (fA 31522816#26 < 8) ∧ (fB 31522816#26 = 0) ∧ (fG 31522816#26 = 0) ∧ (fX 31522816#26 = 0) ∧ (issues (wCellS (1910571008#32) wCell) c0 28 31522816#26 [])) ∧
    ((fD 14876673#26 < 8) ∧ (fA 14876673#26 < 16) ∧ (fB 14876673#26 = 0) ∧ (fG 14876673#26 = 0) ∧ (fX 14876673#26 = 1) ∧ (issues (wCellS (1893924865#32) wCell) c0 28 14876673#26 [fA 14876673#26])) := by
  refine ⟨?_, ?_, ?_, ?_, ?_, ?_, ?_, ?_, ?_, ?_, ?_, ?_, ?_, ?_, ?_, ?_, ?_, ?_, ?_, ?_, ?_, ?_, ?_, ?_, ?_, ?_, ?_, ?_, ?_, ?_, ?_⟩
  all_goals decide +kernel

theorem witness_CellVectorLanes :
    ((issues (wCellS (2155942144#32) wCell) c0 32 8458496#26 []) ∧ (32 = 32) ∧ (fX 8458496#26 ≤ 2)) ∧
    ((issues (wCellS (2223051008#32) wCell) c0 33 8458496#26 []) ∧ (33 = 33) ∧ (fX 8458496#26 ≤ 2)) ∧
    ((issues (wCellS (2290159872#32) wCell) c0 34 8458496#26 []) ∧ (34 = 34) ∧ (fX 8458496#26 = 0)) ∧
    ((issues (wCellS (2290159936#32) wCell) c0 34 8458560#26 []) ∧ (34 = 34) ∧ (fX 8458560#26 = 64)) ∧
    ((issues (wCellS (2290160000#32) wCell) c0 34 8458624#26 []) ∧ (34 = 34) ∧ (fX 8458624#26 = 128)) ∧
    ((issues (wCellS (2290160079#32) wCell) c0 34 8458703#26 []) ∧ (34 = 34) ∧ (fX 8458703#26 = 192 + 15) ∧ (1 ≤ 15) ∧ (15 ≤ 15)) ∧
    ((issues (wCellS (2357268736#32) wCell) c0 35 8458496#26 []) ∧ (35 = 35) ∧ (fX 8458496#26 ≤ 3)) ∧
    ((issues (wCellS (2424373504#32) wCell) c0 36 8454400#26 []) ∧ (36 = 36) ∧ (fB 8454400#26 = 0) ∧ (0 < 16) ∧ (fX 8454400#26 = 0)) ∧
    ((issues (wCellS (2424373520#32) wCell) c0 36 8454416#26 []) ∧ (36 = 36) ∧ (fB 8454416#26 = 0) ∧ (0 < 16) ∧ (fX 8454416#26 = 16 + 0)) ∧
    ((issues (wCellS (2424373536#32) wCell) c0 36 8454432#26 []) ∧ (36 = 36) ∧ (fB 8454432#26 = 0) ∧ (0 < 16) ∧ (fX 8454432#26 = 32 + 0)) ∧
    ((issues (wCellS (2491486464#32) wCell) c0 37 8458496#26 []) ∧ (37 = 37) ∧ (fX 8458496#26 ≤ 3)) ∧
    ((issues (wCellS (2564886784#32) wCell) c0 38 14749952#26 []) ∧ (38 = 38) ∧ (fX 14749952#26 ≤ 5) ∧ (fD 14749952#26 < 8) ∧ (fD 14749952#26 ≠ 0)) ∧
    ((issues (wCellS (2550206725#32) wCell) c0 38 69893#26 []) ∧ (38 = 38) ∧ (fX 69893#26 ≤ 5) ∧ (fD 69893#26 = 0)) ∧
    ((issues (wCellS (2625704192#32) wCell) c0 39 8458496#26 []) ∧ (39 = 39) ∧ (fX 8458496#26 = 0)) ∧
    ((issues (wCellS (2782986247#32) wCell) c0 41 31522823#26 []) ∧ (41 = 41) ∧ (fX 31522823#26 ≤ 7) ∧ (fB 31522823#26 = 0) ∧ (fG 31522823#26 = 0) ∧ (fD 31522823#26 < 16)) ∧
    ((issues (wCellS (2894139655#32) wCell) c0 43 8458503#26 []) ∧ (43 = 43) ∧ (fX 8458503#26 ≤ 7)) ∧
    ((issues (wCellS (3363956992#32) wCell) c0 50 8513792#26 []) ∧ (50 = 50) ∧ (fX 8513792#26 = 0) ∧ (fB 8513792#26 < 30)) ∧
    ((issues (wCellS (3498119424#32) wCell) c0 52 8458496#26 []) ∧ (52 = 52) ∧ (fX 8458496#26 = 0)) ∧
    ((fB 8585472#26 = 0) ∧ (fX 8585472#26 = 0) ∧ (fA 8585472#26 < 16) ∧ (issues (wCellS (2692940032#32) wCell) c0 40 8585472#26 [fA 8585472#26])) ∧
    ((fB 8585479#26 = 0) ∧ (fX 8585479#26 ≤ 7) ∧ (fA 8585479#26 < 16) ∧ (issues (wCellS (2827157767#32) wCell) c0 42 8585479#26 [fA 8585479#26])) ∧
    ((fB 8651008#26 = 0) ∧ (fA 8651008#26 < 16) ∧ (issues (wCellS (2961441024#32) wCell) c0 44 8651008#26 [fA 8651008#26]) ∧ ((fun (unit : Nat) => noFlips (wCellS (2961441024#32) wCell) ArrKind.cellData (cellIx c0) ∧ loadMem (wCellS (2961441024#32) wCell) (cellIx c0) (cellAt (wCellS (2961441024#32) wCell) (cellIx c0)) (cellRlen (wCellS (2961441024#32) wCell) c0) ((fun (unit : Int) => ((cellAt (wCellS (2961441024#32) wCell) (cellIx c0)).rs (fA 8651008#26) + BitVec.ofInt 16 (unit * sextX 8651008#26)).toNat) ↑unit) unit unit = MemRes.ok wCellVectorLanes_33) 16)) ∧
    ((fB 8651008#26 = 0) ∧ (fA 8651008#26 < 16) ∧ (issues (wCellS (3095658752#32) wCell) c0 46 8651008#26 [fA 8651008#26]) ∧ ((fun (unit : Nat) => noFlips (wCellS (3095658752#32) wCell) ArrKind.cellData (cellIx c0) ∧ loadMem (wCellS (3095658752#32) wCell) (cellIx c0) (cellAt (wCellS (3095658752#32) wCell) (cellIx c0)) (cellRlen (wCellS (3095658752#32) wCell) c0) ((fun (unit : Int) => ((cellAt (wCellS (3095658752#32) wCell) (cellIx c0)).rs (fA 8651008#26) + BitVec.ofInt 16 (unit * sextX 8651008#26)).toNat) ↑unit) unit unit = MemRes.ok wCellVectorLanes_34) 8)) ∧
    ((fB 8651008#26 = 0) ∧ (fA 8651008#26 < 16) ∧ (issues (wCellS (3296985344#32) wCell) c0 49 8651008#26 [fA 8651008#26]) ∧ ((fun (unit : Nat) => noFlips (wCellS (3296985344#32) wCell) ArrKind.cellData (cellIx c0) ∧ loadMem (wCellS (3296985344#32) wCell) (cellIx c0) (cellAt (wCellS (3296985344#32) wCell) (cellIx c0)) (cellRlen (wCellS (3296985344#32) wCell) c0) ((fun (unit : Int) => ((cellAt (wCellS (3296985344#32) wCell) (cellIx c0)).rs (fA 8651008#26) + BitVec.ofInt 16 (unit * sextX 8651008#26)).toNat) ↑unit) unit unit = MemRes.ok wCellVectorLanes_35) 4)) ∧
    ((fB 8585472#26 = 0) ∧ (fA 8585472#26 < 16) ∧ (issues (wCellS (2961375488#32) wCell) c0 44 8585472#26 [fA 8585472#26])) ∧
    ((fB 8585472#26 = 0) ∧ (fA 8585472#26 < 16) ∧ (issues (wCellS (3095593216#32) wCell) c0 46 8585472#26 [fA 8585472#26])) ∧
    ((fB 8585472#26 = 0) ∧ (fA 8585472#26 < 16) ∧ (issues (wCellS (3296919808#32) wCell) c0 49 8585472#26 [fA 8585472#26])) ∧
    ((fB 2294017#26 = 0) ∧ (fA 2294017#26 < 16) ∧ (issues (wCellS (3022192897#32) wCell) c0 45 2294017#26 [fA 2294017#26])) ∧
    ((fB 2294271#26 = 0) ∧ (fA 2294271#26 < 16) ∧ (issues (wCellS (3156410879#32) wCell) c0 47 2294271#26 [fA 2294271#26])) ∧
    ((fB 2359553#26 = 0) ∧ (fA 2359553#26 < 16) ∧ (issues (wCellS (3022258433#32) wCell) c0 45 2359553#26 [fA 2359553#26]) ∧ ((fun (unit : Nat) => noFlips (wCellS (3022258433#32) wCell) ArrKind.cellData (cellIx c0) ∧ storeCheck (cellAt (wCellS (3022258433#32) wCell) (cellIx c0)) (cellRlen (wCellS (3022258433#32) wCell) c0) ((fun (unit : Int) => ((cellAt (wCellS (3022258433#32) wCell) (cellIx c0)).rs (fA 2359553#26) + BitVec.ofInt 16 (unit * sextX 2359553#26)).toNat) ↑unit) unit unit = MemRes.ok []) 16)) ∧
    ((fB 2359807#26 = 0) ∧ (fA 2359807#26 < 16) ∧ (issues (wCellS (3156476415#32) wCell) c0 47 2359807#26 [fA 2359807#26]) ∧ ((fun (unit : Nat) => noFlips (wCellS (3156476415#32) wCell) ArrKind.cellData (cellIx c0) ∧ storeCheck (cellAt (wCellS (3156476415#32) wCell) (cellIx c0)) (cellRlen (wCellS (3156476415#32) wCell) c0) ((fun (unit : Int) => ((cellAt (wCellS (3156476415#32) wCell) (cellIx c0)).rs (fA 2359807#26) + BitVec.ofInt 16 (unit * sextX 2359807#26)).toNat) ↑unit) unit unit = MemRes.ok []) 8)) ∧
    ((fX 8462592#26 = 0) ∧ (fB 8462592#26 < 16) ∧ (issues wCellVectorLanes_36 c0 48 8462592#26 [fB 8462592#26]) ∧ (((cellAt wCellVectorLanes_36 (cellIx c0)).rs (fB 8462592#26)).getLsbD 0 = false) ∧ (noFlips wCellVectorLanes_36 ArrKind.cellData (cellIx c0)) ∧ (∀ (l : Nat), l < 8 → ((cellAt wCellVectorLanes_36 (cellIx c0)).rp (fG 8462592#26)).getLsbD l = true → loadMem wCellVectorLanes_36 (cellIx c0) (cellAt wCellVectorLanes_36 (cellIx c0)) (cellRlen wCellVectorLanes_36 c0) ((cellAt wCellVectorLanes_36 (cellIx c0)).rs (fB 8462592#26) + BitVec.ofNat 16 (2 * (lane ((cellAt wCellVectorLanes_36 (cellIx c0)).rv (fA 8462592#26)) l).toNat)).toNat 2 1 = MemRes.ok [BitVec.extractLsb' 0 8 (wCellVectorLanes_37 l), BitVec.extractLsb' 8 8 (wCellVectorLanes_37 l)])) ∧
    ((fX 8462592#26 = 0) ∧ (fB 8462592#26 < 16) ∧ (issues wCellVectorLanes_39 c0 48 8462592#26 [fB 8462592#26]) ∧ (((cellAt wCellVectorLanes_39 (cellIx c0)).rs (fB 8462592#26)).getLsbD 0 = true)) ∧
    ((fX 8462592#26 = 0) ∧ (fB 8462592#26 < 16) ∧ (issues wCellVectorLanes_40 c0 48 8462592#26 [fB 8462592#26]) ∧ (7 < 8) ∧ (((cellAt wCellVectorLanes_40 (cellIx c0)).rs (fB 8462592#26)).getLsbD 0 = false) ∧ (((cellAt wCellVectorLanes_40 (cellIx c0)).rp (fG 8462592#26)).getLsbD 7 = true) ∧ (∀ (k : Nat), k < 8 → k ≠ 7 → ((cellAt wCellVectorLanes_40 (cellIx c0)).rp (fG 8462592#26)).getLsbD k = false)) ∧
    ((fX 8462592#26 = 0) ∧ (fB 8462592#26 < 16) ∧ (issues wCellVectorLanes_41 c0 48 8462592#26 [fB 8462592#26]) ∧ (7 < 8) ∧ (((cellAt wCellVectorLanes_41 (cellIx c0)).rs (fB 8462592#26)).getLsbD 0 = false) ∧ (((cellAt wCellVectorLanes_41 (cellIx c0)).rp (fG 8462592#26)).getLsbD 7 = true) ∧ ((fun (l : Nat) => loadMem wCellVectorLanes_41 (cellIx c0) (cellAt wCellVectorLanes_41 (cellIx c0)) (cellRlen wCellVectorLanes_41 c0) ((cellAt wCellVectorLanes_41 (cellIx c0)).rs (fB 8462592#26) + BitVec.ofNat 16 (2 * (lane ((cellAt wCellVectorLanes_41 (cellIx c0)).rv (fA 8462592#26)) l).toNat)).toNat 2 1) 7 = MemRes.trap 4 none)) ∧
    ((fG 8458241#26 = 0) ∧ (fX 8458241#26 < 16) ∧ (fD 8458241#26 < 31) ∧ (issues (wCellS (3431010305#32) wCell) c0 51 8458241#26 [fX 8458241#26])) ∧
    ((fX 8521985#26 < 16) ∧ (0 < fA 8521985#26) ∧ (fA 8521985#26 < 31) ∧ (issues (wCellS (3565291777#32) wCell) c0 53 8521985#26 [fX 8521985#26])) := by
  refine ⟨?_, ?_, ?_, ?_, ?_, ?_, ?_, ?_, ?_, ?_, ?_, ?_, ?_, ?_, ?_, ?_, ?_, ?_, ?_, ?_, ?_, ?_, ?_, ?_, ?_, ?_, ?_, ?_, ?_, ?_, ?_, ?_, ?_, ?_, ?_, ?_⟩
  all_goals decide +kernel

end W12

namespace W13

/-- A running cell with scalar, vector and predicate registers, and the part with it and an instruction word at index 0. -/
def wCell : Cell :=
  { st := .run, s := [(1, 5), (2, 9), (3, 0x8001), (4, 0x100), (5, 0x2000)], p := [(1, 0xA5), (2, 0x0F)],
    v := [(1, 0x8001_7FFF_FFFF_0001_0000_0005_0004_0003), (2, 0x0001_0001_FFFF_0002_8000_0005_0009_0003), (3, 7)] }
def wCellS (wd : Word) (c : Cell) : State :=
  { wPage with job := some wJob, imem := [(0, wd)], cells := [(0, c)], clauses := [(0, { st := .serving, powered := true, slot := 0 })], dmem := [(0x100, 7), (0x101, 9), (0x2000, 5)] }
abbrev c0 : CellId := ⟨0, 0, 0⟩
def lf : CLine := { line := 0, at_ := some ⟨0, 5, 1, 0, 0⟩, q := 0 }
def g0 : Segment := { line := 0, q := 0, rerun := false, win := false, band := 0, bandLine := 0, pushed := 6 }
def gRe : Segment := { line := 0, q := 0, rerun := true, win := false, band := 0, bandLine := 0 }
def fr0 : FrameDecl := ⟨0, 3, 0, 4⟩
/-- The part with some cells of clause 0, which has one line. -/
def cs (wd : Word) (cl : List (Nat × Cell)) : State :=
  { wCellS wd wCell with cells := cl, clauses := [(0, { st := .serving, powered := true, lines := [lf], nextLine := 1 })] }
/-- Two strips of row 0, on one die or two. -/
def wG2 (e : Nat) : Grammar := { rows := [{ row := 0, mode := 0, strips := 2, overlay := false }], slots := [⟨0, 0, 0, 0⟩, if e = 0 then ⟨0, 1, 0, 1⟩ else ⟨e, 0, 0, 1⟩] }
/-- A cell of clause 0 at an instruction, or of its peer, which holds halo records. -/
def hs (e : Nat) (i : Nat) (wd : Word) (c : Cell) (l r : List (BitVec 128)) : State :=
  let k := (if e = 0 then 1 else 66 * e)
  { wPage with job := some wJob, gram := wG2 e, imem := [(1024 * i, wd)], cells := [(i, c)], slotMap := (if e = 0 then [(0, some 0), (1, some 1)] else [(0, some 0), (64 * e, some 0)]), clauses := [(0, { st := .serving, powered := true, haloR := r }), (k, { st := .serving, powered := true, slot := if e = 0 then 1 else 0, haloL := l, haloR := r })] }
def gE (n : Nat) : Segment := { g0 with pushed := n }
def oq (n : Nat) : List (Nat × Nat × BitVec 64) := List.replicate n (0, 0, 7)
def gRv (n : Nat) : Segment := { g0 with recvs := n }
def ad : State := { wPage with job := some wJob, clauses := [(0, { st := .serving, powered := true })] }
def p0 : PLine := ⟨0, 5, 1, 0, 0⟩
def wt : Cell := { wCell with st := .wait, frame := some fr0, recWords := [(0, 0x1FFFF)] }
def gOvs : Grammar := { rows := [{ row := 0, mode := 1, strips := 1, overlay := false }], slots := [⟨0, 0, 0, 0⟩] }
def gOvl : Grammar := { rows := [{ row := 0, mode := 0, strips := 1, overlay := true }], slots := [⟨0, 0, 0, 0⟩] }
def lr : CLine := { lf with rerun := true, rerunDue := 1, begun := 1, segs := 1 }
def adEmpty : State := { ad with gram := gOvs, rows := [(0, { gathered := some 129 })], clauses := [(0, { st := .serving, powered := true, nextLine := 130 })] }
def adLate : State := { ad with clauses := [(0, { st := .serving, powered := true, haloLost := some 0 })] }
def im0 : Image := { id := 0, dataAddr := 16, rowMask := 1, cellMask := 1, entry := 0, words := [5, 6], data := [1, 2, 3, 4, 5, 6, 7, 8] }
def rlS (d : Bool) : State := placeImages { cs 0 [(0, { wCell with reload := some d })] with gram := { wGram false with images := [im0] } } 0
def imC : Nat × Image := (imageCopy? (rlS false) 0 0).getD (0, im0)
def gL (re : Bool) : Segment := { g0 with cycles := 5120, rerun := re }
def gr10 : Grammar := { rows := [{ row := 0, mode := 0, strips := 1, overlay := false, p := 10 }], slots := [⟨0, 0, 0, 0⟩] }
def wd (re : Bool) (st : ClauseState) (ls : List CLine) : State := { cs 0 [(0, { wCell with cur := some (gL re) })] with gram := gr10, clauses := [(0, { st := st, powered := true, lines := ls, nextLine := 1 })] }
def lt : CLine := { lf with rerun := true, trap1 := some (0, 12, 0) }
def cs1 : State := { cs 0 [(0, { wCell with cur := some g0, stall := some (.banks 0) })] with gram := gr10 }
def wCellPortsAndBankRequests_0 : State := cs 0xD8010800 [(0, { wCell with cur := some g0 })]
def wCellPortsAndBankRequests_1 : State := cs 0xD8010800 [(0, { wCell with cur := some (gE 7) })]
def wCellPortsAndBankRequests_2 : State := cs 0xD8010800 [(0, { wCell with cur := some (gE 7), outq := oq 7 })]
def wCellPortsAndBankRequests_3 : State := cs 0xD8010800 [(0, { wCell with cur := some (gE 7), outq := oq 8 })]
def wCellPortsAndBankRequests_4 : State := cs 0xD8010800 [(0, { wCell with cur := some (gE 8) })]
def wCellPortsAndBankRequests_6 : State := { cs 0xDC010001 [(14, wCell)] with imem := [(14336, 0xDC010001)] }
def wCellPortsAndBankRequests_7 : State := { cs 0xDC010000 [(1, wCell)] with imem := [(1024, 0xDC010000)] }
def wCellPortsAndBankRequests_8 : State := cs 0xDC010001 [(0, wCell), (1, { portL := [7, 7] })]
def wCellPortsAndBankRequests_9 : State := { cs 0 [(0, { portR := [7, 7] }), (1, wCell)] with imem := [(1024, 0xDC010000)] }
def wCellPortsAndBankRequests_10 : State := { cs 0xDC010001 [(15, wCell)] with imem := [(15360, 0xDC010001)] }
def wCellPortsAndBankRequests_11 : State := { cs 0xDC010000 [(0, wCell)] with imem := [(0, 0xDC010000)] }
def wCellPortsAndBankRequests_12 : State := cs 0xDC010001 [(0, { wCell with cur := some gRe })]
def wCellPortsAndBankRequests_14 : State := { cs 0 [(14, wCell)] with imem := [(14336, 0xE0800001)] }
def wCellPortsAndBankRequests_15 : State := { cs 0 [(0, { wCell with cur := some (gRv 2), frame := some fr0 })] with imem := [(0, 0xE0800001)] }
def wCellPortsAndBankRequests_16 : State := { cs 0 [(0, { wCell with cur := some gRe, frame := some fr0 })] with imem := [(0, 0xE0800001)] }
def wCellPortsAndBankRequests_17 : State := { cs 0 [(15, wCell)] with imem := [(15360, 0xE0800001)] }
def wCellPortsAndBankRequests_18 : State := { cs 0 [(0, wCell)] with imem := [(0, 0xE0800000)] }
def wCellPortsAndBankRequests_19 : State := hs 0 15 0xE0800001 wCell [] [9, 8]
def wCellPortsAndBankRequests_20 : List (BitVec 128) := [8]
def wCellPortsAndBankRequests_21 : State := { hs 0 15 0 wCell [9, 8] [] with cells := [(16, wCell)], imem := [(16384, 0xE0800000)] }
def wCellPortsAndBankRequests_22 : List (BitVec 128) := [8]
def wCellPortsAndBankRequests_23 : State := { cs 0 [(0, { wCell with portR := [77, 8], cur := some (gRv 1), frame := some fr0 })] with imem := [(0, 0xE0800001)] }
def wCellPortsAndBankRequests_24 : State := { cs 0 [(0, { wCell with portR := [8], cur := some (gRv 1), frame := some fr0 })] with imem := [(0, 0xE0800001)] }
def wCellPortsAndBankRequests_27 : State := { cs 0 [(14, { wCell with portR := [77, 8] })] with imem := [(14336, 0xE0800001)] }
def wCellPortsAndBankRequests_28 : List (BitVec 128) := [8]
def wCellPortsAndBankRequests_29 : State := { cs 0 [(1, { wCell with portL := [77, 8] })] with imem := [(1024, 0xE0800000)] }
def wCellPortsAndBankRequests_30 : List (BitVec 128) := [8]
def wCellPortsAndBankRequests_31 : State := { cs 0 [(0, { wCell with portR := [77, 8], cur := some (gRv 1), frame := some fr0 })] with imem := [(0, 0xE0800001)] }
def wCellPortsAndBankRequests_32 : List (BitVec 128) := [8]
def wCellPortsAndBankRequests_33 : State := { cs 0 [(0, { wCell with cur := some gRe, frame := some fr0, logs := [(0, 1)] })] with imem := [(0, 0xE0800001)] }
def wCellPortsAndBankRequests_35 : State := wCellS 0xE401207F { wCell with s := [(1, 5), (4, 0x100)] }
def wCellPortsAndBankRequests_36 : State := wCellS 0xE401207F { wCell with s := [(1, 5), (4, 0x100)], banks := List.replicate 8 (.gather [0] 0) }
def wCellPortsAndBankRequests_37 : State := wCellS 0xE401207F { wCell with s := [(1, 5), (4, 0x101)] }
def wCellPortsAndBankRequests_38 : State := wCellS 0xE401207F { wCell with seg := 15, s := [(1, 0x7FFF), (4, 0x100)] }
def wCellPortsAndBankRequests_40 : State := wCellS 0xE8811000 { wCell with v := [(1, 0)] }
def wCellPortsAndBankRequests_41 : State := wCellS 0xE8811000 { wCell with v := [(1, 0)], banks := List.replicate 8 (.gather [0] 0) }
def wCellPortsAndBankRequests_42 : State := wCellS 0xE8811000 { wCell with v := [(1, 0)], s := [(4, 0x101)] }
def wCellPortsAndBankRequests_43 : State := wCellS 0xE8811000 { wCell with v := [(1, 0)], seg := 15, s := [(2, 0xFFFF), (4, 0x100)] }
def wCellPortsAndBankRequests_44 : State := wCellS 0xEDE11007 { wCell with banks := List.replicate 8 (.gather [0] 0) }
def wCellPortsAndBankRequests_45 : State := wCellS 0xEDE11007 { wCell with seg := 15, s := [(1, 0xFFFF)] }
def wLinesReachTheCells_46 : State := { cs 0 [(0, wt)] with gram := gOvs }
def wLinesReachTheCells_47 : State := { cs 0 [(0, wt)] with clauses := [(0, { st := .serving, powered := true, lines := [lr], nextLine := 1 })] }
def wLinesReachTheCells_48 : State := { cs 0 [(0, wt)] with gram := gOvl }
def wLinesReachTheCells_49 : State := { ad with clauses := [(0, { st := .serving, powered := true, winDirty := true })] }
def wLinesReachTheCells_50 : State := cs 0 [(0, { wCell with stall := some (.banks 0), cur := some g0 })]
def wLinesReachTheCells_51 : State := { cs 0 [(0, { wCell with banks := [.get 4096 2 0x200] })] with banks := [(4096, 7), (4100, 9)] }
def wLinesReachTheCells_52 : State := { cs 0 [(0, { wCell with banks := [.gather (List.replicate 8 0x6FFFFE) 0x200] })] with banks := [(0x6FFFFE, 7)], poison := [⟨.bank, 0, 0xDFFFF⟩] }
def wLinesReachTheCells_53 : State := { cs 0 [(0, { wCell with banks := [.atomic 4096 false 3 15 7] })] with banks := [(4096, 0xFF), (4097, 9)] }
def wLinesReachTheCells_54 : State := { cs 0 [(0, { wCell with banks := [.atomic 4096 true 3 15 7] })] with banks := [(4096, 0xFF), (4097, 9)], poison := [⟨.bank, 0, 512⟩] }
def wLinesReachTheCells_55 : State := { cs 0 [(0, { wCell with st := .restart, banks := [.atomic 4096 false 3 15 7] })] with banks := [(4096, 0xFF), (4097, 9)] }
def wLinesReachTheCells_56 : List CellId := [⟨0, 0, 1⟩]
def wLinesReachTheCells_57 : State := { cs 0 [(0, { wCell with banks := [.atomic 4096 false 3 15 7] }), (1, { wCell with banks := [.atomic 4096 true 9 15 7] })] with banks := [(4096, 0xFF), (4097, 9)] }
def wLinesReachTheCells_58 : Instr := .bankRequestComplete c0 [⟨0, 0, 1⟩] [.atomic 4096 false 1]
def wLinesReachTheCells_59 : State := { cs 0 [(0, { wCell with banks := [.atomic 4096 false 3 15 7] }), (1, { wCell with banks := [.atomic 4096 true 9 15 7] })] with banks := [(4096, 0xFF), (4097, 9)] }
def wLinesReachTheCells_60 : Instr := .bankRequestComplete ⟨0, 0, 1⟩ [c0] [.atomic 4096 false 1]
def wLinesReachTheCells_61 : State := cs 0 [(0, { wCell with st := .restart, cause := 3, entry := 40 })]
def wLinesReachTheCells_63 : State := wd false .serving [lf]
def wLinesReachTheCells_64 : State := wd false .serving [lf]
def wLinesReachTheCells_65 : State := wd true .serving [lt]
def wLinesReachTheCells_66 : State := wd false .fencing [lf]
def wLinesReachTheCells_67 : State := { wCellS 0x300000FF wCell with clauses := [(0, { st := .spare, powered := true, spareFor := some 5 })] }
def wLinesReachTheCells_68 : State := cs 0 [(0, { wCell with overLen := [999, 1000] })]
def wLinesReachTheCells_69 : List Nat := [1000]

theorem witness_CellPortsAndBankRequests :
    ((fD 65536#26 = 0) ∧ (fG 65536#26 = 0) ∧ (fX 65536#26 = 0) ∧ (fB 65536#26 < 16) ∧ (issues (wCellS (3623944192#32) wCell) c0 54 65536#26 [fB 65536#26]) ∧ (((cellAt (wCellS (3623944192#32) wCell) (cellIx c0)).rs (fB 65536#26)).getLsbD 0 = false)) ∧
    ((fD 67584#26 = 0) ∧ (fG 67584#26 = 0) ∧ (fX 67584#26 = 0) ∧ (fB 67584#26 < 16) ∧ (issues (wCellS (3623946240#32) wCell) c0 54 67584#26 [fB 67584#26]) ∧ (((cellAt (wCellS (3623946240#32) wCell) (cellIx c0)).rs (fB 67584#26)).getLsbD 0 = true) ∧ ((cellAt (wCellS (3623946240#32) wCell) (cellIx c0)).cur = none)) ∧
    ((fD 67584#26 = 0) ∧ (fG 67584#26 = 0) ∧ (fX 67584#26 = 0) ∧ (fB 67584#26 < 16) ∧ (issues wCellPortsAndBankRequests_0 c0 54 67584#26 [fB 67584#26]) ∧ (((cellAt wCellPortsAndBankRequests_0 (cellIx c0)).rs (fB 67584#26)).getLsbD 0 = true) ∧ ((cellAt wCellPortsAndBankRequests_0 (cellIx c0)).cur = some g0) ∧ (g0.pushed < 7) ∧ ((cellAt wCellPortsAndBankRequests_0 (cellIx c0)).outq = []) ∧ ((clauseAt wCellPortsAndBankRequests_0 (clauseIx c0.die c0.clause)).lineQ? g0.q = some lf) ∧ (lf.st = LineState.filling)) ∧
    ((fD 67584#26 = 0) ∧ (fG 67584#26 = 0) ∧ (fX 67584#26 = 0) ∧ (fB 67584#26 < 16) ∧ (issues wCellPortsAndBankRequests_1 c0 54 67584#26 [fB 67584#26]) ∧ (((cellAt wCellPortsAndBankRequests_1 (cellIx c0)).rs (fB 67584#26)).getLsbD 0 = true) ∧ ((cellAt wCellPortsAndBankRequests_1 (cellIx c0)).cur = some (gE 7)) ∧ ((gE 7).pushed = 7) ∧ ((cellAt wCellPortsAndBankRequests_1 (cellIx c0)).outq = []) ∧ ((clauseAt wCellPortsAndBankRequests_1 (clauseIx c0.die c0.clause)).lineQ? (gE 7).q = some lf) ∧ (lf.st = LineState.filling) ∧ (lf.segs &&& ~~~(1#16 <<< c0.cell) ≠ 65535#16 &&& ~~~(1#16 <<< c0.cell))) ∧
    ((fD 67584#26 = 0) ∧ (fG 67584#26 = 0) ∧ (fX 67584#26 = 0) ∧ (fB 67584#26 < 16) ∧ (issues wCellPortsAndBankRequests_2 c0 54 67584#26 [fB 67584#26]) ∧ (((cellAt wCellPortsAndBankRequests_2 (cellIx c0)).rs (fB 67584#26)).getLsbD 0 = true) ∧ ((cellAt wCellPortsAndBankRequests_2 (cellIx c0)).cur = some (gE 7)) ∧ ((gE 7).pushed < 8) ∧ ((cellAt wCellPortsAndBankRequests_2 (cellIx c0)).outq ≠ []) ∧ ((cellAt wCellPortsAndBankRequests_2 (cellIx c0)).outq.length < queueDepth wCellPortsAndBankRequests_2 2 c0.die)) ∧
    ((fD 67584#26 = 0) ∧ (fG 67584#26 = 0) ∧ (fX 67584#26 = 0) ∧ (fB 67584#26 < 16) ∧ (issues wCellPortsAndBankRequests_3 c0 54 67584#26 [fB 67584#26]) ∧ (((cellAt wCellPortsAndBankRequests_3 (cellIx c0)).rs (fB 67584#26)).getLsbD 0 = true) ∧ ((cellAt wCellPortsAndBankRequests_3 (cellIx c0)).cur = some (gE 7)) ∧ ((gE 7).pushed < 8) ∧ ((cellAt wCellPortsAndBankRequests_3 (cellIx c0)).outq ≠ []) ∧ (queueDepth wCellPortsAndBankRequests_3 2 c0.die ≤ (cellAt wCellPortsAndBankRequests_3 (cellIx c0)).outq.length)) ∧
    ((fD 67584#26 = 0) ∧ (fG 67584#26 = 0) ∧ (fX 67584#26 = 0) ∧ (fB 67584#26 < 16) ∧ (issues wCellPortsAndBankRequests_4 c0 54 67584#26 [fB 67584#26]) ∧ (((cellAt wCellPortsAndBankRequests_4 (cellIx c0)).rs (fB 67584#26)).getLsbD 0 = true) ∧ ((cellAt wCellPortsAndBankRequests_4 (cellIx c0)).cur = some (gE 8)) ∧ (8 ≤ (gE 8).pushed)) ∧
    ((fD 65537#26 = 0) ∧ (fB 65537#26 = 0) ∧ (fG 65537#26 = 0) ∧ (issues wCellPortsAndBankRequests_6 { die := 0, clause := 0, cell := 14 : CellId } 55 65537#26 []) ∧ (fX 65537#26 = 1) ∧ ({ die := 0, clause := 0, cell := 14 : CellId }.cell < 15) ∧ (Option.any (fun (g : Segment) => g.rerun) (cellAt wCellPortsAndBankRequests_6 (cellIx { die := 0, clause := 0, cell := 14 : CellId })).cur = false) ∧ (portTakes wCellPortsAndBankRequests_6 { die := 0, clause := 0, cell := 14 : CellId }.die (cellAt wCellPortsAndBankRequests_6 (cellIx { die := 0, clause := 0, cell := 14 : CellId } + 1)).portL = true)) ∧
    ((fD 65536#26 = 0) ∧ (fB 65536#26 = 0) ∧ (fG 65536#26 = 0) ∧ (issues wCellPortsAndBankRequests_7 { die := 0, clause := 0, cell := 1 : CellId } 55 65536#26 []) ∧ (fX 65536#26 = 0) ∧ (0 < { die := 0, clause := 0, cell := 1 : CellId }.cell) ∧ (Option.any (fun (g : Segment) => g.rerun) (cellAt wCellPortsAndBankRequests_7 (cellIx { die := 0, clause := 0, cell := 1 : CellId })).cur = false) ∧ (portTakes wCellPortsAndBankRequests_7 { die := 0, clause := 0, cell := 1 : CellId }.die (cellAt wCellPortsAndBankRequests_7 (cellIx { die := 0, clause := 0, cell := 1 : CellId } - 1)).portR = true)) ∧
    ((fD 65537#26 = 0) ∧ (fB 65537#26 = 0) ∧ (fG 65537#26 = 0) ∧ (issues wCellPortsAndBankRequests_8 c0 55 65537#26 []) ∧ (fX 65537#26 = 1) ∧ (c0.cell < 15) ∧ (Option.any (fun (g : Segment) => g.rerun) (cellAt wCellPortsAndBankRequests_8 (cellIx c0)).cur = false) ∧ (portTakes wCellPortsAndBankRequests_8 c0.die (cellAt wCellPortsAndBankRequests_8 (cellIx c0 + 1)).portL = false)) ∧
    ((fD 65536#26 = 0) ∧ (fB 65536#26 = 0) ∧ (fG 65536#26 = 0) ∧ (issues wCellPortsAndBankRequests_9 { die := 0, clause := 0, cell := 1 : CellId } 55 65536#26 []) ∧ (fX 65536#26 = 0) ∧ (0 < { die := 0, clause := 0, cell := 1 : CellId }.cell) ∧ (Option.any (fun (g : Segment) => g.rerun) (cellAt wCellPortsAndBankRequests_9 (cellIx { die := 0, clause := 0, cell := 1 : CellId })).cur = false) ∧ (portTakes wCellPortsAndBankRequests_9 { die := 0, clause := 0, cell := 1 : CellId }.die (cellAt wCellPortsAndBankRequests_9 (cellIx { die := 0, clause := 0, cell := 1 : CellId } - 1)).portR = false)) ∧
    ((fD 65537#26 = 0) ∧ (fB 65537#26 = 0) ∧ (fG 65537#26 = 0) ∧ (issues (hs 0 15 (3691053057#32) wCell [] []) { die := 0, clause := 0, cell := 15 : CellId } 55 65537#26 []) ∧ (true = true ∧ fX 65537#26 = 1 ∧ { die := 0, clause := 0, cell := 15 : CellId }.cell = 15 ∨ true = false ∧ fX 65537#26 = 0 ∧ { die := 0, clause := 0, cell := 15 : CellId }.cell = 0) ∧ (Option.any (fun (g : Segment) => g.rerun) (cellAt (hs 0 15 (3691053057#32) wCell [] []) (cellIx { die := 0, clause := 0, cell := 15 : CellId })).cur = false) ∧ (haloPeer? (hs 0 15 (3691053057#32) wCell [] []) (clauseIx { die := 0, clause := 0, cell := 15 : CellId }.die { die := 0, clause := 0, cell := 15 : CellId }.clause) true = some { die := 0, slot := 1, row := 0, pos := 1 : SlotCfg }) ∧ ((haloClause? (hs 0 15 (3691053057#32) wCell [] []) { die := 0, slot := 1, row := 0, pos := 1 : SlotCfg }.die { die := 0, slot := 1, row := 0, pos := 1 : SlotCfg }.slot !true) = some 1)) ∧
    ((fD 65537#26 = 0) ∧ (fB 65537#26 = 0) ∧ (fG 65537#26 = 0) ∧ (issues (hs 3 15 (3691053057#32) wCell [] []) { die := 0, clause := 0, cell := 15 : CellId } 55 65537#26 []) ∧ (true = true ∧ fX 65537#26 = 1 ∧ { die := 0, clause := 0, cell := 15 : CellId }.cell = 15 ∨ true = false ∧ fX 65537#26 = 0 ∧ { die := 0, clause := 0, cell := 15 : CellId }.cell = 0) ∧ (Option.any (fun (g : Segment) => g.rerun) (cellAt (hs 3 15 (3691053057#32) wCell [] []) (cellIx { die := 0, clause := 0, cell := 15 : CellId })).cur = false) ∧ (haloPeer? (hs 3 15 (3691053057#32) wCell [] []) (clauseIx { die := 0, clause := 0, cell := 15 : CellId }.die { die := 0, clause := 0, cell := 15 : CellId }.clause) true = some { die := 3, slot := 0, row := 0, pos := 1 : SlotCfg }) ∧ ((haloClause? (hs 3 15 (3691053057#32) wCell [] []) { die := 3, slot := 0, row := 0, pos := 1 : SlotCfg }.die { die := 3, slot := 0, row := 0, pos := 1 : SlotCfg }.slot !true) = some 198)) ∧
    ((fD 65537#26 = 0) ∧ (fB 65537#26 = 0) ∧ (fG 65537#26 = 0) ∧ (issues (hs 0 15 (3691053057#32) wCell (List.replicate 8 7#128) []) { die := 0, clause := 0, cell := 15 : CellId } 55 65537#26 []) ∧ (true = true ∧ fX 65537#26 = 1 ∧ { die := 0, clause := 0, cell := 15 : CellId }.cell = 15 ∨ true = false ∧ fX 65537#26 = 0 ∧ { die := 0, clause := 0, cell := 15 : CellId }.cell = 0) ∧ (Option.any (fun (g : Segment) => g.rerun) (cellAt (hs 0 15 (3691053057#32) wCell (List.replicate 8 7#128) []) (cellIx { die := 0, clause := 0, cell := 15 : CellId })).cur = false) ∧ (haloPeer? (hs 0 15 (3691053057#32) wCell (List.replicate 8 7#128) []) (clauseIx { die := 0, clause := 0, cell := 15 : CellId }.die { die := 0, clause := 0, cell := 15 : CellId }.clause) true = some { die := 0, slot := 1, row := 0, pos := 1 : SlotCfg }) ∧ ((haloClause? (hs 0 15 (3691053057#32) wCell (List.replicate 8 7#128) []) { die := 0, slot := 1, row := 0, pos := 1 : SlotCfg }.die { die := 0, slot := 1, row := 0, pos := 1 : SlotCfg }.slot !true) = some 1)) ∧
    ((fD 65537#26 = 0) ∧ (fB 65537#26 = 0) ∧ (fG 65537#26 = 0) ∧ (issues wCellPortsAndBankRequests_10 { die := 0, clause := 0, cell := 15 : CellId } 55 65537#26 []) ∧ (fX 65537#26 = 0 ∧ { die := 0, clause := 0, cell := 15 : CellId }.cell = 0 ∨ fX 65537#26 = 1 ∧ { die := 0, clause := 0, cell := 15 : CellId }.cell = 15) ∧ (haloPeer? wCellPortsAndBankRequests_10 (clauseIx { die := 0, clause := 0, cell := 15 : CellId }.die { die := 0, clause := 0, cell := 15 : CellId }.clause) (fX 65537#26 == 1) = none)) ∧
    ((fD 65536#26 = 0) ∧ (fB 65536#26 = 0) ∧ (fG 65536#26 = 0) ∧ (issues wCellPortsAndBankRequests_11 { die := 0, clause := 0, cell := 0 : CellId } 55 65536#26 []) ∧ (fX 65536#26 = 0 ∧ { die := 0, clause := 0, cell := 0 : CellId }.cell = 0 ∨ fX 65536#26 = 1 ∧ { die := 0, clause := 0, cell := 0 : CellId }.cell = 15) ∧ (haloPeer? wCellPortsAndBankRequests_11 (clauseIx { die := 0, clause := 0, cell := 0 : CellId }.die { die := 0, clause := 0, cell := 0 : CellId }.clause) (fX 65536#26 == 1) = none)) ∧
    ((fD 65537#26 = 0) ∧ (fB 65537#26 = 0) ∧ (fG 65537#26 = 0) ∧ (issues wCellPortsAndBankRequests_12 c0 55 65537#26 []) ∧ (fX 65537#26 ≤ 1) ∧ (Option.any (fun (g : Segment) => g.rerun) (cellAt wCellPortsAndBankRequests_12 (cellIx c0)).cur = true)) ∧
    ((fA 8388609#26 = 0) ∧ (fB 8388609#26 = 0) ∧ (fG 8388609#26 = 0) ∧ (fX 8388609#26 ≤ 1) ∧ (issues wCellPortsAndBankRequests_14 { die := 0, clause := 0, cell := 14 : CellId } 56 8388609#26 []) ∧ (Option.any (fun (g : Segment) => g.rerun) (cellAt wCellPortsAndBankRequests_14 (cellIx { die := 0, clause := 0, cell := 14 : CellId })).cur = false) ∧ (∀ (g : Segment) (f : FrameDecl), (cellAt wCellPortsAndBankRequests_14 (cellIx { die := 0, clause := 0, cell := 14 : CellId })).cur = some g → (cellAt wCellPortsAndBankRequests_14 (cellIx { die := 0, clause := 0, cell := 14 : CellId })).frame = some f → g.recvs < f.logw / 2) ∧ (recvFrom? wCellPortsAndBankRequests_14 { die := 0, clause := 0, cell := 14 : CellId } (fX 8388609#26 == 1) = none)) ∧
    ((fA 8388609#26 = 0) ∧ (fB 8388609#26 = 0) ∧ (fG 8388609#26 = 0) ∧ (fX 8388609#26 ≤ 1) ∧ (issues wCellPortsAndBankRequests_15 { die := 0, clause := 0, cell := 0 : CellId } 56 8388609#26 []) ∧ ((cellAt wCellPortsAndBankRequests_15 (cellIx { die := 0, clause := 0, cell := 0 : CellId })).cur = some (gRv 2)) ∧ ((cellAt wCellPortsAndBankRequests_15 (cellIx { die := 0, clause := 0, cell := 0 : CellId })).frame = some fr0) ∧ ((gRv 2).rerun = false) ∧ (fr0.logw / 2 ≤ (gRv 2).recvs)) ∧
    ((fA 8388609#26 = 0) ∧ (fB 8388609#26 = 0) ∧ (fG 8388609#26 = 0) ∧ (fX 8388609#26 ≤ 1) ∧ (issues wCellPortsAndBankRequests_16 { die := 0, clause := 0, cell := 0 : CellId } 56 8388609#26 []) ∧ (noFlips wCellPortsAndBankRequests_16 ArrKind.cellData (cellIx { die := 0, clause := 0, cell := 0 : CellId })) ∧ ((cellAt wCellPortsAndBankRequests_16 (cellIx { die := 0, clause := 0, cell := 0 : CellId })).cur = some gRe) ∧ ((cellAt wCellPortsAndBankRequests_16 (cellIx { die := 0, clause := 0, cell := 0 : CellId })).frame = some fr0) ∧ (gRe.rerun = true) ∧ (sget 0 (cellAt wCellPortsAndBankRequests_16 (cellIx { die := 0, clause := 0, cell := 0 : CellId })).logs gRe.q ≤ gRe.recvs)) ∧
    ((fA 8388609#26 = 0) ∧ (fB 8388609#26 = 0) ∧ (fG 8388609#26 = 0) ∧ (fX 8388609#26 ≤ 1) ∧ (issues wCellPortsAndBankRequests_17 { die := 0, clause := 0, cell := 15 : CellId } 56 8388609#26 []) ∧ ((cellAt wCellPortsAndBankRequests_17 (cellIx { die := 0, clause := 0, cell := 15 : CellId })).cur = none) ∧ ((fX 8388609#26 == 1) = true ∧ { die := 0, clause := 0, cell := 15 : CellId }.cell = 15 ∨ (fX 8388609#26 == 1) = false ∧ { die := 0, clause := 0, cell := 15 : CellId }.cell = 0) ∧ (haloPeer? wCellPortsAndBankRequests_17 (clauseIx { die := 0, clause := 0, cell := 15 : CellId }.die { die := 0, clause := 0, cell := 15 : CellId }.clause) (fX 8388609#26 == 1) = none)) ∧
    ((fA 8388608#26 = 0) ∧ (fB 8388608#26 = 0) ∧ (fG 8388608#26 = 0) ∧ (fX 8388608#26 ≤ 1) ∧ (issues wCellPortsAndBankRequests_18 { die := 0, clause := 0, cell := 0 : CellId } 56 8388608#26 []) ∧ ((cellAt wCellPortsAndBankRequests_18 (cellIx { die := 0, clause := 0, cell := 0 : CellId })).cur = none) ∧ ((fX 8388608#26 == 1) = true ∧ { die := 0, clause := 0, cell := 0 : CellId }.cell = 15 ∨ (fX 8388608#26 == 1) = false ∧ { die := 0, clause := 0, cell := 0 : CellId }.cell = 0) ∧ (haloPeer? wCellPortsAndBankRequests_18 (clauseIx { die := 0, clause := 0, cell := 0 : CellId }.die { die := 0, clause := 0, cell := 0 : CellId }.clause) (fX 8388608#26 == 1) = none)) ∧
    ((fA 8388609#26 = 0) ∧ (fB 8388609#26 = 0) ∧ (fG 8388609#26 = 0) ∧ (fX 8388609#26 ≤ 1) ∧ (issues wCellPortsAndBankRequests_19 { die := 0, clause := 0, cell := 15 : CellId } 56 8388609#26 []) ∧ ((cellAt wCellPortsAndBankRequests_19 (cellIx { die := 0, clause := 0, cell := 15 : CellId })).cur = none) ∧ ({ die := 0, clause := 0, cell := 15 : CellId }.cell = 15) ∧ ((fX 8388609#26 == 1) = true) ∧ (haloPeer? wCellPortsAndBankRequests_19 (clauseIx { die := 0, clause := 0, cell := 15 : CellId }.die { die := 0, clause := 0, cell := 15 : CellId }.clause) true = some { die := 0, slot := 1, row := 0, pos := 1 : SlotCfg }) ∧ ((clauseAt wCellPortsAndBankRequests_19 (clauseIx { die := 0, clause := 0, cell := 15 : CellId }.die { die := 0, clause := 0, cell := 15 : CellId }.clause)).haloR = 9#128 :: wCellPortsAndBankRequests_20)) ∧
    ((fA 8388608#26 = 0) ∧ (fB 8388608#26 = 0) ∧ (fG 8388608#26 = 0) ∧ (fX 8388608#26 ≤ 1) ∧ (issues wCellPortsAndBankRequests_21 { die := 0, clause := 1, cell := 0 : CellId } 56 8388608#26 []) ∧ ((cellAt wCellPortsAndBankRequests_21 (cellIx { die := 0, clause := 1, cell := 0 : CellId })).cur = none) ∧ ({ die := 0, clause := 1, cell := 0 : CellId }.cell = 0) ∧ ((fX 8388608#26 == 1) = false) ∧ (haloPeer? wCellPortsAndBankRequests_21 (clauseIx { die := 0, clause := 1, cell := 0 : CellId }.die { die := 0, clause := 1, cell := 0 : CellId }.clause) false = some { die := 0, slot := 0, row := 0, pos := 0 : SlotCfg }) ∧ ((clauseAt wCellPortsAndBankRequests_21 (clauseIx { die := 0, clause := 1, cell := 0 : CellId }.die { die := 0, clause := 1, cell := 0 : CellId }.clause)).haloL = 9#128 :: wCellPortsAndBankRequests_22)) ∧
    ((fA 8388609#26 = 0) ∧ (fB 8388609#26 = 0) ∧ (fG 8388609#26 = 0) ∧ (fX 8388609#26 ≤ 1) ∧ (issues wCellPortsAndBankRequests_23 { die := 0, clause := 0, cell := 0 : CellId } 56 8388609#26 []) ∧ (noFlips wCellPortsAndBankRequests_23 ArrKind.cellData (cellIx { die := 0, clause := 0, cell := 0 : CellId })) ∧ (recvFrom? wCellPortsAndBankRequests_23 { die := 0, clause := 0, cell := 0 : CellId } (fX 8388609#26 == 1) = some (77#128, wCellPortsAndBankRequests_24)) ∧ ((cellAt wCellPortsAndBankRequests_23 (cellIx { die := 0, clause := 0, cell := 0 : CellId })).cur = some (gRv 1)) ∧ ((cellAt wCellPortsAndBankRequests_23 (cellIx { die := 0, clause := 0, cell := 0 : CellId })).frame = some fr0) ∧ ((gRv 1).rerun = false) ∧ ((gRv 1).recvs < fr0.logw / 2)) ∧
    ((fA 8388609#26 = 0) ∧ (fB 8388609#26 = 0) ∧ (fG 8388609#26 = 0) ∧ (issues wCellPortsAndBankRequests_27 { die := 0, clause := 0, cell := 14 : CellId } 56 8388609#26 []) ∧ (noFlips wCellPortsAndBankRequests_27 ArrKind.cellData (cellIx { die := 0, clause := 0, cell := 14 : CellId })) ∧ (fX 8388609#26 = 1) ∧ ({ die := 0, clause := 0, cell := 14 : CellId }.cell < 15) ∧ ((cellAt wCellPortsAndBankRequests_27 (cellIx { die := 0, clause := 0, cell := 14 : CellId })).portR = 77#128 :: wCellPortsAndBankRequests_28) ∧ ((cellAt wCellPortsAndBankRequests_27 (cellIx { die := 0, clause := 0, cell := 14 : CellId })).cur = none)) ∧
    ((fA 8388608#26 = 0) ∧ (fB 8388608#26 = 0) ∧ (fG 8388608#26 = 0) ∧ (issues wCellPortsAndBankRequests_29 { die := 0, clause := 0, cell := 1 : CellId } 56 8388608#26 []) ∧ (noFlips wCellPortsAndBankRequests_29 ArrKind.cellData (cellIx { die := 0, clause := 0, cell := 1 : CellId })) ∧ (fX 8388608#26 = 0) ∧ (0 < { die := 0, clause := 0, cell := 1 : CellId }.cell) ∧ ((cellAt wCellPortsAndBankRequests_29 (cellIx { die := 0, clause := 0, cell := 1 : CellId })).portL = 77#128 :: wCellPortsAndBankRequests_30) ∧ ((cellAt wCellPortsAndBankRequests_29 (cellIx { die := 0, clause := 0, cell := 1 : CellId })).cur = none)) ∧
    ((fA 8388609#26 = 0) ∧ (fB 8388609#26 = 0) ∧ (fG 8388609#26 = 0) ∧ (issues wCellPortsAndBankRequests_31 { die := 0, clause := 0, cell := 0 : CellId } 56 8388609#26 []) ∧ (noFlips wCellPortsAndBankRequests_31 ArrKind.cellData (cellIx { die := 0, clause := 0, cell := 0 : CellId })) ∧ (fX 8388609#26 = 1) ∧ ({ die := 0, clause := 0, cell := 0 : CellId }.cell < 15) ∧ ((cellAt wCellPortsAndBankRequests_31 (cellIx { die := 0, clause := 0, cell := 0 : CellId })).portR = 77#128 :: wCellPortsAndBankRequests_32) ∧ ((cellAt wCellPortsAndBankRequests_31 (cellIx { die := 0, clause := 0, cell := 0 : CellId })).cur = some (gRv 1)) ∧ ((cellAt wCellPortsAndBankRequests_31 (cellIx { die := 0, clause := 0, cell := 0 : CellId })).frame = some fr0) ∧ ((gRv 1).rerun = false) ∧ ((gRv 1).recvs < fr0.logw / 2)) ∧
    ((fA 8388609#26 = 0) ∧ (fB 8388609#26 = 0) ∧ (fG 8388609#26 = 0) ∧ (issues wCellPortsAndBankRequests_33 { die := 0, clause := 0, cell := 0 : CellId } 56 8388609#26 []) ∧ (noFlips wCellPortsAndBankRequests_33 ArrKind.cellData (cellIx { die := 0, clause := 0, cell := 0 : CellId })) ∧ (fX 8388609#26 ≤ 1) ∧ ((cellAt wCellPortsAndBankRequests_33 (cellIx { die := 0, clause := 0, cell := 0 : CellId })).cur = some gRe) ∧ ((cellAt wCellPortsAndBankRequests_33 (cellIx { die := 0, clause := 0, cell := 0 : CellId })).frame = some fr0) ∧ (gRe.rerun = true) ∧ (gRe.recvs < sget 0 (cellAt wCellPortsAndBankRequests_33 (cellIx { die := 0, clause := 0, cell := 0 : CellId })).logs gRe.q)) ∧
    ((fD 73855#26 = 0) ∧ (fG 73855#26 = 0) ∧ (fX 73855#26 < 128) ∧ (fA 73855#26 < 16) ∧ (fB 73855#26 < 16) ∧ (issues wCellPortsAndBankRequests_35 c0 57 73855#26 [fA 73855#26, fB 73855#26]) ∧ ((cellAt wCellPortsAndBankRequests_35 (cellIx c0)).destCheck (cellRlen wCellPortsAndBankRequests_35 c0) ((cellAt wCellPortsAndBankRequests_35 (cellIx c0)).rs (fB 73855#26)).toNat (8 * (fX 73855#26 + 1)) 8 = none) ∧ ((cellAt wCellPortsAndBankRequests_35 (cellIx c0)).seg.toNat * 524288 + 8 * ((cellAt wCellPortsAndBankRequests_35 (cellIx c0)).rs (fA 73855#26)).toNat + 8 * fX 73855#26 < 8126464) ∧ ((cellAt wCellPortsAndBankRequests_35 (cellIx c0)).banks.length < 8)) ∧
    ((fD 73855#26 = 0) ∧ (fG 73855#26 = 0) ∧ (fX 73855#26 < 128) ∧ (fA 73855#26 < 16) ∧ (fB 73855#26 < 16) ∧ (issues wCellPortsAndBankRequests_36 c0 57 73855#26 [fA 73855#26, fB 73855#26]) ∧ ((cellAt wCellPortsAndBankRequests_36 (cellIx c0)).destCheck (cellRlen wCellPortsAndBankRequests_36 c0) ((cellAt wCellPortsAndBankRequests_36 (cellIx c0)).rs (fB 73855#26)).toNat (8 * (fX 73855#26 + 1)) 8 = none) ∧ ((cellAt wCellPortsAndBankRequests_36 (cellIx c0)).seg.toNat * 524288 + 8 * ((cellAt wCellPortsAndBankRequests_36 (cellIx c0)).rs (fA 73855#26)).toNat + 8 * fX 73855#26 < 8126464) ∧ (8 ≤ (cellAt wCellPortsAndBankRequests_36 (cellIx c0)).banks.length)) ∧
    ((fD 73855#26 = 0) ∧ (fG 73855#26 = 0) ∧ (fX 73855#26 < 128) ∧ (fA 73855#26 < 16) ∧ (fB 73855#26 < 16) ∧ (issues wCellPortsAndBankRequests_37 c0 57 73855#26 [fA 73855#26, fB 73855#26]) ∧ ((cellAt wCellPortsAndBankRequests_37 (cellIx c0)).destCheck (cellRlen wCellPortsAndBankRequests_37 c0) ((cellAt wCellPortsAndBankRequests_37 (cellIx c0)).rs (fB 73855#26)).toNat (8 * (fX 73855#26 + 1)) 8 = some 4) ∧ (4 ≤ 7)) ∧
    ((fD 73855#26 = 0) ∧ (fG 73855#26 = 0) ∧ (fX 73855#26 < 128) ∧ (fA 73855#26 < 16) ∧ (fB 73855#26 < 16) ∧ (issues wCellPortsAndBankRequests_38 c0 57 73855#26 [fA 73855#26, fB 73855#26]) ∧ ((cellAt wCellPortsAndBankRequests_38 (cellIx c0)).destCheck (cellRlen wCellPortsAndBankRequests_38 c0) ((cellAt wCellPortsAndBankRequests_38 (cellIx c0)).rs (fB 73855#26)).toNat (8 * (fX 73855#26 + 1)) 8 = none) ∧ (¬(cellAt wCellPortsAndBankRequests_38 (cellIx c0)).seg.toNat * 524288 + 8 * ((cellAt wCellPortsAndBankRequests_38 (cellIx c0)).rs (fA 73855#26)).toNat + 8 * fX 73855#26 < 8126464)) ∧
    ((fG 8458240#26 = 0) ∧ (fX 8458240#26 = 0) ∧ (fD 8458240#26 < 16) ∧ (fB 8458240#26 < 16) ∧ (issues wCellPortsAndBankRequests_40 c0 58 8458240#26 [fD 8458240#26, fB 8458240#26]) ∧ ((cellAt wCellPortsAndBankRequests_40 (cellIx c0)).destCheck (cellRlen wCellPortsAndBankRequests_40 c0) ((cellAt wCellPortsAndBankRequests_40 (cellIx c0)).rs (fD 8458240#26)).toNat 16 16 = none) ∧ (∀ (l : Nat), l < 8 → (fun (l : Nat) => (cellAt wCellPortsAndBankRequests_40 (cellIx c0)).seg.toNat * 524288 + (8 * ((cellAt wCellPortsAndBankRequests_40 (cellIx c0)).rs (fB 8458240#26)).toNat + 2 * (lane ((cellAt wCellPortsAndBankRequests_40 (cellIx c0)).rv (fA 8458240#26)) l).toNat)) l < 8126464) ∧ ((cellAt wCellPortsAndBankRequests_40 (cellIx c0)).banks.length < 8)) ∧
    ((fG 8458240#26 = 0) ∧ (fX 8458240#26 = 0) ∧ (fD 8458240#26 < 16) ∧ (fB 8458240#26 < 16) ∧ (issues wCellPortsAndBankRequests_41 c0 58 8458240#26 [fD 8458240#26, fB 8458240#26]) ∧ ((cellAt wCellPortsAndBankRequests_41 (cellIx c0)).destCheck (cellRlen wCellPortsAndBankRequests_41 c0) ((cellAt wCellPortsAndBankRequests_41 (cellIx c0)).rs (fD 8458240#26)).toNat 16 16 = none) ∧ (∀ (l : Nat), l < 8 → (fun (l : Nat) => (cellAt wCellPortsAndBankRequests_41 (cellIx c0)).seg.toNat * 524288 + (8 * ((cellAt wCellPortsAndBankRequests_41 (cellIx c0)).rs (fB 8458240#26)).toNat + 2 * (lane ((cellAt wCellPortsAndBankRequests_41 (cellIx c0)).rv (fA 8458240#26)) l).toNat)) l < 8126464) ∧ (8 ≤ (cellAt wCellPortsAndBankRequests_41 (cellIx c0)).banks.length)) ∧
    ((fG 8458240#26 = 0) ∧ (fX 8458240#26 = 0) ∧ (fD 8458240#26 < 16) ∧ (fB 8458240#26 < 16) ∧ (issues wCellPortsAndBankRequests_42 c0 58 8458240#26 [fD 8458240#26, fB 8458240#26]) ∧ ((cellAt wCellPortsAndBankRequests_42 (cellIx c0)).destCheck (cellRlen wCellPortsAndBankRequests_42 c0) ((cellAt wCellPortsAndBankRequests_42 (cellIx c0)).rs (fD 8458240#26)).toNat 16 16 = some 4) ∧ (4 ≤ 7)) ∧
    ((fG 8458240#26 = 0) ∧ (fX 8458240#26 = 0) ∧ (fD 8458240#26 < 16) ∧ (fB 8458240#26 < 16) ∧ (issues wCellPortsAndBankRequests_43 c0 58 8458240#26 [fD 8458240#26, fB 8458240#26]) ∧ (7 < 8) ∧ ((cellAt wCellPortsAndBankRequests_43 (cellIx c0)).destCheck (cellRlen wCellPortsAndBankRequests_43 c0) ((cellAt wCellPortsAndBankRequests_43 (cellIx c0)).rs (fD 8458240#26)).toNat 16 16 = none) ∧ (8126464 ≤ (fun (l : Nat) => (cellAt wCellPortsAndBankRequests_43 (cellIx c0)).seg.toNat * 524288 + (8 * ((cellAt wCellPortsAndBankRequests_43 (cellIx c0)).rs (fB 8458240#26)).toNat + 2 * (lane ((cellAt wCellPortsAndBankRequests_43 (cellIx c0)).rv (fA 8458240#26)) l).toNat)) 7)) ∧
    ((fG 31526919#26 = 0) ∧ (fX 31526919#26 ≤ 7) ∧ (fD 31526919#26 < 16) ∧ (fA 31526919#26 < 16) ∧ (fB 31526919#26 < 16) ∧ (issues (wCellS (3990949895#32) wCell) c0 59 31526919#26 [fA 31526919#26, fB 31526919#26]) ∧ ((cellAt (wCellS (3990949895#32) wCell) (cellIx c0)).seg.toNat * 524288 + (8 * ((cellAt (wCellS (3990949895#32) wCell) (cellIx c0)).rs (fA 31526919#26)).toNat + 2 * (fX 31526919#26 % 4)) < 8126464) ∧ ((cellAt (wCellS (3990949895#32) wCell) (cellIx c0)).banks.length < 8)) ∧
    ((fG 31526919#26 = 0) ∧ (fX 31526919#26 ≤ 7) ∧ (fD 31526919#26 < 16) ∧ (fA 31526919#26 < 16) ∧ (fB 31526919#26 < 16) ∧ (issues wCellPortsAndBankRequests_44 c0 59 31526919#26 [fA 31526919#26, fB 31526919#26]) ∧ ((cellAt wCellPortsAndBankRequests_44 (cellIx c0)).seg.toNat * 524288 + (8 * ((cellAt wCellPortsAndBankRequests_44 (cellIx c0)).rs (fA 31526919#26)).toNat + 2 * (fX 31526919#26 % 4)) < 8126464) ∧ (8 ≤ (cellAt wCellPortsAndBankRequests_44 (cellIx c0)).banks.length)) ∧
    ((fG 31526919#26 = 0) ∧ (fX 31526919#26 ≤ 7) ∧ (fD 31526919#26 < 16) ∧ (fA 31526919#26 < 16) ∧ (fB 31526919#26 < 16) ∧ (issues wCellPortsAndBankRequests_45 c0 59 31526919#26 [fA 31526919#26, fB 31526919#26]) ∧ (8126464 ≤ (cellAt wCellPortsAndBankRequests_45 (cellIx c0)).seg.toNat * 524288 + (8 * ((cellAt wCellPortsAndBankRequests_45 (cellIx c0)).rs (fA 31526919#26)).toNat + 2 * (fX 31526919#26 % 4)))) := by
  refine ⟨?_, ?_, ?_, ?_, ?_, ?_, ?_, ?_, ?_, ?_, ?_, ?_, ?_, ?_, ?_, ?_, ?_, ?_, ?_, ?_, ?_, ?_, ?_, ?_, ?_, ?_, ?_, ?_, ?_, ?_, ?_, ?_, ?_, ?_, ?_, ?_, ?_, ?_, ?_, ?_⟩
  · decide +kernel
  · decide +kernel
  · decide +kernel
  · decide +kernel
  · decide +kernel
  · decide +kernel
  · decide +kernel
  · decide +kernel
  · decide +kernel
  · decide +kernel
  · decide +kernel
  · decide +kernel
  · decide +kernel
  · decide +kernel
  · decide +kernel
  · decide +kernel
  · decide +kernel
  · exact ⟨by decide +kernel, by decide +kernel, by decide +kernel, by decide +kernel, by decide +kernel, by decide +kernel, (fun _ _ h => by cases h), by decide +kernel⟩
  · decide +kernel
  · decide +kernel
  · decide +kernel
  · decide +kernel
  · decide +kernel
  · decide +kernel
  · decide +kernel
  · decide +kernel
  · decide +kernel
  · decide +kernel
  · decide +kernel
  · decide +kernel
  · decide +kernel
  · decide +kernel
  · decide +kernel
  · decide +kernel
  · decide +kernel
  · decide +kernel
  · decide +kernel
  · decide +kernel
  · decide +kernel
  · decide +kernel

theorem witness_LinesReachTheCells :
    (((clauseAt ad (clauseIx 0 0)).st = ClauseState.serving) ∧ ((clauseAt ad (clauseIx 0 0)).endLine = none) ∧ (mayAdmit ad (clauseIx 0 0) = true) ∧ (((clauseSlot? ad (clauseIx 0 0)).bind fun (g : SlotCfg) => placeRowLine ad g.row (clauseAt ad (clauseIx 0 0)).nextLine) = some p0) ∧ (admitCause ad (clauseIx 0 0) (clauseAt ad (clauseIx 0 0)).nextLine p0 false = 0)) ∧
    (((clauseAt adEmpty (clauseIx 0 0)).st = ClauseState.serving) ∧ ((clauseAt adEmpty (clauseIx 0 0)).endLine = none) ∧ (mayAdmit adEmpty (clauseIx 0 0) = true) ∧ (rowDiffusion (clauseRow adEmpty (clauseIx 0 0)) = false) ∧ (∀ (n : Nat), (clauseAt adEmpty (clauseIx 0 0)).lineOf? n ≠ none → n < (clauseAt adEmpty (clauseIx 0 0)).nextLine) ∧ (∃ (g : SlotCfg), clauseSlot? adEmpty (clauseIx 0 0) = some g ∧ placeRowLine adEmpty g.row (clauseAt adEmpty (clauseIx 0 0)).nextLine = none)) ∧
    (((clauseAt adLate (clauseIx 0 0)).st = ClauseState.serving) ∧ ((clauseAt adLate (clauseIx 0 0)).endLine = none) ∧ (mayAdmit adLate (clauseIx 0 0) = true) ∧ (∀ (n : Nat), (clauseAt adLate (clauseIx 0 0)).lineOf? n ≠ none → n < (clauseAt adLate (clauseIx 0 0)).nextLine) ∧ (((clauseSlot? adLate (clauseIx 0 0)).bind fun (g : SlotCfg) => placeRowLine adLate g.row (clauseAt adLate (clauseIx 0 0)).nextLine) = some p0) ∧ (admitCause adLate (clauseIx 0 0) (clauseAt adLate (clauseIx 0 0)).nextLine p0 false ≠ 0)) ∧
    (((clauseAt wUp (clauseIx 7 65)).st ≠ ClauseState.serving ∧ (clauseAt wUp (clauseIx 7 65)).st ≠ ClauseState.fencing ∨ mayAdmit wUp (clauseIx 7 65) = false)) ∧
    (((cellAt wLinesReachTheCells_46 (cellIx c0)).st = CellState.wait) ∧ ((cellAt wLinesReachTheCells_46 (cellIx c0)).frame = some fr0) ∧ (List.find? (fun (l : CLine) => l.rerun && l.rerunDue.getLsbD c0.cell) (clauseAt wLinesReachTheCells_46 (clauseIx c0.die c0.clause)).lines = none) ∧ ((clauseAt wLinesReachTheCells_46 (clauseIx c0.die c0.clause)).lineQ? (cellAt wLinesReachTheCells_46 (cellIx c0)).nextQ = some lf) ∧ ((clauseAt wLinesReachTheCells_46 (clauseIx c0.die c0.clause)).lineOf? lf.line = some lf) ∧ (lf.at_ = some p0) ∧ (lf.begun.getLsbD c0.cell = false) ∧ (rowDiffusion (clauseRow wLinesReachTheCells_46 (clauseIx c0.die c0.clause)) = false) ∧ ((clauseRow wLinesReachTheCells_46 (clauseIx c0.die c0.clause)).overlay = false) ∧ (recordReady wLinesReachTheCells_46 (clauseIx c0.die c0.clause) c0.cell lf p0 = true)) ∧
    (((cellAt wLinesReachTheCells_47 (cellIx c0)).st = CellState.wait) ∧ ((cellAt wLinesReachTheCells_47 (cellIx c0)).frame = some fr0) ∧ (List.find? (fun (l : CLine) => l.rerun && l.rerunDue.getLsbD c0.cell) (clauseAt wLinesReachTheCells_47 (clauseIx c0.die c0.clause)).lines = some lr) ∧ ((clauseAt wLinesReachTheCells_47 (clauseIx c0.die c0.clause)).lineOf? lr.line = some lr) ∧ (lr.at_ = some p0) ∧ ((clauseAt wLinesReachTheCells_47 (clauseIx c0.die c0.clause)).dec0.reexpand = none) ∧ ((clauseAt wLinesReachTheCells_47 (clauseIx c0.die c0.clause)).dec1.reexpand = none) ∧ ((clauseRow wLinesReachTheCells_47 (clauseIx c0.die c0.clause)).overlay = false)) ∧
    (((cellAt wLinesReachTheCells_48 (cellIx c0)).st = CellState.wait) ∧ ((cellAt wLinesReachTheCells_48 (cellIx c0)).frame = some fr0) ∧ (List.find? (fun (l : CLine) => l.rerun && l.rerunDue.getLsbD c0.cell) (clauseAt wLinesReachTheCells_48 (clauseIx c0.die c0.clause)).lines = none) ∧ ((clauseAt wLinesReachTheCells_48 (clauseIx c0.die c0.clause)).lineQ? (cellAt wLinesReachTheCells_48 (cellIx c0)).nextQ = some lf) ∧ (lf.at_ = some p0) ∧ (lf.begun.getLsbD c0.cell = false) ∧ (rowDiffusion (clauseRow wLinesReachTheCells_48 (clauseIx c0.die c0.clause)) = false) ∧ ((clauseRow wLinesReachTheCells_48 (clauseIx c0.die c0.clause)).overlay = true) ∧ ((clauseAt wLinesReachTheCells_48 (clauseIx c0.die c0.clause)).hasOvl p0.absBand = false) ∧ (recordReady wLinesReachTheCells_48 (clauseIx c0.die c0.clause) c0.cell lf p0 = true)) ∧
    (((cellAt wUp (cellIx { die := 7, clause := 65, cell := 15 : CellId })).st ≠ CellState.wait ∨ (cellAt wUp (cellIx { die := 7, clause := 65, cell := 15 : CellId })).frame = none ∨ List.find? (fun (l : CLine) => l.rerun && l.rerunDue.getLsbD { die := 7, clause := 65, cell := 15 : CellId }.cell) (clauseAt wUp (clauseIx { die := 7, clause := 65, cell := 15 : CellId }.die { die := 7, clause := 65, cell := 15 : CellId }.clause)).lines = none ∧ (clauseAt wUp (clauseIx { die := 7, clause := 65, cell := 15 : CellId }.die { die := 7, clause := 65, cell := 15 : CellId }.clause)).lineQ? (cellAt wUp (cellIx { die := 7, clause := 65, cell := 15 : CellId })).nextQ = none ∨ ∃ (l : CLine), ∃ (p : PLine), List.find? (fun (l : CLine) => l.rerun && l.rerunDue.getLsbD { die := 7, clause := 65, cell := 15 : CellId }.cell) (clauseAt wUp (clauseIx { die := 7, clause := 65, cell := 15 : CellId }.die { die := 7, clause := 65, cell := 15 : CellId }.clause)).lines = none ∧ (clauseAt wUp (clauseIx { die := 7, clause := 65, cell := 15 : CellId }.die { die := 7, clause := 65, cell := 15 : CellId }.clause)).lineQ? (cellAt wUp (cellIx { die := 7, clause := 65, cell := 15 : CellId })).nextQ = some l ∧ l.at_ = some p ∧ (recordReady wUp (clauseIx { die := 7, clause := 65, cell := 15 : CellId }.die { die := 7, clause := 65, cell := 15 : CellId }.clause) { die := 7, clause := 65, cell := 15 : CellId }.cell l p = false ∨ rowDiffusion (clauseRow wUp (clauseIx { die := 7, clause := 65, cell := 15 : CellId }.die { die := 7, clause := 65, cell := 15 : CellId }.clause)) = true ∧ 0 < { die := 7, clause := 65, cell := 15 : CellId }.cell ∧ (cellAt wUp (cellIx { die := 7, clause := 65, cell := 15 : CellId } - 1)).nextQ ≤ l.q))) ∧
    (((clauseAt wLinesReachTheCells_49 (clauseIx 0 0)).winDirty = true) ∧ ((clauseAt wLinesReachTheCells_49 (clauseIx 0 0)).powered = true) ∧ ((windowUsed wLinesReachTheCells_49 (clauseIx 0 0) !(clauseAt wLinesReachTheCells_49 (clauseIx 0 0)).win) = false)) ∧
    (((clauseAt wUp (clauseIx 7 65)).winDirty = false ∨ (clauseAt wUp (clauseIx 7 65)).powered = false ∨ (windowUsed wUp (clauseIx 7 65) !(clauseAt wUp (clauseIx 7 65)).win) = true)) ∧
    (((cellAt wLinesReachTheCells_50 (cellIx c0)).stall = some (Stall.banks 0)) ∧ (stallOver wLinesReachTheCells_50 c0 (cellAt wLinesReachTheCells_50 (cellIx c0)) (Stall.banks 0) = true)) ∧
    (((cellAt wUp (cellIx c0)).stall = none ∨ ∃ (st : Stall), (cellAt wUp (cellIx c0)).stall = some st ∧ stallOver wUp c0 (cellAt wUp (cellIx c0)) st = false)) ∧
    (((cellAt wLinesReachTheCells_51 (cellIx c0)).banks = [BankReq.get 4096 2 512]) ∧ (4096 + 8 * 2 ≤ 7340032) ∧ (noFlips wLinesReachTheCells_51 ArrKind.bank c0.die)) ∧
    (((cellAt wLinesReachTheCells_52 (cellIx c0)).banks = [BankReq.gather (List.replicate 8 7340030) 512]) ∧ ((List.replicate 8 7340030).length = 8) ∧ (∀ (a : Nat), a ∈ List.replicate 8 7340030 → a + 2 ≤ 7340032) ∧ (noFlips wLinesReachTheCells_52 ArrKind.bank c0.die)) ∧
    (((cellAt wLinesReachTheCells_53 (cellIx c0)).banks = [BankReq.atomic 4096 false (3#16) 15 7#10]) ∧ (4096 + 2 ≤ 7340032) ∧ (4096 % 2 = 0) ∧ (poisoned wLinesReachTheCells_53 ArrKind.bank c0.die (4096 / 8) = false) ∧ ((cellAt wLinesReachTheCells_53 (cellIx c0)).st ≠ CellState.restart) ∧ (noFlips wLinesReachTheCells_53 ArrKind.bank c0.die)) ∧
    (((cellAt wLinesReachTheCells_54 (cellIx c0)).banks = [BankReq.atomic 4096 true (3#16) 15 7#10]) ∧ (4096 + 2 ≤ 7340032) ∧ (4096 % 2 = 0) ∧ (noFlips wLinesReachTheCells_54 ArrKind.bank c0.die) ∧ ((cellAt wLinesReachTheCells_54 (cellIx c0)).st = CellState.restart ∨ poisoned wLinesReachTheCells_54 ArrKind.bank c0.die (4096 / 8) = true) ∧ ((clauseAt wLinesReachTheCells_54 (clauseIx c0.die c0.clause)).st ≠ ClauseState.spare)) ∧
    (((cellAt wLinesReachTheCells_55 (cellIx c0)).banks = [BankReq.atomic 4096 false (3#16) 15 7#10]) ∧ (4096 + 2 ≤ 7340032) ∧ (4096 % 2 = 0) ∧ (noFlips wLinesReachTheCells_55 ArrKind.bank c0.die) ∧ ((cellAt wLinesReachTheCells_55 (cellIx c0)).st = CellState.restart ∨ poisoned wLinesReachTheCells_55 ArrKind.bank c0.die (4096 / 8) = true) ∧ ((clauseAt wLinesReachTheCells_55 (clauseIx c0.die c0.clause)).st ≠ ClauseState.spare)) ∧
    (((cellAt wUp (cellIx c0)).banks = []) ∧ (∀ (e : CellId), e ∈ wLinesReachTheCells_56 → (cellAt wUp (cellIx e)).banks = []) ∧ (([] : List Nat) = [])) ∧
    (({ die := 0, clause := 0, cell := 1 : CellId }.die = c0.die) ∧ (cellIx c0 < cellIx { die := 0, clause := 0, cell := 1 : CellId }) ∧ ((cellAt wLinesReachTheCells_57 (cellIx c0)).banks = [BankReq.atomic 4096 false (3#16) 15 7#10]) ∧ ((cellAt wLinesReachTheCells_57 (cellIx { die := 0, clause := 0, cell := 1 : CellId })).banks = [BankReq.atomic 4096 true (9#16) 15 7#10]) ∧ (4096 + 2 ≤ 7340032) ∧ (4096 % 2 = 0) ∧ (poisoned wLinesReachTheCells_57 ArrKind.bank c0.die (4096 / 8) = false) ∧ ((cellAt wLinesReachTheCells_57 (cellIx c0)).st = CellState.run) ∧ ((cellAt wLinesReachTheCells_57 (cellIx { die := 0, clause := 0, cell := 1 : CellId })).st = CellState.run) ∧ (noFlips wLinesReachTheCells_57 ArrKind.bank c0.die) ∧ (wLinesReachTheCells_58 = Instr.bankRequestComplete c0 [{ die := 0, clause := 0, cell := 1 : CellId }] [SysAccess.atomic 4096 false 1#16] ∨ wLinesReachTheCells_58 = Instr.bankRequestComplete { die := 0, clause := 0, cell := 1 : CellId } [c0] [SysAccess.atomic 4096 false 1#16])) ∧
    (({ die := 0, clause := 0, cell := 1 : CellId }.die = c0.die) ∧ (cellIx c0 < cellIx { die := 0, clause := 0, cell := 1 : CellId }) ∧ ((cellAt wLinesReachTheCells_59 (cellIx c0)).banks = [BankReq.atomic 4096 false (3#16) 15 7#10]) ∧ ((cellAt wLinesReachTheCells_59 (cellIx { die := 0, clause := 0, cell := 1 : CellId })).banks = [BankReq.atomic 4096 true (9#16) 15 7#10]) ∧ (4096 + 2 ≤ 7340032) ∧ (4096 % 2 = 0) ∧ (poisoned wLinesReachTheCells_59 ArrKind.bank c0.die (4096 / 8) = false) ∧ ((cellAt wLinesReachTheCells_59 (cellIx c0)).st = CellState.run) ∧ ((cellAt wLinesReachTheCells_59 (cellIx { die := 0, clause := 0, cell := 1 : CellId })).st = CellState.run) ∧ (noFlips wLinesReachTheCells_59 ArrKind.bank c0.die) ∧ (wLinesReachTheCells_60 = Instr.bankRequestComplete c0 [{ die := 0, clause := 0, cell := 1 : CellId }] [SysAccess.atomic 4096 false 1#16] ∨ wLinesReachTheCells_60 = Instr.bankRequestComplete { die := 0, clause := 0, cell := 1 : CellId } [c0] [SysAccess.atomic 4096 false 1#16])) ∧
    (((cellAt wUp (cellIx c0)).banks = []) ∧ (7340031 < 7340032) ∧ (noFlips wUp ArrKind.bank c0.die)) ∧
    (((cellAt wLinesReachTheCells_61 (cellIx c0)).st = CellState.restart) ∧ ((cellAt wLinesReachTheCells_61 (cellIx c0)).banks = []) ∧ ((cellAt wLinesReachTheCells_61 (cellIx c0)).reload = none)) ∧
    (((cellAt wUp (cellIx c0)).st ≠ CellState.restart ∨ (cellAt wUp (cellIx c0)).banks ≠ [] ∨ (cellAt wUp (cellIx c0)).reload ≠ none)) ∧
    (((cellAt (rlS false) (cellIx c0)).reload = some false) ∧ (noFlips (rlS false) ArrKind.bank c0.die) ∧ (c0.clause < 66) ∧ (c0.cell < 16) ∧ (imageCopy? (rlS false) (clauseIx c0.die c0.clause) c0.cell = some (imC.fst, imC.snd))) ∧
    (((cellAt (rlS true) (cellIx c0)).reload = some true) ∧ (noFlips (rlS true) ArrKind.bank c0.die) ∧ (c0.clause < 66) ∧ (c0.cell < 16) ∧ (imageCopy? (rlS true) (clauseIx c0.die c0.clause) c0.cell = some (imC.fst, imC.snd)) ∧ (imC.snd.dataAddr + imC.snd.data.length ≤ 16384)) ∧
    (((cellAt wUp (cellIx c0)).reload = none)) ∧
    (((cellAt wLinesReachTheCells_63 (cellIx c0)).cur = some (gL false)) ∧ ((cellAt wLinesReachTheCells_63 (cellIx c0)).st = CellState.run) ∧ (512 * (clauseRow wLinesReachTheCells_63 (clauseIx c0.die c0.clause)).p ≤   (gL false).cycles +     match (cellAt wLinesReachTheCells_63 (cellIx c0)).stall with     | none => 0     | some (Stall.recv right) => 0     | some val => 0) ∧ ((clauseAt wLinesReachTheCells_63 (clauseIx c0.die c0.clause)).st ≠ ClauseState.spare)) ∧
    (((cellAt cs1 (cellIx c0)).cur = some g0) ∧ ((cellAt cs1 (cellIx c0)).st = CellState.run) ∧ ((g0.cycles +     match (cellAt cs1 (cellIx c0)).stall with     | none => 0     | some (Stall.recv right) => 0     | some val => 9) <   512 * (clauseRow cs1 (clauseIx c0.die c0.clause)).p)) ∧
    (((cellAt wUp (cellIx c0)).cur = none ∨ (cellAt wUp (cellIx c0)).st ≠ CellState.run)) ∧
    (((cellAt wLinesReachTheCells_64 (cellIx c0)).cur = some (gL false)) ∧ ((cellAt wLinesReachTheCells_64 (cellIx c0)).st = CellState.run) ∧ ((gL false).rerun = false) ∧ ((cellAt wLinesReachTheCells_64 (cellIx c0)).stall = none) ∧ (512 * (clauseRow wLinesReachTheCells_64 (clauseIx c0.die c0.clause)).p ≤ (gL false).cycles) ∧ ((clauseAt wLinesReachTheCells_64 (clauseIx c0.die c0.clause)).st = ClauseState.serving) ∧ ((clauseAt wLinesReachTheCells_64 (clauseIx c0.die c0.clause)).lineOf? (gL false).line = some lf) ∧ (((clauseAt wLinesReachTheCells_64 (clauseIx c0.die c0.clause)).lines.all fun (q : CLine) => q.line != (gL false).line || q == lf) = true) ∧ (lf.at_ = some p0) ∧ (lf.settled = false) ∧ (lf.rerun = false) ∧ (lf.rerunWait = false) ∧ ((clauseAt wLinesReachTheCells_64 (clauseIx c0.die c0.clause)).rerunning = false) ∧ ((clauseAt wLinesReachTheCells_64 (clauseIx c0.die c0.clause)).bandLost p0.absBand = false)) ∧
    (((cellAt wLinesReachTheCells_65 (cellIx c0)).cur = some (gL true)) ∧ ((cellAt wLinesReachTheCells_65 (cellIx c0)).st = CellState.run) ∧ ((gL true).rerun = true) ∧ ((cellAt wLinesReachTheCells_65 (cellIx c0)).stall = none) ∧ (512 * (clauseRow wLinesReachTheCells_65 (clauseIx c0.die c0.clause)).p ≤ (gL true).cycles) ∧ ((clauseAt wLinesReachTheCells_65 (clauseIx c0.die c0.clause)).st = ClauseState.serving) ∧ ((clauseAt wLinesReachTheCells_65 (clauseIx c0.die c0.clause)).lineOf? (gL true).line = some lt) ∧ (lt.at_ = some p0) ∧ (lt.settled = false) ∧ (lt.rerun = true) ∧ (lt.rerunWait = false) ∧ (lt.trap1 = some (c0.cell, 12, (cellAt wLinesReachTheCells_65 (cellIx c0)).pc.toNat))) ∧
    (((cellAt wLinesReachTheCells_66 (cellIx c0)).cur = some (gL false)) ∧ ((cellAt wLinesReachTheCells_66 (cellIx c0)).st = CellState.run) ∧ ((cellAt wLinesReachTheCells_66 (cellIx c0)).stall = none) ∧ (512 * (clauseRow wLinesReachTheCells_66 (clauseIx c0.die c0.clause)).p ≤ (gL false).cycles) ∧ ((clauseAt wLinesReachTheCells_66 (clauseIx c0.die c0.clause)).st = ClauseState.fencing) ∧ ((clauseAt wLinesReachTheCells_66 (clauseIx c0.die c0.clause)).lineOf? (gL false).line = some lf) ∧ (lf.settled = false)) ∧
    (((cellAt wLinesReachTheCells_67 (cellIx c0)).cur = none) ∧ (c0.cell < 16) ∧ (c0.clause < 66) ∧ ((clauseAt wLinesReachTheCells_67 (clauseIx c0.die c0.clause)).st = ClauseState.spare) ∧ ((clauseAt wLinesReachTheCells_67 (clauseIx c0.die c0.clause)).spareFor ≠ none) ∧ (fD 255#26 = 0) ∧ (fA 255#26 = 0) ∧ (fB 255#26 = 0) ∧ (fG 255#26 = 0) ∧ (issues wLinesReachTheCells_67 c0 12 255#26 [])) ∧
    (((cellAt wLinesReachTheCells_68 (cellIx c0)).overLen = 999 :: wLinesReachTheCells_69)) ∧
    (((cellAt wUp (cellIx c0)).overLen = [])) := by
  refine ⟨?_, ?_, ?_, ?_, ?_, ?_, ?_, ?_, ?_, ?_, ?_, ?_, ?_, ?_, ?_, ?_, ?_, ?_, ?_, ?_, ?_, ?_, ?_, ?_, ?_, ?_, ?_, ?_, ?_, ?_, ?_, ?_, ?_, ?_, ?_⟩
  · decide +kernel
  · exact ⟨by decide +kernel, by decide +kernel, by decide +kernel, by decide +kernel, fun n h => absurd rfl h, ⟨_, rfl, by decide +kernel⟩⟩
  · exact ⟨by decide +kernel, by decide +kernel, by decide +kernel, fun n h => absurd rfl h, by decide +kernel, by decide +kernel⟩
  · decide +kernel
  · decide +kernel
  · decide +kernel
  · decide +kernel
  · exact Or.inl (by decide +kernel)
  · decide +kernel
  · decide +kernel
  · decide +kernel
  · decide +kernel
  · decide +kernel
  · decide +kernel
  · decide +kernel
  · decide +kernel
  · decide +kernel
  · decide +kernel
  · decide +kernel
  · decide +kernel
  · decide +kernel
  · decide +kernel
  · decide +kernel
  · decide +kernel
  · decide +kernel
  · decide +kernel
  · decide +kernel
  · decide +kernel
  · decide +kernel
  · decide +kernel
  · decide +kernel
  · decide +kernel
  · decide +kernel
  · decide +kernel
  · decide +kernel

end W13

namespace W14

def fr1 : BitVec 56 := syncCells 1
def fo : State := { wUp with sync := { mode := 2 } }
def e3 (x : Encoder) : State := { wUp with encs := [(3, x)] }
def jA (i : Bool) : Job := { wJob with st := .armed, startIndex := i }
def stA (i : Bool) : State := { wUp with job := some (jA i), params := [wTiming], encs := [(0, { count := 55, total := 55, stamps := List.replicate 17 900, last := some ⟨900, 55, true, 64⟩ })] }
def jR : Job := { wJob with encs := [3], c0 := [(3, 1)] }
def tm3 : ParamRec := { wTiming with payload := wTiming.payload.set 8 3 }
def acts3 (x : CountRec) : State := { wUp with job := some jR, params := [tm3], encs := [(3, { acts := [x] })], rows := [(0, { st := .run, line := 2 })] }
def rw0 (w : Row) : State := { wPage with job := some wJob, params := [wTiming, wLinkRec, wNoz], rows := [(0, w)], heads := [(0, hc0)], links := [(0, { st := .active })] }
def rR (l : Nat) : Row := { st := .run, line := l, pred := some 70000 }
def wDma : Grammar := { wGram false with dma := [{ die := 0, ch := 31, use := 1, prio := 3, pz4 := false, arg := 0 }] }
def hd3 : HeadLine := { line := 3, total := 5, codes := [1, 0, 3, 4, 5], done := true, sent := [0], acked := [0] }
def gs : State := { rw0 { st := .run } with gram := wDma, dma := [(31, { use := 1, prio := 3, arg := 0 })], clauses := [(0, { st := .serving, powered := true, lines := [{ line := 3, at_ := some ⟨0, 5, 1, 0, 3⟩, q := 3, st := .ready, codes := [(0, 0x7654)] }] })] }
def gsP : State := { gs with clauses := [(0, { st := .serving, powered := true, lines := [{ line := 3, at_ := some ⟨0, 5, 1, 0, 3⟩, q := 3, st := .ready, codes := [(0, 0x7654)], poison := [0] }] })] }
def hl0 : HeadLine := { line := 3, total := 5 }
def hlF : HeadLine := { hl0 with codes := [1, 2, 3, 4, 5] }
def cd : Nat → BitVec 4 := fun i => [4, 5, 6, 7, 0].getD i 0
def wTimebaseAndEncoders_0 : State := { wUp with sync := { mode := 1 } }
def wTimebaseAndEncoders_1 : State := { fo with job := some wJob }
def wTimebaseAndEncoders_2 : State := { fo with job := some wJob }
def wTimebaseAndEncoders_3 : State := { wUp with sync := { mode := 2, agreed := 1 } }
def wTimebaseAndEncoders_4 : State := { wUp with sync := { mode := 2, lock := true } }
def wTimebaseAndEncoders_5 : State := { wUp with sync := { mode := 2, repeat_ := true } }
def wTimebaseAndEncoders_6 : State := { wUp with sync := { mode := 2, lock := true, agreed := 3, lastFrame := 500 } }
def wTimebaseAndEncoders_7 : State := e3 { stamps := [900], fwd := false }
def wTimebaseAndEncoders_8 : State := e3 { stamps := List.replicate 16 900, invert := true, fwd := false, a := true, filt := 3 }
def wTimebaseAndEncoders_9 : State := e3 { stamps := [900], filt := 2, candA := some 1198 }
def wTimebaseAndEncoders_10 : State := e3 { filt := 3, candB := some 1190 }
def wTimebaseAndEncoders_11 : State := e3 { stamps := [900] }
def wTimebaseAndEncoders_12 : State := e3 { stamps := [900], filt := 3, candA := some 1199 }
def wTimebaseAndEncoders_13 : State := e3 { count := 100, idx := 0, idxSeen := true, cpr := 99 }
def wTimebaseAndEncoders_14 : State := e3 { count := 0, idx := 99, idxSeen := true, cpr := 99 }
def wTimebaseAndEncoders_15 : State := e3 { filt := 3 }
def wTimebaseAndEncoders_16 : State := e3 { stamps := [900] }
def wTimebaseAndEncoders_17 : State := acts3 ⟨900, 5, true, 64⟩
def wTimebaseAndEncoders_18 : CountRec := ⟨900, 5, true, 64⟩
def wTimebaseAndEncoders_19 : State := acts3 ⟨900, 2, true, 64⟩
def wTimebaseAndEncoders_20 : CountRec := ⟨900, 2, true, 64⟩
def wLinesCommitGatherAndFire_21 : State := rw0 { rR 2 with lastFire := some 60000 }
def wLinesCommitGatherAndFire_22 : State := rw0 { st := .run, line := 2, pred := some 400000, lastFire := none }
def wLinesCommitGatherAndFire_23 : State := rw0 { st := .run, line := 2, pred := some 400000, lastFire := none }
def wLinesCommitGatherAndFire_24 : State := { rw0 (rR 3) with heads := [(0, { lines := [hd3], hist := [(0, 3)] })] }
def wLinesCommitGatherAndFire_25 : State := rw0 { st := .run, tickDue := [(4, 70000)] }
def wLinesCommitGatherAndFire_26 : State := { gs with poison := [⟨.bank, 0, nozBlk 0 4⟩] }
def wLinesCommitGatherAndFire_27 : State := { gs with heads := [(0, { lines := [hlF] })] }
def wLinesCommitGatherAndFire_28 : State := { gs with heads := [(0, { lines := [{ hl0 with committed := some true, fireAt := 70000 }] })] }
def wLinesCommitGatherAndFire_29 : HeadLine := { hl0 with committed := some true, fireAt := 70000 }

theorem witness_TimebaseAndEncoders :
    ((wTimebaseAndEncoders_0.sync.mode = 1#2)) ∧
    ((fo.sync.mode = 2#2) ∧ (fo.sync.repeat_ = false) ∧ (syncCrc 1#56 ≠ syncCarried 1#56)) ∧
    ((wTimebaseAndEncoders_1.sync.mode = 2#2) ∧ (wTimebaseAndEncoders_1.sync.repeat_ = false) ∧ (syncCrc fr1 = syncCarried fr1) ∧ (jobOpen wTimebaseAndEncoders_1 = true) ∧ (2 < (syncError wTimebaseAndEncoders_1 67108867 fr1).natAbs)) ∧
    ((wTimebaseAndEncoders_2.sync.mode = 2#2) ∧ (wTimebaseAndEncoders_2.sync.repeat_ = false) ∧ (syncCrc fr1 = syncCarried fr1) ∧ (jobOpen wTimebaseAndEncoders_2 = true) ∧ ((syncError wTimebaseAndEncoders_2 67108866 fr1).natAbs ≤ 2)) ∧
    ((wTimebaseAndEncoders_3.sync.mode = 2#2) ∧ (wTimebaseAndEncoders_3.sync.repeat_ = false) ∧ (syncCrc fr1 = syncCarried fr1) ∧ (jobOpen wTimebaseAndEncoders_3 = false)) ∧
    ((wTimebaseAndEncoders_4.sync.mode = 2#2) ∧ (wTimebaseAndEncoders_4.sync.repeat_ = false) ∧ (syncCrc fr1 = syncCarried fr1) ∧ (jobOpen wTimebaseAndEncoders_4 = false)) ∧
    ((wTimebaseAndEncoders_5.sync.mode = 2#2) ∧ (wTimebaseAndEncoders_5.sync.repeat_ = true)) ∧
    ((wTimebaseAndEncoders_6.sync.mode = 2#2)) ∧
    ((wUp.sync.mode ≠ 1#2)) ∧
    ((wUp.sync.mode ≠ 2#2)) ∧
    ((3 < 4) ∧ (true ≠ (encAt wTimebaseAndEncoders_7 3).a ∧ false = (encAt wTimebaseAndEncoders_7 3).b ∧ 1200 = (encAt wTimebaseAndEncoders_7 3).candA.getD 1200 ∨ true = (encAt wTimebaseAndEncoders_7 3).a ∧ false ≠ (encAt wTimebaseAndEncoders_7 3).b ∧ 1200 = (encAt wTimebaseAndEncoders_7 3).candB.getD 1200) ∧ (1200 + (encAt wTimebaseAndEncoders_7 3).filt.toNat + 1 ≤ 1200 + 1)) ∧
    ((3 < 4) ∧ (false ≠ (encAt wTimebaseAndEncoders_8 3).a ∧ false = (encAt wTimebaseAndEncoders_8 3).b ∧ 1200 = (encAt wTimebaseAndEncoders_8 3).candA.getD 1200 ∨ false = (encAt wTimebaseAndEncoders_8 3).a ∧ false ≠ (encAt wTimebaseAndEncoders_8 3).b ∧ 1200 = (encAt wTimebaseAndEncoders_8 3).candB.getD 1200) ∧ (1200 + (encAt wTimebaseAndEncoders_8 3).filt.toNat + 1 ≤ 1200 + 4)) ∧
    ((3 < 4) ∧ (true ≠ (encAt wTimebaseAndEncoders_9 3).a ∧ false = (encAt wTimebaseAndEncoders_9 3).b ∧ 1198 = (encAt wTimebaseAndEncoders_9 3).candA.getD 1200 ∨ true = (encAt wTimebaseAndEncoders_9 3).a ∧ false ≠ (encAt wTimebaseAndEncoders_9 3).b ∧ 1198 = (encAt wTimebaseAndEncoders_9 3).candB.getD 1200) ∧ (1198 + (encAt wTimebaseAndEncoders_9 3).filt.toNat + 1 ≤ 1200 + 1)) ∧
    ((0 < 4) ∧ ((encAt (stA false) 0).candA = none) ∧ ((encAt (stA false) 0).candB = none) ∧ (true ≠ (encAt (stA false) 0).a ∧ false = (encAt (stA false) 0).b ∨ true = (encAt (stA false) 0).a ∧ false ≠ (encAt (stA false) 0).b) ∧ (1200 = 1200) ∧ ((encAt (stA false) 0).filt.toNat + 1 ≤ 1) ∧ ((stA false).job = some (jA false)) ∧ ((jA false).startEnc = 0) ∧ ((jA false).startIndex = false) ∧ (mayStart (setEnc (advanceTo (stA false) 1200) 0 ((encAt (stA false) 0).step 1200 true false)) (jA false) = true)) ∧
    ((3 < 4) ∧ (∀ (u : Nat), (if true = (encAt wTimebaseAndEncoders_10 3).a then none else some ((encAt wTimebaseAndEncoders_10 3).candA.getD 1200)) = some u ∨ (if false = (encAt wTimebaseAndEncoders_10 3).b then none else some ((encAt wTimebaseAndEncoders_10 3).candB.getD 1200)) = some u → 1200 + 3 < u + (encAt wTimebaseAndEncoders_10 3).filt.toNat + 1)) ∧
    ((3 < 4) ∧ (true ≠ (encAt wTimebaseAndEncoders_11 3).a) ∧ (true ≠ (encAt wTimebaseAndEncoders_11 3).b) ∧ (1200 = (encAt wTimebaseAndEncoders_11 3).candA.getD 1200) ∧ (1200 = (encAt wTimebaseAndEncoders_11 3).candB.getD 1200) ∧ (1200 + (encAt wTimebaseAndEncoders_11 3).filt.toNat + 1 ≤ 1200 + 1)) ∧
    ((3 < 4) ∧ (true ≠ (encAt wTimebaseAndEncoders_12 3).a) ∧ (true ≠ (encAt wTimebaseAndEncoders_12 3).b) ∧ (1199 = (encAt wTimebaseAndEncoders_12 3).candA.getD 1200) ∧ (1200 = (encAt wTimebaseAndEncoders_12 3).candB.getD 1200) ∧ (1199 ≠ 1200) ∧ (max 1199 1200 + (encAt wTimebaseAndEncoders_12 3).filt.toNat + 1 ≤ 1200 + 9)) ∧
    ((4 ≤ 4)) ∧
    ((3 < 4) ∧ ((encAt wTimebaseAndEncoders_13 3).filt.toNat < 1)) ∧
    ((3 < 4) ∧ ((encAt wTimebaseAndEncoders_14 3).filt.toNat < 1)) ∧
    ((3 ≤ (encAt wTimebaseAndEncoders_15 3).filt.toNat)) ∧
    ((0 < 4) ∧ ((encAt (stA true) 0).filt.toNat < 1) ∧ ((stA true).job = some (jA true)) ∧ ((jA true).startEnc = 0) ∧ ((jA true).startIndex = true) ∧ (mayStart (stA true) (jA true) = true)) ∧
    (((encAt wTimebaseAndEncoders_16 3).stamps.head? = some 900) ∧ (900 + 2 ^ 20 < 1049477)) ∧
    ((∀ (p : Nat), (encAt wUp 3).stamps.head? = some p → 1200 ≤ p + 2 ^ 20)) ∧
    (((encAt wTimebaseAndEncoders_17 3).acts = [wTimebaseAndEncoders_18])) ∧
    (((encAt wTimebaseAndEncoders_19 3).acts = [wTimebaseAndEncoders_20])) ∧
    (((encAt wUp 3).acts = [])) := by
  refine ⟨?_, ?_, ?_, ?_, ?_, ?_, ?_, ?_, ?_, ?_, ?_, ?_, ?_, ?_, ?_, ?_, ?_, ?_, ?_, ?_, ?_, ?_, ?_, ?_, ?_, ?_, ?_⟩
  · decide +kernel
  · decide +kernel
  · decide +kernel
  · decide +kernel
  · decide +kernel
  · decide +kernel
  · decide +kernel
  · decide +kernel
  · decide +kernel
  · decide +kernel
  · decide +kernel
  · decide +kernel
  · decide +kernel
  · decide +kernel
  · exact ⟨by decide +kernel, by
    intro u h
    rcases h with h | h
    · cases h
      decide +kernel
    · cases h⟩
  · decide +kernel
  · decide +kernel
  · decide +kernel
  · decide +kernel
  · decide +kernel
  · decide +kernel
  · decide +kernel
  · decide +kernel
  · decide +kernel
  · decide +kernel
  · decide +kernel
  · decide +kernel

theorem witness_LinesCommitGatherAndFire :
    ((wLinesCommitGatherAndFire_21.job = some wJob) ∧ (wJob.st = JobState.running) ∧ (0 ∈ wJob.rows) ∧ ((rowAt wLinesCommitGatherAndFire_21 0).pred = some 70000) ∧ (70000 ≤ 64 * (max 1000 wLinesCommitGatherAndFire_21.tb + 256))) ∧
    ((wLinesCommitGatherAndFire_22.job = some wJob) ∧ (wJob.st = JobState.running) ∧ (0 ∈ wJob.rows) ∧ ((rowAt wLinesCommitGatherAndFire_22 0).pred = some 400000) ∧ (400000 ≤ 64 * (max 7000 wLinesCommitGatherAndFire_22.tb + 256))) ∧
    (((rowAt wLinesCommitGatherAndFire_23 0).pred = none ∨ (∃ (p : Nat), (rowAt wLinesCommitGatherAndFire_23 0).pred = some p ∧ 64 * (max 5000 wLinesCommitGatherAndFire_23.tb + 256) < p) ∨ wLinesCommitGatherAndFire_23.job = none ∨ ∃ (j : Job), wLinesCommitGatherAndFire_23.job = some j ∧ (j.st ≠ JobState.running ∨ ¬0 ∈ j.rows))) ∧
    ((wLinesCommitGatherAndFire_24.job = some wJob) ∧ (wJob.st = JobState.running) ∧ (0 ∈ wJob.rows) ∧ ((rowAt wLinesCommitGatherAndFire_24 0).pred = some 70000) ∧ (70000 ≤ 64 * (max 1000 wLinesCommitGatherAndFire_24.tb + 256)) ∧ (tooSoon wLinesCommitGatherAndFire_24 0 (max 70000 (64 * (max 1000 wLinesCommitGatherAndFire_24.tb + 128))) = false) ∧ (rowHeads wLinesCommitGatherAndFire_24 0 = [0]) ∧ (headLink? wLinesCommitGatherAndFire_24 0 = some (0, 0)) ∧ ((linkAt wLinesCommitGatherAndFire_24 (linkIx 0 0)).st = LinkState.active) ∧ (wLinesCommitGatherAndFire_24.die0Fault = false) ∧ (isFenced wLinesCommitGatherAndFire_24 (FUnit.head 0) = false) ∧ (headLine? wLinesCommitGatherAndFire_24 0 (rowAt wLinesCommitGatherAndFire_24 0).line = some hd3) ∧ (hd3.stop = 0) ∧ (hd3.delivered = true) ∧ (groupOf? wLinesCommitGatherAndFire_24 0 = none) ∧ (0 ≤ ↑(max 70000 (64 * (max 1000 wLinesCommitGatherAndFire_24.tb + 128))) + ↑((Option.map nozFd (nozTable? wLinesCommitGatherAndFire_24 0)).getD 0) - ↑(singleAt (advanceTo wLinesCommitGatherAndFire_24 (max 1000 wLinesCommitGatherAndFire_24.tb)) 0 0) - ↑(headAt wLinesCommitGatherAndFire_24 0).lat) ∧ (↑(max 70000 (64 * (max 1000 wLinesCommitGatherAndFire_24.tb + 128))) + ↑((Option.map nozFd (nozTable? wLinesCommitGatherAndFire_24 0)).getD 0) - ↑(singleAt (advanceTo wLinesCommitGatherAndFire_24 (max 1000 wLinesCommitGatherAndFire_24.tb)) 0 0) - ↑(headAt wLinesCommitGatherAndFire_24 0).lat < 2 ^ 23)) ∧
    (((rw0 (rR 9)).job = some wJob) ∧ (wJob.st = JobState.running) ∧ (0 ∈ wJob.rows) ∧ ((rowAt (rw0 (rR 9)) 0).pred = some 70000) ∧ (70000 ≤ 64 * (max 1000 (rw0 (rR 9)).tb + 256)) ∧ (tooSoon (rw0 (rR 9)) 0 (max 70000 (64 * (max 1000 (rw0 (rR 9)).tb + 128))) = false) ∧ (rowHeads (rw0 (rR 9)) 0 = [0]) ∧ (headLink? (rw0 (rR 9)) 0 = some (0, 0)) ∧ ((linkAt (rw0 (rR 9)) (linkIx 0 0)).st = LinkState.active) ∧ ((rw0 (rR 9)).die0Fault = false) ∧ (isFenced (rw0 (rR 9)) (FUnit.head 0) = false) ∧ (headLine? (rw0 (rR 9)) 0 (rowAt (rw0 (rR 9)) 0).line = none) ∧ (groupOf? (rw0 (rR 9)) 0 = none) ∧ (0 ≤ ↑(max 70000 (64 * (max 1000 (rw0 (rR 9)).tb + 128))) + ↑((Option.map nozFd (nozTable? (rw0 (rR 9)) 0)).getD 0) - ↑(singleAt (advanceTo (rw0 (rR 9)) (max 1000 (rw0 (rR 9)).tb)) 0 0) - ↑(headAt (rw0 (rR 9)) 0).lat) ∧ (↑(max 70000 (64 * (max 1000 (rw0 (rR 9)).tb + 128))) + ↑((Option.map nozFd (nozTable? (rw0 (rR 9)) 0)).getD 0) - ↑(singleAt (advanceTo (rw0 (rR 9)) (max 1000 (rw0 (rR 9)).tb)) 0 0) - ↑(headAt (rw0 (rR 9)) 0).lat < 2 ^ 23)) ∧
    (((rowAt wLinesCommitGatherAndFire_25 0).tickDue = [(4, 70000)])) ∧
    (((rowAt wUp 63).tickDue = [])) ∧
    ((gathering? gs 0 = some hl0) ∧ (nozTable? gs 0 = some wNoz) ∧ (gatherServed gs 0 = true) ∧ (stoppedNow gs (nozRow wNoz) hl0.line = false) ∧ (gs.flips = []) ∧ (∀ (k : Nat × Clause), k ∈ gs.clauses → ∀ (l : CLine), l ∈ k.snd.lines → l.flips = []) ∧ (∀ (b : ArrBlock), b ∈ gs.poison → b.kind ≠ ArrKind.bank) ∧ ((headAt gs 0).histBad = []) ∧ (∀ (i : Nat), i < min 16 (hl0.total - hl0.codes.length) → nozRead gs wNoz (nozRow wNoz) hl0.line (hl0.codes.length + i) = CodeRead.code (cd i))) ∧
    ((gathering? gsP 0 = some hl0) ∧ (nozTable? gsP 0 = some wNoz) ∧ (gatherServed gsP 0 = true) ∧ (headLink? gsP 0 = some (0, 0)) ∧ (stoppedNow gsP (nozRow wNoz) hl0.line = false) ∧ (gsP.flips = []) ∧ (∀ (k : Nat × Clause), k ∈ gsP.clauses → ∀ (l : CLine), l ∈ k.snd.lines → l.flips = []) ∧ (4 < min 16 (hl0.total - hl0.codes.length)) ∧ (nozRead gsP wNoz (nozRow wNoz) hl0.line (hl0.codes.length + 4) = CodeRead.poison (some 0)) ∧ ((∃ (k : Option Nat), CodeRead.poison (some 0) = CodeRead.poison k) ∨ poisoned gsP ArrKind.bank 0 (nozBlk 0 (hl0.codes.length + 4)) = true)) ∧
    ((gathering? wLinesCommitGatherAndFire_26 0 = some hl0) ∧ (nozTable? wLinesCommitGatherAndFire_26 0 = some wNoz) ∧ (gatherServed wLinesCommitGatherAndFire_26 0 = true) ∧ (headLink? wLinesCommitGatherAndFire_26 0 = some (0, 0)) ∧ (stoppedNow wLinesCommitGatherAndFire_26 (nozRow wNoz) hl0.line = false) ∧ (wLinesCommitGatherAndFire_26.flips = []) ∧ (∀ (k : Nat × Clause), k ∈ wLinesCommitGatherAndFire_26.clauses → ∀ (l : CLine), l ∈ k.snd.lines → l.flips = []) ∧ (4 < min 16 (hl0.total - hl0.codes.length)) ∧ (nozRead wLinesCommitGatherAndFire_26 wNoz (nozRow wNoz) hl0.line (hl0.codes.length + 4) = CodeRead.code 0#4) ∧ ((∃ (k : Option Nat), CodeRead.code 0#4 = CodeRead.poison k) ∨ poisoned wLinesCommitGatherAndFire_26 ArrKind.bank 0 (nozBlk 0 (hl0.codes.length + 4)) = true)) ∧
    ((gathering? gs 0 = some hl0) ∧ (nozTable? gs 0 = some wNoz) ∧ (gatherServed gs 0 = true) ∧ (stoppedNow gs (nozRow wNoz) hl0.line = false) ∧ (gs.flips = []) ∧ (∀ (k : Nat × Clause), k ∈ gs.clauses → ∀ (l : CLine), l ∈ k.snd.lines → l.flips = []) ∧ (∀ (b : ArrBlock), b ∈ gs.poison → b.kind ≠ ArrKind.bank) ∧ (∀ (i : Nat), i < min 16 (hl0.total - hl0.codes.length) → nozRead gs wNoz (nozRow wNoz) hl0.line (hl0.codes.length + i) = CodeRead.code (cd i)) ∧ (hl0.codes.length % 16 = 0)) ∧
    ((gathering? wUp 5 = none)) ∧
    ((gatherServed wUp 5 = false)) ∧
    ((gatherReady gs 5 = false)) ∧
    ((gathering? gs 0 = some hl0) ∧ (hl0.codes.length < hl0.total)) ∧
    ((gathering? wLinesCommitGatherAndFire_27 0 = some hlF) ∧ (hlF.total ≤ hlF.codes.length)) ∧
    ((List.find? (fun (q : HeadLine) => q.line == 3 && q.committed.isSome) (headAt wLinesCommitGatherAndFire_28 0).lines = some wLinesCommitGatherAndFire_29)) ∧
    ((List.find? (fun (q : HeadLine) => q.line == 3 && q.committed.isSome) (headAt wUp 31).lines = none)) := by
  refine ⟨?_, ?_, ?_, ?_, ?_, ?_, ?_, ?_, ?_, ?_, ?_, ?_, ?_, ?_, ?_, ?_, ?_, ?_⟩
  · decide +kernel
  · decide +kernel
  · decide +kernel
  · decide +kernel
  · decide +kernel
  · decide +kernel
  · decide +kernel
  · decide +kernel
  · exact ⟨by decide +kernel, by decide +kernel, by decide +kernel, by decide +kernel, by decide +kernel, by decide +kernel, by decide +kernel, by decide +kernel, by decide +kernel, Or.inl ⟨_, rfl⟩⟩
  · exact ⟨by decide +kernel, by decide +kernel, by decide +kernel, by decide +kernel, by decide +kernel, by decide +kernel, by decide +kernel, by decide +kernel, by decide +kernel, Or.inr (List.contains_iff_mem.mpr (List.mem_singleton.mpr rfl))⟩
  · decide +kernel
  · decide +kernel
  · decide +kernel
  · decide +kernel
  · decide +kernel
  · decide +kernel
  · decide +kernel
  · decide +kernel

end W14

namespace W15

/-- The part with link 0 of die 0 defined, head channel 0 on it, and the link, lane 0 and the channel as given. -/
def wLinkS (k : Link) (a : Lane) (c : HeadCh) : State :=
  { wPage with params := [wTiming, wLinkRec, wNoz], heads := [(0, c)], links := [(0, { k with lanes := 1, origin := 64000 })], lanes := [(0, a)] }
def lk (st : LinkState) : State := wLinkS { st := st, stored := true } {} { lines := [] }
/-- An upstream frame of a kind with an opcode or channel and a body. -/
def upf (t op : Nat) (body : List Byte) : UpFrame :=
  let data := body ++ List.replicate ((8 - body.length % 8) % 8) 0
  let sof : List Byte := [0x4B] ++ natLE 1 t ++ natLE 1 op ++ [0] ++ natLE 2 1 ++ natLE 2 body.length
  let n := natLE 2 (data.length / 8) ++ [0]
  let id : List Byte := (if t = 2 then natLE 2 op else [0xFF, 0xFF]) ++ natLE 4 1
  { sof, data, eof := [0x87] ++ n ++ natLE 4 (frameCheck 0 (id ++ (sof.drop 1 ++ (data ++ n)))).toNat }
def bad0 : UpFrame := { sof := [0x4B], data := [], eof := [0x87] }
def trn (f : Nat) : State := wLinkS { st := .train } { farFinal := f, txPre := 15, txPost := 7 } {}
def rn : State := wLinkS { st := .active, reneg := true } {} {}
def capsB : List Byte := [1, 1, 1, 1, 0, 0, 0, 0] ++ natLE 2 100 ++ natLE 2 10 ++ [2, 0, 0, 0] ++ [0, 0] ++ natLE 2 5 ++ natLE 4 0
def cp (e : Bool) (r : Option Nat) : State := wLinkS { st := .caps } {} { echoing := e, round := r }
def cfgS : State := wLinkS { st := .caps, caps := capsB, configSent := true } {} {}
def gU : LaneSigns := { lane := 0, unlocked := true }
def g16 (t : Nat) : LaneSigns := { lane := 0, invalid := List.replicate 15 900 ++ [t] }
def rp : State := { lk .active with fences := [((FUnit.lane 0 0).place, { last := some 900 })] }
def bk (bs : List Byte) : List Byte := bs ++ [crc8 bs]
def hq : HeadLine := { line := 3, total := 5, done := true, sent := [0] }
def up : State := wLinkS { st := .active } {} { lines := [hq] }
def fq : TxFrame := { kind := .control, h := 2, blks := [tsFastBlk, eidleBlk], closed := true }
def ho (n : Nat) : HeadLine := { line := 3, total := 5, sent := [0], codes := [1, 2, 3, 4, 5], replays := [(0, n)] }
def upO (n : Nat) : State := wLinkS { st := .active } {} { lines := [ho n] }
def owe (n : Nat) : State := wLinkS { st := .active } {} { baseOwed := true, baseNext := 5, baseTries := n }
def lb (n : Nat) : UpFrame := upf 3 8 (lineBaseBody 0 n)
def tel (st ev : Nat) : UpFrame := upf 2 0 (natLE 1 st ++ natLE 1 ev ++ natLE 2 300 ++ natLE 2 0 ++ natLE 2 1 ++ natLE 4 3 ++ natLE 2 0 ++ [0, 0])
def ech (st : LinkState) : State := wLinkS { st := st } {} { echoing := true, eseq := 9, turn := 100 }
def ecC : State := wLinkS { st := .caps, caps := capsB } {} { echoing := true, lat := 2560 }
def wLinksComeUp_0 : State := { lk .active with job := some wJob }
def wLinksComeUp_1 : State := wLinkS { st := .idle } {} {}
def wLinksComeUp_8 : State := wLinkS { st := .blocklock } { aligned := true } {}
def wLinksComeUp_9 : List Nat := [1088]
def wLinksComeUp_10 : List Nat := [63]
def wLinksComeUp_11 : State := wLinkS { st := .train } { retry := true } {}
def wLinksComeUp_12 : State := wLinkS { st := .caps, capsTries := 1 } {} {}
def wLinksComeUp_13 : State := wLinkS { st := .caps, capsTries := 2 } {} {}
def wLinksComeUp_15 : UpFrame := upf 3 5 [0]
def wLinksComeUp_16 : UpFrame := upf 3 5 [1]
def wLinksComeUp_17 : UpFrame := upf 3 1 [1]
def wLinksComeUp_19 : UpFrame := upf 3 3 [0]
def wLinksComeUp_20 : UpFrame := upf 3 3 [1]
def wLinksComeUp_21 : UpFrame := upf 3 4 [0]
def wLinksComeUp_22 : List LaneSigns := [g16 32150]
def wLinksComeUp_23 : List LaneSigns := [g16 32150]
def wLinksComeUp_24 : List LaneSigns := [g16 32151]
def wLinksComeUp_25 : List LaneSigns := [g16 32151]
def wLinksComeUp_29 : State := wLinkS { st := .retrain } { aligned := true } {}
def wLinksComeUp_30 : List Nat := [16]
def wLinksComeUp_31 : State := wLinkS { st := .retrain } { aligned := true } {}
def wLinksComeUp_32 : List Nat := [15]
def wLinksComeUp_34 : State := wLinkS { st := .retrain, fastTries := 2 } {} {}
def wLinksComeUp_35 : State := wLinkS { st := .retrain, fastTries := 3 } {} {}
def wBoardsAnswer_36 : State := wLinkS { st := .blocklock, slot := 16384 } {} {}
def wBoardsAnswer_37 : State := wLinkS { st := .active, slot := 1, singles := [eidleBlk], frames := [fq] } {} {}
def wBoardsAnswer_38 : State := wLinkS { st := .active, slot := 1, frames := [fq] } {} {}
def wBoardsAnswer_40 : List Blk := [eidleBlk]
def wBoardsAnswer_41 : State := wLinkS { st := .active, slot := 0 } {} {}
def wBoardsAnswer_43 : List Byte := bk [0x55, 0, 0, 0, 0, 0, 0]
def wBoardsAnswer_44 : List Byte := [0x55]
def wBoardsAnswer_45 : List Byte := bk [0xE1, 0, 0, 3, 0, 0, 0]
def wBoardsAnswer_47 : List Byte := bk [0xE1, 0, 0, 3, 0, 0, 0]
def wBoardsAnswer_49 : List Byte := [0xE1]
def wBoardsAnswer_50 : List Byte := [0xE1]
def wBoardsAnswer_53 : List Byte := bk [0xE1, 0, 0, 3, 0, 0, 0]
def wBoardsAnswer_54 : List Byte := bk [0xE1, 0, 0, 3, 0, 0, 0]
def wBoardsAnswer_55 : List Byte := bk [0xB4, 0, 0, 3, 0, 0, 0]
def wBoardsAnswer_57 : List Byte := bk [0xB4, 0, 0, 3, 0, 0, 0]
def wBoardsAnswer_58 : List Byte := bk [0xB4, 0, 0, 3, 0, 0, 0]
def wBoardsAnswer_60 : List Byte := bk [0x2D, 0, 9, 0, 0, 0, 0]
def wBoardsAnswer_61 : List Byte := bk [0x2D, 0, 9, 0, 0, 0, 0]
def wBoardsAnswer_62 : List Byte := bk [0x2D, 0, 9, 0, 0, 0, 0]

theorem witness_LinksComeUp :
    ((arrives (lk LinkState.active) 0 = true) ∧ (0 < 8) ∧ (jobCoversLink (lk LinkState.active) 0 0 = false) ∧ ((linkAt (lk LinkState.active) (linkIx 0 0)).st ≠ LinkState.down) ∧ ((linkAt (lk LinkState.active) (linkIx 0 0)).st ≠ LinkState.detect) ∧ ((linkAt (lk LinkState.active) (linkIx 0 0)).st ≠ LinkState.retired)) ∧
    ((jobCoversLink wLinksComeUp_0 0 0 = true ∨ (linkAt wLinksComeUp_0 (linkIx 0 0)).st = LinkState.down ∨ (linkAt wLinksComeUp_0 (linkIx 0 0)).st = LinkState.detect ∨ (linkAt wLinksComeUp_0 (linkIx 0 0)).st = LinkState.retired)) ∧
    ((arrives (lk LinkState.idle) 0 = true) ∧ (0 < 8) ∧ ((linkAt (lk LinkState.idle) (linkIx 0 0)).st = LinkState.idle) ∧ ((lk LinkState.idle).tb ≤ (linkAt (lk LinkState.idle) (linkIx 0 0)).idleSince + 250000000 ∧ (dieTemp (lk LinkState.idle) 0 - (linkAt (lk LinkState.idle) (linkIx 0 0)).storedTemp).natAbs < 160 ∧ (linkAt (lk LinkState.idle) (linkIx 0 0)).stored = true)) ∧
    ((arrives wLinksComeUp_1 0 = true) ∧ (0 < 8) ∧ ((linkAt wLinksComeUp_1 (linkIx 0 0)).st = LinkState.idle) ∧ (¬(wLinksComeUp_1.tb ≤ (linkAt wLinksComeUp_1 (linkIx 0 0)).idleSince + 250000000 ∧ (dieTemp wLinksComeUp_1 0 - (linkAt wLinksComeUp_1 (linkIx 0 0)).storedTemp).natAbs < 160 ∧ (linkAt wLinksComeUp_1 (linkIx 0 0)).stored = true))) ∧
    (((linkAt wUp (linkIx 7 7)).st ≠ LinkState.idle)) ∧
    (((linkAt (lk LinkState.detect) (linkIx 0 0)).st = LinkState.detect) ∧ (∀ (n : Nat), n ∈ workingLanes (lk LinkState.detect) 0 0 → (1#8).getLsbD n = true) ∧ (workingLanes (lk LinkState.detect) 0 0 ≠ [])) ∧
    (((linkAt (lk LinkState.detect) (linkIx 0 0)).st = LinkState.detect) ∧ (workingLanes (lk LinkState.detect) 0 0 = [] ∨ ∃ (n : Nat), n ∈ workingLanes (lk LinkState.detect) 0 0 ∧ (2#8).getLsbD n = false)) ∧
    (((linkAt wUp (linkIx 7 7)).st ≠ LinkState.detect)) ∧
    ((laneLink? (trn 15) 0 0 = some 0) ∧ ((linkAt (trn 15) (linkIx 0 0)).st = LinkState.train) ∧ (0 ∈ useLanes (trn 15) 0 0) ∧ (trainField? (trainWord 6316675#32 0#960) = some 6316675#32)) ∧
    ((laneLink? (trn 15) 0 0 = some 0) ∧ ((linkAt (trn 15) (linkIx 0 0)).st = LinkState.train) ∧ (0 ∈ useLanes (trn 15) 0 0) ∧ (trainField? (trainWord 942723#32 0#960) = some 942723#32)) ∧
    ((trainField? 0#1056 = none ∨ laneLink? (trn 15) 0 0 = none ∨ ∃ (l : Nat), laneLink? (trn 15) 0 0 = some l ∧ ((linkAt (trn 15) (linkIx 0 l)).st ≠ LinkState.train ∨ ¬0 ∈ useLanes (trn 15) 0 l))) ∧
    (((linkAt (lk LinkState.bitlock) (linkIx 0 0)).st = LinkState.bitlock)) ∧
    (((linkAt wUp (linkIx 7 7)).st ≠ LinkState.bitlock)) ∧
    (((linkAt wUp (linkIx 7 7)).st ≠ LinkState.blocklock)) ∧
    (((linkAt wUp (linkIx 7 7)).st ≠ LinkState.retrain)) ∧
    (((linkAt wLinksComeUp_8 (linkIx 0 0)).st = LinkState.blocklock) ∧ (locked wLinksComeUp_8 0 0 1088 wLinksComeUp_9)) ∧
    (((linkAt (lk LinkState.blocklock) (linkIx 0 0)).st = LinkState.blocklock) ∧ (¬locked (lk LinkState.blocklock) 0 0 1088 wLinksComeUp_10)) ∧
    (((linkAt (lk LinkState.train) (linkIx 0 0)).st = LinkState.train) ∧ (List.filter (fun (n : Nat) => (1#8).getLsbD n) (useLanes (lk LinkState.train) 0 0) ≠ []) ∧ (∀ (n : Nat), n ∈ List.filter (fun (n : Nat) => (1#8).getLsbD n) (useLanes (lk LinkState.train) 0 0) → (laneAt (lk LinkState.train) (8 * 0 + n)).retry = false)) ∧
    (((linkAt wLinksComeUp_11 (linkIx 0 0)).st = LinkState.train) ∧ (List.filter (fun (n : Nat) => (1#8).getLsbD n) (useLanes wLinksComeUp_11 0 0) = [0]) ∧ ((laneAt wLinksComeUp_11 (8 * 0 + 0)).retry = true)) ∧
    (((linkAt (lk LinkState.train) (linkIx 0 0)).st = LinkState.train) ∧ (List.filter (fun (n : Nat) => (0#8).getLsbD n) (useLanes (lk LinkState.train) 0 0) = [])) ∧
    (((linkAt (lk LinkState.bitlock) (linkIx 0 0)).st = LinkState.bitlock ∨ (linkAt (lk LinkState.bitlock) (linkIx 0 0)).st = LinkState.blocklock)) ∧
    (((linkAt wLinksComeUp_12 (linkIx 0 0)).st = LinkState.caps) ∧ ((linkAt wLinksComeUp_12 (linkIx 0 0)).capsTries < 2)) ∧
    (((linkAt wLinksComeUp_13 (linkIx 0 0)).st = LinkState.caps) ∧ (2 ≤ (linkAt wLinksComeUp_13 (linkIx 0 0)).capsTries)) ∧
    (((linkAt (lk LinkState.active) (linkIx 0 0)).st ≠ LinkState.train) ∧ ((linkAt (lk LinkState.active) (linkIx 0 0)).st ≠ LinkState.bitlock) ∧ ((linkAt (lk LinkState.active) (linkIx 0 0)).st ≠ LinkState.blocklock) ∧ ((linkAt (lk LinkState.active) (linkIx 0 0)).st ≠ LinkState.caps)) ∧
    ((linkUp rn 0 0 = true) ∧ (isControl rn 0 0 5 wLinksComeUp_15 = true) ∧ ((linkAt rn (linkIx 0 0)).reneg = true) ∧ (byteAt (upBody wLinksComeUp_15) 0 = 0#8)) ∧
    ((linkUp rn 0 0 = true) ∧ (frameGood (linkAt rn (linkIx 0 0)).poly wLinksComeUp_16 = true) ∧ (¬(upType wLinksComeUp_16 = 3 ∧ upOp wLinksComeUp_16 = 5 ∧ (linkAt rn (linkIx 0 0)).reneg = true ∧ byteAt (upBody wLinksComeUp_16) 0 = 0#8))) ∧
    ((linkUp rn 0 0 = true) ∧ (frameGood (linkAt rn (linkIx 0 0)).poly bad0 = false)) ∧
    ((linkUp wUp 7 7 = false)) ∧
    (((linkAt (cp false none) (linkIx 0 0)).st = LinkState.caps) ∧ (frameGood (linkAt (cp false none) (linkIx 0 0)).poly bad0 = false)) ∧
    (((linkAt (cp false none) (linkIx 0 0)).st = LinkState.caps) ∧ (isControl (cp false none) 0 0 1 wLinksComeUp_17 = true) ∧ (capsCause? (cp false none) 0 0 (upBody wLinksComeUp_17) = some 1)) ∧
    (((linkAt (cp true none) (linkIx 0 0)).st = LinkState.caps) ∧ (isControl (cp true none) 0 0 1 (upf 3 1 capsB) = true) ∧ (capsCause? (cp true none) 0 0 (upBody (upf 3 1 capsB)) = none) ∧ (∃ (h : Nat), h ∈ liveHeads (cp true none) 0 0 ∧ (headAt (cp true none) h).echoing = true)) ∧
    (((linkAt (cp false (some 5130)) (linkIx 0 0)).st = LinkState.caps) ∧ (isControl (cp false (some 5130)) 0 0 1 (upf 3 1 capsB) = true) ∧ (capsCause? (cp false (some 5130)) 0 0 (upBody (upf 3 1 capsB)) = none) ∧ (upBody (upf 3 1 capsB) ≠ []) ∧ ((linkAt (cp false (some 5130)) (linkIx 0 0)).configSent = false) ∧ (linkRec? (cp false (some 5130)) 0 0 = some wLinkRec) ∧ (∀ (h : Nat), h ∈ liveHeads (cp false (some 5130)) 0 0 → (headAt (cp false (some 5130)) h).echoing = false) ∧ (∀ (h : Nat), h ∈ liveHeads (cp false (some 5130)) 0 0 → ∀ (r : Nat), (headAt (cp false (some 5130)) h).round = some r → (r - leAt (upBody (upf 3 1 capsB)) 10 2) / 2 ≤ 2560) ∧ (∀ (h : Nat), h ∈ liveHeads (cp false (some 5130)) 0 0 → (headAt (cp false (some 5130)) h).round = none → (headAt (cp false (some 5130)) h).lat ≤ 2560)) ∧
    (((linkAt (cp false (some 5132)) (linkIx 0 0)).st = LinkState.caps) ∧ (isControl (cp false (some 5132)) 0 0 1 (upf 3 1 capsB) = true) ∧ (capsCause? (cp false (some 5132)) 0 0 (upBody (upf 3 1 capsB)) = none) ∧ (upBody (upf 3 1 capsB) ≠ []) ∧ ((linkAt (cp false (some 5132)) (linkIx 0 0)).configSent = false) ∧ (∀ (h : Nat), h ∈ liveHeads (cp false (some 5132)) 0 0 → (headAt (cp false (some 5132)) h).echoing = false) ∧ (0 ∈ liveHeads (cp false (some 5132)) 0 0) ∧ ((headAt (cp false (some 5132)) 0).round = some 5132) ∧ (2560 < (5132 - leAt (upBody (upf 3 1 capsB)) 10 2) / 2)) ∧
    (((linkAt (cp false none) (linkIx 0 0)).st = LinkState.caps) ∧ (frameGood (linkAt (cp false none) (linkIx 0 0)).poly (upf 3 2 capsB) = true) ∧ (upType (upf 3 2 capsB) ≠ 3 ∨ upOp (upf 3 2 capsB) ≠ 1)) ∧
    ((linkUp (lk LinkState.active) 0 0 = true) ∧ ((linkAt (lk LinkState.active) (linkIx 0 0)).st ≠ LinkState.caps) ∧ (frameGood (linkAt (lk LinkState.active) (linkIx 0 0)).poly (upf 3 1 capsB) = true)) ∧
    ((linkUp (lk LinkState.active) 0 0 = true) ∧ ((linkAt (lk LinkState.active) (linkIx 0 0)).st ≠ LinkState.caps) ∧ (frameGood (linkAt (lk LinkState.active) (linkIx 0 0)).poly bad0 = false)) ∧
    ((linkRec? cfgS 0 0 = some wLinkRec) ∧ ((linkAt cfgS (linkIx 0 0)).st = LinkState.caps) ∧ ((linkAt cfgS (linkIx 0 0)).configSent = true) ∧ ((linkAt cfgS (linkIx 0 0)).configTries < 2)) ∧
    ((linkRec? wUp 7 7 = none ∨ (linkAt wUp (linkIx 7 7)).st ≠ LinkState.caps ∨ (linkAt wUp (linkIx 7 7)).configSent = false ∨ 2 ≤ (linkAt wUp (linkIx 7 7)).configTries)) ∧
    ((linkRec? cfgS 0 0 = some wLinkRec) ∧ (linkUp cfgS 0 0 = true) ∧ ((linkAt cfgS (linkIx 0 0)).st = LinkState.caps) ∧ ((linkAt cfgS (linkIx 0 0)).configSent = true) ∧ (isControl cfgS 0 0 3 wLinksComeUp_19 = true) ∧ (byteAt (upBody wLinksComeUp_19) 0 = 0#8) ∧ ((useLanes cfgS 0 0).Nodup)) ∧
    ((linkRec? cfgS 0 0 = some wLinkRec) ∧ (linkUp cfgS 0 0 = true) ∧ ((linkAt cfgS (linkIx 0 0)).st = LinkState.caps) ∧ ((linkAt cfgS (linkIx 0 0)).configSent = true) ∧ (isControl cfgS 0 0 3 wLinksComeUp_20 = true) ∧ (byteAt (upBody wLinksComeUp_20) 0 ≠ 0#8)) ∧
    ((linkRec? cfgS 0 0 = some wLinkRec) ∧ (linkUp cfgS 0 0 = true) ∧ (frameGood (linkAt cfgS (linkIx 0 0)).poly wLinksComeUp_21 = true) ∧ ((linkAt cfgS (linkIx 0 0)).st ≠ LinkState.caps ∨ (linkAt cfgS (linkIx 0 0)).configSent = false ∨ upType wLinksComeUp_21 ≠ 3 ∨ upOp wLinksComeUp_21 ≠ 3)) ∧
    ((linkRec? cfgS 0 0 = some wLinkRec) ∧ (linkUp cfgS 0 0 = true) ∧ (frameGood (linkAt cfgS (linkIx 0 0)).poly bad0 = false)) ∧
    ((linkRec? wUp 7 7 = none)) ∧
    (((linkAt (lk LinkState.active) (linkIx 0 0)).st = LinkState.active) ∧ (lostLanes (lk LinkState.active) 0 0 wLinksComeUp_22 ≠ [] ∨ false = true) ∧ (∀ (n : Nat), n ∈ lostLanes (lk LinkState.active) 0 0 wLinksComeUp_22 → faultRepeats (lk LinkState.active) (FUnit.lane 0 n) (lk LinkState.active).tb ((integ (lk LinkState.active)).laneWin * 250000000) = false)) ∧
    (((linkAt (lk LinkState.active) (linkIx 0 0)).st = LinkState.active) ∧ (lostLanes (lk LinkState.active) 0 0 [] ≠ [] ∨ true = true) ∧ (∀ (n : Nat), n ∈ lostLanes (lk LinkState.active) 0 0 [] → faultRepeats (lk LinkState.active) (FUnit.lane 0 n) (lk LinkState.active).tb ((integ (lk LinkState.active)).laneWin * 250000000) = false)) ∧
    (((linkAt rp (linkIx 0 0)).st = LinkState.active) ∧ (0 ∈ useLanes rp 0 0) ∧ (gU.lane = 0) ∧ (gU.unlocked = true) ∧ (faultRepeats rp (FUnit.lane 0 0) rp.tb ((integ rp).laneWin * 250000000) = true)) ∧
    ((wLinksComeUp_23 = [g16 32150]) ∧ ((g16 32150).invalid = (g16 32150).invalid) ∧ ((g16 32150).unlocked = false) ∧ ((g16 32150).lane ∈ useLanes (lk LinkState.active) 0 0) ∧ ((laneAt (lk LinkState.active) (8 * 0 + (g16 32150).lane)).hdrAt = [])) ∧
    ((wLinksComeUp_24 = [g16 32151]) ∧ ((g16 32151).invalid = (g16 32151).invalid) ∧ ((g16 32151).unlocked = false) ∧ ((g16 32151).lane ∈ useLanes (lk LinkState.active) 0 0) ∧ ((laneAt (lk LinkState.active) (8 * 0 + (g16 32151).lane)).hdrAt = [])) ∧
    ((linkUp (lk LinkState.active) 0 0 = true ∨ (linkAt (lk LinkState.active) (linkIx 0 0)).st = LinkState.retrain) ∧ ((linkAt (lk LinkState.active) (linkIx 0 0)).st ≠ LinkState.active ∨ lostLanes (lk LinkState.active) 0 0 wLinksComeUp_25 = [])) ∧
    ((linkUp wUp 7 7 = false) ∧ ((linkAt wUp (linkIx 7 7)).st ≠ LinkState.retrain)) ∧
    (((linkAt wLinksComeUp_29 (linkIx 0 0)).st = LinkState.retrain) ∧ (locked wLinksComeUp_29 0 0 16 wLinksComeUp_30)) ∧
    (((linkAt wLinksComeUp_31 (linkIx 0 0)).st = LinkState.retrain) ∧ (¬locked wLinksComeUp_31 0 0 16 wLinksComeUp_32)) ∧
    (((linkAt wLinksComeUp_34 (linkIx 0 0)).st = LinkState.retrain) ∧ ((linkAt wLinksComeUp_34 (linkIx 0 0)).fastTries < 3)) ∧
    (((linkAt wLinksComeUp_35 (linkIx 0 0)).st = LinkState.retrain) ∧ (3 ≤ (linkAt wLinksComeUp_35 (linkIx 0 0)).fastTries)) := by
  refine ⟨?_, ?_, ?_, ?_, ?_, ?_, ?_, ?_, ?_, ?_, ?_, ?_, ?_, ?_, ?_, ?_, ?_, ?_, ?_, ?_, ?_, ?_, ?_, ?_, ?_, ?_, ?_, ?_, ?_, ?_, ?_, ?_, ?_, ?_, ?_, ?_, ?_, ?_, ?_, ?_, ?_, ?_, ?_, ?_, ?_, ?_, ?_, ?_, ?_, ?_, ?_, ?_, ?_, ?_⟩
  all_goals decide +kernel

theorem witness_BoardsAnswer :
    ((63 < 64)) ∧
    (((linkAt wBoardsAnswer_36 (linkIx 0 0)).slot % 16384 = 0) ∧ ((linkAt wBoardsAnswer_36 (linkIx 0 0)).st ≠ LinkState.bitlock)) ∧
    (((linkAt wBoardsAnswer_37 (linkIx 0 0)).slot % 16384 ≠ 0) ∧ ((linkAt wBoardsAnswer_37 (linkIx 0 0)).st.carries = true) ∧ ((linkAt wBoardsAnswer_37 (linkIx 0 0)).singles = [eidleBlk]) ∧ (useLanes wBoardsAnswer_37 0 0 ≠ [])) ∧
    (((linkAt wBoardsAnswer_38 (linkIx 0 0)).slot % 16384 ≠ 0) ∧ ((linkAt wBoardsAnswer_38 (linkIx 0 0)).st.carries = true) ∧ ((linkAt wBoardsAnswer_38 (linkIx 0 0)).singles = [])) ∧
    ((fq.blks = tsFastBlk :: wBoardsAnswer_40)) ∧
    (((linkAt up (linkIx 0 0)).st.streams = true) ∧ (64 * up.tb + 65 < (linkAt up (linkIx 0 0)).origin + 66 * ((linkAt up (linkIx 0 0)).slot + 1))) ∧
    (((linkAt wBoardsAnswer_41 (linkIx 0 0)).st.streams = true) ∧ ((linkAt wBoardsAnswer_41 (linkIx 0 0)).origin ≤ 64 * wBoardsAnswer_41.tb)) ∧
    (((List.replicate 9 5#8).length < 2 ^ 16)) ∧
    ((laneLink? up 0 0 = some 0) ∧ (0 ∈ useLanes up 0 0) ∧ (linkUp up 0 0 = true ∨ (linkAt up (linkIx 0 0)).st = LinkState.retrain) ∧ (ctlBad wBoardsAnswer_43 = false) ∧ (byteAt wBoardsAnswer_43 0 = 85#8)) ∧
    ((laneLink? up 0 0 = some 0) ∧ (0 ∈ useLanes up 0 0) ∧ (linkUp up 0 0 = true ∨ (linkAt up (linkIx 0 0)).st = LinkState.retrain) ∧ (ctlBad wBoardsAnswer_44 = true)) ∧
    ((laneLink? up 0 0 = some 0) ∧ (0 ∈ useLanes up 0 0) ∧ (linkUp up 0 0 = true ∨ (linkAt up (linkIx 0 0)).st = LinkState.retrain) ∧ (ctlBad wBoardsAnswer_45 = false) ∧ (byteAt wBoardsAnswer_45 0 ≠ 85#8)) ∧
    ((laneLink? wUp 7 7 = none ∨ ∃ (l : Nat), laneLink? wUp 7 7 = some l ∧ (¬7 ∈ useLanes wUp 7 l ∨ linkUp wUp 7 l = false ∧ (linkAt wUp (linkIx 7 l)).st ≠ LinkState.retrain))) ∧
    (((linkAt up (linkIx 0 0)).st = LinkState.active) ∧ (ctlBad wBoardsAnswer_47 = false) ∧ (byteAt wBoardsAnswer_47 0 = 225#8) ∧ (leAt wBoardsAnswer_47 1 1 ∈ linkHeads up 0 0) ∧ (List.find? (fun (q : HeadLine) => q.line == leAt wBoardsAnswer_47 3 4) (headAt up (leAt wBoardsAnswer_47 1 1)).lines = some hq) ∧ (leAt wBoardsAnswer_47 2 1 ∈ hq.sent) ∧ (¬leAt wBoardsAnswer_47 2 1 ∈ hq.acked) ∧ (hq.committed = none)) ∧
    (((linkAt up (linkIx 0 0)).st = LinkState.active) ∧ (ctlBad wBoardsAnswer_49 = true)) ∧
    ((linkUp up 0 0 = true) ∧ (ctlBad wBoardsAnswer_50 = true)) ∧
    (((linkAt (lk LinkState.idle) (linkIx 0 0)).st ≠ LinkState.active)) ∧
    ((linkUp (lk LinkState.idle) 0 0 = false)) ∧
    ((ctlBad wBoardsAnswer_53 = false) ∧ (byteAt wBoardsAnswer_53 0 ≠ 225#8 ∨ ¬leAt wBoardsAnswer_53 1 1 ∈ linkHeads (lk LinkState.active) 0 0 ∨ ∀ (q : HeadLine), q ∈ (headAt (lk LinkState.active) (leAt wBoardsAnswer_53 1 1)).lines → q.line = leAt wBoardsAnswer_53 3 4 → ¬leAt wBoardsAnswer_53 2 1 ∈ q.sent ∨ leAt wBoardsAnswer_53 2 1 ∈ q.acked ∨ q.committed ≠ none)) ∧
    ((ctlBad wBoardsAnswer_54 = false) ∧ (byteAt wBoardsAnswer_54 0 ≠ 180#8)) ∧
    (((linkAt (lk LinkState.active) (linkIx 0 0)).st = LinkState.active) ∧ (ctlBad wBoardsAnswer_55 = false) ∧ (byteAt wBoardsAnswer_55 0 = 180#8) ∧ (¬leAt wBoardsAnswer_55 1 1 ∈ linkHeads (lk LinkState.active) 0 0 ∨ List.find? (fun (q : HeadLine) => q.line == leAt wBoardsAnswer_55 3 4) (headAt (lk LinkState.active) (leAt wBoardsAnswer_55 1 1)).lines = none)) ∧
    (((linkAt (upO 3) (linkIx 0 0)).st = LinkState.active) ∧ (ctlBad wBoardsAnswer_57 = false) ∧ (byteAt wBoardsAnswer_57 0 = 180#8) ∧ (leAt wBoardsAnswer_57 1 1 ∈ linkHeads (upO 3) 0 0) ∧ (List.find? (fun (q : HeadLine) => q.line == leAt wBoardsAnswer_57 3 4) (headAt (upO 3) (leAt wBoardsAnswer_57 1 1)).lines = some (ho 3)) ∧ (leAt wBoardsAnswer_57 2 1 ∈ (ho 3).sent) ∧ (¬leAt wBoardsAnswer_57 2 1 ∈ (ho 3).acked) ∧ ((ho 3).committed = none) ∧ (replayWaits (upO 3) 0 0 (leAt wBoardsAnswer_57 1 1) (leAt wBoardsAnswer_57 3 4) (leAt wBoardsAnswer_57 2 1) = false) ∧ (sget 0 (ho 3).replays (leAt wBoardsAnswer_57 2 1) < 4)) ∧
    (((linkAt (upO 4) (linkIx 0 0)).st = LinkState.active) ∧ (ctlBad wBoardsAnswer_58 = false) ∧ (byteAt wBoardsAnswer_58 0 = 180#8) ∧ (leAt wBoardsAnswer_58 1 1 ∈ linkHeads (upO 4) 0 0) ∧ (List.find? (fun (q : HeadLine) => q.line == leAt wBoardsAnswer_58 3 4) (headAt (upO 4) (leAt wBoardsAnswer_58 1 1)).lines = some (ho 4)) ∧ (leAt wBoardsAnswer_58 2 1 ∈ (ho 4).sent) ∧ (¬leAt wBoardsAnswer_58 2 1 ∈ (ho 4).acked) ∧ ((ho 4).committed = none) ∧ (replayWaits (upO 4) 0 0 (leAt wBoardsAnswer_58 1 1) (leAt wBoardsAnswer_58 3 4) (leAt wBoardsAnswer_58 2 1) = false) ∧ (4 ≤ sget 0 (ho 4).replays (leAt wBoardsAnswer_58 2 1)) ∧ (isFenced (upO 4) (FUnit.head (leAt wBoardsAnswer_58 1 1)) = false) ∧ ((headAt (upO 4) (leAt wBoardsAnswer_58 1 1)).fault = none)) ∧
    ((headLink? (upO 3) 0 = some (0, 0)) ∧ (List.find? (fun (q : HeadLine) => q.line == 3) (headAt (upO 3) 0).lines = some (ho 3)) ∧ (0 ∈ (ho 3).sent) ∧ (¬0 ∈ (ho 3).acked) ∧ ((ho 3).committed = none) ∧ (replayWaits (upO 3) 0 0 0 3 0 = false) ∧ (sget 0 (ho 3).replays 0 < 4)) ∧
    ((headLink? (upO 4) 0 = some (0, 0)) ∧ (List.find? (fun (q : HeadLine) => q.line == 3) (headAt (upO 4) 0).lines = some (ho 4)) ∧ (0 ∈ (ho 4).sent) ∧ (¬0 ∈ (ho 4).acked) ∧ ((ho 4).committed = none) ∧ (replayWaits (upO 4) 0 0 0 3 0 = false) ∧ (4 ≤ sget 0 (ho 4).replays 0) ∧ (isFenced (upO 4) (FUnit.head 0) = false) ∧ ((headAt (upO 4) 0).fault = none)) ∧
    ((headLink? wUp 31 = none ∨ List.find? (fun (q : HeadLine) => q.line == 3) (headAt wUp 31).lines = none ∨ ∃ (hl : HeadLine), List.find? (fun (q : HeadLine) => q.line == 3) (headAt wUp 31).lines = some hl ∧ (¬0 ∈ hl.sent ∨ 0 ∈ hl.acked ∨ hl.committed ≠ none))) ∧
    ((linkUp (owe 1) 0 0 = true) ∧ (isControl (owe 1) 0 0 8 (lb 5) = true) ∧ (leAt (upBody (lb 5)) 0 1 ∈ linkHeads (owe 1) 0 0 ∧ (headAt (owe 1) (leAt (upBody (lb 5)) 0 1)).baseOwed = true ∧ upBody (lb 5) = lineBaseBody (leAt (upBody (lb 5)) 0 1) (headAt (owe 1) (leAt (upBody (lb 5)) 0 1)).baseNext)) ∧
    ((linkUp (owe 1) 0 0 = true) ∧ (frameGood (linkAt (owe 1) (linkIx 0 0)).poly (lb 6) = true) ∧ (¬(upType (lb 6) = 3 ∧ upOp (lb 6) = 8 ∧ leAt (upBody (lb 6)) 0 1 ∈ linkHeads (owe 1) 0 0 ∧ (headAt (owe 1) (leAt (upBody (lb 6)) 0 1)).baseOwed = true ∧ upBody (lb 6) = lineBaseBody (leAt (upBody (lb 6)) 0 1) (headAt (owe 1) (leAt (upBody (lb 6)) 0 1)).baseNext))) ∧
    ((linkUp (owe 1) 0 0 = true) ∧ (frameGood (linkAt (owe 1) (linkIx 0 0)).poly bad0 = false)) ∧
    ((headLink? (owe 3) 0 = some (0, 0)) ∧ ((headAt (owe 3) 0).baseOwed = true) ∧ ((linkAt (owe 3) (linkIx 0 0)).st = LinkState.active) ∧ ((headAt (owe 3) 0).baseTries < 4)) ∧
    ((headLink? (owe 4) 0 = some (0, 0)) ∧ ((headAt (owe 4) 0).baseOwed = true) ∧ ((linkAt (owe 4) (linkIx 0 0)).st = LinkState.active) ∧ (4 ≤ (headAt (owe 4) 0).baseTries)) ∧
    (((headAt wUp 31).baseOwed = false ∨ headActive wUp 31 = false)) ∧
    (((linkAt (upO 3) (linkIx 0 0)).st = LinkState.active) ∧ (frameGood (linkAt (upO 3) (linkIx 0 0)).poly (tel 2 1) = true) ∧ (upType (tel 2 1) = 2) ∧ (upOp (tel 2 1) ∈ linkHeads (upO 3) 0 0)) ∧
    (((linkAt (upO 3) (linkIx 0 0)).st = LinkState.active) ∧ (frameGood (linkAt (upO 3) (linkIx 0 0)).poly (tel 3 0) = true) ∧ (upType (tel 3 0) = 2) ∧ (upOp (tel 3 0) ∈ linkHeads (upO 3) 0 0)) ∧
    (((linkAt (upO 3) (linkIx 0 0)).st = LinkState.active) ∧ (frameGood (linkAt (upO 3) (linkIx 0 0)).poly bad0 = false)) ∧
    (((linkAt (lk LinkState.idle) (linkIx 0 0)).st ≠ LinkState.active ∨ frameGood (linkAt (lk LinkState.idle) (linkIx 0 0)).poly (tel 0 0) = true ∧ (upType (tel 0 0) ≠ 2 ∨ ¬upOp (tel 0 0) ∈ linkHeads (lk LinkState.idle) 0 0))) ∧
    ((headActive up 0 = true)) ∧
    ((headActive (lk LinkState.idle) 0 = false)) ∧
    ((linkUp up 0 0 = true) ∧ (isControl up 0 0 6 (upf 3 6 (List.replicate 16 7#8)) = true) ∧ ((evqAt up (3 * 0)).items.length < 512) ∧ ((upBody (upf 3 6 (List.replicate 16 7#8))).length = 16)) ∧
    ((linkUp up 0 0 = true) ∧ (frameGood (linkAt up (linkIx 0 0)).poly (upf 3 7 []) = true) ∧ (upType (upf 3 7 []) ≠ 3 ∨ upOp (upf 3 7 []) ≠ 6)) ∧
    ((linkUp up 0 0 = true) ∧ (frameGood (linkAt up (linkIx 0 0)).poly bad0 = false)) ∧
    ((linkUp (ech LinkState.active) 0 0 = true) ∧ (ctlBad wBoardsAnswer_60 = false) ∧ (byteAt wBoardsAnswer_60 0 = 45#8) ∧ (leAt wBoardsAnswer_60 1 1 ∈ linkHeads (ech LinkState.active) 0 0 ∧ (headAt (ech LinkState.active) (leAt wBoardsAnswer_60 1 1)).echoing = true ∧ leAt wBoardsAnswer_60 2 2 = (headAt (ech LinkState.active) (leAt wBoardsAnswer_60 1 1)).eseq.toNat ∧ 16384 ≤ 16384) ∧ ((linkAt (ech LinkState.active) (linkIx 0 0)).st ≠ LinkState.caps)) ∧
    ((linkUp (ech LinkState.caps) 0 0 = true) ∧ (ctlBad wBoardsAnswer_61 = false) ∧ (byteAt wBoardsAnswer_61 0 = 45#8) ∧ (leAt wBoardsAnswer_61 1 1 ∈ linkHeads (ech LinkState.caps) 0 0 ∧ (headAt (ech LinkState.caps) (leAt wBoardsAnswer_61 1 1)).echoing = true ∧ leAt wBoardsAnswer_61 2 2 = (headAt (ech LinkState.caps) (leAt wBoardsAnswer_61 1 1)).eseq.toNat ∧ 16384 ≤ 16384) ∧ ((linkAt (ech LinkState.caps) (linkIx 0 0)).st = LinkState.caps) ∧ ((linkAt (ech LinkState.caps) (linkIx 0 0)).caps = [])) ∧
    ((linkUp (ech LinkState.active) 0 0 = true) ∧ (ctlBad wBoardsAnswer_62 = false) ∧ (byteAt wBoardsAnswer_62 0 ≠ 45#8 ∨ ¬(leAt wBoardsAnswer_62 1 1 ∈ linkHeads (ech LinkState.active) 0 0 ∧ (headAt (ech LinkState.active) (leAt wBoardsAnswer_62 1 1)).echoing = true ∧ leAt wBoardsAnswer_62 2 2 = (headAt (ech LinkState.active) (leAt wBoardsAnswer_62 1 1)).eseq.toNat ∧ 16385 ≤ 16384))) ∧
    (((headAt (ech LinkState.active) 0).echoing = true) ∧ (∀ (d l : Nat), headLink? (ech LinkState.active) 0 = some (d, l) → (linkAt (ech LinkState.active) (linkIx d l)).st ≠ LinkState.caps)) ∧
    (((headAt wUp 31).echoing = false)) ∧
    (((headAt ecC 0).echoing = true) ∧ (headLink? ecC 0 = some (0, 0)) ∧ ((linkAt ecC (linkIx 0 0)).st = LinkState.caps) ∧ (linkRec? ecC 0 0 = some wLinkRec) ∧ ((linkAt ecC (linkIx 0 0)).caps ≠ []) ∧ ((linkAt ecC (linkIx 0 0)).configSent = false) ∧ (∀ (q : Nat), q ∈ liveHeads ecC 0 0 → q = 0) ∧ ((headAt ecC 0).round = none) ∧ ((headAt ecC 0).lat ≤ 2560)) := by
  refine ⟨?_, ?_, ?_, ?_, ?_, ?_, ?_, ?_, ?_, ?_, ?_, ?_, ?_, ?_, ?_, ?_, ?_, ?_, ?_, ?_, ?_, ?_, ?_, ?_, ?_, ?_, ?_, ?_, ?_, ?_, ?_, ?_, ?_, ?_, ?_, ?_, ?_, ?_, ?_, ?_, ?_, ?_, ?_, ?_, ?_, ?_⟩
  · decide +kernel
  · decide +kernel
  · decide +kernel
  · decide +kernel
  · decide +kernel
  · decide +kernel
  · decide +kernel
  · decide +kernel
  · decide +kernel
  · decide +kernel
  · decide +kernel
  · decide +kernel
  · decide +kernel
  · decide +kernel
  · decide +kernel
  · decide +kernel
  · decide +kernel
  · decide +kernel
  · decide +kernel
  · decide +kernel
  · decide +kernel
  · decide +kernel
  · decide +kernel
  · decide +kernel
  · decide +kernel
  · decide +kernel
  · decide +kernel
  · decide +kernel
  · decide +kernel
  · decide +kernel
  · decide +kernel
  · decide +kernel
  · decide +kernel
  · decide +kernel
  · decide +kernel
  · decide +kernel
  · decide +kernel
  · decide +kernel
  · decide +kernel
  · decide +kernel
  · decide +kernel
  · decide +kernel
  · decide +kernel
  · exact ⟨by decide +kernel, by
    intro d l h
    have e : headLink? (ech LinkState.active) 0 = some (0, 0) := by decide +kernel
    rw [e] at h
    cases h
    decide +kernel⟩
  · decide +kernel
  · decide +kernel

end W15

namespace W16

def dq : DmaCh := { use := 2, shSrc := 0x4000, shDst := 0x8000, shCount := 64 }
def dmS (q : DmaCh) : State := { wUp with dma := [(227, q)] }
def ld : DmaSet := ⟨0x4000, 0x8000, 64, false, 0, true⟩
def fs : State := { dmS { dq with desc := 0x40, chain := true, fetching := true, curDesc := 2 } with dram := (dramWr wUp 7 0x40 (natLE 8 0x4000 ++ natLE 8 0x8000 ++ natLE 4 64 ++ natLE 4 0 ++ natLE 4 4 ++ natLE 4 3)).dram }
def fb (ctl cnt : Nat) : State := { dmS { dq with desc := 0x40, chain := true, fetching := true, curDesc := 2 } with dram := (dramWr wUp 7 0x40 (natLE 8 0x4000 ++ natLE 8 0x8000 ++ natLE 4 cnt ++ natLE 4 0 ++ natLE 4 ctl ++ natLE 4 3)).dram }
def ft (e : Byte) : State := { fs with dma := [(227, { dq with desc := 0x40, fetching := true, refetch := true, curDesc := 2 })], dram := (dramWr wUp 7 0x58 [e]).dram }
def rq : DmaCh := { use := 2, st := .run, src := 0x4000, dst := 0x8000, count := 600, remain := 600 }
def r2 : State := { wUp with dma := [(227, { rq with prio := 2 }), (230, { rq with prio := 1, moved := 536, remain := 64 })], dmaDie := [(7, { lastSys := [(1, 7)] })] }
def d4 : State := { wUp with dma := [(3, { rq with inflight := [64, 64], dst := 4#64 <<< 60 })] }
def rb : DmaCh := { rq with st := .readback, moved := 600, remain := 0 }
def z4 (m : Word) : State := { wUp with pcie := { wUp.pcie with msixOn := true, vecs := (List.range 64).map (fun k => (k, ({ masked := false } : MsixVec))) }, dma := [(3, { rb with dst := 4#64 <<< 60, pz4 := true })], dmaDie := [(0, { mask := m })] }
def bb : BlockBurst := ⟨3, 7, 0x4000, [1, 2]⟩
def fwd (q : DmaCh) (b : BlockBurst) : State := { wUp with dma := [(3, q), (228, { use := 3 })], ports := [(31, { ingress := [b] })] }
def rr : DReq := { id := 4, reader := .dma 3, addr := 0x4000, len := 64, write := false, data := [] }
def rwq : DReq := { rr with write := true, data := List.replicate 64 9 }
def ddS (c : DdrCh) : State := { wUp with ddr := [(14, c)] }
def wt (r : DReq) : DWait := ⟨r, 0, 0⟩
def fullQ : List DWait := (List.range 32).map (fun k => wt { rr with id := 10 + k })
def rbd : DReq := { rr with id := 7, reader := .band 0 }
def cq : DdrCh := { st := .active, queue := [wt rr, wt { rbd with addr := 0x8000 }] }
def is1 : State := ddS { st := .active, issued := [rr] }
def rc : DReq := { rr with reader := .cache, addr := 0x8000000 }
def isM : State := { wUp with ddr := [(14, { st := .active, issued := [rc] })] }
def qu : List DWait := [wt rbd]
def dOff (c : DdrCh) : State := { ddS c with dia := {} }
def tc : TrnCtl := { pattern := 2, row := 3, seed := 7 }
def ab : ArrBlock := ⟨.bank, 7, 5⟩
def scS (g : Scrub) : State := { wUp with scrubs := [(7, { g with next := some ab })] }
def im1 : Image := { id := 0, dataAddr := 16, rowMask := 1, cellMask := 1, entry := 0, words := [5, 6], data := [1, 2, 3, 4, 5, 6, 7, 8] }
def mb : ArrBlock := ⟨.bank, 0, 0x700000 / 8⟩
def ms : State := { wUp with banks := [(0x700003, 7)], poison := [mb] }
def mcb : ArrBlock := ⟨.cellInstr, 0, 0⟩
def mc : State := { placeImages { wUp with gram := { wGram false with images := [im1] } } 0 with poison := [mcb], clauses := [(0, { powered := true, st := .serving })] }
def dOffM (m : March) : State := { wUp with dia := {}, marches := [(7, m)] }
def sb : StuckBits := ⟨ab, none, 1, 1⟩
def bm : State := { wUp with marches := [(7, { busy := true, runMode := true })] }
def le : LogEntry := ⟨1, 3, 2, 0, 4, [5]⟩
def full : State := { wUp with evqs := [(23, { items := List.replicate 256 (.bytes [0]) }), (22, { items := List.replicate 1024 (.bytes [0]) }), (21, { items := List.replicate 512 (.bytes [0]) })] }
def fullPort : State := { wUp with cells := [(cellIx ⟨7, 65, 15⟩, { portR := List.replicate 64 9 })] }
def ce : CmdEntry := ⟨.ring 0, [1]⟩
def cqS : State := { wUp with cmdq := [⟨.ring 1, [2]⟩, ce] }
def tq (l : List QItem) : State := { wUp with evqs := [(23, { items := l })] }
def it255 : List QItem := List.replicate 255 (.bytes [8])
def wCell : Cell := { st := .run }
def lf : CLine := { line := 0, at_ := some ⟨0, 5, 1, 0, 0⟩, q := 0 }
def cS (c : Cell) : State :=
  { wPage with job := some wJob, cells := [(0, c)], clauses := [(0, { st := .serving, powered := true, slot := 0, lines := [lf], nextLine := 1 })] }
def inC : Cell := { wCell with frame := some ⟨0x100, 2, 2, 1⟩, inq := [⟨0, 0, 0x1122334455667788, false⟩, ⟨0, 1, 9, false⟩] }
def outC : Cell := { wCell with outq := [(0, 6, 0x77), (0, 0, 0x78)] }
def pu (n : Nat) : State := { wUp with ports := [(31, { st := .up, groupReplays := n })] }
def gsB : List (List Byte × BitVec 16) := [([1], 0)]
def gsG : List (List Byte × BitVec 16) := [([1, 2], crc16 [1, 2])]
def p0 : State := { wUp with ports := [(3, { st := .up, groupReplays := 1 })] }
def pt (n : Nat) : State := { wUp with ports := [(31, { st := .train, fails := n })] }
def wDmaRegistersAct_0 : State := dmS { dq with shCount := 0 }
def wDmaRegistersAct_1 : State := dmS { dq with shCount := 0 }
def wDmaRegistersAct_2 : State := dmS { dq with shDst := 5#64 <<< 60 }
def wDmaRegistersAct_3 : State := dmS { dq with shDst := 7#64 <<< 60 }
def wDmaRegistersAct_4 : State := dmS { dq with st := .halted }
def wDmaRegistersAct_5 : State := dmS { dq with fetching := true }
def wDmaRegistersAct_6 : State := dmS { dq with st := .fenced }
def wDmaRegistersAct_7 : State := dmS { dq with use := 0 }
def wDmaRegistersAct_8 : List Byte := [1]
def wDmaRegistersAct_9 : State := dmS { dq with desc := 0x40 }
def wDmaRegistersAct_10 : State := dmS { dq with desc := 0x40, tail := 9 }
def wDmaRegistersAct_11 : State := dmS { dq with fetching := true }
def wDmaRegistersAct_12 : State := dmS { dq with st := .run }
def wDmaRegistersAct_13 : State := dmS { dq with st := .halted, armed := true }
def wDmaRegistersAct_14 : State := dmS { dq with st := .halted }
def wDmaRegistersAct_15 : State := dmS { dq with desc := 0x40, tail := 9 }
def wDmaRegistersAct_16 : State := dmS { dq with st := .fenced }
def wDmaRegistersAct_17 : State := dmS { dq with use := 0 }
def wDmaRegistersAct_18 : State := dmS { dq with st := .run, fetching := true, inflight := [64], chain := true }
def wDmaRegistersAct_19 : State := dmS { dq with st := .fenced }
def wDmaRegistersAct_20 : State := dmS { dq with okCnt := 3, badCnt := 4 }
def wDmaRegistersAct_21 : State := { wUp with dmaDie := [(7, { irq := 0xF0 })] }
def wDmaRegistersAct_22 : State := { wUp with pcie := { wUp.pcie with msixOn := true, vecs := (List.range 64).map (fun k => (k, ({ masked := false } : MsixVec))) }, dmaDie := [(7, { irq := 0xF0, mask := 0 })] }
def wDmaTransfersMove_23 : State := { dmS { dq with desc := 3#64 <<< 60, fetching := true, curDesc := 2 } with tb := 999 }
def wDmaTransfersMove_24 : State := dmS { dq with desc := 3#64 <<< 60, fetching := true, curDesc := 2, haltAt := some 1000 }
def wDmaTransfersMove_25 : State := { fs with ddr := [(14, { st := .train })] }
def wDmaTransfersMove_26 : State := dmS { rq with inflight := [] , st := .halted }
def wDmaTransfersMove_28 : State := dmS { rq with inflight := [64] }
def wDmaTransfersMove_29 : State := dmS { rq with moved := 536, remain := 64, inflight := [64] }
def wDmaTransfersMove_30 : State := dmS { rq with dst := 6#64 <<< 60, moved := 536, remain := 64, inflight := [64] }
def wDmaTransfersMove_33 : BitVec 64 := (1#64 <<< 60) + 5
def wDmaTransfersMove_35 : BitVec 64 := (2#64 <<< 60) + 5
def wDmaTransfersMove_37 : BitVec 64 := (3#64 <<< 60) + (7#64 <<< 56) + 0x8000
def wDmaTransfersMove_39 : BitVec 64 := (4#64 <<< 60) + 5
def wDmaTransfersMove_41 : BitVec 64 := 6#64 <<< 60
def wDmaTransfersMove_43 : State := dmS { rq with inflight := [64, 64], dst := 4#64 <<< 60 }
def wDmaTransfersMove_44 : List Nat := [64]
def wDmaTransfersMove_45 : State := dmS { rq with inflight := [64, 64], src := (1#64 <<< 60) + 0x7FFFE0, dst := 4#64 <<< 60 }
def wDmaTransfersMove_46 : List Nat := [64]
def wDmaTransfersMove_47 : State := dmS { rq with inflight := [64, 64], dst := 1#64 <<< 60, moved := 64, remain := 128 }
def wDmaTransfersMove_48 : List Nat := [64]
def wDmaTransfersMove_49 : List Nat := [64]
def wDmaTransfersMove_50 : State := dmS { rq with inflight := [64, 64], dst := 4#64 <<< 60 }
def wDmaTransfersMove_51 : List Nat := [64]
def wDmaTransfersMove_52 : State := { dmS { rq with inflight := [64] } with dramPoison := [dramBlkKey 7 0 0x4000] }
def wDmaTransfersMove_53 : State := { wUp with dma := [(3, { rq with inflight := [64], src := 4#64 <<< 60 })] }
def wDmaTransfersMove_54 : State := { dmS { rq with inflight := [64] } with ddr := [(14, { st := .retrain })] }
def wDmaTransfersMove_55 : State := dmS { rb with armed := true, shSrc := 0x4000, shDst := 0x8000, shCount := 64 }
def wDmaTransfersMove_56 : State := dmS { rb with chain := true, desc := 0x40, curDesc := 2, curNext := 3 }
def wDmaTransfersMove_57 : State := { dmS { rb with evt := true, evtLine := 9 } with dma := (226, { use := 2, st := .wait, trig := 9 }) :: [(227, { rb with evt := true, evtLine := 9 })] }
def wDmaTransfersMove_58 : State := { wUp with dma := [(3, { rb with dst := 4#64 <<< 60 })] }
def wDmaTransfersMove_59 : State := dmS { rb with dst := 4#64 <<< 60 }
def wDmaTransfersMove_60 : State := { wUp with fabric := [⟨0, none, [7], .block ⟨3, 7, 0x8000, [1]⟩⟩], dma := [(3, { rb with dst := (3#64 <<< 60) + (7#64 <<< 56) + 0x8000 })] }
def wDmaTransfersMove_61 : State := fwd { rb with dst := (3#64 <<< 60) + (7#64 <<< 56) } { bb with addr := 0x3FFFFFFFF }
def wDmaTransfersMove_62 : BlockBurst := { bb with addr := 0x3FFFFFFFF }
def wDmaTransfersMove_63 : State := { fwd rb bb with dma := [] }
def wDmaTransfersMove_64 : State := { fwd rb bb with ddr := [(14, { st := .train })] }
def wDramRequestsAndBursts_65 : State := ddS { st := .active }
def wDramRequestsAndBursts_66 : List DReq := [rr, { rwq with id := 5 }]
def wDramRequestsAndBursts_67 : State := ddS { st := .active }
def wDramRequestsAndBursts_68 : List DReq := [{ rr with reader := .band 0 }, { rwq with id := 5, reader := .manager }, { rwq with id := 6, addr := 0x4200 }]
def wDramRequestsAndBursts_69 : State := ddS { st := .active, queue := fullQ }
def wDramRequestsAndBursts_70 : State := ddS { st := .active }
def wDramRequestsAndBursts_71 : DReq := { rr with len := 513 }
def wDramRequestsAndBursts_72 : State := ddS { st := .active }
def wDramRequestsAndBursts_73 : List Nat := [4, 7]
def wDramRequestsAndBursts_74 : Slot := ((pickSlot (ddS cq) 7 cq [4, 7]).getD ⟨.bulk, wt rr, 0⟩)
def wDramRequestsAndBursts_75 : List Nat := [4, 7]
def wDramRequestsAndBursts_76 : Slot := ((pickSlot (ddS cq) 7 cq [4, 7]).getD ⟨.bulk, wt rr, 0⟩)
def wDramRequestsAndBursts_77 : DWait := wt { rbd with addr := 0x8000 }
def wDramRequestsAndBursts_78 : State := ddS { st := .active, queue := [wt rr] }
def wDramRequestsAndBursts_79 : List Nat := [4]
def wDramRequestsAndBursts_80 : State := ddS { st := .active, queue := [wt { rr with len := 128 }] }
def wDramRequestsAndBursts_81 : DWait := wt { rr with len := 128 }
def wDramRequestsAndBursts_82 : List Nat := [4]
def wDramRequestsAndBursts_83 : State := ddS { st := .active, queue := [wt rwq] }
def wDramRequestsAndBursts_84 : List Nat := [4]
def wDramRequestsAndBursts_85 : State := ddS { st := .retrain, queue := [wt rwq] }
def wDramRequestsAndBursts_86 : List Nat := [4]
def wDramRequestsAndBursts_87 : State := ddS { st := .active, queue := [wt rwq] }
def wDramRequestsAndBursts_88 : List Nat := [5]
def wDramReadsAndUpkeep_95 : BitVec 512 := 1#512 <<< 511
def wDramReadsAndUpkeep_96 : BitVec 64 := 1#64 <<< 63
def wDramReadsAndUpkeep_97 : BitVec 512 := 1#512 <<< 3 ^^^ (1#512 <<< 511)
def wDramReadsAndUpkeep_98 : State := { isM with dramPoison := [dramBlkKey 7 0 (chOff wUp 7 0x8000000)] }
def wDramReadsAndUpkeep_99 : State := { is1 with dramPoison := [dramBlkKey 7 0 0x4000] }
def wDramReadsAndUpkeep_100 : State := ddS {}
def wDramReadsAndUpkeep_101 : State := ddS { st := .active, openRow := [(15, 9)] }
def wDramReadsAndUpkeep_102 : State := ddS { st := .active, openRow := [(15, 9)], debts := [(15, 7)] }
def wDramReadsAndUpkeep_103 : State := ddS { st := .active, queue := qu }
def wDramReadsAndUpkeep_104 : State := ddS { st := .active, debts := [(15, -8)] }
def wDramReadsAndUpkeep_105 : State := ddS { st := .active, openRow := [(15, 9)] }
def wDramReadsAndUpkeep_106 : State := ddS { st := .train }
def wDramReadsAndUpkeep_107 : State := ddS { st := .active, minRate := 0 }
def wDramReadsAndUpkeep_108 : State := ddS { st := .active, minRate := 0 }
def wDramReadsAndUpkeep_109 : State := ddS { st := .active }
def wDramReadsAndUpkeep_110 : State := ddS { st := .active }
def wDramReadsAndUpkeep_111 : State := ddS { st := .train }
def wDramReadsAndUpkeep_112 : State := ddS { st := .retrain, wantRetrain := true }
def wDramReadsAndUpkeep_113 : State := ddS { st := .retrain, repairs := [5] }
def wDramReadsAndUpkeep_114 : State := ddS { st := .retrain, wantRetrain := true }
def wDramReadsAndUpkeep_115 : State := ddS { st := .active }
def wDramReadsAndUpkeep_116 : State := ddS { st := .train, wantRetrain := true }
def wDramReadsAndUpkeep_118 : State := ddS { st := .train, wantRetrain := true }
def wDramReadsAndUpkeep_120 : State := ddS { st := .train, trainTries := 1 }
def wDramReadsAndUpkeep_122 : State := ddS { st := .active }
def wDramReadsAndUpkeep_123 : State := dOff { trn := { pattern := 2 } }
def wDramReadsAndUpkeep_124 : State := dOff { st := .active }
def wDramReadsAndUpkeep_125 : State := ddS { st := .active, corr := 3 }
def wDramReadsAndUpkeep_126 : State := dOff { trnRun := some tc }
def wDramReadsAndUpkeep_127 : List TrnErr := [⟨3, 5, 0x11⟩, ⟨3, 6, 0x10⟩]
def wDramReadsAndUpkeep_128 : State := dOff { trnRun := some { tc with op := 1 } }
def wDramReadsAndUpkeep_129 : TrnCtl := { tc with op := 1 }
def wDramReadsAndUpkeep_130 : State := dOff { trnRun := some { tc with op := 2 } }
def wDramReadsAndUpkeep_131 : TrnCtl := { tc with op := 2 }
def wDramReadsAndUpkeep_132 : State := ddS {}
def wDramReadsAndUpkeep_133 : State := ddS { st := .active, tracker := [(15, 2), (40, 1)], scrNext := 1 }
def wDramReadsAndUpkeep_134 : State := ddS { st := .active, scrNext := 1 }
def wDramReadsAndUpkeep_135 : State := ddS { st := .active, scrNext := 1 }
def wDramReadsAndUpkeep_137 : State := ddS { st := .active, scrNext := mgtRegion / 512 }
def wDramReadsAndUpkeep_138 : State := ddS { st := .active, scrEnable := false }
def wArraysScrubAndMarch_139 : State := scS { tracker := [(ab, 1)] }
def wArraysScrubAndMarch_140 : State := scS {}
def wArraysScrubAndMarch_141 : State := scS { tracker := [(ab, 2)] }
def wArraysScrubAndMarch_142 : State := scS { tracker := [(ab, 3)] }
def wArraysScrubAndMarch_143 : State := scS {}
def wArraysScrubAndMarch_144 : State := scS { enable := false }
def wArraysScrubAndMarch_145 : State := { wUp with flips := [(ab, 1#80 <<< 63)] }
def wArraysScrubAndMarch_146 : State := { wUp with scrubs := [(7, { repairing := [ab] })] }
def wArraysScrubAndMarch_148 : State := dOffM {}
def wArraysScrubAndMarch_149 : State := dOffM { index := 40 }
def wArraysScrubAndMarch_150 : State := dOffM { kind := 1, index := 65 }
def wArraysScrubAndMarch_151 : State := { wUp with marches := [(7, { busy := true, runMode := true })] }
def wArraysScrubAndMarch_152 : State := { bm with scrubs := [(7, { badSpares := (List.range 64).map (fun n => (rowOfBlk ab, n)) })] }
def wArraysScrubAndMarch_153 : State := { wUp with banks := [(2 ^ 23 * 7, 4), (2 ^ 23 * 7 + 2 ^ 18, 4)], poison := [ab], marches := [(7, { busy := true, runMode := false })] }
def wArraysScrubAndMarch_155 : State := { bm with marches := [(7, { busy := true, runMode := true, row := some (rowOfBlk ab), rowYields := 15 })] }
def wArraysScrubAndMarch_156 : State := { bm with marches := [(7, { busy := true, runMode := true, runKind := 2 })] }
def wArraysScrubAndMarch_157 : ArrBlock := ⟨.cellInstr, 16 * (66 * 7), 3⟩
def wArraysScrubAndMarch_158 : State := { wUp with conflicts := [(3, 4), (69 * 7 + 68, 9)] }
def wArraysScrubAndMarch_159 : State := { wUp with evqs := [(23, { high := 9, lost := 4 })] }
def wQueuesAndFabricDeliver_160 : State := { wUp with cmdq := List.replicate 1100 ⟨.ring 3, [7]⟩ }
def wQueuesAndFabricDeliver_163 : QItem := .bytes [1]
def wQueuesAndFabricDeliver_164 : QItem := .bytes [1]
def wQueuesAndFabricDeliver_166 : List CmdEntry := [⟨.ring 1, [2]⟩, ce]
def wQueuesAndFabricDeliver_167 : State := tq [.bytes [7], .bytes [8]]
def wQueuesAndFabricDeliver_168 : QItem := .bytes [7]
def wQueuesAndFabricDeliver_169 : List QItem := [.bytes [8]]
def wQueuesAndFabricDeliver_170 : State := tq (.bytes [7] :: it255)
def wQueuesAndFabricDeliver_171 : QItem := .bytes [7]
def wQueuesAndFabricDeliver_173 : State := { wUp with evqs := [(23, { items := [.bytes [7]] }), (21, { items := List.replicate 512 (.bytes [0]) })] }
def wQueuesAndFabricDeliver_174 : QItem := .bytes [7]
def wQueuesAndFabricDeliver_175 : InWord := ⟨0, 0, 0x1122334455667788, false⟩
def wQueuesAndFabricDeliver_176 : List InWord := [⟨0, 1, 9, false⟩]
def wQueuesAndFabricDeliver_177 : FrameDecl := ⟨0x100, 2, 2, 1⟩
def wQueuesAndFabricDeliver_178 : Nat × Nat × BitVec 64 := (0, 6, 0x77)
def wQueuesAndFabricDeliver_179 : List (Nat × Nat × BitVec 64) := [(0, 0, 0x78)]
def wQueuesAndFabricDeliver_180 : Nat × Nat × BitVec 64 := (0, 6, 0x77)
def wQueuesAndFabricDeliver_181 : List (Nat × Nat × BitVec 64) := [(0, 0, 0x78)]
def wQueuesAndFabricDeliver_182 : List (BitVec 72) := [3#72]
def wQueuesAndFabricDeliver_184 : List (List Byte × BitVec 16) := gsG ++ gsB
def wQueuesAndFabricDeliver_185 : State := { p0 with fabric := [⟨3, none, [0], .beat 5⟩] }
def wQueuesAndFabricDeliver_186 : State := { pu 2 with fabric := [⟨4, some 3, [7], .halo 65 true 9⟩] }
def wQueuesAndFabricDeliver_187 : State := { pu 2 with fabric := [⟨4, none, [7], .block bb⟩] }
def wQueuesAndFabricDeliver_188 : State := { pu 0 with fabric := [⟨4, none, [7, 6, 5], .block bb⟩] }
def wQueuesAndFabricDeliver_189 : List Nat := [5]
def wQueuesAndFabricDeliver_190 : State := { pt 1 with fabric := [⟨4, none, [7], .block bb⟩, ⟨4, none, [5], .block bb⟩] }
def wQueuesAndFabricDeliver_191 : State := { pt 1 with gram := { wGram false with routes := [⟨5, 2, [0, 4, 7]⟩] } }
def wQueuesAndFabricDeliver_192 : Route := ⟨5, 2, [0, 4, 7]⟩
def wArrayCodeClassesSyndromes_193 : BitVec 80 := 1#80 <<< 63
def wArrayCodeClassesSyndromes_194 : BitVec 80 := 1#80 <<< 79
def wArrayCodeClassesSyndromes_195 : BitVec 80 := 3#80 <<< 64
def wArrayCodeClassesSyndromes_196 : BitVec 80 := 3#80 <<< 72

theorem witness_DmaRegistersAct :
    ((dmaOk (dmS dq) 7 3 = true) ∧ ((loaded (dmaAt (dmS dq) (dmaIx 7 3)) none).st = DmaState.idle) ∧ ((loaded (dmaAt (dmS dq) (dmaIx 7 3)) none).fetching = false) ∧ (dmaServes (dmS dq) (loaded (dmaAt (dmS dq) (dmaIx 7 3)) none) = true) ∧ (fieldsOk (shadowed (loaded (dmaAt (dmS dq) (dmaIx 7 3)) none)) = true)) ∧
    ((dmaOk wDmaRegistersAct_0 7 3 = true) ∧ ((loaded (dmaAt wDmaRegistersAct_0 (dmaIx 7 3)) (some ld)).st = DmaState.idle) ∧ ((loaded (dmaAt wDmaRegistersAct_0 (dmaIx 7 3)) (some ld)).fetching = false) ∧ (dmaServes wDmaRegistersAct_0 (loaded (dmaAt wDmaRegistersAct_0 (dmaIx 7 3)) (some ld)) = true) ∧ (fieldsOk (shadowed (loaded (dmaAt wDmaRegistersAct_0 (dmaIx 7 3)) (some ld))) = true)) ∧
    ((dmaOk wDmaRegistersAct_1 7 3 = true) ∧ ((loaded (dmaAt wDmaRegistersAct_1 (dmaIx 7 3)) none).st = DmaState.idle) ∧ ((loaded (dmaAt wDmaRegistersAct_1 (dmaIx 7 3)) none).fetching = false) ∧ (dmaServes wDmaRegistersAct_1 (loaded (dmaAt wDmaRegistersAct_1 (dmaIx 7 3)) none) = true) ∧ (fieldsOk (shadowed (loaded (dmaAt wDmaRegistersAct_1 (dmaIx 7 3)) none)) = false) ∧ ((loaded (dmaAt wDmaRegistersAct_1 (dmaIx 7 3)) none).pz4 = false)) ∧
    ((dmaOk wDmaRegistersAct_2 7 3 = true) ∧ ((loaded (dmaAt wDmaRegistersAct_2 (dmaIx 7 3)) none).st = DmaState.idle) ∧ ((loaded (dmaAt wDmaRegistersAct_2 (dmaIx 7 3)) none).fetching = false) ∧ (dmaServes wDmaRegistersAct_2 (loaded (dmaAt wDmaRegistersAct_2 (dmaIx 7 3)) none) = true) ∧ (fieldsOk (shadowed (loaded (dmaAt wDmaRegistersAct_2 (dmaIx 7 3)) none)) = false) ∧ ((loaded (dmaAt wDmaRegistersAct_2 (dmaIx 7 3)) none).pz4 = false)) ∧
    ((dmaOk wDmaRegistersAct_3 7 3 = true) ∧ ((loaded (dmaAt wDmaRegistersAct_3 (dmaIx 7 3)) none).st = DmaState.idle) ∧ ((loaded (dmaAt wDmaRegistersAct_3 (dmaIx 7 3)) none).fetching = false) ∧ (dmaServes wDmaRegistersAct_3 (loaded (dmaAt wDmaRegistersAct_3 (dmaIx 7 3)) none) = true) ∧ (fieldsOk (shadowed (loaded (dmaAt wDmaRegistersAct_3 (dmaIx 7 3)) none)) = false) ∧ ((loaded (dmaAt wDmaRegistersAct_3 (dmaIx 7 3)) none).pz4 = false)) ∧
    ((dmaOk wDmaRegistersAct_4 7 3 = true) ∧ ((loaded (dmaAt wDmaRegistersAct_4 (dmaIx 7 3)) (some ld)).st ≠ DmaState.idle) ∧ ((loaded (dmaAt wDmaRegistersAct_4 (dmaIx 7 3)) (some ld)).st ≠ DmaState.fenced) ∧ ((loaded (dmaAt wDmaRegistersAct_4 (dmaIx 7 3)) (some ld)).fetching = false) ∧ ((loaded (dmaAt wDmaRegistersAct_4 (dmaIx 7 3)) (some ld)).chain = false) ∧ (dmaServes wDmaRegistersAct_4 (loaded (dmaAt wDmaRegistersAct_4 (dmaIx 7 3)) (some ld)) = true)) ∧
    ((dmaOk wDmaRegistersAct_5 7 3 = true) ∧ ((loaded (dmaAt wDmaRegistersAct_5 (dmaIx 7 3)) (some ld)).st ≠ DmaState.fenced) ∧ ((loaded (dmaAt wDmaRegistersAct_5 (dmaIx 7 3)) (some ld)).chained = true) ∧ (dmaServes wDmaRegistersAct_5 (loaded (dmaAt wDmaRegistersAct_5 (dmaIx 7 3)) (some ld)) = true)) ∧
    (((dmaAt wDmaRegistersAct_6 (dmaIx 7 3)).st = DmaState.fenced ∨ dmaServes wDmaRegistersAct_6 (dmaAt wDmaRegistersAct_6 (dmaIx 7 3)) = false)) ∧
    (((dmaAt wDmaRegistersAct_7 (dmaIx 7 3)).st = DmaState.fenced ∨ dmaServes wDmaRegistersAct_7 (dmaAt wDmaRegistersAct_7 (dmaIx 7 3)) = false)) ∧
    ((dmaOk (dmS dq) 7 32 = false) ∧ (Instr.dmaAbort 7 32 ∈ dmaCommands 7 32 (some ld) (5#64) DmaErr.ok wDmaRegistersAct_8)) ∧
    ((dmaOk wDmaRegistersAct_9 7 3 = true) ∧ ((dmaAt wDmaRegistersAct_9 (dmaIx 7 3)).st = DmaState.idle) ∧ ((dmaAt wDmaRegistersAct_9 (dmaIx 7 3)).armed = false) ∧ ((dmaAt wDmaRegistersAct_9 (dmaIx 7 3)).fetching = false) ∧ ((dmaAt wDmaRegistersAct_9 (dmaIx 7 3)).tail = 0#32) ∧ (dmaServes wDmaRegistersAct_9 (dmaAt wDmaRegistersAct_9 (dmaIx 7 3)) = true)) ∧
    ((dmaOk wDmaRegistersAct_10 7 3 = true) ∧ ((dmaAt wDmaRegistersAct_10 (dmaIx 7 3)).st = DmaState.idle) ∧ ((dmaAt wDmaRegistersAct_10 (dmaIx 7 3)).armed = false) ∧ ((dmaAt wDmaRegistersAct_10 (dmaIx 7 3)).fetching = false) ∧ ((dmaAt wDmaRegistersAct_10 (dmaIx 7 3)).tail ≠ 0#32) ∧ (dmaServes wDmaRegistersAct_10 (dmaAt wDmaRegistersAct_10 (dmaIx 7 3)) = true)) ∧
    ((dmaOk wDmaRegistersAct_11 7 3 = true) ∧ ((dmaAt wDmaRegistersAct_11 (dmaIx 7 3)).st ≠ DmaState.fenced) ∧ ((dmaAt wDmaRegistersAct_11 (dmaIx 7 3)).st ≠ DmaState.halted) ∧ ((dmaAt wDmaRegistersAct_11 (dmaIx 7 3)).armed = false) ∧ ((dmaAt wDmaRegistersAct_11 (dmaIx 7 3)).chained = true) ∧ (dmaServes wDmaRegistersAct_11 (dmaAt wDmaRegistersAct_11 (dmaIx 7 3)) = true)) ∧
    ((dmaOk wDmaRegistersAct_12 7 3 = true) ∧ ((dmaAt wDmaRegistersAct_12 (dmaIx 7 3)).st ≠ DmaState.fenced) ∧ (dmaServes wDmaRegistersAct_12 (dmaAt wDmaRegistersAct_12 (dmaIx 7 3)) = true) ∧ ((dmaAt wDmaRegistersAct_12 (dmaIx 7 3)).armed = true ∨ (dmaAt wDmaRegistersAct_12 (dmaIx 7 3)).st ∈ [DmaState.run, DmaState.wait, DmaState.readback] ∧ (dmaAt wDmaRegistersAct_12 (dmaIx 7 3)).chained = false)) ∧
    ((dmaOk wDmaRegistersAct_13 7 3 = true) ∧ ((dmaAt wDmaRegistersAct_13 (dmaIx 7 3)).st ≠ DmaState.fenced) ∧ (dmaServes wDmaRegistersAct_13 (dmaAt wDmaRegistersAct_13 (dmaIx 7 3)) = true) ∧ ((dmaAt wDmaRegistersAct_13 (dmaIx 7 3)).armed = true ∨ (dmaAt wDmaRegistersAct_13 (dmaIx 7 3)).st ∈ [DmaState.run, DmaState.wait, DmaState.readback] ∧ (dmaAt wDmaRegistersAct_13 (dmaIx 7 3)).chained = false)) ∧
    (((dmaAt wDmaRegistersAct_14 (dmaIx 7 3)).st = DmaState.halted) ∧ ((dmaAt wDmaRegistersAct_14 (dmaIx 7 3)).armed = false)) ∧
    ((dmaOk wDmaRegistersAct_15 7 3 = true) ∧ ((dmaAt wDmaRegistersAct_15 (dmaIx 7 3)).st = DmaState.idle) ∧ ((dmaAt wDmaRegistersAct_15 (dmaIx 7 3)).fetching = false) ∧ (dmaServes wDmaRegistersAct_15 (dmaAt wDmaRegistersAct_15 (dmaIx 7 3)) = true)) ∧
    ((dmaOk wDmaRegistersAct_16 7 3 = true) ∧ ((dmaAt wDmaRegistersAct_16 (dmaIx 7 3)).st ≠ DmaState.idle ∨ (dmaAt wDmaRegistersAct_16 (dmaIx 7 3)).fetching = true) ∧ (dmaServes wDmaRegistersAct_16 (dmaAt wDmaRegistersAct_16 (dmaIx 7 3)) = true)) ∧
    ((dmaServes wDmaRegistersAct_17 (dmaAt wDmaRegistersAct_17 (dmaIx 7 3)) = false)) ∧
    ((dmaOk wDmaRegistersAct_18 7 3 = true) ∧ ((dmaAt wDmaRegistersAct_18 (dmaIx 7 3)).st ≠ DmaState.fenced)) ∧
    (((dmaAt wDmaRegistersAct_19 (dmaIx 7 3)).st = DmaState.fenced)) ∧
    ((dmaOk wDmaRegistersAct_20 7 3 = true)) ∧
    ((arrives wDmaRegistersAct_21 7 = true) ∧ ((dmaDieAt wDmaRegistersAct_21 7).irq &&& ~~~4294967280#32 &&& ~~~(dmaDieAt wDmaRegistersAct_21 7).mask = 0#32)) ∧
    ((arrives wDmaRegistersAct_22 7 = true) ∧ ((dmaDieAt wDmaRegistersAct_22 7).irq &&& ~~~16#32 &&& ~~~(dmaDieAt wDmaRegistersAct_22 7).mask ≠ 0#32) ∧ (wDmaRegistersAct_22.pcie.d3hot = false) ∧ (vecOpen wDmaRegistersAct_22 (8 + 7) = true) ∧ (wDmaRegistersAct_22.pcie.linkUp = true)) ∧
    ((arrives wUp 8 = false)) := by
  refine ⟨?_, ?_, ?_, ?_, ?_, ?_, ?_, ?_, ?_, ?_, ?_, ?_, ?_, ?_, ?_, ?_, ?_, ?_, ?_, ?_, ?_, ?_, ?_, ?_, ?_⟩
  all_goals decide +kernel

theorem witness_DmaTransfersMove :
    ((dmaOk fs 7 3 = true) ∧ ((dmaAt fs (dmaIx 7 3)).fetching = true) ∧ ((dmaAt fs (dmaIx 7 3)).refetch = false) ∧ (dmaHeld fs 7 (descAddr (dmaAt fs (dmaIx 7 3)) (dmaAt fs (dmaIx 7 3)).curDesc) 32 = false) ∧ (descBad fs 7 (dmaAt fs (dmaIx 7 3)) (dmaAt fs (dmaIx 7 3)).curDesc = false) ∧ (dmaPoison (dmaTouch fs 7 (descAddr (dmaAt fs (dmaIx 7 3)) (dmaAt fs (dmaIx 7 3)).curDesc) 32) 7 (descAddr (dmaAt fs (dmaIx 7 3)) (dmaAt fs (dmaIx 7 3)).curDesc) 32 = false) ∧ (leAt (dmaRead (dmaTouch fs 7 (descAddr (dmaAt fs (dmaIx 7 3)) (dmaAt fs (dmaIx 7 3)).curDesc) 32) 7 (descAddr (dmaAt fs (dmaIx 7 3)) (dmaAt fs (dmaIx 7 3)).curDesc) 32 []).fst 19 1 = 0) ∧ (leAt (dmaRead (dmaTouch fs 7 (descAddr (dmaAt fs (dmaIx 7 3)) (dmaAt fs (dmaIx 7 3)).curDesc) 32) 7 (descAddr (dmaAt fs (dmaIx 7 3)) (dmaAt fs (dmaIx 7 3)).curDesc) 32 []).fst 24 2 / 8 = 0) ∧ (fieldsOk { trig := (dmaAt fs (dmaIx 7 3)).trig, use := (dmaAt fs (dmaIx 7 3)).use, req := (dmaAt fs (dmaIx 7 3)).req, pz4 := (dmaAt fs (dmaIx 7 3)).pz4, prio := (dmaAt fs (dmaIx 7 3)).prio, st := (dmaAt fs (dmaIx 7 3)).st, armed := (dmaAt fs (dmaIx 7 3)).armed, cause := (dmaAt fs (dmaIx 7 3)).cause, remain := (dmaAt fs (dmaIx 7 3)).remain, ign := (dmaAt fs (dmaIx 7 3)).ign, src := BitVec.ofNat 64 (leAt (dmaRead (dmaTouch fs 7 (descAddr (dmaAt fs (dmaIx 7 3)) (dmaAt fs (dmaIx 7 3)).curDesc) 32) 7 (descAddr (dmaAt fs (dmaIx 7 3)) (dmaAt fs (dmaIx 7 3)).curDesc) 32 []).fst 0 8), dst := BitVec.ofNat 64 (leAt (dmaRead (dmaTouch fs 7 (descAddr (dmaAt fs (dmaIx 7 3)) (dmaAt fs (dmaIx 7 3)).curDesc) 32) 7 (descAddr (dmaAt fs (dmaIx 7 3)) (dmaAt fs (dmaIx 7 3)).curDesc) 32 []).fst 8 8), evt := (leAt (dmaRead (dmaTouch fs 7 (descAddr (dmaAt fs (dmaIx 7 3)) (dmaAt fs (dmaIx 7 3)).curDesc) 32) 7 (descAddr (dmaAt fs (dmaIx 7 3)) (dmaAt fs (dmaIx 7 3)).curDesc) 32 []).fst 24 2).testBit 1, evtLine := byteAt (dmaRead (dmaTouch fs 7 (descAddr (dmaAt fs (dmaIx 7 3)) (dmaAt fs (dmaIx 7 3)).curDesc) 32) 7 (descAddr (dmaAt fs (dmaIx 7 3)) (dmaAt fs (dmaIx 7 3)).curDesc) 32 []).fst 26, count := BitVec.ofNat 24 (leAt (dmaRead (dmaTouch fs 7 (descAddr (dmaAt fs (dmaIx 7 3)) (dmaAt fs (dmaIx 7 3)).curDesc) 32) 7 (descAddr (dmaAt fs (dmaIx 7 3)) (dmaAt fs (dmaIx 7 3)).curDesc) 32 []).fst 16 3), moved := (dmaAt fs (dmaIx 7 3)).moved, shSrc := (dmaAt fs (dmaIx 7 3)).shSrc, shDst := (dmaAt fs (dmaIx 7 3)).shDst, shCount := (dmaAt fs (dmaIx 7 3)).shCount, shWait := (dmaAt fs (dmaIx 7 3)).shWait, shEvt := (dmaAt fs (dmaIx 7 3)).shEvt, shEvtLine := (dmaAt fs (dmaIx 7 3)).shEvtLine, desc := (dmaAt fs (dmaIx 7 3)).desc, err := (dmaAt fs (dmaIx 7 3)).err, crc := (dmaAt fs (dmaIx 7 3)).crc, running := (dmaAt fs (dmaIx 7 3)).running, tail := (dmaAt fs (dmaIx 7 3)).tail, okCnt := (dmaAt fs (dmaIx 7 3)).okCnt, badCnt := (dmaAt fs (dmaIx 7 3)).badCnt, halts := (dmaAt fs (dmaIx 7 3)).halts, chain := (dmaAt fs (dmaIx 7 3)).chain, curDesc := (dmaAt fs (dmaIx 7 3)).curDesc, curEnd := (leAt (dmaRead (dmaTouch fs 7 (descAddr (dmaAt fs (dmaIx 7 3)) (dmaAt fs (dmaIx 7 3)).curDesc) 32) 7 (descAddr (dmaAt fs (dmaIx 7 3)) (dmaAt fs (dmaIx 7 3)).curDesc) 32 []).fst 24 2).testBit 0, curNext := BitVec.ofNat 32 (leAt (dmaRead (dmaTouch fs 7 (descAddr (dmaAt fs (dmaIx 7 3)) (dmaAt fs (dmaIx 7 3)).curDesc) 32) 7 (descAddr (dmaAt fs (dmaIx 7 3)) (dmaAt fs (dmaIx 7 3)).curDesc) 32 []).fst 28 4), refetch := (dmaAt fs (dmaIx 7 3)).refetch, doorbell := (dmaAt fs (dmaIx 7 3)).doorbell, inflight := (dmaAt fs (dmaIx 7 3)).inflight, haltAt := (dmaAt fs (dmaIx 7 3)).haltAt, arg := (dmaAt fs (dmaIx 7 3)).arg : DmaCh } = true)) ∧
    ((dmaOk (fb 4 0) 7 3 = true) ∧ ((dmaAt (fb 4 0) (dmaIx 7 3)).fetching = true) ∧ ((dmaAt (fb 4 0) (dmaIx 7 3)).refetch = false) ∧ (dmaHeld (fb 4 0) 7 (descAddr (dmaAt (fb 4 0) (dmaIx 7 3)) (dmaAt (fb 4 0) (dmaIx 7 3)).curDesc) 32 = false) ∧ (descBad (fb 4 0) 7 (dmaAt (fb 4 0) (dmaIx 7 3)) (dmaAt (fb 4 0) (dmaIx 7 3)).curDesc = false) ∧ (dmaPoison (dmaTouch (fb 4 0) 7 (descAddr (dmaAt (fb 4 0) (dmaIx 7 3)) (dmaAt (fb 4 0) (dmaIx 7 3)).curDesc) 32) 7 (descAddr (dmaAt (fb 4 0) (dmaIx 7 3)) (dmaAt (fb 4 0) (dmaIx 7 3)).curDesc) 32 = false) ∧ (leAt (dmaRead (dmaTouch (fb 4 0) 7 (descAddr (dmaAt (fb 4 0) (dmaIx 7 3)) (dmaAt (fb 4 0) (dmaIx 7 3)).curDesc) 32) 7 (descAddr (dmaAt (fb 4 0) (dmaIx 7 3)) (dmaAt (fb 4 0) (dmaIx 7 3)).curDesc) 32 []).fst 19 1 ≠ 0 ∨ leAt (dmaRead (dmaTouch (fb 4 0) 7 (descAddr (dmaAt (fb 4 0) (dmaIx 7 3)) (dmaAt (fb 4 0) (dmaIx 7 3)).curDesc) 32) 7 (descAddr (dmaAt (fb 4 0) (dmaIx 7 3)) (dmaAt (fb 4 0) (dmaIx 7 3)).curDesc) 32 []).fst 24 2 / 8 ≠ 0 ∨ fieldsOk { trig := (dmaAt (fb 4 0) (dmaIx 7 3)).trig, use := (dmaAt (fb 4 0) (dmaIx 7 3)).use, req := (dmaAt (fb 4 0) (dmaIx 7 3)).req, pz4 := (dmaAt (fb 4 0) (dmaIx 7 3)).pz4, prio := (dmaAt (fb 4 0) (dmaIx 7 3)).prio, st := (dmaAt (fb 4 0) (dmaIx 7 3)).st, armed := (dmaAt (fb 4 0) (dmaIx 7 3)).armed, cause := (dmaAt (fb 4 0) (dmaIx 7 3)).cause, remain := (dmaAt (fb 4 0) (dmaIx 7 3)).remain, ign := (dmaAt (fb 4 0) (dmaIx 7 3)).ign, src := BitVec.ofNat 64 (leAt (dmaRead (dmaTouch (fb 4 0) 7 (descAddr (dmaAt (fb 4 0) (dmaIx 7 3)) (dmaAt (fb 4 0) (dmaIx 7 3)).curDesc) 32) 7 (descAddr (dmaAt (fb 4 0) (dmaIx 7 3)) (dmaAt (fb 4 0) (dmaIx 7 3)).curDesc) 32 []).fst 0 8), dst := BitVec.ofNat 64 (leAt (dmaRead (dmaTouch (fb 4 0) 7 (descAddr (dmaAt (fb 4 0) (dmaIx 7 3)) (dmaAt (fb 4 0) (dmaIx 7 3)).curDesc) 32) 7 (descAddr (dmaAt (fb 4 0) (dmaIx 7 3)) (dmaAt (fb 4 0) (dmaIx 7 3)).curDesc) 32 []).fst 8 8), evt := (leAt (dmaRead (dmaTouch (fb 4 0) 7 (descAddr (dmaAt (fb 4 0) (dmaIx 7 3)) (dmaAt (fb 4 0) (dmaIx 7 3)).curDesc) 32) 7 (descAddr (dmaAt (fb 4 0) (dmaIx 7 3)) (dmaAt (fb 4 0) (dmaIx 7 3)).curDesc) 32 []).fst 24 2).testBit 1, evtLine := byteAt (dmaRead (dmaTouch (fb 4 0) 7 (descAddr (dmaAt (fb 4 0) (dmaIx 7 3)) (dmaAt (fb 4 0) (dmaIx 7 3)).curDesc) 32) 7 (descAddr (dmaAt (fb 4 0) (dmaIx 7 3)) (dmaAt (fb 4 0) (dmaIx 7 3)).curDesc) 32 []).fst 26, count := BitVec.ofNat 24 (leAt (dmaRead (dmaTouch (fb 4 0) 7 (descAddr (dmaAt (fb 4 0) (dmaIx 7 3)) (dmaAt (fb 4 0) (dmaIx 7 3)).curDesc) 32) 7 (descAddr (dmaAt (fb 4 0) (dmaIx 7 3)) (dmaAt (fb 4 0) (dmaIx 7 3)).curDesc) 32 []).fst 16 3), moved := (dmaAt (fb 4 0) (dmaIx 7 3)).moved, shSrc := (dmaAt (fb 4 0) (dmaIx 7 3)).shSrc, shDst := (dmaAt (fb 4 0) (dmaIx 7 3)).shDst, shCount := (dmaAt (fb 4 0) (dmaIx 7 3)).shCount, shWait := (dmaAt (fb 4 0) (dmaIx 7 3)).shWait, shEvt := (dmaAt (fb 4 0) (dmaIx 7 3)).shEvt, shEvtLine := (dmaAt (fb 4 0) (dmaIx 7 3)).shEvtLine, desc := (dmaAt (fb 4 0) (dmaIx 7 3)).desc, err := (dmaAt (fb 4 0) (dmaIx 7 3)).err, crc := (dmaAt (fb 4 0) (dmaIx 7 3)).crc, running := (dmaAt (fb 4 0) (dmaIx 7 3)).running, tail := (dmaAt (fb 4 0) (dmaIx 7 3)).tail, okCnt := (dmaAt (fb 4 0) (dmaIx 7 3)).okCnt, badCnt := (dmaAt (fb 4 0) (dmaIx 7 3)).badCnt, halts := (dmaAt (fb 4 0) (dmaIx 7 3)).halts, chain := (dmaAt (fb 4 0) (dmaIx 7 3)).chain, curDesc := (dmaAt (fb 4 0) (dmaIx 7 3)).curDesc, curEnd := (leAt (dmaRead (dmaTouch (fb 4 0) 7 (descAddr (dmaAt (fb 4 0) (dmaIx 7 3)) (dmaAt (fb 4 0) (dmaIx 7 3)).curDesc) 32) 7 (descAddr (dmaAt (fb 4 0) (dmaIx 7 3)) (dmaAt (fb 4 0) (dmaIx 7 3)).curDesc) 32 []).fst 24 2).testBit 0, curNext := BitVec.ofNat 32 (leAt (dmaRead (dmaTouch (fb 4 0) 7 (descAddr (dmaAt (fb 4 0) (dmaIx 7 3)) (dmaAt (fb 4 0) (dmaIx 7 3)).curDesc) 32) 7 (descAddr (dmaAt (fb 4 0) (dmaIx 7 3)) (dmaAt (fb 4 0) (dmaIx 7 3)).curDesc) 32 []).fst 28 4), refetch := (dmaAt (fb 4 0) (dmaIx 7 3)).refetch, doorbell := (dmaAt (fb 4 0) (dmaIx 7 3)).doorbell, inflight := (dmaAt (fb 4 0) (dmaIx 7 3)).inflight, haltAt := (dmaAt (fb 4 0) (dmaIx 7 3)).haltAt, arg := (dmaAt (fb 4 0) (dmaIx 7 3)).arg : DmaCh } = false) ∧ ((dmaAt (fb 4 0) (dmaIx 7 3)).chain = true) ∧ (dmaSpace (descAddr (dmaAt (fb 4 0) (dmaIx 7 3)) (dmaAt (fb 4 0) (dmaIx 7 3)).curDesc) = 0) ∧ ((dmaAt (fb 4 0) (dmaIx 7 3)).pz4 = false)) ∧
    ((dmaOk (fb 8 64) 7 3 = true) ∧ ((dmaAt (fb 8 64) (dmaIx 7 3)).fetching = true) ∧ ((dmaAt (fb 8 64) (dmaIx 7 3)).refetch = false) ∧ (dmaHeld (fb 8 64) 7 (descAddr (dmaAt (fb 8 64) (dmaIx 7 3)) (dmaAt (fb 8 64) (dmaIx 7 3)).curDesc) 32 = false) ∧ (descBad (fb 8 64) 7 (dmaAt (fb 8 64) (dmaIx 7 3)) (dmaAt (fb 8 64) (dmaIx 7 3)).curDesc = false) ∧ (dmaPoison (dmaTouch (fb 8 64) 7 (descAddr (dmaAt (fb 8 64) (dmaIx 7 3)) (dmaAt (fb 8 64) (dmaIx 7 3)).curDesc) 32) 7 (descAddr (dmaAt (fb 8 64) (dmaIx 7 3)) (dmaAt (fb 8 64) (dmaIx 7 3)).curDesc) 32 = false) ∧ (leAt (dmaRead (dmaTouch (fb 8 64) 7 (descAddr (dmaAt (fb 8 64) (dmaIx 7 3)) (dmaAt (fb 8 64) (dmaIx 7 3)).curDesc) 32) 7 (descAddr (dmaAt (fb 8 64) (dmaIx 7 3)) (dmaAt (fb 8 64) (dmaIx 7 3)).curDesc) 32 []).fst 19 1 ≠ 0 ∨ leAt (dmaRead (dmaTouch (fb 8 64) 7 (descAddr (dmaAt (fb 8 64) (dmaIx 7 3)) (dmaAt (fb 8 64) (dmaIx 7 3)).curDesc) 32) 7 (descAddr (dmaAt (fb 8 64) (dmaIx 7 3)) (dmaAt (fb 8 64) (dmaIx 7 3)).curDesc) 32 []).fst 24 2 / 8 ≠ 0 ∨ fieldsOk { trig := (dmaAt (fb 8 64) (dmaIx 7 3)).trig, use := (dmaAt (fb 8 64) (dmaIx 7 3)).use, req := (dmaAt (fb 8 64) (dmaIx 7 3)).req, pz4 := (dmaAt (fb 8 64) (dmaIx 7 3)).pz4, prio := (dmaAt (fb 8 64) (dmaIx 7 3)).prio, st := (dmaAt (fb 8 64) (dmaIx 7 3)).st, armed := (dmaAt (fb 8 64) (dmaIx 7 3)).armed, cause := (dmaAt (fb 8 64) (dmaIx 7 3)).cause, remain := (dmaAt (fb 8 64) (dmaIx 7 3)).remain, ign := (dmaAt (fb 8 64) (dmaIx 7 3)).ign, src := BitVec.ofNat 64 (leAt (dmaRead (dmaTouch (fb 8 64) 7 (descAddr (dmaAt (fb 8 64) (dmaIx 7 3)) (dmaAt (fb 8 64) (dmaIx 7 3)).curDesc) 32) 7 (descAddr (dmaAt (fb 8 64) (dmaIx 7 3)) (dmaAt (fb 8 64) (dmaIx 7 3)).curDesc) 32 []).fst 0 8), dst := BitVec.ofNat 64 (leAt (dmaRead (dmaTouch (fb 8 64) 7 (descAddr (dmaAt (fb 8 64) (dmaIx 7 3)) (dmaAt (fb 8 64) (dmaIx 7 3)).curDesc) 32) 7 (descAddr (dmaAt (fb 8 64) (dmaIx 7 3)) (dmaAt (fb 8 64) (dmaIx 7 3)).curDesc) 32 []).fst 8 8), evt := (leAt (dmaRead (dmaTouch (fb 8 64) 7 (descAddr (dmaAt (fb 8 64) (dmaIx 7 3)) (dmaAt (fb 8 64) (dmaIx 7 3)).curDesc) 32) 7 (descAddr (dmaAt (fb 8 64) (dmaIx 7 3)) (dmaAt (fb 8 64) (dmaIx 7 3)).curDesc) 32 []).fst 24 2).testBit 1, evtLine := byteAt (dmaRead (dmaTouch (fb 8 64) 7 (descAddr (dmaAt (fb 8 64) (dmaIx 7 3)) (dmaAt (fb 8 64) (dmaIx 7 3)).curDesc) 32) 7 (descAddr (dmaAt (fb 8 64) (dmaIx 7 3)) (dmaAt (fb 8 64) (dmaIx 7 3)).curDesc) 32 []).fst 26, count := BitVec.ofNat 24 (leAt (dmaRead (dmaTouch (fb 8 64) 7 (descAddr (dmaAt (fb 8 64) (dmaIx 7 3)) (dmaAt (fb 8 64) (dmaIx 7 3)).curDesc) 32) 7 (descAddr (dmaAt (fb 8 64) (dmaIx 7 3)) (dmaAt (fb 8 64) (dmaIx 7 3)).curDesc) 32 []).fst 16 3), moved := (dmaAt (fb 8 64) (dmaIx 7 3)).moved, shSrc := (dmaAt (fb 8 64) (dmaIx 7 3)).shSrc, shDst := (dmaAt (fb 8 64) (dmaIx 7 3)).shDst, shCount := (dmaAt (fb 8 64) (dmaIx 7 3)).shCount, shWait := (dmaAt (fb 8 64) (dmaIx 7 3)).shWait, shEvt := (dmaAt (fb 8 64) (dmaIx 7 3)).shEvt, shEvtLine := (dmaAt (fb 8 64) (dmaIx 7 3)).shEvtLine, desc := (dmaAt (fb 8 64) (dmaIx 7 3)).desc, err := (dmaAt (fb 8 64) (dmaIx 7 3)).err, crc := (dmaAt (fb 8 64) (dmaIx 7 3)).crc, running := (dmaAt (fb 8 64) (dmaIx 7 3)).running, tail := (dmaAt (fb 8 64) (dmaIx 7 3)).tail, okCnt := (dmaAt (fb 8 64) (dmaIx 7 3)).okCnt, badCnt := (dmaAt (fb 8 64) (dmaIx 7 3)).badCnt, halts := (dmaAt (fb 8 64) (dmaIx 7 3)).halts, chain := (dmaAt (fb 8 64) (dmaIx 7 3)).chain, curDesc := (dmaAt (fb 8 64) (dmaIx 7 3)).curDesc, curEnd := (leAt (dmaRead (dmaTouch (fb 8 64) 7 (descAddr (dmaAt (fb 8 64) (dmaIx 7 3)) (dmaAt (fb 8 64) (dmaIx 7 3)).curDesc) 32) 7 (descAddr (dmaAt (fb 8 64) (dmaIx 7 3)) (dmaAt (fb 8 64) (dmaIx 7 3)).curDesc) 32 []).fst 24 2).testBit 0, curNext := BitVec.ofNat 32 (leAt (dmaRead (dmaTouch (fb 8 64) 7 (descAddr (dmaAt (fb 8 64) (dmaIx 7 3)) (dmaAt (fb 8 64) (dmaIx 7 3)).curDesc) 32) 7 (descAddr (dmaAt (fb 8 64) (dmaIx 7 3)) (dmaAt (fb 8 64) (dmaIx 7 3)).curDesc) 32 []).fst 28 4), refetch := (dmaAt (fb 8 64) (dmaIx 7 3)).refetch, doorbell := (dmaAt (fb 8 64) (dmaIx 7 3)).doorbell, inflight := (dmaAt (fb 8 64) (dmaIx 7 3)).inflight, haltAt := (dmaAt (fb 8 64) (dmaIx 7 3)).haltAt, arg := (dmaAt (fb 8 64) (dmaIx 7 3)).arg : DmaCh } = false) ∧ ((dmaAt (fb 8 64) (dmaIx 7 3)).chain = true) ∧ (dmaSpace (descAddr (dmaAt (fb 8 64) (dmaIx 7 3)) (dmaAt (fb 8 64) (dmaIx 7 3)).curDesc) = 0) ∧ ((dmaAt (fb 8 64) (dmaIx 7 3)).pz4 = false)) ∧
    ((dmaOk (fb 1 0) 7 3 = true) ∧ ((dmaAt (fb 1 0) (dmaIx 7 3)).fetching = true) ∧ ((dmaAt (fb 1 0) (dmaIx 7 3)).refetch = false) ∧ (dmaHeld (fb 1 0) 7 (descAddr (dmaAt (fb 1 0) (dmaIx 7 3)) (dmaAt (fb 1 0) (dmaIx 7 3)).curDesc) 32 = false) ∧ (descBad (fb 1 0) 7 (dmaAt (fb 1 0) (dmaIx 7 3)) (dmaAt (fb 1 0) (dmaIx 7 3)).curDesc = false) ∧ (dmaPoison (dmaTouch (fb 1 0) 7 (descAddr (dmaAt (fb 1 0) (dmaIx 7 3)) (dmaAt (fb 1 0) (dmaIx 7 3)).curDesc) 32) 7 (descAddr (dmaAt (fb 1 0) (dmaIx 7 3)) (dmaAt (fb 1 0) (dmaIx 7 3)).curDesc) 32 = false) ∧ (leAt (dmaRead (dmaTouch (fb 1 0) 7 (descAddr (dmaAt (fb 1 0) (dmaIx 7 3)) (dmaAt (fb 1 0) (dmaIx 7 3)).curDesc) 32) 7 (descAddr (dmaAt (fb 1 0) (dmaIx 7 3)) (dmaAt (fb 1 0) (dmaIx 7 3)).curDesc) 32 []).fst 19 1 ≠ 0 ∨ leAt (dmaRead (dmaTouch (fb 1 0) 7 (descAddr (dmaAt (fb 1 0) (dmaIx 7 3)) (dmaAt (fb 1 0) (dmaIx 7 3)).curDesc) 32) 7 (descAddr (dmaAt (fb 1 0) (dmaIx 7 3)) (dmaAt (fb 1 0) (dmaIx 7 3)).curDesc) 32 []).fst 24 2 / 8 ≠ 0 ∨ fieldsOk { trig := (dmaAt (fb 1 0) (dmaIx 7 3)).trig, use := (dmaAt (fb 1 0) (dmaIx 7 3)).use, req := (dmaAt (fb 1 0) (dmaIx 7 3)).req, pz4 := (dmaAt (fb 1 0) (dmaIx 7 3)).pz4, prio := (dmaAt (fb 1 0) (dmaIx 7 3)).prio, st := (dmaAt (fb 1 0) (dmaIx 7 3)).st, armed := (dmaAt (fb 1 0) (dmaIx 7 3)).armed, cause := (dmaAt (fb 1 0) (dmaIx 7 3)).cause, remain := (dmaAt (fb 1 0) (dmaIx 7 3)).remain, ign := (dmaAt (fb 1 0) (dmaIx 7 3)).ign, src := BitVec.ofNat 64 (leAt (dmaRead (dmaTouch (fb 1 0) 7 (descAddr (dmaAt (fb 1 0) (dmaIx 7 3)) (dmaAt (fb 1 0) (dmaIx 7 3)).curDesc) 32) 7 (descAddr (dmaAt (fb 1 0) (dmaIx 7 3)) (dmaAt (fb 1 0) (dmaIx 7 3)).curDesc) 32 []).fst 0 8), dst := BitVec.ofNat 64 (leAt (dmaRead (dmaTouch (fb 1 0) 7 (descAddr (dmaAt (fb 1 0) (dmaIx 7 3)) (dmaAt (fb 1 0) (dmaIx 7 3)).curDesc) 32) 7 (descAddr (dmaAt (fb 1 0) (dmaIx 7 3)) (dmaAt (fb 1 0) (dmaIx 7 3)).curDesc) 32 []).fst 8 8), evt := (leAt (dmaRead (dmaTouch (fb 1 0) 7 (descAddr (dmaAt (fb 1 0) (dmaIx 7 3)) (dmaAt (fb 1 0) (dmaIx 7 3)).curDesc) 32) 7 (descAddr (dmaAt (fb 1 0) (dmaIx 7 3)) (dmaAt (fb 1 0) (dmaIx 7 3)).curDesc) 32 []).fst 24 2).testBit 1, evtLine := byteAt (dmaRead (dmaTouch (fb 1 0) 7 (descAddr (dmaAt (fb 1 0) (dmaIx 7 3)) (dmaAt (fb 1 0) (dmaIx 7 3)).curDesc) 32) 7 (descAddr (dmaAt (fb 1 0) (dmaIx 7 3)) (dmaAt (fb 1 0) (dmaIx 7 3)).curDesc) 32 []).fst 26, count := BitVec.ofNat 24 (leAt (dmaRead (dmaTouch (fb 1 0) 7 (descAddr (dmaAt (fb 1 0) (dmaIx 7 3)) (dmaAt (fb 1 0) (dmaIx 7 3)).curDesc) 32) 7 (descAddr (dmaAt (fb 1 0) (dmaIx 7 3)) (dmaAt (fb 1 0) (dmaIx 7 3)).curDesc) 32 []).fst 16 3), moved := (dmaAt (fb 1 0) (dmaIx 7 3)).moved, shSrc := (dmaAt (fb 1 0) (dmaIx 7 3)).shSrc, shDst := (dmaAt (fb 1 0) (dmaIx 7 3)).shDst, shCount := (dmaAt (fb 1 0) (dmaIx 7 3)).shCount, shWait := (dmaAt (fb 1 0) (dmaIx 7 3)).shWait, shEvt := (dmaAt (fb 1 0) (dmaIx 7 3)).shEvt, shEvtLine := (dmaAt (fb 1 0) (dmaIx 7 3)).shEvtLine, desc := (dmaAt (fb 1 0) (dmaIx 7 3)).desc, err := (dmaAt (fb 1 0) (dmaIx 7 3)).err, crc := (dmaAt (fb 1 0) (dmaIx 7 3)).crc, running := (dmaAt (fb 1 0) (dmaIx 7 3)).running, tail := (dmaAt (fb 1 0) (dmaIx 7 3)).tail, okCnt := (dmaAt (fb 1 0) (dmaIx 7 3)).okCnt, badCnt := (dmaAt (fb 1 0) (dmaIx 7 3)).badCnt, halts := (dmaAt (fb 1 0) (dmaIx 7 3)).halts, chain := (dmaAt (fb 1 0) (dmaIx 7 3)).chain, curDesc := (dmaAt (fb 1 0) (dmaIx 7 3)).curDesc, curEnd := (leAt (dmaRead (dmaTouch (fb 1 0) 7 (descAddr (dmaAt (fb 1 0) (dmaIx 7 3)) (dmaAt (fb 1 0) (dmaIx 7 3)).curDesc) 32) 7 (descAddr (dmaAt (fb 1 0) (dmaIx 7 3)) (dmaAt (fb 1 0) (dmaIx 7 3)).curDesc) 32 []).fst 24 2).testBit 0, curNext := BitVec.ofNat 32 (leAt (dmaRead (dmaTouch (fb 1 0) 7 (descAddr (dmaAt (fb 1 0) (dmaIx 7 3)) (dmaAt (fb 1 0) (dmaIx 7 3)).curDesc) 32) 7 (descAddr (dmaAt (fb 1 0) (dmaIx 7 3)) (dmaAt (fb 1 0) (dmaIx 7 3)).curDesc) 32 []).fst 28 4), refetch := (dmaAt (fb 1 0) (dmaIx 7 3)).refetch, doorbell := (dmaAt (fb 1 0) (dmaIx 7 3)).doorbell, inflight := (dmaAt (fb 1 0) (dmaIx 7 3)).inflight, haltAt := (dmaAt (fb 1 0) (dmaIx 7 3)).haltAt, arg := (dmaAt (fb 1 0) (dmaIx 7 3)).arg : DmaCh } = false) ∧ ((dmaAt (fb 1 0) (dmaIx 7 3)).chain = true) ∧ (dmaSpace (descAddr (dmaAt (fb 1 0) (dmaIx 7 3)) (dmaAt (fb 1 0) (dmaIx 7 3)).curDesc) = 0) ∧ ((dmaAt (fb 1 0) (dmaIx 7 3)).pz4 = false)) ∧
    ((dmaOk (ft 1#8) 7 3 = true) ∧ ((dmaAt (ft 1#8) (dmaIx 7 3)).fetching = true) ∧ ((dmaAt (ft 1#8) (dmaIx 7 3)).refetch = true) ∧ (dmaHeld (ft 1#8) 7 (descAddr (dmaAt (ft 1#8) (dmaIx 7 3)) (dmaAt (ft 1#8) (dmaIx 7 3)).curDesc) 32 = false) ∧ (descBad (ft 1#8) 7 (dmaAt (ft 1#8) (dmaIx 7 3)) (dmaAt (ft 1#8) (dmaIx 7 3)).curDesc = false) ∧ (dmaPoison (dmaTouch (ft 1#8) 7 (descAddr (dmaAt (ft 1#8) (dmaIx 7 3)) (dmaAt (ft 1#8) (dmaIx 7 3)).curDesc) 32) 7 (descAddr (dmaAt (ft 1#8) (dmaIx 7 3)) (dmaAt (ft 1#8) (dmaIx 7 3)).curDesc) 32 = false) ∧ ((leAt (dmaRead (dmaTouch (ft 1#8) 7 (descAddr (dmaAt (ft 1#8) (dmaIx 7 3)) (dmaAt (ft 1#8) (dmaIx 7 3)).curDesc) 32) 7 (descAddr (dmaAt (ft 1#8) (dmaIx 7 3)) (dmaAt (ft 1#8) (dmaIx 7 3)).curDesc) 32 []).fst 24 1).testBit 0 = true)) ∧
    ((dmaOk (ft 2#8) 7 3 = true) ∧ ((dmaAt (ft 2#8) (dmaIx 7 3)).fetching = true) ∧ ((dmaAt (ft 2#8) (dmaIx 7 3)).refetch = true) ∧ (dmaHeld (ft 2#8) 7 (descAddr (dmaAt (ft 2#8) (dmaIx 7 3)) (dmaAt (ft 2#8) (dmaIx 7 3)).curDesc) 32 = false) ∧ (descBad (ft 2#8) 7 (dmaAt (ft 2#8) (dmaIx 7 3)) (dmaAt (ft 2#8) (dmaIx 7 3)).curDesc = false) ∧ (dmaPoison (dmaTouch (ft 2#8) 7 (descAddr (dmaAt (ft 2#8) (dmaIx 7 3)) (dmaAt (ft 2#8) (dmaIx 7 3)).curDesc) 32) 7 (descAddr (dmaAt (ft 2#8) (dmaIx 7 3)) (dmaAt (ft 2#8) (dmaIx 7 3)).curDesc) 32 = false) ∧ ((leAt (dmaRead (dmaTouch (ft 2#8) 7 (descAddr (dmaAt (ft 2#8) (dmaIx 7 3)) (dmaAt (ft 2#8) (dmaIx 7 3)).curDesc) 32) 7 (descAddr (dmaAt (ft 2#8) (dmaIx 7 3)) (dmaAt (ft 2#8) (dmaIx 7 3)).curDesc) 32 []).fst 24 1).testBit 0 = false)) ∧
    ((dmaOk fs 7 3 = true) ∧ ((dmaAt fs (dmaIx 7 3)).fetching = true) ∧ (dmaHeld fs 7 (descAddr (dmaAt fs (dmaIx 7 3)) (dmaAt fs (dmaIx 7 3)).curDesc) 32 = false) ∧ (DmaErr.srcBus ≠ DmaErr.ok ∨ descBad fs 7 (dmaAt fs (dmaIx 7 3)) (dmaAt fs (dmaIx 7 3)).curDesc = true ∨ dmaPoison (if DmaErr.srcBus ≠ DmaErr.ok ∨ descBad fs 7 (dmaAt fs (dmaIx 7 3)) (dmaAt fs (dmaIx 7 3)).curDesc = true then fs else dmaTouch fs 7 (descAddr (dmaAt fs (dmaIx 7 3)) (dmaAt fs (dmaIx 7 3)).curDesc) 32) 7 (descAddr (dmaAt fs (dmaIx 7 3)) (dmaAt fs (dmaIx 7 3)).curDesc) 32 = true) ∧ ((dmaAt fs (dmaIx 7 3)).haltAt = none) ∧ (faultRepeats (if DmaErr.srcBus ≠ DmaErr.ok ∨ descBad fs 7 (dmaAt fs (dmaIx 7 3)) (dmaAt fs (dmaIx 7 3)).curDesc = true then fs else dmaTouch fs 7 (descAddr (dmaAt fs (dmaIx 7 3)) (dmaAt fs (dmaIx 7 3)).curDesc) 32) (FUnit.dma 7 3) fs.tb ((integ fs).memWin * secTicks) = false)) ∧
    ((dmaOk wDmaTransfersMove_23 7 3 = true) ∧ ((dmaAt wDmaTransfersMove_23 (dmaIx 7 3)).fetching = true) ∧ (dmaHeld wDmaTransfersMove_23 7 (descAddr (dmaAt wDmaTransfersMove_23 (dmaIx 7 3)) (dmaAt wDmaTransfersMove_23 (dmaIx 7 3)).curDesc) 32 = false) ∧ (DmaErr.ok ≠ DmaErr.ok ∨ descBad wDmaTransfersMove_23 7 (dmaAt wDmaTransfersMove_23 (dmaIx 7 3)) (dmaAt wDmaTransfersMove_23 (dmaIx 7 3)).curDesc = true ∨ dmaPoison (if DmaErr.ok ≠ DmaErr.ok ∨ descBad wDmaTransfersMove_23 7 (dmaAt wDmaTransfersMove_23 (dmaIx 7 3)) (dmaAt wDmaTransfersMove_23 (dmaIx 7 3)).curDesc = true then wDmaTransfersMove_23 else dmaTouch wDmaTransfersMove_23 7 (descAddr (dmaAt wDmaTransfersMove_23 (dmaIx 7 3)) (dmaAt wDmaTransfersMove_23 (dmaIx 7 3)).curDesc) 32) 7 (descAddr (dmaAt wDmaTransfersMove_23 (dmaIx 7 3)) (dmaAt wDmaTransfersMove_23 (dmaIx 7 3)).curDesc) 32 = true) ∧ ((dmaAt wDmaTransfersMove_23 (dmaIx 7 3)).haltAt = none) ∧ (faultRepeats (if DmaErr.ok ≠ DmaErr.ok ∨ descBad wDmaTransfersMove_23 7 (dmaAt wDmaTransfersMove_23 (dmaIx 7 3)) (dmaAt wDmaTransfersMove_23 (dmaIx 7 3)).curDesc = true then wDmaTransfersMove_23 else dmaTouch wDmaTransfersMove_23 7 (descAddr (dmaAt wDmaTransfersMove_23 (dmaIx 7 3)) (dmaAt wDmaTransfersMove_23 (dmaIx 7 3)).curDesc) 32) (FUnit.dma 7 3) wDmaTransfersMove_23.tb ((integ wDmaTransfersMove_23).memWin * secTicks) = false)) ∧
    ((dmaOk wDmaTransfersMove_24 7 3 = true) ∧ ((dmaAt wDmaTransfersMove_24 (dmaIx 7 3)).fetching = true) ∧ (dmaHeld wDmaTransfersMove_24 7 (descAddr (dmaAt wDmaTransfersMove_24 (dmaIx 7 3)) (dmaAt wDmaTransfersMove_24 (dmaIx 7 3)).curDesc) 32 = false) ∧ (DmaErr.ok ≠ DmaErr.ok ∨ descBad wDmaTransfersMove_24 7 (dmaAt wDmaTransfersMove_24 (dmaIx 7 3)) (dmaAt wDmaTransfersMove_24 (dmaIx 7 3)).curDesc = true ∨ dmaPoison (if DmaErr.ok ≠ DmaErr.ok ∨ descBad wDmaTransfersMove_24 7 (dmaAt wDmaTransfersMove_24 (dmaIx 7 3)) (dmaAt wDmaTransfersMove_24 (dmaIx 7 3)).curDesc = true then wDmaTransfersMove_24 else dmaTouch wDmaTransfersMove_24 7 (descAddr (dmaAt wDmaTransfersMove_24 (dmaIx 7 3)) (dmaAt wDmaTransfersMove_24 (dmaIx 7 3)).curDesc) 32) 7 (descAddr (dmaAt wDmaTransfersMove_24 (dmaIx 7 3)) (dmaAt wDmaTransfersMove_24 (dmaIx 7 3)).curDesc) 32 = true) ∧ ((dmaAt wDmaTransfersMove_24 (dmaIx 7 3)).haltAt = some wDmaTransfersMove_24.tb) ∧ (isFenced wDmaTransfersMove_24 (FUnit.dma 7 3) = false)) ∧
    (((dmaAt (dmS dq) (dmaIx 7 3)).fetching = false ∨ dmaHeld (dmS dq) 7 (descAddr (dmaAt (dmS dq) (dmaIx 7 3)) (dmaAt (dmS dq) (dmaIx 7 3)).curDesc) 32 = true)) ∧
    (((dmaAt wDmaTransfersMove_25 (dmaIx 7 3)).fetching = false ∨ dmaHeld wDmaTransfersMove_25 7 (descAddr (dmaAt wDmaTransfersMove_25 (dmaIx 7 3)) (dmaAt wDmaTransfersMove_25 (dmaIx 7 3)).curDesc) 32 = true)) ∧
    ((pickDma? r2 7 0#32 = some 6)) ∧
    ((dieOk r2 7 = true) ∧ (pickDma? r2 7 0#32 = some 6) ∧ ((List.map (fun (k : Nat) => (dmaAt r2 (dmaIx 7 k)).inflight.length) (List.range 32)).sum < 32)) ∧
    ((dieOk (dmS rq) 7 = true) ∧ (pickDma? (dmS rq) 7 0#32 = some 3) ∧ ((List.map (fun (k : Nat) => (dmaAt (dmS rq) (dmaIx 7 k)).inflight.length) (List.range 32)).sum < 32)) ∧
    ((dieOk wDmaTransfersMove_26 7 = false ∨ pickDma? wDmaTransfersMove_26 7 0#32 = none ∨ 32 ≤ (List.map (fun (k : Nat) => (dmaAt wDmaTransfersMove_26 (dmaIx 7 k)).inflight.length) (List.range 32)).sum)) ∧
    ((dmaOk wDmaTransfersMove_28 7 3 = true) ∧ ((dmaAt wDmaTransfersMove_28 (dmaIx 7 3)).inflight = [64]) ∧ (burstMoves wDmaTransfersMove_28 7 (dmaAt wDmaTransfersMove_28 (dmaIx 7 3)) 64) ∧ (DmaErr.ok = DmaErr.ok ∨ DmaErr.ok = DmaErr.poison ∧ dmaSpace (dmaAddr (dmaAt wDmaTransfersMove_28 (dmaIx 7 3)).src (dmaAt wDmaTransfersMove_28 (dmaIx 7 3)).moved) < 3) ∧ (64 < (dmaAt wDmaTransfersMove_28 (dmaIx 7 3)).remain.toNat)) ∧
    ((dmaOk wDmaTransfersMove_29 7 3 = true) ∧ ((dmaAt wDmaTransfersMove_29 (dmaIx 7 3)).inflight = [64]) ∧ (burstMoves wDmaTransfersMove_29 7 (dmaAt wDmaTransfersMove_29 (dmaIx 7 3)) 64) ∧ (DmaErr.poison = DmaErr.ok ∨ DmaErr.poison = DmaErr.poison ∧ dmaSpace (dmaAddr (dmaAt wDmaTransfersMove_29 (dmaIx 7 3)).src (dmaAt wDmaTransfersMove_29 (dmaIx 7 3)).moved) < 3) ∧ ((dmaAt wDmaTransfersMove_29 (dmaIx 7 3)).remain.toNat ≤ 64) ∧ (dmaSpace (dmaAt wDmaTransfersMove_29 (dmaIx 7 3)).dst ≤ 4)) ∧
    ((dmaOk wDmaTransfersMove_30 7 3 = true) ∧ ((dmaAt wDmaTransfersMove_30 (dmaIx 7 3)).inflight = [64]) ∧ (burstMoves wDmaTransfersMove_30 7 (dmaAt wDmaTransfersMove_30 (dmaIx 7 3)) 64) ∧ (DmaErr.ok = DmaErr.ok ∨ DmaErr.ok = DmaErr.poison ∧ dmaSpace (dmaAddr (dmaAt wDmaTransfersMove_30 (dmaIx 7 3)).src (dmaAt wDmaTransfersMove_30 (dmaIx 7 3)).moved) < 3) ∧ ((dmaAt wDmaTransfersMove_30 (dmaIx 7 3)).remain.toNat ≤ 64) ∧ (dmaSpace (dmaAt wDmaTransfersMove_30 (dmaIx 7 3)).dst = 6) ∧ ((dmaAt wDmaTransfersMove_30 (dmaIx 7 3)).chain = false) ∧ ((dmaAt wDmaTransfersMove_30 (dmaIx 7 3)).armed = false) ∧ ((dmaAt wDmaTransfersMove_30 (dmaIx 7 3)).evt = false) ∧ ((dmaAt wDmaTransfersMove_30 (dmaIx 7 3)).pz4 = false) ∧ ((dmaAt wDmaTransfersMove_30 (dmaIx 7 3)).haltAt = none)) ∧
    ((dmaSpace 32768#64 = 0)) ∧
    ((dmaSpace wDmaTransfersMove_33 = 1)) ∧
    ((dmaSpace wDmaTransfersMove_35 = 2)) ∧
    ((dmaSpace wDmaTransfersMove_37 = 3)) ∧
    ((dmaSpace wDmaTransfersMove_39 = 4)) ∧
    ((dmaSpace wDmaTransfersMove_41 = 6)) ∧
    ((dmaOk wDmaTransfersMove_43 7 3 = true) ∧ ((dmaAt wDmaTransfersMove_43 (dmaIx 7 3)).inflight = 64 :: wDmaTransfersMove_44) ∧ ((dmaAt wDmaTransfersMove_43 (dmaIx 7 3)).chain = false) ∧ ((dmaAt wDmaTransfersMove_43 (dmaIx 7 3)).armed = false) ∧ ((dmaAt wDmaTransfersMove_43 (dmaIx 7 3)).pz4 = false) ∧ (dmaSpace (dmaAt wDmaTransfersMove_43 (dmaIx 7 3)).dst = 4) ∧ (dmaHeld wDmaTransfersMove_43 7 (dmaAddr (dmaAt wDmaTransfersMove_43 (dmaIx 7 3)).src (dmaAt wDmaTransfersMove_43 (dmaIx 7 3)).moved) 64 = false) ∧ (DmaErr.srcBus = DmaErr.srcBus ∨ dmaErrorAt wDmaTransfersMove_43 7 (dmaAt wDmaTransfersMove_43 (dmaIx 7 3)).src (dmaAt wDmaTransfersMove_43 (dmaIx 7 3)).moved 64 = true)) ∧
    ((dmaOk wDmaTransfersMove_45 7 3 = true) ∧ ((dmaAt wDmaTransfersMove_45 (dmaIx 7 3)).inflight = 64 :: wDmaTransfersMove_46) ∧ ((dmaAt wDmaTransfersMove_45 (dmaIx 7 3)).chain = false) ∧ ((dmaAt wDmaTransfersMove_45 (dmaIx 7 3)).armed = false) ∧ ((dmaAt wDmaTransfersMove_45 (dmaIx 7 3)).pz4 = false) ∧ (dmaSpace (dmaAt wDmaTransfersMove_45 (dmaIx 7 3)).dst = 4) ∧ (dmaHeld wDmaTransfersMove_45 7 (dmaAddr (dmaAt wDmaTransfersMove_45 (dmaIx 7 3)).src (dmaAt wDmaTransfersMove_45 (dmaIx 7 3)).moved) 64 = false) ∧ (DmaErr.ok = DmaErr.srcBus ∨ dmaErrorAt wDmaTransfersMove_45 7 (dmaAt wDmaTransfersMove_45 (dmaIx 7 3)).src (dmaAt wDmaTransfersMove_45 (dmaIx 7 3)).moved 64 = true)) ∧
    ((dmaOk wDmaTransfersMove_47 7 3 = true) ∧ ((dmaAt wDmaTransfersMove_47 (dmaIx 7 3)).inflight = 64 :: wDmaTransfersMove_48) ∧ ((dmaAt wDmaTransfersMove_47 (dmaIx 7 3)).chain = false) ∧ ((dmaAt wDmaTransfersMove_47 (dmaIx 7 3)).armed = false) ∧ ((dmaAt wDmaTransfersMove_47 (dmaIx 7 3)).pz4 = false) ∧ (dmaSpace (dmaAt wDmaTransfersMove_47 (dmaIx 7 3)).dst = 1) ∧ (dmaHeld wDmaTransfersMove_47 7 (dmaAddr (dmaAt wDmaTransfersMove_47 (dmaIx 7 3)).src (dmaAt wDmaTransfersMove_47 (dmaIx 7 3)).moved) 64 = false) ∧ (dmaLow (dmaAt wDmaTransfersMove_47 (dmaIx 7 3)).dst + (dmaAt wDmaTransfersMove_47 (dmaIx 7 3)).moved + (dmaAt wDmaTransfersMove_47 (dmaIx 7 3)).remain.toNat ≤ 2 ^ 23) ∧ (noFlips wDmaTransfersMove_47 ArrKind.bank 7)) ∧
    ((dmaOk d4 0 3 = true) ∧ ((dmaAt d4 (dmaIx 0 3)).inflight = 64 :: wDmaTransfersMove_49) ∧ ((dmaAt d4 (dmaIx 0 3)).chain = false) ∧ ((dmaAt d4 (dmaIx 0 3)).armed = false) ∧ ((dmaAt d4 (dmaIx 0 3)).pz4 = false) ∧ (dmaSpace (dmaAt d4 (dmaIx 0 3)).dst = 4) ∧ (dmaHeld d4 0 (dmaAddr (dmaAt d4 (dmaIx 0 3)).src (dmaAt d4 (dmaIx 0 3)).moved) 64 = false) ∧ (DmaErr.dstBus = DmaErr.ok ∨ DmaErr.dstBus = DmaErr.dstBus) ∧ (dmaErrorAt d4 0 (dmaAt d4 (dmaIx 0 3)).src (dmaAt d4 (dmaIx 0 3)).moved 64 = false) ∧ (dmaPoison (dmaTouch d4 0 (dmaAddr (dmaAt d4 (dmaIx 0 3)).src (dmaAt d4 (dmaIx 0 3)).moved) 64) 0 (dmaAddr (dmaAt d4 (dmaIx 0 3)).src (dmaAt d4 (dmaIx 0 3)).moved) 64 = false) ∧ (DmaErr.dstBus = DmaErr.dstBus ∨ dmaErrorAt (dmaTouch d4 0 (dmaAddr (dmaAt d4 (dmaIx 0 3)).src (dmaAt d4 (dmaIx 0 3)).moved) 64) 0 (dmaAt d4 (dmaIx 0 3)).dst (dmaAt d4 (dmaIx 0 3)).moved 64 = true)) ∧
    ((dmaOk wDmaTransfersMove_50 7 3 = true) ∧ ((dmaAt wDmaTransfersMove_50 (dmaIx 7 3)).inflight = 64 :: wDmaTransfersMove_51) ∧ ((dmaAt wDmaTransfersMove_50 (dmaIx 7 3)).chain = false) ∧ ((dmaAt wDmaTransfersMove_50 (dmaIx 7 3)).armed = false) ∧ ((dmaAt wDmaTransfersMove_50 (dmaIx 7 3)).pz4 = false) ∧ (dmaSpace (dmaAt wDmaTransfersMove_50 (dmaIx 7 3)).dst = 4) ∧ (dmaHeld wDmaTransfersMove_50 7 (dmaAddr (dmaAt wDmaTransfersMove_50 (dmaIx 7 3)).src (dmaAt wDmaTransfersMove_50 (dmaIx 7 3)).moved) 64 = false) ∧ (DmaErr.ok = DmaErr.ok ∨ DmaErr.ok = DmaErr.dstBus) ∧ (dmaErrorAt wDmaTransfersMove_50 7 (dmaAt wDmaTransfersMove_50 (dmaIx 7 3)).src (dmaAt wDmaTransfersMove_50 (dmaIx 7 3)).moved 64 = false) ∧ (dmaPoison (dmaTouch wDmaTransfersMove_50 7 (dmaAddr (dmaAt wDmaTransfersMove_50 (dmaIx 7 3)).src (dmaAt wDmaTransfersMove_50 (dmaIx 7 3)).moved) 64) 7 (dmaAddr (dmaAt wDmaTransfersMove_50 (dmaIx 7 3)).src (dmaAt wDmaTransfersMove_50 (dmaIx 7 3)).moved) 64 = false) ∧ (DmaErr.ok = DmaErr.dstBus ∨ dmaErrorAt (dmaTouch wDmaTransfersMove_50 7 (dmaAddr (dmaAt wDmaTransfersMove_50 (dmaIx 7 3)).src (dmaAt wDmaTransfersMove_50 (dmaIx 7 3)).moved) 64) 7 (dmaAt wDmaTransfersMove_50 (dmaIx 7 3)).dst (dmaAt wDmaTransfersMove_50 (dmaIx 7 3)).moved 64 = true)) ∧
    ((dmaOk wDmaTransfersMove_52 7 3 = true) ∧ ((dmaAt wDmaTransfersMove_52 (dmaIx 7 3)).inflight = [64]) ∧ (dmaHeld wDmaTransfersMove_52 7 (dmaAddr (dmaAt wDmaTransfersMove_52 (dmaIx 7 3)).src (dmaAt wDmaTransfersMove_52 (dmaIx 7 3)).moved) 64 = false) ∧ (dmaHeld wDmaTransfersMove_52 7 (dmaAddr (dmaAt wDmaTransfersMove_52 (dmaIx 7 3)).dst (dmaAt wDmaTransfersMove_52 (dmaIx 7 3)).moved) 64 = false) ∧ (DmaErr.ok ≠ DmaErr.srcBus) ∧ (dmaErrorAt wDmaTransfersMove_52 7 (dmaAt wDmaTransfersMove_52 (dmaIx 7 3)).src (dmaAt wDmaTransfersMove_52 (dmaIx 7 3)).moved 64 = false) ∧ (DmaErr.ok = DmaErr.poison ∧ 3 ≤ dmaSpace (dmaAddr (dmaAt wDmaTransfersMove_52 (dmaIx 7 3)).src (dmaAt wDmaTransfersMove_52 (dmaIx 7 3)).moved) ∨ dmaPoison (dmaTouch wDmaTransfersMove_52 7 (dmaAddr (dmaAt wDmaTransfersMove_52 (dmaIx 7 3)).src (dmaAt wDmaTransfersMove_52 (dmaIx 7 3)).moved) 64) 7 (dmaAddr (dmaAt wDmaTransfersMove_52 (dmaIx 7 3)).src (dmaAt wDmaTransfersMove_52 (dmaIx 7 3)).moved) 64 = true) ∧ ((dmaAt wDmaTransfersMove_52 (dmaIx 7 3)).haltAt = none) ∧ (faultRepeats (dmaTouch wDmaTransfersMove_52 7 (dmaAddr (dmaAt wDmaTransfersMove_52 (dmaIx 7 3)).src (dmaAt wDmaTransfersMove_52 (dmaIx 7 3)).moved) 64) (FUnit.dma 7 3) wDmaTransfersMove_52.tb ((integ wDmaTransfersMove_52).memWin * secTicks) = false)) ∧
    ((dmaOk wDmaTransfersMove_53 0 3 = true) ∧ ((dmaAt wDmaTransfersMove_53 (dmaIx 0 3)).inflight = [64]) ∧ (dmaHeld wDmaTransfersMove_53 0 (dmaAddr (dmaAt wDmaTransfersMove_53 (dmaIx 0 3)).src (dmaAt wDmaTransfersMove_53 (dmaIx 0 3)).moved) 64 = false) ∧ (dmaHeld wDmaTransfersMove_53 0 (dmaAddr (dmaAt wDmaTransfersMove_53 (dmaIx 0 3)).dst (dmaAt wDmaTransfersMove_53 (dmaIx 0 3)).moved) 64 = false) ∧ (DmaErr.poison ≠ DmaErr.srcBus) ∧ (dmaErrorAt wDmaTransfersMove_53 0 (dmaAt wDmaTransfersMove_53 (dmaIx 0 3)).src (dmaAt wDmaTransfersMove_53 (dmaIx 0 3)).moved 64 = false) ∧ (DmaErr.poison = DmaErr.poison ∧ 3 ≤ dmaSpace (dmaAddr (dmaAt wDmaTransfersMove_53 (dmaIx 0 3)).src (dmaAt wDmaTransfersMove_53 (dmaIx 0 3)).moved) ∨ dmaPoison (dmaTouch wDmaTransfersMove_53 0 (dmaAddr (dmaAt wDmaTransfersMove_53 (dmaIx 0 3)).src (dmaAt wDmaTransfersMove_53 (dmaIx 0 3)).moved) 64) 0 (dmaAddr (dmaAt wDmaTransfersMove_53 (dmaIx 0 3)).src (dmaAt wDmaTransfersMove_53 (dmaIx 0 3)).moved) 64 = true) ∧ ((dmaAt wDmaTransfersMove_53 (dmaIx 0 3)).haltAt = none) ∧ (faultRepeats (dmaTouch wDmaTransfersMove_53 0 (dmaAddr (dmaAt wDmaTransfersMove_53 (dmaIx 0 3)).src (dmaAt wDmaTransfersMove_53 (dmaIx 0 3)).moved) 64) (FUnit.dma 0 3) wDmaTransfersMove_53.tb ((integ wDmaTransfersMove_53).memWin * secTicks) = false)) ∧
    (((dmaAt (dmS rq) (dmaIx 7 3)).inflight = [] ∨ (dmaHeld (dmS rq) 7 (dmaAddr (dmaAt (dmS rq) (dmaIx 7 3)).src (dmaAt (dmS rq) (dmaIx 7 3)).moved) ((dmaAt (dmS rq) (dmaIx 7 3)).inflight.headD 0) || dmaHeld (dmS rq) 7 (dmaAddr (dmaAt (dmS rq) (dmaIx 7 3)).dst (dmaAt (dmS rq) (dmaIx 7 3)).moved) ((dmaAt (dmS rq) (dmaIx 7 3)).inflight.headD 0)) = true)) ∧
    (((dmaAt wDmaTransfersMove_54 (dmaIx 7 3)).inflight = [] ∨ (dmaHeld wDmaTransfersMove_54 7 (dmaAddr (dmaAt wDmaTransfersMove_54 (dmaIx 7 3)).src (dmaAt wDmaTransfersMove_54 (dmaIx 7 3)).moved) ((dmaAt wDmaTransfersMove_54 (dmaIx 7 3)).inflight.headD 0) || dmaHeld wDmaTransfersMove_54 7 (dmaAddr (dmaAt wDmaTransfersMove_54 (dmaIx 7 3)).dst (dmaAt wDmaTransfersMove_54 (dmaIx 7 3)).moved) ((dmaAt wDmaTransfersMove_54 (dmaIx 7 3)).inflight.headD 0)) = true)) ∧
    ((dmaOk (dmS rb) 7 3 = true) ∧ ((dmaAt (dmS rb) (dmaIx 7 3)).st = DmaState.readback) ∧ (DmaErr.poison = DmaErr.ok ∨ DmaErr.poison = DmaErr.poison) ∧ (dmaBusError (dmS rb) 7 (dmaAddr (dmaAt (dmS rb) (dmaIx 7 3)).dst ((dmaAt (dmS rb) (dmaIx 7 3)).moved - 1) &&& ~~~7#64) 8 = false) ∧ (dmaHeld (dmS rb) 7 (dmaAddr (dmaAt (dmS rb) (dmaIx 7 3)).dst ((dmaAt (dmS rb) (dmaIx 7 3)).moved - 1)) 1 = false) ∧ (dmaSpace (dmaAt (dmS rb) (dmaIx 7 3)).dst ≠ 3) ∧ ((dmaAt (dmS rb) (dmaIx 7 3)).pz4 = false) ∧ ((dmaAt (dmS rb) (dmaIx 7 3)).haltAt = none) ∧ ((dmaAt (dmS rb) (dmaIx 7 3)).chain = false) ∧ ((dmaAt (dmS rb) (dmaIx 7 3)).armed = false) ∧ ((dmaAt (dmS rb) (dmaIx 7 3)).evt = false)) ∧
    ((dmaOk wDmaTransfersMove_55 7 3 = true) ∧ ((dmaAt wDmaTransfersMove_55 (dmaIx 7 3)).st = DmaState.readback) ∧ (DmaErr.ok = DmaErr.ok ∨ DmaErr.ok = DmaErr.poison) ∧ (dmaBusError wDmaTransfersMove_55 7 (dmaAddr (dmaAt wDmaTransfersMove_55 (dmaIx 7 3)).dst ((dmaAt wDmaTransfersMove_55 (dmaIx 7 3)).moved - 1) &&& ~~~7#64) 8 = false) ∧ (dmaHeld wDmaTransfersMove_55 7 (dmaAddr (dmaAt wDmaTransfersMove_55 (dmaIx 7 3)).dst ((dmaAt wDmaTransfersMove_55 (dmaIx 7 3)).moved - 1)) 1 = false) ∧ (dmaSpace (dmaAt wDmaTransfersMove_55 (dmaIx 7 3)).dst ≠ 3) ∧ ((dmaAt wDmaTransfersMove_55 (dmaIx 7 3)).pz4 = false) ∧ ((dmaAt wDmaTransfersMove_55 (dmaIx 7 3)).haltAt = none) ∧ ((dmaAt wDmaTransfersMove_55 (dmaIx 7 3)).chain = false) ∧ ((dmaAt wDmaTransfersMove_55 (dmaIx 7 3)).armed = true) ∧ ((dmaAt wDmaTransfersMove_55 (dmaIx 7 3)).evt = false) ∧ (fieldsOk (shadowed (dmaAt wDmaTransfersMove_55 (dmaIx 7 3))) = true)) ∧
    ((dmaOk wDmaTransfersMove_56 7 3 = true) ∧ ((dmaAt wDmaTransfersMove_56 (dmaIx 7 3)).st = DmaState.readback) ∧ (DmaErr.ok = DmaErr.ok ∨ DmaErr.ok = DmaErr.poison) ∧ (dmaBusError wDmaTransfersMove_56 7 (dmaAddr (dmaAt wDmaTransfersMove_56 (dmaIx 7 3)).dst ((dmaAt wDmaTransfersMove_56 (dmaIx 7 3)).moved - 1) &&& ~~~7#64) 8 = false) ∧ (dmaHeld wDmaTransfersMove_56 7 (dmaAddr (dmaAt wDmaTransfersMove_56 (dmaIx 7 3)).dst ((dmaAt wDmaTransfersMove_56 (dmaIx 7 3)).moved - 1)) 1 = false) ∧ (dmaSpace (dmaAt wDmaTransfersMove_56 (dmaIx 7 3)).dst ≠ 3) ∧ ((dmaAt wDmaTransfersMove_56 (dmaIx 7 3)).pz4 = false) ∧ ((dmaAt wDmaTransfersMove_56 (dmaIx 7 3)).haltAt = none) ∧ ((dmaAt wDmaTransfersMove_56 (dmaIx 7 3)).chain = true) ∧ ((dmaAt wDmaTransfersMove_56 (dmaIx 7 3)).evt = false) ∧ ((dmaAt wDmaTransfersMove_56 (dmaIx 7 3)).curEnd = false) ∧ (dmaSpace (descAddr (dmaAt wDmaTransfersMove_56 (dmaIx 7 3)) (dmaAt wDmaTransfersMove_56 (dmaIx 7 3)).curDesc) = 0)) ∧
    ((dmaOk wDmaTransfersMove_57 7 3 = true) ∧ ((dmaAt wDmaTransfersMove_57 (dmaIx 7 3)).st = DmaState.readback) ∧ (DmaErr.ok = DmaErr.ok ∨ DmaErr.ok = DmaErr.poison) ∧ (dmaBusError wDmaTransfersMove_57 7 (dmaAddr (dmaAt wDmaTransfersMove_57 (dmaIx 7 3)).dst ((dmaAt wDmaTransfersMove_57 (dmaIx 7 3)).moved - 1) &&& ~~~7#64) 8 = false) ∧ (dmaHeld wDmaTransfersMove_57 7 (dmaAddr (dmaAt wDmaTransfersMove_57 (dmaIx 7 3)).dst ((dmaAt wDmaTransfersMove_57 (dmaIx 7 3)).moved - 1)) 1 = false) ∧ (dmaSpace (dmaAt wDmaTransfersMove_57 (dmaIx 7 3)).dst ≠ 3) ∧ ((dmaAt wDmaTransfersMove_57 (dmaIx 7 3)).pz4 = false) ∧ ((dmaAt wDmaTransfersMove_57 (dmaIx 7 3)).haltAt = none) ∧ ((dmaAt wDmaTransfersMove_57 (dmaIx 7 3)).chain = false) ∧ ((dmaAt wDmaTransfersMove_57 (dmaIx 7 3)).armed = false) ∧ ((dmaAt wDmaTransfersMove_57 (dmaIx 7 3)).evt = true)) ∧
    ((dmaOk (z4 0#32) 0 3 = true) ∧ ((dmaAt (z4 0#32) (dmaIx 0 3)).st = DmaState.readback) ∧ (dmaBusError (z4 0#32) 0 (dmaAddr (dmaAt (z4 0#32) (dmaIx 0 3)).dst ((dmaAt (z4 0#32) (dmaIx 0 3)).moved - 1) &&& ~~~7#64) 8 = false) ∧ (dmaSpace (dmaAt (z4 0#32) (dmaIx 0 3)).dst = 4) ∧ ((dmaAt (z4 0#32) (dmaIx 0 3)).pz4 = true) ∧ ((dmaAt (z4 0#32) (dmaIx 0 3)).use ≠ 1#4) ∧ ((dmaAt (z4 0#32) (dmaIx 0 3)).chain = false) ∧ ((dmaAt (z4 0#32) (dmaIx 0 3)).armed = false) ∧ ((dmaAt (z4 0#32) (dmaIx 0 3)).evt = false) ∧ ((dmaAt (z4 0#32) (dmaIx 0 3)).haltAt = none) ∧ (BitVec.getLsbD (dmaDieAt (z4 0#32) 0).irq 3 = false)) ∧
    ((dmaOk (z4 8#32) 0 3 = true) ∧ ((dmaAt (z4 8#32) (dmaIx 0 3)).st = DmaState.readback) ∧ (dmaBusError (z4 8#32) 0 (dmaAddr (dmaAt (z4 8#32) (dmaIx 0 3)).dst ((dmaAt (z4 8#32) (dmaIx 0 3)).moved - 1) &&& ~~~7#64) 8 = false) ∧ (dmaSpace (dmaAt (z4 8#32) (dmaIx 0 3)).dst = 4) ∧ ((dmaAt (z4 8#32) (dmaIx 0 3)).pz4 = true) ∧ ((dmaAt (z4 8#32) (dmaIx 0 3)).use ≠ 1#4) ∧ ((dmaAt (z4 8#32) (dmaIx 0 3)).chain = false) ∧ ((dmaAt (z4 8#32) (dmaIx 0 3)).armed = false) ∧ ((dmaAt (z4 8#32) (dmaIx 0 3)).evt = false) ∧ ((dmaAt (z4 8#32) (dmaIx 0 3)).haltAt = none) ∧ (BitVec.getLsbD (dmaDieAt (z4 8#32) 0).irq 3 = false)) ∧
    ((dmaOk wDmaTransfersMove_58 0 3 = true) ∧ ((dmaAt wDmaTransfersMove_58 (dmaIx 0 3)).st = DmaState.readback) ∧ (DmaErr.dstBus = DmaErr.srcBus ∨ DmaErr.dstBus = DmaErr.dstBus ∨ dmaBusError wDmaTransfersMove_58 0 (dmaAddr (dmaAt wDmaTransfersMove_58 (dmaIx 0 3)).dst ((dmaAt wDmaTransfersMove_58 (dmaIx 0 3)).moved - 1) &&& ~~~7#64) 8 = true) ∧ ((dmaAt wDmaTransfersMove_58 (dmaIx 0 3)).chain = false) ∧ ((dmaAt wDmaTransfersMove_58 (dmaIx 0 3)).armed = false) ∧ ((dmaAt wDmaTransfersMove_58 (dmaIx 0 3)).pz4 = false) ∧ ((dmaAt wDmaTransfersMove_58 (dmaIx 0 3)).remain = 0#24) ∧ (dmaSpace (dmaAt wDmaTransfersMove_58 (dmaIx 0 3)).dst = 4)) ∧
    ((dmaOk wDmaTransfersMove_59 7 3 = true) ∧ ((dmaAt wDmaTransfersMove_59 (dmaIx 7 3)).st = DmaState.readback) ∧ (DmaErr.ok = DmaErr.srcBus ∨ DmaErr.ok = DmaErr.dstBus ∨ dmaBusError wDmaTransfersMove_59 7 (dmaAddr (dmaAt wDmaTransfersMove_59 (dmaIx 7 3)).dst ((dmaAt wDmaTransfersMove_59 (dmaIx 7 3)).moved - 1) &&& ~~~7#64) 8 = true) ∧ ((dmaAt wDmaTransfersMove_59 (dmaIx 7 3)).chain = false) ∧ ((dmaAt wDmaTransfersMove_59 (dmaIx 7 3)).armed = false) ∧ ((dmaAt wDmaTransfersMove_59 (dmaIx 7 3)).pz4 = false) ∧ ((dmaAt wDmaTransfersMove_59 (dmaIx 7 3)).remain = 0#24) ∧ (dmaSpace (dmaAt wDmaTransfersMove_59 (dmaIx 7 3)).dst = 4)) ∧
    (((dmaAt (dmS rq) (dmaIx 7 3)).st ≠ DmaState.readback)) ∧
    ((dmaOk wDmaTransfersMove_60 0 3 = true) ∧ ((dmaAt wDmaTransfersMove_60 (dmaIx 0 3)).st = DmaState.readback) ∧ (dmaSpace (dmaAt wDmaTransfersMove_60 (dmaIx 0 3)).dst = 3) ∧ (dmaBusError wDmaTransfersMove_60 0 (dmaAddr (dmaAt wDmaTransfersMove_60 (dmaIx 0 3)).dst ((dmaAt wDmaTransfersMove_60 (dmaIx 0 3)).moved - 1) &&& ~~~7#64) 8 = false) ∧ ((wDmaTransfersMove_60.fabric.any fun (f : Flight) => f.sentBy 3) = true)) ∧
    ((dieOk (fwd rb bb) 7 = true) ∧ (3 < 4) ∧ ((portAt (fwd rb bb) (4 * 7 + 3)).ingress = [bb]) ∧ (hasForward (fwd rb bb) 7 = true) ∧ (dramWaits (fwd rb bb) 7 bb.addr.toNat bb.data.length = false) ∧ (bb.addr.toNat + bb.data.length ≤ dramEnd (fwd rb bb) 7)) ∧
    ((dieOk wDmaTransfersMove_61 7 = true) ∧ (3 < 4) ∧ ((portAt wDmaTransfersMove_61 (4 * 7 + 3)).ingress = [wDmaTransfersMove_62]) ∧ (hasForward wDmaTransfersMove_61 7 = true) ∧ (dramWaits wDmaTransfersMove_61 7 wDmaTransfersMove_62.addr.toNat wDmaTransfersMove_62.data.length = false) ∧ (dramEnd wDmaTransfersMove_61 7 < wDmaTransfersMove_62.addr.toNat + wDmaTransfersMove_62.data.length) ∧ (wDmaTransfersMove_62.sender < 32) ∧ ((dmaAt wDmaTransfersMove_61 (dmaIx 0 wDmaTransfersMove_62.sender)).st = DmaState.run ∨ (dmaAt wDmaTransfersMove_61 (dmaIx 0 wDmaTransfersMove_62.sender)).st = DmaState.readback) ∧ ((dmaAt wDmaTransfersMove_61 (dmaIx 0 wDmaTransfersMove_62.sender)).chain = false) ∧ ((dmaAt wDmaTransfersMove_61 (dmaIx 0 wDmaTransfersMove_62.sender)).armed = false) ∧ ((dmaAt wDmaTransfersMove_61 (dmaIx 0 wDmaTransfersMove_62.sender)).pz4 = false) ∧ ((dmaAt wDmaTransfersMove_61 (dmaIx 0 wDmaTransfersMove_62.sender)).remain = 0#24) ∧ (wDmaTransfersMove_61.fabric = [])) ∧
    (((portAt wDmaTransfersMove_63 (4 * 7 + 3)).ingress = [] ∨ hasForward wDmaTransfersMove_63 7 = false ∨ 4 ≤ 3 ∨ ((portAt wDmaTransfersMove_63 (4 * 7 + 3)).ingress.any fun (b : BlockBurst) => dramWaits wDmaTransfersMove_63 7 b.addr.toNat b.data.length) = true ∧ (portAt wDmaTransfersMove_63 (4 * 7 + 3)).ingress.length = 1)) ∧
    (((portAt wDmaTransfersMove_64 (4 * 7 + 3)).ingress = [] ∨ hasForward wDmaTransfersMove_64 7 = false ∨ 4 ≤ 3 ∨ ((portAt wDmaTransfersMove_64 (4 * 7 + 3)).ingress.any fun (b : BlockBurst) => dramWaits wDmaTransfersMove_64 7 b.addr.toNat b.data.length) = true ∧ (portAt wDmaTransfersMove_64 (4 * 7 + 3)).ingress.length = 1)) := by
  refine ⟨?_, ?_, ?_, ?_, ?_, ?_, ?_, ?_, ?_, ?_, ?_, ?_, ?_, ?_, ?_, ?_, ?_, ?_, ?_, ?_, ?_, ?_, ?_, ?_, ?_, ?_, ?_, ?_, ?_, ?_, ?_, ?_, ?_, ?_, ?_, ?_, ?_, ?_, ?_, ?_, ?_, ?_, ?_, ?_, ?_, ?_, ?_⟩
  all_goals decide +kernel

theorem witness_DramRequestsAndBursts :
    ((dieOk wDramRequestsAndBursts_65 7 = true) ∧ (wDramRequestsAndBursts_65.dramHeld = []) ∧ (wDramRequestsAndBursts_66.all (reqStands wDramRequestsAndBursts_65 7) = true) ∧ ((List.map (fun (r : DReq) => r.id) wDramRequestsAndBursts_66).Nodup) ∧ (((List.range 2).all fun (ch : Nat) => [DClass.deadline, DClass.bulk, DClass.management].all fun (k : DClass) => decide ((List.filter (fun (w : DWait) => reqClass w.req == k) (ddrAt wDramRequestsAndBursts_65 (ddrIx 7 ch)).queue).length + wDramRequestsAndBursts_66.length ≤ k.depth)) = true)) ∧
    ((dieOk wDramRequestsAndBursts_67 7 = true) ∧ (wDramRequestsAndBursts_67.dramHeld = []) ∧ (wDramRequestsAndBursts_68.all (reqStands wDramRequestsAndBursts_67 7) = true) ∧ ((List.map (fun (r : DReq) => r.id) wDramRequestsAndBursts_68).Nodup) ∧ (((List.range 2).all fun (ch : Nat) => [DClass.deadline, DClass.bulk, DClass.management].all fun (k : DClass) => decide ((List.filter (fun (w : DWait) => reqClass w.req == k) (ddrAt wDramRequestsAndBursts_67 (ddrIx 7 ch)).queue).length + wDramRequestsAndBursts_68.length ≤ k.depth)) = true)) ∧
    ((dieOk wDramRequestsAndBursts_69 7 = true) ∧ (wDramRequestsAndBursts_69.dramHeld = []) ∧ (reqStands wDramRequestsAndBursts_69 7 rr = true) ∧ (0 ∈ reqPlaces wDramRequestsAndBursts_69 7 rr) ∧ (queueRoom (ddrAt wDramRequestsAndBursts_69 (ddrIx 7 0)) (reqClass rr) = false)) ∧
    ((wDramRequestsAndBursts_70.dramHeld = []) ∧ (dieOk wDramRequestsAndBursts_70 7 = false ∨ reqStands wDramRequestsAndBursts_70 7 wDramRequestsAndBursts_71 = false)) ∧
    ((wDramRequestsAndBursts_72.dramHeld = []) ∧ (dieOk wDramRequestsAndBursts_72 8 = false ∨ reqStands wDramRequestsAndBursts_72 8 rr = false)) ∧
    ((pickSlot (ddS cq) 7 cq wDramRequestsAndBursts_73 = some wDramRequestsAndBursts_74)) ∧
    ((pickSlot (ddS cq) 7 cq wDramRequestsAndBursts_75 = some wDramRequestsAndBursts_76) ∧ (wDramRequestsAndBursts_77 ∈ cq.queue) ∧ (reqClass wDramRequestsAndBursts_77.req = DClass.deadline) ∧ (wDramRequestsAndBursts_77.req.write = false) ∧ (wDramRequestsAndBursts_77.req.id ∈ wDramRequestsAndBursts_75) ∧ (heldBack cq.queue wDramRequestsAndBursts_77 = false) ∧ (hitLimit (ddS cq) 7 cq wDramRequestsAndBursts_77 = false) ∧ (cq.run < cq.dlRun.toNat)) ∧
    (((ddrAt wDramRequestsAndBursts_78 (ddrIx 7 0)).st = DdrState.active) ∧ ((ddrAt wDramRequestsAndBursts_78 (ddrIx 7 0)).queue = [wt rr]) ∧ (wDramRequestsAndBursts_78.dramHeld = []) ∧ ((wt rr).req.write = false) ∧ ((wt rr).req.id ∈ wDramRequestsAndBursts_79) ∧ ((wt rr).req.len ≤ 64 - (wt rr).req.addr % 64)) ∧
    (((ddrAt wDramRequestsAndBursts_80 (ddrIx 7 0)).st = DdrState.active) ∧ ((ddrAt wDramRequestsAndBursts_80 (ddrIx 7 0)).queue = [wDramRequestsAndBursts_81]) ∧ (wDramRequestsAndBursts_80.dramHeld = []) ∧ (wDramRequestsAndBursts_81.req.write = false) ∧ (wDramRequestsAndBursts_81.req.id ∈ wDramRequestsAndBursts_82) ∧ (64 - wDramRequestsAndBursts_81.req.addr % 64 < wDramRequestsAndBursts_81.req.len)) ∧
    (((ddrAt wDramRequestsAndBursts_83 (ddrIx 7 0)).st = DdrState.active) ∧ ((ddrAt wDramRequestsAndBursts_83 (ddrIx 7 0)).queue = [wt rwq]) ∧ (wDramRequestsAndBursts_83.dramHeld = []) ∧ (wDramRequestsAndBursts_83.dramFlips = []) ∧ ((wt rwq).req.write = true) ∧ ((wt rwq).req.id ∈ wDramRequestsAndBursts_84) ∧ ((wt rwq).req.len ≤ 64 - (wt rwq).req.addr % 64) ∧ ((wt rwq).req.data.length = (wt rwq).req.len) ∧ (0 < 2) ∧ ((ddrAt wDramRequestsAndBursts_83 (ddrIx 7 (1 - 0))).queue = [])) ∧
    (((ddrAt wDramRequestsAndBursts_85 (ddrIx 7 0)).st ≠ DdrState.active ∨ pickSlot wDramRequestsAndBursts_85 7 (ddrAt wDramRequestsAndBursts_85 (ddrIx 7 0)) wDramRequestsAndBursts_86 = none)) ∧
    (((ddrAt wDramRequestsAndBursts_87 (ddrIx 7 0)).st ≠ DdrState.active ∨ pickSlot wDramRequestsAndBursts_87 7 (ddrAt wDramRequestsAndBursts_87 (ddrIx 7 0)) wDramRequestsAndBursts_88 = none)) := by
  refine ⟨?_, ?_, ?_, ?_, ?_, ?_, ?_, ?_, ?_, ?_, ?_, ?_⟩
  · decide +kernel
  · decide +kernel
  · decide +kernel
  · decide +kernel
  · decide +kernel
  · exact rfl
  · exact ⟨rfl, by decide +kernel⟩
  · decide +kernel
  · decide +kernel
  · decide +kernel
  · decide +kernel
  · decide +kernel

theorem witness_DramReadsAndUpkeep :
    ((511 < 512)) ∧
    ((3 < 511) ∧ (511 < 512)) ∧
    ((63 < 64)) ∧
    ((0 < 15) ∧ (15 < 16)) ∧
    (((ddrAt is1 (ddrIx 7 0)).issued = [rr]) ∧ (dramSound is1 = true) ∧ (blkBad is1 7 0 (chOff is1 7 rr.addr) = false) ∧ (0#512 = 0#512) ∧ (0#64 = 0#64)) ∧
    (((ddrAt is1 (ddrIx 7 0)).issued = [rr]) ∧ (dramSound is1 = true) ∧ (blkBad is1 7 0 (chOff is1 7 rr.addr) = false) ∧ (wDramReadsAndUpkeep_95 = 1#512 <<< 511 ∧ 0#64 = 0#64 ∧ 511 < 512 ∨ wDramReadsAndUpkeep_95 = 0#512 ∧ 0#64 = 1#64 <<< 511 ∧ 511 < 64)) ∧
    (((ddrAt is1 (ddrIx 7 0)).issued = [rr]) ∧ (dramSound is1 = true) ∧ (blkBad is1 7 0 (chOff is1 7 rr.addr) = false) ∧ (0#512 = 1#512 <<< 63 ∧ wDramReadsAndUpkeep_96 = 0#64 ∧ 63 < 512 ∨ 0#512 = 0#512 ∧ wDramReadsAndUpkeep_96 = 1#64 <<< 63 ∧ 63 < 64)) ∧
    (((ddrAt isM (ddrIx 7 0)).issued = [rc]) ∧ (dramSound isM = true) ∧ (blkBad isM 7 0 (chOff isM 7 rc.addr) = false) ∧ (wDramReadsAndUpkeep_97 = 1#512 <<< 3 ^^^ 1#512 <<< 511) ∧ (0#64 = 0#64) ∧ (3 < 511) ∧ (511 < 512) ∧ (mgtRegion ≤ chOff isM 7 rc.addr) ∧ ((ddrAt isM (ddrIx 7 0)).faultAt = none) ∧ ((ddrAt isM (ddrIx 7 0)).st = DdrState.active) ∧ (rc.reader ∈ [DReader.cache, DReader.bar2, DReader.manager, DReader.scrubber])) ∧
    (((ddrAt wDramReadsAndUpkeep_98 (ddrIx 7 0)).issued = [rc]) ∧ (dramSound wDramReadsAndUpkeep_98 = true) ∧ (blkBad wDramReadsAndUpkeep_98 7 0 (chOff wDramReadsAndUpkeep_98 7 rc.addr) = true) ∧ (rc.reader ∈ [DReader.cache, DReader.bar2, DReader.manager, DReader.scrubber])) ∧
    (((ddrAt wDramReadsAndUpkeep_99 (ddrIx 7 0)).issued = [rr]) ∧ (dramSound wDramReadsAndUpkeep_99 = true) ∧ (blkBad wDramReadsAndUpkeep_99 7 0 (chOff wDramReadsAndUpkeep_99 7 rr.addr) = true) ∧ (rr.reader = DReader.band 3 ∨ rr.reader = DReader.dma 3)) ∧
    (((ddrAt wDramReadsAndUpkeep_100 (ddrIx 7 0)).issued = [])) ∧
    ((ddrRuns wDramReadsAndUpkeep_101 (ddrAt wDramReadsAndUpkeep_101 (ddrIx 7 0)) = true) ∧ (15 < 16) ∧ (urgentFor wDramReadsAndUpkeep_101 7 (ddrAt wDramReadsAndUpkeep_101 (ddrIx 7 0)) 15 = false ∧ 0 ≤ sget 0 (ddrAt wDramReadsAndUpkeep_101 (ddrIx 7 0)).debts 15 ∨ sget 0 (ddrAt wDramReadsAndUpkeep_101 (ddrIx 7 0)).debts 15 = 7)) ∧
    ((ddrRuns wDramReadsAndUpkeep_102 (ddrAt wDramReadsAndUpkeep_102 (ddrIx 7 0)) = true) ∧ (15 < 16) ∧ (urgentFor wDramReadsAndUpkeep_102 7 (ddrAt wDramReadsAndUpkeep_102 (ddrIx 7 0)) 15 = false ∧ 0 ≤ sget 0 (ddrAt wDramReadsAndUpkeep_102 (ddrIx 7 0)).debts 15 ∨ sget 0 (ddrAt wDramReadsAndUpkeep_102 (ddrIx 7 0)).debts 15 = 7)) ∧
    ((ddrRuns wDramReadsAndUpkeep_103 (ddrAt wDramReadsAndUpkeep_103 (ddrIx 7 0)) = true) ∧ (ddrBank (chOff wUp 7 16384) < 16) ∧ (urgentFor wDramReadsAndUpkeep_103 7 (ddrAt wDramReadsAndUpkeep_103 (ddrIx 7 0)) (ddrBank (chOff wUp 7 16384)) = true ∨ sget 0 (ddrAt wDramReadsAndUpkeep_103 (ddrIx 7 0)).debts (ddrBank (chOff wUp 7 16384)) < 0) ∧ (sget 0 (ddrAt wDramReadsAndUpkeep_103 (ddrIx 7 0)).debts (ddrBank (chOff wUp 7 16384)) < 7)) ∧
    ((ddrRuns wDramReadsAndUpkeep_104 (ddrAt wDramReadsAndUpkeep_104 (ddrIx 7 0)) = true) ∧ (15 < 16) ∧ (urgentFor wDramReadsAndUpkeep_104 7 (ddrAt wDramReadsAndUpkeep_104 (ddrIx 7 0)) 15 = true ∨ sget 0 (ddrAt wDramReadsAndUpkeep_104 (ddrIx 7 0)).debts 15 < 0) ∧ (sget 0 (ddrAt wDramReadsAndUpkeep_104 (ddrIx 7 0)).debts 15 < 7)) ∧
    ((ddrRuns wDramReadsAndUpkeep_105 (ddrAt wDramReadsAndUpkeep_105 (ddrIx 7 0)) = true) ∧ (15 < 16)) ∧
    ((ddrRuns wDramReadsAndUpkeep_106 (ddrAt wDramReadsAndUpkeep_106 (ddrIx 7 0)) = false ∨ 16 ≤ 15)) ∧
    ((ddrRuns wDramReadsAndUpkeep_107 (ddrAt wDramReadsAndUpkeep_107 (ddrIx 7 0)) = true)) ∧
    ((ddrRuns wDramReadsAndUpkeep_108 (ddrAt wDramReadsAndUpkeep_108 (ddrIx 7 0)) = true)) ∧
    (ddrRuns wDramReadsAndUpkeep_109 (ddrAt wDramReadsAndUpkeep_109 (ddrIx 7 0)) = true ∧ -((ddrAt wDramReadsAndUpkeep_109 (ddrIx 7 0)).driftMax.toNat : Int) ≤ -24 ∧ -24 ≤ ((ddrAt wDramReadsAndUpkeep_109 (ddrIx 7 0)).driftMax.toNat : Int)) ∧
    (ddrRuns wDramReadsAndUpkeep_110 (ddrAt wDramReadsAndUpkeep_110 (ddrIx 7 0)) = true ∧ (25 < -((ddrAt wDramReadsAndUpkeep_110 (ddrIx 7 0)).driftMax.toNat : Int) ∨ ((ddrAt wDramReadsAndUpkeep_110 (ddrIx 7 0)).driftMax.toNat : Int) < 25)) ∧
    ((ddrRuns wDramReadsAndUpkeep_111 (ddrAt wDramReadsAndUpkeep_111 (ddrIx 7 0)) = false)) ∧
    (((ddrAt wDramReadsAndUpkeep_112 (ddrIx 7 0)).st = DdrState.retrain) ∧ ((ddrAt wDramReadsAndUpkeep_112 (ddrIx 7 0)).repairs = []) ∧ ((ddrAt wDramReadsAndUpkeep_112 (ddrIx 7 0)).faultAt = none) ∧ (wDramReadsAndUpkeep_112.parked = [])) ∧
    (((ddrAt wDramReadsAndUpkeep_113 (ddrIx 7 0)).st = DdrState.retrain) ∧ ((ddrAt wDramReadsAndUpkeep_113 (ddrIx 7 0)).repairs = [5]) ∧ ((ddrAt wDramReadsAndUpkeep_113 (ddrIx 7 0)).repaired = []) ∧ (wDramReadsAndUpkeep_113.dramFlips = []) ∧ ((ddrAt wDramReadsAndUpkeep_113 (ddrIx 7 0)).faultAt = none) ∧ (wDramReadsAndUpkeep_113.parked = [])) ∧
    (((ddrAt wDramReadsAndUpkeep_114 (ddrIx 7 0)).st = DdrState.retrain)) ∧
    (((ddrAt wDramReadsAndUpkeep_115 (ddrIx 7 0)).st ≠ DdrState.retrain)) ∧
    (((ddrAt wDramReadsAndUpkeep_116 (ddrIx 7 0)).st = DdrState.train) ∧ ((ddrAt wDramReadsAndUpkeep_116 (ddrIx 7 0)).faultAt = none) ∧ (wDramReadsAndUpkeep_116.parked = [])) ∧
    (((ddrAt wDramReadsAndUpkeep_118 (ddrIx 7 0)).st = DdrState.train) ∧ ((ddrAt wDramReadsAndUpkeep_118 (ddrIx 7 0)).trainTries = 0)) ∧
    (((ddrAt wDramReadsAndUpkeep_120 (ddrIx 7 0)).st = DdrState.train) ∧ ((ddrAt wDramReadsAndUpkeep_120 (ddrIx 7 0)).trainTries ≠ 0) ∧ (ddrRetired wDramReadsAndUpkeep_120 7 (1 - 0) = false) ∧ (wDramReadsAndUpkeep_120.power.st ≠ PwrState.starting) ∧ (0 < 2)) ∧
    (((ddrAt wDramReadsAndUpkeep_122 (ddrIx 7 0)).st ≠ DdrState.train)) ∧
    ((arrives wDramReadsAndUpkeep_123 7 = true) ∧ (0 < 2) ∧ (wDramReadsAndUpkeep_123.dia.valid = false) ∧ ((ddrAt wDramReadsAndUpkeep_123 (ddrIx 7 0)).trnRun = none) ∧ ((ddrAt wDramReadsAndUpkeep_123 (ddrIx 7 0)).st ≠ DdrState.active) ∧ ((ddrAt wDramReadsAndUpkeep_123 (ddrIx 7 0)).st ≠ DdrState.retired) ∧ (dieOk wDramReadsAndUpkeep_123 7 = true)) ∧
    ((arrives wDramReadsAndUpkeep_124 7 = false ∨ wDramReadsAndUpkeep_124.dia.valid = true ∨ (ddrAt wDramReadsAndUpkeep_124 (ddrIx 7 0)).trnRun.isSome = true ∨ (ddrAt wDramReadsAndUpkeep_124 (ddrIx 7 0)).st = DdrState.active ∨ (ddrAt wDramReadsAndUpkeep_124 (ddrIx 7 0)).st = DdrState.retired)) ∧
    ((arrives wDramReadsAndUpkeep_125 7 = true) ∧ (dieOk wDramReadsAndUpkeep_125 7 = true) ∧ (0 < 2)) ∧
    ((arrives wUp 8 = false)) ∧
    (((ddrAt wDramReadsAndUpkeep_126 (ddrIx 7 0)).trnRun = some tc) ∧ (tc.pattern ≠ 1#3) ∧ (tc.op = 0#2) ∧ ((wDramReadsAndUpkeep_127.all fun (e : TrnErr) => e.row == tc.row.toNat) = true) ∧ ((List.map (fun (e : TrnErr) => e.beat) wDramReadsAndUpkeep_127).Nodup)) ∧
    (((ddrAt wDramReadsAndUpkeep_128 (ddrIx 7 0)).trnRun = some wDramReadsAndUpkeep_129) ∧ (wDramReadsAndUpkeep_129.op = 1#2 ∨ 2 ≤ wDramReadsAndUpkeep_129.op.toNat)) ∧
    (((ddrAt wDramReadsAndUpkeep_130 (ddrIx 7 0)).trnRun = some wDramReadsAndUpkeep_131) ∧ (wDramReadsAndUpkeep_131.op = 1#2 ∨ 2 ≤ wDramReadsAndUpkeep_131.op.toNat)) ∧
    (((ddrAt wDramReadsAndUpkeep_132 (ddrIx 7 0)).trnRun = none)) ∧
    ((ddrOk wDramReadsAndUpkeep_133 7 0 = true) ∧ (ddrRuns wDramReadsAndUpkeep_133 (ddrAt wDramReadsAndUpkeep_133 (ddrIx 7 0)) = true) ∧ ((ddrAt wDramReadsAndUpkeep_133 (ddrIx 7 0)).st = DdrState.active) ∧ ((ddrAt wDramReadsAndUpkeep_133 (ddrIx 7 0)).scrEnable = true) ∧ (dramSound wDramReadsAndUpkeep_133 = true) ∧ (((List.range 8).all fun (b : Nat) => !blkBad wDramReadsAndUpkeep_133 7 0 (512 * (ddrAt wDramReadsAndUpkeep_133 (ddrIx 7 0)).scrNext + 64 * b)) = true)) ∧
    ((ddrOk wDramReadsAndUpkeep_134 7 0 = true) ∧ (ddrRuns wDramReadsAndUpkeep_134 (ddrAt wDramReadsAndUpkeep_134 (ddrIx 7 0)) = true) ∧ ((ddrAt wDramReadsAndUpkeep_134 (ddrIx 7 0)).st = DdrState.active) ∧ ((ddrAt wDramReadsAndUpkeep_134 (ddrIx 7 0)).scrEnable = true) ∧ (dramSound wDramReadsAndUpkeep_134 = true) ∧ (7 < 8) ∧ (511 < 512) ∧ (512 * (ddrAt wDramReadsAndUpkeep_134 (ddrIx 7 0)).scrNext + 64 * 7 < ddrData wDramReadsAndUpkeep_134 7) ∧ ((ddrAt wDramReadsAndUpkeep_134 (ddrIx 7 0)).tracker = []) ∧ (((List.range 8).all fun (j : Nat) => !blkBad wDramReadsAndUpkeep_134 7 0 (512 * (ddrAt wDramReadsAndUpkeep_134 (ddrIx 7 0)).scrNext + 64 * j)) = true)) ∧
    ((ddrOk wDramReadsAndUpkeep_135 7 0 = true) ∧ (ddrRuns wDramReadsAndUpkeep_135 (ddrAt wDramReadsAndUpkeep_135 (ddrIx 7 0)) = true) ∧ ((ddrAt wDramReadsAndUpkeep_135 (ddrIx 7 0)).st = DdrState.active) ∧ ((ddrAt wDramReadsAndUpkeep_135 (ddrIx 7 0)).scrEnable = true) ∧ (dramSound wDramReadsAndUpkeep_135 = true) ∧ (7 < 8) ∧ (511 < 512) ∧ (512 * (ddrAt wDramReadsAndUpkeep_135 (ddrIx 7 0)).scrNext + 64 * 7 < ddrData wDramReadsAndUpkeep_135 7) ∧ ((ddrAt wDramReadsAndUpkeep_135 (ddrIx 7 0)).tracker = []) ∧ (((List.range 8).all fun (j : Nat) => !blkBad wDramReadsAndUpkeep_135 7 0 (512 * (ddrAt wDramReadsAndUpkeep_135 (ddrIx 7 0)).scrNext + 64 * j)) = true)) ∧
    ((ddrOk wDramReadsAndUpkeep_137 7 0 = true) ∧ (ddrRuns wDramReadsAndUpkeep_137 (ddrAt wDramReadsAndUpkeep_137 (ddrIx 7 0)) = true) ∧ ((ddrAt wDramReadsAndUpkeep_137 (ddrIx 7 0)).st = DdrState.active) ∧ ((ddrAt wDramReadsAndUpkeep_137 (ddrIx 7 0)).scrEnable = true) ∧ (dramSound wDramReadsAndUpkeep_137 = true) ∧ (7 < 8) ∧ (3 < 511) ∧ (511 < 512) ∧ (512 * (ddrAt wDramReadsAndUpkeep_137 (ddrIx 7 0)).scrNext + 64 * 7 < ddrData wDramReadsAndUpkeep_137 7) ∧ (mgtRegion ≤ 512 * (ddrAt wDramReadsAndUpkeep_137 (ddrIx 7 0)).scrNext + 64 * 7) ∧ (blkBad wDramReadsAndUpkeep_137 7 0 (512 * (ddrAt wDramReadsAndUpkeep_137 (ddrIx 7 0)).scrNext + 64 * 7) = false) ∧ ((ddrAt wDramReadsAndUpkeep_137 (ddrIx 7 0)).faultAt = none) ∧ (((List.range 8).all fun (j : Nat) => !blkBad wDramReadsAndUpkeep_137 7 0 (512 * (ddrAt wDramReadsAndUpkeep_137 (ddrIx 7 0)).scrNext + 64 * j)) = true)) ∧
    ((ddrOk wDramReadsAndUpkeep_138 7 0 = false ∨ ddrRuns wDramReadsAndUpkeep_138 (ddrAt wDramReadsAndUpkeep_138 (ddrIx 7 0)) = false ∨ (ddrAt wDramReadsAndUpkeep_138 (ddrIx 7 0)).st ≠ DdrState.active ∨ (ddrAt wDramReadsAndUpkeep_138 (ddrIx 7 0)).scrEnable = false)) := by
  refine ⟨?_, ?_, ?_, ?_, ?_, ?_, ?_, ?_, ?_, ?_, ?_, ?_, ?_, ?_, ?_, ?_, ?_, ?_, ?_, ?_, ?_, ?_, ?_, ?_, ?_, ?_, ?_, ?_, ?_, ?_, ?_, ?_, ?_, ?_, ?_, ?_, ?_, ?_, ?_, ?_, ?_, ?_, ?_⟩
  all_goals decide +kernel

theorem witness_ArraysScrubAndMarch :
    (((scrubAt wArraysScrubAndMarch_139 7).enable = true) ∧ (engineRuns wArraysScrubAndMarch_139 7 = true) ∧ (allSteady wArraysScrubAndMarch_139 = true) ∧ (blockBad wArraysScrubAndMarch_139 (scanNow wArraysScrubAndMarch_139 7) = false)) ∧
    (((scrubAt wUp 7).enable = true) ∧ (engineRuns wUp 7 = true) ∧ (allSteady wUp = true) ∧ (blockBad wUp (scanNow wUp 7) = false)) ∧
    (((scrubAt wArraysScrubAndMarch_140 7).enable = true) ∧ (engineRuns wArraysScrubAndMarch_140 7 = true) ∧ (dieOk wArraysScrubAndMarch_140 7 = true) ∧ (allSteady wArraysScrubAndMarch_140 = true) ∧ (blockBad wArraysScrubAndMarch_140 (scanNow wArraysScrubAndMarch_140 7) = false) ∧ (63 < 64) ∧ ((scanNow wArraysScrubAndMarch_140 7).kind = ArrKind.bank) ∧ (tracked (scrubAt wArraysScrubAndMarch_140 7).tracker (scanNow wArraysScrubAndMarch_140 7) < 3)) ∧
    (((scrubAt wArraysScrubAndMarch_141 7).enable = true) ∧ (engineRuns wArraysScrubAndMarch_141 7 = true) ∧ (dieOk wArraysScrubAndMarch_141 7 = true) ∧ (allSteady wArraysScrubAndMarch_141 = true) ∧ (blockBad wArraysScrubAndMarch_141 (scanNow wArraysScrubAndMarch_141 7) = false) ∧ (63 < 64) ∧ ((scanNow wArraysScrubAndMarch_141 7).kind = ArrKind.bank) ∧ (tracked (scrubAt wArraysScrubAndMarch_141 7).tracker (scanNow wArraysScrubAndMarch_141 7) < 3)) ∧
    (((scrubAt wArraysScrubAndMarch_142 7).enable = true) ∧ (engineRuns wArraysScrubAndMarch_142 7 = true) ∧ (dieOk wArraysScrubAndMarch_142 7 = true) ∧ (allSteady wArraysScrubAndMarch_142 = true) ∧ (blockBad wArraysScrubAndMarch_142 (scanNow wArraysScrubAndMarch_142 7) = false) ∧ (79 < 80) ∧ ((scanNow wArraysScrubAndMarch_142 7).kind = ArrKind.bank) ∧ (tracked (scrubAt wArraysScrubAndMarch_142 7).tracker (scanNow wArraysScrubAndMarch_142 7) = 3) ∧ ((scrubAt wArraysScrubAndMarch_142 7).deferred = []) ∧ ((scrubAt wArraysScrubAndMarch_142 7).repairing = []) ∧ (freeSpares (scrubAt wArraysScrubAndMarch_142 7) (scanNow wArraysScrubAndMarch_142 7) ≠ [])) ∧
    (((scrubAt wArraysScrubAndMarch_143 7).enable = true) ∧ (engineRuns wArraysScrubAndMarch_143 7 = true) ∧ (dieOk wArraysScrubAndMarch_143 7 = true) ∧ (allSteady wArraysScrubAndMarch_143 = true) ∧ (blockBad wArraysScrubAndMarch_143 (scanNow wArraysScrubAndMarch_143 7) = false) ∧ (3 < 63) ∧ (63 < 64) ∧ ((scanNow wArraysScrubAndMarch_143 7).kind = ArrKind.bank)) ∧
    (((scrubAt wArraysScrubAndMarch_144 7).enable = false ∨ engineRuns wArraysScrubAndMarch_144 7 = false)) ∧
    ((ab.kind = ArrKind.bank) ∧ (ab.owner = 7) ∧ (wArraysScrubAndMarch_145.flips = [(ab, 1#80 <<< 63)]) ∧ (63 < 64) ∧ (wArraysScrubAndMarch_145.poison.contains ab = false) ∧ (touchesBlk 40 8 ab.blk = true)) ∧
    ((engineRuns wArraysScrubAndMarch_146 7 = true) ∧ ((scrubAt wArraysScrubAndMarch_146 7).repairing = [ab]) ∧ ((scrubAt wArraysScrubAndMarch_146 7).deferred = []) ∧ (repairWaits wArraysScrubAndMarch_146 ab = false) ∧ (allSteady wArraysScrubAndMarch_146 = true) ∧ (ab.kind = ArrKind.bank) ∧ (68 < 69) ∧ (freeSpares { period := (scrubAt wArraysScrubAndMarch_146 7).period, enable := (scrubAt wArraysScrubAndMarch_146 7).enable, passes := (scrubAt wArraysScrubAndMarch_146 7).passes, stuck := (scrubAt wArraysScrubAndMarch_146 7).stuck, writebacks := (scrubAt wArraysScrubAndMarch_146 7).writebacks, full := (scrubAt wArraysScrubAndMarch_146 7).full, repaired := (scrubAt wArraysScrubAndMarch_146 7).repaired, tracker := (scrubAt wArraysScrubAndMarch_146 7).tracker, deferred := (scrubAt wArraysScrubAndMarch_146 7).deferred, rows := (scrubAt wArraysScrubAndMarch_146 7).rows, badSpares := (scrubAt wArraysScrubAndMarch_146 7).badSpares, next := (scrubAt wArraysScrubAndMarch_146 7).next : Scrub } (rowOfBlk ab) ≠ [])) ∧
    ((engineRuns wUp 7 = false ∨ repairWaits wUp ab = true ∨ ((scrubAt wUp 7).repairing ++ (scrubAt wUp 7).deferred).any (sameRow ab) = false)) ∧
    ((dieLive ms 0 = true) ∧ (blockOn ms 0 mb = true) ∧ (blockBad ms mb = true) ∧ (mb.kind = ArrKind.bank) ∧ (masterBlock? ms mb = some ((masterBlock? ms mb).getD [])) ∧ (((masterBlock? ms mb).getD []).length = 8)) ∧
    ((dieLive mc 0 = true) ∧ (blockOn mc 0 mcb = true) ∧ (blockBad mc mcb = true) ∧ (mcb.kind ≠ ArrKind.bank) ∧ (masterBlock? mc mcb = some ((masterBlock? mc mcb).getD [])) ∧ (((masterBlock? mc mcb).getD []).length = 8)) ∧
    ((dieLive wUp 0 = false ∨ blockOn wUp 0 mb = false ∨ blockBad wUp mb = false ∨ masterBlock? wUp mb = none)) ∧
    ((arrives wArraysScrubAndMarch_148 7 = true) ∧ (wArraysScrubAndMarch_148.dia.valid = false) ∧ ((marchAt wArraysScrubAndMarch_148 7).busy = false) ∧ ((marchAt wArraysScrubAndMarch_148 7).kind.toNat ≠ 1 ∨ (clauseAt wArraysScrubAndMarch_148 (clauseIx 7 (marchAt wArraysScrubAndMarch_148 7).index.toNat)).powered = true)) ∧
    ((arrives wArraysScrubAndMarch_149 7 = true) ∧ (wArraysScrubAndMarch_149.dia.valid = false) ∧ ((marchAt wArraysScrubAndMarch_149 7).busy = false) ∧ ((marchAt wArraysScrubAndMarch_149 7).kind.toNat ≠ 1 ∨ (clauseAt wArraysScrubAndMarch_149 (clauseIx 7 (marchAt wArraysScrubAndMarch_149 7).index.toNat)).powered = true)) ∧
    ((arrives wArraysScrubAndMarch_150 7 = true) ∧ (wArraysScrubAndMarch_150.dia.valid = false) ∧ ((marchAt wArraysScrubAndMarch_150 7).busy = false) ∧ ((marchAt wArraysScrubAndMarch_150 7).kind = 1#8) ∧ ((clauseAt wArraysScrubAndMarch_150 (clauseIx 7 (marchAt wArraysScrubAndMarch_150 7).index.toNat)).powered = false) ∧ (marchAllowed wArraysScrubAndMarch_150 7 1 (marchAt wArraysScrubAndMarch_150 7).index.toNat (marchAt wArraysScrubAndMarch_150 7).mode = true)) ∧
    ((arrives wUp 7 = false ∨ wUp.dia.valid = true ∨ (marchAt wUp 7).busy = true)) ∧
    (((marchAt wArraysScrubAndMarch_151 7).busy = true) ∧ ((marchAt wArraysScrubAndMarch_151 7).runMode = true) ∧ ((marchAt wArraysScrubAndMarch_151 7).cmd = none) ∧ ((marchAt wArraysScrubAndMarch_151 7).powered = none) ∧ (wArraysScrubAndMarch_151.parked = []) ∧ (allSteady wArraysScrubAndMarch_151 = true) ∧ ((scrubAt wArraysScrubAndMarch_151 7).rows = [])) ∧
    (((marchAt bm 7).busy = true) ∧ ((marchAt bm 7).runMode = true) ∧ ((marchAt bm 7).cmd = none) ∧ ((marchAt bm 7).powered = none) ∧ ((marchAt bm 7).skipped = []) ∧ (bm.parked = []) ∧ (allSteady bm = true) ∧ ((scrubAt bm 7).rows = []) ∧ (sb.mask ≠ 0#80) ∧ (sb.spare = none) ∧ (marchTests bm 7 (marchAt bm 7).runKind.toNat (marchAt bm 7).runIndex.toNat true (rowOfBlk sb.blk) = true) ∧ (freeSpares (scrubAt bm 7) (rowOfBlk sb.blk) ≠ [])) ∧
    (((marchAt wArraysScrubAndMarch_152 7).busy = true) ∧ ((marchAt wArraysScrubAndMarch_152 7).runMode = true) ∧ ((marchAt wArraysScrubAndMarch_152 7).cmd = none) ∧ ((marchAt wArraysScrubAndMarch_152 7).powered = none) ∧ ((marchAt wArraysScrubAndMarch_152 7).skipped = []) ∧ (wArraysScrubAndMarch_152.parked = []) ∧ (allSteady wArraysScrubAndMarch_152 = true) ∧ ((scrubAt wArraysScrubAndMarch_152 7).rows = []) ∧ (sb.mask ≠ 0#80) ∧ (sb.spare = none) ∧ (marchTests wArraysScrubAndMarch_152 7 (marchAt wArraysScrubAndMarch_152 7).runKind.toNat (marchAt wArraysScrubAndMarch_152 7).runIndex.toNat true (rowOfBlk sb.blk) = true) ∧ (freeSpares (scrubAt wArraysScrubAndMarch_152 7) (rowOfBlk sb.blk) = [])) ∧
    (((marchAt wArraysScrubAndMarch_153 7).busy = true) ∧ ((marchAt wArraysScrubAndMarch_153 7).runMode = false) ∧ ((marchAt wArraysScrubAndMarch_153 7).runKind = 0#8) ∧ ((marchAt wArraysScrubAndMarch_153 7).cmd = none) ∧ ((marchAt wArraysScrubAndMarch_153 7).powered = none) ∧ (wArraysScrubAndMarch_153.parked = [])) ∧
    (((marchAt wUp 7).busy = false)) ∧
    (((marchAt bm 7).busy = true) ∧ ((marchAt bm 7).runMode = true) ∧ (marchTests bm 7 (marchAt bm 7).runKind.toNat (marchAt bm 7).runIndex.toNat true ab = true) ∧ (ab.kind = ArrKind.bank) ∧ (68 < 69) ∧ ((marchAt bm 7).row ≠ some (rowOfBlk ab) ∨ (marchAt bm 7).rowYields < 15)) ∧
    (((marchAt wArraysScrubAndMarch_155 7).busy = true) ∧ ((marchAt wArraysScrubAndMarch_155 7).runMode = true) ∧ (marchTests wArraysScrubAndMarch_155 7 (marchAt wArraysScrubAndMarch_155 7).runKind.toNat (marchAt wArraysScrubAndMarch_155 7).runIndex.toNat true ab = true) ∧ (ab.kind = ArrKind.bank) ∧ (68 < 69) ∧ ((marchAt wArraysScrubAndMarch_155 7).row = some (rowOfBlk ab)) ∧ (15 ≤ (marchAt wArraysScrubAndMarch_155 7).rowYields)) ∧
    (((marchAt wArraysScrubAndMarch_156 7).busy = true) ∧ ((marchAt wArraysScrubAndMarch_156 7).runMode = true) ∧ (marchTests wArraysScrubAndMarch_156 7 (marchAt wArraysScrubAndMarch_156 7).runKind.toNat (marchAt wArraysScrubAndMarch_156 7).runIndex.toNat true wArraysScrubAndMarch_157 = true) ∧ (wArraysScrubAndMarch_157.kind ≠ ArrKind.bank)) ∧
    (((marchAt wUp 7).busy = false ∨ (marchAt wUp 7).runMode = false ∨ marchTests wUp 7 (marchAt wUp 7).runKind.toNat (marchAt wUp 7).runIndex.toNat true ab = false)) ∧
    ((arrives wArraysScrubAndMarch_158 7 = true)) ∧
    ((arrives wArraysScrubAndMarch_159 7 = true) ∧ (2 < 3)) ∧
    ((arrives wUp 8 = false)) := by
  refine ⟨?_, ?_, ?_, ?_, ?_, ?_, ?_, ?_, ?_, ?_, ?_, ?_, ?_, ?_, ?_, ?_, ?_, ?_, ?_, ?_, ?_, ?_, ?_, ?_, ?_, ?_, ?_, ?_, ?_⟩
  all_goals decide +kernel

theorem witness_QueuesAndFabricDeliver :
    ((3 < 4) ∧ (classRoom wUp 3 = true) ∧ ((List.replicate 64 1#8).length = 64)) ∧
    ((3 < 4) ∧ (classRoom wQueuesAndFabricDeliver_160 3 = false)) ∧
    ((1 = 1 ∨ 1 = 2) ∧ ((evqAt wUp (3 * 7 + 1)).items.length < evqDepth 1)) ∧
    ((2 = 1 ∨ 2 = 2) ∧ ((evqAt wUp (3 * 7 + 2)).items.length < evqDepth 2)) ∧
    (((evqAt wUp (3 * 7)).items.length < 512)) ∧
    ((0 < 3) ∧ (evqDepth 0 ≤ (evqAt full (3 * 7 + 0)).items.length) ∧ ((0 = 0 ∧ ∃ (e : LogEntry), QItem.entry le = QItem.entry e) ∨ 0 ≠ 0 ∧ ∃ (b : List Byte), QItem.entry le = QItem.bytes b)) ∧
    ((1 < 3) ∧ (evqDepth 1 ≤ (evqAt full (3 * 7 + 1)).items.length) ∧ ((1 = 0 ∧ ∃ (e : LogEntry), wQueuesAndFabricDeliver_163 = QItem.entry e) ∨ 1 ≠ 0 ∧ ∃ (b : List Byte), wQueuesAndFabricDeliver_163 = QItem.bytes b)) ∧
    ((2 < 3) ∧ (evqDepth 2 ≤ (evqAt full (3 * 7 + 2)).items.length) ∧ ((2 = 0 ∧ ∃ (e : LogEntry), wQueuesAndFabricDeliver_164 = QItem.entry e) ∨ 2 ≠ 0 ∧ ∃ (b : List Byte), wQueuesAndFabricDeliver_164 = QItem.bytes b)) ∧
    ((portTakes wUp { die := 7, clause := 65, cell := 15 : CellId }.die (cellAt wUp (cellIx { die := 7, clause := 65, cell := 15 : CellId })).portR = true)) ∧
    ((portTakes wUp { die := 7, clause := 65, cell := 15 : CellId }.die (cellAt wUp (cellIx { die := 7, clause := 65, cell := 15 : CellId })).portL = true)) ∧
    ((portTakes fullPort { die := 7, clause := 65, cell := 15 : CellId }.die (if true = true then (cellAt fullPort (cellIx { die := 7, clause := 65, cell := 15 : CellId })).portR else (cellAt fullPort (cellIx { die := 7, clause := 65, cell := 15 : CellId })).portL) = false)) ∧
    ((fwRuns cqS = true) ∧ (topEntry? cqS.cmdq = some ce)) ∧
    ((topEntry? wQueuesAndFabricDeliver_166 = some ce)) ∧
    ((fwRuns wUp = false ∨ topEntry? wUp.cmdq = none)) ∧
    (((evqAt wQueuesAndFabricDeliver_167 (3 * 7 + 2)).items = wQueuesAndFabricDeliver_168 :: wQueuesAndFabricDeliver_169) ∧ ((evqAt wQueuesAndFabricDeliver_167 (3 * 7 + 2)).lostNew = 0)) ∧
    (((evqAt wQueuesAndFabricDeliver_170 (3 * 7 + 2)).items = wQueuesAndFabricDeliver_171 :: it255) ∧ ((evqAt wQueuesAndFabricDeliver_170 (3 * 7 + 2)).lostNew = 0) ∧ ((evqAt wQueuesAndFabricDeliver_170 (3 * 7 + 2)).items.length = 256)) ∧
    (((evqAt wQueuesAndFabricDeliver_173 (3 * 7 + 2)).items = [wQueuesAndFabricDeliver_174]) ∧ (512 ≤ (evqAt wQueuesAndFabricDeliver_173 (3 * 7)).items.length)) ∧
    (((cellAt (cS inC) (cellIx { die := 0, clause := 0, cell := 0 : CellId })).inq = wQueuesAndFabricDeliver_175 :: wQueuesAndFabricDeliver_176) ∧ ((cellAt (cS inC) (cellIx { die := 0, clause := 0, cell := 0 : CellId })).frame = some wQueuesAndFabricDeliver_177) ∧ ((sget (0#64) (cellAt (cS inC) (cellIx { die := 0, clause := 0, cell := 0 : CellId })).recWords wQueuesAndFabricDeliver_175.q).getLsbD wQueuesAndFabricDeliver_175.ix = false) ∧ (frameFree (clauseAt (cS inC) (cellIx { die := 0, clause := 0, cell := 0 : CellId } / 16)) wQueuesAndFabricDeliver_177.k wQueuesAndFabricDeliver_175.q = true) ∧ ((wQueuesAndFabricDeliver_177.base (rlen (clauseRow (cS inC) (cellIx { die := 0, clause := 0, cell := 0 : CellId } / 16))) wQueuesAndFabricDeliver_175.q + 8 * wQueuesAndFabricDeliver_175.ix) % 8 = 0) ∧ (wQueuesAndFabricDeliver_175.poisoned = false) ∧ ((cS inC).flips = [])) ∧
    (((cellAt (cS outC) (cellIx { die := 0, clause := 0, cell := 0 : CellId })).outq = wQueuesAndFabricDeliver_178 :: wQueuesAndFabricDeliver_179) ∧ ((clauseAt (cS outC) (cellIx { die := 0, clause := 0, cell := 0 : CellId } / 16)).lineQ? wQueuesAndFabricDeliver_178.fst = some lf) ∧ (lf.st = LineState.filling) ∧ (wQueuesAndFabricDeliver_178.snd.fst < 7) ∧ (([] : List (BitVec 72)) = [] ∨ ([] : List (BitVec 72)) = [3#72])) ∧
    (((cellAt (cS outC) (cellIx { die := 0, clause := 0, cell := 0 : CellId })).outq = wQueuesAndFabricDeliver_180 :: wQueuesAndFabricDeliver_181) ∧ ((clauseAt (cS outC) (cellIx { die := 0, clause := 0, cell := 0 : CellId } / 16)).lineQ? wQueuesAndFabricDeliver_180.fst = some lf) ∧ (lf.st = LineState.filling) ∧ (wQueuesAndFabricDeliver_180.snd.fst < 7) ∧ (wQueuesAndFabricDeliver_182 = [] ∨ wQueuesAndFabricDeliver_182 = [3#72])) ∧
    (((if true = true then (cellAt wUp (cellIx { die := 7, clause := 65, cell := 15 : CellId })).portR else (cellAt wUp (cellIx { die := 7, clause := 65, cell := 15 : CellId })).portL) = [])) ∧
    (((portAt wUp (4 * 7 + 3)).ingress = [] ∨ hasForward wUp 7 = false)) ∧
    (((portAt (fwd rb bb) (4 * 7 + 3)).ingress = [bb]) ∧ (hasForward (fwd rb bb) 7 = true) ∧ (dramWaits (fwd rb bb) 7 bb.addr.toNat bb.data.length = false) ∧ (bb.addr.toNat + bb.data.length ≤ dramEnd (fwd rb bb) 7)) ∧
    ((dieOk (pu 7) 7 = true) ∧ (3 < 4) ∧ ((portAt (pu 7) (4 * 7 + 3)).st = PortState.up) ∧ (firstBad gsB = true) ∧ ((portAt (pu 7) (4 * 7 + 3)).groupReplays < 8)) ∧
    ((dieOk (pu 7) 7 = true) ∧ (3 < 4) ∧ ((portAt (pu 7) (4 * 7 + 3)).st = PortState.up) ∧ (groupsGood wQueuesAndFabricDeliver_184 = false) ∧ (firstBad wQueuesAndFabricDeliver_184 = false)) ∧
    ((dieOk (pu 8) 7 = true) ∧ (3 < 4) ∧ ((portAt (pu 8) (4 * 7 + 3)).st = PortState.up) ∧ (firstBad gsB = true) ∧ ((portAt (pu 8) (4 * 7 + 3)).groupReplays = 8)) ∧
    ((dieOk (pu 8) 7 = true) ∧ (3 < 4) ∧ ((portAt (pu 8) (4 * 7 + 3)).st = PortState.up) ∧ (groupsGood gsG = true) ∧ (peerPort? (pu 8).part.dies 7 3 = some (4, 3)) ∧ ((pu 8).fabric = [])) ∧
    ((dieOk wQueuesAndFabricDeliver_185 0 = true) ∧ (3 < 4) ∧ ((portAt wQueuesAndFabricDeliver_185 3).st = PortState.up) ∧ (groupsGood gsG = true) ∧ (peerPort? wQueuesAndFabricDeliver_185.part.dies 0 3 = some (3, 3)) ∧ (wQueuesAndFabricDeliver_185.fabric = [{ place := 3, via := none, path := [0], cargo := Cargo.beat 5 : Flight }])) ∧
    ((dieOk wQueuesAndFabricDeliver_186 7 = true) ∧ (3 < 4) ∧ ((portAt wQueuesAndFabricDeliver_186 (4 * 7 + 3)).st = PortState.up) ∧ (groupsGood gsG = true) ∧ (peerPort? wQueuesAndFabricDeliver_186.part.dies 7 3 = some (4, 3)) ∧ (wQueuesAndFabricDeliver_186.fabric = [{ place := 4, via := some 3, path := [7], cargo := Cargo.halo 65 true 9#128 : Flight }])) ∧
    ((dieOk wQueuesAndFabricDeliver_187 7 = true) ∧ (3 < 4) ∧ ((portAt wQueuesAndFabricDeliver_187 (4 * 7 + 3)).st = PortState.up) ∧ (groupsGood gsG = true) ∧ (peerPort? wQueuesAndFabricDeliver_187.part.dies 7 3 = some (4, 3)) ∧ (wQueuesAndFabricDeliver_187.fabric = [{ place := 4, via := none, path := [7], cargo := Cargo.block bb : Flight }]) ∧ ((portAt wQueuesAndFabricDeliver_187 (4 * 7 + 3)).ingress.length < queueDepth wQueuesAndFabricDeliver_187 5 7) ∧ (4 * 4 + 3 ≠ 4 * 7 + 3)) ∧
    ((dieOk wQueuesAndFabricDeliver_188 7 = true) ∧ (3 < 4) ∧ ((portAt wQueuesAndFabricDeliver_188 (4 * 7 + 3)).st = PortState.up) ∧ (groupsGood gsG = true) ∧ (peerPort? wQueuesAndFabricDeliver_188.part.dies 7 3 = some (4, 3)) ∧ (wQueuesAndFabricDeliver_188.fabric = [{ place := 4, via := none, path := 7 :: 6 :: wQueuesAndFabricDeliver_189, cargo := Cargo.block bb : Flight }]) ∧ ((portAt wQueuesAndFabricDeliver_188 (4 * 7 + 3)).ingress.length < queueDepth wQueuesAndFabricDeliver_188 5 7)) ∧
    ((dieOk wUp 7 = false ∨ 4 ≤ 3 ∨ (portAt wUp (4 * 7 + 3)).st ≠ PortState.up)) ∧
    ((dieOk (pt 1) 7 = true) ∧ (3 < 4) ∧ ((portAt (pt 1) (4 * 7 + 3)).st = PortState.train)) ∧
    ((dieOk (pt 0) 7 = true) ∧ (3 < 4) ∧ ((portAt (pt 0) (4 * 7 + 3)).st = PortState.train) ∧ ((portAt (pt 0) (4 * 7 + 3)).fails = 0)) ∧
    ((dieOk wQueuesAndFabricDeliver_190 7 = true) ∧ (3 < 4) ∧ ((portAt wQueuesAndFabricDeliver_190 (4 * 7 + 3)).st = PortState.train) ∧ ((portAt wQueuesAndFabricDeliver_190 (4 * 7 + 3)).fails ≠ 0) ∧ (peerPort? wQueuesAndFabricDeliver_190.part.dies 7 3 = some (4, 3)) ∧ (wQueuesAndFabricDeliver_190.gram.routes = [])) ∧
    ((dieOk wQueuesAndFabricDeliver_191 7 = true) ∧ (3 < 4) ∧ ((portAt wQueuesAndFabricDeliver_191 (4 * 7 + 3)).st = PortState.train) ∧ ((portAt wQueuesAndFabricDeliver_191 (4 * 7 + 3)).fails ≠ 0) ∧ (peerPort? wQueuesAndFabricDeliver_191.part.dies 7 3 = some (4, 3)) ∧ (wQueuesAndFabricDeliver_191.gram.routes = [wQueuesAndFabricDeliver_192]) ∧ (usesHop wQueuesAndFabricDeliver_192 7 4 = true)) ∧
    ((dieOk (pu 0) 7 = false ∨ 4 ≤ 3 ∨ (portAt (pu 0) (4 * 7 + 3)).st ≠ PortState.train)) := by
  refine ⟨?_, ?_, ?_, ?_, ?_, ?_, ?_, ?_, ?_, ?_, ?_, ?_, ?_, ?_, ?_, ?_, ?_, ?_, ?_, ?_, ?_, ?_, ?_, ?_, ?_, ?_, ?_, ?_, ?_, ?_, ?_, ?_, ?_, ?_, ?_, ?_, ?_⟩
  · decide +kernel
  · decide +kernel
  · decide +kernel
  · decide +kernel
  · decide +kernel
  · exact ⟨by decide +kernel, by decide +kernel, Or.inl ⟨rfl, _, rfl⟩⟩
  · exact ⟨by decide +kernel, by decide +kernel, Or.inr ⟨by decide, _, rfl⟩⟩
  · exact ⟨by decide +kernel, by decide +kernel, Or.inr ⟨by decide, _, rfl⟩⟩
  · decide +kernel
  · decide +kernel
  · decide +kernel
  · decide +kernel
  · decide +kernel
  · decide +kernel
  · decide +kernel
  · decide +kernel
  · decide +kernel
  · decide +kernel
  · decide +kernel
  · decide +kernel
  · decide +kernel
  · decide +kernel
  · decide +kernel
  · decide +kernel
  · decide +kernel
  · decide +kernel
  · decide +kernel
  · decide +kernel
  · decide +kernel
  · decide +kernel
  · decide +kernel
  · decide +kernel
  · decide +kernel
  · decide +kernel
  · decide +kernel
  · decide +kernel
  · decide +kernel

theorem witness_ArrayCodeClassesSyndromes :
    ((rcSR 0#80 = 0#8) ∧ (rcSC 0#80 = 0#8)) ∧
    ((7 < 8) ∧ (7 < 8) ∧ (rcSR wArrayCodeClassesSyndromes_193 = 1#8 <<< 7) ∧ (rcSC wArrayCodeClassesSyndromes_193 = 1#8 <<< 7)) ∧
    ((7 < 8) ∧ (rcSR wArrayCodeClassesSyndromes_194 = 1#8 <<< 7 ∧ rcSC wArrayCodeClassesSyndromes_194 = 0#8 ∨ rcSR wArrayCodeClassesSyndromes_194 = 0#8 ∧ rcSC wArrayCodeClassesSyndromes_194 = 1#8 <<< 7)) ∧
    ((rcSR (rcPoison 5#64) = 255#8) ∧ (rcSC (rcPoison 5#64) = 255#8)) ∧
    ((¬(rcSR wArrayCodeClassesSyndromes_195 = 255#8 ∧ rcSC wArrayCodeClassesSyndromes_195 = 255#8)) ∧ (∀ (i : Nat), i < 8 → rcSR wArrayCodeClassesSyndromes_195 ≠ 1#8 <<< i) ∧ (rcSR wArrayCodeClassesSyndromes_195 ≠ 0#8)) ∧
    ((¬(rcSR wArrayCodeClassesSyndromes_196 = 255#8 ∧ rcSC wArrayCodeClassesSyndromes_196 = 255#8)) ∧ (∀ (i : Nat), i < 8 → rcSC wArrayCodeClassesSyndromes_196 ≠ 1#8 <<< i) ∧ (rcSC wArrayCodeClassesSyndromes_196 ≠ 0#8)) ∧
    ((79 < 80)) ∧
    ((0 < 63) ∧ (63 < 64)) := by
  refine ⟨?_, ?_, ?_, ?_, ?_, ?_, ?_, ?_⟩
  all_goals decide +kernel

end W16

namespace W17

/-- A state with a written flash byte, a programmed key and two commands that wait. -/
def busy : State := { wUp with flash := [(5, 0)], fuses := { keys := [(0, edZeroBytes)] }, pending := [.nop h1, .registerWrite 0 0x204 0 0] }

/-- What a step of it answers. -/
def after : State := match step busy with
  | .next t => t
  | _ => busy

theorem step_busy : step busy = .next after := rfl

theorem witness_StepKeepsMemoryForm : busy.memOk = true ∧ step busy = .next after := ⟨by decide +kernel, step_busy⟩

theorem witness_StepNeverClearsFuses : keyValuesFit busy = true ∧ step busy = .next after := ⟨by decide +kernel, step_busy⟩

theorem witness_StepTakesOnlyTheFront : (step busy = .next after ∧ after.pending = [.registerWrite 0 0x204 0 0]) ∧ leftToPatch busy (.nop h1) = false :=
  ⟨⟨step_busy, by decide +kernel⟩, by decide +kernel⟩

end W17

end Sys2Proof.Tests
end

section
/-! PROOFS. Registers and their clear bits (R9, R249): TYN_LNK_CTRL.CLR against the slots of a link that are due. -/

open Sys2Proof Sys2Proof.Machine Sys2Proof.Claims

namespace Sys2Proof.Proofs

/-- CLR of TYN_LNK_CTRL that reaches its die clears the link's counters as they stand, before any slot that is due goes out. -/
theorem exec_tynLnkCtrlClr (s : State) (d l : Nat) (ha : arrives s d = true) (hl : l < 8) :
    exec (.tynLnkCtrlClr d l) s = .next (doTynLnkCtrlClr s d l) := by
  obtain ⟨hup, hreach⟩ : hostUp s = true ∧ dieReach s d = true := by simpa [arrives] using ha
  have hclr : exec (.tynLnkCtrlClr d l) s =
      .next (hostReg s d (fun s => if l < 8 then doTynLnkCtrlClr s d l else s)) := rfl
  rw [hclr, hostReg_reached s d _ hup hreach, if_pos hl]

/-- TYN_LNK_TX reads the count of the link with its due slots sent (R221, R249). -/
theorem readLink_tx (s : State) (d l : Nat) : readLink s d l 0x08 = (linkNow s d l).tx := rfl

/-- Link 0 of die 0 is in use on lane 0, and a line frame of one block waits for slot 1, which began at 66/64 ticks: at tick 2 that slot is
due and not yet sent, as once an ENCODER_INDEX of tick 2 has moved the timebase on from tick 1, where no slot is due. -/
def frameDue : State := { State.reset with
  tb := 2, power := { st := .ready, target := .ready }, pcie := { perst := false, linkUp := true, retry := false },
  links := [(0, { st := .active, lanes := 1, slot := 1, frames := [{ kind := .line, blks := [idleBlk], closed := true }] })] }

theorem arrives_frameDue : arrives frameDue 0 = true := by decide

/-- Just after CLR the due slot takes the frame, and FRAMES counts it. -/
theorem linkNow_tx_clr_frameDue : (linkNow (doTynLnkCtrlClr frameDue 0 0) 0 0).tx = 1 := by decide

/-- Refutes O60, by its clause on TYN_LNK_CTRL.CLR (R249): CLR zeroes the counters without first sending the slots that are due, and the
read of TYN_LNK_TX sends them, so in `frameDue` FRAMES reads 1 right after the clear. -/
theorem not_registersReadBackAndClear : ¬ Obligations.RegistersReadBackAndClear := by
  rintro ⟨-, -, -, -, -, -, -, -, -, -, hlink⟩
  obtain ⟨t, hrun, -, -, htx, -⟩ := hlink frameDue 0 0 arrives_frameDue (by decide)
  rw [exec_tynLnkCtrlClr frameDue 0 0 arrives_frameDue (by decide)] at hrun
  obtain rfl : doTynLnkCtrlClr frameDue 0 0 = t := by injection hrun
  rw [readLink_tx, linkNow_tx_clr_frameDue] at htx
  exact absurd htx (by decide)

end Sys2Proof.Proofs
end

section
/-! PROOFS. What a command that is known to complete leaves: the form in which the clauses of the obligations are used. -/

open Sys2Proof Sys2Proof.Machine Sys2Proof.Claims

namespace Sys2Proof.Proofs

/-- Where a command answers the next state `t`, what `Runs` says of its next state is said of `t`. -/
theorem holds_of_runs {c : Instr} {s t : State} {P : State → Prop} (hexec : exec c s = .next t) (hruns : Runs c s P) : P t := by
  obtain ⟨u, hu, hP⟩ := hruns
  obtain rfl : t = u := by simpa [hexec] using hu
  exact hP

end Sys2Proof.Proofs
end

section
/-! PROOFS. Lines and cells (R52, R157, R286, R300): the reload of initial data whose place is not a whole number of blocks. -/

open Sys2Proof Sys2Proof.Machine Sys2Proof.Claims

namespace Sys2Proof.Proofs

theorem exec_cellReloadDone (ci : CellId) (s : State) : exec (.cellReloadDone ci) s = .next (doCellReloadDone s ci) := rfl

/-- An image for cell 0 of row 0 with eight bytes of initial data at byte 16, as R49 allows. -/
def dataImage : Image :=
  { id := 0, dataAddr := 16, rowMask := 1, cellMask := 1, entry := 0, words := [5], data := [1, 2, 3, 4, 5, 6, 7, 8] }

/-- The first block of the image's copy in bank 31 of die 0: IMAGE_ID, INSTR, DATA and DATA_ADDR. -/
def copyHeader : ArrBlock := ⟨.bank, 0, bank31Base / 8⟩

/-- Die 0 with the copy of the image, in whose DATA_ADDR two bits stand flipped: 4 where 16 was stored. -/
def copyUpset : State := { State.reset with
  gram := { slots := [⟨0, 0, 0, 0⟩], images := [dataImage] }, banks := wrN [] bank31Base (imagePayload dataImage),
  clauses := [(0, { st := .serving, powered := true })], flips := [(copyHeader, 5#80 <<< 50)] }

/-- The header has been read once: uncorrectable, so it stands poisoned over its data as read (R287), and no flipped bit is left in the
banks. Cell 0 now owes a reload of its initial data, and a bit of byte 0 of its data SRAM stands flipped. -/
def reloadDue : State :=
  let s := settle copyUpset copyHeader
  { s with cells := [(0, { st := .restart, cause := 6, dataLo := 16, dataLen := 8, reload := some true })],
           flips := (⟨.cellData, 0, 0⟩, 1) :: s.flips }

theorem noFlips_reloadDue : noFlips reloadDue .bank 0 := by decide +kernel

/-- The copy reads with its data at byte 4, in the middle of a block. -/
theorem imageCopy_reloadDue : imageCopy? reloadDue 0 0 = some (bank31Base, { dataImage with dataAddr := 4 }) := by decide +kernel

/-- Class 3, cell data, of die 0 has corrected nothing before the reload. -/
theorem corrected_reloadDue : (memCorrAt reloadDue 3).corr = 0 := by decide +kernel

/-- The reload writes block 0 in part, so the array reads, corrects and merges it (R286), and the correction is counted (R300). -/
theorem corrected_after_reload : (memCorrAt (doCellReloadDone reloadDue ⟨0, 0, 0⟩) 3).corr = 1 := by decide +kernel

/-- Refutes O30, by its clause on the reload of initial data (R157): the clause lets the reload change no counter, and where the copy's
DATA_ADDR is not a multiple of 8, as in `reloadDue`, the write merges into a block with a flipped bit and counts it in MGT_MEM_CORR. -/
theorem not_linesReachTheCells : ¬ Obligations.LinesReachTheCells := by
  rintro ⟨-, -, -, -, -, -, -, -, -, -, -, -, -, -, -, -, -, -, -, -, -, -, hreload, -⟩
  obtain ⟨hframe, -⟩ := holds_of_runs (exec_cellReloadDone ⟨0, 0, 0⟩ reloadDue)
    (hreload reloadDue ⟨0, 0, 0⟩ _ _ rfl noFlips_reloadDue (by decide) (by decide) imageCopy_reloadDue (by decide))
  have hcounts : (doCellReloadDone reloadDue ⟨0, 0, 0⟩).memCorr = reloadDue.memCorr := by rw [hframe]
  have hcorr := corrected_after_reload
  rw [memCorrAt, hcounts, ← memCorrAt, corrected_reloadDue] at hcorr
  exact absurd hcorr (by decide)

end Sys2Proof.Proofs
end

section
/-! PROOFS. The gather (R199, R206, R207, R288): a poisoned block of an output ring and an inflection table that changes code 0. -/

open Sys2Proof Sys2Proof.Machine Sys2Proof.Claims

namespace Sys2Proof.Proofs

theorem exec_gatherBlock (h : Nat) (upset : Bool) (s : State) :
    exec (.gatherBlock h upset) s = .next (doGatherBlock (readCodes s h) h upset) := rfl

/-- A link record of link 0 of die 0: lane 0, and head channel 0 alone (R217). -/
def oneHeadLink : ParamRec := { typ := 0x0301, target := 0, payload := [1, 0, 1, 0, 0, 0, 0, 0, 0, 0, 0, 0] }

/-- A nozzle table of head channel 0: row 0, one head nozzle, package nozzle 0 without stagger (R198). -/
def oneNozzle : ParamRec := { typ := 0x0201, target := 0, payload := [0, 0, 1, 0, 0, 0, 0, 0, 0, 0, 0, 0] }

/-- An inflection table of row 0 whose entry E[0], of code 0 and history 0, is 1. -/
def inflatesZero : ParamRec := { typ := 0x0202, target := 0, payload := 1 :: List.replicate 127 0 }

/-- Head line 3 of head channel 0, of which nothing is gathered yet. -/
def gapLine : HeadLine := { line := 3, total := 1 }

/-- Head channel 0 gathers head line 3 in a running job; the line it reads is Ready in its output ring, and block 0 of it is poisoned. -/
def gapGather : State := { State.reset with
  gram := { slots := [⟨0, 0, 0, 0⟩], dma := [{ die := 0, ch := 0, use := 1, prio := 0, pz4 := false, arg := 0 }] },
  dma := [(0, { use := 1, arg := 0 })], params := [oneHeadLink, oneNozzle, inflatesZero],
  job := some { id := 1, pages := [5], bands := [1], startEnc := 0, startIndex := false, gutter := 0, rounds := 1, noOverlay := 0,
                rows := [0], encs := [0], st := .running },
  clauses := [(0, { st := .serving, powered := true, lines := [{ line := 3, at_ := some ⟨0, 5, 1, 0, 3⟩, q := 3, st := .ready,
                                                                 poison := [0] }] })],
  links := [(0, { st := .active })], heads := [(0, { lines := [gapLine] })] }

theorem gathering_gapGather : gathering? gapGather 0 = some gapLine := by decide +kernel

theorem gatherServed_gapGather : gatherServed gapGather 0 = true := by decide +kernel

/-- The nozzle meets poison in job copy 0. -/
theorem nozRead_gapGather : nozRead gapGather oneNozzle (nozRow oneNozzle) gapLine.line 0 = .poison (some 0) := by decide +kernel

/-- The poisoned block reads as code 0, which goes through the table like any code: the final code is E[0]. -/
theorem codes_after_gather :
    (gathering? (doGatherBlock (readCodes gapGather 0) 0 false) 0).map (fun l => l.codes) = some [1] := by decide +kernel

/-- Refutes O32, by its clause on poison met by the gather (R206, R288): the clause has the final code 0 whatever the row's inflection table
holds, and a table with E[0] = 1, as in `gapGather`, makes it 1. R207 refuses such a table, but the clause does not ask that the tables
held are ones R207 takes. -/
theorem not_linesCommitGatherAndFire : ¬ Obligations.LinesCommitGatherAndFire := by
  rintro ⟨-, -, -, -, -, -, -, hpoison, -⟩
  obtain ⟨l, hl, hzero, -⟩ := holds_of_runs (exec_gatherBlock 0 false gapGather)
    (hpoison gapGather 0 gapLine oneNozzle 0 0 0 _ gathering_gapGather rfl gatherServed_gapGather (by decide +kernel) (by decide +kernel) rfl
      (by decide) (by decide) nozRead_gapGather (.inl ⟨_, rfl⟩))
  have hcodes : l.codes = [1] := by simpa [hl] using codes_after_gather
  rw [hcodes] at hzero
  exact absurd hzero (by decide)

end Sys2Proof.Proofs
end

section
/-! PROOFS. The registers right after power-on reset (R323, R346, R371, R460, R461): what a die's window reads while no table lists an entry. -/

open Sys2Proof Sys2Proof.Machine Sys2Proof.Claims

namespace Sys2Proof.Proofs

/-- The DRAM block of a die's window (R355). -/
theorem readReg_ddrBlock (s : State) (d off : Nat) (hblock : 0x1C000 ≤ off ∧ off < 0x1D000) (halign : off % 4 = 0) :
    readReg s d off = readDdr s d (off - 0x1C000) := by
  unfold readReg
  simp (disch := omega) only [if_neg, if_pos]

/-- No channel is listed after reset, so every die's DRAM block reads as die 0's. -/
theorem readDdr_reset (d off : Nat) : readDdr State.reset d off = readDdr State.reset 0 off := rfl

theorem readReg_ddrBlock_reset (d off : Nat) (hblock : 0x1C000 ≤ off ∧ off < 0x1D000) (halign : off % 4 = 0) :
    readReg State.reset d off = readReg State.reset 0 off := by
  rw [readReg_ddrBlock _ d off hblock halign, readReg_ddrBlock _ 0 off hblock halign, readDdr_reset]

/-- Die 0's two DRAM channels after reset (R323). -/
theorem ddrRegisters_reset : ∀ ch, ch < 2 →
    readReg State.reset 0 (0x1C000 + 0x100 * ch) = 0x00200000 ∧ readReg State.reset 0 (0x1C008 + 0x100 * ch) = 0x80740104 ∧
    readReg State.reset 0 (0x1C00C + 0x100 * ch) = 0x1802 ∧ readReg State.reset 0 (0x1C018 + 0x100 * ch) = 0x04000001 := by
  decide

/-- The four submission and completion rings after reset (R371). -/
theorem ringRegisters_reset : ∀ c, c < 4 →
    readReg State.reset 0 (0x8008 + 0x40 * c) = 0x40000004 ∧ readReg State.reset 0 (0x8028 + 0x40 * c) = 0x40010004 ∧
    readReg State.reset 0 (0x8030 + 0x40 * c) = 0x10000 := by
  decide

/-- Registers of die 0 alone: PKG_GSTAT, the event log's controls and the calibration limits (R70, R302, R460). -/
theorem dieZeroRegisters_reset :
    readReg State.reset 0 0x204 = 0xFFFF ∧ readReg State.reset 0 0x20744 = 0x39 ∧ readReg State.reset 0 0x30014 = 0x0220003C := by
  decide

/-- No table of units lists an entry after reset, so every die reads the reset value. -/
theorem dmaDieAt_reset (d : Nat) : dmaDieAt State.reset d = {} := rfl
theorem scrubAt_reset (d : Nat) : scrubAt State.reset d = {} := rfl
theorem mgtAt_reset (d : Nat) : mgtAt State.reset d = {} := rfl

/-- Registers of every die: the DMA interrupt mask, the scrubber and the thermal limits (R346, R302, R461). -/
theorem dieRegisters_reset (d : Nat) :
    readReg State.reset d 0x1B004 = 0xFFFFFFFF ∧ readReg State.reset d 0x20520 = 0x01000001 ∧
    readReg State.reset d 0x20740 = 0x00800069 := by
  refine ⟨?_, ?_, ?_⟩
  · simp [readReg, readDma, dmaDieAt_reset]
  · simp [readReg, readMgt, readArr, scrubAt_reset, pack, bit1]
  · simp [readReg, readMgt, readMgtHigh, mgtAt_reset, pack, bit1]

/-- Settles O45: no memory lists a byte and no command waits, and each register is read in its block of the window. -/
theorem resetLeavesTheGivenValues : Obligations.ResetLeavesTheGivenValues := by
  obtain ⟨hgstat, hlog, hcal⟩ := dieZeroRegisters_reset
  refine ⟨rfl, rfl, rfl, rfl, ringRegisters_reset, hgstat, hlog, hcal, dieRegisters_reset, fun d ch hch => ?_⟩
  rw [readReg_ddrBlock_reset d _ (by omega) (by omega), readReg_ddrBlock_reset d _ (by omega) (by omega),
    readReg_ddrBlock_reset d _ (by omega) (by omega), readReg_ddrBlock_reset d _ (by omega) (by omega)]
  exact ddrRegisters_reset ch hch

end Sys2Proof.Proofs
end

section
/-! PROOFS. What a step keeps (R53, R55, R58, R61): fuses, queue, values of parked key operations, form of the byte memories, and the Dialect
where that is said. -/

open Sys2Proof Sys2Proof.Machine Sys2Proof.Claims

namespace Sys2Proof.Proofs

/-- `keyValuesFit`, of the parked commands alone. -/
def valuesFit (ps : List Parked) : Bool :=
  ps.all (fun p => match p with | .keyOp _ _ _ value _ => decide (value ≤ 63) | _ => true)

theorem keyValuesFit_eq (s : State) : keyValuesFit s = valuesFit s.parked := rfl

/-- `State.memOk`, of the memories alone. -/
def memsOk (banks tcm dram dmem flash : Mem) : Bool := banks.wf && tcm.wf && dram.wf && dmem.wf && swf (0xFF : Byte) flash

theorem memOk_eq (s : State) : s.memOk = memsOk s.banks s.tcm s.dram s.dmem s.flash := rfl

/-- With `true`, the Dialect stands as it was: its registers, its load, its Grammar and its parameters. With `false` nothing is said of it. -/
def dialectKept (full : Bool) (dia dia' : DialectRegs) (load load' : Option LoadJob) (gram gram' : Grammar) (params params' : List ParamRec) : Prop :=
  match full with
  | true => dia' = dia ∧ load' = load ∧ gram' = gram ∧ params' = params
  | false => True

/-- What a step from `s` keeps in `t`: the fuses, the queue, the range of the values of parked key operations, the canonical form of the byte
memories and, with `full`, the Dialect. It speaks of fields alone, so a change of any other field keeps it by definition, and the operations of
the model keep it one after another: for each operation `f` the lemma `f_kept` takes `Kept full s t` to `Kept full s (f t …)`, and the proof for
an operation that calls others is their lemmas applied in the same order. Operations that change the Dialect have their lemma at `false`. -/
def Kept (full : Bool) (s t : State) : Prop :=
  t.fuses = s.fuses ∧ t.pending = s.pending ∧ (valuesFit s.parked = true → valuesFit t.parked = true) ∧
    (memsOk s.banks s.tcm s.dram s.dmem s.flash = true → memsOk t.banks t.tcm t.dram t.dmem t.flash = true) ∧
    dialectKept full s.dia t.dia s.load t.load s.gram t.gram s.params t.params

/-- `Kept` of the state a cell instruction's body ends in; a trap or a wait carries none. -/
def KeptRes (full : Bool) (s : State) : CellRes → Prop
  | .ok t => Kept full s t
  | .goto t _ _ => Kept full s t
  | .skip t _ => Kept full s t
  | .trap _ _ _ => True
  | .wait _ => True

/-- `Kept` of the state a stretch of LOAD_BLOCKS ends in. -/
def KeptLoad (full : Bool) (s : State) : LoadStep → Prop
  | .done t => Kept full s t
  | .wait t _ => Kept full s t

/-- `Kept` of the state an operation answers, where it answers one. -/
def KeptOpt (full : Bool) (s : State) : Option State → Prop
  | some t => Kept full s t
  | none => True

variable {full : Bool} {s t : State}

theorem kept_refl : Kept full s s := ⟨rfl, rfl, id, id, match full with | true => ⟨rfl, rfl, rfl, rfl⟩ | false => trivial⟩

theorem kept_ite {c : Prop} [Decidable c] {u v : State} (hu : Kept full s u) (hv : Kept full s v) : Kept full s (if c then u else v) := by
  split
  · exact hu
  · exact hv

theorem keptRes_ite {c : Prop} [Decidable c] {u v : CellRes} (hu : KeptRes full s u) (hv : KeptRes full s v) :
    KeptRes full s (if c then u else v) := by
  split
  · exact hu
  · exact hv

theorem keptOpt_ite {c : Prop} [Decidable c] {u v : Option State} (hu : KeptOpt full s u) (hv : KeptOpt full s v) :
    KeptOpt full s (if c then u else v) := by
  split
  · exact hu
  · exact hv

theorem keptLoad_ite {c : Prop} [Decidable c] {u v : LoadStep} (hu : KeptLoad full s u) (hv : KeptLoad full s v) :
    KeptLoad full s (if c then u else v) := by
  split
  · exact hu
  · exact hv

theorem valuesFit_of_subset {ps qs : List Parked} (hsub : ∀ p ∈ qs, p ∈ ps) (hfit : valuesFit ps = true) : valuesFit qs = true := by
  simp only [valuesFit, List.all_eq_true] at hfit ⊢
  exact fun p hp => hfit p (hsub p hp)

theorem kept_parked {ps : List Parked} (hfit : valuesFit s.parked = true → valuesFit ps = true) (ht : Kept full s t) :
    Kept full s { t with parked := ps } := by
  obtain ⟨hfuses, hpending, -, hmem, hdia⟩ := ht
  exact ⟨hfuses, hpending, hfit, hmem, hdia⟩

theorem fuses_of_kept (ht : Kept full s t) : t.fuses = s.fuses := by
  obtain ⟨hfuses, -, -, -, -⟩ := ht
  exact hfuses

theorem valuesFit_of_kept (ht : Kept full s t) : valuesFit s.parked = true → valuesFit t.parked = true := by
  obtain ⟨-, -, hvalues, -, -⟩ := ht
  exact hvalues

theorem kept_filterParked {f : Parked → Bool} (ht : Kept full s t) : Kept full s { t with parked := t.parked.filter f } :=
  kept_parked (fun hs => valuesFit_of_subset (fun _ hp => List.mem_of_mem_filter hp) (valuesFit_of_kept ht hs)) ht

theorem kept_eraseParked {f : Parked → Bool} (ht : Kept full s t) : Kept full s { t with parked := t.parked.eraseP f } :=
  kept_parked (fun hs => valuesFit_of_subset (fun _ hp => List.mem_of_mem_eraseP hp) (valuesFit_of_kept ht hs)) ht

theorem kept_noneParked (ht : Kept full s t) : Kept full s { t with parked := [] } := kept_parked (fun _ => rfl) ht

theorem kept_loadWaits {w : LoadWait} {ps : List Parked} (hfit : valuesFit s.parked = true → valuesFit ps = true)
    (ht : Kept full s t) : Kept full s { t with parked := .load w :: ps } :=
  kept_parked (fun hs => by simpa [valuesFit] using hfit hs) ht

theorem kept_foldl {α : Type} {f : State → α → State} {l : List α} (ht : Kept full s t) (hf : ∀ u a, Kept full s u → Kept full s (f u a)) :
    Kept full s (l.foldl f t) := by
  induction l generalizing t with
  | nil => exact ht
  | cons a l ih => exact ih (hf t a ht)

theorem kept_foldl_snd {α β : Type} {f : β × State → α → β × State} {l : List α} {r : β × State} (ht : Kept full s r.2)
    (hf : ∀ q a, Kept full s q.2 → Kept full s (f q a).2) : Kept full s (l.foldl f r).2 := by
  induction l generalizing r with
  | nil => exact ht
  | cons a l ih => exact ih (hf r a ht)

theorem kept_banks {m : Mem} (hm : t.banks.wf = true → m.wf = true) (ht : Kept full s t) : Kept full s { t with banks := m } := by
  obtain ⟨hfuses, hpending, hvalues, hmem, hdia⟩ := ht
  exact ⟨hfuses, hpending, hvalues, fun hs => by have := hmem hs; simp_all [memsOk], hdia⟩

theorem kept_tcm {m : Mem} (hm : t.tcm.wf = true → m.wf = true) (ht : Kept full s t) : Kept full s { t with tcm := m } := by
  obtain ⟨hfuses, hpending, hvalues, hmem, hdia⟩ := ht
  exact ⟨hfuses, hpending, hvalues, fun hs => by have := hmem hs; simp_all [memsOk], hdia⟩

theorem kept_dram {m : Mem} (hm : t.dram.wf = true → m.wf = true) (ht : Kept full s t) : Kept full s { t with dram := m } := by
  obtain ⟨hfuses, hpending, hvalues, hmem, hdia⟩ := ht
  exact ⟨hfuses, hpending, hvalues, fun hs => by have := hmem hs; simp_all [memsOk], hdia⟩

theorem kept_dmem {m : Mem} (hm : t.dmem.wf = true → m.wf = true) (ht : Kept full s t) : Kept full s { t with dmem := m } := by
  obtain ⟨hfuses, hpending, hvalues, hmem, hdia⟩ := ht
  exact ⟨hfuses, hpending, hvalues, fun hs => by have := hmem hs; simp_all [memsOk], hdia⟩

theorem kept_flash {m : Mem} (hm : swf (0xFF : Byte) t.flash = true → swf (0xFF : Byte) m = true) (ht : Kept full s t) :
    Kept full s { t with flash := m } := by
  obtain ⟨hfuses, hpending, hvalues, hmem, hdia⟩ := ht
  exact ⟨hfuses, hpending, hvalues, fun hs => by have := hmem hs; simp_all [memsOk], hdia⟩

theorem kept_log {l : EventLog} (ht : Kept full s t) : Kept full s { t with log := l } := ht

theorem kept_power {p : Power} (ht : Kept full s t) : Kept full s { t with power := p } := ht

theorem kept_instrArray {m : Sparse Word} {p : List ArrBlock} {f : List (ArrBlock × BitVec 80)} (ht : Kept full s t) :
    Kept full s { t with imem := m, poison := p, flips := f } := ht

theorem kept_diaRegs {d : DialectRegs} (ht : Kept false s t) : Kept false s { t with dia := d } := ht

end Sys2Proof.Proofs
end

section
/-! PROOFS. What a step keeps: the operations over tables, memories, blocks, lines and cells that every command shares. -/

open Sys2Proof Sys2Proof.Machine Sys2Proof.Claims

namespace Sys2Proof.Proofs

variable {full : Bool} {s t : State}

/-! ### Tables, time, outputs, interrupts and completions -/

theorem advanceTo_kept {t'} (ht : Kept full s t) : Kept full s (advanceTo t t') := ht

theorem drawFree_kept (ht : Kept full s t) : Kept full s (drawFree t).2 := ht

theorem drawBytes_kept {n} (ht : Kept full s t) : Kept full s (drawBytes t n).2 := ht

theorem rdBanks_kept {d a n} (ht : Kept full s t) : Kept full s (rdBanks t d a n).2 := kept_ite ht ht

theorem setClause_kept {x c} (ht : Kept full s t) : Kept full s (setClause t x c) := ht

theorem modClause_kept {x f} (ht : Kept full s t) : Kept full s (modClause t x f) := setClause_kept ht

theorem setCell_kept {i c} (ht : Kept full s t) : Kept full s (setCell t i c) := ht

theorem modCell_kept {i f} (ht : Kept full s t) : Kept full s (modCell t i f) := setCell_kept ht

theorem setRow_kept {r x} (ht : Kept full s t) : Kept full s (setRow t r x) := ht

theorem modRow_kept {r f} (ht : Kept full s t) : Kept full s (modRow t r f) := setRow_kept ht

theorem setHead_kept {h x} (ht : Kept full s t) : Kept full s (setHead t h x) := ht

theorem modHead_kept {h f} (ht : Kept full s t) : Kept full s (modHead t h f) := setHead_kept ht

theorem setEnc_kept {e x} (ht : Kept full s t) : Kept full s (setEnc t e x) := ht

theorem modEnc_kept {e f} (ht : Kept full s t) : Kept full s (modEnc t e f) := setEnc_kept ht

theorem setLink_kept {i x} (ht : Kept full s t) : Kept full s (setLink t i x) := ht

theorem modLink_kept {i f} (ht : Kept full s t) : Kept full s (modLink t i f) := setLink_kept ht

theorem setLane_kept {i x} (ht : Kept full s t) : Kept full s (setLane t i x) := ht

theorem modLane_kept {i f} (ht : Kept full s t) : Kept full s (modLane t i f) := setLane_kept ht

theorem setEye_kept {d x} (ht : Kept full s t) : Kept full s (setEye t d x) := ht

theorem setDdr_kept {i x} (ht : Kept full s t) : Kept full s (setDdr t i x) := ht

theorem modDdr_kept {i f} (ht : Kept full s t) : Kept full s (modDdr t i f) := setDdr_kept ht

theorem setDma_kept {i x} (ht : Kept full s t) : Kept full s (setDma t i x) := ht

theorem modDma_kept {i f} (ht : Kept full s t) : Kept full s (modDma t i f) := setDma_kept ht

theorem setDmaDie_kept {d x} (ht : Kept full s t) : Kept full s (setDmaDie t d x) := ht

theorem setScrub_kept {d x} (ht : Kept full s t) : Kept full s (setScrub t d x) := ht

theorem modScrub_kept {d f} (ht : Kept full s t) : Kept full s (modScrub t d f) := setScrub_kept ht

theorem setMarch_kept {d x} (ht : Kept full s t) : Kept full s (setMarch t d x) := ht

theorem modMarch_kept {d f} (ht : Kept full s t) : Kept full s (modMarch t d f) := setMarch_kept ht

theorem setEvq_kept {i x} (ht : Kept full s t) : Kept full s (setEvq t i x) := ht

theorem setComp_kept {d x} (ht : Kept full s t) : Kept full s (setComp t d x) := ht

theorem modComp_kept {d f} (ht : Kept full s t) : Kept full s (modComp t d f) := setComp_kept ht

theorem setPort_kept {i x} (ht : Kept full s t) : Kept full s (setPort t i x) := ht

theorem modPort_kept {i f} (ht : Kept full s t) : Kept full s (modPort t i f) := setPort_kept ht

theorem setAxis_kept {a x} (ht : Kept full s t) : Kept full s (setAxis t a x) := ht

theorem modAxis_kept {a f} (ht : Kept full s t) : Kept full s (modAxis t a f) := setAxis_kept ht

theorem setSvc_kept {g x} (ht : Kept full s t) : Kept full s (setSvc t g x) := ht

theorem modSvc_kept {g f} (ht : Kept full s t) : Kept full s (modSvc t g f) := setSvc_kept ht

theorem setMgt_kept {d x} (ht : Kept full s t) : Kept full s (setMgt t d x) := ht

theorem modMgt_kept {d f} (ht : Kept full s t) : Kept full s (modMgt t d f) := setMgt_kept ht

theorem setSq_kept {c x} (ht : Kept full s t) : Kept full s (setSq t c x) := ht

theorem modSq_kept {c f} (ht : Kept full s t) : Kept full s (modSq t c f) := setSq_kept ht

theorem setCq_kept {c x} (ht : Kept full s t) : Kept full s (setCq t c x) := ht

theorem modCq_kept {c f} (ht : Kept full s t) : Kept full s (modCq t c f) := setCq_kept ht

theorem setMemCorr_kept {i x} (ht : Kept full s t) : Kept full s (setMemCorr t i x) := ht

theorem setTap_kept {d x} (ht : Kept full s t) : Kept full s (setTap t d x) := ht

theorem emit_kept {o} (ht : Kept full s t) : Kept full s (emit t o) := ht

theorem msix_kept {v} (ht : Kept full s t) : Kept full s (msix t v) := kept_ite ht (kept_ite (kept_ite (emit_kept ht) ht) (kept_ite ht ht))

theorem evqPush_kept {d q it} (ht : Kept full s t) : Kept full s (evqPush t d q it) := setEvq_kept ht

theorem logEv_kept {d code data} (ht : Kept full s t) : Kept full s (logEv t d code data) := evqPush_kept ht

theorem logLost_kept {d q} (ht : Kept full s t) : Kept full s (logLost t d q) := kept_ite ht (logEv_kept (setEvq_kept ht))

theorem putFence_kept {u f} (ht : Kept full s t) : Kept full s (putFence t u f) := by
  unfold putFence
  split
  · exact ht
  · exact ht

theorem changeFence_kept {u st reason} (ht : Kept full s t) : Kept full s (changeFence t u st reason) := logEv_kept (putFence_kept ht)

theorem countFault_kept {u} (ht : Kept full s t) : Kept full s (countFault t u) := putFence_kept ht

theorem noteTransient_kept {u now} (ht : Kept full s t) : Kept full s (noteTransient t u now) := putFence_kept (countFault_kept ht)

theorem signalCq_kept {c} (ht : Kept full s t) : Kept full s (signalCq t c) := msix_kept (modCq_kept ht)

theorem postCq_kept {c entry} (ht : Kept full s t) : Kept full s (postCq t c entry) :=
  kept_ite (signalCq_kept (setCq_kept (emit_kept (emit_kept ht)))) (setCq_kept (emit_kept (emit_kept ht)))

theorem holdCq_kept {c entry} (ht : Kept full s t) : Kept full s (holdCq t c entry) := modCq_kept ht

theorem putCq_kept {c entry} (ht : Kept full s t) : Kept full s (putCq t c entry) := kept_ite (postCq_kept ht) (modCq_kept (holdCq_kept ht))

theorem flushCq_kept {c} (ht : Kept full s t) : Kept full s (flushCq t c) :=
  kept_ite (kept_foldl (modCq_kept ht) fun _ _ hu => postCq_kept hu) ht

theorem complete_kept {h opcode status result} (ht : Kept full s t) : Kept full s (complete t h opcode status result) := by
  unfold complete
  extract_lets e m src
  split
  · exact kept_ite (putCq_kept (modSq_kept ht)) (holdCq_kept (modSq_kept ht))
  · exact msix_kept ht
  · exact ht
  · exact emit_kept ht

theorem takePopped_kept {h} (ht : Kept full s t) : Kept full s (takePopped t h) := ht

theorem command_kept {h c fieldOk indexOk body} (ht : Kept full s t) (hbody : ∀ u, Kept full s u → Kept full s (body u)) :
    Kept full s (command t h c fieldOk indexOk body) := by
  obtain ⟨-, heq⟩ | ⟨st, -, heq⟩ | ⟨-, -, heq⟩ := command_cases t h c fieldOk indexOk body
  · rw [heq]
    exact ht
  · rw [heq]
    exact complete_kept (takePopped_kept ht)
  · rw [heq]
    exact hbody _ (takePopped_kept ht)

theorem finish_kept {h opcode result} (ht : Kept full s t) : Kept full s (finish t h opcode result) := complete_kept ht

theorem park_kept {p} (hp : valuesFit [p] = true) (ht : Kept full s t) : Kept full s (park t p) := by
  refine kept_parked (fun hs => ?_) ht
  have hall := valuesFit_of_kept ht hs
  simp only [valuesFit, List.all_append, Bool.and_eq_true] at hp hall ⊢
  exact ⟨hall, hp⟩

theorem sendFlight_kept {a path c} (ht : Kept full s t) : Kept full s (sendFlight t a path c) := ht

/-! ### Blocks under the row-and-column code -/

theorem modCLine_kept {x L f} (ht : Kept full s t) : Kept full s (modCLine t x L f) := modClause_kept ht

theorem modBand_kept {x blk f} (ht : Kept full s t) : Kept full s (modBand t x blk f) := modClause_kept ht

theorem modSlotLine_kept {x slot f} (ht : Kept full s t) : Kept full s (modSlotLine t x slot f) := by
  unfold modSlotLine
  split
  · exact modCLine_kept ht
  · exact ht

theorem putData_kept {b v} (ht : Kept full s t) : Kept full s (putData t b v) := by
  unfold putData
  extract_lets bs
  split
  · exact kept_banks (wrN_wf _ _ _) ht
  · exact kept_tcm (wrN_wf _ _ _) ht
  · exact ht
  · exact kept_dmem (wrN_wf _ _ _) ht
  · exact modBand_kept ht
  · exact modSlotLine_kept ht

theorem markPoison_kept {b} (ht : Kept full s t) : Kept full s (markPoison t b) := kept_ite ht ht

theorem clearPoison_kept {b} (ht : Kept full s t) : Kept full s (clearPoison t b) := ht

theorem setPoison_kept {b bad} (ht : Kept full s t) : Kept full s (setPoison t b bad) := by
  unfold setPoison
  split
  · exact modBand_kept ht
  · exact modSlotLine_kept ht
  · exact kept_ite (markPoison_kept ht) (clearPoison_kept ht)

theorem setFlip_kept {b f} (ht : Kept full s t) : Kept full s (setFlip t b f) := by
  unfold setFlip
  extract_lets others
  split
  · exact modBand_kept ht
  · exact modSlotLine_kept ht
  · exact ht

theorem upset_kept {p} (ht : Kept full s t) : Kept full s (upset t p) := kept_ite (setFlip_kept ht) ht

theorem putBlock_kept {b v bad f} (ht : Kept full s t) : Kept full s (putBlock t b v bad f) := setFlip_kept
    (setPoison_kept (putData_kept ht))

theorem storeBlock_kept {b v} (ht : Kept full s t) : Kept full s (storeBlock t b v) := putBlock_kept ht

theorem countMem_kept {d cls unc} (ht : Kept full s t) : Kept full s (countMem t d cls unc) := setMemCorr_kept ht

theorem conflict_kept {d master} (ht : Kept full s t) : Kept full s (conflict t d master) := kept_ite ht ht

theorem settle_kept {b} (ht : Kept full s t) : Kept full s (settle t b) := by
  unfold settle
  extract_lets w r n
  split
  · exact ht
  · split
    · exact putBlock_kept ht
    · exact countMem_kept (putBlock_kept ht)
    · exact countMem_kept (putBlock_kept ht)
    · exact putBlock_kept ht
    · exact countMem_kept (putBlock_kept ht)

theorem settleRange_kept {k owner a n} (ht : Kept full s t) : Kept full s (settleRange t k owner a n) :=
  kept_foldl ht fun _ _ hu => settle_kept hu

theorem settleBand_kept {x i m first n} (ht : Kept full s t) : Kept full s (settleBand t x i m first n) :=
  kept_ite ht (kept_foldl ht fun _ _ hu => settle_kept hu)

theorem readSlotLine_kept {x l} (ht : Kept full s t) : Kept full s (readSlotLine t x l) := by
  unfold readSlotLine
  split
  · exact kept_foldl ht fun _ _ hu => settle_kept hu
  · exact ht

theorem mergeInto_kept {k owner a bs put} (ht : Kept full s t) (hput : ∀ u, Kept full s u → Kept full s (put u)) :
    Kept full s (mergeInto t k owner a bs put) := by
  unfold mergeInto
  extract_lets mine t1 t2
  have h1 : Kept full s t1 := kept_foldl ht fun _ _ hu => settle_kept hu
  have h2 : Kept full s t2 := hput t1 h1
  exact h2

theorem wf_foldl {α : Type} {f : Mem → α → Mem} {l : List α} {m : Mem} (hf : ∀ m a, m.wf = true → (f m a).wf = true) (hm : m.wf = true) :
    (l.foldl f m).wf = true := by
  induction l generalizing m with
  | nil => exact hm
  | cons a l ih => exact ih (hf m a hm)

theorem dmWrite_kept {i a bs} (ht : Kept full s t) : Kept full s (dmWrite t i a bs) := by
  refine mergeInto_kept ht fun u hu => kept_dmem (wf_foldl fun m j hm => ?_) hu
  split
  · exact wr_wf _ _ _ hm
  · exact hm

theorem dmWriteAll_kept {i a bs} (ht : Kept full s t) : Kept full s (dmWriteAll t i a bs) := dmWrite_kept ht

theorem bankWr_kept {d a bs} (ht : Kept full s t) : Kept full s (bankWr t d a bs) :=
  mergeInto_kept ht fun _ hu => kept_banks (wrN_wf _ _ _) hu

theorem tcmWr_kept {d a bs} (ht : Kept full s t) : Kept full s (tcmWr t d a bs) :=
  mergeInto_kept ht fun _ hu => kept_tcm (wrN_wf _ _ _) hu

theorem writeBlock_kept {b bs} (ht : Kept full s t) : Kept full s (writeBlock t b bs) := storeBlock_kept ht

/-! ### Slots, rows, image copies and cell loads -/

theorem writeWindow_kept {x w} (ht : Kept full s t) : Kept full s (writeWindow t x w) := kept_foldl ht fun _ _ hu => dmWriteAll_kept hu

theorem readCopy_kept {x n} (ht : Kept full s t) : Kept full s (readCopy t x n) := by
  unfold readCopy
  split
  · exact settleRange_kept ht
  · exact ht

theorem copyPoison_kept {d src n k i dst} (ht : Kept full s t) : Kept full s (copyPoison t d src n k i dst) :=
  kept_foldl ht fun _ _ hu => kept_ite (markPoison_kept hu) hu

theorem putInstr_kept {i m} (ht : Kept full s t) : Kept full s (putInstr t i m) := by
  unfold putInstr
  exact kept_instrArray ht

theorem loadInstr_kept {x n} (ht : Kept full s t) : Kept full s (loadInstr t x n) := by
  unfold loadInstr
  split
  · exact copyPoison_kept (putInstr_kept ht)
  · exact ht

theorem loadData_kept {x n} (ht : Kept full s t) : Kept full s (loadData t x n) := by
  unfold loadData
  split
  · exact copyPoison_kept (dmWriteAll_kept ht)
  · exact ht

theorem loadCell_kept {x n} (ht : Kept full s t) : Kept full s (loadCell t x n) := by
  unfold loadCell
  extract_lets i t1 t2
  have h1 : Kept full s t1 := readCopy_kept ht
  have h2 : Kept full s t2 := loadData_kept (dmWriteAll_kept (loadInstr_kept h1))
  split
  · exact h1
  · exact modCell_kept h2

theorem loadClause_kept {x} (ht : Kept full s t) : Kept full s (loadClause t x) := by
  unfold loadClause
  exact modClause_kept (writeWindow_kept (writeWindow_kept (kept_foldl ht fun _ _ hu => loadCell_kept hu)))

/-! ### Lines, clauses and decompressors -/

theorem flagCopy_kept {i cause lost} (ht : Kept full s t) : Kept full s (flagCopy t i cause lost) := by
  unfold flagCopy
  split
  · exact ht
  · exact kept_ite ht ht

theorem logRun_kept {r} (ht : Kept full s t) : Kept full s (logRun t r) := evqPush_kept ht

theorem endRuns_kept {p} (ht : Kept full s t) : Kept full s (endRuns t p) := by
  unfold endRuns
  split
  · exact ht
  · exact kept_foldl ht fun _ _ hu => logRun_kept hu

theorem addRun_kept {i page copy row strip cause line die} (ht : Kept full s t) : Kept full s
    (addRun t i page copy row strip cause line die) := by
  unfold addRun
  extract_lets same t1 r
  have h1 : Kept full s t1 := endRuns_kept ht
  split
  · exact h1
  · split
    · exact h1
    · exact kept_ite (logRun_kept h1) h1

theorem dropReplayed_kept {x n q} (ht : Kept full s t) : Kept full s (dropReplayed t x n q) := kept_foldl ht fun _ _ hu => modCell_kept hu

theorem rewindDec_kept {x n absBand line} (ht : Kept full s t) : Kept full s (rewindDec t x n absBand line) := by
  unfold rewindDec
  extract_lets c d t1
  have h1 : Kept full s t1 := setClause_kept ht
  split
  · exact ht
  · split
    · exact dropReplayed_kept h1
    · exact h1

theorem wakeDec_kept {x n} (ht : Kept full s t) : Kept full s (wakeDec t x n) := by
  unfold wakeDec
  split
  · exact rewindDec_kept ht
  · exact ht

theorem kickFollowers_kept {x} (ht : Kept full s t) : Kept full s (kickFollowers t x) := wakeDec_kept (wakeDec_kept (modClause_kept ht))

theorem startRerun_kept {x L} (ht : Kept full s t) : Kept full s (startRerun t x L) := by
  unfold startRerun
  extract_lets c t1
  have h1 : Kept full s t1 := modCLine_kept ht
  split
  · exact ht
  · split
    · exact ht
    · exact rewindDec_kept (rewindDec_kept h1)

theorem askRerun_kept {x L} (ht : Kept full s t) : Kept full s (askRerun t x L) := kept_ite (modCLine_kept ht) (startRerun_kept ht)

theorem nextRerun_kept {x} (ht : Kept full s t) : Kept full s (nextRerun t x) := by
  unfold nextRerun
  extract_lets c
  split
  · exact ht
  · split
    · exact startRerun_kept ht
    · exact ht

theorem settleLine_kept {x} (ht : Kept full s t) : Kept full s (settleLine t x) := nextRerun_kept (kickFollowers_kept ht)

theorem lineReady_kept {x L} (ht : Kept full s t) : Kept full s (lineReady t x L) := by
  unfold lineReady
  extract_lets c t1
  have h1 : Kept full s t1 := modCLine_kept ht
  split
  · exact ht
  · extract_lets t2
    have h2 : Kept full s t2 := by
      unfold t2
      split
      · exact endRuns_kept h1
      · exact h1
    exact settleLine_kept h2

theorem withholdLine_kept {x L cause ready} (ht : Kept full s t) : Kept full s (withholdLine t x L cause ready) := by
  unfold withholdLine
  extract_lets c drop t1
  have h1 : Kept full s t1 := modClause_kept ht
  split
  · exact ht
  · extract_lets t2 t3
    have h2 : Kept full s t2 := by
      unfold t2
      split
      · exact modClause_kept h1
      · exact h1
    have h3 : Kept full s t3 := by
      unfold t3
      split
      · exact kept_ite h2 (addRun_kept (flagCopy_kept h2))
      · exact h2
    exact kept_ite ht (settleLine_kept h3)

theorem withhold_kept {x L cause} (ht : Kept full s t) : Kept full s (withhold t x L cause) := withholdLine_kept ht

theorem withholdAll_kept {x cause p} (ht : Kept full s t) : Kept full s (withholdAll t x cause p) := kept_foldl ht
    fun _ _ hu => withhold_kept hu

theorem powerOffClause_kept {x} (ht : Kept full s t) : Kept full s (powerOffClause t x) :=
  kept_foldl (modClause_kept ht) fun _ _ hu => modCell_kept hu

theorem topUpSpares_kept {d} (ht : Kept full s t) : Kept full s (topUpSpares t d) := by
  unfold topUpSpares
  split
  · exact ht
  · split
    · exact modClause_kept ht
    · exact logEv_kept ht

theorem prepareSpare_kept {x} (ht : Kept full s t) : Kept full s (prepareSpare t x) := by
  unfold prepareSpare
  extract_lets c
  split
  · exact modClause_kept ht
  · exact modClause_kept (modClause_kept (loadClause_kept (modClause_kept ht)))

theorem permanentClause_kept {x reason} (ht : Kept full s t) : Kept full s (permanentClause t x reason) := by
  unfold permanentClause
  extract_lets c d t1 t2 t3 t4 t5 t6
  have h1 : Kept full s t1 := changeFence_kept ht
  have h2 : Kept full s t2 := modClause_kept h1
  have h3 : Kept full s t3 := prepareSpare_kept h2
  have h4 : Kept full s t4 := withholdAll_kept h3
  have h5 : Kept full s t5 := kept_ite h4 (withholdAll_kept h4)
  have h6 : Kept full s t6 := powerOffClause_kept (modClause_kept h1)
  split
  · exact topUpSpares_kept h5
  · exact topUpSpares_kept h6
  · exact ht

theorem transientClause_kept {x} (ht : Kept full s t) : Kept full s (transientClause t x) :=
  kept_ite ht (kept_ite (permanentClause_kept ht) (modClause_kept (countFault_kept ht)))

theorem permanentIfServing_kept {x reason} (ht : Kept full s t) : Kept full s (permanentIfServing t x reason) :=
  kept_ite (permanentClause_kept ht) ht

theorem returnSpare_kept {y} (ht : Kept full s t) : Kept full s (returnSpare t y) := changeFence_kept (modClause_kept ht)

theorem clearSuspect_kept {y} (ht : Kept full s t) : Kept full s (clearSuspect t y) := by
  unfold clearSuspect
  split
  · exact returnSpare_kept ht
  · exact modClause_kept ht
  · exact ht

theorem inputFailure_kept {x p} (ht : Kept full s t) : Kept full s (inputFailure t x p) := by
  unfold inputFailure
  extract_lets c now win sus t1 t2
  have h1 : Kept full s t1 := modClause_kept ht
  have h2 : Kept full s t2 := modClause_kept h1
  split
  · exact ht
  · split
    · exact h1
    · split
      · extract_lets t3
        have h3 : Kept full s t3 := clearSuspect_kept h2
        split
        · split
          · exact logEv_kept h3
          · exact h3
        · exact permanentIfServing_kept h1
      · exact permanentIfServing_kept h1

theorem firstFailure_kept {x L sig trap} (ht : Kept full s t) : Kept full s (firstFailure t x L sig trap) := by
  unfold firstFailure
  extract_lets c
  split
  · exact ht
  · split
    · exact ht
    · exact kept_ite (withhold_kept ht) (kept_ite (transientClause_kept (withhold_kept ht)) (askRerun_kept (modCLine_kept ht)))

theorem settleFault_kept {x pending} (ht : Kept full s t) : Kept full s (settleFault t x pending) := kept_ite (transientClause_kept ht) ht

theorem lineComplete_kept {x L} (ht : Kept full s t) : Kept full s (lineComplete t x L) := by
  unfold lineComplete
  extract_lets c
  split
  · exact ht
  · split
    · exact ht
    · split
      · exact ht
      · exact kept_ite (modCLine_kept (modCLine_kept ht)) (settleFault_kept (lineReady_kept (modCLine_kept ht)))

theorem landSegment_kept {x L n} (ht : Kept full s t) : Kept full s (landSegment t x L n) := lineComplete_kept (modCLine_kept ht)

theorem lineTrapped_kept {x L n cause pc rerun} (ht : Kept full s t) : Kept full s (lineTrapped t x L n cause pc rerun) := by
  unfold lineTrapped
  extract_lets c t1
  have h1 : Kept full s t1 := withhold_kept ht
  split
  · exact transientClause_kept ht
  · split
    · exact transientClause_kept ht
    · split
      · exact withhold_kept ht
      · split
        · exact ht
        · split
          · exact firstFailure_kept ht
          · split
            · exact modCLine_kept ht
            · split
              · split
                · exact inputFailure_kept h1
                · exact h1
              · exact permanentIfServing_kept (withhold_kept ht)

theorem lineDeadline_kept {x L} (ht : Kept full s t) : Kept full s (lineDeadline t x L) := by
  unfold lineDeadline
  split
  · exact ht
  · exact kept_ite ht (settleFault_kept (withhold_kept ht))

theorem withholdBad_kept {x absBand} (ht : Kept full s t) : Kept full s (withholdBad t x absBand) := withholdAll_kept ht

theorem withholdFailed_kept {x absBand} (ht : Kept full s t) : Kept full s (withholdFailed t x absBand) :=
  kept_foldl ht fun _ _ hu => withholdLine_kept hu

/-! ### Cell registers, data SRAM and traps -/

theorem spareFailed_kept {y} (ht : Kept full s t) : Kept full s (spareFailed t y) :=
  kept_foldl (permanentClause_kept ht) fun _ _ hu => prepareSpare_kept hu

theorem cellTrap_kept {ci pc cause code poisonAt} (ht : Kept full s t) : Kept full s (cellTrap t ci pc cause code poisonAt) := by
  unfold cellTrap
  extract_lets i x c band bl reload drop c' t1 cl t2
  have h1 : Kept full s t1 := setCell_kept ht
  have h2 : Kept full s t2 := logEv_kept h1
  split
  · exact lineTrapped_kept (modCLine_kept h2)
  · exact kept_ite (spareFailed_kept h2) (transientClause_kept h2)

theorem cellInstr_kept {ci op w illegal badReg regs cycles body} (ht : Kept full s t) (hbody : ∀ c, KeptRes full s (body c)) :
    Kept full s (cellInstr t ci op w illegal badReg regs cycles body) := by
  unfold cellInstr
  extract_lets i c
  split
  · exact ht
  split
  · exact cellTrap_kept ht
  split
  · exact ht
  split
  · exact cellTrap_kept ht
  split
  · exact cellTrap_kept ht
  split
  · exact setCell_kept ht
  have hres := hbody c
  split
  next u hu =>
    rw [hu] at hres
    exact modCell_kept hres
  next u pc n hu =>
    rw [hu] at hres
    exact modCell_kept hres
  next u pc hu =>
    rw [hu] at hres
    exact modCell_kept hres
  · exact cellTrap_kept ht
  · exact setCell_kept ht

theorem fetched_kept {ci} (ht : Kept full s t) : Kept full s (fetched t ci) := kept_ite (settle_kept ht) ht

theorem loading_kept {ci addrs n al} (ht : Kept full s t) : Kept full s (loading t ci addrs n al) :=
  kept_ite (kept_foldl ht fun _ _ hu => settleRange_kept hu) ht

theorem regBody_kept {ci f a} (ht : Kept full s t) : KeptRes full s (regBody t ci f a) := setCell_kept ht

theorem issueBank_kept {ci c r} (ht : Kept full s t) : KeptRes full s (issueBank t ci c r) := keptRes_ite trivial (setCell_kept ht)

theorem haloSent_kept {y right} (ht : Kept full s t) : Kept full s (haloSent t y right) := modClause_kept ht

theorem haloPush_kept {y right v} (ht : Kept full s t) : Kept full s (haloPush t y right v) := modClause_kept ht

theorem sendTo_kept {ci right v} (ht : Kept full s t) : KeptOpt full s (sendTo? t ci right v) := by
  unfold sendTo?
  extract_lets x i from_
  split
  · exact keptOpt_ite (modCell_kept ht) trivial
  · split
    · exact keptOpt_ite (modCell_kept ht) trivial
    · split
      · exact ht
      · split
        · exact ht
        · exact keptOpt_ite trivial (keptOpt_ite (haloPush_kept (haloSent_kept ht)) (sendFlight_kept (haloSent_kept ht)))

theorem recvFrom_kept {ci right r} (ht : Kept full s t) (hr : recvFrom? t ci right = some r) : Kept full s r.2 := by
  have htake : KeptOpt full s ((recvFrom? t ci right).map Prod.snd) := by
    unfold recvFrom?
    extract_lets x i c k
    split
    · split
      · exact setCell_kept ht
      · trivial
    split
    · split
      · exact setCell_kept ht
      · trivial
    split
    · exact ht
    split
    · split
      · exact setClause_kept ht
      · trivial
    · split
      · exact setClause_kept ht
      · trivial
  rw [hr] at htake
  exact htake

theorem drainIn_kept {i fuel} (ht : Kept full s t) : Kept full s (drainIn t i fuel) := by
  induction fuel generalizing t with
  | zero => exact ht
  | succ fuel ih =>
    unfold drainIn
    extract_lets c x
    split
    · exact kept_ite (ih (setCell_kept ht))
        (kept_ite (ih (kept_ite (markPoison_kept (dmWriteAll_kept (setCell_kept ht))) (dmWriteAll_kept (setCell_kept ht)))) ht)
    · exact ht

theorem landWord_kept {x n q ix w bad} (ht : Kept full s t) : Kept full s (landWord t x n q ix w bad) := by
  unfold landWord
  split
  · exact ht
  · exact kept_ite ht (kept_ite (landSegment_kept (modCLine_kept ht)) (modCLine_kept ht))

/-! ### DRAM blocks and the check-burst cache -/

theorem setBlkFlips_kept {d ch off f} (ht : Kept full s t) : Kept full s (setBlkFlips t d ch off f) := ht

theorem dramMark_kept {d ch off} (ht : Kept full s t) : Kept full s (dramMark t d ch off) := kept_ite ht ht

theorem dramClear_kept {d ch off} (ht : Kept full s t) : Kept full s (dramClear t d ch off) := ht

theorem putBlk_kept {d ch off v bad f} (ht : Kept full s t) : Kept full s (putBlk t d ch off v bad f) := by
  unfold putBlk
  extract_lets base t1
  have h1 : Kept full s t1 := kept_dram (wrN_wf _ _ _) ht
  exact setBlkFlips_kept (kept_ite (dramMark_kept h1) (dramClear_kept h1))

theorem chkRead_kept {d ch off} (ht : Kept full s t) : Kept full s (chkRead t d ch off) := by
  unfold chkRead
  split
  · exact ht
  · exact modDdr_kept ht

theorem chkDrop_kept {d ch off} (ht : Kept full s t) : Kept full s (chkDrop t d ch off) := kept_ite (modDdr_kept ht) ht

theorem countEcc_kept {d ch cls addr} (ht : Kept full s t) : Kept full s (countEcc t d ch cls addr) := modDdr_kept ht

theorem blkHold_kept {d ch off v bad} (ht : Kept full s t) : Kept full s (blkHold t d ch off v bad) := modDdr_kept (putBlk_kept ht)

theorem channelFault_kept {d ch} (ht : Kept full s t) : Kept full s (channelFault t d ch) := kept_ite ht (setDdr_kept ht)

theorem badRead_kept {d ch off misdirected v} (ht : Kept full s t) : Kept full s (badRead t d ch off misdirected v) := by
  unfold badRead
  extract_lets base t1 o t2
  have h1 : Kept full s t1 := countEcc_kept ht
  have h2 : Kept full s t2 := by
    unfold t2
    split
    · exact putBlk_kept h1
    · exact putBlk_kept h1
  exact channelFault_kept (chkDrop_kept h2)

theorem blkRead_kept {d ch off xf xr} (ht : Kept full s t) : Kept full s (blkRead t d ch off xf xr) := by
  unfold blkRead
  extract_lets r plain t1 hold
  have h1 : Kept full s t1 := chkRead_kept ht
  split
  · exact h1
  · split
    · exact kept_ite (blkHold_kept h1) h1
    · exact kept_ite (blkHold_kept (countEcc_kept h1)) (countEcc_kept h1)
    · exact kept_ite (blkHold_kept (countEcc_kept h1)) (countEcc_kept h1)
    · exact kept_ite (blkHold_kept h1) h1
    · exact badRead_kept h1
    · exact badRead_kept h1

theorem dramTouch_kept {d a n} (ht : Kept full s t) : Kept full s (dramTouch t d a n) := kept_foldl ht fun _ _ hu => blkRead_kept hu

theorem dramPut_kept {d a v} (ht : Kept full s t) : Kept full s (dramPut t d a v) :=
  kept_foldl ht fun _ _ hu => kept_dram (wr_wf _ _ _) hu

theorem blkOpen_kept {d ch off whole} (ht : Kept full s t) : Kept full s (blkOpen t d ch off whole) :=
  chkDrop_kept (kept_ite ht (blkRead_kept ht))

theorem blkClose_kept {d ch off whole} (ht : Kept full s t) : Kept full s (blkClose t d ch off whole) :=
  kept_ite (dramClear_kept (kept_ite ht (setBlkFlips_kept ht))) (kept_ite ht (setBlkFlips_kept ht))

theorem dramWr_kept {d a bs} (ht : Kept full s t) : Kept full s (dramWr t d a bs) := by
  unfold dramWr
  exact kept_foldl (kept_foldl (kept_foldl ht fun _ _ hu => kept_foldl hu fun _ _ h2 => blkOpen_kept h2) fun _ _ hu => dramPut_kept hu)
    fun _ _ hu => kept_foldl hu fun _ _ h2 => blkClose_kept h2

/-! ### The page store -/

theorem freeOld_kept (ht : Kept full s t) : Kept full s (freeOld t) := ht

theorem freeBlocks_kept {p} (ht : Kept full s t) : Kept full s (freeBlocks t p) := freeOld_kept ht

theorem placeAt_kept {d a b bytes} (ht : Kept full s t) : Kept full s (placeAt t d a b bytes) := freeOld_kept (dramWr_kept ht)

theorem markBad_kept {b} (ht : Kept full s t) : Kept full s (markBad t b) :=
  kept_ite ht (kept_foldl (logEv_kept ht) fun _ _ hu => kept_foldl hu fun _ _ h2 => kept_foldl h2 fun _ _ h3 => withholdBad_kept h3)

theorem markAt_kept {d a} (ht : Kept full s t) : Kept full s (markAt t d a) := by
  unfold markAt
  split
  · exact markBad_kept ht
  · exact ht

theorem closeSet_kept {page copy} (ht : Kept full s t) : Kept full s (closeSet t page copy) := kept_ite ht ht

theorem loadEnd_kept {w e} (ht : Kept full s t) : Kept full s (loadEnd t w e) := complete_kept ht

theorem loadTail_kept {w} (ht : Kept full s t) : KeptLoad full s (loadTail t w) := by
  unfold loadTail
  extract_lets t1
  have h1 : Kept full s t1 := by
    unfold t1
    split
    · exact kept_ite (closeSet_kept ht) ht
    · exact ht
  split
  · exact ht
  · split
    · exact loadEnd_kept ht
    · exact loadEnd_kept h1

theorem loadStops_kept {w status reason die} (ht : Kept full s t) : KeptLoad full s (loadStops t w status reason die) := loadTail_kept ht

theorem loadRun_kept {w fuel} (ht : Kept full s t) : KeptLoad full s (loadRun t w fuel) := by
  induction fuel generalizing t w with
  | zero => exact loadTail_kept ht
  | succ fuel ih =>
    unfold loadRun
    extract_lets bl refuse own bytes next
    split
    · exact loadTail_kept ht
    split
    · exact keptLoad_ite (loadStops_kept ht) (loadTail_kept ht)
    split
    · exact loadStops_kept ht
    split
    · exact loadStops_kept ht
    split
    · exact loadStops_kept ht
    split
    · exact loadStops_kept ht
    split
    · split
      · exact ht
      · exact ih (dramWr_kept ht)
    · exact ih (placeAt_kept ht)

theorem runLoads_kept {fuel} (ht : Kept full s t) : Kept full s (runLoads t fuel) := by
  induction fuel generalizing t with
  | zero => exact ht
  | succ fuel ih =>
    unfold runLoads
    extract_lets others
    split
    case h_1 w _ =>
      have hrun := loadRun_kept (w := w) (fuel := w.rest.length / 64 + 1) (kept_eraseParked (f := Parked.isLoad) ht)
      split
      next u hu =>
        rw [hu] at hrun
        exact ih hrun
      next u v hu =>
        rw [hu] at hrun
        exact kept_loadWaits (valuesFit_of_kept hrun) hrun
    case h_2 => exact ht

theorem cmpEnd_kept {d res stream icrc} (ht : Kept full s t) : Kept full s (cmpEnd t d res stream icrc) := modComp_kept ht

theorem cmpSpoils_kept {d} (ht : Kept full s t) : Kept full s (cmpSpoils t d) := dramWr_kept (drawBytes_kept ht)

theorem cmpStops_kept {d res} (ht : Kept full s t) : Kept full s (cmpStops t d res) := cmpEnd_kept (drawFree_kept (cmpSpoils_kept ht))

theorem dropCached_kept {d a} (ht : Kept full s t) : Kept full s (dropCached t d a) := kept_ite (cmpStops_kept ht) ht

theorem loadRefused_kept {w c reason} (ht : Kept full s t) : Kept full s (loadRefused t w c reason).1 :=
  kept_foldl ht fun _ _ hu => dropCached_kept hu

theorem cacheLeft_kept {d a refused} (ht : Kept full s t) : Kept full s (cacheLeft t d a refused) := by
  unfold cacheLeft
  split
  case h_2 => exact ht
  case h_1 w _ =>
    split
    · exact ht
    extract_lets others r
    have hr : Kept full s r.1 := by
      unfold r
      split
      · exact loadRefused_kept ht
      · exact ht
    have hothers : valuesFit s.parked = true → valuesFit others = true := valuesFit_of_kept (kept_eraseParked ht)
    split
    · have htail := loadTail_kept (w := r.2) (kept_parked hothers hr)
      split
      next u hu =>
        rw [hu] at htail
        exact htail
      next u v hu =>
        rw [hu] at htail
        exact kept_loadWaits (valuesFit_of_kept htail) htail
    · exact kept_loadWaits hothers hr

theorem refuseCached_kept {d reason} (ht : Kept full s t) : Kept full s (refuseCached t d reason) :=
  kept_foldl ht fun _ _ hu => cacheLeft_kept (dropCached_kept hu)

theorem loadLost_kept {w} (ht : Kept full s t) : Kept full s (loadLost t w) := by
  have htail : KeptLoad full s (loadTail t { w with stop := some (w.stop.getD ⟨stNoChannel, w.index, w.offset, 0, 0xFF⟩) }) :=
    loadTail_kept ht
  unfold loadLost
  split
  next u hu =>
    rw [hu] at htail
    exact htail
  next u v hu =>
    rw [hu] at htail
    exact park_kept rfl htail

theorem deleteBlocks_kept {p} (ht : Kept full s t) : Kept full s (deleteBlocks t p) :=
  freeBlocks_kept (kept_foldl ht fun _ _ hu => cacheLeft_kept (dropCached_kept hu))

end Sys2Proof.Proofs
end

section
/-! PROOFS. What a step keeps: links, jobs, power, motion, fences, tables, the event log, DMA transfers and memory tests. -/

open Sys2Proof Sys2Proof.Machine Sys2Proof.Claims

namespace Sys2Proof.Proofs

variable {full : Bool} {s t : State}

/-! ### The block stream of a link -/

theorem sendBlock_kept {d n b} (ht : Kept full s t) : Kept full s (sendBlock t d n b) := emit_kept (modLane_kept ht)

theorem sendBurst_kept {d l count b} (ht : Kept full s t) : Kept full s (sendBurst t d l count b) :=
  kept_foldl ht fun _ _ hu => kept_foldl hu fun _ _ h2 => sendBlock_kept h2

theorem sendSlot_kept {d l} (ht : Kept full s t) : Kept full s (sendSlot t d l) := modLink_kept
    (kept_foldl ht fun _ _ hu => sendBlock_kept hu)

theorem sendIdle_kept {d l count} (ht : Kept full s t) : Kept full s (sendIdle t d l count) :=
  modLink_kept (kept_foldl ht fun _ _ hu => emit_kept (modLane_kept hu))

theorem sendSlots_kept {d l count fuel} (ht : Kept full s t) : Kept full s (sendSlots t d l count fuel) := by
  induction fuel generalizing t count with
  | zero => exact ht
  | succ fuel ih => exact kept_ite ht (kept_ite (ih (sendIdle_kept ht)) (ih (sendSlot_kept ht)))

theorem pump_kept {d l} (ht : Kept full s t) : Kept full s (pump t d l) := kept_ite (sendSlots_kept ht) ht

theorem toBlocklock_kept {d l} (ht : Kept full s t) : Kept full s (toBlocklock t d l) :=
  kept_foldl (modLink_kept (pump_kept ht)) fun _ _ hu => modLane_kept hu

theorem startStream_kept {d l origin} (ht : Kept full s t) : Kept full s (startStream t d l origin) := modLink_kept ht

theorem cutStream_kept {d l} (ht : Kept full s t) : Kept full s (cutStream t d l) := modLink_kept (pump_kept ht)

theorem endFrame_kept {d l} (ht : Kept full s t) : Kept full s (endFrame t d l) := by
  unfold endFrame
  extract_lets t1 k
  have h1 : Kept full s t1 := pump_kept ht
  split
  · exact kept_ite (sendSlots_kept (modLink_kept h1)) h1
  · exact h1

theorem pushFrame_kept {d l f} (ht : Kept full s t) : Kept full s (pushFrame t d l f) := modLink_kept (pump_kept ht)

theorem pushSingle_kept {d l b} (ht : Kept full s t) : Kept full s (pushSingle t d l b) := modLink_kept (pump_kept ht)

theorem dropFrames_kept {d l p} (ht : Kept full s t) : Kept full s (dropFrames t d l p) := modLink_kept (pump_kept ht)

theorem sendTraining_kept {d n ctl} (ht : Kept full s t) : Kept full s (sendTraining t d n ctl) := emit_kept (modLane_kept ht)

/-! ### Link records, control frames and lane settings -/

theorem sendControl_kept {d l op body} (ht : Kept full s t) : Kept full s (sendControl t d l op body) := modLink_kept (pushFrame_kept ht)

theorem sendLineBase_kept {h next} (ht : Kept full s t) : Kept full s (sendLineBase t h next) := by
  unfold sendLineBase
  split
  · exact ht
  · exact kept_ite (sendControl_kept (modHead_kept (modHead_kept ht))) (modHead_kept ht)

theorem dropLines_kept {h p} (ht : Kept full s t) : Kept full s (dropLines t h p) := by
  unfold dropLines
  split
  · exact dropFrames_kept ht
  · exact ht

theorem newLineBase_kept {h next} (ht : Kept full s t) : Kept full s (newLineBase t h next) :=
  sendLineBase_kept (dropLines_kept (modHead_kept ht))

theorem abortEye_kept {d l} (ht : Kept full s t) : Kept full s (abortEye t d l) := kept_ite (setEye_kept ht) ht

theorem enterTrain_kept {d l} (ht : Kept full s t) : Kept full s (enterTrain t d l) :=
  kept_foldl (modLink_kept (cutStream_kept (abortEye_kept ht))) fun _ _ hu => modLane_kept hu

theorem putResult_kept {typ ix payload} (ht : Kept full s t) : Kept full s (putResult t typ ix payload) := ht

theorem loadLane_kept {i} (ht : Kept full s t) : Kept full s (loadLane t i) := kept_ite ht (modLane_kept ht)

theorem enterFast_kept {d l} (ht : Kept full s t) : Kept full s (enterFast t d l) :=
  startStream_kept (modLink_kept (sendBurst_kept (kept_foldl (cutStream_kept (abortEye_kept ht)) fun _ _ hu => modLane_kept
    (loadLane_kept hu))))

theorem tick_kept (ht : Kept full s t) : Kept full s (tick t) := kept_foldl (advanceTo_kept ht) fun _ _ hu => kept_ite hu (pump_kept hu)

theorem exitIdle_kept {d l} (ht : Kept full s t) : Kept full s (exitIdle t d l) :=
  kept_ite ht (kept_ite (enterFast_kept (modLink_kept ht)) (enterTrain_kept ht))

theorem exitIdleFor_kept {hs} (ht : Kept full s t) : Kept full s (exitIdleFor t hs) := by
  unfold exitIdleFor
  refine kept_foldl ht fun u1 a hu1 => ?_
  split
  · exact exitIdle_kept hu1
  · exact hu1

theorem addDue_kept {xs} (ht : Kept full s t) : Kept full s (addDue t xs) := ht

theorem activateLink_kept {d l} (ht : Kept full s t) : Kept full s (activateLink t d l) :=
  kept_foldl (addDue_kept (modLink_kept ht)) fun _ _ hu => newLineBase_kept hu

theorem modHeadLine_kept {h line f} (ht : Kept full s t) : Kept full s (modHeadLine t h line f) := modHead_kept ht

theorem sendSeg_kept {d l h hl seg kind} (ht : Kept full s t) : Kept full s (sendSeg t d l h hl seg kind) := pushFrame_kept ht

theorem modFeed_kept {d l h line seg f} (ht : Kept full s t) : Kept full s (modFeed t d l h line seg f) := modLink_kept (pump_kept ht)

theorem feedBlock_kept {h line from_} (ht : Kept full s t) : Kept full s (feedBlock t h line from_) := by
  unfold feedBlock
  split
  · exact kept_ite ht (kept_ite (kept_ite (pushFrame_kept ht) ht)
      (kept_ite (modHeadLine_kept (modFeed_kept (modFeed_kept (kept_ite (pushFrame_kept ht) ht))))
      (modFeed_kept (kept_ite (pushFrame_kept ht) ht))))
  · exact ht

theorem sendReady_kept {h} (ht : Kept full s t) : Kept full s (sendReady t h) := by
  unfold sendReady
  split
  · exact ht
  · exact kept_ite ht (kept_foldl ht fun _ _ hu => kept_ite hu (modHeadLine_kept (kept_foldl hu fun _ _ h2 => sendSeg_kept h2)))

theorem startGather_kept {h F} (ht : Kept full s t) : Kept full s (startGather t h F) := kept_ite ht (modHead_kept ht)

/-! ### Jobs and their rows -/

theorem freeSlots_kept {x ended smax} (ht : Kept full s t) : Kept full s (freeSlots t x ended smax) := modClause_kept ht

theorem takeSlots_kept {x} (ht : Kept full s t) : Kept full s (takeSlots t x) := kept_ite ht
    (kept_foldl ht fun _ _ hu => lineComplete_kept hu)

theorem startTest_kept {x} (ht : Kept full s t) : Kept full s (startTest t x) := changeFence_kept (modClause_kept ht)

theorem fencedIfDrained_kept {x} (ht : Kept full s t) : Kept full s (fencedIfDrained t x) := by
  unfold fencedIfDrained
  exact kept_ite (kept_ite (returnSpare_kept (powerOffClause_kept (setClause_kept ht)))
    (kept_ite (startTest_kept (powerOffClause_kept (setClause_kept ht))) (powerOffClause_kept (setClause_kept ht)))) ht

theorem freeRow_kept {r} (ht : Kept full s t) : Kept full s (freeRow t r) :=
  kept_foldl ht fun _ _ hu => kept_foldl hu fun _ _ h2 => fencedIfDrained_kept (takeSlots_kept (freeSlots_kept h2))

theorem freeOverlays_kept (ht : Kept full s t) : Kept full s (freeOverlays t) := by
  unfold freeOverlays
  split
  · exact ht
  · exact kept_foldl ht fun _ _ hu => kept_ite (deleteBlocks_kept hu) hu

theorem nextReport_kept {r} (ht : Kept full s t) (hr : nextReport? t = some r) : Kept full s r.2 := by
  unfold nextReport? at hr
  split at hr
  · exact absurd hr nofun
  split at hr
  · obtain rfl := Option.some.inj hr
    exact ht
  split at hr
  · obtain rfl := Option.some.inj hr
    exact ht
  · exact absurd hr nofun

theorem serveReports_kept {fuel} (ht : Kept full s t) : Kept full s (serveReports t fuel) := by
  induction fuel generalizing t with
  | zero => exact ht
  | succ fuel ih =>
    unfold serveReports
    split
    next hreport _ hr => exact ih (finish_kept (kept_eraseParked (nextReport_kept ht hr)))
    next => exact ht

theorem serveAll_kept (ht : Kept full s t) : Kept full s (serveAll t) := serveReports_kept ht

theorem stopAt_kept {boundary bit} (ht : Kept full s t) : Kept full s (stopAt t boundary bit) := by
  unfold stopAt
  split
  · exact ht
  · exact kept_ite ht (kept_foldl ht fun _ _ hu => modRow_kept hu)

theorem clauseIdle_kept {x} (ht : Kept full s t) : Kept full s (clauseIdle t x) := kept_foldl (modClause_kept ht)
    fun _ _ hu => modCell_kept hu

theorem clausesIdle_kept {rows} (ht : Kept full s t) : Kept full s (clausesIdle t rows) :=
  kept_foldl ht fun _ _ hu => kept_foldl hu fun _ _ h2 => fencedIfDrained_kept (clauseIdle_kept h2)

theorem closeJob_kept {bits} (ht : Kept full s t) : Kept full s (closeJob t bits) := by
  unfold closeJob
  split
  · exact ht
  · extract_lets t1 t2 t3 t4 t5 t6 src t7
    have h1 : Kept full s t1 := endRuns_kept ht
    have h2 : Kept full s t2 := freeBlocks_kept h1
    have h3 : Kept full s t3 := h2
    have h4 : Kept full s t4 := clausesIdle_kept h3
    have h5 : Kept full s t5 := kept_foldl h4 fun _ _ h1 => modRow_kept h1
    have h6 : Kept full s t6 := freeOld_kept h5
    have h7 : Kept full s t7 := kept_ite h6 h6
    exact kept_ite ht (serveAll_kept h7)

theorem readyCopies_kept {fuel} (ht : Kept full s t) : Kept full s (readyCopies t fuel) := by
  induction fuel generalizing t with
  | zero => exact ht
  | succ fuel ih =>
    unfold readyCopies
    split
    · exact ht
    · exact kept_ite (ih (endRuns_kept ht)) ht

theorem jobAdvance_kept (ht : Kept full s t) : Kept full s (jobAdvance t) := by
  unfold jobAdvance
  split
  · exact ht
  · exact kept_ite ht (serveAll_kept (kept_ite (closeJob_kept (kept_foldl (readyCopies_kept ht) fun _ _ hu => kept_ite (modRow_kept hu) hu))
      (kept_foldl (readyCopies_kept ht) fun _ _ hu => kept_ite (modRow_kept hu) hu)))

theorem addSkip_kept {i p row cause L die} (ht : Kept full s t) : Kept full s (addSkip t i p row cause L die) := by
  unfold addSkip
  extract_lets same r
  split
  · exact ht
  · split
    · exact ht
    · exact kept_ite ht (kept_ite (logRun_kept ht) ht)

theorem skipCopies_kept {r h L cause} (ht : Kept full s t) : Kept full s (skipCopies t r h L cause) :=
  kept_ite ht (kept_foldl ht fun _ _ hu => addSkip_kept (flagCopy_kept hu))

/-! ### The rise to Ready and the event rings -/

theorem pushRam_kept {es} (ht : Kept full s t) : Kept full s (pushRam t es) := kept_log ht

theorem leaveSleepLog_kept (ht : Kept full s t) : Kept full s (leaveSleepLog t) :=
  kept_ite (kept_log (pushRam_kept ht)) (logEv_kept (kept_log (pushRam_kept ht)))

theorem restoreClauses_kept (ht : Kept full s t) : Kept full s (restoreClauses t) := by
  unfold restoreClauses
  exact kept_foldl ht fun _ _ hu => kept_ite (loadClause_kept (modClause_kept hu))
    (kept_ite (kept_ite (loadClause_kept (modClause_kept hu)) (modClause_kept hu)) hu)

theorem fastRetrains_kept (ht : Kept full s t) : Kept full s (fastRetrains t) := kept_foldl ht fun _ _ hu => modDdr_kept hu

theorem riseReady_kept (ht : Kept full s t) : Kept full s (riseReady t) := by
  unfold riseReady
  extract_lets up
  split
  · exact ht
  · exact fastRetrains_kept (restoreClauses_kept (leaveSleepLog_kept ht))
  · exact ht
  · exact ht

theorem clausesOff_kept (ht : Kept full s t) : Kept full s (clausesOff t) := kept_foldl ht fun _ _ hu => kept_ite
    (powerOffClause_kept hu) hu

/-! ### Axes and services -/

theorem endAxisCmd_kept {a status} (ht : Kept full s t) : Kept full s (endAxisCmd t a status) := by
  unfold endAxisCmd
  split
  · exact complete_kept (kept_eraseParked ht)
  · exact ht

theorem endService_kept {g status st} (ht : Kept full s t) : Kept full s (endService t g status st) := by
  unfold endService
  extract_lets t1 t2
  have h1 : Kept full s t1 := ht
  have h2 : Kept full s t2 := modSvc_kept h1
  split
  · exact complete_kept (kept_eraseParked h2)
  · exact h2

theorem axisFailed_kept {a status} (ht : Kept full s t) : Kept full s (axisFailed t a status) := by
  unfold axisFailed
  extract_lets t1
  have h1 : Kept full s t1 := endAxisCmd_kept ht
  split
  · exact endService_kept h1
  · exact h1

theorem stopDecel_kept {a goal} (ht : Kept full s t) : Kept full s (stopDecel t a goal) := by
  unfold stopDecel
  split
  · exact ht
  · exact kept_ite ht (setAxis_kept ht)

theorem freezeAxis_kept {a} (ht : Kept full s t) : Kept full s (freezeAxis t a) := modAxis_kept ht

theorem fenceAxis_kept {a reason} (ht : Kept full s t) : Kept full s (fenceAxis t a reason) := by
  unfold fenceAxis
  extract_lets t1 t2 t3
  have h1 : Kept full s t1 := modAxis_kept ht
  have h2 : Kept full s t2 := changeFence_kept h1
  have h3 : Kept full s t3 := axisFailed_kept h2
  split
  · exact ht
  · split
    · exact modSvc_kept h3
    · exact h3

theorem axisFault_kept {a} (ht : Kept full s t) : Kept full s (axisFault t a) := kept_ite (fenceAxis_kept ht) (noteTransient_kept ht)

theorem spitLine_kept {r k} (ht : Kept full s t) : Kept full s (spitLine t r k) := kept_foldl ht fun _ _ hu => sendReady_kept
    (modHead_kept hu)

theorem beginSpit_kept {g r} (ht : Kept full s t) : Kept full s (beginSpit t g r) :=
  spitLine_kept (modSvc_kept (kept_foldl (exitIdleFor_kept ht) fun _ _ hu => newLineBase_kept (modHead_kept hu)))

theorem runService_kept {g fuel} (ht : Kept full s t) : Kept full s (runService t g fuel) := by
  induction fuel generalizing t with
  | zero => exact ht
  | succ fuel ih =>
    unfold runService
    extract_lets q
    split
    · exact ht
    split
    · exact endService_kept (modSvc_kept ht)
    extract_lets pop
    split
    · refine kept_ite (ih (modSvc_kept ht)) ?_
      split
      · exact modAxis_kept ht
      · exact endService_kept ht
    · refine kept_ite (ih (modSvc_kept ht)) (kept_ite (endService_kept ht) ?_)
      split
      · exact modAxis_kept ht
      · exact endService_kept ht
    · exact ih (modSvc_kept (modAxis_kept ht))
    · exact ht
    · exact beginSpit_kept ht

theorem stepDone_kept {g} (ht : Kept full s t) : Kept full s (stepDone t g) := runService_kept (modSvc_kept ht)

theorem axisDone_kept {a} (ht : Kept full s t) : Kept full s (axisDone t a) := by
  unfold axisDone
  extract_lets t1
  have h1 : Kept full s t1 := endAxisCmd_kept ht
  split
  · exact stepDone_kept h1
  · exact h1

theorem axisArrived_kept {a r} (ht : Kept full s t) : Kept full s (axisArrived t a r) := by
  unfold axisArrived
  extract_lets x hold src
  split
  · exact ht
  · exact axisDone_kept (setAxis_kept ht)
  · exact setAxis_kept ht
  · exact setAxis_kept ht
  · exact setAxis_kept ht
  · exact setAxis_kept ht
  · exact axisDone_kept (setAxis_kept ht)
  · exact axisFailed_kept (setAxis_kept ht)
  · exact axisFailed_kept (setAxis_kept ht)
  · exact axisDone_kept (setAxis_kept ht)

theorem stopCovered_kept (ht : Kept full s t) : Kept full s (stopCovered t) := by
  unfold stopCovered
  refine kept_foldl ht fun u1 a hu1 => ?_
  split
  · exact hu1
  · exact kept_ite hu1 (modSvc_kept (kept_foldl hu1 fun _ _ hu => axisFailed_kept (stopDecel_kept hu)))

theorem logGroups_kept (ht : Kept full s t) : Kept full s (logGroups t) := kept_foldl ht fun _ _ hu => logEv_kept hu

/-! ### Fences of units other than clauses -/

theorem fenceDma_kept {d c reason} (ht : Kept full s t) : Kept full s (fenceDma t d c reason) := kept_ite ht
    (changeFence_kept (modDma_kept ht))

theorem lostHostIn_kept (ht : Kept full s t) : Kept full s (lostHostIn t) := by
  unfold lostHostIn
  extract_lets ws
  split
  · exact ht
  · refine kept_foldl (kept_filterParked ht) fun u1 a hu1 => ?_
    split
    · exact loadLost_kept hu1
    · exact hu1

theorem passDma_kept {d c reason} (ht : Kept full s t) : Kept full s (passDma t d c reason) := by
  unfold passDma
  extract_lets q t1 q'
  have h1 : Kept full s t1 := fenceDma_kept ht
  split
  · exact ht
  · split
    · exact h1
    · split
      · exact kept_ite (lostHostIn_kept h1) h1
      · exact modDma_kept h1

theorem fenceHead_kept {h reason} (ht : Kept full s t) : Kept full s (fenceHead t h reason) := by
  unfold fenceHead
  extract_lets t1 t2
  have h1 : Kept full s t1 := modHead_kept (dropLines_kept ht)
  have h2 : Kept full s t2 := changeFence_kept h1
  split
  · exact ht
  · split
    · exact fenceDma_kept h2
    · exact h2

theorem headFault_kept {h line} (ht : Kept full s t) : Kept full s (headFault t h line) := kept_ite ht (modHead_kept ht)

theorem fenceHeads_kept {hs reason} (ht : Kept full s t) : Kept full s (fenceHeads t hs reason) :=
  jobAdvance_kept (kept_foldl ht fun _ _ hu => fenceHead_kept hu)

theorem fitHeads_kept {d l n fuel} (ht : Kept full s t) : Kept full s (fitHeads t d l n fuel) := by
  induction fuel generalizing t with
  | zero => exact ht
  | succ fuel ih =>
    unfold fitHeads
    extract_lets hs
    split
    · exact ht
    split
    · exact ih (fenceHead_kept ht)
    · exact ht

theorem renegotiate_kept {d l} (ht : Kept full s t) : Kept full s (renegotiate t d l) := by
  unfold renegotiate
  extract_lets ws n t1 use t2
  have h1 : Kept full s t1 := cutStream_kept ht
  have h2 : Kept full s t2 := modLink_kept ht
  split
  · exact ht
  · exact kept_ite (fenceHeads_kept (modLink_kept h1)) (jobAdvance_kept (fitHeads_kept (sendControl_kept h2)))

theorem retireLane_kept {d n reason} (ht : Kept full s t) : Kept full s (retireLane t d n reason) :=
  kept_ite ht (changeFence_kept (modLane_kept ht))

theorem retireLanes_kept {d l ns reason} (ht : Kept full s t) : Kept full s (retireLanes t d l ns reason) :=
  kept_ite ht (renegotiate_kept (kept_foldl ht fun _ _ hu => retireLane_kept hu))

theorem settleLosses_kept {d ns} (ht : Kept full s t) : Kept full s (settleLosses t d ns) := by
  unfold settleLosses
  refine kept_foldl ht fun u1 a hu1 => ?_
  split
  · exact modLane_kept (noteTransient_kept hu1)
  · exact hu1

theorem die0Stop_kept {reason} (ht : Kept full s t) : Kept full s (die0Stop t reason) := by
  unfold die0Stop
  extract_lets t1 t2 ps
  have h1 : Kept full s t1 := logEv_kept ht
  have h2 : Kept full s t2 := closeJob_kept h1
  split
  · exact ht
  · refine kept_foldl (kept_noneParked h2) fun u3 a hu3 => ?_
    split
    · exact complete_kept hu3
    · exact loadEnd_kept hu3
    · exact complete_kept hu3
    · exact complete_kept hu3
    · exact complete_kept hu3
    · exact complete_kept hu3
    · exact complete_kept hu3
    · exact complete_kept hu3
    · exact complete_kept hu3
    · exact complete_kept hu3
    · exact complete_kept hu3
    · exact complete_kept hu3

theorem fenceDieClauses_endUnfenceOf_kept {d k} (ht : Kept full s t) : Kept full s (fenceDieClauses.endUnfenceOf t d k) := by
  unfold fenceDieClauses.endUnfenceOf
  extract_lets mine hs
  refine kept_foldl (kept_filterParked ht) fun u1 a hu1 => ?_
  split
  · exact complete_kept hu1
  · exact hu1

theorem fenceDieClauses_kept {d} (ht : Kept full s t) : Kept full s (fenceDieClauses t d) := by
  unfold fenceDieClauses
  refine kept_foldl ht fun u1 a hu1 => ?_
  extract_lets x u testing t2 t3 t4
  have h2 : Kept full s t2 := clauseIdle_kept hu1
  have h3 : Kept full s t3 := powerOffClause_kept (modClause_kept h2)
  have h4 : Kept full s t4 := kept_ite h3 (changeFence_kept h3)
  exact kept_ite (fenceDieClauses_endUnfenceOf_kept h4) h4

theorem dieFault_kept {d reason} (ht : Kept full s t) : Kept full s (dieFault t d reason) := by
  unfold dieFault
  extract_lets t1 t2 ls hs t3 t4 t5 t6 t7
  have h1 : Kept full s t1 := changeFence_kept ht
  have h2 : Kept full s t2 := fenceDieClauses_kept h1
  have h3 : Kept full s t3 := kept_foldl h2 fun _ _ h1 => fenceHead_kept h1
  have h4 : Kept full s t4 := kept_foldl h3 fun _ _ h1 => retireLane_kept h1
  have h5 : Kept full s t5 := kept_foldl h4 fun _ _ h1 => modLink_kept h1
  have h6 : Kept full s t6 := kept_foldl h5 fun _ _ h1 => fenceDma_kept h1
  have h7 : Kept full s t7 := fenceAxis_kept (fenceAxis_kept h6)
  exact kept_ite ht (kept_ite (die0Stop_kept ht) (kept_ite ht (jobAdvance_kept (refuseCached_kept h7))))

theorem endRetrain_kept {d ch status} (ht : Kept full s t) : Kept full s (endRetrain t d ch status) := by
  unfold endRetrain
  split
  · exact complete_kept (kept_eraseParked ht)
  · exact ht

theorem endRetrains_kept {d ch status fuel} (ht : Kept full s t) : Kept full s (endRetrains t d ch status fuel) := by
  induction fuel generalizing t with
  | zero => exact ht
  | succ fuel ih => exact kept_ite (ih (endRetrain_kept ht)) ht

theorem retireDram_kept {d ch reason} (ht : Kept full s t) : Kept full s (retireDram t d ch reason) := by
  unfold retireDram
  extract_lets i t1 t2 t3 t4 t5 t6 t7
  have h1 : Kept full s t1 := modDdr_kept ht
  have h2 : Kept full s t2 := endRetrains_kept h1
  have h3 : Kept full s t3 := changeFence_kept h2
  have h4 : Kept full s t4 := kept_foldl h3 fun _ _ h1 => markBad_kept h1
  have h5 : Kept full s t5 := h4
  have h6 : Kept full s t6 := refuseCached_kept h5
  have h7 : Kept full s t7 := logEv_kept h6
  exact kept_ite ht (kept_ite (dieFault_kept h7) h7)

/-! ### Rings as the host reaches them -/

theorem hostReg_kept {d f} (ht : Kept full s t) (hf : ∀ u, Kept full s u → Kept full s (f u)) : Kept full s (hostReg t d f) :=
  kept_ite (hf t ht) ht

theorem hostSend_kept {h opcode addr bytes result} (ht : Kept full s t) : Kept full s (hostSend t h opcode addr bytes result) :=
  kept_ite (finish_kept ht) (kept_ite (finish_kept (emit_kept ht)) (complete_kept ht))

theorem dropFetch_kept {c} (ht : Kept full s t) : Kept full s (dropFetch t c) := kept_ite (modCq_kept (modSq_kept ht)) ht

/-! ### Tables placed in the die banks -/

theorem placeTable_kept {p} (ht : Kept full s t) : Kept full s (placeTable t p) := kept_foldl ht fun _ _ hu => kept_ite (bankWr_kept hu) hu

theorem applyGains_kept {p} (ht : Kept full s t) : Kept full s (applyGains t p) := kept_foldl ht fun _ _ hu => hu

theorem placeImages_kept {d} (ht : Kept full s t) : Kept full s (placeImages t d) := bankWr_kept ht

/-! ### The event log -/

theorem flushSector_kept (ht : Kept full s t) : Kept full s (flushSector t) := kept_ite ht ht

theorem flashEntry_kept {x} (ht : Kept full s t) : Kept full s (flashEntry t x) := kept_ite ht (kept_ite (flushSector_kept ht) ht)

theorem notifyEntry_kept {x} (ht : Kept full s t) : Kept full s (notifyEntry t x) := kept_ite ht (kept_ite ht (msix_kept ht))

theorem sendEvent_kept {x} (ht : Kept full s t) : Kept full s (sendEvent t x) := emit_kept ht

theorem uartEntry_kept {x} (ht : Kept full s t) : Kept full s (uartEntry t x) := kept_ite ht (kept_ite (sendEvent_kept ht) ht)

theorem ramEntry_kept {x} (ht : Kept full s t) : Kept full s (ramEntry t x) := kept_ite (pushRam_kept ht) (kept_ite ht ht)

theorem logEntry_kept {e} (ht : Kept full s t) : Kept full s (logEntry t e) :=
  uartEntry_kept (notifyEntry_kept (flashEntry_kept (ramEntry_kept ht)))

theorem takeEvent_kept {d} (ht : Kept full s t) : Kept full s (takeEvent t d) := by
  unfold takeEvent
  extract_lets q
  split
  · exact ht
  · extract_lets t1
    have h1 : Kept full s t1 := logLost_kept (setEvq_kept ht)
    split
    · exact logEntry_kept h1
    · exact h1

/-! ### DMA transfers -/

theorem dmaTouch_kept {d a n} (ht : Kept full s t) : Kept full s (dmaTouch t d a n) := by
  unfold dmaTouch
  split
  · exact dramTouch_kept ht
  · exact settleRange_kept ht
  · exact settleRange_kept ht
  · exact ht

theorem dmaRead_kept {d a n given} (ht : Kept full s t) : Kept full s (dmaRead t d a n given).2 := by
  unfold dmaRead
  extract_lets low
  split
  · exact ht
  · exact rdBanks_kept ht
  · exact ht
  · exact ht
  · exact ht

theorem dmaWrite_kept {d c a bs} (ht : Kept full s t) : Kept full s (dmaWrite t d c a bs) := by
  unfold dmaWrite
  extract_lets low
  split
  · exact dramWr_kept ht
  · exact bankWr_kept ht
  · exact tcmWr_kept ht
  · exact sendFlight_kept ht
  · exact emit_kept ht
  · exact modComp_kept ht
  · exact ht

theorem landIngress_kept {d a bs bad} (ht : Kept full s t) : Kept full s (landIngress t d a bs bad) :=
  kept_ite (dramWr_kept ht) (kept_foldl (dramWr_kept ht) fun _ _ hu => kept_ite (kept_foldl hu fun _ _ h2 => dramMark_kept h2) hu)

theorem dmaIrq_kept {d c} (ht : Kept full s t) : Kept full s (dmaIrq t d c) :=
  kept_ite ht (kept_ite (setDmaDie_kept ht) (msix_kept (setDmaDie_kept ht)))

theorem pulseLine_kept {d line} (ht : Kept full s t) : Kept full s (pulseLine t d line) := kept_foldl ht fun _ _ hu => modDma_kept hu

theorem writeStatus_kept {d q status crc} (ht : Kept full s t) : Kept full s (writeStatus t d q status crc) := by
  unfold writeStatus
  extract_lets a t1
  have h1 : Kept full s t1 := by
    unfold t1
    split
    · exact dmaWrite_kept ht
    · exact ht
  exact kept_ite ht (dmaWrite_kept h1)

theorem recordBad_kept {d c cause addr} (ht : Kept full s t) : Kept full s (recordBad t d c cause addr) :=
  dmaIrq_kept (modDma_kept (writeStatus_kept ht))

theorem startShadow_kept {d c} (ht : Kept full s t) : Kept full s (startShadow t d c) :=
  kept_ite (setDma_kept ht) (recordBad_kept (setDma_kept ht))

theorem afterTransfer_kept {d c} (ht : Kept full s t) : Kept full s (afterTransfer t d c) :=
  kept_ite (kept_ite (setDma_kept ht) (setDma_kept ht)) (kept_ite (startShadow_kept ht) (setDma_kept ht))

theorem completeOk_kept {d c} (ht : Kept full s t) : Kept full s (completeOk t d c) := by
  unfold completeOk
  extract_lets q v t1 t2 t3 t4
  have h1 : Kept full s t1 := writeStatus_kept ht
  have h2 : Kept full s t2 := modDma_kept h1
  have h3 : Kept full s t3 := by
    unfold t3
    split
    · exact noteTransient_kept h2
    · exact h2
  have h4 : Kept full s t4 := kept_ite (pulseLine_kept h3) h3
  exact afterTransfer_kept (dmaIrq_kept h4)

theorem endBad_kept {d c cause addr} (ht : Kept full s t) : Kept full s (endBad t d c cause addr) := afterTransfer_kept (recordBad_kept ht)

theorem freeDest_kept {d c} (ht : Kept full s t) : Kept full s (freeDest t d c) :=
  kept_ite ht (kept_foldl ht fun _ _ hu => kept_ite hu (kept_ite (dramWr_kept (drawBytes_kept hu)) (dmaWrite_kept (drawBytes_kept hu))))

theorem returnDst_kept {b} (ht : Kept full s t) : Kept full s (returnDst t b) := kept_ite ht (endBad_kept (freeDest_kept ht))

theorem forwardBurst_kept {d p bad} (ht : Kept full s t) : Kept full s (forwardBurst t d p bad) := by
  unfold forwardBurst
  split
  · exact ht
  · exact kept_ite ht (kept_ite (returnDst_kept (modPort_kept ht)) (landIngress_kept (modPort_kept ht)))

theorem haltDma_kept {d c cause addr} (ht : Kept full s t) : Kept full s (haltDma t d c cause addr) := by
  unfold haltDma
  extract_lets q win again t1 t2
  have h1 : Kept full s t1 := setDma_kept ht
  have h2 : Kept full s t2 := by
    unfold t2
    split
    · exact noteTransient_kept h1
    · exact h1
  exact kept_ite (passDma_kept h1) (modDma_kept h2)

/-! ### Protected arrays and march tests -/

theorem memEvent_kept {d code b syndrome} (ht : Kept full s t) : Kept full s (memEvent t d code b syndrome) := logEv_kept ht

theorem declareStuck_kept {d b syndrome} (ht : Kept full s t) : Kept full s (declareStuck t d b syndrome) :=
  kept_ite (setScrub_kept ht) (kept_ite (memEvent_kept (setScrub_kept ht)) (kept_ite (setScrub_kept ht) (setScrub_kept ht)))

theorem copyRow_kept {b} (ht : Kept full s t) : Kept full s (copyRow t b) :=
  kept_foldl ht fun _ _ hu => kept_ite hu (setFlip_kept (settle_kept hu))

theorem marchRun_kept {d fs tests} (ht : Kept full s t) : Kept full s (marchRun t d fs tests).1 := setScrub_kept ht

theorem wipeArrays_kept {d kind index} (ht : Kept full s t) : Kept full s (wipeArrays t d kind index) := by
  obtain ⟨hfuses, hpending, hvalues, hmem, hdia⟩ := ht
  refine ⟨hfuses, hpending, hvalues, fun hs => ?_, hdia⟩
  have hok := hmem hs
  simp only [memsOk, Bool.and_eq_true] at hok ⊢
  obtain ⟨⟨⟨⟨hbanks, htcm⟩, hdram⟩, hdmem⟩, hflash⟩ := hok
  refine ⟨⟨⟨⟨filter_wf _ _ hbanks, ?_⟩, hdram⟩, filter_wf _ _ hdmem⟩, hflash⟩
  unfold wipeArrays
  dsimp only
  split
  · exact filter_wf _ _ htcm
  · exact htcm

theorem beginMarch_kept {d kind index mode cmd} (ht : Kept full s t) : Kept full s (beginMarch t d kind index mode cmd) :=
  kept_ite (kept_ite (setMarch_kept (modClause_kept ht)) (setMarch_kept ht)) (setMarch_kept ht)

theorem nextMarch_kept {d fuel} (ht : Kept full s t) : Kept full s (nextMarch t d fuel) := by
  induction fuel generalizing t with
  | zero => exact ht
  | succ fuel ih =>
    unfold nextMarch
    split
    · exact ht
    split
    · extract_lets t1
      have h1 : Kept full s t1 := beginMarch_kept ht
      exact kept_ite h1 (ih (complete_kept (kept_eraseParked h1)))
    · exact ht

theorem endMarch_kept {d m} (ht : Kept full s t) : Kept full s (endMarch t d m) := by
  unfold endMarch
  extract_lets t1 t2 t3
  have h1 : Kept full s t1 := by
    unfold t1
    split
    · exact kept_ite (modClause_kept ht) ht
    · exact ht
  have h2 : Kept full s t2 := setMarch_kept h1
  have h3 : Kept full s t3 := by
    unfold t3
    split
    · exact complete_kept (kept_eraseParked h2)
    · exact h2
  exact nextMarch_kept h3

end Sys2Proof.Proofs
end

section
/-! PROOFS. What a step keeps: arrays and queues, and the instructions and the line protocol of the cells. -/

open Sys2Proof Sys2Proof.Machine Sys2Proof.Claims

namespace Sys2Proof.Proofs

variable {full : Bool} {s t : State}

/-! ### Scrubbing, tests, pushes and pops -/

theorem doBnkCtrlClr_kept {d} (ht : Kept full s t) : Kept full s (doBnkCtrlClr t d) := ht

theorem doEvtQCtrlClr_kept {d q} (ht : Kept full s t) : Kept full s (doEvtQCtrlClr t d q) := kept_ite ht (setEvq_kept ht)

theorem doMgtMtCtrlStart_kept {d} (ht : Kept full s t) : Kept full s (doMgtMtCtrlStart t d) := kept_ite ht (beginMarch_kept ht)

theorem scrubCorrect_kept {d b syndrome rewritten} (ht : Kept full s t) : Kept full s (scrubCorrect t d b syndrome rewritten) := by
  unfold scrubCorrect
  exact kept_ite (declareStuck_kept (kept_ite (setFlip_kept (settle_kept ht)) (modScrub_kept (setFlip_kept (settle_kept ht)))))
    (kept_ite (setFlip_kept (settle_kept ht)) (modScrub_kept (setFlip_kept (settle_kept ht))))

theorem scrubBlock_kept {d b rewritten} (ht : Kept full s t) : Kept full s (scrubBlock t d b rewritten) := by
  unfold scrubBlock
  extract_lets w syn
  split
  · exact modScrub_kept (settle_kept ht)
  · exact scrubCorrect_kept ht
  · exact scrubCorrect_kept ht
  · exact settle_kept ht
  · exact memEvent_kept (settle_kept ht)

theorem doScrubRead_kept {d upsets rewritten} (ht : Kept full s t) : Kept full s (doScrubRead t d upsets rewritten) := by
  unfold doScrubRead
  extract_lets t1 b t2
  have h1 : Kept full s t1 := kept_foldl ht fun _ _ h1 => upset_kept h1
  have h2 : Kept full s t2 := scrubBlock_kept h1
  split
  · exact h1
  · split
    · exact modScrub_kept h2
    · exact modScrub_kept h2

theorem doRowRepairDone_kept {d b stalled} (ht : Kept full s t) : Kept full s (doRowRepairDone t d b stalled) :=
  kept_ite ht (modScrub_kept (copyRow_kept (setScrub_kept (kept_ite (kept_foldl ht fun _ _ hu => conflict_kept hu) ht))))

theorem doMasterRewrite_kept {d b} (ht : Kept full s t) : Kept full s (doMasterRewrite t d b) := by
  unfold doMasterRewrite
  split
  · exact ht
  · split
    · exact writeBlock_kept ht
    · exact ht

theorem restoreRows_kept {tests} (ht : Kept full s t) : Kept full s (restoreRows t tests) := kept_foldl ht fun _ _ hu => settle_kept hu

theorem doMarchDone_kept {d defects} (ht : Kept full s t) : Kept full s (doMarchDone t d defects) := by
  unfold doMarchDone
  exact kept_ite ht (endMarch_kept (kept_ite (kept_foldl (restoreRows_kept (marchRun_kept ht)) fun _ _ hu => memEvent_kept hu)
    (wipeArrays_kept (marchRun_kept ht))))

theorem doMarchRowRetry_kept {d row master} (ht : Kept full s t) : Kept full s (doMarchRowRetry t d row master) :=
  kept_ite ht (setMarch_kept (kept_ite (conflict_kept ht) ht))

theorem doQueuePush_kept {q it} (ht : Kept full s t) : Kept full s (doQueuePush t q it) := by
  unfold doQueuePush
  split
  · exact kept_ite ht ht
  · exact ht
  · exact evqPush_kept ht
  · exact evqPush_kept ht
  · exact evqPush_kept ht
  · exact kept_ite (setCell_kept ht) ht
  · extract_lets c
    split
    · exact kept_ite (setCell_kept ht) ht
    · exact ht
  · exact kept_ite (setCell_kept ht) ht
  · exact kept_ite (haloPush_kept ht) ht
  · exact kept_ite (setPort_kept ht) ht
  · exact ht

theorem checkWords_kept {d flips} (ht : Kept full s t) : Kept full s (checkWords t d flips).2 := by
  unfold checkWords
  refine kept_foldl_snd ht fun r1 a hr1 => ?_
  split
  · exact hr1
  · exact countMem_kept hr1
  · exact countMem_kept hr1

theorem damagedVector_kept {x n} (ht : Kept full s t) : Kept full s (damagedVector t x n) := by
  unfold damagedVector
  extract_lets e q
  split
  · exact transientClause_kept (kept_ite ht (withhold_kept ht))
  · exact transientClause_kept ht

theorem popItem_popQueue_kept {flips d n} (ht : Kept full s t) : Kept full s (popItem.popQueue flips t d n) := by
  unfold popItem.popQueue
  extract_lets r x
  split
  · exact ht
  · exact logLost_kept (setEvq_kept (checkWords_kept ht))

theorem popItem_freeVec_kept (ht : Kept full s t) : Kept full s (popItem.freeVec t).2 := drawFree_kept (drawFree_kept ht)

theorem popItem_kept {q flips} (ht : Kept full s t) : Kept full s (popItem t q flips) := by
  unfold popItem
  split
  · split
    · exact ht
    · split
      · exact ht
      · exact checkWords_kept ht
  · extract_lets r x
    split
    · exact ht
    · split
      · split
        · exact checkWords_kept ht
        · exact logLost_kept (setEvq_kept (checkWords_kept ht))
      · exact takeEvent_kept (checkWords_kept ht)
  · exact popItem_popQueue_kept ht
  · exact popItem_popQueue_kept ht
  · extract_lets i r
    split
    · exact ht
    · exact drainIn_kept (kept_ite (modCell_kept (checkWords_kept ht)) (checkWords_kept ht))
  · extract_lets i r
    split
    · exact ht
    · exact landWord_kept (modCell_kept (checkWords_kept ht))
  · exact kept_ite ht (kept_ite (checkWords_kept ht) (damagedVector_kept (modCell_kept (popItem_freeVec_kept (checkWords_kept ht)))))
  · exact kept_ite ht (kept_ite (checkWords_kept ht) (damagedVector_kept (modClause_kept (popItem_freeVec_kept (checkWords_kept ht)))))
  · exact kept_ite ht (forwardBurst_kept (checkWords_kept ht))

theorem popPush_evSame_kept {q flips d n it} (ht : Kept full s t) : Kept full s (popPush.evSame q flips t d n it) :=
  kept_ite (doQueuePush_kept (popItem_kept ht)) (popItem_kept (setEvq_kept ht))

theorem popPush_kept {q it flips} (ht : Kept full s t) : Kept full s (popPush t q it flips) := by
  unfold popPush
  split
  · exact popPush_evSame_kept ht
  · exact popPush_evSame_kept ht
  · exact popPush_evSame_kept ht
  · exact doQueuePush_kept (popItem_kept ht)

theorem doQueuePop_kept {q push flips} (ht : Kept full s t) : Kept full s (doQueuePop t q push flips) := by
  unfold doQueuePop
  split
  · exact popPush_kept ht
  · exact popItem_kept ht

/-! ### Control instructions -/

theorem doIll_kept {ci w} (ht : Kept full s t) : Kept full s (doIll t ci w) := cellInstr_kept ht fun _ => trivial

theorem doCellNop_kept {ci w} (ht : Kept full s t) : Kept full s (doCellNop t ci w) := cellInstr_kept ht fun _ => regBody_kept ht

theorem doBr_kept {ci w} (ht : Kept full s t) : Kept full s (doBr t ci w) := cellInstr_kept ht fun _ => keptRes_ite ht ht

theorem loopOpen_kept {ci c count stop} (ht : Kept full s t) : KeptRes full s (loopOpen t ci c count stop) :=
  keptRes_ite trivial (keptRes_ite ht (keptRes_ite trivial (setCell_kept ht)))

theorem doLoopi_kept {ci w} (ht : Kept full s t) : Kept full s (doLoopi t ci w) := cellInstr_kept ht fun _ => loopOpen_kept ht

theorem doLoopr_kept {ci w} (ht : Kept full s t) : Kept full s (doLoopr t ci w) := cellInstr_kept ht fun _ => loopOpen_kept ht

theorem doCall_kept {ci w} (ht : Kept full s t) : Kept full s (doCall t ci w) := cellInstr_kept ht fun _ => setCell_kept ht

theorem doJr_kept {ci w} (ht : Kept full s t) : Kept full s (doJr t ci w) := cellInstr_kept ht fun _ => ht

theorem doLine_kept {ci w} (ht : Kept full s t) : Kept full s (doLine t ci w) := by
  unfold doLine
  extract_lets p
  refine cellInstr_kept ht fun c => ?_
  split
  · exact trivial
  · split
    · exact keptRes_ite trivial (setCell_kept ht)
    · exact setCell_kept ht

theorem doFrame_kept {ci w} (ht : Kept full s t) : Kept full s (doFrame t ci w) := by
  unfold doFrame
  refine cellInstr_kept ht fun c => ?_
  extract_lets b f
  split
  · exact trivial
  · split
    · exact setCell_kept ht
    · exact keptRes_ite ht trivial

theorem doSeg_kept {ci w} (ht : Kept full s t) : Kept full s (doSeg t ci w) := cellInstr_kept ht fun _ => regBody_kept ht

theorem doGetc_kept {ci w} (ht : Kept full s t) : Kept full s (doGetc t ci w) := cellInstr_kept ht fun _ => regBody_kept ht

theorem doBwait_kept {ci w} (ht : Kept full s t) : Kept full s (doBwait t ci w) := cellInstr_kept ht fun _ => keptRes_ite trivial ht

theorem doTrap_kept {ci w} (ht : Kept full s t) : Kept full s (doTrap t ci w) := cellInstr_kept ht fun _ => trivial

/-! ### Scalar and predicate instructions -/

theorem scalar3_kept {ci op w xOk f} (ht : Kept full s t) : Kept full s (scalar3 t ci op w xOk f) := cellInstr_kept ht
    fun _ => regBody_kept ht

theorem scalarI_kept {ci op w f} (ht : Kept full s t) : Kept full s (scalarI t ci op w f) := cellInstr_kept ht fun _ => regBody_kept ht

theorem doAdd_kept {ci w} (ht : Kept full s t) : Kept full s (doAdd t ci w) := scalar3_kept ht

theorem doSub_kept {ci w} (ht : Kept full s t) : Kept full s (doSub t ci w) := scalar3_kept ht

theorem doLog_kept {ci w} (ht : Kept full s t) : Kept full s (doLog t ci w) := scalar3_kept ht

theorem doShf_kept {ci w} (ht : Kept full s t) : Kept full s (doShf t ci w) := cellInstr_kept ht fun _ => regBody_kept ht

theorem doMul_kept {ci w} (ht : Kept full s t) : Kept full s (doMul t ci w) := scalar3_kept ht

theorem doMnx_kept {ci w} (ht : Kept full s t) : Kept full s (doMnx t ci w) := scalar3_kept ht

theorem doAddi_kept {ci w} (ht : Kept full s t) : Kept full s (doAddi t ci w) := scalarI_kept ht

theorem doAndi_kept {ci w} (ht : Kept full s t) : Kept full s (doAndi t ci w) := scalarI_kept ht

theorem doOri_kept {ci w} (ht : Kept full s t) : Kept full s (doOri t ci w) := scalarI_kept ht

theorem doLd_kept {ci w} (ht : Kept full s t) : Kept full s (doLd t ci w) := by
  unfold doLd
  refine cellInstr_kept ht fun c => ?_
  split
  · exact setCell_kept ht
  · exact trivial
  · exact trivial

theorem doSt_kept {ci w} (ht : Kept full s t) : Kept full s (doSt t ci w) := by
  unfold doSt
  refine cellInstr_kept ht fun c => ?_
  split
  · exact dmWriteAll_kept ht
  · exact trivial
  · exact trivial

theorem doPlog_kept {ci w} (ht : Kept full s t) : Kept full s (doPlog t ci w) := cellInstr_kept ht fun _ => regBody_kept ht

theorem doPmov_kept {ci w} (ht : Kept full s t) : Kept full s (doPmov t ci w) := cellInstr_kept ht fun _ => regBody_kept ht

/-! ### Vector instructions -/

theorem vector3_kept {ci op cycles w useB xOk f} (ht : Kept full s t) : Kept full s (vector3 t ci op cycles w useB xOk f) :=
  cellInstr_kept ht fun _ => regBody_kept ht

theorem doVadd_kept {ci w} (ht : Kept full s t) : Kept full s (doVadd t ci w) := vector3_kept ht

theorem doVsub_kept {ci w} (ht : Kept full s t) : Kept full s (doVsub t ci w) := vector3_kept ht

theorem doVmul_kept {ci w} (ht : Kept full s t) : Kept full s (doVmul t ci w) := vector3_kept ht

theorem doVlog_kept {ci w} (ht : Kept full s t) : Kept full s (doVlog t ci w) := vector3_kept ht

theorem doVshf_kept {ci w} (ht : Kept full s t) : Kept full s (doVshf t ci w) := by
  unfold doVshf
  exact vector3_kept ht

theorem doVmnx_kept {ci w} (ht : Kept full s t) : Kept full s (doVmnx t ci w) := vector3_kept ht

theorem doVcmp_kept {ci w} (ht : Kept full s t) : Kept full s (doVcmp t ci w) := cellInstr_kept ht fun _ => regBody_kept ht

theorem doVsel_kept {ci w} (ht : Kept full s t) : Kept full s (doVsel t ci w) := cellInstr_kept ht fun _ => regBody_kept ht

theorem doVbc_kept {ci w} (ht : Kept full s t) : Kept full s (doVbc t ci w) := cellInstr_kept ht fun _ => regBody_kept ht

theorem doVext_kept {ci w} (ht : Kept full s t) : Kept full s (doVext t ci w) := cellInstr_kept ht fun _ => regBody_kept ht

theorem doVins_kept {ci w} (ht : Kept full s t) : Kept full s (doVins t ci w) := cellInstr_kept ht fun _ => regBody_kept ht

theorem doVsld_kept {ci w} (ht : Kept full s t) : Kept full s (doVsld t ci w) := cellInstr_kept ht fun _ => regBody_kept ht

theorem vecLoad_kept {ci op w unit f} (ht : Kept full s t) : Kept full s (vecLoad t ci op w unit f) := by
  unfold vecLoad
  refine cellInstr_kept ht fun c => ?_
  split
  · exact setCell_kept ht
  · exact trivial
  · exact trivial

theorem doVld_kept {ci w} (ht : Kept full s t) : Kept full s (doVld t ci w) := vecLoad_kept ht

theorem vecStore_kept {ci op w unit} (ht : Kept full s t) : Kept full s (vecStore t ci op w unit) := by
  unfold vecStore
  refine cellInstr_kept ht fun c => ?_
  split
  · exact dmWrite_kept ht
  · exact trivial
  · exact trivial

theorem doVst_kept {ci w} (ht : Kept full s t) : Kept full s (doVst t ci w) := vecStore_kept ht

theorem doVldb_kept {ci w} (ht : Kept full s t) : Kept full s (doVldb t ci w) := vecLoad_kept ht

theorem doVstb_kept {ci w} (ht : Kept full s t) : Kept full s (doVstb t ci w) := vecStore_kept ht

theorem doUnpk_kept {ci w} (ht : Kept full s t) : Kept full s (doUnpk t ci w) := vecLoad_kept ht

theorem doLutv_kept {ci w} (ht : Kept full s t) : Kept full s (doLutv t ci w) := by
  unfold doLutv
  refine cellInstr_kept ht fun c => ?_
  extract_lets base get rs
  split
  · exact trivial
  · split
    · exact trivial
    · exact trivial
    · exact setCell_kept ht

theorem doQth_kept {ci w} (ht : Kept full s t) : Kept full s (doQth t ci w) := cellInstr_kept ht fun _ => regBody_kept ht

theorem doDq_kept {ci w} (ht : Kept full s t) : Kept full s (doDq t ci w) := cellInstr_kept ht fun _ => regBody_kept ht

theorem doHist_kept {ci w} (ht : Kept full s t) : Kept full s (doHist t ci w) := vector3_kept ht

theorem doSprd_kept {ci w} (ht : Kept full s t) : Kept full s (doSprd t ci w) := cellInstr_kept ht fun _ => regBody_kept ht

/-! ### Output, port and bank instructions -/

theorem doPacko_kept {ci w} (ht : Kept full s t) : Kept full s (doPacko t ci w) := by
  unfold doPacko
  refine cellInstr_kept ht fun c => ?_
  extract_lets i half c'
  split
  · exact setCell_kept ht
  · split
    · exact setCell_kept ht
    · exact keptRes_ite trivial (keptRes_ite trivial (keptRes_ite (landWord_kept (setCell_kept ht)) (setCell_kept ht)))

theorem doSend_kept {ci w} (ht : Kept full s t) : Kept full s (doSend t ci w) := by
  refine cellInstr_kept ht fun c => keptRes_ite ht ?_
  have hsend := sendTo_kept (ci := ci) (right := fX w == 1) (v := c.rv (fA w)) ht
  split
  next u hu =>
    rw [hu] at hsend
    exact hsend
  · trivial

theorem doRecv_kept {ci w} (ht : Kept full s t) : Kept full s (doRecv t ci w) := by
  refine cellInstr_kept ht fun c => ?_
  extract_lets i rl
  split
  · extract_lets logAt
    split
    · exact keptRes_ite trivial (setCell_kept ht)
    split
    · trivial
    split
    · trivial
    next v u hu => exact dmWriteAll_kept (modCell_kept (recvFrom_kept ht hu))
  · split
    · trivial
    next v u hu => exact modCell_kept (recvFrom_kept ht hu)

theorem readLog_kept {ci} (ht : Kept full s t) : Kept full s (readLog t ci) := by
  unfold readLog
  extract_lets c rl
  split
  · exact kept_ite (settleRange_kept ht) ht
  · exact ht

theorem bankReq_kept {ci c r dest addrs} (ht : Kept full s t) : KeptRes full s (bankReq t ci c r dest addrs) := by
  unfold bankReq
  split
  · exact trivial
  · exact issueBank_kept ht

theorem doBget_kept {ci w} (ht : Kept full s t) : Kept full s (doBget t ci w) := cellInstr_kept ht fun _ => bankReq_kept ht

theorem doBgv_kept {ci w} (ht : Kept full s t) : Kept full s (doBgv t ci w) := cellInstr_kept ht fun _ => bankReq_kept ht

theorem doBatm_kept {ci w} (ht : Kept full s t) : Kept full s (doBatm t ci w) := cellInstr_kept ht fun _ => bankReq_kept ht

/-! ### The line protocol -/

theorem doCelCtrlClr_kept {ci} (ht : Kept full s t) : Kept full s (doCelCtrlClr t ci) := modCell_kept ht

theorem admitLine_kept {x dead} (ht : Kept full s t) : Kept full s (admitLine t x dead) := by
  unfold admitLine
  extract_lets c L diff slot l
  split
  · exact ht
  · split
    · exact lineComplete_kept (setClause_kept ht)
    · exact kept_ite (setClause_kept ht) (withhold_kept (setClause_kept ht))

theorem doClauseLineAdmit_kept {d k} (ht : Kept full s t) : Kept full s (doClauseLineAdmit t d k) := by
  unfold doClauseLineAdmit
  extract_lets x c bandStart
  split
  · exact ht
  · split
    · exact ht
    · split
      · exact admitLine_kept (modClause_kept ht)
      · split
        · exact kept_ite ht (admitLine_kept ht)
        · exact admitLine_kept ht

theorem readMask_kept {x p n} (ht : Kept full s t) : Kept full s (readMask t x p n) := by
  unfold readMask
  split
  · exact kept_ite (settleBand_kept ht) ht
  · exact ht

theorem putRecord_kept {i rl f q ix ws} (ht : Kept full s t) : Kept full s (putRecord t i rl f q ix ws) := modCell_kept (dmWriteAll_kept ht)

theorem finishRecord_kept {x n f l p} (ht : Kept full s t) : KeptOpt full s (finishRecord t x n f l p) := by
  unfold finishRecord
  extract_lets row i b t1 a
  have h1 : Kept full s t1 := readMask_kept ht
  split
  · exact ht
  · split
    · exact putRecord_kept ht
    · split
      · exact trivial
      · exact kept_ite (markPoison_kept (markPoison_kept (putRecord_kept h1))) (putRecord_kept h1)

theorem startSegment_kept {ci f l p retry} (ht : Kept full s t) : Kept full s (startSegment t ci f l p retry) := modCell_kept
    (putRecord_kept ht)

theorem fixWindow_kept {x l p} (ht : Kept full s t) : Kept full s (fixWindow t x l p) := by
  unfold fixWindow
  extract_lets c t1 t2
  have h1 : Kept full s t1 := setClause_kept ht
  have h2 : Kept full s t2 := modCLine_kept h1
  split
  · exact ht
  · split
    · split
      · exact logEv_kept h2
      · exact h2
    · exact modCLine_kept ht

theorem takeCarry_kept {x n f L} (ht : Kept full s t) : KeptOpt full s (takeCarry t x n f L) := by
  unfold takeCarry
  split
  · exact ht
  · split
    · exact ht
    · extract_lets e qe rl dst
      split
      · exact trivial
      · split
        · exact ht
        · exact kept_foldl (dmWriteAll_kept (settleRange_kept ht)) fun _ _ hu => markPoison_kept hu

theorem doLineDispatch_kept {ci} (ht : Kept full s t) : Kept full s (doLineDispatch t ci) := by
  unfold doLineDispatch
  extract_lets x i c cl
  refine kept_ite ht ?_
  split
  · exact ht
  next f _ =>
  split
  next l _ =>
    split
    · exact ht
    next p _ =>
    refine kept_ite ht ?_
    have hrecord := finishRecord_kept (x := x) (n := ci.cell) (f := f) (l := l) (p := p) ht
    split
    · exact ht
    next u hu =>
      rw [hu] at hrecord
      exact startSegment_kept (modCLine_kept hrecord)
  · split
    · exact ht
    next l _ =>
    split
    · exact ht
    next p _ =>
    refine kept_ite ht ?_
    have hcarry := takeCarry_kept (x := x) (n := ci.cell) (f := f) (L := l.line) ht
    split
    · exact ht
    next u hu =>
    rw [hu] at hcarry
    have hrecord := finishRecord_kept (x := x) (n := ci.cell) (f := f) (l := l) (p := p) (t := u) hcarry
    split
    · exact hcarry
    next v hv =>
      rw [hv] at hrecord
      exact startSegment_kept (modCLine_kept (fixWindow_kept hrecord))

theorem doWindowWrite_kept {d k} (ht : Kept full s t) : Kept full s (doWindowWrite t d k) := kept_ite ht
    (writeWindow_kept (setClause_kept ht))

theorem doCellStallRelease_kept {ci cycles} (ht : Kept full s t) : Kept full s (doCellStallRelease t ci cycles) := by
  unfold doCellStallRelease
  extract_lets i c
  split
  · exact ht
  · exact kept_ite ht (setCell_kept ht)

theorem rdHalves_kept {d addrs} (ht : Kept full s t) : Kept full s (rdHalves t d addrs).2 :=
  kept_foldl_snd (r := ([], t)) ht fun _ _ hq => rdBanks_kept (d := d) hq

theorem landBank_kept {i dst bytes bad} (ht : Kept full s t) : Kept full s (landBank t i dst bytes bad) :=
  kept_foldl (dmWriteAll_kept ht) fun _ _ hu => kept_ite (markPoison_kept hu) hu

theorem atomicBank_kept {d addr replace v} (ht : Kept full s t) : Kept full s (atomicBank t d addr replace v).2 := bankWr_kept
    (rdBanks_kept ht)

theorem serveCell_kept {ci} (ht : Kept full s t) : Kept full s (serveCell t ci) := by
  unfold serveCell
  extract_lets i d c
  split
  · exact ht
  · extract_lets t1
    have h1 : Kept full s t1 := setCell_kept ht
    split
    · exact landBank_kept (rdBanks_kept (settleRange_kept h1))
    · exact landBank_kept (rdHalves_kept (kept_foldl h1 fun _ _ h1 => settleRange_kept h1))
    · exact kept_ite (kept_ite (cellTrap_kept (atomicBank_kept (settleRange_kept h1))) (atomicBank_kept (settleRange_kept h1)))
        (kept_ite (atomicBank_kept (settleRange_kept h1)) (modCell_kept (atomicBank_kept (settleRange_kept h1))))

theorem serveSys_kept {d a} (ht : Kept full s t) : Kept full s (serveSys t d a) := by
  unfold serveSys
  split
  · exact settleRange_kept ht
  · exact bankWr_kept ht
  · exact emit_kept (atomicBank_kept ht)

theorem countMeetings_kept {d as} (ht : Kept full s t) : Kept full s (countMeetings t d as) :=
  kept_foldl ht fun _ _ hu => kept_ite (conflict_kept hu) hu

theorem serveCycle_kept {d cis sys} (ht : Kept full s t) : Kept full s (serveCycle t d cis sys) :=
  kept_foldl (kept_foldl (countMeetings_kept ht) fun _ _ hu => serveCell_kept hu) fun _ _ hu => serveSys_kept hu

theorem doBankRequestComplete_kept {ci more sys} (ht : Kept full s t) : Kept full s
    (doBankRequestComplete t ci more sys) := serveCycle_kept ht

theorem doCellRestart_kept {ci} (ht : Kept full s t) : Kept full s (doCellRestart t ci) := kept_ite ht (setCell_kept ht)

theorem doCellReloadDone_kept {ci} (ht : Kept full s t) : Kept full s (doCellReloadDone t ci) := by
  unfold doCellReloadDone
  extract_lets i c x t1
  have h1 : Kept full s t1 := readCopy_kept (setCell_kept ht)
  split
  · exact kept_ite (loadData_kept h1) (loadInstr_kept h1)
  · exact ht

theorem doWatchdog_kept {ci stalled} (ht : Kept full s t) : Kept full s (doWatchdog t ci stalled) := by
  unfold doWatchdog
  extract_lets i c n
  split
  · exact kept_ite (cellTrap_kept (setCell_kept ht)) ht
  · exact ht

theorem doCellOverrun_kept {ci} (ht : Kept full s t) : Kept full s (doCellOverrun t ci) := by
  unfold doCellOverrun
  extract_lets i c
  split
  · exact ht
  · exact logEv_kept (setCell_kept ht)

end Sys2Proof.Proofs
end

section
/-! PROOFS. What a step keeps: the fabric, the loading of a Dialect, the flash store, resets, and the system, Dialect and key commands. -/

open Sys2Proof Sys2Proof.Machine Sys2Proof.Claims

namespace Sys2Proof.Proofs

variable {full : Bool} {s t : State}

/-! ### The fabric -/

theorem loseHalo_kept {h first} (ht : Kept full s t) : Kept full s (loseHalo t h first) :=
  logEv_kept (kept_foldl ht fun _ _ hu => modClause_kept hu)

theorem loseRoute_kept {r} (ht : Kept full s t) : Kept full s (loseRoute t r) :=
  kept_ite ht (kept_ite (dieFault_kept ht) (kept_foldl ht fun _ _ hu => loseHalo_kept hu))

theorem portDown_kept {d p} (ht : Kept full s t) : Kept full s (portDown t d p) := by
  unfold portDown
  split
  · exact ht
  · extract_lets t1
    have h1 : Kept full s t1 := modPort_kept (modPort_kept ht)
    exact kept_foldl h1 fun _ _ h1 => loseRoute_kept h1

theorem deliver_kept {d p c} (ht : Kept full s t) : Kept full s (deliver t d p c) := by
  unfold deliver
  split
  · exact haloPush_kept ht
  · exact setMgt_kept ht
  · exact modPort_kept ht

theorem passFlight_kept {d p f} (ht : Kept full s t) : Kept full s (passFlight t d p f) := kept_ite (deliver_kept ht) ht

theorem packetEffect_kept {a d p pkt} (ht : Kept full s t) : Kept full s (packetEffect t a d p pkt) := by
  unfold packetEffect
  split
  · exact kept_ite (passFlight_kept ht) ht
  · exact ht

theorem badGroup_kept {d p same} (ht : Kept full s t) : Kept full s (badGroup t d p same) :=
  kept_ite (setPort_kept ht) (emit_kept (setPort_kept ht))

theorem doFabricPacketReceive_kept {d p groups pkt} (ht : Kept full s t) : Kept full s (doFabricPacketReceive t d p groups pkt) := by
  unfold doFabricPacketReceive
  extract_lets n t1
  have h1 : Kept full s t1 := setPort_kept ht
  split
  · exact ht
  · split
    · exact badGroup_kept ht
    · split
      · exact packetEffect_kept (modPort_kept h1)
      · exact h1

theorem doPortRetrainDone_kept {d p ok} (ht : Kept full s t) : Kept full s (doPortRetrainDone t d p ok) :=
  kept_ite ht (kept_ite (setPort_kept ht) (kept_ite (setPort_kept ht) (portDown_kept ht)))

/-! ### Taking a configuration down and applying one -/

theorem endSelect_kept {status result} (ht : Kept full s t) : Kept full s (endSelect t status result) := by
  unfold endSelect
  split
  · exact complete_kept (kept_eraseParked ht)
  · exact ht

theorem endStartup_kept (ht : Kept full s t) : Kept full s (endStartup t) :=
  logEv_kept (kept_foldl ht fun _ _ hu => kept_ite hu (modMgt_kept hu))

theorem endLoad_kept {slot f gid} (ht : Kept false s t) : Kept false s (endLoad t slot f gid) :=
  kept_ite (kept_ite (endSelect_kept (logEv_kept ht)) (endSelect_kept (logEv_kept ht)))
    (kept_ite (endStartup_kept (logEv_kept ht)) (logEv_kept ht))

theorem failRegs_kept {slot f} (ht : Kept false s t) : Kept false s (failRegs t slot f) := ht

theorem beginLoad_kept {slot cmd} (ht : Kept false s t) : Kept false s (beginLoad t slot cmd) := ht

theorem clauseDown_kept {x} (ht : Kept full s t) : Kept full s (clauseDown t x) := kept_ite ht (powerOffClause_kept (setClause_kept ht))

theorem stopDriving_kept {d l} (ht : Kept full s t) : Kept full s (stopDriving t d l) :=
  emit_kept (modLink_kept (kept_ite (sendBurst_kept (cutStream_kept (endFrame_kept (abortEye_kept ht)))) (abortEye_kept ht)))

theorem linkToIdle_kept {d l} (ht : Kept full s t) : Kept full s (linkToIdle t d l) := kept_ite (stopDriving_kept ht) ht

theorem axisSwitch_axisOff_kept {a} (ht : Kept full s t) : Kept full s (axisSwitch.axisOff t a) := modAxis_kept ht

theorem axisSwitch_kept {new a} (ht : Kept full s t) : Kept full s (axisSwitch t new a) := by
  unfold axisSwitch
  extract_lets old
  split
  · exact axisSwitch_axisOff_kept ht
  · exact kept_ite ht (modAxis_kept ht)

theorem dmaDown_kept (ht : Kept full s t) : Kept full s (dmaDown t) := kept_foldl ht fun _ _ hu => modDma_kept hu

theorem groupsUnknown_kept (ht : Kept full s t) : Kept full s (groupsUnknown t) := kept_foldl ht fun _ _ hu => modSvc_kept hu

theorem noDialect_kept (ht : Kept false s t) : Kept false s (noDialect t) := dmaDown_kept (kept_foldl ht fun _ _ hu => clauseDown_kept hu)

theorem takeDown_kept {new} (ht : Kept false s t) : Kept false s (takeDown t new) :=
  kept_diaRegs (noDialect_kept (kept_foldl (kept_foldl ht fun _ _ hu => linkToIdle_kept hu) fun _ _ hu => axisSwitch_kept hu))

theorem mapDie_kept {d} (ht : Kept full s t) : Kept full s (mapDie t d) := by
  unfold mapDie
  exact kept_ite ht (kept_ite (logEv_kept (kept_foldl (kept_foldl ht fun _ _ hu => loadClause_kept (modClause_kept hu))
    fun _ _ hu => modClause_kept hu)) (kept_foldl (kept_foldl ht fun _ _ hu => loadClause_kept (modClause_kept hu))
    fun _ _ hu => modClause_kept hu))

theorem clearTables_kept (ht : Kept full s t) : Kept full s (clearTables t) := kept_banks (filter_wf _ _) ht

theorem placeNozzles_kept (ht : Kept full s t) : Kept full s (placeNozzles t) :=
  kept_foldl (kept_foldl ht fun _ _ hu => applyGains_kept hu) fun _ _ hu => kept_ite hu hu

theorem allotDma_kept (ht : Kept full s t) : Kept full s (allotDma t) := by
  unfold allotDma
  extract_lets es bad t1
  have h1 : Kept full s t1 := kept_foldl ht fun _ _ h1 => modDma_kept h1
  refine kept_foldl h1 fun u2 a hu2 => ?_
  split
  · exact modDma_kept hu2
  · exact hu2

theorem freshHeads_kept (ht : Kept full s t) : Kept full s (freshHeads t) := ht

theorem headFences_kept (ht : Kept full s t) : Kept full s (headFences t) := ht

theorem linkDetect_kept {d l} (ht : Kept full s t) : Kept full s (linkDetect t d l) :=
  kept_ite (kept_foldl (setLink_kept ht) fun _ _ hu => modLane_kept hu)
    (fitHeads_kept (kept_foldl (setLink_kept ht) fun _ _ hu => modLane_kept hu))

theorem placeLinks_kept (ht : Kept full s t) : Kept full s (placeLinks t) :=
  kept_foldl (kept_foldl ht fun _ _ hu => kept_ite hu (modLink_kept hu)) fun _ _ hu => linkDetect_kept hu

theorem keepPages_kept {old} (ht : Kept full s t) : Kept full s (keepPages t old) := kept_ite ht ht

theorem relose_kept (ht : Kept full s t) : Kept full s (relose t) := by
  unfold relose
  refine kept_foldl ht fun u1 a hu1 => ?_
  split
  · split
    · exact kept_foldl hu1 fun _ _ hu => loseRoute_kept hu
    · exact hu1
  · exact hu1

theorem calAll_kept {items} (ht : Kept full s t) : Kept full s (calAll t items) := addDue_kept ht

theorem applyDialect_kept {j d} (ht : Kept false s t) : Kept false s (applyDialect t j d) := by
  unfold applyDialect
  extract_lets ss t1 t2 t3 src t4 t5 t6 t7
  have h1 : Kept false s t1 := ht
  have h2 : Kept false s t2 := headFences_kept (freshHeads_kept h1)
  have h3 : Kept false s t3 := kept_foldl (placeNozzles_kept (clearTables_kept h2)) fun _ _ h1 => placeTable_kept h1
  have h4 : Kept false s t4 := h3
  have h5 : Kept false s t5 := kept_foldl h4 fun _ _ h1 => placeImages_kept h1
  have h6 : Kept false s t6 := kept_foldl h5 fun _ _ h1 => mapDie_kept h1
  have h7 : Kept false s t7 := groupsUnknown_kept (placeLinks_kept (allotDma_kept h6))
  exact calAll_kept (relose_kept (keepPages_kept h7))

theorem loadFailed_kept {j f gid} (ht : Kept false s t) : Kept false s (loadFailed t j f gid) := by
  unfold loadFailed
  extract_lets t1 t2 t3 src src' t4
  have h1 : Kept false s t1 := failRegs_kept ht
  have h2 : Kept false s t2 := kept_foldl (groupsUnknown_kept (noDialect_kept h1)) fun _ _ h1 => axisSwitch_axisOff_kept h1
  have h3 : Kept false s t3 := h2
  have h4 : Kept false s t4 := kept_ite h3 h1
  exact endLoad_kept h4

/-! ### What stands in flash -/

theorem flashWr_kept {a bs} (ht : Kept full s t) : Kept full s (flashWr t a bs) := kept_flash (wrFlashN_wf _ _ _) ht

theorem flashErase_kept {a n} (ht : Kept full s t) : Kept full s (flashErase t a n) := kept_flash (swf_filter _ _ _) ht

theorem eraseBoot_kept (ht : Kept full s t) : Kept full s (eraseBoot t) := flashErase_kept ht

theorem writeBoot_kept {patch} (ht : Kept full s t) : Kept full s (writeBoot t patch) := flashWr_kept (eraseBoot_kept ht)

theorem bootUp_kept (ht : Kept full s t) : Kept full s (bootUp t) := by
  unfold bootUp
  extract_lets b region t1 src
  have h1 : Kept full s t1 := ht
  split
  · split
    · exact h1
    · exact logEv_kept h1
  · exact h1

theorem readStore_kept (ht : Kept full s t) : Kept full s (readStore t) := by
  unfold readStore
  extract_lets src t1
  have h1 : Kept full s t1 := by
    unfold t1
    split
    · exact ht
    · exact ht
  exact kept_foldl h1 fun _ _ h1 => modMgt_kept h1

theorem writeStore_kept (ht : Kept full s t) : Kept full s (writeStore t) := by
  unfold writeStore
  extract_lets c body t1
  have h1 : Kept full s t1 := flashWr_kept (flashErase_kept ht)
  exact h1

/-! ### Resets and start-up -/

theorem memsOk_unpowered {banks tcm dram dmem flash : Mem} (hok : memsOk banks tcm dram dmem flash = true) :
    memsOk [] [] dram [] flash = true ∧ memsOk [] [] [] [] flash = true := by
  simp only [memsOk, Bool.and_eq_true] at hok ⊢
  obtain ⟨⟨⟨⟨-, -⟩, hdram⟩, -⟩, hflash⟩ := hok
  exact ⟨⟨⟨⟨⟨rfl, rfl⟩, hdram⟩, rfl⟩, hflash⟩, ⟨⟨⟨rfl, rfl⟩, rfl⟩, rfl⟩, hflash⟩

theorem porState_kept {cold} (ht : Kept false s t) : Kept false s (porState t cold) := by
  obtain ⟨hfuses, hpending, -, hmem, -⟩ := ht
  exact ⟨hfuses, hpending, fun _ => rfl, fun hs => (memsOk_unpowered (hmem hs)).2, trivial⟩

theorem assertPor_kept {cold woken} (ht : Kept false s t) : Kept false s (assertPor t cold woken) := by
  unfold assertPor
  extract_lets t1 src
  have h1 : Kept false s t1 := porState_kept ht
  exact h1

theorem enterDormant_kept (ht : Kept false s t) : Kept false s (enterDormant t) := by
  unfold enterDormant
  extract_lets latch t1 src
  have h1 : Kept false s t1 := porState_kept (flushSector_kept ht)
  exact h1

theorem wakeUp_kept (ht : Kept false s t) : Kept false s (wakeUp t) := by
  unfold wakeUp
  extract_lets t1 src
  have h1 : Kept false s t1 := assertPor_kept ht
  exact h1

theorem testsEnd_kept (ht : Kept full s t) : Kept full s (testsEnd t) := kept_foldl ht fun _ _ hu => kept_ite (changeFence_kept hu) hu

theorem warmReset_kept {cause} (ht : Kept false s t) : Kept false s (warmReset t cause) := by
  unfold warmReset
  extract_lets power woken ended
  have hwoken : Kept false s woken := kept_ite (leaveSleepLog_kept (kept_power ht)) ht
  have hended : Kept false s ended := testsEnd_kept (flushSector_kept hwoken)
  obtain ⟨hfuses, hpending, -, hmem, -⟩ := hended
  exact ⟨hfuses, hpending, fun _ => rfl, fun hs => (memsOk_unpowered (hmem hs)).1, trivial⟩

theorem recordFailed_kept {d cause} (ht : Kept full s t) : Kept full s (recordFailed t d cause) := modMgt_kept ht

theorem scanSeq_kept (ht : Kept full s t) : Kept full s (scanSeq t) := kept_ite ht ht

theorem die0Fails_kept {cause} (ht : Kept full s t) : Kept full s (die0Fails t cause) :=
  kept_ite (modMgt_kept (recordFailed_kept ht)) (kept_ite (scanSeq_kept (recordFailed_kept ht)) (recordFailed_kept ht))

theorem dieFailsFor_kept {reason p} (ht : Kept full s t) : Kept full s (dieFailsFor t reason p) :=
  kept_ite (die0Fails_kept ht) (kept_ite (changeFence_kept (recordFailed_kept ht)) (dieFault_kept (recordFailed_kept ht)))

theorem dieFails_kept {p} (ht : Kept full s t) : Kept full s (dieFails t p) := dieFailsFor_kept ht

theorem marchFailed_kept {d k} (ht : Kept full s t) : Kept full s (marchFailed t d k) := kept_ite ht (changeFence_kept (modClause_kept ht))

theorem startMarch_kept {d fs} (ht : Kept full s t) : Kept full s (startMarch t d fs) := by
  unfold startMarch
  exact kept_ite (dieFails_kept (kept_foldl (marchRun_kept ht) fun _ _ hu => marchFailed_kept hu))
    (kept_ite (dieFails_kept (kept_foldl (marchRun_kept ht) fun _ _ hu => marchFailed_kept hu))
    (kept_foldl (marchRun_kept ht) fun _ _ hu => marchFailed_kept hu))

theorem lockPlls_kept (ht : Kept full s t) : Kept full s (lockPlls t) := kept_foldl ht fun _ _ hu => modMgt_kept hu

theorem portsUp_kept (ht : Kept full s t) : Kept full s (portsUp t) := by
  unfold portsUp
  extract_lets ds
  refine kept_foldl ht fun u1 a hu1 => ?_
  refine kept_foldl hu1 fun u2 a hu2 => ?_
  split
  · exact kept_ite (modPort_kept hu2) hu2
  · exact hu2

theorem beginTraining_kept (ht : Kept full s t) : Kept full s (beginTraining t) := by
  unfold beginTraining
  exact kept_ite (kept_foldl ht fun _ _ hu => dieFails_kept hu)
    (kept_foldl (kept_foldl ht fun _ _ hu => dieFails_kept hu) fun _ _ hu => kept_foldl hu fun _ _ h2 => modDdr_kept h2)

theorem endTraining_kept {d ch} (ht : Kept full s t) : Kept full s (endTraining t d ch) := kept_ite (setDdr_kept ht) ht

theorem verifyFails_kept {r} (ht : Kept full s t) : Kept full s (verifyFails t r) := kept_foldl ht fun _ _ hu => modDdr_kept hu

theorem unfenceDie_kept {d} (ht : Kept full s t) : Kept full s (unfenceDie t d) := by
  unfold unfenceDie
  extract_lets mine t1 t2 t3 t4 t5 hs
  have h1 : Kept full s t1 := changeFence_kept ht
  have h2 : Kept full s t2 := kept_foldl h1 fun _ _ h1 => changeFence_kept (modClause_kept h1)
  have h3 : Kept full s t3 := kept_foldl h2 fun _ _ h1 => changeFence_kept (modLane_kept h1)
  have h4 : Kept full s t4 := kept_foldl h3 fun _ _ h1 => changeFence_kept (modDma_kept h1)
  have h5 : Kept full s t5 := kept_foldl h4 fun _ _ h1 => changeFence_kept (modAxis_kept h1)
  exact kept_ite ht (kept_foldl h5 fun _ _ h1 => h1)

theorem setStage_kept {n} (ht : Kept full s t) : Kept full s (setStage t n) := kept_foldl ht fun _ _ hu => modMgt_kept hu

theorem stageWork_kept {stage r} (ht : Kept false s t) : Kept false s (stageWork t stage r) := by
  unfold stageWork
  extract_lets src src' t1 t2 t3 ds t4
  have h1 : Kept false s t1 := kept_ite ht ht
  have h2 : Kept false s t2 := kept_foldl ht fun _ _ h1 => startMarch_kept h1
  have h3 : Kept false s t3 := verifyFails_kept ht
  have h4 : Kept false s t4 := kept_foldl h3 fun _ _ h1 => unfenceDie_kept (endTraining_kept (endTraining_kept h1))
  split
  · exact setStage_kept (lockPlls_kept h1)
  · exact kept_ite h2 (setStage_kept h2)
  · exact setStage_kept (bootUp_kept ht)
  · exact beginTraining_kept (setStage_kept (scanSeq_kept (readStore_kept (portsUp_kept ht))))
  · exact kept_ite h3 (beginLoad_kept (setStage_kept h4))
  · exact ht

/-! ### System, Dialect and key commands -/

theorem doNop_kept {h} (ht : Kept full s t) : Kept full s (doNop t h) := command_kept ht fun _ hu => finish_kept hu

theorem doIdentify_kept {h} (ht : Kept full s t) : Kept full s (doIdentify t h) := command_kept ht fun _ hu => finish_kept hu

theorem doPower_kept {h st} (ht : Kept full s t) : Kept full s (doPower t h st) :=
  command_kept ht fun _ hu => kept_ite (kept_ite (finish_kept hu) (complete_kept hu)) (finish_kept (kept_ite (riseReady_kept hu) hu))

theorem doReset_kept {h scope force} (ht : Kept false s t) : Kept false s (doReset t h scope force) :=
  kept_ite (complete_kept (takePopped_kept ht)) (command_kept ht fun _ hu => kept_ite (complete_kept hu) (warmReset_kept (finish_kept hu)))

theorem doDialectSelect_kept {h slot} (ht : Kept false s t) : Kept false s (doDialectSelect t h slot) :=
  command_kept ht fun _ hu => kept_ite (complete_kept hu) (beginLoad_kept (park_kept rfl (riseReady_kept hu)))

theorem doDialectInfo_kept {h slot} (ht : Kept full s t) : Kept full s (doDialectInfo t h slot) := command_kept ht
    fun _ hu => finish_kept hu

theorem authFormOk_value {r : List Byte} (hform : authFormOk r = true) : leAt r 7 1 ≤ 63 := by
  simp only [authFormOk, Bool.and_eq_true] at hform
  obtain ⟨-, hvalue⟩ := hform
  split at hvalue
  · have := hvalue
    simp only [Bool.and_eq_true, decide_eq_true_eq] at this
    omega
  · simp only [beq_iff_eq] at hvalue
    omega

theorem authFail_value {r : List Byte} (hpass : authFail? s r = none) : leAt r 7 1 ≤ 63 := by
  unfold authFail? at hpass
  split at hpass
  · exact absurd hpass (by simp)
  · next hform => exact authFormOk_value (by simpa using hform)

theorem keyOp_kept {h addr rd} (ht : Kept full s t) : Kept full s (keyOp t h addr rd) := by
  refine command_kept ht fun u hu => ?_
  split
  · exact complete_kept hu
  split
  · exact complete_kept hu
  · next hpass => exact park_kept (by simpa [valuesFit] using authFail_value hpass) hu

theorem doDamaged_kept {src slot} (ht : Kept full s t) : Kept full s (doDamaged t src slot) := kept_ite ht (complete_kept ht)

end Sys2Proof.Proofs
end

section
/-! PROOFS. What a step keeps: the band codec, timing, commits, DMA, pages, DRAM and gathers. -/

open Sys2Proof Sys2Proof.Machine Sys2Proof.Claims

namespace Sys2Proof.Proofs

variable {full : Bool} {s t : State}

/-! ### The band codec -/

theorem codecError_kept {x n cause fcode line absBand} (ht : Kept full s t) : Kept full s (codecError t x n cause fcode line absBand) := by
  unfold codecError
  extract_lets t1 pc
  have h1 : Kept full s t1 := modClause_kept ht
  split
  · exact logEv_kept h1
  · exact h1

theorem blockFailed_kept {x absBand} (ht : Kept full s t) : Kept full s (blockFailed t x absBand) :=
  kept_ite ht (withholdFailed_kept (modClause_kept ht))

theorem formatError_kept {x n fcode line absBand} (ht : Kept full s t) : Kept full s (formatError t x n fcode line absBand) :=
  kept_ite (transientClause_kept (blockFailed_kept (modClause_kept (codecError_kept ht))))
    (blockFailed_kept (modClause_kept (codecError_kept ht)))

theorem pushWord_kept {x n q ix w} (ht : Kept full s t) : Kept full s (pushWord t x n q ix w) := by
  unfold pushWord
  extract_lets i c direct
  split
  · exact ht
  · split
    · split
      · exact putRecord_kept ht
      · exact ht
    · exact setCell_kept ht

theorem readStored_kept {x n pos k} (ht : Kept full s t) : Kept full s (readStored t x n pos k) := by
  unfold readStored
  split
  · exact kept_ite ht (settleBand_kept ht)
  · exact ht

theorem readLiteral_kept {x n} (ht : Kept full s t) : Kept full s (readLiteral t x n) := by
  unfold readLiteral
  extract_lets d
  split
  · exact readStored_kept ht
  · exact ht

theorem readToken_kept {x n} (ht : Kept full s t) : Kept full s (readToken t x n) := by
  unfold readToken
  extract_lets d t1
  have h1 : Kept full s t1 := readStored_kept ht
  split
  · exact readStored_kept h1
  · exact h1

theorem emitBytes_kept {x n fuel} (ht : Kept full s t) : Kept full s (emitBytes x n fuel t) := by
  induction fuel generalizing t with
  | zero => exact ht
  | succ fuel ih =>
    unfold emitBytes
    extract_lets read c row d
    have hread : Kept full s read := readLiteral_kept ht
    split
    · extract_lets lam
      refine kept_ite (modClause_kept hread) ?_
      split
      · exact modClause_kept hread
      · exact formatError_kept hread
      split
      · exact hread
      · exact kept_ite (modClause_kept hread) (ih (modClause_kept (kept_ite (pushWord_kept hread) hread)))
    · exact hread

theorem doDecompBlockStart_kept {die k n} (ht : Kept full s t) : Kept full s (doDecompBlockStart t die k n) := by
  unfold doDecompBlockStart
  extract_lets x c row d
  split
  · exact ht
  · split
    · exact ht
    · exact kept_ite ht (kept_ite (modClause_kept ht) (formatError_kept (modClause_kept ht)))

theorem doDecompToken_kept {die k n} (ht : Kept full s t) : Kept full s (doDecompToken t die k n) := by
  unfold doDecompToken
  extract_lets x c row d
  split
  · exact ht
  · split
    · exact ht
    · extract_lets lam line d t1 rest
      have h1 : Kept full s t1 := modClause_kept ht
      split
      · exact ht
      · split
        · exact emitBytes_kept (modClause_kept h1)
        · split
          · exact emitBytes_kept (modClause_kept h1)
          · split
            · exact modClause_kept h1
            · exact formatError_kept h1
            · exact emitBytes_kept (modClause_kept h1)

theorem doDecompResume_kept {die k n stalled} (ht : Kept full s t) : Kept full s (doDecompResume t die k n stalled) := by
  unfold doDecompResume
  extract_lets x d t1 t2
  have h1 : Kept full s t1 := kept_foldl ht fun _ _ h1 => drainIn_kept h1
  have h2 : Kept full s t2 := modClause_kept h1
  split
  · exact ht
  · split
    · exact emitBytes_kept h2
    · exact h2

theorem doDecompSegmentEnd_kept {die k n} (ht : Kept full s t) : Kept full s (doDecompSegmentEnd t die k n) := by
  unfold doDecompSegmentEnd
  extract_lets x c row d t1
  have h1 : Kept full s t1 := modClause_kept ht
  split
  · exact ht
  · split
    · exact ht
    · exact kept_ite ht (kept_ite h1 (kept_ite (blockFailed_kept (codecError_kept h1))
        (kept_ite (blockFailed_kept (codecError_kept h1)) h1)))

theorem doFollowerDone_kept {die k n} (ht : Kept full s t) : Kept full s (doFollowerDone t die k n) := by
  unfold doFollowerDone
  extract_lets x c row d
  split
  · exact ht
  · exact kickFollowers_kept (setClause_kept ht)

theorem readLine_kept {x n} (ht : Kept full s t) : Kept full s (readLine t x n) := by
  unfold readLine
  extract_lets c d
  split
  · split
    · exact kept_ite ht (settleBand_kept ht)
    · exact ht
  · exact ht

theorem doClsCdcCtrlClr_kept {die k} (ht : Kept full s t) : Kept full s (doClsCdcCtrlClr t die k) := modClause_kept ht

theorem doCmpStart_kept {d} (ht : Kept full s t) : Kept full s (doCmpStart t d) := kept_ite ht (modComp_kept ht)

theorem doCmpAbort_kept {d} (ht : Kept full s t) : Kept full s (doCmpAbort t d) := kept_ite ht (cmpStops_kept ht)

theorem doCacheCompressStart_kept {d} (ht : Kept full s t) : Kept full s (doCacheCompressStart t d) := by
  unfold doCacheCompressStart
  extract_lets c
  split
  · exact ht
  · split
    · exact ht
    · split
      · exact cacheLeft_kept (dropCached_kept ht)
      · exact setComp_kept ht

theorem cacheJobEnd_kept {d b bad} (ht : Kept full s t) : Kept full s (cacheJobEnd t d b bad) := by
  unfold cacheJobEnd
  extract_lets c n t1 bytes plane icrc at_ left stream t2 r
  have h1 : Kept full s t1 := dramTouch_kept ht
  have h2 : Kept full s t2 := cmpEnd_kept (dramWr_kept h1)
  split
  · exact cacheLeft_kept (dropCached_kept (cmpStops_kept h1))
  · exact kept_ite (cacheLeft_kept (dropCached_kept (placeAt_kept (dropCached_kept (cmpEnd_kept h1)))))
      (kept_ite (cacheLeft_kept (dropCached_kept h2)) (cacheLeft_kept (dropCached_kept (placeAt_kept (dropCached_kept h2)))))

theorem doCmpJobEnd_kept {d poisoned} (ht : Kept full s t) : Kept full s (doCmpJobEnd t d poisoned) := by
  unfold doCmpJobEnd
  extract_lets c plane stream
  split
  · exact ht
  · split
    · split
      · exact kept_ite ht (cacheJobEnd_kept ht)
      · exact cmpStops_kept ht
    · exact kept_ite (cmpStops_kept ht) (kept_ite ht (kept_ite (cmpEnd_kept (cmpSpoils_kept ht)) (cmpEnd_kept (dramWr_kept ht))))

/-! ### Timebase, sync and encoders -/

theorem doTbCountLoRead_kept {die} (ht : Kept full s t) : Kept full s (doTbCountLoRead t die) :=
  kept_ite ht (kept_ite (emit_kept ht) (emit_kept (modMgt_kept ht)))

theorem doLgnRowCtrlClr_kept {row} (ht : Kept full s t) : Kept full s (doLgnRowCtrlClr t row) := modRow_kept ht

theorem doSyncFrameSend_kept (ht : Kept full s t) : Kept full s (doSyncFrameSend t) := kept_ite ht (emit_kept (advanceTo_kept ht))

theorem doSyncFrameReceive_kept {edge cells} (ht : Kept full s t) : Kept full s (doSyncFrameReceive t edge cells) := by
  unfold doSyncFrameReceive
  extract_lets t1 t2 src err agree t3 src' t'
  have h1 : Kept full s t1 := advanceTo_kept ht
  have h2 : Kept full s t2 := kept_ite (emit_kept h1) h1
  have h3 : Kept full s t3 := h2
  exact kept_ite ht (kept_ite h2 (kept_ite (kept_ite h3 (logEv_kept h3)) h3))

theorem doSyncLost_kept (ht : Kept full s t) : Kept full s (doSyncLost t) := by
  unfold doSyncLost
  extract_lets t1 src
  have h1 : Kept full s t1 := advanceTo_kept ht
  exact kept_ite ht (logEv_kept h1)

theorem predict_kept {r} (ht : Kept full s t) : Kept full s (predict t r) := by
  unfold predict
  split
  · exact ht
  · extract_lets tm w b
    split
    · exact ht
    · exact kept_ite (setRow_kept ht) (kept_ite (setRow_kept ht) ht)

theorem startJob_kept {j} (ht : Kept full s t) : Kept full s (startJob t j) := logGroups_kept (kept_foldl ht fun _ _ hu => modRow_kept hu)

theorem encError_kept {e t' a b} (ht : Kept full s t) : Kept full s (encError t e t' a b) := logEv_kept (setEnc_kept (advanceTo_kept ht))

theorem encCount_kept {e t' a b} (ht : Kept full s t) : Kept full s (encCount t e t' a b) := by
  unfold encCount
  extract_lets t1
  have h1 : Kept full s t1 := setEnc_kept (advanceTo_kept ht)
  split
  · exact kept_ite (kept_foldl (startJob_kept h1) fun _ _ h1 => predict_kept h1) h1
  · exact h1

theorem doEncoderCount_kept {e t' a b samples} (ht : Kept full s t) : Kept full s (doEncoderCount t e t' a b samples) := by
  unfold doEncoderCount
  extract_lets x candA candB stop put t1
  have h1 : Kept full s t1 := kept_ite ht (setEnc_kept ht)
  split
  · exact ht
  · split
    · exact kept_ite ht (setEnc_kept ht)
    · exact encCount_kept (kept_ite ht (setEnc_kept ht))
    · exact encCount_kept (kept_ite ht (setEnc_kept ht))
    · exact kept_ite (encError_kept h1) (kept_ite (encCount_kept (encCount_kept h1)) (encCount_kept (encCount_kept h1)))

theorem doEncoderIndex_kept {e t' samples} (ht : Kept full s t) : Kept full s (doEncoderIndex t e t' samples) := by
  unfold doEncoderIndex
  extract_lets t1 x cpr slipped t2 t3
  have h1 : Kept full s t1 := advanceTo_kept ht
  have h2 : Kept full s t2 := setEnc_kept h1
  have h3 : Kept full s t3 := kept_ite (logEv_kept h2) h2
  split
  · exact ht
  · split
    · exact kept_ite (kept_foldl (startJob_kept h3) fun _ _ h1 => predict_kept h1) h3
    · exact h3

theorem doEncoderLongGap_kept {e t'} (ht : Kept full s t) : Kept full s (doEncoderLongGap t e t') := by
  unfold doEncoderLongGap
  extract_lets x
  split
  · exact ht
  · exact kept_ite ht (setEnc_kept (advanceTo_kept ht))

theorem doTimeCountAct_kept {e} (ht : Kept full s t) : Kept full s (doTimeCountAct t e) := by
  unfold doTimeCountAct
  extract_lets x
  split
  · exact ht
  · exact kept_foldl (setEnc_kept (advanceTo_kept ht)) fun _ _ hu => predict_kept hu

/-! ### Commits and row ticks -/

theorem dropLine_kept {j r L} (ht : Kept full s t) : Kept full s (dropLine t j r L) := by
  unfold dropLine
  extract_lets t1 t2
  have h1 : Kept full s t1 := modRow_kept ht
  have h2 : Kept full s t2 := kept_foldl h1 fun _ _ h1 => flagCopy_kept h1
  split
  · exact logEv_kept h2
  · exact kept_ite (stopAt_kept (modRow_kept (logEv_kept h2))) (modRow_kept (logEv_kept h2))

theorem countSkip_kept {h a} (ht : Kept full s t) : Kept full s (countSkip t h a) := by
  unfold countSkip
  extract_lets grp t1
  have h1 : Kept full s t1 := modHead_kept ht
  split
  · exact ht
  · exact ht
  · split
    · exact h1
    · exact h1

theorem sendToken_kept {h L tl fire} (ht : Kept full s t) : Kept full s (sendToken t h L tl fire).2 := by
  unfold sendToken
  split
  · exact ht
  · extract_lets fd delay
    split
    · exact ht
    · split
      · exact pushSingle_kept ht
      · exact pushSingle_kept ht

theorem dropCommitted_kept {h L} (ht : Kept full s t) : Kept full s (dropCommitted t h L) := dropLines_kept ht

theorem commitHead_kept {r h L tl a} (ht : Kept full s t) : Kept full s (commitHead t r h L tl a) := by
  unfold commitHead
  extract_lets want late
  have htoken := sendToken_kept (h := h) (L := L) (tl := tl) (fire := want) ht
  split
  next fire u hu =>
  rw [hu] at htoken
  extract_lets a' t1 t2 codes fd touched t3
  have h1 : Kept full s t1 := countSkip_kept htoken
  have h2 : Kept full s t2 := by
    unfold t2
    generalize a' = act
    split
    · exact h1
    · exact skipCopies_kept h1
    · exact skipCopies_kept h1
  have h3 : Kept full s t3 := modHead_kept h2
  exact modHeadLine_kept (dropCommitted_kept h3)

theorem logStrict_kept {hs L} (ht : Kept full s t) : Kept full s (logStrict t hs L) := kept_foldl ht fun _ _ hu => logEv_kept hu

theorem headOutcome_kept {r h L} (ht : Kept full s t) : Kept full s (headOutcome t r h L) := by
  unfold headOutcome
  extract_lets c now t1
  have h1 : Kept full s t1 := modHead_kept ht
  split
  · exact ht
  · extract_lets t2
    have h2 : Kept full s t2 := by
      unfold t2
      split
      · exact ht
      · exact kept_ite ht (kept_ite (fenceHead_kept h1) (kept_ite (fenceHead_kept h1) (noteTransient_kept h1)))
    exact kept_ite (headFault_kept h2) h2

theorem endSkipRuns_kept {r L} (ht : Kept full s t) : Kept full s (endSkipRuns t r L) := endRuns_kept ht

theorem leadBegins_kept {j r L} (ht : Kept full s t) : Kept full s (leadBegins t j r L) := by
  unfold leadBegins
  extract_lets ow n
  split
  · exact ht
  · split
    · exact ht
    · exact kept_ite (stopAt_kept ht) ht

theorem fireLine_kept {r L tl} (ht : Kept full s t) : Kept full s (fireLine t r L tl) :=
  kept_foldl (kept_foldl (logStrict_kept ht) fun _ _ hu => commitHead_kept hu) fun _ _ hu => headOutcome_kept hu

theorem holdLine_kept {r L tl} (ht : Kept full s t) : Kept full s (holdLine t r L tl) :=
  kept_foldl ht fun _ _ hu => modHeadLine_kept (dropCommitted_kept hu)

theorem doLineCommit_kept {row t'} (ht : Kept full s t) : Kept full s (doLineCommit t row t') := by
  unfold doLineCommit
  extract_lets tk w t1 L tl drop
  have h1 : Kept full s t1 := advanceTo_kept ht
  split
  · exact ht
  · exact kept_ite ht (jobAdvance_kept (predict_kept (freeOverlays_kept
      (freeRow_kept (endSkipRuns_kept (kept_ite (holdLine_kept (dropLine_kept (leadBegins_kept (setRow_kept h1))))
      (fireLine_kept (leadBegins_kept (setRow_kept h1)))))))))

theorem deadlineLine_kept {x row L} (ht : Kept full s t) : Kept full s (deadlineLine t x row L) := by
  unfold deadlineLine
  split
  · exact ht
  · exact kept_ite ht (kept_ite (lineReady_kept ht) (lineDeadline_kept ht))

theorem deadlines_kept {row F} (ht : Kept full s t) : Kept full s (deadlines t row F) :=
  kept_foldl ht fun _ _ hu => kept_foldl hu fun _ _ h2 => kept_foldl h2 fun _ _ h3 => kept_ite (deadlineLine_kept h3) h3

theorem doRowTick_kept {row} (ht : Kept full s t) : Kept full s (doRowTick t row) := by
  unfold doRowTick
  extract_lets w
  split
  · exact ht
  · exact jobAdvance_kept (freeOverlays_kept (freeRow_kept (kept_ite (deadlines_kept (advanceTo_kept (setRow_kept ht)))
      (kept_foldl (deadlines_kept (advanceTo_kept (setRow_kept ht))) fun _ _ hu => startGather_kept hu))))

/-! ### DMA commands -/

theorem doDmaArm_kept {d c load} (ht : Kept full s t) : Kept full s (doDmaArm t d c load) :=
  kept_ite ht (kept_ite (setDma_kept ht) (kept_ite (startShadow_kept (setDma_kept ht)) (setDma_kept ht)))

theorem doDmaDoorbell_kept {d c} (ht : Kept full s t) : Kept full s (doDmaDoorbell t d c) :=
  kept_ite ht (kept_ite (setDma_kept ht) (kept_ite ht (kept_ite (setDma_kept ht) (kept_ite (setDma_kept ht) (setDma_kept ht)))))

theorem doDmaDescWrite_kept {d c v} (ht : Kept full s t) : Kept full s (doDmaDescWrite t d c v) :=
  kept_ite ht (kept_ite (setDma_kept ht) (setDma_kept ht))

theorem doDmaAbort_kept {d c} (ht : Kept full s t) : Kept full s (doDmaAbort t d c) := kept_ite ht (setDma_kept ht)

theorem doDmaCntClr_kept {d c} (ht : Kept full s t) : Kept full s (doDmaCntClr t d c) := kept_ite (modDma_kept ht) ht

theorem doDmaIrqStatWrite_kept {d v} (ht : Kept full s t) : Kept full s (doDmaIrqStatWrite t d v) :=
  kept_ite (setDmaDie_kept ht) (msix_kept (setDmaDie_kept ht))

theorem startDesc_kept {d c b} (ht : Kept full s t) : Kept full s (startDesc t d c b) := kept_ite (setDma_kept ht)
    (endBad_kept (setDma_kept ht))

theorem doDmaDescFetchComplete_kept {d c err} (ht : Kept full s t) : Kept full s (doDmaDescFetchComplete t d c err) := by
  unfold doDmaDescFetchComplete
  extract_lets q a t1 r t2
  have h1 : Kept full s t1 := dmaTouch_kept ht
  have h2 : Kept full s t2 := dmaRead_kept h1
  exact kept_ite ht (kept_ite ht (kept_ite (haltDma_kept ht) (kept_ite (haltDma_kept h1)
    (kept_ite (startDesc_kept h2) (kept_ite (setDma_kept h2) (setDma_kept h2))))))

theorem doDmaBurstStart_kept {d requests} (ht : Kept full s t) : Kept full s (doDmaBurstStart t d requests) := by
  unfold doDmaBurstStart
  extract_lets flying e
  split
  · exact ht
  · split
    · exact ht
    · exact setDmaDie_kept (setDma_kept ht)

theorem moveBurst_kept {d c n data} (ht : Kept full s t) : Kept full s (moveBurst t d c n data) := by
  unfold moveBurst
  exact kept_ite (setDma_kept (dmaWrite_kept (dmaRead_kept ht)))
    (kept_ite (setDma_kept (dmaWrite_kept (dmaRead_kept ht))) (completeOk_kept (setDma_kept (dmaWrite_kept (dmaRead_kept ht)))))

theorem doDmaBurstComplete_markSrc_kept {d a n} (ht : Kept full s t) : Kept full s (doDmaBurstComplete.markSrc t d a n) :=
  kept_foldl ht fun _ _ hu => markBad_kept hu

theorem doDmaBurstComplete_kept {d c err data} (ht : Kept full s t) : Kept full s (doDmaBurstComplete t d c err data) := by
  unfold doDmaBurstComplete
  extract_lets q src dst
  split
  · exact ht
  · extract_lets t1
    have h1 : Kept full s t1 := dmaTouch_kept ht
    exact kept_ite ht (kept_ite (endBad_kept (freeDest_kept ht))
      (kept_ite (haltDma_kept (kept_ite (doDmaBurstComplete_markSrc_kept h1) h1))
      (kept_ite (endBad_kept (freeDest_kept h1)) (moveBurst_kept h1))))

theorem doDmaReadbackReturn_kept {d c err} (ht : Kept full s t) : Kept full s (doDmaReadbackReturn t d c err) :=
  kept_ite ht (kept_ite (endBad_kept (freeDest_kept ht)) (kept_ite ht (completeOk_kept ht)))

theorem doIngressBurst_kept {d p bad} (ht : Kept full s t) : Kept full s (doIngressBurst t d p bad) := kept_ite (forwardBurst_kept ht) ht

/-! ### Page commands -/

theorem doPageDefine_kept {h id bands rows} (ht : Kept full s t) : Kept full s (doPageDefine t h id bands rows) :=
  command_kept ht fun _ hu => kept_ite (complete_kept hu) (kept_ite (complete_kept hu) (finish_kept hu))

theorem doPageDelete_kept {h id} (ht : Kept full s t) : Kept full s (doPageDelete t h id) := by
  unfold doPageDelete
  refine command_kept ht fun u1 hu1 => ?_
  extract_lets t2
  have h2 : Kept full s t2 := deleteBlocks_kept hu1
  exact kept_ite (complete_kept hu1) (finish_kept h2)

theorem doPageInfo_kept {h id} (ht : Kept full s t) : Kept full s (doPageInfo t h id) := by
  unfold doPageInfo
  refine command_kept ht fun u1 hu1 => ?_
  split
  · exact complete_kept hu1
  · exact finish_kept hu1

theorem doOverlayClose_kept {h id first count} (ht : Kept full s t) : Kept full s (doOverlayClose t h id first count) :=
  command_kept ht fun _ hu => kept_ite (complete_kept hu) (finish_kept (kept_foldl hu fun _ _ h2 => kept_ite h2 (closeSet_kept h2)))

theorem doLoadBlocks_kept {h addr len flags rd} (ht : Kept full s t) : Kept full s (doLoadBlocks t h addr len flags rd) :=
  command_kept ht fun _ hu => kept_ite (complete_kept (riseReady_kept hu)) (runLoads_kept (park_kept rfl (riseReady_kept hu)))

theorem doLoadResume_kept (ht : Kept full s t) : Kept full s (doLoadResume t) := runLoads_kept ht

theorem doBlockMove_kept {d src dst} (ht : Kept full s t) : Kept full s (doBlockMove t d src dst) := by
  unfold doBlockMove
  split
  · exact ht
  · exact kept_ite (kept_foldl (dramWr_kept (dramTouch_kept ht)) fun _ _ hu => dramMark_kept hu) ht

theorem pruneInputs_kept {x} (ht : Kept full s t) : Kept full s (pruneInputs t x) := kept_ite ht (freeOld_kept (modClause_kept ht))

theorem openBand_kept {x} (ht : Kept full s t) : Kept full s (openBand t x) := by
  unfold openBand
  split
  · extract_lets i id ovl
    split
    · exact ht
    · extract_lets bs t1 ins t2 t3
      have h1 : Kept full s t1 := kept_foldl ht fun _ _ h1 => dramTouch_kept h1
      have h2 : Kept full s t2 := modClause_kept h1
      have h3 : Kept full s t3 := kept_foldl h2 fun _ _ h1 => kept_ite (markBad_kept h1) h1
      exact kept_ite (modClause_kept ht) (kept_ite ht (kept_ite (withholdBad_kept h3) h3))
  · exact ht

theorem fetchPiece_kept {x i isMask} (ht : Kept full s t) : Kept full s (fetchPiece t x i isMask) := by
  unfold fetchPiece
  exact kept_ite (blockFailed_kept (codecError_kept (kept_ite (markBad_kept (modClause_kept (dramTouch_kept ht)))
    (modClause_kept (dramTouch_kept ht))))) (kept_ite (markBad_kept (modClause_kept (dramTouch_kept ht)))
    (modClause_kept (dramTouch_kept ht)))

theorem doBandFetch_kept {d k} (ht : Kept full s t) : Kept full s (doBandFetch t d k) := by
  unfold doBandFetch
  extract_lets x t1 c
  have h1 : Kept full s t1 := pruneInputs_kept ht
  split
  · exact ht
  · split
    · exact kept_ite (modClause_kept h1) (kept_ite h1 (fetchPiece_kept h1))
    · exact openBand_kept h1

theorem doOverlayFetchResume_kept {d k} (ht : Kept full s t) : Kept full s (doOverlayFetchResume t d k) := kept_ite (openBand_kept ht) ht

theorem doRewindGuardReached_kept {d k} (ht : Kept full s t) : Kept full s (doRewindGuardReached t d k) := by
  unfold doRewindGuardReached
  extract_lets x c
  split
  · exact ht
  · split
    · exact setClause_kept ht
    · extract_lets b t1 t2 run t3
      have h1 : Kept full s t1 := setClause_kept ht
      have h2 : Kept full s t2 := by
        unfold t2
        split
        · exact logEv_kept h1
        · exact h1
      have h3 : Kept full s t3 := kept_foldl h2 fun _ _ h1 => transientClause_kept (withhold_kept h1)
      split
      · exact kept_ite h3 (fetchPiece_kept h3)
      · exact h3

/-! ### DRAM commands -/

theorem doDdrChCtrlClr_kept {d ch} (ht : Kept full s t) : Kept full s (doDdrChCtrlClr t d ch) := kept_ite (modDdr_kept ht) ht

theorem doDdrTrnStart_kept {d ch} (ht : Kept full s t) : Kept full s (doDdrTrnStart t d ch) := kept_ite ht (setDdr_kept ht)

theorem doTrainHelperDone_kept {d ch wrote misread} (ht : Kept full s t) : Kept full s (doTrainHelperDone t d ch wrote misread) := by
  unfold doTrainHelperDone
  extract_lets i c
  split
  · exact ht
  · exact setDdr_kept ht

theorem spoilRows_kept {d ch} (ht : Kept full s t) : Kept full s (spoilRows t d ch) := modDdr_kept ht

theorem chanWr_kept {d ch off bs} (ht : Kept full s t) : Kept full s (chanWr t d ch off bs) := by
  unfold chanWr
  extract_lets whole t1
  have h1 : Kept full s t1 := blkOpen_kept ht
  exact blkClose_kept (kept_dram (wrN_wf _ _ _) h1)

theorem enterReq_kept {d r} (ht : Kept full s t) : Kept full s (enterReq t d r) := kept_foldl ht fun _ _ hu => modDdr_kept hu

theorem enterHeld_kept {d} (ht : Kept full s t) : Kept full s (enterHeld t d) := kept_foldl ht fun _ _ hu => kept_ite (enterReq_kept hu) hu

theorem doDramRequest_kept {d rs} (ht : Kept full s t) : Kept full s (doDramRequest t d rs) :=
  kept_ite ht (enterHeld_kept (kept_foldl ht fun _ _ hu => kept_ite hu hu))

theorem doDramBurstIssue_kept {d ch ready} (ht : Kept full s t) : Kept full s (doDramBurstIssue t d ch ready) := by
  unfold doDramBurstIssue
  extract_lets c
  split
  · exact ht
  · split
    · exact ht
    · exact enterHeld_kept (kept_ite (emit_kept (kept_ite (chanWr_kept (setDdr_kept ht)) (setDdr_kept ht)))
        (kept_ite (chanWr_kept (setDdr_kept ht)) (setDdr_kept ht)))

theorem settleDram_kept {d ch} (ht : Kept full s t) : Kept full s (settleDram t d ch) := by
  unfold settleDram
  split
  · exact ht
  · exact kept_ite (retireDram_kept ht) (modDdr_kept (noteTransient_kept ht))

theorem readerHit_kept {d r} (ht : Kept full s t) : Kept full s (readerHit t d r) := by
  unfold readerHit
  split
  · exact markAt_kept ht
  · exact markAt_kept ht
  · exact ht

theorem doDramReadComplete_kept {d ch flip rec_} (ht : Kept full s t) : Kept full s (doDramReadComplete t d ch flip rec_) := by
  unfold doDramReadComplete
  extract_lets c
  split
  · exact ht
  · exact kept_ite (readerHit_kept (emit_kept (blkRead_kept (setDdr_kept ht)))) (emit_kept (blkRead_kept (setDdr_kept ht)))

theorem doRefresh_kept {d ch bank expired issued} (ht : Kept full s t) : Kept full s (doRefresh t d ch bank expired issued) :=
  kept_ite ht (kept_ite (setDdr_kept ht) (setDdr_kept ht))

theorem doMr4Poll_kept {d ch dev0 dev1 hot} (ht : Kept full s t) : Kept full s (doMr4Poll t d ch dev0 dev1 hot) :=
  kept_ite ht (kept_ite (logEv_kept (setDdr_kept ht)) (setDdr_kept ht))

theorem doDriftCheck_kept {d ch want} (ht : Kept full s t) : Kept full s (doDriftCheck t d ch want) :=
  kept_ite ht (kept_ite (setDdr_kept ht) (logEv_kept (setDdr_kept ht)))

theorem repairRow_kept {d ch row} (ht : Kept full s t) : Kept full s (repairRow t d ch row) := by
  unfold repairRow
  exact kept_ite ht (kept_ite (logEv_kept ht) (spoilRows_kept
    (kept_ite (setDdr_kept ht) (kept_foldl (setDdr_kept ht) fun _ _ hu => putBlk_kept (chkDrop_kept hu)))))

theorem retrainPassed_kept {d ch} (ht : Kept full s t) : Kept full s (retrainPassed t d ch) := by
  unfold retrainPassed
  exact kept_ite (settleDram_kept ht) (kept_ite (modDdr_kept (endRetrain_kept (modDdr_kept (settleDram_kept ht))))
    (endRetrain_kept (modDdr_kept (settleDram_kept ht))))

theorem doFastRetrainDone_kept {d ch ok} (ht : Kept full s t) : Kept full s (doFastRetrainDone t d ch ok) :=
  kept_ite ht (kept_ite (retrainPassed_kept (kept_foldl (setDdr_kept ht) fun _ _ hu => repairRow_kept hu))
    (modDdr_kept (channelFault_kept ht)))

theorem doFullTrainingDone_kept {d ch ok settings} (ht : Kept full s t) : Kept full s (doFullTrainingDone t d ch ok settings) := by
  unfold doFullTrainingDone
  exact kept_ite ht (kept_ite (retrainPassed_kept (spoilRows_kept (putResult_kept (setDdr_kept ht))))
    (kept_ite (setDdr_kept ht) (kept_ite (dieFails_kept (retireDram_kept ht)) (retireDram_kept ht))))

theorem scrubDram_kept {d ch off rewritten} (ht : Kept full s t) : Kept full s (scrubDram t d ch off rewritten) :=
  modDdr_kept (kept_ite ht (putBlk_kept (chkDrop_kept ht)))

theorem scrubBlk_kept {d ch off rewritten} (ht : Kept full s t) : Kept full s (scrubBlk t d ch off rewritten) := by
  have hread : Kept full s (blkRead t d ch off 0 0) := blkRead_kept ht
  unfold scrubBlk
  extract_lets cls read addr logged
  cases cls with
  | clean => exact modDdr_kept hread
  | corrected => exact scrubDram_kept hread
  | checkBit => exact scrubDram_kept hread
  | poisoned => exact hread
  | _ => exact kept_ite (markAt_kept (logEv_kept hread)) (logEv_kept hread)

theorem dramUpset_kept {d ch u} (ht : Kept full s t) : Kept full s (dramUpset t d ch u) := setBlkFlips_kept ht

theorem doDdrScrubRead_kept {d ch upsets rewritten} (ht : Kept full s t) : Kept full s (doDdrScrubRead t d ch upsets rewritten) := by
  unfold doDdrScrubRead
  exact kept_ite ht (kept_ite (kept_foldl ht fun _ _ hu => dramUpset_kept hu)
    (kept_foldl (setDdr_kept (kept_foldl ht fun _ _ hu => dramUpset_kept hu)) fun _ _ hu => scrubBlk_kept hu))

/-! ### Gathers and fires -/

theorem gatherTurn_kept {h} (ht : Kept full s t) : Kept full s (gatherTurn t h) := by
  unfold gatherTurn
  split
  · exact setDmaDie_kept ht
  · exact ht

theorem histRead_kept {h n upset} (ht : Kept full s t) : Kept full s (histRead t h n upset) := kept_ite ht (logEv_kept (setHead_kept ht))

theorem doGatherBlock_kept {h upset} (ht : Kept full s t) : Kept full s (doGatherBlock t h upset) := by
  unfold doGatherBlock
  split
  · exact kept_ite ht (kept_ite (gatherTurn_kept ht) (feedBlock_kept
      (modHeadLine_kept (kept_foldl (histRead_kept (gatherTurn_kept ht)) fun _ _ hu => flagCopy_kept hu))))
  · exact ht

theorem readTables_kept {h p hl} (ht : Kept full s t) : Kept full s (readTables t h p hl) := by
  unfold readTables
  split
  · exact ht
  · exact kept_ite ht (kept_foldl ht fun _ _ hu => settle_kept hu)

theorem readCodes_kept {h} (ht : Kept full s t) : Kept full s (readCodes t h) := by
  unfold readCodes
  split
  · split
    · exact ht
    · refine kept_foldl (readTables_kept ht) fun u1 a hu1 => ?_
      extract_lets e
      split
      · exact hu1
      · split
        · split
          · exact kept_ite hu1 (settle_kept hu1)
          · exact hu1
        · exact hu1
  · exact ht

theorem doGatherEnd_kept {h} (ht : Kept full s t) : Kept full s (doGatherEnd t h) := by
  unfold doGatherEnd
  split
  · exact ht
  · exact kept_ite ht (freeOverlays_kept (freeRow_kept (modHeadLine_kept ht)))

theorem doFireInstant_kept {h line} (ht : Kept full s t) : Kept full s (doFireInstant t h line) := by
  unfold doFireInstant
  split
  · exact ht
  · exact jobAdvance_kept (modHead_kept (advanceTo_kept ht))

end Sys2Proof.Proofs
end

section
/-! PROOFS. What a step keeps: integrity, links, health, jobs, the load events and management. -/

open Sys2Proof Sys2Proof.Machine Sys2Proof.Claims

namespace Sys2Proof.Proofs

variable {full : Bool} {s t : State}

/-! ### Fences and tests -/

theorem rerunChecked_kept {x l p sig ok} (ht : Kept full s t) : Kept full s (rerunChecked t x l p sig ok) := by
  unfold rerunChecked
  exact kept_ite (settleFault_kept (lineReady_kept ht)) (kept_ite (withhold_kept ht)
    (kept_ite (inputFailure_kept (withhold_kept ht)) (permanentIfServing_kept (withhold_kept ht))))

theorem doSigCheckDone_kept {d k} (ht : Kept full s t) : Kept full s (doSigCheckDone t d k) := by
  unfold doSigCheckDone
  extract_lets x c
  split
  · split
    · exact ht
    · split
      · exact ht
      · extract_lets copy sig a t1 bad ok t2
        have h1 : Kept full s t1 := dramTouch_kept ht
        have h2 : Kept full s t2 := kept_ite (markBad_kept h1) h1
        exact kept_ite ht (kept_ite h2 (kept_ite (rerunChecked_kept h2) (kept_ite (lineReady_kept h2) (firstFailure_kept h2))))
  · exact ht

theorem readSigLine_kept {x} (ht : Kept full s t) : Kept full s (readSigLine t x) := by
  unfold readSigLine
  split
  · exact readSlotLine_kept ht
  · exact ht

theorem doClsIntCtrlClr_kept {d k} (ht : Kept full s t) : Kept full s (doClsIntCtrlClr t d k) := modClause_kept ht

theorem doSpareReady_kept {d k ok} (ht : Kept full s t) : Kept full s (doSpareReady t d k ok) :=
  kept_ite ht (kept_ite (setClause_kept ht) (spareFailed_kept ht))

theorem moveSlot_kept {x y L} (ht : Kept full s t) : Kept full s (moveSlot t x y L) := by
  unfold moveSlot
  extract_lets c e d keepL keepR coming b suspect e' flight c' t1
  have h1 : Kept full s t1 := setClause_kept (setClause_kept ht)
  exact h1

theorem doTakeover_kept {d k} (ht : Kept full s t) : Kept full s (doTakeover t d k) := by
  unfold doTakeover
  split
  · exact ht
  · extract_lets c
    split
    · exact kept_ite ht (topUpSpares_kept (admitLine_kept (moveSlot_kept ht)))
    · exact ht

theorem serveWaiting_kept {d} (ht : Kept full s t) : Kept full s (serveWaiting t d) := kept_foldl ht fun _ _ hu => prepareSpare_kept hu

theorem endUnfence_kept {kind die index status st} (ht : Kept full s t) : Kept full s (endUnfence t kind die index status st) := by
  unfold endUnfence
  extract_lets mine hs t1
  have h1 : Kept full s t1 := kept_filterParked ht
  refine kept_foldl h1 fun u2 a hu2 => ?_
  split
  · exact complete_kept hu2
  · exact hu2

theorem doUnfenceTestDone_kept {d k pass} (ht : Kept full s t) : Kept full s (doUnfenceTestDone t d k pass) := by
  unfold doUnfenceTestDone
  exact kept_ite ht (kept_ite (serveWaiting_kept (endUnfence_kept
    (changeFence_kept (kept_ite (modClause_kept ht) (powerOffClause_kept (modClause_kept ht))))))
    (endUnfence_kept (changeFence_kept (powerOffClause_kept (modClause_kept ht)))))

/-! ### Links and head channels -/

theorem doTynLnkCtrlClr_kept {d l} (ht : Kept full s t) : Kept full s (doTynLnkCtrlClr t d l) := modLink_kept ht

theorem doTynLnkCtrlRetrain_kept {d l} (ht : Kept full s t) : Kept full s (doTynLnkCtrlRetrain t d l) := kept_ite ht (enterTrain_kept ht)

theorem doTynLnkCtrlExit_kept {d l} (ht : Kept full s t) : Kept full s (doTynLnkCtrlExit t d l) := exitIdle_kept ht

theorem doTynEyeStart_kept {d} (ht : Kept full s t) : Kept full s (doTynEyeStart t d) := kept_ite ht (setEye_kept ht)

theorem doEyePointDone_kept {d count aborted} (ht : Kept full s t) : Kept full s (doEyePointDone t d count aborted) :=
  kept_ite ht (kept_ite (setEye_kept ht) (setEye_kept ht))

theorem doReceiverDetect_kept {d l found} (ht : Kept full s t) : Kept full s (doReceiverDetect t d l found) :=
  kept_ite ht (kept_ite (kept_foldl ht fun _ _ hu => modLane_kept hu)
    (enterTrain_kept (modLink_kept (kept_foldl ht fun _ _ hu => modLane_kept hu))))

theorem enterBitlock_kept {d l} (ht : Kept full s t) : Kept full s (enterBitlock t d l) :=
  startStream_kept (modLink_kept (kept_foldl ht fun _ _ hu => modLane_kept hu))

theorem doTrainingWord_kept {d n word rx} (ht : Kept full s t) : Kept full s (doTrainingWord t d n word rx) := by
  unfold doTrainingWord
  split
  · exact kept_ite ht (kept_ite (enterBitlock_kept (sendTraining_kept (setLane_kept ht))) (sendTraining_kept (setLane_kept ht)))
  · exact ht

theorem doBitlockDone_kept {d l} (ht : Kept full s t) : Kept full s (doBitlockDone t d l) :=
  kept_ite ht (toBlocklock_kept (kept_foldl ht fun _ _ hu => modLane_kept hu))

theorem sendEcho_kept {h} (ht : Kept full s t) : Kept full s (sendEcho t h) := by
  unfold sendEcho
  extract_lets e t1
  have h1 : Kept full s t1 := modHead_kept ht
  split
  · exact pushSingle_kept h1
  · exact h1

theorem lockLanes_kept {d l count valid} (ht : Kept full s t) : Kept full s (lockLanes t d l count valid) :=
  kept_foldl ht fun _ _ hu => kept_ite (modLane_kept hu) hu

theorem doBlocklockDone_kept {d l valid} (ht : Kept full s t) : Kept full s (doBlocklockDone t d l valid) :=
  kept_ite ht (kept_ite (lockLanes_kept ht) (kept_foldl (modLink_kept (lockLanes_kept ht)) fun _ _ hu => sendEcho_kept (modHead_kept hu)))

theorem capsFail_kept {d l cause caps} (ht : Kept full s t) : Kept full s (capsFail t d l cause caps) := logEv_kept (modLink_kept ht)

theorem doLinkStateTimeout_kept {d l lanes} (ht : Kept full s t) : Kept full s (doLinkStateTimeout t d l lanes) := by
  unfold doLinkStateTimeout
  extract_lets k bad first t1 t2
  have h1 : Kept full s t1 := kept_foldl ht fun _ _ h1 => modLane_kept h1
  have h2 : Kept full s t2 := kept_ite h1 (modLink_kept h1)
  split
  · exact retireLanes_kept h2
  · exact enterTrain_kept ht
  · exact enterTrain_kept ht
  · exact kept_ite (capsFail_kept ht) (modLink_kept ht)
  · exact ht

theorem countBadUp_kept {d l} (ht : Kept full s t) : Kept full s (countBadUp t d l) := modLink_kept ht

theorem countFrame_kept {d l f} (ht : Kept full s t) : Kept full s (countFrame t d l f) :=
  kept_ite (kept_foldl ht fun _ _ hu => countBadUp_kept hu) (countBadUp_kept (kept_foldl ht fun _ _ hu => countBadUp_kept hu))

theorem doRenegAckReceive_kept {d l f} (ht : Kept full s t) : Kept full s (doRenegAckReceive t d l f) :=
  kept_ite ht (kept_ite (toBlocklock_kept (modLink_kept (countFrame_kept ht))) (countFrame_kept ht))

theorem tryConfig_kept {d l} (ht : Kept full s t) : Kept full s (tryConfig t d l) := by
  unfold tryConfig
  extract_lets k hs turn t1 t2
  have h1 : Kept full s t1 := modLink_kept ht
  have h2 : Kept full s t2 := kept_foldl h1 fun _ _ h1 => modHead_kept h1
  split
  · exact ht
  · split
    · exact capsFail_kept h2
    · split
      · exact h2
      · exact modLink_kept (sendControl_kept h2)

theorem doCapsReceive_kept {d l f} (ht : Kept full s t) : Kept full s (doCapsReceive t d l f) := by
  unfold doCapsReceive
  extract_lets body t1 t2
  have h1 : Kept full s t1 := modLink_kept ht
  have h2 : Kept full s t2 := kept_foldl h1 fun _ _ h1 => modHead_kept h1
  split
  · exact ht
  · split
    · exact countFrame_kept ht
    · split
      · exact capsFail_kept (countFrame_kept ht)
      · split
        · exact ht
        · split
          · exact capsFail_kept ht
          · exact tryConfig_kept h2

theorem doConfigRetry_kept {d l} (ht : Kept full s t) : Kept full s (doConfigRetry t d l) := by
  unfold doConfigRetry
  extract_lets k
  split
  · exact ht
  · exact kept_ite ht (modLink_kept (sendControl_kept ht))

theorem storeLanes_kept {d l} (ht : Kept full s t) : Kept full s (storeLanes t d l) := kept_foldl ht fun _ _ hu => putResult_kept hu

theorem doConfigAckReceive_kept {d l f} (ht : Kept full s t) : Kept full s (doConfigAckReceive t d l f) := by
  unfold doConfigAckReceive
  extract_lets k
  split
  · exact ht
  · exact kept_ite ht (kept_ite (countFrame_kept ht) (kept_ite (capsFail_kept ht)
      (activateLink_kept (settleLosses_kept (kept_foldl (modLink_kept (storeLanes_kept ht)) fun _ _ hu => modHead_kept hu)))))

theorem doLineBaseAckReceive_kept {d l f} (ht : Kept full s t) : Kept full s (doLineBaseAckReceive t d l f) :=
  kept_ite ht (kept_ite (sendReady_kept (modHead_kept ht)) (countFrame_kept ht))

theorem doLineBaseTimeout_kept {h} (ht : Kept full s t) : Kept full s (doLineBaseTimeout t h) :=
  kept_ite ht (kept_ite (sendLineBase_kept ht) (modHead_kept ht))

theorem laneLost_kept {d n} (ht : Kept full s t) : Kept full s (laneLost t d n).2 := by
  unfold laneLost
  extract_lets t1
  have h1 : Kept full s t1 := modLane_kept ht
  split
  · exact h1
  · exact modLane_kept h1

theorem doLockLoss_kept {d l signs eidle} (ht : Kept full s t) : Kept full s (doLockLoss t d l signs eidle) := by
  unfold doLockLoss
  extract_lets st lost t1 r t2 t3
  have h1 : Kept full s t1 := kept_foldl ht fun _ _ h1 => modLane_kept h1
  have h2 : Kept full s t2 := sendBurst_kept (cutStream_kept (kept_foldl_snd h1 fun _ _ h1 => laneLost_kept h1))
  have h3 : Kept full s t3 := retireLanes_kept (modLink_kept h2)
  exact kept_ite ht (kept_ite h1 (kept_ite h3 (enterFast_kept h3)))

theorem doFastExitDone_kept {d l valid} (ht : Kept full s t) : Kept full s (doFastExitDone t d l valid) :=
  kept_ite ht (kept_ite (lockLanes_kept ht) (activateLink_kept (settleLosses_kept (lockLanes_kept ht))))

theorem doFastExitTimeout_kept {d l} (ht : Kept full s t) : Kept full s (doFastExitTimeout t d l) :=
  kept_ite ht (kept_ite (enterFast_kept ht) (enterTrain_kept ht))

theorem doAlignReceive_kept {d n blk skew} (ht : Kept full s t) : Kept full s (doAlignReceive t d n blk skew) := by
  unfold doAlignReceive
  split
  · exact ht
  · exact kept_ite ht (kept_ite (countBadUp_kept ht) (kept_ite ht (modLane_kept ht)))

theorem doAckReceive_kept {d l blk} (ht : Kept full s t) : Kept full s (doAckReceive t d l blk) :=
  kept_ite ht (kept_ite (countBadUp_kept ht) (kept_ite ht (kept_ite ht (modHeadLine_kept (dropFrames_kept ht)))))

theorem queueReplay_kept {d l h line seg} (ht : Kept full s t) : Kept full s (queueReplay t d l h line seg) := by
  unfold queueReplay
  split
  · exact ht
  · exact kept_ite ht (kept_ite (headFault_kept ht) (sendSeg_kept (modHeadLine_kept ht)))

theorem doNakReceive_kept {d l blk} (ht : Kept full s t) : Kept full s (doNakReceive t d l blk) :=
  kept_ite ht (kept_ite (countBadUp_kept ht) (kept_ite ht (kept_ite (modLink_kept ht) (queueReplay_kept (modLink_kept ht)))))

theorem doReplayTimeout_kept {h line seg} (ht : Kept full s t) : Kept full s (doReplayTimeout t h line seg) := by
  unfold doReplayTimeout
  split
  · exact kept_ite ht (queueReplay_kept (modLink_kept ht))
  · exact ht

theorem headState_kept {h body} (ht : Kept full s t) : Kept full s (headState t h body) := by
  unfold headState
  exact kept_ite (logEv_kept (kept_ite (modHead_kept (kept_ite ht (modHead_kept ht))) (kept_ite ht (modHead_kept ht))))
    (kept_ite (modHead_kept (kept_ite ht (modHead_kept ht))) (kept_ite ht (modHead_kept ht)))

theorem missedLine_kept {d l h line} (ht : Kept full s t) : Kept full s (missedLine t d l h line) :=
  headFault_kept (kept_foldl (modLink_kept ht) fun _ _ hu => flagCopy_kept hu)

theorem doTelemetryReceive_kept {d l f} (ht : Kept full s t) : Kept full s (doTelemetryReceive t d l f) := by
  unfold doTelemetryReceive
  extract_lets h body t1 t2 ev t3 c missed late lost t4
  have h1 : Kept full s t1 := headState_kept ht
  have h2 : Kept full s t2 := evqPush_kept h1
  have h3 : Kept full s t3 := kept_ite (missedLine_kept h2) h2
  have h4 : Kept full s t4 := kept_ite (kept_foldl h3 fun _ _ h1 => flagCopy_kept h1) h3
  exact kept_ite ht (kept_ite (countFrame_kept ht) (kept_ite ht (modHead_kept h4)))

theorem doTelemetrySilence_kept {h} (ht : Kept full s t) : Kept full s (doTelemetrySilence t h) := kept_ite (modHead_kept ht) ht

theorem doNoticeReceive_kept {d l f} (ht : Kept full s t) : Kept full s (doNoticeReceive t d l f) :=
  kept_ite ht (kept_ite (logEv_kept ht) (countFrame_kept ht))

theorem doEchoReplyReceive_kept {d l blk round} (ht : Kept full s t) : Kept full s (doEchoReplyReceive t d l blk round) :=
  kept_ite ht (kept_ite (countBadUp_kept ht) (kept_ite ht (kept_ite ht (tryConfig_kept (modLink_kept (modHead_kept ht))))))

theorem doEchoTimeout_kept {h} (ht : Kept full s t) : Kept full s (doEchoTimeout t h) := by
  unfold doEchoTimeout
  extract_lets t1
  have h1 : Kept full s t1 := modHead_kept ht
  split
  · exact ht
  · split
    · exact tryConfig_kept h1
    · exact h1

/-! ### Sensors, safety and watchdogs -/

theorem doCalRun_kept {h item} (ht : Kept full s t) : Kept full s (doCalRun t h item) :=
  command_kept ht fun _ hu => kept_ite (finish_kept (riseReady_kept hu)) (park_kept rfl (addDue_kept (riseReady_kept hu)))

theorem doCalRead_kept {h} (ht : Kept full s t) : Kept full s (doCalRead t h) := command_kept ht fun _ hu => finish_kept hu

theorem doSensors_kept {h die} (ht : Kept full s t) : Kept full s (doSensors t h die) := command_kept ht fun _ hu => finish_kept hu

theorem doEventsRead_kept {h addr ring fromSeq max} (ht : Kept full s t) : Kept full s (doEventsRead t h addr ring fromSeq max) := by
  unfold doEventsRead
  refine command_kept ht fun u1 hu1 => ?_
  extract_lets t2
  have h2 : Kept full s t2 := riseReady_kept hu1
  split
  · exact complete_kept h2
  · exact hostSend_kept h2

theorem doFenceRead_kept {h addr die} (ht : Kept full s t) : Kept full s (doFenceRead t h addr die) :=
  command_kept ht fun _ hu => hostSend_kept hu

theorem fenceClause_kept {d k} (ht : Kept full s t) : Kept full s (fenceClause t d k) := by
  unfold fenceClause
  extract_lets x
  split
  · exact kept_ite ht (changeFence_kept (modClause_kept ht))
  · exact permanentClause_kept ht
  · exact permanentClause_kept ht
  · exact ht

theorem fenceDmaHost_kept {d c} (ht : Kept full s t) : Kept full s (fenceDmaHost t d c) :=
  kept_ite (fenceHeads_kept (passDma_kept ht)) (passDma_kept ht)

theorem fenceUnit_kept {u} (ht : Kept full s t) : Kept full s (fenceUnit t u) := by
  unfold fenceUnit
  split
  · exact fenceClause_kept ht
  · split
    · exact kept_ite ht (retireLanes_kept ht)
    · exact retireLane_kept ht
  · exact kept_ite ht (fenceHeads_kept ht)
  · exact retireDram_kept ht
  · exact fenceDmaHost_kept ht
  · exact fenceAxis_kept ht
  · exact dieFault_kept ht

theorem doFence_kept {h kind die index} (ht : Kept full s t) : Kept full s (doFence t h kind die index) := by
  unfold doFence
  refine command_kept ht fun u1 hu1 => ?_
  split
  · exact complete_kept hu1
  · exact kept_ite (complete_kept hu1) (finish_kept (fenceUnit_kept hu1))

theorem freeGather_kept {h} (ht : Kept full s t) : Kept full s (freeGather t h) := by
  unfold freeGather
  split
  · exact kept_ite (changeFence_kept (modDma_kept ht)) ht
  · exact ht

theorem unfenceHead_kept {h} (ht : Kept full s t) : Kept full s (unfenceHead t h) :=
  newLineBase_kept (modHead_kept (freeGather_kept (changeFence_kept ht)))

theorem unfenceUnit_kept {u} (ht : Kept full s t) : KeptOpt full s (unfenceUnit? t u) := by
  unfold unfenceUnit?
  extract_lets reason
  split
  · exact trivial
  · split
    · exact changeFence_kept (modLane_kept ht)
    · exact keptOpt_ite (unfenceHead_kept ht) trivial
    · exact changeFence_kept (modDma_kept ht)
    · exact changeFence_kept (modAxis_kept ht)
    · exact trivial

theorem doUnfence_kept {h kind die index} (ht : Kept full s t) : Kept full s (doUnfence t h kind die index) := by
  refine command_kept ht fun u hu => ?_
  extract_lets risen no
  have hrisen : Kept full s risen := riseReady_kept hu
  have hno : Kept full s no := complete_kept hrisen
  split
  · exact hno
  refine kept_ite hno ?_
  split
  · exact kept_ite hno (kept_ite (park_kept rfl hrisen) (startTest_kept (park_kept rfl hrisen)))
  next x _ _ _ =>
    have hunit := unfenceUnit_kept (u := x) hrisen
    split
    next v hv =>
      rw [hv] at hunit
      exact finish_kept hunit
    · exact hno

theorem doFlashWrite_kept {h _addr region offset len rd} (ht : Kept full s t) : Kept full s
    (doFlashWrite t h _addr region offset len rd) := by
  unfold doFlashWrite
  refine command_kept ht fun u1 hu1 => ?_
  split
  · exact complete_kept hu1
  · split
    · exact complete_kept hu1
    · exact kept_ite (complete_kept hu1) (park_kept rfl (flashErase_kept hu1))

theorem doFlashRead_kept {h addr region offset len} (ht : Kept full s t) : Kept full s (doFlashRead t h addr region offset len) :=
  command_kept ht fun _ hu => hostSend_kept hu

theorem doImageActivate_kept {h region} (ht : Kept full s t) : Kept full s (doImageActivate t h region) := by
  unfold doImageActivate
  refine command_kept ht fun u1 hu1 => ?_
  split
  · exact complete_kept hu1
  · exact park_kept rfl (eraseBoot_kept hu1)

theorem doFlashEraseProgramDone_kept {ok} (ht : Kept full s t) : Kept full s (doFlashEraseProgramDone t ok) := by
  unfold doFlashEraseProgramDone
  split
  · exact kept_ite (finish_kept (writeBoot_kept (kept_eraseParked ht))) (complete_kept (kept_eraseParked ht))
  · split
    · exact kept_ite (finish_kept (flashWr_kept (flashErase_kept (flashWr_kept (kept_eraseParked ht)))))
        (complete_kept (kept_eraseParked ht))
    · exact ht

theorem doMarch_kept {h kind die index mode} (ht : Kept full s t) : Kept full s (doMarch t h kind die index mode) := by
  unfold doMarch
  exact command_kept ht fun _ hu => kept_ite (complete_kept hu)
    (kept_ite (complete_kept (riseReady_kept hu)) (nextMarch_kept (park_kept rfl (riseReady_kept hu))))

theorem doDdrRetrain_kept {h die channel} (ht : Kept full s t) : Kept full s (doDdrRetrain t h die channel) := by
  unfold doDdrRetrain
  exact command_kept ht fun _ hu => kept_ite (complete_kept (riseReady_kept hu))
    (kept_ite (setDdr_kept (park_kept rfl (riseReady_kept hu))) (park_kept rfl (riseReady_kept hu)))

/-! ### Job commands -/

theorem armHead_kept {h} (ht : Kept full s t) : Kept full s (armHead t h) := newLineBase_kept (startGather_kept (modHead_kept ht))

theorem openJob_kept {j} (ht : Kept full s t) : Kept full s (openJob t j) := by
  unfold openJob
  exact stopCovered_kept (kept_foldl (exitIdleFor_kept (kept_foldl (clausesIdle_kept (riseReady_kept ht)) fun _ _ hu => modRow_kept hu))
    fun _ _ hu => armHead_kept hu)

theorem doJobOpen_kept {h p} (ht : Kept full s t) : Kept full s (doJobOpen t h p) := by
  unfold doJobOpen
  exact command_kept ht fun _ hu => kept_ite (complete_kept hu)
    (kept_ite (complete_kept hu) (kept_ite (complete_kept hu)
    (kept_ite (complete_kept hu) (kept_ite (complete_kept hu) (finish_kept (openJob_kept hu))))))

theorem doJobStopAtCopy_kept {h} (ht : Kept full s t) : Kept full s (doJobStopAtCopy t h) := by
  unfold doJobStopAtCopy
  refine command_kept ht fun u1 hu1 => ?_
  split
  · exact hu1
  · exact finish_kept (kept_ite (closeJob_kept (kept_ite hu1 (stopAt_kept hu1))) (jobAdvance_kept (kept_ite hu1 (stopAt_kept hu1))))

theorem doJobStopNow_kept {h} (ht : Kept full s t) : Kept full s (doJobStopNow t h) := by
  unfold doJobStopNow
  refine command_kept ht fun u1 hu1 => ?_
  split
  · exact hu1
  · exact finish_kept (kept_ite (closeJob_kept (kept_ite hu1 (kept_ite hu1 (kept_foldl hu1 fun _ _ hu => modRow_kept hu))))
      (kept_ite hu1 (jobAdvance_kept (kept_ite hu1 (kept_ite hu1 (kept_foldl hu1 fun _ _ hu => modRow_kept hu))))))

theorem doReport_kept {h} (ht : Kept full s t) : Kept full s (doReport t h) := command_kept ht fun _ hu => serveAll_kept (park_kept rfl hu)

theorem doJobStatus_kept {h} (ht : Kept full s t) : Kept full s (doJobStatus t h) := command_kept ht fun _ hu => finish_kept hu

/-! ### The load's events -/

theorem doDialectFirstPassDone_kept {flashErr} (ht : Kept false s t) : Kept false s (doDialectFirstPassDone t flashErr) := by
  unfold doDialectFirstPassDone
  split
  · exact ht
  · extract_lets d j'
    split
    · exact ht
    · split
      · exact loadFailed_kept ht
      · exact takeDown_kept ht

theorem doDialectLoadDone_kept {flashErr} (ht : Kept false s t) : Kept false s (doDialectLoadDone t flashErr) := by
  unfold doDialectLoadDone
  split
  · exact ht
  · exact kept_ite ht (kept_ite (loadFailed_kept ht) (kept_ite (loadFailed_kept ht) (endLoad_kept (applyDialect_kept ht))))

/-! ### Management commands -/

theorem coreReads_kept {d reads} (ht : Kept full s t) : Kept full s (coreReads t d reads) :=
  kept_ite ht (kept_ite (modMgt_kept (kept_foldl ht fun _ _ hu => settle_kept hu)) (kept_foldl ht fun _ _ hu => settle_kept hu))

theorem doHeartbeatSend_kept {d reads} (ht : Kept full s t) : Kept full s (doHeartbeatSend t d reads) :=
  kept_ite (emit_kept (sendFlight_kept (coreReads_kept ht))) (coreReads_kept ht)

theorem doHeartbeatTimeout_kept {d} (ht : Kept full s t) : Kept full s (doHeartbeatTimeout t d) :=
  kept_ite ht (dieFault_kept (advanceTo_kept ht))

theorem doMgtWatchdogExpiry_kept {d} (ht : Kept full s t) : Kept full s (doMgtWatchdogExpiry t d) :=
  kept_ite ht (kept_ite (dieFault_kept (modMgt_kept ht)) (modMgt_kept ht))

theorem doMgtThermClr_kept {d} (ht : Kept full s t) : Kept full s (doMgtThermClr t d) := modMgt_kept ht

theorem tempReading_kept {d i v} (ht : Kept full s t) : Kept full s (tempReading t d i v) :=
  kept_ite (logEv_kept (setMgt_kept ht)) (setMgt_kept ht)

theorem doSensorUpdate_kept {d i v} (ht : Kept full s t) : Kept full s (doSensorUpdate t d i v) :=
  kept_ite ht (kept_ite (tempReading_kept ht) ht)

theorem doThermalWarnClear_kept {d} (ht : Kept full s t) : Kept full s (doThermalWarnClear t d) := kept_ite (setMgt_kept ht) ht

theorem tripDown_kept {d} (ht : Kept full s t) : Kept full s (tripDown t d) := by
  unfold tripDown
  exact kept_foldl (kept_foldl (kept_foldl ht fun _ _ hu => stopDriving_kept hu) fun _ _ hu => kept_ite (powerOffClause_kept hu) hu)
    fun _ _ hu => modAxis_kept (freezeAxis_kept hu)

theorem doSafetyTrip_kept {d rail i v} (ht : Kept full s t) : Kept full s (doSafetyTrip t d rail i v) := by
  unfold doSafetyTrip
  exact kept_ite ht (kept_ite (dieFault_kept (tripDown_kept (logEv_kept (modMgt_kept ht))))
    (kept_foldl (putFence_kept (dieFault_kept (tripDown_kept (logEv_kept (modMgt_kept ht))))) fun _ _ hu => modLink_kept hu))

theorem doEventLog_kept {d} (ht : Kept full s t) : Kept full s (doEventLog t d) := kept_ite (takeEvent_kept ht) ht

theorem doNotifyInterval_kept (ht : Kept full s t) : Kept full s (doNotifyInterval t) := kept_ite ht (kept_ite (msix_kept ht) ht)

theorem doTimeMark_kept (ht : Kept full s t) : Kept full s (doTimeMark t) := kept_ite (logEv_kept ht) ht

theorem gapRetrain_kept {i} (ht : Kept full s t) : Kept full s (gapRetrain t i) := kept_ite (setDdr_kept ht) ht

theorem doCalSlice_kept (ht : Kept full s t) : Kept full s (doCalSlice t) := by
  unfold doCalSlice
  extract_lets t1 src
  have h1 : Kept full s t1 := kept_foldl ht fun _ _ h1 => gapRetrain_kept h1
  split
  · exact ht
  · split
    · exact h1
    · split
      · exact h1
      · exact kept_ite (sendEcho_kept h1) h1

theorem pinLoop_kept {loop res wanted applied} (ht : Kept full s t) : Kept full s (pinLoop t loop res wanted applied) :=
  kept_ite ht (logEv_kept ht)

theorem calTrim_kept {d want} (ht : Kept full s t) : Kept full s (calTrim t d want) := pinLoop_kept (putResult_kept (setMgt_kept ht))

theorem calOffsets_kept {d payload} (ht : Kept full s t) : Kept full s (calOffsets t d payload) :=
  kept_foldl (putResult_kept ht) fun _ _ hu => pinLoop_kept hu

theorem calLanes_kept {i payload} (ht : Kept full s t) : Kept full s (calLanes t i payload) :=
  modLink_kept (kept_foldl ht fun _ _ hu => putResult_kept hu)

theorem calLatency_kept {h round} (ht : Kept full s t) : Kept full s (calLatency t h round) := pinLoop_kept
    (putResult_kept (setHead_kept ht))

theorem calDone_kept {item} (ht : Kept full s t) : Kept full s (calDone t item) := kept_ite ht (logEv_kept ht)

theorem endCalRuns_kept (ht : Kept full s t) : Kept full s (endCalRuns t) := by
  unfold endCalRuns
  extract_lets ends ps
  refine kept_foldl (kept_filterParked ht) fun u1 a hu1 => ?_
  split
  · exact finish_kept hu1
  · exact hu1

theorem calApply_kept {item res value payload} (ht : Kept full s t) : Kept full s (calApply t item res value payload) := by
  unfold calApply
  split
  · exact calTrim_kept ht
  · exact calOffsets_kept ht
  · exact calLanes_kept ht
  · exact calLatency_kept ht

theorem doCalSliceDone_kept {value payload} (ht : Kept full s t) : Kept full s (doCalSliceDone t value payload) :=
  kept_ite ht (kept_ite (addDue_kept ht) (endCalRuns_kept (calDone_kept (calApply_kept ht))))

theorem doCalStoreWrite_kept (ht : Kept full s t) : Kept full s (doCalStoreWrite t) := kept_ite (writeStore_kept ht) ht

end Sys2Proof.Proofs
end

section
/-! PROOFS. What a step keeps: axes, parameters, rings, register accesses, the PCIe function, power and the side bands. -/

open Sys2Proof Sys2Proof.Machine Sys2Proof.Claims

namespace Sys2Proof.Proofs

variable {full : Bool} {s t : State}

/-! ### Axis and service commands -/

theorem doMotAxCtrlClr_kept {axis} (ht : Kept full s t) : Kept full s (doMotAxCtrlClr t axis) := modAxis_kept ht

theorem doAxisHome_kept {h axis} (ht : Kept full s t) : Kept full s (doAxisHome t h axis) := by
  unfold doAxisHome
  extract_lets a
  refine command_kept ht fun u1 hu1 => ?_
  extract_lets t2 t3
  have h2 : Kept full s t2 := riseReady_kept hu1
  have h3 : Kept full s t3 := endAxisCmd_kept h2
  split
  · exact complete_kept h2
  · split
    · exact complete_kept h2
    · split
      · exact complete_kept h2
      · exact kept_ite (complete_kept h2) (park_kept rfl (modAxis_kept h3))

theorem doAxisMove_kept {h axis profile target} (ht : Kept full s t) : Kept full s (doAxisMove t h axis profile target) := by
  unfold doAxisMove
  extract_lets a t' p
  refine command_kept ht fun u1 hu1 => ?_
  extract_lets t2 x pump t3
  have h2 : Kept full s t2 := riseReady_kept hu1
  have h3 : Kept full s t3 := endAxisCmd_kept h2
  split
  · exact complete_kept h2
  · exact kept_ite (complete_kept h2) (kept_ite (complete_kept h2)
      (kept_ite (complete_kept h2) (kept_ite (complete_kept h2) (park_kept rfl (modAxis_kept h3)))))

theorem stopOne_kept {a} (ht : Kept full s t) : Kept full s (stopOne t a) := axisFailed_kept (modAxis_kept (stopDecel_kept ht))

theorem doAxisStopDecelerate_kept {h axis} (ht : Kept full s t) : Kept full s (doAxisStopDecelerate t h axis) :=
  command_kept ht fun _ hu => kept_ite (complete_kept hu) (finish_kept (kept_foldl hu fun _ _ h2 => stopOne_kept h2))

theorem doAxisStopHold_kept {h axis} (ht : Kept full s t) : Kept full s (doAxisStopHold t h axis) :=
  command_kept ht fun _ hu => kept_ite (complete_kept hu) (finish_kept (kept_foldl hu fun _ _ h2 => axisFailed_kept (freezeAxis_kept h2)))

theorem service_kept {h code group argOk whileJob okFrom roles steps endState} (ht : Kept full s t) :
    Kept full s (service t h code group argOk whileJob okFrom roles steps endState) := by
  unfold service
  extract_lets g
  refine command_kept ht fun u1 hu1 => ?_
  extract_lets t2 q
  have h2 : Kept full s t2 := riseReady_kept hu1
  split
  · exact complete_kept h2
  · split
    · exact complete_kept h2
    · exact kept_ite (complete_kept h2) (kept_ite (complete_kept h2)
        (runService_kept (park_kept rfl (modSvc_kept (kept_foldl h2 fun _ _ hu => endAxisCmd_kept hu)))))

theorem doCap_kept {h group _arg} (ht : Kept full s t) : Kept full s (doCap t h group _arg) := service_kept ht

theorem doUncap_kept {h group _arg} (ht : Kept full s t) : Kept full s (doUncap t h group _arg) := service_kept ht

theorem doWipe_kept {h group arg} (ht : Kept full s t) : Kept full s (doWipe t h group arg) := service_kept ht

theorem doSpit_kept {h group arg} (ht : Kept full s t) : Kept full s (doSpit t h group arg) := service_kept ht

theorem doPurge_kept {h group arg} (ht : Kept full s t) : Kept full s (doPurge t h group arg) := service_kept ht

theorem doHeadLift_kept {h group arg} (ht : Kept full s t) : Kept full s (doHeadLift t h group arg) := service_kept ht

theorem doPurgeDwellExpiry_kept {g} (ht : Kept full s t) : Kept full s (doPurgeDwellExpiry t g) := by
  unfold doPurgeDwellExpiry
  split
  · exact stepDone_kept ht
  · exact ht

theorem doSpitTick_kept {g} (ht : Kept full s t) : Kept full s (doSpitTick t g) := by
  unfold doSpitTick
  extract_lets q now k tl
  have hnow : Kept full s now := advanceTo_kept ht
  split
  · refine kept_ite (endService_kept (kept_foldl hnow fun _ _ hu => modHead_kept hu)) ?_
    extract_lets committed next
    have hcommitted : Kept full s committed := kept_foldl hnow fun _ _ hu => modHead_kept (dropCommitted_kept (sendToken_kept hu))
    exact kept_ite (stepDone_kept (modSvc_kept hcommitted)) (spitLine_kept (modSvc_kept hcommitted))
  · exact ht

theorem homeFound_kept {a r} (ht : Kept full s t) : Kept full s (homeFound t a r) := stopDecel_kept (modAxis_kept ht)

theorem homeTick_kept {a r} (ht : Kept full s t) : Kept full s (homeTick t a r) := by
  unfold homeTick
  extract_lets x
  split
  · exact kept_ite (stopDecel_kept (modAxis_kept ht)) (kept_ite (stopDecel_kept ht) ht)
  · split
    · exact kept_ite (stopDecel_kept ht) ht
    · exact ht
  · exact kept_ite (homeFound_kept ht) ht
  · exact ht

theorem doProfileTick_kept {a} (ht : Kept full s t) : Kept full s (doProfileTick t a) := by
  unfold doProfileTick
  split
  · exact ht
  · exact kept_ite (homeTick_kept ht) (kept_ite (axisArrived_kept (setAxis_kept (homeTick_kept ht))) (setAxis_kept (homeTick_kept ht)))

theorem doAxisEncoderCount_kept {a la lb samples} (ht : Kept full s t) : Kept full s (doAxisEncoderCount t a la lb samples) :=
  kept_ite ht (setAxis_kept ht)

theorem doHoldDelayExpiry_kept {a} (ht : Kept full s t) : Kept full s (doHoldDelayExpiry t a) := by
  unfold doHoldDelayExpiry
  extract_lets x
  split
  · exact ht
  · exact kept_ite (setAxis_kept (advanceTo_kept ht)) ht

theorem limitStop_kept {a plus} (ht : Kept full s t) : Kept full s (limitStop t a plus) :=
  axisFailed_kept (logEv_kept (modAxis_kept (stopDecel_kept ht)))

theorem limitActive_kept {a plus} (ht : Kept full s t) : Kept full s (limitActive t a plus) := by
  unfold limitActive
  split
  · exact ht
  · extract_lets x side
    split
    · exact ht
    · split
      · exact kept_ite (stopDecel_kept ht) (kept_ite (limitStop_kept ht) ht)
      · exact axisFailed_kept (stopDecel_kept ht)
      · exact axisFailed_kept (stopDecel_kept ht)
      · exact kept_ite (limitStop_kept ht) ht

theorem homeLevel_kept {a active} (ht : Kept full s t) : Kept full s (homeLevel t a active) := by
  unfold homeLevel
  split
  · exact ht
  · split
    · exact kept_ite (stopDecel_kept (modAxis_kept ht)) ht
    · exact modAxis_kept ht
    · exact kept_ite (homeFound_kept ht) ht
    · exact kept_ite (modAxis_kept ht) ht
    · exact ht

theorem doSwitchInput_kept {a sw level stable} (ht : Kept full s t) : Kept full s (doSwitchInput t a sw level stable) := by
  unfold doSwitchInput
  extract_lets x low active t1 t2
  have h1 : Kept full s t1 := setAxis_kept ht
  have h2 : Kept full s t2 := setAxis_kept ht
  split
  · split
    · exact ht
    · split
      · exact kept_ite ht (homeLevel_kept (setAxis_kept ht))
      · exact kept_ite (limitActive_kept (setAxis_kept ht)) (setAxis_kept ht)
      · exact kept_ite (limitActive_kept (setAxis_kept ht)) (setAxis_kept ht)
  · split
    · exact ht
    · split
      · exact kept_ite ht (homeLevel_kept (setAxis_kept ht))
      · exact kept_ite (limitActive_kept (setAxis_kept ht)) (setAxis_kept ht)
      · exact kept_ite (limitActive_kept (setAxis_kept ht)) (setAxis_kept ht)

theorem doSampledTransition_kept {a sw} (ht : Kept full s t) : Kept full s (doSampledTransition t a sw) := by
  unfold doSampledTransition
  split
  · exact ht
  · exact kept_ite (fenceAxis_kept (freezeAxis_kept (setAxis_kept ht))) (setAxis_kept ht)

theorem doStall_kept {a} (ht : Kept full s t) : Kept full s (doStall t a) := by
  unfold doStall
  split
  · exact ht
  · exact kept_ite ht (kept_ite (setAxis_kept ht) (kept_ite (fenceAxis_kept (setAxis_kept ht))
      (kept_ite (axisFailed_kept (axisFault_kept (setAxis_kept ht))) (axisFault_kept (setAxis_kept ht)))))

theorem doStallRepeat_kept {a} (ht : Kept full s t) : Kept full s (doStallRepeat t a) := by
  unfold doStallRepeat
  extract_lets x
  split
  · exact ht
  · split
    · exact setAxis_kept ht
    · exact setAxis_kept ht

/-! ### Parameter commands -/

theorem markWindows_kept {slots} (ht : Kept full s t) : Kept full s (markWindows t slots) := ht

theorem setDisabled_kept {ns v} (ht : Kept full s t) : Kept full s (setDisabled t ns v) := ht

theorem holdRec_kept {p} (ht : Kept false s t) : Kept false s (holdRec t p) := kept_ite ht ht

theorem applyGainRec_kept {p} (ht : Kept false s t) : Kept false s (applyGainRec t p) := markWindows_kept
    (applyGains_kept (holdRec_kept ht))

theorem applyNozzles_kept {p} (ht : Kept false s t) : Kept false s (applyNozzles t p) :=
  markWindows_kept (setDisabled_kept (setDisabled_kept (holdRec_kept ht)))

theorem applyRec_kept {p} (ht : Kept false s t) : Kept false s (applyRec t p) := by
  unfold applyRec
  split
  · exact placeTable_kept (holdRec_kept ht)
  · exact placeTable_kept (holdRec_kept ht)
  · exact placeTable_kept (holdRec_kept ht)
  · exact applyGainRec_kept ht
  · exact applyNozzles_kept ht
  · exact linkDetect_kept (holdRec_kept ht)
  · exact kept_ite ht (modAxis_kept (holdRec_kept ht))
  · exact holdRec_kept ht

theorem doParamWrite_kept {h addr len rd} (ht : Kept false s t) : Kept false s (doParamWrite t h addr len rd) := by
  unfold doParamWrite
  refine command_kept ht fun u1 hu1 => ?_
  extract_lets bad
  split
  · exact complete_kept hu1
  · extract_lets r
    split
    · exact complete_kept hu1
    · split
      · exact complete_kept hu1
      · split
        · exact complete_kept hu1
        · split
          · exact complete_kept hu1
          · split
            · exact complete_kept hu1
            · exact finish_kept (kept_foldl hu1 fun _ _ hu => applyRec_kept hu)

theorem doParamRead_kept {h addr typ target max} (ht : Kept full s t) : Kept full s (doParamRead t h addr typ target max) := by
  refine command_kept ht fun u hu => ?_
  extract_lets r
  generalize r = p
  split
  · exact complete_kept hu
  · exact kept_ite (complete_kept hu) (hostSend_kept hu)

theorem doNozzleDisable_kept {h first count value} (ht : Kept full s t) : Kept full s (doNozzleDisable t h first count value) :=
  command_kept ht fun _ hu => kept_ite (complete_kept hu) (finish_kept (markWindows_kept (setDisabled_kept hu)))

theorem doNozzleRead_kept {h addr first count} (ht : Kept full s t) : Kept full s (doNozzleRead t h addr first count) :=
  command_kept ht fun _ hu => hostSend_kept hu

theorem doDdrTune_kept {h die channel reg value} (ht : Kept full s t) : Kept full s (doDdrTune t h die channel reg value) :=
  command_kept ht fun _ hu => finish_kept (kept_foldl hu fun _ _ h2 => modDdr_kept h2)

/-! ### Rings and mailboxes -/

theorem doSqTail_kept {c v} (ht : Kept full s t) : Kept full s (doSqTail t c v) := kept_ite ht (kept_ite (setSq_kept ht) (setSq_kept ht))

theorem doCqHead_kept {c v} (ht : Kept full s t) : Kept full s (doCqHead t c v) :=
  kept_ite ht (kept_ite (setCq_kept ht) (kept_ite (setCq_kept ht) (signalCq_kept (setCq_kept ht))))

theorem doSqEnable_kept {c} (ht : Kept full s t) : Kept full s (doSqEnable t c) := kept_ite ht (modSq_kept ht)

theorem doSqDisable_kept {c} (ht : Kept full s t) : Kept full s (doSqDisable t c) := by
  unfold doSqDisable
  extract_lets t1 gone
  have h1 : Kept full s t1 := modSq_kept (dropFetch_kept ht)
  split
  · exact ht
  · refine kept_foldl (kept_filterParked h1) fun u2 a hu2 => ?_
    split
    · exact complete_kept hu2
    · exact hu2

theorem doCqEnable_kept {c} (ht : Kept full s t) : Kept full s (doCqEnable t c) := kept_ite ht (flushCq_kept (modCq_kept ht))

theorem doCqDisable_kept {c} (ht : Kept full s t) : Kept full s (doCqDisable t c) := kept_ite ht (modCq_kept ht)

theorem doSqFetch_kept {c} (ht : Kept full s t) : Kept full s (doSqFetch t c) := kept_ite ht (emit_kept (modCq_kept (setSq_kept ht)))

theorem doSqFetchComplete_kept {c r} (ht : Kept full s t) : Kept full s (doSqFetchComplete t c r) := by
  unfold doSqFetchComplete
  extract_lets q n t1
  have h1 : Kept full s t1 := setSq_kept ht
  split
  · exact ht
  · split
    · exact h1
    · exact modSq_kept (dropFetch_kept ht)

theorem doCqCoalesceTimer_kept {c} (ht : Kept full s t) : Kept full s (doCqCoalesceTimer t c) := kept_ite ht (signalCq_kept ht)

theorem doMbGo_kept (ht : Kept full s t) : Kept full s (doMbGo t) := kept_ite ht ht

theorem doMbAck_kept (ht : Kept full s t) : Kept full s (doMbAck t) := ht

/-! ### Register accesses -/

theorem ifBit_kept {v i f} (ht : Kept full s t) (hf : ∀ u, Kept full s u → Kept full s (f u)) : Kept full s (ifBit v i f t) :=
  kept_ite (hf t ht) ht

theorem writeSq_kept {c off v} (ht : Kept full s t) : Kept full s (writeSq t c off v) := by
  unfold writeSq
  extract_lets q t1
  have h1 : Kept full s t1 := setSq_kept ht
  split
  · exact kept_ite ht (setSq_kept ht)
  · exact kept_ite ht (setSq_kept ht)
  · exact kept_ite (doSqEnable_kept h1) (doSqDisable_kept h1)
  · exact doSqTail_kept ht
  · exact ht

theorem writeCq_kept {c off v} (ht : Kept full s t) : Kept full s (writeCq t c off v) := by
  unfold writeCq
  extract_lets q e t1
  have h1 : Kept full s t1 := setCq_kept ht
  split
  · exact kept_ite ht (setCq_kept ht)
  · exact kept_ite ht (setCq_kept ht)
  · exact kept_ite (doCqEnable_kept h1) (doCqDisable_kept h1)
  · exact doCqHead_kept ht
  · exact ht

theorem writeMbEntry_kept {i v} (ht : Kept full s t) : Kept full s (writeMbEntry t i v) := kept_ite ht ht

theorem writePkg_kept {off v} (ht : Kept full s t) : Kept full s (writePkg t off v) := by
  unfold writePkg
  exact kept_ite (kept_ite ht ht) (kept_ite (kept_ite (writeSq_kept ht) (writeCq_kept ht))
    (kept_ite (writeMbEntry_kept ht) (kept_ite (ifBit_kept (ifBit_kept ht fun _ hu => doMbGo_kept hu) fun _ hu => doMbAck_kept hu)
    (kept_ite (ifBit_kept ht fun _ => id) ht))))

theorem writePwr_kept {d off v} (ht : Kept full s t) : Kept full s (writePwr t d off v) := kept_ite ht ht

theorem writeTb_kept {d off v} (ht : Kept full s t) : Kept full s (writeTb t d off v) := by
  unfold writeTb
  extract_lets y
  split
  · exact ht
  · split
    · exact kept_ite ht ht
    · exact ht
    · exact ht
    · exact ht

theorem writeLgn_kept {off v} (ht : Kept full s t) : Kept full s (writeLgn t off v) :=
  kept_ite (kept_ite (modEnc_kept ht) ht) (kept_ite (ifBit_kept ht fun _ hu => doLgnRowCtrlClr_kept hu) ht)

theorem writeTyn_kept {d off v} (ht : Kept full s t) : Kept full s (writeTyn t d off v) := by
  unfold writeTyn
  extract_lets e l
  split
  · exact kept_ite (ifBit_kept (ifBit_kept (ifBit_kept ht fun _ hu => doTynLnkCtrlClr_kept hu) fun _ hu => doTynLnkCtrlRetrain_kept hu)
      fun _ hu => doTynLnkCtrlExit_kept hu) ht
  · exact kept_ite (ifBit_kept (setEye_kept ht) fun _ hu => doTynEyeStart_kept hu) (kept_ite (ifBit_kept ht fun _ hu => setEye_kept hu) ht)

theorem writeShadow_kept {d c f} (ht : Kept full s t) : Kept full s (writeShadow t d c f) := modDma_kept ht

theorem writeDmaCh_kept {d c off v} (ht : Kept full s t) : Kept full s (writeDmaCh t d c off v) := by
  unfold writeDmaCh
  extract_lets q
  split
  · exact ht
  · split
    · exact setDma_kept ht
    · exact ifBit_kept ht fun _ hu => setDma_kept hu
    · exact writeShadow_kept ht
    · exact writeShadow_kept ht
    · exact writeShadow_kept ht
    · exact writeShadow_kept ht
    · exact doDmaDescWrite_kept ht
    · exact doDmaDescWrite_kept ht
    · exact writeShadow_kept ht
    · exact ifBit_kept (writeShadow_kept ht) fun _ hu => doDmaArm_kept hu
    · exact ifBit_kept ht fun _ hu => doDmaDoorbell_kept hu
    · exact ifBit_kept (ifBit_kept ht fun _ hu => doDmaCntClr_kept hu) fun _ hu => doDmaAbort_kept hu
    · exact ht

theorem writeDma_kept {d off v} (ht : Kept full s t) : Kept full s (writeDma t d off v) :=
  kept_ite (writeDmaCh_kept ht) (kept_ite (doDmaIrqStatWrite_kept ht) (kept_ite (setDmaDie_kept ht) ht))

theorem writeDdr_kept {d off v} (ht : Kept full s t) : Kept full s (writeDdr t d off v) := by
  unfold writeDdr
  extract_lets ch i tune
  have htune : ∀ reg, Kept full s (tune reg) := fun reg => by
    unfold tune
    split
    · exact ht
    split
    · exact modDdr_kept ht
    · exact ht
  split
  · exact ht
  split
  · exact modDdr_kept ht
  · exact ifBit_kept ht fun _ hu => doDdrChCtrlClr_kept hu
  · exact htune 0
  · exact htune 1
  · exact htune 2
  · exact kept_ite ht (ifBit_kept (modDdr_kept ht) fun _ hu => doDdrTrnStart_kept hu)
  · exact ht

theorem writeBnk_kept {d off v} (ht : Kept full s t) : Kept full s (writeBnk t d off v) :=
  kept_ite (ifBit_kept ht fun _ hu => doBnkCtrlClr_kept hu) (kept_ite (modMgt_kept ht) ht)

theorem writeEvt_kept {d off v} (ht : Kept full s t) : Kept full s (writeEvt t d off v) := by
  unfold writeEvt
  extract_lets q
  split
  · exact ht
  · split
    · exact ifBit_kept ht fun _ hu => setEvq_kept hu
    · exact ifBit_kept ht fun _ hu => doEvtQCtrlClr_kept hu
    · exact ht

theorem writeMot_kept {d off v} (ht : Kept full s t) : Kept full s (writeMot t d off v) := by
  unfold writeMot
  extract_lets a
  split
  · exact ht
  · split
    · exact ifBit_kept ht fun _ hu => modAxis_kept hu
    · exact ifBit_kept ht fun _ hu => doMotAxCtrlClr_kept hu
    · exact ht

theorem writeCmp_kept {d off v} (ht : Kept full s t) : Kept full s (writeCmp t d off v) := by
  unfold writeCmp
  extract_lets c set t1 t2
  have h1 : Kept full s t1 := kept_ite ht (modComp_kept ht)
  have h2 : Kept full s t2 := ifBit_kept h1 fun _ h1 => doCmpStart_kept h1
  split
  · exact kept_ite (doCmpAbort_kept h2) h2
  · exact kept_ite ht (modComp_kept ht)
  · exact kept_ite ht (modComp_kept ht)
  · exact kept_ite ht (modComp_kept ht)
  · exact ifBit_kept ht fun _ h1 => modComp_kept h1
  · exact ht

theorem writeArr_kept {d off v} (ht : Kept full s t) : Kept full s (writeArr t d off v) := by
  unfold writeArr
  extract_lets t1
  have h1 : Kept full s t1 := modMarch_kept ht
  split
  · exact modScrub_kept ht
  · exact kept_ite ht (ifBit_kept h1 fun _ h1 => doMgtMtCtrlStart_kept h1)
  · exact ht

theorem writeTherm_kept {d v} (ht : Kept full s t) : Kept full s (writeTherm t d v) :=
  ifBit_kept (kept_ite (modMgt_kept ht) ht) fun _ hu => doMgtThermClr_kept hu

theorem writeMgt_kept {d off v} (ht : Kept full s t) : Kept full s (writeMgt t d off v) :=
  kept_ite (writeCmp_kept ht) (kept_ite (writeArr_kept ht) (kept_ite (writeTherm_kept ht) (kept_ite ht ht)))

theorem writeBound_kept {v} (ht : Kept full s t) : Kept full s (writeBound t v) := kept_ite ht ht

theorem writeCal_kept {d off v} (ht : Kept full s t) : Kept full s (writeCal t d off v) := by
  unfold writeCal
  extract_lets src
  split
  · exact kept_ite (modMgt_kept ht) ht
  · split
    · exact ht
    · split
      · exact ht
      · exact writeBound_kept ht
      · exact ht

theorem writeCls_kept {d k off v} (ht : Kept full s t) : Kept full s (writeCls t d k off v) := by
  unfold writeCls
  split
  · exact ifBit_kept ht fun _ hu => doCelCtrlClr_kept hu
  · split
    · exact ifBit_kept ht fun _ hu => doClsCdcCtrlClr_kept hu
    · exact ifBit_kept ht fun _ hu => doClsIntCtrlClr_kept hu
    · exact ht

theorem writeReg_kept {d off v} (ht : Kept full s t) : Kept full s (writeReg t d off v) := by
  unfold writeReg
  refine kept_ite ht <| kept_ite (kept_ite (writePkg_kept ht) ht) <| kept_ite ht <| kept_ite (writePwr_kept ht) <|
    kept_ite (writeTb_kept ht) <| kept_ite ht <| kept_ite (kept_ite (writeLgn_kept ht) ht) <| kept_ite ht <|
    kept_ite (writeTyn_kept ht) <| kept_ite ht <| kept_ite (writeDma_kept ht) <| kept_ite (writeDdr_kept ht) <|
    kept_ite (writeBnk_kept ht) <| kept_ite (writeEvt_kept ht) <| kept_ite (writeMot_kept ht) <| kept_ite (writeMgt_kept ht) <|
    kept_ite (writeCal_kept ht) <| kept_ite (writeCls_kept ht) ht

/-! ### The PCIe function -/

theorem answer_kept {bytes ep} (ht : Kept full s t) : Kept full s (answer t bytes ep) := emit_kept ht

theorem hostAccess_kept {read n body} (ht : Kept full s t) (hbody : ∀ u, Kept full s u → Kept full s (body u)) :
    Kept full s (hostAccess t read n body) :=
  kept_ite ht (kept_ite (kept_ite (emit_kept ht) ht) (kept_ite (kept_ite (answer_kept ht) ht) (hbody t ht)))

theorem configWord_kept {reg} (ht : Kept full s t) : Kept full s (configWord t reg).2 := by
  unfold configWord
  extract_lets p f
  split
  · exact ht
  · exact ht
  · exact ht
  · exact ht
  · exact ht
  · exact ht
  · exact ht
  · exact ht
  · exact ht
  · exact ht
  · exact ht
  · exact ht
  · exact ht
  · exact ht
  · exact drawFree_kept ht

theorem writeConfig_kept {reg v be} (ht : Kept full s t) : Kept full s (writeConfig t reg v be) := by
  unfold writeConfig
  extract_lets p put
  split
  · exact ht
  · exact ht
  · exact ht
  · exact ht
  · exact ht
  · exact ht
  · exact ht
  · exact ht
  · exact ht
  · exact ht

theorem sendPending_kept (ht : Kept full s t) : Kept full s (sendPending t) := kept_foldl ht fun _ _ hu => msix_kept hu

theorem writeTable_kept {off v} (ht : Kept full s t) : Kept full s (writeTable t off v) := kept_ite ht (sendPending_kept ht)

theorem configAccess_kept {r body} (ht : Kept full s t) (hbody : ∀ u, Kept full s u → Kept full s (body u)) :
    Kept full s (configAccess t r body) := by
  unfold configAccess
  split
  · exact ht
  · exact kept_ite (emit_kept ht) (hbody _ ht)

theorem doConfigRequest_kept {r} (ht : Kept full s t) : Kept full s (doConfigRequest t r) := by
  unfold doConfigRequest
  split
  · exact configAccess_kept ht fun _ hu => emit_kept (configWord_kept hu)
  · exact configAccess_kept ht fun _ hu => writeConfig_kept hu
  · exact configAccess_kept ht fun _ hu => sendPending_kept hu
  · exact hostAccess_kept ht fun _ hu => answer_kept hu
  · exact hostAccess_kept ht fun _ hu => writeTable_kept hu

theorem doD3hotEntry_kept (ht : Kept full s t) : Kept full s (doD3hotEntry t) := kept_ite ht ht

theorem doD0Return_kept (ht : Kept full s t) : Kept full s (doD0Return t) :=
  kept_ite ht (kept_foldl (kept_foldl ht fun _ _ hu => msix_kept hu) fun _ _ hu => flushCq_kept hu)

theorem doPcieLinkDown_kept (ht : Kept full s t) : Kept full s (doPcieLinkDown t) := ht

theorem windowAccess_kept {d a n wr} (ht : Kept full s t) : Kept full s (windowAccess t d a n wr) := by
  unfold windowAccess
  extract_lets beyond src t1
  have h1 : Kept full s t1 := dramTouch_kept ht
  split
  · exact kept_ite (emit_kept ht) (answer_kept h1)
  · exact kept_ite ht (dramWr_kept ht)

theorem doBar2Access_kept {off len wr} (ht : Kept full s t) : Kept full s (doBar2Access t off len wr) :=
  kept_ite ht (hostAccess_kept ht fun _ hu => kept_ite (kept_ite (answer_kept hu) hu) (windowAccess_kept hu))

theorem bankAccess_kept {d off n wr} (ht : Kept full s t) : Kept full s (bankAccess t d off n wr) := by
  unfold bankAccess
  extract_lets a shape f t1 r
  have h1 : Kept full s t1 := settleRange_kept ht
  split
  · exact kept_ite (answer_kept (drawBytes_kept ht)) (answer_kept (rdBanks_kept h1))
  · exact kept_ite ht (bankWr_kept ht)

theorem doDieBankApertureAccess_kept {d off len wr} (ht : Kept full s t) : Kept full s (doDieBankApertureAccess t d off len wr) :=
  kept_ite ht (hostAccess_kept ht fun _ hu => kept_ite (kept_ite (answer_kept hu) hu)
    (kept_ite (kept_ite (answer_kept hu) hu) (bankAccess_kept hu)))

theorem regRead_kept {d off} (ht : Kept full s t) : Kept full s (regRead t d off) := kept_ite (answer_kept (modMgt_kept ht))
    (answer_kept ht)

theorem doBar0RemoteAccess_kept {d off wr} (ht : Kept full s t) : Kept full s (doBar0RemoteAccess t d off wr) := by
  unfold doBar0RemoteAccess
  split
  · exact ht
  · refine hostAccess_kept ht fun u1 hu1 => ?_
    split
    · exact kept_ite (answer_kept hu1) hu1
    · split
      · exact kept_ite (answer_kept hu1) hu1
      · split
        · exact bankAccess_kept hu1
        · split
          · exact regRead_kept hu1
          · exact writeReg_kept hu1

theorem doRegisterWrite_kept {d off v be} (ht : Kept full s t) : Kept full s (doRegisterWrite t d off v be) :=
  kept_ite ht (hostReg_kept ht fun _ hu => writeReg_kept hu)

/-! ### Power transitions -/

theorem doPerstAssert_kept (ht : Kept false s t) : Kept false s (doPerstAssert t) := kept_ite ht
    (kept_ite ht (kept_ite (warmReset_kept ht) ht))

theorem doPerstDeassert_kept (ht : Kept full s t) : Kept full s (doPerstDeassert t) := ht

theorem doFlr_kept (ht : Kept false s t) : Kept false s (doFlr t) := kept_ite ht (warmReset_kept ht)

theorem doColdPor_kept (ht : Kept false s t) : Kept false s (doColdPor t) := assertPor_kept ht

theorem doVaonUndervoltage_kept (ht : Kept false s t) : Kept false s (doVaonUndervoltage t) := by
  unfold doVaonUndervoltage
  extract_lets t1 src
  have h1 : Kept false s t1 := assertPor_kept ht
  exact h1

theorem doRailUndervoltage_kept (ht : Kept false s t) : Kept false s (doRailUndervoltage t) := kept_ite ht (assertPor_kept ht)

theorem doMainPorRelease_kept {dialectPins smbPins} (ht : Kept false s t) : Kept false s (doMainPorRelease t dialectPins smbPins) := by
  unfold doMainPorRelease
  extract_lets p t1 src src'
  have h1 : Kept false s t1 := porState_kept ht
  exact kept_ite ht h1

theorem doWake_kept (ht : Kept false s t) : Kept false s (doWake t) := kept_ite ht (kept_ite (wakeUp_kept ht) ht)

theorem doPwrenHoldExpiry_kept (ht : Kept false s t) : Kept false s (doPwrenHoldExpiry t) := kept_ite ht (kept_ite (wakeUp_kept ht) ht)

theorem doRestDescent_kept (ht : Kept full s t) : Kept full s (doRestDescent t) := by
  unfold doRestDescent
  split
  · exact ht
  · split
    · exact ht
    · exact ht

theorem doPowerTransitionDone_kept (ht : Kept false s t) : Kept false s (doPowerTransitionDone t) := by
  unfold doPowerTransitionDone
  refine kept_ite (enterDormant_kept ht) (kept_ite ht ?_)
  generalize t.power.target = target
  cases target with
  | idle => exact kept_foldl (kept_power ht) fun _ _ hu => linkToIdle_kept hu
  | sleep => exact clausesOff_kept (kept_power ht)
  | _ => exact kept_power ht

theorem doStartupStageDone_kept {r} (ht : Kept false s t) : Kept false s (doStartupStageDone t r) :=
  kept_ite ht (kept_ite (kept_foldl ht fun _ _ hu => dieFails_kept hu) (stageWork_kept (kept_foldl ht fun _ _ hu => dieFails_kept hu)))

theorem doPowerUpLoadLimit_kept (ht : Kept false s t) : Kept false s (doPowerUpLoadLimit t) := by
  unfold doPowerUpLoadLimit
  extract_lets src
  split
  · exact ht
  · split
    · exact loadFailed_kept ht
    · exact kept_ite ht ht

theorem doRefLoss_kept {d} (ht : Kept full s t) : Kept full s (doRefLoss t d) := kept_ite ht (dieFault_kept (modMgt_kept ht))

theorem doPllLockLoss_kept {d pll} (ht : Kept full s t) : Kept full s (doPllLockLoss t d pll) := by
  unfold doPllLockLoss
  extract_lets m t1 src
  have h1 : Kept full s t1 := setMgt_kept ht
  exact kept_ite ht (kept_ite (dieFault_kept h1) (kept_ite (kept_foldl h1 fun _ _ h1 => enterFast_kept (modLink_kept h1)) h1))

/-! ### SMBus, UART and JTAG -/

theorem smbBlock_kept {code bs} (ht : Kept full s t) : Kept full s (smbBlock t code bs) := emit_kept ht

theorem doSmbSubmit_kept {entry p} (ht : Kept full s t) : Kept full s (doSmbSubmit t entry p) := kept_ite ht (kept_ite ht ht)

theorem doSmbAck_kept {p} (ht : Kept full s t) : Kept full s (doSmbAck t p) := kept_ite ht ht

theorem doSmbIdentifyRead_kept (ht : Kept full s t) : Kept full s (doSmbIdentifyRead t) := kept_ite (smbBlock_kept ht) ht

theorem doSmbTempRead_kept (ht : Kept full s t) : Kept full s (doSmbTempRead t) := kept_ite (smbBlock_kept ht) ht

theorem doSmbResultRead_kept (ht : Kept full s t) : Kept full s (doSmbResultRead t) := kept_ite (smbBlock_kept ht) ht

theorem doSmbAlertResponse_kept (ht : Kept full s t) : Kept full s (doSmbAlertResponse t) := kept_ite (emit_kept ht) ht

theorem sendFrame_kept {f} (ht : Kept full s t) : Kept full s (sendFrame t f) := emit_kept ht

theorem sendNak_kept (ht : Kept full s t) : Kept full s (sendNak t) := sendFrame_kept ht

theorem doUartSubmit_kept {frame} (ht : Kept full s t) : Kept full s (doUartSubmit t frame) :=
  kept_ite ht (kept_ite (sendNak_kept ht) (kept_ite ht ht))

theorem doUartAck_kept {frame} (ht : Kept full s t) : Kept full s (doUartAck t frame) := kept_ite ht (kept_ite (sendNak_kept ht) ht)

theorem doUartEventDiscard_kept (ht : Kept full s t) : Kept full s (doUartEventDiscard t) := by
  unfold doUartEventDiscard
  split
  · exact ht
  · exact advanceTo_kept ht

theorem doUartFrameSent_kept (ht : Kept full s t) : Kept full s (doUartFrameSent t) := by
  unfold doUartFrameSent
  extract_lets src t1 src'
  have h1 : Kept full s t1 := ht
  split
  · exact h1
  · split
    · exact h1
    · exact sendEvent_kept h1

theorem doTckEdge_kept {rising tms tdi balls} (ht : Kept full s t) : Kept full s (doTckEdge t rising tms tdi balls) := by
  unfold doTckEdge
  exact kept_ite ht (kept_ite (kept_foldl ht fun _ _ hu => setTap_kept hu)
    (kept_ite (emit_kept (kept_foldl ht fun _ _ hu => setTap_kept hu)) (kept_foldl ht fun _ _ hu => setTap_kept hu)))

theorem doTrst_kept (ht : Kept full s t) : Kept full s (doTrst t) := kept_foldl ht fun _ _ hu => setTap_kept hu

end Sys2Proof.Proofs
end

section
/-! PROOFS. No step clears a fuse (R55, R56, R386): every command but FUSE_PROGRAM_DONE leaves the fuses as they are, and that one only sets them. -/

open Sys2Proof Sys2Proof.Machine Sys2Proof.Claims

namespace Sys2Proof.Proofs

/-- What `Kept` says of a command that completes; a refusal has no next state. -/
def KeptOutcome (s : State) : Host.Outcome State Fault Refusal → Prop
  | .next t => Kept false s t
  | _ => True

theorem execPatchCommand_kept {s t : State} {h : CmdHdr} {opcode : BitVec 16} (ht : Kept false s t) :
    KeptOutcome s (execPatchCommand h opcode t) := by
  unfold execPatchCommand
  split
  · exact ht
  split
  · trivial
  · exact complete_kept (takePopped_kept ht)

/-- Every command but the end of a fuse programming keeps the fuses: one line per command, by the lemma about its meaning. -/
theorem exec_kept {s : State} (i : Instr) (hfuse : i ≠ .fuseProgramDone) : KeptOutcome s (exec i s) := by
  cases i with
  | nop => exact doNop_kept kept_refl
  | identify => exact doIdentify_kept kept_refl
  | power => exact doPower_kept kept_refl
  | reset => exact doReset_kept kept_refl
  | dialectSelect => exact doDialectSelect_kept kept_refl
  | dialectInfo => exact doDialectInfo_kept kept_refl
  | keyProgram => exact keyOp_kept kept_refl
  | keyRevoke => exact keyOp_kept kept_refl
  | keyRollback => exact keyOp_kept kept_refl
  | pageDefine => exact doPageDefine_kept kept_refl
  | pageDelete => exact doPageDelete_kept kept_refl
  | pageInfo => exact doPageInfo_kept kept_refl
  | loadBlocks => exact doLoadBlocks_kept kept_refl
  | overlayClose => exact doOverlayClose_kept kept_refl
  | jobOpen => exact doJobOpen_kept kept_refl
  | jobStopAtCopy => exact doJobStopAtCopy_kept kept_refl
  | jobStopNow => exact doJobStopNow_kept kept_refl
  | report => exact doReport_kept kept_refl
  | jobStatus => exact doJobStatus_kept kept_refl
  | paramWrite => exact doParamWrite_kept kept_refl
  | paramRead => exact doParamRead_kept kept_refl
  | nozzleDisable => exact doNozzleDisable_kept kept_refl
  | nozzleRead => exact doNozzleRead_kept kept_refl
  | ddrTune => exact doDdrTune_kept kept_refl
  | calRun => exact doCalRun_kept kept_refl
  | calRead => exact doCalRead_kept kept_refl
  | sensors => exact doSensors_kept kept_refl
  | eventsRead => exact doEventsRead_kept kept_refl
  | fenceRead => exact doFenceRead_kept kept_refl
  | fence => exact doFence_kept kept_refl
  | unfence => exact doUnfence_kept kept_refl
  | flashWrite => exact doFlashWrite_kept kept_refl
  | flashRead => exact doFlashRead_kept kept_refl
  | imageActivate => exact doImageActivate_kept kept_refl
  | march => exact doMarch_kept kept_refl
  | ddrRetrain => exact doDdrRetrain_kept kept_refl
  | cap => exact doCap_kept kept_refl
  | uncap => exact doUncap_kept kept_refl
  | wipe => exact doWipe_kept kept_refl
  | spit => exact doSpit_kept kept_refl
  | purge => exact doPurge_kept kept_refl
  | headLift => exact doHeadLift_kept kept_refl
  | axisHome => exact doAxisHome_kept kept_refl
  | axisMove => exact doAxisMove_kept kept_refl
  | axisStopDecelerate => exact doAxisStopDecelerate_kept kept_refl
  | axisStopHold => exact doAxisStopHold_kept kept_refl
  | patchCommand => exact execPatchCommand_kept kept_refl
  | damaged => exact doDamaged_kept kept_refl
  | sqTailDoorbell => exact hostReg_kept kept_refl fun _ hu => doSqTail_kept hu
  | cqHeadDoorbell => exact hostReg_kept kept_refl fun _ hu => doCqHead_kept hu
  | sqEnable => exact hostReg_kept kept_refl fun _ hu => doSqEnable_kept hu
  | sqDisable => exact hostReg_kept kept_refl fun _ hu => doSqDisable_kept hu
  | cqEnable => exact hostReg_kept kept_refl fun _ hu => doCqEnable_kept hu
  | cqDisable => exact hostReg_kept kept_refl fun _ hu => doCqDisable_kept hu
  | sqFetch => exact doSqFetch_kept kept_refl
  | cqCoalesceTimer => exact doCqCoalesceTimer_kept kept_refl
  | mbGo => exact hostReg_kept kept_refl fun _ hu => doMbGo_kept hu
  | mbAck => exact hostReg_kept kept_refl fun _ hu => doMbAck_kept hu
  | smbSubmit => exact doSmbSubmit_kept kept_refl
  | smbAck => exact doSmbAck_kept kept_refl
  | smbIdentifyRead => exact doSmbIdentifyRead_kept kept_refl
  | smbTempRead => exact doSmbTempRead_kept kept_refl
  | smbResultRead => exact doSmbResultRead_kept kept_refl
  | smbAlertResponse => exact doSmbAlertResponse_kept kept_refl
  | uartSubmit => exact doUartSubmit_kept kept_refl
  | uartAck => exact doUartAck_kept kept_refl
  | uartEventDiscard => exact doUartEventDiscard_kept kept_refl
  | configRequest => exact doConfigRequest_kept kept_refl
  | perstAssert => exact doPerstAssert_kept kept_refl
  | perstDeassert => exact doPerstDeassert_kept kept_refl
  | flr => exact doFlr_kept kept_refl
  | d3hotEntry => exact doD3hotEntry_kept kept_refl
  | d0Return => exact doD0Return_kept kept_refl
  | bar2Access => exact doBar2Access_kept kept_refl
  | bar0RemoteAccess => exact doBar0RemoteAccess_kept kept_refl
  | dieBankApertureAccess => exact doDieBankApertureAccess_kept kept_refl
  | pcieLinkDown => exact doPcieLinkDown_kept kept_refl
  | registerWrite => exact doRegisterWrite_kept kept_refl
  | tbCountLoRead => exact doTbCountLoRead_kept kept_refl
  | clsCdcCtrlClr => exact hostReg_kept kept_refl fun _ hu => kept_ite (doClsCdcCtrlClr_kept hu) hu
  | celCtrlClr => exact hostReg_kept kept_refl fun _ hu => kept_ite (doCelCtrlClr_kept hu) hu
  | clsIntCtrlClr => exact hostReg_kept kept_refl fun _ hu => kept_ite (doClsIntCtrlClr_kept hu) hu
  | lgnRowCtrlClr => exact hostReg_kept kept_refl fun _ hu => kept_ite (doLgnRowCtrlClr_kept hu) hu
  | bnkCtrlClr => exact hostReg_kept kept_refl fun _ hu => doBnkCtrlClr_kept hu
  | evtQCtrlClr => exact hostReg_kept kept_refl fun _ hu => doEvtQCtrlClr_kept hu
  | mgtMtCtrlStart => exact hostReg_kept kept_refl fun _ hu => doMgtMtCtrlStart_kept hu
  | ddrChCtrlClr => exact hostReg_kept kept_refl fun _ hu => doDdrChCtrlClr_kept hu
  | ddrTrnStart => exact hostReg_kept kept_refl fun _ hu => doDdrTrnStart_kept hu
  | motAxCtrlClr => exact hostReg_kept kept_refl fun _ hu => doMotAxCtrlClr_kept hu
  | mgtThermClr => exact hostReg_kept kept_refl fun _ hu => doMgtThermClr_kept hu
  | tynLnkCtrlClr => exact hostReg_kept kept_refl fun _ hu => kept_ite (doTynLnkCtrlClr_kept hu) hu
  | tynLnkCtrlRetrain => exact hostReg_kept kept_refl fun _ hu => kept_ite (doTynLnkCtrlRetrain_kept hu) hu
  | tynLnkCtrlExit => exact hostReg_kept kept_refl fun _ hu => kept_ite (doTynLnkCtrlExit_kept hu) hu
  | tynEyeStart => exact hostReg_kept kept_refl fun _ hu => doTynEyeStart_kept hu
  | eyePointDone => exact doEyePointDone_kept kept_refl
  | cmpStart => exact hostReg_kept kept_refl fun _ hu => doCmpStart_kept hu
  | cmpAbort => exact hostReg_kept kept_refl fun _ hu => doCmpAbort_kept hu
  | cmpJobEnd => exact doCmpJobEnd_kept kept_refl
  | cacheCompressStart => exact doCacheCompressStart_kept kept_refl
  | loadResume => exact doLoadResume_kept kept_refl
  | blockMove => exact doBlockMove_kept kept_refl
  | overlayFetchResume => exact doOverlayFetchResume_kept kept_refl
  | bandFetch => exact doBandFetch_kept kept_refl
  | rewindGuardReached => exact doRewindGuardReached_kept kept_refl
  | decompBlockStart => exact doDecompBlockStart_kept kept_refl
  | decompToken => exact doDecompToken_kept (kept_ite (readToken_kept kept_refl) kept_refl)
  | decompResume => exact doDecompResume_kept kept_refl
  | decompSegmentEnd => exact doDecompSegmentEnd_kept kept_refl
  | followerDone => exact doFollowerDone_kept (readLine_kept kept_refl)
  | clauseLineAdmit => exact doClauseLineAdmit_kept kept_refl
  | lineDispatch => exact doLineDispatch_kept kept_refl
  | windowWrite => exact doWindowWrite_kept kept_refl
  | ill => exact doIll_kept (fetched_kept kept_refl)
  | cellNop => exact doCellNop_kept (fetched_kept kept_refl)
  | br => exact doBr_kept (fetched_kept kept_refl)
  | loopi => exact doLoopi_kept (fetched_kept kept_refl)
  | loopr => exact doLoopr_kept (fetched_kept kept_refl)
  | call => exact doCall_kept (fetched_kept kept_refl)
  | jr => exact doJr_kept (fetched_kept kept_refl)
  | line => exact doLine_kept (fetched_kept kept_refl)
  | frame => exact doFrame_kept (fetched_kept kept_refl)
  | seg => exact doSeg_kept (fetched_kept kept_refl)
  | getc => exact doGetc_kept (fetched_kept kept_refl)
  | bwait => exact doBwait_kept (fetched_kept kept_refl)
  | trap => exact doTrap_kept (fetched_kept kept_refl)
  | add => exact doAdd_kept (fetched_kept kept_refl)
  | sub => exact doSub_kept (fetched_kept kept_refl)
  | log => exact doLog_kept (fetched_kept kept_refl)
  | shf => exact doShf_kept (fetched_kept kept_refl)
  | mul => exact doMul_kept (fetched_kept kept_refl)
  | mnx => exact doMnx_kept (fetched_kept kept_refl)
  | addi => exact doAddi_kept (fetched_kept kept_refl)
  | andi => exact doAndi_kept (fetched_kept kept_refl)
  | ori => exact doOri_kept (fetched_kept kept_refl)
  | ld => exact doLd_kept (loading_kept (fetched_kept kept_refl))
  | st => exact doSt_kept (fetched_kept kept_refl)
  | plog => exact doPlog_kept (fetched_kept kept_refl)
  | pmov => exact doPmov_kept (fetched_kept kept_refl)
  | vadd => exact doVadd_kept (fetched_kept kept_refl)
  | vsub => exact doVsub_kept (fetched_kept kept_refl)
  | vmul => exact doVmul_kept (fetched_kept kept_refl)
  | vlog => exact doVlog_kept (fetched_kept kept_refl)
  | vshf => exact doVshf_kept (fetched_kept kept_refl)
  | vmnx => exact doVmnx_kept (fetched_kept kept_refl)
  | vcmp => exact doVcmp_kept (fetched_kept kept_refl)
  | vsel => exact doVsel_kept (fetched_kept kept_refl)
  | vbc => exact doVbc_kept (fetched_kept kept_refl)
  | vext => exact doVext_kept (fetched_kept kept_refl)
  | vins => exact doVins_kept (fetched_kept kept_refl)
  | vsld => exact doVsld_kept (fetched_kept kept_refl)
  | vld => exact doVld_kept (loading_kept (fetched_kept kept_refl))
  | vst => exact doVst_kept (fetched_kept kept_refl)
  | vldb => exact doVldb_kept (loading_kept (fetched_kept kept_refl))
  | vstb => exact doVstb_kept (fetched_kept kept_refl)
  | lutv => exact doLutv_kept (loading_kept (fetched_kept kept_refl))
  | unpk => exact doUnpk_kept (fetched_kept kept_refl)
  | qth => exact doQth_kept (fetched_kept kept_refl)
  | dq => exact doDq_kept (fetched_kept kept_refl)
  | hist => exact doHist_kept (fetched_kept kept_refl)
  | sprd => exact doSprd_kept (fetched_kept kept_refl)
  | packo => exact doPacko_kept (fetched_kept kept_refl)
  | send => exact doSend_kept (fetched_kept kept_refl)
  | recv => exact doRecv_kept (readLog_kept (fetched_kept kept_refl))
  | bget => exact doBget_kept (fetched_kept kept_refl)
  | bgv => exact doBgv_kept (fetched_kept kept_refl)
  | batm => exact doBatm_kept (fetched_kept kept_refl)
  | cellStallRelease => exact doCellStallRelease_kept kept_refl
  | bankRequestComplete => exact doBankRequestComplete_kept kept_refl
  | cellRestart => exact doCellRestart_kept kept_refl
  | cellReloadDone => exact doCellReloadDone_kept kept_refl
  | watchdog => exact doWatchdog_kept kept_refl
  | cellOverrun => exact doCellOverrun_kept kept_refl
  | sigCheckDone => exact doSigCheckDone_kept (readSigLine_kept kept_refl)
  | spareReady => exact doSpareReady_kept kept_refl
  | takeover => exact doTakeover_kept kept_refl
  | unfenceTestDone => exact doUnfenceTestDone_kept kept_refl
  | encoderCount => exact doEncoderCount_kept kept_refl
  | encoderIndex => exact doEncoderIndex_kept kept_refl
  | timeCountAct => exact doTimeCountAct_kept kept_refl
  | lineCommit => exact doLineCommit_kept kept_refl
  | rowTick => exact doRowTick_kept kept_refl
  | gatherBlock => exact doGatherBlock_kept (readCodes_kept kept_refl)
  | gatherEnd => exact doGatherEnd_kept kept_refl
  | fireInstant => exact doFireInstant_kept kept_refl
  | syncFrameSend => exact doSyncFrameSend_kept kept_refl
  | syncFrameReceive => exact doSyncFrameReceive_kept kept_refl
  | syncLost => exact doSyncLost_kept kept_refl
  | receiverDetect => exact doReceiverDetect_kept kept_refl
  | trainingWord => exact doTrainingWord_kept kept_refl
  | bitlockDone => exact doBitlockDone_kept kept_refl
  | blocklockDone => exact doBlocklockDone_kept kept_refl
  | linkStateTimeout => exact doLinkStateTimeout_kept kept_refl
  | renegAckReceive => exact doRenegAckReceive_kept kept_refl
  | capsReceive => exact doCapsReceive_kept kept_refl
  | configRetry => exact doConfigRetry_kept kept_refl
  | configAckReceive => exact doConfigAckReceive_kept kept_refl
  | lineBaseAckReceive => exact doLineBaseAckReceive_kept kept_refl
  | lineBaseTimeout => exact doLineBaseTimeout_kept kept_refl
  | lockLoss => exact doLockLoss_kept kept_refl
  | fastExitDone => exact doFastExitDone_kept kept_refl
  | fastExitTimeout => exact doFastExitTimeout_kept kept_refl
  | alignReceive => exact doAlignReceive_kept kept_refl
  | ackReceive => exact doAckReceive_kept kept_refl
  | nakReceive => exact doNakReceive_kept kept_refl
  | replayTimeout => exact doReplayTimeout_kept kept_refl
  | telemetryReceive => exact doTelemetryReceive_kept kept_refl
  | telemetrySilence => exact doTelemetrySilence_kept kept_refl
  | noticeReceive => exact doNoticeReceive_kept kept_refl
  | echoReplyReceive => exact doEchoReplyReceive_kept kept_refl
  | echoTimeout => exact doEchoTimeout_kept kept_refl
  | dmaArm => exact doDmaArm_kept kept_refl
  | dmaDoorbell => exact doDmaDoorbell_kept kept_refl
  | dmaDescWrite => exact doDmaDescWrite_kept kept_refl
  | dmaAbort => exact doDmaAbort_kept kept_refl
  | dmaCntClr => exact doDmaCntClr_kept kept_refl
  | dmaIrqStatWrite => exact hostReg_kept kept_refl fun _ hu => doDmaIrqStatWrite_kept hu
  | dmaDescFetchComplete => exact doDmaDescFetchComplete_kept kept_refl
  | dmaBurstStart => exact doDmaBurstStart_kept kept_refl
  | dmaBurstComplete => exact doDmaBurstComplete_kept kept_refl
  | dmaReadbackReturn => exact doDmaReadbackReturn_kept kept_refl
  | ingressBurst => exact doIngressBurst_kept kept_refl
  | scrubRead => exact doScrubRead_kept kept_refl
  | rowRepairDone => exact doRowRepairDone_kept kept_refl
  | masterRewrite => exact doMasterRewrite_kept kept_refl
  | marchDone => exact doMarchDone_kept kept_refl
  | marchRowRetry => exact doMarchRowRetry_kept kept_refl
  | queuePush => exact doQueuePush_kept kept_refl
  | queuePop => exact doQueuePop_kept kept_refl
  | dramRequest => exact doDramRequest_kept kept_refl
  | dramBurstIssue => exact doDramBurstIssue_kept kept_refl
  | dramReadComplete => exact doDramReadComplete_kept kept_refl
  | refresh => exact doRefresh_kept kept_refl
  | mr4Poll => exact doMr4Poll_kept kept_refl
  | driftCheck => exact doDriftCheck_kept kept_refl
  | fastRetrainDone => exact doFastRetrainDone_kept kept_refl
  | fullTrainingDone => exact doFullTrainingDone_kept kept_refl
  | ddrScrubRead => exact doDdrScrubRead_kept kept_refl
  | trainHelperDone => exact doTrainHelperDone_kept kept_refl
  | fabricPacketReceive => exact doFabricPacketReceive_kept kept_refl
  | portRetrainDone => exact doPortRetrainDone_kept kept_refl
  | heartbeatSend => exact doHeartbeatSend_kept kept_refl
  | heartbeatTimeout => exact doHeartbeatTimeout_kept kept_refl
  | mgtWatchdogExpiry => exact doMgtWatchdogExpiry_kept kept_refl
  | sensorUpdate => exact doSensorUpdate_kept kept_refl
  | thermalWarnClear => exact doThermalWarnClear_kept kept_refl
  | safetyTrip => exact doSafetyTrip_kept kept_refl
  | eventLog => exact doEventLog_kept kept_refl
  | flashSectorTimer => exact flushSector_kept kept_refl
  | notifyInterval => exact doNotifyInterval_kept kept_refl
  | timeMark => exact doTimeMark_kept kept_refl
  | calSlice => exact doCalSlice_kept kept_refl
  | calSliceDone => exact doCalSliceDone_kept kept_refl
  | calStoreWrite => exact doCalStoreWrite_kept kept_refl
  | profileTick => exact doProfileTick_kept kept_refl
  | axisEncoderCount => exact doAxisEncoderCount_kept kept_refl
  | switchInput => exact doSwitchInput_kept kept_refl
  | stall => exact doStall_kept kept_refl
  | stallRepeat => exact doStallRepeat_kept kept_refl
  | holdDelayExpiry => exact doHoldDelayExpiry_kept kept_refl
  | purgeDwellExpiry => exact doPurgeDwellExpiry_kept kept_refl
  | spitTick => exact doSpitTick_kept kept_refl
  | restDescent => exact doRestDescent_kept kept_refl
  | powerTransitionDone => exact doPowerTransitionDone_kept kept_refl
  | wake => exact doWake_kept kept_refl
  | pwrenHoldExpiry => exact doPwrenHoldExpiry_kept kept_refl
  | coldPor => exact doColdPor_kept kept_refl
  | mainPorRelease => exact doMainPorRelease_kept kept_refl
  | railUndervoltage => exact doRailUndervoltage_kept kept_refl
  | startupStageDone => exact doStartupStageDone_kept kept_refl
  | refLoss => exact doRefLoss_kept kept_refl
  | pllLockLoss => exact doPllLockLoss_kept kept_refl
  | trst => exact doTrst_kept kept_refl
  | dialectFirstPassDone => exact doDialectFirstPassDone_kept kept_refl
  | dialectLoadDone => exact doDialectLoadDone_kept kept_refl
  | encoderLongGap => exact doEncoderLongGap_kept kept_refl
  | powerUpLoadLimit => exact doPowerUpLoadLimit_kept kept_refl
  | flashEraseProgramDone => exact doFlashEraseProgramDone_kept kept_refl
  | fuseProgramDone => exact absurd rfl hfuse
  | sqFetchComplete => exact doSqFetchComplete_kept kept_refl
  | vaonUndervoltage => exact doVaonUndervoltage_kept kept_refl
  | sampledTransition => exact doSampledTransition_kept kept_refl
  | tckEdge => exact doTckEdge_kept kept_refl
  | uartFrameSent => exact doUartFrameSent_kept kept_refl

/-! ### FUSE_PROGRAM_DONE -/

theorem fusesGrow_of_eq {s t : State} (hfuses : t.fuses = s.fuses) : fusesGrow s t := by
  unfold fusesGrow
  rw [hfuses]
  exact ⟨fun _ hk => ⟨hk, rfl⟩, fun _ hk => hk, Nat.le_refl _⟩

theorem getLsbD_or_of_left {n : Nat} {a b : BitVec n} {k : Nat} (hk : a.getLsbD k = true) : (a ||| b).getLsbD k = true := by
  rw [BitVec.getLsbD_or, hk, Bool.true_or]

/-- A permitted key operation sets fuses and clears none: a key goes into a slot not yet programmed, and the rollback counter rises to a value of
6 bits (R55, R56). -/
theorem fusesGrow_apply {s t : State} {op slot value : Nat} {key : List Byte} (hok : keyOpOk s op slot value = true) (hvalue : value ≤ 63)
    (hfuses : t.fuses = s.fuses.apply op slot value key) : fusesGrow s t := by
  unfold fusesGrow
  rw [hfuses]
  unfold keyOpOk at hok
  unfold Fuses.apply
  split at hok
  next hprogram =>
    rw [if_pos hprogram]
    simp only [Bool.and_eq_true, Bool.not_eq_true'] at hok
    obtain ⟨⟨-, hfree⟩, -⟩ := hok
    refine ⟨fun k hk => ⟨getLsbD_or_of_left hk, sget_sput_other _ _ _ _ _ ?_⟩, fun _ hk => hk, Nat.le_refl _⟩
    rintro rfl
    rw [hfree] at hk
    exact Bool.false_ne_true hk
  split at hok
  next hprogram hrevoke =>
    rw [if_neg hprogram, if_pos hrevoke]
    exact ⟨fun _ hk => ⟨hk, rfl⟩, fun _ hk => getLsbD_or_of_left hk, Nat.le_refl _⟩
  next hprogram hrevoke =>
    rw [if_neg hprogram, if_neg hrevoke]
    refine ⟨fun _ hk => ⟨hk, rfl⟩, fun _ hk => hk, ?_⟩
    have hmore : s.fuses.rollback.toNat < value := of_decide_eq_true hok
    rw [BitVec.toNat_ofNat, Nat.mod_eq_of_lt (by omega)]
    exact Nat.le_of_lt hmore

theorem value_of_find {ps : List Parked} {h : CmdHdr} {op slot value : Nat} {key : List Byte} (hfit : valuesFit ps = true)
    (hfind : ps.find? Parked.isKeyOp = some (.keyOp h op slot value key)) : value ≤ 63 := by
  simp only [valuesFit, List.all_eq_true] at hfit
  exact of_decide_eq_true (hfit _ (List.mem_of_find?_eq_some hfind))

/-- The end of a fuse programming applies the parked operation to the fuses where it is still permitted (R386). -/
theorem doFuseProgramDone_grows {s : State} (hfit : valuesFit s.parked = true) :
    fusesGrow s (doFuseProgramDone s) ∧ valuesFit (doFuseProgramDone s).parked = true := by
  unfold doFuseProgramDone
  split
  next h op slot value key hfind =>
    extract_lets u
    have hu : Kept true s u := kept_eraseParked kept_refl
    have hparked : valuesFit u.parked = true := valuesFit_of_kept hu hfit
    split
    next hok =>
      have hdone : Kept true { u with fuses := u.fuses.apply op slot value key }
          (finish { u with fuses := u.fuses.apply op slot value key } h 0x0103 []) := finish_kept kept_refl
      exact ⟨fusesGrow_apply hok (value_of_find hfit hfind) (fuses_of_kept hdone), valuesFit_of_kept hdone hparked⟩
    · have hdone : Kept true s (complete u h 0x0103 stState []) := complete_kept hu
      exact ⟨fusesGrow_of_eq (fuses_of_kept hdone), valuesFit_of_kept hdone hfit⟩
  · exact ⟨fusesGrow_of_eq rfl, hfit⟩

theorem kept_of_exec {i : Instr} {s t : State} (hfuse : i ≠ .fuseProgramDone) (hexec : exec i s = .next t) : Kept false s t := by
  have hkept : KeptOutcome s (exec i s) := exec_kept i hfuse
  rw [hexec] at hkept
  exact hkept

/-- Settles O43: a tick and every command but FUSE_PROGRAM_DONE keep the fuses (`tick_kept`, `exec_kept`); that one sets some and clears none. -/
theorem stepNeverClearsFuses : Obligations.StepNeverClearsFuses := by
  intro s t hfit hstep
  unfold step at hstep
  split at hstep
  · injection hstep with htick
    subst htick
    have ht : Kept true s (tick s) := tick_kept kept_refl
    exact ⟨fusesGrow_of_eq (fuses_of_kept ht), valuesFit_of_kept ht hfit⟩
  next i is _ =>
    by_cases hfuse : i = .fuseProgramDone
    · subst hfuse
      injection hstep with hdone
      subst hdone
      exact doFuseProgramDone_grows (s := { s with pending := is }) hfit
    · have ht := kept_of_exec hfuse hstep
      have hfuses := fuses_of_kept ht
      exact ⟨fusesGrow_of_eq hfuses, valuesFit_of_kept ht hfit⟩

end Sys2Proof.Proofs
end

section
/-! PROOFS. The two passes of a Dialect load (R60, R61, R63, R66, R68): what the take-down, the second pass and the
load's end do to the Dialect, its Grammar and its parameters. -/

open Sys2Proof Sys2Proof.Machine Sys2Proof.Claims

namespace Sys2Proof.Proofs

/-- The PKG_DIALECT fields once no Dialect is in force. -/
def noneInForce (dia : DialectRegs) : DialectRegs := { dia with valid := false, gid := 0, grev := 0, gcrc := 0 }

theorem dialect_of_kept {s t : State} (ht : Kept true s t) : t.dia = s.dia ∧ t.load = s.load ∧ t.gram = s.gram ∧ t.params = s.params := by
  obtain ⟨-, -, -, -, hdialect⟩ := ht
  exact hdialect

theorem endLoad_dialect (s : State) (slot : Nat) (f : Fail) (gid : Nat) :
    (endLoad s slot f gid).dia = s.dia ∧ (endLoad s slot f gid).load = none ∧ (endLoad s slot f gid).gram = s.gram ∧
      (endLoad s slot f gid).params = s.params := by
  have hlogged : Kept true { s with load := none } (logEv { s with load := none } 0 0x0002 (valueData slot f.1 f.2 gid)) := logEv_kept kept_refl
  have hended : Kept true { s with load := none } (endLoad s slot f gid) :=
    kept_ite (kept_ite (endSelect_kept hlogged) (endSelect_kept hlogged)) (kept_ite (endStartup_kept hlogged) hlogged)
  exact dialect_of_kept hended

theorem noDialect_dialect (s : State) :
    (noDialect s).dia = noneInForce s.dia ∧ (noDialect s).load = s.load ∧ (noDialect s).gram = {} ∧ (noDialect s).params = [] := by
  have hdown : Kept true s (dmaDown ((allClauses s).foldl clauseDown s)) := dmaDown_kept (kept_foldl kept_refl fun _ _ hu => clauseDown_kept hu)
  obtain ⟨hdia, hload, -, -⟩ := dialect_of_kept hdown
  exact ⟨congrArg noneInForce hdia, hload, rfl, rfl⟩

/-- The links and axes at the commit point, before the Dialect goes. -/
theorem takeDown_eq (s : State) (new : List ParamRec) : ∃ off, Kept true s off ∧
    takeDown s new = { noDialect off with dia := { (noDialect off).dia with gstate := .loading } } :=
  ⟨_, kept_foldl (kept_foldl kept_refl fun _ _ hu => linkToIdle_kept hu) fun _ _ hu => axisSwitch_kept hu, rfl⟩

/-- The commit point (R61 phase 6): no Dialect is in force, and the load goes on. -/
theorem takeDown_dialect (s : State) (new : List ParamRec) :
    (takeDown s new).dia.valid = false ∧ (takeDown s new).dia.gstate = .loading ∧ (takeDown s new).load = s.load ∧
      (takeDown s new).gram = {} ∧ (takeDown s new).params = [] := by
  obtain ⟨off, hoff, heq⟩ := takeDown_eq s new
  obtain ⟨-, hloadOff, -, -⟩ := dialect_of_kept hoff
  obtain ⟨hdia, hload, hgram, hparams⟩ := noDialect_dialect off
  rw [heq]
  exact ⟨congrArg DialectRegs.valid hdia, rfl, hload.trans hloadOff, hgram, hparams⟩

/-- A load that fails before the commit point leaves the old Dialect (R63). -/
theorem loadFailed_first (s : State) (j : LoadJob) (f : Fail) (gid : Nat) (hfirst : j.second = false) :
    (loadFailed s j f gid).load = none ∧
      (loadFailed s j f gid).dia = { s.dia with failSlot := BitVec.ofNat 2 j.slot, failCode := BitVec.ofNat 8 f.1, failSection := BitVec.ofNat 16 f.2,
                                                gstate := if s.dia.valid then .active else .failed } ∧
      (loadFailed s j f gid).gram = s.gram ∧ (loadFailed s j f gid).params = s.params := by
  unfold loadFailed
  rw [hfirst]
  obtain ⟨hdia, hload, hgram, hparams⟩ := endLoad_dialect
    { failRegs s j.slot f with dia := { (failRegs s j.slot f).dia with gstate := if s.dia.valid then .active else .failed } } j.slot f gid
  exact ⟨hload, hdia, hgram, hparams⟩

/-- Axes, service groups and links of a load that fails after the commit point. -/
theorem loadFailed_second_eq (s : State) (j : LoadJob) (f : Fail) (gid : Nat) (hsecond : j.second = true) :
    ∃ off links, Kept true (noDialect (failRegs s j.slot f)) off ∧
      loadFailed s j f gid = endLoad { off with links := links, dia := { off.dia with gstate := .failed } } j.slot f gid := by
  have hoff (axes : List Nat) : Kept true (noDialect (failRegs s j.slot f))
      (axes.foldl axisSwitch.axisOff (groupsUnknown (noDialect (failRegs s j.slot f)))) :=
    kept_foldl (groupsUnknown_kept kept_refl) fun _ _ hu => axisSwitch_axisOff_kept hu
  refine ⟨_, ?links, hoff (List.range (2 * s.part.dies)), ?ended⟩
  case ended =>
  unfold loadFailed
  rw [hsecond]
  rfl

/-- A load that fails after the commit point leaves the part without a Dialect, FAILED (R66, R68). -/
theorem loadFailed_second (s : State) (j : LoadJob) (f : Fail) (gid : Nat) (hsecond : j.second = true) :
    (loadFailed s j f gid).load = none ∧ (loadFailed s j f gid).dia.valid = false ∧ (loadFailed s j f gid).dia.gstate = .failed ∧
      (loadFailed s j f gid).dia.failCode = BitVec.ofNat 8 f.1 ∧ (loadFailed s j f gid).gram = {} ∧ (loadFailed s j f gid).params = [] := by
  obtain ⟨off, links, hoff, heq⟩ := loadFailed_second_eq s j f gid hsecond
  obtain ⟨hbareDia, -, hbareGram, hbareParams⟩ := noDialect_dialect (failRegs s j.slot f)
  obtain ⟨hoffDia, -, hoffGram, hoffParams⟩ := dialect_of_kept hoff
  obtain ⟨hdia, hload, hgram, hparams⟩ := endLoad_dialect { off with links := links, dia := { off.dia with gstate := .failed } } j.slot f gid
  have hoffBare : off.dia = noneInForce (failRegs s j.slot f).dia := hoffDia.trans hbareDia
  rw [heq, hdia, hload, hgram, hparams, hoffBare]
  exact ⟨rfl, rfl, rfl, rfl, hoffGram.trans hbareGram, hoffParams.trans hbareParams⟩

/-- The Dialect in force once the second pass has applied it. -/
def inForce (dia : DialectRegs) (j : LoadJob) (d : Dialect) : DialectRegs :=
  { dia with
    valid := true, active := BitVec.ofNat 2 j.slot, gstate := .active, loads := satInc dia.loads,
    gid := BitVec.ofNat 32 (leAt d.img 0x10 4), grev := BitVec.ofNat 32 (leAt d.img 0x14 4),
    gcrc := BitVec.ofNat 32 (leAt d.img (leAt d.img 8 4 - 72) 4) }

/-- What the second pass places before and after the Dialect comes into force. -/
theorem applyDialect_eq (s : State) (j : LoadJob) (d : Dialect) : ∃ placed,
    Kept true { s with gram := grammarOf (sectsOf d.img).1, params := (frameRecs d.pars).1 } placed ∧
    Kept true { placed with dia := inForce placed.dia j d } (applyDialect s j d) :=
  ⟨_, kept_foldl (placeNozzles_kept (clearTables_kept (headFences_kept (freshHeads_kept kept_refl)))) fun _ _ hu => placeTable_kept hu,
    calAll_kept (relose_kept (keepPages_kept (groupsUnknown_kept (placeLinks_kept (allotDma_kept
      (kept_foldl (kept_foldl kept_refl fun _ _ hu => placeImages_kept hu) fun _ _ hu => mapDie_kept hu))))))⟩

theorem applyDialect_dialect (s : State) (j : LoadJob) (d : Dialect) :
    (applyDialect s j d).dia = inForce s.dia j d ∧ (applyDialect s j d).gram = grammarOf (sectsOf d.img).1 ∧
      (applyDialect s j d).params = (frameRecs d.pars).1 := by
  obtain ⟨placed, hplaced, happlied⟩ := applyDialect_eq s j d
  obtain ⟨hdia, -, hgram, hparams⟩ := dialect_of_kept hplaced
  obtain ⟨hdiaEnd, -, hgramEnd, hparamsEnd⟩ := dialect_of_kept happlied
  exact ⟨hdiaEnd.trans (congrArg (inForce · j d) hdia), hgramEnd.trans hgram, hparamsEnd.trans hparams⟩

/-- A first pass (R61 phases 1-5): the load in its first pass fails, or comes to the commit point. -/
theorem doDialectFirstPassDone_failed {s : State} {j : LoadJob} {e : Bool} {f : Fail} (hload : s.load = some j) (hfirst : j.second = false)
    (hfail : (if e then some (0x1B, noSect) else dialectFail s (readSlot s j.slot)) = some f) :
    doDialectFirstPassDone s e = loadFailed s j f (slotGid (readSlot s j.slot) f) := by
  unfold doDialectFirstPassDone
  simp only [hload, hfirst, hfail, Bool.false_eq_true, if_false]

theorem doDialectFirstPassDone_passed {s : State} {j : LoadJob} (hload : s.load = some j) (hfirst : j.second = false)
    (hpass : dialectFail s (readSlot s j.slot) = none) : doDialectFirstPassDone s false =
      takeDown { s with load := some { j with second := true, crcs := passCrcs (readSlot s j.slot),
                                              oldSlots := if s.dia.valid then s.gram.slots else [] } } (frameRecs (readSlot s j.slot).pars).1 := by
  unfold doDialectFirstPassDone
  simp only [hload, hfirst, hpass, Bool.false_eq_true, if_false]

/-- A second pass (R61 phases 7-10) that fails, by a flash error or by CRCs that changed since the first. -/
theorem doDialectLoadDone_failed {s : State} {j : LoadJob} {e : Bool} (hload : s.load = some j) (hsecond : j.second = true)
    (hbad : e = true ∨ passCrcs (readSlot s j.slot) ≠ j.crcs) :
    ∃ gid, doDialectLoadDone s e = loadFailed s j (if e then 0x1B else 0x1A, noSect) gid := by
  unfold doDialectLoadDone
  cases e with
  | true => exact ⟨0, by simp only [hload, hsecond]; rfl⟩
  | false =>
    have hcrcs : passCrcs (readSlot s j.slot) ≠ j.crcs := hbad.resolve_left Bool.false_ne_true
    exact ⟨leAt (readSlot s j.slot).img 0x10 4, by simp only [hload, hsecond, if_pos hcrcs]; rfl⟩

theorem doDialectLoadDone_passed {s : State} {j : LoadJob} (hload : s.load = some j) (hsecond : j.second = true)
    (hcrcs : passCrcs (readSlot s j.slot) = j.crcs) : doDialectLoadDone s false =
      endLoad (applyDialect s j (readSlot s j.slot)) j.slot (0, noSect) (leAt (readSlot s j.slot).img 0x10 4) := by
  unfold doDialectLoadDone
  simp only [hload, hsecond, hcrcs, ne_eq, not_true_eq_false, if_false, Bool.not_true, Bool.false_eq_true]

theorem doDialectFirstPassDone_idle {s : State} {e : Bool} (hidle : ∀ j, s.load = some j → j.second = true) :
    doDialectFirstPassDone s e = s := by
  unfold doDialectFirstPassDone
  split
  · rfl
  next j hload => exact if_pos (hidle j hload)

theorem doDialectLoadDone_idle {s : State} {e : Bool} (hidle : ∀ j, s.load = some j → j.second = false) : doDialectLoadDone s e = s := by
  unfold doDialectLoadDone
  split
  · rfl
  next j hload => simp [hidle j hload]

theorem runs_firstPassDone {s t : State} {e : Bool} {P : State → Prop} (hdone : doDialectFirstPassDone s e = t) (hP : P t) :
    Runs (.dialectFirstPassDone e) s P := ⟨t, congrArg Host.Outcome.next hdone, hP⟩

theorem runs_loadDone {s t : State} {e : Bool} {P : State → Prop} (hdone : doDialectLoadDone s e = t) (hP : P t) :
    Runs (.dialectLoadDone e) s P := ⟨t, congrArg Host.Outcome.next hdone, hP⟩

/-- Settles O19: each pass by the state in which it leaves the Dialect, in which its load ends or goes on. -/
theorem dialectLoadPasses : Obligations.DialectLoadPasses := by
  refine ⟨fun s j hload hfirst => ?_, fun s j f hload hfirst hfail => ?_, fun s j hload hfirst hpass => ?_, fun s j hload hsecond hcrcs => ?_,
    fun s j e hload hsecond hbad => ?_, fun s e hidle => congrArg Host.Outcome.next (doDialectFirstPassDone_idle hidle),
    fun s e hidle => congrArg Host.Outcome.next (doDialectLoadDone_idle hidle)⟩
  · refine runs_firstPassDone (doDialectFirstPassDone_failed hload hfirst rfl) ?_
    exact loadFailed_first s j (0x1B, noSect) _ hfirst
  · obtain ⟨hnone, hdia, hgram, hparams⟩ := loadFailed_first s j f (slotGid (readSlot s j.slot) f) hfirst
    refine runs_firstPassDone (doDialectFirstPassDone_failed hload hfirst hfail) ⟨hnone, ?_, ?_, ?_, hgram, hparams⟩
    all_goals rw [hdia]
  · obtain ⟨hvalid, hgstate, hloading, hgram, hparams⟩ := takeDown_dialect
      { s with load := some { j with second := true, crcs := passCrcs (readSlot s j.slot), oldSlots := if s.dia.valid then s.gram.slots else [] } }
      (frameRecs (readSlot s j.slot).pars).1
    exact runs_firstPassDone (doDialectFirstPassDone_passed hload hfirst hpass) ⟨hvalid, hgstate, hgram, hparams, _, hloading, rfl, rfl, rfl⟩
  · obtain ⟨hdia, hgram, hparams⟩ := applyDialect_dialect s j (readSlot s j.slot)
    obtain ⟨hdiaEnd, hnone, hgramEnd, hparamsEnd⟩ :=
      endLoad_dialect (applyDialect s j (readSlot s j.slot)) j.slot (0, noSect) (leAt (readSlot s j.slot).img 0x10 4)
    rw [hdia] at hdiaEnd
    refine runs_loadDone (doDialectLoadDone_passed hload hsecond hcrcs) ⟨hnone, ?_, ?_, ?_, ?_, hgramEnd.trans hgram, hparamsEnd.trans hparams⟩
    all_goals rw [hdiaEnd]; rfl
  · obtain ⟨gid, heq⟩ := doDialectLoadDone_failed hload hsecond hbad
    obtain ⟨hnone, hvalid, hgstate, hcode, hgram, hparams⟩ := loadFailed_second s j (if e then 0x1B else 0x1A, noSect) gid hsecond
    refine runs_loadDone heq ⟨hnone, hvalid, hgstate, hcode.trans ?_, hgram, hparams⟩
    cases e <;> rfl

end Sys2Proof.Proofs
end

section
/-! PROOFS. A die's DRAM (R304-R309): what reads and writes of it can change, what a write leaves to be read back, and reads while no bit
stands flipped. -/

open Sys2Proof Sys2Proof.Machine Sys2Proof.Claims

namespace Sys2Proof.Proofs

variable {s t u : State}

/-! ### What an access of the DRAM can change -/

/-- The state but for the DRAM, its poison, its flipped bits and its channels. -/
def offDram (s : State) : State := { s with dram := [], dramPoison := [], dramFlips := [], ddr := [] }

/-- The state but for the DRAM channels. -/
def offDdr (s : State) : State := { s with ddr := [] }

/-- The same channels are retired, so the address map is the same (R322). -/
def SameRetired (s t : State) : Prop := ∀ i, (ddrAt t i).st = .retired ↔ (ddrAt s i).st = .retired

/-- Nothing but the DRAM and its channels differs, and no channel is retired or brought back: what any access of the DRAM leaves. -/
structure DramChange (s t : State) : Prop where
  rest : offDram t = offDram s
  retired : SameRetired s t

/-- Nothing but the channels' registers and caches differs. -/
structure ChannelChange (s t : State) : Prop where
  rest : offDdr t = offDdr s
  retired : SameRetired s t

theorem sameRetired_refl : SameRetired s s := fun _ => Iff.rfl

theorem SameRetired.trans (hst : SameRetired s t) (htu : SameRetired t u) : SameRetired s u := fun i => (htu i).trans (hst i)

theorem dramChange_refl : DramChange s s := ⟨rfl, sameRetired_refl⟩

theorem DramChange.trans (hst : DramChange s t) (htu : DramChange t u) : DramChange s u := ⟨htu.rest.trans hst.rest, hst.retired.trans htu.retired⟩

theorem channelChange_refl : ChannelChange s s := ⟨rfl, sameRetired_refl⟩

theorem ChannelChange.trans (hst : ChannelChange s t) (htu : ChannelChange t u) : ChannelChange s u :=
  ⟨htu.rest.trans hst.rest, hst.retired.trans htu.retired⟩

theorem ChannelChange.dramChange (h : ChannelChange s t) : DramChange s t := ⟨(congrArg offDram h.rest :), h.retired⟩

theorem DramChange.eq_with (h : DramChange s t) :
    t = { s with dram := t.dram, dramPoison := t.dramPoison, dramFlips := t.dramFlips, ddr := t.ddr } :=
  (congrArg (fun v : State => { v with dram := t.dram, dramPoison := t.dramPoison, dramFlips := t.dramFlips, ddr := t.ddr }) h.rest :)

theorem ChannelChange.eq_with (h : ChannelChange s t) : t = { s with ddr := t.ddr } :=
  (congrArg (fun v : State => { v with ddr := t.ddr }) h.rest :)

theorem DramChange.comps (h : DramChange s t) : t.comps = s.comps := (congrArg State.comps h.rest :)

theorem DramChange.blocks (h : DramChange s t) : t.blocks = s.blocks := (congrArg State.blocks h.rest :)

theorem ChannelChange.dram (h : ChannelChange s t) : t.dram = s.dram := (congrArg State.dram h.rest :)

theorem ChannelChange.dramPoison (h : ChannelChange s t) : t.dramPoison = s.dramPoison := (congrArg State.dramPoison h.rest :)

theorem ChannelChange.dramFlips (h : ChannelChange s t) : t.dramFlips = s.dramFlips := (congrArg State.dramFlips h.rest :)

theorem ddrAt_setDdr_other {i j : Nat} {c : DdrCh} (h : j ≠ i) : ddrAt (setDdr s i c) j = ddrAt s j := sget_sput_other _ _ _ _ _ h

/-- A new record of a channel, retired just when the old one was. -/
theorem setDdr_channelChange {i : Nat} {c : DdrCh} (hc : c.st = .retired ↔ (ddrAt s i).st = .retired) : ChannelChange s (setDdr s i c) := by
  refine ⟨rfl, fun j => ?_⟩
  by_cases hj : j = i
  · rw [hj, ddrAt_setDdr, hc]
  · rw [ddrAt_setDdr_other hj]

theorem modDdr_channelChange {i : Nat} {f : DdrCh → DdrCh} (hf : ∀ c, (f c).st = .retired ↔ c.st = .retired) :
    ChannelChange s (modDdr s i f) := setDdr_channelChange (hf _)

theorem chkRead_channelChange {d ch off : Nat} : ChannelChange s (chkRead s d ch off) := by
  unfold chkRead
  split
  · exact channelChange_refl
  · exact modDdr_channelChange fun _ => Iff.rfl

theorem chkDrop_channelChange {d ch off : Nat} : ChannelChange s (chkDrop s d ch off) := by
  unfold chkDrop
  split
  · exact modDdr_channelChange fun _ => Iff.rfl
  · exact channelChange_refl

theorem countEcc_channelChange {d ch cls addr : Nat} : ChannelChange s (countEcc s d ch cls addr) := modDdr_channelChange fun _ => Iff.rfl

theorem channelFault_channelChange {d ch : Nat} : ChannelChange s (channelFault s d ch) := by
  unfold channelFault
  extract_lets c
  split
  · exact channelChange_refl
  next hfault =>
    have hst : c.st ≠ .retired := fun h => hfault (.inr h)
    refine setDdr_channelChange (iff_of_false ?_ hst)
    dsimp only
    split
    · simp
    · exact hst

theorem dramMark_dramChange {d ch off : Nat} : DramChange s (dramMark s d ch off) := by
  unfold dramMark
  extract_lets k
  split
  · exact dramChange_refl
  · exact ⟨rfl, sameRetired_refl⟩

theorem setBlkFlips_dramChange {d ch off : Nat} {f : BitVec 512 × BitVec 64} : DramChange s (setBlkFlips s d ch off f) := by
  unfold setBlkFlips
  exact ⟨rfl, sameRetired_refl⟩

theorem putBlk_dramChange {d ch off : Nat} {v : BitVec 512} {bad : Bool} {f : BitVec 512 × BitVec 64} :
    DramChange s (putBlk s d ch off v bad f) := by
  unfold putBlk
  extract_lets base s1
  have h1 : DramChange s s1 := ⟨rfl, sameRetired_refl⟩
  refine (h1.trans ?_).trans setBlkFlips_dramChange
  split
  · exact dramMark_dramChange
  · exact ⟨rfl, sameRetired_refl⟩

theorem blkHold_dramChange {d ch off : Nat} {v : BitVec 512} {bad : Bool} : DramChange s (blkHold s d ch off v bad) := by
  unfold blkHold
  extract_lets base o f same s1
  have h1 : DramChange s s1 := putBlk_dramChange
  refine h1.trans (ChannelChange.dramChange (modDdr_channelChange ?_))
  exact fun _ => Iff.rfl

theorem badRead_dramChange {d ch off : Nat} {misdirected : Bool} {v : BitVec 512} : DramChange s (badRead s d ch off misdirected v) := by
  unfold badRead
  extract_lets base s1 o s2
  have h2 : DramChange s1 s2 := by
    unfold s2
    split
    · exact putBlk_dramChange
    · exact putBlk_dramChange
  exact (countEcc_channelChange.dramChange.trans h2).trans (chkDrop_channelChange.trans channelFault_channelChange).dramChange

theorem blkRead_dramChange {d ch off : Nat} {xf : BitVec 512} {xr : BitVec 64} : DramChange s (blkRead s d ch off xf xr) := by
  unfold blkRead
  extract_lets r plain s1 hold
  have hread : DramChange s s1 := chkRead_channelChange.dramChange
  have hhold : ∀ {w v bad}, DramChange s w → DramChange s (hold w v bad) := fun {w v bad} hw => by
    unfold hold
    split
    · exact hw.trans blkHold_dramChange
    · exact hw
  split
  · exact hread
  · split
    · exact hhold hread
    · exact hhold (hread.trans countEcc_channelChange.dramChange)
    · exact hhold (hread.trans countEcc_channelChange.dramChange)
    · exact hhold hread
    · exact hread.trans badRead_dramChange
    · exact hread.trans badRead_dramChange

theorem dramTouch_dramChange {d a n : Nat} : DramChange s (dramTouch s d a n) :=
  List.foldlRecOn _ _ dramChange_refl fun _ hu _ _ => hu.trans blkRead_dramChange

theorem dramPut_dramChange {d a : Nat} {b : Byte} : DramChange s (dramPut s d a b) :=
  List.foldlRecOn (motive := DramChange s) _ _ dramChange_refl fun _ hu _ _ => ⟨hu.rest, hu.retired⟩

theorem blkOpen_dramChange {d ch off : Nat} {whole : Bool} : DramChange s (blkOpen s d ch off whole) := by
  refine DramChange.trans ?_ chkDrop_channelChange.dramChange
  split
  · exact dramChange_refl
  · exact blkRead_dramChange

theorem blkClose_dramChange {d ch off : Nat} {whole : Bool} : DramChange s (blkClose s d ch off whole) := by
  unfold blkClose
  extract_lets s1
  have h1 : DramChange s s1 := by
    unfold s1
    split
    · exact dramChange_refl
    · exact setBlkFlips_dramChange
  split
  · exact ⟨h1.rest, h1.retired⟩
  · exact h1

/-! ### A write in its three passes -/

/-- An operation on every place of every block that `n` bytes from `a` touch: the blocks are opened and closed so. -/
def onBlks (d a n : Nat) (f : State → Nat → Nat → Nat → Bool → State) (s : State) : State :=
  (blksOf a n).foldl (fun s p => (dramPlaces s d p).foldl (fun s m => f s d m.1 m.2 (coversBlk a n p)) s) s

/-- The first `n` bytes of a string put from address `a` up. -/
def putBytes (d a : Nat) (bs : List Byte) (n : Nat) (s : State) : State :=
  (List.range n).foldl (fun s j => dramPut s d (a + j) (byteAt bs j)) s

/-- A write opens its blocks, puts its bytes and closes its blocks (R308). -/
theorem dramWr_eq (s : State) (d a : Nat) (bs : List Byte) :
    dramWr s d a bs = onBlks d a bs.length blkClose (putBytes d a bs bs.length (onBlks d a bs.length blkOpen s)) := rfl

theorem onBlks_keeps {P : State → Prop} {d a n : Nat} {f : State → Nat → Nat → Nat → Bool → State}
    (hf : ∀ v ch off whole, P v → P (f v d ch off whole)) (hs : P s) : P (onBlks d a n f s) :=
  List.foldlRecOn _ _ hs fun _ hv _ _ => List.foldlRecOn _ _ hv fun w hw m _ => hf w m.1 m.2 _ hw

theorem putBytes_succ (d a : Nat) (bs : List Byte) (n : Nat) (s : State) :
    putBytes d a bs (n + 1) s = dramPut (putBytes d a bs n s) d (a + n) (byteAt bs n) := by
  simp only [putBytes, List.range_succ, List.foldl_append, List.foldl_cons, List.foldl_nil]

theorem putBytes_dramChange {d a n : Nat} {bs : List Byte} : DramChange s (putBytes d a bs n s) :=
  List.foldlRecOn _ _ dramChange_refl fun _ hu _ _ => hu.trans dramPut_dramChange

theorem dramWr_dramChange {d a : Nat} {bs : List Byte} : DramChange s (dramWr s d a bs) := by
  rw [dramWr_eq]
  refine onBlks_keeps (fun _ _ _ _ hv => hv.trans blkClose_dramChange) (DramChange.trans ?_ putBytes_dramChange)
  exact onBlks_keeps (fun _ _ _ _ hv => hv.trans blkOpen_dramChange) dramChange_refl

@[simp] theorem compAt_dramWr (d a : Nat) (bs : List Byte) (i : Nat) : compAt (dramWr s d a bs) i = compAt s i :=
  by
  rw [compAt, dramWr_dramChange.comps, compAt]

/-! ### Bytes written read back (R305, R322) -/

theorem ddrRetired_congr (h : SameRetired s t) (d ch : Nat) : ddrRetired t d ch = ddrRetired s d ch := by
  refine Bool.eq_iff_iff.mpr ?_
  simp only [ddrRetired, beq_iff_eq]
  exact h _

theorem dramMap_congr (h : SameRetired s t) (d a : Nat) : dramMap t d a = dramMap s d a := by
  simp only [dramMap, ddrRetired_congr h]

theorem dramPlaces_congr (h : SameRetired s t) (d a : Nat) : dramPlaces t d a = dramPlaces s d a := by
  simp only [dramPlaces, dramMap_congr h, ddrRetired_congr h]

theorem dramByte_congr (hdram : t.dram = s.dram) (h : SameRetired s t) (d a : Nat) : dramByte t d a = dramByte s d a := by
  simp only [dramByte, dramMap_congr h, hdram]

theorem dramRd_congr (hdram : t.dram = s.dram) (h : SameRetired s t) (d a n : Nat) : dramRd t d a n = dramRd s d a n := by
  simp only [dramRd, dramByte_congr hdram h]

theorem dramBad_congr (hpoison : t.dramPoison = s.dramPoison) (h : SameRetired s t) (d a : Nat) : dramBad t d a = dramBad s d a := by
  simp only [dramBad, blkBad, dramMap_congr h, hpoison]

/-- The DRAM after a byte is put: both copies in the management region while both channels work, else the one place. -/
theorem dramPut_dram (s : State) (d a : Nat) (b : Byte) : (dramPut s d a b).dram =
    if a < mgtRegion ∧ !ddrRetired s d 0 ∧ !ddrRetired s d 1 then wr (wr s.dram (dramKey d 0 a) b) (dramKey d 1 a) b
    else wr s.dram (dramKey d (dramMap s d a).1 (dramMap s d a).2) b := by
  unfold dramPut dramPlaces
  split <;> rfl

theorem dramKey_eq (d ch off : Nat) : dramKey d ch off = 8589934592 * ddrIx d ch + off := by norm_num [dramKey]

/-- While both channels work, units of 512 bytes above the management region lie in them by turns (R305). -/
theorem dramMap_interleaved {d x : Nat} (h0 : ddrRetired s d 0 = false) (h1 : ddrRetired s d 1 = false) (hx : mgtRegion ≤ x) :
    ∃ q c r, c < 2 ∧ r < 512 ∧ x = mgtRegion + 1024 * q + 512 * c + r ∧ dramMap s d x = (c, mgtRegion + 512 * q + r) := by
  refine ⟨(x - mgtRegion) / 512 / 2, (x - mgtRegion) / 512 % 2, (x - mgtRegion) % 512, by omega, by omega, by omega, ?_⟩
  simp only [dramMap, h0, h1, Bool.false_eq_true, if_false, if_neg (Nat.not_lt.mpr hx)]

/-- A management address stands first in channel 0. -/
theorem dramMap_low {d x : Nat} (h0 : ddrRetired s d 0 = false) (h1 : ddrRetired s d 1 = false) (hx : x < mgtRegion) :
    dramMap s d x = (0, x) := by
  simp only [dramMap, h0, h1, Bool.false_eq_true, if_false, if_pos hx]

/-- Addresses less than 4 GiB apart stand in different bytes of the DRAM. -/
theorem dramKey_dramMap_inj {d a x : Nat} (hnear : x < a + 4294967296 ∧ a < x + 4294967296)
    (hkey : dramKey d (dramMap s d x).1 (dramMap s d x).2 = dramKey d (dramMap s d a).1 (dramMap s d a).2) : x = a := by
  simp only [dramKey_eq, ddrIx] at hkey
  cases h0 : ddrRetired s d 0 with
  | true => simpa [dramMap, h0] using hkey
  | false => cases h1 : ddrRetired s d 1 with
    | true => simpa [dramMap, h0, h1] using hkey
    | false =>
      rcases Nat.lt_or_ge x mgtRegion with hx | hx <;> rcases Nat.lt_or_ge a mgtRegion with ha | ha
      · simpa [dramMap_low h0 h1 hx, dramMap_low h0 h1 ha] using hkey
      · obtain ⟨q, c, r, hc, hr, -, hmap⟩ := dramMap_interleaved h0 h1 ha
        simp only [dramMap_low h0 h1 hx, hmap] at hkey
        interval_cases c <;> simp only [mgtRegion] at * <;> omega
      · obtain ⟨q, c, r, hc, hr, -, hmap⟩ := dramMap_interleaved h0 h1 hx
        simp only [dramMap_low h0 h1 ha, hmap] at hkey
        interval_cases c <;> simp only [mgtRegion] at * <;> omega
      · obtain ⟨q, c, r, hc, hr, hxeq, hmap⟩ := dramMap_interleaved h0 h1 hx
        obtain ⟨q', c', r', hc', hr', haeq, hmap'⟩ := dramMap_interleaved h0 h1 ha
        simp only [hmap, hmap'] at hkey
        interval_cases c <;> interval_cases c' <;> omega

/-- The second copy of a management address is no first place of an address near it. -/
theorem dramKey_dramMap_ne_copy {d a x : Nat} (hnear : x < a + 4294967296) (ha : a < mgtRegion) (h0 : ddrRetired s d 0 = false)
    (h1 : ddrRetired s d 1 = false) : dramKey d (dramMap s d x).1 (dramMap s d x).2 ≠ dramKey d 1 a := by
  simp only [dramKey_eq, ddrIx]
  rcases Nat.lt_or_ge x mgtRegion with hx | hx
  · rw [dramMap_low h0 h1 hx]
    simp only [mgtRegion] at *
    omega
  · obtain ⟨q, c, r, hc, hr, hxeq, hmap⟩ := dramMap_interleaved h0 h1 hx
    rw [hmap]
    interval_cases c <;> simp only [mgtRegion] at * <;> omega

/-- A byte put reads back, and the bytes near it read as before. -/
theorem dramByte_dramPut {d a x : Nat} {b : Byte} (hnear : x < a + 4294967296 ∧ a < x + 4294967296) :
    dramByte (dramPut s d a b) d x = if x = a then b else dramByte s d x := by
  have hmap : dramMap (dramPut s d a b) d x = dramMap s d x := dramMap_congr dramPut_dramChange.retired d x
  have hone : rd (wr s.dram (dramKey d (dramMap s d a).1 (dramMap s d a).2) b) (dramKey d (dramMap s d x).1 (dramMap s d x).2) =
      if x = a then b else dramByte s d x := by
    rw [rd_wr]
    exact if_congr ⟨dramKey_dramMap_inj hnear, fun h => by rw [h]⟩ rfl rfl
  unfold dramByte
  simp only [hmap, dramPut_dram]
  split
  next hcopies =>
    obtain ⟨ha, hfirst, hsecond⟩ := hcopies
    have h0 : ddrRetired s d 0 = false := by simpa using hfirst
    have h1 : ddrRetired s d 1 = false := by simpa using hsecond
    rw [dramMap_low h0 h1 ha] at hone
    rw [rd_wr, if_neg (dramKey_dramMap_ne_copy hnear.1 ha h0 h1), hone]
    rfl
  · exact hone

theorem dramByte_putBytes {d a n j : Nat} {bs : List Byte} (hn : n ≤ 4294967296) (hj : j < n) :
    dramByte (putBytes d a bs n s) d (a + j) = byteAt bs j := by
  induction n with
  | zero => omega
  | succ n ih =>
    rw [putBytes_succ, dramByte_dramPut (by omega)]
    split
    next heq => rw [show j = n by omega]
    next hne => exact ih (by omega) (by omega)

theorem blkClose_dram (s : State) (d ch off : Nat) (whole : Bool) : (blkClose s d ch off whole).dram = s.dram := by
  unfold blkClose
  extract_lets s1
  have h1 : s1.dram = s.dram := by
    unfold s1 setBlkFlips
    split
    · rfl
    · rfl
  split
  · exact h1
  · exact h1

theorem dramByte_blkClose {d ch off : Nat} {whole : Bool} (e x : Nat) : dramByte (blkClose s d ch off whole) e x = dramByte s e x :=
  dramByte_congr (blkClose_dram _ _ _ _ _) blkClose_dramChange.retired e x

/-- A string written reads back whole. -/
theorem dramRd_dramWr {d a : Nat} {bs : List Byte} (hlen : bs.length ≤ 4294967296) : dramRd (dramWr s d a bs) d a bs.length = bs := by
  have hbyte : ∀ j < bs.length, dramByte (dramWr s d a bs) d (a + j) = byteAt bs j := fun j hj => by
    rw [dramWr_eq]
    exact onBlks_keeps (P := fun v => dramByte v d (a + j) = byteAt bs j) (fun _ _ _ _ hv => (dramByte_blkClose d _).trans hv)
      (dramByte_putBytes hlen hj)
  refine List.ext_getElem (by simp [dramRd]) fun j hj hlt => ?_
  simp [dramRd, hbyte j hlt, byteAt, hlt]

/-! ### Reads and writes while no bit stands flipped -/

/-- No bit of the DRAM stands flipped, nor of a check burst in a cache: `quietDram`, said of every channel. -/
structure ReadsPlain (s : State) : Prop where
  flips : s.dramFlips = []
  caches : ∀ i, ∀ q ∈ (ddrAt s i).chk, q.2 = []

theorem sget_mem_or {α : Type} (dflt : α) (m : Sparse α) (i : Nat) : sget dflt m i = dflt ∨ (i, sget dflt m i) ∈ m := by
  induction m with
  | nil => exact .inl rfl
  | cons p m ih =>
    obtain ⟨k, v⟩ := p
    unfold sget
    split
    next hk => exact .inr (by simp [hk])
    · exact ih.imp_right (List.mem_cons_of_mem _)

theorem readsPlain_of_quietDram (h : quietDram s = true) : ReadsPlain s := by
  simp only [quietDram, Bool.and_eq_true, beq_iff_eq, List.all_eq_true] at h
  obtain ⟨hflips, hchk⟩ := h
  refine ⟨hflips, fun i q hq => ?_⟩
  rcases sget_mem_or {} s.ddr i with hdflt | hmem
  · rw [ddrAt, hdflt] at hq
    cases hq
  · exact hchk _ hmem q hq

theorem blkFlips_of_noFlips (h : s.dramFlips = []) (d ch off : Nat) : blkFlips s d ch off = (0, 0) := by simp [blkFlips, h]

theorem recFlips_of_readsPlain (h : ReadsPlain s) (d ch off : Nat) : recFlips s d ch off = 0 := by
  obtain ⟨hflips, hchk⟩ := h
  unfold recFlips
  split
  next m hm =>
    unfold chkCached? at hm
    obtain ⟨q, hq, rfl⟩ := Option.map_eq_some_iff.mp hm
    rw [hchk _ q (List.mem_of_find?_eq_some hq)]
    rfl
  · rw [blkFlips_of_noFlips hflips]

/-- Such a read only brings the record into the cache. -/
theorem blkRead_of_readsPlain (h : ReadsPlain s) (d ch off : Nat) : blkRead s d ch off 0 0 = chkRead s d ch off := by
  unfold blkRead
  simp [blkFlips_of_noFlips h.flips, recFlips_of_readsPlain h]

theorem readsPlain_chkRead (h : ReadsPlain s) (d ch off : Nat) : ReadsPlain (chkRead s d ch off) := by
  obtain ⟨hflips, hchk⟩ := h
  unfold chkRead
  split
  · exact ⟨hflips, hchk⟩
  · refine ⟨hflips, fun i q hq => ?_⟩
    by_cases hi : i = ddrIx d ch
    · rw [modDdr, hi, ddrAt_setDdr] at hq
      rcases List.mem_cons.mp (List.mem_of_mem_take hq) with rfl | hold
      · simp [unitRecs, hflips]
      · exact hchk _ q hold
    · rw [modDdr, ddrAt_setDdr_other hi] at hq
      exact hchk i q hq

theorem dramTouch_of_readsPlain (h : ReadsPlain s) (d a n : Nat) :
    ChannelChange s (dramTouch s d a n) ∧ ReadsPlain (dramTouch s d a n) := by
  refine List.foldlRecOn (motive := fun v => ChannelChange s v ∧ ReadsPlain v) _ _ ⟨channelChange_refl, h⟩ fun v hv p _ => ?_
  obtain ⟨hsv, hplain⟩ := hv
  dsimp only
  rw [blkRead_of_readsPlain hplain]
  exact ⟨hsv.trans chkRead_channelChange, readsPlain_chkRead hplain _ _ _⟩

theorem blkOpen_of_noFlips (h : s.dramFlips = []) {d ch off : Nat} {whole : Bool} : ChannelChange s (blkOpen s d ch off whole) := by
  unfold blkOpen
  simp only [blkFlips_of_noFlips h, or_true, if_true]
  exact chkDrop_channelChange

theorem onBlks_blkOpen_of_noFlips (h : s.dramFlips = []) {d a n : Nat} : ChannelChange s (onBlks d a n blkOpen s) :=
  onBlks_keeps (P := ChannelChange s) (fun _ _ _ _ hv => hv.trans (blkOpen_of_noFlips (hv.dramFlips.trans h))) channelChange_refl

theorem blkClose_dramFlips (h : s.dramFlips = []) {d ch off : Nat} {whole : Bool} : (blkClose s d ch off whole).dramFlips = [] := by
  unfold blkClose
  simp only [blkFlips_of_noFlips h, if_true]
  split
  · exact h
  · exact h

theorem dramPut_dramFlips (d a : Nat) (b : Byte) : (dramPut s d a b).dramFlips = s.dramFlips :=
  List.foldlRecOn (motive := fun v : State => v.dramFlips = s.dramFlips) _ _ rfl fun _ hv _ _ => hv

theorem putBytes_dramFlips (d a n : Nat) (bs : List Byte) : (putBytes d a bs n s).dramFlips = s.dramFlips :=
  List.foldlRecOn (motive := fun v : State => v.dramFlips = s.dramFlips) _ _ rfl fun _ hv _ _ => (dramPut_dramFlips _ _ _).trans hv

theorem dramWr_dramFlips (h : s.dramFlips = []) (d a : Nat) (bs : List Byte) : (dramWr s d a bs).dramFlips = [] := by
  rw [dramWr_eq]
  refine onBlks_keeps (P := fun v => v.dramFlips = []) (fun _ _ _ _ hv => blkClose_dramFlips hv) ?_
  rw [putBytes_dramFlips, (onBlks_blkOpen_of_noFlips h).dramFlips, h]

theorem putBytes_dram_congr (hdram : t.dram = s.dram) (h : SameRetired s t) (d a n : Nat) (bs : List Byte) :
    (putBytes d a bs n t).dram = (putBytes d a bs n s).dram := by
  induction n with
  | zero => exact hdram
  | succ n ih =>
    have hret : SameRetired (putBytes d a bs n s) (putBytes d a bs n t) := fun i =>
      (putBytes_dramChange.retired i).trans ((h i).trans (putBytes_dramChange.retired i).symm)
    simp only [putBytes_succ, dramPut_dram, dramMap_congr hret, ddrRetired_congr hret, ih]

theorem onBlks_blkClose_dram (d a n : Nat) : (onBlks d a n blkClose s).dram = s.dram :=
  onBlks_keeps (P := fun v => v.dram = s.dram) (fun _ _ _ _ hv => (blkClose_dram _ _ _ _ _).trans hv) rfl

/-- What a write leaves in the DRAM does not depend on the channels' caches. -/
theorem dramWr_dram_congr (hs : s.dramFlips = []) (h : ChannelChange s t) (d a : Nat) (bs : List Byte) :
    (dramWr t d a bs).dram = (dramWr s d a bs).dram := by
  have hopenS := onBlks_blkOpen_of_noFlips hs (d := d) (a := a) (n := bs.length)
  have hopenT := h.trans (onBlks_blkOpen_of_noFlips (h.dramFlips.trans hs) (d := d) (a := a) (n := bs.length))
  simp only [dramWr_eq, onBlks_blkClose_dram]
  exact putBytes_dram_congr (hopenT.dram.trans hopenS.dram.symm) (fun i => (hopenT.retired i).trans (hopenS.retired i).symm) _ _ _ _

end Sys2Proof.Proofs
end

section
/-! PROOFS. The compressor (R98, R118-R123, R126): what ends a job, and the block of the page cache it leaves. -/

open Sys2Proof Sys2Proof.Machine Sys2Proof.Claims

namespace Sys2Proof.Proofs

variable {s : State}

/-! ### Registers and jobs of one compressor -/

theorem only_setComp {t : State} (d : Nat) (c : Compressor) (ht : t.comps = s.comps) : only d compAt s (setComp t d c) := fun j hj => by
  rw [compAt, setComp, ht]
  exact sget_sput_other _ _ _ _ _ hj

/-- A register access that arrives has its effect. -/
theorem hostReg_arrives {d : Nat} (f : State → State) (ha : arrives s d = true) : hostReg s d f = f s := by
  obtain ⟨hup, hreach⟩ : hostUp s = true ∧ dieReach s d = true := by simpa [arrives] using ha
  exact hostReg_reached s d f hup hreach

theorem dieOk_of_arrives {d : Nat} (ha : arrives s d = true) : dieOk s d = true := by
  obtain ⟨-, hok, -⟩ : hostUp s = true ∧ dieOk s d = true ∧ _ := by simpa [arrives, dieReach] using ha
  exact hok

theorem exec_cmpStart {d : Nat} (ha : arrives s d = true) : exec (.cmpStart d) s = .next (doCmpStart s d) :=
  congrArg Host.Outcome.next (hostReg_arrives _ ha)

theorem exec_cmpAbort {d : Nat} (ha : arrives s d = true) : exec (.cmpAbort d) s = .next (doCmpAbort s d) :=
  congrArg Host.Outcome.next (hostReg_arrives _ ha)

theorem exec_cmpJobEnd (d : Nat) (poisoned : Bool) : exec (.cmpJobEnd d poisoned) s = .next (doCmpJobEnd s d poisoned) := rfl

theorem exec_cacheCompressStart (d : Nat) : exec (.cacheCompressStart d) s = .next (doCacheCompressStart s d) := rfl

theorem hostReg_of_self {d : Nat} {f : State → State} (hf : f s = s) : hostReg s d f = s := by
  unfold hostReg
  split
  · exact hf
  · rfl

/-- START while no Dialect is active: a job begins with the settings of the registers, or START_IGN is set while one runs. -/
theorem doCmpStart_eq {d : Nat} (ha : arrives s d = true) (hd : s.dia.valid = false) :
    doCmpStart s d = modComp s d (fun c => if c.state = 1 then { c with startIgn := true }
      else { c with state := 1, jobKind := c.kind, jobDst := c.dst, jobLimit := c.limit, block := none, inp := [] }) := by
  unfold doCmpStart
  simp [dieOk_of_arrives ha, hd]

theorem doCmpStart_ignored (d : Nat) (hd : s.dia.valid = true) : doCmpStart s d = s := by
  unfold doCmpStart
  simp [hd]

theorem doCmpAbort_ignored (d : Nat) (hd : s.dia.valid = true) : doCmpAbort s d = s := by
  unfold doCmpAbort
  simp [hd]

theorem doCmpAbort_running {d : Nat} (ha : arrives s d = true) (hd : s.dia.valid = false) (hrun : (compAt s d).state = 1) :
    doCmpAbort s d = cmpStops s d 3 := by
  unfold doCmpAbort
  simp [dieOk_of_arrives ha, hd, hrun]

/-! ### How a job ends -/

theorem comps_cmpSpoils (s : State) (d : Nat) : (cmpSpoils s d).comps = s.comps := dramWr_dramChange.comps

@[simp] theorem compAt_cmpSpoils (s : State) (d i : Nat) : compAt (cmpSpoils s d) i = compAt s i := by
  rw [compAt, comps_cmpSpoils, compAt]

/-- The end of a job changes its compressor alone. -/
theorem cmpEnd_frame {t : State} {d res : Nat} {stream : List Byte} {icrc : Word} (ht : t.comps = s.comps) :
    cmpEnd t d res stream icrc = { t with comps := (cmpEnd t d res stream icrc).comps } ∧ only d compAt s (cmpEnd t d res stream icrc) :=
  ⟨rfl, only_setComp d _ ht⟩

theorem dramRd_cmpEnd {d res : Nat} {stream : List Byte} {icrc : Word} (t : State) (e a n : Nat) :
    dramRd (cmpEnd t d res stream icrc) e a n = dramRd t e a n := dramRd_congr rfl (fun _ => Iff.rfl) e a n

/-- A job that stops early leaves its output space and its ICRC free (assumption 4), and its compressor DONE with the result. -/
theorem cmpStops_spec (s : State) (d res : Nat) (hres : res ≠ 0) (hspace : res ≠ 1) :
    let t := cmpStops s d res
    t = { cmpSpoils s d with comps := t.comps, free := t.free } ∧ only d compAt s t ∧
      compAt t d = { compAt s d with state := 2, result := BitVec.ofNat 8 res, olen := 0, icrc := (compAt t d).icrc, ocrc := 0,
                                     block := none, inp := [] } := by
  refine ⟨rfl, only_setComp d _ (comps_cmpSpoils s d), ?_⟩
  have hcomp : compAt (drawFree (cmpSpoils s d)).2 d = compAt s d := compAt_cmpSpoils s d d
  simp [cmpStops, cmpEnd, modComp, hcomp, hres, hspace]

/-- The compressor's stream of the plane that the host has fed it. -/
def fedStream (c : Compressor) : List Byte := encodePlane (c.inp.take c.plane) (lineLen c.jobKind)

theorem doCmpJobEnd_idle {d : Nat} {poisoned : Bool} (hrun : (compAt s d).state ≠ 1) : doCmpJobEnd s d poisoned = s := by
  unfold doCmpJobEnd
  exact if_pos hrun

theorem doCmpJobEnd_poisoned {d : Nat} (hrun : (compAt s d).state = 1) (hhost : (compAt s d).block = none) :
    doCmpJobEnd s d true = cmpStops s d 2 := by
  unfold doCmpJobEnd
  simp [hrun, hhost]

theorem doCmpJobEnd_unfed {d : Nat} (hrun : (compAt s d).state = 1) (hhost : (compAt s d).block = none)
    (hfed : (compAt s d).inp.length < (compAt s d).plane) : doCmpJobEnd s d false = s := by
  unfold doCmpJobEnd
  simp [hrun, hhost, hfed]

theorem doCmpJobEnd_space {d : Nat} (hrun : (compAt s d).state = 1) (hhost : (compAt s d).block = none)
    (hfed : (compAt s d).plane ≤ (compAt s d).inp.length) (hlong : (compAt s d).jobLimit.toNat < (fedStream (compAt s d)).length) :
    doCmpJobEnd s d false = cmpEnd (cmpSpoils s d) d 1 [] (crc32c ((compAt s d).inp.take (compAt s d).plane)) := by
  unfold doCmpJobEnd
  simp only [hrun, hhost, Nat.not_lt.mpr hfed]
  exact if_pos hlong

theorem doCmpJobEnd_ok {d : Nat} (hrun : (compAt s d).state = 1) (hhost : (compAt s d).block = none)
    (hfed : (compAt s d).plane ≤ (compAt s d).inp.length) (hfits : (fedStream (compAt s d)).length ≤ (compAt s d).jobLimit.toNat) :
    doCmpJobEnd s d false = cmpEnd (dramWr s d (compAt s d).jobDst.toNat (fedStream (compAt s d))) d 0 (fedStream (compAt s d))
      (crc32c ((compAt s d).inp.take (compAt s d).plane)) := by
  unfold doCmpJobEnd
  simp only [hrun, hhost, Nat.not_lt.mpr hfed]
  exact if_neg (Nat.not_lt.mpr hfits)

/-- The end of a job that the host fed whole: OK with the stream at its destination, or FAIL_SPACE (R119, R121). -/
theorem cmpJobEnd_fed (s : State) (d : Nat) (hrun : (compAt s d).state = 1) (hhost : (compAt s d).block = none)
    (hfed : (compAt s d).plane ≤ (compAt s d).inp.length) :
    let c := compAt s d
    let plane := c.inp.take c.plane
    Runs (.cmpJobEnd d false) s (fun t => only d compAt s t ∧
      if (fedStream c).length ≤ c.jobLimit.toNat then
        t = { dramWr s d c.jobDst.toNat (fedStream c) with comps := t.comps } ∧
        (c.jobDst.toNat + (fedStream c).length ≤ dramEnd s d → dramRd t d c.jobDst.toNat (fedStream c).length = fedStream c) ∧
        compAt t d = { c with state := 2, result := 0, olen := BitVec.ofNat 17 (fedStream c).length, icrc := crc32c plane,
                              ocrc := crc32c (fedStream c), ok := satInc c.ok, inp := [] }
      else t = { cmpSpoils s d with comps := t.comps } ∧
        compAt t d = { c with state := 2, result := 1, olen := 0, icrc := crc32c plane, ocrc := 0, space := satInc c.space, inp := [] }) := by
  intro c plane
  by_cases hfits : (fedStream c).length ≤ c.jobLimit.toNat
  · refine ⟨_, (exec_cmpJobEnd d false).trans (congrArg _ (doCmpJobEnd_ok hrun hhost hfed hfits)), ?_⟩
    obtain ⟨hframe, honly⟩ := cmpEnd_frame (s := s) (d := d) (res := 0) (stream := fedStream c) (icrc := crc32c plane)
      (t := dramWr s d c.jobDst.toNat (fedStream c)) dramWr_dramChange.comps
    rw [if_pos hfits]
    refine ⟨honly, hframe, fun _ => ?_, ?_⟩
    · have hlen : (fedStream c).length ≤ 4294967296 := by have := c.jobLimit.isLt; omega
      exact (dramRd_cmpEnd _ _ _ _).trans (dramRd_dramWr hlen)
    · simp [cmpEnd, modComp, c, hhost, plane]
  · refine ⟨_, (exec_cmpJobEnd d false).trans (congrArg _ (doCmpJobEnd_space hrun hhost hfed (Nat.not_le.mp hfits))), ?_⟩
    obtain ⟨hframe, honly⟩ := cmpEnd_frame (s := s) (d := d) (res := 1) (stream := []) (icrc := crc32c plane) (comps_cmpSpoils s d)
    rw [if_neg hfits]
    refine ⟨honly, hframe, ?_⟩
    simp [cmpEnd, modComp, c, hhost, plane]

/-! ### Headers and placement -/

theorem length_natLE (n v : Nat) : (natLE n v).length = n := by
  induction n generalizing v with
  | zero => rfl
  | succ n ih => simp [natLE, ih]

theorem length_header (b : Block) : b.header.length = 64 := by
  simp [Block.header, length_natLE]

/-- A block as the compressor leaves it: its header tells of the stream, which follows it (R98). -/
theorem recompressed_spec (b : Block) (bytes stream : List Byte) : let r := recompressed b bytes stream
    r.1.raw = false ∧ r.1.payloadLen = stream.length ∧ r.1.storedCrc = crc32c stream ∧ r.1.rawCrc = b.rawCrc ∧ r.1.id = b.id ∧
      r.1.kind = b.kind ∧ slice r.2 64 stream.length = stream := by
  refine ⟨rfl, rfl, rfl, rfl, rfl, rfl, ?_⟩
  unfold recompressed
  simp only [slice]
  rw [List.drop_left' (length_header _), List.take_left]

/-- What stands in the directory once a block is placed: the block, and of the others those not freed, one of its identity superseded (R93). -/
theorem mem_placeAt {d a : Nat} {b o : Block} {bytes : List Byte} (ho : o ∈ (placeAt s d a b bytes).blocks) :
    o = { b with die := d, addr := a, cached := false, old := false, bad := false } ∨
      ∃ p ∈ (dramWr s d a bytes).blocks, o = if p.id = b.id ∧ !p.cached then { p with old := true } else p := by
  have hmem := List.mem_of_mem_filter ho
  rcases List.mem_append.mp hmem with hold | hnew
  · obtain ⟨p, hp, rfl⟩ := List.mem_map.mp hold
    exact .inr ⟨p, hp, rfl⟩
  · exact .inl (List.mem_singleton.mp hnew)

theorem placed_mem_placeAt (s : State) (d a : Nat) (b : Block) (bytes : List Byte) :
    { b with die := d, addr := a, cached := false, old := false, bad := false } ∈ (placeAt s d a b bytes).blocks :=
  List.mem_filter.mpr ⟨List.mem_append_right _ (List.mem_singleton_self _), rfl⟩

/-- One identity names one placed block that is not superseded. -/
theorem placeAt_unique {d a : Nat} {b o : Block} {bytes : List Byte} (ho : o ∈ (placeAt s d a b bytes).blocks) (hid : o.id = b.id)
    (hcached : o.cached = false) (hold : o.old = false) : o.die = d ∧ o.addr = a := by
  rcases mem_placeAt ho with rfl | ⟨p, -, rfl⟩
  · exact ⟨rfl, rfl⟩
  · split at hold
    · exact absurd hold (by simp)
    next hkeep =>
      rw [if_neg hkeep] at hid hcached
      exact absurd ⟨hid, by simp [hcached]⟩ hkeep

@[simp] theorem compAt_placeAt (d a : Nat) (b : Block) (bytes : List Byte) (i : Nat) : compAt (placeAt s d a b bytes) i = compAt s i :=
  compAt_dramWr d a bytes i

theorem state_cmpEnd (d res : Nat) (stream : List Byte) (icrc : Word) : (compAt (cmpEnd s d res stream icrc) d).state = 2 := by
  rw [cmpEnd, modComp, compAt_setComp]

/-! ### Places of the page cache freed -/

/-- While no job runs, freeing a place changes the directory alone. -/
theorem dropCached_idle {d a : Nat} (hidle : (compAt s d).state ≠ 1) :
    dropCached s d a = { s with blocks := s.blocks.filter (fun b => !(b.die == d && b.cached && b.addr == a)) } := by
  have hnot : ¬((compAt s d).state = 1 ∧ (compAt s d).block = some a) := fun h => hidle h.1
  simp only [dropCached, if_neg hnot]

theorem dropCached_of_absent {d a : Nat} (hidle : (compAt s d).state ≠ 1)
    (habsent : ∀ b ∈ s.blocks, (b.die == d && b.cached && b.addr == a) = false) :
    dropCached s d a = s := by
  rw [dropCached_idle hidle, List.filter_eq_self.mpr fun b hb => by rw [habsent b hb]; rfl]

/-- A block placed does not stand in the page cache again: freeing its old place a second time changes nothing. -/
theorem dropCached_placeAt_dropCached {d a dst : Nat} {b : Block} {bytes : List Byte} (hidle : (compAt s d).state ≠ 1) :
    dropCached (placeAt (dropCached s d a) d dst b bytes) d a = placeAt (dropCached s d a) d dst b bytes := by
  rw [dropCached_idle hidle]
  refine dropCached_of_absent (by rw [compAt_placeAt]; exact hidle) fun o ho => ?_
  rcases mem_placeAt ho with rfl | ⟨p, hp, rfl⟩
  · simp
  · rw [dramWr_dramChange.blocks] at hp
    have hgone : (p.die == d && p.cached && p.addr == a) = false := by
      simpa only [Bool.not_eq_true'] using (List.mem_filter.mp hp).2
    split
    · exact hgone
    · exact hgone

/-! ### Jobs on blocks of the page cache -/

/-- The start on the oldest cached block, with room in the page store (R98). -/
theorem doCacheCompressStart_room {d a : Nat} {b : Block} (hidle : (compAt s d).state ≠ 1) (hb : cachedBlock? s d = some b)
    (hroom : storeSpace s d b.blockLen = some a) :
    doCacheCompressStart s d = setComp s d { compAt s d with
      kind := kindCodes b.kind, dst := BitVec.ofNat 34 (a + 64), limit := BitVec.ofNat 17 (kindPlane b.kind - 64), state := 1,
      jobKind := kindCodes b.kind, jobDst := BitVec.ofNat 34 (a + 64), jobLimit := BitVec.ofNat 17 (kindPlane b.kind - 64),
      block := some b.addr, inp := [] } := by
  unfold doCacheCompressStart
  simp only [hidle, hb, hroom, if_false]

/-- Without room the block is refused NO_SPACE. -/
theorem doCacheCompressStart_full {d : Nat} {b : Block} (hidle : (compAt s d).state ≠ 1) (hb : cachedBlock? s d = some b)
    (hfull : storeSpace s d b.blockLen = none) :
    doCacheCompressStart s d = cacheLeft (dropCached s d b.addr) d b.addr (some 0x0B) := by
  unfold doCacheCompressStart
  simp only [hidle, hb, hfull, if_false]

theorem doCacheCompressStart_running {d : Nat} (hrun : (compAt s d).state = 1) : doCacheCompressStart s d = s := by
  unfold doCacheCompressStart
  exact if_pos hrun

theorem doCacheCompressStart_empty {d : Nat} (hnone : cachedBlock? s d = none) : doCacheCompressStart s d = s := by
  unfold doCacheCompressStart
  simp only [hnone, ite_self]

theorem cachedBlock?_eq_none {d : Nat} (h : ∀ b ∈ s.blocks, b.die = d → b.cached = false) : cachedBlock? s d = none := by
  refine List.find?_eq_none.mpr fun b hb hpick => ?_
  obtain ⟨hdie, hcached⟩ : b.die = d ∧ b.cached = true := by simpa using hpick
  exact absurd hcached (by simp [h b hb hdie])

theorem doCmpJobEnd_cached {d : Nat} {b : Block} {poisoned : Bool} (hrun : (compAt s d).state = 1) (hblk : (compAt s d).block = some b.addr)
    (hfind : s.blocks.find? (fun o => o.die == d && o.cached && o.addr == b.addr) = some b)
    (hready : dramWaits s d b.addr b.blockLen = false) : doCmpJobEnd s d poisoned = cacheJobEnd s d b poisoned := by
  unfold doCmpJobEnd
  simp [hrun, hblk, hfind, hready]

/-- A job whose source failed refuses its block CHECK (R122). -/
theorem cacheJobEnd_poisoned (s : State) (d : Nat) (b : Block) : cacheJobEnd s d b true =
    cacheLeft (dropCached (cmpStops (dramTouch s d b.addr b.blockLen) d 2) d b.addr) d b.addr (some 0x0C) := by
  unfold cacheJobEnd
  exact if_pos (.inl rfl)

/-- A job that read its whole plane: the block is placed raw where the stream does not fit, refused CHECK where the plane fails its RAW_CRC,
and else placed compressed (R98, R121, R122). -/
theorem cacheJobEnd_read {d : Nat} {b : Block}
    (hgood : ∀ j, j < kindPlane b.kind / 64 → dramBad (dramTouch s d b.addr b.blockLen) d (b.addr + 64 + 64 * j) = false) :
    let c := compAt s d
    let u := dramTouch s d b.addr b.blockLen
    let bytes := dramRd u d b.addr b.blockLen
    let plane := slice bytes 64 (kindPlane b.kind)
    let stream := encodePlane plane (lineLen (kindCodes b.kind))
    let ended := cmpEnd (dramWr u d c.jobDst.toNat stream) d 0 stream (crc32c plane)
    cacheJobEnd s d b false =
      if c.jobLimit.toNat < stream.length then
        cacheLeft (placeAt (dropCached (cmpEnd u d 1 [] (crc32c plane)) d b.addr) d (c.jobDst.toNat - 64) b bytes) d b.addr none
      else if crc32c plane ≠ b.rawCrc then cacheLeft (dropCached ended d b.addr) d b.addr (some 0x0C)
      else cacheLeft (placeAt (dropCached ended d b.addr) d (c.jobDst.toNat - 64)
        (recompressed b bytes stream).1 (recompressed b bytes stream).2) d b.addr none := by
  unfold cacheJobEnd
  have hidle : ∀ v res stream icrc, (compAt (cmpEnd v d res stream icrc) d).state ≠ 1 := fun v res stream icrc => by
    rw [state_cmpEnd]
    decide
  simp only [dropCached_placeAt_dropCached (hidle _ _ _ _)]
  refine if_neg ?_
  simpa using hgood

/-- Settles O20: the register's START and ABORT, the end of a job that the host started, by its result, and the end of one on a block of the
page cache, by what it read. -/
theorem compressorJobs : Obligations.CompressorJobs := by
  refine ⟨fun s d ha hd hidle => ?_, fun s d ha hd hrun => ?_, fun s d hd => ?_, fun s d ha hd hrun => ?_,
    fun s d hrun hhost hfed => cmpJobEnd_fed s d hrun hhost hfed, fun s d hrun hhost hfed => ?_, fun s d hrun hhost => ?_,
    fun s d b a hidle hb hroom => ?_, fun s d b hidle hb hfull => ?_, fun s d hrun => ?_, fun s d hnone => ?_,
    fun s d b hrun hblk hfind hready => ?_, recompressed_spec,
    fun s d a b bytes => ⟨placed_mem_placeAt s d a b bytes, fun o ho hid hcached hold => placeAt_unique ho hid hcached hold⟩⟩
  · refine ⟨_, exec_cmpStart ha, ?_⟩
    rw [doCmpStart_eq ha hd]
    refine ⟨rfl, only_setComp d _ rfl, ?_⟩
    rw [modComp, compAt_setComp, if_neg hidle]
  · refine ⟨_, exec_cmpStart ha, ?_⟩
    rw [doCmpStart_eq ha hd]
    refine ⟨rfl, only_setComp d _ rfl, ?_⟩
    rw [modComp, compAt_setComp, if_pos hrun]
  · exact ⟨congrArg _ (hostReg_of_self (doCmpStart_ignored d hd)), congrArg _ (hostReg_of_self (doCmpAbort_ignored d hd))⟩
  · refine ⟨_, exec_cmpAbort ha, ?_⟩
    rw [doCmpAbort_running ha hd hrun]
    exact cmpStops_spec s d 3 (by decide) (by decide)
  · exact congrArg _ (doCmpJobEnd_unfed hrun hhost hfed)
  · refine ⟨_, exec_cmpJobEnd d true, ?_⟩
    rw [doCmpJobEnd_poisoned hrun hhost]
    obtain ⟨hframe, honly, hcomp⟩ := cmpStops_spec s d 2 (by decide) (by decide)
    refine ⟨hframe, honly, hcomp.trans ?_⟩
    rw [hhost]
    rfl
  · refine ⟨_, exec_cacheCompressStart d, ?_⟩
    rw [doCacheCompressStart_room hidle hb hroom]
    exact ⟨rfl, only_setComp d _ rfl, compAt_setComp _ _ _⟩
  · exact congrArg _ (doCacheCompressStart_full hidle hb hfull)
  · exact congrArg _ (doCacheCompressStart_running hrun)
  · exact congrArg _ (doCacheCompressStart_empty (cachedBlock?_eq_none hnone))
  · simp only [exec_cmpJobEnd, doCmpJobEnd_cached hrun hblk hfind hready]
    refine ⟨congrArg _ (cacheJobEnd_poisoned s d b), fun hgood => ?_⟩
    rw [cacheJobEnd_read hgood]
    refine ⟨fun hlong => congrArg _ (if_pos hlong), fun hfits hcrc => congrArg _ ?_, fun hfits hcrc => congrArg _ ?_⟩
    · exact (if_neg (Nat.not_lt.mpr hfits)).trans (if_neg (not_not.mpr hcrc))
    · exact (if_neg (Nat.not_lt.mpr hfits)).trans (if_pos hcrc)

end Sys2Proof.Proofs
end

section
/-! PROOFS. Lines withheld (R28, R100, R273, R274): what a withheld line can change, and a block marked BAD. -/

open Sys2Proof Sys2Proof.Machine Sys2Proof.Claims

namespace Sys2Proof.Proofs

variable {s t : State}

/-- The state but for the clauses, their cells, the job's account of its copies and the event queues. -/
def offLines (s : State) : State := { s with clauses := [], cells := [], job := none, evqs := [] }

/-- Nothing but what `offLines` leaves out differs. It speaks of fields, so a change of one left out keeps it by definition, and for each
operation `f` below `f_lines` takes `LinesChange s t` to `LinesChange s (f t …)`. -/
def LinesChange (s t : State) : Prop := offLines t = offLines s

theorem LinesChange.blocks (h : LinesChange s t) : t.blocks = s.blocks := (congrArg State.blocks h :)

theorem LinesChange.dram (h : LinesChange s t) : t.dram = s.dram := (congrArg State.dram h :)

theorem modClause_lines {x : Nat} {f : Clause → Clause} (h : LinesChange s t) : LinesChange s (modClause t x f) := h

theorem modCell_lines {i : Nat} {f : Cell → Cell} (h : LinesChange s t) : LinesChange s (modCell t i f) := h

theorem logEv_lines {d code : Nat} {data : List Byte} (h : LinesChange s t) : LinesChange s (logEv t d code data) := h

theorem logRun_lines {r : Run} (h : LinesChange s t) : LinesChange s (logRun t r) := h

theorem flagCopy_lines {i cause lost : Nat} (h : LinesChange s t) : LinesChange s (flagCopy t i cause lost) := by
  unfold flagCopy
  split
  · exact h
  · split
    · exact h
    · exact h

theorem endRuns_lines {p : Run → Bool} (h : LinesChange s t) : LinesChange s (endRuns t p) := by
  unfold endRuns
  split
  · exact h
  next j _ =>
    have hruns : LinesChange s { t with job := some { j with runs := j.runs.filter (fun r => !p r) } } := h
    exact List.foldlRecOn (motive := LinesChange s) _ _ hruns fun _ hu _ _ => logRun_lines hu

theorem addRun_lines {i : Nat} {page copy : Word} {row strip cause line die : Nat} (h : LinesChange s t) :
    LinesChange s (addRun t i page copy row strip cause line die) := by
  unfold addRun
  extract_lets same t1 r
  have h1 : LinesChange s t1 := endRuns_lines h
  split
  · exact h1
  · split
    · exact h1
    · extract_lets r'
      split
      · exact h1
      · exact h1

theorem dropReplayed_lines {x n q : Nat} (h : LinesChange s t) : LinesChange s (dropReplayed t x n q) :=
  List.foldlRecOn (motive := LinesChange s) _ _ h fun _ hu _ _ => modCell_lines hu

theorem rewindDec_lines {x n absBand line : Nat} (h : LinesChange s t) : LinesChange s (rewindDec t x n absBand line) := by
  unfold rewindDec
  extract_lets c d t1
  have h1 : LinesChange s t1 := h
  split
  · exact h
  · split
    · exact dropReplayed_lines h1
    · exact h1

theorem wakeDec_lines {x n : Nat} (h : LinesChange s t) : LinesChange s (wakeDec t x n) := by
  unfold wakeDec
  split
  · exact rewindDec_lines h
  · exact h

theorem kickFollowers_lines {x : Nat} (h : LinesChange s t) : LinesChange s (kickFollowers t x) :=
  wakeDec_lines (wakeDec_lines (modClause_lines h))

theorem startRerun_lines {x L : Nat} (h : LinesChange s t) : LinesChange s (startRerun t x L) := by
  unfold startRerun
  extract_lets c
  split
  · exact h
  · split
    · exact h
    · exact rewindDec_lines (rewindDec_lines (modClause_lines h))

theorem settleLine_lines {x : Nat} (h : LinesChange s t) : LinesChange s (settleLine t x) := by
  have hkick : LinesChange s (kickFollowers t x) := kickFollowers_lines h
  unfold settleLine nextRerun
  extract_lets c
  split
  · exact hkick
  · split
    · exact startRerun_lines hkick
    · exact hkick

theorem withholdLine_lines {x L cause : Nat} {ready : Bool} (h : LinesChange s t) : LinesChange s (withholdLine t x L cause ready) := by
  unfold withholdLine
  extract_lets c drop t1
  have h1 : LinesChange s t1 := modClause_lines h
  split
  · exact h
  · extract_lets t2 t3
    have h2 : LinesChange s t2 := by
      unfold t2
      split
      · exact modClause_lines h1
      · exact h1
    have h3 : LinesChange s t3 := by
      unfold t3
      split
      · split
        · exact h2
        · exact addRun_lines (flagCopy_lines h2)
      · exact h2
    split
    · exact h
    · exact settleLine_lines h3

theorem withholdBad_lines {x absBand : Nat} (h : LinesChange s t) : LinesChange s (withholdBad t x absBand) :=
  List.foldlRecOn (motive := LinesChange s) _ _ h fun _ hu _ _ => withholdLine_lines hu

/-! ### A block marked BAD -/

/-- The block as it stands once `b` is marked BAD. -/
def markedBad (b o : Block) : Block := if o.die = b.die ∧ o.addr = b.addr ∧ o.id = b.id then { o with bad := true } else o

theorem markedBad_bad {b o : Block} (hdie : (markedBad b o).die = b.die) (haddr : (markedBad b o).addr = b.addr)
    (hid : (markedBad b o).id = b.id) : (markedBad b o).bad = true := by
  unfold markedBad at *
  split
  · rfl
  next hother =>
    rw [if_neg hother] at hdie haddr hid
    exact absurd ⟨hdie, haddr, hid⟩ hother

/-- Marking a block BAD marks its entry, and for the rest withholds lines alone. -/
theorem markBad_lines {b : Block} (hbad : b.bad = false) : LinesChange { s with blocks := s.blocks.map (markedBad b) } (markBad s b) := by
  unfold markBad
  rw [if_neg (by simp [hbad])]
  extract_lets f t1 t2
  have h2 : LinesChange { s with blocks := s.blocks.map (markedBad b) } t2 := logEv_lines rfl
  exact List.foldlRecOn (motive := LinesChange _) _ _ h2 fun _ hu _ _ =>
    List.foldlRecOn (motive := LinesChange _) _ _ hu fun _ hv _ _ =>
      List.foldlRecOn (motive := LinesChange _) _ _ hv fun _ hw _ _ => withholdBad_lines hw

end Sys2Proof.Proofs
end

section
/-! PROOFS. The page store at work (R86, R87, R95, R96, R100, R112, R257, R258, R319): blocks that move, and the band fetch. -/

open Sys2Proof Sys2Proof.Machine Sys2Proof.Claims

namespace Sys2Proof.Proofs

variable {s u : State}

/-! ### A block that moves (R96) -/

/-- A directory entry once block `b` at `src` has moved to `dst`. -/
def movedBlock (d src dst : Nat) (b o : Block) : Block := if o.die = d ∧ o.addr = src ∧ o.id = b.id then { o with addr := dst } else o

/-- Where a block may move: whole granules of the page store, clear of every run taken and of its own place. -/
def freeFor (s : State) (d src dst len : Nat) : Prop :=
  dst % 64 = 0 ∧ storeBase ≤ dst ∧ dst + len ≤ dramEnd s d ∧
    ((takenRuns s d false).filter (fun r => r.1 ≠ src)).all (fun r => dst + len ≤ r.1 || r.1 + r.2 ≤ dst) = true ∧
    (dst + len ≤ src ∨ src + len ≤ dst)

/-- The bytes of a run of the DRAM copied to another place. -/
def copyRun (s : State) (d src dst len : Nat) : State := dramWr (dramTouch s d src len) d dst (dramRd (dramTouch s d src len) d src len)

theorem exec_blockMove (d src dst : Nat) : exec (.blockMove d src dst) s = .next (doBlockMove s d src dst) := rfl

theorem doBlockMove_stays {d src dst : Nat}
    (h : ∀ b, s.blocks.find? (fun o => o.die == d && !o.cached && !o.old && o.addr == src && o.addr != 0) = some b →
      ¬ freeFor s d src dst (pad64 b.blockLen)) : doBlockMove s d src dst = s := by
  unfold doBlockMove
  split
  · rfl
  next b hb => exact if_neg (h b hb)

/-- A block none of whose granules reads poisoned moves to free space. -/
theorem doBlockMove_moves {d src dst : Nat} {b : Block}
    (hfind : s.blocks.find? (fun o => o.die == d && !o.cached && !o.old && o.addr == src && o.addr != 0) = some b)
    (hfree : freeFor s d src dst (pad64 b.blockLen))
    (hclean : ∀ g, g < pad64 b.blockLen / 64 → dramBad (dramTouch s d src (pad64 b.blockLen)) d (src + 64 * g) = false) :
    doBlockMove s d src dst =
      let v := copyRun s d src dst (pad64 b.blockLen)
      { v with
        blocks := v.blocks.map (movedBlock d src dst b),
        clauses := v.clauses.map (fun c =>
          (c.1, { c.2 with input := c.2.input.map (fun i => { i with block := movedBlock d src dst b i.block }) })) } := by
  have hbad : (List.range (pad64 b.blockLen / 64)).filter (fun g => dramBad (dramTouch s d src (pad64 b.blockLen)) d (src + 64 * g)) = [] := by
    simpa using hclean
  unfold doBlockMove
  simp only [hfind]
  refine (if_pos hfree).trans ?_
  rw [hbad]
  rfl

/-- While no bit stands flipped, a copied run changes the DRAM, its poison and the channels alone, and leaves in the DRAM what writing the
bytes at once would. -/
theorem copyRun_spec (hplain : ReadsPlain s) (d src dst len : Nat) : let t := copyRun s d src dst len
    t = { s with dram := t.dram, dramPoison := t.dramPoison, ddr := t.ddr } ∧ t.dram = (dramWr s d dst (dramRd s d src len)).dram := by
  obtain ⟨htouch, htplain⟩ := dramTouch_of_readsPlain hplain d src len
  have hchange : DramChange s (copyRun s d src dst len) := htouch.dramChange.trans dramWr_dramChange
  have hflips : (copyRun s d src dst len).dramFlips = s.dramFlips := (dramWr_dramFlips htplain.flips _ _ _).trans hplain.flips.symm
  refine ⟨?_, ?_⟩
  · have heq := hchange.eq_with
    rwa [hflips] at heq
  · rw [copyRun, dramRd_congr htouch.dram htouch.retired]
    exact dramWr_dram_congr hplain.flips htouch _ _ _

theorem blockMoveCopies : BlockMoveCopies := by
  refine ⟨fun s d src dst b hquiet hfind halign hlow hhigh hclear hapart hclean => ?_, fun s d src dst h => ?_⟩
  · have hplain := readsPlain_of_quietDram hquiet
    obtain ⟨htouch, -⟩ := dramTouch_of_readsPlain hplain d src (pad64 b.blockLen)
    obtain ⟨hframe, hdram⟩ := copyRun_spec hplain d src dst (pad64 b.blockLen)
    refine ⟨_, (exec_blockMove d src dst).trans (congrArg _ (doBlockMove_moves hfind ⟨halign, hlow, hhigh, hclear, hapart⟩ ?_)), ?_, hdram, ?_⟩
    · exact fun g hg => (dramBad_congr htouch.dramPoison htouch.retired d _).trans (hclean g hg)
    · dsimp only
      rw [hframe]
    · dsimp only
      rw [hframe]
      rfl
  · refine congrArg _ (doBlockMove_stays fun b hb hfree => ?_)
    obtain ⟨halign, hlow, hhigh, -, -⟩ := hfree
    rcases h b hb with hd | hd | hd
    · exact hd halign
    · exact absurd hlow (Nat.not_le.mpr hd)
    · exact absurd hhigh (Nat.not_le.mpr hd)

/-! ### A granule fetched -/

theorem clauseAt_setClause_other {x y : Nat} {c : Clause} (h : y ≠ x) : clauseAt (setClause s x c) y = clauseAt s y :=
  sget_sput_other _ _ _ _ _ h

/-- A clause changed after reads of the DRAM. -/
theorem modClause_after_read (hu : ChannelChange s u) (x : Nat) (f : Clause → Clause) : let t := modClause u x f
    t = { s with clauses := t.clauses, ddr := t.ddr } ∧ clauseAt t x = f (clauseAt s x) ∧ ∀ y, y ≠ x → clauseAt t y = clauseAt s y := by
  have hclauses : u.clauses = s.clauses := (congrArg State.clauses hu.rest :)
  have hat : ∀ y, clauseAt u y = clauseAt s y := fun y => by rw [clauseAt, hclauses, clauseAt]
  refine ⟨?_, ?_, fun y hy => ?_⟩
  · exact congrArg (fun v : State => { v with clauses := (modClause u x f).clauses, ddr := u.ddr }) hu.rest
  · rw [modClause, clauseAt_setClause, hat]
  · rw [modClause, clauseAt_setClause_other hy, hat]

/-- An input with its next granule, of its mask or of its payload, appended as the DRAM holds it. -/
def withPiece (s : State) (i : BandIn) (m : Bool) : BandIn :=
  if m = true then { i with mask := i.mask ++ dramRd s i.block.die (i.block.addr + pieceAt i m) 64 }
  else { i with bytes := i.bytes ++ dramRd s i.block.die (i.block.addr + pieceAt i m) (min 64 (i.block.payloadLen - i.bytes.length)) }

/-- An input of a clause brought on by a granule; the clause waits for the mark no longer. -/
def pieceTaken (i i' : BandIn) (c : Clause) : Clause :=
  { c with input := c.input.map (fun j => if j = i then i' else j), rewindWait := false }

/-- A clean granule is appended (R86, R108); the last one of a mask passes MASK_CRC (R87). -/
theorem fetchPiece_clean {x : Nat} {i : BandIn} {m : Bool} (hplain : ReadsPlain s)
    (hgood : dramBad s i.block.die (i.block.addr + pieceAt i m) = false)
    (hmask : m = true → (withPiece s i m).mask.length = (withPiece s i m).maskLen → crc32c (withPiece s i m).mask = i.block.maskCrc) :
    fetchPiece s x i m = modClause (dramTouch s i.block.die (i.block.addr + pieceAt i m) 64) x (pieceTaken i (withPiece s i m)) := by
  obtain ⟨htouch, -⟩ := dramTouch_of_readsPlain hplain i.block.die (i.block.addr + pieceAt i m) 64
  unfold fetchPiece
  extract_lets at_ u bad bs first marks i' t1 t2
  have hbad : bad = false := (dramBad_congr htouch.dramPoison htouch.retired _ _).trans hgood
  have hpiece : i' = withPiece s i m := by
    have hread : ∀ n, dramRd u i.block.die (i.block.addr + pieceAt i m) n = dramRd s i.block.die (i.block.addr + pieceAt i m) n :=
      dramRd_congr htouch.dram htouch.retired _ _
    cases m <;> simp [i', withPiece, marks, hbad, bs, pieceBytes, hread]
  have ht2 : t2 = t1 := if_neg (by simp [hbad])
  have hcrc : ¬(m = true ∧ i'.mask.length = i'.maskLen ∧ crc32c i'.mask ≠ i.block.maskCrc) := by
    rw [hpiece]
    exact fun ⟨hm, hlen, hne⟩ => hne (hmask hm hlen)
  rw [if_neg hcrc, ht2]
  unfold t1
  rw [hpiece]
  rfl

/-- A granule of the payload that stands poisoned marks the block BAD (R100): its entry, and for the rest lines and channels. -/
theorem fetchPiece_poisoned {x : Nat} {i : BandIn} (hplain : ReadsPlain s)
    (hpoison : dramBad s i.block.die (i.block.addr + pieceAt i false) = true) (hbad : i.block.bad = false) :
    (fetchPiece s x i false).blocks = s.blocks.map (markedBad i.block) ∧ (fetchPiece s x i false).dram = s.dram := by
  obtain ⟨htouch, -⟩ := dramTouch_of_readsPlain hplain i.block.die (i.block.addr + pieceAt i false) 64
  unfold fetchPiece
  extract_lets at_ u bad bs first marks i' t1 t2
  have hread : bad = true := (dramBad_congr htouch.dramPoison htouch.retired _ _).trans hpoison
  have ht2 : t2 = markBad t1 i.block := if_pos hread
  rw [if_neg (by simp), ht2]
  have hlines : LinesChange { t1 with blocks := t1.blocks.map (markedBad i.block) } (markBad t1 i.block) := markBad_lines hbad
  have hblocks : t1.blocks = s.blocks := htouch.dramChange.blocks
  exact ⟨hlines.blocks.trans (by rw [hblocks]), hlines.dram.trans htouch.dram⟩

/-! ### A band opened -/

/-- The inputs that a band's blocks become, their headers read (R82). -/
def openedInputs (s : State) (b : Nat) (base : Block) (o : Option Block) : List BandIn :=
  [{ block := base, absBand := b, overlay := false, hdr := dramRd s base.die base.addr 64 }] ++
    o.toList.map (fun v => { block := v, absBand := b, overlay := true, hdr := dramRd s v.die v.addr 64 })

/-- A clause that has opened a band. -/
def bandOpened (ins : List BandIn) (b : Nat) (c : Clause) : Clause :=
  { c with input := c.input ++ ins, nextBand := b + 1, ovlWait := false }

theorem openInput_clean (hu : ChannelChange s u) {k : Block} (hgood : dramBad s k.die k.addr = false) (b : Nat) (ovl : Bool) :
    openInput u k b ovl = { block := k, absBand := b, overlay := ovl, hdr := dramRd s k.die k.addr 64 } := by
  simp [openInput, dramRd_congr hu.dram hu.retired, dramBad_congr hu.dramPoison hu.retired, hgood]

/-- The headers of some blocks read, one after another. -/
def headersRead (s : State) (ks : List Block) : State := ks.foldl (fun s o => dramTouch s o.die o.addr 64) s

theorem headersRead_of_readsPlain (hplain : ReadsPlain s) (ks : List Block) : ChannelChange s (headersRead s ks) := by
  suffices h : ∀ v, ChannelChange s v → ReadsPlain v → ChannelChange s (headersRead v ks) from h s channelChange_refl hplain
  induction ks with
  | nil => exact fun _ hv _ => hv
  | cons k ks ih =>
    intro v hv hvplain
    obtain ⟨htouch, htplain⟩ := dramTouch_of_readsPlain hvplain k.die k.addr 64
    exact ih _ (hv.trans htouch) htplain

theorem markPoisoned_of_clean {ks : List Block} (hgood : ∀ k ∈ ks, dramBad s k.die k.addr = false) :
    ks.foldl (fun s o => if dramBad s o.die o.addr then markBad s o else s) s = s :=
  List.foldlRecOn (motive := fun v => v = s) _ _ rfl fun v hv k hk => by
    subst hv
    exact if_neg (by simp [hgood k hk])

/-- A fetch that finds neither bands to go on with nor the overlay block, while its set is open, waits for it (R95). -/
theorem openBand_waits {x b : Nat} {j : Job} {g : SlotCfg} {base : Block} (hj : s.job = some j) (hg : clauseSlot? s x = some g)
    (hb : fetchBand? s x = some b) (hbase : heldBlock? s ⟨j.pageOf (b / 8192), 0, g.row, g.pos, b % 8192⟩ = some base)
    (hovl : (rowCfg s g.row).overlay = true)
    (hnone : heldBlock? s ⟨j.pageOf (b / 8192), BitVec.ofNat 32 (j.copyNo (b / 8192)), g.row, g.pos, b % 8192⟩ = none)
    (hopen : setOpen s j (b / 8192) = true) : openBand s x = setClause s x { clauseAt s x with ovlWait := true } := by
  unfold openBand
  simp only [hj, hg, hb, hbase, hovl, hnone, hopen, if_true, Option.isNone_none, and_self]
  rfl

/-- Clean blocks open the next band: the base, then the overlay block where there is one. -/
theorem openBand_opens {x b : Nat} {j : Job} {g : SlotCfg} {base : Block} {o : Option Block} (hj : s.job = some j)
    (hg : clauseSlot? s x = some g) (hb : fetchBand? s x = some b)
    (hbase : heldBlock? s ⟨j.pageOf (b / 8192), 0, g.row, g.pos, b % 8192⟩ = some base)
    (ho : (if (rowCfg s g.row).overlay = true then
      heldBlock? s ⟨j.pageOf (b / 8192), BitVec.ofNat 32 (j.copyNo (b / 8192)), g.row, g.pos, b % 8192⟩ else none) = o)
    (hready : (rowCfg s g.row).overlay = false ∨ o.isSome = true ∨ setOpen s j (b / 8192) = false) (hplain : ReadsPlain s)
    (hsound : ∀ k ∈ base :: o.toList, k.bad = false) (hgood : ∀ k ∈ base :: o.toList, dramBad s k.die k.addr = false)
    (hwork : ∀ k ∈ base :: o.toList, dramWaits s k.die k.addr 64 = false) :
    ∃ v, ChannelChange s v ∧ openBand s x = modClause v x (bandOpened (openedInputs s b base o) b) := by
  have hread := headersRead_of_readsPlain hplain (base :: o.toList)
  refine ⟨_, hread, ?_⟩
  have hmark : ∀ f, (base :: o.toList).foldl (fun s o => if dramBad s o.die o.addr then markBad s o else s)
      (modClause (headersRead s (base :: o.toList)) x f) = modClause (headersRead s (base :: o.toList)) x f := fun f =>
    markPoisoned_of_clean fun k hk => (dramBad_congr hread.dramPoison hread.retired _ _).trans (hgood k hk)
  have hnotwait : ¬((rowCfg s g.row).overlay = true ∧ o.isNone = true ∧ setOpen s j (b / 8192) = true) := by
    rintro ⟨hovl, hnone, hopen⟩
    rcases hready with h | h | h
    · simp [hovl] at h
    · rw [Option.isNone_iff_eq_none.mp hnone] at h
      cases h
    · simp [hopen] at h
  have htrains : ¬((base :: o.toList).any (fun k => dramWaits s k.die k.addr 64) = true) := by
    simpa only [List.any_eq_true, not_exists, not_and, Bool.not_eq_true] using hwork
  have hbad : ¬((base :: o.toList).any (fun k => k.bad) = true) := by
    simpa only [List.any_eq_true, not_exists, not_and, Bool.not_eq_true] using hsound
  unfold openBand
  simp only [hj, hg, hb, hbase, ho]
  rw [if_neg hnotwait, if_neg htrains, if_neg hbad]
  refine (hmark _).trans ?_
  have hopen : ∀ k ∈ base :: o.toList, ∀ ovl, openInput (headersRead s (base :: o.toList)) k b ovl =
      { block := k, absBand := b, overlay := ovl, hdr := dramRd s k.die k.addr 64 } :=
    fun k hk => openInput_clean hread (hgood k hk) b
  have hins : openInput (headersRead s (base :: o.toList)) base b false ::
      o.toList.map (fun k => openInput (headersRead s (base :: o.toList)) k b true) = openedInputs s b base o := by
    rw [hopen base List.mem_cons_self, List.map_congr_left fun k hk => hopen k (List.mem_cons_of_mem _ hk) true]
    rfl
  cases o <;> exact congrArg (fun ins => modClause _ x (bandOpened ins b)) hins

theorem exec_bandFetch (d k : Nat) : exec (.bandFetch d k) s = .next (doBandFetch s d k) := rfl

theorem exec_overlayFetchResume (d k : Nat) : exec (.overlayFetchResume d k) s = .next (doOverlayFetchResume s d k) := rfl

/-- An event that opens the next band of a clause. -/
theorem opensBand_of_openBand {ev : Instr} {x : Nat} (hev : exec ev s = .next (openBand s x)) : OpensBand ev s x := by
  intro j g b base hj hg hb hbase o hready hquiet hall
  obtain ⟨hsound, hrest⟩ := forall₂_and.mp hall
  obtain ⟨hgood, hwork⟩ := forall₂_and.mp hrest
  obtain ⟨v, hv, heq⟩ := openBand_opens (o := o) hj hg hb hbase rfl hready (readsPlain_of_quietDram hquiet) hsound hgood hwork
  obtain ⟨hframe, hclause, hothers⟩ := modClause_after_read hv x (bandOpened (openedInputs s b base o) b)
  refine ⟨_, hev.trans (congrArg _ heq), hframe, hothers, hclause.trans ?_⟩
  simp only [bandOpened, openedInputs, List.append_assoc]

/-! ### BAND_FETCH and OVERLAY_FETCH_RESUME -/

section Fetch

variable {d k : Nat} (hfetches : fetches s (clauseIx d k) = true)
  (hdone : (clauseAt s (clauseIx d k)).input.filter (inputDone s (clauseIx d k)) = [])

include hfetches hdone

/-- A fetch with no input done with goes by the next granule of the bands opened. -/
theorem doBandFetch_granule {i : BandIn} {m : Bool} (hnext : nextPiece? (clauseAt s (clauseIx d k)) = some (i, m)) :
    doBandFetch s d k =
      if ringRoom (clauseAt s (clauseIx d k)) < ringUsed s (clauseIx d k) + 64 then
        setClause s (clauseIx d k) { clauseAt s (clauseIx d k) with rewindWait := true }
      else if dramWaits s i.block.die (i.block.addr + pieceAt i m) 64 then s
      else fetchPiece s (clauseIx d k) i m := by
  have hprune : pruneInputs s (clauseIx d k) = s := if_pos hdone
  unfold doBandFetch
  simp only [hfetches, Bool.not_true, Bool.false_eq_true, if_false, hprune, hnext]
  rfl

theorem doBandFetch_opens (hnext : nextPiece? (clauseAt s (clauseIx d k)) = none) : doBandFetch s d k = openBand s (clauseIx d k) := by
  have hprune : pruneInputs s (clauseIx d k) = s := if_pos hdone
  unfold doBandFetch
  simp only [hfetches, Bool.not_true, Bool.false_eq_true, if_false, hprune, hnext]

/-- With room below the mark and its channel at work, the granule is fetched. -/
theorem doBandFetch_fetches {i : BandIn} {m : Bool} (hnext : nextPiece? (clauseAt s (clauseIx d k)) = some (i, m))
    (hroom : ringUsed s (clauseIx d k) + 64 ≤ ringRoom (clauseAt s (clauseIx d k)))
    (hready : dramWaits s i.block.die (i.block.addr + pieceAt i m) 64 = false) :
    doBandFetch s d k = fetchPiece s (clauseIx d k) i m := by
  rw [doBandFetch_granule hfetches hdone hnext, if_neg (Nat.not_lt.mpr hroom), if_neg (by simp [hready])]

end Fetch

theorem bandFetchCompletes : BandFetchCompletes := by
  refine ⟨fun s d k i m hfetches hdone hnext hroom hready hquiet hgood hmask => ?_,
    fun s d k i hfetches hdone hnext hroom hready hquiet hpoison hbad => ?_, fun s d k hfetches hdone hnext => ?_,
    fun s d k j g b base hfetches hdone hnext hj hg hb hbase hovl hnone hopen => ?_, fun s d k i m hfetches hdone hnext hfull => ?_,
    fun s d k i m hfetches hdone hnext hroom hwaits => ?_⟩
  · have hplain := readsPlain_of_quietDram hquiet
    obtain ⟨htouch, -⟩ := dramTouch_of_readsPlain hplain i.block.die (i.block.addr + pieceAt i m) 64
    obtain ⟨hframe, hclause, hothers⟩ := modClause_after_read htouch (clauseIx d k) (pieceTaken i (withPiece s i m))
    refine ⟨_, (exec_bandFetch d k).trans (congrArg _ ?_), hframe, hclause, hothers⟩
    rw [doBandFetch_fetches hfetches hdone hnext hroom hready, fetchPiece_clean hplain hgood hmask]
  · obtain ⟨hblocks, hdram⟩ := fetchPiece_poisoned (x := clauseIx d k) (readsPlain_of_quietDram hquiet) hpoison hbad
    refine ⟨_, (exec_bandFetch d k).trans (congrArg _ (doBandFetch_fetches hfetches hdone hnext hroom hready)), ?_, ?_, hdram⟩
    · intro o ho hdie haddr hid
      rw [hblocks] at ho
      obtain ⟨p, -, rfl⟩ := List.mem_map.mp ho
      exact markedBad_bad hdie haddr hid
    · rw [hblocks, List.length_map]
  · exact opensBand_of_openBand ((exec_bandFetch d k).trans (congrArg _ (doBandFetch_opens hfetches hdone hnext)))
  · rw [exec_bandFetch, doBandFetch_opens hfetches hdone hnext, openBand_waits hj hg hb hbase hovl hnone hopen]
  · rw [exec_bandFetch, doBandFetch_granule hfetches hdone hnext, if_pos hfull]
  · rw [exec_bandFetch, doBandFetch_granule hfetches hdone hnext, if_neg (Nat.not_lt.mpr hroom), if_pos hwaits]

theorem overlayFetchResumes : OverlayFetchResumes := by
  refine ⟨fun s d k hfetches hwait => ?_, fun s d k hwait => ?_⟩
  · exact opensBand_of_openBand ((exec_overlayFetchResume d k).trans (congrArg _ (if_pos ⟨hwait, hfetches⟩)))
  · exact congrArg _ (if_neg (by simp [hwait]))

/-! ### The rewind guard (R112, R258) -/

theorem exec_rewindGuardReached (d k : Nat) : exec (.rewindGuardReached d k) s = .next (doRewindGuardReached s d k) := rfl

theorem doRewindGuardReached_waits {d k : Nat}
    (h : (clauseAt s (clauseIx d k)).rewindWait = false ∨ guardReached s (clauseIx d k) = false) : doRewindGuardReached s d k = s := by
  unfold doRewindGuardReached
  exact if_pos (h.imp (fun hw => by rw [hw]; rfl) fun hg => by rw [hg]; rfl)

/-- A clause whose band has lost its mark: counted, its followers stopped in the band, its inputs without replay. -/
def markForfeited (b : Nat) (c : Clause) : Clause :=
  { c with rewindWait := false, rewind := satInc c.rewind, dec0 := c.dec0.markLost b, dec1 := c.dec1.markLost b,
           input := c.input.map (fun i => if i.absBand = b then { i with lost := true } else i) }

/-- The state in which the mark of a band is forfeited and logged. -/
def forfeitLogged (s : State) (x : Nat) (p : PLine) (g : SlotCfg) : State :=
  logEv (setClause s x (markForfeited p.absBand (clauseAt s x))) g.die 0x0012 (lineData p.page p.copy g.row 0 g.pos (64 * p.band) 64)

theorem clauseAt_forfeitLogged (s : State) (x : Nat) (p : PLine) (g : SlotCfg) :
    clauseAt (forfeitLogged s x p g) x = markForfeited p.absBand (clauseAt s x) := clauseAt_setClause _ _ _

theorem clauseSlot?_markForfeited (s : State) (x b : Nat) :
    clauseSlot? (setClause s x (markForfeited b (clauseAt s x))) x = clauseSlot? s x := by
  unfold clauseSlot?
  rw [clauseAt_setClause]
  rfl

/-- With no re-run in the band, the guard forfeits the mark and the fetch goes on with its granule. -/
theorem doRewindGuardReached_fetches {d k : Nat} {l : CLine} {p : PLine} {g : SlotCfg} {i : BandIn} {m : Bool}
    (hwait : (clauseAt s (clauseIx d k)).rewindWait = true) (hreached : guardReached s (clauseIx d k) = true)
    (holdest : oldestUnready? (clauseAt s (clauseIx d k)) = some (l, p)) (hslot : clauseSlot? s (clauseIx d k) = some g)
    (hquiet : (clauseAt s (clauseIx d k)).lines.all (fun n => !(n.ofBand p.absBand && (n.rerun || n.rerunWait) && !n.settled)) = true)
    (hnext : nextPiece? (markForfeited p.absBand (clauseAt s (clauseIx d k))) = some (i, m))
    (hready : dramWaits s i.block.die (i.block.addr + pieceAt i m) 64 = false) :
    doRewindGuardReached s d k = fetchPiece (forfeitLogged s (clauseIx d k) p g) (clauseIx d k) i m := by
  have hrun : ((clauseAt (forfeitLogged s (clauseIx d k) p g) (clauseIx d k)).lines.filter
      (fun n => n.ofBand p.absBand && (n.rerun || n.rerunWait) && !n.settled)) = [] := by
    rw [clauseAt_forfeitLogged]
    refine List.filter_eq_nil_iff.mpr fun n hn hpick => ?_
    have hnone := List.all_eq_true.mp hquiet n hn
    rw [hpick] at hnone
    exact absurd hnone (by decide)
  unfold doRewindGuardReached
  refine (if_neg (by simp [hwait, hreached])).trans ?_
  rw [holdest]
  dsimp -zeta only
  extract_lets b s1 s2 run s3
  have hs2 : s2 = forfeitLogged s (clauseIx d k) p g := by
    have hslot1 : clauseSlot? s1 (clauseIx d k) = some g := (clauseSlot?_markForfeited _ _ _).trans hslot
    unfold s2
    rw [hslot1]
    rfl
  have hrun0 : run = [] := by
    unfold run
    rw [hs2]
    exact congrArg (List.map _) hrun
  have hs3 : s3 = forfeitLogged s (clauseIx d k) p g := by
    unfold s3
    rw [hrun0]
    exact hs2
  rw [hs3, clauseAt_forfeitLogged, hnext]
  have hready3 : dramWaits (forfeitLogged s (clauseIx d k) p g) i.block.die (i.block.addr + pieceAt i m) 64 = false := hready
  exact if_neg (by simp [hready3])

theorem rewindGuardForfeitsMark : RewindGuardForfeitsMark := by
  refine ⟨fun s d k l p g hwait hreached holdest hslot hquiet hnoRerun i hnext hready hgood => ?_, fun s d k h => ?_⟩
  · have hplain : ReadsPlain (forfeitLogged s (clauseIx d k) p g) := readsPlain_of_quietDram hquiet
    obtain ⟨htouch, -⟩ := dramTouch_of_readsPlain hplain i.block.die (i.block.addr + pieceAt i false) 64
    obtain ⟨hframe, hclause, hothers⟩ := modClause_after_read htouch (clauseIx d k)
      (pieceTaken i (withPiece (forfeitLogged s (clauseIx d k) p g) i false))
    have hdo := (doRewindGuardReached_fetches hwait hreached holdest hslot hnoRerun hnext hready).trans
      (fetchPiece_clean hplain hgood fun hm => absurd hm Bool.false_ne_true)
    refine ⟨_, (exec_rewindGuardReached d k).trans (congrArg _ hdo), ?_, ?_, fun y hy => ?_, ?_⟩
    · rw [hframe]
      rfl
    · rw [hclause, clauseAt_forfeitLogged]
      rfl
    · exact (hothers y hy).trans (clauseAt_setClause_other hy)
    · rw [hframe]
      rfl
  · exact congrArg _ (doRewindGuardReached_waits h)

/-- Settles O51: each event by the state of the block, the clause or the granule that it finds. -/
theorem blocksMoveAndBandsAreFetched : Obligations.BlocksMoveAndBandsAreFetched :=
  ⟨blockMoveCopies, bandFetchCompletes, overlayFetchResumes, rewindGuardForfeitsMark⟩

end Sys2Proof.Proofs
end

section
/-! PROOFS. The one result of a compress job (R98, R121-R123, R126): what a job's end and an ABORT can leave in the compressor's registers,
and that nothing which follows the end touches them again. -/

open Sys2Proof Sys2Proof.Machine Sys2Proof.Claims

namespace Sys2Proof.Proofs

variable {s : State}

theorem compAt_congr {t : State} (h : t.comps = s.comps) (d : Nat) : compAt t d = compAt s d := by rw [compAt, h, compAt]

/-! ### Completions leave the compressors -/

@[simp] theorem comps_msix (v : Nat) : (msix s v).comps = s.comps := by
  simp only [msix, apply_ite State.comps, emit_comps, ite_self]

@[simp] theorem comps_postCq (c : Nat) (entry : List Byte) : (postCq s c entry).comps = s.comps := by
  simp only [postCq, signalCq, modCq, apply_ite State.comps, comps_msix, setCq_comps, emit_comps, ite_self]

theorem comps_putCq (c : Nat) (entry : List Byte) : (putCq s c entry).comps = s.comps := by
  unfold putCq
  split
  · exact comps_postCq c entry
  · rfl

theorem comps_complete (h : CmdHdr) (opcode status : Nat) (result : List Byte) : (complete s h opcode status result).comps = s.comps := by
  unfold complete
  split
  · extract_lets e t
    split
    · exact comps_putCq ..
    · rfl
  · exact comps_msix 5
  · rfl
  · rfl

/-! ### What leaves the page cache -/

/-- The state in which a stretch of LOAD_BLOCKS ends. -/
def loadStepState : LoadStep → State
  | .done t => t
  | .wait t _ => t

theorem comps_loadTail (w : LoadWait) : (loadStepState (loadTail s w)).comps = s.comps := by
  unfold loadTail
  split
  · rfl
  · split
    · exact comps_complete ..
    · refine (comps_complete ..).trans ?_
      split
      · split
        · unfold closeSet
          split <;> rfl
        · rfl
      · rfl

/-- Freeing a place of a page cache leaves a compressor that is not running. -/
theorem compAt_dropCached_idle {d : Nat} (hidle : (compAt s d).state ≠ 1) (e a : Nat) : compAt (dropCached s e a) d = compAt s d := by
  unfold dropCached
  extract_lets c t
  show compAt t d = compAt s d
  unfold t
  split
  next hjob =>
    obtain ⟨hrun, -⟩ := hjob
    obtain ⟨-, honly, -⟩ := cmpStops_spec s e 3 (by decide) (by decide)
    exact honly d fun hde => hidle (hde ▸ hrun)
  · rfl

theorem compAt_loadRefused_idle {d : Nat} (hidle : (compAt s d).state ≠ 1) (w : LoadWait) (c : CacheRef) (reason : Nat) :
    compAt (loadRefused s w c reason).1 d = compAt s d :=
  List.foldlRecOn (motive := fun t => compAt t d = compAt s d) _ _ rfl fun _ hu _ _ =>
    (compAt_dropCached_idle (hu ▸ hidle) _ _).trans hu

/-- A load that takes note of a block that has left its page cache leaves a compressor that is not running. -/
theorem compAt_cacheLeft_idle {d : Nat} (hidle : (compAt s d).state ≠ 1) (e a : Nat) (refused : Option Nat) :
    compAt (cacheLeft s e a refused) d = compAt s d := by
  unfold cacheLeft
  split
  · split
    · rfl
    next w _ c _ =>
      extract_lets others r
      have hr : compAt r.1 d = compAt s d := by
        unfold r
        split
        · exact compAt_loadRefused_idle hidle _ _ _
        · rfl
      have htail : (loadStepState (loadTail { r.1 with parked := others } r.2)).comps = r.1.comps := comps_loadTail _
      split
      · split
        all_goals
          rename_i heq
          rw [heq] at htail
          exact (compAt_congr htail d).trans hr
      · exact hr
  · rfl

/-! ### The one result -/

/-- DONE with a result that the job's own end gives: OK, FAIL_SPACE or FAIL_SOURCE. -/
def DoneByItself (c : Compressor) : Prop := c.state = 2 ∧ c.result.toNat ≤ 2

theorem DoneByItself.idle {c : Compressor} (h : DoneByItself c) : c.state ≠ 1 := by
  obtain ⟨hdone, -⟩ := h
  rw [hdone]
  decide

theorem cmpEnd_doneByItself {d res : Nat} {stream : List Byte} {icrc : Word} (hres : res ≤ 2) :
    DoneByItself (compAt (cmpEnd s d res stream icrc) d) := by
  refine ⟨state_cmpEnd d res stream icrc, ?_⟩
  rw [cmpEnd, modComp, compAt_setComp]
  rw [BitVec.toNat_ofNat]
  omega

/-- The block's leaving the page cache touches the registers no more. -/
theorem leftCache_doneByItself {d a : Nat} {refused : Option Nat} (h : DoneByItself (compAt s d)) :
    DoneByItself (compAt (cacheLeft (dropCached s d a) d a refused) d) := by
  have hdrop : compAt (dropCached s d a) d = compAt s d := compAt_dropCached_idle h.idle d a
  rw [compAt_cacheLeft_idle (hdrop ▸ h.idle), hdrop]
  exact h

/-- Nor does its being placed. -/
theorem placed_doneByItself {d a dst : Nat} {b : Block} {bytes : List Byte} (h : DoneByItself (compAt s d)) :
    DoneByItself (compAt (placeAt (dropCached s d a) d dst b bytes) d) := by
  rw [compAt_placeAt, compAt_dropCached_idle h.idle]
  exact h

/-- Every end of a job on a block of the page cache. -/
theorem cacheJobEnd_doneByItself (s : State) (d : Nat) (b : Block) (bad : Bool) : DoneByItself (compAt (cacheJobEnd s d b bad) d) := by
  unfold cacheJobEnd
  extract_lets c n u bytes plane icrc at_ left stream ended r
  split
  · exact leftCache_doneByItself (cmpEnd_doneByItself (by decide))
  · split
    · exact leftCache_doneByItself (placed_doneByItself (cmpEnd_doneByItself (by decide)))
    · have hended : DoneByItself (compAt ended d) := cmpEnd_doneByItself (by decide)
      split
      · exact leftCache_doneByItself hended
      · exact leftCache_doneByItself (placed_doneByItself hended)

/-- The end of a running job waits, for its plane or for DRAM, or is one of the job's own three. -/
theorem doCmpJobEnd_cases (s : State) (d : Nat) (poisoned : Bool) :
    doCmpJobEnd s d poisoned = s ∨ DoneByItself (compAt (doCmpJobEnd s d poisoned) d) := by
  unfold doCmpJobEnd
  extract_lets c plane stream
  split
  · exact .inl rfl
  · split
    · split
      · split
        · exact .inl rfl
        · exact .inr (cacheJobEnd_doneByItself _ _ _ _)
      · exact .inr (cmpEnd_doneByItself (by decide))
    · split
      · exact .inr (cmpEnd_doneByItself (by decide))
      · split
        · exact .inl rfl
        · split
          · exact .inr (cmpEnd_doneByItself (by decide))
          · exact .inr (cmpEnd_doneByItself (by decide))

theorem doCmpAbort_idle {d : Nat} (hidle : (compAt s d).state ≠ 1) : doCmpAbort s d = s := by
  unfold doCmpAbort
  exact if_pos (.inr (.inr hidle))

/-- An ABORT that does not reach a running job does nothing. -/
theorem doCmpAbort_cases (s : State) (d : Nat) :
    doCmpAbort s d = s ∨ ((compAt s d).state = 1 ∧ doCmpAbort s d = cmpStops s d 3) := by
  unfold doCmpAbort
  extract_lets c
  split
  · exact .inl rfl
  next h =>
    obtain ⟨-, -, hrun⟩ : dieOk s d = true ∧ s.dia.valid = false ∧ c.state = 1 := by simpa using h
    exact .inr ⟨hrun, rfl⟩

theorem hostReg_cases (s : State) (d : Nat) (f : State → State) : hostReg s d f = s ∨ hostReg s d f = f s := by
  unfold hostReg
  split
  · exact .inr rfl
  · exact .inl rfl

theorem exec_cmpAbort_hostReg (d : Nat) : exec (.cmpAbort d) s = .next (hostReg s d (fun s => doCmpAbort s d)) := rfl

/-- A job that the host started and has fed whole ends at its end, whether its source reads poisoned or not. -/
theorem doCmpJobEnd_fed_done {d : Nat} (hrun : (compAt s d).state = 1) (hhost : (compAt s d).block = none)
    (hfed : (compAt s d).plane ≤ (compAt s d).inp.length) (poisoned : Bool) : (compAt (doCmpJobEnd s d poisoned) d).state = 2 := by
  cases poisoned with
  | true =>
    rw [doCmpJobEnd_poisoned hrun hhost]
    exact state_cmpEnd _ _ _ _
  | false =>
    rcases Nat.lt_or_ge (compAt s d).jobLimit.toNat (fedStream (compAt s d)).length with hlong | hfits
    · rw [doCmpJobEnd_space hrun hhost hfed hlong, state_cmpEnd]
    · rw [doCmpJobEnd_ok hrun hhost hfed hfits, state_cmpEnd]

/-- Settles O21: an end and an ABORT by whether the compressor runs, and START of a running one. -/
theorem compressJobEndsOnce : Obligations.CompressJobEndsOnce := by
  refine ⟨fun s t d p hexec => ?_, fun s t d hexec => ?_, fun s d p hidle => ⟨congrArg _ (doCmpJobEnd_idle hidle), ?_⟩,
    fun s d p hrun hhost hfed => ⟨_, exec_cmpJobEnd d p, doCmpJobEnd_fed_done hrun hhost hfed p⟩, fun s d ha hd hrun => ?_⟩
  · obtain rfl : doCmpJobEnd s d p = t := by simpa [exec_cmpJobEnd] using hexec
    by_cases hrun : (compAt s d).state = 1
    · exact (doCmpJobEnd_cases s d p).imp (congrArg (compAt · d)) fun hdone => ⟨hrun, hdone⟩
    · exact .inl (by rw [doCmpJobEnd_idle hrun])
  · obtain rfl : hostReg s d (fun s => doCmpAbort s d) = t := by simpa [exec_cmpAbort_hostReg] using hexec
    obtain hstays | hreached := hostReg_cases s d (fun s => doCmpAbort s d)
    · exact .inl (by rw [hstays])
    · rw [hreached]
      obtain hstays | ⟨hrun, hstops⟩ := doCmpAbort_cases s d
      · exact .inl (by rw [hstays])
      · obtain ⟨-, -, hcomp⟩ := cmpStops_spec s d 3 (by decide) (by decide)
        rw [hstops, hcomp]
        exact .inr ⟨hrun, rfl, rfl⟩
  · exact congrArg _ (hostReg_of_self (doCmpAbort_idle hidle))
  · refine ⟨_, exec_cmpStart ha, ?_⟩
    rw [doCmpStart_eq ha hd]
    refine ⟨rfl, only_setComp d _ rfl, ?_⟩
    rw [modComp, compAt_setComp, if_pos hrun]

end Sys2Proof.Proofs
end

section
/-! PROOFS. Followers and re-expansions (R112, R113): what the end of one decompressor's follower does to the other decompressor. -/

open Sys2Proof Sys2Proof.Machine Sys2Proof.Claims

namespace Sys2Proof.Proofs

theorem exec_followerDone (d k n : Nat) (s : State) :
    exec (.followerDone d k n) s = .next (doFollowerDone (readLine s (clauseIx d k) n) d k n) := rfl

/-- The band input of an empty block of strip 0, band `b`. -/
def emptyInput (b : Nat) : BandIn :=
  { block := { die := 0, id := ⟨5, 0, 0, 0, b⟩, kind := 0, raw := false, sig := false, payloadLen := 0, rawCrc := 0, storedCrc := 0, maskCrc := 0,
               blockLen := 64, addr := 0 }, absBand := b, overlay := false }

/-- The checkpoint of line 0 of band `b`. -/
def firstCkpt (b : Nat) : Ckpt := { absBand := b, line := 0, inPos := 0, outPos := 0, crc := 0xFFFFFFFF }

/-- Clause 0 of die 0 serves row 0. The follower of decompressor 0 decodes line 0 of band 0. Decompressor 1, which decodes the odd bands, waits
to expand line 0 of band 1 again, its oldest checkpoint; the first word of that line stands in cell 0. -/
def otherWaits : State := { State.reset with
  gram := { rows := [{ row := 0, strips := 1 }], slots := [⟨0, 0, 0, 0⟩] },
  clauses := [(0, { st := .serving, powered := true, input := [emptyInput 0, emptyInput 1],
                    lines := [{ line := 64, at_ := some ⟨0, 5, 0, 1, 0⟩, q := 64 }],
                    dec0 := { started := true, following := some (firstCkpt 0), ckpts := [firstCkpt 0] },
                    dec1 := { st := .wait, absBand := 1, busy := true, started := true, outPos := 8, ckpts := [firstCkpt 1],
                              reexpand := some 64 } })],
  cells := [(0, { recWords := [(64, 2)] })] }

/-- The re-expansion that waited begins, and the words that decompressor 1 brings again leave their record (R113). -/
theorem cells_after_followerDone : (doFollowerDone (readLine otherWaits (clauseIx 0 0) 0) 0 0 0).cells = [] := by decide +kernel

/-- Refutes O22, by its last clause, on a follower with one checkpoint (R112, R113): the clause lets nothing but the clauses change and says
nothing of the other decompressor, whose re-expansion, where it waits as in `otherWaits`, begins at that moment and takes words out of the
cells. -/
theorem not_decompressorsExpandBands : ¬ Obligations.DecompressorsExpandBands := by
  rintro ⟨-, -, -, -, -, -, -, -, -, -, -, -, -, -, -, -, -, hfollower⟩
  obtain ⟨hframe, -⟩ := holds_of_runs (exec_followerDone 0 0 0 otherWaits)
    (hfollower otherWaits 0 0 0 (firstCkpt 0) (emptyInput 0) (by decide) rfl rfl rfl (by decide +kernel) rfl rfl)
  have hcells : (doFollowerDone (readLine otherWaits (clauseIx 0 0) 0) 0 0 0).cells = otherWaits.cells := by rw [hframe]
  rw [cells_after_followerDone] at hcells
  exact absurd hcells (by decide)

end Sys2Proof.Proofs
end

section
/-! PROOFS. Cell instructions (R127-R161): states and cell numbers that the statements about them leave in. A load reads its blocks of the data
SRAM, and counts what it finds there, also on the way to a stall or a trap; and a cell number beyond 15 names a cell of the next clause. -/

open Sys2Proof Sys2Proof.Machine Sys2Proof.Claims

namespace Sys2Proof.Proofs

/-- The state that LD leaves: its fetch and its load read their blocks first (R129, R150, R285). -/
def afterLd (s : State) (ci : CellId) (w : CellWord) : State :=
  doLd (loading (fetched s ci) ci (fun c => [ldstAddr c w]) 2 2) ci w

theorem exec_ld (ci : CellId) (w : CellWord) (s : State) : exec (.ld ci w) s = .next (afterLd s ci w) := rfl

/-- The state that LUTV leaves: its fetch and its loads read their blocks first (R150, R285). -/
def afterLutv (s : State) (ci : CellId) (w : CellWord) : State :=
  doLutv (loading (fetched s ci) ci (lutvAddrs w) 2 1) ci w

theorem exec_lutv (ci : CellId) (w : CellWord) (s : State) : exec (.lutv ci w) s = .next (afterLutv s ci w) := rfl

theorem exec_bget (ci : CellId) (w : CellWord) (s : State) : exec (.bget ci w) s = .next (doBget (fetched s ci) ci w) := rfl

/-! ### What the statements say of a trap -/

section Trap

variable {s t : State} {ci : CellId} {cause code : Nat} {at_ : Option Nat}

theorem restart_of_trapped (htrap : trapped s ci cause code at_ t) (hspare : (clauseAt s (clauseIx ci.die ci.clause)).st ≠ .spare) :
    (cellAt t (cellIx ci)).st = .restart := by
  obtain ⟨hrestart, -⟩ := htrap hspare
  exact hrestart

/-- Outside a segment and a serving clause a trap is said to change nothing but cells and event queues, so it counts no block. -/
theorem memCorr_of_trapped (htrap : trapped s ci cause code at_ t) (hspare : (clauseAt s (clauseIx ci.die ci.clause)).st ≠ .spare)
    (hserving : (clauseAt s (clauseIx ci.die ci.clause)).st ≠ .serving) (hcur : (cellAt s (cellIx ci)).cur = none) : t.memCorr = s.memCorr := by
  obtain ⟨-, -, -, -, -, -, -, -, -, -, -, -, -, hsegment⟩ := htrap hspare
  rw [hcur] at hsegment
  obtain ⟨-, -, -, -, -, houtside, -⟩ := hsegment
  obtain ⟨hframe, -⟩ := houtside hserving
  rw [hframe]

theorem memCorr_of_stalls {st : Stall} (hstall : stalls s ci st t) : t.memCorr = s.memCorr := by
  obtain ⟨hframe, -⟩ := hstall
  rw [hframe]

end Trap

/-! ### Loads that stall or trap -/

/-- Cell 0 of clause 0 of die 0. -/
def cell0 : CellId := ⟨0, 0, 0⟩

/-- Cell 0 as `c` has it, running at a word of opcode `op` with fields `w`, in a clause of state `st`; one data bit stands flipped in the first
block of its data SRAM. -/
def damagedData (op : Nat) (w : CellWord) (st : ClauseState) (c : Cell) : State := { State.reset with
  imem := [(0, BitVec.ofNat 6 op ++ w)],
  clauses := [(0, { st := st, powered := true })],
  cells := [(0, { c with st := .run })],
  flips := [(⟨.cellData, 0, 0⟩, 1)] }

/-- The fields of LD s1 from s2. -/
def ldOwed : CellWord := 0x220000

/-- LD s1 from s2, a register that a BATM still owes; s2 holds 0. -/
def loadOfOwed : State := damagedData 0x19 ldOwed .serving { banks := [.atomic 0 false 0 2 0] }

/-- The stalled LD has read the block at its stale address: one corrected block of CLASS 3 is counted (R285, R302). -/
theorem memCorr_afterLd_loadOfOwed : (afterLd loadOfOwed cell0 ldOwed).memCorr = [(3, ⟨1, 0⟩)] := by decide +kernel

/-- Refutes O26, by the last clause about what every instruction meets, on an LD whose address register a BATM still owes (R143): the clause
lets nothing but the cell change, and the LD has read its block of the data SRAM, which counts the bit flipped there. -/
theorem not_cellControlInstructions : ¬ Obligations.CellControlInstructions := by
  rintro ⟨hmeets, -⟩
  obtain ⟨-, -, -, -, howed⟩ := hmeets (.ld cell0 ldOwed) _ loadOfOwed rfl
  have hstall := holds_of_runs (exec_ld cell0 ldOwed loadOfOwed)
    (howed 2 (by decide +kernel) (by decide +kernel) (by decide) (by decide) (by decide +kernel))
  have hcounts := memCorr_of_stalls hstall
  rw [memCorr_afterLd_loadOfOwed] at hcounts
  exact absurd hcounts (by decide)

/-- The fields of LUTV v1 by v0 from the table at s1. -/
def lutvOdd : CellWord := 0x200800

/-- LUTV from a table at the odd address 1, in a clause that is FENCING. -/
def lookupOdd : State := damagedData 0x30 lutvOdd .fencing { s := [(1, 1)] }

/-- All eight lanes of the trapping LUTV have read the block, and each read counts it. -/
theorem memCorr_afterLutv_lookupOdd : (afterLutv lookupOdd cell0 lutvOdd).memCorr = [(3, ⟨8, 0⟩)] := by decide +kernel

/-- Refutes O28, by the clause about LUTV from a table at an odd address (R151), which traps ADDRESS: in a clause that does not serve, the trap
is to change nothing but cells and event queues, and the lanes have read their entries, which counts the bit flipped there. -/
theorem not_cellVectorLanes : ¬ Obligations.CellVectorLanes := by
  rintro ⟨-, -, -, -, -, -, -, hlutv, -, -⟩
  obtain ⟨hodd, -, -⟩ := hlutv lookupOdd cell0 lutvOdd (by decide) (by decide) (by decide +kernel)
  have htrap := holds_of_runs (exec_lutv cell0 lutvOdd lookupOdd) (hodd (by decide +kernel))
  have hcounts := memCorr_of_trapped htrap (by decide +kernel) (by decide +kernel) (by decide +kernel)
  rw [memCorr_afterLutv_lookupOdd] at hcounts
  exact absurd hcounts (by decide)

/-! ### A cell number beyond 15 -/

/-- Cell 16 of clause 0, which by its number is cell 0 of clause 1. -/
def cell16 : CellId := ⟨0, 0, 16⟩

/-- Clause 0 serves a slot and had a transient fault at row line 0; clause 1 is a spare, and the Grammar's image targets cell 0. Cell 16, outside
any segment, runs at a word of opcode `op` with fields `w`, its s1 holding 1. -/
def besideSpare (op : Nat) (w : CellWord) : State := { State.reset with
  gram := { rows := [{ row := 0, strips := 1 }], slots := [⟨0, 0, 0, 0⟩],
            images := [{ id := 0, dataAddr := 0, rowMask := 1, cellMask := 1, entry := 0, words := [], data := [] }] },
  imem := [(1024 * 16, BitVec.ofNat 6 op ++ w)],
  clauses := [(0, { st := .serving, powered := true, lastFault := some 0 }), (1, { st := .spare, powered := true })],
  cells := [(16, { st := .run, s := [(1, 1)] })] }

/-- The fields of LD s1 from the odd address in s1. -/
def ldOdd : CellWord := 0x210000

/-- The trap repeats the fault of clause 0, which is fenced, and clause 1 is loaded and released in its place (R260, R266). -/
theorem st_afterLd_besideSpare : (cellAt (afterLd (besideSpare 0x19 ldOdd) cell16 ldOdd) (cellIx cell16)).st = .run := by decide +kernel

/-- Refutes O27, by its clause about an LD that stops, on an LD of a misaligned halfword in cell 16 of a clause: the clause does not bound the
cell's number. The trap fences clause 0, and the spare loaded for it is clause 1, whose cell 0 bears the same number: it runs, where the
statement has it wait for its restart. -/
theorem not_cellScalarInstructions : ¬ Obligations.CellScalarInstructions := by
  rintro ⟨-, -, -, -, -, -, hstops, -, -, -, -, -, -⟩
  have hruns : Runs (.ld cell16 ldOdd) (besideSpare 0x19 ldOdd) (trapped (besideSpare 0x19 ldOdd) cell16 4 0 none) :=
    hstops (besideSpare 0x19 ldOdd) cell16 ldOdd (.trap 4 none) (by decide) (by decide) (by decide +kernel) (by decide +kernel)
  have hrestart := restart_of_trapped (holds_of_runs (exec_ld cell16 ldOdd (besideSpare 0x19 ldOdd)) hruns) (by decide +kernel)
  rw [st_afterLd_besideSpare] at hrestart
  exact absurd hrestart (by decide)

/-- The fields of BGET of one bank word, word s0, into the data SRAM at s1. -/
def bgetOdd : CellWord := 0x800

/-- As for LD, the trap fences clause 0 and clause 1 is loaded and released. -/
theorem st_after_bget_besideSpare :
    (cellAt (doBget (fetched (besideSpare 0x39 bgetOdd) cell16) cell16 bgetOdd) (cellIx cell16)).st = .run := by decide +kernel

/-- Refutes O29, by its clause about a BGET whose destination is refused, on a misaligned destination in cell 16 of a clause: the clause does not
bound the cell's number, and the trap loads clause 1, whose cell 0 bears the same number and runs. -/
theorem not_cellPortsAndBankRequests : ¬ Obligations.CellPortsAndBankRequests := by
  rintro ⟨-, -, -, -, -, hbget, -, -⟩
  obtain ⟨-, -, hdest, -⟩ := hbget (besideSpare 0x39 bgetOdd) cell16 bgetOdd
    (by decide) (by decide) (by decide) (by decide) (by decide) (by decide +kernel)
  have hruns := hdest 4 (by decide +kernel) (by decide)
  have hrestart := restart_of_trapped (holds_of_runs (exec_bget cell16 bgetOdd (besideSpare 0x39 bgetOdd)) hruns) (by decide +kernel)
  rw [st_after_bget_besideSpare] at hrestart
  exact absurd hrestart (by decide)

end Sys2Proof.Proofs
end

section
/-! PROOFS. The registers that begin a run and the latch of the timebase (R212, R248, R302, R317, R323): the eye scan, the march-test engine and the
training helper. -/

open Sys2Proof Sys2Proof.Machine Sys2Proof.Claims

namespace Sys2Proof.Proofs

/-! ### Tables filled from a list of numbers -/

/-- What a table reads after an entry was written for each number of a list. -/
theorem sget_foldl_sput {α : Type} [DecidableEq α] (dflt : α) (f : Nat → α) (l : List Nat) (m : Sparse α) (i : Nat) :
    sget dflt (l.foldl (fun m n => sput dflt m n (f n)) m) i = if i ∈ l then f i else sget dflt m i := by
  induction l generalizing m with
  | nil => simp
  | cons n l ih =>
    rw [List.foldl_cons, ih, sget_sput]
    by_cases hl : i ∈ l <;> by_cases hn : i = n <;> simp [hl, hn]

variable {s : State} {d ch : Nat}

/-! ### The timebase latch (R212) -/

theorem extract_high (n : Nat) : (BitVec.ofNat 64 n).extractLsb' 32 32 = BitVec.ofNat 32 (n / 2 ^ 32) := by
  apply BitVec.eq_of_toNat_eq
  simp only [BitVec.extractLsb'_toNat, BitVec.toNat_ofNat, Nat.shiftRight_eq_div_pow]
  omega

theorem mgtAt_modMgt_other {e : Nat} {f : Mgt → Mgt} (h : e ≠ d) : mgtAt (modMgt s d f) e = mgtAt s e := sget_sput_other _ _ _ _ _ h

@[simp] theorem mgtAt_emit (o : Out) (e : Nat) : mgtAt (emit s o) e = mgtAt s e := rfl

/-- A read that reaches its die answers the low word and latches the high one. -/
theorem doTbCountLoRead_reached (ha : arrives s d = true) :
    doTbCountLoRead s d = emit (modMgt s d (fun m => { m with tbHi := BitVec.ofNat 32 (s.tb / 2 ^ 32) }))
      (.readData (natLE 4 (s.tb % 2 ^ 32)) false false) := by
  have hboth : (hostUp s && dieReach s d) = true := ha
  obtain ⟨hup, -⟩ : hostUp s = true ∧ dieReach s d = true := by simpa using hboth
  obtain ⟨hperst, hlink, hd3⟩ : s.pcie.perst = false ∧ s.pcie.linkUp = true ∧ s.pcie.d3hot = false := by
    simp only [hostUp, Bool.and_eq_true, Bool.not_eq_true'] at hup
    simp [hup]
  simp [doTbCountLoRead, hboth, hperst, hlink, hd3, tb64, extract_high]

/-! ### The eye scan (R248) -/

theorem exec_tynEyeStart (ha : arrives s d = true) : exec (.tynEyeStart d) s = .next (doTynEyeStart s d) :=
  congrArg Host.Outcome.next (hostReg_arrives _ ha)

theorem exec_eyePointDone (count : BitVec 32) (aborted : Bool) : exec (.eyePointDone d count aborted) s = .next (doEyePointDone s d count aborted) :=
  rfl

theorem doTynEyeStart_idle (hb : (eyeAt s d).busy = false) : doTynEyeStart s d = setEye s d { eyeAt s d with busy := true } := by
  simp [doTynEyeStart, hb]

theorem doTynEyeStart_busy (hb : (eyeAt s d).busy = true) : doTynEyeStart s d = s := by simp [doTynEyeStart, hb]

theorem doEyePointDone_counted {count : Word} (hb : (eyeAt s d).busy = true) :
    doEyePointDone s d count false = setEye s d { eyeAt s d with busy := false, err := count } := by simp [doEyePointDone, hb]

theorem doEyePointDone_aborted {count : Word} (hb : (eyeAt s d).busy = true) :
    doEyePointDone s d count true = setEye s d { eyeAt s d with busy := false, abort := true } := by simp [doEyePointDone, hb]

theorem doEyePointDone_idle {count : Word} {aborted : Bool} (hb : (eyeAt s d).busy = false) : doEyePointDone s d count aborted = s := by
  simp [doEyePointDone, hb]

/-! ### The march-test engine (R20, R295, R302) -/

theorem exec_mgtMtCtrlStart (ha : arrives s d = true) : exec (.mgtMtCtrlStart d) s = .next (doMgtMtCtrlStart s d) :=
  congrArg Host.Outcome.next (hostReg_arrives _ ha)

theorem doMgtMtCtrlStart_busy (hb : (marchAt s d).busy = true) : doMgtMtCtrlStart s d = s := by simp [doMgtMtCtrlStart, hb]

theorem doMgtMtCtrlStart_idle (hd : s.dia.valid = false) (hb : (marchAt s d).busy = false) :
    doMgtMtCtrlStart s d = beginMarch s d (marchAt s d).kind.toNat (marchAt s d).index.toNat (marchAt s d).mode none := by
  simp [doMgtMtCtrlStart, hd, hb]

section March

variable {kind index : Nat} {mode : Bool} {cmd : Option CmdHdr}

/-- What a test that begins, or is refused, leaves of the engine's registers. -/
theorem beginMarch_keeps_settings (s : State) :
    (marchAt (beginMarch s d kind index mode cmd) d).failed = 0 ∧ (marchAt (beginMarch s d kind index mode cmd) d).kind = (marchAt s d).kind ∧
      (marchAt (beginMarch s d kind index mode cmd) d).index = (marchAt s d).index := by
  unfold beginMarch
  split
  · dsimp only
    split <;> simp
  · simp

theorem beginMarch_allowed (h : marchAllowed s d kind index mode = true) :
    (marchAt (beginMarch s d kind index mode cmd) d).busy = true ∧ (marchAt (beginMarch s d kind index mode cmd) d).result = 0 := by
  unfold beginMarch
  rw [if_pos h]
  dsimp only
  split <;> simp

theorem beginMarch_refused (h : marchAllowed s d kind index mode = false) :
    (marchAt (beginMarch s d kind index mode cmd) d).busy = false ∧ (marchAt (beginMarch s d kind index mode cmd) d).result = 4 ∧
      beginMarch s d kind index mode cmd = { s with marches := (beginMarch s d kind index mode cmd).marches } := by
  simp only [beginMarch, h, Bool.false_eq_true, if_false]
  exact ⟨by simp, by simp, rfl⟩

/-- A test touches its engine's record and, of a clause, the power. -/
theorem beginMarch_frame (s : State) : beginMarch s d kind index mode cmd =
    { s with marches := (beginMarch s d kind index mode cmd).marches, clauses := (beginMarch s d kind index mode cmd).clauses } := by
  unfold beginMarch
  split
  · dsimp only
    split <;> rfl
  · rfl

/-- Of the clauses, one that is tested is powered. -/
theorem clauseAt_beginMarch (h : marchAllowed s d kind index mode = true) (y : Nat) :
    clauseAt (beginMarch s d kind index mode cmd) y =
      if kind = 1 ∧ y = clauseIx d index then { clauseAt s y with powered := true } else clauseAt s y := by
  unfold beginMarch
  rw [if_pos h]
  dsimp only
  split
  next hoff =>
    obtain ⟨hkind, -⟩ := hoff
    refine (sget_sput ..).trans ?_
    by_cases hy : y = clauseIx d index
    · simp [hkind, hy]
    · simp [hy, clauseAt]
  next hon =>
    show clauseAt s y = _
    split
    next hy =>
      obtain ⟨hkind, rfl⟩ := hy
      have hpowered : (clauseAt s (clauseIx d index)).powered = true := by simpa [hkind] using hon
      simp [← hpowered]
    · rfl

end March

/-! ### The training helper (R317, R323) -/

theorem exec_ddrTrnStart (ha : arrives s d = true) : exec (.ddrTrnStart d ch) s = .next (doDdrTrnStart s d ch) :=
  congrArg Host.Outcome.next (hostReg_arrives _ ha)

theorem exec_trainHelperDone (wrote misread : List TrnErr) :
    exec (.trainHelperDone d ch wrote misread) s = .next (doTrainHelperDone s d ch wrote misread) := rfl

theorem doDdrTrnStart_idle (hok : ddrOk s d ch = true) (hd : s.dia.valid = false) (hrun : (ddrAt s (ddrIx d ch)).trnRun = none)
    (hact : (ddrAt s (ddrIx d ch)).st ≠ .active) (hret : (ddrAt s (ddrIx d ch)).st ≠ .retired) :
    doDdrTrnStart s d ch = setDdr s (ddrIx d ch) { ddrAt s (ddrIx d ch) with trnRun := some (ddrAt s (ddrIx d ch)).trn } := by
  simp [doDdrTrnStart, hok, hd, hrun, hact, hret]

theorem doDdrTrnStart_active (hact : (ddrAt s (ddrIx d ch)).st = .active) : doDdrTrnStart s d ch = s := by simp [doDdrTrnStart, hact]

theorem doDdrTrnStart_busy (hrun : (ddrAt s (ddrIx d ch)).trnRun.isSome = true) : doDdrTrnStart s d ch = s := by simp [doDdrTrnStart, hrun]

theorem doTrainHelperDone_idle {wrote misread : List TrnErr} (hrun : (ddrAt s (ddrIx d ch)).trnRun = none) :
    doTrainHelperDone s d ch wrote misread = s := by simp [doTrainHelperDone, hrun]

/-- The training rows once a run with settings `c` has ended: its rows hold its pattern where it writes. -/
def rowsAfter (c : TrnCtl) (wrote : List TrnErr) (m : Sparse TrnRow) : Sparse TrnRow :=
  if c.op = 0 ∨ c.op = 2 then (trnRowsOf c).foldl (fun m n => sput {} m n ⟨none, c.pattern, c.seed, errsOf wrote n⟩) m else m

/-- What the compare engine of channel `i` saw of the rows, where the run compares. -/
def diffsOf (i : Nat) (c : TrnCtl) (rows : Sparse TrnRow) (misread : List TrnErr) : List Word :=
  if c.op = 0 ∨ c.op = 1 then (trnRowsOf c).flatMap (fun n => rowDiffs i n (sget {} rows n) c (errsOf misread n)) else []

/-- MASK and BITS of what a compare saw. -/
def maskOf (diffs : List Word) : Word := diffs.foldl (fun a b => a ||| b) 0

def bitsOf (diffs : List Word) : BitVec 31 := BitVec.ofNat 31 ((diffs.map popcount).sum)

theorem doTrainHelperDone_run {wrote misread : List TrnErr} {c : TrnCtl} (hrun : (ddrAt s (ddrIx d ch)).trnRun = some c) :
    let x := ddrAt s (ddrIx d ch)
    let rows := rowsAfter c wrote x.trnRows
    let diffs := diffsOf (ddrIx d ch) c rows misread
    doTrainHelperDone s d ch wrote misread =
      setDdr s (ddrIx d ch) { x with trnRun := none, trnRows := rows, trnMask := maskOf diffs, trnBits := bitsOf diffs } := by
  simp only [doTrainHelperDone, hrun]
  rfl

theorem sget_rowsAfter (c : TrnCtl) (wrote : List TrnErr) (m : Sparse TrnRow) (n : Nat) : sget {} (rowsAfter c wrote m) n =
    if (c.op = 0 ∨ c.op = 2) ∧ n ∈ trnRowsOf c then ⟨none, c.pattern, c.seed, errsOf wrote n⟩ else sget {} m n := by
  unfold rowsAfter
  split
  next hop => simp only [hop, true_and, sget_foldl_sput {} fun n => TrnRow.mk none c.pattern c.seed (errsOf wrote n)]
  next hop => simp only [hop, false_and, if_false]

theorem diffsOf_not_compared {i : Nat} {c : TrnCtl} {rows : Sparse TrnRow} {misread : List TrnErr} (h0 : c.op ≠ 0) (h1 : c.op ≠ 1) :
    diffsOf i c rows misread = [] := if_neg (not_or.mpr ⟨h0, h1⟩)

/-- A row just written without an error differs in what is misread alone. -/
theorem rowDiffs_written (i n : Nat) (c : TrnCtl) (misread : List (Nat × Word)) :
    rowDiffs i n ⟨none, c.pattern, c.seed, []⟩ c misread = ((misread.map (fun e => e.1)).eraseDups).map (errAt misread) := by
  simp [rowDiffs]

/-- A run that writes its rows without an error and compares them sees what it misreads. -/
theorem diffsOf_written {i : Nat} {c : TrnCtl} {m : Sparse TrnRow} {misread : List TrnErr} (hop : c.op = 0) :
    diffsOf i c (rowsAfter c [] m) misread =
      (trnRowsOf c).flatMap (fun n => (((errsOf misread n).map (fun e => e.1)).eraseDups).map (errAt (errsOf misread n))) := by
  rw [diffsOf, if_pos (.inl hop)]
  refine List.flatMap_congr fun n hn => ?_
  rw [sget_rowsAfter, if_pos ⟨.inl hop, hn⟩]
  exact rowDiffs_written i n c _

theorem nodup_trnRowsOf (c : TrnCtl) : (trnRowsOf c).Nodup := by
  unfold trnRowsOf
  split
  · exact List.nodup_range
  · exact List.nodup_singleton _

/-- A function that is empty but at one element of a list without repetitions. -/
theorem flatMap_at_one {α β : Type} {l : List α} {a : α} {f : α → List β} (hnodup : l.Nodup) (ha : a ∈ l)
    (hf : ∀ b ∈ l, b ≠ a → f b = []) : l.flatMap f = f a := by
  obtain ⟨p, q, rfl⟩ := List.append_of_mem ha
  rw [List.nodup_middle, List.nodup_cons] at hnodup
  obtain ⟨hout, -⟩ := hnodup
  have hp : p.flatMap f = [] := List.flatMap_eq_nil_iff.mpr fun b hb =>
    hf b (by simp [hb]) fun h => hout (by simp [← h, hb])
  have hq : q.flatMap f = [] := List.flatMap_eq_nil_iff.mpr fun b hb =>
    hf b (by simp [hb]) fun h => hout (by simp [← h, hb])
  simp [hp, hq]

theorem diffsOf_read_right {i : Nat} {c : TrnCtl} {m : Sparse TrnRow} (hop : c.op = 0) : diffsOf i c (rowsAfter c [] m) [] = [] := by
  rw [diffsOf_written hop]
  exact List.flatMap_eq_nil_iff.mpr fun _ _ => rfl

/-- One beat misread in a row of the run is all that the compare sees. -/
theorem diffsOf_one_misread {i : Nat} {c : TrnCtl} {m : Sparse TrnRow} {e : TrnErr} (hop : c.op = 0) (he : e.row ∈ trnRowsOf c) :
    diffsOf i c (rowsAfter c [] m) [e] = [e.dq] := by
  rw [diffsOf_written hop, flatMap_at_one (nodup_trnRowsOf c) he]
  · have hone : [e.beat].eraseDups = [e.beat] := rfl
    simp [errsOf, errAt, hone]
  · intro n _ hn
    simp [errsOf, hn.symm]

theorem toNat_bitsOf_single (v : Word) : (bitsOf [v]).toNat = popcount v := by
  have hle : popcount v ≤ 32 := (List.length_filter_le ..).trans_eq List.length_range
  simp only [bitsOf, List.map_cons, List.map_nil, List.sum_cons, List.sum_nil, BitVec.toNat_ofNat]
  omega

theorem maskOf_single (v : Word) : maskOf [v] = v := by simp [maskOf]

/-- Settles O15: each register by the state in which its run is, and the end of a run by what it was. -/
theorem startBitsAndLatches : Obligations.StartBitsAndLatches := by
  unfold Obligations.StartBitsAndLatches
  refine ⟨?_, ?_, ?_, ?_, ?_, ?_, ?_, ?_, ?_, ?_, ?_, ?_, ?_, ?_⟩
  · intro s d ha _
    refine ⟨_, congrArg Host.Outcome.next (doTbCountLoRead_reached ha), rfl, ?_, fun e he => ?_⟩
    · simp [modMgt]
    · rw [mgtAt_emit, mgtAt_modMgt_other he]
  · intro s d ha hb
    exact ⟨_, (exec_tynEyeStart ha).trans (by rw [doTynEyeStart_idle hb]), rfl, eyeAt_setEye ..⟩
  · intro s d ha hb
    rw [exec_tynEyeStart ha, doTynEyeStart_busy hb]
  · intro s d count hb
    exact ⟨_, (exec_eyePointDone ..).trans (by rw [doEyePointDone_counted hb]), rfl, eyeAt_setEye ..⟩
  · intro s d count hb
    exact ⟨_, (exec_eyePointDone ..).trans (by rw [doEyePointDone_aborted hb]), rfl, eyeAt_setEye ..⟩
  · intro s d count ab hb
    rw [exec_eyePointDone, doEyePointDone_idle hb]
  · intro s d ha hd hb hallowed
    refine ⟨_, (exec_mgtMtCtrlStart ha).trans (by rw [doMgtMtCtrlStart_idle hd hb]), beginMarch_frame s, ?_⟩
    obtain ⟨hbusy, hresult⟩ := beginMarch_allowed (cmd := none) hallowed
    refine ⟨hbusy, hresult, fun y => ?_, beginMarch_keeps_settings s⟩
    rw [clauseAt_beginMarch hallowed]
    simp only [← BitVec.toNat_inj]
    rfl
  · intro s d ha hd hb hrefused
    obtain ⟨hbusy, hresult, hframe⟩ := beginMarch_refused (cmd := none) hrefused
    exact ⟨_, (exec_mgtMtCtrlStart ha).trans (by rw [doMgtMtCtrlStart_idle hd hb]), hframe, hbusy, hresult⟩
  · intro s d ha hb
    rw [exec_mgtMtCtrlStart ha, doMgtMtCtrlStart_busy hb]
  · intro s d ch ha hok hd hrun hact hret
    exact ⟨_, (exec_ddrTrnStart ha).trans (by rw [doDdrTrnStart_idle hok hd hrun hact hret]), rfl, ddrAt_setDdr ..⟩
  · intro s d ch ha hact
    rw [exec_ddrTrnStart ha, doDdrTrnStart_active hact]
  · intro s d ch ha hrun
    rw [exec_ddrTrnStart ha, doDdrTrnStart_busy hrun]
  · intro s d ch wrote misread hrun
    rw [exec_trainHelperDone, doTrainHelperDone_idle hrun]
  · intro s d ch wrote misread c hrun rows wrong
    refine ⟨_, (exec_trainHelperDone ..).trans (by rw [doTrainHelperDone_run hrun]), rfl, fun _ => ddrAt_setDdr_other, ?_⟩
    rw [ddrAt_setDdr]
    refine ⟨rfl, sget_rowsAfter c wrote _, fun h0 h1 => ?_, ?_, ?_⟩
    · simp only [diffsOf_not_compared h0 h1]
      exact ⟨rfl, rfl⟩
    · rintro hop rfl rfl
      simp only [diffsOf_read_right hop]
      exact ⟨rfl, rfl⟩
    · rintro e hop rfl rfl he
      simp only [diffsOf_one_misread hop he]
      exact ⟨maskOf_single _, toNat_bitsOf_single _⟩

end Sys2Proof.Proofs
end

section
/-! PROOFS. The sync function (R187-R189): the cells of a frame, and what a slave does with one. -/

open Sys2Proof Sys2Proof.Machine Sys2Proof.Claims

namespace Sys2Proof.Proofs

/-! ### The cells of a frame (R188) -/

/-- A word in which some of the bits 48 + i were set. -/
theorem getLsbD_foldl_set (p : Nat → Bool) (l : List Nat) (c : BitVec 56) (j : Nat) (hj : j < 56) :
    (l.foldl (fun (c : BitVec 56) i => if p i then c ||| (1#56 <<< (48 + i)) else c) c).getLsbD j =
      (c.getLsbD j || l.any fun i => p i && decide (j = 48 + i)) := by
  induction l generalizing c with
  | nil => simp
  | cons i l ih =>
    rw [List.foldl_cons, ih, List.any_cons, ← Bool.or_assoc]
    congr 1
    by_cases hp : p i = true
    · have hbit : (1#56 <<< (48 + i)).getLsbD j = decide (j = 48 + i) := by
        simp only [BitVec.getLsbD_shiftLeft, BitVec.getLsbD_one, hj]
        grind
      simp only [hp, if_true, BitVec.getLsbD_or, hbit, Bool.true_and]
    · simp [hp]

theorem getLsbD_syncCells (e : BitVec 44) (j : Nat) (hj : j < 56) : (syncCells e).getLsbD j =
    ((e.zeroExtend 56).getLsbD j ||
      (List.range 8).any fun i => (syncCrc (e.zeroExtend 56)).getLsbD (7 - i) && decide (j = 48 + i)) :=
  getLsbD_foldl_set (fun i => (syncCrc (e.zeroExtend 56)).getLsbD (7 - i)) _ _ j hj

/-- Cells 0-47 are the epoch and zeros. -/
theorem getLsbD_syncCells_body (e : BitVec 44) (j : Nat) (hj : j < 48) : (syncCells e).getLsbD j = (e.zeroExtend 56).getLsbD j := by
  rw [getLsbD_syncCells e j (by omega), List.any_eq_false.mpr, Bool.or_false]
  intro i _
  simp only [Bool.and_eq_true, decide_eq_true_eq]
  omega

/-- Cells 48-55 are the CRC, its first bit first. -/
theorem getLsbD_syncCells_crc (e : BitVec 44) (i : Nat) (hi : i < 8) :
    (syncCells e).getLsbD (48 + i) = (syncCrc (e.zeroExtend 56)).getLsbD (7 - i) := by
  have hbody : (e.zeroExtend 56).getLsbD (48 + i) = false := by
    simp only [BitVec.truncate_eq_setWidth, BitVec.getLsbD_setWidth, BitVec.getLsbD_of_ge e (48 + i) (by omega), Bool.and_false]
  rw [getLsbD_syncCells e _ (by omega), hbody, Bool.false_or, Bool.eq_iff_iff, List.any_eq_true]
  constructor
  · rintro ⟨k, -, hk⟩
    simp only [Bool.and_eq_true, decide_eq_true_eq] at hk
    obtain ⟨hbit, hki⟩ := hk
    obtain rfl : i = k := by omega
    exact hbit
  · exact fun h => ⟨i, List.mem_range.mpr hi, by simp [h]⟩

theorem syncCrc_congr {c c' : BitVec 56} (h : ∀ i, i < 48 → c.getLsbD i = c'.getLsbD i) : syncCrc c = syncCrc c' :=
  List.foldl_ext _ _ _ fun _ i hi => by rw [h i (List.mem_range.mp hi)]

/-- Eight bits shifted in from the right, the first of them the highest. -/
theorem foldl_shiftIn (x : Byte) :
    (List.range 8).foldl (fun (c : Byte) i => (c <<< 1) ||| (if x.getLsbD (7 - i) then 1 else 0)) 0 = x := by
  revert x
  decide +kernel

theorem syncCarried_eq {c : BitVec 56} {x : Byte} (h : ∀ i, i < 8 → c.getLsbD (48 + i) = x.getLsbD (7 - i)) : syncCarried c = x := by
  refine Eq.trans (List.foldl_ext _ _ _ fun a i hi => ?_) (foldl_shiftIn x)
  rw [h i (List.mem_range.mp hi)]

/-- A frame as a master drives it carries its own CRC. -/
theorem syncCarried_syncCells (e : BitVec 44) : syncCarried (syncCells e) = syncCrc (syncCells e) := by
  rw [syncCarried_eq (getLsbD_syncCells_crc e), syncCrc_congr (getLsbD_syncCells_body e)]

theorem toNat_syncCells_epoch (e : BitVec 44) : (syncCells e).toNat % 2 ^ 44 = e.toNat := by
  have hbits : (syncCells e).extractLsb' 0 44 = e := by
    refine BitVec.eq_of_getLsbD_eq fun i hi => ?_
    have hwide : i < 56 := by omega
    simpa [hi, hwide] using getLsbD_syncCells_body e i (by omega)
  simpa using congrArg BitVec.toNat hbits

theorem toNat_syncCells_pad (e : BitVec 44) : (syncCells e).toNat / 2 ^ 44 % 16 = 0 := by
  have hbits : (syncCells e).extractLsb' 44 4 = 0 := by
    refine BitVec.eq_of_getLsbD_eq fun i hi => ?_
    simp [hi, getLsbD_syncCells_body e (44 + i) (by omega)]
  simpa [Nat.shiftRight_eq_div_pow] using congrArg BitVec.toNat hbits

/-! ### The frame that a master drives (R188) -/

variable {s : State}

theorem exec_syncFrameSend : exec .syncFrameSend s = .next (doSyncFrameSend s) := rfl

theorem exec_syncFrameReceive (edge : Nat) (cells : BitVec 56) :
    exec (.syncFrameReceive edge cells) s = .next (doSyncFrameReceive s edge cells) := rfl

theorem exec_syncLost : exec .syncLost s = .next (doSyncLost s) := rfl

/-- The next epoch boundary. -/
def nextEpoch (s : State) : Nat := (s.tb / epochTicks + 1) * epochTicks

/-- The cells that a master drives at the next epoch boundary. -/
def epochCells (s : State) : BitVec 56 := syncCells ((BitVec.ofNat 64 (nextEpoch s)).extractLsb' 20 44)

theorem nextEpoch_eq (s : State) : nextEpoch s = (s.tb / 2 ^ 20 + 1) * 2 ^ 20 := by simp [nextEpoch, epochTicks]

theorem advanceTo_nextEpoch (s : State) : advanceTo s (nextEpoch s) = { s with tb := nextEpoch s } := by
  have hlater : s.tb ≤ nextEpoch s := by
    rw [nextEpoch_eq]
    omega
  rw [advanceTo, max_eq_right hlater]

/-- A master drives its frame when the timebase has come to the boundary. -/
theorem doSyncFrameSend_master (hm : s.sync.mode = 1) : doSyncFrameSend s =
    emit (advanceTo s (nextEpoch s)) (.syncFrame (syncCells ((tb64 (advanceTo s (nextEpoch s))).extractLsb' 20 44))) :=
  if_neg (not_not_intro hm)

theorem doSyncFrameSend_master_eq (hm : s.sync.mode = 1) :
    doSyncFrameSend s = { s with tb := nextEpoch s, out := .syncFrame (epochCells s) :: s.out } := by
  rw [doSyncFrameSend_master hm, advanceTo_nextEpoch]
  rfl

theorem doSyncFrameSend_other (hm : s.sync.mode ≠ 1) : doSyncFrameSend s = s := if_pos hm

theorem toNat_epochCells (s : State) : (epochCells s).toNat % 2 ^ 44 = (s.tb / 2 ^ 20 + 1) % 2 ^ 44 := by
  rw [epochCells, toNat_syncCells_epoch, nextEpoch_eq, BitVec.extractLsb'_toNat, BitVec.toNat_ofNat, Nat.shiftRight_eq_div_pow]
  rw [show 2 ^ 64 = 2 ^ 44 * 2 ^ 20 from rfl, Nat.mul_mod_mul_right, Nat.mul_div_cancel _ (by decide), Nat.mod_mod]

/-! ### A frame that a slave receives (R187, R189) -/

/-- The state at a frame's marker edge: the timebase has come to it, and a repeating slave has reproduced the frame. -/
def atFrame (s : State) (edge : Nat) (cells : BitVec 56) : State :=
  if s.sync.repeat_ then emit (advanceTo s (edge / 64)) (.syncFrame cells) else advanceTo s (edge / 64)

/-- The sync function's registers once a valid frame is counted in the state `u` at its marker edge. -/
def validFrame (u : State) (edge : Nat) (cells : BitVec 56) : Sync :=
  { u.sync with frames := u.sync.frames + 1, agreed := if (syncError u edge cells).natAbs ≤ 2 then u.sync.agreed + 1 else 0, lastFrame := u.tb }

/-- The count to which a valid frame sets the timebase with no job open. -/
def frameCount (u : State) (edge : Nat) (cells : BitVec 56) : Nat :=
  (((max (64 * u.tb) edge : Nat) - syncError u edge cells : Int) / 64).toNat

/-- What a slave makes of a frame in the state `u` at its marker edge (R189). -/
def takeFrame (u : State) (edge : Nat) (cells : BitVec 56) : State :=
  if syncCrc cells ≠ syncCarried cells then { u with sync := { u.sync with bad := satInc u.sync.bad } }
  else if jobOpen u then
    if (syncError u edge cells).natAbs ≤ 2 then { u with sync := validFrame u edge cells }
    else logEv { u with sync := { validFrame u edge cells with fault := true } } 0 0x0033 (valueData 0 0 0 0)
  else { u with
    tb := frameCount u edge cells
    sync := { validFrame u edge cells with
      lock := u.sync.lock || decide (2 ≤ (validFrame u edge cells).agreed), lastFrame := frameCount u edge cells,
      phase := u.sync.phase + BitVec.ofInt 6 (syncError u edge cells) } }

section Frame

variable {u : State} {edge : Nat} {cells : BitVec 56}

theorem doSyncFrameReceive_slave (hm : s.sync.mode = 2) : doSyncFrameReceive s edge cells = takeFrame (atFrame s edge cells) edge cells := by
  rw [doSyncFrameReceive, if_neg (not_not_intro hm)]
  simp only [decide_eq_true_eq]
  rfl

theorem doSyncFrameReceive_other (hm : s.sync.mode ≠ 2) : doSyncFrameReceive s edge cells = s := if_pos hm

theorem takeFrame_bad (hcrc : syncCrc cells ≠ syncCarried cells) :
    takeFrame u edge cells = { u with sync := { u.sync with bad := satInc u.sync.bad } } := if_pos hcrc

section Valid

variable (hcrc : syncCrc cells = syncCarried cells)
include hcrc

theorem takeFrame_agrees (hopen : jobOpen u = true) (herr : (syncError u edge cells).natAbs ≤ 2) :
    takeFrame u edge cells = { u with sync := validFrame u edge cells } := by
  rw [takeFrame, if_neg (not_not_intro hcrc), if_pos hopen, if_pos herr]

theorem takeFrame_disagrees (hopen : jobOpen u = true) (herr : 2 < (syncError u edge cells).natAbs) : takeFrame u edge cells =
    logEv { u with sync := { validFrame u edge cells with fault := true } } 0 0x0033 (valueData 0 0 0 0) := by
  rw [takeFrame, if_neg (not_not_intro hcrc), if_pos hopen, if_neg (by omega)]

theorem takeFrame_sets (hopen : jobOpen u = false) : takeFrame u edge cells = { u with
    tb := frameCount u edge cells
    sync := { validFrame u edge cells with
      lock := u.sync.lock || decide (2 ≤ (validFrame u edge cells).agreed), lastFrame := frameCount u edge cells,
      phase := u.sync.phase + BitVec.ofInt 6 (syncError u edge cells) } } := by
  rw [takeFrame, if_neg (not_not_intro hcrc), if_neg (by simp [hopen])]

end Valid

/-- Neither what was driven nor the REPEAT setting matters to what a slave makes of a frame. -/
theorem takeFrame_repeating {v : State} {o : List Out} {r : Bool} (hv : v = { u with out := o, sync := { u.sync with repeat_ := r } }) :
    (takeFrame v edge cells).tb = (takeFrame u edge cells).tb ∧
      (takeFrame v edge cells).sync = { (takeFrame u edge cells).sync with repeat_ := r } ∧ (takeFrame v edge cells).out = o := by
  have hjob : jobOpen v = jobOpen u := by rw [hv, jobOpen, jobOpen]
  have herrs : syncError v edge cells = syncError u edge cells := by rw [hv, syncError, syncError]
  by_cases hcrc : syncCrc cells = syncCarried cells
  · cases hopen : jobOpen u with
    | false =>
      rw [takeFrame_sets hcrc hopen, takeFrame_sets hcrc (hjob.trans hopen)]
      subst hv
      exact ⟨rfl, rfl, rfl⟩
    | true =>
      by_cases herr : (syncError u edge cells).natAbs ≤ 2
      · rw [takeFrame_agrees hcrc hopen herr, takeFrame_agrees hcrc (hjob.trans hopen) (herrs ▸ herr)]
        subst hv
        exact ⟨rfl, rfl, rfl⟩
      · rw [not_le] at herr
        rw [takeFrame_disagrees hcrc hopen herr, takeFrame_disagrees hcrc (hjob.trans hopen) (herrs ▸ herr)]
        subst hv
        exact ⟨rfl, rfl, rfl⟩
  · rw [takeFrame_bad hcrc, takeFrame_bad hcrc]
    subst hv
    exact ⟨rfl, rfl, rfl⟩

end Frame

/-! ### Loss of the sync (R189) -/

theorem doSyncLost_slave (hm : s.sync.mode = 2) : doSyncLost s =
    let u := advanceTo s (s.sync.lastFrame + 3 * epochTicks)
    logEv { u with sync := { u.sync with lock := false, lost := true, agreed := 0, lastFrame := u.tb } } 0 0x0034 (valueData 0 0 0 0) :=
  if_neg (not_not_intro hm)

theorem doSyncLost_other (hm : s.sync.mode ≠ 2) : doSyncLost s = s := if_pos hm

/-! ### What a frame sent, received or missed leaves -/

theorem runs_syncFrameSend (hm : s.sync.mode = 1) : Runs .syncFrameSend s (fun t => t = { s with tb := t.tb, out := t.out } ∧
    t.tb = (s.tb / 2 ^ 20 + 1) * 2 ^ 20 ∧
    ∃ c : BitVec 56, t.out = .syncFrame c :: s.out ∧ c.toNat % 2 ^ 44 = (s.tb / 2 ^ 20 + 1) % 2 ^ 44 ∧ c.toNat / 2 ^ 44 % 16 = 0 ∧
      syncCarried c = syncCrc c) := by
  refine ⟨_, exec_syncFrameSend, ?_⟩
  rw [doSyncFrameSend_master_eq hm]
  exact ⟨rfl, nextEpoch_eq s, epochCells s, rfl, toNat_epochCells s, toNat_syncCells_pad _, syncCarried_syncCells _⟩

section Receive

variable {edge : Nat} {cells : BitVec 56} (hm : s.sync.mode = 2)
include hm

/-- A repeating slave does with a frame what it does without repeating, and reproduces the waveform (R187). -/
theorem runs_syncFrameReceive_repeats (hr : s.sync.repeat_ = true) :
    Runs (.syncFrameReceive edge cells) s (fun t => ∃ u,
      exec (.syncFrameReceive edge cells) { s with sync := { s.sync with repeat_ := false } } = .next u ∧ t.tb = u.tb ∧
      t.sync = { u.sync with repeat_ := true } ∧ .syncFrame cells ∈ t.out) := by
  refine ⟨_, exec_syncFrameReceive .., _, exec_syncFrameReceive .., ?_⟩
  have hv : atFrame s edge cells = { atFrame { s with sync := { s.sync with repeat_ := false } } edge cells with
      out := .syncFrame cells :: s.out, sync := { s.sync with repeat_ := true } } := by
    rw [atFrame, if_pos hr, ← hr]
    rfl
  obtain ⟨htb, hsync, hout⟩ := takeFrame_repeating (edge := edge) (cells := cells) hv
  rw [doSyncFrameReceive_slave hm, doSyncFrameReceive_slave (s := { s with sync := { s.sync with repeat_ := false } }) hm]
  exact ⟨htb, hsync, by simp [hout]⟩

variable (hr : s.sync.repeat_ = false)
include hr

theorem exec_syncFrameReceive_silent :
    exec (.syncFrameReceive edge cells) s = .next (takeFrame (advanceTo s (edge / 64)) edge cells) := by
  rw [exec_syncFrameReceive, doSyncFrameReceive_slave hm, atFrame, if_neg (by simp [hr])]

theorem exec_syncFrameReceive_bad (hcrc : syncCrc cells ≠ syncCarried cells) : exec (.syncFrameReceive edge cells) s =
    .next { s with tb := max s.tb (edge / 64), sync := { s.sync with bad := satInc s.sync.bad } } := by
  rw [exec_syncFrameReceive_silent hm hr, takeFrame_bad hcrc]
  rfl

variable (hcrc : syncCrc cells = syncCarried cells)
include hcrc

theorem runs_syncFrameReceive_disagrees (hopen : jobOpen s = true) (herr : 2 < (syncError s edge cells).natAbs) :
    Runs (.syncFrameReceive edge cells) s (fun t => t.sync.fault = true ∧ t.sync.frames = s.sync.frames + 1 ∧ t.sync.lock = s.sync.lock ∧
      t.tb = max s.tb (edge / 64)) := by
  refine ⟨_, exec_syncFrameReceive_silent hm hr, ?_⟩
  rw [takeFrame_disagrees (u := advanceTo s (edge / 64)) hcrc hopen herr]
  exact ⟨rfl, rfl, rfl, rfl⟩

theorem runs_syncFrameReceive_agrees (hopen : jobOpen s = true) (herr : (syncError s edge cells).natAbs ≤ 2) :
    Runs (.syncFrameReceive edge cells) s (fun t => t = { s with tb := max s.tb (edge / 64), sync := { s.sync with
      frames := s.sync.frames + 1, agreed := s.sync.agreed + 1, lastFrame := max s.tb (edge / 64) } }) := by
  refine ⟨_, exec_syncFrameReceive_silent hm hr, ?_⟩
  rw [takeFrame_agrees (u := advanceTo s (edge / 64)) hcrc hopen herr, validFrame, if_pos (by exact herr)]
  rfl

theorem runs_syncFrameReceive_sets (hopen : jobOpen s = false) :
    let now : Int := max (64 * max s.tb (edge / 64)) edge
    let set : Int := now - syncError s edge cells
    Runs (.syncFrameReceive edge cells) s (fun t => t = { s with tb := t.tb, sync := t.sync } ∧ t.sync.frames = s.sync.frames + 1 ∧
      t.tb = (set / 64).toNat ∧ t.sync.phase = s.sync.phase + BitVec.ofInt 6 (syncError s edge cells) ∧ t.sync.lastFrame = t.tb ∧
      (t.sync.lock = true ↔ s.sync.lock = true ∨ ((syncError s edge cells).natAbs ≤ 2 ∧ 1 ≤ s.sync.agreed))) := by
  intro now set
  refine ⟨_, exec_syncFrameReceive_silent hm hr, ?_⟩
  rw [takeFrame_sets (u := advanceTo s (edge / 64)) hcrc hopen]
  have hagreed : 2 ≤ (validFrame (advanceTo s (edge / 64)) edge cells).agreed ↔
      (syncError s edge cells).natAbs ≤ 2 ∧ 1 ≤ s.sync.agreed := by
    show 2 ≤ (if (syncError s edge cells).natAbs ≤ 2 then s.sync.agreed + 1 else 0) ↔ _
    split <;> omega
  have hcount : frameCount (advanceTo s (edge / 64)) edge cells = (set / 64).toNat := by
    show (((max (64 * max s.tb (edge / 64)) edge : Nat) - syncError s edge cells : Int) / 64).toNat = _
    rw [Nat.cast_max, Nat.cast_mul]
    rfl
  refine ⟨rfl, rfl, hcount, rfl, rfl, ?_⟩
  simp [hagreed]

end Receive

theorem runs_syncLost (hm : s.sync.mode = 2) : Runs .syncLost s (fun t => t = { s with tb := t.tb, sync := t.sync, evqs := t.evqs } ∧
    t.tb = max s.tb (s.sync.lastFrame + 3 * 2 ^ 20) ∧
    t.sync = { s.sync with lock := false, lost := true, agreed := 0, lastFrame := t.tb }) := by
  refine ⟨_, exec_syncLost, ?_⟩
  rw [doSyncLost_slave hm]
  refine ⟨rfl, ?_, rfl⟩
  show max s.tb (s.sync.lastFrame + 3 * epochTicks) = _
  rw [show epochTicks = 2 ^ 20 from rfl]

end Sys2Proof.Proofs
end

section
/-! PROOFS. The line generators' predictions and the start event (R192, R194, R361, R393). -/

open Sys2Proof Sys2Proof.Machine Sys2Proof.Claims

namespace Sys2Proof.Proofs

variable {s : State}

/-! ### Other records of a table, and what a record does not depend on -/

theorem rowAt_setRow_other {r q : Nat} {w : Row} (h : q ≠ r) : rowAt (setRow s r w) q = rowAt s q := sget_sput_other _ _ _ _ _ h

theorem encAt_setEnc_other {e f : Nat} {x : Encoder} (h : f ≠ e) : encAt (setEnc s e x) f = encAt s f := sget_sput_other _ _ _ _ _ h

theorem rowTiming_congr {t : State} (h : t.params = s.params) (r : Nat) : rowTiming t r = rowTiming s r := by
  simp only [rowTiming, param?, h]

/-! ### Predictions (R194) -/

/-- The prediction for the uncommitted line of a row `w` from the count `k` and the count `c0` at which the job began; where the
rule makes none the one before it stands. -/
def linePred (c0 : Int) (tm : RowTiming) (k : CountRec) (w : Row) : Option Nat :=
  let x : Int := (k.c - c0) * tm.ratio
  let b : Int := (w.line * 2 ^ 32 + tm.oF * 2 ^ 24 : Nat)
  if b ≤ x then some (64 * k.t) else if k.ready then some (64 * k.t + ((b - x) * k.tp / tm.ratio).toNat) else w.pred

theorem predict_cases (s : State) (r : Nat) : predict s r = s ∨ ∃ p, predict s r = setRow s r { rowAt s r with pred := p } := by
  unfold predict
  split
  · exact .inl rfl
  dsimp only
  split
  · exact .inl rfl
  split
  · exact .inr ⟨_, rfl⟩
  split
  · exact .inr ⟨_, rfl⟩
  · exact .inl rfl

/-- A prediction changes the rows alone. -/
theorem predict_frame (s : State) (r : Nat) : ∃ rs, predict s r = { s with rows := rs } := by
  obtain h | ⟨p, h⟩ := predict_cases s r
  · exact ⟨s.rows, h⟩
  · exact ⟨_, h⟩

/-- Of a row, a prediction changes the prediction alone. -/
theorem rowAt_predict_pred (s : State) (r q : Nat) : ∃ p, rowAt (predict s r) q = { rowAt s q with pred := p } := by
  obtain h | ⟨p, h⟩ := predict_cases s r
  · exact ⟨(rowAt s q).pred, by rw [h]⟩
  · by_cases hq : q = r
    · exact ⟨p, by rw [h, hq, rowAt_setRow]⟩
    · exact ⟨(rowAt s q).pred, by rw [h, rowAt_setRow_other hq]⟩

theorem rowAt_predict_other {r q : Nat} (hq : q ≠ r) : rowAt (predict s r) q = rowAt s q := by
  obtain h | ⟨p, h⟩ := predict_cases s r
  · rw [h]
  · rw [h, rowAt_setRow_other hq]

theorem rowAt_predict {r : Nat} {j : Job} {k : CountRec} (hjob : s.job = some j) (hlast : (encAt s (rowTiming s r).encoder).last = some k) :
    rowAt (predict s r) r = { rowAt s r with pred := linePred (sget 0 j.c0 (rowTiming s r).encoder) (rowTiming s r) k (rowAt s r) } := by
  simp only [predict, hjob, hlast, linePred]
  split
  · rw [rowAt_setRow]
  · split
    · rw [rowAt_setRow]
    · rfl

theorem foldl_predict_frame (l : List Nat) (s : State) : ∃ rs, l.foldl predict s = { s with rows := rs } := by
  induction l generalizing s with
  | nil => exact ⟨s.rows, rfl⟩
  | cons r l ih =>
    obtain ⟨rs, hr⟩ := predict_frame s r
    obtain ⟨rs', hl⟩ := ih (predict s r)
    exact ⟨rs', by rw [List.foldl_cons, hl, hr]⟩

theorem rowAt_foldl_predict_pred (l : List Nat) (s : State) (q : Nat) : ∃ p, rowAt (l.foldl predict s) q = { rowAt s q with pred := p } := by
  induction l generalizing s with
  | nil => exact ⟨(rowAt s q).pred, rfl⟩
  | cons r l ih =>
    obtain ⟨p, hr⟩ := rowAt_predict_pred s r q
    obtain ⟨p', hl⟩ := ih (predict s r)
    exact ⟨p', by rw [List.foldl_cons, hl, hr]⟩

theorem rowAt_foldl_predict_other {l : List Nat} {q : Nat} (hq : q ∉ l) (s : State) : rowAt (l.foldl predict s) q = rowAt s q := by
  induction l generalizing s with
  | nil => rfl
  | cons r l ih =>
    obtain ⟨hqr, hql⟩ := List.ne_and_not_mem_of_not_mem_cons hq
    rw [List.foldl_cons, ih hql, rowAt_predict_other hqr]

/-- Each row of a list is predicted for once. -/
theorem rowAt_foldl_predict {l : List Nat} {r : Nat} {j : Job} {k : CountRec} (hnodup : l.Nodup) (hr : r ∈ l) (hjob : s.job = some j)
    (hlast : (encAt s (rowTiming s r).encoder).last = some k) :
    rowAt (l.foldl predict s) r = { rowAt s r with pred := linePred (sget 0 j.c0 (rowTiming s r).encoder) (rowTiming s r) k (rowAt s r) } := by
  obtain ⟨p, q, rfl⟩ := List.append_of_mem hr
  rw [List.nodup_middle, List.nodup_cons, List.mem_append, not_or] at hnodup
  obtain ⟨⟨hp, hq⟩, -⟩ := hnodup
  obtain ⟨rs, hbefore⟩ := foldl_predict_frame p s
  have hrow := rowAt_foldl_predict_other hp s
  rw [List.foldl_append, List.foldl_cons, rowAt_foldl_predict_other hq]
  rw [hbefore] at hrow ⊢
  rw [rowAt_predict (s := { s with rows := rs }) (j := j) (k := k) hjob hlast, hrow]
  rfl

/-! ### The start event (R393) -/

/-- A row at the start event. -/
def restedRow (w : Row) : Row :=
  { w with st := .run, line := 0, pred := none, committed := none, lastFire := none, lastDropped := false, ovsCopy := 0 }

/-- The job from its start event on. -/
def begunJob (s : State) (j : Job) : Job :=
  { j with st := .running, c0 := j.encs.foldl (fun m e => sput 0 m e (encAt s e).total) [] }

/-- The start event with the predictions that follow it. -/
def started (s : State) (j : Job) : State := j.rows.foldl predict (startJob s j)

theorem foldl_modRow_frame (f : Row → Row) (l : List Nat) (s : State) :
    ∃ rs, l.foldl (fun s r => modRow s r f) s = { s with rows := rs } := by
  induction l generalizing s with
  | nil => exact ⟨s.rows, rfl⟩
  | cons r l ih =>
    obtain ⟨rs, hl⟩ := ih (modRow s r f)
    exact ⟨rs, hl⟩

/-- What a change of each row of a list brings about holds of every row of the list. -/
theorem rowAt_foldl_modRow {f : Row → Row} {P : Row → Prop} (hf : ∀ w, P (f w)) (l : List Nat) (s : State) :
    ∀ q ∈ l, P (rowAt (l.foldl (fun s r => modRow s r f) s) q) := by
  induction l using List.reverseRecOn with
  | nil => simp
  | append_singleton l r ih =>
    intro q hq
    rw [List.foldl_concat]
    by_cases hqr : q = r
    · rw [hqr, modRow, rowAt_setRow]
      exact hf _
    · rw [modRow, rowAt_setRow_other hqr]
      exact ih q (by simpa [hqr] using hq)

theorem foldl_logEv_frame {l : List Nat} {d code : Nat} {data : Nat → State → List Byte} (s : State) :
    ∃ qs, l.foldl (fun s g => logEv s d code (data g s)) s = { s with evqs := qs } := by
  induction l generalizing s with
  | nil => exact ⟨s.evqs, rfl⟩
  | cons g l ih =>
    obtain ⟨qs, hl⟩ := ih (logEv s d code (data g s))
    exact ⟨qs, hl⟩

theorem logGroups_frame (s : State) : ∃ qs, logGroups s = { s with evqs := qs } :=
  foldl_logEv_frame (data := fun g s => valueData g (svcAt s g).st.code 0 0) s

theorem startJob_frame (s : State) (j : Job) : ∃ hs rs qs,
    startJob s j = { s with job := some (begunJob s j), heads := hs, rows := rs, evqs := qs } ∧
      ∀ r ∈ j.rows, ∃ w, rowAt (startJob s j) r = restedRow w := by
  let t : State := { s with
    job := some (begunJob s j), heads := s.heads.map (fun p => (p.1, { p.2 with hist := [], fault := p.2.fault.map (fun _ => 0) })) }
  have heq : startJob s j = logGroups (j.rows.foldl (fun s r => modRow s r restedRow) t) := rfl
  obtain ⟨rs, hrows⟩ := foldl_modRow_frame restedRow j.rows t
  obtain ⟨qs, hlog⟩ := logGroups_frame (j.rows.foldl (fun s r => modRow s r restedRow) t)
  have hrested := rowAt_foldl_modRow (P := fun v => ∃ w, v = restedRow w) (fun w => ⟨w, rfl⟩) j.rows t
  refine ⟨t.heads, rs, qs, ?_, ?_⟩
  · rw [heq, hlog, hrows]
  · rw [heq, hlog]
    exact hrested

theorem started_frame (s : State) (j : Job) : ∃ hs rs qs,
    started s j = { s with job := some (begunJob s j), heads := hs, rows := rs, evqs := qs } := by
  obtain ⟨hs, _, qs, hstart, -⟩ := startJob_frame s j
  obtain ⟨rs, hpred⟩ := foldl_predict_frame j.rows (startJob s j)
  exact ⟨hs, rs, qs, by rw [started, hpred, hstart]⟩

/-- What the statements say of the start event of `j` in the state `s`: the counts latched, and every row at line 0. -/
abbrev Begun (s v : State) (j : Job) : Prop :=
  (∃ k, v.job = some k ∧ k.st = .running ∧ k.pages = j.pages ∧ ∀ f ∈ j.encs, sget 0 k.c0 f = (encAt s f).total) ∧
    ∀ r ∈ j.rows, (rowAt v r).st = .run ∧ (rowAt v r).line = 0 ∧ (rowAt v r).committed = none

theorem sget_c0_begunJob {j : Job} {f : Nat} (hf : f ∈ j.encs) : sget 0 (begunJob s j).c0 f = (encAt s f).total :=
  (sget_foldl_sput 0 (fun e => (encAt s e).total) j.encs [] f).trans (if_pos hf)

theorem begun_started (s : State) (j : Job) : Begun s (started s j) j := by
  refine ⟨⟨begunJob s j, ?_, rfl, rfl, fun f => sget_c0_begunJob⟩, fun r hr => ?_⟩
  · obtain ⟨hs, rs, qs, heq⟩ := started_frame s j
    rw [heq]
  · obtain ⟨-, -, -, -, hrested⟩ := startJob_frame s j
    obtain ⟨w, hw⟩ := hrested r hr
    obtain ⟨p, hp⟩ := rowAt_foldl_predict_pred j.rows (startJob s j) r
    rw [started, hp, hw]
    exact ⟨rfl, rfl, rfl⟩

/-- The start event of the open job, where a count of encoder `e`, or with `ix` its index, is that event. -/
def startEvent (s : State) (e : Nat) (ix : Bool) : State :=
  match s.job with
  | some j => if j.startEnc = e ∧ j.startIndex = ix ∧ mayStart s j = true then started s j else s
  | none => s

theorem startEvent_frame (s : State) (e : Nat) (ix : Bool) : ∃ j hs rs qs,
    startEvent s e ix = { s with job := j, heads := hs, rows := rs, evqs := qs } := by
  unfold startEvent
  split
  next j _ =>
    split
    · obtain ⟨hs, rs, qs, heq⟩ := started_frame s j
      exact ⟨_, hs, rs, qs, heq⟩
    · exact ⟨s.job, s.heads, s.rows, s.evqs, rfl⟩
  · exact ⟨s.job, s.heads, s.rows, s.evqs, rfl⟩

@[simp] theorem tb_startEvent (s : State) (e : Nat) (ix : Bool) : (startEvent s e ix).tb = s.tb := by
  obtain ⟨j, hs, rs, qs, heq⟩ := startEvent_frame s e ix
  rw [heq]

@[simp] theorem encAt_startEvent (s : State) (e : Nat) (ix : Bool) (f : Nat) : encAt (startEvent s e ix) f = encAt s f := by
  obtain ⟨j, hs, rs, qs, heq⟩ := startEvent_frame s e ix
  rw [heq]
  rfl

theorem begun_startEvent {e : Nat} {ix : Bool} {j : Job} (hjob : s.job = some j) (he : j.startEnc = e) (hix : j.startIndex = ix)
    (hmay : mayStart s j = true) : Begun s (startEvent s e ix) j := by
  have heq : startEvent s e ix = started s j := by
    simp only [startEvent, hjob]
    exact if_pos ⟨he, hix, hmay⟩
  rw [heq]
  exact begun_started s j

/-- The conditions of R393 look at READY of the encoders, but at neither the timebase nor the event queues. -/
theorem mayStart_congr {t : State} (ht : t = { s with tb := t.tb, encs := t.encs, evqs := t.evqs })
    (hready : ∀ e, (encAt t e).ready = (encAt s e).ready) (j : Job) : mayStart t j = mayStart s j := by
  have hheads : ∀ u es qs, (j.rows.all fun r => (rowHeads { s with tb := u, encs := es, evqs := qs } r).all
      (headStartOk { s with tb := u, encs := es, evqs := qs })) = j.rows.all fun r => (rowHeads s r).all (headStartOk s) := fun _ _ _ => rfl
  simp only [mayStart, hready]
  rw [ht, hheads]

end Sys2Proof.Proofs
end

section
/-! PROOFS. The substrate encoders (R190-R194, R361, R393): samples of A, B and Z, the long gap, and what the line generators do with a count. -/

open Sys2Proof Sys2Proof.Machine Sys2Proof.Claims

namespace Sys2Proof.Proofs

variable {s : State} {e t n : Nat} {a b : Bool}

/-! ### The filter (R190) -/

theorem candidate_same (level : Bool) (cand : Option Nat) (t : Nat) : candidate level level cand t = none := if_pos rfl

theorem candidate_changed {accepted level : Bool} (h : level ≠ accepted) (cand : Option Nat) (t : Nat) :
    candidate accepted level cand t = some (cand.getD t) := if_neg h

theorem passes_none (x : Encoder) (stop : Nat) : x.passes none stop = none := rfl

theorem passes_stable {x : Encoder} {u stop : Nat} (h : u + x.filt.toNat + 1 ≤ stop) : x.passes (some u) stop = some u :=
  Option.filter_some.trans (if_pos (decide_eq_true h))

theorem passes_unstable {x : Encoder} {c : Option Nat} {stop : Nat} (h : ∀ u, c = some u → stop < u + x.filt.toNat + 1) :
    x.passes c stop = none := by
  cases c with
  | none => rfl
  | some u =>
    have hu := h u rfl
    exact Option.filter_some.trans (if_neg (by simpa using hu))

/-- The first samples of levels that the filter has not accepted, noted. -/
def putCands (s : State) (e : Nat) (ca cb : Option Nat) : State :=
  if (encAt s e).candA = ca ∧ (encAt s e).candB = cb then s else setEnc s e { encAt s e with candA := ca, candB := cb }

theorem putCands_frame (s : State) (e : Nat) (ca cb : Option Nat) : putCands s e ca cb = { s with encs := (putCands s e ca cb).encs } := by
  unfold putCands
  split <;> rfl

@[simp] theorem encAt_putCands (s : State) (e : Nat) (ca cb : Option Nat) :
    encAt (putCands s e ca cb) e = { encAt s e with candA := ca, candB := cb } := by
  unfold putCands
  split
  next h =>
    obtain ⟨rfl, rfl⟩ := h
    rfl
  · exact encAt_setEnc ..

theorem encAt_putCands_other {f : Nat} (h : f ≠ e) (ca cb : Option Nat) : encAt (putCands s e ca cb) f = encAt s f := by
  unfold putCands
  split
  · rfl
  · exact encAt_setEnc_other h

@[simp] theorem tb_putCands (s : State) (e : Nat) (ca cb : Option Nat) : (putCands s e ca cb).tb = s.tb := by rw [putCands_frame]

/-- Nothing is noted where nothing waits and nothing is new. -/
theorem putCands_none (ha : (encAt s e).candA = none) (hb : (encAt s e).candB = none) : putCands s e none none = s := if_pos ⟨ha, hb⟩

/-! ### A count (R190, R192) -/

/-- Whether a count at tick `t` begins a run: the direction is another, or the gap is too long, or there is no run. -/
def beginsRun (x : Encoder) (t : Nat) (a b : Bool) : Bool :=
  x.fwd != x.forward a b || (match x.stamps.head? with | some p => decide (gapTicks < t - p) | none => true)

section Step

variable (x : Encoder) (t : Nat) (a b : Bool)

theorem step_stamps : (x.step t a b).stamps = if beginsRun x t a b then [t] else (t :: x.stamps).take 17 := rfl

theorem step_acts : (x.step t a b).acts = x.acts ++ [⟨t, (x.step t a b).total, (x.step t a b).ready, (x.step t a b).tp⟩] := rfl

theorem step_stamps_head : (x.step t a b).stamps.head? = some t := by
  rw [step_stamps]
  split <;> rfl

theorem step_stamps_turn (h : x.fwd ≠ x.forward a b) : (x.step t a b).stamps = [t] := by
  have hbegins : beginsRun x t a b = true := by simp [beginsRun, h]
  rw [step_stamps, if_pos hbegins]

theorem step_stamps_run {q : Nat} (hq : x.stamps.head? = some q) (h : x.fwd = x.forward a b) :
    (x.step t a b).stamps = [t] ↔ 2 ^ 20 < t - q ∨ (t :: x.stamps).take 17 = [t] := by
  have hbegins : beginsRun x t a b = true ↔ gapTicks < t - q := by simp [beginsRun, hq, h]
  rw [show gapTicks = 2 ^ 20 from rfl] at hbegins
  rw [step_stamps]
  by_cases hgap : 2 ^ 20 < t - q
  · rw [if_pos (hbegins.mpr hgap)]
    exact iff_of_true rfl (.inl hgap)
  · rw [if_neg (hbegins.not.mpr hgap)]
    simp only [hgap, false_or]

/-- The direction as the statement writes it: a change of A, or else of B. -/
theorem forward_eq : x.forward a b = ((if x.a ≠ a then decide (a ≠ b) else decide (a = b)) != x.invert) := by
  unfold Encoder.forward
  by_cases ha : x.a = a <;> cases a <;> cases b <;> simp [ha]

end Step

/-- An accepted count, with no start event. -/
def counted (s : State) (e t : Nat) (a b : Bool) : State := setEnc (advanceTo s t) e ((encAt s e).step t a b)

theorem encCount_eq (s : State) (e t : Nat) (a b : Bool) : encCount s e t a b = startEvent (counted s e t a b) e false := by
  cases hjob : s.job with
  | none => simp only [encCount, startEvent, counted, setEnc_job, advanceTo_job, hjob]
  | some j =>
    simp only [encCount, startEvent, counted, setEnc_job, advanceTo_job, hjob, started, Bool.not_eq_true']
    rfl

@[simp] theorem tb_encCount (s : State) (e t : Nat) (a b : Bool) : (encCount s e t a b).tb = max s.tb t := by
  rw [encCount_eq, tb_startEvent]
  rfl

@[simp] theorem encAt_encCount (s : State) (e t : Nat) (a b : Bool) : encAt (encCount s e t a b) e = (encAt s e).step t a b := by
  rw [encCount_eq, encAt_startEvent, counted, encAt_setEnc]

theorem encAt_encCount_other {f : Nat} (h : f ≠ e) : encAt (encCount s e t a b) f = encAt s f := by
  rw [encCount_eq, encAt_startEvent, counted, encAt_setEnc_other h]
  rfl

/-! ### ENCODER_COUNT (R190) -/

theorem exec_encoderCount : exec (.encoderCount e t a b n) s = .next (doEncoderCount s e t a b n) := rfl

theorem exec_encoderIndex : exec (.encoderIndex e t n) s = .next (doEncoderIndex s e t n) := rfl

theorem exec_encoderLongGap : exec (.encoderLongGap e t) s = .next (doEncoderLongGap s e t) := rfl

theorem exec_timeCountAct : exec (.timeCountAct e) s = .next (doTimeCountAct s e) := rfl

theorem doEncoderCount_none (he : 4 ≤ e) : doEncoderCount s e t a b n = s := if_pos he

/-- What a sample does, by the levels that the filter passes. -/
theorem doEncoderCount_eq (he : e < 4) : doEncoderCount s e t a b n =
    let x := encAt s e
    let candA := candidate x.a a x.candA t
    let candB := candidate x.b b x.candB t
    match x.passes candA (t + n), x.passes candB (t + n) with
    | none, none => putCands s e candA candB
    | some u, none => encCount (putCands s e none candB) e u a x.b
    | none, some v => encCount (putCands s e candA none) e v x.a b
    | some u, some v =>
      if u = v then encError (putCands s e none none) e u a b
      else if u < v then encCount (encCount (putCands s e none none) e u a x.b) e v a b
      else encCount (encCount (putCands s e none none) e v x.a b) e u a b := if_neg (by omega)

theorem doEncoderCount_waits (he : e < 4)
    (ha : (encAt s e).passes (candidate (encAt s e).a a (encAt s e).candA t) (t + n) = none)
    (hb : (encAt s e).passes (candidate (encAt s e).b b (encAt s e).candB t) (t + n) = none) :
    doEncoderCount s e t a b n =
      putCands s e (candidate (encAt s e).a a (encAt s e).candA t) (candidate (encAt s e).b b (encAt s e).candB t) := by
  rw [doEncoderCount_eq he]
  simp only [ha, hb]

/-- One input changed and is stable: a count. -/
theorem doEncoderCount_one {u : Nat} (he : e < 4)
    (hone : a ≠ (encAt s e).a ∧ b = (encAt s e).b ∧ u = (encAt s e).candA.getD t ∨
      a = (encAt s e).a ∧ b ≠ (encAt s e).b ∧ u = (encAt s e).candB.getD t)
    (hstable : u + (encAt s e).filt.toNat + 1 ≤ t + n) : doEncoderCount s e t a b n = encCount (putCands s e none none) e u a b := by
  rw [doEncoderCount_eq he]
  obtain ⟨ha, hb, hu⟩ | ⟨ha, hb, hu⟩ := hone
  · simp only [candidate_changed ha, ← hu, passes_stable hstable, ← hb, candidate_same, passes_none]
  · simp only [candidate_changed hb, ← hu, passes_stable hstable, ← ha, candidate_same, passes_none]

/-- Both inputs changed and are stable: an error where they changed in one sample, otherwise two counts, in the order of the changes. -/
theorem doEncoderCount_both {u v : Nat} (he : e < 4) (ha : a ≠ (encAt s e).a) (hb : b ≠ (encAt s e).b)
    (hu : u = (encAt s e).candA.getD t) (hv : v = (encAt s e).candB.getD t) (hstable : max u v + (encAt s e).filt.toNat + 1 ≤ t + n) :
    doEncoderCount s e t a b n =
      if u = v then encError (putCands s e none none) e u a b
      else if u < v then encCount (encCount (putCands s e none none) e u a (encAt s e).b) e v a b
      else encCount (encCount (putCands s e none none) e v (encAt s e).a b) e u a b := by
  have hstableA : u + (encAt s e).filt.toNat + 1 ≤ t + n := by omega
  have hstableB : v + (encAt s e).filt.toNat + 1 ≤ t + n := by omega
  rw [doEncoderCount_eq he]
  simp only [candidate_changed ha, candidate_changed hb, ← hu, ← hv, passes_stable hstableA, passes_stable hstableB]

/-- One input changed (R190, R192): what the count is. -/
theorem runs_encoderCount_one {u : Nat} (he : e < 4)
    (hone : a ≠ (encAt s e).a ∧ b = (encAt s e).b ∧ u = (encAt s e).candA.getD t ∨
      a = (encAt s e).a ∧ b ≠ (encAt s e).b ∧ u = (encAt s e).candB.getD t)
    (hstable : u + (encAt s e).filt.toNat + 1 ≤ t + n) :
    let x := encAt s e
    let forward : Bool := (if x.a ≠ a then decide (a ≠ b) else decide (a = b)) != x.invert
    Runs (.encoderCount e t a b n) s (fun v => let y := encAt v e
      v.tb = max s.tb u ∧ only e encAt s v ∧ y.a = a ∧ y.b = b ∧ y.candA = none ∧ y.candB = none ∧ y.fwd = forward ∧
      y.count = (if forward then x.count + 1 else x.count - 1) ∧ y.total = (if forward then x.total + 1 else x.total - 1) ∧
      y.qerr = x.qerr ∧ y.stamps.head? = some u ∧ (x.fwd ≠ forward → y.stamps = [u]) ∧
      (∀ q, x.stamps.head? = some q → x.fwd = forward → (y.stamps = [u] ↔ 2 ^ 20 < u - q ∨ (u :: x.stamps).take 17 = [u])) ∧
      ∃ k, y.acts = x.acts ++ [k] ∧ k.t = u ∧ k.c = y.total ∧ (k.ready = true ↔ 17 ≤ y.stamps.length)) := by
  intro x forward
  refine ⟨_, exec_encoderCount, ?_⟩
  rw [doEncoderCount_one he hone hstable]
  let x' : Encoder := { x with candA := none, candB := none }
  have hy : encAt (encCount (putCands s e none none) e u a b) e = x'.step u a b := by rw [encAt_encCount, encAt_putCands]
  have hforward : forward = x'.forward a b := (forward_eq x' a b).symm
  dsimp only
  rw [hy, hforward]
  refine ⟨by rw [tb_encCount, tb_putCands], fun f hf => ?_, rfl, rfl, rfl, rfl, rfl, rfl, rfl, rfl, step_stamps_head x' u a b,
    step_stamps_turn x' u a b, fun q hq hrun => step_stamps_run x' u a b hq hrun, _, step_acts x' u a b, rfl, rfl, ?_⟩
  · rw [encAt_encCount_other hf, encAt_putCands_other hf]
  · exact decide_eq_true_iff

/-- No level is accepted yet. -/
theorem runs_encoderCount_waits (he : e < 4) :
    let x := encAt s e
    let ca := if a = x.a then none else some (x.candA.getD t)
    let cb := if b = x.b then none else some (x.candB.getD t)
    (∀ u, ca = some u ∨ cb = some u → t + n < u + x.filt.toNat + 1) →
    Runs (.encoderCount e t a b n) s (fun v => v = { s with encs := v.encs } ∧ only e encAt s v ∧
      encAt v e = { x with candA := ca, candB := cb }) := by
  intro x ca cb hwait
  have heq : doEncoderCount s e t a b n = putCands s e ca cb :=
    doEncoderCount_waits he (passes_unstable fun u hu => hwait u (.inl hu)) (passes_unstable fun u hu => hwait u (.inr hu))
  exact ⟨_, exec_encoderCount.trans (congrArg _ heq), putCands_frame .., fun f hf => encAt_putCands_other hf .., encAt_putCands ..⟩

/-- Both inputs changed in one sample. -/
theorem runs_encoderCount_error {u : Nat} (he : e < 4) (ha : a ≠ (encAt s e).a) (hb : b ≠ (encAt s e).b)
    (hu : u = (encAt s e).candA.getD t) (hv : u = (encAt s e).candB.getD t) (hstable : u + (encAt s e).filt.toNat + 1 ≤ t + n) :
    Runs (.encoderCount e t a b n) s (fun v => v = { s with tb := max s.tb u, encs := v.encs, evqs := v.evqs } ∧ only e encAt s v ∧
      encAt v e = { encAt s e with a := a, b := b, candA := none, candB := none, qerr := satInc (encAt s e).qerr }) := by
  have heq : doEncoderCount s e t a b n = encError (putCands s e none none) e u a b := by
    rw [doEncoderCount_both he ha hb hu hv (by omega), if_pos rfl]
  refine ⟨_, exec_encoderCount.trans (congrArg _ heq), ?_, fun f hf => ?_, ?_⟩
  · rw [putCands_frame]
    rfl
  · exact (encAt_setEnc_other hf).trans (encAt_putCands_other hf ..)
  · refine (encAt_setEnc ..).trans ?_
    rw [encAt_putCands]

/-- The inputs changed in two samples. -/
theorem runs_encoderCount_two {u v : Nat} (he : e < 4) (ha : a ≠ (encAt s e).a) (hb : b ≠ (encAt s e).b)
    (hu : u = (encAt s e).candA.getD t) (hv : v = (encAt s e).candB.getD t) (hne : u ≠ v)
    (hstable : max u v + (encAt s e).filt.toNat + 1 ≤ t + n) :
    let x := encAt s e
    Runs (.encoderCount e t a b n) s (fun w => w.tb = max s.tb (max u v) ∧ (encAt w e).qerr = x.qerr ∧ (encAt w e).a = a ∧ (encAt w e).b = b ∧
      (encAt w e).acts.length = x.acts.length + 2 ∧
      (encAt w e).total = ((if u < v then (x.step u a x.b).step v a b else (x.step v x.a b).step u a b)).total) := by
  intro x
  refine ⟨_, exec_encoderCount, ?_⟩
  rw [doEncoderCount_both he ha hb hu hv hstable, if_neg hne]
  split
  all_goals
    simp only [tb_encCount, tb_putCands, encAt_encCount, encAt_putCands]
    exact ⟨by omega, rfl, rfl, rfl, by simp [step_acts, x], rfl⟩

/-- The count that is a job's start event. -/
theorem runs_encoderCount_starts {u : Nat} {j : Job} (he : e < 4) :
    let x := encAt s e
    let s' := setEnc (advanceTo s u) e (x.step u a b)
    x.candA = none → x.candB = none → (a ≠ x.a ∧ b = x.b ∨ a = x.a ∧ b ≠ x.b) → u = t → x.filt.toNat + 1 ≤ n →
    s.job = some j → j.startEnc = e → j.startIndex = false → mayStart s' j = true →
    Runs (.encoderCount e t a b n) s (fun v => Begun s' v j) := by
  intro x s' hca hcb hone hut hstable hjob henc hix hmay
  have hchange : a ≠ x.a ∧ b = x.b ∧ u = x.candA.getD t ∨ a = x.a ∧ b ≠ x.b ∧ u = x.candB.getD t := by
    simpa only [hca, hcb, hut, Option.getD_none, and_true] using hone
  have heq : doEncoderCount s e t a b n = startEvent s' e false := by
    rw [doEncoderCount_one he hchange (show u + x.filt.toNat + 1 ≤ t + n by omega), putCands_none hca hcb, encCount_eq]
    rfl
  exact ⟨_, exec_encoderCount.trans (congrArg _ heq), begun_startEvent hjob henc hix hmay⟩

/-! ### ENCODER_INDEX (R191) -/

/-- Whether an index is a slip: there is a CPR, an index before, and the counts between the two are CPR neither way. -/
def slips (x : Encoder) : Bool :=
  x.cpr.zeroExtend 32 != 0 && x.idxSeen && x.count - x.idx != x.cpr.zeroExtend 32 && x.idx - x.count != x.cpr.zeroExtend 32

/-- An encoder whose index was accepted. -/
def indexed (x : Encoder) : Encoder := { x with idx := x.count, idxSeen := true, slip := if slips x then satInc x.slip else x.slip }

/-- The state in which an accepted index may be a start event. -/
def atIndex (s : State) (e t : Nat) : State :=
  if slips (encAt s e) then logEv (setEnc (advanceTo s t) e (indexed (encAt s e))) 0 0x0036 (valueData e (encAt s e).count.toNat 0 0)
  else setEnc (advanceTo s t) e (indexed (encAt s e))

theorem slips_iff (x : Encoder) : slips x = true ↔
    x.cpr ≠ 0 ∧ x.idxSeen = true ∧ x.count - x.idx ≠ x.cpr.zeroExtend 32 ∧ x.idx - x.count ≠ x.cpr.zeroExtend 32 := by
  have hcpr : x.cpr.zeroExtend 32 = 0 ↔ x.cpr = 0 := by
    constructor
    · intro h
      simpa using congrArg (BitVec.setWidth 16) h
    · rintro h
      rw [h]
      rfl
  simp only [slips, Bool.and_eq_true, bne_iff_ne, ne_eq, hcpr, and_assoc]

theorem atIndex_frame (s : State) (e t : Nat) :
    atIndex s e t = { s with tb := max s.tb t, encs := (atIndex s e t).encs, evqs := (atIndex s e t).evqs } := by
  unfold atIndex
  split <;> rfl

@[simp] theorem encAt_atIndex (s : State) (e t : Nat) : encAt (atIndex s e t) e = indexed (encAt s e) := by
  unfold atIndex
  split <;> exact encAt_setEnc ..

theorem encAt_atIndex_other {f : Nat} (h : f ≠ e) : encAt (atIndex s e t) f = encAt s f := by
  unfold atIndex
  split <;> exact encAt_setEnc_other h

theorem doEncoderIndex_none (he : 4 ≤ e ∨ n ≤ (encAt s e).filt.toNat) : doEncoderIndex s e t n = s := if_pos he

theorem doEncoderIndex_accepted (he : e < 4) (hstable : (encAt s e).filt.toNat < n) :
    doEncoderIndex s e t n = startEvent (atIndex s e t) e true := by
  rw [doEncoderIndex, if_neg (by omega)]
  rfl

theorem runs_encoderIndex (he : e < 4) (hstable : (encAt s e).filt.toNat < n) :
    Runs (.encoderIndex e t n) s (fun u => let x := encAt s e
      let y := encAt u e
      u.tb = max s.tb t ∧ only e encAt s u ∧ y.idx = x.count ∧ y.idxSeen = true ∧ y.count = x.count ∧
      y.slip = (if x.cpr ≠ 0 ∧ x.idxSeen = true ∧ x.count - x.idx ≠ x.cpr.zeroExtend 32 ∧ x.idx - x.count ≠ x.cpr.zeroExtend 32
        then satInc x.slip else x.slip)) := by
  refine ⟨_, exec_encoderIndex, ?_⟩
  rw [doEncoderIndex_accepted he hstable]
  dsimp only
  rw [encAt_startEvent, encAt_atIndex]
  refine ⟨by rw [tb_startEvent, atIndex_frame], fun f hf => ?_, rfl, rfl, rfl, ?_⟩
  · rw [encAt_startEvent, encAt_atIndex_other hf]
  · simp only [indexed, slips_iff]

/-- The index that is a job's start event. -/
theorem runs_encoderIndex_starts {j : Job} (he : e < 4) (hstable : (encAt s e).filt.toNat < n) (hjob : s.job = some j)
    (henc : j.startEnc = e) (hix : j.startIndex = true) (hmay : mayStart s j = true) :
    Runs (.encoderIndex e t n) s (fun u => Begun s u j) := by
  have hkept : ∀ f, (encAt (atIndex s e t) f).ready = (encAt s f).ready ∧ (encAt (atIndex s e t) f).total = (encAt s f).total := by
    intro f
    by_cases hf : f = e
    · rw [hf, encAt_atIndex]
      exact ⟨rfl, rfl⟩
    · rw [encAt_atIndex_other hf]
      exact ⟨rfl, rfl⟩
  have hframe := atIndex_frame s e t
  have hjob' : (atIndex s e t).job = some j := by
    rw [hframe]
    exact hjob
  have hmay' : mayStart (atIndex s e t) j = true :=
    (mayStart_congr (hframe.trans (by rw [hframe])) (fun f => (hkept f).1) j).trans hmay
  obtain ⟨⟨k, hk, hrun, hpages, hcounts⟩, hrows⟩ := begun_startEvent hjob' henc hix hmay'
  refine ⟨_, exec_encoderIndex.trans (congrArg _ (doEncoderIndex_accepted he hstable)), ⟨k, hk, hrun, hpages, fun f hf => ?_⟩, hrows⟩
  rw [hcounts f hf, (hkept f).2]

/-! ### The long gap (R192) -/

theorem doEncoderLongGap_ends {p : Nat} (hp : (encAt s e).stamps.head? = some p) (hgap : p + 2 ^ 20 < t) : doEncoderLongGap s e t =
    setEnc (advanceTo s t) e
      { encAt s e with stamps := [], last := (encAt s e).last.map (fun k => { k with ready := false, tp := 0 }) } := by
  have hlong : ¬ t - p ≤ gapTicks := by
    unfold gapTicks
    omega
  simp only [doEncoderLongGap, hp, if_neg hlong]

theorem doEncoderLongGap_none (h : ∀ p, (encAt s e).stamps.head? = some p → t ≤ p + 2 ^ 20) : doEncoderLongGap s e t = s := by
  cases hp : (encAt s e).stamps.head? with
  | none => simp only [doEncoderLongGap, hp]
  | some p =>
    have hshort : t - p ≤ gapTicks := by
      have := h p hp
      unfold gapTicks
      omega
    simp only [doEncoderLongGap, hp, if_pos hshort]

theorem runs_encoderLongGap {p : Nat} (hp : (encAt s e).stamps.head? = some p) (hgap : p + 2 ^ 20 < t) :
    Runs (.encoderLongGap e t) s (fun u => u = { s with tb := max s.tb t, encs := u.encs } ∧ only e encAt s u ∧
      encAt u e = { encAt s e with stamps := [], last := (encAt s e).last.map (fun k => { k with ready := false, tp := 0 }) } ∧
      (encAt u e).ready = false) := by
  refine ⟨_, exec_encoderLongGap.trans (congrArg _ (doEncoderLongGap_ends hp hgap)), rfl, fun f hf => encAt_setEnc_other hf, encAt_setEnc .., ?_⟩
  rw [encAt_setEnc]
  rfl

/-! ### What the line generators do with a count (R194, R361) -/

theorem doTimeCountAct_none (h : (encAt s e).acts = []) : doTimeCountAct s e = s := by simp only [doTimeCountAct, h]

/-- The state in which the rows are predicted for. -/
def acted (s : State) (e : Nat) (k : CountRec) (ks : List CountRec) : State :=
  setEnc (advanceTo s (k.t + 48)) e { encAt s e with acts := ks, last := some k }

theorem doTimeCountAct_some {k : CountRec} {ks : List CountRec} (h : (encAt s e).acts = k :: ks) :
    doTimeCountAct s e = (encRows (acted s e k ks) e).foldl predict (acted s e k ks) := by
  simp only [doTimeCountAct, h]
  rfl

theorem encRows_running {j : Job} (hjob : s.job = some j) (hrun : j.st = .running) (e : Nat) :
    encRows s e = j.rows.filter (fun r => (rowTiming s r).encoder == e) := by
  simp only [encRows, hjob, hrun, if_true]

theorem runs_timeCountAct {k : CountRec} {ks : List CountRec} (h : (encAt s e).acts = k :: ks) :
    Runs (.timeCountAct e) s (fun u => u = { s with tb := max s.tb (k.t + 48), encs := u.encs, rows := u.rows } ∧
      only e encAt s u ∧ encAt u e = { encAt s e with acts := ks, last := some k } ∧
      ∀ j r, s.job = some j → j.st = .running → r ∈ j.rows → j.rows.Nodup → (rowTiming s r).encoder = e →
        rowAt u r = { rowAt s r with pred := linePred (sget 0 j.c0 e) (rowTiming s r) k (rowAt s r) }) := by
  obtain ⟨rs, hframe⟩ := foldl_predict_frame (encRows (acted s e k ks) e) (acted s e k ks)
  refine ⟨_, exec_timeCountAct.trans (congrArg _ (doTimeCountAct_some h)), ?_, fun f hf => ?_, ?_, ?_⟩
  · rw [hframe]
    rfl
  · rw [hframe]
    exact encAt_setEnc_other hf
  · rw [hframe]
    exact encAt_setEnc ..
  · intro j r hjob hrun hr hnodup henc
    have henc' : (rowTiming (acted s e k ks) r).encoder = e := by
      rw [rowTiming_congr (s := s) (t := acted s e k ks) rfl, henc]
    have hlast : (encAt (acted s e k ks) (rowTiming (acted s e k ks) r).encoder).last = some k := by
      rw [henc', acted, encAt_setEnc]
    rw [encRows_running (s := acted s e k ks) hjob hrun]
    have hmem : r ∈ j.rows.filter (fun q => (rowTiming (acted s e k ks) q).encoder == e) :=
      List.mem_filter.mpr ⟨hr, by simpa using henc'⟩
    have hrow := rowAt_foldl_predict (s := acted s e k ks) (j := j) (hnodup.filter _) hmem hjob hlast
    rw [henc'] at hrow
    exact hrow

/-- Settles O31: the sync function by its mode, the frame's CRC and the job; a sample of A and B by the levels that the filter passes; the index,
the long gap and the line generators' act by whether there is anything to do. -/
theorem timebaseAndEncoders : Obligations.TimebaseAndEncoders := by
  unfold Obligations.TimebaseAndEncoders
  refine ⟨?_, ?_, ?_, ?_, ?_, ?_, ?_, ?_, ?_, ?_, ?_, ?_, ?_, ?_, ?_, ?_, ?_, ?_, ?_, ?_, ?_⟩
  · exact fun s => runs_syncFrameSend
  · exact fun s edge c => exec_syncFrameReceive_bad
  · exact fun s edge c => runs_syncFrameReceive_disagrees
  · exact fun s edge c => runs_syncFrameReceive_agrees
  · exact fun s edge c => runs_syncFrameReceive_sets
  · exact fun s edge c => runs_syncFrameReceive_repeats
  · exact fun s => runs_syncLost
  · intro s edge c
    refine ⟨fun hm => ?_, fun hm => ⟨?_, ?_⟩⟩
    · rw [exec_syncFrameSend, doSyncFrameSend_other hm]
    · rw [exec_syncFrameReceive, doSyncFrameReceive_other hm]
    · rw [exec_syncLost, doSyncLost_other hm]
  · exact fun s e t a b n u => runs_encoderCount_one
  · exact fun s e t a b n j u he hca hcb hone hut hstable hjob henc hix hmay =>
      runs_encoderCount_starts he hca hcb hone hut hstable hjob henc hix hmay
  · exact fun s e t a b n he => runs_encoderCount_waits he
  · exact fun s e t a b n u => runs_encoderCount_error
  · exact fun s e t a b n u v => runs_encoderCount_two
  · intro s e t a b n he
    rw [exec_encoderCount, doEncoderCount_none he, exec_encoderIndex, doEncoderIndex_none (.inl he)]
    exact ⟨rfl, rfl⟩
  · exact fun s e t n => runs_encoderIndex
  · intro s e t n hshort
    rw [exec_encoderIndex, doEncoderIndex_none (.inr hshort)]
  · exact fun s e t n j => runs_encoderIndex_starts
  · exact fun s e t p => runs_encoderLongGap
  · intro s e t hshort
    rw [exec_encoderLongGap, doEncoderLongGap_none hshort]
  · exact fun s e k ks => runs_timeCountAct
  · intro s e hacts
    rw [exec_timeCountAct, doTimeCountAct_none hacts]

end Sys2Proof.Proofs
end

section
/-! PROOFS. Fast exits and retrains (R226, R230): a TS_FAST block that itself waits for a slot, and goes out before the burst. -/

open Sys2Proof Sys2Proof.Machine Sys2Proof.Claims

namespace Sys2Proof.Proofs

theorem exec_fastExitTimeout (d l : Nat) (s : State) : exec (.fastExitTimeout d l) s = .next (doFastExitTimeout s d l) := rfl

/-- How many TS_FAST blocks have gone out on a lane. -/
def fastBlocks (s : State) (d n : Nat) : Nat :=
  (s.out.filter (fun o => match o with | .block e m b _ => e = d ∧ m = n ∧ b = tsFastBlk | _ => false)).length

/-- A fast exit is said to add the 32 TS_FAST blocks of its burst to each lane in use, and no other. -/
theorem fastBlocks_of_goesFast {s t : State} {d l tries n : Nat} (hfast : goesFast s d l tries t) (hn : n ∈ useLanes s d l) :
    fastBlocks t d n = fastBlocks s d n + 32 := by
  obtain ⟨-, -, -, -, -, -, -, hlanes⟩ := hfast
  obtain ⟨-, -, hburst⟩ := hlanes n hn
  exact hburst

/-- Link 0 of die 0 is in RETRAIN on lane 0. At tick 2 its slot 1, which began at 66/64 ticks, is due and not yet sent, and the block that
waits for it is a TS_FAST. -/
def fastBlockDue : State := { State.reset with
  tb := 2, links := [(0, { st := .retrain, lanes := 1, slot := 1, singles := [tsFastBlk] })] }

theorem fastBlocks_fastBlockDue : fastBlocks fastBlockDue 0 0 = 0 := rfl

/-- The failed attempt first sends the slot that is due, with the block that waits, and then its burst of 32. -/
theorem fastBlocks_after_timeout : fastBlocks (doFastExitTimeout fastBlockDue 0 0) 0 0 = 33 := by decide +kernel

/-- Refutes O33, by its clause on FAST_EXIT_TIMEOUT (R226, R230): the clause has every lane carry 32 TS_FAST blocks more than before, and
where a TS_FAST also waits for a slot that is due, as in `fastBlockDue`, 33 go out. No command of the part lets a TS_FAST wait, but the
clause does not ask that what waits on the link is only what the part puts there. -/
theorem not_linksComeUp : ¬ Obligations.LinksComeUp := by
  rintro ⟨-, -, -, -, -, -, -, -, -, -, -, -, -, -, -, -, -, -, -, -, -, -, -, -, -, -, -, htimeout⟩
  obtain ⟨hagain, -⟩ := htimeout fastBlockDue 0 0 rfl
  have hfast := holds_of_runs (exec_fastExitTimeout 0 0 fastBlockDue) (hagain (by decide))
  have hcount := fastBlocks_of_goesFast hfast (show 0 ∈ useLanes fastBlockDue 0 0 by decide)
  rw [fastBlocks_after_timeout, fastBlocks_fastBlockDue] at hcount
  exact absurd hcount (by decide)

end Sys2Proof.Proofs
end

section
/-! PROOFS. Acknowledgements (R221, R239): an ACK that arrives while slots of its link are due. -/

open Sys2Proof Sys2Proof.Machine Sys2Proof.Claims

namespace Sys2Proof.Proofs

theorem exec_ackReceive (d l : Nat) (blk : List Byte) (s : State) : exec (.ackReceive d l blk) s = .next (doAckReceive s d l blk) := rfl

/-- An ACK that delivers a segment drops the segment's replays from what waits on the link, and the slots that are due go out first. -/
theorem out_doAckReceive {s : State} {d l : Nat} {blk : List Byte} {hl : HeadLine} (hst : (linkAt s (linkIx d l)).st = .active)
    (hgood : ctlBad blk = false) (hack : byteAt blk 0 = 0xE1) (hhead : leAt blk 1 1 ∈ linkHeads s d l)
    (hline : hl ∈ (headAt s (leAt blk 1 1)).lines) (hnum : hl.line = leAt blk 3 4) (hopen : hl.open_ (leAt blk 2 1) = true) :
    (doAckReceive s d l blk).out = (pump s d l).out := by
  have hwaits : (headAt s (leAt blk 1 1)).lines.any (fun q => q.line == leAt blk 3 4 && q.open_ (leAt blk 2 1)) = true :=
    List.any_eq_true.mpr ⟨hl, hline, by simp [hnum, hopen]⟩
  simp [doAckReceive, hst, hgood, hack, hhead, hwaits, modHeadLine, dropFrames]

/-- Segment 0 of head line 3 is sent and not yet acknowledged. -/
def sentLine : HeadLine := { line := 3, total := 1, sent := [0] }

/-- Link 0 of die 0 is ACTIVE on lane 0 and its head channel 0 waits for the ACK of head line 3. At tick 2 slot 1 of the link, which began at
66/64 ticks, is due and not yet sent; nothing waits for it. -/
def ackedLate : State := { State.reset with
  tb := 2, params := [oneHeadLink], links := [(0, { st := .active, lanes := 1, slot := 1 })], heads := [(0, { lines := [sentLine] })] }

/-- The ACK of segment 0 of head line 3 of head channel 0 (R220). -/
def lineAck : List Byte :=
  let bs : List Byte := [0xE1, 0, 0, 3, 0, 0, 0]
  bs ++ [crc8 bs]

theorem ctlBad_lineAck : ctlBad lineAck = false := by decide +kernel

theorem linkHeads_ackedLate : 0 ∈ linkHeads ackedLate 0 0 := by decide +kernel

/-- The slot that is due goes out as an IDLE block. -/
theorem out_pump_ackedLate : (pump ackedLate 0 0).out = [.idleBlocks 0 0 1] := by decide +kernel

/-- Refutes O34, by its clause on ACK (R239): the clause lets nothing but the head channel and the link change, and the ACK first sends the
slots of its link that are due, so in `ackedLate` a block goes out on lane 0. Slots with nothing to carry are sent only by the next command that
moves the link on, so an ACK meets them as a rule. -/
theorem not_boardsAnswer : ¬ Obligations.BoardsAnswer := by
  rintro ⟨-, -, -, -, hack, -⟩
  obtain ⟨hframe, -⟩ := holds_of_runs (exec_ackReceive 0 0 lineAck ackedLate)
    (hack ackedLate 0 0 lineAck sentLine rfl ctlBad_lineAck rfl linkHeads_ackedLate rfl (by decide) (by decide) rfl)
  have hout : (doAckReceive ackedLate 0 0 lineAck).out = ackedLate.out := by rw [hframe]
  rw [out_doAckReceive (hl := sentLine) rfl ctlBad_lineAck rfl linkHeads_ackedLate (by decide) rfl rfl, out_pump_ackedLate] at hout
  exact absurd hout (by decide)

end Sys2Proof.Proofs
end

section
/-! PROOFS. Safety trips (R424, R444): an axis that is fenced while its profile still holds a velocity. -/

open Sys2Proof Sys2Proof.Machine Sys2Proof.Claims

namespace Sys2Proof.Proofs

theorem exec_safetyTrip (d : Nat) (rail : Bool) (i : Nat) (v : BitVec 16) (s : State) :
    exec (.safetyTrip d rail i v) s = .next (doSafetyTrip s d rail i v) := rfl

/-- Axis 2, of die 1, is fenced, and its profile holds velocity 5. A fence itself stops its axis, so no step of the part leads here. -/
def fencedMoving : State := { State.reset with
  axes := [(2, { st := .fenced, vel := 5 })], fences := [(143 + (FUnit.axis 2).place, { st := .fenced, reason := 1 })] }

theorem powered_fencedMoving : powered fencedMoving := by decide

/-- At 120 °C on die 1 the trip freezes axis 2, and of a fenced axis that takes the reference alone; the fence of the die then finds the axis
fenced and leaves it as it stands. -/
theorem vel_trip_fencedMoving : (axisAt (doSafetyTrip fencedMoving 1 false 0 1920) 2).vel = 5 := by decide +kernel

/-- Refutes O24, by its clause on a trip of a die other than 0 (R424, R444): the clause has every axis of the die that is not off at velocity 0
after the trip, in whatever state the trip finds it, and in `fencedMoving` axis 2 keeps velocity 5. -/
theorem not_managersWatchTheDies : ¬ Obligations.ManagersWatchTheDies := by
  rintro ⟨-, -, -, -, -, -, -, -, -, htrip, -⟩
  obtain ⟨-, -, -, -, -, haxes⟩ := holds_of_runs (exec_safetyTrip 1 false 0 1920 fencedMoving)
    (htrip fencedMoving 1 false 0 1920 (by decide) (by decide) powered_fencedMoving (by decide) (by decide) (by decide))
  obtain ⟨-, hvel⟩ | hoff := haxes 2 (.inl rfl)
  · rw [vel_trip_fencedMoving] at hvel
    exact absurd hvel (by decide)
  · exact absurd hoff (by decide)

end Sys2Proof.Proofs
end

section
/-! PROOFS. Takeovers (R260, R266, R268): a slot that moves to a clause of another die, whose own slot there has a row outside the job. -/

open Sys2Proof Sys2Proof.Machine Sys2Proof.Claims

namespace Sys2Proof.Proofs

theorem exec_takeover (d k : Nat) (s : State) : exec (.takeover d k) s = .next (doTakeover s d k) := rfl

/-- Line 0 of a clause, with no page data: every segment has landed, and a fault of its first pass is still pending. -/
def faultyLine : CLine := { line := 0, at_ := none, q := 0, slot := some 0, segs := 0xFFFF, fault := true }

/-- The job that prints page 5 on row 0. -/
def rowZeroJob : Job :=
  { id := 7, pages := [5], bands := [2], startEnc := 0, startIndex := false, gutter := 64, rounds := 1, noOverlay := 0, rows := [0], encs := [0],
    st := .running }

/-- Clause 0 of die 0 is FENCING at line 0 of row 0, and the spare prepared for it is table number 66, clause 0 of die 1, where slot 0 belongs
to row 1. The spare holds `faultyLine` and has had a transient fault at row line 0. A spare is chosen on its own die and holds no lines, so no
step of the part leads here. -/
def spareElsewhere : State := { State.reset with
  gram := { slots := [⟨0, 0, 0, 0⟩, ⟨1, 0, 1, 0⟩] }
  job := some rowZeroJob
  clauses := [(0, { st := .fencing, powered := true, preparing := some 66 }),
    (66, { st := .spare, powered := true, spareFor := some 0, prepared := true, lastFault := some 0, lines := [faultyLine] })] }

/-- Page line 0 of band 0, in the first copy of page 5. -/
def firstPageLine : PLine := ⟨0, 5, 1, 0, 0⟩

theorem place_spareElsewhere : (clauseSlot? spareElsewhere 0).bind
    (fun g => placeRowLine spareElsewhere g.row (clauseAt spareElsewhere 0).nextLine) = some firstPageLine := by decide +kernel

theorem takeoverDue_spareElsewhere : takeoverDue spareElsewhere 0 = true := by decide +kernel

theorem mayAdmit_spareElsewhere : mayAdmit spareElsewhere 0 = true := by decide +kernel

/-- On row 1 line 0 has no page data, so its admission completes it; the line of that number is `faultyLine`, whose fault repeats within
CLAUSE_WIN and is permanent. -/
theorem st_takeover_spareElsewhere : (clauseAt (doTakeover spareElsewhere 0 0) 66).st = .fencing := by decide +kernel

/-- Refutes O23, by its clause on the takeover that moves a slot (R266, R268): the clause has the clause that takes over SERVING after line 0 is
admitted there, whatever die it lies on and whatever lines it holds, and in `spareElsewhere` that admission moves it to FENCING. -/
theorem not_checksAndTakeovers : ¬ Obligations.ChecksAndTakeovers := by
  rintro ⟨-, -, -, -, -, -, -, -, -, -, -, htake, -⟩
  obtain ⟨hserving, -⟩ := holds_of_runs (exec_takeover 0 0 spareElsewhere)
    (htake spareElsewhere 0 0 0 66 firstPageLine (by decide) (by decide) (by decide) place_spareElsewhere rfl (by decide)
      takeoverDue_spareElsewhere mayAdmit_spareElsewhere)
  rw [st_takeover_spareElsewhere] at hserving
  exact absurd hserving (by decide)

end Sys2Proof.Proofs
end

section
/-! PROOFS. The row-and-column code of the arrays (R284, R285): both parities are linear, so what a read makes of flipped bits does not depend on
the data they stand over. -/

open Sys2Proof Sys2Proof.Machine Sys2Proof.Claims

namespace Sys2Proof.Proofs

/-! ### The parities are linear -/

theorem filter_xor_parity {w : Nat} (a b : BitVec w) (l : List Nat) : (l.filter (fun i => (a ^^^ b).getLsbD i)).length % 2 =
    ((l.filter (fun i => a.getLsbD i)).length + (l.filter (fun i => b.getLsbD i)).length) % 2 := by
  induction l with
  | nil => rfl
  | cons i l ih => cases ha : a.getLsbD i <;> cases hb : b.getLsbD i <;> simp [ha, hb] at ih ⊢ <;> omega

theorem popcount_xor_parity {w : Nat} (a b : BitVec w) : popcount (a ^^^ b) % 2 = (popcount a + popcount b) % 2 :=
  filter_xor_parity a b (List.range w)

theorem blkByte_xor (a b : BitVec 64) (i : Nat) : blkByte (a ^^^ b) i = blkByte a i ^^^ blkByte b i := BitVec.extractLsb'_xor ..

theorem getLsbD_oneHot {n i : Nat} (hi : i < 8) : (1#8 <<< n).getLsbD i = decide (i = n) := by
  rw [BitVec.getLsbD_shiftLeft, BitVec.getLsbD_one]
  by_cases h : i = n
  · simp [h, show n < 8 by omega]
  · simp [h]; omega

theorem getLsbD_foldl_setBits (p : Nat → Prop) [DecidablePred p] (l : List Nat) (r : Byte) (i : Nat) (hi : i < 8) :
    (l.foldl (fun r n => if p n then r ||| (1#8 <<< n) else r) r).getLsbD i = (r.getLsbD i || decide (i ∈ l ∧ p i)) := by
  induction l generalizing r with
  | nil => simp
  | cons n l ih =>
    rw [List.foldl_cons, ih]
    by_cases hin : i = n
    · subst hin
      by_cases hp : p i <;> simp [hp, BitVec.getLsbD_or, getLsbD_oneHot hi]
    · by_cases hp : p n <;> simp [hp, hin, BitVec.getLsbD_or, getLsbD_oneHot hi]

theorem getLsbD_rowParity (v : BitVec 64) (i : Nat) (hi : i < 8) : (rowParity v).getLsbD i = decide (popcount (blkByte v i) % 2 = 1) := by
  unfold rowParity
  rw [getLsbD_foldl_setBits (fun n => popcount (blkByte v n) % 2 = 1) _ _ i hi]
  simp [hi]

theorem rowParity_xor (a b : BitVec 64) : rowParity (a ^^^ b) = rowParity a ^^^ rowParity b := by
  refine BitVec.eq_of_getLsbD_eq fun i hi => ?_
  have hpar := popcount_xor_parity (blkByte a i) (blkByte b i)
  rw [BitVec.getLsbD_xor, getLsbD_rowParity _ i hi, getLsbD_rowParity _ i hi, getLsbD_rowParity _ i hi, blkByte_xor]
  rcases Nat.mod_two_eq_zero_or_one (popcount (blkByte a i)) with ha | ha <;>
    rcases Nat.mod_two_eq_zero_or_one (popcount (blkByte b i)) with hb | hb <;> simp [hpar, Nat.add_mod, ha, hb]

theorem foldl_xor_xor (a b : Nat → Byte) (l : List Nat) (c d : Byte) :
    l.foldl (fun r i => r ^^^ (a i ^^^ b i)) (c ^^^ d) = l.foldl (fun r i => r ^^^ a i) c ^^^ l.foldl (fun r i => r ^^^ b i) d := by
  induction l generalizing c d with
  | nil => rfl
  | cons i l ih =>
    rw [List.foldl_cons, List.foldl_cons, List.foldl_cons, ← ih]
    congr 1
    ac_rfl

theorem colParity_xor (a b : BitVec 64) : colParity (a ^^^ b) = colParity a ^^^ colParity b := by
  simp only [colParity, blkByte_xor]
  exact foldl_xor_xor (blkByte a) (blkByte b) (List.range 8) 0 0

theorem rcSR_xor (a b : BitVec 80) : rcSR (a ^^^ b) = rcSR a ^^^ rcSR b := by
  simp only [rcSR, BitVec.extractLsb'_xor, rowParity_xor]
  ac_rfl

theorem rcSC_xor (a b : BitVec 80) : rcSC (a ^^^ b) = rcSC a ^^^ rcSC b := by
  simp only [rcSC, BitVec.extractLsb'_xor, colParity_xor]
  ac_rfl

/-! ### Words as stored -/

theorem getLsbD_codeWord (c r : Byte) (v : BitVec 64) (i : Nat) : BitVec.getLsbD (w := 80) (c ++ (r ++ v)) i =
    if i < 64 then v.getLsbD i else if i < 72 then r.getLsbD (i - 64) else c.getLsbD (i - 72) := by
  refine BitVec.getLsbD_append.trans ?_
  rw [BitVec.getLsbD_append]
  by_cases h : i < 64
  · simp [h, show i < 72 by omega]
  · simp [h]

theorem not_xor_self (b : Byte) : ~~~b ^^^ b = 0xFF := by
  revert b
  decide

theorem data_codeWord (c r : Byte) (v : BitVec 64) : BitVec.extractLsb' (n := 80) 0 64 (c ++ (r ++ v)) = v := by
  refine BitVec.eq_of_getLsbD_eq fun i hi => ?_
  rw [BitVec.getLsbD_extractLsb', getLsbD_codeWord]
  simp [hi]

theorem rows_codeWord (c r : Byte) (v : BitVec 64) : BitVec.extractLsb' (n := 80) 64 8 (c ++ (r ++ v)) = r := by
  refine BitVec.eq_of_getLsbD_eq fun i hi => ?_
  rw [BitVec.getLsbD_extractLsb', getLsbD_codeWord]
  simp [hi, show 64 + i < 72 by omega]

theorem cols_codeWord (c r : Byte) (v : BitVec 64) : BitVec.extractLsb' (n := 80) 72 8 (c ++ (r ++ v)) = c := by
  refine BitVec.eq_of_getLsbD_eq fun i hi => ?_
  rw [BitVec.getLsbD_extractLsb', getLsbD_codeWord]
  simp [hi, show ¬72 + i < 64 by omega]

@[simp] theorem data_rcEncode (v : BitVec 64) : (rcEncode v).extractLsb' 0 64 = v := data_codeWord ..

@[simp] theorem rcSR_rcEncode (v : BitVec 64) : rcSR (rcEncode v) = 0 := by
  rw [rcSR, data_rcEncode, rcEncode, rows_codeWord, BitVec.xor_self]
  rfl

@[simp] theorem rcSC_rcEncode (v : BitVec 64) : rcSC (rcEncode v) = 0 := by
  rw [rcSC, data_rcEncode, rcEncode, cols_codeWord, BitVec.xor_self]
  rfl

theorem rcSR_rcPoison (v : BitVec 64) : rcSR (rcPoison v) = 0xFF := by
  rw [rcSR, rcPoison, rows_codeWord, data_codeWord, not_xor_self]

theorem rcSC_rcPoison (v : BitVec 64) : rcSC (rcPoison v) = 0xFF := by
  rw [rcSC, rcPoison, cols_codeWord, data_codeWord, not_xor_self]

/-! ### Reads (R285) -/

theorem oneBit_oneHot {i : Nat} (hi : i < 8) : oneBit (1#8 <<< i) = some i := by
  revert i
  decide

theorem oneHot_ne : ∀ i, i < 8 → 1#8 <<< i ≠ 0 ∧ 1#8 <<< i ≠ 0xFF := by decide

theorem oneBit_none {b : Byte} (h : ∀ i, i < 8 → b ≠ 1#8 <<< i) : oneBit b = none := by
  rw [oneBit, List.find?_eq_none]
  exact fun i hi => by simpa using h i (List.mem_range.mp hi)

theorem rcRead_corrected {w : BitVec 80} {i j : Nat} (hi : i < 8) (hj : j < 8) (hr : rcSR w = 1#8 <<< i) (hc : rcSC w = 1#8 <<< j) :
    rcRead w = (.corrected, w.extractLsb' 0 64 ^^^ (1#64 <<< (8 * i + j))) := by
  obtain ⟨hzero, hones⟩ := oneHot_ne i hi
  unfold rcRead
  simp only [hr, hc, hzero, hones, false_and, if_false, oneBit_oneHot hi, oneBit_oneHot hj]

theorem rcRead_checkBit {w : BitVec 80} {i : Nat} (hi : i < 8)
    (h : rcSR w = 1#8 <<< i ∧ rcSC w = 0 ∨ rcSR w = 0 ∧ rcSC w = 1#8 <<< i) : rcRead w = (.checkBit, w.extractLsb' 0 64) := by
  obtain ⟨hzero, hones⟩ := oneHot_ne i hi
  have hnone : oneBit 0 = none := by decide
  unfold rcRead
  obtain ⟨hr, hc⟩ | ⟨hr, hc⟩ := h
  · simp only [hr, hc, hzero, hones, false_and, if_false, oneBit_oneHot hi, hnone, if_true]
  · simp only [hr, hc, hzero, hones, and_false, if_false, oneBit_oneHot hi, hnone, if_true]

/-- A read of a stored word whose bits `e` stand flipped classes `e` itself, over the data stored. -/
theorem rcRead_flipped (v : BitVec 64) (e : BitVec 80) : rcRead (rcEncode v ^^^ e) = ((rcRead e).1, v ^^^ (rcRead e).2) := by
  have hsr : rcSR (rcEncode v ^^^ e) = rcSR e := by rw [rcSR_xor, rcSR_rcEncode]; exact BitVec.zero_xor
  have hsc : rcSC (rcEncode v ^^^ e) = rcSC e := by rw [rcSC_xor, rcSC_rcEncode]; exact BitVec.zero_xor
  have hdata : (rcEncode v ^^^ e).extractLsb' 0 64 = v ^^^ e.extractLsb' 0 64 := by rw [BitVec.extractLsb'_xor, data_rcEncode]
  unfold rcRead
  simp only [hsr, hsc, hdata]
  split
  · rfl
  split
  · rfl
  split
  · simp only [BitVec.xor_assoc]
  · split <;> rfl
  · split <;> rfl
  · rfl

theorem rcRead_oneFlip : ∀ k, k < 80 → rcRead (1#80 <<< k) = (if k < 64 then .corrected else .checkBit, 0) := by decide +kernel

theorem rcSR_oneFlip : ∀ k, k < 64 → rcSR (1#80 <<< k) = 1#8 <<< (k / 8) := by decide +kernel

theorem rcSC_oneFlip : ∀ k, k < 64 → rcSC (1#80 <<< k) = 1#8 <<< (k % 8) := by decide +kernel

theorem oneBit_twoHot : ∀ i, i < 8 → ∀ j, j < 8 → i ≠ j →
    oneBit (1#8 <<< i ^^^ 1#8 <<< j) = none ∧ 1#8 <<< i ^^^ 1#8 <<< j ≠ 0 ∧ 1#8 <<< i ^^^ 1#8 <<< j ≠ 0xFF := by decide

theorem rcRead_uncorrectable {w : BitVec 80} (hmark : ¬(rcSR w = 0xFF ∧ rcSC w = 0xFF))
    (h : oneBit (rcSR w) = none ∧ rcSR w ≠ 0 ∨ oneBit (rcSC w) = none ∧ rcSC w ≠ 0) : (rcRead w).1 = .uncorrectable := by
  have hclean : ¬(rcSR w = 0 ∧ rcSC w = 0) := fun ⟨hr, hc⟩ => by simp [hr, hc] at h
  unfold rcRead
  simp only [if_neg hclean, if_neg hmark]
  obtain ⟨hnone, hne⟩ | ⟨hnone, hne⟩ := h
  · rw [hnone]
    split <;> simp_all
  · rw [hnone]
    split <;> simp_all

/-- Two flipped data bits lie in two rows or in two columns of the block. -/
theorem rcRead_twoFlips {k l : Nat} (hkl : k < l) (hl : l < 64) : (rcRead (1#80 <<< k ^^^ 1#80 <<< l)).1 = .uncorrectable := by
  have hsr : rcSR (1#80 <<< k ^^^ 1#80 <<< l) = 1#8 <<< (k / 8) ^^^ 1#8 <<< (l / 8) := by
    rw [rcSR_xor, rcSR_oneFlip k (by omega), rcSR_oneFlip l hl]
  have hsc : rcSC (1#80 <<< k ^^^ 1#80 <<< l) = 1#8 <<< (k % 8) ^^^ 1#8 <<< (l % 8) := by
    rw [rcSC_xor, rcSC_oneFlip k (by omega), rcSC_oneFlip l hl]
  by_cases hrow : k / 8 = l / 8
  · obtain ⟨hnone, hne, hmark⟩ := oneBit_twoHot (k % 8) (by omega) (l % 8) (by omega) (by omega)
    rw [← hsc] at hnone hne hmark
    exact rcRead_uncorrectable (fun h => hmark h.2) (.inr ⟨hnone, hne⟩)
  · obtain ⟨hnone, hne, hmark⟩ := oneBit_twoHot (k / 8) (by omega) (l / 8) (by omega) hrow
    rw [← hsr] at hnone hne hmark
    exact rcRead_uncorrectable (fun h => hmark h.1) (.inl ⟨hnone, hne⟩)

/-- Settles O39: a read's class depends on the flipped bits alone, so each clause is about the syndromes of one, two or three of them. -/
theorem arrayCodeClassesSyndromes : Obligations.ArrayCodeClassesSyndromes := by
  refine ⟨fun w hr hc => ?_, fun w i j hi hj hr hc => ?_, fun w i hi h => ?_, fun w hr hc => ?_, fun w hmark hone hne => ?_,
    fun w hmark hone hne => ?_, fun v k hk => ?_, fun v k l hkl hl => ?_, ⟨0, 0, 64, by decide⟩, ⟨0, 64, 72, by decide⟩, ⟨0, 0, 64, 72, by decide⟩⟩
  · simp [rcRead, hr, hc]
  · exact rcRead_corrected hi hj hr hc
  · exact rcRead_checkBit hi h
  · simp [rcRead, hr, hc]
  · exact rcRead_uncorrectable hmark (.inl ⟨oneBit_none hone, hne⟩)
  · exact rcRead_uncorrectable hmark (.inr ⟨oneBit_none hone, hne⟩)
  · rw [rcRead_flipped, rcRead_oneFlip k hk]
    simp
  · rw [BitVec.xor_assoc, rcRead_flipped, rcRead_twoFlips hkl hl]

end Sys2Proof.Proofs
end

section
/-! PROOFS. Blocks of the arrays (R284-R287): steady words, a read of a block of the die banks with one bit flipped or two, and a block written
anew. -/

open Sys2Proof Sys2Proof.Machine Sys2Proof.Claims

namespace Sys2Proof.Proofs

variable {s : State} {b : ArrBlock} {x n : Nat}

/-! ### Bytes of a block as a number -/

theorem natLE_leNat (bs : List Byte) : natLE bs.length (leNat bs) = bs := by
  induction bs with
  | nil => rfl
  | cons x bs ih =>
    have hx := x.isLt
    have hdiv : (x.toNat + 256 * leNat bs) / 256 = leNat bs := by omega
    simp only [List.length_cons, leNat, natLE, hdiv, ih, List.cons.injEq, and_true]
    apply BitVec.eq_of_toNat_eq
    simp only [BitVec.toNat_ofNat]
    omega

theorem leNat_lt (bs : List Byte) : leNat bs < 256 ^ bs.length := by
  induction bs with
  | nil => simp [leNat]
  | cons x bs ih =>
    have hx := x.isLt
    simp only [leNat, List.length_cons, Nat.pow_succ]
    omega

/-- Eight bytes put into a block are its bytes. -/
theorem natLE_blkOfBytes {bs : List Byte} (h : bs.length = 8) : natLE 8 (blkOfBytes bs).toNat = bs := by
  have hlt := leNat_lt bs
  rw [h] at hlt
  rw [blkOfBytes, BitVec.toNat_ofNat, Nat.mod_eq_of_lt (by simpa using hlt), ← h, natLE_leNat]

theorem length_rdN (m : Mem) (a n : Nat) : (rdN m a n).length = n := by
  induction n generalizing a with
  | zero => rfl
  | succ n ih => simp [rdN, ih]

theorem getD_rdN (m : Mem) {a n j : Nat} (hj : j < n) : (rdN m a n).getD j 0 = rd m (a + j) := by
  induction n generalizing a j with
  | zero => omega
  | succ n ih =>
    cases j with
    | zero => rfl
    | succ j =>
      rw [rdN, List.getD_cons_succ, ih (by omega)]
      congr 1
      omega

/-- Bytes that are written back where they were read change nothing. -/
theorem rd_wrN_rdN (m : Mem) (a n x : Nat) : rd (wrN m a (rdN m a n)) x = rd m x := by
  rw [rd_wrN, length_rdN]
  split
  next h =>
    rw [getD_rdN m (by omega)]
    congr 1
    omega
  · rfl

/-! ### Steady blocks -/

/-- A clause whose entries all pass a test that the entry of an unlisted clause passes too. -/
theorem all_clauseAt {p : Clause → Bool} (hdflt : p {} = true) (h : s.clauses.all (fun c => p c.2) = true) (x : Nat) : p (clauseAt s x) = true := by
  rcases sget_mem_or {} s.clauses x with hx | hx
  · rw [clauseAt, hx, hdflt]
  · exact List.all_eq_true.mp h _ hx

theorem flips_of_bandPlace (h : (clauseAt s x).input.all (fun i => i.flips.isEmpty && i.maskFlips.isEmpty) = true)
    {i : BandIn} {m : Bool} {j : Nat} (hp : bandPlace? s x n = some (i, m, j)) : i.flips = [] ∧ i.maskFlips = [] := by
  unfold bandPlace? at hp
  split at hp
  · obtain ⟨i', hi, heq⟩ := Option.map_eq_some_iff.mp hp
    obtain rfl : i' = i := congrArg Prod.fst heq
    simpa using List.all_eq_true.mp h i' (List.mem_of_getElem? hi)
  · cases hp

theorem flips_of_slotLine (h : (clauseAt s x).lines.all (fun l => l.flips.isEmpty) = true) {l : CLine} (hl : slotLineOf? s x n = some l) :
    l.flips = [] := by
  simpa using List.all_eq_true.mp h l (List.mem_of_find?_eq_some hl)

theorem flipOf_of_allSteady (h : allSteady s = true) (b : ArrBlock) : flipOf s b = 0 := by
  obtain ⟨hflips, hclauses⟩ := Bool.and_eq_true_iff.mp h
  obtain ⟨hinput, hlines⟩ := Bool.and_eq_true_iff.mp (all_clauseAt (p := fun c => c.input.all (fun i => i.flips.isEmpty && i.maskFlips.isEmpty) &&
    c.lines.all (fun l => l.flips.isEmpty)) rfl hclauses b.owner)
  unfold flipOf
  split
  · split
    next i m j hp =>
      obtain ⟨hf, hmf⟩ := flips_of_bandPlace hinput hp
      rw [hf, hmf, ite_self]
      rfl
    · rfl
  · split
    next l hl =>
      rw [flips_of_slotLine hlines hl]
      rfl
    · rfl
  · rw [List.isEmpty_iff.mp hflips]
    rfl

theorem noFlips_of_allSteady (h : allSteady s = true) : s.flips = [] := by
  obtain ⟨hflips, -⟩ := Bool.and_eq_true_iff.mp h
  exact List.isEmpty_iff.mp hflips

theorem settle_steady (h : flipOf s b = 0) : settle s b = s := if_pos h

theorem storedWord_good (h : blockBad s b = false) : storedWord s b = rcEncode (blockData s b) ^^^ flipOf s b := by
  simp [storedWord, h]

/-! ### Blocks of the die banks -/

/-- Where a block of the die banks begins. -/
def bankAddr (b : ArrBlock) : Nat := 2 ^ 23 * b.owner + 8 * b.blk

section Bank

variable (hbank : b.kind = .bank)
include hbank

theorem arrClause?_bank : arrClause? b = none := by simp [arrClause?, hbank]

theorem arrDie_bank : arrDie b = b.owner := by simp [arrDie, arrClause?_bank hbank]

theorem blockData_bank (s : State) : blockData s b = blkOfBytes (rdN s.banks (bankAddr b) 8) := by
  rw [blockData, hbank]
  rfl

theorem blockBad_bank (s : State) : blockBad s b = s.poison.contains b := by rw [blockBad, hbank]

theorem flipOf_bank (s : State) : flipOf s b = ((s.flips.find? (fun p => p.1 == b)).map (fun p => p.2)).getD 0 := by rw [flipOf, hbank]

theorem setFlip_bank (s : State) (f : BitVec 80) :
    setFlip s b f = { s with flips := if f = 0 then s.flips.filter (fun p => p.1 != b) else s.flips.filter (fun p => p.1 != b) ++ [(b, f)] } := by
  rw [setFlip, hbank]

/-- A block of the die banks stored anew. -/
theorem putBlock_bank (s : State) (v : BitVec 64) (f : BitVec 80) : putBlock s b v false f =
    { s with banks := wrN s.banks (bankAddr b) (natLE 8 v.toNat), poison := s.poison.filter (fun p => p ≠ b),
             flips := if f = 0 then s.flips.filter (fun p => p.1 != b) else s.flips.filter (fun p => p.1 != b) ++ [(b, f)] } := by
  rw [putBlock, setFlip_bank hbank, setPoison, hbank, putData, hbank]
  rfl

/-- A block of the die banks stored anew with its poison mark, where none stood. -/
theorem putBlock_bank_poisoned (s : State) (hgood : s.poison.contains b = false) (v : BitVec 64) : putBlock s b v true 0 =
    { s with banks := wrN s.banks (bankAddr b) (natLE 8 v.toNat), poison := s.poison ++ [b], flips := s.flips.filter (fun p => p.1 != b) } := by
  rw [putBlock, setFlip_bank hbank, setPoison, hbank, putData, hbank]
  simp only [if_true, markPoison, hgood, Bool.false_eq_true, if_false]
  rfl

end Bank

theorem flips_only (b : ArrBlock) (f : BitVec 80) : [(b, f)].filter (fun p => p.1 != b) = [] := by simp

theorem flipOf_only (hbank : b.kind = .bank) {f : BitVec 80} (hflips : s.flips = [(b, f)]) : flipOf s b = f := by
  simp [flipOf_bank hbank, hflips]

/-- The banks with a block's bytes written back: they read as before. -/
def banksRewritten (s : State) (b : ArrBlock) : Mem := wrN s.banks (bankAddr b) (rdN s.banks (bankAddr b) 8)

theorem rd_banksRewritten (s : State) (b : ArrBlock) (a : Nat) : rd (banksRewritten s b) a = rd s.banks a := rd_wrN_rdN ..

theorem oneFlip_ne_zero {k : Nat} (hk : k < 80) : 1#80 <<< k ≠ 0 := by
  revert k
  decide

section OneFlip

variable {k : Nat} (hk : k < 80) (hgood : blockBad s b = false)
include hk hgood

theorem storedWord_oneFlip (hflip : flipOf s b = 1#80 <<< k) :
    rcRead (storedWord s b) = (if k < 64 then .corrected else .checkBit, blockData s b) := by
  rw [storedWord_good hgood, hflip, rcRead_flipped, rcRead_oneFlip k hk]
  exact Prod.ext rfl BitVec.xor_zero

/-- A read of a block with one bit flipped counts it; the bit stays, and the bytes as read are those stored (R286). -/
theorem settle_oneFlip (hbank : b.kind = .bank) (hflips : s.flips = [(b, 1#80 <<< k)]) :
    settle s b = countMem { s with banks := banksRewritten s b } b.owner 0 false := by
  have hflip := flipOf_only hbank hflips
  have hclass := storedWord_oneFlip hk hgood hflip
  have hword : storedWord s b ^^^ rcEncode (blockData s b) = 1#80 <<< k := by
    rw [storedWord_good hgood, hflip, BitVec.xor_comm (rcEncode _), BitVec.xor_assoc, BitVec.xor_self, BitVec.xor_zero]
  have hpoison : s.poison.filter (fun p => p ≠ b) = s.poison := by
    rw [blockBad_bank hbank] at hgood
    exact List.filter_eq_self.mpr fun p hp => by
      have hne : p ≠ b := fun heq => by simp [← heq, hp] at hgood
      simpa using hne
  have hput : putBlock s b (blockData s b) false (1#80 <<< k) = { s with banks := banksRewritten s b } := by
    rw [putBlock_bank hbank, hpoison, if_neg (oneFlip_ne_zero hk), hflips, flips_only, blockData_bank hbank,
      natLE_blkOfBytes (length_rdN ..), List.nil_append, ← hflips]
    rfl
  unfold settle
  rw [if_neg (by rw [hflip]; exact oneFlip_ne_zero hk)]
  simp only [hclass, hword, hput, arrDie_bank hbank, hbank, arrCls]
  by_cases hdata : k < 64
  · simp only [if_pos hdata]
  · simp only [if_neg hdata]

end OneFlip

theorem twoFlips_ne_zero {j k : Nat} (hjk : j < k) (hk : k < 64) : 1#80 <<< j ^^^ 1#80 <<< k ≠ 0 := fun h => by
  have hclass := rcRead_twoFlips hjk hk
  rw [h] at hclass
  exact absurd hclass (by decide)

/-- A read of a block with two data bits flipped counts it and marks it poisoned (R287). -/
theorem settle_twoFlips {j k : Nat} (hjk : j < k) (hk : k < 64) (hbank : b.kind = .bank) (hgood : blockBad s b = false)
    (hflips : s.flips = [(b, 1#80 <<< j ^^^ 1#80 <<< k)]) :
    ∃ m, settle s b = countMem { s with banks := m, flips := [], poison := s.poison ++ [b] } b.owner 0 true := by
  have hflip := flipOf_only hbank hflips
  have hclass : (rcRead (storedWord s b)).1 = .uncorrectable := by
    rw [storedWord_good hgood, hflip, rcRead_flipped, rcRead_twoFlips hjk hk]
  rw [blockBad_bank hbank] at hgood
  refine ⟨wrN s.banks (bankAddr b) (natLE 8 (rcRead (storedWord s b)).2.toNat), ?_⟩
  unfold settle
  rw [if_neg (by rw [hflip]; exact twoFlips_ne_zero hjk hk)]
  simp only [hclass, arrDie_bank hbank, hbank, arrCls]
  rw [putBlock_bank_poisoned hbank _ hgood, hflips, flips_only]

end Sys2Proof.Proofs
end

section
/-! PROOFS. The scrubber (R289-R291): the block it reads, and what it does with a clean, a correctable and an uncorrectable one. -/

open Sys2Proof Sys2Proof.Machine Sys2Proof.Claims

namespace Sys2Proof.Proofs

variable {s : State} {b : ArrBlock} {d k syn : Nat} {rw : Bool}

/-! ### Records of the scrubber, and counters of a class of array -/

theorem scrubAt_setScrub_other {e : Nat} {g : Scrub} (h : e ≠ d) : scrubAt (setScrub s d g) e = scrubAt s e := sget_sput_other _ _ _ _ _ h

theorem scrubAt_modScrub {f : Scrub → Scrub} : scrubAt (modScrub s d f) d = f (scrubAt s d) := scrubAt_setScrub ..

theorem scrubAt_modScrub_other {e : Nat} {f : Scrub → Scrub} (h : e ≠ d) : scrubAt (modScrub s d f) e = scrubAt s e := scrubAt_setScrub_other h

theorem memCorrAt_countMem_corr (s : State) (d c : Nat) :
    memCorrAt (countMem s d c false) (7 * d + c) = { memCorrAt s (7 * d + c) with corr := satInc (memCorrAt s (7 * d + c)).corr } :=
  sget_sput_same ..

theorem memCorrAt_countMem_uncorr (s : State) (d c : Nat) :
    memCorrAt (countMem s d c true) (7 * d + c) = { memCorrAt s (7 * d + c) with uncorr := satInc (memCorrAt s (7 * d + c)).uncorr } :=
  sget_sput_same ..

theorem only_countMem (s : State) (d c : Nat) (unc : Bool) : only (7 * d + c) memCorrAt s (countMem s d c unc) :=
  fun _ hj => sget_sput_other _ _ _ _ _ hj

/-! ### The walk (R289) -/

theorem exec_scrubRead (upsets : List (ArrBlock × BitVec 80)) : exec (.scrubRead d upsets rw) s = .next (doScrubRead s d upsets rw) := rfl

/-- The scrubber goes on to the next block of its walk. -/
def advanceScan (s : State) (d : Nat) (b : ArrBlock) : State :=
  modScrub s d (fun g => { g with next := scanNext? s d b, passes := if scanNext? s d b = none then g.passes + 1 else g.passes })

theorem scanNext?_congr {t : State} (h : t.clauses = s.clauses) (d : Nat) (b : ArrBlock) : scanNext? t d b = scanNext? s d b := by
  simp only [scanNext?, scanClause?, clauseAt, h]

theorem scrubAt_advanceScan {t : State} (h : t.clauses = s.clauses) : scrubAt (advanceScan t d b) d = { scrubAt t d with
    next := scanNext? s d b, passes := if scanNext? s d b = none then (scrubAt t d).passes + 1 else (scrubAt t d).passes } := by
  rw [advanceScan, scrubAt_modScrub, scanNext?_congr h]

theorem doScrubRead_idle (h : (scrubAt s d).enable = false ∨ engineRuns s d = false) : doScrubRead s d [] rw = s := by
  obtain h | h := h <;> simp [doScrubRead, h]

/-- An engine that runs reads the next block and goes on. -/
theorem doScrubRead_runs {upsets : List (ArrBlock × BitVec 80)} {u : State} (hu : upsets.foldl upset s = u)
    (hen : (scrubAt u d).enable = true) (hrun : engineRuns u d = true) :
    doScrubRead s d upsets rw = advanceScan (scrubBlock u d (scanNow u d) rw) d (scanNow u d) := by
  subst hu
  unfold doScrubRead advanceScan
  simp only [hen, hrun, Bool.not_true, Bool.false_eq_true, or_self, if_false]
  split
  next n hn => simp only [hn, reduceCtorEq, if_false]
  next hn => simp only [hn, if_true]

/-- A block of the die banks that the scrubber reads is one of its die's. -/
theorem scanNow_bank (hbank : (scanNow s d).kind = .bank) : (scanNow s d).owner = d ∧ (scanNow s d).blk < 1048576 := by
  have hfirst : ∀ q : Option ArrBlock, (∀ a, q = some a → a.kind ≠ .bank) → (q.getD ⟨.bank, d, 0⟩).kind = .bank →
      q.getD ⟨.bank, d, 0⟩ = ⟨.bank, d, 0⟩ := fun q hq hk => by
    cases q with
    | none => rfl
    | some a => exact absurd hk (hq a rfl)
  have hclause : ∀ n a, scanClause? s d n = some a → a.kind ≠ .bank := fun n a ha => by
    obtain ⟨q, -, rfl⟩ := Option.map_eq_some_iff.mp ha
    simp
  unfold scanNow at hbank ⊢
  split at hbank
  next c hc =>
    split at hbank
    next hon =>
      rw [if_pos hon]
      simpa [blockOn, arrClause?, hbank, arrBlocks, and_comm] using hon
    next hoff =>
      rw [if_neg hoff, hfirst _ (hclause _) hbank]
      simp
  · simp

/-- The state with the bits `f` of one block flipped, and no others. -/
def flippedAt (s : State) (b : ArrBlock) (f : BitVec 80) : State := { s with flips := [(b, f)] }

/-- An upset of a block that the scrubber reads stands in the state. -/
theorem upset_bank (hflips : s.flips = []) (hbank : b.kind = .bank) (hblk : b.blk < 1048576) (hdie : dieOk s b.owner = true) {f : BitVec 80}
    (hf : f ≠ 0) : upset s (b, f) = flippedAt s b f := by
  have hon : (blockOn s (arrDie b) b && blockExists s b) = true := by
    simp [blockOn, blockExists, arrClause?_bank hbank, arrDie_bank hbank, hbank, arrBlocks, hblk, hdie]
  have hflip : flipOf s b = 0 := by simp [flipOf_bank hbank, hflips]
  rw [upset, if_pos hon, hflip, setFlip_bank hbank, hflips, show (0 : BitVec 80) ^^^ f = f from BitVec.zero_xor, if_neg hf]
  rfl

theorem blockBad_flippedAt (hbank : b.kind = .bank) {f : BitVec 80} : blockBad (flippedAt s b f) b = blockBad s b := by
  rw [blockBad_bank hbank, blockBad_bank hbank]
  rfl

theorem flipOf_flippedAt (hbank : b.kind = .bank) {f : BitVec 80} : flipOf (flippedAt s b f) b = f := flipOf_only hbank rfl

/-! ### One block (R285, R287, R290) -/

theorem rcRead_rcEncode (v : BitVec 64) : rcRead (rcEncode v) = (.clean, v) := by
  have hzero : rcRead 0 = (.clean, 0) := by decide +kernel
  have h := rcRead_flipped v 0
  rw [hzero] at h
  simpa using h

/-- A clean block leaves the tracker. -/
theorem scrubBlock_clean (hflip : flipOf s b = 0) (hgood : blockBad s b = false) :
    scrubBlock s d b rw = modScrub s d (fun g => { g with tracker := g.tracker.filter (fun p => p.1 != b) }) := by
  have hword : storedWord s b = rcEncode (blockData s b) := by
    rw [storedWord_good hgood, hflip]
    exact BitVec.xor_zero
  unfold scrubBlock
  simp only [hword, rcRead_rcEncode, settle_steady hflip]

/-- One flipped bit, of the data or of the check bits, is corrected. -/
theorem scrubBlock_oneFlip (hk : k < 80) (hgood : blockBad s b = false) (hflip : flipOf s b = 1#80 <<< k) :
    ∃ syn, scrubBlock s d b rw = scrubCorrect s d b syn rw := by
  have hread := storedWord_oneFlip hk hgood hflip
  refine ⟨(rcSR (storedWord s b)).toNat + 256 * (rcSC (storedWord s b)).toNat, ?_⟩
  unfold scrubBlock
  by_cases hdata : k < 64
  · simp only [hread, if_pos hdata]
  · simp only [hread, if_neg hdata]

/-- Two flipped data bits are marked and logged. -/
theorem scrubBlock_twoFlips {j : Nat} (hjk : j < k) (hk : k < 64) (hgood : blockBad s b = false)
    (hflip : flipOf s b = 1#80 <<< j ^^^ 1#80 <<< k) : ∃ syn, scrubBlock s d b rw = memEvent (settle s b) d 0x0020 b syn := by
  have hread : (rcRead (storedWord s b)).1 = .uncorrectable := by
    rw [storedWord_good hgood, hflip, rcRead_flipped, rcRead_twoFlips hjk hk]
  refine ⟨(rcSR (storedWord s b)).toNat + 256 * (rcSC (storedWord s b)).toNat, ?_⟩
  unfold scrubBlock
  simp only [hread]

/-! ### Write-backs and repairs (R290, R291) -/

/-- A block of the die banks read, counted as corrected, and written back. -/
def writtenBack (s : State) (b : ArrBlock) : State := countMem { s with banks := banksRewritten s b } b.owner 0 false

theorem setFlip_settle_oneFlip (hk : k < 80) (hbank : b.kind = .bank) (hgood : blockBad s b = false) (hflips : s.flips = []) :
    setFlip (settle (flippedAt s b (1#80 <<< k)) b) b 0 = writtenBack s b := by
  have hkept : (countMem { flippedAt s b (1#80 <<< k) with banks := banksRewritten s b } b.owner 0 false).flips = [(b, 1#80 <<< k)] := rfl
  rw [settle_oneFlip hk ((blockBad_flippedAt hbank).trans hgood) hbank rfl, setFlip_bank hbank, if_pos rfl]
  rw [show banksRewritten (flippedAt s b (1#80 <<< k)) b = banksRewritten s b from rfl, hkept, flips_only, ← hflips]
  rfl

/-- The scrubber's record of a write-back, none where another master has written the block since. -/
def noteBack (s : State) (d : Nat) (b : ArrBlock) (rw : Bool) : State :=
  if rw then s else modScrub s d (fun g => { g with writebacks := g.writebacks + 1, tracker := trackBack g.tracker b })

theorem noteBack_frame (s : State) : noteBack s d b rw = { s with scrubs := (noteBack s d b rw).scrubs } := by cases rw <;> rfl

theorem scrubAt_noteBack (s : State) : scrubAt (noteBack s d b rw) d = { scrubAt s d with
    writebacks := if rw then (scrubAt s d).writebacks else (scrubAt s d).writebacks + 1,
    tracker := if rw then (scrubAt s d).tracker else trackBack (scrubAt s d).tracker b } := by
  cases rw
  · rw [noteBack, if_neg Bool.false_ne_true, scrubAt_modScrub]
    rfl
  · rfl

theorem scrubAt_noteBack_other {e : Nat} (h : e ≠ d) : scrubAt (noteBack s d b rw) e = scrubAt s e := by
  cases rw
  · rw [noteBack, if_neg Bool.false_ne_true, scrubAt_modScrub_other h]
  · rfl

section Correct

variable (hk : k < 80) (hbank : b.kind = .bank) (hgood : blockBad s b = false) (hflips : s.flips = [])
include hk hbank hgood hflips

theorem scrubCorrect_again (hfew : tracked (scrubAt s d).tracker b < 3) :
    scrubCorrect (flippedAt s b (1#80 <<< k)) d b syn rw = noteBack (writtenBack s b) d b rw := by
  have hn : tracked (scrubAt (writtenBack s b) d).tracker b ≠ 3 := ne_of_lt hfew
  unfold scrubCorrect
  simp only [setFlip_settle_oneFlip hk hbank hgood hflips, if_neg hn]
  rfl

theorem scrubCorrect_stuck (hthree : tracked (scrubAt s d).tracker b = 3) :
    scrubCorrect (flippedAt s b (1#80 <<< k)) d b syn rw = declareStuck (noteBack (writtenBack s b) d b rw) d b syn := by
  have hn : tracked (scrubAt (writtenBack s b) d).tracker b = 3 := hthree
  unfold scrubCorrect
  simp only [setFlip_settle_oneFlip hk hbank hgood hflips, if_pos hn]
  rfl

end Correct

theorem repairWaits_bank (hbank : b.kind = .bank) (s : State) : repairWaits s b = false := by
  simp only [repairWaits, arrClause?_bank hbank]

/-- A stuck bit in the die banks has its row repaired at once while a spare row is left. -/
theorem declareStuck_bank (hbank : b.kind = .bank) (hdef : (scrubAt s d).deferred = []) (hrep : (scrubAt s d).repairing = [])
    (hfree : freeSpares (scrubAt s d) b ≠ []) :
    declareStuck s d b syn = setScrub s d { scrubAt s d with stuck := satInc (scrubAt s d).stuck, repairing := [b] } := by
  unfold declareStuck
  dsimp only
  rw [if_neg (by simp [hdef, hrep]), if_neg (show freeSpares { scrubAt s d with stuck := satInc (scrubAt s d).stuck } b ≠ [] from hfree),
    repairWaits_bank hbank, if_neg Bool.false_ne_true, hrep]
  rfl

/-! ### SCRUB_READ -/

section ScrubRead

variable (hen : (scrubAt s d).enable = true) (hrun : engineRuns s d = true) (hsteady : allSteady s = true)
include hen hrun hsteady

theorem runs_scrubRead_clean (hgood : blockBad s (scanNow s d) = false) : Runs (.scrubRead d [] rw) s (fun t =>
    t = { s with scrubs := t.scrubs } ∧ only d scrubAt s t ∧
    scrubAt t d = { scrubAt s d with tracker := (scrubAt s d).tracker.filter (fun p => p.1 != scanNow s d), next := scanNext? s d (scanNow s d),
                                     passes := if scanNext? s d (scanNow s d) = none then (scrubAt s d).passes + 1 else (scrubAt s d).passes }) := by
  refine ⟨_, exec_scrubRead [], ?_⟩
  rw [doScrubRead_runs (u := s) rfl hen hrun, scrubBlock_clean (flipOf_of_allSteady hsteady _) hgood]
  refine ⟨rfl, fun j hj => ?_, ?_⟩
  · rw [advanceScan, scrubAt_modScrub_other hj, scrubAt_modScrub_other hj]
  · rw [advanceScan, scrubAt_modScrub, scrubAt_modScrub]
    rfl

variable (hok : dieOk s d = true) (hb : scanNow s d = b) (hbank : b.kind = .bank)
include hok hb hbank

/-- Bits of the block that the scrubber reads next flip, and it reads the block so. -/
theorem doScrubRead_flipped {f : BitVec 80} (hf : f ≠ 0) :
    doScrubRead s d [(b, f)] rw = advanceScan (scrubBlock (flippedAt s b f) d b rw) d b := by
  subst hb
  obtain ⟨howner, hblk⟩ := scanNow_bank hbank
  exact doScrubRead_runs (u := flippedAt s (scanNow s d) f)
    (upset_bank (noFlips_of_allSteady hsteady) hbank hblk (howner.symm ▸ hok) hf) hen hrun

variable (hgood : blockBad s b = false)
include hgood

theorem doScrubRead_corrects (hk : k < 80) (hfew : tracked (scrubAt s d).tracker b < 3) :
    doScrubRead s d [(b, 1#80 <<< k)] rw = advanceScan (noteBack (writtenBack s b) d b rw) d b := by
  obtain ⟨syn, hblock⟩ := scrubBlock_oneFlip (d := d) (rw := rw) hk ((blockBad_flippedAt hbank).trans hgood) (flipOf_flippedAt hbank)
  rw [doScrubRead_flipped hen hrun hsteady hok hb hbank (oneFlip_ne_zero hk), hblock,
    scrubCorrect_again hk hbank hgood (noFlips_of_allSteady hsteady) hfew]

theorem doScrubRead_stuck (hk : k < 80) (hthree : tracked (scrubAt s d).tracker b = 3) : ∃ syn,
    doScrubRead s d [(b, 1#80 <<< k)] rw = advanceScan (declareStuck (noteBack (writtenBack s b) d b rw) d b syn) d b := by
  obtain ⟨syn, hblock⟩ := scrubBlock_oneFlip (d := d) (rw := rw) hk ((blockBad_flippedAt hbank).trans hgood) (flipOf_flippedAt hbank)
  refine ⟨syn, ?_⟩
  rw [doScrubRead_flipped hen hrun hsteady hok hb hbank (oneFlip_ne_zero hk), hblock,
    scrubCorrect_stuck hk hbank hgood (noFlips_of_allSteady hsteady) hthree]

theorem doScrubRead_poisons {j : Nat} (hjk : j < k) (hk : k < 64) : ∃ m syn, doScrubRead s d [(b, 1#80 <<< j ^^^ 1#80 <<< k)] rw =
    advanceScan (memEvent (countMem { s with banks := m, flips := [], poison := s.poison ++ [b] } d 0 true) d 0x0020 b syn) d b := by
  have howner : b.owner = d := by
    subst hb
    exact (scanNow_bank hbank).1
  obtain ⟨syn, hblock⟩ := scrubBlock_twoFlips (d := d) (rw := rw) hjk hk ((blockBad_flippedAt hbank).trans hgood) (flipOf_flippedAt hbank)
  obtain ⟨m, hsettle⟩ := settle_twoFlips hjk hk hbank ((blockBad_flippedAt hbank).trans hgood) rfl
  refine ⟨m, syn, ?_⟩
  rw [doScrubRead_flipped hen hrun hsteady hok hb hbank (twoFlips_ne_zero hjk hk), hblock, hsettle, howner]
  rfl

theorem runs_scrubRead_corrects (hk : k < 64) (hfew : tracked (scrubAt s d).tracker b < 3) :
    Runs (.scrubRead d [(b, 1#80 <<< k)] rw) s (fun t =>
      t = { s with scrubs := t.scrubs, banks := t.banks, memCorr := t.memCorr } ∧ only d scrubAt s t ∧
      (∀ a, rd t.banks a = rd s.banks a) ∧ only (7 * d) memCorrAt s t ∧
      memCorrAt t (7 * d) = { memCorrAt s (7 * d) with corr := satInc (memCorrAt s (7 * d)).corr } ∧
      scrubAt t d = { scrubAt s d with
        writebacks := (if rw then (scrubAt s d).writebacks else (scrubAt s d).writebacks + 1),
        tracker := (if rw then (scrubAt s d).tracker else trackBack (scrubAt s d).tracker b),
        next := scanNext? s d b, passes := (if scanNext? s d b = none then (scrubAt s d).passes + 1 else (scrubAt s d).passes) }) := by
  have howner : b.owner = d := by
    subst hb
    exact (scanNow_bank hbank).1
  refine ⟨_, exec_scrubRead _, ?_⟩
  rw [doScrubRead_corrects hen hrun hsteady hok hb hbank hgood (by omega) hfew, writtenBack, howner]
  have hclauses : (noteBack (countMem { s with banks := banksRewritten s b } d 0 false) d b rw).clauses = s.clauses := by rw [noteBack_frame]; rfl
  refine ⟨?_, fun j hj => ?_, ?_, ?_, ?_, ?_⟩
  · rw [advanceScan, noteBack_frame]
    rfl
  · rw [advanceScan, scrubAt_modScrub_other hj, scrubAt_noteBack_other hj]
    rfl
  · rw [advanceScan, noteBack_frame]
    exact rd_banksRewritten s b
  · rw [advanceScan, noteBack_frame]
    exact only_countMem _ d 0 false
  · rw [advanceScan, noteBack_frame]
    exact memCorrAt_countMem_corr _ d 0
  · rw [scrubAt_advanceScan hclauses, scrubAt_noteBack]
    rfl

theorem runs_scrubRead_declaresStuck (hk : k < 80) (hthree : tracked (scrubAt s d).tracker b = 3) (hdef : (scrubAt s d).deferred = [])
    (hrep : (scrubAt s d).repairing = []) (hfree : freeSpares (scrubAt s d) b ≠ []) : Runs (.scrubRead d [(b, 1#80 <<< k)] rw) s (fun t =>
      (scrubAt t d).repairing = [b] ∧ (scrubAt t d).stuck = satInc (scrubAt s d).stuck ∧ (scrubAt t d).full = (scrubAt s d).full) := by
  obtain ⟨syn, hread⟩ := doScrubRead_stuck (rw := rw) hen hrun hsteady hok hb hbank hgood hk hthree
  refine ⟨_, exec_scrubRead _, ?_⟩
  have hnote := scrubAt_noteBack (d := d) (b := b) (rw := rw) (writtenBack s b)
  rw [hread, declareStuck_bank hbank (by rw [hnote]; exact hdef) (by rw [hnote]; exact hrep) (by rw [hnote]; exact hfree)]
  beta_reduce
  rw [advanceScan, scrubAt_modScrub, scrubAt_setScrub, hnote]
  exact ⟨rfl, rfl, rfl⟩

theorem runs_scrubRead_poisons {j : Nat} (hjk : j < k) (hk : k < 64) : Runs (.scrubRead d [(b, 1#80 <<< j ^^^ (1#80 <<< k))] rw) s (fun t =>
    blockBad t b = true ∧ t.flips = [] ∧
    memCorrAt t (7 * d) = { memCorrAt s (7 * d) with uncorr := satInc (memCorrAt s (7 * d)).uncorr } ∧
    (scrubAt t d).tracker = (scrubAt s d).tracker) := by
  obtain ⟨m, syn, hread⟩ := doScrubRead_poisons (rw := rw) hen hrun hsteady hok hb hbank hgood hjk hk
  refine ⟨_, exec_scrubRead _, ?_⟩
  rw [hread]
  refine ⟨?_, rfl, memCorrAt_countMem_uncorr _ d 0, ?_⟩
  · rw [blockBad_bank hbank]
    show (s.poison ++ [b]).contains b = true
    simp
  · rw [advanceScan, scrubAt_modScrub]
    rfl

end ScrubRead

/-- Any reader of bytes of the die banks corrects and counts a block among them with one bit flipped (R286). -/
theorem settleRange_oneFlip {a n : Nat} (hk : k < 64) (hbank : b.kind = .bank) (howner : b.owner = d) (hflips : s.flips = [(b, 1#80 <<< k)])
    (hgood : s.poison.contains b = false) (htouch : touchesBlk a n b.blk = true) :
    settleRange s .bank d a n = countMem { s with banks := banksRewritten s b } d 0 false := by
  have hread : s.flips.filter (fun p => p.1.kind == .bank && p.1.owner == d && touchesBlk a n p.1.blk) = [(b, 1#80 <<< k)] := by
    simp [hflips, hbank, howner, htouch]
  rw [settleRange, hread, ← howner]
  exact settle_oneFlip (by omega) (by rwa [blockBad_bank hbank]) hbank hflips

end Sys2Proof.Proofs
end

section
/-! PROOFS. Row repairs and master copies (R283, R290-R292). -/

open Sys2Proof Sys2Proof.Machine Sys2Proof.Claims

namespace Sys2Proof.Proofs

variable {s : State} {b : ArrBlock} {d m n : Nat} {g : Scrub} {fs : List StuckBits} {r : ArrBlock}

/-! ### Conflict counters (R283) -/

theorem conflict_eq (hm : m < 69) : conflict s d m = { s with conflicts := smod 0 s.conflicts (69 * d + m) satInc } := if_pos hm

theorem sget_conflicts_conflict (hm : m < 69) :
    sget 0 (conflict s d m).conflicts (69 * d + m) = satInc (sget 0 s.conflicts (69 * d + m)) := by
  rw [conflict_eq hm]
  exact sget_sput_same ..

theorem sget_conflicts_conflict_other (hm : m < 69) {j : Nat} (hj : j ≠ 69 * d + m) :
    sget 0 (conflict s d m).conflicts j = sget 0 s.conflicts j := by
  rw [conflict_eq hm]
  exact sget_sput_other _ _ _ _ _ hj

/-! ### A row onto a spare row (R291, R293) -/

theorem any_filter_or_any_filter_not {α : Type} (l : List α) (p q : α → Bool) :
    ((l.filter (fun a => !p a)).any q || (l.filter p).any q) = l.any q := by
  induction l with
  | nil => rfl
  | cons a l ih => cases hp : p a <;> simp [hp, ← ih, Bool.or_assoc, Bool.or_left_comm]

/-- The record with a repaired row's spare row given up: it stays out of use. -/
def spareLeft (g : Scrub) (r : ArrBlock) : Scrub :=
  { g with rows := g.rows.filter (fun p => p.1 != r), badSpares := g.badSpares ++ g.rows.filter (fun p => p.1 == r) }

theorem spareTaken_spareLeft (g : Scrub) (r c : ArrBlock) (n : Nat) : spareTaken (spareLeft g r) c n = spareTaken g c n := by
  have hsplit := any_filter_or_any_filter_not g.rows (fun p => p.1 == r) (fun p => sameArray c p.1 && p.2 == n)
  simp only [spareTaken, spareLeft, List.any_append, bne, ← hsplit]
  ac_rfl

theorem freeSpares_spareLeft (g : Scrub) (r c : ArrBlock) : freeSpares (spareLeft g r) c = freeSpares g c := by
  simp only [freeSpares, spareTaken_spareLeft]
  rfl

/-- While spare rows are good, the first that is free takes the row. -/
theorem repairArrRow_first (hgood : ∀ n, spareFails fs r n = false) {ns : List Nat} (hfree : freeSpares g r = n :: ns) : repairArrRow g fs r =
    ({ spareLeft g r with rows := (spareLeft g r).rows ++ [(r, n)], repaired := satInc g.repaired }, true) := by
  have hns : freeSpares (spareLeft g r) r = n :: ns := (freeSpares_spareLeft g r r).trans hfree
  unfold repairArrRow
  simp only [spareLeft] at hns ⊢
  simp [hns, hgood]

theorem repairArrRow_none (hfree : freeSpares g r = []) : repairArrRow g fs r = (spareLeft g r, false) := by
  have hns : freeSpares (spareLeft g r) r = [] := (freeSpares_spareLeft g r r).trans hfree
  unfold repairArrRow
  simp only [spareLeft] at hns ⊢
  simp [hns]

/-! ### ROW_REPAIR_DONE -/

theorem exec_rowRepairDone (ms : List Nat) : exec (.rowRepairDone d b ms) s = .next (doRowRepairDone s d b ms) := rfl

theorem sameRow_self (b : ArrBlock) : sameRow b b = true := by simp [sameRow, sameArray]

theorem copyRow_steady (h : allSteady s = true) (b : ArrBlock) : copyRow s b = s :=
  List.foldl_fixed' (f := fun s _ => if flipOf s _ = 0 then s else _) (fun _ => if_pos (flipOf_of_allSteady h _)) (List.range 64)

theorem doRowRepairDone_waits {ms : List Nat} (h : engineRuns s d = false ∨ repairWaits s b = true ∨
    ((scrubAt s d).repairing ++ (scrubAt s d).deferred).any (sameRow b) = false) : doRowRepairDone s d b ms = s := by
  unfold doRowRepairDone
  obtain h | h | h := h <;> simp [h]

/-- The row under repair stands in a spare row from now on. -/
theorem doRowRepairDone_repairs (hrun : engineRuns s d = true) (hrep : (scrubAt s d).repairing = [b]) (hdef : (scrubAt s d).deferred = [])
    (hwait : repairWaits s b = false) (hsteady : allSteady s = true) (hbank : b.kind = .bank) (hm : m < 69) :
    doRowRepairDone s d b [m] = modScrub (setScrub (conflict s d m) d (repairArrRow { scrubAt s d with repairing := [] } [] (rowOfBlk b)).1) d
      (fun g => { g with tracker := g.tracker.filter (fun p => !sameRow b p.1) }) := by
  have hany : ([b] ++ []).any (sameRow b) = true := by simp [sameRow_self]
  have hsteady' : ∀ g, allSteady (setScrub (conflict s d m) d g) = true := fun g => by
    rw [conflict_eq hm]
    exact hsteady
  have hrec : { scrubAt s d with repairing := [b].filter (fun q => !sameRow b q), deferred := [].filter (fun q => !sameRow b q) } =
      { scrubAt s d with repairing := [] } := by
    rw [show [b].filter (fun q => !sameRow b q) = [] by simp [sameRow_self]]
    exact congrArg (fun l => { scrubAt s d with repairing := [], deferred := l }) hdef.symm
  unfold doRowRepairDone
  simp only [hrun, hany, hwait, Bool.not_true, Bool.false_eq_true, or_self, if_false, hbank, if_true, List.foldl_cons, List.foldl_nil, hrep, hdef,
    hrec, copyRow_steady (hsteady' _)]

theorem runs_rowRepairDone (hrun : engineRuns s d = true) (hrep : (scrubAt s d).repairing = [b]) (hdef : (scrubAt s d).deferred = [])
    (hwait : repairWaits s b = false) (hsteady : allSteady s = true) (hbank : b.kind = .bank) (hm : m < 69)
    (hfree : freeSpares { scrubAt s d with repairing := [] } (rowOfBlk b) ≠ []) : Runs (.rowRepairDone d b [m]) s (fun t =>
      t = { s with scrubs := t.scrubs, conflicts := t.conflicts } ∧ only d scrubAt s t ∧
      (scrubAt t d).repaired = satInc (scrubAt s d).repaired ∧ (scrubAt t d).repairing = [] ∧
      (scrubAt t d).rows.any (fun p => p.1 == rowOfBlk b) = true ∧
      sget 0 t.conflicts (69 * d + m) = satInc (sget 0 s.conflicts (69 * d + m)) ∧
      ∀ j, j ≠ 69 * d + m → sget 0 t.conflicts j = sget 0 s.conflicts j) := by
  obtain ⟨n, ns, hns⟩ := List.exists_cons_of_ne_nil hfree
  have hspare : ∀ n, spareFails [] (rowOfBlk b) n = false := fun _ => rfl
  refine ⟨_, exec_rowRepairDone [m], ?_⟩
  rw [doRowRepairDone_repairs hrun hrep hdef hwait hsteady hbank hm, repairArrRow_first hspare hns]
  have hrec : ∀ g f, scrubAt (modScrub (setScrub (conflict s d m) d g) d f) d = f g := fun g f => by rw [scrubAt_modScrub, scrubAt_setScrub]
  refine ⟨?_, fun j hj => ?_, ?_, ?_, ?_, sget_conflicts_conflict hm, fun j => sget_conflicts_conflict_other hm⟩
  · rw [conflict_eq hm]
    rfl
  · rw [scrubAt_modScrub_other hj, scrubAt_setScrub_other hj, conflict_eq hm]
    rfl
  · rw [hrec]
  · rw [hrec]
    rfl
  · rw [hrec]
    simp

/-! ### MASTER_REWRITE (R290) -/

theorem exec_masterRewrite (d : Nat) (b : ArrBlock) : exec (.masterRewrite d b) s = .next (doMasterRewrite s d b) := rfl

section MasterCopy

variable {bs : List Byte}

theorem doMasterRewrite_copied (hlive : dieLive s d = true) (hon : blockOn s d b = true) (hbad : blockBad s b = true)
    (hcopy : masterBlock? s b = some bs) : doMasterRewrite s d b = writeBlock s b bs := by
  simp [doMasterRewrite, hlive, hon, hbad, hcopy]

theorem doMasterRewrite_keeps (h : dieLive s d = false ∨ blockOn s d b = false ∨ blockBad s b = false ∨ masterBlock? s b = none) :
    doMasterRewrite s d b = s := by
  unfold doMasterRewrite
  obtain h | h | h | h := h <;> simp [h]

/-- Of the arrays other than the die banks, the cells' SRAMs alone have master copies. -/
theorem cellSram_of_masterBlock (hcopy : masterBlock? s b = some bs) (hbank : b.kind ≠ .bank) : b.kind = .cellInstr ∨ b.kind = .cellData := by
  cases hk : b.kind with
  | bank => exact absurd hk hbank
  | cellInstr => exact .inl rfl
  | cellData => exact .inr rfl
  | tcm => simp [masterBlock?, hk] at hcopy
  | bandRing => simp [masterBlock?, hk] at hcopy
  | outRing => simp [masterBlock?, hk] at hcopy

theorem contains_filter_ne (ps : List ArrBlock) (b : ArrBlock) : (ps.filter (fun p => p ≠ b)).contains b = false := by simp

theorem rdN_wrN (m : Mem) (a : Nat) (bs : List Byte) : rdN (wrN m a bs) a bs.length = bs := by
  refine List.ext_getElem (length_rdN ..) fun j hj hlt => ?_
  have hget := getD_rdN (wrN m a bs) (a := a) hlt
  rw [rd_wrN, if_pos (by omega), Nat.add_sub_cancel_left] at hget
  simpa [hj, hlt] using hget

theorem append_halves (v : BitVec 64) : v.extractLsb' 32 32 ++ v.extractLsb' 0 32 = v := by
  refine BitVec.eq_of_getLsbD_eq fun i hi => ?_
  rw [BitVec.getLsbD_append, BitVec.getLsbD_extractLsb', BitVec.getLsbD_extractLsb']
  by_cases h : i < 32
  · simp [h]
  · simp [h, show 32 + (i - 32) = i by omega, show i - 32 < 32 by omega]

/-- Two instruction words put read back as one block. -/
theorem sget_halves (m : Sparse Word) (k : Nat) (v : BitVec 64) :
    sget 0 (sput 0 (sput 0 m k (v.extractLsb' 0 32)) (k + 1) (v.extractLsb' 32 32)) (k + 1) ++
      sget 0 (sput 0 (sput 0 m k (v.extractLsb' 0 32)) (k + 1) (v.extractLsb' 32 32)) k = v := by
  rw [sget_sput_same, sget_sput_other _ _ _ _ _ (by omega), sget_sput_same, append_halves]

/-- A block of the die banks written from its master copy. -/
theorem writeBlock_bank (hbank : b.kind = .bank) (hlen : bs.length = 8) : writeBlock s b bs =
    { s with banks := wrN s.banks (bankAddr b) bs, poison := s.poison.filter (fun p => p ≠ b), flips := s.flips.filter (fun p => p.1 != b) } := by
  rw [writeBlock, storeBlock, putBlock_bank hbank, natLE_blkOfBytes hlen, if_pos rfl]

theorem runs_masterRewrite_bank (hlive : dieLive s d = true) (hon : blockOn s d b = true) (hbad : blockBad s b = true) (hbank : b.kind = .bank)
    (hcopy : masterBlock? s b = some bs) (hlen : bs.length = 8) : Runs (.masterRewrite d b) s (fun t =>
      t = { s with banks := t.banks, poison := t.poison, flips := t.flips } ∧ blockBad t b = false ∧
      (∀ j, j < 8 → rd t.banks (2 ^ 23 * d + 8 * b.blk + j) = byteAt bs j) ∧
      ∀ a, a < 2 ^ 23 * d + 8 * b.blk ∨ 2 ^ 23 * d + 8 * b.blk + 8 ≤ a → rd t.banks a = rd s.banks a) := by
  have howner : b.owner = d := by
    have h := hon
    simp only [blockOn, arrClause?_bank hbank, Bool.and_eq_true, beq_iff_eq] at h
    exact h.2
  have haddr : 2 ^ 23 * d + 8 * b.blk = bankAddr b := by rw [bankAddr, howner]
  refine ⟨_, exec_masterRewrite d b, ?_⟩
  rw [doMasterRewrite_copied hlive hon hbad hcopy, writeBlock_bank hbank hlen, haddr]
  refine ⟨rfl, ?_, fun j hj => ?_, fun a ha => ?_⟩
  · rw [blockBad_bank hbank]
    exact contains_filter_ne ..
  · rw [rd_wrN, if_pos (by omega), Nat.add_sub_cancel_left]
    rfl
  · rw [rd_wrN, if_neg (by omega)]

/-- A block of a cell's SRAM written from its master copy. -/
theorem runs_masterRewrite_sram (hlive : dieLive s d = true) (hon : blockOn s d b = true) (hbad : blockBad s b = true) (hbank : b.kind ≠ .bank)
    (hcopy : masterBlock? s b = some bs) (hlen : bs.length = 8) : Runs (.masterRewrite d b) s (fun t =>
      blockBad t b = false ∧ blockData t b = BitVec.ofNat 64 (leNat bs) ∧ t.banks = s.banks ∧ t.tcm = s.tcm) := by
  refine ⟨_, exec_masterRewrite d b, ?_⟩
  rw [doMasterRewrite_copied hlive hon hbad hcopy, writeBlock, storeBlock, putBlock, setFlip, setPoison, putData]
  obtain hk | hk := cellSram_of_masterBlock hcopy hbank
  · simp only [hk, blockBad, blockData]
    exact ⟨contains_filter_ne .., sget_halves .., rfl, rfl⟩
  · simp only [hk, blockBad, blockData]
    refine ⟨contains_filter_ne .., ?_, rfl, rfl⟩
    rw [natLE_blkOfBytes hlen, dmRead]
    show blkOfBytes (rdN (wrN s.dmem (16384 * b.owner + 8 * b.blk) bs) (16384 * b.owner + 8 * b.blk) 8) = _
    rw [← hlen, rdN_wrN]
    rfl

end MasterCopy

end Sys2Proof.Proofs
end

section
/-! PROOFS. March tests and the counters of the arrays (R283, R293-R296, R302). -/

open Sys2Proof Sys2Proof.Machine Sys2Proof.Claims

namespace Sys2Proof.Proofs

variable {s : State} {d index kind : Nat} {mode : Bool} {cmd : Option CmdHdr} {f : StuckBits} {g : Scrub} {tests : ArrBlock → Bool} {m : March}

/-! ### A test from the host (R295, R302) -/

theorem exec_mgtMtCtrlStart_hostReg (d : Nat) : exec (.mgtMtCtrlStart d) s = .next (hostReg s d (fun s => doMgtMtCtrlStart s d)) := rfl

/-- A register access that does not arrive has no effect. -/
theorem hostReg_not_arrives {h : State → State} (ha : arrives s d = false) : hostReg s d h = s :=
  if_neg (by simpa [arrives] using ha)

theorem marchAt_setMarch_other {e : Nat} (h : e ≠ d) : marchAt (setMarch s d m) e = marchAt s e := sget_sput_other _ _ _ _ _ h

/-- The engine's record of a test that is about to begin. -/
def testRecord (s : State) (d kind index : Nat) (mode : Bool) (cmd : Option CmdHdr) : March :=
  { marchAt s d with runMode := mode, runKind := BitVec.ofNat 8 kind, runIndex := BitVec.ofNat 7 index, failed := 0, untested := 0,
                     yields := 0, row := none, rowYields := 0, skipped := [], powered := none, cmd := cmd }

/-- A test begins that finds its arrays powered. -/
theorem beginMarch_powered (h : marchAllowed s d kind index mode = true)
    (hon : kind ≠ 1 ∨ (clauseAt s (clauseIx d index)).powered = true) :
    beginMarch s d kind index mode cmd = setMarch s d { testRecord s d kind index mode cmd with busy := true, result := 0 } := by
  have hoff : ¬(kind = 1 ∧ (clauseAt s (clauseIx d index)).powered = false) := fun ⟨hk, hp⟩ => by simp [hk, hp] at hon
  unfold beginMarch
  rw [if_pos h]
  dsimp only
  rw [if_neg hoff]
  rfl

/-- An off clause is powered for its test. -/
theorem beginMarch_unpowered (h : marchAllowed s d 1 index mode = true) (hoff : (clauseAt s (clauseIx d index)).powered = false) :
    beginMarch s d 1 index mode cmd = setMarch (modClause s (clauseIx d index) (fun c => { c with powered := true })) d
      { testRecord s d 1 index mode cmd with busy := true, result := 0, powered := some (clauseIx d index) } := by
  unfold beginMarch
  rw [if_pos h]
  dsimp only
  rw [if_pos ⟨rfl, hoff⟩]
  rfl

theorem beginMarch_not_allowed (h : marchAllowed s d kind index mode = false) : beginMarch s d kind index mode cmd =
    setMarch s d { testRecord s d kind index mode cmd with busy := false, result := 4, cmd := none } := by
  unfold beginMarch
  rw [h, if_neg Bool.false_ne_true]
  rfl

section Start

variable (ha : arrives s d = true) (hdia : s.dia.valid = false) (hidle : (marchAt s d).busy = false)
include ha hdia hidle

theorem runs_mgtMtCtrlStart (hon : (marchAt s d).kind.toNat ≠ 1 ∨ (clauseAt s (clauseIx d (marchAt s d).index.toNat)).powered = true) :
    Runs (.mgtMtCtrlStart d) s (fun t =>
      t = { s with marches := t.marches } ∧ only d marchAt s t ∧ (marchAt t d).failed = 0 ∧ (marchAt t d).untested = 0 ∧ (marchAt t d).yields = 0 ∧
      (marchAt t d).mode = (marchAt s d).mode ∧ (marchAt t d).kind = (marchAt s d).kind ∧ (marchAt t d).index = (marchAt s d).index ∧
      (marchAllowed s d (marchAt s d).kind.toNat (marchAt s d).index.toNat (marchAt s d).mode = true →
        (marchAt t d).busy = true ∧ (marchAt t d).result = 0 ∧
        (marchAt t d).runMode = (marchAt s d).mode ∧ (marchAt t d).runKind = (marchAt s d).kind ∧ (marchAt t d).runIndex = (marchAt s d).index) ∧
      (marchAllowed s d (marchAt s d).kind.toNat (marchAt s d).index.toNat (marchAt s d).mode = false →
        (marchAt t d).busy = false ∧ (marchAt t d).result = 4)) := by
  refine ⟨_, exec_mgtMtCtrlStart ha, ?_⟩
  rw [doMgtMtCtrlStart_idle hdia hidle]
  cases hallowed : marchAllowed s d (marchAt s d).kind.toNat (marchAt s d).index.toNat (marchAt s d).mode with
  | true =>
    rw [beginMarch_powered hallowed hon]
    refine ⟨rfl, fun j hj => marchAt_setMarch_other hj, ?_⟩
    rw [marchAt_setMarch]
    simp [testRecord]
  | false =>
    rw [beginMarch_not_allowed hallowed]
    refine ⟨rfl, fun j hj => marchAt_setMarch_other hj, ?_⟩
    rw [marchAt_setMarch]
    simp [testRecord]

theorem runs_mgtMtCtrlStart_unpowered (hkind : (marchAt s d).kind = 1)
    (hoff : (clauseAt s (clauseIx d (marchAt s d).index.toNat)).powered = false)
    (hallowed : marchAllowed s d 1 (marchAt s d).index.toNat (marchAt s d).mode = true) : Runs (.mgtMtCtrlStart d) s (fun t =>
      t = { s with marches := t.marches, clauses := t.clauses } ∧ only (clauseIx d (marchAt s d).index.toNat) clauseAt s t ∧
      clauseAt t (clauseIx d (marchAt s d).index.toNat) = { clauseAt s (clauseIx d (marchAt s d).index.toNat) with powered := true } ∧
      (marchAt t d).busy = true ∧ (marchAt t d).powered = some (clauseIx d (marchAt s d).index.toNat)) := by
  refine ⟨_, exec_mgtMtCtrlStart ha, ?_⟩
  rw [doMgtMtCtrlStart_idle hdia hidle, hkind, show (1 : BitVec 8).toNat = 1 from rfl, beginMarch_unpowered hallowed hoff]
  refine ⟨rfl, fun j hj => clauseAt_setClause_other hj, clauseAt_setClause .., ?_⟩
  rw [marchAt_setMarch]
  exact ⟨rfl, rfl⟩

end Start

theorem exec_mgtMtCtrlStart_ignored (h : arrives s d = false ∨ s.dia.valid = true ∨ (marchAt s d).busy = true) :
    exec (.mgtMtCtrlStart d) s = .next s := by
  rw [exec_mgtMtCtrlStart_hostReg]
  obtain ha | hskip := h
  · rw [hostReg_not_arrives ha]
  · exact congrArg Host.Outcome.next (hostReg_of_self (if_pos hskip))

end Sys2Proof.Proofs
end

section
/-! PROOFS. The end of a march test, its yields, and the counters cleared (R283, R293-R296, R302). -/

open Sys2Proof Sys2Proof.Machine Sys2Proof.Claims

namespace Sys2Proof.Proofs

variable {s t : State} {d index n master : Nat} {f : StuckBits} {g : Scrub} {tests : ArrBlock → Bool} {m : March} {b row r : ArrBlock}

/-! ### March C- (R293) -/

/-- A code word with a stuck bit fails: the solid run reads the bit both ways. -/
theorem marchPasses_stuck (hmask : f.mask ≠ 0) : marchPasses f = false := by
  refine Bool.eq_false_iff.mpr fun hpass => hmask ?_
  have hsolid := List.all_eq_true.mp hpass 0 (by simp)
  simp only [marchOps, marchOp, List.foldl_cons, List.foldl_nil, if_true, Bool.false_eq_true, if_false, Bool.true_and, Bool.and_eq_true,
    beq_iff_eq] at hsolid
  obtain ⟨⟨⟨⟨hzero, hones⟩, -⟩, -⟩, -⟩ := hsolid
  have hval : f.val &&& f.mask = 0#80 := by simpa using hzero
  have hnot : ~~~f.mask = ~~~0#80 := by rwa [hval, BitVec.or_zero, show ~~~(0 : BitVec 80) = BitVec.allOnes 80 from rfl, BitVec.allOnes_and] at hones
  exact BitVec.not_inj.mp hnot

theorem sameRow_rowOfBlk (b : ArrBlock) : sameRow b (rowOfBlk b) = true := by
  have hmul : b.blk / 64 * 64 / 32768 = b.blk / 32768 := by omega
  simp [sameRow, sameArray, rowOfBlk, hmul]

theorem rowFails_stuck (hmask : f.mask ≠ 0) (hspare : f.spare = none) (hrows : g.rows = []) : rowFails g [f] (rowOfBlk f.blk) = true := by
  simp [rowFails, hrows, marchPasses_stuck hmask, hspare, sameRow_rowOfBlk]

theorem failingRows_none (hrows : g.rows = []) : failingRows g [] tests = [] := by simp [failingRows, hrows]

theorem failingRows_stuck (hmask : f.mask ≠ 0) (hspare : f.spare = none) (hrows : g.rows = []) (htest : tests (rowOfBlk f.blk) = true) :
    failingRows g [f] tests = [rowOfBlk f.blk] := by
  have heach : [rowOfBlk f.blk].eraseDups = [rowOfBlk f.blk] := rfl
  simp [failingRows, hspare, hrows, heach, htest, rowFails_stuck hmask hspare hrows]

theorem marchRun_none (hrows : (scrubAt s d).rows = []) : marchRun s d [] tests = (setScrub s d (scrubAt s d), [], []) := by
  simp only [marchRun, failingRows_none hrows, List.foldl_nil]

/-- A test that finds one row failing: the row's repair, and the row itself where no spare row takes it. -/
theorem marchRun_one {fs : List StuckBits} {p : Scrub × Bool} (hfail : failingRows (scrubAt s d) fs tests = [r])
    (hrepair : repairArrRow (scrubAt s d) fs r = p) : marchRun s d fs tests = (setScrub s d p.1, [r], if p.2 then [] else [r]) := by
  simp only [marchRun, hfail, List.foldl_cons, List.foldl_nil, hrepair, List.nil_append]

/-! ### The end of a test (R295, R296) -/

theorem restoreRows_steady (h : s.flips = []) : restoreRows s tests = s := by
  simp only [restoreRows, h, List.filter_nil, List.foldl_nil]
  rw [← h]

/-- A test that no command asked for, of arrays that were powered, ends with nothing waiting. -/
theorem endMarch_alone (hpow : m.powered = none) (hcmd : m.cmd = none) (hparked : s.parked = []) :
    endMarch s d m = setMarch s d { m with busy := false } := by
  have hrec : { m with busy := false, powered := none, cmd := none } = { m with busy := false } := by rw [← hpow, ← hcmd]
  have hnext : nextMarch (setMarch s d { m with busy := false }) d 1 = setMarch s d { m with busy := false } := by
    rw [nextMarch, marchAt_setMarch, show (setMarch s d { m with busy := false }).parked = [] from hparked]
    rfl
  unfold endMarch
  simp only [hpow, hcmd, hrec, show (setMarch s d { m with busy := false }).parked = [] from hparked]
  exact hnext

theorem exec_marchDone (d : Nat) (defects : List StuckBits) : exec (.marchDone d defects) s = .next (doMarchDone s d defects) := rfl

/-- What a test under way reaches: the arrays named, but for the rows it skipped. -/
def testReaches (s : State) (d : Nat) (m : March) (b : ArrBlock) : Bool :=
  marchTests s d m.runKind.toNat m.runIndex.toNat m.runMode b && !m.skipped.contains (rowOfBlk b)

/-- The record of a test whose run found the rows `failed`, and of them those `left` without a spare row. -/
def marchResult (m : March) (failed left : List ArrBlock) : March :=
  { m with failed := BitVec.ofNat 8 (min 255 failed.length), result := if left ≠ [] then 3 else if failed ≠ [] then 2 else 1 }

/-- The state a test leaves whose run came to `r`: rows restored and reported, or arrays without their contents. -/
def marchLeaves (d : Nat) (m : March) (r : State × List ArrBlock × List ArrBlock) (reaches : ArrBlock → Bool) : State :=
  if m.runMode then r.2.2.foldl (fun s b => memEvent s d 0x0022 b 0) (restoreRows r.1 reaches)
  else wipeArrays r.1 d m.runKind.toNat m.runIndex.toNat

theorem doMarchDone_busy (hbusy : (marchAt s d).busy = true) {fs : List StuckBits} {p : State × List ArrBlock × List ArrBlock}
    (hrun : marchRun s d fs (testReaches s d (marchAt s d)) = p) : doMarchDone s d fs =
      endMarch (marchLeaves d (marchAt s d) p (testReaches s d (marchAt s d))) d (marchResult (marchAt s d) p.2.1 p.2.2) := by
  subst hrun
  exact if_neg (by simp [hbusy])

/-- A preserving test where no bit is flipped leaves the arrays alone and reports the rows without a spare row. -/
theorem marchLeaves_preserving {failed left : List ArrBlock} (hmode : m.runMode = true) (hflips : s.flips = []) :
    marchLeaves d m (setScrub s d g, failed, left) tests = left.foldl (fun s b => memEvent s d 0x0022 b 0) (setScrub s d g) := by
  rw [marchLeaves, if_pos hmode]
  exact congrArg (List.foldl _ · left) (restoreRows_steady hflips)

theorem marchLeaves_destructive {p : State × List ArrBlock × List ArrBlock} (hmode : m.runMode = false) :
    marchLeaves d m p tests = wipeArrays p.1 d m.runKind.toNat m.runIndex.toNat := if_neg (by simp [hmode])

theorem parked_foldl_memEvent (l : List ArrBlock) (s : State) : (l.foldl (fun s b => memEvent s d 0x0022 b 0) s).parked = s.parked := by
  induction l generalizing s with
  | nil => rfl
  | cons b l ih => exact ih _

theorem exec_marchDone_idle (hbusy : (marchAt s d).busy = false) (defects : List StuckBits) : exec (.marchDone d defects) s = .next s :=
  congrArg Host.Outcome.next (if_pos (by simp [hbusy]))

section Preserving

variable (hbusy : (marchAt s d).busy = true) (hmode : (marchAt s d).runMode = true) (hcmd : (marchAt s d).cmd = none)
  (hpow : (marchAt s d).powered = none) (hparked : s.parked = []) (hsteady : allSteady s = true) (hrows : (scrubAt s d).rows = [])
include hbusy hmode hcmd hpow hparked hsteady hrows

omit hrows in
/-- The end of a preserving test: its result, and the rows reported. -/
theorem doMarchDone_preserving {fs : List StuckBits} {failed left : List ArrBlock}
    (hrun : marchRun s d fs (testReaches s d (marchAt s d)) = (setScrub s d g, failed, left)) : doMarchDone s d fs =
      setMarch (left.foldl (fun s b => memEvent s d 0x0022 b 0) (setScrub s d g)) d { marchResult (marchAt s d) failed left with busy := false } := by
  rw [doMarchDone_busy hbusy hrun, marchLeaves_preserving hmode (noFlips_of_allSteady hsteady)]
  exact endMarch_alone hpow hcmd ((parked_foldl_memEvent left _).trans hparked)

theorem runs_marchDone_pass : Runs (.marchDone d []) s (fun t => t = { s with marches := t.marches, scrubs := t.scrubs } ∧
    scrubAt t d = scrubAt s d ∧ marchAt t d = { marchAt s d with failed := 0, result := 1, busy := false }) := by
  refine ⟨_, exec_marchDone d [], ?_⟩
  rw [doMarchDone_preserving hbusy hmode hcmd hpow hparked hsteady (marchRun_none hrows)]
  exact ⟨rfl, scrubAt_setScrub .., marchAt_setMarch ..⟩

variable (hskip : (marchAt s d).skipped = []) (hmask : f.mask ≠ 0) (hspare : f.spare = none)
  (htest : marchTests s d (marchAt s d).runKind.toNat (marchAt s d).runIndex.toNat true (rowOfBlk f.blk) = true)
include hskip hmask hspare htest

omit hbusy hcmd hpow hparked hsteady in
theorem failingRows_testReaches : failingRows (scrubAt s d) [f] (testReaches s d (marchAt s d)) = [rowOfBlk f.blk] :=
  failingRows_stuck hmask hspare hrows (by simp [testReaches, hmode, htest, hskip])

theorem runs_marchDone_repairs (hfree : freeSpares (scrubAt s d) (rowOfBlk f.blk) ≠ []) : Runs (.marchDone d [f]) s (fun t =>
    t = { s with marches := t.marches, scrubs := t.scrubs } ∧
    (scrubAt t d).rows = [(rowOfBlk f.blk, (freeSpares (scrubAt s d) (rowOfBlk f.blk)).headD 0)] ∧
    (scrubAt t d).repaired = satInc (scrubAt s d).repaired ∧ marchAt t d = { marchAt s d with failed := 1, result := 2, busy := false }) := by
  obtain ⟨n, ns, hns⟩ := List.exists_cons_of_ne_nil hfree
  have hgood : ∀ n, spareFails [f] (rowOfBlk f.blk) n = false := fun n => by simp [spareFails, hspare]
  have hrun := marchRun_one (failingRows_testReaches hmode hrows hskip hmask hspare htest) (repairArrRow_first hgood hns)
  refine ⟨_, exec_marchDone d [f], ?_⟩
  rw [doMarchDone_preserving hbusy hmode hcmd hpow hparked hsteady hrun]
  refine ⟨rfl, (congrArg Scrub.rows (scrubAt_setScrub ..)).trans ?_, (congrArg Scrub.repaired (scrubAt_setScrub ..)).trans rfl, marchAt_setMarch ..⟩
  simp [spareLeft, hrows, hns]

theorem runs_marchDone_reports (hfree : freeSpares (scrubAt s d) (rowOfBlk f.blk) = []) : Runs (.marchDone d [f]) s (fun t =>
    t = { s with marches := t.marches, scrubs := t.scrubs, evqs := t.evqs } ∧ (scrubAt t d).rows = [] ∧
    marchAt t d = { marchAt s d with failed := 1, result := 3, busy := false }) := by
  have hrun := marchRun_one (failingRows_testReaches hmode hrows hskip hmask hspare htest) (repairArrRow_none hfree)
  refine ⟨_, exec_marchDone d [f], ?_⟩
  rw [doMarchDone_preserving hbusy hmode hcmd hpow hparked hsteady hrun]
  refine ⟨rfl, (congrArg Scrub.rows (scrubAt_setScrub ..)).trans ?_, marchAt_setMarch ..⟩
  simp [spareLeft, hrows]

end Preserving

/-! ### A destructive test (R295) -/

/-- Whether an address of the die banks lies in one bank of a die. -/
def inBankOf (d index a : Nat) : Bool := a / 2 ^ 23 == d && a % 2 ^ 23 / 2 ^ 18 == index

theorem imem_wipeArrays_bank (s : State) (d index : Nat) : (wipeArrays s d 0 index).imem = s.imem := by simp [wipeArrays]

theorem marchTests_bank (hbank : b.kind = .bank) (hown : b.owner = d) (hix : b.blk / 32768 = index) : marchTests s d 0 index false b = true := by
  simp [marchTests, arrClause?_bank hbank, hbank, hown, hix]

section Wiped

variable (hbank : b.kind = .bank) (hown : b.owner = d) (hix : b.blk / 32768 = index)
include hbank hown hix

theorem blockBad_wiped {m : March} : blockBad (setMarch (wipeArrays s d 0 index) d m) b = false := by
  rw [blockBad_bank hbank, show (setMarch (wipeArrays s d 0 index) d m).poison = s.poison.filter (fun b => !marchTests s d 0 index false b) from rfl]
  simp [marchTests_bank hbank hown hix]

theorem flipOf_wiped {m : March} : flipOf (setMarch (wipeArrays s d 0 index) d m) b = 0 := by
  have hnone : (s.flips.filter (fun p => !marchTests s d 0 index false p.1)).find? (fun p => p.1 == b) = none := by
    rw [List.find?_eq_none]
    intro p hp heq
    rw [List.mem_filter, eq_of_beq heq, marchTests_bank hbank hown hix] at hp
    exact absurd hp.2 Bool.false_ne_true
  rw [flipOf_bank hbank,
    show (setMarch (wipeArrays s d 0 index) d m).flips = s.flips.filter (fun p => !marchTests s d 0 index false p.1) from rfl, hnone]
  rfl

end Wiped

theorem doMarchDone_destructive (hbusy : (marchAt s d).busy = true) (hmode : (marchAt s d).runMode = false)
    (hkind : (marchAt s d).runKind = 0) (hcmd : (marchAt s d).cmd = none) (hpow : (marchAt s d).powered = none) (hparked : s.parked = [])
    {fs : List StuckBits} {failed left : List ArrBlock}
    (hrun : marchRun s d fs (testReaches s d (marchAt s d)) = (setScrub s d g, failed, left)) : doMarchDone s d fs =
      setMarch (wipeArrays (setScrub s d g) d 0 (marchAt s d).runIndex.toNat) d { marchResult (marchAt s d) failed left with busy := false } := by
  rw [doMarchDone_busy hbusy hrun, marchLeaves_destructive hmode, hkind]
  exact endMarch_alone hpow hcmd hparked

theorem runs_marchDone_destructive (hbusy : (marchAt s d).busy = true) (hmode : (marchAt s d).runMode = false)
    (hkind : (marchAt s d).runKind = 0) (hcmd : (marchAt s d).cmd = none) (hpow : (marchAt s d).powered = none) (hparked : s.parked = []) :
    Runs (.marchDone d []) s (fun t => t.banks = s.banks.filter (fun p => !inBankOf d (marchAt s d).runIndex.toNat p.1) ∧ t.tcm = s.tcm ∧
      t.imem = s.imem ∧ (marchAt t d).busy = false ∧
      ∀ b, b.kind = .bank → b.owner = d → b.blk / 32768 = (marchAt s d).runIndex.toNat → blockBad t b = false ∧ flipOf t b = 0) := by
  obtain ⟨g, failed, left, hrun⟩ : ∃ g failed left, marchRun s d [] (testReaches s d (marchAt s d)) = (setScrub s d g, failed, left) :=
    ⟨_, _, _, rfl⟩
  refine ⟨_, exec_marchDone d [], ?_⟩
  rw [doMarchDone_destructive hbusy hmode hkind hcmd hpow hparked hrun]
  exact ⟨rfl, rfl, imem_wipeArrays_bank .., congrArg March.busy (marchAt_setMarch ..),
    fun b hbank hown hix => ⟨blockBad_wiped hbank hown hix, flipOf_wiped hbank hown hix⟩⟩

/-! ### Yields (R283, R296) -/

theorem exec_marchRowRetry (d : Nat) (row : ArrBlock) (master : Nat) :
    exec (.marchRowRetry d row master) s = .next (doMarchRowRetry s d row master) := rfl

/-- How often in a row the engine has yielded a row, this time included. -/
def yieldsOf (m : March) (row : ArrBlock) : Nat := (if m.row = some (rowOfBlk row) then m.rowYields else 0) + 1

/-- The engine's record after a yield. -/
def yielded (m : March) (row : ArrBlock) : March :=
  if 16 ≤ yieldsOf m row then { m with yields := satInc m.yields, untested := satInc m.untested, row := none, rowYields := 0,
                                       skipped := m.skipped ++ [rowOfBlk row] }
  else { m with yields := satInc m.yields, row := some (rowOfBlk row), rowYields := yieldsOf m row }

theorem yields_yielded (m : March) (row : ArrBlock) : (yielded m row).yields = satInc m.yields := by
  unfold yielded
  split <;> rfl

theorem yielded_waits (h : m.row ≠ some (rowOfBlk row) ∨ m.rowYields < 15) :
    yielded m row = { m with yields := satInc m.yields, row := some (rowOfBlk row), rowYields := yieldsOf m row } := by
  refine if_neg ?_
  unfold yieldsOf
  split
  next hrow =>
    have hless : m.rowYields < 15 := h.resolve_left fun hne => hne hrow
    omega
  · omega

theorem yielded_skips (hrow : m.row = some (rowOfBlk row)) (h : 15 ≤ m.rowYields) : yielded m row =
    { m with yields := satInc m.yields, untested := satInc m.untested, row := none, rowYields := 0, skipped := m.skipped ++ [rowOfBlk row] } := by
  refine if_pos ?_
  rw [yieldsOf, if_pos hrow]
  omega

section Yield

variable (hbusy : (marchAt s d).busy = true) (hmode : (marchAt s d).runMode = true)
  (htest : marchTests s d (marchAt s d).runKind.toNat (marchAt s d).runIndex.toNat true row = true)
include hbusy hmode htest

theorem doMarchRowRetry_yields : doMarchRowRetry s d row master =
    setMarch (if row.kind = .bank then conflict s d master else s) d (yielded (marchAt s d) row) :=
  if_neg (by simp [hbusy, hmode, htest])

theorem doMarchRowRetry_bank (hbank : row.kind = .bank) :
    doMarchRowRetry s d row master = setMarch (conflict s d master) d (yielded (marchAt s d) row) := by
  rw [doMarchRowRetry_yields hbusy hmode htest, if_pos hbank]

theorem frame_marchRowRetry_bank (hbank : row.kind = .bank) (hm : master < 69) :
    let t := doMarchRowRetry s d row master
    t = { s with marches := t.marches, conflicts := t.conflicts } ∧ only d marchAt s t ∧ marchAt t d = yielded (marchAt s d) row := by
  rw [doMarchRowRetry_bank hbusy hmode htest hbank, conflict_eq hm]
  exact ⟨rfl, fun j hj => marchAt_setMarch_other hj, marchAt_setMarch ..⟩

theorem runs_marchRowRetry_bank (hbank : row.kind = .bank) (hm : master < 69)
    (hless : (marchAt s d).row ≠ some (rowOfBlk row) ∨ (marchAt s d).rowYields < 15) : Runs (.marchRowRetry d row master) s (fun t =>
      t = { s with marches := t.marches, conflicts := t.conflicts } ∧ only d marchAt s t ∧
      marchAt t d = { marchAt s d with yields := satInc (marchAt s d).yields, row := some (rowOfBlk row),
                                       rowYields := (if (marchAt s d).row = some (rowOfBlk row) then (marchAt s d).rowYields else 0) + 1 } ∧
      sget 0 t.conflicts (69 * d + master) = satInc (sget 0 s.conflicts (69 * d + master)) ∧
      ∀ j, j ≠ 69 * d + master → sget 0 t.conflicts j = sget 0 s.conflicts j) := by
  obtain ⟨hframe, honly, hrec⟩ := frame_marchRowRetry_bank (master := master) hbusy hmode htest hbank hm
  refine ⟨_, exec_marchRowRetry d row master, hframe, honly, hrec.trans (yielded_waits hless), ?_⟩
  rw [doMarchRowRetry_bank hbusy hmode htest hbank]
  exact ⟨sget_conflicts_conflict hm, fun j => sget_conflicts_conflict_other hm⟩

theorem runs_marchRowRetry_skips (hbank : row.kind = .bank) (hm : master < 69) (hrow : (marchAt s d).row = some (rowOfBlk row))
    (hmany : 15 ≤ (marchAt s d).rowYields) : Runs (.marchRowRetry d row master) s (fun t =>
      t = { s with marches := t.marches, conflicts := t.conflicts } ∧ only d marchAt s t ∧
      marchAt t d = { marchAt s d with yields := satInc (marchAt s d).yields, untested := satInc (marchAt s d).untested, row := none,
                                       rowYields := 0, skipped := (marchAt s d).skipped ++ [rowOfBlk row] }) := by
  obtain ⟨hframe, honly, hrec⟩ := frame_marchRowRetry_bank (master := master) hbusy hmode htest hbank hm
  exact ⟨_, exec_marchRowRetry d row master, hframe, honly, hrec.trans (yielded_skips hrow hmany)⟩

theorem runs_marchRowRetry_other (hkind : row.kind ≠ .bank) : Runs (.marchRowRetry d row master) s (fun t =>
    t = { s with marches := t.marches } ∧ only d marchAt s t ∧ (marchAt t d).yields = satInc (marchAt s d).yields) := by
  refine ⟨_, exec_marchRowRetry d row master, ?_⟩
  rw [doMarchRowRetry_yields hbusy hmode htest, if_neg hkind]
  exact ⟨rfl, fun j hj => marchAt_setMarch_other hj, (congrArg March.yields (marchAt_setMarch ..)).trans (yields_yielded ..)⟩

end Yield

theorem exec_marchRowRetry_ignored (h : (marchAt s d).busy = false ∨ (marchAt s d).runMode = false ∨
    marchTests s d (marchAt s d).runKind.toNat (marchAt s d).runIndex.toNat true row = false) :
    exec (.marchRowRetry d row master) s = .next s := by
  refine congrArg Host.Outcome.next (if_pos ?_)
  obtain h | h | h := h <;> simp [h]

/-! ### Counters cleared (R283, R301) -/

theorem sget_filter_key {α : Type} (dflt : α) (m : Sparse α) (p : Nat → Bool) (j : Nat) :
    sget dflt (m.filter (fun q => p q.1)) j = if p j then sget dflt m j else dflt := by
  induction m with
  | nil => simp [sget]
  | cons q m ih => cases hq : p q.1 <;> by_cases hj : q.1 = j <;> simp_all [sget]

theorem exec_bnkCtrlClr_hostReg (d : Nat) : exec (.bnkCtrlClr d) s = .next (hostReg s d (fun s => doBnkCtrlClr s d)) := rfl

theorem exec_evtQCtrlClr_hostReg (d q : Nat) : exec (.evtQCtrlClr d q) s = .next (hostReg s d (fun s => doEvtQCtrlClr s d q)) := rfl

theorem runs_bnkCtrlClr (ha : arrives s d = true) : Runs (.bnkCtrlClr d) s (fun t => t = { s with conflicts := t.conflicts } ∧
    ∀ j, sget 0 t.conflicts j = if j / 69 = d then 0 else sget 0 s.conflicts j) := by
  refine ⟨_, exec_bnkCtrlClr_hostReg d, ?_⟩
  rw [hostReg_arrives _ ha]
  refine ⟨rfl, fun j => (sget_filter_key 0 s.conflicts (fun i => i / 69 != d) j).trans ?_⟩
  by_cases hj : j / 69 = d <;> simp [hj]

theorem evqAt_setEvq_other {i j : Nat} {x : EvQueue} (h : j ≠ i) : evqAt (setEvq s i x) j = evqAt s j := sget_sput_other _ _ _ _ _ h

theorem runs_evtQCtrlClr {q : Nat} (ha : arrives s d = true) (hq : q < 3) : Runs (.evtQCtrlClr d q) s (fun t => t = { s with evqs := t.evqs } ∧
    only (3 * d + q) evqAt s t ∧ evqAt t (3 * d + q) = { evqAt s (3 * d + q) with high := 0, lost := 0 }) := by
  refine ⟨_, exec_evtQCtrlClr_hostReg d q, ?_⟩
  rw [hostReg_arrives _ ha, doEvtQCtrlClr, if_neg (by omega)]
  exact ⟨rfl, fun j hj => evqAt_setEvq_other hj, evqAt_setEvq ..⟩

theorem exec_counterClears_not_arrives (q : Nat) (ha : arrives s d = false) :
    exec (.bnkCtrlClr d) s = .next s ∧ exec (.evtQCtrlClr d q) s = .next s := by
  rw [exec_bnkCtrlClr_hostReg, exec_evtQCtrlClr_hostReg, hostReg_not_arrives ha, hostReg_not_arrives ha]
  exact ⟨rfl, rfl⟩

end Sys2Proof.Proofs
end

section
/-! PROOFS. Scrubbing, repair and march tests, assembled. -/

open Sys2Proof Sys2Proof.Machine Sys2Proof.Claims

namespace Sys2Proof.Proofs

variable {s : State} {d k : Nat} {b : ArrBlock}

theorem rcRead_rcPoison (v : BitVec 64) : (rcRead (rcPoison v)).1 = .poisoned := by
  simp [rcRead, rcSR_rcPoison, rcSC_rcPoison]

/-- What a reader leaves of a block of the die banks with one bit flipped: counted, its bytes as they were, the bit still flipped (R286). -/
theorem settleRange_keeps {a n : Nat} (hbank : b.kind = .bank) (howner : b.owner = d) (hflips : s.flips = [(b, 1#80 <<< k)]) (hk : k < 64)
    (hgood : s.poison.contains b = false) (htouch : touchesBlk a n b.blk = true) :
    let t := settleRange s .bank d a n
    t = { s with banks := t.banks, flips := t.flips, memCorr := t.memCorr } ∧ (∀ x, rd t.banks x = rd s.banks x) ∧ flipOf t b = 1#80 <<< k ∧
    memCorrAt t (7 * d) = { memCorrAt s (7 * d) with corr := satInc (memCorrAt s (7 * d)).corr } := by
  rw [settleRange_oneFlip hk hbank howner hflips hgood htouch]
  exact ⟨rfl, rd_banksRewritten s b, flipOf_only hbank hflips, memCorrAt_countMem_corr _ d 0⟩

theorem arrayScrubbing : ArrayScrubbing :=
  ⟨fun v => ⟨congrArg Prod.fst (rcRead_rcEncode v), rcRead_rcPoison v⟩,
    fun _ _ _ hen hrun hsteady hgood => runs_scrubRead_clean hen hrun hsteady hgood,
    fun _ _ _ _ hen hrun hok hsteady hgood hk hbank hfew => runs_scrubRead_corrects hen hrun hsteady hok rfl hbank hgood hk hfew,
    fun _ _ _ _ hen hrun hok hsteady hgood hk hbank hthree hdef hrep hfree =>
      runs_scrubRead_declaresStuck hen hrun hsteady hok rfl hbank hgood hk hthree hdef hrep hfree,
    fun _ _ _ _ hen hrun hok hsteady hgood hjk hk hbank => runs_scrubRead_poisons hen hrun hsteady hok rfl hbank hgood hjk hk,
    fun _ _ _ h => (exec_scrubRead []).trans (congrArg Host.Outcome.next (doScrubRead_idle h)),
    fun _ _ _ _ _ _ hbank howner hflips hk hgood htouch => settleRange_keeps hbank howner hflips hk hgood htouch,
    fun _ _ _ _ hrun hrep hdef hwait hsteady hbank hm hfree => runs_rowRepairDone hrun hrep hdef hwait hsteady hbank hm hfree,
    fun _ _ _ ms h => (exec_rowRepairDone ms).trans (congrArg Host.Outcome.next (doRowRepairDone_waits h)),
    fun _ _ _ _ hlive hon hbad hbank hcopy hlen => runs_masterRewrite_bank hlive hon hbad hbank hcopy hlen,
    fun _ _ _ _ hlive hon hbad hbank hcopy hlen => runs_masterRewrite_sram hlive hon hbad hbank hcopy hlen,
    fun _ d b h => (exec_masterRewrite d b).trans (congrArg Host.Outcome.next (doMasterRewrite_keeps h))⟩

theorem marchTestsHold : MarchTests :=
  ⟨fun _ _ ha hdia hidle hon => runs_mgtMtCtrlStart ha hdia hidle hon,
    fun _ _ ha hdia hidle hkind hoff hallowed => runs_mgtMtCtrlStart_unpowered ha hdia hidle hkind hoff hallowed,
    fun _ _ h => exec_mgtMtCtrlStart_ignored h,
    fun _ _ hbusy hmode hcmd hpow hparked hsteady hrows => runs_marchDone_pass hbusy hmode hcmd hpow hparked hsteady hrows,
    fun _ _ _ hbusy hmode hcmd hpow hskip hparked hsteady hrows hmask hspare htest =>
      ⟨runs_marchDone_repairs hbusy hmode hcmd hpow hparked hsteady hrows hskip hmask hspare htest,
        runs_marchDone_reports hbusy hmode hcmd hpow hparked hsteady hrows hskip hmask hspare htest⟩,
    fun _ _ hbusy hmode hkind hcmd hpow hparked => runs_marchDone_destructive hbusy hmode hkind hcmd hpow hparked,
    fun _ _ defects hbusy => exec_marchDone_idle hbusy defects,
    fun _ _ _ _ hbusy hmode htest hbank hm =>
      ⟨runs_marchRowRetry_bank hbusy hmode htest hbank hm, runs_marchRowRetry_skips hbusy hmode htest hbank hm⟩,
    fun _ _ _ _ hbusy hmode htest hkind => runs_marchRowRetry_other hbusy hmode htest hkind,
    fun _ _ _ _ h => exec_marchRowRetry_ignored h,
    fun _ _ ha => runs_bnkCtrlClr ha,
    fun _ _ _ ha hq => runs_evtQCtrlClr ha hq,
    fun _ _ q ha => exec_counterClears_not_arrives q ha⟩

/-- Settles O40: scrubbing, repair and march tests, each clause by the lemma about its instruction. -/
theorem arraysScrubAndMarch : Obligations.ArraysScrubAndMarch := ⟨arrayScrubbing, marchTestsHold⟩

end Sys2Proof.Proofs
end

section
/-! PROOFS. What the loss of a route leaves alone (R362): the ports, and the routes lost before. A die's fault reaches many units, none of them a port. -/

open Sys2Proof Sys2Proof.Machine Sys2Proof.Claims

namespace Sys2Proof.Proofs

/-- The ports and the lost routes of `t` are those of `s`. An operation that changes other fields keeps them by definition; those that branch
have their lemma below, in the order of the model. -/
def FabricKept (s t : State) : Prop := t.ports = s.ports ∧ t.lostRoutes = s.lostRoutes

/-- `FabricKept` of the state a stretch of LOAD_BLOCKS ends in. -/
def FabricKeptLoad (s : State) : LoadStep → Prop
  | .done t => FabricKept s t
  | .wait t _ => FabricKept s t

variable {s t : State}

theorem fabricKept_refl : FabricKept s s := ⟨rfl, rfl⟩

theorem fabricKept_ite {c : Prop} [Decidable c] {u v : State} (hu : FabricKept s u) (hv : FabricKept s v) : FabricKept s (if c then u else v) := by
  split
  · exact hu
  · exact hv

theorem fabricKept_foldl {α : Type} {f : State → α → State} {l : List α} (ht : FabricKept s t) (hf : ∀ u a, FabricKept s u → FabricKept s (f u a)) :
    FabricKept s (l.foldl f t) :=
  List.foldlRecOn (motive := FabricKept s) l f ht fun u hu a _ => hf u a hu

theorem modClause_fabricKept {x f} (ht : FabricKept s t) : FabricKept s (modClause t x f) := ht

theorem modLink_fabricKept {i f} (ht : FabricKept s t) : FabricKept s (modLink t i f) := ht

theorem drawBytes_fabricKept {n} (ht : FabricKept s t) : FabricKept s (drawBytes t n).2 := ht

theorem logEv_fabricKept {d code data} (ht : FabricKept s t) : FabricKept s (logEv t d code data) := ht

/-! ### Completions and fences -/

theorem msix_fabricKept {v} (ht : FabricKept s t) : FabricKept s (msix t v) :=
  fabricKept_ite ht (fabricKept_ite (fabricKept_ite ht ht) (fabricKept_ite ht ht))

theorem putFence_fabricKept {u f} (ht : FabricKept s t) : FabricKept s (putFence t u f) := by
  unfold putFence
  split
  · exact ht
  · exact ht

theorem changeFence_fabricKept {u st reason} (ht : FabricKept s t) : FabricKept s (changeFence t u st reason) :=
  logEv_fabricKept (putFence_fabricKept ht)

theorem signalCq_fabricKept {c} (ht : FabricKept s t) : FabricKept s (signalCq t c) := msix_fabricKept ht

theorem putCq_fabricKept {c entry} (ht : FabricKept s t) : FabricKept s (putCq t c entry) :=
  fabricKept_ite (fabricKept_ite (signalCq_fabricKept ht) ht) ht

theorem complete_fabricKept {h opcode status result} (ht : FabricKept s t) : FabricKept s (complete t h opcode status result) := by
  unfold complete
  extract_lets e m src
  split
  · exact fabricKept_ite (putCq_fabricKept ht) ht
  · exact msix_fabricKept ht
  · exact ht
  · exact ht

/-! ### Blocks in DRAM and the loads of a decompressor -/

theorem dramWr_fabricKept {d a bs} (ht : FabricKept s t) : FabricKept s (dramWr t d a bs) := by
  have hports : (dramWr t d a bs).ports = t.ports := (congrArg State.ports (dramWr_dramChange (s := t)).rest :)
  have hlost : (dramWr t d a bs).lostRoutes = t.lostRoutes := (congrArg State.lostRoutes (dramWr_dramChange (s := t)).rest :)
  exact ⟨hports.trans ht.1, hlost.trans ht.2⟩

theorem closeSet_fabricKept {page copy} (ht : FabricKept s t) : FabricKept s (closeSet t page copy) := fabricKept_ite ht ht

theorem loadEnd_fabricKept {w e} (ht : FabricKept s t) : FabricKept s (loadEnd t w e) := complete_fabricKept ht

theorem loadTail_fabricKept {w} (ht : FabricKept s t) : FabricKeptLoad s (loadTail t w) := by
  unfold loadTail
  extract_lets t1
  have h1 : FabricKept s t1 := by
    unfold t1
    split
    · exact fabricKept_ite (closeSet_fabricKept ht) ht
    · exact ht
  split
  · exact ht
  · split
    · exact loadEnd_fabricKept ht
    · exact loadEnd_fabricKept h1

theorem cmpSpoils_fabricKept {d} (ht : FabricKept s t) : FabricKept s (cmpSpoils t d) :=
  dramWr_fabricKept (drawBytes_fabricKept ht)

theorem dropCached_fabricKept {d a} (ht : FabricKept s t) : FabricKept s (dropCached t d a) :=
  fabricKept_ite (cmpSpoils_fabricKept (t := t) ht) ht

theorem loadRefused_fabricKept {w c reason} (ht : FabricKept s t) : FabricKept s (loadRefused t w c reason).1 :=
  fabricKept_foldl ht fun _ _ hu => dropCached_fabricKept hu

theorem cacheLeft_fabricKept {d a refused} (ht : FabricKept s t) : FabricKept s (cacheLeft t d a refused) := by
  unfold cacheLeft
  split
  case h_2 => exact ht
  case h_1 w _ =>
    split
    · exact ht
    extract_lets others r
    have hr : FabricKept s r.1 := by
      unfold r
      split
      · exact loadRefused_fabricKept ht
      · exact ht
    split
    · have htail := loadTail_fabricKept (w := r.2) (show FabricKept s { r.1 with parked := others } from hr)
      split
      next u hu =>
        rw [hu] at htail
        exact htail
      next u v hu =>
        rw [hu] at htail
        exact htail
    · exact hr

theorem refuseCached_fabricKept {d reason} (ht : FabricKept s t) : FabricKept s (refuseCached t d reason) :=
  fabricKept_foldl ht fun _ _ hu => cacheLeft_fabricKept (dropCached_fabricKept hu)

/-! ### Links, heads, lanes, axes and DMA channels -/

theorem sendSlot_fabricKept {d l} (ht : FabricKept s t) : FabricKept s (sendSlot t d l) :=
  modLink_fabricKept (fabricKept_foldl ht fun _ _ hu => hu)

theorem sendIdle_fabricKept {d l count} (ht : FabricKept s t) : FabricKept s (sendIdle t d l count) :=
  modLink_fabricKept (fabricKept_foldl ht fun _ _ hu => hu)

theorem sendSlots_fabricKept {d l count fuel} (ht : FabricKept s t) : FabricKept s (sendSlots t d l count fuel) := by
  induction fuel generalizing t count with
  | zero => exact ht
  | succ fuel ih => exact fabricKept_ite ht (fabricKept_ite (ih (sendIdle_fabricKept ht)) (ih (sendSlot_fabricKept ht)))

theorem dropFrames_fabricKept {d l p} (ht : FabricKept s t) : FabricKept s (dropFrames t d l p) :=
  show FabricKept s (pump t d l) from fabricKept_ite (sendSlots_fabricKept ht) ht

theorem fenceDma_fabricKept {d c reason} (ht : FabricKept s t) : FabricKept s (fenceDma t d c reason) :=
  fabricKept_ite ht (changeFence_fabricKept ht)

theorem dropLines_fabricKept {h p} (ht : FabricKept s t) : FabricKept s (dropLines t h p) := by
  unfold dropLines
  split
  · exact dropFrames_fabricKept ht
  · exact ht

theorem fenceHead_fabricKept {h reason} (ht : FabricKept s t) : FabricKept s (fenceHead t h reason) := by
  unfold fenceHead
  extract_lets t1 t2
  have h1 : FabricKept s t1 := dropLines_fabricKept ht
  have h2 : FabricKept s t2 := changeFence_fabricKept h1
  split
  · exact ht
  · split
    · exact fenceDma_fabricKept h2
    · exact h2

theorem retireLane_fabricKept {d n reason} (ht : FabricKept s t) : FabricKept s (retireLane t d n reason) :=
  fabricKept_ite ht (changeFence_fabricKept ht)

theorem endAxisCmd_fabricKept {a status} (ht : FabricKept s t) : FabricKept s (endAxisCmd t a status) := by
  unfold endAxisCmd
  split
  · exact complete_fabricKept ht
  · exact ht

theorem endService_fabricKept {g status st} (ht : FabricKept s t) : FabricKept s (endService t g status st) := by
  unfold endService
  extract_lets t1 t2
  split
  · exact complete_fabricKept ht
  · exact ht

theorem axisFailed_fabricKept {a status} (ht : FabricKept s t) : FabricKept s (axisFailed t a status) := by
  unfold axisFailed
  extract_lets t1
  have h1 : FabricKept s t1 := endAxisCmd_fabricKept ht
  split
  · exact endService_fabricKept h1
  · exact h1

theorem fenceAxis_fabricKept {a reason} (ht : FabricKept s t) : FabricKept s (fenceAxis t a reason) := by
  unfold fenceAxis
  extract_lets t1 t2 t3
  have h2 : FabricKept s t2 := changeFence_fabricKept (t := t1) ht
  have h3 : FabricKept s t3 := axisFailed_fabricKept h2
  split
  · exact ht
  · split
    · exact h3
    · exact h3

/-! ### Clauses and the job -/

theorem powerOffClause_fabricKept {x} (ht : FabricKept s t) : FabricKept s (powerOffClause t x) := fabricKept_foldl ht fun _ _ hu => hu

theorem returnSpare_fabricKept {y} (ht : FabricKept s t) : FabricKept s (returnSpare t y) := changeFence_fabricKept ht

theorem startTest_fabricKept {x} (ht : FabricKept s t) : FabricKept s (startTest t x) := changeFence_fabricKept ht

theorem fencedIfDrained_fabricKept {x} (ht : FabricKept s t) : FabricKept s (fencedIfDrained t x) := by
  have hoff : ∀ c, FabricKept s (powerOffClause (setClause t x c) x) := fun c => powerOffClause_fabricKept ht
  unfold fencedIfDrained
  exact fabricKept_ite (fabricKept_ite (returnSpare_fabricKept (hoff _)) (fabricKept_ite (startTest_fabricKept (hoff _)) (hoff _))) ht

theorem clauseIdle_fabricKept {x} (ht : FabricKept s t) : FabricKept s (clauseIdle t x) := fabricKept_foldl ht fun _ _ hu => hu

theorem clausesIdle_fabricKept {rows} (ht : FabricKept s t) : FabricKept s (clausesIdle t rows) :=
  fabricKept_foldl ht fun _ _ hu => fabricKept_foldl hu fun _ _ hv => fencedIfDrained_fabricKept (clauseIdle_fabricKept hv)

theorem endRuns_fabricKept {p} (ht : FabricKept s t) : FabricKept s (endRuns t p) := by
  unfold endRuns
  split
  · exact ht
  · exact fabricKept_foldl ht fun _ _ hu => hu

theorem nextReport_fabricKept {r} (ht : FabricKept s t) (hr : nextReport? t = some r) : FabricKept s r.2 := by
  unfold nextReport? at hr
  split at hr
  · exact absurd hr nofun
  split at hr
  · obtain rfl := Option.some.inj hr
    exact ht
  split at hr
  · obtain rfl := Option.some.inj hr
    exact ht
  · exact absurd hr nofun

theorem serveReports_fabricKept {fuel} (ht : FabricKept s t) : FabricKept s (serveReports t fuel) := by
  induction fuel generalizing t with
  | zero => exact ht
  | succ fuel ih =>
    unfold serveReports
    split
    next hreport _ hr => exact ih (complete_fabricKept (nextReport_fabricKept ht hr))
    next => exact ht

theorem closeJob_fabricKept {bits} (ht : FabricKept s t) : FabricKept s (closeJob t bits) := by
  unfold closeJob
  split
  · exact ht
  · extract_lets t1 t2 t3 t4 t5 t6 src t7
    have h1 : FabricKept s t1 := endRuns_fabricKept ht
    have h4 : FabricKept s t4 := clausesIdle_fabricKept (t := t3) h1
    have h5 : FabricKept s t5 := fabricKept_foldl h4 fun _ _ hu => hu
    have h7 : FabricKept s t7 := fabricKept_ite h5 h5
    exact fabricKept_ite ht (serveReports_fabricKept h7)

theorem readyCopies_fabricKept {fuel} (ht : FabricKept s t) : FabricKept s (readyCopies t fuel) := by
  induction fuel generalizing t with
  | zero => exact ht
  | succ fuel ih =>
    unfold readyCopies
    split
    · exact ht
    · exact fabricKept_ite (ih (endRuns_fabricKept (p := _) ht)) ht

theorem jobAdvance_fabricKept (ht : FabricKept s t) : FabricKept s (jobAdvance t) := by
  unfold jobAdvance
  split
  · exact ht
  · extract_lets t1 t2 t3
    have h2 : FabricKept s t2 := fabricKept_foldl (readyCopies_fabricKept ht) fun _ _ hu => fabricKept_ite hu hu
    exact fabricKept_ite ht (serveReports_fabricKept (fabricKept_ite (closeJob_fabricKept h2) h2))

/-! ### Faults of dies, and lost routes -/

theorem die0Stop_fabricKept {reason} (ht : FabricKept s t) : FabricKept s (die0Stop t reason) := by
  unfold die0Stop
  extract_lets t1 t2 ps
  have h2 : FabricKept s t2 := closeJob_fabricKept (t := t1) ht
  split
  · exact ht
  · refine fabricKept_foldl h2 fun u p hu => ?_
    have hcomplete : ∀ {h opcode status result}, FabricKept s (complete u h opcode status result) := complete_fabricKept hu
    cases p with
    | load w => exact loadEnd_fabricKept hu
    | _ => exact hcomplete

theorem endUnfenceOf_fabricKept {d k} (ht : FabricKept s t) : FabricKept s (fenceDieClauses.endUnfenceOf t d k) := by
  unfold fenceDieClauses.endUnfenceOf
  extract_lets mine hs
  refine fabricKept_foldl ht fun u a hu => ?_
  split
  · exact complete_fabricKept hu
  · exact hu

theorem fenceDieClauses_fabricKept {d} (ht : FabricKept s t) : FabricKept s (fenceDieClauses t d) := by
  unfold fenceDieClauses
  refine fabricKept_foldl ht fun u a hu => ?_
  extract_lets x c testing t2 t3 t4
  have h2 : FabricKept s t2 := clauseIdle_fabricKept hu
  have h3 : FabricKept s t3 := powerOffClause_fabricKept (modClause_fabricKept h2)
  have h4 : FabricKept s t4 := fabricKept_ite h3 (changeFence_fabricKept h3)
  exact fabricKept_ite (endUnfenceOf_fabricKept h4) h4

theorem dieFault_fabricKept {d reason} (ht : FabricKept s t) : FabricKept s (dieFault t d reason) := by
  unfold dieFault
  extract_lets t1 t2 ls hs t3 t4 t5 t6 t7
  have h2 : FabricKept s t2 := fenceDieClauses_fabricKept (changeFence_fabricKept ht)
  have h3 : FabricKept s t3 := fabricKept_foldl h2 fun _ _ hu => fenceHead_fabricKept hu
  have h4 : FabricKept s t4 := fabricKept_foldl h3 fun _ _ hu => retireLane_fabricKept hu
  have h5 : FabricKept s t5 := fabricKept_foldl h4 fun _ _ hu => hu
  have h6 : FabricKept s t6 := fabricKept_foldl h5 fun _ _ hu => fenceDma_fabricKept hu
  have h7 : FabricKept s t7 := fenceAxis_fabricKept (fenceAxis_fabricKept h6)
  exact fabricKept_ite ht (fabricKept_ite (die0Stop_fabricKept ht) (fabricKept_ite ht (jobAdvance_fabricKept (refuseCached_fabricKept h7))))

theorem loseHalo_fabricKept {h first} (ht : FabricKept s t) : FabricKept s (loseHalo t h first) :=
  logEv_fabricKept (fabricKept_foldl ht fun _ _ hu => modClause_fabricKept hu)

/-- A route lost now is listed, with those lost before, and no port changes. -/
theorem loseRoute_new {r : Route} (hnew : s.lostRoutes.contains r.id = false) :
    FabricKept { s with lostRoutes := s.lostRoutes ++ [r.id] } (loseRoute s r) := by
  unfold loseRoute
  rw [hnew, if_neg Bool.false_ne_true]
  exact fabricKept_ite (dieFault_fabricKept fabricKept_refl) (fabricKept_foldl fabricKept_refl fun _ _ hu => loseHalo_fabricKept hu)

theorem loseRoute_again {r : Route} (hold : s.lostRoutes.contains r.id = true) : loseRoute s r = s := if_pos hold

theorem ports_loseRoute (r : Route) : (loseRoute s r).ports = s.ports := by
  cases hc : s.lostRoutes.contains r.id with
  | true => rw [loseRoute_again hc]
  | false => exact (loseRoute_new hc).1

theorem mem_lostRoutes_loseRoute (r : Route) : r.id ∈ (loseRoute s r).lostRoutes := by
  cases hc : s.lostRoutes.contains r.id with
  | true =>
    rw [loseRoute_again hc]
    simpa using hc
  | false =>
    rw [(loseRoute_new hc).2]
    simp

end Sys2Proof.Proofs
end

section
/-! PROOFS. The package fabric (R358-R362): groups, packets that reach their next die, and retrains. -/

open Sys2Proof Sys2Proof.Machine Sys2Proof.Claims

namespace Sys2Proof.Proofs

variable {s : State} {d p e r a cls : Nat} {gs : List (List Byte × BitVec 16)} {pkt : FabPkt} {f : Flight} {b : BlockBurst}

theorem portAt_setPort_other {i j : Nat} {x : Port} (h : j ≠ i) : portAt (setPort s i x) j = portAt s j := sget_sput_other _ _ _ _ _ h

theorem portAt_modPort {i : Nat} {g : Port → Port} : portAt (modPort s i g) i = g (portAt s i) := portAt_setPort ..

theorem portAt_modPort_other {i j : Nat} {g : Port → Port} (h : j ≠ i) : portAt (modPort s i g) j = portAt s j := portAt_setPort_other h

theorem exec_fabricPacketReceive : exec (.fabricPacketReceive d p gs pkt) s = .next (doFabricPacketReceive s d p gs pkt) := rfl

theorem exec_portRetrainDone {ok : Bool} : exec (.portRetrainDone d p ok) s = .next (doPortRetrainDone s d p ok) := rfl

/-! ### Groups (R359) -/

theorem findIdx?_bad_first (h : firstBad gs = true) : gs.findIdx? (fun g => crc16 g.1 != g.2) = some 0 := by
  cases gs with
  | nil => cases h
  | cons g gs => exact (List.findIdx?_cons ..).trans (if_pos (by simpa [firstBad] using h))

theorem findIdx?_bad_later (hbad : groupsGood gs = false) (hfirst : firstBad gs = false) :
    ∃ i, gs.findIdx? (fun g => crc16 g.1 != g.2) = some (i + 1) := by
  cases gs with
  | nil => cases hbad
  | cons g gs =>
    have hgood : crc16 g.1 = g.2 := by simpa [firstBad] using hfirst
    have hrest : (gs.findIdx? (fun g => crc16 g.1 != g.2)).isSome = true := by
      simpa [List.findIdx?_isSome, hgood] using hbad
    obtain ⟨i, hi⟩ := Option.isSome_iff_exists.mp hrest
    exact ⟨i, by simp [List.findIdx?_cons, hgood, hi]⟩

theorem findIdx?_good (h : groupsGood gs = true) : gs.findIdx? (fun g => crc16 g.1 != g.2) = none := by
  rw [List.findIdx?_eq_none_iff]
  simpa using h

section Up

variable (hok : dieOk s d = true) (hp : p < 4) (hup : (portAt s (4 * d + p)).st = .up)
include hok hp hup

theorem receive_bad {i : Nat} (hi : gs.findIdx? (fun g => crc16 g.1 != g.2) = some i) :
    doFabricPacketReceive s d p gs pkt = badGroup s d p (i == 0) := by
  unfold doFabricPacketReceive
  rw [if_neg (by simp [hok, hup]; omega), hi]

/-- A group that failed fewer than nine times in a row is asked for again. -/
theorem runs_receive_replay {i : Nat} {tries : Nat} (hi : gs.findIdx? (fun g => crc16 g.1 != g.2) = some i)
    (htries : (if i == 0 then (portAt s (4 * d + p)).groupReplays + 1 else 1) = tries) (hfew : tries < 9) :
    Runs (.fabricPacketReceive d p gs pkt) s (fun t =>
      t = { s with ports := t.ports, out := .fabricReplay d p :: s.out } ∧ only (4 * d + p) portAt s t ∧
      portAt t (4 * d + p) = { portAt s (4 * d + p) with replays := satInc (portAt s (4 * d + p)).replays, groupReplays := tries }) := by
  subst htries
  refine ⟨_, exec_fabricPacketReceive, ?_⟩
  rw [receive_bad hok hp hup hi, badGroup, if_neg (Nat.not_le.mpr hfew)]
  exact ⟨rfl, fun j hj => portAt_setPort_other hj, portAt_setPort ..⟩

theorem runs_receive_retrain (hfirst : firstBad gs = true) (hmany : (portAt s (4 * d + p)).groupReplays = 8) :
    Runs (.fabricPacketReceive d p gs pkt) s (fun t => t = { s with ports := t.ports } ∧ only (4 * d + p) portAt s t ∧
      portAt t (4 * d + p) =
        { portAt s (4 * d + p) with st := .train, retrains := satInc (portAt s (4 * d + p)).retrains, groupReplays := 0 }) := by
  refine ⟨_, exec_fabricPacketReceive, ?_⟩
  rw [receive_bad hok hp hup (findIdx?_bad_first hfirst), badGroup, if_pos (by simp [hmany])]
  exact ⟨rfl, fun j hj => portAt_setPort_other hj, portAt_setPort ..⟩

/-! ### Good packets -/

omit hok hp hup in
/-- The two ends of a hop that a good packet has passed: the receiving one has no replay open, the sending one counts the packet. -/
def hopPassed (s : State) (d p e r : Nat) : State :=
  modPort (modPort s (4 * d + p) (fun n => { n with groupReplays := 0 })) (4 * e + r) (fun n => { n with sent := n.sent + 1 })

theorem receive_good (hgood : groupsGood gs = true) (hpeer : peerPort? s.part.dies d p = some (e, r)) :
    doFabricPacketReceive s d p gs pkt = packetEffect (hopPassed s d p e r) e d p pkt := by
  unfold doFabricPacketReceive
  rw [if_neg (by simp [hok, hup]; omega), findIdx?_good hgood]
  dsimp only
  rw [show (setPort s (4 * d + p) { portAt s (4 * d + p) with groupReplays := 0 }).part.dies = s.part.dies from rfl, hpeer]
  rfl

end Up

theorem exec_fabricPacketReceive_ignored (h : dieOk s d = false ∨ 4 ≤ p ∨ (portAt s (4 * d + p)).st ≠ .up) :
    exec (.fabricPacketReceive d p gs pkt) s = .next s := by
  refine congrArg Host.Outcome.next (if_pos ?_)
  obtain h | h | h := h
  · exact .inl (by simp [h])
  · exact .inr (.inl h)
  · exact .inr (.inr h)

theorem ports_hopPassed_receiver (h : 4 * e + r ≠ 4 * d + p) :
    portAt (hopPassed s d p e r) (4 * d + p) = { portAt s (4 * d + p) with groupReplays := 0 } := by
  rw [hopPassed, portAt_modPort_other h.symm, portAt_modPort]

theorem ports_hopPassed_sender (h : 4 * e + r ≠ 4 * d + p) :
    portAt (hopPassed s d p e r) (4 * e + r) = { portAt s (4 * e + r) with sent := (portAt s (4 * e + r)).sent + 1 } := by
  rw [hopPassed, portAt_modPort, portAt_modPort_other h]

theorem ingress_modPort {i : Nat} {g : Port → Port} (hg : ∀ n, (g n).ingress = n.ingress) (j : Nat) :
    (portAt (modPort s i g) j).ingress = (portAt s j).ingress := by
  by_cases hj : j = i
  · rw [hj, portAt_modPort, hg]
  · rw [portAt_modPort_other hj]

theorem ingress_hopPassed (j : Nat) : (portAt (hopPassed s d p e r) j).ingress = (portAt s j).ingress :=
  (ingress_modPort (fun n => by rfl) j).trans (ingress_modPort (fun n => by rfl) j)

/-- A hop passed changes ports alone. -/
theorem hopPassed_frame (s : State) (d p e r : Nat) : ∃ ps, hopPassed s d p e r = { s with ports := ps } := ⟨_, rfl⟩

/-! ### The packet of a class that comes next (R360) -/

theorem nextFlight?_empty (h : s.fabric = []) : nextFlight? s a d p cls = none := by simp [nextFlight?, h]

section Only

variable (hfab : s.fabric = [f]) (hplace : f.place = a) (hhead : f.path.head? = some d) (hcredit : hopCredit s f d p = true)
include hfab hplace hhead hcredit

theorem nextFlight?_only : nextFlight? s a d p f.cargo.cls = some f := by
  have hlower : (List.range f.cargo.cls).any (fun c =>
      (s.fabric.find? (fun f => f.place == a && f.path.head? == some d && f.cargo.cls == c && hopCredit s f d p)).isSome) = false := by
    rw [List.any_eq_false]
    intro c hc
    have hne : f.cargo.cls ≠ c := Nat.ne_of_gt (List.mem_range.mp hc)
    simp [hfab, hne]
  unfold nextFlight?
  dsimp only
  rw [hlower, if_neg Bool.false_ne_true, hfab]
  simp [hplace, hhead, hcredit]

/-- The one packet of the fabric passes the port when it is the packet received. -/
theorem packetEffect_only (hcls : FabPkt.cls pkt = f.cargo.cls) (his : f.is d pkt = true) : packetEffect s a d p pkt = passFlight s d p f := by
  rw [packetEffect, hcls, nextFlight?_only hfab hplace hhead hcredit]
  exact if_pos his

end Only

theorem passFlight_last (hfab : s.fabric = [f]) (hlast : f.path.length ≤ 1) : passFlight s d p f = deliver { s with fabric := [] } d p f.cargo := by
  rw [passFlight, if_pos hlast, hfab, List.erase_cons_head]

theorem passFlight_on (hfab : s.fabric = [f]) (hmore : 1 < f.path.length) :
    passFlight s d p f = { s with fabric := [{ f with place := d, via := some p, path := f.path.drop 1 }] } := by
  rw [passFlight, if_neg (by omega), hfab, List.erase_cons_head]
  rfl

section Received

variable (hok : dieOk s d = true) (hp : p < 4) (hup : (portAt s (4 * d + p)).st = .up) (hgood : groupsGood gs = true)
  (hpeer : peerPort? s.part.dies d p = some (a, r))
include hok hp hup hgood hpeer

/-- The one packet of the fabric is received: it passes the port. -/
theorem receive_only (hfab : s.fabric = [f]) (hplace : f.place = a) (hhead : f.path.head? = some d)
    (hcredit : hopCredit (hopPassed s d p a r) f d p = true) (hcls : FabPkt.cls pkt = f.cargo.cls) (his : f.is d pkt = true) :
    exec (.fabricPacketReceive d p gs pkt) s = .next (passFlight (hopPassed s d p a r) d p f) := by
  rw [exec_fabricPacketReceive, receive_good hok hp hup hgood hpeer]
  exact congrArg Host.Outcome.next (packetEffect_only (s := hopPassed s d p a r) hfab hplace hhead hcredit hcls his)

theorem runs_receive_empty (hfab : s.fabric = []) : Runs (.fabricPacketReceive d p gs pkt) s (fun t =>
    t = { s with ports := t.ports } ∧ (4 * a + r ≠ 4 * d + p → portAt t (4 * d + p) = { portAt s (4 * d + p) with groupReplays := 0 } ∧
      portAt t (4 * a + r) = { portAt s (4 * a + r) with sent := (portAt s (4 * a + r)).sent + 1 })) := by
  refine ⟨_, exec_fabricPacketReceive, ?_⟩
  rw [receive_good hok hp hup hgood hpeer, packetEffect, nextFlight?_empty (s := hopPassed s d p a r) hfab]
  exact ⟨rfl, fun h => ⟨ports_hopPassed_receiver h, ports_hopPassed_sender h⟩⟩

theorem runs_receive_halo {k : Nat} {right : Bool} {v : BitVec 128} {via : Option Nat} (hfab : s.fabric = [⟨a, via, [d], .halo k right v⟩]) :
    Runs (.fabricPacketReceive d p gs (.halo d k right v)) s (fun t =>
      let c := clauseAt s (clauseIx d k)
      t = { s with ports := t.ports, clauses := t.clauses, fabric := [] } ∧ only (clauseIx d k) clauseAt s t ∧
      clauseAt t (clauseIx d k) = if right then { c with haloR := c.haloR ++ [v] } else { c with haloL := c.haloL ++ [v] }) := by
  refine ⟨_, receive_only hok hp hup hgood hpeer hfab rfl rfl rfl rfl (by simp [Flight.is, Flight.dest]), ?_⟩
  obtain ⟨ps, hps⟩ := hopPassed_frame s d p a r
  rw [hps, passFlight_last (s := { s with ports := ps }) hfab (le_refl 1)]
  exact ⟨rfl, fun j hj => clauseAt_setClause_other hj, clauseAt_setClause ..⟩

omit hok hp hup hgood hpeer in
/-- A place that no burst on its way to a next hop holds is a credit. -/
theorem hopCredit_block {ps : List Nat} (hfab : s.fabric = [⟨a, none, ps, .block b⟩])
    (hroom : (portAt s (4 * d + p)).ingress.length < queueDepth s 0x05 d) :
    hopCredit (hopPassed s d p a r) ⟨a, none, ps, .block b⟩ d p = true := by
  have hheld : portHeld (hopPassed s d p a r) d p = (portAt s (4 * d + p)).ingress.length := by
    rw [portHeld, ingress_hopPassed, show (hopPassed s d p a r).fabric = _ from hfab]
    simp
  exact decide_eq_true (hheld.symm ▸ hroom)

theorem runs_receive_block (hfab : s.fabric = [⟨a, none, [d], .block b⟩])
    (hroom : (portAt s (4 * d + p)).ingress.length < queueDepth s 0x05 d) (hne : 4 * a + r ≠ 4 * d + p) :
    Runs (.fabricPacketReceive d p gs (.block b.addr b.data)) s (fun t => t = { s with ports := t.ports, fabric := [] } ∧
      portAt t (4 * d + p) = { portAt s (4 * d + p) with groupReplays := 0, ingress := (portAt s (4 * d + p)).ingress ++ [b] }) := by
  refine ⟨_, receive_only hok hp hup hgood hpeer hfab rfl rfl (hopCredit_block hfab hroom) rfl (by simp [Flight.is]), ?_⟩
  have hport := ports_hopPassed_receiver (s := s) hne
  obtain ⟨ps, hps⟩ := hopPassed_frame s d p a r
  rw [hps] at hport ⊢
  rw [passFlight_last (s := { s with ports := ps }) hfab (le_refl 1)]
  refine ⟨rfl, portAt_modPort.trans ?_⟩
  rw [show portAt { s with ports := ps, fabric := [] } (4 * d + p) = _ from hport]

theorem runs_receive_block_on {nxt : Nat} {more : List Nat} (hfab : s.fabric = [⟨a, none, d :: nxt :: more, .block b⟩])
    (hroom : (portAt s (4 * d + p)).ingress.length < queueDepth s 0x05 d) :
    Runs (.fabricPacketReceive d p gs (.block b.addr b.data)) s (fun t =>
      t = { s with ports := t.ports, fabric := [⟨d, some p, nxt :: more, .block b⟩] }) := by
  refine ⟨_, receive_only hok hp hup hgood hpeer hfab rfl rfl (hopCredit_block hfab hroom) rfl (by simp [Flight.is]), ?_⟩
  obtain ⟨ps, hps⟩ := hopPassed_frame s d p a r
  rw [hps, passFlight_on (s := { s with ports := ps }) hfab (by simp)]
  rfl

end Received

theorem mgtAt_setMgt_other {i j : Nat} {x : Mgt} (h : j ≠ i) : mgtAt (setMgt s i x) j = mgtAt s j := sget_sput_other _ _ _ _ _ h

theorem runs_receive_beat (hok : dieOk s 0 = true) (hp : p < 4) (hup : (portAt s p).st = .up) (hgood : groupsGood gs = true)
    (hpeer : peerPort? s.part.dies 0 p = some (a, r)) (hfab : s.fabric = [⟨a, none, [0], .beat e⟩]) :
    Runs (.fabricPacketReceive 0 p gs (.heartbeat e)) s (fun t =>
      t = { s with ports := t.ports, mgt := t.mgt, fabric := [] } ∧ mgtAt t e = { mgtAt s e with lastBeat := s.tb } ∧ only e mgtAt s t) := by
  have hup' : (portAt s (4 * 0 + p)).st = .up := by simpa using hup
  have hcredit : hopCredit (hopPassed s 0 p a r) ⟨a, none, [0], .beat e⟩ 0 p = true := by
    rw [hopCredit, show (hopPassed s 0 p a r).fabric = _ from hfab]
    simp
  refine ⟨_, receive_only hok hp hup' hgood hpeer hfab rfl rfl hcredit rfl (by simp [Flight.is]), ?_⟩
  obtain ⟨ps, hps⟩ := hopPassed_frame s 0 p a r
  rw [hps, passFlight_last (s := { s with ports := ps }) hfab (le_refl 1)]
  exact ⟨rfl, mgtAt_setMgt .., fun j hj => mgtAt_setMgt_other hj⟩

/-! ### Retrains (R359, R362) -/

section Retrain

variable (hok : dieOk s d = true) (hp : p < 4) (htrain : (portAt s (4 * d + p)).st = .train)
include hok hp htrain

theorem retrainDone_eq (ok : Bool) : doPortRetrainDone s d p ok =
    if ok then setPort s (4 * d + p) { portAt s (4 * d + p) with st := .up, fails := 0 }
    else if (portAt s (4 * d + p)).fails = 0 then
      setPort s (4 * d + p) { portAt s (4 * d + p) with fails := 1, retrains := satInc (portAt s (4 * d + p)).retrains }
    else portDown s d p := by
  unfold doPortRetrainDone
  exact if_neg (by simp [hok, htrain]; omega)

theorem runs_portRetrainDone_up : Runs (.portRetrainDone d p true) s (fun t => t = { s with ports := t.ports } ∧ only (4 * d + p) portAt s t ∧
    portAt t (4 * d + p) = { portAt s (4 * d + p) with st := .up, fails := 0 }) := by
  refine ⟨_, exec_portRetrainDone, ?_⟩
  rw [retrainDone_eq hok hp htrain, if_pos rfl]
  exact ⟨rfl, fun j hj => portAt_setPort_other hj, portAt_setPort ..⟩

theorem runs_portRetrainDone_again (hfirst : (portAt s (4 * d + p)).fails = 0) : Runs (.portRetrainDone d p false) s (fun t =>
    t = { s with ports := t.ports } ∧ only (4 * d + p) portAt s t ∧
    portAt t (4 * d + p) = { portAt s (4 * d + p) with fails := 1, retrains := satInc (portAt s (4 * d + p)).retrains }) := by
  refine ⟨_, exec_portRetrainDone, ?_⟩
  rw [retrainDone_eq hok hp htrain, if_neg Bool.false_ne_true, if_pos hfirst]
  exact ⟨rfl, fun j hj => portAt_setPort_other hj, portAt_setPort ..⟩

theorem retrainDone_down (hfails : (portAt s (4 * d + p)).fails ≠ 0) : doPortRetrainDone s d p false = portDown s d p := by
  rw [retrainDone_eq hok hp htrain, if_neg Bool.false_ne_true, if_neg hfails]

end Retrain

theorem exec_portRetrainDone_ignored {ok : Bool} (h : dieOk s d = false ∨ 4 ≤ p ∨ (portAt s (4 * d + p)).st ≠ .train) :
    exec (.portRetrainDone d p ok) s = .next s := by
  refine congrArg Host.Outcome.next (if_pos ?_)
  obtain h | h | h := h
  · exact .inl (by simp [h])
  · exact .inr (.inl h)
  · exact .inr (.inr h)

/-- A hop down at both its ends, and the packets lost that have it ahead. -/
def hopDown (s : State) (d p e r : Nat) : State :=
  { modPort (modPort s (4 * d + p) (fun n => { n with st := .down })) (4 * e + r) (fun n => { n with st := .down }) with
    fabric := s.fabric.filter (fun f => !f.crosses d e) }

theorem portDown_eq (hpeer : peerPort? s.part.dies d p = some (e, r)) :
    portDown s d p = (s.gram.routes.filter (fun w => usesHop w d e)).foldl loseRoute (hopDown s d p e r) := by
  rw [portDown, hpeer]
  rfl

theorem portAt_hopDown (j : Nat) : portAt (hopDown s d p e r) j =
    portAt (modPort (modPort s (4 * d + p) (fun n => { n with st := .down })) (4 * e + r) (fun n => { n with st := .down })) j := rfl

theorem st_hopDown_peer : (portAt (hopDown s d p e r) (4 * e + r)).st = .down := by rw [portAt_hopDown, portAt_modPort]

theorem st_hopDown : (portAt (hopDown s d p e r) (4 * d + p)).st = .down := by
  by_cases h : 4 * d + p = 4 * e + r
  · rw [h, st_hopDown_peer]
  · rw [portAt_hopDown, portAt_modPort_other h, portAt_modPort]

theorem portAt_hopDown_other {j : Nat} (hd : j ≠ 4 * d + p) (he : j ≠ 4 * e + r) : portAt (hopDown s d p e r) j = portAt s j := by
  rw [portAt_hopDown, portAt_modPort_other he, portAt_modPort_other hd]

section Down

variable (hok : dieOk s d = true) (hp : p < 4) (htrain : (portAt s (4 * d + p)).st = .train) (hfails : (portAt s (4 * d + p)).fails ≠ 0)
  (hpeer : peerPort? s.part.dies d p = some (e, r))
include hok hp htrain hfails hpeer

theorem runs_portRetrainDone_down (hroutes : s.gram.routes = []) : Runs (.portRetrainDone d p false) s (fun t =>
    t = { s with ports := t.ports, fabric := s.fabric.filter (fun f => !f.crosses d e) } ∧
    (portAt t (4 * d + p)).st = .down ∧ (portAt t (4 * e + r)).st = .down ∧
    ∀ j, j ≠ 4 * d + p → j ≠ 4 * e + r → portAt t j = portAt s j) := by
  refine ⟨_, exec_portRetrainDone, ?_⟩
  rw [retrainDone_down hok hp htrain hfails, portDown_eq hpeer, hroutes]
  exact ⟨rfl, st_hopDown, st_hopDown_peer, fun j => portAt_hopDown_other⟩

theorem runs_portRetrainDone_loses {w : Route} (hroutes : s.gram.routes = [w]) (huses : usesHop w d e = true) :
    Runs (.portRetrainDone d p false) s (fun t => (portAt t (4 * d + p)).st = .down ∧ w.id ∈ t.lostRoutes) := by
  have hlost : s.gram.routes.filter (fun w => usesHop w d e) = [w] := by simp [hroutes, huses]
  refine ⟨_, exec_portRetrainDone, ?_⟩
  rw [retrainDone_down hok hp htrain hfails, portDown_eq hpeer, hlost, List.foldl_cons, List.foldl_nil]
  refine ⟨?_, mem_lostRoutes_loseRoute w⟩
  rw [portAt, ports_loseRoute]
  exact st_hopDown

end Down

theorem fabricPackets : FabricPackets :=
  ⟨fun _ _ _ _ _ hok hp hup hfirst hfew => runs_receive_replay hok hp hup (findIdx?_bad_first hfirst) (if_pos rfl) (by omega),
    fun _ _ _ _ _ hok hp hup hbad hfirst => by
      obtain ⟨i, hi⟩ := findIdx?_bad_later hbad hfirst
      exact runs_receive_replay hok hp hup hi (if_neg (by simp)) (by omega),
    fun _ _ _ _ _ hok hp hup hfirst hmany => runs_receive_retrain hok hp hup hfirst hmany,
    fun _ _ _ _ _ _ _ hok hp hup hgood hpeer hfab => runs_receive_empty hok hp hup hgood hpeer hfab,
    fun _ _ _ _ _ _ hok hp hup hgood hpeer hfab => runs_receive_beat hok hp hup hgood hpeer hfab,
    fun _ _ _ _ _ _ _ _ _ _ hok hp hup hgood hpeer hfab => runs_receive_halo hok hp hup hgood hpeer hfab,
    fun _ _ _ _ _ _ _ hok hp hup hgood hpeer hfab hroom hne => runs_receive_block hok hp hup hgood hpeer hfab hroom hne,
    fun _ _ _ _ _ _ _ _ _ hok hp hup hgood hpeer hfab hroom => runs_receive_block_on hok hp hup hgood hpeer hfab hroom,
    fun _ _ _ _ _ h => exec_fabricPacketReceive_ignored h,
    fun _ _ _ hok hp htrain => runs_portRetrainDone_up hok hp htrain,
    fun _ _ _ hok hp htrain hfirst => runs_portRetrainDone_again hok hp htrain hfirst,
    fun _ _ _ _ _ hok hp htrain hfails hpeer hroutes => runs_portRetrainDone_down hok hp htrain hfails hpeer hroutes,
    fun _ _ _ _ _ _ hok hp htrain hfails hpeer hroutes huses => runs_portRetrainDone_loses hok hp htrain hfails hpeer hroutes huses,
    fun _ _ _ _ h => exec_portRetrainDone_ignored h⟩

end Sys2Proof.Proofs
end

section
/-! PROOFS. A write of DRAM does not depend on the ports (R308): a burst lands as the same bytes written by any other master would. -/

open Sys2Proof Sys2Proof.Machine Sys2Proof.Claims

namespace Sys2Proof.Proofs

/-- The state with other ports. -/
def withPorts (ps : Sparse Port) (s : State) : State := { s with ports := ps }

variable {s : State} {d ch off : Nat} (ps : Sparse Port)

theorem foldl_withPorts {α : Type} {f : State → α → State} (hf : ∀ u a, f (withPorts ps u) a = withPorts ps (f u a)) (l : List α) (s : State) :
    l.foldl f (withPorts ps s) = withPorts ps (l.foldl f s) :=
  List.foldl_hom (withPorts ps) (g₁ := f) (g₂ := f) hf

theorem chkRead_withPorts (s : State) (d ch off : Nat) : chkRead (withPorts ps s) d ch off = withPorts ps (chkRead s d ch off) := by
  unfold chkRead
  rw [show chkCached? (withPorts ps s) d ch off = chkCached? s d ch off from rfl]
  cases chkCached? s d ch off <;> rfl

theorem chkDrop_withPorts (s : State) (d ch off : Nat) : chkDrop (withPorts ps s) d ch off = withPorts ps (chkDrop s d ch off) := by
  unfold chkDrop
  rw [apply_ite (withPorts ps)]
  rfl

theorem channelFault_withPorts (s : State) (d ch : Nat) : channelFault (withPorts ps s) d ch = withPorts ps (channelFault s d ch) := by
  unfold channelFault
  dsimp only
  rw [apply_ite (withPorts ps)]
  rfl

theorem setBlkFlips_withPorts (s : State) (d ch off : Nat) (f : BitVec 512 × BitVec 64) :
    setBlkFlips (withPorts ps s) d ch off f = withPorts ps (setBlkFlips s d ch off f) := rfl

theorem dramMark_withPorts (s : State) (d ch off : Nat) : dramMark (withPorts ps s) d ch off = withPorts ps (dramMark s d ch off) := by
  unfold dramMark
  dsimp only
  rw [apply_ite (withPorts ps)]
  rfl

theorem putBlk_withPorts (s : State) (d ch off : Nat) (v : BitVec 512) (bad : Bool) (f : BitVec 512 × BitVec 64) :
    putBlk (withPorts ps s) d ch off v bad f = withPorts ps (putBlk s d ch off v bad f) := by
  cases bad with
  | false => rfl
  | true =>
    have hmark := dramMark_withPorts ps { s with dram := wrN s.dram (dramKey d ch (off / 64 * 64)) (natLE 64 v.toNat) } d ch (off / 64 * 64)
    exact congrArg (fun u => setBlkFlips u d ch (off / 64 * 64) f) hmark

theorem blkHold_withPorts (s : State) (d ch off : Nat) (v : BitVec 512) (bad : Bool) :
    blkHold (withPorts ps s) d ch off v bad = withPorts ps (blkHold s d ch off v bad) := by
  unfold blkHold
  dsimp only
  rw [putBlk_withPorts]
  rfl

/-- The copy a bad block is replaced by: the good one there is, else the block as read, with its poison mark. -/
def replaceBad (s : State) (d ch base : Nat) (g : Option (BitVec 512)) (v o : BitVec 512) : State :=
  match g with
  | some g => putBlk s d ch base g false (0, 0)
  | none => putBlk s d ch base v true (o ^^^ v, 0)

theorem badRead_eq (s : State) (d ch off : Nat) (misdirected : Bool) (v : BitVec 512) : badRead s d ch off misdirected v =
    let u := countEcc s d ch (if misdirected then 3 else 2) (dramAddrOf s d ch (off / 64 * 64))
    channelFault (chkDrop (replaceBad u d ch (off / 64 * 64) (goodCopy? u d ch (off / 64 * 64)) v
      (blkStored u d ch off ^^^ (blkFlips u d ch off).1)) d ch (off / 64 * 64)) d ch := rfl

theorem replaceBad_withPorts (s : State) (d ch base : Nat) (g : Option (BitVec 512)) (v o : BitVec 512) :
    replaceBad (withPorts ps s) d ch base g v o = withPorts ps (replaceBad s d ch base g v o) := by
  cases g <;> exact putBlk_withPorts ..

theorem countEcc_withPorts (s : State) (d ch cls addr : Nat) : countEcc (withPorts ps s) d ch cls addr = withPorts ps (countEcc s d ch cls addr) := rfl

theorem badRead_withPorts (s : State) (d ch off : Nat) (misdirected : Bool) (v : BitVec 512) :
    badRead (withPorts ps s) d ch off misdirected v = withPorts ps (badRead s d ch off misdirected v) := by
  rw [badRead_eq, badRead_eq]
  dsimp only
  rw [countEcc_withPorts, replaceBad_withPorts, chkDrop_withPorts, channelFault_withPorts]
  rfl

theorem blkRead_withPorts (s : State) (d ch off : Nat) (xf : BitVec 512) (xr : BitVec 64) :
    blkRead (withPorts ps s) d ch off xf xr = withPorts ps (blkRead s d ch off xf xr) := by
  have hhold : ∀ u v bad, (if xf = 0 ∧ xr = 0 then blkHold (withPorts ps u) d ch off v bad else withPorts ps u) =
      withPorts ps (if xf = 0 ∧ xr = 0 then blkHold u d ch off v bad else u) := fun u v bad => by
    rw [apply_ite (withPorts ps), blkHold_withPorts]
  unfold blkRead
  rw [show blkLook (withPorts ps s) d ch off xf xr = blkLook s d ch off xf xr from rfl,
    show blkFlips (withPorts ps s) d ch off = blkFlips s d ch off from rfl, show recFlips (withPorts ps s) d ch off = recFlips s d ch off from rfl,
    chkRead_withPorts, apply_ite (withPorts ps)]
  obtain ⟨c, v⟩ := blkLook s d ch off xf xr
  dsimp only
  congr 1
  cases c with
  | clean => exact hhold _ _ _
  | corrected => exact hhold (countEcc ..) _ _
  | checkBit => exact hhold (countEcc ..) _ _
  | poisoned => exact hhold _ _ _
  | uncorrectable => exact badRead_withPorts ..
  | misdirected => exact badRead_withPorts ..

theorem blkOpen_withPorts (s : State) (d ch off : Nat) (whole : Bool) :
    blkOpen (withPorts ps s) d ch off whole = withPorts ps (blkOpen s d ch off whole) := by
  unfold blkOpen
  dsimp only
  rw [← chkDrop_withPorts, apply_ite (withPorts ps), blkRead_withPorts, show blkFlips (withPorts ps s) d ch off = blkFlips s d ch off from rfl]

theorem blkClose_withPorts (s : State) (d ch off : Nat) (whole : Bool) :
    blkClose (withPorts ps s) d ch off whole = withPorts ps (blkClose s d ch off whole) := by
  unfold blkClose
  rw [show blkFlips (withPorts ps s) d ch off = blkFlips s d ch off from rfl]
  by_cases hf : blkFlips s d ch off = (0, 0)
  · rw [if_pos hf, if_pos hf]
    cases whole <;> rfl
  · rw [if_neg hf, if_neg hf, setBlkFlips_withPorts]
    generalize setBlkFlips s d ch off (0, 0) = u
    cases whole <;> rfl

theorem onBlks_withPorts {f : State → Nat → Nat → Nat → Bool → State}
    (hf : ∀ u d ch off whole, f (withPorts ps u) d ch off whole = withPorts ps (f u d ch off whole)) (d a n : Nat) (s : State) :
    onBlks d a n f (withPorts ps s) = withPorts ps (onBlks d a n f s) :=
  foldl_withPorts ps (fun u p => foldl_withPorts ps (fun u m => hf u d m.1 m.2 _) (dramPlaces u d p) u) _ s

theorem putBytes_withPorts (d a : Nat) (bs : List Byte) (n : Nat) (s : State) :
    putBytes d a bs n (withPorts ps s) = withPorts ps (putBytes d a bs n s) :=
  foldl_withPorts ps (fun u j => foldl_withPorts ps (fun _ _ => rfl) (dramPlaces u d (a + j)) u) _ s

theorem dramWr_withPorts (s : State) (d a : Nat) (bs : List Byte) : dramWr (withPorts ps s) d a bs = withPorts ps (dramWr s d a bs) := by
  rw [dramWr_eq, dramWr_eq, onBlks_withPorts ps (blkOpen_withPorts ps), putBytes_withPorts, onBlks_withPorts ps (blkClose_withPorts ps)]

end Sys2Proof.Proofs
end

section
/-! PROOFS. Queues take items (R297-R299, R301). -/

open Sys2Proof Sys2Proof.Machine Sys2Proof.Claims

namespace Sys2Proof.Proofs

variable {s : State} {d n c : Nat} {it : QItem} {b : List Byte} {ci : CellId} {x : EvQueue}

theorem exec_queuePush (q : QRef) (it : QItem) : exec (.queuePush q it) s = .next (doQueuePush s q it) := rfl

/-! ### Commands (R299) -/

theorem exec_push_command (hc : c < 4) (hroom : classRoom s c = true) (hlen : b.length = 64) :
    exec (.queuePush (.command (.ring c)) (.bytes b)) s = .next { s with cmdq := s.cmdq ++ [⟨.ring c, b⟩] } := by
  have htake : (b ++ List.replicate 64 0).take 64 = b := by rw [← hlen, List.take_left]
  rw [exec_queuePush, doQueuePush, if_neg (by simp [hroom, hc]), htake]

theorem exec_push_command_full (hfull : classRoom s c = false) :
    exec (.queuePush (.command (.ring c)) (.bytes b)) s = .next s := by
  rw [exec_queuePush, doQueuePush, if_pos (by simp [hfull])]

/-! ### Event, telemetry and trace queues (R301) -/

/-- The queue of a die that a number names, and the items that it takes. -/
def numbered (d n : Nat) : QRef := if n = 0 then .event d else if n = 1 then .telemetry d else .trace d

theorem exec_push_numbered (hn : n < 3) (hit : (n = 0 ∧ ∃ e, it = .entry e) ∨ (n ≠ 0 ∧ ∃ b, it = .bytes b)) :
    exec (.queuePush (numbered d n) it) s = .next (evqPush s d n it) := by
  rw [exec_queuePush]
  obtain ⟨rfl, e, rfl⟩ | ⟨hne, b, rfl⟩ := hit
  · rfl
  · obtain rfl | rfl : n = 1 ∨ n = 2 := by omega
    · rfl
    · rfl

theorem push_room {depth : Nat} (h : x.items.length < depth) : x.push depth it =
    { x with items := x.items ++ [it],
             high := if x.high.toNat < x.items.length + 1 then BitVec.ofNat 10 (x.items.length + 1) else x.high } := by
  have hlen : (x.items ++ [it]).length = x.items.length + 1 := by simp
  rw [EvQueue.push, if_pos h]
  dsimp only
  rw [hlen]

theorem push_full {depth : Nat} (h : depth ≤ x.items.length) :
    x.push depth it = { x with ovf := true, lost := satInc x.lost, lostNew := x.lostNew + 1 } := if_neg (Nat.not_lt.mpr h)

/-- A push changes its own queue alone. -/
theorem evqPush_frame (s : State) (d n : Nat) (it : QItem) : let t := evqPush s d n it
    t = { s with evqs := t.evqs } ∧ only (3 * d + n) evqAt s t ∧ evqAt t (3 * d + n) = (evqAt s (3 * d + n)).push (evqDepth n) it :=
  ⟨rfl, fun _ hj => evqAt_setEvq_other hj, evqAt_setEvq ..⟩

theorem runs_push_room (hn : n < 3) (hit : (n = 0 ∧ ∃ e, it = .entry e) ∨ (n ≠ 0 ∧ ∃ b, it = .bytes b))
    (hroom : (evqAt s (3 * d + n)).items.length < evqDepth n) : Runs (.queuePush (numbered d n) it) s (fun t =>
      t = { s with evqs := t.evqs } ∧ only (3 * d + n) evqAt s t ∧
      (evqAt t (3 * d + n)).items = (evqAt s (3 * d + n)).items ++ [it] ∧ (evqAt t (3 * d + n)).lost = (evqAt s (3 * d + n)).lost ∧
      ((evqAt s (3 * d + n)).items.length < 512 →
        (evqAt t (3 * d + n)).high.toNat = max (evqAt s (3 * d + n)).high.toNat ((evqAt s (3 * d + n)).items.length + 1))) := by
  obtain ⟨hframe, honly, hx⟩ := evqPush_frame s d n it
  refine ⟨_, exec_push_numbered hn hit, hframe, honly, ?_⟩
  rw [hx, push_room hroom]
  refine ⟨rfl, rfl, fun hlen => ?_⟩
  generalize evqAt s (3 * d + n) = x at hlen
  dsimp only
  split
  · rw [BitVec.toNat_ofNat, Nat.mod_eq_of_lt (by omega)]
    omega
  · omega

theorem runs_push_full (hn : n < 3) (hit : (n = 0 ∧ ∃ e, it = .entry e) ∨ (n ≠ 0 ∧ ∃ b, it = .bytes b))
    (hfull : evqDepth n ≤ (evqAt s (3 * d + n)).items.length) : Runs (.queuePush (numbered d n) it) s (fun t =>
      t = { s with evqs := t.evqs } ∧ only (3 * d + n) evqAt s t ∧
      evqAt t (3 * d + n) = { evqAt s (3 * d + n) with
        ovf := true, lost := satInc (evqAt s (3 * d + n)).lost, lostNew := (evqAt s (3 * d + n)).lostNew + 1 }) := by
  obtain ⟨hframe, honly, hx⟩ := evqPush_frame s d n it
  exact ⟨_, exec_push_numbered hn hit, hframe, honly, hx.trans (push_full hfull)⟩

/-! ### Queues of cells, clauses and ports, which hold their producer when full (R298) -/

theorem exec_push_cellIn (w : BitVec 64) : exec (.queuePush (.cellIn ci) (.word w)) s =
    .next (if (cellAt s (cellIx ci)).inq.length < queueDepth s 0x01 ci.die then
      setCell s (cellIx ci) { cellAt s (cellIx ci) with
        inq := (cellAt s (cellIx ci)).inq ++ [{ q := (nextInWord s ci).1, ix := (nextInWord s ci).2, w := w }] } else s) := rfl

theorem exec_push_cellOut (w : BitVec 64) {g : Segment} (hcur : (cellAt s (cellIx ci)).cur = some g) :
    exec (.queuePush (.cellOut ci) (.word w)) s = .next (if (cellAt s (cellIx ci)).outq.length < queueDepth s 0x02 ci.die then
      setCell s (cellIx ci) { cellAt s (cellIx ci) with
        outq := (cellAt s (cellIx ci)).outq ++ [(g.q, g.pushed, w)], cur := some { g with pushed := g.pushed + 1 } } else s) := by
  simp only [exec_queuePush, doQueuePush, hcur]

theorem exec_push_cellOut_none (w : BitVec 64) (hcur : (cellAt s (cellIx ci)).cur = none) :
    exec (.queuePush (.cellOut ci) (.word w)) s = .next s := by
  simp only [exec_queuePush, doQueuePush, hcur]

theorem exec_push_cellPort (right : Bool) (v : BitVec 128) : exec (.queuePush (.cellPort ci right) (.vec v)) s =
    .next (if portTakes s ci.die (if right then (cellAt s (cellIx ci)).portR else (cellAt s (cellIx ci)).portL) then
      setCell s (cellIx ci) (if right then { cellAt s (cellIx ci) with portR := (cellAt s (cellIx ci)).portR ++ [v] }
        else { cellAt s (cellIx ci) with portL := (cellAt s (cellIx ci)).portL ++ [v] }) else s) := rfl

end Sys2Proof.Proofs
end

section
/-! PROOFS. Pops of the command, event, telemetry and trace queues (R298-R301). -/

open Sys2Proof Sys2Proof.Machine Sys2Proof.Claims

namespace Sys2Proof.Proofs

variable {s : State} {d n : Nat} {it : QItem} {rest : List QItem} {b : List Byte} {x : EvQueue} {e : CmdEntry} {src : Src}
  {flips : List (BitVec 72)}

theorem exec_queuePop (q : QRef) (flips : List (BitVec 72)) : exec (.queuePop q none flips) s = .next (popItem s q flips) := rfl

/-! ### Words checked (R300) -/

theorem checkWords_steady (s : State) (d : Nat) : checkWords s d [] = (false, s) := rfl

/-- A word with two bits flipped counts as uncorrectable. -/
theorem checkWords_bad (s : State) (d : Nat) : checkWords s d [3] = (true, countMem s d 6 true) := by
  have hclass : qClassOf 3 = .uncorrectable := by decide
  rw [checkWords, List.foldl_cons, List.foldl_nil, hclass]

/-! ### Commands (R299) -/

/-- The entry taken is one of the queue's, and no entry of a ring's class goes before it. -/
theorem topEntry?_some {q : List CmdEntry} (h : topEntry? q = some e) :
    e ∈ q ∧ ∀ f, f ∈ q → Src.cls f.src < 4 → Src.cls e.src ≤ Src.cls f.src := by
  obtain ⟨lower, c, higher, hrange, hfind, hnone⟩ := List.findSome?_eq_some_iff.mp h
  have hcls : Src.cls e.src = c := by simpa using List.find?_some hfind
  refine ⟨List.mem_of_find?_eq_some hfind, fun f hf hlt => Nat.not_lt.mp fun hless => ?_⟩
  have hlower : Src.cls f.src ∈ lower := by
    have hsorted : (lower ++ c :: higher).Pairwise (· < ·) := hrange ▸ List.pairwise_lt_range
    have hmem : Src.cls f.src ∈ lower ++ c :: higher := hrange ▸ List.mem_range.mpr hlt
    rw [hcls] at hless
    obtain hl | hc := List.mem_append.mp hmem
    · exact hl
    · obtain rfl | hh := List.mem_cons.mp hc
      · exact absurd hless (lt_irrefl _)
      · have hgt := List.rel_of_pairwise_cons (List.pairwise_append.mp hsorted).2.1 hh
        omega
  have hno := List.find?_eq_none.mp (hnone _ hlower) f hf
  simp at hno

theorem popItem_command (hfw : fwRuns s = true) (htop : topEntry? s.cmdq = some e) : popItem s (.command src) flips =
    { (checkWords s 0 flips).2 with
      cmdq := (checkWords s 0 flips).2.cmdq.eraseP (fun x => x == e),
      popped := (checkWords s 0 flips).2.popped ++ [if (checkWords s 0 flips).1 then { e with bytes := [] } else e] } := by
  unfold popItem
  simp only [hfw, Bool.not_true, Bool.false_eq_true, if_false, htop]

theorem runs_pop_command (hfw : fwRuns s = true) (htop : topEntry? s.cmdq = some e) : Runs (.queuePop (.command src) none []) s (fun t =>
    t = { s with cmdq := s.cmdq.eraseP (fun x => x == e), popped := s.popped ++ [e] }) :=
  ⟨_, exec_queuePop _ _, popItem_command hfw htop⟩

theorem runs_pop_command_bad (hfw : fwRuns s = true) (htop : topEntry? s.cmdq = some e) :
    Runs (.queuePop (.command src) none [3]) s (fun t =>
      t = { s with cmdq := s.cmdq.eraseP (fun x => x == e), popped := s.popped ++ [{ e with bytes := [] }], memCorr := t.memCorr } ∧
      memCorrAt t 6 = { memCorrAt s 6 with uncorr := satInc (memCorrAt s 6).uncorr }) := by
  refine ⟨_, exec_queuePop _ _, ?_⟩
  rw [popItem_command hfw htop, checkWords_bad]
  exact ⟨rfl, memCorrAt_countMem_uncorr s 0 6⟩

theorem exec_pop_command_idle (h : fwRuns s = false ∨ topEntry? s.cmdq = none) : exec (.queuePop (.command src) none flips) s = .next s := by
  refine congrArg Host.Outcome.next ?_
  show popItem s (.command src) flips = s
  unfold popItem
  obtain h | h := h <;> simp [h]

/-! ### Trace entries (R301) -/

/-- Nothing is reported as lost where nothing was, or while the event queue is full. -/
theorem logLost_silent (h : (evqAt s (3 * d + n)).lostNew = 0 ∨ evqDepth 0 ≤ (evqAt s (3 * d)).items.length) : logLost s d n = s := if_pos h

theorem popItem_trace (hitems : (evqAt (checkWords s d flips).2 (3 * d + 2)).items = it :: rest) : popItem s (.trace d) flips =
    let y := { evqAt (checkWords s d flips).2 (3 * d + 2) with items := rest }
    logLost (setEvq (checkWords s d flips).2 (3 * d + 2)
      (if (checkWords s d flips).1 then { y with lost := satInc y.lost, lostNew := y.lostNew + 1 } else y)) d 2 := by
  rw [popItem, popItem.popQueue, hitems]

/-- An intact entry is popped while no loss waits to be reported. -/
theorem popItem_trace_steady (hitems : (evqAt s (3 * d + 2)).items = it :: rest) (hlost : (evqAt s (3 * d + 2)).lostNew = 0) :
    popItem s (.trace d) [] = setEvq s (3 * d + 2) { evqAt s (3 * d + 2) with items := rest } := by
  rw [popItem_trace (s := s) (flips := []) hitems]
  exact logLost_silent (.inl (by rw [evqAt_setEvq]; exact hlost))

theorem runs_pop_trace (hitems : (evqAt s (3 * d + 2)).items = it :: rest) (hlost : (evqAt s (3 * d + 2)).lostNew = 0) :
    Runs (.queuePop (.trace d) none []) s (fun t => t = { s with evqs := t.evqs } ∧ only (3 * d + 2) evqAt s t ∧
      evqAt t (3 * d + 2) = { evqAt s (3 * d + 2) with items := rest }) := by
  refine ⟨_, exec_queuePop _ _, ?_⟩
  rw [popItem_trace_steady hitems hlost]
  exact ⟨rfl, fun j hj => evqAt_setEvq_other hj, evqAt_setEvq ..⟩

/-- A push in the cycle of a pop: it takes its place before the oldest entry leaves. -/
theorem popPush_trace (hitems : (evqAt s (3 * d + 2)).items = it :: rest) : popPush s (.trace d) (.bytes b) [] =
    popItem (setEvq s (3 * d + 2) { evqAt s (3 * d + 2) with
      items := (evqAt s (3 * d + 2)).items ++ [.bytes b],
      high := if (evqAt s (3 * d + 2)).high.toNat < (evqAt s (3 * d + 2)).items.length
        then BitVec.ofNat 10 (evqAt s (3 * d + 2)).items.length else (evqAt s (3 * d + 2)).high }) (.trace d) [] := by
  rw [popPush, popPush.evSame, if_neg (by simp [hitems])]

theorem runs_popPush_trace (hitems : (evqAt s (3 * d + 2)).items = it :: rest) (hlost : (evqAt s (3 * d + 2)).lostNew = 0) :
    Runs (.queuePop (.trace d) (some (.bytes b)) []) s (fun t =>
      t = { s with evqs := t.evqs } ∧ only (3 * d + 2) evqAt s t ∧ (evqAt t (3 * d + 2)).items = rest ++ [.bytes b] ∧
      (evqAt t (3 * d + 2)).lost = (evqAt s (3 * d + 2)).lost ∧ (evqAt t (3 * d + 2)).ovf = (evqAt s (3 * d + 2)).ovf) := by
  refine ⟨_, congrArg Host.Outcome.next (popPush_trace hitems), ?_⟩
  rw [popItem_trace_steady (it := it) (rest := rest ++ [.bytes b]) (by rw [evqAt_setEvq, hitems]; rfl) (by rw [evqAt_setEvq]; exact hlost)]
  refine ⟨rfl, fun j hj => (evqAt_setEvq_other hj).trans (evqAt_setEvq_other hj), ?_⟩
  rw [evqAt_setEvq, evqAt_setEvq]
  exact ⟨rfl, rfl, rfl⟩

/-- A damaged entry counts as lost; the loss waits while the event queue is full. -/
theorem runs_pop_trace_bad (hitems : (evqAt s (3 * d + 2)).items = it :: rest) (hfull : 512 ≤ (evqAt s (3 * d)).items.length) :
    Runs (.queuePop (.trace d) none [3]) s (fun t =>
      (evqAt t (3 * d + 2)).items = rest ∧ (evqAt t (3 * d + 2)).lost = satInc (evqAt s (3 * d + 2)).lost ∧
      memCorrAt t (7 * d + 6) = { memCorrAt s (7 * d + 6) with uncorr := satInc (memCorrAt s (7 * d + 6)).uncorr }) := by
  refine ⟨_, exec_queuePop _ _, ?_⟩
  rw [popItem_trace (flips := [3]) (it := it) (rest := rest) (by rw [checkWords_bad]; exact hitems), checkWords_bad]
  dsimp only
  rw [logLost_silent (.inr (by rw [evqAt_setEvq_other (by omega)]; exact hfull)), evqAt_setEvq]
  exact ⟨rfl, rfl, memCorrAt_countMem_uncorr s d 6⟩

end Sys2Proof.Proofs
end

section
/-! PROOFS. Pops of the queues of cells, clauses and ports (R298, R300, R335): where the item lands. -/

open Sys2Proof Sys2Proof.Machine Sys2Proof.Claims

namespace Sys2Proof.Proofs

variable {s : State} {ci : CellId} {i a d p : Nat} {bs : List Byte} {flips : List (BitVec 72)}

/-! ### Bytes into a cell's data SRAM (R286) -/

theorem rd_foldl_wr {g : Mem → Nat → Mem} {k : Nat} (hg : ∀ m j, j < bs.length → g m j = wr m (k + j) (byteAt bs j)) {n : Nat}
    (hn : n ≤ bs.length) (m : Mem) (x : Nat) :
    rd ((List.range n).foldl g m) x = if k ≤ x ∧ x < k + n then byteAt bs (x - k) else rd m x := by
  induction n with
  | zero => exact (if_neg (by omega)).symm
  | succ n ih =>
    rw [List.range_succ, List.foldl_append, List.foldl_cons, List.foldl_nil, hg _ n (by omega), rd_wr, ih (by omega)]
    by_cases hx : x = k + n
    · rw [if_pos hx, if_pos (by omega), hx, Nat.add_sub_cancel_left]
    · rw [if_neg hx]
      exact if_congr (by omega) rfl rfl

/-- Bytes written whole where no bit is flipped: the array, and the poison of the blocks they cover. -/
theorem mergeInto_steady {k : ArrKind} {owner : Nat} {os : List (Option Byte)} {put : State → State} (hsteady : s.flips = [])
    (hput : (put s).flips = []) : mergeInto s k owner a os put =
      { put s with poison := (put s).poison.filter (fun b => !((b.kind == k && b.owner == owner) && coversBlock a os b.blk)) } := by
  simp only [mergeInto, hsteady, List.filter_nil, List.foldl_nil, hput]

/-- The data SRAMs with bytes of one of them written. -/
def dmemPut (m : Mem) (i a : Nat) (bs : List Byte) : Mem :=
  (List.range bs.length).foldl (fun m j => wr m (16384 * i + a + j) (byteAt bs j)) m

theorem rd_dmemPut (m : Mem) (i a : Nat) (bs : List Byte) (x : Nat) : rd (dmemPut m i a bs) x =
    if 16384 * i + a ≤ x ∧ x < 16384 * i + a + bs.length then byteAt bs (x - (16384 * i + a)) else rd m x :=
  rd_foldl_wr (fun _ _ _ => rfl) (le_refl _) m x

theorem dmWriteAll_steady (hsteady : s.flips = []) : dmWriteAll s i a bs =
    { s with dmem := dmemPut s.dmem i a bs,
             poison := s.poison.filter (fun b => !((b.kind == .cellData && b.owner == i) && coversBlock a (bs.map some) b.blk)) } := by
  rw [dmWriteAll, dmWrite, mergeInto_steady hsteady hsteady]
  refine congrArg (fun m : Mem => { s with
    dmem := m, poison := s.poison.filter (fun b => !((b.kind == ArrKind.cellData && b.owner == i) && coversBlock a (bs.map some) b.blk)) }) ?_
  rw [dmemPut, List.length_map]
  refine List.foldl_ext _ _ _ fun m j hj => ?_
  have hlt := List.mem_range.mp hj
  simp [byteAt, hlt]

theorem coversBlock_aligned (ha : a % 8 = 0) (hlen : bs.length = 8) : coversBlock a (bs.map some) (a / 8) = true := by
  refine List.all_eq_true.mpr fun j hj => ?_
  have hlt := List.mem_range.mp hj
  have hsub : 8 * (a / 8) + j - a = j := by omega
  have hle : a ≤ 8 * (a / 8) + j := by omega
  simp [hsub, hle, hlen, hlt]

/-! ### Words of a cell's input stream (R133, R135) -/

section CellIn

variable {w : InWord} {ws : List InWord} {f : FrameDecl}

/-- A cell whose input stream has given up a word. -/
def wordTaken (c : Cell) (w : InWord) (ws : List InWord) : Cell :=
  { c with inq := ws, recWords := sput 0 c.recWords w.q (sget 0 c.recWords w.q ||| (1#64 <<< w.ix)) }

/-- A word that its frame lacks is moved there. -/
theorem drainIn_one (hinq : (cellAt s i).inq = w :: ws) (hframe : (cellAt s i).frame = some f)
    (hnew : (sget 0 (cellAt s i).recWords w.q).getLsbD w.ix = false) (hfree : frameFree (clauseAt s (i / 16)) f.k w.q = true)
    (hgood : w.poisoned = false) : drainIn s i 1 =
      dmWriteAll (setCell s i (wordTaken (cellAt s i) w ws)) i (f.base (rlen (clauseRow s (i / 16))) w.q + 8 * w.ix) (natLE 8 w.w.toNat) := by
  simp only [drainIn, wordTaken, hinq, hframe, hnew, hfree, hgood, Bool.false_eq_true, if_false, if_true]

theorem popItem_cellIn (hinq : (cellAt s (cellIx ci)).inq = w :: ws) : popItem s (.cellIn ci) [] = drainIn s (cellIx ci) 1 := by
  simp only [popItem, hinq, checkWords_steady, Bool.false_eq_true, if_false]

theorem runs_pop_cellIn (hinq : (cellAt s (cellIx ci)).inq = w :: ws) (hframe : (cellAt s (cellIx ci)).frame = some f)
    (hnew : (sget 0 (cellAt s (cellIx ci)).recWords w.q).getLsbD w.ix = false)
    (hfree : frameFree (clauseAt s (cellIx ci / 16)) f.k w.q = true)
    (halign : (f.base (rlen (clauseRow s (cellIx ci / 16))) w.q + 8 * w.ix) % 8 = 0) (hgood : w.poisoned = false) (hsteady : s.flips = []) :
    let i := cellIx ci
    let n := rlen (clauseRow s (i / 16))
    Runs (.queuePop (.cellIn ci) none []) s (fun t => (cellAt t i).inq = ws ∧
      (∀ j, j < 8 → rd t.dmem (16384 * i + f.base n w.q + 8 * w.ix + j) = byteAt (natLE 8 w.w.toNat) j) ∧
      (∀ a, a < 16384 * i + f.base n w.q + 8 * w.ix ∨ 16384 * i + f.base n w.q + 8 * w.ix + 8 ≤ a → rd t.dmem a = rd s.dmem a) ∧
      poisoned t .cellData i ((f.base n w.q + 8 * w.ix) / 8) = false) := by
  have hlen := length_natLE 8 w.w.toNat
  refine ⟨_, exec_queuePop _ _, ?_⟩
  rw [popItem_cellIn hinq, drainIn_one hinq hframe hnew hfree hgood, dmWriteAll_steady (s := setCell ..) hsteady]
  refine ⟨congrArg Cell.inq (cellAt_setCell ..), fun j hj => ?_, fun a ha => ?_, ?_⟩
  · rw [rd_dmemPut, hlen, if_pos (by omega)]
    congr 1
    omega
  · rw [rd_dmemPut, hlen, if_neg (by omega)]
    rfl
  · simp [poisoned, coversBlock_aligned halign hlen]

end CellIn

/-! ### Words of a cell's output stream (R130, R140) -/

section CellOut

variable {w : Nat × Nat × BitVec 64} {ws : List (Nat × Nat × BitVec 64)} {l : CLine}

theorem contains_markIn (ps : List Nat) (j : Nat) (bad : Bool) : (markIn ps j bad).contains j = bad := by
  cases bad with
  | false => simp [markIn]
  | true =>
    by_cases hj : j ∈ ps
    · simp [markIn, hj]
    · simp [markIn, hj]

theorem popItem_cellOut (houtq : (cellAt s (cellIx ci)).outq = w :: ws) : popItem s (.cellOut ci) flips =
    landWord (modCell (checkWords s ci.die flips).2 (cellIx ci) (fun c => { c with outq := c.outq.drop 1 })) (cellIx ci / 16) (cellIx ci % 16)
      w.1 w.2.1 w.2.2 (checkWords s ci.die flips).1 := by
  simp only [popItem, houtq]

/-- A line of a clause with one word of a cell put into it. -/
def wordLanded (key : Nat) (v : BitVec 64) (bad : Bool) (l : CLine) : CLine :=
  { l with codes := sput 0 l.codes key v, poison := markIn l.poison key bad, flips := sput 0 l.flips key 0 }

/-- A word that does not complete its cell's segment lands in its line. -/
theorem landWord_filling {x n q ix : Nat} {v : BitVec 64} {bad : Bool} (hline : (clauseAt s x).lineQ? q = some l) (hst : l.st = .filling)
    (hix : ix < 7) : landWord s x n q ix v bad = modCLine s x l.line (wordLanded (8 * n + ix) v bad) := by
  simp only [landWord, hline, hst, ne_eq, not_true_eq_false, if_false, if_neg (ne_of_lt hix)]
  rfl

theorem wordLanded_mem {x key q : Nat} {v : BitVec 64} {bad : Bool} (hline : (clauseAt s x).lineQ? q = some l) :
    (clauseAt (modCLine s x l.line (wordLanded key v bad)) x).lines.any
      (fun m => m.line == l.line && sget 0 m.codes key == v && m.poison.contains key == bad) = true := by
  rw [modCLine, modClause_eq, clauseAt_setClause]
  refine List.any_eq_true.mpr ⟨wordLanded key v bad l, List.mem_map.mpr ⟨l, List.mem_of_find?_eq_some hline, if_pos rfl⟩, ?_⟩
  simp only [wordLanded, sget_sput_same, contains_markIn, beq_self_eq_true, Bool.and_self]

theorem runs_pop_cellOut (houtq : (cellAt s (cellIx ci)).outq = w :: ws) (hline : (clauseAt s (cellIx ci / 16)).lineQ? w.1 = some l)
    (hst : l.st = .filling) (hix : w.2.1 < 7) (hflips : flips = [] ∨ flips = [3#72]) : Runs (.queuePop (.cellOut ci) none flips) s (fun t =>
      (cellAt t (cellIx ci)).outq = ws ∧
      (clauseAt t (cellIx ci / 16)).lines.any (fun m => m.line == l.line && sget 0 m.codes (8 * (cellIx ci % 16) + w.2.1) == w.2.2 &&
        m.poison.contains (8 * (cellIx ci % 16) + w.2.1) == !flips.isEmpty) = true) := by
  obtain ⟨u, hcheck, hclauses, hcells⟩ : ∃ u, checkWords s ci.die flips = (!flips.isEmpty, u) ∧ u.clauses = s.clauses ∧ u.cells = s.cells := by
    obtain rfl | rfl := hflips
    · exact ⟨s, rfl, rfl, rfl⟩
    · exact ⟨_, checkWords_bad s ci.die, rfl, rfl⟩
  have hline' : (clauseAt (modCell u (cellIx ci) (fun c => { c with outq := c.outq.drop 1 })) (cellIx ci / 16)).lineQ? w.1 = some l := by
    show (sget {} u.clauses (cellIx ci / 16)).lineQ? w.1 = some l
    rw [hclauses]
    exact hline
  have houtq' : (cellAt u (cellIx ci)).outq = w :: ws := by rwa [cellAt, hcells]
  refine ⟨_, exec_queuePop _ _, ?_⟩
  rw [popItem_cellOut houtq, hcheck]
  dsimp only
  rw [landWord_filling hline' hst hix]
  refine ⟨?_, wordLanded_mem hline'⟩
  exact (congrArg Cell.outq (cellAt_setCell ..)).trans (congrArg (List.drop 1) houtq')

end CellOut

/-! ### Vectors, and bursts for the FORWARD channel (R145, R335) -/

theorem popItem_cellPort_empty {right : Bool}
    (h : (if right then (cellAt s (cellIx ci)).portR else (cellAt s (cellIx ci)).portL) = []) : popItem s (.cellPort ci right) flips = s := if_pos h

/-- An intact vector waits on for the RECV that takes it. -/
theorem popItem_cellPort_steady (right : Bool) : popItem s (.cellPort ci right) [] = s := by
  simp only [popItem, checkWords_steady, Bool.not_false, if_true, ite_self]

theorem popItem_halo_steady (k : Nat) (right : Bool) : popItem s (.halo d k right) [] = s := by
  simp only [popItem, checkWords_steady, Bool.not_false, if_true, ite_self]

theorem popItem_ingress_waits (h : (portAt s (4 * d + p)).ingress = [] ∨ hasForward s d = false) : popItem s (.ingress d p) flips = s := by
  simp only [popItem]
  exact if_pos (h.imp_right fun hf => by simp [hf])

/-- The FORWARD channel writes the oldest burst to its die address. -/
theorem popItem_ingress (hfwd : hasForward s d = true) {b : BlockBurst} {rest : List BlockBurst} (hq : (portAt s (4 * d + p)).ingress = b :: rest)
    (hfree : dramWaits s d b.addr.toNat b.data.length = false) (hfit : b.addr.toNat + b.data.length ≤ dramEnd s d) :
    popItem s (.ingress d p) [] = dramWr (setPort s (4 * d + p) { portAt s (4 * d + p) with ingress := rest }) d b.addr.toNat b.data := by
  simp only [popItem, checkWords_steady, forwardBurst, hq, hfwd, hfree, reduceCtorEq, Bool.not_true, Bool.false_eq_true, or_self, if_false]
  exact if_neg (Nat.not_lt.mpr hfit)

theorem runs_pop_ingress (hfwd : hasForward s d = true) {b : BlockBurst} {rest : List BlockBurst}
    (hq : (portAt s (4 * d + p)).ingress = b :: rest) (hfree : dramWaits s d b.addr.toNat b.data.length = false)
    (hfit : b.addr.toNat + b.data.length ≤ dramEnd s d) : Runs (.queuePop (.ingress d p) none []) s (fun t =>
      t = { s with ports := t.ports, dram := t.dram, dramPoison := t.dramPoison, dramFlips := t.dramFlips, ddr := t.ddr } ∧
      only (4 * d + p) portAt s t ∧ portAt t (4 * d + p) = { portAt s (4 * d + p) with ingress := rest } ∧
      t.dram = (dramWr s d b.addr.toNat b.data).dram) := by
  have hcommute := dramWr_withPorts (sput {} s.ports (4 * d + p) { portAt s (4 * d + p) with ingress := rest }) s d b.addr.toNat b.data
  refine ⟨_, exec_queuePop _ _, ?_⟩
  rw [popItem_ingress hfwd hq hfree hfit, show setPort s (4 * d + p) { portAt s (4 * d + p) with ingress := rest } =
    withPorts (sput {} s.ports (4 * d + p) { portAt s (4 * d + p) with ingress := rest }) s from rfl, hcommute]
  have hframe := (dramWr_dramChange (s := s) (d := d) (a := b.addr.toNat) (bs := b.data)).eq_with
  generalize dramWr s d b.addr.toNat b.data = u at hframe ⊢
  refine ⟨?_, fun j hj => sget_sput_other _ _ _ _ _ hj, sget_sput_same .., rfl⟩
  rw [hframe]
  rfl

/-! ### The two statements of the queues and the fabric -/

theorem queueItems : QueueItems := by
  refine ⟨fun _ _ _ hc hroom hlen => exec_push_command hc hroom hlen, fun _ _ _ _ hfull => exec_push_command_full hfull, ?_, ?_, ?_,
    fun _ _ w => exec_push_cellIn w, fun _ _ w => ⟨fun _ hcur => exec_push_cellOut w hcur, exec_push_cellOut_none w⟩,
    fun _ _ v => ⟨fun ht => (exec_push_cellPort true v).trans (congrArg Host.Outcome.next (if_pos ht)),
      fun ht => (exec_push_cellPort false v).trans (congrArg Host.Outcome.next (if_pos ht))⟩,
    fun _ _ right v ht => (exec_push_cellPort right v).trans (congrArg Host.Outcome.next (if_neg (by rw [ht]; exact Bool.false_ne_true))),
    fun _ _ _ _ _ => rfl, fun _ _ _ _ => rfl,
    fun _ _ _ hfw htop => runs_pop_command hfw htop, fun _ _ _ hfw htop => runs_pop_command_bad hfw htop, fun _ _ h => topEntry?_some h,
    fun _ _ _ h => exec_pop_command_idle h,
    fun _ _ _ _ hitems hlost => runs_pop_trace hitems hlost, fun _ _ _ _ _ hitems hlost _ => runs_popPush_trace hitems hlost,
    fun _ _ _ _ hitems hfull => runs_pop_trace_bad hitems hfull,
    fun _ _ _ _ _ hinq hframe hnew hfree halign hgood hsteady => runs_pop_cellIn hinq hframe hnew hfree halign hgood hsteady,
    fun _ _ _ _ _ _ houtq hline hst hix hflips => runs_pop_cellOut houtq hline hst hix hflips,
    fun _ _ right => congrArg Host.Outcome.next (popItem_cellPort_steady right),
    fun _ _ k right => congrArg Host.Outcome.next (popItem_halo_steady k right),
    fun _ _ _ _ h => congrArg Host.Outcome.next (popItem_cellPort_empty h),
    fun _ _ _ _ h => congrArg Host.Outcome.next (popItem_ingress_waits h),
    fun _ _ _ _ _ hq hfwd hfree hfit => runs_pop_ingress hfwd hq hfree hfit⟩
  · intro s d n b hn x q hroom
    obtain rfl | rfl := hn
    · exact runs_push_room (by omega) (.inr ⟨by omega, b, rfl⟩) hroom
    · exact runs_push_room (by omega) (.inr ⟨by omega, b, rfl⟩) hroom
  · intro s d e x hroom
    obtain ⟨t, hexec, hframe, honly, hitems, hlost, -⟩ := runs_push_room (n := 0) (by omega) (.inl ⟨rfl, e, rfl⟩) hroom
    exact ⟨t, hexec, hframe, honly, hitems, hlost⟩
  · intro s d n it hn x q hfull hit
    exact runs_push_full hn hit hfull

/-- Settles O41: the queues' items and the fabric's packets, each clause by the lemma about its instruction. -/
theorem queuesAndFabricDeliver : Obligations.QueuesAndFabricDeliver := ⟨queueItems, fabricPackets⟩

end Sys2Proof.Proofs
end

section
/-! PROOFS. Bursts of the DRAM controller (R310-R313): a deadline request that writes. -/

open Sys2Proof Sys2Proof.Machine Sys2Proof.Claims

namespace Sys2Proof.Proofs

theorem exec_dramBurstIssue (d ch : Nat) (ready : List Nat) (s : State) :
    exec (.dramBurstIssue d ch ready) s = .next (doDramBurstIssue s d ch ready) := rfl

/-- Request 1, a write of one byte at die address 0 on behalf of the band fetch of clause 0. -/
def bandWrite : DWait := ⟨{ id := 1, reader := .band 0, addr := 0, len := 1, write := true, data := [5] }, 0, 0⟩

/-- Channel 0 of die 0 is ACTIVE and `bandWrite` is its only request. Band fetches only read (R310), so no unit of the part asks for it, but
a DRAM_REQUEST that carries it is queued as any other. -/
def bandWriteQueued : State := { State.reset with ddr := [(0, { st := .active, queue := [bandWrite] })] }

/-- Writes issue in the slots of the management and bulk classes, and of the deadline class reads alone are picked, so it is never picked. -/
theorem pickSlot_bandWriteQueued : pickSlot bandWriteQueued 0 (ddrAt bandWriteQueued 0) [1] = none := by decide

theorem doDramBurstIssue_bandWriteQueued : doDramBurstIssue bandWriteQueued 0 0 [1] = bandWriteQueued := by
  have hst : (ddrAt bandWriteQueued (ddrIx 0 0)).st = .active := rfl
  have hpick : pickSlot bandWriteQueued 0 (ddrAt bandWriteQueued (ddrIx 0 0)) [1] = none := pickSlot_bandWriteQueued
  simp only [doDramBurstIssue, hst, hpick, ne_eq, not_true_eq_false, if_false]

/-- Refutes O37, by its clause on a lone write that the devices' timing allows (R310, R313): the clause has the write leave the queue and reach
the device, whoever asks for it, and in `bandWriteQueued` one of the deadline class stays in the queue for good. -/
theorem not_dramRequestsAndBursts : ¬ Obligations.DramRequestsAndBursts := by
  rintro ⟨-, -, -, -, -, -, -, hwrite, -⟩
  obtain ⟨-, -, hqueue, -⟩ := holds_of_runs (exec_dramBurstIssue 0 0 [1] bandWriteQueued)
    (hwrite bandWriteQueued 0 0 bandWrite [1] rfl rfl rfl rfl rfl (by decide) (by decide) rfl (by decide) rfl)
  rw [doDramBurstIssue_bandWriteQueued] at hqueue
  exact absurd hqueue (by decide)

end Sys2Proof.Proofs
end

section
/-! PROOFS. A DRAM channel retired while the die's compressor works on a block of the page cache (R121, R122, R321, R322). -/

open Sys2Proof Sys2Proof.Machine Sys2Proof.Claims

namespace Sys2Proof.Proofs

variable {s : State} {d : Nat}

theorem exec_fullTrainingDone (d ch : Nat) (ok : Bool) (settings : List Byte) (s : State) :
    exec (.fullTrainingDone d ch ok settings) s = .next (doFullTrainingDone s d ch ok settings) := rfl

/-! ### The page cache refused under a job -/

theorem cmpSpoils_dramChange (s : State) (d : Nat) : DramChange (drawBytes s (compAt s d).jobLimit.toNat).2 (cmpSpoils s d) := dramWr_dramChange

/-- With one block in the page cache, its job under way and no load waiting, a refusal of the cache stops the job, and its output space is
spoilt. -/
theorem refuseCached_job {b : Block} {reason : Nat} (hblocks : s.blocks.filter (fun o => o.die == d && o.cached) = [b]) (hparked : s.parked = [])
    (hrun : (compAt s d).state = 1) (hblock : (compAt s d).block = some b.addr) :
    refuseCached s d reason = { cmpStops s d 3 with
      blocks := (cmpStops s d 3).blocks.filter (fun o => !(o.die == d && o.cached && o.addr == b.addr)) } := by
  have hdrop : dropCached s d b.addr = { cmpStops s d 3 with
      blocks := (cmpStops s d 3).blocks.filter (fun o => !(o.die == d && o.cached && o.addr == b.addr)) } := by
    simp only [dropCached, hrun, hblock, and_self, if_true]
  have hwaits : (cmpStops s d 3).parked = [] := (congrArg State.parked (cmpSpoils_dramChange s d).rest :).trans hparked
  simp only [refuseCached, hblocks, List.foldl_cons, List.foldl_nil, cacheLeft, hdrop, hwaits, List.find?_nil]

/-- What of the state the stop leaves: the DRAM as it spoils the output space, the channels in service, and the power state. -/
theorem refuseCached_job_leaves {b : Block} {reason : Nat} (hblocks : s.blocks.filter (fun o => o.die == d && o.cached) = [b])
    (hparked : s.parked = []) (hrun : (compAt s d).state = 1) (hblock : (compAt s d).block = some b.addr) :
    (refuseCached s d reason).dram = (cmpSpoils s d).dram ∧ SameRetired s (refuseCached s d reason) ∧
      (refuseCached s d reason).power = s.power := by
  rw [refuseCached_job hblocks hparked hrun hblock]
  exact ⟨rfl, (cmpSpoils_dramChange s d).retired, (congrArg State.power (cmpSpoils_dramChange s d).rest :)⟩

/-- The first byte of the output space once the job has stopped. -/
theorem dramByte_cmpSpoils (hlimit : (compAt s d).jobLimit = 1) :
    dramByte (cmpSpoils s d) d (compAt s d).jobDst.toNat = (Config.freeWord s.free).extractLsb' 0 8 := by
  have hspoils : cmpSpoils s d = dramWr (drawBytes s 1).2 d (compAt s d).jobDst.toNat [(Config.freeWord s.free).extractLsb' 0 8] := by
    simp [cmpSpoils, hlimit, drawBytes]
  have hread := dramRd_dramWr (s := (drawBytes s 1).2) (d := d) (a := (compAt s d).jobDst.toNat)
    (bs := [(Config.freeWord s.free).extractLsb' 0 8]) (by norm_num)
  rw [hspoils]
  simpa [dramRd] using hread

/-! ### The channel retired -/

/-- The first part of a channel's retirement: what it held is gone, its fence is written, and the blocks placed on its die are BAD (R322). -/
def channelGone (s : State) (d ch reason : Nat) : State :=
  let i := ddrIx d ch
  let s := modDdr s i (fun c => { c with st := .retired, queue := [], issued := [], wantRetrain := false, trnRun := none, chk := [],
                                          faultAt := none })
  let s := endRetrains s d ch stTestFail s.parked.length
  let s := changeFence s (.dram d ch) .fenced reason
  let s := (s.blocks.filter (fun b => b.die == d && !b.cached)).foldl markBad s
  { s with blocks := s.blocks.map (fun b => if b.die == d && !b.cached then { b with addr := 0 } else b),
           dramPoison := s.dramPoison.filter (fun k => k / 2 ^ 27 != i),
           dramFlips := s.dramFlips.filter (fun p => p.1 / 2 ^ 27 != i) }

/-- The whole of it: the page cache is refused and the loss logged; with both channels gone the die is at fault. -/
theorem retireDram_eq {ch reason : Nat} (hst : (ddrAt s (ddrIx d ch)).st ≠ .retired) :
    let t := logEv (refuseCached (channelGone s d ch reason) d 0x0C) d 0x0025 (unitData 4 reason ch 1 0 [])
    retireDram s d ch reason = if ddrRetired t d 0 && ddrRetired t d 1 then dieFault t d 8 else t := by
  unfold retireDram
  exact if_neg hst

/-- With one block in the page cache, its job under way and no load waiting, the retirement of one channel spoils the job's output space. -/
theorem retireDram_job {b : Block} {ch reason : Nat} (hst : (ddrAt s (ddrIx d ch)).st ≠ .retired) {v : State} (hv : channelGone s d ch reason = v)
    (hblocks : v.blocks.filter (fun o => o.die == d && o.cached) = [b]) (hparked : v.parked = []) (hrun : (compAt v d).state = 1)
    (hblock : (compAt v d).block = some b.addr) (hone : (ddrRetired v d 0 && ddrRetired v d 1) = false) :
    (retireDram s d ch reason).dram = (cmpSpoils v d).dram ∧ (retireDram s d ch reason).power = v.power := by
  obtain ⟨hdram, hretired, hpower⟩ := refuseCached_job_leaves (reason := 0x0C) hblocks hparked hrun hblock
  rw [retireDram_eq hst, hv]
  generalize refuseCached v d 0x0C = u at hdram hretired hpower
  have hlogged : SameRetired v (logEv u d 0x0025 (unitData 4 reason ch 1 0 [])) := hretired
  rw [ddrRetired_congr hlogged, ddrRetired_congr hlogged, hone, if_neg Bool.false_ne_true]
  exact ⟨hdram, hpower⟩

/-- A second failed training away from start-up retires the channel (R317, R321). -/
theorem doFullTrainingDone_again {ch : Nat} {settings : List Byte} (hst : (ddrAt s (ddrIx d ch)).st = .train)
    (htries : (ddrAt s (ddrIx d ch)).trainTries ≠ 0) (hpower : (retireDram s d ch 3).power.st ≠ .starting) :
    doFullTrainingDone s d ch false settings = retireDram s d ch 3 := by
  simp only [doFullTrainingDone, hst, htries, hpower, ne_eq, not_true_eq_false, if_false, Bool.false_eq_true, false_and]

/-! ### A job on the page cache of a die whose channel fails -/

/-- A raw block in the page cache of die 0. -/
def cachedRaw : Block :=
  { die := 0, id := ⟨5, 0, 0, 0, 0⟩, kind := 0, raw := true, sig := false, payloadLen := 0, rawCrc := 0, storedCrc := 0, maskCrc := 0,
    blockLen := 64, addr := mgtRegion, cached := true }

/-- The byte that a stopped job leaves first in its output space (R121, assumption 4). -/
def spoiltByte : Byte := (Config.freeWord 0).extractLsb' 0 8

/-- Where the job on `cachedRaw` puts its stream. -/
def jobOutput : Nat := storeBase + 64

/-- Channel 0 of die 0 trains fully for the second time and channel 1 works; the compressor works on `cachedRaw`, and the byte at its output is
not the one that a stop leaves. -/
def trainsWhileCompressing : State := { State.reset with
  power := { st := .ready }
  ddr := [(0, { st := .train, trainTries := 1 }), (1, { st := .active })]
  comps := [(0, { state := 1, block := some mgtRegion, jobDst := BitVec.ofNat 34 jobOutput, jobLimit := 1 })]
  blocks := [cachedRaw]
  dram := wr [] (dramKey 0 1 jobOutput) (~~~spoiltByte) }

/-- `trainsWhileCompressing` once channel 0 is retired and its page cache not yet refused. -/
def cacheStands : State := channelGone trainsWhileCompressing 0 0 3

/-- The training that fails leaves the DRAM as the stopped job does. -/
theorem dram_doFullTrainingDone :
    (doFullTrainingDone trainsWhileCompressing 0 0 false []).dram = (cmpSpoils cacheStands 0).dram := by
  obtain ⟨hdram, hpower⟩ := retireDram_job (s := trainsWhileCompressing) (b := cachedRaw) (by decide) (show _ = cacheStands from rfl)
    rfl rfl rfl rfl rfl
  rw [doFullTrainingDone_again rfl (by decide) (by rw [hpower]; decide), hdram]

/-- With channel 0 retired the output space lies in channel 1 (R322). -/
theorem output_spoilt : rd (cmpSpoils cacheStands 0).dram (dramKey 0 1 jobOutput) = spoiltByte := by
  have hmap : dramMap (cmpSpoils cacheStands 0) 0 jobOutput = dramMap cacheStands 0 jobOutput :=
    dramMap_congr (cmpSpoils_dramChange cacheStands 0).retired 0 jobOutput
  have hbyte : dramByte (cmpSpoils cacheStands 0) 0 (compAt cacheStands 0).jobDst.toNat = (Config.freeWord cacheStands.free).extractLsb' 0 8 :=
    dramByte_cmpSpoils rfl
  rw [dramByte, show (compAt cacheStands 0).jobDst.toNat = jobOutput from rfl, hmap] at hbyte
  exact hbyte

/-- Refutes O38, by its clause on a training that fails for the second time (R121, R321, R322): the clause has the DRAM stand as it was, and the
retirement refuses the die's page cache, which stops the compress job on a block there; the output space of a job that stops is free, so in
`trainsWhileCompressing` a byte of it changes. -/
theorem not_dramReadsAndUpkeep : ¬ Obligations.DramReadsAndUpkeep := by
  rintro ⟨-, -, ⟨-, -, -, -, -, -, -, -, -, -, -, -, -, -, -, hfails, -⟩, -⟩
  obtain ⟨-, -, hdram, -⟩ := holds_of_runs (exec_fullTrainingDone 0 0 false [] trainsWhileCompressing)
    (hfails trainsWhileCompressing 0 0 [] rfl (by decide) (by decide) (by decide) (by decide))
  rw [dram_doFullTrainingDone] at hdram
  have hbyte := output_spoilt
  rw [hdram, trainsWhileCompressing, rd_wr, if_pos rfl] at hbyte
  exact absurd hbyte (by generalize spoiltByte = b; revert b; decide)

end Sys2Proof.Proofs
end

section
/-! PROOFS. Fast retrains of the links of a die (R226, R230, R463): what one of them changes, and the state it leaves its link in. -/

open Sys2Proof Sys2Proof.Machine Sys2Proof.Claims

namespace Sys2Proof.Proofs

variable {s t : State} {d l i j : Nat}

/-- The state but for the links, their lanes, the eye scans and what is driven at the boundary. -/
def offLinks (s : State) : State := { s with links := [], lanes := [], eyes := [], out := [] }

/-- Of the links only `i` differs, and of the rest only what `offLinks` leaves out: what the block stream of a link can change. For each operation
`f` below `f_link` takes `LinkChange i s t` to `LinkChange i s (f t …)`. -/
structure LinkChange (i : Nat) (s t : State) : Prop where
  rest : offLinks t = offLinks s
  others : only i linkAt s t

theorem linkChange_refl : LinkChange i s s := ⟨rfl, fun _ _ => rfl⟩

theorem linkAt_modLink_other {f : Link → Link} (h : j ≠ i) : linkAt (modLink s i f) j = linkAt s j := sget_sput_other _ _ _ _ _ h

theorem modLink_link {f : Link → Link} (h : LinkChange i s t) : LinkChange i s (modLink t i f) :=
  ⟨h.rest, fun j hj => (linkAt_modLink_other hj).trans (h.others j hj)⟩

theorem modLane_link {n : Nat} {f : Lane → Lane} (h : LinkChange i s t) : LinkChange i s (modLane t n f) := ⟨h.rest, h.others⟩

theorem emit_link {o : Out} (h : LinkChange i s t) : LinkChange i s (emit t o) := ⟨h.rest, h.others⟩

theorem foldl_link {α : Type} {f : State → α → State} {xs : List α} (h : LinkChange i s t)
    (hf : ∀ u a, LinkChange i s u → LinkChange i s (f u a)) : LinkChange i s (xs.foldl f t) :=
  List.foldlRecOn (motive := LinkChange i s) xs f h fun u hu a _ => hf u a hu

theorem sendBlock_link {n : Nat} {b : Blk} (h : LinkChange i s t) : LinkChange i s (sendBlock t d n b) := emit_link (modLane_link h)

theorem sendBurst_link {count : Nat} {b : Blk} (h : LinkChange i s t) : LinkChange i s (sendBurst t d l count b) :=
  foldl_link h fun _ _ hu => foldl_link hu fun _ _ hv => sendBlock_link hv

theorem sendSlot_link (h : LinkChange (linkIx d l) s t) : LinkChange (linkIx d l) s (sendSlot t d l) := by
  unfold sendSlot
  exact modLink_link (foldl_link h fun _ _ hu => sendBlock_link hu)

theorem sendIdle_link {count : Nat} (h : LinkChange (linkIx d l) s t) : LinkChange (linkIx d l) s (sendIdle t d l count) := by
  unfold sendIdle
  exact modLink_link (foldl_link h fun _ _ hu => emit_link (modLane_link hu))

theorem sendSlots_link {count fuel : Nat} (h : LinkChange (linkIx d l) s t) : LinkChange (linkIx d l) s (sendSlots t d l count fuel) := by
  induction fuel generalizing t count with
  | zero => exact h
  | succ fuel ih =>
    unfold sendSlots
    split
    · exact h
    · extract_lets k m
      split
      · exact ih (sendIdle_link h)
      · exact ih (sendSlot_link h)

theorem pump_link (h : LinkChange (linkIx d l) s t) : LinkChange (linkIx d l) s (pump t d l) := by
  unfold pump
  extract_lets k
  split
  · exact sendSlots_link h
  · exact h

theorem cutStream_link (h : LinkChange (linkIx d l) s t) : LinkChange (linkIx d l) s (cutStream t d l) := modLink_link (pump_link h)

theorem abortEye_link (h : LinkChange i s t) : LinkChange i s (abortEye t d l) := by
  unfold abortEye
  extract_lets e
  split
  · exact ⟨h.rest, h.others⟩
  · exact h

theorem loadLane_link {n : Nat} (h : LinkChange i s t) : LinkChange i s (loadLane t n) := by
  unfold loadLane
  extract_lets b
  split
  · exact h
  · exact modLane_link h

theorem enterFast_link (h : LinkChange (linkIx d l) s t) : LinkChange (linkIx d l) s (enterFast t d l) := by
  unfold enterFast startStream
  extract_lets t1 t2 t3
  have h1 : LinkChange (linkIx d l) s t1 := cutStream_link (abortEye_link h)
  have h2 : LinkChange (linkIx d l) s t2 := foldl_link h1 fun _ _ hu => modLane_link (loadLane_link hu)
  exact modLink_link (modLink_link (sendBurst_link h2))

theorem st_enterFast (s : State) (d l : Nat) : (linkAt (enterFast s d l) (linkIx d l)).st = .retrain := by
  simp only [enterFast, startStream, modLink, linkAt_setLink]

/-! ### The ACTIVE links of a die after PLL 3 has lost lock -/

/-- A link of a die begins its fast retrain with its tries counted anew. -/
def fastAnew (s : State) (d l : Nat) : State := enterFast (modLink s (linkIx d l) (fun k => { k with fastTries := 0 })) d l

theorem fastAnew_link (s : State) (d l : Nat) : LinkChange (linkIx d l) s (fastAnew s d l) := enterFast_link (modLink_link linkChange_refl)

theorem st_fastAnew (s : State) (d l n : Nat) :
    (linkAt (fastAnew s d l) (linkIx d n)).st = if n = l then .retrain else (linkAt s (linkIx d n)).st := by
  split
  next heq => rw [heq]; exact st_enterFast ..
  next hne => rw [(fastAnew_link s d l).others (linkIx d n) fun heq => hne (Nat.add_left_cancel heq)]

/-- Links of a die sent to their fast retrain one after the other: no other link moves, and no record of a die. -/
theorem foldl_fastAnew (ps : List (Nat × Nat)) (s : State) (d n : Nat) :
    let t := ps.foldl (fun s p => fastAnew s d p.2) s
    t.mgt = s.mgt ∧ (linkAt t (linkIx d n)).st = if n ∈ ps.map (fun p => p.2) then .retrain else (linkAt s (linkIx d n)).st := by
  induction ps generalizing s with
  | nil => exact ⟨rfl, (if_neg List.not_mem_nil).symm⟩
  | cons p ps ih =>
    obtain ⟨hmgt, hst⟩ := ih (fastAnew s d p.2)
    refine ⟨hmgt.trans (congrArg State.mgt (fastAnew_link s d p.2).rest :), hst.trans ?_⟩
    rw [st_fastAnew]
    by_cases hn : n = p.2 <;> by_cases hps : n ∈ ps.map (fun p => p.2) <;> simp [hn, hps]

end Sys2Proof.Proofs
end

section
/-! PROOFS. What a die's fault leaves alone (R263, R264, R463, R474): the records of the dies, whether die 0 is at fault, the passed load limit, and
the fences of the dies. A fault fences units of other kinds, whose fence records are others. -/

open Sys2Proof Sys2Proof.Machine Sys2Proof.Claims

namespace Sys2Proof.Proofs

/-- Place of a die's own fence record (R272). -/
def dieFence (d : Nat) : Nat := 143 * d + 142

theorem fenceOf_die (s : State) (d : Nat) : fenceOf s (.die d) = sget {} s.fences (dieFence d) := rfl

/-- What of `s` stands in `t` after units other than dies were fenced. An operation that changes other fields keeps it by definition; those that
branch have their lemma below, in the order of the model. -/
def FaultKept (s t : State) : Prop :=
  t.mgt = s.mgt ∧ t.die0Fault = s.die0Fault ∧ t.pcie.limitPassed = s.pcie.limitPassed ∧
    ∀ d, sget {} t.fences (dieFence d) = sget {} s.fences (dieFence d)

/-- `FaultKept` of the state a stretch of LOAD_BLOCKS ends in. -/
def FaultKeptLoad (s : State) : LoadStep → Prop
  | .done t => FaultKept s t
  | .wait t _ => FaultKept s t

variable {s t : State}

theorem faultKept_refl : FaultKept s s := ⟨rfl, rfl, rfl, fun _ => rfl⟩

theorem faultKept_ite {c : Prop} [Decidable c] {u v : State} (hu : FaultKept s u) (hv : FaultKept s v) : FaultKept s (if c then u else v) := by
  split
  · exact hu
  · exact hv

theorem faultKept_foldl {α : Type} {f : State → α → State} {l : List α} (ht : FaultKept s t)
    (hf : ∀ u a, a ∈ l → FaultKept s u → FaultKept s (f u a)) : FaultKept s (l.foldl f t) :=
  List.foldlRecOn (motive := FaultKept s) l f ht fun u hu a ha => hf u a ha hu

theorem modClause_faultKept {x f} (ht : FaultKept s t) : FaultKept s (modClause t x f) := ht

/-! ### Completions and fences -/

theorem msix_faultKept {v} (ht : FaultKept s t) : FaultKept s (msix t v) :=
  faultKept_ite ht (faultKept_ite (faultKept_ite ht ht) (faultKept_ite ht ht))

theorem logEv_faultKept {d code data} (ht : FaultKept s t) : FaultKept s (logEv t d code data) := ht

/-- The record of a unit that is no die stands before its die's own among the 143 of the die, or, a head channel's, elsewhere (R272). -/
theorem putFence_faultKept {u f} (hu : u.place < 142) (ht : FaultKept s t) : FaultKept s (putFence t u f) := by
  obtain ⟨hmgt, hdie0, hlimit, hdies⟩ := ht
  unfold putFence
  split
  · exact ⟨hmgt, hdie0, hlimit, hdies⟩
  · exact ⟨hmgt, hdie0, hlimit, fun d => (sget_sput_other _ _ _ _ _ (by unfold dieFence; omega)).trans (hdies d)⟩

theorem changeFence_faultKept {u st reason} (hu : u.place < 142) (ht : FaultKept s t) : FaultKept s (changeFence t u st reason) :=
  logEv_faultKept (putFence_faultKept hu ht)

theorem signalCq_faultKept {c} (ht : FaultKept s t) : FaultKept s (signalCq t c) := msix_faultKept ht

theorem putCq_faultKept {c entry} (ht : FaultKept s t) : FaultKept s (putCq t c entry) :=
  faultKept_ite (faultKept_ite (signalCq_faultKept ht) ht) ht

theorem complete_faultKept {h opcode status result} (ht : FaultKept s t) : FaultKept s (complete t h opcode status result) := by
  unfold complete
  extract_lets e m src
  split
  · exact faultKept_ite (putCq_faultKept ht) ht
  · exact msix_faultKept ht
  · exact ht
  · exact ht

/-! ### Blocks in DRAM and the loads of a decompressor -/

theorem dramWr_faultKept {d a bs} (ht : FaultKept s t) : FaultKept s (dramWr t d a bs) := by
  have hrest := (dramWr_dramChange (s := t) (d := d) (a := a) (bs := bs)).rest
  have hfences : (dramWr t d a bs).fences = t.fences := (congrArg State.fences hrest :)
  obtain ⟨hmgt, hdie0, hlimit, hdies⟩ := ht
  exact ⟨(congrArg State.mgt hrest :).trans hmgt, (congrArg State.die0Fault hrest :).trans hdie0,
    (congrArg (fun u : State => u.pcie.limitPassed) hrest :).trans hlimit, fun e => by rw [hfences, hdies e]⟩

theorem closeSet_faultKept {page copy} (ht : FaultKept s t) : FaultKept s (closeSet t page copy) := faultKept_ite ht ht

theorem loadEnd_faultKept {w e} (ht : FaultKept s t) : FaultKept s (loadEnd t w e) := complete_faultKept ht

theorem loadTail_faultKept {w} (ht : FaultKept s t) : FaultKeptLoad s (loadTail t w) := by
  unfold loadTail
  extract_lets t1
  have h1 : FaultKept s t1 := by
    unfold t1
    split
    · exact faultKept_ite (closeSet_faultKept ht) ht
    · exact ht
  split
  · exact ht
  · split
    · exact loadEnd_faultKept ht
    · exact loadEnd_faultKept h1

theorem cmpSpoils_faultKept {d} (ht : FaultKept s t) : FaultKept s (cmpSpoils t d) :=
  dramWr_faultKept (t := (drawBytes t _).2) ht

theorem dropCached_faultKept {d a} (ht : FaultKept s t) : FaultKept s (dropCached t d a) :=
  faultKept_ite (cmpSpoils_faultKept (t := t) ht) ht

theorem loadRefused_faultKept {w c reason} (ht : FaultKept s t) : FaultKept s (loadRefused t w c reason).1 :=
  faultKept_foldl ht fun _ _ _ hu => dropCached_faultKept hu

theorem cacheLeft_faultKept {d a refused} (ht : FaultKept s t) : FaultKept s (cacheLeft t d a refused) := by
  unfold cacheLeft
  split
  case h_2 => exact ht
  case h_1 w _ =>
    split
    · exact ht
    extract_lets others r
    have hr : FaultKept s r.1 := by
      unfold r
      split
      · exact loadRefused_faultKept ht
      · exact ht
    split
    · have htail := loadTail_faultKept (w := r.2) (show FaultKept s { r.1 with parked := others } from hr)
      split
      next u hu =>
        rw [hu] at htail
        exact htail
      next u v hu =>
        rw [hu] at htail
        exact htail
    · exact hr

theorem refuseCached_faultKept {d reason} (ht : FaultKept s t) : FaultKept s (refuseCached t d reason) :=
  faultKept_foldl ht fun _ _ _ hu => cacheLeft_faultKept (dropCached_faultKept hu)

/-! ### Links, heads, lanes, axes and DMA channels -/

theorem dropFrames_faultKept {d l p} (ht : FaultKept s t) : FaultKept s (dropFrames t d l p) := by
  have hrest := (pump_link (d := d) (l := l) (linkChange_refl (s := t))).rest
  have hfences : (pump t d l).fences = t.fences := (congrArg State.fences hrest :)
  obtain ⟨hmgt, hdie0, hlimit, hdies⟩ := ht
  exact ⟨(congrArg State.mgt hrest :).trans hmgt, (congrArg State.die0Fault hrest :).trans hdie0,
    (congrArg (fun u : State => u.pcie.limitPassed) hrest :).trans hlimit, fun e => (by rw [hfences, hdies e] :
      sget {} (pump t d l).fences (dieFence e) = sget {} s.fences (dieFence e))⟩

theorem fenceDma_faultKept {d c reason} (hc : c < 32) (ht : FaultKept s t) : FaultKept s (fenceDma t d c reason) :=
  faultKept_ite ht (changeFence_faultKept (by simp only [FUnit.place]; omega) (t := modDma t _ _) ht)

theorem gatherCh_lt {h d c : Nat} (hch : gatherCh? t h = some (d, c)) : c < 32 := by
  simp only [gatherCh?, Option.bind_eq_some_iff, Option.map_eq_some_iff, Prod.mk.injEq] at hch
  obtain ⟨e, -, k, hfind, -, rfl⟩ := hch
  exact List.mem_range.mp (List.mem_of_find?_eq_some hfind)

theorem dropLines_faultKept {h p} (ht : FaultKept s t) : FaultKept s (dropLines t h p) := by
  unfold dropLines
  split
  · exact dropFrames_faultKept ht
  · exact ht

theorem fenceHead_faultKept {h reason} (ht : FaultKept s t) : FaultKept s (fenceHead t h reason) := by
  unfold fenceHead
  extract_lets t1 t2
  have h1 : FaultKept s t1 := dropLines_faultKept ht
  have h2 : FaultKept s t2 := changeFence_faultKept (by simp only [FUnit.place]; omega) h1
  split
  · exact ht
  · split
    next hch => exact fenceDma_faultKept (gatherCh_lt hch) h2
    · exact h2

theorem retireLane_faultKept {d n reason} (hn : n < 8) (ht : FaultKept s t) : FaultKept s (retireLane t d n reason) :=
  faultKept_ite ht (changeFence_faultKept (by simp only [FUnit.place]; omega) (t := modLane t _ _) ht)

theorem endAxisCmd_faultKept {a status} (ht : FaultKept s t) : FaultKept s (endAxisCmd t a status) := by
  unfold endAxisCmd
  split
  · exact complete_faultKept ht
  · exact ht

theorem endService_faultKept {g status st} (ht : FaultKept s t) : FaultKept s (endService t g status st) := by
  unfold endService
  extract_lets t1 t2
  split
  · exact complete_faultKept ht
  · exact ht

theorem axisFailed_faultKept {a status} (ht : FaultKept s t) : FaultKept s (axisFailed t a status) := by
  unfold axisFailed
  extract_lets t1
  have h1 : FaultKept s t1 := endAxisCmd_faultKept ht
  split
  · exact endService_faultKept h1
  · exact h1

theorem fenceAxis_faultKept {a reason} (ht : FaultKept s t) : FaultKept s (fenceAxis t a reason) := by
  unfold fenceAxis
  extract_lets t1 t2 t3
  have h2 : FaultKept s t2 := changeFence_faultKept (by simp only [FUnit.place]; omega) (t := t1) ht
  have h3 : FaultKept s t3 := axisFailed_faultKept h2
  split
  · exact ht
  · split
    · exact h3
    · exact h3

/-! ### Clauses and the job -/

theorem powerOffClause_faultKept {x} (ht : FaultKept s t) : FaultKept s (powerOffClause t x) := faultKept_foldl ht fun _ _ _ hu => hu

theorem returnSpare_faultKept {y} (ht : FaultKept s t) : FaultKept s (returnSpare t y) :=
  changeFence_faultKept (by simp only [FUnit.place]; omega) (t := modClause t _ _) ht

theorem startTest_faultKept {x} (ht : FaultKept s t) : FaultKept s (startTest t x) :=
  changeFence_faultKept (by simp only [FUnit.place]; omega) (t := modClause t _ _) ht

theorem fencedIfDrained_faultKept {x} (ht : FaultKept s t) : FaultKept s (fencedIfDrained t x) := by
  have hoff : ∀ c, FaultKept s (powerOffClause (setClause t x c) x) := fun c => powerOffClause_faultKept ht
  unfold fencedIfDrained
  exact faultKept_ite (faultKept_ite (returnSpare_faultKept (hoff _)) (faultKept_ite (startTest_faultKept (hoff _)) (hoff _))) ht

theorem clauseIdle_faultKept {x} (ht : FaultKept s t) : FaultKept s (clauseIdle t x) := faultKept_foldl ht fun _ _ _ hu => hu

theorem clausesIdle_faultKept {rows} (ht : FaultKept s t) : FaultKept s (clausesIdle t rows) :=
  faultKept_foldl ht fun _ _ _ hu => faultKept_foldl hu fun _ _ _ hv => fencedIfDrained_faultKept (clauseIdle_faultKept hv)

theorem endRuns_faultKept {p} (ht : FaultKept s t) : FaultKept s (endRuns t p) := by
  unfold endRuns
  split
  · exact ht
  · exact faultKept_foldl ht fun _ _ _ hu => hu

theorem nextReport_faultKept {r} (ht : FaultKept s t) (hr : nextReport? t = some r) : FaultKept s r.2 := by
  unfold nextReport? at hr
  split at hr
  · exact absurd hr nofun
  split at hr
  · obtain rfl := Option.some.inj hr
    exact ht
  split at hr
  · obtain rfl := Option.some.inj hr
    exact ht
  · exact absurd hr nofun

theorem serveReports_faultKept {fuel} (ht : FaultKept s t) : FaultKept s (serveReports t fuel) := by
  induction fuel generalizing t with
  | zero => exact ht
  | succ fuel ih =>
    unfold serveReports
    split
    next hreport _ hr => exact ih (complete_faultKept (nextReport_faultKept ht hr))
    next => exact ht

theorem closeJob_faultKept {bits} (ht : FaultKept s t) : FaultKept s (closeJob t bits) := by
  unfold closeJob
  split
  · exact ht
  · extract_lets t1 t2 t3 t4 t5 t6 src t7
    have h1 : FaultKept s t1 := endRuns_faultKept ht
    have h4 : FaultKept s t4 := clausesIdle_faultKept (t := t3) h1
    have h5 : FaultKept s t5 := faultKept_foldl h4 fun _ _ _ hu => hu
    have h7 : FaultKept s t7 := faultKept_ite h5 h5
    exact faultKept_ite ht (serveReports_faultKept h7)

theorem readyCopies_faultKept {fuel} (ht : FaultKept s t) : FaultKept s (readyCopies t fuel) := by
  induction fuel generalizing t with
  | zero => exact ht
  | succ fuel ih =>
    unfold readyCopies
    split
    · exact ht
    · exact faultKept_ite (ih (endRuns_faultKept (p := _) ht)) ht

theorem jobAdvance_faultKept (ht : FaultKept s t) : FaultKept s (jobAdvance t) := by
  unfold jobAdvance
  split
  · exact ht
  · extract_lets t1 t2 t3
    have h2 : FaultKept s t2 := faultKept_foldl (readyCopies_faultKept ht) fun _ _ _ hu => faultKept_ite hu hu
    exact faultKept_ite ht (serveReports_faultKept (faultKept_ite (closeJob_faultKept h2) h2))

/-! ### Faults of dies -/

/-- A fault of die 0 sets `die0Fault`, and of what `FaultKept` speaks of nothing else (R264). -/
theorem die0Stop_faultKept {reason : Nat} (hnew : s.die0Fault = false) : FaultKept { s with die0Fault := true } (die0Stop s reason) := by
  unfold die0Stop
  rw [hnew, if_neg Bool.false_ne_true]
  extract_lets t1 t2 ps
  have h1 : FaultKept { s with die0Fault := true } t1 := logEv_faultKept faultKept_refl
  have h2 : FaultKept { s with die0Fault := true } t2 := closeJob_faultKept h1
  refine faultKept_foldl h2 fun u p _ hu => ?_
  have hcomplete : ∀ {h opcode status result}, FaultKept { s with die0Fault := true } (complete u h opcode status result) := complete_faultKept hu
  cases p with
  | load w => exact loadEnd_faultKept hu
  | _ => exact hcomplete

theorem die0Fault_dieFault {reason : Nat} (hok : dieOk s 0 = true) : (dieFault s 0 reason).die0Fault = true := by
  simp only [dieFault, hok, Bool.not_true, Bool.false_eq_true, if_false, if_true]
  cases hfault : s.die0Fault with
  | true => rw [die0Stop, hfault, if_pos rfl, hfault]
  | false =>
    obtain ⟨-, hset, -, -⟩ := die0Stop_faultKept (reason := reason) hfault
    exact hset

theorem endUnfenceOf_faultKept {d k} (ht : FaultKept s t) : FaultKept s (fenceDieClauses.endUnfenceOf t d k) := by
  unfold fenceDieClauses.endUnfenceOf
  extract_lets mine hs
  refine faultKept_foldl ht fun u a _ hu => ?_
  split
  · exact complete_faultKept hu
  · exact hu

theorem fenceDieClauses_faultKept {d} (ht : FaultKept s t) : FaultKept s (fenceDieClauses t d) := by
  unfold fenceDieClauses
  refine faultKept_foldl ht fun v k hk hv => ?_
  have hplace : (FUnit.clause d k).place < 142 := by
    have := List.mem_range.mp (List.mem_of_mem_filter hk)
    simp only [FUnit.place]
    omega
  extract_lets x u testing t2 t3 t4
  have h2 : FaultKept s t2 := clauseIdle_faultKept hv
  have h3 : FaultKept s t3 := powerOffClause_faultKept (modClause_faultKept h2)
  have h4 : FaultKept s t4 := faultKept_ite h3 (changeFence_faultKept hplace h3)
  exact faultKept_ite (endUnfenceOf_faultKept h4) h4

/-- Once a die in service is fenced, what its units' fences take with them is nothing that `FaultKept` speaks of (R263). -/
theorem dieFault_faultKept {d reason : Nat} (hok : dieOk s d = true) (hd : d ≠ 0) (hlive : isFenced s (.die d) = false) :
    FaultKept (changeFence s (.die d) .fenced reason) (dieFault s d reason) := by
  unfold dieFault
  simp only [hok, hd, hlive, Bool.not_true, Bool.false_eq_true, if_false]
  generalize changeFence s (.die d) .fenced reason = v
  have h2 : FaultKept v (fenceDieClauses v d) := fenceDieClauses_faultKept faultKept_refl
  generalize fenceDieClauses v d = t2 at h2
  refine jobAdvance_faultKept (refuseCached_faultKept (fenceAxis_faultKept (fenceAxis_faultKept ?_)))
  refine faultKept_foldl (faultKept_foldl (faultKept_foldl (faultKept_foldl h2 fun _ _ _ hu => fenceHead_faultKept hu)
    fun _ _ hn hu => retireLane_faultKept (List.mem_range.mp hn) hu) fun _ _ _ hu => hu) fun _ _ hc hu => fenceDma_faultKept (List.mem_range.mp hc) hu

theorem fenceOf_changeFence_die (s : State) (d reason : Nat) (st : FenceState) : fenceOf (changeFence s (.die d) st reason) (.die d) =
    { fenceOf s (.die d) with st := st, reason := BitVec.ofNat 8 reason, time := tb64 s } := sget_sput_same ..

/-- A fault of a die in service other than die 0: its fence record is written and the records of the dies stand (R263, R272). -/
theorem dieFault_spec {d reason : Nat} (hd : d ≠ 0) (hok : dieOk s d = true) (hlive : isFenced s (.die d) = false) :
    (fenceOf (dieFault s d reason) (.die d)).st = .fenced ∧ (fenceOf (dieFault s d reason) (.die d)).reason = BitVec.ofNat 8 reason ∧
      (dieFault s d reason).mgt = s.mgt := by
  obtain ⟨hmgt, -, -, hdies⟩ := dieFault_faultKept (reason := reason) hok hd hlive
  have hfence := (hdies d).trans (fenceOf_changeFence_die s d reason .fenced)
  rw [fenceOf_die, hfence]
  exact ⟨rfl, rfl, hmgt⟩

end Sys2Proof.Proofs
end

section
/-! PROOFS. The stages of start-up (R318, R462, R470-R474): what each leaves of the records of the dies that start. -/

open Sys2Proof Sys2Proof.Machine Sys2Proof.Claims

namespace Sys2Proof.Proofs

variable {s t : State} {d e n : Nat} {r : StageResult}

theorem exec_startupStageDone (r : StageResult) (s : State) : exec (.startupStageDone r) s = .next (doStartupStageDone s r) := rfl

/-- Over a list, what the step of one member brings about holds at the end: no later step undoes it, and no earlier one takes away what that
step needs. -/
theorem foldl_reaches {α : Type} {P Q : State → Prop} {f : State → α → State} {l : List α} {a : α} (ha : a ∈ l) (hQ : Q s)
    (hset : ∀ u, Q u → P (f u a)) (hneeds : ∀ u b, Q u → Q (f u b)) (hkeep : ∀ u b, P u → P (f u b)) : P (l.foldl f s) := by
  induction l generalizing s with
  | nil => exact absurd ha List.not_mem_nil
  | cons b l ih =>
    rcases List.mem_cons.mp ha with rfl | hl
    · exact List.foldlRecOn (motive := P) l f (hset s hQ) fun u hu b _ => hkeep u b hu
    · exact ih hl (hneeds s b hQ)

/-! ### Records of the dies, one by one -/

theorem mgtAt_modMgt_same (s : State) (d : Nat) (f : Mgt → Mgt) : mgtAt (modMgt s d f) d = f (mgtAt s d) := mgtAt_setMgt ..

/-- The records of some dies are changed one by one. -/
def modDies (s : State) (ds : List Nat) (f : Nat → Mgt → Mgt) : State := ds.foldl (fun s d => modMgt s d (f d)) s

theorem modDies_frame (s : State) (ds : List Nat) (f : Nat → Mgt → Mgt) : modDies s ds f = { s with mgt := (modDies s ds f).mgt } := by
  induction ds generalizing s with
  | nil => rfl
  | cons d ds ih => exact ih (modMgt s d (f d))

/-- What every change keeps of a die's record stands. -/
theorem mgtAt_modDies_keeps {α : Type} {g : Mgt → α} {f : Nat → Mgt → Mgt} (hf : ∀ d m, g (f d m) = g m) (s : State) (ds : List Nat) (e : Nat) :
    g (mgtAt (modDies s ds f) e) = g (mgtAt s e) := by
  refine List.foldlRecOn (motive := fun u => g (mgtAt u e) = g (mgtAt s e)) _ _ rfl fun u hu d _ => ?_
  by_cases hde : e = d
  · subst hde
    rw [mgtAt_modMgt_same, hf, hu]
  · rw [mgtAt_modMgt_other hde, hu]

/-- What a die's own change sets in its record, whatever the record, is set at the end. -/
theorem mgtAt_modDies_sets {α : Type} {g : Mgt → α} {f : Nat → Mgt → Mgt} {v : α} {ds : List Nat} (he : e ∈ ds) (hf : ∀ m, g (f e m) = v)
    (s : State) : g (mgtAt (modDies s ds f) e) = v := by
  have hset : ∀ u, g (mgtAt (modMgt u e (f e)) e) = v := fun u => by rw [mgtAt_modMgt_same, hf]
  refine foldl_reaches (P := fun u => g (mgtAt u e) = v) (Q := fun _ => True) he trivial (fun u _ => hset u) (fun _ _ _ => trivial)
    fun u d hu => ?_
  by_cases hde : e = d
  · rw [← hde]
    exact hset u
  · rw [mgtAt_modMgt_other hde, hu]

/-- A die's record at a stage. -/
def atStage (n : Nat) (_ : Nat) (m : Mgt) : Mgt := { m with stage := BitVec.ofNat 4 n }

/-- A die's record with its PLLs locked: 0-3, and on die 0 also 4 (R462). -/
def pllsLocked (d : Nat) (m : Mgt) : Mgt := { m with pllLock := if d = 0 then 0x1F else 0x0F }

theorem setStage_eq (s : State) (n : Nat) : setStage s n = modDies s (startingDies s) (atStage n) := rfl

theorem lockPlls_eq (s : State) : lockPlls s = modDies s (startingDies s) pllsLocked := rfl

theorem setStage_frame (s : State) (n : Nat) : setStage s n = { s with mgt := (setStage s n).mgt } := modDies_frame ..

/-- Every die that starts is at the stage set. -/
theorem stage_setStage (hd : d ∈ startingDies s) : (mgtAt (setStage s n) d).stage = BitVec.ofNat 4 n := by
  rw [setStage_eq]
  exact mgtAt_modDies_sets (g := Mgt.stage) (f := atStage n) hd (fun _ => rfl) s

/-! ### The dies that start -/

theorem mem_startingDies : d ∈ startingDies s ↔ d < s.part.dies ∧ dieStarts s d = true ∧ (mgtAt s d).result ≠ 2 := by
  simp [startingDies]

/-- The dies that start depend on the part, the fences, the DRAM channels and the results recorded. -/
theorem startingDies_congr (hpart : t.part = s.part) (hfences : t.fences = s.fences) (hddr : t.ddr = s.ddr)
    (hresult : ∀ e, (mgtAt t e).result = (mgtAt s e).result) : startingDies t = startingDies s := by
  have hstarts : ∀ e, dieStarts t e = dieStarts s e := fun e => by
    simp only [dieStarts, isFenced, fenceOf_die, ddrAt, hfences, hddr]
  simp only [startingDies, hpart, hstarts, hresult]

theorem startingDies_lockPlls (s : State) : startingDies (lockPlls s) = startingDies s := by
  have hresult := mgtAt_modDies_keeps (g := Mgt.result) (f := pllsLocked) (fun _ _ => rfl) s (startingDies s)
  rw [lockPlls_eq]
  refine startingDies_congr ?_ ?_ ?_ hresult
  all_goals rw [modDies_frame]

/-! ### The work of stages 1 to 3 -/

/-- Stage 1: the PLLs are locked, and a warm start-up latches the pins (R462, R472). -/
theorem stageWork_pins (s : State) (r : StageResult) : stageWork s 1 r = setStage (lockPlls { s with
    dia := { s.dia with pinSlot := if s.power.warmRun then r.dialectPins else s.dia.pinSlot },
    power := { s.power with smbAddr := if s.power.warmRun then r.smbPins else s.power.smbAddr } }) 2 := by
  by_cases hwarm : s.power.warmRun = true
  · simp only [stageWork, if_pos hwarm]
  · simp only [stageWork, if_neg hwarm]

/-- With no row defective and none repaired before, a die's march changes nothing (R293, R473). -/
theorem startMarch_clean (hscrubs : s.scrubs = []) (d : Nat) : startMarch s d [] = s := by
  have hrun : ∀ tests, marchRun s d [] tests = (s, [], []) := fun tests => by
    have hset : setScrub s d {} = s := by
      simp only [setScrub, hscrubs, sput, if_true, List.filter_nil]
      rw [← hscrubs]
    have hnone : failingRows {} [] tests = [] := rfl
    simp only [marchRun, scrubAt, hscrubs, sget, hnone, List.foldl_nil, hset]
  simp [startMarch, hrun]

theorem bootUp_frame (s : State) : bootUp s = { s with boot := (bootUp s).boot, evqs := (bootUp s).evqs } := by
  unfold bootUp
  extract_lets b region t
  split
  · split <;> rfl
  · rfl

/-! ### A stage that no die fails -/

section Clean

variable (hst : s.power.st = .starting) (hpor : s.power.porAsserted = false) (hfail : s.startFailed = false) (hfailed : r.failed = [])

include hst hpor hfail hfailed

/-- Such a stage leaves its work done. -/
theorem runs_of_stageWork {n : Nat} {P : State → Prop} (hstage : (mgtAt s 0).stage = BitVec.ofNat 4 n) (hn : n < 6) (hP : P (stageWork s n r)) :
    Runs (.startupStageDone r) s P := by
  have hnum : (mgtAt s 0).stage.toNat = n := by
    rw [hstage, BitVec.toNat_ofNat]
    omega
  have hdone : doStartupStageDone s r = stageWork s n r := by
    simp [doStartupStageDone, hst, hpor, hfail, hfailed, hnum, Nat.not_le.mpr hn]
  exact ⟨_, (exec_startupStageDone r s).trans (congrArg _ hdone), hP⟩

theorem runs_stage1 (hstage : (mgtAt s 0).stage = 1) (hzero : 0 ∈ startingDies s) : Runs (.startupStageDone r) s (fun t =>
      t = { s with mgt := t.mgt, dia := { s.dia with pinSlot := if s.power.warmRun then r.dialectPins else s.dia.pinSlot },
                   power := { s.power with smbAddr := if s.power.warmRun then r.smbPins else s.power.smbAddr } } ∧
      (mgtAt t 0).stage = 2 ∧ (mgtAt t 0).pllLock = 0x1F ∧
      ∀ d, d ≠ 0 → d ∈ startingDies s → (mgtAt t d).stage = 2 ∧ (mgtAt t d).pllLock = 0x0F) := by
  refine runs_of_stageWork (s := s) hst hpor hfail hfailed (n := 1) hstage (by decide) ?_
  rw [stageWork_pins]
  generalize hu : ({ s with
    dia := { s.dia with pinSlot := if s.power.warmRun then r.dialectPins else s.dia.pinSlot },
    power := { s.power with smbAddr := if s.power.warmRun then r.smbPins else s.power.smbAddr } } : State) = u
  have hsame : startingDies u = startingDies s := by rw [← hu]; rfl
  have hstart : ∀ e, e ∈ startingDies s → e ∈ startingDies (lockPlls u) := fun e he => by rwa [startingDies_lockPlls, hsame]
  have hlock : ∀ e, e ∈ startingDies s → (mgtAt (setStage (lockPlls u) 2) e).pllLock = if e = 0 then 0x1F else 0x0F := fun e he => by
    rw [setStage_eq, mgtAt_modDies_keeps (g := Mgt.pllLock) (f := atStage 2) (fun _ _ => rfl), lockPlls_eq]
    exact mgtAt_modDies_sets (g := Mgt.pllLock) (f := pllsLocked) (hsame ▸ he) (fun _ => rfl) u
  refine ⟨?_, stage_setStage (hstart 0 hzero), hlock 0 hzero, fun e he hstarts => ⟨stage_setStage (hstart e hstarts), ?_⟩⟩
  · rw [setStage_frame, lockPlls_eq, modDies_frame, ← hu]
  · rw [hlock e hstarts, if_neg he]

theorem runs_stage2 (hdefects : r.defects = []) (hstage : (mgtAt s 0).stage = 2) (hscrubs : s.scrubs = []) :
    Runs (.startupStageDone r) s (fun t => t = { s with mgt := t.mgt } ∧ ∀ d, d ∈ startingDies s → (mgtAt t d).stage = 3) := by
  have hmarch : (startingDies s).foldl (fun s d => startMarch s d r.defects) s = s :=
    List.foldlRecOn (motive := (· = s)) _ _ rfl fun u hu d _ => by rw [hu, hdefects, startMarch_clean hscrubs]
  have hwork : stageWork s 2 r = setStage s 3 := by simp only [stageWork, hmarch, hfail, Bool.false_eq_true, if_false]
  refine runs_of_stageWork (s := s) hst hpor hfail hfailed (n := 2) hstage (by decide) ?_
  rw [hwork]
  exact ⟨setStage_frame s 3, fun d hd => stage_setStage hd⟩

theorem runs_stage3 (hstage : (mgtAt s 0).stage = 3) :
    Runs (.startupStageDone r) s (fun t => t = { bootUp s with mgt := t.mgt } ∧ ∀ d, d ∈ startingDies s → (mgtAt t d).stage = 4) := by
  have hsame : startingDies (bootUp s) = startingDies s := by rw [bootUp_frame]; rfl
  refine runs_of_stageWork (s := s) hst hpor hfail hfailed (n := 3) hstage (by decide) ?_
  exact ⟨setStage_frame (bootUp s) 4, fun d hd => stage_setStage (hsame ▸ hd)⟩

end Clean

end Sys2Proof.Proofs
end

section
/-! PROOFS. Stage 4 of start-up (R303, R318, R358, R457, R472): the calibration store read, the ports up, and the channels in training. -/

open Sys2Proof Sys2Proof.Machine Sys2Proof.Claims

namespace Sys2Proof.Proofs

variable {s t : State} {d e p ch : Nat} {r : StageResult}

/-! ### Ports -/

/-- The port `p` of a die comes up when the die it leads to starts. -/
def portUp (ds : List Nat) (s : State) (d p : Nat) : State :=
  match portPeer? s.part.dies d p with
  | some e => if ds.contains e then modPort s (4 * d + p) (fun x => { x with st := .up }) else s
  | none => s

theorem portsUp_eq (s : State) :
    portsUp s = (startingDies s).foldl (fun u d => (List.range 4).foldl (fun u p => portUp (startingDies s) u d p) u) s := rfl

theorem portUp_frame (ds : List Nat) (s : State) (d p : Nat) : portUp ds s d p = { s with ports := (portUp ds s d p).ports } := by
  unfold portUp
  split
  · split <;> rfl
  · rfl

theorem portUp_keeps_up {i : Nat} {ds : List Nat} (d p : Nat) (hup : (portAt s i).st = .up) : (portAt (portUp ds s d p) i).st = .up := by
  unfold portUp
  split
  · split
    · by_cases hi : i = 4 * d + p
      · rw [hi, portAt_modPort]
      · exact (congrArg Port.st (portAt_setPort_other hi)).trans hup
    · exact hup
  · exact hup

theorem portUp_sets {ds : List Nat} (hpeer : portPeer? s.part.dies d p = some e) (he : e ∈ ds) :
    (portAt (portUp ds s d p) (4 * d + p)).st = .up := by
  simp only [portUp, hpeer, List.contains_iff_mem, if_pos he, portAt_modPort]

theorem portsUp_frame (s : State) : portsUp s = { s with ports := (portsUp s).ports } := by
  rw [portsUp_eq]
  refine List.foldlRecOn (motive := fun u : State => u = { s with ports := u.ports }) _ _ rfl fun u hu d _ => ?_
  refine List.foldlRecOn (motive := fun u : State => u = { s with ports := u.ports }) _ _ hu fun v hv p _ => ?_
  rw [portUp_frame, hv]

/-- A port between two dies that start is up (R358). -/
theorem st_portsUp (hd : d ∈ startingDies s) (hp : p < 4) (hpeer : portPeer? s.part.dies d p = some e) (he : e ∈ startingDies s) :
    (portAt (portsUp s) (4 * d + p)).st = .up := by
  have hpart : ∀ u c q, (portUp (startingDies s) u c q).part = u.part := fun u c q => by rw [portUp_frame]
  rw [portsUp_eq]
  refine foldl_reaches (P := fun u => (portAt u (4 * d + p)).st = .up) (Q := fun u => u.part = s.part) hd rfl (fun u hu => ?_)
    (fun u c hu => List.foldlRecOn (motive := fun v => v.part = s.part) _ _ hu fun v hv q _ => (hpart v c q).trans hv)
    fun u c hu => List.foldlRecOn (motive := fun v => (portAt v (4 * d + p)).st = .up) _ _ hu fun v hv q _ => portUp_keeps_up c q hv
  exact foldl_reaches (P := fun v => (portAt v (4 * d + p)).st = .up) (Q := fun v => v.part = s.part) (List.mem_range.mpr hp) hu
    (fun v hv => portUp_sets (hv ▸ hpeer) he) (fun v q hv => (hpart v d q).trans hv) fun v q hv => portUp_keeps_up d q hv

/-! ### The calibration store and the event log -/

/-- The results that the store gives, none without a valid copy (R457). -/
def storedResults (s : State) : Sparse (List Byte) :=
  match storeUsed? s with
  | some (_, b) => storeRecs (b.take (b.length - 4)) b.length 32 []
  | none => []

/-- Every die takes the trim code of the store. -/
theorem readStore_eq (s : State) : ∃ c, c.results = storedResults s ∧
    readStore s = (List.range s.part.dies).foldl (fun u d => modMgt u d (fun m => { m with trim := storedTrim u d })) { s with cal := c } := by
  unfold readStore storedResults
  cases storeUsed? s with
  | none => exact ⟨_, rfl, rfl⟩
  | some q => exact ⟨_, rfl, rfl⟩

theorem foldl_trim (ds : List Nat) (s : State) :
    let u := ds.foldl (fun u d => modMgt u d (fun m => { m with trim := storedTrim u d })) s
    u = { s with mgt := u.mgt } ∧ ∀ e, (mgtAt u e).result = (mgtAt s e).result := by
  refine List.foldlRecOn (motive := fun u => u = { s with mgt := u.mgt } ∧ ∀ e, (mgtAt u e).result = (mgtAt s e).result) _ _
    ⟨rfl, fun _ => rfl⟩ fun u hu d _ => ?_
  obtain ⟨hframe, hresult⟩ := hu
  refine ⟨?_, fun e => ?_⟩
  · rw [modMgt, setMgt, hframe]
  · by_cases hed : e = d
    · rw [hed, mgtAt_modMgt_same, ← hresult d]
    · rw [mgtAt_modMgt_other hed, hresult e]

theorem readStore_spec (s : State) : readStore s = { s with cal := (readStore s).cal, mgt := (readStore s).mgt } ∧
    (readStore s).cal.results = storedResults s ∧ ∀ e, (mgtAt (readStore s) e).result = (mgtAt s e).result := by
  obtain ⟨c, hresults, heq⟩ := readStore_eq s
  obtain ⟨hframe, hresult⟩ := foldl_trim (List.range s.part.dies) { s with cal := c }
  rw [← heq] at hframe hresult
  have hcal : (readStore s).cal = c := by rw [hframe]
  exact ⟨by rw [hcal]; exact hframe, by rw [hcal, hresults], hresult⟩

theorem scanSeq_frame (s : State) : scanSeq s = { s with log := (scanSeq s).log } := by
  unfold scanSeq
  split <;> rfl

/-! ### Channels in training -/

/-- A channel that is off begins to train. -/
def trainsNow (c : DdrCh) : DdrCh := if c.st = .off then { c with st := .train } else c

theorem st_trainsNow (c : DdrCh) : (trainsNow c).st = if c.st = .off then .train else c.st := by
  unfold trainsNow
  split <;> rfl

/-- Both channels of some dies begin to train. -/
def trainAll (s : State) (ds : List Nat) : State := ds.foldl (fun u d => [0, 1].foldl (fun u ch => modDdr u (ddrIx d ch) trainsNow) u) s

/-- With a density the ROM allows on every die that starts, each of their channels begins to train (R303). -/
theorem beginTraining_eq (hwarm : s.power.warmRun = false) (hfail : s.startFailed = false)
    (hdensity : (startingDies s).all (densityOk s) = true) :
    beginTraining s = trainAll s (startingDies s) := by
  have hnone : (startingDies s).filter (fun d => !densityOk s d) = [] := by
    refine List.filter_eq_nil_iff.mpr fun d hd => ?_
    simp [List.all_eq_true.mp hdensity d hd]
  simp only [beginTraining, hnone, List.foldl_nil, hwarm, hfail, Bool.false_eq_true, or_self, if_false]
  rfl

theorem offDdr_modDdr (s : State) (i : Nat) (f : DdrCh → DdrCh) : offDdr (modDdr s i f) = offDdr s := rfl

theorem trainAll_rest (s : State) (ds : List Nat) : offDdr (trainAll s ds) = offDdr s :=
  List.foldlRecOn (motive := fun u => offDdr u = offDdr s) _ _ rfl fun u hu d _ => by
    simp only [List.foldl_cons, List.foldl_nil, offDdr_modDdr, hu]

/-- Whatever channels begin to train, one that is off or trains already does so no less. -/
theorem st_modDdr_trainsNow {i j : Nat} (hst : (ddrAt s i).st = .off ∨ (ddrAt s i).st = .train) :
    (ddrAt (modDdr s j trainsNow) i).st = .off ∨ (ddrAt (modDdr s j trainsNow) i).st = .train := by
  by_cases hij : i = j
  · subst hij
    rw [modDdr, ddrAt_setDdr, st_trainsNow]
    split
    · exact .inr rfl
    · exact hst
  · rwa [modDdr, ddrAt_setDdr_other hij]

theorem st_modDdr_train {i j : Nat} (hst : (ddrAt s i).st = .train) : (ddrAt (modDdr s j trainsNow) i).st = .train := by
  by_cases hij : i = j
  · subst hij
    rw [modDdr, ddrAt_setDdr, st_trainsNow, hst, if_neg (by decide)]
  · rwa [modDdr, ddrAt_setDdr_other hij]

theorem st_modDdr_trainsNow_same {i : Nat} (hst : (ddrAt s i).st = .off ∨ (ddrAt s i).st = .train) :
    (ddrAt (modDdr s i trainsNow) i).st = .train := by
  rw [modDdr, ddrAt_setDdr, st_trainsNow]
  split
  · rfl
  next hoff => exact hst.resolve_left hoff

theorem st_trainAll {ds : List Nat} (hd : d ∈ ds) (hch : ch < 2) (hoff : (ddrAt s (ddrIx d ch)).st = .off) :
    (ddrAt (trainAll s ds) (ddrIx d ch)).st = .train := by
  refine foldl_reaches (P := fun u => (ddrAt u (ddrIx d ch)).st = .train)
    (Q := fun u => (ddrAt u (ddrIx d ch)).st = .off ∨ (ddrAt u (ddrIx d ch)).st = .train) hd (.inl hoff) (fun u hu => ?_)
    (fun u c hu => st_modDdr_trainsNow (st_modDdr_trainsNow hu)) fun u c hu => st_modDdr_train (st_modDdr_train hu)
  have hmem : ch ∈ [0, 1] := by
    interval_cases ch
    · exact List.mem_cons_self
    · exact List.mem_cons_of_mem _ List.mem_cons_self
  exact foldl_reaches (P := fun u => (ddrAt u (ddrIx d ch)).st = .train)
    (Q := fun u => (ddrAt u (ddrIx d ch)).st = .off ∨ (ddrAt u (ddrIx d ch)).st = .train) hmem hu (fun v hv => st_modDdr_trainsNow_same hv)
    (fun v _ hv => st_modDdr_trainsNow hv) fun v _ hv => st_modDdr_train hv

/-! ### The stage -/

/-- The part before training: ports up, store read, SEQ found, and every die that starts at stage 5. -/
def stage4Read (s : State) : State := setStage (scanSeq (readStore (portsUp s))) 5

theorem stageWork_read (s : State) (r : StageResult) : stageWork s 4 r = beginTraining (stage4Read s) := rfl

/-- The state but for the ports, the calibration results, the event log and the records of the dies. -/
def offRecords (s : State) : State := { s with ports := [], cal := {}, log := {}, mgt := [] }

theorem offRecords_fields (h : offRecords t = offRecords s) :
    t.part = s.part ∧ t.power = s.power ∧ t.startFailed = s.startFailed ∧ t.ddr = s.ddr :=
  ⟨(congrArg State.part h :), (congrArg State.power h :), (congrArg State.startFailed h :), (congrArg State.ddr h :)⟩

/-- Which densities a die's channels may have depends on the part (R303). -/
theorem densityOk_congr (h : t.part = s.part) : densityOk t = densityOk s := by
  funext e
  simp only [densityOk, density, h]

theorem setStage_rest (s : State) (n : Nat) : offRecords (setStage s n) = offRecords s := by rw [setStage_frame]; rfl

theorem scanSeq_rest (s : State) : offRecords (scanSeq s) = offRecords s := by rw [scanSeq_frame]; rfl

theorem portsUp_rest (s : State) : offRecords (portsUp s) = offRecords s := by rw [portsUp_frame]; rfl

theorem readStore_rest (s : State) : offRecords (readStore s) = offRecords s := by
  obtain ⟨hframe, -, -⟩ := readStore_spec s
  rw [hframe]
  rfl

theorem stage4Read_rest (s : State) : offRecords (stage4Read s) = offRecords s := by
  rw [stage4Read, setStage_rest, scanSeq_rest, readStore_rest, portsUp_rest]

theorem ports_stage4Read (s : State) : (stage4Read s).ports = (portsUp s).ports := by
  obtain ⟨hread, -, -⟩ := readStore_spec (portsUp s)
  rw [stage4Read, setStage_frame, scanSeq_frame, hread]

theorem cal_stage4Read (s : State) : (stage4Read s).cal.results = (readStore s).cal.results := by
  obtain ⟨-, hresults, -⟩ := readStore_spec s
  obtain ⟨-, hresults', -⟩ := readStore_spec (portsUp s)
  have hcal : (stage4Read s).cal = (readStore (portsUp s)).cal := by rw [stage4Read, setStage_frame, scanSeq_frame]
  have hstored : storedResults (portsUp s) = storedResults s := by rw [portsUp_frame]; rfl
  rw [hcal, hresults, hresults', hstored]

theorem startingDies_scanned (s : State) : startingDies (scanSeq (readStore (portsUp s))) = startingDies s := by
  obtain ⟨hread, -, hresult⟩ := readStore_spec (portsUp s)
  have hscan : startingDies (scanSeq (readStore (portsUp s))) = startingDies (readStore (portsUp s)) := by rw [scanSeq_frame]; rfl
  have hports : startingDies (portsUp s) = startingDies s := by rw [portsUp_frame]; rfl
  rw [hscan, ← hports]
  refine startingDies_congr ?_ ?_ ?_ hresult
  all_goals rw [hread]

theorem stage_stage4Read (hd : d ∈ startingDies s) : (mgtAt (stage4Read s) d).stage = 5 :=
  stage_setStage (n := 5) (startingDies_scanned s ▸ hd)

theorem startingDies_stage4Read (s : State) : startingDies (stage4Read s) = startingDies s := by
  rw [← startingDies_scanned s, stage4Read]
  refine startingDies_congr ?_ ?_ ?_ fun e => mgtAt_modDies_keeps (g := Mgt.result) (f := atStage 5) (fun _ _ => rfl) _ _ e
  all_goals rw [setStage_frame]

/-- Stage 4 (R303, R318, R457, R472): the store's results stand, a channel that was off trains, and the ports between dies that start are up. -/
theorem runs_stage4 (hst : s.power.st = .starting) (hpor : s.power.porAsserted = false) (hfail : s.startFailed = false) (hfailed : r.failed = [])
    (hstage : (mgtAt s 0).stage = 4) (hwarm : s.power.warmRun = false) (hdensity : (startingDies s).all (densityOk s) = true) :
    Runs (.startupStageDone r) s (fun t => (∀ d, d ∈ startingDies s → (mgtAt t d).stage = 5) ∧ t.cal.results = (readStore s).cal.results ∧
      (∀ d ch, d ∈ startingDies s → ch < 2 → (ddrAt s (ddrIx d ch)).st = .off → (ddrAt t (ddrIx d ch)).st = .train) ∧
      (∀ d p e, d ∈ startingDies s → p < 4 → portPeer? s.part.dies d p = some e → e ∈ startingDies s → (portAt t (4 * d + p)).st = .up)) := by
  refine runs_of_stageWork hst hpor hfail hfailed (n := 4) hstage (by decide) ?_
  obtain ⟨hpart, hpower, hsf, hddr⟩ := offRecords_fields (stage4Read_rest s)
  have hdensity' : (startingDies (stage4Read s)).all (densityOk (stage4Read s)) = true := by
    rwa [startingDies_stage4Read, densityOk_congr hpart]
  rw [stageWork_read, beginTraining_eq (hpower ▸ hwarm) (hsf ▸ hfail) hdensity', startingDies_stage4Read]
  have htrained := trainAll_rest (stage4Read s) (startingDies s)
  generalize hu : stage4Read s = u at *
  refine ⟨fun d hd => ?_, ?_, fun d ch hd hch hoff => st_trainAll hd hch ?_, fun d p e hd hp hpeer he => ?_⟩
  · have hmgt : mgtAt (trainAll u (startingDies s)) d = mgtAt u d := (congrArg (fun v : State => mgtAt v d) htrained :)
    rw [hmgt, ← hu]
    exact stage_stage4Read hd
  · rw [← cal_stage4Read s, hu]
    exact (congrArg (fun v : State => v.cal.results) htrained :)
  · rwa [ddrAt, hddr]
  · have hport : portAt (trainAll u (startingDies s)) (4 * d + p) = portAt u (4 * d + p) :=
      (congrArg (fun v : State => portAt v (4 * d + p)) htrained :)
    rw [hport, portAt, ← hu, ports_stage4Read]
    exact st_portsUp hd hp hpeer he

end Sys2Proof.Proofs
end

section
/-! PROOFS. Stage 5 of start-up (R271, R318, R472): the channels run, the dies return to service, and the load of the pins' slot begins. -/

open Sys2Proof Sys2Proof.Machine Sys2Proof.Claims

namespace Sys2Proof.Proofs

variable {s t : State} {d e ch i : Nat} {r : StageResult}

/-! ### Channels whose training ends -/

theorem endTraining_channelChange : ChannelChange s (endTraining s d ch) := by
  unfold endTraining
  extract_lets c
  split
  next htrains =>
    refine setDdr_channelChange (iff_of_false DdrState.noConfusion fun hretired => ?_)
    rcases htrains with h | h <;> exact DdrState.noConfusion (h.symm.trans hretired)
  next => exact channelChange_refl

theorem st_endTraining (s : State) (d ch i : Nat) : (ddrAt (endTraining s d ch) i).st =
    if i = ddrIx d ch ∧ ((ddrAt s i).st = .train ∨ (ddrAt s i).st = .retrain) then .active else (ddrAt s i).st := by
  by_cases htrains : (ddrAt s (ddrIx d ch)).st = .train ∨ (ddrAt s (ddrIx d ch)).st = .retrain
  · simp only [endTraining, if_pos htrains]
    by_cases hi : i = ddrIx d ch
    · rw [hi, ddrAt_setDdr]
      exact (if_pos ⟨rfl, htrains⟩).symm
    · rw [ddrAt_setDdr_other hi, if_neg fun h => hi h.1]
  · simp only [endTraining, if_neg htrains]
    rw [if_neg]
    rintro ⟨rfl, h⟩
    exact htrains h

/-- A channel that trains, retrains or runs. -/
def Trainable (s : State) (i : Nat) : Prop := (ddrAt s i).st = .train ∨ (ddrAt s i).st = .retrain ∨ (ddrAt s i).st = .active

theorem endTraining_trainable (h : Trainable s i) : Trainable (endTraining s d ch) i := by
  unfold Trainable
  rw [st_endTraining]
  split
  · exact .inr (.inr rfl)
  · exact h

theorem endTraining_keeps_active (h : (ddrAt s i).st = .active) : (ddrAt (endTraining s d ch) i).st = .active := by
  rw [st_endTraining, h, ite_self]

theorem endTraining_active (h : Trainable s (ddrIx d ch)) : (ddrAt (endTraining s d ch) (ddrIx d ch)).st = .active := by
  rw [st_endTraining]
  split
  · rfl
  next hruns => exact (or_assoc.mpr h).resolve_left fun htrains => hruns ⟨rfl, htrains⟩

/-! ### Dies that return to service -/

/-- Of `s` the part, the DRAM channels and the Dialect's registers stand in `t` besides what `FaultKept` keeps. -/
def UnitsUnfenced (s t : State) : Prop := FaultKept s t ∧ t.part = s.part ∧ t.ddr = s.ddr ∧ t.dia = s.dia

theorem unitsUnfenced_foldl {α : Type} {f : State → α → State} {l : List α} (ht : UnitsUnfenced s t)
    (hf : ∀ u a, a ∈ l → UnitsUnfenced s u → UnitsUnfenced s (f u a)) : UnitsUnfenced s (l.foldl f t) :=
  List.foldlRecOn (motive := UnitsUnfenced s) l f ht fun u hu a ha => hf u a ha hu

theorem putFence_fields (s : State) (u : FUnit) (f : Fence) :
    (putFence s u f).part = s.part ∧ (putFence s u f).ddr = s.ddr ∧ (putFence s u f).dia = s.dia := by
  unfold putFence
  split <;> exact ⟨rfl, rfl, rfl⟩

theorem changeFence_unitsUnfenced {u st reason} (hu : u.place < 142) (ht : UnitsUnfenced s t) : UnitsUnfenced s (changeFence t u st reason) := by
  obtain ⟨hkept, hpart, hddr, hdia⟩ := ht
  obtain ⟨hpart', hddr', hdia'⟩ := putFence_fields t u { fenceOf t u with st := st, reason := BitVec.ofNat 8 reason, time := tb64 t }
  exact ⟨changeFence_faultKept hu hkept, hpart'.trans hpart, hddr'.trans hddr, hdia'.trans hdia⟩

/-- The units that a die's fence took return with it (R271). -/
theorem unfenceDie_unitsUnfenced (hfenced : isFenced s (.die d) = true) :
    UnitsUnfenced (changeFence s (.die d) .unfenced 8) (unfenceDie s d) := by
  unfold unfenceDie
  rw [hfenced, Bool.not_true, if_neg Bool.false_ne_true]
  extract_lets mine t1 t2 t3 t4 t5 hs
  have h1 : UnitsUnfenced t1 t1 := ⟨faultKept_refl, rfl, rfl, rfl⟩
  have hplace : ∀ {n m : Nat} {p : Nat → Bool}, n ∈ (List.range m).filter p → n < m := fun h => List.mem_range.mp (List.mem_of_mem_filter h)
  have h2 : UnitsUnfenced t1 t2 := unitsUnfenced_foldl h1 fun u k hk hu =>
    changeFence_unitsUnfenced (t := modClause u _ _) (by have := hplace hk; simp only [FUnit.place]; omega) hu
  have h3 : UnitsUnfenced t1 t3 := unitsUnfenced_foldl h2 fun u k hk hu =>
    changeFence_unitsUnfenced (t := modLane u _ _) (by have := hplace hk; simp only [FUnit.place]; omega) hu
  have h4 : UnitsUnfenced t1 t4 := unitsUnfenced_foldl h3 fun u k hk hu =>
    changeFence_unitsUnfenced (t := modDma u _ _) (by have := hplace hk; simp only [FUnit.place]; omega) hu
  have h5 : UnitsUnfenced t1 t5 := unitsUnfenced_foldl h4 fun u k hk hu =>
    changeFence_unitsUnfenced (t := modAxis u _ _) (by simp only [FUnit.place]; omega) hu
  exact unitsUnfenced_foldl h5 fun _ _ _ hu => hu

/-- What the end of a die's part in stage 5 leaves: no die is fenced anew, no channel is retired, and the records of the dies stand. -/
structure StartKept (s t : State) : Prop where
  part : t.part = s.part
  mgt : t.mgt = s.mgt
  dia : t.dia = s.dia
  retired : SameRetired s t
  fences : ∀ e, isFenced t (.die e) = true → fenceOf t (.die e) = fenceOf s (.die e)

theorem startKept_refl : StartKept s s := ⟨rfl, rfl, rfl, sameRetired_refl, fun _ _ => rfl⟩

theorem StartKept.trans {u : State} (h : StartKept s t) (h' : StartKept t u) : StartKept s u := by
  refine ⟨h'.part.trans h.part, h'.mgt.trans h.mgt, h'.dia.trans h.dia, h.retired.trans h'.retired, fun e he => ?_⟩
  have heq := h'.fences e he
  exact heq.trans (h.fences e (by rwa [isFenced, ← heq]))

theorem ChannelChange.startKept (h : ChannelChange s t) : StartKept s t :=
  ⟨(congrArg State.part h.rest :), (congrArg State.mgt h.rest :), (congrArg State.dia h.rest :), h.retired,
    fun e _ => (congrArg (fun u : State => fenceOf u (.die e)) h.rest :)⟩

theorem fenceOf_changeFence_die_other {st : FenceState} {reason : Nat} (h : e ≠ d) :
    fenceOf (changeFence s (.die d) st reason) (.die e) = fenceOf s (.die e) :=
  sget_sput_other ({} : Fence) s.fences (dieFence d) (dieFence e) _ (by unfold dieFence; omega)

theorem unfenceDie_spec (s : State) (d : Nat) : StartKept s (unfenceDie s d) ∧ (unfenceDie s d).ddr = s.ddr := by
  cases hfenced : isFenced s (.die d) with
  | false =>
    have hsame : unfenceDie s d = s := by rw [unfenceDie, hfenced, Bool.not_false, if_pos rfl]
    rw [hsame]
    exact ⟨startKept_refl, rfl⟩
  | true =>
    obtain ⟨⟨hmgt, -, -, hdies⟩, hpart, hddr, hdia⟩ := unfenceDie_unitsUnfenced hfenced
    refine ⟨⟨hpart, hmgt, hdia, fun i => ?_, fun e he => ?_⟩, hddr⟩
    · rw [ddrAt, hddr]
      rfl
    · rw [isFenced, fenceOf_die, hdies e] at he
      rw [fenceOf_die, hdies e]
      by_cases hed : e = d
      · rw [hed, ← fenceOf_die, fenceOf_changeFence_die] at he
        exact absurd he Bool.false_ne_true
      · exact fenceOf_changeFence_die_other hed

theorem StartKept.mem_startingDies (h : StartKept s t) (he : e ∈ startingDies s) : e ∈ startingDies t := by
  obtain ⟨hlt, hstarts, hresult⟩ := Proofs.mem_startingDies.mp he
  refine Proofs.mem_startingDies.mpr ⟨h.part ▸ hlt, ?_, by rwa [mgtAt, h.mgt]⟩
  cases hfenced : isFenced t (.die e) with
  | false => rw [dieStarts, hfenced, Bool.false_and, Bool.not_false]
  | true =>
    have hfence := h.fences e hfenced
    have hret : ∀ i, ((ddrAt t i).st == .retired) = ((ddrAt s i).st == .retired) := fun i => by
      rw [Bool.eq_iff_iff, beq_iff_eq, beq_iff_eq, h.retired i]
    rw [← hstarts, dieStarts, dieStarts, isFenced, isFenced, hfence, hret, hret]

/-! ### The stage -/

/-- A die's part in the end of stage 5: both its channels run, and it returns to service. -/
def dieReady (s : State) (d : Nat) : State := unfenceDie (endTraining (endTraining s d 0) d 1) d

theorem dieReady_startKept : StartKept s (dieReady s d) := by
  obtain ⟨hkept, -⟩ := unfenceDie_spec (endTraining (endTraining s d 0) d 1) d
  exact (endTraining_channelChange.trans endTraining_channelChange).startKept.trans hkept

theorem ddrAt_dieReady (s : State) (d i : Nat) : ddrAt (dieReady s d) i = ddrAt (endTraining (endTraining s d 0) d 1) i := by
  obtain ⟨-, hddr⟩ := unfenceDie_spec (endTraining (endTraining s d 0) d 1) d
  rw [ddrAt, dieReady, hddr]
  rfl

theorem st_foldl_dieReady {ds : List Nat} (hd : d ∈ ds) (hch : ch < 2)
    (htrains : (ddrAt s (ddrIx d ch)).st = .train ∨ (ddrAt s (ddrIx d ch)).st = .retrain) :
    (ddrAt (ds.foldl dieReady s) (ddrIx d ch)).st = .active := by
  refine foldl_reaches (P := fun u => (ddrAt u (ddrIx d ch)).st = .active) (Q := fun u => Trainable u (ddrIx d ch)) hd
    (or_assoc.mp (.inl htrains)) (fun u hu => ?_) (fun u e hu => ?_) fun u e hu => ?_
  · rw [ddrAt_dieReady]
    interval_cases ch
    · exact endTraining_keeps_active (endTraining_active hu)
    · exact endTraining_active (endTraining_trainable hu)
  · rw [Trainable, ddrAt_dieReady]
    exact endTraining_trainable (endTraining_trainable hu)
  · rw [ddrAt_dieReady]
    exact endTraining_keeps_active (endTraining_keeps_active hu)

theorem verifyFails_of_nil (hverify : r.verifyBad = []) : verifyFails s r = s := by rw [verifyFails, hverify]; rfl

theorem stageWork_waits (hverify : r.verifyBad = []) (hwait : (startingDies s).any (fun d => trainsFully s d 0 || trainsFully s d 1) = true) :
    stageWork s 5 r = s := by
  simp only [stageWork, verifyFails_of_nil hverify, if_pos hwait]

theorem stageWork_ready (hverify : r.verifyBad = []) (hready : (startingDies s).any (fun d => trainsFully s d 0 || trainsFully s d 1) = false) :
    stageWork s 5 r =
      beginLoad (setStage ((startingDies s).foldl dieReady s) 6) (setStage ((startingDies s).foldl dieReady s) 6).dia.pinSlot.toNat none := by
  have hdia : ∀ u, (setStage u 6).dia = u.dia := fun u => by rw [setStage_frame]
  simp only [stageWork, verifyFails_of_nil hverify, hready, Bool.false_eq_true, if_false, hdia]
  rfl

section Clean

variable (hst : s.power.st = .starting) (hpor : s.power.porAsserted = false) (hfail : s.startFailed = false) (hfailed : r.failed = [])
  (hverify : r.verifyBad = []) (hstage : (mgtAt s 0).stage = 5)

include hst hpor hfail hfailed hverify hstage

/-- Stage 5 waits for a channel that has still to train in full (R318, R472). -/
theorem exec_stage5_waits (hwait : (startingDies s).any (fun d => trainsFully s d 0 || trainsFully s d 1) = true) :
    exec (.startupStageDone r) s = .next s := by
  obtain ⟨t, hexec, ht⟩ := runs_of_stageWork (s := s) (P := (· = s)) hst hpor hfail hfailed (n := 5) hstage (by decide)
    (stageWork_waits hverify hwait)
  rw [hexec, ht]

theorem runs_stage5 (hready : (startingDies s).all (fun d => !trainsFully s d 0 && !trainsFully s d 1) = true) :
    Runs (.startupStageDone r) s (fun t => (∀ d, d ∈ startingDies s → (mgtAt t d).stage = 6) ∧
      t.load = some { slot := s.dia.pinSlot.toNat, cmd := none } ∧ t.dia.gstate = (if s.dia.valid then .switching else .loading) ∧
      ∀ d ch, d ∈ startingDies s → ch < 2 → ((ddrAt s (ddrIx d ch)).st = .train ∨ (ddrAt s (ddrIx d ch)).st = .retrain) →
        (ddrAt t (ddrIx d ch)).st = .active) := by
  have hnone : (startingDies s).any (fun d => trainsFully s d 0 || trainsFully s d 1) = false := by
    rw [List.any_eq_false]
    intro d hd
    simpa using List.all_eq_true.mp hready d hd
  refine runs_of_stageWork hst hpor hfail hfailed (n := 5) hstage (by decide) ?_
  have hkept : StartKept s ((startingDies s).foldl dieReady s) :=
    List.foldlRecOn (motive := StartKept s) _ _ startKept_refl fun _ hu _ _ => hu.trans dieReady_startKept
  have hactive : ∀ d ch, d ∈ startingDies s → ch < 2 → ((ddrAt s (ddrIx d ch)).st = .train ∨ (ddrAt s (ddrIx d ch)).st = .retrain) →
      (ddrAt ((startingDies s).foldl dieReady s) (ddrIx d ch)).st = .active := fun d ch hd hch h => st_foldl_dieReady hd hch h
  rw [stageWork_ready hverify hnone]
  generalize (startingDies s).foldl dieReady s = v at hkept hactive
  have hframe := setStage_frame v 6
  have hstage6 : ∀ d, d ∈ startingDies s → (mgtAt (setStage v 6) d).stage = 6 := fun d hd => stage_setStage (hkept.mem_startingDies hd)
  have hdia : (setStage v 6).dia = s.dia := by rw [hframe, ← hkept.dia]
  have hddr : (setStage v 6).ddr = v.ddr := by rw [hframe]
  generalize setStage v 6 = w at hstage6 hdia hddr
  refine ⟨hstage6, by rw [← hdia]; rfl, by rw [← hdia]; rfl, fun d ch hd hch h => ?_⟩
  rw [← hactive d ch hd hch h, ddrAt, ddrAt, ← hddr]
  rfl

end Clean

end Sys2Proof.Proofs
end

section
/-! PROOFS. Start-up that fails (R263, R303, R350, R473, R474): a die that fails a stage, and the power-up load limit. -/

open Sys2Proof Sys2Proof.Machine Sys2Proof.Claims

namespace Sys2Proof.Proofs

variable {s t : State} {d : Nat} {r : StageResult} {c : BitVec 8}

/-! ### Dies that fail a stage -/

theorem exec_startupStageDone_of_not_starting (hst : s.power.st ≠ .starting) (r : StageResult) : exec (.startupStageDone r) s = .next s := by
  rw [exec_startupStageDone, doStartupStageDone, if_pos (.inl hst)]

theorem die0Fails_eq (hc : c ≠ 3) (s : State) : ∃ u, (u = recordFailed { s with startFailed := true } 0 c ∨
      u = scanSeq (recordFailed { s with startFailed := true } 0 c)) ∧
    die0Fails s c = { u with power := { u.power with st := .ready, target := .ready }, pcie := { u.pcie with retry := false } } := by
  simp only [die0Fails, if_neg hc]
  split
  · exact ⟨_, .inr rfl, rfl⟩
  · exact ⟨_, .inl rfl, rfl⟩

/-- Die 0 fails start-up, which ends as after a failed load (R474). -/
theorem die0Fails_spec (hc : c ≠ 3) (s : State) : (die0Fails s c).startFailed = true ∧ (die0Fails s c).power.st = .ready ∧
    (die0Fails s c).pcie.retry = false ∧ (mgtAt (die0Fails s c) 0).result = 2 ∧ (mgtAt (die0Fails s c) 0).startCause = c := by
  obtain ⟨u, hu, heq⟩ := die0Fails_eq hc s
  have hrecorded : u.startFailed = true ∧ u.mgt = (recordFailed { s with startFailed := true } 0 c).mgt := by
    rcases hu with rfl | rfl
    · exact ⟨rfl, rfl⟩
    · rw [scanSeq_frame]
      exact ⟨rfl, rfl⟩
  obtain ⟨hfailed, hmgt⟩ := hrecorded
  have hdie : mgtAt (die0Fails s c) 0 = mgtAt (recordFailed { s with startFailed := true } 0 c) 0 := by rw [mgtAt, mgtAt, heq, ← hmgt]
  rw [hdie, recordFailed, mgtAt_modMgt_same, heq]
  exact ⟨hfailed, rfl, rfl, rfl, rfl⟩

theorem runs_die0Fails (hst : s.power.st = .starting) (hpor : s.power.porAsserted = false) (hfail : s.startFailed = false)
    (hstage : (mgtAt s 0).stage.toNat < 6) (hfailed : r.failed = [(0, c)]) (hc : c ≠ 3) (hzero : 0 ∈ startingDies s) :
    Runs (.startupStageDone r) s (fun t => t.startFailed = true ∧ t.power.st = .ready ∧ t.pcie.retry = false ∧ (mgtAt t 0).result = 2 ∧
      (mgtAt t 0).startCause = c) := by
  obtain ⟨hlt, hstarts, hresult⟩ := mem_startingDies.mp hzero
  have hspec := die0Fails_spec hc s
  have hdies : dieFails s (0, c) = die0Fails s c := rfl
  have hfilter : [((0 : Nat), c)].filter (fun p => dieOk s p.1 && dieStarts s p.1 && (mgtAt s p.1).result != 2) = [(0, c)] := by
    have hnot : ((mgtAt s 0).result != 2) = true := bne_iff_ne.mpr hresult
    have hok : dieOk s 0 = true := decide_eq_true hlt
    rw [List.filter_cons_of_pos (by simp only [hok, hstarts, hnot, Bool.and_self]), List.filter_nil]
  have hdone : doStartupStageDone s r = die0Fails s c := by
    simp only [doStartupStageDone, hst, hpor, hfail, hfailed, hfilter, List.foldl_cons, List.foldl_nil, hdies, hspec.1, ne_eq, not_true_eq_false,
      Bool.false_eq_true, Nat.not_le.mpr hstage, or_self, if_false, if_true]
  exact ⟨_, (exec_startupStageDone r s).trans (congrArg _ hdone), hspec⟩

/-- A die other than die 0 that fails a stage: the fence's reason is NO_SETTING for the densities the ROM refuses, else DIE (R303, R473). -/
theorem dieFails_spec (hd : 0 < d) (hlt : d < s.part.dies) (hlive : isFenced s (.die d) = false) :
    (fenceOf (dieFails s (d, c)) (.die d)).st = .fenced ∧ (fenceOf (dieFails s (d, c)) (.die d)).reason = (if c = 5 then 3 else 8) ∧
      (mgtAt (dieFails s (d, c)) d).result = 2 ∧ (mgtAt (dieFails s (d, c)) d).startCause = c := by
  have hne : d ≠ 0 := Nat.ne_of_gt hd
  have hlive' : isFenced (recordFailed s d c) (.die d) = false := hlive
  have heq : dieFails s (d, c) = dieFault (recordFailed s d c) d (if c = 5 then 3 else 8) := by
    simp only [dieFails, dieFailsFor, if_neg hne, hlive', Bool.false_eq_true, if_false]
  obtain ⟨hst, hreason, hmgt⟩ := dieFault_spec (s := recordFailed s d c) (reason := if c = 5 then 3 else 8) hne (decide_eq_true hlt) hlive'
  have hdie : mgtAt (dieFault (recordFailed s d c) d (if c = 5 then 3 else 8)) d = mgtAt (recordFailed s d c) d := by rw [mgtAt, mgtAt, hmgt]
  rw [heq, hst, hreason, hdie, recordFailed, mgtAt_modMgt_same]
  refine ⟨rfl, ?_, rfl, rfl⟩
  split <;> rfl

/-! ### What a load that fails leaves of the load limit -/

theorem clauseDown_faultKept {x : Nat} (ht : FaultKept s t) : FaultKept s (clauseDown t x) := by
  unfold clauseDown
  extract_lets c
  exact faultKept_ite ht (powerOffClause_faultKept (t := setClause t x _) ht)

theorem noDialect_faultKept (ht : FaultKept s t) : FaultKept s (noDialect t) := by
  have hdown : FaultKept s (dmaDown ((allClauses t).foldl clauseDown t)) :=
    faultKept_foldl (faultKept_foldl ht fun _ _ _ hu => clauseDown_faultKept hu) fun _ _ _ hu => hu
  exact hdown

theorem groupsUnknown_faultKept (ht : FaultKept s t) : FaultKept s (groupsUnknown t) := faultKept_foldl ht fun _ _ _ hu => hu

theorem limitPassed_complete (s : State) {h : CmdHdr} {opcode status : Nat} {result : List Byte} :
    (complete s h opcode status result).pcie.limitPassed = s.pcie.limitPassed := by
  obtain ⟨-, -, hlimit, -⟩ := complete_faultKept (h := h) (opcode := opcode) (status := status) (result := result) (faultKept_refl (s := s))
  exact hlimit

theorem limitPassed_endSelect (s : State) (status : Nat) (result : List Byte) :
    (endSelect s status result).pcie.limitPassed = s.pcie.limitPassed := by
  unfold endSelect
  split
  · exact limitPassed_complete _
  · rfl

theorem limitPassed_endStartup (s : State) : (endStartup s).pcie.limitPassed = s.pcie.limitPassed := by
  unfold endStartup
  extract_lets t1 t2
  have h1 : t1.pcie.limitPassed = s.pcie.limitPassed :=
    List.foldlRecOn (motive := fun u : State => u.pcie.limitPassed = s.pcie.limitPassed) _ _ rfl fun u hu d _ => by
      split
      · exact hu
      · exact hu
  exact h1

theorem limitPassed_endLoad (s : State) (slot : Nat) (f : Fail) (gid : Nat) : (endLoad s slot f gid).pcie.limitPassed = s.pcie.limitPassed := by
  unfold endLoad
  extract_lets t1
  have h1 : t1.pcie.limitPassed = s.pcie.limitPassed := rfl
  split
  · split
    · exact (limitPassed_endSelect ..).trans h1
    · exact (limitPassed_endSelect ..).trans h1
  · split
    · exact (limitPassed_endStartup _).trans h1
    · exact h1

theorem limitPassed_loadFailed (s : State) (j : LoadJob) (f : Fail) (gid : Nat) : (loadFailed s j f gid).pcie.limitPassed = s.pcie.limitPassed := by
  unfold loadFailed
  extract_lets t1 t2 t3 _ _ t4
  have h2 : FaultKept s t2 := faultKept_foldl (groupsUnknown_faultKept (noDialect_faultKept (t := t1) faultKept_refl)) fun _ _ _ hu => hu
  have h4 : FaultKept s t4 := faultKept_ite h2 faultKept_refl
  obtain ⟨-, -, hlimit, -⟩ := h4
  exact (limitPassed_endLoad ..).trans hlimit

/-- A load that fails is over, with its code (R66, R70). -/
theorem failCode_loadFailed (s : State) (j : LoadJob) (f : Fail) (gid : Nat) :
    (loadFailed s j f gid).load = none ∧ (loadFailed s j f gid).dia.failCode = BitVec.ofNat 8 f.1 := by
  cases hsecond : j.second with
  | false =>
    obtain ⟨hload, hdia, -, -⟩ := loadFailed_first s j f gid hsecond
    exact ⟨hload, by rw [hdia]⟩
  | true =>
    obtain ⟨hload, -, -, hcode, -, -⟩ := loadFailed_second s j f gid hsecond
    exact ⟨hload, hcode⟩

/-! ### The power-up load limit -/

theorem exec_powerUpLoadLimit (s : State) : exec .powerUpLoadLimit s = .next (doPowerUpLoadLimit s) := rfl

theorem exec_powerUpLoadLimit_of_no_retry (h : s.pcie.perst = true ∨ s.pcie.retry = false) : exec .powerUpLoadLimit s = .next s := by
  rw [exec_powerUpLoadLimit, doPowerUpLoadLimit, if_pos]
  simpa using h

section Limit

variable (hperst : s.pcie.perst = false) (hretry : s.pcie.retry = true)

include hperst hretry

theorem exec_powerUpLoadLimit_idle (hload : s.load = none) : exec .powerUpLoadLimit s =
    .next (if s.startFailed then { s with pcie := { s.pcie with limitPassed := true, retry := false } }
      else { s with pcie := { s.pcie with limitPassed := true } }) := by
  simp only [exec_powerUpLoadLimit, doPowerUpLoadLimit, hperst, hretry, hload, Bool.not_true, Bool.false_eq_true, or_self, if_false]

theorem runs_powerUpLoadLimit {j : LoadJob} (hload : s.load = some j) :
    Runs .powerUpLoadLimit s (fun t => t.load = none ∧ t.pcie.limitPassed = true ∧ t.dia.failCode = 0x1B) := by
  have hdone : doPowerUpLoadLimit s = loadFailed { s with pcie := { s.pcie with limitPassed := true } } j (0x1B, noSect) 0 := by
    simp only [doPowerUpLoadLimit, hperst, hretry, hload, Bool.not_true, Bool.false_eq_true, or_self, if_false]
  obtain ⟨hended, hcode⟩ := failCode_loadFailed { s with pcie := { s.pcie with limitPassed := true } } j (0x1B, noSect) 0
  exact ⟨_, (exec_powerUpLoadLimit s).trans (congrArg _ hdone), hended, limitPassed_loadFailed .., hcode⟩

end Limit

end Sys2Proof.Proofs
end

section
/-! PROOFS. Lost references and lost PLLs (R463), and the obligation on start-up and the clocks. -/

open Sys2Proof Sys2Proof.Machine Sys2Proof.Claims

namespace Sys2Proof.Proofs

variable {s t : State} {d pll : Nat}

/-! ### Clocks that are lost -/

theorem live_of_clocksRun (h : clocksRun s d = true) : dieOk s d = true ∧ isFenced s (.die d) = false := by
  simp only [clocksRun, dieLive, Bool.and_eq_true, Bool.not_eq_true'] at h
  obtain ⟨⟨⟨hlive, -⟩, -⟩, -⟩ := h
  exact hlive

/-- A die in service whose record alone was changed is fenced with reason DIE, and the record stands (R263, R463). -/
theorem dieFault_setMgt (hd : 0 < d) (hrun : clocksRun s d = true) (m : Mgt) :
    (fenceOf (dieFault (setMgt s d m) d 8) (.die d)).st = .fenced ∧ (fenceOf (dieFault (setMgt s d m) d 8) (.die d)).reason = 8 ∧
      mgtAt (dieFault (setMgt s d m) d 8) d = m := by
  obtain ⟨hok, hlive⟩ := live_of_clocksRun hrun
  obtain ⟨hst, hreason, hmgt⟩ := dieFault_spec (s := setMgt s d m) (reason := 8) (Nat.ne_of_gt hd) hok hlive
  exact ⟨hst, hreason, by rw [mgtAt, hmgt]; exact mgtAt_setMgt ..⟩

/-! ### The reference -/

theorem exec_refLoss (d : Nat) (s : State) : exec (.refLoss d) s = .next (doRefLoss s d) := rfl

theorem doRefLoss_of_run (hrun : clocksRun s d = true) :
    doRefLoss s d = dieFault (setMgt s d { mgtAt s d with refloss := satInc (mgtAt s d).refloss }) d 8 := by
  simp only [doRefLoss, hrun, Bool.not_true, Bool.false_eq_true, if_false]
  rfl

theorem exec_refLoss_stopped (hrun : clocksRun s d = false) : exec (.refLoss d) s = .next s := by
  simp only [exec_refLoss, doRefLoss, hrun, Bool.not_false, if_true]

theorem runs_refLoss (hd : 0 < d) (hrun : clocksRun s d = true) : Runs (.refLoss d) s (fun t =>
    (fenceOf t (.die d)).st = .fenced ∧ (fenceOf t (.die d)).reason = 8 ∧ (mgtAt t d).refloss = satInc (mgtAt s d).refloss) := by
  obtain ⟨hst, hreason, hmgt⟩ := dieFault_setMgt hd hrun { mgtAt s d with refloss := satInc (mgtAt s d).refloss }
  exact ⟨_, (exec_refLoss d s).trans (congrArg _ (doRefLoss_of_run hrun)), hst, hreason, by rw [hmgt]⟩

theorem runs_refLoss_die0 (hrun : clocksRun s 0 = true) : Runs (.refLoss 0) s (fun t => t.die0Fault = true) := by
  obtain ⟨hok, -⟩ := live_of_clocksRun hrun
  exact ⟨_, (exec_refLoss 0 s).trans (congrArg _ (doRefLoss_of_run hrun)), die0Fault_dieFault hok⟩

/-! ### The PLLs -/

/-- A die's record once a PLL has lost lock: LOL counts it, and but for PLL 3, which trains its links again, it reads unlocked. -/
def pllLost (m : Mgt) (pll : Nat) : Mgt :=
  { m with lol := satInc m.lol, pllLock := if pll = 3 then m.pllLock else m.pllLock &&& ~~~(1#5 <<< pll) }

theorem exec_pllLockLoss (d pll : Nat) (s : State) : exec (.pllLockLoss d pll) s = .next (doPllLockLoss s d pll) := rfl

theorem exec_pllLockLoss_stopped (h : clocksRun s d = false ∨ (mgtAt s d).pllLock.getLsbD pll = false ∨ (s.power.st = .sleep ∧ 1 ≤ pll ∧ pll ≤ 3)) :
    exec (.pllLockLoss d pll) s = .next s := by
  rw [exec_pllLockLoss, doPllLockLoss, if_pos]
  simpa using h

/-- The links of a die that PLL 3 sends to their fast retrain: those ACTIVE. -/
def linksActive (s : State) (d : Nat) : List (Nat × Nat) := (allLinks s).filter (fun p => p.1 == d && (linkAt s (linkIx d p.2)).st == .active)

theorem doPllLockLoss_of_run (hrun : clocksRun s d = true) (hlock : (mgtAt s d).pllLock.getLsbD pll = true)
    (hon : s.power.st = .sleep → ¬(1 ≤ pll ∧ pll ≤ 3)) :
    doPllLockLoss s d pll =
      let u := setMgt s d (pllLost (mgtAt s d) pll)
      if pll ≤ 2 then dieFault u d 8 else if pll = 3 then (linksActive s d).foldl (fun v p => fastAnew v d p.2) u
      else { u with pcie := { u.pcie with linkUp := false } } := by
  have hcond : ¬((!clocksRun s d) = true ∨ (!(mgtAt s d).pllLock.getLsbD pll) = true ∨ (s.power.st = .sleep ∧ 1 ≤ pll ∧ pll ≤ 3)) := by
    rw [hrun, hlock]
    simpa using hon
  simp only [doPllLockLoss, if_neg hcond]
  rfl

theorem runs_pllLockLoss (hd : 0 < d) (hrun : clocksRun s d = true) (hsleep : s.power.st ≠ .sleep) (hpll : pll ≤ 2)
    (hlock : (mgtAt s d).pllLock.getLsbD pll = true) : Runs (.pllLockLoss d pll) s (fun t =>
      (fenceOf t (.die d)).st = .fenced ∧ (fenceOf t (.die d)).reason = 8 ∧ (mgtAt t d).lol = satInc (mgtAt s d).lol) := by
  have hdone := (doPllLockLoss_of_run hrun hlock fun h => absurd h hsleep).trans (if_pos hpll)
  obtain ⟨hst, hreason, hmgt⟩ := dieFault_setMgt hd hrun (pllLost (mgtAt s d) pll)
  exact ⟨_, (exec_pllLockLoss d pll s).trans (congrArg _ hdone), hst, hreason, by rw [hmgt]; rfl⟩

theorem runs_pllLockLoss_die0 (hrun : clocksRun s 0 = true) (hsleep : s.power.st ≠ .sleep) (hpll : pll ≤ 2)
    (hlock : (mgtAt s 0).pllLock.getLsbD pll = true) : Runs (.pllLockLoss 0 pll) s (fun t => t.die0Fault = true) := by
  obtain ⟨hok, -⟩ := live_of_clocksRun hrun
  have hdone := (doPllLockLoss_of_run hrun hlock fun h => absurd h hsleep).trans (if_pos hpll)
  exact ⟨_, (exec_pllLockLoss 0 pll s).trans (congrArg _ hdone), die0Fault_dieFault (s := setMgt s 0 _) hok⟩

/-- PLL 3 takes the die's ACTIVE links to RETRAIN and no other (R463). -/
theorem runs_pllLockLoss_links (hrun : clocksRun s d = true) (hsleep : s.power.st ≠ .sleep) (hlock : (mgtAt s d).pllLock.getLsbD 3 = true) :
    Runs (.pllLockLoss d 3) s (fun t => (mgtAt t d).lol = satInc (mgtAt s d).lol ∧ ∀ l, (d, l) ∈ allLinks s →
      (linkAt t (linkIx d l)).st = if (linkAt s (linkIx d l)).st = .active then .retrain else (linkAt s (linkIx d l)).st) := by
  have hdone := doPllLockLoss_of_run hrun hlock fun h => absurd h hsleep
  refine ⟨_, (exec_pllLockLoss d 3 s).trans (congrArg _ hdone), ?_, fun l hl => ?_⟩
  · obtain ⟨hmgt, -⟩ := foldl_fastAnew (linksActive s d) (setMgt s d (pllLost (mgtAt s d) 3)) d 0
    have hdie : mgtAt ((linksActive s d).foldl (fun v p => fastAnew v d p.2) (setMgt s d (pllLost (mgtAt s d) 3))) d = pllLost (mgtAt s d) 3 := by
      rw [mgtAt, hmgt]
      exact mgtAt_setMgt ..
    exact congrArg Mgt.lol hdie
  · obtain ⟨-, hst⟩ := foldl_fastAnew (linksActive s d) (setMgt s d (pllLost (mgtAt s d) 3)) d l
    have hmem : l ∈ (linksActive s d).map (fun p => p.2) ↔ (linkAt s (linkIx d l)).st = .active := by
      simp only [linksActive, List.mem_map, List.mem_filter, Bool.and_eq_true, beq_iff_eq]
      constructor
      · rintro ⟨p, ⟨-, -, hactive⟩, rfl⟩
        exact hactive
      · exact fun hactive => ⟨(d, l), ⟨hl, rfl, hactive⟩, rfl⟩
    refine hst.trans ?_
    simp only [hmem]
    rfl

/-- PLL 4 is the PCIe link's (R463). -/
theorem runs_pllLockLoss_pcie (hrun : clocksRun s 0 = true) (hlock : (mgtAt s 0).pllLock.getLsbD 4 = true) :
    Runs (.pllLockLoss 0 4) s (fun t => t = { s with mgt := t.mgt, pcie := { s.pcie with linkUp := false } } ∧
      (mgtAt t 0).lol = satInc (mgtAt s 0).lol ∧ only 0 mgtAt s t) := by
  have hdone := doPllLockLoss_of_run hrun hlock fun _ => by decide
  refine ⟨_, (exec_pllLockLoss 0 4 s).trans (congrArg _ hdone), rfl, ?_, fun e he => ?_⟩
  · exact congrArg Mgt.lol (mgtAt_setMgt s 0 (pllLost (mgtAt s 0) 4))
  · exact sget_sput_other _ _ _ _ _ he

/-! ### The obligation -/

/-- Settles O18: a lemma for each stage of start-up, for the dies that fail one, for the load limit, and for each clock lost. -/
theorem startupAndClocks : Obligations.StartupAndClocks := by
  unfold Obligations.StartupAndClocks
  refine ⟨fun s hst hpor hfail hstage hzero r hfailed => runs_stage1 hst hpor hfail hfailed hstage hzero,
    fun s r hst hpor hfail hfailed hdefects hstage hscrubs => runs_stage2 hst hpor hfail hfailed hdefects hstage hscrubs,
    fun s r hst hpor hfail hfailed hstage => runs_stage3 hst hpor hfail hfailed hstage,
    fun s r hst hpor hfail hfailed hstage hwarm hdensity => runs_stage4 hst hpor hfail hfailed hstage hwarm hdensity,
    fun s r hst hpor hfail hfailed hverify hstage hready => runs_stage5 hst hpor hfail hfailed hverify hstage hready,
    fun s r hst hpor hfail hfailed hverify hstage hwait => exec_stage5_waits hst hpor hfail hfailed hverify hstage hwait,
    fun s r c hst hpor hfail hstage hfailed hc hzero _ => runs_die0Fails hst hpor hfail hstage hfailed hc hzero,
    fun s d c hd hlt hlive => dieFails_spec hd hlt hlive,
    fun s r hst => exec_startupStageDone_of_not_starting hst r,
    fun s hperst hretry hload hfail => ?limitFailed,
    fun s j hperst hretry hload _ => runs_powerUpLoadLimit hperst hretry hload,
    fun s hperst hretry hload hfail => ?limitIdle,
    fun s h => exec_powerUpLoadLimit_of_no_retry h,
    fun s d hd hrun => runs_refLoss hd hrun,
    fun s d pll hd hrun hsleep hpll hlock => runs_pllLockLoss hd hrun hsleep hpll hlock,
    fun s d hrun hsleep hlock => runs_pllLockLoss_links hrun hsleep hlock,
    fun s d pll h => exec_pllLockLoss_stopped h,
    fun s hrun => runs_refLoss_die0 hrun,
    fun s d hrun => exec_refLoss_stopped hrun,
    fun s pll hrun hsleep hpll hlock => runs_pllLockLoss_die0 hrun hsleep hpll hlock,
    fun s hrun hlock => runs_pllLockLoss_pcie hrun hlock⟩
  case limitFailed => rw [exec_powerUpLoadLimit_idle hperst hretry hload, if_pos hfail]
  case limitIdle => rw [exec_powerUpLoadLimit_idle hperst hretry hload, hfail, if_neg Bool.false_ne_true]

end Sys2Proof.Proofs
end
